-- ==== Sys2Proof/Word.lean ====
section
/-! DEFINITION. The words the S7 moves (R2, R7) and the sparse maps that hold its arrays.

Bit vectors hold what the manual shifts, masks or adds; addresses used as keys of memory are plain natural numbers. -/

namespace Sys2Proof

/-- One byte of memory (R2). -/
abbrev Byte := BitVec 8
/-- A 32-bit lane value or instruction word (R7, R300). -/
abbrev Word := BitVec 32
/-- A 64-bit uniform register, virtual address or special register (R7). -/
abbrev DWord := BitVec 64
/-- The widest access of one lane, SIZE q (R304). -/
abbrev QWord := BitVec 128

/-- A sparse array: pairs of index and value, indices strictly rising.  An index that is not listed
reads as the default its user names. -/
abbrev NMap (α : Type) := List (Nat × α)

/-- `sext(x, n)` of R6 at width `w`. -/
abbrev sext {n : Nat} (w : Nat) (x : BitVec n) : BitVec w := x.signExtend w
/-- `zext(x, n)` of R6 at width `w`. -/
abbrev zext {n : Nat} (w : Nat) (x : BitVec n) : BitVec w := x.setWidth w

end Sys2Proof
end

