-- ==== Sys2Proof/Syntax.lean ====
section
/-! DEFINITION. The instructions and events of the S7, one constructor per row of the operation table.

An instruction keeps EVERY bit of its words (reserved fields included), because the checks of R308 read them; its
class is the class of the clause that holds it (R295).  An event is a step the package or the outside world makes; what
it brings (a number naming the request, command or block it concerns, a register value, a message) stands beside it as
plain data, an `EvArg`, and each event's docstring says which fields it reads.  The events stand last and have no
fields of their own because the compiler numbers at most 245 constructors that have fields. -/

namespace Sys2Proof

/-! ### Shapes of instruction words -/

/-- A word in the lane layout of R300 and its literal word (zero when no selector names it, R301). -/
structure LaneW where
  vd : BitVec 7
  sa : BitVec 8
  sb : BitVec 8
  ea : Bool
  eb : Bool
  g : Bool
  lit : Word
  deriving DecidableEq, Repr

/-- The extension word of R305: a third source, its trap bit, and the bits the instruction defines. -/
structure SrcX where
  sc : BitVec 8
  ec : Bool
  hi : BitVec 23
  deriving DecidableEq, Repr

/-- The extension word of a class 3 instruction (R304); the atomics read `off` as AOP and OFF10. -/
structure MemX where
  size : BitVec 3
  sgn : Bool
  space : BitVec 3
  order : BitVec 3
  scope : BitVec 3
  reuse : BitVec 2
  inv : Bool
  notag : Bool
  off : BitVec 15
  deriving DecidableEq, Repr

/-- A word in the uniform layout of R302 and its literal word. -/
structure UniW where
  sd : BitVec 8
  sa : BitVec 8
  sb : BitVec 8
  ea : Bool
  eb : Bool
  lit : Word
  deriving DecidableEq, Repr

/-- REP (R307). -/
structure RepW where
  cnt : BitVec 6
  stepd : BitVec 2
  stepa : BitVec 2
  stepb : BitVec 2
  z : BitVec 14
  deriving DecidableEq, Repr

/-- BRA and SBR (R310). -/
structure BraW where
  pred : BitVec 3
  psense : Bool
  z1 : BitVec 3
  off : BitVec 16
  z2 : BitVec 3
  deriving DecidableEq, Repr

/-- BRX and RET (R429). -/
structure BrxW where
  vr : Bool
  z1 : BitVec 7
  sa : BitVec 8
  z2 : BitVec 8
  ea : Bool
  z3 : Bool
  lit : Word
  deriving DecidableEq, Repr

/-- CALL (R430). -/
structure CallW where
  lr : BitVec 7
  off : BitVec 16
  z : BitVec 3
  deriving DecidableEq, Repr

/-- SETMR with RF = 0, the label form (R431). -/
structure SetmrLW where
  vd : BitVec 7
  off : BitVec 16
  nd : Bool
  z : Bool
  deriving DecidableEq, Repr

/-- SETMR with RF = 1, the register form (R431). -/
structure SetmrRW where
  vd : BitVec 7
  src : BitVec 7
  z1 : BitVec 9
  nd : Bool
  z2 : Bool
  deriving DecidableEq, Repr

/-- LOOP (R432). -/
structure LoopW where
  lvl : BitVec 2
  z1 : BitVec 6
  sa : BitVec 8
  z2 : BitVec 8
  ea : Bool
  z3 : Bool
  lit : Word
  deriving DecidableEq, Repr

/-- LOOPBRK (R433). -/
structure BrkW where
  pred : BitVec 3
  psense : Bool
  lvl : BitVec 2
  z1 : Bool
  off : BitVec 16
  z2 : BitVec 3
  deriving DecidableEq, Repr

/-- TRAP and BKPT (R441). -/
structure CodeW where
  code : BitVec 16
  z : BitVec 10
  deriving DecidableEq, Repr

/-- MMA and MMAI (R396). -/
structure MmaW where
  ta : BitVec 6
  tb : BitVec 6
  aw : BitVec 5
  skip : Bool
  z0 : BitVec 8
  arow : BitVec 15
  z1 : Bool
  koff : BitVec 7
  kcnt : BitVec 7
  z2 : BitVec 2
  srow : BitVec 8
  sk : BitVec 8
  z3 : BitVec 16
  deriving DecidableEq, Repr

/-- MZERO (R400). -/
structure MzeroW where
  aw : BitVec 5
  m64 : Bool
  n64 : Bool
  z0 : BitVec 19
  arow : BitVec 15
  z1 : Bool
  srow : BitVec 8
  z2 : BitVec 8
  deriving DecidableEq, Repr

/-- SCLD (R401). -/
structure ScldW where
  tn : BitVec 6
  z0 : BitVec 20
  joff : BitVec 9
  jcnt : BitVec 9
  z1 : BitVec 14
  deriving DecidableEq, Repr

/-- MSTORE and MLOAD (R402). -/
structure MmoveW where
  tn : BitVec 6
  aw : BitVec 5
  fmt : BitVec 3
  rmode : BitVec 3
  sat : Bool
  tok : BitVec 3
  tkv : Bool
  z0 : BitVec 4
  arow : BitVec 15
  z1 : Bool
  srow : BitVec 8
  z2 : BitVec 8
  tl : BitVec 10
  tlv : Bool
  sv : BitVec 8
  z3 : BitVec 13
  deriving DecidableEq, Repr

/-- TREL, TACQ and MWAIT (R404); MWAIT's COUNT is the low six bits of `tl`. -/
structure TrelW where
  tn : BitVec 6
  z0 : BitVec 20
  tl : BitVec 10
  tlv : Bool
  sv : BitVec 8
  z1 : BitVec 13
  deriving DecidableEq, Repr

/-- Word 1 of a copy (R406). -/
structure CpyX where
  tok : BitVec 4
  tl : BitVec 10
  tlv : Bool
  sv : BitVec 8
  dt : BitVec 7
  z : BitVec 2
  deriving DecidableEq, Repr

/-- Word 2 of a copy (R406): the last 23 bits belong to the instruction. -/
structure CpyY where
  st : BitVec 7
  reuse : BitVec 2
  rest : BitVec 23
  deriving DecidableEq, Repr

/-! ### What the events carry -/

/-- The units that trained before full service (R29, R32, R33): the Vilbin ports among those connected, and the capacity that each CXL
port reports, of those populated (R22; 0 for one that is not, or that has failed). -/
structure TrainedUnits where
  clusters : BitVec 24
  hbm : BitVec 12
  ports : BitVec 24
  hearth1 : Bool
  caps : List Nat
  connected : BitVec 24 := 0
  populated : BitVec 4 := 0
  deriving DecidableEq, Repr

/-- Which host-visible register space a write names (R67, R123). -/
inductive RegSpace
  | bar0
  | nuntaok
  deriving DecidableEq, Repr

/-- What the power telemetry reports (R35). -/
inductive PowerEvent
  | over
  | clear
  | die110
  deriving DecidableEq, Repr

/-- What the error codes find when a line or word is read (R39, R41, R50, R53). -/
inductive EccOutcome
  | clean
  | corrected
  | uncorrectable
  | metaCorrected
  | metaUncorrectable
  deriving DecidableEq, Repr

/-- How an access over a capacity-tier port or a host link completes (R22, R274). -/
inductive LinkReply
  | ok (data : List Byte)
  | poison
  | timeout
  | linkFail
  | unsupported
  | abort
  | poisonRefused
  deriving DecidableEq, Repr

/-- An ATS translation completion (R87). -/
inductive AtsReply
  | granted (page : Nat) (r w : Bool)
  | denied
  deriving DecidableEq, Repr

/-- A PRI response (R87). -/
inductive PriReply
  | success
  | invalidRequest
  | responseFailure
  deriving DecidableEq, Repr

/-- SPDM 1.3 requests the responder distinguishes (R94). -/
inductive SpdmRequest
  | capabilities
  | algorithms
  | certificate (slot : Nat)
  | challenge
  | measurement (index : Nat)
  | keyExchange
  | keyManagement (link : Nat) (set : Bool)
  | endSession
  deriving DecidableEq, Repr

/-- The way a host access comes (R66, R71, R249): through CXL.mem by device physical address, through BAR2 by offset in the window,
or to a kick page of BAR4. -/
inductive HostWay
  | cxlMem
  | bar2
  | bar4
  deriving DecidableEq, Repr

/-- The AtomicOps that the device completes for the host (R24). -/
inductive HostAtomic
  | fetchAdd
  | swap
  | cas
  deriving DecidableEq, Repr

/-- A host access (R66, R249): its offset or address, its bytes, a write's data, and for an AtomicOp what it does (R24), where
`data` holds its operands in order (for CAS the compare value first). -/
structure HostAccess where
  way : HostWay
  off : Nat
  bytes : Nat
  write : Bool
  data : List Byte
  atom : Option HostAtomic := none
  deriving DecidableEq, Repr

/-- What a Vilbin message asks or answers (R15, R18, R20, R62, R88, R424): accesses and copies, answers, timestamps, a
contribution to a reduction window, the switches' result of a round of one, and bytes of a rank's part of a collective, from
an offset on. -/
inductive PeerOp
  | load (va : DWord) (size : Nat)
  | store (va : DWord) (data : List Byte)
  | atom (aop : BitVec 5) (size : Nat) (va : DWord) (b : QWord)
  | cas (size : Nat) (va : DWord) (cmp b : QWord)
  | copyRead (va : DWord) (bytes : Nat)
  | copyWrite (va : DWord) (poisoned : Bool) (data : List Byte)
  | answer (data : List Byte) (fail poisoned : Bool)
  | stamp (tick frame frameStart : DWord)
  | contrib (home : BitVec 16) (winid : Word) (elem rank size : Nat) (val : DWord)
  | merged (home : BitVec 16) (winid : Word) (elem round size : Nat) (val : DWord) (fail : Bool)
  | coll (group : Word) (seq : DWord) (off : Nat) (poisoned : Bool) (data : List Byte)
  deriving DecidableEq, Repr

/-- A Vilbin message (R16, R88, R133): sender, its message number, the context, the request tag, and what it asks. -/
structure PeerMsg where
  src : BitVec 16
  mseq : Word
  ctx : Nat
  tag : Nat
  op : PeerOp
  deriving DecidableEq, Repr

/-- What the package or the outside world brings to one event; each event reads only the fields its docstring names. -/
structure EvArg where
  a : Nat := 0
  b : Nat := 0
  c : Nat := 0
  v : DWord := 0
  v2 : DWord := 0
  v3 : DWord := 0
  q : QWord := 0
  flag : Bool := false
  flag2 : Bool := false
  img : Option (List Byte) := none
  up : TrainedUnits := { clusters := 0, hbm := 0, ports := 0, hearth1 := false, caps := [] }
  space : RegSpace := .bar0
  power : PowerEvent := .over
  msg : Option PeerMsg := none
  reply : LinkReply := .timeout
  host : HostAccess := { way := .cxlMem, off := 0, bytes := 0, write := false, data := [] }
  ats : AtsReply := .denied
  pri : PriReply := .success
  spdm : SpdmRequest := .capabilities
  ecc : EccOutcome := .clean
  deriving DecidableEq, Repr

/-! ### The instructions and events -/

/-- One constructor per row of the operation table: first the instruction words of R309, by class; then the steps a
unit of the package or the outside world makes. -/
inductive Instr where
  /-- NOP (R306): No operation, one issue cycle, in any class. -/
  | nop (z : BitVec 26)
  /-- REP (R307): Repeats the next instruction count times with register-field steps. -/
  | rep (w : RepW)
  /-- MOV (R326): Lane move. -/
  | mov (w : LaneW)
  /-- IADD (R325): 32-bit wrapping add. -/
  | iadd (w : LaneW)
  /-- ISUB (R325): 32-bit wrapping subtract. -/
  | isub (w : LaneW)
  /-- IADDS (R325): Signed saturating add. -/
  | iadds (w : LaneW)
  /-- ISUBS (R325): Signed saturating subtract. -/
  | isubs (w : LaneW)
  /-- IADDUS (R325): Unsigned saturating add. -/
  | iaddus (w : LaneW)
  /-- ISUBUS (R325): Unsigned saturating subtract. -/
  | isubus (w : LaneW)
  /-- IMUL (R325): Low 32 bits of the product. -/
  | imul (w : LaneW)
  /-- IMULH (R325): High 32 bits of the signed product. -/
  | imulh (w : LaneW)
  /-- IMULHU (R325): High 32 bits of the unsigned product. -/
  | imulhu (w : LaneW)
  /-- IMAD (R327): Multiply-add into vD. -/
  | imad (w : LaneW)
  /-- IMADW (R328): Widening multiply-add into a 64-bit pair. -/
  | imadw (w : LaneW)
  /-- IADD64 (R328): 64-bit pair add. -/
  | iadd64 (w : LaneW)
  /-- ISUB64 (R328): 64-bit pair subtract. -/
  | isub64 (w : LaneW)
  /-- INEG (R326): Two's-complement negate. -/
  | ineg (w : LaneW)
  /-- IABS (R326): Absolute value. -/
  | iabs (w : LaneW)
  /-- IMIN (R325): Signed minimum. -/
  | imin (w : LaneW)
  /-- IMAX (R325): Signed maximum. -/
  | imax (w : LaneW)
  /-- IMINU (R325): Unsigned minimum. -/
  | iminu (w : LaneW)
  /-- IMAXU (R325): Unsigned maximum. -/
  | imaxu (w : LaneW)
  /-- AND (R325): Bitwise and. -/
  | and (w : LaneW)
  /-- OR (R325): Bitwise or. -/
  | or (w : LaneW)
  /-- XOR (R325): Bitwise exclusive or. -/
  | xor (w : LaneW)
  /-- ANDN (R325): a and not b. -/
  | andn (w : LaneW)
  /-- ORN (R325): a or not b. -/
  | orn (w : LaneW)
  /-- SHL (R325): Logical shift left by the whole count. -/
  | shl (w : LaneW)
  /-- SHR (R325): Logical shift right. -/
  | shr (w : LaneW)
  /-- SAR (R325): Arithmetic shift right. -/
  | sar (w : LaneW)
  /-- ROTL (R325): Rotate left. -/
  | rotl (w : LaneW)
  /-- FSHL (R330): Funnel shift with a third source in an extension word. -/
  | fshl (w : LaneW) (x : SrcX)
  /-- BFE (R329): Signed bit-field extract. -/
  | bfe (w : LaneW)
  /-- BFEU (R329): Unsigned bit-field extract. -/
  | bfeu (w : LaneW)
  /-- BFI (R329): Bit-field insert into vD. -/
  | bfi (w : LaneW)
  /-- POPC (R326): Population count. -/
  | popc (w : LaneW)
  /-- CLZ (R326): Count leading zeros. -/
  | clz (w : LaneW)
  /-- CTZ (R326): Count trailing zeros. -/
  | ctz (w : LaneW)
  /-- BREV (R326): Bit reverse. -/
  | brev (w : LaneW)
  /-- PERMB (R327): Byte permutation from an eight-byte pool. -/
  | permb (w : LaneW)
  /-- CLMUL (R325): Low word of the carry-less product. -/
  | clmul (w : LaneW)
  /-- CLMULH (R325): High word of the carry-less product. -/
  | clmulh (w : LaneW)
  /-- IDOT4 (R327): Signed 4-way byte dot product accumulate. -/
  | idot4 (w : LaneW)
  /-- IDOT4U (R327): Unsigned 4-way byte dot product accumulate. -/
  | idot4u (w : LaneW)
  /-- ICMP (R331): Signed compare into a lane predicate. -/
  | icmp (w : LaneW)
  /-- ICMPU (R331): Unsigned compare into a lane predicate. -/
  | icmpu (w : LaneW)
  /-- PLOG (R332): Any function of two lane predicates by a 4-bit truth table. -/
  | plog (w : LaneW)
  /-- SEL (R333): Select a or b by the clause's guard predicate. -/
  | sel (w : LaneW)
  /-- SXT (R329): Sign-extend an n-bit field. -/
  | sxt (w : LaneW)
  /-- ZXT (R329): Zero-extend an n-bit field. -/
  | zxt (w : LaneW)
  /-- LEA (R328): 64-bit base plus sign-extended 32-bit index. -/
  | lea (w : LaneW)
  /-- MOVP_TO_REGISTER (R334): Move lane predicates into a register (DIR 0). -/
  | movpToRegister (w : LaneW)
  /-- MOVP_TO_PREDICATES (R334): Set masked lane predicates from a register (DIR 1). -/
  | movpToPredicates (w : LaneW)
  /-- FADD (R345): FP32 add. -/
  | fadd (w : LaneW)
  /-- FSUB (R345): FP32 subtract. -/
  | fsub (w : LaneW)
  /-- FMUL (R345): FP32 multiply. -/
  | fmul (w : LaneW)
  /-- FFMA (R345): FP32 fused multiply-add into vD. -/
  | ffma (w : LaneW)
  /-- FFMA3 (R346): FP32 fused multiply-add with a third source and static rounding. -/
  | ffma3 (w : LaneW) (x : SrcX)
  /-- FMIN (R347): FP32 minimum, NaN-propagating. -/
  | fmin (w : LaneW)
  /-- FMAX (R347): FP32 maximum, NaN-propagating. -/
  | fmax (w : LaneW)
  /-- FMINNUM (R347): FP32 minimumNumber. -/
  | fminnum (w : LaneW)
  /-- FMAXNUM (R347): FP32 maximumNumber. -/
  | fmaxnum (w : LaneW)
  /-- FABS (R347): Clear sign bits per WIDTH. -/
  | fabs (w : LaneW)
  /-- FNEG (R347): Invert sign bits per WIDTH. -/
  | fneg (w : LaneW)
  /-- FCMP (R348): FP32 compare into a lane predicate. -/
  | fcmp (w : LaneW)
  /-- FCLASS (R349): One-hot class mask of a float. -/
  | fclass (w : LaneW)
  /-- FRND (R350): Round to integral value. -/
  | frnd (w : LaneW)
  /-- FLDEXP (R345): Scale by a power of two. -/
  | fldexp (w : LaneW)
  /-- FGETEXP (R350): Unbiased exponent as an integer. -/
  | fgetexp (w : LaneW)
  /-- CVTFI (R351): Float to signed integer. -/
  | cvtfi (w : LaneW)
  /-- CVTFU (R351): Float to unsigned integer. -/
  | cvtfu (w : LaneW)
  /-- CVTIF (R351): Signed integer to float. -/
  | cvtif (w : LaneW)
  /-- CVTUF (R351): Unsigned integer to float. -/
  | cvtuf (w : LaneW)
  /-- CVTFF (R352): Conversion between FP32, FP16, BF16 and FP64. -/
  | cvtff (w : LaneW) (x : SrcX)
  /-- PACK8 (R353): Convert two FP32 values into packed FP8, FP6 or FP4 elements. -/
  | pack8 (w : LaneW) (x : SrcX)
  /-- UNPACK8 (R354): Widen two packed narrow elements. -/
  | unpack8 (w : LaneW) (x : SrcX)
  /-- HADD2 (R355): Packed FP16 add. -/
  | hadd2 (w : LaneW)
  /-- HMUL2 (R355): Packed FP16 multiply. -/
  | hmul2 (w : LaneW)
  /-- HFMA2 (R355): Packed FP16 fused multiply-add. -/
  | hfma2 (w : LaneW)
  /-- BADD2 (R355): Packed BF16 add. -/
  | badd2 (w : LaneW)
  /-- BMUL2 (R355): Packed BF16 multiply. -/
  | bmul2 (w : LaneW)
  /-- BFMA2 (R355): Packed BF16 fused multiply-add. -/
  | bfma2 (w : LaneW)
  /-- DADD (R356): FP64 add. -/
  | dadd (w : LaneW)
  /-- DMUL (R356): FP64 multiply. -/
  | dmul (w : LaneW)
  /-- DFMA (R356): FP64 fused multiply-add. -/
  | dfma (w : LaneW)
  /-- DMIN (R356): FP64 minimum. -/
  | dmin (w : LaneW)
  /-- DMAX (R356): FP64 maximum. -/
  | dmax (w : LaneW)
  /-- DCMP (R348): FP64 compare into a lane predicate. -/
  | dcmp (w : LaneW)
  /-- CVTDF (R351): FP64 to FP32. -/
  | cvtdf (w : LaneW)
  /-- CVTFD (R351): FP32 to FP64, exact. -/
  | cvtfd (w : LaneW)
  /-- FRCP (R357): Reciprocal. -/
  | frcp (w : LaneW)
  /-- FRSQ (R357): Reciprocal square root. -/
  | frsq (w : LaneW)
  /-- FSQRT (R357): Correctly rounded square root. -/
  | fsqrt (w : LaneW)
  /-- FEXP2 (R357): Power of two. -/
  | fexp2 (w : LaneW)
  /-- FLOG2 (R357): Base-2 logarithm. -/
  | flog2 (w : LaneW)
  /-- FSINPI (R357): sin(πx). -/
  | fsinpi (w : LaneW)
  /-- FCOSPI (R357): cos(πx). -/
  | fcospi (w : LaneW)
  /-- FTANH (R357): Hyperbolic tangent. -/
  | ftanh (w : LaneW)
  /-- TBLEVAL (R361): Evaluate the current activation table bound to the block. -/
  | tbleval (w : LaneW)
  /-- TBLLOAD (R360): Fill the non-current table bank from a 4,112-byte image. -/
  | tblload (w : LaneW)
  /-- SHFL (R364): Shuffle from an indexed member of the sub-group. -/
  | shfl (w : LaneW) (x : SrcX)
  /-- SHFLUP (R364): Shuffle from j members lower. -/
  | shflup (w : LaneW) (x : SrcX)
  /-- SHFLDN (R364): Shuffle from j members higher. -/
  | shfldn (w : LaneW) (x : SrcX)
  /-- SHFLX (R364): Shuffle from the XOR partner. -/
  | shflx (w : LaneW) (x : SrcX)
  /-- VOTEALL (R365): Predicate set when all active sub-group lanes are nonzero. -/
  | voteall (w : LaneW) (x : SrcX)
  /-- VOTEANY (R365): Predicate set when any active sub-group lane is nonzero. -/
  | voteany (w : LaneW) (x : SrcX)
  /-- BALLOT (R365): Mask of active lanes with nonzero value. -/
  | ballot (w : LaneW) (x : SrcX)
  /-- MATCH (R365): Mask of active lanes with equal value. -/
  | matchLane (w : LaneW) (x : SrcX)
  /-- ELECT (R365): Predicate set in the lowest active lane of each sub-group. -/
  | elect (w : LaneW) (x : SrcX)
  /-- REDADD (R366): Sub-group integer sum. -/
  | redadd (w : LaneW) (x : SrcX)
  /-- REDMIN (R366): Sub-group signed minimum. -/
  | redmin (w : LaneW) (x : SrcX)
  /-- REDMAX (R366): Sub-group signed maximum. -/
  | redmax (w : LaneW) (x : SrcX)
  /-- REDMINU (R366): Sub-group unsigned minimum. -/
  | redminu (w : LaneW) (x : SrcX)
  /-- REDMAXU (R366): Sub-group unsigned maximum. -/
  | redmaxu (w : LaneW) (x : SrcX)
  /-- REDAND (R366): Sub-group bitwise and. -/
  | redand (w : LaneW) (x : SrcX)
  /-- REDOR (R366): Sub-group bitwise or. -/
  | redor (w : LaneW) (x : SrcX)
  /-- REDXOR (R366): Sub-group bitwise xor. -/
  | redxor (w : LaneW) (x : SrcX)
  /-- FREDADD (R366): Sub-group FP32 sum in a fixed tree. -/
  | fredadd (w : LaneW) (x : SrcX)
  /-- FREDMAX (R366): Sub-group FP32 maximumNumber in a fixed tree. -/
  | fredmax (w : LaneW) (x : SrcX)
  /-- SCANADD (R367): Sub-group prefix sum. -/
  | scanadd (w : LaneW) (x : SrcX)
  /-- SCANXOR (R367): Sub-group prefix xor. -/
  | scanxor (w : LaneW) (x : SrcX)
  /-- SCANMAX (R367): Sub-group prefix signed maximum. -/
  | scanmax (w : LaneW) (x : SrcX)
  /-- LD (R371): Lane load. -/
  | ld (w : LaneW) (x : MemX)
  /-- ST (R371): Lane store. -/
  | st (w : LaneW) (x : MemX)
  /-- LDS (R371): Narrow-address scratchpad load. -/
  | lds (w : LaneW) (x : MemX)
  /-- STS (R371): Narrow-address scratchpad store. -/
  | sts (w : LaneW) (x : MemX)
  /-- ATOM (R372): Atomic read-modify-write returning the old value. -/
  | atom (w : LaneW) (x : MemX)
  /-- ATOMCAS (R374): Atomic compare-and-swap. -/
  | atomcas (w : LaneW) (x : MemX)
  /-- RED (R372): Atomic reduction with no return. -/
  | red (w : LaneW) (x : MemX)
  /-- ATOMS (R372): Scratchpad atomic with narrow base. -/
  | atoms (w : LaneW) (x : MemX)
  /-- ATOMSCAS (R374): Scratchpad compare-and-swap. -/
  | atomscas (w : LaneW) (x : MemX)
  /-- CADD (R375): Commutative contribution into the cluster's partial. -/
  | cadd (w : LaneW) (x : MemX)
  /-- FENCE (R376): Acquire, release, acq_rel or seq_cst fence at a scope. -/
  | fence (w : LaneW) (x : MemX)
  /-- CODEPUB (R377): Publish the warp's code writes under R244. -/
  | codepub (w : LaneW) (x : MemX)
  /-- WAITADDR (R378): Sleep at the home while the word equals the compare value. -/
  | waitaddr (w : LaneW) (x : MemX)
  /-- WAKEADDR (R379): Wake up to count enrolments at an address. -/
  | wakeaddr (w : LaneW) (x : MemX)
  /-- PREF (R381): Prefetch a line into the cluster cache. -/
  | pref (w : LaneW) (x : MemX)
  /-- WBL (R381): Write back a line held M or O. -/
  | wbl (w : LaneW) (x : MemX)
  /-- INVL (R381): Write back and invalidate a line in the cluster. -/
  | invl (w : LaneW) (x : MemX)
  /-- TAGLD (R382): Read a granule's memory tag. -/
  | tagld (w : LaneW) (x : MemX)
  /-- TAGST (R382): Set a granule's memory tag. -/
  | tagst (w : LaneW) (x : MemX)
  /-- ACCRD (R383): Read accumulator rows into lane registers. -/
  | accrd (w : LaneW) (x : MemX)
  /-- ACCWR (R383): Write lane registers into accumulator rows. -/
  | accwr (w : LaneW) (x : MemX)
  /-- BRA (R428): PC-relative branch on a lane predicate. -/
  | bra (w : BraW)
  /-- BRX (R429): Branch to an address in a register. -/
  | brx (w : BrxW)
  /-- CALL (R430): Call, writing the link. -/
  | call (w : CallW)
  /-- RET (R429): Return to an address in a register. -/
  | ret (w : BrxW)
  /-- SETMR_LABEL (R431): Set the meeting register to a PC-relative address (RF 0). -/
  | setmrLabel (w : SetmrLW)
  /-- SETMR_REGISTER (R431): Set the meeting register from a lane pair (RF 1). -/
  | setmrRegister (w : SetmrRW)
  /-- LOOP (R432): Open a hardware loop level with a trip count. -/
  | loop (w : LoopW)
  /-- LOOPBRK (R433): Leave a hardware loop level by branch. -/
  | loopbrk (w : BrkW)
  /-- EXIT (R435): End the lanes or stream. -/
  | exit (z : BitVec 26)
  /-- SMOV (R336): Uniform move. -/
  | smov (w : UniW)
  /-- SADD (R336): Uniform 64-bit add. -/
  | sadd (w : UniW)
  /-- SSUB (R336): Uniform subtract. -/
  | ssub (w : UniW)
  /-- SMUL (R336): Uniform multiply. -/
  | smul (w : UniW)
  /-- SAND (R336): Uniform and. -/
  | sand (w : UniW)
  /-- SOR (R336): Uniform or. -/
  | sor (w : UniW)
  /-- SXOR (R336): Uniform xor. -/
  | sxor (w : UniW)
  /-- SSHL (R336): Uniform shift left. -/
  | sshl (w : UniW)
  /-- SSHR (R336): Uniform logical shift right. -/
  | sshr (w : UniW)
  /-- SSAR (R336): Uniform arithmetic shift right. -/
  | ssar (w : UniW)
  /-- SMIN (R336): Uniform signed minimum. -/
  | smin (w : UniW)
  /-- SMAX (R336): Uniform signed maximum. -/
  | smax (w : UniW)
  /-- SCMP (R337): Uniform compare into a uniform predicate. -/
  | scmp (w : UniW)
  /-- SBR (R428): PC-relative branch on a uniform predicate. -/
  | sbr (w : BraW)
  /-- SLD (R339): Uniform 8-byte load. -/
  | sld (w : UniW)
  /-- SST (R339): Uniform 8-byte store. -/
  | sst (w : UniW)
  /-- V2S (R436): Move one lane's value to a uniform register. -/
  | v2s (w : UniW)
  /-- BARINIT (R385): Set a block barrier's participants. -/
  | barinit (w : UniW)
  /-- BAR (R387): Arrive at a block barrier and wait for the phase. -/
  | bar (w : UniW)
  /-- BARA (R387): Arrive at a block barrier without waiting. -/
  | bara (w : UniW)
  /-- BARW (R387): Wait for the phase of the last arrival. -/
  | barw (w : UniW)
  /-- TOKWAIT (R388): Wait until named tokens reach zero. -/
  | tokwait (w : UniW)
  /-- PHREG (R390): Register as a phaser member. -/
  | phreg (w : UniW)
  /-- PHDROP (R390): Drop phaser membership. -/
  | phdrop (w : UniW)
  /-- PHSIG (R390): Signal a phaser phase. -/
  | phsig (w : UniW)
  /-- PHWAIT (R390): Wait until the phaser counter exceeds p. -/
  | phwait (w : UniW)
  /-- PHNEXT (R390): Signal and wait for the phase. -/
  | phnext (w : UniW)
  /-- TLSIG (R391): Raise a timeline as a system release. -/
  | tlsig (w : UniW)
  /-- TLWAIT (R391): Wait until a timeline reaches v. -/
  | tlwait (w : UniW)
  /-- TLREAD (R391): Read a timeline relaxed. -/
  | tlread (w : UniW)
  /-- STAGE (R392): Raise the warp's stage mark. -/
  | stage (w : UniW)
  /-- SREAD (R437): Read a special register. -/
  | sread (w : UniW)
  /-- SWRITE (R437): Write a special register. -/
  | swrite (w : UniW)
  /-- SLOTQ (R440): Query the damper calendar for a resource. -/
  | slotq (w : UniW)
  /-- TRAP (R441): Raise SOFTWARE_TRAP with a code. -/
  | trap (w : CodeW)
  /-- BKPT (R441): Raise BREAKPOINT with a code. -/
  | bkpt (w : CodeW)
  /-- POOLB (R443): Move the warp's pool boundary. -/
  | poolb (w : UniW)
  /-- TRET (R442): Return from the trap handler. -/
  | tret (z : BitVec 26)
  /-- YIELD (R444): Give up the next scheduler selection. -/
  | yield (z : BitVec 26)
  /-- CFGBANK (R445): Change a cluster SRAM bank's mode. -/
  | cfgbank (w : UniW)
  /-- MMA (R398): Block-scaled bit-plane product accumulated in FP32. -/
  | mma (w : MmaW)
  /-- MMAI (R398): Bit-plane product accumulated in INT32. -/
  | mmai (w : MmaW)
  /-- MZERO (R400): Zero an accumulator tile. -/
  | mzero (w : MzeroW)
  /-- SCLD (R401): Copy tile scale columns into scale memory. -/
  | scld (w : ScldW)
  /-- MSTORE (R403): Store an accumulator tile into a scratchpad tile. -/
  | mstore (w : MmoveW)
  /-- MLOAD (R403): Load a scratchpad tile into accumulators. -/
  | mload (w : MmoveW)
  /-- TREL (R404): Release a ready tile to draining. -/
  | trel (w : TrelW)
  /-- TACQ (R404): Wait for a tile ready and acquire its fills. -/
  | tacq (w : TrelW)
  /-- MWAIT (R404): Wait until at most n class 5 instructions are outstanding. -/
  | mwait (w : TrelW)
  /-- CPY (R411): Byte copy, including peer and FIFO endpoints. -/
  | cpy (w : UniW) (x : CpyX) (y : CpyY)
  /-- CPYM (R413): Linear to Morton conversion copy. -/
  | cpym (w : UniW) (x : CpyX) (y : CpyY)
  /-- CPYP (R414): Convert values to bit planes with scales. -/
  | cpyp (w : UniW) (x : CpyX) (y : CpyY)
  /-- CPYX (R415): Expand bitmap-compressed data. -/
  | cpyx (w : UniW) (x : CpyX) (y : CpyY)
  /-- CPYR (R416): Copy memory into a warp's registers. -/
  | cpyr (w : UniW) (x : CpyX) (y : CpyY)
  /-- CPYMC (R417): Multicast into gang members' scratchpads. -/
  | cpymc (w : UniW) (x : CpyX) (y : CpyY)
  /-- CPYG (R418): Gather by index list. -/
  | cpyg (w : UniW) (x : CpyX) (y : CpyY)
  /-- CPYS (R418): Scatter by index list. -/
  | cpys (w : UniW) (x : CpyX) (y : CpyY)
  /-- COLL (R422): Launch a collective from a descriptor. -/
  | coll (w : UniW) (x : CpyX)
  /-- STAGEW (R420): Access stream waits for the stage counter. -/
  | stagew (w : UniW) (x : Word)
  /-- TSET (R419): Write a tile descriptor. -/
  | tset (w : UniW) (x1 x2 : Word)
  /-- CPYFILL (R412): Fill memory with a repeated pattern. -/
  | cpyfill (w : UniW) (x : CpyX) (y : CpyY)
  /-- POWER_ON (R29): 54 V becomes stable: the always-on island powers up, the package tick starts at 0 and the management sideband responds (stage 0). -/
  | powerOn
  /-- COLD_RESET (R28): A PCIe fundamental reset or a management cold-reset command loses HBM contents and restarts bring-up. -/
  | coldReset
  /-- FATAL_RESET (R28): MACHINE_CHECK, FIRMWARE_FAULT with no standby, or a die at 110 °C resets the package, leaving HBM undefined and requiring firmware re-delivery.  Argument: cause in `v`. -/
  | fatalReset
  /-- BOOT_ROM_START (R29): At tick 2,000,000 the boot ROM runs on the active control core and host-link training begins (stage 1). -/
  | bootRomStart
  /-- HOST_LINK_UP (R29): A host link finishes training and the device waits for firmware delivery (stage 2).  Argument: link in `a`, width in `b`. -/
  | hostLinkUp
  /-- FWCTL_GO (R92): A write of 1 to FWCTL.GO fetches the firmware image from FWADDR/FWLEN and starts its check; ignored while BUSY. -/
  | fwctlGo
  /-- FIRMWARE_CHECK_DONE (R93): The ordered checks of header, length, key digest, SVN and signature end, setting RESULT and REASON, or FWFAIL on failure.  Argument: img in `img`. -/
  | firmwareCheckDone
  /-- KINDLING_MODE_ENTER (R30): Within 50,000,000 ticks of verification, after boundary 0, stack 0 and cluster 0 have trained, the device accepts host commands in reduced service (stage 3). -/
  | kindlingModeEnter
  /-- FULL_SERVICE_ENTER (R32): At a frame boundary after the remaining units have trained, the device moves from stage 3 to stage 4 without disturbing running work.  Argument: up in `up`. -/
  | fullServiceEnter
  /-- RESETCTL_WARM (R28): A write of 1 to RESETCTL.WARM flushes host lines and starts a warm reset that keeps HBM and restarts at stage 1. -/
  | resetctlWarm
  /-- REGISTER_WRITE (R4): A write to a host-visible or Nuntaok register that has no row of its own updates its fields according to their Type.  Argument: space in `space`, off in `a`, v in `v`. -/
  | registerWrite
  /-- FRAME_BOUNDARY (R54): Every 65,536 ticks from ALIGN a new frame begins and its number advances by one. -/
  | frameBoundary
  /-- CALCTL_COMMIT (R59): A write of 1 to CALCTL.COMMIT submits the staged calendar at CALSRC for validation; ignored while BUSY.  Argument: v in `v`. -/
  | calctlCommit
  /-- CALENDAR_VALIDATION_DONE (R58): Validation of a submitted calendar ends; it is accepted with the next generation, or rejected whole with ENTRY and REASON. -/
  | calendarValidationDone
  /-- SLOT_START_TEST (R65): At a slot's start, or 64 ticks after a postponement, the slot runs if no command holds its resources, else it is postponed until its give is used up.  Argument: entry in `a`. -/
  | slotStartTest
  /-- SLOT_END (R64): A slot ends; its resources serve queued lane accesses and held engine commands are tested for admission again.  Argument: entry in `a`. -/
  | slotEnd
  /-- POD_TIMESTAMP_EXCHANGE (R62): A timestamp message on virtual channel 1 in a LINKCAL slot measures this device's tick offset from the pod reference.  Argument: port in `a`, refTick in `v`, refFrame in `v2`, refFrameStart in `v3`. -/
  | podTimestampExchange
  /-- POWER_LIMIT_CROSSED (R35): Input current or die temperature crosses a limit: POWER_EMERGENCY is raised on every context and core and cluster islands are throttled.  Argument: k in `power`. -/
  | powerLimitCrossed
  /-- VILBIN_FLIT_RECEIVE (R14): A 256-byte flit arrives on a Vilbin port; a CRC failure requests replay from that flit.  Argument: port in `a`, vc in `b`, crcOk in `flag`, msg in `msg`. -/
  | vilbinFlitReceive
  /-- FLIT_REPLAY_REQUEST (R14): A received replay request makes the sending port resend from its 64-flit replay buffer.  Argument: port in `a`, flit in `b`. -/
  | flitReplayRequest
  /-- VC_STOP_GO (R15): A stop or go message for one virtual channel stops or resumes the sender after at most 8 further flits.  Argument: port in `a`, vc in `b`, stop in `flag`. -/
  | vcStopGo
  /-- VILBIN_PORT_DOWN (R17): After 8 failed replays of one flit, or lane sparing with no spare, a port goes down, raising LINK_DOWN and failing its outstanding requests with FABRIC_ERROR.  Argument: port in `a`. -/
  | vilbinPortDown
  /-- INBOUND_MESSAGE (R16): A Vilbin request from a peer (load, store, atomic, copy read) is performed at this device's home and answered.  Argument: port in `a`. -/
  | inboundMessage
  /-- PEER_RESPONSE_RECEIVE (R88): A response or acknowledgement from a peer completes a peer access, or fails it with FABRIC_ERROR.  Argument: port in `a`. -/
  | peerResponseReceive
  /-- WINDOW_MERGED_RESULT (R20): A merged reduction-window result arrives at the home and is applied as one read-modify-write, recorded as a value for arrival-order windows.  Argument: slot in `a`, elem in `b`, round in `c`, m in `v`. -/
  | windowMergedResult
  /-- WINDOW_ROUND_TIMEOUT (R19): A round missing a contribution for 2^24 ticks is abandoned and its contributors' requests complete with FABRIC_ERROR.  Argument: slot in `a`, elem in `b`, round in `c`. -/
  | windowRoundTimeout
  /-- WINDOW_OPEN_ACK (R20): The switches acknowledge a window, completing its WINOPEN.  Argument: slot in `a`, mismatch in `flag`. -/
  | windowOpenAck
  /-- CAPACITY_TIER_COMPLETION (R22): An expander completion returns data, or poison, timeout or link failure completes the access with CAPACITY_TIER_ERROR.  Argument: req in `a`, r in `reply`. -/
  | capacityTierCompletion
  /-- HOST_SNOOP (R91): A host snoop to a line held modified by the device is answered with data, after write-back, or poisoned, by device state.  Argument: link in `a`, line in `b`. -/
  | hostSnoop
  /-- HOST_MEMORY_ACCESS (R66): A host read or write through BAR2 or CXL.mem reaches device memory at its home, or completes with Unsupported Request.  Argument: a in `host`. -/
  | hostMemoryAccess
  /-- HOST_LINK_COMPLETION (R274): A completion arrives for a device access to host memory; an error completion raises IO_ERROR.  Argument: req in `a`, r in `reply`. -/
  | hostLinkCompletion
  /-- ATS_COMPLETION (R87): An ATS translation completion arrives; a denial sends a PRI page request.  Argument: walk in `a`, r in `ats`. -/
  | atsCompletion
  /-- PRI_RESPONSE (R87): A PRI response retries the translation, writes a TRANSLATION_MISS record with HOSTPG, or turns PRI off for the link.  Argument: walk in `a`, r in `pri`. -/
  | priResponse
  /-- ATS_INVALIDATION_REQUEST (R87): A host ATS invalidation is completed once the guarantee of R86 holds for its range.  Argument: link in `a`, pasid in `v`, va in `v2`, bytes in `v3`. -/
  | atsInvalidationRequest
  /-- HOST_ATOMIC_CAS_ATTEMPT (R89): A CAS reply on the host-atomic path completes the atomic or retries, raising HOST_ATOMIC_RETRY after 64 retries.  Argument: req in `a`, seen in `q`. -/
  | hostAtomicCasAttempt
  /-- MANAGEMENT_SPDM_REQUEST (R94): An SPDM 1.3 request over MCTP or DOE is answered with capabilities, certificates, measurements or session setup.  Argument: m in `spdm`. -/
  | managementSpdmRequest
  /-- NUNTAOK_REQUEST (R122): A Nuntaok register read or write carried in a vendor MCTP message is performed inside a secured session, or refused outside one.  Argument: inSession in `flag`, write in `flag2`, off in `a`, v in `v`. -/
  | nuntaokRequest
  /-- HBM_ALERT (R38): The DRAM asserts ALERT for a parity error; the controller rewinds and reissues commands from its history buffer.  Argument: stack in `a`, cmd in `b`. -/
  | hbmAlert
  /-- HOME_ACCESS_SERVE (R223): A home serves an access to a line in its coherence order, applying ECC, metadata, poison and tag handling.  Argument: req in `a`, ecc in `ecc`. -/
  | homeAccessServe
  /-- MEMCFG_CACHE_WRITE (R48): A write of a new CACHE value starts a mode change, or is refused with REFUSED or KINDLING.  Argument: v in `v`. -/
  | memcfgCacheWrite
  /-- MEMCFG_CHANGE_DONE (R48): Dirty sets have been written back or the cache region discarded; BUSY returns to 0 and ACTIVE shows the new mode. -/
  | memcfgChangeDone
  /-- CTXCTL_KILL (R69): A write of 1 to CTXCTL.KILL kills the context with CONTEXT_KILLED.  Argument: c in `a`, v in `v`. -/
  | ctxctlKill
  /-- CTXCTL_EN_CLEAR (R69): Clearing CTXCTL.EN while ACTIVE is 1 kills the context.  Argument: c in `a`, v in `v`. -/
  | ctxctlEnClear
  /-- CTXCTL_EN_SET (R84): Setting CTXCTL.EN discards every cached translation of the context; ignored while ACTIVE remains set after a kill.  Argument: c in `a`, v in `v`. -/
  | ctxctlEnSet
  /-- CONTEXT_KILL (R69): A device-raised kill removes blocks, aborts engine commands, journals commands, frees FIFO banks and windows and sets KILLED and CAUSE.  Argument: c in `a`, cause in `v`. -/
  | contextKill
  /-- KILL_COMPLETE (R69): All effects of a kill have finished and CTXSTAT.ACTIVE reads 0.  Argument: c in `a`. -/
  | killComplete
  /-- CTXROOT_WRITE (R84): A write of CTXROOT, SVM or PASID while EN is 0 discards every cached translation of the context.  Argument: c in `a`, v in `v`. -/
  | ctxrootWrite
  /-- CTXRESUME_RETRY (R83): A write with KILLF 0 makes every access joined to fault FSEQ translate again and retry.  Argument: c in `a`, fseq in `v`. -/
  | ctxresumeRetry
  /-- CTXRESUME_KILL (R83): A write with KILLF 1 kills the context with CONTEXT_KILLED.  Argument: c in `a`, fseq in `v`. -/
  | ctxresumeKill
  /-- CTXINVAL_ALL (R86): A write of 1 to CTXINVAL.ALL starts invalidation of every translation of the context and sets BUSY.  Argument: c in `a`. -/
  | ctxinvalAll
  /-- INVALIDATION_COMPLETE (R86): No later access uses an old translation and every access that used one has completed; BUSY returns to 0.  Argument: inv in `a`. -/
  | invalidationComplete
  /-- WATCHDOG_EXPIRY (R68): A resident block's watchdog count passes LIMIT × 1,024 and the context is killed with WATCHDOG.  Argument: core in `a`, bctx in `b`. -/
  | watchdogExpiry
  /-- SQCTL_EN_SET (R70): Enabling a queue slot sets HEAD and TAIL to 0, or to checkpoint values on the first enable after replay starts.  Argument: slot in `a`, v in `v`. -/
  | sqctlEnSet
  /-- KICK_WRITE (R71): A 32-bit write to a kick page sets TAIL and the pending-kick bit, or is ignored with BADKICK.  Argument: off in `a`, bytes in `b`, v in `v`. -/
  | kickWrite
  /-- QUEUE_ENTRY_EXAMINE (R74): The dispatcher examines the entry at HEAD of a kicked slot, journals ACCEPT or REJECT, advances HEAD and dispatches, or sets WAITSEQ.  Argument: slot in `a`, linkErr in `flag`, img in `img`. -/
  | queueEntryExamine
  /-- RUNGRAPH (R99): Host command 1 arms the graph of the listed nodes and makes nodes with zero predecessors ready.  Argument: slot in `a`, seq in `v`, img in `img`, linkErr in `flag`. -/
  | rungraph
  /-- TLSIGNAL (R73): Host command 2 raises a timeline to ARG1 after earlier commands of the slot complete, as a system-scope release.  Argument: slot in `a`, seq in `v`. -/
  | tlsignal
  /-- HOST_TLWAIT (R73): Host command 3 holds dispatch of later commands of the slot until the timeline reaches ARG1.  Argument: slot in `a`, seq in `v`. -/
  | hostTlwait
  /-- MARKER (R73): Host command 4 stores ARG1 at ARG0 with system-scope release after earlier commands complete.  Argument: slot in `a`, seq in `v`. -/
  | marker
  /-- INVTLB (R73): Host command 5 invalidates the translations of a virtual range, completing when R86 holds.  Argument: slot in `a`, seq in `v`. -/
  | invtlb
  /-- WINOPEN (R20): Host command 6 opens a reduction window in a slot from a 64-byte descriptor, or fails with the listed cause.  Argument: slot in `a`, seq in `v`, img in `img`, linkErr in `flag`. -/
  | winopen
  /-- WINCLOSE (R20): Host command 7 closes a window slot once all its rounds are delivered or abandoned.  Argument: slot in `a`, seq in `v`. -/
  | winclose
  /-- COMMAND_COMPLETE (R73): A host command whose effect took time completes and is journaled COMPLETE or FAIL with its COOKIE.  Argument: slot in `a`, seq in `v`. -/
  | commandComplete
  /-- GANG_DISPATCH (R109): Every 8 ticks the kernel dispatcher chooses a dispatchable gang by priority, round-robin weight and pass count and places it. -/
  | gangDispatch
  /-- COPY_NODE_DISPATCH (R116): The copy dispatcher places a ready COPY node on a Splitter access context and a block context. -/
  | copyNodeDispatch
  /-- COLL_NODE_DISPATCH (R116): The collective dispatcher places a ready COLL node on the engine with the fewest running collectives. -/
  | collNodeDispatch
  /-- GANG_MAKE_RESIDENT (R114): An admitted or wakeable gang receives warp slots, pool rows and scale memory, parking lower-priority candidates if that suffices.  Argument: cluster in `a`. -/
  | gangMakeResident
  /-- BLOCK_PARK_COMPLETE (R286): After in-core producers, class 5 instructions and dirty FIFOs drain, the block's context image is written.  Argument: core in `a`, bctx in `b`. -/
  | blockParkComplete
  /-- BLOCK_RESTORE (R294): A wakeable block with no outstanding replies is loaded from its image and each party resumes or re-enters its blocking point.  Argument: core in `a`, bctx in `b`. -/
  | blockRestore
  /-- PARKED_REPLY_LANDING (R293): A reply for a parked block is written into its image and the outstanding-reply count falls.  Argument: req in `a`. -/
  | parkedReplyLanding
  /-- NODE_PRELOAD (R117): With PRELOAD, the preferred cluster's Splitter fetches the node's in and inout operands into the cluster cache.  Argument: node in `a`, slot in `b`. -/
  | nodePreload
  /-- NODE_COMPLETION_REPORT (R119): An executor or the control core queues a completed, skipped, COND or LOOP-step node in the completion queue.  Argument: node in `a`, slot in `b`. -/
  | nodeCompletionReport
  /-- FORWARDING_STEP (R119): The dispatch hardware notifies one successor live or skip and advances the entry's cursor indivisibly.  Argument: img in `img`, linkErr in `flag`. -/
  | forwardingStep
  /-- NODE_RETIRE (R119): The control core performs SIGTL for a fully forwarded node and completes its command if it was the last.  Argument: img in `img`, linkErr in `flag`. -/
  | nodeRetire
  /-- COND_EVALUATE (R105): A running COND node reads its predicate with system acquire and its successors are notified by SPLIT.  Argument: node in `a`, slot in `b`, img in `img`, linkErr in `flag`. -/
  | condEvaluate
  /-- LOOP_NODE_TEST (R106): A LOOP node tests its exit conditions, re-arms its body and notifies the entry, or exits and notifies its successors.  Argument: node in `a`, slot in `b`, img in `img`, linkErr in `flag`. -/
  | loopNodeTest
  /-- SIGNAL_NODE (R104): The control core raises timeline TL to TLVAL for a SIGNAL node.  Argument: node in `a`, slot in `b`. -/
  | signalNode
  /-- WAIT_NODE (R104): A WAIT node completes when timeline TL reaches TLVAL.  Argument: node in `a`, slot in `b`. -/
  | waitNode
  /-- HOSTCALL_NODE (R104): A HOSTCALL node stores NODEID and LAUNCHES at its mailbox with system release, then waits on its timeline.  Argument: node in `a`, slot in `b`. -/
  | hostcallNode
  /-- CONTROL_CORE_TAKEOVER (R120): An uncorrectable error in the active control core's memory makes the standby active; it replays the journal, rebuilds tables, sets kick bits, writes HEAD and TAKEOVER records and resumes. -/
  | controlCoreTakeover
  /-- TRANSLATION_WALK_COMPLETE (R82): A page walk ends, filling the TLBs or ending in TRANSLATION_MISS.  Argument: walk in `a`. -/
  | translationWalkComplete
  /-- RECORD_MODE_OFF (R123): A write of RECCTL.MODE = 0 closes every chunk with reason 10 and flushes pages, or ends replay after divergence.  Argument: v in `v`. -/
  | recordModeOff
  /-- RECORD_MODE_START (R123): A write of RECCTL.MODE = 1 resets chunk counters, HEAD and DSEQ, clears bitmaps and takes checkpoint 0.  Argument: v in `v`. -/
  | recordModeStart
  /-- REPLAY_MODE_START (R140): A write of RECCTL.MODE = 2 loads timelines, phasers, ready list and queue heads from the checkpoint and starts replay.  Argument: v in `v`. -/
  | replayModeStart
  /-- RECCTL_CKREQ (R138): A write of 1 to CKREQ stops dispatch and starts a checkpoint; ignored while BUSY.  Argument: v in `v`. -/
  | recctlCkreq
  /-- CHECKPOINT_COMPLETE (R138): Once no node runs, chunks close, the state block and CKPT record are written, CUR switches and dispatch resumes. -/
  | checkpointComplete
  /-- RECCTL_RESUME (R144): A write of 1 to RESUME ends a device halt.  Argument: v in `v`. -/
  | recctlResume
  /-- CHUNK_IDLE_CLOSE (R127): An agent's chunk with no operation for 65,536 ticks closes with CLOSE 9.  Argument: agent in `a`. -/
  | chunkIdleClose
  /-- CONFLICT_SIGNAL (R128): A conflict signal from a home closes the named open chunk with CLOSE 6.  Argument: agent in `a`, cseq in `v`. -/
  | conflictSignal
  /-- RECORDER_PAGE_WRITE (R130): A recorder writes a full 4 KiB page to the ash ring, wrapping or, under stop policy, stopping.  Argument: source in `a`. -/
  | recorderPageWrite
  /-- REPLAY_STALL_TIMEOUT (R143): No agent progresses for 2^24 ticks with the log not exhausted: divergence with REASON 7. -/
  | replayStallTimeout
  /-- REPLAY_MESSAGE_TIMEOUT (R142): A pod-replay message not arrived within 2^24 ticks is taken from its PAYLOAD record.  Argument: port in `a`, msg in `msg`. -/
  | replayMessageTimeout
  /-- TRACE_SERIES_LATCH (R146): At each tick that is a multiple of 2^K every powered island writes a SERIES record and clears its counters. -/
  | traceSeriesLatch
  /-- CRITICAL_PATH_SAMPLE (R147): At each multiple of 2^J each core writes a SAMPLE for each block's token holder that is issuing. -/
  | criticalPathSample
  /-- STEPCTL_HALT (R150): A write of 1 to STEPCTL.HALT stops every stream of the named block at its next instruction boundary.  Argument: v in `v`. -/
  | stepctlHalt
  /-- STEPCTL_STEP (R150): A write of 1 to STEPCTL.STEP issues one instruction in one or every sub-warp of the halted warp.  Argument: v in `v`. -/
  | stepctlStep
  /-- STEP_DONE (R151): When the stepped instructions' asynchronous work has drained, DONE, BLOCKED and CAUSE are set. -/
  | stepDone
  /-- STEPCTL_RUN (R150): A write of 1 to STEPCTL.RUN releases the halted block.  Argument: v in `v`. -/
  | stepctlRun
  /-- CLAUSE_ISSUE (R178): A warp selects its eligible sub-warp with the lowest lane, fetches and checks a clause whole and issues its words.  Argument: core in `a`, bctx in `b`, w in `c`, ecc in `ecc`, row in `v`. -/
  | clauseIssue
  /-- ASYNC_TRAP_DELIVER (R285): A pending asynchronous trap is taken by the target warp's lowest-lane sub-warp at its next clause boundary or at once if it waits.  Argument: core in `a`, bctx in `b`, w in `c`. -/
  | asyncTrapDeliver
  /-- REPLY_LANDING (R171): Load, atomic, WAITADDR or CPYR data lands in a register, filling it when all active lanes have landed, or raises a landing fault.  Argument: req in `a`. -/
  | replyLanding
  /-- STORE_ACKNOWLEDGE (R230): A home acknowledges a write, retiring its dirty-address FIFO entry and advancing pending releases.  Argument: req in `a`. -/
  | storeAcknowledge
  /-- BANK_REQUEST_SERVE (R194): A cluster SRAM bank serves the request at the head of its queue, for scratchpad, atomics or FIFO pushes and pops.  Argument: cluster in `a`, bank in `b`, ecc in `ecc`. -/
  | bankRequestServe
  /-- BANK_MODE_CHANGE_DONE (R192): A bank finishes disposing of its old contents and enters its new mode, re-decoding held requests.  Argument: cluster in `a`, bank in `b`. -/
  | bankModeChangeDone
  /-- ENGINE_SEGMENT_ADMIT (R64): A Splitter or collective engine admits a held copy or collective segment when its estimate fits before the next slot.  Argument: cmd in `a`. -/
  | engineSegmentAdmit
  /-- ENGINE_SEGMENT_COMPLETE (R216): A segment's writes take effect; on the last segment the command completes, decrementing its token, advancing its tile and raising its timeline.  Argument: cmd in `a`, err in `flag`, ecc in `ecc`, img in `img`. -/
  | engineSegmentComplete
  /-- WRITER_LIST_ROOM (R243): A fifth writer's write held at a home proceeds when a listed writer publishes.  Argument: req in `a`. -/
  | writerListRoom
  /-- STAGE_DEADLOCK_DETECT (R421): After 4,096 cycles of a block's stage deadlock, its access stream and pending copies are terminated with STAGE_DEADLOCK.  Argument: core in `a`, bctx in `b`. -/
  | stageDeadlockDetect
  /-- MATRIX_COMMAND_COMPLETE (R398): A Kiln MMA, MMAI, MZERO, SCLD, MLOAD or MSTORE completes, releasing its rows and signals.  Argument: cmd in `a`, err in `flag`. -/
  | matrixCommandComplete
  /-- TBLLOAD_FILL_COMPLETE (R360): A table fill completes and its bank becomes current under the new generation, or ends with POISON_CONSUMED.  Argument: core in `a`, img in `img`. -/
  | tblloadFillComplete
  /-- RELEASE_COMPLETE (R230): A release marker reaches the head of its dirty-address FIFO and the release or timeline raise takes effect.  Argument: rel in `a`. -/
  | releaseComplete
  /-- WAKEADDR_HOME_ACT (R379): After the warp's earlier writes to the line are acknowledged, a lane's wake acts at the home and wakes the oldest enrolments.  Argument: req in `a`. -/
  | wakeaddrHomeAct
  /-- CODEPUB_COMPLETE (R244): After earlier copies complete and the FIFO drains, the writer is removed from every writer list and the CODEPUB completes.  Argument: rel in `a`. -/
  | codepubComplete
  /-- COLLECTIVE_COMPLETE (R424): A collective's DST writes take effect and no peer still needs its SRC.  Argument: coll in `a`, peers in `peers`, img in `img`. -/
  | collectiveComplete
  /-- COLLECTIVE_PEER_TIMEOUT (R425): A peer contribution missing for 2^24 ticks ends the collective with FABRIC_ERROR.  Argument: coll in `a`. -/
  | collectivePeerTimeout
  /-- MANAGEMENT_WARM_RESET (R28): A warm-reset command received over the management sideband flushes host lines and starts a warm reset that keeps HBM and restarts at stage 1. -/
  | managementWarmReset
  /-- REPLAY_PAYLOAD_DELIVERY (R142): In replay, a port or the host agent delivers an inbound message or host write taken from its PAYLOAD record when its ARRIVAL or chunk turn comes.  Argument: agent in `a`, msg in `msg`, host in `host`. -/
  | replayPayloadDelivery
  /-- SPECIAL_FUNCTION_RESULT (R171): A class 2 special-function or TBLEVAL result lands in its destination register, which becomes full and releases any waiter.  Argument: res in `a`. -/
  | specialFunctionResult
  deriving DecidableEq, Repr

end Sys2Proof
end

