-- ==== Sys2Proof/Machine/Fields.lean ====
section
/-! DEFINITION. What each instruction uses its fields for: the operand forms of the lane and uniform words, which
selectors may name the literal word (R301, R303), and the reserved-field check of R308 step 3. -/

namespace Sys2Proof

/-- Bits `lo` to `lo + n - 1` of a word (R2). -/
def fld {m : Nat} (w : BitVec m) (lo n : Nat) : BitVec n := BitVec.ofNat n (w.toNat / 2 ^ lo)

/-- How a selector field of a lane word is used: unused (0x80 required), a 32-bit source, a 64-bit integer source, a
64-bit floating source, a 64-bit address base (all 64 bits of a uniform register, R304), a 128-bit group, or a field
that is no selector. -/
inductive SrcK where
  | un
  | w32
  | i64
  | f64
  | base
  | q128
  | ctl
  deriving DecidableEq, Repr

/-- The operand form of a lane instruction: its three selectors, the registers VD writes (`wr`) and reads (`rd`),
their alignment, whether the destination is marked empty at issue (R171), and whether REP may step it. -/
structure LaneForm where
  a : SrcK := .w32
  b : SrcK := .w32
  c : SrcK := .un
  wr : Nat := 1
  rd : Nat := 0
  al : Nat := 1
  long : Bool := false
  deriving DecidableEq, Repr

/-- A form that writes a 32-bit register from two 32-bit sources (R325). -/
def LaneForm.two : LaneForm := {}
/-- A form with one 32-bit source (R326). -/
def LaneForm.one : LaneForm := { b := .un }
/-- A form whose SB is a control byte (R343). -/
def LaneForm.ctlb : LaneForm := { b := .ctl }
/-- A form that writes a pair from pairs. -/
def LaneForm.pair (k : SrcK) : LaneForm := { a := k, b := k, wr := 2, al := 2 }

/-- Registers of a group of SIZE `s` (R369): one, an aligned pair, or an aligned four. -/
def groupOf (s : BitVec 3) : Nat := if s.toNat ≤ 2 then 1 else if s.toNat = 3 then 2 else 4

/-- The selector kind of a class 3 operand of SIZE `s` (R369). -/
def operandKind (s : BitVec 3) : SrcK := if s.toNat ≤ 2 then .w32 else if s.toNat = 3 then .i64 else .q128

/-- The form of a class 3 load-like word: a destination group (R369). -/
def memLoadForm (s : BitVec 3) (narrow : Bool) : LaneForm :=
  { a := if narrow then .w32 else .base, b := .w32, wr := groupOf s, al := groupOf s, long := true }

/-- The form of a class 3 store-like word: a data group (R369). -/
def memStoreForm (s : BitVec 3) (narrow : Bool) : LaneForm :=
  { a := if narrow then .w32 else .base, b := .w32, wr := 0, rd := groupOf s, al := groupOf s }

/-- The form of an atomic (R369): the operand in SB, the old value to VD where one returns. -/
def atomForm (s : BitVec 3) (narrow returns compares : Bool) : LaneForm :=
  { a := if narrow then .w32 else .base, b := operandKind s, wr := if returns then groupOf s else 0,
    rd := if compares then groupOf s else 0, al := if returns then groupOf s else 1, long := returns }

/-- The operand form of each lane instruction (classes 0 to 3: R325 to R334, R343 to R368, R369). -/
def laneForm : Instr → LaneForm
  | .mov _ | .ineg _ | .iabs _ | .popc _ | .clz _ | .ctz _ | .brev _ => .one
  | .imad _ | .idot4 _ | .idot4u _ | .permb _ | .bfi _ => { rd := 1 }
  | .iadd64 _ | .isub64 _ => .pair .i64
  | .imadw _ => { wr := 2, rd := 2, al := 2 }
  | .lea _ => { a := .i64, wr := 2, al := 2 }
  | .fshl _ _ | .ffma3 _ _ => { c := .w32 }
  | .icmp w | .icmpu w =>
    if w.vd.getLsbD 6 then { a := .i64, b := .i64, wr := 0 } else { wr := 0 }
  | .plog _ => { a := .ctl, b := .ctl, wr := 0 }
  | .movpToRegister _ => { a := .un, b := .ctl }
  | .movpToPredicates _ => { b := .ctl, wr := 0 }
  | .ffma _ | .hfma2 _ | .bfma2 _ => { rd := 1 }
  | .fabs w | .fneg w =>
    if w.sb.toNat % 4 = 2 then { a := .f64, b := .ctl, wr := 2, al := 2 } else .ctlb
  | .fcmp _ => { wr := 0 }
  | .dcmp _ => { a := .f64, b := .f64, wr := 0 }
  | .fclass w => if w.sb.toNat % 4 = 1 then { a := .f64, b := .ctl } else .ctlb
  | .frnd w => if w.sb.getLsbD 3 then { a := .f64, b := .ctl, wr := 2, al := 2 } else .ctlb
  | .fgetexp w => if w.sb.getLsbD 0 then { a := .f64, b := .ctl } else .ctlb
  | .cvtfi w | .cvtfu w =>
    { a := if w.sb.getLsbD 4 then .f64 else .w32, b := .ctl, wr := if w.sb.getLsbD 3 then 2 else 1,
      al := if w.sb.getLsbD 3 then 2 else 1 }
  | .cvtif w | .cvtuf w =>
    { a := if w.sb.getLsbD 3 then .i64 else .w32, b := .ctl, wr := if w.sb.getLsbD 4 then 2 else 1,
      al := if w.sb.getLsbD 4 then 2 else 1 }
  | .cvtdf _ => { a := .f64, b := .ctl }
  | .cvtfd _ => { b := .ctl, wr := 2, al := 2 }
  | .cvtff _ x =>
    let sf := (fld x.sc 0 2).toNat
    let df := (fld x.sc 2 2).toNat
    { a := if sf = 3 then .f64 else .w32, b := .un, wr := if df = 3 then 2 else 1, al := if df = 3 then 2 else 1,
      rd := if df = 1 ∨ df = 2 then 1 else 0 }
  | .pack8 _ _ => { rd := 1 }
  | .unpack8 _ x =>
    if (fld x.sc 5 2).toNat = 0 then { b := .un, wr := 2, al := 2 } else .one
  | .dadd _ | .dmul _ | .dmin _ | .dmax _ => .pair .f64
  | .dfma _ => { a := .f64, b := .f64, wr := 2, rd := 2, al := 2 }
  | .frcp _ | .frsq _ | .fsqrt _ | .fexp2 _ | .flog2 _ | .fsinpi _ | .fcospi _ | .ftanh _ | .tbleval _ =>
    { b := .un, long := true }
  | .tblload _ => { a := .base, b := .un, wr := 0 }
  | .voteall _ _ | .voteany _ _ => { b := .un, wr := 0 }
  | .elect _ _ => { a := .un, b := .un, wr := 0 }
  | .ballot _ _ | .matchLane _ _ => .one
  | .redadd _ _ | .redmin _ _ | .redmax _ _ | .redminu _ _ | .redmaxu _ _ | .redand _ _ | .redor _ _ | .redxor _ _
  | .fredadd _ _ | .fredmax _ _ | .scanadd _ _ | .scanxor _ _ | .scanmax _ _ => .one
  | .ld _ x => memLoadForm x.size false
  | .lds _ x => memLoadForm x.size true
  | .st _ x => memStoreForm x.size false
  | .sts _ x => memStoreForm x.size true
  | .atom _ x => atomForm x.size false true false
  | .atoms _ x => atomForm x.size true true false
  | .atomcas _ x => atomForm x.size false true true
  | .atomscas _ x => atomForm x.size true true true
  | .red _ x | .cadd _ x => atomForm x.size false false false
  | .fence _ _ | .codepub _ _ => { a := .un, b := .un, wr := 0 }
  | .waitaddr _ x => atomForm x.size false true false
  | .wakeaddr _ x => atomForm x.size false false false
  | .pref _ _ | .wbl _ _ | .invl _ _ => { a := .base, wr := 0 }
  | .tagld _ _ => { a := .base, long := true }
  | .tagst _ _ => { a := .base, wr := 0, rd := 1 }
  | .accrd _ x => { b := .ctl, wr := 2 ^ x.size.toNat }
  | .accwr _ x => { b := .ctl, wr := 0, rd := 2 ^ x.size.toNat }
  | _ => .two

/-- The lane word of a class 0 to 3 instruction. -/
def laneWord? : Instr → Option LaneW
  | .mov w | .iadd w | .isub w | .iadds w | .isubs w | .iaddus w | .isubus w | .imul w | .imulh w | .imulhu w
  | .imad w | .imadw w | .iadd64 w | .isub64 w | .ineg w | .iabs w | .imin w | .imax w | .iminu w | .imaxu w
  | .and w | .or w | .xor w | .andn w | .orn w | .shl w | .shr w | .sar w | .rotl w | .fshl w _ | .bfe w | .bfeu w
  | .bfi w | .popc w | .clz w | .ctz w | .brev w | .permb w | .clmul w | .clmulh w | .idot4 w | .idot4u w | .icmp w
  | .icmpu w | .plog w | .sel w | .sxt w | .zxt w | .lea w | .movpToRegister w | .movpToPredicates w
  | .fadd w | .fsub w | .fmul w | .ffma w | .ffma3 w _ | .fmin w | .fmax w | .fminnum w | .fmaxnum w | .fabs w
  | .fneg w | .fcmp w | .fclass w | .frnd w | .fldexp w | .fgetexp w | .cvtfi w | .cvtfu w | .cvtif w | .cvtuf w
  | .cvtff w _ | .pack8 w _ | .unpack8 w _ | .hadd2 w | .hmul2 w | .hfma2 w | .badd2 w | .bmul2 w | .bfma2 w
  | .dadd w | .dmul w | .dfma w | .dmin w | .dmax w | .dcmp w | .cvtdf w | .cvtfd w
  | .frcp w | .frsq w | .fsqrt w | .fexp2 w | .flog2 w | .fsinpi w | .fcospi w | .ftanh w | .tbleval w | .tblload w
  | .shfl w _ | .shflup w _ | .shfldn w _ | .shflx w _ | .voteall w _ | .voteany w _ | .ballot w _ | .matchLane w _
  | .elect w _ | .redadd w _ | .redmin w _ | .redmax w _ | .redminu w _ | .redmaxu w _ | .redand w _ | .redor w _
  | .redxor w _ | .fredadd w _ | .fredmax w _ | .scanadd w _ | .scanxor w _ | .scanmax w _
  | .ld w _ | .st w _ | .lds w _ | .sts w _ | .atom w _ | .atomcas w _ | .red w _ | .atoms w _ | .atomscas w _
  | .cadd w _ | .fence w _ | .codepub w _ | .waitaddr w _ | .wakeaddr w _ | .pref w _ | .wbl w _ | .invl w _
  | .tagld w _ | .tagst w _ | .accrd w _ | .accwr w _ => some w
  | _ => none

/-- Whether a selector kind is a selector at all, so that 0xFF names the literal word (R301, R303). -/
def SrcK.isSel : SrcK → Bool
  | .ctl => false
  | _ => true

/-- The reserved rule of one selector: an unused one holds 0x80 with its trap bit 0 (R323), and a trap bit is never
set on the literal (R301); a field that is no selector has its trap bit 0 (R343, R334). -/
def SrcK.ok (k : SrcK) (sel : BitVec 8) (trap : Bool) : Bool :=
  match k with
  | .un => sel == 0x80 && !trap
  | .ctl => !trap
  | .q128 => sel.toNat < 128
  | _ => !(sel == 0xFF && trap)

/-- RMODE 0 to 4 of a control byte or field (R256, R343). -/
def rmodeOk (m : BitVec 3) : Bool := decide (m.toNat ≤ 4)

/-- The AOP values of R373 for SIZE w or d. -/
def aopOk (aop : BitVec 5) : Bool := decide (aop.toNat ≤ 13)

/-- The AOP and OFF10 of an atomic's extension word (R304): bits [21:17] and [31:22]. -/
def MemX.aop (x : MemX) : BitVec 5 := fld x.off 0 5
/-- OFF10 (R304). -/
def MemX.off10 (x : MemX) : BitVec 10 := fld x.off 5 10

/-- The reserved rules common to class 3 accesses (R369, R370): allowed sizes and orders, SPACE, SCOPE, SIGNED, INV
(R234) and NOTAG. -/
def memResOk (x : MemX) (sizes orders spaces : List Nat) (sgnOk invOk notagOk : Bool) : Bool :=
  sizes.contains x.size.toNat && orders.contains x.order.toNat && spaces.contains x.space.toNat
    && decide (x.scope.toNat ≤ 4) && (!x.sgn || (sgnOk && decide (x.size.toNat ≤ 1)))
    && (!x.inv || (invOk && x.order == 0)) && (!x.notag || notagOk)

/-- The reserved rules of each class 0 to 3 instruction beyond its selectors. -/
def laneExtraOk : Instr → Bool
  | .fshl _ x => x.hi == 0
  | .ffma3 _ x => decide ((fld x.hi 0 3).toNat ≤ 4) && fld x.hi 3 20 == 0
  | .icmp w | .icmpu w => decide ((fld w.vd 3 3).toNat ≤ 5)
  | .plog w => fld w.sa 3 5 == 0 && fld w.sb 3 5 == 0
  | .sel w => !w.g
  | .movpToRegister w => w.sb == 0
  | .movpToPredicates w => w.sb == 1
  | .fabs w | .fneg w => fld w.sb 2 6 == 0 && decide (w.sb.toNat ≤ 2)
  | .fclass w => fld w.sb 2 6 == 0
  | .frnd w => rmodeOk (fld w.sb 0 3) && fld w.sb 4 4 == 0
  | .fgetexp w => fld w.sb 1 7 == 0
  | .cvtfi w | .cvtfu w | .cvtif w | .cvtuf w => rmodeOk (fld w.sb 0 3) && fld w.sb 5 3 == 0
  | .cvtdf w => rmodeOk (fld w.sb 0 3) && fld w.sb 3 5 == 0
  | .cvtfd w => w.sb == 0
  | .fcmp w | .dcmp w => decide ((fld w.vd 3 4).toNat ≤ 13)
  | .cvtff _ x =>
    let sf := (fld x.sc 0 2).toNat
    let df := (fld x.sc 2 2).toNat
    let half (k : Nat) : Bool := k == 1 || k == 2
    let rm := (fld x.sc 6 2).toNat + (if x.ec then 4 else 0)
    decide (sf ≠ df) && (half sf || !x.sc.getLsbD 4) && (half df || !x.sc.getLsbD 5)
      && (decide (rm ≤ 4) || (rm == 5 && half df)) && fld x.hi 1 22 == 0
  | .pack8 _ x =>
    let fmt := (fld x.sc 0 3).toNat
    let pos := (fld x.sc 3 2).toNat
    let rm := (fld x.sc 5 3).toNat
    decide (fmt ≤ 4) && (fmt == 4 || decide (pos ≤ 1)) && (decide (rm ≤ 4) || (rm == 5 && decide (fmt ≤ 1)))
      && x.hi == 0
  | .unpack8 _ x =>
    let fmt := (fld x.sc 0 3).toNat
    decide (fmt ≤ 4) && (fmt == 4 || decide ((fld x.sc 3 2).toNat ≤ 1)) && decide ((fld x.sc 5 2).toNat ≤ 2)
      && fld x.sc 7 1 == 0 && !x.ec && x.hi == 0
  | .tblload w => w.vd == 0 && decide (0x81 ≤ w.sa.toNat) && decide (w.sa.toNat ≤ 0xFE)
  | .shfl _ x | .shflup _ x | .shfldn _ x | .shflx _ x =>
    decide ((fld x.sc 0 2).toNat ≤ 2) && fld x.sc 2 6 == 0 && !x.ec && decide ((fld x.hi 0 3).toNat ≤ 5)
      && fld x.hi 4 19 == 0
  | .voteall w x | .voteany w x | .elect w x =>
    fld w.vd 3 4 == 0 && x.sc == 0 && !x.ec && decide ((fld x.hi 0 3).toNat ≤ 5) && fld x.hi 4 19 == 0
  | .ballot _ x | .matchLane _ x | .redadd _ x | .redmin _ x | .redmax _ x | .redminu _ x | .redmaxu _ x
  | .redand _ x | .redor _ x | .redxor _ x | .fredadd _ x | .fredmax _ x =>
    x.sc == 0 && !x.ec && decide ((fld x.hi 0 3).toNat ≤ 5) && fld x.hi 4 19 == 0
  | .scanadd _ x | .scanxor _ x | .scanmax _ x =>
    x.sc == 0 && !x.ec && decide ((fld x.hi 0 3).toNat ≤ 5) && fld x.hi 5 18 == 0
  | .ld _ x => memResOk x [0, 1, 2, 3, 4] [0, 1] [0, 1, 2, 3, 4, 5] true true true
  | .lds _ x => memResOk x [0, 1, 2, 3, 4] [0, 1] [2, 3] true true true
  | .st _ x => memResOk x [0, 1, 2, 3, 4] [0, 2] [0, 1, 2, 3, 4, 5] false false true
  | .sts _ x => memResOk x [0, 1, 2, 3, 4] [0, 2] [2, 3] false false true
  | .atom _ x => memResOk x [2, 3] [0, 1, 2, 3] [0, 1, 2, 3, 4, 5] false false true && aopOk x.aop
  | .atoms _ x => memResOk x [2, 3] [0, 1, 2, 3] [2, 3] false false true && aopOk x.aop
  | .atomcas _ x => memResOk x [2, 3, 4] [0, 1, 2, 3] [0, 1, 2, 3, 4, 5] false false true && x.aop == 0
  | .atomscas _ x => memResOk x [2, 3, 4] [0, 1, 2, 3] [2, 3] false false true && x.aop == 0
  | .red w x => memResOk x [2, 3] [0, 2] [0, 1, 2, 3, 4, 5] false false true && aopOk x.aop && w.vd == 0
  | .cadd w x => memResOk x [2, 3] [0, 2] [0, 1, 2, 3, 4, 5] false false true && x.aop == 0 && w.vd == 0
  | .fence w x =>
    memResOk x [0] [1, 2, 3, 4] [0] false false false && x.reuse == 0 && x.off == 0 && w.vd == 0
  | .codepub w x => memResOk x [0] [2] [0] false false false && x.reuse == 0 && x.off == 0 && w.vd == 0
  | .waitaddr _ x => memResOk x [2, 3] [0, 1] [0] false false true
  | .wakeaddr w x => memResOk x [2, 3] [0] [0, 1, 2, 3, 4, 5] false false true && w.vd == 0
  | .pref w x => memResOk x [0] [0] [0, 1] false false false && x.scope == 0 && w.vd == 0
  | .wbl w x | .invl w x =>
    memResOk x [0] [0] [0, 1] false false false && x.scope == 0 && x.reuse == 0 && w.vd == 0
  | .tagld _ x | .tagst _ x =>
    memResOk x [0] [0] [0, 1] false false false && x.scope == 0 && x.reuse == 0
  | .accrd w x | .accwr w x =>
    memResOk x [0, 1, 2, 3, 4] [0] [0] false false false && x.scope == 0 && x.reuse == 0
      && decide (0x80 ≤ w.sa.toNat) && fld w.sb 5 3 == 0
  | _ => true

/-- The third selector of an instruction that has one (R305): FSHL (R330) and FFMA3 (R346). -/
def thirdSel : Instr → Option (BitVec 8 × Bool)
  | .fshl _ x | .ffma3 _ x => some (x.sc, x.ec)
  | _ => none

/-- How a field of a uniform word is used (R302, R335, R384): a source, an unused selector, or a field; and for SD a
destination, or data that is read. -/
inductive UniK where
  | src
  | un
  | fld
  | dst
  | data
  deriving DecidableEq, Repr

/-- The operand form of a uniform word: SD, SA8, SB8. -/
structure UniForm where
  d : UniK
  a : UniK
  b : UniK
  deriving DecidableEq, Repr

/-- The operand forms of classes 4 and 6 in the uniform layout (R336 to R339, R384, R436 to R445, R406 to R422). -/
def uniForm : Instr → UniForm
  | .smov _ => ⟨.dst, .src, .un⟩
  | .scmp _ => ⟨.fld, .src, .src⟩
  | .sld _ => ⟨.dst, .src, .src⟩
  | .sst _ => ⟨.data, .src, .src⟩
  | .v2s _ => ⟨.dst, .fld, .src⟩
  | .barinit _ => ⟨.fld, .src, .fld⟩
  | .bar _ | .bara _ | .barw _ | .tokwait _ => ⟨.fld, .fld, .fld⟩
  | .phreg _ => ⟨.dst, .src, .fld⟩
  | .phdrop _ => ⟨.fld, .src, .fld⟩
  | .phsig _ | .phnext _ | .tlread _ => ⟨.dst, .src, .fld⟩
  | .phwait _ | .tlwait _ => ⟨.dst, .src, .src⟩
  | .tlsig _ => ⟨.fld, .src, .src⟩
  | .stage _ | .poolb _ | .cfgbank _ => ⟨.fld, .src, .fld⟩
  | .sread w => ⟨if w.eb then .fld else .dst, .fld, .fld⟩
  | .swrite w => ⟨.fld, if w.eb then .fld else .src, .fld⟩
  | .slotq _ => ⟨.dst, .src, .fld⟩
  | .cpy _ _ _ | .cpym _ _ _ | .cpyp _ _ _ | .cpyx _ _ _ | .cpymc _ _ _ | .cpyg _ _ _ | .cpys _ _ _
  | .cpyfill _ _ _ => ⟨.data, .src, .src⟩
  | .cpyr _ _ _ => ⟨.data, .src, .fld⟩
  | .coll _ _ | .stagew _ _ => ⟨.fld, .src, .fld⟩
  | .tset _ x1 _ => ⟨.fld, .src, if x1.getLsbD 7 then .src else .fld⟩
  | _ => ⟨.dst, .src, .src⟩

/-- The uniform word of an instruction in the uniform layout. -/
def uniWord? : Instr → Option UniW
  | .smov w | .sadd w | .ssub w | .smul w | .sand w | .sor w | .sxor w | .sshl w | .sshr w | .ssar w | .smin w
  | .smax w | .scmp w | .sld w | .sst w | .v2s w | .barinit w | .bar w | .bara w | .barw w | .tokwait w | .phreg w
  | .phdrop w | .phsig w | .phwait w | .phnext w | .tlsig w | .tlwait w | .tlread w | .stage w | .sread w | .swrite w
  | .slotq w | .poolb w | .cfgbank w | .cpy w _ _ | .cpym w _ _ | .cpyp w _ _ | .cpyx w _ _ | .cpyr w _ _
  | .cpymc w _ _ | .cpyg w _ _ | .cpys w _ _ | .coll w _ | .stagew w _ | .tset w _ _ | .cpyfill w _ _ => some w
  | _ => none

/-- Word 1 of a copy or COLL (R406). -/
def cpyX? : Instr → Option CpyX
  | .cpy _ x _ | .cpym _ x _ | .cpyp _ x _ | .cpyx _ x _ | .cpyr _ x _ | .cpymc _ x _ | .cpyg _ x _ | .cpys _ x _
  | .coll _ x | .cpyfill _ x _ => some x
  | _ => none

/-- The reserved rule of a selector of a uniform word: its trap bit is never set on the literal, on an unused selector
or on a field. -/
def UniK.ok (k : UniK) (sel : BitVec 8) (trap : Bool) : Bool :=
  match k with
  | .src => !(sel == 0xFF && trap)
  | .un => sel == 0 && !trap
  | _ => !trap

/-- A tile field of a copy: t0 to t63, or 127 for none (R406). -/
def tileFieldOk (t : BitVec 7) : Bool := decide (t.toNat ≤ 63) || t == 127

/-- The common reserved rules of word 1 of a copy (R406): TOK, TL and SV without TLV, DT. -/
def cpyXOk (x : CpyX) : Bool :=
  (decide (x.tok.toNat ≤ 7) || x.tok == 15) && (x.tlv || (x.tl == 0 && x.sv == 0)) && tileFieldOk x.dt && x.z == 0

/-- The source formats of CPYP and CPYX (R414, R415). -/
def sfmtOk (f : BitVec 4) (mx : Bool) : Bool :=
  decide (f.toNat ≤ 10) && (!mx || (decide (3 ≤ f.toNat) && decide (f.toNat ≤ 7)))

/-- The reserved rules of the uniform words beyond their selectors: fields marked zero and reserved values (R384,
R393, R405, R426, R447). -/
def uniExtraOk : Instr → Bool
  | .scmp w => !w.sd.getLsbD 7 && decide ((fld w.sd 3 3).toNat ≤ 5)
  | .v2s w => !w.ea
  | .barinit w => fld w.sd 4 4 == 0 && w.sb == 0
  | .bar w | .bara w | .barw w => fld w.sd 4 4 == 0 && w.sa == 0 && w.sb == 0
  | .tokwait w => w.sa == 0 && w.sb == 0
  | .phreg w => decide ((fld w.sb 0 2).toNat ≤ 2) && fld w.sb 2 6 == 0
  | .phdrop w => w.sd == 0 && w.sb == 0
  | .phsig w | .phnext w | .tlread w | .slotq w => w.sb == 0
  | .tlsig w => w.sd == 0
  | .stage w | .poolb w | .cfgbank w => w.sd == 0 && w.sb == 0
  | .sread w => w.sa == 0 && !w.ea && (!w.eb || !w.sd.getLsbD 7)
  | .swrite w => w.sd == 0 && (!w.eb || !w.sa.getLsbD 7)
  | .cpy _ x y =>
    cpyXOk x && tileFieldOk y.st && !(y.rest.getLsbD 0 && y.rest.getLsbD 1) && fld y.rest 18 5 == 0
  | .cpym _ x y => cpyXOk x && tileFieldOk y.st && fld y.rest 1 22 == 0
  | .cpyp w x y =>
    cpyXOk x && tileFieldOk y.st && sfmtOk (fld y.rest 0 4) (y.rest.getLsbD 4) && fld y.rest 6 17 == 0
      && (y.rest.getLsbD 4 || w.sd == 0)
  | .cpyx w x y =>
    cpyXOk x && tileFieldOk y.st && (!y.rest.getLsbD 0 || w.sd == 0)
      && (decide ((fld y.rest 1 4).toNat ≤ 4)
        || (decide (8 ≤ (fld y.rest 1 4).toNat) && decide ((fld y.rest 1 4).toNat ≤ 10)))
      && fld y.rest 6 17 == 0
  | .cpyr w x y => cpyXOk x && x.dt == 127 && y.st == 127 && w.sb == 0 && y.rest == 0
  | .cpymc _ x y => cpyXOk x && tileFieldOk y.st && fld y.rest 8 15 == 0
  | .cpyg _ x y | .cpys _ x y =>
    cpyXOk x && tileFieldOk y.st && !y.rest.getLsbD 4
  | .cpyfill _ x y => cpyXOk x && y.st == 127 && fld y.rest 2 21 == 0
  | .coll w x => cpyXOk x && x.dt == 127 && w.sd == 0 && w.sb == 0
  | .stagew w x => w.sd == 0 && w.sb == 0 && x == 0
  | .tset w x1 x2 => w.sd == 0 && (x1.getLsbD 7 || w.sb == 0) && fld x1 8 24 == 0 && x2 == 0
  | _ => true

/-- The reserved rules of the class 4 and 5 words with layouts of their own (R310, R429 to R442, R396 to R404), NOP and
REP (R306, R307). -/
def ctlOk : Instr → Bool
  | .nop z => z == 0
  | .rep w => w.z == 0
  | .bra w | .sbr w => w.z1 == 0 && w.z2 == 0
  | .brx w | .ret w =>
    w.z1 == 0 && w.z2 == 0 && !w.z3 && (!w.vr || !w.sa.getLsbD 7) && !(w.ea && !w.vr && w.sa == 0xFF)
  | .call w => w.z == 0
  | .setmrLabel w => !w.z && (!w.nd || w.vd == 0)
  | .setmrRegister w => w.z1 == 0 && !w.z2 && (!w.nd || w.vd == 0)
  | .loop w => decide (w.lvl.toNat ≤ 2) && w.z1 == 0 && w.z2 == 0 && !w.z3 && !(w.ea && w.sa == 0xFF)
  | .loopbrk w => decide (w.lvl.toNat ≤ 2) && !w.z1 && w.z2 == 0
  | .exit z | .tret z | .yield z => z == 0
  | .trap w | .bkpt w => w.z == 0
  | .mma w | .mmai w => w.z0 == 0 && !w.z1 && w.z2 == 0 && w.z3 == 0 && w.srow != 0xFF && w.sk != 0xFF
  | .mzero w => w.z0 == 0 && !w.z1 && w.z2 == 0 && w.srow != 0xFF
  | .scld w => w.z0 == 0 && w.z1 == 0
  | .mstore w =>
    decide (w.fmt.toNat ≤ 4) && decide (w.rmode.toNat ≤ 4) && (w.tkv || w.tok == 0) && w.z0 == 0 && !w.z1 && w.z2 == 0
      && w.z3 == 0 && w.srow != 0xFF && w.sv != 0xFF && (w.tlv || (w.tl == 0 && w.sv == 0))
  | .mload w =>
    decide (w.fmt.toNat ≤ 4) && w.rmode == 0 && !w.sat && (w.tkv || w.tok == 0) && w.z0 == 0 && !w.z1 && w.z2 == 0
      && w.z3 == 0 && w.srow != 0xFF && w.sv != 0xFF && (w.tlv || (w.tl == 0 && w.sv == 0))
  | .trel w => w.z0 == 0 && w.z1 == 0 && w.sv != 0xFF && (w.tlv || (w.tl == 0 && w.sv == 0))
  | .tacq w => w.z0 == 0 && w.z1 == 0 && w.tl == 0 && !w.tlv && w.sv == 0
  | .mwait w => w.tn == 0 && w.z0 == 0 && w.z1 == 0 && fld w.tl 6 4 == 0 && !w.tlv && w.sv == 0
  | _ => true

/-- Step 3 of R308 as far as the words alone decide it: no reserved field is nonzero and no field holds a reserved
value.  Events have no words and pass. -/
def reservedOk (i : Instr) : Bool :=
  (match laneWord? i with
    | some w =>
      (laneForm i).a.ok w.sa w.ea && (laneForm i).b.ok w.sb w.eb
        && (match thirdSel i with | some (sc, ec) => SrcK.w32.ok sc ec | none => true) && laneExtraOk i
    | none => true)
  && (match uniWord? i with
    | some w =>
      (uniForm i).a.ok w.sa (if (uniForm i).a = .fld then false else w.ea)
        && (uniForm i).b.ok w.sb (match i with | .sread _ | .swrite _ => false | _ => w.eb)
        && (match i with
          | .sread _ | .swrite _ | .v2s _ => true
          | _ => (uniForm i).a != .fld || !w.ea)
        && uniExtraOk i
    | none => true)
  && ctlOk i

/-- Whether the instruction's words end with a literal word: some selector holds 0xFF (R301, R303). -/
def usesLit (i : Instr) : Bool :=
  (match laneWord? i with
    | some w =>
      ((laneForm i).a.isSel && w.sa == 0xFF) || ((laneForm i).b.isSel && w.sb == 0xFF)
        || (match thirdSel i with | some (sc, _) => sc == 0xFF | none => false)
    | none => false)
  || (match uniWord? i with
    | some w =>
      (((uniForm i).a = .src || (uniForm i).a = .un) && w.sa == 0xFF)
        || (((uniForm i).b = .src || (uniForm i).b = .un) && w.sb == 0xFF)
        || (match cpyX? i with | some x => x.tlv && x.sv == 0xFF | none => false)
    | none => false)
  || (match i with
    | .brx w | .ret w => !w.vr && w.sa == 0xFF
    | .loop w => w.sa == 0xFF
    | _ => false)

/-- The literal word an instruction carries (zero when it has none). -/
def litOf (i : Instr) : Word :=
  match laneWord? i, uniWord? i, i with
  | some w, _, _ => w.lit
  | _, some w, _ => w.lit
  | _, _, .brx w => w.lit
  | _, _, .ret w => w.lit
  | _, _, .loop w => w.lit
  | _, _, _ => 0

end Sys2Proof
end

