-- ==== Sys2Proof/WellFormed.lean ====
section
/-! DEFINITION. Well-formed instructions: those whose words hold no reserved field or value, with the literal word
zero where the encoding has none.  An event is not an instruction word and is never well formed in this sense. -/

namespace Sys2Proof

/-- Whether the constructor is an instruction word (R309) and not an event. -/
def Instr.isWord (i : Instr) : Bool :=
  (laneWord? i).isSome || (uniWord? i).isSome ||
  (match i with
    | .nop _ | .rep _ | .bra _ | .sbr _ | .brx _ | .ret _ | .call _ | .setmrLabel _ | .setmrRegister _ | .loop _
    | .loopbrk _ | .exit _ | .tret _ | .yield _ | .trap _ | .bkpt _ | .mma _ | .mmai _ | .mzero _ | .scld _
    | .mstore _ | .mload _ | .trel _ | .tacq _ | .mwait _ => true
    | _ => false)

/-- A well-formed instruction word (R308 step 3, R301). -/
def Instr.wf (i : Instr) : Bool := i.isWord && reservedOk i && (usesLit i || litOf i == 0)

end Sys2Proof
end

