-- ==== Sys2Proof/Decode.lean ====
section
/-! DEFINITION. The decoder, total on any list of words, rejecting by name; the encoder, written from the same
encoding tables (R300 to R309, R310, R396 to R404, R406, R419, R428 to R442); and the word the opcode table names. -/

namespace Sys2Proof

/-! ### Field packing -/

/-- A word from fields laid from bit 0 up: each field's width and value (R2). -/
def pack : List (Nat × Nat) → Nat
  | [] => 0
  | (n, v) :: rest => v + 2 ^ n * pack rest

/-- A Boolean as a one-bit field. -/
def bit (b : Bool) : Nat := b.toNat

/-- Bit `i` of a word. -/
def bitAt (w : Word) (i : Nat) : Bool := w.toNat / 2 ^ i % 2 == 1

/-- The lane layout of R300. -/
def laneOf (w lit : Word) : LaneW :=
  { vd := fld w 6 7, sa := fld w 13 8, sb := fld w 21 8, ea := bitAt w 29, eb := bitAt w 30, g := bitAt w 31,
    lit := lit }

/-- The lane layout of R300, encoded under opcode `op`. -/
def laneBits (op : Nat) (w : LaneW) : Word :=
  BitVec.ofNat 32 (pack [(6, op), (7, w.vd.toNat), (8, w.sa.toNat), (8, w.sb.toNat), (1, bit w.ea), (1, bit w.eb),
    (1, bit w.g)])

/-- The third-source extension of R305. -/
def srcXOf (w : Word) : SrcX := { sc := fld w 0 8, ec := bitAt w 8, hi := fld w 9 23 }
/-- The third-source extension of R305, encoded. -/
def srcXBits (x : SrcX) : Word := BitVec.ofNat 32 (pack [(8, x.sc.toNat), (1, bit x.ec), (23, x.hi.toNat)])

/-- The class 3 extension of R304. -/
def memXOf (w : Word) : MemX :=
  { size := fld w 0 3, sgn := bitAt w 3, space := fld w 4 3, order := fld w 7 3, scope := fld w 10 3,
    reuse := fld w 13 2, inv := bitAt w 15, notag := bitAt w 16, off := fld w 17 15 }
/-- The class 3 extension of R304, encoded. -/
def memXBits (x : MemX) : Word :=
  BitVec.ofNat 32 (pack [(3, x.size.toNat), (1, bit x.sgn), (3, x.space.toNat), (3, x.order.toNat),
    (3, x.scope.toNat), (2, x.reuse.toNat), (1, bit x.inv), (1, bit x.notag), (15, x.off.toNat)])

/-- The uniform layout of R302. -/
def uniOf (w lit : Word) : UniW :=
  { sd := fld w 6 8, sa := fld w 14 8, sb := fld w 22 8, ea := bitAt w 30, eb := bitAt w 31, lit := lit }
/-- The uniform layout of R302, encoded under opcode `op`. -/
def uniBits (op : Nat) (w : UniW) : Word :=
  BitVec.ofNat 32 (pack [(6, op), (8, w.sd.toNat), (8, w.sa.toNat), (8, w.sb.toNat), (1, bit w.ea), (1, bit w.eb)])

/-- REP (R307). -/
def repOf (w : Word) : RepW :=
  { cnt := fld w 6 6, stepd := fld w 12 2, stepa := fld w 14 2, stepb := fld w 16 2, z := fld w 18 14 }
/-- REP (R307), encoded. -/
def repBits (w : RepW) : Word :=
  BitVec.ofNat 32 (pack [(6, 0x3F), (6, w.cnt.toNat), (2, w.stepd.toNat), (2, w.stepa.toNat), (2, w.stepb.toNat),
    (14, w.z.toNat)])

/-- BRA and SBR (R310). -/
def braOf (w : Word) : BraW :=
  { pred := fld w 6 3, psense := bitAt w 9, z1 := fld w 10 3, off := fld w 13 16, z2 := fld w 29 3 }
/-- BRA and SBR (R310), encoded. -/
def braBits (op : Nat) (w : BraW) : Word :=
  BitVec.ofNat 32 (pack [(6, op), (3, w.pred.toNat), (1, bit w.psense), (3, w.z1.toNat), (16, w.off.toNat),
    (3, w.z2.toNat)])

/-- BRX and RET (R429). -/
def brxOf (w lit : Word) : BrxW :=
  { vr := bitAt w 6, z1 := fld w 7 7, sa := fld w 14 8, z2 := fld w 22 8, ea := bitAt w 30, z3 := bitAt w 31,
    lit := lit }
/-- BRX and RET (R429), encoded. -/
def brxBits (op : Nat) (w : BrxW) : Word :=
  BitVec.ofNat 32 (pack [(6, op), (1, bit w.vr), (7, w.z1.toNat), (8, w.sa.toNat), (8, w.z2.toNat), (1, bit w.ea),
    (1, bit w.z3)])

/-- CALL (R430). -/
def callOf (w : Word) : CallW := { lr := fld w 6 7, off := fld w 13 16, z := fld w 29 3 }
/-- CALL (R430), encoded. -/
def callBits (w : CallW) : Word :=
  BitVec.ofNat 32 (pack [(6, 0x03), (7, w.lr.toNat), (16, w.off.toNat), (3, w.z.toNat)])

/-- SETMR with RF = 0 (R431). -/
def setmrLOf (w : Word) : SetmrLW := { vd := fld w 6 7, off := fld w 13 16, nd := bitAt w 30, z := bitAt w 31 }
/-- SETMR with RF = 0 (R431), encoded. -/
def setmrLBits (w : SetmrLW) : Word :=
  BitVec.ofNat 32 (pack [(6, 0x05), (7, w.vd.toNat), (16, w.off.toNat), (1, 0), (1, bit w.nd), (1, bit w.z)])

/-- SETMR with RF = 1 (R431). -/
def setmrROf (w : Word) : SetmrRW :=
  { vd := fld w 6 7, src := fld w 13 7, z1 := fld w 20 9, nd := bitAt w 30, z2 := bitAt w 31 }
/-- SETMR with RF = 1 (R431), encoded. -/
def setmrRBits (w : SetmrRW) : Word :=
  BitVec.ofNat 32 (pack [(6, 0x05), (7, w.vd.toNat), (7, w.src.toNat), (9, w.z1.toNat), (1, 1), (1, bit w.nd),
    (1, bit w.z2)])

/-- LOOP (R432). -/
def loopOf (w lit : Word) : LoopW :=
  { lvl := fld w 6 2, z1 := fld w 8 6, sa := fld w 14 8, z2 := fld w 22 8, ea := bitAt w 30, z3 := bitAt w 31,
    lit := lit }
/-- LOOP (R432), encoded. -/
def loopBits (w : LoopW) : Word :=
  BitVec.ofNat 32 (pack [(6, 0x06), (2, w.lvl.toNat), (6, w.z1.toNat), (8, w.sa.toNat), (8, w.z2.toNat),
    (1, bit w.ea), (1, bit w.z3)])

/-- LOOPBRK (R433). -/
def brkOf (w : Word) : BrkW :=
  { pred := fld w 6 3, psense := bitAt w 9, lvl := fld w 10 2, z1 := bitAt w 12, off := fld w 13 16,
    z2 := fld w 29 3 }
/-- LOOPBRK (R433), encoded. -/
def brkBits (w : BrkW) : Word :=
  BitVec.ofNat 32 (pack [(6, 0x07), (3, w.pred.toNat), (1, bit w.psense), (2, w.lvl.toNat), (1, bit w.z1),
    (16, w.off.toNat), (3, w.z2.toNat)])

/-- TRAP and BKPT (R441). -/
def codeOf (w : Word) : CodeW := { code := fld w 6 16, z := fld w 22 10 }
/-- TRAP and BKPT (R441), encoded. -/
def codeBits (op : Nat) (w : CodeW) : Word := BitVec.ofNat 32 (pack [(6, op), (16, w.code.toNat), (10, w.z.toNat)])

/-- A word that only has an opcode (R306, R435, R442, R444). -/
def bareBits (op : Nat) (z : BitVec 26) : Word := BitVec.ofNat 32 (pack [(6, op), (26, z.toNat)])

/-- MMA and MMAI (R396). -/
def mmaOf (w x y : Word) : MmaW :=
  { ta := fld w 6 6, tb := fld w 12 6, aw := fld w 18 5, skip := bitAt w 23, z0 := fld w 24 8, arow := fld x 0 15,
    z1 := bitAt x 15, koff := fld x 16 7, kcnt := fld x 23 7, z2 := fld x 30 2, srow := fld y 0 8, sk := fld y 8 8,
    z3 := fld y 16 16 }
/-- MMA and MMAI (R396), encoded. -/
def mmaBits (op : Nat) (w : MmaW) : List Word :=
  [BitVec.ofNat 32 (pack [(6, op), (6, w.ta.toNat), (6, w.tb.toNat), (5, w.aw.toNat), (1, bit w.skip),
     (8, w.z0.toNat)]),
   BitVec.ofNat 32 (pack [(15, w.arow.toNat), (1, bit w.z1), (7, w.koff.toNat), (7, w.kcnt.toNat), (2, w.z2.toNat)]),
   BitVec.ofNat 32 (pack [(8, w.srow.toNat), (8, w.sk.toNat), (16, w.z3.toNat)])]

/-- MZERO (R400). -/
def mzeroOf (w x : Word) : MzeroW :=
  { aw := fld w 6 5, m64 := bitAt w 11, n64 := bitAt w 12, z0 := fld w 13 19, arow := fld x 0 15, z1 := bitAt x 15,
    srow := fld x 16 8, z2 := fld x 24 8 }
/-- MZERO (R400), encoded. -/
def mzeroBits (w : MzeroW) : List Word :=
  [BitVec.ofNat 32 (pack [(6, 0x03), (5, w.aw.toNat), (1, bit w.m64), (1, bit w.n64), (19, w.z0.toNat)]),
   BitVec.ofNat 32 (pack [(15, w.arow.toNat), (1, bit w.z1), (8, w.srow.toNat), (8, w.z2.toNat)])]

/-- SCLD (R401). -/
def scldOf (w x : Word) : ScldW :=
  { tn := fld w 6 6, z0 := fld w 12 20, joff := fld x 0 9, jcnt := fld x 9 9, z1 := fld x 18 14 }
/-- SCLD (R401), encoded. -/
def scldBits (w : ScldW) : List Word :=
  [BitVec.ofNat 32 (pack [(6, 0x04), (6, w.tn.toNat), (20, w.z0.toNat)]),
   BitVec.ofNat 32 (pack [(9, w.joff.toNat), (9, w.jcnt.toNat), (14, w.z1.toNat)])]

/-- MSTORE and MLOAD (R402). -/
def mmoveOf (w x y : Word) : MmoveW :=
  { tn := fld w 6 6, aw := fld w 12 5, fmt := fld w 17 3, rmode := fld w 20 3, sat := bitAt w 23, tok := fld w 24 3,
    tkv := bitAt w 27, z0 := fld w 28 4, arow := fld x 0 15, z1 := bitAt x 15, srow := fld x 16 8, z2 := fld x 24 8,
    tl := fld y 0 10, tlv := bitAt y 10, sv := fld y 11 8, z3 := fld y 19 13 }
/-- MSTORE and MLOAD (R402), encoded. -/
def mmoveBits (op : Nat) (w : MmoveW) : List Word :=
  [BitVec.ofNat 32 (pack [(6, op), (6, w.tn.toNat), (5, w.aw.toNat), (3, w.fmt.toNat), (3, w.rmode.toNat),
     (1, bit w.sat), (3, w.tok.toNat), (1, bit w.tkv), (4, w.z0.toNat)]),
   BitVec.ofNat 32 (pack [(15, w.arow.toNat), (1, bit w.z1), (8, w.srow.toNat), (8, w.z2.toNat)]),
   BitVec.ofNat 32 (pack [(10, w.tl.toNat), (1, bit w.tlv), (8, w.sv.toNat), (13, w.z3.toNat)])]

/-- TREL, TACQ and MWAIT (R404). -/
def trelOf (w x : Word) : TrelW :=
  { tn := fld w 6 6, z0 := fld w 12 20, tl := fld x 0 10, tlv := bitAt x 10, sv := fld x 11 8, z1 := fld x 19 13 }
/-- TREL, TACQ and MWAIT (R404), encoded. -/
def trelBits (op : Nat) (w : TrelW) : List Word :=
  [BitVec.ofNat 32 (pack [(6, op), (6, w.tn.toNat), (20, w.z0.toNat)]),
   BitVec.ofNat 32 (pack [(10, w.tl.toNat), (1, bit w.tlv), (8, w.sv.toNat), (13, w.z1.toNat)])]

/-- Word 1 of a copy (R406). -/
def cpyXOf (w : Word) : CpyX :=
  { tok := fld w 0 4, tl := fld w 4 10, tlv := bitAt w 14, sv := fld w 15 8, dt := fld w 23 7, z := fld w 30 2 }
/-- Word 1 of a copy (R406), encoded. -/
def cpyXBits (x : CpyX) : Word :=
  BitVec.ofNat 32 (pack [(4, x.tok.toNat), (10, x.tl.toNat), (1, bit x.tlv), (8, x.sv.toNat), (7, x.dt.toNat),
    (2, x.z.toNat)])

/-- Word 2 of a copy (R406). -/
def cpyYOf (w : Word) : CpyY := { st := fld w 0 7, reuse := fld w 7 2, rest := fld w 9 23 }
/-- Word 2 of a copy (R406), encoded. -/
def cpyYBits (y : CpyY) : Word :=
  BitVec.ofNat 32 (pack [(7, y.st.toNat), (2, y.reuse.toNat), (23, y.rest.toNat)])

/-! ### Decoding -/

/-- Class 0 of R309. -/
def decAlu (op : Nat) (w : LaneW) (x : SrcX) : Option Instr :=
  match op with
  | 0x01 => some (.mov w)
  | 0x02 => some (.iadd w)
  | 0x03 => some (.isub w)
  | 0x04 => some (.iadds w)
  | 0x05 => some (.isubs w)
  | 0x06 => some (.iaddus w)
  | 0x07 => some (.isubus w)
  | 0x08 => some (.imul w)
  | 0x09 => some (.imulh w)
  | 0x0A => some (.imulhu w)
  | 0x0B => some (.imad w)
  | 0x0C => some (.imadw w)
  | 0x0D => some (.iadd64 w)
  | 0x0E => some (.isub64 w)
  | 0x0F => some (.ineg w)
  | 0x10 => some (.iabs w)
  | 0x11 => some (.imin w)
  | 0x12 => some (.imax w)
  | 0x13 => some (.iminu w)
  | 0x14 => some (.imaxu w)
  | 0x15 => some (.and w)
  | 0x16 => some (.or w)
  | 0x17 => some (.xor w)
  | 0x18 => some (.andn w)
  | 0x19 => some (.orn w)
  | 0x1A => some (.shl w)
  | 0x1B => some (.shr w)
  | 0x1C => some (.sar w)
  | 0x1D => some (.rotl w)
  | 0x1E => some (.fshl w x)
  | 0x1F => some (.bfe w)
  | 0x20 => some (.bfeu w)
  | 0x21 => some (.bfi w)
  | 0x22 => some (.popc w)
  | 0x23 => some (.clz w)
  | 0x24 => some (.ctz w)
  | 0x25 => some (.brev w)
  | 0x26 => some (.permb w)
  | 0x27 => some (.clmul w)
  | 0x28 => some (.clmulh w)
  | 0x29 => some (.idot4 w)
  | 0x2A => some (.idot4u w)
  | 0x2B => some (.icmp w)
  | 0x2C => some (.icmpu w)
  | 0x2D => some (.plog w)
  | 0x2E => some (.sel w)
  | 0x2F => some (.sxt w)
  | 0x30 => some (.zxt w)
  | 0x31 => some (.lea w)
  | 0x32 => some (if w.sb.getLsbD 0 then .movpToPredicates w else .movpToRegister w)
  | _ => none

/-- Class 1 of R309. -/
def decFpu (op : Nat) (w : LaneW) (x : SrcX) : Option Instr :=
  match op with
  | 0x01 => some (.fadd w)
  | 0x02 => some (.fsub w)
  | 0x03 => some (.fmul w)
  | 0x04 => some (.ffma w)
  | 0x05 => some (.ffma3 w x)
  | 0x06 => some (.fmin w)
  | 0x07 => some (.fmax w)
  | 0x08 => some (.fminnum w)
  | 0x09 => some (.fmaxnum w)
  | 0x0A => some (.fabs w)
  | 0x0B => some (.fneg w)
  | 0x0C => some (.fcmp w)
  | 0x0D => some (.fclass w)
  | 0x0E => some (.frnd w)
  | 0x0F => some (.fldexp w)
  | 0x10 => some (.fgetexp w)
  | 0x11 => some (.cvtfi w)
  | 0x12 => some (.cvtfu w)
  | 0x13 => some (.cvtif w)
  | 0x14 => some (.cvtuf w)
  | 0x15 => some (.cvtff w x)
  | 0x16 => some (.pack8 w x)
  | 0x17 => some (.unpack8 w x)
  | 0x18 => some (.hadd2 w)
  | 0x19 => some (.hmul2 w)
  | 0x1A => some (.hfma2 w)
  | 0x1B => some (.badd2 w)
  | 0x1C => some (.bmul2 w)
  | 0x1D => some (.bfma2 w)
  | 0x1E => some (.dadd w)
  | 0x1F => some (.dmul w)
  | 0x20 => some (.dfma w)
  | 0x21 => some (.dmin w)
  | 0x22 => some (.dmax w)
  | 0x23 => some (.dcmp w)
  | 0x24 => some (.cvtdf w)
  | 0x25 => some (.cvtfd w)
  | _ => none

/-- Class 2 of R309. -/
def decSfu (op : Nat) (w : LaneW) (x : SrcX) : Option Instr :=
  match op with
  | 0x01 => some (.frcp w)
  | 0x02 => some (.frsq w)
  | 0x03 => some (.fsqrt w)
  | 0x04 => some (.fexp2 w)
  | 0x05 => some (.flog2 w)
  | 0x06 => some (.fsinpi w)
  | 0x07 => some (.fcospi w)
  | 0x08 => some (.ftanh w)
  | 0x09 => some (.tbleval w)
  | 0x0A => some (.tblload w)
  | 0x0B => some (.shfl w x)
  | 0x0C => some (.shflup w x)
  | 0x0D => some (.shfldn w x)
  | 0x0E => some (.shflx w x)
  | 0x0F => some (.voteall w x)
  | 0x10 => some (.voteany w x)
  | 0x11 => some (.ballot w x)
  | 0x12 => some (.matchLane w x)
  | 0x13 => some (.elect w x)
  | 0x14 => some (.redadd w x)
  | 0x15 => some (.redmin w x)
  | 0x16 => some (.redmax w x)
  | 0x17 => some (.redminu w x)
  | 0x18 => some (.redmaxu w x)
  | 0x19 => some (.redand w x)
  | 0x1A => some (.redor w x)
  | 0x1B => some (.redxor w x)
  | 0x1C => some (.fredadd w x)
  | 0x1D => some (.fredmax w x)
  | 0x1E => some (.scanadd w x)
  | 0x1F => some (.scanxor w x)
  | 0x20 => some (.scanmax w x)
  | _ => none

/-- Class 3 of R309. -/
def decMem (op : Nat) (w : LaneW) (x : MemX) : Option Instr :=
  match op with
  | 0x01 => some (.ld w x)
  | 0x02 => some (.st w x)
  | 0x03 => some (.lds w x)
  | 0x04 => some (.sts w x)
  | 0x05 => some (.atom w x)
  | 0x06 => some (.atomcas w x)
  | 0x07 => some (.red w x)
  | 0x08 => some (.atoms w x)
  | 0x09 => some (.atomscas w x)
  | 0x0A => some (.cadd w x)
  | 0x0B => some (.fence w x)
  | 0x0C => some (.codepub w x)
  | 0x0D => some (.waitaddr w x)
  | 0x0E => some (.wakeaddr w x)
  | 0x0F => some (.pref w x)
  | 0x10 => some (.wbl w x)
  | 0x11 => some (.invl w x)
  | 0x12 => some (.tagld w x)
  | 0x13 => some (.tagst w x)
  | 0x14 => some (.accrd w x)
  | 0x15 => some (.accwr w x)
  | _ => none

/-- Class 4 of R309. -/
def decCtl (op : Nat) (w lit : Word) : Option Instr :=
  match op with
  | 0x01 => some (.bra (braOf w))
  | 0x02 => some (.brx (brxOf w lit))
  | 0x03 => some (.call (callOf w))
  | 0x04 => some (.ret (brxOf w lit))
  | 0x05 => some (if bitAt w 29 then .setmrRegister (setmrROf w) else .setmrLabel (setmrLOf w))
  | 0x06 => some (.loop (loopOf w lit))
  | 0x07 => some (.loopbrk (brkOf w))
  | 0x08 => some (.exit (fld w 6 26))
  | 0x09 => some (.smov (uniOf w lit))
  | 0x0A => some (.sadd (uniOf w lit))
  | 0x0B => some (.ssub (uniOf w lit))
  | 0x0C => some (.smul (uniOf w lit))
  | 0x0D => some (.sand (uniOf w lit))
  | 0x0E => some (.sor (uniOf w lit))
  | 0x0F => some (.sxor (uniOf w lit))
  | 0x10 => some (.sshl (uniOf w lit))
  | 0x11 => some (.sshr (uniOf w lit))
  | 0x12 => some (.ssar (uniOf w lit))
  | 0x13 => some (.smin (uniOf w lit))
  | 0x14 => some (.smax (uniOf w lit))
  | 0x15 => some (.scmp (uniOf w lit))
  | 0x16 => some (.sbr (braOf w))
  | 0x17 => some (.sld (uniOf w lit))
  | 0x18 => some (.sst (uniOf w lit))
  | 0x19 => some (.v2s (uniOf w lit))
  | 0x1A => some (.barinit (uniOf w lit))
  | 0x1B => some (.bar (uniOf w lit))
  | 0x1C => some (.bara (uniOf w lit))
  | 0x1D => some (.barw (uniOf w lit))
  | 0x1E => some (.tokwait (uniOf w lit))
  | 0x1F => some (.phreg (uniOf w lit))
  | 0x20 => some (.phdrop (uniOf w lit))
  | 0x21 => some (.phsig (uniOf w lit))
  | 0x22 => some (.phwait (uniOf w lit))
  | 0x23 => some (.phnext (uniOf w lit))
  | 0x24 => some (.tlsig (uniOf w lit))
  | 0x25 => some (.tlwait (uniOf w lit))
  | 0x26 => some (.tlread (uniOf w lit))
  | 0x27 => some (.stage (uniOf w lit))
  | 0x28 => some (.sread (uniOf w lit))
  | 0x29 => some (.swrite (uniOf w lit))
  | 0x2A => some (.slotq (uniOf w lit))
  | 0x2B => some (.trap (codeOf w))
  | 0x2C => some (.bkpt (codeOf w))
  | 0x2D => some (.poolb (uniOf w lit))
  | 0x2E => some (.tret (fld w 6 26))
  | 0x2F => some (.yield (fld w 6 26))
  | 0x30 => some (.cfgbank (uniOf w lit))
  | _ => none

/-- Class 5 of R309. -/
def decMtx (op : Nat) (w x y : Word) : Option Instr :=
  match op with
  | 0x01 => some (.mma (mmaOf w x y))
  | 0x02 => some (.mmai (mmaOf w x y))
  | 0x03 => some (.mzero (mzeroOf w x))
  | 0x04 => some (.scld (scldOf w x))
  | 0x05 => some (.mstore (mmoveOf w x y))
  | 0x06 => some (.mload (mmoveOf w x y))
  | 0x07 => some (.trel (trelOf w x))
  | 0x08 => some (.tacq (trelOf w x))
  | 0x09 => some (.mwait (trelOf w x))
  | _ => none

/-- Class 6 of R309. -/
def decCopy (op : Nat) (w x y lit : Word) : Option Instr :=
  match op with
  | 0x01 => some (.cpy (uniOf w lit) (cpyXOf x) (cpyYOf y))
  | 0x02 => some (.cpym (uniOf w lit) (cpyXOf x) (cpyYOf y))
  | 0x03 => some (.cpyp (uniOf w lit) (cpyXOf x) (cpyYOf y))
  | 0x04 => some (.cpyx (uniOf w lit) (cpyXOf x) (cpyYOf y))
  | 0x05 => some (.cpyr (uniOf w lit) (cpyXOf x) (cpyYOf y))
  | 0x06 => some (.cpymc (uniOf w lit) (cpyXOf x) (cpyYOf y))
  | 0x07 => some (.cpyg (uniOf w lit) (cpyXOf x) (cpyYOf y))
  | 0x08 => some (.cpys (uniOf w lit) (cpyXOf x) (cpyYOf y))
  | 0x09 => some (.coll (uniOf w lit) (cpyXOf x))
  | 0x0A => some (.stagew (uniOf w lit) x)
  | 0x0B => some (.tset (uniOf w lit) x y)
  | 0x0C => some (.cpyfill (uniOf w lit) (cpyXOf x) (cpyYOf y))
  | _ => none

/-- Extension words of an opcode (R303). -/
def extWords (cls op : Nat) : Nat :=
  match cls with
  | 0 => if op = 0x1E then 1 else 0
  | 1 => if op = 0x05 ∨ op = 0x15 ∨ op = 0x16 ∨ op = 0x17 then 1 else 0
  | 2 => if 0x0B ≤ op ∧ op ≤ 0x20 then 1 else 0
  | 3 => if op = 0 ∨ op = 0x3F then 0 else 1
  | 5 =>
    if op = 0x01 ∨ op = 0x02 ∨ op = 0x05 ∨ op = 0x06 then 2
    else if op = 0x03 ∨ op = 0x04 ∨ (0x07 ≤ op ∧ op ≤ 0x09) then 1 else 0
  | 6 => if op = 0x09 ∨ op = 0x0A then 1 else if op = 0 ∨ op = 0x3F then 0 else 2
  | _ => 0

/-- The instruction an opcode names, from its word, its extension words (zero where it has none) and a literal word:
NOP and REP in every class (R306, R307), otherwise the class's map. -/
def decodeOp (cls : Nat) (w x y lit : Word) : Option Instr :=
  let op := w.toNat % 64
  if op = 0 then some (.nop (fld w 6 26))
  else if op = 0x3F then some (.rep (repOf w))
  else match cls with
  | 0 => decAlu op (laneOf w lit) (srcXOf x)
  | 1 => decFpu op (laneOf w lit) (srcXOf x)
  | 2 => decSfu op (laneOf w lit) (srcXOf x)
  | 3 => decMem op (laneOf w lit) (memXOf x)
  | 4 => decCtl op w lit
  | 5 => decMtx op w x y
  | 6 => decCopy op w x y lit
  | _ => none

/-- Why a list of words is no instruction. -/
inductive Reject where
  /-- The list ends before the instruction does (R296). -/
  | truncated
  /-- The opcode is reserved in its class, or the class is 7 (R309). -/
  | reservedOpcode (cls op : Nat)
  /-- The words name an instruction with a reserved field or value (R308 step 3). -/
  | illFormed (i : Instr) (n : Nat)
  deriving DecidableEq, Repr

/-- The instruction at the head of a list of words of a clause of class `cls`, and how many words it takes, whatever
its reserved fields hold (R303). -/
def decodeRaw (cls : Nat) (ws : List Word) : Except Reject (Instr × Nat) :=
  match ws with
  | [] => .error .truncated
  | w :: rest =>
    let op := w.toNat % 64
    let n := extWords cls op
    match decodeOp cls w (rest.getD 0 0) (rest.getD 1 0) 0 with
    | none => .error (.reservedOpcode cls op)
    | some i =>
      if rest.length < n then .error .truncated
      else if usesLit i then
        if rest.length < n + 1 then .error .truncated
        else match decodeOp cls w (rest.getD 0 0) (rest.getD 1 0) (rest.getD n 0) with
          | none => .error (.reservedOpcode cls op)
          | some j => .ok (j, n + 2)
      else .ok (i, n + 1)

/-- The decoder: the instruction at the head of a list of words, and how many words it takes; anything else is
rejected by name. -/
def decode (cls : Nat) (ws : List Word) : Except Reject (Instr × Nat) :=
  match decodeRaw cls ws with
  | .error e => .error e
  | .ok (i, n) => if i.wf then .ok (i, n) else .error (.illFormed i n)

/-! ### Encoding -/

/-- The class of an instruction (R309); NOP, REP and the events give 0. -/
def Instr.cls : Instr → Nat
  | .fadd _ | .fsub _ | .fmul _ | .ffma _ | .ffma3 _ _ | .fmin _ | .fmax _ | .fminnum _ | .fmaxnum _ | .fabs _
  | .fneg _ | .fcmp _ | .fclass _ | .frnd _ | .fldexp _ | .fgetexp _ | .cvtfi _ | .cvtfu _ | .cvtif _ | .cvtuf _
  | .cvtff _ _ | .pack8 _ _ | .unpack8 _ _ | .hadd2 _ | .hmul2 _ | .hfma2 _ | .badd2 _ | .bmul2 _ | .bfma2 _
  | .dadd _ | .dmul _ | .dfma _ | .dmin _ | .dmax _ | .dcmp _ | .cvtdf _ | .cvtfd _ => 1
  | .frcp _ | .frsq _ | .fsqrt _ | .fexp2 _ | .flog2 _ | .fsinpi _ | .fcospi _ | .ftanh _ | .tbleval _
  | .tblload _ | .shfl _ _ | .shflup _ _ | .shfldn _ _ | .shflx _ _ | .voteall _ _ | .voteany _ _ | .ballot _ _
  | .matchLane _ _ | .elect _ _ | .redadd _ _ | .redmin _ _ | .redmax _ _ | .redminu _ _ | .redmaxu _ _
  | .redand _ _ | .redor _ _ | .redxor _ _ | .fredadd _ _ | .fredmax _ _ | .scanadd _ _ | .scanxor _ _
  | .scanmax _ _ => 2
  | .ld _ _ | .st _ _ | .lds _ _ | .sts _ _ | .atom _ _ | .atomcas _ _ | .red _ _ | .atoms _ _ | .atomscas _ _
  | .cadd _ _ | .fence _ _ | .codepub _ _ | .waitaddr _ _ | .wakeaddr _ _ | .pref _ _ | .wbl _ _ | .invl _ _
  | .tagld _ _ | .tagst _ _ | .accrd _ _ | .accwr _ _ => 3
  | .bra _ | .brx _ | .call _ | .ret _ | .setmrLabel _ | .setmrRegister _ | .loop _ | .loopbrk _ | .exit _
  | .smov _ | .sadd _ | .ssub _ | .smul _ | .sand _ | .sor _ | .sxor _ | .sshl _ | .sshr _ | .ssar _ | .smin _
  | .smax _ | .scmp _ | .sbr _ | .sld _ | .sst _ | .v2s _ | .barinit _ | .bar _ | .bara _ | .barw _ | .tokwait _
  | .phreg _ | .phdrop _ | .phsig _ | .phwait _ | .phnext _ | .tlsig _ | .tlwait _ | .tlread _ | .stage _
  | .sread _ | .swrite _ | .slotq _ | .trap _ | .bkpt _ | .poolb _ | .tret _ | .yield _ | .cfgbank _ => 4
  | .mma _ | .mmai _ | .mzero _ | .scld _ | .mstore _ | .mload _ | .trel _ | .tacq _ | .mwait _ => 5
  | .cpy _ _ _ | .cpym _ _ _ | .cpyp _ _ _ | .cpyx _ _ _ | .cpyr _ _ _ | .cpymc _ _ _ | .cpyg _ _ _ | .cpys _ _ _
  | .coll _ _ | .stagew _ _ | .tset _ _ _ | .cpyfill _ _ _ => 6
  | _ => 0

/-- The words of an instruction before its literal word.  An event has no words. -/
def Instr.headWords : Instr → List Word
  | .nop z => [bareBits 0x00 z]
  | .rep w => [repBits w]
  | .mov w => [laneBits 0x01 w]
  | .iadd w => [laneBits 0x02 w]
  | .isub w => [laneBits 0x03 w]
  | .iadds w => [laneBits 0x04 w]
  | .isubs w => [laneBits 0x05 w]
  | .iaddus w => [laneBits 0x06 w]
  | .isubus w => [laneBits 0x07 w]
  | .imul w => [laneBits 0x08 w]
  | .imulh w => [laneBits 0x09 w]
  | .imulhu w => [laneBits 0x0A w]
  | .imad w => [laneBits 0x0B w]
  | .imadw w => [laneBits 0x0C w]
  | .iadd64 w => [laneBits 0x0D w]
  | .isub64 w => [laneBits 0x0E w]
  | .ineg w => [laneBits 0x0F w]
  | .iabs w => [laneBits 0x10 w]
  | .imin w => [laneBits 0x11 w]
  | .imax w => [laneBits 0x12 w]
  | .iminu w => [laneBits 0x13 w]
  | .imaxu w => [laneBits 0x14 w]
  | .and w => [laneBits 0x15 w]
  | .or w => [laneBits 0x16 w]
  | .xor w => [laneBits 0x17 w]
  | .andn w => [laneBits 0x18 w]
  | .orn w => [laneBits 0x19 w]
  | .shl w => [laneBits 0x1A w]
  | .shr w => [laneBits 0x1B w]
  | .sar w => [laneBits 0x1C w]
  | .rotl w => [laneBits 0x1D w]
  | .fshl w x => [laneBits 0x1E w, srcXBits x]
  | .bfe w => [laneBits 0x1F w]
  | .bfeu w => [laneBits 0x20 w]
  | .bfi w => [laneBits 0x21 w]
  | .popc w => [laneBits 0x22 w]
  | .clz w => [laneBits 0x23 w]
  | .ctz w => [laneBits 0x24 w]
  | .brev w => [laneBits 0x25 w]
  | .permb w => [laneBits 0x26 w]
  | .clmul w => [laneBits 0x27 w]
  | .clmulh w => [laneBits 0x28 w]
  | .idot4 w => [laneBits 0x29 w]
  | .idot4u w => [laneBits 0x2A w]
  | .icmp w => [laneBits 0x2B w]
  | .icmpu w => [laneBits 0x2C w]
  | .plog w => [laneBits 0x2D w]
  | .sel w => [laneBits 0x2E w]
  | .sxt w => [laneBits 0x2F w]
  | .zxt w => [laneBits 0x30 w]
  | .lea w => [laneBits 0x31 w]
  | .movpToRegister w => [laneBits 0x32 w]
  | .movpToPredicates w => [laneBits 0x32 w]
  | .fadd w => [laneBits 0x01 w]
  | .fsub w => [laneBits 0x02 w]
  | .fmul w => [laneBits 0x03 w]
  | .ffma w => [laneBits 0x04 w]
  | .ffma3 w x => [laneBits 0x05 w, srcXBits x]
  | .fmin w => [laneBits 0x06 w]
  | .fmax w => [laneBits 0x07 w]
  | .fminnum w => [laneBits 0x08 w]
  | .fmaxnum w => [laneBits 0x09 w]
  | .fabs w => [laneBits 0x0A w]
  | .fneg w => [laneBits 0x0B w]
  | .fcmp w => [laneBits 0x0C w]
  | .fclass w => [laneBits 0x0D w]
  | .frnd w => [laneBits 0x0E w]
  | .fldexp w => [laneBits 0x0F w]
  | .fgetexp w => [laneBits 0x10 w]
  | .cvtfi w => [laneBits 0x11 w]
  | .cvtfu w => [laneBits 0x12 w]
  | .cvtif w => [laneBits 0x13 w]
  | .cvtuf w => [laneBits 0x14 w]
  | .cvtff w x => [laneBits 0x15 w, srcXBits x]
  | .pack8 w x => [laneBits 0x16 w, srcXBits x]
  | .unpack8 w x => [laneBits 0x17 w, srcXBits x]
  | .hadd2 w => [laneBits 0x18 w]
  | .hmul2 w => [laneBits 0x19 w]
  | .hfma2 w => [laneBits 0x1A w]
  | .badd2 w => [laneBits 0x1B w]
  | .bmul2 w => [laneBits 0x1C w]
  | .bfma2 w => [laneBits 0x1D w]
  | .dadd w => [laneBits 0x1E w]
  | .dmul w => [laneBits 0x1F w]
  | .dfma w => [laneBits 0x20 w]
  | .dmin w => [laneBits 0x21 w]
  | .dmax w => [laneBits 0x22 w]
  | .dcmp w => [laneBits 0x23 w]
  | .cvtdf w => [laneBits 0x24 w]
  | .cvtfd w => [laneBits 0x25 w]
  | .frcp w => [laneBits 0x01 w]
  | .frsq w => [laneBits 0x02 w]
  | .fsqrt w => [laneBits 0x03 w]
  | .fexp2 w => [laneBits 0x04 w]
  | .flog2 w => [laneBits 0x05 w]
  | .fsinpi w => [laneBits 0x06 w]
  | .fcospi w => [laneBits 0x07 w]
  | .ftanh w => [laneBits 0x08 w]
  | .tbleval w => [laneBits 0x09 w]
  | .tblload w => [laneBits 0x0A w]
  | .shfl w x => [laneBits 0x0B w, srcXBits x]
  | .shflup w x => [laneBits 0x0C w, srcXBits x]
  | .shfldn w x => [laneBits 0x0D w, srcXBits x]
  | .shflx w x => [laneBits 0x0E w, srcXBits x]
  | .voteall w x => [laneBits 0x0F w, srcXBits x]
  | .voteany w x => [laneBits 0x10 w, srcXBits x]
  | .ballot w x => [laneBits 0x11 w, srcXBits x]
  | .matchLane w x => [laneBits 0x12 w, srcXBits x]
  | .elect w x => [laneBits 0x13 w, srcXBits x]
  | .redadd w x => [laneBits 0x14 w, srcXBits x]
  | .redmin w x => [laneBits 0x15 w, srcXBits x]
  | .redmax w x => [laneBits 0x16 w, srcXBits x]
  | .redminu w x => [laneBits 0x17 w, srcXBits x]
  | .redmaxu w x => [laneBits 0x18 w, srcXBits x]
  | .redand w x => [laneBits 0x19 w, srcXBits x]
  | .redor w x => [laneBits 0x1A w, srcXBits x]
  | .redxor w x => [laneBits 0x1B w, srcXBits x]
  | .fredadd w x => [laneBits 0x1C w, srcXBits x]
  | .fredmax w x => [laneBits 0x1D w, srcXBits x]
  | .scanadd w x => [laneBits 0x1E w, srcXBits x]
  | .scanxor w x => [laneBits 0x1F w, srcXBits x]
  | .scanmax w x => [laneBits 0x20 w, srcXBits x]
  | .ld w x => [laneBits 0x01 w, memXBits x]
  | .st w x => [laneBits 0x02 w, memXBits x]
  | .lds w x => [laneBits 0x03 w, memXBits x]
  | .sts w x => [laneBits 0x04 w, memXBits x]
  | .atom w x => [laneBits 0x05 w, memXBits x]
  | .atomcas w x => [laneBits 0x06 w, memXBits x]
  | .red w x => [laneBits 0x07 w, memXBits x]
  | .atoms w x => [laneBits 0x08 w, memXBits x]
  | .atomscas w x => [laneBits 0x09 w, memXBits x]
  | .cadd w x => [laneBits 0x0A w, memXBits x]
  | .fence w x => [laneBits 0x0B w, memXBits x]
  | .codepub w x => [laneBits 0x0C w, memXBits x]
  | .waitaddr w x => [laneBits 0x0D w, memXBits x]
  | .wakeaddr w x => [laneBits 0x0E w, memXBits x]
  | .pref w x => [laneBits 0x0F w, memXBits x]
  | .wbl w x => [laneBits 0x10 w, memXBits x]
  | .invl w x => [laneBits 0x11 w, memXBits x]
  | .tagld w x => [laneBits 0x12 w, memXBits x]
  | .tagst w x => [laneBits 0x13 w, memXBits x]
  | .accrd w x => [laneBits 0x14 w, memXBits x]
  | .accwr w x => [laneBits 0x15 w, memXBits x]
  | .bra w => [braBits 0x01 w]
  | .brx w => [brxBits 0x02 w]
  | .call w => [callBits w]
  | .ret w => [brxBits 0x04 w]
  | .setmrLabel w => [setmrLBits w]
  | .setmrRegister w => [setmrRBits w]
  | .loop w => [loopBits w]
  | .loopbrk w => [brkBits w]
  | .exit z => [bareBits 0x08 z]
  | .smov w => [uniBits 0x09 w]
  | .sadd w => [uniBits 0x0A w]
  | .ssub w => [uniBits 0x0B w]
  | .smul w => [uniBits 0x0C w]
  | .sand w => [uniBits 0x0D w]
  | .sor w => [uniBits 0x0E w]
  | .sxor w => [uniBits 0x0F w]
  | .sshl w => [uniBits 0x10 w]
  | .sshr w => [uniBits 0x11 w]
  | .ssar w => [uniBits 0x12 w]
  | .smin w => [uniBits 0x13 w]
  | .smax w => [uniBits 0x14 w]
  | .scmp w => [uniBits 0x15 w]
  | .sbr w => [braBits 0x16 w]
  | .sld w => [uniBits 0x17 w]
  | .sst w => [uniBits 0x18 w]
  | .v2s w => [uniBits 0x19 w]
  | .barinit w => [uniBits 0x1A w]
  | .bar w => [uniBits 0x1B w]
  | .bara w => [uniBits 0x1C w]
  | .barw w => [uniBits 0x1D w]
  | .tokwait w => [uniBits 0x1E w]
  | .phreg w => [uniBits 0x1F w]
  | .phdrop w => [uniBits 0x20 w]
  | .phsig w => [uniBits 0x21 w]
  | .phwait w => [uniBits 0x22 w]
  | .phnext w => [uniBits 0x23 w]
  | .tlsig w => [uniBits 0x24 w]
  | .tlwait w => [uniBits 0x25 w]
  | .tlread w => [uniBits 0x26 w]
  | .stage w => [uniBits 0x27 w]
  | .sread w => [uniBits 0x28 w]
  | .swrite w => [uniBits 0x29 w]
  | .slotq w => [uniBits 0x2A w]
  | .trap w => [codeBits 0x2B w]
  | .bkpt w => [codeBits 0x2C w]
  | .poolb w => [uniBits 0x2D w]
  | .tret z => [bareBits 0x2E z]
  | .yield z => [bareBits 0x2F z]
  | .cfgbank w => [uniBits 0x30 w]
  | .mma w => mmaBits 0x01 w
  | .mmai w => mmaBits 0x02 w
  | .mzero w => mzeroBits w
  | .scld w => scldBits w
  | .mstore w => mmoveBits 0x05 w
  | .mload w => mmoveBits 0x06 w
  | .trel w => trelBits 0x07 w
  | .tacq w => trelBits 0x08 w
  | .mwait w => trelBits 0x09 w
  | .cpy w x y => [uniBits 0x01 w, cpyXBits x, cpyYBits y]
  | .cpym w x y => [uniBits 0x02 w, cpyXBits x, cpyYBits y]
  | .cpyp w x y => [uniBits 0x03 w, cpyXBits x, cpyYBits y]
  | .cpyx w x y => [uniBits 0x04 w, cpyXBits x, cpyYBits y]
  | .cpyr w x y => [uniBits 0x05 w, cpyXBits x, cpyYBits y]
  | .cpymc w x y => [uniBits 0x06 w, cpyXBits x, cpyYBits y]
  | .cpyg w x y => [uniBits 0x07 w, cpyXBits x, cpyYBits y]
  | .cpys w x y => [uniBits 0x08 w, cpyXBits x, cpyYBits y]
  | .coll w x => [uniBits 0x09 w, cpyXBits x]
  | .stagew w x => [uniBits 0x0A w, x]
  | .tset w x1 x2 => [uniBits 0x0B w, x1, x2]
  | .cpyfill w x y => [uniBits 0x0C w, cpyXBits x, cpyYBits y]
  | _ => []

/-- The words of an instruction in memory order (R303). -/
def encode (i : Instr) : List Word := i.headWords ++ (if usesLit i then [litOf i] else [])

/-! ### The opcode table's words -/

/-- The classes in the order in which `decodeTableWord` tries them. -/
def tableClasses : List Nat := [0, 1, 2, 3, 4, 5, 6]

/-- How many bits of its first word an instruction's encoding fixes: a word of the opcode table is read in the class
that fixes most, the lower class where two fix as many.  A class that the word is ill-formed in is not tried. -/
def fixedBits : Instr → Nat
  | .nop _ | .exit _ | .tret _ | .yield _ => 32
  | .rep _ => 20
  | .movpToRegister _ => 24
  | .tblload _ => 19
  | .bra _ | .sbr _ | .brx _ | .ret _ | .loop _ | .loopbrk _ | .call _ | .setmrLabel _ | .setmrRegister _ => 12
  | .trap _ | .bkpt _ => 16
  | i =>
    match laneWord? i, uniWord? i with
    | some _, _ =>
      6 + (if (laneForm i).a.isSel && (laneForm i).a != .un then 0 else 8)
        + (if (laneForm i).b.isSel && (laneForm i).b != .un then 0 else 8)
    | _, some _ =>
      6 + (if (uniForm i).d = .fld then 8 else 0) + (if (uniForm i).a = .src then 0 else 8)
        + (if (uniForm i).b = .src then 0 else 8)
    | _, _ => 6

/-- The better of two readings of a table word. -/
def betterReading (a b : Option Instr) : Option Instr :=
  match a, b with
  | some i, some j => if fixedBits j > fixedBits i then some j else some i
  | some i, none => some i
  | none, b => b

/-- The 32-bit words of a number, first word lowest, `n` of them. -/
def wordsOf (w : Nat) : Nat → List Word
  | 0 => []
  | n + 1 => BitVec.ofNat 32 w :: wordsOf (w / 2 ^ 32) n

/-- What the decoder reads in one class from a table word: up to four words, those above the table's bits zero. -/
def tableReading (nbits w cls : Nat) : Option Instr :=
  match decode cls (wordsOf (w % 2 ^ nbits) 4) with
  | .ok (i, _) => some i
  | .error _ => none

/-- The instruction the decoder reads from a word of the opcode table.  The table names no class, so the class whose
encoding fixes most bits is taken. -/
def decodeTableWord (nbits w : Nat) : Option Instr :=
  tableClasses.foldl (fun acc c => betterReading acc (tableReading nbits w c)) none

/-- The class `decodeTableWord` reads a table word in. -/
def tableClass (nbits w : Nat) : Nat :=
  match decodeTableWord nbits w with
  | some i => i.cls
  | none => 0

end Sys2Proof
end

