-- ==== Sys2Proof/Config.lean ====
section
/-! DEFINITION. What the spec leaves open: constants without a body, so that no proof can see their values (log entry
2).  A free value that may differ from one occasion to the next takes the counter `State.fresh`; one that the spec
fixes for a device, a boot or an operand takes only what it may depend on. -/

namespace Sys2Proof.Config

/-- An undefined 32-bit value (R5): the occasion, and an index within it (a register or row, a lane). -/
opaque freeWord : Nat → Nat → Nat → Word
/-- An undefined 64-bit value (R5). -/
opaque freeDWord : Nat → Word → DWord
/-- An undefined byte (R5): the occasion and the offset. -/
opaque freeByte : Nat → Nat → Byte
/-- DIST of a slot that starts 2^32 ticks off or later (R440), by the tick: the field holds 32 bits. -/
opaque freeDist : Nat → Word
/-- The tag of a granule that no TAGST has written (R210), by granule number. -/
opaque freeTag : Nat → BitVec 4
/-- Which of the results within a special function's error bound the device delivers (R271): the function and the
input; the device fixes it for every core. -/
opaque sfuPick : Nat → Word → Nat
/-- The L3 slice a line is homed on (R203, R379): a hash fixed between resets, by the boot and the line. -/
opaque sliceOf : Nat → Nat → Nat
/-- Slice and set of a line in a die L2 (R203), by the boot and the line: the spec gives a hash for the slice and nothing for the
set. -/
opaque l2Place : Nat → Nat → Nat
/-- The hash that spreads lines over a plane's ports (R17). -/
opaque planeHash : Nat → Nat
/-- The switch plane that a Vilbin port reaches (R17): the device's wiring, which the spec does not give. -/
opaque planeOf : Nat → Nat
/-- Whether a Falcon-1024 signature verifies (R93): public key, 512-bit digest and padded signature.  The spec names
the algorithm and does not describe it. -/
opaque falconVerifies : List Byte → BitVec 512 → List Byte → Bool
/-- The fused digest of the firmware key (R93). -/
opaque fusedKeyDigest : BitVec 256
/-- The fused minimum security version (R93). -/
opaque fusedMinSvn : Nat
/-- The raw measurements of R94, whose byte layout the spec does not give: the index, and what it measures as a list of
numbers. -/
opaque measurement : Nat → List Nat → BitVec 512
/-- The choice among events whose order the spec leaves open, by the occasion. -/
opaque choice : Nat → Nat
/-- Pseudo-channel, bank and row of an HBM line (R53), from bit 4 up as the WHERE word lays them; the spec does not give
the mapping. -/
opaque dramPlace : Nat → Word

end Sys2Proof.Config
end

