-- ==== Sys2Proof/Machine/State.lean ====
section
/-! DEFINITION. The whole state of the machine as plain data: every register, memory, queue and status bit the
spec gives the S7, in sub-records that follow its chapters, and the state after reset.

Fields marked MODEL are the model's own bookkeeping (what is in flight, which party moves next); the rest are named
by the rule their docstring cites.  Arrays are sparse maps; an unlisted index holds the reset value. -/

namespace Sys2Proof.Machine

/-- Why the machine stops.  Both reasons only arise on states that no step reaches; each is safe, since the machine
stops where the hardware would go on. -/
inductive Fault where
  /-- Raised by every instruction word when the issue latch is empty, so that no party issues it.  Safe. -/
  | noIssuer
  /-- Raised when the issue latch names a party that no block context holds.  Safe. -/
  | noParty
  deriving DecidableEq, Repr

/-- Why an instruction has no meaning. -/
inductive Refusal where
  /-- Raised by the dispatcher alone, for an instruction not modelled yet.  Safe. -/
  | notModelled (mnemonic : String)
  deriving DecidableEq, Repr

/-! ### Causes (R274) -/

/-- The cause codes that are ever raised, in the order of their codes (R274). -/
inductive Cause where
  | illegalOpcode | illegalClause | reservedField | regEmpty | operandRange | poolBoundary | loopNest | repeatIllegal
  | branchTarget | privilegedUse | softwareTrap | breakpoint | singleStep | fpException | tableInvalid
  | translationMiss | protectionRead | protectionWrite | protectionExec | halfPublished | alignment | tagMismatch
  | watchpoint | poisonConsumed | scratchRange | addressSpace | atomicUnsupported | commutativeMisuse
  | hostAtomicRetry | capacityTierError | ioError
  | tileState | tokenOverflow | copyGeometry | stageDeadlock | multicastTarget | scaleRange | matrixShape | phaserMode
  | phaserMembership | barrierMisuse | timelineOrder | slotOverrun | subgroupTarget | fabricError
  | collectiveMismatch | engineAbort | eccPool | eccSram | eccMetadata | imemError | watchdog | contextKilled
  | replayDivergence | recordOverflow | powerEmergency | linkDown | firmwareFault | kindlingUnavailable | debugHalt
  | machineCheck
  deriving DecidableEq, Repr

/-! ### Package, reset, power and management -/

/-- The running firmware image, as far as later rules read it (R93, R94). -/
structure FwImage where
  version : Word
  svn : Word
  entry : DWord
  digest : BitVec 512
  deriving DecidableEq, Repr

/-- Package state: DEVSTAT (R33), firmware delivery (R92), BAR2WIN (R67), HOSTATOM (R90), host links (R23, R24, R87),
islands (R27, R57), power (R35), control cores (R95, R120) and the SPDM session (R94).  MODEL: `boots` counts resets,
between which the slice hash is fixed (R203). -/
structure Dev where
  stage : BitVec 3
  fwFail : Bool
  clusterUp : BitVec 24
  stackUp : BitVec 12
  hearth1Up : Bool
  capUp : BitVec 4
  capBytes : List Nat
  host1Up : Bool
  hostWidth : List Nat
  ideKeys : BitVec 2
  priOff : BitVec 2
  priAlloc : List Nat
  fwBusy : Bool
  fwResult : BitVec 2
  fwReason : BitVec 4
  fwAddr : DWord
  fwLen : Word
  fw : Option FwImage
  bar2Base : DWord
  hostAtom : BitVec 16
  islandPoint : NMap (BitVec 4)
  overLimit : Bool
  throttle : Bool
  clearSince : Nat
  activeCore : Nat
  standby : Bool
  spdmSession : Bool
  boots : Nat
  deriving DecidableEq, Repr

/-! ### Links -/

/-- One virtual channel of a port (R15): flits buffered here, whether this side has sent stop, whether the far side
has, and how many flits it may still send. -/
structure VChan where
  buf : List PeerMsg
  stopSent : Bool
  stopped : Bool
  credit : Nat
  deriving DecidableEq, Repr

/-- A Vilbin port: VBPSTAT (R34), the replay buffer, the failure count of the flit being received, and the flit last sent
again with the number of its replays, and whether one waits for a slot to end (R14, R57). -/
structure VPort where
  st : BitVec 2
  lanesUp : BitVec 4
  crcErr : Bool
  downEv : Bool
  replays : BitVec 24
  replayBuf : List (Nat × PeerMsg)
  sent : Nat
  rxFails : Nat
  replayFrom : Nat
  replayTries : Nat
  replayDue : Bool
  lanesFenced : Bool
  vcs : List VChan
  deriving DecidableEq, Repr

/-- The window descriptor of R20. -/
structure WinDesc where
  role : BitVec 2
  order : Bool
  op : BitVec 3
  ty : BitVec 2
  winid : Word
  base : DWord
  bytes : Nat
  homeDev : BitVec 16
  nsrc : Nat
  rank : Nat
  srcs : DWord
  deriving DecidableEq, Repr

/-- One contribution in flight to a window (R19, R20): element, round, the port it left on, its tick, the value, its request and the
lane that made it. -/
structure WinContrib where
  elem : Nat
  round : Nat
  port : Nat
  tick : Nat
  val : DWord
  req : Nat
  lane : Nat
  deriving DecidableEq, Repr

/-- A window slot that is opening, open or closing (R20); `rounds` counts this device's contributions per element,
`merged` the rounds of each element delivered or abandoned here; `openAt` is the tick it opened, and `drained` says that the
switches hold no round of a closing window any more. -/
structure Window where
  ctx : Nat
  desc : WinDesc
  isOpen : Bool
  closing : Bool
  slot : Nat
  seq : Word
  rounds : NMap Nat
  merged : NMap Nat
  pend : List WinContrib
  openAt : Nat
  drained : Bool
  deriving DecidableEq, Repr

/-- Capabilities of the SPDM responder (R94). -/
inductive SpdmCap where
  | cert
  | chal
  | measSigned
  | keyEx
  | encrypt
  | mac
  deriving DecidableEq, Repr

/-- Signature algorithms the responder selects (R94): Falcon-1024, an extended asymmetric algorithm. -/
inductive SpdmSig where
  | falcon1024
  deriving DecidableEq, Repr

/-- Transcript hashes the responder selects (R94). -/
inductive SpdmHash where
  | sha3_384
  deriving DecidableEq, Repr

/-- Curves of KEY_EXCHANGE the responder selects (R94). -/
inductive SpdmKex where
  | secp384r1
  deriving DecidableEq, Repr

/-- Certificates of the chain in slot 0, from its root (R94); their bytes are not given. -/
inductive SpdmCert where
  | borrixRoot
  | deviceIdentity
  deriving DecidableEq, Repr

/-- A message the device has sent or an answer it has given (MODEL: the observable output). -/
inductive Out where
  | hostData (poisoned : Bool) (data : List Byte)
  | hostUr
  | hostSnoop (poisoned : Bool) (data : List Byte)
  | reg (v : DWord)
  | regRefused
  | spdmCaps (caps : List SpdmCap)
  | spdmAlgorithms (sig : SpdmSig) (hash : SpdmHash) (kex : SpdmKex)
  | spdmCert (slot : Nat) (chain : List SpdmCert)
  | spdmChallenge (slot : Nat) (sig : SpdmSig)
  | spdmMeasurement (index : Nat) (digest : BitVec 512)
  | spdmSession
  | spdmError
  | replayRequest (port : Nat)
  | stopGo (port vc : Nat) (stop : Bool)
  | flit (port vc : Nat) (m : PeerMsg)
  | hostRead (link addr bytes tag : Nat)
  | hostWrite (link addr : Nat) (poisoned : Bool) (data : List Byte)
  | hostAtomicCas (link addr bytes : Nat) (cmp new : QWord) (tag : Nat)
  | hostAtomicOp (link addr bytes : Nat) (aop : BitVec 5) (b cmp : QWord) (tag : Nat)
  | atsRequest (link : Nat) (pasid : BitVec 20) (page tag : Nat) (privileged : Bool)
  | priRequest (link : Nat) (pasid : BitVec 20) (page tag : Nat)
  | atsInvalDone (link : Nat)
  | winClose (homeDev : BitVec 16) (winid : Word)
  | winOpen (homeDev : BitVec 16) (winid : Word)
  | capRead (port off tag : Nat)
  | capWrite (port off tag : Nat) (poisoned : Bool) (data : List Byte)
  deriving DecidableEq, Repr

/-- Bytes of a rank's part of a collective that have arrived (R424): sender, group, sequence number, offset, poison (R43), bytes. -/
structure CollPart where
  src : BitVec 16
  group : Word
  seq : DWord
  off : Nat
  bad : Bool
  data : List Byte
  deriving DecidableEq, Repr

/-- The answer to a copy's read of a line of a peer, by its tag (R16, R411): whether it failed, whether it is poisoned (R43), and its
bytes. -/
structure PeerReply where
  tag : Nat
  fail : Bool
  bad : Bool
  data : List Byte
  deriving DecidableEq, Repr

/-- The links: 24 ports (R13), the hash shares moved off down ports (R17), message counters per peer (R133), the 16
window slots (R20), what other ranks have sent for collectives (R424), and the answers to copies' reads of peers (R411). -/
structure Links where
  ports : List VPort
  moved : NMap Nat
  pendingMove : List Nat
  mseq : NMap Word
  windows : NMap Window
  inbox : List CollPart
  replies : List PeerReply := []
  deriving DecidableEq, Repr

/-! ### Memory devices -/

/-- Line metadata of R40 other than the tags: the cache-mode fields of a set. -/
structure SetMeta where
  valid : Bool
  dirty : Bool
  aliasIx : BitVec 2
  deriving DecidableEq, Repr

/-- A resource under targeted test (R50): the unit of R53, its WHERE word and its address. -/
structure PendingTest where
  unit : BitVec 4
  loc : Word
  addr : DWord
  deriving DecidableEq, Repr

/-- Coherence states of R204; I is the absence of an entry. -/
inductive Coh where
  | m
  | o
  | e
  | s
  deriving DecidableEq, Repr

/-- A line held by a cluster cache (holder 0-23), a die L2 (24-27) or an instruction cache (32 + core): R203-R206. -/
structure CacheLine where
  holder : Nat
  line : Nat
  way : Nat
  st : Coh
  rrpv : BitVec 2
  deriving DecidableEq, Repr

/-- One cluster's partial of a commutative line (R207): element values, and the cores that contributed (R209). -/
structure Partial where
  cluster : Nat
  line : Nat
  fmt : BitVec 2
  elems : List DWord
  cores : List Nat
  deriving DecidableEq, Repr

/-- An enrolment in a WAITADDR queue (R378, R379), in order of arrival. -/
structure Enrol where
  ctx : Nat
  addr : Nat
  req : Nat
  lane : Nat
  deriving DecidableEq, Repr

/-- Bytes by home address in one canonical form, and the occasion on which HBM's contents were last lost to a fatal reset, so that
they are undefined (R28). -/
structure Memory where
  cells : List Host.Cell
  lost : Option Nat
  deriving DecidableEq, Repr

/-- Memory and its homes: the bytes (R37), tags (R40, R210), poison (R42), poison tables (R45), cache mode (R46,
R47), the error ring (R52), tests and spares (R50, R51) with the boundary lanes fenced (R51), unpublished lines and their writer lists (R243), caches
(R203), commutative partials (R207), WAITADDR queues (R379), non-coherent INV copies (R234), host lines held modified
(R91) and the ALERT retry counts (R38). -/
structure Mem where
  bytes : Memory
  tags : NMap (BitVec 4)
  sets : NMap SetMeta
  poison : List Nat
  poisonTab : List Nat
  cacheReq : Bool
  cacheOn : Bool
  cacheBusy : Bool
  refused : Bool
  kindlingRef : Bool
  errBase : DWord
  errSize : BitVec 5
  errEn : Bool
  errOvf : Bool
  errHead : Word
  errTail : Word
  errSeq : Word
  tests : List PendingTest
  spared : NMap Nat
  fencedBanks : List Nat
  fencedCores : List Nat
  fencedLanes : List Nat
  writers : NMap (List Nat)
  cache : List CacheLine
  partials : List Partial
  enrols : List Enrol
  invCopies : NMap (List Byte)
  hostDirty : NMap (List Byte)
  alerts : NMap Nat
  deriving DecidableEq, Repr

/-! ### The damper calendar -/

/-- A calendar: entries of R55 and island masks. -/
structure Calendar where
  entries : List (BitVec 128)
  masks : List (BitVec 1280)
  deriving DecidableEq, Repr

/-- A slot in progress or postponed in the current frame (R65). -/
structure SlotRun where
  entry : Nat
  due : Nat
  postponed : Nat
  running : Bool
  untilTick : Nat
  deriving DecidableEq, Repr

/-- The calendar in force and the pending one, CALCTL, CALSRC, CALTARGET (R59), the frame (R54), pod alignment (R62),
the page's SEQ (R60) and this frame's slots (R65). -/
structure Cal where
  cur : Calendar
  next : Option Calendar
  gen : Word
  nextGen : Word
  nextFrame : DWord
  frame : DWord
  frameStart : Nat
  align : Nat
  busy : Bool
  result : BitVec 2
  failEntry : BitVec 8
  reason : BitVec 4
  count : BitVec 9
  podRef : Bool
  alignEn : Bool
  podAligned : Bool
  src : DWord
  target : DWord
  seq : DWord
  podOffset : Int
  podSeen : Bool
  podFrame : Option DWord
  slots : List SlotRun
  started : List Nat
  deriving DecidableEq, Repr

/-! ### Host interface -/

/-- A context's registers (R68), its fault sequence number (R83), and what a kill in progress still has to do (R69). -/
structure Ctx where
  en : Bool
  prio : BitVec 3
  weight : BitVec 8
  link : Bool
  svm : Bool
  pasid : BitVec 20
  root : DWord
  vec : DWord
  wdog : Word
  fqBase : DWord
  fqSize : BitVec 4
  fqHead : Word
  fqTail : Word
  fseq : Word
  invalBusy : Bool
  killed : Bool
  cause : BitVec 6
  killing : Bool
  deriving DecidableEq, Repr

/-- A queue slot's registers (R70), its pending-kick bit (R71), and HEAD and TAIL loaded from a checkpoint (R140). -/
structure QSlot where
  base : DWord
  en : Bool
  size : BitVec 4
  loc : Bool
  ctx : BitVec 6
  head : Word
  tail : Word
  waitSeq : Bool
  badKick : Bool
  kick : Bool
  loaded : Option (Word × Word)
  deriving DecidableEq, Repr

/-- Where an accepted host command stands (R73, R74). -/
inductive CmdStage where
  | accepted
  | dispatched
  | finished (fail : Option Cause)
  deriving DecidableEq, Repr

/-- An accepted host command (R72, R73): its words, stage, the first failure handled (R103), the invalidation it
started, and the page whose fault it waits for (R83). -/
structure HCmd where
  slot : Nat
  seq : Word
  ctx : Nat
  opc : BitVec 8
  a0 : DWord
  a1 : DWord
  a2 : DWord
  cookie : DWord
  stage : CmdStage
  fail : Option Cause
  inval : Option Nat
  fault : Option Nat
  deriving DecidableEq, Repr

/-- Contexts, queue slots, accepted commands and the journal (R75, R76). -/
structure HostIf where
  ctxs : NMap Ctx
  slots : NMap QSlot
  cmds : List HCmd
  jrnBase : DWord
  jrnSize : BitVec 5
  jrnEn : Bool
  jrnHead : Word
  jseq : Word
  deriving DecidableEq, Repr

/-! ### Translation -/

/-- A leaf as the TLBs hold it (R80): the physical base of the 4 KiB page and its attributes. -/
structure Leaf where
  pa : Nat
  r : Bool
  w : Bool
  x : Bool
  pub : Bool
  tagm : BitVec 2
  comm : BitVec 2
  priv : Bool
  host : Bool
  uc : Bool
  peer : Option (BitVec 16)
  deriving DecidableEq, Repr

/-- A cached translation of one 4 KiB virtual page of a context (R82, R84): the TLB that holds it, numbered as `Mmu.tlb`, and
for a page the host granted the Privileged Mode bit it was asked with (R87). -/
structure TlbEntry where
  tlb : Nat
  ctx : Nat
  page : Nat
  ats : Option Bool
  leaf : Leaf
  deriving DecidableEq, Repr

/-- The kind of an access as the fault record names it (R83). -/
inductive AccessKind where
  | read
  | write
  | atomic
  | fetch
  deriving DecidableEq, Repr

/-- Where an access comes from, as the fault record names it (R83): FROM, PC, LSEQ, CORE and SLOT. -/
structure FaultSite where
  origin : BitVec 2
  pc : DWord
  lseq : Word
  core : BitVec 8
  slot : BitVec 8
  deriving DecidableEq, Repr

/-- A page walk in progress (R82), or an ATS request and what it waits for (R87): the die that walks, the TLBs whose misses
it serves, the Privileged Mode bit, whether a page request is outstanding, and whether a denial waits for room for one. -/
structure Walk where
  id : Nat
  die : Nat
  tlbs : List Nat
  ctx : Nat
  page : Nat
  va : DWord
  kind : AccessKind
  site : FaultSite
  priv : Bool
  ats : Bool
  pri : Bool
  denied : Bool
  deriving DecidableEq, Repr

/-- A fault record without an answer (R82, R83); `written` is false while the fault ring is full. -/
structure PageFault where
  ctx : Nat
  page : Nat
  fseq : Word
  written : Bool
  malf : Bool
  hostpg : Bool
  wpois : Bool
  va : DWord
  kind : AccessKind
  site : FaultSite
  deriving DecidableEq, Repr

/-- An invalidation in progress (R86): its range (`bytes = 0` is the whole context), the requests and commands older
than it, and who waits for it. -/
structure Inval where
  id : Nat
  ctx : Nat
  base : Nat
  bytes : Nat
  upto : Nat
  byCtx : Bool
  ats : Option Nat
  deriving DecidableEq, Repr

/-- A notice held while the fault ring is full (R83, R273). -/
structure HeldNotice where
  ctx : Nat
  cause : Cause
  fseq : Word
  va : DWord
  site : FaultSite
  deriving DecidableEq, Repr

/-- The TLBs, walkers, unanswered faults, held notices and invalidations (R82-R87). -/
structure Xlate where
  tlb : List TlbEntry
  walks : List Walk
  faults : List PageFault
  notices : List HeldNotice
  invals : List Inval
  nextId : Nat
  deriving DecidableEq, Repr

/-! ### The Stoker -/

/-- How a completion-queue entry notifies (R102, R105, R106, R119). -/
inductive Notify where
  | live
  | skip
  | cond (taken : Bool)
  | body (live : Bool)
  deriving DecidableEq, Repr

/-- A node of an armed set (R99): the command and context that armed it, its record's address and identity, the record's
words and successor list as arming read them, the device-owned words (R97) as the Stoker keeps them, and its progress:
readiness and preferred cluster (R109, R116), gangs placed and done, loop counters (R106), notifications still to report,
whether the control core has retired it (R119), its failure (R103) and the page whose fault it waits for (R83); `preloaded` counts
the segments of its pre-load (R117), and `owe` says that its device-owned words have still to reach memory (R97). -/
structure ArmNode where
  slot : Nat
  seq : Word
  ctx : Nat
  addr : DWord
  key : Nat
  words : List DWord
  succ : List DWord
  state : Nat
  predLive : Nat
  liveIn : Bool
  launches : Word
  readyAt : Nat
  pref : Nat
  preloaded : Nat
  owe : Bool
  placed : Nat
  done : Nat
  iter : Nat
  body : List DWord
  backN : Nat
  backLeft : Nat
  backLive : Bool
  stored : Bool
  outs : List Notify
  closed : Bool
  failed : Option Cause
  fault : Option Nat
  deriving DecidableEq, Repr

/-- A completion-queue entry and its successor cursor (R119). -/
structure CqEntry where
  slot : Nat
  seq : Word
  addr : DWord
  how : Notify
  cursor : Nat
  deriving DecidableEq, Repr

/-- One dispatcher's cursors, used weight and pass counts (R109, R110), keyed by level, and by level and context, and the
tick of its next dispatch (R108). -/
structure Dispatcher where
  cursor : NMap Nat
  used : NMap Nat
  passes : NMap Nat
  nextAt : Nat
  deriving DecidableEq, Repr

/-- An entry of the placement table (R116), most recently written first. -/
structure PlaceEntry where
  addr : DWord
  bytes : Nat
  cluster : Nat
  deriving DecidableEq, Repr

/-- An admitted gang (R112, R114, R115): its node, index, cluster and members, and since when it waits. -/
structure Gang where
  id : Nat
  slot : Nat
  seq : Word
  ctx : Nat
  node : DWord
  index : Nat
  cluster : Nat
  members : List (Nat × Nat)
  resident : Bool
  since : Nat
  blockedAt : Nat
  deriving DecidableEq, Repr

/-- The Stoker's tables (R95). -/
structure Stoker where
  nodes : List ArmNode
  ready : List (Nat × Word × DWord)
  cq : List CqEntry
  retireQ : List CqEntry
  kern : Dispatcher
  copy : Dispatcher
  coll : Dispatcher
  place : List PlaceEntry
  gangs : List Gang
  nextGang : Nat
  forwarding : Bool
  deriving DecidableEq, Repr

/-! ### Recording, replay, trace, debug -/

/-- A run of R132: issuer, lowest lane and number of operations. -/
structure Run where
  issuer : BitVec 10
  lane : BitVec 5
  count : Nat
  deriving DecidableEq, Repr

/-- A parsed chunk of the log being replayed (R132, R133, R141): its runs or messages and its stamps. -/
structure LogChunk where
  agent : Nat
  cseq : Nat
  close : Nat
  len : Nat
  fold : BitVec 16
  runs : List Run
  msgs : List DWord
  stamps : List (Nat × Nat)
  deriving DecidableEq, Repr

/-- An agent's open chunk (R127, R132) or its place in the log (R141). -/
structure Agent where
  cseq : Nat
  ops : Nat
  fold : BitVec 16
  runs : List Run
  stamps : List (Nat × Nat)
  msgs : List DWord
  lastOp : Nat
  deriving DecidableEq, Repr

/-- The last modifier and later readers of a recorded object (R128). -/
structure ObjStamp where
  modBy : Option (Nat × Nat)
  readers : List (Nat × Nat)
  deriving DecidableEq, Repr

/-- The page being filled by a source (R130), and the source's page count. -/
structure PageBuf where
  pseq : Word
  start : Nat
  data : List Byte
  full : List (List Byte)
  deriving DecidableEq, Repr

/-- An ATRAP record of the log being replayed (R135). -/
structure LogTrap where
  agent : Nat
  cseq : Nat
  op : Nat
  issuer : Nat
  lane : Nat
  cause : Nat
  pc : DWord
  lseq : Word
  deriving DecidableEq, Repr

/-- A VALUE record of the log being replayed (R134). -/
structure LogValue where
  agent : Nat
  cseq : Nat
  op : Nat
  kind : Nat
  mask : Word
  vals : List DWord
  deriving DecidableEq, Repr

/-- A breakpoint (R123, R144). -/
structure Brk where
  agent : BitVec 10
  cseq : BitVec 48
  op : BitVec 13
  en : Bool
  hit : Bool
  deriving DecidableEq, Repr

/-- RECCTL and its companions (R123), the chunks (R127), objects (R128), page buffers (R130), checkpoint state (R138,
R139) and the log being replayed (R140-R143).  `past` holds the breakpoints that have halted the device, with the places they stood at
(R144), and `failed` the logged chunks that have failed a check (R143); MODEL: `early` marks a step in which an operation came before its
turn. -/
structure Recd where
  mode : BitVec 2
  policy : Bool
  boundary : Bool
  halted : Bool
  stopped : Bool
  diverged : Bool
  ended : Bool
  modeRef : Bool
  devid : BitVec 16
  ashBase : DWord
  ashSize : BitVec 7
  ashHead : Word
  ashTail : Word
  ckBase : DWord
  ckSeq : Word
  ckBusy : Bool
  ckCur : Bool
  divAgent : BitVec 10
  divReason : BitVec 3
  divCseq : BitVec 48
  divOp : BitVec 13
  brks : NMap Brk
  repset : DWord
  dirty0 : List Nat
  dirty1 : List Nat
  dseq : Word
  hostSeq : Word
  agents : NMap Agent
  objs : NMap ObjStamp
  pages : NMap PageBuf
  log : List LogChunk
  committed : List (Nat × Nat)
  values : List LogValue
  atraps : List LogTrap
  places : List (Nat × DWord × DWord × DWord)
  payloads : List (Nat × Nat × Nat × List Byte)
  ready : List DWord
  early : Bool
  past : List (Nat × Nat × Nat × Nat)
  lastProgress : Nat
  failed : List (Nat × Nat) := []
  deriving DecidableEq, Repr

/-- The trace ring and its per-island counters (R123, R145-R147); MODEL: the first tick not yet latched, or sampled. -/
structure Trace where
  base : DWord
  k : BitVec 5
  en : Bool
  j : BitVec 5
  sampEn : Bool
  size : BitVec 5
  head : Word
  tail : Word
  lost : Word
  lastRec : NMap Nat
  slot : NMap Nat
  pages : NMap PageBuf
  latchAt : Nat
  sampAt : Nat
  deriving DecidableEq, Repr

/-- STEPCTL (R123) and the step in progress (R150, R151): the lanes still to step, and the number from which on traps
belong to the step. -/
structure StepCtl where
  core : BitVec 8
  bctx : BitVec 4
  warp : BitVec 5
  lane : BitVec 5
  all : Bool
  done : Bool
  blocked : Bool
  cause : BitVec 6
  active : Bool
  todo : List Nat
  mark : Nat
  deriving DecidableEq, Repr

/-- A watchpoint (R123, R149). -/
structure Watch where
  va : DWord
  len : BitVec 40
  kinds : BitVec 4
  vcmp : Bool
  scope : BitVec 3
  lane : BitVec 5
  warp : BitVec 5
  rank : BitVec 3
  nodeId : Word
  gang : Word
  value : DWord
  mask : DWord
  deriving DecidableEq, Repr

/-! ### Clusters and cores -/

/-- Modes of a cluster SRAM bank (R192). -/
inductive BankMode where
  | cache
  | spad
  | fifo
  deriving DecidableEq, Repr

/-- A FIFO entry (R197): 32 words and its poison (R42). -/
structure FifoEntry where
  data : List Word
  poisoned : Bool
  deriving DecidableEq, Repr

/-- A bank of a cluster (R192, R194, R197, R198): mode, owner, entries, the request queue, the pops and pushes that
wait, the mode change in progress with the owner it gives, the party that asked for it by its block admission, the parties whose change has
completed but which have not gone on yet (R445), and whether the Stoker switched the bank (R113). -/
structure Bank where
  mode : BankMode
  owner : Option Nat
  fifo : List FifoEntry
  queue : List Nat
  waitPop : List Nat
  waitPush : List Nat
  change : Option (BankMode × Option Nat)
  changer : Option (Nat × Nat)
  done : List (Nat × Nat)
  stoked : Bool
  deriving DecidableEq, Repr

/-- A tile-table entry (R199, R201): descriptor without STATE, state, fill count, the commands reading it, the readers
a TREL waits for, the timeline raise of that TREL, and the block that holds the entry. -/
structure Tile where
  desc : BitVec 128
  st : BitVec 3
  fills : Nat
  readers : List Nat
  raise : Option (Nat × DWord)
  deriving DecidableEq, Repr

/-- The home of a request (R188, R203, R374): memory, the scratchpad of a block (by its admission), a FIFO bank, host memory, a peer device,
or a reduction window. -/
inductive Home where
  | mem
  | spad (adm : Nat)
  | fifo (cluster bank : Nat)
  | host (link : Nat)
  | peer (dev : BitVec 16)
  | window (slot : Nat)
  deriving DecidableEq, Repr

/-- A table fill in progress (R360): its block admission and warp, and the number of the first of the loads that bring its image. -/
structure TblFill where
  adm : Nat
  w : Nat
  first : Nat
  deriving DecidableEq, Repr

/-- An activation-table bank (R358, R359): image, generation, owner (a block admission), the fill in progress, and the
results still bound to it. -/
structure TblBank where
  image : List Byte
  gen : Word
  owner : Option Nat
  filling : Option TblFill
  current : Bool
  bound : Nat
  deriving DecidableEq, Repr

/-- A core: tile table (R199), scale memory by byte (R202) with the seed of its undefined bytes, table banks and
generation (R359), the CYCLE counter's last change (R438): value in eightieths of a cycle and the tick it held, and whether the
Kiln's next command is held by admission, with whether a free window has begun since (R64). -/
structure Core where
  tiles : NMap Tile
  scale : NMap Byte
  scaleSeed : Nat
  banks : List TblBank
  gen : Word
  cyc80 : Nat
  cycAt : Nat
  kilnWait : Option Bool
  deriving DecidableEq, Repr

/-! ### Parties of a block -/

/-- The blocking points of R164, with what each waits for; `post` marks a wait whose instruction has already acted,
so that waking moves on to the next word. -/
inductive BlockPt where
  | barrier (b phase : Nat) (post : Bool)
  | phaser (n phase : Nat) (post : Bool) (sd : Nat)
  | timeline (n : Nat) (v : DWord)
  | emptyReg (uni : Bool) (r : Nat)
  | stageWait (v : DWord)
  | token (mask : BitVec 8)
  | tile (t : Nat)
  | mwait (n : Nat)
  | waitaddr (r : Nat) (v : DWord)
  | remoteLoad (uni : Bool) (r : Nat)
  | yielded
  | tblload
  | service (page : Option Nat)
  | trapTurn
  | haltStop
  deriving DecidableEq, Repr

/-- What a lane is doing (R159, R162, R164, R183). -/
inductive LaneStat where
  | run
  | held
  | loopHeld (level : Nat)
  | blocked (p : BlockPt)
  | exited
  deriving DecidableEq, Repr

/-- Where a lane stands with respect to traps (R277-R281, R442): the number of the trap it waits to have handled, in the
handler, or held at a TRET already issued. -/
inductive TrapStat where
  | none
  | pending (n : Nat)
  | handler
  | returned
  deriving DecidableEq, Repr

/-- A clause being issued (R177, R246): its header's address, the header, its words as fetched, the repetition reached (R187), and
whether the words that have not issued have been discarded by a CODEPUB (R377). -/
structure Clause where
  hdrAt : DWord
  hdr : Word
  words : List Word
  rep : Nat
  stale : Bool := false
  deriving DecidableEq, Repr

/-- The transfer a lane has just taken (R311): the transfer word's address, the word, and its clause, to which a bad
target returns it. -/
structure Via where
  pc : DWord
  word : Word
  clause : Clause
  deriving DecidableEq, Repr

/-- A lane (R159): PC, MR, what it is doing, its trap status, what the divergence block saves at trap entry (MR, stop
and clause: R279, R281, R311), the clause it is issuing, and the transfer that brought it to its PC.  `toMeet` says that its PC has
become its MR and that nothing has looked yet whether a clause header stands there (R427).  A lane stopped at a blocking point of its
clause's last word keeps its clause, whose end it takes when it wakes. -/
structure Lane where
  pc : DWord
  mr : DWord
  stat : LaneStat
  trap : TrapStat
  savedMr : DWord
  savedStat : LaneStat
  savedClause : Option Clause
  clause : Option Clause
  via : Option Via
  toMeet : Bool := false
  deriving DecidableEq, Repr

/-- A hardware loop level (R181-R184): whether it is active, counter, body start and end, and mask. -/
structure LoopLvl where
  active : Bool
  lc : Word
  start : DWord
  stop : DWord
  mask : Word
  deriving DecidableEq, Repr

/-- A trap waiting for the handler, with the values it writes to the trap registers (R278, R280); `inside` says that it is a service
fault of lanes in the handler, which take it there (R282). -/
structure TrapRec where
  n : Nat
  cause : Cause
  whenT : BitVec 2
  serviced : Bool
  rep : BitVec 6
  flags : BitVec 5
  origin : BitVec 2
  lost : BitVec 3
  more : BitVec 6
  pc : DWord
  npc : DWord
  addr : DWord
  active : Word
  faulting : Word
  word : Word
  ext : Word
  lseq : Word
  issuer : BitVec 6
  inside : Bool := false
  deriving DecidableEq, Repr

/-- A pending asynchronous trap (R285, R290). -/
structure ATrap where
  cause : Cause
  origin : BitVec 2
  more : BitVec 6
  serviced : Bool
  pc : DWord
  addr : DWord
  lseq : Word
  issuer : BitVec 6
  deriving DecidableEq, Repr

/-- One party of a block: a warp (32 lanes) or a uniform stream (one lane), with the state R154, R156, R171, R238,
R258, R262, R280, R290 and R410 give it.  `rows` holds its slice of the pool (R173); an unlisted row is undefined.  `waited` counts,
by lane, the clauses that the party has issued since the lane could have issued (R161, R166), and `since` is the tick since which
a matrix stream has been ready (R153); `turned` holds the lanes that replay holds before a shared-state operation (R141);
`copyStall` says that the sub-warp last selected is stalled at copy issue (R285). -/
structure Thr where
  lanes : List Lane
  preds : List Word
  frm : Word
  srSeed : Word
  srCnt : List Word
  poolb : Nat
  lseq : Word
  cpystat : DWord
  tokens : List Nat
  loops : List LoopLvl
  rows : NMap (List Word)
  rowSeed : Nat
  empty : List Nat
  marks : List DWord
  stage : DWord
  tcause : DWord
  tpc : DWord
  tnpc : DWord
  taddr : DWord
  tmask : DWord
  tword : DWord
  tsite : DWord
  tscr : List (List Word)
  trapQ : List TrapRec
  handling : Option TrapRec
  asyncQ : List ATrap
  lost : Nat
  tagRec : Option (DWord × DWord × Nat)
  hits : List (Nat × Nat × DWord)
  arrive : NMap Word
  arrived : NMap Nat
  waited : NMap Nat
  since : Option Nat
  turned : Word
  copyStall : Bool
  lastLane : Nat
  terminated : Bool
  deriving DecidableEq, Repr

/-- A block barrier (R240, R288, R385). -/
structure Bar where
  init : Bool
  parts : BitVec 34
  arrived : BitVec 34
  phase : Nat
  deriving DecidableEq, Repr

/-- Where a block stands (R112, R114, R286). -/
inductive BlkStat where
  | admitted
  | resident
  | parking (reason : Nat)
  | parked
  | restorable
  deriving DecidableEq, Repr

/-- What the node gave the block at launch (R96, R104, R118). -/
structure NodeInfo where
  slot : Nat
  seq : Word
  ctx : Nat
  node : DWord
  nodeId : Word
  isCopy : Bool
  gangId : Nat
  g : Nat
  gx : Word
  gy : Word
  rank : Nat
  gangX : Word
  gangY : Word
  bpg : Nat
  wpb : Nat
  poolRows : Nat
  accRows : Nat
  spadB : Nat
  scaleB : Nat
  tiles : Nat
  param : DWord
  launches : Word
  lanePc : DWord
  mtxPc : DWord
  accPc : DWord
  deriving DecidableEq, Repr

/-- A block in a block context (R112, R154, R156): uniform registers and predicates, barriers, tile references,
scratchpad with its bank list and the first line of its share in each bank (R193) and poisoned lines (R42), scale slice,
access context, parties, service stop (R283), watchdog (R68), halt (R150), critical-path token (R147), the tick it started
(R438), and the seed of its image's opaque bytes (R289).  `parkReason` is 4 for a divergence (R143), and has 8 added while the
block is back at a service stop that has no answer (R115). -/
structure Blk where
  adm : Nat
  info : NodeInfo
  stat : BlkStat
  s : NMap DWord
  sEmpty : List Nat
  sWriter : NMap Nat
  q : BitVec 7
  bars : List Bar
  tileRefs : List Nat
  spad : NMap Byte
  spadSeed : Nat
  spadPoison : List Nat
  spadBanks : List Nat
  spadAt : List Nat
  scaleCol : Nat
  accCtx : Option Nat
  thrs : NMap Thr
  svc : Bool
  wdog : Nat
  wdogAt : Nat
  halted : Bool
  stepping : Bool
  tokenHolder : Nat
  tokenEdge : BitVec 3
  startAt : Nat
  failed : Option Cause
  parkReason : Nat
  stuckSince : Option Nat
  imgSeed : Nat
  deriving DecidableEq, Repr

/-! ### Work in flight -/

/-- What a reply fills (R171, R360): nothing, `n` lane registers from `v`, a uniform register, or the activation table whose fill begins
with load `first`. -/
inductive Dst where
  | none
  | lane (v n : Nat)
  | uni (r : Nat)
  | tbl (first : Nat)
  deriving DecidableEq, Repr

/-- What a request does at its home (R369). -/
inductive ReqKind where
  | load
  | store
  | atom (aop : BitVec 5)
  | cas
  | red (aop : BitVec 5)
  | cadd (fmt : BitVec 2)
  | waitaddr
  | wakeaddr
  | tagld
  | tagst
  /-- The read of a line of code from the capacity tier (R22, R245). -/
  | fetch
  /-- The bringing of a line of host memory into a cluster's cache (R381). -/
  | pref
  deriving DecidableEq, Repr

/-- How far a request has come: held by its release, queued at its home, accepted by its cluster (R231), waiting in a
queue (R198, R378), sent off the device, served, or acknowledged. -/
inductive ReqStage where
  | queued
  | accepted
  | waiting
  | sent
  | served
  deriving DecidableEq, Repr

/-- One lane's part of a request: its virtual address, the same in generic form without its tag (R149), home byte address (or offset),
data and compare value; the global address that was translated, with its pointer tag (R190), whether its page checks tags asynchronously (R212), and its
page's COMM format (R207). -/
structure LaneOp where
  lane : Nat
  va : DWord
  gen : Nat
  addr : Nat
  data : QWord
  cmp : QWord
  gva : DWord
  atag : Bool
  fmt : BitVec 2
  deriving DecidableEq, Repr

/-- A request: the lanes of one instruction that touch one line or object (R125, R194); `low` is the lowest lane of the
issuing sub-warp (R132), `mask` the lanes in whose program order the access stands; `tries` counts the attempts
of a host atomic (R89), `sentN` the lanes whose flits have been sent (R15), and `bad` the lanes whose own part failed where
`err` does not stand for all of them; `woken` says that a WAKEADDR or an eviction has woken a lane of it (R380); `rep` is the repetition of the issuing word and `next` the address of the word after it (R187,
R281). -/
structure Req where
  id : Nat
  core : Nat
  bctx : Nat
  w : Nat
  low : Nat
  adm : Nat
  ctx : Nat
  kind : ReqKind
  size : Nat
  sgn : Bool
  home : Home
  line : Nat
  mask : Word
  ops : List LaneOp
  dst : Dst
  stage : ReqStage
  got : List (Nat × QWord)
  err : Option Cause
  uc : Bool
  pub : Bool
  inv : Bool
  acq : Bool
  privileged : Bool
  reuse : BitVec 2
  hold : Bool
  tries : Nat
  sentN : Nat
  bad : Word
  pc : DWord
  word : Word
  ext : Word
  lseq : Word
  rep : BitVec 6 := 0
  next : DWord := 0
  woken : Bool := false
  deriving DecidableEq, Repr

/-- What happens when a release completes (R230, R231, R237, R241, R244, R386, R392); a CODEPUB first publishes. -/
inductive RelAct where
  | fence (sc : Bool) (lanes : Word)
  | codepub (lanes : Word) (published : Bool)
  | write (req : Nat)
  | tlsig (tl : Nat) (v : DWord)
  | phsig (n : Nat) (phase : Nat)
  | arrive (b : Nat) (lanes : Word)
  | stage (v : DWord)
  deriving DecidableEq, Repr

/-- A release in progress: its issuer with the lowest lane of the sub-warp, the lanes whose operations it covers, its scope, and the
requests that precede it; `quiet` marks one that is no operation of a word (R386). -/
structure Rel where
  id : Nat
  core : Nat
  bctx : Nat
  w : Nat
  adm : Nat
  low : Nat
  mask : Word
  scope : Nat
  upto : Nat
  act : RelAct
  quiet : Bool := false
  deriving DecidableEq, Repr

/-- A class 2 result in flight (R171): destination row and lane values, the issuing party, and the table bank it
binds. -/
structure SfuRes where
  id : Nat
  core : Nat
  bctx : Nat
  w : Nat
  adm : Nat
  vd : Nat
  vals : List (Nat × Word)
  bank : Option Nat
  deriving DecidableEq, Repr

/-- A copy or COLL command (R406-R409, R422): its words with operand values, the code's privilege, where it stands, how
much it has written (`done`) and read (`pos`), the block admissions a multicast counts its fill in, and what its status
will report, with the address at which it failed (R280); `opened` says that a free window of its resources has begun while it was held (R64). -/
structure Cmd where
  id : Nat
  core : Nat
  bctx : Nat
  w : Nat
  adm : Nat
  ctx : Nat
  op : Instr
  sd : DWord
  sa : DWord
  sb : DWord
  sv : DWord
  priv : Bool
  tok : Option Nat
  tl : Option (Nat × DWord)
  dt : Option Nat
  st : Option Nat
  pc : DWord
  lseq : Word
  started : Bool
  inFlight : Bool
  done : Nat
  pos : Nat
  targets : List Nat
  poisonF : Bool
  tagF : Bool
  tagSite : Option DWord
  drops : Nat
  fail : Option Cause
  failAt : DWord
  finished : Bool
  fault : Option Nat
  engine : Nat
  watched : List Nat
  upto : Nat
  opened : Bool
  asked : List (Nat × DWord) := []
  acks : List Nat := []
  nack : Bool := false
  sent : Bool := false
  deriving DecidableEq, Repr

/-- A class 5 command in flight (R394): its word and the operand values read at issue. -/
structure MCmd where
  id : Nat
  core : Nat
  bctx : Nat
  adm : Nat
  op : Instr
  base : Nat
  k0 : Nat
  sv : DWord
  pc : DWord
  lseq : Word
  deriving DecidableEq, Repr

/-- A running collective of a COLL node or command (R116, R422-R425): `held` says that a segment has been admitted and
holds its resources, `done` counts the DST elements written, `sent` the messages sent for the segment and `ports` the ports they
left on (R17, R63, R424); `opened` is as a command's (R64).  `left` is what remains of DST in bytes, once the descriptor has been
read, and `lacks` says that a peer's part has been missing since tick `since` (R425); `ended` that it is over and holds its engine until the completion
queue has room (R119). -/
structure Coll where
  id : Nat
  engine : Nat
  ctx : Nat
  desc : DWord
  cmd : Option Nat
  node : Option (Nat × Word × DWord)
  since : Nat
  fail : Option Cause
  held : Bool
  done : Nat
  sent : Nat
  ports : List Nat
  opened : Bool
  left : Option Nat
  lacks : Bool
  ended : Bool
  deriving DecidableEq, Repr

/-- A member of a phaser (R241, R389): its party, by its block's admission and its number, its mode, first counted phase, the last
phase signalled, the last phase whose signal's release has completed, and whether it has dropped. -/
structure PhMember where
  adm : Nat
  w : Nat
  mode : BitVec 2
  first : Nat
  signalled : Option Nat
  counted : Option Nat
  dropping : Bool
  deriving DecidableEq, Repr

/-- A phaser (R241, R389). -/
structure Phaser where
  phase : Nat
  owner : Nat
  members : List PhMember
  deriving DecidableEq, Repr

/-- A uniform register or predicate, by its number (R168, R169). -/
inductive UniReg where
  | s (n : Nat)
  | q (n : Nat)
  deriving DecidableEq, Repr

/-- The words of one block that issue in one cycle (R338): the uniform registers and predicates as the cycle found them, and which
party has written which. -/
structure Cycle where
  core : Nat
  bctx : Nat
  adm : Nat
  s : NMap DWord
  q : BitVec 7
  wrote : List (Nat × UniReg)
  deriving DecidableEq, Repr

/-- The issue latch (MODEL): the word being issued, who issues it, and the clause fields that act on it (R160, R178,
R186). -/
structure Cur where
  core : Nat
  bctx : Nat
  w : Nat
  lanes : Word
  hdrAt : DWord
  hdr : Word
  pc : DWord
  next : DWord
  last : Bool
  cls : Nat
  word : Word
  ext : Word
  rep : Nat
  reps : Nat
  deriving DecidableEq, Repr

/-- The whole machine.  `tick` is the package tick (R3).  MODEL: `inputs` are events brought from outside or chosen
for the next steps, each with what it brings; `arg` is what the event being taken brings; `focus` is the party whose next word the next step issues; `rr` is where the rotation over parties
stands; `fresh` numbers free values; `cur` is the issue latch; `outbox` is what the device has sent. -/
structure State where
  tick : Nat
  inputs : List (Instr × EvArg)
  arg : EvArg
  focus : Option (Nat × Nat × Nat)
  rr : Nat
  fresh : Nat
  cur : Option Cur
  cycle : Option Cycle
  outbox : List Out
  nextId : Nat
  dev : Dev
  links : Links
  mem : Mem
  cal : Cal
  host : HostIf
  xl : Xlate
  stoker : Stoker
  recd : Recd
  trace : Trace
  stepctl : StepCtl
  watch : NMap Watch
  clusters : NMap Bank
  cores : NMap Core
  blks : NMap Blk
  tls : NMap DWord
  phasers : NMap Phaser
  reqs : List Req
  rels : List Rel
  sfu : List SfuRes
  cmds : List Cmd
  mcmds : List MCmd
  colls : List Coll
  deriving DecidableEq, Repr

/-! ### Reset -/

/-- A virtual channel after reset. -/
def VChan.reset : VChan := { buf := [], stopSent := false, stopped := false, credit := 8 }

/-- A port after reset: untrained, no lanes (R34). -/
def VPort.reset : VPort :=
  { st := 0, lanesUp := 0, crcErr := false, downEv := false, replays := 0, replayBuf := [], sent := 0, rxFails := 0,
    replayFrom := 0, replayTries := 0, replayDue := false,
    lanesFenced := false, vcs := List.replicate 4 VChan.reset }

/-- Package state after a cold reset (R33, R67, R90, R92); the standby control core is in place (R121). -/
def Dev.reset : Dev :=
  { stage := 0, fwFail := false, clusterUp := 0, stackUp := 0, hearth1Up := false, capUp := 0, capBytes := [],
    host1Up := false, hostWidth := [0, 0], ideKeys := 0, priOff := 0, priAlloc := [512, 512], fwBusy := false, fwResult := 0, fwReason := 0,
    fwAddr := 0, fwLen := 0, fw := none, bar2Base := 0, hostAtom := 0, islandPoint := [], overLimit := false,
    throttle := false, clearSince := 0, activeCore := 0, standby := true, spdmSession := false, boots := 0 }

/-- The links after reset. -/
def Links.reset : Links :=
  { ports := List.replicate 24 VPort.reset, moved := [], pendingMove := [], mseq := [], windows := [], inbox := [] }

/-- Memory with nothing listed. -/
def Memory.empty : Memory := { cells := [], lost := none }

/-- Memory after reset: nothing listed; MEMCFG, ERRBASE, ERRCTL and ERRTAIL at their reset values (R46, R52). -/
def Mem.reset : Mem :=
  { bytes := Memory.empty, tags := [], sets := [], poison := [], poisonTab := [], cacheReq := false, cacheOn := false,
    cacheBusy := false, refused := false, kindlingRef := false, errBase := 0, errSize := 6, errEn := false,
    errOvf := false, errHead := 0, errTail := 0, errSeq := 0, tests := [], spared := [], fencedBanks := [],
    fencedCores := [], fencedLanes := [], writers := [], cache := [], partials := [], enrols := [], invCopies := [], hostDirty := [],
    alerts := [] }

/-- One entry of the built-in calendar: KIND, START, LEN, STACKS, LINKS, IMASK valid (R55, R59). -/
def Calendar.entry (kind start len : Nat) (hbm : BitVec 12) (links : BitVec 39) (imv : Bool) : BitVec 128 :=
  BitVec.ofNat 128 (start + len * 2 ^ 10 + kind * 2 ^ 20 + hbm.toNat * 2 ^ 24 + links.toNat * 2 ^ 36
    + imv.toNat * 2 ^ 86)

/-- The built-in calendar of generation 0 (R59): five entries and one mask, every island but 1,239 and 1,279. -/
def Calendar.builtIn : Calendar :=
  { entries :=
      [ Calendar.entry 0 0 12 0xFFF 0 false,
        Calendar.entry 1 256 8 0 0x7F_FFFF_FFFF false,
        Calendar.entry 0 512 12 0xFFF 0 false,
        Calendar.entry 4 768 16 0xFFF 0x7F_FFFF_FFFF false,
        Calendar.entry 5 896 4 0 0 true ],
    masks := [BitVec.ofNat 1280 (2 ^ 1280 - 1 - 2 ^ 1239 - 2 ^ 1279)] }

/-- The calendar after a cold reset (R54, R59). -/
def Cal.reset : Cal :=
  { cur := Calendar.builtIn, next := none, gen := 0, nextGen := 0, nextFrame := 0, frame := 0, frameStart := 0,
    align := 0, busy := false, result := 0, failEntry := 0, reason := 0, count := 0, podRef := false, alignEn := false,
    podAligned := false, src := 0, target := 0, seq := 0, podOffset := 0, podSeen := false, podFrame := none, slots := [],
    started := [] }

/-- A context's registers at their reset values (R68). -/
def Ctx.reset : Ctx :=
  { en := false, prio := 0, weight := 1, link := false, svm := false, pasid := 0, root := 0, vec := 0, wdog := 0,
    fqBase := 0, fqSize := 0, fqHead := 0, fqTail := 0, fseq := 0, invalBusy := false, killed := false, cause := 0,
    killing := false }

/-- A queue slot's registers at their reset values (R70). -/
def QSlot.reset : QSlot :=
  { base := 0, en := false, size := 0, loc := false, ctx := 0, head := 0, tail := 0, waitSeq := false,
    badKick := false, kick := false, loaded := none }

/-- The host interface after reset: JRNCTL.SIZE is 12 (R75). -/
def HostIf.reset : HostIf :=
  { ctxs := [], slots := [], cmds := [], jrnBase := 0, jrnSize := 12, jrnEn := false, jrnHead := 0, jseq := 0 }

/-- No translations after reset. -/
def Xlate.reset : Xlate := { tlb := [], walks := [], faults := [], notices := [], invals := [], nextId := 0 }

/-- A dispatcher after reset. -/
def Dispatcher.reset : Dispatcher := { cursor := [], used := [], passes := [], nextAt := 0 }

/-- The Stoker after reset. -/
def Stoker.reset : Stoker :=
  { nodes := [], ready := [], cq := [], retireQ := [], kern := Dispatcher.reset, copy := Dispatcher.reset,
    coll := Dispatcher.reset, place := [], gangs := [], nextGang := 0, forwarding := true }

/-- The Nuntaok recording registers after reset (R123): ASHCTL.SIZE is 1. -/
def Recd.reset : Recd :=
  { mode := 0, policy := false, boundary := false, halted := false, stopped := false, diverged := false,
    ended := false, modeRef := false, devid := 0, ashBase := 0, ashSize := 1, ashHead := 0, ashTail := 0, ckBase := 0,
    ckSeq := 0, ckBusy := false, ckCur := false, divAgent := 0, divReason := 0, divCseq := 0, divOp := 0, brks := [],
    repset := 0, dirty0 := [], dirty1 := [], dseq := 0, hostSeq := 0, agents := [], objs := [], pages := [],
    log := [], committed := [], values := [], atraps := [], places := [], payloads := [], ready := [], early := false, past := [],
    lastProgress := 0 }

/-- The trace registers after reset (R123): K is 10, J and SIZE are 8. -/
def Trace.reset : Trace :=
  { base := 0, k := 10, en := false, j := 8, sampEn := false, size := 8, head := 0, tail := 0, lost := 0,
    lastRec := [], slot := [], pages := [], latchAt := 0, sampAt := 0 }

/-- STEPCTL after reset (R123). -/
def StepCtl.reset : StepCtl :=
  { core := 0, bctx := 0, warp := 0, lane := 0, all := false, done := false, blocked := false, cause := 0,
    active := false, todo := [], mark := 0 }

/-- A watchpoint's registers at their reset values (R123). -/
def Watch.reset : Watch :=
  { va := 0, len := 0, kinds := 0, vcmp := false, scope := 0, lane := 0, warp := 0, rank := 0, nodeId := 0, gang := 0,
    value := 0, mask := 0 }

/-- A breakpoint's registers at their reset values (R123). -/
def Brk.reset : Brk := { agent := 0, cseq := 0, op := 0, en := false, hit := false }

/-- A bank after reset: cache mode (R192). -/
def Bank.reset : Bank :=
  { mode := .cache, owner := none, fifo := [], queue := [], waitPop := [], waitPush := [], change := none, changer := none, done := []
    stoked := false }

/-- An empty tile-table entry (R156, R199). -/
def Tile.reset : Tile := { desc := 0, st := 0, fills := 0, readers := [], raise := none }

/-- A table bank after reset: not current (R359). -/
def TblBank.reset : TblBank :=
  { image := [], gen := 0, owner := none, filling := none, current := false, bound := 0 }

/-- A core after reset (R359, R438). -/
def Core.reset : Core :=
  { tiles := [], scale := [], scaleSeed := 0, banks := [TblBank.reset, TblBank.reset], gen := 0, cyc80 := 0,
    cycAt := 0, kilnWait := none }

/-- The machine right after a cold reset: stage 0, tick 0, every register at the value R4 tables give (or the value
the assumption log names), no memory listed, no block, nothing in flight. -/
def State.reset : State :=
  { tick := 0, inputs := [], arg := {}, focus := none, rr := 0, fresh := 0, cur := none, cycle := none, outbox := [], nextId := 0,
    dev := Dev.reset, links := Links.reset, mem := Mem.reset, cal := Cal.reset, host := HostIf.reset,
    xl := Xlate.reset, stoker := Stoker.reset, recd := Recd.reset, trace := Trace.reset, stepctl := StepCtl.reset,
    watch := [], clusters := [], cores := [], blks := [], tls := [], phasers := [], reqs := [], rels := [], sfu := [],
    cmds := [], mcmds := [], colls := [] }

end Sys2Proof.Machine
end

