-- ==== Sys2Proof/Machine/Maps.lean ====
section
/-! DEFINITION. Operations on the sparse maps that hold the arrays of State, on memory bytes and on bit masks. -/

namespace Sys2Proof.Machine

/-! ### Sparse maps -/

/-- The value listed at index `k`. -/
def nget {α : Type} : NMap α → Nat → Option α
  | [], _ => none
  | (j, x) :: t, k => if j = k then some x else nget t k

/-- The value at index `k`, or `d` where none is listed. -/
def ngetD {α : Type} (m : NMap α) (k : Nat) (d : α) : α := (nget m k).getD d

/-- The map with `v` at index `k`, indices kept rising. -/
def nput {α : Type} (k : Nat) (v : α) : NMap α → NMap α
  | [] => [(k, v)]
  | (j, x) :: t => if k < j then (k, v) :: (j, x) :: t else if k = j then (k, v) :: t else (j, x) :: nput k v t

/-- The map without index `k`. -/
def ndel {α : Type} (k : Nat) : NMap α → NMap α
  | [] => []
  | (j, x) :: t => if j = k then ndel k t else (j, x) :: ndel k t

/-- The map with the value at `k` changed by `f`, starting from `d` where none is listed. -/
def nmod {α : Type} (k : Nat) (d : α) (f : α → α) (m : NMap α) : NMap α := nput k (f (ngetD m k d)) m

/-- The list with element `i` changed by `f`. -/
def lmod {α : Type} (i : Nat) (f : α → α) : List α → List α
  | [] => []
  | x :: t => match i with
    | 0 => f x :: t
    | j + 1 => x :: lmod j f t

/-- The list with element `i` replaced. -/
def lset {α : Type} (i : Nat) (v : α) (l : List α) : List α := lmod i (fun _ => v) l

/-! ### Memory bytes -/

/-- All of HBM (R37). -/
def hbmBytes : Nat := 1152000000000

/-- What an unlisted address reads as: zero, or an undefined byte of HBM after a fatal reset (R28, log entry 1). -/
def unlisted (lost : Option Nat) (a : Nat) : Byte :=
  match lost with
  | none => 0
  | some k => if a < hbmBytes then Config.freeByte k a else 0

/-- A byte of memory. -/
def readByte (m : Memory) (a : Nat) : Byte := ngetD m.cells a (unlisted m.lost a)

/-- A byte written into cells, keeping the canonical form: what an unlisted address reads as is not listed. -/
def writeCell (lost : Option Nat) (m : List Host.Cell) (a : Nat) (b : Byte) : List Host.Cell :=
  if b = unlisted lost a then ndel a m else nput a b m

/-- Consecutive bytes written into cells from address `a`. -/
def writeCells (lost : Option Nat) (m : List Host.Cell) (a : Nat) : List Byte → List Host.Cell
  | [] => m
  | b :: t => writeCells lost (writeCell lost m a b) (a + 1) t

/-- `n` bytes from address `a`. -/
def readBytes (m : Memory) (a : Nat) : Nat → List Byte
  | 0 => []
  | n + 1 => readByte m a :: readBytes m (a + 1) n

/-- Consecutive bytes written from address `a`. -/
def writeBytes (m : Memory) (a : Nat) (bs : List Byte) : Memory := { m with cells := writeCells m.lost m.cells a bs }

/-- Whether addresses rise strictly from `lo` and no listed byte is what its address reads as unlisted. -/
def cellsWf (lost : Option Nat) (lo : Nat) : List Host.Cell → Bool
  | [] => true
  | (a, b) :: t => decide (lo ≤ a) && b != unlisted lost a && cellsWf lost (a + 1) t

/-- The canonical form of memory. -/
def Memory.wf (m : Memory) : Bool := cellsWf m.lost 0 m.cells

/-- The number little-endian bytes hold (R2). -/
def leNat : List Byte → Nat
  | [] => 0
  | b :: t => b.toNat + 256 * leNat t

/-- The low `n` bytes of a number, least significant first (R2). -/
def leBytes : Nat → Nat → List Byte
  | 0, _ => []
  | n + 1, v => BitVec.ofNat 8 v :: leBytes n (v / 256)

/-! ### Lane masks -/

/-- The lanes of a mask, ascending. -/
def maskLanes (m : Word) : List Nat := (List.range 32).filter m.getLsbD

/-- The mask of a list of lanes. -/
def lanesMask (l : List Nat) : Word := l.foldl (fun m i => m ||| BitVec.ofNat 32 (2 ^ i)) 0

/-- The mask of the lanes for which `f` holds. -/
def maskOf (f : Nat → Bool) : Word := lanesMask ((List.range 32).filter f)

/-- Mask with lane `i` alone. -/
def laneBit (i : Nat) : Word := BitVec.ofNat 32 (2 ^ i)

/-- The first element that satisfies `f`, as an index. -/
def findIx {α : Type} (f : α → Bool) (l : List α) : Option Nat :=
  let i := (l.takeWhile (fun x => !f x)).length
  if i < l.length then some i else none

/-- Whether two address ranges share a byte. -/
def overlaps (a n b m : Nat) : Bool := decide (a < b + m) && decide (b < a + n) && decide (0 < n) && decide (0 < m)

end Sys2Proof.Machine
end

