-- ==== Sys2Proof/Machine/Slots.lean ====
section
/-! DEFINITION. Damper slots as the rest of the machine meets them (R55 to R57, R64): the fields of a calendar entry, which
resources a slot in progress holds, and islands by number with their operating points. -/

namespace Sys2Proof.Machine

/-! ### Fields of a calendar entry (R55) -/

/-- START. -/
def entStart (e : BitVec 128) : Nat := (fld e 0 10).toNat
/-- LEN. -/
def entLen (e : BitVec 128) : Nat := (fld e 10 10).toNat
/-- KIND. -/
def entKind (e : BitVec 128) : Nat := (fld e 20 3).toNat
/-- STACKS. -/
def entStacks (e : BitVec 128) : BitVec 12 := fld e 24 12
/-- LINKS. -/
def entLinks (e : BitVec 128) : BitVec 39 := fld e 36 39
/-- PARAM. -/
def entParam (e : BitVec 128) : BitVec 16 := fld e 96 16

/-- The islands an entry names (R55). -/
def Calendar.islands (c : Calendar) (e : BitVec 128) : BitVec 1280 :=
  if e.getLsbD 86 then c.masks.getD (fld e 80 6).toNat 0 else 0

/-- Whether some slot in progress satisfies a test of its entry (R57). -/
def State.slotNow (s : State) (f : BitVec 128 → Bool) : Bool :=
  s.cal.slots.any fun r => r.running && f (s.cal.cur.entries.getD r.entry 0)

/-- Whether a stack serves nothing because of a slot in progress (R57). -/
def State.stackHeld (s : State) (k : Nat) : Bool := s.slotNow fun e => (entStacks e).getLsbD k
/-- Whether a link serves nothing because of a slot in progress (R57). -/
def State.linkHeld (s : State) (k : Nat) : Bool := s.slotNow fun e => (entLinks e).getLsbD k
/-- Whether an island serves nothing because of a slot in progress (R57). -/
def State.islandHeld (s : State) (k : Nat) : Bool := s.slotNow fun e => (s.cal.cur.islands e).getLsbD k

/-! ### Islands (R27, R56, R57) -/

/-- The island of a cluster (R56). -/
def clusterIsland (cluster : Nat) : Nat := 300 * (cluster / 6) + 288 + cluster % 6
/-- The island of a core's part: 0 to 3 the scheduler partitions, 4 the Kiln, 5 the front end (R56). -/
def coreIsland (core part : Nat) : Nat := 300 * (core / 48) + 6 * (core % 48) + part

/-- The island a party runs on: its scheduler partition, the Kiln, or its cluster (R153, R440). -/
def partyIsland (core w : Nat) : Nat :=
  if w < 32 then coreIsland core (w % 4) else if w = 32 then coreIsland core 4 else clusterIsland (core / 8)

/-- The islands that a link number belongs to, on the Hearth die and, for a boundary, on the compute die (R56).  DESIGN
CHOICE: R56 numbers a die's boundary interfaces without saying which boundary each serves; on a compute die 297 above the
base serves Hearth die 0 and 298 Hearth die 1, and on a Hearth die 34 to 37 serve the compute dies in order and 38 the other
Hearth die (log entry 41). -/
def linkIslands (k : Nat) : List Nat :=
  if k < 24 then [1200 + 40 * (k / 12) + k % 12]
  else if k < 28 then [1200 + 40 * ((k - 24) / 2) + 12 + (k - 24) % 2]
  else if k < 30 then [1200 + 40 * (k - 28) + 14]
  else if k < 34 then [300 * (k - 30) + 297, 1200 + 34 + (k - 30)]
  else if k < 38 then [300 * (k - 34) + 298, 1240 + 34 + (k - 34)]
  else [1200 + 38, 1240 + 38]

/-- Whether an island is a core's or a cluster's, so that every operating point is open to it (R57). -/
def scaledIsland (k : Nat) : Bool := decide (k < 1200) && decide (k % 300 < 294)

/-- An island's operating point (R57, R59). -/
def State.pointOf (s : State) (k : Nat) : Nat := (ngetD s.dev.islandPoint k (if scaledIsland k then 8 else 0)).toNat

/-- Whether an island is gated (R57): point 15, which no island has until it is moved there. -/
def State.gated (s : State) (k : Nat) : Bool := nget s.dev.islandPoint k == some 15

/-- Whether an island serves no request: a slot in progress names it, or it is gated (R57). -/
def State.islandDown (s : State) (k : Nat) : Bool := s.islandHeld k || s.gated k

/-- The Stoker's dispatch hardware, on Hearth die 0 (R7, R56). -/
def stokerIsland : Nat := 1227
/-- The control cores, on Hearth die 0 (R7, R56). -/
def ctrlIsland : Nat := 1228
/-- The synchronisation engine, on Hearth die 0, which keeps the phasers and timelines (R7, R56). -/
def syncIsland : Nat := 1229

/-- Whether the control core works (R57, R120): no take-over is unfinished, and no slot holds its island. -/
def State.ctrlRuns (s : State) : Bool := s.stoker.forwarding && !s.islandDown ctrlIsland

/-- Whether a party issues nothing: its island is in a SENSOR or CLOCK slot (R64) or gated (R57), or the front end of its core,
which fetches for it and holds the matrix sequencer, serves nothing (R27, R57). -/
def State.issueHeld (s : State) (core w : Nat) : Bool :=
  (s.slotNow fun e => (entKind e == 3 || entKind e == 5) && (s.cal.cur.islands e).getLsbD (partyIsland core w))
    || s.gated (partyIsland core w)
    || (decide (w < 33) && s.islandDown (coreIsland core 5))

/-! ### Routes between dies (R8, R12) -/

/-- The compute die of a core (R9). -/
def coreDie (core : Nat) : Nat := core / 48
/-- The compute die that owns a stack (R8). -/
def stackDie (stack : Nat) : Nat := stack / 3
/-- A Hearth die in the numbering of `dieRoute`: the compute dies are 0 to 3, the Hearth dies 4 and 5. -/
def hearthDie (h : Nat) : Nat := 4 + h

/-- The link number of the boundary between a compute die and a Hearth die (R55, R56). -/
def boundaryLink (die h : Nat) : Nat := 30 + 4 * h + die

/-- The boundaries that traffic for a line crosses from one die to another: two compute dies meet through the Hearth die of the
line's parity (R12). -/
def dieRoute (a b line : Nat) : List Nat :=
  if a = b then []
  else if a < 4 ∧ b < 4 then [boundaryLink a (line % 2), boundaryLink b (line % 2)]
  else if a < 4 then [boundaryLink a (b - 4)]
  else if b < 4 then [boundaryLink b (a - 4)]
  else [38]

/-- Whether a link serves nothing: a slot in progress names it, or one of its islands serves nothing (R57). -/
def State.linkDown (s : State) (k : Nat) : Bool := s.linkHeld k || (linkIslands k).any s.islandDown

/-- Whether the route of a line between two dies is held (R12, R57). -/
def State.routeHeld (s : State) (a b line : Nat) : Bool := (dieRoute a b line).any s.linkDown

/-- Whether a stack serves nothing: a slot in progress names it, or its controller's island serves nothing (R56, R57). -/
def State.stackDown (s : State) (k : Nat) : Bool := s.stackHeld k || s.islandDown (300 * (k / 3) + 294 + k % 3)

/-! ### The calendar answer and admission (R61, R64) -/

/-- The calendar in force in a frame: the pending generation from its frame on (R59). -/
def Cal.at' (k : Cal) (f : Nat) : Calendar :=
  match k.next with
  | some c => if k.nextFrame.toNat ≤ f then c else k.cur
  | none => k.cur

/-- The scheduled starts from now on of the slots that satisfy a test: ticks to go, LEN in ticks, and KIND.  A slot of
this frame that has not run is due now at the latest, a postponed one at its next test (R65). -/
def State.slotsAhead (s : State) (touch : Calendar → BitVec 128 → Bool) : List (Nat × Nat × Nat) :=
  let f := s.cal.frame.toNat
  let frames := [f, f + 1] ++ (if s.cal.next.isSome ∧ f + 1 < s.cal.nextFrame.toNat then [s.cal.nextFrame.toNat] else [])
  (frames.map fun g =>
    let c := s.cal.at' g
    (c.entries.zipIdx.filter fun p => touch c p.1).filterMap fun p =>
      let start := s.cal.frameStart + (g - f) * 65536 + entStart p.1 * 64
      let due :=
        if g ≠ f then some start
        else if s.cal.started.contains p.2 then none
        else match s.cal.slots.find? fun r => r.entry == p.2 && !r.running with
          | some r => some (max r.due s.tick)
          | none => some (max start s.tick)
      due.map fun d => (d - s.tick, entLen p.1 * 64, entKind p.1)).flatten

/-- The calendar answer for a resource (R61): ticks to the next start, its length and KIND; a slot in progress answers
with what is left of it. -/
def State.slotAnswer (s : State) (touch : Calendar → BitVec 128 → Bool) : Option (Nat × Nat × Nat) :=
  match s.cal.slots.find? fun r => r.running && touch s.cal.cur (s.cal.cur.entries.getD r.entry 0) with
  | some r => some (0, r.untilTick - s.tick, entKind (s.cal.cur.entries.getD r.entry 0))
  | none => (s.slotsAhead touch).foldl
      (fun best x => match best with
        | some y => if x.1 < y.1 then some x else best
        | none => some x) none

/-- The lengths, in grid positions, of the free windows that slots of a frame leave: from the end of each entry that no other
covers to the next start (R64). -/
def freeWindows (es : List (BitVec 128)) : List Nat :=
  es.filterMap fun e =>
    let stop := (entStart e + entLen e) % 1024
    if es.any fun x => decide (entStart x ≤ stop) && decide (stop < entStart x + entLen x) then none
    else some ((es.map fun x => (entStart x + 1024 - stop) % 1024).foldl min 1024)

/-- Whether every free window of the resources is shorter than a length, so that the command could never pass the test of
R64. -/
def State.neverFits (s : State) (touch : Calendar → BitVec 128 → Bool) (need : Nat) : Bool :=
  (freeWindows (s.cal.cur.entries.filter (touch s.cal.cur))).all fun n => decide (n * 64 < need)

/-- Admission of a command or segment (R64): its estimate ends 256 ticks before the next slot of its resources; one that
could never fit is admitted at the start of a free window, which `opened` says has come. -/
def State.admits (s : State) (touch : Calendar → BitVec 128 → Bool) (estimate : Nat) (opened : Bool := false) : Bool :=
  if s.slotNow (touch s.cal.cur) then false
  else match s.slotAnswer touch with
    | none => true
    | some (d, _, _) => decide (estimate + 256 ≤ d) || (opened && s.neverFits touch (estimate + 256))

end Sys2Proof.Machine
end

