-- ==== Sys2Proof/Machine/Flags.lean ====
section
/-! DEFINITION. Conditions and flags: the comparison codes of ICMP, ICMPU and SCMP (R331), of the floating comparisons
(R348), and the sticky flags and trap enables of FRM (R258, R259). -/

namespace Sys2Proof.Machine

/-- The condition codes of R331 on two integers; 6 and 7 are reserved and never reach it. -/
def condHolds (cond : BitVec 3) (x y : Int) : Bool :=
  match cond.toNat with
  | 0 => decide (x = y)
  | 1 => decide (x ≠ y)
  | 2 => decide (x < y)
  | 3 => decide (x ≤ y)
  | 4 => decide (x > y)
  | _ => decide (x ≥ y)

/-- Floating exceptions, in the bit order of FRM[12:8]: invalid, division by zero, overflow, underflow, inexact (R258). -/
structure FExc where
  nv : Bool := false
  dz : Bool := false
  ovf : Bool := false
  unf : Bool := false
  nx : Bool := false
  deriving DecidableEq, Repr

/-- The exceptions as bits, invalid lowest. -/
def FExc.bits (e : FExc) : BitVec 5 :=
  BitVec.ofNat 5 (e.nv.toNat + 2 * e.dz.toNat + 4 * e.ovf.toNat + 8 * e.unf.toNat + 16 * e.nx.toNat)

/-- The exceptions of two computations. -/
def FExc.both (a b : FExc) : FExc :=
  { nv := a.nv || b.nv, dz := a.dz || b.dz, ovf := a.ovf || b.ovf, unf := a.unf || b.unf, nx := a.nx || b.nx }

/-- Trap enables TNV, TDZ, TOF, TUF and TNX: FRM[7:3] (R258). -/
def trapEnables (frm : Word) : BitVec 5 := fld frm 3 5

/-- FRM with sticky flags set: FRM[12:8] (R259). -/
def setSticky (frm : Word) (e : BitVec 5) : Word := frm ||| (e.setWidth 32 <<< 8)

/-- Whether an exception of a lane has its trap enable set; in handler mode the traps act as disabled (R259, R279). -/
def fpTraps (frm : Word) (handler : Bool) (e : FExc) : Bool := !handler && (trapEnables frm &&& e.bits) != 0

/-- The four relations two floating values can stand in (R348). -/
inductive FRel where
  | lt
  | eq
  | gt
  | un
  deriving DecidableEq, Repr

end Sys2Proof.Machine
end

