-- ==== Sys2Proof/Machine/Float.lean ====
section
/-! DEFINITION. Floating point (R251 to R263): the formats, exact values, the one rounding of R255 with its overflow and
its exceptions, NaN results, stochastic rounding, and the arithmetic, comparisons and conversions over encodings.

An encoding is a natural number; a finite value is a sign, a natural mantissa and an exponent of two, so that every
result is formed exactly and rounded once. -/

namespace Sys2Proof.Machine

/-! ### Formats (R251) -/

/-- What the all-ones exponent means (R251). -/
inductive Specials where
  /-- IEEE infinities and NaNs. -/
  | ieee
  /-- No infinity; only the all-ones fraction is a NaN. -/
  | nanOnly
  /-- Neither. -/
  | none
  deriving DecidableEq, Repr

/-- A floating-point format: fraction bits, exponent bits, bias, and its specials (R251). -/
structure Fmt where
  m : Nat
  eb : Nat
  bias : Nat
  sp : Specials
  deriving DecidableEq, Repr

/-- FP64. -/
def fp64 : Fmt := ⟨52, 11, 1023, .ieee⟩
/-- FP32. -/
def fp32 : Fmt := ⟨23, 8, 127, .ieee⟩
/-- FP16. -/
def fp16 : Fmt := ⟨10, 5, 15, .ieee⟩
/-- BF16. -/
def bf16 : Fmt := ⟨7, 8, 127, .ieee⟩
/-- FP8 E5M2. -/
def e5m2 : Fmt := ⟨2, 5, 15, .ieee⟩
/-- FP8 E4M3. -/
def e4m3 : Fmt := ⟨3, 4, 7, .nanOnly⟩
/-- FP6 E3M2. -/
def e3m2 : Fmt := ⟨2, 3, 3, .none⟩
/-- FP6 E2M3. -/
def e2m3 : Fmt := ⟨3, 2, 1, .none⟩
/-- FP4 E2M1. -/
def e2m1 : Fmt := ⟨1, 2, 1, .none⟩

/-- The sign bit's weight. -/
def Fmt.signW (f : Fmt) : Nat := 2 ^ (f.eb + f.m)
/-- The magnitude encoding of infinity in an IEEE format. -/
def Fmt.infEnc (f : Fmt) : Nat := (2 ^ f.eb - 1) * 2 ^ f.m
/-- The magnitude encoding of the largest finite value (R251). -/
def Fmt.maxEnc (f : Fmt) : Nat :=
  match f.sp with
  | .ieee => f.infEnc - 1
  | .nanOnly => 2 ^ (f.eb + f.m) - 2
  | .none => 2 ^ (f.eb + f.m) - 1
/-- The exponent of the smallest subnormal's unit. -/
def Fmt.qmin (f : Fmt) : Int := 1 - (f.bias : Int) - f.m
/-- The sign of an encoding. -/
def Fmt.signOf (f : Fmt) (x : Nat) : Bool := x / f.signW % 2 == 1
/-- The magnitude of an encoding. -/
def Fmt.mag (f : Fmt) (x : Nat) : Nat := x % f.signW
/-- A signed encoding. -/
def Fmt.withSign (f : Fmt) (s : Bool) (mag : Nat) : Nat := mag + s.toNat * f.signW

/-- The canonical NaN (R254). -/
def Fmt.canonNan (f : Fmt) : Nat :=
  match f.sp with
  | .ieee => f.infEnc + 2 ^ (f.m - 1)
  | .nanOnly => 2 ^ (f.eb + f.m) - 1
  | .none => 0

/-- Whether an encoding is a NaN (R251). -/
def Fmt.isNan (f : Fmt) (x : Nat) : Bool :=
  match f.sp with
  | .ieee => decide (f.infEnc < f.mag x)
  | .nanOnly => f.mag x == 2 ^ (f.eb + f.m) - 1
  | .none => false

/-- Whether an encoding is an infinity. -/
def Fmt.isInf (f : Fmt) (x : Nat) : Bool := f.sp == .ieee && f.mag x == f.infEnc

/-- Whether a NaN is signalling: its quiet bit is 0 (R251). -/
def Fmt.isSnan (f : Fmt) (x : Nat) : Bool := f.isNan x && x / 2 ^ (f.m - 1) % 2 == 0

/-- A NaN quieted (R260). -/
def Fmt.quiet (f : Fmt) (x : Nat) : Nat := if f.isSnan x then x + 2 ^ (f.m - 1) else x

/-- The mantissa and exponent of a finite encoding: its magnitude is `mant * 2 ^ exp` (R251). -/
def Fmt.parts (f : Fmt) (x : Nat) : Nat × Int :=
  let e := f.mag x / 2 ^ f.m
  let fr := x % 2 ^ f.m
  if e = 0 then (fr, f.qmin) else (2 ^ f.m + fr, f.qmin + (e : Int) - 1)

/-! ### Rounding (R255 to R257, R261) -/

/-- A rounding direction; stochastic carries its 32-bit random value (R256, R261). -/
inductive Dir where
  | rne
  | rtz
  | rdn
  | rup
  | rs (r : Nat)
  deriving DecidableEq, Repr

/-- A result and the exceptions it signals. -/
structure FRes where
  val : Nat
  exc : FExc := {}
  deriving DecidableEq, Repr

/-- Whether a truncated magnitude moves one unit away from zero: `rem` of `2 ^ sh` was cut off an odd or even quotient. -/
def Dir.away (d : Dir) (s : Bool) (odd : Bool) (rem sh : Nat) : Bool :=
  match d with
  | .rne => decide (2 ^ sh < 2 * rem) || (decide (2 * rem = 2 ^ sh) && odd)
  | .rtz => false
  | .rdn => s && rem != 0
  | .rup => !s && rem != 0
  | .rs r => decide (r < rem * 2 ^ 32 / 2 ^ sh)

/-- `mant * 2 ^ exp` as a multiple of `2 ^ q`, rounded; the second component says whether it was inexact.  A nonzero
magnitude below `2 ^ -33` units is rounded by the direction alone. -/
def roundAt (d : Dir) (s : Bool) (mant : Nat) (exp q : Int) : Nat × Bool :=
  if q ≤ exp then (mant * 2 ^ (exp - q).toNat, false)
  else if mant = 0 then (0, false)
  else
    let sh := (q - exp).toNat
    if Nat.log2 mant + 34 < sh then
      (match d with
        | .rdn => s.toNat
        | .rup => (!s).toNat
        | _ => 0, true)
    else
      let quo := mant / 2 ^ sh
      let rem := mant % 2 ^ sh
      (quo + (d.away s (quo % 2 == 1) rem sh).toNat, rem != 0)

/-- What an overflowing result becomes (R257). -/
def Fmt.overflowed (f : Fmt) (d : Dir) (sat s : Bool) : Nat :=
  let toMax := sat || f.sp == .none || (match d with
    | .rtz => true
    | .rdn => !s
    | .rup => s
    | _ => false)
  f.withSign s (if toMax then f.maxEnc else if f.sp = .ieee then f.infEnc else f.canonNan)

/-- The rounding of a nonzero exact value to a format, with its exceptions (R255, R257, R259).  FP6 and FP4 overflow
signals invalid only (R353). -/
def Fmt.round (f : Fmt) (d : Dir) (sat s : Bool) (mant : Nat) (exp : Int) : FRes :=
  let e := (Nat.log2 mant : Int) + exp
  let emin : Int := 1 - (f.bias : Int)
  let q := max (e - f.m) f.qmin
  let (n, inexact) := roundAt d s mant exp q
  let enc := (q - f.qmin).toNat * 2 ^ f.m + n
  if f.maxEnc < enc then
    { val := f.overflowed d sat s, exc := if f.sp = .none then { nv := true } else { ovf := true, nx := true } }
  else
    let tiny := decide (e < emin)
      && !(decide (e + 1 = emin) && (roundAt d s mant exp (e - f.m)).1 == 2 ^ (f.m + 1))
    { val := f.withSign s enc, exc := { unf := tiny && inexact, nx := inexact } }

/-! ### NaN operands (R260) -/

/-- The result of an operation with a NaN operand: the first, quieted; invalid if any is signalling. -/
def Fmt.nanOf (f : Fmt) (xs : List Nat) : Option FRes :=
  match xs.find? f.isNan with
  | some x => some { val := f.quiet x, exc := { nv := xs.any f.isSnan } }
  | none => none

/-- An invalid operation without a NaN operand (R260). -/
def Fmt.invalid (f : Fmt) : FRes := { val := f.canonNan, exc := { nv := true } }

/-! ### Arithmetic (R255) -/

/-- The sum of two signed exact values, rounded; an exact zero takes the sign R255 gives. -/
def Fmt.sum (f : Fmt) (d : Dir) (s1 : Bool) (m1 : Nat) (e1 : Int) (s2 : Bool) (m2 : Nat) (e2 : Int) : FRes :=
  let e := min e1 e2
  let x : Int := m1 * 2 ^ (e1 - e).toNat
  let y : Int := m2 * 2 ^ (e2 - e).toNat
  let z := (if s1 then -x else x) + (if s2 then -y else y)
  if z = 0 then { val := f.withSign (if s1 = s2 then s1 else d == .rdn) 0 }
  else f.round d false (decide (z < 0)) z.natAbs e

/-- a + b, or a − b where `sub`. -/
def Fmt.add (f : Fmt) (d : Dir) (sub : Bool) (a b : Nat) : FRes :=
  match f.nanOf [a, b] with
  | some r => r
  | none =>
    let sb := f.signOf b != sub
    if f.isInf a then (if f.isInf b ∧ f.signOf a ≠ sb then f.invalid else { val := a })
    else if f.isInf b then { val := f.withSign sb f.infEnc }
    else f.sum d (f.signOf a) (f.parts a).1 (f.parts a).2 sb (f.parts b).1 (f.parts b).2

/-- Whether two operands are an infinity and a zero. -/
def Fmt.infTimesZero (f : Fmt) (a b : Nat) : Bool := (f.isInf a && f.mag b == 0) || (f.isInf b && f.mag a == 0)

/-- a × b. -/
def Fmt.mul (f : Fmt) (d : Dir) (a b : Nat) : FRes :=
  match f.nanOf [a, b] with
  | some r => r
  | none =>
    let s := f.signOf a != f.signOf b
    if f.infTimesZero a b then f.invalid
    else if f.isInf a || f.isInf b then { val := f.withSign s f.infEnc }
    else if f.mag a = 0 ∨ f.mag b = 0 then { val := f.withSign s 0 }
    else f.round d false s ((f.parts a).1 * (f.parts b).1) ((f.parts a).2 + (f.parts b).2)

/-- a × b + c, rounded once. -/
def Fmt.fma (f : Fmt) (d : Dir) (a b c : Nat) : FRes :=
  match f.nanOf [a, b, c] with
  | some r => { r with exc := r.exc.both { nv := f.infTimesZero a b } }
  | none =>
    let s := f.signOf a != f.signOf b
    if f.infTimesZero a b then f.invalid
    else if f.isInf a || f.isInf b then
      if f.isInf c ∧ f.signOf c ≠ s then f.invalid else { val := f.withSign s f.infEnc }
    else if f.isInf c then { val := c }
    else f.sum d s ((f.parts a).1 * (f.parts b).1) ((f.parts a).2 + (f.parts b).2) (f.signOf c) (f.parts c).1
      (f.parts c).2

/-- FLDEXP: a × 2^n (R345). -/
def Fmt.ldexp (f : Fmt) (d : Dir) (a : Nat) (n : Int) : FRes :=
  match f.nanOf [a] with
  | some r => r
  | none =>
    if f.isInf a || f.mag a == 0 then { val := a }
    else f.round d false (f.signOf a) (f.parts a).1 ((f.parts a).2 + n)

/-! ### Minimum and maximum (R263) -/

/-- A key that orders the encodings that are not NaN, −0 below +0. -/
def Fmt.key (f : Fmt) (x : Nat) : Int := if f.signOf x then -(f.mag x : Int) - 1 else f.mag x

/-- The encoding of a key. -/
def Fmt.ofKey (f : Fmt) (k : Int) : Nat := if k < 0 then f.withSign true (-k - 1).toNat else k.toNat

/-- The lesser, or the greater. -/
def Fmt.pick (f : Fmt) (greater : Bool) (a b : Nat) : Nat :=
  if greater then (if f.key a < f.key b then b else a) else (if f.key b < f.key a then b else a)

/-- Minimum and maximum: one NaN is returned quieted. -/
def Fmt.minmax (f : Fmt) (greater : Bool) (a b : Nat) : FRes :=
  (f.nanOf [a, b]).getD { val := f.pick greater a b }

/-- minimumNumber and maximumNumber: one NaN gives the other operand. -/
def Fmt.minmaxNum (f : Fmt) (greater : Bool) (a b : Nat) : FRes :=
  let nv := f.isSnan a || f.isSnan b
  if f.isNan a then { val := if f.isNan b then f.quiet a else b, exc := { nv := nv } }
  else if f.isNan b then { val := a, exc := { nv := nv } }
  else { val := f.pick greater a b }

/-! ### Comparison and class (R348, R349) -/

/-- How two operands compare; zeros of either sign are equal. -/
def Fmt.rel (f : Fmt) (a b : Nat) : FRel :=
  if f.isNan a || f.isNan b then .un
  else if f.mag a = 0 ∧ f.mag b = 0 then .eq
  else if f.key a < f.key b then .lt
  else if f.key b < f.key a then .gt
  else .eq

/-- The conditions of R348. -/
def frelHolds (cond : Nat) (r : FRel) : Bool :=
  match cond with
  | 0 => r == .eq
  | 1 => r != .eq
  | 2 => r == .lt
  | 3 => r == .lt || r == .eq
  | 4 => r == .gt
  | 5 => r == .gt || r == .eq
  | 6 => r != .un
  | 7 => r == .un
  | 8 => r == .un || r == .lt
  | 9 => r == .un || r == .lt || r == .eq
  | 10 => r == .un || r == .gt
  | 11 => r == .un || r == .gt || r == .eq
  | 12 => r == .un || r == .eq
  | _ => r == .lt || r == .gt

/-- Invalid of a comparison: a signalling NaN, or a quiet one under conditions 2 to 5 (R348). -/
def Fmt.cmpExc (f : Fmt) (cond a b : Nat) : FExc :=
  { nv := f.isSnan a || f.isSnan b || (decide (2 ≤ cond) && decide (cond ≤ 5) && (f.isNan a || f.isNan b)) }

/-- The class bit of R349. -/
def Fmt.classBit (f : Fmt) (x : Nat) : Nat :=
  if f.isSnan x then 8
  else if f.isNan x then 9
  else
    let k := if f.isInf x then 0 else if f.mag x = 0 then 3 else if f.mag x < 2 ^ f.m then 2 else 1
    if f.signOf x then k else 7 - k

/-! ### Integral values, exponents and conversions (R350 to R354) -/

/-- FRND: never inexact; a zero keeps the sign (R350). -/
def Fmt.rint (f : Fmt) (d : Dir) (a : Nat) : FRes :=
  match f.nanOf [a] with
  | some r => r
  | none =>
    if f.isInf a || f.mag a == 0 then { val := a }
    else
      let n := (roundAt d (f.signOf a) (f.parts a).1 (f.parts a).2 0).1
      if n = 0 then { val := f.withSign (f.signOf a) 0 }
      else { val := (f.round .rne false (f.signOf a) n 0).val }

/-- FGETEXP (R350). -/
def Fmt.getexp (f : Fmt) (a : Nat) : FRes :=
  if f.isNan a then { val := 0x7FFFFFFF, exc := { nv := true } }
  else if f.isInf a then { val := 0x7FFFFFFF }
  else if f.mag a = 0 then { val := 0x80000000, exc := { dz := true } }
  else { val := (BitVec.ofInt 32 ((Nat.log2 (f.parts a).1 : Int) + (f.parts a).2)).toNat }

/-- To an integer between `lo` and `hi` of `w` bits (R260, R351). -/
def Fmt.toInteger (f : Fmt) (d : Dir) (w : Nat) (lo hi : Int) (a : Nat) : FRes :=
  let out (x : Int) (bad : Bool) : FRes := { val := (BitVec.ofInt w x).toNat, exc := { nv := bad } }
  if f.isNan a then out 0 true
  else
    let s := f.signOf a
    if f.isInf a then out (if s then lo else hi) true
    else
      let n : Int := (roundAt d s (f.parts a).1 (f.parts a).2 0).1
      let x := if s then -n else n
      if x < lo then out lo true else if hi < x then out hi true else out x false

/-- From an integer (R351). -/
def Fmt.ofInteger (f : Fmt) (d : Dir) (x : Int) : FRes :=
  if x = 0 then { val := 0 } else f.round d false (decide (x < 0)) x.natAbs 0

/-- Format `f` to format `g` (R255, R257, R260). -/
def Fmt.convert (f g : Fmt) (d : Dir) (sat : Bool) (a : Nat) : FRes :=
  let s := f.signOf a
  if f.isNan a then
    match g.sp with
    | .none => { val := 0, exc := { nv := true } }
    | .nanOnly => { val := g.withSign s g.canonNan, exc := { nv := f.isSnan a } }
    | .ieee =>
      let fr := a % 2 ^ f.m * 2 ^ g.m / 2 ^ f.m
      { val := g.withSign s (g.infEnc + (fr % 2 ^ (g.m - 1)) + 2 ^ (g.m - 1)), exc := { nv := f.isSnan a } }
  else if f.isInf a then
    match g.sp with
    | .none => { val := g.withSign s g.maxEnc, exc := { nv := true } }
    | .nanOnly => { val := g.withSign s (if sat then g.maxEnc else g.canonNan) }
    | .ieee => { val := g.withSign s (if sat then g.maxEnc else g.infEnc) }
  else if f.mag a = 0 then { val := g.withSign s 0 }
  else g.round d sat s (f.parts a).1 (f.parts a).2

/-! ### Stochastic rounding (R261, R262) -/

/-- The mixer of R261. -/
def mix (x : Word) : Word :=
  let x := x ^^^ (x >>> 16)
  let x := x * 0x7FEB352D
  let x := x ^^^ (x >>> 15)
  let x := x * 0x846CA68B
  x ^^^ (x >>> 16)

/-- The block's part of the hash (R261): NODEID, LAUNCHES at launch (R118), gang index and rank. -/
def NodeInfo.hash (i : NodeInfo) : Word :=
  mix (i.nodeId ^^^ mix (i.launches ^^^ mix (BitVec.ofNat 32 (i.g * 8 + i.rank))))

/-- The random value of element `e` of a lane's result (R261). -/
def rsValue (i : NodeInfo) (t : Thr) (w l e : Nat) : Word :=
  mix (t.srSeed ^^^ mix (i.hash ^^^ mix (BitVec.ofNat 32 ((w * 32 + l) * 4 + e) ^^^ mix (t.srCnt.getD l 0))))

/-- The counts of the lanes of `m` advanced (R262). -/
def Thr.bumpRs (t : Thr) (m : Word) : Thr :=
  { t with srCnt := t.srCnt.mapIdx fun l n => if m.getLsbD l then n + 1 else n }

/-- The direction of FRM.RM (R258). -/
def dirOfFrm (frm : Word) : Dir :=
  match frm.toNat % 4 with
  | 0 => .rne
  | 1 => .rtz
  | 2 => .rdn
  | _ => .rup

/-- The direction an RMODE field gives (R256); `r` is the random value of the lane's element. -/
def dirOf (frm : Word) (rmode : Nat) (r : Word) : Dir :=
  match rmode with
  | 0 => dirOfFrm frm
  | 1 => .rne
  | 2 => .rtz
  | 3 => .rdn
  | 4 => .rup
  | _ => .rs r.toNat

/-! ### Packed halves (R253) -/

/-- Half `h` of a word. -/
def halfOf (x : Word) (h : Nat) : Nat := x.toNat / 2 ^ (16 * h) % 2 ^ 16

/-- An operation on both halves of two or three words (R355). -/
def onHalves (f : Nat → FRes) : FRes :=
  { val := (f 0).val + 2 ^ 16 * (f 1).val, exc := (f 0).exc.both (f 1).exc }

/-- A word with bits `lo` to `lo + n - 1` replaced. -/
def insertBits (d : Word) (lo n v : Nat) : Word :=
  let m : Word := BitVec.ofNat 32 ((2 ^ n - 1) * 2 ^ lo)
  (d &&& ~~~m) ||| (BitVec.ofNat 32 (v * 2 ^ lo) &&& m)

end Sys2Proof.Machine
end

