-- ==== Sys2Proof/Machine/Memory.lean ====
section
/-! DEFINITION. Cause codes, physical memory and its homes (R37 to R53), the registers of contexts and queue slots, and
the rings the device writes: errors, journal, faults. -/

namespace Sys2Proof.Machine

/-! ### Causes -/

/-- The code of a cause (R274). -/
def Cause.code : Cause → Nat
  | .illegalOpcode => 0x01 | .illegalClause => 0x02 | .reservedField => 0x03 | .regEmpty => 0x04
  | .operandRange => 0x05 | .poolBoundary => 0x06 | .loopNest => 0x07 | .repeatIllegal => 0x08
  | .branchTarget => 0x09 | .privilegedUse => 0x0A | .softwareTrap => 0x0B | .breakpoint => 0x0C
  | .singleStep => 0x0D | .fpException => 0x0E | .tableInvalid => 0x0F | .translationMiss => 0x10
  | .protectionRead => 0x11 | .protectionWrite => 0x12 | .protectionExec => 0x13 | .halfPublished => 0x14
  | .alignment => 0x15 | .tagMismatch => 0x16 | .watchpoint => 0x17 | .poisonConsumed => 0x18
  | .scratchRange => 0x19 | .addressSpace => 0x1A | .atomicUnsupported => 0x1B | .commutativeMisuse => 0x1C
  | .hostAtomicRetry => 0x1D | .capacityTierError => 0x1E | .ioError => 0x1F | .tileState => 0x20
  | .tokenOverflow => 0x21 | .copyGeometry => 0x22 | .stageDeadlock => 0x23 | .multicastTarget => 0x24
  | .scaleRange => 0x25 | .matrixShape => 0x26 | .phaserMode => 0x27 | .phaserMembership => 0x28
  | .barrierMisuse => 0x29 | .timelineOrder => 0x2A | .slotOverrun => 0x2B | .subgroupTarget => 0x2C
  | .fabricError => 0x2D | .collectiveMismatch => 0x2E | .engineAbort => 0x2F | .eccPool => 0x30
  | .eccSram => 0x31 | .eccMetadata => 0x32 | .imemError => 0x33 | .watchdog => 0x34 | .contextKilled => 0x35
  | .replayDivergence => 0x36 | .recordOverflow => 0x37 | .powerEmergency => 0x38 | .linkDown => 0x39
  | .firmwareFault => 0x3A | .kindlingUnavailable => 0x3B | .debugHalt => 0x3C | .machineCheck => 0x3F

/-- Every cause. -/
def allCauses : List Cause :=
  [.illegalOpcode, .illegalClause, .reservedField, .regEmpty, .operandRange, .poolBoundary, .loopNest,
   .repeatIllegal, .branchTarget, .privilegedUse, .softwareTrap, .breakpoint, .singleStep, .fpException,
   .tableInvalid, .translationMiss, .protectionRead, .protectionWrite, .protectionExec, .halfPublished,
   .alignment, .tagMismatch, .watchpoint, .poisonConsumed, .scratchRange, .addressSpace, .atomicUnsupported,
   .commutativeMisuse, .hostAtomicRetry, .capacityTierError, .ioError, .tileState, .tokenOverflow,
   .copyGeometry, .stageDeadlock, .multicastTarget, .scaleRange, .matrixShape, .phaserMode, .phaserMembership,
   .barrierMisuse, .timelineOrder, .slotOverrun, .subgroupTarget, .fabricError, .collectiveMismatch,
   .engineAbort, .eccPool, .eccSram, .eccMetadata, .imemError, .watchdog, .contextKilled, .replayDivergence,
   .recordOverflow, .powerEmergency, .linkDown, .firmwareFault, .kindlingUnavailable, .debugHalt, .machineCheck]

/-- The cause of a code, CONTEXT_KILLED for a code that is never raised. -/
def Cause.ofCode (n : Nat) : Cause := (allCauses.find? fun c => c.code == n).getD .contextKilled

/-- Whether a cause is a service fault, tier S (R274). -/
def Cause.isService : Cause → Bool
  | .translationMiss | .poisonConsumed | .capacityTierError | .ioError | .eccPool | .eccSram | .eccMetadata
  | .imemError | .replayDivergence => true
  | _ => false

/-! ### Counters -/

/-- The next occasion of an undefined value (log entry 2). -/
def State.bump (s : State) : State := { s with fresh := s.fresh + 1 }

/-- What the device sends, added to the observable output. -/
def State.emit (s : State) (o : Out) : State := { s with outbox := s.outbox ++ [o] }

/-! ### Physical memory (R37, R47) -/

/-- Bytes of one HBM stack (R37). -/
def stackBytes : Nat := 96000000000
/-- Bytes of a stack that stay directly addressable in cache mode (R47). -/
def directBytes : Nat := 8000000000
/-- Base of the spread view (R37). -/
def spreadBase : Nat := 0x080000000000
/-- Base of the capacity tier (R37). -/
def capBase : Nat := 0x100000000000

/-- The mapped capacity: what the ports in service report (R22, R33). -/
def State.mappedCap (s : State) : Nat :=
  ((List.range 4).map fun p => if s.dev.capUp.getLsbD p then s.dev.capBytes.getD p 0 else 0).foldl (· + ·) 0

/-- Whether the device is in Kindling mode (R30, R33). -/
def State.kindling (s : State) : Bool := s.dev.stage == 3

/-- The home byte of a device physical address: its local-view HBM address, or its capacity-tier address; or the cause
an access to it raises (R31, R37, R47). -/
def State.homeOf (s : State) (pa : Nat) : Except Cause Nat :=
  let direct (a : Nat) : Except Cause Nat :=
    if s.kindling && decide (stackBytes ≤ a) then .error .kindlingUnavailable
    else if s.mem.cacheOn && decide (directBytes ≤ a % stackBytes) then .error .addressSpace
    else .ok a
  if pa < hbmBytes then direct pa
  else if spreadBase ≤ pa ∧ pa < spreadBase + hbmBytes then
    if s.kindling then .error .kindlingUnavailable
    else
      let o := pa - spreadBase
      let n := o / 4096
      direct (n % 12 * stackBytes + n / 12 * 4096 + o % 4096)
  else if capBase ≤ pa ∧ pa < capBase + 0x100000000000 then
    if s.kindling then .error .kindlingUnavailable
    else if pa < capBase + s.mappedCap then .ok pa else .error .addressSpace
  else .error .addressSpace

/-- Whether a home byte belongs to the capacity tier. -/
def isCapacity (a : Nat) : Bool := decide (capBase ≤ a)

/-- The 2 MiB region of a home byte in the checkpoint bitmaps (R139). -/
def regionOf (a : Nat) : Nat :=
  if isCapacity a then 1048576 + (a - capBase) / 2097152 else a / 2097152

/-- The bitmap that accumulates, with a region's bit set (R139). -/
def State.dirtied (s : State) (a : Nat) : State :=
  let r := regionOf a
  let add (l : List Nat) : List Nat := if l.contains r then l else r :: l
  if s.recd.ckCur then { s with recd := { s.recd with dirty1 := add s.recd.dirty1 } }
  else { s with recd := { s.recd with dirty0 := add s.recd.dirty0 } }

/-- Bytes written at a home address; the write sets its region's dirty bit (R139). -/
def State.poke (s : State) (a : Nat) (bs : List Byte) : State :=
  if bs.isEmpty then s
  else { s with mem := { s.mem with bytes := writeBytes s.mem.bytes a bs } }.dirtied a

/-- Bytes read at a home address. -/
def State.peek (s : State) (a n : Nat) : List Byte := readBytes s.mem.bytes a n

/-- The line that holds a home byte (R203). -/
def lineOf (a : Nat) : Nat := a / 128

/-- Whether a home line is poisoned: at its home, or through a poison table (R42). -/
def State.poisoned (s : State) (line : Nat) : Bool := s.mem.poison.contains line || s.mem.poisonTab.contains line

/-- A line poisoned at its home. -/
def State.poisonLine (s : State) (line : Nat) : State :=
  if s.mem.poison.contains line then s else { s with mem := { s.mem with poison := line :: s.mem.poison } }

/-- A line's poison and its poison-table entry cleared by a full-line write (R43, R45). -/
def State.unpoison (s : State) (line : Nat) : State :=
  { s with mem := { s.mem with
      poison := s.mem.poison.filter (· != line), poisonTab := s.mem.poisonTab.filter (· != line) } }

/-- The tag of a granule: written by TAGST, undefined before (R210). -/
def State.tagOf (s : State) (granule : Nat) : BitVec 4 := (nget s.mem.tags granule).getD (Config.freeTag granule)

/-! ### Rings -/

/-- A field laid at a bit position of a 64-bit word. -/
def at64 (lo v : Nat) : DWord := BitVec.ofNat 64 (v * 2 ^ lo)

/-- The little-endian bytes of 64-bit words. -/
def dwordBytes (l : List DWord) : List Byte := (l.map fun w => leBytes 8 w.toNat).flatten

/-- The records the error ring holds (R52). -/
def State.errRing (s : State) : Nat :=
  2 ^ (if 6 ≤ s.mem.errSize.toNat ∧ s.mem.errSize.toNat ≤ 20 then s.mem.errSize.toNat else 6)

/-! ### Where a line lies (R22, R37, R47) -/

/-- Sets of the HBM cache (R47). -/
def cacheSets : Nat := 8250000000
/-- Line index of a capacity home line. -/
def capLine (line : Nat) : Nat := line - capBase / 128
/-- Whether a home line belongs to the capacity tier. -/
def lineIsCap (line : Nat) : Bool := isCapacity (line * 128)
/-- The stack a home line lies on, or whose cache region holds its set (R37, R47). -/
def lineStack (line : Nat) : Nat := if lineIsCap line then capLine line % cacheSets % 12 else line * 128 / stackBytes
/-- The mapped ports in ascending order (R22). -/
def State.capPorts (s : State) : List Nat := (List.range 4).filter s.dev.capUp.getLsbD
/-- Port and expander offset of a capacity offset (R22). -/
def State.capPlace (s : State) (x : Nat) : Nat × Nat :=
  let ps := s.capPorts
  let n := x / 4096
  (ps.getD (n % ps.length) 0, n / ps.length * 4096 + x % 4096)

/-- WHERE of an HBM line (R53). -/
def hbmWhere (line : Nat) : Word := BitVec.ofNat 32 (lineStack line) ||| (Config.dramPlace line <<< 4)

/-- UNIT and WHERE of a line's home (R53): its place in HBM, or in direct mode the link of a capacity line's expander. -/
def State.lineUnit (s : State) (line : Nat) : Nat × Word :=
  if lineIsCap line && !s.mem.cacheOn then (5, BitVec.ofNat 32 (24 + (s.capPlace (line * 128 - capBase)).1)) else (0, hbmWhere line)

/-! ### Commutative partials (R207, R208) -/

/-- Element bytes of a COMM format (R207, R209). -/
def commSize (fmt : BitVec 2) : Nat := if fmt = 2 then 8 else 4

/-- An element sum in a COMM format: integers wrap, FP32 rounds to nearest even (R207). -/
def commAdd (fmt : BitVec 2) (a b : DWord) : DWord :=
  if fmt = 2 then a + b
  else if fmt = 1 then zext 64 ((a + b).setWidth 32 : Word)
  else BitVec.ofNat 64 (fp32.add .rne false (a.toNat % 2 ^ 32) (b.toNat % 2 ^ 32)).val

/-- A new partial of a cluster: zeros, or -0.0 for FP32 (R207). -/
def Partial.fresh (cluster line : Nat) (fmt : BitVec 2) : Partial :=
  { cluster := cluster, line := line, fmt := fmt,
    elems := List.replicate (128 / commSize fmt) (if fmt = 3 then 0x80000000 else 0), cores := [] }

/-- The live partials of a line, ascending by cluster (R208). -/
def State.partialsOf (s : State) (line : Nat) : List Partial :=
  ((List.range 24).map fun n => s.mem.partials.filter fun p => p.line == line && p.cluster == n).flatten

/-- The partials of a line folded in ascending cluster order (R208). -/
def foldPartials : List Partial → Option (List DWord)
  | [] => none
  | p :: rest => some (rest.foldl (fun m q => (m.zip q.elems).map fun x => commAdd p.fmt x.1 x.2) p.elems)

/-- The cache entries changed. -/
def State.setCache (s : State) (l : List CacheLine) : State := { s with mem := { s.mem with cache := l } }

/-- Every other holder of a line invalidated, instruction caches included (R204, R205). -/
def State.dropHolders (s : State) (line : Nat) (mine : Nat → Bool) : State :=
  s.setCache (s.mem.cache.filter fun k => !(k.line == line && !mine k.holder))

/-- A line's partials folded into its home, where it is not poisoned, and discarded; the caches lose the line (R204, R208). -/
def State.fold (s : State) (line : Nat) : State :=
  let ps := s.partialsOf line
  match ps, foldPartials ps with
  | p :: _, some m =>
    let s1 := { s with mem := { s.mem with partials := s.mem.partials.filter fun q => q.line != line } }
    if s.poisoned line then s1
    else
      let n := commSize p.fmt
      (s1.poke (line * 128)
        ((m.mapIdx fun i x =>
          leBytes n (commAdd p.fmt (BitVec.ofNat 64 (leNat (s.peek (line * 128 + n * i) n))) x).toNat).flatten)).dropHolders line fun _ => false
  | _, _ => s

/-! ### Error records (R52, R53) and the device's own writes -/

/-- Where the next error record goes. -/
def State.errSlot (s : State) : Except Cause Nat := s.homeOf (s.mem.errBase.toNat + 32 * (s.mem.errHead.toNat % s.errRing))

/-- An error record whose line needs no gather (R52, R53). -/
def State.errRaw (s : State) (type outcome unit : Nat) (addr : Nat) (loc : Word) (syn kind : Nat) : State :=
  if !s.mem.errEn then s
  else if (s.mem.errHead.toNat + 1) % s.errRing = s.mem.errTail.toNat % s.errRing then
    { s with mem := { s.mem with errOvf := true } }
  else
    let ws : List DWord :=
      [at64 0 type ||| at64 8 outcome ||| at64 16 unit ||| at64 32 s.mem.errSeq.toNat, BitVec.ofNat 64 s.tick,
        BitVec.ofNat 64 addr, at64 0 loc.toNat ||| at64 32 syn ||| at64 48 kind]
    let s1 := match s.errSlot with
      | .ok a => (s.poke a (dwordBytes ws)).dropHolders (lineOf a) fun _ => false
      | .error _ => s
    { s1 with mem := { s1.mem with
        errHead := BitVec.ofNat 32 ((s.mem.errHead.toNat + 1) % s.errRing), errSeq := s.mem.errSeq + 1 } }

/-- A line that the device itself is about to write gathered (R208). -/
def State.openLine (s : State) (line : Nat) : State :=
  if (s.partialsOf line).isEmpty then s
  else
    let t := s.fold line
    if s.poisoned line then
      let (unit, place) := s.lineUnit line
      t.errRaw 6 0 unit (line * 128) place 0 0
    else t

/-- The line of the next error record gathered; a record that this itself makes may move the place on. -/
def State.openSlot (s : State) : State :=
  match s.errSlot with
  | .ok a => s.openLine (lineOf a)
  | .error _ => s

/-- An error record (R52, R53): type, outcome, unit, address, WHERE, syndrome and slot kind.  DESIGN CHOICE: R53 does not say whether a
record that a full ring drops takes a SEQ number, and it takes none (log entry 41). -/
def State.errRecord (s : State) (type outcome unit : Nat) (addr : Nat) (loc : Word) (syn kind : Nat) : State :=
  (if s.mem.errEn then s.openSlot.openSlot else s).errRaw type outcome unit addr loc syn kind

/-- A partial write of a poisoned line recorded (R44, R53). -/
def State.partialRecord (s : State) (line : Nat) : State :=
  let (unit, place) := s.lineUnit line
  s.errRecord 6 0 unit (line * 128) place 0 0

/-- Bytes that the device itself writes at a home address: their lines are gathered first, and the caches lose them (R204, R208). -/
def State.put (s : State) (a : Nat) (bs : List Byte) : State :=
  let t := if s.mem.partials.isEmpty && s.mem.cache.isEmpty then s
    else (List.range ((a + bs.length + 127) / 128 - a / 128)).foldl
      (fun s i => (s.openLine (a / 128 + i)).dropHolders (a / 128 + i) fun _ => false) s
  t.poke a bs

/-- Bytes that the device itself writes at a device physical address within one 4 KiB page; a write that is not memory is dropped. -/
def State.pokePa (s : State) (pa : Nat) (bs : List Byte) : State :=
  match s.homeOf pa with
  | .ok a => s.put a bs
  | .error _ => s

/-- A context's registers. -/
def State.ctx (s : State) (c : Nat) : Ctx := ngetD s.host.ctxs c Ctx.reset

/-- A context's registers changed. -/
def State.modCtx (s : State) (c : Nat) (f : Ctx → Ctx) : State :=
  { s with host := { s.host with ctxs := nput c (f (s.ctx c)) s.host.ctxs } }

/-- A queue slot's registers. -/
def State.slot (s : State) (n : Nat) : QSlot := ngetD s.host.slots n QSlot.reset

/-- A queue slot's registers changed. -/
def State.modSlot (s : State) (n : Nat) (f : QSlot → QSlot) : State :=
  { s with host := { s.host with slots := nput n (f (s.slot n)) s.host.slots } }

/-- The records the journal holds (R75). -/
def State.jrnRing (s : State) : Nat :=
  2 ^ (if 12 ≤ s.host.jrnSize.toNat ∧ s.host.jrnSize.toNat ≤ 24 then s.host.jrnSize.toNat else 12)

/-- One journal record (R76), while journaling is enabled (R75). -/
def State.jrnRaw (s : State) (type slot ctx cause : Nat) (seq : Word) (digest : DWord) : State :=
  if !s.host.jrnEn then s else
  let ws : List DWord :=
    [at64 0 type ||| at64 8 slot ||| at64 16 ctx ||| at64 24 cause ||| at64 32 seq.toNat, digest,
      BitVec.ofNat 64 s.tick, at64 0 s.host.jseq.toNat]
  let s1 := s.pokePa (s.host.jrnBase.toNat + 32 * (s.host.jrnHead.toNat % s.jrnRing)) (dwordBytes ws)
  { s1 with host := { s1.host with
      jrnHead := BitVec.ofNat 32 ((s.host.jrnHead.toNat + 1) % s.jrnRing), jseq := s.host.jseq + 1 } }

/-- A HEAD record for every enabled slot (R76). -/
def State.jrnHeads (s : State) : State :=
  s.host.slots.foldl
    (fun t p => if p.2.en then t.jrnRaw 5 p.1 p.2.ctx.toNat 0 p.2.head 0 else t) s

/-- A journal record, preceded once in every 1,024 records by the HEAD records (R76). -/
def State.journal (s : State) (type slot ctx cause : Nat) (seq : Word) (digest : DWord) : State :=
  let s1 := s.jrnRaw type slot ctx cause seq digest
  if s.host.jseq.toNat / 1024 ≠ s1.host.jseq.toNat / 1024 then s1.jrnHeads else s1

/-- The records a context's fault ring holds (R68). -/
def Ctx.ring (c : Ctx) : Nat := 2 ^ ((if c.fqSize.toNat ≤ 8 then c.fqSize.toNat else 8) + 4)

/-- Whether a context's fault ring is full (R83). -/
def Ctx.ringFull (c : Ctx) : Bool := (c.fqHead.toNat + 1) % c.ring == c.fqTail.toNat % c.ring

/-- The access kind of a fault record (R83). -/
def AccessKind.code : AccessKind → Nat
  | .read => 0
  | .write => 1
  | .atomic => 2
  | .fetch => 3

/-- A record written into a context's fault ring (R83); the caller has checked that the ring has room. -/
def State.faultRing (s : State) (c : Nat) (cause : Cause) (malf hostpg wpois : Bool) (kind : AccessKind)
    (fseq : Word) (va : DWord) (site : FaultSite) : State :=
  let x := s.ctx c
  let ws : List DWord :=
    [at64 0 cause.code ||| at64 6 malf.toNat ||| at64 7 hostpg.toNat ||| at64 8 kind.code ||| at64 10 wpois.toNat
        ||| at64 11 site.origin.toNat ||| at64 32 fseq.toNat,
      va, site.pc, at64 0 site.lseq.toNat ||| at64 32 site.core.toNat ||| at64 40 site.slot.toNat]
  (s.pokePa (x.fqBase.toNat + 32 * (x.fqHead.toNat % x.ring)) (dwordBytes ws)).modCtx c
    fun y => { y with fqHead := BitVec.ofNat 32 ((x.fqHead.toNat + 1) % x.ring) }

/-- A notice, tier N (R273): a record in the context's fault ring, and nothing stops.  One that finds the ring full is
held until software makes room (R83). -/
def State.notice (s : State) (c : Nat) (cause : Cause) (va pc : DWord) (lseq : Word) (core : Nat) : State :=
  let x := s.ctx c
  let site : FaultSite := { origin := 0, pc := pc, lseq := lseq, core := BitVec.ofNat 8 core, slot := 0 }
  if !x.en then s
  else
    let s1 := s.modCtx c fun y => { y with fseq := x.fseq + 1 }
    if x.ringFull then
      { s1 with xl := { s1.xl with
          notices := s1.xl.notices ++ [{ ctx := c, cause := cause, fseq := x.fseq, va := va, site := site }] } }
    else s1.faultRing c cause false false false .read x.fseq va site

end Sys2Proof.Machine
end

