-- ==== Sys2Proof/Machine/Record.lean ====
section
/-! DEFINITION. The recorder (R124 to R137) and the turn-keeping of replay (R140 to R144): agents and their chunks,
conflict stamps, the records of the ash ring, and the check of each chunk against the log. -/

namespace Sys2Proof.Machine

/-! ### Agents and sources (R124, R130) -/

/-- The agent of a Splitter (R124). -/
def splitterAgent (cluster i : Nat) : Nat := 256 + 2 * cluster + i
/-- The agent of a collective engine (R124). -/
def collAgent (e : Nat) : Nat := 320 + e
/-- The agent of a Vilbin port (R124). -/
def portAgent (p : Nat) : Nat := 384 + p
/-- The host agent (R124). -/
def hostAgent : Nat := 448
/-- The Stoker's agent (R124). -/
def stokerAgent : Nat := 449

/-- The source that writes an agent's records (R130). -/
def sourceOf (agent : Nat) : Nat :=
  if agent < 192 then agent / 8
  else if 256 ≤ agent ∧ agent < 304 then (agent - 256) / 2
  else if 320 ≤ agent ∧ agent < 328 then (if agent < 324 then 24 else 25)
  else if 384 ≤ agent ∧ agent < 408 then (if agent < 396 then 24 else 25)
  else 24

/-- An issuer within a core: 64 times BCTX plus w (R124). -/
def issuerOf (bctx w : Nat) : Nat := 64 * bctx + w

/-- An agent with no open operations at chunk `cseq`. -/
def Agent.empty (cseq : Nat) : Agent := { cseq := cseq, ops := 0, fold := 0, runs := [], stamps := [], msgs := [], lastOp := 0 }

/-- An agent's state. -/
def State.agent (s : State) (a : Nat) : Agent := ngetD s.recd.agents a (Agent.empty 0)

/-- An agent's state replaced. -/
def State.setAgent (s : State) (a : Nat) (x : Agent) : State :=
  { s with recd := { s.recd with agents := nput a x s.recd.agents } }

/-- Whether operations are being recorded (R123, R130). -/
def State.recording (s : State) : Bool := s.recd.mode == 1 && !s.recd.stopped

/-- Whether the log is being replayed (R140); the order of the log holds after a divergence too (R141). -/
def State.replaying (s : State) : Bool := s.recd.mode == 2

/-! ### Pages (R130) -/

/-- A page with no records yet. -/
def PageBuf.empty : PageBuf := { pseq := 0, start := 0, data := [], full := [] }

/-- A finished page: header, records, zeros (R130). -/
def PageBuf.page (p : PageBuf) (source : Nat) : List Byte :=
  let head := dwordBytes [at64 0 15 ||| at64 8 1 ||| at64 16 source ||| at64 32 p.pseq.toNat, BitVec.ofNat 64 p.start]
  head ++ p.data ++ List.replicate (4080 - p.data.length) 0

/-- The source's current page ended, if it holds any record. -/
def PageBuf.endPage (p : PageBuf) (source : Nat) : PageBuf :=
  if p.data.isEmpty then p
  else { pseq := p.pseq + 1, start := 0, data := [], full := p.full ++ [p.page source] }

/-- A record added to a source's page: records never straddle pages (R130). -/
def PageBuf.add (p : PageBuf) (source tick : Nat) (rec : List Byte) : PageBuf :=
  let q := if p.data.length + rec.length > 4080 then p.endPage source else p
  { q with data := q.data ++ rec, start := if q.data.isEmpty then tick else q.start }

/-- A record of a source of the ash ring. -/
def State.ashRecord (s : State) (source : Nat) (rec : List Byte) : State :=
  { s with recd := { s.recd with
      pages := nmod source PageBuf.empty (fun p => p.add source s.tick rec) s.recd.pages } }

/-- A record's bytes: its words padded to whole quads, with TYPE and QUADS in word 0 (R131). -/
def recordBytes (type : Nat) (ws : List DWord) : List Byte :=
  let n := ws.length + ws.length % 2
  match ws with
  | [] => []
  | w :: rest => dwordBytes ((w ||| at64 0 type ||| at64 8 (n / 2)) :: rest ++ List.replicate (ws.length % 2) 0)

/-! ### Chunks (R127, R132) -/

/-- Four-byte entries packed two to a word. -/
def packHalves : List Nat → List DWord
  | [] => []
  | [a] => [at64 0 a]
  | a :: b :: t => (at64 0 a ||| at64 32 b) :: packHalves t

/-- The CHUNK or ARRIVAL record of an agent's open chunk (R132, R133). -/
def Agent.record (x : Agent) (agent close : Nat) : List Byte :=
  let port := decide (384 ≤ agent) && decide (agent < 408)
  let body := if port then x.msgs
    else packHalves (x.runs.map fun r => r.issuer.toNat + r.lane.toNat * 2 ^ 10 + (r.count - 1) * 2 ^ 16)
  recordBytes (if port then 2 else 1)
    ([at64 16 agent ||| at64 26 close ||| at64 32 x.ops
        ||| at64 45 (if port then x.msgs.length else x.runs.length) ||| at64 53 x.stamps.length,
      at64 0 x.cseq ||| at64 48 x.fold.toNat] ++ body ++ x.stamps.map fun p => at64 0 p.1 ||| at64 16 p.2)

/-- Whether an agent's open chunk has had no operation for 65,536 ticks (R127). -/
def State.idleChunk (s : State) (agent : Nat) : Bool :=
  decide (0 < (s.agent agent).ops) && decide ((s.agent agent).lastOp + 65536 ≤ s.tick)

/-- An agent's open chunk closed with a CLOSE code and written, if it holds an operation; the next opens.  One that was idle before had
closed for that (R127). -/
def State.closeChunk (s : State) (agent close : Nat) : State :=
  let x := s.agent agent
  if !s.recording || x.ops = 0 then s
  else (s.ashRecord (sourceOf agent) (x.record agent (if s.idleChunk agent then 9 else close))).setAgent agent (Agent.empty (x.cseq + 1))

/-- The latest stamp per agent kept (R128). -/
def addStamp (l : List (Nat × Nat)) (p : Nat × Nat) : List (Nat × Nat) :=
  if l.any fun q => q.1 == p.1 then l.map fun q => if q.1 = p.1 then (q.1, max q.2 p.2) else q else l ++ [p]

/-- The runs with one more operation (R132). -/
def addRun (l : List Run) (issuer lane : Nat) : List Run :=
  match l.getLast? with
  | some r =>
    if r.issuer.toNat = issuer ∧ r.lane.toNat = lane ∧ r.count < 4096 then
      l.dropLast ++ [{ r with count := r.count + 1 }]
    else l ++ [{ issuer := BitVec.ofNat 10 issuer, lane := BitVec.ofNat 5 lane, count := 1 }]
  | none => [{ issuer := BitVec.ofNat 10 issuer, lane := BitVec.ofNat 5 lane, count := 1 }]

/-- Numbers of the recorded objects (R128): memory lines take the even numbers, other objects the odd ones. -/
def objLine (line : Nat) : Nat := 16 * line
/-- A line of a block's scratchpad, by the block's admission. -/
def objSpad (adm line : Nat) : Nat := 16 * (adm * 262144 + line) + 1
/-- A FIFO bank. -/
def objFifo (cluster bank : Nat) : Nat := 16 * (cluster * 32 + bank) + 2
/-- A block barrier. -/
def objBar (core bctx b : Nat) : Nat := 16 * ((core * 16 + bctx) * 16 + b) + 3
/-- A phaser. -/
def objPhaser (n : Nat) : Nat := 16 * n + 4
/-- A timeline. -/
def objTl (n : Nat) : Nat := 16 * n + 5
/-- A tile-table entry. -/
def objTile (core t : Nat) : Nat := 16 * (core * 64 + t) + 6
/-- An accumulator row. -/
def objRow (core bctx w r : Nat) : Nat := 16 * (((core * 16 + bctx) * 32 + w) * 32768 + r) + 7
/-- The activation-table state of a core. -/
def objTable (core : Nat) : Nat := 16 * core + 8
/-- A uniform register. -/
def objUni (core bctx r : Nat) : Nat := 16 * ((core * 16 + bctx) * 256 + r) + 9
/-- A line of host memory. -/
def objHost (link line : Nat) : Nat := 16 * (2 * line + link) + 11
/-- Reads that touch no shared object (ticks, counters, SLOTQ). -/
def objNone : Nat := 10

/-- The chunks that an operation on an object follows where they are another agent's (R128): the last modifier's, and for a
modification the readers'. -/
def ObjStamp.before (o : ObjStamp) (modifies : Bool) : List (Nat × Nat) :=
  o.modBy.toList ++ (if modifies then o.readers else [])

/-- An object touched by an operation of a chunk (R128). -/
def ObjStamp.touched (o : ObjStamp) (agent cseq : Nat) (modifies : Bool) : ObjStamp :=
  if modifies then { modBy := some (agent, cseq), readers := [] }
  else { o with readers := if o.readers.contains (agent, cseq) then o.readers else o.readers ++ [(agent, cseq)] }

/-- The chunks of other agents that an operation on some objects follows (R128). -/
def State.conflicts (s : State) (agent : Nat) (objs : List Nat) (modifies : Bool) : List (Nat × Nat) :=
  ((objs.map fun x => (ngetD s.recd.objs x { modBy := none, readers := [] }).before modifies).flatten).filter fun p => p.1 != agent

/-- Whether an operation finds a table of its agent's open chunk full (R127, R132). -/
def State.tableFull (s : State) (agent issuer lane : Nat) (others : List (Nat × Nat)) (msgs : List DWord) : Bool :=
  let x := s.agent agent
  (decide (agent < 192) && decide (255 < (addRun x.runs issuer lane).length)) || decide (255 < (others.foldl addStamp x.stamps).length)
    || decide (255 < (x.msgs ++ msgs).length)

/-- A recorded operation (R125 to R128): conflicting chunks of other agents are closed and stamped, then the operation
counts in the agent's chunk, and a closing operation ends it.  `addr` is the physical byte touched, for AFOLD; `msgs`
holds the ARRIVAL entry of an inbound message (R133), and `more` the further objects that one touches. -/
def State.recordOp (s0 : State) (agent issuer lane obj : Nat) (modifies : Bool) (addr : Option Nat)
    (close : Option Nat) (msgs : List DWord := []) (more : List Nat := []) : State :=
  let s := if s0.idleChunk agent then s0.closeChunk agent 9 else s0
  let others := s.conflicts agent (obj :: more) modifies
  let s1 := others.foldl
    (fun t p => if (t.agent p.1).cseq = p.2 ∧ 0 < (t.agent p.1).ops then t.closeChunk p.1 6 else t) s
  let s2 := if s1.tableFull agent issuer lane others msgs then s1.closeChunk agent 7 else s1
  let x := s2.agent agent
  let fold : BitVec 16 := match addr with
    | some a => fld (BitVec.ofNat 64 a) 7 16
    | none => 0
  let y : Agent := { x with
    ops := x.ops + 1
    fold := x.fold ^^^ fold
    runs := if agent < 192 then addRun x.runs issuer lane else x.runs
    stamps := others.foldl addStamp x.stamps
    msgs := x.msgs ++ msgs
    lastOp := s.tick }
  let s3 := s2.setAgent agent y
  let s4 := { s3 with recd := { s3.recd with
    objs := (obj :: more).foldl
      (fun m x => nmod x { modBy := none, readers := [] } (fun o => o.touched agent y.cseq modifies) m) s3.recd.objs } }
  match close with
  | some k => s4.closeChunk agent k
  | none => if y.ops = 4096 then s4.closeChunk agent 0 else s4

/-- The chunk and index that an issuer's next operation, on an object, takes (R127, R128, R132); `entry` says that an inbound message
makes it. -/
def State.nextOp (s : State) (agent issuer lane obj : Nat) (modifies entry : Bool) : Nat × Nat :=
  let x := s.agent agent
  if s.idleChunk agent || s.tableFull agent issuer lane (s.conflicts agent [obj] modifies) (if entry then [0] else []) then
    (x.cseq + 1, 0)
  else (x.cseq, x.ops)

/-- A value recorded with the operation that is about to take effect (R129, R134). -/
def State.recordValue (s : State) (agent issuer lane kind : Nat) (mask : Word) (vals : List DWord) (obj : Nat := objNone)
    (modifies : Bool := false) : State :=
  if !s.recording then s
  else
    let p := s.nextOp agent issuer lane obj modifies (decide (384 ≤ agent) && decide (agent < 408))
    s.ashRecord (sourceOf agent)
      (recordBytes 3 ([at64 16 agent ||| at64 26 kind ||| at64 32 p.2, at64 0 p.1, at64 0 mask.toNat] ++ vals))

/-- An ATRAP record (R135). -/
def State.recordAtrap (s : State) (agent cause op issuer lane : Nat) (pc : DWord) (lseq : Word) : State :=
  if !s.recording then s
  else
    s.ashRecord (sourceOf agent)
      (recordBytes 4 [at64 16 agent ||| at64 26 cause ||| at64 32 op ||| at64 48 issuer ||| at64 58 lane,
        at64 0 (s.agent agent).cseq, pc, at64 0 lseq.toNat])

/-- A PLACE record (R136). -/
def State.recordPlace (s : State) (event : Nat) (nodeId armSeq arg : Word) (cluster mask core slot ctx : Nat)
    (faulted : Bool) : State :=
  if !s.recording then s
  else
    let s1 := s.ashRecord 24
      (recordBytes 5 [at64 16 event ||| at64 32 nodeId.toNat, at64 0 s.recd.dseq.toNat ||| at64 32 armSeq.toNat,
        at64 0 arg.toNat ||| at64 32 cluster ||| at64 40 mask ||| at64 48 core,
        at64 0 slot ||| at64 8 ctx ||| at64 16 faulted.toNat])
    { s1 with recd := { s1.recd with dseq := s1.recd.dseq + 1 } }

/-- A PAYLOAD record of a port or the host agent, while BOUNDARY is set (R133). -/
def State.recordPayload (s : State) (agent : Nat) (mseq : Word) (src : Nat) (data : List Byte) : State :=
  if !s.recording || !s.recd.boundary then s
  else
    let pad := data ++ List.replicate (15 - (data.length + 15) % 16) 0
    s.ashRecord (sourceOf agent)
      (dwordBytes [at64 0 7 ||| at64 8 (1 + (data.length + 15) / 16) ||| at64 16 agent ||| at64 32 mseq.toNat,
        at64 0 src ||| at64 16 data.length] ++ pad)

/-- The machine with recording and replay set aside for a step that makes no recorded operation. -/
def State.quietly (s : State) (f : State → State) : State :=
  let t := f { s with recd := { s.recd with mode := 0 } }
  { t with recd := { t.recd with mode := s.recd.mode } }

/-- Whether a device belongs to the replay set (R123, R142). -/
def State.inRepset (s : State) (dev : BitVec 16) : Bool :=
  match s.homeOf (s.recd.repset.toNat + dev.toNat / 8) with
  | .ok a => (readByte s.mem.bytes a).getLsbD (dev.toNat % 8)
  | .error _ => false

/-! ### Replay (R141 to R144) -/

/-- The logged chunk an agent is at (R141). -/
def State.logAt (s : State) (agent : Nat) : Option LogChunk :=
  s.recd.log.find? fun k => k.agent == agent && k.cseq == (s.agent agent).cseq

/-- The run an operation index falls in. -/
def runAt : List Run → Nat → Option Run
  | [], _ => none
  | r :: t, i => if i < r.count then some r else runAt t (i - r.count)

/-- Whether a stamped chunk has committed (R141): a chunk before the first that the log holds of its agent took effect before the
checkpoint. -/
def State.hasCommitted (s : State) (p : Nat × Nat) : Bool :=
  s.recd.committed.contains p || !s.recd.log.any fun k => k.agent == p.1 && decide (k.cseq ≤ p.2)

/-- The enabled breakpoint at the operation an agent's chunk has reached, unless it has halted the device there already (R144). -/
def State.brkAt (s : State) (agent : Nat) : Option (Nat × Brk) :=
  let x := s.agent agent
  s.recd.brks.find? fun p =>
    p.2.en && p.2.agent.toNat == agent && p.2.cseq.toNat == x.cseq && p.2.op.toNat == x.ops
      && !s.recd.past.contains (p.1, agent, x.cseq, x.ops) && ((s.logAt agent).any fun k => decide (x.ops < k.len))

/-- The device halted by a breakpoint (R144). -/
def State.breakAt (s : State) (p : Nat × Brk) : State :=
  { s with recd := { s.recd with
      halted := true, brks := nput p.1 { p.2 with hit := true } s.recd.brks
      past := (p.1, p.2.agent.toNat, p.2.cseq.toNat, p.2.op.toNat) :: s.recd.past } }

/-- The ATRAP record whose place in a core agent's log has been reached (R135, R142). -/
def State.trapDue (s : State) (agent : Nat) : Option LogTrap :=
  s.recd.atraps.find? fun r =>
    decide (agent < 192) && r.agent == agent && r.cseq == (s.agent agent).cseq && r.op == (s.agent agent).ops

/-- Whether an operation of an issuer's sub-warp has its turn (R141): always while nothing is replayed; in
replay when its chunk's predecessors have committed, no check of it has failed (R143), and it is its run's turn.  A cluster recorder with 64 pages to write holds those of
its agents (R130). -/
def State.hasTurn (s : State) (agent issuer lane : Nat) : Bool :=
  !(s.recording && decide (sourceOf agent < 24)
      && decide (64 ≤ ((nget s.recd.pages (sourceOf agent)).elim 0 fun p => p.full.length))) &&
  (!s.replaying ||
    match s.logAt agent with
    | none => false
    | some k =>
      k.stamps.all s.hasCommitted && !s.recd.failed.contains (agent, k.cseq) && (s.trapDue agent).isNone &&
      (if agent < 192 then
        match runAt k.runs (s.agent agent).ops with
        | some r => r.issuer.toNat == issuer && r.lane.toNat == lane
        | none => false
      else true))

/-- Whether an operation may take effect now: it has its turn, and no device halt stops it (R144). -/
def State.mayOp (s : State) (agent issuer lane : Nat) : Bool := !s.recd.halted && s.hasTurn agent issuer lane

/-- Whether something an issuer asked for earlier has still to take effect: a request at its home, a release, a fill of an
activation table.  A WAITADDR that sleeps has taken effect. -/
def State.issuerBusy (s : State) (core issuer : Nat) : Bool :=
  (s.reqs.any fun r => r.core == core && issuerOf r.bctx r.w == issuer && r.stage != .served && r.kind != .pref
      && !(r.kind == .waitaddr && r.stage == .waiting))
    || (s.rels.any fun k => k.core == core && issuerOf k.bctx k.w == issuer)
    || s.cores.any fun p => p.2.banks.any fun k => k.filling.any fun f =>
      s.blks.any fun p => p.1 / 16 == core && p.2.adm == f.adm && issuerOf (p.1 % 16) f.w == issuer

/-- Whether an operation that a word makes as it issues may take effect now: it has its turn, and while MODE is 1 or 2 its
issuer's earlier operations have all taken effect (R126, R141). -/
def State.mayStart (s : State) (core issuer lane : Nat) : Bool :=
  s.mayOp core issuer lane && (s.recd.mode == 0 || !s.issuerBusy core issuer)

/-- A divergence (R143): DIVERGED, DIVINFO and DIVOP are set, the device halts, and the block of the issuer whose turn it is
stops to park (`parkReason` 4 stands for REPLAY_DIVERGENCE). -/
def State.diverge (s : State) (agent reason op : Nat) : State :=
  let run := match s.logAt agent with
    | some k => if agent < 192 then runAt k.runs op else none
    | none => none
  { s with
    recd := { s.recd with
      diverged := true, halted := true, divAgent := BitVec.ofNat 10 agent, divReason := BitVec.ofNat 3 reason
      divCseq := BitVec.ofNat 48 (s.agent agent).cseq, divOp := BitVec.ofNat 13 op
      failed := (agent, (s.agent agent).cseq) :: s.recd.failed, lastProgress := s.tick }
    blks := match run with
      | none => s.blks
      | some r => s.blks.map fun p =>
        if p.1 = agent * 16 + r.issuer.toNat / 64 then (p.1, { p.2 with svc := true, parkReason := 4 }) else p }

/-- Whether an operation closes its chunk with a CLOSE code of 1 to 4 (R127). -/
def closes (close : Option Nat) : Bool := close.any fun c => decide (1 ≤ c) && decide (c ≤ 4)

/-- Whether the last operation of a chunk is of the kind that its CLOSE code logs (R143). -/
def closeMatches (logged : Nat) (close : Option Nat) : Bool :=
  if 1 ≤ logged ∧ logged ≤ 4 then close == some logged else !closes close

/-- A replayed operation: it advances the agent in its chunk, and a chunk that reaches LEN is checked and commits; a VALUE record
that it has not taken does not match it (R141, R143). -/
def State.replayOp (s : State) (agent : Nat) (addr : Option Nat) (close : Option Nat) : State :=
  match s.logAt agent with
  | none => s
  | some k =>
    let x := s.agent agent
    let fold : BitVec 16 := match addr with
      | some a => fld (BitVec.ofNat 64 a) 7 16
      | none => 0
    let y : Agent := { x with ops := x.ops + 1, fold := x.fold ^^^ fold, lastOp := s.tick }
    let s1 := { s.setAgent agent y with recd := { (s.setAgent agent y).recd with lastProgress := s.tick } }
    if s.recd.values.any fun v => v.agent == agent && v.cseq == x.cseq && v.op == x.ops then s1.diverge agent 4 x.ops
    else if y.ops < k.len then (if closes close then s1.diverge agent 2 x.ops else s1)
    else if !closeMatches k.close close then s1.diverge agent 2 x.ops
    else if y.fold ≠ k.fold then s1.diverge agent 3 x.ops
    else
      let s2 := s1.setAgent agent { Agent.empty (k.cseq + 1) with lastOp := s.tick }
      { s2 with recd := { s2.recd with committed := (agent, k.cseq) :: s2.recd.committed } }

/-- A shared-state operation taking effect (R125): recorded, or checked against the log.  In replay one that has no turn yet, or
stands at a breakpoint (R144), marks its step as early. -/
def State.note (s : State) (agent issuer lane obj : Nat) (modifies : Bool) (addr : Option Nat)
    (close : Option Nat) (msgs : List DWord := []) (more : List Nat := []) : State :=
  if s.recording then s.recordOp agent issuer lane obj modifies addr close msgs more
  else if s.replaying then
    match s.brkAt agent with
    | some p => let t := s.breakAt p; { t with recd := { t.recd with early := true } }
    | none =>
      if s.hasTurn agent issuer lane then s.replayOp agent addr close else { s with recd := { s.recd with early := true } }
  else s

/-- What is left of a step that made an operation before its turn (R141) or at a breakpoint (R144), or in which replay diverged: the
operation has not taken effect, and the issuer stands before it (R123, R143). -/
def State.settle (pre post : State) : State :=
  if post.recd.early then
    { pre with
      focus := none
      recd := { pre.recd with halted := post.recd.halted, brks := post.recd.brks, past := post.recd.past } }
  else if post.recd.failed != pre.recd.failed && !post.recd.failed.isEmpty then
    { pre with
      focus := none
      recd := { pre.recd with
        diverged := true, halted := true, divAgent := post.recd.divAgent, divReason := post.recd.divReason
        divCseq := post.recd.divCseq, divOp := post.recd.divOp, failed := post.recd.failed, lastProgress := post.recd.lastProgress }
      blks := pre.blks.map fun p => match nget post.blks p.1 with
        | some b => if b.parkReason = 4 then (p.1, { p.2 with svc := true, parkReason := 4 }) else p
        | none => p }
  else post

/-- The value an operation about to take effect reads in place of its source: in replay the recorded one, with a check of its
kind and lanes (R141, R143), taken from the log; otherwise the live one, which is recorded (R129). -/
def State.valueOf (s : State) (agent issuer lane kind : Nat) (mask : Word) (live : List DWord) (obj : Nat := objNone)
    (modifies : Bool := false) : State × List DWord :=
  if s.replaying then
    let x := s.agent agent
    match s.recd.values.find? fun v => v.agent == agent && v.cseq == x.cseq && v.op == x.ops with
    | some v =>
      if v.kind = kind ∧ v.mask = mask then ({ s with recd := { s.recd with values := s.recd.values.filter (· != v) } }, v.vals)
      else (s.diverge agent 4 x.ops, live)
    | none => (s.diverge agent 4 x.ops, live)
  else (s.recordValue agent issuer lane kind mask live obj modifies, live)

end Sys2Proof.Machine
end

