-- ==== Sys2Proof/Machine/Ops.lean ====
section
/-! DEFINITION. The named operations over the state: the parties of a block and their registers, timelines, kills, and
taking a trap and returning from one. -/

namespace Sys2Proof.Machine

/-! ### Parties of a block -/

/-- Index of a block context: 16 per core (R112). -/
def blkKey (core bctx : Nat) : Nat := core * 16 + bctx

/-- The block in a block context. -/
def State.blk? (s : State) (core bctx : Nat) : Option Blk := nget s.blks (blkKey core bctx)

/-- The block of an admission and its block-context index. -/
def State.blkOf (s : State) (adm : Nat) : Option (Nat × Blk) := s.blks.find? fun p => p.2.adm == adm

/-- A block replaced. -/
def State.setBlk (s : State) (core bctx : Nat) (b : Blk) : State := { s with blks := nput (blkKey core bctx) b s.blks }

/-- A block changed, where there is one. -/
def State.modBlk (s : State) (core bctx : Nat) (f : Blk → Blk) : State :=
  match s.blk? core bctx with
  | some b => s.setBlk core bctx (f b)
  | none => s

/-- A party of a block: a warp 0-31, the matrix stream 32 or the access stream 33. -/
def Blk.thr? (b : Blk) (w : Nat) : Option Thr := nget b.thrs w

/-- A party of a block replaced. -/
def Blk.setThr (b : Blk) (w : Nat) (t : Thr) : Blk := { b with thrs := nput w t b.thrs }

/-- A party of a block context. -/
def State.thr? (s : State) (core bctx w : Nat) : Option Thr :=
  match s.blk? core bctx with
  | some b => b.thr? w
  | none => none

/-- A party changed, where there is one. -/
def State.modThr (s : State) (core bctx w : Nat) (f : Thr → Thr) : State :=
  s.modBlk core bctx fun b => match b.thr? w with
    | some t => b.setThr w (f t)
    | none => b

/-- The lanes of a mask changed. -/
def Thr.modLanes (t : Thr) (m : Word) (f : Lane → Lane) : Thr :=
  { t with lanes := t.lanes.mapIdx fun i l => if m.getLsbD i then f l else l }

/-- A lane's state; a lane number the party lacks reads as exited. -/
def Thr.lane (t : Thr) (i : Nat) : Lane :=
  t.lanes.getD i { pc := 0, mr := 1, stat := .exited, trap := .none, savedMr := 1, savedStat := .run,
                   savedClause := none, clause := none, via := none }

/-- The lanes that satisfy a test. -/
def Thr.lanesWhere (t : Thr) (f : Lane → Bool) : Word := maskOf fun i => decide (i < t.lanes.length) && f (t.lane i)

/-- The non-exited lanes. -/
def Thr.live (t : Thr) : Word := t.lanesWhere fun l => l.stat != .exited

/-- Whether the party has exited (R157). -/
def Thr.exited (t : Thr) : Bool := t.live == 0

/-- The lowest lane of a mask. -/
def lowestLane (m : Word) : Nat := (maskLanes m).headD 0

/-- Whether some lane of the party is in the handler (R278). -/
def Thr.inHandler (t : Thr) : Bool := t.handling.isSome

/-- Whether a sub-warp runs in handler mode, which is privileged (R279). -/
def Thr.privileged (t : Thr) (lanes : Word) : Bool :=
  lanes != 0 && (t.lane (lowestLane lanes)).trap == .handler

/-! ### Registers -/

/-- A row of the party's pool slice: its 32 lane values, undefined until written (R156, R173). -/
def Thr.row (t : Thr) (r : Nat) : List Word :=
  (nget t.rows r).getD ((List.range 32).map fun l => Config.freeWord t.rowSeed r l)

/-- Lane register `r` in lane `l` (R167). -/
def Thr.reg (t : Thr) (r l : Nat) : Word := (t.row r).getD l 0

/-- A row with the lanes of `m` given the values of `f` (R160). -/
def Thr.putRow (t : Thr) (r : Nat) (m : Word) (f : Nat → Word) : Thr :=
  { t with rows := nput r ((List.range 32).map fun l => if m.getLsbD l then f l else t.reg r l) t.rows }

/-- The pair vN:vN+1 in a lane (R167). -/
def Thr.reg64 (t : Thr) (r l : Nat) : DWord := zext 64 (t.reg r l) ||| zext 64 (t.reg (r + 1) l) <<< 32

/-- A pair written (R167). -/
def Thr.putPair (t : Thr) (r : Nat) (m : Word) (f : Nat → DWord) : Thr :=
  (t.putRow r m fun l => (f l).setWidth 32).putRow (r + 1) m fun l => (f l >>> 32).setWidth 32

/-- Registers `r` to `r + n - 1` in a lane as one number, lowest register least significant (R369). -/
def Thr.group (t : Thr) (r : Nat) : Nat → Nat → Nat
  | 0, _ => 0
  | n + 1, l => (t.reg r l).toNat + 2 ^ 32 * t.group (r + 1) n l

/-- A group of `n` registers written from one number per lane (R369). -/
def Thr.putGroup (t : Thr) (r : Nat) (m : Word) (f : Nat → Nat) : Nat → Thr
  | 0 => t
  | n + 1 => (t.putRow r m fun l => BitVec.ofNat 32 (f l)).putGroup (r + 1) m (fun l => f l / 2 ^ 32) n

/-- Registers marked empty (R171). -/
def Thr.markEmpty (t : Thr) (rs : List Nat) : Thr := { t with empty := rs ++ t.empty }

/-- Registers filled (R171). -/
def Thr.fill (t : Thr) (rs : List Nat) : Thr := { t with empty := t.empty.filter fun r => !rs.contains r }

/-- Predicate p`n` of a lane; p7 reads 1 (R169). -/
def Thr.pred (t : Thr) (n l : Nat) : Bool := n == 7 || (t.preds.getD n 0).getLsbD l

/-- Predicate p`n` written in the lanes of `m`; a write to p7 is ignored (R169). -/
def Thr.putPred (t : Thr) (n : Nat) (m : Word) (f : Nat → Bool) : Thr :=
  if n = 7 then t
  else { t with preds := lmod n (fun old => maskOf fun l => if m.getLsbD l then f l else old.getLsbD l) t.preds }

/-- Uniform register s`n`; s0 reads zero (R168). -/
def Blk.sreg (b : Blk) (n : Nat) : DWord := if n = 0 then 0 else ngetD b.s n 0

/-- Uniform register s`n` written by party `w`; s0 ignores writes (R168). -/
def Blk.putS (b : Blk) (n : Nat) (v : DWord) (w : Nat) : Blk :=
  if n = 0 then b else { b with s := nput n v b.s, sWriter := nput n w b.sWriter }

/-- Uniform register s`n` filled by a reply (R171): its issuer has counted as its writer since it issued (log entry 9). -/
def Blk.landS (b : Blk) (n : Nat) (v : DWord) : Blk := if n = 0 then b else { b with s := nput n v b.s }

/-- Uniform predicate q`n`; q7 reads 1 (R169). -/
def Blk.qpred (b : Blk) (n : Nat) : Bool := n == 7 || b.q.getLsbD n

/-- Uniform predicate q`n` written; a write to q7 is ignored (R169). -/
def Blk.putQ (b : Blk) (n : Nat) (v : Bool) : Blk :=
  if n = 7 then b
  else { b with q := if v then b.q ||| BitVec.ofNat 7 (2 ^ n) else b.q &&& ~~~(BitVec.ofNat 7 (2 ^ n)) }

/-- Whether a lane register of the party is empty (R171). -/
def Thr.isEmpty (t : Thr) (r : Nat) : Bool := t.empty.contains r

/-- Whether a uniform register is empty; s0 is always full (R301). -/
def Blk.sIsEmpty (b : Blk) (n : Nat) : Bool := n != 0 && b.sEmpty.contains n

/-- The rows of a warp's slice: S of R173. -/
def NodeInfo.sliceRows (i : NodeInfo) : Nat := i.poolRows + i.accRows

/-! ### Timelines -/

/-- A timeline counter (R237). -/
def State.timeline (s : State) (n : Nat) : DWord := ngetD s.tls n 0

/-- A raise of a timeline: never downwards (R237). -/
def State.raise (s : State) (n : Nat) (v : DWord) : State :=
  { s with tls := nput n (if (s.timeline n).toNat < v.toNat then v else s.timeline n) s.tls }

/-- Whether a lane waits for a timeline to reach a value that a raise to `v` brings (R237). -/
def State.tlWaits (s : State) (n : Nat) (v : DWord) : LaneStat → Bool
  | .blocked (.timeline x a) => x == n && decide ((s.timeline n).toNat < a.toNat) && decide (a.toNat ≤ v.toNat)
  | _ => false

/-- The critical-path token of every block with a waiting party passes on, to the party that `dst` gives for the block and its
lowest-numbered waiter (R147). -/
def State.giveToken (s : State) (dst : Nat → Nat → Nat) (edge : BitVec 3) (waiting : LaneStat → Bool) : State :=
  { s with blks := s.blks.map fun p =>
      match p.2.thrs.find? fun q => q.2.lanes.any fun l => waiting l.stat with
      | some q => (p.1, { p.2 with tokenHolder := dst p.1 q.1, tokenEdge := edge })
      | none => p }

/-- A raise by an agent outside the blocks: the tokens of the blocks that waited for it pass to their lowest-numbered waiters (R147,
R237). -/
def State.raiseOutside (s : State) (n : Nat) (v : DWord) : State :=
  (s.raise n v).giveToken (fun _ q => q) 2 (s.tlWaits n v)

/-! ### The stage counter -/

/-- The block's stage counter: the least mark of its non-exited warps (R392, R104). -/
def Blk.stageCount (b : Blk) : Nat :=
  b.thrs.foldl (fun m p => if p.1 < 32 ∧ !p.2.exited then min m p.2.stage.toNat else m) (2 ^ 64 - 1)

/-! ### Requests in flight -/

/-- Whether a request kind writes (R223, R224). -/
def ReqKind.writes : ReqKind → Bool
  | .store | .atom _ | .cas | .red _ | .cadd _ | .tagst => true
  | _ => false

/-- Whether a request that travels in flits has lanes that have not been sent yet (R15). -/
def Req.unsent (r : Req) : Bool :=
  r.stage == .sent && (match r.home with
    | .peer _ | .window _ => decide (r.sentN < r.ops.length)
    | _ => false)

/-- The lanes in whose program order a request stands. -/
def Req.lanes (r : Req) : Word := r.mask

/-- Whether two requests come from one warp or stream. -/
def Req.sameParty (r q : Req) : Bool := r.core == q.core && r.bctx == q.bctx && r.w == q.w && r.adm == q.adm

/-- Whether two requests touch one object. -/
def Req.sameObj (r q : Req) : Bool := r.home == q.home && r.line == q.line

/-- Whether two requests touch a common byte. -/
def Req.overlaps (r q : Req) : Bool :=
  r.ops.any fun o => q.ops.any fun p => decide (o.addr < p.addr + q.size) && decide (p.addr < o.addr + r.size)

/-- Whether a request still has to take effect at its home. -/
def Req.open (r : Req) : Bool := r.stage != .served

/-- One lane's part of a request failed, while the others go on. -/
def Req.failLane (r : Req) (lane : Nat) (cause : Cause) : Req :=
  { r with err := if r.err.isSome then r.err else some cause, bad := r.bad ||| laneBit lane }

/-- A request changed. -/
def State.modReq (s : State) (id : Nat) (f : Req → Req) : State :=
  { s with reqs := s.reqs.map fun r => if r.id = id then f r else r }

/-- A request. -/
def State.req? (s : State) (id : Nat) : Option Req := s.reqs.find? fun r => r.id == id

/-- Whether an acquire of these lanes has not bound its value, or a seq_cst fence of theirs has not completed: later
shared-state operations wait (R229, R232). -/
def State.heldBack (s : State) (core bctx w : Nat) (adm : Nat) (lanes : Word) : Bool :=
  (s.reqs.any fun r => r.core == core && r.bctx == bctx && r.w == w && r.adm == adm && r.acq && r.open
      && r.lanes &&& lanes != 0)
    || s.rels.any fun k => k.core == core && k.bctx == bctx && k.w == w && k.adm == adm &&
      (match k.act with
        | .fence sc m => sc && m &&& lanes != 0
        | _ => false)

/-! ### Kills (R69) -/

/-- A command's journal entry as FAIL (R69, R73). -/
def State.failCmd (s : State) (h : HCmd) (cause : Cause) : State :=
  s.journal 3 h.slot h.ctx cause.code h.seq h.cookie

/-- The entries of an enabled slot that are still queued, each journaled REJECT with reason 3 (R69). -/
def State.rejectQueued (s : State) (slot : Nat) (ctx : Nat) (head : Word) : Nat → State
  | 0 => s
  | n + 1 => (s.journal 4 slot ctx 3 head 0).rejectQueued slot ctx (head + 1) n

/-- What the Stoker holds for a context dropped: its nodes, their places in the queues, and its gangs (R69). -/
def Stoker.dropCtx (k : Stoker) (c : Nat) : Stoker :=
  let gone (slot : Nat) (seq : Word) : Bool := k.nodes.any fun n => n.ctx == c && n.slot == slot && n.seq == seq
  let keep (e : CqEntry) : Bool := !gone e.slot e.seq
  { k with
    nodes := k.nodes.filter fun n => n.ctx != c
    ready := k.ready.filter fun p => !gone p.1 p.2.1
    cq := k.cq.filter keep
    retireQ := k.retireQ.filter keep
    gangs := k.gangs.filter fun g => g.ctx != c }

/-- What is left of a request of a killed context (R69): one that has left its core keeps its way to its home, where an atomic takes
effect once, and its reply is dropped.  None of them waits any more for the writers of a line (R243), and of
one that travels in flits the lanes already sent go on.  Whatever waits in its core, on a bank or at an address is gone. -/
def Req.afterKill (r : Req) : Option Req :=
  let fifo : Bool := match r.home with
    | .fifo _ _ => true
    | _ => false
  if r.stage = .queued ∨ fifo ∨ r.kind = .waitaddr then none
  else
    let q : Req := { r with pub := false, dst := .none }
    some (if r.stage = .waiting then { q with stage := .accepted } else if r.unsent then { q with ops := r.ops.take r.sentN } else q)

/-- A bank after a kill of context `c`, whose blocks are the admissions `mine`: one it owned is back in cache mode with its entries discarded,
a change into FIFO mode for it is given up, and no party of it waits for a change any more (R69, R192). -/
def Bank.afterKill (k : Bank) (c : Nat) (mine : List Nat) : Bank :=
  let done := k.done.filter fun p => !mine.contains p.1
  if k.owner = some c then { Bank.reset with done := done }
  else
    { k with
      change := match k.change with
        | some (.fifo, some o) => if o = c then none else k.change
        | x => x
      changer := k.changer.filter fun p => !mine.contains p.1
      done := done }

/-- What a command of a killed context is journaled as (R69, R73): a finished one as it ended, any other as FAIL with the
cause of the kill. -/
def State.endRecord (s : State) (h : HCmd) (cause : Cause) : State :=
  match h.stage with
  | .finished none => s.journal 2 h.slot h.ctx 0 h.seq h.cookie
  | .finished (some c) => s.failCmd h c
  | _ => s.failCmd h cause

/-- A kill of a context (R69): its blocks and their images, engine commands, host commands, FIFO banks, windows,
enrolments and phaser memberships are removed, KILLED and CAUSE set, and EN cleared with its slots'.  `killing` stands
until KILL_COMPLETE, while CTXSTAT.ACTIVE still reads 1. -/
def State.kill (s : State) (c : Nat) (cause : Cause) : State :=
  if (s.ctx c).killing then s
  else
    let mine := (s.blks.filter fun p => p.2.info.ctx == c).map fun p => p.2.adm
    let s := (s.host.cmds.filter fun h => h.ctx == c).foldl (fun t h => t.endRecord h cause) s
    let s := s.host.slots.foldl (fun t p =>
        if p.2.en && p.2.ctx.toNat == c then
          t.rejectQueued p.1 c p.2.head ((p.2.tail.toNat + 2 ^ 32 - p.2.head.toNat) % 2 ^ 32)
        else t) s
    { s with
      host := { s.host with
        ctxs := nput c { s.ctx c with en := false, killed := true, killing := true,
                                      cause := BitVec.ofNat 6 cause.code } s.host.ctxs
        slots := s.host.slots.map fun p => if p.2.ctx.toNat == c then
          (p.1, if p.2.en then { p.2 with en := false, head := p.2.tail, waitSeq := false, kick := false } else p.2) else p
        cmds := s.host.cmds.filter fun h => h.ctx != c }
      focus := match s.focus with
        | some (core, bctx, _) => match s.blk? core bctx with
          | some b => if mine.contains b.adm then none else s.focus
          | none => s.focus
        | none => none
      blks := s.blks.filter fun p => !mine.contains p.2.adm
      reqs := s.reqs.filterMap fun r => if r.ctx == c then r.afterKill else some r
      rels := s.rels.filter fun r => !mine.contains r.adm
      sfu := s.sfu.filter fun r => !mine.contains r.adm
      cmds := s.cmds.filter fun k => k.ctx != c
      mcmds := s.mcmds.filter fun k => !mine.contains k.adm
      colls := s.colls.filter fun k => k.ctx != c
      cores := s.cores.map fun p => (p.1, { p.2 with
        tiles := p.2.tiles.filter fun e =>
          !(s.blks.any fun q => q.1 / 16 == p.1 && q.2.info.ctx == c && q.2.tileRefs.contains e.1)
        banks := p.2.banks.mapIdx fun i k => { k with
          filling := k.filling.filter fun f => !mine.contains f.adm
          bound := k.bound - (s.sfu.filter fun r => r.core == p.1 && mine.contains r.adm && r.bank == some i).length } })
      clusters := s.clusters.map fun p => (p.1, p.2.afterKill c mine)
      links := { s.links with
        windows := s.links.windows.map fun p => if p.2.ctx == c then (p.1, { p.2 with closing := true }) else p }
      mem := { s.mem with enrols := s.mem.enrols.filter fun e => e.ctx != c }
      xl := { s.xl with
        walks := s.xl.walks.filter fun k => k.ctx != c
        faults := s.xl.faults.filter fun k => k.ctx != c }
      phasers := s.phasers.filter fun p => p.2.owner != c
      stoker := s.stoker.dropCtx c }

/-! ### Asynchronous traps (R285) -/

/-- The block's lowest-numbered live warp (R285). -/
def Blk.lowestWarp (b : Blk) : Option Nat :=
  (b.thrs.find? fun p => decide (p.1 < 32) && !p.2.exited).map (·.1)

/-- A pending asynchronous trap added to a warp: at most four, a fifth dropped and counted (R285). -/
def Thr.addAsync (t : Thr) (a : ATrap) : Thr :=
  if t.asyncQ.length < 4 then { t with asyncQ := t.asyncQ ++ [a] } else { t with lost := t.lost + 1 }

/-- The trap registers hold at most six bits of a count (R280). -/
def sat6 (n : Nat) : BitVec 6 := BitVec.ofNat 6 (min n 63)

/-- Causes that never fail the node when no warp is left to take them (R285). -/
def Cause.harmless : Cause → Bool
  | .watchpoint | .tagMismatch | .recordOverflow => true
  | _ => false

/-- Home address of the image of a block context (R287). -/
def imageBase (core bctx : Nat) : Nat := 3 * (core / 48) * stackBytes + 4000000000 + (16 * (core % 48) + bctx) * 4194304

/-- A pending asynchronous trap in an image (R290). -/
def ATrap.bytes (a : ATrap) : List Byte :=
  dwordBytes [at64 0 a.cause.code ||| at64 6 a.origin.toNat ||| at64 8 a.more.toNat ||| at64 14 1, a.pc, a.addr,
    at64 0 a.lseq.toNat ||| at64 32 a.issuer.toNat]

/-- The pending asynchronous traps of a warp in its image (R290). -/
def Thr.asyncBytes (t : Thr) : List Byte := ((t.asyncQ.map ATrap.bytes).flatten ++ List.replicate 128 0).take 128

/-- Whether a block's image stands for its registers. -/
def Blk.parkedNow (b : Blk) : Bool := b.stat == .parked || b.stat == .restorable

/-- A trap added to a warp, in the image too where its block is parked. -/
def State.addAsync (s : State) (core bctx w : Nat) (a : ATrap) : State :=
  let s1 := s.modThr core bctx w fun t => t.addAsync a
  match s1.blk? core bctx with
  | none => s1
  | some b => match b.thr? w with
    | none => s1
    | some t => if b.parkedNow then s1.put (imageBase core bctx + 0x100 + 0x800 * w + 0x780) t.asyncBytes else s1

/-- An asynchronous trap delivered to warp `w` of a block when it is live, else to the block's lowest-numbered live
warp; with no live warp it is a notice and the node fails (R285, R103). -/
def State.asyncTrap (s : State) (core bctx w : Nat) (a : ATrap) : State :=
  match s.blk? core bctx with
  | none => s
  | some b =>
    let live := match b.thr? w with
      | some t => decide (w < 32) && !t.exited
      | none => false
    match if live then some w else b.lowestWarp with
    | some v => s.addAsync core bctx v a
    | none =>
      let s1 := s.notice b.info.ctx a.cause a.addr a.pc a.lseq core
      if a.cause.harmless || b.failed.isSome then s1
      else s1.modBlk core bctx fun b => { b with failed := some a.cause }

/-- The asynchronous trap of a party's noted tag mismatches (R212). -/
def tagTrap (w : Nat) (lseq : Word) (r : DWord × DWord × Nat) : ATrap :=
  { cause := .tagMismatch, origin := if w < 32 then 0 else if w = 32 then 2 else 3, more := sat6 r.2.2, serviced := false, pc := r.1,
    addr := r.2.1, lseq := lseq, issuer := BitVec.ofNat 6 w }

/-- A party's noted tag mismatches become a pending trap: before its next clause, as it exits, and before its block parks (R212, R285). -/
def State.flushTag (s : State) (core bctx w : Nat) : State :=
  match s.thr? core bctx w with
  | none => s
  | some t => match t.tagRec with
    | none => s
    | some r => (s.modThr core bctx w fun t => { t with tagRec := none }).asyncTrap core bctx w (tagTrap w t.lseq r)

/-! ### Taking a trap (R277 to R282) -/

/-- What a trap reports beside its cause: lanes that trap, lanes with the reported cause, address, the address of the
word after the instruction, and the floating exceptions. -/
structure TrapInfo where
  cause : Cause
  lanes : Word
  faulting : Word
  addr : DWord := 0
  npc : DWord
  flags : BitVec 5 := 0

/-- The trap registers written at trap entry (R280); only an asynchronous trap reports and clears the count of those dropped
(R285). -/
def Thr.writeTrapRegs (t : Thr) (r : TrapRec) : Thr :=
  let lost := if r.whenT = 2 then min t.lost 7 else 0
  { t with
    tcause := at64 0 r.cause.code ||| at64 6 r.whenT.toNat ||| at64 8 r.serviced.toNat ||| at64 9 r.rep.toNat
      ||| at64 16 r.flags.toNat ||| at64 21 r.origin.toNat ||| at64 23 lost ||| at64 26 r.more.toNat
    tpc := r.pc
    tnpc := r.npc
    taddr := r.addr
    tmask := at64 0 r.active.toNat ||| at64 32 r.faulting.toNat
    tword := at64 0 r.word.toNat ||| at64 32 r.ext.toNat
    tsite := at64 0 r.lseq.toNat ||| at64 32 r.issuer.toNat
    lost := if r.whenT = 2 then 0 else t.lost }

/-- The trap lanes of `m` enter handler mode (R279): the divergence block saves MR, stop and clause; PC goes to VEC
and MR to 1. -/
def Thr.enter (t : Thr) (m : Word) (r : TrapRec) (vec : DWord) : Thr :=
  { (t.writeTrapRegs r).modLanes m fun l =>
      { l with
        pc := vec, mr := 1, stat := .run, trap := .handler, savedMr := l.mr, clause := none, via := none } with
    handling := some r
    copyStall := false }

/-- The lanes that wait for trap `n` to be handled. -/
def Thr.trapLanes (t : Thr) (n : Nat) : Word := t.lanesWhere fun l => l.trap == .pending n

/-- The trap of a warp that enters the handler next, and those that go on waiting: one raised in the handler itself (R282), or the oldest
when no trap sub-warp is in the handler (R278). -/
def Thr.dueTrap (t : Thr) : Option (TrapRec × List TrapRec) :=
  match t.trapQ.find? fun r => r.inside with
  | some r => some (r, t.trapQ.filter fun q => q.n != r.n)
  | none => if t.inHandler then none else match t.trapQ with
    | [] => none
    | r :: rest => some (r, rest)

/-- The next trap sub-warp of a warp enters the handler (R278, R282); a vector of 0 kills the context with the trap's cause (R279). -/
def State.nextTrap (s : State) (core bctx w : Nat) : State :=
  match s.blk? core bctx with
  | none => s
  | some b => match b.thr? w with
    | none => s
    | some t =>
      if b.svc || b.stat != .resident then s
      else match t.dueTrap with
        | none => s
        | some (r, rest) =>
          if (s.ctx b.info.ctx).vec = 0 then s.kill b.info.ctx r.cause
          else s.setBlk core bctx (b.setThr w ({ t with trapQ := rest }.enter (t.trapLanes r.n) r (s.ctx b.info.ctx).vec))

/-- Number of the next trap of a warp. -/
def State.trapNumber (s : State) : Nat := s.nextId

/-- A fast trap of lanes of a warp, precise (`whenT` 0) or at landing (1): they leave their sub-warp and wait for the
handler, oldest first (R277, R278). -/
def State.queueTrap (s : State) (core bctx w : Nat) (r : TrapRec) : State :=
  let n := s.trapNumber
  let s1 := ({ s with nextId := s.nextId + 1 }).modThr core bctx w fun t =>
    { t.modLanes r.active fun l =>
        { l with stat := .blocked .trapTurn, trap := .pending n, savedStat := l.stat, savedClause := l.clause } with
      trapQ := t.trapQ ++ [{ r with n := n }] }
  (s1.closeChunk core 5).nextTrap core bctx w

/-- A uniform stream terminated by a fault (R285): it counts as exited, and the fault goes to the block's lowest live
warp. -/
def State.endStream (s : State) (core bctx w : Nat) (a : ATrap) : State :=
  let s1 := s.modThr core bctx w fun t =>
    { t.modLanes 0xFFFFFFFF fun l => { l with stat := .exited, clause := none } with terminated := true }
  ((s1.closeChunk core 5).asyncTrap core bctx w a).flushTag core bctx w

/-- A trap of the word in the issue latch (R277): the one operation by which a precise fast trap is taken.  In handler
mode it kills the context (R282); in a uniform stream it ends the stream (R285). -/
def State.trap (s : State) (c : Cur) (b : Blk) (t : Thr) (i : TrapInfo) : State :=
  let issuer := BitVec.ofNat 6 c.w
  if 32 ≤ c.w then
    s.endStream c.core c.bctx c.w
      { cause := i.cause, origin := if c.w = 32 then 2 else 3, more := 0, serviced := false, pc := c.pc,
        addr := i.addr, lseq := t.lseq, issuer := issuer }
  else if t.privileged c.lanes then s.kill b.info.ctx i.cause
  else
    s.queueTrap c.core c.bctx c.w
      { n := 0, cause := i.cause, whenT := 0, serviced := false, rep := BitVec.ofNat 6 c.rep, flags := i.flags,
        origin := 0, lost := 0, more := 0, pc := c.pc, npc := i.npc, addr := i.addr, active := i.lanes,
        faulting := i.faulting, word := c.word, ext := c.ext, lseq := t.lseq, issuer := issuer }

/-! ### Moving lanes (R159 to R163, R427) -/

/-- A lane moved to a clause header: held where the header is its meeting address (R162); whether a header stands there is looked at
next (R427). -/
def Lane.goto (l : Lane) (target : DWord) : Lane :=
  { l with pc := target, clause := none, via := none, stat := if target = l.mr then .held else .run, toMeet := decide (target = l.mr) }

/-- A lane moved on to a later word of its clause. -/
def Lane.onward (l : Lane) (pc : DWord) : Lane :=
  { l with pc := pc, clause := l.clause.map fun k => { k with rep := 0 } }

/-- A lane past the last word of its clause, whose end it has not taken yet. -/
def Lane.atEnd (l : Lane) : Bool := l.clause.any fun k => l.pc == k.hdrAt + BitVec.ofNat 64 (4 * (k.words.length + 1))

/-- A lane that stays for the next repetition of its word (R187). -/
def Lane.again (l : Lane) (rep : Nat) : Lane := { l with clause := l.clause.map fun k => { k with rep := rep } }

/-- A return from a trap (R281): PC goes to TNPC, MR comes back from the divergence block, and where TNPC still is what
the device wrote, the lane resumes its clause and its stop; a lane whose PC is then a clause header and its MR is held (R162, R427). -/
def Lane.return (l : Lane) (tnpc devNpc devPc : DWord) : Lane :=
  let back := { l with pc := tnpc, mr := l.savedMr, trap := .none }
  let meet : Bool := decide (tnpc = l.savedMr)
  if tnpc = devNpc then
    let cl := if tnpc = devPc then l.savedClause else l.savedClause.map fun k => { k with rep := 0 }
    let waits : Bool := match l.savedStat with
      | .blocked _ => true
      | _ => false
    let inside := match cl with
      | some k => decide (k.hdrAt.toNat < tnpc.toNat)
        && decide (tnpc.toNat < k.hdrAt.toNat + 4 * (k.words.length + 1) + if waits then 1 else 0)
      | none => false
    let held := meet && !inside
    { back with
      clause := if inside then cl else none
      stat := match l.savedStat with
        | .run => if held then LaneStat.held else .run
        | x => x
      toMeet := held && l.savedStat == .run }
  else { back with clause := none, stat := if meet then .held else .run, toMeet := meet }

end Sys2Proof.Machine
end

