-- ==== Sys2Proof/Machine/Lines.lean ====
section
/-! DEFINITION. Lines of memory at their homes (R12, R22, R38 to R53, R203, R207, R208): where a line lies, what the codes find
there, the HBM cache of the capacity tier, and the partials of commutative lines with their gathers. -/

namespace Sys2Proof.Machine

/-! ### Errors (R38, R39, R41, R45, R50) -/

/-- A fatal reset raised by a cause of tier X (R28, R274): it is the next step. -/
def State.machineCheck (s : State) : State :=
  { s with inputs := s.inputs ++ [(.fatalReset, { v := BitVec.ofNat 64 Cause.machineCheck.code })] }

/-- The kind of owner whose pending tests are counted together (R50): controllers, clusters with their cores, ports, boundaries. -/
def testOwner (unit : BitVec 4) : Nat := if unit = 2 then 1 else unit.toNat

/-- A targeted test scheduled for a resource (R50): merged into a pending one, dropped when its controller, cluster or port
has 64. -/
def State.scheduleTest (s : State) (unit : BitVec 4) (loc : Word) (addr : Nat) (owner : PendingTest → Bool) : State :=
  if s.mem.tests.any fun t => t.unit == unit && t.loc == loc then s
  else if 64 ≤ (s.mem.tests.filter fun t => testOwner t.unit == testOwner unit && owner t).length then
    s.errRecord 15 0 unit.toNat addr loc 0 0
  else
    { s with mem := { s.mem with tests := s.mem.tests ++ [{ unit := unit, loc := loc, addr := BitVec.ofNat 64 addr }] } }

/-- A row test scheduled for the row of an HBM line. -/
def State.testRow (s : State) (line : Nat) : State :=
  s.scheduleTest 0 (hbmWhere line) (line * 128) fun t => (fld t.loc 0 4).toNat == lineStack line

/-- A poison-table entry made for a capacity line (R45); a full table raises MACHINE_CHECK. -/
def State.poisonTable (s : State) (line : Nat) : State :=
  if s.mem.poisonTab.contains line then s
  else if 512 ≤ (s.mem.poisonTab.filter fun l => lineStack l == lineStack line).length then
    (s.errRecord 11 0 0 (line * 128) (hbmWhere line) 0 0).machineCheck
  else { s with mem := { s.mem with poisonTab := line :: s.mem.poisonTab } }

/-- A lane of a boundary that the codes of what crosses it found failing: a record and a test (R50, R53). -/
def State.laneError (s : State) (boundary lane : Nat) : State :=
  let loc : Word := BitVec.ofNat 32 (boundary % 64 + lane % 8 * 64)
  (s.errRecord 14 0 4 0 loc 0 0).scheduleTest 4 loc 0 fun t => (fld t.loc 0 6).toNat == boundary % 64

/-- WHERE of a resource of a core (R53); the bank and word are not given by the spec. -/
def State.coreWhere (s : State) (core : Nat) : Word :=
  BitVec.ofNat 32 (core / 8 + core % 8 * 32) ||| (Config.freeWord s.fresh 0 core <<< 8)

/-- A test of a core's pool or front end scheduled (R50, R283). -/
def State.testCore (s : State) (core : Nat) : State :=
  (s.scheduleTest 2 (s.coreWhere core) 0 fun t => (fld t.loc 0 5).toNat == core / 8).bump

/-- What the codes of a core's pool find: a record, corrected or not, and a test (R50, R53). -/
def State.poolEcc (s : State) (core : Nat) (lost : Bool) : State :=
  (s.errRecord (if lost then 13 else 12) 0 2 0 (s.coreWhere core) ((Config.freeWord s.fresh 1 core).toNat % 65536) 0).testCore core

/-- The four alias lines of a capacity line's set that are mapped (R41, R47). -/
def State.aliasLines (s : State) (line : Nat) : List Nat :=
  let j := capLine line % cacheSets
  ((List.range 4).map fun k => j + k * cacheSets).filterMap fun c =>
    if c * 128 < s.mappedCap then some (capBase / 128 + c) else none

/-- What the codes find when a home reads a line (R39, R41): records, poison and tests.  SYNDROME of a code error is
not given by the spec and is free. -/
def State.eccAt (s : State) (line : Nat) (o : EccOutcome) : State :=
  let syn := (Config.freeWord s.fresh 0 0).toNat % 65536
  let rec' (s : State) (type : Nat) : State := (s.errRecord type 0 0 (line * 128) (hbmWhere line) syn 0).bump
  match o with
  | .clean => s
  | .corrected => (rec' s 1).testRow line
  | .uncorrectable => ((rec' s 2).poisonLine line).testRow line
  | .metaCorrected => (rec' s 3).testRow line
  | .metaUncorrectable =>
    if lineIsCap line then
      let s1 := { s with mem := { s.mem with sets := ndel (capLine line % cacheSets) s.mem.sets } }
      let s2 := (s.aliasLines line).foldl (fun t l => t.poisonTable l) s1
      ((rec' s2 4).errRecord 7 0 0 (line * 128) (hbmWhere line) 0 0).testRow line
    else ((rec' s 4).poisonLine line).testRow line

/-! ### Homes and slots (R12, R203, R57) -/

/-- The slice that homes a line (R12, R203, R379): its half is the line's parity, in Kindling mode half 0 (R30), and a hash
chooses among the half's twelve. -/
def State.slice (s : State) (line : Nat) : Nat :=
  (if s.kindling then 0 else line % 2 * 12) + Config.sliceOf s.dev.boots line % 12

/-- The island of a compute die's L2 (R56). -/
def l2Island (die : Nat) : Nat := 300 * die + 299

/-- The island of a slice (R56). -/
def sliceIsland (k : Nat) : Nat := 1200 + 40 * (k / 12) + 15 + k % 12

/-- Whether the home of a line serves no traffic of a die now (R12, R48, R57): a slot holds the L2 of a compute die, the line's slice, the
stack it lies on or is cached on, its expander's port, or the way to one of them; or the capacity tier is changing mode. -/
def State.lineHeld (s : State) (die line : Nat) : Bool :=
  let cap := lineIsCap line
  let port := (s.capPlace (line * 128 - capBase)).1
  s.islandDown (sliceIsland (s.slice line)) || (decide (die < 4) && s.islandDown (l2Island die))
    || ((!cap || s.mem.cacheOn) && (s.stackDown (lineStack line) || s.routeHeld die (stackDie (lineStack line)) line))
    || (cap && (s.mem.cacheBusy || s.linkDown (24 + port) || s.routeHeld die (hearthDie (port / 2)) line))

/-! ### The HBM cache of the capacity tier (R47) -/

/-- The metadata of a capacity line's set. -/
def State.setMeta (s : State) (line : Nat) : SetMeta :=
  ngetD s.mem.sets (capLine line % cacheSets) { valid := false, dirty := false, aliasIx := 0 }

/-- Whether the HBM cache holds a capacity line (R47). -/
def State.cacheHit (s : State) (line : Nat) : Bool :=
  let m := s.setMeta line
  m.valid && m.aliasIx == BitVec.ofNat 2 (capLine line / cacheSets)

/-- A set that holds a line, dirty after a write (R47). -/
def State.fillSet (s : State) (line : Nat) (write : Bool) : State :=
  let m := s.setMeta line
  { s with mem := { s.mem with
      sets := nput (capLine line % cacheSets)
        { valid := true, dirty := write || (s.cacheHit line && m.dirty), aliasIx := BitVec.ofNat 2 (capLine line / cacheSets) }
        s.mem.sets } }

/-- The capacity line a set holds. -/
def State.heldLine (s : State) (line : Nat) : Nat :=
  capBase / 128 + capLine line % cacheSets + (s.setMeta line).aliasIx.toNat * cacheSets

/-- A line sent to its expander. -/
def State.capSend (s : State) (line tag : Nat) : State :=
  let (p, off) := s.capPlace (line * 128 - capBase)
  s.emit (.capWrite p off tag (s.poisoned line) (s.peek (line * 128) 128))

/-- Whether a miss of a capacity line writes back the set's line (R47). -/
def State.evicts (s : State) (line : Nat) : Bool :=
  s.mem.cacheOn && (s.setMeta line).valid && (s.setMeta line).dirty && !s.cacheHit line

/-- What the codes find as a set that does not hold a line is looked up (R39, R41): its metadata is read, and its data where
they are written back. -/
def State.eccMiss (s : State) (line : Nat) (o : EccOutcome) : State :=
  match o with
  | .metaCorrected => s.eccAt line o
  | .corrected | .uncorrectable => if s.evicts line then s.eccAt (s.heldLine line) o else s
  | .clean | .metaUncorrectable => s

/-- A poisoned write-back that the expander refused leaves a poison-table entry (R43). -/
def State.evictRefused (s : State) (line : Nat) (refused : Bool) : State :=
  if refused && s.evicts line && s.poisoned (s.heldLine line) then s.poisonTable (s.heldLine line) else s

/-- A capacity line brought in for an access that waits for its expander: the write-back of the set's dirty line, then the read
of the line (R22, R47). -/
def State.capFetch (s : State) (line tag : Nat) : State :=
  let s1 := if s.evicts line then s.capSend (s.heldLine line) tag else s
  let (p, off) := s1.capPlace (line * 128 - capBase)
  s1.emit (.capRead p off tag)

/-- What the codes find as an access reaches a line's home (R39, R41): in HBM or a set that holds the line they cover it, and a set
that holds another line is looked up. -/
def State.homeEcc (s : State) (line : Nat) (o : EccOutcome) : State :=
  if !lineIsCap line then s.eccAt line o
  else if !s.mem.cacheOn then s
  else if o = .metaUncorrectable || s.cacheHit line then s.eccAt line o
  else s.eccMiss line o

/-- Whether an access asks the expander of a line (R22, R47): a miss in cache mode, and what reads in direct mode. -/
def State.asksCap (s : State) (line : Nat) (reads : Bool) : Bool :=
  lineIsCap line && (if s.mem.cacheOn then !s.cacheHit line else reads)

/-- A capacity line accessed by the host or an engine (R22, R47): in cache mode a hit touches the set alone and a miss writes back
and fills; otherwise what reads asks the expander.  What a write leaves is sent with `capSend`. -/
def State.capAccess (s : State) (line tag : Nat) (reads writes refused : Bool) : State :=
  if s.mem.cacheOn then
    (if s.cacheHit line then s else (s.capFetch line tag).evictRefused line refused).fillSet line writes
  else if reads then s.capFetch line tag
  else s

/-- The same at the first access of a line, whose set's metadata are sound; other lines need nothing. -/
def State.capTouch (s : State) (line tag : Nat) (reads writes refused : Bool) (o : EccOutcome) : State :=
  if lineIsCap line && o != .metaUncorrectable then s.capAccess line tag reads writes refused else s

/-! ### Commutative lines (R207 to R209) -/

/-- A gather of a line's partials into its home (R208). -/
def State.gather (s : State) (line : Nat) : State :=
  if (s.partialsOf line).isEmpty then s
  else
    let t := s.fold line
    if s.poisoned line then t.partialRecord line else t

/-- A lane's contribution added to its cluster's partial of a line (R207); the core's count of lines follows (R209). -/
def State.contribute (s : State) (cluster core line : Nat) (fmt : BitVec 2) (off : Nat) (v : DWord) : State :=
  let old := (s.mem.partials.find? fun p => p.line == line && p.cluster == cluster).getD (Partial.fresh cluster line fmt)
  let i := off / commSize fmt
  let p : Partial := { old with
    elems := lmod i (fun x => commAdd fmt x v) old.elems
    cores := if old.cores.contains core then old.cores else core :: old.cores }
  { s with mem := { s.mem with
      partials := (s.mem.partials.filter fun q => !(q.line == line && q.cluster == cluster)) ++ [p] } }

/-! ### Caches and their directories (R203, R204, R206) -/

/-- A cluster's bank by number. -/
def bankKey (cluster bank : Nat) : Nat := cluster * 32 + bank

/-- A bank's state (R192). -/
def State.bank (s : State) (k : Nat) : Bank := ngetD s.clusters k Bank.reset

/-- The holder that a die's L2 is among the cache lines. -/
def l2Holder (die : Nat) : Nat := 24 + die

/-- The die of a holder: a cluster cache, a die L2 or an instruction cache. -/
def holderDie (h : Nat) : Nat := if h < 24 then h / 6 else if h < 28 then h - 24 else coreDie (h - 32)

/-- The set of a line in a cluster cache or a die L2 (R203): sixteen slices of 3,072 sets make an L2 of 96 MiB. -/
def State.setOf (s : State) (holder line : Nat) : Nat :=
  if holder < 24 then line % 8192 else Config.l2Place s.dev.boots line % 49152

/-- The ways of a cluster's cache, its banks in cache mode, and of a die L2 (R203). -/
def State.cacheWays (s : State) (holder : Nat) : List Nat :=
  if holder < 24 then (List.range 32).filter fun k => (s.bank (bankKey holder k)).mode == .cache else List.range 16

/-- The lines a cache holds in the set of a line. -/
def State.cacheSet (s : State) (holder line : Nat) : List CacheLine :=
  s.mem.cache.filter fun k => k.holder == holder && s.setOf holder k.line == s.setOf holder line

/-- The victim of a full set: the lowest way with RRPV 3, every line aged until there is one (R206). -/
def ageSet (set : List CacheLine) : Nat → List CacheLine × Option Nat
  | 0 => (set, (set.head?).map fun k => k.way)
  | n + 1 =>
    match (set.filter fun k => k.rrpv == 3).map fun k => k.way with
    | w :: ws => (set, some (ws.foldl min w))
    | [] => ageSet (set.map fun k => { k with rrpv := k.rrpv + 1 }) n

/-- The number under which the caches hold a line of host memory: apart from the lines of the device, and in the set of its low bits
(R203). -/
def hostKey (link line : Nat) : Nat := 2 ^ 60 * (link + 1) + line

/-- The host line that a number among the cache lines stands for. -/
def hostOf (key : Nat) : Option (Nat × Nat) := if key < 2 ^ 60 then none else some (key / 2 ^ 60 - 1, key % 2 ^ 60)

/-- Whether some cache holds a line modified or owned (R204). -/
def State.heldDirty (s : State) (line : Nat) : Bool := s.mem.cache.any fun k => k.line == line && (k.st == Coh.m || k.st == Coh.o)

/-- Key of a host line held by the device: link and line. -/
def hostLine (link line : Nat) : Nat := line * 2 + link

/-- A host line that the device gives up: a modified one is written back over its link (R91, R204). -/
def State.hostGone (s : State) (link line : Nat) (dirty : Bool) : State :=
  let d := ngetD s.mem.hostDirty (hostLine link line) []
  let t := if dirty && !d.isEmpty then s.emit (.hostWrite link (line * 128) false d) else s
  ({ t with mem := { t.mem with hostDirty := ndel (hostLine link line) t.mem.hostDirty } } : State).dropHolders (hostKey link line)
    fun _ => false

/-- The copies of a line that the caches of a die hold recalled, its L2's among them, as the L2's directory gives the line up (R203); a
host line that no cache holds any more goes back to the host. -/
def State.recall (s : State) (die line : Nat) : State :=
  let t := s.setCache (s.mem.cache.filter fun k => !(k.line == line && holderDie k.holder == die))
  match hostOf line with
  | some (link, n) => if t.mem.cache.any fun k => k.line == line then t else t.hostGone link n (s.heldDirty line)
  | none => t

/-- A line brought into a cluster cache or a die L2, or hit there, in a coherence state (R204, R206).  A line that an L2 evicts is
recalled from the caches below it. -/
def State.cacheTouch (s : State) (holder line : Nat) (reuse : BitVec 2) (st : Coh) : State :=
  let set := s.cacheSet holder line
  let new (w : Nat) : CacheLine := { holder := holder, line := line, way := w, st := st, rrpv := reuse }
  if set.any fun k => k.line == line then
    s.setCache (s.mem.cache.map fun k =>
      if k.holder = holder ∧ k.line = line then
        { k with st := st, rrpv := if k.rrpv.toNat ≤ reuse.toNat then k.rrpv else reuse } else k)
  else
    match (s.cacheWays holder).filter fun w => !(set.any fun k => k.way == w) with
    | w :: _ => s.setCache (new w :: s.mem.cache)
    | [] => match ageSet set 4 with
      | (_, none) => s
      | (aged, some v) =>
        let others := s.mem.cache.filter fun k => !set.contains k
        let t := s.setCache (aged ++ others)
        let u := match aged.find? fun k => k.way == v with
          | some k => if holder < 24 then t.setCache (t.mem.cache.filter (· != k)) else t.recall (holder - 24) k.line
          | none => t
        u.setCache (new v :: u.mem.cache)

/-- A line read elsewhere: a modified holder is downgraded to O, an exclusive one to S (R204). -/
def State.shareLine (s : State) (line : Nat) (mine : Nat → Bool) : State :=
  s.setCache (s.mem.cache.map fun k =>
    if k.line = line ∧ !mine k.holder then
      { k with st := match k.st with
          | .m => .o
          | .e => .s
          | x => x } else k)

/-- The state in which a cache holds a line it reads: its own, or E where no cache of its level has the line, and S otherwise. -/
def State.readState (s : State) (holder line : Nat) : Coh :=
  match s.mem.cache.find? fun k => k.holder == holder && k.line == line with
  | some k => k.st
  | none =>
    let peer (k : CacheLine) : Bool := k.line == line && (decide (k.holder < 24) == decide (holder < 24)) && decide (k.holder < 28)
    let code (k : CacheLine) : Bool := k.line == line && decide (32 ≤ k.holder)
    if s.mem.cache.any fun k => peer k || code k then .s else .e

/-- A line read by a cluster (R203, R204): it comes into the L2 of the cluster's die and the cluster's cache. -/
def State.cacheRead (s : State) (cluster line : Nat) (reuse : BitVec 2) : State :=
  let l2 := l2Holder (cluster / 6)
  let s1 := s.shareLine line fun h => h == cluster || h == l2
  (s1.cacheTouch l2 line reuse (s1.readState l2 line)).cacheTouch cluster line reuse (s1.readState cluster line)

/-- A line written by a cluster (R204): every other holder is invalidated first. -/
def State.cacheWrite (s : State) (cluster line : Nat) (reuse : BitVec 2) : State :=
  let l2 := l2Holder (cluster / 6)
  let s1 := s.dropHolders line fun h => h == cluster || h == l2
  (s1.cacheTouch l2 line reuse .m).cacheTouch cluster line reuse .m

end Sys2Proof.Machine
end

