-- ==== Sys2Proof/Machine/Translate.lean ====
section
/-! DEFINITION. Virtual addresses, page walks, the checks of R81, fault records and invalidations (R78 to R88). -/

namespace Sys2Proof.Machine

/-! ### Virtual addresses (R78, R189) -/

/-- The pointer tag of an address (R78). -/
def ptrTag (va : DWord) : BitVec 4 := fld va 56 4

/-- Whether bits [62:60] equal bit 63 (R78). -/
def canonicalVa (va : DWord) : Bool := fld va 60 3 == (if va.getLsbD 63 then 7 else 0)

/-- The address without its pointer tag: VA[63], VA[55:0] (R78). -/
def untag (va : DWord) : Nat := (fld va 63 1 ++ fld va 0 56 : BitVec 57).toNat

/-- The 4 KiB virtual page of an address (R82). -/
def pageOf (va : DWord) : Nat := untag va / 4096

/-- Whether an address is a window address (R189). -/
def isWindow (va : DWord) : Bool := fld va 60 4 == 0xF && fld va 52 4 == 0xF

/-! ### Page-table entries (R80) -/

/-- A leaf as an entry gives it, for the 4 KiB page at offset `off` pages of the leaf. -/
def leafOf (e : DWord) (off : Nat) : Leaf :=
  let peer := e.getLsbD 14
  { pa := (if peer then 0 else (fld e 16 40).toNat * 4096) + off * 4096
    r := e.getLsbD 2
    w := e.getLsbD 3
    x := e.getLsbD 4
    pub := e.getLsbD 5
    tagm := fld e 6 2
    comm := fld e 8 2
    priv := e.getLsbD 11
    host := e.getLsbD 12
    uc := e.getLsbD 13 || peer
    peer := if peer then some (fld e 16 16) else none }

/-- Pages of 4 KiB a leaf at a level maps; level 1 maps 16 when CONTIG is set (R79, R80). -/
def leafPages (level : Nat) (e : DWord) : Nat :=
  match level with
  | 1 => if e.getLsbD 10 then 16 else 1
  | 2 => 512
  | _ => 262144

/-- Whether a leaf at a level is malformed (R80). -/
def leafMalformed (level : Nat) (e : DWord) : Bool :=
  let peer := e.getLsbD 14
  decide (level > 3) || e.getLsbD 15 || fld e 56 8 != 0 || fld e 6 2 == 3 || (fld e 8 2 != 0 && e.getLsbD 4)
    || (e.getLsbD 10 && decide (level > 1))
    || (if peer then
          e.getLsbD 12 || e.getLsbD 4 || fld e 8 2 != 0 || fld e 6 2 != 0 || fld e 32 24 != 0
        else (fld e 16 40).toNat % leafPages level e != 0)

/-- How a walk that does not reach a leaf ends: MALF and WPOIS of the fault record (R79, R83). -/
structure WalkMiss where
  malf : Bool
  wpois : Bool

/-- How a walk ends: at a leaf, at a table read that gives none, or not yet, since a table's home serves nothing now. -/
inductive WalkEnd where
  | leaf (l : Leaf)
  | miss (m : WalkMiss)
  | wait

/-- A coherent read of 8 bytes of a table at a home address (R79, R208), with what the codes find in its line (R39). -/
def State.tableRead (s : State) (a : Nat) (o : EccOutcome) : State × DWord :=
  let t := ((s.homeEcc (lineOf a) o).capTouch (lineOf a) 0 true false false o).gather (lineOf a)
  (t, BitVec.ofNat 64 (leNat (t.peek a 8)))

/-- One table of a page walk (R79): its end, or the table of the next level.  The walker is a compute die's, the index of level n is
VA[12 + 9(n-1) ..], level 5 taking VA[63] with VA[55:48], and the codes find `s.arg.ecc` in the table line of level `struck`, which with
`s.arg.flag` its expander does not give: WPOIS says that it answered with poison (R22; log entry 47).
DESIGN CHOICE: where the 16 entries of a CONTIG page disagree, each access takes the entry its own page indexes, as R80 allows
(log entry 41). -/
def State.walkLevel (s : State) (die struck : Nat) (va : DWord) (level table : Nat) : State × (WalkEnd ⊕ Nat) :=
  match s.homeOf (table + 8 * (untag va / 2 ^ (3 + 9 * level) % 512)) with
  | .error _ => (s, .inl (.miss { malf := true, wpois := false }))
  | .ok a =>
    if s.lineHeld die (lineOf a) then (s, .inl .wait)
    else
      let lost := struck == level && s.arg.flag && s.asksCap (lineOf a) true
      let (t, e) := s.tableRead a (if struck = level then s.arg.ecc else .clean)
      (t,
        if lost then .inl (.miss { malf := false, wpois := s.arg.reply == .poison })
        else if t.poisoned (lineOf a) then .inl (.miss { malf := false, wpois := true })
        else if !e.getLsbD 0 then .inl (.miss { malf := false, wpois := false })
        else if e.getLsbD 1 then
          (if leafMalformed level e then .inl (.miss { malf := true, wpois := false })
          else .inl (.leaf (leafOf e (pageOf va % leafPages level e))))
        else if level = 1 then .inl (.miss { malf := true, wpois := false })
        else .inr ((fld e 16 40).toNat * 4096))

/-- The page walk from a table at level `level` (R79). -/
def walkFrom (die struck : Nat) (va : DWord) : Nat → State → Nat → State × WalkEnd
  | 0, s, _ => (s, .miss { malf := true, wpois := false })
  | level + 1, s, table => match s.walkLevel die struck va (level + 1) table with
    | (t, .inl e) => (t, e)
    | (t, .inr n) => walkFrom die struck va level t n

/-- The walk of a context's address (R79). -/
def walk (s : State) (die struck c : Nat) (va : DWord) : State × WalkEnd :=
  walkFrom die struck va 5 s (s.ctx c).root.toNat

/-! ### Looking a page up -/

/-- What the TLBs say of a page (R82): a leaf, a fault record without an answer to join, or nothing yet. -/
inductive Lookup where
  | hit (l : Leaf)
  | faulted
  | absent

/-- Who looks a page up (R82, R87): its TLB, its context, and whether its code is privileged.  TLB 0 to 191 is a core's L0 TLB,
256 + n that of cluster n, which its engine also uses.  DESIGN CHOICE: the spec names no TLB for the Stoker, the control cores,
the ports and the collective engines; they use one more, number 512, and the walker of compute die 0 (log entry 44). -/
structure Mmu where
  tlb : Nat
  ctx : Nat
  priv : Bool

/-- The translation of a party's word: its core's. -/
def Cur.mmu (c : Cur) (b : Blk) (priv : Bool) : Mmu := { tlb := c.core, ctx := b.info.ctx, priv := priv }
/-- The translation of a cluster's engine. -/
def engMmu (core ctx : Nat) (priv : Bool) : Mmu := { tlb := 256 + core / 8, ctx := ctx, priv := priv }
/-- The translation of an agent outside the clusters. -/
def packageMmu (ctx : Nat) : Mmu := { tlb := 512, ctx := ctx, priv := false }

/-- The TLB behind a TLB: a core's cluster TLB behind its L0, otherwise itself (R82). -/
def tlbBehind (n : Nat) : Nat := if n < 192 then 256 + n / 8 else n
/-- The entries a TLB holds (R82). -/
def tlbSize (n : Nat) : Nat := if n < 192 then 64 else 2048
/-- The compute die whose walker serves a TLB's misses (R82). -/
def tlbDie (n : Nat) : Nat := if n < 192 then n / 48 else if n < 280 then (n - 256) / 6 else 0

/-- Whether the context's lower half is translated by the host (R87). -/
def State.viaAts (s : State) (c : Nat) (va : DWord) : Bool := (s.ctx c).svm && !va.getLsbD 63

/-- Whether an entry answers for an address: one the host granted answers only what asks with its Privileged Mode bit (R87). -/
def TlbEntry.answers (e : TlbEntry) (m : Mmu) (va : DWord) : Bool :=
  e.ctx == m.ctx && e.page == pageOf va && (e.ats.isNone || e.ats == some m.priv)

/-- The TLBs' answer for an address of a context: the L0 TLB's entry, else the one behind it.  DESIGN CHOICE: between a change of a
page-table entry and its invalidation, when an access may use either (R84), it uses the entry cached where there is one (log
entry 41). -/
def State.lookup (s : State) (m : Mmu) (va : DWord) : Lookup :=
  let at' (n : Nat) : Option TlbEntry := s.xl.tlb.find? fun e => e.tlb == n && e.answers m va
  match (at' m.tlb).or (at' (tlbBehind m.tlb)) with
  | some e => .hit e.leaf
  | none => if s.xl.faults.any fun f => f.ctx == m.ctx && f.page == pageOf va then .faulted else .absent

/-- An entry put into its TLB, which holds only so many (R82).  DESIGN CHOICE: the entry cached longest ago makes room (log
entry 44). -/
def tlbPut (e : TlbEntry) (l : List TlbEntry) : List TlbEntry :=
  let others := l.filter fun x => !(x.tlb == e.tlb && x.ctx == e.ctx && x.page == e.page && x.ats == e.ats)
  let mine := others.filter fun x => x.tlb == e.tlb
  e :: (if mine.length < tlbSize e.tlb then others else match mine.getLast? with
    | some old => others.erase old
    | none => others)

/-- A translation cached for some TLBs, and in the TLBs behind them (R82). -/
def State.fillTlb (s : State) (tlbs : List Nat) (c page : Nat) (ats : Option Bool) (l : Leaf) : State :=
  { s with xl := { s.xl with
      tlb := ((tlbs ++ tlbs.map tlbBehind).eraseDups).foldl
        (fun t n => tlbPut { tlb := n, ctx := c, page := page, ats := ats, leaf := l } t) s.xl.tlb } }

/-- An entry of the cluster TLB that answered a core taken into the core's L0 TLB (R82). -/
def State.touchTlb (s : State) (m : Mmu) (va : DWord) : State :=
  if s.xl.tlb.any fun e => e.tlb == m.tlb && e.answers m va then s
  else match s.xl.tlb.find? fun e => e.tlb == tlbBehind m.tlb && e.answers m va with
    | some e => { s with xl := { s.xl with tlb := tlbPut { e with tlb := m.tlb } s.xl.tlb } }
    | none => s

/-- The ATS request of a walk, under the context's PASID on its link (R87). -/
def Walk.request (k : Walk) (s : State) : Out :=
  .atsRequest (s.ctx k.ctx).link.toNat (s.ctx k.ctx).pasid k.page k.id k.priv

/-- A walk started for a page that is not cached.  A miss on a page that the die is walking joins that walk, and while all 256
walks of the die are busy a new miss waits (R82).  Under SVM it is an ATS request (R87). -/
def State.startWalk (s : State) (m : Mmu) (va : DWord) (kind : AccessKind) (site : FaultSite) : State :=
  let die := tlbDie m.tlb
  let ats := s.viaAts m.ctx va
  let same (k : Walk) : Bool :=
    k.die == die && k.ctx == m.ctx && k.page == pageOf va && k.ats == ats && (!ats || k.priv == m.priv)
  if s.xl.walks.any same then
    { s with xl := { s.xl with
        walks := s.xl.walks.map fun k => if same k && !k.tlbs.contains m.tlb then { k with tlbs := k.tlbs ++ [m.tlb] } else k } }
  else if 256 ≤ (s.xl.walks.filter fun k => k.die == die).length then s
  else
    let k : Walk :=
      { id := s.xl.nextId, die := die, tlbs := [m.tlb], ctx := m.ctx, page := pageOf va, va := va, kind := kind, site := site,
        priv := m.priv, ats := ats, pri := false, denied := false }
    let s1 := { s with xl := { s.xl with nextId := s.xl.nextId + 1, walks := s.xl.walks ++ [k] } }
    if ats then s1.emit (k.request s) else s1

/-- The leaf of an address without any effect: as cached, or as a walk of the device's tables would find it. -/
def State.quietLeaf (s : State) (m : Mmu) (va : DWord) : Option Leaf :=
  match s.lookup m va with
  | .hit l => some l
  | .faulted => none
  | .absent =>
    if s.viaAts m.ctx va then none
    else match (walk s (tlbDie m.tlb) 0 m.ctx va).2 with
      | .leaf l => some l
      | _ => none

/-! ### The checks of R81 -/

/-- What an access does, as R81 distinguishes it. -/
inductive AccKind where
  | read
  | write
  | rmw
  | fetch
  deriving DecidableEq, Repr

/-- The kind an access has in a fault record (R83). -/
def AccKind.record : AccKind → AccessKind
  | .read => .read
  | .write => .write
  | .rmw => .atomic
  | .fetch => .fetch

/-- The protection fault of an access kind (R81). -/
def AccKind.fault : AccKind → Cause
  | .read => .protectionRead
  | .write => .protectionWrite
  | .rmw => .protectionWrite
  | .fetch => .protectionExec

/-- The rows of R81 after translation, first failing row first. -/
def Leaf.check (l : Leaf) (k : AccKind) (priv : Bool) : Option Cause :=
  if l.priv && !priv then some k.fault
  else if l.w && l.x && !l.pub then some k.fault
  else match k with
    | .read => if l.r then none else some .protectionRead
    | .write => if l.w then none else some .protectionWrite
    | .rmw => if !l.r then some .protectionRead else if !l.w then some .protectionWrite else none
    | .fetch => if !l.x || l.host then some .protectionExec else none

/-- The device physical or host bus address of a virtual address under its leaf. -/
def Leaf.addr (l : Leaf) (va : DWord) : Nat := l.pa + untag va % 4096

/-! ### Fault records (R82, R83) -/

/-- A fault joined: a page without an unanswered record gets one, written at once where the ring has room and held
otherwise (R83). -/
def State.joinFault (s : State) (c page : Nat) (va : DWord) (kind : AccessKind) (site : FaultSite)
    (malf hostpg wpois : Bool) : State :=
  if s.xl.faults.any fun f => f.ctx == c && f.page == page then s
  else
    let x := s.ctx c
    let room := !x.ringFull
    let f : PageFault :=
      { ctx := c, page := page, fseq := x.fseq, written := room, malf := malf, hostpg := hostpg, wpois := wpois,
        va := va, kind := kind, site := site }
    let s1 := { s with xl := { s.xl with faults := s.xl.faults ++ [f] } }
    let s2 := s1.modCtx c fun y => { y with fseq := y.fseq + 1 }
    if room then s2.faultRing c .translationMiss malf hostpg wpois kind f.fseq va site else s2

/-- The oldest held record of a context written, if the ring has room (R83). -/
def State.flushOne (s : State) (c : Nat) : State :=
  if (s.ctx c).ringFull then s
  else
    let f := s.xl.faults.find? fun f => f.ctx == c && !f.written
    let n := s.xl.notices.find? fun n => n.ctx == c
    let putF (g : PageFault) : State :=
      let t := s.faultRing c .translationMiss g.malf g.hostpg g.wpois g.kind g.fseq g.va g.site
      { t with xl := { t.xl with faults := t.xl.faults.map fun h => if h = g then { h with written := true } else h } }
    let putN (g : HeldNotice) : State :=
      let t := s.faultRing c g.cause false false false .read g.fseq g.va g.site
      { t with xl := { t.xl with notices := t.xl.notices.filter (· != g) } }
    match f, n with
    | some g, some h => if h.fseq - g.fseq < 0x80000000 then putF g else putN h
    | some g, none => putF g
    | none, some h => putN h
    | none, none => s

/-- Held records written while the ring has room, in the order of their numbers (R83): after software moves TAIL. -/
def State.flushFaults (s : State) (c : Nat) : State :=
  (List.range (s.xl.faults.length + s.xl.notices.length)).foldl (fun t _ => t.flushOne c) s

/-- A walk removed from the miss-status table. -/
def State.dropWalk (s : State) (id : Nat) : State :=
  { s with xl := { s.xl with walks := s.xl.walks.filter fun k => k.id != id } }

/-- A walk that found its leaf: the TLBs whose misses it serves are filled (R82). -/
def State.endWalk (s : State) (k : Walk) (l : Leaf) : State :=
  (s.dropWalk k.id).fillTlb k.tlbs k.ctx k.page (if k.ats then some k.priv else none) l

/-- A walk that finishes (R82): the TLBs are filled, or a fault record is written; it waits while a table's home serves nothing. -/
def State.finishWalk (s : State) (k : Walk) : State :=
  match walk s k.die s.arg.b k.ctx k.va with
  | (t, .leaf l) => t.endWalk k l
  | (t, .miss m) => (t.dropWalk k.id).joinFault k.ctx k.page k.va k.kind k.site m.malf false m.wpois
  | (_, .wait) => s

/-- How a page that an agent outside the clusters has not cached is found. -/
inductive PageNow where
  | leaf (s : State) (l : Leaf)
  | wait (s : State) (page : Option Nat)

/-- A page of a context walked and cached for an agent outside the clusters, within its access; a walk that finds no page writes a
fault record, for whose answer the agent waits (R82). -/
def State.walkNow (s : State) (c : Nat) (va : DWord) (kind : AccessKind) (site : FaultSite) : PageNow :=
  let m := packageMmu c
  if s.viaAts c va then .wait (s.startWalk m va kind site) none
  else match walk s (tlbDie m.tlb) 0 c va with
    | (t, .leaf l) => .leaf (t.fillTlb [m.tlb] c (pageOf va) none l) l
    | (t, .miss k) => .wait (t.joinFault c (pageOf va) va kind site k.malf false k.wpois) (some (pageOf va))
    | (_, .wait) => .wait s none

/-- A host page as ATS grants it (R87): tags off, no commutative range, never executable. -/
def atsLeaf (page : Nat) (r w : Bool) : Leaf :=
  { pa := page * 4096, r := r, w := w, x := false, pub := false, tagm := 0, comm := 0, priv := false, host := true,
    uc := false, peer := none }

/-! ### Invalidations (R84, R86) -/

/-- Every translation of some of a context's pages discarded, and its walks of those pages discarded and restarted (R86):
a walk reads its tables when it finishes, so only a request to the host is made again, whose earlier completion counts no more. -/
def State.dropTranslations (s : State) (c : Nat) (pages : Nat → Bool) : State :=
  let hit (ctx page : Nat) : Bool := ctx == c && pages page
  let again (k : Walk) : Bool := hit k.ctx k.page && k.ats && !k.pri && !k.denied
  let ws := s.xl.walks.mapIdx fun i k => if again k then { k with id := s.xl.nextId + i } else k
  { s with
    xl := { s.xl with
      tlb := s.xl.tlb.filter fun e => !hit e.ctx e.page
      nextId := s.xl.nextId + s.xl.walks.length
      walks := ws }
    outbox := s.outbox ++ (ws.filter again).map fun k => k.request s }

/-- Every translation of a context discarded, with its walks (R84). -/
def State.dropAll (s : State) (c : Nat) : State :=
  { s with xl := { s.xl with tlb := s.xl.tlb.filter (fun e => e.ctx != c), walks := s.xl.walks.filter fun k => k.ctx != c } }

/-- An invalidation begun (R86): the translations go at once; it completes when every older request and command of the
context has. -/
def State.beginInval (s : State) (c : Nat) (base : DWord) (bytes : Nat) (byCtx : Bool) (ats : Option Nat) :
    State × Nat :=
  let s1 := s.dropTranslations c fun p =>
    bytes == 0 || (decide (pageOf base ≤ p) && decide (p ≤ (untag base + bytes - 1) / 4096))
  ({ s1 with
      nextId := s1.nextId + 1
      xl := { s1.xl with
        nextId := s1.xl.nextId + 1
        invals := s1.xl.invals ++ [{ id := s1.xl.nextId, ctx := c, base := untag base, bytes := bytes, upto := s1.nextId,
                                     byCtx := byCtx, ats := ats }] } }, s1.xl.nextId)

/-- Whether every access and segment older than an invalidation has completed (R86). -/
def State.invalDone (s : State) (k : Inval) : Bool :=
  !(s.reqs.any fun r => r.ctx == k.ctx && decide (r.id < k.upto))
    && !(s.cmds.any fun x => x.ctx == k.ctx && decide (x.id < k.upto) && x.inFlight)

end Sys2Proof.Machine
end

