-- ==== Sys2Proof/Machine/Issue.lean ====
section
/-! DEFINITION. Issue (R159 to R166, R177 to R187, R295 to R299): when a blocked lane wakes, how held lanes are released,
which sub-warp a party issues, how a clause is fetched and checked, and how lanes leave a word behind. -/

namespace Sys2Proof.Machine

/-! ### Active lanes (R160) -/

/-- The guard of a clause: GUARD and GSENSE (R295). -/
def guardOf (hdr : Word) : Nat × Bool := ((fld hdr 15 3).toNat, hdr.getLsbD 18)

/-- Whether a lane passes the clause's guard (R160). -/
def guardHolds (hdr : Word) (t : Thr) (l : Nat) : Bool := t.pred (guardOf hdr).1 l != (guardOf hdr).2

/-- The active lanes of a word with guard bit `g` (R160). -/
def activeLanes (c : Cur) (t : Thr) (g : Bool) : Word :=
  if g then maskOf fun l => c.lanes.getLsbD l && guardHolds c.hdr t l else c.lanes

/-! ### Waking (R164) -/

/-- Whether a table bank can take a new image: one that is neither filling nor bound (R359). -/
def TblBank.free (k : TblBank) : Bool := k.filling.isNone && k.bound == 0

/-- A core's state. -/
def State.coreAt (s : State) (core : Nat) : Core := ngetD s.cores core Core.reset

/-- A core's state replaced. -/
def State.setCore (s : State) (core : Nat) (k : Core) : State := { s with cores := nput core k s.cores }

/-- A tile-table entry of a block (R199): the core's entry the block's reference names. -/
def State.tileOf (s : State) (core : Nat) (b : Blk) (i : Nat) : Option Tile :=
  match b.tileRefs[i]? with
  | some j => some (ngetD (s.coreAt core).tiles j Tile.reset)
  | none => none

/-- Whether the condition a lane waits for holds (R164). -/
def wakeHolds (s : State) (core : Nat) (bctx : Nat) (b : Blk) (t : Thr) : BlockPt → Bool
  | .barrier n phase _ => match b.bars[n]? with
    | some k => decide (phase < k.phase)
    | none => true
  | .phaser n phase _ _ => match nget s.phasers n with
    | some p => decide (phase < p.phase)
    | none => true
  | .timeline n v => decide (v.toNat ≤ (s.timeline n).toNat)
  | .emptyReg uni r => if uni then !b.sIsEmpty r else !t.isEmpty r
  | .stageWait v => decide (v.toNat ≤ b.stageCount)
  | .token m => (List.range 8).all fun k => !m.getLsbD k || t.tokens.getD k 0 == 0
  | .tile n => match s.tileOf core b n with
    | some e => e.st == 2
    | none => true
  | .mwait n => decide ((s.mcmds.filter fun k => k.core == core && k.bctx == bctx).length ≤ n)
  | .waitaddr r _ => !t.isEmpty r
  | .remoteLoad uni r => if uni then
      !b.sIsEmpty r && !(s.reqs.any fun q => q.adm == b.adm && q.dst == .uni r && (match q.home with
        | .peer _ => true
        | _ => false))
    else !t.isEmpty r
  | .yielded => true
  | .tblload => (s.coreAt core).banks.any fun k => !k.current && k.free
  | .service page => match page with
    | some p => !(s.xl.faults.any fun f => f.ctx == b.info.ctx && f.page == p)
    | none => false
  | .trapTurn => false
  | .haltStop => !b.halted

/-- Whether a lane waits at a blocking point whose condition does not hold. -/
def Lane.asleep (s : State) (core bctx : Nat) (b : Blk) (t : Thr) (l : Lane) : Bool :=
  match l.stat with
  | .blocked p => !wakeHolds s core bctx b t p
  | _ => false

/-- A lane whose wait has ended runs again; one at a service point waits for its block's restore (R283), and one that has yielded for a
selection of its warp to pass (R444). -/
def Lane.woken (s : State) (core bctx : Nat) (b : Blk) (t : Thr) (l : Lane) : Lane :=
  match l.stat with
  | .blocked (.service _) | .blocked .yielded => l
  | .blocked p => if wakeHolds s core bctx b t p then { l with stat := .run } else l
  | _ => l

/-! ### Meeting and loop ends (R163, R183) -/

/-- Whether a lane no longer keeps lanes held at `m` or at a loop end: held or arrived there, exited, or asleep. -/
def Lane.settledAt (s : State) (core bctx : Nat) (b : Blk) (t : Thr) (m : DWord) (l : Lane) : Bool :=
  l.stat == .exited || (l.stat == .held && l.pc == m) || l.asleep s core bctx b t

/-- Whether a lane keeps lanes held at `m` (R163, R277): its MR is `m` and it is not settled; or it is a trap lane whose MR was `m`,
which counts as running while its handler runs. -/
def Lane.holdsBack (s : State) (core bctx : Nat) (b : Blk) (t : Thr) (m : DWord) (l : Lane) : Bool :=
  (l.mr == m && !l.settledAt s core bctx b t m)
    || ((l.trap == .handler || l.trap == .returned) && l.savedMr == m && l.stat != .exited)

/-- Held lanes of the meeting address `m` released, if no lane keeps them held (R163). -/
def Thr.releaseAt (s : State) (core bctx : Nat) (b : Blk) (t : Thr) (m : DWord) : Thr :=
  if t.lanes.any fun l => l.holdsBack s core bctx b t m then t
  else { t with lanes := t.lanes.map fun l => if l.stat = .held ∧ l.mr = m ∧ l.pc = m then { l with stat := .run, toMeet := false } else l }

/-- Every held group that may be released (R163). -/
def Thr.releaseHeld (s : State) (core bctx : Nat) (b : Blk) (t : Thr) : Thr :=
  ((t.lanes.filter fun l => l.stat == .held).map fun l => l.mr).eraseDups.foldl
    (fun t m => t.releaseAt s core bctx b m) t

/-- A loop level. -/
def Thr.loop (t : Thr) (n : Nat) : LoopLvl := t.loops.getD n { active := false, lc := 0, start := 0, stop := 0, mask := 0 }

/-- A loop level replaced. -/
def Thr.setLoop (t : Thr) (n : Nat) (l : LoopLvl) : Thr := { t with loops := lset n l t.loops }

/-- Level `n` and every level inside it made inactive (R434). -/
def Thr.closeLoops (t : Thr) (n : Nat) : Thr :=
  { t with loops := t.loops.mapIdx fun i l => if n ≤ i then { l with active := false, mask := 0 } else l }

/-- The innermost active loop level (R181). -/
def Thr.innermost (t : Thr) : Option Nat :=
  if (t.loop 2).active then some 2 else if (t.loop 1).active then some 1 else if (t.loop 0).active then some 0 else none

/-- Lanes of `m` removed from the masks of levels `n` and inside; a level whose mask empties becomes inactive with
those inside it (R182, R434). -/
def Thr.leaveLoops (t : Thr) (n : Nat) (m : Word) : Thr :=
  let t1 := { t with loops := t.loops.mapIdx fun i l => if n ≤ i then { l with mask := l.mask &&& ~~~m } else l }
  (List.range 3).foldl
    (fun t i => if n ≤ i ∧ (t.loop i).active ∧ (t.loop i).mask = 0 then t.closeLoops i else t) t1

/-- The loop-end step of level `n` taken when every lane of the loop mask has arrived, exited or is asleep (R183). -/
def Thr.loopStep (s : State) (core bctx : Nat) (b : Blk) (t : Thr) (n : Nat) : Thr :=
  let lv := t.loop n
  let arrived := t.lanesWhere fun l => l.stat == .loopHeld n
  if arrived = 0 then t
  else if (maskLanes lv.mask).all fun i =>
      arrived.getLsbD i || (t.lane i).stat == .exited || (t.lane i).asleep s core bctx b t then
    let lc := lv.lc - 1
    if lc ≠ 0 then (t.setLoop n { lv with lc := lc }).modLanes arrived fun l => l.goto lv.start
    else ({ t.setLoop n { lv with lc := lc } with loops := ((t.setLoop n { lv with lc := lc }).closeLoops n).loops }).modLanes
      arrived fun l => l.goto l.pc
  else t

/-- A party brought up to date: ended waits wake, loop ends are taken and held lanes released. -/
def Thr.settle (s : State) (core bctx : Nat) (b : Blk) (t : Thr) : Thr :=
  let t1 := { t with lanes := t.lanes.map (Lane.woken s core bctx b t) }
  let t2 := (List.range 3).foldl (fun t n => t.loopStep s core bctx b n) t1
  t2.releaseHeld s core bctx b

/-! ### Clause layout (R296, R303) -/

/-- The units of a clause: start, length and whether the unit is a REP; a word with a reserved opcode is one word. -/
def unitsFrom (cls : Nat) : Nat → Nat → List Word → List (Nat × Nat × Bool)
  | 0, _, _ => []
  | _, _, [] => []
  | fuel + 1, at', w :: rest =>
    match decodeRaw cls (w :: rest) with
    | .ok (i, n) =>
      (at', n, match i with
        | .rep _ => true
        | _ => false) :: unitsFrom cls fuel (at' + n) ((w :: rest).drop n)
    | .error (.reservedOpcode _ _) => (at', 1, false) :: unitsFrom cls fuel (at' + 1) rest
    | .error _ => [(at', rest.length + 2, false)]

/-- The units of a fetched clause. -/
def clauseUnits (cls : Nat) (ws : List Word) : List (Nat × Nat × Bool) := unitsFrom cls 16 0 ws

/-- Whether a word is clause-ending (R298). -/
def clauseEnding (cls : Nat) (w : Word) : Bool :=
  let op := w.toNat % 64
  cls == 4 && (op == 0x01 || op == 0x02 || op == 0x03 || op == 0x04 || op == 0x06 || op == 0x07 || op == 0x08
    || op == 0x16 || op == 0x2E)

/-- The fields of a header (R295). -/
def hdrCount (h : Word) : Nat := (fld h 0 4).toNat
/-- CLASS. -/
def hdrClass (h : Word) : Nat := (fld h 4 3).toNat
/-- WAIT. -/
def hdrWait (h : Word) : BitVec 8 := fld h 7 8
/-- Whether a word carries the header mark (R295). -/
def isHeader (h : Word) : Bool := fld h 26 6 == 0b101101

/-- Whether a stream may issue a class (R297). -/
def classAllowed (w cls : Nat) : Bool :=
  if w < 32 then cls != 5 && decide (cls ≤ 6) else if w = 32 then cls == 4 || cls == 5 else cls == 4 || cls == 6

/-- The layout check of a fetched clause (R296). -/
def clauseOk (w : Nat) (h : Word) (ws : List Word) : Bool :=
  let cls := hdrClass h
  let units := clauseUnits cls ws
  isHeader h && hdrCount h != 0 && classAllowed w cls && fld h 22 4 == 0
    && (decide (cls < 4) || (guardOf h == (7, false)))
    && (units.all fun u => decide (u.1 + u.2.1 ≤ ws.length)
        && (!u.2.2 || decide (u.1 + u.2.1 < ws.length))
        && (!clauseEnding cls (ws.getD u.1 0) || u.1 + u.2.1 == ws.length))

/-- The instructions a stream may not issue although their class is allowed (R297). -/
def refusedIn (w : Nat) (i : Instr) : Bool :=
  match i with
  | .stagew _ _ => decide (w < 32)
  | .setmrLabel _ | .setmrRegister _ | .v2s _ | .poolb _ | .stage _ | .tokwait _ | .yield _ => decide (32 ≤ w)
  | _ => false

/-! ### Selecting a sub-warp (R161) -/

/-- Whether a lane can issue, given a step in progress on its block (R150). -/
def Lane.ready (l : Lane) : Bool := l.stat == .run

/-- The sub-warp of a lane: the ready lanes that share its PC, its clause and its mode (R159, R277). -/
def Thr.subWarp (t : Thr) (i : Nat) (allowed : Word) : Word :=
  maskOf fun j => decide (j < t.lanes.length) && (t.lane j).ready && allowed.getLsbD j
    && (t.lane j).pc == (t.lane i).pc && (t.lane j).clause == (t.lane i).clause
    && ((t.lane j).trap == .handler) == ((t.lane i).trap == .handler)

/-- Whether the next word of a lane completes an instruction that has begun (R150, R187): the word that a REP repeats, or a later
repetition of it. -/
def Lane.midInstr (l : Lane) : Bool :=
  l.stat == .run && l.clause.any fun k =>
    k.rep != 0 || (clauseUnits (hdrClass k.hdr) k.words).any fun u =>
      u.2.2 && l.pc == k.hdrAt + BitVec.ofNat 64 (4 * (u.1 + u.2.1 + 1))

/-- The lanes of a party among which the one to issue is selected: in replay a sub-warp that R141 holds before a word stands aside for the
others of its party, until its turn comes or none but held ones are left (log entry 19). -/
def State.turnLanes (s : State) (core bctx w : Nat) (t : Thr) : Word :=
  let ready := t.lanesWhere Lane.ready
  let held := t.turned &&& ready
  if !s.replaying || held == 0 then 0xFFFFFFFF
  else match (maskLanes held).find? fun l => s.hasTurn core (issuerOf bctx w) l && lowestLane (t.subWarp l 0xFFFFFFFF) == l with
    | some l => t.subWarp l 0xFFFFFFFF
    | none => if ready &&& ~~~held = 0 then 0xFFFFFFFF else ~~~held

/-- The lanes of a party that may issue while its block runs, is halted or is stepped (R150): a halted one stops at an instruction
boundary. -/
def allowedLanes (s : State) (b : Blk) (core bctx w : Nat) : Word :=
  let inside : Word := match b.thr? w with
    | some t => t.lanesWhere Lane.midInstr
    | none => 0
  if !b.halted then (b.thr? w).elim 0xFFFFFFFF (s.turnLanes core bctx w)
  else if s.stepctl.active ∧ b.stepping ∧ s.stepctl.core.toNat = core ∧ s.stepctl.bctx.toNat = bctx
      ∧ s.stepctl.warp.toNat = w then lanesMask s.stepctl.todo
  else inside

/-- How many clauses a lane has seen its party issue while it could have issued. -/
def Thr.waitedFor (t : Thr) (l : Nat) : Nat := ngetD t.waited l 0

/-- The lane that has waited longest of those that have waited for 256 clauses; the lowest of several (R161, R166). -/
def Thr.starved (t : Thr) (rest : Word) : Option Nat :=
  (maskLanes rest).foldl
    (fun best l =>
      if t.waitedFor l < 256 then best
      else match best with
        | some k => if t.waitedFor k < t.waitedFor l then some l else best
        | none => some l) none

/-- The sub-warp to issue: the one in mid-clause, else the eligible one with the lowest lane, which is passed over for one that has
waited for 256 clauses (R161).  DEDUCED: R161 passes one sub-warp over once, and R166 promises each of several a turn within
256 clauses, so the one that has waited longest has the turn (log entry 45). -/
def Thr.select (t : Thr) (allowed : Word) : Option Word :=
  let ready := t.lanesWhere Lane.ready &&& allowed
  if ready = 0 then none
  else if ready.getLsbD t.lastLane ∧ (t.lane t.lastLane).clause.isSome then some (t.subWarp t.lastLane allowed)
  else
    let first := t.subWarp (lowestLane ready) allowed
    match t.starved (ready &&& ~~~first) with
    | some l => some (t.subWarp l allowed)
    | none => some first

/-- The counts after the sub-warp `m` has entered a clause: every other lane that could have issued has waited once more. -/
def Thr.countWait (t : Thr) (allowed m : Word) : Thr :=
  let rest := t.lanesWhere Lane.ready &&& allowed &&& ~~~m
  { t with waited := (maskLanes rest).map fun l => (l, t.waitedFor l + 1) }

/-- Whether a block may issue at all: resident, not stopped for service, its context alive, no device halt. -/
def canIssue (s : State) (b : Blk) : Bool :=
  b.stat == .resident && !b.svc && !(s.ctx b.info.ctx).killing && (s.ctx b.info.ctx).en

/-! ### Fetch (R177, R245) -/

/-- Whether a line is unpublished (R243). -/
def State.unpublished (s : State) (line : Nat) : Bool := (nget s.mem.writers line).isSome

/-- How a fetch ends; a fault comes with the header where the device has it. -/
inductive Fetched where
  | ok (s : State) (k : Clause)
  | stall (s : State)
  | fault (s : State) (c : Cause) (addr : DWord) (hdr : Option Word)
  | miss (s : State) (va : DWord) (hdr : Option Word)

/-- The line a code address names (R280). -/
def lineVa (va : DWord) : DWord := va &&& ~~~0x7F

/-- How the translation and the checks of a fetched word end (R81, R177): its home address and whether its page is
publish-tracked. -/
inductive FetchAt where
  | at (a : Nat) (pub : Bool)
  | walk (s : State)
  | miss
  | fault (c : Cause)

/-- The home address of a fetched word. -/
def State.fetchAt (s : State) (m : Mmu) (site : FaultSite) (va : DWord) : FetchAt :=
  if !canonicalVa va || isWindow va then .fault .addressSpace
  else match s.lookup m va with
    | .absent => .walk (s.startWalk m va .fetch site)
    | .faulted => .miss
    | .hit l => match l.check .fetch m.priv with
      | some c => .fault c
      | none => match s.homeOf (l.addr va) with
        | .ok a => .at a l.pub
        | .error c => .fault c

/-- Whether a core's instruction cache holds a line. -/
def State.hasCode (s : State) (core line : Nat) : Bool := s.mem.cache.any fun k => k.holder == 32 + core && k.line == line

/-- A line filled into a core's instruction cache, and its die's L2, by a coherent read in state S (R203, R204, R245); the cache holds 1,024 lines and
the one held longest goes first (log entry 34). -/
def State.fillCode (s : State) (core line : Nat) : State :=
  let mine := s.mem.cache.filter fun k => k.holder == 32 + core
  let full := (mine.getLast?).filter fun _ => decide (1024 ≤ mine.length)
  let s1 := ((s.setCache (s.mem.cache.filter fun k => full != some k)).shareLine line fun _ => false).cacheTouch
    (l2Holder (coreDie core)) line 0 .s
  s1.setCache ({ holder := 32 + core, line := line, way := 0, st := .s, rrpv := 0 } :: s1.mem.cache)

/-- The read of a code line that a party has sent to the capacity tier (R22). -/
def State.codeReq (s : State) (c : Cur) (line : Nat) : Option Req :=
  s.reqs.find? fun r => r.kind == .fetch && r.core == c.core && r.bctx == c.bctx && r.w == c.w && r.line == line

/-- A code line asked of the capacity tier (R22, R47). -/
def State.askCode (s : State) (c : Cur) (b : Blk) (line : Nat) : State :=
  let r : Req :=
    { id := s.nextId, core := c.core, bctx := c.bctx, w := c.w, low := lowestLane c.lanes, adm := b.adm, ctx := b.info.ctx, kind := .fetch,
      size := 4, sgn := false, home := .mem, line := line, mask := 0, ops := [], dst := .none, stage := .sent, got := [], err := none,
      uc := false, pub := false, inv := false, acq := false, privileged := false, reuse := 0, hold := false, tries := 0, sentN := 0, bad := 0,
      pc := c.pc, word := 0, ext := 0, lseq := 0 }
  { s.capFetch line s.nextId with nextId := s.nextId + 1, reqs := s.reqs ++ [r] }

/-- Whether a store that the core's cluster has accepted has still to reach a line's home: what every access of the cluster sees
(R231). -/
def State.clusterStore (s : State) (core line : Nat) : Bool :=
  s.reqs.any fun q => q.kind.writes && q.home == .mem && q.line == line && q.core / 8 == core / 8 && q.open && q.stage != .queued

/-- How a line of code comes to the instruction cache. -/
inductive CodeLine where
  | ok (s : State)
  | wait (s : State)
  | fault (c : Cause)

/-- A line of a clause brought from its home by a coherent read, where the instruction cache does not hold it (R22, R208, R231,
R245).  Behind an acquire that has not bound no line of a publish-tracked page is taken, and none while a store that the cluster has
accepted is on its way to it; a fill from a publish-tracked page waits as shared-state operations do (R125, R126, R232). -/
def State.codeLine (s : State) (c : Cur) (b : Blk) (line : Nat) (pub : Bool) : CodeLine :=
  if (pub && s.heldBack c.core c.bctx c.w b.adm c.lanes) || (!s.unpublished line && s.clusterStore c.core line) then .wait s
  else if s.hasCode c.core line then .ok s
  else if (pub && !s.mayStart c.core (issuerOf c.bctx c.w) (lowestLane c.lanes)) || s.lineHeld (coreDie c.core) line then .wait s
  else if lineIsCap line && !(s.mem.cacheOn && s.cacheHit line) then match s.codeReq c line with
    | none => .wait (s.askCode c b line)
    | some r =>
      if r.stage ≠ .served then .wait s
      else match r.err with
        | some k => .fault k
        | none => .ok (s.gather line)
  else .ok (s.gather line)

/-- Every line of a clause brought in turn. -/
def State.codeLines (c : Cur) (b : Blk) : List (Nat × Bool) → State → CodeLine
  | [], s => .ok s
  | p :: rest, s => match s.codeLine c b p.1 p.2 with
    | .ok t => State.codeLines c b rest t
    | x => x

/-- The fills of a fetch, each from a publish-tracked page a recorded operation (R125); what was asked of the capacity tier has
served. -/
def State.codeFills (s : State) (c : Cur) (lines : List (Nat × Bool)) : State :=
  let s1 : State := { s with reqs := s.reqs.filter fun r =>
    !(r.kind == .fetch && r.core == c.core && r.bctx == c.bctx && r.w == c.w && r.stage == .served) }
  lines.foldl
    (fun t p =>
      if t.hasCode c.core p.1 then t
      else
        let t1 := t.fillCode c.core p.1
        if p.2 then t1.note c.core (issuerOf c.bctx c.w) (lowestLane c.lanes) (objLine p.1) false (some (p.1 * 128)) none else t1) s1

/-- The fetch's words translated and checked one after another: the homes, or how it ends. -/
def State.fetchWords (s : State) (m : Mmu) (site : FaultSite) (hdr : Option Word) : List DWord → Except Fetched (List (DWord × Nat × Bool))
  | [] => .ok []
  | va :: rest => match s.fetchAt m site va with
    | .walk t => .error (.stall t)
    | .miss => .error (.miss s (lineVa va) hdr)
    | .fault k => .error (.fault s k (lineVa va) hdr)
    | .at a pub => match s.fetchWords m site hdr rest with
      | .error e => .error e
      | .ok l => .ok ((va, a, pub) :: l)

/-- The first of a fetch's words whose line satisfies a test, by the address of its line. -/
def codeHit (l : List (DWord × Nat × Bool)) (f : Nat → Bool) : Option DWord :=
  (l.find? fun p => f (lineOf p.2.1)).map fun p => lineVa p.1

/-- Words of a clause with header `hdr` fetched from their addresses (R177, R245): all are translated and checked, their lines brought
into the instruction cache where it does not hold them, and each cause is looked for over all lines before the next. -/
def State.fetchRun (s : State) (c : Cur) (b : Blk) (m : Mmu) (site : FaultSite) (hdr : Word) (vas : List DWord) : Fetched :=
  match s.fetchWords m site (some hdr) vas with
  | .error e => e
  | .ok ws =>
    let lines := (ws.map fun p => (lineOf p.2.1, p.2.2)).eraseDups
    match State.codeLines c b lines s with
    | .wait u => .stall u
    | .fault k => .fault (s.codeFills c []) k (lineVa (vas.getLastD c.pc)) (some hdr)
    | .ok s2 =>
      let fail (k : Cause) (addr : DWord) : Fetched := .fault (s2.codeFills c []) k addr (some hdr)
      match codeHit ws s2.unpublished, codeHit ws s2.poisoned with
      | some a, _ => fail .halfPublished a
      | none, some a => fail .poisonConsumed a
      | none, none =>
        let s3 := ws.foldl (fun u p => u.touchTlb m p.1) (s2.codeFills c lines)
        .ok s3 { hdrAt := c.pc, hdr := hdr, words := ws.map fun p => BitVec.ofNat 32 (leNat (s3.peek p.2.1 4)), rep := 0 }

/-- The launch site of the issuing word or of a fetch for fault records (R83). -/
def Cur.site (c : Cur) (t : Thr) : FaultSite :=
  { origin := 0, pc := c.pc, lseq := t.lseq, core := BitVec.ofNat 8 c.core, slot := 0 }

/-- The clause whose header is at `c.pc` (R177, R245). -/
def State.fetchClause (s : State) (c : Cur) (b : Blk) (t : Thr) : Fetched :=
  let m := c.mmu b (t.privileged c.lanes)
  let site := c.site t
  if c.pc.toNat % 4 ≠ 0 then .fault s .illegalClause (lineVa c.pc) none
  else match s.fetchWords m site none [c.pc] with
    | .error e => e
    | .ok [] => .stall s
    | .ok (h :: _) => match s.codeLine c b (lineOf h.2.1) h.2.2 with
      | .wait u => .stall u
      | .fault k => .fault (s.codeFills c []) k (lineVa c.pc) none
      | .ok s1 =>
        let hdr : Word := BitVec.ofNat 32 (leNat (s1.peek h.2.1 4))
        let n := if isHeader hdr then hdrCount hdr else 0
        match s.fetchRun c b m site hdr ((List.range (n + 1)).map fun i => c.pc + BitVec.ofNat 64 (4 * i)) with
        | .ok u k => .ok u { k with words := k.words.drop 1 }
        | x => x

/-- The words of a clause from `c.pc` on fetched again, after a CODEPUB has discarded them (R377). -/
def State.refetch (s : State) (c : Cur) (b : Blk) (t : Thr) (k : Clause) : Fetched :=
  let ix := (c.pc.toNat - k.hdrAt.toNat) / 4 - 1
  match s.fetchRun c b (c.mmu b (t.privileged c.lanes)) (c.site t) k.hdr
      ((List.range (k.words.length - ix)).map fun i => c.pc + BitVec.ofNat 64 (4 * i)) with
  | .ok u x => .ok u { k with words := k.words.take ix ++ x.words, stale := false }
  | x => x

/-! ### Leaving a word behind -/

/-- The lanes of a mask stopped at a blocking point. -/
def State.block (s : State) (c : Cur) (m : Word) (p : BlockPt) : State :=
  { s.modThr c.core c.bctx c.w fun t => t.modLanes m fun l => { l with stat := .blocked p } with focus := none }

/-- A stall (R164): the word is issued again at a later step. -/
def State.stall (s : State) (_ : Cur) : State :=
  { s with focus := none }

/-- A stall at copy issue (R164, R285). -/
def State.stallCopy (s : State) (c : Cur) : State :=
  (s.modThr c.core c.bctx c.w fun t => { t with copyStall := true }).stall c

/-- The end of a clause for lanes that make no transfer: they go on to the fall-through, or take the loop-end step (R183, R298); lanes
outside the mask of the active level that LEND names go on (R434). -/
def State.endClause (s : State) (c : Cur) (m : Word) : State :=
  let lend := (fld c.hdr 19 2).toNat
  match s.blk? c.core c.bctx with
  | none => s
  | some b => match b.thr? c.w with
    | none => s
    | some t =>
      if lend = 0 then s.setBlk c.core c.bctx (b.setThr c.w (t.modLanes m fun l => l.goto c.next))
      else
        let n := lend - 1
        let inside := m &&& (if c.w < 32 ∧ (t.loop n).active then (t.loop n).mask else m)
        let t1 := t.modLanes (m &&& ~~~inside) fun l => l.goto c.next
        if inside ≠ 0 ∧ t.innermost ≠ some n then
          (s.setBlk c.core c.bctx (b.setThr c.w t1)).trap c (b.setThr c.w t1) t1
            { cause := .loopNest, lanes := inside, faulting := inside, npc := c.next }
        else
          let t2 := t1.modLanes inside fun l => { l with pc := c.next, clause := none, stat := .loopHeld n }
          s.setBlk c.core c.bctx (b.setThr c.w (t2.loopStep s c.core c.bctx (b.setThr c.w t2) n))

/-- The lanes of `m` have done the word: they repeat it (R187), go on to the next word, or end the clause. -/
def State.retire (s : State) (c : Cur) (m : Word) : State :=
  if c.rep + 1 < c.reps then
    s.modThr c.core c.bctx c.w fun t => t.modLanes m fun l => l.again (c.rep + 1)
  else if c.last then s.endClause c m
  else s.modThr c.core c.bctx c.w fun t => t.modLanes m fun l => l.onward c.next

/-- Lanes that have done a word and now wait at a blocking point with their PC past it; at the end of a clause they wait first, and take
the end when they wake (R164, R183). -/
def State.retireBlocked (s : State) (c : Cur) (m : Word) (p : BlockPt) : State :=
  s.modThr c.core c.bctx c.w fun t => t.modLanes m fun l =>
    { (if c.rep + 1 < c.reps then l.again (c.rep + 1) else if c.last then { l with pc := c.next } else l.onward c.next) with
      stat := .blocked p }

/-! ### Gates: the checks of R308 -/

/-- What the checks before an instruction's own effect decide. -/
inductive Gate where
  | go
  | trap (c : Cause)
  | wait (p : BlockPt)
  deriving DecidableEq, Repr

/-- The first failing gate of a list. -/
def Gate.first : List Gate → Gate
  | [] => .go
  | .go :: t => Gate.first t
  | g :: _ => g

/-- A trap when a condition fails. -/
def Gate.unless (ok : Bool) (c : Cause) : Gate := if ok then .go else .trap c

/-- Runs a meaning for the word in the issue latch. -/
def withParty (s : State) (f : Cur → Blk → Thr → State) : Host.Outcome State Fault Refusal :=
  match s.cur with
  | none => .fault .noIssuer
  | some c => match s.blk? c.core c.bctx with
    | none => .fault .noParty
    | some b => match b.thr? c.w with
      | none => .fault .noParty
      | some t => .next (f c b t)

/-- The lanes that take a fault of the whole word: the active lanes, or all lanes of the sub-warp when none is active
(R308). -/
def faultLanes (c : Cur) (act : Word) : Word := if act = 0 then c.lanes else act

/-- A precise fast trap of a whole word, its handler returning to the word (R281). -/
def State.trapWord (s : State) (c : Cur) (b : Blk) (t : Thr) (cause : Cause) (m : Word) (addr : DWord := 0) : State :=
  { s.trap c b t { cause := cause, lanes := m, faulting := m, addr := addr, npc := c.pc } with focus := none }

/-- The effect of a gate that does not let the word go; lanes of the sub-warp that do not take its fault go on (R277, R308). -/
def State.refuse (s : State) (c : Cur) (b : Blk) (t : Thr) (m : Word) : Gate → State
  | .go => s
  | .trap cause => let rest := c.lanes &&& ~~~m
    if rest = 0 then s.trapWord c b t cause m else (s.trapWord c b t cause m).retire c rest
  | .wait p => s.block c c.lanes p

/-! ### Service faults (R283, R284) -/

/-- Whether a service fault is delivered to the handler when it has been served (R283). -/
def Cause.delivered : Cause → Bool
  | .translationMiss | .imemError | .replayDivergence => false
  | c => c.isService

/-- A service fault (R283): the lanes of `r.active` stop, the trap registers are written, and the block stops for
service.  `pages` gives each lane the page whose record it joins; a fault to be delivered waits for its turn. -/
def State.serviceRec (s : State) (core bctx w : Nat) (b : Blk) (t : Thr) (r0 : TrapRec) (pages : Nat → Option Nat) :
    State :=
  let deliver := r0.cause.delivered
  let r := { r0 with n := s.trapNumber, inside := deliver && t.privileged r0.active }
  let t1 : Thr := { t with
    lanes := t.lanes.mapIdx fun i l =>
      if r.active.getLsbD i then
        { l with
          stat := .blocked (.service (pages i))
          trap := if deliver then .pending r.n else l.trap
          savedStat := if deliver ∨ l.trap = .none then l.stat else l.savedStat
          savedClause := if deliver ∨ l.trap = .none then l.clause else l.savedClause }
      else l
    trapQ := if deliver then t.trapQ ++ [r] else t.trapQ }
  let t2 := if w < 32 ∧ !t.inHandler then t1.writeTrapRegs r else t1
  let s1 := { s with nextId := s.nextId + 1, focus := none }.setBlk core bctx { b.setThr w t2 with svc := true }
  s1.closeChunk core 5

/-- A service fault of lanes of the word in the issue latch (R283), in handler mode as elsewhere (R282). -/
def State.service (s : State) (c : Cur) (b : Blk) (t : Thr) (cause : Cause) (m faulting : Word) (addr : DWord)
    (pages : Nat → Option Nat) : State :=
  s.serviceRec c.core c.bctx c.w b t
    { n := 0, cause := cause, whenT := 0, serviced := false, rep := BitVec.ofNat 6 c.rep, flags := 0,
      origin := 0, lost := 0, more := 0, pc := c.pc, npc := c.pc, addr := addr, active := m, faulting := faulting,
      word := c.word, ext := c.ext, lseq := t.lseq, issuer := BitVec.ofNat 6 c.w } pages

end Sys2Proof.Machine
end

