-- ==== Sys2Proof/Machine/Clause.lean ====
section
/-! DEFINITION. Entering a clause and latching its next word (R161, R177, R178, R186, R187, R212, R285, R296, R311). -/

namespace Sys2Proof.Machine

/-! ### Asynchronous traps at a boundary (R285) -/

/-- The sub-warp that takes an asynchronous trap: the lanes that share the PC and the stop of the lowest non-exited
lane, when that lane stands at a clause boundary, is held, is stopped at a blocking point of its own, or is stalled at copy
issue; with `turn` also when replay holds it before a word (R141, log entry 19). -/
def Thr.asyncTakers (t : Thr) (turn : Bool := false) : Word :=
  let l := t.lane (lowestLane t.live)
  let last := t.lane t.lastLane
  let may := match l.stat with
    | .run => l.clause.isNone || (turn && t.turned.getLsbD (lowestLane t.live)) || (t.copyStall && l.pc == last.pc && l.clause == last.clause)
    | .held | .loopHeld _ => true
    | .blocked (.service _) | .blocked .trapTurn => false
    | .blocked _ => true
    | .exited => false
  if may && l.trap == .none then
    t.lanesWhere fun x => x.pc == l.pc && x.stat == l.stat && x.trap == .none && x.clause == l.clause
  else 0

/-- Whether the live trap that an ATRAP record stands for may still arise: its command has not ended, or a uniform stream on its way to
that launch site is neither held nor stopped (log entry 19). -/
def State.mayRaise (s : State) (core bctx : Nat) (r : LogTrap) : Bool :=
  r.cause != Cause.recordOverflow.code && (s.blk? core bctx).any fun b =>
    (s.cmds.any fun k => k.adm == b.adm && k.pc == r.pc && k.lseq == r.lseq && !k.finished)
      || (s.mcmds.any fun k => k.adm == b.adm && k.pc == r.pc && k.lseq == r.lseq)
      || b.thrs.any fun p => decide (32 ≤ p.1) && !p.2.exited && !p.2.terminated && (p.2.lane 0).stat == .run && p.2.turned == 0
        && decide (p.2.lseq.toNat ≤ r.lseq.toNat)

/-- The trap of an ATRAP record for which no live trap stands: what the record does not hold is free (R135, R280, log entry 19), but of
RECORD_OVERFLOW (R130). -/
def State.loggedTrap (s : State) (r : LogTrap) : ATrap :=
  let known := r.cause == Cause.recordOverflow.code
  let free (i : Nat) : DWord := if known then 0 else Config.freeDWord s.fresh (BitVec.ofNat 32 i)
  { cause := Cause.ofCode r.cause, origin := (free 1).setWidth 2, more := (free 2).setWidth 6, serviced := false, pc := r.pc,
    addr := free 0, lseq := r.lseq, issuer := (free 3).setWidth 6 }

/-- The asynchronous trap a warp takes next, and those that stay pending (R285).  In replay it is the one whose ATRAP record
is due, with what the record does not hold from the live trap it stands for; live traps are not taken on their own (R142). -/
def State.asyncDue (s : State) (core bctx w : Nat) (t : Thr) : Option (ATrap × List ATrap) :=
  if s.recd.mode = 2 then
    match if s.replaying then s.trapDue core else none with
    | none => none
    | some r =>
      if r.issuer ≠ issuerOf bctx w ∨ r.lane ≠ lowestLane (t.asyncTakers true) then none
      else match t.asyncQ.find? fun a => a.cause.code == r.cause && a.pc == r.pc with
        | some a => some (a, t.asyncQ.filter (· != a))
        | none => if s.mayRaise core bctx r then none else some (s.loggedTrap r, t.asyncQ)
  else match t.asyncQ with
    | [] => none
    | a :: rest => some (a, rest)

/-- Whether recording keeps a warp's asynchronous trap back: operations that it has issued have still to take effect, so that the place of
the ATRAP record among them would not say which come first (R126, R135, log entry 19).  One that waits at a FIFO bank, perhaps for ever,
keeps nothing back. -/
def State.trapWaits (s : State) (core bctx w : Nat) : Bool :=
  let waits (r : Req) : Bool := match r.home with
    | .fifo k b => (s.bank (bankKey k b)).waitPop.contains r.id || (s.bank (bankKey k b)).waitPush.contains r.id
    | _ => false
  s.recd.mode == 1 && { s with reqs := s.reqs.filter fun r => !waits r }.issuerBusy core (issuerOf bctx w)

/-- The oldest pending asynchronous trap of a warp taken, when no sub-warp of it is in or waits for the handler
(R278, R285).  The trap closes the core agent's chunk (R127), and its ATRAP record names operation 0 of the next one (R135).
DESIGN CHOICE: an asynchronous trap has no faulting lanes, and R280 does not say what TMASK.FAULT then is; it equals ACTIVE (log entry
47). -/
def State.deliverAsync (s : State) (core bctx w : Nat) : State :=
  match s.blk? core bctx with
  | none => s
  | some b => match b.thr? w with
    | none => s
    | some t =>
      let m := t.asyncTakers s.replaying
      match s.asyncDue core bctx w t with
      | none => s
      | some (a, rest) =>
        if t.inHandler || !t.trapQ.isEmpty || m == 0 || decide (32 ≤ w) || b.stat != .resident || s.trapWaits core bctx w then s
        else if (s.ctx b.info.ctx).vec = 0 then s.kill b.info.ctx a.cause
        else
          let pc := (t.lane (lowestLane m)).pc
          let r : TrapRec :=
            { n := s.trapNumber, cause := a.cause, whenT := 2, serviced := a.serviced, rep := 0, flags := 0,
              origin := a.origin, lost := 0, more := a.more, pc := a.pc, npc := pc, addr := a.addr, active := m,
              faulting := m, word := 0, ext := 0, lseq := a.lseq, issuer := a.issuer }
          let t1 := ({ t with asyncQ := rest, turned := t.turned &&& ~~~m }.modLanes m fun l =>
            { l with savedStat := l.stat, savedClause := l.clause }).enter m r (s.ctx b.info.ctx).vec
          let s1 := { s with nextId := s.nextId + 1 }.setBlk core bctx (b.setThr w t1)
          let s2 : State := { s1 with
            fresh := s1.fresh + 1
            recd := { s1.recd with atraps := match s.trapDue core with
              | some d => if s.replaying then s1.recd.atraps.filter (· != d) else s1.recd.atraps
              | none => s1.recd.atraps } }
          let s3 := s2.closeChunk core 5
          s3.recordAtrap core a.cause.code (s3.agent core).ops (issuerOf bctx w) (lowestLane m) a.pc a.lseq

/-! ### Entering a clause -/

/-- Whether a CODEPUB of the warp has not completed: its later clause fetches wait (R244). -/
def State.publishing (s : State) (core bctx w adm : Nat) : Bool :=
  s.rels.any fun k => k.core == core && k.bctx == bctx && k.w == w && k.adm == adm &&
    (match k.act with
      | .codepub _ _ => true
      | _ => false)

/-- The latch of a clause fetch; a fetch fault reports the header as its word (R177, R280). -/
def fetchCur (core bctx w : Nat) (m : Word) (pc : DWord) (hdr : Word) : Cur :=
  { core := core, bctx := bctx, w := w, lanes := m, hdrAt := pc, hdr := hdr, pc := pc, next := pc, last := false,
    cls := 0, word := hdr, ext := 0, rep := 0, reps := 1 }

/-- A bad target (R311): the lanes that took a transfer go back to it and raise BRANCH_TARGET there; lanes that fell
through raise the given cause at the header. -/
def State.badTarget (s : State) (core bctx w : Nat) (m : Word) (pc : DWord) (hdr : Word) (cause : Cause) : State :=
  match s.thr? core bctx w with
  | none => s
  | some t =>
    let vias := ((maskLanes m).map fun l => (t.lane l).via).eraseDups
    vias.foldl
      (fun s v => match s.blk? core bctx with
        | none => s
        | some b => match b.thr? w with
          | none => s
          | some t =>
            let g := m &&& t.lanesWhere fun l => l.via == v
            match v with
            | none =>
              s.trap (fetchCur core bctx w g pc hdr) b t { cause := cause, lanes := g, faulting := g, npc := pc }
            | some x =>
              let t1 := t.modLanes g fun l => { l with pc := x.pc, clause := some x.clause, via := none }
              let b1 := b.setThr w t1
              let c := { fetchCur core bctx w g x.pc x.clause.hdr with hdrAt := x.clause.hdrAt, word := x.word, rep := x.clause.rep }
              (s.setBlk core bctx b1).trap c b1 t1
                { cause := .branchTarget, lanes := g, faulting := g, addr := pc, npc := x.pc }) s

/-- Whether a word at addresses `pc` to `next` would hold the 257th word of an open loop body (R184): bodies are straight in memory, so
the distance from the body's start counts its words.  Handler code is no part of the body it interrupts. -/
def overlong (t : Thr) (w : Nat) (lanes : Word) (pc next : DWord) : Bool :=
  !t.privileged lanes && t.loops.any fun l => l.active && (decide (32 ≤ w) || l.mask &&& lanes != 0)
    && decide (l.start.toNat ≤ pc.toNat) && decide (1024 < next.toNat - l.start.toNat)

/-! ### Loop bodies and meeting addresses -/

/-- Whether the word at an address is a clause header (R311), or nothing where its translation is not at hand. -/
def State.headerAt (s : State) (m : Mmu) (va : DWord) : Option Bool :=
  if va.toNat % 4 ≠ 0 ∨ !canonicalVa va ∨ isWindow va then some false
  else match s.quietLeaf m va with
    | none => none
    | some l => match s.homeOf (l.addr va) with
      | .error _ => some false
      | .ok a => some (isHeader (BitVec.ofNat 32 (leNat ((s.gather (lineOf a)).peek a 4))))

/-- Lanes held at an address that turns out to be no clause header run on to it (R427). -/
def Thr.checkMeets (s : State) (m : Mmu) (t : Thr) : Thr :=
  if t.lanes.any fun l => l.stat == .held && l.toMeet then
    { t with lanes := t.lanes.map fun l =>
        if l.stat = .held ∧ l.toMeet then match s.headerAt m l.pc with
          | some true => { l with toMeet := false }
          | some false => { l with stat := .run, toMeet := false }
          | none => l
        else l }
  else t

/-- The end of a loop body: the end of the first clause from its start whose LEND names the level (R181); a body that
cannot be read that far ends, until it can, where R184 stops it. -/
def bodyEnd (s : State) (m : Mmu) (n : Nat) (start : DWord) : Nat → DWord → DWord
  | 0, _ => start + 1024
  | fuel + 1, at' => match s.quietLeaf m at' with
    | none => start + 1024
    | some l => match s.homeOf (l.addr at') with
      | .error _ => start + 1024
      | .ok a =>
        let h : Word := BitVec.ofNat 32 (leNat ((s.gather (lineOf a)).peek a 4))
        let next := at' + BitVec.ofNat 64 (4 * (hdrCount h + 1))
        if !isHeader h then start + 1024
        else if (fld h 19 2).toNat = n + 1 then next
        else bodyEnd s m n start fuel next

/-- Whether an address lies in a level's body. -/
def LoopLvl.covers (l : LoopLvl) (x : DWord) : Bool := decide (l.start.toNat ≤ x.toNat) && decide (x.toNat < l.stop.toNat)

/-- The ends of the active bodies that could not be read when their LOOP issued, now that they can (R181). -/
def Thr.learnEnds (s : State) (m : Mmu) (t : Thr) : Thr :=
  { t with loops := t.loops.mapIdx fun n l =>
      if l.active ∧ l.stop = l.start + 1024 then { l with stop := bodyEnd s m n l.start 256 l.start } else l }

/-- The lanes that stand outside a body, at a clause boundary or held, although they are in its level's mask: they left it while its end
could not be read (R182). -/
def Thr.strayed (t : Thr) (n : Nat) : Word :=
  (t.loop n).mask &&& t.lanesWhere fun l => l.trap == .none && l.clause.isNone && (l.stat == .run || l.stat == .held)
    && !(t.loop n).covers l.pc && l.pc != (t.loop n).stop

/-- The loop levels as a clause is entered: ends that can be read by now are known, and lanes that have left a body leave its mask
(R181, R182). -/
def Thr.knowEnds (s : State) (m : Mmu) (t : Thr) : Thr :=
  (List.range 3).foldl
    (fun u n =>
      if (t.loop n).active && (t.loop n).stop != (u.loop n).stop && u.strayed n != 0 then u.leaveLoops n (u.strayed n) else u)
    (t.learnEnds s m)

/-- Lanes that go from inside the body of an active level to a target outside it leave its mask (R182).  Handler code stands
outside the bodies of the code it interrupts, whose masks it leaves alone. -/
def Thr.leaveBodies (t : Thr) (m : Word) (pc target : DWord) : Thr :=
  (List.range 3).foldl
    (fun t n =>
      let lv := t.loop n
      if !lv.active || lv.mask &&& m == 0 || !lv.covers pc || lv.covers target then t else t.leaveLoops n m) t

/-! ### Fetching -/

/-- How a failed fetch by the sub-warp of `c` is taken; a bad target goes back to its transfers (R177, R280, R283, R311).  A header that
the device does not have is a free value of TWORD. -/
def State.fetchFails (s : State) (c : Cur) (b : Blk) (t : Thr) (cause : Cause) (addr : DWord) (page : Option Nat) (hdr : Option Word) :
    State :=
  let w := hdr.getD (Config.freeWord s.fresh 0 c.w)
  let c1 : Cur := { c with hdr := w, word := w }
  if cause.isService then s.bump.service c1 b t cause c.lanes c.lanes addr fun _ => page
  else if cause = .illegalClause then s.bump.badTarget c.core c.bctx c.w c.lanes c.pc w cause
  else s.bump.trapWord c1 b t cause c.lanes addr

/-- A clause fetched and entered by the sub-warp of `c`, whose PC is at its header (R161, R177, R178, R184, R296).  The Boolean says
whether a word stands ready. -/
def State.enterClause (s : State) (c : Cur) (b : Blk) (t : Thr) : State × Bool :=
  let idle (x : State) : State × Bool := ({ x with focus := none }, false)
  if s.publishing c.core c.bctx c.w b.adm then idle s
  else match s.fetchClause c b t with
    | .stall x => idle x
    | .miss x va h => idle (x.fetchFails c b t .translationMiss va (some (pageOf va)) h)
    | .fault x cause addr h => idle (x.fetchFails c b t cause addr none h)
    | .ok x k =>
      let c1 : Cur := { c with hdr := k.hdr, word := k.hdr }
      if !isHeader k.hdr then idle (x.badTarget c.core c.bctx c.w c.lanes c.pc k.hdr .illegalClause)
      else if !clauseOk c.w k.hdr k.words then idle (x.trapWord c1 b t .illegalClause c.lanes)
      else if overlong t c.w c.lanes c.pc (c.pc + 4) then idle (x.trapWord c1 b t .loopNest c.lanes)
      else if !wakeHolds x c.core c.bctx b t (.token (hdrWait k.hdr)) then idle (x.block c1 c.lanes (.token (hdrWait k.hdr)))
      else
        ({ x.modThr c.core c.bctx c.w (fun t =>
            { ((t.knowEnds x (c.mmu b (t.privileged c.lanes))).countWait (allowedLanes s b c.core c.bctx c.w) c.lanes).modLanes c.lanes
                (fun l => { l with pc := k.hdrAt + 4, clause := some k, via := none }) with
              lastLane := lowestLane c.lanes }) with
          focus := some (c.core, c.bctx, c.w) }, true)

/-- The rest of a clause that a CODEPUB has discarded fetched again, once it has completed (R244, R377). -/
def State.reload (s : State) (c : Cur) (b : Blk) (t : Thr) (k : Clause) : State × Bool :=
  let idle (x : State) : State × Bool := ({ x with focus := none }, false)
  if s.publishing c.core c.bctx c.w b.adm then idle s
  else match s.refetch c b t k with
    | .stall x => idle x
    | .miss x va h => idle (x.fetchFails c b t .translationMiss va (some (pageOf va)) h)
    | .fault x cause addr h => idle (x.fetchFails c b t cause addr none h)
    | .ok x k1 =>
      ({ x.modThr c.core c.bctx c.w (fun t =>
          { t.modLanes c.lanes (fun l => { l with clause := some k1 }) with lastLane := lowestLane c.lanes }) with
        focus := some (c.core, c.bctx, c.w) }, true)

/-- The latch of lanes that stand past the last word of clause `k`: that word, and the end that they have still to take. -/
def endCur (core bctx w : Nat) (m : Word) (k : Clause) : Cur :=
  let ix := ((clauseUnits (hdrClass k.hdr) k.words).getLast?).elim 0 fun u => u.1
  { core := core, bctx := bctx, w := w, lanes := m, hdrAt := k.hdrAt, hdr := k.hdr, pc := k.hdrAt + BitVec.ofNat 64 (4 * (ix + 1)),
    next := k.hdrAt + BitVec.ofNat 64 (4 * (k.words.length + 1)), last := true, cls := hdrClass k.hdr, word := k.words.getD ix 0,
    ext := k.words.getD (ix + 1) 0, rep := k.rep, reps := k.rep + 1 }

/-- Lanes that have yielded run again: one selection of their warp has passed them over (R444). -/
def Thr.endYield (t : Thr) : Thr :=
  if t.lanes.any fun l => l.stat == .blocked .yielded then
    { t with lanes := t.lanes.map fun l => if l.stat = .blocked .yielded then { l with stat := .run } else l }
  else t

/-- A party readied for its next word: waits that have ended wake, traps are taken, a sub-warp is selected and, at a
clause boundary, its clause is fetched, checked and waited for.  The Boolean says whether a word stands ready. -/
def State.ready (s : State) (core bctx w : Nat) : State × Bool :=
  match s.blk? core bctx with
  | none => ({ s with focus := none }, false)
  | some b0 =>
    if !canIssue s b0 || s.issueHeld core w then ({ s with focus := none }, false)
    else match b0.thr? w with
      | none => ({ s with focus := none }, false)
      | some t0 =>
        let mmu := (fetchCur core bctx w 0 0 0).mmu b0 (t0.privileged t0.live)
        let s1 := s.setBlk core bctx (b0.setThr w ((t0.checkMeets s mmu).settle s core bctx b0))
        let s2 := (((s1.flushTag core bctx w).nextTrap core bctx w).deliverAsync core bctx w)
        match s2.blk? core bctx with
        | none => ({ s2 with focus := none }, false)
        | some b => match b.thr? w with
          | none => ({ s2 with focus := none }, false)
          | some t1 =>
            let t := t1.endYield
            let s2 := s2.setBlk core bctx (b.setThr w t)
            match t1.select (allowedLanes s2 b core bctx w) with
            | none => ({ s2 with focus := none }, false)
            | some m =>
              let i := lowestLane m
              let here := some (core, bctx, w)
              match (t.lane i).clause with
              | none => s2.enterClause (fetchCur core bctx w m (t.lane i).pc 0) (b.setThr w t) t
              | some k =>
                if (t.lane i).atEnd then ({ s2.endClause (endCur core bctx w m k) m with focus := none }, false)
                else if k.stale then s2.reload { fetchCur core bctx w m (t.lane i).pc k.hdr with hdrAt := k.hdrAt } (b.setThr w t) t k
                else ({ s2.modThr core bctx w (fun t => { t with lastLane := i }) with focus := here }, true)

/-- The same, after an asynchronous trap that finds its sub-warp still stopped at a blocking point: it is taken at once, even
where the wait has just ended (R285). -/
def State.enter (s : State) (core bctx w : Nat) : State × Bool :=
  match s.blk? core bctx with
  | none => ({ s with focus := none }, false)
  | some b =>
    if !canIssue s b || s.issueHeld core w then ({ s with focus := none }, false)
    else ((s.flushTag core bctx w).deliverAsync core bctx w).ready core bctx w

/-! ### The next word -/

/-- A register field stepped by a REP, within its width (R307). -/
def stepField (w : Word) (lo n by' : Nat) : Word :=
  let old := w.toNat / 2 ^ lo % 2 ^ n
  BitVec.ofNat 32 (w.toNat - old * 2 ^ lo + (old + by') % 2 ^ n * 2 ^ lo)

/-- A word as repetition `j` issues it (R186): each stepped field plus j times its step. -/
def stepWord (cls : Nat) (w : Word) (j : Nat) (r : RepW) : Word :=
  let d := j * r.stepd.toNat
  let a := j * r.stepa.toNat
  let b := j * r.stepb.toNat
  if cls < 4 then stepField (stepField (stepField w 6 7 d) 13 8 a) 21 8 b
  else stepField (stepField (stepField w 6 8 d) 14 8 a) 22 8 b

/-- The words from a word of a clause on, with the head stepped as its repetition asks (R186, R187). -/
def Clause.wordsAt (k : Clause) (ix : Nat) : List Word × Nat :=
  let cls := hdrClass k.hdr
  let units := clauseUnits cls k.words
  match units.find? fun u => u.2.2 && u.1 + u.2.1 == ix with
  | some u =>
    let r := repOf (k.words.getD u.1 0)
    match k.words.drop ix with
    | w :: rest => (stepWord cls w k.rep r :: rest, r.cnt.toNat + 1)
    | [] => ([], 1)
  | none => (k.words.drop ix, 1)

/-- The issue latch for the next word of a party whose sub-warp stands in mid-clause, and what the decoder reads there. -/
def State.latch (s : State) (core bctx w : Nat) : Option (Cur × Except Reject (Instr × Nat)) :=
  match s.blk? core bctx with
  | none => none
  | some b => match b.thr? w with
    | none => none
    | some t =>
      let l := t.lane t.lastLane
      match l.clause with
      | none => none
      | some k =>
        let ix := (l.pc.toNat - k.hdrAt.toNat) / 4 - 1
        let cls := hdrClass k.hdr
        let (ws, reps) := k.wordsAt ix
        let d := decode cls ws
        let n := match d with
          | .ok (_, n) => n
          | .error (.illFormed _ n) => n
          | .error _ => 1
        some ({ core := core, bctx := bctx, w := w, lanes := t.subWarp t.lastLane (allowedLanes s b core bctx w),
                hdrAt := k.hdrAt, hdr := k.hdr, pc := l.pc, next := l.pc + BitVec.ofNat 64 (4 * n),
                last := decide (ix + n = k.words.length), cls := cls, word := k.words.getD ix 0,
                ext := if 2 ≤ n then k.words.getD (ix + 1) 0 else 0, rep := k.rep, reps := reps }, d)

/-- Whether a lane still stands before the word in the latch: a stall, or a fault after which it issues again. -/
def Cur.stays (c : Cur) (l : Lane) : Bool :=
  match l.stat with
  | .run => l.pc == c.pc && l.clause.any fun k => k.rep == c.rep
  | .blocked (.service _) => l.trap == .none || l.trap == .handler
  | _ => false

/-- Whether a lane has stopped short of a whole instruction: at a blocking point, or exited. -/
def Lane.stopped (l : Lane) : Bool :=
  match l.stat with
  | .blocked _ | .exited => true
  | _ => false

/-- Whether a lane has stopped at a blocking point of its own, and not for a fault. -/
def Lane.waits (l : Lane) : Bool :=
  match l.stat with
  | .blocked .trapTurn | .blocked (.service _) => false
  | .blocked _ => true
  | _ => false

/-- The lanes of a word noted as held before their turn in replay, or as free to go on (R141, R143). -/
def State.noteTurn (s : State) (c : Cur) (held : Bool) : State :=
  s.modThr c.core c.bctx c.w fun t => { t with turned := if held then t.turned ||| c.lanes else t.turned &&& ~~~c.lanes }

/-- Lanes that have issued the stepped instruction leave the step's list, and so do those that have stopped or trapped before it;
one that stops at a blocking point ends it with BLOCKED (R150, R151).  `pre` is the party before, and `c` the word that has
issued, if one has. -/
def State.noteStep (s : State) (core bctx w : Nat) (pre : Thr) (c : Option Cur) : State :=
  if s.stepctl.active ∧ s.stepctl.core.toNat = core ∧ s.stepctl.bctx.toNat = bctx ∧ s.stepctl.warp.toNat = w then
    match s.thr? core bctx w with
    | none => { s with stepctl := { s.stepctl with todo := [] } }
    | some t =>
      let out (i : Nat) : Bool :=
        let l := t.lane i
        l.stopped || l.trap != (pre.lane i).trap
          || c.any fun k => k.lanes.getLsbD i && !k.stays l && !l.midInstr
      { s with stepctl := { s.stepctl with
          todo := s.stepctl.todo.filter fun i => !out i
          blocked := s.stepctl.blocked || s.stepctl.todo.any fun i => (t.lane i).waits && !(pre.lane i).waits } }
  else s

end Sys2Proof.Machine
end

