-- ==== Sys2Proof/Machine/Boot.lean ====
section
/-! DEFINITION. How a block starts (R118, R156), and how one instruction is placed where the next step fetches it. -/

namespace Sys2Proof.Machine

/-- A lane at block start (R156). -/
def Lane.start (pc : DWord) : Lane :=
  { pc := pc, mr := 1, stat := .run, trap := .none, savedMr := 1, savedStat := .run, savedClause := none, clause := none,
    via := none }

/-- A party at block start (R156): `n` lanes at `pc`, `rows` lane registers zero and full, accumulator rows undefined. -/
def Thr.start (n : Nat) (pc : DWord) (rows seed : Nat) : Thr :=
  { lanes := List.replicate n (Lane.start pc)
    preds := List.replicate 7 0
    frm := 0
    srSeed := 0
    srCnt := List.replicate 32 0
    poolb := rows
    lseq := 0
    cpystat := 0
    tokens := List.replicate 8 0
    loops := List.replicate 3 { active := false, lc := 0, start := 0, stop := 0, mask := 0 }
    rows := (List.range rows).map fun r => (r, List.replicate 32 0)
    rowSeed := seed
    empty := []
    marks := List.replicate 16 0
    stage := 0
    tcause := 0
    tpc := 0
    tnpc := 0
    taddr := 0
    tmask := 0
    tword := 0
    tsite := 0
    tscr := List.replicate 4 (List.replicate 32 0)
    trapQ := []
    handling := none
    asyncQ := []
    lost := 0
    tagRec := none
    hits := []
    arrive := []
    arrived := []
    waited := []
    since := none
    turned := 0
    copyStall := false
    lastLane := 0
    terminated := false }

/-- The participants of b0 at block start: every warp and every present stream (R156). -/
def NodeInfo.parties (i : NodeInfo) : List Nat :=
  (if i.isCopy then [] else List.range i.wpb) ++ (if i.mtxPc = 0 then [] else [32]) ++ (if i.accPc = 0 then [] else [33])

/-- A 34-bit party mask (R288). -/
def partyMask (l : List Nat) : BitVec 34 := l.foldl (fun m w => m ||| BitVec.ofNat 34 (2 ^ w)) 0

/-- The uniform registers at block start (R118, R156). -/
def NodeInfo.startS (i : NodeInfo) : NMap DWord :=
  [(1, i.param),
   (2, if i.isCopy then 0 else at64 0 i.gx.toNat ||| at64 32 i.gy.toNat),
   (3, if i.isCopy then 0 else BitVec.ofNat 64 i.rank),
   (4, zext 64 i.nodeId),
   (5, zext 64 i.launches),
   (6, if i.isCopy then 0
       else at64 0 i.wpb ||| at64 6 i.bpg ||| at64 10 i.poolRows ||| at64 32 i.accRows),
   (7, if i.isCopy then 0 else at64 0 i.gangX.toNat ||| at64 32 i.gangY.toNat)]

/-- The streams of a block at start (R155): every warp, and the matrix and access streams that are present. -/
def NodeInfo.startThrs (i : NodeInfo) (seed : Nat) : NMap Thr :=
  (if i.isCopy then [] else (List.range i.wpb).map fun w => (w, Thr.start 32 i.lanePc i.poolRows (seed + w)))
    ++ (if i.mtxPc = 0 then [] else [(32, Thr.start 1 i.mtxPc 0 seed)])
    ++ (if i.accPc = 0 then [] else [(33, Thr.start 1 i.accPc 0 seed)])

/-- A block at start (R118, R156). -/
def Blk.start (adm : Nat) (i : NodeInfo) (seed tick : Nat) (tiles : List Nat) (banks : List (Nat × Nat))
    (scaleCol : Nat)
    (acc : Option Nat) : Blk :=
  { adm := adm
    info := i
    stat := .resident
    s := i.startS
    sEmpty := []
    sWriter := []
    q := 0
    bars := { init := true, parts := partyMask i.parties, arrived := 0, phase := 0 }
      :: List.replicate 15 { init := false, parts := 0, arrived := 0, phase := 0 }
    tileRefs := tiles
    spad := []
    spadSeed := seed
    spadPoison := []
    spadBanks := banks.map fun p => p.1
    spadAt := banks.map fun p => p.2
    scaleCol := scaleCol
    accCtx := acc
    thrs := i.startThrs seed
    svc := false
    wdog := 0
    wdogAt := tick
    halted := false
    stepping := false
    tokenHolder := 0
    tokenEdge := 0
    startAt := tick
    failed := none
    parkReason := 0
    stuckSince := none, imgSeed := 0 }

/-! ### One instruction in place (log entry 3) -/

/-- Virtual and physical address of the clause that `placeWord` stores. -/
def placeVa : DWord := 0x400000
/-- Home address of that clause. -/
def placePa : Nat := 0x100000

/-- The party that issues a placed instruction: the matrix stream for class 5, the access stream for STAGEW, warp 0
otherwise. -/
def placeParty (cls : Nat) (i : Option Instr) : Nat :=
  if cls = 5 then 32
  else match i with
    | some (.stagew _ _) => 33
    | _ => 0

/-- The node of the placed block: one warp with 128 lane registers, and both streams. -/
def placeInfo : NodeInfo :=
  { slot := 0, seq := 0, ctx := 0, node := 0, nodeId := 1, isCopy := false, gangId := 0, g := 0, gx := 0, gy := 0,
    rank := 0, gangX := 1, gangY := 1, bpg := 1, wpb := 1, poolRows := 128, accRows := 0, spadB := 0, scaleB := 0,
    tiles := 0, param := 0, launches := 0, lanePc := placeVa, mtxPc := placeVa, accPc := placeVa }

/-- The bytes of the placed clause: a header of the instruction's class, the instruction's words, and for a REP the NOP
that it repeats. -/
def placeBytes (cls : Nat) (ws : List Word) : List Byte :=
  ((BitVec.ofNat 32 (0xB4038000 + 16 * cls + ws.length) :: ws).map fun w => leBytes 4 w.toNat).flatten

/-- The state with an instruction stored where the next step fetches it: context 0 enabled, the clause's page in the
TLB, a resident block on core 0, and its party in focus. -/
def State.placeWord (s : State) (nbits w : Nat) : State :=
  let i := decodeTableWord nbits w
  let cls := tableClass nbits w
  let all := wordsOf (w % 2 ^ nbits) 5
  let n := match decode cls all with
    | .ok (_, n) => n
    | .error _ => 1
  let n := match i with
    | some (.rep _) => 2
    | _ => n
  let s1 := s.modCtx 0 fun c => { c with en := true }
  let s2 := { s1 with
    mem := { s1.mem with bytes := writeBytes s1.mem.bytes placePa (placeBytes cls (all.take n)) }
    xl := { s1.xl with
      tlb := { tlb := 0, ctx := 0, ats := none, page := pageOf placeVa,
               leaf := { pa := placePa, r := true, w := false, x := true, pub := false, tagm := 0, comm := 0,
                         priv := false, host := false, uc := false, peer := none } } :: s1.xl.tlb }
    inputs := []
    focus := some (0, 0, placeParty cls i) }
  s2.setBlk 0 0 (Blk.start 0 placeInfo 0 s.tick [] [] 0 (some 0))

end Sys2Proof.Machine
end

