-- ==== Sys2Proof/Machine/Operands.lean ====
section
/-! DEFINITION. Operands: what each selector reads (R301, R302, R304, R369), and the gates of the lane and uniform words
in the order of R308 (opcode and stream, privilege, reserved fields, register ranges, readiness). -/

namespace Sys2Proof.Machine

/-! ### Lane sources (R301) -/

/-- FP32 to FP64, exactly: how a 32-bit uniform register or literal widens in an FP64 form (R301).  Infinities and NaNs
keep their fraction bits. -/
def widenF32 (x : Word) : DWord :=
  let sign := (fld x 31 1).toNat
  let e := (fld x 23 8).toNat
  let f := (fld x 0 23).toNat
  if e = 255 then BitVec.ofNat 64 (sign * 2 ^ 63 + 2047 * 2 ^ 52 + f * 2 ^ 29)
  else if e = 0 then
    if f = 0 then BitVec.ofNat 64 (sign * 2 ^ 63)
    else
      let k := Nat.log2 f
      BitVec.ofNat 64 (sign * 2 ^ 63 + (k + 874) * 2 ^ 52 + (f - 2 ^ k) * 2 ^ (52 - k))
  else BitVec.ofNat 64 (sign * 2 ^ 63 + (e + 896) * 2 ^ 52 + f * 2 ^ 29)

/-- The 32-bit value a lane selector names (R301). -/
def srcW (t : Thr) (b : Blk) (sel : BitVec 8) (lit : Word) (l : Nat) : Word :=
  if sel.toNat < 128 then t.reg sel.toNat l
  else if sel = 0xFF then lit
  else (b.sreg (sel.toNat - 128)).setWidth 32

/-- The 64-bit integer value a lane selector names: a pair, or a 32-bit value sign-extended (R301). -/
def srcI64 (t : Thr) (b : Blk) (sel : BitVec 8) (lit : Word) (l : Nat) : DWord :=
  if sel.toNat < 128 then t.reg64 sel.toNat l else sext 64 (srcW t b sel lit l)

/-- The FP64 value a lane selector names: a pair, or an FP32 value converted exactly (R301). -/
def srcF64 (t : Thr) (b : Blk) (sel : BitVec 8) (lit : Word) (l : Nat) : DWord :=
  if sel.toNat < 128 then t.reg64 sel.toNat l else widenF32 (srcW t b sel lit l)

/-- The base of a class 3 address: a pair, all 64 bits of a uniform register, or the literal sign-extended (R304). -/
def srcBase (t : Thr) (b : Blk) (sel : BitVec 8) (lit : Word) (l : Nat) : DWord :=
  if sel.toNat < 128 then t.reg64 sel.toNat l
  else if sel = 0xFF then sext 64 lit
  else b.sreg (sel.toNat - 128)

/-- The index of a class 3 address, sign-extended from 32 bits (R304). -/
def srcIndex (t : Thr) (b : Blk) (sel : BitVec 8) (lit : Word) (l : Nat) : DWord := sext 64 (srcW t b sel lit l)

/-! ### Register ranges (R167, R308 step 4) -/

/-- Whether a lane selector stays within the lane registers for its kind. -/
def selInRange (t : Thr) (k : SrcK) (sel : BitVec 8) : Bool :=
  if 128 ≤ sel.toNat then true
  else match k with
    | .un | .ctl => true
    | .w32 => decide (sel.toNat < t.poolb)
    | .i64 | .f64 | .base => sel.toNat % 2 == 0 && decide (sel.toNat + 1 < t.poolb)
    | .q128 => sel.toNat % 4 == 0 && decide (sel.toNat + 3 < t.poolb)

/-- Whether VD stays within the lane registers for its form. -/
def vdInRange (t : Thr) (f : LaneForm) (vd : BitVec 7) : Bool :=
  if f.wr = 0 ∧ f.rd = 0 then true
  else vd.toNat % f.al == 0 && decide (vd.toNat + max f.wr f.rd ≤ t.poolb)

/-! ### Readiness (R172, R308 step 5) -/

/-- The lane registers a selector of a kind names. -/
def selRegs (k : SrcK) (sel : BitVec 8) : List Nat :=
  if 128 ≤ sel.toNat then []
  else match k with
    | .un | .ctl => []
    | .w32 => [sel.toNat]
    | .i64 | .f64 | .base => [sel.toNat, sel.toNat + 1]
    | .q128 => [sel.toNat, sel.toNat + 1, sel.toNat + 2, sel.toNat + 3]

/-- The uniform register a lane selector of a kind names; s0 is always full. -/
def selUni (k : SrcK) (sel : BitVec 8) : Option Nat :=
  match k with
  | .un | .ctl => none
  | _ => if 129 ≤ sel.toNat ∧ sel ≠ 0xFF then some (sel.toNat - 128) else none

/-- A source's readiness: an empty register waits, or raises REG_EMPTY when its trap bit is set (R172). -/
def srcGate (t : Thr) (b : Blk) (k : SrcK) (sel : BitVec 8) (trap : Bool) : Gate :=
  match (selRegs k sel).find? t.isEmpty with
  | some r => if trap then .trap .regEmpty else .wait (.emptyReg false r)
  | none => match selUni k sel with
    | some r => if b.sIsEmpty r then (if trap then .trap .regEmpty else .wait (.emptyReg true r)) else .go
    | none => .go

/-- VD's readiness: a register it writes or reads that is empty waits and never traps (R172). -/
def vdGate (t : Thr) (f : LaneForm) (vd : BitVec 7) : Gate :=
  match ((List.range (max f.wr f.rd)).map (vd.toNat + ·)).find? t.isEmpty with
  | some r => .wait (.emptyReg false r)
  | none => .go

/-! ### Lane gate -/

/-- Whether the warp an ACCRD or ACCWR names is one of the block's (R174, R383). -/
def accWarpOk (b : Blk) : Instr → Bool
  | .accrd w _ | .accwr w _ => decide (w.sb.toNat % 32 < b.info.wpb)
  | _ => true

/-- Whether a class 3 word asks for NOTAG (R304). -/
def usesNotag : Instr → Bool
  | .ld _ x | .st _ x | .lds _ x | .sts _ x | .atom _ x | .atomcas _ x | .red _ x | .atoms _ x | .atomscas _ x
  | .cadd _ x | .fence _ x | .codepub _ x | .waitaddr _ x | .wakeaddr _ x | .pref _ x | .wbl _ x | .invl _ x
  | .tagld _ x | .tagst _ x | .accrd _ x | .accwr _ x => x.notag
  | _ => false

/-- The checks of R308, steps 2 to 5, for a lane word; a word with no active lanes stops after step 4 (R299). -/
def laneGate (i : Instr) (w : LaneW) (c : Cur) (b : Blk) (t : Thr) (act : Word) : Gate :=
  let f := laneForm i
  Gate.first
    [ Gate.unless (!(usesNotag i) || t.privileged c.lanes) .privilegedUse,
      Gate.unless (reservedOk i) .reservedField,
      Gate.unless (selInRange t f.a w.sa && selInRange t f.b w.sb
        && (match thirdSel i with
          | some (sc, _) => selInRange t .w32 sc
          | none => true)
        && vdInRange t f w.vd && accWarpOk b i) .operandRange,
      if act = 0 then .go
      else Gate.first
        [ srcGate t b f.a w.sa w.ea, srcGate t b f.b w.sb w.eb,
          (match thirdSel i with
            | some (sc, ec) => srcGate t b .w32 sc ec
            | none => .go),
          vdGate t f w.vd ] ]

/-- The uniform registers a lane word reads. -/
def laneUnis (i : Instr) (w : LaneW) : List Nat :=
  ((selUni (laneForm i).a w.sa).toList ++ (selUni (laneForm i).b w.sb).toList
    ++ (match thirdSel i with
      | some (sc, _) => (selUni .w32 sc).toList
      | none => []))

/-- Accesses to uniform registers that another issuer of the block wrote last since the block's last barrier completion
are shared-state operations (R125). -/
def State.noteUnis (s : State) (c : Cur) (b : Blk) (rs : List Nat) (writes : Bool) : State :=
  rs.foldl
    (fun s r => match nget b.sWriter r with
      | some w => if w = c.w then s
          else s.note c.core (issuerOf c.bctx c.w) (lowestLane c.lanes) (objUni c.core c.bctx r) writes none none
      | none => s) s

/-- Whether a word may make the operations that its accesses to uniform registers are: behind an acquire that has not bound, and
out of turn, it is held (R125, R141, R232). -/
def State.uniTurn (s : State) (c : Cur) (b : Blk) (rs : List Nat) : Bool :=
  (rs.all fun r => match nget b.sWriter r with
      | some w => w == c.w
      | none => true)
    || (!s.heldBack c.core c.bctx c.w b.adm c.lanes && s.mayStart c.core (issuerOf c.bctx c.w) (lowestLane c.lanes))

/-- A lane word: its gate, then its effect on the active lanes (R308). -/
def laneWordOp (i : Instr) (w : LaneW) (s : State) (f : Cur → Blk → Thr → Word → State) :
    Host.Outcome State Fault Refusal :=
  withParty s fun c b t =>
    let act := activeLanes c t w.g
    match laneGate i w c b t act with
    | .go => if act ≠ 0 ∧ !s.uniTurn c b (laneUnis i w) then s.stall c else f c b t act
    | g => s.refuse c b t (faultLanes c act) g

/-- A register-only lane word: `f` gives the party after the word, which all lanes of the sub-warp then leave. -/
def laneAlu (i : Instr) (w : LaneW) (s : State) (f : Cur → Blk → Thr → Word → Thr) :
    Host.Outcome State Fault Refusal :=
  laneWordOp i w s fun c b t act =>
    let s1 := if act = 0 then s else s.noteUnis c b (laneUnis i w) false
    (s1.modThr c.core c.bctx c.w fun _ => f c b t act).retire c c.lanes

/-- A register-only lane word with a 32-bit result in each active lane. -/
def laneOut (i : Instr) (w : LaneW) (s : State) (f : Cur → Blk → Thr → Nat → Word) : Host.Outcome State Fault Refusal :=
  laneAlu i w s fun c b t act => t.putRow w.vd.toNat act (f c b t)

/-- A register-only lane word with a 64-bit result in each active lane. -/
def laneOut64 (i : Instr) (w : LaneW) (s : State) (f : Cur → Blk → Thr → Nat → DWord) :
    Host.Outcome State Fault Refusal :=
  laneAlu i w s fun c b t act => t.putPair w.vd.toNat act (f c b t)

/-- A two-source word (R325). -/
def lane2 (i : Instr) (w : LaneW) (s : State) (f : Word → Word → Word) : Host.Outcome State Fault Refusal :=
  laneOut i w s fun _ b t l => f (srcW t b w.sa w.lit l) (srcW t b w.sb w.lit l)

/-- A one-source word (R326). -/
def lane1 (i : Instr) (w : LaneW) (s : State) (f : Word → Word) : Host.Outcome State Fault Refusal :=
  laneOut i w s fun _ b t l => f (srcW t b w.sa w.lit l)

/-- A two-source word that reads VD (R327): old value, a, b. -/
def lane3 (i : Instr) (w : LaneW) (s : State) (f : Word → Word → Word → Word) : Host.Outcome State Fault Refusal :=
  laneOut i w s fun _ b t l => f (t.reg w.vd.toNat l) (srcW t b w.sa w.lit l) (srcW t b w.sb w.lit l)

/-! ### Uniform sources (R302, R335) -/

/-- The 64-bit value a uniform selector names: a uniform register, or the literal sign-extended (R302). -/
def srcU (b : Blk) (sel : BitVec 8) (lit : Word) : DWord := if sel = 0xFF then sext 64 lit else b.sreg sel.toNat

/-- A uniform source's readiness (R172). -/
def uniSrcGate (b : Blk) (sel : BitVec 8) (trap : Bool) : Gate :=
  if sel ≠ 0xFF ∧ b.sIsEmpty sel.toNat then (if trap then .trap .regEmpty else .wait (.emptyReg true sel.toNat)) else .go

/-- A uniform register field that is written, or read as data without a trap bit: an empty register waits (R172). -/
def uniRegGate (b : Blk) (r : Nat) : Gate := if b.sIsEmpty r then .wait (.emptyReg true r) else .go

/-- Reserved fields of a uniform word that depend on the stream that issues it: a lane destination or source in a
matrix or access stream (R437). -/
def streamFieldsOk (w : Nat) : Instr → Bool
  | .sread u | .swrite u => !u.eb || decide (w < 32)
  | .bra u => decide (w < 32) || u.pred == 7
  | .loopbrk u => decide (w < 32) || u.pred == 7
  | .brx u | .ret u => decide (w < 32) || !u.vr
  | _ => true

/-- Words that are privileged: legal in handler mode only (R442, R445, R280). -/
def privilegedWord : Instr → Bool
  | .tret _ | .cfgbank _ => true
  | .sread w | .swrite w => decide (0x10 ≤ w.sb.toNat) && decide (w.sb.toNat ≤ 0x1B)
  | _ => false

/-- Steps 1 to 3 of R308 for a word of classes 4 to 6. -/
def ctlGate (i : Instr) (c : Cur) (t : Thr) : Gate :=
  Gate.first
    [ Gate.unless (!refusedIn c.w i) .illegalOpcode,
      Gate.unless (!privilegedWord i || (decide (c.w < 32) && t.privileged c.lanes)) .privilegedUse,
      Gate.unless (reservedOk i && streamFieldsOk c.w i) .reservedField ]

/-- Step 4 and 5 of R308 for a word in the uniform layout: SD 255 as a register (R168), and empty registers (R172). -/
def uniOperandGate (i : Instr) (w : UniW) (b : Blk) : Gate :=
  let f := uniForm i
  let usesD := f.d == .dst || f.d == .data
  Gate.first
    [ Gate.unless (!(usesD && w.sd == 0xFF)) .operandRange,
      if f.a = .src then uniSrcGate b w.sa w.ea else .go,
      if f.b = .src then uniSrcGate b w.sb w.eb else .go,
      if usesD then uniRegGate b w.sd.toNat else .go ]

/-- The uniform registers a uniform word reads. -/
def uniUnis (i : Instr) (w : UniW) : List Nat :=
  let f := uniForm i
  ((if f.a = .src ∧ w.sa ≠ 0xFF then [w.sa.toNat] else []) ++ (if f.b = .src ∧ w.sb ≠ 0xFF then [w.sb.toNat] else [])
    ++ (if f.d = .data then [w.sd.toNat] else [])).filter (· != 0)

/-- The uniform registers a uniform word reads or writes. -/
def uniTouched (i : Instr) (w : UniW) : List Nat := uniUnis i w ++ (if (uniForm i).d = .dst then [w.sd.toNat] else []).filter (· != 0)

/-- A word of classes 4 to 6 with a layout of its own: steps 1 to 3, further gates, then its effect. -/
def ctlWordOp (i : Instr) (s : State) (more : Cur → Blk → Thr → Gate) (f : Cur → Blk → Thr → State) :
    Host.Outcome State Fault Refusal :=
  withParty s fun c b t =>
    match Gate.first [ctlGate i c t, more c b t] with
    | .go => f c b t
    | g => s.refuse c b t c.lanes g

/-- A word of classes 4 to 6 with a layout of its own that touches uniform registers: it is held until its operations on them may be
made (R125, R232). -/
def ctlUniOp (i : Instr) (s : State) (rs : Cur → List Nat) (more : Cur → Blk → Thr → Gate) (f : Cur → Blk → Thr → State) :
    Host.Outcome State Fault Refusal :=
  ctlWordOp i s more fun c b t => if !s.uniTurn c b (rs c) then s.stall c else f c b t

/-- A word in the uniform layout: its gates, then its effect, which sees the state with the word's uniform reads
recorded (R125). -/
def uniWordOp (i : Instr) (w : UniW) (s : State) (f : State → Cur → Blk → Thr → State) :
    Host.Outcome State Fault Refusal :=
  ctlUniOp i s (fun _ => uniTouched i w) (fun _ b _ => uniOperandGate i w b) fun c b t =>
    f (s.noteUnis c b (uniUnis i w) false) c b t

/-- A uniform result written and the word left (R335, R338). -/
def State.putUni (s : State) (c : Cur) (b : Blk) (r : Nat) (v : DWord) : State :=
  ((s.noteUnis c b [r] true).modBlk c.core c.bctx fun b => b.putS r v c.w).retire c c.lanes

/-- Uniform arithmetic (R336). -/
def uniAlu (i : Instr) (w : UniW) (s : State) (f : DWord → DWord → DWord) : Host.Outcome State Fault Refusal :=
  uniWordOp i w s fun s c b _ => s.putUni c b w.sd.toNat (f (srcU b w.sa w.lit) (srcU b w.sb w.lit))

end Sys2Proof.Machine
end

