-- ==== Sys2Proof/Machine/Access.lean ====
section
/-! DEFINITION. Memory accesses up to the moment they leave the core (R188 to R191, R211, R222, R275, R369 to R374): how
an address is decoded and checked, how the lanes of a word form requests, when a request enters its home's queue, and
what acquires, releases and fences hold back (R230 to R232). -/

namespace Sys2Proof.Machine

/-! ### What a word asks (R369) -/

/-- A memory word as the checks and the homes see it. -/
structure MemForm where
  kind : ReqKind
  ak : AccKind
  bytes : Nat
  space : Nat := 0
  narrow : Bool := false
  tagged : Bool := true
  notag : Bool := false
  order : Nat := 0
  scope : Nat := 3
  reuse : BitVec 2 := 0
  inv : Bool := false
  sgn : Bool := false
  watch : Option Nat := none
  dst : Dst := .none

/-- Whether a request kind is an atomic or RED. -/
def ReqKind.isAtomic : ReqKind → Bool
  | .atom _ | .cas | .red _ => true
  | _ => false

/-- Whether an order has an acquire part (R219). -/
def hasAcquire (order : Nat) : Bool := order == 1 || order == 3
/-- Whether an order has a release part (R219). -/
def hasRelease (order : Nat) : Bool := order == 2 || order == 3

/-! ### Where an address leads (R188 to R191) -/

/-- An address decoded: global (through the parameter window or not), a window location, or a fault. -/
inductive Target where
  | glob (va : DWord) (param : Bool)
  | at (h : Home) (o : Nat)
  | bad (c : Cause)
  deriving DecidableEq, Repr

/-- Whether every warp and stream of a block has exited (R157). -/
def Blk.hasExited (b : Blk) : Bool := (b.thrs.all fun p => p.2.exited) && (b.stat == .resident || b.info.isCopy)

/-- The block of a gang with a rank, if it has not exited (R189). -/
def State.member? (s : State) (b : Blk) (rank : Nat) : Option (Nat × Blk) :=
  s.blks.find? fun p => p.2.info.gangId == b.info.gangId && p.2.info.rank == rank && p.2.info.ctx == b.info.ctx && !p.2.hasExited

/-- A window offset decoded (R189, R191, R197): window `k`, offset `o`. -/
def State.window (s : State) (c : Cur) (b : Blk) (f : MemForm) (k o : Nat) : Target :=
  match k with
  | 0 =>
    if f.kind = .waitaddr ∨ f.kind = .wakeaddr ∨ f.kind = .tagld ∨ f.kind = .tagst then .bad .addressSpace
    else match f.kind with
      | .cadd _ => .bad .addressSpace
      | _ => if b.info.isCopy ∨ b.info.spadB ≤ o then .bad .scratchRange else .at (.spad b.adm) o
  | 1 =>
    if f.kind = .waitaddr ∨ f.kind = .wakeaddr ∨ f.kind = .tagld ∨ f.kind = .tagst then .bad .addressSpace
    else match f.kind with
      | .cadd _ => .bad .addressSpace
      | _ =>
        let rank := o / 2 ^ 25 % 8
        let off := o % 2 ^ 25
        if b.info.isCopy ∨ 2 ^ 28 ≤ o ∨ b.info.bpg ≤ rank ∨ b.info.spadB ≤ off then .bad .scratchRange
        else if rank = b.info.rank then .at (.spad b.adm) off
        else match s.member? b rank with
          | some (_, m) => .at (.spad m.adm) off
          | none => .bad .scratchRange
  | 2 =>
    if f.kind = .load ∨ f.kind = .store then
      if o / 2 ^ 20 % 32 * 2 ^ 20 ≠ o then .bad .scratchRange
      else .at (.fifo (c.core / 8) (o / 2 ^ 20 % 32)) 0
    else .bad .addressSpace
  | 3 =>
    if f.kind = .waitaddr ∨ f.kind = .wakeaddr ∨ f.kind = .tagld then .bad .addressSpace
    else if 65536 ≤ o then .bad .scratchRange
    else
      let va := b.info.param + BitVec.ofNat 64 o
      if canonicalVa va && !isWindow va then .glob va true else .bad .addressSpace
  | _ => .bad .addressSpace

/-- An address decoded under its SPACE (R188); a narrow form is an offset in its window (R369). -/
def State.target (s : State) (c : Cur) (b : Blk) (f : MemForm) (va : DWord) : Target :=
  if f.narrow then s.window c b f (f.space - 2) (va.toNat % 2 ^ 32)
  else if 2 ≤ f.space then s.window c b f (f.space - 2) (va.toNat % 2 ^ 48)
  else if isWindow va then
    if f.space = 1 then .bad .addressSpace else s.window c b f (fld va 48 4).toNat (va.toNat % 2 ^ 48)
  else if canonicalVa va then .glob va false
  else .bad .addressSpace

/-! ### Checks of a lane (R275) -/

/-- Where a translated address lies, or the cause its home raises (R31, R37, R87, R88). -/
def State.placeOf (s : State) (ctx : Nat) (l : Leaf) (va : DWord) : Except Cause (Home × Nat) :=
  match l.peer with
  | some d => if s.kindling then .error .kindlingUnavailable else .ok (.peer d, untag va)
  | none =>
    if l.host then .ok (.host (s.ctx ctx).link.toNat, l.addr va)
    else match s.homeOf (l.addr va) with
      | .ok a => .ok (.mem, a)
      | .error e => .error e

/-- Whether a granule's tag matches (R211). -/
def State.tagMatches (s : State) (a : Nat) (va : DWord) (priv : Bool) : Bool :=
  s.tagOf (a / 32) == ptrTag va || (ptrTag va == 0 && priv)

/-- The window in which this device is a source and that covers an address of the context (R20). -/
def State.sourceWindow (s : State) (ctx : Nat) (va : DWord) : Option (Nat × Window) :=
  s.links.windows.find? fun p => p.2.ctx == ctx && p.2.isOpen && p.2.desc.role.getLsbD 1
    && decide (untag p.2.desc.base ≤ untag va) && decide (untag va < untag p.2.desc.base + p.2.desc.bytes)

/-- Whether a window takes a RED of this AOP and size (R20). -/
def WinDesc.takes (d : WinDesc) (aop : BitVec 5) (bytes : Nat) : Bool :=
  let float := d.ty == 2
  let sizeOk := bytes == (if d.ty = 1 then 8 else 4)
  sizeOk && (match d.op.toNat with
    | 0 => if float then aop == 11 else aop == 0
    | 1 => if float then aop == 12 else aop == 4
    | 2 => if float then aop == 13 else aop == 5
    | 3 => !float && aop == 1
    | 4 => !float && aop == 2
    | _ => !float && aop == 3)

/-- The path of a host atomic (R89, R90): 1 CXL.cache, 2 a PCIe AtomicOp, 3 a CAS loop; none is unsupported. -/
def State.hostPath (s : State) (link : Nat) (uc : Bool) (k : ReqKind) (bytes : Nat) : Option Nat :=
  let bit (n : Nat) : Bool := s.dev.hostAtom.getLsbD (8 * link + n)
  let casOk := if bytes = 4 then bit 4 else if bytes = 8 then bit 5 else bit 6
  let direct := match k with
    | .atom a | .red a =>
      if a = 0 then (if bytes = 4 then bit 0 else bytes == 8 && bit 1)
      else if a = 8 then (if bytes = 4 then bit 2 else bytes == 8 && bit 3)
      else false
    | .cas => casOk
    | _ => false
  if !uc && bit 7 then some 1 else if direct then some 2 else if casOk then some 3 else none

/-- The fault of an access to a bank in the cluster window (R197): its SIZE is w, and the bank is in FIFO mode and owned by the
context. -/
def State.fifoFault (s : State) (f : MemForm) (ctx k : Nat) : Option Cause :=
  if f.bytes ≠ 4 ∨ (s.bank k).mode ≠ .fifo then some .scratchRange
  else if (s.bank k).owner = some ctx then none
  else if f.kind = .load then some .protectionRead
  else some .protectionWrite

/-- The instruction's own checks of a translated lane, after the tag check (R190, R209, R374, R378, R382).  DESIGN CHOICE: R379 gives no fate to a
WAKEADDR that names a window or a host page; it raises ADDRESS_SPACE, as R378 says of WAITADDR (log entry 47). -/
def State.ownCheck (s : State) (f : MemForm) (l : Leaf) (h : Home) (a : Nat) (param : Bool) : Option Cause :=
  let atHost := match h with
    | .host _ => true
    | _ => false
  let away := atHost || l.peer.isSome
  match f.kind with
  | .load => none
  | .waitaddr | .wakeaddr => if away then some .addressSpace else none
  | .tagld => if away || isCapacity a then some .addressSpace else none
  | .tagst =>
    if param then some .protectionWrite
    else if away || isCapacity a then some .addressSpace
    else if l.comm ≠ 0 then some .commutativeMisuse
    else none
  | .cadd _ =>
    if param then some .protectionWrite
    else if away || l.comm == 0 || f.bytes != commSize l.comm then some .commutativeMisuse
    else none
  | .store =>
    if param then some .protectionWrite else if l.comm ≠ 0 then some .commutativeMisuse else none
  | k =>
    if param then some .protectionWrite
    else if l.comm ≠ 0 then some .commutativeMisuse
    else match h with
      | .host link => if (s.hostPath link l.uc k f.bytes).isSome then none else some .atomicUnsupported
      | _ => none

/-- What the checks of a lane decide: it goes ahead at a home, faults, joins an unanswered page fault, or needs a walk. -/
inductive LaneChk where
  | ok (h : Home) (a : Nat) (l : Option Leaf)
  | fault (c : Cause)
  | miss (page : Nat)
  | walk (va : DWord)
  deriving DecidableEq, Repr

/-- The calendar page, which no context mapping writes (R60). -/
def calPageBase : Nat := 0x1C0000000
/-- Whether a home byte lies in the calendar page (R60). -/
def inCalPage (a : Nat) : Bool := decide (calPageBase ≤ a) && decide (a < calPageBase + 65536)

/-- The checks of a translated global address, in R275's order. -/
def State.checkLeaf (s : State) (ctx : Nat) (priv : Bool) (f : MemForm) (va : DWord) (param : Bool) (l : Leaf) : LaneChk :=
  match l.check f.ak priv with
  | some k => .fault k
  | none => match s.placeOf ctx l va with
    | .error k => .fault k
    | .ok (h, a) =>
      if f.kind.writes ∧ h = .mem ∧ inCalPage a then .fault .protectionWrite
      else if l.tagm = 1 ∧ f.tagged ∧ !f.notag ∧ h = .mem ∧ !isCapacity a ∧ !s.tagMatches a va priv then .fault .tagMismatch
      else match s.ownCheck f l h a param with
        | some k => .fault k
        | none => .ok h a (some l)

/-- The checks of one lane (R275): decoding and window range, alignment, translation and protection, tags, then the
instruction's own. -/
def State.laneCheck (s : State) (c : Cur) (b : Blk) (m : Mmu) (f : MemForm) (va : DWord) : LaneChk :=
  match s.target c b f va with
  | .bad k => .fault k
  | .at (.fifo cluster k) _ => match s.fifoFault f m.ctx (bankKey cluster k) with
    | some e => .fault e
    | none => .ok (.fifo cluster k) 0 none
  | .at h o => if va.toNat % f.bytes ≠ 0 then .fault .alignment else .ok h o none
  | .glob v param =>
    if v.toNat % f.bytes ≠ 0 then .fault .alignment
    else match (if f.kind.isAtomic then s.sourceWindow m.ctx v else none) with
      | some (slot, w) =>
        if param then .fault .protectionWrite
        else if s.kindling then .fault .kindlingUnavailable
        else match f.kind with
          | .red aop => if w.desc.takes aop f.bytes then .ok (.window slot) (untag v) none else .fault .atomicUnsupported
          | _ => .fault .atomicUnsupported
      | none => match s.lookup m v with
        | .absent => .walk v
        | .faulted => .miss (pageOf v)
        | .hit l => s.checkLeaf m.ctx m.priv f v param l

/-! ### Requests (R125, R194) -/

/-- A lane that goes ahead: lane, address, the global address it leads to (R190), home, home address, leaf, and whether it came
through the parameter window, whose reads are INV loads (R190). -/
structure LaneGo where
  lane : Nat
  va : DWord
  gva : DWord
  h : Home
  a : Nat
  l : Option Leaf
  param : Bool

/-- The key of the object a lane touches: its line, or the whole FIFO entry. -/
def LaneGo.line (g : LaneGo) : Nat :=
  match g.h with
  | .fifo _ _ => 0
  | _ => g.a / 128

/-- Lanes grouped by the object they touch, in ascending order of lowest lane. -/
def groupGo : List LaneGo → List (List LaneGo)
  | [] => []
  | g :: rest =>
    let tail := groupGo rest
    let mine (k : List LaneGo) : Bool := k.any fun x => x.h == g.h && x.line == g.line
    (g :: (tail.filter mine).flatten) :: tail.filter fun k => !mine k

/-- An address in generic form without its tag. -/
def genericVa (f : MemForm) (va : DWord) : Nat :=
  let base (k : Nat) : Nat := 0xF0F0000000000000 + k * 2 ^ 48
  let strip (x : Nat) : Nat := x / 2 ^ 60 * 2 ^ 60 + x % 2 ^ 56
  if f.narrow then base (f.space - 2) + va.toNat % 2 ^ 32
  else if 2 ≤ f.space then base (f.space - 2) + va.toNat % 2 ^ 48
  else strip va.toNat

/-- The low bytes of a value, zero-extended. -/
def lowBytes (n : Nat) (v : QWord) : QWord := BitVec.ofNat 128 (v.toNat % 2 ^ (8 * n))

/-- The request of one group. -/
def reqOf (c : Cur) (b : Blk) (t : Thr) (f : MemForm) (priv : Bool) (id : Nat) (data cmp : Nat → QWord)
    (gs : List LaneGo) : Req :=
  let l := (gs.head?.bind fun g => g.l)
  { id := id, core := c.core, bctx := c.bctx, w := c.w, low := lowestLane c.lanes, adm := b.adm, ctx := b.info.ctx,
    kind := match f.kind, l with
      | .cadd _, some x => .cadd x.comm
      | k, _ => k
    size := f.bytes, sgn := f.sgn, home := (gs.head?.elim .mem fun g => g.h), line := (gs.head?.elim 0 LaneGo.line),
    mask := lanesMask (gs.map fun g => g.lane)
    ops := gs.map fun g =>
      { lane := g.lane, va := g.va, gen := genericVa f g.va, addr := g.a, data := data g.lane, cmp := cmp g.lane, gva := g.gva,
        atag := (g.l.elim false fun x => x.tagm == 2) && g.h == .mem && f.tagged && !f.notag, fmt := g.l.elim 0 fun x => x.comm },
    dst := f.dst, stage := .queued, got := [], err := none,
    uc := gs.any fun g => g.l.elim false fun x => x.uc
    pub := gs.any fun g => g.l.elim false fun x => x.pub
    inv := f.inv || (f.kind == .load && gs.any fun g => g.param),
    acq := hasAcquire f.order,
    privileged := priv, reuse := f.reuse, hold := hasRelease f.order && f.kind.writes, tries := 0, sentN := 0, bad := 0, pc := c.pc,
    word := c.word, ext := c.ext, lseq := t.lseq, rep := BitVec.ofNat 6 c.rep, next := c.next }

/-- Whether a request reaches memory through a page that checks tags asynchronously in some lane (R212). -/
def Req.asyncTag (r : Req) : Bool := r.ops.any fun o => o.atag

/-! ### What holds a request back -/

/-- Whether a release fence or CODEPUB of the issuer stands before a write (R230, R244). -/
def State.fenced (s : State) (r : Req) : Bool :=
  r.kind.writes && s.rels.any fun k =>
    k.core == r.core && k.bctx == r.bctx && k.w == r.w && k.adm == r.adm && decide (k.id < r.id) &&
      (match k.act with
        | .fence _ m => m &&& r.lanes != 0
        | .codepub _ _ => true
        | _ => false)

/-- Whether an earlier request of the same issuer to the same object has not left the core yet (R223).  A release store holds back
only accesses to its own bytes (R230). -/
def State.behindOwn (s : State) (r : Req) : Bool :=
  s.reqs.any fun q => q.sameParty r && q.sameObj r && decide (q.id < r.id) && (q.stage == .queued || q.unsent)
    && (!q.hold || q.overlaps r)

/-- Whether an earlier request of the same issuer on a line of host memory is still open: a later one is sent after it (R223). -/
def State.behindHost (s : State) (r : Req) : Bool :=
  s.reqs.any fun q => q.sameParty r && q.sameObj r && decide (q.id < r.id) && q.open && !q.hold

/-- Whether recording or replay holds a request in its core: while MODE is 1 or 2 an earlier request or release of its issuer has
still to take effect (R126), and in replay it is held until its turn (R141). -/
def State.outOfTurn (s : State) (r : Req) : Bool :=
  s.recd.mode != 0 && r.kind != .pref &&
    ((s.reqs.any fun q => q.sameParty r && decide (q.id < r.id) && q.open && q.kind != .pref && !(q.kind == .waitaddr && q.stage == .waiting))
      || (s.rels.any fun k => k.core == r.core && k.bctx == r.bctx && k.w == r.w && k.adm == r.adm && decide (k.id < r.id)
        && (match k.act with
          | .write _ => false
          | _ => true))
      || (s.replaying && !s.mayOp r.core (issuerOf r.bctx r.w) r.low))

/-- The bank a scratchpad line lies in (R193). -/
def Blk.bankOf (b : Blk) (line : Nat) : Nat := b.spadBanks.getD (line % b.spadBanks.length) 0

/-- A bank changed. -/
def State.modBank (s : State) (k : Nat) (f : Bank → Bank) : State :=
  { s with clusters := nmod k Bank.reset f s.clusters }

/-- The bank a request queues at, if it goes to one (R194, R197). -/
def State.bankFor (s : State) (h : Home) (line : Nat) : Option Nat :=
  match h with
  | .spad adm => (s.blkOf adm).map fun p => bankKey (p.1 / 128) (p.2.bankOf line)
  | .fifo cluster bank => some (bankKey cluster bank)
  | _ => none

/-- Whether a bank has room for one more request (R194) and is not changing its mode (R192). -/
def State.bankOpen (s : State) (k : Nat) : Bool :=
  decide ((s.bank k).queue.length < 32) && (s.bank k).change.isNone

/-! ### Operations as the recorder sees them -/

/-- Whether an access changes its object, for conflicts (R128). -/
def ReqKind.modifies : ReqKind → Bool
  | .load | .tagld | .fetch | .pref => false
  | _ => true

/-- The CLOSE code of a request's operation (R127). -/
def ReqKind.close : ReqKind → Option Nat
  | .atom _ | .cas | .red _ | .cadd _ => some 3
  | _ => none

/-- Whether a request is an atomic that returns or reads a value (R372, R374). -/
def ReqKind.atomicKind : ReqKind → Bool
  | .atom _ | .cas => true
  | _ => false

/-- Whether the recorder lets a request take effect (R141). -/
def State.mayReq (s : State) (r : Req) : Bool := s.mayOp r.core (issuerOf r.bctx r.w) r.low

/-- A request that takes effect on another device recorded when it is sent (R125). -/
def State.noteAway (s : State) (r : Req) : State :=
  s.note r.core (issuerOf r.bctx r.w) r.low objNone r.kind.modifies none r.kind.close

/-- The words of a value of `n` bytes in a VALUE record (R134). -/
def hostWords (n : Nat) (v : QWord) : List DWord := if n = 16 then [v.setWidth 64, (v >>> 64).setWidth 64] else [v.setWidth 64]

/-! ### Sending to other agents (R16, R88, R89, R20) -/

/-- The port that carries traffic with a peer for a line: a hash over the ports in service, moved shares included
(R16, R17). -/
def State.portFor (s : State) (dev : BitVec 16) (line : Nat) : Nat :=
  let p := Config.planeHash (dev.toNat * 2 ^ 64 + line) % 24
  ngetD s.links.moved p p

/-- A message number for a peer (R133). -/
def State.nextMseq (s : State) (dev : BitVec 16) : State × Word :=
  let n := ngetD s.links.mseq dev.toNat 0
  ({ s with links := { s.links with mseq := nput dev.toNat (n + 1) s.links.mseq } }, n)

/-- The sending side of a virtual channel. -/
def State.chan (s : State) (port vc : Nat) : VChan := ((s.links.ports.getD port VPort.reset).vcs).getD vc VChan.reset

/-- A port changed. -/
def State.modPort (s : State) (port : Nat) (f : VPort → VPort) : State :=
  { s with links := { s.links with ports := lmod port f s.links.ports } }

/-- Whether a channel takes a flit: the port is in service and the channel has not used up what it may send after a stop
(R15, R34). -/
def State.chanOpen (s : State) (port vc : Nat) : Bool :=
  (s.links.ports.getD port VPort.reset).st == 1 && (!(s.chan port vc).stopped || decide (0 < (s.chan port vc).credit))

/-- Whether a flit may be sent now: its channel takes it, and no slot holds the port (R57). -/
def State.maySend (s : State) (port vc : Nat) : Bool := s.chanOpen port vc && !s.linkDown port

/-- The virtual channel a message travels on (R15, R62). -/
def vcOf : PeerOp → Nat
  | .answer _ _ _ | .stamp _ _ _ => 1
  | .copyWrite _ _ _ | .coll _ _ _ _ _ => 2
  | .contrib _ _ _ _ _ _ | .merged _ _ _ _ _ _ _ => 3
  | _ => 0

/-- A message sent to a device in a flit: kept in the replay buffer of the last 64, and counted against a stop (R14, R15).
In replay, a message to a device outside the replay set is discarded (R142). -/
def State.sendFlit (s : State) (port : Nat) (dev : BitVec 16) (m : PeerMsg) : State :=
  if s.replaying && !s.inRepset dev then s
  else (s.modPort port fun p =>
    { p with
      sent := p.sent + 1
      replayBuf := (p.replayBuf ++ [(p.sent, m)]).drop ((p.replayBuf.length + 1) - 64)
      vcs := lmod (vcOf m.op) (fun v => if v.stopped then { v with credit := v.credit - 1 } else v) p.vcs }).emit
        (.flit port (vcOf m.op) m)

/-- This device's DEVID (R123). -/
def State.devid (s : State) : BitVec 16 := s.recd.devid

/-- What a lane's part of a request asks of a peer (R88). -/
def peerOp (r : Req) (o : LaneOp) : PeerOp :=
  let va : DWord := o.gva
  match r.kind with
  | .store => .store va (leBytes r.size o.data.toNat)
  | .atom a | .red a => .atom a r.size va o.data
  | .cas => .cas r.size va o.cmp o.data
  | _ => .load va r.size

/-- A message sent to a device with the next number for it (R133). -/
def State.sendMsg (s : State) (port : Nat) (dev : BitVec 16) (ctx tag : Nat) (op : PeerOp) : State :=
  let (t, n) := s.nextMseq dev
  t.sendFlit port dev { src := s.devid, mseq := n, ctx := ctx, tag := tag, op := op }

/-- Whether a port can carry a core's traffic for a line now: no slot holds it or the way to it (R12, R57). -/
def State.portOpen (s : State) (core port line : Nat) : Bool :=
  !(s.linkDown port || s.routeHeld (coreDie core) (hearthDie (port / 12)) line)

/-- The lanes of a peer request sent in turn while the channel may carry a flit (R15), with how many were. -/
def State.sendLanes (s : State) (r : Req) (dev : BitVec 16) (port : Nat) : List LaneOp → State × Nat
  | [] => (s, 0)
  | o :: rest =>
    if !s.maySend port 0 then (s, 0)
    else
      let (t, n) := (s.sendMsg port dev r.ctx (r.id * 32 + o.lane) (peerOp r o)).sendLanes r dev port rest
      (t, n + 1)

/-- A request sent to a peer device: one message per lane, as far as the channel takes them; an unreachable peer completes it
with FABRIC_ERROR (R88). -/
def State.sendPeer (s : State) (r : Req) (dev : BitVec 16) : State :=
  let port := s.portFor dev r.line
  if s.links.pendingMove.contains port then s
  else if dev = s.devid ∨ (s.links.ports.getD port VPort.reset).st ≠ 1 then
    s.modReq r.id fun q => { q with stage := .served, err := some .fabricError }
  else if !s.maySend port 0 || !s.portOpen r.core port r.line || (r.sentN == 0 && !s.mayReq r) then s
  else
    let (t, n) := (if r.sentN = 0 then s.noteAway r else s).sendLanes r dev port (r.ops.drop r.sentN)
    t.modReq r.id fun q => { q with stage := .sent, sentN := q.sentN + n }

/-- The first and one-past-last byte a request touches. -/
def Req.span (r : Req) : Nat × Nat :=
  (r.ops.foldl (fun n o => min n o.addr) ((r.ops.map fun o => o.addr).headD 0),
    r.ops.foldl (fun n o => max n (o.addr + r.size)) 0)

/-- Whether the device holds a host line with its data; a line lost in a reset is held with none (R91). -/
def State.holdsHost (s : State) (link line : Nat) : Bool :=
  match nget s.mem.hostDirty (hostLine link line) with
  | some (_ :: _) => true
  | _ => false

/-- A lane's request on the host link for an atomic (R89): path 2 as an AtomicOp, path 3 as the read that starts the
CAS loop. -/
def State.hostAtomSend (s : State) (r : Req) (link : Nat) (o : LaneOp) : State :=
  match s.hostPath link r.uc r.kind r.size with
  | some 2 => match r.kind with
    | .cas => s.emit (.hostAtomicCas link o.addr r.size o.cmp o.data r.id)
    | .atom a | .red a => s.emit (.hostAtomicOp link o.addr r.size a o.data 0 r.id)
    | _ => s
  | _ => s.emit (.hostRead link o.addr r.size r.id)

/-- Whether a request on host memory goes through CXL.cache (R89, R90). -/
def State.hostCached (s : State) (r : Req) (link : Nat) : Bool := !r.uc && s.dev.hostAtom.getLsbD (8 * link + 7)

/-- The words that the VALUE record of the agent's next operation gives a host access of a kind, if there is one (R129,
R134). -/
def State.valueDue (s : State) (r : Req) (kind : Nat) : Bool :=
  s.replaying && s.recd.values.any fun v =>
    v.agent == r.core && v.cseq == (s.agent r.core).cseq && v.op == (s.agent r.core).ops && v.kind == kind

/-- In replay an access to host memory that has a VALUE record takes its values, and does not leave the device (R129,
R141). -/
def State.replayHost (s : State) (r : Req) (kind : Nat) : State :=
  let n := if r.size = 16 then 2 else 1
  let mask := lanesMask (r.ops.map fun o => o.lane)
  let (s1, vs) := s.valueOf r.core (issuerOf r.bctx r.w) r.low kind mask (List.replicate (n * r.ops.length) 0)
  let val (i : Nat) : QWord :=
    if n = 2 then zext 128 (vs.getD (2 * i) 0) ||| zext 128 (vs.getD (2 * i + 1) 0) <<< 64 else zext 128 (vs.getD i 0)
  (s1.note r.core (issuerOf r.bctx r.w) r.low (objHost 0 r.line) r.kind.modifies (some (r.line * 128)) r.kind.close).modReq r.id
    fun q => { q with stage := .served, got := r.ops.mapIdx fun i o => (o.lane, val i) }

/-- A request sent towards host memory (R89, R230): reads and ownership requests go out and wait; a posted write is served
at the link. -/
def State.sendHost (s : State) (r : Req) (link : Nat) : State :=
  if s.linkDown (28 + link) || s.routeHeld (coreDie r.core) (hearthDie link) r.line || (r.kind != .pref && !s.mayReq r)
      || s.behindHost r then s
  else if s.replaying && r.kind.atomicKind && r.dst != .none then s.replayHost r 4
  else if r.kind == .load && s.valueDue r 5 then s.replayHost r 5
  else if s.hostCached r link then
    if s.holdsHost link r.line then s.modReq r.id fun q => { q with stage := .accepted }
    else (s.emit (.hostRead link (r.line * 128) 128 r.id)).modReq r.id fun q => { q with stage := .sent }
  else match r.kind with
    | .store => s.modReq r.id fun q => { q with stage := .accepted }
    | .pref => s.modReq r.id fun q => { q with stage := .served }
    | .load =>
      let (lo, hi) := r.span
      (s.emit (.hostRead link lo (hi - lo) r.id)).modReq r.id fun q => { q with stage := .sent }
    | _ => match r.ops with
      | o :: _ => (s.hostAtomSend r link o).modReq r.id fun q => { q with stage := .sent }
      | [] => s

/-- One lane's contribution to its element's next round sent to the switches on virtual channel 3 (R15, R20), or nothing while it
has to wait.  One that belongs to a round that has been abandoned ends with FABRIC_ERROR (R19), and so does one whose port is
down. -/
def State.sendContrib (s : State) (r : Req) (slot : Nat) (o : LaneOp) : Option State :=
  match nget s.links.windows slot with
  | none => some (s.modReq r.id fun q => q.failLane o.lane .fabricError)
  | some w =>
    let e := (o.addr - untag w.desc.base) / r.size
    let k := ngetD w.rounds e 0
    let port := s.portFor w.desc.homeDev (o.addr / 128)
    let put (w1 : Window) : State :=
      { s with links := { s.links with windows := nput slot { w1 with rounds := nput e (k + 1) w1.rounds } s.links.windows } }
    if s.links.pendingMove.contains port then none
    else if k < ngetD w.merged e 0 ∨ (s.links.ports.getD port VPort.reset).st ≠ 1 then
      some ((put w).modReq r.id fun q => q.failLane o.lane .fabricError)
    else if !s.maySend port 3 || !s.portOpen r.core port (o.addr / 128) then none
    else
      let x : WinContrib := { elem := e, round := k, port := port, tick := s.tick, val := o.data.setWidth 64, req := r.id, lane := o.lane }
      some ((put { w with pend := w.pend ++ [x] }).sendMsg port w.desc.homeDev r.ctx (r.id * 32 + o.lane)
        (.contrib w.desc.homeDev w.desc.winid e w.desc.rank r.size (o.data.setWidth 64)))

/-- Contributions sent in turn as far as their channels take them, with how many were. -/
def State.sendContribs (s : State) (r : Req) (slot : Nat) : List LaneOp → State × Nat
  | [] => (s, 0)
  | o :: rest => match s.sendContrib r slot o with
    | none => (s, 0)
    | some t =>
      let (u, n) := t.sendContribs r slot rest
      (u, n + 1)

/-- Whether a contribution of a request is in flight. -/
def State.contribPending (s : State) (id : Nat) : Bool := s.links.windows.any fun p => p.2.pend.any fun x => x.req == id

/-- A RED sent into a reduction window (R20); it is over at once where none of its contributions is in flight. -/
def State.sendWindow (s : State) (r : Req) (slot : Nat) : State :=
  if r.sentN = 0 ∧ !s.mayReq r then s
  else
    let (t, n) := (if r.sentN = 0 then s.noteAway r else s).sendContribs r slot (r.ops.drop r.sentN)
    if n = 0 then s
    else t.modReq r.id fun q => { q with
      sentN := q.sentN + n
      stage := if q.ops.length ≤ q.sentN + n ∧ !t.contribPending r.id then .served else .sent }

/-- A request that nothing holds back leaves its core: it is accepted by its cluster, enters its bank's queue, or is
sent (R194, R230, R231). -/
def State.admitReq (s : State) (id : Nat) : State :=
  match s.req? id with
  | none => s
  | some r =>
    if (r.stage ≠ .queued ∧ !r.unsent) ∨ r.hold ∨ s.fenced r ∨ s.behindOwn r ∨ (!r.unsent && s.outOfTurn r) then s
    else match r.home with
      | .mem => s.modReq id fun q => { q with stage := .accepted }
      | .host link => s.sendHost r link
      | .peer dev => s.sendPeer r dev
      | .window slot => s.sendWindow r slot
      | h => match s.bankFor h r.line with
        | none => s.modReq id fun q => { q with stage := .served, err := some .scratchRange }
        | some k =>
          let fifo := match h with
            | .fifo _ _ => true
            | _ => false
          if fifo && ((s.bank k).mode != .fifo || (s.bank k).owner != some r.ctx) then
            s.modReq id fun q => { q with stage := .served, err := some .scratchRange }
          else if s.bankOpen k then
            (s.modBank k fun b => { b with queue := b.queue ++ [id] }).modReq id fun q => { q with stage := .accepted }
          else s

/-- Every request that may leave its core does, oldest first. -/
def State.admitReqs (s : State) : State :=
  ((s.reqs.filter fun r => r.stage == .queued || r.unsent).map fun r => r.id).foldl (fun t id => t.admitReq id) s

/-! ### Stalls (R194, R198, R230, R232) -/

/-- The markers in an issuer's dirty-address FIFO that entered before number `id` (R230). -/
def State.markersBefore (s : State) (core bctx w adm id : Nat) : Nat :=
  (s.rels.filter fun k => k.core == core && k.bctx == bctx && k.w == w && k.adm == adm && decide (3 ≤ k.scope)
    && decide (k.upto ≤ id)).length

/-- The entries of an issuer's dirty-address FIFO (R230): the lines of its unacknowledged writes, each with the number of markers
ahead of it, since no write merges into an entry that a marker stands behind. -/
def State.dirtyLines (s : State) (core bctx w adm : Nat) : List (Home × Nat × Nat) :=
  ((s.reqs.filter fun r => r.core == core && r.bctx == bctx && r.w == w && r.adm == adm && r.kind.writes).map
    fun r => (r.home, r.line, s.markersBefore core bctx w adm r.id)).eraseDups

/-- Whether the requests of a word find room: bank queues, the dirty-address FIFO, and no push of the warp that
could still wait at the bank (R198).  In replay the word is held before its first operation until that has its turn (R141). -/
def State.roomFor (s : State) (c : Cur) (adm : Nat) (rs : List Req) : Bool :=
  let ks := rs.filterMap fun r => s.bankFor r.home r.line
  let dirty := s.dirtyLines c.core c.bctx c.w adm
  let ahead := s.markersBefore c.core c.bctx c.w adm s.nextId
  let fresh := (rs.filter fun r => r.kind.writes && !dirty.contains (r.home, r.line, ahead)).length
  (!(s.replaying || s.recd.halted) || s.mayStart c.core (issuerOf c.bctx c.w) (lowestLane c.lanes))
    && (ks.all fun k => s.bankOpen k && decide ((s.bank k).queue.length + (ks.filter (· == k)).length ≤ 32))
    && decide (dirty.length + fresh ≤ 64)
    && rs.all fun r => match r.home, r.kind with
      | .fifo _ _, .store => !(s.reqs.any fun q => q.sameParty r && q.sameObj r && q.kind == .store && q.open)
      | _, _ => true

/-! ### Watchpoints (R149) -/

/-- Whether a watchpoint's scope takes in a lane of a party (R149). -/
def Watch.inScope (x : Watch) (b : Blk) (w lane : Nat) : Bool :=
  let node := x.nodeId == b.info.nodeId
  let gang := node && x.gang.toNat == b.info.g
  let block := gang && x.rank.toNat == b.info.rank
  match x.scope.toNat with
  | 0 => block && x.warp.toNat == w && x.lane.toNat == lane
  | 1 => block && x.warp.toNat == w
  | 2 => block
  | 3 => gang
  | 4 => true
  | _ => false

/-- Whether a watchpoint of the context covers an access of a kind at a generic address (R149). -/
def Watch.covers (x : Watch) (kind a n : Nat) : Bool :=
  let strip (x : Nat) : Nat := x / 2 ^ 60 * 2 ^ 60 + x % 2 ^ 56
  x.len != 0 && decide (x.scope.toNat ≤ 4) && x.kinds.getLsbD kind && overlaps a n (strip x.va.toNat) x.len.toNat

/-- The watchpoints of a context: sixteen each (R123). -/
def State.watches (s : State) (ctx : Nat) : List (Nat × Watch) := s.watch.filter fun p => p.1 / 16 == ctx

/-- Whether the masked data match (R149). -/
def Watch.dataOk (x : Watch) (v : QWord) : Bool := !x.vcmp || (v.setWidth 64 &&& x.mask) == (x.value &&& x.mask)

/-- Whether a lane's access matches some watchpoint; `v` is its data, absent where it is not known before landing. -/
def State.watchHit (s : State) (b : Blk) (w lane kind a n : Nat) (v : Option QWord) : Bool :=
  (s.watches b.info.ctx).any fun p => p.2.covers kind a n && p.2.inScope b w lane &&
    (match v with
      | some x => p.2.dataOk x
      | none => !p.2.vcmp)

/-- Whether the data of an access are known only at its landing: what a load or an atomic that answers reads (R149). -/
def MemForm.reads (f : MemForm) : Bool := f.watch == some 0 || (f.watch == some 2 && f.dst != .none)

/-- Whether a lane's access could match a watchpoint that compares the value read. -/
def State.watchLater (s : State) (b : Blk) (w lane kind a n : Nat) : Bool :=
  (s.watches b.info.ctx).any fun p => p.2.covers kind a n && p.2.inScope b w lane && p.2.vcmp

/-! ### Issuing a memory word -/

/-- The registers a destination fills (R171). -/
def Dst.regs : Dst → List Nat
  | .lane v n => (List.range n).map (v + ·)
  | _ => []

/-- Whether a destination is a register. -/
def Dst.isReg : Dst → Bool
  | .lane _ _ | .uni _ => true
  | _ => false

/-- The destination marked empty (R171). -/
def State.markDst (s : State) (c : Cur) (d : Dst) : State :=
  match d with
  | .none | .tbl _ => s
  | .lane _ _ => s.modThr c.core c.bctx c.w fun t => t.markEmpty d.regs
  | .uni r => if r = 0 then s else s.modBlk c.core c.bctx fun b => { b with sEmpty := r :: b.sEmpty, sWriter := nput r c.w b.sWriter }

/-- The requests of the lanes that go ahead, with the releases their order asks for (R230). -/
def State.addReqs (s : State) (c : Cur) (adm : Nat) (scope : Nat) (rs : List Req) : State :=
  let n := rs.length
  let rels := (rs.filter fun r => r.hold).map fun r : Req =>
    ({ id := r.id + n, core := c.core, bctx := c.bctx, w := c.w, adm := adm, low := r.low, mask := r.mask,
       scope := scope, upto := s.nextId, act := .write r.id } : Rel)
  { s with nextId := s.nextId + 2 * n, reqs := s.reqs ++ rs, rels := s.rels ++ rels }.admitReqs

/-- The faulting lanes of a memory word leave: a service fault stops the block, a fast trap enters the handler (R277,
R283). -/
def State.memFault (s : State) (c : Cur) (bad : List (Nat × Cause × DWord)) (pages : Nat → Option Nat) : State :=
  match bad, s.blk? c.core c.bctx with
  | (_, cause, addr) :: _, some b => match b.thr? c.w with
    | some t =>
      let all := lanesMask (bad.map (·.1))
      let same := lanesMask ((bad.filter fun x => x.2.1 == cause).map (·.1))
      if cause.isService then s.service c b t cause all same addr pages
      else { s.trap c b t { cause := cause, lanes := all, faulting := same, addr := addr, npc := c.pc } with focus := none }
    | none => s
  | _, _ => s

/-- Matching lanes take WATCHPOINT with the word done (R149, R281). -/
def State.watchTrap (s : State) (c : Cur) (m : Word) (addr : DWord) : State :=
  if m = 0 then s
  else match s.blk? c.core c.bctx with
    | none => s
    | some b => match b.thr? c.w with
      | none => s
      | some t =>
        { s.trap c b t { cause := .watchpoint, lanes := m, faulting := m, addr := addr, npc := c.next } with focus := none }

/-- The checks of a word's lanes once the cluster window has had its say (R197): where its lanes there name different banks, or one
names a bank it may not use, the instruction has no effect, and the lanes that no check of their own stops have that fault too. -/
def State.fifoChks (s : State) (c : Cur) (b : Blk) (f : MemForm) (va : Nat → DWord) (chks : List (Nat × LaneChk)) :
    List (Nat × LaneChk) :=
  let bank (l : Nat) : Option Nat := match s.target c b f (va l) with
    | .at (.fifo _ k) _ => some k
    | _ => none
  let why : Option Cause :=
    if 1 < (chks.filterMap fun p => bank p.1).eraseDups.length then some .scratchRange
    else chks.findSome? fun p => match bank p.1, p.2 with
      | some _, .fault k => some k
      | _, _ => none
  match why with
  | none => chks
  | some k => chks.map fun p => match p.2 with
    | .ok _ _ _ | .walk _ => (p.1, .fault k)
    | _ => if (bank p.1).isSome then (p.1, .fault k) else p

/-- A memory word whose checks have passed the register gates: it stalls for walks, acquires and room; then each lane
goes ahead or faults (R275, R277).  `us` are the uniform registers the word reads, noted only where it does not stall
(R125).  `va`, `data` and `cmp` give each lane's address and operands; `late` finds the lanes
that fail a last check, with COMMUTATIVE_MISUSE, among the lines of those that passed (R209). -/
def State.access (s : State) (c : Cur) (b : Blk) (t : Thr) (act : Word) (us : List Nat) (f : MemForm) (va : Nat → DWord)
    (data cmp : Nat → QWord) (late : List (Nat × Nat) → List Nat := fun _ => []) : State :=
  let priv := t.privileged c.lanes
  let mmu := c.mmu b priv
  let chks0 := s.fifoChks c b f va ((maskLanes act).map fun l => (l, s.laneCheck c b mmu f (va l)))
  let misuse := late (chks0.filterMap fun p => match p.2 with
    | .ok _ a _ => some (p.1, a / 128)
    | _ => none)
  let chks := chks0.map fun p => if misuse.contains p.1 then (p.1, LaneChk.fault .commutativeMisuse) else p
  let walks := chks.filterMap fun p => match p.2 with
    | .walk v => some v
    | _ => none
  if !walks.isEmpty then
    (walks.foldl (fun s v => s.startWalk mmu v f.ak.record (c.site t)) s).stall c
  else if s.heldBack c.core c.bctx c.w b.adm act then s.stall c
  else
    let gos := chks.filterMap fun p => match p.2 with
      | .ok h a l =>
        let at' : DWord × Bool := match s.target c b f (va p.1) with
          | .glob v x => (v, x)
          | _ => (va p.1, false)
        some { lane := p.1, va := va p.1, gva := at'.1, h := h, a := a, l := l, param := at'.2 : LaneGo }
      | _ => none
    let bad := chks.filterMap fun p => match p.2 with
      | .fault k => some (p.1, k, va p.1)
      | .miss _ => some (p.1, Cause.translationMiss, va p.1)
      | _ => none
    let pages (l : Nat) : Option Nat := match s.laneCheck c b mmu f (va l) with
      | .miss p => some p
      | _ => none
    let rs := (groupGo gos).mapIdx fun i g => reqOf c b t f priv (s.nextId + i) data cmp g
    if !s.roomFor c b.adm rs then s.stall c
    else
      let badM := lanesMask (bad.map (·.1))
      let hits : Word := if priv then 0 else match f.watch with
        | none => 0
        | some k => lanesMask ((gos.filter fun g : LaneGo =>
            s.watchHit b c.w g.lane k (genericVa f g.va) f.bytes (if f.reads then none else some (lowBytes f.bytes (data g.lane)))).map
              fun g => g.lane)
      let waits := gos.any fun g => (match g.h with
          | .peer _ => f.kind == .load
          | _ => false)
        || (!priv && f.reads && s.watchLater b c.w g.lane (f.watch.getD 0) (genericVa f g.va) f.bytes)
      let stay := c.lanes &&& ~~~badM &&& ~~~hits
      let point : Option BlockPt := match f.kind, f.dst with
        | .waitaddr, .lane v _ => some (.waitaddr v (va (lowestLane act)))
        | _, .lane v _ => if waits then some (.remoteLoad false v) else none
        | _, _ => none
      let s0 := (gos.foldl (fun s g => if g.l.isSome then s.touchTlb mmu g.gva else s) s).noteUnis c b us false
      let s1 := ((if gos.isEmpty then s0 else s0.markDst c f.dst).addReqs c b.adm f.scope rs)
      let s2 := match point with
        | some p => s1.retireBlocked c stay p
        | none => s1.retire c stay
      let s3 := s2.watchTrap c hits ((gos.find? fun g => hits.getLsbD g.lane).elim 0 fun g => g.va)
      if bad.isEmpty then s3 else s3.memFault c bad pages

end Sys2Proof.Machine
end

