-- ==== Sys2Proof/Machine/LaneMem.lean ====
section
/-! DEFINITION. Class 3: loads, stores, atomics, commutative contributions, fences, code publishing, waiting on an
address, cache maintenance and tags (R369 to R382). -/

namespace Sys2Proof.Machine

/-! ### Addresses and operands (R369) -/

/-- A signed field of 15 bits. -/
def off15 (x : MemX) : DWord := sext 64 x.off

/-- The wide address: base, index and offset (R304). -/
def wideVa (w : LaneW) (x : MemX) (b : Blk) (t : Thr) (l : Nat) : DWord :=
  srcBase t b w.sa w.lit l + srcIndex t b w.sb w.lit l + off15 x

/-- The narrow address: 32-bit base, index and offset (R369). -/
def narrowVa (w : LaneW) (x : MemX) (b : Blk) (t : Thr) (l : Nat) : DWord :=
  zext 64 (srcW t b w.sa w.lit l + srcW t b w.sb w.lit l + (off15 x).setWidth 32)

/-- OFF10 scaled by the access size (R304). -/
def off10 (x : MemX) : DWord := sext 64 x.off10 * BitVec.ofNat 64 (2 ^ x.size.toNat)

/-- The address of an atomic: a 64-bit base and OFF10 (R369). -/
def atomVa (w : LaneW) (x : MemX) (b : Blk) (t : Thr) (l : Nat) : DWord := srcBase t b w.sa w.lit l + off10 x

/-- The address of a scratchpad atomic: a 32-bit base and OFF10 (R369). -/
def atomNarrowVa (w : LaneW) (x : MemX) (b : Blk) (t : Thr) (l : Nat) : DWord :=
  zext 64 (srcW t b w.sa w.lit l + (off10 x).setWidth 32)

/-- The plain address: base and offset (R369). -/
def plainVa (w : LaneW) (x : MemX) (b : Blk) (t : Thr) (l : Nat) : DWord := srcBase t b w.sa w.lit l + off15 x

/-- The value of VD's group in a lane (R369). -/
def vdGroup (w : LaneW) (x : MemX) (t : Thr) (l : Nat) : QWord :=
  BitVec.ofNat 128 (t.group w.vd.toNat (groupOf x.size) l)

/-- The operand SB names, of SIZE w, d or q (R369). -/
def operand (w : LaneW) (x : MemX) (b : Blk) (t : Thr) (l : Nat) : QWord :=
  match x.size.toNat with
  | 3 => zext 128 (srcI64 t b w.sb w.lit l)
  | 4 => BitVec.ofNat 128 (t.group w.sb.toNat 4 l)
  | _ => zext 128 (srcW t b w.sb w.lit l)

/-- The form of a class 3 word, from its extension fields (R304, R369). -/
def formOf (w : LaneW) (x : MemX) (kind : ReqKind) (ak : AccKind) (narrow returns : Bool) (watch : Option Nat) : MemForm :=
  { kind := kind, ak := ak, bytes := 2 ^ x.size.toNat, space := x.space.toNat, narrow := narrow, notag := x.notag,
    order := x.order.toNat, scope := x.scope.toNat, reuse := x.reuse, inv := x.inv, sgn := x.sgn, watch := watch,
    dst := if returns then .lane w.vd.toNat (groupOf x.size) else .none }

/-- A memory word: its gates, then its accesses in the active lanes. -/
def laneMem (i : Instr) (w : LaneW) (s : State) (f : MemForm) (va : Blk → Thr → Nat → DWord)
    (data cmp : Blk → Thr → Nat → QWord) : Host.Outcome State Fault Refusal :=
  laneWordOp i w s fun c b t act =>
    if act = 0 then s.retire c c.lanes
    else s.access c b t act (laneUnis i w) f (va b t) (data b t) (cmp b t)

/-- No operand. -/
def noData (_ : Blk) (_ : Thr) (_ : Nat) : QWord := 0

/-! ### Loads and stores (R371) -/

/-- LD (R371). -/
def execLd (w : LaneW) (x : MemX) (s : State) : Host.Outcome State Fault Refusal :=
  laneMem (.ld w x) w s (formOf w x .load .read false true (some 0)) (wideVa w x) noData noData
/-- ST (R371). -/
def execSt (w : LaneW) (x : MemX) (s : State) : Host.Outcome State Fault Refusal :=
  laneMem (.st w x) w s (formOf w x .store .write false false (some 1)) (wideVa w x) (fun _ t l => vdGroup w x t l) noData
/-- LDS (R371). -/
def execLds (w : LaneW) (x : MemX) (s : State) : Host.Outcome State Fault Refusal :=
  laneMem (.lds w x) w s (formOf w x .load .read true true (some 0)) (narrowVa w x) noData noData
/-- STS (R371). -/
def execSts (w : LaneW) (x : MemX) (s : State) : Host.Outcome State Fault Refusal :=
  laneMem (.sts w x) w s (formOf w x .store .write true false (some 1)) (narrowVa w x) (fun _ t l => vdGroup w x t l)
    noData

/-! ### Atomics (R372 to R375) -/

/-- ATOM (R372). -/
def execAtom (w : LaneW) (x : MemX) (s : State) : Host.Outcome State Fault Refusal :=
  laneMem (.atom w x) w s (formOf w x (.atom x.aop) .rmw false true (some 2)) (atomVa w x) (operand w x) noData
/-- ATOMCAS (R374). -/
def execAtomcas (w : LaneW) (x : MemX) (s : State) : Host.Outcome State Fault Refusal :=
  laneMem (.atomcas w x) w s (formOf w x .cas .rmw false true (some 2)) (atomVa w x) (operand w x)
    fun _ t l => vdGroup w x t l
/-- RED (R372). -/
def execRed (w : LaneW) (x : MemX) (s : State) : Host.Outcome State Fault Refusal :=
  laneMem (.red w x) w s (formOf w x (.red x.aop) .rmw false false (some 2)) (atomVa w x) (operand w x) noData
/-- ATOMS (R372). -/
def execAtoms (w : LaneW) (x : MemX) (s : State) : Host.Outcome State Fault Refusal :=
  laneMem (.atoms w x) w s (formOf w x (.atom x.aop) .rmw true true (some 2)) (atomNarrowVa w x) (operand w x) noData
/-- ATOMSCAS (R374). -/
def execAtomscas (w : LaneW) (x : MemX) (s : State) : Host.Outcome State Fault Refusal :=
  laneMem (.atomscas w x) w s (formOf w x .cas .rmw true true (some 2)) (atomNarrowVa w x) (operand w x)
    fun _ t l => vdGroup w x t l

/-- The distinct lines a core contributes to, or will when its requests are served (R209). -/
def State.coreLines (s : State) (core : Nat) : List Nat :=
  ((s.mem.partials.filter fun p => p.cores.contains core).map fun p => p.line)
    ++ ((s.reqs.filter fun r => r.core == core && (match r.kind with
      | .cadd _ => r.open
      | _ => false)).map fun r => r.line)

/-- The lanes of a CADD that would raise the core's count of lines above 1,024 (R209), in ascending lane order. -/
def caddOver (lines : List Nat) : List (Nat × Nat) → List Nat
  | [] => []
  | (lane, line) :: t =>
    if lines.contains line then caddOver lines t
    else if lines.eraseDups.length < 1024 then caddOver (line :: lines) t
    else lane :: caddOver lines t

/-- CADD (R375): lanes past the core's 1,024 lines raise COMMUTATIVE_MISUSE, the others take effect. -/
def execCadd (w : LaneW) (x : MemX) (s : State) : Host.Outcome State Fault Refusal :=
  laneWordOp (.cadd w x) w s fun c b t act =>
    if act = 0 then s.retire c c.lanes
    else
      s.access c b t act (laneUnis (.cadd w x) w)
        (formOf w x (.cadd 0) .rmw false false (some 2)) (atomVa w x b t) (operand w x b t) (fun _ => 0)
        (caddOver (s.coreLines c.core))

/-! ### Fences and code publishing (R376, R377) -/

/-- Whether an earlier read of these lanes has not bound its value (R232). -/
def State.unboundReads (s : State) (core bctx w adm : Nat) (lanes : Word) : Bool :=
  s.reqs.any fun r => r.core == core && r.bctx == bctx && r.w == w && r.adm == adm && r.open
    && (match r.kind with
      | .load | .atom _ | .cas | .waitaddr | .tagld => true
      | _ => false)
    && r.lanes &&& lanes != 0

/-- A release begun by the issuing party over the operations of the lanes of `mask` (R230, R231); a `quiet` one is no operation of its
own. -/
def State.beginRel (s : State) (c : Cur) (adm scope : Nat) (act : RelAct) (mask : Word := c.lanes) (quiet : Bool := false) : State :=
  { s with
    nextId := s.nextId + 1
    rels := s.rels ++ [{ id := s.nextId, core := c.core, bctx := c.bctx, w := c.w, adm := adm,
                         low := lowestLane c.lanes, mask := mask, scope := scope, upto := s.nextId, act := act, quiet := quiet }] }

/-- FENCE (R376): an acquire part waits for earlier reads, a release part begins a release, and seq_cst holds later
accesses until it completes (R229).  A fence closes its chunk (R127). -/
def execFence (w : LaneW) (x : MemX) (s : State) : Host.Outcome State Fault Refusal :=
  laneWordOp (.fence w x) w s fun c b _ act =>
    let order := x.order.toNat
    let acq := hasAcquire order || order == 4
    let rel := hasRelease order || order == 4
    let issuer := issuerOf c.bctx c.w
    if act = 0 then s.retire c c.lanes
    else if s.heldBack c.core c.bctx c.w b.adm act || (acq && s.unboundReads c.core c.bctx c.w b.adm act) then s.stall c
    else if rel then (s.beginRel c b.adm x.scope.toNat (.fence (order == 4) act)).retire c c.lanes
    else if !s.mayStart c.core issuer (lowestLane c.lanes) then s.stall c
    else (s.note c.core issuer (lowestLane c.lanes) objNone false none (some 1)).retire c c.lanes

/-- CODEPUB (R244, R377): a release that also publishes; once for each issuing sub-warp with an active lane. -/
def execCodepub (w : LaneW) (x : MemX) (s : State) : Host.Outcome State Fault Refusal :=
  laneWordOp (.codepub w x) w s fun c b _ act =>
    if act = 0 then s.retire c c.lanes
    else if s.heldBack c.core c.bctx c.w b.adm act then s.stall c
    else (s.beginRel c b.adm x.scope.toNat (.codepub act false)).retire c c.lanes

/-! ### Waiting on an address (R378, R379) -/

/-- WAITADDR (R378). -/
def execWaitaddr (w : LaneW) (x : MemX) (s : State) : Host.Outcome State Fault Refusal :=
  laneMem (.waitaddr w x) w s (formOf w x .waitaddr .read false true (some 0)) (plainVa w x) (operand w x) noData
/-- WAKEADDR (R379). -/
def execWakeaddr (w : LaneW) (x : MemX) (s : State) : Host.Outcome State Fault Refusal :=
  laneMem (.wakeaddr w x) w s { formOf w x .wakeaddr .read false false none with tagged := false } (plainVa w x)
    (operand w x) noData

/-! ### Non-coherent copies (R234) -/

/-- Key of a cluster's non-coherent INV copy of a line (R234). -/
def invKey (cluster line : Nat) : Nat := line * 24 + cluster

/-! ### Prefetch and cache maintenance (R381) -/

/-- The number under which the caches hold a line of a home (R203). -/
def cacheKey (h : Home) (line : Nat) : Nat :=
  match h with
  | .host link => hostKey link line
  | _ => line

/-- The line an address names without raising anything, with its home: of device memory, or of host memory where the device may hold it
(R203); none for a window, uncached (where `cached`) or peer address, or one that would fault. -/
def State.quietLine (s : State) (m : Mmu) (cached : Bool) (space : Nat) (va : DWord) : Option (Home × Nat) :=
  if isWindow va || !canonicalVa va || decide (2 ≤ space) then none
  else
    match s.quietLeaf m va with
    | none => none
    | some l =>
      if (l.check .read m.priv).isSome || (cached && l.uc) then none
      else match s.placeOf m.ctx l va with
        | .ok (.mem, a) => some (.mem, lineOf a)
        | .ok (.host link, a) => if !l.uc && s.dev.hostAtom.getLsbD (8 * link + 7) then some (.host link, lineOf a) else none
        | _ => none

/-- A maintenance word: `f` acts on the line of each active lane whose address would not fault. -/
def laneMaint (i : Instr) (w : LaneW) (x : MemX) (s : State) (cached : Bool) (f : Cur → Blk → Thr → State → Home → Nat → State) :
    Host.Outcome State Fault Refusal :=
  laneWordOp i w s fun c b t act =>
    ((maskLanes act).foldl
      (fun s l => match s.quietLine (c.mmu b (t.privileged c.lanes)) cached x.space.toNat (wideVa w x b t l) with
        | some (h, line) => f c b t s h line
        | none => s) (if act = 0 then s else s.noteUnis c b (laneUnis i w) false)).retire c c.lanes

/-- A modified or owned line of a cluster or of its die's L2 written to its home and kept clean (R381): device memory already holds its
bytes, and a host line is written over its link. -/
def State.cleanLine (s : State) (cluster : Nat) (h : Home) (line : Nat) : State :=
  let mine (k : CacheLine) : Bool := (k.holder == cluster || k.holder == l2Holder (cluster / 6)) && k.line == cacheKey h line
  let t := match h with
    | .host link =>
      if s.mem.cache.any fun k => mine k && (k.st == Coh.m || k.st == Coh.o) then
        s.emit (.hostWrite link (line * 128) false (ngetD s.mem.hostDirty (hostLine link line) []))
      else s
    | _ => s
  t.setCache (t.mem.cache.map fun k =>
    if mine k then
      { k with st := match k.st with
          | .m => .e
          | .o => .s
          | y => y } else k)

/-- A line of host memory asked for where the device does not hold it (R381). -/
def State.prefHost (s : State) (c : Cur) (b : Blk) (t : Thr) (x : MemX) (h : Home) (line : Nat) : State :=
  s.addReqs c b.adm 0
    [{ reqOf c b t { kind := .pref, ak := .read, bytes := 1, reuse := x.reuse } (t.privileged c.lanes) s.nextId (fun _ => 0) (fun _ => 0) [] with
        home := h, line := line }]

/-- PREF (R381). -/
def execPref (w : LaneW) (x : MemX) (s : State) : Host.Outcome State Fault Refusal :=
  laneMaint (.pref w x) w x s true fun c b t s h line =>
    match h with
    | .host link =>
      if s.holdsHost link line then s.cacheRead (c.core / 8) (hostKey link line) x.reuse else s.prefHost c b t x h line
    | _ => s.cacheRead (c.core / 8) line x.reuse
/-- WBL (R381). -/
def execWbl (w : LaneW) (x : MemX) (s : State) : Host.Outcome State Fault Refusal :=
  laneMaint (.wbl w x) w x s false fun c _ _ s h line => s.cleanLine (c.core / 8) h line
/-- INVL (R381): as WBL, then the line leaves the cluster with its non-coherent copies. -/
def execInvl (w : LaneW) (x : MemX) (s : State) : Host.Outcome State Fault Refusal :=
  laneMaint (.invl w x) w x s false fun c _ _ s0 h line =>
    let s := s0.cleanLine (c.core / 8) h line
    { s with mem := { s.mem with
        cache := s.mem.cache.filter fun k => !(k.holder == c.core / 8 && k.line == cacheKey h line)
        invCopies := if h = .mem then ndel (invKey (c.core / 8) line) s.mem.invCopies else s.mem.invCopies } }

/-! ### Tags (R382) -/

/-- TAGLD (R382). -/
def execTagld (w : LaneW) (x : MemX) (s : State) : Host.Outcome State Fault Refusal :=
  laneMem (.tagld w x) w s
    { formOf w x .tagld .read false true (some 0) with bytes := 32, tagged := false, dst := .lane w.vd.toNat 1 }
    (wideVa w x) noData noData
/-- TAGST (R382). -/
def execTagst (w : LaneW) (x : MemX) (s : State) : Host.Outcome State Fault Refusal :=
  laneMem (.tagst w x) w s { formOf w x .tagst .write false false (some 1) with bytes := 32, tagged := false }
    (wideVa w x) (fun _ t l => zext 128 (fld (t.reg w.vd.toNat l) 0 4 : BitVec 4)) noData

end Sys2Proof.Machine
end

