-- ==== Sys2Proof/Machine/Home.lean ====
section
/-! DEFINITION. The homes of memory lines: ECC, poison, HBM cache mode, commutative gathers, publishing marks, and what
each kind of request does when its home serves it (R38 to R53, R203 to R213, R223, R231, R234, R243, R371 to R382). -/

namespace Sys2Proof.Machine

/-! ### Bytes at a home (R91, R203) -/

/-- Bytes read at a home: device memory by home byte, a host line that the device holds by its bytes. -/
def State.homeRead (s : State) (h : Home) (a n : Nat) : List Byte :=
  match h with
  | .host link =>
    let l := (nget s.mem.hostDirty (hostLine link (a / 128))).getD (List.replicate 128 0)
    (l.drop (a % 128)).take n
  | _ => s.peek a n

/-- Some bytes of a list replaced, from an offset on. -/
def splice (l : List Byte) (off : Nat) (new : List Byte) : List Byte :=
  l.mapIdx fun i x => if off ≤ i ∧ i < off + new.length then new.getD (i - off) x else x

/-- Bytes written at a home; a host line that the device does not hold is written over the link. -/
def State.homeWrite (s : State) (h : Home) (a : Nat) (bs : List Byte) : State :=
  match h with
  | .host link =>
    let k := hostLine link (a / 128)
    if s.holdsHost link (a / 128) then
      let l := (nget s.mem.hostDirty k).getD []
      { s with mem := { s.mem with hostDirty := nput k (splice l (a % 128) bs) s.mem.hostDirty } }
    else s.emit (.hostWrite link a false bs)
  | _ => s.poke a bs

/-- The bytes an access of a cluster sees: the home's, with the earlier stores its cluster has accepted laid over them
(R231). -/
def State.seen (s : State) (r : Req) (a n : Nat) : List Byte :=
  (s.reqs.filter fun q => q.kind == .store && q.stage != .queued && q.open && q.home == r.home && q.line == r.line
      && q.core / 8 == r.core / 8 && decide (q.id < r.id)).foldl
    (fun bs q => q.ops.foldl
      (fun bs o => bs.mapIdx fun i x =>
        if o.addr ≤ a + i ∧ a + i < o.addr + q.size then (leBytes q.size o.data.toNat).getD (a + i - o.addr) x else x) bs)
    (s.homeRead r.home a n)

/-! ### Publishing (R243) -/

/-- The writer an issuer is: its warp or stream, within its block's admission. -/
def writerKey (adm w : Nat) : Nat := adm * 64 + w

/-- Whether a line's writer list can take a writer (R243). -/
def State.writerRoom (s : State) (line writer : Nat) : Bool :=
  let l := (nget s.mem.writers line).getD []
  l.contains writer || decide (l.length < 4)

/-- A line marked unpublished, and the writer listed (R243). -/
def State.markWriter (s : State) (line writer : Nat) : State :=
  let l := (nget s.mem.writers line).getD []
  if l.contains writer then s
  else { s with mem := { s.mem with writers := nput line (l ++ [writer]) s.mem.writers } }

/-- A writer removed from every list; a line whose list empties is published again (R244). -/
def State.publish (s : State) (writer : Nat) : State :=
  { s with mem := { s.mem with
      writers := (s.mem.writers.map fun p => (p.1, p.2.filter (· != writer))).filter fun p => !p.2.isEmpty } }

/-! ### Atomics (R372 to R374) -/

/-- The new value of an atomic operation on `n` bytes (R373). -/
def atomNew (aop : BitVec 5) (n : Nat) (old b : Nat) : Nat :=
  let m := 2 ^ (8 * n)
  let sg (x : Nat) : Int := if 2 * x < m then x else (x : Int) - m
  let f := if n = 4 then fp32 else fp64
  match aop.toNat with
  | 0 => (old + b) % m
  | 1 => old &&& b
  | 2 => old ||| b
  | 3 => old ^^^ b
  | 4 => if sg b < sg old then b else old
  | 5 => if sg old < sg b then b else old
  | 6 => min old b
  | 7 => max old b
  | 8 => b
  | 9 => if b ≤ old then 0 else old + 1
  | 10 => if old = 0 ∨ b < old then b else old - 1
  | 11 => (f.add .rne false old b).val
  | 12 => (f.minmaxNum false old b).val
  | _ => (f.minmaxNum true old b).val

/-- One lane's atomic at a home, from the bytes there: the bytes after it, and the old value it returns (R372, R374). -/
def ReqKind.apply (k : ReqKind) (n : Nat) (o : LaneOp) (bs : List Byte) : List Byte × QWord :=
  let old := leNat bs
  let q : QWord := BitVec.ofNat 128 old
  match k with
  | .atom a | .red a => (leBytes n (atomNew a n old (o.data.toNat % 2 ^ (8 * n))), q)
  | .cas => (if old = o.cmp.toNat % 2 ^ (8 * n) then leBytes n o.data.toNat else bs, q)
  | _ => (bs, q)

/-- A loaded value extended to 32 bits where it is narrower (R371). -/
def Req.extend (r : Req) (n : Nat) : QWord :=
  match r.size with
  | 1 => zext 128 (if r.sgn then sext 32 (BitVec.ofNat 8 n) else BitVec.ofNat 32 n)
  | 2 => zext 128 (if r.sgn then sext 32 (BitVec.ofNat 16 n) else BitVec.ofNat 32 n)
  | _ => BitVec.ofNat 128 n

/-! ### Waiting on an address (R378 to R380) -/

/-- A waiting lane of a request given its value, or failed by poison; the request is served once that holds of every lane (R43, R378). -/
def State.landWait (s : State) (req lane : Nat) (v : Option QWord) : State :=
  s.modReq req fun r0 =>
    let r := if v.isSome then r0 else r0.failLane lane .poisonConsumed
    let got := r.got ++ v.toList.map fun x => (lane, x)
    { r with
      got := got
      stage := if r.ops.all fun o => r.bad.getLsbD o.lane || got.any fun g => g.1 == o.lane then .served else r.stage }

/-- An enrolment withdrawn and woken: it leaves its queue and its lane lands with the value its home holds now; a poisoned line faults
the lane (R43, R379). -/
def State.wake (s : State) (e : Enrol) : State :=
  let s1 := ({ s with mem := { s.mem with enrols := s.mem.enrols.filter (· != e) } } : State).gather (lineOf e.addr)
  match s.req? e.req with
  | none => s1
  | some r =>
    s1.landWait e.req e.lane (if s1.poisoned (lineOf e.addr) then none else some (BitVec.ofNat 128 (leNat (s1.peek e.addr r.size))))

/-- An enrolment woken by a WAKEADDR or an eviction, which its warp's wake condition looks for (R380). -/
def State.wakeUp (s : State) (e : Enrol) : State := (s.wake e).modReq e.req fun q => { q with woken := true }

/-- The enrolments of a slice, oldest first. -/
def State.sliceQueue (s : State) (k : Nat) : List Enrol := s.mem.enrols.filter fun e => s.slice (lineOf e.addr) == k

/-- An enrolment at the tail of its address's queue; a full slice first wakes its oldest (R379, R380). -/
def State.enrol (s : State) (r : Req) (o : LaneOp) : State :=
  let q := s.sliceQueue (s.slice r.line)
  let s1 := match q with
    | e :: _ =>
      if 2048 ≤ q.length then
        (s.note r.core (issuerOf r.bctx r.w) r.low (objLine (lineOf e.addr)) true (some e.addr) none).wakeUp e
      else s
    | [] => s
  { s1 with mem := { s1.mem with enrols := s1.mem.enrols ++ [{ ctx := r.ctx, addr := o.addr, req := r.id, lane := o.lane }] } }

/-! ### Asynchronous tag checks (R212) -/

/-- A mismatch of an access on an asynchronous page: the warp keeps the first and counts the rest; of a party that has exited it is
reported at once (R285). -/
def State.tagNote (s : State) (r : Req) : State :=
  if !r.asyncTag then s
  else
    let bad := r.ops.filter fun o => o.atag && !isCapacity o.addr && !s.tagMatches o.addr o.gva r.privileged
    match bad with
    | [] => s
    | o :: _ =>
      let s1 := s.modThr r.core r.bctx r.w fun t => { t with
        tagRec := match t.tagRec with
          | some (pc, va, k) => some (pc, va, k + bad.length)
          | none => some (r.pc, o.va, bad.length - 1) }
      if (s.thr? r.core r.bctx r.w).any fun t => t.exited then s1.flushTag r.core r.bctx r.w else s1

/-! ### A request takes effect at its home -/

/-- Whether one request covers its whole line (R43). -/
def Req.fullLine (r : Req) : Bool :=
  (List.range 128).all fun i => r.ops.any fun o => decide (o.addr ≤ r.line * 128 + i) && decide (r.line * 128 + i < o.addr + r.size)

/-- Poison after a write (R43, R44): a full-line write clears it, a partial write of a poisoned line is recorded. -/
def State.poisonWrite (s : State) (line : Nat) (full : Bool) : State :=
  if full then s.unpoison line
  else if s.poisoned line then s.partialRecord line
  else s

/-- A request that ends at its home with an error and no effect. -/
def State.failReq (s : State) (r : Req) (cause : Cause) : State :=
  s.modReq r.id fun q => { q with stage := .served, err := some cause }

/-- The lanes of a request applied in ascending order at its home, with the values they return. -/
def State.applyOps (s : State) (r : Req) : List LaneOp → State × List (Nat × QWord)
  | [] => (s, [])
  | o :: rest =>
    let (bs, v) := r.kind.apply r.size o (s.homeRead r.home o.addr r.size)
    let s1 := if bs = s.homeRead r.home o.addr r.size then s else s.homeWrite r.home o.addr bs
    let (s2, vs) := s1.applyOps r rest
    (s2, (o.lane, v) :: vs)

/-- The values a load takes: from a non-coherent copy of its cluster when it promises invariance and the device chooses
so (R234), otherwise from its home. -/
def State.loadValues (s : State) (r : Req) : State × List (Nat × QWord) :=
  let k := invKey (r.core / 8) r.line
  let memHome := r.home == .mem
  let line := s.homeRead r.home (r.line * 128) 128
  match (if r.inv && memHome && Config.choice s.fresh % 2 == 1 then nget s.mem.invCopies k else none) with
  | some l => (s.bump, r.ops.map fun o => (o.lane, r.extend (leNat ((l.drop (o.addr % 128)).take r.size))))
  | none =>
    let s1 := if r.inv && memHome then
        { s.bump with mem := { s.mem with invCopies := nput k line s.mem.invCopies } } else s
    (s1, r.ops.map fun o => (o.lane, r.extend (leNat (s.seen r o.addr r.size))))

/-- Whether a request writes its line at its home: a CAS does where some lane finds the value it compares with (R373), and no atomic
does on a poisoned line (R43). -/
def State.doesWrite (s : State) (r : Req) : Bool :=
  match r.kind with
  | .store => true
  | .atom _ | .red _ => !(r.home == .mem && s.poisoned r.line)
  | .cas => !(r.home == .mem && s.poisoned r.line)
      && r.ops.any fun o => leNat ((s.gather r.line).homeRead r.home o.addr r.size) == o.cmp.toNat % 2 ^ (8 * r.size)
  | _ => false

/-- Whether a request changes its line: a CAS that fails its compares is a read (R374), and an atomic on a poisoned line changes nothing
(R43). -/
def State.stores (s : State) (r : Req) : Bool :=
  match r.kind with
  | .atom _ | .red _ | .cas => s.doesWrite r
  | k => k.writes

/-- Coherence of a served line in the caches, of device memory or a host line that the device holds (R203 to R207).  A UC access allocates nothing: it is performed at the home, as one of an
agent outside the clusters (R203).  A CADD takes no ownership. -/
def State.coherence (s : State) (r : Req) : State :=
  let isCadd := match r.kind with
    | .cadd _ => true
    | _ => false
  let hosted := match r.home with
    | .host link => s.hostCached r link && s.holdsHost link r.line
    | _ => false
  if isCadd || !(r.home == .mem || hosted) then s
  else if r.uc then (if s.stores r then s.dropHolders r.line fun _ => false else s.shareLine r.line fun _ => false)
  else if s.stores r then s.cacheWrite (r.core / 8) (cacheKey r.home r.line) r.reuse
  else s.cacheRead (r.core / 8) (cacheKey r.home r.line) r.reuse

/-- Whether a request modifies its line as the recorder sees it (R128, R379): a CAS where it writes, and a WAITADDR where some lane
enrols. -/
def State.alters (s : State) (r : Req) : Bool :=
  match r.kind with
  | .cas => s.doesWrite r
  | .waitaddr => r.ops.any fun o => BitVec.ofNat 128 (leNat ((s.gather r.line).seen r o.addr r.size)) == o.data
  | k => k.modifies

/-- What a request does when its home serves it: gather, publishing mark, tag note, then the kind's own effect (R208,
R212, R243, R371 to R382).  The caller has recorded it. -/
def State.performHome (s0 : State) (r : Req) : State :=
  let isCadd := match r.kind with
    | .cadd _ => true
    | _ => false
  let s1 := if isCadd || r.home != .mem then s0 else s0.gather r.line
  let s2 := if r.pub && s1.doesWrite r then s1.markWriter r.line (writerKey r.adm r.w) else s1
  let s3 := (s2.tagNote r).coherence r
  let bad := r.home == .mem && s3.poisoned r.line
  match r.kind with
  | .fetch => s1.modReq r.id fun q => { q with stage := .served }
  | .pref => s3.modReq r.id fun q => { q with stage := .served }
  | .load =>
    if bad then s3.failReq r .poisonConsumed
    else
      let (s4, vs) := s3.loadValues r
      s4.modReq r.id fun q => { q with stage := .served, got := vs }
  | .store =>
    let s4 := r.ops.foldl (fun t o => t.homeWrite r.home o.addr (leBytes r.size o.data.toNat)) s3
    (if r.home == .mem then s4.poisonWrite r.line r.fullLine else s4).modReq r.id fun q => { q with stage := .served }
  | .atom _ | .cas | .red _ =>
    if bad then s3.failReq r .poisonConsumed
    else
      let (s4, vs) := s3.applyOps r r.ops
      s4.modReq r.id fun q => { q with stage := .served, got := if r.dst = .none then [] else vs }
  | .cadd _ =>
    (r.ops.foldl (fun t o =>
        (match t.partialsOf r.line with
          | p :: _ => if p.fmt = o.fmt then t else t.gather r.line
          | [] => t).contribute (r.core / 8) r.core r.line o.fmt (o.addr % 128) (o.data.setWidth 64)) s3).modReq
      r.id fun q => { q with stage := .served }
  | .waitaddr =>
    if bad then s3.failReq r .poisonConsumed
    else
      r.ops.foldl
        (fun t o =>
          let x : QWord := BitVec.ofNat 128 (leNat (t.seen r o.addr r.size))
          if x = o.data then t.enrol r o else t.landWait r.id o.lane (some x))
        (s3.modReq r.id fun q => { q with stage := .waiting })
  | .wakeaddr => s3
  | .tagld =>
    s3.modReq r.id fun q => { q with stage := .served, got := r.ops.map fun o => (o.lane, zext 128 (s3.tagOf (o.addr / 32))) }
  | .tagst =>
    (r.ops.foldl (fun t o =>
        { t with mem := { t.mem with tags := nput (o.addr / 32) (o.data.setWidth 4) t.mem.tags } }.dirtied o.addr)
      s3).modReq r.id fun q => { q with stage := .served }

/-! ### When a home may serve a request -/

/-- Whether an earlier request stands before this one in its home's order: of the same issuer on the same line (R223; past a release store
that is held, where their bytes are apart, R230),
of the same cluster on the line when this one writes (R231; past one that waits for room in the writer list where their bytes are
apart), and while recording or replaying any earlier one of the issuer (R126), and a store that its cluster has accepted and that it would
see, so that the store's operation comes first (R128, log entry 9). -/
def State.behindAtHome (s : State) (r : Req) : Bool :=
  s.reqs.any fun q => decide (q.id < r.id) && q.open && q.kind != .wakeaddr && q.kind != .pref && !(q.kind == .waitaddr && q.stage == .waiting)
    && ((q.sameParty r && q.sameObj r && (!q.hold || q.overlaps r))
      || (r.kind.writes && q.kind.writes && q.sameObj r && q.core / 8 == r.core / 8 && q.stage != .queued
        && (q.stage != .waiting || q.overlaps r))
      || (s.recd.mode != 0 && (q.sameParty r
        || (q.kind == .store && q.sameObj r && q.core / 8 == r.core / 8 && q.stage != .queued && q.stage != .waiting && q.overlaps r))))

/-- How many enrolments a WAITADDR would evict: its lanes that would enrol beyond the room in their slice (R380). -/
def State.evictions (s : State) (r : Req) : Nat :=
  (s.sliceQueue (s.slice r.line)).length
    + (r.ops.filter fun o => BitVec.ofNat 128 (leNat ((s.gather r.line).seen r o.addr r.size)) == o.data).length - 2048

/-- Whether the log places `n` more operations of a party after its next one: of a WAITADDR, its evictions (R380). -/
def State.logRoom (s : State) (r : Req) (n : Nat) : Bool :=
  (List.range n).all fun i => (s.logAt r.core).any fun k => (runAt k.runs ((s.agent r.core).ops + 1 + i)).any fun x =>
    x.issuer.toNat == issuerOf r.bctx r.w && x.lane.toNat == r.low

/-- Whether a request's home may serve it now: no slot or change of mode holds it (R48, R57), the recorder gives it its turn
(R141), and in replay a WAITADDR that would evict is held until there is room, unless the log has its evictions next (R380, log entry
19). -/
def State.mayServe (s : State) (r : Req) : Bool :=
  (r.kind == .pref || (!s.behindAtHome r && s.mayOp r.core (issuerOf r.bctx r.w) r.low))
    && (match r.home with
      | .mem => !s.lineHeld (coreDie r.core) r.line
      | .host link => !s.linkDown (28 + link)
      | _ => true)
    && !(s.replaying && r.kind == .waitaddr && !s.logRoom r (s.evictions r))

/-- Whether a request would be a fifth writer of a publish-tracked line (R243). -/
def State.lacksWriterRoom (s : State) (r : Req) : Bool :=
  r.pub && s.doesWrite r && !s.writerRoom r.line (writerKey r.adm r.w)

/-- The object of a request at its home (R128). -/
def Req.object (r : Req) : Nat :=
  match r.home with
  | .host link => objHost link r.line
  | _ => objLine r.line

/-- A request recorded as one operation on its line (R125). -/
def State.noteReq (s : State) (r : Req) : State :=
  s.note r.core (issuerOf r.bctx r.w) r.low r.object (s.alters r) (some (r.line * 128)) r.kind.close

/-- The values an access takes from host memory, recorded: what an atomic returns, and with BOUNDARY what a load reads
(R129, R134); a 128-bit value takes two words. -/
def State.hostValues (s : State) (r : Req) : State :=
  match s.req? r.id with
  | some q =>
    let kind := if r.kind.atomicKind && r.dst != .none then some 4
      else if r.kind == .load && s.recd.boundary && q.err.isNone then some 5
      else none
    match kind with
    | some k => s.recordValue r.core (issuerOf r.bctx r.w) r.low k (lanesMask (q.got.map fun g => g.1))
        (q.got.map fun g => hostWords r.size g.2).flatten r.object (s.alters r)
    | none => s
  | none => s

/-- A request on host memory served here: by the line the device holds, or as a posted write; a line lost to a snoop is
asked for again (R89, R91). -/
def State.serveHost (s : State) (r : Req) (link : Nat) : State :=
  if s.hostCached r link && !s.holdsHost link r.line then (s.modReq r.id fun q => { q with stage := .queued }).admitReq r.id
  else if r.kind = .pref then s.performHome r
  else ((s.performHome r).hostValues r).noteReq r

/-- A request sent to the capacity tier (R22, R47). -/
def State.sendCapacity (s : State) (r : Req) : State := (s.capFetch r.line r.id).modReq r.id fun q => { q with stage := .sent }

/-- A lane error that the codes find as an access crosses boundary `b`: lane `c` fails (R50). -/
def State.crossing (s : State) : State := if s.arg.flag2 && decide (s.arg.b < 9) then s.laneError s.arg.b s.arg.c else s

/-- HOME_ACCESS_SERVE (R223): argument `a` names the request, `ecc` what the codes find at its home; `flag2` says that the codes
of boundary `b` found its lane `c` failing. -/
def execHomeAccessServe (s0 : State) : Host.Outcome State Fault Refusal :=
  let s := s0.crossing
  match s.req? s.arg.a with
  | none => .next s
  | some r =>
    let localHome := match r.home with
      | .mem | .host _ => true
      | _ => false
    if r.stage ≠ .accepted ∨ !localHome ∨ r.kind = .wakeaddr ∨ !s.mayServe r then .next s
    else if s.lacksWriterRoom r then .next (s.modReq r.id fun q => { q with stage := .waiting })
    else if r.home ≠ .mem then
      .next (match r.home with
        | .host link => s.serveHost r link
        | _ => s)
    else
      let s1 := s.homeEcc r.line s.arg.ecc
      if lineIsCap r.line && (!s.mem.cacheOn || (s.arg.ecc != .metaUncorrectable && !s.cacheHit r.line)) then
        .next (s1.sendCapacity r)
      else if r.kind = .tagld ∧ s.arg.ecc = .metaUncorrectable then .next ((s1.noteReq r).failReq r .eccMetadata)
      else
        let s2 := (s1.noteReq r).performHome r
        .next (if lineIsCap r.line && s.arg.ecc != .metaUncorrectable then s2.fillSet r.line (s1.stores r) else s2)

/-- WRITER_LIST_ROOM (R243): a held write of a fifth writer proceeds once a listed writer has published. -/
def execWriterListRoom (s : State) : Host.Outcome State Fault Refusal :=
  match s.req? s.arg.a with
  | none => .next s
  | some r =>
    if r.stage = .waiting ∧ r.kind ≠ .waitaddr ∧ r.home = .mem ∧ !s.lacksWriterRoom r then
      .next (s.modReq r.id fun q => { q with stage := .accepted })
    else .next s

/-- CAPACITY_TIER_COMPLETION (R22): the reply of an expander; poison, timeout and link failure complete the access with
CAPACITY_TIER_ERROR.  An expander that refuses a poisoned write-back leaves a poison-table entry (R43). -/
def execCapacityTierCompletion (s : State) : Host.Outcome State Fault Refusal :=
  match s.req? s.arg.a with
  | none => .next s
  | some r =>
    let code := r.kind == .fetch
    if r.stage ≠ .sent ∨ r.home ≠ .mem ∨ !lineIsCap r.line ∨ (!code && s.behindAtHome r)
        ∨ (!code && !s.mayOp r.core (issuerOf r.bctx r.w) r.low) then .next s
    else
      let seen (s : State) : State := if code then s else s.noteReq r
      let done (s : State) : State :=
        let s1 := seen (s.evictRefused r.line (s.arg.reply == .poisonRefused))
        let s2 := s1.performHome r
        if s.mem.cacheOn then s2.fillSet r.line (s1.stores r)
        else if s1.stores r then s2.capSend r.line r.id
        else s2
      match s.arg.reply with
      | .ok _ | .poisonRefused => .next (done s)
      | .poison | .timeout | .linkFail | .unsupported | .abort =>
        .next ((seen s).failReq r .capacityTierError)

end Sys2Proof.Machine
end

