-- ==== Sys2Proof/Machine/Banks.lean ====
section
/-! DEFINITION. Cluster SRAM banks: scratchpad accesses and atomics, FIFO pushes and pops, and changes of a bank's mode
(R192 to R198, CFGBANK of R445). -/

namespace Sys2Proof.Machine

/-! ### Where scratchpad lies (R193) -/

/-- Lines of an allocation that lie in the `j`-th of its `m` banks (R193). -/
def bankShare (lines m j : Nat) : Nat := (lines + m - 1 - j) / m

/-- The lowest line of a bank of 8,192 from which `n` lines are free of the ranges taken. -/
def gapFor (taken : List (Nat × Nat)) (n : Nat) : Option Nat :=
  ((0 :: taken.map fun p => p.1 + p.2).filter fun a =>
    decide (a + n ≤ 8192) && !taken.any fun p => overlaps a n p.1 p.2).foldl
      (fun best a => match best with
        | some b => some (min a b)
        | none => some a) none

/-- One allocation over the most of some banks that can each hold its share contiguously: the banks in ascending order, with the
line each share starts at (R193).  Which banks an allocation takes is not given by the spec (log entry 33). -/
def spadList (taken : Nat → List (Nat × Nat)) (lines : Nat) : Nat → List Nat → Option (List (Nat × Nat))
  | 0, _ => none
  | fuel + 1, banks =>
    let got := banks.mapIdx fun j i => (i, gapFor (taken i) (bankShare lines banks.length j))
    if banks.isEmpty then none
    else if got.all fun p => p.2.isSome then some (got.map fun p => (p.1, p.2.getD 0))
    else spadList taken lines fuel ((got.filter fun p => p.2.isSome).map fun p => p.1)

/-- The lines that an allocation takes in a bank. -/
def sharesIn (lines : Nat) (l : List (Nat × Nat)) (i : Nat) : List (Nat × Nat) :=
  (l.mapIdx fun j p => (p.1, p.2, bankShare lines l.length j)).filterMap fun p =>
    if p.1 = i then some (p.2.1, p.2.2) else none

/-- The allocations of a gang's blocks, in rank order. -/
def spadLists (lines : Nat) (banks : List Nat) : Nat → (Nat → List (Nat × Nat)) → Option (List (List (Nat × Nat)))
  | 0, _ => some []
  | n + 1, taken => match spadList taken lines (banks.length + 1) banks with
    | none => none
    | some l => (spadLists lines banks n fun i => taken i ++ sharesIn lines l i).map (l :: ·)

/-- The lines of a bank that blocks' allocations take. -/
def State.bankTaken (s : State) (cluster i : Nat) : List (Nat × Nat) :=
  ((s.blks.filter fun p => p.1 / 128 == cluster).map fun p => sharesIn (p.2.info.spadB / 128) (p.2.spadBanks.zip p.2.spadAt) i).flatten

/-- Whether a block stands on a core or a bank that is fenced (R51). -/
def State.onFenced (s : State) (core : Nat) (b : Blk) : Bool :=
  s.mem.fencedCores.contains core || b.spadBanks.any fun i => s.mem.fencedBanks.contains (bankKey (core / 8) i)

/-- A block's bank list without the fenced banks, where the sound banks in scratchpad mode have room for their shares (R51, R193).
The number of banks stays as it is; the share of a fenced bank goes to a bank that the allocation does not use. -/
def State.rebank (s : State) (cluster : Nat) (b : Blk) : Option (List (Nat × Nat)) :=
  let fenced (i : Nat) : Bool := s.mem.fencedBanks.contains (bankKey cluster i)
  let old := b.spadBanks.zip b.spadAt
  if !b.spadBanks.any fenced then some old
  else
    let lines := b.info.spadB / 128
    let usable := (List.range 32).filter fun i => !fenced i && !b.spadBanks.contains i
      && (s.bank (bankKey cluster i)).mode == .spad && (s.bank (bankKey cluster i)).change.isNone
      && (gapFor (s.bankTaken cluster i) (bankShare lines old.length 0)).isSome
    let kept := b.spadBanks.filter fun i => !fenced i
    let list := (List.range 32).filter fun i => kept.contains i || (usable.take (old.length - kept.length)).contains i
    let own := { s with blks := s.blks.filter fun p => p.2.adm != b.adm }
    if list.length ≠ old.length then none else spadList (own.bankTaken cluster) lines 1 list

/-! ### Scratchpad bytes (R193, R195) -/

/-- A scratchpad byte; one never written is undefined (R156). -/
def Blk.spadByte (b : Blk) (o : Nat) : Byte := (nget b.spad o).getD (Config.freeByte b.spadSeed o)
/-- Scratchpad bytes. -/
def Blk.spadRead (b : Blk) (o n : Nat) : List Byte := (List.range n).map fun i => b.spadByte (o + i)
/-- Scratchpad bytes written. -/
def Blk.spadWrite (b : Blk) (o : Nat) : List Byte → Blk
  | [] => b
  | x :: t => { b with spad := nput o x b.spad }.spadWrite (o + 1) t

/-- WHERE of a cluster SRAM line (R53); the word's number is not given by the spec. -/
def sramWhere (k line : Nat) : Word :=
  BitVec.ofNat 32 (k / 32 + k % 32 * 256) ||| ((Config.dramPlace (2 ^ 64 * (k + 1) + line)) <<< 13)

/-- What the code of a bank finds (R39, R50, R53): a record and a test. -/
def State.sramEcc (s : State) (k line : Nat) (o : EccOutcome) : State :=
  let syn := (Config.freeWord s.fresh 0 0).toNat % 65536
  let rec' (type : Nat) : State :=
    ((s.errRecord type 0 1 0 (sramWhere k line) syn 0).bump).scheduleTest 1 (sramWhere k line) 0 fun t =>
      (fld t.loc 0 5).toNat == k / 32
  match o with
  | .corrected | .metaCorrected => rec' 12
  | .uncorrectable | .metaUncorrectable => rec' 13
  | .clean => s

/-- Whether the code of a bank found an error that it cannot correct. -/
def eccLost (o : EccOutcome) : Bool := o == .uncorrectable || o == .metaUncorrectable

/-- A scratchpad line's poison after a write (R42, R43, R44). -/
def State.spadPoisonWrite (s : State) (key : Nat) (b : Blk) (line : Nat) (full : Bool) : State :=
  if full then { s with blks := nput key { b with spadPoison := b.spadPoison.filter (· != line) } s.blks }
  else if b.spadPoison.contains line then s.errRecord 6 0 1 0 (sramWhere (bankKey (key / 128) (b.bankOf line)) line) 0 0
  else s

/-- The lanes of a scratchpad atomic applied in ascending order in its bank (R196). -/
def spadApply (b : Blk) (r : Req) : List LaneOp → Blk × List (Nat × QWord)
  | [] => (b, [])
  | o :: rest =>
    let (bs, v) := r.kind.apply r.size o (b.spadRead o.addr r.size)
    let (b2, vs) := spadApply (b.spadWrite o.addr bs) r rest
    (b2, (o.lane, v) :: vs)

/-- A scratchpad request served by its bank (R195, R196); `lost` says that the line's data could not be corrected. -/
def State.serveSpad (s : State) (r : Req) (key : Nat) (b : Blk) (lost : Bool) : State :=
  let bad := b.spadPoison.contains r.line
  match r.kind with
  | .load =>
    if lost then s.failReq r .eccSram
    else if bad then s.failReq r .poisonConsumed
    else s.modReq r.id fun q => { q with
      stage := .served, got := r.ops.map fun o => (o.lane, r.extend (leNat (b.spadRead o.addr r.size))) }
  | .store =>
    let b1 := r.ops.foldl (fun b o => b.spadWrite o.addr (leBytes r.size o.data.toNat)) b
    (({ s with blks := nput key b1 s.blks } : State).spadPoisonWrite key b1 r.line r.fullLine).modReq r.id
      fun q => { q with stage := .served }
  | _ =>
    if lost then s.failReq r .eccSram
    else if bad then s.failReq r .poisonConsumed
    else
      let (b1, vs) := spadApply b r r.ops
      ({ s with blks := nput key b1 s.blks } : State).modReq r.id
        fun q => { q with stage := .served, got := if r.dst == Dst.none then [] else vs }

/-! ### FIFO banks (R197, R198) -/

/-- The entry a push makes: lane L's word at bytes 4L to 4L + 3, zero from inactive lanes (R197). -/
def Req.fifoEntry (r : Req) : FifoEntry :=
  { data := (List.range 32).map fun l => match r.ops.find? fun o => o.lane == l with
      | some o => o.data.setWidth 32
      | none => 0
    poisoned := false }

/-- A pop answered with an entry; a poisoned entry is consumed and faults (R42). -/
def State.givePop (s : State) (id : Nat) (e : FifoEntry) : State :=
  match s.req? id with
  | none => s
  | some r =>
    if e.poisoned then s.failReq r .poisonConsumed
    else s.modReq id fun q => { q with
      stage := .served, got := r.ops.map fun o => (o.lane, zext 128 (e.data.getD o.lane 0)) }

/-- A FIFO operation of a request recorded on its bank (R198). -/
def State.noteFifo (s : State) (k id : Nat) : State :=
  match s.req? id with
  | some r => s.note r.core (issuerOf r.bctx r.w) r.low (objFifo (k / 32) (k % 32)) true none none
  | none => s

/-- Whether a waiter of a bank is a copy command, which takes or brings its entry itself when its turn has come. -/
def State.isCopyWaiter (s : State) (id : Nat) : Bool := s.cmds.any fun k => k.id == id && !k.finished

/-- The waiters of a bank served in the order in which they reached it, as long as entries and room allow (R198): a waiting pop takes
the oldest entry, and a waiting push is appended; a copy command at the head of its list keeps its turn.  `n` bounds their number. -/
def State.serveWaits (k : Nat) : Nat → State → State
  | 0, s => s
  | n + 1, s =>
    let b := s.bank k
    match b.waitPop, b.fifo, b.waitPush with
    | p :: ps, e :: es, _ =>
      if s.isCopyWaiter p then s
      else if (s.req? p).isNone then State.serveWaits k n (s.modBank k fun b => { b with waitPop := ps })
      else State.serveWaits k n (((s.modBank k fun b => { b with waitPop := ps, fifo := es }).noteFifo k p).givePop p e)
    | _, _, p :: ps =>
      if 8192 ≤ b.fifo.length || s.isCopyWaiter p then s
      else match s.req? p with
        | none => State.serveWaits k n (s.modBank k fun b => { b with waitPush := ps })
        | some r =>
          State.serveWaits k n (((s.modBank k fun b => { b with fifo := b.fifo ++ [r.fifoEntry], waitPush := ps }).noteFifo k p).modReq p
            fun q => { q with stage := .served })
    | _, _, [] => s

/-- The waiters of a bank served after an entry has come or gone. -/
def State.afterFifo (s : State) (k : Nat) : State :=
  State.serveWaits k (2 * ((s.bank k).waitPop.length + (s.bank k).waitPush.length)) s

/-- An entry appended to a bank; the oldest waiting pop takes it (R198). -/
def State.fifoPush (s : State) (k : Nat) (e : FifoEntry) : State :=
  (s.modBank k fun b => { b with fifo := b.fifo ++ [e] }).afterFifo k

/-- The oldest entry taken from a bank, and the oldest waiting push appended in its place (R198). -/
def State.fifoPop (s : State) (k : Nat) : State × Option FifoEntry :=
  match (s.bank k).fifo with
  | [] => (s, none)
  | e :: rest => ((s.modBank k fun b => { b with fifo := rest }).afterFifo k, some e)

/-- A FIFO request at the head of its bank's queue (R197, R198): it waits where the bank is empty or full, or others wait. -/
def State.serveFifo (s : State) (r : Req) (k : Nat) : State :=
  let b := s.bank k
  match r.kind with
  | .load =>
    if b.fifo.isEmpty || !b.waitPop.isEmpty then
      ((s.modBank k fun b => { b with waitPop := b.waitPop ++ [r.id] }).modReq r.id fun q => { q with stage := .waiting }).afterFifo k
    else
      let (s1, e) := (s.noteFifo k r.id).fifoPop k
      match e with
      | some e => s1.givePop r.id e
      | none => s1
  | _ =>
    if 8192 ≤ b.fifo.length || !b.waitPush.isEmpty then
      ((s.modBank k fun b => { b with waitPush := b.waitPush ++ [r.id] }).modReq r.id fun q => { q with stage := .waiting }).afterFifo k
    else ((s.noteFifo k r.id).fifoPush k r.fifoEntry).modReq r.id fun q => { q with stage := .served }

/-- A copy command that has come to wait at a bank (R198). -/
def State.waitAt (s : State) (push : Bool) (k id : Nat) : State :=
  let add (l : List Nat) : List Nat := if l.contains id then l else l ++ [id]
  s.modBank k fun b => if push then { b with waitPush := add b.waitPush } else { b with waitPop := add b.waitPop }

/-- A copy command whose turn at a bank has come leaves its list. -/
def State.leaveWait (s : State) (push : Bool) (k id : Nat) : State :=
  let out (l : List Nat) : List Nat := l.filter (· != id)
  s.modBank k fun b => if push then { b with waitPush := out b.waitPush } else { b with waitPop := out b.waitPop }

/-- Whether a copy command may move its next entry at a bank: the bank is not changing its mode (R192), nothing waits before the
command, and there is an entry or room (R198). -/
def State.mayMove (s : State) (push : Bool) (k id : Nat) : Bool :=
  let b := s.bank k
  let first (l : List Nat) : Bool := l.isEmpty || l.head? == some id
  b.change.isNone && (if push then first b.waitPush && decide (b.fifo.length < 8192) else first b.waitPop && !b.fifo.isEmpty)

/-! ### Serving a bank's queue (R194) -/

/-- A request whose scratchpad is gone (R189): a load's value is undefined, anything else is dropped. -/
def State.serveLost (s : State) (r : Req) : State :=
  s.bump.modReq r.id fun q => { q with
    stage := .served
    got := if r.dst == Dst.none then [] else r.ops.map fun o => (o.lane, zext 128 (Config.freeWord s.fresh 1 o.lane)) }

/-- BANK_REQUEST_SERVE (R194): arguments `a` cluster, `b` bank, `ecc` what the bank's code finds. -/
def execBankRequestServe (s : State) : Host.Outcome State Fault Refusal :=
  let k := bankKey s.arg.a s.arg.b
  match (s.bank k).queue with
  | [] => .next s
  | id :: rest =>
    let popped := s.modBank k fun b => { b with queue := rest }
    match s.req? id with
    | none => .next popped.admitReqs
    | some r =>
      if !s.mayOp r.core (issuerOf r.bctx r.w) r.low || s.islandDown (clusterIsland s.arg.a) then .next s
      else match r.home with
        | .spad adm => match s.blkOf adm with
          | none => .next (popped.serveLost r).admitReqs
          | some (key, b) =>
            let s1 := (popped.sramEcc k r.line s.arg.ecc).note r.core (issuerOf r.bctx r.w) r.low (objSpad adm r.line)
              r.kind.modifies none r.kind.close
            .next (s1.serveSpad r key b (eccLost s.arg.ecc)).admitReqs
        | .fifo _ _ =>
          if eccLost s.arg.ecc && r.kind == .load then .next ((popped.sramEcc k r.line s.arg.ecc).failReq r .eccSram).admitReqs
          else .next ((popped.sramEcc k r.line s.arg.ecc).serveFifo r k).admitReqs
        | _ => .next popped

/-! ### Changes of mode (R192) -/

/-- Whether some block's scratchpad lies in a bank (R192). -/
def State.bankAllocated (s : State) (k : Nat) : Bool :=
  s.blks.any fun p => p.1 / 128 == k / 32 && p.2.spadBanks.contains (k % 32)

/-- The banks of a cluster in cache mode and not leaving it. -/
def State.cacheBanks (s : State) (cluster : Nat) : List Nat :=
  (List.range 32).filter fun i => (s.bank (bankKey cluster i)).mode == .cache && (s.bank (bankKey cluster i)).change.isNone

/-- Whether a change of a bank's mode is refused (R192). -/
def State.changeRefused (s : State) (k : Nat) (m : BankMode) (ctx : Option Nat) : Bool :=
  let b := s.bank k
  if b.mode == .fifo && b.owner != ctx then true
  else if b.mode == m then false
  else match b.mode with
    | .cache => decide ((s.cacheBanks (k / 32)).length < 3)
    | .spad => s.bankAllocated k
    | .fifo => !b.waitPop.isEmpty || !b.waitPush.isEmpty

/-- A change of a bank's mode begun: new requests are held (R192). -/
def State.beginChange (s : State) (k : Nat) (m : BankMode) (owner : Option Nat) (by' : Option (Nat × Nat)) : State :=
  if (s.bank k).mode = m then s else s.modBank k fun b => { b with change := some (m, owner), changer := by' }

/-- A bank enters its new mode with its old contents disposed of: memory already holds the bytes of a way's lines, and
a FIFO's entries are discarded; what waits at the bank, held since the change began, is decoded again under the new mode (R192, log entry
47). -/
def State.finishChange (s : State) (k : Nat) : State :=
  match (s.bank k).change with
  | none => s
  | some (m, owner) =>
    let held := (s.bank k).waitPop ++ (s.bank k).waitPush
    let s1 : State := { s with
      mem := { s.mem with cache := s.mem.cache.filter fun c => !(c.holder == k / 32 && c.way == k % 32) }
      reqs := s.reqs.map fun r => if held.contains r.id then { r with stage := .queued } else r }
    (s1.modBank k fun b => { b with
      mode := m, owner := if m = .fifo then owner else none, fifo := [], waitPop := [], waitPush := [], change := none, changer := none
      done := b.changer.toList ++ b.done, stoked := false }).admitReqs

/-- BANK_MODE_CHANGE_DONE (R192): arguments `a` cluster, `b` bank; requests already queued complete first. -/
def execBankModeChangeDone (s : State) : Host.Outcome State Fault Refusal :=
  let k := bankKey s.arg.a s.arg.b
  if (s.bank k).queue.isEmpty then .next (s.finishChange k) else .next s

/-- The mode a CFGBANK selector names (R445). -/
def bankModeOf (m : BitVec 2) : BankMode := if m = 0 then .cache else if m = 1 then .spad else .fifo

/-- CFGBANK (R445): stalls until the change of R192 has completed. -/
def execCfgbank (w : UniW) (s : State) : Host.Outcome State Fault Refusal :=
  uniWordOp (.cfgbank w) w s fun s0 c b t =>
    let sel := srcU b w.sa w.lit
    let cluster := (fld sel 5 5).toNat
    let k := bankKey cluster (fld sel 0 5).toNat
    let m := bankModeOf (fld sel 10 2)
    let me := (b.adm, c.w)
    let issuer := issuerOf c.bctx c.w
    if fld sel 10 2 = 3 ∨ fld sel 12 52 ≠ 0 then s.trapWord c b t .reservedField c.lanes
    else if 24 ≤ cluster then s.trapWord c b t .operandRange c.lanes
    else if s.kindling && cluster != 0 then s.trapWord c b t .kindlingUnavailable c.lanes
    else if (s.bank k).done.contains me then
      (s0.modBank k fun x => { x with done := x.done.filter (· != me) }).retire c c.lanes
    else if (s.bank k).change.isSome then s.stall c
    else if s.changeRefused k m (some b.info.ctx) then s.trapWord c b t .operandRange c.lanes
    else if s.heldBack c.core c.bctx c.w b.adm c.lanes || !s.mayStart c.core issuer (lowestLane c.lanes) then s.stall c
    else
      let s1 := s.note c.core issuer (lowestLane c.lanes) objNone false none none
      if (s.bank k).mode = m then (s1.noteUnis c b (uniUnis (.cfgbank w) w) false).retire c c.lanes
      else (s1.beginChange k m (some b.info.ctx) (some me)).stall c

end Sys2Proof.Machine
end

