-- ==== Sys2Proof/Machine/Image.lean ====
section
/-! DEFINITION. Context images (R287 to R292): where a block's image lies, what its bytes are, and what a restore takes
back from them. -/

namespace Sys2Proof.Machine

/-- A core's scale-memory byte; one never written is undefined (R202). -/
def Core.scaleByte (k : Core) (a : Nat) : Byte := (nget k.scale a).getD (Config.freeByte k.scaleSeed a)

/-! ### Sizes and offsets (R288) -/

/-- Offset B of R288. -/
def NodeInfo.imgB (i : NodeInfo) : Nat := 0x100 + 0x800 * i.wpb
/-- Offset of the pool rows. -/
def NodeInfo.imgPool (i : NodeInfo) : Nat := i.imgB + 0xB00
/-- Offset of a row of a warp. -/
def NodeInfo.imgRow (i : NodeInfo) (w r : Nat) : Nat := i.imgPool + 128 * (w * i.sliceRows + r)
/-- Offset of the scale slice. -/
def NodeInfo.imgScale (i : NodeInfo) : Nat := i.imgPool + 128 * i.wpb * i.sliceRows
/-- Offset of the timeline marks. -/
def NodeInfo.imgMarks (i : NodeInfo) : Nat := i.imgScale + i.scaleB
/-- Bytes of an image. -/
def NodeInfo.imgBytes (i : NodeInfo) : Nat := i.imgMarks + 128 * i.wpb

/-! ### Parts of an image -/

/-- Whether a party of a block that replay has stopped is the one that diverged (R143). -/
def State.divergedAt (s : State) (core bctx w : Nat) (b : Blk) : Bool :=
  b.parkReason % 8 == 4 && s.recd.divAgent.toNat == core
    && ((s.logAt core).bind fun k => runAt k.runs s.recd.divOp.toNat).any fun r => r.issuer.toNat == issuerOf bctx w

/-- A wake entry (R292), of the lowest-numbered blocked lane; `div` says that the party's fault is REPLAY_DIVERGENCE.  DESIGN CHOICE: R292
has no row for lanes that wait for their turn in the handler or are halted; their KIND is 0 (log entry 47). -/
def State.wakeEntry (s : State) (b : Blk) (div : Bool) (t : Thr) : List Byte :=
  let e (kind sub id : Nat) (v : DWord) : List Byte := dwordBytes [at64 0 kind ||| at64 8 sub ||| at64 16 id, v]
  if div then e 12 0 0 0
  else match t.lanes.findSome? fun l => match l.stat with
    | .blocked p => some p
    | _ => none with
  | none => e 0 0 0 0
  | some p => match p with
    | .barrier n ph _ => e 1 n 0 (BitVec.ofNat 64 ph)
    | .phaser n ph _ _ => e 2 0 n (BitVec.ofNat 64 ph)
    | .timeline n v => e 3 0 n v
    | .emptyReg uni r => e 4 r uni.toNat 0
    | .stageWait v => e 5 0 0 v
    | .token m => e 6 m.toNat 0 0
    | .tile n => e 7 n 0 0
    | .mwait n => e 7 0xFF 0 (BitVec.ofNat 64 n)
    | .waitaddr _ va => e 8 0 0 va
    | .remoteLoad _ r => e 9 r 0 0
    | .yielded => e 10 0 0 0
    | .tblload => e 11 0 0 0
    | .service page =>
      e 12 0 0 (match page with
        | some pg => (s.xl.faults.find? fun f => f.ctx == b.info.ctx && f.page == pg).elim 0 fun f => zext 64 f.fseq
        | none => 0)
    | .trapTurn | .haltStop => e 0 0 0 0

/-- Bits as little-endian bytes. -/
def bitBytes (n : Nat) (f : Nat → Bool) : List Byte :=
  (List.range n).map fun i => BitVec.ofNat 8 (((List.range 8).filter fun j => f (8 * i + j)).foldl (fun m j => m + 2 ^ j) 0)

/-- The loop levels of a party (R290). -/
def Thr.loopBytes (t : Thr) : List Byte :=
  (t.loops.map fun l => dwordBytes [at64 0 l.lc.toNat ||| at64 32 l.active.toNat, l.start]).flatten

/-- The token counts of a party (R290). -/
def Thr.tokenBytes (t : Thr) : List Byte := leBytes 4 (t.tokens.foldr (fun k n => k % 16 + 16 * n) 0)

/-- The parts of a warp record, by offset in it (R290).  The divergence block is opaque: its bytes are free.  DESIGN CHOICE: R290 gives the
trap sub-warps awaiting TRET three bits; more than seven read as seven (log entry 47). -/
def State.warpParts (s : State) (b : Blk) (div : Bool) (t : Thr) (w seed : Nat) : List (Nat × List Byte) :=
  [ (0, (List.range 1024).map fun i => Config.freeByte seed (w * 1024 + i)),
    (0x400, leBytes 4 t.frm.toNat ++ leBytes 4 t.poolb ++ leBytes 4 t.lseq.toNat ++ leBytes 4 t.srSeed.toNat
      ++ (t.preds.map fun p => leBytes 4 p.toNat).flatten ++ leBytes 4 0),
    (0x430, bitBytes 16 fun r => !t.isEmpty r),
    (0x440, t.loopBytes ++ t.tokenBytes ++ (t.loops.map fun l => leBytes 4 l.mask.toNat).flatten),
    (0x480, s.wakeEntry b div t),
    (0x490, dwordBytes [t.tcause, t.tpc, t.tnpc, t.taddr, t.tmask, t.tword, t.tsite]),
    (0x4C8, dwordBytes [at64 0 t.inHandler.toNat ||| at64 1 (min 7 t.trapQ.length), t.stage, t.cpystat]
      ++ List.replicate 32 0),
    (0x500, (t.srCnt.map fun x => leBytes 4 x.toNat).flatten),
    (0x580, (t.tscr.map fun row => (row.map fun x => leBytes 4 x.toNat).flatten).flatten),
    (0x780, t.asyncBytes) ]

/-- The matrix-stream record (R291). -/
def State.matrixPart (s : State) (b : Blk) (div : Bool) : List Byte :=
  match b.thr? 32 with
  | none => List.replicate 256 0
  | some t =>
    leBytes 8 (t.lane 0).pc.toNat ++ leBytes 4 t.lseq.toNat ++ t.tokenBytes ++ t.loopBytes ++ s.wakeEntry b div t
      ++ leBytes 8 (1 + 2 * ((t.lane 0).stat == .exited).toNat + 4 * t.terminated.toNat) ++ leBytes 8 t.cpystat.toNat
      ++ dwordBytes t.marks ++ List.replicate 32 0

/-- Whether a party waits: some lane is blocked and none runs. -/
def Thr.waits (t : Thr) : Bool :=
  (t.lanes.any fun l => match l.stat with
    | .blocked _ => true
    | _ => false) && !t.lanes.any Lane.ready

/-- The image header (R289); its faults are pages without an answer, an IMEM_ERROR whose test is not over, and a divergence. -/
def State.imgHeader (s : State) (core bctx : Nat) (b : Blk) (reason : Nat) : List Byte :=
  let i := b.info
  let node := (s.stoker.nodes.find? fun n => n.addr == i.node && n.ctx == i.ctx).elim 0 fun n => n.seq.toNat
  let joined := (((b.thrs.map fun p => p.2.lanes.filterMap fun l => match l.stat with
    | .blocked (.service (some p)) => some p
    | _ => none).flatten).eraseDups.filter fun p => s.xl.faults.any fun f => f.ctx == i.ctx && f.page == p).length
  let testing := s.mem.tests.any fun t => t.unit == 2 && (fld t.loc 0 5).toNat * 8 + (fld t.loc 5 3).toNat == core
  let faulty := testing && b.thrs.any fun p => p.2.lanes.any fun l => l.stat == .blocked (.service none) && (match l.trap with
    | .pending _ => false
    | _ => true)
  let gone := ((List.range i.wpb).filter fun w => match b.thr? w with
    | some t => t.exited
    | none => true).foldl (fun m w => m + 2 ^ w) 0
  leBytes 4 0x53374349 ++ leBytes 2 1 ++ leBytes 2 reason ++ leBytes 4 i.nodeId.toNat ++ leBytes 4 node
    ++ leBytes 4 i.g ++ leBytes 1 i.rank ++ leBytes 1 i.wpb ++ leBytes 1 i.bpg ++ leBytes 1 i.ctx
    ++ leBytes 2 i.sliceRows ++ leBytes 2 i.poolRows ++ leBytes 4 i.accRows ++ leBytes 4 i.scaleB ++ leBytes 1 i.tiles
    ++ leBytes 1 core ++ leBytes 1 bctx ++ leBytes 1 0 ++ leBytes 8 i.imgBytes ++ leBytes 8 s.tick ++ leBytes 4 gone
    ++ leBytes 2 (joined + faulty.toNat + (b.parkReason % 8 == 4).toNat) ++ List.replicate 194 0

/-- The barriers of a block in its image, from offset B + 0xA00 (R288). -/
def Blk.barBytes (b : Blk) : List Byte :=
  (b.bars.map fun k =>
    dwordBytes [at64 0 k.parts.toNat ||| at64 34 k.init.toNat, at64 0 k.arrived.toNat ||| at64 34 (k.phase % 2 ^ 30)]).flatten

/-- The block-wide part of an image, from offset B + 0x100 to B + 0xAFF (R288). -/
def Blk.imgBlock (b : Blk) : List Byte :=
  dwordBytes ((List.range 256).map fun n => if n = 255 then 0 else b.sreg n)
    ++ bitBytes 32 (fun n => n != 255 && !b.sIsEmpty n) ++ leBytes 8 b.q.toNat ++ leBytes 8 b.stageCount
    ++ (List.range 64).map (fun i => (b.tileRefs[i]?).elim 0xFF (BitVec.ofNat 8))
    ++ leBytes 8 (b.thrs.foldl (fun m p => if p.2.waits then m + 2 ^ p.1 else m) 0)
    ++ leBytes 1 (b.accCtx.getD 0xFF) ++ List.replicate 135 0
    ++ b.barBytes

/-- The parts of a block's image, by offset (R288). -/
def State.imgParts (s : State) (core bctx : Nat) (b : Blk) (reason seed : Nat) : List (Nat × List Byte) :=
  let i := b.info
  let warps := (List.range i.wpb).filterMap fun w => (b.thr? w).map fun t => (w, t)
  [(0, s.imgHeader core bctx b reason)]
    ++ (warps.map fun p => (s.warpParts b (s.divergedAt core bctx p.1 b) p.2 p.1 seed).map fun q => (0x100 + 0x800 * p.1 + q.1, q.2)).flatten
    ++ [(i.imgB, s.matrixPart b (s.divergedAt core bctx 32 b)), (i.imgB + 0x100, b.imgBlock)]
    ++ (warps.map fun p => (List.range i.sliceRows).map fun r =>
        (i.imgRow p.1 r, ((p.2.row r).map fun x => leBytes 4 x.toNat).flatten)).flatten
    ++ [(i.imgScale, (List.range i.scaleB).map fun a => (s.coreAt core).scaleByte (b.scaleCol * 128 + a))]
    ++ warps.map fun p => (i.imgMarks + 128 * p.1, dwordBytes p.2.marks)

/-- A block's image written (R286 to R292). -/
def State.writeImage (s : State) (core bctx : Nat) (b : Blk) (reason : Nat) : State :=
  let s1 := (s.imgParts core bctx b reason s.fresh).foldl (fun t p => t.put (imageBase core bctx + p.1) p.2) s
  s1.bump.setBlk core bctx { b with imgSeed := s.fresh }

/-! ### Reading an image back (R289, R294) -/

/-- A little-endian field of an image. -/
def State.imgField (s : State) (core bctx off n : Nat) : Nat := leNat (s.peek (imageBase core bctx + off) n)

/-- Whether MAGIC, VERSION and the size fields of an image match the node's (R289). -/
def State.imgMatches (s : State) (core bctx : Nat) (i : NodeInfo) : Bool :=
  let f (off n : Nat) : Nat := s.imgField core bctx off n
  f 0 4 == 0x53374349 && f 4 2 == 1 && f 0x15 1 == i.wpb && f 0x16 1 == i.bpg && f 0x18 2 == i.sliceRows
    && f 0x1A 2 == i.poolRows && f 0x1C 4 == i.accRows && f 0x20 4 == i.scaleB && f 0x24 1 == i.tiles
    && f 0x28 8 == i.imgBytes

/-- Whether a bit of an image's bit string is set. -/
def State.imgBit (s : State) (core bctx off k : Nat) : Bool := (s.imgField core bctx (off + k / 8) 1).testBit (k % 8)

/-- The loop levels that a record holds: their words from `off`, their masks from `masks` (R290).  Where the body ends is not in the image: it
stays with its level. -/
def State.imgLoops (s : State) (core bctx off masks : Nat) (ls : List LoopLvl) : List LoopLvl :=
  ls.mapIdx fun n l => { l with
    lc := BitVec.ofNat 32 (s.imgField core bctx (off + 16 * n) 4), active := s.imgBit core bctx (off + 16 * n + 4) 0
    start := BitVec.ofNat 64 (s.imgField core bctx (off + 16 * n + 8) 8)
    mask := BitVec.ofNat 32 (s.imgField core bctx (masks + 4 * n) 4) }

/-- The pending asynchronous traps that a record holds (R290); one that stands as the device wrote it keeps what the image has no place
for. -/
def State.imgAsync (s : State) (core bctx off : Nat) (q : List ATrap) : List ATrap :=
  (List.range 4).filterMap fun i =>
    let bs := s.peek (imageBase core bctx + off + 32 * i) 32
    let d (k n : Nat) : Nat := leNat ((bs.drop k).take n)
    if !(d 0 8).testBit 14 then none
    else match (q[i]?).filter fun a => a.bytes == bs with
      | some a => some a
      | none => some { cause := Cause.ofCode (d 0 8 % 64), origin := BitVec.ofNat 2 (d 0 8 / 64), more := BitVec.ofNat 6 (d 1 1), serviced := false
                       pc := BitVec.ofNat 64 (d 8 8), addr := BitVec.ofNat 64 (d 16 8), lseq := BitVec.ofNat 32 (d 24 4)
                       issuer := BitVec.ofNat 6 (d 28 1) }

/-- A warp's record, rows and timeline marks as its image has them (R262, R280, R290, R294, R410); a changed divergence block leaves the PCs
and MRs undefined (R289). -/
def State.imgWarp (s : State) (core bctx : Nat) (i : NodeInfo) (w seed : Nat) (t : Thr) : Thr :=
  let base := 0x100 + 0x800 * w
  let same := (List.range 1024).all fun k =>
    s.imgField core bctx (base + k) 1 == (Config.freeByte seed (w * 1024 + k)).toNat
  let d (off : Nat) : DWord := BitVec.ofNat 64 (s.imgField core bctx (base + off) 8)
  let x (off : Nat) : Word := BitVec.ofNat 32 (s.imgField core bctx (base + off) 4)
  { t with
    frm := x 0x400, poolb := s.imgField core bctx (base + 0x404) 2, lseq := x 0x408, srSeed := x 0x40C
    empty := (List.range 128).filter fun r => !s.imgBit core bctx (base + 0x430) r
    loops := s.imgLoops core bctx (base + 0x440) (base + 0x474) t.loops
    tokens := t.tokens.mapIdx fun k _ => s.imgField core bctx (base + 0x470) 4 / 16 ^ k % 16
    stage := d 0x4D0, asyncQ := s.imgAsync core bctx (base + 0x780) t.asyncQ
    srCnt := (List.range 32).map fun l => x (0x500 + 4 * l)
    tscr := (List.range 4).map fun j => (List.range 32).map fun l => x (0x580 + 128 * j + 4 * l)
    tcause := d 0x490, tpc := d 0x498, tnpc := d 0x4A0, taddr := d 0x4A8, tmask := d 0x4B0, tword := d 0x4B8, tsite := d 0x4C0
    cpystat := d 0x4D8
    marks := t.marks.mapIdx fun n _ => BitVec.ofNat 64 (s.imgField core bctx (i.imgMarks + 128 * w + 8 * n) 8)
    preds := (List.range 7).map fun n => BitVec.ofNat 32 (s.imgField core bctx (base + 0x410 + 4 * n) 4)
    rows := (List.range i.sliceRows).map fun r =>
      (r, (List.range 32).map fun l => BitVec.ofNat 32 (s.imgField core bctx (i.imgRow w r + 4 * l) 4))
    lanes := if same then t.lanes
      else t.lanes.mapIdx fun l x => { x with
        pc := Config.freeDWord s.fresh (BitVec.ofNat 32 (2 * l)), mr := Config.freeDWord s.fresh (BitVec.ofNat 32 (2 * l + 1))
        clause := none } }

/-- The matrix stream's record as its image has it (R291, R294); where its PC has been changed it stands at no word of a clause. -/
def State.imgMatrix (s : State) (core bctx base : Nat) (t : Thr) : Thr :=
  let pc : DWord := BitVec.ofNat 64 (s.imgField core bctx base 8)
  { t with
    lseq := BitVec.ofNat 32 (s.imgField core bctx (base + 8) 4)
    tokens := t.tokens.mapIdx fun k _ => s.imgField core bctx (base + 0xC) 4 / 16 ^ k % 16
    loops := (s.imgLoops core bctx (base + 0x10) 0 t.loops).mapIdx fun n l => { l with mask := (t.loops.getD n l).mask }
    cpystat := BitVec.ofNat 64 (s.imgField core bctx (base + 0x58) 8)
    marks := t.marks.mapIdx fun n _ => BitVec.ofNat 64 (s.imgField core bctx (base + 0x60 + 8 * n) 8)
    lanes := t.lanes.map fun l => if (t.lane 0).pc = pc then l else { l with pc := pc, clause := none } }

/-- A barrier as its image has it (R288); of a phase that stands as the device wrote it the image holds only the low bits. -/
def State.imgBar (s : State) (core bctx off : Nat) (k : Bar) : Bar :=
  let a := s.imgField core bctx off 8
  let p := s.imgField core bctx (off + 8) 8
  { init := a.testBit 34, parts := BitVec.ofNat 34 a, arrived := BitVec.ofNat 34 p
    phase := if p / 2 ^ 34 = k.phase % 2 ^ 30 then k.phase else p / 2 ^ 34 }

/-- A block as its image has it: registers, predicates, uniform state, tile references, barriers and its parties' records (R288, R289, R294). -/
def State.imgBlk (s : State) (core bctx : Nat) (b : Blk) : Blk :=
  let i := b.info
  let f (off n : Nat) : Nat := s.imgField core bctx (i.imgB + off) n
  { b with
    s := (List.range 254).map fun n => (n + 1, BitVec.ofNat 64 (f (0x100 + 8 * (n + 1)) 8))
    sEmpty := ((List.range 254).map (· + 1)).filter fun n => !s.imgBit core bctx (i.imgB + 0x900) n
    q := BitVec.ofNat 7 (f 0x920 8)
    tileRefs := b.tileRefs.mapIdx fun n _ => f (0x930 + n) 1
    accCtx := if f 0x978 1 = 0xFF then none else some (f 0x978 1)
    bars := b.bars.mapIdx fun n k => s.imgBar core bctx (i.imgB + 0xA00 + 16 * n) k
    thrs := b.thrs.map fun p =>
      if p.1 < 32 then (p.1, s.imgWarp core bctx i p.1 b.imgSeed p.2)
      else if p.1 = 32 then (p.1, s.imgMatrix core bctx i.imgB p.2)
      else p }

/-- The barriers and the stage counter of a parked block written into its image: they move on as what its access stream has asked for
completes (R286). -/
def State.imgSync (s : State) (core bctx : Nat) : State :=
  match s.blk? core bctx with
  | none => s
  | some b =>
    if !b.parkedNow then s
    else
      let base := imageBase core bctx + b.info.imgB
      (s.put (base + 0x928) (leBytes 8 b.stageCount)).put (base + 0xA00) b.barBytes

/-- The scale slice of an image written into the block's columns (R202, R294). -/
def State.imgScaleIn (s : State) (from' : Nat × Nat) (core : Nat) (b : Blk) : State :=
  let k := s.coreAt core
  s.setCore core { k with
    scale := (List.range b.info.scaleB).foldl
      (fun m a => nput (b.scaleCol * 128 + a) (BitVec.ofNat 8 (s.imgField from'.1 from'.2 (b.info.imgScale + a) 1)) m) k.scale }

end Sys2Proof.Machine
end

