-- ==== Sys2Proof/Machine/Landing.lean ====
section
/-! DEFINITION. Replies and acknowledgements: how a served request lands in its register, how a fault found at landing is
taken, and how a write is acknowledged (R171, R230, R275 to R285, R293). -/

namespace Sys2Proof.Machine

/-! ### Filling a register (R171) -/

/-- Whether another request of the instruction, or another lane of this one, still has to land in the same register. -/
def State.dstBusy (s : State) (r : Req) : Bool :=
  r.stage == ReqStage.waiting || s.reqs.any fun q => q.id != r.id && q.sameParty r && q.dst == r.dst

/-- Whether a request has a value to land: a served one, and a WAITADDR some of whose lanes still wait (R171, R293). -/
def Req.lands (r : Req) : Bool := r.dst.isReg && (r.stage == .served || (r.kind == .waitaddr && r.stage == .waiting && !r.got.isEmpty))

/-- The data of a request written to its destination, which fills when nothing else is due; the block's critical-path
token passes to a warp that waited for it (R147, R171). -/
def Blk.land (b : Blk) (r : Req) (last : Bool) : Blk :=
  match r.dst with
  | .none | .tbl _ => b
  | .uni n =>
    let b1 := match r.got with
      | (_, v) :: _ => b.landS n (v.setWidth 64)
      | [] => b
    let waits := b.thrs.any fun q => q.2.lanes.any fun l => match l.stat with
      | .blocked (.emptyReg true x) | .blocked (.remoteLoad true x) => x == n
      | _ => false
    if last then
      { b1 with
        sEmpty := b1.sEmpty.filter (· != n)
        tokenHolder := if waits then r.w else b.tokenHolder
        tokenEdge := if waits then 3 else b.tokenEdge }
    else b1
  | .lane v n => match b.thr? r.w with
    | none => b
    | some t =>
      let t1 := r.got.foldl (fun t p => t.putGroup v (laneBit p.1) (fun _ => p.2.toNat) n) t
      let waits := t.lanes.any fun l => match l.stat with
        | .blocked (.emptyReg false x) | .blocked (.remoteLoad false x) | .blocked (.waitaddr x _) =>
          r.dst.regs.contains x
        | _ => false
      { b.setThr r.w (if last then t1.fill r.dst.regs else t1) with
        tokenHolder := if last && waits then r.w else b.tokenHolder
        tokenEdge := if last && waits then 3 else b.tokenEdge }

/-- A request that is over. -/
def State.dropReq (s : State) (id : Nat) : State := { s with reqs := s.reqs.filter fun r => r.id != id }

/-- What has landed of a request taken off it: a served one is over, and of a WAITADDR the lanes that wait are left. -/
def State.landed (s : State) (r : Req) : State :=
  if r.stage = .waiting then
    s.modReq r.id fun q => { q with got := [], ops := q.ops.filter fun o => !(r.got.any fun g => g.1 == o.lane) }
  else s.dropReq r.id

/-! ### Faults found at landing (R274, R277, R281, R283) -/

/-- The faulting lanes of a request, grouped by their PC at delivery. -/
def Thr.faultGroups (t : Thr) (m : Word) : List (DWord × Word) :=
  ((maskLanes m).map fun l => (t.lane l).pc).eraseDups.map fun pc =>
    (pc, m &&& t.lanesWhere fun l => l.pc == pc)

/-- Whether a request is the access of its whole sub-warp: of a uniform word (R340) or of a table's image (R360). -/
def Req.whole (r : Req) : Bool :=
  match r.dst with
  | .uni _ | .tbl _ => true
  | _ => lanesMask (r.ops.map fun o => o.lane) != r.mask

/-- The trap a landing fault is reported with, for lanes whose PC is `pc` (R280, R281). -/
def Req.trapRec (r : Req) (cause : Cause) (pc : DWord) (m : Word) : TrapRec :=
  { n := 0, cause := cause, whenT := 1, serviced := false, rep := r.rep, flags := 0, origin := 0, lost := 0, more := 0,
    pc := r.pc, npc := pc
    addr := (r.ops.find? fun o => if r.whole then r.bad == 0 || r.bad.getLsbD o.lane else m.getLsbD o.lane).elim 0 fun o => o.va, active := m, faulting := m,
    word := r.word, ext := r.ext, lseq := r.lseq, issuer := BitVec.ofNat 6 r.w }

/-- The lanes that take a request's landing fault: those whose part failed or all of its own, and all that stand behind an access of the
whole sub-warp (R340, R360). -/
def Req.faultMask (r : Req) (t : Thr) : Word := (if r.whole || r.bad = 0 then r.mask else r.bad) &&& t.live

/-- Whether a landing fault can be taken now: no lane of it waits for another trap or for service. -/
def State.canFault (s : State) (r : Req) : Bool :=
  match s.thr? r.core r.bctx r.w with
  | none => true
  | some t => (maskLanes (r.faultMask t)).all fun l => match (t.lane l).trap with
    | .pending _ => false
    | _ => match (t.lane l).stat with
      | .blocked (.service _) => false
      | _ => true

/-- A fault found at landing (R274, R285): lanes are grouped by PC; a fast trap in handler mode kills; a uniform stream
ends, or stops for service. -/
def State.landFault (s : State) (r : Req) (cause : Cause) : State :=
  match s.blk? r.core r.bctx with
  | none => s
  | some b =>
    if b.adm ≠ r.adm then s
    else match b.thr? r.w with
      | none => s
      | some t =>
        let m := r.faultMask t
        if 32 ≤ r.w ∧ !cause.isService then
          if t.exited then s
          else s.endStream r.core r.bctx r.w
            { cause := cause, origin := if r.w = 32 then 2 else 3, more := 0, serviced := false, pc := r.pc,
              addr := (r.ops.head?).elim 0 fun o => o.va, lseq := r.lseq, issuer := BitVec.ofNat 6 r.w }
        else (t.faultGroups m).foldl
          (fun s g => match s.blk? r.core r.bctx with
            | none => s
            | some b => match b.thr? r.w with
              | none => s
              | some t =>
                if t.privileged g.2 && !cause.isService then s.kill b.info.ctx cause
                else if cause.isService then s.serviceRec r.core r.bctx r.w b t (r.trapRec cause g.1 g.2) fun _ => none
                else s.queueTrap r.core r.bctx r.w (r.trapRec cause g.1 g.2)) s

/-! ### Watchpoints that compare the value read (R149) -/

/-- The watchpoint kind of a request whose data are compared at its landing. -/
def Req.watchKind (r : Req) : Option Nat :=
  match r.kind with
  | .load | .waitaddr | .tagld => some 0
  | .atom _ | .cas => if r.dst = .none then none else some 2
  | _ => none

/-- The data of a lane's access: the value read, and of an atomic the value stored too (R149). -/
def Req.seenBy (r : Req) (o : LaneOp) (got : QWord) : List QWord :=
  got :: (if r.kind.isAtomic then [BitVec.ofNat 128 (leNat (r.kind.apply r.size o (leBytes r.size got.toNat)).1)] else [])

/-- The lanes of a landed access that match a value watchpoint, with their addresses; a lane in the handler never matches (R279). -/
def State.landHits (s : State) (b : Blk) (r : Req) : List (Nat × DWord) :=
  let handler (l : Nat) : Bool := (b.thr? r.w).any fun t => t.privileged (laneBit l)
  match if r.privileged then none else r.watchKind with
  | none => []
  | some kind => r.ops.filterMap fun o => match r.got.find? fun g => g.1 == o.lane with
    | some g =>
      if !handler o.lane && (s.watches b.info.ctx).any fun p => p.2.vcmp && p.2.covers kind o.gen r.size && p.2.inScope b r.w o.lane
          && (r.seenBy o (lowBytes r.size g.2)).any p.2.dataOk then some (o.lane, o.va) else none
    | none => none

/-- The watchpoint trap of a load whose register has just filled: all its matching lanes, naming the first matching
address (R149, R281); it ends a uniform stream (R285). -/
def State.landWatch (s : State) (r : Req) (key : Nat) : State :=
  match s.thr? r.core r.bctx r.w with
  | none => s
  | some t =>
    let hs := t.hits.filter fun h => h.1 == key
    let s1 := s.modThr r.core r.bctx r.w fun t => { t with hits := t.hits.filter fun h => h.1 != key }
    match hs with
    | [] => s1
    | h :: _ =>
      let m := (match r.dst with
        | .uni _ => r.mask
        | _ => lanesMask (hs.map fun h => h.2.1)) &&& t.live
      if 32 ≤ r.w then
        if t.exited then s1
        else s1.endStream r.core r.bctx r.w
          { cause := .watchpoint, origin := if r.w = 32 then 2 else 3, more := 0, serviced := false, pc := r.pc,
            addr := h.2.2, lseq := r.lseq, issuer := BitVec.ofNat 6 r.w }
      else (t.faultGroups m).foldl
        (fun s g => s.queueTrap r.core r.bctx r.w { r.trapRec .watchpoint r.next g.2 with whenT := 0, addr := h.2.2 }) s1

/-! ### Landing -/

/-- A served reply lands in its block (R171): its data, its watchpoint matches, then its fault. -/
def State.landReply (s : State) (r : Req) : State :=
  match s.blk? r.core r.bctx with
  | none => s.dropReq r.id
  | some b =>
    if b.adm ≠ r.adm then s.dropReq r.id
    else
      let last := !s.dstBusy r
      let key := match r.dst with
        | .lane v _ => v
        | .uni n => 1000 + n
        | .none | .tbl _ => 2000
      let hs := s.landHits b r
      let b1 := b.land r last
      let b2 := match b1.thr? r.w with
        | some t => if hs.isEmpty then b1 else b1.setThr r.w { t with hits := t.hits ++ hs.map fun h => (key, h.1, h.2) }
        | none => b1
      let s1 := (s.setBlk r.core r.bctx b2).landed r
      let s2 := if last then s1.landWatch r key else s1
      let s3 := match r.err with
        | some e => if r.stage = ReqStage.served then s2.landFault r e else s2
        | none => s2
      s3.admitReqs

/-- REPLY_LANDING (R171): argument `a` names a request with a value to land, of a block that is not parked. -/
def execReplyLanding (s : State) : Host.Outcome State Fault Refusal :=
  match s.req? s.arg.a with
  | none => .next s
  | some r =>
    let parked : Bool := match s.blk? r.core r.bctx with
      | some b => b.adm == r.adm && (b.stat == .parked || b.stat == .restorable)
      | none => false
    if !r.lands ∨ parked ∨ (r.err.isSome ∧ !s.canFault r) then .next s
    else .next (s.landReply r)

/-- The bytes of a reply written into a parked block's image: lane data into its pool row, uniform data into its slot,
and the full bit once the register is full (R293). -/
def State.imageReply (s : State) (r : Req) (last : Bool) : State :=
  match s.blk? r.core r.bctx with
  | none => s
  | some b =>
    let base := imageBase r.core r.bctx
    let i := b.info
    match r.dst with
    | .none | .tbl _ => s
    | .uni n =>
      let s1 := match r.got with
        | (_, v) :: _ => if n = 0 then s else s.put (base + i.imgB + 0x100 + 8 * n) (leBytes 8 v.toNat)
        | [] => s
      if last then s1.put (base + i.imgB + 0x900) (bitBytes 32 fun k => k != 255 && (k == n || !b.sIsEmpty k)) else s1
    | .lane v n =>
      let s1 := r.got.foldl
        (fun s p => (List.range n).foldl
          (fun s k => s.put (base + i.imgRow r.w (v + k) + 4 * p.1) (leBytes 4 (p.2.toNat / 2 ^ (32 * k)))) s) s
      match b.thr? r.w with
      | some t =>
        if last then s1.put (base + 0x100 + 0x800 * r.w + 0x430)
          (bitBytes 16 fun k => r.dst.regs.contains k || !t.isEmpty k) else s1
      | none => s1

/-- PARKED_REPLY_LANDING (R293): argument `a` names a request with a value to land, of a parked block; the reply goes to the image. -/
def execParkedReplyLanding (s : State) : Host.Outcome State Fault Refusal :=
  match s.req? s.arg.a with
  | none => .next s
  | some r =>
    let parked : Bool := match s.blk? r.core r.bctx with
      | some b => b.adm == r.adm && (b.stat == .parked || b.stat == .restorable)
      | none => false
    if !r.lands ∨ !parked ∨ (r.err.isSome ∧ !s.canFault r) then .next s
    else .next ((s.imageReply r (!s.dstBusy r)).landReply r)

/-- Whether the block that made a request is still there; a kill removes it, and the reply is then dropped (R69). -/
def State.hasBlk (s : State) (r : Req) : Bool :=
  match s.blk? r.core r.bctx with
  | some b => b.adm == r.adm
  | none => false

/-- Whether a reply that fills no register is still waited for: a TSET's read while its block is there, and a line of code while a lane
stands at the clause it was fetched for (R245). -/
def State.awaited (s : State) (r : Req) : Bool :=
  match r.kind with
  | .load => s.hasBlk r
  | .fetch => s.hasBlk r && (match s.thr? r.core r.bctx r.w with
      | some t => t.lanes.any fun l => l.stat != .exited && l.clause.isNone && l.pc == r.pc
      | none => false)
  | _ => false

/-- STORE_ACKNOWLEDGE (R230): argument `a` names a served write; its dirty-address FIFO entry retires, and a fault that it
brings back is taken at landing.  A reply that nothing waits for any more ends here too (R69). -/
def execStoreAcknowledge (s : State) : Host.Outcome State Fault Refusal :=
  match s.req? s.arg.a with
  | none => .next s
  | some r =>
    if r.stage ≠ .served ∨ r.dst ≠ .none ∨ s.awaited r ∨ (r.err.isSome ∧ !s.canFault r) then .next s
    else
      let s1 := s.dropReq r.id
      let s2 := match r.err with
        | some e => s1.landFault r e
        | none => s1
      .next s2.admitReqs

end Sys2Proof.Machine
end

