-- ==== Sys2Proof/Machine/Sync.lean ====
section
/-! DEFINITION. Synchronisation: block barriers, tokens, phasers, timelines and stage marks, the completion of releases,
address wakes and code publishing (R230, R231, R237 to R244, R379, R384 to R393). -/

namespace Sys2Proof.Machine

/-! ### The critical-path token (R147) -/

/-- The token of every block with a waiting party passes to the issuer of the block that arrived last. -/
def State.passToken (s : State) (core bctx w : Nat) (edge : BitVec 3) (waiting : LaneStat → Bool) : State :=
  s.giveToken (fun p q => if p = blkKey core bctx then w else q) edge waiting

/-- The token of a block whose own barrier completes passes to the party that arrived last, where a party waits. -/
def Blk.passOwn (b : Blk) (w : Nat) (waiting : LaneStat → Bool) : Blk :=
  if b.thrs.any fun q => q.2.lanes.any fun l => waiting l.stat then { b with tokenHolder := w, tokenEdge := 0 } else b

/-! ### Barriers (R240, R385 to R387) -/

/-- Whether a write has been accepted by its cluster (R231): a cacheable store once in the cluster's cache, a scratchpad
write or push when its bank has served it, anything else when its home has acknowledged it. -/
def Req.acceptedBy (r : Req) : Bool :=
  match r.home with
  | .mem => !r.uc && (if r.kind = .store ∨ r.kind = .tagst then r.stage != .queued else !r.open)
  | .host _ => !r.uc && r.stage == .served
  | .spad _ | .fifo _ _ => !r.open
  | _ => false

/-- Whether a request of an exiting stream is not yet covered by its exit, a release of block scope (R240): a read that has not bound,
or a write that its cluster has not accepted. -/
def Req.owesExit (r : Req) : Bool := if r.kind.writes then !r.acceptedBy else r.open && r.kind != .pref

/-- Whether the exit of a stream, a release of block scope, has operations still to cover: requests, and class 5 commands of a matrix
stream (R239, R240). -/
def State.exitOwes (s : State) (core bctx w adm : Nat) : Bool :=
  (s.reqs.any fun r => r.core == core && r.bctx == bctx && r.w == w && r.adm == adm && r.owesExit)
    || (w == 32 && s.mcmds.any fun k => k.adm == adm)

/-- The exited parties of a block, as participant bits; a stream that a fault has terminated has exited once nothing of it is left to
release (R240, R285). -/
def State.gone (s : State) (core bctx : Nat) (b : Blk) : BitVec 34 :=
  partyMask ((b.thrs.filter fun p => p.2.exited && !(p.2.terminated && s.exitOwes core bctx p.1 b.adm)).map fun p => p.1)

/-- A barrier. -/
def Blk.bar (b : Blk) (n : Nat) : Bar := b.bars.getD n { init := false, parts := 0, arrived := 0, phase := 0 }

/-- A barrier whose every participant has arrived or exited moves to its next phase: its waiters run on, and the block's
uniform registers forget their writers (R125, R158, R240). -/
def State.barCheck (s : State) (core bctx n w : Nat) : State :=
  match s.blk? core bctx with
  | none => s
  | some b =>
    let k := b.bar n
    if k.init && k.arrived != 0 && (k.parts &&& ~~~(k.arrived ||| s.gone core bctx b)) == 0 then
      let waits (st : LaneStat) : Bool := match st with
        | .blocked (.barrier x _ true) => x == n
        | _ => false
      s.modBlk core bctx fun b => { b.passOwn w waits with
        bars := lset n { k with arrived := 0, phase := k.phase + 1 } b.bars
        sWriter := []
        thrs := b.thrs.map fun p => (p.1, { p.2 with
          lanes := p.2.lanes.map fun l => match l.stat with
            | .blocked (.barrier x ph true) => if x = n ∧ ph ≤ k.phase then { l with stat := .run } else l
            | _ => l }) }
    else s

/-- Every barrier of a block checked, after a party has exited (R158). -/
def State.barsCheck (s : State) (core bctx w : Nat) : State :=
  (List.range 16).foldl (fun s n => s.barCheck core bctx n w) s

/-- Whether the phase of a party's last arrival has not completed (R387). -/
def Blk.pendingPhase (b : Blk) (t : Thr) (n : Nat) : Option Nat :=
  match nget t.arrived n with
  | some p => if (b.bar n).phase ≤ p then some p else none
  | none => none

/-- The lanes of a warp counted toward a pending arrival (R386). -/
def Thr.counted (t : Thr) (n : Nat) : Word := ngetD t.arrive n 0

/-- A synchronisation operation recorded with CLOSE 4 (R384). -/
def State.noteSync (s : State) (c : Cur) (obj : Nat) (modifies : Bool) : State :=
  s.note c.core (issuerOf c.bctx c.w) (lowestLane c.lanes) obj modifies none (some 4)

/-- An arrival counted for the lanes of a sub-warp (R386): once every non-exited lane is counted the party arrives, and
its arrival, the word's operation, takes effect as a release of block scope completes; until then the word only counts its lanes. -/
def State.arrive (s : State) (c : Cur) (b : Blk) (t : Thr) (n : Nat) : State :=
  let lanes := t.counted n ||| c.lanes
  if t.live &&& ~~~lanes = 0 then
    (s.modThr c.core c.bctx c.w fun t => { t with
      arrive := ndel n t.arrive, arrived := nput n (b.bar n).phase t.arrived }).beginRel c b.adm 1 (.arrive n lanes) lanes
  else (s.noteSync c (objBar c.core c.bctx n) true).modThr c.core c.bctx c.w fun t => { t with arrive := nput n lanes t.arrive }

/-- A warp whose remaining lanes have exited completes its pending arrivals (R386), which are no operation of a word. -/
def State.arriveRest (s : State) (c : Cur) : State :=
  match s.blk? c.core c.bctx with
  | none => s
  | some b => match b.thr? c.w with
    | none => s
    | some t =>
      if t.live = 0 then s
      else t.arrive.foldl
        (fun s p => if t.live &&& ~~~p.2 = 0 then
            (s.modThr c.core c.bctx c.w fun t => { t with
              arrive := ndel p.1 t.arrive, arrived := nput p.1 (b.bar p.1).phase t.arrived }).beginRel c b.adm 1
              (.arrive p.1 p.2) p.2 true
          else s) s

/-- A shared-state word of class 4 (R384): it waits for the recorder's turn and for acquires before it. -/
def syncWord (i : Instr) (w : UniW) (s : State) (f : State → Cur → Blk → Thr → State) :
    Host.Outcome State Fault Refusal :=
  uniWordOp i w s fun s1 c b t =>
    if !s1.mayStart c.core (issuerOf c.bctx c.w) (lowestLane c.lanes) || s1.heldBack c.core c.bctx c.w b.adm c.lanes then
      s.stall c
    else f s1 c b t

/-- A word for the synchronisation engine, which keeps phasers and timelines: it waits while a slot holds that engine (R57). -/
def syncEngineWord (i : Instr) (w : UniW) (s : State) (f : State → Cur → Blk → Thr → State) : Host.Outcome State Fault Refusal :=
  syncWord i w s fun s1 c b t => if s1.islandDown syncIsland then s.stall c else f s1 c b t

/-- BARINIT (R385). -/
def execBarinit (w : UniW) (s : State) : Host.Outcome State Fault Refusal :=
  syncWord (.barinit w) w s fun s c b t =>
    let n := (fld w.sd 0 4).toNat
    let m := srcU b w.sa w.lit
    let k := b.bar n
    let absent := (List.range 34).any fun i => m.getLsbD i && !(b.info.parties.contains i)
    let busy := k.arrived != 0 || b.thrs.any fun p => nget p.2.arrived n == some k.phase || p.2.counted n != 0
    if fld m 34 30 ≠ 0 ∨ m = 0 ∨ absent ∨ (k.init && busy) then s.trapWord c b t .barrierMisuse c.lanes
    else
      ((s.noteSync c (objBar c.core c.bctx n) true).modBlk c.core c.bctx fun b => { b with
        bars := lset n { init := true, parts := m.setWidth 34, arrived := 0, phase := 0 } b.bars
        thrs := b.thrs.map fun p => (p.1, { p.2 with arrived := ndel n p.2.arrived, arrive := ndel n p.2.arrive }) }).retire
        c c.lanes

/-- BAR and BARA (R386, R387): `waits` distinguishes them. -/
def barArrive (i : Instr) (w : UniW) (s : State) (waits : Bool) : Host.Outcome State Fault Refusal :=
  syncWord i w s fun s c b t =>
    let n := (fld w.sd 0 4).toNat
    let k := b.bar n
    if !k.init || !k.parts.getLsbD c.w || t.counted n &&& c.lanes != 0 then s.trapWord c b t .barrierMisuse c.lanes
    else match b.pendingPhase t n with
      | some p => s.block c c.lanes (.barrier n p false)
      | none =>
        let s1 := s.arrive c b t n
        if waits then s1.retireBlocked c c.lanes (.barrier n k.phase true) else s1.retire c c.lanes

/-- BAR (R387). -/
def execBar (w : UniW) (s : State) : Host.Outcome State Fault Refusal := barArrive (.bar w) w s true
/-- BARA (R387). -/
def execBara (w : UniW) (s : State) : Host.Outcome State Fault Refusal := barArrive (.bara w) w s false

/-- BARW (R387). -/
def execBarw (w : UniW) (s : State) : Host.Outcome State Fault Refusal :=
  syncWord (.barw w) w s fun s c b t =>
    let n := (fld w.sd 0 4).toNat
    let k := b.bar n
    if !k.init then s.trapWord c b t .barrierMisuse c.lanes
    else
      let s1 := s.noteSync c (objBar c.core c.bctx n) false
      if t.counted n ≠ 0 then s1.retireBlocked c c.lanes (.barrier n k.phase true)
      else match b.pendingPhase t n with
        | some p => s1.retireBlocked c c.lanes (.barrier n p true)
        | none => s1.retire c c.lanes

/-! ### Tokens (R388) -/

/-- TOKWAIT (R388): the wait of a clause's WAIT field; it is not recorded. -/
def execTokwait (w : UniW) (s : State) : Host.Outcome State Fault Refusal :=
  uniWordOp (.tokwait w) w s fun s c _ t =>
    if (List.range 8).all fun k => !w.sd.getLsbD k || t.tokens.getD k 0 == 0 then s.retire c c.lanes
    else s.block c c.lanes (.token w.sd)

/-! ### Phasers (R241, R242, R389, R390) -/

/-- Whether a mode signals (R390). -/
def phSignals (m : BitVec 2) : Bool := m != 2
/-- Whether a mode waits (R390). -/
def phWaits (m : BitVec 2) : Bool := m != 1

/-- Whether a membership is a party's. -/
def PhMember.is (m : PhMember) (adm w : Nat) : Bool := m.adm == adm && m.w == w

/-- A phaser by number; a free one has phase 0 and no members (R389). -/
def State.phaser (s : State) (n : Nat) : Phaser := ngetD s.phasers n { phase := 0, owner := 0, members := [] }

/-- A phaser stored; one without members is free (R389). -/
def State.putPhaser (s : State) (n : Nat) (p : Phaser) : State :=
  { s with phasers := if p.members.isEmpty then ndel n s.phasers else nput n p s.phasers }

/-- Waiters of a phaser wake once its counter has passed their phase, and their destination takes the counter observed (R390).  Only blocks that run are woken. -/
def State.wakePhaser (s : State) (n phase : Nat) : State :=
  let hit (l : Lane) : Bool := match l.stat with
    | .blocked (.phaser x f true _) => x == n && decide (f < phase)
    | _ => false
  { s with blks := s.blks.map fun p =>
      if (match p.2.stat with
          | .resident | .parking _ => true
          | _ => false) then
        let dsts := (p.2.thrs.map fun q => q.2.lanes.filterMap fun l => match l.stat with
          | .blocked (.phaser _ _ _ sd) => if hit l then some (sd, q.1) else none
          | _ => none).flatten
        let b := dsts.foldl (fun b d => b.putS d.1 (BitVec.ofNat 64 phase) d.2) p.2
        (p.1, { b with thrs := b.thrs.map fun q => (q.1, { q.2 with
          lanes := q.2.lanes.map fun l => if hit l then { l with stat := .run } else l }) })
      else p }

/-- A phaser's phase completes when every member in a signalling mode at that phase has signalled it, or has dropped without a signal
of its own still to be counted (R241); dropped members leave. -/
def State.phStep (s : State) (n core bctx w : Nat) : State :=
  let p := s.phaser n
  let sig := p.members.filter fun m => phSignals m.mode && decide (m.first ≤ p.phase)
  if sig.isEmpty then
    if p.members.any (fun m => phSignals m.mode) then s
    else s.putPhaser n { p with members := p.members.filter fun m => !m.dropping }
  else if sig.all fun m => m.counted == some p.phase || (m.dropping && m.signalled != some p.phase) then
    let s1 := s.passToken core bctx w 1 fun st => match st with
      | .blocked (.phaser x f _ _) => x == n && decide (f ≤ p.phase)
      | _ => false
    (s1.wakePhaser n (p.phase + 1)).putPhaser n
      { p with phase := p.phase + 1, members := p.members.filter fun m => !m.dropping }
  else s

/-- The phases of a phaser that are complete: the one in progress, and the next where its members, which registered during the first,
have all signalled it already (R241, R390). -/
def State.phCheck (s : State) (n core bctx w : Nat) : State := (s.phStep n core bctx w).phStep n core bctx w

/-- A membership dropped (R241, R389). -/
def State.phDrop (s : State) (n adm core bctx w : Nat) : State :=
  let p := s.phaser n
  (s.putPhaser n { p with members := p.members.map fun m => if m.is adm w then { m with dropping := true } else m }).phCheck
    n core bctx w

/-- Every membership of an exiting party dropped (R389). -/
def State.phDropAll (s : State) (core bctx w : Nat) : State :=
  match s.blk? core bctx with
  | none => s
  | some b =>
    (s.phasers.filter fun p => p.2.members.any fun m => m.is b.adm w).foldl (fun s p => s.phDrop p.1 b.adm core bctx w) s

/-- The phase a member signals next (R390). -/
def Phaser.next (p : Phaser) (m : PhMember) : Nat := max p.phase m.first

/-- A phaser word: the number's range, the owner, and the membership it needs (R389, R390). -/
def phaserWord (i : Instr) (w : UniW) (s : State) (joining : Bool) (f : State → Cur → Blk → Thr → Nat → PhMember → State) :
    Host.Outcome State Fault Refusal :=
  syncEngineWord i w s fun s c b t =>
    let v := srcU b w.sa w.lit
    let n := v.toNat
    let p := s.phaser n
    if 4095 < n then s.trapWord c b t .operandRange c.lanes
    else if p.members ≠ [] ∧ p.owner ≠ b.info.ctx then s.trapWord c b t .phaserMembership c.lanes
    else
      let blank : PhMember :=
        { adm := b.adm, w := c.w, mode := 0, first := 0, signalled := none, counted := none, dropping := false }
      if joining then f s c b t n blank
      else match p.members.find? fun m => m.is b.adm c.w with
        | some m => f s c b t n m
        | none => s.trapWord c b t .phaserMembership c.lanes

/-- PHREG (R390). -/
def execPhreg (w : UniW) (s : State) : Host.Outcome State Fault Refusal :=
  phaserWord (.phreg w) w s true fun s c b t n blank =>
    let p := s.phaser n
    let mode : BitVec 2 := fld w.sb 0 2
    if p.members.any (fun m => m.is b.adm c.w) ∨ 65535 ≤ (p.members.filter fun m => m.mode == mode).length then
      s.trapWord c b t .phaserMembership c.lanes
    else
      let first := if p.members.any (fun m => phSignals m.mode) then p.phase + 1 else p.phase
      ((s.noteSync c (objPhaser n) true).putPhaser n
        { p with owner := b.info.ctx, members := p.members ++ [{ blank with mode := mode, first := first }] }).putUni c b
          w.sd.toNat (BitVec.ofNat 64 first)

/-- PHDROP (R390). -/
def execPhdrop (w : UniW) (s : State) : Host.Outcome State Fault Refusal :=
  phaserWord (.phdrop w) w s false fun s c b _ n _ =>
    ((s.noteSync c (objPhaser n) true).phDrop n b.adm c.core c.bctx c.w).retire c c.lanes

/-- A signal claimed at issue; it counts once its release completes (R390). -/
def State.phSignal (s : State) (c : Cur) (b : Blk) (n f : Nat) : State :=
  let p := s.phaser n
  let ms := p.members.map fun m => if m.is b.adm c.w then { m with signalled := some f } else m
  (s.putPhaser n { p with members := ms }).beginRel c b.adm 3 (.phsig n f)

/-- Whether a member's signal of a phase would be its second (R242); one that has dropped counts as having signalled the phase in
progress (R241). -/
def Phaser.again (p : Phaser) (m : PhMember) (f : Nat) : Bool :=
  m.signalled == some f || (m.dropping && decide (m.first ≤ p.phase))

/-- PHSIG (R390). -/
def execPhsig (w : UniW) (s : State) : Host.Outcome State Fault Refusal :=
  phaserWord (.phsig w) w s false fun s c b t n m =>
    let f := (s.phaser n).next m
    if !phSignals m.mode then s.trapWord c b t .phaserMode c.lanes
    else if (s.phaser n).again m f then s.trapWord c b t .phaserMembership c.lanes
    else (s.phSignal c b n f).putUni c b w.sd.toNat (BitVec.ofNat 64 f)

/-- PHWAIT (R390): where it has to wait, its destination is written when it wakes. -/
def execPhwait (w : UniW) (s : State) : Host.Outcome State Fault Refusal :=
  phaserWord (.phwait w) w s false fun s c b t n m =>
    let p := (srcU b w.sb w.lit).toNat
    let now := (s.phaser n).phase
    if !phWaits m.mode then s.trapWord c b t .phaserMode c.lanes
    else if p < now then (s.noteSync c (objPhaser n) false).putUni c b w.sd.toNat (BitVec.ofNat 64 now)
    else (s.noteSync c (objPhaser n) false).retireBlocked c c.lanes (.phaser n p true w.sd.toNat)

/-- PHNEXT (R390): signals, then waits past the phase signalled; its destination is written when it wakes. -/
def execPhnext (w : UniW) (s : State) : Host.Outcome State Fault Refusal :=
  phaserWord (.phnext w) w s false fun s c b t n m =>
    let f := (s.phaser n).next m
    if m.mode ≠ 0 then s.trapWord c b t .phaserMode c.lanes
    else if (s.phaser n).again m f then s.trapWord c b t .phaserMembership c.lanes
    else (s.phSignal c b n f).retireBlocked c c.lanes (.phaser n f true w.sd.toNat)

/-! ### Timelines (R237, R238, R391) -/

/-- Whether a context may name a timeline (R391). -/
def ownsTl (ctx : Nat) (v : DWord) : Bool := v.toNat / 16 == ctx

/-- The timelines' waiters run on when a raise satisfies them; the token of their blocks passes (R147). -/
def State.raiseBy (s : State) (core bctx w n : Nat) (v : DWord) : State :=
  (s.raise n v).passToken core bctx w 2 (s.tlWaits n v)

/-- TLSIG (R391). -/
def execTlsig (w : UniW) (s : State) : Host.Outcome State Fault Refusal :=
  syncEngineWord (.tlsig w) w s fun s c b t =>
    let n := srcU b w.sa w.lit
    let v := srcU b w.sb w.lit
    let k := n.toNat % 16
    if !ownsTl b.info.ctx n then s.trapWord c b t .operandRange c.lanes
    else if v.toNat < (t.marks.getD k 0).toNat then s.trapWord c b t .timelineOrder c.lanes
    else
      ((s.modThr c.core c.bctx c.w fun t => { t with marks := lset k v t.marks }).beginRel c b.adm 4
        (.tlsig n.toNat v)).retire c c.lanes

/-- TLWAIT (R391). -/
def execTlwait (w : UniW) (s : State) : Host.Outcome State Fault Refusal :=
  syncEngineWord (.tlwait w) w s fun s c b t =>
    let n := srcU b w.sa w.lit
    let v := srcU b w.sb w.lit
    if !ownsTl b.info.ctx n then s.trapWord c b t .operandRange c.lanes
    else if v.toNat ≤ (s.timeline n.toNat).toNat then
      (s.noteSync c (objTl n.toNat) false).putUni c b w.sd.toNat (s.timeline n.toNat)
    else s.block c c.lanes (.timeline n.toNat v)

/-- TLREAD (R391). -/
def execTlread (w : UniW) (s : State) : Host.Outcome State Fault Refusal :=
  syncEngineWord (.tlread w) w s fun s c b t =>
    let n := srcU b w.sa w.lit
    if !ownsTl b.info.ctx n then s.trapWord c b t .operandRange c.lanes
    else (s.noteSync c (objTl n.toNat) false).putUni c b w.sd.toNat (s.timeline n.toNat)

/-! ### Stage marks (R392) -/

/-- STAGE (R392): the mark rises once the release of block scope completes. -/
def execStage (w : UniW) (s : State) : Host.Outcome State Fault Refusal :=
  syncWord (.stage w) w s fun s c b _ => (s.beginRel c b.adm 1 (.stage (srcU b w.sa w.lit))).retire c c.lanes

/-! ### Completion of releases (R230, R231) -/

/-- Whether a request is an earlier one of a release's issuer. -/
def Rel.covers (k : Rel) (r : Req) : Bool :=
  r.core == k.core && r.bctx == k.bctx && r.w == k.w && r.adm == k.adm && decide (r.id < k.upto)

/-- Whether a read of a release's lanes has not bound its value. -/
def Rel.unread (k : Rel) (r : Req) : Bool :=
  k.covers r && r.open && r.mask &&& k.mask != 0 &&
    (match r.kind with
      | .load | .atom _ | .cas | .waitaddr | .tagld => true
      | _ => false)

/-- Whether a release has met its conditions (R230 at device and system scope, R231 below). -/
def State.relDone (s : State) (k : Rel) (scope : Nat) : Bool :=
  !(s.reqs.any k.unread) &&
    (if 3 ≤ scope then
      !(s.reqs.any fun r => r.kind.writes && k.covers r)
        && !(s.reqs.any fun r => r.kind.writes && r.home == .mem && r.core / 8 == k.core / 8 && decide (r.id < k.upto)
          && r.stage != .queued)
    else !(s.reqs.any fun r => r.kind.writes && k.covers r && !r.acceptedBy))

/-- A release that is over. -/
def State.dropRel (s : State) (id : Nat) : State := { s with rels := s.rels.filter fun k => k.id != id }

/-- A release's operation recorded (R125). -/
def State.noteRel (s : State) (k : Rel) (obj : Nat) (modifies : Bool) (close : Nat) : State :=
  s.note k.core (issuerOf k.bctx k.w) k.low obj modifies none (some close)

/-- What happens when a release completes (R230, R237, R240, R241, R392). -/
def State.finishRel (s : State) (k : Rel) : State :=
  match k.act with
  | .fence _ _ => (s.noteRel k objNone false 1).admitReqs
  | .codepub _ _ => s
  | .write req => (s.modReq req fun r => { r with hold := false }).admitReqs
  | .tlsig n v => (s.noteRel k (objTl n) true 4).raiseBy k.core k.bctx k.w n v
  | .phsig n f =>
    let s1 := s.noteRel k (objPhaser n) true 4
    let p := s1.phaser n
    let ms := p.members.map fun m => if m.is k.adm k.w then { m with counted := some f } else m
    (s1.putPhaser n { p with members := ms }).phCheck n k.core k.bctx k.w
  | .arrive n _ =>
    ((if k.quiet then s else s.noteRel k (objBar k.core k.bctx n) true 4).modBlk k.core k.bctx fun b => { b with
      bars := lmod n (fun x => { x with arrived := x.arrived ||| partyMask [k.w] }) b.bars }).barCheck k.core k.bctx n k.w
  | .stage v =>
    (s.noteRel k objNone true 4).modThr k.core k.bctx k.w fun t => { t with stage := if t.stage.toNat < v.toNat then v else t.stage }

/-- Whether the completion of a release is an operation of its own, which has its turn (R125): a write's, read's or wake's is at its
service. -/
def Rel.recorded (k : Rel) : Bool :=
  match k.act with
  | .write _ => false
  | _ => !k.quiet

/-- Whether what a release asks for beside its accesses is not to be had yet: class 5 work that a matrix stream's arrival covers is unfinished
(R239), or a slot holds the synchronisation engine (R57). -/
def State.kilnOwes (s : State) (k : Rel) : Bool :=
  match k.act with
  | .tlsig _ _ | .phsig _ _ => s.islandDown syncIsland
  | .arrive _ _ => k.w == 32 && s.mcmds.any fun m => m.adm == k.adm && decide (m.id < k.upto)
  | _ => false

/-- RELEASE_COMPLETE (R230, R239): argument `a` names the release. -/
def execReleaseComplete (s : State) : Host.Outcome State Fault Refusal :=
  match s.rels.find? fun k => k.id == s.arg.a with
  | none => .next s
  | some k =>
    let pub := match k.act with
      | .codepub _ _ => true
      | _ => false
    let alive := match s.blk? k.core k.bctx with
      | some b => b.adm == k.adm
      | none => false
    if pub || !s.relDone k k.scope || s.kilnOwes k || (k.recorded && !s.mayOp k.core (issuerOf k.bctx k.w) k.low) then .next s
    else if !alive then .next (s.dropRel k.id)
    else .next (((s.dropRel k.id).finishRel k).imgSync k.core k.bctx)

/-- The words that a warp has fetched and not issued discarded (R377). -/
def Thr.discardFetched (t : Thr) : Thr :=
  let old (k : Option Clause) : Option Clause := k.map fun k => { k with stale := true }
  { t with lanes := t.lanes.map fun l => { l with clause := old l.clause, savedClause := old l.savedClause } }

/-- CODEPUB_COMPLETE (R244, R377): argument `a` names the release.  Once its writer's earlier copies have completed and its own FIFO has
drained to the homes, whatever the scope, the writer leaves every writer list; then it completes as a release fence of its scope. -/
def execCodepubComplete (s : State) : Host.Outcome State Fault Refusal :=
  match s.rels.find? fun k => k.id == s.arg.a with
  | none => .next s
  | some k => match k.act with
    | .codepub lanes false =>
      let copies := s.cmds.any fun x => x.core == k.core && x.bctx == k.bctx && x.w == k.w && x.adm == k.adm
        && decide (x.id < k.upto) && !x.finished
      let drained := !(s.reqs.any k.unread) && !s.reqs.any fun r => r.kind.writes && k.covers r
      if copies || !drained || !s.mayOp k.core (issuerOf k.bctx k.w) k.low then .next s
      else
        let s1 := (s.publish (writerKey k.adm k.w)).noteRel k objNone true 2
        .next { s1 with rels := s1.rels.map fun x => if x.id = k.id then { x with act := .codepub lanes true } else x }
    | .codepub _ true =>
      if s.relDone k k.scope then .next ((s.dropRel k.id).modThr k.core k.bctx k.w Thr.discardFetched).admitReqs else .next s
    | _ => .next s

/-! ### Address wakes (R379) -/

/-- The oldest enrolments of a context for an address woken, up to a count. -/
def State.wakeUpTo (s : State) (ctx addr n : Nat) : State :=
  ((s.mem.enrols.filter fun e => e.ctx == ctx && e.addr == addr).take n).foldl (fun s e => s.wakeUp e) s

/-- WAKEADDR_HOME_ACT (R379): argument `a` names the request; the warp's earlier writes to the line are acknowledged. -/
def execWakeaddrHomeAct (s : State) : Host.Outcome State Fault Refusal :=
  match s.req? s.arg.a with
  | none => .next s
  | some r =>
    let earlier := s.reqs.any fun q => q.sameParty r && q.sameObj r && q.kind.writes && decide (q.id < r.id)
    if r.kind ≠ .wakeaddr ∨ r.stage ≠ .accepted ∨ earlier
        ∨ !s.mayOp r.core (issuerOf r.bctx r.w) r.low ∨ (!lineIsCap r.line && s.stackHeld (lineStack r.line)) then .next s
    else
      .next ((r.ops.foldl (fun s o => s.wakeUpTo r.ctx o.addr (o.data.toNat % 2 ^ (8 * r.size)))
        (s.noteReq r)).dropReq r.id)

end Sys2Proof.Machine
end

