-- ==== Sys2Proof/Machine/Tiles.lean ====
section
/-! DEFINITION. Tiles: the fields of a descriptor, its checks, where an element lies, and the states of an entry of the
tile table (R199 to R201). -/

namespace Sys2Proof.Machine

/-! ### Descriptor fields (R199) -/

/-- BASE. -/
def tBase (d : BitVec 128) : Nat := (fld d 0 25).toNat
/-- ROWS. -/
def tRows (d : BitVec 128) : Nat := (fld d 25 11).toNat
/-- COLS. -/
def tCols (d : BitVec 128) : Nat := (fld d 36 15).toNat
/-- LAYOUT: 0 linear, 1 Morton, 2 planes. -/
def tLayout (d : BitVec 128) : Nat := (fld d 51 2).toNat
/-- ESIZE. -/
def tEsize (d : BitVec 128) : Nat := (fld d 53 2).toNat
/-- PFMT: 0 signed, 1 unsigned, 2 binary. -/
def tPfmt (d : BitVec 128) : Nat := (fld d 56 2).toNat
/-- Plane count: PLANES + 1. -/
def tPlanes (d : BitVec 128) : Nat := (fld d 58 4).toNat + 1
/-- SOFF. -/
def tSoff (d : BitVec 128) : Nat := (fld d 64 10).toNat
/-- ZMV. -/
def tZmv (d : BitVec 128) : Bool := d.getLsbD 74
/-- ZOFF. -/
def tZoff (d : BitVec 128) : Nat := (fld d 75 25).toNat

/-- Where a plane tile's scales start: S0 (R200). -/
def tScale0 (d : BitVec 128) : Nat := tBase d + tPlanes d * (tRows d * tCols d / 8)

/-- A power of two from 8 to 1,024. -/
def mortonSide (n : Nat) : Bool := [8, 16, 32, 64, 128, 256, 512, 1024].contains n

/-- The bytes of a tile's zero-block mask: one bit for every 32 elements (R200). -/
def tMask (d : BitVec 128) : Nat × Nat := (tZoff d, tZoff d + (tRows d * tCols d + 255) / 256)

/-- The bytes a tile occupies (R200, R407): one range, and the mask of a plane tile that has one. -/
def tFoot (d : BitVec 128) : List (Nat × Nat) :=
  if tLayout d = 2 then
    (tBase d, tScale0 d + 128 * (tCols d / 32)) ::
      (if tZmv d then [tMask d] else [])
  else [(tBase d, tBase d + tRows d * tCols d * 2 ^ tEsize d)]

/-- The first check a descriptor fails, in the order of R199; STATE is ignored. -/
def tileFault (spadB scaleB : Nat) (d : BitVec 128) : Option Cause :=
  let planes := tLayout d == 2
  let zeros := fld d 55 1 == 0 && fld d 62 2 == 0 && fld d 103 25 == 0
  let reserved := tLayout d == 3 || (planes && (tEsize d != 0 || tPfmt d == 3 || (tPfmt d == 2 && tPlanes d != 1)))
    || (!planes && (tPfmt d != 0 || tPlanes d != 1))
  let shape :=
    if planes then (tRows d == 64 || tRows d == 128) && tCols d % 128 == 0 && decide (1 ≤ tCols d) && decide (tCols d ≤ 16384)
    else if tLayout d = 1 then mortonSide (tRows d) && mortonSide (tCols d)
    else decide (1 ≤ tRows d) && decide (tRows d ≤ 1024) && decide (1 ≤ tCols d) && decide (tCols d ≤ 16384)
  if !zeros || reserved || tBase d % 128 != 0 || tZoff d % 128 != 0 then some .reservedField
  else if !shape then some .matrixShape
  else if (tFoot d ++ if tZmv d then [tMask d] else []).any fun r => decide (spadB < r.2) then
    some .scratchRange
  else if planes && decide (scaleB / 128 < tSoff d + tCols d / 32) then some .scaleRange
  else none

/-! ### Where an element lies (R200) -/

/-- Bits of two indices interleaved, `a` at the even places, up to `n` bits; what is left of the longer follows. -/
def interleave (a b : Nat) : Nat → Nat
  | 0 => 0
  | n + 1 => a % 2 + 2 * (b % 2) + 4 * interleave (a / 2) (b / 2) n

/-- The Morton index of row `i`, column `k` (R200). -/
def mortonIx (rows cols i k : Nat) : Nat :=
  let n := min (Nat.log2 rows) (Nat.log2 cols)
  interleave k i n + 4 ^ n * (k / 2 ^ n + i / 2 ^ n)

/-- The offset of element (i, k) of a linear or Morton tile (R200). -/
def tElem (d : BitVec 128) (i k : Nat) : Nat :=
  tBase d + (if tLayout d = 1 then mortonIx (tRows d) (tCols d) i k else i * tCols d + k) * 2 ^ tEsize d

/-- The byte and bit of plane `p` of element (i, k) (R200). -/
def tPlaneByte (d : BitVec 128) (p i k : Nat) : Nat := tBase d + p * (tRows d * tCols d / 8) + i * (tCols d / 8) + k / 8

/-- The integer an element of a plane tile stands for, from its planes' bytes (R264). -/
def tileInt (d : BitVec 128) (byte : Nat → Byte) (i k : Nat) : Int :=
  let bit (p : Nat) : Int := ((byte (tPlaneByte d p i k)).getLsbD (k % 8)).toNat
  let n := tPlanes d
  match tPfmt d with
  | 2 => 2 * bit 0 - 1
  | 1 => (List.range n).foldl (fun x p => x + 2 ^ p * bit p) 0
  | _ => (List.range (n - 1)).foldl (fun x p => x + 2 ^ p * bit p) (-(2 ^ (n - 1)) * bit (n - 1))

/-- Whether the zero-block mask marks K-block `j` of row `i` (R200). -/
def tileMasked (d : BitVec 128) (byte : Nat → Byte) (i j : Nat) : Bool :=
  let b := i * (tCols d / 32) + j
  (byte (tZoff d + b / 8)).getLsbD (b % 8)

/-! ### States of an entry (R201) -/

/-- The core's entry a block's tile number names. -/
def Blk.tileIx (b : Blk) (i : Nat) : Nat := b.tileRefs.getD i 64

/-- A tile-table entry. -/
def State.tile (s : State) (core j : Nat) : Tile := ngetD (s.coreAt core).tiles j Tile.reset

/-- A tile-table entry changed. -/
def State.modTile (s : State) (core j : Nat) (f : Tile → Tile) : State :=
  s.setCore core { s.coreAt core with tiles := nmod j Tile.reset f (s.coreAt core).tiles }

/-- Whether a copy or MSTORE may name the tile as destination. -/
def Tile.fillable (t : Tile) : Bool := t.st == 0 || t.st == 1

/-- A command that fills the tile issues. -/
def Tile.fillStart (t : Tile) : Tile := { t with st := 1, fills := (if t.st = 1 then t.fills else 0) + 1 }

/-- A command counted in the fill count completes. -/
def Tile.fillDone (t : Tile) : Tile :=
  if t.st = 1 then { t with fills := t.fills - 1, st := if t.fills ≤ 1 then 2 else 1 } else t

/-- A draining tile with no reader left becomes empty, and its TREL's timeline is raised (R201, R404). -/
def State.tileDrain (s : State) (core bctx j : Nat) : State :=
  let t := s.tile core j
  if t.st = 3 ∧ t.readers = [] then
    let s1 := s.modTile core j fun t => { t with st := 0, raise := none }
    match t.raise with
    | some (n, v) => s1.raiseBy core bctx 32 n v
    | none => s1
  else s

/-- A command stops reading the tiles of its core (R201). -/
def State.dropReader (s : State) (core bctx id : Nat) : State :=
  let js := ((s.coreAt core).tiles.filter fun p => p.2.readers.contains id).map fun p => p.1
  js.foldl (fun s j => (s.modTile core j fun t => { t with readers := t.readers.filter (· != id) }).tileDrain core bctx j) s

/-- A command becomes a reader of a tile. -/
def State.addReader (s : State) (core j id : Nat) : State :=
  s.modTile core j fun t => { t with readers := t.readers ++ [id] }

end Sys2Proof.Machine
end

