-- ==== Sys2Proof/Machine/Nodes.lean ====
section
/-! DEFINITION. Node records as arming read them (R96, R98), and the armed nodes of the Stoker (R101). -/

namespace Sys2Proof.Machine

/-! ### Fields of a record (R96, R98) -/

/-- A word of the record. -/
def ArmNode.w (n : ArmNode) (i : Nat) : DWord := n.words.getD i 0
/-- KIND. -/
def ArmNode.kind (n : ArmNode) : Nat := (fld (n.w 0) 0 16).toNat
/-- FLAGS. -/
def ArmNode.flags (n : ArmNode) : BitVec 16 := fld (n.w 0) 16 16
/-- SIGTL. -/
def ArmNode.sigtl (n : ArmNode) : Bool := n.flags.getLsbD 0
/-- NOPLACE. -/
def ArmNode.noPlace (n : ArmNode) : Bool := n.flags.getLsbD 1
/-- PRELOAD. -/
def ArmNode.preload (n : ArmNode) : Bool := n.flags.getLsbD 2
/-- NODEID. -/
def ArmNode.nodeId (n : ArmNode) : Word := fld (n.w 0) 32 32
/-- PREDINIT. -/
def ArmNode.predInit (n : ArmNode) : Nat := (fld (n.w 1) 0 16).toNat
/-- SUCCN. -/
def ArmNode.succN (n : ArmNode) : Nat := (fld (n.w 1) 16 16).toNat
/-- SPLIT. -/
def ArmNode.split (n : ArmNode) : Nat := (fld (n.w 1) 32 16).toNat
/-- SUCCPTR. -/
def ArmNode.succPtr (n : ArmNode) : DWord := n.w 2
/-- BODYPTR, or LANEPC. -/
def ArmNode.bodyPtr (n : ArmNode) : DWord := n.w 3
/-- GANGX. -/
def ArmNode.gangX (n : ArmNode) : Nat := (fld (n.w 6) 0 32).toNat
/-- GANGY. -/
def ArmNode.gangY (n : ArmNode) : Nat := (fld (n.w 6) 32 32).toNat
/-- BPG. -/
def ArmNode.bpg (n : ArmNode) : Nat := (fld (n.w 7) 0 4).toNat
/-- WPB. -/
def ArmNode.wpb (n : ArmNode) : Nat := (fld (n.w 7) 4 6).toNat
/-- POOLROWS. -/
def ArmNode.poolRows (n : ArmNode) : Nat := (fld (n.w 7) 10 8).toNat
/-- SPADB. -/
def ArmNode.spadB (n : ArmNode) : Nat := (fld (n.w 7) 32 32).toNat
/-- ACCROWS. -/
def ArmNode.accRows (n : ArmNode) : Nat := (fld (n.w 8) 0 32).toNat
/-- SCALEB. -/
def ArmNode.scaleB (n : ArmNode) : Nat := (fld (n.w 8) 32 18).toNat
/-- TILES. -/
def ArmNode.tiles (n : ArmNode) : Nat := (fld (n.w 8) 50 7).toNat
/-- PARAM. -/
def ArmNode.param (n : ArmNode) : DWord := n.w 9
/-- PREDADDR. -/
def ArmNode.predAddr (n : ArmNode) : DWord := n.w 10
/-- LOOPMAX. -/
def ArmNode.loopMax (n : ArmNode) : Nat := (fld (n.w 11) 0 32).toNat
/-- BODYID. -/
def ArmNode.bodyId (n : ArmNode) : Word := fld (n.w 11) 32 32
/-- TL. -/
def ArmNode.tl (n : ArmNode) : Nat := (fld (n.w 12) 0 10).toNat
/-- TLVAL. -/
def ArmNode.tlVal (n : ArmNode) : DWord := n.w 13
/-- Address, bytes and direction of tile operand `i`. -/
def ArmNode.operand (n : ArmNode) (i : Nat) : DWord × Nat × Nat :=
  (n.w (14 + 2 * i), (fld (n.w (15 + 2 * i)) 0 40).toNat, (fld (n.w (15 + 2 * i)) 40 2).toNat)

/-- Gangs of a KERNEL node; a COPY or COLL node is placed once. -/
def ArmNode.gangs (n : ArmNode) : Nat := if n.kind = 1 then n.gangX * n.gangY else 1

/-! ### Armed nodes -/

/-- The armed node of a command's slot at an address. -/
def State.node? (s : State) (slot : Nat) (addr : DWord) : Option ArmNode :=
  s.stoker.nodes.find? fun n => n.slot == slot && untag n.addr == untag addr

/-- An armed node replaced. -/
def State.setNode (s : State) (n : ArmNode) : State :=
  { s with stoker := { s.stoker with nodes := s.stoker.nodes.map fun m =>
      if m.slot = n.slot ∧ m.seq = n.seq ∧ m.addr = n.addr then n else m } }

/-- Whether a node's progress waits: for a fault's answer, or for its device-owned words to be written again (R97). -/
def ArmNode.held (n : ArmNode) : Bool := n.fault.isSome || n.owe

/-- Whether an executor has finished a KERNEL, COPY or COLL node: every gang placed has left, and either all of them have
run or one has failed. -/
def ArmNode.executed (n : ArmNode) : Bool :=
  decide (n.kind ≤ 3) && n.state == 3 && !n.stored && n.done == n.placed && (n.placed == n.gangs || n.failed.isSome)

/-- Whether the completion queue is full (R119). -/
def State.cqFull (s : State) : Bool := decide (4096 ≤ s.stoker.cq.length)

/-- Whether the completion queue has no entry for one more finished node of an executor, beside those that have finished and are not
yet reported (R119). -/
def State.cqTaken (s : State) : Bool :=
  decide (4096 ≤ s.stoker.cq.length + (s.stoker.nodes.filter fun n => n.executed && n.failed.isNone && !n.closed).length)

end Sys2Proof.Machine
end

