-- ==== Sys2Proof/Machine/Exit.lean ====
section
/-! DEFINITION. The end of blocks (R157, R103): a block whose parties have exited and whose commands have completed releases
what it holds, and its gang and node advance. -/

namespace Sys2Proof.Machine

/-- Whether a block is over: every party has exited and nothing of it is in flight (R157). -/
def State.blkOver (s : State) (b : Blk) : Bool :=
  b.hasExited && !(s.cmds.any fun k => k.adm == b.adm) && !(s.mcmds.any fun k => k.adm == b.adm)
    && !(s.rels.any fun k => k.adm == b.adm) && !(s.reqs.any fun r => r.adm == b.adm)

/-- A gang loses a member; when none is left its node counts it as done (R103, R118). -/
def State.leaveGang (s : State) (b : Blk) (core bctx : Nat) : State :=
  let gs := s.stoker.gangs.map fun g => if g.id = b.info.gangId then { g with members := g.members.filter (· != (core, bctx)) } else g
  let gone := gs.any fun g => g.id == b.info.gangId && g.members.isEmpty
  let nodes := s.stoker.nodes.map fun n =>
    if n.slot = b.info.slot ∧ n.seq = b.info.seq ∧ n.addr = b.info.node then
      { n with done := n.done + gone.toNat, failed := if n.failed.isSome then n.failed else b.failed }
    else n
  { s with stoker := { s.stoker with
      gangs := gs.filter fun g => !(g.id == b.info.gangId && g.members.isEmpty)
      nodes := nodes } }

/-- A core without the results in flight that `gone` picks: the table banks they are bound to are so no longer (R359). -/
def Core.unbind (k : Core) (gone : List SfuRes) : Core :=
  { k with banks := k.banks.mapIdx fun i x => { x with bound := x.bound - (gone.filter fun r => r.bank == some i).length } }

/-- A block removed: its tile entries return to empty (R157, R201).  A table that it loaded stays current (R359). -/
def State.dropBlk (s : State) (key : Nat) (b : Blk) : State :=
  let core := key / 16
  let k := s.coreAt core
  let k1 := { k with
    tiles := k.tiles.filter fun p => !b.tileRefs.contains p.1
    scale := k.scale.filter fun p => p.1 / 128 < b.scaleCol || b.scaleCol + b.info.scaleB / 128 <= p.1 / 128 }
  let s1 : State := { s with
    blks := ndel key s.blks
    sfu := s.sfu.filter fun r => r.adm != b.adm
    cmds := s.cmds.map fun c => { c with targets := c.targets.filter fun x => !(x / 1024 == core && b.tileRefs.contains (x % 1024)) } }
  let s2 := s1.setCore core
    (k1.unbind (s.sfu.filter fun r => r.adm == b.adm))
  { s2 with focus := if s2.focus.any fun f => f.1 == core && f.2.1 == key % 16 then none else s2.focus }

/-- Whether a block that is over keeps its contexts: it is the last of its node, and the completion queue is full (R119). -/
def State.keptByQueue (s : State) (b : Blk) : Bool :=
  s.cqTaken && (s.stoker.nodes.any fun n =>
    n.slot == b.info.slot && n.seq == b.info.seq && n.addr == b.info.node && n.done + 1 == n.gangs)
    && s.stoker.gangs.any fun g => g.id == b.info.gangId && g.members.length == 1

/-- Every block that is over released (R157, R119). -/
def State.sweep (s : State) : State :=
  (s.blks.filter fun p => s.blkOver p.2).foldl
    (fun s p => if s.keptByQueue p.2 then s else (s.dropBlk p.1 p.2).leaveGang p.2 (p.1 / 16) (p.1 % 16)) s

/-- The pending asynchronous traps of an exited warp, with the count of those it has dropped, pass to the block's next live warp (R285).
DESIGN CHOICE: R285 does not say which warp is the next; it is the lowest-numbered live one (log entry 47). -/
def State.passAsync (s0 : State) (core bctx w : Nat) : State :=
  let s := s0.flushTag core bctx w
  match s.thr? core bctx w with
  | none => s
  | some t =>
    let s1 := s.modThr core bctx w fun t => { t with asyncQ := [], lost := 0 }
    let s2 := match (s1.blk? core bctx).bind Blk.lowestWarp with
      | some v => if t.lost = 0 then s1 else s1.modThr core bctx v fun x => { x with lost := x.lost + t.lost }
      | none => s1
    t.asyncQ.foldl (fun s a => s.asyncTrap core bctx w a) s2

/-- What follows when lanes of a party have exited: arrivals of the lanes that remain, and for an exited party its
barriers, phasers and pending traps; then blocks that are over are released (R158, R285, R386, R389). -/
def State.afterExit (s : State) (c : Cur) : State :=
  let s1 := s.arriveRest c
  match s1.thr? c.core c.bctx c.w with
  | none => s1
  | some t =>
    if t.exited then
      (((s1.barsCheck c.core c.bctx c.w).phDropAll c.core c.bctx c.w).passAsync c.core c.bctx c.w).sweep
    else s1

end Sys2Proof.Machine
end

