-- ==== Sys2Proof/Machine/Matrix.lean ====
section
/-! DEFINITION. Class 5 and accumulator rows: MMA, MMAI, MZERO, SCLD, MSTORE, MLOAD, TREL, TACQ, MWAIT, their completion, and
ACCRD and ACCWR (R173 to R176, R264 to R268, R383, R394 to R405). -/

namespace Sys2Proof.Machine

/-! ### Accumulator rows (R174 to R176, R395) -/

/-- The low 32 bits of a selector register (R394). -/
def Blk.low (b : Blk) (r : BitVec 8) : Nat := (b.sreg r.toNat).toNat % 2 ^ 32

/-- Whether `n` rows from `r` are accumulator rows of warp `w` (R174). -/
def Blk.accRows (b : Blk) (w r n : Nat) : Bool :=
  match b.thr? w with
  | some t => decide (t.poolb ≤ r) && decide (r + n ≤ b.info.sliceRows)
  | none => false

/-- The warp, first row and row count of the accumulator tile a class 5 command names (R395). -/
def State.accSpan (s : State) (k : MCmd) : Option (Nat × Nat × Nat) :=
  let desc (b : Blk) (n : BitVec 6) : BitVec 128 := (s.tile k.core (b.tileIx n.toNat)).desc
  match s.blk? k.core k.bctx with
  | none => none
  | some b => match k.op with
    | .mma w | .mmai w => some (w.aw.toNat, k.base, tRows (desc b w.ta) * tRows (desc b w.tb) / 32)
    | .mzero w => some (w.aw.toNat, k.base, (if w.m64 then 64 else 128) * (if w.n64 then 64 else 128) / 32)
    | .mstore w | .mload w => some (w.aw.toNat, k.base, tRows (desc b w.tn) * tCols (desc b w.tn) / 32)
    | _ => none

/-- Whether the matrix stream holds some of `n` rows from `r` of a warp (R175, R176). -/
def State.rowsHeld (s : State) (core bctx w r n : Nat) : Bool :=
  s.mcmds.any fun k => k.core == core && k.bctx == bctx && (match s.accSpan k with
    | some (v, base, m) => v == w && decide (r < base + m) && decide (base < r + n)
    | none => false)

/-- Operations on rows recorded, each row one object (R128, R383). -/
def State.noteRows (s : State) (c : Cur) (issuer w r n : Nat) (modifies : Bool) : State :=
  (List.range n).foldl
    (fun s j => s.note c.core issuer (lowestLane c.lanes) (objRow c.core c.bctx w (r + j)) modifies none none) s

/-! ### ACCRD and ACCWR (R383) -/

/-- The row an ACCRD or ACCWR names: its uniform register, literal or nothing, plus the signed offset. -/
def accRow (w : LaneW) (x : MemX) (b : Blk) : Int :=
  let base : Int := if w.sa = 0x80 then 0 else if w.sa = 0xFF then w.lit.toNat else (b.sreg (w.sa.toNat - 128)).toNat % 2 ^ 32
  base + x.off.toInt

/-- ACCRD and ACCWR after their gates: row range, held rows, then the transfer. -/
def accMove (i : Instr) (w : LaneW) (x : MemX) (s : State) (writes : Bool)
    (f : State → Cur → Thr → Nat → Nat → Nat → Word → State) : Host.Outcome State Fault Refusal :=
  laneWordOp i w s fun c b t act =>
    let n := 2 ^ x.size.toNat
    let v := w.sb.toNat % 32
    let r := accRow w x b
    if act = 0 then s.retire c c.lanes
    else if r < 0 ∨ !b.accRows v r.toNat n then s.trapWord c b t .poolBoundary act
    else if s.rowsHeld c.core c.bctx v r.toNat n || s.heldBack c.core c.bctx c.w b.adm act
        || !s.mayStart c.core (issuerOf c.bctx c.w) (lowestLane c.lanes) then s.stall c
    else
      let s1 := (s.noteUnis c b (laneUnis i w) false).noteRows c (issuerOf c.bctx c.w) v r.toNat n writes
      (f s1 c t v r.toNat n act).retire c c.lanes

/-- ACCRD (R383). -/
def execAccrd (w : LaneW) (x : MemX) (s : State) : Host.Outcome State Fault Refusal :=
  accMove (.accrd w x) w x s false fun s c _ v r n act =>
    match s.thr? c.core c.bctx v with
    | none => s
    | some a => s.modThr c.core c.bctx c.w fun t =>
        (List.range n).foldl (fun t j => t.putRow (w.vd.toNat + j) act fun l => a.reg (r + j) l) t

/-- ACCWR (R383). -/
def execAccwr (w : LaneW) (x : MemX) (s : State) : Host.Outcome State Fault Refusal :=
  accMove (.accwr w x) w x s true fun s c t v r n act =>
    s.modThr c.core c.bctx v fun a =>
      (List.range n).foldl (fun a j => a.putRow (r + j) act fun l => t.reg (w.vd.toNat + j) l) a

/-! ### Issue of class 5 (R394, R397) -/

/-- Whether a block holds a tile number (R199). -/
def Blk.hasTile (b : Blk) (n : BitVec 6) : Bool := decide (n.toNat < b.info.tiles)

/-- A class 5 word: its fields, the ranges of R308 step 4, and its selector registers; then, in replay, the recorder's
turn. -/
def kilnWord (i : Instr) (s : State) (ok : Blk → Bool) (regs : List (BitVec 8)) (f : State → Cur → Blk → Thr → State) :
    Host.Outcome State Fault Refusal :=
  ctlWordOp i s
    (fun _ b _ => Gate.first (Gate.unless (ok b) .operandRange :: regs.map fun r => uniRegGate b r.toNat))
    fun c b t =>
      if s.heldBack c.core c.bctx c.w b.adm c.lanes || !s.mayStart c.core (issuerOf c.bctx c.w) (lowestLane c.lanes) then s.stall c
      else f (s.noteUnis c b (regs.filterMap fun r => if r = 0 then none else some r.toNat) false) c b t

/-- A class 5 operation on a tile recorded. -/
def State.noteTile (s : State) (c : Cur) (j : Nat) (modifies : Bool) : State :=
  s.note c.core (issuerOf c.bctx c.w) (lowestLane c.lanes) (objTile c.core j) modifies none none

/-- A class 5 command started: it is outstanding, reads the tiles given, and counts on the stream's LSEQ where it has a
launch site (R148, R394). -/
def State.startKiln (s : State) (c : Cur) (b : Blk) (t : Thr) (i : Instr) (base k0 : Nat) (sv : DWord) (reads : List Nat)
    (site : Bool) : State :=
  let id := s.nextId
  let lseq := if site then t.lseq + 1 else t.lseq
  let s1 : State := { s with
    nextId := id + 1
    mcmds := s.mcmds ++ [{ id := id, core := c.core, bctx := c.bctx, adm := b.adm, op := i, base := base, k0 := k0, sv := sv,
                           pc := c.pc, lseq := lseq }] }
  let s2 := reads.eraseDups.foldl (fun s j => s.addReader c.core j id) s1
  (s2.modThr c.core c.bctx c.w fun t => { t with lseq := lseq }).retire c c.lanes

/-- The tile entry's state is not ready. -/
def State.tileWaits (s : State) (core : Nat) (b : Blk) (n : BitVec 6) : Bool := (s.tile core (b.tileIx n.toNat)).st != 2

/-- The bytes of a block's scratchpad. -/
def Blk.byteAt (b : Blk) : Nat → Byte := b.spadByte

/-- K-blocks of an MMA that some row of A does not skip (R399). -/
def liveBlocks (w : MmaW) (d : BitVec 128) (b : Blk) (k0 : Nat) : Nat :=
  ((List.range (4 * (w.kcnt.toNat + 1))).filter fun j =>
    !(w.skip && tZmv d && (List.range (tRows d)).all fun i => tileMasked d b.byteAt i (4 * k0 + j))).length

/-- Ticks an MMA is expected to take on its core's Kiln (R399). -/
def State.kilnTicks (s : State) (core : Nat) (w : MmaW) (b : Blk) (da db : BitVec 128) (k0 : Nat) : Nat :=
  let c := tRows da * tRows db * liveBlocks w da b k0 * tPlanes da * tPlanes db
  let cycles := (c + 65535) / 65536
  let rate := 9 * (16 - s.pointOf (coreIsland core 4))
  (cycles * 40 + rate - 1) / rate + 64

/-- The admission that a core's Kiln waits for (R64): nothing, or a command held, with whether a free window has begun since. -/
def State.setKilnWait (s : State) (core : Nat) (w : Option Bool) : State := s.setCore core { s.coreAt core with kilnWait := w }

/-- MMA and MMAI up to their issue (R64, R397). -/
def mmaIssue (i : Instr) (w : MmaW) (s : State) : Host.Outcome State Fault Refusal :=
  kilnWord i s (fun b => b.hasTile w.ta && b.hasTile w.tb && decide (w.aw.toNat < b.info.wpb)) [w.srow, w.sk]
    fun s0 c b t =>
      if s.tileWaits c.core b w.ta then s.block c c.lanes (.tile w.ta.toNat)
      else if s.tileWaits c.core b w.tb then s.block c c.lanes (.tile w.tb.toNat)
      else
        let ja := b.tileIx w.ta.toNat
        let jb := b.tileIx w.tb.toNat
        let da := (s.tile c.core ja).desc
        let db := (s.tile c.core jb).desc
        let base := w.arow.toNat + b.low w.srow
        let k0 := w.koff.toNat + b.low w.sk
        let n := tRows da * tRows db / 32
        let last := k0 + w.kcnt.toNat + 1
        if tLayout da ≠ 2 ∨ tLayout db ≠ 2 ∨ (decide (tPfmt da = 2) != decide (tPfmt db = 2)) ∨ tCols da / 128 < last
            ∨ tCols db / 128 < last then s.trapWord c b t .matrixShape c.lanes
        else if !b.accRows w.aw.toNat base n then s.trapWord c b t .poolBoundary c.lanes
        else if !s.admits (fun k e => (k.islands e).getLsbD (coreIsland c.core 4)) (s.kilnTicks c.core w b da db k0)
            ((s.coreAt c.core).kilnWait == some true) then
          (s.setKilnWait c.core (some ((s.coreAt c.core).kilnWait == some true))).stall c
        else
          let s1 := ((s0.noteTile c ja false).noteTile c jb false).noteRows c (issuerOf c.bctx c.w) w.aw.toNat base n true
          (s1.setKilnWait c.core none).startKiln c b t i base k0 0 [ja, jb] true

/-- MMA (R396, R397). -/
def execMma (w : MmaW) (s : State) : Host.Outcome State Fault Refusal := mmaIssue (.mma w) w s
/-- MMAI (R396, R397). -/
def execMmai (w : MmaW) (s : State) : Host.Outcome State Fault Refusal := mmaIssue (.mmai w) w s

/-- MZERO (R400). -/
def execMzero (w : MzeroW) (s : State) : Host.Outcome State Fault Refusal :=
  kilnWord (.mzero w) s (fun b => decide (w.aw.toNat < b.info.wpb)) [w.srow] fun s c b t =>
    let base := w.arow.toNat + b.low w.srow
    let n := (if w.m64 then 64 else 128) * (if w.n64 then 64 else 128) / 32
    if !b.accRows w.aw.toNat base n then s.trapWord c b t .poolBoundary c.lanes
    else (s.noteRows c (issuerOf c.bctx c.w) w.aw.toNat base n true).startKiln c b t (.mzero w) base 0 0 [] false

/-- SCLD (R401). -/
def execScld (w : ScldW) (s : State) : Host.Outcome State Fault Refusal :=
  kilnWord (.scld w) s (fun b => b.hasTile w.tn) [] fun s0 c b t =>
    let j := b.tileIx w.tn.toNat
    let d := (s.tile c.core j).desc
    if s.tileWaits c.core b w.tn then s.block c c.lanes (.tile w.tn.toNat)
    else if tLayout d ≠ 2 ∨ tCols d / 32 < w.joff.toNat + w.jcnt.toNat + 1 then s.trapWord c b t .matrixShape c.lanes
    else (s0.noteTile c j false).startKiln c b t (.scld w) 0 0 0 [j] false

/-- A timeline a class 5 word names belongs to the block's context (R391, R403). -/
def tlInRange (b : Blk) (tlv : Bool) (tl : BitVec 10) : Bool := !tlv || tl.toNat / 16 == b.info.ctx

/-- Whether a queue's value for a timeline does not decrease (R238). -/
def Thr.tlOrder (t : Thr) (tlv : Bool) (tl : BitVec 10) (v : DWord) : Bool :=
  !tlv || decide ((t.marks.getD (tl.toNat % 16) 0).toNat ≤ v.toNat)

/-- A queue's value for a timeline noted (R238). -/
def Thr.tlMark (t : Thr) (tlv : Bool) (tl : BitVec 10) (v : DWord) : Thr :=
  if tlv then { t with marks := lset (tl.toNat % 16) v t.marks } else t

/-- The element size FMT asks for (R403). -/
def moveEsize (fmt : BitVec 3) : Nat := if fmt = 0 then 2 else if fmt.toNat ≤ 2 then 1 else 0

/-- MSTORE and MLOAD up to their issue (R403); `store` tells them apart. -/
def moveIssue (i : Instr) (w : MmoveW) (s : State) (store : Bool) : Host.Outcome State Fault Refusal :=
  kilnWord i s (fun b => b.hasTile w.tn && decide (w.aw.toNat < b.info.wpb) && tlInRange b w.tlv w.tl)
    (w.srow :: if w.tlv then [w.sv] else []) fun s0 c b t =>
      let j := b.tileIx w.tn.toNat
      let e := s.tile c.core j
      let d := e.desc
      let base := w.arow.toNat + b.low w.srow
      let side (n : Nat) : Bool := n == 64 || n == 128
      let n := tRows d * tCols d / 32
      let v : DWord := BitVec.ofNat 64 (b.low w.sv)
      let k := w.tok.toNat
      if !store && e.st != 2 then s.block c c.lanes (.tile w.tn.toNat)
      else if !(decide (tLayout d < 2) && side (tRows d) && side (tCols d) && tEsize d == moveEsize w.fmt) then
        s.trapWord c b t .matrixShape c.lanes
      else if store && !e.fillable then s.trapWord c b t .tileState c.lanes
      else if !b.accRows w.aw.toNat base n then s.trapWord c b t .poolBoundary c.lanes
      else if !t.tlOrder w.tlv w.tl v then s.trapWord c b t .timelineOrder c.lanes
      else if w.tkv && decide (15 ≤ t.tokens.getD k 0) then s.trapWord c b t .tokenOverflow c.lanes
      else
        let s1 := (s0.noteTile c j store).noteRows c (issuerOf c.bctx c.w) w.aw.toNat base n (!store)
        let s2 := if store then s1.modTile c.core j Tile.fillStart else s1
        let s3 := s2.modThr c.core c.bctx c.w fun t =>
          { t.tlMark w.tlv w.tl v with tokens := if w.tkv then lmod k (· + 1) t.tokens else t.tokens }
        s3.startKiln c b t i base 0 v (if store then [] else [j]) true

/-- MSTORE (R402, R403). -/
def execMstore (w : MmoveW) (s : State) : Host.Outcome State Fault Refusal := moveIssue (.mstore w) w s true
/-- MLOAD (R402, R403). -/
def execMload (w : MmoveW) (s : State) : Host.Outcome State Fault Refusal := moveIssue (.mload w) w s false

/-- TREL (R404). -/
def execTrel (w : TrelW) (s : State) : Host.Outcome State Fault Refusal :=
  kilnWord (.trel w) s (fun b => b.hasTile w.tn && tlInRange b w.tlv w.tl) (if w.tlv then [w.sv] else []) fun s c b t =>
    let j := b.tileIx w.tn.toNat
    let v : DWord := BitVec.ofNat 64 (b.low w.sv)
    if (s.tile c.core j).st ≠ 2 then s.trapWord c b t .tileState c.lanes
    else if !t.tlOrder w.tlv w.tl v then s.trapWord c b t .timelineOrder c.lanes
    else
      let s1 := (s.noteTile c j true).modTile c.core j fun e =>
        { e with st := 3, raise := if w.tlv then some (w.tl.toNat, v) else none }
      ((s1.modThr c.core c.bctx c.w fun t => t.tlMark w.tlv w.tl v).tileDrain c.core c.bctx j).retire c c.lanes

/-- TACQ (R404). -/
def execTacq (w : TrelW) (s : State) : Host.Outcome State Fault Refusal :=
  kilnWord (.tacq w) s (fun b => b.hasTile w.tn) [] fun s c b _ =>
    if s.tileWaits c.core b w.tn then s.block c c.lanes (.tile w.tn.toNat)
    else (s.noteTile c (b.tileIx w.tn.toNat) false).retire c c.lanes

/-- MWAIT (R404). -/
def execMwait (w : TrelW) (s : State) : Host.Outcome State Fault Refusal :=
  kilnWord (.mwait w) s (fun _ => true) [] fun s c _ _ =>
    let n := (fld w.tl 0 6).toNat
    if (s.mcmds.filter fun k => k.core == c.core && k.bctx == c.bctx).length ≤ n then
      (s.note c.core (issuerOf c.bctx c.w) (lowestLane c.lanes) objNone false none none).retire c c.lanes
    else s.block c c.lanes (.mwait n)

/-! ### Effects (R265 to R268, R398 to R403) -/

/-- The block product P of row `i` of A and row `n` of B over K-block `j` (R265). -/
def blockProduct (da db : BitVec 128) (byte : Nat → Byte) (i n j : Nat) : Int :=
  (List.range 32).foldl (fun x k => x + tileInt da byte i (32 * j + k) * tileInt db byte n (32 * j + k)) 0

/-- One K-block added to an FP32 accumulator (R266): an exact zero sum is +0, whatever the signs of what is added. -/
def accStep (acc : Nat) (p : Int) (sa sb : Byte) : Nat :=
  if sa = 0xFF ∨ sb = 0xFF then 0x7FC00000
  else
    let c := if p = 0 then 0 else (fp32.round .rne false (decide (p < 0)) p.natAbs ((sa.toNat : Int) + sb.toNat - 254)).val
    let x := (fp32.add .rne false acc c).val
    if x = 0x80000000 then 0 else x

/-- An accumulator tile rewritten: each element from its row, column and old value (R395). -/
def Thr.mapAcc (t : Thr) (base m n : Nat) (f : Nat → Nat → Word → Word) : Thr :=
  (List.range (m * n / 32)).foldl
    (fun t r => t.putRow (base + r) 0xFFFFFFFF fun l => f (r / (n / 32)) (r % (n / 32) * 32 + l) (t.reg (base + r) l)) t

/-- An element of an accumulator tile (R395). -/
def Thr.accElem (t : Thr) (base n i k : Nat) : Word := t.reg (base + i * (n / 32) + k / 32) (k % 32)

/-- The format FMT names (R402); 0 copies the bits. -/
def moveFmt (fmt : BitVec 3) : Fmt := if fmt = 1 then bf16 else if fmt = 2 then fp16 else if fmt = 3 then e4m3 else e5m2

/-- An accumulator value narrowed by MSTORE (R403). -/
def storeElem (w : MmoveW) (x : Word) : Nat :=
  if w.fmt = 0 then x.toNat else (fp32.convert (moveFmt w.fmt) (dirOf 0 w.rmode.toNat 0) w.sat x.toNat).val

/-- A tile element widened by MLOAD (R403). -/
def loadElem (w : MmoveW) (x : Nat) : Word :=
  let f := moveFmt w.fmt
  if w.fmt = 0 then BitVec.ofNat 32 x
  else if f.isNan x then BitVec.ofNat 32 (fp32.withSign (f.signOf x) fp32.canonNan)
  else BitVec.ofNat 32 (f.convert fp32 .rne false x).val

/-- The scratchpad ranges a class 5 command reads: of an MMA the K range's plane bytes and mask, of SCLD its columns, of
MLOAD the tile (R398, R401, R403). -/
def kilnReads (op : Instr) (k0 : Nat) (desc : BitVec 6 → BitVec 128) : List (Nat × Nat) :=
  let planes (d : BitVec 128) (kcnt : Nat) : List (Nat × Nat) :=
    ((List.range (tPlanes d)).map fun p => (List.range (tRows d)).map fun i =>
      (tPlaneByte d p i (128 * k0), tPlaneByte d p i (128 * k0) + 16 * (kcnt + 1))).flatten
  match op with
  | .mma w | .mmai w =>
    planes (desc w.ta) w.kcnt.toNat ++ planes (desc w.tb) w.kcnt.toNat ++
      (if w.skip && tZmv (desc w.ta) then
        [(tZoff (desc w.ta), tZoff (desc w.ta) + tRows (desc w.ta) * tCols (desc w.ta) / 256)] else [])
  | .scld w =>
    let lo := tScale0 (desc w.tn) + 128 * w.joff.toNat
    [(lo, lo + 128 * (w.jcnt.toNat + 1))]
  | .mload w => tFoot (desc w.tn)
  | _ => []

/-- Whether some poisoned line of the scratchpad lies in the ranges. -/
def Blk.poisonIn (b : Blk) (rs : List (Nat × Nat)) : Bool :=
  b.spadPoison.any fun l => rs.any fun r => decide (128 * l < r.2) && decide (r.1 < 128 * (l + 1))

/-- The accumulator element of an MMA or MMAI after its K range (R398). -/
def mmaElem (w : MmaW) (isInt : Bool) (da db : BitVec 128) (byte : Nat → Byte) (scale : Nat → Nat → Byte) (k0 i n : Nat)
    (a : Word) : Word :=
  (List.range (4 * (w.kcnt.toNat + 1))).foldl
    (fun a x =>
      let j := 4 * k0 + x
      if w.skip && tZmv da && tileMasked da byte i j then a
      else if isInt then a + BitVec.ofInt 32 (blockProduct da db byte i n j)
      else BitVec.ofNat 32 (accStep a.toNat (blockProduct da db byte i n j) (scale (tSoff da + j) i) (scale (tSoff db + j) n))) a

/-- Bytes written into a block's scratchpad, whole lines losing their poison (R43). -/
def State.spadStore (s : State) (core bctx : Nat) (o : Nat) (bs : List Byte) : State :=
  let s1 := s.modBlk core bctx fun b => b.spadWrite o bs
  s1.modBlk core bctx fun b => { b with
    spadPoison := b.spadPoison.filter fun l => !(decide (o ≤ 128 * l) && decide (128 * (l + 1) ≤ o + bs.length)) }

/-- A class 5 command takes effect (R398, R400 to R403).  `bad` says that what it reads is lost: every element it writes is
then a free value. -/
def State.kilnEffect (s : State) (k : MCmd) (b : Blk) (bad : Bool) : State :=
  let desc (n : BitVec 6) : BitVec 128 := (s.tile k.core (b.tileIx n.toNat)).desc
  let core := s.coreAt k.core
  let scale (col i : Nat) : Byte := core.scaleByte (128 * (b.scaleCol + col) + i)
  let free (r l : Nat) : Word := Config.freeWord s.fresh r l
  match k.op with
  | .mma w | .mmai w =>
    let isInt : Bool := match k.op with
      | .mmai _ => true
      | _ => false
    let da := desc w.ta
    let db := desc w.tb
    (s.modThr k.core k.bctx w.aw.toNat fun t => t.mapAcc k.base (tRows da) (tRows db) fun i n a =>
      if bad then free i n else mmaElem w isInt da db b.byteAt scale k.k0 i n a).bump
  | .mzero w =>
    (s.modThr k.core k.bctx w.aw.toNat fun t =>
      t.mapAcc k.base (if w.m64 then 64 else 128) (if w.n64 then 64 else 128) fun i n _ => if bad then free i n else 0).bump
  | .scld w =>
    let d := desc w.tn
    let cols := (List.range (w.jcnt.toNat + 1)).map (w.joff.toNat + ·)
    let put (m : NMap Byte) (j : Nat) : NMap Byte :=
      (List.range 128).foldl
        (fun m i => nput (128 * (b.scaleCol + tSoff d + j) + i)
          (if bad then Config.freeByte s.fresh (128 * j + i) else b.spadByte (tScale0 d + 128 * j + i)) m) m
    (s.setCore k.core { core with scale := cols.foldl put core.scale }).bump
  | .mstore w =>
    let d := desc w.tn
    match b.thr? w.aw.toNat with
    | none => s
    | some t =>
      let size := 2 ^ tEsize d
      let b1 := (List.range (tRows d)).foldl
        (fun b i => (List.range (tCols d)).foldl
          (fun b n => b.spadWrite (tElem d i n)
            (leBytes size (if bad then (free i n).toNat else storeElem w (t.accElem k.base (tCols d) i n)))) b) b
      let whole (l : Nat) : Bool := (tFoot d).any fun r => decide (r.1 ≤ 128 * l) && decide (128 * (l + 1) ≤ r.2)
      let part (l : Nat) : Bool := !whole l && (tFoot d).any fun r => decide (r.1 < 128 * (l + 1)) && decide (128 * l < r.2)
      let s1 := (s.setBlk k.core k.bctx { b1 with spadPoison := b1.spadPoison.filter fun l => !whole l }).bump
      (b1.spadPoison.filter part).foldl (fun s l => s.spadPoisonWrite (blkKey k.core k.bctx) b1 l false) s1
  | .mload w =>
    let d := desc w.tn
    (s.modThr k.core k.bctx w.aw.toNat fun t => t.mapAcc k.base (tRows d) (tCols d) fun i n _ =>
      if bad then free i n else loadElem w (leNat (b.spadRead (tElem d i n) (2 ^ tEsize d)))).bump
  | _ => s

/-- The completion signals of a class 5 command: its token, its tile and its timeline (R403). -/
def State.kilnSignals (s : State) (k : MCmd) (b : Blk) : State :=
  let signal (w : MmoveW) (store : Bool) : State :=
    let s1 := if w.tkv then s.modThr k.core k.bctx 32 fun t => { t with tokens := lmod w.tok.toNat (· - 1) t.tokens } else s
    let s2 := if store then s1.modTile k.core (b.tileIx w.tn.toNat) Tile.fillDone else s1
    if w.tlv then s2.raiseBy k.core k.bctx 32 w.tl.toNat k.sv else s2
  match k.op with
  | .mstore w => signal w true
  | .mload w => signal w false
  | _ => s

/-- What the completion of a class 5 command waits for: the stream's accesses that its issue is a release of, at system scope where it
raises a timeline and at block scope toward its scratchpad reads otherwise (R237, R394); and, but for MMA and MMAI, which are admitted
instead, the slots and gated islands of the scratchpad and the pool (R399). -/
def State.kilnHeld (s : State) (k : MCmd) : Bool :=
  let waits (spad : Bool) (aw : Option Nat) (tl : Bool) : Bool :=
    (spad && s.islandDown (clusterIsland (k.core / 8))) || aw.any (fun w => s.islandDown (coreIsland k.core (w % 4)))
      || !s.relDone { id := k.id, core := k.core, bctx := k.bctx, w := 32, adm := k.adm, low := 0, mask := 0xFFFFFFFF
                      scope := if tl then 3 else 1, upto := k.id, act := .stage 0 } (if tl then 3 else 1)
  match k.op with
  | .mzero w => waits false (some w.aw.toNat) false
  | .scld _ => waits true none false
  | .mload w | .mstore w => waits true (some w.aw.toNat) w.tlv
  | _ => waits false none false

/-- The failure of a class 5 command noted in its stream's CPYSTAT (R285, R410, log entry 47). -/
def State.kilnFails (s : State) (k : MCmd) (cause : Cause) : State :=
  s.modThr k.core k.bctx 32 fun t => { t with
    cpystat := at64 0 ((fld t.cpystat 0 16).toNat ||| 1) ||| at64 16 cause.code ||| at64 32 k.lseq.toNat }

/-- MATRIX_COMMAND_COMPLETE (R50, R398, R403): argument `a` names the oldest class 5 command of its block, and `flag` reports an
error the codes could not correct, in the pool, or with `flag2` in line `b` of the block's scratchpad. -/
def execMatrixCommandComplete (s : State) : Host.Outcome State Fault Refusal :=
  match s.mcmds.find? fun k => k.id == s.arg.a with
  | none => .next s
  | some k =>
    let first := s.mcmds.all fun x => !(x.core == k.core && x.bctx == k.bctx) || decide (k.id ≤ x.id)
    match s.blk? k.core k.bctx with
    | none => .next { s with mcmds := s.mcmds.filter fun x => x.id != k.id }
    | some b =>
      if !first || s.kilnHeld k then .next s
      else
        let desc (n : BitVec 6) : BitVec 128 := (s.tile k.core (b.tileIx n.toNat)).desc
        let bad := s.arg.flag || b.poisonIn (kilnReads k.op k.k0 desc)
        let s0 := if !s.arg.flag then s
          else if s.arg.flag2 then s.sramEcc (bankKey (k.core / 8) (b.bankOf s.arg.b)) s.arg.b .uncorrectable
          else s.poolEcc k.core true
        let s1 := s0.kilnEffect k b bad
        let s2 := ({ s1 with mcmds := s1.mcmds.filter fun x => x.id != k.id }).dropReader k.core k.bctx k.id
        let s3 := s2.kilnSignals k b
        let s4 := if bad then (s3.kilnFails k .engineAbort).asyncTrap k.core k.bctx 32
            { cause := .engineAbort, origin := 2, more := 0, serviced := false, pc := k.pc, addr := 0, lseq := k.lseq,
              issuer := 32 }
          else s3
        .next s4.sweep

end Sys2Proof.Machine
end

