-- ==== Sys2Proof/Machine/Uniform.lean ====
section
/-! DEFINITION. NOP, REP, uniform arithmetic and compares, uniform loads and stores, and V2S (R186, R187, R306, R307,
R335 to R341, R436). -/

namespace Sys2Proof.Machine

/-! ### NOP and REP (R186, R306, R307) -/

/-- NOP (R306). -/
def execNop (z : BitVec 26) (s : State) : Host.Outcome State Fault Refusal :=
  ctlWordOp (.nop z) s (fun _ _ _ => .go) fun c _ _ => s.retire c c.lanes

/-- Whether a stepped lane selector keeps to its kind of register over a repeat (R186). -/
def laneStepOk (k : SrcK) (sel : BitVec 8) (step n : Nat) : Bool :=
  step == 0 || (match k with
    | .un | .ctl => false
    | _ => sel != 0xFF && (if sel.toNat < 128 then decide (sel.toNat + n * step < 128)
      else decide (sel.toNat + n * step ≤ 0xFE)))

/-- Whether a stepped uniform field keeps to s0 to s254 over a repeat (R186). -/
def uniStepOk (isReg : Bool) (sel : BitVec 8) (step n : Nat) : Bool :=
  step == 0 || (isReg && decide (sel.toNat + n * step ≤ 0xFE))

/-- The uniform words whose register fields step (R336 to R339, R384); those of R427 to R447 step none. -/
def uniSteps : Instr → Bool
  | .smov _ | .sadd _ | .ssub _ | .smul _ | .sand _ | .sor _ | .sxor _ | .sshl _ | .sshr _ | .ssar _ | .smin _ | .smax _
  | .scmp _ | .sld _ | .sst _ | .barinit _ | .bar _ | .bara _ | .barw _ | .tokwait _ | .phreg _ | .phdrop _ | .phsig _
  | .phwait _ | .phnext _ | .tlsig _ | .tlwait _ | .tlread _ | .stage _ => true
  | _ => false

/-- Whether the steps of a REP fit the fields of the word it repeats, `n` steps from the first repetition (R186, R307). -/
def stepsFit (r : RepW) (i : Instr) : Bool :=
  let n := r.cnt.toNat
  let d := r.stepd.toNat
  let a := r.stepa.toNat
  let b := r.stepb.toNat
  match laneWord? i, uniWord? i with
  | some w, _ =>
    let f := laneForm i
    match i with
    | .tblload _ => d == 0 && a == 0 && b == 0
    | _ => (d == 0 || ((f.wr != 0 || f.rd != 0) && decide (w.vd.toNat + n * d < 128)))
        && laneStepOk f.a w.sa a n && laneStepOk f.b w.sb b n
  | none, some w =>
    let f := uniForm i
    uniStepOk (uniSteps i && (f.d == .dst || f.d == .data)) w.sd d n && uniStepOk (uniSteps i && f.a == .src) w.sa a n
      && uniStepOk (uniSteps i && f.b == .src) w.sb b n
  | none, none => d == 0 && a == 0 && b == 0

/-- The word a REP repeats: the next of the clause being issued. -/
def repTarget (c : Cur) (t : Thr) : List Word :=
  match (t.lane (lowestLane c.lanes)).clause with
  | some k => k.words.drop ((c.next.toNat - k.hdrAt.toNat) / 4 - 1)
  | none => []

/-- REP (R186, R187, R307): checked here; its count and steps act on the word that follows. -/
def execRep (r : RepW) (s : State) : Host.Outcome State Fault Refusal :=
  ctlWordOp (.rep r) s
    (fun c _ t =>
      let ws := repTarget c t
      Gate.unless (!clauseEnding c.cls (ws.headD 0) && (match decodeRaw c.cls ws with
        | .ok (.rep _, _) => false
        | .ok (i, _) => stepsFit r i
        | .error _ => true)) .repeatIllegal)
    fun c _ _ => s.retire c c.lanes

/-! ### Uniform arithmetic (R336, R337) -/

/-- SMOV (R336). -/
def execSmov (w : UniW) (s : State) : Host.Outcome State Fault Refusal := uniAlu (.smov w) w s fun a _ => a
/-- SADD (R336). -/
def execSadd (w : UniW) (s : State) : Host.Outcome State Fault Refusal := uniAlu (.sadd w) w s fun a b => a + b
/-- SSUB (R336). -/
def execSsub (w : UniW) (s : State) : Host.Outcome State Fault Refusal := uniAlu (.ssub w) w s fun a b => a - b
/-- SMUL (R336). -/
def execSmul (w : UniW) (s : State) : Host.Outcome State Fault Refusal := uniAlu (.smul w) w s fun a b => a * b
/-- SAND (R336). -/
def execSand (w : UniW) (s : State) : Host.Outcome State Fault Refusal := uniAlu (.sand w) w s fun a b => a &&& b
/-- SOR (R336). -/
def execSor (w : UniW) (s : State) : Host.Outcome State Fault Refusal := uniAlu (.sor w) w s fun a b => a ||| b
/-- SXOR (R336). -/
def execSxor (w : UniW) (s : State) : Host.Outcome State Fault Refusal := uniAlu (.sxor w) w s fun a b => a ^^^ b
/-- SSHL (R336). -/
def execSshl (w : UniW) (s : State) : Host.Outcome State Fault Refusal :=
  uniAlu (.sshl w) w s fun a b => if b.toNat < 64 then a <<< b.toNat else 0
/-- SSHR (R336). -/
def execSshr (w : UniW) (s : State) : Host.Outcome State Fault Refusal :=
  uniAlu (.sshr w) w s fun a b => if b.toNat < 64 then a >>> b.toNat else 0
/-- SSAR (R336). -/
def execSsar (w : UniW) (s : State) : Host.Outcome State Fault Refusal :=
  uniAlu (.ssar w) w s fun a b => a.sshiftRight (min b.toNat 63)
/-- SMIN (R336). -/
def execSmin (w : UniW) (s : State) : Host.Outcome State Fault Refusal :=
  uniAlu (.smin w) w s fun a b => if a.toInt ≤ b.toInt then a else b
/-- SMAX (R336). -/
def execSmax (w : UniW) (s : State) : Host.Outcome State Fault Refusal :=
  uniAlu (.smax w) w s fun a b => if b.toInt ≤ a.toInt then a else b

/-- SCMP (R337). -/
def execScmp (w : UniW) (s : State) : Host.Outcome State Fault Refusal :=
  uniWordOp (.scmp w) w s fun s c b _ =>
    let a := srcU b w.sa w.lit
    let v := srcU b w.sb w.lit
    let x : Int := if w.sd.getLsbD 6 then a.toNat else a.toInt
    let y : Int := if w.sd.getLsbD 6 then v.toNat else v.toInt
    (s.modBlk c.core c.bctx fun b => b.putQ (fld w.sd 0 3).toNat (condHolds (fld w.sd 3 3) x y)).retire c c.lanes

/-! ### Uniform loads and stores (R339 to R341) -/

/-- A uniform access: one access of 8 bytes for the whole sub-warp, whose faults every lane of it takes (R340).  `us` and
`ud` are the uniform registers read and written, noted only where the word does not stall (R125). -/
def State.uniAccess (s : State) (c : Cur) (b : Blk) (t : Thr) (us ud : List Nat) (f : MemForm) (va data : DWord) : State :=
  let priv := t.privileged c.lanes
  let low := lowestLane c.lanes
  let failAll (k : Cause) (page : Option Nat) : State :=
    s.memFault c ((maskLanes c.lanes).map fun l => (l, k, va)) fun _ => page
  match s.laneCheck c b (c.mmu b priv) f va with
  | .walk v => (s.startWalk (c.mmu b priv) v f.ak.record (c.site t)).stall c
  | chk =>
    if s.heldBack c.core c.bctx c.w b.adm c.lanes then s.stall c
    else match chk with
      | .miss p => failAll .translationMiss (some p)
      | .fault k => failAll k none
      | .walk _ => s
      | .ok h a l =>
        let at' : DWord × Bool := match s.target c b f va with
          | .glob v x => (v, x)
          | _ => (va, false)
        let g : LaneGo := { lane := low, va := va, gva := at'.1, h := h, a := a, l := l, param := at'.2 }
        let r := { reqOf c b t f priv s.nextId (fun _ => zext 128 data) (fun _ => 0) [g] with mask := c.lanes }
        if !s.roomFor c b.adm [r] then s.stall c
        else
          let kind := f.watch.getD 0
          let hit := !priv && s.watchHit b c.w low kind (genericVa f va) 8 (if kind = 0 then none else some (zext 128 data))
          let remote : Bool := match h with
            | .peer _ => decide (c.w < 32)
            | _ => false
          let later := !priv && kind == 0 && s.watchLater b c.w low 0 (genericVa f va) 8
          let stay := if hit then 0 else c.lanes
          let s1 := (((s.noteUnis c b us false).noteUnis c b ud true).markDst c f.dst).addReqs c b.adm f.scope [r]
          let s2 := match f.dst with
            | .uni r =>
              if remote then s1.retireBlocked c stay (.remoteLoad true r)
              else if later && r != 0 then s1.retireBlocked c stay (.emptyReg true r)
              else s1.retire c stay
            | _ => s1.retire c stay
          if hit then s2.watchTrap c c.lanes va else s2

/-- SLD (R339). -/
def execSld (w : UniW) (s : State) : Host.Outcome State Fault Refusal :=
  uniWordOp (.sld w) w s fun _ c b t =>
    s.uniAccess c b t (uniUnis (.sld w) w) [w.sd.toNat]
      { kind := .load, ak := .read, bytes := 8, watch := some 0, dst := .uni w.sd.toNat }
      (srcU b w.sa w.lit + srcU b w.sb w.lit) 0

/-- SST (R339). -/
def execSst (w : UniW) (s : State) : Host.Outcome State Fault Refusal :=
  uniWordOp (.sst w) w s fun _ c b t =>
    s.uniAccess c b t (uniUnis (.sst w) w) [] { kind := .store, ak := .write, bytes := 8, watch := some 1 }
      (srcU b w.sa w.lit + srcU b w.sb w.lit) (b.sreg w.sd.toNat)

/-! ### V2S (R436) -/

/-- V2S (R436): the lane is bits [4:0] of the selected value, or the lowest of the sub-warp with bit 5. -/
def execV2s (w : UniW) (s : State) : Host.Outcome State Fault Refusal :=
  let n := (fld w.sa 0 7).toNat
  let wide := w.sa.getLsbD 7
  ctlUniOp (.v2s w) s (fun _ => [w.sb.toNat, w.sd.toNat])
    (fun _ b t => Gate.first
      [ Gate.unless (w.sd != 0xFF && (if wide then n % 2 == 0 && decide (n + 1 < t.poolb) else decide (n < t.poolb)))
          .operandRange,
        (match ((if wide then [n, n + 1] else [n]).find? t.isEmpty) with
          | some r => .wait (.emptyReg false r)
          | none => .go),
        uniSrcGate b w.sb w.eb,
        uniRegGate b w.sd.toNat ])
    fun c b t =>
      let v := srcU b w.sb w.lit
      let l := if v.getLsbD 5 then lowestLane c.lanes else v.toNat % 32
      (s.noteUnis c b (if w.sb = 0xFF then [] else [w.sb.toNat]) false).putUni c b w.sd.toNat
        (if wide then t.reg64 n l else zext 64 (t.reg n l))

end Sys2Proof.Machine
end

