-- ==== Sys2Proof/Machine/CopyIssue.lean ====
section
/-! DEFINITION. Class 6 up to its issue (R406, R407, R411 to R422): operands, extents and geometry of the copies, the checks
of R407 in their order, TSET and STAGEW; and how a command ends (R216, R409, R410). -/

namespace Sys2Proof.Machine

/-! ### Operand values -/

/-- Values a copy's words give it: the destination, source and size operands (R406) and the timeline value. -/
structure CpyArgs where
  sd : DWord
  sa : DWord
  sb : DWord
  sv : DWord

/-- Bits of an element of an SFMT (R414). -/
def sfmtBits (f : Nat) : Nat := [32, 16, 16, 8, 8, 6, 6, 4, 8, 16, 32].getD f 0

/-- A range of a copy: `rows` runs of `bytes` bytes, `pitch` apart, from an address; on a peer where `peer` is set. -/
structure Ext where
  va : DWord
  bytes : Nat
  rows : Nat := 1
  pitch : Nat := 0
  write : Bool := false
  peer : Bool := false

/-- Bytes from the first to the last of a range. -/
def Ext.span (e : Ext) : Nat := if e.bytes = 0 ∨ e.rows = 0 then 0 else (e.rows - 1) * e.pitch + e.bytes

/-- The 40-bit length of CPY, CPYFILL and CPYMC. -/
def cpyLen (sb : DWord) : Nat := (fld sb 0 40).toNat

/-- Fields of CPYM's geometry (R413): LX, LY, LZ, ESIZE and PITCH in bytes. -/
def cpymGeom (sb : DWord) : Nat × Nat × Nat × Nat × Nat :=
  let lx := (fld sb 0 4).toNat
  let e := (fld sb 12 2).toNat
  let p := (fld sb 32 32).toNat
  (lx, (fld sb 4 4).toNat, (fld sb 8 4).toNat, e, if p = 0 then 2 ^ (lx + e) else p)

/-- Bytes of a dense row of `n` elements of an SFMT. -/
def sfmtRow (f n : Nat) : Nat := n * sfmtBits f / 8

/-- COUNT of CPYG and CPYS (R418). -/
def cpyCount (y : CpyY) : Nat := (fld y.rest 5 18).toNat
/-- Element bytes of CPYG and CPYS. -/
def cpyElem (y : CpyY) : Nat := 2 ^ (fld y.rest 1 3).toNat
/-- Index bytes of CPYG and CPYS. -/
def cpyIndex (y : CpyY) : Nat := if y.rest.getLsbD 0 then 8 else 4

/-- Source row pitch of CPYP. -/
def cpypPitch (y : CpyY) (sb : DWord) (d : BitVec 128) : Nat :=
  let p := (fld sb 0 32).toNat
  if p = 0 then sfmtRow (fld y.rest 0 4).toNat (tCols d) else p

/-- The ranges a copy reads and writes at addresses known at issue, sources first (R411 to R418).  CPYX's source and the
indexed side of CPYG and CPYS are not among them. -/
def copyExts (i : Instr) (a : CpyArgs) (dt : BitVec 128) : List Ext :=
  match i with
  | .cpy _ _ y =>
    [{ va := a.sa, bytes := cpyLen a.sb, peer := y.rest.getLsbD 0 },
      { va := a.sd, bytes := cpyLen a.sb, write := true, peer := y.rest.getLsbD 1 }]
  | .cpyfill _ _ _ => [{ va := a.sd, bytes := cpyLen a.sb, write := true }]
  | .cpym _ _ y =>
    let (lx, ly, lz, e, p) := cpymGeom a.sb
    let back := y.rest.getLsbD 0
    let lin (va : DWord) (w : Bool) : Ext :=
      { va := va, bytes := 2 ^ (lx + e), rows := 2 ^ (ly + lz), pitch := p, write := w }
    let mor (va : DWord) (w : Bool) : Ext := { va := va, bytes := 2 ^ (lx + ly + lz + e), write := w }
    if back then [mor a.sa false, lin a.sd true] else [lin a.sa false, mor a.sd true]
  | .cpyp _ _ y =>
    { va := a.sa, bytes := sfmtRow (fld y.rest 0 4).toNat (tCols dt), rows := tRows dt, pitch := cpypPitch y a.sb dt } ::
      (if y.rest.getLsbD 4 then [{ va := a.sd, bytes := tRows dt * tCols dt / 32 }] else [])
  | .cpyx _ _ y =>
    if y.rest.getLsbD 0 then []
    else [{ va := a.sd, bytes := sfmtRow (fld y.rest 1 4).toNat (32 * (fld a.sb 0 32).toNat), write := true }]
  | .cpyr _ _ _ => [{ va := a.sa, bytes := 128 * ((fld a.sd 16 6).toNat + 1) }]
  | .cpymc _ _ _ => [{ va := a.sa, bytes := cpyLen a.sb }]
  | .cpyg _ _ y =>
    [{ va := a.sb, bytes := cpyCount y * cpyIndex y }, { va := a.sd, bytes := cpyCount y * cpyElem y, write := true }]
  | .cpys _ _ y =>
    [{ va := a.sb, bytes := cpyCount y * cpyIndex y }, { va := a.sa, bytes := cpyCount y * cpyElem y }]
  | _ => []

/-! ### Geometry (R407 step 4) -/

/-- The cluster window that an address names (R189). -/
def inFifoWindow (va : DWord) : Bool := isWindow va && fld va 48 4 == 2

/-- Whether a plane tile can be the destination of a conversion (R414, R270). -/
def planesOk (d : BitVec 128) (zm : Bool) : Bool :=
  tLayout d == 2 && !(tPfmt d == 0 && tPlanes d == 1) && (!zm || tZmv d)

/-- The geometry rules of R411 to R418 that name no window; `none` is no tile named. -/
def copyGeom (i : Instr) (a : CpyArgs) (dt : Option (BitVec 128)) : Bool :=
  let d := dt.getD 0
  let fifo := (copyExts i a d).any fun e => inFifoWindow e.va && !e.peer
  match i with
  | .cpy _ _ _ =>
    fld a.sb 40 24 == 0 && !(fifo && cpyLen a.sb % 128 != 0)
      && !((copyExts i a d).any fun e => e.peer && isWindow e.va)
  | .cpyfill _ _ _ => !fifo
  | .cpym _ _ _ =>
    let (lx, ly, lz, e, _) := cpymGeom a.sb
    let side (n : Nat) : Bool := decide (3 ≤ n) && decide (n ≤ 10)
    !fifo && side lx && side ly && (lz == 0 || side lz) && fld a.sb 14 18 == 0
      && (match dt with
        | some d => tLayout d != 1 || (tRows d == 2 ^ ly && tCols d == 2 ^ lx && tEsize d == e)
        | none => true)
  | .cpyp _ _ y =>
    !fifo && dt.isSome && planesOk d (y.rest.getLsbD 5) && fld a.sb 32 32 == 0
      && !((fld y.rest 0 4 == 5 || fld y.rest 0 4 == 6) && tCols d % 4 != 0)
  | .cpyx _ _ y =>
    !fifo && !isWindow a.sa && fld a.sb 32 32 == 0
      && (!y.rest.getLsbD 0
        || (dt.isSome && planesOk d (y.rest.getLsbD 5) && decide ((fld a.sb 0 32).toNat = tRows d * tCols d / 32)))
  | .cpyr _ _ _ => !fifo && a.sd &&& ~~~0x3F7F1F == 0 && a.sa.toNat % 4 == 0
  | .cpymc _ _ y => !fifo && fld y.rest 0 8 != 0
  | .cpyg _ _ y => !fifo && !isWindow a.sa && a.sa.toNat % cpyElem y == 0 && cpyCount y != 0
  | .cpys _ _ y => !fifo && !isWindow a.sd && a.sd.toNat % cpyElem y == 0 && cpyCount y != 0
  | _ => true

/-- The scratchpad offset of an address in the block's own scratchpad (R189). -/
def ownOffset (b : Blk) (va : DWord) : Option Nat :=
  if !isWindow va then none
  else if fld va 48 4 = 0 then some (va.toNat % 2 ^ 48)
  else if fld va 48 4 = 1 ∧ va.toNat / 2 ^ 25 % 2 ^ 23 = b.info.rank then some (va.toNat % 2 ^ 25)
  else none

/-- Whether bytes `lo` to `hi - 1` lie in a tile's footprint (R407). -/
def inFoot (foot : List (Nat × Nat)) (lo hi : Nat) : Bool :=
  decide (hi ≤ lo) || (foot.any fun r => decide (r.1 ≤ lo) && decide (hi ≤ r.2))
    || (foot.any fun r => foot.any fun q => decide (q.1 ≤ r.2) && decide (r.1 ≤ lo) && decide (hi ≤ q.2))

/-- Whether a range lies in a tile's footprint. -/
def Ext.inTile (e : Ext) (b : Blk) (d : BitVec 128) : Bool :=
  e.span == 0 || (match ownOffset b e.va with
    | none => false
    | some o => !e.peer &&
      (if e.pitch ≤ e.bytes then inFoot (tFoot d) o (o + e.span)
      else (List.range e.rows).all fun r => inFoot (tFoot d) (o + r * e.pitch) (o + r * e.pitch + e.bytes)))

/-- The footprint rules of R407: what a copy with DT writes and what a copy with ST reads; `dts` holds the descriptors of the entries
filled, which a multicast has in each member it names. -/
def footOk (i : Instr) (a : CpyArgs) (b : Blk) (dt st : Option (BitVec 128)) (dts : List (BitVec 128)) : Bool :=
  let es := copyExts i a (dt.getD 0)
  (match dt with
    | none => true
    | some d => match i with
      | .cpys _ _ _ => false
      | .cpymc _ _ _ => dts.all fun m => inFoot (tFoot m) a.sd.toNat (a.sd.toNat + cpyLen a.sb)
      | _ => (es.filter fun e => e.write).all fun e => e.inTile b d) &&
  (match st with
    | none => true
    | some d => match i with
      | .cpyg _ _ _ | .cpyx _ _ _ => false
      | _ => (es.filter fun e => !e.write).all fun e => e.inTile b d)

/-- The fault of a window endpoint over its whole extent (R189, R197, R407). -/
def State.windowFault (s : State) (core : Nat) (b : Blk) (e : Ext) : Option Cause :=
  let o := e.va.toNat % 2 ^ 48
  let n := e.span
  if !isWindow e.va || e.peer || n == 0 then none
  else match (fld e.va 48 4).toNat with
    | 0 => if b.info.isCopy ∨ b.info.spadB < o + n then some .scratchRange else none
    | 1 =>
      let rank := o / 2 ^ 25 % 8
      if b.info.isCopy ∨ 2 ^ 28 ≤ o ∨ b.info.bpg ≤ rank ∨ b.info.spadB < o % 2 ^ 25 + n then some .scratchRange
      else if rank = b.info.rank ∨ (s.member? b rank).isSome then none
      else some .scratchRange
    | 2 =>
      let k := bankKey (core / 8) (o / 2 ^ 20 % 32)
      if o / 2 ^ 20 % 32 * 2 ^ 20 ≠ o ∨ (s.bank k).mode ≠ .fifo then some .scratchRange
      else if (s.bank k).owner = some b.info.ctx then none
      else if e.write then some .protectionWrite else some .protectionRead
    | 3 =>
      let va := b.info.param + BitVec.ofNat 64 o
      if 65536 < o + n then some .scratchRange
      else if !canonicalVa va || isWindow va then some .addressSpace
      else if e.write then some .protectionWrite
      else none
    | _ => some .addressSpace

/-! ### Multicasts (R417) -/

/-- The members a multicast names that have not exited: rank, block-context index and block. -/
def State.castMembers (s : State) (b : Blk) (mask : Nat) : List (Nat × Nat × Blk) :=
  (List.range 8).filterMap fun r =>
    if mask / 2 ^ r % 2 = 0 then none
    else (s.member? b r).map fun p => (r, p.1, p.2)

/-- MASK of CPYMC. -/
def castMask (i : Instr) : Nat :=
  match i with
  | .cpymc _ _ y => (fld y.rest 0 8).toNat
  | _ => 0

/-- The entries a command fills: its block's DT, or DT of every live member of a multicast (R201, R417). -/
def State.fillEntries (s : State) (core : Nat) (b : Blk) (i : Instr) (dt : Option Nat) : List (Nat × Nat) :=
  match dt with
  | none => []
  | some n => match i with
    | .cpymc _ _ _ => (s.castMembers b (castMask i)).map fun m => (m.2.1 / 16, m.2.2.tileIx n)
    | _ => [(core, b.tileIx n)]

/-! ### The end of a command (R216, R409, R410) -/

/-- Token counts and CPYSTAT of a parked warp written into its image (R293). -/
def State.imgStatus (s : State) (core bctx w : Nat) : State :=
  match s.blk? core bctx with
  | none => s
  | some b => match b.thr? w with
    | none => s
    | some t =>
      if !b.parkedNow || decide (32 ≤ w) then s
      else
        let base := imageBase core bctx + 0x100 + 0x800 * w
        (s.put (base + 0x470) t.tokenBytes).put (base + 0x4D8) (leBytes 8 t.cpystat.toNat)

/-- CPYSTAT with a completed command's status added (R410). -/
def cpystatAdd (old : DWord) (k : Cmd) : DWord :=
  let failed := k.fail.isSome
  let nd := min (4095 : Nat) ((fld old 4 12).toNat + k.drops)
  let flags := (fld old 0 4).toNat ||| failed.toNat ||| 2 * k.poisonF.toNat ||| 4 * k.tagF.toNat ||| 8 * (decide (0 < k.drops)).toNat
  let cause := match k.fail with
    | some c => c.code
    | none => (fld old 16 6).toNat
  let lseq := if failed then k.lseq.toNat else (fld old 32 32).toNat
  at64 0 flags ||| at64 4 nd ||| at64 16 cause ||| at64 32 lseq

/-- Whether two commands stand in one queue (R214). -/
def Cmd.sameQueue (k q : Cmd) : Bool :=
  k.core == q.core && k.bctx == q.bctx && k.adm == q.adm && (k.w == q.w)

/-- A command removed. -/
def State.dropCmd (s : State) (id : Nat) : State := { s with cmds := s.cmds.filter fun k => k.id != id }

/-- A command changed. -/
def State.modCmd (s : State) (id : Nat) (f : Cmd → Cmd) : State :=
  { s with cmds := s.cmds.map fun k => if k.id = id then f k else k }

/-- A command. -/
def State.cmd? (s : State) (id : Nat) : Option Cmd := s.cmds.find? fun k => k.id == id

/-- Whether the release of a command's issue has completed (R235). -/
def State.issueDone (s : State) (k : Cmd) : Bool :=
  s.relDone { id := k.id, core := k.core, bctx := k.bctx, w := k.w, adm := k.adm, low := 0, mask := 0xFFFFFFFF, scope := 3,
              upto := k.upto, act := .stage 0 } 3

/-- Finished commands leave in order; a raise waits for every earlier command of its queue that names its timeline (R216), and
for the writes that happen-before its issue, which it covers (R237). -/
def State.raiseCmds (s : State) : State :=
  (s.cmds.filter fun k => k.finished).foldl
    (fun s k => match k.tl with
      | none => s.dropCmd k.id
      | some (n, v) =>
        if !s.issueDone k || s.cmds.any fun q => q.sameQueue k && decide (q.id < k.id) && (q.tl.any fun x => x.1 == n) then s
        else (s.dropCmd k.id).raiseBy k.core k.bctx k.w n v) s

/-- Launch-site origin of a command's traps (R280, R285): 1 for a lane-issued copy, 3 for the access stream's. -/
def Cmd.origin (k : Cmd) : BitVec 2 := if k.w < 32 then 1 else 3

/-- An asynchronous trap of a command, at its launch site (R285). -/
def State.cmdTrap (s : State) (k : Cmd) (cause : Cause) (addr : DWord) (toWarp : Bool) : State :=
  let alive := match s.blk? k.core k.bctx with
    | some b => b.adm == k.adm
    | none => false
  if !alive then s
  else s.asyncTrap k.core k.bctx (if toWarp then k.w else 33)
    { cause := cause, origin := k.origin, more := 0, serviced := false, pc := k.pc, addr := addr, lseq := k.lseq,
      issuer := BitVec.ofNat 6 k.w }

/-- A command that is over leaves the lists of the banks it waits at (R198). -/
def State.leaveBanks (s : State) (id : Nat) : State :=
  (s.clusters.filter fun p => p.2.waitPop.contains id || p.2.waitPush.contains id).foldl
    (fun t p => ((t.leaveWait false p.1 id).leaveWait true p.1 id).afterFifo p.1) s

/-- A command ends (R216, R409): its token, tiles, reader marks, status and traps; then the raises that are due and the
blocks that are over.  A stage deadlock is reported once, not by every command (R421). -/
def State.endCmd (s : State) (id : Nat) : State :=
  match s.cmd? id with
  | none => s
  | some k =>
    let alive := match s.blk? k.core k.bctx with
      | some b => b.adm == k.adm
      | none => false
    let s1 := if !alive then s else
      (s.modThr k.core k.bctx k.w fun t => { t with
        tokens := match k.tok with
          | some n => lmod n (· - 1) t.tokens
          | none => t.tokens
        cpystat := cpystatAdd t.cpystat k }).imgStatus k.core k.bctx k.w
    let s2 := k.targets.foldl (fun s x => s.modTile (x / 1024) (x % 1024) Tile.fillDone) s1
    let s3 := s2.dropReader k.core k.bctx id
    let s4 := match k.fail with
      | some .stageDeadlock => s3
      | some c => s3.cmdTrap k c k.failAt true
      | none => s3
    let s5 := match k.tagSite with
      | some a => s4.cmdTrap k .tagMismatch a false
      | none => s4
    (((s5.modCmd id fun k => { k with finished := true, inFlight := false }).leaveBanks id).raiseCmds).sweep

/-! ### Issue (R407) -/

/-- Whether a class 6 word uses a peer endpoint or the fabric (R31, R407). -/
def usesPeers : Instr → Bool
  | .cpy _ _ y => y.rest.getLsbD 0 || y.rest.getLsbD 1
  | .coll _ _ => true
  | _ => false

/-- Destination items of a copy: bytes, elements, rows, groups or registers, by kind. -/
def copyItems (i : Instr) (a : CpyArgs) (dt : BitVec 128) : Nat :=
  match i with
  | .cpy _ _ _ | .cpyfill _ _ _ | .cpymc _ _ _ => cpyLen a.sb
  | .cpym _ _ _ => let (lx, ly, lz, _, _) := cpymGeom a.sb; 2 ^ (lx + ly + lz)
  | .cpyp _ _ _ => tRows dt * tCols dt / 32
  | .cpyx _ _ _ => (fld a.sb 0 32).toNat
  | .cpyr _ _ _ => (fld a.sd 16 6).toNat + 1
  | .cpyg _ _ y | .cpys _ _ y => cpyCount y
  | _ => 1

/-- The registers a CPYR fills: warp, first register, count (R416). -/
def cpyrRegs (i : Instr) (sd : DWord) : Option (Nat × Nat × Nat) :=
  match i with
  | .cpyr _ _ _ => some ((fld sd 0 5).toNat, (fld sd 8 7).toNat, (fld sd 16 6).toNat + 1)
  | _ => none

/-- Whether CPYR's warp and registers are in range (R416). -/
def cpyrInRange (b : Blk) (i : Instr) (sd : DWord) : Bool :=
  match cpyrRegs i sd with
  | none => true
  | some (w, d, n) => decide (w < b.info.wpb) && (match b.thr? w with
    | some t => decide (d + n - 1 < t.poolb)
    | none => false)

/-- Whether every register of a CPYR is full. -/
def cpyrFull (b : Blk) (i : Instr) (sd : DWord) : Bool :=
  match cpyrRegs i sd with
  | none => true
  | some (w, d, n) => match b.thr? w with
    | some t => (List.range n).all fun j => !t.isEmpty (d + j)
    | none => true

/-- The registers of a CPYR marked empty (R416); an exited warp's stay as they are. -/
def State.cpyrMark (s : State) (c : Cur) (i : Instr) (sd : DWord) : State :=
  match cpyrRegs i sd with
  | none => s
  | some (w, d, n) => s.modThr c.core c.bctx w fun t => if t.exited then t else t.markEmpty ((List.range n).map (d + ·))

/-- The window, multicast and extent checks of R407 step 4, after the geometry. -/
def State.endsFault (s : State) (c : Cur) (b : Blk) (i : Instr) (a : CpyArgs) (dt : BitVec 128) : Option Cause :=
  match (copyExts i a dt).findSome? (s.windowFault c.core b) with
  | some k => some k
  | none => match i with
    | .cpymc _ _ _ => if b.info.spadB < a.sd.toNat + cpyLen a.sb then some .scratchRange else none
    | _ => none

/-- Whether a tile field names a tile the block holds (R407 step 1). -/
def tileFieldIn (b : Blk) (t : BitVec 7) : Bool := t == 127 || decide (t.toNat < b.info.tiles)

/-- Commands of a queue that have not ended, and its room (R214).  DESIGN CHOICE: R214 does not say when an entry is freed; it is when its
command ends (log entry 47). -/
def State.queueFull (s : State) (c : Cur) (adm : Nat) : Bool :=
  decide ((if c.w < 32 then 8 else 32) ≤
    (s.cmds.filter fun k => k.core == c.core && k.bctx == c.bctx && k.w == c.w && k.adm == adm && !k.finished).length)

/-- The Splitter that serves a block's queues (R214). -/
def Blk.splitter (b : Blk) (core : Nat) : Nat :=
  match b.accCtx with
  | some k => k / 8
  | none => core % 2

/-- A copy or COLL issued (R407 step 9): its token counts, its tiles fill or are read, LSEQ and the timeline mark
move; one with nothing to do ends at once, its raise coming with the writes it covers (R237, R411). -/
def State.issueCmd (s : State) (c : Cur) (b : Blk) (t : Thr) (i : Instr) (x : CpyX) (st : Option Nat) (a : CpyArgs)
    (fills : List (Nat × Nat)) (items : Nat) : State :=
  let id := s.nextId
  let k : Cmd :=
    { id := id, core := c.core, bctx := c.bctx, w := c.w, adm := b.adm, ctx := b.info.ctx, op := i, sd := a.sd, sa := a.sa,
      sb := a.sb, sv := a.sv, priv := t.privileged c.lanes, tok := if x.tok = 15 then none else some x.tok.toNat,
      tl := if x.tlv then some (x.tl.toNat, a.sv) else none, dt := if x.dt = 127 then none else some x.dt.toNat, st := st,
      pc := c.pc, lseq := t.lseq + 1, started := false, inFlight := false, done := 0, pos := 0,
      targets := fills.map fun f => f.1 * 1024 + f.2, poisonF := false, tagF := false, tagSite := none, drops := 0,
      fail := none, failAt := 0, finished := false, fault := none, engine := b.splitter c.core, watched := [], upto := id, opened := false }
  let s1 := s.note c.core (issuerOf c.bctx c.w) (lowestLane c.lanes) objNone false none none
  let s2 : State := { s1 with nextId := id + 1, cmds := s1.cmds ++ [k] }
  let s3 := fills.foldl (fun s f => s.modTile f.1 f.2 Tile.fillStart) s2
  let s4 := match st with
    | some n => s3.addReader c.core (b.tileIx n) id
    | none => s3
  let s5 := (s4.modThr c.core c.bctx c.w fun t =>
    { t.tlMark x.tlv x.tl a.sv with
      tokens := if x.tok = 15 then t.tokens else lmod x.tok.toNat (· + 1) t.tokens
      lseq := t.lseq + 1
      copyStall := false }).cpyrMark c i a.sd
  let s6 := s5.retire c c.lanes
  if items = 0 then s6.endCmd id else s6

/-- A copy or COLL up to its issue (R407); `st` is its source-tile field. -/
def copyWord (i : Instr) (w : UniW) (x : CpyX) (st : BitVec 7) (s : State) : Host.Outcome State Fault Refusal :=
  ctlWordOp i s
    (fun _ b _ => Gate.first
      [ Gate.unless (tileFieldIn b x.dt && tileFieldIn b st && tlInRange b x.tlv x.tl) .operandRange,
        uniOperandGate i w b,
        if x.tlv ∧ x.sv ≠ 0xFF then uniRegGate b x.sv.toNat else .go ])
    fun c b t =>
      let s0 := s.noteUnis c b (uniUnis i w ++ if x.tlv ∧ x.sv ≠ 0xFF ∧ x.sv ≠ 0 then [x.sv.toNat] else []) false
      let a : CpyArgs :=
        { sd := b.sreg w.sd.toNat, sa := srcU b w.sa w.lit, sb := srcU b w.sb w.lit, sv := srcU b x.sv w.lit }
      let named (f : BitVec 7) : Option Nat := if f = 127 then none else some f.toNat
      let desc (f : BitVec 7) : Option (BitVec 128) := (named f).map fun n => (s.tile c.core (b.tileIx n)).desc
      let d := (desc x.dt).getD 0
      let fills := s.fillEntries c.core b i (named x.dt)
      let srcSt := (named st).map fun n => (s.tile c.core (b.tileIx n)).st
      if s.kindling && usesPeers i then s.trapWord c b t .kindlingUnavailable c.lanes
      else if !cpyrInRange b i a.sd then s.trapWord c b t .operandRange c.lanes
      else if !copyGeom i a (desc x.dt) || !footOk i a b (desc x.dt) (desc st) (fills.map fun f => (s.tile f.1 f.2).desc) then
        s.trapWord c b t .copyGeometry c.lanes
      else match s.endsFault c b i a d with
        | some k => s.trapWord c b t k c.lanes
        | none =>
          if 2 ^ b.info.bpg ≤ castMask i then s.trapWord c b t .multicastTarget c.lanes
          else if (fills.any fun f => !(s.tile f.1 f.2).fillable) || srcSt == some 0 || srcSt == some 3 then
            s.trapWord c b t .tileState c.lanes
          else if !t.tlOrder x.tlv x.tl a.sv then s.trapWord c b t .timelineOrder c.lanes
          else if x.tok ≠ 15 ∧ 15 ≤ t.tokens.getD x.tok.toNat 0 then s.trapWord c b t .tokenOverflow c.lanes
          else if s.heldBack c.core c.bctx c.w b.adm c.lanes || s.queueFull c b.adm || !cpyrFull b i a.sd
              || !s.mayStart c.core (issuerOf c.bctx c.w) (lowestLane c.lanes) then s.stallCopy c
          else s0.issueCmd c b t i x (named st) a fills (copyItems i a d)

/-- CPY (R411). -/
def execCpy (w : UniW) (x : CpyX) (y : CpyY) (s : State) : Host.Outcome State Fault Refusal :=
  copyWord (.cpy w x y) w x y.st s
/-- CPYFILL (R412). -/
def execCpyfill (w : UniW) (x : CpyX) (y : CpyY) (s : State) : Host.Outcome State Fault Refusal :=
  copyWord (.cpyfill w x y) w x y.st s
/-- CPYM (R413). -/
def execCpym (w : UniW) (x : CpyX) (y : CpyY) (s : State) : Host.Outcome State Fault Refusal :=
  copyWord (.cpym w x y) w x y.st s
/-- CPYP (R414). -/
def execCpyp (w : UniW) (x : CpyX) (y : CpyY) (s : State) : Host.Outcome State Fault Refusal :=
  copyWord (.cpyp w x y) w x y.st s
/-- CPYX (R415). -/
def execCpyx (w : UniW) (x : CpyX) (y : CpyY) (s : State) : Host.Outcome State Fault Refusal :=
  copyWord (.cpyx w x y) w x y.st s
/-- CPYR (R416). -/
def execCpyr (w : UniW) (x : CpyX) (y : CpyY) (s : State) : Host.Outcome State Fault Refusal :=
  copyWord (.cpyr w x y) w x y.st s
/-- CPYMC (R417). -/
def execCpymc (w : UniW) (x : CpyX) (y : CpyY) (s : State) : Host.Outcome State Fault Refusal :=
  copyWord (.cpymc w x y) w x y.st s
/-- CPYG (R418). -/
def execCpyg (w : UniW) (x : CpyX) (y : CpyY) (s : State) : Host.Outcome State Fault Refusal :=
  copyWord (.cpyg w x y) w x y.st s
/-- CPYS (R418). -/
def execCpys (w : UniW) (x : CpyX) (y : CpyY) (s : State) : Host.Outcome State Fault Refusal :=
  copyWord (.cpys w x y) w x y.st s
/-- COLL (R422). -/
def execColl (w : UniW) (x : CpyX) (s : State) : Host.Outcome State Fault Refusal := copyWord (.coll w x) w x 127 s

/-- A class 6 instruction other than a copy or COLL counted on its stream's LSEQ (R148). -/
def State.countLseq (s : State) (c : Cur) : State := s.modThr c.core c.bctx c.w fun t => { t with lseq := t.lseq + 1 }

/-! ### STAGEW (R420) -/

/-- STAGEW (R420): waits until the stage counter is at least v. -/
def execStagew (w : UniW) (x : Word) (s : State) : Host.Outcome State Fault Refusal :=
  uniWordOp (.stagew w x) w s fun s0 c b _ =>
    let v := srcU b w.sa w.lit
    if b.stageCount < v.toNat then s.block c c.lanes (.stageWait v)
    else if s.heldBack c.core c.bctx c.w b.adm c.lanes || !s.mayStart c.core (issuerOf c.bctx c.w) (lowestLane c.lanes) then s.stall c
    else (((s0.note c.core (issuerOf c.bctx c.w) (lowestLane c.lanes) objNone false none (some 4)).countLseq c).retire c c.lanes)

/-! ### TSET (R419) -/

/-- A descriptor without its STATE field (R199). -/
def tileDesc (d : BitVec 128) : BitVec 128 := d &&& ~~~((7 : BitVec 128) <<< 100)

/-- The fault of writing a descriptor to tile `n`: one of the descriptor itself, or a tile that is not empty (R199, R201). -/
def State.tileRefuses (s : State) (c : Cur) (b : Blk) (n : Nat) (d : BitVec 128) : Option Cause :=
  match tileFault b.info.spadB b.info.scaleB (tileDesc d) with
  | some k => some k
  | none => if (s.tile c.core (b.tileIx n)).st ≠ 0 then some .tileState else none

/-- Whether neither an acquire nor the recorder holds the write of a descriptor (R126, R141, R232). -/
def State.mayWrite (s : State) (c : Cur) (b : Blk) : Bool :=
  !s.heldBack c.core c.bctx c.w b.adm c.lanes && s.mayStart c.core (issuerOf c.bctx c.w) (lowestLane c.lanes)

/-- The descriptor checked and written (R199, R201). -/
def State.writeTile (s : State) (c : Cur) (b : Blk) (t : Thr) (n : Nat) (rdy : Bool) (d : BitVec 128) : State :=
  let j := b.tileIx n
  match s.tileRefuses c b n d with
  | some k => s.trapWord c b t k c.lanes
  | none =>
    if !s.mayWrite c b then s.stall c
    else
      (((s.noteTile c j true).modTile c.core j fun e => { e with desc := tileDesc d, st := if rdy then 2 else e.st }).countLseq c).retire c
        c.lanes

/-- The form of TSET's read: one load of 16 bytes. -/
def tsetForm : MemForm := { kind := .load, ak := .read, bytes := 16 }

/-- The read of a stalled TSET. -/
def State.tsetReq (s : State) (c : Cur) (adm : Nat) : Option Req :=
  s.reqs.find? fun r =>
    r.core == c.core && r.bctx == c.bctx && r.w == c.w && r.adm == adm && r.kind == .load && r.dst == Dst.none && r.pc == c.pc

/-- A fault of TSET's read, precise in the issuing stream (R419). -/
def State.tsetFault (s : State) (c : Cur) (b : Blk) (t : Thr) (k : Cause) (va : DWord) (page : Option Nat) : State :=
  if k.isService then s.service c b t k c.lanes c.lanes va fun _ => page else s.trapWord c b t k c.lanes va

/-- TSET (R419).  The read of the memory form is a request whose reply the word waits for, as a stall. -/
def execTset (w : UniW) (x1 x2 : Word) (s : State) : Host.Outcome State Fault Refusal :=
  let n := (fld x1 0 6).toNat
  let rdy := x1.getLsbD 6
  ctlWordOp (.tset w x1 x2) s
    (fun _ b _ => Gate.first [Gate.unless (decide (n < b.info.tiles)) .operandRange, uniOperandGate (.tset w x1 x2) w b])
    fun c b t =>
      let a := srcU b w.sa w.lit
      if x1.getLsbD 7 then
        (if s.mayStart c.core (issuerOf c.bctx c.w) (lowestLane c.lanes) then
            s.noteUnis c b (uniUnis (.tset w x1 x2) w) false
          else s).writeTile c b t n rdy (zext 128 a ||| zext 128 (srcU b w.sb w.lit) <<< 64)
      else match s.tsetReq c b.adm with
        | some r =>
          let s1 := { s with reqs := s.reqs.filter fun q => q.id != r.id }
          let d : BitVec 128 := (r.got.head?).elim 0 fun g => g.2
          if r.stage ≠ .served then s.stall c
          else match r.err with
            | some k => s1.tsetFault c b t k a none
            | none =>
              if (s1.tileRefuses c b n d).isSome || s1.mayWrite c b then s1.writeTile c b t n rdy d else s.stall c
        | none =>
          let priv := t.privileged c.lanes
          match s.laneCheck c b (c.mmu b priv) tsetForm a with
          | .walk v => (s.startWalk (c.mmu b priv) v .read (c.site t)).stall c
          | .miss p => s.tsetFault c b t .translationMiss a (some p)
          | .fault k => s.tsetFault c b t k a none
          | .ok h o l =>
            if s.heldBack c.core c.bctx c.w b.adm c.lanes then s.stall c
            else
              let at' : DWord × Bool := match s.target c b tsetForm a with
                | .glob v p => (v, p)
                | _ => (a, false)
              let g : LaneGo := { lane := lowestLane c.lanes, va := a, gva := at'.1, h := h, a := o, l := l, param := at'.2 }
              let r := { reqOf c b t tsetForm priv s.nextId (fun _ => 0) (fun _ => 0) [g] with mask := c.lanes }
              if !s.roomFor c b.adm [r] then s.stall c
              else ((s.noteUnis c b (uniUnis (.tset w x1 x2) w) false).addReqs c b.adm 3 [r]).stall c

end Sys2Proof.Machine
end

