-- ==== Sys2Proof/Machine/Convert.lean ====
section
/-! DEFINITION. Conversion of values to bit planes with scales (R269, R270, R414) and the Morton order of CPYM (R413). -/

namespace Sys2Proof.Machine

/-! ### Exact elements (R270) -/

/-- An element at its exact value: `mant * 2 ^ exp` with a sign, or not finite. -/
structure Elt where
  finite : Bool
  neg : Bool
  mant : Nat
  exp : Int

/-- The floating format of an SFMT; 8 to 10 are integers (R414). -/
def sfmtFmt (f : Nat) : Option Fmt :=
  [some fp32, some bf16, some fp16, some e4m3, some e5m2, some e3m2, some e2m3, some e2m1].getD f none

/-- An element's bits at their exact value; an MX scale multiplies it, and 0xFF leaves it not finite (R270). -/
def eltOf (f x : Nat) (mx : Option Byte) : Elt :=
  match sfmtFmt f with
  | some g =>
    let (m, e) := g.parts x
    { finite := !(g.isNan x || g.isInf x || mx == some 0xFF), neg := g.signOf x, mant := m,
      exp := e + (match mx with
        | some b => (b.toNat : Int) - 127
        | none => 0) }
  | none =>
    let n := sfmtBits f
    let neg := decide (2 ^ (n - 1) ≤ x)
    { finite := true, neg := neg, mant := if neg then 2 ^ n - x else x, exp := 0 }

/-- `mant * 2 ^ k` rounded to the nearest integer, ties to even. -/
def rneShift (mant : Nat) (k : Int) : Nat :=
  if 0 ≤ k then mant * 2 ^ k.toNat
  else
    let d := 2 ^ (-k).toNat
    let q := mant / d
    let r := mant % d
    if d < 2 * r ∨ (2 * r = d ∧ q % 2 = 1) then q + 1 else q

/-- floor(log2) of an element's magnitude, above any value for none. -/
def eltLog (x : Elt) : Option Int := if x.mant = 0 then none else some ((Nat.log2 x.mant : Int) + x.exp)

/-- The largest floor(log2 |x|) of a block; `none` when every element is zero.  It is floor(log2 M) of R269. -/
def blockLog (l : List Elt) : Option Int :=
  l.foldl (fun m x => match m, eltLog x with
    | some a, some b => some (max a b)
    | none, b => b
    | a, none => a) none

/-- One K-block converted (R269, R270): its scale byte and the k-bit pattern of each element; `pf` is PFMT. -/
def convBlock (pf k : Nat) (l : List Elt) : Byte × List Nat :=
  let bad := l.any fun x => !x.finite
  if pf = 2 then (if bad then 0xFF else 127, l.map fun x => (!x.neg).toNat)
  else if bad then (0xFF, l.map fun _ => 0)
  else match blockLog l with
    | none => (0, l.map fun _ => 0)
    | some g =>
      let s0 : Int := if pf = 1 then g - (k - 1 : Nat) else g - ((k : Int) - 2)
      let e : Nat := (min (max (s0 + 127) 0) 254).toNat
      let s : Int := (e : Int) - 127
      (BitVec.ofNat 8 e, l.map fun x =>
        let q := rneShift x.mant (x.exp - s)
        if pf = 1 then (if x.neg then 0 else min q (2 ^ k - 1))
        else
          let c := min q (2 ^ (k - 1) - 1)
          if x.neg ∧ c ≠ 0 then 2 ^ k - c else c)

/-- The four bytes plane `p` holds of a K-block. -/
def planeBytes (qs : List Nat) (p : Nat) : List Byte :=
  leBytes 4 (((List.range 32).map fun i => (qs.getD i 0 / 2 ^ p % 2) * 2 ^ i).foldl (· + ·) 0)

/-- Where a converted K-block's bytes go: the planes, the scale (with the zero byte of a 64-row tile's column), at
offsets of the block's scratchpad (R200). -/
def blockWrites (d : BitVec 128) (i j : Nat) (c : Byte × List Nat) : List (Nat × List Byte) :=
  ((List.range (tPlanes d)).map fun p => (tPlaneByte d p i (32 * j), planeBytes c.2 p))
    ++ [(tScale0 d + 128 * j + i, [c.1])]
    ++ (if tRows d = 64 then [(tScale0 d + 128 * j + 64 + i, [0])] else [])

/-- The zero-block mask's byte for a K-block, and the bit in it (R200). -/
def maskPlace (d : BitVec 128) (i j : Nat) : Nat × Nat :=
  let n := i * (tCols d / 32) + j
  (tZoff d + n / 8, n % 8)

/-- A byte with one bit set or cleared. -/
def setBit (b : Byte) (n : Nat) (v : Bool) : Byte :=
  if v then b ||| BitVec.ofNat 8 (2 ^ n) else b &&& ~~~(BitVec.ofNat 8 (2 ^ n))

/-- Whether the mask marks a converted block (R414). -/
def blockZero (c : Byte × List Nat) : Bool := c.2.all (· == 0) && c.1 != 0xFF

/-! ### Morton order in two or three dimensions (R413) -/

/-- The coordinate and bit that each bit of a Morton index holds, lowest first. -/
def mortonBits (lx ly lz : Nat) : List (Nat × Nat) :=
  ((List.range 10).map fun j =>
    [(0, lx), (1, ly), (2, lz)].filterMap fun p => if j < p.2 then some (p.1, j) else none).flatten

/-- The Morton index of coordinates (x, y, z). -/
def mortonEnc (lx ly lz : Nat) (x : Nat × Nat × Nat) : Nat :=
  (mortonBits lx ly lz).zipIdx.foldl
    (fun n p => n + (if p.1.1 = 0 then x.1 else if p.1.1 = 1 then x.2.1 else x.2.2) / 2 ^ p.1.2 % 2 * 2 ^ p.2) 0

/-- The coordinates of a Morton index. -/
def mortonDec (lx ly lz n : Nat) : Nat × Nat × Nat :=
  let f (c : Nat) : Nat := (mortonBits lx ly lz).zipIdx.foldl
    (fun v p => if p.1.1 = c then v + n / 2 ^ p.2 % 2 * 2 ^ p.1.2 else v) 0
  (f 0, f 1, f 2)

end Sys2Proof.Machine
end

