-- ==== Sys2Proof/Machine/CopyRun.lean ====
section
/-! DEFINITION. Copies as their Splitter runs them (R43, R63, R64, R126, R149, R213 to R216, R235, R407 to R418): the reads
and writes of a segment, its admission and its completion. -/

namespace Sys2Proof.Machine

/-! ### The engine's view of a segment -/

/-- Why a segment stops before it has taken effect: a failure with the address it met, a walk to make, a fault without an answer, a read of
a peer's line to ask for, a wait for a writer list, an answer or a resource, or a wait at a FIFO bank. -/
inductive EStop where
  | fail (c : Cause) (va : DWord := 0)
  | walk (va : DWord) (kind : AccessKind)
  | miss (page : Nat)
  | ask (dev : BitVec 16) (va : DWord) (n : Nat)
  | hold
  | bank (push : Bool) (k : Nat)

/-- A failure at an address, where it has none of its own (R280). -/
def EStop.at (x : EStop) (va : DWord) : EStop :=
  match x with
  | .fail c a => .fail c (if a = 0 then va else a)
  | y => y

/-- What a segment works on: the machine, the command, the agent that runs it, its block, the bytes that the host's replies have brought,
whether an access of host memory or the capacity tier failed, what the codes find at the first line read, whether the unit's
sources are poisoned, whether the values written are undefined (R409), the lines written with their bytes and poison
(R43), the operations recorded, the watchpoints met, and where the copy's own source lies (R408): home, address and bytes. -/
structure Eng where
  s : State
  k : Cmd
  agent : Nat
  b : Blk
  img : List Byte
  err : Bool
  ecc : EccOutcome
  bad : Bool
  undef : Bool
  cover : List ((Home × Nat) × Nat × Bool)
  noted : List (Nat × Bool)
  hits : List (Nat × DWord)
  srcs : List (Home × Nat × Nat)

/-- The agent of the Splitter that runs a command (R124). -/
def Cmd.agent (k : Cmd) : Nat := splitterAgent (k.core / 8) k.engine

/-- The command as an issuer, for address checks. -/
def Cmd.cur (k : Cmd) : Cur :=
  { core := k.core, bctx := k.bctx, w := k.w, lanes := 1, hdrAt := 0, hdr := 0, pc := k.pc, next := k.pc, last := false,
    cls := 6, word := 0, ext := 0, rep := 0, reps := 1 }

/-- The die from which the agent's accesses start, as `dieRoute` numbers dies: a port's or a collective engine's Hearth die, the
core's die of a command, and Hearth die 0 for the control core (R7, R12). -/
def Eng.die (e : Eng) : Nat :=
  if 384 ≤ e.agent ∧ e.agent < 408 then hearthDie ((e.agent - 384) / 12)
  else if 320 ≤ e.agent ∧ e.agent < 328 then hearthDie ((e.agent - 320) / 4)
  else if e.agent = stokerAgent then hearthDie 0
  else coreDie e.k.core

/-- An operation of the segment recorded once (R125).  DESIGN CHOICE: R125 defines an operation by a word's lanes only; an engine's
operation is a line read, or a line written, once in a segment however often the segment touches it (log entry 47). -/
def Eng.note (e : Eng) (obj : Nat) (w : Bool) (a : Option Nat) : Eng :=
  if e.noted.contains (obj, w) then e
  else { e with s := e.s.note e.agent 0 0 obj w a none, noted := (obj, w) :: e.noted }

/-- The watchpoints an access of a copy matches, each once (R149). -/
def Eng.watch (e : Eng) (va : DWord) (n : Nat) : Eng :=
  if e.k.priv || e.undef then e
  else
    let a := va.toNat / 2 ^ 60 * 2 ^ 60 + va.toNat % 2 ^ 56
    let new := (e.s.watches e.k.ctx).filter fun p => p.2.covers 3 a n && p.2.inScope e.b e.k.w 32
      && !(e.k.watched.contains p.1) && !(e.hits.any fun h => h.1 == p.1)
    { e with hits := e.hits ++ new.map fun p => (p.1, va) }

/-- The translation of a command's engine: its cluster's, or for a collective that of the package. -/
def Cmd.mmu (k : Cmd) : Mmu := if k.core < 192 then engMmu k.core k.ctx k.priv else packageMmu k.ctx

/-- The place of a byte of an endpoint; a global endpoint never reaches a window.  The address is the translated one. -/
def Eng.place (e : Eng) (va : DWord) (write glob : Bool) : Except EStop (DWord × Home × Nat × Option Leaf) :=
  let f : MemForm :=
    { kind := if write then .store else .load, ak := if write then .write else .read, bytes := 1,
      space := if glob then 1 else 0, tagged := false }
  let v := match e.s.target e.k.cur e.b f va with
    | .glob x _ => x
    | _ => va
  match e.s.laneCheck e.k.cur e.b e.k.mmu f va with
  | .ok h a l => .ok (v, h, a, l)
  | .fault c => .error (.fail c)
  | .miss p => .error (.miss p)
  | .walk x => .error (.walk x (if write then .write else .read))

/-- A tag mismatch of a granule (R213). -/
def Eng.mismatch (e : Eng) (v : DWord) : Eng :=
  { e with k := { e.k with
      tagF := true
      tagSite := match e.k.tagSite with
        | some a => some a
        | none => some (v &&& ~~~0x1F) } }

/-- Whether a granule of memory mismatches on a tagged page; the control core's accesses are not checked (R104). -/
def Eng.tagBad (e : Eng) (l : Option Leaf) (a : Nat) (v : DWord) : Bool :=
  e.agent != stokerAgent && (l.elim false fun x => x.tagm == 1 || x.tagm == 2) && !isCapacity a && !e.s.tagMatches a v e.k.priv

/-- Whether a tag mismatch faults a peer's access at this device (R88, R211). -/
def Eng.peerTag (e : Eng) (l : Option Leaf) : Bool :=
  decide (384 ≤ e.agent) && decide (e.agent < 408) && l.elim false fun x => x.tagm == 1

/-- Bytes that the host's replies have brought; without them the segment waits. -/
def Eng.take (e : Eng) (n : Nat) : Except EStop (Eng × List Byte) :=
  if e.img.length < n then .error .hold else .ok ({ e with img := e.img.drop n }, e.img.take n)

/-- A message of an engine to a peer device, with its tag (R12, R16, R88, R411). -/
def Eng.peer (e : Eng) (dev : BitVec 16) (op : PeerOp) (va : DWord) (tag : Nat) : Except EStop Eng :=
  let line := untag va / 128
  let port := e.s.portFor dev line
  if e.s.kindling then .error (.fail .kindlingUnavailable)
  else if e.s.links.pendingMove.contains port then .error .hold
  else if dev == e.s.devid || !(e.s.links.ports.getD port VPort.reset).st == 1 then .error (.fail .fabricError va)
  else if !e.s.maySend port (vcOf op) || e.s.routeHeld e.die (hearthDie (port / 12)) line then .error .hold
  else .ok { e with s := e.s.sendMsg port dev e.k.ctx tag op }

/-- Bytes of one line read from a peer device: its answer, with its poison (R43), or a read still to be asked for. -/
def Eng.peerRead (e : Eng) (dev : BitVec 16) (va : DWord) (n : Nat) : Except EStop (Eng × List Byte) :=
  match e.k.asked.find? fun a => a.2 == va with
  | some a => match e.s.links.replies.find? fun r => r.tag == a.1 with
    | none => .error .hold
    | some r =>
      if r.fail then .error (.fail .fabricError va)
      else .ok ({ e with bad := e.bad || r.bad }, (r.data ++ List.replicate (n - r.data.length) 0).take n)
  | none => match e.peer dev (.copyRead va n) va (32 * e.s.nextId) with
    | .error x => .error x
    | .ok _ => .error (.ask dev va n)

/-- Bytes of one line written to a peer device, poisoned where their source was (R43); the answer is awaited. -/
def Eng.peerWrite (e : Eng) (dev : BitVec 16) (va : DWord) (bs : List Byte) : Except EStop Eng :=
  match e.peer dev (.copyWrite va e.bad bs) va (32 * e.s.nextId) with
  | .error x => .error x
  | .ok e1 => .ok { e1 with
      s := { e1.s with nextId := e1.s.nextId + 1 }
      k := { e1.k with poisonF := e1.k.poisonF || e1.bad, acks := e1.k.acks ++ [e.s.nextId] } }

/-- A read of a peer's line that a command has asked for (R16). -/
def State.askPeer (s : State) (k : Cmd) (dev : BitVec 16) (va : DWord) (n : Nat) : State :=
  (({ s with nextId := s.nextId + 1 } : State).sendMsg (s.portFor dev (untag va / 128)) dev k.ctx (32 * s.nextId)
    (.copyRead va n)).modCmd k.id fun k => { k with asked := k.asked ++ [(s.nextId, va)] }

/-- A segment's reads of peers are over: their answers are dropped. -/
def State.dropReplies (s : State) (k : Cmd) : State :=
  { s with links := { s.links with replies := s.links.replies.filter fun r => !(k.asked.any fun a => a.1 == r.tag) } }

/-- REUSE of a copy (R206, R406). -/
def copyReuse : Instr → Option (BitVec 2)
  | .cpy _ _ y | .cpyfill _ _ y | .cpym _ _ y | .cpyp _ _ y | .cpyx _ _ y | .cpyr _ _ y | .cpymc _ _ y | .cpyg _ _ y | .cpys _ _ y =>
    some y.reuse
  | _ => none

/-- A line of memory that an engine reads (R204, R206): a copy brings it into its cluster's cache with its REUSE, unless the page is
UC; any other agent only shares it. -/
def Eng.cached (e : Eng) (l : Option Leaf) (line : Nat) (s : State) : State :=
  match copyReuse e.k.op with
  | some r =>
    if decide (e.k.core < 192) && !(l.elim false fun x => x.uc) then s.cacheRead (e.k.core / 8) line r
    else s.shareLine line fun _ => false
  | none => s.shareLine line fun _ => false

/-- What the code of a cluster SRAM bank finds at a line that the engine reads first (R50, R53); data that it cannot correct count as
poisoned (DEDUCED; log entry 47). -/
def Eng.sram (e : Eng) (bank line : Nat) : Eng :=
  { e with s := e.s.sramEcc bank line e.ecc, bad := e.bad || eccLost e.ecc, ecc := .clean }

/-- Bytes within one granule read from a place. -/
def Eng.readAt (e : Eng) (v : DWord) (n : Nat) (h : Home) (a : Nat) (l : Option Leaf) : Except EStop (Eng × List Byte) :=
  match h with
  | .mem =>
    let line := lineOf a
    if e.err && isCapacity a then .error (.fail .capacityTierError)
    else if e.s.lineHeld e.die line then .error .hold
    else
      let e1 := { e.note (objLine line) false (some (line * 128)) with ecc := .clean }
      let s0 := e1.s.homeEcc line e.ecc
      let s1 := (if e.noted.any fun x => x.1 == objLine line then s0
        else e.cached l line (s0.capTouch line e.k.id true false (e.s.arg.reply == .poisonRefused) e.ecc)).gather line
      let e2 := { e1 with s := s1, bad := e1.bad || s1.poisoned line }
      if e2.tagBad l a v && e2.peerTag l then .error (.fail .tagMismatch)
      else if e2.tagBad l a v then
        .ok (e2.mismatch v, if l.elim false (fun x => x.tagm == 1) then List.replicate n 0 else s1.peek a n)
      else .ok (e2, s1.peek a n)
  | .spad adm => match e.s.blkOf adm with
    | none => .error (.fail .scratchRange)
    | some (key, b) =>
      let e1 := (e.note (objSpad adm (a / 128)) false none).sram (bankKey (key / 128) (b.bankOf (a / 128))) (a / 128)
      .ok ({ e1 with bad := e1.bad || b.spadPoison.contains (a / 128) }, b.spadRead a n)
  | .host link =>
    if e.err then .error (.fail .ioError)
    else if e.s.linkDown (28 + link) || e.s.routeHeld e.die (hearthDie link) (a / 128) then .error .hold
    else if e.s.holdsHost link (a / 128) then
      .ok ({ e with s := e.s.shareLine (hostKey link (a / 128)) fun _ => false }, e.s.homeRead h a n)
    else { e with s := e.s.emit (.hostRead link a n e.k.id) }.take n
  | .peer dev => e.peerRead dev v n
  | _ => .error (.fail .copyGeometry)

/-- Bytes read from an endpoint, granule by granule of the place that its addresses lead to, also through the parameter window (R190).
`fuel` is at least the number of bytes. -/
def Eng.readN (glob : Bool) : Nat → Eng → DWord → Nat → Except EStop (Eng × List Byte)
  | 0, e, _, _ => .ok (e, [])
  | _, e, _, 0 => .ok (e, [])
  | fuel + 1, e, va, n =>
    match e.place va false glob with
    | .error x => .error (x.at va)
    | .ok (v, h, a, l) =>
      let k := min n (32 - a % 32)
      match (e.watch va k).readAt v k h a l with
      | .error x => .error (x.at va)
      | .ok (e1, bs) => match Eng.readN glob fuel e1 (va + BitVec.ofNat 64 k) (n - k) with
        | .error x => .error x
        | .ok (e2, rest) => .ok (e2, bs ++ rest)

/-- Source bytes of a copy; where the values are undefined, free bytes (R409). -/
def Eng.src (e : Eng) (va : DWord) (n : Nat) (base : DWord) : Except EStop (Eng × List Byte) :=
  if e.undef then .ok ({ e with s := e.s.bump }, (List.range n).map fun i => Config.freeByte e.s.fresh i)
  else Eng.readN (!isWindow base) n e va n

/-- The bytes of a line that a write covers, noted with the poison of what it depends on (R43). -/
def Eng.covers (e : Eng) (h : Home) (a n : Nat) : Eng :=
  let bits := (2 ^ n - 1) * 2 ^ (a % 128)
  let key := (h, a / 128)
  if e.cover.any fun c => c.1 == key then
    { e with cover := e.cover.map fun c => if c.1 = key then (c.1, c.2.1 ||| bits, c.2.2 || e.bad) else c }
  else { e with cover := e.cover ++ [(key, bits, e.bad)] }

/-- The bytes a copy leaves at a place: those that lie over its own source are undefined (R5, R408). -/
def Eng.freed (e : Eng) (h : Home) (a : Nat) (bs : List Byte) : List Byte :=
  if e.srcs.isEmpty then bs
  else bs.mapIdx fun i x =>
    if e.srcs.any fun r => r.1 == h && decide (r.2.1 ≤ a + i) && decide (a + i < r.2.1 + r.2.2) then
      Config.freeByte e.s.fresh (a + i) else x

/-- Bytes that a failed copy leaves undefined (R5, R409): they alone change, in the memory of the device. -/
def Eng.unset (e : Eng) (h : Home) (a : Nat) (bs : List Byte) : Eng :=
  match h with
  | .mem => { e with s := { e.s with mem := { e.s.mem with bytes := writeBytes e.s.mem.bytes a bs } } }
  | .spad adm => match e.s.blkOf adm with
    | none => e
    | some (key, b) => { e with s := { e.s with blks := nput key (b.spadWrite a bs) e.s.blks } }
  | _ => e

/-- Bytes within one granule written to a place.  Only a command of a stream marks lines unpublished (R243). -/
def Eng.writeAt (e : Eng) (v : DWord) (data : List Byte) (h : Home) (a : Nat) (l : Option Leaf) : Except EStop Eng :=
  let bs := e.freed h a data
  if e.undef then .ok (e.unset h a data)
  else match h with
  | .mem =>
    let line := lineOf a
    let pub := (l.elim false fun x => x.pub) && decide (e.k.core < 192)
    let writer := writerKey e.k.adm e.k.w
    if e.err && isCapacity a then .error (.fail .capacityTierError)
    else if e.s.lineHeld e.die line || (pub && !e.s.writerRoom line writer) then .error .hold
    else
      let bad := e.tagBad l a v
      let e1 := if bad then e.mismatch v else e
      if bad && e.peerTag l then .error (.fail .tagMismatch)
      else if bad && l.elim false (fun x => x.tagm == 1) then .ok e1
      else
        let e2 := e1.note (objLine line) true (some (line * 128))
        let s1 := (e2.s.capTouch line e.k.id false true (e.s.arg.reply == .poisonRefused) .clean).gather line
        let s2 := if pub then s1.markWriter line writer else s1
        let s3 := s2.poke a bs
        .ok ({ e2 with s := s3.dropHolders line fun _ => false }.covers
          .mem a bs.length)
  | .spad adm => match e.s.blkOf adm with
    | none => .error (.fail .scratchRange)
    | some (key, b) =>
      let e1 := e.note (objSpad adm (a / 128)) true none
      .ok ({ e1 with s := { e1.s with blks := nput key (b.spadWrite a bs) e1.s.blks } }.covers (.spad adm) a bs.length)
  | .host link =>
    if e.err then .error (.fail .ioError)
    else if e.s.linkDown (28 + link) || e.s.routeHeld e.die (hearthDie link) (a / 128) then .error .hold
    else
      let e1 := { e with k := { e.k with poisonF := e.k.poisonF || e.bad } }
      if e.s.holdsHost link (a / 128) && !e.bad then .ok { e1 with s := (e.s.homeWrite h a bs).hostGone link (a / 128) true }
      else .ok { e1 with s := e.s.emit (.hostWrite link a e.bad bs) }
  | .peer dev => e.peerWrite dev v bs
  | _ => .error (.fail .copyGeometry)

/-- Bytes written to an endpoint, granule by granule. -/
def Eng.writeN (glob : Bool) : Nat → Eng → DWord → List Byte → Except EStop Eng
  | 0, e, _, _ => .ok e
  | _, e, _, [] => .ok e
  | fuel + 1, e, va, bs =>
    let k := min bs.length (32 - va.toNat % 32)
    match e.place va true glob with
    | .error x => .error (x.at va)
    | .ok (v, h, a, l) => match (e.watch va k).writeAt v (bs.take k) h a l with
      | .error x => .error (x.at va)
      | .ok e1 => Eng.writeN glob fuel e1 (va + BitVec.ofNat 64 k) (bs.drop k)

/-- Destination bytes of a copy. -/
def Eng.dst (e : Eng) (va : DWord) (bs : List Byte) (base : DWord) : Except EStop Eng :=
  Eng.writeN (!isWindow base) bs.length e va bs

/-- Bytes written to a block's scratchpad by offset.  For the watchpoints of the launching block the offset names its scratchpad
window, also where a multicast writes other members (R149, DEDUCED; log entry 41). -/
def Eng.spad (e : Eng) (adm o : Nat) (bs : List Byte) : Except EStop Eng :=
  match bs with
  | [] => .ok e
  | _ => (List.range ((o + bs.length - 1) / 128 - o / 128 + 1)).foldlM
    (fun e i =>
      let lo := max o (128 * (o / 128 + i))
      let hi := min (o + bs.length) (128 * (o / 128 + i + 1))
      (e.watch (BitVec.ofNat 64 (0xF0F0000000000000 + lo)) (hi - lo)).writeAt 0 ((bs.drop (lo - o)).take (hi - lo)) (.spad adm) lo
        none) e

/-- Pieces of a range within one line each: offset and length. -/
def linePieces (va : DWord) : Nat → Nat → Nat → List (Nat × Nat)
  | 0, _, _ => []
  | _, _, 0 => []
  | fuel + 1, off, n =>
    let k := min n (128 - (va.toNat + off) % 128)
    (off, k) :: linePieces va fuel (off + k) (n - k)

/-- Bytes read from a peer endpoint, line by line (R16). -/
def Eng.peerSrc (e : Eng) (dev : BitVec 16) (va : DWord) (n : Nat) : Except EStop (Eng × List Byte) :=
  (linePieces va n 0 n).foldlM
    (fun x p => do
      let (e1, bs) ← x.1.peerRead dev (va + BitVec.ofNat 64 p.1) p.2
      return (e1, x.2 ++ bs)) (e, [])

/-- Bytes written to a peer endpoint, line by line (R16). -/
def Eng.peerDst (e : Eng) (dev : BitVec 16) (va : DWord) (bs : List Byte) : Except EStop Eng :=
  (linePieces va bs.length 0 bs.length).foldlM
    (fun e p => e.peerWrite dev (va + BitVec.ofNat 64 p.1) ((bs.drop p.1).take p.2)) e

/-- Whether an endpoint's memory is off the device (R215). -/
def Eng.away (e : Eng) (va : DWord) (write peer glob : Bool) : Bool :=
  peer || (match e.place va write glob with
    | .ok (_, .host _, _, _) | .ok (_, .peer _, _, _) => true
    | _ => false)

/-! ### Units: what one item of a copy reads and writes -/

/-- Bytes up to the end of the destination line, at most `room`. -/
def lineStep (va : DWord) (room : Nat) : Nat := min room (128 - va.toNat % 128)

/-- DEVID of a CPY (R411). -/
def cpyDev (y : CpyY) : BitVec 16 := fld y.rest 2 16

/-- One entry popped from a FIFO bank for a copy (R198). -/
def Eng.pop (e : Eng) (va : DWord) : Except EStop (Eng × List Byte) :=
  let k := bankKey (e.k.core / 8) ((fld va 20 5).toNat)
  match e.s.fifoFault { kind := .load, ak := .read, bytes := 4 } e.k.ctx k with
  | some c => .error (.fail c va)
  | none =>
    let e1 := { e with s := (e.s.leaveWait false k e.k.id).note e.agent 0 0 (objFifo (k / 32) (k % 32)) true none none }.watch va 128 |>.sram k 0
    if !e.s.mayMove false k e.k.id then .error (.bank false k)
    else match e1.s.fifoPop k with
    | (_, none) => .error .hold
    | (s1, some x) => .ok ({ e1 with s := s1, bad := e1.bad || x.poisoned }, (x.data.map fun w => leBytes 4 w.toNat).flatten)

/-- One entry pushed to a FIFO bank by a copy (R198); a poisoned source makes a poisoned entry (R43). -/
def Eng.push (e : Eng) (va : DWord) (bs : List Byte) : Except EStop Eng :=
  let k := bankKey (e.k.core / 8) ((fld va 20 5).toNat)
  match e.s.fifoFault { kind := .store, ak := .write, bytes := 4 } e.k.ctx k with
  | some c => .error (.fail c va)
  | none =>
    if e.undef then .ok e
    else if !e.s.mayMove true k e.k.id then .error (.bank true k)
    else
      let x : FifoEntry := { data := (List.range 32).map fun i => BitVec.ofNat 32 (leNat ((bs.drop (4 * i)).take 4)), poisoned := e.bad }
      let e1 := { e with s := (e.s.leaveWait true k e.k.id).note e.agent 0 0 (objFifo (k / 32) (k % 32)) true none none }.watch va 128
      .ok { e1 with s := e1.s.fifoPush k x, k := { e1.k with poisonF := e1.k.poisonF || e.bad } }

/-- CPY (R411): up to a destination line, or one FIFO entry.  The second component counts the bytes done. -/
def Eng.cpyUnit (e : Eng) (y : CpyY) (n room : Nat) : Except EStop (Eng × Nat) :=
  let off := BitVec.ofNat 64 n
  let sf := inFifoWindow e.k.sa && !y.rest.getLsbD 0
  let df := inFifoWindow e.k.sd && !y.rest.getLsbD 1
  let k := if sf || df then min room 128 else lineStep (e.k.sd + off) room
  let sPeer := y.rest.getLsbD 0
  let dPeer := y.rest.getLsbD 1
  if !e.undef && !sf && !df && e.away (e.k.sa + off) false sPeer (!isWindow e.k.sa)
      && e.away (e.k.sd + off) true dPeer (!isWindow e.k.sd) then .error (.fail .copyGeometry)
  else do
    let (e1, bs) ←
      if sf then (if e.undef then .ok (e, List.replicate k 0) else e.pop e.k.sa)
      else if sPeer && !e.undef then
        (e.watch (e.k.sa + off) k).peerSrc (cpyDev y) (e.k.sa + off) k
      else e.src (e.k.sa + off) k e.k.sa
    let e2 ←
      if df then e1.push e.k.sd bs
      else if dPeer then
        (if e.undef then .ok e1 else (e1.watch (e.k.sd + off) k).peerDst (cpyDev y) (e.k.sd + off) bs)
      else e1.dst (e.k.sd + off) bs e.k.sd
    return (e2, k)

/-- CPYFILL (R412). -/
def Eng.fillUnit (e : Eng) (y : CpyY) (n room : Nat) : Except EStop (Eng × Nat) :=
  let va := e.k.sd + BitVec.ofNat 64 n
  let k := lineStep va room
  let pw := 2 ^ (fld y.rest 0 2).toNat
  let pat := leBytes 8 e.k.sa.toNat
  if !e.undef && e.away va true false (!isWindow e.k.sd) then .error (.fail .copyGeometry)
  else do
    let bs : List Byte := (List.range k).map fun i => if e.undef then Config.freeByte e.s.fresh i else pat.getD ((n + i) % pw) 0
    return (← { e with s := if e.undef then e.s.bump else e.s }.dst va bs e.k.sd, k)

/-- An element of a copy that moves elements: where it comes from and where it goes. -/
structure Elem where
  src : DWord
  dst : DWord
  size : Nat

/-- What an item of a copy writes at a place of its destination: bytes, or one bit of a byte; and whether a source of it is poisoned. -/
structure Put where
  loc : Nat
  bytes : List Byte
  bit : Option (Nat × Bool) := none
  bad : Bool

/-- The part of what an item writes that lies in a line. -/
def Put.within (p : Put) (line : Nat) : Option Put :=
  let lo := max p.loc (128 * line)
  let hi := min (p.loc + p.bytes.length) (128 * line + 128)
  if hi ≤ lo then none else some { p with loc := lo, bytes := (p.bytes.drop (lo - p.loc)).take (hi - lo) }

/-- A number placed after those whose key is not above its own. -/
def insertElem (key : Nat → Nat) (x : Nat) : List Nat → List Nat
  | [] => [x]
  | y :: t => if key x < key y then x :: y :: t else y :: insertElem key x t

/-- Whether bytes of a place lie in a line. -/
def meetsLine (line : Nat) (p : Nat × Nat) : Bool := decide (p.1 / 128 ≤ line) && decide (128 * line < p.1 + p.2)

/-- The destination lines of items `lo` to `hi - 1`, whose places `ext` gives, in ascending order. -/
def destLines (ext : Nat → List (Nat × Nat)) (lo hi : Nat) : List Nat :=
  (((List.range (hi - lo)).map fun i => (ext (lo + i)).map fun p =>
    (List.range ((p.1 % 128 + p.2 + 127) / 128)).map (p.1 / 128 + ·)).flatten.flatten.eraseDups).foldl
    (fun l x => insertElem id x l) []

/-- Items `lo` to `hi - 1` of a segment moved line by line of their destination, in ascending order, each line's source reads before its
write (R126).  `ext` gives the places an item writes, and `get` reads what it writes there. -/
def Eng.linesUnit (e : Eng) (ext : Nat → List (Nat × Nat)) (get : Eng → Nat → Except EStop (Eng × List Put))
    (put : Eng → Put → Except EStop Eng) (lo hi : Nat) : Except EStop (Eng × Nat) := do
  let (e1, _, _) ← (destLines ext lo hi).foldlM
    (fun (x : Eng × Nat × List Put) line => do
      let upto := (List.range (hi - lo)).foldl (fun m i => if (ext (lo + i)).any (meetsLine line) then lo + i + 1 else m) x.2.1
      let (e1, ps) ← (List.range (upto - x.2.1)).foldlM
        (fun (y : Eng × List Put) i => do
          let (e1, qs) ← get { y.1 with bad := false } (x.2.1 + i)
          return (e1, y.2 ++ qs)) (x.1, x.2.2)
      let e2 ← (ps.filterMap fun p => p.within line).foldlM (fun e p => put { e with bad := p.bad } p) e1
      return (e2, max x.2.1 upto, ps)) (e, lo, ([] : List Put))
  return (e1, hi - lo)

/-- Elements moved: `ready` is the engine after the reads of the element's own index, if it has one. -/
def Eng.elemsUnit (e : Eng) (ready : Eng → Nat → Except EStop Eng) (el : Nat → Elem) (n room : Nat) : Except EStop (Eng × Nat) :=
  e.linesUnit (fun m => [((el m).dst.toNat, (el m).size)])
    (fun e m => do
      let e0 ← ready e m
      if !e.undef && e0.away (el m).src false false (!isWindow e.k.sa) && e0.away (el m).dst true false (!isWindow e.k.sd) then
        .error (.fail .copyGeometry)
      else
        let (e1, bs) ← e0.src (el m).src (el m).size e.k.sa
        return (e1, [{ loc := (el m).dst.toNat, bytes := bs, bad := e1.bad }]))
    (fun e p => e.dst (BitVec.ofNat 64 p.loc) p.bytes e.k.sd) n (n + room)

/-- The `n`-th element of a CPYM in destination order (R413). -/
def mortonElem (k : Cmd) (y : CpyY) (n : Nat) : Elem :=
  let (lx, ly, lz, es, p) := cpymGeom k.sb
  let size := 2 ^ es
  let back := y.rest.getLsbD 0
  let x := if back then (n % 2 ^ lx, n / 2 ^ lx % 2 ^ ly, n / 2 ^ (lx + ly)) else mortonDec lx ly lz n
  let lin := BitVec.ofNat 64 (p * (x.2.1 + 2 ^ ly * x.2.2) + x.1 * size)
  let mor := BitVec.ofNat 64 (mortonEnc lx ly lz x * size)
  { src := k.sa + (if back then mor else lin), dst := k.sd + (if back then lin else mor), size := size }

/-- CPYM (R413). -/
def Eng.mortonUnit (e : Eng) (y : CpyY) (n room : Nat) : Except EStop (Eng × Nat) :=
  e.elemsUnit (fun e _ => .ok e) (mortonElem e.k y) n room

/-- Where the `n`-th K-block of the plane tile DT has its bytes: planes, scale and, where `zm`, the byte of its mask bit (R200, R414). -/
def blockExt (d : BitVec 128) (zm : Bool) (n : Nat) : List (Nat × Nat) :=
  let i := n / (tCols d / 32)
  let j := n % (tCols d / 32)
  ((blockWrites d i j (0, [])).map fun p => (p.1, p.2.length)) ++ (if zm then [((maskPlace d i j).1, 1)] else [])

/-- What a converted K-block writes into the plane tile DT (R200, R414). -/
def Eng.blockPuts (e : Eng) (d : BitVec 128) (n : Nat) (zm : Bool) (c : Byte × List Nat) : List Put :=
  let i := n / (tCols d / 32)
  let j := n % (tCols d / 32)
  let free (bs : List Byte) : List Byte := if e.undef then bs.mapIdx fun i _ => Config.freeByte e.s.fresh (n * 4 + i) else bs
  ((blockWrites d i j c).map fun p => { loc := p.1, bytes := free p.2, bad := e.bad })
    ++ (if zm then
      [{ loc := (maskPlace d i j).1, bytes := [0], bad := e.bad
         bit := some ((maskPlace d i j).2, if e.undef then (Config.freeByte e.s.fresh n).getLsbD 0 else blockZero c) }] else [])

/-- A piece of a K-block written into its block's scratchpad. -/
def Eng.padPut (e : Eng) (p : Put) : Except EStop Eng :=
  match p.bit with
  | none => e.spad e.k.adm p.loc p.bytes
  | some (i, v) => match e.s.blkOf e.k.adm with
    | none => .error (.fail .scratchRange)
    | some (_, b) => e.spad e.k.adm p.loc [setBit (b.spadByte p.loc) i v]

/-- The 32 elements of a K-block from their packed bytes (R253). -/
def blockElts (f : Nat) (bs : List Byte) (mx : Option Byte) : List Elt :=
  let v := leNat bs
  (List.range 32).map fun i => eltOf f (v / 2 ^ (sfmtBits f * i) % 2 ^ sfmtBits f) mx

/-- CPYP (R414): what the `n`-th K-block writes. -/
def Eng.planeGet (y : CpyY) (d : BitVec 128) (e : Eng) (n : Nat) : Except EStop (Eng × List Put) := do
  let f := (fld y.rest 0 4).toNat
  let i := n / (tCols d / 32)
  let j := n % (tCols d / 32)
  let k := 4 * sfmtBits f
  let (e1, bs) ← e.src (e.k.sa + BitVec.ofNat 64 (i * cpypPitch y e.k.sb d + j * k)) k e.k.sa
  let (e2, mx) ←
    if y.rest.getLsbD 4 then do
      let (e2, m) ← e1.src (e.k.sd + BitVec.ofNat 64 n) 1 e.k.sd
      pure (e2, m.head?)
    else pure (e1, none)
  return (e2, e2.blockPuts d n (y.rest.getLsbD 5) (convBlock (tPfmt d) (tPlanes d) (blockElts f bs mx)))

/-- CPYP (R414). -/
def Eng.planeUnit (e : Eng) (y : CpyY) (d : BitVec 128) (n room : Nat) : Except EStop (Eng × Nat) :=
  e.linesUnit (blockExt d (y.rest.getLsbD 5)) (Eng.planeGet y d) Eng.padPut n (n + room)

/-- CPYX (R415): what the `n`-th group writes; groups are read in order. -/
def Eng.expandGet (y : CpyY) (d : BitVec 128) (e : Eng) (n : Nat) : Except EStop (Eng × List Put) := do
  let f := (fld y.rest 1 4).toNat
  let size := sfmtBits f / 8
  let at' := e.k.sa + BitVec.ofNat 64 e.k.pos
  let to' := e.k.sd + BitVec.ofNat 64 (n * 32 * size)
  let (e1, bm) ← e.src at' 4 e.k.sa
  let bits := leNat bm
  let have' := ((List.range 32).filter fun i => bits / 2 ^ i % 2 == 1)
  if !e.undef && !y.rest.getLsbD 0 && e1.away at' false false true && e1.away to' true false (!isWindow e.k.sd) then
    (.error (.fail .copyGeometry) : Except EStop PUnit)
  let len := if e.undef then 0 else have'.length * size
  let (e2, data) ← e1.src (at' + 4) len e.k.sa
  let elems := (List.range 32).map fun i =>
    if e.undef then Config.freeByte e.s.fresh i :: (List.range (size - 1)).map fun j => Config.freeByte e.s.fresh (32 + i * 4 + j)
    else if bits / 2 ^ i % 2 = 1 then (data.drop ((have'.filter (· < i)).length * size)).take size
    else List.replicate size 0
  let e3 := { e2 with k := { e2.k with pos := e2.k.pos + 4 + (len + 3) / 4 * 4 } }
  if y.rest.getLsbD 0 then
    return (e3, e3.blockPuts d n (y.rest.getLsbD 5) (convBlock (tPfmt d) (tPlanes d) (blockElts f elems.flatten none)))
  else return (e3, [{ loc := to'.toNat, bytes := elems.flatten, bad := e3.bad }])

/-- CPYX (R415). -/
def Eng.expandUnit (e : Eng) (y : CpyY) (d : BitVec 128) (n room : Nat) : Except EStop (Eng × Nat) :=
  let size := sfmtBits (fld y.rest 1 4).toNat / 8
  if y.rest.getLsbD 0 then e.linesUnit (blockExt d (y.rest.getLsbD 5)) (Eng.expandGet y d) Eng.padPut n (n + room)
  else e.linesUnit (fun m => [((e.k.sd + BitVec.ofNat 64 (m * 32 * size)).toNat, 32 * size)]) (Eng.expandGet y d)
    (fun e p => e.dst (BitVec.ofNat 64 p.loc) p.bytes e.k.sd) n (n + room)

/-- CPYR (R416): the `n`-th register; in a parked block it lands in the image (R293). -/
def Eng.regUnit (e : Eng) (n : Nat) : Except EStop (Eng × Nat) := do
  match cpyrRegs e.k.op e.k.sd with
  | none => return (e, 1)
  | some (w, d, _) =>
    let r := d + n
    let e0 := { e with bad := false }
    let (e1, bs) ← e0.src (e.k.sa + BitVec.ofNat 64 (128 * n)) 128 e.k.sa
    match e1.s.thr? e.k.core e.k.bctx w with
    | none => return (e1, 1)
    | some t =>
      if t.exited then return ({ e1 with k := { e1.k with drops := 1 } }, 1)
      else
        let word (l : Nat) : Word :=
          if e1.bad || e.undef then Config.freeWord e1.s.fresh r l else BitVec.ofNat 32 (leNat ((bs.drop (4 * l)).take 4))
        let waits := t.lanes.any fun l => l.stat == .blocked (.emptyReg false r)
        let s1 := (e1.s.bump.modThr e.k.core e.k.bctx w fun t => (t.putRow r 0xFFFFFFFF word).fill [r]).modBlk e.k.core e.k.bctx
          fun b => if waits then { b with tokenHolder := e.k.w, tokenEdge := 3 } else b
        let parked := match s1.blk? e.k.core e.k.bctx with
          | some b => b.parkedNow
          | none => false
        let s2 := if !parked then s1 else
          ((s1.put (imageBase e.k.core e.k.bctx + e.b.info.imgRow w r) ((List.range 32).map fun l => leBytes 4 (word l).toNat).flatten).put
            (imageBase e.k.core e.k.bctx + 0x100 + 0x800 * w + 0x430)
            (bitBytes 16 fun x => x == r || !t.isEmpty x))
        return ({ e1 with
          s := s2
          k := { e1.k with
            poisonF := e1.k.poisonF || e1.bad
            fail := if e1.bad && e1.k.fail.isNone then some .engineAbort else e1.k.fail } }, 1)

/-- CPYMC (R417): the same bytes into every named member that has not exited. -/
def Eng.castUnit (e : Eng) (n room : Nat) : Except EStop (Eng × Nat) := do
  let o := e.k.sd.toNat + n
  let k := min room (128 - o % 128)
  let (e1, bs) ← e.src (e.k.sa + BitVec.ofNat 64 n) k e.k.sa
  let ms := e1.s.castMembers e.b (castMask e.k.op)
  let e2 ← ms.foldlM (fun e m => e.spad m.2.2.adm o bs) e1
  let named := ((List.range 8).filter fun r => castMask e.k.op / 2 ^ r % 2 == 1).length
  return ({ e2 with k := { e2.k with drops := if e.undef then e2.k.drops else max e2.k.drops (named - ms.length) } }, k)

/-- The `m`-th index of an index list, as the segment reads it. -/
def Eng.indexAt (e : Eng) (y : CpyY) (m : Nat) : Nat :=
  match Eng.readN (!isWindow e.k.sb) (cpyIndex y) e (e.k.sb + BitVec.ofNat 64 (m * cpyIndex y)) (cpyIndex y) with
  | .ok (_, bs) => leNat bs
  | .error _ => 0

/-- The `m`-th element of a CPYG or CPYS (R418). -/
def Eng.indexElem (e : Eng) (y : CpyY) (scatter : Bool) (m : Nat) : Elem :=
  let size := cpyElem y
  let ix := BitVec.ofNat 64 (e.indexAt y m * size)
  let lin := BitVec.ofNat 64 (m * size)
  { src := e.k.sa + (if scatter then lin else ix), dst := e.k.sd + (if scatter then ix else lin), size := size }

/-- The element numbers of a segment in ascending order of destination, equal ones in ascending order of number (R126, R418). -/
def Eng.scatterOrder (e : Eng) (y : CpyY) (lo hi : Nat) : List Nat :=
  let key (m : Nat) : Nat := (e.indexElem y true m).dst.toNat
  ((List.range (hi - lo)).map (lo + ·)).foldl (fun l m => insertElem key m l) []

/-- CPYG and CPYS (R418), in a segment that starts at item `lo`. -/
def Eng.indexUnit (e : Eng) (y : CpyY) (scatter : Bool) (lo n room : Nat) : Except EStop (Eng × Nat) :=
  let order := if scatter then e.scatterOrder y lo (n + room) else []
  let num (m : Nat) : Nat := if scatter then order.getD (m - lo) m else m
  e.elemsUnit
    (fun e m => (Eng.readN (!isWindow e.k.sb) (cpyIndex y) e (e.k.sb + BitVec.ofNat 64 (num m * cpyIndex y)) (cpyIndex y)).map (·.1))
    (fun m => e.indexElem y scatter (num m)) n room

/-- The tile a command names as its destination. -/
def State.cmdTile (s : State) (k : Cmd) (b : Blk) : BitVec 128 :=
  match k.dt with
  | some n => (s.tile k.core (b.tileIx n)).desc
  | none => 0

/-- Destination bytes of one item. -/
def Cmd.itemBytes (k : Cmd) (d : BitVec 128) : Nat :=
  match k.op with
  | .cpym _ _ _ => 2 ^ (fld k.sb 12 2).toNat
  | .cpyp _ _ _ => 4 * tPlanes d + 1
  | .cpyx _ _ y => if y.rest.getLsbD 0 then 4 * tPlanes d + 1 else 4 * sfmtBits (fld y.rest 1 4).toNat
  | .cpyr _ _ _ => 128
  | .cpyg _ _ y | .cpys _ _ y => cpyElem y
  | _ => 1

/-- Items of a whole segment: at most 64 KiB of destination (R408). -/
def Cmd.perSeg (k : Cmd) (d : BitVec 128) : Nat := max 1 (65536 / k.itemBytes d)

/-- The first item of a command's current segment. -/
def Cmd.segStart (k : Cmd) (d : BitVec 128) : Nat := k.done / k.perSeg d * k.perSeg d

/-- One unit of a command at item `n`, with at most `room` items left in the segment. -/
def Eng.unit (e0 : Eng) (n room : Nat) : Except EStop (Eng × Nat) :=
  let e := { e0 with bad := false }
  let d := e.s.cmdTile e.k e.b
  match e.k.op with
  | .cpy _ _ y => e.cpyUnit y n room
  | .cpyfill _ _ y => e.fillUnit y n room
  | .cpym _ _ y => e.mortonUnit y n room
  | .cpyp _ _ y => e.planeUnit y d n room
  | .cpyx _ _ y => e.expandUnit y d n room
  | .cpyr _ _ _ => e.regUnit n
  | .cpymc _ _ _ => e.castUnit n room
  | .cpyg _ _ y => e.indexUnit y false (e.k.segStart d) n room
  | .cpys _ _ y => e.indexUnit y true (e.k.segStart d) n room
  | _ => .ok (e, 1)

/-! ### Segments (R408) -/

/-- Items of a command. -/
def Cmd.items (k : Cmd) (d : BitVec 128) : Nat := copyItems k.op { sd := k.sd, sa := k.sa, sb := k.sb, sv := k.sv } d

/-- The first item past a command's current segment. -/
def Cmd.segEnd (k : Cmd) (d : BitVec 128) : Nat :=
  min (k.items d) (k.segStart d + k.perSeg d)

/-- The units of a segment run in turn; a stop leaves the engine before the unit that met it. -/
def Eng.run (stop : Nat) : Nat → Eng → Eng × Option EStop
  | 0, e => (e, none)
  | fuel + 1, e =>
    if stop ≤ e.k.done then (e, none)
    else match e.unit e.k.done (stop - e.k.done) with
      | .error x => (e, some x)
      | .ok (e1, n) => Eng.run stop fuel { e1 with k := { e1.k with done := e1.k.done + max 1 n } }

/-- The remaining destination bytes of a failed command take undefined values where they can be written (R409). -/
def Eng.runUndef (stop : Nat) : Nat → Eng → Eng
  | 0, e => e
  | fuel + 1, e =>
    if stop ≤ e.k.done then e
    else match e.unit e.k.done (stop - e.k.done), e.unit e.k.done 1 with
      | .ok (e1, n), _ => Eng.runUndef stop fuel { e1 with k := { e1.k with done := e1.k.done + max 1 n } }
      | .error _, .ok (e1, _) => Eng.runUndef stop fuel { e1 with k := { e1.k with done := e1.k.done + 1 } }
      | .error _, .error _ => Eng.runUndef stop fuel { e with k := { e.k with done := e.k.done + 1 } }

/-- The poison of the lines a segment has written (R43): poisoned where a source was, cleared where the segment wrote the
whole line, kept and recorded where it wrote a part.  Lines of the capacity tier go to their expanders (R22). -/
def Eng.settle (e : Eng) : Eng :=
  e.cover.foldl
    (fun e c =>
      let full := c.2.1 + 1 == 2 ^ 128
      match c.1.1 with
      | .spad adm => match e.s.blkOf adm with
        | none => e
        | some (key, b) =>
          if c.2.2 then
            { e with
              s := { e.s with blks := nput key { b with spadPoison := c.1.2 :: b.spadPoison.filter (· != c.1.2) } e.s.blks }
              k := { e.k with poisonF := true } }
          else { e with s := e.s.spadPoisonWrite key b c.1.2 full }
      | _ =>
        let e1 := if c.2.2 then { e with s := e.s.poisonLine c.1.2, k := { e.k with poisonF := true } }
          else { e with s := e.s.poisonWrite c.1.2 full }
        if lineIsCap c.1.2 && !e1.s.mem.cacheOn then { e1 with s := e1.s.capSend c.1.2 e1.k.id } else e1)
    { e with cover := [] }

/-- The watchpoints a segment met are delivered, and the command's bookkeeping stored (R149). -/
def Eng.commit (e : Eng) : State :=
  let k := { e.k with watched := e.k.watched ++ e.hits.map fun h => h.1 }
  e.hits.foldl (fun s h => s.cmdTrap k .watchpoint h.2 false) (e.s.modCmd k.id fun _ => k)

/-- Bytes of a CPYX source from its byte `o` on, of so many groups, as far as they can be read (R415). -/
def Eng.packed (e : Eng) (size : Nat) : Nat → Nat → Nat
  | 0, o => o
  | n + 1, o => match Eng.readN true 4 e (e.k.sa + BitVec.ofNat 64 o) 4 with
    | .ok (_, bs) =>
      let k := (List.range 32).countP fun i => leNat bs / 2 ^ i % 2 == 1
      Eng.packed e size n (o + 4 + (k * size + 3) / 4 * 4)
    | .error _ => o

/-- The runs of a range: one where its rows leave no gap. -/
def Ext.runs (x : Ext) : List (DWord × Nat × Bool) :=
  if x.pitch ≤ x.bytes then [(x.va, x.span, x.peer)]
  else (List.range x.rows).map fun r => (x.va + BitVec.ofNat 64 (r * x.pitch), x.bytes, x.peer)

/-- The ranges of virtual addresses that a copy reads (R408): those known from its operands; for a gather the elements its index list
names, and for an expansion the groups that its bitmaps give. -/
def Eng.srcRanges (e : Eng) : List (DWord × Nat × Bool) :=
  let a : CpyArgs := { sd := e.k.sd, sa := e.k.sa, sb := e.k.sb, sv := e.k.sv }
  let known := (((copyExts e.k.op a (e.s.cmdTile e.k e.b)).filter fun x => !x.write).map Ext.runs).flatten
  match e.k.op with
  | .cpyg _ _ y => ((List.range (cpyCount y)).map fun m => ((e.indexElem y false m).src, cpyElem y, false)) ++ known
  | .cpyx _ _ y => [(e.k.sa, e.packed (sfmtBits (fld y.rest 1 4).toNat / 8) (fld e.k.sb 0 32).toNat 0, false)]
  | .coll _ _ => []
  | _ => known

/-- Where a range of virtual addresses lies, page by page, as far as it is mapped. -/
def Eng.places (e : Eng) (dev : BitVec 16) (r : DWord × Nat × Bool) : List (Home × Nat × Nat) :=
  let glob := !isWindow r.1
  (List.range ((r.1.toNat % 4096 + r.2.1 + 4095) / 4096)).filterMap fun i =>
    let off := if i = 0 then 0 else 4096 * i - r.1.toNat % 4096
    let n := min (r.2.1 - off) (if i = 0 then 4096 - r.1.toNat % 4096 else 4096)
    let va := r.1 + BitVec.ofNat 64 off
    if r.2.2 then some (.peer dev, va.toNat, n)
    else match e.place va false glob with
      | .ok (_, h, a, _) => some (h, a, n)
      | .error _ => none

/-- The engine of a command before it knows where its source lies. -/
def State.engStart (s : State) (k : Cmd) (b : Blk) : Eng :=
  { s := s, k := k, agent := k.agent, b := b, img := (s.arg.img).getD [], err := s.arg.flag, ecc := s.arg.ecc, bad := false, undef := false,
    cover := [], noted := [], hits := [], srcs := [] }

/-- An engine about to run a command. -/
def State.engFor (s : State) (k : Cmd) (b : Blk) : Eng :=
  let e := s.engStart k b
  let dev := match k.op with
    | .cpy _ _ y => cpyDev y
    | _ => 0
  { e with srcs := (e.srcRanges.map (e.places dev)).flatten }

/-- A command ends with failure (R409): what it had not written becomes undefined. -/
def State.failCopy (s : State) (id : Nat) (cause : Cause) (va : DWord := 0) : State :=
  match s.cmd? id with
  | none => s
  | some k => match s.blkOf k.adm with
    | none => ((s.dropReplies k).modCmd id fun k => { k with fail := some cause, failAt := va }).endCmd id
    | some (_, b) =>
      let d := s.cmdTile k b
      let e := Eng.runUndef (k.items d) (k.items d + 1) { s.engFor { k with fail := some cause } b with undef := true, err := false, ecc := .clean }
      ((((e.settle).commit).dropReplies k).modCmd id fun k => { k with fail := some cause, failAt := va }).endCmd id

/-! ### Admission (R63, R64, R214) -/

/-- A piece of a segment at an address known at admission: address, bytes, and whether it is on a peer. -/
def Cmd.pieces (k : Cmd) (d : BitVec 128) (lo hi : Nat) : List (DWord × Nat × Bool) :=
  let at' (v : DWord) (n : Nat) : DWord := v + BitVec.ofNat 64 n
  match k.op with
  | .cpy _ _ y => [(at' k.sa lo, hi - lo, y.rest.getLsbD 0), (at' k.sd lo, hi - lo, y.rest.getLsbD 1)]
  | .cpyfill _ _ _ => [(at' k.sd lo, hi - lo, false)]
  | .cpymc _ _ _ => [(at' k.sa lo, hi - lo, false)]
  | .cpyr _ _ _ => [(at' k.sa (128 * lo), 128 * (hi - lo), false)]
  | .cpyp _ _ y =>
    let i := lo / (tCols d / 32)
    let n := (hi - 1) / (tCols d / 32) - i + 1
    ((List.range n).map fun r =>
      (at' k.sa ((i + r) * cpypPitch y k.sb d), sfmtRow (fld y.rest 0 4).toNat (tCols d), false))
      ++ (if y.rest.getLsbD 4 then [(at' k.sd lo, hi - lo, false)] else [])
  | .cpym _ _ _ => (copyExts k.op { sd := k.sd, sa := k.sa, sb := k.sb, sv := k.sv } d).map fun e => (e.va, e.span, false)
  | _ => []

/-- Whether a command's addresses are known at admission (R63). -/
def Cmd.known (k : Cmd) : Bool :=
  match k.op with
  | .cpyx _ _ _ | .cpyg _ _ _ | .cpys _ _ _ => false
  | _ => true

/-- Numbers of the resources that R214 compares: stacks from 0, links from 100, FIFO banks from 1,000, tiles from 10,000.  These are
what a line of memory needs from a die (R12, R22, R47). -/
def State.lineTouch (s : State) (die line : Nat) : List Nat :=
  let cap := lineIsCap line
  let port := (s.capPlace (line * 128 - capBase)).1
  (if !cap || s.mem.cacheOn then lineStack line :: (dieRoute die (stackDie (lineStack line)) line).map (100 + ·) else [])
    ++ (if cap then (124 + port) :: (dieRoute die (hearthDie (port / 2)) line).map (100 + ·) else [])

/-- The ports and boundaries that traffic with a peer needs for `n` bytes at an address (R12, R16). -/
def State.peerTouch (s : State) (die : Nat) (dev : BitVec 16) (va : DWord) (n : Nat) : List Nat :=
  let first := untag va / 128
  ((List.range ((va.toNat % 128 + n + 127) / 128)).map fun i =>
    let p := s.portFor dev (first + i)
    (100 + p) :: (dieRoute die (hearthDie (p / 12)) (first + i)).map (100 + ·)).flatten

/-- Every stack and link that operands at unknown addresses could use (R63): all stacks, Vilbin and capacity ports, and boundaries. -/
def allTouch : List Nat := List.range 12 ++ (List.range 28).map (100 + ·) ++ (List.range 9).map (130 + ·)

/-- The stacks and links that `n` bytes within one page touch: those of its translation, which the device's tables give; all, where the
host has still to give it, so that the address is not known; none, where there is none (R63). -/
def State.pageTouch (s : State) (die : Nat) (m : Mmu) (va : DWord) (n : Nat) : List Nat :=
  match s.quietLeaf m va with
  | some l => match s.placeOf m.ctx l va with
    | .ok (.mem, a) => ((List.range ((a % 128 + n + 127) / 128)).map fun i => s.lineTouch die (lineOf a + i)).flatten
    | .ok (.host link, _) => (128 + link) :: (dieRoute die (hearthDie link) 0).map (100 + ·)
    | .ok (.peer dev, _) => s.peerTouch die dev va n
    | _ => []
  | none => match s.lookup m va with
    | .absent => if s.viaAts m.ctx va then allTouch else []
    | _ => []

/-- Pages of a range with the bytes of it in each. -/
def pagePieces (va : DWord) (n : Nat) : List (DWord × Nat) :=
  (List.range ((va.toNat % 4096 + n + 4095) / 4096)).map fun i =>
    let off := if i = 0 then 0 else 4096 * i - va.toNat % 4096
    (va + BitVec.ofNat 64 off, min (n - off) (if i = 0 then 4096 - va.toNat % 4096 else 4096))

/-- The stacks and links that the items of a command from its next to `hi - 1` touch, with the banks and tiles it names. -/
def State.cmdReach (s : State) (k : Cmd) (b : Blk) (hi : Nat) : List Nat :=
  let d := s.cmdTile k b
  let die := coreDie k.core
  let tiles := (k.dt.toList ++ k.st.toList).map fun n => 10000 + k.core * 64 + b.tileIx n
  let banks := match k.op with
    | .cpy _ _ _ => ([k.sa, k.sd].filter inFifoWindow).map fun v => 1000 + bankKey (k.core / 8) (fld v 20 5).toNat
    | _ => []
  let mem := if !k.known then allTouch
    else ((k.pieces d k.done hi).map fun p =>
      if p.2.2 then s.peerTouch die (match k.op with
        | .cpy _ _ y => cpyDev y
        | _ => 0) p.1 p.2.1
      else if isWindow p.1 then []
      else ((pagePieces p.1 p.2.1).map fun x => s.pageTouch die k.mmu x.1 x.2).flatten).flatten
  (mem ++ banks ++ tiles).eraseDups

/-- What the next segment of a command touches. -/
def State.cmdTouch (s : State) (k : Cmd) (b : Blk) : List Nat := s.cmdReach k b (k.segEnd (s.cmdTile k b))

/-- What all that is left of a command touches (R214). -/
def State.cmdTouchAll (s : State) (k : Cmd) (b : Blk) : List Nat := s.cmdReach k b (k.items (s.cmdTile k b))

/-- Whether a command's segment in flight has requests outstanding on a port (R17): its peers' lines are known. -/
def State.onPort (s : State) (p : Nat) (k : Cmd) : Bool :=
  k.inFlight && k.known && match s.blkOf k.adm with
    | some (_, b) => (s.cmdTouch k b).contains (100 + p)
    | none => false

/-- The destination lines of its segment that a command has completed (R135). -/
def State.segLines (s : State) (k : Cmd) : Nat :=
  match s.blkOf k.adm with
  | some (_, b) => (k.done - k.segStart (s.cmdTile k b)) * k.itemBytes (s.cmdTile k b) / 128
  | none => 0

/-- Whether a calendar entry touches some of the numbered stacks and links, or the engine's island (R63). -/
def touches (l : List Nat) (island : Nat) (k : Calendar) (e : BitVec 128) : Bool :=
  (k.islands e).getLsbD island
    || (l.any fun n => if n < 12 then (entStacks e).getLsbD n else decide (100 ≤ n) && decide (n < 139) && (entLinks e).getLsbD (n - 100))

/-- Whether damper admission lets a command's next segment in (R64). -/
def State.cmdAdmits (s : State) (k : Cmd) (b : Blk) : Bool :=
  let d := s.cmdTile k b
  let n := (k.segEnd d - k.done) * k.itemBytes d
  s.admits (touches (s.cmdTouch k b) (clusterIsland (k.core / 8))) (256 + (n + 31) / 32) k.opened

/-- Whether a command may start apart from admission: the release of its issue has completed (R235), and its source tile
is not still filling (R407). -/
def State.cmdReady (s : State) (k : Cmd) (b : Blk) : Bool :=
  s.issueDone k && (match k.st with
      | some n => (s.tile k.core (b.tileIx n)).st != 1
      | none => true)

/-- Whether commands that stand before one in its queue let it start (R214): those held by admission do, where they share
nothing with it. -/
def State.cmdTurn (s : State) (k : Cmd) (b : Blk) : Bool :=
  let before := s.cmds.filter fun q => q.sameQueue k && decide (q.id < k.id) && !q.started && !q.finished
  let r := before.foldl
    (fun (m : Bool × List Nat) q =>
      let t := s.cmdTouchAll q b
      if !m.1 || !s.cmdReady q b then (false, m.2)
      else if t.any m.2.contains || !s.cmdAdmits q b then (true, m.2 ++ t)
      else (false, m.2)) (true, [])
  r.1 && !((s.cmdTouchAll k b).any r.2.contains)

/-- Admission of a copy's next segment by its Splitter (R63, R64, R214, R235).  A copy whose source tile has left the ready
state before it started fails with TILE_STATE (R201). -/
def State.admitCopy (s : State) (k : Cmd) : State :=
  match s.blkOf k.adm with
  | none => s
  | some (_, b) =>
    if k.finished || k.inFlight || s.recd.halted || (!k.started && !(s.cmdReady k b && s.cmdTurn k b)) || !s.cmdAdmits k b
        || s.islandDown (clusterIsland (k.core / 8)) then s
    else
      let go (s : State) : State := s.modCmd k.id fun k => { k with started := true, inFlight := true, opened := false }
      match (if k.started then none else k.st) with
      | none => go s
      | some n =>
        let j := b.tileIx n
        let e := s.tile k.core j
        if e.readers.contains k.id then go s
        else if e.st ≠ 2 then s.failCopy k.id .tileState
        else go (s.addReader k.core j k.id)

/-! ### Completion of a segment -/

/-- The launch site of a command in a fault record (R83, R285). -/
def Cmd.site (k : Cmd) : FaultSite :=
  { origin := 1, pc := k.pc, lseq := k.lseq, core := BitVec.ofNat 8 k.core, slot := 0 }

/-- A command whose data moves through FIFO banks, entry by entry. -/
def Cmd.byEntry (k : Cmd) : Bool :=
  match k.op with
  | .cpy _ _ _ => inFifoWindow k.sa || inFifoWindow k.sd
  | _ => false

/-- Whether some other stream served by a command's Splitter could still run a segment there: another command outstanding,
or another stream of a block it serves that has not ended. -/
def State.rivals (s : State) (k : Cmd) : Bool :=
  (s.cmds.any fun q => q.agent == k.agent && q.id != k.id && !q.finished)
    || s.blks.any fun p => p.1 / 16 / 8 == k.core / 8 && p.2.splitter (p.1 / 16) == k.engine
      && p.2.thrs.any fun q => !q.2.exited && !(p.2.adm == k.adm && q.1 == k.w)

/-- Whether a command's segment that would leave the machine in state `s1` has its turn (R126, R141).  One that makes no
operation needs none.  An engine's chunk does not name its command: in replay a segment that does not fit the chunk is held
while it may be another's, and diverges otherwise (R143).  A device halt lets it finish, unless it holds the breakpoint (R144). -/
def State.segTurn (s : State) (k : Cmd) (s1 : State) : Bool :=
  let x := s.agent k.agent
  let y := s1.agent k.agent
  let barred := s.recd.halted && s.recd.past.any fun p => p.2.1 == k.agent && p.2.2.1 == x.cseq && decide (x.ops ≤ p.2.2.2)
  !barred && ((x.ops == y.ops && x.cseq == y.cseq)
    || (s.hasTurn k.agent 0 0 && (!s.replaying || (s1.recd.failed == s.recd.failed && (k.byEntry || y.ops == 0)) || !s.rivals k)))

/-- A copy of a block has completed a segment: a stage deadlock's cycles begin again (R421). -/
def State.segMade (s : State) (k : Cmd) : State := s.modBlk k.core k.bctx fun b => { b with stuckSince := none }

/-- A command's segment over: the command ends with its last one, or waits for its next one's admission (R63, R216). -/
def State.segDone (s : State) (k : Cmd) (last : Bool) : State :=
  let s1 := ((s.dropReplies k).segMade k).modCmd k.id fun k => { k with inFlight := false, sent := false, asked := [], fault := none }
  if last then s1.endCmd k.id else s1

/-- ENGINE_SEGMENT_COMPLETE (R43, R213, R216, R408, R409): argument `a` names the command, `img` holds the bytes that the host's
replies brought in the order of the segment's reads, `flag` says that such an access or a capacity-tier access
failed, and `ecc` what the codes find at the first line read.  Peers answer with messages of their own, and a segment ends once its
writes to them are answered (R411).  In replay an engine abort of
the log ends the command (R142).  A command that has ended raises its timeline once what its issue releases is done (R237). -/
def State.completeCopy (s : State) : Host.Outcome State Fault Refusal :=
  match s.cmd? s.arg.a with
  | none => .next s
  | some k => match s.blkOf k.adm, k.op with
    | _, .coll _ _ => .next s
    | none, _ => .next s
    | some (_, b), _ =>
      let d := s.cmdTile k b
      let hi := k.segEnd d
      let aborted := if s.replaying then s.recd.atraps.find? fun r =>
          r.agent == k.agent && r.cseq == (s.agent k.agent).cseq && r.issuer == issuerOf k.bctx k.w && r.lseq == k.lseq
        else none
      let turn (s1 : State) : Host.Outcome State Fault Refusal := if s.segTurn k s1 then .next s1 else .next s
      if k.finished then .next s.raiseCmds.sweep
      else if !k.inFlight then .next s
      else if k.sent then
        (if !k.acks.isEmpty then .next s
        else if k.nack then .next (s.failCopy k.id .fabricError)
        else .next (s.segDone k (decide (k.items d ≤ k.done))))
      else match aborted with
      | some r =>
        let s0 : State := { s with recd := { s.recd with atraps := s.recd.atraps.filter (· != r) } }
        match Eng.run (min hi (k.done + r.op * 128 / max 1 (k.itemBytes d))) (hi - k.done + 1) (s0.engFor k b) with
        | (e, none) => turn ((e.settle).commit.failCopy k.id (Cause.ofCode r.cause))
        | _ => turn (s0.failCopy k.id (Cause.ofCode r.cause))
      | none => match Eng.run hi (hi - k.done + 1) (s.engFor k b) with
        | (e, none) =>
          let s1 := ((e.settle).commit).closeChunk k.agent 11
          turn (if e.k.acks.isEmpty then s1.segDone k (decide (k.items d ≤ hi)) else s1.modCmd k.id fun k => { k with sent := true })
        | (e, some (.fail c va)) =>
          if k.byEntry then turn (((e.settle).commit.failCopy k.id c va).closeChunk k.agent 11)
          else turn ((s.failCopy k.id c va).closeChunk k.agent 11)
        | (_, some (.walk va kind)) => .next (s.startWalk k.mmu va kind k.site)
        | (_, some (.miss p)) => .next (s.modCmd k.id fun k => { k with fault := some p })
        | (e, some (.ask dev va n)) =>
          if k.byEntry ∧ e.k.done ≠ k.done then turn ((e.settle).commit.askPeer k dev va n) else .next (s.askPeer k dev va n)
        | (e, some .hold) => if k.byEntry ∧ e.k.done ≠ k.done then turn (e.settle).commit else .next s
        | (e, some (.bank push x)) =>
          if e.k.done ≠ k.done then turn ((e.settle).commit.waitAt push x k.id) else .next (s.waitAt push x k.id)

end Sys2Proof.Machine
end

