-- ==== Sys2Proof/Machine/Coll.lean ====
section
/-! DEFINITION. Collectives (R422 to R425) and the stage deadlock (R421). -/

namespace Sys2Proof.Machine

/-! ### Descriptors (R423) -/

/-- A collective descriptor's fields. -/
structure CollDesc where
  kind : Nat
  rop : Nat
  ty : Nat
  win : Bool
  window : Nat
  zero : Bool
  group : Nat
  src : DWord
  dst : DWord
  count : Nat
  rank : Nat
  nranks : Nat
  root : Nat
  peers : DWord
  seq : Nat

/-- A descriptor from its 64 bytes. -/
def collDesc (bs : List Byte) : CollDesc :=
  let w (o : Nat) : DWord := BitVec.ofNat 64 (leNat ((bs.drop o).take 8))
  { kind := (fld (w 0) 0 8).toNat, rop := (fld (w 0) 8 4).toNat, ty := (fld (w 0) 12 2).toNat, win := (w 0).getLsbD 14,
    window := (fld (w 0) 15 4).toNat, zero := fld (w 0) 19 13 == 0 && w 0x38 == 0, group := (fld (w 0) 32 32).toNat,
    src := w 8, dst := w 0x10, count := (fld (w 0x18) 0 40).toNat, rank := (fld (w 0x20) 0 16).toNat,
    nranks := (fld (w 0x20) 16 16).toNat, root := (fld (w 0x20) 32 16).toNat, peers := w 0x28, seq := (w 0x30).toNat }

/-- Element bytes of a TYPE. -/
def CollDesc.size (d : CollDesc) : Nat := if d.ty = 1 then 8 else 4

/-- The descriptor errors of R425 that end a collective with COPY_GEOMETRY. -/
def CollDesc.ok (d : CollDesc) : Bool :=
  d.zero && decide (1 ≤ d.kind) && decide (d.kind ≤ 4) && decide (d.rop ≤ 5) && d.ty != 3 && (decide (d.kind ≤ 2) || d.rop == 0)
    && !(d.ty == 2 && decide (3 ≤ d.rop)) && decide (1 ≤ d.nranks) && decide (d.nranks ≤ 4096) && decide (d.rank < d.nranks)
    && decide (d.root < d.nranks) && !(d.kind == 2 && d.count % d.nranks != 0)

/-- What every rank's descriptor must share (R425). -/
def CollDesc.key (d : CollDesc) : List Nat := [d.group, d.seq, d.kind, d.rop, d.ty, d.count, d.nranks, d.root]

/-- The window a descriptor names, where it fits (R423). -/
def State.collWindow (s : State) (ctx : Nat) (d : CollDesc) : Option Window :=
  match nget s.links.windows d.window with
  | some w => if w.isOpen && w.ctx == ctx && w.desc.op.toNat == d.rop && w.desc.ty.toNat == d.ty then some w else none
  | none => none

/-! ### Folding (R18, R424) -/

/-- The atomic operation that combines two elements (R263, R424). -/
def CollDesc.aop (d : CollDesc) : BitVec 5 :=
  let float := d.ty == 2
  match d.rop with
  | 0 => if float then 11 else 0
  | 1 => if float then 12 else 4
  | 2 => if float then 13 else 5
  | 3 => 1
  | 4 => 2
  | _ => 3

/-- Contributions combined in the order given. -/
def CollDesc.fold (d : CollDesc) : List Nat → Nat
  | [] => 0
  | v :: rest => rest.foldl (fun m x => atomNew d.aop d.size m x) v

/-- A rank placed among ranks already ordered by a key. -/
def insertBy (key : Nat → Nat) (x : Nat) : List Nat → List Nat
  | [] => [x]
  | y :: t => if key x ≤ key y then x :: y :: t else y :: insertBy key x t

/-- The order in which contributions combine: ascending rank, or for an arrival-order window the order the device sees,
which nothing fixes (R18). -/
def State.collOrder (s : State) (n : Nat) (arrival : Bool) : List Nat :=
  if arrival then (List.range n).foldl (fun l r => insertBy (fun q => Config.choice (s.fresh * 4096 + q)) r l) []
  else List.range n

/-! ### Running a collective -/

/-- A new collective: its engine, context, descriptor, command or node, and when it began. -/
def Coll.start (id engine ctx : Nat) (desc : DWord) (cmd : Option Nat) (node : Option (Nat × Word × DWord)) (since : Nat) : Coll :=
  { id := id, engine := engine, ctx := ctx, desc := desc, cmd := cmd, node := node, since := since, fail := none, held := false,
    done := 0, sent := 0, ports := [], opened := false, left := none, lacks := false, ended := false }

/-- A node's collective as an engine command with a block of its own context and no windows. -/
def collNodeCmd (c : Coll) (pc : DWord) : Cmd :=
  { id := c.id, core := 255, bctx := 0, w := 33, adm := 0, ctx := c.ctx,
    op := .coll { lit := 0, sd := 0, sa := 0, sb := 0, ea := false, eb := false } { tok := 15, tl := 0, tlv := false, sv := 0, dt := 127, z := 0 },
    sd := 0, sa := c.desc, sb := 0, sv := 0, priv := false, tok := none, tl := none, dt := none, st := none, pc := pc, lseq := 0,
    started := true, inFlight := true, done := 0, pos := 0, targets := [], poisonF := false, tagF := false, tagSite := none,
    drops := 0, fail := none, failAt := 0, finished := false, fault := none, engine := c.engine, watched := [], upto := 0, opened := false }

/-- A block context stand-in for the address checks of a COLL node. -/
def collNodeBlk (ctx : Nat) : Blk :=
  Blk.start 0
    { slot := 0, seq := 0, ctx := ctx, node := 0, nodeId := 0, isCopy := true, gangId := 0, g := 0, gx := 0, gy := 0, rank := 0,
      gangX := 0, gangY := 0, bpg := 0, wpb := 0, poolRows := 0, accRows := 0, spadB := 0, scaleB := 0, tiles := 0, param := 0,
      launches := 0, lanePc := 0, mtxPc := 0, accPc := 0 } 0 0 [] [] 0 none

/-- The DEVID of a rank in the peer list. -/
def Eng.rankDev (e : Eng) (d : CollDesc) (r : Nat) : Except EStop (Eng × BitVec 16) := do
  let a := d.peers + BitVec.ofNat 64 (2 * r)
  let (e1, bs) ← Eng.readN (!isWindow d.peers) 2 e a 2
  return (e1, BitVec.ofNat 16 (leNat bs))

/-- Bytes of another rank's part that have arrived, with their poison: `n` of them from an offset on.  A part is the rank's
descriptor and then its SRC. -/
def Links.part (l : Links) (dev : BitVec 16) (d : CollDesc) (off n : Nat) : Option (List Byte × Bool) :=
  let mine := l.inbox.filter fun p => p.src == dev && p.group.toNat == d.group && p.seq.toNat == d.seq
  ((List.range n).mapM fun i => mine.findSome? fun p =>
    if off + i < p.off then none else p.data[off + i - p.off]?.map fun x => (x, p.bad)).map fun l =>
      (l.map fun x => x.1, l.any fun x => x.2)

/-- An engine's reads that count as no operation: those of the steps that only send (R125). -/
def Eng.quiet {α : Type} (e : Eng) (f : Eng → Except EStop (Eng × α)) : Except EStop (Eng × α) :=
  let mode (m : BitVec 2) (s : State) : State := { s with recd := { s.recd with mode := m } }
  (f { e with s := mode 0 e.s }).map fun x => ({ x.1 with s := mode e.s.recd.mode x.1.s, noted := e.noted }, x.2)

/-- DST elements of this rank. -/
def CollDesc.total (d : CollDesc) : Nat :=
  if d.kind = 2 then d.count / d.nranks else if d.kind = 3 then d.count * d.nranks else d.count

/-- DST elements of a whole segment (R63). -/
def CollDesc.perSeg (d : CollDesc) : Nat := 65536 / d.size

/-- The SRC elements of rank `q` that elements `lo` to `hi - 1` of rank `r`'s DST need (R424): the first and one past the last. -/
def CollDesc.needs (d : CollDesc) (r q lo hi : Nat) : Nat × Nat :=
  match d.kind with
  | 1 => (lo, hi)
  | 2 => (r * (d.count / d.nranks) + lo, r * (d.count / d.nranks) + hi)
  | 3 =>
    let a := max lo (q * d.count)
    let b := min hi ((q + 1) * d.count)
    if a < b then (a - q * d.count, b - q * d.count) else (0, 0)
  | _ => if q = d.root then (lo, hi) else (0, 0)

/-- The other ranks. -/
def CollDesc.others (d : CollDesc) : List Nat := (List.range d.nranks).filter fun q => q != d.rank

/-- The messages this rank sends for a segment: rank, offset in its part, and bytes; the descriptor goes with the first. -/
def CollDesc.msgs (d : CollDesc) (lo hi : Nat) : List (Nat × Nat × Nat) :=
  (d.others.map fun q =>
    let (x, y) := d.needs q d.rank lo hi
    (if lo = 0 then [(q, 0, 64)] else [])
      ++ (linePieces (d.src + BitVec.ofNat 64 (x * d.size)) ((y - x) * d.size) 0 ((y - x) * d.size)).map fun p =>
        (q, 64 + x * d.size + p.1, p.2)).flatten

/-- The messages sent in turn as far as the channels take them (R15): how many, and the ports they left on. -/
def Eng.collSend (d : CollDesc) (bytes : List Byte) : List (Nat × Nat × Nat) → Eng → Except EStop (Eng × Nat × List Nat)
  | [], e => .ok (e, 0, [])
  | (q, off, n) :: rest, e => do
    let (e1, dev) ← e.quiet fun e => e.rankDev d q
    let va := d.src + BitVec.ofNat 64 (off - 64)
    let (e2, data) ← if off < 64 then pure ({ e1 with bad := false }, bytes)
      else e1.quiet fun e => Eng.readN (!isWindow d.src) n { e with bad := false } va n
    match e2.peer dev (.coll (BitVec.ofNat 32 d.group) (BitVec.ofNat 64 d.seq) off e2.bad data) va (32 * e2.k.id) with
    | .error .hold | .error (.ask _ _ _) | .error (.bank _ _) => .ok (e, 0, [])
    | .error x => .error x
    | .ok e3 => do
      let (e4, k, ps) ← Eng.collSend d bytes rest { e3 with bad := false }
      return (e4, k + 1, e2.s.portFor dev (untag va / 128) :: ps)

/-- Element `i` of rank `q`'s SRC: this device's own, or from what has arrived. -/
def Eng.collElem (e : Eng) (d : CollDesc) (q i : Nat) : Except EStop (Eng × Nat) :=
  if q = d.rank then
    (Eng.readN (!isWindow d.src) d.size e (d.src + BitVec.ofNat 64 (i * d.size)) d.size).map fun x => (x.1, leNat x.2)
  else do
    let (e1, dev) ← e.rankDev d q
    match e1.s.links.part dev d (64 + i * d.size) d.size with
    | some (bs, bad) => return ({ e1 with bad := e1.bad || bad }, leNat bs)
    | none => .error .hold

/-- The value of element `x` of DST (R424); an arrival-order result is recorded (R129). -/
def Eng.collValue (e : Eng) (d : CollDesc) (arrival : Bool) (x : Nat) : Except EStop (Eng × Nat) :=
  match d.kind with
  | 3 => e.collElem d (x / d.count) (x % d.count)
  | 4 => e.collElem d d.root x
  | _ => do
    let i := if d.kind = 2 then d.rank * (d.count / d.nranks) + x else x
    let (e1, vals) ← (e.s.collOrder d.nranks arrival).foldlM
      (fun (m : Eng × List Nat) q => do
        let (e1, v) ← m.1.collElem d q i
        return (e1, m.2 ++ [v])) (e, [])
    if arrival then
      let (s1, vs) := e1.s.bump.valueOf e1.agent 0 0 6 0 [BitVec.ofNat 64 (d.fold vals)]
      return ({ e1 with s := s1 }, ((vs.head?).getD 0).toNat)
    else return (e1, d.fold vals)

/-- Consecutive numbers grouped by a key. -/
def keyGroups (key : Nat → Nat) (l : List Nat) : List (List Nat) :=
  l.foldr
    (fun x gs => match gs with
      | (y :: t) :: rest => if key x = key y then (x :: y :: t) :: rest else [x] :: gs
      | _ => [x] :: gs) []

/-- Elements `lo` to `hi - 1` of DST set, line by line: the values of a line's elements, then its write (R126, R424). -/
def Eng.collect (e : Eng) (d : CollDesc) (arrival : Bool) (lo hi : Nat) : Except EStop Eng :=
  let at' (x : Nat) : DWord := d.dst + BitVec.ofNat 64 (x * d.size)
  (keyGroups (fun x => (at' x).toNat / 128) ((List.range (hi - lo)).map (lo + ·))).foldlM
    (fun e g => do
      let (e1, vals) ← g.foldlM
        (fun (m : Eng × List (Nat × Nat × Bool)) x => do
          let (e1, v) ← { m.1 with bad := false }.collValue d arrival x
          return (e1, m.2 ++ [(x, v, e1.bad)])) (e, [])
      vals.foldlM (fun e w => { e with bad := w.2.2 }.dst (at' w.1) (leBytes d.size w.2.1) d.dst) e1) e

/-- The descriptor of a collective and its checks, in the order of R425. -/
def Eng.collHead (e : Eng) (desc : DWord) : Except EStop (Eng × List Byte × Option Window) := do
  if desc.toNat % 8 ≠ 0 then (.error (.fail .copyGeometry) : Except EStop PUnit)
  if e.s.kindling then (.error (.fail .kindlingUnavailable) : Except EStop PUnit)
  let (e1, bytes) ← Eng.readN (!isWindow desc) 64 e desc 64
  let d := collDesc bytes
  let win := if d.win then e1.s.collWindow e1.k.ctx d else none
  if !d.ok || (d.win && win.isNone) then (.error (.fail .copyGeometry) : Except EStop PUnit)
  let (e2, me) ← e1.rankDev d d.rank
  if me ≠ e2.s.devid then (.error (.fail .collectiveMismatch) : Except EStop PUnit)
  return (e2, bytes, win)

/-- Whether a peer's descriptor that has arrived differs from this rank's (R425). -/
def Eng.collDiffers (e : Eng) (d : CollDesc) : Except EStop (Eng × Bool) :=
  d.others.foldlM
    (fun (m : Eng × Bool) q => do
      let (e1, dev) ← m.1.rankDev d q
      return (e1, m.2 || match e1.s.links.part dev d 0 64 with
        | some (bs, _) => (collDesc bs).key != d.key
        | none => false)) (e, false)

/-- Whether a peer whose part has not come has sent one that shares only GROUP or only SEQ with this rank's (R425). -/
def Eng.collOdd (e : Eng) (d : CollDesc) : Except EStop (Eng × Bool) :=
  d.others.foldlM
    (fun (m : Eng × Bool) q => do
      let (e1, dev) ← m.1.rankDev d q
      return (e1, m.2 || ((e1.s.links.part dev d 0 64).isNone
        && e1.s.links.inbox.any fun p => p.src == dev && ((p.group.toNat == d.group) != (p.seq.toNat == d.seq))))) (e, false)

/-- Whether bytes of a peer's part that a segment needs, its descriptor among them, have not arrived. -/
def Eng.collLacks (e : Eng) (d : CollDesc) (lo hi : Nat) : Except EStop (Eng × Bool) :=
  d.others.foldlM
    (fun (m : Eng × Bool) q => do
      let (e1, dev) ← m.1.rankDev d q
      let (x, y) := d.needs d.rank q lo hi
      return (e1, m.2 || (e1.s.links.part dev d 0 64).isNone
        || (e1.s.links.part dev d (64 + x * d.size) ((y - x) * d.size)).isNone)) (e, false)

/-- The operations of a segment that is complete (R125): the descriptor and the peer list read, the SRC bytes that were sent read,
and DST written. -/
def Eng.collFinish (e : Eng) (desc : DWord) (lo hi : Nat) : Except EStop (Eng × CollDesc) := do
  let (e1, bytes, win) ← e.collHead desc
  let d := collDesc bytes
  let e2 ← (d.msgs lo hi).foldlM
    (fun e m =>
      if m.2.1 < 64 then .ok e
      else (Eng.readN (!isWindow d.src) m.2.2 e (d.src + BitVec.ofNat 64 (m.2.1 - 64)) m.2.2).map fun x => x.1) e1
  let e3 ← { e2 with bad := false }.collect d (win.elim false fun w => w.desc.order) lo hi
  return (e3, d)

/-- A step of a collective's segment (R63, R424): the engine sends what its channels take, and once everything is sent and every
peer's bytes are there it writes DST.  `last` says whether the segment to be done is the last one.  The answer is the engine,
the collective as it goes on, and, where the segment is done, its descriptor. -/
def Eng.collSeg (e : Eng) (c : Coll) (last : Bool) : Except EStop (Eng × Coll × Option CollDesc) := do
  let (e1, bytes, _) ← e.quiet fun e => e.collHead c.desc
  let d := collDesc bytes
  let hi := min d.total (c.done + d.perSeg)
  if (hi == d.total) != last then return (e, c, none)
  else
    let (e2, differs) ← e1.quiet fun e => e.collDiffers d
    if differs then .error (.fail .collectiveMismatch)
    else
      let msgs := (d.msgs c.done hi).drop c.sent
      let (e3, n, ps) ← Eng.collSend d bytes msgs { e2 with bad := false }
      let c1 : Coll := { c with
        sent := c.sent + n, ports := (c.ports ++ ps).eraseDups, left := some ((d.total - c.done) * d.size) }
      if n < msgs.length then return (e3, c1, none)
      else
        let (e4, lacks) ← e3.quiet fun e => e.collLacks d c.done hi
        if lacks then return (e4, { c1 with lacks := true, since := if c.lacks then c.since else e4.s.tick }, none)
        else
          let (e5, _) ← e4.collFinish c.desc c.done hi
          return (e5, { c1 with held := false, done := hi, sent := 0, ports := [], lacks := false
                                left := some ((d.total - hi) * d.size) }, some d)

/-- A collective changed. -/
def State.modColl (s : State) (id : Nat) (f : Coll → Coll) : State :=
  { s with colls := s.colls.map fun c => if c.id = id then f c else c }

/-- What peers sent for a collective dropped. -/
def State.dropParts (s : State) (d : CollDesc) : State :=
  { s with links := { s.links with
      inbox := s.links.inbox.filter fun p => !(p.group.toNat == d.group && p.seq.toNat == d.seq) } }

/-- A collective over: its command ends, or its node has run; a node's keeps its engine while the completion queue has no room
(R119). -/
def State.endColl (s : State) (c : Coll) (fail : Option Cause) (va : DWord := 0) : State :=
  let s0 := if c.ended then s else s.closeChunk (collAgent c.engine) 11
  let s1 : State := { s0 with colls := s0.colls.filter fun x => x.id != c.id }
  match c.cmd, c.node with
  | some id, _ => (s1.modCmd id fun k => { k with fail := fail, failAt := va }).endCmd id
  | none, some (slot, seq, addr) =>
    if fail.isNone && s0.cqTaken then
      s0.modColl c.id fun x => { x with ended := true, held := false, lacks := false }
    else { s1 with stoker := { s1.stoker with nodes := s1.stoker.nodes.map fun n =>
        if n.slot = slot ∧ n.seq = seq ∧ n.addr = addr then
          { n with done := n.done + 1, failed := if n.failed.isSome then n.failed else fail } else n } }
  | none, none => s1

/-- The engines of collectives that are over freed as far as the completion queue has room (R119). -/
def State.freeColls (s : State) : State :=
  (s.colls.filter fun c => c.ended).foldl (fun t c => t.endColl c none) s

/-- The engine of a collective: its command with its block, or its node. -/
def State.collEng (s : State) (c : Coll) : Option Eng :=
  match c.cmd with
  | some id => match s.cmd? id with
    | none => none
    | some k => match s.blkOf k.adm with
      | none => none
      | some (_, b) => some { s.engFor k b with agent := collAgent c.engine }
  | none =>
    let pc := match c.node with
      | some (_, _, a) => a
      | none => 0
    some { s.engFor (collNodeCmd c pc) (collNodeBlk c.ctx) with agent := collAgent c.engine }

/-- An engine's state after a step of a collective; a node's has no block to tell of a watchpoint, which is a notice (R149, R285). -/
def Eng.collState (e : Eng) (c : Coll) : State :=
  let e1 := e.settle
  match c.cmd with
  | some _ => e1.commit
  | none => e1.hits.foldl (fun s h => s.notice c.ctx .watchpoint h.2 e1.k.pc 0 255) e1.s

/-- The DST bytes that a failed collective had not written take undefined values where they can be written (R65, R409). -/
def Eng.collUndef (e : Eng) (d : CollDesc) (lo : Nat) : Eng :=
  let va := d.dst + BitVec.ofNat 64 (lo * d.size)
  let n := (d.total - lo) * d.size
  (linePieces va n 0 n).foldl
    (fun e p => match { e with bad := false }.dst (va + BitVec.ofNat 64 p.1)
        ((List.range p.2).map fun i => Config.freeByte e.s.fresh (p.1 + i)) d.dst with
      | .ok e1 => e1
      | .error _ => e) { e with s := e.s.bump }

/-- A collective ends with failure (R65, R409, R425). -/
def State.failColl (s : State) (c : Coll) (cause : Cause) (va : DWord := 0) : State :=
  match s.collEng c with
  | none => s.endColl c (some cause) va
  | some e => match ({ e with err := false, ecc := .clean } : Eng).quiet fun e => e.collHead c.desc with
    | .ok (e1, bytes, _) => (((e1.collUndef (collDesc bytes) c.done).collState c).dropParts (collDesc bytes)).endColl c
        (some cause) va
    | .error _ => s.endColl c (some cause) va

/-- A collective aborted by a slot or a link, with the record of a command's segment (R65, R135); none of the segment's lines has
been written. -/
def State.abortColl (s : State) (c : Coll) (cause : Cause) : State :=
  let s1 := if cause ≠ .slotOverrun then s else match c.cmd.bind s.cmd? with
    | some k => s.recordAtrap (collAgent c.engine) cause.code 0 (issuerOf k.bctx k.w) 0 k.pc k.lseq
    | none => s.recordAtrap (collAgent c.engine) cause.code 0 0 0 (c.node.elim 0 fun n => n.2.2) 0
  s1.failColl c cause

/-- The collective engine a new collective takes: the one with the fewest running, lowest number first (R116); dies that
are down offer none. -/
def State.collEngine (s : State) : Nat :=
  let n := if s.dev.hearth1Up then 8 else 4
  let load (e : Nat) : Nat := (s.colls.filter fun c => c.engine == e).length
  (List.range n).foldl (fun best e => if load e < load best then e else best) 0

/-- The island of a collective engine (R56). -/
def collIsland (e : Nat) : Nat := 1200 + 40 * (e / 4) + 30 + e % 4

/-- The stacks and links of a collective (R63): its addresses are not known at admission, since the engine reads the descriptor
after issue (R425). -/
def collTouch : List Nat := allTouch

/-- Whether damper admission lets a segment of a collective in (R63, R64); before the descriptor has been read it counts as a whole
one. -/
def State.admitsColl (s : State) (engine : Nat) (left : Option Nat) (opened : Bool) : Bool :=
  s.admits (touches collTouch (collIsland engine)) (256 + (min 65536 (left.getD 65536) + 31) / 32) opened
    && !s.islandDown (collIsland engine)

/-- Whether damper admission lets a collective's next segment in. -/
def State.collAdmits (s : State) (c : Coll) : Bool := s.admitsColl c.engine c.left c.opened

/-- ENGINE_SEGMENT_ADMIT (R63, R64, R214, R235): argument `a` names the command: a copy at its Splitter, or a COLL at a
collective engine; or it names a collective whose next segment waits. -/
def execEngineSegmentAdmit (s : State) : Host.Outcome State Fault Refusal :=
  match s.cmd? s.arg.a, s.colls.find? fun c => c.id == s.arg.a with
  | some k, _ => (match s.blkOf k.adm, k.op with
    | some (_, b), .coll _ _ =>
      let e := s.collEngine
      if k.finished || k.started || !(s.cmdReady k b && s.cmdTurn k b) || !s.admitsColl e none k.opened then .next s
      else
        .next { s.modCmd k.id (fun k => { k with started := true, inFlight := true, opened := false }) with
          nextId := s.nextId + 1
          colls := s.colls ++ [{ Coll.start s.nextId e k.ctx k.sa (some k.id) none s.tick with held := true }] }
    | _, _ => .next (s.admitCopy k))
  | none, some c =>
    if c.held || c.ended || !s.collAdmits c then .next s
    else .next (s.modColl c.id fun c => { c with held := true, opened := false })
  | none, none => .next s

/-- A segment of a collective up to its abort after `lines` destination lines, as the log has it (R142): everything is sent, then those
lines are set.  The Boolean says that they have been. -/
def Eng.collUpTo (e : Eng) (c : Coll) (lines : Nat) : Except EStop (Eng × Coll × Bool) := do
  let (e1, bytes, win) ← e.quiet fun e => e.collHead c.desc
  let d := collDesc bytes
  let hi := min d.total (c.done + d.perSeg)
  let msgs := (d.msgs c.done hi).drop c.sent
  let (e2, n, ps) ← Eng.collSend d bytes msgs { e1 with bad := false }
  let c1 : Coll := { c with sent := c.sent + n, ports := (c.ports ++ ps).eraseDups }
  let line (x : Nat) : Nat := (d.dst + BitVec.ofNat 64 (x * d.size)).toNat / 128
  let k := (List.range (hi - c.done)).countP fun i => decide (line (c.done + i) < line c.done + lines)
  if n < msgs.length ∧ 0 < k then return (e2, c1, false)
  else
    let e3 ← { e2 with bad := false }.collect d (win.elim false fun w => w.desc.order) c.done (c.done + k)
    return (e3, { c1 with done := c.done + k }, true)

/-- One step of a collective's segment, its last one or another; in replay an engine abort of the log ends it after its destination lines
(R142). -/
def State.stepColl (s : State) (c : Coll) (last : Bool) : State :=
  match s.collEng c with
  | none => { s with colls := s.colls.filter fun x => x.id != c.id }
  | some e0 =>
    let agent := collAgent c.engine
    if !c.held || !s.mayOp agent 0 0 then s
    else match if s.replaying then s.recd.atraps.find? fun r => r.agent == agent && r.cseq == (s.agent agent).cseq else none with
    | some r =>
      let taken (s : State) : State := { s with recd := { s.recd with atraps := s.recd.atraps.filter (· != r) } }
      (match e0.collUpTo c r.op with
        | .ok (e, c1, false) => (e.collState c).modColl c.id fun _ => c1
        | .ok (e, c1, true) => (taken ((e.collState c).modColl c.id fun _ => c1)).failColl c1 (Cause.ofCode r.cause)
        | .error (.walk va kind) => s.startWalk e0.k.mmu va kind e0.k.site
        | .error (.fail _ _) => (taken s).failColl c (Cause.ofCode r.cause)
        | .error (.miss _) | .error .hold | .error (.ask _ _ _) | .error (.bank _ _) => s)
    | none => match e0.collSeg c last with
      | .ok (e, c1, none) => (e.collState c).modColl c.id fun _ => c1
      | .ok (e, c1, some d) =>
        let s1 := (e.collState c).segMade e0.k
        if last then (s1.dropParts d).endColl c none else (s1.closeChunk agent 11).modColl c.id fun _ => c1
      | .error (.fail k va) => s.failColl c k va
      | .error (.walk va kind) => s.startWalk e0.k.mmu va kind e0.k.site
      | .error (.miss _) | .error .hold | .error (.ask _ _ _) | .error (.bank _ _) => s

/-- ENGINE_SEGMENT_COMPLETE (R43, R63, R213, R216, R408, R409, R424): argument `a` names a command in flight at a Splitter, or a
collective whose segment is not its last. -/
def execEngineSegmentComplete (s : State) : Host.Outcome State Fault Refusal :=
  match s.colls.find? fun c => c.id == s.arg.a with
  | some c => .next (s.stepColl c false)
  | none => s.completeCopy

/-- COLLECTIVE_COMPLETE (R424): argument `a` names the collective, whose last segment completes once this rank's part has been
sent and its peers' have come; `img` brings the bytes of host and peer pages in the order they are read. -/
def execCollectiveComplete (s : State) : Host.Outcome State Fault Refusal :=
  match s.colls.find? fun c => c.id == s.arg.a with
  | none => .next s
  | some c => .next (s.stepColl c true)

/-- Why a collective whose peer's part has been missing for 2^24 ticks ends (R425).  DEDUCED: a part of another collective of that peer, which
agrees in GROUP or in SEQ alone, is taken as the missing one only then, so that a collective to come is no mismatch (log entry 24). -/
def State.lackCause (s : State) (c : Coll) : Cause :=
  match s.collEng c with
  | none => .fabricError
  | some e => match ({ e with err := false, ecc := .clean } : Eng).quiet fun e => do
      let (e1, bytes, _) ← e.collHead c.desc
      e1.collOdd (collDesc bytes) with
    | .ok (_, true) => .collectiveMismatch
    | _ => .fabricError

/-- COLLECTIVE_PEER_TIMEOUT (R425): argument `a` names the collective; a peer's contribution has been missing for 2^24
ticks. -/
def execCollectivePeerTimeout (s : State) : Host.Outcome State Fault Refusal :=
  match s.colls.find? fun c => c.id == s.arg.a with
  | none => .next s
  | some c => .next (if c.lacks && decide (c.since + 2 ^ 24 ≤ s.tick) then s.failColl c (s.lackCause c) else s)

/-! ### Stage deadlock (R421) -/

/-- Whether a warp waits for something that only its block's own copies or streams could bring: a full lane-copy queue,
or a token, tile or register blocking point. -/
def State.stuckWarp (s : State) (core bctx : Nat) (b : Blk) (w : Nat) (t : Thr) : Bool :=
  let full := decide (8 ≤ (s.cmds.filter fun k => k.core == core && k.bctx == bctx && k.adm == b.adm && k.w == w && !k.finished).length)
  t.exited || (t.lanes.all fun l => match l.stat with
    | .exited | .held | .loopHeld _ => true
    | .blocked (.token _) | .blocked (.tile _) => true
    | .blocked (.emptyReg uni r) => !(s.reqs.any fun q => q.adm == b.adm && q.w == w &&
        (if uni then q.dst == .uni r else q.dst.regs.contains r))
    | .run => full && t.copyStall
    | _ => false)

/-- Whether the conditions of a stage deadlock hold in a block. -/
def State.stageDeadlock (s : State) (core bctx : Nat) (b : Blk) : Bool :=
  (match b.thr? 33 with
    | some t => t.lanes.any fun l => match l.stat with
      | .blocked (.stageWait v) => decide (b.stageCount < v.toNat)
      | _ => false
    | none => false)
    && b.thrs.any (fun p => decide (p.1 < 32) && !p.2.exited)
    && b.thrs.all fun p => decide (32 ≤ p.1) || s.stuckWarp core bctx b p.1 p.2

/-- Since when the conditions of a stage deadlock have held in each block (R421). -/
def State.markStuck (s : State) : State :=
  { s with blks := s.blks.map fun p => (p.1, { p.2 with
      stuckSince := if p.2.stat = .resident ∧ s.stageDeadlock (p.1 / 16) (p.1 % 16) p.2 then some (p.2.stuckSince.getD s.tick) else none }) }

/-- The 4,096 cycles of a core's arithmetic clock in ticks, at the operating point of its first partition (R1, R57). -/
def State.stuckTicks (s : State) (core : Nat) : Nat :=
  let rate := 9 * (16 - s.pointOf (coreIsland core 0))
  (4096 * 40 + rate - 1) / rate

/-- STAGE_DEADLOCK_DETECT (R421): arguments `a` core, `b` block context; it acts once the conditions have held for 4,096 cycles in
which no copy of the block has completed a segment. -/
def execStageDeadlockDetect (s : State) : Host.Outcome State Fault Refusal :=
  let core := s.arg.a
  let bctx := s.arg.b
  match s.blk? core bctx with
  | none => .next s
  | some b => match b.thr? 33 with
    | none => .next s
    | some t =>
      if !(s.stageDeadlock core bctx b && b.stuckSince.any fun t => decide (t + s.stuckTicks core ≤ s.tick)) then .next s
      else
        let pc := (t.lane 0).pc
        let ids := (s.cmds.filter fun k => k.core == core && k.bctx == bctx && k.adm == b.adm && !k.finished).map fun k => k.id
        let s1 := ids.foldl
          (fun s id => match s.colls.find? fun c => c.cmd == some id with
            | some c => s.failColl c .stageDeadlock
            | none => s.failCopy id .stageDeadlock) s
        let s3 := s1.endStream core bctx 33
          { cause := .stageDeadlock, origin := 3, more := 0, serviced := false, pc := pc, addr := 0, lseq := t.lseq, issuer := 33 }
        .next (((s3.barsCheck core bctx 33).phDropAll core bctx 33).sweep)

end Sys2Proof.Machine
end

