-- ==== Sys2Proof/Machine/Control.lean ====
section
/-! DEFINITION. Control flow and system words of class 4: transfers, meeting registers, loops, EXIT, special registers, SLOTQ,
software traps and TRET, POOLB and YIELD (R427 to R447). -/

namespace Sys2Proof.Machine

/-! ### Transfers (R311, R427) -/

/-- A branch target: H plus four times the signed offset (R310). -/
def branchTarget (c : Cur) (off : BitVec 16) : DWord := c.hdrAt + sext 64 off * 4

/-- Lanes take a transfer: each goes to its target, remembering the transfer should the target prove bad (R311). -/
def Thr.jump (t : Thr) (c : Cur) (m : Word) (target : Nat → DWord) : Thr :=
  { t with lanes := t.lanes.mapIdx fun i l =>
      if m.getLsbD i then
        let v := l.clause.map fun k : Clause => ({ pc := c.pc, word := c.word, clause := k } : Via)
        { l.goto (target i) with via := v }
      else l }

/-- A transfer: the lanes of `m` go to their targets, leaving the loops whose bodies they leave; the others reach the end
of the clause. -/
def State.transfer (s : State) (c : Cur) (b : Blk) (m : Word) (target : Nat → DWord) : State :=
  let s1 := s.modThr c.core c.bctx c.w fun t =>
    let t1 := t.learnEnds s (c.mmu b (t.privileged c.lanes))
    let t2 := (maskLanes m).foldl (fun t l => t.leaveBodies (laneBit l) c.pc (target l)) t1
    t2.jump c m target
  let rest := c.lanes &&& ~~~m
  if rest = 0 then s1 else s1.endClause c rest

/-- BRA (R428). -/
def execBra (w : BraW) (s : State) : Host.Outcome State Fault Refusal :=
  ctlWordOp (.bra w) s (fun _ _ _ => .go) fun c b t =>
    s.transfer c b (maskOf fun l => c.lanes.getLsbD l && t.pred w.pred.toNat l != w.psense) fun _ => branchTarget c w.off

/-- SBR (R428): read once, so every lane goes one way. -/
def execSbr (w : BraW) (s : State) : Host.Outcome State Fault Refusal :=
  ctlWordOp (.sbr w) s (fun _ _ _ => .go) fun c b _ =>
    s.transfer c b (if b.qpred w.pred.toNat != w.psense then c.lanes else 0) fun _ => branchTarget c w.off

/-- BRX and RET (R429). -/
def jumpRegister (i : Instr) (w : BrxW) (s : State) : Host.Outcome State Fault Refusal :=
  let n := (fld w.sa 0 7).toNat
  ctlUniOp i s (fun _ => if w.vr then [] else [w.sa.toNat])
    (fun _ b t =>
      if w.vr then Gate.first
        [ Gate.unless (n % 2 == 0 && decide (n + 1 < t.poolb)) .operandRange,
          (match [n, n + 1].find? t.isEmpty with
            | some r => if w.ea then .trap .regEmpty else .wait (.emptyReg false r)
            | none => .go) ]
      else uniSrcGate b w.sa w.ea)
    fun c b t =>
      let s0 := if w.vr ∨ w.sa = 0xFF then s else s.noteUnis c b [w.sa.toNat] false
      let raw (l : Nat) : DWord := if w.vr then t.reg64 n l else srcU b w.sa w.lit
      let clear (v : DWord) : DWord := v &&& ~~~0x0F00000000000000
      let bad := maskOf fun l => c.lanes.getLsbD l && fld (raw l) 60 3 != (if (raw l).getLsbD 63 then 7 else 0)
      let good := c.lanes &&& ~~~bad
      let s1 := if good = 0 then s0 else s0.transfer { c with lanes := good } b good fun l => clear (raw l)
      if bad = 0 then s1
      else { s1.trap c b t { cause := .branchTarget, lanes := bad, faulting := bad, addr := raw (lowestLane bad), npc := c.pc } with
             focus := none }

/-- BRX (R429). -/
def execBrx (w : BrxW) (s : State) : Host.Outcome State Fault Refusal := jumpRegister (.brx w) w s
/-- RET (R429). -/
def execRet (w : BrxW) (s : State) : Host.Outcome State Fault Refusal := jumpRegister (.ret w) w s

/-- CALL (R430): the link goes to a lane pair in the lane stream, to a uniform register elsewhere. -/
def execCall (w : CallW) (s : State) : Host.Outcome State Fault Refusal :=
  let n := w.lr.toNat
  ctlUniOp (.call w) s (fun c => if c.w < 32 then [] else [n])
    (fun c b t =>
      if c.w < 32 then Gate.first
        [ Gate.unless (n % 2 == 0 && decide (n + 1 < t.poolb)) .operandRange,
          (match [n, n + 1].find? t.isEmpty with
            | some r => .wait (.emptyReg false r)
            | none => .go) ]
      else uniRegGate b n)
    fun c b _ =>
      let s1 :=
        if c.w < 32 then s.modThr c.core c.bctx c.w fun t => t.putPair n c.lanes fun _ => c.next
        else (s.noteUnis c b [n] true).modBlk c.core c.bctx fun b => b.putS n c.next c.w
      s1.transfer c b c.lanes fun _ => branchTarget c w.off

/-! ### Meeting registers (R431) -/

/-- SETMR: the old MR to a pair unless ND, then the new MR in every lane of the sub-warp (R431). -/
def setMr (i : Instr) (vd : BitVec 7) (nd : Bool) (src : Option Nat) (new : Cur → Thr → Nat → DWord) (s : State) :
    Host.Outcome State Fault Refusal :=
  let n := vd.toNat
  ctlWordOp i s
    (fun _ _ t =>
      let pairOk (r : Nat) : Bool := r % 2 == 0 && decide (r + 1 < t.poolb)
      Gate.first
        [ Gate.unless ((nd || pairOk n) && src.all pairOk) .operandRange,
          (match ((src.map fun r => [r, r + 1]).getD [] ++ if nd then [] else [n, n + 1]).find? t.isEmpty with
            | some r => .wait (.emptyReg false r)
            | none => .go) ])
    fun c _ t =>
      let t1 := if nd then t else t.putPair n c.lanes fun l => (t.lane l).mr
      let t2 : Thr := { t1 with lanes := t1.lanes.mapIdx fun l x => if c.lanes.getLsbD l then { x with mr := new c t l } else x }
      (s.modThr c.core c.bctx c.w fun _ => t2).retire c c.lanes

/-- SETMR with a label (R431). -/
def execSetmrLabel (w : SetmrLW) (s : State) : Host.Outcome State Fault Refusal :=
  setMr (.setmrLabel w) w.vd w.nd none (fun c _ _ => branchTarget c w.off) s
/-- SETMR with a register pair (R431). -/
def execSetmrRegister (w : SetmrRW) (s : State) : Host.Outcome State Fault Refusal :=
  setMr (.setmrRegister w) w.vd w.nd (some w.src.toNat) (fun _ t l => t.reg64 w.src.toNat l) s

/-! ### Hardware loops (R432 to R434) -/

/-- LOOP (R181, R432). -/
def execLoop (w : LoopW) (s : State) : Host.Outcome State Fault Refusal :=
  ctlUniOp (.loop w) s (fun _ => [w.sa.toNat]) (fun _ b _ => uniSrcGate b w.sa w.ea) fun c b t =>
    let n := w.lvl.toNat
    let count : Word := (srcU b w.sa w.lit).setWidth 32
    if (t.loop n).active || (List.range 3).any fun k => (decide (k < n) && !(t.loop k).active) || (decide (n < k) && (t.loop k).active) then
      s.trapWord c b t .loopNest c.lanes
    else
      let s1 := if w.sa = 0xFF then s else s.noteUnis c b [w.sa.toNat] false
      (s1.modThr c.core c.bctx c.w fun t =>
        t.setLoop n
          { active := true, lc := if count = 0 then 1 else count, start := c.next
            stop := bodyEnd s (c.mmu b (t.privileged c.lanes)) n c.next 256 c.next
            mask := c.lanes }).endClause c c.lanes

/-- LOOPBRK (R433): always taken in a uniform stream, whose level and those inside it it ends. -/
def execLoopbrk (w : BrkW) (s : State) : Host.Outcome State Fault Refusal :=
  ctlWordOp (.loopbrk w) s (fun _ _ _ => .go) fun c b t =>
    let n := w.lvl.toNat
    if !(t.loop n).active then s.trapWord c b t .loopNest c.lanes
    else
      let m := if c.w < 32 then maskOf fun l => c.lanes.getLsbD l && t.pred w.pred.toNat l != w.psense else c.lanes
      let s1 := s.modThr c.core c.bctx c.w fun t =>
        (if c.w < 32 then t.leaveLoops n m else t.closeLoops n).jump c m fun _ => branchTarget c w.off
      let rest := c.lanes &&& ~~~m
      if rest = 0 then s1 else s1.endClause c rest

/-! ### EXIT and TRET (R435, R442) -/

/-- The lanes of the trap sub-warp that have not left the handler: they are in it, or wait in it for a service fault's delivery (R282). -/
def Thr.handlerLanes (t : Thr) : Word :=
  t.lanesWhere fun l => l.stat != .exited && (match l.trap with
    | .handler => true
    | .pending n => t.trapQ.any fun r => r.n == n && r.inside
    | _ => false)

/-- The end of handler mode once every lane of the trap sub-warp that has not exited has issued TRET (R281, R442): the
lanes return, leaving the loops out of whose bodies a TNPC that the handler set takes them (R182), and the next trap is taken. -/
def State.endHandler (s : State) (core bctx w : Nat) : State :=
  match s.thr? core bctx w with
  | none => s
  | some t => match t.handling with
    | none => s
    | some r =>
      if t.handlerLanes ≠ 0 then s
      else
        let back := t.lanesWhere fun l => l.trap == .returned
        let resume := if r.whenT = 0 then r.pc else r.npc
        (s.modThr core bctx w fun t =>
          let t1 := if t.tnpc = r.npc then t else t.leaveBodies back r.npc t.tnpc
          { t1.modLanes back (fun l => l.return t.tnpc r.npc resume) with handling := none }).nextTrap core bctx w

/-- Whether TNPC can be returned to (R311): the value the device wrote, or the address of a header; none while its
translation is not at hand. -/
def State.returnTarget (s : State) (c : Cur) (b : Blk) (t : Thr) (r : TrapRec) : Option Bool :=
  if t.tnpc = r.npc then some true
  else if t.tnpc.toNat % 4 ≠ 0 ∨ !canonicalVa t.tnpc ∨ isWindow t.tnpc then some false
  else match s.lookup (c.mmu b true) t.tnpc with
    | .absent => none
    | .faulted => some false
    | .hit _ => s.headerAt (c.mmu b true) t.tnpc

/-- What follows when lanes of the trap sub-warp leave the handler, by TRET or by EXIT, giving `go`: where they are the last and others
return, TNPC is checked first, which may take a walk; one that names no header is BRANCH_TARGET in handler mode (R281, R282, R311,
R442). -/
def State.leaveHandler (s : State) (c : Cur) (b : Blk) (t : Thr) (returns : Bool) (go : State) : State :=
  match t.handling with
  | none => go
  | some r =>
    if t.handlerLanes &&& ~~~c.lanes ≠ 0 ∨ !returns then go
    else match s.returnTarget c b t r with
      | none => (s.startWalk (c.mmu b true) t.tnpc .fetch (c.site t)).stall c
      | some false => s.kill b.info.ctx .branchTarget
      | some true => go

/-- A block whose last lanes exit in the handler of a fault has been terminated by that fault (R103). -/
def State.failExit (s : State) (c : Cur) (r : Option TrapRec) : State :=
  match r with
  | none => s
  | some r => s.modBlk c.core c.bctx fun b =>
    if !r.cause.harmless && b.failed.isNone && b.thrs.all (fun p => p.2.exited) then { b with failed := some r.cause } else b

/-- EXIT (R240, R276, R435): a stall until the lanes' replies have landed and their stores are acknowledged, in a stream until its
operations are released at block scope, and in a matrix stream until its class 5 commands have completed. -/
def execExit (z : BitVec 26) (s : State) : Host.Outcome State Fault Refusal :=
  ctlWordOp (.exit z) s (fun _ _ _ => .go) fun c b t =>
    let pending := s.reqs.any fun r => r.core == c.core && r.bctx == c.bctx && r.w == c.w && r.adm == b.adm
      && r.mask &&& c.lanes != 0
    if (if c.w < 32 then pending else s.exitOwes c.core c.bctx c.w b.adm) then s.stall c
    else
      let s1 := s.modThr c.core c.bctx c.w fun t =>
        (t.modLanes c.lanes fun l => { l with stat := .exited, trap := .none, clause := none, via := none }).leaveLoops 0 c.lanes
      let s2 := s1.failExit c (t.handling.filter fun _ => t.inHandler && t.privileged c.lanes)
      s.leaveHandler c b t (t.privileged c.lanes && t.lanes.any fun l => l.trap == .returned)
        { (s2.endHandler c.core c.bctx c.w).afterExit c with focus := none }

/-- TRET (R281, R311, R442). -/
def execTret (z : BitVec 26) (s : State) : Host.Outcome State Fault Refusal :=
  ctlWordOp (.tret z) s (fun _ _ _ => .go) fun c b t =>
    match t.handling with
    | none => s.trapWord c b t .privilegedUse c.lanes
    | some _ =>
      s.leaveHandler c b t true
        { (s.modThr c.core c.bctx c.w fun t =>
            t.modLanes c.lanes fun l => { l with trap := .returned, stat := .blocked .trapTurn, clause := none }).endHandler
              c.core c.bctx c.w with focus := none }

/-! ### Special registers (R437 to R439) -/

/-- Scope of a special register (R438): lane, warp, uniform, or no register. -/
inductive SregScope where
  | lane
  | warp
  | uniform
  | none
  deriving DecidableEq, Repr

/-- The special registers by number (R438). -/
def sregScope (n : Nat) : SregScope :=
  if n = 0x00 ∨ n = 0x0A ∨ (0x18 ≤ n ∧ n ≤ 0x1B) then .lane
  else if n = 0x08 ∨ n = 0x09 ∨ n = 0x0C ∨ (0x10 ≤ n ∧ n ≤ 0x16) then .warp
  else if (0x01 ≤ n ∧ n ≤ 0x06) ∨ n = 0x0B ∨ n = 0x0D then .uniform
  else .none

/-- The special registers with a writable field (R438). -/
def sregWritable (n : Nat) : Bool := [0x08, 0x09, 0x0A, 0x0B, 0x12, 0x18, 0x19, 0x1A, 0x1B].contains n

/-- Cycles of a core's front-end clock (R57, R438): nine fortieths of a cycle a tick for each sixteenth of 3.6 GHz; a gated
island counts none. -/
def State.cycles80 (s : State) (core : Nat) : Nat :=
  let k := s.coreAt core
  let n := s.pointOf (coreIsland core 5)
  k.cyc80 + (s.tick - k.cycAt) * (if n = 15 then 0 else 18 * (16 - n))

/-- The value of a special register in a lane (R438); TICK, CYCLE and BLKTIME are read live. -/
def sregValue (s : State) (c : Cur) (b : Blk) (t : Thr) (n l : Nat) : DWord :=
  match n with
  | 0x00 => BitVec.ofNat 64 l
  | 0x01 => BitVec.ofNat 64 c.w
  | 0x02 => at64 0 c.core ||| at64 8 (c.core / 8) ||| at64 13 c.bctx
  | 0x03 => BitVec.ofNat 64 b.info.ctx
  | 0x04 => BitVec.ofNat 64 s.tick
  | 0x05 => BitVec.ofNat 64 (s.cycles80 c.core / 80)
  | 0x06 => BitVec.ofNat 64 (s.tick - b.startAt)
  | 0x08 => zext 64 t.frm
  | 0x09 => zext 64 t.srSeed
  | 0x0A => zext 64 (t.srCnt.getD l 0)
  | 0x0B => t.cpystat
  | 0x0C => BitVec.ofNat 64 t.poolb
  | 0x0D => zext 64 t.lseq
  | 0x10 => t.tcause
  | 0x11 => t.tpc
  | 0x12 => t.tnpc
  | 0x13 => t.taddr
  | 0x14 => t.tmask
  | 0x15 => t.tword
  | 0x16 => t.tsite
  | _ => zext 64 ((t.tscr.getD (n - 0x18) []).getD l 0)

/-- The VKIND of a special register that is read as a recorded value (R129, R439). -/
def sregKind (n : Nat) : Option Nat := if n = 0x04 then some 0 else if n = 0x05 then some 1 else if n = 0x06 then some 3 else none

/-- Whether earlier class 2 results of a warp are still in flight, for which accesses to FRM wait (R344). -/
def State.sfuBusy (s : State) (c : Cur) (b : Blk) : Bool :=
  s.sfu.any fun r => r.core == c.core && r.bctx == c.bctx && r.w == c.w && r.adm == b.adm

/-- The reserved uses of a special register (R438): no such register, a scope the stream lacks, a lane register without a
lane operand. -/
def sregUse (c : Cur) (n : Nat) (laneOperand : Bool) : Bool :=
  match sregScope n with
  | .none => false
  | .uniform => true
  | .warp => decide (c.w < 32)
  | .lane => decide (c.w < 32) && laneOperand

/-- SREAD (R437 to R439). -/
def execSread (w : UniW) (s : State) : Host.Outcome State Fault Refusal :=
  let n := w.sb.toNat
  let d := w.sd.toNat
  ctlUniOp (.sread w) s (fun _ => if w.eb then [] else [d])
    (fun c b t => Gate.first
      [ Gate.unless (sregUse c n w.eb) .reservedField,
        Gate.unless (if w.eb then decide (d < t.poolb) else w.sd != 0xFF) .operandRange,
        if w.eb then (if t.isEmpty d then .wait (.emptyReg false d) else .go) else uniRegGate b d ])
    fun c b t =>
      let done (s : State) (v : Nat → DWord) : State :=
        if w.eb then (s.modThr c.core c.bctx c.w fun t => t.putRow d c.lanes fun l => (v l).setWidth 32).retire c c.lanes
        else s.putUni c b d (v 0)
      match sregKind n with
      | some k =>
        let issuer := issuerOf c.bctx c.w
        if s.heldBack c.core c.bctx c.w b.adm c.lanes || !s.mayStart c.core issuer (lowestLane c.lanes) then s.stall c
        else
          let lanes := if w.eb then maskLanes c.lanes else [0]
          let (s1, vs) := s.valueOf c.core issuer (lowestLane c.lanes) k (if w.eb then c.lanes else 0)
            (lanes.map fun _ => sregValue s c b t n 0)
          done (s1.note c.core issuer (lowestLane c.lanes) objNone false none none) fun l =>
            vs.getD ((lanes.takeWhile fun i => i != l).length) 0
      | none =>
        if n = 0x08 ∧ s.sfuBusy c b then s.stall c
        else done s fun l => sregValue s c b t n l

/-- A field with write-one-to-clear bits written: `rw` bits take the value, `w1c` bits are cleared by ones (R4). -/
def writeFields {k : Nat} (old v rw w1c : BitVec k) : BitVec k := ((old &&& ~~~rw) ||| (v &&& rw)) &&& ~~~(v &&& w1c)

/-- SWRITE (R437, R438). -/
def execSwrite (w : UniW) (s : State) : Host.Outcome State Fault Refusal :=
  let n := w.sb.toNat
  let a := w.sa.toNat
  ctlUniOp (.swrite w) s (fun _ => if w.eb then [] else [a])
    (fun c b t => Gate.first
      [ Gate.unless (sregUse c n true && sregWritable n && (!w.eb || sregScope n == .lane)) .reservedField,
        Gate.unless (!w.eb || decide (a < t.poolb)) .operandRange,
        if w.eb then (if t.isEmpty a then (if w.ea then .trap .regEmpty else .wait (.emptyReg false a)) else .go)
        else uniSrcGate b w.sa w.ea ])
    fun c b t =>
      if n = 0x08 ∧ s.sfuBusy c b then s.stall c
      else
        let s0 := if w.eb ∨ w.sa = 0xFF then s else s.noteUnis c b [a] false
        let v := if w.eb then 0 else srcU b w.sa w.lit
        let lv (l : Nat) : Word := if w.eb then t.reg a l else v.setWidth 32
        let perLane (old : List Word) : List Word :=
          (List.range 32).map fun l => if c.lanes.getLsbD l then lv l else old.getD l 0
        (s0.modThr c.core c.bctx c.w fun t =>
          match n with
          | 0x08 => { t with frm := writeFields t.frm (v.setWidth 32) 0xFB 0x1F00 }
          | 0x09 => { t with srSeed := v.setWidth 32 }
          | 0x0A => { t with srCnt := perLane t.srCnt }
          | 0x0B => { t with cpystat := writeFields t.cpystat v 0xFFF0 0xF }
          | 0x12 => { t with tnpc := v }
          | _ => { t with tscr := lmod (n - 0x18) perLane t.tscr }).retire c c.lanes

/-! ### SLOTQ (R440) -/

/-- What a selector of SLOTQ names (R440), or nothing where it is out of range. -/
def slotTouch (c : Cur) (sel : DWord) : Option (Calendar → BitVec 128 → Bool) :=
  let cls := (fld sel 0 4).toNat
  let k := (fld sel 4 11).toNat
  let isle (n : Nat) (cal : Calendar) (e : BitVec 128) : Bool := (cal.islands e).getLsbD n
  let lnk (n : Nat) (_ : Calendar) (e : BitVec 128) : Bool := (entLinks e).getLsbD n
  if fld sel 15 49 ≠ 0 then none
  else match cls with
    | 0 => if k < 12 then some fun _ e => (entStacks e).getLsbD k else none
    | 1 => if k < 24 then some (lnk k) else none
    | 2 => if k < 4 then some (lnk (24 + k)) else none
    | 3 => if k < 2 then some (lnk (28 + k)) else none
    | 4 => if k < 9 then some (lnk (30 + k)) else none
    | 5 => if k < 1280 then some (isle k) else none
    | 6 => if k = 0 then some fun _ e => entStacks e != 0 else none
    | 7 => if k = 0 then some (isle (partyIsland c.core c.w)) else none
    | _ => none

/-- The word SLOTQ writes at a tick (R440).  The spec states no DIST for a start that is 2^32 ticks off or further: a free value (log
entry 2). -/
def slotWord (tick : Nat) (a : Option (Nat × Nat × Nat)) : DWord :=
  match a with
  | some (d, len, k) => at64 0 (if d < 2 ^ 32 then d else (Config.freeDist tick).toNat) ||| at64 32 (len % 2 ^ 24) ||| at64 56 k
  | none => at64 0 0xFFFFFFFF ||| at64 56 7

/-- SLOTQ (R61, R440). -/
def execSlotq (w : UniW) (s : State) : Host.Outcome State Fault Refusal :=
  uniWordOp (.slotq w) w s fun s0 c b t =>
    match slotTouch c (srcU b w.sa w.lit) with
    | none => s.trapWord c b t .operandRange c.lanes
    | some f =>
      let issuer := issuerOf c.bctx c.w
      if s.heldBack c.core c.bctx c.w b.adm c.lanes || !s.mayStart c.core issuer (lowestLane c.lanes) then s.stall c
      else
        let (s1, vs) := s0.valueOf c.core issuer (lowestLane c.lanes) 2 0 [slotWord s.tick (s.slotAnswer f)]
        (s1.note c.core issuer (lowestLane c.lanes) objNone false none none).putUni c b w.sd.toNat (vs.headD 0)

/-! ### TRAP and BKPT (R441) -/

/-- A software trap of every lane of the sub-warp; its handler returns to the word after (R281, R441). -/
def softTrap (i : Instr) (cause : Cause) (s : State) : Host.Outcome State Fault Refusal :=
  ctlWordOp i s (fun _ _ _ => .go) fun c b t =>
    { s.trap c b t { cause := cause, lanes := c.lanes, faulting := c.lanes, npc := c.next } with focus := none }

/-- TRAP (R441). -/
def execTrap (w : CodeW) (s : State) : Host.Outcome State Fault Refusal := softTrap (.trap w) .softwareTrap s
/-- BKPT (R441). -/
def execBkpt (w : CodeW) (s : State) : Host.Outcome State Fault Refusal := softTrap (.bkpt w) .breakpoint s

/-! ### POOLB and YIELD (R443, R444) -/

/-- Rows given undefined contents: a seed of their own (R175). -/
def Thr.blankRows (t : Thr) (seed lo n : Nat) : Thr :=
  (List.range n).foldl
    (fun t j => { t with rows := nput (lo + j) ((List.range 32).map fun l => Config.freeWord seed (lo + j) l) t.rows }) t

/-- POOLB (R175, R443). -/
def execPoolb (w : UniW) (s : State) : Host.Outcome State Fault Refusal :=
  uniWordOp (.poolb w) w s fun s0 c b t =>
    let n := (srcU b w.sa w.lit).toNat
    let old := t.poolb
    if n = 0 ∨ min 128 b.info.sliceRows < n then s.trapWord c b t .poolBoundary c.lanes
    else if n < old ∧ (t.empty.any fun r => decide (n ≤ r) && decide (r < old)) then s.stall c
    else if old < n ∧ s.rowsHeld c.core c.bctx c.w old (n - old) then s.trapWord c b t .poolBoundary c.lanes
    else
      ((s0.modThr c.core c.bctx c.w fun t =>
        { t.blankRows s.fresh (min n old) (max n old - min n old) with poolb := n }).bump).retire c c.lanes

/-- YIELD (R444): the sub-warp gives up its next selection; the block's watchdog starts again. -/
def execYield (z : BitVec 26) (s : State) : Host.Outcome State Fault Refusal :=
  ctlWordOp (.yield z) s (fun _ _ _ => .go) fun c _ _ =>
    let s1 := (s.retireBlocked c c.lanes .yielded).modBlk c.core c.bctx fun b => { b with wdog := 0, wdogAt := s.tick }
    { s1 with focus := none }

end Sys2Proof.Machine
end

