-- ==== Sys2Proof/Machine/Frame.lean ====
section
/-! DEFINITION. The damper calendar as the device runs it (R54 to R62, R65): the calendar page, frames, validation and
commit, pod alignment, and the start and end of slots with the work they do. -/

namespace Sys2Proof.Machine

/-! ### The calendar page (R60) -/

/-- The entries of a calendar as bytes, padded to 256 entries. -/
def Calendar.entryBytes (c : Calendar) : List Byte :=
  (c.entries.map fun e => leBytes 16 e.toNat).flatten ++ List.replicate (4096 - 16 * c.entries.length) 0

/-- The island masks of a calendar as bytes, padded to 64 masks. -/
def Calendar.maskBytes (c : Calendar) : List Byte :=
  (c.masks.map fun m => leBytes 160 m.toNat).flatten ++ List.replicate (10240 - 160 * c.masks.length) 0

/-- A calendar that holds nothing. -/
def Calendar.empty : Calendar := { entries := [], masks := [] }

/-- The fields at the head of the calendar page (R60). -/
def Cal.head (k : Cal) : List Byte :=
  let next := k.next.getD Calendar.empty
  leBytes 8 k.seq.toNat ++ leBytes 4 k.gen.toNat ++ leBytes 4 k.nextGen.toNat ++ leBytes 8 k.frame.toNat
    ++ leBytes 8 k.frameStart ++ leBytes 8 k.nextFrame.toNat ++ leBytes 2 k.cur.entries.length
    ++ leBytes 2 next.entries.length ++ leBytes 4 (k.next.isSome.toNat + 2 * k.podAligned.toNat) ++ leBytes 8 k.align

/-- The calendar page rewritten, SEQ stepped before and after (R60); HBM stack 0 holds it once it has trained (R29). -/
def State.updatePage (s : State) : State :=
  if s.dev.stage.toNat < 3 ∨ 4 < s.dev.stage.toNat then s
  else
    let k := { s.cal with seq := s.cal.seq + 2 }
    let next := k.next.getD Calendar.empty
    let zeros (n : Nat) : List Byte := List.replicate n 0
    [(0, k.head), (0x38, zeros 0xFC8), (0x1000, k.cur.entryBytes), (0x2000, next.entryBytes), (0x3000, k.cur.maskBytes),
        (0x5800, next.maskBytes), (0x8000, zeros 0x8000)].foldl
      (fun s p => s.put (calPageBase + p.1) p.2) { s with cal := k }

/-! ### Frames (R54, R59, R62, R17, R35) -/

/-- How far ALIGN moves at the next frame boundary: at most 4 ticks towards the pod reference (R62). -/
def Cal.shift (k : Cal) : Int :=
  if k.alignEn && !k.podRef then max (-4) (min 4 k.podOffset) else 0

/-- The tick at which the next frame begins (R54, R62). -/
def Cal.nextStart (k : Cal) : Nat := ((k.frameStart : Int) + 65536 + k.shift).toNat

/-- The number the next frame takes: the reference's where one has been measured, else the next one (R54, R62). -/
def Cal.nextNumber (k : Cal) : DWord :=
  match k.podFrame with
  | some f => if k.alignEn && !k.podRef then f + 1 else k.frame + 1
  | none => k.frame + 1

/-- Whether every slot of the frame has run and ended. -/
def Cal.frameOver (k : Cal) : Bool :=
  k.slots.isEmpty && (List.range k.cur.entries.length).all k.started.contains

/-- The shares of ports that went down moved to ports in service of the same switch plane, where there is one (R17); which port of
the plane takes a share is a hash the spec does not give. -/
def Links.moveShares (l : Links) : Links :=
  let up (p : Nat) : List Nat := (List.range 24).filter fun q =>
    Config.planeOf q == Config.planeOf p && (l.ports.getD q VPort.reset).st == 1
  let goes (p : Nat) : Nat := (up p).getD (Config.planeHash p % (up p).length) p
  { l with
    moved := (List.range 24).foldl
      (fun m p => if l.pendingMove.contains (ngetD m p p) then nput p (goes (ngetD m p p)) m else m) l.moved
    pendingMove := [] }

/-- The state at the start of a new frame. -/
def State.newFrame (s : State) : State :=
  let k := s.cal
  let number := k.nextNumber
  let start := k.nextStart
  let due := k.next.isSome && decide (k.nextFrame.toNat ≤ number.toNat)
  let off := k.podOffset - k.shift
  let aligned := k.alignEn && (k.podRef || (k.podSeen && decide (-32 ≤ off ∧ off ≤ 32)))
  let clear := s.dev.throttle && !s.dev.overLimit && decide (s.dev.clearSince ≤ k.frameStart)
  { s with
    cal := { k with
      cur := if due then k.next.getD k.cur else k.cur
      gen := if due then k.nextGen else k.gen
      next := if due then none else k.next
      nextGen := if due then 0 else k.nextGen
      nextFrame := if due then 0 else k.nextFrame
      frame := number
      frameStart := start
      align := start % 65536
      podOffset := off
      podFrame := none
      podAligned := aligned
      slots := []
      started := [] }
    links := s.links.moveShares
    dev := { s.dev with throttle := if clear then false else s.dev.throttle } }

/-- FRAME_BOUNDARY (R17, R35, R54, R59, R60, R62): a new frame begins once its start has come and the slots of the old one
have ended. -/
def execFrameBoundary (s : State) : Host.Outcome State Fault Refusal :=
  if s.tick < s.cal.nextStart ∨ s.cal.frameOver = false then .next s else .next (s.newFrame.updatePage).admitReqs

/-! ### Commit and validation (R58, R59) -/

/-- A write of CALCTL (R59): its RW fields, and COMMIT unless a validation is in progress. -/
def State.writeCalctl (s : State) (v : DWord) : State :=
  { s with cal := { s.cal with
      count := fld v 16 9
      podRef := v.getLsbD 25
      alignEn := v.getLsbD 26
      podSeen := s.cal.podSeen && v.getLsbD 26
      busy := s.cal.busy || v.getLsbD 0 } }

/-- CALCTL_COMMIT (R59): argument `v` is the value written to CALCTL. -/
def execCalctlCommit (s : State) : Host.Outcome State Fault Refusal :=
  if s.arg.v.getLsbD 0 then .next (s.writeCalctl s.arg.v) else .next s

/-- A byte of the staging area; outside memory its value is undefined. -/
def State.stagedByte (s : State) (a : Nat) : Byte :=
  match s.homeOf a with
  | .ok h => readByte s.mem.bytes h
  | .error _ => Config.freeByte s.fresh a

/-- A number of `n` bytes in the staging area. -/
def State.stagedNat (s : State) (a n : Nat) : Nat := leNat ((List.range n).map fun i => s.stagedByte (a + i))

/-- The staged calendar (R59). -/
def State.staged (s : State) : Calendar :=
  let base := s.cal.src.toNat
  { entries := (List.range s.cal.count.toNat).map fun i => BitVec.ofNat 128 (s.stagedNat (base + 16 * i) 16)
    masks := (List.range 64).map fun i => BitVec.ofNat 1280 (s.stagedNat (base + 0x1000 + 160 * i) 160) }

/-- The give of a slot kind (R57). -/
def kindGive (k : Nat) : Nat := [8, 4, 4, 16, 16, 2].getD k 0
/-- The least length of a slot kind (R57). -/
def kindLen (k : Nat) : Nat := [4, 4, 2, 1, 8, 4].getD k 1

/-- Whether two entries name a common stack, link or island (R58). -/
def Calendar.share (c : Calendar) (e f : BitVec 128) : Bool :=
  entStacks e &&& entStacks f != 0 || entLinks e &&& entLinks f != 0 || c.islands e &&& c.islands f != 0

/-- The two islands that are always on (R57). -/
def alwaysOn (k : Nat) : Bool := k == 1239 || k == 1279

/-- Whether an operating point is open to an island (R57). -/
def pointOk (k p : Nat) : Bool :=
  if alwaysOn k then p == 0 else if scaledIsland k then decide (p ≤ 12) || p == 15 else p == 0 || p == 15

/-- The least-numbered condition of R58 that an entry fails, or 0.  A start exactly the give after an entry's end is not within
the give: DESIGN CHOICE, as R58 can be read either way (log entry 41). -/
def Calendar.entryReason (c : Calendar) (i : Nat) (e : BitVec 128) : Nat :=
  let kind := entKind e
  let last := entStart e + entLen e
  let others := c.entries.zipIdx.filter fun p => p.2 != i && c.share e p.1
  let hbm := kind == 0 || kind == 2 || kind == 4
  let lnk := kind == 1 || kind == 4
  let isl := kind == 3 || kind == 4 || kind == 5
  if 6 ≤ kind then 1
  else if 1024 < last ∨ entLen e < kindLen kind then 2
  else if others.any fun p => decide (entStart p.1 < last) && decide (entStart e < entStart p.1 + entLen p.1) then 3
  else if 1024 < last + kindGive kind
      ∨ (others.any fun p => decide (last ≤ entStart p.1) && decide (entStart p.1 < last + kindGive kind)) = true then 4
  else if (entStacks e != 0 && !hbm) || (entLinks e != 0 && !lnk) || (c.islands e != 0 && !isl) then 6
  else if kind = 5 ∧ ((List.range 1280).any fun k => (c.islands e).getLsbD k && !pointOk k ((entParam e).toNat % 16)) = true then 7
  else if fld e 23 1 ≠ 0 ∨ fld e 75 5 ≠ 0 ∨ fld e 87 9 ≠ 0 ∨ fld e 112 16 ≠ 0
      ∨ (entParam e).toNat / (if kind = 5 then 16 else 1) ≠ 0 then 8
  else 0

/-- Whether a stack's REFRESH slots satisfy condition 5 of R58. -/
def Calendar.refreshOk (c : Calendar) (stack : Nat) : Bool :=
  let es := c.entries.filter fun e => entKind e == 0 && (entStacks e).getLsbD stack
  decide (1536 ≤ (es.map fun e => 64 * entLen e).foldl (· + ·) 0)
    && es.all fun e =>
      let stop := entStart e + entLen e
      decide ((es.map fun f => (entStart f + 1024 - stop % 1024) % 1024).foldl min 1024 * 64 ≤ 40960)

/-- Whether the CLOCK slots name every island but the two always-on ones, and neither of those (R58). -/
def Calendar.clockOk (c : Calendar) : Bool :=
  let all := (c.entries.filter fun e => entKind e == 5).foldl (fun m e => m ||| c.islands e) 0
  (List.range 1280).all fun k => all.getLsbD k == !alwaysOn k

/-- The first frame that starts at least 65,536 ticks from now (R59). -/
def State.earliestFrame (s : State) : Nat :=
  s.cal.frame.toNat + (s.tick + 65536 - s.cal.frameStart + 65535) / 65536

/-- The reason a submitted calendar is rejected for, with the first failing entry where there is one; or nothing (R58).
Which entry the conditions on the whole calendar report is not stated. -/
def State.calReason (s : State) (c : Calendar) : Option (Nat × Option Nat) :=
  if 256 < s.cal.count.toNat then some (2, none)
  else match c.entries.zipIdx.find? fun p => c.entryReason p.2 p.1 != 0 with
    | some p => some (c.entryReason p.2 p.1, some p.2)
    | none =>
      if !(List.range 12).all c.refreshOk then some (5, none)
      else if s.cal.target.toNat ≠ 0 ∧ s.cal.target.toNat < s.earliestFrame then some (9, none)
      else if s.cal.next.isSome then some (10, none)
      else if !c.clockOk then some (11, none)
      else none

/-- CALENDAR_VALIDATION_DONE (R58, R59, R60). -/
def execCalendarValidationDone (s : State) : Host.Outcome State Fault Refusal :=
  if !s.cal.busy then .next s
  else
    let c := s.staged
    match s.calReason c with
    | some (r, e) =>
      .next ({ s with cal := { s.cal with
        busy := false, result := 2, reason := BitVec.ofNat 4 r
        failEntry := match e with
          | some i => BitVec.ofNat 8 i
          | none => (Config.freeWord s.fresh 0 0).setWidth 8 } } : State).bump
    | none =>
      .next ({ s with cal := { s.cal with
        busy := false, result := 1, reason := 0, failEntry := 0, next := some c, nextGen := s.cal.gen + 1
        nextFrame := if s.cal.target = 0 then BitVec.ofNat 64 s.earliestFrame else s.cal.target } } : State).bump.updatePage

/-! ### Pod alignment (R62) -/

/-- A distance in ticks brought into half a frame around zero. -/
def centred (d : Int) : Int := (d + 32768) % 65536 - 32768

/-- The offset from a timestamp of the pod reference: how far the reference's frame starts lie after this device's, and the
reference's number of this device's current frame. -/
def State.podStamp (s : State) (refTick refFrame refStart : DWord) : State :=
  let refHere : Int := (s.tick : Int) - ((refTick.toNat : Int) - (refStart.toNat : Int))
  let off := centred (refHere - (s.cal.frameStart : Int))
  let ahead := ((s.cal.frameStart : Int) + off - refHere) / 65536
  { s with cal := { s.cal with podOffset := off, podSeen := true, podFrame := some (refFrame + BitVec.ofInt 64 ahead) } }

/-- POD_TIMESTAMP_EXCHANGE (R62): arguments `a` port; it is carried in a LINKCAL slot of the port.  The pod reference sends its
timestamp to the device with DEVID `b` on virtual channel 1; any other device measures its offset from `v` the reference's tick,
`v2` its frame number and `v3` its frame start. -/
def execPodTimestampExchange (s : State) : Host.Outcome State Fault Refusal :=
  let inSlot := s.slotNow fun e => entKind e == 1 && (entLinks e).getLsbD s.arg.a
  if !s.cal.alignEn || !inSlot || !decide (s.arg.a < 24) then .next s
  else if s.cal.podRef then
    .next (if s.chanOpen s.arg.a 1 then
      s.sendMsg s.arg.a (BitVec.ofNat 16 s.arg.b) 0 0
        (.stamp (BitVec.ofNat 64 s.tick) s.cal.frame (BitVec.ofNat 64 s.cal.frameStart))
      else s)
  else .next (s.podStamp s.arg.v s.arg.v2 s.arg.v3)

/-! ### What a slot holds back (R63, R65) -/

/-- Whether an entry names a resource of an engine command (R63). -/
def State.cmdMeets (s : State) (k : Cmd) (e : BitVec 128) : Bool :=
  match s.blkOf k.adm with
  | some (_, b) => (match k.op with
    | .coll _ _ => false
    | _ => touches (s.cmdTouch k b) (clusterIsland (k.core / 8)) s.cal.cur e)
  | none => false

/-- Whether an entry names a resource of a collective (R63). -/
def State.collMeets (s : State) (c : Coll) (e : BitVec 128) : Bool := touches collTouch (collIsland c.engine) s.cal.cur e

/-- The engine commands and collectives that hold a resource of an entry: a segment admitted and not ended. -/
def State.cmdHolders (s : State) (e : BitVec 128) : List Nat :=
  ((s.cmds.filter fun k => k.inFlight && s.cmdMeets k e).map fun k => k.id)
    ++ (s.colls.filter fun c => c.held && s.collMeets c e).map fun c => c.id

/-- The class 5 commands that hold an entry's Kiln island: MMA and MMAI, the others being never admitted (R399). -/
def State.kilnHolders (s : State) (e : BitVec 128) : List Nat :=
  let admitted (k : MCmd) : Bool := match k.op with
    | .mma _ | .mmai _ => true
    | _ => false
  (s.mcmds.filter fun k => admitted k && (s.cal.cur.islands e).getLsbD (coreIsland k.core 4)).map fun k => k.id

/-- The record of an engine abort (R135), with the destination lines that the segment has completed. -/
def State.abortRecord (s : State) (k : Cmd) : State :=
  s.recordAtrap k.agent Cause.slotOverrun.code (s.segLines k) (issuerOf k.bctx k.w) 0 k.pc k.lseq

/-- An engine command or collective aborted by a slot (R65). -/
def State.abortCmd (s : State) (id : Nat) : State :=
  match s.cmd? id, s.colls.find? fun c => c.id == id with
  | some k, _ => ((s.abortRecord k).failCopy id .slotOverrun).closeChunk k.agent 11
  | none, some c => s.abortColl c .slotOverrun
  | none, none => s

/-- A free window begins for what waits for an entry's resources and no other slot holds (R64): commands, collectives and the
Kilns' next commands. -/
def State.openWindows (s : State) (e : BitVec 128) : State :=
  let kiln (core : Nat) (e : BitVec 128) : Bool := (s.cal.cur.islands e).getLsbD (coreIsland core 4)
  { s with
    cmds := s.cmds.map fun q => if !q.inFlight && !q.finished && s.cmdMeets q e && !s.slotNow (s.cmdMeets q) then
      { q with opened := true } else q
    colls := s.colls.map fun c => if !c.held && s.collMeets c e && !s.slotNow (s.collMeets c) then { c with opened := true } else c
    cores := s.cores.map fun p =>
      if p.2.kilnWait.isSome && kiln p.1 e && !s.slotNow (kiln p.1) then
        (p.1, { p.2 with kilnWait := some true }) else p }

/-- A slot of an entry ends the free window of what still waits for its resources (R64). -/
def State.closeWindows (s : State) (e : BitVec 128) : State :=
  { s with
    cmds := s.cmds.map fun q => if q.opened && s.cmdMeets q e then { q with opened := false } else q
    colls := s.colls.map fun c => if c.opened && s.collMeets c e then { c with opened := false } else c
    cores := s.cores.map fun p =>
      if p.2.kilnWait == some true && (s.cal.cur.islands e).getLsbD (coreIsland p.1 4) then
        (p.1, { p.2 with kilnWait := some false }) else p }

/-- A class 5 command aborted by a slot: what it had not written is undefined, and its signals are delivered (R65). -/
def State.abortKiln (s : State) (id : Nat) : State :=
  match s.mcmds.find? fun k => k.id == id with
  | none => s
  | some k => match s.blk? k.core k.bctx with
    | none => { s with mcmds := s.mcmds.filter fun x => x.id != id }
    | some b =>
      let s1 := s.kilnEffect k b true
      let s2 := ({ s1 with mcmds := s1.mcmds.filter fun x => x.id != id }).dropReader k.core k.bctx id
      (((s2.kilnSignals k b).kilnFails k .slotOverrun).asyncTrap k.core k.bctx 32
        { cause := .slotOverrun, origin := 2, more := 0, serviced := false, pc := k.pc, addr := 0, lseq := k.lseq,
          issuer := 32 }).sweep

/-! ### The work of a slot (R39, R50, R51, R57) -/

/-- The link number of a test's resource: port or boundary (R53, R55). -/
def PendingTest.link (t : PendingTest) : Nat :=
  if t.unit = 3 then (fld t.loc 0 6).toNat else 30 + (fld t.loc 0 6).toNat

/-- Whether a SCRUB slot names a test's resource and is long enough for it (R50).  DESIGN CHOICE: the pool of a core belongs to no
one island; its test waits for a slot of the core's scheduler partition 0 (log entry 41). -/
def Calendar.tests (c : Calendar) (e : BitVec 128) (t : PendingTest) : Bool :=
  let len := entLen e * 64
  match t.unit.toNat with
  | 0 => (entStacks e).getLsbD (fld t.loc 0 4).toNat && decide (2048 ≤ len)
  | 1 => (c.islands e).getLsbD (clusterIsland (fld t.loc 0 5).toNat) && decide (256 ≤ len)
  | 2 => (c.islands e).getLsbD (coreIsland ((fld t.loc 0 5).toNat * 8 + (fld t.loc 5 3).toNat) 0) && decide (256 ≤ len)
  | 3 | 4 => (entLinks e).getLsbD t.link && decide (512 ≤ len)
  | _ => false

/-- A window changed. -/
def State.modWindow (s : State) (slot : Nat) (f : Window → Window) : State :=
  match nget s.links.windows slot with
  | none => s
  | some w => { s with links := { s.links with windows := nput slot (f w) s.links.windows } }

/-- The contributions of a window that satisfy a test complete, with FABRIC_ERROR or without; a request is served when it has sent
all of its contributions and its last one has completed (R20). -/
def State.endContribs (s : State) (slot : Nat) (mine : WinContrib → Bool) (err : Option Cause) : State :=
  match nget s.links.windows slot with
  | none => s
  | some w =>
    let rest := w.pend.filter fun p => !mine p
    (w.pend.filter mine).foldl
      (fun s p =>
        let last := !rest.any fun q => q.req == p.req
        s.modReq p.req fun r => { (match err with
            | some k => r.failLane p.lane k
            | none => r) with
          stage := if last && decide (r.ops.length ≤ r.sentN) then .served else r.stage })
      (s.modWindow slot fun w => { w with pend := rest })

/-- The contexts with a request outstanding on a port (R17): peer accesses, contributions, segments of copies whose peers are
known, and collectives. -/
def State.portUsers (s : State) (p : Nat) (mine : Req → Bool) : List Nat :=
  let copies := s.cmds.filter fun k => s.onPort p k
  let wins := s.links.windows.filter fun w => w.2.pend.any fun x => x.port == p
  let colls := s.colls.filter fun c => c.held && c.ports.contains p
  (((s.reqs.filter mine).map fun r => r.ctx) ++ wins.map (fun w => w.2.ctx) ++ copies.map (fun k => k.ctx)
    ++ colls.map fun c => c.ctx).eraseDups

/-- A port's flits sent again from the one that a replay request names (R14). -/
def State.resend (s : State) (port : Nat) : State :=
  let v := s.links.ports.getD port VPort.reset
  (v.replayBuf.filter fun p => decide (v.replayFrom ≤ p.1)).foldl (fun s p => s.emit (.flit port (vcOf p.2.op) p.2))
    (s.modPort port fun v => { v with replayDue := false })

/-- A port marked down (R17): its event bit is set, every context with a request outstanding on it is told, those
requests complete with FABRIC_ERROR, and its hash share moves at the next frame boundary. -/
def State.portDown (s : State) (p : Nat) : State :=
  let mine (r : Req) : Bool := r.stage == .sent && match r.home with
    | .peer dev => s.portFor dev r.line == p
    | _ => false
  let copies := (s.cmds.filter (s.onPort p)).map fun k => k.id
  let colls := s.colls.filter fun c => c.held && c.ports.contains p
  let s1 := (s.portUsers p mine).foldl (fun s c => s.notice c .linkDown 0 0 0 0) s
  let s2 := s1.modPort p fun v => { v with
    st := 2, lanesUp := 0, downEv := true, replayBuf := [], rxFails := 0, replayTries := 0, replayDue := false }
  let s3 : State := { s2 with
    reqs := s2.reqs.map fun r => if mine r then { r with stage := .served, err := some .fabricError } else r
    links := { s2.links with pendingMove := if s2.links.pendingMove.contains p then s2.links.pendingMove
      else s2.links.pendingMove ++ [p] } }
  let s4 := (List.range 16).foldl (fun s slot => s.endContribs slot (fun x => x.port == p) (some .fabricError)) s3
  let s5 := copies.foldl (fun s id => s.failCopy id .fabricError) s4
  colls.foldl (fun s c => s.abortColl c .fabricError) s5

/-- Sparing of a resource whose test failed (R51), each action with its SPARE record.  DESIGN CHOICE: whether a column of an SRAM is left, how
many pages a row covers, and which of them is the first is not given: the count is free, and a row begins on the page of the failing line;
a port that goes down is recorded as a fenced unit (log entry 47). -/
def State.spare (s : State) (t : PendingTest) : State :=
  let rec' (s : State) (type outcome : Nat) (addr syn : Nat) : State := s.errRecord type outcome t.unit.toNat addr t.loc syn 0
  match t.unit.toNat with
  | 0 =>
    let bank := (fld t.loc 0 15).toNat
    if ngetD s.mem.spared bank 0 < 2 then
      rec' { s with mem := { s.mem with spared := nput bank (ngetD s.mem.spared bank 0 + 1) s.mem.spared } } 9 0 t.addr.toNat 0
    else (rec' s 10 0 (t.addr.toNat / 4096 * 4096) ((Config.freeWord s.fresh 1 0).toNat % 65536)).bump
  | 1 | 2 =>
    if Config.choice (s.fresh + 1) % 2 = 0 then rec' s 9 1 t.addr.toNat 0
    else
      let cluster := (fld t.loc 0 5).toNat
      let m := if t.unit = 1 then
          { s.mem with fencedBanks := (bankKey cluster (fld t.loc 8 5).toNat) :: s.mem.fencedBanks }
        else { s.mem with fencedCores := (cluster * 8 + (fld t.loc 5 3).toNat) :: s.mem.fencedCores }
      rec' { s with mem := m } 9 2 t.addr.toNat 0
  | 3 =>
    let p := (fld t.loc 0 6).toNat
    if (s.links.ports.getD p VPort.reset).lanesFenced then rec' (s.portDown p) 9 2 0 0
    else rec' (s.modPort p fun v => { v with lanesFenced := true }) 9 3 0 0
  | _ => rec' { s with mem := { s.mem with fencedLanes := (fld t.loc 0 9).toNat :: s.mem.fencedLanes } } 9 3 0 0

/-- One targeted test (R50, R51): its outcome is the hardware's. -/
def State.runTest (s : State) (t : PendingTest) : State :=
  let lasting := Config.choice s.fresh % 2 == 1
  let s1 := { s with mem := { s.mem with tests := s.mem.tests.filter (· != t) } }.errRecord 8 lasting.toNat t.unit.toNat
    t.addr.toNat t.loc 0 0
  (if lasting then s1.spare t else s1).bump.bump

/-- Every pending test of the resources that a SCRUB slot names. -/
def State.runTests (s : State) (e : BitVec 128) : State :=
  (s.mem.tests.filter (s.cal.cur.tests e)).foldl (fun s t => s.runTest t) s

/-- The ports a LINKCAL slot names: down ports are retrained, and a port with a fenced lane goes on with four (R17, R51,
R57). -/
def State.retrain (s : State) (e : BitVec 128) : State :=
  (List.range 24).foldl
    (fun s p =>
      let v := s.links.ports.getD p VPort.reset
      if (entLinks e).getLsbD p && (v.st == 1 || v.st == 2) then
        s.modPort p fun v => { v with
          st := 1, lanesUp := if v.lanesFenced then 4 else 8
          vcs := if v.st = 2 then List.replicate 4 VChan.reset else v.vcs }
      else s) s

/-- The widths that L0p gives the host links a LINKCAL slot names (R24): bytes 0 and 1 of the argument `v` are the new widths of
links 0 and 1, where they are widths a link has. -/
def State.hostL0p (s : State) (e : BitVec 128) : State :=
  let width (i w : Nat) : Nat :=
    let new := (fld s.arg.v (8 * i) 8).toNat
    if (entLinks e).getLsbD (28 + i) && w != 0 && (new == 4 || new == 8 || new == 16) then new else w
  { s with dev := { s.dev with hostWidth := s.dev.hostWidth.mapIdx width } }

/-- What the codes find as the scrub reads a set of the cache region, named by one of its capacity lines (R39, R41): they cover the line that
the set holds; an empty set has no data to lose. -/
def State.scrubSet (s : State) (line : Nat) (o : EccOutcome) : State :=
  match o with
  | .corrected | .uncorrectable => if (s.setMeta line).valid then s.eccAt (s.heldLine line) o else s.eccAt line .corrected
  | _ => s.eccAt line o

/-- The patrol scrub of a slot (R39, R41): it corrects, and finds the errors that the argument `ecc` names in line `b`, of HBM that is
directly addressable or of the cache region, of a stack the slot names; what it finds in every other line is no error. -/
def State.patrol (s : State) (e : BitVec 128) : State :=
  let line := s.arg.b
  if !(entStacks e).getLsbD (lineStack line) then s
  else if lineIsCap line then (if s.mem.cacheOn then s.scrubSet line s.arg.ecc else s)
  else if 12 * stackBytes ≤ line * 128 ∨ (s.mem.cacheOn ∧ directBytes ≤ line * 128 % stackBytes) then s
  else s.eccAt line s.arg.ecc

/-- The islands an entry holds: those it names, and those of its stacks and links (R55 to R57). -/
def Calendar.held (c : Calendar) (e : BitVec 128) : List Nat :=
  ((List.range 1280).filter fun k => (c.islands e).getLsbD k)
    ++ ((List.range 12).filter fun k => (entStacks e).getLsbD k).map (fun k => 300 * (k / 3) + 294 + k % 3)
    ++ (((List.range 39).filter fun k => (entLinks e).getLsbD k).map linkIslands).flatten

/-! ### The trace ring, as slots write to it (R145) -/

/-- Ticks between counter series: 2^K, where K outside 10 to 24 acts as 10 (R123). -/
def Trace.every (t : Trace) : Nat := 2 ^ (if 10 ≤ t.k.toNat ∧ t.k.toNat ≤ 24 then t.k.toNat else 10)
/-- Ticks between samples: 2^J, where J outside 8 to 20 acts as 8 (R123). -/
def Trace.sampleEvery (t : Trace) : Nat := 2 ^ (if 8 ≤ t.j.toNat ∧ t.j.toNat ≤ 20 then t.j.toNat else 8)

/-- The source that writes an island's trace records (R145). -/
def traceSource (k : Nat) : Nat :=
  if k < 1200 then
    let i := k % 300
    if i < 288 then 6 * (k / 300) + i / 48 else if i < 294 then 6 * (k / 300) + (i - 288) else 24
  else if k < 1240 then 24 else 25

/-- A record of a source's trace page. -/
def State.tracePut (s : State) (source : Nat) (rec : List Byte) : State :=
  { s with trace := { s.trace with pages := nmod source PageBuf.empty (fun p => p.add source s.tick rec) s.trace.pages } }

/-- A trace record of an island (R145): RESYNC goes first where the island has none yet, and in place of a record whose
DTICK would not fit. -/
def State.traceRecord (s : State) (island type : Nat) (body : List DWord) : State :=
  if !s.trace.en then s
  else
    let src := traceSource island
    let resync (s : State) : State := s.tracePut src (recordBytes 2 [at64 16 island, BitVec.ofNat 64 s.tick])
    let s1 := match nget s.trace.lastRec island with
      | none => (resync s).tracePut src (recordBytes type (at64 16 island :: body))
      | some t =>
        if 2 ^ 32 ≤ s.tick - t then resync s
        else s.tracePut src (recordBytes type ((at64 16 island ||| at64 32 (s.tick - t)) :: body))
    { s1 with trace := { s1.trace with lastRec := nput island s.tick s1.trace.lastRec } }

/-! ### Operating points (R26, R32, R35, R57) -/

/-- The point a CLOCK slot gives an island: throttled core and cluster islands run no faster than point 8, and they stay
at point 8 until full service (R32, R35). -/
def State.newPoint (s : State) (k p : Nat) : Nat :=
  if scaledIsland k then (if s.dev.stage ≠ 4 then 8 else if s.dev.throttle then max p 8 else p) else p

/-- One island's change of operating point: its core's cycle count is brought up to date first, and the change is traced;
an island that is powered up again starts its trace anew. -/
def State.setPoint (s : State) (k p : Nat) : State :=
  let old := s.pointOf k
  let new := s.newPoint k p
  if old = new then s
  else
    let core := k / 300 * 48 + k % 300 / 6
    let inCore := decide (k < 1200) && decide (k % 300 < 288)
    let s1 := if inCore && k % 300 % 6 == 5 then
        s.setCore core { s.coreAt core with cyc80 := s.cycles80 core, cycAt := s.tick }
      else s
    let s2 := { s1 with
      dev := { s1.dev with islandPoint := nput k (BitVec.ofNat 4 new) s1.dev.islandPoint }
      trace := { s1.trace with lastRec := if old = 15 then ndel k s1.trace.lastRec else s1.trace.lastRec } }
    let cycles := if inCore then BitVec.ofNat 64 (s2.cycles80 core / 80) else Config.freeDWord s.fresh (BitVec.ofNat 32 k)
    s2.traceRecord k 3 [cycles, at64 0 old ||| at64 4 new]

/-- The host lines that `which` picks given up, the modified ones written back (R28, R91). -/
def State.writeBackHost (s : State) (which : Nat → Nat → Bool) : State :=
  s.mem.hostDirty.foldl
    (fun s p => if p.2.isEmpty || !which (p.1 % 2) (p.1 / 2) then s
      else s.hostGone (p.1 % 2) (p.1 / 2) (s.heldDirty (hostKey (p.1 % 2) (p.1 / 2)))) s

/-- The island of a cluster cache or a die L2 (R27, R56). -/
def holderIsland (h : Nat) : Nat := if h < 24 then 300 * (h / 6) + 288 + h % 6 else l2Island (h - 24)

/-- A CLOCK slot's change (R57); gating waits for the host lines in the islands to be written back (R27, R91). -/
def State.clockChange (s : State) (e : BitVec 128) : State :=
  let p := (entParam e).toNat % 16
  let s1 := if p = 15 then
      s.writeBackHost fun link line => s.mem.cache.any fun k =>
        k.line == hostKey link line && decide (k.holder < 28) && (s.cal.cur.islands e).getLsbD (holderIsland k.holder)
    else s
  ((List.range 1280).foldl (fun s k => if (s.cal.cur.islands e).getLsbD k then s.setPoint k p else s) s1).bump

/-! ### Slots (R65) -/

/-- The SLOT record of a slot that was postponed or aborted a command (R137). -/
def State.slotRecord (s : State) (i kind postponed : Nat) (aborted : Bool) : State :=
  if !s.recording || (postponed == 0 && !aborted) then s
  else s.ashRecord 24 (recordBytes 8
    [at64 16 i ||| at64 24 kind ||| at64 27 postponed ||| at64 32 s.cal.gen.toNat, s.cal.frame, BitVec.ofNat 64 s.tick,
      at64 0 aborted.toNat])

/-- The work a slot does (R57). -/
def State.slotWork (s : State) (e : BitVec 128) : State :=
  match entKind e with
  | 1 => (s.retrain e).hostL0p e
  | 4 => (s.patrol e).runTests e
  | 5 => s.clockChange e
  | _ => s

/-- A slot begun: it runs with its full length from now. -/
def State.beginSlot (s : State) (i : Nat) (e : BitVec 128) (postponed : Nat) (aborted : Bool) : State :=
  let run : SlotRun :=
    { entry := i, due := s.tick, postponed := postponed, running := true, untilTick := s.tick + 64 * entLen e }
  let s1 := { s with cal := { s.cal with
    slots := (s.cal.slots.filter fun x : SlotRun => x.entry != i) ++ [run]
    started := i :: s.cal.started } }
  ((s1.closeWindows e).slotRecord i (entKind e) postponed aborted).slotWork e

/-- SLOT_START_TEST (R39, R51, R57, R65, R137): argument `a` is the entry; its start, or its next test, has come; `b` and `ecc` are
what a patrol scrub finds, `v` the widths of L0p.  DESIGN CHOICE: R53 does not say which unit and place a SLOT_ABORT record
names, as a slot may hold several; UNIT and WHERE are 0 (log entry 41). -/
def execSlotStartTest (s : State) : Host.Outcome State Fault Refusal :=
  let i := s.arg.a
  match s.cal.cur.entries[i]? with
  | none => .next s
  | some e =>
    let was := s.cal.slots.find? fun r => r.entry == i
    let due := match was with
      | some r => r.due
      | none => s.cal.frameStart + 64 * entStart e
    let n := match was with
      | some r => r.postponed
      | none => 0
    if s.cal.started.contains i ∨ s.tick < due then .next s
    else if (s.cmdHolders e).isEmpty && (s.kilnHolders e).isEmpty then .next (s.beginSlot i e n false)
    else if n < kindGive (entKind e) then
      let r : SlotRun := { entry := i, due := due + 64, postponed := n + 1, running := false, untilTick := 0 }
      .next { s with cal := { s.cal with slots := (s.cal.slots.filter fun r => r.entry != i) ++ [r] } }
    else
      let s1 := (s.cmdHolders e).foldl (fun s id => s.abortCmd id) s
      let s2 := (s.kilnHolders e).foldl (fun s id => s.abortKiln id) s1
      .next ((s2.errRecord 16 0 0 0 0 0 (entKind e)).beginSlot i e n true)

/-- The replays that were asked for in a port's slot made, where it is over (R14, R57). -/
def State.resendDue (s : State) : State :=
  (List.range 24).foldl
    (fun t p => if (t.links.ports.getD p VPort.reset).replayDue && !t.linkDown p then t.resend p else t) s

/-- SLOT_END (R57, R64, R146): argument `a` is the entry; what waited for its resources goes on, and its ticks count in the
SLOT counters of its islands. -/
def execSlotEnd (s : State) : Host.Outcome State Fault Refusal :=
  match s.cal.slots.find? fun r => r.entry == s.arg.a && r.running with
  | none => .next s
  | some r =>
    if s.tick < r.untilTick then .next s
    else
      let e := s.cal.cur.entries.getD r.entry 0
      let since := max (r.untilTick - 64 * entLen e) (s.tick / s.trace.every * s.trace.every)
      let counts := if s.trace.en then (s.cal.cur.held e).foldl (fun m k => nmod k 0 (· + (r.untilTick - since)) m) s.trace.slot
        else s.trace.slot
      .next ((({ s with
        cal := { s.cal with slots := s.cal.slots.filter fun x => x.entry != r.entry }
        trace := { s.trace with slot := counts } } : State).openWindows e).resendDue.admitReqs)

end Sys2Proof.Machine
end

