-- ==== Sys2Proof/Machine/Shake.lean ====
section
/-! DEFINITION. SHAKE256, which the journal digest and the firmware checks use (R76, R93, R94).  The spec names the
function and does not describe it: this is the sponge of FIPS 202 (log entry 21, PRESUMED). -/

namespace Sys2Proof.Machine

/-- One step of the eight-bit shift register that the round constants are read from. -/
def keccakShift (r : Nat) : Nat := 2 * r % 256 ^^^ (if 128 ≤ r then 0x71 else 0)

/-- The round constants of Keccak-f[1600]: seven steps of the register each, step `j` giving bit `2^j - 1`. -/
def keccakRc : List DWord :=
  ((List.range 24).foldl
    (fun (x : Nat × List DWord) _ =>
      let y := (List.range 7).foldl
        (fun (z : Nat × Nat) j => let r := keccakShift z.1; (r, z.2 + r / 2 % 2 * 2 ^ (2 ^ j - 1))) (x.1, 0)
      (y.1, x.2 ++ [BitVec.ofNat 64 y.2])) (1, [])).2

/-- The walk over the 24 lanes other than lane 0, from (1, 0): each (x, y) is followed by (y, 2x + 3y). -/
def keccakWalk : Nat → Nat × Nat → List Nat
  | 0, _ => []
  | n + 1, (x, y) => (x + 5 * y) :: keccakWalk n (y, (2 * x + 3 * y) % 5)

/-- The rotation of lane x + 5y: the triangular number of its place in the walk, and none for lane 0. -/
def keccakTurn (i : Nat) : Nat :=
  let t := (keccakWalk 24 (1, 0)).takeWhile (· != i)
  if i = 0 then 0 else (t.length + 1) * (t.length + 2) / 2 % 64

/-- One round of Keccak-f[1600] on the 25 lanes. -/
def keccakRound (rc : DWord) (a : List DWord) : List DWord :=
  let at' (l : List DWord) (i : Nat) : DWord := l.getD i 0
  let c := (List.range 5).map fun x => at' a x ^^^ at' a (x + 5) ^^^ at' a (x + 10) ^^^ at' a (x + 15) ^^^ at' a (x + 20)
  let d := (List.range 5).map fun x => at' c ((x + 4) % 5) ^^^ (at' c ((x + 1) % 5)).rotateLeft 1
  let t := a.mapIdx fun i v => (v ^^^ at' d (i % 5)).rotateLeft (keccakTurn i)
  let b := (List.range 25).map fun i => at' t ((i % 5 + 3 * (i / 5)) % 5 + 5 * (i % 5))
  (List.range 25).map fun i =>
    let x := i % 5
    let y := i / 5
    let v := at' b i ^^^ (~~~(at' b ((x + 1) % 5 + 5 * y)) &&& at' b ((x + 2) % 5 + 5 * y))
    if i = 0 then v ^^^ rc else v

/-- Keccak-f[1600]. -/
def keccakF (a : List DWord) : List DWord := keccakRc.foldl (fun a rc => keccakRound rc a) a

/-- The number little-endian bytes hold, up to eight of them. -/
def laneOfBytes (l : List Byte) : DWord := BitVec.ofNat 64 (l.foldr (fun b n => b.toNat + 256 * n) 0)

/-- A block of 136 bytes absorbed. -/
def keccakAbsorb (a : List DWord) (block : List Byte) : List DWord :=
  keccakF (a.mapIdx fun i v => if i < 17 then v ^^^ laneOfBytes ((block.drop (8 * i)).take 8) else v)

/-- The message padded to whole blocks: 0x1F, zeros, and the top bit of the last byte. -/
def shakePad (m : List Byte) : List Byte :=
  let n := 136 - m.length % 136
  if n = 1 then m ++ [0x9F] else m ++ [0x1F] ++ List.replicate (n - 2) 0 ++ [0x80]

/-- The blocks absorbed in turn. -/
def shakeAbsorb (m : List Byte) : List DWord :=
  (List.range (m.length / 136)).foldl (fun a i => keccakAbsorb a ((m.drop (136 * i)).take 136)) (List.replicate 25 0)

/-- The first `n` bytes of SHAKE256 of a message, `n` at most 136. -/
def shake256 (m : List Byte) (n : Nat) : List Byte :=
  (((shakeAbsorb (shakePad m)).map fun v => (List.range 8).map fun j => BitVec.ofNat 8 (v.toNat / 256 ^ j)).flatten).take n

end Sys2Proof.Machine
end

