-- ==== Sys2Proof/Machine/Power.lean ====
section
/-! DEFINITION. Resets, bring-up, firmware delivery and power limits (R22, R28 to R35, R77, R91 to R93). -/

namespace Sys2Proof.Machine

/-! ### Resets (R28) -/

/-- Memory once HBM is lost: what lies in the capacity tier, and what HBM then reads as. -/
def Memory.capOnly (m : Memory) (lost : Option Nat) : Memory := { cells := m.cells.filter fun c => isCapacity c.1, lost := lost }

/-- The host lines lost in a reset: those held modified (R91). -/
def State.hostLost (s : State) : NMap (List Byte) :=
  (s.mem.hostDirty.filter fun p => p.2.isEmpty || s.heldDirty (hostKey (p.1 % 2) (p.1 / 2))).map fun p => (p.1, [])

/-- The machine right after a reset that loses HBM: what lies outside the device keeps its contents, and host lines that were
not written back are lost (R28, R91). -/
def State.wiped (s : State) : State :=
  { State.reset with
    inputs := s.inputs
    outbox := s.outbox
    fresh := s.fresh + 1
    nextId := s.nextId
    dev := { Dev.reset with boots := s.dev.boots + 1 }
    mem := { Mem.reset with
      bytes := s.mem.bytes.capOnly none
      poison := s.mem.poison.filter lineIsCap
      hostDirty := s.hostLost } }

/-- POWER_ON (R28, R29): a cold reset; nothing is kept. -/
def execPowerOn (s : State) : Host.Outcome State Fault Refusal :=
  .next { s.wiped with mem := { Mem.reset with hostDirty := s.hostLost } }

/-- COLD_RESET (R28): HBM contents are lost, and bring-up starts again. -/
def execColdReset (s : State) : Host.Outcome State Fault Refusal := .next s.wiped

/-- A fatal reset (R28, R33): as a cold one, at stage 5; the tick, the frame numbers and the record numbers go on, since only
a cold reset starts them again (R3, R53, R54, R76), and so does the calendar in force (R59). -/
def State.fatal (s : State) : State :=
  { s.wiped with
    tick := s.tick
    dev := { s.wiped.dev with
      stage := 5, standby := s.dev.standby, activeCore := s.dev.activeCore, hostWidth := s.dev.hostWidth
      host1Up := s.dev.host1Up, overLimit := s.dev.overLimit, throttle := s.dev.throttle, clearSince := s.dev.clearSince }
    cal := { s.cal with busy := false }
    mem := { s.wiped.mem with errSeq := s.mem.errSeq, bytes := s.mem.bytes.capOnly (some s.fresh) }
    host := { s.wiped.host with jseq := s.host.jseq } }

/-- FATAL_RESET (R28): argument `v` is the cause. -/
def execFatalReset (s : State) : Host.Outcome State Fault Refusal := .next s.fatal

/-- The writable device pages below a page table: base and number of 4 KiB pages (R79, R80). -/
def State.writablePages (s : State) : Nat → Nat → List (Nat × Nat)
  | 0, _ => []
  | level + 1, table =>
    ((List.range 512).map fun ix => match s.homeOf (table + 8 * ix) with
      | .error _ => []
      | .ok a =>
        let e : DWord := BitVec.ofNat 64 (leNat (s.peek a 8))
        if s.poisoned (lineOf a) || !e.getLsbD 0 then []
        else if e.getLsbD 1 then
          if leafMalformed (level + 1) e || !e.getLsbD 3 || e.getLsbD 12 || e.getLsbD 14 then []
          else [((leafOf e 0).pa, leafPages (level + 1) e)]
        else State.writablePages s level ((fld e 16 40).toNat * 4096)).flatten

/-- A 4 KiB page whose contents are undefined. -/
def State.undefinePage (s : State) (pa : Nat) : State :=
  match s.homeOf pa with
  | .ok a => if inCalPage a then s else s.poke a ((List.range 4096).map fun i => Config.freeByte s.fresh (pa + i))
  | .error _ => s

/-- What an incomplete command of a context could write, made undefined (R77). -/
def State.undefineContext (s : State) (c : Nat) : State :=
  (((s.writablePages 5 (s.ctx c).root.toNat).map fun p => (List.range p.2).map fun i => p.1 + 4096 * i).flatten.foldl
    (fun t pa => t.undefinePage pa) s).bump

/-- A warm reset (R28, R29, R77, R91): host lines are written back first; HBM is kept, but for what incomplete commands could
write; everything in flight is gone, and every context and slot is disabled.  Registers for which the spec names only a
cold reset keep their values.  With argument `flag2` the retained image's digest does not verify, and stage 2 waits for a new one
(R29). -/
def State.warm (s : State) : State :=
  let t := s.writeBackHost fun _ _ => true
  let u := ((t.host.cmds.map fun h => h.ctx).eraseDups).foldl (fun x c => x.undefineContext c) t
  { State.reset with
    tick := u.tick
    inputs := u.inputs
    outbox := u.outbox
    fresh := u.fresh + 1
    nextId := u.nextId
    dev := { Dev.reset with
      stage := 1, fwFail := u.dev.fwFail, fwResult := u.dev.fwResult, fwReason := u.dev.fwReason, fwAddr := u.dev.fwAddr
      fwLen := u.dev.fwLen, fw := if s.arg.flag2 then none else u.dev.fw, bar2Base := u.dev.bar2Base, hostAtom := u.dev.hostAtom
      overLimit := u.dev.overLimit, throttle := u.dev.throttle, clearSince := u.dev.clearSince
      ideKeys := u.dev.ideKeys, spdmSession := u.dev.spdmSession, boots := u.dev.boots + 1 }
    mem := { u.mem with
      cacheBusy := false, cache := [], partials := [], enrols := [], invCopies := [], writers := [], alerts := [] }
    cal := { u.cal with busy := false }
    host := { u.host with
      ctxs := u.host.ctxs.map fun p => (p.1, { p.2 with en := false, invalBusy := false, killing := false })
      slots := u.host.slots.map fun p => (p.1, { p.2 with en := false, kick := false, waitSeq := false, loaded := none })
      cmds := []
      jrnEn := false }
    recd := { Recd.reset with
      policy := u.recd.policy, boundary := u.recd.boundary, devid := u.recd.devid, ashBase := u.recd.ashBase
      ashSize := u.recd.ashSize, ashHead := u.recd.ashHead, ashTail := u.recd.ashTail, ckBase := u.recd.ckBase
      ckSeq := u.recd.ckSeq, ckCur := u.recd.ckCur, brks := u.recd.brks, repset := u.recd.repset
      dirty0 := u.recd.dirty0, dirty1 := u.recd.dirty1 }
    trace := { u.trace with lastRec := [], slot := [], pages := [] }
    stepctl := { u.stepctl with active := false, todo := [] }
    watch := u.watch }

/-- RESETCTL_WARM (R28): a 1 written to RESETCTL.WARM. -/
def execResetctlWarm (s : State) : Host.Outcome State Fault Refusal := .next s.warm

/-- MANAGEMENT_WARM_RESET (R28): the warm-reset command of the sideband. -/
def execManagementWarmReset (s : State) : Host.Outcome State Fault Refusal := .next s.warm

/-! ### Bring-up (R29 to R33) -/

/-- BOOT_ROM_START (R29): stage 1, not before tick 2,000,000. -/
def execBootRomStart (s : State) : Host.Outcome State Fault Refusal :=
  if s.dev.stage = 0 ∧ 2000000 ≤ s.tick then .next { s with dev := { s.dev with stage := 1 } } else .next s

/-- HOST_LINK_UP (R23, R29): arguments `a` link, `b` width.  Link 0 takes bring-up to stage 2, which a warm reset with a
retained image skips. -/
def execHostLinkUp (s : State) : Host.Outcome State Fault Refusal :=
  if 2 ≤ s.arg.a ∨ s.dev.stage = 0 ∨ [4, 8, 16].contains s.arg.b = false then .next s
  else
    .next { s with dev := { s.dev with
      hostWidth := lset s.arg.a s.arg.b s.dev.hostWidth
      priAlloc := lset s.arg.a s.arg.c s.dev.priAlloc
      host1Up := s.dev.host1Up || s.arg.a == 1
      stage := if s.arg.a = 0 ∧ s.dev.stage = 1 ∧ s.dev.fw = none then 2 else s.dev.stage } }

/-- A write of 1 to FWCTL.GO (R92): the image's fetch begins, unless one is in progress. -/
def State.fwGo (s : State) : State :=
  if s.dev.fwBusy then s
  else ({ s with dev := { s.dev with fwBusy := true } } : State).emit (.hostRead 0 s.dev.fwAddr.toNat s.dev.fwLen.toNat 0)

/-- FWCTL_GO (R92). -/
def execFwctlGo (s : State) : Host.Outcome State Fault Refusal := .next s.fwGo

/-- A little-endian field of the image. -/
def imgNat (img : List Byte) (off n : Nat) : Nat := leNat ((img.drop off).take n)

/-- Whether a range of the image is zero. -/
def imgZero (img : List Byte) (lo hi : Nat) : Bool := ((img.drop lo).take (hi - lo)).all (· == 0)

/-- The reason an image fails its checks for, in their order, or 0 (R93). -/
def fwReasonOf (img : List Byte) (len : Nat) : Nat :=
  let code := imgNat img 0x0C 4
  let key := (img.drop 0x40).take 1793
  if imgNat img 0 4 ≠ 0x53374657 ∨ code % 4096 ≠ 0 ∨ 15 * 1048576 < code ∨ imgZero img 0x18 0x40 = false
      ∨ imgZero img 0x741 0x800 = false then 1
  else if len ≠ 0x800 + code + 1280 then 5
  else if BitVec.ofNat 256 (leNat (shake256 key 32)) ≠ Config.fusedKeyDigest then 2
  else if imgNat img 8 4 < Config.fusedMinSvn then 4
  else if Config.falconVerifies key (BitVec.ofNat 512 (leNat (shake256 (img.take (0x800 + code)) 64)))
      ((img.drop (0x800 + code)).take 1280) = false then 3
  else 0

/-- FIRMWARE_CHECK_DONE (R92, R93): argument `img` is the image as the host returned it, or nothing on a read error. -/
def execFirmwareCheckDone (s : State) : Host.Outcome State Fault Refusal :=
  if !s.dev.fwBusy then .next s
  else
    let len := s.dev.fwLen.toNat
    let reason := match s.arg.img with
      | none => 6
      | some img => if img.length < len then 6 else fwReasonOf (img.take len) len
    if reason ≠ 0 then
      .next { s with dev := { s.dev with fwBusy := false, fwResult := 2, fwReason := BitVec.ofNat 4 reason, fwFail := true } }
    else
      let img := ((s.arg.img).getD []).take len
      let fw : FwImage :=
        { version := BitVec.ofNat 32 (imgNat img 4 4), svn := BitVec.ofNat 32 (imgNat img 8 4)
          entry := BitVec.ofNat 64 (imgNat img 0x10 8)
          digest := BitVec.ofNat 512 (leNat (shake256 (img.take (0x800 + imgNat img 0x0C 4)) 64)) }
      let running := s.dev.stage == 3 || s.dev.stage == 4
      .next { s with dev := { s.dev with
        fwBusy := false, fwResult := 1, fwReason := 0, fw := if running then s.dev.fw else some fw } }

/-- KINDLING_MODE_ENTER (R29, R30, R34): with a verified image, boundary 0, stack 0 and cluster 0 trained, the device serves
host commands; the Vilbin ports are held. -/
def execKindlingModeEnter (s : State) : Host.Outcome State Fault Refusal :=
  let from1 := s.dev.stage == 1 && s.dev.hostWidth.getD 0 0 != 0
  if s.dev.fw.isSome && (from1 || s.dev.stage == 2 || s.dev.stage == 5) then
    .next ({ s with
      dev := { s.dev with stage := 3, clusterUp := 1, stackUp := 0, hearth1Up := false, capUp := 0 }
      links := { s.links with ports := s.links.ports.map fun p => { p with st := 3, lanesUp := 0 } } } : State).updatePage
  else .next s

/-- The mapped ports among the populated ones: all of one, two or four, the two lowest of three (R22). -/
def mappedPorts (caps : List Nat) : List Nat :=
  let p := (List.range 4).filter fun i => caps.getD i 0 != 0
  if p.length = 3 then p.take 2 else p

/-- The capacity each mapped port gives: the smallest among them, 4,096 GB in all at most (R22). -/
def mappedShare (caps : List Nat) : Nat :=
  let p := mappedPorts caps
  if p.isEmpty then 0 else min ((p.map fun i => caps.getD i 0).foldl min (caps.getD (p.headD 0) 0)) (4096000000000 / p.length)

/-- Whether every unit has trained (R32): the clusters, the stacks, Hearth die 1, and the ports that are connected or populated. -/
def allTrained (u : TrainedUnits) : Bool :=
  u.clusters == 0xFFFFFF && u.hbm == 0xFFF && u.hearth1 && (u.connected &&& ~~~u.ports) == 0
    && (List.range 4).all fun p => !u.populated.getLsbD p || u.caps.getD p 0 != 0

/-- The units that have trained taken into service (R22, R33, R34): all of them bring stage 4, one that failed leaves the device at
stage 3 (R32). -/
def State.joined (s : State) (u : TrainedUnits) : State :=
  let ps := mappedPorts u.caps
  let go (p : Nat) (v : VPort) : VPort :=
    if u.ports.getLsbD p then { v with st := 1, lanesUp := if v.lanesFenced then 4 else 8 } else { v with st := 0, lanesUp := 0 }
  { s with
    dev := { s.dev with
      clusterUp := u.clusters ||| 1
      stackUp := u.hbm
      hearth1Up := u.hearth1
      capUp := ps.foldl (fun m i => m ||| BitVec.ofNat 4 (2 ^ i)) 0
      capBytes := (List.range 4).map fun i => if ps.contains i then mappedShare u.caps else 0
      stage := if allTrained u then 4 else 3 }
    links := if allTrained u then { s.links with ports := s.links.ports.mapIdx go } else s.links }

/-- FULL_SERVICE_ENTER (R22, R29, R32, R33, R34): argument `up` names the units that trained; they join at a frame boundary, with which
the next frame begins. -/
def execFullServiceEnter (s : State) : Host.Outcome State Fault Refusal :=
  if s.dev.stage ≠ 3 ∨ s.tick < s.cal.nextStart ∨ s.cal.frameOver = false then .next s
  else .next ((s.joined s.arg.up).newFrame.updatePage).admitReqs

/-! ### Power limits (R35) -/

/-- POWER_LIMIT_CROSSED (R35): argument `power`: a limit crossed, the limits clear again, or a die at 110 °C. -/
def execPowerLimitCrossed (s : State) : Host.Outcome State Fault Refusal :=
  match s.arg.power with
  | .over =>
    .next ((List.range 64).foldl (fun s c => s.notice c .powerEmergency 0 0 0 0)
      { s with dev := { s.dev with overLimit := true, throttle := true } })
  | .clear => .next { s with dev := { s.dev with overLimit := false, clearSince := s.tick } }
  | .die110 => .next s.fatal

end Sys2Proof.Machine
end

