-- ==== Sys2Proof/Machine/Links.lean ====
section
/-! DEFINITION. Accesses that are not made by a core's instruction (the control core, peers, reduction windows), and what
arrives over the links: flits, messages, replies, windows and DRAM alerts (R14 to R20, R38, R62, R88, R133, R142). -/

namespace Sys2Proof

/-- The data a message brings, for its PAYLOAD record, of one byte at least (R133); an answer that brings none shows whether it
failed. -/
def PeerOp.payload : PeerOp → List Byte
  | .store _ d | .copyWrite _ _ d | .coll _ _ _ _ d => d
  | .answer d fail _ => if d.isEmpty then [if fail then 1 else 0] else d
  | .atom _ n _ b => Machine.leBytes n b.toNat
  | .cas n _ c b => Machine.leBytes n c.toNat ++ Machine.leBytes n b.toNat
  | .load va n | .copyRead va n => Machine.leBytes 8 va.toNat ++ Machine.leBytes 4 n
  | .stamp a b c => Machine.dwordBytes [a, b, c]
  | .contrib _ _ _ _ n v | .merged _ _ _ _ n v _ => Machine.leBytes n v.toNat

/-- Address, bytes and access kind of a request. -/
def PeerOp.span : PeerOp → Option (DWord × Nat × Bool)
  | .load va n | .copyRead va n => some (va, n, false)
  | .store va d | .copyWrite va _ d => some (va, d.length, true)
  | .atom _ n va _ | .cas n va _ _ => some (va, n, true)
  | .answer _ _ _ | .stamp _ _ _ | .contrib _ _ _ _ _ _ | .merged _ _ _ _ _ _ _ | .coll _ _ _ _ _ => none

/-- The ARRIVAL entry of a message (R133). -/
def PeerMsg.entry (m : PeerMsg) (vc : Nat) : DWord := Machine.at64 0 m.src.toNat ||| Machine.at64 16 vc ||| Machine.at64 32 m.mseq.toNat

end Sys2Proof

namespace Sys2Proof.Machine

/-! ### Accesses under a context's translation (R81, R83) -/

/-- How such an access ends: done, with a fault, or waiting: for a page's fault to be answered, or for something else. -/
inductive CtlRes (α : Type) where
  | ok (s : State) (x : α)
  | fault (s : State) (c : Cause)
  | wait (s : State) (page : Option Nat)

/-- The engine that makes such accesses in a context. -/
def State.ctlEng (s : State) (ctx agent : Nat) : Eng :=
  { s.engFor (collNodeCmd (Coll.start 0 0 ctx 0 none none 0) 0)
      (collNodeBlk ctx) with agent := agent }

/-- An access made under the context's translation; a page that is not cached is walked, and a walk that finds no page
writes a fault record (R82, R83).  `fuel` bounds the pages walked. -/
def State.ctl {α : Type} (ctx agent : Nat) (site : FaultSite) (f : Eng → Except EStop (Eng × α)) :
    Nat → State → CtlRes α
  | 0, s => .wait s none
  | fuel + 1, s =>
    match f (s.ctlEng ctx agent) with
    | .ok (e, x) => if e.bad then .fault s .poisonConsumed else .ok (e.settle).s x
    | .error (.fail c _) => .fault s c
    | .error (.miss p) => .wait s (some p)
    | .error .hold | .error (.ask _ _ _) | .error (.bank _ _) => .wait s none
    | .error (.walk va kind) =>
      match s.walkNow ctx va kind site with
      | .leaf t _ => State.ctl ctx agent site f fuel t
      | .wait t p => .wait t p

/-- Bytes read from a context's memory. -/
def ctlRead (va : DWord) (n : Nat) (e : Eng) : Except EStop (Eng × List Byte) := Eng.readN true n e va n

/-- Bytes read for a copy of another device, with whether a line of them is poisoned (R43). -/
def ctlCopyRead (va : DWord) (n : Nat) (e : Eng) : Except EStop (Eng × List Byte × Bool) :=
  match Eng.readN true n e va n with
  | .ok (e1, bs) => .ok ({ e1 with bad := false }, bs, e1.bad)
  | .error x => .error x

/-- Bytes written to a context's memory, poisoned where their source was (R43). -/
def ctlWrite (va : DWord) (bs : List Byte) (e : Eng) (poisoned : Bool := false) : Except EStop (Eng × Unit) :=
  match Eng.writeN true bs.length { e with bad := poisoned } va bs with
  | .ok e1 => .ok ({ e1 with bad := false }, ())
  | .error x => .error x

/-- A read-modify-write of `n` bytes, answering the old value (R224). -/
def ctlRmw (va : DWord) (n : Nat) (f : Nat → Nat) (e : Eng) : Except EStop (Eng × List Byte) :=
  match Eng.readN true n e va n with
  | .error x => .error x
  | .ok (e1, old) =>
    if e1.bad then .ok (e1, old)
    else match Eng.writeN true n e1 va (leBytes n (f (leNat old))) with
      | .error x => .error x
      | .ok e2 => .ok (e2, old)

/-! ### Flits (R14, R15) -/

/-- A port's receiving side of a channel changed, with the stop or go this calls for (R15). -/
def State.modBuf (s : State) (port vc : Nat) (f : List PeerMsg → List PeerMsg) : State :=
  let v := s.chan port vc
  let buf := f v.buf
  let free := 32 - buf.length
  let put (x : VChan) : State := s.modPort port fun p => { p with vcs := lset vc x p.vcs }
  if !v.stopSent && decide (free ≤ 16) then (put { v with buf := buf, stopSent := true }).emit (.stopGo port vc true)
  else if v.stopSent && decide (24 ≤ free) then (put { v with buf := buf, stopSent := false }).emit (.stopGo port vc false)
  else put { v with buf := buf }

/-- A saturating count of replays (R34). -/
def replaysUp (n : BitVec 24) : BitVec 24 := if n = 0xFFFFFF then n else n + 1

/-- A flit that failed its CRC (R14, R50, R53): a replay is requested, an error recorded and a lane test scheduled; a flit
whose eighth replay failed takes the port down.  Which lane failed is not given. -/
def State.badFlit (s : State) (port : Nat) : State :=
  let v := s.links.ports.getD port VPort.reset
  let loc : Word := BitVec.ofNat 32 (port + 64 * ((Config.freeWord s.fresh 0 0).toNat % 8))
  let s1 := (s.modPort port fun v => { v with rxFails := v.rxFails + 1, crcErr := true, replays := replaysUp v.replays }).emit
    (.replayRequest port)
  let s2 := ((s1.errRecord 14 0 3 0 loc 0 0).scheduleTest 3 loc 0 fun t => (fld t.loc 0 6).toNat == port).bump
  if v.rxFails = 8 then { s2 with inputs := s2.inputs ++ [(.vilbinPortDown, { a := port })] } else s2

/-- VILBIN_FLIT_RECEIVE (R14, R15): arguments `a` port, `b` channel, `flag` whether the CRC holds, `msg` what it carries. -/
def execVilbinFlitReceive (s : State) : Host.Outcome State Fault Refusal :=
  let port := s.arg.a
  if 24 ≤ port ∨ 4 ≤ s.arg.b ∨ (s.links.ports.getD port VPort.reset).st ≠ 1 then .next s
  else if !s.arg.flag then .next (s.badFlit port)
  else
    let s1 := s.modPort port fun v => { v with rxFails := 0 }
    match s.arg.msg with
    | none => .next s1
    | some m => if 32 ≤ (s.chan port s.arg.b).buf.length then .next s else .next (s1.modBuf port s.arg.b (· ++ [m]))

/-- FLIT_REPLAY_REQUEST (R14): arguments `a` port, `b` the flit from which the port sends again; the request that follows the
eighth replay of one flit takes the port down.  One that comes in the port's slot is kept for the slot's end (R57). -/
def execFlitReplayRequest (s : State) : Host.Outcome State Fault Refusal :=
  let port := s.arg.a
  let v := s.links.ports.getD port VPort.reset
  let tries := if v.replayFrom = s.arg.b then v.replayTries else 0
  if 24 ≤ port ∨ v.st ≠ 1 then .next s
  else if 8 ≤ tries then .next (s.portDown port).admitReqs
  else
    let t := s.modPort port fun v => { v with
      crcErr := true, replays := replaysUp v.replays, replayFrom := s.arg.b, replayTries := tries + 1, replayDue := true }
    .next (if s.linkDown port then t else t.resend port)

/-- VC_STOP_GO (R15): arguments `a` port, `b` channel, `flag` stop; at most 8 flits follow a stop. -/
def execVcStopGo (s : State) : Host.Outcome State Fault Refusal :=
  if 24 ≤ s.arg.a ∨ 4 ≤ s.arg.b then .next s
  else .next (s.modPort s.arg.a fun p =>
    { p with vcs := lmod s.arg.b (fun v => { v with stopped := s.arg.flag, credit := 8 }) p.vcs }).admitReqs

/-- VILBIN_PORT_DOWN (R17): argument `a` port. -/
def execVilbinPortDown (s : State) : Host.Outcome State Fault Refusal :=
  if 24 ≤ s.arg.a ∨ (s.links.ports.getD s.arg.a VPort.reset).st ≠ 1 then .next s else .next (s.portDown s.arg.a).admitReqs

/-! ### Inbound messages (R16, R88, R133, R142) -/

/-- A request carried out at this device's home: the bytes it answers with their poison, or nothing where it meets a fault
(R43, R88). -/
def State.servePeer (s : State) (port : Nat) (m : PeerMsg) : CtlRes (List Byte × Bool) :=
  let site : FaultSite := { origin := 0, pc := 0, lseq := 0, core := 0xFF, slot := 0 }
  let go (f : Eng → Except EStop (Eng × List Byte × Bool)) : CtlRes (List Byte × Bool) :=
    State.ctl m.ctx (portAgent port) site f 4 s
  let plain (f : Eng → Except EStop (Eng × List Byte)) (e : Eng) : Except EStop (Eng × List Byte × Bool) :=
    (f e).map fun x => (x.1, x.2, false)
  let put (va : DWord) (d : List Byte) (poisoned : Bool) (e : Eng) : Except EStop (Eng × List Byte × Bool) :=
    (ctlWrite va d e poisoned).map fun x => (x.1, [], false)
  match m.op with
  | .load va n => if n = 0 ∨ va.toNat % n ≠ 0 then .fault s .alignment else go (plain (ctlRead va n))
  | .copyRead va n => go (ctlCopyRead va n)
  | .store va d => if d.length = 0 ∨ va.toNat % d.length ≠ 0 then .fault s .alignment else go (put va d false)
  | .copyWrite va p d => go (put va d p)
  | .atom a n va b =>
    if n = 0 ∨ va.toNat % n ≠ 0 then .fault s .alignment else go (plain (ctlRmw va n fun old => atomNew a n old b.toNat))
  | .cas n va c b =>
    if n = 0 ∨ va.toNat % n ≠ 0 then .fault s .alignment
    else go (plain (ctlRmw va n fun old => if old = c.toNat % 2 ^ (8 * n) then b.toNat % 2 ^ (8 * n) else old))
  | .answer _ _ _ | .stamp _ _ _ | .contrib _ _ _ _ _ _ | .merged _ _ _ _ _ _ _ | .coll _ _ _ _ _ => .ok s ([], false)

/-- The answer to a request sent back over its port (R15, R43, R88). -/
def State.answerPeer (s : State) (port : Nat) (m : PeerMsg) (data : List Byte) (fail poisoned : Bool) : State :=
  s.sendMsg port m.src m.ctx m.tag (.answer data fail poisoned)

/-- The line of this device's memory that an address of a context names, if it names one. -/
def State.memLine (s : State) (ctx : Nat) (va : DWord) : Option Nat :=
  match s.lookup (packageMmu ctx) va with
  | .hit l => match s.placeOf ctx l va with
    | .ok (.mem, a) => some (lineOf a)
    | _ => none
  | _ => none

/-- The lines of this device's memory that a request touches. -/
def State.peerLines (s : State) (m : PeerMsg) : List Nat :=
  match m.op.span with
  | none => []
  | some (va, n, _) => (List.range ((va.toNat % 128 + n + 127) / 128)).filterMap fun i =>
      s.memLine m.ctx (va + BitVec.ofNat 64 (128 * i))

/-- An inbound message noted as one operation of its port, on the lines it touches, with its PAYLOAD record (R125, R128, R133). -/
def State.noteMsg (s : State) (port vc : Nat) (m : PeerMsg) (lines : List Nat) (writes : Bool) : State :=
  let a := lines.head?.map (· * 128)
  (s.note (portAgent port) 0 0 (a.elim objNone fun x => objLine (x / 128)) writes a none [m.entry vc]
    ((lines.drop 1).map objLine)).recordPayload (portAgent port) m.mseq m.src.toNat m.op.payload

/-- A step's effect on the machine with recording set aside, which its caller records as one operation. -/
def CtlRes.unquiet {α : Type} (mode : BitVec 2) : CtlRes α → CtlRes α
  | .ok t x => .ok { t with recd := { t.recd with mode := mode } } x
  | .fault t c => .fault { t with recd := { t.recd with mode := mode } } c
  | .wait t p => .wait { t with recd := { t.recd with mode := mode } } p

/-- What an inbound message does that asks nothing back: a rank's part of a collective is kept for it (R424). -/
def State.keepPart (s : State) (m : PeerMsg) : State :=
  match m.op with
  | .coll g q off p d =>
    { s with links := { s.links with inbox := s.links.inbox ++ [{ src := m.src, group := g, seq := q, off := off, bad := p, data := d }] } }
  | _ => s

/-- A peer's request performed and answered; its operation counts in the port's chunk, with its payload (R88, R133).  A fault
here answers with a failure and leaves no record; where the access has to wait, nothing is done but start what it waits for, and
`none` tells that the message stays. -/
def State.takeRequest (s : State) (port : Nat) (m : PeerMsg) : State × Bool :=
  let vc := vcOf m.op
  let writes := (m.op.span).elim false fun x => x.2.2
  let ended (t : State) (data : List Byte) (fail poisoned : Bool) : State × Bool :=
    let u := t.noteMsg port vc m (t.peerLines m) writes
    (if m.op.span.isSome then u.answerPeer port m data fail poisoned else u.keepPart m, true)
  match (({ s with recd := { s.recd with mode := 0 } } : State).servePeer port m).unquiet s.recd.mode with
  | .ok t x => ended t x.1 false x.2
  | .fault t _ => ended t [] true false
  | .wait _ (some _) => ended s [] true false
  | .wait t none => (t, false)

/-- The ARRIVAL entry a port's next message has in replay (R142). -/
def State.dueEntry (s : State) (port : Nat) : Option DWord :=
  match s.logAt (portAgent port) with
  | some k => k.msgs[(s.agent (portAgent port)).ops]?
  | none => none

/-- The message a port delivers next on a channel: the oldest, or in replay the one its ARRIVAL entry names, from a sender inside
REPSET (R16, R142). -/
def State.nextMsg (s : State) (port vc : Nat) : Option PeerMsg :=
  let buf := (s.chan port vc).buf
  if s.replaying then
    match s.dueEntry port with
    | some e => buf.find? fun m => m.entry vc == e && s.inRepset m.src
    | none => none
  else buf.head?

/-- INBOUND_MESSAGE (R15, R16, R88, R424): arguments `a` port, `b` its channel of requests, 0, or of copy payload, 2; the next request there is
performed and answered, or the next part of a collective is kept.  The port's LINKCAL slot holds it (R57), and a channel that may send no
answer holds what needs one. -/
def execInboundMessage (s : State) : Host.Outcome State Fault Refusal :=
  let port := s.arg.a
  let vc := s.arg.b
  match if vc = 0 ∨ vc = 2 then s.nextMsg port vc else none with
  | none => .next s
  | some m =>
    if s.kindling || s.linkDown port || !s.mayOp (portAgent port) 0 0 || (m.op.span.isSome && !s.maySend port 1) then .next s
    else
      let (t, done) := s.takeRequest port m
      .next (if done then t.modBuf port vc fun l => l.erase m else t)

/-! ### Replies (R88) -/

/-- The reply to one lane of a peer request: its data, or FABRIC_ERROR for that lane; the request is served when every
lane has its reply. -/
def State.peerReply (s : State) (tag : Nat) (data : List Byte) (fail : Bool) : State :=
  match s.req? (tag / 32) with
  | none => s
  | some r =>
    let lane := tag % 32
    if r.stage ≠ .sent then s
    else if fail then
      match r.ops.find? fun o => o.lane == lane with
      | none => s
      | some o =>
        let left := r.ops.filter fun o => o.lane != lane
        let bad : Req := { r with id := s.nextId, ops := [o], got := [], stage := .served, err := some .fabricError }
        let kept : Req := { r with ops := left, sentN := r.sentN - 1, stage := if r.got.length = left.length then .served else .sent }
        { s with
          nextId := s.nextId + 1
          reqs := (s.reqs.map fun q => if q.id = r.id then kept else q).filter (fun q => !(q.id == r.id && left.isEmpty)) ++ [bad] }
    else
      let v : QWord := BitVec.ofNat 128 (leNat data)
      s.modReq r.id fun q =>
        { q with got := q.got ++ [(lane, v)], stage := if q.got.length + 1 = q.ops.length then .served else .sent }

/-- A reply's value as its register takes it: sign-extended for a signed load; a store's acknowledgement has none. -/
def Req.closeReplies (r : Req) : Req :=
  if r.stage ≠ .served then r
  else if r.dst = .none then { r with got := [] }
  else if r.sgn then
    { r with got := r.got.map fun g =>
        (g.1, if g.2.getLsbD (8 * r.size - 1) then g.2 ||| ~~~(BitVec.ofNat 128 (2 ^ (8 * r.size) - 1)) else g.2) }
  else r

/-- The answer to a copy's access of a peer: to a read it is kept for the segment, and to a write it counts (R411). -/
def State.copyReply (s : State) (id : Nat) (data : List Byte) (fail bad : Bool) : State :=
  if s.cmds.any fun k => k.asked.any fun a => a.1 == id then
    { s with links := { s.links with replies := s.links.replies ++ [{ tag := id, fail := fail, bad := bad, data := data }] } }
  else { s with cmds := s.cmds.map fun k =>
      if k.acks.contains id then { k with acks := k.acks.filter (· != id), nack := k.nack || fail } else k }

/-- What an answer does: it completes a lane of a peer access, or fails it (R88), or a copy's (R411); a timestamp measures the pod's offset (R62), in
the port's LINKCAL slot only. -/
def State.takeAnswer (s : State) (port : Nat) (m : PeerMsg) : State :=
  match m.op with
  | .answer data fail bad =>
    ((s.peerReply m.tag data fail).modReq (m.tag / 32) Req.closeReplies).copyReply (m.tag / 32) data fail bad
  | .stamp a b c =>
    let inSlot := s.slotNow fun e => entKind e == 1 && (entLinks e).getLsbD port
    if s.cal.alignEn && !s.cal.podRef && inSlot then s.podStamp a b c else s
  | _ => s

/-- PEER_RESPONSE_RECEIVE (R88): argument `a` port; its next answer is taken.  The port's LINKCAL slot holds it (R57), but for the
timestamps that such a slot carries (R62). -/
def execPeerResponseReceive (s : State) : Host.Outcome State Fault Refusal :=
  let port := s.arg.a
  match s.nextMsg port 1 with
  | none => .next s
  | some m =>
    let stamp := match m.op with
      | .stamp _ _ _ => true
      | _ => false
    if !s.mayOp (portAgent port) 0 0 || (s.linkDown port && !stamp) then .next s
    else .next (((s.modBuf port 1 fun l => l.erase m).noteMsg port 1 m [] false).takeAnswer port m)

/-! ### Reduction windows (R18 to R20) -/

/-- This device's contributions to a round complete, with FABRIC_ERROR or without. -/
def State.endContribution (s : State) (slot elem round : Nat) (err : Option Cause) : State :=
  s.endContribs slot (fun p => p.elem == elem && p.round == round) err

/-- The bytes of an element of a window (R20). -/
def WinDesc.size (d : WinDesc) : Nat := if d.ty = 1 then 8 else 4

/-- The operation of a window as an AOP (R20). -/
def WinDesc.aop (d : WinDesc) : BitVec 5 :=
  BitVec.ofNat 5 (match d.op.toNat with
    | 0 => if d.ty = 2 then 11 else 0
    | 1 => if d.ty = 2 then 12 else 4
    | 2 => if d.ty = 2 then 13 else 5
    | 3 => 1
    | 4 => 2
    | _ => 3)

/-- A merged result applied at the home as one read-modify-write; a failure fails the contributions (R20, R224). -/
def State.applyMerged (s : State) (w : Window) (elem : Nat) (m : DWord) : CtlRes (List Byte) :=
  let n := w.desc.size
  let va := w.desc.base + BitVec.ofNat 64 (n * elem)
  let site : FaultSite := { origin := 0, pc := 0, lseq := 0, core := 0xFF, slot := 0 }
  State.ctl w.ctx (portAgent (s.portFor s.devid elem)) site
    (ctlRmw va n fun old => atomNew w.desc.aop n old m.toNat) 4 s

/-- A round of a window over on this device: the element's next one is awaited, and this device's own contributions to it end (R19,
R20). -/
def State.endRound (s : State) (slot elem round : Nat) (err : Option Cause) : State :=
  (s.modWindow slot fun w => { w with merged := nput elem (round + 1) w.merged }).endContribution slot elem round err

/-- What the switches' result of a round does (R18 to R20).  A home applies it, answering over virtual channel 1 with whether that failed
(R15), and records the value of an arrival-order window; a source learns how the round ended.  A result that fails is of an abandoned
round, which leaves the home as it is.  The Boolean tells that nothing has to wait. -/
def State.takeMerged (s : State) (port slot : Nat) (w : Window) (m : PeerMsg) (elem round : Nat) (val : DWord) (fail : Bool) :
    State × Bool :=
  let note (t : State) (lines : List Nat) : State := t.noteMsg port 3 m lines (!lines.isEmpty)
  if w.desc.role = 2 ∨ fail then ((note s []).endRound slot elem round (if fail then some .fabricError else none), true)
  else
    let (s1, vals) := if w.desc.order then s.valueOf (portAgent port) 0 0 6 0 [val] else (s, [val])
    let closed (t : State) (bad : Bool) : State × Bool :=
      let line := t.memLine w.ctx (w.desc.base + BitVec.ofNat 64 (w.desc.size * elem))
      (((note t (if bad then [] else line.toList)).endRound slot elem round (if bad then some .fabricError else none)).answerPeer
        port m [] bad false, true)
    match (({ s1 with recd := { s1.recd with mode := 0 } } : State).applyMerged w elem (vals.headD 0)).unquiet s1.recd.mode with
    | .ok t _ => closed t false
    | .fault t _ => closed t true
    | .wait _ (some _) => closed s1 true
    | .wait t none => ({ t with recd := s.recd }, false)

/-- The window a result belongs to, where it is the result of its element's next round. -/
def State.windowOf (s : State) (home : BitVec 16) (winid : Word) (elem round size : Nat) : Option (Nat × Window) :=
  s.links.windows.find? fun p => p.2.isOpen && p.2.desc.homeDev == home && p.2.desc.winid == winid && p.2.desc.size == size
    && decide (elem * size < p.2.desc.bytes) && ngetD p.2.merged elem 0 == round

/-- WINDOW_MERGED_RESULT (R15, R18, R20): argument `a` port, whose next message on virtual channel 3 is the switches' result of a
round; a home takes it once it may send its answer. -/
def execWindowMergedResult (s : State) : Host.Outcome State Fault Refusal :=
  let port := s.arg.a
  match s.nextMsg port 3 with
  | none => .next s
  | some m =>
    if s.kindling || s.linkDown port || !s.mayOp (portAgent port) 0 0 then .next s
    else
      let (t, done) := match m.op with
        | .merged home winid elem round size val fail => match s.windowOf home winid elem round size with
          | some (slot, w) =>
            if w.desc.role ≠ 2 ∧ !fail ∧ !s.maySend port 1 then (s, false) else s.takeMerged port slot w m elem round val fail
          | none => (s.noteMsg port 3 m [] false, true)
        | _ => (s.noteMsg port 3 m [] false, true)
      .next (if done then t.modBuf port 3 fun l => l.erase m else t)

/-- WINDOW_ROUND_TIMEOUT (R19): arguments `a` window slot, `b` element, `c` round, missing a contribution for 2^24 ticks, counted
from this device's own contribution, or from the window's opening where it has made none: the round is abandoned. -/
def execWindowRoundTimeout (s : State) : Host.Outcome State Fault Refusal :=
  match nget s.links.windows s.arg.a with
  | none => .next s
  | some w =>
    let mine := w.pend.filter fun p => p.elem == s.arg.b && p.round == s.arg.c
    let since := (mine.map fun p => p.tick).foldl max w.openAt
    if s.tick < since + 2 ^ 24 ∨ !w.isOpen ∨ ngetD w.merged s.arg.b 0 ≠ s.arg.c then .next s
    else .next (s.endRound s.arg.a s.arg.b s.arg.c (some .fabricError))

/-- The end of a host command's own effect: it waits to be journaled (R73). -/
def State.endHostCmd (s : State) (slot : Nat) (seq : Word) (fail : Option Cause) : State :=
  { s with host := { s.host with cmds := s.host.cmds.map fun h =>
      if h.slot = slot ∧ h.seq = seq then { h with stage := .finished fail } else h } }

/-- WINDOW_OPEN_ACK (R20): arguments `a` window slot, `flag` whether the switches hold the window with different fields.  To a
home that is closing a window, `flag2` says that the switches hold no round of it any more. -/
def execWindowOpenAck (s : State) : Host.Outcome State Fault Refusal :=
  match nget s.links.windows s.arg.a with
  | none => .next s
  | some w =>
    if w.isOpen then .next (if w.closing && s.arg.flag2 then s.modWindow s.arg.a fun w => { w with drained := true } else s)
    else if s.arg.flag then
      .next (({ s with links := { s.links with windows := ndel s.arg.a s.links.windows } } : State).endHostCmd w.slot w.seq
        (some .collectiveMismatch))
    else .next ((s.modWindow s.arg.a fun w => { w with isOpen := true, openAt := s.tick }).endHostCmd w.slot w.seq none)

/-! ### DRAM alerts (R38) -/

/-- HBM_ALERT (R38, R53): arguments `a` stack, `b` the dropped command, `v` its channel, bank and row as WHERE lays them from
bit 4 up; its fourth failure in a row is a machine check. -/
def execHbmAlert (s : State) : Host.Outcome State Fault Refusal :=
  if 12 ≤ s.arg.a then .next s
  else
    let old := ngetD s.mem.alerts s.arg.a 0
    let n := if old / 8 = s.arg.b then old % 8 + 1 else 1
    let s1 := ({ s with mem := { s.mem with alerts := nput s.arg.a (8 * s.arg.b + n % 4) s.mem.alerts } } : State).errRecord
      5 0 0 0 (BitVec.ofNat 32 s.arg.a ||| (s.arg.v.setWidth 32 <<< 4)) 0 0
    .next (if n = 4 then s1.machineCheck else s1)

end Sys2Proof.Machine
end

