-- ==== Sys2Proof/Machine/Log.lean ====
section
/-! DEFINITION. The ash ring and its checkpoints, and the log as replay reads it (R123, R127, R128, R130, R137 to R143). -/

namespace Sys2Proof.Machine

/-! ### Writing the ash ring (R130) -/

/-- The 4 KiB pages of the ash ring (R123, R130). -/
def State.ashPages (s : State) : Nat :=
  (if 1 ≤ s.recd.ashSize.toNat ∧ s.recd.ashSize.toNat ≤ 64 then s.recd.ashSize.toNat else 1) * 262144

/-- Whether the ring is full under the stop policy (R130). -/
def State.ashFull (s : State) : Bool :=
  s.recd.policy && (s.recd.ashHead.toNat + 1) % s.ashPages == s.recd.ashTail.toNat % s.ashPages

/-- Recording stopped by a full ring: partial pages are abandoned, and every resident or parked block is told (R130). -/
def State.stopRecording (s : State) : State :=
  let s1 := { s with recd := { s.recd with stopped := true, pages := [] } }
  s.blks.foldl
    (fun t p =>
      if p.2.info.isCopy || p.2.stat == .admitted then t
      else t.asyncTrap (p.1 / 16) (p.1 % 16) 32
        { cause := .recordOverflow, origin := 0, more := 0, serviced := false, pc := 0, addr := 0, lseq := 0, issuer := 0 }) s1

/-- A page written to the ring at HEAD; under the stop policy the page that fills the ring stops recording (R130). -/
def State.putPage (s : State) (page : List Byte) : State :=
  if s.recd.stopped then s
  else if s.ashFull then s.stopRecording
  else
    let s1 := s.pokePa (s.recd.ashBase.toNat + 4096 * (s.recd.ashHead.toNat % s.ashPages)) page
    let s2 := { s1 with recd := { s1.recd with ashHead := BitVec.ofNat 32 ((s.recd.ashHead.toNat + 1) % s.ashPages) } }
    if s2.ashFull then s2.stopRecording else s2

/-- The full pages of a source written, oldest first. -/
def State.writePages (s : State) (source : Nat) : State :=
  match nget s.recd.pages source with
  | none => s
  | some p =>
    p.full.foldl (fun t page => t.putPage page)
      { s with recd := { s.recd with pages := nput source { p with full := [] } s.recd.pages } }

/-- RECORDER_PAGE_WRITE (R130): argument `a` names the source. -/
def execRecorderPageWrite (s : State) : Host.Outcome State Fault Refusal :=
  match nget s.recd.pages s.arg.a with
  | some p => if s.recd.mode = 1 ∧ p.full ≠ [] then .next (s.writePages s.arg.a).admitReqs else .next s
  | none => .next s

/-- Every source's current page ended and written. -/
def State.flushPages (s : State) : State :=
  (List.range 26).foldl
    (fun t k => match nget t.recd.pages k with
      | none => t
      | some p => ({ t with recd := { t.recd with pages := nput k (p.endPage k) t.recd.pages } } : State).writePages k) s

/-- Every agent's open chunk closed (R127). -/
def State.closeAll (s : State) (close : Nat) : State := s.recd.agents.foldl (fun t p => t.closeChunk p.1 close) s

/-- CHUNK_IDLE_CLOSE (R127): argument `a` names the agent. -/
def execChunkIdleClose (s : State) : Host.Outcome State Fault Refusal :=
  if s.idleChunk s.arg.a then .next (s.closeChunk s.arg.a 9) else .next s

/-- CONFLICT_SIGNAL (R128): arguments `a` agent, `v` the chunk; one that is already closed closes nothing. -/
def execConflictSignal (s : State) : Host.Outcome State Fault Refusal :=
  if (s.agent s.arg.a).cseq = s.arg.v.toNat then .next (s.closeChunk s.arg.a 6) else .next s

/-! ### Checkpoints (R137 to R139) -/

/-- One 4 KiB page of a dirty bitmap. -/
def bitmapPage (dirty : List Nat) (page : Nat) : List Byte := bitBytes 4096 fun i => dirty.contains (page * 32768 + i)

/-- The member counts and phase of a phaser in the state block (R139). -/
def Phaser.bytes (p : Phaser) : List Byte :=
  let n (m : BitVec 2) : Nat := (p.members.filter fun x => x.mode == m).length
  leBytes 8 p.phase ++ leBytes 2 (n 0) ++ leBytes 2 (n 1) ++ leBytes 2 (n 2) ++ leBytes 2 0

/-- The parts of the state block, by offset in the checkpoint area (R139). -/
def State.stateBlock (s : State) : List (Nat × List Byte) :=
  (List.range 128).map (fun i => (4096 * i, bitmapPage s.recd.dirty0 i))
    ++ (List.range 128).map (fun i => (0x80000 + 4096 * i, bitmapPage s.recd.dirty1 i))
    ++ (List.range 1024).map (fun n => (0x100000 + 8 * n, leBytes 8 (s.timeline n).toNat))
    ++ (List.range 4096).map (fun n => (0x102000 + 16 * n, (s.phaser n).bytes))
    ++ ((s.stoker.ready.map fun (r : Nat × Word × DWord) => r.2.2) ++ [0]).mapIdx
      (fun i (a : DWord) => (0x112000 + 8 * i, leBytes 8 a.toNat))
    ++ (List.range 256).map (fun n => (0x912000 + 8 * n, leBytes 4 (s.slot n).head.toNat ++ leBytes 4 (s.slot n).tail.toNat))
    ++ [(0x912800, leBytes 8 s.tick)]

/-- The CKPT record, in a page of its own (R137, R138). -/
def State.ckptRecord (s : State) (closed : Bool) : State :=
  let next := (s.recd.ashHead.toNat + 1) % s.ashPages
  ((s.ashRecord 24
    (recordBytes 6 [at64 32 s.recd.ckSeq.toNat, BitVec.ofNat 64 s.tick, at64 0 next ||| at64 32 closed.toNat, 0])).flushPages)

/-- Steps 3 to 5 of a checkpoint (R138): chunks close, pages end, the state block and the CKPT record are written, and the
other bitmap starts from nothing. -/
def State.checkpoint (s : State) : State :=
  let s1 := (s.closeAll 8).flushPages
  let s2 := s1.stateBlock.foldl (fun t p => t.pokePa (s1.recd.ckBase.toNat + p.1) p.2) s1
  let cur := s1.recd.ckCur
  let s3 := { s2 with recd := { s2.recd with
    ckCur := !cur, dirty0 := if cur then [] else s2.recd.dirty0, dirty1 := if cur then s2.recd.dirty1 else [] } }
  let s4 := if s3.recording then s3.ckptRecord cur else s3
  { s4 with recd := { s4.recd with ckSeq := s4.recd.ckSeq + 1, ckBusy := false } }

/-- CHECKPOINT_COMPLETE (R138): once no KERNEL, COPY or COLL node is RUNNING; a take-over in progress goes first. -/
def execCheckpointComplete (s : State) : Host.Outcome State Fault Refusal :=
  let runs := s.stoker.nodes.any fun n => n.state == 3 && decide ((n.words.headD 0).toNat % 65536 ≤ 3) && !n.closed
  if s.recd.ckBusy && !runs && s.stoker.forwarding then .next s.checkpoint else .next s

/-! ### Reading the log (R140, R141) -/

/-- Words of a byte list. -/
def dwordsOf : Nat → List Byte → List DWord
  | 0, _ => []
  | n + 1, l => BitVec.ofNat 64 (leNat (l.take 8)) :: dwordsOf n (l.drop 8)

/-- Four-byte halves of words. -/
def halves (l : List DWord) : List Word := (l.map fun w : DWord => [w.setWidth 32, (w >>> 32).setWidth 32]).flatten

/-- A CHUNK or ARRIVAL record (R132, R133). -/
def chunkOf (w0 w1 : DWord) (body : List DWord) : LogChunk :=
  let agent := (fld w0 16 10).toNat
  let n := (fld w0 45 8).toNat
  let port := decide (384 ≤ agent) && decide (agent < 408)
  let entries := if port then n else (n + 1) / 2
  { agent := agent
    cseq := (fld w1 0 48).toNat
    close := (fld w0 26 4).toNat
    len := (fld w0 32 13).toNat
    fold := fld w1 48 16
    runs := if port then [] else ((halves (body.take entries)).take n).map fun x =>
      { issuer := fld x 0 10, lane := fld x 10 5, count := (fld x 16 12).toNat + 1 }
    msgs := if port then body.take n else []
    stamps := ((body.drop entries).take (fld w0 53 8).toNat).map fun x => ((fld x 0 10).toNat, (fld x 16 48).toNat) }

/-- One record of the log added to what replay holds. -/
def Recd.addRecord (r : Recd) (type : Nat) (ws : List DWord) : Recd :=
  let w (i : Nat) : DWord := ws.getD i 0
  match type with
  | 1 | 2 => { r with log := r.log ++ [chunkOf (w 0) (w 1) (ws.drop 2)] }
  | 3 =>
    { r with values := r.values ++ [{
        agent := (fld (w 0) 16 10).toNat, cseq := (fld (w 1) 0 48).toNat, op := (fld (w 0) 32 13).toNat
        kind := (fld (w 0) 26 4).toNat, mask := fld (w 2) 0 32, vals := ws.drop 3 }] }
  | 4 =>
    { r with atraps := r.atraps ++ [{
        agent := (fld (w 0) 16 10).toNat, cseq := (fld (w 1) 0 48).toNat, op := (fld (w 0) 32 13).toNat
        issuer := (fld (w 0) 48 10).toNat, lane := (fld (w 0) 58 5).toNat, cause := (fld (w 0) 26 6).toNat, pc := w 2
        lseq := fld (w 3) 0 32 }] }
  | 5 => { r with places := r.places ++ [((w 0).toNat, w 1, w 2, w 3)] }
  | 7 =>
    { r with payloads := r.payloads ++ [((fld (w 0) 16 10).toNat, (fld (w 0) 32 32).toNat, (fld (w 1) 0 16).toNat,
        (dwordBytes (ws.drop 2)).take (fld (w 1) 16 12).toNat)] }
  | _ => r

/-- The records of a page, up to its end; `n` bounds their number. -/
def Recd.addPage : Nat → List Byte → Recd → Recd
  | 0, _, r => r
  | n + 1, l, r =>
    let type := (l.headD 0).toNat
    let quads := ((l.drop 1).headD 0).toNat
    if type = 0 ∨ quads = 0 ∨ l.length < 16 * quads then r
    else Recd.addPage n (l.drop (16 * quads)) (r.addRecord type (dwordsOf (2 * quads) l))

/-- The pages of the log from ring index `i` on, up to the first that is no page.  DESIGN CHOICE: R140 does not say how the device finds the
log's end; it is the first page whose TYPE is not a page header's, or one whole turn of the ring (log entry 47). -/
def State.readLog (s : State) : Nat → Nat → Recd → Recd
  | 0, _, r => r
  | n + 1, i, r =>
    match s.homeOf (s.recd.ashBase.toNat + 4096 * (i % s.ashPages)) with
    | .error _ => r
    | .ok a =>
      let page := s.peek a 4096
      if (page.headD 0).toNat = 15 then
        State.readLog s n (i + 1) { Recd.addPage 255 (page.drop 16) r with ashTail := BitVec.ofNat 32 ((i + 1) % s.ashPages) }
      else r

/-- The chunk each agent starts replay at: its first in the log (R140); a port waits for its first message from then on (R142). -/
def Recd.firstChunks (r : Recd) (tick : Nat) : NMap Agent :=
  r.log.foldl (fun m k => if (nget m k.agent).isSome then m else nput k.agent { Agent.empty k.cseq with lastOp := tick } m) []

/-! ### Changes of MODE (R123, R140, R143) -/

/-- Whether a context has CTXSTAT.ACTIVE set (R68): queued or unfinished commands, blocks, engine commands, or a kill that
has not completed. -/
def State.ctxActive (s : State) (c : Nat) : Bool :=
  (s.ctx c).killing || (s.host.cmds.any fun h => h.ctx == c)
    || (s.host.slots.any fun p => p.2.en && p.2.ctx.toNat == c && p.2.head != p.2.tail)
    || (s.blks.any fun p => p.2.info.ctx == c) || (s.cmds.any fun k => k.ctx == c) || s.colls.any fun k => k.ctx == c

/-- Whether a range lies wholly in directly addressable HBM, in cache mode or not (R37, R47). -/
def directRange (cacheMode : Bool) (a n : Nat) : Bool :=
  if cacheMode then
    (decide (a + n ≤ hbmBytes) && decide (a % stackBytes + n ≤ directBytes))
      || (decide (spreadBase ≤ a) && decide (a - spreadBase + n ≤ 12 * directBytes))
  else decide (a + n ≤ hbmBytes) || (decide (spreadBase ≤ a) && decide (a - spreadBase + n ≤ hbmBytes))

/-- Whether a range of the local view touches an image region or the calendar page (R60, R287); in the spread view its pages
are tried one by one. -/
def reservedRange (a n : Nat) : Bool :=
  let hit (a n : Nat) : Bool :=
    overlaps a n calPageBase 65536 || (List.range 4).any fun d => overlaps a n (imageBase (48 * d) 0) 3221225472
  if a < spreadBase then hit a n
  else (List.range ((n + 4095) / 4096 + 1)).any fun i =>
    let p := (a - spreadBase) / 4096 + i
    hit (p % 12 * stackBytes + p / 12 * 4096) 4096

/-- Whether the ash ring and the checkpoint area may be written (R123). -/
def State.areasOk (s : State) : Bool :=
  let ok (a n : Nat) : Bool := directRange s.mem.cacheOn a n && !reservedRange a n
  ok s.recd.ashBase.toNat (4096 * s.ashPages) && ok s.recd.ckBase.toNat 0x912808

/-- What recording and replay keep, from the start. -/
def Recd.fresh (r : Recd) : Recd :=
  { r with
    stopped := false, ended := false, halted := false, agents := [], objs := [], pages := [], log := [], committed := []
    values := [], atraps := [], places := [], payloads := [], ready := [], early := false, past := [], failed := [], dseq := 0 }

/-- MODE set to 1 (R123): counters, HEAD and DSEQ start again, both bitmaps are cleared, and checkpoint 0 is taken. -/
def State.startRecord (s : State) : State :=
  ({ s with recd := { s.recd.fresh with
    mode := 1, ashHead := 0, hostSeq := 0, dirty0 := [], dirty1 := [], ckSeq := 0, ckCur := false } } : State).checkpoint

/-- Words read from the state block of a checkpoint. -/
def State.ckWord (s : State) (off n : Nat) : Nat :=
  match s.homeOf (s.recd.ckBase.toNat + off) with
  | .ok a => leNat (s.peek a n)
  | .error _ => 0

/-- The node records listed in a state block, up to the zero. -/
def State.ckReady (s : State) : Nat → Nat → List DWord
  | 0, _ => []
  | n + 1, i =>
    let a := s.ckWord (0x112000 + 8 * i) 8
    if a = 0 then [] else BitVec.ofNat 64 a :: State.ckReady s n (i + 1)

/-- MODE set to 2 (R140): timelines, phasers, the ready list and queue heads come from the state block, and each agent's
first chunk from the log. -/
def State.startReplay (s0 : State) : State :=
  let s := if s0.recording then (s0.closeAll 10).flushPages else s0
  let r := s.readLog s.ashPages s.recd.ashTail.toNat { s.recd.fresh with mode := 2, hostSeq := 0, lastProgress := s.tick }
  { s with
    recd := { r with agents := r.firstChunks s.tick, ready := s.ckReady 1048576 0 }
    tls := ((List.range 1024).map fun n => (n, BitVec.ofNat 64 (s.ckWord (0x100000 + 8 * n) 8))).filter fun p => p.2 != 0
    phasers := ((List.range 4096).map fun n =>
      (n, { phase := s.ckWord (0x102000 + 16 * n) 8, owner := 0, members := [] })).filter fun p => p.2.phase != 0
    host := { s.host with slots := (List.range 256).map fun n => (n, { s.slot n with
      loaded := some (BitVec.ofNat 32 (s.ckWord (0x912000 + 8 * n) 4), BitVec.ofNat 32 (s.ckWord (0x912004 + 8 * n) 4)) }) } }

/-- A party whose pending asynchronous traps are discarded (R142). -/
def Thr.dropAsync (t : Thr) : Thr := { t with asyncQ := [], lost := 0, tagRec := none }

/-- MODE set to 0 (R123): every chunk closes and every page is written; after a divergence the blocks parked for it go on.  The live
asynchronous traps of a replay are discarded (R142). -/
def State.stopMode (s : State) : State :=
  let s0 := if s.recording then (s.closeAll 10).flushPages else s
  let s1 : State := if s.recd.mode = 2 then
      { s0 with blks := s0.blks.map fun p => (p.1, { p.2 with thrs := p.2.thrs.map fun q => (q.1, q.2.dropAsync) }) }
    else s0
  { s1 with
    recd := { s1.recd.fresh with mode := 0, dseq := s1.recd.dseq, stopped := false }
    blks := s1.blks.map fun p => if p.2.parkReason % 8 = 4 then (p.1, { p.2 with parkReason := p.2.parkReason / 8 * 8 + 1 }) else p
    host := { s1.host with slots := s1.host.slots.map fun p => (p.1, { p.2 with loaded := none }) } }

/-- The effect of MODE in a write of RECCTL (R123). -/
def State.writeMode (s : State) (m : BitVec 2) : State :=
  let busy := (List.range 64).any s.ctxActive
  if m = s.recd.mode then s
  else if m = 3 ∨ (busy ∧ !(s.recd.diverged ∧ m = 0)) ∨ (m ≠ 0 ∧ !s.areasOk) then
    { s with recd := { s.recd with modeRef := true } }
  else if m = 0 then s.stopMode
  else if m = 1 then s.startRecord
  else s.startReplay

/-- A write of RECCTL (R123). -/
def State.writeRecctl (s : State) (v : DWord) : State :=
  let s1 := { s with recd := { s.recd with
    policy := v.getLsbD 2, boundary := v.getLsbD 3, devid := fld v 16 16
    modeRef := s.recd.modeRef && !v.getLsbD 10 } }
  let s2 := s1.writeMode (fld v 0 2)
  { s2 with recd := { s2.recd with
      diverged := s2.recd.diverged && !v.getLsbD 8
      ckBusy := s2.recd.ckBusy || v.getLsbD 4
      halted := s2.recd.halted && !v.getLsbD 5 } }

/-- RECORD_MODE_OFF (R123): argument `v` is the value written to RECCTL. -/
def execRecordModeOff (s : State) : Host.Outcome State Fault Refusal :=
  if fld s.arg.v 0 2 = 0 then .next (s.writeRecctl s.arg.v).admitReqs else .next s

/-- RECORD_MODE_START (R123): argument `v` is the value written to RECCTL. -/
def execRecordModeStart (s : State) : Host.Outcome State Fault Refusal :=
  if fld s.arg.v 0 2 = 1 then .next (s.writeRecctl s.arg.v) else .next s

/-- REPLAY_MODE_START (R123, R140): argument `v` is the value written to RECCTL. -/
def execReplayModeStart (s : State) : Host.Outcome State Fault Refusal :=
  if fld s.arg.v 0 2 = 2 then .next (s.writeRecctl s.arg.v) else .next s

/-- RECCTL_CKREQ (R138): argument `v` is the value written to RECCTL; a request made while BUSY changes nothing. -/
def execRecctlCkreq (s : State) : Host.Outcome State Fault Refusal :=
  if s.arg.v.getLsbD 4 then .next (s.writeRecctl s.arg.v) else .next s

/-- RECCTL_RESUME (R144): argument `v` is the value written to RECCTL. -/
def execRecctlResume (s : State) : Host.Outcome State Fault Refusal :=
  if s.arg.v.getLsbD 5 then .next (s.writeRecctl s.arg.v).admitReqs else .next s

/-! ### Ends of replay (R141 to R144) -/

/-- Whether the log holds no chunk that has not committed. -/
def State.logDone (s : State) : Bool := s.recd.log.all fun k => s.recd.committed.contains (k.agent, k.cseq)

/-- Whether a PLACE record still to be made brings a block to a core (R136). -/
def State.comesTo (s : State) (core : Nat) : Bool :=
  s.recd.places.any fun p =>
    let event := p.1 / 2 ^ 16 % 8
    (decide (event ≤ 1) && (fld p.2.2.1 32 5).toNat == core / 8 && p.2.2.1.getLsbD (40 + core % 8))
      || (event == 5 && (fld p.2.2.1 48 8).toNat == core) || event == 7

/-- Whether the issuer whose turn it is in an agent's logged chunk can no longer perform the logged operation (R143): it has
exited, or every sub-warp it has left is held by R141 and none has the run's LANE as its lowest.  An asynchronous trap that the log
places before the operation is taken first. -/
def State.issuerGone (s : State) (k : LogChunk) : Bool :=
  match runAt k.runs (s.agent k.agent).ops with
  | none => false
  | some r =>
    let (bctx, w, lane) := (r.issuer.toNat / 64, r.issuer.toNat % 64, r.lane.toNat)
    let owes := (s.reqs.any fun q => q.core == k.agent && q.bctx == bctx && q.w == w && q.low == lane && q.open)
      || s.rels.any fun q => q.core == k.agent && q.bctx == bctx && q.w == w && q.low == lane
    match s.thr? k.agent bctx w with
    | none => !s.comesTo k.agent && !owes
    | some t => !owes && (s.trapDue k.agent).isNone && (t.exited || (t.live &&& ~~~t.turned == 0
        && !(t.live.getLsbD lane && lowestLane (t.subWarp lane 0xFFFFFFFF) == lane)))

/-- What replay decides without an operation (R143, R144): a breakpoint whose place has been reached halts the device before
its operation, with a trap of the same place taken first; a logged operation that can no longer be performed is a divergence; with the
log exhausted the device halts.  Then the requests whose turn has come leave their cores (R126, R141). -/
def State.replayTick (s : State) : State :=
  if s.recd.mode = 0 ∨ s.recd.halted then s
  else if !s.replaying then s.admitReqs
  else if s.logDone then { s with recd := { s.recd with halted := true, ended := true } }
  else
    match (s.recd.brks.filterMap fun p =>
        if (s.trapDue p.2.agent.toNat).isNone then s.brkAt p.2.agent.toNat else none).head? with
    | some p => s.breakAt p
    | none => match s.recd.log.find? fun k => k.agent < 192 && k.cseq == (s.agent k.agent).cseq
        && !s.recd.failed.contains (k.agent, k.cseq) && s.issuerGone k with
      | some k => s.diverge k.agent 1 (s.agent k.agent).ops
      | none => s.settle s.admitReqs

/-- REPLAY_STALL_TIMEOUT (R143). -/
def execReplayStallTimeout (s : State) : Host.Outcome State Fault Refusal :=
  if s.replaying && !s.recd.halted && !s.logDone && decide (s.recd.lastProgress + 2 ^ 24 ≤ s.tick) then
    let a := (s.recd.log.find? fun k => !s.recd.committed.contains (k.agent, k.cseq)).elim 0 fun k => k.agent
    .next (s.diverge a 7 (s.agent a).ops)
  else .next s

/-- The message of a PAYLOAD record (R133, R142): a store of its data.  The record keeps neither address nor operation, so
which request it was is not given. -/
def State.payloadOf (s : State) (agent : Nat) (mseq src : Nat) : Option (List Byte) :=
  (s.recd.payloads.find? fun p => p.1 == agent && p.2.1 == mseq && p.2.2.1 == src).map fun p => p.2.2.2

end Sys2Proof.Machine
end

