-- ==== Sys2Proof/Machine/Regs.lean ====
section
/-! DEFINITION. The registers of BAR0 (R33, R34, R46, R52, R59, R67, R68, R70, R75, R90, R92) and of the Nuntaok space (R123):
what a read returns and what a write does (R4). -/

namespace Sys2Proof.Machine

/-- A W1C bit after a write (R4). -/
def w1c (b : Bool) (v : DWord) (i : Nat) : Bool := b && !v.getLsbD i

/-- A bit laid in a register. -/
def bitAt (i : Nat) (b : Bool) : DWord := at64 i b.toNat

/-- A value with the bits below `n` cleared, for registers whose low bits are reserved (R4). -/
def above (n : Nat) (v : DWord) : DWord := v >>> n <<< n

/-! ### What a read returns (R4) -/

/-- DEVSTAT (R33). -/
def State.readDevstat (s : State) : DWord :=
  at64 0 s.dev.stage.toNat ||| bitAt 3 s.dev.fwFail ||| at64 8 s.dev.clusterUp.toNat ||| at64 32 s.dev.stackUp.toNat
    ||| bitAt 44 s.dev.hearth1Up ||| at64 45 s.dev.capUp.toNat ||| bitAt 49 s.dev.host1Up

/-- VBPSTAT of a port (R34). -/
def VPort.read (p : VPort) : DWord :=
  at64 0 p.st.toNat ||| at64 2 p.lanesUp.toNat ||| bitAt 6 p.crcErr ||| bitAt 7 p.downEv ||| at64 8 p.replays.toNat

/-- A context's registers, by their offset in its block (R68); write-only fields read as zero. -/
def State.readCtx (s : State) (c off : Nat) : DWord :=
  let x := s.ctx c
  match off with
  | 0x00 => bitAt 0 x.en ||| at64 1 x.prio.toNat ||| at64 4 x.weight.toNat ||| bitAt 12 x.link ||| bitAt 13 x.svm
      ||| at64 14 x.pasid.toNat
  | 0x08 => x.root
  | 0x10 => x.vec
  | 0x18 => at64 0 x.wdog.toNat
  | 0x20 => x.fqBase
  | 0x28 => at64 0 x.fqSize.toNat ||| at64 32 x.fqHead.toNat
  | 0x30 => at64 0 x.fqTail.toNat
  | 0x40 => bitAt 1 x.invalBusy
  | 0x48 => bitAt 0 (s.ctxActive c) ||| bitAt 1 x.killed ||| at64 2 x.cause.toNat
  | _ => 0

/-- A queue slot's registers, by their offset in its block (R70). -/
def State.readSlot (s : State) (n off : Nat) : DWord :=
  let q := s.slot n
  match off with
  | 0x00 => q.base
  | 0x08 => bitAt 0 q.en ||| at64 1 q.size.toNat ||| bitAt 5 q.loc ||| at64 6 q.ctx.toNat
  | 0x10 => at64 0 q.head.toNat ||| at64 32 q.tail.toNat
  | 0x18 => bitAt 0 q.waitSeq ||| bitAt 1 q.badKick
  | _ => 0

/-- A read of BAR0 (R67); an offset not listed reads as zero. -/
def State.readBar0 (s : State) (off : Nat) : DWord :=
  if 0x200 ≤ off ∧ off ≤ 0x2B8 ∧ off % 8 = 0 then (s.links.ports.getD ((off - 0x200) / 8) VPort.reset).read
  else if 0x1000 ≤ off ∧ off < 0x3000 then s.readSlot ((off - 0x1000) / 0x20) (off % 0x20)
  else if 0x10000 ≤ off ∧ off < 0x14000 then s.readCtx ((off - 0x10000) / 0x100) (off % 0x100)
  else match off with
    | 0x100 => s.readDevstat
    | 0x400 => s.mem.errBase
    | 0x408 => at64 0 s.mem.errSize.toNat ||| bitAt 5 s.mem.errEn ||| bitAt 6 s.mem.errOvf ||| at64 32 s.mem.errHead.toNat
    | 0x410 => at64 0 s.mem.errTail.toNat
    | 0x500 => bitAt 1 s.cal.busy ||| at64 2 s.cal.result.toNat ||| at64 4 s.cal.failEntry.toNat
        ||| at64 12 s.cal.reason.toNat ||| at64 16 s.cal.count.toNat ||| bitAt 25 s.cal.podRef ||| bitAt 26 s.cal.alignEn
        ||| at64 32 s.cal.gen.toNat
    | 0x508 => s.cal.src
    | 0x510 => s.cal.target
    | 0x518 => BitVec.ofNat 64 calPageBase
    | 0x600 => bitAt 0 s.mem.cacheReq ||| bitAt 1 s.mem.cacheOn ||| bitAt 2 s.mem.cacheBusy ||| bitAt 3 s.mem.refused
        ||| bitAt 4 s.mem.kindlingRef
    | 0x700 => bitAt 1 s.dev.fwBusy ||| at64 2 s.dev.fwResult.toNat ||| at64 4 s.dev.fwReason.toNat
    | 0x708 => s.dev.fwAddr
    | 0x710 => at64 0 s.dev.fwLen.toNat
    | 0x800 => s.host.jrnBase
    | 0x808 => at64 0 s.host.jrnSize.toNat ||| bitAt 5 s.host.jrnEn ||| at64 32 s.host.jrnHead.toNat
    | 0xA00 => at64 0 s.dev.hostAtom.toNat
    | 0xA08 => s.dev.bar2Base
    | _ => 0

/-- A watchpoint's registers (R123). -/
def Watch.read (w : Watch) (off : Nat) : DWord :=
  match off with
  | 0x00 => w.va
  | 0x08 => at64 0 w.len.toNat ||| at64 40 w.kinds.toNat ||| bitAt 44 w.vcmp ||| at64 45 w.scope.toNat
      ||| at64 48 w.lane.toNat ||| at64 53 w.warp.toNat ||| at64 58 w.rank.toNat
  | 0x10 => at64 0 w.nodeId.toNat ||| at64 32 w.gang.toNat
  | 0x18 => w.value
  | 0x20 => w.mask
  | _ => 0

/-- A read of the Nuntaok space (R123); an offset not listed reads as zero. -/
def State.readNuntaok (s : State) (off : Nat) : DWord :=
  let r := s.recd
  if 0x40 ≤ off ∧ off < 0xC0 then
    let b := ngetD r.brks ((off - 0x40) / 16) Brk.reset
    match off % 16 with
    | 0 => at64 0 b.agent.toNat ||| at64 16 b.cseq.toNat
    | 8 => at64 0 b.op.toNat ||| bitAt 13 b.en ||| bitAt 14 b.hit
    | _ => 0
  else if 0x10000 ≤ off ∧ off < 0x20000 then
    (ngetD s.watch ((off - 0x10000) / 0x40) Watch.reset).read (off % 0x40)
  else match off with
    | 0x00 => at64 0 r.mode.toNat ||| bitAt 2 r.policy ||| bitAt 3 r.boundary ||| bitAt 6 r.halted ||| bitAt 7 r.stopped
        ||| bitAt 8 r.diverged ||| bitAt 9 r.ended ||| bitAt 10 r.modeRef ||| at64 16 r.devid.toNat
    | 0x08 => r.ashBase
    | 0x10 => at64 0 r.ashSize.toNat ||| at64 32 r.ashHead.toNat
    | 0x18 => at64 0 r.ashTail.toNat
    | 0x20 => r.ckBase
    | 0x28 => at64 0 r.ckSeq.toNat ||| bitAt 32 r.ckBusy ||| bitAt 33 r.ckCur
    | 0x30 => at64 0 r.divAgent.toNat ||| at64 10 r.divReason.toNat ||| at64 16 r.divCseq.toNat
    | 0x38 => at64 0 r.divOp.toNat
    | 0xC0 => r.repset
    | 0x100 => s.trace.base
    | 0x108 => at64 0 s.trace.k.toNat ||| bitAt 5 s.trace.en ||| at64 6 s.trace.j.toNat ||| bitAt 11 s.trace.sampEn
        ||| at64 12 s.trace.size.toNat ||| at64 32 s.trace.head.toNat
    | 0x110 => at64 0 s.trace.tail.toNat ||| at64 32 s.trace.lost.toNat
    | 0x200 => at64 0 s.stepctl.core.toNat ||| at64 8 s.stepctl.bctx.toNat ||| at64 12 s.stepctl.warp.toNat
        ||| at64 17 s.stepctl.lane.toNat ||| bitAt 22 s.stepctl.all ||| bitAt 25 s.stepctl.done ||| bitAt 26 s.stepctl.blocked
        ||| at64 27 s.stepctl.cause.toNat
    | _ => 0

/-! ### MEMCFG (R31, R46 to R48) -/

/-- Whether every area that must stay directly addressable lies in the direct portion of cache mode (R48, R123). -/
def State.areasDirect (s : State) : Bool :=
  let ok (a n : Nat) : Bool := directRange true a n
  ok s.recd.ashBase.toNat (4096 * s.ashPages) && ok s.host.jrnBase.toNat (32 * s.jrnRing)
    && ok s.mem.errBase.toNat (32 * s.errRing) && (s.recd.mode == 0 || ok s.recd.ckBase.toNat 0x912808)

/-- A write of MEMCFG (R31, R46, R48).  DESIGN CHOICE: a change refused in Kindling mode sets KINDLING and leaves REFUSED as it
is; R46 gives each bit its own reason and does not say that one sets the other (log entry 41). -/
def State.writeMemcfg (s : State) (v : DWord) : State :=
  let new := v.getLsbD 0
  let m := { s.mem with refused := w1c s.mem.refused v 3, kindlingRef := w1c s.mem.kindlingRef v 4 }
  if new = s.mem.cacheReq then { s with mem := m }
  else if new && s.kindling then { s with mem := { m with kindlingRef := true } }
  else if !s.blks.isEmpty || !s.cmds.isEmpty || !s.colls.isEmpty || s.mem.cacheBusy || !s.areasDirect then
    { s with mem := { m with refused := true } }
  else { s with mem := { m with cacheReq := new, cacheBusy := true } }

/-- MEMCFG_CACHE_WRITE (R48): argument `v` is the value written. -/
def execMemcfgCacheWrite (s : State) : Host.Outcome State Fault Refusal :=
  if s.arg.v.getLsbD 0 = s.mem.cacheReq then .next s else .next (s.writeMemcfg s.arg.v)

/-- Every dirty set written back to its expander, as cache mode ends (R48). -/
def State.writeBackSets (s : State) : State :=
  s.mem.sets.foldl
    (fun t p => if p.2.valid && p.2.dirty then t.capSend (capBase / 128 + p.1 + p.2.aliasIx.toNat * cacheSets) 0 else t) s

/-- MEMCFG_CHANGE_DONE (R48): the sets hold nothing any more; enabling discards what lay in the cache region, disabling has
written the dirty sets back. -/
def execMemcfgChangeDone (s : State) : Host.Outcome State Fault Refusal :=
  if !s.mem.cacheBusy then .next s
  else
    let inCache (a : Nat) : Bool := decide (a < hbmBytes) && decide (directBytes ≤ a % stackBytes)
    let s := if s.mem.cacheReq then s else s.writeBackSets
    let m := { s.mem with sets := [], cacheOn := s.mem.cacheReq, cacheBusy := false }
    .next ({ s with mem := if s.mem.cacheReq then
        { m with
          bytes := { m.bytes with cells := m.bytes.cells.filter fun c => !inCache c.1 }
          tags := m.tags.filter fun p => !inCache (p.1 * 32)
          poison := m.poison.filter fun l => !inCache (l * 128)
          writers := m.writers.filter fun p => !inCache (p.1 * 128)
          cache := m.cache.filter fun c => !inCache (c.line * 128) }
      else m } : State).admitReqs

/-! ### Contexts (R68, R69, R83, R84, R86) -/

/-- A write of CTXCTL (R68, R69, R84): while EN is 1 only EN, PRIO, WEIGHT and KILL act; clearing EN while ACTIVE is 1 kills;
EN may not be set while a kill has not completed. -/
def State.writeCtxctl (s : State) (c : Nat) (v : DWord) : State :=
  let x := s.ctx c
  let s1 := s.modCtx c fun x => { x with prio := fld v 1 3, weight := fld v 4 8 }
  let s2 := if x.en then s1
    else (s1.modCtx c fun x => { x with link := v.getLsbD 12, svm := v.getLsbD 13, pasid := fld v 14 20 }).dropAll c
  if v.getLsbD 34 then s2.kill c .contextKilled
  else if x.en then
    if v.getLsbD 0 then s2
    else if s.ctxActive c then s2.kill c .contextKilled
    else s2.modCtx c fun x => { x with en := false }
  else if v.getLsbD 0 && !x.killing then (s2.modCtx c fun x => { x with en := true }).dropAll c
  else s2

/-- CTXCTL_KILL (R69): arguments `a` context, `v` the value written to CTXCTL. -/
def execCtxctlKill (s : State) : Host.Outcome State Fault Refusal :=
  if s.arg.a < 64 ∧ s.arg.v.getLsbD 34 then .next (s.writeCtxctl s.arg.a s.arg.v) else .next s

/-- CTXCTL_EN_CLEAR (R69): arguments `a` context, `v` the value written to CTXCTL. -/
def execCtxctlEnClear (s : State) : Host.Outcome State Fault Refusal :=
  if s.arg.a < 64 ∧ (s.ctx s.arg.a).en ∧ !s.arg.v.getLsbD 0 then .next (s.writeCtxctl s.arg.a s.arg.v) else .next s

/-- CTXCTL_EN_SET (R84): arguments `a` context, `v` the value written to CTXCTL. -/
def execCtxctlEnSet (s : State) : Host.Outcome State Fault Refusal :=
  if s.arg.a < 64 ∧ !(s.ctx s.arg.a).en ∧ s.arg.v.getLsbD 0 then .next (s.writeCtxctl s.arg.a s.arg.v) else .next s

/-- A write of CTXROOT (R68, R84). -/
def State.writeCtxroot (s : State) (c : Nat) (v : DWord) : State :=
  if (s.ctx c).en then s else (s.modCtx c fun x => { x with root := above 12 v }).dropAll c

/-- CTXROOT_WRITE (R84): arguments `a` context, `v` the value written. -/
def execCtxrootWrite (s : State) : Host.Outcome State Fault Refusal :=
  if s.arg.a < 64 then .next (s.writeCtxroot s.arg.a s.arg.v) else .next s

/-- What waited for a page's fault translates again (R83, R284). -/
def State.unfault (s : State) (c page : Nat) : State :=
  let clear (p : Option Nat) : Option Nat := if p = some page then none else p
  { s with
    xl := { s.xl with faults := s.xl.faults.filter fun f => !(f.ctx == c && f.page == page) }
    cmds := s.cmds.map fun k => if k.ctx = c then { k with fault := clear k.fault } else k
    host := { s.host with cmds := s.host.cmds.map fun h => if h.ctx = c then { h with fault := clear h.fault } else h }
    stoker := { s.stoker with
      nodes := s.stoker.nodes.map fun n => if n.ctx = c then { n with fault := clear n.fault } else n } }

/-- A write of CTXRESUME (R83): it names an unanswered record, whose accesses retry or whose context dies. -/
def State.writeResume (s : State) (c : Nat) (v : DWord) : State :=
  match s.xl.faults.find? fun f => f.ctx == c && f.written && f.fseq == fld v 0 32 with
  | none => s
  | some f => if v.getLsbD 32 then s.kill c .contextKilled else s.unfault c f.page

/-- CTXRESUME_RETRY (R83): arguments `a` context, `v` FSEQ. -/
def execCtxresumeRetry (s : State) : Host.Outcome State Fault Refusal :=
  if s.arg.a < 64 then .next (s.writeResume s.arg.a (at64 0 (s.arg.v.toNat % 2 ^ 32))).admitReqs else .next s

/-- CTXRESUME_KILL (R83): arguments `a` context, `v` FSEQ. -/
def execCtxresumeKill (s : State) : Host.Outcome State Fault Refusal :=
  if s.arg.a < 64 then .next (s.writeResume s.arg.a (at64 0 (s.arg.v.toNat % 2 ^ 32) ||| at64 32 1)) else .next s

/-- A write of CTXINVAL (R86). -/
def State.writeInval (s : State) (c : Nat) (v : DWord) : State :=
  if v.getLsbD 0 then (s.beginInval c 0 0 true none).1.modCtx c fun x => { x with invalBusy := true } else s

/-- CTXINVAL_ALL (R86): argument `a` names the context. -/
def execCtxinvalAll (s : State) : Host.Outcome State Fault Refusal :=
  if s.arg.a < 64 then .next (s.writeInval s.arg.a 1) else .next s

/-- A context's register written, by its offset in the block (R68). -/
def State.writeCtx (s : State) (c off : Nat) (v : DWord) : State :=
  match off with
  | 0x00 => s.writeCtxctl c v
  | 0x08 => s.writeCtxroot c v
  | 0x10 => s.modCtx c fun x => { x with vec := above 2 v }
  | 0x18 => s.modCtx c fun x => { x with wdog := fld v 0 32 }
  | 0x20 => s.modCtx c fun x => { x with fqBase := above 12 v }
  | 0x28 => (s.modCtx c fun x => { x with fqSize := fld v 0 4 }).flushFaults c
  | 0x30 => (s.modCtx c fun x => { x with fqTail := fld v 0 32 }).flushFaults c
  | 0x38 => (s.writeResume c v).admitReqs
  | 0x40 => s.writeInval c v
  | 0x48 => s.modCtx c fun x => { x with killed := w1c x.killed v 1 }
  | _ => s

/-! ### Queue slots (R70) -/

/-- The enabled slots of a context. -/
def State.enabledSlots (s : State) (c : Nat) : Nat := (s.host.slots.filter fun p => p.2.en && p.2.ctx.toNat == c).length

/-- A write of SQCTL (R70): enabling sets HEAD and TAIL to 0, or to what replay loaded for the slot's first enabling; a
seventeenth slot of a context stays disabled. -/
def State.writeSqctl (s : State) (n : Nat) (v : DWord) : State :=
  let q := s.slot n
  if q.en then s.modSlot n fun q => { q with en := v.getLsbD 0 }
  else
    let c := fld v 6 6
    let s1 := s.modSlot n fun q => { q with size := fld v 1 4, loc := v.getLsbD 5, ctx := c }
    if !v.getLsbD 0 || decide (16 ≤ s.enabledSlots c.toNat) then s1
    else s1.modSlot n fun q =>
      let p := q.loaded.getD (0, 0)
      { q with en := true, head := p.1, tail := p.2, loaded := none, kick := false, waitSeq := false }

/-- A queue slot's register written, by its offset in the block (R70). -/
def State.writeSlot (s : State) (n off : Nat) (v : DWord) : State :=
  match off with
  | 0x00 => s.modSlot n fun q => if q.en then q else { q with base := above 6 v }
  | 0x08 => s.writeSqctl n v
  | 0x18 => s.modSlot n fun q => { q with badKick := w1c q.badKick v 1 }
  | _ => s

/-- The size of a slot's ring (R70). -/
def QSlot.ring (q : QSlot) : Nat := 2 ^ (min q.size.toNat 12 + 4)

/-- A 32-bit write of TAIL to a slot's kick page (R71). -/
def State.kick (s : State) (n : Nat) (tail : Word) : State :=
  let q := s.slot n
  s.modSlot n fun q' =>
    if !q.en ∨ q.ring < (tail - q.head).toNat then { q' with badKick := true } else { q' with tail := tail, kick := true }

/-- KICK_WRITE (R71): arguments `a` offset in BAR4, `b` bytes, `v` the value. -/
def execKickWrite (s : State) : Host.Outcome State Fault Refusal :=
  if 256 ≤ s.arg.a / 4096 ∨ s.arg.a % 4096 ≠ 0 ∨ s.arg.b ≠ 4 then .next s
  else .next (s.kick (s.arg.a / 4096) (fld s.arg.v 0 32))

/-! ### Writes (R4, R67, R123) -/

/-- A write of BAR0 (R67); an offset not listed ignores it. -/
def State.writeBar0 (s : State) (off : Nat) (v : DWord) : State :=
  let mem (m : Mem) : State := { s with mem := m }
  let dev (d : Dev) : State := { s with dev := d }
  if 0x200 ≤ off ∧ off ≤ 0x2B8 ∧ off % 8 = 0 then
    s.modPort ((off - 0x200) / 8) fun p => { p with crcErr := w1c p.crcErr v 6, downEv := w1c p.downEv v 7 }
  else if 0x1000 ≤ off ∧ off < 0x3000 then s.writeSlot ((off - 0x1000) / 0x20) (off % 0x20) v
  else if 0x10000 ≤ off ∧ off < 0x14000 then s.writeCtx ((off - 0x10000) / 0x100) (off % 0x100) v
  else match off with
    | 0x100 => dev { s.dev with fwFail := w1c s.dev.fwFail v 3 }
    | 0x400 => mem { s.mem with errBase := above 12 v }
    | 0x408 => mem { s.mem with errSize := fld v 0 5, errEn := v.getLsbD 5, errOvf := w1c s.mem.errOvf v 6 }
    | 0x410 => mem { s.mem with errTail := fld v 0 32 }
    | 0x500 => s.writeCalctl v
    | 0x508 => { s with cal := { s.cal with src := above 12 v } }
    | 0x510 => { s with cal := { s.cal with target := v } }
    | 0x600 => s.writeMemcfg v
    | 0x700 => if v.getLsbD 0 then s.fwGo else s
    | 0x708 => dev { s.dev with fwAddr := above 12 v }
    | 0x710 => dev { s.dev with fwLen := fld v 0 32 }
    | 0x800 => { s with host := { s.host with jrnBase := above 12 v } }
    | 0x808 => { s with host := { s.host with jrnSize := fld v 0 5, jrnEn := v.getLsbD 5 } }
    | 0x900 => if v.getLsbD 0 then s.warm else s
    | 0xA00 => dev { s.dev with hostAtom := fld v 0 16 }
    | 0xA08 => dev { s.dev with bar2Base := above 30 v }
    | _ => s

/-- A watchpoint's register written (R123). -/
def Watch.write (w : Watch) (off : Nat) (v : DWord) : Watch :=
  match off with
  | 0x00 => { w with va := v }
  | 0x08 => { w with
      len := fld v 0 40, kinds := fld v 40 4, vcmp := v.getLsbD 44, scope := fld v 45 3, lane := fld v 48 5
      warp := fld v 53 5, rank := fld v 58 3 }
  | 0x10 => { w with nodeId := fld v 0 32, gang := fld v 32 32 }
  | 0x18 => { w with value := v }
  | 0x20 => { w with mask := v }
  | _ => w

/-- The block STEPCTL names. -/
def State.steppedBlk (s : State) : Option Blk := s.blk? s.stepctl.core.toNat s.stepctl.bctx.toNat

/-- HALT (R150): every stream of the block stops at its next instruction boundary. -/
def State.stepHalt (s : State) : State :=
  (s.modBlk s.stepctl.core.toNat s.stepctl.bctx.toNat fun b => { b with halted := true })

/-- RUN (R150): the halted block goes on. -/
def State.stepRun (s : State) : State :=
  { s.modBlk s.stepctl.core.toNat s.stepctl.bctx.toNat fun b => { b with halted := false, stepping := false } with
    stepctl := { s.stepctl with active := false, todo := [] } }

/-- STEP (R150): one instruction of the sub-warp that holds LANE, or of each sub-warp; lanes that cannot issue end the step
with BLOCKED.  It acts on a halted block. -/
def State.stepStep (s : State) : State :=
  let k := s.stepctl
  let (core, bctx, w) := (k.core.toNat, k.bctx.toNat, k.warp.toNat)
  match s.blk? core bctx with
  | none => s
  | some b => match b.thr? w with
    | none => s
    | some t0 =>
      if !b.halted then s
      else
        let t := t0.settle s core bctx b
        let ready := t.lanesWhere Lane.ready
        let m := if k.all then ready else if ready.getLsbD k.lane.toNat then t.subWarp k.lane.toNat 0xFFFFFFFF else 0
        let stuck := if k.all then t.live != ready else m == 0
        let b1 := { b.setThr w { t with lastLane := 32 } with stepping := true }
        { s.setBlk core bctx b1 with stepctl := { k with
            done := false, blocked := stuck, cause := 0, active := true, todo := maskLanes m, mark := s.nextId } }

/-- A write of STEPCTL (R123, R150). -/
def State.writeStepctl (s : State) (v : DWord) : State :=
  let s1 := { s with stepctl := { s.stepctl with
    core := fld v 0 8, bctx := fld v 8 4, warp := fld v 12 5, lane := fld v 17 5, all := v.getLsbD 22 } }
  let s2 := if v.getLsbD 23 then s1.stepHalt else s1
  let s3 := if v.getLsbD 24 then s2.stepStep else s2
  if v.getLsbD 33 then s3.stepRun else s3

/-- STEPCTL_HALT (R150): argument `v` is the value written to STEPCTL. -/
def execStepctlHalt (s : State) : Host.Outcome State Fault Refusal :=
  if s.arg.v.getLsbD 23 then .next (s.writeStepctl s.arg.v) else .next s

/-- STEPCTL_STEP (R150): argument `v` is the value written to STEPCTL. -/
def execStepctlStep (s : State) : Host.Outcome State Fault Refusal :=
  if s.arg.v.getLsbD 24 then .next (s.writeStepctl s.arg.v) else .next s

/-- STEPCTL_RUN (R150): argument `v` is the value written to STEPCTL. -/
def execStepctlRun (s : State) : Host.Outcome State Fault Refusal :=
  if s.arg.v.getLsbD 33 then .next (s.writeStepctl s.arg.v) else .next s

/-- Whether the asynchronous work of the stepped warp has drained (R151); an enrolment is what a WAITADDR waits at. -/
def State.stepDrained (s : State) : Bool :=
  let (core, bctx, w) := (s.stepctl.core.toNat, s.stepctl.bctx.toNat, s.stepctl.warp.toNat)
  !(s.reqs.any fun r => r.core == core && r.bctx == bctx && r.w == w && !(r.stage == .waiting && r.kind == .waitaddr))
    && !(s.sfu.any fun r => r.core == core && r.bctx == bctx && r.w == w)
    && !(s.rels.any fun r => r.core == core && r.bctx == bctx && r.w == w)
    && !(s.cmds.any fun k => k.core == core && k.bctx == bctx && k.w == w && !k.finished)
    && !(s.mcmds.any fun k => k.core == core && k.bctx == bctx)
    && !((s.coreAt core).banks.any fun k => k.filling.any fun f => f.w == w && (s.blk? core bctx).any fun b => b.adm == f.adm)

/-- STEP_DONE (R151): the stepped instructions and what they started are over; a trap they took gives CAUSE, a blocking point
BLOCKED, and otherwise CAUSE is SINGLE_STEP. -/
def execStepDone (s : State) : Host.Outcome State Fault Refusal :=
  let k := s.stepctl
  if !k.active ∨ k.todo ≠ [] ∨ !s.stepDrained then .next s
  else
    let traps := match s.thr? k.core.toNat k.bctx.toNat k.warp.toNat with
      | some t => (t.handling.toList ++ t.trapQ).filter fun r : TrapRec => decide (k.mark ≤ r.n)
      | none => []
    let cause := match traps with
      | r :: _ => r.cause.code
      | [] => if k.blocked then 0 else Cause.singleStep.code
    .next { s.modBlk k.core.toNat k.bctx.toNat fun b => { b with stepping := false } with
      stepctl := { k with done := true, active := false, cause := BitVec.ofNat 6 cause } }

/-- A write of the Nuntaok space (R123); while MODE is not 0, ASHBASE, ASHCTL.SIZE and CKBASE ignore writes. -/
def State.writeNuntaok (s : State) (off : Nat) (v : DWord) : State :=
  let r := s.recd
  let put (x : Recd) : State := { s with recd := x }
  if 0x40 ≤ off ∧ off < 0xC0 then
    let i := (off - 0x40) / 16
    let b := ngetD r.brks i Brk.reset
    match off % 16 with
    | 0 => put { r with brks := nput i { b with agent := fld v 0 10, cseq := fld v 16 48 } r.brks }
    | 8 => put { r with brks := nput i { b with op := fld v 0 13, en := v.getLsbD 13, hit := w1c b.hit v 14 } r.brks }
    | _ => s
  else if 0x10000 ≤ off ∧ off < 0x20000 then
    { s with watch := nmod ((off - 0x10000) / 0x40) Watch.reset (fun w => w.write (off % 0x40) v) s.watch }
  else match off with
    | 0x00 => (s.writeRecctl v).admitReqs
    | 0x08 => if r.mode = 0 then put { r with ashBase := above 21 v } else s
    | 0x10 => if r.mode = 0 then put { r with ashSize := fld v 0 7 } else s
    | 0x18 => put { r with ashTail := fld v 0 32 }
    | 0x20 => if r.mode = 0 then put { r with ckBase := above 12 v } else s
    | 0xC0 => put { r with repset := above 12 v }
    | 0x100 => { s with trace := { s.trace with base := above 12 v } }
    | 0x108 =>
      let on := v.getLsbD 5
      { s with trace := { s.trace with
          k := fld v 0 5, en := on, j := fld v 6 5, sampEn := v.getLsbD 11, size := fld v 12 5
          lastRec := if on && !s.trace.en then [] else s.trace.lastRec } }
    | 0x110 => { s with trace := { s.trace with tail := fld v 0 32 } }
    | 0x200 => s.writeStepctl v
    | _ => s

/-- REGISTER_WRITE (R4): arguments `space`, `a` offset, `v` value; every register of BAR0 and of the Nuntaok space. -/
def execRegisterWrite (s : State) : Host.Outcome State Fault Refusal :=
  match s.arg.space with
  | .bar0 => .next (s.writeBar0 s.arg.a s.arg.v)
  | .nuntaok => .next (s.writeNuntaok s.arg.a s.arg.v)

/-- NUNTAOK_REQUEST (R122): arguments `flag` inside a secured session, `flag2` write, `a` offset, `v` value; outside a session
it is refused and has no effect. -/
def execNuntaokRequest (s : State) : Host.Outcome State Fault Refusal :=
  if !s.arg.flag || !s.dev.spdmSession then .next (s.emit .regRefused)
  else if s.arg.flag2 then .next (s.writeNuntaok s.arg.a s.arg.v)
  else .next (s.emit (.reg (s.readNuntaok s.arg.a)))

/-- SQCTL_EN_SET (R70): arguments `a` slot, `v` the value written to SQCTL. -/
def execSqctlEnSet (s : State) : Host.Outcome State Fault Refusal :=
  if s.arg.a < 256 ∧ !(s.slot s.arg.a).en ∧ s.arg.v.getLsbD 0 then .next (s.writeSqctl s.arg.a s.arg.v) else .next s

/-! ### Kills (R69) -/

/-- CONTEXT_KILL (R69): arguments `a` context, `v` the cause. -/
def execContextKill (s : State) : Host.Outcome State Fault Refusal :=
  if s.arg.a < 64 then .next (s.kill s.arg.a (Cause.ofCode s.arg.v.toNat)) else .next s

/-- WATCHDOG_EXPIRY (R68): arguments `a` core, `b` block context, whose count has passed LIMIT × 1,024. -/
def execWatchdogExpiry (s : State) : Host.Outcome State Fault Refusal :=
  match s.blk? s.arg.a s.arg.b with
  | none => .next s
  | some b =>
    let limit := (s.ctx b.info.ctx).wdog.toNat
    if limit ≠ 0 ∧ limit * 1024 < b.wdog then .next (s.kill b.info.ctx .watchdog) else .next s

/-- INVALIDATION_COMPLETE (R86): argument `a` names the invalidation; whoever waits for it is told. -/
def execInvalidationComplete (s : State) : Host.Outcome State Fault Refusal :=
  match s.xl.invals.find? fun k => k.id == s.arg.a with
  | none => .next s
  | some k =>
    if !s.invalDone k then .next s
    else
      let rest := s.xl.invals.filter fun x => x.id != k.id
      let s1 : State := { s with xl := { s.xl with invals := rest } }
      let s2 := if k.byCtx && !(rest.any fun x => x.byCtx && x.ctx == k.ctx) then
          s1.modCtx k.ctx fun x => { x with invalBusy := false }
        else s1
      let s3 := match k.ats with
        | some who => if rest.any fun x => x.ats == some who then s2 else s2.emit (.atsInvalDone (who % 2))
        | none => s2
      .next (s3.host.cmds.foldl (fun t h => if h.inval = some k.id then t.endHostCmd h.slot h.seq none else t) s3)

end Sys2Proof.Machine
end

