-- ==== Sys2Proof/Machine/HostMem.lean ====
section
/-! DEFINITION. What the host and the management controller send: accesses to device memory, snoops, completions of the device's own
host accesses, ATS and PRI, SPDM (R43, R66, R87 to R91, R94, R249), and the ends of walks and kills (R69, R82). -/

namespace Sys2Proof.Machine

/-! ### Host accesses (R43, R66, R133, R249) -/

/-- A piece of a host access within one line: its home byte, its offset in the data and its length. -/
structure HostPiece where
  a : Nat
  off : Nat
  n : Nat

/-- The pieces of `n` bytes at a device physical address, line by line; none where some byte is not memory (R37, R47, R66). -/
def State.hostPieces (s : State) (pa : Nat) : Nat → Nat → Nat → Option (List HostPiece)
  | 0, _, _ => some []
  | _, _, 0 => some []
  | fuel + 1, off, n =>
    let k := min n (128 - (pa + off) % 128)
    match s.homeOf (pa + off) with
    | .error _ => none
    | .ok a => (s.hostPieces pa fuel (off + k) (n - k)).map fun l => { a := a, off := off, n := k } :: l

/-- The device physical address a host access names (R24, R66): CXL.mem goes through the BAR2 window too. -/
def State.hostPa (s : State) (x : HostAccess) : Nat :=
  match x.way with
  | .bar2 | .cxlMem => s.dev.bar2Base.toNat + x.off
  | .bar4 => x.off

/-- Whether nothing holds an access of a host link to its pieces: no slot or change of mode keeps the link, a home or the way
between them (R48, R57). -/
def State.piecesOpen (s : State) (link : Nat) (l : List HostPiece) : Bool :=
  !s.linkDown (28 + link) && l.all fun p => !s.lineHeld (hearthDie link) (lineOf p.a)

/-- The homes reached by a host access: what the codes find at the first of its lines, and the expander's part (R22, R39, R41,
R47). -/
def State.hostReach (s : State) (reads writes : Bool) (l : List HostPiece) : State :=
  (l.foldl
    (fun x p =>
      let line := lineOf p.a
      ((x.1.homeEcc line x.2).capTouch line 0 reads writes (s.arg.reply == .poisonRefused) x.2, EccOutcome.clean))
    (s, s.arg.ecc)).1

/-- A host read at the homes: bytes, and whether a line is poisoned (R43); each line is one operation of the host agent
(R125). -/
def State.hostRead (s : State) (l : List HostPiece) (noted : Bool) : State × Bool × List Byte :=
  l.foldl
    (fun x p =>
      let s1 := (x.1.gather (lineOf p.a)).shareLine (lineOf p.a) fun _ => false
      let s2 := if noted then s1.note hostAgent 0 0 (objLine (lineOf p.a)) false (some (lineOf p.a * 128)) none else s1
      (s2, x.2.1 || s1.poisoned (lineOf p.a), x.2.2 ++ s1.peek p.a p.n))
    (s, false, [])

/-- A piece of a host write at its home: other holders lose the line, a full line clears poison, and the calendar page
keeps its contents (R43, R60, R204). -/
def State.hostPut (s : State) (data : List Byte) (p : HostPiece) : State :=
  let line := lineOf p.a
  let s1 := (s.gather line).note hostAgent 0 0 (objLine line) true (some (line * 128)) none
  if inCalPage p.a then s1
  else
    let s2 := s1.poke p.a ((data.drop p.off).take p.n)
    let s3 := s2.dropHolders line fun _ => false
    let s4 := s3.poisonWrite line (p.n == 128)
    if lineIsCap line && !s4.mem.cacheOn then s4.capSend line 0 else s4

/-- A host write at the homes, with its PAYLOAD record and number (R133). -/
def State.hostWriteAt (s : State) (l : List HostPiece) (data : List Byte) : State :=
  let s1 := l.foldl (fun t p => t.hostPut data p) s
  let s2 := s1.recordPayload hostAgent s1.recd.hostSeq 0xFFFF data
  { s2 with recd := { s2.recd with hostSeq := s2.recd.hostSeq + 1 } }

/-- The widths of an AtomicOp (R24). -/
def hostAtomicWidths : HostAtomic → List Nat
  | .fetchAdd | .swap => [4, 8]
  | .cas => [4, 8, 16]

/-- What an AtomicOp leaves of the bytes it finds (R24, R373). -/
def hostAtomicResult (k : HostAtomic) (n : Nat) (old data : List Byte) : List Byte :=
  match k with
  | .fetchAdd => leBytes n (leNat old + leNat (data.take n))
  | .swap => data.take n
  | .cas => if old = data.take n then (data.drop n).take n else old

/-- An AtomicOp at the home (R24, R43, R249): the old value is returned; of a poisoned line it returns poison and changes nothing.
Its PAYLOAD record holds the bytes it leaves (log entry 42). -/
def State.hostAtomicAt (s : State) (l : List HostPiece) (k : HostAtomic) (n : Nat) (data : List Byte) (noted : Bool) : State :=
  let (s1, bad, old) := s.hostRead l false
  (if bad then (s1.hostRead l noted).1 else s1.hostWriteAt l (hostAtomicResult k n old data)).emit (.hostData bad old)

/-- Whether the log being replayed still holds operations of the host agent. -/
def State.hostLogged (s : State) : Bool := s.replaying && (s.logAt hostAgent).isSome

/-- Whether the log being replayed brings the host's next write in a PAYLOAD record (R142). -/
def State.hostBrought (s : State) : Bool := s.hostLogged && (s.payloadOf hostAgent s.recd.hostSeq.toNat 0xFFFF).isSome

/-- Whether the device takes an access at all (R24, R66): 1 to 512 bytes, an AtomicOp through BAR2 at one of its widths, aligned to it,
and CXL.mem to HBM alone. -/
def hostValid (x : HostAccess) (pa : Nat) : Bool :=
  decide (0 < x.bytes) && decide (x.bytes ≤ 512) && (match x.atom with
    | none => true
    | some k => x.way == .bar2 && (hostAtomicWidths k).contains x.bytes && pa % x.bytes == 0)

/-- A host access that reaches its homes (R39, R41, R43, R47, R142, R249).  In replay a live host write is discarded where a PAYLOAD
record brings it (R142); otherwise a live access is the logged one, in its turn, and once the log holds no more of them it is not
replayed.  One whose expander fails returns poison, or has no effect (R22, log entry 42). -/
def State.hostAccess (s : State) (x : HostAccess) (l : List HostPiece) : State :=
  let writes := x.write || x.atom.isSome
  let apart := s.replaying && !s.hostLogged
  let reads := !x.write
  let failed := l.any (fun p => s.asksCap (lineOf p.a) reads) && (match s.arg.reply with
    | .poison | .linkFail | .timeout | .unsupported | .abort => true
    | .ok _ | .poisonRefused => false)
  if s.recd.halted ∨ (writes ∧ s.hostBrought) ∨ (!apart ∧ !s.mayOp hostAgent 0 0) then s
  else if failed then
    (if x.write then s else s.emit (.hostData true (List.replicate x.bytes 0)))
  else
    let t := s.hostReach reads writes l
    match x.atom with
    | some k =>
      if apart then t.quietly fun t => t.hostAtomicAt l k x.bytes x.data false else t.hostAtomicAt l k x.bytes x.data true
    | none =>
      if x.write then (if apart then t.quietly fun t => t.hostWriteAt l x.data else t.hostWriteAt l x.data)
      else
        let (s1, bad, bs) := t.hostRead l (!apart)
        s1.emit (.hostData bad bs)

/-- HOST_MEMORY_ACCESS (R22, R24, R66, R71, R249): arguments `host` the access, `a` its link, `ecc` what the codes find at its first
line, `reply` the answer of an expander it needs.  A read of a kick page returns TAIL. -/
def execHostMemoryAccess (s0 : State) : Host.Outcome State Fault Refusal :=
  let s := s0.crossing
  let x := s.arg.host
  if x.way = .bar4 then
    if 0x100000 ≤ x.off ∨ x.atom.isSome then .next (s.emit .hostUr)
    else if x.write then
      .next (if x.off % 4096 = 0 ∧ x.bytes = 4 then s.kick (x.off / 4096) (BitVec.ofNat 32 (leNat (x.data.take 4))) else s)
    else .next (s.emit (.hostData false (leBytes x.bytes (s.slot (x.off / 4096)).tail.toNat)))
  else if !hostValid x (s.hostPa x) then .next (s.emit .hostUr)
  else match s.hostPieces (s.hostPa x) x.bytes 0 x.bytes with
    | none => .next (s.emit .hostUr)
    | some l =>
      if x.way = .cxlMem ∧ l.any (fun p => isCapacity p.a) then .next (s.emit .hostUr)
      else .next (if s.piecesOpen (s.arg.a % 2) l then s.hostAccess x l else s)

/-- HOST_SNOOP (R91): arguments `a` link, `b` line; the modified data is returned, or a line lost in a reset is returned
poisoned. -/
def execHostSnoop (s : State) : Host.Outcome State Fault Refusal :=
  let k := hostLine s.arg.a s.arg.b
  match nget s.mem.hostDirty k with
  | none => .next s
  | some d => .next ((({ s with mem := { s.mem with hostDirty := ndel k s.mem.hostDirty } } : State).dropHolders
      (hostKey s.arg.a s.arg.b) fun _ => false).emit (.hostSnoop d.isEmpty d))

/-! ### Completions of the device's host accesses (R89, R91, R274) -/

/-- A request on host memory over: its values are recorded, and it counts as an operation (R129). -/
def State.endHostReq (s : State) (r : Req) : State := (s.hostValues r).noteReq r

/-- A lane of a host atomic over, with the value it found or failed: the next lane is sent, or the request is served (R89).  A lane
that failed has changed nothing, and those before it keep their effect. -/
def State.hostLaneEnd (s : State) (r : Req) (link : Nat) (res : Except Cause QWord) : State :=
  match r.ops.drop r.got.length with
  | [] => s
  | o :: rest =>
    let r1 : Req := match res with
      | .ok v => { r with got := r.got ++ [(o.lane, v)], tries := 0 }
      | .error k => { r.failLane o.lane k with got := r.got ++ [(o.lane, 0)], tries := 0 }
    match rest with
    | n :: _ => (s.modReq r.id fun _ => r1).hostAtomSend r link n
    | [] =>
      let good := r1.got.filter fun g => !r1.bad.getLsbD g.1
      (s.modReq r.id fun _ => { r1 with stage := .served, got := if r.dst = .none then [] else good }).endHostReq r

/-- The compare and swap that follows the read of path 3: it expects what was read (R89). -/
def State.hostCas (s : State) (r : Req) (link : Nat) (o : LaneOp) (old : QWord) : State :=
  let (bs, _) := r.kind.apply r.size o (leBytes r.size old.toNat)
  (s.modReq r.id fun q => { q with ops := q.ops.map fun x => if x.lane = o.lane then { x with cmp := if r.kind = .cas then x.cmp else old } else x }).emit
    (.hostAtomicCas link o.addr r.size old (BitVec.ofNat 128 (leNat bs)) r.id)

/-- HOST_LINK_COMPLETION (R89, R274): argument `a` names the request, `reply` is the completion. -/
def execHostLinkCompletion (s : State) : Host.Outcome State Fault Refusal :=
  match s.req? s.arg.a with
  | none => .next s
  | some r => match r.home, r.stage with
    | .host link, .sent => match s.arg.reply with
      | .ok data =>
        if s.hostCached r link then
          if data.length ≠ 128 then .next s
          else .next (({ s with mem := { s.mem with hostDirty := nput (hostLine link r.line) data s.mem.hostDirty } } : State).modReq
            r.id fun q => { q with stage := .accepted })
        else if r.kind = .load then
          let (lo, hi) := r.span
          if data.length ≠ hi - lo then .next s
          else
            let got := r.ops.map fun o => (o.lane, r.extend (leNat ((data.drop (o.addr - lo)).take r.size)))
            .next ((s.modReq r.id fun q => { q with stage := .served, got := got }).endHostReq r)
        else if data.length ≠ r.size then .next s
        else
          let old : QWord := BitVec.ofNat 128 (leNat data)
          match s.hostPath link r.uc r.kind r.size, r.ops.drop r.got.length with
          | some 3, o :: _ => .next (s.hostCas r link o old)
          | _, _ => .next (s.hostLaneEnd r link (.ok old))
      | .poison | .timeout | .linkFail | .unsupported | .abort | .poisonRefused =>
        .next (if r.kind = .pref then s.modReq r.id fun q => { q with stage := .served }
          else if r.kind.isAtomic && !s.hostCached r link then s.hostLaneEnd r link (.error .ioError)
          else (s.noteReq r).failReq r .ioError)
    | _, _ => .next s

/-- HOST_ATOMIC_CAS_ATTEMPT (R89): arguments `a` request, `q` the value the compare and swap found.  A match ends the lane;
otherwise the unit reads and tries again, at most 64 times. -/
def execHostAtomicCasAttempt (s : State) : Host.Outcome State Fault Refusal :=
  match s.req? s.arg.a with
  | none => .next s
  | some r => match r.home, r.stage, r.ops.drop r.got.length with
    | .host link, .sent, o :: _ =>
      if s.hostCached r link ∨ s.hostPath link r.uc r.kind r.size ≠ some 3 then .next s
      else if s.arg.q = o.cmp then .next (s.hostLaneEnd r link (.ok s.arg.q))
      else if 64 ≤ r.tries then .next (s.hostLaneEnd r link (.error .hostAtomicRetry))
      else .next ((s.modReq r.id fun q => { q with tries := q.tries + 1 }).emit (.hostRead link o.addr r.size r.id))
    | _, _, _ => .next s

/-! ### ATS and PRI (R87) -/

/-- A waiting translation changed. -/
def State.modWalk (s : State) (id : Nat) (f : Walk → Walk) : State :=
  { s with xl := { s.xl with walks := s.xl.walks.map fun k => if k.id = id then f k else k } }

/-- Whether a grant allows the access that asked for it. -/
def grantAllows (k : AccessKind) (r w : Bool) : Bool :=
  match k with
  | .read | .fetch => r
  | .write => w
  | .atomic => r && w

/-- Page requests outstanding on a link. -/
def State.prisOn (s : State) (link : Nat) : Nat :=
  (s.xl.walks.filter fun w => w.pri && (s.ctx w.ctx).link.toNat == link).length

/-- Whether another page request may go out on a link: 512 are the most, or as many as the host allocated there (R87). -/
def State.priRoom (s : State) (link : Nat) : Bool :=
  decide ((s.xl.walks.filter fun w => w.pri).length < 512) && decide (s.prisOn link < s.dev.priAlloc.getD link 0)

/-- A walk whose host denies the access (R87): a record where PRI is off, else a page request, for which it waits where none may go out
now. -/
def State.denyWalk (s : State) (k : Walk) : State :=
  let link := (s.ctx k.ctx).link.toNat
  if s.dev.priOff.getLsbD link then (s.dropWalk k.id).joinFault k.ctx k.page k.va k.kind k.site false false false
  else if s.priRoom link then
    (s.modWalk k.id fun w => { w with pri := true, denied := false }).emit (.priRequest link (s.ctx k.ctx).pasid k.page k.id)
  else s.modWalk k.id fun w => { w with denied := true }

/-- Denied walks that wait taken up again, oldest first, once a page request has been answered. -/
def State.retryDenied (s : State) : State := (s.xl.walks.filter fun w => w.denied).foldl (fun t w => t.denyWalk w) s

/-- ATS_COMPLETION (R87): argument `a` names the walk, `ats` the completion.  A denial asks for the page, at most 512 at a
time, or with PRI off writes a fault record. -/
def execAtsCompletion (s : State) : Host.Outcome State Fault Refusal :=
  match s.xl.walks.find? fun k => k.id == s.arg.a && k.ats && !k.pri && !k.denied with
  | none => .next s
  | some k => match s.arg.ats with
    | .granted page r w => .next (if grantAllows k.kind r w then s.endWalk k (atsLeaf page r w) else s.denyWalk k)
    | .denied => .next (s.denyWalk k)

/-- PRI_RESPONSE (R87): argument `a` names the walk, `pri` the response. -/
def execPriResponse (s : State) : Host.Outcome State Fault Refusal :=
  match s.xl.walks.find? fun k => k.id == s.arg.a && k.pri with
  | none => .next s
  | some k =>
    let record (s : State) : State := (s.dropWalk k.id).joinFault k.ctx k.page k.va k.kind k.site false true false
    match s.arg.pri with
    | .success => .next ((s.modWalk k.id fun w => { w with pri := false }).emit (k.request s)).retryDenied
    | .invalidRequest => .next (record s).retryDenied
    | .responseFailure =>
      .next (record { s with dev := { s.dev with priOff := s.dev.priOff ||| 1 <<< (s.ctx k.ctx).link.toNat } }).retryDenied

/-- ATS_INVALIDATION_REQUEST (R87): arguments `a` link, `v` PASID, `v2` address, `v3` bytes; it is completed when the
guarantee of R86 holds in every context that uses the PASID. -/
def execAtsInvalidationRequest (s : State) : Host.Outcome State Fault Refusal :=
  let link := s.arg.a % 2
  let cs := (List.range 64).filter fun c =>
    (s.ctx c).svm && (s.ctx c).link.toNat == link && (s.ctx c).pasid.toNat == s.arg.v.toNat
  if cs.isEmpty then .next (s.emit (.atsInvalDone link))
  else
    let who := link + 2 * s.xl.nextId
    .next (cs.foldl (fun t c => (t.beginInval c s.arg.v2 s.arg.v3.toNat false (some who)).1) s)

/-- TRANSLATION_WALK_COMPLETE (R82): argument `a` names the walk; `ecc` what the codes find in its table line of level `b`, where
that is not 0 (R39). -/
def execTranslationWalkComplete (s : State) : Host.Outcome State Fault Refusal :=
  match s.xl.walks.find? fun k => k.id == s.arg.a && !k.ats with
  | none => .next s
  | some k => .next (s.finishWalk k)

/-! ### SPDM (R94) -/

/-- The debug state that measurement 5 takes (R94, R122): whether a Nuntaok session is open, RECCTL.MODE, the halts of the device and
of blocks, and every breakpoint enable and watchpoint, each a number. -/
def State.debugState (s : State) : List Nat :=
  [s.dev.spdmSession.toNat, s.recd.mode.toNat, s.recd.halted.toNat, s.recd.stopped.toNat]
    ++ ((s.blks.filter fun p => p.2.halted).map fun p => 16 + p.1)
    ++ ((s.recd.brks.filter fun p => p.2.en).map fun p => 2 ^ 16 + p.1)
    ++ (s.watch.map fun p =>
      let x := p.2
      [2 ^ 17 + p.1, x.va.toNat, x.len.toNat, x.kinds.toNat, x.vcmp.toNat, x.scope.toNat, x.lane.toNat, x.warp.toNat, x.rank.toNat,
        x.nodeId.toNat, x.gang.toNat, x.value.toNat, x.mask.toNat]).flatten

/-- The measurement of an index (R94): the running image's digest, or what the device measures of its ROM, fuses,
configuration and debug state, whose byte layout the spec does not give. -/
def State.measure (s : State) (index : Nat) : Option (BitVec 512) :=
  match index with
  | 1 => some (Config.measurement 1 [])
  | 2 => some (s.dev.fw.elim (Config.measurement 2 []) fun f => f.digest)
  | 3 => some (Config.measurement 3 [Config.fusedKeyDigest.toNat, Config.fusedMinSvn])
  | 4 => some (Config.measurement 4
      [(s.readBar0 0x600).toNat, s.cal.gen.toNat, ((List.range 64).filter fun c => (s.ctx c).en).length])
  | 5 => some (Config.measurement 5 s.debugState)
  | _ => none

/-- MANAGEMENT_SPDM_REQUEST (R94): argument `spdm`. -/
def execManagementSpdmRequest (s : State) : Host.Outcome State Fault Refusal :=
  match s.arg.spdm with
  | .capabilities => .next (s.emit (.spdmCaps [.cert, .chal, .measSigned, .keyEx, .encrypt, .mac]))
  | .algorithms => .next (s.emit (.spdmAlgorithms .falcon1024 .sha3_384 .secp384r1))
  | .certificate slot =>
    .next (s.emit (if slot = 0 then .spdmCert 0 [.borrixRoot, .deviceIdentity] else .spdmError))
  | .challenge => .next (s.emit (.spdmChallenge 0 .falcon1024))
  | .measurement i => .next (s.emit (match s.measure i with
    | some d => .spdmMeasurement i d
    | none => .spdmError))
  | .keyExchange => .next ({ s with dev := { s.dev with spdmSession := true } }.emit .spdmSession)
  | .keyManagement link set =>
    if !s.dev.spdmSession ∨ 2 ≤ link then .next (s.emit .spdmError)
    else
      let bit : BitVec 2 := 1 <<< link
      .next ({ s with dev := { s.dev with ideKeys := if set then s.dev.ideKeys ||| bit else s.dev.ideKeys &&& ~~~bit } }.emit
        .spdmSession)
  | .endSession => .next ({ s with dev := { s.dev with spdmSession := false } }.emit .spdmSession)

/-! ### The end of a kill (R69, R113) -/

/-- Banks that the Stoker switched and no allocation holds returned to cache mode (R113). -/
def State.banksBack (s : State) : State :=
  (s.clusters.filter fun p => p.2.stoked && p.2.mode == .spad && p.2.change.isNone && p.2.queue.isEmpty && !s.bankAllocated p.1).foldl
    (fun t p => (t.beginChange p.1 .cache none none).finishChange p.1) s

/-- KILL_COMPLETE (R69): argument `a` names the context.  Its accesses in flight have finished; its contributions to windows
are dropped with the windows. -/
def execKillComplete (s : State) : Host.Outcome State Fault Refusal :=
  let c := s.arg.a
  let inWindow (r : Req) : Bool := match r.home with
    | .window _ => true
    | _ => false
  if !(s.ctx c).killing ∨ s.reqs.any (fun r => r.ctx == c && !inWindow r) then .next s
  else
    let s1 : State := { s with
      reqs := s.reqs.filter fun r => r.ctx != c
      links := { s.links with windows := s.links.windows.filter fun p => !(p.2.ctx == c && p.2.closing) } }
    .next ((s1.modCtx c fun x => { x with killing := false }).banksBack)

end Sys2Proof.Machine
end

