-- ==== Sys2Proof/Machine/HostCmd.lean ====
section
/-! DEFINITION. Host commands: how a queue entry is examined and journaled, and what TLSIGNAL, TLWAIT, MARKER, INVTLB, WINOPEN and
WINCLOSE do (R20, R71 to R76, R391).  RUNGRAPH stands with the Stoker. -/

namespace Sys2Proof.Machine

/-! ### Accesses of the control core (R83, R95) -/

/-- Such an access that is no recorded operation. -/
def State.ctlQuiet {α : Type} (ctx agent : Nat) (site : FaultSite) (f : Eng → Except EStop (Eng × α)) (fuel : Nat) (s : State) :
    CtlRes α :=
  let back (t : State) : State := { t with recd := { t.recd with mode := s.recd.mode } }
  match State.ctl ctx agent site f fuel { s with recd := { s.recd with mode := 0 } } with
  | .ok t x => .ok (back t) x
  | .fault t c => .fault (back t) c
  | .wait t p => .wait (back t) p

/-- The fault site of a host command (R83, FROM 2). -/
def HCmd.site (h : HCmd) : FaultSite :=
  { origin := 2, pc := h.a0, lseq := h.seq, core := 0xFF, slot := BitVec.ofNat 8 h.slot }

/-! ### Entries (R72 to R74) -/

/-- An entry's fields: opcode, sequence number, arguments, cookie, and whether its zero bits are zero. -/
structure QEntry where
  opc : Nat
  seq : Word
  a0 : DWord
  a1 : DWord
  a2 : DWord
  cookie : DWord
  zeros : Bool

/-- An entry read from its 64 bytes. -/
def qEntry (bs : List Byte) : QEntry :=
  let w (i : Nat) : DWord := BitVec.ofNat 64 (leNat ((bs.drop (8 * i)).take 8))
  { opc := (fld (w 0) 0 8).toNat, seq := fld (w 0) 32 32, a0 := w 1, a1 := w 2, a2 := w 3, cookie := w 7,
    zeros := fld (w 0) 8 24 == 0 && w 4 == 0 && w 5 == 0 && w 6 == 0 }

/-- REJECT's reason for an entry, if any (R73): an unknown opcode, or a field that is not zero or out of its range. -/
def QEntry.bad (e : QEntry) (ctx : Nat) : Option Nat :=
  let tl := decide (e.a0.toNat < 1024) && e.a0.toNat / 16 == ctx && e.a2 == 0
  let ok := e.zeros && (match e.opc with
    | 1 => decide (1 ≤ e.a1.toNat) && decide (e.a1.toNat ≤ 8192) && e.a2 == 0
    | 2 | 3 => tl
    | 4 => e.a0.toNat % 8 == 0 && e.a2 == 0
    | 5 => canonicalVa e.a0 && (e.a1 != 0 || e.a0 == 0) && e.a2 == 0
    | 6 => e.a0.toNat % 8 == 0 && decide (e.a1.toNat < 16) && e.a2 == 0
    | _ => decide (e.a0.toNat < 16) && e.a1 == 0 && e.a2 == 0)
  if e.opc = 0 ∨ 7 < e.opc then some 1 else if ok then none else some 2

/-- What reading the entry at HEAD gives: its bytes, nothing yet, or that it cannot be read (R74). -/
inductive EntryRead where
  | bytes (s : State) (bs : List Byte)
  | later
  | unreadable (s : State)

/-- The entry at HEAD read from device memory, or over the context's link with the bytes that came back (R22, R39, R70, R74): `s.arg.ecc` is
what the codes find there, and `s.arg.flag` says that the link or the expander does not give it. -/
def State.readEntry (s : State) (q : QSlot) : EntryRead :=
  let a := q.base.toNat + 64 * (q.head.toNat % q.ring)
  if q.loc then
    match s.homeOf a with
    | .error _ => .unreadable s
    | .ok h =>
      if s.lineHeld (hearthDie 0) (lineOf h) then .later
      else
        let line := lineOf h
        let s1 := ((s.homeEcc line s.arg.ecc).capTouch line 0 true false (s.arg.reply == .poisonRefused) s.arg.ecc).gather line
        if (s.asksCap line true && s.arg.flag) || s1.poisoned line then .unreadable s1 else .bytes s1 (s1.peek h 64)
  else
    let link := (s.ctx q.ctx.toNat).link.toNat
    if s.linkDown (28 + link) then .later
    else
      let s1 := s.emit (.hostRead link a 64 0)
      if s.arg.flag then .unreadable s1
      else match s.arg.img with
        | some bs => if bs.length = 64 then .bytes s1 bs else .later
        | none => .later

/-- Whether the device serves a slot (R71, R74, R120, R138): something is kicked, its context and journaling are enabled, and no
checkpoint has stopped intake. -/
def State.serves (s : State) (q : QSlot) : Bool :=
  q.en && q.kick && q.head != q.tail && (s.ctx q.ctx.toNat).en && !(s.ctx q.ctx.toNat).killing && s.host.jrnEn
    && !s.recd.ckBusy && s.ctrlRuns && decide (3 ≤ s.dev.stage.toNat)

/-- HEAD advanced past an entry; the slot's kick is served once HEAD reaches TAIL (R71, R74). -/
def State.advance (s : State) (n : Nat) : State :=
  s.modSlot n fun q => { q with head := q.head + 1, waitSeq := false, kick := q.head + 1 != q.tail }

/-- The record of an entry with SEQ = HEAD (R73, R74, R76): ACCEPT with its digest, or REJECT with the reason. -/
def State.entryRecord (s : State) (n : Nat) (q : QSlot) (bs : List Byte) : State :=
  match (qEntry bs).bad q.ctx.toNat with
  | some r => s.journal 4 n q.ctx.toNat r q.head 0
  | none => s.journal 1 n q.ctx.toNat 0 q.head (BitVec.ofNat 64 (leNat (shake256 bs 8)))

/-- An accepted entry dispatched (R74).  DESIGN CHOICE: of R31, 'a host command naming host link 1' is taken to be any command of a
context whose CTXCTL.LINK is 1; in Kindling mode it is accepted and then fails with KINDLING_UNAVAILABLE (log entry 41). -/
def State.addCmd (s : State) (n c : Nat) (bs : List Byte) : State :=
  let e := qEntry bs
  let h : HCmd :=
    { slot := n, seq := e.seq, ctx := c, opc := BitVec.ofNat 8 e.opc, a0 := e.a0, a1 := e.a1, a2 := e.a2, cookie := e.cookie,
      stage := if s.kindling && (s.ctx c).link then .finished (some .kindlingUnavailable) else .accepted,
      fail := none, inval := none, fault := none }
  { s with host := { s.host with cmds := s.host.cmds ++ [h] } }

/-- An entry with SEQ = HEAD accepted or rejected (R73, R74): the record is written, then HEAD advances, then an accepted command is
dispatched. -/
def State.takeEntry (s : State) (n : Nat) (q : QSlot) (bs : List Byte) : State :=
  let t := (s.entryRecord n q bs).advance n
  if ((qEntry bs).bad q.ctx.toNat).isSome then t else t.addCmd n q.ctx.toNat bs

/-- QUEUE_ENTRY_EXAMINE (R74): arguments `a` slot, `flag` whether the read on the host link, or of an expander, fails, `img` what the link
returns, `ecc` what the codes find. -/
def execQueueEntryExamine (s : State) : Host.Outcome State Fault Refusal :=
  let n := s.arg.a
  let q := s.slot n
  if 256 ≤ n ∨ !s.serves q then .next s
  else match s.readEntry q with
    | .later => .next s
    | .unreadable t => .next ((t.journal 4 n q.ctx.toNat 4 q.head 0).advance n)
    | .bytes t bs =>
      if (qEntry bs).seq = q.head then .next (t.takeEntry n q bs)
      else .next (t.modSlot n fun q => { q with waitSeq := true, kick := false })

/-! ### Commands (R73) -/

/-- An accepted command of a slot. -/
def State.hcmd? (s : State) (slot : Nat) (seq : Word) : Option HCmd :=
  s.host.cmds.find? fun h => h.slot == slot && h.seq == seq

/-- The unfinished or unjournaled commands of a command's slot accepted before it. -/
def State.earlier (s : State) (h : HCmd) : List HCmd :=
  (s.host.cmds.takeWhile fun k => k != h).filter fun k => k.slot == h.slot

/-- Whether a command's dispatch waits (R73, R74): for the dispatch of an earlier one, or for an earlier TLWAIT. -/
def State.undispatched (s : State) (h : HCmd) : Bool :=
  (s.earlier h).any fun k => match k.stage with
    | .accepted => k.opc == 1 || k.opc == 3 || k.opc == 5
    | _ => false

/-- Whether a command of an opcode may act now: it is accepted, waits for no fault, and nothing of its slot stands before it;
`all` asks that every earlier command has completed. -/
def State.cmdTurn? (s : State) (opc : Nat) (all : Bool) : Option HCmd :=
  match s.hcmd? s.arg.a (s.arg.v.setWidth 32) with
  | none => none
  | some h =>
    if h.opc.toNat = opc ∧ h.stage = .accepted ∧ h.fault.isNone ∧ s.ctrlRuns
        ∧ (if all then (s.earlier h).isEmpty else !s.undispatched h) then some h
    else none

/-- A command changed. -/
def State.modHCmd (s : State) (h : HCmd) (f : HCmd → HCmd) : State :=
  { s with host := { s.host with cmds := s.host.cmds.map fun k => if k.slot = h.slot ∧ k.seq = h.seq then f k else k } }

/-- A timeline operation of the control cores (R125): recorded, then the timeline is raised. -/
def State.stokerRaise (s : State) (n : Nat) (v : DWord) : State :=
  (s.note stokerAgent 0 0 (objTl n) true none (some 4)).raiseOutside n v

/-- TLSIGNAL (R73): arguments `a` slot, `v` SEQ. -/
def execTlsignal (s : State) : Host.Outcome State Fault Refusal :=
  match s.cmdTurn? 2 true with
  | none => .next s
  | some h =>
    if !s.mayOp stokerAgent 0 0 || s.islandDown syncIsland then .next s
    else .next ((s.stokerRaise h.a0.toNat h.a1).endHostCmd h.slot h.seq none)

/-- HOST_TLWAIT (R73): arguments `a` slot, `v` SEQ; it completes once the timeline has reached ARG1. -/
def execHostTlwait (s : State) : Host.Outcome State Fault Refusal :=
  match s.cmdTurn? 3 false with
  | none => .next s
  | some h =>
    if (s.timeline h.a0.toNat).toNat < h.a1.toNat ∨ !s.mayOp stokerAgent 0 0 ∨ s.islandDown syncIsland then .next s
    else .next ((s.note stokerAgent 0 0 (objTl h.a0.toNat) false none (some 4)).endHostCmd h.slot h.seq none)

/-- MARKER (R73): arguments `a` slot, `v` SEQ; a miss waits for its answer, another fault fails the command. -/
def execMarker (s : State) : Host.Outcome State Fault Refusal :=
  match s.cmdTurn? 4 true with
  | none => .next s
  | some h =>
    if !s.mayOp stokerAgent 0 0 then .next s
    else match State.ctl h.ctx stokerAgent h.site (ctlWrite h.a0 (leBytes 8 h.a1.toNat)) 4 s with
      | .ok t _ => .next (t.endHostCmd h.slot h.seq none)
      | .fault t c => .next (t.endHostCmd h.slot h.seq (some c))
      | .wait t p => .next (t.modHCmd h fun k => { k with fault := p })

/-- INVTLB (R73, R86): arguments `a` slot, `v` SEQ; it completes with its invalidation. -/
def execInvtlb (s : State) : Host.Outcome State Fault Refusal :=
  match s.cmdTurn? 5 false with
  | none => .next s
  | some h =>
    let (t, id) := s.beginInval h.ctx h.a0 h.a1.toNat false none
    .next (t.modHCmd h fun k => { k with stage := .dispatched, inval := some id })

/-! ### Windows (R20) -/

/-- A window descriptor read from its 64 bytes. -/
def winDesc (bs : List Byte) : WinDesc :=
  let w (i : Nat) : DWord := BitVec.ofNat 64 (leNat ((bs.drop (8 * i)).take 8))
  { role := fld (w 0) 0 2, order := (w 0).getLsbD 2, op := fld (w 0) 3 3, ty := fld (w 0) 6 2, winid := fld (w 0) 32 32, base := w 1,
    bytes := (fld (w 2) 0 40).toNat, homeDev := fld (w 3) 0 16, nsrc := (fld (w 3) 16 16).toNat, rank := (fld (w 3) 32 16).toNat,
    srcs := w 4 }

/-- Whether the zero fields of a descriptor are zero (R20). -/
def winZeros (bs : List Byte) : Bool :=
  let w (i : Nat) : DWord := BitVec.ofNat 64 (leNat ((bs.drop (8 * i)).take 8))
  fld (w 0) 8 24 == 0 && fld (w 2) 40 24 == 0 && fld (w 3) 48 16 == 0 && w 5 == 0 && w 6 == 0 && w 7 == 0

/-- Whether a descriptor's fields are in range (R20). -/
def WinDesc.ok (d : WinDesc) : Bool :=
  d.role != 0 && decide (d.op.toNat ≤ 5) && d.ty != 3 && !(decide (3 ≤ d.op.toNat) && d.ty == 2)
    && d.base.toNat % d.size == 0 && d.bytes != 0 && d.bytes % d.size == 0 && decide (1 ≤ d.nsrc) && decide (d.nsrc ≤ 4096)
    && (if d.role = 1 then d.rank == 0 else decide (d.rank < d.nsrc))

/-- How the range of a home window stands: mapped to device memory, or not, or a page waits for its translation. -/
inductive HomeRange where
  | mapped
  | fails (c : Cause)
  | waits (s : State) (page : Option Nat)

/-- The pages of a home window looked up in turn (R20): `n` pages from `va` on. -/
def State.homeRange (s : State) (ctx : Nat) (site : FaultSite) : Nat → DWord → HomeRange
  | 0, _ => .mapped
  | n + 1, va =>
    if !canonicalVa va || isWindow va then .fails .addressSpace
    else
      let on (s : State) (l : Leaf) : HomeRange := match s.placeOf ctx l va with
        | .ok (.mem, _) => s.homeRange ctx site n ((va >>> 12 <<< 12) + 4096)
        | .ok _ => .fails .addressSpace
        | .error c => .fails c
      match s.lookup (packageMmu ctx) va with
      | .hit l => on s l
      | .faulted => .waits s (some (pageOf va))
      | .absent => match s.walkNow ctx va .atomic site with
        | .leaf t l => on t l
        | .wait t p => .waits t p

/-- A window opened from its descriptor, with the checks of R20 in the order of its table. -/
def State.openWindow (s : State) (h : HCmd) (d : WinDesc) (devs : List Byte) : State :=
  let n := h.a1.toNat
  let dev (i : Nat) : Nat := leNat ((devs.drop (2 * i)).take 2)
  match nget s.links.windows n with
  | some w => s.endHostCmd h.slot h.seq (if w.ctx = h.ctx ∧ w.desc = d then none else some .operandRange)
  | none =>
    if (d.role.getLsbD 1 && dev d.rank != s.devid.toNat) || (d.role.getLsbD 0 && d.homeDev != s.devid) then
      s.endHostCmd h.slot h.seq (some .collectiveMismatch)
    else
      let pages := if d.role.getLsbD 0 then (d.base.toNat % 4096 + d.bytes + 4095) / 4096 else 0
      match s.homeRange h.ctx h.site pages d.base with
      | .fails c => s.endHostCmd h.slot h.seq (some c)
      | .waits t p => t.modHCmd h fun k => { k with fault := p }
      | .mapped =>
        let w : Window :=
          { ctx := h.ctx, desc := d, isOpen := false, closing := false, slot := h.slot, seq := h.seq, rounds := [], merged := [],
            pend := [], openAt := s.tick, drained := false }
        (({ s with links := { s.links with windows := nput n w s.links.windows } } : State).emit (.winOpen d.homeDev d.winid)).modHCmd
          h fun k => { k with stage := .dispatched }

/-- WINOPEN (R20, R73): arguments `a` slot, `v` SEQ, `img` and `flag` for reads of host memory. -/
def execWinopen (s : State) : Host.Outcome State Fault Refusal :=
  match s.cmdTurn? 6 true with
  | none => .next s
  | some h =>
    if s.kindling then .next (s.endHostCmd h.slot h.seq (some .kindlingUnavailable))
    else match State.ctlQuiet h.ctx stokerAgent h.site (ctlRead h.a0 64) 4 s with
      | .fault t c => .next (t.endHostCmd h.slot h.seq (some c))
      | .wait t p => .next (t.modHCmd h fun k => { k with fault := p })
      | .ok t bs =>
        let d := winDesc bs
        if !winZeros bs || !d.ok then .next (t.endHostCmd h.slot h.seq (some .operandRange))
        else match State.ctlQuiet h.ctx stokerAgent h.site (ctlRead d.srcs (2 * d.nsrc)) 8 t with
          | .fault u c => .next (u.endHostCmd h.slot h.seq (some c))
          | .wait u p => .next (u.modHCmd h fun k => { k with fault := p })
          | .ok u devs => .next (u.openWindow h d devs)

/-- WINCLOSE (R20, R73): arguments `a` slot, `v` SEQ; it completes once every round this device contributed to, or is the home
of, has been delivered or abandoned.  A home asks the switches, which tell it with WINDOW_OPEN_ACK. -/
def execWinclose (s : State) : Host.Outcome State Fault Refusal :=
  match s.cmdTurn? 7 true with
  | none => .next s
  | some h => match nget s.links.windows h.a0.toNat with
    | none => .next (s.endHostCmd h.slot h.seq none)
    | some w =>
      if w.ctx ≠ h.ctx then .next (s.endHostCmd h.slot h.seq none)
      else if w.desc.role.getLsbD 0 ∧ !w.drained then
        .next (if w.closing then s
          else (s.modWindow h.a0.toNat fun w => { w with closing := true }).emit (.winClose w.desc.homeDev w.desc.winid))
      else if !w.pend.isEmpty ∨ !w.isOpen then .next s
      else
        .next (({ s with links := { s.links with windows := ndel h.a0.toNat s.links.windows } } : State).endHostCmd h.slot h.seq none)

/-! ### Completion (R73, R75, R103) -/

/-- A finished command journaled and removed, and with it the armed set of a RUNGRAPH. -/
def State.journalEnd (s : State) (h : HCmd) : State :=
  match h.stage with
  | .finished _ =>
    let s1 := s.endRecord h .contextKilled
    let mine (slot : Nat) (seq : Word) : Bool := slot == h.slot && seq == h.seq
    { s1 with
      host := { s1.host with cmds := s1.host.cmds.filter fun k => !mine k.slot k.seq }
      stoker := { s1.stoker with
        nodes := s1.stoker.nodes.filter fun n => !mine n.slot n.seq
        ready := s1.stoker.ready.filter fun p => !mine p.1 p.2.1
        cq := s1.stoker.cq.filter fun e => !mine e.slot e.seq
        retireQ := s1.stoker.retireQ.filter fun e => !mine e.slot e.seq } }
  | _ => s

/-- COMMAND_COMPLETE (R73, R120): arguments `a` slot, `v` SEQ. -/
def execCommandComplete (s : State) : Host.Outcome State Fault Refusal :=
  match s.hcmd? s.arg.a (s.arg.v.setWidth 32) with
  | none => .next s
  | some h => .next (if s.ctrlRuns then s.journalEnd h else s)

end Sys2Proof.Machine
end

