-- ==== Sys2Proof/Machine/Arm.lean ====
section
/-! DEFINITION. Arming a graph (R96 to R100, R106): how the armed set is read and validated, and what arming writes. -/

namespace Sys2Proof.Machine

/-! ### Fields of one record (R96, R98, R100) -/

/-- The fault site of an access for a node record (R83, FROM 3). -/
def stokerSite (slot : Nat) (seq : Word) (addr : DWord) : FaultSite :=
  { origin := 3, pc := addr, lseq := seq, core := 0xFF, slot := BitVec.ofNat 8 slot }

/-- Whether TL and TLVAL are used (R96). -/
def ArmNode.usesTl (n : ArmNode) : Bool := n.sigtl || (decide (6 ≤ n.kind) && decide (n.kind ≤ 8))

/-- The alignment conditions (R100). -/
def ArmNode.aligned (n : ArmNode) : Bool :=
  n.addr.toNat % 256 == 0 && (n.succN == 0 || n.succPtr.toNat % 8 == 0)
    && !((n.kind == 4 || n.kind == 5) && n.predAddr.toNat % 8 != 0) && !(n.kind == 8 && n.param.toNat % 8 != 0)

/-- The conditions on KIND, FLAGS, zero fields and the timeline (R96, R98, R100). -/
def ArmNode.plainFields (n : ArmNode) : Bool :=
  let k := n.kind
  let only (l : List Nat) (v : DWord) : Bool := l.contains k || v == 0
  decide (1 ≤ k) && decide (k ≤ 8) && n.flags.toNat / 8 == 0 && !(n.sigtl && decide (6 ≤ k))
    && fld (n.w 1) 48 16 == 0 && only [4] (zext 64 (fld (n.w 1) 32 16)) && only [1, 5] (n.w 3) && only [1] (n.w 4)
    && only [1, 2] (n.w 5) && only [1] (n.w 6) && only [1] (n.w 7) && fld (n.w 7) 18 14 == 0 && only [1] (n.w 8)
    && fld (n.w 8) 57 7 == 0 && only [1, 2, 3, 8] (n.w 9) && only [4, 5] (n.w 10) && only [5] (n.w 11) && fld (n.w 12) 10 54 == 0
    && ((List.range 8).all fun i => fld (n.w (15 + 2 * i)) 42 22 == 0)
    && (if n.usesTl then n.tl / 16 == n.ctx else n.w 12 == 0 && n.w 13 == 0)

/-- The range conditions on one record (R96, R100). -/
def ArmNode.inRange (n : ArmNode) : Bool :=
  match n.kind with
  | 1 =>
    n.bodyPtr != 0 && decide (1 ≤ n.gangX) && decide (1 ≤ n.gangY) && decide (n.gangX * n.gangY ≤ 2 ^ 32) && decide (1 ≤ n.bpg)
      && decide (n.bpg ≤ 8) && decide (1 ≤ n.wpb) && decide (n.wpb ≤ 32) && decide (1 ≤ n.poolRows) && decide (n.poolRows ≤ 128)
      && n.spadB % 128 == 0 && decide (n.bpg * n.spadB ≤ 30 * 2 ^ 20) && decide (n.wpb * (n.poolRows + n.accRows) ≤ 24576)
      && n.scaleB % 128 == 0 && decide (n.scaleB ≤ 131072) && decide (n.tiles ≤ 64)
  | 2 => n.w 5 != 0
  | 4 => n.predAddr != 0 && decide (n.split ≤ n.succN)
  | 5 => n.bodyPtr != 0
  | _ => true

/-! ### The graph (R100, R106) -/

/-- The index of the record an address names, among those read. -/
def nodeIx (ns : List ArmNode) (a : DWord) : Option Nat := findIx (fun n => untag n.addr == untag a) ns

/-- The successors of each record, as indices. -/
def succIx (ns : List ArmNode) : List (List Nat) := ns.map fun n => n.succ.filterMap (nodeIx ns)

/-- The entry of each LOOP record's body, as an index. -/
def entryIx (ns : List ArmNode) : List (Option Nat) := ns.map fun n => if n.kind = 5 then nodeIx ns n.bodyPtr else none

/-- The nodes reachable from `todo` without passing through `stop`. -/
def reach (next : Nat → List Nat) (stop : Nat) : Nat → List Nat → List Nat → List Nat
  | 0, _, seen => seen
  | _, [], seen => seen
  | fuel + 1, x :: todo, seen =>
    if x = stop ∨ seen.contains x then reach next stop fuel todo seen
    else reach next stop fuel (next x ++ todo) (seen ++ [x])

/-- Every edge of the armed set. -/
def edgesOf (succ : List (List Nat)) : List (Nat × Nat) :=
  (succ.mapIdx fun i l => l.map fun j => (i, j)).flatten

/-- The body of each LOOP (R106): what its entry reaches without passing through it. -/
def bodiesOf (succ : List (List Nat)) (entry : List (Option Nat)) : List (Option (List Nat)) :=
  let next (i : Nat) : List Nat := (succ.getD i []) ++ (entry.getD i none).toList
  let fuel := (succ.map fun l => l.length + 2).foldl (· + ·) 2
  entry.mapIdx fun i e => e.map fun x => reach next i fuel [x] []

/-- Whether an edge is a back edge of the LOOP it reaches (R106). -/
def isBack (bodies : List (Option (List Nat))) (e : Nat × Nat) : Bool := (bodies.getD e.2 none).elim false fun b => b.contains e.1

/-- Whether the body of LOOP `l` is well formed (R106); no other LOOP names its entry. -/
def bodyOk (succ : List (List Nat)) (entries : List (Option Nat)) (bodies : List (Option (List Nat))) (l : Nat) (entry : Nat)
    (body : List Nat) : Bool :=
  let es := edgesOf succ
  let all := bodies.filterMap id
  !(succ.getD l []).contains l && (es.any fun e => e.2 == l && body.contains e.1) && !(es.any fun e => e.2 == entry)
    && decide ((entries.filter (· == some entry)).length = 1)
    && (es.all fun e => !(body.contains e.2 && !body.contains e.1))
    && (es.all fun e => !(body.contains e.1 && !body.contains e.2 && e.2 != l))
    && decide ((all.filter fun b => b.contains l).length < 8)
    && all.all fun b => (b.all body.contains) || (body.all b.contains) || !b.any body.contains

/-- A node without unmarked predecessors removed, as long as there is one. -/
def peel : Nat → List Nat → List (Nat × Nat) → List Nat
  | 0, left, _ => left
  | fuel + 1, left, es =>
    match left.find? fun x => !es.any fun e => e.2 == x with
    | none => left
    | some x => peel fuel (left.filter (· != x)) (es.filter fun e => e.1 != x)

/-- The whole-graph conditions (R100): PREDINIT, cycles and loop bodies. -/
def graphOk (ns : List ArmNode) : Bool :=
  let succ := succIx ns
  let entry := entryIx ns
  let bodies := bodiesOf succ entry
  let es := edgesOf succ
  let fwd := es.filter fun e => !isBack bodies e
  let enter := (entry.mapIdx fun i e => e.toList.map fun x => (i, x)).flatten
  ((bodies.mapIdx fun i b => (i, b)).all fun p => match p.2, entry.getD p.1 none with
      | some b, some x => bodyOk succ entry bodies p.1 x b
      | _, _ => true)
    && ((ns.mapIdx fun i n => (i, n)).all fun p =>
      p.2.predInit == (fwd.filter fun e => e.2 == p.1).length + (enter.filter fun e => e.2 == p.1).length)
    && (peel ns.length (List.range ns.length) (fwd ++ enter)).isEmpty

/-- Cores of a cluster in service (R51). -/
def State.coresOf (s : State) (cluster : Nat) : List Nat :=
  if s.dev.clusterUp.getLsbD cluster then
    ((List.range 8).map fun i => cluster * 8 + i).filter fun c => !s.mem.fencedCores.contains c
  else []

/-- Whether cluster 0 can hold a gang of a node at some time (R30): enough cores in service, and scratchpad in banks that are not
fenced, of which at most 30 leave cache mode (R51, R113). -/
def State.fitsCluster0 (s : State) (n : ArmNode) : Bool :=
  let sound := (List.range 32).filter fun i => !s.mem.fencedBanks.contains (bankKey 0 i)
  decide (n.bpg ≤ (s.coresOf 0).length)
    && (n.spadB == 0 || (spadLists (n.spadB / 128) (sound.take 30) n.bpg fun _ => []).isSome)

/-- The first condition of R100 that an armed set read whole violates. -/
def State.armFault (s : State) (h : HCmd) (ns : List ArmNode) : Option Cause :=
  let ids := ns.map ArmNode.nodeId
  let bodyIds := ns.all fun n => n.kind != 5 || ((nodeIx ns n.bodyPtr).bind fun i => ns[i]?).elim false fun m => m.nodeId == n.bodyId
  let taken := s.stoker.nodes.any fun m => !(m.slot == h.slot && m.seq == h.seq) && ns.any fun n => n.key == m.key
  if !ns.all ArmNode.aligned then some .alignment
  else if !ns.all ArmNode.plainFields then some .reservedField
  else if !ns.all ArmNode.inRange ∨ 1048576 < ns.length ∨ ids.eraseDups.length ≠ ids.length ∨ !bodyIds ∨ taken ∨ !graphOk ns then
    some .operandRange
  else if s.kindling && ns.any fun n => n.kind == 3 || (n.kind == 1 && !s.fitsCluster0 n) then
    some .kindlingUnavailable
  else none

/-! ### Reading the armed set (R99, R100) -/

/-- How reading ends. -/
inductive ArmRead where
  | nodes (s : State) (ns : List ArmNode)
  | fails (s : State) (c : Cause)
  | waits (s : State) (page : Option Nat)

/-- Where a record lies, so that two commands' records can be compared: the home of its first byte. -/
def State.recordKey (s : State) (ctx : Nat) (a : DWord) : Nat :=
  match s.lookup (packageMmu ctx) a with
  | .hit l => match s.placeOf ctx l a with
    | .ok (.mem, x) => 4 * x
    | .ok (_, x) => 4 * x + 1
    | .error _ => 4 * a.toNat + 2
  | _ => 4 * a.toNat + 2

/-- A record just read, before it is armed. -/
def ArmNode.read (h : HCmd) (a : DWord) (key : Nat) (bs : List Byte) : ArmNode :=
  { slot := h.slot, seq := h.seq, ctx := h.ctx, addr := a, key := key, words := dwordsOf 30 bs, succ := [], state := 0, predLive := 0,
    liveIn := false, launches := 0, readyAt := 0, pref := 0, preloaded := 0, owe := false, placed := 0, done := 0, iter := 0, body := [],
    backN := 0, backLeft := 0, backLive := false, stored := false, outs := [], closed := false, failed := none, fault := none }

/-- Whether the device-owned words of a record can be written (R97, R100). -/
def ownedWritable (a : DWord) (e : Eng) : Except EStop (Eng × Unit) :=
  match e.place (a + 0xF0) true true with
  | .ok _ => .ok (e, ())
  | .error x => .error x

/-- The records reachable from `todo` read in turn, each once, with their successor lists. -/
def State.readNodes (h : HCmd) : Nat → List DWord → List ArmNode → State → ArmRead
  | 0, _, ns, s => .nodes s ns
  | _, [], ns, s => .nodes s ns
  | fuel + 1, a :: todo, ns, s =>
    let site := stokerSite h.slot h.seq a
    if !canonicalVa a || isWindow a then .fails s .addressSpace
    else if ns.any fun n => untag n.addr == untag a then State.readNodes h fuel todo ns s
    else if 1048576 < ns.length then .nodes s ns
    else match State.ctlQuiet h.ctx stokerAgent site (ctlRead a 256) 4 s with
      | .fault t c => .fails t c
      | .wait t p => .waits t p
      | .ok t bs => match State.ctlQuiet h.ctx stokerAgent site (ownedWritable a) 4 t with
        | .fault u c => .fails u c
        | .wait u p => .waits u p
        | .ok u _ =>
          let n := ArmNode.read h a (u.recordKey h.ctx a) bs
          let body := if n.kind = 5 ∧ n.bodyPtr ≠ 0 then [n.bodyPtr] else []
          if n.succN = 0 ∨ n.succPtr.toNat % 8 ≠ 0 ∨ a.toNat % 256 ≠ 0 then
            State.readNodes h fuel (todo ++ body) (ns ++ [n]) u
          else match State.ctlQuiet h.ctx stokerAgent (stokerSite h.slot h.seq n.succPtr) (ctlRead n.succPtr (8 * n.succN)) 260 u with
            | .fault v c => .fails v c
            | .wait v p => .waits v p
            | .ok v l =>
              let succ := dwordsOf n.succN l
              State.readNodes h fuel (todo ++ succ ++ body) (ns ++ [{ n with succ := succ }]) v

/-! ### The device-owned words (R97) -/

/-- The device-owned words of a node. -/
def ArmNode.owned (n : ArmNode) : List Byte :=
  dwordBytes [at64 0 n.seq.toNat ||| at64 32 n.slot,
    at64 0 (n.predLive % 65536) ||| at64 16 n.liveIn.toNat ||| at64 17 n.state ||| at64 32 n.launches.toNat]

/-- A node's new state kept and written to its record (R97): a miss holds the node's progress until the words have been written
again, any other fault kills the context. -/
def State.putNode (s : State) (n : ArmNode) : State :=
  match State.ctlQuiet n.ctx stokerAgent (stokerSite n.slot n.seq n.addr) (ctlWrite (n.addr + 0xF0) n.owned) 4 s with
  | .ok t _ => t.setNode { n with owe := false }
  | .fault t c => (t.setNode n).kill n.ctx c
  | .wait t p => t.setNode { n with fault := p, owe := true }

/-! ### Becoming ready (R101, R108, R116) -/

/-- The cluster a node prefers (R116): the one with the largest sum of in and inout operands that overlap entries naming it. -/
def State.preferred (s : State) (n : ArmNode) : Nat :=
  let ops := ((List.range 8).map n.operand).filter fun o => o.2.2 == 1 || o.2.2 == 3
  let sum (c : Nat) : Nat := ((ops.filter fun o => s.stoker.place.any fun e =>
    e.cluster == c && overlaps (untag o.1) o.2.1 (untag e.addr) e.bytes).map fun o => o.2.1).foldl (· + ·) 0
  (List.range 24).foldl (fun best c => if sum best < sum c then c else best) 0

/-- A node that becomes READY (R101). -/
def State.readied (s : State) (n : ArmNode) : ArmNode :=
  { n with
    state := 2, readyAt := s.tick, placed := 0, done := 0, stored := false, preloaded := 0, closed := false
    pref := if (n.kind == 1 || n.kind == 2) && !n.noPlace then s.preferred n else 0 }

/-- A KERNEL, COPY or COLL node entered in the ready pool, or waiting for room in it (R95). -/
def State.pooled (s : State) (n : ArmNode) : State :=
  if n.kind ≤ 3 then { s with stoker := { s.stoker with ready := s.stoker.ready ++ [(n.slot, n.seq, n.addr)] } } else s

/-- A node armed (R99): WAITING, with its counts at their initial values and its loop body (R106). -/
def armOne (ns : List ArmNode) (bodies : List (Option (List Nat))) (es : List (Nat × Nat)) (i : Nat) (n : ArmNode) : ArmNode :=
  { n with
    state := 1, predLive := n.predInit
    body := ((bodies.getD i none).getD []).filterMap fun j => (ns[j]?).map fun m => m.addr
    backN := (es.filter fun e => e.2 == i && isBack bodies e).length }

/-- The second phase of arming (R99): every node is armed, then those without predecessors become READY. -/
def State.armSet (s : State) (h : HCmd) (ns : List ArmNode) : State :=
  let succ := succIx ns
  let bodies := bodiesOf succ (entryIx ns)
  let armed := ns.mapIdx (armOne ns bodies (edgesOf succ))
  let s1 := ({ s with stoker := { s.stoker with nodes := s.stoker.nodes ++ armed } } : State).modHCmd h fun k => { k with stage := .dispatched }
  let s2 := armed.foldl (fun t n => t.putNode n) s1
  (armed.filter fun n => n.predInit == 0).foldl (fun t n => (t.putNode (t.readied n)).pooled n) s2

/-- RUNGRAPH (R73, R99, R100): arguments `a` slot, `v` SEQ, `img` and `flag` for reads of host memory.  A checkpoint stops arming
(R138). -/
def execRungraph (s : State) : Host.Outcome State Fault Refusal :=
  match s.cmdTurn? 1 false with
  | none => .next s
  | some h =>
    if s.recd.ckBusy then .next s
    else match State.ctlQuiet h.ctx stokerAgent (stokerSite h.slot h.seq h.a0) (ctlRead h.a0 (8 * h.a1.toNat)) 20 s with
      | .fault t c => .next (t.endHostCmd h.slot h.seq (some c))
      | .wait t p => .next (t.modHCmd h fun k => { k with fault := p })
      | .ok t l => match State.readNodes h (2 ^ 37) (dwordsOf h.a1.toNat l) [] t with
        | .fails u c => .next (u.endHostCmd h.slot h.seq (some c))
        | .waits u p => .next (u.modHCmd h fun k => { k with fault := p })
        | .nodes u ns => match u.armFault h ns with
          | some c => .next (u.endHostCmd h.slot h.seq (some c))
          | none => .next (u.armSet h ns)

end Sys2Proof.Machine
end

