-- ==== Sys2Proof/Machine/Cross.lean ====
section
/-! DEFINITION. Class 2, the cross-lane instructions (R363 to R367). -/

namespace Sys2Proof

/-- The extension word of R363 as one number. -/
def SrcX.bits (x : SrcX) : Nat := x.sc.toNat + 256 * x.ec.toNat + 512 * x.hi.toNat
/-- EDGE (R363). -/
def SrcX.edge (x : SrcX) : Nat := x.bits % 4
/-- The sub-group width 2^SGW (R363). -/
def SrcX.width (x : SrcX) : Nat := 2 ^ (x.bits / 2 ^ 9 % 8)
/-- FULL (R363). -/
def SrcX.full (x : SrcX) : Bool := x.bits / 2 ^ 12 % 2 == 1
/-- EXCL (R363). -/
def SrcX.excl (x : SrcX) : Bool := x.bits / 2 ^ 13 % 2 == 1

end Sys2Proof

namespace Sys2Proof.Machine

/-- The lowest lane of a lane's sub-group (R363). -/
def groupBase (wd l : Nat) : Nat := l / wd * wd

/-- The active lanes of a lane's sub-group, ascending (R363). -/
def members (act : Word) (wd l : Nat) : List Nat :=
  (maskLanes act).filter fun k => groupBase wd k == groupBase wd l

/-- Whether every sub-group that holds an active lane is fully active (R363). -/
def fullGroups (act : Word) (wd : Nat) : Bool := (maskLanes act).all fun l => (members act wd l).length == wd

/-- A cross-lane word: FULL first (SUBGROUP_TARGET in the active lanes), then its effect (R363). -/
def laneCross (i : Instr) (w : LaneW) (x : SrcX) (s : State) (f : Cur → Blk → Thr → Word → Thr) :
    Host.Outcome State Fault Refusal :=
  laneWordOp i w s fun c b t act =>
    if x.full && !fullGroups act x.width then s.trapWord c b t .subgroupTarget act
    else
      let s1 := if act = 0 then s else s.noteUnis c b (laneUnis i w) false
      (s1.modThr c.core c.bctx c.w fun _ => f c b t act).retire c c.lanes

/-! ### Shuffles (R364) -/

/-- The source lane of a shuffle, if it has one: target member `t` under the edge rule. -/
def shuffleSource (act : Word) (wd edge l : Nat) (t : Int) : Option Nat :=
  let src : Option Nat :=
    if 0 ≤ t ∧ t < wd then some (groupBase wd l + t.toNat)
    else if edge = 1 then some (groupBase wd l + (t % (wd : Int)).toNat)
    else none
  match src with
  | some k => if act.getLsbD k then some k else none
  | none => none

/-- A shuffle: `target` gives the member index from the lane's own and b (R364). -/
def laneShuffle (i : Instr) (w : LaneW) (x : SrcX) (s : State) (target : Nat → Nat → Int) :
    Host.Outcome State Fault Refusal :=
  laneCross i w x s fun _ b t act =>
    t.putRow w.vd.toNat act fun l =>
      let j := (srcW t b w.sb w.lit l).toNat
      match shuffleSource act x.width x.edge l (target (l % x.width) j) with
      | some k => srcW t b w.sa w.lit k
      | none => if x.edge = 2 then 0 else srcW t b w.sa w.lit l

/-- SHFL (R364). -/
def execShfl (w : LaneW) (x : SrcX) (s : State) : Host.Outcome State Fault Refusal :=
  laneShuffle (.shfl w x) w x s fun _ j => (j : Int)
/-- SHFLUP (R364). -/
def execShflup (w : LaneW) (x : SrcX) (s : State) : Host.Outcome State Fault Refusal :=
  laneShuffle (.shflup w x) w x s fun m j => (m : Int) - j
/-- SHFLDN (R364). -/
def execShfldn (w : LaneW) (x : SrcX) (s : State) : Host.Outcome State Fault Refusal :=
  laneShuffle (.shfldn w x) w x s fun m j => (m : Int) + j
/-- SHFLX (R364). -/
def execShflx (w : LaneW) (x : SrcX) (s : State) : Host.Outcome State Fault Refusal :=
  laneShuffle (.shflx w x) w x s fun m j => ((m ^^^ j : Nat) : Int)

/-! ### Votes and selections (R365) -/

/-- VOTEALL (R365). -/
def execVoteall (w : LaneW) (x : SrcX) (s : State) : Host.Outcome State Fault Refusal :=
  laneCross (.voteall w x) w x s fun _ b t act =>
    t.putPred (fld w.vd 0 3).toNat act fun l => (members act x.width l).all fun k => srcW t b w.sa w.lit k != 0
/-- VOTEANY (R365). -/
def execVoteany (w : LaneW) (x : SrcX) (s : State) : Host.Outcome State Fault Refusal :=
  laneCross (.voteany w x) w x s fun _ b t act =>
    t.putPred (fld w.vd 0 3).toNat act fun l => (members act x.width l).any fun k => srcW t b w.sa w.lit k != 0
/-- BALLOT (R365). -/
def execBallot (w : LaneW) (x : SrcX) (s : State) : Host.Outcome State Fault Refusal :=
  laneCross (.ballot w x) w x s fun _ b t act =>
    t.putRow w.vd.toNat act fun l =>
      lanesMask ((members act x.width l).filter fun k => srcW t b w.sa w.lit k != 0)
/-- MATCH (R365). -/
def execMatchLane (w : LaneW) (x : SrcX) (s : State) : Host.Outcome State Fault Refusal :=
  laneCross (.matchLane w x) w x s fun _ b t act =>
    t.putRow w.vd.toNat act fun l =>
      lanesMask ((members act x.width l).filter fun k => srcW t b w.sa w.lit k == srcW t b w.sa w.lit l)
/-- ELECT (R365). -/
def execElect (w : LaneW) (x : SrcX) (s : State) : Host.Outcome State Fault Refusal :=
  laneCross (.elect w x) w x s fun _ _ t act =>
    t.putPred (fld w.vd 0 3).toNat act fun l => (members act x.width l).head? == some l

/-! ### Reductions (R366) -/

/-- A fold of an operation over the active lanes of a sub-group. -/
def laneFold (i : Instr) (w : LaneW) (x : SrcX) (s : State) (id : Word) (op : Word → Word → Word) :
    Host.Outcome State Fault Refusal :=
  laneCross i w x s fun _ b t act =>
    t.putRow w.vd.toNat act fun l => ((members act x.width l).map fun k => srcW t b w.sa w.lit k).foldl op id

/-- REDADD (R366). -/
def execRedadd (w : LaneW) (x : SrcX) (s : State) : Host.Outcome State Fault Refusal :=
  laneFold (.redadd w x) w x s 0 fun a b => a + b
/-- REDMIN (R366). -/
def execRedmin (w : LaneW) (x : SrcX) (s : State) : Host.Outcome State Fault Refusal :=
  laneFold (.redmin w x) w x s 0x7FFFFFFF fun a b => if a.toInt ≤ b.toInt then a else b
/-- REDMAX (R366). -/
def execRedmax (w : LaneW) (x : SrcX) (s : State) : Host.Outcome State Fault Refusal :=
  laneFold (.redmax w x) w x s 0x80000000 fun a b => if a.toInt ≤ b.toInt then b else a
/-- REDMINU (R366). -/
def execRedminu (w : LaneW) (x : SrcX) (s : State) : Host.Outcome State Fault Refusal :=
  laneFold (.redminu w x) w x s 0xFFFFFFFF fun a b => if a.toNat ≤ b.toNat then a else b
/-- REDMAXU (R366). -/
def execRedmaxu (w : LaneW) (x : SrcX) (s : State) : Host.Outcome State Fault Refusal :=
  laneFold (.redmaxu w x) w x s 0 fun a b => if a.toNat ≤ b.toNat then b else a
/-- REDAND (R366). -/
def execRedand (w : LaneW) (x : SrcX) (s : State) : Host.Outcome State Fault Refusal :=
  laneFold (.redand w x) w x s 0xFFFFFFFF fun a b => a &&& b
/-- REDOR (R366). -/
def execRedor (w : LaneW) (x : SrcX) (s : State) : Host.Outcome State Fault Refusal :=
  laneFold (.redor w x) w x s 0 fun a b => a ||| b
/-- REDXOR (R366). -/
def execRedxor (w : LaneW) (x : SrcX) (s : State) : Host.Outcome State Fault Refusal :=
  laneFold (.redxor w x) w x s 0 fun a b => a ^^^ b

/-- One level of the fixed tree: neighbours combined in pairs, the lower first (R366). -/
def pairUp (op : Word → Word → Word) : List Word → List Word
  | a :: b :: t => op a b :: pairUp op t
  | l => l

/-- The fixed tree over the members of a sub-group (R366). -/
def treeFold (op : Word → Word → Word) : Nat → List Word → Word
  | 0, l => l.headD 0
  | k + 1, l => treeFold op k (pairUp op l)

/-- A floating reduction: each inactive member contributes the identity (R366). -/
def laneTree (i : Instr) (w : LaneW) (x : SrcX) (s : State) (id : Word) (op : Word → Word → Word) :
    Host.Outcome State Fault Refusal :=
  laneCross i w x s fun _ b t act =>
    t.putRow w.vd.toNat act fun l =>
      treeFold op (x.bits / 2 ^ 9 % 8)
        ((List.range x.width).map fun m =>
          let k := groupBase x.width l + m
          if act.getLsbD k then srcW t b w.sa w.lit k else id)

/-- FREDADD (R366). -/
def execFredadd (w : LaneW) (x : SrcX) (s : State) : Host.Outcome State Fault Refusal :=
  laneTree (.fredadd w x) w x s 0x80000000
    fun a b => BitVec.ofNat 32 (fp32.add .rne false a.toNat b.toNat).val
/-- FREDMAX (R366). -/
def execFredmax (w : LaneW) (x : SrcX) (s : State) : Host.Outcome State Fault Refusal :=
  laneTree (.fredmax w x) w x s 0x7FC00000
    fun a b => BitVec.ofNat 32 (fp32.minmaxNum true a.toNat b.toNat).val

/-! ### Scans (R367) -/

/-- A scan over the active lanes of the sub-group up to the lane, or below it under EXCL. -/
def laneScan (i : Instr) (w : LaneW) (x : SrcX) (s : State) (id : Word) (op : Word → Word → Word) :
    Host.Outcome State Fault Refusal :=
  laneCross i w x s fun _ b t act =>
    t.putRow w.vd.toNat act fun l =>
      (((members act x.width l).filter fun k => if x.excl then decide (k < l) else decide (k ≤ l)).map
        fun k => srcW t b w.sa w.lit k).foldl op id

/-- SCANADD (R367). -/
def execScanadd (w : LaneW) (x : SrcX) (s : State) : Host.Outcome State Fault Refusal :=
  laneScan (.scanadd w x) w x s 0 fun a b => a + b
/-- SCANXOR (R367). -/
def execScanxor (w : LaneW) (x : SrcX) (s : State) : Host.Outcome State Fault Refusal :=
  laneScan (.scanxor w x) w x s 0 fun a b => a ^^^ b
/-- SCANMAX (R367). -/
def execScanmax (w : LaneW) (x : SrcX) (s : State) : Host.Outcome State Fault Refusal :=
  laneScan (.scanmax w x) w x s 0x80000000 fun a b => if a.toInt ≤ b.toInt then b else a

end Sys2Proof.Machine
end

