-- ==== Sys2Proof/Machine/Graph.lean ====
section
/-! DEFINITION. The life of a node (R101 to R107, R119, R120): completions, forwarding, retirement, failure, the nodes the control core
runs, pre-loading, and the take-over by the standby control core. -/

namespace Sys2Proof.Machine

/-! ### Changing a node (R97) -/

/-- The node that an event names: slot in `b`, address in `a`. -/
def State.argNode (s : State) : Option ArmNode :=
  (s.node? s.arg.b (BitVec.ofNat 64 s.arg.a)).filter fun n => !n.held && !n.closed

/-- A node's new state written to its record, and what follows from it; a miss leaves the node as it was, waiting for the
answer, and any other fault kills the context (R97). -/
def State.withNode (s : State) (old new : ArmNode) (k : State → State) : State :=
  match State.ctlQuiet new.ctx stokerAgent (stokerSite new.slot new.seq new.addr) (ctlWrite (new.addr + 0xF0) new.owned) 4 s with
  | .ok t _ => k (t.setNode new)
  | .fault t c => t.kill new.ctx c
  | .wait t (some p) => t.setNode { old with fault := some p }
  | .wait t none => t

/-- A node of the control core taken up: RUNNING, with one more launch (R101, R118). -/
def State.takeUp (s : State) (n : ArmNode) (k : ArmNode → State → State) : State :=
  if n.state = 3 then k n s
  else
    let m := { n with state := 3, launches := n.launches + 1, iter := 0, backLeft := 0, backLive := false }
    s.withNode n m (k m)

/-- A node that the control core has run, with what it reports (R119). -/
def ArmNode.ran (n : ArmNode) (how : Notify) : ArmNode := { n with done := 1, outs := n.outs ++ [how] }

/-! ### Recorded decisions (R136, R142) -/

/-- Whether a PLACE record of the log is a decision on a node. -/
def isPlace (event : Nat) (n : ArmNode) (p : Nat × DWord × DWord × DWord) : Bool :=
  p.1 / 2 ^ 16 % 8 == event && p.1 / 2 ^ 32 == n.nodeId.toNat && fld p.2.1 32 32 == n.seq && (fld p.2.2.2 0 8).toNat == n.slot
    && (fld p.2.2.2 8 6).toNat == n.ctx

/-- Whether a decision on a node may be made now: in replay, when it is the next in DSEQ order. -/
def State.mayDecide (s : State) (event : Nat) (n : ArmNode) : Bool :=
  !s.recd.halted && (!s.replaying || s.recd.places.head?.any (isPlace event n))

/-- ARG of the decision that replay forces. -/
def State.forcedArg (s : State) : Option Nat :=
  if s.replaying then s.recd.places.head?.map fun p => (fld p.2.2.1 0 32).toNat else none

/-- A decision recorded, or in replay taken off the log. -/
def State.decided (s : State) (event : Nat) (n : ArmNode) (arg cluster mask core : Nat) (faulted : Bool) : State :=
  if s.replaying then { s with recd := { s.recd with places := s.recd.places.drop 1 } }
  else s.recordPlace event n.nodeId n.seq (BitVec.ofNat 32 arg) cluster mask core n.slot n.ctx faulted

/-! ### Failure and the end of a command (R103) -/

/-- A RUNGRAPH whose nodes are all RETIRED, SKIPPED, FAILED or ABANDONED has finished (R103). -/
def State.finishIfDone (s : State) (slot : Nat) (seq : Word) : State :=
  if s.stoker.nodes.all fun n => !(n.slot == slot && n.seq == seq) || (n.closed && !n.owe) then
    match s.hcmd? slot seq with
    | some h => if h.opc = 1 ∧ h.stage = .dispatched then s.endHostCmd slot seq h.fail else s
    | none => s
  else s

/-- A node abandoned (R103): it leaves the ready pool and never runs. -/
def State.abandon (s : State) (n : ArmNode) : State :=
  let out (p : Nat × Word × DWord) : Bool := p.1 == n.slot && p.2.1 == n.seq && p.2.2 == n.addr
  ({ s with stoker := { s.stoker with ready := s.stoker.ready.filter fun p => !out p } } : State).putNode
    { n with state := 7, outs := [], closed := true }

/-- A node FAILED (R103): the nodes it reaches that have not run are abandoned, a running LOOP among them, and the command's
cause is that of its first failure. -/
def State.failNode (s : State) (n : ArmNode) (c : Cause) : State :=
  let ns := s.stoker.nodes.filter fun m => m.slot == n.slot && m.seq == n.seq
  let succ := succIx ns
  let entry := entryIx ns
  let next (i : Nat) : List Nat := succ.getD i [] ++ (entry.getD i none).toList
  let hit := reach next ns.length ((succ.map fun l => l.length + 2).foldl (· + ·) 2) (((nodeIx ns n.addr).map next).getD []) []
  let lost := (hit.filterMap fun i => ns[i]?).filter fun m =>
    m.addr != n.addr && (m.state == 1 || m.state == 2 || (m.kind == 5 && m.state == 3))
  let s1 := s.putNode { n with state := 6, outs := [], closed := true, failed := some c }
  let s2 := ({ s1 with
    stoker := { s1.stoker with ready := s1.stoker.ready.filter fun p => !(p.1 == n.slot && p.2.1 == n.seq && p.2.2 == n.addr) }
    host := { s1.host with cmds := s1.host.cmds.map fun h =>
      if h.slot = n.slot ∧ h.seq = n.seq ∧ h.fail.isNone then { h with fail := some c } else h } } : State)
  (lost.foldl (fun t m => t.abandon m) s2).finishIfDone n.slot n.seq

/-! ### Completions and forwarding (R102, R105, R106, R119) -/

/-- NODE_COMPLETION_REPORT (R119): arguments `a` node, `b` slot.  The node enters the completion queue, or FAILED. -/
def execNodeCompletionReport (s : State) : Host.Outcome State Fault Refusal :=
  match s.argNode with
  | none => .next s
  | some n =>
    let push (m : ArmNode) (how : Notify) : State :=
      let t := s.setNode m
      { t with stoker := { t.stoker with cq := t.stoker.cq ++ [{ slot := n.slot, seq := n.seq, addr := n.addr, how := how, cursor := 0 }] } }
    match n.outs with
    | how :: rest => if s.cqFull then .next s else .next (push { n with outs := rest } how)
    | [] =>
      if !n.executed then .next s
      else match n.failed with
        | some c => .next (s.failNode n c)
        | none => if s.cqFull then .next s else .next (push { n with stored := true } .live)

/-- The nodes an entry notifies, with how (R102, R105, R106). -/
def notices (n : ArmNode) (how : Notify) : List (DWord × Bool) :=
  match how with
  | .live => n.succ.map fun a => (a, true)
  | .skip => n.succ.map fun a => (a, false)
  | .cond taken => n.succ.mapIdx fun i a => (a, decide (i < n.split) == taken)
  | .body live => [(n.bodyPtr, live)]

/-- What a notification makes of a node that waits (R101, R102): one predecessor fewer, and READY or SKIPPED with the last. -/
def State.notified (s : State) (m : ArmNode) (live : Bool) : ArmNode :=
  let x := { m with predLive := m.predLive - 1, liveIn := m.liveIn || live }
  if 1 < m.predLive then x
  else if x.liveIn then s.readied x
  else { x with state := 5, outs := if m.kind = 5 then [.body false, .skip] else [.skip] }

/-- One notification carried out, and then `k`; the back edges of a LOOP count for its iteration (R106). -/
def State.notifyNode (s : State) (n : ArmNode) (a : DWord) (live : Bool) (k : State → State) : State :=
  match s.node? n.slot a with
  | none => k s
  | some m =>
    if m.held then s
    else if m.kind = 5 ∧ m.body.any (fun x => untag x == untag n.addr) then
      k (if m.state = 3 then s.setNode { m with backLeft := m.backLeft - 1, backLive := m.backLive || live } else s)
    else if m.state ≠ 1 then k s
    else
      let x := s.notified m live
      s.withNode m x fun t => k (if x.state = 2 then t.pooled x else t)

/-- FORWARDING_STEP (R119): the next notification of the oldest entry, its cursor with it; an entry whose cursor has passed
every successor is handed to the control core. -/
def execForwardingStep (s : State) : Host.Outcome State Fault Refusal :=
  match s.stoker.cq with
  | [] => .next s
  | e :: rest =>
    if !s.stoker.forwarding || s.islandDown stokerIsland then .next s
    else
      let drop (t : State) : State := ({ t with stoker := { t.stoker with cq := t.stoker.cq.drop 1 } } : State).sweep.freeColls
      match s.node? e.slot e.addr with
      | none => .next (drop s)
      | some n =>
        let out := notices n e.how
        let hand (t : State) : State :=
          if out.length ≤ e.cursor + 1 then
            (drop { t with stoker := { t.stoker with retireQ := t.stoker.retireQ ++ [e] } })
          else { t with stoker := { t.stoker with cq := { e with cursor := e.cursor + 1 } :: rest } }
        if n.seq ≠ e.seq ∨ n.state = 6 ∨ n.state = 7 then .next (drop s)
        else match out[e.cursor]? with
          | none => .next (hand s)
          | some (a, live) => .next (s.notifyNode n a live hand)

/-- A command's end journaled, once it has finished. -/
def State.journalIf (s : State) (slot : Nat) (seq : Word) : State :=
  match s.hcmd? slot seq with
  | some h => s.journalEnd h
  | none => s

/-- The oldest entry handed to the control core retired (R98, R103, R119). -/
def State.retireNext (s : State) : Host.Outcome State Fault Refusal :=
  match s.stoker.retireQ with
  | [] => .next s
  | e :: rest =>
    let drop (t : State) : State := { t with stoker := { t.stoker with retireQ := rest } }
    let isBody : Bool := match e.how with
      | .body _ => true
      | _ => false
    match s.node? e.slot e.addr with
    | none => .next (drop s)
    | some n =>
      if isBody ∨ n.seq ≠ e.seq ∨ n.closed then .next (drop s)
      else if n.held ∨ (n.sigtl ∧ (!s.mayOp stokerAgent 0 0 ∨ s.islandDown syncIsland)) then .next s
      else
        .next (s.withNode n { n with state := if e.how = .skip then 5 else 4, closed := true } fun t =>
          ((if n.sigtl then (drop t).stokerRaise n.tl n.tlVal else drop t).finishIfDone n.slot n.seq).journalIf n.slot n.seq)

/-- NODE_RETIRE (R97, R98, R103, R119): the control core writes again the words of a node whose fault has been answered; with
none owed it retires the oldest entry handed to it, performs SIGTL, and completes the command with its last node. -/
def execNodeRetire (s : State) : Host.Outcome State Fault Refusal :=
  if !s.ctrlRuns then .next s else
  match s.stoker.nodes.find? fun n => n.owe && n.fault.isNone with
  | some n => .next (((s.putNode n).finishIfDone n.slot n.seq).journalIf n.slot n.seq)
  | none => s.retireNext

/-! ### Nodes the control core runs (R104 to R106) -/

/-- Whether the event's node is one of a kind that the control core has still to run. -/
def State.ccNode (s : State) (kind : Nat) : Option ArmNode :=
  s.argNode.filter fun n => n.kind == kind && (n.state == 2 || n.state == 3) && n.done == 0 && n.outs.isEmpty
    && s.ctrlRuns && !s.recd.halted && (decide (kind < 6) || !s.islandDown syncIsland)

/-- A predicate read for a node, an operation of the control cores (R104): a miss makes the node wait, another fault fails it. -/
def State.nodeRead (s : State) (n : ArmNode) (k : State → Bool → State) : State :=
  match State.ctl n.ctx stokerAgent (stokerSite n.slot n.seq n.addr) (ctlRead n.predAddr 8) 4 s with
  | .ok t bs => k t (leNat bs != 0)
  | .fault t c => t.failNode n c
  | .wait t p => t.setNode { n with fault := p }

/-- COND_EVALUATE (R105): arguments `a` node, `b` slot, `img` and `flag` for a predicate in host memory. -/
def execCondEvaluate (s : State) : Host.Outcome State Fault Refusal :=
  match s.ccNode 4 with
  | none => .next s
  | some n =>
    if !s.mayDecide 3 n then .next s
    else .next (s.takeUp n fun m t => t.nodeRead m fun u v =>
      let taken := (u.forcedArg.map (· != 0)).getD v
      (u.decided 3 m taken.toNat 0 0 0 false).setNode (m.ran (.cond taken)))

/-- A body node armed again for the next iteration (R106). -/
def ArmNode.rearmed (n : ArmNode) : ArmNode :=
  { n with
    predLive := n.predInit, liveIn := false, state := 1, closed := false, placed := 0, done := 0, iter := 0, backLeft := 0
    backLive := false, stored := false, outs := [] }

/-- The body nodes of a LOOP. -/
def State.bodyNodes (s : State) (n : ArmNode) : List ArmNode := n.body.filterMap fun a => s.node? n.slot a

/-- The outcome of a LOOP's test (R106): another iteration, or the exit. -/
def State.loopGo (s : State) (n : ArmNode) (go : Bool) : State :=
  let s1 := s.decided 4 n go.toNat 0 0 0 false
  if go then
    let s2 := (s1.bodyNodes n).foldl (fun t m => t.putNode m.rearmed) s1
    s2.setNode { n with iter := n.iter + 1, backLeft := n.backN, backLive := false, outs := [.body true] }
  else s1.setNode (n.ran .live)

/-- LOOP_NODE_TEST (R106): arguments `a` node, `b` slot, `img` and `flag` for a predicate in host memory. -/
def execLoopNodeTest (s : State) : Host.Outcome State Fault Refusal :=
  match s.ccNode 5 with
  | none => .next s
  | some n =>
    let rested := n.backLeft == 0 && (s.bodyNodes n).all fun m => m.closed && (m.state == 4 || m.state == 5)
    if !s.mayDecide 4 n || (n.state == 3 && decide (0 < n.iter) && !rested) then .next s
    else .next (s.takeUp n fun m t =>
      let on := !(decide (0 < m.iter) && !m.backLive) && !(m.loopMax != 0 && m.iter == m.loopMax)
      let test (u : State) (v : Bool) : State := u.loopGo m ((u.forcedArg.map (· != 0)).getD v)
      if on && m.predAddr != 0 then t.nodeRead m test else test t on)

/-- SIGNAL_NODE (R104): arguments `a` node, `b` slot. -/
def execSignalNode (s : State) : Host.Outcome State Fault Refusal :=
  match s.ccNode 6 with
  | none => .next s
  | some n => .next (s.takeUp n fun m t => (t.stokerRaise m.tl m.tlVal).setNode (m.ran .live))

/-- A node that waits for its timeline completes once it is reached (R104). -/
def State.tlReached (s : State) (n : ArmNode) : State :=
  if (s.timeline n.tl).toNat < n.tlVal.toNat then s
  else (s.note stokerAgent 0 0 (objTl n.tl) false none (some 4)).setNode (n.ran .live)

/-- WAIT_NODE (R104): arguments `a` node, `b` slot. -/
def execWaitNode (s : State) : Host.Outcome State Fault Refusal :=
  match s.ccNode 7 with
  | none => .next s
  | some n => .next (s.takeUp n fun m t => t.tlReached m)

/-- HOSTCALL_NODE (R104): arguments `a` node, `b` slot; its mailbox is stored once, then it waits for its timeline. -/
def execHostcallNode (s : State) : Host.Outcome State Fault Refusal :=
  match s.ccNode 8 with
  | none => .next s
  | some n =>
    .next (s.takeUp n fun m t =>
      if m.stored then t.tlReached m
      else
        match State.ctl m.ctx stokerAgent (stokerSite m.slot m.seq m.addr)
            (ctlWrite m.param (leBytes 4 m.nodeId.toNat ++ leBytes 4 m.launches.toNat)) 4 t with
        | .ok u _ => let x := { m with stored := true }; (u.setNode x).tlReached x
        | .fault u c => u.failNode m c
        | .wait u p => u.setNode { m with fault := p })

/-! ### Pre-loading (R117) -/

/-- Up to `n` lines from an address on fetched into a cluster's cache, until one does not translate; of host memory only
those the device holds already, since R117 asks for no more (DESIGN CHOICE, log entry 47). -/
def State.preloadLines (s : State) (cluster ctx : Nat) : Nat → DWord → State × Bool
  | 0, _ => (s, true)
  | n + 1, va => match s.quietLine (engMmu (8 * cluster) ctx false) true 0 va with
    | none => (s, false)
    | some (.host link, line) =>
      (if s.holdsHost link line then s.cacheRead cluster (hostKey link line) 0 else s).preloadLines cluster ctx n (va + 128)
    | some (_, line) => (s.cacheRead cluster line 0).preloadLines cluster ctx n (va + 128)

/-- The segments of a node's pre-load: address and bytes of at most 64 KiB of an in or inout operand each (R63, R117). -/
def ArmNode.preloads (n : ArmNode) : List (DWord × Nat) :=
  let ops := ((List.range 8).map n.operand).filter fun o => o.2.2 == 1 || o.2.2 == 3
  (ops.map fun o => (List.range ((o.2.1 + 65535) / 65536)).map fun i =>
    (o.1 + BitVec.ofNat 64 (65536 * i), min 65536 (o.2.1 - 65536 * i))).flatten

/-- Whether damper admission lets a segment of a pre-load in at the preferred cluster's Splitter (R64, R117). -/
def State.preloadAdmits (s : State) (n : ArmNode) (va : DWord) (bytes : Nat) : Bool :=
  let touch := ((pagePieces va bytes).map fun x => s.pageTouch (n.pref / 6) (engMmu (8 * n.pref) n.ctx false) x.1 x.2).flatten
  s.admits (touches touch (clusterIsland n.pref)) (256 + (bytes + 31) / 32) true && !s.islandDown (clusterIsland n.pref)

/-- NODE_PRELOAD (R64, R117): arguments `a` node, `b` slot; the next segment of its pre-load, from its becoming READY on.  DESIGN CHOICE: R116
gives KERNEL and COPY nodes alone a preferred cluster, so PRELOAD on a node of another kind pre-loads nothing (log entry 47). -/
def execNodePreload (s : State) : Host.Outcome State Fault Refusal :=
  match s.argNode with
  | none => .next s
  | some n =>
    if !n.preload ∨ 2 < n.kind ∨ n.executed ∨ (n.state ≠ 2 ∧ n.state ≠ 3) then .next s
    else match n.preloads[n.preloaded]? with
      | none => .next s
      | some (va, bytes) =>
        if !s.preloadAdmits n va bytes then .next s
        else
          let (t, went) := s.preloadLines n.pref n.ctx ((va.toNat % 128 + bytes + 127) / 128) (va >>> 7 <<< 7)
          .next (t.setNode { n with preloaded := if went then n.preloaded + 1 else n.preloads.length })

/-! ### Take-over (R120, R121) -/

/-- The last record of a slot in the journal, from the record before `i` back: its type and SEQ (R76). -/
def State.lastRecord (s : State) (slot : Nat) : Nat → Nat → Option (Nat × Word)
  | 0, _ => none
  | fuel + 1, i =>
    let at' := s.host.jrnBase.toNat + 32 * ((i - 1) % s.jrnRing)
    match s.homeOf at' with
    | .error _ => none
    | .ok a =>
      let w : DWord := BitVec.ofNat 64 (leNat (s.peek a 8))
      let type := (fld w 0 8 : BitVec 8).toNat
      if 1 ≤ type ∧ type ≤ 4 ∧ (fld w 8 8 : BitVec 8).toNat = slot then some (type, fld w 32 32)
      else s.lastRecord slot fuel (i - 1)

/-- Step 1 of a take-over for one slot (R120): a record of its HEAD that already stands moves HEAD on, and an ACCEPT's command is
dispatched from its entry; nothing where the entry cannot be read yet. -/
def State.repairSlot (s : State) (n : Nat) : Option State :=
  let q := s.slot n
  match s.lastRecord n s.jrnRing (s.host.jrnHead.toNat + s.jrnRing) with
  | some (type, seq) =>
    if seq ≠ q.head ∨ (type ≠ 1 ∧ type ≠ 4) then some s
    else if type = 4 then some (s.advance n)
    else match s.readEntry q with
      | .bytes t bs => some ((t.advance n).addCmd n q.ctx.toNat bs)
      | .unreadable t => some (t.advance n)
      | .later => none
  | none => some s

/-- Step 1 for every enabled slot. -/
def State.repairSlots (s : State) : Option State :=
  s.host.slots.foldl (fun t p => if p.2.en then t.bind fun x => x.repairSlot p.1 else t) (some s)

/-- A RUNGRAPH of whose armed set no node has become READY dispatched again: it is armed whole once more (R99, R120). -/
def State.rearmGraphs (s : State) : State :=
  let fresh (h : HCmd) : Bool := h.opc == 1 && h.stage == .dispatched &&
    s.stoker.nodes.all fun n => !(n.slot == h.slot && n.seq == h.seq) || decide (n.state ≤ 1)
  let hs := s.host.cmds.filter fresh
  { s with
    host := { s.host with cmds := s.host.cmds.map fun h => if fresh h then { h with stage := .accepted } else h }
    stoker := { s.stoker with nodes := s.stoker.nodes.filter fun n => !hs.any fun h => h.slot == n.slot && h.seq == n.seq } }

/-- Steps 1 to 5 of a take-over (R120).  The tables of step 2 are the ones that State holds, which the failed core does not take with
it. -/
def State.takenOver (s : State) : State :=
  match s.repairSlots with
  | none => s
  | some t =>
    let u := t.rearmGraphs
    let v : State := { u with
      host := { u.host with slots := u.host.slots.map fun p => (p.1, { p.2 with kick := p.2.kick || p.2.en }) } }
    let w := v.jrnHeads.jrnRaw 6 0 0 0 0 0
    { w with stoker := { w.stoker with forwarding := true } }

/-- CONTROL_CORE_TAKEOVER (R120, R121).  An error in the active control core's memory stops forwarding and intake and makes the
standby active: with `flag`, argument `a` names the slot whose entry's record it had just written (`img` and `flag2` for a read over the
link), its HEAD not yet moved.  With argument `b` = 1 the new core performs its steps, and forwarding and intake go on.  An error without
a standby resets the package with FIRMWARE_FAULT. -/
def execControlCoreTakeover (s : State) : Host.Outcome State Fault Refusal :=
  if s.dev.stage = 0 ∨ 5 ≤ s.dev.stage.toNat then .next s
  else if s.arg.b = 1 then (if s.stoker.forwarding then .next s else .next s.takenOver)
  else if !s.dev.standby then .next s.fatal
  else
    let q := s.slot s.arg.a
    let s1 := if !s.arg.flag || decide (256 ≤ s.arg.a) || !s.serves q then s
      else match ({ s with arg := { s.arg with flag := s.arg.flag2 } } : State).readEntry q with
        | .bytes t bs => if (qEntry bs).seq = q.head then ({ t with arg := s.arg } : State).entryRecord s.arg.a q bs else s
        | _ => s
    .next { s1 with
      dev := { s1.dev with activeCore := 1 - s1.dev.activeCore, standby := false }
      stoker := { s1.stoker with forwarding := false } }

end Sys2Proof.Machine
end

