-- ==== Sys2Proof/Machine/Place.lean ====
section
/-! DEFINITION. Dispatch and placement (R108 to R113, R116, R118): which node each dispatcher serves, whether a cluster can
admit its next gang, and what an admission takes. -/

namespace Sys2Proof.Machine

/-! ### Which nodes are ready (R108) -/

/-- The ready nodes of a kind with something still to place, among those the ready pool holds (R95). -/
def State.readyNodes (s : State) (kind : Nat) : List ArmNode :=
  ((s.stoker.ready.take 8192).filterMap fun p =>
      s.stoker.nodes.find? fun n => n.slot == p.1 && n.seq == p.2.1 && n.addr == p.2.2).filter fun n =>
    n.kind == kind && !n.held && n.failed.isNone && (n.state == 2 || n.state == 3) && decide (n.placed < n.gangs)

/-- Whether a dispatcher may dispatch now (R57, R108, R138, R144). -/
def State.dispatchOpen (s : State) (d : Dispatcher) : Bool :=
  decide (d.nextAt ≤ s.tick) && !s.islandDown stokerIsland && !s.recd.ckBusy && !s.recd.halted && (s.dev.stage == 3 || s.dev.stage == 4)

/-! ### Whose turn it is (R109, R110) -/

/-- Key of a context's pass count at a level. -/
def passKey (level c : Nat) : Nat := level * 64 + c

/-- Whether a node is older in a context's order (R109): by the tick it became READY, then slot, SEQ and NODEID. -/
def ArmNode.older (a b : ArmNode) : Bool :=
  if a.readyAt ≠ b.readyAt then decide (a.readyAt < b.readyAt)
  else if a.slot ≠ b.slot then decide (a.slot < b.slot)
  else if a.seq ≠ b.seq then decide (a.seq.toNat < b.seq.toNat)
  else decide (a.nodeId.toNat < b.nodeId.toNat)

/-- The oldest of some dispatchable nodes. -/
def oldest {α : Type} (l : List (ArmNode × α)) : Option (ArmNode × α) :=
  l.foldl (fun best x => match best with
    | some y => if x.1.older y.1 then some x else best
    | none => some x) none

/-- The context a dispatch at a level goes to, among those with a dispatchable node, and the cursor and weight used after
it: the lowest one passed over 64 times, else the cursor's while its weight lasts, else the next in turn (R109, R110). -/
def Dispatcher.winner (d : Dispatcher) (level : Nat) (weight : Nat → Nat) (ctxs : List Nat) : Nat × Dispatcher :=
  let cur := ngetD d.cursor level 0
  let used := ngetD d.used level 0
  match (List.range 64).find? fun c => ctxs.contains c && decide (64 ≤ ngetD d.passes (passKey level c) 0) with
  | some c => (c, d)
  | none =>
    if ctxs.contains cur ∧ used < weight cur then (cur, { d with used := nput level (used + 1) d.used })
    else
      let c := (((List.range 64).map fun i => (cur + 1 + i) % 64).find? ctxs.contains).getD cur
      (c, { d with cursor := nput level c d.cursor, used := nput level 1 d.used })

/-- One dispatch chosen among the dispatchable nodes, and the dispatcher after it: the highest level, the context whose turn
it is there, its oldest node; the others of the level have been passed over once more (R109, R110). -/
def State.choose {α : Type} (s : State) (d : Dispatcher) (able : List (ArmNode × α)) : Option (ArmNode × α × Dispatcher) :=
  let level := (able.map fun x => (s.ctx x.1.ctx).prio.toNat).foldl max 0
  let mine := able.filter fun x => (s.ctx x.1.ctx).prio.toNat == level
  let ctxs := (mine.map fun x => x.1.ctx).eraseDups
  let weight (c : Nat) : Nat := max 1 (s.ctx c).weight.toNat
  let (c, d1) := d.winner level weight ctxs
  let passes := ctxs.foldl
    (fun m k => if k = c then nput (passKey level k) 0 m else nmod (passKey level k) 0 (· + 1) m) d1.passes
  (oldest (mine.filter fun x => x.1.ctx == c)).map fun x => (x.1, x.2, { d1 with passes := passes, nextAt := s.tick + 8 })

/-! ### What a cluster can give (R112, R113) -/

/-- What an admission takes: the cluster, its cores in rank order, each block's scratchpad banks with the line its share starts at, the
banks to switch, and each block's access context. -/
structure Spot where
  cluster : Nat
  cores : List Nat
  banks : List (List (Nat × Nat))
  switch : List Nat
  accs : List (Option Nat)

/-- The lowest-numbered free block context of a core.  DESIGN CHOICE: R112 does not say which free one a block takes (log entry 47). -/
def State.freeCtx (s : State) (core : Nat) : Option Nat := (List.range 16).find? fun i => (s.blk? core i).isNone

/-- The tile-table entries of a core that no block holds.  DESIGN CHOICE: a block takes the lowest of them, which R112 leaves open (log
entry 47). -/
def State.freeTiles (s : State) (core : Nat) : List Nat :=
  let used := ((s.blks.filter fun p => p.1 / 16 == core).map fun p => p.2.tileRefs).flatten
  (List.range 64).filter fun i => !used.contains i

/-- The access contexts of a cluster in use. -/
def State.usedAcc (s : State) (cluster : Nat) : List Nat :=
  (s.blks.filter fun p => p.1 / 128 == cluster).filterMap fun p => p.2.accCtx

/-- The access context taken next: from the Splitter with more free ones, Splitter 0 on a tie (R112). -/
def takeAcc (used : List Nat) : Option Nat :=
  let n0 := (used.filter (· < 8)).length
  let sp := if n0 ≤ used.length - n0 then 0 else 1
  ((List.range 8).map fun i => 8 * sp + i).find? fun k => !used.contains k

/-- The access contexts of `n` blocks in turn. -/
def takeAccs : Nat → List Nat → Option (List Nat)
  | 0, _ => some []
  | n + 1, used => match takeAcc used with
    | none => none
    | some k => (takeAccs n (k :: used)).map (k :: ·)

/-- The bank lists of a gang's scratchpad and the cache banks to switch for it (R51, R113, R193): the fewest switches with which the
banks in scratchpad mode hold every block's shares (log entry 33). -/
def State.spadPlan (s : State) (cluster : Nat) (n : ArmNode) : Option (List (List (Nat × Nat)) × List Nat) :=
  let bank (i : Nat) : Bank := s.bank (bankKey cluster i)
  let mode (i : Nat) : BankMode := match (bank i).change with
    | some (m, _) => m
    | none => (bank i).mode
  let fifo := ((List.range 32).filter fun i => mode i == .fifo || (bank i).mode == .fifo).length
  if n.spadB = 0 then some (List.replicate n.bpg [], [])
  else if 30 - fifo < (n.bpg * n.spadB + 1048575) / 1048576 then none
  else
    let sound (i : Nat) : Bool := !s.mem.fencedBanks.contains (bankKey cluster i)
    let now := (List.range 32).filter fun i => (bank i).mode == .spad && (bank i).change.isNone && sound i
    let spare := (s.cacheBanks cluster).filter sound
    let most := min spare.length ((s.cacheBanks cluster).length - 2)
    let list (k : Nat) : List Nat := (List.range 32).filter fun i => now.contains i || (spare.take k).contains i
    (List.range (most + 1)).findSome? fun k =>
      (spadLists (n.spadB / 128) (list k) n.bpg (s.bankTaken cluster)).map fun l =>
        (l, (spare.take k).filter fun i => l.any fun x => x.any fun p => p.1 == i)

/-- Whether a core can give a block of a node its context and tile entries (R112). -/
def State.coreFits (s : State) (n : ArmNode) (core : Nat) : Bool :=
  (s.freeCtx core).isSome && decide (n.tiles ≤ (s.freeTiles core).length)

/-- What a cluster can give the next gang of a node, on the cores that `pick` takes of those able (R112, R113). -/
def State.clusterSpot (s : State) (n : ArmNode) (pick : List Nat → List Nat) (cluster : Nat) : Option Spot :=
  let cores := pick ((s.coresOf cluster).filter (s.coreFits n))
  let accs := if n.w 5 = 0 then some (List.replicate n.bpg none)
    else (takeAccs n.bpg (s.usedAcc cluster)).map fun l => l.map some
  if cores.length ≠ n.bpg then none
  else match accs, s.spadPlan cluster n with
    | some a, some (banks, switch) => some { cluster := cluster, cores := cores, banks := banks, switch := switch, accs := a }
    | _, _ => none

/-- Which cores of those able a gang takes is open: a rotation of them chooses, and ranks go up with core numbers (R112). -/
def State.pickCores (s : State) (n : ArmNode) (able : List Nat) : List Nat :=
  let k := Config.choice s.fresh % max 1 able.length
  let got := (able.drop k ++ able.take k).take n.bpg
  able.filter got.contains

/-- The clusters in the order a node tries them (R116). -/
def ArmNode.clusters (n : ArmNode) : List Nat := (List.range 24).map fun i => (n.pref + i) % 24

/-- Where the next gang of a KERNEL node can be placed now (R112, R116). -/
def State.kernelSpot (s : State) (n : ArmNode) : Option Spot := n.clusters.findSome? (s.clusterSpot n (s.pickCores n))

/-- What a cluster can give a COPY node on one of some cores (R116). -/
def State.copyOn (s : State) (cores : List Nat) (used : List Nat) (cluster : Nat) : Option Spot :=
  match cores.find? fun c => (s.freeCtx c).isSome, takeAcc used with
  | some core, some k => some { cluster := cluster, cores := [core], banks := [], switch := [], accs := [some k] }
  | _, _ => none

/-- Where a COPY node can be placed now (R116). -/
def State.copySpot (s : State) (n : ArmNode) : Option Spot :=
  n.clusters.findSome? fun c => s.copyOn (s.coresOf c) (s.usedAcc c) c

/-! ### Placing (R112, R116, R118) -/

/-- What the node gives the block of a rank in its next gang (R118). -/
def ArmNode.info (n : ArmNode) (gangId rank : Nat) : NodeInfo :=
  let g := n.placed
  { slot := n.slot, seq := n.seq, ctx := n.ctx, node := n.addr, nodeId := n.nodeId, isCopy := n.kind == 2, gangId := gangId, g := g
    gx := BitVec.ofNat 32 (g % n.gangX), gy := BitVec.ofNat 32 (g / n.gangX), rank := rank
    gangX := BitVec.ofNat 32 n.gangX, gangY := BitVec.ofNat 32 n.gangY, bpg := n.bpg, wpb := n.wpb, poolRows := n.poolRows
    accRows := n.accRows, spadB := n.spadB, scaleB := n.scaleB, tiles := n.tiles, param := n.param, launches := n.launches - 1
    lanePc := n.bodyPtr, mtxPc := n.w 4, accPc := n.w 5 }

/-- The placement table after a gang of a node is placed on a cluster (R116); a COPY node places no gang. -/
def State.notePlace (s : State) (n : ArmNode) (cluster : Nat) : State :=
  if n.kind ≠ 1 then s else
  let outs := ((List.range 8).map n.operand).filter fun o => o.2.2 == 2 || o.2.2 == 3
  let add (l : List PlaceEntry) (o : DWord × Nat × Nat) : List PlaceEntry :=
    let e : PlaceEntry := { addr := o.1, bytes := o.2.1, cluster := cluster }
    (e :: l.filter fun x => !(x.addr == o.1 && x.bytes == o.2.1)).take 1024
  { s with stoker := { s.stoker with place := outs.foldl add s.stoker.place } }

/-- Banks that the Stoker switches to scratchpad mode (R113). -/
def State.switchBanks (s : State) (cluster : Nat) (l : List Nat) : State :=
  l.foldl (fun t i =>
    ((t.beginChange (bankKey cluster i) .spad none none).finishChange (bankKey cluster i)).modBank (bankKey cluster i) fun b =>
      { b with stoked := true }) s

/-- The blocks of a gang put in their contexts, rank by rank. -/
def State.putBlocks (s : State) (n : ArmNode) (sp : Spot) : State :=
  (List.range sp.cores.length).foldl
    (fun t r =>
      let core := sp.cores.getD r 0
      let b := Blk.start (s.nextId + r) (n.info s.stoker.nextGang r) (s.fresh + 1 + 64 * r) s.tick
        ((t.freeTiles core).take n.tiles) (sp.banks.getD r []) (1024 * (s.nextId + r)) (sp.accs.getD r none)
      t.setBlk core ((t.freeCtx core).getD 0) { b with stat := if n.kind = 2 then .resident else .admitted }) s

/-- The next gang of a node, or the program of a COPY node, admitted (R112, R116). -/
def State.placeGang (s : State) (n : ArmNode) (sp : Spot) : State :=
  let members := sp.cores.map fun c => (c, (s.freeCtx c).getD 0)
  let gang : Gang :=
    { id := s.stoker.nextGang, slot := n.slot, seq := n.seq, ctx := n.ctx, node := n.addr, index := n.placed, cluster := sp.cluster
      members := members, resident := n.kind == 2, since := s.tick, blockedAt := s.tick }
  let mask := sp.cores.foldl (fun m c => m + 2 ^ (c % 8)) 0
  let arg := if n.kind = 2 then ((sp.accs.getD 0 none).getD 0) / 8 else n.placed
  let s1 := ((s.switchBanks sp.cluster sp.switch).putBlocks n sp).notePlace n sp.cluster
  let m := { n with placed := n.placed + 1 }
  let out (p : Nat × Word × DWord) : Bool := p.1 == n.slot && p.2.1 == n.seq && p.2.2 == n.addr && m.placed == m.gangs
  let s2 : State := { s1 with
    nextId := s.nextId + sp.cores.length
    fresh := s.fresh + 1 + 64 * sp.cores.length
    stoker := { s1.stoker with
      gangs := s1.stoker.gangs ++ [gang]
      nextGang := s.stoker.nextGang + 1
      ready := s1.stoker.ready.filter fun p => !out p } }
  (s2.setNode m).decided (n.kind - 1) n arg sp.cluster mask 0 false

/-- A COLL node given to an engine (R116). -/
def State.placeColl (s : State) (n : ArmNode) (engine : Nat) : State :=
  let out (p : Nat × Word × DWord) : Bool := p.1 == n.slot && p.2.1 == n.seq && p.2.2 == n.addr
  let coll := Coll.start s.nextId engine n.ctx n.param none (some (n.slot, n.seq, n.addr)) s.tick
  let s1 : State := { s with
    nextId := s.nextId + 1
    colls := s.colls ++ [coll]
    stoker := { s.stoker with ready := s.stoker.ready.filter fun p => !out p } }
  (s1.setNode { n with placed := 1 }).decided 2 n engine 0 0 0 false

/-! ### Nodes that were READY at a checkpoint (R140) -/

/-- A node as its device-owned words leave it (R97). -/
def ArmNode.asOwned (n : ArmNode) (tick : Nat) (ws : List DWord) : ArmNode :=
  let w := ws.getD 1 0
  let st := (fld w 17 3).toNat
  { n with
    predLive := (fld w 0 16).toNat, liveIn := w.getLsbD 16, state := st, launches := fld w 32 32, readyAt := tick
    closed := decide (4 ≤ st) }

/-- Whether the device-owned words of a record name a command that has made it READY (R97, R101). -/
def ownedReady (slot : Nat) (seq : Word) (ws : List DWord) : Bool :=
  fld (ws.headD 0) 0 32 == seq && (fld (ws.headD 0) 32 8).toNat == slot && fld (ws.getD 1 0) 17 3 == 2

/-- The device-owned words of a record that a context maps, read without a fault of their own. -/
def State.ownedWords (s : State) (ctx : Nat) (a : DWord) : Option (List DWord) :=
  if !canonicalVa a || isWindow a || s.viaAts ctx a then none
  else match walk s 0 0 ctx a with
    | (t, .leaf l) => match t.placeOf ctx l (a + 0xF0) with
      | .ok (.mem, x) => some (dwordsOf 2 (t.peek x 16))
      | _ => none
    | _ => none

/-- The armed set of a command whose nodes were READY at the checkpoint that replay starts from, read from its records when the log's
next decision names it (R140, R142): the command, which the host does not give again, counts as dispatched. -/
def State.adopt (s : State) (p : Nat × DWord × DWord × DWord) : State :=
  let (slot, seq, ctx) := ((fld p.2.2.2 0 8).toNat, fld p.2.1 32 32, (fld p.2.2.2 8 6).toNat)
  let roots := s.recd.ready.filter fun a => (s.ownedWords ctx a).any (ownedReady slot seq)
  if roots.isEmpty || s.stoker.nodes.any fun n => n.slot == slot && n.seq == seq then s
  else
    let h : HCmd :=
      { slot := slot, seq := seq, ctx := ctx, opc := 1, a0 := 0, a1 := 0, a2 := 0, cookie := Config.freeDWord s.fresh 0
        stage := .dispatched, fail := none, inval := none, fault := none }
    match State.readNodes h (2 ^ 37) roots [] s with
    | .fails t _ | .waits t _ => t
    | .nodes t ns =>
      let bodies := bodiesOf (succIx ns) (entryIx ns)
      let armed := (ns.mapIdx (armOne ns bodies (edgesOf (succIx ns)))).map fun n =>
        n.asOwned s.tick ((t.ownedWords ctx n.addr).getD [])
      let t1 : State := { t with
        fresh := t.fresh + 1
        host := { t.host with cmds := t.host.cmds ++ [h] }
        recd := { t.recd with ready := t.recd.ready.filter fun a => !roots.contains a }
        stoker := { t.stoker with nodes := t.stoker.nodes ++ armed } }
      roots.foldl (fun u a => { u with stoker := { u.stoker with ready := u.stoker.ready ++ [(slot, seq, a)] } }) t1

/-! ### The dispatchers -/

/-- One dispatch: the live choice, or in replay the decision that comes next in DSEQ order (R109, R142).  `forced` answers none
where the recorded decision can never be made, and `some none` where it cannot be made yet. -/
def State.dispatch {α : Type} (s : State) (kind : Nat) (d : Dispatcher) (keep : Dispatcher → Stoker → Stoker)
    (spot : ArmNode → Option α) (forced : ArmNode → DWord → Option (Option α)) (place : ArmNode → α → State → State) : State :=
  if !s.dispatchOpen d then s
  else if s.replaying then
    match s.recd.places.head? with
    | none => s
    | some p => match (s.readyNodes kind).find? fun n => isPlace (kind - 1) n p with
      | none => s.adopt p
      | some n => match forced n p.2.2.1 with
        | none => s.diverge stokerAgent 5 (s.agent stokerAgent).ops
        | some none => s
        | some (some x) =>
          ({ s with stoker := keep { d with nextAt := s.tick + 8 } s.stoker } : State).takeUp n fun m t => place m x t
  else
    match s.choose d ((s.readyNodes kind).filterMap fun n => (spot n).map fun x => (n, x)) with
    | none => s
    | some (n, x, d1) =>
      ({ s with stoker := keep d1 s.stoker } : State).takeUp n fun m t => place m x t

/-- The cluster and cores of a PLACE record (R136). -/
def placedOn (arg : DWord) : Nat × List Nat :=
  let cluster := (fld arg 32 5).toNat
  (cluster, ((List.range 8).filter fun i => arg.getLsbD (40 + i)).map fun i => cluster * 8 + i)

/-- A recorded placement of a gang (R142, R143). -/
def State.forcedGang (s : State) (n : ArmNode) (arg : DWord) : Option (Option Spot) :=
  let (cluster, cores) := placedOn arg
  if (fld arg 0 32).toNat ≠ n.placed ∨ cores.length ≠ n.bpg ∨ !cores.all (s.coresOf cluster).contains then none
  else some (s.clusterSpot n (fun able => able.filter cores.contains) cluster)

/-- A recorded placement of a COPY node (R142, R143). -/
def State.forcedCopy (s : State) (arg : DWord) : Option (Option Spot) :=
  let (cluster, cores) := placedOn arg
  let other := 1 - (fld arg 0 32).toNat
  if 2 ≤ (fld arg 0 32).toNat ∨ cores.length ≠ 1 ∨ !cores.all (s.coresOf cluster).contains then none
  else
    let mine := (s.usedAcc cluster).filter fun k => k / 8 != other
    some (s.copyOn cores (mine ++ (List.range 8).map fun i => 8 * other + i) cluster)

/-- GANG_DISPATCH (R108 to R113, R116). -/
def execGangDispatch (s : State) : Host.Outcome State Fault Refusal :=
  let s1 := s.banksBack
  .next (s1.dispatch 1 s1.stoker.kern (fun d k => { k with kern := d }) s1.kernelSpot s1.forcedGang
    fun n sp t => t.placeGang n sp)

/-- COPY_NODE_DISPATCH (R116, R118): the program starts at once. -/
def execCopyNodeDispatch (s : State) : Host.Outcome State Fault Refusal :=
  .next (s.dispatch 2 s.stoker.copy (fun d k => { k with copy := d }) s.copySpot (fun _ => s.forcedCopy) fun n sp t =>
    ({ t with mem := { t.mem with invCopies := [] } } : State).placeGang n sp)

/-- COLL_NODE_DISPATCH (R116). -/
def execCollNodeDispatch (s : State) : Host.Outcome State Fault Refusal :=
  let engines := if s.dev.hearth1Up then 8 else 4
  .next (s.dispatch 3 s.stoker.coll (fun d k => { k with coll := d }) (fun _ => some s.collEngine)
    (fun _ arg => let e := (fld arg 0 32).toNat; if e < engines then some (some e) else none) fun n e t => t.placeColl n e)

end Sys2Proof.Machine
end

