-- ==== Sys2Proof/Machine/Resident.lean ====
section
/-! DEFINITION. Residency, parking and restoring (R114, R115, R165, R286 to R294), and the watchdog's count (R68). -/

namespace Sys2Proof.Machine

/-! ### Waiting at a blocking point (R164, R165) -/

/-- Whether a WAKEADDR or an eviction has woken a lane that waits in a WAITADDR of a party (R380). -/
def State.waitWoken (s : State) (core bctx w : Nat) : Bool :=
  s.reqs.any fun r => r.core == core && r.bctx == bctx && r.w == w && r.woken

/-- Whether a party would go on if it could issue: after every wait that has ended and every release, some lane is ready, or
a trap's turn has come (R163, R164, R278). -/
def Thr.stirs (s : State) (core bctx : Nat) (b : Blk) (w : Nat) (t : Thr) : Bool :=
  let u := t.settle s core bctx b
  (u.lanes.any Lane.ready) || (!t.inHandler && !t.trapQ.isEmpty) || s.waitWoken core bctx w


/-- Whether every fault that a block has joined has been answered (R283): its pages have no unanswered record, its front end's
test is over, and replay that has diverged has been ended. -/
def State.answered (s : State) (core : Nat) (b : Blk) : Bool :=
  let testing := s.mem.tests.any fun t => t.unit == 2 && (fld t.loc 0 5).toNat * 8 + (fld t.loc 5 3).toNat == core
  b.parkReason % 8 != 4 && b.thrs.all fun p => p.2.lanes.all fun l => match l.stat with
    | .blocked (.service (some pg)) => !s.xl.faults.any fun f => f.ctx == b.info.ctx && f.page == pg
    | .blocked (.service none) => (match l.trap with
      | .pending _ => true
      | _ => !testing)
    | _ => true

/-- Whether a block is parkable: each party has exited or waits with its wake condition false; a halted block counts as
waiting (R150, R165), and so does one made resident again at a service stop that has no answer (R115). -/
def State.parkable (s : State) (core bctx : Nat) (b : Blk) : Bool :=
  !b.info.isCopy && b.stat == .resident && !b.stepping
    && (if b.svc then decide (8 ≤ b.parkReason) && !s.answered core b
      else b.halted || b.thrs.all fun p => p.2.exited || !p.2.stirs s core bctx b p.1)

/-- Replies a block still waits for; lanes enrolled in a WAITADDR queue are none, but one that has been woken is (R293).  A table's fill
goes on while its block is parked (R360). -/
def State.owed (s : State) (b : Blk) : Bool :=
  s.reqs.any fun r => r.adm == b.adm && r.dst.isReg && !(r.kind == .waitaddr && r.stage == .waiting && r.got.isEmpty)

/-! ### Gangs -/

/-- A gang's blocks that have not been released. -/
def State.gangBlks (s : State) (g : Gang) : List (Nat × Nat × Blk) :=
  g.members.filterMap fun m => (s.blk? m.1 m.2).map fun b => (m.1, m.2, b)

/-- A gang's priority level (R108). -/
def State.gangPrio (s : State) (g : Gang) : Nat := (s.ctx g.ctx).prio.toNat

/-- Whether a gang has been admitted and not yet been resident. -/
def State.newGang (s : State) (g : Gang) : Bool := (s.gangBlks g).all fun m => m.2.2.stat == .admitted

/-- Whether a gang is wakeable (R115): every member is parked, and the wake condition of one holds or its faults have been
answered. -/
def State.wakeable (s : State) (g : Gang) : Bool :=
  let ms := s.gangBlks g
  let wakes (m : Nat × Nat × Blk) : Bool :=
    if m.2.2.svc then s.answered m.1 m.2.2
    else (!m.2.2.halted || m.2.2.stepping) && m.2.2.thrs.any fun p => !p.2.exited && p.2.stirs s m.1 m.2.1 m.2.2 p.1
  ms.all (fun m => m.2.2.stat == .parked) && ms.any wakes

/-- Whether a gang competes for residency (R115). -/
def State.wantsIn (s : State) (g : Gang) : Bool := !g.resident && (s.newGang g || s.wakeable g)

/-- Whether a resident gang is parkable (R114). -/
def State.gangParkable (s : State) (g : Gang) : Bool :=
  g.resident && (s.gangBlks g).all fun m => s.parkable m.1 m.2.1 m.2.2

/-- Whether a gang is on its way to being parked as a whole. -/
def State.gangParking (s : State) (g : Gang) : Bool :=
  g.resident && (s.gangBlks g).all fun m => match m.2.2.stat with
    | .parking _ | .parked => true
    | _ => false

/-- A gang replaced. -/
def State.setGang (s : State) (g : Gang) : State :=
  { s with stoker := { s.stoker with gangs := s.stoker.gangs.map fun x => if x.id = g.id then g else x } }

/-- The node of a gang. -/
def State.gangNode (s : State) (g : Gang) : Option ArmNode :=
  s.stoker.nodes.find? fun n => n.slot == g.slot && n.seq == g.seq && n.addr == g.node

/-- The cores of a gang's blocks within their cluster, as a mask. -/
def Gang.mask (g : Gang) : Nat := g.members.foldl (fun m p => m + 2 ^ (p.1 % 8)) 0

/-- Whether a decision on a gang may be made now (R142). -/
def State.gangMay (s : State) (event : Nat) (g : Gang) : Bool :=
  match s.gangNode g with
  | none => false
  | some n => s.mayDecide event n && (!s.replaying || event == 5 || s.forcedArg == some g.index)

/-- A decision on a gang made: recorded, or taken off the log (R136, R142). -/
def State.gangDecided (s : State) (event : Nat) (g : Gang) (arg core : Nat) (faulted : Bool) : State :=
  match s.gangNode g with
  | none => s
  | some n => s.decided event n arg g.cluster g.mask core faulted

/-! ### What a block takes from its core (R114) -/

/-- Warp slots of a block on scheduler `k`. -/
def NodeInfo.slotsOn (i : NodeInfo) (k : Nat) : Nat := ((List.range i.wpb).filter fun w => w % 4 == k).length

/-- Whether a core can hold a list of blocks: warp slots by scheduler, pool rows, scale memory. -/
def coreHolds (l : List NodeInfo) : Bool :=
  let sum (f : NodeInfo → Nat) : Nat := (l.map f).foldl (· + ·) 0
  ((List.range 4).all fun k => decide (sum (fun i => i.slotsOn k) ≤ 16)) && decide (sum (fun i => i.wpb * i.sliceRows) ≤ 24576)
    && decide (sum (fun i => i.scaleB) ≤ 131072)

/-- Whether a gang would fit on the cores of its members if some resident gangs held nothing (R114). -/
def State.gangFits (s : State) (g : Gang) (freed : List Nat) : Bool :=
  let holds (b : Blk) : Bool := !b.info.isCopy
    && s.stoker.gangs.any fun x => x.id == b.info.gangId && x.resident && !freed.contains x.id
  (s.gangBlks g).all fun m =>
    coreHolds (m.2.2.info :: ((s.blks.filter fun p => p.1 / 16 == m.1 && holds p.2).map fun p => p.2.info))

/-! ### Parking (R114, R286) -/

/-- A gang told to park: its running members stop, at once where they stand at a blocking point. -/
def State.parkGang (s : State) (g : Gang) : State :=
  (s.gangBlks g).foldl
    (fun t m =>
      if m.2.2.stat = .resident then
        let b := { m.2.2 with stat := .parking (if m.2.2.halted then 3 else 0) }
        t.setBlk m.1 m.2.1 b
      else t) s

/-- The candidates to be parked for a waiting gang, in the order they are parked (R114).  DESIGN CHOICE: of two with equal priority
that blocked at the same tick, the one with the lower gang number comes first (log entry 41). -/
def State.candidates (s : State) (g : Gang) : List Gang :=
  let cores := g.members.map fun m => m.1
  let mine := s.stoker.gangs.filter fun x =>
    x.cluster == g.cluster && s.gangParkable x && decide (s.gangPrio x ≤ s.gangPrio g) && x.members.any fun m => cores.contains m.1
  let before (a b : Gang) : Bool :=
    if s.gangPrio a ≠ s.gangPrio b then decide (s.gangPrio a < s.gangPrio b)
    else if a.blockedAt ≠ b.blockedAt then decide (a.blockedAt < b.blockedAt) else decide (a.id < b.id)
  mine.mergeSort before

/-- Room made for a waiting gang: the fewest candidates of the order that suffice are told to park, or none. -/
def State.makeRoom (s : State) (g : Gang) : State :=
  let going := (s.stoker.gangs.filter s.gangParking).map fun x => x.id
  let cs := s.candidates g
  if s.gangFits g going then s
  else match (List.range (cs.length + 1)).find? fun k => s.gangFits g (going ++ (cs.take k).map fun x => x.id) with
    | none => s
    | some k => (cs.take k).foldl (fun t x => t.parkGang x) s

/-- Whether a block's park follows a service fault (R136): one that is back at its stop has parked for it before (R115). -/
def Blk.faultPark (b : Blk) : Bool := b.svc && decide (b.parkReason < 8)

/-- Why a block parks now, if it does: told to, a service fault, a fenced core or bank, or another member that has parked after one
(R51, R114, R283). -/
def State.parkWhy (s : State) (core bctx : Nat) (b : Blk) : Option Nat :=
  if b.info.isCopy then none
  else match b.stat with
    | .parking r => some r
    | .resident =>
      let joined := s.stoker.gangs.any fun g => g.id == b.info.gangId && (s.gangBlks g).any fun m => m.2.2.stat == .parked
      if b.faultPark then some 1
      else if !s.parkable core bctx b then none
      else if s.onFenced core b then some 2
      else if joined then some (if b.halted then 3 else 0)
      else none
    | _ => none

/-- Whether what R286 asks for before the image has happened; a push that waits at its bank goes on waiting (R198). -/
def State.drained (s : State) (b : Blk) : Bool :=
  !(s.sfu.any fun r => r.adm == b.adm) && !(s.mcmds.any fun k => k.adm == b.adm)
    && !(s.rels.any fun k => k.adm == b.adm && decide (k.w ≤ 32))
    && !(s.reqs.any fun r => r.adm == b.adm && r.dst == Dst.none && r.kind != .load && decide (r.w ≤ 32)
      && !(r.kind == .store && r.stage == .waiting && (match r.home with
        | .fifo _ _ => true
        | _ => false)))

/-- A gang whose last member has parked gives up its residency (R114, R136). -/
def State.gangParked (s : State) (g : Gang) : State :=
  let faulted := (s.gangBlks g).any fun m => m.2.2.faultPark
  ((s.setGang { g with resident := false, since := s.tick }).gangDecided 6 g g.index 0 faulted)

/-- Whether the park of a gang's last member agrees with the log (R142): its record is next, or no record names it. -/
def State.parkAgrees (s : State) (g : Gang) (faulted : Bool) : Bool :=
  !s.replaying || (s.recd.places.head?).any fun p => fld p.2.2.2 16 1 == BitVec.ofNat 1 faulted.toNat && s.gangMay 6 g

/-- The gangs whose last running member has exited beside parked ones give up their residency as when a last member parks (R114). -/
def State.gangsParked (s : State) : State :=
  s.stoker.gangs.foldl
    (fun s g =>
      let ms := s.gangBlks g
      if g.resident && !ms.isEmpty && ms.length == g.members.length && ms.all (fun m => m.2.2.stat == .parked) && !s.recd.halted
          && s.parkAgrees g (ms.any fun m => m.2.2.faultPark) then s.gangParked g
      else s) s

/-- BLOCK_PARK_COMPLETE (R114, R286 to R292): arguments `a` core, `b` block context. -/
def execBlockParkComplete (s : State) : Host.Outcome State Fault Refusal :=
  match s.blk? s.arg.a s.arg.b with
  | none => .next s
  | some b => match s.parkWhy s.arg.a s.arg.b b, s.stoker.gangs.find? fun g => g.id == b.info.gangId with
    | some reason, some g =>
      let others := (s.gangBlks g).filter fun m => (m.1, m.2.1) != (s.arg.a, s.arg.b)
      let last := others.all fun m => m.2.2.stat == .parked
      let faulted := b.faultPark || others.any fun m => m.2.2.faultPark
      let later := (s.gangNode g).any fun n => s.recd.places.any fun p => isPlace 6 n p && (fld p.2.2.1 0 32).toNat == g.index
      if !s.drained b then .next s
      else if last && !s.parkAgrees g faulted then
        .next (if later || s.recd.halted then s else s.diverge stokerAgent 5 (s.agent stokerAgent).ops)
      else
        let s0 := b.thrs.foldl (fun t p => t.flushTag s.arg.a s.arg.b p.1) s
        let b0 := (s0.blk? s.arg.a s.arg.b).getD b
        let b1 := { b0 with stat := .parked, wdog := 0, wdogAt := s.tick }
        let s1 := (s0.writeImage s.arg.a s.arg.b b0 reason).modBlk s.arg.a s.arg.b fun x => { b1 with imgSeed := x.imgSeed }
        .next (if last then s1.gangParked g else s1)
    | _, _ => .next s

/-! ### Moving a block context off a fenced core (R51, R115) -/

/-- Whatever is in flight for a block renamed to its new block context. -/
def State.renameBlk (s : State) (adm core bctx : Nat) (old : Nat × Nat) : State :=
  { s with
    reqs := s.reqs.map fun r => if r.adm = adm then { r with core := core, bctx := bctx } else r
    rels := s.rels.map fun r => if r.adm = adm then { r with core := core, bctx := bctx } else r
    cmds := s.cmds.map fun k => if k.adm = adm then { k with core := core, bctx := bctx } else k
    stoker := { s.stoker with gangs := s.stoker.gangs.map fun g => { g with
      members := g.members.map fun m => if m = old then (core, bctx) else m } } }

/-- A parked block moved to another block context of the cluster, its image with it (R115, R289), and the shares of its scratchpad that
lie in fenced banks to others (R51, log entry 43). -/
def State.moveBlk (s : State) (old : Nat × Nat) (b : Blk) (core bctx : Nat) : State :=
  let refs := (s.freeTiles core).take b.tileRefs.length
  let banks := (s.rebank (core / 8) b).getD []
  let from' := s.coreAt old.1
  let to' := s.coreAt core
  let held := from'.tiles.filter fun p => b.tileRefs.contains p.1
  let moved := (b.tileRefs.zip refs).foldl (fun m p => match nget from'.tiles p.1 with
    | some t => nput p.2 t m
    | none => m) to'.tiles
  let k1 := { from' with tiles := from'.tiles.filter fun p => !(held.any fun h => h.1 == p.1) }
  let k2 := { to' with tiles := moved }
  let s1 := ({ s with blks := ndel (blkKey old.1 old.2) s.blks } : State).setCore old.1 k1
  let s2 := (s1.setCore core k2).setBlk core bctx { b with
    tileRefs := refs
    parkReason := if b.parkReason % 8 = 4 then 4 else 2
    spadBanks := banks.map fun p => p.1
    spadAt := banks.map fun p => p.2 }
  let s3 := s2.put (imageBase core bctx) (s.peek (imageBase old.1 old.2) b.info.imgBytes)
  let s4 := (s3.put (imageBase core bctx + 6) (leBytes 2 2)).put (imageBase core bctx + 0x25) (leBytes 1 core ++ leBytes 1 bctx)
  let at' (x : Nat) : Nat :=
    match (b.tileRefs.zip refs).find? fun p => old.1 * 1024 + p.1 == x with
    | some p => core * 1024 + p.2
    | none => x
  let s5 : State := { s4 with cmds := s4.cmds.map fun k => { k with targets := k.targets.map at' } }
  (s5.put (imageBase core bctx + b.info.imgB + 0x930)
    ((List.range 64).map fun i => (refs[i]?).elim 0xFF (BitVec.ofNat 8))).renameBlk b.adm core bctx old

/-- The cores that a block of a gang can move to, where its scratchpad can leave the fenced banks (R51, R115). -/
def State.moveTargets (s : State) (g : Gang) (b : Blk) : List Nat :=
  if (s.rebank g.cluster b).isNone then [] else (s.coresOf g.cluster).filter fun c =>
    (s.freeCtx c).isSome && decide (b.tileRefs.length ≤ (s.freeTiles c).length) && !g.members.any fun m => m.1 == c

/-- One member of a gang moved off a fenced core: to any core that can take it, or in replay to the recorded one (R142). -/
def State.moveMember (s : State) (g : Gang) (m : Nat × Nat × Blk) : State :=
  let able := s.moveTargets g m.2.2
  let core := if s.replaying then (s.recd.places.head?).map fun p => (fld p.2.2.1 48 8).toNat
    else able[Config.choice s.fresh % max 1 able.length]?
  match core with
  | none => s
  | some c =>
    if !able.contains c then (if s.replaying then s.diverge stokerAgent 5 (s.agent stokerAgent).ops else s)
    else
      let bctx := (s.freeCtx c).getD 0
      let s1 := (s.moveBlk (m.1, m.2.1) m.2.2 c bctx).bump
      match s1.stoker.gangs.find? fun x => x.id == g.id with
      | some x => s1.gangDecided 5 x bctx c false
      | none => s1

/-! ### Residency (R114, R115) -/

/-- The gangs of a cluster that compete for residency, in their order (R115).  DESIGN CHOICE: of two with equal priority and equal
tick, the one with the lower gang number comes first (log entry 41). -/
def State.waiters (s : State) (cluster : Nat) : List Gang :=
  let before (a b : Gang) : Bool :=
    if s.gangPrio a ≠ s.gangPrio b then decide (s.gangPrio b < s.gangPrio a)
    else if a.since ≠ b.since then decide (a.since < b.since) else decide (a.id < b.id)
  (s.stoker.gangs.filter fun g => g.cluster == cluster && s.wantsIn g).mergeSort before

/-- A gang made resident: new blocks start, parked ones may be restored (R114, R118, R156). -/
def State.reside (s : State) (g : Gang) : State :=
  let fresh := s.newGang g
  let s1 := (s.gangBlks g).foldl
    (fun t m => t.setBlk m.1 m.2.1 (if fresh then { m.2.2 with stat := .resident, startAt := s.tick, wdogAt := s.tick }
      else { m.2.2 with stat := .restorable })) s
  let s2 := s1.setGang { g with resident := true, blockedAt := s.tick }
  if fresh then { s2 with mem := { s2.mem with invCopies := [] } } else s2.gangDecided 7 g g.index 0 false

/-- Whether a gang may go in as far as the rest of the machine is concerned: restores come one by one in recorded order, off
fenced cores and banks, and only with no reply owed (R51, R142, R293). -/
def State.mayGoIn (s : State) (g : Gang) : Bool :=
  s.newGang g || (!(s.gangBlks g).any (fun m => s.onFenced m.1 m.2.2) && s.gangMay 7 g && !(s.gangBlks g).any fun m => s.owed m.2.2)

/-- The first waiting gang that can go in, with those before it holding back the cores of their members (R115). -/
def State.nextIn (s : State) : List Nat → List Gang → Option Gang
  | _, [] => none
  | kept, g :: rest =>
    let cores := g.members.map fun m => m.1
    if cores.any kept.contains then s.nextIn (kept ++ cores) rest
    else if s.mayGoIn g && s.gangFits g [] then some g
    else s.nextIn (kept ++ cores) rest

/-- Room made for the waiting gangs in their order that are not held back and do not fit (R114, R115). -/
def State.nextOut (s : State) : List Nat → List Gang → State
  | _, [] => s
  | kept, g :: rest =>
    let cores := g.members.map fun m => m.1
    if cores.any kept.contains then s.nextOut (kept ++ cores) rest
    else if s.gangFits g [] || (!s.newGang g && (s.gangBlks g).any fun m => s.onFenced m.1 m.2.2) then s.nextOut (kept ++ cores) rest
    else (s.makeRoom g).nextOut (kept ++ cores) rest

/-- A recorded park that has not followed a fault, made when it comes next (R142). -/
def State.forcedPark (s : State) (cluster : Nat) : State :=
  match s.stoker.gangs.find? fun g => g.cluster == cluster && s.gangParkable g && s.gangMay 6 g && s.parkAgrees g false with
  | some g => s.parkGang g
  | none => s

/-- GANG_MAKE_RESIDENT (R114, R115): argument `a` names the cluster.  A wakeable gang leaves fenced cores first; then one gang
goes in, or room is made for those that wait. -/
def execGangMakeResident (s : State) : Host.Outcome State Fault Refusal :=
  let ws := s.waiters s.arg.a
  let moves := (ws.map fun g => ((s.gangBlks g).filter fun m =>
    m.2.2.stat == .parked && s.onFenced m.1 m.2.2 && s.gangMay 5 g && (s.replaying || !(s.moveTargets g m.2.2).isEmpty)).map
      fun m => (g, m)).flatten
  if s.recd.halted then .next s
  else match moves with
    | (g, m) :: _ => .next (s.moveMember g m)
    | [] => match s.nextIn [] ws with
      | some g => .next (s.reside g)
      | none => if s.replaying then .next (s.forcedPark s.arg.a) else .next (s.nextOut [] ws)

/-! ### Restoring (R283, R293, R294) -/

/-- A party of a restored block: lanes whose fault was answered execute again, a serviced trap waits for its turn. -/
def Thr.restored (t : Thr) : Thr :=
  { t with
    lanes := t.lanes.map fun l => match l.stat with
      | .blocked (.service _) => (match l.trap with
        | .pending _ => { l with stat := .blocked .trapTurn }
        | _ => { l with stat := .run })
      | _ => l
    trapQ := t.trapQ.map fun r => if r.cause.isService then { r with serviced := true } else r }

/-- What follows for each party (R283, R294): the next trap enters the handler, and a stream whose fault is to be delivered
ends. -/
def State.resumeParty (s : State) (core bctx w : Nat) : State :=
  if w < 32 then s.nextTrap core bctx w
  else match (s.thr? core bctx w).bind fun t => t.trapQ.head? with
    | none => s
    | some r =>
      (s.modThr core bctx w fun t => { t with trapQ := [] }).endStream core bctx w
        { cause := r.cause, origin := if w = 32 then 2 else 3, more := 0, serviced := true, pc := r.pc, addr := r.addr, lseq := r.lseq
          issuer := r.issuer }

/-- Enrolments of a block withdrawn and woken (R293, R380). -/
def State.wakeBlock (s : State) (b : Blk) : State :=
  (s.mem.enrols.filter fun e => s.reqs.any fun r => r.id == e.req && r.adm == b.adm).foldl (fun t e => t.wake e) s

/-- A block resumed in its context; one whose service fault has no answer is back at its stop (R115, log entry 43). -/
def State.resume (s : State) (core bctx : Nat) (b : Blk) : State :=
  let b1 := if s.answered core b then { b with
      stat := .resident, svc := false, parkReason := 0, wdog := 0, wdogAt := s.tick
      thrs := b.thrs.map fun p => (p.1, p.2.restored) }
    else { b with stat := .resident, wdog := 0, wdogAt := s.tick, parkReason := 8 + b.parkReason % 8 }
  let s1 := (s.setBlk core bctx b1).wakeBlock b
  let s2 := s1.phasers.foldl (fun t p => t.wakePhaser p.1 p.2.phase) s1
  if b1.svc then s2 else (b.thrs.map fun p => p.1).foldl (fun t w => t.resumeParty core bctx w) s2

/-- BLOCK_RESTORE (R289, R293, R294): arguments `a` core, `b` block context.  The program of a COPY node, which never parks
(R104), goes on where it stands once its faults are answered. -/
def execBlockRestore (s : State) : Host.Outcome State Fault Refusal :=
  match s.blk? s.arg.a s.arg.b with
  | none => .next s
  | some b =>
    let (core, bctx) := (s.arg.a, s.arg.b)
    if b.info.isCopy ∨ (b.stat = .resident ∧ b.svc ∧ 8 ≤ b.parkReason) then
      .next (if b.svc && s.answered core b then s.resume core bctx b else s)
    else if b.stat ≠ .restorable ∨ s.owed b ∨ s.recd.halted then .next s
    else if !s.imgMatches core bctx b.info then .next (s.kill b.info.ctx .contextKilled)
    else
      let b1 := s.imgBlk core bctx b
      .next (((s.imgScaleIn (core, bctx) core b1).resume core bctx b1).bump)

/-! ### Every tick (R68, R114, R115) -/

/-- Whether a gang of a level or higher waits on a cluster, for admission or for residency (R68). -/
def State.contended (s : State) (cluster level : Nat) : Bool :=
  (s.stoker.gangs.any fun g => g.cluster == cluster && decide (level ≤ s.gangPrio g) && s.wantsIn g)
    || (s.readyNodes 1).any fun n => decide (level ≤ (s.ctx n.ctx).prio.toNat) && (s.kernelSpot n).isNone

/-- A block's watchdog count at a tick (R68). -/
def State.watchTick (s : State) (core bctx : Nat) (b : Blk) : Blk :=
  if b.stat ≠ .resident ∨ b.halted then b
  else if s.parkable core bctx b then { b with wdog := 0, wdogAt := s.tick }
  else if s.contended (core / 8) (s.ctx b.info.ctx).prio.toNat then { b with wdog := b.wdog + 1, wdogAt := s.tick }
  else b

/-- The counts that move with every tick while gangs are placed: watchdogs, and since when each gang waits or is blocked. -/
def State.countTick (s : State) : State :=
  if s.stoker.gangs.isEmpty then s
  else { s with
    blks := s.blks.map fun p => (p.1, s.watchTick (p.1 / 16) (p.1 % 16) p.2)
    stoker := { s.stoker with gangs := s.stoker.gangs.map fun g => { g with
      since := if s.wantsIn g then g.since else s.tick
      blockedAt := if s.gangParkable g then g.blockedAt else s.tick } } }

end Sys2Proof.Machine
end

