-- ==== Sys2Proof/Machine/Debug.lean ====
section
/-! DEFINITION. A warp's turn as an event of its own (R178, R285) with the errors that the codes of a core find (R50, R283), the trace
(R145 to R147), and messages that replay takes from the log (R142). -/

namespace Sys2Proof.Machine

/-! ### A turn of a party (R178, R283, R285) -/

/-- IMEM_ERROR: the line of the next clause fails again when refetched (R283); the header it would report is a free value. -/
def State.imemError (s : State) (core bctx w : Nat) : State :=
  match s.blk? core bctx with
  | none => s
  | some b => match b.thr? w with
    | none => s
    | some t => match t.select (allowedLanes s b core bctx w) with
      | none => s
      | some m =>
        let l := t.lane (lowestLane m)
        if l.clause.isSome then s
        else (s.testCore core).bump.service (fetchCur core bctx w m l.pc (Config.freeWord s.fresh 0 w)) b t .imemError m m (l.pc &&& ~~~0x7F) fun _ => none

/-- ECC_POOL: the row that the next word reads is lost; on fresh rows the register holds undefined lanes (R283). -/
def State.eccPool (s : State) (core bctx w row : Nat) : State :=
  match s.latch core bctx w with
  | none => s
  | some (c, _) => match s.blk? core bctx with
    | none => s
    | some b => match b.thr? w with
      | none => s
      | some t =>
        if 32 ≤ w ∨ b.info.sliceRows ≤ row then s
        else
          let t1 := t.putRow row 0xFFFFFFFF fun l => Config.freeWord (s.fresh + 1) row l
          let b1 := b.setThr w t1
          (((s.setBlk core bctx b1).poolEcc core true).bump).service c b1 t1 .eccPool c.lanes c.lanes (BitVec.ofNat 64 row) fun _ => none

/-- Whether the next clause of a party is brought from a line of memory (R245): its header, or the line after, lies there, and the core's
instruction cache does not hold the line. -/
def State.bringsLine (s : State) (core bctx w line : Nat) : Bool :=
  match s.blk? core bctx with
  | none => false
  | some b => match b.thr? w with
    | none => false
    | some t => match t.select (allowedLanes s b core bctx w) with
      | none => false
      | some m =>
        let l := t.lane (lowestLane m)
        let mmu := (fetchCur core bctx w m l.pc 0).mmu b (t.privileged m)
        l.clause.isNone && !s.hasCode core line && [l.pc, l.pc + 128].any fun va => match s.quietLeaf mmu va with
          | some x => match s.homeOf (x.addr va) with
            | .ok a => lineOf a == line
            | .error _ => false
          | none => false

/-- CLAUSE_ISSUE (R39, R178): arguments `a` core, `b` block context, `c` party; `ecc` what the codes of its core find: an instruction line
that cannot be read, or the loss of the pool row `v`; or with `flag` what the codes of memory find in line `v`, which the next clause is
brought from. -/
def execClauseIssue (s : State) : Host.Outcome State Fault Refusal :=
  let (core, bctx, w) := (s.arg.a, s.arg.b, s.arg.c)
  let able : Bool := match s.blk? core bctx with
    | some b => canIssue s b && !s.issueHeld core w
    | none => false
  if !able then .next s
  else if s.arg.flag then
    .next ((if s.bringsLine core bctx w s.arg.v.toNat then s.homeEcc s.arg.v.toNat s.arg.ecc else s).enter core bctx w).1
  else match s.arg.ecc with
    | .uncorrectable => .next (s.imemError core bctx w)
    | .metaUncorrectable => .next (s.eccPool core bctx w s.arg.v.toNat)
    | .corrected | .metaCorrected =>
      .next (s.poolEcc core false)
    | .clean => .next (s.enter core bctx w).1

/-- ASYNC_TRAP_DELIVER (R285): arguments `a` core, `b` block context, `c` warp. -/
def execAsyncTrapDeliver (s : State) : Host.Outcome State Fault Refusal :=
  let (core, bctx, w) := (s.arg.a, s.arg.b, s.arg.c)
  match s.blk? core bctx with
  | some b => if canIssue s b then .next ((s.flushTag core bctx w).deliverAsync core bctx w) else .next s
  | none => .next s

/-! ### The trace (R145 to R147) -/

/-- Pages of the trace ring (R123). -/
def State.tracePages (s : State) : Nat :=
  2 ^ (if 8 ≤ s.trace.size.toNat ∧ s.trace.size.toNat ≤ 24 then s.trace.size.toNat else 8)

/-- A source's full trace pages written; a full ring drops them, and its islands write RESYNC next (R145). -/
def State.flushTrace (s : State) (source : Nat) : State :=
  match nget s.trace.pages source with
  | none => s
  | some p =>
    p.full.foldl
      (fun t page =>
        let n := t.tracePages
        if (t.trace.head.toNat + 1) % n = t.trace.tail.toNat % n then
          { t with trace := { t.trace with
              lost := if t.trace.lost = 0xFFFFFFFF then t.trace.lost else t.trace.lost + 1
              lastRec := t.trace.lastRec.filter fun q => traceSource q.1 != source } }
        else
          let t1 := t.pokePa (t.trace.base.toNat + 4096 * (t.trace.head.toNat % n)) page
          { t1 with trace := { t1.trace with head := BitVec.ofNat 32 ((t.trace.head.toNat + 1) % n) } })
      { s with trace := { s.trace with pages := nput source { p with full := [] } s.trace.pages } }

/-- Every source's full trace pages written. -/
def State.flushTraces (s : State) : State := (List.range 26).foldl (fun t k => t.flushTrace k) s

/-- Ticks of the current interval that slots in progress have held an island so far (R146). -/
def State.slotTicks (s : State) (island : Nat) : Nat :=
  ((s.cal.slots.filter fun r => r.running && (s.cal.cur.held (s.cal.cur.entries.getD r.entry 0)).contains island).map fun r =>
    s.tick - max (r.untilTick - 64 * entLen (s.cal.cur.entries.getD r.entry 0)) (s.tick - s.trace.every)).foldl (· + ·) 0

/-- An island's SERIES record (R145, R146).  BUSY, STALLIN and STALLOUT count ticks of the interval that the hardware's timing decides,
which this model does not have: each total is a free number of at most the ticks since the last latch (log entry 2). -/
def State.series (s : State) (island : Nat) : State :=
  let free (k : Nat) : Nat := (Config.freeWord s.fresh k island).toNat % (s.tick + 2 - s.trace.latchAt)
  s.traceRecord island 1
    [BitVec.ofNat 64 (s.tick / s.trace.every % 2 ^ 32), at64 0 (free 0) ||| at64 32 (free 1),
      at64 0 (free 2) ||| at64 32 (ngetD s.trace.slot island 0 + s.slotTicks island)]

/-- Whether a series is due at this tick (R146). -/
def State.latchDue (s : State) : Bool :=
  s.trace.en && s.tick % s.trace.every == 0 && decide (s.trace.latchAt ≤ s.tick)

/-- TRACE_SERIES_LATCH (R146). -/
def execTraceSeriesLatch (s : State) : Host.Outcome State Fault Refusal :=
  if !s.latchDue then .next s
  else
    let s1 := ((List.range 1280).filter fun k => s.pointOf k != 15).foldl (fun t k => t.series k) s
    .next (({ s1 with trace := { s1.trace with slot := [], latchAt := s.tick + 1 } } : State).flushTraces).bump

/-- Whether samples are due at this tick (R147). -/
def State.sampleDue (s : State) : Bool :=
  s.trace.en && s.trace.sampEn && s.tick % s.trace.sampleEvery == 0 && decide (s.trace.sampAt ≤ s.tick)

/-- A block's SAMPLE: its token holder, if it has a word to issue at this tick (R145, R147). -/
def State.sample (s : State) (core bctx : Nat) (b : Blk) : State :=
  match b.thr? b.tokenHolder with
  | none => s
  | some t0 =>
    let t := t0.settle s core bctx b
    match if canIssue s b && !s.issueHeld core b.tokenHolder then t.select (allowedLanes s b core bctx b.tokenHolder) else none with
    | none => s
    | some m =>
      s.traceRecord (partyIsland core b.tokenHolder) 4
        [(t.lane (lowestLane m)).pc,
          at64 0 t.lseq.toNat ||| at64 32 core ||| at64 40 bctx ||| at64 44 b.tokenHolder ||| at64 50 b.tokenEdge.toNat]

/-- CRITICAL_PATH_SAMPLE (R147). -/
def execCriticalPathSample (s : State) : Host.Outcome State Fault Refusal :=
  if !s.sampleDue then .next s
  else
    let s1 := s.blks.foldl (fun t p => t.sample (p.1 / 16) (p.1 % 16) p.2) s
    .next ({ s1 with trace := { s1.trace with sampAt := s.tick + 1 } } : State).flushTraces

/-! ### Messages taken from the log (R142, R143) -/

/-- The bytes at an offset of a list, as a number. -/
def numAt (d : List Byte) (off n : Nat) : Nat := leNat ((d.drop off).take n)

end Sys2Proof.Machine

namespace Sys2Proof

/-- An operation with the data of its PAYLOAD record in place of its own. -/
def PeerOp.withPayload (d : List Byte) : PeerOp → PeerOp
  | .store va _ => .store va d
  | .copyWrite va p _ => .copyWrite va p d
  | .answer x fail p => .answer (if x.isEmpty then [] else d) fail p
  | .contrib h w e r n _ => .contrib h w e r n (BitVec.ofNat 64 (Machine.numAt d 0 n))
  | .merged h w e k n _ f => .merged h w e k n (BitVec.ofNat 64 (Machine.numAt d 0 n)) f
  | .coll g q o p _ => .coll g q o p d
  | .atom a n va _ => .atom a n va (BitVec.ofNat 128 (Machine.numAt d 0 n))
  | .cas n va _ _ => .cas n va (BitVec.ofNat 128 (Machine.numAt d 0 n)) (BitVec.ofNat 128 (Machine.numAt d n n))
  | .load _ _ => .load (BitVec.ofNat 64 (Machine.numAt d 0 8)) (Machine.numAt d 8 4)
  | .copyRead _ _ => .copyRead (BitVec.ofNat 64 (Machine.numAt d 0 8)) (Machine.numAt d 8 4)
  | .stamp _ _ _ => .stamp (BitVec.ofNat 64 (Machine.numAt d 0 8)) (BitVec.ofNat 64 (Machine.numAt d 8 8))
      (BitVec.ofNat 64 (Machine.numAt d 16 8))

end Sys2Proof

namespace Sys2Proof.Machine

/-- A recorded message delivered at a port in place of a live one (R142): its record gives the data, and the event its header,
which the record does not keep; without a record replay has diverged (R143). -/
def State.deliverLogged (s : State) (port : Nat) (e : DWord) : State :=
  let agent := portAgent port
  match s.payloadOf agent (fld e 32 32).toNat (fld e 0 16).toNat with
  | none => s.diverge agent 6 (s.agent agent).ops
  | some d => match s.arg.msg with
    | none => s
    | some m0 =>
      let m := { m0 with op := m0.op.withPayload d }
      if m.entry (vcOf m.op) ≠ e then s.diverge agent 6 (s.agent agent).ops
      else match m.op with
        | .answer _ _ _ | .stamp _ _ _ => (s.noteMsg port 1 m [] false).takeAnswer port m
        | .merged home winid elem round size val fail => match s.windowOf home winid elem round size with
          | some (slot, w) => (s.takeMerged port slot w m elem round val fail).1
          | none => s.noteMsg port 3 m [] false
        | _ => (s.takeRequest port m).1

/-- REPLAY_MESSAGE_TIMEOUT (R142): arguments `a` port, `msg` the header of the message due there, whose sender is in REPSET and
which has not arrived within 2^24 ticks. -/
def execReplayMessageTimeout (s : State) : Host.Outcome State Fault Refusal :=
  let agent := portAgent s.arg.a
  match if s.replaying && decide (s.arg.a < 24) && s.mayOp agent 0 0 then s.dueEntry s.arg.a else none with
  | none => .next s
  | some e =>
    let here := [0, 1, 2, 3].any fun vc => (s.nextMsg s.arg.a vc).isSome
    if here ∨ !s.inRepset (fld e 0 16) ∨ s.tick < (s.agent agent).lastOp + 2 ^ 24 then .next s
    else .next (s.deliverLogged s.arg.a e)

/-- REPLAY_PAYLOAD_DELIVERY (R142): argument `a` names the agent: a port, with `msg` the header of a message whose sender is outside
REPSET, or the host agent, with `host` the place of a host write and `b` its link. -/
def execReplayPayloadDelivery (s : State) : Host.Outcome State Fault Refusal :=
  let agent := s.arg.a
  if !s.replaying || !s.mayOp agent 0 0 then .next s
  else if agent = hostAgent then
    match s.payloadOf agent s.recd.hostSeq.toNat 0xFFFF with
    | none => .next (s.diverge agent 6 (s.agent agent).ops)
    | some d => match s.hostPieces (s.hostPa s.arg.host) d.length 0 d.length with
      | none => .next s
      | some l => if s.piecesOpen (s.arg.b % 2) l then .next ((s.hostReach false true l).hostWriteAt l d) else .next s
  else if agent < portAgent 0 ∨ portAgent 24 ≤ agent then .next s
  else match s.dueEntry (agent - portAgent 0) with
    | none => .next s
    | some e => if s.inRepset (fld e 0 16) then .next s else .next (s.deliverLogged (agent - portAgent 0) e)

end Sys2Proof.Machine
end

