-- ==== Sys2Proof/Machine/LaneFloat.lean ====
section
/-! DEFINITION. Class 1: the lane floating-point instructions (R342 to R356). -/

namespace Sys2Proof.Machine

/-! ### The shape of a floating word (R259, R344) -/

/-- The lanes of a word left and trapped: lanes of `bad` raise FP_EXCEPTION with the exceptions `flags`, the others of
the sub-warp go on (R259, R277). -/
def State.retireFp (s : State) (c : Cur) (bad : Word) (flags : BitVec 5) : State :=
  if bad = 0 then s.retire c c.lanes
  else
    let s1 := s.retire c (c.lanes &&& ~~~bad)
    match s1.blk? c.core c.bctx with
    | none => s1
    | some b => match b.thr? c.w with
      | none => s1
      | some t =>
        { s1.trap c b t { cause := .fpException, lanes := bad, faulting := bad, npc := c.pc, flags := flags } with
          focus := none }

/-- The lanes of `act` whose exceptions have their traps enabled. -/
def fpBad (c : Cur) (t : Thr) (act : Word) (r : Nat → FRes) : Word :=
  act &&& maskOf fun l => fpTraps t.frm (t.privileged c.lanes) (r l).exc

/-- The exceptions of the lanes of a mask, combined. -/
def fpFlags (m : Word) (r : Nat → FRes) : BitVec 5 := (maskLanes m).foldl (fun e l => e ||| (r l).exc.bits) 0

/-- A floating word: `r` gives each lane's result; `put` writes the results of the lanes that do not trap, whose
exceptions become sticky; the others raise FP_EXCEPTION (R259). -/
def laneFp (i : Instr) (w : LaneW) (s : State) (r : Cur → Blk → Thr → Nat → FRes)
    (put : Thr → Word → (Nat → Nat) → Thr) : Host.Outcome State Fault Refusal :=
  laneWordOp i w s fun c b t act =>
    let res := r c b t
    let bad := fpBad c t act res
    let ok := act &&& ~~~bad
    let s1 := if act = 0 then s else s.noteUnis c b (laneUnis i w) false
    let t1 := put { t with frm := setSticky t.frm (fpFlags ok res) } ok fun l => (res l).val
    (s1.modThr c.core c.bctx c.w fun _ => t1).retireFp c bad (fpFlags bad res)

/-- Results of 32 bits into VD. -/
def put32 (w : LaneW) (t : Thr) (m : Word) (v : Nat → Nat) : Thr :=
  t.putRow w.vd.toNat m fun l => BitVec.ofNat 32 (v l)

/-- Results of 64 bits into the pair VD. -/
def put64 (w : LaneW) (t : Thr) (m : Word) (v : Nat → Nat) : Thr :=
  t.putPair w.vd.toNat m fun l => BitVec.ofNat 64 (v l)

/-- The first source of a lane as an FP32 encoding. -/
def srcA (w : LaneW) (t : Thr) (b : Blk) (l : Nat) : Nat := (srcW t b w.sa w.lit l).toNat
/-- The second source of a lane as an FP32 encoding. -/
def srcB (w : LaneW) (t : Thr) (b : Blk) (l : Nat) : Nat := (srcW t b w.sb w.lit l).toNat
/-- The first source of a lane as an FP64 encoding. -/
def srcA64 (w : LaneW) (t : Thr) (b : Blk) (l : Nat) : Nat := (srcF64 t b w.sa w.lit l).toNat
/-- The second source of a lane as an FP64 encoding. -/
def srcB64 (w : LaneW) (t : Thr) (b : Blk) (l : Nat) : Nat := (srcF64 t b w.sb w.lit l).toNat

/-- An FP32 word of two sources in the direction of FRM.RM. -/
def lane2f (i : Instr) (w : LaneW) (s : State) (f : Dir → Nat → Nat → FRes) : Host.Outcome State Fault Refusal :=
  laneFp i w s (fun _ b t l => f (dirOfFrm t.frm) (srcA w t b l) (srcB w t b l)) (put32 w)

/-- An FP64 word of two sources in the direction of FRM.RM. -/
def lane2d (i : Instr) (w : LaneW) (s : State) (f : Dir → Nat → Nat → FRes) : Host.Outcome State Fault Refusal :=
  laneFp i w s (fun _ b t l => f (dirOfFrm t.frm) (srcA64 w t b l) (srcB64 w t b l)) (put64 w)

/-! ### FP32 arithmetic (R345, R346) -/

/-- FADD (R345). -/
def execFadd (w : LaneW) (s : State) : Host.Outcome State Fault Refusal :=
  lane2f (.fadd w) w s fun d a b => fp32.add d false a b
/-- FSUB (R345). -/
def execFsub (w : LaneW) (s : State) : Host.Outcome State Fault Refusal :=
  lane2f (.fsub w) w s fun d a b => fp32.add d true a b
/-- FMUL (R345). -/
def execFmul (w : LaneW) (s : State) : Host.Outcome State Fault Refusal := lane2f (.fmul w) w s fp32.mul
/-- FFMA (R345). -/
def execFfma (w : LaneW) (s : State) : Host.Outcome State Fault Refusal :=
  laneFp (.ffma w) w s
    (fun _ b t l => fp32.fma (dirOfFrm t.frm) (srcA w t b l) (srcB w t b l) (t.reg w.vd.toNat l).toNat) (put32 w)
/-- FFMA3 (R346). -/
def execFfma3 (w : LaneW) (x : SrcX) (s : State) : Host.Outcome State Fault Refusal :=
  laneFp (.ffma3 w x) w s
    (fun _ b t l => fp32.fma (dirOf t.frm (fld x.hi 0 3).toNat 0) (srcA w t b l) (srcB w t b l)
      (srcW t b x.sc w.lit l).toNat) (put32 w)
/-- FLDEXP (R345). -/
def execFldexp (w : LaneW) (s : State) : Host.Outcome State Fault Refusal :=
  laneFp (.fldexp w) w s
    (fun _ b t l => fp32.ldexp (dirOfFrm t.frm) (srcA w t b l) (srcW t b w.sb w.lit l).toInt) (put32 w)

/-! ### Minimum, maximum, sign, comparison, class (R347 to R349) -/

/-- FMIN (R347). -/
def execFmin (w : LaneW) (s : State) : Host.Outcome State Fault Refusal :=
  lane2f (.fmin w) w s fun _ a b => fp32.minmax false a b
/-- FMAX (R347). -/
def execFmax (w : LaneW) (s : State) : Host.Outcome State Fault Refusal :=
  lane2f (.fmax w) w s fun _ a b => fp32.minmax true a b
/-- FMINNUM (R347). -/
def execFminnum (w : LaneW) (s : State) : Host.Outcome State Fault Refusal :=
  lane2f (.fminnum w) w s fun _ a b => fp32.minmaxNum false a b
/-- FMAXNUM (R347). -/
def execFmaxnum (w : LaneW) (s : State) : Host.Outcome State Fault Refusal :=
  lane2f (.fmaxnum w) w s fun _ a b => fp32.minmaxNum true a b

/-- A sign operation on the elements WIDTH names (R343, R347): the words of the bits it clears or inverts. -/
def laneSign (i : Instr) (w : LaneW) (s : State) (f32 : Word → Word → Word) (f64 : DWord → DWord → DWord) :
    Host.Outcome State Fault Refusal :=
  laneAlu i w s fun _ b t act =>
    if w.sb = 2 then t.putPair w.vd.toNat act fun l => f64 (srcF64 t b w.sa w.lit l) 0x8000000000000000
    else t.putRow w.vd.toNat act fun l => f32 (srcW t b w.sa w.lit l) (if w.sb = 1 then 0x80008000 else 0x80000000)

/-- FABS (R347). -/
def execFabs (w : LaneW) (s : State) : Host.Outcome State Fault Refusal :=
  laneSign (.fabs w) w s (fun x m => x &&& ~~~m) (fun x m => x &&& ~~~m)
/-- FNEG (R347). -/
def execFneg (w : LaneW) (s : State) : Host.Outcome State Fault Refusal :=
  laneSign (.fneg w) w s (fun x m => x ^^^ m) (fun x m => x ^^^ m)

/-- A floating comparison: VD names the predicate and COND (R348). -/
def laneFcmp (i : Instr) (w : LaneW) (s : State) (f : Fmt) (a b : LaneW → Thr → Blk → Nat → Nat) :
    Host.Outcome State Fault Refusal :=
  let cond := (fld w.vd 3 4).toNat
  laneFp i w s
    (fun _ k t l => { val := (frelHolds cond (f.rel (a w t k l) (b w t k l))).toNat,
                      exc := f.cmpExc cond (a w t k l) (b w t k l) })
    (fun t m v => t.putPred (fld w.vd 0 3).toNat m fun l => v l == 1)

/-- FCMP (R348). -/
def execFcmp (w : LaneW) (s : State) : Host.Outcome State Fault Refusal := laneFcmp (.fcmp w) w s fp32 srcA srcB
/-- DCMP (R348). -/
def execDcmp (w : LaneW) (s : State) : Host.Outcome State Fault Refusal := laneFcmp (.dcmp w) w s fp64 srcA64 srcB64

/-- FCLASS (R349). -/
def execFclass (w : LaneW) (s : State) : Host.Outcome State Fault Refusal :=
  laneOut (.fclass w) w s fun _ b t l =>
    BitVec.ofNat 32 (2 ^ (match w.sb.toNat % 4 with
      | 0 => fp32.classBit (srcA w t b l)
      | 1 => fp64.classBit (srcA64 w t b l)
      | 2 => fp16.classBit (halfOf (srcW t b w.sa w.lit l) 0)
      | _ => bf16.classBit (halfOf (srcW t b w.sa w.lit l) 0)))

/-! ### Integral values and exponents (R350) -/

/-- FRND (R350). -/
def execFrnd (w : LaneW) (s : State) : Host.Outcome State Fault Refusal :=
  let d := fun (t : Thr) => dirOf t.frm (w.sb.toNat % 8) 0
  if w.sb.getLsbD 3 then laneFp (.frnd w) w s (fun _ b t l => fp64.rint (d t) (srcA64 w t b l)) (put64 w)
  else laneFp (.frnd w) w s (fun _ b t l => fp32.rint (d t) (srcA w t b l)) (put32 w)

/-- FGETEXP (R350). -/
def execFgetexp (w : LaneW) (s : State) : Host.Outcome State Fault Refusal :=
  laneFp (.fgetexp w) w s
    (fun _ b t l => if w.sb.getLsbD 0 then fp64.getexp (srcA64 w t b l) else fp32.getexp (srcA w t b l)) (put32 w)

/-! ### Conversions (R351 to R354) -/

/-- A conversion to an integer: W and D of the control byte (R343), signed or not. -/
def laneToInt (i : Instr) (w : LaneW) (s : State) (signed : Bool) : Host.Outcome State Fault Refusal :=
  let bits := if w.sb.getLsbD 3 then 64 else 32
  let lo : Int := if signed then -(2 ^ (bits - 1)) else 0
  let hi : Int := if signed then 2 ^ (bits - 1) - 1 else 2 ^ bits - 1
  laneFp i w s
    (fun _ b t l =>
      let d := dirOf t.frm (w.sb.toNat % 8) 0
      if w.sb.getLsbD 4 then fp64.toInteger d bits lo hi (srcA64 w t b l)
      else fp32.toInteger d bits lo hi (srcA w t b l))
    (if w.sb.getLsbD 3 then put64 w else put32 w)

/-- CVTFI (R351). -/
def execCvtfi (w : LaneW) (s : State) : Host.Outcome State Fault Refusal := laneToInt (.cvtfi w) w s true
/-- CVTFU (R351). -/
def execCvtfu (w : LaneW) (s : State) : Host.Outcome State Fault Refusal := laneToInt (.cvtfu w) w s false

/-- A conversion from an integer: W and D of the control byte (R343), signed or not. -/
def laneFromInt (i : Instr) (w : LaneW) (s : State) (signed : Bool) : Host.Outcome State Fault Refusal :=
  laneFp i w s
    (fun _ b t l =>
      let d := dirOf t.frm (w.sb.toNat % 8) 0
      let x : Int :=
        if w.sb.getLsbD 3 then
          (if signed then (srcI64 t b w.sa w.lit l).toInt else (srcI64 t b w.sa w.lit l).toNat)
        else if signed then (srcW t b w.sa w.lit l).toInt
        else (srcW t b w.sa w.lit l).toNat
      if w.sb.getLsbD 4 then fp64.ofInteger d x else fp32.ofInteger d x)
    (if w.sb.getLsbD 4 then put64 w else put32 w)

/-- CVTIF (R351). -/
def execCvtif (w : LaneW) (s : State) : Host.Outcome State Fault Refusal := laneFromInt (.cvtif w) w s true
/-- CVTUF (R351). -/
def execCvtuf (w : LaneW) (s : State) : Host.Outcome State Fault Refusal := laneFromInt (.cvtuf w) w s false

/-- CVTDF (R351). -/
def execCvtdf (w : LaneW) (s : State) : Host.Outcome State Fault Refusal :=
  laneFp (.cvtdf w) w s
    (fun _ b t l => fp64.convert fp32 (dirOf t.frm (w.sb.toNat % 8) 0) false (srcA64 w t b l)) (put32 w)
/-- CVTFD (R351). -/
def execCvtfd (w : LaneW) (s : State) : Host.Outcome State Fault Refusal :=
  laneFp (.cvtfd w) w s (fun _ b t l => fp32.convert fp64 .rne false (srcA w t b l)) (put64 w)

/-- The format code of CVTFF (R352). -/
def cvtFmt (k : Nat) : Fmt :=
  match k with
  | 0 => fp32
  | 1 => fp16
  | 2 => bf16
  | _ => fp64

/-- Whether SAT acts in a conversion between the formats of two codes: not in a widening one (R352). -/
def cvtSat (sf df sat : Nat) : Bool := decide (sat = 1 ∧ ¬ (df = 3 ∨ df = 0 ∧ sf ≠ 3))

/-- CVTFF (R352); under stochastic rounding the lanes that do not trap advance their counts (R262). -/
def execCvtff (w : LaneW) (x : SrcX) (s : State) : Host.Outcome State Fault Refusal :=
  let e := x.sc.toNat + 256 * x.ec.toNat + 512 * x.hi.toNat
  let sf := e % 4
  let df := e / 4 % 4
  let dh := e / 32 % 2
  let rm := e / 64 % 8
  let half := df == 1 || df == 2
  laneFp (.cvtff w x) w s
    (fun c b t l =>
      let a := if sf = 3 then srcA64 w t b l
        else if sf = 0 then srcA w t b l
        else halfOf (srcW t b w.sa w.lit l) (e / 16 % 2)
      (cvtFmt sf).convert (cvtFmt df) (dirOf t.frm rm (rsValue b.info t c.w l dh)) (cvtSat sf df (e / 512 % 2)) a)
    (fun t m v =>
      let t1 := if rm = 5 then t.bumpRs m else t
      if df = 3 then put64 w t1 m v
      else if half then t1.putRow w.vd.toNat m fun l => insertBits (t.reg w.vd.toNat l) (16 * dh) 16 (v l)
      else put32 w t1 m v)

/-- The format code of PACK8 and UNPACK8 (R353). -/
def packFmt (k : Nat) : Fmt :=
  match k with
  | 0 => e4m3
  | 1 => e5m2
  | 2 => e3m2
  | 3 => e2m3
  | _ => e2m1

/-- Bits of an element's place in a register (R253): four, or eight with FP6 padding written zero. -/
def packWidth (k : Nat) : Nat := if k = 4 then 4 else 8

/-- PACK8 (R353). -/
def execPack8 (w : LaneW) (x : SrcX) (s : State) : Host.Outcome State Fault Refusal :=
  let k := x.sc.toNat % 8
  let pos := x.sc.toNat / 8 % 4
  let rm := x.sc.toNat / 32 % 8
  let n := packWidth k
  laneFp (.pack8 w x) w s
    (fun c b t l =>
      let one (j a : Nat) : FRes :=
        fp32.convert (packFmt k) (dirOf t.frm rm (rsValue b.info t c.w l (2 * pos + j))) x.ec a
      let lo := one 0 (srcA w t b l)
      let hi := one 1 (srcB w t b l)
      { val := lo.val + 2 ^ n * hi.val, exc := lo.exc.both hi.exc })
    (fun t m v =>
      (if rm = 5 then t.bumpRs m else t).putRow w.vd.toNat m fun l =>
        insertBits (t.reg w.vd.toNat l) (2 * n * pos) (2 * n) (v l))

/-- An element widened exactly; a NaN becomes the canonical NaN with its sign (R354). -/
def unpackElem (f g : Fmt) (x : Nat) : Nat :=
  if f.isNan x then g.withSign (f.signOf x) g.canonNan else (f.convert g .rne false x).val

/-- UNPACK8 (R354). -/
def execUnpack8 (w : LaneW) (x : SrcX) (s : State) : Host.Outcome State Fault Refusal :=
  let k := x.sc.toNat % 8
  let pos := x.sc.toNat / 8 % 4
  let df := x.sc.toNat / 32 % 4
  let f := packFmt k
  let elem (a : Word) (j : Nat) : Nat := a.toNat / 2 ^ (packWidth k * (2 * pos + j)) % 2 ^ (1 + f.eb + f.m)
  laneAlu (.unpack8 w x) w s fun _ b t act =>
    let a := fun l => srcW t b w.sa w.lit l
    if df = 0 then
      t.putPair w.vd.toNat act fun l =>
        BitVec.ofNat 64 (unpackElem f fp32 (elem (a l) 0) + 2 ^ 32 * unpackElem f fp32 (elem (a l) 1))
    else
      let g := if df = 1 then fp16 else bf16
      t.putRow w.vd.toNat act fun l =>
        BitVec.ofNat 32 (unpackElem f g (elem (a l) 0) + 2 ^ 16 * unpackElem f g (elem (a l) 1))

/-! ### Packed halves (R355) -/

/-- A packed word of two sources. -/
def lane2h (i : Instr) (w : LaneW) (s : State) (f : Dir → Nat → Nat → FRes) : Host.Outcome State Fault Refusal :=
  laneFp i w s
    (fun _ b t l => onHalves fun h =>
      f (dirOfFrm t.frm) (halfOf (srcW t b w.sa w.lit l) h) (halfOf (srcW t b w.sb w.lit l) h)) (put32 w)

/-- A packed multiply-add onto VD. -/
def lane3h (i : Instr) (w : LaneW) (s : State) (f : Fmt) : Host.Outcome State Fault Refusal :=
  laneFp i w s
    (fun _ b t l => onHalves fun h =>
      f.fma (dirOfFrm t.frm) (halfOf (srcW t b w.sa w.lit l) h) (halfOf (srcW t b w.sb w.lit l) h)
        (halfOf (t.reg w.vd.toNat l) h)) (put32 w)

/-- HADD2 (R355). -/
def execHadd2 (w : LaneW) (s : State) : Host.Outcome State Fault Refusal :=
  lane2h (.hadd2 w) w s fun d a b => fp16.add d false a b
/-- HMUL2 (R355). -/
def execHmul2 (w : LaneW) (s : State) : Host.Outcome State Fault Refusal := lane2h (.hmul2 w) w s fp16.mul
/-- HFMA2 (R355). -/
def execHfma2 (w : LaneW) (s : State) : Host.Outcome State Fault Refusal := lane3h (.hfma2 w) w s fp16
/-- BADD2 (R355). -/
def execBadd2 (w : LaneW) (s : State) : Host.Outcome State Fault Refusal :=
  lane2h (.badd2 w) w s fun d a b => bf16.add d false a b
/-- BMUL2 (R355). -/
def execBmul2 (w : LaneW) (s : State) : Host.Outcome State Fault Refusal := lane2h (.bmul2 w) w s bf16.mul
/-- BFMA2 (R355). -/
def execBfma2 (w : LaneW) (s : State) : Host.Outcome State Fault Refusal := lane3h (.bfma2 w) w s bf16

/-! ### FP64 (R356) -/

/-- DADD (R356). -/
def execDadd (w : LaneW) (s : State) : Host.Outcome State Fault Refusal :=
  lane2d (.dadd w) w s fun d a b => fp64.add d false a b
/-- DMUL (R356). -/
def execDmul (w : LaneW) (s : State) : Host.Outcome State Fault Refusal := lane2d (.dmul w) w s fp64.mul
/-- DFMA (R356). -/
def execDfma (w : LaneW) (s : State) : Host.Outcome State Fault Refusal :=
  laneFp (.dfma w) w s
    (fun _ b t l => fp64.fma (dirOfFrm t.frm) (srcA64 w t b l) (srcB64 w t b l) (t.reg64 w.vd.toNat l).toNat) (put64 w)
/-- DMIN (R356). -/
def execDmin (w : LaneW) (s : State) : Host.Outcome State Fault Refusal :=
  lane2d (.dmin w) w s fun _ a b => fp64.minmax false a b
/-- DMAX (R356). -/
def execDmax (w : LaneW) (s : State) : Host.Outcome State Fault Refusal :=
  lane2d (.dmax w) w s fun _ a b => fp64.minmax true a b

end Sys2Proof.Machine
end

