-- ==== Sys2Proof/Machine/LaneInt.lean ====
section
/-! DEFINITION. Class 0: the lane integer instructions (R323 to R334). -/

namespace Sys2Proof.Machine

/-! ### Results -/

/-- Saturation to an interval (R6). -/
def clamp (x lo hi : Int) : Int := if x < lo then lo else if hi < x then hi else x

/-- A signed 32-bit saturated result. -/
def satS32 (x : Int) : Word := BitVec.ofInt 32 (clamp x (-2147483648) 2147483647)

/-- An unsigned 32-bit saturated result. -/
def satU32 (x : Int) : Word := BitVec.ofInt 32 (clamp x 0 4294967295)

/-- Shift left by the whole 32-bit count (R325). -/
def shl32 (a b : Word) : Word := if b.toNat < 32 then a <<< b.toNat else 0
/-- Logical shift right by the whole 32-bit count (R325). -/
def shr32 (a b : Word) : Word := if b.toNat < 32 then a >>> b.toNat else 0
/-- Arithmetic shift right; a count of 32 or more fills with the sign (R325). -/
def sar32 (a b : Word) : Word := a.sshiftRight (min b.toNat 31)
/-- Rotation left by the count modulo 32 (R325). -/
def rotl32 (a b : Word) : Word := a.rotateLeft (b.toNat % 32)

/-- The 64-bit carry-less product (R325). -/
def clmul (a b : Word) : DWord :=
  (List.range 32).foldl (fun r i => if b.getLsbD i then r ^^^ (zext 64 a <<< i) else r) 0

/-- Number of 1 bits among the low `n` (R326). -/
def popcount {w : Nat} (a : BitVec w) : Nat := (List.range w).foldl (fun n i => n + (a.getLsbD i).toNat) 0

/-- Leading zeros of a word (R326). -/
def clz32 (a : Word) : Nat := if a = 0 then 32 else 31 - Nat.log2 a.toNat
/-- Trailing zeros of a word (R326). -/
def ctz32 (a : Word) : Nat := ((List.range 32).find? a.getLsbD).getD 32

/-- Bits reversed (R326, R327). -/
def bitrev {w : Nat} (a : BitVec w) : BitVec w := a.reverse

/-- Byte `i` of a word (R327). -/
def byteOf (x : Word) (i : Nat) : Byte := fld x (8 * i) 8

/-- The signed dot product of bytes (R327). -/
def dot4 (d a b : Word) : Word :=
  d + BitVec.ofInt 32 ((List.range 4).foldl (fun s i => s + (byteOf a i).toInt * (byteOf b i).toInt) 0)
/-- The unsigned dot product of bytes (R327). -/
def dot4u (d a b : Word) : Word :=
  d + BitVec.ofNat 32 ((List.range 4).foldl (fun s i => s + (byteOf a i).toNat * (byteOf b i).toNat) 0)

/-- One result byte of PERMB from the pool and its control byte (R327). -/
def permByte (pool : DWord) (ctl : Byte) : Byte :=
  let x : Byte := fld pool (8 * (ctl.toNat % 8)) 8
  let y := if ctl.getLsbD 3 then bitrev x else x
  match ctl.toNat / 16 % 4 with
  | 0 => y
  | 1 => 0x00
  | 2 => 0xFF
  | _ => BitVec.ofNat 8 (popcount y)

/-- PERMB (R327). -/
def permb (d a b : Word) : Word :=
  let pool : DWord := zext 64 a ||| zext 64 d <<< 32
  BitVec.ofNat 32 (leNat ((List.range 4).map fun i => permByte pool (byteOf b i)))

/-- The unsigned field of BFEU (R329). -/
def bfeu (a b : Word) : Word :=
  let len := min (byteOf b 1).toNat 32
  BitVec.ofNat 32 (a.toNat / 2 ^ (byteOf b 0).toNat % 2 ^ len)

/-- A field of `n` bits sign-extended; a width of 0 gives 0 and 32 or more gives the word (R329). -/
def sextField (a : Word) (n : Nat) : Word :=
  if n = 0 then 0 else if 32 ≤ n then a else (a.setWidth n).signExtend 32

/-- A field of `n` bits zero-extended (R329). -/
def zextField (a : Word) (n : Nat) : Word := if 32 ≤ n then a else BitVec.ofNat 32 (a.toNat % 2 ^ n)

/-- The signed field of BFE: it reads copies of bit 31 past the top (R329). -/
def bfe (a b : Word) : Word :=
  let len := min (byteOf b 1).toNat 32
  sextField (a.sshiftRight (byteOf b 0).toNat) len

/-- BFI (R329). -/
def bfi (d a b : Word) : Word :=
  let pos := (byteOf b 0).toNat
  let len := min (byteOf b 1).toNat 32
  let m : Word := BitVec.ofNat 32 ((2 ^ len - 1) * 2 ^ pos)
  (d &&& ~~~m) ||| (BitVec.ofNat 32 (a.toNat * 2 ^ pos) &&& m)

/-- The funnel shift (R330). -/
def fshl32 (a b c : Word) : Word :=
  let n := min c.toNat 32
  BitVec.ofNat 32 ((a.toNat * 2 ^ 32 + b.toNat) * 2 ^ n / 2 ^ 32)

/-! ### Two-source arithmetic and logic (R325) -/

/-- IADD (R325). -/
def execIadd (w : LaneW) (s : State) : Host.Outcome State Fault Refusal := lane2 (.iadd w) w s fun a b => a + b
/-- ISUB (R325). -/
def execIsub (w : LaneW) (s : State) : Host.Outcome State Fault Refusal := lane2 (.isub w) w s fun a b => a - b
/-- IADDS (R325). -/
def execIadds (w : LaneW) (s : State) : Host.Outcome State Fault Refusal :=
  lane2 (.iadds w) w s fun a b => satS32 (a.toInt + b.toInt)
/-- ISUBS (R325). -/
def execIsubs (w : LaneW) (s : State) : Host.Outcome State Fault Refusal :=
  lane2 (.isubs w) w s fun a b => satS32 (a.toInt - b.toInt)
/-- IADDUS (R325). -/
def execIaddus (w : LaneW) (s : State) : Host.Outcome State Fault Refusal :=
  lane2 (.iaddus w) w s fun a b => satU32 (a.toNat + b.toNat : Int)
/-- ISUBUS (R325). -/
def execIsubus (w : LaneW) (s : State) : Host.Outcome State Fault Refusal :=
  lane2 (.isubus w) w s fun a b => satU32 ((a.toNat : Int) - b.toNat)
/-- IMUL (R325). -/
def execImul (w : LaneW) (s : State) : Host.Outcome State Fault Refusal := lane2 (.imul w) w s fun a b => a * b
/-- IMULH (R325). -/
def execImulh (w : LaneW) (s : State) : Host.Outcome State Fault Refusal :=
  lane2 (.imulh w) w s fun a b => BitVec.ofInt 32 (a.toInt * b.toInt / 4294967296)
/-- IMULHU (R325). -/
def execImulhu (w : LaneW) (s : State) : Host.Outcome State Fault Refusal :=
  lane2 (.imulhu w) w s fun a b => BitVec.ofNat 32 (a.toNat * b.toNat / 4294967296)
/-- IMIN (R325). -/
def execImin (w : LaneW) (s : State) : Host.Outcome State Fault Refusal :=
  lane2 (.imin w) w s fun a b => if a.toInt ≤ b.toInt then a else b
/-- IMAX (R325). -/
def execImax (w : LaneW) (s : State) : Host.Outcome State Fault Refusal :=
  lane2 (.imax w) w s fun a b => if b.toInt ≤ a.toInt then a else b
/-- IMINU (R325). -/
def execIminu (w : LaneW) (s : State) : Host.Outcome State Fault Refusal :=
  lane2 (.iminu w) w s fun a b => if a.toNat ≤ b.toNat then a else b
/-- IMAXU (R325). -/
def execImaxu (w : LaneW) (s : State) : Host.Outcome State Fault Refusal :=
  lane2 (.imaxu w) w s fun a b => if b.toNat ≤ a.toNat then a else b
/-- AND (R325). -/
def execAnd (w : LaneW) (s : State) : Host.Outcome State Fault Refusal := lane2 (.and w) w s fun a b => a &&& b
/-- OR (R325). -/
def execOr (w : LaneW) (s : State) : Host.Outcome State Fault Refusal := lane2 (.or w) w s fun a b => a ||| b
/-- XOR (R325). -/
def execXor (w : LaneW) (s : State) : Host.Outcome State Fault Refusal := lane2 (.xor w) w s fun a b => a ^^^ b
/-- ANDN (R325). -/
def execAndn (w : LaneW) (s : State) : Host.Outcome State Fault Refusal := lane2 (.andn w) w s fun a b => a &&& ~~~b
/-- ORN (R325). -/
def execOrn (w : LaneW) (s : State) : Host.Outcome State Fault Refusal := lane2 (.orn w) w s fun a b => a ||| ~~~b
/-- SHL (R325). -/
def execShl (w : LaneW) (s : State) : Host.Outcome State Fault Refusal := lane2 (.shl w) w s shl32
/-- SHR (R325). -/
def execShr (w : LaneW) (s : State) : Host.Outcome State Fault Refusal := lane2 (.shr w) w s shr32
/-- SAR (R325). -/
def execSar (w : LaneW) (s : State) : Host.Outcome State Fault Refusal := lane2 (.sar w) w s sar32
/-- ROTL (R325). -/
def execRotl (w : LaneW) (s : State) : Host.Outcome State Fault Refusal := lane2 (.rotl w) w s rotl32
/-- CLMUL (R325). -/
def execClmul (w : LaneW) (s : State) : Host.Outcome State Fault Refusal :=
  lane2 (.clmul w) w s fun a b => (clmul a b).setWidth 32
/-- CLMULH (R325). -/
def execClmulh (w : LaneW) (s : State) : Host.Outcome State Fault Refusal :=
  lane2 (.clmulh w) w s fun a b => fld (clmul a b) 32 32

/-! ### One source (R326) -/

/-- MOV (R326). -/
def execMov (w : LaneW) (s : State) : Host.Outcome State Fault Refusal := lane1 (.mov w) w s fun a => a
/-- INEG (R326). -/
def execIneg (w : LaneW) (s : State) : Host.Outcome State Fault Refusal := lane1 (.ineg w) w s fun a => -a
/-- IABS (R326). -/
def execIabs (w : LaneW) (s : State) : Host.Outcome State Fault Refusal :=
  lane1 (.iabs w) w s fun a => if a.msb then -a else a
/-- POPC (R326). -/
def execPopc (w : LaneW) (s : State) : Host.Outcome State Fault Refusal :=
  lane1 (.popc w) w s fun a => BitVec.ofNat 32 (popcount a)
/-- CLZ (R326). -/
def execClz (w : LaneW) (s : State) : Host.Outcome State Fault Refusal :=
  lane1 (.clz w) w s fun a => BitVec.ofNat 32 (clz32 a)
/-- CTZ (R326). -/
def execCtz (w : LaneW) (s : State) : Host.Outcome State Fault Refusal :=
  lane1 (.ctz w) w s fun a => BitVec.ofNat 32 (ctz32 a)
/-- BREV (R326). -/
def execBrev (w : LaneW) (s : State) : Host.Outcome State Fault Refusal := lane1 (.brev w) w s fun a => bitrev a

/-! ### Accumulation and permutation (R327) -/

/-- IMAD (R327). -/
def execImad (w : LaneW) (s : State) : Host.Outcome State Fault Refusal := lane3 (.imad w) w s fun d a b => d + a * b
/-- IDOT4 (R327). -/
def execIdot4 (w : LaneW) (s : State) : Host.Outcome State Fault Refusal := lane3 (.idot4 w) w s dot4
/-- IDOT4U (R327). -/
def execIdot4u (w : LaneW) (s : State) : Host.Outcome State Fault Refusal := lane3 (.idot4u w) w s dot4u
/-- PERMB (R327). -/
def execPermb (w : LaneW) (s : State) : Host.Outcome State Fault Refusal := lane3 (.permb w) w s permb

/-! ### Pairs (R328) -/

/-- IADD64 (R328). -/
def execIadd64 (w : LaneW) (s : State) : Host.Outcome State Fault Refusal :=
  laneOut64 (.iadd64 w) w s fun _ b t l => srcI64 t b w.sa w.lit l + srcI64 t b w.sb w.lit l
/-- ISUB64 (R328). -/
def execIsub64 (w : LaneW) (s : State) : Host.Outcome State Fault Refusal :=
  laneOut64 (.isub64 w) w s fun _ b t l => srcI64 t b w.sa w.lit l - srcI64 t b w.sb w.lit l
/-- IMADW (R328). -/
def execImadw (w : LaneW) (s : State) : Host.Outcome State Fault Refusal :=
  laneOut64 (.imadw w) w s fun _ b t l =>
    t.reg64 w.vd.toNat l + zext 64 (srcW t b w.sa w.lit l) * zext 64 (srcW t b w.sb w.lit l)
/-- LEA (R328). -/
def execLea (w : LaneW) (s : State) : Host.Outcome State Fault Refusal :=
  laneOut64 (.lea w) w s fun _ b t l => srcI64 t b w.sa w.lit l + sext 64 (srcW t b w.sb w.lit l)

/-! ### Bit fields (R329, R330) -/

/-- BFE (R329). -/
def execBfe (w : LaneW) (s : State) : Host.Outcome State Fault Refusal := lane2 (.bfe w) w s bfe
/-- BFEU (R329). -/
def execBfeu (w : LaneW) (s : State) : Host.Outcome State Fault Refusal := lane2 (.bfeu w) w s bfeu
/-- BFI (R329). -/
def execBfi (w : LaneW) (s : State) : Host.Outcome State Fault Refusal := lane3 (.bfi w) w s bfi
/-- SXT (R329). -/
def execSxt (w : LaneW) (s : State) : Host.Outcome State Fault Refusal :=
  lane2 (.sxt w) w s fun a b => sextField a (byteOf b 0).toNat
/-- ZXT (R329). -/
def execZxt (w : LaneW) (s : State) : Host.Outcome State Fault Refusal :=
  lane2 (.zxt w) w s fun a b => zextField a (byteOf b 0).toNat
/-- FSHL (R330). -/
def execFshl (w : LaneW) (x : SrcX) (s : State) : Host.Outcome State Fault Refusal :=
  laneOut (.fshl w x) w s fun _ b t l =>
    fshl32 (srcW t b w.sa w.lit l) (srcW t b w.sb w.lit l) (srcW t b x.sc w.lit l)

/-! ### Comparisons and predicates (R331 to R334) -/

/-- A comparison of class 0: VD names the predicate, the condition and the width (R331). -/
def laneCmp (i : Instr) (w : LaneW) (s : State) (val32 : Word → Int) (val64 : DWord → Int) :
    Host.Outcome State Fault Refusal :=
  laneAlu i w s fun _ b t act =>
    t.putPred (fld w.vd 0 3).toNat act fun l =>
      if w.vd.getLsbD 6 then
        condHolds (fld w.vd 3 3) (val64 (srcI64 t b w.sa w.lit l)) (val64 (srcI64 t b w.sb w.lit l))
      else condHolds (fld w.vd 3 3) (val32 (srcW t b w.sa w.lit l)) (val32 (srcW t b w.sb w.lit l))

/-- ICMP (R331). -/
def execIcmp (w : LaneW) (s : State) : Host.Outcome State Fault Refusal :=
  laneCmp (.icmp w) w s BitVec.toInt BitVec.toInt
/-- ICMPU (R331). -/
def execIcmpu (w : LaneW) (s : State) : Host.Outcome State Fault Refusal :=
  laneCmp (.icmpu w) w s (fun x => (x.toNat : Int)) (fun x => (x.toNat : Int))
/-- PLOG (R332). -/
def execPlog (w : LaneW) (s : State) : Host.Outcome State Fault Refusal :=
  laneAlu (.plog w) w s fun _ _ t act =>
    t.putPred (fld w.vd 0 3).toNat act fun l =>
      (fld w.vd 3 4).getLsbD (2 * (t.pred (fld w.sa 0 3).toNat l).toNat + (t.pred (fld w.sb 0 3).toNat l).toNat)
/-- SEL (R333): all lanes of the sub-warp act; the clause's guard predicate chooses. -/
def execSel (w : LaneW) (s : State) : Host.Outcome State Fault Refusal :=
  laneOut (.sel w) w s fun c b t l =>
    if guardHolds c.hdr t l then srcW t b w.sa w.lit l else srcW t b w.sb w.lit l
/-- The predicates of a lane as an eight-bit number, p7 reading 1 (R334). -/
def predByte (t : Thr) (l : Nat) : Nat := (List.range 8).foldl (fun n p => n + (t.pred p l).toNat * 2 ^ p) 0
/-- MOVP with DIR 0 (R334). -/
def execMovpToRegister (w : LaneW) (s : State) : Host.Outcome State Fault Refusal :=
  laneOut (.movpToRegister w) w s fun _ _ t l => BitVec.ofNat 32 (predByte t l)
/-- MOVP with DIR 1 (R334). -/
def execMovpToPredicates (w : LaneW) (s : State) : Host.Outcome State Fault Refusal :=
  laneAlu (.movpToPredicates w) w s fun _ b t act =>
    (List.range 7).foldl
      (fun t' p => if w.vd.getLsbD p then t'.putPred p act fun l => (srcW t b w.sa w.lit l).getLsbD p else t') t

end Sys2Proof.Machine
end

