-- ==== Sys2Proof/Machine/Sfu.lean ====
section
/-! DEFINITION. Class 2, special functions and table evaluation (R271, R272, R357, R358, R361): exact values in fixed
point, the results the error bounds of R271 allow, of which the device delivers one fixed choice (log entry 2), and
the landing of results (R171). -/

namespace Sys2Proof.Machine

/-! ### Fixed-point values

A value is a number of units of 2^-400.  Series are summed far beyond the precision any bound of R271 can see (log
entry 20). -/

/-- Fraction bits of the fixed point. -/
def fxBits : Nat := 400
/-- One. -/
def fxOne : Nat := 2 ^ fxBits
/-- The product of two values. -/
def fxMul (a b : Nat) : Nat := a * b / fxOne

/-- e^y for 0 ≤ y < 1, by Taylor's series. -/
def fxExp (y : Nat) : Nat := (List.range 100).foldl (fun acc k => fxOne + fxMul y acc / (100 - k)) fxOne

/-- atanh z for 0 ≤ z ≤ 1/3. -/
def fxAtanh (z : Nat) : Nat :=
  let z2 := fxMul z z
  fxMul z ((List.range 140).foldl (fun acc k => fxOne / (2 * (139 - k) + 1) + fxMul z2 acc) 0)

/-- The arctangent of 1/n for n ≥ 2. -/
def fxAtanInv (n : Nat) : Nat :=
  (List.range 110).foldl (fun acc k => fxOne / (2 * (109 - k) + 1) - acc / (n * n)) 0 / n

/-- ln 2 = 2 atanh(1/3). -/
def fxLn2 : Nat := 2 * fxAtanh (fxOne / 3)
/-- π by Machin's formula. -/
def fxPi : Nat := 16 * fxAtanInv 5 - 4 * fxAtanInv 239

/-- sin y for 0 ≤ y ≤ π/2. -/
def fxSin (y : Nat) : Nat :=
  let y2 := fxMul y y
  fxMul y ((List.range 60).foldl
    (fun acc k => fxOne - fxMul y2 acc / ((2 * (60 - k)) * (2 * (60 - k) + 1))) fxOne)

/-- log2 z for 1 ≤ z < 2, as ln z = 2 atanh((z - 1)/(z + 1)). -/
def fxLog2 (z : Nat) : Nat := 2 * fxAtanh ((z - fxOne) * fxOne / (z + fxOne)) * fxOne / fxLn2

/-- 2^f for 0 ≤ f < 1. -/
def fxExp2 (f : Nat) : Nat := fxExp (fxMul f fxLn2)

/-- The greatest natural number whose square is at most `n`, from its bits below `2 ^ k`. -/
def isqrt (n : Nat) : Nat → Nat → Nat
  | 0, r => r
  | k + 1, r => isqrt n k (if (r + 2 ^ k) * (r + 2 ^ k) ≤ n then r + 2 ^ k else r)

/-! ### Results within a bound (R271) -/

/-- An exact value: its sign and its magnitude between `n * 2 ^ e` and `(n + 1) * 2 ^ e`, equal to the former where
`exact`. -/
structure Approx where
  neg : Bool
  n : Nat
  e : Int
  exact : Bool

/-- The magnitude as a number that compares with multiples of larger powers of two as the exact value does. -/
def Approx.sticky (a : Approx) : Nat × Int := (2 * a.n + (!a.exact).toNat, a.e - 1)

/-- The distance of two dyadic magnitudes at most `k * 2 ^ q`. -/
def within (m1 : Nat) (e1 : Int) (m2 : Nat) (e2 : Int) (k : Nat) (q : Int) : Bool :=
  let e := min (min e1 e2) q
  let x : Int := m1 * 2 ^ (e1 - e).toNat
  let y : Int := m2 * 2 ^ (e2 - e).toNat
  decide ((x - y).natAbs ≤ k * 2 ^ (q - e).toNat)

/-- The FP32 magnitude below or at a value, exponents unbounded above. -/
def floorEnc (m : Nat) (e : Int) : Nat :=
  if m = 0 then 0
  else
    let q := max ((Nat.log2 m : Int) + e - 23) fp32.qmin
    (q - fp32.qmin).toNat * 2 ^ 23 + (roundAt .rtz false m e q).1

/-- The mantissa and exponent of an FP32 magnitude, the exponent field unbounded. -/
def encParts (x : Nat) : Nat × Int :=
  let e : Nat := x / 2 ^ 23
  if e = 0 then (x, fp32.qmin) else (2 ^ 23 + x % 2 ^ 23, fp32.qmin + (e : Int) - 1)

/-- The FP32 result of a function within `k` ulps of the exact value: the device's choice among them (R271). -/
def ulpResult (fn : Nat) (x : Word) (k : Nat) (a : Approx) : Nat :=
  let (m, e) := a.sticky
  let base := floorEnc m e
  let cands := ((List.range (2 * k + 3)).map fun j => base - (k + 1) + j).filter fun c =>
    let (cm, ce) := encParts c
    within cm ce m e k ce
  let c := match cands[Config.sfuPick fn x % cands.length]? with
    | some c => c
    | none => base
  fp32.withSign a.neg (min c fp32.infEnc)

/-- The FP32 result within 2^-22 of the exact value: the device's choice among them (R271). -/
def absResult (fn : Nat) (x : Word) (a : Approx) : Nat :=
  let (m, e) := a.sticky
  let v : Int := m * 2 ^ (e + 401).toNat
  let v := if a.neg then -v else v
  let enc (d : Dir) (y : Int) : Nat :=
    if y = 0 then fp32.withSign (d == .rup) 0 else (fp32.round d false (decide (y < 0)) y.natAbs (-401)).val
  let lo := fp32.key (enc .rup (v - 2 ^ 379))
  let hi := fp32.key (enc .rdn (v + 2 ^ 379))
  fp32.ofKey (lo + (Config.sfuPick fn x : Int) % (hi - lo + 1))

/-! ### The exact values (R271) -/

/-- 1/x. -/
def exactRcp (m : Nat) (e : Int) (neg : Bool) : Approx :=
  { neg := neg, n := 2 ^ 200 / m, e := -e - 200, exact := 2 ^ 200 % m == 0 }

/-- √x: the mantissa is scaled by an even power of two. -/
def exactSqrt (m : Nat) (e : Int) : Approx :=
  let sh : Nat := if e % 2 = 0 then 200 else 201
  let y := m * 2 ^ sh
  let r := isqrt y 120 0
  { neg := false, n := r, e := (e - sh) / 2, exact := r * r == y }

/-- 1/√x = √(1/x). -/
def exactRsq (m : Nat) (e : Int) : Approx :=
  let sh : Nat := if e % 2 = 0 then 300 else 301
  let y := 2 ^ sh / m
  let r := isqrt y 160 0
  { neg := false, n := r, e := (-e - sh) / 2, exact := r * r * m == 2 ^ sh }

/-- A finite magnitude in fixed point. -/
def toFx (m : Nat) (e : Int) : Nat :=
  if 0 ≤ e + 400 then m * 2 ^ (e + 400).toNat else m / 2 ^ (-(e + 400)).toNat

/-- 2^x; beyond 2^±600 the value no longer matters. -/
def exactExp2 (m : Nat) (e : Int) (neg : Bool) : Approx :=
  let x := min (toFx m (min e 20)) (600 * fxOne)
  let up : Nat := (x + fxOne - 1) / fxOne
  let down : Nat := x / fxOne
  let i : Int := if neg then -(up : Int) else down
  let f := if neg then up * fxOne - x else x % fxOne
  { neg := false, n := fxExp2 f, e := i - 400, exact := f == 0 }

/-- log2 x. -/
def exactLog2 (m : Nat) (e : Int) : Approx :=
  let k := Nat.log2 m
  let frac := fxLog2 (m * 2 ^ (400 - k))
  let v : Int := ((k : Int) + e) * fxOne + frac
  { neg := decide (v < 0), n := if v < 0 ∧ frac ≠ 0 then v.natAbs - 1 else v.natAbs, e := -400, exact := frac == 0 }

/-- sin(π t) for t given in fixed point modulo 2: its sign and magnitude. -/
def sinPi (t : Nat) (neg : Bool) : Approx :=
  let u := t % fxOne
  let half := decide (fxOne ≤ t % (2 * fxOne))
  let r := min u (fxOne - u)
  { neg := neg != half, n := if r * 2 = fxOne then fxOne else fxSin (fxMul fxPi r), e := -400,
    exact := r == 0 || r * 2 == fxOne }

/-- tanh x for x > 0, as (E - 1)/(E + 1) with E = e^2x; beyond 64 the value no longer matters. -/
def exactTanh (m : Nat) (e : Int) (neg : Bool) : Approx :=
  let y := 2 * min (toFx m (min e 20)) (64 * fxOne)
  let k := y / fxLn2
  let big := fxExp (y - k * fxLn2) * 2 ^ k
  { neg := neg, n := (big - fxOne) * fxOne / (big + fxOne), e := -400, exact := false }

/-! ### The functions with their special inputs (R272) -/

/-- Which special function, in opcode order (R357). -/
inductive SfuFn where
  | rcp
  | rsq
  | sqrt
  | exp2
  | log2
  | sinpi
  | cospi
  | tanh
  deriving DecidableEq, Repr

/-- The number that names a function in `Config.sfuPick`: its opcode. -/
def SfuFn.code : SfuFn → Nat
  | .rcp => 1
  | .rsq => 2
  | .sqrt => 3
  | .exp2 => 4
  | .log2 => 5
  | .sinpi => 6
  | .cospi => 7
  | .tanh => 8

/-- The result of sin(πx) or cos(πx) that is not fixed by R272: two ulps, or 2^-22 where the value is below 2^-20. -/
def trigResult (fn : Nat) (x : Word) (a : Approx) : Nat :=
  if a.n < 2 ^ 380 then absResult fn x a else ulpResult fn x 2 a

/-- A special function of an FP32 input (R271, R272); `d` is the direction of FRM, which only FSQRT reads. -/
def sfu (fn : SfuFn) (d : Dir) (x : Word) : FRes :=
  let a := x.toNat
  match fp32.nanOf [a] with
  | some r => r
  | none =>
    let s := fp32.signOf a
    let inf := fp32.isInf a
    let zero := fp32.mag a == 0
    let (m, e) := fp32.parts a
    let signed (mag : Nat) : Nat := fp32.withSign s mag
    let negative : FRes := fp32.invalid
    match fn with
    | .rcp =>
      if zero then { val := signed fp32.infEnc, exc := { dz := true } }
      else if inf then { val := signed 0 }
      else { val := ulpResult fn.code x 1 (exactRcp m e s) }
    | .rsq =>
      if zero then { val := signed fp32.infEnc, exc := { dz := true } }
      else if s then negative
      else if inf then { val := 0 }
      else { val := ulpResult fn.code x 2 (exactRsq m e) }
    | .sqrt =>
      if zero then { val := a }
      else if s then negative
      else if inf then { val := a }
      else
        let (n, k) := (exactSqrt m e).sticky
        { val := (fp32.round d false false n k).val }
    | .exp2 =>
      if inf then { val := if s then 0 else fp32.infEnc }
      else if zero then { val := ulpResult fn.code x 2 (exactExp2 0 0 false) }
      else { val := ulpResult fn.code x 2 (exactExp2 m e s) }
    | .log2 =>
      if zero then { val := fp32.withSign true fp32.infEnc, exc := { dz := true } }
      else if s then negative
      else if inf then { val := a }
      else if a = 0x3F800000 then { val := 0 }
      else if 0x3F000000 ≤ a ∧ a ≤ 0x40000000 then { val := absResult fn.code x (exactLog2 m e) }
      else { val := ulpResult fn.code x 2 (exactLog2 m e) }
    | .sinpi =>
      if inf then negative
      else
        let t := toFx m (min e 0) % (2 * fxOne)
        if fp32.mag a ≥ 0x4B000000 ∨ t % fxOne = 0 then { val := signed 0 }
        else { val := trigResult fn.code x (sinPi t s) }
    | .cospi =>
      if inf then negative
      else
        let t := if 0 ≤ e then (m * 2 ^ e.toNat % 2) * fxOne else toFx m e % (2 * fxOne)
        if t % fxOne = 0 then { val := fp32.withSign (t != 0) 0x3F800000 }
        else if t % fxOne * 2 = fxOne then { val := 0 }
        else { val := trigResult fn.code x (sinPi (t + fxOne / 2) false) }
    | .tanh =>
      if zero then { val := a }
      else if inf then { val := signed 0x3F800000 }
      else { val := ulpResult fn.code x 2 (exactTanh m e s) }

/-! ### Words whose results land later (R171, R357) -/

/-- The results of the lanes `ok` sent towards VD, which is marked empty (R171). -/
def State.sendSfu (s : State) (c : Cur) (b : Blk) (vd : Nat) (ok : Word) (v : Nat → Nat) (bank : Option Nat) : State :=
  if ok = 0 then s
  else
    let r : SfuRes :=
      { id := s.nextId, core := c.core, bctx := c.bctx, w := c.w, adm := b.adm, vd := vd,
        vals := (maskLanes ok).map fun l => (l, BitVec.ofNat 32 (v l)), bank := bank }
    { s.modThr c.core c.bctx c.w fun t => t.markEmpty [vd] with nextId := s.nextId + 1, sfu := s.sfu ++ [r] }

/-- A special-function word (R357): exceptions and flags are decided at issue; a trapping lane keeps its value. -/
def laneSfu (i : Instr) (w : LaneW) (s : State) (fn : SfuFn) : Host.Outcome State Fault Refusal :=
  laneWordOp i w s fun c b t act =>
    let res := fun l => sfu fn (dirOfFrm t.frm) (srcW t b w.sa w.lit l)
    let bad := fpBad c t act res
    let ok := act &&& ~~~bad
    let s1 := if act = 0 then s else s.noteUnis c b (laneUnis i w) false
    let s2 := s1.modThr c.core c.bctx c.w fun t => { t with frm := setSticky t.frm (fpFlags ok res) }
    (s2.sendSfu c b w.vd.toNat ok (fun l => (res l).val) none).retireFp c bad (fpFlags bad res)

/-- FRCP (R357). -/
def execFrcp (w : LaneW) (s : State) : Host.Outcome State Fault Refusal := laneSfu (.frcp w) w s .rcp
/-- FRSQ (R357). -/
def execFrsq (w : LaneW) (s : State) : Host.Outcome State Fault Refusal := laneSfu (.frsq w) w s .rsq
/-- FSQRT (R357). -/
def execFsqrt (w : LaneW) (s : State) : Host.Outcome State Fault Refusal := laneSfu (.fsqrt w) w s .sqrt
/-- FEXP2 (R357). -/
def execFexp2 (w : LaneW) (s : State) : Host.Outcome State Fault Refusal := laneSfu (.fexp2 w) w s .exp2
/-- FLOG2 (R357). -/
def execFlog2 (w : LaneW) (s : State) : Host.Outcome State Fault Refusal := laneSfu (.flog2 w) w s .log2
/-- FSINPI (R357). -/
def execFsinpi (w : LaneW) (s : State) : Host.Outcome State Fault Refusal := laneSfu (.fsinpi w) w s .sinpi
/-- FCOSPI (R357). -/
def execFcospi (w : LaneW) (s : State) : Host.Outcome State Fault Refusal := laneSfu (.fcospi w) w s .cospi
/-- FTANH (R357). -/
def execFtanh (w : LaneW) (s : State) : Host.Outcome State Fault Refusal := laneSfu (.ftanh w) w s .tanh

/-! ### Activation tables (R358, R359, R361) -/

/-- The FP32 word at a byte offset of a table image. -/
def imageWord (img : List Byte) (off : Nat) : Nat := leNat ((img.drop off).take 4)

/-- What TBLEVAL computes from an image (R358). -/
def tableValue (img : List Byte) (a : Nat) : FRes :=
  let lo := imageWord img 0
  if fp32.isNan a then { val := fp32.quiet a, exc := { nv := fp32.isSnan a } }
  else if fp32.isNan lo || fp32.isInf lo || fp32.rel a lo == .lt then { val := imageWord img 4 }
  else if fp32.isInf a then { val := imageWord img 8 }
  else
    let (ma, ea) := fp32.parts a
    let (ml, el) := fp32.parts lo
    let w : Int := (BitVec.ofNat 8 (leNat ((img.drop 12).take 1))).toInt
    let e := min (min ea el) w
    let va : Int := (if fp32.signOf a then -1 else 1) * (ma * 2 ^ (ea - e).toNat : Nat)
    let vl : Int := (if fp32.signOf lo then -1 else 1) * (ml * 2 ^ (el - e).toNat : Nat)
    let seg : Nat := 2 ^ (w - e).toNat
    let diff := (va - vl).toNat
    let i := diff / seg
    if 255 < i then { val := imageWord img 8 }
    else
      let rest := diff - i * seg
      let t := if rest = 0 then 0 else (fp32.round .rne false false rest e).val
      let c (k : Nat) : Nat := imageWord img (16 + 16 * i + 4 * k)
      let y := (fp32.fma .rne (c 2) t (c 1)).val
      { val := (fp32.fma .rne y t (c 0)).val }

/-- The core's current table bank (R359). -/
def Core.currentBank (k : Core) : Option (Nat × TblBank) :=
  match findIx (fun b : TblBank => b.current) k.banks with
  | some i => (k.banks[i]?).map fun b => (i, b)
  | none => none

/-- Whether a table load of a warp of a block admission is still filling (R361). -/
def Core.fillingBy (k : Core) (adm w : Nat) : Bool :=
  k.banks.any fun b => match b.filling with
    | some f => f.adm == adm && f.w == w
    | none => false

/-- TBLEVAL (R361): it waits for its warp's own load, binds the current bank of its block, and delivers R358 from it;
the binding reads the table object (R362). -/
def execTbleval (w : LaneW) (s : State) : Host.Outcome State Fault Refusal :=
  laneWordOp (.tbleval w) w s fun c b t act =>
    let k := s.coreAt c.core
    let issuer := issuerOf c.bctx c.w
    if act = 0 then s.retire c c.lanes
    else if k.fillingBy b.adm c.w || s.heldBack c.core c.bctx c.w b.adm act || !s.mayStart c.core issuer (lowestLane c.lanes) then
      s.stall c
    else match k.currentBank with
      | none => s.trapWord c b t .tableInvalid act
      | some (i, bank) =>
        if bank.owner ≠ some b.adm then s.trapWord c b t .tableInvalid act
        else
          let res := fun l => tableValue bank.image (srcW t b w.sa w.lit l).toNat
          let bad := fpBad c t act res
          let ok := act &&& ~~~bad
          let s1 := (s.noteUnis c b (laneUnis (.tbleval w) w) false).note c.core issuer (lowestLane c.lanes)
            (objTable c.core) false none none
          let s2 := s1.modThr c.core c.bctx c.w fun t => { t with frm := setSticky t.frm (fpFlags ok res) }
          let s3 := if ok = 0 then s2
            else s2.setCore c.core { k with banks := lmod i (fun b => { b with bound := b.bound + 1 }) k.banks }
          (s3.sendSfu c b w.vd.toNat ok (fun l => (res l).val) (some i)).retireFp c bad (fpFlags bad res)

/-- SPECIAL_FUNCTION_RESULT (R171, R357, R359): the result lands, VD becomes full and its table bank is unbound.
Argument: the result in `a`. -/
def execSpecialFunctionResult (s : State) : Host.Outcome State Fault Refusal :=
  .next (match s.sfu.find? fun r => r.id == s.arg.a with
    | none => s
    | some r =>
      let s1 := { s with sfu := s.sfu.filter fun q => q.id != r.id }
      let s2 := match r.bank with
        | some i =>
          let k := s1.coreAt r.core
          s1.setCore r.core { k with banks := lmod i (fun b => { b with bound := b.bound - 1 }) k.banks }
        | none => s1
      match s2.blk? r.core r.bctx with
      | none => s2
      | some b =>
        if b.adm ≠ r.adm then s2
        else
          let waits := (b.thr? r.w).any fun t => t.lanes.any fun l => l.stat == .blocked (.emptyReg false r.vd)
          (s2.modThr r.core r.bctx r.w fun t =>
            (t.putRow r.vd (lanesMask (r.vals.map (·.1))) fun l =>
              ((r.vals.find? fun p => p.1 == l).map (·.2)).getD 0).fill [r.vd]).modBlk r.core r.bctx fun b =>
                if waits then { b with tokenHolder := r.w, tokenEdge := 3 } else b)

end Sys2Proof.Machine
end

