-- ==== Sys2Proof/Machine/Table.lean ====
section
/-! DEFINITION. Loading an activation table: TBLLOAD and the completion of its fill (R358 to R362). -/

namespace Sys2Proof.Machine

/-- The checks of a table image's units of 16 bytes, the first that does not pass deciding (R360). -/
def State.tableCheck (s : State) (c : Cur) (b : Blk) (m : Mmu) (va : DWord) : LaneChk × DWord :=
  let f : MemForm := { kind := .load, ak := .read, bytes := 16 }
  if isWindow va || !canonicalVa va then (.fault .addressSpace, va)
  else if va.toNat % 16 ≠ 0 then (.fault .alignment, va)
  else
    let units := (List.range 257).map fun i => va + BitVec.ofNat 64 (16 * i)
    let bad := units.filterMap fun v =>
      if isWindow v then some (LaneChk.fault .addressSpace, v)
      else match s.laneCheck c b m f v with
        | .ok _ _ _ => none
        | x => some (x, v)
    bad.headD (.ok .mem 0 none, va)

/-- The loads that bring a table image (R360, R362): one for each line of the address space that the image lies in, of its units of 16
bytes; each stands for all the active lanes.  DESIGN CHOICE: a unit is named in its load, and in a VALUE record, by its number modulo 32 (log
entry 47). -/
def State.tableReqs (s : State) (c : Cur) (b : Blk) (t : Thr) (va : DWord) (act : Word) : List Req :=
  let f : MemForm := { kind := .load, ak := .read, bytes := 16, dst := .tbl s.nextId }
  let units := (List.range 257).filterMap fun i =>
    let v := va + BitVec.ofNat 64 (16 * i)
    match s.laneCheck c b (c.mmu b (t.privileged c.lanes)) f v with
    | .ok h a l => some { lane := i % 32, va := v, gva := v, h := h, a := a, l := l, param := false : LaneGo }
    | _ => none
  (units.map fun g => g.va.toNat / 128).eraseDups.mapIdx fun i x =>
    { reqOf c b t f (t.privileged c.lanes) (s.nextId + i) (fun _ => 0) (fun _ => 0) (units.filter fun g => g.va.toNat / 128 == x) with
      mask := act }

/-- TBLLOAD (R360): the image is checked, then a bank that is neither current nor bound starts filling, by loads of the issuing
party.  DESIGN CHOICE: where no bank is current both are non-current; the lowest free one is filled, and a second load may fill the
other meanwhile (log entry 47). -/
def execTblload (w : LaneW) (s : State) : Host.Outcome State Fault Refusal :=
  laneWordOp (.tblload w) w s fun c b t act =>
    let priv := t.privileged c.lanes
    let va := b.sreg (w.sa.toNat - 128)
    let k := s.coreAt c.core
    if act = 0 then s.retire c c.lanes
    else
      let (chk, at') := s.tableCheck c b (c.mmu b priv) va
      let bad (cause : Cause) (page : Option Nat) : State :=
        ((s.retire c (c.lanes &&& ~~~act)).memFault c ((maskLanes act).map fun l => (l, cause, at')) fun _ => page)
      match chk with
      | .walk v => (s.startWalk (c.mmu b priv) v .read (c.site t)).stall c
      | .miss p => bad .translationMiss (some p)
      | .fault e => bad e none
      | .ok _ _ _ =>
        let rs := s.tableReqs c b t va act
        if s.heldBack c.core c.bctx c.w b.adm act || !s.mayStart c.core (issuerOf c.bctx c.w) (lowestLane c.lanes) || !s.roomFor c b.adm rs then s.stall c
        else match findIx (fun x : TblBank => !x.current && x.free) k.banks with
          | none => s.block c c.lanes .tblload
          | some i =>
            let gen := k.gen + 1
            let fill : TblFill := { adm := b.adm, w := c.w, first := s.nextId }
            let s1 := rs.foldl (fun s r => s.touchTlb (c.mmu b priv) ((r.ops.head?).elim va fun o => o.gva)) s
            (((s1.noteUnis c b (laneUnis (.tblload w) w) false).setCore c.core
              { k with gen := gen, banks := lmod i (fun x => { x with gen := gen, filling := some fill }) k.banks }).addReqs c b.adm 0
                rs).retire c c.lanes

/-- The loads of a fill, in the order of the image. -/
def State.fillReqs (s : State) (f : TblFill) : List Req := s.reqs.filter fun r => r.dst == .tbl f.first

/-- Whether every load of a fill has been answered. -/
def State.fillDone (s : State) (f : TblFill) : Bool := (s.fillReqs f).all fun r => r.stage == .served

/-- The image that a fill's loads have brought. -/
def tableImage (rs : List Req) : List Byte :=
  (rs.map fun r => (r.ops.map fun o => leBytes 16 ((r.got.find? fun g => g.1 == o.lane).elim 0 fun g => g.2.toNat)).flatten).flatten

/-- TBLLOAD_FILL_COMPLETE (R360): argument `a` names the core.  A fill whose loads have all been answered ends: its bank becomes
current, which writes the table object (R362), or the failure of its first load that failed is raised in the issuing lanes. -/
def execTblloadFillComplete (s : State) : Host.Outcome State Fault Refusal :=
  let core := s.arg.a
  let k := s.coreAt core
  let freed (i : Nat) : Core := { k with banks := lmod i (fun x => { x with filling := none }) k.banks }
  match findIx (fun x : TblBank => x.filling.any s.fillDone) k.banks with
  | none => .next s
  | some i => match (k.banks[i]?).bind fun x => x.filling with
    | none => .next s
    | some f => match s.blkOf f.adm, s.fillReqs f with
      | some (key, _), r :: rs =>
        let s1 : State := { s with reqs := s.reqs.filter fun r => r.dst != .tbl f.first }
        if !s.mayOp (key / 16) (issuerOf (key % 16) f.w) r.low then .next s
        else match (r :: rs).find? fun q => q.err.isSome with
          | some q => .next (if s.canFault q then (s1.setCore core (freed i)).landFault q (q.err.getD .poisonConsumed) else s)
          | none =>
            let banks := k.banks.mapIdx fun j x =>
              if j = i then { x with image := tableImage (r :: rs), owner := some f.adm, filling := none, current := true }
              else { x with current := false }
            .next ((s1.setCore core { k with banks := banks }).note (key / 16) (issuerOf (key % 16) f.w) r.low (objTable core) true none none)
      | _, _ => .next (s.setCore core (freed i))

end Sys2Proof.Machine
end

