-- ==== Sys2Proof/Machine/Dispatch.lean ====
section
/-! DEFINITION. One arm per instruction and event: the call of its meaning, or its rejection by name. -/

namespace Sys2Proof.Machine

def exec (i : Instr) (s : State) : Host.Outcome State Fault Refusal :=
  match i with
  | .nop z => Sys2Proof.Machine.execNop z s
  | .rep w => Sys2Proof.Machine.execRep w s
  | .mov w => Sys2Proof.Machine.execMov w s
  | .iadd w => Sys2Proof.Machine.execIadd w s
  | .isub w => Sys2Proof.Machine.execIsub w s
  | .iadds w => Sys2Proof.Machine.execIadds w s
  | .isubs w => Sys2Proof.Machine.execIsubs w s
  | .iaddus w => Sys2Proof.Machine.execIaddus w s
  | .isubus w => Sys2Proof.Machine.execIsubus w s
  | .imul w => Sys2Proof.Machine.execImul w s
  | .imulh w => Sys2Proof.Machine.execImulh w s
  | .imulhu w => Sys2Proof.Machine.execImulhu w s
  | .imad w => Sys2Proof.Machine.execImad w s
  | .imadw w => Sys2Proof.Machine.execImadw w s
  | .iadd64 w => Sys2Proof.Machine.execIadd64 w s
  | .isub64 w => Sys2Proof.Machine.execIsub64 w s
  | .ineg w => Sys2Proof.Machine.execIneg w s
  | .iabs w => Sys2Proof.Machine.execIabs w s
  | .imin w => Sys2Proof.Machine.execImin w s
  | .imax w => Sys2Proof.Machine.execImax w s
  | .iminu w => Sys2Proof.Machine.execIminu w s
  | .imaxu w => Sys2Proof.Machine.execImaxu w s
  | .and w => Sys2Proof.Machine.execAnd w s
  | .or w => Sys2Proof.Machine.execOr w s
  | .xor w => Sys2Proof.Machine.execXor w s
  | .andn w => Sys2Proof.Machine.execAndn w s
  | .orn w => Sys2Proof.Machine.execOrn w s
  | .shl w => Sys2Proof.Machine.execShl w s
  | .shr w => Sys2Proof.Machine.execShr w s
  | .sar w => Sys2Proof.Machine.execSar w s
  | .rotl w => Sys2Proof.Machine.execRotl w s
  | .fshl w x => Sys2Proof.Machine.execFshl w x s
  | .bfe w => Sys2Proof.Machine.execBfe w s
  | .bfeu w => Sys2Proof.Machine.execBfeu w s
  | .bfi w => Sys2Proof.Machine.execBfi w s
  | .popc w => Sys2Proof.Machine.execPopc w s
  | .clz w => Sys2Proof.Machine.execClz w s
  | .ctz w => Sys2Proof.Machine.execCtz w s
  | .brev w => Sys2Proof.Machine.execBrev w s
  | .permb w => Sys2Proof.Machine.execPermb w s
  | .clmul w => Sys2Proof.Machine.execClmul w s
  | .clmulh w => Sys2Proof.Machine.execClmulh w s
  | .idot4 w => Sys2Proof.Machine.execIdot4 w s
  | .idot4u w => Sys2Proof.Machine.execIdot4u w s
  | .icmp w => Sys2Proof.Machine.execIcmp w s
  | .icmpu w => Sys2Proof.Machine.execIcmpu w s
  | .plog w => Sys2Proof.Machine.execPlog w s
  | .sel w => Sys2Proof.Machine.execSel w s
  | .sxt w => Sys2Proof.Machine.execSxt w s
  | .zxt w => Sys2Proof.Machine.execZxt w s
  | .lea w => Sys2Proof.Machine.execLea w s
  | .movpToRegister w => Sys2Proof.Machine.execMovpToRegister w s
  | .movpToPredicates w => Sys2Proof.Machine.execMovpToPredicates w s
  | .fadd w => Sys2Proof.Machine.execFadd w s
  | .fsub w => Sys2Proof.Machine.execFsub w s
  | .fmul w => Sys2Proof.Machine.execFmul w s
  | .ffma w => Sys2Proof.Machine.execFfma w s
  | .ffma3 w x => Sys2Proof.Machine.execFfma3 w x s
  | .fmin w => Sys2Proof.Machine.execFmin w s
  | .fmax w => Sys2Proof.Machine.execFmax w s
  | .fminnum w => Sys2Proof.Machine.execFminnum w s
  | .fmaxnum w => Sys2Proof.Machine.execFmaxnum w s
  | .fabs w => Sys2Proof.Machine.execFabs w s
  | .fneg w => Sys2Proof.Machine.execFneg w s
  | .fcmp w => Sys2Proof.Machine.execFcmp w s
  | .fclass w => Sys2Proof.Machine.execFclass w s
  | .frnd w => Sys2Proof.Machine.execFrnd w s
  | .fldexp w => Sys2Proof.Machine.execFldexp w s
  | .fgetexp w => Sys2Proof.Machine.execFgetexp w s
  | .cvtfi w => Sys2Proof.Machine.execCvtfi w s
  | .cvtfu w => Sys2Proof.Machine.execCvtfu w s
  | .cvtif w => Sys2Proof.Machine.execCvtif w s
  | .cvtuf w => Sys2Proof.Machine.execCvtuf w s
  | .cvtff w x => Sys2Proof.Machine.execCvtff w x s
  | .pack8 w x => Sys2Proof.Machine.execPack8 w x s
  | .unpack8 w x => Sys2Proof.Machine.execUnpack8 w x s
  | .hadd2 w => Sys2Proof.Machine.execHadd2 w s
  | .hmul2 w => Sys2Proof.Machine.execHmul2 w s
  | .hfma2 w => Sys2Proof.Machine.execHfma2 w s
  | .badd2 w => Sys2Proof.Machine.execBadd2 w s
  | .bmul2 w => Sys2Proof.Machine.execBmul2 w s
  | .bfma2 w => Sys2Proof.Machine.execBfma2 w s
  | .dadd w => Sys2Proof.Machine.execDadd w s
  | .dmul w => Sys2Proof.Machine.execDmul w s
  | .dfma w => Sys2Proof.Machine.execDfma w s
  | .dmin w => Sys2Proof.Machine.execDmin w s
  | .dmax w => Sys2Proof.Machine.execDmax w s
  | .dcmp w => Sys2Proof.Machine.execDcmp w s
  | .cvtdf w => Sys2Proof.Machine.execCvtdf w s
  | .cvtfd w => Sys2Proof.Machine.execCvtfd w s
  | .frcp w => Sys2Proof.Machine.execFrcp w s
  | .frsq w => Sys2Proof.Machine.execFrsq w s
  | .fsqrt w => Sys2Proof.Machine.execFsqrt w s
  | .fexp2 w => Sys2Proof.Machine.execFexp2 w s
  | .flog2 w => Sys2Proof.Machine.execFlog2 w s
  | .fsinpi w => Sys2Proof.Machine.execFsinpi w s
  | .fcospi w => Sys2Proof.Machine.execFcospi w s
  | .ftanh w => Sys2Proof.Machine.execFtanh w s
  | .tbleval w => Sys2Proof.Machine.execTbleval w s
  | .tblload w => Sys2Proof.Machine.execTblload w s
  | .shfl w x => Sys2Proof.Machine.execShfl w x s
  | .shflup w x => Sys2Proof.Machine.execShflup w x s
  | .shfldn w x => Sys2Proof.Machine.execShfldn w x s
  | .shflx w x => Sys2Proof.Machine.execShflx w x s
  | .voteall w x => Sys2Proof.Machine.execVoteall w x s
  | .voteany w x => Sys2Proof.Machine.execVoteany w x s
  | .ballot w x => Sys2Proof.Machine.execBallot w x s
  | .matchLane w x => Sys2Proof.Machine.execMatchLane w x s
  | .elect w x => Sys2Proof.Machine.execElect w x s
  | .redadd w x => Sys2Proof.Machine.execRedadd w x s
  | .redmin w x => Sys2Proof.Machine.execRedmin w x s
  | .redmax w x => Sys2Proof.Machine.execRedmax w x s
  | .redminu w x => Sys2Proof.Machine.execRedminu w x s
  | .redmaxu w x => Sys2Proof.Machine.execRedmaxu w x s
  | .redand w x => Sys2Proof.Machine.execRedand w x s
  | .redor w x => Sys2Proof.Machine.execRedor w x s
  | .redxor w x => Sys2Proof.Machine.execRedxor w x s
  | .fredadd w x => Sys2Proof.Machine.execFredadd w x s
  | .fredmax w x => Sys2Proof.Machine.execFredmax w x s
  | .scanadd w x => Sys2Proof.Machine.execScanadd w x s
  | .scanxor w x => Sys2Proof.Machine.execScanxor w x s
  | .scanmax w x => Sys2Proof.Machine.execScanmax w x s
  | .ld w x => Sys2Proof.Machine.execLd w x s
  | .st w x => Sys2Proof.Machine.execSt w x s
  | .lds w x => Sys2Proof.Machine.execLds w x s
  | .sts w x => Sys2Proof.Machine.execSts w x s
  | .atom w x => Sys2Proof.Machine.execAtom w x s
  | .atomcas w x => Sys2Proof.Machine.execAtomcas w x s
  | .red w x => Sys2Proof.Machine.execRed w x s
  | .atoms w x => Sys2Proof.Machine.execAtoms w x s
  | .atomscas w x => Sys2Proof.Machine.execAtomscas w x s
  | .cadd w x => Sys2Proof.Machine.execCadd w x s
  | .fence w x => Sys2Proof.Machine.execFence w x s
  | .codepub w x => Sys2Proof.Machine.execCodepub w x s
  | .waitaddr w x => Sys2Proof.Machine.execWaitaddr w x s
  | .wakeaddr w x => Sys2Proof.Machine.execWakeaddr w x s
  | .pref w x => Sys2Proof.Machine.execPref w x s
  | .wbl w x => Sys2Proof.Machine.execWbl w x s
  | .invl w x => Sys2Proof.Machine.execInvl w x s
  | .tagld w x => Sys2Proof.Machine.execTagld w x s
  | .tagst w x => Sys2Proof.Machine.execTagst w x s
  | .accrd w x => Sys2Proof.Machine.execAccrd w x s
  | .accwr w x => Sys2Proof.Machine.execAccwr w x s
  | .bra w => Sys2Proof.Machine.execBra w s
  | .brx w => Sys2Proof.Machine.execBrx w s
  | .call w => Sys2Proof.Machine.execCall w s
  | .ret w => Sys2Proof.Machine.execRet w s
  | .setmrLabel w => Sys2Proof.Machine.execSetmrLabel w s
  | .setmrRegister w => Sys2Proof.Machine.execSetmrRegister w s
  | .loop w => Sys2Proof.Machine.execLoop w s
  | .loopbrk w => Sys2Proof.Machine.execLoopbrk w s
  | .exit z => Sys2Proof.Machine.execExit z s
  | .smov w => Sys2Proof.Machine.execSmov w s
  | .sadd w => Sys2Proof.Machine.execSadd w s
  | .ssub w => Sys2Proof.Machine.execSsub w s
  | .smul w => Sys2Proof.Machine.execSmul w s
  | .sand w => Sys2Proof.Machine.execSand w s
  | .sor w => Sys2Proof.Machine.execSor w s
  | .sxor w => Sys2Proof.Machine.execSxor w s
  | .sshl w => Sys2Proof.Machine.execSshl w s
  | .sshr w => Sys2Proof.Machine.execSshr w s
  | .ssar w => Sys2Proof.Machine.execSsar w s
  | .smin w => Sys2Proof.Machine.execSmin w s
  | .smax w => Sys2Proof.Machine.execSmax w s
  | .scmp w => Sys2Proof.Machine.execScmp w s
  | .sbr w => Sys2Proof.Machine.execSbr w s
  | .sld w => Sys2Proof.Machine.execSld w s
  | .sst w => Sys2Proof.Machine.execSst w s
  | .v2s w => Sys2Proof.Machine.execV2s w s
  | .barinit w => Sys2Proof.Machine.execBarinit w s
  | .bar w => Sys2Proof.Machine.execBar w s
  | .bara w => Sys2Proof.Machine.execBara w s
  | .barw w => Sys2Proof.Machine.execBarw w s
  | .tokwait w => Sys2Proof.Machine.execTokwait w s
  | .phreg w => Sys2Proof.Machine.execPhreg w s
  | .phdrop w => Sys2Proof.Machine.execPhdrop w s
  | .phsig w => Sys2Proof.Machine.execPhsig w s
  | .phwait w => Sys2Proof.Machine.execPhwait w s
  | .phnext w => Sys2Proof.Machine.execPhnext w s
  | .tlsig w => Sys2Proof.Machine.execTlsig w s
  | .tlwait w => Sys2Proof.Machine.execTlwait w s
  | .tlread w => Sys2Proof.Machine.execTlread w s
  | .stage w => Sys2Proof.Machine.execStage w s
  | .sread w => Sys2Proof.Machine.execSread w s
  | .swrite w => Sys2Proof.Machine.execSwrite w s
  | .slotq w => Sys2Proof.Machine.execSlotq w s
  | .trap w => Sys2Proof.Machine.execTrap w s
  | .bkpt w => Sys2Proof.Machine.execBkpt w s
  | .poolb w => Sys2Proof.Machine.execPoolb w s
  | .tret z => Sys2Proof.Machine.execTret z s
  | .yield z => Sys2Proof.Machine.execYield z s
  | .cfgbank w => Sys2Proof.Machine.execCfgbank w s
  | .mma w => Sys2Proof.Machine.execMma w s
  | .mmai w => Sys2Proof.Machine.execMmai w s
  | .mzero w => Sys2Proof.Machine.execMzero w s
  | .scld w => Sys2Proof.Machine.execScld w s
  | .mstore w => Sys2Proof.Machine.execMstore w s
  | .mload w => Sys2Proof.Machine.execMload w s
  | .trel w => Sys2Proof.Machine.execTrel w s
  | .tacq w => Sys2Proof.Machine.execTacq w s
  | .mwait w => Sys2Proof.Machine.execMwait w s
  | .cpy w x y => Sys2Proof.Machine.execCpy w x y s
  | .cpym w x y => Sys2Proof.Machine.execCpym w x y s
  | .cpyp w x y => Sys2Proof.Machine.execCpyp w x y s
  | .cpyx w x y => Sys2Proof.Machine.execCpyx w x y s
  | .cpyr w x y => Sys2Proof.Machine.execCpyr w x y s
  | .cpymc w x y => Sys2Proof.Machine.execCpymc w x y s
  | .cpyg w x y => Sys2Proof.Machine.execCpyg w x y s
  | .cpys w x y => Sys2Proof.Machine.execCpys w x y s
  | .coll w x => Sys2Proof.Machine.execColl w x s
  | .stagew w x => Sys2Proof.Machine.execStagew w x s
  | .tset w x1 x2 => Sys2Proof.Machine.execTset w x1 x2 s
  | .cpyfill w x y => Sys2Proof.Machine.execCpyfill w x y s
  | .powerOn => Sys2Proof.Machine.execPowerOn s
  | .coldReset => Sys2Proof.Machine.execColdReset s
  | .fatalReset => Sys2Proof.Machine.execFatalReset s
  | .bootRomStart => Sys2Proof.Machine.execBootRomStart s
  | .hostLinkUp => Sys2Proof.Machine.execHostLinkUp s
  | .fwctlGo => Sys2Proof.Machine.execFwctlGo s
  | .firmwareCheckDone => Sys2Proof.Machine.execFirmwareCheckDone s
  | .kindlingModeEnter => Sys2Proof.Machine.execKindlingModeEnter s
  | .fullServiceEnter => Sys2Proof.Machine.execFullServiceEnter s
  | .resetctlWarm => Sys2Proof.Machine.execResetctlWarm s
  | .registerWrite => Sys2Proof.Machine.execRegisterWrite s
  | .frameBoundary => Sys2Proof.Machine.execFrameBoundary s
  | .calctlCommit => Sys2Proof.Machine.execCalctlCommit s
  | .calendarValidationDone => Sys2Proof.Machine.execCalendarValidationDone s
  | .slotStartTest => Sys2Proof.Machine.execSlotStartTest s
  | .slotEnd => Sys2Proof.Machine.execSlotEnd s
  | .podTimestampExchange => Sys2Proof.Machine.execPodTimestampExchange s
  | .powerLimitCrossed => Sys2Proof.Machine.execPowerLimitCrossed s
  | .vilbinFlitReceive => Sys2Proof.Machine.execVilbinFlitReceive s
  | .flitReplayRequest => Sys2Proof.Machine.execFlitReplayRequest s
  | .vcStopGo => Sys2Proof.Machine.execVcStopGo s
  | .vilbinPortDown => Sys2Proof.Machine.execVilbinPortDown s
  | .inboundMessage => Sys2Proof.Machine.execInboundMessage s
  | .peerResponseReceive => Sys2Proof.Machine.execPeerResponseReceive s
  | .windowMergedResult => Sys2Proof.Machine.execWindowMergedResult s
  | .windowRoundTimeout => Sys2Proof.Machine.execWindowRoundTimeout s
  | .windowOpenAck => Sys2Proof.Machine.execWindowOpenAck s
  | .capacityTierCompletion => Sys2Proof.Machine.execCapacityTierCompletion s
  | .hostSnoop => Sys2Proof.Machine.execHostSnoop s
  | .hostMemoryAccess => Sys2Proof.Machine.execHostMemoryAccess s
  | .hostLinkCompletion => Sys2Proof.Machine.execHostLinkCompletion s
  | .atsCompletion => Sys2Proof.Machine.execAtsCompletion s
  | .priResponse => Sys2Proof.Machine.execPriResponse s
  | .atsInvalidationRequest => Sys2Proof.Machine.execAtsInvalidationRequest s
  | .hostAtomicCasAttempt => Sys2Proof.Machine.execHostAtomicCasAttempt s
  | .managementSpdmRequest => Sys2Proof.Machine.execManagementSpdmRequest s
  | .nuntaokRequest => Sys2Proof.Machine.execNuntaokRequest s
  | .hbmAlert => Sys2Proof.Machine.execHbmAlert s
  | .homeAccessServe => Sys2Proof.Machine.execHomeAccessServe s
  | .memcfgCacheWrite => Sys2Proof.Machine.execMemcfgCacheWrite s
  | .memcfgChangeDone => Sys2Proof.Machine.execMemcfgChangeDone s
  | .ctxctlKill => Sys2Proof.Machine.execCtxctlKill s
  | .ctxctlEnClear => Sys2Proof.Machine.execCtxctlEnClear s
  | .ctxctlEnSet => Sys2Proof.Machine.execCtxctlEnSet s
  | .contextKill => Sys2Proof.Machine.execContextKill s
  | .killComplete => Sys2Proof.Machine.execKillComplete s
  | .ctxrootWrite => Sys2Proof.Machine.execCtxrootWrite s
  | .ctxresumeRetry => Sys2Proof.Machine.execCtxresumeRetry s
  | .ctxresumeKill => Sys2Proof.Machine.execCtxresumeKill s
  | .ctxinvalAll => Sys2Proof.Machine.execCtxinvalAll s
  | .invalidationComplete => Sys2Proof.Machine.execInvalidationComplete s
  | .watchdogExpiry => Sys2Proof.Machine.execWatchdogExpiry s
  | .sqctlEnSet => Sys2Proof.Machine.execSqctlEnSet s
  | .kickWrite => Sys2Proof.Machine.execKickWrite s
  | .queueEntryExamine => Sys2Proof.Machine.execQueueEntryExamine s
  | .rungraph => Sys2Proof.Machine.execRungraph s
  | .tlsignal => Sys2Proof.Machine.execTlsignal s
  | .hostTlwait => Sys2Proof.Machine.execHostTlwait s
  | .marker => Sys2Proof.Machine.execMarker s
  | .invtlb => Sys2Proof.Machine.execInvtlb s
  | .winopen => Sys2Proof.Machine.execWinopen s
  | .winclose => Sys2Proof.Machine.execWinclose s
  | .commandComplete => Sys2Proof.Machine.execCommandComplete s
  | .gangDispatch => Sys2Proof.Machine.execGangDispatch s
  | .copyNodeDispatch => Sys2Proof.Machine.execCopyNodeDispatch s
  | .collNodeDispatch => Sys2Proof.Machine.execCollNodeDispatch s
  | .gangMakeResident => Sys2Proof.Machine.execGangMakeResident s
  | .blockParkComplete => Sys2Proof.Machine.execBlockParkComplete s
  | .blockRestore => Sys2Proof.Machine.execBlockRestore s
  | .parkedReplyLanding => Sys2Proof.Machine.execParkedReplyLanding s
  | .nodePreload => Sys2Proof.Machine.execNodePreload s
  | .nodeCompletionReport => Sys2Proof.Machine.execNodeCompletionReport s
  | .forwardingStep => Sys2Proof.Machine.execForwardingStep s
  | .nodeRetire => Sys2Proof.Machine.execNodeRetire s
  | .condEvaluate => Sys2Proof.Machine.execCondEvaluate s
  | .loopNodeTest => Sys2Proof.Machine.execLoopNodeTest s
  | .signalNode => Sys2Proof.Machine.execSignalNode s
  | .waitNode => Sys2Proof.Machine.execWaitNode s
  | .hostcallNode => Sys2Proof.Machine.execHostcallNode s
  | .controlCoreTakeover => Sys2Proof.Machine.execControlCoreTakeover s
  | .translationWalkComplete => Sys2Proof.Machine.execTranslationWalkComplete s
  | .recordModeOff => Sys2Proof.Machine.execRecordModeOff s
  | .recordModeStart => Sys2Proof.Machine.execRecordModeStart s
  | .replayModeStart => Sys2Proof.Machine.execReplayModeStart s
  | .recctlCkreq => Sys2Proof.Machine.execRecctlCkreq s
  | .checkpointComplete => Sys2Proof.Machine.execCheckpointComplete s
  | .recctlResume => Sys2Proof.Machine.execRecctlResume s
  | .chunkIdleClose => Sys2Proof.Machine.execChunkIdleClose s
  | .conflictSignal => Sys2Proof.Machine.execConflictSignal s
  | .recorderPageWrite => Sys2Proof.Machine.execRecorderPageWrite s
  | .replayStallTimeout => Sys2Proof.Machine.execReplayStallTimeout s
  | .replayMessageTimeout => Sys2Proof.Machine.execReplayMessageTimeout s
  | .traceSeriesLatch => Sys2Proof.Machine.execTraceSeriesLatch s
  | .criticalPathSample => Sys2Proof.Machine.execCriticalPathSample s
  | .stepctlHalt => Sys2Proof.Machine.execStepctlHalt s
  | .stepctlStep => Sys2Proof.Machine.execStepctlStep s
  | .stepDone => Sys2Proof.Machine.execStepDone s
  | .stepctlRun => Sys2Proof.Machine.execStepctlRun s
  | .clauseIssue => Sys2Proof.Machine.execClauseIssue s
  | .asyncTrapDeliver => Sys2Proof.Machine.execAsyncTrapDeliver s
  | .replyLanding => Sys2Proof.Machine.execReplyLanding s
  | .storeAcknowledge => Sys2Proof.Machine.execStoreAcknowledge s
  | .bankRequestServe => Sys2Proof.Machine.execBankRequestServe s
  | .bankModeChangeDone => Sys2Proof.Machine.execBankModeChangeDone s
  | .engineSegmentAdmit => Sys2Proof.Machine.execEngineSegmentAdmit s
  | .engineSegmentComplete => Sys2Proof.Machine.execEngineSegmentComplete s
  | .writerListRoom => Sys2Proof.Machine.execWriterListRoom s
  | .stageDeadlockDetect => Sys2Proof.Machine.execStageDeadlockDetect s
  | .matrixCommandComplete => Sys2Proof.Machine.execMatrixCommandComplete s
  | .tblloadFillComplete => Sys2Proof.Machine.execTblloadFillComplete s
  | .releaseComplete => Sys2Proof.Machine.execReleaseComplete s
  | .wakeaddrHomeAct => Sys2Proof.Machine.execWakeaddrHomeAct s
  | .codepubComplete => Sys2Proof.Machine.execCodepubComplete s
  | .collectiveComplete => Sys2Proof.Machine.execCollectiveComplete s
  | .collectivePeerTimeout => Sys2Proof.Machine.execCollectivePeerTimeout s
  | .managementWarmReset => Sys2Proof.Machine.execManagementWarmReset s
  | .replayPayloadDelivery => Sys2Proof.Machine.execReplayPayloadDelivery s
  | .specialFunctionResult => Sys2Proof.Machine.execSpecialFunctionResult s

end Sys2Proof.Machine
end

