-- ==== Sys2Proof/Machine/Engine.lean ====
section
/-! DEFINITION. Which event of the package itself comes next when nothing is brought from outside, the rotation over the parties (log
entry 6), and what every tick brings along. -/

namespace Sys2Proof.Machine

/-- Every party of every block, in order. -/
def State.parties (s : State) : List (Nat × Nat × Nat) :=
  (s.blks.map fun p => p.2.thrs.map fun q => (p.1 / 16, p.1 % 16, q.1)).flatten

/-- The matrix stream of a core that has been ready longest (R153). -/
def State.oldestStream (s : State) (core : Nat) : Option (Nat × Nat × Nat) :=
  (s.blks.filter fun p => p.1 / 16 == core).foldl
    (fun best p => match (p.2.thr? 32).bind fun t => t.since with
      | none => best
      | some n => match best with
        | some (m, k) => if n < m then some (n, (core, p.1 % 16, 32)) else some (m, k)
        | none => some (n, (core, p.1 % 16, 32)))
    (none : Option (Nat × Nat × Nat × Nat)) |>.map (·.2)

/-- The party whose turn it is: in rotation, but of the matrix streams of one core the one that has been ready longest (R153). -/
def State.turnOf (s : State) : Option (Nat × Nat × Nat) :=
  match s.parties[s.rr / 2 % s.parties.length]? with
  | some (core, bctx, 32) => some ((s.oldestStream core).getD (core, bctx, 32))
  | x => x

/-! ### Events that need nothing from outside -/

/-- An event that brings nothing. -/
def ev (i : Instr) : Instr × EvArg := (i, { a := 0 })
/-- An event that names up to three numbers. -/
def evAt (i : Instr) (a : Nat) (b : Nat := 0) (c : Nat := 0) : Instr × EvArg := (i, { a := a, b := b, c := c })

/-- Events of the package as a whole. -/
def State.packageEvents (s : State) : List (Instr × EvArg) :=
  [ev .bootRomStart, ev .frameBoundary]
    ++ (if s.dev.fwBusy then [ev .firmwareCheckDone] else [])
    ++ (if s.dev.stage = 2 then [ev .kindlingModeEnter] else [])
    ++ (if s.stoker.forwarding then [] else [evAt .controlCoreTakeover 0 1])
    ++ (if s.cal.busy then [ev .calendarValidationDone] else [])
    ++ (List.range s.cal.cur.entries.length).map (fun k => evAt .slotStartTest k)
    ++ s.cal.slots.map (fun r => evAt .slotEnd (r.entry))
    ++ (if s.mem.cacheBusy then [ev .memcfgChangeDone] else [])
    ++ (List.range 24).flatMap (fun p => [evAt .inboundMessage p, evAt .inboundMessage p 2, evAt .peerResponseReceive p])
    ++ s.links.windows.flatMap fun w => w.2.pend.map fun x => evAt .windowRoundTimeout (w.1) (x.elem) (x.round)

/-- The event that carries out an accepted host command (R73). -/
def HCmd.event (h : HCmd) : List (Instr × EvArg) :=
  let arg : EvArg := { a := h.slot, v := zext 64 h.seq }
  (match h.opc.toNat with
    | 1 => [(.rungraph, arg)]
    | 2 => [(.tlsignal, arg)]
    | 3 => [(.hostTlwait, arg)]
    | 4 => [(.marker, arg)]
    | 5 => [(.invtlb, arg)]
    | 6 => [(.winopen, arg)]
    | 7 => [(.winclose, arg)]
    | _ => []) ++ [(.commandComplete, arg)]

/-- Events of contexts, queue slots, commands and translation. -/
def State.hostEvents (s : State) : List (Instr × EvArg) :=
  (s.host.ctxs.filter fun p => p.2.killing).map (fun p => evAt .killComplete (p.1))
    ++ s.xl.invals.map (fun k => evAt .invalidationComplete (k.id))
    ++ s.xl.walks.map (fun k => evAt .translationWalkComplete (k.id))
    ++ (s.host.slots.filter fun p => p.2.kick).map (fun p => evAt .queueEntryExamine (p.1))
    ++ s.host.cmds.flatMap HCmd.event

/-- The events of a node. -/
def ArmNode.events (n : ArmNode) : List (Instr × EvArg) :=
  let arg : EvArg := { a := n.addr.toNat, b := n.slot }
  [(.nodeCompletionReport, arg), (.nodePreload, arg)] ++ match n.kind with
    | 4 => [(.condEvaluate, arg)]
    | 5 => [(.loopNodeTest, arg)]
    | 6 => [(.signalNode, arg)]
    | 7 => [(.waitNode, arg)]
    | 8 => [(.hostcallNode, arg)]
    | _ => []

/-- Events of the Stoker. -/
def State.stokerEvents (s : State) : List (Instr × EvArg) :=
  (if s.stoker.nodes.isEmpty then [] else
    [ev .gangDispatch, ev .copyNodeDispatch, ev .collNodeDispatch, ev .forwardingStep, ev .nodeRetire])
    ++ (s.stoker.gangs.map fun g => g.cluster).eraseDups.map (fun c => evAt .gangMakeResident c)
    ++ s.stoker.nodes.flatMap ArmNode.events

/-- Events of blocks. -/
def State.blockEvents (s : State) : List (Instr × EvArg) :=
  s.blks.flatMap fun p =>
    let arg : EvArg := { a := p.1 / 16, b := p.1 % 16 }
    [(.watchdogExpiry, arg), (.blockParkComplete, arg), (.blockRestore, arg), (.stageDeadlockDetect, arg)]
      ++ (p.2.thrs.filter fun q => !q.2.asyncQ.isEmpty || q.2.tagRec.isSome).map fun q => (.asyncTrapDeliver, { arg with c := q.1 })

/-- Events of the work in flight. -/
def State.flightEvents (s : State) : List (Instr × EvArg) :=
  s.reqs.flatMap (fun r =>
      [evAt .homeAccessServe (r.id), evAt .replyLanding (r.id), evAt .parkedReplyLanding (r.id), evAt .storeAcknowledge (r.id),
        evAt .writerListRoom (r.id), evAt .wakeaddrHomeAct (r.id)])
    ++ s.clusters.flatMap (fun p =>
      [evAt .bankRequestServe (p.1 / 32) (p.1 % 32), evAt .bankModeChangeDone (p.1 / 32) (p.1 % 32)])
    ++ s.cmds.flatMap (fun k => [evAt .engineSegmentAdmit (k.id), evAt .engineSegmentComplete (k.id)])
    ++ s.mcmds.map (fun k => evAt .matrixCommandComplete (k.id))
    ++ s.cores.map (fun p => evAt .tblloadFillComplete (p.1))
    ++ s.rels.flatMap (fun k => [evAt .releaseComplete (k.id), evAt .codepubComplete (k.id)])
    ++ s.colls.flatMap (fun k => [evAt .engineSegmentAdmit (k.id), evAt .engineSegmentComplete (k.id), evAt .collectivePeerTimeout (k.id)])
    ++ s.sfu.map fun r => evAt .specialFunctionResult (r.id)

/-- Events of Nuntaok. -/
def State.recordEvents (s : State) : List (Instr × EvArg) :=
  (if s.recd.ckBusy then [ev .checkpointComplete] else [])
    ++ s.recd.agents.map (fun p => evAt .chunkIdleClose (p.1))
    ++ s.recd.pages.map (fun p => evAt .recorderPageWrite (p.1))
    ++ (if s.replaying then [ev .replayStallTimeout] else [])
    ++ (if s.stepctl.active then [ev .stepDone] else [])

/-- The event of the package itself that comes next: which of those that may be due is open (log entry 6); one that is not due
changes nothing (log entry 4). -/
def State.autoEvent (s : State) : Option (Instr × EvArg) :=
  let l := s.packageEvents ++ s.hostEvents ++ s.stokerEvents ++ s.blockEvents ++ s.flightEvents ++ s.recordEvents
  l[Config.choice s.rr % l.length]?

/-! ### Words of one cycle (R338) -/

/-- The uniform register or predicate that a word writes with a fixed latency. -/
def uniDst : Instr → Option UniReg
  | .smov w | .sadd w | .ssub w | .smul w | .sand w | .sor w | .sxor w | .sshl w | .sshr w | .ssar w | .smin w | .smax w
  | .v2s w => some (.s w.sd.toNat)
  | .scmp w => some (.q (fld w.sd 0 3).toNat)
  | _ => none

/-- The unit that issues a party's words: one of four warp schedulers, the matrix sequencer or the access context (R153). -/
def schedOf (w : Nat) : Nat := if w < 32 then w % 4 else w

/-- Whether a word has had its effect in a lane: it has moved on from the word and has neither stopped nor trapped. -/
def Cur.issued (c : Cur) (pre t : Thr) : Bool :=
  let l := t.lane (lowestLane c.lanes)
  !c.stays l && !l.stopped && l.trap == (pre.lane (lowestLane c.lanes)).trap

/-- After a word: where it has written a uniform register, a party of another scheduler may issue in the same cycle (R338).  DESIGN CHOICE:
while recording or replaying, no two words of a block share a cycle, which R338 leaves to the schedulers (log entry 6). -/
def State.openCycle (s pre : State) (c : Cur) (i : Instr) : State :=
  match uniDst i, pre.blk? c.core c.bctx, pre.thr? c.core c.bctx c.w, s.thr? c.core c.bctx c.w with
  | some r, some b, some t, some t' =>
    if s.recd.mode = 0 ∧ c.issued t t' then
      { s with cycle := some { core := c.core, bctx := c.bctx, adm := b.adm, s := b.s, q := b.q, wrote := [(c.w, r)] } }
    else s
  | _, _, _, _ => s

/-- The party that issues its next word in the same cycle, if one does: none, or any of another scheduler (log entry 6). -/
def State.partner (s : State) : Option (Cycle × Nat) :=
  s.cycle.bind fun k => (s.blk? k.core k.bctx).bind fun b =>
    let l := if b.adm = k.adm then (b.thrs.map fun p => p.1).filter fun w => k.wrote.all fun x => schedOf x.1 != schedOf w else []
    match Config.choice s.tick % (l.length + 1) with
    | 0 => none
    | n + 1 => l[n]?.map fun w => (k, w)

/-- The block after a word of party `w` that issued from the registers its cycle found: of the writes of one cycle to one register, that
of the highest issuer remains (R338).  `b` is the block before the word, and `u` after it. -/
def Cycle.merge (k : Cycle) (b u : Blk) (w : Nat) (r : UniReg) : Blk :=
  let v : Blk := { u with s := b.s, q := b.q, sWriter := b.sWriter }
  if k.wrote.any fun x => x.2 == r && decide (w < x.1) then v
  else match r with
    | .s n => v.putS n (u.sreg n) w
    | .q n => v.putQ n (u.qpred n)

/-! ### Every tick -/

/-- A stream that a fault has terminated counts as exited once its operations are released: barriers that waited for it alone complete, and its phaser
memberships end (R158, R240, R285, R389). -/
def State.streamsGone (s : State) : State :=
  s.blks.foldl
    (fun s p => p.2.thrs.foldl
      (fun s q => if q.2.terminated && !s.exitOwes (p.1 / 16) (p.1 % 16) q.1 p.2.adm then (s.barsCheck (p.1 / 16) (p.1 % 16) q.1).phDropAll (p.1 / 16) (p.1 % 16) q.1 else s) s) s

/-- Since when each matrix stream has been ready (R153). -/
def State.markReady (s : State) : State :=
  { s with blks := s.blks.map fun p => match p.2.thr? 32 with
      | none => p
      | some t =>
        let core := p.1 / 16
        let bctx := p.1 % 16
        let can := canIssue s p.2 && !s.issueHeld core 32
          && ((t.settle s core bctx p.2).select (allowedLanes s p.2 core bctx 32)).isSome
        (p.1, p.2.setThr 32 { t with since := if can then some (t.since.getD s.tick) else none }) }

/-- A tick passes: terminated streams count as exited, blocks whose last reply or release has come in are over, watchdogs and
waits are counted, stage deadlocks among them, and replay stops at its breakpoints and its end (R68, R114, R115, R143, R144, R157, R158, R421). -/
def State.passTick (s : State) : State := ({ s with tick := s.tick + 1 } : State).streamsGone.sweep.gangsParked.countTick.markStuck.replayTick.markReady

/-- What the trace does at this very tick, before anything else happens in it (R146, R147). -/
def State.onTick (s : State) : Option Instr :=
  if s.latchDue then some .traceSeriesLatch else if s.sampleDue then some .criticalPathSample else none

end Sys2Proof.Machine
end

