-- ==== Sys2Proof/Machine/Step.lean ====
section
/-! DEFINITION. One step: an event brought from outside, or a word of the party in focus, or an event of the package
itself, or the next party's turn (log entry 6). -/

namespace Sys2Proof.Machine

/-- What a step adds around the issue of a word: the latch empties, the step of STEPCTL moves, and a party that has ended its clause,
or a matrix stream its word (R153), gives up the focus. -/
def afterWord (c : Cur) (pre : Thr) (r : Host.Outcome State Fault Refusal) : Host.Outcome State Fault Refusal :=
  match r with
  | .next s =>
    let s1 := s.noteStep c.core c.bctx c.w pre (some c)
    if c.w = 32 then .next { s1.modThr c.core c.bctx 32 (fun t => { t with since := none }) with cur := none, focus := none }
    else .next { s1 with cur := none, focus := if c.last then none else s.focus }
  | .fault f => .fault f
  | .refused f => .refused f

/-- The word in the latch issued: a reserved opcode traps in its active lanes (R308, R309), a word with a reserved field runs its meaning, which
takes the exception in its place in R308's order. -/
def issueLatched (c : Cur) (d : Except Reject (Instr × Nat)) (pre : Thr) (s : State) : Host.Outcome State Fault Refusal :=
  match s.blk? c.core c.bctx with
  | none => .next { s with focus := none }
  | some b => match b.thr? c.w with
    | none => .next { s with focus := none }
    | some t =>
      if overlong t c.w c.lanes c.pc c.next then afterWord c pre (.next (s.trapWord c b t .loopNest c.lanes))
      else match d with
        | .ok (i, _) | .error (.illFormed i _) => afterWord c pre (exec i { s with cur := some c })
        | .error (.reservedOpcode _ _) =>
          let act := activeLanes c t (decide (c.cls < 4) && c.word.getLsbD 31)
          afterWord c pre (.next (s.refuse c b t (faultLanes c act) (.trap .illegalOpcode)))
        | .error .truncated => afterWord c pre (.next (s.trapWord c b t .illegalClause c.lanes))

/-- A step in which an operation was out of turn, or replay diverged, is left before that operation (R141, R143, R144). -/
def settled (pre : State) (r : Host.Outcome State Fault Refusal) : Host.Outcome State Fault Refusal :=
  match r with
  | .next s => .next (pre.settle s)
  | .fault f => .fault f
  | .refused f => .refused f

/-- In replay the lanes of a word are noted as held by R141 where the word has not moved and would without the log. -/
def turnNoted (c : Cur) (pre : Thr) (held live : Host.Outcome State Fault Refusal) : Host.Outcome State Fault Refusal :=
  match held, live with
  | .next s, .next t =>
    .next (s.noteTurn c ((s.thr? c.core c.bctx c.w).any (·.lanes == pre.lanes)
      && !(t.thr? c.core c.bctx c.w).any (·.lanes == pre.lanes)))
  | r, _ => r

/-- The next word of a party: it enters its clause if it is not in one, and issues. -/
def stepParty (s : State) (core bctx w : Nat) : Host.Outcome State Fault Refusal :=
  match s.thr? core bctx w with
  | none => .next { s with focus := none }
  | some pre => match s.enter core bctx w with
    | (s1, false) => settled s (.next (s1.noteStep core bctx w pre none))
    | (s1, true) => match s1.latch core bctx w with
      | none => .next { s1 with focus := none }
      | some (c, d) =>
        let r := settled s1 (issueLatched c d pre s1)
        if s1.replaying then
          turnNoted c ((s1.thr? core bctx w).getD pre) r
            (issueLatched c d pre { s1 with recd := { s1.recd with mode := 0 } })
        else match r, d with
          | .next u, .ok (i, _) => .next (u.openCycle s1 c i)
          | _, _ => r

/-- The next word of a second party in the same cycle, where it is one that writes a uniform register: it reads the registers as the
cycle found them (R338). -/
def stepPartner (s : State) (k : Cycle) (w : Nat) : Option (Host.Outcome State Fault Refusal) :=
  match s.thr? k.core k.bctx w, s.enter k.core k.bctx w with
  | some pre, (s1, true) => match s1.latch k.core k.bctx w, s1.blk? k.core k.bctx with
    | some (c, .ok (i, n)), some b => match uniDst i with
      | none => none
      | some r => match issueLatched c (.ok (i, n)) pre (s1.setBlk k.core k.bctx { b with s := k.s, q := k.q }) with
        | .next u =>
          let put (f : Blk → Blk) (cycle : Option Cycle) : State := { u.modBlk k.core k.bctx f with focus := s.focus, cycle := cycle }
          some (.next (if (u.thr? k.core k.bctx w).any (c.issued (((b.thr? w)).getD pre)) then
            put (fun x => k.merge b x w r) (some { k with wrote := (w, r) :: k.wrote })
          else put (fun x => { x with s := b.s, q := b.q, sWriter := b.sWriter }) none))
        | _ => none
    | _, _ => none
  | _, _ => none

/-- One step of the machine: the trace's own work at the tick that has been reached; or a tick passes, and in it an event brought
from outside happens, or a second party issues in the cycle of the last word (R338), or the party in focus issues its next word, or an event of the package happens, or the next party has its
turn. -/
def step (s0 : State) : Host.Outcome State Fault Refusal :=
  match s0.onTick with
  | some i => exec i s0
  | none =>
    let s := { s0.passTick with cycle := none }
    match s.inputs with
    | (i, a) :: rest => settled { s with inputs := rest, arg := a } (exec i { s with inputs := rest, arg := a })
    | [] => match (s0.partner).bind fun p => stepPartner s p.1 p.2 with
    | some r => r
    | none => match s.focus with
      | some (core, bctx, w) => stepParty s core bctx w
      | none =>
        let s1 := { s with rr := s.rr + 1 }
        match if s.rr % 2 = 0 then s.autoEvent else none with
        | some (i, a) => settled { s1 with arg := a } (exec i { s1 with arg := a })
        | none => match s.turnOf with
          | some (core, bctx, w) => stepParty s1 core bctx w
          | none => .next s1

/-- The state with an instruction stored where the next step fetches it (log entry 3). -/
def State.withFetchWord (s : State) (nbits w : Nat) : State := s.placeWord nbits w

end Sys2Proof.Machine
end

