-- ==== Sys2Proof/Safety.lean ====
section
/-! DEFINITION. What counts as a safe step, and the terms in which statements say what a word leaves behind: who issues it,
that it can leave its clause, and what of the machine it may have changed. -/

namespace Sys2Proof

/-- A step that neither stops with a fault nor is refused. -/
def StepsSafely (s : Machine.State) : Prop := ∃ t, Machine.step s = .next t

/-- A state whose latch names a party that its block contexts hold, or that has no word in the latch. -/
def LatchSound (s : Machine.State) : Prop :=
  ∀ c, s.cur = some c → (s.thr? c.core c.bctx c.w).isSome = true

namespace Machine

/-- Party `t` of block `b` issues the word in the latch `c`. -/
structure Issues (s : State) (c : Cur) (b : Blk) (t : Thr) : Prop where
  cur : s.cur = some c
  blk : s.blk? c.core c.bctx = some b
  thr : b.thr? c.w = some t

/-- Leaving the word is sound (R181, R434): it repeats, it is not its clause's last, the clause ends no loop, or it ends the
innermost one. -/
def Cur.EndsWell (c : Cur) (t : Thr) : Prop :=
  c.rep + 1 < c.reps ∨ c.last = false ∨ fld c.hdr 19 2 = (0 : BitVec 2)
    ∨ t.innermost = some ((fld c.hdr 19 2 : BitVec 2).toNat - 1)

/-- Two states that agree but for the recorder, whose mode stays. -/
structure RecdOnly (s u : State) : Prop where
  same : u = { s with recd := u.recd }
  mode : u.recd.mode = s.recd.mode
  diverged : u.recd.diverged = s.recd.diverged

/-- What a word may leave when it touches nothing but its party, which becomes `t'`: the recorder may have noted it, every
other party, block, register and byte of memory is as before. -/
structure PartyOnly (s u : State) (c : Cur) (b : Blk) (t' : Thr) : Prop where
  same : u = { s.setBlk c.core c.bctx (b.setThr c.w t') with recd := u.recd }
  bytes : ∀ a, readByte u.mem.bytes a = readByte s.mem.bytes a

/-- A party that differs only in lane registers, in where its lanes stand, and in its loops. -/
def Thr.RowsOnly (t t' : Thr) : Prop := t' = { t with rows := t'.rows, lanes := t'.lanes, loops := t'.loops }

/-- A party that differs only in its predicates, in where its lanes stand, and in its loops. -/
def Thr.PredsOnly (t t' : Thr) : Prop := t' = { t with preds := t'.preds, lanes := t'.lanes, loops := t'.loops }

/-- A party that differs only in where its lanes stand and in its loops. -/
def Thr.Moved (t t' : Thr) : Prop := t' = { t with lanes := t'.lanes, loops := t'.loops }

/-- Lane register `vd` holds `f` in the lanes of `m`; every other lane register of every lane is as before. -/
def Thr.Wrote (t t' : Thr) (m : Word) (vd : Nat) (f : Nat → Word) : Prop :=
  t.RowsOnly t' ∧ ∀ r l, l < 32 → t'.reg r l = if r = vd ∧ m.getLsbD l then f l else t.reg r l

/-- The pair `vd`, `vd + 1` holds `f` in the lanes of `m`; every other lane register of every lane is as before. -/
def Thr.WrotePair (t t' : Thr) (m : Word) (vd : Nat) (f : Nat → DWord) : Prop :=
  t.RowsOnly t' ∧ ∀ r l, l < 32 → t'.reg r l =
    if m.getLsbD l ∧ r = vd then (f l).setWidth 32
    else if m.getLsbD l ∧ r = vd + 1 then (f l >>> 32).setWidth 32
    else t.reg r l

/-- Predicate p`n` holds `f` in the lanes of `m`, p7 staying 1; every other predicate of every lane is as before. -/
def Thr.WrotePred (t t' : Thr) (m : Word) (n : Nat) (f : Nat → Bool) : Prop :=
  t.PredsOnly t' ∧ ∀ p l, l < 32 → t'.pred p l = if p = n ∧ n < 7 ∧ m.getLsbD l then f l else t.pred p l

/-- The sticky flags of FRM after the lanes of `m` delivered the results `r` (R258, R259): a flag is set that was set, or whose
exception some lane of `m` met; every other bit of FRM is as before. -/
def Thr.Flagged (t t' : Thr) (m : Word) (r : Nat → FRes) : Prop :=
  ∀ k, t'.frm.getLsbD k = (t.frm.getLsbD k || (decide (8 ≤ k) && (maskLanes m).any fun l => (r l).exc.bits.getLsbD (k - 8)))

/-- The floating results `r` of the lanes of `m` stand in VD, or in its pair where `wide`, with their flags set; nothing else of
the party changes but where its lanes stand, and its loops. -/
def Thr.WroteFloat (t t' : Thr) (m : Word) (vd : Nat) (wide : Bool) (r : Nat → FRes) : Prop :=
  t' = { t with rows := t'.rows, frm := t'.frm, lanes := t'.lanes, loops := t'.loops } ∧ t.Flagged t' m r ∧
  ∀ q l, l < 32 → t'.reg q l =
    if m.getLsbD l ∧ q = vd then BitVec.ofNat 32 (r l).val
    else if wide ∧ m.getLsbD l ∧ q = vd + 1 then BitVec.ofNat 32 ((r l).val / 2 ^ 32)
    else t.reg q l

/-- No lane of `m` meets an exception whose trap is enabled (R259); in handler mode the traps act as disabled (R279). -/
def Untrapped (c : Cur) (t : Thr) (m : Word) (r : Nat → FRes) : Prop :=
  ∀ l, l < 32 → m.getLsbD l → fpTraps t.frm (t.privileged c.lanes) (r l).exc = false

/-- What a word leaves that sends a result towards `vd` of its party: the party `t'`, the recorder, and one more result in
flight, which carries `v` in the lanes of `m`. -/
structure SentFrom (s u : State) (c : Cur) (b : Blk) (t' : Thr) (vd : Nat) (m : Word) (v : Nat → Word) (bank : Option Nat) :
    Prop where
  same : u = { s.setBlk c.core c.bctx (b.setThr c.w t') with
    recd := u.recd, nextId := s.nextId + 1,
    sfu := s.sfu ++ [{ id := s.nextId, core := c.core, bctx := c.bctx, w := c.w, adm := b.adm, vd := vd,
                       vals := (maskLanes m).map fun l => (l, v l), bank := bank }] }
  bytes : ∀ a, readByte u.mem.bytes a = readByte s.mem.bytes a

/-- A party that sent a result towards `vd`: the register is empty, the flags may have changed, and no register's value has. -/
def Thr.Sent (t t' : Thr) (vd : Nat) : Prop :=
  t' = { t with frm := t'.frm, empty := t'.empty, lanes := t'.lanes, loops := t'.loops } ∧
  ∀ r, t'.isEmpty r = (t.isEmpty r || r == vd)

/-! ### Words of classes 4 to 6 -/

/-- A word of classes 4 to 6 stands ready: its party issues it, steps 1 to 3 of R308 let it go, it can leave its clause, no log is
being replayed, and the recorder takes its operations (R130). -/
structure CtlReady (s : State) (c : Cur) (b : Blk) (t : Thr) (i : Instr) : Prop extends Issues s c b t where
  gate : ctlGate i c t = .go
  ends : c.EndsWell t
  live : s.replaying = false
  turn : s.mayStart c.core (issuerOf c.bctx c.w) (lowestLane c.lanes) = true

/-- A word of class 4 that itself says where its lanes go stands ready: as above, but where they go is for it to say. -/
structure CtlGo (s : State) (c : Cur) (b : Blk) (t : Thr) (i : Instr) : Prop extends Issues s c b t where
  gate : ctlGate i c t = .go
  live : s.replaying = false
  turn : s.mayStart c.core (issuerOf c.bctx c.w) (lowestLane c.lanes) = true

/-- A word in the uniform layout stands ready: its registers are in range and full as well (R172, R308), nothing holds the operations
that its accesses to uniform registers are (R232), and the recorder takes its own operation after them (R125, R130). -/
structure UniReady (s : State) (c : Cur) (b : Blk) (t : Thr) (i : Instr) (w : UniW) : Prop extends CtlReady s c b t i where
  operands : uniOperandGate i w b = .go
  unis : s.uniTurn c b (uniTouched i w) = true
  after : (s.noteUnis c b (uniUnis i w) false).mayStart c.core (issuerOf c.bctx c.w) (lowestLane c.lanes) = true

/-- A block that differs only in uniform register `n`, which holds `v`; s0 stays zero (R168). -/
def Blk.PutUni (b b' : Blk) (n : Nat) (v : DWord) : Prop :=
  b' = { b with s := b'.s, sWriter := b'.sWriter } ∧ ∀ k, b'.sreg k = if k = n ∧ n ≠ 0 then v else b.sreg k

/-- A lane sent to a clause header: held where it is the lane's meeting address (R162, R427).  The remembered transfer (R311) is
left aside. -/
def Lane.At (l l' : Lane) (target : DWord) : Prop :=
  l' = { l with
    pc := target, clause := none, via := l'.via, stat := if target = l.mr then .held else .run, toMeet := decide (target = l.mr) }

/-- The lanes of `m` went to their targets, the other lanes of the word to the fall-through, and every other lane stands as it
stood. -/
def Thr.WentTo (t t' : Thr) (c : Cur) (m : Word) (target : Nat → DWord) : Prop :=
  ∀ l, l < t.lanes.length → l < 32 →
    (m.getLsbD l → (t.lane l).At (t'.lane l) (target l)) ∧
    (!m.getLsbD l → c.lanes.getLsbD l → (t.lane l).At (t'.lane l) c.next) ∧
    (!m.getLsbD l → !c.lanes.getLsbD l → t'.lane l = t.lane l)

/-- A synchronisation word stands ready: no acquire or seq_cst fence of its party is open either (R232, R384). -/
structure SyncReady (s : State) (c : Cur) (b : Blk) (t : Thr) (i : Instr) (w : UniW) : Prop extends UniReady s c b t i w where
  held : s.heldBack c.core c.bctx c.w b.adm c.lanes = false

/-- The lanes of a word stopped at a blocking point before it (R164): nothing else changed but the recorder. -/
structure BlockedAt (s u : State) (c : Cur) (b : Blk) (t : Thr) (p : BlockPt) : Prop where
  same : ∃ t', u = { s.setBlk c.core c.bctx (b.setThr c.w t') with recd := u.recd, focus := none } ∧ t' = { t with lanes := t'.lanes } ∧
    ∀ l, l < t.lanes.length → l < 32 → t'.lane l = if c.lanes.getLsbD l then { t.lane l with stat := .blocked p } else t.lane l

/-- The loop-end step of level `n` as the lanes of `m` reach the end of the level's clause (R183, R434): those outside the level's mask go
on past the clause; the others wait there while a lane of the mask is neither there, exited nor stopped at a blocking point; else the
counter falls by one, and every lane there goes back to the body's start, or past the clause where the counter is now zero, which
ends the level and those inside it.  Every other lane stands as it stood. -/
def Thr.LoopEnd (s : State) (c : Cur) (b : Blk) (m : Word) (t t' : Thr) (n : Nat) : Prop :=
  let lv := t.loop n
  let inside (l : Nat) : Bool := m.getLsbD l && (decide (32 ≤ c.w) || lv.mask.getLsbD l)
  let here (l : Nat) : Bool := inside l || (!m.getLsbD l && (t.lane l).stat == .loopHeld n)
  let missing := ∃ l, l < 32 ∧ lv.mask.getLsbD l ∧ here l = false ∧ (t.lane l).stat ≠ .exited ∧
    (t.lane l).asleep s c.core c.bctx b t = false
  (∀ l, l < t.lanes.length → l < 32 → here l = false →
    if m.getLsbD l then (t.lane l).At (t'.lane l) c.next else t'.lane l = t.lane l) ∧
  ((∃ l, l < t.lanes.length ∧ l < 32 ∧ inside l = true) →
    (missing → t'.loops = t.loops ∧ ∀ l, l < t.lanes.length → l < 32 → here l = true →
      t'.lane l = if inside l then { t.lane l with pc := c.next, clause := none, stat := .loopHeld n } else t.lane l) ∧
    (¬ missing → lv.lc ≠ 1 → (∀ k, k < 3 → t'.loop k = if k = n then { lv with lc := lv.lc - 1 } else t.loop k) ∧
      ∀ l, l < t.lanes.length → l < 32 → here l = true → (t.lane l).At (t'.lane l) lv.start) ∧
    (¬ missing → lv.lc = 1 →
      (∀ k, k < 3 → t'.loop k = if k < n then t.loop k
        else { t.loop k with active := false, mask := 0, lc := if k = n then 0 else (t.loop k).lc }) ∧
      ∀ l, l < t.lanes.length → l < 32 → here l = true →
        (t.lane l).At (t'.lane l) (if inside l then c.next else (t.lane l).pc)))

/-- Where a word that makes no transfer leaves the lanes of its party (R162, R178, R183, R187): before its next repetition, at the next
word of its clause, past the clause and held where that is the meeting address, or as the loop-end step leaves them. -/
def Thr.Advanced (s : State) (c : Cur) (b : Blk) (t t' : Thr) : Prop :=
  let each (f : Lane → Lane → Prop) : Prop := t'.loops = t.loops ∧ ∀ l, l < t.lanes.length → l < 32 →
    if c.lanes.getLsbD l then f (t.lane l) (t'.lane l) else t'.lane l = t.lane l
  (c.rep + 1 < c.reps → each fun x y => y = { x with clause := x.clause.map fun k => { k with rep := c.rep + 1 } }) ∧
  (c.reps ≤ c.rep + 1 → c.last = false →
    each fun x y => y = { x with pc := c.next, clause := x.clause.map fun k => { k with rep := 0 } }) ∧
  (c.reps ≤ c.rep + 1 → c.last = true → fld c.hdr 19 2 = (0 : BitVec 2) → each fun x y => x.At y c.next) ∧
  (c.reps ≤ c.rep + 1 → c.last = true → fld c.hdr 19 2 ≠ (0 : BitVec 2) →
    t.LoopEnd s c b c.lanes t' ((fld c.hdr 19 2 : BitVec 2).toNat - 1))

/-- The loop levels of `t` after lanes have left them (R182, R433, R434): `leaves k l` says that lane `l` leaves level `k`.  A level that
stays active keeps the rest of its mask, its counter and its body; a level ends where its whole mask or that of a level around it has
left, and only there. -/
def Thr.Left (t t' : Thr) (leaves : Nat → Nat → Prop) : Prop :=
  let gone (j : Nat) : Prop := (t.loop j).active = true ∧ ∀ l, l < 32 → (t.loop j).mask.getLsbD l → leaves j l
  ∀ k, k < 3 →
    ((t'.loop k).active = true → t'.loop k = { t.loop k with mask := (t'.loop k).mask } ∧
      ∀ l, l < 32 → ((t'.loop k).mask.getLsbD l = true ↔ (t.loop k).mask.getLsbD l = true ∧ ¬ leaves k l)) ∧
    ((t.loop k).active = true → (t'.loop k).active = false → ∃ j, j ≤ k ∧ gone j) ∧
    ((∃ j, j ≤ k ∧ (t.loop j).mask ≠ 0 ∧ gone j) → (t'.loop k).active = false)

/-- Lane `l` leaves level `k` as it goes from the word at `pc` to its target (R182): an active level, `k` or one around it, has the lane
in its mask, the word in its body and the target outside it. -/
def Thr.leaves (t : Thr) (pc : DWord) (m : Word) (target : Nat → DWord) (k l : Nat) : Prop :=
  m.getLsbD l ∧ ∃ n, n ≤ k ∧ (t.loop n).active = true ∧ (t.loop n).mask.getLsbD l ∧ (t.loop n).covers pc = true
    ∧ (t.loop n).covers (target l) = false

/-- The lanes of a transfer word that fall through find its end sound: there are none, the clause ends no loop, or it ends the innermost
one and something keeps it open. -/
def Cur.Passes (c : Cur) (t : Thr) (m : Word) : Prop :=
  let rest := c.lanes &&& ~~~m
  let n := (fld c.hdr 19 2 : BitVec 2).toNat - 1
  rest = 0 ∨ fld c.hdr 19 2 = (0 : BitVec 2) ∨
    t.innermost = some n ∧ (m = 0 ∧ (∀ j, j ≤ n → (t.loop j).mask ≠ 0) ∨ ∃ l, l < 32 ∧ rest.getLsbD l ∧ ∀ j, j ≤ n → (t.loop j).mask.getLsbD l)

/-- A transfer (R162, R182, R183, R427): the lanes of `m` go to their targets and leave the levels that `leaves` says, and the other
lanes of the word, if any, then go on past the clause or take the loop-end step.  `base` gives the levels as they were. -/
def Thr.Transferred (s : State) (c : Cur) (b : Blk) (t base t' : Thr) (m : Word) (target : Nat → DWord) (leaves : Nat → Nat → Prop) :
    Prop :=
  let rest := c.lanes &&& ~~~m
  ∃ t1, t.Moved t1 ∧ base.Left t1 leaves ∧ t1.lanes.length = t.lanes.length ∧
    (∀ l, l < t.lanes.length → l < 32 → if m.getLsbD l then (t.lane l).At (t1.lane l) (target l) else t1.lane l = t.lane l) ∧
    (rest = 0 → t'.lanes = t1.lanes ∧ t'.loops = t1.loops) ∧
    (rest ≠ 0 → fld c.hdr 19 2 = (0 : BitVec 2) → t'.loops = t1.loops ∧ t.WentTo t' c m target) ∧
    (rest ≠ 0 → fld c.hdr 19 2 ≠ (0 : BitVec 2) → t1.LoopEnd s c b rest t' ((fld c.hdr 19 2 : BitVec 2).toNat - 1))

/-- A release begun by the party of `c` over every request there is (R230). -/
def begun (s : State) (c : Cur) (adm scope : Nat) (a : RelAct) (mask : Word := c.lanes) : List Rel :=
  s.rels ++ [{ id := s.nextId, core := c.core, bctx := c.bctx, w := c.w, adm := adm, low := lowestLane c.lanes,
               mask := mask, scope := scope, upto := s.nextId, act := a }]

/-- What the issue of a class 5 command leaves (R394, R64): one more command outstanding, the stream `t'`, and in the core the tiles that
the command reads, which count it as a reader, and the admission that an MMA no longer waits for; the tile `fill` is another statement's,
and every other tile, the table banks and the scale memory are as before. -/
structure KilnStarted (s u : State) (c : Cur) (b : Blk) (t' : Thr) (k : MCmd) (reads : List Nat) (fill : Option Nat) : Prop where
  same : u = { s.setBlk c.core c.bctx (b.setThr c.w t') with
    recd := u.recd, nextId := s.nextId + 1, mcmds := s.mcmds ++ [k], cores := u.cores }
  cores : ∀ x, u.coreAt x = if x = c.core then
    { s.coreAt x with tiles := (u.coreAt x).tiles, kilnWait := (u.coreAt x).kilnWait } else s.coreAt x
  wait : (u.coreAt c.core).kilnWait = match k.op with
    | .mma _ | .mmai _ => none
    | _ => (s.coreAt c.core).kilnWait
  tiles : ∀ j, fill ≠ some j → u.tile c.core j =
    { s.tile c.core j with readers := (s.tile c.core j).readers ++ if j ∈ reads then [k.id] else [] }

/-- No block is over: each has a party that has not exited. -/
def NoneOver (s : State) : Prop := ∀ p ∈ s.blks, ∃ q ∈ p.2.thrs, q.2.exited = false

/-! ### Memory words -/

/-- What the checks of R275 give the active lanes `act` of an access of form `f` at the addresses `va`: lane `l` goes to home
`h l` at home address `a l` under leaf `lf l`; the lanes that name FIFO banks name one. -/
structure Cleared (s : State) (c : Cur) (b : Blk) (t : Thr) (act : Word) (f : MemForm) (va : Nat → DWord) (h : Nat → Home)
    (a : Nat → Nat) (lf : Nat → Option Leaf) : Prop where
  some : act ≠ 0
  pass : ∀ l, l < 32 → act.getLsbD l → s.laneCheck c b (c.mmu b (t.privileged c.lanes)) f (va l) = .ok (h l) (a l) (lf l)
  oneBank : ∀ l m x y i j, l < 32 → m < 32 → act.getLsbD l → act.getLsbD m → s.target c b f (va l) = .at (.fifo x i) y →
    s.target c b f (va m) = .at (.fifo x j) y → i = j

/-- Nothing keeps an access from leaving its core: the recorder takes its operations (R130), no acquire or seq_cst fence of the party
is open (R229, R232), its dirty-address FIFO and every bank named have room (R194, R230), no push of the party is on its way to a FIFO
bank (R198), and no watchpoint is set in its context. -/
structure Roomy (s : State) (c : Cur) (b : Blk) (act : Word) (h : Nat → Home) (a : Nat → Nat) : Prop where
  turn : s.mayStart c.core (issuerOf c.bctx c.w) (lowestLane c.lanes) = true
  held : s.heldBack c.core c.bctx c.w b.adm act = false
  dirty : (s.dirtyLines c.core c.bctx c.w b.adm).length + (maskLanes act).length ≤ 64
  banks : ∀ l k, l < 32 → act.getLsbD l →
    s.bankFor (h l) (match h l with
      | .fifo _ _ => 0
      | _ => a l / 128) = .some k →
    (s.bank k).queue.length + (maskLanes act).length ≤ 32 ∧ (s.bank k).change = none
  pushes : ∀ q ∈ s.reqs, q.core = c.core → q.bctx = c.bctx → q.w = c.w → q.kind = .store → (∃ x k, q.home = .fifo x k) → q.open = false
  watch : s.watches b.info.ctx = []

/-- What an access leaves behind at issue (R125, R171, R371): its party `t'`, the recorder, the core's own TLB (R82), the links' own
books and the outbox, and
a request for every lane `l` that went ahead, which carries its address, home, data and compare value; every request there was is
still there, memory and every other party are as before.  A release for each request that an order holds back is all that the list of
releases gains; bank queues only grow, by requests that there are; and where no older request still waited in its core and no lane went
off the device, the older requests, the links' books and the outbox are as they were. -/
structure Asked (s u : State) (c : Cur) (b : Blk) (t' : Thr) (act : Word) (f : MemForm) (va : Nat → DWord) (h : Nat → Home)
    (a : Nat → Nat) (lf : Nat → Option Leaf) (data cmp : Nat → QWord) : Prop where
  same : u = { s.setBlk c.core c.bctx (b.setThr c.w t') with
    recd := u.recd, nextId := u.nextId, reqs := u.reqs, rels := u.rels, clusters := u.clusters, links := u.links,
    xl := { s.xl with tlb := u.xl.tlb }, outbox := u.outbox }
  bytes : ∀ x, readByte u.mem.bytes x = readByte s.mem.bytes x
  kept : (s.reqs.map fun q => q.id) <+: u.reqs.map fun q => q.id
  rels : ∃ l, u.rels = s.rels ++ l ∧ (hasRelease f.order = false → l = []) ∧
    ∀ k ∈ l, k.core = c.core ∧ k.bctx = c.bctx ∧ k.w = c.w ∧ k.adm = b.adm ∧ k.scope = f.scope ∧ k.upto = s.nextId ∧
      ∃ r ∈ u.reqs, s.nextId ≤ r.id ∧ k.act = .write r.id
  banks : ∀ k, u.bank k = { s.bank k with queue := (u.bank k).queue } ∧
    ∃ q, (u.bank k).queue = (s.bank k).queue ++ q ∧ ∀ i ∈ q, ∃ r ∈ u.reqs, r.id = i ∧ s.bankFor r.home r.line = .some k
  links : u.links = { s.links with ports := u.links.ports, mseq := u.links.mseq, windows := u.links.windows }
  quiet : (∀ q ∈ s.reqs, q.id < s.nextId ∧ q.stage ≠ .queued ∧ q.unsent = false) →
    (∀ l, l < 32 → act.getLsbD l → h l = .mem ∨ (∃ x, h l = .spad x) ∨ ∃ x i, h l = .fifo x i) →
    s.reqs <+: u.reqs ∧ u.links = s.links ∧ u.outbox = s.outbox
  asked : ∀ l, l < 32 → act.getLsbD l → ∃ r ∈ u.reqs, s.nextId ≤ r.id ∧ r.core = c.core ∧ r.bctx = c.bctx ∧ r.w = c.w ∧
    r.adm = b.adm ∧ r.size = f.bytes ∧ r.dst = f.dst ∧ r.home = h l ∧
    (∃ m, m < 32 ∧ act.getLsbD m ∧ h m = h l ∧ r.kind = match f.kind, lf m with
      | .cadd _, .some x => .cadd x.comm
      | k, _ => k) ∧
    ∃ o ∈ r.ops, o.lane = l ∧ o.va = va l ∧ o.addr = a l ∧ o.data = data l ∧ o.cmp = cmp l ∧ ∀ x, lf l = some x → o.fmt = x.comm

/-- A lane word stands ready: its party issues it, every check of R308 lets it go, it can leave its clause, no log is being
replayed, and nothing holds the operations that its reads of uniform registers are (R125, R130, R232). -/
structure LaneReady (s : State) (c : Cur) (b : Blk) (t : Thr) (i : Instr) (w : LaneW) : Prop extends Issues s c b t where
  gate : laneGate i w c b t (activeLanes c t w.g) = .go
  ends : c.EndsWell t
  live : s.replaying = false
  turn : s.uniTurn c b (laneUnis i w) = true

end Machine

end Sys2Proof
end

