-- ==== Sys2Proof/Certificates/Slice0/Obligations.lean ====
section
/-! DEFINITION. The statements for the provers: what the numbered rules of the spec say the S7 does. -/

open Sys2Proof Sys2Proof.Machine

/-! ### Lane integer words (R325 to R334) -/

namespace Sys2Proof.Rules

/-- Σ over the four bytes of two words (R327). -/
def byteSum (f : Nat → Int) : Int := f 0 + f 1 + f 2 + f 3

/-- Byte `i` of a word, unsigned (R327). -/
def u8 (x : Word) (i : Nat) : Int := x.toNat / 2 ^ (8 * i) % 256
/-- Byte `i` of a word, signed (R327). -/
def s8 (x : Word) (i : Nat) : Int := (fld x (8 * i) 8 : BitVec 8).toInt

/-- Bit `i` of the carry-less product: the XOR over the bits of b of the bits of a they bring there (R325). -/
def clmulBit (a b : Word) (i : Nat) : Bool :=
  (List.range 32).foldl (fun x j => x ^^ (b.getLsbD j && (decide (j ≤ i) && a.getLsbD (i - j)))) false

/-- The results of R325 and R329 in terms of a and b. -/
def twoSource : List ((LaneW → Instr) × (Word → Word → Word)) :=
  [ (.iadd, fun a b => BitVec.ofNat 32 (a.toNat + b.toNat)),
    (.isub, fun a b => BitVec.ofInt 32 ((a.toNat : Int) - b.toNat)),
    (.iadds, fun a b => BitVec.ofInt 32 (max (-2147483648) (min 2147483647 (a.toInt + b.toInt)))),
    (.isubs, fun a b => BitVec.ofInt 32 (max (-2147483648) (min 2147483647 (a.toInt - b.toInt)))),
    (.iaddus, fun a b => BitVec.ofNat 32 (min 4294967295 (a.toNat + b.toNat))),
    (.isubus, fun a b => BitVec.ofNat 32 (a.toNat - b.toNat)),
    (.imul, fun a b => BitVec.ofNat 32 (a.toNat * b.toNat)),
    (.imulh, fun a b => BitVec.ofInt 32 ((a.toInt * b.toInt) / 2 ^ 32)),
    (.imulhu, fun a b => BitVec.ofNat 32 (a.toNat * b.toNat / 2 ^ 32)),
    (.imin, fun a b => if a.toInt ≤ b.toInt then a else b),
    (.imax, fun a b => if a.toInt ≥ b.toInt then a else b),
    (.iminu, fun a b => if a.toNat ≤ b.toNat then a else b),
    (.imaxu, fun a b => if a.toNat ≥ b.toNat then a else b),
    (.and, fun a b => a &&& b),
    (.or, fun a b => a ||| b),
    (.xor, fun a b => a ^^^ b),
    (.andn, fun a b => a &&& ~~~b),
    (.orn, fun a b => a ||| ~~~b),
    (.shl, fun a b => if b.toNat < 32 then BitVec.ofNat 32 (a.toNat * 2 ^ b.toNat) else 0),
    (.shr, fun a b => if b.toNat < 32 then BitVec.ofNat 32 (a.toNat / 2 ^ b.toNat) else 0),
    (.sar, fun a b => BitVec.ofInt 32 (a.toInt / 2 ^ (min b.toNat 31))),
    (.rotl, fun a b => BitVec.ofNat 32 (a.toNat * 2 ^ (b.toNat % 32) + a.toNat / 2 ^ (32 - b.toNat % 32))),
    (.clmul, fun a b => maskOf fun i => clmulBit a b i),
    (.clmulh, fun a b => maskOf fun i => clmulBit a b (32 + i)),
    (.bfe, fun a b =>
      let len := min (b.toNat / 256 % 256) 32
      let f : Int := a.toInt / 2 ^ (b.toNat % 256) % 2 ^ len
      if len = 0 then 0 else BitVec.ofInt 32 (if f < 2 ^ (len - 1) then f else f - 2 ^ len)),
    (.bfeu, fun a b => BitVec.ofNat 32 (a.toNat / 2 ^ (b.toNat % 256) % 2 ^ min (b.toNat / 256 % 256) 32)),
    (.sxt, fun a b =>
      let n := b.toNat % 256
      if n = 0 then 0 else if 32 ≤ n then a
      else if a.toNat % 2 ^ n < 2 ^ (n - 1) then BitVec.ofNat 32 (a.toNat % 2 ^ n)
      else BitVec.ofInt 32 ((a.toNat % 2 ^ n : Nat) - (2 ^ n : Nat) : Int)),
    (.zxt, fun a b =>
      let n := b.toNat % 256
      if n = 0 then 0 else if 32 ≤ n then a else BitVec.ofNat 32 (a.toNat % 2 ^ n)) ]

/-- The results of R326 in terms of a. -/
def oneSource : List ((LaneW → Instr) × (Word → Word)) :=
  [ (.mov, fun a => a),
    (.ineg, fun a => BitVec.ofInt 32 (-a.toInt)),
    (.iabs, fun a => BitVec.ofNat 32 a.toInt.natAbs),
    (.popc, fun a => BitVec.ofNat 32 ((List.range 32).countP a.getLsbD)),
    (.clz, fun a => BitVec.ofNat 32 (((List.range 32).map fun i => a.getLsbD (31 - i)).takeWhile (!·)).length),
    (.ctz, fun a => BitVec.ofNat 32 (((List.range 32).map a.getLsbD).takeWhile (!·)).length),
    (.brev, fun a => maskOf fun i => a.getLsbD (31 - i)) ]

/-- One result byte of PERMB, as R327's pseudocode computes it. -/
def permByte (pool c : Nat) : Nat :=
  let x0 := pool / 2 ^ (8 * (c % 8)) % 256
  let bit (x i : Nat) : Nat := x / 2 ^ i % 2
  let x1 := if c / 8 % 2 = 1 then
      bit x0 0 * 128 + bit x0 1 * 64 + bit x0 2 * 32 + bit x0 3 * 16 + bit x0 4 * 8 + bit x0 5 * 4 + bit x0 6 * 2 + bit x0 7
    else x0
  match c / 16 % 4 with
  | 1 => 0
  | 2 => 255
  | 3 => bit x1 0 + bit x1 1 + bit x1 2 + bit x1 3 + bit x1 4 + bit x1 5 + bit x1 6 + bit x1 7
  | _ => x1

/-- The results of R327 and of BFI (R329) in terms of the old VD, a and b. -/
def readsVd : List ((LaneW → Instr) × (Word → Word → Word → Word)) :=
  [ (.imad, fun d a b => BitVec.ofNat 32 (d.toNat + a.toNat * b.toNat)),
    (.idot4, fun d a b => BitVec.ofInt 32 (d.toNat + byteSum fun i => s8 a i * s8 b i)),
    (.idot4u, fun d a b => BitVec.ofInt 32 (d.toNat + byteSum fun i => u8 a i * u8 b i)),
    (.permb, fun d a b =>
      let pool := a.toNat + d.toNat * 2 ^ 32
      let c (i : Nat) : Nat := b.toNat / 2 ^ (8 * i) % 256
      BitVec.ofNat 32 (permByte pool (c 0) + 256 * permByte pool (c 1) + 65536 * permByte pool (c 2)
        + 16777216 * permByte pool (c 3))),
    (.bfi, fun d a b =>
      let pos := b.toNat % 256
      let len := min (b.toNat / 256 % 256) 32
      let m : Word := BitVec.ofNat 32 ((2 ^ len - 1) * 2 ^ pos)
      (d &&& ~~~m) ||| (BitVec.ofNat 32 (a.toNat * 2 ^ pos) &&& m)) ]

/-- The funnel shift of R330. -/
def funnel (a b c : Word) : Word :=
  let n := min c.toNat 32
  BitVec.ofNat 32 ((a.toNat * 2 ^ 32 + b.toNat) * 2 ^ n / 2 ^ 32)

/-- The truth of a condition code of R331; codes 6 and 7 are reserved. -/
def cond (code : Nat) (x y : Int) : Prop :=
  (code = 0 ∧ x = y) ∨ (code = 1 ∧ x ≠ y) ∨ (code = 2 ∧ x < y) ∨ (code = 3 ∧ x ≤ y) ∨ (code = 4 ∧ x > y) ∨ (code = 5 ∧ x ≥ y)

end Sys2Proof.Rules

/-- R325, R329 (derived: the frame and the completion join their results; the readiness conditions are R308's).  Every two-source
word that stands ready completes: VD holds the rule's result in each active lane, and every other register, every predicate and
flag, every special register, every other party and every byte of memory is as before. -/
def Sys2Proof.Rules.LaneTwoSourceResults : Prop :=
  ∀ e ∈ Rules.twoSource, ∀ (w : LaneW) (s : State) (c : Cur) (b : Blk) (t : Thr), LaneReady s c b t (e.1 w) w →
    ∃ u t', exec (e.1 w) s = .next u ∧ PartyOnly s u c b t' ∧
      t.Wrote t' (activeLanes c t w.g) w.vd.toNat fun l => e.2 (srcW t b w.sa w.lit l) (srcW t b w.sb w.lit l)

/-- R326.  Every one-source word that stands ready completes with the rule's result in VD, and nothing else changes. -/
def Sys2Proof.Rules.LaneOneSourceResults : Prop :=
  ∀ e ∈ Rules.oneSource, ∀ (w : LaneW) (s : State) (c : Cur) (b : Blk) (t : Thr), LaneReady s c b t (e.1 w) w →
    ∃ u t', exec (e.1 w) s = .next u ∧ PartyOnly s u c b t' ∧
      t.Wrote t' (activeLanes c t w.g) w.vd.toNat fun l => e.2 (srcW t b w.sa w.lit l)

/-- R327, R329, R330.  The words that read VD, and the funnel shift, complete with the rule's result in VD, and nothing else
changes. -/
def Sys2Proof.Rules.LaneAccumulateResults : Prop :=
  (∀ e ∈ Rules.readsVd, ∀ (w : LaneW) (s : State) (c : Cur) (b : Blk) (t : Thr), LaneReady s c b t (e.1 w) w →
    ∃ u t', exec (e.1 w) s = .next u ∧ PartyOnly s u c b t' ∧
      t.Wrote t' (activeLanes c t w.g) w.vd.toNat fun l =>
        e.2 (t.reg w.vd.toNat l) (srcW t b w.sa w.lit l) (srcW t b w.sb w.lit l)) ∧
  (∀ (w : LaneW) (x : SrcX) (s : State) (c : Cur) (b : Blk) (t : Thr), LaneReady s c b t (.fshl w x) w →
    ∃ u t', exec (.fshl w x) s = .next u ∧ PartyOnly s u c b t' ∧
      t.Wrote t' (activeLanes c t w.g) w.vd.toNat fun l =>
        Rules.funnel (srcW t b w.sa w.lit l) (srcW t b w.sb w.lit l) (srcW t b x.sc w.lit l))

/-- R328.  The words that write a pair complete with the 64-bit result modulo 2^64, low half in vD, and nothing else changes. -/
def Sys2Proof.Rules.LanePairResults : Prop :=
  ∀ (w : LaneW) (s : State) (c : Cur) (b : Blk) (t : Thr),
    (LaneReady s c b t (.iadd64 w) w → ∃ u t', exec (.iadd64 w) s = .next u ∧ PartyOnly s u c b t' ∧
      t.WrotePair t' (activeLanes c t w.g) w.vd.toNat fun l =>
        BitVec.ofNat 64 ((srcI64 t b w.sa w.lit l).toNat + (srcI64 t b w.sb w.lit l).toNat)) ∧
    (LaneReady s c b t (.isub64 w) w → ∃ u t', exec (.isub64 w) s = .next u ∧ PartyOnly s u c b t' ∧
      t.WrotePair t' (activeLanes c t w.g) w.vd.toNat fun l =>
        BitVec.ofInt 64 ((srcI64 t b w.sa w.lit l).toNat - (srcI64 t b w.sb w.lit l).toNat : Int)) ∧
    (LaneReady s c b t (.imadw w) w → ∃ u t', exec (.imadw w) s = .next u ∧ PartyOnly s u c b t' ∧
      t.WrotePair t' (activeLanes c t w.g) w.vd.toNat fun l =>
        BitVec.ofNat 64 ((t.reg64 w.vd.toNat l).toNat + (srcW t b w.sa w.lit l).toNat * (srcW t b w.sb w.lit l).toNat)) ∧
    (LaneReady s c b t (.lea w) w → ∃ u t', exec (.lea w) s = .next u ∧ PartyOnly s u c b t' ∧
      t.WrotePair t' (activeLanes c t w.g) w.vd.toNat fun l =>
        BitVec.ofInt 64 ((srcI64 t b w.sa w.lit l).toNat + (srcW t b w.sb w.lit l).toInt))

/-- R331, R332, R333, R334, R169.  The comparisons, PLOG and MOVP to predicates write the lane predicates their rules name in the
active lanes (a write to p7 is ignored) and nothing else; SEL and MOVP to a register write VD and nothing else. -/
def Sys2Proof.Rules.LanePredicateResults : Prop :=
  ∀ (w : LaneW) (s : State) (c : Cur) (b : Blk) (t : Thr), 7 ≤ t.preds.length →
    (LaneReady s c b t (.icmp w) w → ∃ u t', exec (.icmp w) s = .next u ∧ PartyOnly s u c b t' ∧
      ∃ f, t.WrotePred t' (activeLanes c t w.g) (w.vd.toNat % 8) f ∧ ∀ l, f l = true ↔
        Rules.cond (w.vd.toNat / 8 % 8)
          (if w.vd.toNat / 64 = 1 then (srcI64 t b w.sa w.lit l).toInt else (srcW t b w.sa w.lit l).toInt)
          (if w.vd.toNat / 64 = 1 then (srcI64 t b w.sb w.lit l).toInt else (srcW t b w.sb w.lit l).toInt)) ∧
    (LaneReady s c b t (.icmpu w) w → ∃ u t', exec (.icmpu w) s = .next u ∧ PartyOnly s u c b t' ∧
      ∃ f, t.WrotePred t' (activeLanes c t w.g) (w.vd.toNat % 8) f ∧ ∀ l, f l = true ↔
        Rules.cond (w.vd.toNat / 8 % 8)
          (if w.vd.toNat / 64 = 1 then (srcI64 t b w.sa w.lit l).toNat else (srcW t b w.sa w.lit l).toNat)
          (if w.vd.toNat / 64 = 1 then (srcI64 t b w.sb w.lit l).toNat else (srcW t b w.sb w.lit l).toNat)) ∧
    (LaneReady s c b t (.plog w) w → ∃ u t', exec (.plog w) s = .next u ∧ PartyOnly s u c b t' ∧
      t.WrotePred t' (activeLanes c t w.g) (w.vd.toNat % 8) fun l =>
        w.vd.getLsbD (3 + 2 * (t.pred (w.sa.toNat % 8) l).toNat + (t.pred (w.sb.toNat % 8) l).toNat)) ∧
    (LaneReady s c b t (.movpToPredicates w) w → ∃ u t', exec (.movpToPredicates w) s = .next u ∧ PartyOnly s u c b t' ∧
      t.PredsOnly t' ∧ ∀ p l, l < 32 → t'.pred p l =
        if p < 7 ∧ w.vd.getLsbD p ∧ (activeLanes c t w.g).getLsbD l then (srcW t b w.sa w.lit l).getLsbD p
        else t.pred p l) ∧
    (LaneReady s c b t (.movpToRegister w) w → ∃ u t', exec (.movpToRegister w) s = .next u ∧ PartyOnly s u c b t' ∧
      ∃ f, t.Wrote t' (activeLanes c t w.g) w.vd.toNat f ∧
        ∀ l i, (f l).getLsbD i = (decide (i < 8) && t.pred i l)) ∧
    (LaneReady s c b t (.sel w) w → ∃ u t', exec (.sel w) s = .next u ∧ PartyOnly s u c b t' ∧
      t.Wrote t' c.lanes w.vd.toNat fun l =>
        if t.pred (c.hdr.toNat / 2 ^ 15 % 8) l != c.hdr.getLsbD 18 then srcW t b w.sa w.lit l else srcW t b w.sb w.lit l)

/-! ### Lane floating-point words (R255 to R260, R342 to R356) -/

namespace Sys2Proof.Rules

/-- The direction a control byte's RMODE gives (R256, R343). -/
def ctlDir (t : Thr) (w : LaneW) : Dir := dirOf t.frm (w.sb.toNat % 8) 0

/-- Half `h` of the lane's first source, second source and old VD (R355). -/
def halfA (w : LaneW) (t : Thr) (b : Blk) (l h : Nat) : Nat := (srcW t b w.sa w.lit l).toNat / 2 ^ (16 * h) % 2 ^ 16
/-- Half `h` of the second source. -/
def halfB (w : LaneW) (t : Thr) (b : Blk) (l h : Nat) : Nat := (srcW t b w.sb w.lit l).toNat / 2 ^ (16 * h) % 2 ^ 16
/-- Half `h` of the old VD. -/
def halfD (w : LaneW) (t : Thr) (l h : Nat) : Nat := (t.reg w.vd.toNat l).toNat / 2 ^ (16 * h) % 2 ^ 16

/-- Two halves computed independently, with the exceptions of both (R255, R355). -/
def halves (f : Nat → FRes) : FRes :=
  { val := (f 0).val + 65536 * (f 1).val
    exc := { nv := (f 0).exc.nv || (f 1).exc.nv, dz := (f 0).exc.dz || (f 1).exc.dz, ovf := (f 0).exc.ovf || (f 1).exc.ovf,
             unf := (f 0).exc.unf || (f 1).exc.unf, nx := (f 0).exc.nx || (f 1).exc.nx } }

/-- The integer a conversion takes from a source (R351): a pair with W, else 32 bits. -/
def intSource (w : LaneW) (t : Thr) (b : Blk) (l : Nat) (signed : Bool) : Int :=
  if w.sb.getLsbD 3 then (if signed then (srcI64 t b w.sa w.lit l).toInt else (srcI64 t b w.sa w.lit l).toNat)
  else if signed then (srcW t b w.sa w.lit l).toInt else (srcW t b w.sa w.lit l).toNat

/-- A conversion to an integer of 64 bits with W, else 32 (R351). -/
def toInt (w : LaneW) (t : Thr) (b : Blk) (l : Nat) (signed : Bool) : FRes :=
  let n := if w.sb.getLsbD 3 then 64 else 32
  let lo : Int := if signed then -(2 ^ (n - 1)) else 0
  let hi : Int := if signed then 2 ^ (n - 1) - 1 else 2 ^ n - 1
  if w.sb.getLsbD 4 then fp64.toInteger (ctlDir t w) n lo hi (srcA64 w t b l)
  else fp32.toInteger (ctlDir t w) n lo hi (srcA w t b l)

/-- A floating word of one extension word or none: the constructor, whether it writes a pair, and its result in a lane. -/
structure FloatRow where
  op : LaneW → Instr
  wide : LaneW → Bool
  res : LaneW → Thr → Blk → Nat → FRes

/-- A row that writes 32 bits. -/
def single (op : LaneW → Instr) (res : LaneW → Thr → Blk → Nat → FRes) : FloatRow := ⟨op, fun _ => false, res⟩
/-- A row that writes a pair. -/
def double (op : LaneW → Instr) (res : LaneW → Thr → Blk → Nat → FRes) : FloatRow := ⟨op, fun _ => true, res⟩

/-- FP32 arithmetic, minimum and maximum (R345 to R347). -/
def fp32Rows (x : SrcX) : List FloatRow :=
  [ single .fadd fun w t b l => fp32.add (dirOfFrm t.frm) false (srcA w t b l) (srcB w t b l),
    single .fsub fun w t b l => fp32.add (dirOfFrm t.frm) true (srcA w t b l) (srcB w t b l),
    single .fmul fun w t b l => fp32.mul (dirOfFrm t.frm) (srcA w t b l) (srcB w t b l),
    single .ffma fun w t b l => fp32.fma (dirOfFrm t.frm) (srcA w t b l) (srcB w t b l) (t.reg w.vd.toNat l).toNat,
    single (fun w => .ffma3 w x) fun w t b l =>
      fp32.fma (dirOf t.frm (x.hi.toNat % 8) 0) (srcA w t b l) (srcB w t b l) (srcW t b x.sc w.lit l).toNat,
    single .fldexp fun w t b l => fp32.ldexp (dirOfFrm t.frm) (srcA w t b l) (srcW t b w.sb w.lit l).toInt,
    single .fmin fun w t b l => fp32.minmax false (srcA w t b l) (srcB w t b l),
    single .fmax fun w t b l => fp32.minmax true (srcA w t b l) (srcB w t b l),
    single .fminnum fun w t b l => fp32.minmaxNum false (srcA w t b l) (srcB w t b l),
    single .fmaxnum fun w t b l => fp32.minmaxNum true (srcA w t b l) (srcB w t b l) ]

/-- FP64 arithmetic, minimum and maximum (R356). -/
def fp64Rows : List FloatRow :=
  [ double .dadd fun w t b l => fp64.add (dirOfFrm t.frm) false (srcA64 w t b l) (srcB64 w t b l),
    double .dmul fun w t b l => fp64.mul (dirOfFrm t.frm) (srcA64 w t b l) (srcB64 w t b l),
    double .dfma fun w t b l =>
      fp64.fma (dirOfFrm t.frm) (srcA64 w t b l) (srcB64 w t b l) (t.reg64 w.vd.toNat l).toNat,
    double .dmin fun w t b l => fp64.minmax false (srcA64 w t b l) (srcB64 w t b l),
    double .dmax fun w t b l => fp64.minmax true (srcA64 w t b l) (srcB64 w t b l) ]

/-- The packed forms (R355). -/
def packedRows : List FloatRow :=
  [ single .hadd2 fun w t b l => halves fun h => fp16.add (dirOfFrm t.frm) false (halfA w t b l h) (halfB w t b l h),
    single .hmul2 fun w t b l => halves fun h => fp16.mul (dirOfFrm t.frm) (halfA w t b l h) (halfB w t b l h),
    single .hfma2 fun w t b l => halves fun h =>
      fp16.fma (dirOfFrm t.frm) (halfA w t b l h) (halfB w t b l h) (halfD w t l h),
    single .badd2 fun w t b l => halves fun h => bf16.add (dirOfFrm t.frm) false (halfA w t b l h) (halfB w t b l h),
    single .bmul2 fun w t b l => halves fun h => bf16.mul (dirOfFrm t.frm) (halfA w t b l h) (halfB w t b l h),
    single .bfma2 fun w t b l => halves fun h =>
      bf16.fma (dirOfFrm t.frm) (halfA w t b l h) (halfB w t b l h) (halfD w t l h) ]

/-- Integral values, exponents and conversions (R350, R351). -/
def convertRows : List FloatRow :=
  [ ⟨.frnd, fun w => w.sb.getLsbD 3, fun w t b l =>
      if w.sb.getLsbD 3 then fp64.rint (ctlDir t w) (srcA64 w t b l) else fp32.rint (ctlDir t w) (srcA w t b l)⟩,
    single .fgetexp fun w t b l =>
      if w.sb.getLsbD 0 then fp64.getexp (srcA64 w t b l) else fp32.getexp (srcA w t b l),
    ⟨.cvtfi, fun w => w.sb.getLsbD 3, fun w t b l => toInt w t b l true⟩,
    ⟨.cvtfu, fun w => w.sb.getLsbD 3, fun w t b l => toInt w t b l false⟩,
    ⟨.cvtif, fun w => w.sb.getLsbD 4, fun w t b l =>
      if w.sb.getLsbD 4 then fp64.ofInteger (ctlDir t w) (intSource w t b l true)
      else fp32.ofInteger (ctlDir t w) (intSource w t b l true)⟩,
    ⟨.cvtuf, fun w => w.sb.getLsbD 4, fun w t b l =>
      if w.sb.getLsbD 4 then fp64.ofInteger (ctlDir t w) (intSource w t b l false)
      else fp32.ofInteger (ctlDir t w) (intSource w t b l false)⟩,
    single .cvtdf fun w t b l => fp64.convert fp32 (ctlDir t w) false (srcA64 w t b l),
    double .cvtfd fun w t b l => fp32.convert fp64 .rne false (srcA w t b l) ]

/-- Every floating word whose whole result goes to VD or its pair. -/
def floatRows (x : SrcX) : List FloatRow := fp32Rows x ++ fp64Rows ++ packedRows ++ convertRows

/-- The sixteen conditions of R348 on how two operands compare. -/
def fcond (code : Nat) (r : FRel) : Prop :=
  (code = 0 ∧ r = .eq) ∨ (code = 1 ∧ r ≠ .eq) ∨ (code = 2 ∧ r = .lt) ∨ (code = 3 ∧ (r = .lt ∨ r = .eq)) ∨
  (code = 4 ∧ r = .gt) ∨ (code = 5 ∧ (r = .gt ∨ r = .eq)) ∨ (code = 6 ∧ r ≠ .un) ∨ (code = 7 ∧ r = .un) ∨
  (code = 8 ∧ (r = .un ∨ r = .lt)) ∨ (code = 9 ∧ r ≠ .gt) ∨ (code = 10 ∧ (r = .un ∨ r = .gt)) ∨ (code = 11 ∧ r ≠ .lt) ∨
  (code = 12 ∧ (r = .un ∨ r = .eq)) ∨ (code = 13 ∧ (r = .lt ∨ r = .gt))

/-- What a comparison of R348 signals: invalid, for a signalling NaN, or for a quiet one under conditions 2 to 5. -/
def fcmpExc (f : Fmt) (code a b : Nat) : FRes :=
  { val := 0, exc := { nv := f.isSnan a || f.isSnan b || (decide (2 ≤ code ∧ code ≤ 5) && (f.isNan a || f.isNan b)) } }

end Sys2Proof.Rules

/-- R255, R345 to R347, R350, R351, R355, R356 (derived: completion, frame and the flags of R259 in one).  Every floating word that
stands ready and meets no enabled exception completes: VD, or its pair, holds each active lane's result, the sticky flags of the
active lanes' exceptions are set, and every other register, predicate, special register, party and byte of memory is as before. -/
def Obligations.FloatResults : Prop :=
  ∀ (x : SrcX), ∀ e ∈ Rules.floatRows x, ∀ (w : LaneW) (s : State) (c : Cur) (b : Blk) (t : Thr), LaneReady s c b t (e.op w) w →
    Untrapped c t (activeLanes c t w.g) (e.res w t b) →
    ∃ u t', exec (e.op w) s = .next u ∧ PartyOnly s u c b t' ∧
      t.WroteFloat t' (activeLanes c t w.g) w.vd.toNat (e.wide w) (e.res w t b)

/-- R259, R277.  The lanes of a floating word whose exceptions have their traps enabled write no result and set no flag: they raise
FP_EXCEPTION, with the exceptions met in TCAUSE.FLAGS, and return to the word itself; the other lanes complete as if they alone had
issued it. -/
def Obligations.FloatTraps : Prop :=
  ∀ (x : SrcX), ∀ e ∈ Rules.floatRows x, ∀ (w : LaneW) (s : State) (c : Cur) (b : Blk) (t : Thr), LaneReady s c b t (e.op w) w →
    let r := e.res w t b
    let act := activeLanes c t w.g
    ∀ bad : Word, (∀ l, l < 32 → bad.getLsbD l = (act.getLsbD l && fpTraps t.frm (t.privileged c.lanes) (r l).exc)) → bad ≠ 0 →
    ∃ u t' flags, PartyOnly s u c b t' ∧ t.WroteFloat t' (act &&& ~~~bad) w.vd.toNat (e.wide w) r ∧
      (∀ k, flags.getLsbD k = (maskLanes bad).any fun l => (r l).exc.bits.getLsbD k) ∧
      exec (e.op w) s = .next { u.trap c (b.setThr c.w t') t'
        { cause := .fpException, lanes := bad, faulting := bad, npc := c.pc, flags := flags } with focus := none }

namespace Sys2Proof.Rules

/-- The value of a finite encoding of a format (R251). -/
def value (f : Fmt) (x : Nat) : ℚ :=
  let e := x / 2 ^ f.m % 2 ^ f.eb
  let fr := x % 2 ^ f.m
  (if x / 2 ^ (f.eb + f.m) % 2 = 1 then -1 else 1) *
    (if e = 0 then (2 : ℚ) ^ (1 - (f.bias : ℤ)) * (fr / 2 ^ f.m) else (2 : ℚ) ^ ((e : ℤ) - f.bias) * (1 + fr / 2 ^ f.m))

/-- An encoding of a format that is neither a NaN nor an infinity. -/
def Finite (f : Fmt) (x : Nat) : Prop := x < 2 ^ (1 + f.eb + f.m) ∧ f.isNan x = false ∧ f.isInf x = false

/-- A value the format has, but for the bound on its exponent from above, and from below where `low` is unset; an even one where `even`
is set. -/
def Fits (f : Fmt) (low even : Bool) (y : ℚ) : Prop :=
  let least : ℤ := 1 - (f.bias : ℤ) - f.m
  ∃ (n : ℕ) (q : ℤ), (low = true → least ≤ q) ∧ n ≤ 2 ^ (f.m + 1) ∧ |y| = (n : ℚ) * (2 : ℚ) ^ q ∧
    (even = true → n % 2 = 0 ∧ (low = true ∧ q = least ∨ 2 ^ f.m ≤ n))

/-- `y` is `x` rounded to the precision of the format in one of the four fixed directions (R256). -/
def Rounded (f : Fmt) (low : Bool) (d : Dir) (x y : ℚ) : Prop :=
  Fits f low false y ∧ match d with
    | .rne => ∀ z, Fits f low false z → |x - y| ≤ |x - z| ∧ (|x - y| = |x - z| → z ≠ y → Fits f low true y)
    | .rtz => |y| ≤ |x| ∧ 0 ≤ x * y ∧ ∀ z, Fits f low false z → |z| ≤ |x| → |z| ≤ |y|
    | .rdn => y ≤ x ∧ ∀ z, Fits f low false z → z ≤ x → z ≤ y
    | .rup => x ≤ y ∧ ∀ z, Fits f low false z → x ≤ z → y ≤ z
    | .rs _ => True

/-- What an exact nonzero result is delivered as, with its exceptions (R255, R257, R259, R353): rounded once, with the sign it has, and
the largest finite value, the infinity or the NaN of the format where it overflows. -/
def Delivers (f : Fmt) (d : Dir) (sat : Bool) (x : ℚ) (r : FRes) : Prop :=
  ∃ y u, Rounded f true d x y ∧ Rounded f false d x u ∧
    if |y| ≤ value f f.maxEnc then
      Finite f r.val ∧ value f r.val = y ∧ (f.signOf r.val = true ↔ x < 0) ∧
      (r.exc.nx = true ↔ y ≠ x) ∧ (r.exc.unf = true ↔ y ≠ x ∧ |u| < (2 : ℚ) ^ (1 - (f.bias : ℤ))) ∧
      r.exc.nv = false ∧ r.exc.dz = false ∧ r.exc.ovf = false
    else
      let largest := sat = true ∨ f.sp = .none ∨ d = .rtz ∨ d = .rdn ∧ 0 < x ∨ d = .rup ∧ x < 0
      f.signOf r.val = decide (x < 0) ∧ r.val < 2 ^ (1 + f.eb + f.m) ∧
      (largest → f.mag r.val = f.maxEnc) ∧
      (¬ largest → f.mag r.val = if f.sp = .ieee then f.infEnc else f.canonNan) ∧
      r.exc = if f.sp = .none then { nv := true } else { ovf := true, nx := true }

/-- R251.  The largest finite value of each format. -/
def LargestFinite : Prop :=
  ∀ e ∈ [(fp64, (2 - (2 : ℚ) ^ (-52 : ℤ)) * 2 ^ 1023), (fp32, (2 - (2 : ℚ) ^ (-23 : ℤ)) * 2 ^ 127), (fp16, 65504),
      (bf16, (2 - (2 : ℚ) ^ (-7 : ℤ)) * 2 ^ 127), (e5m2, 57344), (e4m3, 448), (e3m2, 28), (e2m3, 7.5), (e2m1, 6)],
    value e.1 e.1.maxEnc = e.2

/-- R255, R257, R259 (derived).  Sum, difference, product and fused product of finite operands, and conversion between formats, deliver
the exact result rounded once; an exact zero has the sign R255 gives, and signals nothing. -/
def ExactlyRounded : Prop :=
  ∀ (d : Dir), (∀ r, d ≠ .rs r) →
    (∀ (f : Fmt), f ∈ [fp64, fp32, fp16, bf16] → ∀ (a b c : Nat), Finite f a → Finite f b → Finite f c →
      (∀ sub : Bool,
        let x := if sub then value f a - value f b else value f a + value f b
        let sb := f.signOf b != sub
        (x ≠ 0 → Delivers f d false x (f.add d sub a b)) ∧
        (x = 0 → f.add d sub a b = { val := f.withSign (if f.signOf a = sb then sb else d == .rdn) 0 })) ∧
      (let x := value f a * value f b
       let s := f.signOf a != f.signOf b
       (x ≠ 0 → Delivers f d false x (f.mul d a b)) ∧ (x = 0 → f.mul d a b = { val := f.withSign s 0 }) ∧
       (x + value f c ≠ 0 → Delivers f d false (x + value f c) (f.fma d a b c)) ∧
       (x + value f c = 0 → f.fma d a b c = { val := f.withSign (if s = f.signOf c then s else d == .rdn) 0 }))) ∧
    (∀ (f g : Fmt) (sat : Bool) (a : Nat), f ∈ [fp64, fp32, fp16, bf16, e5m2, e4m3, e3m2, e2m3, e2m1] →
      g ∈ [fp64, fp32, fp16, bf16, e5m2, e4m3, e3m2, e2m3, e2m1] → Finite f a →
      (value f a ≠ 0 → Delivers g d sat (value f a) (f.convert g d sat a)) ∧
      (value f a = 0 → f.convert g d sat a = { val := g.withSign (f.signOf a) 0 }))

/-- R358 (derived).  What TBLEVAL computes from an image: segment and offset exactly, then two fused products rounded to nearest; it
signals only a signalling input. -/
def TableValues : Prop :=
  ∀ (img : List Byte) (a : Nat), a < 2 ^ 32 → img.length = 4112 →
    let at32 (o : Nat) : Nat := leNat ((img.drop o).take 4)
    let lo := at32 0
    let w : ℤ := (BitVec.ofNat 8 (leNat ((img.drop 12).take 1))).toInt
    (fp32.isNan a = true → tableValue img a = { val := fp32.quiet a, exc := { nv := fp32.isSnan a } }) ∧
    (fp32.isNan a = false → (fp32.isNan lo = true ∨ fp32.isInf lo = true ∨ a = 0xFF800000) → tableValue img a = { val := at32 4 }) ∧
    (Finite fp32 lo → a = 0x7F800000 → tableValue img a = { val := at32 8 }) ∧
    (Finite fp32 lo → Finite fp32 a →
      let i := ((value fp32 a - value fp32 lo) / (2 : ℚ) ^ w).floor
      (value fp32 a < value fp32 lo → tableValue img a = { val := at32 4 }) ∧
      (255 < i → tableValue img a = { val := at32 8 }) ∧
      (value fp32 lo ≤ value fp32 a → i ≤ 255 →
        let x := value fp32 a - (value fp32 lo + i * (2 : ℚ) ^ w)
        let c (k : Nat) : Nat := at32 (16 + 16 * i.toNat + 4 * k)
        ∃ t : FRes, (if x = 0 then t.val = 0 else Delivers fp32 .rne false x t) ∧
          tableValue img a = { val := (fp32.fma .rne (fp32.fma .rne (c 2) t.val (c 1)).val t.val (c 0)).val }))

end Sys2Proof.Rules

/-- R251, R255 to R257, R259 (derived).  What the four fixed directions do to an exact magnitude `m * 2 ^ e` cut to a multiple of
`2 ^ q`: RTZ truncates, RDN and RUP move away from zero only towards their infinity, RNE takes the nearest multiple and an even one of two
that are equally near; the result is inexact exactly where something was cut off.  Sums, products, fused products and conversions deliver
the exact result so rounded, with the overflow of R257 and the exceptions of R259. -/
def Obligations.RoundingDirections : Prop :=
  Sys2Proof.Rules.LargestFinite ∧ Sys2Proof.Rules.ExactlyRounded ∧
  ∀ (s : Bool) (m : Nat) (e q : Int), e < q →
    let d := 2 ^ (q - e).toNat
    (∀ dir : Dir, (roundAt dir s m e q).2 = decide (m % d ≠ 0)) ∧
    (roundAt .rtz s m e q).1 = m / d ∧
    (roundAt .rdn s m e q).1 = (if s then (m + d - 1) / d else m / d) ∧
    (roundAt .rup s m e q).1 = (if s then m / d else (m + d - 1) / d) ∧
    (∀ n, n = (roundAt .rne s m e q).1 → 2 * (n * d) ≤ 2 * m + d ∧ 2 * m ≤ 2 * (n * d) + d ∧
      (2 * m = 2 * (n * d) + d ∨ 2 * (n * d) = 2 * m + d → n % 2 = 0))

/-- R347, R349, R354 (derived).  FABS and FNEG clear or invert the sign of each element WIDTH names and change no other bit, FCLASS
writes the one-hot mask of the source's class, UNPACK8 widens two elements; none signals anything, and nothing else changes. -/
def Sys2Proof.Rules.FloatBitResults : Prop :=
  ∀ (w : LaneW) (x : SrcX) (s : State) (c : Cur) (b : Blk) (t : Thr),
    (∀ (inv : Bool) (op : Instr), op = (if inv then .fneg w else .fabs w) → LaneReady s c b t op w →
      ∃ u t', exec op s = .next u ∧ PartyOnly s u c b t' ∧
        if w.sb = 2 then ∃ f, t.WrotePair t' (activeLanes c t w.g) w.vd.toNat f ∧ ∀ l i, i < 64 →
            (f l).getLsbD i = if i = 63 then inv && !(srcF64 t b w.sa w.lit l).getLsbD 63 else (srcF64 t b w.sa w.lit l).getLsbD i
        else ∃ f, t.Wrote t' (activeLanes c t w.g) w.vd.toNat f ∧ ∀ l i, i < 32 →
            (f l).getLsbD i = if i = 31 ∨ (w.sb = 1 ∧ i = 15) then inv && !(srcW t b w.sa w.lit l).getLsbD i
              else (srcW t b w.sa w.lit l).getLsbD i) ∧
    (LaneReady s c b t (.fclass w) w → ∃ u t', exec (.fclass w) s = .next u ∧ PartyOnly s u c b t' ∧
      t.Wrote t' (activeLanes c t w.g) w.vd.toNat fun l =>
        laneBit (if w.sb = 0 then fp32.classBit (srcA w t b l) else if w.sb = 1 then fp64.classBit (srcA64 w t b l)
          else if w.sb = 2 then fp16.classBit (Rules.halfA w t b l 0) else bf16.classBit (Rules.halfA w t b l 0))) ∧
    (LaneReady s c b t (.unpack8 w x) w → ∃ u t', exec (.unpack8 w x) s = .next u ∧ PartyOnly s u c b t' ∧
      let k := x.sc.toNat % 8
      let df := x.sc.toNat / 32 % 4
      let f := packFmt k
      let elem (l j : Nat) : Nat :=
        (srcW t b w.sa w.lit l).toNat / 2 ^ (packWidth k * (2 * (x.sc.toNat / 8 % 4) + j)) % 2 ^ (1 + f.eb + f.m)
      if df = 0 then t.WrotePair t' (activeLanes c t w.g) w.vd.toNat fun l =>
          BitVec.ofNat 64 (unpackElem f fp32 (elem l 0) + 2 ^ 32 * unpackElem f fp32 (elem l 1))
      else t.Wrote t' (activeLanes c t w.g) w.vd.toNat fun l =>
          BitVec.ofNat 32 (unpackElem f (if df = 1 then fp16 else bf16) (elem l 0)
            + 65536 * unpackElem f (if df = 1 then fp16 else bf16) (elem l 1)))

/-- R348, R352, R353 (derived).  FCMP and DCMP write the condition's truth into their predicate in the active lanes; CVTFF and PACK8
write the converted value into the register or the part of it their fields name, and advance the stochastic counts of the active
lanes under RMODE 5; their exceptions become sticky, and nothing else changes. -/
def Sys2Proof.Rules.FloatCompareAndPackResults : Prop :=
  ∀ (w : LaneW) (x : SrcX) (s : State) (c : Cur) (b : Blk) (t : Thr), 7 ≤ t.preds.length →
    (∀ (f : Fmt) (op : Instr) (p q : Nat → Nat),
      (op = .fcmp w ∧ f = fp32 ∧ p = srcA w t b ∧ q = srcB w t b) ∨ (op = .dcmp w ∧ f = fp64 ∧ p = srcA64 w t b ∧ q = srcB64 w t b) →
      LaneReady s c b t op w →
      Untrapped c t (activeLanes c t w.g) (fun l => Rules.fcmpExc f (w.vd.toNat / 8) (p l) (q l)) →
      ∃ u t', exec op s = .next u ∧ PartyOnly s u c b t' ∧
        t' = { t with preds := t'.preds, frm := t'.frm, lanes := t'.lanes, loops := t'.loops } ∧
        t.Flagged t' (activeLanes c t w.g) (fun l => Rules.fcmpExc f (w.vd.toNat / 8) (p l) (q l)) ∧
        ∀ n l, l < 32 → (t'.pred n l = true ↔
          if n = w.vd.toNat % 8 ∧ n < 7 ∧ (activeLanes c t w.g).getLsbD l then Rules.fcond (w.vd.toNat / 8) (f.rel (p l) (q l))
          else t.pred n l = true)) ∧
    (∀ r, LaneReady s c b t (.cvtff w x) w →
      let e := x.sc.toNat + 256 * x.ec.toNat + 512 * x.hi.toNat
      let rm := e / 64 % 8
      let df := e / 4 % 4
      (r = fun l =>
        (cvtFmt (e % 4)).convert (cvtFmt df) (dirOf t.frm rm (rsValue b.info t c.w l (e / 32 % 2)))
          (decide (e / 512 % 2 = 1 ∧ ¬ (df = 3 ∨ df = 0 ∧ e % 4 ≠ 3)))
          (if e % 4 = 3 then srcA64 w t b l else if e % 4 = 0 then srcA w t b l else Rules.halfA w t b l (e / 16 % 2))) →
      Untrapped c t (activeLanes c t w.g) r →
      ∃ u t', exec (.cvtff w x) s = .next u ∧ PartyOnly s u c b t' ∧
        t' = { t with rows := t'.rows, frm := t'.frm, srCnt := t'.srCnt, lanes := t'.lanes, loops := t'.loops } ∧
        t.Flagged t' (activeLanes c t w.g) r ∧
        (∀ l, t'.srCnt.getD l 0 = if rm = 5 ∧ l < t.srCnt.length ∧ (activeLanes c t w.g).getLsbD l then t.srCnt.getD l 0 + 1
          else t.srCnt.getD l 0) ∧
        ∀ n l, l < 32 → t'.reg n l =
          if !(activeLanes c t w.g).getLsbD l then t.reg n l
          else if n = w.vd.toNat then
            (if df = 1 ∨ df = 2 then insertBits (t.reg n l) (16 * (e / 32 % 2)) 16 (r l).val else BitVec.ofNat 32 (r l).val)
          else if df = 3 ∧ n = w.vd.toNat + 1 then BitVec.ofNat 32 ((r l).val / 2 ^ 32)
          else t.reg n l) ∧
    (∀ r, LaneReady s c b t (.pack8 w x) w →
      let k := x.sc.toNat % 8
      let pos := x.sc.toNat / 8 % 4
      let rm := x.sc.toNat / 32 % 8
      let n := packWidth k
      let one (l j a : Nat) : FRes :=
        fp32.convert (packFmt k) (dirOf t.frm rm (rsValue b.info t c.w l (2 * pos + j))) x.ec a
      (r = fun l => { val := (one l 0 (srcA w t b l)).val + 2 ^ n * (one l 1 (srcB w t b l)).val,
                      exc := (one l 0 (srcA w t b l)).exc.both (one l 1 (srcB w t b l)).exc }) →
      Untrapped c t (activeLanes c t w.g) r →
      ∃ u t', exec (.pack8 w x) s = .next u ∧ PartyOnly s u c b t' ∧
        t' = { t with rows := t'.rows, frm := t'.frm, srCnt := t'.srCnt, lanes := t'.lanes, loops := t'.loops } ∧
        t.Flagged t' (activeLanes c t w.g) r ∧
        (∀ l, t'.srCnt.getD l 0 = if rm = 5 ∧ l < t.srCnt.length ∧ (activeLanes c t w.g).getLsbD l then t.srCnt.getD l 0 + 1
          else t.srCnt.getD l 0) ∧
        ∀ q l, l < 32 → t'.reg q l =
          if q = w.vd.toNat ∧ (activeLanes c t w.g).getLsbD l then insertBits (t.reg q l) (2 * n * pos) (2 * n) (r l).val
          else t.reg q l)


/-! ### Cross-lane words (R363 to R367) -/

namespace Sys2Proof.Rules

/-- The active lanes of a lane's sub-group, ascending (R363). -/
def group (act : Word) (wd l : Nat) : List Nat := (List.range 32).filter fun k => act.getLsbD k && k / wd == l / wd

/-- What a shuffle with target member `t` gives lane `l` (R364). -/
def shuffled (x : SrcX) (act : Word) (a : Nat → Word) (l : Nat) (t : Int) : Word :=
  let wd := x.width
  let own := if x.edge = 2 then 0 else a l
  let take (k : Nat) : Word := if act.getLsbD k then a k else own
  if 0 ≤ t ∧ t < wd then take (l / wd * wd + t.toNat)
  else if x.edge = 1 then take (l / wd * wd + (t % (wd : Int)).toNat)
  else own

/-- The fixed tree over member indices of R366: `x` holds the members' values, and level `k` combines those 2^k apart. -/
def tree (op : Word → Word → Word) (sgw : Nat) (x : Nat → Word) : Word :=
  ((List.range sgw).foldl (fun y k m => if m % 2 ^ (k + 1) = 0 then op (y m) (y (m + 2 ^ k)) else y m) x) 0

/-- The sum of words modulo 2^32. -/
def sum (l : List Word) : Word := BitVec.ofNat 32 (l.map BitVec.toNat).sum
/-- Signed and unsigned extremes of a list and an identity. -/
def minS (l : List Word) : Word := BitVec.ofInt 32 (l.foldl (fun m x => min m x.toInt) 2147483647)
/-- The signed maximum. -/
def maxS (l : List Word) : Word := BitVec.ofInt 32 (l.foldl (fun m x => max m x.toInt) (-2147483648))
/-- The unsigned minimum. -/
def minU (l : List Word) : Word := BitVec.ofNat 32 (l.foldl (fun m x => min m x.toNat) 4294967295)
/-- The unsigned maximum. -/
def maxU (l : List Word) : Word := BitVec.ofNat 32 (l.foldl (fun m x => max m x.toNat) 0)

/-- The lanes a scan folds for lane `l` (R367). -/
def below (x : SrcX) (act : Word) (l : Nat) : List Nat :=
  (group act x.width l).filter fun k => decide (k < l) || (decide (k = l) && !x.excl)

/-- The cross-lane words that write a register, with the result of lane `l` from the active lanes and their values of a and b. -/
def crossRows : List ((LaneW → SrcX → Instr) × (SrcX → Word → (Nat → Word) → (Nat → Word) → Nat → Word)) :=
  [ (.shfl, fun x act a b l => shuffled x act a l (b l).toNat),
    (.shflup, fun x act a b l => shuffled x act a l ((l % x.width : Nat) - (b l).toNat : Int)),
    (.shfldn, fun x act a b l => shuffled x act a l ((l % x.width : Nat) + (b l).toNat : Int)),
    (.shflx, fun x act a b l => shuffled x act a l ((l % x.width ^^^ (b l).toNat : Nat) : Int)),
    (.ballot, fun x act a _ l => maskOf fun k => (group act x.width l).contains k && a k != 0),
    (.matchLane, fun x act a _ l => maskOf fun k => (group act x.width l).contains k && a k == a l),
    (.redadd, fun x act a _ l => sum ((group act x.width l).map a)),
    (.redmin, fun x act a _ l => minS ((group act x.width l).map a)),
    (.redmax, fun x act a _ l => maxS ((group act x.width l).map a)),
    (.redminu, fun x act a _ l => minU ((group act x.width l).map a)),
    (.redmaxu, fun x act a _ l => maxU ((group act x.width l).map a)),
    (.redand, fun x act a _ l => maskOf fun i => (group act x.width l).all fun k => (a k).getLsbD i),
    (.redor, fun x act a _ l => maskOf fun i => (group act x.width l).any fun k => (a k).getLsbD i),
    (.redxor, fun x act a _ l => maskOf fun i => ((group act x.width l).filter fun k => (a k).getLsbD i).length % 2 == 1),
    (.fredadd, fun x act a _ l =>
      tree (fun p q => BitVec.ofNat 32 (fp32.add .rne false p.toNat q.toNat).val) (x.bits / 2 ^ 9 % 8) fun m =>
        if act.getLsbD (l / x.width * x.width + m) then a (l / x.width * x.width + m) else 0x80000000),
    (.fredmax, fun x act a _ l =>
      tree (fun p q => BitVec.ofNat 32 (fp32.minmaxNum true p.toNat q.toNat).val) (x.bits / 2 ^ 9 % 8) fun m =>
        if act.getLsbD (l / x.width * x.width + m) then a (l / x.width * x.width + m) else 0x7FC00000),
    (.scanadd, fun x act a _ l => sum ((below x act l).map a)),
    (.scanxor, fun x act a _ l => maskOf fun i => ((below x act l).filter fun k => (a k).getLsbD i).length % 2 == 1),
    (.scanmax, fun x act a _ l => maxS ((below x act l).map a)) ]

/-- The cross-lane words that write a predicate. -/
def crossPredRows : List ((LaneW → SrcX → Instr) × (SrcX → Word → (Nat → Word) → Nat → Bool)) :=
  [ (.voteall, fun x act a l => (group act x.width l).all fun k => a k != 0),
    (.voteany, fun x act a l => (group act x.width l).any fun k => a k != 0),
    (.elect, fun x act _ l => (group act x.width l).head? == some l) ]

/-- Whether some sub-group that holds an active lane also holds an inactive one (R363). -/
def partial? (act : Word) (wd : Nat) : Prop :=
  ∃ l k, l < 32 ∧ k < 32 ∧ act.getLsbD l ∧ !act.getLsbD k ∧ k / wd = l / wd

end Sys2Proof.Rules

/-- R363 to R367 (derived: completion and frame in one).  A cross-lane word that stands ready, and without FULL or with fully
active sub-groups, writes its result in the active lanes and changes nothing else: no flag, no other register or predicate. -/
def Sys2Proof.Rules.CrossLaneResults : Prop :=
  ∀ (w : LaneW) (x : SrcX) (s : State) (c : Cur) (b : Blk) (t : Thr),
    x.full = false ∨ ¬ Rules.partial? (activeLanes c t w.g) x.width →
    (∀ e ∈ Rules.crossRows, LaneReady s c b t (e.1 w x) w → ∃ u t', exec (e.1 w x) s = .next u ∧ PartyOnly s u c b t' ∧
      t.Wrote t' (activeLanes c t w.g) w.vd.toNat
        (e.2 x (activeLanes c t w.g) (srcW t b w.sa w.lit) (srcW t b w.sb w.lit))) ∧
    (7 ≤ t.preds.length → ∀ e ∈ Rules.crossPredRows, LaneReady s c b t (e.1 w x) w →
      ∃ u t', exec (e.1 w x) s = .next u ∧ PartyOnly s u c b t' ∧
        t.WrotePred t' (activeLanes c t w.g) (w.vd.toNat % 8) (e.2 x (activeLanes c t w.g) (srcW t b w.sa w.lit)))

/-- R363.  With FULL set and a sub-group that holds both an active and an inactive lane, the active lanes raise SUBGROUP_TARGET and
return to the word itself: its only effect is the trap. -/
def Sys2Proof.Rules.PartialSubgroupsTrap : Prop :=
  ∀ (w : LaneW) (x : SrcX) (s : State) (c : Cur) (b : Blk) (t : Thr),
    x.full = true → Rules.partial? (activeLanes c t w.g) x.width →
    ∀ op, op ∈ Rules.crossRows.map (fun e => e.1 w x) ++ Rules.crossPredRows.map (fun e => e.1 w x) →
      LaneReady s c b t op w → exec op s = .next { s.trap c b t
        { cause := .subgroupTarget, lanes := activeLanes c t w.g, faulting := activeLanes c t w.g, npc := c.pc } with focus := none }

/-! ### Special functions (R171, R271, R272, R357) -/

namespace Sys2Proof.Rules

/-- The special-function words (R357). -/
def sfuWords : List ((LaneW → Instr) × SfuFn) :=
  [ (.frcp, .rcp), (.frsq, .rsq), (.fsqrt, .sqrt), (.fexp2, .exp2), (.flog2, .log2), (.fsinpi, .sinpi), (.fcospi, .cospi),
    (.ftanh, .tanh) ]

/-- An FP32 value as the multiple `n` of 2^e it is, and its magnitude's integer part. -/
def mant (x : Word) : Nat := (fp32.parts x.toNat).1
/-- Its exponent. -/
def expo (x : Word) : Int := (fp32.parts x.toNat).2
/-- Whether twice the value is an integer, and that integer's magnitude. -/
def twice (x : Word) : Option Nat :=
  let e := expo x + 1
  if 0 ≤ e then some (mant x * 2 ^ e.toNat)
  else if mant x % 2 ^ (-e).toNat = 0 then some (mant x / 2 ^ (-e).toNat) else none

/-- The canonical NaN signalled as invalid. -/
def nanRes : FRes := { val := 0x7FC00000, exc := { nv := true } }
/-- A result without a signal. -/
def plain (v : Nat) : FRes := { val := v }
/-- A result with division by zero. -/
def byZero (v : Nat) : FRes := { val := v, exc := { dz := true } }

/-- The finite or infinite inputs of R272 with a fixed result: the function, the inputs, the result. -/
def sfuSpecial : List (SfuFn × (Word → Prop) × FRes) :=
  [ (.rcp, (· = 0x00000000), byZero 0x7F800000), (.rcp, (· = 0x80000000), byZero 0xFF800000),
    (.rcp, (· = 0x7F800000), plain 0), (.rcp, (· = 0xFF800000), plain 0x80000000),
    (.rsq, (· = 0x00000000), byZero 0x7F800000), (.rsq, (· = 0x80000000), byZero 0xFF800000),
    (.rsq, fun x => 0x80000000 < x ∧ x ≤ 0xFF800000, nanRes), (.sqrt, fun x => 0x80000000 < x ∧ x ≤ 0xFF800000, nanRes),
    (.log2, fun x => 0x80000000 < x ∧ x ≤ 0xFF800000, nanRes),
    (.sqrt, (· = 0x00000000), plain 0), (.sqrt, (· = 0x80000000), plain 0x80000000), (.sqrt, (· = 0x7F800000), plain 0x7F800000),
    (.rsq, (· = 0x7F800000), plain 0),
    (.exp2, (· = 0xFF800000), plain 0), (.exp2, (· = 0x7F800000), plain 0x7F800000),
    (.log2, (· = 0x00000000), byZero 0xFF800000), (.log2, (· = 0x80000000), byZero 0xFF800000),
    (.log2, (· = 0x3F800000), plain 0), (.log2, (· = 0x7F800000), plain 0x7F800000),
    (.sinpi, fun x => x < 0x7F800000 ∧ ∃ n, twice x = some (2 * n), plain 0),
    (.sinpi, fun x => 0x80000000 ≤ x ∧ x < 0xFF800000 ∧ ∃ n, twice x = some (2 * n), plain 0x80000000),
    (.cospi, fun x => fp32.isNan x.toNat = false ∧ fp32.isInf x.toNat = false ∧ ∃ n, twice x = some (2 * n + 1), plain 0),
    (.cospi, fun x => fp32.isNan x.toNat = false ∧ fp32.isInf x.toNat = false ∧ ∃ n, twice x = some (4 * n), plain 0x3F800000),
    (.cospi, fun x => fp32.isNan x.toNat = false ∧ fp32.isInf x.toNat = false ∧ ∃ n, twice x = some (4 * n + 2), plain 0xBF800000),
    (.sinpi, fun x => x = 0x7F800000 ∨ x = 0xFF800000, nanRes), (.cospi, fun x => x = 0x7F800000 ∨ x = 0xFF800000, nanRes),
    (.tanh, (· = 0x00000000), plain 0), (.tanh, (· = 0x80000000), plain 0x80000000),
    (.tanh, (· = 0x7F800000), plain 0x3F800000), (.tanh, (· = 0xFF800000), plain 0xBF800000) ]

end Sys2Proof.Rules

/-- R272.  The special functions' results for the special inputs of the table, with their signals; a NaN is returned quieted, and
signals invalid operation where it was signalling; no function ever signals overflow, underflow or inexact; and from 2^23 up every
input of FSINPI and FCOSPI is the integer it is. -/
def Obligations.SpecialInputs : Prop :=
  (∀ e ∈ Rules.sfuSpecial, ∀ (d : Dir) (x : Word), e.2.1 x → sfu e.1 d x = e.2.2) ∧
  (∀ (fn : SfuFn) (d : Dir) (x : Word), fp32.isNan x.toNat = true →
    sfu fn d x = { val := fp32.quiet x.toNat, exc := { nv := fp32.isSnan x.toNat } }) ∧
  (∀ (fn : SfuFn) (d : Dir) (x : Word),
    (sfu fn d x).exc.ovf = false ∧ (sfu fn d x).exc.unf = false ∧ (sfu fn d x).exc.nx = false) ∧
  (∀ x : Word, fp32.isNan x.toNat = false → fp32.isInf x.toNat = false →
    0x4B000000 ≤ x.toNat % 2 ^ 31 → ∃ n, Rules.twice x = some (2 * n))

/-- R171, R357 (derived: completion and frame).  A special-function word that stands ready and meets no enabled exception sends its
results on their way: VD is marked empty, the flags are set at issue, the lane values travel as one result that will land later,
and nothing else changes; with no active lane nothing is sent. -/
def Sys2Proof.Rules.SpecialFunctionIssues : Prop :=
  ∀ e ∈ Rules.sfuWords, ∀ (w : LaneW) (s : State) (c : Cur) (b : Blk) (t : Thr), LaneReady s c b t (e.1 w) w →
    let act := activeLanes c t w.g
    let res := fun l => sfu e.2 (dirOfFrm t.frm) (srcW t b w.sa w.lit l)
    (act = 0 → ∃ u t', exec (e.1 w) s = .next u ∧ PartyOnly s u c b t' ∧ t' = { t with lanes := t'.lanes, loops := t'.loops }) ∧
    (act ≠ 0 → Untrapped c t act res → ∃ u t', exec (e.1 w) s = .next u ∧
      SentFrom s u c b t' w.vd.toNat act (fun l => BitVec.ofNat 32 (res l).val) none ∧ t.Sent t' w.vd.toNat ∧ t.Flagged t' act res)

/-- R358, R359, R361, R362 (derived).  TBLEVAL, with the core's current bank owned by its block and no own load filling, binds the
bank and delivers the table's value of each active lane in the same way; without such a bank its active lanes raise
TABLE_INVALID. -/
def Sys2Proof.Rules.TableEvaluation : Prop :=
  ∀ (w : LaneW) (s : State) (c : Cur) (b : Blk) (t : Thr), LaneReady s c b t (.tbleval w) w →
    let act := activeLanes c t w.g
    (act = 0 → ∃ u t', exec (.tbleval w) s = .next u ∧ PartyOnly s u c b t' ∧ t.Moved t') ∧
    (act ≠ 0 → s.heldBack c.core c.bctx c.w b.adm act = false →
      s.mayStart c.core (issuerOf c.bctx c.w) (lowestLane c.lanes) = true → (s.coreAt c.core).fillingBy b.adm c.w = false →
      ∀ i bank, (s.coreAt c.core).currentBank = some (i, bank) → bank.owner = some b.adm → ∀ res, (res = fun l => tableValue bank.image (srcW t b w.sa w.lit l).toNat) → Untrapped c t act res →
      ∃ u t', exec (.tbleval w) s = .next u ∧
        SentFrom (s.setCore c.core { s.coreAt c.core with
            banks := lmod i (fun k => { k with bound := k.bound + 1 }) (s.coreAt c.core).banks }) u c b t' w.vd.toNat act
          (fun l => BitVec.ofNat 32 (res l).val) (some i) ∧
        t.Sent t' w.vd.toNat ∧ t.Flagged t' act res) ∧
    (act ≠ 0 → s.heldBack c.core c.bctx c.w b.adm act = false →
      s.mayStart c.core (issuerOf c.bctx c.w) (lowestLane c.lanes) = true → (s.coreAt c.core).fillingBy b.adm c.w = false →
      (∀ i bank, (s.coreAt c.core).currentBank = some (i, bank) → bank.owner ≠ some b.adm) →
      exec (.tbleval w) s = .next { s.trap c b t
        { cause := .tableInvalid, lanes := act, faulting := act, npc := c.pc } with focus := none })

/-- R171, R357, R359 (derived).  SPECIAL_FUNCTION_RESULT lands a result in flight: its register holds the lane values it carries
and becomes full, its table bank is unbound, the result is no longer in flight, the critical-path token of the block goes to the
party where a lane of it waited for the register (R147), and nothing else changes. -/
def Sys2Proof.Rules.SpecialFunctionLands : Prop :=
  ∀ (s : State) (r : SfuRes) (b : Blk) (t : Thr), (s.sfu.find? fun q => q.id == s.arg.a) = some r →
    s.blk? r.core r.bctx = some b → b.adm = r.adm → b.thr? r.w = some t →
    let waits := t.lanes.any fun l => l.stat == .blocked (.emptyReg false r.vd)
    ∃ u t', exec .specialFunctionResult s = .next u ∧
      u = { s.setBlk r.core r.bctx { b.setThr r.w t' with
              tokenHolder := if waits then r.w else b.tokenHolder, tokenEdge := if waits then 3 else b.tokenEdge } with
            sfu := s.sfu.filter (fun q => q.id != r.id), cores := u.cores } ∧
      (∀ k, u.coreAt k = match r.bank with
        | some i => if k = r.core then
            { s.coreAt k with banks := lmod i (fun x => { x with bound := x.bound - 1 }) (s.coreAt k).banks } else s.coreAt k
        | none => s.coreAt k) ∧
      t' = { t with rows := t'.rows, empty := t'.empty } ∧ (∀ q, t'.isEmpty q = (t.isEmpty q && q != r.vd)) ∧
      ∀ q l, l < 32 → t'.reg q l =
        match r.vals.find? fun p => p.1 == l with
        | some p => if q = r.vd then p.2 else t.reg q l
        | none => t.reg q l

/-- R360, R362 (derived).  TBLLOAD, its image readable, with room for its loads and a bank neither current nor bound, starts filling that
bank with a new generation and completes: every unit of 16 bytes of the image is asked for by a load of the issuing party, for all its
active lanes; the image is read and becomes current when the fill ends.  (Which free bank it takes, and the number of a unit in its
load, are the model's choice, log entry 47.) -/
def Sys2Proof.Rules.TableLoadStarts : Prop :=
  ∀ (w : LaneW) (s : State) (c : Cur) (b : Blk) (t : Thr) (i : Nat), LaneReady s c b t (.tblload w) w →
    let act := activeLanes c t w.g
    let k := s.coreAt c.core
    (act = 0 → ∃ u t', exec (.tblload w) s = .next u ∧ PartyOnly s u c b t' ∧ t.Moved t') ∧
    let va := b.sreg (w.sa.toNat - 128)
    let m := c.mmu b (t.privileged c.lanes)
    (act ≠ 0 → (∃ hm a l, (s.tableCheck c b m va).1 = .ok hm a l) → s.heldBack c.core c.bctx c.w b.adm act = false →
    s.mayStart c.core (issuerOf c.bctx c.w) (lowestLane c.lanes) = true → s.roomFor c b.adm (s.tableReqs c b t va act) = true →
    findIx (fun x : TblBank => !x.current && x.free) k.banks = some i →
    ∃ u t', exec (.tblload w) s = .next u ∧ t.Moved t' ∧
      u = { (s.setCore c.core { k with
          gen := k.gen + 1,
          banks := lmod i (fun x => { x with
            gen := k.gen + 1, filling := some { adm := b.adm, w := c.w, first := s.nextId } }) k.banks }).setBlk c.core c.bctx
              (b.setThr c.w t') with
        recd := u.recd, nextId := u.nextId, reqs := u.reqs, clusters := u.clusters, links := u.links
        xl := { s.xl with tlb := u.xl.tlb }, outbox := u.outbox } ∧
      (s.reqs.map fun q => q.id) <+: (u.reqs.map fun q => q.id) ∧
      ∀ j, j < 257 → ∃ r ∈ u.reqs, s.nextId ≤ r.id ∧ r.kind = .load ∧ r.dst = .tbl s.nextId ∧ r.core = c.core ∧ r.bctx = c.bctx ∧
        r.w = c.w ∧ r.adm = b.adm ∧ r.mask = act ∧ ∃ o ∈ r.ops, o.lane = j % 32 ∧ o.va = va + BitVec.ofNat 64 (16 * j))

/-! ### Class 3: memory words (R188 to R198, R222, R230 to R232, R275, R369 to R383) -/

namespace Sys2Proof.Rules

/-- A memory word: its constructor, its form, and the address, data and compare value of a lane. -/
structure MemRow where
  op : LaneW → MemX → Instr
  form : LaneW → MemX → MemForm
  va : LaneW → MemX → Blk → Thr → Nat → DWord
  data : LaneW → MemX → Blk → Thr → Nat → QWord
  cmp : LaneW → MemX → Blk → Thr → Nat → QWord

/-- The registers of a group as one value, the first lowest: `n` of them from `r` (R369). -/
def groupVal (t : Thr) (r l : Nat) : Nat → Nat
  | 0 => 0
  | n + 1 => (t.reg r l).toNat + 2 ^ 32 * groupVal t (r + 1) l n

/-- How many registers hold an operand of a SIZE: one up to w, two for d, four for q (R304, R369). -/
def regsOf (x : MemX) : Nat := if x.size.toNat = 4 then 4 else if x.size.toNat = 3 then 2 else 1

/-- The group VD names. -/
def vdVal (w : LaneW) (x : MemX) (_ : Blk) (t : Thr) (l : Nat) : QWord := BitVec.ofNat 128 (groupVal t w.vd.toNat l (regsOf x))
/-- The operand SB names (R304, R369). -/
def sbVal (w : LaneW) (x : MemX) (b : Blk) (t : Thr) (l : Nat) : QWord :=
  if x.size.toNat = 4 then BitVec.ofNat 128 (groupVal t w.sb.toNat l 4)
  else if x.size.toNat = 3 then (srcI64 t b w.sb w.lit l).setWidth 128
  else (srcW t b w.sb w.lit l).setWidth 128
/-- No operand. -/
def noVal (_ : LaneW) (_ : MemX) (_ : Blk) (_ : Thr) (_ : Nat) : QWord := 0

/-- A form with a returned group or none. -/
def plainForm (k : ReqKind) (ak : AccKind) (narrow returns : Bool) (watch : Nat) (w : LaneW) (x : MemX) : MemForm :=
  { kind := k, ak := ak, bytes := 2 ^ x.size.toNat, space := x.space.toNat, narrow := narrow, notag := x.notag,
    order := x.order.toNat, scope := x.scope.toNat, reuse := x.reuse, inv := x.inv, sgn := x.sgn, watch := some watch,
    dst := if returns then .lane w.vd.toNat (regsOf x) else .none }

/-- The words that ask memory for something, with their addresses: base, index and offset (wide or narrow), base and scaled
offset for the atomics, base and offset for the rest (R369). -/
def memRows : List MemRow :=
  [ ⟨.ld, plainForm .load .read false true 0, wideVa, noVal, noVal⟩,
    ⟨.st, plainForm .store .write false false 1, wideVa, vdVal, noVal⟩,
    ⟨.lds, plainForm .load .read true true 0, narrowVa, noVal, noVal⟩,
    ⟨.sts, plainForm .store .write true false 1, narrowVa, vdVal, noVal⟩,
    ⟨.atom, fun w x => plainForm (.atom x.aop) .rmw false true 2 w x, atomVa, sbVal, noVal⟩,
    ⟨.atomcas, plainForm .cas .rmw false true 2, atomVa, sbVal, vdVal⟩,
    ⟨.red, fun w x => plainForm (.red x.aop) .rmw false false 2 w x, atomVa, sbVal, noVal⟩,
    ⟨.atoms, fun w x => plainForm (.atom x.aop) .rmw true true 2 w x, atomNarrowVa, sbVal, noVal⟩,
    ⟨.atomscas, plainForm .cas .rmw true true 2, atomNarrowVa, sbVal, vdVal⟩,
    ⟨.cadd, plainForm (.cadd 0) .rmw false false 2, atomVa, sbVal, noVal⟩,
    ⟨.waitaddr, plainForm .waitaddr .read false true 0, plainVa, sbVal, noVal⟩,
    ⟨.wakeaddr, fun w x => { plainForm .wakeaddr .read false false 0 w x with tagged := false, watch := none }, plainVa, sbVal,
      noVal⟩,
    ⟨.tagld, fun w x => { plainForm .tagld .read false true 0 w x with bytes := 32, tagged := false, dst := .lane w.vd.toNat 1 },
      wideVa, noVal, noVal⟩,
    ⟨.tagst, fun w x => { plainForm .tagst .write false false 1 w x with bytes := 32, tagged := false }, wideVa,
      fun w _ _ t l => (fld (t.reg w.vd.toNat l) 0 4 : BitVec 4).setWidth 128, noVal⟩ ]

end Sys2Proof.Rules

/-- R171, R371 to R375, R378, R379, R382 (derived: what their words do at issue).  A memory word that stands ready, its active lanes
cleared and with room, completes its issue: each lane's request is on its way with the lane's address, data and compare value, the
destination group is marked empty, and memory and everything else is as before; with no active lane it only moves on. -/
def Sys2Proof.Rules.MemoryWordsAsk : Prop :=
  ∀ e ∈ Rules.memRows, ∀ (w : LaneW) (x : MemX) (s : State) (c : Cur) (b : Blk) (t : Thr), LaneReady s c b t (e.op w x) w →
    let act := activeLanes c t w.g
    let f := e.form w x
    (act = 0 → ∃ u t', exec (e.op w x) s = .next u ∧ PartyOnly s u c b t' ∧ t.Moved t') ∧
    (∀ h a lf, Cleared s c b t act f (e.va w x b t) h a lf → Roomy s c b act h a →
      ((∃ k, f.kind = .cadd k) → (s.coreLines c.core).eraseDups.length + 32 ≤ 1024) →
      ∃ u t', exec (e.op w x) s = .next u ∧
        Asked s u c b t' act f (e.va w x b t) h a lf (e.data w x b t) (e.cmp w x b t) ∧
        t' = { t with empty := f.dst.regs ++ t.empty, lanes := t'.lanes, loops := t'.loops })

/-- The three ways in which an address names offset `o` of window `k` (R188, R369): the word's SPACE, the generic form of the address,
and the narrow form, whose offset has 32 bits. -/
def Sys2Proof.Rules.Names (f : MemForm) (va : DWord) (k o : Nat) : Prop :=
  (f.narrow = true ∧ f.space = k + 2 ∧ o = va.toNat % 2 ^ 32) ∨
  (f.narrow = false ∧ f.space = k + 2 ∧ o = va.toNat % 2 ^ 48) ∨
  (f.narrow = false ∧ f.space = 0 ∧ isWindow va = true ∧ (fld va 48 4).toNat = k ∧ o = va.toNat % 2 ^ 48)

/-- R188, R189, R222, R275, R211, R81 (derived: the checks of one lane, in their order).  A global form refuses a window address and
every form a non-canonical one, and no window lies past the fourth; the scratchpad and gang windows, named by SPACE, by a generic
address or in narrow form, refuse an offset past their block's size, and the gang window a rank outside the gang, an exited member and
reserved offset bits, all with SCRATCH_RANGE, and lead to the scratchpad of the block named; a misaligned access raises
ALIGNMENT; a page not in the TLB is walked for and one with an unanswered fault is missed; then come protection and the tag check. -/
def Obligations.AccessChecks : Prop :=
  ∀ (s : State) (c : Cur) (b : Blk) (m : Mmu) (f : MemForm) (va : DWord),
    (f.narrow = false →
      (isWindow va = true → f.space = 1 → s.laneCheck c b m f va = .fault .addressSpace) ∧
      (isWindow va = false → canonicalVa va = false → f.space ≤ 1 → s.laneCheck c b m f va = .fault .addressSpace) ∧
      (∀ k, 3 ≤ k → isWindow va = true → f.space = 0 → (fld va 48 4).toNat = k + 1 →
        s.laneCheck c b m f va = .fault .addressSpace)) ∧
    (f.kind = .load ∨ f.kind = .store ∨ f.kind.isAtomic = true → ∀ o,
      let own (off : Nat) (x : LaneChk) : Prop :=
        x = if va.toNat % f.bytes ≠ 0 then .fault .alignment else .ok (.spad b.adm) off none
      (Rules.Names f va 0 o →
        (b.info.isCopy = true ∨ b.info.spadB ≤ o → s.laneCheck c b m f va = .fault .scratchRange) ∧
        (b.info.isCopy = false → o < b.info.spadB → own o (s.laneCheck c b m f va))) ∧
      (Rules.Names f va 1 o →
        let rank := o / 2 ^ 25 % 8
        let off := o % 2 ^ 25
        let lives (p : Blk) : Prop := p.info.gangId = b.info.gangId ∧ p.info.rank = rank ∧ p.info.ctx = b.info.ctx ∧ p.hasExited = false
        (b.info.isCopy = true ∨ 2 ^ 28 ≤ o ∨ b.info.bpg ≤ rank ∨ b.info.spadB ≤ off ∨
            (rank ≠ b.info.rank ∧ ∀ p ∈ s.blks, ¬ lives p.2) → s.laneCheck c b m f va = .fault .scratchRange) ∧
        (b.info.isCopy = false → o < 2 ^ 28 → rank < b.info.bpg → off < b.info.spadB →
          (rank = b.info.rank → own off (s.laneCheck c b m f va)) ∧
          (rank ≠ b.info.rank → (∃ p ∈ s.blks, lives p.2) → ∃ p ∈ s.blks, lives p.2 ∧ s.laneCheck c b m f va =
            if va.toNat % f.bytes ≠ 0 then .fault .alignment else .ok (.spad p.2.adm) off none)))) ∧
    (f.narrow = false → isWindow va = false → canonicalVa va = true → f.space ≤ 1 →
      (va.toNat % f.bytes ≠ 0 → s.laneCheck c b m f va = .fault .alignment) ∧
      (va.toNat % f.bytes = 0 → s.sourceWindow m.ctx va = none →
        (s.lookup m va = .absent → s.laneCheck c b m f va = .walk va) ∧
        (s.lookup m va = .faulted → s.laneCheck c b m f va = .miss (pageOf va)) ∧
        (∀ l k, s.lookup m va = .hit l → l.check f.ak m.priv = some k → s.laneCheck c b m f va = .fault k) ∧
        (∀ l a, s.lookup m va = .hit l → l.check f.ak m.priv = none → s.placeOf m.ctx l va = .ok (.mem, a) →
          inCalPage a = false → l.tagm = 1 → f.tagged = true → f.notag = false → isCapacity a = false →
          s.tagMatches a va m.priv = false → s.laneCheck c b m f va = .fault .tagMismatch)))

/-- R229 to R232, R244, R376, R377 (derived).  FENCE and CODEPUB: a release part, a seq_cst fence and a CODEPUB begin a release that
covers every request there is; an acquire fence, once the earlier reads of its lanes have bound, only moves on; with no active lane
neither does anything. -/
def Sys2Proof.Rules.FencesBeginReleases : Prop :=
  ∀ (w : LaneW) (x : MemX) (s : State) (c : Cur) (b : Blk) (t : Thr),
    let act := activeLanes c t w.g
    let begun (u : State) (t' : Thr) (a : RelAct) : Prop :=
      u = { s.setBlk c.core c.bctx (b.setThr c.w t') with
        nextId := s.nextId + 1
        rels := s.rels ++ [{ id := s.nextId, core := c.core, bctx := c.bctx, w := c.w, adm := b.adm, low := lowestLane c.lanes,
                             mask := c.lanes, scope := x.scope.toNat, upto := s.nextId, act := a }] } ∧ t.Moved t'
    (LaneReady s c b t (.fence w x) w →
      (act = 0 → ∃ u t', exec (.fence w x) s = .next u ∧ PartyOnly s u c b t' ∧ t.Moved t') ∧
      (act ≠ 0 → s.heldBack c.core c.bctx c.w b.adm act = false →
        (x.order ≠ 2 → s.unboundReads c.core c.bctx c.w b.adm act = false) →
        (x.order = 1 → s.mayStart c.core (issuerOf c.bctx c.w) (lowestLane c.lanes) = true →
          ∃ u t', exec (.fence w x) s = .next u ∧ PartyOnly s u c b t' ∧ t.Moved t') ∧
        (x.order = 2 ∨ x.order = 3 ∨ x.order = 4 →
          ∃ u t', exec (.fence w x) s = .next u ∧ begun u t' (.fence (x.order == 4) act)))) ∧
    (LaneReady s c b t (.codepub w x) w →
      (act = 0 → ∃ u t', exec (.codepub w x) s = .next u ∧ PartyOnly s u c b t' ∧ t.Moved t') ∧
      (act ≠ 0 → s.heldBack c.core c.bctx c.w b.adm act = false →
        ∃ u t', exec (.codepub w x) s = .next u ∧ begun u t' (.codepub act false)))

/-- R203, R381 (derived).  PREF, WBL and INVL never fault at their addresses and change no byte of memory and nothing but the caches, what
they send to the host and, for a line of host memory the device does not hold, a request that brings it: after WBL no line an active
lane names is held modified or owned by the issuing cluster, after INVL none is held or copied there, and after PREF of one line the
cluster holds it with an RRPV of at most REUSE, or has asked the host for it. -/
def Sys2Proof.Rules.CacheMaintenance : Prop :=
  ∀ (w : LaneW) (x : MemX) (s : State) (c : Cur) (b : Blk) (t : Thr),
    let act := activeLanes c t w.g
    let line (cached : Bool) (l : Nat) := s.quietLine (c.mmu b (t.privileged c.lanes)) cached x.space.toNat (wideVa w x b t l)
    let done (op : Instr) (u : State) (t' : Thr) : Prop :=
      exec op s = .next u ∧ t.Moved t' ∧ u.mem.bytes = s.mem.bytes ∧
      u = { s.setBlk c.core c.bctx (b.setThr c.w t') with
        recd := u.recd, outbox := u.outbox, nextId := u.nextId, reqs := u.reqs, clusters := u.clusters, links := u.links
        mem := { s.mem with cache := u.mem.cache, invCopies := u.mem.invCopies, hostDirty := u.mem.hostDirty } }
    (LaneReady s c b t (.pref w x) w → ∃ u t', done (.pref w x) u t' ∧ u.mem.invCopies = s.mem.invCopies ∧
      ∀ h n, (∀ l, l < 32 → act.getLsbD l → line true l = some (h, n)) → act ≠ 0 → s.cacheWays (c.core / 8) ≠ [] →
        (∀ link, h = .host link → s.holdsHost link n = false →
          ∃ r ∈ u.reqs, s.nextId ≤ r.id ∧ r.kind = .pref ∧ r.home = h ∧ r.line = n) ∧
        ((∀ link, h = .host link → s.holdsHost link n = true) →
          ∃ k ∈ u.mem.cache, k.holder = c.core / 8 ∧ k.line = cacheKey h n ∧ k.rrpv.toNat ≤ x.reuse.toNat)) ∧
    (LaneReady s c b t (.wbl w x) w → ∃ u t', done (.wbl w x) u t' ∧ u.mem.invCopies = s.mem.invCopies ∧ u.reqs = s.reqs ∧
      ∀ l h n, l < 32 → act.getLsbD l → line false l = some (h, n) → ∀ k ∈ u.mem.cache, k.holder = c.core / 8 →
        k.line = cacheKey h n → k.st ≠ .m ∧ k.st ≠ .o) ∧
    (LaneReady s c b t (.invl w x) w → ∃ u t', done (.invl w x) u t' ∧ u.reqs = s.reqs ∧
      ∀ l h n, l < 32 → act.getLsbD l → line false l = some (h, n) →
        (∀ k ∈ u.mem.cache, ¬ (k.holder = c.core / 8 ∧ k.line = cacheKey h n)) ∧
        (h = .mem → nget u.mem.invCopies (invKey (c.core / 8) n) = none))

/-- R174, R176, R383 (derived).  ACCRD and ACCWR with their rows inside warp N's slice and not held by the matrix stream move the
rows of the slice to and from the group of VD in the active lanes, and change nothing else. -/
def Sys2Proof.Rules.AccumulatorMoves : Prop :=
  ∀ (w : LaneW) (x : MemX) (s : State) (c : Cur) (b : Blk) (t a : Thr) (r : Nat),
    let act := activeLanes c t w.g
    let n := 2 ^ x.size.toNat
    let v := w.sb.toNat % 32
    (∀ op, op = Instr.accrd w x ∨ op = .accwr w x → act = 0 → LaneReady s c b t op w →
      ∃ u t', exec op s = .next u ∧ PartyOnly s u c b t' ∧ t.Moved t') ∧
    (act ≠ 0 → b.thr? v = some a → accRow w x b = r → b.accRows v r n = true → s.rowsHeld c.core c.bctx v r n = false →
    s.heldBack c.core c.bctx c.w b.adm act = false → s.mayStart c.core (issuerOf c.bctx c.w) (lowestLane c.lanes) = true →
    (LaneReady s c b t (.accrd w x) w → ∃ u t', exec (.accrd w x) s = .next u ∧ PartyOnly s u c b t' ∧ t.RowsOnly t' ∧
      ∀ q l, l < 32 → t'.reg q l =
        if act.getLsbD l ∧ w.vd.toNat ≤ q ∧ q < w.vd.toNat + n then a.reg (r + (q - w.vd.toNat)) l else t.reg q l) ∧
    (LaneReady s c b t (.accwr w x) w → ∃ u a' t', exec (.accwr w x) s = .next u ∧
      u = { s.setBlk c.core c.bctx ((b.setThr v a').setThr c.w t') with recd := u.recd } ∧
      (if v = c.w then a'.Moved t' else t.Moved t') ∧ a' = { a with rows := a'.rows } ∧
      ∀ q l, l < 32 → a'.reg q l =
        if act.getLsbD l ∧ r ≤ q ∧ q < r + n then t.reg (w.vd.toNat + (q - r)) l else a.reg q l))

/-! ### Uniform words, NOP and REP (R172, R186, R187, R306, R307, R335 to R341, R436) -/

namespace Sys2Proof.Rules

/-- The results of R336 in terms of a and b. -/
def uniRows : List ((UniW → Instr) × (DWord → DWord → DWord)) :=
  [ (.smov, fun a _ => a),
    (.sadd, fun a b => BitVec.ofNat 64 (a.toNat + b.toNat)),
    (.ssub, fun a b => BitVec.ofInt 64 ((a.toNat : Int) - b.toNat)),
    (.smul, fun a b => BitVec.ofNat 64 (a.toNat * b.toNat)),
    (.sand, fun a b => a &&& b),
    (.sor, fun a b => a ||| b),
    (.sxor, fun a b => a ^^^ b),
    (.sshl, fun a b => if b.toNat < 64 then BitVec.ofNat 64 (a.toNat * 2 ^ b.toNat) else 0),
    (.sshr, fun a b => if b.toNat < 64 then BitVec.ofNat 64 (a.toNat / 2 ^ b.toNat) else 0),
    (.ssar, fun a b => BitVec.ofInt 64 (a.toInt / 2 ^ (min b.toNat 63))),
    (.smin, fun a b => if a.toInt ≤ b.toInt then a else b),
    (.smax, fun a b => if a.toInt ≥ b.toInt then a else b) ]

end Sys2Proof.Rules

/-- R335, R336 (derived: completion and frame in one).  A uniform arithmetic word that stands ready writes its 64-bit result into SD
(a write to s0 is ignored) and changes nothing else. -/
def Sys2Proof.Rules.UniformResults : Prop :=
  ∀ e ∈ Rules.uniRows, ∀ (w : UniW) (s : State) (c : Cur) (b : Blk) (t : Thr), UniReady s c b t (e.1 w) w →
    ∃ u b' t', exec (e.1 w) s = .next u ∧ PartyOnly s u c b' t' ∧ t.Moved t' ∧
      b.PutUni b' w.sd.toNat (e.2 (srcU b w.sa w.lit) (srcU b w.sb w.lit))

/-- R169, R337, R436 (derived).  SCMP writes the condition's truth into its uniform predicate, q7 staying 1; V2S copies a lane's
register, or its pair, into SD: the lane its operand names, or the sub-warp's lowest.  Nothing else changes. -/
def Sys2Proof.Rules.UniformCompareAndMove : Prop :=
  ∀ (w : UniW) (s : State) (c : Cur) (b : Blk) (t : Thr),
    (UniReady s c b t (.scmp w) w → ∃ u b' t', exec (.scmp w) s = .next u ∧ PartyOnly s u c b' t' ∧ t.Moved t' ∧
      b' = { b with q := b'.q } ∧ ∀ n, n < 8 → (b'.qpred n = true ↔
        if n = w.sd.toNat % 8 ∧ n < 7 then
          Rules.cond (w.sd.toNat / 8 % 8)
            (if w.sd.getLsbD 6 then ((srcU b w.sa w.lit).toNat : Int) else (srcU b w.sa w.lit).toInt)
            (if w.sd.getLsbD 6 then ((srcU b w.sb w.lit).toNat : Int) else (srcU b w.sb w.lit).toInt)
        else b.qpred n = true)) ∧
    (CtlReady s c b t (.v2s w) →
      let n := w.sa.toNat % 128
      let k := srcU b w.sb w.lit
      let l := if k.getLsbD 5 then lowestLane c.lanes else k.toNat % 32
      w.sd ≠ 0xFF → (if w.sa.getLsbD 7 then n % 2 = 0 ∧ n + 1 < t.poolb ∧ t.isEmpty (n + 1) = false else n < t.poolb) →
      t.isEmpty n = false → (w.sb ≠ 0xFF → b.sIsEmpty w.sb.toNat = false) → b.sIsEmpty w.sd.toNat = false →
      s.uniTurn c b [w.sb.toNat, w.sd.toNat] = true →
      ∃ u b' t', exec (.v2s w) s = .next u ∧ PartyOnly s u c b' t' ∧ t.Moved t' ∧
        b.PutUni b' w.sd.toNat (if w.sa.getLsbD 7 then t.reg64 n l else (t.reg n l).setWidth 64))

/-- R171, R339 to R341 (derived).  SLD and SST that stand ready, their address cleared for the sub-warp's lowest lane and with room,
send one request of 8 bytes for the whole sub-warp; SLD marks SD empty; memory is as before. -/
def Sys2Proof.Rules.UniformAccessAsks : Prop :=
  ∀ (w : UniW) (s : State) (c : Cur) (b : Blk) (t : Thr) (h : Home) (a : Nat) (lf : Option Leaf),
    let va := srcU b w.sa w.lit + srcU b w.sb w.lit
    let low := lowestLane c.lanes
    let asks (op : Instr) (f : MemForm) (data : QWord) (emptied : List Nat) : Prop :=
      UniReady s c b t op w → c.lanes ≠ 0 → s.laneCheck c b (c.mmu b (t.privileged c.lanes)) f va = .ok h a lf →
      Roomy s c b c.lanes (fun _ => h) (fun _ => a) →
      ∃ u t', exec op s = .next u ∧
        Asked s u c { b with sEmpty := emptied ++ b.sEmpty, sWriter := emptied.foldl (fun m n => nput n c.w m) b.sWriter } t' (laneBit low) f (fun _ => va) (fun _ => h) (fun _ => a) (fun _ => lf)
          (fun _ => data) (fun _ => 0) ∧ t.Moved t'
    asks (.sld w) { kind := .load, ak := .read, bytes := 8, watch := some 0, dst := .uni w.sd.toNat } 0
      (if w.sd = 0 then [] else [w.sd.toNat]) ∧
    asks (.sst w) { kind := .store, ak := .write, bytes := 8, watch := some 1 } ((b.sreg w.sd.toNat).setWidth 128) []

/-- R186, R187, R306, R307 (derived).  NOP, and a REP whose next word may be repeated with its steps, only move their party on; a
REP of a REP or of a clause-ending word raises REPEAT_ILLEGAL, with no other effect. -/
def Sys2Proof.Rules.NopAndRepeat : Prop :=
  ∀ (s : State) (c : Cur) (b : Blk) (t : Thr),
    (∀ z, CtlReady s c b t (.nop z) → ∃ u t', exec (.nop z) s = .next u ∧ PartyOnly s u c b t' ∧ t.Moved t') ∧
    (∀ r x rest i n, CtlReady s c b t (.rep r) → repTarget c t = x :: rest → clauseEnding c.cls x = false →
      decodeRaw c.cls (x :: rest) = .ok (i, n) → (∀ q, i ≠ .rep q) → stepsFit r i = true →
      ∃ u t', exec (.rep r) s = .next u ∧ PartyOnly s u c b t' ∧ t.Moved t') ∧
    (∀ r x rest, CtlReady s c b t (.rep r) → repTarget c t = x :: rest →
      clauseEnding c.cls x = true ∨ (∃ q n, decodeRaw c.cls (x :: rest) = .ok (.rep q, n)) →
      exec (.rep r) s = .next { s.trap c b t
        { cause := .repeatIllegal, lanes := c.lanes, faulting := c.lanes, npc := c.pc } with focus := none })

/-! ### Control flow (R310, R311, R427 to R434) -/

/-- R162, R182, R183, R310, R427 to R429 (derived).  BRA sends the lanes whose predicate holds, SBR all lanes or none, BRX
and RET every lane to its own canonical address with the pointer tag cleared; a lane sent to its meeting address is held there, and one
sent out of a loop body leaves its level; the others fall through, which at the end of a loop body is the loop-end step; no register
changes. -/
def Sys2Proof.Rules.BranchesGo : Prop :=
  ∀ (s : State) (c : Cur) (b : Blk) (t : Thr),
    let base := t.learnEnds s (c.mmu b (t.privileged c.lanes))
    let goes (op : Instr) (m : Word) (target : Nat → DWord) : Prop := c.Passes t m →
      ∃ u t', exec op s = .next u ∧ PartyOnly s u c b t' ∧ t.Moved t' ∧
        t.Transferred s c b base t' m target (base.leaves c.pc m target)
    (∀ w, CtlGo s c b t (.bra w) → goes (.bra w) (maskOf fun l => c.lanes.getLsbD l && t.pred w.pred.toNat l != w.psense)
      fun _ => c.hdrAt + BitVec.ofInt 64 (4 * w.off.toInt)) ∧
    (∀ w, CtlGo s c b t (.sbr w) → goes (.sbr w) (if b.qpred w.pred.toNat != w.psense then c.lanes else 0)
      fun _ => c.hdrAt + BitVec.ofInt 64 (4 * w.off.toInt)) ∧
    (∀ (w : BrxW) (op : Instr), op = .brx w ∨ op = .ret w → CtlGo s c b t op →
      let n := w.sa.toNat % 128
      let v := fun l => if w.vr then t.reg64 n l else srcU b w.sa w.lit
      (if w.vr then n % 2 = 0 ∧ n + 1 < t.poolb ∧ t.isEmpty n = false ∧ t.isEmpty (n + 1) = false
        else w.sa ≠ 0xFF → b.sIsEmpty w.sa.toNat = false) →
      s.uniTurn c b (if w.vr then [] else [w.sa.toNat]) = true → c.lanes ≠ 0 →
      (∀ l, l < 32 → c.lanes.getLsbD l → (v l).toNat / 2 ^ 60 = 0 ∨ (v l).toNat / 2 ^ 60 = 15) →
      goes op c.lanes fun l => v l &&& 0xF0FFFFFFFFFFFFFF)

/-- R182, R430 (derived).  CALL sends every lane to its target, out of the loops whose bodies it leaves, and leaves the address of the
word after it in a register pair of its lanes, or in a uniform register in the matrix and access streams; nothing else changes. -/
def Sys2Proof.Rules.CallLinks : Prop :=
  ∀ (w : CallW) (s : State) (c : Cur) (b : Blk) (t : Thr), CtlGo s c b t (.call w) →
    let n := w.lr.toNat
    s.uniTurn c b (if c.w < 32 then [] else [n]) = true →
    let target := fun _ : Nat => c.hdrAt + BitVec.ofInt 64 (4 * w.off.toInt)
    let went (t' : Thr) : Prop :=
      let base := t.learnEnds s (c.mmu b (t.privileged c.lanes))
      t.Transferred s c b base t' c.lanes target (base.leaves c.pc c.lanes target)
    (c.w < 32 → n % 2 = 0 → n + 1 < t.poolb → t.isEmpty n = false → t.isEmpty (n + 1) = false →
      ∃ u t', exec (.call w) s = .next u ∧ PartyOnly s u c b t' ∧ t.WrotePair t' c.lanes n (fun _ => c.next) ∧ went t') ∧
    (32 ≤ c.w → b.sIsEmpty n = false → ∃ u b' t', exec (.call w) s = .next u ∧ PartyOnly s u c b' t' ∧ t.Moved t' ∧
      b.PutUni b' n c.next ∧ went t')

/-- R431 (derived).  SETMR gives every lane of the sub-warp its new meeting address, a label or its own register pair, and unless ND
is set leaves the old one in the pair VD; the lanes move on and nothing else changes. -/
def Sys2Proof.Rules.MeetingRegisters : Prop :=
  ∀ (s : State) (c : Cur) (b : Blk) (t : Thr) (op : Instr) (vd : BitVec 7) (nd : Bool) (new : Nat → DWord),
    (∃ w, op = .setmrLabel w ∧ vd = w.vd ∧ nd = w.nd ∧ new = fun _ => c.hdrAt + BitVec.ofInt 64 (4 * w.off.toInt)) ∨
    (∃ w, op = .setmrRegister w ∧ vd = w.vd ∧ nd = w.nd ∧ (new = fun l => t.reg64 w.src.toNat l) ∧ w.src.toNat % 2 = 0 ∧
      w.src.toNat + 1 < t.poolb ∧ t.isEmpty w.src.toNat = false ∧ t.isEmpty (w.src.toNat + 1) = false) →
    CtlReady s c b t op →
    nd = true ∨ (vd.toNat % 2 = 0 ∧ vd.toNat + 1 < t.poolb ∧ t.isEmpty vd.toNat = false ∧ t.isEmpty (vd.toNat + 1) = false) →
    ∃ u t1 t', exec op s = .next u ∧ PartyOnly s u c b t' ∧
      (if nd then t1 = t else t.WrotePair t1 c.lanes vd.toNat fun l => (t.lane l).mr) ∧
      t' = { t1 with lanes := t'.lanes, loops := t'.loops } ∧
      ∀ l, l < t.lanes.length → l < 32 → (t'.lane l).mr = if c.lanes.getLsbD l then new l else (t.lane l).mr

/-- R181 to R183, R432 to R434 (derived).  LOOP opens its level at the word after it with the low 32 bits of its operand as count (0
counts as 1) and the sub-warp as mask, and goes on, or takes the loop-end step of a body that is empty; LOOPBRK takes the lanes whose
predicate holds to its target and out of the level and those inside it, and a level all have left ends, with those inside it; a uniform stream always takes it. -/
def Sys2Proof.Rules.HardwareLoops : Prop :=
  ∀ (s : State) (c : Cur) (b : Blk) (t : Thr), t.loops.length = 3 →
    (∀ w, CtlGo s c b t (.loop w) → (w.sa ≠ 0xFF → b.sIsEmpty w.sa.toNat = false) →
      s.uniTurn c b [w.sa.toNat] = true → (∀ k, k < 3 → (t.loop k).active = decide (k < w.lvl.toNat)) → w.lvl.toNat < 3 →
      fld c.hdr 19 2 = (0 : BitVec 2) ∨ (fld c.hdr 19 2 : BitVec 2).toNat = w.lvl.toNat + 1 →
      ∃ (u : State) (t1 t' : Thr), exec (.loop w) s = .next u ∧ PartyOnly s u c b t' ∧ t.Moved t' ∧ t1 = { t with loops := t1.loops } ∧
        (∀ k, k < 3 → t1.loop k = if k = w.lvl.toNat then
            { active := true, start := c.next, mask := c.lanes,
              stop := bodyEnd s (c.mmu b (t.privileged c.lanes)) w.lvl.toNat c.next 256 c.next,
              lc := if (srcU b w.sa w.lit).toNat % 2 ^ 32 = 0 then 1 else (srcU b w.sa w.lit).setWidth 32 }
          else t.loop k) ∧
        if fld c.hdr 19 2 = (0 : BitVec 2) then t'.loops = t1.loops ∧ t.WentTo t' c 0 (fun _ => 0)
        else t1.LoopEnd s c b c.lanes t' w.lvl.toNat) ∧
    (∀ w, CtlGo s c b t (.loopbrk w) → (t.loop w.lvl.toNat).active = true →
      let m := if c.w < 32 then maskOf fun l => c.lanes.getLsbD l && t.pred w.pred.toNat l != w.psense else c.lanes
      c.Passes t m →
      ∃ u t', exec (.loopbrk w) s = .next u ∧ PartyOnly s u c b t' ∧ t.Moved t' ∧
        t.Transferred s c b t t' m (fun _ => c.hdrAt + BitVec.ofInt 64 (4 * w.off.toInt))
          fun k l => w.lvl.toNat ≤ k ∧ (32 ≤ c.w ∨ m.getLsbD l)) ∧
    (∀ w, CtlGo s c b t (.loopbrk w) → (t.loop w.lvl.toNat).active = false →
      exec (.loopbrk w) s = .next { s.trap c b t
        { cause := .loopNest, lanes := c.lanes, faulting := c.lanes, npc := c.pc } with focus := none })

/-- A word that writes registers, predicates or flags, or nothing, stands ready: the integer, floating, cross-lane and uniform words and
NOP. -/
def Sys2Proof.Rules.Plain (s : State) (c : Cur) (b : Blk) (t : Thr) (i : Instr) : Prop :=
  (∃ w x, LaneReady s c b t i w ∧
    (i ∈ (Rules.twoSource.map fun e => e.1 w) ++ (Rules.oneSource.map fun e => e.1 w) ++ (Rules.readsVd.map fun e => e.1 w)
        ++ [.fshl w x, .iadd64 w, .isub64 w, .imadw w, .lea w, .icmp w, .icmpu w, .plog w, .movpToPredicates w, .movpToRegister w,
            .sel w, .fabs w, .fneg w, .fclass w, .unpack8 w x] ∨
      (∃ e ∈ Rules.floatRows x, i = e.op w ∧ Untrapped c t (activeLanes c t w.g) (e.res w t b)) ∨
      ((x.full = false ∨ ¬ Rules.partial? (activeLanes c t w.g) x.width) ∧
        i ∈ (Rules.crossRows.map fun e => e.1 w x) ++ Rules.crossPredRows.map fun e => e.1 w x))) ∨
  (∃ w, UniReady s c b t i w ∧ i ∈ .scmp w :: Rules.uniRows.map fun e => e.1 w) ∨
  ∃ z, i = .nop z ∧ CtlReady s c b t i

/-- R162, R178, R183, R187, R298, R434 (derived).  A word that makes no transfer leaves all its lanes, whether its guard holds or not, at
the word's next repetition, at the next word of the clause, or past the clause, and at the end of a loop body takes the loop-end step;
the loops change in nothing else.  At the end of a clause that names a level which is not the innermost active one, lanes outside the
mask of that level, if it is active, go on, and the others raise LOOP_NEST with the fall-through as the resume address. -/
def Sys2Proof.Rules.WordsAdvance : Prop :=
  ∀ (s : State) (c : Cur) (b : Blk) (t : Thr),
    (∀ i, Rules.Plain s c b t i →
      ∃ u t', exec i s = .next u ∧ u.thr? c.core c.bctx c.w = some t' ∧ t.Advanced s c b t') ∧
    (∀ z, CtlGo s c b t (.nop z) → c.reps ≤ c.rep + 1 → c.last = true → fld c.hdr 19 2 ≠ (0 : BitVec 2) →
      let n := (fld c.hdr 19 2 : BitVec 2).toNat - 1
      let inside := if c.w < 32 ∧ (t.loop n).active = true then c.lanes &&& (t.loop n).mask else c.lanes
      t.innermost ≠ some n →
      ∃ t1, t1 = { t with lanes := t1.lanes } ∧
        (∀ l, l < t.lanes.length → l < 32 → if c.lanes.getLsbD l ∧ !inside.getLsbD l then (t.lane l).At (t1.lane l) c.next
          else t1.lane l = t.lane l) ∧
        (inside ≠ 0 → exec (.nop z) s = .next ((s.setBlk c.core c.bctx (b.setThr c.w t1)).trap c (b.setThr c.w t1) t1
          { cause := .loopNest, lanes := inside, faulting := inside, npc := c.next })) ∧
        (inside = 0 → (∀ l ∈ t.lanes, l.stat ≠ .loopHeld n) →
          ∃ u, exec (.nop z) s = .next u ∧ PartyOnly s u c b t1))

/-- R276, R435, R444 (derived).  EXIT, with no request (in a matrix stream, no command) of its lanes open, ends its lanes: while
the block stands they stay exited, where lanes that the handler then returns find a header at TNPC; with some still open it stalls.  YIELD moves its lanes on, gives up the next selection, and restarts the block's watchdog. -/
def Sys2Proof.Rules.ExitAndYield : Prop :=
  ∀ (s : State) (c : Cur) (b : Blk) (t : Thr) (z : BitVec 26),
    let open' := ∃ r ∈ s.reqs, r.core = c.core ∧ r.bctx = c.bctx ∧ r.w = c.w ∧ r.adm = b.adm ∧
      (if c.w < 32 then r.mask &&& c.lanes ≠ 0 else r.owesExit = true)
    let kiln := c.w = 32 ∧ ∃ k ∈ s.mcmds, k.adm = b.adm
    (CtlReady s c b t (.exit z) → ¬ open' → ¬ kiln →
      (∀ r, t.handling = some r → (t.lanes.any fun l => l.trap == .returned) = true → s.returnTarget c b t r = some true) → ∃ u, exec (.exit z) s = .next u ∧ u.focus = none ∧
      ∀ b' t', u.blk? c.core c.bctx = some b' → b'.adm = b.adm → b'.thr? c.w = some t' →
        ∀ l, l < t.lanes.length → l < 32 → c.lanes.getLsbD l → (t'.lane l).stat = .exited) ∧
    (CtlReady s c b t (.exit z) → open' ∨ kiln → exec (.exit z) s = .next { s with focus := none }) ∧
    (CtlReady s c b t (.yield z) → ∃ u t', exec (.yield z) s = .next u ∧ t.Moved t' ∧
      u = { s.setBlk c.core c.bctx ({ b with wdog := 0, wdogAt := s.tick }.setThr c.w t') with focus := none })

/-! ### Special registers (R57, R148, R258, R262, R280, R410, R438 to R440, R443) -/

namespace Sys2Proof.Rules

/-- The special registers of R438, read in lane `l`. -/
def special (s : State) (c : Cur) (b : Blk) (t : Thr) (l : Nat) : List (Nat × DWord) :=
  [ (0x00, BitVec.ofNat 64 l), (0x01, BitVec.ofNat 64 c.w),
    (0x02, BitVec.ofNat 64 (c.core % 256 + 256 * (c.core / 8 % 32) + 8192 * (c.bctx % 16))),
    (0x03, BitVec.ofNat 64 b.info.ctx), (0x04, BitVec.ofNat 64 s.tick), (0x05, BitVec.ofNat 64 (s.cycles80 c.core / 80)),
    (0x06, BitVec.ofNat 64 (s.tick - b.startAt)), (0x08, t.frm.setWidth 64), (0x09, t.srSeed.setWidth 64),
    (0x0A, (t.srCnt.getD l 0).setWidth 64), (0x0B, t.cpystat), (0x0C, BitVec.ofNat 64 t.poolb), (0x0D, t.lseq.setWidth 64),
    (0x10, t.tcause), (0x11, t.tpc), (0x12, t.tnpc), (0x13, t.taddr), (0x14, t.tmask), (0x15, t.tword), (0x16, t.tsite),
    (0x18, ((t.tscr.getD 0 []).getD l 0).setWidth 64), (0x19, ((t.tscr.getD 1 []).getD l 0).setWidth 64),
    (0x1A, ((t.tscr.getD 2 []).getD l 0).setWidth 64), (0x1B, ((t.tscr.getD 3 []).getD l 0).setWidth 64) ]

end Sys2Proof.Rules

/-- R344, R437 to R439 (derived).  SREAD of every special register of R438, where its scope suits the stream, delivers the register's
value, to SD or to a lane register in each lane of the sub-warp, and changes nothing else. -/
def Sys2Proof.Rules.SpecialRegisterReads : Prop :=
  ∀ (w : UniW) (s : State) (c : Cur) (b : Blk) (t : Thr), CtlReady s c b t (.sread w) → c.core < 192 → c.bctx < 16 →
    sregUse c w.sb.toNat w.eb = true → (w.sb = 0x08 → s.sfuBusy c b = false) →
    (w.sb = 0x04 ∨ w.sb = 0x05 ∨ w.sb = 0x06 → s.heldBack c.core c.bctx c.w b.adm c.lanes = false) →
    s.uniTurn c b (if w.eb then [] else [w.sd.toNat]) = true →
    (w.eb = true → w.sd.toNat < t.poolb → t.isEmpty w.sd.toNat = false →
      ∃ u t' f, exec (.sread w) s = .next u ∧ PartyOnly s u c b t' ∧ t.Wrote t' c.lanes w.sd.toNat f ∧
        ∀ l, l < 32 → c.lanes.getLsbD l → ∃ v, (w.sb.toNat, v) ∈ Rules.special s c b t l ∧ f l = v.setWidth 32) ∧
    (w.eb = false → w.sd ≠ 0xFF → b.sIsEmpty w.sd.toNat = false →
      ∃ u b' t' v, exec (.sread w) s = .next u ∧ PartyOnly s u c b' t' ∧ t.Moved t' ∧
        (w.sb.toNat, v) ∈ Rules.special s c b t 0 ∧ b.PutUni b' w.sd.toNat v)

/-- R4, R258, R262, R280, R410, R437, R438 (derived).  SWRITE of every writable special register writes the fields the register's map
makes writable, clears the write-one-to-clear flags that are written 1, and changes nothing else. -/
def Sys2Proof.Rules.SpecialRegisterWrites : Prop :=
  ∀ (w : UniW) (s : State) (c : Cur) (b : Blk) (t : Thr), CtlReady s c b t (.swrite w) →
    sregUse c w.sb.toNat true = true → (w.sb = 0x08 → s.sfuBusy c b = false) →
    (if w.eb then w.sa.toNat < t.poolb ∧ t.isEmpty w.sa.toNat = false
      else w.sa ≠ 0xFF → b.sIsEmpty w.sa.toNat = false) →
    s.uniTurn c b (if w.eb then [] else [w.sa.toNat]) = true →
    let v := srcU b w.sa w.lit
    let lv := fun l => if w.eb then t.reg w.sa.toNat l else v.setWidth 32
    let wrote (t0 : Thr) : Prop := ∃ u t', exec (.swrite w) s = .next u ∧ PartyOnly s u c b t' ∧ t0.Moved t'
    (w.sb = 0x08 → w.eb = false → ∃ f, wrote { t with frm := f } ∧ ∀ k, k < 32 → f.getLsbD k =
      if k < 8 ∧ k ≠ 2 then v.getLsbD k else if 8 ≤ k ∧ k < 13 then t.frm.getLsbD k && !v.getLsbD k else t.frm.getLsbD k) ∧
    (w.sb = 0x09 → w.eb = false → wrote { t with srSeed := v.setWidth 32 }) ∧
    (w.sb = 0x0A → ∃ f, wrote { t with srCnt := f } ∧ ∀ l, l < 32 →
      f.getD l 0 = if c.lanes.getLsbD l then lv l else t.srCnt.getD l 0) ∧
    (w.sb = 0x0B → w.eb = false → ∃ f, wrote { t with cpystat := f } ∧ ∀ k, k < 64 → f.getLsbD k =
      if k < 4 then t.cpystat.getLsbD k && !v.getLsbD k else if k < 16 then v.getLsbD k else t.cpystat.getLsbD k) ∧
    (w.sb = 0x12 → w.eb = false → wrote { t with tnpc := v }) ∧
    (∀ j, j < 4 → w.sb.toNat = 0x18 + j → t.tscr.length = 4 → ∃ f, wrote { t with tscr := f } ∧ ∀ i l, i < 4 → l < 32 →
      (f.getD i []).getD l 0 = if i = j ∧ c.lanes.getLsbD l then lv l else (t.tscr.getD i []).getD l 0)

/-- R61, R440 (derived).  SLOTQ of a selector in range delivers the calendar's answer for what it names; a selector out of range
raises OPERAND_RANGE.  R175, R443: POOLB moves the boundary of its warp, the rows it passes over hold undefined values (free ones
here, log entry 2), and every other register is as before. -/
def Sys2Proof.Rules.SlotQueriesAndPoolMoves : Prop :=
  ∀ (w : UniW) (s : State) (c : Cur) (b : Blk) (t : Thr),
    (∀ f, UniReady s c b t (.slotq w) w → slotTouch c (srcU b w.sa w.lit) = some f →
      s.heldBack c.core c.bctx c.w b.adm c.lanes = false →
      ∃ u b' t', exec (.slotq w) s = .next u ∧ PartyOnly s u c b' t' ∧ t.Moved t' ∧
        b.PutUni b' w.sd.toNat (slotWord s.tick (s.slotAnswer f))) ∧
    (UniReady s c b t (.slotq w) w → slotTouch c (srcU b w.sa w.lit) = none → ∃ s', RecdOnly s s' ∧
      exec (.slotq w) s = .next { s'.trap c b t
        { cause := .operandRange, lanes := c.lanes, faulting := c.lanes, npc := c.pc } with focus := none }) ∧
    (let n := (srcU b w.sa w.lit).toNat
     UniReady s c b t (.poolb w) w → 0 < n → n ≤ min 128 b.info.sliceRows →
      (∀ r ∈ t.empty, ¬ (n ≤ r ∧ r < t.poolb)) → (t.poolb < n → s.rowsHeld c.core c.bctx c.w t.poolb (n - t.poolb) = false) →
      ∃ u t', exec (.poolb w) s = .next u ∧
        u = { s.setBlk c.core c.bctx (b.setThr c.w t') with recd := u.recd, fresh := s.fresh + 1 } ∧
        t' = { t with rows := t'.rows, poolb := n, lanes := t'.lanes, loops := t'.loops } ∧
        ∀ r l, l < 32 → t'.reg r l =
          if min n t.poolb ≤ r ∧ r < max n t.poolb then Config.freeWord s.fresh r l else t.reg r l)

/-! ### Traps (R69, R277 to R282, R285, R441, R442) -/

/-- R441 (derived).  TRAP and BKPT take their trap in every lane of the sub-warp, which its handler leaves to the word after. -/
def Sys2Proof.Rules.SoftwareTraps : Prop :=
  ∀ (w : CodeW) (s : State) (c : Cur) (b : Blk) (t : Thr), Issues s c b t →
    (ctlGate (.trap w) c t = .go → exec (.trap w) s = .next { s.trap c b t
      { cause := .softwareTrap, lanes := c.lanes, faulting := c.lanes, npc := c.next } with focus := none }) ∧
    (ctlGate (.bkpt w) c t = .go → exec (.bkpt w) s = .next { s.trap c b t
      { cause := .breakpoint, lanes := c.lanes, faulting := c.lanes, npc := c.next } with focus := none })

/-- R277 to R280 (derived).  A trap of lanes of a warp with no trap being handled or waiting and a vector: the trap registers hold the
cause, the instruction's address and words, the resume address, the fault address and the lane masks; each trap lane saves its
meeting address and goes to the vector with meeting address 1 in handler mode; the count of dropped asynchronous traps waits for the
next of them, and every other lane, register, predicate, token and loop is as before. -/
def Obligations.TrapEntry : Prop :=
  ∀ (s : State) (c : Cur) (b : Blk) (t : Thr) (i : TrapInfo), Issues s c b t → c.w < 32 → t.privileged c.lanes = false →
    s.replaying = false → t.handling = none → t.trapQ = [] → b.svc = false → b.stat = .resident → (s.ctx b.info.ctx).vec ≠ 0 →
    (∀ l, l < t.lanes.length → l < 32 → !i.lanes.getLsbD l → (t.lane l).trap ≠ .pending s.nextId) →
    ∃ u t', s.trap c b t i = u ∧ u = { s.setBlk c.core c.bctx (b.setThr c.w t') with recd := u.recd, nextId := s.nextId + 1 } ∧
      t' = { t with
        lanes := t'.lanes, handling := t'.handling, tcause := t'.tcause, tmask := t'.tmask, tword := t'.tword,
        tsite := t'.tsite, tpc := c.pc, tnpc := i.npc, taddr := i.addr, copyStall := false } ∧
      t'.handling.isSome = true ∧
      t'.tcause = BitVec.ofNat 64 (i.cause.code + 512 * (c.rep % 64) + 65536 * i.flags.toNat) ∧
      t'.tmask = BitVec.ofNat 64 (i.lanes.toNat + 2 ^ 32 * i.faulting.toNat) ∧
      t'.tword = BitVec.ofNat 64 (c.word.toNat + 2 ^ 32 * c.ext.toNat) ∧
      t'.tsite = BitVec.ofNat 64 (t.lseq.toNat + 2 ^ 32 * c.w) ∧
      ∀ l, l < t.lanes.length → l < 32 → t'.lane l =
        if i.lanes.getLsbD l then
          { t.lane l with
            pc := (s.ctx b.info.ctx).vec, mr := 1, stat := .run, trap := .handler, savedMr := (t.lane l).mr
            savedStat := (t.lane l).stat, savedClause := (t.lane l).clause, clause := none, via := none }
        else t.lane l

/-- R69, R279, R282, R285 (derived).  A trap taken in handler mode, or with a vector of 0, kills the context with its cause: the
context is disabled with KILLED and CAUSE set and holds no block any more.  In a uniform stream a trap ends the stream and goes to
the block's lowest live warp. -/
def Obligations.FatalTraps : Prop :=
  ∀ (s : State) (c : Cur) (b : Blk) (t : Thr) (i : TrapInfo), Issues s c b t → s.replaying = false →
    let killed (u : State) : Prop :=
      (u.ctx b.info.ctx).en = false ∧ (u.ctx b.info.ctx).killed = true ∧ (u.ctx b.info.ctx).cause.toNat = i.cause.code ∧
      (u.ctx b.info.ctx).killing = true ∧ ∀ p ∈ u.blks, p.2.info.ctx ≠ b.info.ctx
    (c.w < 32 → t.privileged c.lanes = true → (s.ctx b.info.ctx).killing = false → killed (s.trap c b t i)) ∧
    (c.w < 32 → t.privileged c.lanes = false → t.handling = none → t.trapQ = [] → b.svc = false → b.stat = .resident →
      (s.ctx b.info.ctx).vec = 0 → (s.ctx b.info.ctx).killing = false → killed (s.trap c b t i)) ∧
    (32 ≤ c.w → t.tagRec = none → ∀ v tv, b.lowestWarp = some v → b.thr? v = some tv → tv.asyncQ.length < 4 →
      ∃ u t' tv', s.trap c b t i = u ∧ u.thr? c.core c.bctx c.w = some t' ∧ t'.exited = true ∧ t'.terminated = true ∧
        u.thr? c.core c.bctx v = some tv' ∧ tv' = { tv with asyncQ := tv'.asyncQ } ∧
        ∃ a, tv'.asyncQ = tv.asyncQ ++ [a] ∧ a.cause = i.cause ∧ a.pc = c.pc ∧ a.addr = i.addr ∧
          a.origin = if c.w = 32 then 2 else 3)

/-- R281, R311, R442 (derived).  TRET of the last lanes of a trap sub-warp to a TNPC the device wrote ends handler mode: each lane of
it goes to TNPC with its saved meeting address and the stop it had, held where the two addresses meet unless it stood inside a clause
there; lanes that return before the others are held at the TRET.  Outside handler mode TRET, SREAD and SWRITE of a trap register and CFGBANK raise PRIVILEGED. -/
def Sys2Proof.Rules.TrapReturn : Prop :=
  (∀ (z : BitVec 26) (s : State) (c : Cur) (b : Blk) (t : Thr) (r : TrapRec), Issues s c b t →
    ctlGate (.tret z) c t = .go → t.handling = some r →
    (t.tnpc = r.npc → t.trapQ = [] →
      (∀ l, l < t.lanes.length → l < 32 → (t.lane l).trap = .handler → (t.lane l).stat ≠ .exited → c.lanes.getLsbD l) →
      ∃ u t', exec (.tret z) s = .next u ∧ u = { s.setBlk c.core c.bctx (b.setThr c.w t') with focus := none } ∧
        t' = { t with lanes := t'.lanes, handling := none } ∧
        ∀ l, l < t.lanes.length → l < 32 →
          if c.lanes.getLsbD l ∨ (t.lane l).trap = .returned then
            (t'.lane l).pc = t.tnpc ∧ (t'.lane l).mr = (t.lane l).savedMr ∧ (t'.lane l).trap = .none ∧
            (t'.lane l).stat = match (t.lane l).savedStat with
              | .run => if t.tnpc = (t.lane l).savedMr ∧ (t.lane l).savedClause.any (fun k => decide (k.hdrAt.toNat < t.tnpc.toNat ∧
                  t.tnpc.toNat < k.hdrAt.toNat + 4 * (k.words.length + 1))) = false then .held else .run
              | x => x
          else t'.lane l = t.lane l) ∧
    ((∃ l, l < t.lanes.length ∧ l < 32 ∧ (t.lane l).trap = .handler ∧ (t.lane l).stat ≠ .exited ∧ !c.lanes.getLsbD l) →
      ∃ u t', exec (.tret z) s = .next u ∧ u = { s.setBlk c.core c.bctx (b.setThr c.w t') with focus := none } ∧
        t' = { t with lanes := t'.lanes } ∧
        ∀ l, l < t.lanes.length → l < 32 → t'.lane l =
          if c.lanes.getLsbD l then { t.lane l with trap := .returned, stat := .blocked .trapTurn, clause := none }
          else t.lane l)) ∧
  (∀ (i : Instr) (s : State) (c : Cur) (b : Blk) (t : Thr), Issues s c b t → c.w < 32 → t.privileged c.lanes = false →
    (∃ z, i = .tret z) ∨ (∃ w, i = .cfgbank w) ∨ (∃ w : UniW, (i = .sread w ∨ i = .swrite w) ∧ 16 ≤ w.sb.toNat ∧ w.sb.toNat ≤ 27) →
    exec i s = .next { s.trap c b t
      { cause := .privilegedUse, lanes := c.lanes, faulting := c.lanes, npc := c.pc } with focus := none })

/-! ### Synchronisation (R158, R164, R230, R237 to R244, R379, R384 to R392) -/

/-- R240, R385 to R387 (derived).  BARINIT sets up its barrier and forgets every arrival at it; BAR and BARA count their lanes, and once
every live lane of the warp is counted begin the release with which the party arrives; BAR then waits for the phase.  A barrier that
is not initialised, does not take the party, or has counted a lane already raises BARRIER_MISUSE. -/
def Obligations.BlockBarriers : Prop :=
  ∀ (w : UniW) (s : State) (c : Cur) (b : Blk) (t : Thr),
    let n := w.sd.toNat % 16
    let k := b.bar n
    (SyncReady s c b t (.barinit w) w →
      let m := srcU b w.sa w.lit
      m ≠ 0 → m.toNat < 2 ^ 34 → (∀ i, i < 34 → m.getLsbD i → i ∈ b.info.parties) →
      (k.init = true → k.arrived = 0 ∧ ∀ p ∈ b.thrs, nget p.2.arrived n ≠ some k.phase ∧ p.2.counted n = 0) →
      ∃ u t', exec (.barinit w) s = .next u ∧
        PartyOnly s u c { b with
          bars := lset n { init := true, parts := m.setWidth 34, arrived := 0, phase := 0 } b.bars
          thrs := b.thrs.map fun p => (p.1, { p.2 with arrived := ndel n p.2.arrived, arrive := ndel n p.2.arrive }) } t' ∧
        Thr.Moved { t with arrived := ndel n t.arrived, arrive := ndel n t.arrive } t') ∧
    (∀ (waits : Bool) (op : Instr), op = (if waits then .bar w else .bara w) → SyncReady s c b t op w → k.init = true →
      k.parts.getLsbD c.w = true → t.counted n &&& c.lanes = 0 → b.pendingPhase t n = none →
      let all := t.counted n ||| c.lanes
      let arrives := t.live &&& ~~~all = 0
      let t1 := if arrives then { t with arrive := ndel n t.arrive, arrived := nput n k.phase t.arrived }
        else { t with arrive := nput n all t.arrive }
      ∃ u t', exec op s = .next u ∧ t1.Moved t' ∧
        u = { s.setBlk c.core c.bctx (b.setThr c.w t') with
          recd := u.recd
          nextId := if arrives then s.nextId + 1 else s.nextId
          rels := if arrives then begun s c b.adm 1 (.arrive n all) all else s.rels } ∧
        (waits = true → ∀ l, l < t.lanes.length → l < 32 → c.lanes.getLsbD l → (t'.lane l).stat ≠ .run)) ∧
    (SyncReady s c b t (.barw w) w → k.init = true →
      ∃ u t', exec (.barw w) s = .next u ∧ PartyOnly s u c b t' ∧ t.Moved t' ∧
        (t.counted n ≠ 0 ∨ b.pendingPhase t n ≠ none → ∀ l, l < t.lanes.length → l < 32 → c.lanes.getLsbD l → (t'.lane l).stat ≠ .run)) ∧
    (∀ op, (op = .bar w ∨ op = .bara w) ∧ (k.init = false ∨ k.parts.getLsbD c.w = false ∨ t.counted n &&& c.lanes ≠ 0) ∨
        (op = .barw w ∧ k.init = false) → SyncReady s c b t op w → ∃ s', RecdOnly s s' ∧
      exec op s = .next { s'.trap c b t
        { cause := .barrierMisuse, lanes := c.lanes, faulting := c.lanes, npc := c.pc } with focus := none })

/-- R164, R388, R391, R392 (derived).  TOKWAIT goes on when its tokens are zero and else stops its lanes; TLREAD, and TLWAIT of a value
reached, deliver the timeline, TLWAIT of a higher one stops its lanes; TLSIG and STAGE begin the release with which the timeline or
the stage mark rises, and TLSIG below the stream's own mark raises TIMELINE_ORDER.  (No slot holds the synchronisation engine, R57.) -/
def Obligations.TokensTimelinesStages : Prop :=
  ∀ (w : UniW) (s : State) (c : Cur) (b : Blk) (t : Thr),
    let n := srcU b w.sa w.lit
    let v := srcU b w.sb w.lit
    (UniReady s c b t (.tokwait w) w →
      ((∀ k, k < 8 → w.sd.getLsbD k → t.tokens.getD k 0 = 0) →
        ∃ u t', exec (.tokwait w) s = .next u ∧ PartyOnly s u c b t' ∧ t.Moved t') ∧
      ((∃ k, k < 8 ∧ w.sd.getLsbD k ∧ t.tokens.getD k 0 ≠ 0) →
        ∃ u, exec (.tokwait w) s = .next u ∧ BlockedAt s u c b t (.token w.sd))) ∧
    (n.toNat / 16 = b.info.ctx → s.islandDown syncIsland = false →
      (∀ op, op = .tlread w ∨ (op = .tlwait w ∧ v.toNat ≤ (s.timeline n.toNat).toNat) → SyncReady s c b t op w →
        ∃ u b' t', exec op s = .next u ∧ PartyOnly s u c b' t' ∧ t.Moved t' ∧ b.PutUni b' w.sd.toNat (s.timeline n.toNat)) ∧
      (SyncReady s c b t (.tlwait w) w → (s.timeline n.toNat).toNat < v.toNat →
        ∃ u, exec (.tlwait w) s = .next u ∧ BlockedAt s u c b t (.timeline n.toNat v)) ∧
      (SyncReady s c b t (.tlsig w) w → (t.marks.getD (n.toNat % 16) 0).toNat ≤ v.toNat →
        ∃ u t', exec (.tlsig w) s = .next u ∧ Thr.Moved { t with marks := lset (n.toNat % 16) v t.marks } t' ∧
          u = { s.setBlk c.core c.bctx (b.setThr c.w t') with
            recd := u.recd, nextId := s.nextId + 1, rels := begun s c b.adm 4 (.tlsig n.toNat v) }) ∧
      (SyncReady s c b t (.tlsig w) w → v.toNat < (t.marks.getD (n.toNat % 16) 0).toNat → ∃ s', RecdOnly s s' ∧
        exec (.tlsig w) s = .next { s'.trap c b t
          { cause := .timelineOrder, lanes := c.lanes, faulting := c.lanes, npc := c.pc } with focus := none })) ∧
    (SyncReady s c b t (.stage w) w → ∃ u t', exec (.stage w) s = .next u ∧ t.Moved t' ∧
      u = { s.setBlk c.core c.bctx (b.setThr c.w t') with
        recd := u.recd, nextId := s.nextId + 1, rels := begun s c b.adm 1 (.stage n) })

/-- R389, R390 (derived).  PHREG joins a phaser that is free or its context's and delivers the first phase that counts the member;
PHSIG claims its phase, begins its release and delivers the phase; PHNEXT does so and waits; PHWAIT delivers a counter past its phase
or stops its lanes past the word; PHDROP leaves the phaser.  (No slot holds the synchronisation engine, R57.) -/
def Sys2Proof.Rules.PhaserWords : Prop :=
  ∀ (w : UniW) (s : State) (c : Cur) (b : Blk) (t : Thr) (n : Nat), n = (srcU b w.sa w.lit).toNat → n ≤ 4095 →
    let p := s.phaser n
    (p.members ≠ [] → p.owner = b.info.ctx) → s.islandDown syncIsland = false →
    let claimed (f : Nat) : List PhMember :=
      p.members.map fun m => if m.is b.adm c.w then { m with signalled := some f } else m
    (SyncReady s c b t (.phreg w) w → (∀ m ∈ p.members, m.is b.adm c.w = false) →
      (p.members.filter fun m => m.mode == fld w.sb 0 2).length < 65535 →
      let first := if p.members.any (fun m => m.mode != 2) then p.phase + 1 else p.phase
      ∃ u b' t', exec (.phreg w) s = .next u ∧ t.Moved t' ∧ b.PutUni b' w.sd.toNat (BitVec.ofNat 64 first) ∧
        u = { s.setBlk c.core c.bctx (b'.setThr c.w t') with
          recd := u.recd
          phasers := nput n { p with
            owner := b.info.ctx
            members := p.members ++ [{ adm := b.adm, w := c.w, mode := fld w.sb 0 2, first := first,
                                       signalled := none, counted := none, dropping := false }] } s.phasers }) ∧
    (∀ m, (p.members.find? fun m => m.is b.adm c.w) = some m →
      let f := max p.phase m.first
      let fresh := m.signalled ≠ some f ∧ ¬ (m.dropping = true ∧ m.first ≤ p.phase)
      (SyncReady s c b t (.phsig w) w → m.mode ≠ 2 → fresh →
        ∃ u b' t', exec (.phsig w) s = .next u ∧ t.Moved t' ∧ b.PutUni b' w.sd.toNat (BitVec.ofNat 64 f) ∧
          u = { s.setBlk c.core c.bctx (b'.setThr c.w t') with
            recd := u.recd, nextId := s.nextId + 1, rels := begun s c b.adm 3 (.phsig n f)
            phasers := nput n { p with members := claimed f } s.phasers }) ∧
      (SyncReady s c b t (.phnext w) w → m.mode = 0 → fresh →
        ∃ u t', exec (.phnext w) s = .next u ∧ t.Moved t' ∧
          (∀ l, l < t.lanes.length → l < 32 → c.lanes.getLsbD l →
            (t'.lane l).stat = .blocked (.phaser n f true w.sd.toNat)) ∧
          u = { s.setBlk c.core c.bctx (b.setThr c.w t') with
            recd := u.recd, nextId := s.nextId + 1, rels := begun s c b.adm 3 (.phsig n f)
            phasers := nput n { p with members := claimed f } s.phasers }) ∧
      (SyncReady s c b t (.phwait w) w → m.mode ≠ 1 →
        ((srcU b w.sb w.lit).toNat < p.phase → ∃ u b' t', exec (.phwait w) s = .next u ∧ PartyOnly s u c b' t' ∧ t.Moved t' ∧
          b.PutUni b' w.sd.toNat (BitVec.ofNat 64 p.phase)) ∧
        (p.phase ≤ (srcU b w.sb w.lit).toNat → ∃ u t', exec (.phwait w) s = .next u ∧ PartyOnly s u c b t' ∧ t.Moved t' ∧
          ∀ l, l < t.lanes.length → l < 32 → c.lanes.getLsbD l →
            (t'.lane l).stat = .blocked (.phaser n (srcU b w.sb w.lit).toNat true w.sd.toNat))) ∧
      (SyncReady s c b t (.phdrop w) w → ∃ u, exec (.phdrop w) s = .next u ∧
        (∀ x ∈ (u.phaser n).members, x.is b.adm c.w = true → x.dropping = true) ∧
        (∀ q, q ≠ n → u.phaser q = s.phaser q) ∧
        u = { s with recd := u.recd, phasers := u.phasers, blks := u.blks }))

/-- R241 (derived).  A phaser's phase completes exactly when some member signals and every signalling member that counts for the phase
has had its signal counted or has dropped with no signal of its own still to be counted: the counter goes
up by one and the dropped members leave; otherwise nothing changes.  Where the next phase is complete by then as well, it completes
too. -/
def Sys2Proof.Rules.PhaserPhases : Prop :=
  ∀ (s : State) (n core bctx w : Nat),
    let p := s.phaser n
    let counts := p.members.filter fun m => m.mode != 2 && decide (m.first ≤ p.phase)
    (counts ≠ [] → (∀ m ∈ counts, m.counted = some p.phase ∨ m.dropping = true ∧ m.signalled ≠ some p.phase) →
      ((s.phStep n core bctx w).phaser n).members = p.members.filter (fun m => !m.dropping) ∧
      ((p.members.any fun m => !m.dropping) = true → ((s.phStep n core bctx w).phaser n).phase = p.phase + 1) ∧
      s.phCheck n core bctx w = (s.phStep n core bctx w).phStep n core bctx w) ∧
    (counts ≠ [] → (∃ m ∈ counts, m.counted ≠ some p.phase ∧ (m.dropping = false ∨ m.signalled = some p.phase)) →
      s.phCheck n core bctx w = s)

/-- R230, R231, R237, R240, R392 (derived).  RELEASE_COMPLETE of a release whose conditions hold takes it off the list and does what it
was for: a fence or a held write lets requests go on, a timeline rises and never falls, a stage mark rises and never falls, and a
party arrives at its barrier, whose phase completes when every participant has arrived or exited.  While an earlier read of its lanes
is unbound (the model's choice, log entry 40: the rules speak of writes) or an earlier write not yet where its scope asks, or class 5
work that a matrix stream's arrival covers is unfinished (R239), or a slot holds the engine that keeps the timeline or phaser (R57),
nothing happens.  The barriers and the stage mark of a parked block are written into its image (R286). -/
def Sys2Proof.Rules.ReleasesComplete : Prop :=
  ∀ (s : State) (k : Rel) (b : Blk), (s.rels.find? fun k => k.id == s.arg.a) = some k → s.replaying = false →
    s.mayOp k.core (issuerOf k.bctx k.w) k.low = true → s.blk? k.core k.bctx = some b → b.adm = k.adm → (∀ m p, k.act ≠ .codepub m p) →
    let left := s.rels.filter fun x => x.id != k.id
    let ends (u : State) : Prop :=
      exec .releaseComplete s = .next (u.imgSync k.core k.bctx) ∧ (b.parkedNow = false → u.imgSync k.core k.bctx = u)
    (s.relDone k k.scope = false ∨ s.kilnOwes k = true → exec .releaseComplete s = .next s) ∧
    (s.relDone k k.scope = true → s.kilnOwes k = false →
      (∀ sc m, k.act = .fence sc m → ∃ u, ends u ∧
        u = { s with recd := u.recd, rels := left, reqs := u.reqs, clusters := u.clusters, links := u.links, outbox := u.outbox }) ∧
      (∀ q, k.act = .write q → ∃ u, ends u ∧ (∀ r ∈ u.reqs, r.id = q → r.hold = false) ∧
        u = { s with recd := u.recd, rels := left, reqs := u.reqs, clusters := u.clusters, links := u.links, outbox := u.outbox }) ∧
      (∀ n v, k.act = .tlsig n v → ∃ u, ends u ∧
        (∀ m, (u.timeline m).toNat = if m = n then max (s.timeline n).toNat v.toNat else (s.timeline m).toNat) ∧
        u = { s with recd := u.recd, rels := left, tls := u.tls, blks := u.blks }) ∧
      (∀ v t, k.act = .stage v → b.thr? k.w = some t → ∃ u t', ends u ∧
        u = { s.setBlk k.core k.bctx (b.setThr k.w t') with recd := u.recd, rels := left } ∧
        t' = { t with stage := t'.stage } ∧ t'.stage.toNat = max t.stage.toNat v.toNat) ∧
      (∀ n m, k.act = .arrive n m → n < b.bars.length → n < 16 → k.w < 34 → (b.bar n).init = true →
        ∃ u b', ends u ∧ u.blk? k.core k.bctx = some b' ∧
          u = { s with recd := u.recd, rels := left, blks := u.blks } ∧ (∀ j, j ≠ n → b'.bar j = b.bar j) ∧
          let here := (b.bar n).arrived ||| BitVec.ofNat 34 (2 ^ k.w)
          if (b.bar n).parts &&& ~~~(here ||| s.gone k.core k.bctx b) = 0 then
            b'.bar n = { b.bar n with arrived := 0, phase := (b.bar n).phase + 1 } ∧
            (∀ p ∈ b'.thrs, ∀ l ∈ p.2.lanes, ∀ ph, ph ≤ (b.bar n).phase → l.stat ≠ .blocked (.barrier n ph true))
          else b'.bar n = { b.bar n with arrived := here }))

/-- R243, R244, R377 to R379 (derived).  CODEPUB_COMPLETE, once the writer's earlier copies have completed and its own writes are at
their homes, publishes: the writer leaves every line's list of unpublished writers.  Once a release of the word's scope is done it
completes, and the warp's words fetched and not issued are discarded.  WAKEADDR_HOME_ACT, once the warp's earlier writes to the
object are acknowledged, takes the oldest enrolments of its context for each address off the queue, as many as the lane asks, and
is done. -/
def Sys2Proof.Rules.PublishAndWake : Prop :=
  (∀ (s : State) (k : Rel) (m : Word), (s.rels.find? fun k => k.id == s.arg.a) = some k → k.act = .codepub m false →
    s.replaying = false → s.mayOp k.core (issuerOf k.bctx k.w) k.low = true →
    (∀ x ∈ s.cmds, x.core = k.core → x.bctx = k.bctx → x.w = k.w → x.adm = k.adm → x.id < k.upto → x.finished = true) →
    (∀ r ∈ s.reqs, k.covers r = true → r.kind.writes = false ∧ k.unread r = false) → ∃ u, exec .codepubComplete s = .next u ∧
      u = { s with recd := u.recd, mem := { s.mem with writers := u.mem.writers },
                   rels := s.rels.map fun x => if x.id = k.id then { x with act := .codepub m true } else x } ∧
      ∀ line ws, nget u.mem.writers line = some ws → writerKey k.adm k.w ∉ ws) ∧
  (∀ (s : State) (k : Rel) (m : Word) (b : Blk) (t : Thr), (s.rels.find? fun k => k.id == s.arg.a) = some k →
    k.act = .codepub m true → s.replaying = false → s.blk? k.core k.bctx = some b → b.thr? k.w = some t →
    s.relDone k k.scope = true → ∃ u t', exec .codepubComplete s = .next u ∧
      u = { s.setBlk k.core k.bctx (b.setThr k.w t') with
        recd := u.recd, rels := s.rels.filter (fun x => x.id != k.id), reqs := u.reqs, clusters := u.clusters, links := u.links
        outbox := u.outbox } ∧
      t' = { t with lanes := t'.lanes } ∧ ∀ l ∈ t'.lanes, (∀ q, l.clause = some q → q.stale = true) ∧
        ∀ q, l.savedClause = some q → q.stale = true) ∧
  (∀ (s : State) (r : Req), s.req? s.arg.a = some r → r.kind = .wakeaddr → r.stage = .accepted → s.replaying = false →
    s.mayOp r.core (issuerOf r.bctx r.w) r.low = true → s.mem.enrols.Nodup →
    (∀ q ∈ s.reqs, q.sameParty r = true → q.sameObj r = true → q.kind.writes = true → r.id ≤ q.id) →
    (lineIsCap r.line = false → s.stackHeld (lineStack r.line) = false) →
    ∃ u, exec .wakeaddrHomeAct s = .next u ∧ (∀ q ∈ u.reqs, q.id ≠ r.id) ∧
      ((∀ p ∈ s.mem.partials, ∀ o ∈ r.ops, p.line ≠ lineOf o.addr) →
        ∀ a, readByte u.mem.bytes a = readByte s.mem.bytes a) ∧
      (∀ o, r.ops = [o] → u.mem.enrols.filter (fun e => e.ctx == r.ctx && e.addr == o.addr) =
        (s.mem.enrols.filter fun e => e.ctx == r.ctx && e.addr == o.addr).drop (o.data.toNat % 2 ^ (8 * r.size))))

/-! ### The matrix stream (R148, R175, R176, R201, R235 to R239, R264 to R268, R394 to R404) -/

namespace Sys2Proof.Rules

/-- The row or K-block base a class 5 word names: its field plus the low 32 bits of its register (R394). -/
def plus (b : Blk) (x : Nat) (r : BitVec 8) : Nat := x + (b.sreg r.toNat).toNat % 2 ^ 32

/-- The rows of accumulator and K-blocks an MMA names, with its tiles ready and of agreeing shapes (R396, R397). -/
def MmaFits (s : State) (c : Cur) (b : Blk) (w : MmaW) : Prop :=
  let ea := s.tile c.core (b.tileIx w.ta.toNat)
  let eb := s.tile c.core (b.tileIx w.tb.toNat)
  w.ta.toNat < b.info.tiles ∧ w.tb.toNat < b.info.tiles ∧ w.aw.toNat < b.info.wpb ∧ ea.st = 2 ∧ eb.st = 2 ∧
  tLayout ea.desc = 2 ∧ tLayout eb.desc = 2 ∧ (tPfmt ea.desc = 2 ↔ tPfmt eb.desc = 2) ∧
  128 * (plus b w.koff.toNat w.sk + w.kcnt.toNat + 1) ≤ tCols ea.desc / 128 * 128 ∧
  128 * (plus b w.koff.toNat w.sk + w.kcnt.toNat + 1) ≤ tCols eb.desc / 128 * 128 ∧
  b.accRows w.aw.toNat (plus b w.arow.toNat w.srow) (tRows ea.desc * tRows eb.desc / 32) = true ∧
  s.admits (fun k e => (k.islands e).getLsbD (coreIsland c.core 4))
    (s.kilnTicks c.core w b ea.desc eb.desc (plus b w.koff.toNat w.sk)) ((s.coreAt c.core).kilnWait == some true) = true

/-- The command a class 5 word starts. -/
def kiln (s : State) (c : Cur) (b : Blk) (op : Instr) (base k0 : Nat) (sv : DWord) (lseq : Word) : MCmd :=
  { id := s.nextId, core := c.core, bctx := c.bctx, adm := b.adm, op := op, base := base, k0 := k0, sv := sv, pc := c.pc,
    lseq := lseq }

end Sys2Proof.Rules

/-- R148, R175, R394, R396, R397, R400, R401 (derived).  MMA and MMAI of ready tiles with agreeing shapes, rows inside the slice and the
Kiln admitted, MZERO of rows inside the slice and SCLD of columns inside a ready tile start their commands, which read the registers
now; only MMA and MMAI advance LSEQ; nothing else changes. -/
def Sys2Proof.Rules.MatrixCommandsStart : Prop :=
  ∀ (s : State) (c : Cur) (b : Blk) (t : Thr), s.heldBack c.core c.bctx c.w b.adm c.lanes = false →
    (∀ (w : MmaW) (op : Instr), op = .mma w ∨ op = .mmai w → CtlReady s c b t op → b.sIsEmpty w.srow.toNat = false →
      b.sIsEmpty w.sk.toNat = false → Rules.MmaFits s c b w → ∃ u t', exec op s = .next u ∧
        KilnStarted s u c b t'
          (Rules.kiln s c b op (Rules.plus b w.arow.toNat w.srow) (Rules.plus b w.koff.toNat w.sk) 0 (t.lseq + 1))
          [b.tileIx w.ta.toNat, b.tileIx w.tb.toNat] none ∧
        Thr.Moved { t with lseq := t.lseq + 1 } t') ∧
    (∀ w : MzeroW, CtlReady s c b t (.mzero w) → b.sIsEmpty w.srow.toNat = false → w.aw.toNat < b.info.wpb →
      b.accRows w.aw.toNat (Rules.plus b w.arow.toNat w.srow) ((if w.m64 then 64 else 128) * (if w.n64 then 64 else 128) / 32) = true →
      ∃ u t', exec (.mzero w) s = .next u ∧
        KilnStarted s u c b t' (Rules.kiln s c b (.mzero w) (Rules.plus b w.arow.toNat w.srow) 0 0 t.lseq) [] none ∧ t.Moved t') ∧
    (∀ w : ScldW, CtlReady s c b t (.scld w) → w.tn.toNat < b.info.tiles →
      let e := s.tile c.core (b.tileIx w.tn.toNat)
      e.st = 2 → tLayout e.desc = 2 → w.joff.toNat + w.jcnt.toNat + 1 ≤ tCols e.desc / 32 →
      ∃ u t', exec (.scld w) s = .next u ∧
        KilnStarted s u c b t' (Rules.kiln s c b (.scld w) 0 0 0 t.lseq) [b.tileIx w.tn.toNat] none ∧ t.Moved t')

/-- R199, R201, R238, R388, R402, R403 (derived).  MSTORE into a tile that may be filled and MLOAD of a ready tile, of a linear or Morton
layout with sides of 64 or 128 and the element size of FMT, start their command: the token counts up, the stream's mark for the
timeline moves to the value, and MSTORE's tile counts one more fill. -/
def Sys2Proof.Rules.MatrixMovesStart : Prop :=
  ∀ (w : MmoveW) (s : State) (c : Cur) (b : Blk) (t : Thr) (store : Bool) (op : Instr),
    op = (if store then .mstore w else .mload w) → CtlReady s c b t op →
    s.heldBack c.core c.bctx c.w b.adm c.lanes = false → b.sIsEmpty w.srow.toNat = false →
    let v : DWord := BitVec.ofNat 64 ((b.sreg w.sv.toNat).toNat % 2 ^ 32)
    (w.tlv = true → b.sIsEmpty w.sv.toNat = false ∧ w.tl.toNat / 16 = b.info.ctx ∧
      (t.marks.getD (w.tl.toNat % 16) 0).toNat ≤ v.toNat) →
    (w.tkv = true → t.tokens.getD w.tok.toNat 0 < 15) → w.tn.toNat < b.info.tiles → w.aw.toNat < b.info.wpb →
    let j := b.tileIx w.tn.toNat
    let e := s.tile c.core j
    (if store then e.st = 0 ∨ e.st = 1 else e.st = 2) → tLayout e.desc < 2 → tRows e.desc = 64 ∨ tRows e.desc = 128 →
    tCols e.desc = 64 ∨ tCols e.desc = 128 → tEsize e.desc = (if w.fmt = 0 then 2 else if w.fmt.toNat ≤ 2 then 1 else 0) →
    b.accRows w.aw.toNat (Rules.plus b w.arow.toNat w.srow) (tRows e.desc * tCols e.desc / 32) = true →
    ∃ u t', exec op s = .next u ∧
      KilnStarted s u c b t' (Rules.kiln s c b op (Rules.plus b w.arow.toNat w.srow) 0 v (t.lseq + 1))
        (if store then [] else [j]) (if store then some j else none) ∧
      (store = true → u.tile c.core j = { e with st := 1, fills := (if e.st = 1 then e.fills else 0) + 1 }) ∧
      Thr.Moved { t with
        lseq := t.lseq + 1
        marks := if w.tlv then lset (w.tl.toNat % 16) v t.marks else t.marks
        tokens := if w.tkv then lmod w.tok.toNat (· + 1) t.tokens else t.tokens } t'

/-- R201, R236, R404 (derived).  TREL moves a ready tile to draining, which without a reader empties at once and raises its timeline,
and raises TILE_STATE in any other state; TACQ goes on when its tile is ready and MWAIT when few enough commands are outstanding,
and else they stop the stream. -/
def Obligations.TileWords : Prop :=
  ∀ (w : TrelW) (s : State) (c : Cur) (b : Blk) (t : Thr), s.heldBack c.core c.bctx c.w b.adm c.lanes = false →
    let j := b.tileIx w.tn.toNat
    let e := s.tile c.core j
    let v : DWord := BitVec.ofNat 64 ((b.sreg w.sv.toNat).toNat % 2 ^ 32)
    (CtlReady s c b t (.trel w) → w.tn.toNat < b.info.tiles →
      (w.tlv = true → b.sIsEmpty w.sv.toNat = false ∧ w.tl.toNat / 16 = b.info.ctx ∧
        (t.marks.getD (w.tl.toNat % 16) 0).toNat ≤ v.toNat) →
      (e.st = 2 → ∃ u t', exec (.trel w) s = .next u ∧ u.thr? c.core c.bctx c.w = some t' ∧
        Thr.Moved { t with marks := if w.tlv then lset (w.tl.toNat % 16) v t.marks else t.marks } t' ∧
        u = { s with recd := u.recd, cores := u.cores, tls := u.tls, blks := u.blks } ∧
        (u.tile c.core j).desc = e.desc ∧ (u.tile c.core j).readers = e.readers ∧
        (if e.readers = [] then (u.tile c.core j).st = 0 ∧
          (∀ n, (u.timeline n).toNat = if w.tlv ∧ n = w.tl.toNat then max (s.timeline n).toNat v.toNat else (s.timeline n).toNat)
        else (u.tile c.core j).st = 3 ∧ (u.tile c.core j).raise = (if w.tlv then some (w.tl.toNat, v) else none) ∧ u.tls = s.tls)) ∧
      (e.st ≠ 2 → ∃ s', RecdOnly s s' ∧ exec (.trel w) s = .next { s'.trap c b t
        { cause := .tileState, lanes := c.lanes, faulting := c.lanes, npc := c.pc } with focus := none })) ∧
    (CtlReady s c b t (.tacq w) → w.tn.toNat < b.info.tiles →
      (e.st = 2 → ∃ u t', exec (.tacq w) s = .next u ∧ PartyOnly s u c b t' ∧ t.Moved t') ∧
      (e.st ≠ 2 → ∃ u, exec (.tacq w) s = .next u ∧ BlockedAt s u c b t (.tile w.tn.toNat))) ∧
    (CtlReady s c b t (.mwait w) →
      let n := (s.mcmds.filter fun k => k.core == c.core && k.bctx == c.bctx).length
      (n ≤ w.tl.toNat % 64 → ∃ u t', exec (.mwait w) s = .next u ∧ PartyOnly s u c b t' ∧ t.Moved t') ∧
      (w.tl.toNat % 64 < n → ∃ u, exec (.mwait w) s = .next u ∧ BlockedAt s u c b t (.mwait (w.tl.toNat % 64))))

namespace Sys2Proof.Rules

/-- MATRIX_COMMAND_COMPLETE finds the oldest command of its block, whose earlier accesses have ended and whose pool and scratchpad no slot
holds (R394, R399). -/
structure KilnDue (s : State) (k : MCmd) (b : Blk) : Prop where
  named : (s.mcmds.find? fun k => k.id == s.arg.a) = some k
  blk : s.blk? k.core k.bctx = some b
  noneOver : NoneOver s
  first : ∀ x ∈ s.mcmds, x.core = k.core → x.bctx = k.bctx → k.id ≤ x.id
  free : s.kilnHeld k = false
  sound : s.arg.flag = false

/-- The descriptor of the tile that a field of a command names. -/
def tileDesc (s : State) (k : MCmd) (b : Blk) (x : BitVec 6) : BitVec 128 := (s.tile k.core (b.tileIx x.toNat)).desc

/-- The integer an element of a plane tile stands for (R200, R264): the sum of the weights of its planes whose bit is set; of a binary
tile, plus or minus one. -/
def planeInt (d : BitVec 128) (byte : Nat → Byte) (i k : Nat) : Int :=
  let p := (fld d 58 4 : BitVec 4).toNat + 1
  let rows := (fld d 25 11 : BitVec 11).toNat
  let cols := (fld d 36 15 : BitVec 15).toNat
  let bit (j : Nat) : Int :=
    if (byte ((fld d 0 25 : BitVec 25).toNat + j * (rows * cols / 8) + i * (cols / 8) + k / 8)).getLsbD (k % 8) then 1 else 0
  if fld d 56 2 = (2 : BitVec 2) then (if bit 0 = 1 then 1 else -1)
  else ((List.range p).map fun j => (if fld d 56 2 = (0 : BitVec 2) ∧ j + 1 = p then -(2 ^ j : Int) else 2 ^ j) * bit j).sum

/-- The block product of R265. -/
def product (da db : BitVec 128) (byte : Nat → Byte) (i n j : Nat) : Int :=
  ((List.range 32).map fun k => planeInt da byte i (32 * j + k) * planeInt db byte n (32 * j + k)).sum

/-- One step of R266: `acc` becomes `new` as K-block `p` with the two scales is added. -/
def Accumulates (acc : Nat) (p : Int) (sa sb : Byte) (new : Nat) : Prop :=
  if sa = 0xFF ∨ sb = 0xFF then new = 0x7FC00000
  else
    let v : ℚ := p * (2 : ℚ) ^ ((sa.toNat : ℤ) - 127 + ((sb.toNat : ℤ) - 127))
    ∃ c : FRes, (if v = 0 then c.val = 0 else Delivers fp32 .rne false v c) ∧
      (fp32.isNan acc = true → new = fp32.quiet acc) ∧
      (fp32.isInf acc = true → fp32.isInf c.val = true →
        new = if fp32.signOf acc = fp32.signOf c.val then acc else 0x7FC00000) ∧
      (fp32.isInf acc = true → fp32.isInf c.val = false → new = acc) ∧
      (Finite fp32 acc → fp32.isInf c.val = true → new = c.val) ∧
      (Finite fp32 acc → Finite fp32 c.val →
        (value fp32 acc + value fp32 c.val = 0 → new = 0) ∧
        (value fp32 acc + value fp32 c.val ≠ 0 →
          ∃ e, Delivers fp32 .rne false (value fp32 acc + value fp32 c.val) { val := new, exc := e }))

/-- R265 to R268 (derived).  What one K-block adds to an element of an accumulator: an exact product, scaled, rounded to nearest, and
added with one more rounding, an exact zero sum being +0; in an MMAI, the product modulo 2^32; nothing where it is skipped. -/
def MatrixElements : Prop :=
  (∀ (acc : Word) (p : Int) (sa sb : Byte), Accumulates acc.toNat p sa sb (accStep acc.toNat p sa sb)) ∧
  ∀ (w : MmaW) (isInt : Bool) (da db : BitVec 128) (byte : Nat → Byte) (scale : Nat → Nat → Byte) (k0 i n : Nat) (a : Word),
    fld da 56 2 ≠ (3 : BitVec 2) → fld db 56 2 ≠ (3 : BitVec 2) →
    let soff (d : BitVec 128) : Nat := (fld d 64 10 : BitVec 10).toNat
    let skips (j : Nat) : Bool := w.skip && da.getLsbD 74 &&
      (byte ((fld da 75 25 : BitVec 25).toNat + (i * ((fld da 36 15 : BitVec 15).toNat / 32) + j) / 8)).getLsbD
        ((i * ((fld da 36 15 : BitVec 15).toNat / 32) + j) % 8)
    mmaElem w isInt da db byte scale k0 i n a = (List.range (4 * (w.kcnt.toNat + 1))).foldl (fun a x =>
      let j := 4 * k0 + x
      if skips j then a
      else if isInt then BitVec.ofInt 32 (a.toNat + product da db byte i n j)
      else BitVec.ofNat 32 (accStep a.toNat (product da db byte i n j) (scale (soff da + j) i) (scale (soff db + j) n))) a

/-- The format FMT of a move names (R402). -/
def fmtOf (n : BitVec 3) : Option Fmt :=
  if n = 1 then some bf16 else if n = 2 then some fp16 else if n = 3 then some e4m3 else if n = 4 then some e5m2 else none

/-- R255, R257, R402, R403 (derived).  What MSTORE and MLOAD make of an element: FMT 0 copies its bits; MSTORE rounds a finite one to its
format in its direction, and MLOAD widens one exactly, a NaN to the canonical one with its sign. -/
def MovedElements : Prop :=
  ∀ (w : MmoveW) (x : Word) (d : Dir),
    (w.fmt = 0 → storeElem w x = x.toNat ∧ ∀ y, y < 2 ^ 32 → (loadElem w y).toNat = y) ∧
    ∀ f, fmtOf w.fmt = some f →
      ((w.rmode.toNat < 2 ∧ d = .rne ∨ w.rmode = 2 ∧ d = .rtz ∨ w.rmode = 3 ∧ d = .rdn ∨ w.rmode = 4 ∧ d = .rup) → Finite fp32 x.toNat →
        (value fp32 x.toNat = 0 → storeElem w x = f.withSign (fp32.signOf x.toNat) 0) ∧
        (value fp32 x.toNat ≠ 0 → ∃ e, Delivers f d w.sat (value fp32 x.toNat) { val := storeElem w x, exc := e })) ∧
      ∀ y, y < 2 ^ (1 + f.eb + f.m) →
        (f.isNan y = true → (loadElem w y).toNat = fp32.withSign (f.signOf y) 0x7FC00000) ∧
        (f.isInf y = true → (loadElem w y).toNat = fp32.withSign (f.signOf y) 0x7F800000) ∧
        (Finite f y → Finite fp32 (loadElem w y).toNat ∧ value fp32 (loadElem w y).toNat = value f y ∧
          fp32.signOf (loadElem w y).toNat = f.signOf y)

end Sys2Proof.Rules

/-- R264 to R266, R395, R398, R400, R403 (derived).  MATRIX_COMMAND_COMPLETE of the oldest command of its block, with nothing it reads
lost: every element of the accumulator tile has the rule's new value (the K-blocks of the product added in order, zero, or the widened
tile element), the other rows keep theirs, and the command is no longer outstanding. -/
def Sys2Proof.Rules.MatrixCommandsComplete : Prop :=
  ∀ (s : State) (k : MCmd) (b : Blk) (a : Thr) (aw m n : Nat) (f : Nat → Nat → Word → Word), Rules.KilnDue s k b →
    let desc := Rules.tileDesc s k b
    b.poisonIn (kilnReads k.op k.k0 desc) = false → b.thr? aw = some a → n % 32 = 0 → 0 < n →
    (∃ w, (k.op = .mma w ∨ k.op = .mmai w) ∧ aw = w.aw.toNat ∧ m = tRows (desc w.ta) ∧ n = tRows (desc w.tb) ∧
      f = fun i x old => mmaElem w (k.op == .mmai w) (desc w.ta) (desc w.tb) b.spadByte
        (fun col y => (s.coreAt k.core).scaleByte (128 * (b.scaleCol + col) + y)) k.k0 i x old) ∨
    (∃ w, k.op = .mzero w ∧ aw = w.aw.toNat ∧ m = (if w.m64 then 64 else 128) ∧ n = (if w.n64 then 64 else 128) ∧
      f = fun _ _ _ => 0) ∨
    (∃ w, k.op = .mload w ∧ aw = w.aw.toNat ∧ m = tRows (desc w.tn) ∧ n = tCols (desc w.tn) ∧
      f = fun i x _ => loadElem w (leNat (b.spadRead (tElem (desc w.tn) i x) (2 ^ tEsize (desc w.tn))))) →
    ∃ u a', exec .matrixCommandComplete s = .next u ∧ u.thr? k.core k.bctx aw = some a' ∧
      u.mcmds = s.mcmds.filter (fun x => x.id != k.id) ∧ u.mem = s.mem ∧ a' = { a with rows := a'.rows, tokens := a'.tokens, lanes := a'.lanes } ∧
      (∀ i x, i < m → x < n → a'.reg (k.base + i * (n / 32) + x / 32) (x % 32)
        = f i x (a.reg (k.base + i * (n / 32) + x / 32) (x % 32))) ∧
      ∀ r l, l < 32 → ¬ (k.base ≤ r ∧ r < k.base + m * (n / 32)) → a'.reg r l = a.reg r l

/-- R200 to R202, R236, R388, R401 to R403, R410 (derived).  MATRIX_COMMAND_COMPLETE of the oldest command of its block, whatever word
issued it, leaves a next state in which the command is no longer outstanding.  That of an SCLD puts the scale bytes of its columns into
the block's slice of the scale memory, and of an MSTORE puts the narrowed elements into the tile's bytes of the scratchpad, linear or
Morton.  An MSTORE or MLOAD then counts its token down and raises its timeline, and an MSTORE takes one fill off its tile, which is ready
with the last.  A command that reads a poisoned line completes too, with its failure in the stream's CPYSTAT (the status and cause there
are the model's choice, log entry 47). -/
def Sys2Proof.Rules.MatrixMovesComplete : Prop :=
  ∀ (s : State) (k : MCmd) (b : Blk), Rules.KilnDue s k b →
    let desc := Rules.tileDesc s k b
    (∃ u, exec .matrixCommandComplete s = .next u ∧ ∀ x ∈ u.mcmds, x ∈ s.mcmds ∧ x.id ≠ k.id) ∧
    (b.poisonIn (kilnReads k.op k.k0 desc) = false →
      (∀ w, k.op = .scld w → ∃ u, exec .matrixCommandComplete s = .next u ∧ u.mem = s.mem ∧
        u.mcmds = s.mcmds.filter (fun x => x.id != k.id) ∧
        ∀ j i, w.joff.toNat ≤ j → j ≤ w.joff.toNat + w.jcnt.toNat → i < 128 →
          (u.coreAt k.core).scaleByte (128 * (b.scaleCol + tSoff (desc w.tn) + j) + i) =
            b.spadByte (tScale0 (desc w.tn) + 128 * j + i)) ∧
      (∀ w a i x, k.op = .mstore w → b.thr? w.aw.toNat = some a →
        let side (n : Nat) : Prop := n = 64 ∨ n = 128
        tLayout (desc w.tn) = 0 ∨ (tLayout (desc w.tn) = 1 ∧ side (tRows (desc w.tn)) ∧ side (tCols (desc w.tn))) →
        i < tRows (desc w.tn) → x < tCols (desc w.tn) → tEsize (desc w.tn) ≤ 2 →
        ∃ u b', exec .matrixCommandComplete s = .next u ∧ u.blk? k.core k.bctx = some b' ∧ (b.spadPoison = [] → u.mem = s.mem) ∧
          u.mcmds = s.mcmds.filter (fun x => x.id != k.id) ∧
          leNat (b'.spadRead (tElem (desc w.tn) i x) (2 ^ tEsize (desc w.tn))) =
            storeElem w (a.accElem k.base (tCols (desc w.tn)) i x) % 2 ^ (8 * 2 ^ tEsize (desc w.tn))) ∧
      (∀ (w : MmoveW) (store : Bool) (t : Thr), k.op = (if store then .mstore w else .mload w) → b.thr? 32 = some t →
        (∀ j, k.id ∈ (s.tile k.core j).readers → (s.tile k.core j).st = 2) →
        let j := b.tileIx w.tn.toNat
        let e := s.tile k.core j
        ∃ u t', exec .matrixCommandComplete s = .next u ∧ u.mcmds = s.mcmds.filter (fun x => x.id != k.id) ∧
          u.thr? k.core k.bctx 32 = some t' ∧ t'.tokens = (if w.tkv then lmod w.tok.toNat (· - 1) t.tokens else t.tokens) ∧
          (∀ n, (u.timeline n).toNat =
            if w.tlv ∧ n = w.tl.toNat then max (s.timeline n).toNat k.sv.toNat else (s.timeline n).toNat) ∧
          (store = true → e.st = 1 → k.id ∉ e.readers →
            u.tile k.core j = { e with fills := e.fills - 1, st := if e.fills ≤ 1 then 2 else 1 }))) ∧
    (b.poisonIn (kilnReads k.op k.k0 desc) = true → ∀ t, b.thr? 32 = some t →
      ∃ u t', exec .matrixCommandComplete s = .next u ∧ u.mcmds = s.mcmds.filter (fun x => x.id != k.id) ∧
        u.thr? k.core k.bctx 32 = some t' ∧ t'.cpystat.toNat =
          (t.cpystat.toNat % 2 ^ 16 ||| 1) + 2 ^ 16 * Cause.engineAbort.code + 2 ^ 32 * k.lseq.toNat)

/-! ### Copies, collectives and the access stream's words (R31, R192, R199, R201, R214, R406 to R422, R445) -/

namespace Sys2Proof.Rules

/-- `op` is a copy or COLL of the fields `w` and `x`, with source-tile field `st` (127 where it names none). -/
def IsCopy (op : Instr) (w : UniW) (x : CpyX) (st : BitVec 7) : Prop :=
  (op = .coll w x ∧ st = 127) ∨ ∃ y : CpyY, st = y.st ∧
    (op = .cpy w x y ∨ op = .cpyfill w x y ∨ op = .cpym w x y ∨ op = .cpyp w x y ∨ op = .cpyx w x y ∨ op = .cpyr w x y ∨
      op = .cpymc w x y ∨ op = .cpyg w x y ∨ op = .cpys w x y)

/-- The operand values of a copy (R406). -/
def copyArgs (b : Blk) (w : UniW) (x : CpyX) : CpyArgs :=
  { sd := b.sreg w.sd.toNat, sa := srcU b w.sa w.lit, sb := srcU b w.sb w.lit, sv := srcU b x.sv w.lit }

/-- The tile a tile field names; 127 names none. -/
def named (f : BitVec 7) : Option Nat := if f = 127 then none else some f.toNat

/-- The descriptor of the tile a field names. -/
def descOf (s : State) (c : Cur) (b : Blk) (f : BitVec 7) : Option (BitVec 128) :=
  (named f).map fun n => (s.tile c.core (b.tileIx n)).desc

/-- The registers, tiles, timeline and token of a copy are those its block holds, and its geometry and endpoints are sound: steps
1 to 4 of R407. -/
structure CopyNames (s : State) (c : Cur) (b : Blk) (op : Instr) (w : UniW) (x : CpyX) (st : BitVec 7) : Prop where
  tiles : (x.dt = 127 ∨ x.dt.toNat < b.info.tiles) ∧ (st = 127 ∨ st.toNat < b.info.tiles)
  timeline : x.tlv = true → x.tl.toNat / 16 = b.info.ctx ∧ (x.sv = 0xFF ∨ uniRegGate b x.sv.toNat = .go)
  operands : uniOperandGate op w b = .go
  peers : s.kindling = true → usesPeers op = false
  registers : cpyrInRange b op (copyArgs b w x).sd = true
  geometry : copyGeom op (copyArgs b w x) (descOf s c b x.dt) = true
  footprints : footOk op (copyArgs b w x) b (descOf s c b x.dt) (descOf s c b st)
    ((s.fillEntries c.core b op (named x.dt)).map fun f => (s.tile f.1 f.2).desc) = true
  endpoints : s.endsFault c b op (copyArgs b w x) ((descOf s c b x.dt).getD 0) = none

/-- Nothing keeps a copy of sound names from its issue: steps 5 to 8 of R407. -/
structure CopyGoes (s : State) (c : Cur) (b : Blk) (t : Thr) (op : Instr) (w : UniW) (x : CpyX) (st : BitVec 7) : Prop extends
    CopyNames s c b op w x st where
  cast : castMask op < 2 ^ b.info.bpg
  fills : ∀ f ∈ s.fillEntries c.core b op (named x.dt), (s.tile f.1 f.2).st = 0 ∨ (s.tile f.1 f.2).st = 1
  source : ∀ n, named st = some n → (s.tile c.core (b.tileIx n)).st ≠ 0 ∧ (s.tile c.core (b.tileIx n)).st ≠ 3
  order : x.tlv = true → (t.marks.getD (x.tl.toNat % 16) 0).toNat ≤ (copyArgs b w x).sv.toNat
  token : x.tok ≠ 15 → t.tokens.getD x.tok.toNat 0 < 15
  held : s.heldBack c.core c.bctx c.w b.adm c.lanes = false
  queue : s.queueFull c b.adm = false
  full : cpyrFull b op (copyArgs b w x).sd = true

end Sys2Proof.Rules

/-- R214, R407, R410, R416, R417, R422 (derived).  CPY, CPYFILL, CPYM, CPYP, CPYX, CPYR, CPYMC, CPYG, CPYS and COLL that pass R407's
checks join their issuer's queue with the operand values of the moment: LSEQ advances, the token counts, the timeline's mark moves,
the destination tiles fill, a source tile, ready or filling, counts a reader, CPYR's registers become empty; a copy of no bytes is over at once, which R411 says of CPY, and which for
the other kinds is the model's choice (log entry 25). -/
def Obligations.CopiesIssue : Prop :=
  ∀ (op : Instr) (w : UniW) (x : CpyX) (st : BitVec 7) (s : State) (c : Cur) (b : Blk) (t : Thr), Rules.IsCopy op w x st →
    CtlReady s c b t op → Rules.CopyGoes s c b t op w x st →
    let a := Rules.copyArgs b w x
    let fills := s.fillEntries c.core b op (Rules.named x.dt)
    let items := copyItems op a ((Rules.descOf s c b x.dt).getD 0)
    (items ≠ 0 → ∃ u t' k, exec op s = .next u ∧
      u = { s with recd := u.recd, nextId := s.nextId + 1, cmds := s.cmds ++ [k], cores := u.cores, blks := u.blks } ∧
      (k.id = s.nextId ∧ k.core = c.core ∧ k.bctx = c.bctx ∧ k.w = c.w ∧ k.adm = b.adm ∧ k.ctx = b.info.ctx ∧ k.op = op ∧
        k.sd = a.sd ∧ k.sa = a.sa ∧ k.sb = a.sb ∧ k.pc = c.pc ∧ k.lseq = t.lseq + 1 ∧ k.started = false ∧ k.finished = false ∧
        k.tok = (if x.tok = 15 then none else some x.tok.toNat) ∧ k.tl = (if x.tlv then some (x.tl.toNat, a.sv) else none) ∧
        k.priv = t.privileged c.lanes) ∧
      u.thr? c.core c.bctx c.w = some t' ∧
      t' = { t with
        lanes := t'.lanes, loops := t'.loops, empty := t'.empty, copyStall := false
        lseq := t.lseq + 1
        marks := if x.tlv then lset (x.tl.toNat % 16) a.sv t.marks else t.marks
        tokens := if x.tok = 15 then t.tokens else lmod x.tok.toNat (· + 1) t.tokens } ∧
      (∀ f ∈ fills, (u.tile f.1 f.2).st = 1 ∧ (u.tile f.1 f.2).desc = (s.tile f.1 f.2).desc) ∧
      (∀ n, Rules.named st = some n → s.nextId ∈ (u.tile c.core (b.tileIx n)).readers) ∧
      (∀ v d n q, cpyrRegs op a.sd = some (v, d, n) → b.thr? v = some q → q.exited = false →
        ∃ q', u.thr? c.core c.bctx v = some q' ∧ ∀ r, q'.isEmpty r = (q.isEmpty r || decide (d ≤ r ∧ r < d + n)))) ∧
    (items = 0 → x.tlv = false → NoneOver s → (∀ k ∈ s.cmds, k.id < s.nextId) →
      ∃ u, exec op s = .next u ∧ u.nextId = s.nextId + 1 ∧ ∀ k ∈ u.cmds, k.id ≠ s.nextId)

namespace Sys2Proof.Rules

/-- The geometry that R411 to R418 refuse, the cluster window of anything but a CPY of whole entries included. -/
def BadGeometry (op : Instr) (w : UniW) (x : CpyX) (a : CpyArgs) (dt : Option (BitVec 128)) : Prop :=
  let fifo (va : DWord) : Prop := isWindow va = true ∧ fld va 48 4 = (2 : BitVec 4)
  let side (n : Nat) : Prop := 3 ≤ n ∧ n ≤ 10
  let planes (y : CpyY) : Prop := ∃ d, dt = some d ∧ tLayout d = 2 ∧ ¬ (tPfmt d = 0 ∧ tPlanes d = 1) ∧ (y.rest.getLsbD 5 = true → tZmv d = true)
  let lx := a.sb.toNat % 16
  let ly := a.sb.toNat / 2 ^ 4 % 16
  let lz := a.sb.toNat / 2 ^ 8 % 16
  let high := a.sb.toNat / 2 ^ 32 ≠ 0
  let index (y : CpyY) (va : DWord) : Prop :=
    isWindow va = true ∨ va.toNat % 2 ^ (y.rest.toNat / 2 % 8) ≠ 0 ∨ y.rest.toNat / 2 ^ 5 % 2 ^ 18 = 0 ∨ fifo a.sb
  ∃ y : CpyY,
    (op = .cpy w x y ∧ (a.sb.toNat / 2 ^ 40 ≠ 0 ∨ (y.rest.getLsbD 0 = true ∧ isWindow a.sa = true) ∨
      (y.rest.getLsbD 1 = true ∧ isWindow a.sd = true) ∨
      (a.sb.toNat % 2 ^ 40 % 128 ≠ 0 ∧ (fifo a.sa ∨ fifo a.sd)))) ∨
    (op = .cpyfill w x y ∧ fifo a.sd) ∨
    (op = .cpym w x y ∧ (fifo a.sa ∨ fifo a.sd ∨ ¬ side lx ∨ ¬ side ly ∨ (lz ≠ 0 ∧ ¬ side lz) ∨ a.sb.toNat / 2 ^ 14 % 2 ^ 18 ≠ 0 ∨
      ∃ d, dt = some d ∧ tLayout d = 1 ∧
        ¬ (tRows d = 2 ^ ly ∧ tCols d = 2 ^ lx ∧ tEsize d = a.sb.toNat / 2 ^ 12 % 4))) ∨
    (op = .cpyp w x y ∧ (fifo a.sa ∨ (y.rest.getLsbD 4 = true ∧ fifo a.sd) ∨ ¬ planes y ∨ high ∨
      ∃ d, dt = some d ∧ (y.rest.toNat % 16 = 5 ∨ y.rest.toNat % 16 = 6) ∧ tCols d % 4 ≠ 0)) ∨
    (op = .cpyx w x y ∧ (isWindow a.sa = true ∨ high ∨ (y.rest.getLsbD 0 = false ∧ fifo a.sd) ∨
      (y.rest.getLsbD 0 = true ∧ (¬ planes y ∨ ∃ d, dt = some d ∧ a.sb.toNat % 2 ^ 32 ≠ tRows d * tCols d / 32)))) ∨
    (op = .cpyr w x y ∧ (fifo a.sa ∨ a.sa.toNat % 4 ≠ 0 ∨
      ∃ k, k < 64 ∧ a.sd.getLsbD k = true ∧ ¬ (k < 5 ∨ 8 ≤ k ∧ k < 15 ∨ 16 ≤ k ∧ k < 22))) ∨
    (op = .cpymc w x y ∧ (fifo a.sa ∨ y.rest.toNat % 256 = 0)) ∨
    (op = .cpyg w x y ∧ (index y a.sa ∨ fifo a.sd)) ∨
    (op = .cpys w x y ∧ (index y a.sd ∨ fifo a.sa))

/-- A copy with a destination or source tile writes or reads a byte outside the tile's footprint (R407). -/
def OutsideTile (b : Blk) (op : Instr) (a : CpyArgs) (dt st : Option (BitVec 128)) (dts : List (BitVec 128)) : Prop :=
  let es := copyExts op a (dt.getD 0)
  let inside (d : BitVec 128) (o : Nat) : Prop := ∃ r ∈ tFoot d, r.1 ≤ o ∧ o < r.2
  let out (e : Ext) (d : BitVec 128) : Prop := ∃ i j, i < e.rows ∧ j < e.bytes ∧
    ∀ o, e.peer = false → ownOffset b e.va = some o → ¬ inside d (o + i * e.pitch + j)
  let cast := ∃ w x y, op = .cpymc w x y
  let scatters := ∃ w x y, op = .cpys w x y
  (∃ d, dt = some d ∧ ¬ cast ∧ (scatters ∨ ∃ e ∈ es, e.write = true ∧ out e d)) ∨
  (dt ≠ none ∧ cast ∧ ∃ m ∈ dts, ∃ j, j < cpyLen a.sb ∧ ¬ inside m (a.sd.toNat + j)) ∨
  (∃ d, st = some d ∧ ((∃ w x y, op = .cpyg w x y ∨ op = .cpyx w x y) ∨ ∃ e ∈ es, e.write = false ∧ out e d))

/-- The cause with which a window endpoint is refused over its whole extent (R189, R190, R197, R407). -/
def EndpointFault (s : State) (core : Nat) (b : Blk) (e : Ext) (k : Cause) : Prop :=
  let o := e.va.toNat % 2 ^ 48
  let n := e.span
  let win := e.va.toNat / 2 ^ 48 % 16
  let rank := o / 2 ^ 25 % 8
  let bank := s.bank (bankKey (core / 8) (o / 2 ^ 20 % 32))
  let bad := o % 2 ^ 20 ≠ 0 ∨ 2 ^ 25 ≤ o ∨ bank.mode ≠ .fifo
  let va := b.info.param + BitVec.ofNat 64 o
  let astray := canonicalVa va = false ∨ isWindow va = true
  isWindow e.va = true ∧ e.peer = false ∧ n ≠ 0 ∧
    ((win = 0 ∧ (b.info.isCopy = true ∨ b.info.spadB < o + n) ∧ k = .scratchRange) ∨
     (win = 1 ∧ (b.info.isCopy = true ∨ 2 ^ 28 ≤ o ∨ b.info.bpg ≤ rank ∨ b.info.spadB < o % 2 ^ 25 + n ∨
        (rank ≠ b.info.rank ∧ ∀ p ∈ s.blks, ¬ (p.2.info.gangId = b.info.gangId ∧ p.2.info.rank = rank ∧ p.2.info.ctx = b.info.ctx ∧
          p.2.hasExited = false))) ∧ k = .scratchRange) ∨
     (win = 2 ∧ bad ∧ k = .scratchRange) ∨
     (win = 2 ∧ ¬ bad ∧ bank.owner ≠ some b.info.ctx ∧ k = if e.write then .protectionWrite else .protectionRead) ∨
     (win = 3 ∧ 65536 < o + n ∧ k = .scratchRange) ∨
     (win = 3 ∧ o + n ≤ 65536 ∧ astray ∧ k = .addressSpace) ∨
     (win = 3 ∧ o + n ≤ 65536 ∧ ¬ astray ∧ e.write = true ∧ k = .protectionWrite) ∨
     (4 ≤ win ∧ k = .addressSpace))

end Sys2Proof.Rules

/-- R31, R407, R411 to R418 (derived).  The first check of a copy that does not pass decides its trap: a tile or timeline its block does
not hold, then a peer in Kindling, then CPYR's registers, geometry and footprints, endpoints, a multicast to ranks outside the gang, tile
states, the order of its timeline and an overfull token; nothing of the copy has happened. -/
def Obligations.CopiesTrap : Prop :=
  ∀ (op : Instr) (w : UniW) (x : CpyX) (st : BitVec 7) (s : State) (c : Cur) (b : Blk) (t : Thr), Rules.IsCopy op w x st →
    CtlGo s c b t op →
    let a := Rules.copyArgs b w x
    let dt := Rules.descOf s c b x.dt
    let fills := s.fillEntries c.core b op (Rules.named x.dt)
    let es := copyExts op a (dt.getD 0)
    let traps (k : Cause) : Prop := ∃ s', RecdOnly s s' ∧
      exec op s = .next { s'.trap c b t { cause := k, lanes := c.lanes, faulting := c.lanes, npc := c.pc } with focus := none }
    let holds := (x.dt = 127 ∨ x.dt.toNat < b.info.tiles) ∧ (st = 127 ∨ st.toNat < b.info.tiles) ∧
      (x.tlv = true → x.tl.toNat / 16 = b.info.ctx)
    let full := uniOperandGate op w b = .go ∧ (x.tlv = true → x.sv = 0xFF ∨ uniRegGate b x.sv.toNat = .go)
    let fabric := s.kindling = true ∧
      ((∃ y : CpyY, op = .cpy w x y ∧ (y.rest.getLsbD 0 = true ∨ y.rest.getLsbD 1 = true)) ∨ op = .coll w x)
    let beyond := ∃ (y : CpyY) (v d n : Nat), op = .cpyr w x y ∧ v = a.sd.toNat % 32 ∧ d = a.sd.toNat / 2 ^ 8 % 128 ∧
      n = a.sd.toNat / 2 ^ 16 % 64 + 1 ∧ (b.info.wpb ≤ v ∨ ∀ q, b.thr? v = some q → q.poolb < d + n)
    let unsound := Rules.BadGeometry op w x a dt ∨
      Rules.OutsideTile b op a dt (Rules.descOf s c b st) (fills.map fun f => (s.tile f.1 f.2).desc)
    (¬ holds → traps .operandRange) ∧
    (holds → full →
      (fabric → traps .kindlingUnavailable) ∧
      (¬ fabric → beyond → traps .operandRange) ∧
      (¬ fabric → ¬ beyond → unsound → traps .copyGeometry) ∧
      (¬ fabric → ¬ beyond → ¬ unsound →
        (∀ e ∈ es, ∀ k, Rules.EndpointFault s c.core b e k →
          (∀ e' ∈ es, ∀ k', Rules.EndpointFault s c.core b e' k' → k' = k) → traps k) ∧
        ((∀ e ∈ es, ∀ k, ¬ Rules.EndpointFault s c.core b e k) → (∃ y, op = .cpymc w x y) →
          b.info.spadB < a.sd.toNat + cpyLen a.sb → traps .scratchRange))) ∧
    (Rules.CopyNames s c b op w x st →
      let broken := (∃ f ∈ fills, (s.tile f.1 f.2).st = 2 ∨ (s.tile f.1 f.2).st = 3) ∨
        ∃ n, Rules.named st = some n ∧ ((s.tile c.core (b.tileIx n)).st = 0 ∨ (s.tile c.core (b.tileIx n)).st = 3)
      let usable := (∀ f ∈ fills, (s.tile f.1 f.2).st = 0 ∨ (s.tile f.1 f.2).st = 1) ∧
        ∀ n, Rules.named st = some n → (s.tile c.core (b.tileIx n)).st ≠ 0 ∧ (s.tile c.core (b.tileIx n)).st ≠ 3
      let late := x.tlv = true ∧ a.sv.toNat < (t.marks.getD (x.tl.toNat % 16) 0).toNat
      (2 ^ b.info.bpg ≤ castMask op → traps .multicastTarget) ∧
      (castMask op < 2 ^ b.info.bpg →
        (broken → traps .tileState) ∧
        (usable → late → traps .timelineOrder) ∧
        (usable → ¬ late → x.tok ≠ 15 → 15 ≤ t.tokens.getD x.tok.toNat 0 → traps .tokenOverflow)))

/-- R199, R201, R419, R420 (derived).  STAGEW goes on once the stage counter has reached its value and else stops the stream; TSET of a
sound descriptor into an empty entry writes it, from its registers or from the 16 bytes its read brought, ready where it says so;
the form in memory first asks for those bytes and stands where it was.  Both advance LSEQ as they go on (R148). -/
def Sys2Proof.Rules.StageWaitsAndTiles : Prop :=
  ∀ (w : UniW) (x1 x2 : Word) (s : State) (c : Cur) (b : Blk) (t : Thr),
    let v := (srcU b w.sa w.lit).toNat
    (UniReady s c b t (.stagew w x1) w →
      (b.stageCount < v → ∃ u, exec (.stagew w x1) s = .next u ∧ BlockedAt s u c b t (.stageWait v)) ∧
      (v ≤ b.stageCount → s.heldBack c.core c.bctx c.w b.adm c.lanes = false →
        ∃ u t', exec (.stagew w x1) s = .next u ∧ PartyOnly s u c b t' ∧ Thr.Moved { t with lseq := t.lseq + 1 } t')) ∧
    (UniReady s c b t (.tset w x1 x2) w → (fld x1 0 6 : BitVec 6).toNat < b.info.tiles →
      let j := b.tileIx (fld x1 0 6 : BitVec 6).toNat
      let writes (rs : List Req) (d : BitVec 128) : Prop :=
        tileFault b.info.spadB b.info.scaleB (d &&& ~~~((7 : BitVec 128) <<< 100)) = none → (s.tile c.core j).st = 0 →
        s.heldBack c.core c.bctx c.w b.adm c.lanes = false →
        ∃ u t', exec (.tset w x1 x2) s = .next u ∧ Thr.Moved { t with lseq := t.lseq + 1 } t' ∧
          u = { s.setBlk c.core c.bctx (b.setThr c.w t') with recd := u.recd, cores := u.cores, reqs := rs } ∧
          (∀ k, u.tile c.core k = if k = j then
            { s.tile c.core j with desc := d &&& ~~~((7 : BitVec 128) <<< 100), st := if x1.getLsbD 6 then 2 else 0 } else s.tile c.core k)
      (x1.getLsbD 7 = true → writes s.reqs (zext 128 (srcU b w.sa w.lit) ||| zext 128 (srcU b w.sb w.lit) <<< 64)) ∧
      (∀ r l d, x1.getLsbD 7 = false → s.tsetReq c b.adm = some r → r.stage = .served → r.err = none → r.got = [(l, d)] →
        writes (s.reqs.filter fun q => q.id != r.id) d) ∧
      (∀ h o lf, x1.getLsbD 7 = false → s.tsetReq c b.adm = none →
        s.laneCheck c b (c.mmu b (t.privileged c.lanes)) tsetForm (srcU b w.sa w.lit) = .ok h o lf →
        Roomy s c b (laneBit (lowestLane c.lanes)) (fun _ => h) (fun _ => o) → s.heldBack c.core c.bctx c.w b.adm c.lanes = false →
        ∃ u, exec (.tset w x1 x2) s = .next u ∧ u.thr? c.core c.bctx c.w = some t ∧
          (∃ r ∈ u.reqs, s.nextId ≤ r.id ∧ r.core = c.core ∧ r.bctx = c.bctx ∧ r.w = c.w ∧ r.adm = b.adm ∧ r.kind = .load ∧
            r.size = 16 ∧ r.dst = .none ∧ r.pc = c.pc ∧ r.home = h) ∧ u.cores = s.cores))

/-- R192, R445 (derived).  CFGBANK of a bank already in the mode it names goes on; otherwise, where the change is not refused, it begins
the change and stands until the change has completed, after which it goes on. -/
def Sys2Proof.Rules.BankConfiguration : Prop :=
  ∀ (w : UniW) (s : State) (c : Cur) (b : Blk) (t : Thr), UniReady s c b t (.cfgbank w) w →
    let sel := srcU b w.sa w.lit
    let cluster := (fld sel 5 5 : BitVec 5).toNat
    let k := bankKey cluster (fld sel 0 5 : BitVec 5).toNat
    let m := bankModeOf (fld sel 10 2)
    let me := (b.adm, c.w)
    fld sel 10 2 ≠ (3 : BitVec 2) → fld sel 12 52 = (0 : BitVec 52) → cluster < 24 → (s.kindling = true → cluster = 0) →
    (me ∈ (s.bank k).done →
      ∃ u t', exec (.cfgbank w) s = .next u ∧ t.Moved t' ∧
        u.bank k = { s.bank k with done := (s.bank k).done.filter (· != me) } ∧ (∀ j, j ≠ k → u.bank j = s.bank j) ∧
        u = { s.setBlk c.core c.bctx (b.setThr c.w t') with recd := u.recd, clusters := u.clusters }) ∧
    (me ∉ (s.bank k).done → (s.bank k).change = none →
      s.changeRefused k m (some b.info.ctx) = false → s.heldBack c.core c.bctx c.w b.adm c.lanes = false →
      ((s.bank k).mode = m → ∃ u t', exec (.cfgbank w) s = .next u ∧ PartyOnly s u c b t' ∧ t.Moved t') ∧
      ((s.bank k).mode ≠ m → ∃ u, exec (.cfgbank w) s = .next u ∧ u.thr? c.core c.bctx c.w = some t ∧
        u.bank k = { s.bank k with change := some (m, some b.info.ctx), changer := some me } ∧
        (∀ j, j ≠ k → u.bank j = s.bank j))) ∧
    (me ∉ (s.bank k).done → (s.bank k).change = none →
      s.changeRefused k m (some b.info.ctx) = true → ∃ s', RecdOnly s s' ∧
      exec (.cfgbank w) s = .next { s'.trap c b t
        { cause := .operandRange, lanes := c.lanes, faulting := c.lanes, npc := c.pc } with focus := none }) ∧
    (me ∉ (s.bank k).done → (s.bank k).change ≠ none → ∃ s', RecdOnly s s' ∧
      exec (.cfgbank w) s = .next { s' with focus := none })

/-! ### Homes, banks and replies (R42, R43, R171, R192 to R198, R203 to R212, R223, R230, R231, R243, R274, R293, R371 to R382) -/

namespace Sys2Proof.Rules

/-- Request `r`, accepted by a line of HBM outside the capacity tier, may be served, and no error, poison, partial sum or
asynchronous check stands at the line. -/
structure AtHome (s : State) (r : Req) : Prop where
  arg : s.req? s.arg.a = some r ∧ s.arg.ecc = .clean ∧ s.arg.flag2 = false
  stage : r.stage = .accepted
  home : r.home = .mem ∧ lineIsCap r.line = false
  serve : s.mayServe r = true ∧ s.lacksWriterRoom r = false ∧ s.replaying = false
  plain : s.poisoned r.line = false ∧ s.partialsOf r.line = [] ∧ r.asyncTag = false

/-- Memory after each lane of `r` in turn has written what `f` makes of the bytes at its address. -/
def applied (r : Req) (f : LaneOp → List Byte → List Byte) (ops : List LaneOp) (m : Memory) : Memory :=
  ops.foldl (fun m o => writeBytes m o.addr (f o (readBytes m o.addr r.size))) m

/-- No store that the requester's cluster has accepted stands before it on its line (R231). -/
def NoneBefore (s : State) (r : Req) : Prop :=
  ∀ q ∈ s.reqs, q.kind = .store → q.stage ≠ .queued → q.open = true → q.home = .mem → q.line = r.line → q.core / 8 = r.core / 8 → r.id ≤ q.id

end Sys2Proof.Rules

/-- R223, R231, R371 to R374, R382 (derived).  HOME_ACCESS_SERVE of a request at its home: a load takes the bytes there, a store writes
its lanes' data in lane order, an atomic computes each lane's new value from the bytes the lane before left and returns what it
found, TAGLD takes the granules' tags and TAGST replaces them; nothing else in memory changes. -/
def Sys2Proof.Rules.HomesServe : Prop :=
  ∀ (s : State) (r : Req), Rules.AtHome s r →
    (r.kind = .load → r.inv = false → Rules.NoneBefore s r → ∃ u, exec .homeAccessServe s = .next u ∧
      u.req? r.id = some { r with
        stage := .served
        got := r.ops.map fun o => (o.lane, r.extend (leNat (readBytes s.mem.bytes o.addr r.size))) } ∧
      u.mem.bytes = s.mem.bytes ∧ u.mem.tags = s.mem.tags ∧ u.blks = s.blks) ∧
    (r.kind = .store → ∃ u, exec .homeAccessServe s = .next u ∧ u.req? r.id = some { r with stage := .served } ∧
      (∀ a, readByte u.mem.bytes a =
        readByte (Rules.applied r (fun o _ => leBytes r.size o.data.toNat) r.ops s.mem.bytes) a) ∧
      u.mem.tags = s.mem.tags ∧ u.blks = s.blks) ∧
    ((r.kind = .cas ∨ ∃ p, r.kind = .atom p ∨ r.kind = .red p) → ∃ u q, exec .homeAccessServe s = .next u ∧ u.req? r.id = some q ∧
      q.stage = .served ∧ q.err = r.err ∧
      (∀ a, readByte u.mem.bytes a = readByte (Rules.applied r (fun o bs => (r.kind.apply r.size o bs).1) r.ops s.mem.bytes) a) ∧
      (r.dst ≠ .none → ∀ before o after, r.ops = before ++ o :: after →
        (o.lane, BitVec.ofNat 128 (leNat (readBytes
          (Rules.applied r (fun o bs => (r.kind.apply r.size o bs).1) before s.mem.bytes) o.addr r.size))) ∈ q.got) ∧
      (r.dst = .none → q.got = []) ∧ u.mem.tags = s.mem.tags ∧ u.blks = s.blks) ∧
    (r.kind = .tagld → ∃ u, exec .homeAccessServe s = .next u ∧
      u.req? r.id = some { r with stage := .served, got := r.ops.map fun o => (o.lane, zext 128 (s.tagOf (o.addr / 32))) } ∧
      u.mem.bytes = s.mem.bytes ∧ u.mem.tags = s.mem.tags) ∧
    (r.kind = .tagst → ∃ u, exec .homeAccessServe s = .next u ∧ u.req? r.id = some { r with stage := .served } ∧
      u.mem.bytes = s.mem.bytes ∧
      ∀ g, nget u.mem.tags g = r.ops.foldl (fun x o => if g = o.addr / 32 then some (o.data.setWidth 4) else x) (nget s.mem.tags g))

/-- R42, R207, R243, R378 to R380 (derived).  HOME_ACCESS_SERVE of a poisoned line ends a load or an atomic with POISON_CONSUMED and no
effect, and a store of the whole line clears the poison; CADD adds to its cluster's partial sum and leaves the home's bytes;
WAITADDR of one lane lands at once where the value differs and else enrols it; a fifth writer of a tracked line waits, and
WRITER_LIST_ROOM lets it go on. -/
def Sys2Proof.Rules.HomesKeepAndWait : Prop :=
  ∀ (s : State) (r : Req),
    (s.req? s.arg.a = some r → s.arg.ecc = .clean → s.arg.flag2 = false → r.stage = .accepted → r.home = .mem →
      lineIsCap r.line = false →
      s.mayServe r = true → s.lacksWriterRoom r = false → s.replaying = false → s.partialsOf r.line = [] → r.asyncTag = false →
      s.poisoned r.line = true →
      ((r.kind = .load ∨ r.kind = .cas ∨ ∃ p, r.kind = .atom p ∨ r.kind = .red p) → ∃ u, exec .homeAccessServe s = .next u ∧
        u.req? r.id = some { r with stage := .served, err := some .poisonConsumed } ∧ u.mem.bytes = s.mem.bytes) ∧
      (r.kind = .store → r.fullLine = true → ∃ u, exec .homeAccessServe s = .next u ∧ u.poisoned r.line = false)) ∧
    (Rules.AtHome s r →
      (∀ fmt o, r.kind = .cadd fmt → r.ops = [o] → o.fmt = fmt → fmt ≠ 0 → r.core < 192 → ∃ u, exec .homeAccessServe s = .next u ∧
        u.req? r.id = some { r with stage := .served } ∧ u.mem.bytes = s.mem.bytes ∧
        ∃ p ∈ u.mem.partials, p.line = r.line ∧ p.cluster = r.core / 8 ∧ p.fmt = fmt ∧
          p.elems.getD (o.addr % 128 / commSize fmt) 0 =
            commAdd fmt (if fmt = 3 then 0x80000000 else 0) (o.data.setWidth 64)) ∧
      (∀ o, r.kind = .waitaddr → r.ops = [o] → r.got = [] → Rules.NoneBefore s r →
        let v : QWord := BitVec.ofNat 128 (leNat (readBytes s.mem.bytes o.addr r.size))
        (v ≠ o.data → ∃ u, exec .homeAccessServe s = .next u ∧
          u.req? r.id = some { r with stage := .served, got := [(o.lane, v)] } ∧ u.mem.enrols = s.mem.enrols) ∧
        (v = o.data → (s.sliceQueue (s.slice r.line)).length < 2048 → ∃ u, exec .homeAccessServe s = .next u ∧
          u.req? r.id = some { r with stage := .waiting } ∧
          u.mem.enrols = s.mem.enrols ++ [{ ctx := r.ctx, addr := o.addr, req := r.id, lane := o.lane }]))) ∧
    (s.req? s.arg.a = some r → r.home = .mem → r.kind ≠ .wakeaddr →
      (r.stage = .accepted → s.arg.flag2 = false → s.mayServe r = true → s.lacksWriterRoom r = true →
        exec .homeAccessServe s = .next (s.modReq r.id fun q => { q with stage := .waiting })) ∧
      (r.stage = .waiting → r.kind ≠ .waitaddr → s.lacksWriterRoom r = false →
        exec .writerListRoom s = .next (s.modReq r.id fun q => { q with stage := .accepted })))

/-- R22, R47 (derived).  HOME_ACCESS_SERVE of a capacity line without cache mode asks its expander; CAPACITY_TIER_COMPLETION gives the
request its effect with the reply, or ends it with CAPACITY_TIER_ERROR where the reply is poison, a timeout or a failed link. -/
def Sys2Proof.Rules.CapacityTier : Prop :=
  ∀ (s : State) (r : Req), s.req? s.arg.a = some r → r.home = .mem → lineIsCap r.line = true → s.replaying = false →
    s.mem.cacheOn = false →
    (r.stage = .accepted → s.arg.flag2 = false → r.kind ≠ .wakeaddr → s.mayServe r = true → s.lacksWriterRoom r = false →
      let p := s.capPlace (r.line * 128 - capBase)
      ∃ u, exec .homeAccessServe s = .next u ∧ u.outbox = s.outbox ++ [.capRead p.1 p.2 r.id] ∧
        u.req? r.id = some { r with stage := .sent } ∧ u.mem = s.mem) ∧
    (r.stage = .sent → s.behindAtHome r = false → s.mayOp r.core (issuerOf r.bctx r.w) r.low = true →
      ((s.arg.reply = .poison ∨ s.arg.reply = .timeout ∨ s.arg.reply = .linkFail) → ∃ u, exec .capacityTierCompletion s = .next u ∧
        u.req? r.id = some { r with stage := .served, err := some .capacityTierError } ∧ u.mem = s.mem) ∧
      (∀ l, s.arg.reply = .ok l → r.kind = .load → r.inv = false → r.asyncTag = false → s.poisoned r.line = false →
        s.partialsOf r.line = [] → Rules.NoneBefore s r → ∃ u, exec .capacityTierCompletion s = .next u ∧
          u.req? r.id = some { r with
            stage := .served
            got := r.ops.map fun o => (o.lane, r.extend (leNat (readBytes s.mem.bytes o.addr r.size))) } ∧
          u.mem.bytes = s.mem.bytes))

/-- R171, R230, R293 (derived).  REPLY_LANDING of a served reply without a fault puts each lane's data into its registers, or a uniform
load's into its register, fills the destination when nothing else is due there, and the request is over; PARKED_REPLY_LANDING does so
for a parked block and writes the data into its image; STORE_ACKNOWLEDGE ends a served write and changes no register or byte. -/
def Obligations.RepliesLand : Prop :=
  ∀ (s : State) (r : Req) (b : Blk) (t : Thr), s.req? s.arg.a = some r → r.stage = .served → r.err = none →
    s.blk? r.core r.bctx = some b → b.adm = r.adm → b.thr? r.w = some t → s.watches b.info.ctx = [] → t.hits = [] →
    let parked := b.stat = .parked ∨ b.stat = .restorable
    let last := s.dstBusy r = false
    let landed (u : State) : Prop :=
      (∀ q ∈ u.reqs, q.id ≠ r.id) ∧
      (∀ v n, r.dst = .lane v n → (r.got.map fun g => g.1).Nodup → (∀ g ∈ r.got, g.1 < 32) →
        ∃ t', u.thr? r.core r.bctx r.w = some t' ∧ t' = { t with rows := t'.rows, empty := t'.empty } ∧
          (∀ g ∈ r.got, ∀ k, k < n → t'.reg (v + k) g.1 = BitVec.ofNat 32 (g.2.toNat / 2 ^ (32 * k))) ∧
          (∀ q l, l < 32 → (q < v ∨ v + n ≤ q ∨ ∀ g ∈ r.got, g.1 ≠ l) → t'.reg q l = t.reg q l) ∧
          ∀ q, t'.isEmpty q = (t.isEmpty q && !(decide last && decide (v ≤ q ∧ q < v + n)))) ∧
      (∀ n l v, r.dst = .uni n → n ≠ 0 → r.got = [(l, v)] → ∃ b', u.blk? r.core r.bctx = some b' ∧
        (∀ k, b'.sreg k = if k = n then v.setWidth 64 else b.sreg k) ∧
        ∀ k, b'.sIsEmpty k = (b.sIsEmpty k && !(decide last && k == n)))
    (r.dst.isReg = true → ¬ parked → ∃ u, exec .replyLanding s = .next u ∧ landed u ∧
      ∀ a, readByte u.mem.bytes a = readByte s.mem.bytes a) ∧
    (r.dst.isReg = true → parked → r.w < b.info.wpb → ∃ u, exec .parkedReplyLanding s = .next u ∧ landed u ∧
      ∀ v n, r.dst = .lane v n → (r.got.map fun g => g.1).Nodup → (∀ g ∈ r.got, g.1 < 32) → ∀ g ∈ r.got, ∀ k, k < n →
        leNat (readBytes u.mem.bytes (imageBase r.core r.bctx + b.info.imgRow r.w (v + k) + 4 * g.1) 4) =
          g.2.toNat / 2 ^ (32 * k) % 2 ^ 32) ∧
    (r.dst = .none → r.kind ≠ .load → r.kind ≠ .fetch → ∃ u, exec .storeAcknowledge s = .next u ∧ (∀ q ∈ u.reqs, q.id ≠ r.id) ∧ u.blks = s.blks ∧
      ∀ a, readByte u.mem.bytes a = readByte s.mem.bytes a)

/-- R161, R177, R178, R296, R444 (derived).  CLAUSE_ISSUE of a party that may issue, whose selected sub-warp stands at a clause that can be
fetched and entered, puts the sub-warp's lanes inside it, before its first word, and gives the party its turn; lanes that had yielded
run again, this selection having passed them over. -/
def Obligations.ClausesAreEntered : Prop :=
  ∀ (s x : State) (b : Blk) (t : Thr) (m : Word) (k : Clause),
    let core := s.arg.a
    let bctx := s.arg.b
    let w := s.arg.c
    s.arg.ecc = .clean → s.arg.flag = false → s.replaying = false → s.blk? core bctx = some b → canIssue s b = true →
    s.issueHeld core w = false → b.thr? w = some t → t.tagRec = none → t.trapQ = [] → t.asyncQ = [] →
    (∀ l, l < t.lanes.length → (t.lane l).stat = .held → (t.lane l).toMeet = false) →
    let t1 := t.settle s core bctx b
    let y := { t1 with lanes := t1.lanes.map fun l => if l.stat = .blocked .yielded then { l with stat := .run } else l }
    let b1 := b.setThr w y
    let s1 := s.setBlk core bctx b1
    t1.select (allowedLanes s1 (b.setThr w t1) core bctx w) = some m →
    let l := y.lane (lowestLane m)
    let c := fetchCur core bctx w m l.pc 0
    l.clause = none → s1.publishing core bctx w b.adm = false → s1.fetchClause c b1 y = .ok x k →
    isHeader k.hdr = true → clauseOk w k.hdr k.words = true → overlong y w m l.pc (l.pc + 4) = false →
    wakeHolds x core bctx b1 y (.token (hdrWait k.hdr)) = true →
    ∃ u t', exec .clauseIssue s = .next u ∧ u = { x.setBlk core bctx (b1.setThr w t') with focus := some (core, bctx, w) } ∧
      t' = { y with lanes := t'.lanes, loops := t'.loops, lastLane := lowestLane m, waited := t'.waited } ∧
      ((∀ n, n < 3 → (y.loop n).active = true → (y.loop n).stop ≠ (y.loop n).start + 1024) → t'.loops = y.loops) ∧
      ∀ i, i < y.lanes.length → i < 32 → t'.lane i =
        if m.getLsbD i then { y.lane i with pc := k.hdrAt + 4, clause := some k, via := none } else y.lane i

/-- R278, R279, R285 (derived).  ASYNC_TRAP_DELIVER with no trap being handled or waiting takes the warp's oldest pending asynchronous
trap: its takers go to the vector in handler mode with meeting address 1, the registers report it, and the others stay pending.  While
recording, the operations that the warp has issued take effect first (the model's choice: log entry 19). -/
def Obligations.AsynchronousTraps : Prop :=
  ∀ (s : State) (b : Blk) (t : Thr) (a : ATrap) (rest : List ATrap),
    let core := s.arg.a
    let bctx := s.arg.b
    let w := s.arg.c
    s.blk? core bctx = some b → b.thr? w = some t → canIssue s b = true → s.recd.mode ≠ 2 → s.trapWaits core bctx w = false →
    w < 32 → t.tagRec = none → t.asyncQ = a :: rest → t.inHandler = false → t.trapQ = [] → t.asyncTakers ≠ 0 → (s.ctx b.info.ctx).vec ≠ 0 →
    ∃ u t', exec .asyncTrapDeliver s = .next u ∧ u.thr? core bctx w = some t' ∧ t'.asyncQ = rest ∧
      t'.tcause.toNat % 64 = a.cause.code ∧ t'.tpc = a.pc ∧ t'.taddr = a.addr ∧
      t'.tnpc = (t.lane (lowestLane t.asyncTakers)).pc ∧ t'.tmask = BitVec.ofNat 64 (t.asyncTakers.toNat * (1 + 2 ^ 32)) ∧
      ∀ l, l < t.lanes.length → l < 32 → t'.lane l =
        if t.asyncTakers.getLsbD l then
          { t.lane l with
            pc := (s.ctx b.info.ctx).vec, mr := 1, stat := .run, trap := .handler, savedMr := (t.lane l).mr
            savedStat := (t.lane l).stat, savedClause := (t.lane l).clause, clause := none, via := none }
        else t.lane l

/-- R193 to R198 (derived).  BANK_REQUEST_SERVE serves the head of a bank's queue: a scratchpad load takes its block's bytes, a store
writes them, an atomic works on them lane by lane; a pop takes the oldest entry of a FIFO bank or waits, a push appends its entry or
waits. -/
def Sys2Proof.Rules.BanksServe : Prop :=
  ∀ (s : State) (r : Req) (rest : List Nat),
    let k := bankKey s.arg.a s.arg.b
    (s.bank k).queue = r.id :: rest → s.req? r.id = some r → s.mayOp r.core (issuerOf r.bctx r.w) r.low = true →
    s.islandDown (clusterIsland s.arg.a) = false → s.replaying = false → s.arg.ecc = .clean → (s.reqs.map fun q => q.id).Nodup →
    r.stage ≠ .queued →
    (∀ adm key b, r.home = .spad adm → s.blkOf adm = some (key, b) → r.line ∉ b.spadPoison →
      (r.kind = .load → ∃ u, exec .bankRequestServe s = .next u ∧ u.blks = s.blks ∧
        u.req? r.id = some { r with
          stage := .served, got := r.ops.map fun o => (o.lane, r.extend (leNat (b.spadRead o.addr r.size))) }) ∧
      (r.kind = .store → ∃ u, exec .bankRequestServe s = .next u ∧ u.req? r.id = some { r with stage := .served } ∧
        u.blks = nput key { r.ops.foldl (fun b o => b.spadWrite o.addr (leBytes r.size o.data.toNat)) b with
          spadPoison := ((nget u.blks key).elim [] fun x => x.spadPoison) } s.blks) ∧
      ((r.kind = .cas ∨ ∃ p, r.kind = .atom p ∨ r.kind = .red p) → ∀ o, r.ops = [o] → ∃ u b', exec .bankRequestServe s = .next u ∧
        u.blks = nput key b' s.blks ∧ (∀ x, b'.spadByte x =
          if o.addr ≤ x ∧ x < o.addr + r.size then (r.kind.apply r.size o (b.spadRead o.addr r.size)).1.getD (x - o.addr) 0
          else b.spadByte x) ∧
        u.req? r.id = some { r with
          stage := .served
          got := if r.dst = .none then [] else [(o.lane, BitVec.ofNat 128 (leNat (b.spadRead o.addr r.size)))] })) ∧
    (∀ x y, r.home = .fifo x y →
      (r.kind = .load →
        (∀ e es, (s.bank k).fifo = e :: es → e.poisoned = false → (s.bank k).waitPop = [] → (s.bank k).waitPush = [] → ∃ u, exec .bankRequestServe s = .next u ∧
          (u.bank k).fifo = es ∧ u.req? r.id = some { r with
            stage := .served, got := r.ops.map fun o => (o.lane, zext 128 (e.data.getD o.lane 0)) }) ∧
        ((s.bank k).fifo = [] → (s.bank k).waitPush = [] → ∃ u, exec .bankRequestServe s = .next u ∧ (u.bank k).waitPop = (s.bank k).waitPop ++ [r.id] ∧
          u.req? r.id = some { r with stage := .waiting })) ∧
      (r.kind = .store →
        ((s.bank k).fifo.length < 8192 → (s.bank k).waitPop = [] → (s.bank k).waitPush = [] → ∃ u, exec .bankRequestServe s = .next u ∧
          (u.bank k).fifo = (s.bank k).fifo ++ [r.fifoEntry] ∧ u.req? r.id = some { r with stage := .served }) ∧
        (8192 ≤ (s.bank k).fifo.length → (s.bank k).waitPop = [] → ∃ u, exec .bankRequestServe s = .next u ∧ (u.bank k).fifo = (s.bank k).fifo ∧
          (u.bank k).waitPush = (s.bank k).waitPush ++ [r.id] ∧ u.req? r.id = some { r with stage := .waiting })))

/-- R192, R358 to R360, R362 (derived).  BANK_MODE_CHANGE_DONE, once a changing bank's queue is empty, gives the bank its new mode and owner,
drops its entries, lets the party that asked go on, and decodes again what waited there; TBLLOAD_FILL_COMPLETE, once every load of a
fill has been answered without a fault, ends those loads and makes the bank the current one, with the image they brought. -/
def Sys2Proof.Rules.BanksAndTablesChange : Prop :=
  (∀ (s : State) (m : BankMode) (owner : Option Nat),
    let k := bankKey s.arg.a s.arg.b
    (s.bank k).queue = [] → (s.bank k).change = some (m, owner) → ∃ u, exec .bankModeChangeDone s = .next u ∧
      (u.bank k).mode = m ∧ (u.bank k).owner = (if m = .fifo then owner else none) ∧ (u.bank k).fifo = [] ∧
      (u.bank k).change = none ∧ (u.bank k).changer = none ∧ (u.bank k).done = (s.bank k).changer.toList ++ (s.bank k).done ∧
      (u.bank k).waitPop = [] ∧ (u.bank k).waitPush = [] ∧
      (∀ q ∈ u.reqs, q.id ∈ (s.bank k).waitPop ++ (s.bank k).waitPush → q.stage ≠ .waiting) ∧
      ∀ a, readByte u.mem.bytes a = readByte s.mem.bytes a) ∧
  (∀ (s : State) (i key : Nat) (x : TblBank) (f : TblFill) (b : Blk) (r : Req) (rs : List Req),
    let core := s.arg.a
    let banks := (s.coreAt core).banks
    findIx (fun x : TblBank => x.filling.any s.fillDone) banks = some i → banks[i]? = some x → x.filling = some f →
    s.blkOf f.adm = some (key, b) → (s.reqs.filter fun q => q.dst == .tbl f.first) = r :: rs → (∀ q ∈ r :: rs, q.err = none) →
    s.replaying = false → s.mayOp (key / 16) (issuerOf (key % 16) f.w) r.low = true →
    ∃ u image, exec .tblloadFillComplete s = .next u ∧
      u = { s with reqs := s.reqs.filter fun q => q.dst != .tbl f.first, cores := u.cores, recd := u.recd } ∧
      (∀ d, d ≠ core → u.coreAt d = s.coreAt d) ∧ u.coreAt core = { s.coreAt core with banks := (u.coreAt core).banks } ∧
      (∀ j, (u.coreAt core).banks[j]? = banks[j]?.map fun z =>
        if j = i then { z with image := image, owner := some f.adm, filling := none, current := true } else { z with current := false }) ∧
      ∀ before q after pre o post v, r :: rs = before ++ q :: after → q.ops = pre ++ o :: post →
        (q.got.find? fun g => g.1 == o.lane) = some (o.lane, v) → ∀ n, n < 16 →
        image.getD (16 * ((before.map fun z => z.ops.length).sum + pre.length) + n) 0 = (leBytes 16 v.toNat).getD n 0)

/-! ### Engines and collectives (R43, R63, R64, R214 to R216, R235, R408 to R425) -/

namespace Sys2Proof.Rules

/-- Byte `i` of the `n` bytes at `va` of a command lies at home byte `pa + i`, in HBM, on a page without tag checks that no one
publishes from, whether written or read. -/
def Mapped (s : State) (k : Cmd) (b : Blk) (write : Bool) (va : DWord) (n pa : Nat) : Prop :=
  ∀ i, i < n → isCapacity (pa + i) = false ∧ ∃ lf, s.laneCheck k.cur b k.mmu
      { kind := if write then .store else .load, ak := if write then .write else .read, bytes := 1,
        space := if isWindow va then 0 else 1, tagged := false } (va + BitVec.ofNat 64 i) = .ok .mem (pa + i) lf ∧
    ∀ x, lf = some x → x.pub = false ∧ x.tagm = 0

/-- Nothing about memory or its context turns an engine's access into anything but a move of bytes: no poison, no partial sums, no
watchpoints, no slot. -/
def CalmMemory (s : State) (ctx : Nat) : Prop :=
  s.mem.partials = [] ∧ s.mem.poison = [] ∧ s.mem.poisonTab = [] ∧ s.watches ctx = [] ∧ s.arg.ecc = .clean ∧ s.arg.flag = false ∧
    ∀ die line, s.lineHeld die line = false

/-- Command `k` of resident block `b` is in flight, its turn to operate has come, and no block is over. -/
structure InFlight (s : State) (k : Cmd) (b : Blk) : Prop where
  cmd : s.cmd? s.arg.a = some k
  blk : s.blkOf k.adm = some (blkKey k.core k.bctx, b) ∧ s.blk? k.core k.bctx = some b ∧ b.stat = .resident
  flying : k.inFlight = true ∧ k.sent = false ∧ k.finished = false ∧ k.fail = none ∧ k.tagSite = none ∧ k.dt = none ∧ k.targets = []
  peers : k.asked = [] ∧ k.acks = [] ∧ k.nack = false
  turn : s.mayOp k.agent 0 0 = true ∧ s.replaying = false
  none : NoneOver s

end Sys2Proof.Rules

/-- R64, R214, R235 (derived).  ENGINE_SEGMENT_ADMIT of a copy whose release has completed and whose turn in its queue has come, and that
the damper admits, puts it in flight and marks its source tile read; of a COLL it hands the collective to an engine, with its first
segment admitted. -/
def Obligations.EnginesAdmit : Prop :=
  ∀ (s : State) (k : Cmd) (key : Nat) (b : Blk), s.cmd? s.arg.a = some k → s.blkOf k.adm = some (key, b) → k.finished = false →
    k.started = false → k.inFlight = false → s.cmdReady k b = true → s.cmdTurn k b = true →
    let gone := { k with started := true, inFlight := true, opened := false }
    ((∀ w x, k.op ≠ .coll w x) → s.recd.halted = false → s.cmdAdmits k b = true →
      s.islandDown (clusterIsland (k.core / 8)) = false →
      (∀ n, k.st = some n → (s.tile k.core (b.tileIx n)).st = 2 ∨ k.id ∈ (s.tile k.core (b.tileIx n)).readers) →
      ∃ u, exec .engineSegmentAdmit s = .next u ∧ u.cmd? k.id = some gone ∧
        (∀ n, k.st = some n → k.id ∈ (u.tile k.core (b.tileIx n)).readers) ∧
        u = { s with cmds := u.cmds, cores := u.cores }) ∧
    (∀ w x, k.op = .coll w x → s.admitsColl s.collEngine none k.opened = true → ∃ u c, exec .engineSegmentAdmit s = .next u ∧
      u.cmd? k.id = some gone ∧ u.colls = s.colls ++ [c] ∧
      c.id = s.nextId ∧ c.engine = s.collEngine ∧ c.ctx = k.ctx ∧ c.desc = k.sa ∧ c.cmd = some k.id ∧ c.since = s.tick ∧
      c.held = true ∧ c.done = 0 ∧ u = { s with cmds := u.cmds, colls := u.colls, nextId := s.nextId + 1 })

/-- R213, R216, R411, R412 (derived).  ENGINE_SEGMENT_COMPLETE of a CPY or CPYFILL of one segment between ranges of HBM moves the bytes, or
repeats the pattern from the start of its destination, changes no other byte of memory, and ends the command. -/
def Obligations.CopiesMoveBytes : Prop :=
  ∀ (s : State) (k : Cmd) (b : Blk) (n ps pd : Nat), Rules.InFlight s k b → Rules.CalmMemory s k.ctx → k.done = 0 → 0 < n →
    n ≤ 65536 → n = cpyLen k.sb → Rules.Mapped s k b true k.sd n pd → inFifoWindow k.sd = false →
    let ends (u : State) : Prop := k.tl = none → ∀ q ∈ u.cmds, q.id ≠ k.id
    (∀ w x y, k.op = .cpy w x y → y.rest.getLsbD 0 = false → y.rest.getLsbD 1 = false → inFifoWindow k.sa = false →
      Rules.Mapped s k b false k.sa n ps → ps + n ≤ pd ∨ pd + n ≤ ps → ∃ u, exec .engineSegmentComplete s = .next u ∧ ends u ∧
        ∀ a, readByte u.mem.bytes a = if pd ≤ a ∧ a < pd + n then readByte s.mem.bytes (ps + (a - pd)) else readByte s.mem.bytes a) ∧
    (∀ w x y, k.op = .cpyfill w x y → ∃ u, exec .engineSegmentComplete s = .next u ∧ ends u ∧
      ∀ a, readByte u.mem.bytes a =
        if pd ≤ a ∧ a < pd + n then (leBytes 8 k.sa.toNat).getD ((a - pd) % 2 ^ (fld y.rest 0 2 : BitVec 2).toNat) 0
        else readByte s.mem.bytes a)

/-- R63, R424 (derived).  COLLECTIVE_COMPLETE of an all-reduce whose last segment has been sent, whose peers' descriptors agree and
whose peers' bytes have come, with its descriptor, peer list, source and destination in HBM, sets each element of DST that is left to
the contributions combined in ascending rank; the collective is over and its command ends. -/
def Sys2Proof.Rules.CollectivesCombine : Prop :=
  ∀ (s : State) (c : Coll) (k : Cmd) (b : Blk) (pt ps pd pl : Nat) (val : Nat → Nat → Nat),
    (s.colls.find? fun c => c.id == s.arg.a) = some c → c.held = true → c.cmd = some k.id → s.cmd? k.id = some k →
    s.blkOf k.adm = some (blkKey k.core k.bctx, b) → s.blk? k.core k.bctx = some b → b.stat = .resident → k.targets = [] →
    k.tagSite = none → k.fail = none → k.dt = none → NoneOver s → s.replaying = false → s.kindling = false →
    s.mayOp (collAgent c.engine) 0 0 = true → Rules.CalmMemory s k.ctx →
    c.desc.toNat % 8 = 0 → Rules.Mapped s k b false c.desc 64 pt →
    let d := collDesc (readBytes s.mem.bytes pt 64)
    let n := d.count * d.size
    let dev := fun q => BitVec.ofNat 16 (leNat (readBytes s.mem.bytes (pl + 2 * q) 2))
    d.ok = true → d.kind = 1 → d.win = false → Rules.Mapped s k b false d.src n ps → Rules.Mapped s k b true d.dst n pd →
    Rules.Mapped s k b false d.peers (2 * d.nranks) pl → dev d.rank = s.devid →
    (ps + n ≤ pd ∨ pd + n ≤ ps) → (pl + 2 * d.nranks ≤ pd ∨ pd + n ≤ pl) →
    c.done ≤ d.count → d.count ≤ c.done + d.perSeg → (d.msgs c.done d.count).length ≤ c.sent →
    (∀ q, q < d.nranks → q ≠ d.rank →
      (∃ bs z, s.links.part (dev q) d 0 64 = some (bs, z) ∧ (collDesc bs).key = d.key) ∧
      ∀ i, c.done ≤ i → i < d.count → ∃ bs, s.links.part (dev q) d (64 + i * d.size) d.size = some (bs, false) ∧
        val q i = leNat bs) →
    (∀ i, i < d.count → val d.rank i = leNat (readBytes s.mem.bytes (ps + i * d.size) d.size)) →
    ∃ u, exec .collectiveComplete s = .next u ∧ (∀ x ∈ u.colls, x.id ≠ c.id) ∧ (k.tl = none → ∀ q ∈ u.cmds, q.id ≠ k.id) ∧
      (∀ i j, c.done ≤ i → i < d.count → j < d.size → readByte u.mem.bytes (pd + i * d.size + j) =
        (leBytes d.size (d.fold ((List.range d.nranks).map fun q => val q i))).getD j 0) ∧
      ∀ a, a < pd + c.done * d.size ∨ pd + n ≤ a → readByte u.mem.bytes a = readByte s.mem.bytes a

/-- R410, R425 (derived).  COLLECTIVE_PEER_TIMEOUT of a collective that a peer's part has been missing from for 2^24 ticks ends it, with
FABRIC_ERROR, which CPYSTAT shows, or fails its node; before that it does nothing.  It is the model's choice (log entry 24) that a peer
whose part has not come and that has sent another, which shares GROUP alone or SEQ alone, makes the cause COLLECTIVE_MISMATCH then. -/
def Sys2Proof.Rules.CollectivesTimeOut : Prop :=
  ∀ (s : State) (c : Coll), (s.colls.find? fun c => c.id == s.arg.a) = some c →
    (c.lacks = false ∨ s.tick < c.since + 2 ^ 24 → exec .collectivePeerTimeout s = .next s) ∧
    (s.links.inbox = [] → s.lackCause c = .fabricError) ∧
    (∀ k b pt pl, c.cmd = some k.id → s.cmd? k.id = some k → s.blkOf k.adm = some (blkKey k.core k.bctx, b) → s.kindling = false →
      Rules.CalmMemory s k.ctx → c.desc.toNat % 8 = 0 → Rules.Mapped s k b false c.desc 64 pt →
      let d := collDesc (readBytes s.mem.bytes pt 64)
      let dev := fun q => BitVec.ofNat 16 (leNat (readBytes s.mem.bytes (pl + 2 * q) 2))
      d.ok = true → d.win = false → Rules.Mapped s k b false d.peers (2 * d.nranks) pl → dev d.rank = s.devid →
      ∀ q p, q < d.nranks → q ≠ d.rank → s.links.part (dev q) d 0 64 = none → p ∈ s.links.inbox → p.src = dev q →
        ((p.group.toNat = d.group ∧ p.seq.toNat ≠ d.seq) ∨ (p.group.toNat ≠ d.group ∧ p.seq.toNat = d.seq)) →
        s.lackCause c = .collectiveMismatch) ∧
    (c.lacks = true → c.since + 2 ^ 24 ≤ s.tick →
      (∀ k b t, c.cmd = some k.id → s.cmd? k.id = some k → s.blkOf k.adm = some (blkKey k.core k.bctx, b) →
        s.blk? k.core k.bctx = some b → b.adm = k.adm → b.stat = .resident → b.thr? k.w = some t → k.targets = [] →
        k.tagSite = none → NoneOver s → ∃ u t', exec .collectivePeerTimeout s = .next u ∧
          (∀ x ∈ u.colls, x.id ≠ c.id) ∧ u.thr? k.core k.bctx k.w = some t' ∧ t'.cpystat.getLsbD 0 = true ∧
          (fld t'.cpystat 16 6 : BitVec 6).toNat = (s.lackCause c).code ∧ (fld t'.cpystat 32 32 : Word) = k.lseq) ∧
      (∀ slot seq addr n, c.cmd = none → c.node = some (slot, seq, addr) → n ∈ s.stoker.nodes → n.slot = slot → n.seq = seq →
        n.addr = addr → n.failed = none → ∃ u, exec .collectivePeerTimeout s = .next u ∧ (∀ x ∈ u.colls, x.id ≠ c.id) ∧
          { n with done := n.done + 1, failed := some (s.lackCause c) } ∈ u.stoker.nodes))

/-- R421 (derived).  STAGE_DEADLOCK_DETECT of a block whose access stream waits for a stage and whose every warp has exited or waits
for what only the block's own copies or streams could bring, for 4,096 cycles in which no copy of it has completed a segment, ends the
access stream, which counts as exited, and every copy and collective of the block; without such a deadlock, or before, it does nothing.
The cycles count from the first tick at which that holds, and afresh after a tick at which it does not: the model's choice, as is the
event (log entry 38). -/
def Obligations.StageDeadlocksEnd : Prop :=
  ∀ (s : State) (b : Blk) (t : Thr), s.blk? s.arg.a s.arg.b = some b → b.thr? 33 = some t →
    (s.stageDeadlock s.arg.a s.arg.b b = false ∨ b.stuckSince = none ∨
      (∃ n, b.stuckSince = some n ∧ s.tick < n + s.stuckTicks s.arg.a) → exec .stageDeadlockDetect s = .next s) ∧
    (∀ n, t.lanes.length ≤ 32 → (s.blks.map fun p => p.1).Nodup → s.stageDeadlock s.arg.a s.arg.b b = true → b.stuckSince = some n →
      n + s.stuckTicks s.arg.a ≤ s.tick →
      ∃ u t', exec .stageDeadlockDetect s = .next u ∧ u.thr? s.arg.a s.arg.b 33 = some t' ∧ t'.exited = true ∧ t'.terminated = true ∧
        ∀ k ∈ u.cmds, k.core = s.arg.a → k.bctx = s.arg.b → k.adm = b.adm → k.finished = true) ∧
    (s.arg.b < 16 → ∃ b', s.markStuck.blk? s.arg.a s.arg.b = some b' ∧ b' = { b with stuckSince := b'.stuckSince } ∧
      b'.stuckSince = if b.stat = .resident ∧ s.stageDeadlock s.arg.a s.arg.b b = true then some (b.stuckSince.getD s.tick) else none)

/-! ### Links (R14 to R20, R34, R38, R88) -/

/-- R14, R15, R17, R38 (derived).  VILBIN_FLIT_RECEIVE puts a sound flit's message at the end of its channel, and asks for a replay of an
unsound one, the ninth in a row taking the port down; FLIT_REPLAY_REQUEST sends again from the flit asked for, in the port's slot once it
has ended, but after eight replays of one flit takes the port down; VC_STOP_GO stops or starts a channel; VILBIN_PORT_DOWN ends the port's requests with FABRIC_ERROR;
the fourth HBM_ALERT in a row for one command is a machine check. -/
def Sys2Proof.Rules.LinksCarry : Prop :=
  ∀ (s : State),
    let port := s.arg.a
    let vc := s.arg.b
    let p := s.links.ports.getD port VPort.reset
    (port < 24 → port < s.links.ports.length → vc < 4 → vc < p.vcs.length → p.st = 1 →
      (∀ m, s.arg.flag = true → s.arg.msg = some m → (s.chan port vc).buf.length < 32 →
        ∃ u, exec .vilbinFlitReceive s = .next u ∧ (u.chan port vc).buf = (s.chan port vc).buf ++ [m] ∧
          ((s.chan port vc).stopSent = false → 15 ≤ (s.chan port vc).buf.length → .stopGo port vc true ∈ u.outbox) ∧
          u = { s with links := u.links, outbox := u.outbox }) ∧
      (s.arg.flag = false → ∃ u, exec .vilbinFlitReceive s = .next u ∧ .replayRequest port ∈ u.outbox ∧
        (u.chan port vc).buf = (s.chan port vc).buf ∧ (p.rxFails = 8 → (.vilbinPortDown, { a := port }) ∈ u.inputs)) ∧
      (¬(p.replayFrom = s.arg.b ∧ 8 ≤ p.replayTries) → ∃ u, exec .flitReplayRequest s = .next u ∧ u.outbox = s.outbox ++
        (if s.linkDown port then []
          else (p.replayBuf.filter fun x => decide (s.arg.b ≤ x.1)).map fun x => .flit port (vcOf x.2.op) x.2) ∧
        (u.links.ports.getD port VPort.reset).replayDue = s.linkDown port ∧
        (u.links.ports.getD port VPort.reset).replayFrom = s.arg.b ∧
        (u.links.ports.getD port VPort.reset).replayTries = (if p.replayFrom = s.arg.b then p.replayTries else 0) + 1) ∧
      (p.replayFrom = s.arg.b → 8 ≤ p.replayTries → exec .flitReplayRequest s = exec .vilbinPortDown s) ∧
      ((∀ r ∈ s.reqs, r.stage ≠ .queued ∧ r.unsent = false) → ∃ u, exec .vcStopGo s = .next u ∧
        (u.chan port vc).stopped = s.arg.flag ∧ (u.chan port vc).credit = 8 ∧ u = { s with links := u.links }) ∧
      ((s.reqs.map fun q => q.id).Nodup → (∀ k ∈ s.cmds, s.onPort port k = false) → (∀ c ∈ s.colls, port ∉ c.ports) →
        ∃ u, exec .vilbinPortDown s = .next u ∧
          (u.links.ports.getD port VPort.reset).st = 2 ∧ (u.links.ports.getD port VPort.reset).downEv = true ∧
          ∀ r dev, r ∈ s.reqs → r.stage = .sent → r.home = .peer dev → s.portFor dev r.line = port →
            (∀ w ∈ s.links.windows, ∀ x ∈ w.2.pend, x.req ≠ r.id) →
            ∃ q ∈ u.reqs, q.id = r.id ∧ q.stage = .served ∧ q.err = some .fabricError)) ∧
    (s.arg.a < 12 →
      (ngetD s.mem.alerts s.arg.a 0 = 8 * s.arg.b + 3 → ∃ u x, exec .hbmAlert s = .next u ∧ u.inputs = s.inputs ++ [(.fatalReset, x)]) ∧
      (ngetD s.mem.alerts s.arg.a 0 / 8 ≠ s.arg.b → ∃ u, exec .hbmAlert s = .next u ∧ u.inputs = s.inputs ∧
        ngetD u.mem.alerts s.arg.a 0 = 8 * s.arg.b + 1))

/-- R16, R88 (derived).  INBOUND_MESSAGE of a load or store of mapped bytes takes effect at this device and answers its sender over the
port; PEER_RESPONSE_RECEIVE gives a lane of a request the data of its answer, or FABRIC_ERROR. -/
def Obligations.PeersAreServed : Prop :=
  ∀ (s : State) (m : PeerMsg),
    let port := s.arg.a
    let e := s.ctlEng m.ctx (portAgent port)
    (s.arg.b = 0 → s.nextMsg port 0 = some m → s.kindling = false → s.mayOp (portAgent port) 0 0 = true → s.maySend port 1 = true →
      s.replaying = false → Rules.CalmMemory s m.ctx →
      (∀ va n pa, m.op = .load va n → isWindow va = false → 0 < n → va.toNat % n = 0 → Rules.Mapped s e.k e.b false va n pa →
        ∃ u x, exec .inboundMessage s = .next u ∧ .flit port 1 x ∈ u.outbox ∧ x.tag = m.tag ∧
          x.op = .answer (readBytes s.mem.bytes pa n) false false ∧ ∀ a, readByte u.mem.bytes a = readByte s.mem.bytes a) ∧
      (∀ va d pa, m.op = .store va d → isWindow va = false → 0 < d.length → va.toNat % d.length = 0 →
        Rules.Mapped s e.k e.b true va d.length pa → ∃ u x, exec .inboundMessage s = .next u ∧ .flit port 1 x ∈ u.outbox ∧
          x.tag = m.tag ∧ x.op = .answer [] false false ∧
          ∀ a, readByte u.mem.bytes a = if pa ≤ a ∧ a < pa + d.length then d.getD (a - pa) 0 else readByte s.mem.bytes a)) ∧
    (∀ data fail bad r o, s.nextMsg port 1 = some m → m.op = .answer data fail bad → s.mayOp (portAgent port) 0 0 = true →
      s.linkDown port = false →
      s.replaying = false → s.req? (m.tag / 32) = some r → r.stage = .sent → r.ops = [o] → o.lane = m.tag % 32 → r.got = [] →
      (fail = false → r.sgn = false → ∃ u, exec .peerResponseReceive s = .next u ∧ u.req? r.id = some { r with
        stage := .served, got := if r.dst = .none then [] else [(o.lane, BitVec.ofNat 128 (leNat data))] }) ∧
      (fail = true → ∃ u q, exec .peerResponseReceive s = .next u ∧ q ∈ u.reqs ∧ q.ops = [o] ∧ q.stage = .served ∧
        q.err = some .fabricError ∧ q.dst = r.dst))

/-- R15, R18 to R20 (derived).  WINDOW_MERGED_RESULT takes the switches' result of a round from virtual channel 3: on a source it ends
the contributions of the round, with FABRIC_ERROR where the round failed, and at a home it applies the value as one
read-modify-write and answers; WINDOW_ROUND_TIMEOUT ends them with FABRIC_ERROR 2^24 ticks after the device's own contribution and
not before; WINDOW_OPEN_ACK opens the window, ends its command with COLLECTIVE_MISMATCH, or tells a closing home that no round of it
is left. -/
def Sys2Proof.Rules.WindowsReduce : Prop :=
  ∀ (s : State) (slot : Nat) (w : Window), nget s.links.windows slot = some w →
    let n := w.desc.size
    let finishes (u : State) (elem round : Nat) (err : Option Cause) : Prop :=
      ∀ p r, p ∈ w.pend → p.elem = elem → p.round = round → s.req? p.req = some r → r.err = none → r.ops.length ≤ r.sentN →
        (∀ q ∈ w.pend, q.req = p.req → q = p) → u.req? p.req = some { r with
          stage := .served, err := err, bad := if err.isSome then r.bad ||| laneBit p.lane else r.bad }
    (∀ (m : PeerMsg) (home : BitVec 16) (winid : Word) (elem round size : Nat) (val : DWord) (fail : Bool),
      s.nextMsg s.arg.a 3 = some m → m.op = .merged home winid elem round size val fail →
      s.windowOf home winid elem round size = some (slot, w) → s.kindling = false → s.linkDown s.arg.a = false →
      s.mayOp (portAgent s.arg.a) 0 0 = true → s.replaying = false →
      (w.desc.role = 2 ∨ fail = true → ∃ u, exec .windowMergedResult s = .next u ∧
        finishes u elem round (if fail then some .fabricError else none) ∧ u.mem = s.mem) ∧
      (∀ pa, w.desc.role ≠ 2 → fail = false → w.desc.order = false → s.maySend s.arg.a 1 = true → Rules.CalmMemory s w.ctx →
        let va := w.desc.base + BitVec.ofNat 64 (n * elem)
        let e := s.ctlEng w.ctx (portAgent (s.portFor s.devid elem))
        isWindow va = false → Rules.Mapped s e.k e.b false va n pa → Rules.Mapped s e.k e.b true va n pa →
        ∃ u, exec .windowMergedResult s = .next u ∧ finishes u elem round none ∧
          (∃ x, .flit s.arg.a 1 x ∈ u.outbox ∧ x.tag = m.tag ∧ x.op = .answer [] false false) ∧ ∀ a, readByte u.mem.bytes a =
            if pa ≤ a ∧ a < pa + n then
              (leBytes n (atomNew w.desc.aop n (leNat (readBytes s.mem.bytes pa n)) val.toNat)).getD (a - pa) 0
            else readByte s.mem.bytes a)) ∧
    (s.arg.a = slot → w.isOpen = true → s.arg.c = ngetD w.merged s.arg.b 0 →
      ((∀ p ∈ w.pend, p.elem = s.arg.b → p.round = s.arg.c → p.tick + 2 ^ 24 ≤ s.tick) → w.openAt + 2 ^ 24 ≤ s.tick →
        ∃ u, exec .windowRoundTimeout s = .next u ∧ finishes u s.arg.b s.arg.c (some .fabricError) ∧ u.mem = s.mem) ∧
      (∀ p ∈ w.pend, p.elem = s.arg.b → p.round = s.arg.c → s.tick < p.tick + 2 ^ 24 → exec .windowRoundTimeout s = .next s)) ∧
    (s.arg.a = slot →
      let ended (u : State) (f : Option Cause) : Prop :=
        ∀ h ∈ s.host.cmds, h.slot = w.slot → h.seq = w.seq → { h with stage := .finished f } ∈ u.host.cmds
      (w.isOpen = false → s.arg.flag = true → ∃ u, exec .windowOpenAck s = .next u ∧ nget u.links.windows slot = none ∧
        ended u (some .collectiveMismatch)) ∧
      (w.isOpen = false → s.arg.flag = false → ∃ u, exec .windowOpenAck s = .next u ∧
        nget u.links.windows slot = some { w with isOpen := true, openAt := s.tick } ∧ ended u none) ∧
      (w.isOpen = true → w.closing = true → s.arg.flag2 = true → ∃ u, exec .windowOpenAck s = .next u ∧
        nget u.links.windows slot = some { w with drained := true } ∧ u = { s with links := u.links }))

/-! ### Resets, bring-up and the calendar (R22, R28 to R35, R54 to R65, R92, R93) -/

/-- R28 (derived).  POWER_ON, COLD_RESET and FATAL_RESET leave nothing in flight and every register they reset at its reset value, the
fatal one at stage 5 with the tick running on; RESETCTL_WARM and MANAGEMENT_WARM_RESET keep memory where no command was incomplete,
and the firmware unless its digest no longer verifies, and disable every context and slot, at stage 1.  It is the model's choice that
the capacity tier keeps its bytes over a reset (log entry 1), and what beside R27's and R28's words a warm and a fatal reset keep, the
calendar, the tick and registers (log entry 22). -/
def Obligations.ResetsApply : Prop :=
  ∀ (s : State),
    let idle (u : State) : Prop := u.blks = [] ∧ u.reqs = [] ∧ u.cmds = [] ∧ u.mcmds = [] ∧ u.rels = [] ∧ u.colls = [] ∧
      u.host.cmds = [] ∧ u.recd.mode = 0 ∧ u.xl.tlb = []
    (∀ op, op = .powerOn ∨ op = .coldReset → ∃ u, exec op s = .next u ∧ idle u ∧ u.dev.stage = 0 ∧ u.tick = 0 ∧
      u.cal = State.reset.cal ∧ u.recd = State.reset.recd ∧ u.host = State.reset.host) ∧
    (∃ u, exec .coldReset s = .next u ∧ ∀ a, isCapacity a = true → readByte u.mem.bytes a = readByte s.mem.bytes a) ∧
    (∃ u, exec .fatalReset s = .next u ∧ idle u ∧ u.dev.stage = 5 ∧ u.tick = s.tick ∧ u.cal.cur = s.cal.cur) ∧
    (∀ op, op = .resetctlWarm ∨ op = .managementWarmReset → ∃ u, exec op s = .next u ∧ idle u ∧ u.dev.stage = 1 ∧ u.tick = s.tick ∧
      u.dev.fw = (if s.arg.flag2 then none else s.dev.fw) ∧ (∀ c, (u.ctx c).en = false) ∧ (∀ k, (u.slot k).en = false) ∧
      (s.host.cmds = [] → ∀ a, readByte u.mem.bytes a = readByte s.mem.bytes a))

/-- R22, R23, R29 to R35, R92, R93 (derived).  The stages of bring-up: BOOT_ROM_START from tick 2,000,000, HOST_LINK_UP, a firmware
delivery begun by FWCTL_GO and judged by FIRMWARE_CHECK_DONE, KINDLING_MODE_ENTER with cluster 0 and the ports held, and
FULL_SERVICE_ENTER at a frame boundary, once every unit has trained; POWER_LIMIT_CROSSED throttles, clears, or resets a die at 110
degrees.  It is the model's choice that firmware may be delivered at any stage and what a delivery does at each (log entry 32), and
that after a fatal reset a delivery at stage 5 brings the device to Kindling (log entry 22). -/
def Obligations.BringUp : Prop :=
  ∀ (s : State),
    (s.dev.stage = 0 → 2000000 ≤ s.tick → exec .bootRomStart s = .next { s with dev := { s.dev with stage := 1 } }) ∧
    (s.arg.a = 0 → s.dev.stage = 1 → s.dev.fw = none → s.arg.b = 4 ∨ s.arg.b = 8 ∨ s.arg.b = 16 → s.dev.hostWidth.length = 2 →
      ∃ u, exec .hostLinkUp s = .next u ∧ u.dev.stage = 2 ∧ u.dev.hostWidth.getD 0 0 = s.arg.b) ∧
    (s.dev.fwBusy = false → ∃ u, exec .fwctlGo s = .next u ∧ u.dev.fwBusy = true ∧
      u.outbox = s.outbox ++ [.hostRead 0 s.dev.fwAddr.toNat s.dev.fwLen.toNat 0]) ∧
    (s.dev.fwBusy = true →
      (s.arg.img = none → ∃ u, exec .firmwareCheckDone s = .next u ∧ u.dev.fwBusy = false ∧ u.dev.fwResult = 2 ∧ u.dev.fwReason = 6 ∧
        u.dev.fw = s.dev.fw) ∧
      (∀ img, s.arg.img = some img → s.dev.fwLen.toNat ≤ img.length →
        fwReasonOf (img.take s.dev.fwLen.toNat) s.dev.fwLen.toNat = 0 → s.dev.stage = 2 ∨ s.dev.stage = 5 →
        ∃ u f, exec .firmwareCheckDone s = .next u ∧ u.dev.fwBusy = false ∧ u.dev.fwResult = 1 ∧ u.dev.fwReason = 0 ∧
          u.dev.fw = some f ∧ f.version = BitVec.ofNat 32 (imgNat (img.take s.dev.fwLen.toNat) 4 4))) ∧
    (s.dev.fw.isSome = true → s.dev.stage = 2 ∨ s.dev.stage = 5 → ∃ u, exec .kindlingModeEnter s = .next u ∧ u.dev.stage = 3 ∧
      u.dev.clusterUp = 1 ∧ u.dev.hearth1Up = false ∧ ∀ p ∈ u.links.ports, p.st = 3) ∧
    (s.dev.stage = 3 → s.cal.nextStart ≤ s.tick → s.cal.frameOver = true →
      (allTrained s.arg.up = true → ∃ u, exec .fullServiceEnter s = .next u ∧ u.dev.stage = 4 ∧ u.dev.clusterUp = 0xFFFFFF ∧
        u.dev.stackUp = 0xFFF ∧ u.dev.hearth1Up = true ∧ u.cal.frame = s.cal.nextNumber ∧
        ∀ p, p < s.links.ports.length → p < 24 →
          (u.links.ports.getD p VPort.reset).st = if s.arg.up.ports.getLsbD p then 1 else 0) ∧
      (allTrained s.arg.up = false → ∃ u, exec .fullServiceEnter s = .next u ∧ u.dev.stage = 3)) ∧
    (s.dev.stage = 3 → s.tick < s.cal.nextStart → exec .fullServiceEnter s = .next s) ∧
    (s.arg.power = .over → ∃ u, exec .powerLimitCrossed s = .next u ∧ u.dev.overLimit = true ∧ u.dev.throttle = true) ∧
    (s.arg.power = .clear → ∃ u, exec .powerLimitCrossed s = .next u ∧ u.dev.overLimit = false ∧ u.dev.clearSince = s.tick ∧
      u.dev.throttle = s.dev.throttle) ∧
    (s.arg.power = .die110 → ∃ u, exec .powerLimitCrossed s = .next u ∧ u.dev.stage = 5 ∧ u.blks = [])

/-- R54, R57 to R59, R62, R65 (derived).  FRAME_BOUNDARY begins the next frame, and puts a pending calendar in force when its frame has
come; CALCTL_COMMIT starts a validation, and CALENDAR_VALIDATION_DONE answers its reason or keeps the staged calendar as the next
one; SLOT_START_TEST begins a slot nothing holds for its length, or postpones it 64 ticks while its give lasts; SLOT_END ends it;
POD_TIMESTAMP_EXCHANGE measures the reference's offset. -/
def Obligations.CalendarRuns : Prop :=
  ∀ (s : State),
    (s.cal.nextStart ≤ s.tick → s.cal.frameOver = true → ∃ u, exec .frameBoundary s = .next u ∧ u.cal.frame = s.cal.nextNumber ∧
      u.cal.frameStart = s.cal.nextStart ∧ u.cal.slots = [] ∧ u.cal.started = [] ∧
      (s.cal.next = none → u.cal.cur = s.cal.cur) ∧
      (∀ c, s.cal.next = some c → s.cal.nextFrame.toNat ≤ s.cal.nextNumber.toNat →
        u.cal.cur = c ∧ u.cal.gen = s.cal.nextGen ∧ u.cal.next = none)) ∧
    (s.arg.v.getLsbD 0 = true → ∃ u, exec .calctlCommit s = .next u ∧ u.cal.busy = true ∧ u.cal.count = fld s.arg.v 16 9 ∧
      u = { s with cal := u.cal }) ∧
    (s.cal.busy = true →
      (∀ r i, s.calReason s.staged = some (r, i) → ∃ u, exec .calendarValidationDone s = .next u ∧ u.cal.busy = false ∧
        u.cal.result = 2 ∧ u.cal.reason = BitVec.ofNat 4 r ∧ u.cal.cur = s.cal.cur ∧ u.cal.next = s.cal.next) ∧
      (s.calReason s.staged = none → ∃ u, exec .calendarValidationDone s = .next u ∧ u.cal.busy = false ∧ u.cal.result = 1 ∧
        u.cal.reason = 0 ∧ u.cal.cur = s.cal.cur ∧ u.cal.next = some s.staged ∧ u.cal.nextGen = s.cal.gen + 1)) ∧
    (∀ e, s.cal.cur.entries[s.arg.a]? = some e → s.arg.a ∉ s.cal.started → (∀ r ∈ s.cal.slots, r.entry ≠ s.arg.a) →
      s.cal.frameStart + 64 * entStart e ≤ s.tick →
      (s.cmdHolders e = [] → s.kilnHolders e = [] → ∃ u, exec .slotStartTest s = .next u ∧ s.arg.a ∈ u.cal.started ∧
        ∃ r ∈ u.cal.slots, r.entry = s.arg.a ∧ r.running = true ∧ r.untilTick = s.tick + 64 * entLen e) ∧
      (s.cmdHolders e ≠ [] ∨ s.kilnHolders e ≠ [] → 0 < kindGive (entKind e) → ∃ u, exec .slotStartTest s = .next u ∧
        u = { s with cal := u.cal } ∧ ∃ r ∈ u.cal.slots, r.entry = s.arg.a ∧ r.running = false ∧ r.postponed = 1 ∧
          r.due = s.cal.frameStart + 64 * entStart e + 64)) ∧
    (∀ r, (s.cal.slots.find? fun r => r.entry == s.arg.a && r.running) = some r → r.untilTick ≤ s.tick →
      ∃ u, exec .slotEnd s = .next u ∧ u.cal.slots = s.cal.slots.filter (fun x => x.entry != r.entry)) ∧
    (s.cal.alignEn = true → s.cal.podRef = false → s.arg.a < 24 →
      s.slotNow (fun e => entKind e == 1 && (entLinks e).getLsbD s.arg.a) = true → ∃ u, exec .podTimestampExchange s = .next u ∧
        u.cal.podOffset = centred ((s.tick : Int) - ((s.arg.v.toNat : Int) - (s.arg.v3.toNat : Int)) - (s.cal.frameStart : Int)) ∧
        u = { s with cal := u.cal })

/-! ### The host, contexts and registers (R4, R46, R48, R66 to R72, R83 to R94, R122, R150, R151) -/

namespace Sys2Proof.Rules

/-- What a kill leaves (R69): the context is disabled, KILLED with its cause, its kill not complete, and it holds no block. -/
def Killed (u : State) (c code : Nat) : Prop :=
  (u.ctx c).en = false ∧ (u.ctx c).killed = true ∧ (u.ctx c).killing = true ∧ (u.ctx c).cause.toNat = code ∧
    ∀ p ∈ u.blks, p.2.info.ctx ≠ c

/-- No request waits to leave its core, in whole or in part. -/
def NoQueue (s : State) : Prop := ∀ r ∈ s.reqs, r.stage ≠ .queued ∧ r.unsent = false

/-- R24, R66, R71, R91, R249 (derived).  HOST_MEMORY_ACCESS answers a read with the bytes of its pieces, writes a write's data at its
home, does an AtomicOp there and returns what it found, and refuses what is not memory or not an access the device takes, and CXL.mem
to the capacity tier; a read of
a slot's kick page returns its TAIL.  HOST_SNOOP gives up a line the device holds. -/
def HostAccesses : Prop :=
  ∀ (s : State),
    let x := s.arg.host
    (x.way ≠ .bar4 → s.arg.flag2 = false → s.arg.ecc = .clean → s.recd.mode = 0 → s.recd.halted = false → s.mem.partials = [] →
      (hostValid x (s.hostPa x) = false ∨ s.hostPieces (s.hostPa x) x.bytes 0 x.bytes = none →
        exec .hostMemoryAccess s = .next (s.emit .hostUr)) ∧
      (∀ l, s.hostPieces (s.hostPa x) x.bytes 0 x.bytes = some l → x.way = .cxlMem → (∃ p ∈ l, isCapacity p.a = true) →
        exec .hostMemoryAccess s = .next (s.emit .hostUr)) ∧
      (∀ l, hostValid x (s.hostPa x) = true → s.hostPieces (s.hostPa x) x.bytes 0 x.bytes = some l →
        s.piecesOpen (s.arg.a % 2) l = true → (∀ p ∈ l, lineIsCap (lineOf p.a) = false) →
        (x.atom = none → x.write = false → ∃ u, exec .hostMemoryAccess s = .next u ∧
          u.outbox = s.outbox ++ [.hostData (l.any fun p => s.poisoned (lineOf p.a))
            (l.flatMap fun p => readBytes s.mem.bytes p.a p.n)] ∧ u.mem.bytes = s.mem.bytes) ∧
        (∀ p, l = [p] → p.off = 0 → p.n = x.bytes → inCalPage p.a = false → s.poisoned (lineOf p.a) = false →
          (x.atom = none → x.write = true → x.data.length = x.bytes →
            ∃ u, exec .hostMemoryAccess s = .next u ∧ ∀ a, readByte u.mem.bytes a =
              if p.a ≤ a ∧ a < p.a + p.n then x.data.getD (a - p.a) 0 else readByte s.mem.bytes a) ∧
          (∀ k, x.atom = some k → x.data.length = (if k = .cas then 2 * x.bytes else x.bytes) →
            let old := readBytes s.mem.bytes p.a p.n
            ∃ u, exec .hostMemoryAccess s = .next u ∧ u.outbox = s.outbox ++ [.hostData false old] ∧
              ∀ a, readByte u.mem.bytes a =
                if p.a ≤ a ∧ a < p.a + p.n then (hostAtomicResult k x.bytes old x.data).getD (a - p.a) 0
                else readByte s.mem.bytes a)))) ∧
    (x.way = .bar4 → s.arg.flag2 = false → x.off < 0x100000 → x.atom = none → x.write = false → exec .hostMemoryAccess s =
      .next (s.emit (.hostData false (leBytes x.bytes (s.slot (x.off / 4096)).tail.toNat)))) ∧
    (∀ d, nget s.mem.hostDirty (hostLine s.arg.a s.arg.b) = some d → ∃ u, exec .hostSnoop s = .next u ∧
      nget u.mem.hostDirty (hostLine s.arg.a s.arg.b) = none ∧ u.outbox = s.outbox ++ [.hostSnoop d.isEmpty d] ∧
      ∀ a, readByte u.mem.bytes a = readByte s.mem.bytes a)

/-- R89, R91, R274 (derived).  HOST_LINK_COMPLETION of a cached request keeps the line and lets the request go on; of a load it gives
each lane its bytes; a failing one ends the request, or of an atomic its lane, with IO_ERROR, a prefetch without.  HOST_ATOMIC_CAS_ATTEMPT ends the last
lane on a match, tries again after a mismatch, and after 64 ends that lane with HOST_ATOMIC_RETRY, those before it keeping theirs. -/
def HostCompletions : Prop :=
  ∀ (s : State) (r : Req) (link : Nat), s.req? s.arg.a = some r → r.home = .host link → r.stage = .sent → s.recd.mode = 0 →
    let laneFails (u : State) (o : LaneOp) (k : Cause) : Prop := ∃ q, u.req? r.id = some q ∧ q.stage = .served ∧ q.err = some k ∧
      q.bad = laneBit o.lane ∧ q.ops = r.ops ∧ (r.dst ≠ .none → ∀ g ∈ r.got, g.1 ≠ o.lane → g ∈ q.got)
    (∀ data, s.arg.reply = .ok data → s.hostCached r link = true → data.length = 128 →
      ∃ u, exec .hostLinkCompletion s = .next u ∧ nget u.mem.hostDirty (hostLine link r.line) = some data ∧
        u.req? r.id = some { r with stage := .accepted }) ∧
    (∀ data, s.arg.reply = .ok data → s.hostCached r link = false → r.kind = .load → data.length = r.span.2 - r.span.1 →
      ∃ u, exec .hostLinkCompletion s = .next u ∧ u.req? r.id = some { r with
        stage := .served, got := r.ops.map fun o => (o.lane, r.extend (leNat ((data.drop (o.addr - r.span.1)).take r.size))) }) ∧
    ((∀ data, s.arg.reply ≠ .ok data) →
      (r.kind = .pref → ∃ u, exec .hostLinkCompletion s = .next u ∧ u.req? r.id = some { r with stage := .served }) ∧
      (r.kind ≠ .pref → r.kind.isAtomic = false ∨ s.hostCached r link = true → ∃ u, exec .hostLinkCompletion s = .next u ∧
        u.req? r.id = some { r with stage := .served, err := some .ioError }) ∧
      (∀ o, r.kind.isAtomic = true → s.hostCached r link = false → r.ops.drop r.got.length = [o] → r.err = none → r.bad = 0 →
        ∃ u, exec .hostLinkCompletion s = .next u ∧ laneFails u o .ioError)) ∧
    (∀ o, r.ops.drop r.got.length = [o] → s.hostCached r link = false → s.hostPath link r.uc r.kind r.size = some 3 → r.bad = 0 →
      (s.arg.q = o.cmp → ∃ u, exec .hostAtomicCasAttempt s = .next u ∧ u.req? r.id = some { r with
        stage := .served, got := if r.dst = .none then [] else r.got ++ [(o.lane, s.arg.q)], tries := 0 }) ∧
      (s.arg.q ≠ o.cmp → r.tries < 64 → ∃ u, exec .hostAtomicCasAttempt s = .next u ∧
        u.req? r.id = some { r with tries := r.tries + 1 } ∧ u.outbox = s.outbox ++ [.hostRead link o.addr r.size r.id]) ∧
      (s.arg.q ≠ o.cmp → 64 ≤ r.tries → r.err = none → ∃ u, exec .hostAtomicCasAttempt s = .next u ∧
        laneFails u o .hostAtomicRetry))

/-- R82, R83, R87 (derived).  ATS_COMPLETION fills the TLBs that wait with what was granted, asks for a page that was denied, or waits
while no more page requests may be out, and with PRI off writes a fault record; PRI_RESPONSE asks again or writes a fault record;
TRANSLATION_WALK_COMPLETE fills the TLBs or writes a fault record. -/
def TranslationsArrive : Prop :=
  ∀ (s : State) (k : Walk),
    let filled (u : State) (l : Leaf) : Prop := (∀ w ∈ u.xl.walks, w.id ≠ k.id) ∧ ∀ n ∈ k.tlbs, ∀ m, m = n ∨ m = tlbBehind n →
      { tlb := m, ctx := k.ctx, page := k.page, ats := if k.ats then some k.priv else none, leaf := l } ∈ u.xl.tlb
    let faulted (u : State) : Prop := (∀ w ∈ u.xl.walks, w.id ≠ k.id) ∧ ∃ f ∈ u.xl.faults, f.ctx = k.ctx ∧ f.page = k.page
    let link := (s.ctx k.ctx).link.toNat
    ((s.xl.walks.find? fun w => w.id == s.arg.a && w.ats && !w.pri && !w.denied) = some k →
      (∀ page r w, s.arg.ats = .granted page r w → grantAllows k.kind r w = true →
        ∃ u, exec .atsCompletion s = .next u ∧ filled u (atsLeaf page r w) ∧ u = { s with xl := u.xl }) ∧
      (s.arg.ats = .denied ∨ (∃ page r w, s.arg.ats = .granted page r w ∧ grantAllows k.kind r w = false) →
        (s.dev.priOff.getLsbD link = false → s.priRoom link = true →
          ∃ u, exec .atsCompletion s = .next u ∧ { k with pri := true, denied := false } ∈ u.xl.walks ∧
            u.outbox = s.outbox ++ [.priRequest link (s.ctx k.ctx).pasid k.page k.id]) ∧
        (s.dev.priOff.getLsbD link = false → s.priRoom link = false →
          ∃ u, exec .atsCompletion s = .next u ∧ { k with denied := true } ∈ u.xl.walks ∧ u.outbox = s.outbox) ∧
        (s.dev.priOff.getLsbD link = true → ∃ u, exec .atsCompletion s = .next u ∧ faulted u))) ∧
    ((s.xl.walks.find? fun w => w.id == s.arg.a && w.pri) = some k → (∀ w ∈ s.xl.walks, w.denied = false) →
      (s.arg.pri = .success → ∃ u, exec .priResponse s = .next u ∧ { k with pri := false } ∈ u.xl.walks ∧
        u.outbox = s.outbox ++ [.atsRequest link (s.ctx k.ctx).pasid k.page k.id k.priv]) ∧
      (s.arg.pri = .invalidRequest → ∃ u, exec .priResponse s = .next u ∧ faulted u ∧ u.dev = s.dev) ∧
      (s.arg.pri = .responseFailure → ∃ u, exec .priResponse s = .next u ∧ faulted u ∧
        u.dev.priOff = s.dev.priOff ||| 1 <<< link)) ∧
    ((s.xl.walks.find? fun w => w.id == s.arg.a && !w.ats) = some k →
      (∀ t l, walk s k.die s.arg.b k.ctx k.va = (t, .leaf l) → ∃ u, exec .translationWalkComplete s = .next u ∧ filled u l) ∧
      (∀ t m, walk s k.die s.arg.b k.ctx k.va = (t, .miss m) → ∃ u, exec .translationWalkComplete s = .next u ∧ faulted u) ∧
      (∀ t, walk s k.die s.arg.b k.ctx k.va = (t, .wait) → exec .translationWalkComplete s = .next s))

/-- R86, R87, R94 (derived).  ATS_INVALIDATION_REQUEST of a PASID no context uses is answered at once; otherwise the translations of
its pages go in every context that uses it, and an invalidation is begun there.  CTXINVAL_ALL discards a context's translations;
INVALIDATION_COMPLETE tells whoever waits.  MANAGEMENT_SPDM_REQUEST opens and closes a session, and keys a link inside one. -/
def InvalidationsAndSessions : Prop :=
  ∀ (s : State),
    let uses (c : Nat) : Prop := (s.ctx c).svm = true ∧ (s.ctx c).link.toNat = s.arg.a % 2 ∧ (s.ctx c).pasid.toNat = s.arg.v.toNat
    (((∀ c, c < 64 → ¬uses c) → exec .atsInvalidationRequest s = .next (s.emit (.atsInvalDone (s.arg.a % 2)))) ∧
      (∀ c, c < 64 → uses c → 0 < s.arg.v3.toNat → ∃ u, exec .atsInvalidationRequest s = .next u ∧
        (∃ k ∈ u.xl.invals, k.ctx = c ∧ k.ats.isSome = true) ∧ ∀ e ∈ u.xl.tlb, e.ctx = c →
          e.page < pageOf s.arg.v2 ∨ (untag s.arg.v2 + s.arg.v3.toNat - 1) / 4096 < e.page)) ∧
    (s.arg.a < 64 → ∃ u, exec .ctxinvalAll s = .next u ∧ (u.ctx s.arg.a).invalBusy = true ∧ (∀ e ∈ u.xl.tlb, e.ctx ≠ s.arg.a) ∧
      ∃ k ∈ u.xl.invals, k.ctx = s.arg.a ∧ k.byCtx = true) ∧
    (∀ k, (s.xl.invals.find? fun x => x.id == s.arg.a) = some k → s.invalDone k = true → ∃ u, exec .invalidationComplete s = .next u ∧
      (∀ x ∈ u.xl.invals, x.id ≠ k.id) ∧
      (k.byCtx = true → (∀ x ∈ s.xl.invals, x.id ≠ k.id → x.byCtx = false ∨ x.ctx ≠ k.ctx) → (u.ctx k.ctx).invalBusy = false) ∧
      (∀ who, k.ats = some who → (∀ x ∈ s.xl.invals, x.id ≠ k.id → x.ats ≠ some who) →
        u.outbox = s.outbox ++ [.atsInvalDone (who % 2)]) ∧
      ∀ h ∈ s.host.cmds, h.inval = some k.id → ∃ j ∈ u.host.cmds, j.slot = h.slot ∧ j.seq = h.seq ∧ j.stage = .finished none) ∧
    ((s.arg.spdm = .keyExchange → ∃ u, exec .managementSpdmRequest s = .next u ∧ u.dev.spdmSession = true) ∧
      (s.arg.spdm = .endSession → ∃ u, exec .managementSpdmRequest s = .next u ∧ u.dev.spdmSession = false) ∧
      (∀ link set, s.arg.spdm = .keyManagement link set → link < 2 →
        (s.dev.spdmSession = false → exec .managementSpdmRequest s = .next (s.emit .spdmError)) ∧
        (s.dev.spdmSession = true → ∃ u, exec .managementSpdmRequest s = .next u ∧ u.dev.ideKeys.getLsbD link = set)))

/-- R4, R33, R46, R48, R122, R123 (derived).  REGISTER_WRITE keeps the low bits reserved of a base register zero, clears W1C bits and
leaves ASHBASE and CKBASE alone while MODE is not 0; NUNTAOK_REQUEST is refused outside a secured session and otherwise reads or
writes.  MEMCFG_CACHE_WRITE starts a change where nothing runs and is REFUSED where something does; MEMCFG_CHANGE_DONE ends it. -/
def RegistersReadAndWrite : Prop :=
  ∀ (s : State),
    let v := s.arg.v
    (s.arg.space = .bar0 →
      (∀ off n, (off, n) ∈ [(0x400, 12), (0x508, 12), (0x510, 0), (0x708, 12), (0x800, 12), (0xA08, 30)] → s.arg.a = off →
        ∃ u, exec .registerWrite s = .next u ∧ ∀ i, (u.readBar0 off).getLsbD i = (v.getLsbD i && decide (n ≤ i))) ∧
      (s.arg.a = 0x100 → ∃ u, exec .registerWrite s = .next u ∧ u.dev.fwFail = (s.dev.fwFail && !v.getLsbD 3))) ∧
    (s.arg.space = .nuntaok → ∀ off n, (off, n) ∈ [(0x08, 21), (0x20, 12), (0xC0, 12), (0x100, 12)] → s.arg.a = off →
      (s.recd.mode = 0 ∨ 0xC0 ≤ off → ∃ u, exec .registerWrite s = .next u ∧
        ∀ i, (u.readNuntaok off).getLsbD i = (v.getLsbD i && decide (n ≤ i))) ∧
      (s.recd.mode ≠ 0 → off < 0xC0 → exec .registerWrite s = .next s)) ∧
    ((s.arg.flag = false ∨ s.dev.spdmSession = false → exec .nuntaokRequest s = .next (s.emit .regRefused)) ∧
      (s.arg.flag = true → s.dev.spdmSession = true →
        (s.arg.flag2 = true → exec .nuntaokRequest s = .next (s.writeNuntaok s.arg.a v)) ∧
        (s.arg.flag2 = false → exec .nuntaokRequest s = .next (s.emit (.reg (s.readNuntaok s.arg.a)))))) ∧
    (v.getLsbD 0 = !s.mem.cacheReq → s.kindling = false →
      (s.blks = [] → s.cmds = [] → s.colls = [] → s.mem.cacheBusy = false → s.areasDirect = true →
        ∃ u, exec .memcfgCacheWrite s = .next u ∧ u.mem.cacheReq = v.getLsbD 0 ∧ u.mem.cacheBusy = true ∧
          u.mem.cacheOn = s.mem.cacheOn ∧ u = { s with mem := u.mem }) ∧
      (s.blks ≠ [] → ∃ u, exec .memcfgCacheWrite s = .next u ∧ u.mem.refused = true ∧ u.mem.cacheReq = s.mem.cacheReq ∧
        u.mem.cacheBusy = s.mem.cacheBusy)) ∧
    (s.mem.cacheBusy = true → NoQueue s → ∃ u, exec .memcfgChangeDone s = .next u ∧ u.mem.cacheBusy = false ∧
      u.mem.cacheOn = s.mem.cacheReq ∧ u.mem.sets = [] ∧
      ∀ a, hbmBytes ≤ a ∨ a % stackBytes < directBytes → readByte u.mem.bytes a = readByte s.mem.bytes a)

/-- R68, R69, R83, R84 (derived).  Kills: CTXCTL.KILL, clearing EN of an active context, a CTXRESUME that kills, CONTEXT_KILL and
WATCHDOG_EXPIRY disable the context with their cause; KILL_COMPLETE ends a kill once no access is in flight.  Setting EN enables a
context that is not being killed, without translations; CTXROOT keeps its value while EN is 1; a retry clears the page's fault. -/
def ContextsChange : Prop :=
  ∀ (s : State),
    let c := s.arg.a
    let v := s.arg.v
    (c < 64 → (s.ctx c).killing = false →
      (v.getLsbD 34 = true → ∃ u, exec .ctxctlKill s = .next u ∧ Killed u c Cause.contextKilled.code) ∧
      ((s.ctx c).en = true → v.getLsbD 0 = false → v.getLsbD 34 = false →
        (s.ctxActive c = true → ∃ u, exec .ctxctlEnClear s = .next u ∧ Killed u c Cause.contextKilled.code) ∧
        (s.ctxActive c = false → ∃ u, exec .ctxctlEnClear s = .next u ∧
          u.ctx c = { s.ctx c with en := false, prio := fld v 1 3, weight := fld v 4 8 })) ∧
      ((s.ctx c).en = false → v.getLsbD 0 = true → v.getLsbD 34 = false → ∃ u, exec .ctxctlEnSet s = .next u ∧
        u.ctx c = { s.ctx c with
          en := true, prio := fld v 1 3, weight := fld v 4 8, link := v.getLsbD 12, svm := v.getLsbD 13, pasid := fld v 14 20 } ∧
        ∀ e ∈ u.xl.tlb, e.ctx ≠ c) ∧
      (∃ u, exec .contextKill s = .next u ∧ Killed u c (Cause.ofCode v.toNat).code) ∧
      (∀ f, (s.xl.faults.find? fun f => f.ctx == c && f.written && f.fseq == fld v 0 32) = some f →
        ∃ u, exec .ctxresumeKill s = .next u ∧ Killed u c Cause.contextKilled.code)) ∧
    (c < 64 →
      ((s.ctx c).en = false → ∃ u, exec .ctxrootWrite s = .next u ∧ (∀ e ∈ u.xl.tlb, e.ctx ≠ c) ∧
        ∀ i, (u.ctx c).root.getLsbD i = (v.getLsbD i && decide (12 ≤ i))) ∧
      ((s.ctx c).en = true → exec .ctxrootWrite s = .next s) ∧
      (∀ f, (s.xl.faults.find? fun f => f.ctx == c && f.written && f.fseq == fld v 0 32) = some f → NoQueue s →
        ∃ u, exec .ctxresumeRetry s = .next u ∧ (∀ g ∈ u.xl.faults, g.ctx = c → g.page ≠ f.page) ∧ u.blks = s.blks)) ∧
    (∀ b, s.blk? s.arg.a s.arg.b = some b → (s.ctx b.info.ctx).killing = false → (s.ctx b.info.ctx).wdog.toNat ≠ 0 →
      (s.ctx b.info.ctx).wdog.toNat * 1024 < b.wdog →
      ∃ u, exec .watchdogExpiry s = .next u ∧ Killed u b.info.ctx Cause.watchdog.code) ∧
    ((s.ctx c).killing = true → (∀ r ∈ s.reqs, r.ctx ≠ c) → NoQueue s → ∃ u, exec .killComplete s = .next u ∧
      (u.ctx c).killing = false ∧ (u.ctx c).killed = (s.ctx c).killed)

/-- R70 to R72, R150, R151 (derived).  SQCTL_EN_SET enables a queue slot with HEAD and TAIL at 0, or at what replay loaded, unless its
context already has 16; KICK_WRITE takes a new TAIL that fits, and a kick that does not is a BADKICK.  STEPCTL's HALT, STEP and RUN
act on the block it names, and STEP_DONE gives the step's cause. -/
def SlotsAndSteps : Prop :=
  ∀ (s : State),
    let v := s.arg.v
    (s.arg.a < 256 → (s.slot s.arg.a).en = false → v.getLsbD 0 = true → ∃ u, exec .sqctlEnSet s = .next u ∧
      (s.enabledSlots (fld v 6 6 : BitVec 6).toNat < 16 → (u.slot s.arg.a).en = true ∧
        (u.slot s.arg.a).head = ((s.slot s.arg.a).loaded.getD (0, 0)).1 ∧ (u.slot s.arg.a).tail = ((s.slot s.arg.a).loaded.getD (0, 0)).2 ∧
        (u.slot s.arg.a).size = fld v 1 4 ∧ (u.slot s.arg.a).loc = v.getLsbD 5 ∧ (u.slot s.arg.a).ctx = fld v 6 6) ∧
      (16 ≤ s.enabledSlots (fld v 6 6 : BitVec 6).toNat → (u.slot s.arg.a).en = false)) ∧
    (∀ (n : Nat) (q : QSlot) (tail : Word), n = s.arg.a / 4096 → q = s.slot n → tail = fld v 0 32 →
      n < 256 → s.arg.a % 4096 = 0 → s.arg.b = 4 →
        (q.en = true → (tail - q.head).toNat ≤ q.ring → ∃ u, exec .kickWrite s = .next u ∧
          u.slot n = { q with tail := tail, kick := true }) ∧
        (q.en = false ∨ q.ring < (tail - q.head).toNat → ∃ u, exec .kickWrite s = .next u ∧ u.slot n = { q with badKick := true })) ∧
    (∀ b, s.blk? (fld v 0 8 : BitVec 8).toNat (fld v 8 4 : BitVec 4).toNat = some b →
      let at' (u : State) : Option Blk := u.blk? (fld v 0 8 : BitVec 8).toNat (fld v 8 4 : BitVec 4).toNat
      (v.getLsbD 23 = true → v.getLsbD 24 = false → v.getLsbD 33 = false →
        ∃ u, exec .stepctlHalt s = .next u ∧ at' u = some { b with halted := true }) ∧
      (v.getLsbD 23 = false → v.getLsbD 24 = false → v.getLsbD 33 = true →
        ∃ u, exec .stepctlRun s = .next u ∧ at' u = some { b with halted := false, stepping := false } ∧ u.stepctl.active = false) ∧
      (∀ t, v.getLsbD 23 = false → v.getLsbD 24 = true → v.getLsbD 33 = false → b.halted = true →
        b.thr? (fld v 12 5 : BitVec 5).toNat = some t → ∃ u b', exec .stepctlStep s = .next u ∧ at' u = some b' ∧ b'.stepping = true ∧
          b'.halted = true ∧ u.stepctl.active = true ∧ u.stepctl.done = false)) ∧
    (s.stepctl.active = true → s.stepctl.todo = [] → s.stepDrained = true →
      ∀ t, s.thr? s.stepctl.core.toNat s.stepctl.bctx.toNat s.stepctl.warp.toNat = some t → t.handling = none → t.trapQ = [] →
      ∃ u, exec .stepDone s = .next u ∧ u.stepctl.done = true ∧ u.stepctl.active = false ∧
        u.stepctl.cause.toNat = if s.stepctl.blocked then 0 else Cause.singleStep.code)

end Sys2Proof.Rules

/-- R24, R66, R71, R82, R83, R87, R89, R91, R249, R274 (derived). What the host's accesses, completions, translations and page responses do.
It is the model's choice that a denied walk waits while no more page requests may be out (log entry 42), that a grant not allowing the
access kind is a denial, and how a translation refused with PRI off is recorded (log entry 35). -/
def Obligations.HostAndTranslation : Prop := Sys2Proof.Rules.HostAccesses ∧ Sys2Proof.Rules.HostCompletions ∧ Sys2Proof.Rules.TranslationsArrive

/-- R4, R33, R46, R48, R68 to R72, R83, R84, R86, R87, R94, R122, R123, R150, R151 (derived). What writes of the device's
registers do.  It is the model's choice that a refused MEMCFG write keeps CACHE, and that a change while a block is admitted or one is
under way is REFUSED (log entry 36). -/
def Obligations.RegistersAct : Prop :=
  Sys2Proof.Rules.InvalidationsAndSessions ∧ Sys2Proof.Rules.RegistersReadAndWrite ∧ Sys2Proof.Rules.ContextsChange ∧
    Sys2Proof.Rules.SlotsAndSteps

/-! ### Host commands, graphs and gangs (R20, R71 to R76, R95 to R121, R286 to R294) -/

namespace Sys2Proof.Rules

/-- The device-owned words of a node's record, 16 bytes at home byte `pa`, can be written at once (R97). -/
def RecordAt (s : State) (n : ArmNode) (pa : Nat) : Prop :=
  CalmMemory s n.ctx ∧ s.replaying = false ∧ n.addr.toNat % 256 = 0 ∧ isWindow n.addr = false ∧
    Mapped s (s.ctlEng n.ctx stokerAgent).k (s.ctlEng n.ctx stokerAgent).b true (n.addr + 0xF0) 16 pa

/-- The record of a node can be written at once. -/
def RecordOpen (s : State) (n : ArmNode) : Prop := ∃ pa, RecordAt s n pa

/-- A host command has ended with the outcome `f`. -/
def Ended (u : State) (h : HCmd) (f : Option Cause) : Prop :=
  ∃ j ∈ u.host.cmds, j.slot = h.slot ∧ j.seq = h.seq ∧ j.stage = .finished f

/-- R71, R73, R74 (derived).  QUEUE_ENTRY_EXAMINE of the entry at HEAD: an entry whose SEQ is not HEAD waits for another kick; one with
a bad field is rejected; any other is accepted as a command; either way HEAD moves on.  COMMAND_COMPLETE removes a finished command. -/
def EntriesAreTaken : Prop :=
  ∀ (s : State),
    (s.arg.a < 256 → s.serves (s.slot s.arg.a) = true → ∀ t bs, s.readEntry (s.slot s.arg.a) = .bytes t bs →
      ((qEntry bs).seq ≠ (s.slot s.arg.a).head → ∃ u, exec .queueEntryExamine s = .next u ∧ (u.slot s.arg.a).waitSeq = true ∧
        (u.slot s.arg.a).kick = false ∧ (u.slot s.arg.a).head = (s.slot s.arg.a).head ∧ u.host.cmds = s.host.cmds) ∧
      (∀ r, (qEntry bs).seq = (s.slot s.arg.a).head → (qEntry bs).bad (s.slot s.arg.a).ctx.toNat = some r →
        ∃ u, exec .queueEntryExamine s = .next u ∧ (u.slot s.arg.a).head = (s.slot s.arg.a).head + 1 ∧ u.host.cmds = s.host.cmds) ∧
      ((qEntry bs).seq = (s.slot s.arg.a).head → (qEntry bs).bad (s.slot s.arg.a).ctx.toNat = none →
        ∃ u h, exec .queueEntryExamine s = .next u ∧ (u.slot s.arg.a).head = (s.slot s.arg.a).head + 1 ∧
          u.host.cmds = s.host.cmds ++ [h] ∧ h.slot = s.arg.a ∧ h.seq = (qEntry bs).seq ∧ h.opc.toNat = (qEntry bs).opc ∧
          h.a0 = (qEntry bs).a0 ∧ h.a1 = (qEntry bs).a1 ∧ h.ctx = (s.slot s.arg.a).ctx.toNat ∧
          (s.kindling = false → h.stage = .accepted))) ∧
    (∀ h f, s.hcmd? s.arg.a (s.arg.v.setWidth 32) = some h → h.stage = .finished f → s.ctrlRuns = true → ∃ u, exec .commandComplete s = .next u ∧
      (∀ k ∈ u.host.cmds, ¬(k.slot = h.slot ∧ k.seq = h.seq)) ∧ ∀ n ∈ u.stoker.nodes, ¬(n.slot = h.slot ∧ n.seq = h.seq))

/-- R20, R73, R86 (derived).  TLSIGNAL raises its timeline; TLWAIT ends once its timeline is reached and MARKER stores its eight bytes;
INVTLB begins an invalidation; WINOPEN asks for the window's opening and WINCLOSE gives a window of its context up, at a home once
the switches hold no round of it. -/
def HostCommandsAct : Prop :=
  ∀ (s : State) (h : HCmd),
    (s.cmdTurn? 2 true = some h → s.mayOp stokerAgent 0 0 = true → s.islandDown syncIsland = false → ∃ u, exec .tlsignal s = .next u ∧ Ended u h none ∧
      u.timeline h.a0.toNat = if (s.timeline h.a0.toNat).toNat < h.a1.toNat then h.a1 else s.timeline h.a0.toNat) ∧
    (s.cmdTurn? 3 false = some h → s.mayOp stokerAgent 0 0 = true → s.islandDown syncIsland = false →
      (h.a1.toNat ≤ (s.timeline h.a0.toNat).toNat → ∃ u, exec .hostTlwait s = .next u ∧ Ended u h none) ∧
      ((s.timeline h.a0.toNat).toNat < h.a1.toNat → exec .hostTlwait s = .next s)) ∧
    (∀ pa, s.cmdTurn? 4 true = some h → s.mayOp stokerAgent 0 0 = true → s.replaying = false → CalmMemory s h.ctx →
      h.a0.toNat % 8 = 0 → isWindow h.a0 = false → Mapped s (s.ctlEng h.ctx stokerAgent).k (s.ctlEng h.ctx stokerAgent).b true h.a0 8 pa →
      ∃ u, exec .marker s = .next u ∧ Ended u h none ∧ ∀ a, readByte u.mem.bytes a =
        if pa ≤ a ∧ a < pa + 8 then (leBytes 8 h.a1.toNat).getD (a - pa) 0 else readByte s.mem.bytes a) ∧
    (s.cmdTurn? 5 false = some h → ∃ u k, exec .invtlb s = .next u ∧ k ∈ u.xl.invals ∧ k.ctx = h.ctx ∧ k.base = untag h.a0 ∧
      k.bytes = h.a1.toNat ∧ { h with stage := .dispatched, inval := some k.id } ∈ u.host.cmds ∧
      ∀ e ∈ u.xl.tlb, e.ctx = h.ctx → h.a1 ≠ 0 ∧ (e.page < pageOf h.a0 ∨ (untag h.a0 + h.a1.toNat - 1) / 4096 < e.page)) ∧
    (s.cmdTurn? 6 true = some h →
      (s.kindling = true → ∃ u, exec .winopen s = .next u ∧ Ended u h (some .kindlingUnavailable)) ∧
      (∀ t bs u devs, s.kindling = false → s.ctlQuiet h.ctx stokerAgent h.site (ctlRead h.a0 64) 4 = .ok t bs → winZeros bs = true →
        (winDesc bs).ok = true → t.ctlQuiet h.ctx stokerAgent h.site (ctlRead (winDesc bs).srcs (2 * (winDesc bs).nsrc)) 8 = .ok u devs →
        (winDesc bs).role = 2 → leNat ((devs.drop (2 * (winDesc bs).rank)).take 2) = s.devid.toNat → u.devid = s.devid →
        nget u.links.windows h.a1.toNat = none → h ∈ u.host.cmds →
        ∃ v w, exec .winopen s = .next v ∧ nget v.links.windows h.a1.toNat = some w ∧ w.ctx = h.ctx ∧ w.desc = winDesc bs ∧
          w.isOpen = false ∧ v.outbox = u.outbox ++ [.winOpen (winDesc bs).homeDev (winDesc bs).winid] ∧
          { h with stage := .dispatched } ∈ v.host.cmds)) ∧
    (s.cmdTurn? 7 true = some h →
      (∀ w, nget s.links.windows h.a0.toNat = some w → w.ctx = h.ctx → w.desc.role.getLsbD 0 = false ∨ w.drained = true →
        (w.pend = [] → w.isOpen = true →
          ∃ u, exec .winclose s = .next u ∧ nget u.links.windows h.a0.toNat = none ∧ Ended u h none) ∧
        (w.pend ≠ [] → exec .winclose s = .next s)) ∧
      (∀ w, nget s.links.windows h.a0.toNat = some w → w.ctx = h.ctx → w.desc.role.getLsbD 0 = true → w.drained = false →
        (w.closing = false → ∃ u, exec .winclose s = .next u ∧ nget u.links.windows h.a0.toNat = some { w with closing := true } ∧
          u.outbox = s.outbox ++ [.winClose w.desc.homeDev w.desc.winid] ∧ u.host = s.host) ∧
        (w.closing = true → exec .winclose s = .next s)) ∧
      (nget s.links.windows h.a0.toNat = none → ∃ u, exec .winclose s = .next u ∧ Ended u h none))

/-- R97, R99, R100 (derived).  RUNGRAPH arms every node its armed set reaches: those without predecessors are READY, the others
WAITING with their predecessor counts; a set that breaks a condition fails the command with the condition's cause and arms nothing. -/
def GraphsAreArmed : Prop :=
  ∀ (s : State) (h : HCmd) (t : State) (l : List Byte), s.cmdTurn? 1 false = some h → s.recd.ckBusy = false →
    s.ctlQuiet h.ctx stokerAgent (stokerSite h.slot h.seq h.a0) (ctlRead h.a0 (8 * h.a1.toNat)) 20 = .ok t l →
    ∀ u ns, State.readNodes h (2 ^ 37) (dwordsOf h.a1.toNat l) [] t = .nodes u ns → h ∈ u.host.cmds →
      (∀ c, u.armFault h ns = some c → ∃ v, exec .rungraph s = .next v ∧ Ended v h (some c) ∧ v.stoker = u.stoker) ∧
      (u.armFault h ns = none → (∀ n ∈ ns, n.slot = h.slot ∧ n.seq = h.seq ∧ n.ctx = h.ctx ∧ RecordOpen u n) →
        (ns.map fun n => n.addr).Nodup → ∃ v, exec .rungraph s = .next v ∧ { h with stage := .dispatched } ∈ v.host.cmds ∧
          ∀ n ∈ ns, ∃ m ∈ v.stoker.nodes, m.slot = h.slot ∧ m.seq = h.seq ∧ m.addr = n.addr ∧ m.words = n.words ∧
            m.predLive = n.predInit ∧ m.launches = n.launches ∧ m.state = if n.predInit = 0 then 2 else 1)

/-- R97, R101 to R103, R119 (derived).  NODE_COMPLETION_REPORT enters a node that has run in the completion queue; FORWARDING_STEP
notifies the next successor, which becomes READY or SKIPPED with its last predecessor; NODE_RETIRE writes again the words of a
node that owes them, and else retires the node, raises its timeline, and ends the command with its last node. -/
def NodesComplete : Prop :=
  ∀ (s : State) (n : ArmNode),
    (s.argNode = some n → s.cqFull = false →
      (∀ how rest, n.outs = how :: rest → ∃ u, exec .nodeCompletionReport s = .next u ∧ { n with outs := rest } ∈ u.stoker.nodes ∧
        u.stoker.cq = s.stoker.cq ++ [{ slot := n.slot, seq := n.seq, addr := n.addr, how := how, cursor := 0 }]) ∧
      (n.outs = [] → n.executed = true → n.failed = none → ∃ u, exec .nodeCompletionReport s = .next u ∧
        { n with stored := true } ∈ u.stoker.nodes ∧
        u.stoker.cq = s.stoker.cq ++ [{ slot := n.slot, seq := n.seq, addr := n.addr, how := .live, cursor := 0 }])) ∧
    (∀ e rest a live m, s.stoker.cq = e :: rest → s.stoker.forwarding = true → s.islandDown stokerIsland = false → s.node? e.slot e.addr = some n → n.seq = e.seq →
      n.state ≠ 6 → n.state ≠ 7 → (notices n e.how)[e.cursor]? = some (a, live) → s.node? n.slot a = some m → m.fault = none →
      m.kind ≠ 5 → m.state = 1 → m.owe = false → RecordOpen s m → NoneOver s → (∀ c ∈ s.colls, c.ended = false) →
      ∃ u m', exec .forwardingStep s = .next u ∧ m' ∈ u.stoker.nodes ∧ m'.slot = m.slot ∧ m'.seq = m.seq ∧ m'.addr = m.addr ∧
        m'.predLive = m.predLive - 1 ∧ m'.liveIn = (m.liveIn || live) ∧
        m'.state = (if 1 < m.predLive then 1 else if m.liveIn || live then 2 else 5) ∧
        (e.cursor + 1 < (notices n e.how).length → u.stoker.cq = { e with cursor := e.cursor + 1 } :: rest ∧
          u.stoker.retireQ = s.stoker.retireQ) ∧
        ((notices n e.how).length ≤ e.cursor + 1 → u.stoker.cq = rest ∧ u.stoker.retireQ = s.stoker.retireQ ++ [e])) ∧
    ((s.stoker.nodes.find? fun n => n.owe && n.fault.isNone) = some n → s.ctrlRuns = true → RecordOpen s n →
      (∃ m ∈ s.stoker.nodes, m.slot = n.slot ∧ m.seq = n.seq ∧ m.addr ≠ n.addr ∧ m.closed = false) →
      (∀ h, s.hcmd? n.slot n.seq = some h → h.stage = .dispatched) →
      ∃ u, exec .nodeRetire s = .next u ∧ { n with owe := false } ∈ u.stoker.nodes ∧ u.stoker.retireQ = s.stoker.retireQ) ∧
    (∀ e rest, s.stoker.retireQ = e :: rest → s.node? e.slot e.addr = some n → (e.how = .live ∨ e.how = .skip) → n.seq = e.seq →
      (∀ m ∈ s.stoker.nodes, m.owe = false) →
      n.closed = false → n.fault = none → s.ctrlRuns = true → s.mayOp stokerAgent 0 0 = true → s.islandDown syncIsland = false →
      RecordOpen s n →
      ((∃ m ∈ s.stoker.nodes, m.slot = n.slot ∧ m.seq = n.seq ∧ m.addr ≠ n.addr ∧ m.closed = false) →
        (∀ h, s.hcmd? n.slot n.seq = some h → h.stage = .dispatched) →
        ∃ u, exec .nodeRetire s = .next u ∧ u.stoker.retireQ = rest ∧
          { n with state := if e.how = .skip then 5 else 4, closed := true } ∈ u.stoker.nodes ∧
          (n.sigtl = true → u.timeline n.tl = if (s.timeline n.tl).toNat < n.tlVal.toNat then n.tlVal else s.timeline n.tl) ∧
          (n.sigtl = false → u.tls = s.tls)) ∧
      (∀ h, (∀ m ∈ s.stoker.nodes, m.slot = n.slot → m.seq = n.seq → m.addr = n.addr ∨ m.closed = true) →
        s.hcmd? n.slot n.seq = some h → h.opc = 1 → h.stage = .dispatched →
        ∃ u, exec .nodeRetire s = .next u ∧ ∀ k ∈ u.host.cmds, ¬(k.slot = n.slot ∧ k.seq = n.seq)))

/-- R104 to R106, R117, R118 (derived).  The nodes that the control core runs.  COND_EVALUATE reads its predicate and chooses a side;
LOOP_NODE_TEST starts another iteration or leaves the loop; SIGNAL_NODE raises its timeline, WAIT_NODE completes once its timeline
is reached, HOSTCALL_NODE stores its mailbox first; taking a node up counts a launch in its record.  NODE_PRELOAD fetches the next
segment of a pre-load that the damper admits. -/
def ControlNodesRun : Prop :=
  ∀ (s : State) (n : ArmNode), s.replaying = false →
    (∀ pa, s.ccNode 4 = some n → n.state = 3 → CalmMemory s n.ctx → n.predAddr.toNat % 8 = 0 → isWindow n.predAddr = false →
      Mapped s (s.ctlEng n.ctx stokerAgent).k (s.ctlEng n.ctx stokerAgent).b false n.predAddr 8 pa →
      ∃ u, exec .condEvaluate s = .next u ∧
        n.ran (.cond (leNat (readBytes s.mem.bytes pa 8) != 0)) ∈ u.stoker.nodes) ∧
    (s.ccNode 5 = some n → n.state = 3 → n.predAddr = 0 →
      (n.iter = 0 ∨ (n.backLeft = 0 ∧ ∀ m ∈ s.bodyNodes n, m.closed = true ∧ (m.state = 4 ∨ m.state = 5))) →
      ((n.iter = 0 ∨ n.backLive = true) → (n.loopMax = 0 ∨ n.iter ≠ n.loopMax) →
        (∀ m ∈ s.bodyNodes n, RecordOpen s m ∧ m.addr ≠ n.addr ∧ m.owe = false) →
        ∃ u, exec .loopNodeTest s = .next u ∧
          { n with iter := n.iter + 1, backLeft := n.backN, backLive := false, outs := [.body true] } ∈ u.stoker.nodes ∧
          ∀ m ∈ s.bodyNodes n, m.rearmed ∈ u.stoker.nodes) ∧
      ((0 < n.iter ∧ n.backLive = false) ∨ (n.loopMax ≠ 0 ∧ n.iter = n.loopMax) →
        ∃ u, exec .loopNodeTest s = .next u ∧ n.ran .live ∈ u.stoker.nodes)) ∧
    (∀ pa, s.ccNode 6 = some n → n.state = 2 → RecordAt s n pa → ∃ u m, exec .signalNode s = .next u ∧ m ∈ u.stoker.nodes ∧
      m.slot = n.slot ∧ m.addr = n.addr ∧ m.state = 3 ∧ m.launches = n.launches + 1 ∧ m.done = 1 ∧ m.outs = [.live] ∧
      (u.timeline n.tl = if (s.timeline n.tl).toNat < n.tlVal.toNat then n.tlVal else s.timeline n.tl) ∧
      ∀ a, readByte u.mem.bytes a =
        if pa ≤ a ∧ a < pa + 16 then m.owned.getD (a - pa) 0 else readByte s.mem.bytes a) ∧
    (s.ccNode 7 = some n → n.state = 3 →
      (n.tlVal.toNat ≤ (s.timeline n.tl).toNat → ∃ u, exec .waitNode s = .next u ∧ n.ran .live ∈ u.stoker.nodes) ∧
      ((s.timeline n.tl).toNat < n.tlVal.toNat → exec .waitNode s = .next s)) ∧
    (∀ pa, s.ccNode 8 = some n → n.state = 3 → n.stored = false → CalmMemory s n.ctx → n.param.toNat % 8 = 0 → isWindow n.param = false →
      Mapped s (s.ctlEng n.ctx stokerAgent).k (s.ctlEng n.ctx stokerAgent).b true n.param 8 pa →
      ∃ u m, exec .hostcallNode s = .next u ∧ m ∈ u.stoker.nodes ∧ m.slot = n.slot ∧ m.addr = n.addr ∧ m.stored = true ∧
        m.done = (if n.tlVal.toNat ≤ (s.timeline n.tl).toNat then 1 else n.done) ∧ ∀ a, readByte u.mem.bytes a =
          if pa ≤ a ∧ a < pa + 8 then (leBytes 4 n.nodeId.toNat ++ leBytes 4 n.launches.toNat).getD (a - pa) 0
          else readByte s.mem.bytes a) ∧
    (∀ va bytes, s.argNode = some n → n.preload = true → n.kind ≤ 2 → n.executed = false → n.state = 2 ∨ n.state = 3 →
      n.preloads[n.preloaded]? = some (va, bytes) →
      (s.preloadAdmits n va bytes = true → ∃ u, exec .nodePreload s = .next u ∧ u.mem.bytes = s.mem.bytes ∧
        { n with preloaded :=
            if (s.preloadLines n.pref n.ctx ((va.toNat % 128 + bytes + 127) / 128) (va >>> 7 <<< 7)).2 then n.preloaded + 1
            else n.preloads.length } ∈ u.stoker.nodes) ∧
      (s.preloadAdmits n va bytes = false → exec .nodePreload s = .next s))

/-- R108 to R113, R116, R118 (derived).  A dispatch of the node chosen: GANG_DISPATCH admits its next gang, a block in a free context of
each core chosen; COPY_NODE_DISPATCH starts its program in one block; COLL_NODE_DISPATCH gives it to a collective engine. -/
def NodesAreDispatched : Prop :=
  ∀ (s : State) (n : ArmNode), s.replaying = false → NoQueue s → (n.state = 3 ∨ RecordOpen s n) → n ∈ s.stoker.nodes →
    let placed (u : State) (sp : Spot) (st : BlkStat) : Prop :=
      (∃ g, u.stoker.gangs = s.stoker.gangs ++ [g] ∧ g.id = s.stoker.nextGang ∧ g.slot = n.slot ∧ g.seq = n.seq ∧ g.node = n.addr ∧
        g.index = n.placed ∧ g.cluster = sp.cluster) ∧
      (∀ r, r < sp.cores.length → ∃ x b, s.freeCtx (sp.cores.getD r 0) = some x ∧ u.blk? (sp.cores.getD r 0) x = some b ∧
        b.stat = st ∧ b.info.gangId = s.stoker.nextGang ∧ b.info.rank = r ∧ b.info.node = n.addr ∧ b.info.g = n.placed) ∧
      ∃ m ∈ u.stoker.nodes, m.slot = n.slot ∧ m.addr = n.addr ∧ m.state = 3 ∧ m.placed = n.placed + 1
    let free (sp : Spot) : Prop := sp.cores.Nodup ∧ ∀ c ∈ sp.cores, (s.freeCtx c).isSome = true
    (∀ sp d, s.banksBack = s → s.dispatchOpen s.stoker.kern = true → n.kind = 1 → free sp →
      s.choose s.stoker.kern ((s.readyNodes 1).filterMap fun n => (s.kernelSpot n).map fun x => (n, x)) = some (n, sp, d) →
      ∃ u, exec .gangDispatch s = .next u ∧ placed u sp .admitted) ∧
    (∀ sp d, s.dispatchOpen s.stoker.copy = true → n.kind = 2 → free sp →
      s.choose s.stoker.copy ((s.readyNodes 2).filterMap fun n => (s.copySpot n).map fun x => (n, x)) = some (n, sp, d) →
      ∃ u, exec .copyNodeDispatch s = .next u ∧ placed u sp .resident) ∧
    (∀ d, s.dispatchOpen s.stoker.coll = true → n.kind = 3 →
      s.choose s.stoker.coll ((s.readyNodes 3).filterMap fun n => some (n, s.collEngine)) = some (n, s.collEngine, d) →
      ∃ u k, exec .collNodeDispatch s = .next u ∧ u.colls = s.colls ++ [k] ∧ k.engine = s.collEngine ∧ k.ctx = n.ctx ∧
        k.desc = n.param ∧ k.node = some (n.slot, n.seq, n.addr) ∧
        ∃ m ∈ u.stoker.nodes, m.slot = n.slot ∧ m.addr = n.addr ∧ m.state = 3 ∧ m.placed = 1)

/-- R114, R115, R120, R121, R286, R293 (derived).  GANG_MAKE_RESIDENT starts the blocks of the next gang in order, or lets parked ones be
restored; BLOCK_PARK_COMPLETE parks a drained block, its gang giving up its residency with the last; BLOCK_RESTORE makes a restorable
block whose image matches resident, and kills the context of one whose image does not; CONTROL_CORE_TAKEOVER makes the standby
active with forwarding stopped, or without one resets the package, and then performs the steps of a take-over, after which every
enabled slot is kicked and forwarding goes on. -/
def GangsComeAndGo : Prop :=
  ∀ (s : State),
    (∀ g, s.recd.halted = false → s.mem.fencedCores = [] → s.mem.fencedBanks = [] → s.nextIn [] (s.waiters s.arg.a) = some g → (∀ m ∈ g.members, m.2 < 16) →
      ∃ u, exec .gangMakeResident s = .next u ∧ { g with resident := true, blockedAt := s.tick } ∈ u.stoker.gangs ∧
        ∀ m ∈ s.gangBlks g, u.blk? m.1 m.2.1 = some (if s.newGang g then
          { m.2.2 with stat := .resident, startAt := s.tick, wdogAt := s.tick } else { m.2.2 with stat := .restorable })) ∧
    (∀ b reason g, s.blk? s.arg.a s.arg.b = some b → s.parkWhy s.arg.a s.arg.b b = some reason →
      (s.stoker.gangs.find? fun g => g.id == b.info.gangId) = some g → s.drained b = true → s.replaying = false →
      (∀ p ∈ b.thrs, p.2.tagRec = none) →
      ∃ u b', exec .blockParkComplete s = .next u ∧ u.blk? s.arg.a s.arg.b = some b' ∧ b'.stat = .parked ∧ b'.thrs = b.thrs ∧
        ((∀ m ∈ s.gangBlks g, (m.1, m.2.1) ≠ (s.arg.a, s.arg.b) → m.2.2.stat = .parked) →
          { g with resident := false, since := s.tick } ∈ u.stoker.gangs)) ∧
    (∀ b, s.blk? s.arg.a s.arg.b = some b → b.info.isCopy = false → b.stat = .restorable → s.owed b = false → s.recd.halted = false →
      (s.imgMatches s.arg.a s.arg.b b.info = true → (s.ctx b.info.ctx).vec ≠ 0 →
        s.answered s.arg.a (s.imgBlk s.arg.a s.arg.b b) = true →
        (∀ p ∈ (s.imgBlk s.arg.a s.arg.b b).thrs, 32 ≤ p.1 → p.2.trapQ = []) →
        ∃ u b', exec .blockRestore s = .next u ∧ u.blk? s.arg.a s.arg.b = some b' ∧ b'.stat = .resident ∧ b'.svc = false ∧
          b'.info = b.info) ∧
      (s.imgMatches s.arg.a s.arg.b b.info = false → (s.ctx b.info.ctx).killing = false →
        ∃ u, exec .blockRestore s = .next u ∧ Killed u b.info.ctx Cause.contextKilled.code)) ∧
    (1 ≤ s.dev.stage.toNat → s.dev.stage.toNat ≤ 4 →
      (s.arg.b ≠ 1 → s.dev.standby = true → ∃ u, exec .controlCoreTakeover s = .next u ∧ u.dev.activeCore = 1 - s.dev.activeCore ∧
        u.dev.standby = false ∧ u.stoker.forwarding = false) ∧
      (s.arg.b ≠ 1 → s.dev.standby = false → ∃ u, exec .controlCoreTakeover s = .next u ∧ u.dev.stage = 5 ∧ u.blks = []) ∧
      (s.arg.b = 1 → s.stoker.forwarding = false → (s.repairSlots).isSome = true → ∃ u, exec .controlCoreTakeover s = .next u ∧
        u.stoker.forwarding = true ∧ u.dev = s.dev ∧ ∀ p ∈ u.host.slots, p.2.en = true → p.2.kick = true) ∧
      (s.arg.b = 1 → s.stoker.forwarding = true → exec .controlCoreTakeover s = .next s))

end Sys2Proof.Rules

/-- R20, R71, R73, R74, R86 (derived). How queue entries become commands, what the commands do, and how they
end.  It is the model's choice how WINCLOSE closes a window at its home: the switches are asked, and the command waits for their answer
(log entry 24). -/
def Obligations.CommandsAct : Prop := Sys2Proof.Rules.EntriesAreTaken ∧ Sys2Proof.Rules.HostCommandsAct

/-- R97, R99 to R106, R117 to R119 (derived). How a graph is armed, and how its nodes run, notify one
another and retire.  It is the model's choice that a node stays RUNNING until its NODE_RETIRE step (log entry 16), and how a pre-load
goes: in segments that the damper admits, to the first line that does not translate (log entry 43). -/
def Obligations.GraphsRun : Prop :=
  Sys2Proof.Rules.GraphsAreArmed ∧ Sys2Proof.Rules.NodesComplete ∧ Sys2Proof.Rules.ControlNodesRun

/-- R108 to R116, R118, R120, R121, R286, R293 (derived). How gangs are placed, made resident, parked and
restored.  It is the model's choice that a take-over of the control core is two events (log entry 37), and that a gang parks member by
member and gives up its residency with the last (log entry 14). -/
def Obligations.GangsAreScheduled : Prop := Sys2Proof.Rules.NodesAreDispatched ∧ Sys2Proof.Rules.GangsComeAndGo

/-! ### Recording, replay and the trace (R122 to R151) -/

namespace Sys2Proof.Rules

/-- R123, R138, R140, R144 (derived).  A write of RECCTL: MODE changes while no context is active and the areas are where they may be,
and MODEREF is set otherwise; CKREQ makes a checkpoint pending and RESUME ends a halt.  CHECKPOINT_COMPLETE takes the checkpoint once
no KERNEL, COPY or COLL node runs. -/
def ModesChange : Prop :=
  ∀ (s : State),
    let v := s.arg.v
    let idle : Prop := ∀ c, c < 64 → s.ctxActive c = false
    (fld v 0 2 = (0 : BitVec 2) → s.recd.mode ≠ 0 → NoQueue s →
      (idle → ∃ u, exec .recordModeOff s = .next u ∧ u.recd.mode = 0 ∧ u.recd.halted = false ∧ u.recd.modeRef = (s.recd.modeRef && !v.getLsbD 10)) ∧
      (¬idle → s.recd.diverged = false → ∃ u, exec .recordModeOff s = .next u ∧ u.recd.mode = s.recd.mode ∧ u.recd.modeRef = true)) ∧
    (fld v 0 2 = (1 : BitVec 2) → s.recd.mode = 0 → idle →
      (s.areasOk = true → ∃ u, exec .recordModeStart s = .next u ∧ u.recd.mode = 1 ∧ u.recd.ckSeq = 1 ∧
        u.recd.policy = v.getLsbD 2 ∧ u.recd.boundary = v.getLsbD 3 ∧ u.recd.devid = fld v 16 16) ∧
      (s.areasOk = false → ∃ u, exec .recordModeStart s = .next u ∧ u.recd.mode = 0 ∧ u.recd.modeRef = true)) ∧
    (fld v 0 2 = (2 : BitVec 2) → s.recd.mode = 0 → idle → s.areasOk = true → ∃ u, exec .replayModeStart s = .next u ∧
      u.recd.mode = 2 ∧ (∀ n, n < 1024 → u.timeline n = BitVec.ofNat 64 (s.ckWord (0x100000 + 8 * n) 8)) ∧
      ∀ n, n < 256 → (u.slot n).loaded = some (BitVec.ofNat 32 (s.ckWord (0x912000 + 8 * n) 4), BitVec.ofNat 32 (s.ckWord (0x912004 + 8 * n) 4))) ∧
    (fld v 0 2 = s.recd.mode → v.getLsbD 4 = true → ∃ u, exec .recctlCkreq s = .next u ∧ u.recd.ckBusy = true ∧
      u = { s with recd := u.recd }) ∧
    (fld v 0 2 = s.recd.mode → v.getLsbD 5 = true → NoQueue s → ∃ u, exec .recctlResume s = .next u ∧ u.recd.halted = false ∧
      u = { s with recd := u.recd }) ∧
    (s.recd.ckBusy = true → s.stoker.forwarding = true → (∀ n ∈ s.stoker.nodes, n.kind ≤ 3 → n.state ≠ 3 ∨ n.closed = true) →
      ∃ u, exec .checkpointComplete s = .next u ∧ u.recd.ckBusy = false ∧ u.recd.ckSeq = s.recd.ckSeq + 1 ∧
        u.recd.ckCur = !s.recd.ckCur)

/-- R127, R128, R130 (derived).  CHUNK_IDLE_CLOSE and CONFLICT_SIGNAL close an agent's open chunk, and its next one starts;
RECORDER_PAGE_WRITE writes a source's full pages at HEAD. -/
def ChunksAndPages : Prop :=
  ∀ (s : State), s.recording = true →
    let closed (u : State) : Prop := (u.agent s.arg.a).ops = 0 ∧ (u.agent s.arg.a).cseq = (s.agent s.arg.a).cseq + 1 ∧
      u = { s with recd := u.recd }
    (0 < (s.agent s.arg.a).ops → (s.agent s.arg.a).lastOp + 65536 ≤ s.tick → ∃ u, exec .chunkIdleClose s = .next u ∧ closed u) ∧
    (0 < (s.agent s.arg.a).ops → (s.agent s.arg.a).cseq = s.arg.v.toNat → ∃ u, exec .conflictSignal s = .next u ∧ closed u) ∧
    (∀ p, nget s.recd.pages s.arg.a = some p → p.full ≠ [] → s.recd.policy = false → NoQueue s →
      ∃ u, exec .recorderPageWrite s = .next u ∧ nget u.recd.pages s.arg.a = some { p with full := [] } ∧
        u.recd.ashHead.toNat = (s.recd.ashHead.toNat + p.full.length) % s.ashPages ∧ u = { s with mem := u.mem, recd := u.recd })

/-- R133, R142, R143 (derived).  REPLAY_STALL_TIMEOUT makes a replay without progress for 2^24 ticks diverge with reason 7; a message
due at a port, or a host write, is taken from its PAYLOAD record, and diverges with reason 6 where the log has none. -/
def ReplayGoesOn : Prop :=
  ∀ (s : State), s.replaying = true →
    let gone (u : State) (reason : Nat) : Prop :=
      u.recd.diverged = true ∧ u.recd.halted = true ∧ u.recd.divReason.toNat = reason ∧ u.mem = s.mem
    (s.recd.halted = false → s.logDone = false → s.recd.lastProgress + 2 ^ 24 ≤ s.tick →
      ∃ u, exec .replayStallTimeout s = .next u ∧ gone u 7) ∧
    (∀ e, s.arg.a < 24 → s.mayOp (portAgent s.arg.a) 0 0 = true → s.dueEntry s.arg.a = some e → s.inRepset (fld e 0 16) = true →
      (∀ vc, vc < 4 → s.nextMsg s.arg.a vc = none) → (s.agent (portAgent s.arg.a)).lastOp + 2 ^ 24 ≤ s.tick →
      (s.payloadOf (portAgent s.arg.a) (fld e 32 32 : BitVec 32).toNat (fld e 0 16 : BitVec 16).toNat = none →
        ∃ u, exec .replayMessageTimeout s = .next u ∧ gone u 6) ∧
      (∀ d m x r o, s.payloadOf (portAgent s.arg.a) (fld e 32 32 : BitVec 32).toNat (fld e 0 16 : BitVec 16).toNat = some d →
        s.arg.msg = some m → m.op = .answer x false false → x ≠ [] → m.entry 1 = e →
        s.req? (m.tag / 32) = some r → r.stage = .sent → r.ops = [o] → o.lane = m.tag % 32 → r.got = [] →
        r.sgn = false → ∃ u, exec .replayMessageTimeout s = .next u ∧ u.req? r.id = some { r with
          stage := .served, got := if r.dst = .none then [] else [(o.lane, BitVec.ofNat 128 (leNat d))] })) ∧
    (s.arg.a = hostAgent → s.mayOp hostAgent 0 0 = true →
      (s.payloadOf hostAgent s.recd.hostSeq.toNat 0xFFFF = none → ∃ u, exec .replayPayloadDelivery s = .next u ∧ gone u 6) ∧
      (∀ d p, s.payloadOf hostAgent s.recd.hostSeq.toNat 0xFFFF = some d →
        s.hostPieces (s.hostPa s.arg.host) d.length 0 d.length = some [p] → s.piecesOpen (s.arg.b % 2) [p] = true → p.off = 0 →
        p.n = d.length → inCalPage p.a = false → lineIsCap (lineOf p.a) = false → s.poisoned (lineOf p.a) = false →
        s.mem.partials = [] → s.arg.ecc = .clean →
        ∃ u, exec .replayPayloadDelivery s = .next u ∧ u.recd.hostSeq = s.recd.hostSeq + 1 ∧ ∀ a, readByte u.mem.bytes a =
          if p.a ≤ a ∧ a < p.a + d.length then d.getD (a - p.a) 0 else readByte s.mem.bytes a))

/-- R145 to R147 (derived).  TRACE_SERIES_LATCH writes the interval's records and starts the next; CRITICAL_PATH_SAMPLE writes the
samples; neither changes anything but the trace, the memory its pages are written to with its dirty bits, and the free values. -/
def TraceIsWritten : Prop :=
  ∀ (s : State),
    (s.latchDue = true → ∃ u, exec .traceSeriesLatch s = .next u ∧ u.trace.latchAt = s.tick + 1 ∧ u.trace.slot = [] ∧
      u = { s with trace := u.trace, mem := u.mem, recd := u.recd, fresh := s.fresh + 1 }) ∧
    (s.sampleDue = true → ∃ u, exec .criticalPathSample s = .next u ∧ u.trace.sampAt = s.tick + 1 ∧
      u = { s with trace := u.trace, mem := u.mem, recd := u.recd })

end Sys2Proof.Rules

/-- R123, R127, R128, R130, R133, R138, R140, R142 to R147 (derived). Recording, checkpoints, replay and the trace: what each of
their events does.  It is the model's choice that an operation at which replay diverges has not taken effect (log entry 19), and that
the event standing for a PAYLOAD write brings its address (log entry 11); what a series record counts of the device's timing is free
(log entry 2). -/
def Obligations.NuntaokRecordsAndReplays : Prop :=
  Sys2Proof.Rules.ModesChange ∧ Sys2Proof.Rules.ChunksAndPages ∧ Sys2Proof.Rules.ReplayGoesOn ∧ Sys2Proof.Rules.TraceIsWritten

/-! ### Encodings, steps, reset and invariants (R2, R4, R78, R118, R156, R169, R177, R178, R295 to R309) -/

/-- R295 to R309 (derived).  Decoding the words of a well-formed instruction in a clause of its class gives it back, whatever words
follow; NOP and REP decode so in every class. -/
def Obligations.EncodeThenDecode : Prop :=
  ∀ (i : Instr) (cls : Nat) (rest : List Word), i.wf = true → cls = i.cls ∨ (∃ z, i = .nop z) ∨ (∃ w, i = .rep w) →
    decode cls (encode i ++ rest) = .ok (i, (encode i).length)

/-- R295 to R309 (derived).  No bit of a word is dropped: whatever the decoder accepts encodes to the very words it was read from,
reserved fields included, and its opcode's class is the clause's. -/
def Obligations.DecodeThenEncode : Prop :=
  ∀ (cls : Nat) (ws : List Word) (i : Instr) (n : Nat), decodeRaw cls ws = .ok (i, n) →
    encode i = ws.take n ∧ n ≤ ws.length ∧ (cls = i.cls ∨ (∃ z, i = .nop z) ∨ ∃ w, i = .rep w)

/-- R300 to R307, R396, R419, R437 (derived).  Words that the spec writes out decode to the instructions it says they are: ICMP, FFMA3,
FREDADD, ATOM, SREAD, MMA and CPYP. -/
def Obligations.SpecWordsDecode : Prop :=
  let lane (vd sa sb : Nat) (g : Bool) : LaneW :=
    { vd := BitVec.ofNat 7 vd, sa := BitVec.ofNat 8 sa, sb := BitVec.ofNat 8 sb, ea := false, eb := false, g := g, lit := 0 }
  decode 0 [0x004028EB] = .ok (.icmp (lane 0x23 1 2 false), 1) ∧
  decode 1 [0x00402105, 0x00000203] = .ok (.ffma3 (lane 4 1 2 false) { sc := 3, ec := false, hi := 1 }, 2) ∧
  decode 2 [0x9000219C, 0x00000400] = .ok (.fredadd (lane 6 1 0x80 true) { sc := 0, ec := false, hi := 2 }, 2) ∧
  decode 3 [0x00710145, 0x00804C02] = .ok (.atom (lane 5 0x88 3 false)
    { size := 2, sgn := false, space := 0, order := 0, scope := 3, reuse := 2, inv := false, notag := false, off := 64 }, 2) ∧
  decode 4 [0x80000068] = .ok (.sread { sd := 1, sa := 0, sb := 0, ea := false, eb := true, lit := 0 }, 1) ∧
  decode 5 [0x00884041, 0x00800040, 0x00000000] = .ok (.mma
    { ta := 1, tb := 4, aw := 2, skip := true, z0 := 0, arow := 64, z1 := false, koff := 0, kcnt := 1, z2 := 0, srow := 0, sk := 0,
      z3 := 0 }, 3) ∧
  decode 6 [0x00028003, 0x0080000F, 0x0000477F] = .ok (.cpyp
    { sd := 0, sa := 10, sb := 0, ea := false, eb := false, lit := 0 } { tok := 15, tl := 0, tlv := false, sv := 0, dt := 1, z := 0 }
    { st := 127, reuse := 2, rest := 35 }, 3)

/-- R161, R177, R178, R186, R187, R308, R309, R338 (derived; the order of steps is the model's choice, log entry 6).  A step whose
party in focus stands before a word that decodes runs exactly that instruction, with the latch naming the party and its lanes, and then
empties the latch; a matrix stream, or a party at the end of its clause, gives up the focus.  The word is what memory holds at its
translated address; behind a REP its register fields stand stepped by the repetition.  A reserved opcode traps in the word's active
lanes.  Where a second party of the block issues in the cycle of the last word, its word reads the uniform registers as that cycle
found them, and of the cycle's writes to one register the highest issuer's remains.  An event at the head of the inputs, or one due at
this very tick, runs as the step.  (`settled` leaves the step before an operation that replay has not reached or at which it diverged,
R141, R143.) -/
def Obligations.StepRunsItsInstruction : Prop :=
  (∀ (s s1 : State) (core bctx w : Nat) (pre : Thr) (c : Cur) (d : Except Reject (Instr × Nat)) (b : Blk) (t : Thr), s.onTick = none →
    let s0 : State := { s.passTick with cycle := none }
    s0.inputs = [] → s.partner = none → s0.focus = some (core, bctx, w) → s0.thr? core bctx w = some pre →
    s0.enter core bctx w = (s1, true) → s1.latch core bctx w = some (c, d) → s1.blk? c.core c.bctx = some b →
    b.thr? c.w = some t → overlong t c.w c.lanes c.pc c.next = false →
    (∀ i n, d = .ok (i, n) →
      let r := settled s1 (afterWord c pre (exec i { s1 with cur := some c }))
      (s1.replaying = false → uniDst i = none → step s = r) ∧
      (s1.replaying = false → step s = r ∨ ∃ u k, r = .next u ∧ step s = .next { u with cycle := k }) ∧
      (s1.replaying = true → ∃ live, step s = turnNoted c ((s1.thr? core bctx w).getD pre) r live) ∧
      ∀ u, exec i { s1 with cur := some c } = .next u → u.recd.early = false → (u.recd.diverged = true → s1.recd.diverged = true) →
        ∃ v, r = .next v ∧ v.cur = none ∧ v.focus = (if c.w = 32 ∨ c.last = true then none else u.focus) ∧
          (c.w ≠ 32 → v.blks = u.blks) ∧ v = { u with cur := none, focus := v.focus, stepctl := v.stepctl, blks := v.blks }) ∧
    (∀ k op, s1.replaying = false → d = .error (.reservedOpcode k op) →
      step s = settled s1 (afterWord c pre (.next (s1.refuse c b t
        (faultLanes c (activeLanes c t (decide (c.cls < 4) && c.word.getLsbD 31))) (.trap .illegalOpcode)))))) ∧
  (∀ (s s1 u : State) (k : Cycle) (w n : Nat) (pre : Thr) (c : Cur) (i : Instr) (r : UniReg) (b b' : Blk), s.onTick = none →
    let s0 : State := { s.passTick with cycle := none }
    s0.inputs = [] → s.partner = some (k, w) → s0.thr? k.core k.bctx w = some pre → s0.enter k.core k.bctx w = (s1, true) →
    s1.latch k.core k.bctx w = some (c, .ok (i, n)) → s1.blk? k.core k.bctx = some b → uniDst i = some r →
    issueLatched c (.ok (i, n)) pre (s1.setBlk k.core k.bctx { b with s := k.s, q := k.q }) = .next u →
    ((u.thr? k.core k.bctx w).any (c.issued ((b.thr? w).getD pre))) = true → u.blk? k.core k.bctx = some b' →
    let beaten : Bool := k.wrote.any fun x => x.2 == r && decide (w < x.1)
    ∃ v bv, step s = .next v ∧ v.blk? k.core k.bctx = some bv ∧
      v = { u with focus := s0.focus, cycle := some { k with wrote := (w, r) :: k.wrote }, blks := v.blks } ∧
      (∀ m, bv.sreg m = if r = .s m ∧ beaten = false then b'.sreg m else b.sreg m) ∧
      (∀ m, m < 7 → bv.qpred m = if r = .q m ∧ beaten = false then b'.qpred m else b.qpred m)) ∧
  (∀ (s : State) (core bctx w ix : Nat) (b : Blk) (t : Thr) (k : Clause), s.blk? core bctx = some b → b.thr? w = some t →
    (t.lane t.lastLane).clause = some k → (t.lane t.lastLane).pc.toNat = k.hdrAt.toNat + 4 * (ix + 1) → ix < k.words.length →
    let cls := hdrClass k.hdr
    let before := (clauseUnits cls k.words).find? fun u => u.2.2 && u.1 + u.2.1 == ix
    let word := k.words.getD ix 0
    ∃ c head, s.latch core bctx w = some (c, decode cls (head :: k.words.drop (ix + 1))) ∧ c.core = core ∧ c.bctx = bctx ∧ c.w = w ∧
      c.pc = (t.lane t.lastLane).pc ∧ c.hdr = k.hdr ∧ c.word = word ∧ c.rep = k.rep ∧
      (before = none → head = word ∧ c.reps = 1) ∧
      (∀ x, before = some x →
        let rep := k.words.getD x.1 0
        let f (from' len : Nat) : Nat := rep.toNat / 2 ^ from' % 2 ^ len
        let fields : List (Nat × Nat × Nat) := if cls < 4 then [(6, 7, f 12 2), (13, 8, f 14 2), (21, 8, f 16 2)]
          else [(6, 8, f 12 2), (14, 8, f 14 2), (22, 8, f 16 2)]
        c.reps = f 6 6 + 1 ∧
        (∀ e ∈ fields, head.toNat / 2 ^ e.1 % 2 ^ e.2.1 = (word.toNat / 2 ^ e.1 + k.rep * e.2.2) % 2 ^ e.2.1) ∧
        ∀ j, j < 32 → (∀ e ∈ fields, j < e.1 ∨ e.1 + e.2.1 ≤ j) → head.getLsbD j = word.getLsbD j)) ∧
  (∀ (s x : State) (c : Cur) (b : Blk) (t : Thr) (k : Clause), s.fetchClause c b t = .ok x k →
    k.hdrAt = c.pc ∧ ∀ i, i < k.words.length → ∃ a pub,
      s.fetchAt (c.mmu b (t.privileged c.lanes)) (c.site t) (c.pc + BitVec.ofNat 64 (4 * (i + 1))) = .at a pub ∧
      k.words[i]? = some (BitVec.ofNat 32 (leNat (readBytes x.mem.bytes a 4)))) ∧
  (∀ (s : State) (i : Instr) (a : EvArg) (rest : List (Instr × EvArg)), s.onTick = none → s.passTick.inputs = (i, a) :: rest →
    let s1 : State := { s.passTick with cycle := none, inputs := rest, arg := a }
    step s = settled s1 (exec i s1)) ∧
  (∀ (s : State) (i : Instr), s.onTick = some i → step s = exec i s)

/-- R28, R33, R34, R46, R52, R59, R68, R70, R75, R90, R123 (derived).  After a cold reset every register of BAR0 and of the Nuntaok space
reads as the Reset column of its table says; the tick is 0 and no block, request, command or context is live. -/
def Obligations.ResetState : Prop :=
  let s := State.reset
  s.tick = 0 ∧ s.dev.stage = 0 ∧ s.blks = [] ∧ s.reqs = [] ∧ s.host.cmds = [] ∧ (∀ c, (s.ctx c).en = false) ∧ (∀ k, (s.slot k).en = false) ∧
  s.recording = false ∧ s.replaying = false ∧
  (∀ e ∈ [(0x100, 0), (0x200, 0), (0x2B8, 0), (0x400, 0), (0x408, 6), (0x410, 0), (0x500, 0), (0x508, 0), (0x510, 0),
      (0x518, 7516192768), (0x600, 0), (0x700, 0), (0x708, 0), (0x710, 0), (0x800, 0), (0x808, 12), (0xA00, 0), (0xA08, 0),
      (0x1000, 0), (0x1008, 0), (0x1010, 0), (0x1018, 0), (0x10000, 16), (0x10008, 0), (0x10010, 0), (0x10018, 0), (0x10020, 0),
      (0x10028, 0), (0x10030, 0), (0x10040, 0), (0x10048, 0)], s.readBar0 e.1 = BitVec.ofNat 64 e.2) ∧
  (∀ e ∈ [(0x00, 0), (0x08, 0), (0x10, 1), (0x18, 0), (0x20, 0), (0x28, 0), (0x30, 0), (0x38, 0), (0x40, 0), (0x48, 0), (0xC0, 0),
      (0x100, 0), (0x108, 33290), (0x110, 0), (0x200, 0), (0x10000, 0), (0x10008, 0)], s.readNuntaok e.1 = BitVec.ofNat 64 e.2)

/-- R118, R156 (derived).  A block at its start: s1 to s7 as the node gives them and zero for a COPY program, every other uniform
register and predicate clear, b0 initialised for every party at phase 0; every party stands at its stream's PC with MR 1, its
predicates, tokens and loops clear, its lane registers zero and full, POOLB at POOLROWS, no trap enabled. -/
def Obligations.BlocksStartClean : Prop :=
  ∀ (adm seed tick col : Nat) (i : NodeInfo) (tiles : List Nat) (banks : List (Nat × Nat)) (acc : Option Nat),
    let b := Blk.start adm i seed tick tiles banks col acc
    b.sreg 1 = i.param ∧ b.sreg 4 = zext 64 i.nodeId ∧ b.sreg 5 = zext 64 i.launches ∧ (∀ n, 8 ≤ n → b.sreg n = 0) ∧
    (i.isCopy = true → b.sreg 2 = 0 ∧ b.sreg 3 = 0 ∧ b.sreg 6 = 0 ∧ b.sreg 7 = 0) ∧
    (i.isCopy = false → b.sreg 2 = at64 0 i.gx.toNat ||| at64 32 i.gy.toNat ∧ b.sreg 3 = BitVec.ofNat 64 i.rank ∧
      b.sreg 7 = at64 0 i.gangX.toNat ||| at64 32 i.gangY.toNat) ∧
    (∀ n, n < 7 → b.qpred n = false) ∧ (∀ n, b.sIsEmpty n = false) ∧
    (b.bar 0).init = true ∧ (b.bar 0).phase = 0 ∧ (b.bar 0).parts = partyMask i.parties ∧
    (∀ n, 1 ≤ n → n < 16 → (b.bar n).init = false) ∧
    ∀ w t, b.thr? w = some t →
      t.lanes = List.replicate (if w < 32 then 32 else 1)
        (Lane.start (if w < 32 then i.lanePc else if w = 32 then i.mtxPc else i.accPc)) ∧
      (∀ p l, p < 7 → t.pred p l = false) ∧ (∀ r, t.isEmpty r = false) ∧ t.frm = 0 ∧ (∀ k ∈ t.tokens, k = 0) ∧
      (∀ l ∈ t.loops, l.active = false) ∧ t.poolb = (if w < 32 then i.poolRows else 0) ∧
      ∀ r l, w < 32 → r < i.poolRows → l < 32 → t.reg r l = 0

/-- R169.  p7 and q7 always read 1 and writes to them are ignored; p0 to p6 hold one bit per lane per warp, and q0 to q6 one bit per
block.  (A party has seven stored predicates; that every step keeps this is StepKeepsShapes.) -/
def Obligations.PredicatesHold : Prop :=
  (∀ (t : Thr) (l : Nat), t.pred 7 l = true) ∧ (∀ (b : Blk), b.qpred 7 = true) ∧
  (∀ (t : Thr) (m : Word) (f : Nat → Bool), t.putPred 7 m f = t) ∧ (∀ (b : Blk) (v : Bool), b.putQ 7 v = b) ∧
  (∀ (t : Thr) (n : Nat) (m : Word) (f : Nat → Bool), n < 7 → t.preds.length = 7 → ∀ p l, l < 32 →
    (t.putPred n m f).pred p l = if p = n ∧ m.getLsbD l then f l else t.pred p l) ∧
  ∀ (b : Blk) (n : Nat) (v : Bool), n < 7 → ∀ p, (b.putQ n v).qpred p = if p = n then v else b.qpred p

/-- R78.  The translated address is bit 63 followed by bits 55 to 0, the pointer tag ignored; an address whose bits 62 to 60 differ from
bit 63 raises ADDRESS_SPACE, whether an access names it, a clause is fetched there, or a table is loaded from it. -/
def Obligations.AddressesTranslate : Prop :=
  ∀ (va : DWord),
    (∀ i, i < 56 → (untag va).testBit i = va.getLsbD i) ∧ (untag va).testBit 56 = va.getLsbD 63 ∧ untag va < 2 ^ 57 ∧
    (∀ va' : DWord, (∀ i, i < 56 ∨ i = 63 → va.getLsbD i = va'.getLsbD i) → untag va = untag va' ∧
      ∀ (s : State), (∀ die ecc c, walk s die ecc c va = walk s die ecc c va') ∧ ∀ m, s.lookup m va = s.lookup m va') ∧
    ((va.getLsbD 60 ≠ va.getLsbD 63 ∨ va.getLsbD 61 ≠ va.getLsbD 63 ∨ va.getLsbD 62 ≠ va.getLsbD 63) →
      ∀ (s : State) (c : Cur) (b : Blk) (m : Mmu),
        (∀ f : MemForm, f.narrow = false → f.space < 2 → s.laneCheck c b m f va = .fault .addressSpace) ∧
        (∀ site, s.fetchAt m site va = .fault .addressSpace) ∧ s.tableCheck c b m va = (.fault .addressSpace, va))

/-- R2 (derived).  A write of bytes puts them at their addresses, least significant first, and leaves every other byte alone. -/
def Obligations.MemoryReadAfterWrite : Prop :=
  ∀ (s : State) (a : Nat) (bs : List Byte),
    (∀ x, readByte (s.poke a bs).mem.bytes x = if a ≤ x ∧ x < a + bs.length then bs.getD (x - a) 0 else readByte s.mem.bytes x) ∧
    readBytes (s.poke a bs).mem.bytes a bs.length = bs ∧
    ∀ n v, v < 256 ^ n → leNat (leBytes n v) = v

/-- The model's invariant of memory (its canonical form) holds at reset: nothing is listed. -/
def Obligations.ResetMemoryForm : Prop := State.reset.mem.bytes = Memory.empty ∧ Memory.wf State.reset.mem.bytes = true

/-- Every step keeps the canonical form of memory, the model's own: addresses strictly rising, and no byte listed that an unlisted
address reads as (derived from R2; what an unlisted address reads as is the model's choice, log entry 1). -/
def Obligations.StepKeepsMemoryForm : Prop :=
  ∀ (s t : State), Memory.wf s.mem.bytes = true → step s = .next t → Memory.wf t.mem.bytes = true

namespace Sys2Proof.Rules

/-- The numbers of registers, lanes, barriers, ports and channels that the spec gives (R13, R15, R23, R156, R166, R169, R280, R432), and
the model's own form of the list of resident blocks: each block context once, in rising order. -/
def Shaped (s : State) : Prop :=
  s.links.ports.length = 24 ∧ (∀ p ∈ s.links.ports, p.vcs.length = 4) ∧ s.dev.hostWidth.length = 2 ∧
  (s.blks.map fun p => p.1).Pairwise (fun x y => x < y) ∧
  ∀ b ∈ s.blks, b.2.bars.length = 16 ∧
    ∀ t ∈ b.2.thrs, t.2.preds.length = 7 ∧ t.2.loops.length = 3 ∧ t.2.tscr.length = 4 ∧ t.2.lanes.length ≤ 32

end Sys2Proof.Rules

/-- R13, R15, R23, R156, R169, R280 (derived).  Every step keeps 24 ports of four channels, two host links, and in every block 16 barriers
and in every party seven stored predicates, three loop levels, four trap scratch registers and at most 32 lanes, and lists every block
context at most once, in rising order; reset has them. -/
def Obligations.StepKeepsShapes : Prop :=
  Sys2Proof.Rules.Shaped State.reset ∧ ∀ (s t : State), Sys2Proof.Rules.Shaped s → step s = .next t → Sys2Proof.Rules.Shaped t

/-- R178, R274, R308, R309 (derived).  No instruction ends the machine: an event always leaves a next state, a word does whenever the latch
names a party that its block holds, and so every step leaves one, as long as what is brought from outside is an event.  It is the model's choice that an event
whose condition does not hold leaves a next state too (log entry 4). -/
def Obligations.EveryStepGoesOn : Prop :=
  (∀ (i : Instr) (s : State), i.isWord = false → ∃ u, exec i s = .next u) ∧
  (∀ (i : Instr) (s : State) (c : Cur) (b : Blk) (t : Thr), Issues s c b t → ∃ u, exec i s = .next u) ∧
  (∀ (i : Instr) (s : State) (r : Refusal), exec i s ≠ .refused r) ∧
  ∀ (s : State), (∀ p ∈ s.inputs, p.1.isWord = false) → StepsSafely s

/-! ### Statements that join those above -/

/-- R169, R325 to R334 (derived: results joined with their frame and completion). What every word of class 0 that computes
integers leaves, in lane registers, pairs and predicates, and that it completes with nothing else changed. -/
def Obligations.LaneRegisterResults : Prop :=
  Sys2Proof.Rules.LaneTwoSourceResults ∧ Sys2Proof.Rules.LaneOneSourceResults ∧ Sys2Proof.Rules.LaneAccumulateResults ∧
    Sys2Proof.Rules.LanePairResults ∧ Sys2Proof.Rules.LanePredicateResults

/-- R347 to R349, R352 to R354 (derived). FABS, FNEG, FCLASS and UNPACK8 without exceptions; FCMP, DCMP, CVTFF and PACK8 with
theirs. -/
def Obligations.FloatBitAndCompareResults : Prop :=
  Sys2Proof.Rules.FloatBitResults ∧ Sys2Proof.Rules.FloatCompareAndPackResults

/-- R363 to R367 (derived). What the cross-lane words leave, and that one whose sub-group is only partly in the sub-warp raises
SUBGROUP_TARGET where the rule says so. -/
def Obligations.CrossLaneWords : Prop :=
  Sys2Proof.Rules.CrossLaneResults ∧ Sys2Proof.Rules.PartialSubgroupsTrap

/-- R171, R357 to R362 (derived). Special-function words send their results, which land later; TBLEVAL reads the current table,
and TBLLOAD starts a fill. -/
def Obligations.SpecialFunctionUnit : Prop :=
  Sys2Proof.Rules.SpecialFunctionIssues ∧ Sys2Proof.Rules.SpecialFunctionLands ∧ Sys2Proof.Rules.TableValues ∧ Sys2Proof.Rules.TableEvaluation ∧
    Sys2Proof.Rules.TableLoadStarts

/-- R171, R339 to R341, R371 to R375, R378, R379, R382 (derived). What a lane or uniform memory word that stands ready sends. -/
def Obligations.AccessesAsk : Prop :=
  Sys2Proof.Rules.MemoryWordsAsk ∧ Sys2Proof.Rules.UniformAccessAsks

/-- R174, R176, R203, R229 to R232, R244, R376, R377, R381, R383 (derived). FENCE and CODEPUB, the cache hints, and the moves between
registers and accumulator rows. -/
def Obligations.FencesAndCaches : Prop :=
  Sys2Proof.Rules.FencesBeginReleases ∧ Sys2Proof.Rules.CacheMaintenance ∧ Sys2Proof.Rules.AccumulatorMoves

/-- R169, R186, R187, R306, R307, R335 to R337, R436 (derived). What the uniform words leave, and NOP and REP. -/
def Obligations.UniformWords : Prop :=
  Sys2Proof.Rules.UniformResults ∧ Sys2Proof.Rules.UniformCompareAndMove ∧ Sys2Proof.Rules.NopAndRepeat

/-- R162, R178, R181 to R183, R187, R276, R298, R310, R427 to R435, R444 (derived). Where words leave their lanes. -/
def Obligations.ControlMoves : Prop :=
  Sys2Proof.Rules.WordsAdvance ∧ Sys2Proof.Rules.BranchesGo ∧ Sys2Proof.Rules.CallLinks ∧ Sys2Proof.Rules.MeetingRegisters ∧
    Sys2Proof.Rules.HardwareLoops ∧ Sys2Proof.Rules.ExitAndYield

/-- R4, R61, R258, R262, R280, R344, R410, R437 to R440 (derived). SREAD and SWRITE of every special register, SLOTQ and the moves
between pool rows. -/
def Obligations.SpecialRegisters : Prop :=
  Sys2Proof.Rules.SpecialRegisterReads ∧ Sys2Proof.Rules.SpecialRegisterWrites ∧ Sys2Proof.Rules.SlotQueriesAndPoolMoves

/-- R281, R311, R441, R442 (derived). TRAP and BKPT raise their traps; TRET returns from one, and is privileged. -/
def Obligations.TrapsAndReturns : Prop :=
  Sys2Proof.Rules.SoftwareTraps ∧ Sys2Proof.Rules.TrapReturn

/-- R241, R389, R390 (derived). The words on phasers, and when a phase advances and wakes its waiters. -/
def Obligations.PhaserWordsAndPhases : Prop :=
  Sys2Proof.Rules.PhaserWords ∧ Sys2Proof.Rules.PhaserPhases

/-- R230, R231, R237, R240, R243, R244, R377 to R379, R392 (derived). The end of a release, of a CODEPUB, and a WAKEADDR at its
home.  It is the model's choice that a release also waits for its issuer's earlier reads to bind (log entry 40). -/
def Obligations.ReleasesAndPublishing : Prop :=
  Sys2Proof.Rules.ReleasesComplete ∧ Sys2Proof.Rules.PublishAndWake

/-- R148, R175, R199, R201, R238, R388, R394, R396, R397, R400 to R403 (derived). What the issue of a matrix word starts. -/
def Obligations.MatrixWordsStart : Prop :=
  Sys2Proof.Rules.MatrixCommandsStart ∧ Sys2Proof.Rules.MatrixMovesStart

/-- R200 to R202, R236, R255, R257, R264 to R268, R388, R395, R398, R400 to R403, R410 (derived). What a matrix command leaves when it
completes. -/
def Obligations.MatrixWordsComplete : Prop :=
  Sys2Proof.Rules.MatrixElements ∧ Sys2Proof.Rules.MovedElements ∧ Sys2Proof.Rules.MatrixCommandsComplete ∧
    Sys2Proof.Rules.MatrixMovesComplete

/-- R192, R199, R201, R419, R420, R445 (derived). STAGEW, TSET and CFGBANK. -/
def Obligations.StagesTilesAndBanks : Prop :=
  Sys2Proof.Rules.StageWaitsAndTiles ∧ Sys2Proof.Rules.BankConfiguration

/-- R22, R42, R47, R207, R223, R231, R243, R371 to R374, R378 to R380, R382 (derived). What a home does with each request.  It is
the model's choice that CAPACITY_TIER_COMPLETION takes the bytes of the model's own memory and ignores the data of the reply (log
entry 30). -/
def Obligations.MemoryHomes : Prop :=
  Sys2Proof.Rules.HomesServe ∧ Sys2Proof.Rules.HomesKeepAndWait ∧ Sys2Proof.Rules.CapacityTier

/-- R192 to R198, R358 to R360, R362 (derived). What banks do with their requests, and how banks and tables change. -/
def Obligations.BanksAct : Prop :=
  Sys2Proof.Rules.BanksServe ∧ Sys2Proof.Rules.BanksAndTablesChange

/-- R63, R410, R424, R425 (derived). How collectives complete and fail. -/
def Obligations.CollectivesEnd : Prop :=
  Sys2Proof.Rules.CollectivesCombine ∧ Sys2Proof.Rules.CollectivesTimeOut

/-- R14, R15, R17 to R20, R38 (derived). What links carry and what reduction windows do.  It is the model's choice
which virtual channels answers, contributions and results take, and that a round's result is a message of its own to each source and a
closing home asks the switches (log entry 24). -/
def Obligations.LinksAndWindows : Prop :=
  Sys2Proof.Rules.LinksCarry ∧ Sys2Proof.Rules.WindowsReduce
end

