-- ==== Sys2Proof/Laws/Maps.lean ====
section
/-! SUPPORT. Laws of the sparse maps and of memory's canonical form: what a read gives after a write, and that every
memory operation keeps the form. -/

namespace Sys2Proof.Machine

/-! ### Sparse maps -/

@[simp] theorem nget_nil {α : Type} (k : Nat) : nget ([] : NMap α) k = none := rfl

theorem nget_nput {α : Type} (k j : Nat) (v : α) (m : NMap α) :
    nget (nput k v m) j = if j = k then some v else nget m j := by
  induction m with
  | nil =>
    by_cases h : j = k
    · subst h; simp [nput, nget]
    · simp [nput, nget, h, Ne.symm h]
  | cons p t ih =>
    obtain ⟨i, x⟩ := p
    by_cases h1 : k < i
    · by_cases h : j = k
      · subst h; simp [nput, nget, h1]
      · simp [nput, nget, h1, h, Ne.symm h]
    · by_cases h2 : k = i
      · subst h2
        by_cases h : j = k
        · subst h; simp [nput, nget]
        · simp [nput, nget, h, Ne.symm h]
      · by_cases h3 : i = j
        · subst h3; simp [nput, nget, h1, h2, Ne.symm h2]
        · simp [nput, nget, h1, h2, h3, ih]

@[simp] theorem nget_nput_same {α : Type} (k : Nat) (v : α) (m : NMap α) : nget (nput k v m) k = some v := by
  simp [nget_nput]

theorem nget_nput_other {α : Type} {k j : Nat} (h : j ≠ k) (v : α) (m : NMap α) : nget (nput k v m) j = nget m j := by
  simp [nget_nput, h]

theorem nget_ndel {α : Type} (k j : Nat) (m : NMap α) : nget (ndel k m) j = if j = k then none else nget m j := by
  induction m with
  | nil => simp [ndel]
  | cons p t ih =>
    obtain ⟨i, x⟩ := p
    by_cases h1 : i = k
    · subst h1
      by_cases h : j = i
      · subst h; simp [ndel, ih]
      · simp [ndel, ih, nget, h, Ne.symm h]
    · by_cases h3 : i = j
      · subst h3; simp [ndel, nget, h1]
      · simp [ndel, nget, h1, h3, ih]

theorem nput_nput {α : Type} (k : Nat) (u v : α) (m : NMap α) : nput k v (nput k u m) = nput k v m := by
  induction m with
  | nil => simp [nput]
  | cons p t ih =>
    obtain ⟨i, x⟩ := p
    simp only [nput]
    split
    · simp [nput]
    · split
      · simp [nput, *]
      · simp [nput, *]

/-! ### Bytes read after a write -/

theorem nget_writeCell (lost : Option Nat) (m : List Host.Cell) (a c : Nat) (b : Byte) :
    ngetD (writeCell lost m a b) c (unlisted lost c) = if c = a then b else ngetD m c (unlisted lost c) := by
  unfold writeCell ngetD
  split
  · rw [nget_ndel]; split <;> simp_all
  · rw [nget_nput]; split <;> simp

theorem nget_writeCells (lost : Option Nat) (bs : List Byte) : ∀ (m : List Host.Cell) (a c : Nat),
    ngetD (writeCells lost m a bs) c (unlisted lost c) =
      if a ≤ c ∧ c < a + bs.length then bs.getD (c - a) 0 else ngetD m c (unlisted lost c) := by
  induction bs with
  | nil => intro m a c; simp only [writeCells, List.length_nil]; split <;> [omega; rfl]
  | cons b t ih =>
    intro m a c
    simp only [writeCells, ih, List.length_cons]
    by_cases h1 : c = a
    · subst h1
      simp [nget_writeCell]
    · by_cases h2 : a + 1 ≤ c ∧ c < a + 1 + t.length
      · have h3 : a ≤ c ∧ c < a + (t.length + 1) := by omega
        have h4 : c - a = (c - (a + 1)) + 1 := by omega
        rw [if_pos h2, if_pos h3, h4, List.getD_cons_succ]
      · have h3 : ¬(a ≤ c ∧ c < a + (t.length + 1)) := by omega
        rw [if_neg h2, if_neg h3, nget_writeCell, if_neg h1]

theorem readByte_writeBytes (bs : List Byte) (m : Memory) (a c : Nat) :
    readByte (writeBytes m a bs) c = if a ≤ c ∧ c < a + bs.length then bs.getD (c - a) 0 else readByte m c :=
  nget_writeCells m.lost bs m.cells a c

/-! ### The canonical form (log entry 1) -/

theorem cellsWf_mono {lost : Option Nat} {lo lo' : Nat} (h : lo' ≤ lo) : ∀ {m : List Host.Cell}, cellsWf lost lo m = true → cellsWf lost lo' m = true
  | [], _ => rfl
  | (a, b) :: t, hm => by simp only [cellsWf, Bool.and_eq_true, decide_eq_true_eq] at hm ⊢; exact ⟨⟨by omega, hm.1.2⟩, hm.2⟩

theorem cellsWf_nput (lost : Option Nat) (k : Nat) (v : Byte) (hv : v ≠ unlisted lost k) : ∀ (m : List Host.Cell) (lo : Nat),
    lo ≤ k → cellsWf lost lo m = true → cellsWf lost lo (nput k v m) = true
  | [], lo, hk, _ => by simpa [nput, cellsWf, hk] using hv
  | (a, b) :: t, lo, hk, hm => by
    simp only [cellsWf, Bool.and_eq_true, decide_eq_true_eq] at hm
    simp only [nput]
    split
    · simp only [cellsWf, Bool.and_eq_true, decide_eq_true_eq, bne_iff_ne, ne_eq]
      exact ⟨⟨hk, hv⟩, ⟨by omega, by simpa using hm.1.2⟩, hm.2⟩
    · split
      · subst_vars; simp only [cellsWf, Bool.and_eq_true, decide_eq_true_eq, bne_iff_ne, ne_eq]; exact ⟨⟨hk, hv⟩, hm.2⟩
      · simp only [cellsWf, Bool.and_eq_true, decide_eq_true_eq]
        exact ⟨hm.1, cellsWf_nput lost k v hv t (a + 1) (by omega) hm.2⟩

theorem cellsWf_ndel (lost : Option Nat) (k : Nat) : ∀ (m : List Host.Cell) (lo : Nat), cellsWf lost lo m = true → cellsWf lost lo (ndel k m) = true
  | [], _, _ => rfl
  | (a, b) :: t, lo, hm => by
    simp only [cellsWf, Bool.and_eq_true, decide_eq_true_eq] at hm
    simp only [ndel]
    split
    · exact cellsWf_mono (by omega) (cellsWf_ndel lost k t (a + 1) hm.2)
    · simp only [cellsWf, Bool.and_eq_true, decide_eq_true_eq]
      exact ⟨hm.1, cellsWf_ndel lost k t (a + 1) hm.2⟩

theorem cellsWf_writeCells (lost : Option Nat) (bs : List Byte) : ∀ (m : List Host.Cell) (a : Nat),
    cellsWf lost 0 m = true → cellsWf lost 0 (writeCells lost m a bs) = true := by
  induction bs with
  | nil => intro m a h; exact h
  | cons b t ih =>
    intro m a h
    refine ih _ _ ?_
    unfold writeCell
    split
    · exact cellsWf_ndel lost a m 0 h
    · exact cellsWf_nput lost a b ‹_› m 0 (Nat.zero_le a) h

theorem memory_wf_writeBytes (bs : List Byte) {m : Memory} (h : Memory.wf m = true) (a : Nat) :
    Memory.wf (writeBytes m a bs) = true :=
  cellsWf_writeCells m.lost bs m.cells a h

/-! ### Memory of the machine -/

@[simp] theorem dirtied_mem (s : State) (a : Nat) : (s.dirtied a).mem = s.mem := by
  unfold State.dirtied; dsimp only; split <;> rfl

theorem poke_bytes (s : State) (a : Nat) (bs : List Byte) : (s.poke a bs).mem.bytes = writeBytes s.mem.bytes a bs := by
  unfold State.poke
  split
  · next h => rw [List.isEmpty_iff.mp h]; rfl
  · simp

theorem poke_read (s : State) (a c : Nat) (bs : List Byte) :
    readByte (s.poke a bs).mem.bytes c = if a ≤ c ∧ c < a + bs.length then bs.getD (c - a) 0 else readByte s.mem.bytes c := by
  rw [poke_bytes, readByte_writeBytes]

theorem poke_wf {s : State} (h : Memory.wf s.mem.bytes = true) (a : Nat) (bs : List Byte) :
    Memory.wf (s.poke a bs).mem.bytes = true := by
  rw [poke_bytes]; exact memory_wf_writeBytes bs h a

theorem fold_wf {s : State} (h : Memory.wf s.mem.bytes = true) (line : Nat) : Memory.wf (s.fold line).mem.bytes = true := by
  unfold State.fold
  dsimp only
  split
  · split
    · exact h
    · refine poke_wf (s := ?_) ?_ _ _
      exact h
  · exact h

theorem errRaw_wf {s : State} (h : Memory.wf s.mem.bytes = true) (ty out u a : Nat) (l : Word) (y k : Nat) :
    Memory.wf (s.errRaw ty out u a l y k).mem.bytes = true := by
  unfold State.errRaw
  split
  · exact h
  · split
    · exact h
    · dsimp only
      split
      · exact poke_wf h _ _
      · exact h

theorem openLine_wf {s : State} (h : Memory.wf s.mem.bytes = true) (line : Nat) : Memory.wf (s.openLine line).mem.bytes = true := by
  unfold State.openLine
  split
  · exact h
  · dsimp only
    split
    · exact errRaw_wf (fold_wf h line) ..
    · exact fold_wf h line

/-- The device's own writes keep the canonical form. -/
theorem put_wf {s : State} (h : Memory.wf s.mem.bytes = true) (a : Nat) (bs : List Byte) :
    Memory.wf (s.put a bs).mem.bytes = true := by
  unfold State.put
  refine poke_wf ?_ a bs
  split
  · exact h
  · clear * - h
    generalize List.range _ = l
    induction l generalizing s with
    | nil => exact h
    | cons i t ih => exact ih (s := (s.openLine _).dropHolders _ _) (openLine_wf h _)

theorem pokePa_wf {s : State} (h : Memory.wf s.mem.bytes = true) (pa : Nat) (bs : List Byte) :
    Memory.wf (s.pokePa pa bs).mem.bytes = true := by
  unfold State.pokePa; split
  · exact put_wf h _ bs
  · exact h

theorem reset_memory_wf : Memory.wf State.reset.mem.bytes = true := rfl

end Sys2Proof.Machine
end

