-- ==== Sys2Proof/Laws/Party.lean ====
section
/-! SUPPORT. Laws of parties: registers after a write, a party read back, what the recorder and leaving a word may
change. -/

namespace Sys2Proof.Machine

/-! ### Blocks and parties read back -/

@[simp] theorem blk?_setBlk (s : State) (core bctx : Nat) (b : Blk) : (s.setBlk core bctx b).blk? core bctx = some b := by
  simp [State.blk?, State.setBlk]

@[simp] theorem thr?_setThr (b : Blk) (w : Nat) (t : Thr) : (b.setThr w t).thr? w = some t := by
  simp [Blk.thr?, Blk.setThr]

theorem thr?_setThr_other {b : Blk} {w v : Nat} (h : v ≠ w) (t : Thr) : (b.setThr w t).thr? v = b.thr? v := by
  simp [Blk.thr?, Blk.setThr, nget_nput_other h]

@[simp] theorem setBlk_setBlk (s : State) (core bctx : Nat) (a b : Blk) :
    (s.setBlk core bctx a).setBlk core bctx b = s.setBlk core bctx b := by
  simp [State.setBlk, nput_nput]

@[simp] theorem setThr_setThr (b : Blk) (w : Nat) (t u : Thr) : (b.setThr w t).setThr w u = b.setThr w u := by
  simp [Blk.setThr, nput_nput]

theorem modThr_eq {s : State} {core bctx w : Nat} {b : Blk} {t : Thr} (hb : s.blk? core bctx = some b)
    (ht : b.thr? w = some t) (f : Thr → Thr) : s.modThr core bctx w f = s.setBlk core bctx (b.setThr w (f t)) := by
  simp [State.modThr, State.modBlk, hb, ht]

theorem modBlk_eq {s : State} {core bctx : Nat} {b : Blk} (hb : s.blk? core bctx = some b) (f : Blk → Blk) :
    s.modBlk core bctx f = s.setBlk core bctx (f b) := by
  simp [State.modBlk, hb]

theorem setBlk_withRecd (s : State) (r : Recd) (core bctx : Nat) (b : Blk) :
    ({ s with recd := r } : State).setBlk core bctx b = { s.setBlk core bctx b with recd := r } := rfl

/-! ### Registers -/

theorem row_putRow (t : Thr) (r q : Nat) (m : Word) (f : Nat → Word) :
    (t.putRow r m f).row q = if q = r then (List.range 32).map fun l => if m.getLsbD l then f l else t.reg r l else t.row q := by
  unfold Thr.row Thr.putRow
  simp only [nget_nput]
  split <;> simp

theorem reg_putRow (t : Thr) (r : Nat) (m : Word) (f : Nat → Word) (q l : Nat) (hl : l < 32) :
    (t.putRow r m f).reg q l = if q = r ∧ m.getLsbD l then f l else t.reg q l := by
  unfold Thr.reg
  rw [row_putRow]
  by_cases h : q = r
  · subst h; simp [hl, List.getD_eq_getElem?_getD, Thr.reg]
  · simp [h]

theorem putRow_rowsOnly (t : Thr) (r : Nat) (m : Word) (f : Nat → Word) : t.RowsOnly (t.putRow r m f) := rfl

theorem putPair_rowsOnly (t : Thr) (r : Nat) (m : Word) (f : Nat → DWord) : t.RowsOnly (t.putPair r m f) := by
  unfold Thr.RowsOnly; rfl

theorem reg_putPair (t : Thr) (r : Nat) (m : Word) (f : Nat → DWord) (q l : Nat) (hl : l < 32) :
    (t.putPair r m f).reg q l =
      if m.getLsbD l ∧ q = r then (f l).setWidth 32
      else if m.getLsbD l ∧ q = r + 1 then (f l >>> 32).setWidth 32 else t.reg q l := by
  unfold Thr.putPair
  rw [reg_putRow _ _ _ _ _ _ hl, reg_putRow _ _ _ _ _ _ hl]
  by_cases h1 : q = r + 1
  · subst h1; by_cases h2 : m.getLsbD l = true <;> simp [h2]
  · by_cases h2 : q = r <;> by_cases h3 : m.getLsbD l = true <;> simp [h1, h2, h3]

theorem getD_lmod {α : Type} (f : α → α) (d : α) : ∀ (l : List α) (i j : Nat),
    (lmod i f l).getD j d = if i = j ∧ j < l.length then f (l.getD j d) else l.getD j d
  | [], i, j => by simp [lmod]
  | x :: t, 0, 0 => by simp [lmod]
  | x :: t, 0, j + 1 => by simp [lmod]
  | x :: t, i + 1, 0 => by simp [lmod]
  | x :: t, i + 1, j + 1 => by simpa [lmod] using getD_lmod f d t i j

@[simp] theorem length_lmod {α : Type} (f : α → α) : ∀ (l : List α) (i : Nat), (lmod i f l).length = l.length
  | [], _ => by simp [lmod]
  | _ :: _, 0 => by simp [lmod]
  | _ :: t, i + 1 => by simp [lmod, length_lmod f t i]

theorem getLsbD_laneBit {i l : Nat} (hl : l < 32) : (laneBit i).getLsbD l = decide (i = l) := by
  unfold laneBit; rw [BitVec.getLsbD_ofNat, Nat.testBit_two_pow]; simp [hl]

theorem getLsbD_lanesMask_aux (ls : List Nat) : ∀ (m : Word) (l : Nat), l < 32 →
    (ls.foldl (fun m i => m ||| BitVec.ofNat 32 (2 ^ i)) m).getLsbD l = (m.getLsbD l || decide (l ∈ ls)) := by
  induction ls with
  | nil => intro m l _; simp
  | cons i t ih =>
    intro m l hl
    have h := getLsbD_laneBit (i := i) hl
    simp only [laneBit] at h
    rw [List.foldl_cons, ih _ _ hl, BitVec.getLsbD_or, h]
    by_cases h1 : i = l
    · subst h1; simp
    · simp [h1, Ne.symm h1]

theorem getLsbD_lanesMask (ls : List Nat) (l : Nat) (hl : l < 32) : (lanesMask ls).getLsbD l = decide (l ∈ ls) := by
  unfold lanesMask; rw [getLsbD_lanesMask_aux ls 0 l hl]; simp

theorem getLsbD_maskOf (f : Nat → Bool) (l : Nat) (hl : l < 32) : (maskOf f).getLsbD l = f l := by
  unfold maskOf; rw [getLsbD_lanesMask _ _ hl]; simp [hl]

theorem pred_putPred (t : Thr) (n : Nat) (m : Word) (f : Nat → Bool) (p l : Nat) (hn : n < 8) (hp : 7 ≤ t.preds.length)
    (hl : l < 32) : (t.putPred n m f).pred p l = if p = n ∧ n < 7 ∧ m.getLsbD l then f l else t.pred p l := by
  unfold Thr.putPred
  split
  · subst_vars; simp
  · next h =>
    have hn' : n < 7 := by omega
    unfold Thr.pred
    simp only [getD_lmod]
    by_cases hpn : p = n
    · subst hpn
      have : p < t.preds.length := by omega
      have hp7 : p ≠ 7 := by omega
      simp only [true_and, this, if_true, hn', getLsbD_maskOf _ _ hl]
      by_cases hm : m.getLsbD l = true <;> simp [hm, hp7]
    · simp [hpn, Ne.symm hpn]

theorem putPred_predsOnly (t : Thr) (n : Nat) (m : Word) (f : Nat → Bool) : t.PredsOnly (t.putPred n m f) := by
  unfold Thr.putPred Thr.PredsOnly; split <;> rfl

/-! ### The recorder -/

namespace RecdOnly

theorem refl (s : State) : RecdOnly s s := ⟨rfl, rfl, rfl⟩

theorem trans {s u v : State} (h : RecdOnly s u) (g : RecdOnly u v) : RecdOnly s v := by
  refine ⟨?_, g.mode.trans h.mode, g.diverged.trans h.diverged⟩
  rw [g.same, h.same]

theorem replaying {s u : State} (h : RecdOnly s u) : u.replaying = s.replaying := by
  simp [State.replaying, h.mode]

theorem blk? {s u : State} (h : RecdOnly s u) (core bctx : Nat) : u.blk? core bctx = s.blk? core bctx := by
  rw [h.same]; rfl

end RecdOnly

theorem setAgent_recdOnly (s : State) (a : Nat) (x : Agent) : RecdOnly s (s.setAgent a x) := ⟨rfl, rfl, rfl⟩

theorem ashRecord_recdOnly (s : State) (n : Nat) (r : List Byte) : RecdOnly s (s.ashRecord n r) := ⟨rfl, rfl, rfl⟩

theorem closeChunk_recdOnly (s : State) (a k : Nat) : RecdOnly s (s.closeChunk a k) := by
  unfold State.closeChunk; dsimp only; split
  · exact .refl s
  · exact (ashRecord_recdOnly ..).trans (setAgent_recdOnly ..)

theorem foldl_recdOnly {α : Type} (f : State → α → State) (h : ∀ s a, RecdOnly s (f s a)) :
    ∀ (l : List α) (s : State), RecdOnly s (l.foldl f s)
  | [], s => .refl s
  | a :: t, s => (h s a).trans (foldl_recdOnly f h t (f s a))

theorem recordOp_recdOnly (s : State) (agent issuer lane obj : Nat) (mo : Bool) (addr close : Option Nat) (msgs : List DWord)
    (more : List Nat) : RecdOnly s (s.recordOp agent issuer lane obj mo addr close msgs more) := by
  unfold State.recordOp
  extract_lets s0 others s1 s2 x fold y s3 r4 s4
  have h0 : RecdOnly s s0 := by simp only [s0]; split; exacts [closeChunk_recdOnly .., .refl s]
  have h1 : RecdOnly s s1 := h0.trans (foldl_recdOnly _ (fun t p => by split; exacts [closeChunk_recdOnly .., .refl t]) _ _)
  have h2 : RecdOnly s s2 := h1.trans (by simp only [s2]; split; exacts [closeChunk_recdOnly .., .refl s1])
  have h3 : RecdOnly s s3 := h2.trans (setAgent_recdOnly ..)
  have h4 : RecdOnly s s4 := h3.trans ⟨rfl, rfl, rfl⟩
  split
  · exact h4.trans (closeChunk_recdOnly ..)
  · split
    · exact h4.trans (closeChunk_recdOnly ..)
    · exact h4

theorem note_recdOnly {s : State} (h : s.replaying = false) (agent issuer lane obj : Nat) (mo : Bool)
    (addr close : Option Nat) (msgs : List DWord) (more : List Nat) :
    RecdOnly s (s.note agent issuer lane obj mo addr close msgs more) := by
  unfold State.note
  split
  · exact recordOp_recdOnly ..
  · simpa [h] using RecdOnly.refl s

theorem noteUnis_recdOnly {s : State} (h : s.replaying = false) (c : Cur) (b : Blk) (rs : List Nat) (wr : Bool) :
    RecdOnly s (s.noteUnis c b rs wr) := by
  unfold State.noteUnis
  induction rs generalizing s with
  | nil => exact .refl s
  | cons r t ih =>
    rw [List.foldl_cons]
    have h1 : RecdOnly s (match nget b.sWriter r with
        | some w => if w = c.w then s
            else s.note c.core (issuerOf c.bctx c.w) (lowestLane c.lanes) (objUni c.core c.bctx r) wr none none
        | none => s) := by
      split
      · split
        · exact .refl s
        · exact note_recdOnly h ..
      · exact .refl s
    exact h1.trans (ih (h1.replaying.trans h))

/-! ### Leaving a word -/

theorem closeLoops_eq (t : Thr) (n : Nat) : ∃ P, t.closeLoops n = { t with loops := P } := ⟨_, rfl⟩

theorem Thr.Moved.trans {t u v : Thr} (h : t.Moved u) (g : u.Moved v) : t.Moved v := by
  unfold Thr.Moved at *; rw [g, h]

theorem modLanes_moved (t : Thr) (m : Word) (f : Lane → Lane) : t.Moved (t.modLanes m f) := by unfold Thr.Moved; rfl

theorem loopStep_moved (s : State) (core bctx : Nat) (b : Blk) (t : Thr) (n : Nat) : t.Moved (t.loopStep s core bctx b n) := by
  unfold Thr.loopStep Thr.Moved
  dsimp only
  split
  · rfl
  · split
    · split <;> rfl
    · rfl

/-- Leaving a word changes only where the party's lanes stand, and its loops. -/
theorem retire_moves {s : State} {c : Cur} {b : Blk} {t : Thr} (hb : s.blk? c.core c.bctx = some b)
    (ht : b.thr? c.w = some t) (he : c.EndsWell t) (m : Word) :
    ∃ t', t.Moved t' ∧ s.retire c m = s.setBlk c.core c.bctx (b.setThr c.w t') := by
  unfold State.retire
  split
  · exact ⟨_, modLanes_moved .., modThr_eq hb ht _⟩
  · next h1 =>
    split
    · next h2 =>
      unfold State.endClause
      simp only [hb, ht]
      split
      · exact ⟨_, modLanes_moved .., rfl⟩
      · next h3 =>
        have h4 : t.innermost = some ((fld c.hdr 19 2 : BitVec 2).toNat - 1) := by
          rcases he with h | h | h | h
          · omega
          · simp [h2] at h
          · exact absurd (by simp [h]) h3
          · exact h
        simp only [h4, ne_eq, not_true_eq_false, and_false, if_false]
        refine ⟨_, ?_, rfl⟩
        exact ((modLanes_moved ..).trans (modLanes_moved ..)).trans (loopStep_moved ..)
    · exact ⟨_, modLanes_moved .., modThr_eq hb ht _⟩

theorem Thr.Moved.reg {t t' : Thr} (h : t.Moved t') (r l : Nat) : t'.reg r l = t.reg r l := by rw [h]; rfl
theorem Thr.Moved.pred {t t' : Thr} (h : t.Moved t') (n l : Nat) : t'.pred n l = t.pred n l := by rw [h]; rfl
theorem Thr.RowsOnly.moved {t u v : Thr} (h : t.RowsOnly u) (g : u.Moved v) : t.RowsOnly v := by
  unfold Thr.RowsOnly Thr.Moved at *; rw [g, h]
theorem Thr.PredsOnly.moved {t u v : Thr} (h : t.PredsOnly u) (g : u.Moved v) : t.PredsOnly v := by
  unfold Thr.PredsOnly Thr.Moved at *; rw [g, h]

/-! ### Register-only lane words -/

/-- A register-only lane word that stands ready completes: its party becomes what `f` gives, moved on, and nothing else but
the recorder changes. -/
theorem laneAlu_completes {s : State} {c : Cur} {b : Blk} {t : Thr} {i : Instr} {w : LaneW}
    (h : LaneReady s c b t i w) (f : Cur → Blk → Thr → Word → Thr)
    (hf : (f c b t (activeLanes c t w.g)).loops = t.loops) :
    ∃ u t', laneAlu i w s f = .next u ∧ PartyOnly s u c b t' ∧ (f c b t (activeLanes c t w.g)).Moved t' := by
  unfold laneAlu laneWordOp withParty
  have ho : s.uniTurn c b (laneUnis i w) = true := h.turn
  simp only [h.cur, h.blk, h.thr, h.gate, ho, Bool.not_true, Bool.false_eq_true, and_false, if_false]
  generalize hs1 : (if activeLanes c t w.g = 0 then s else s.noteUnis c b (laneUnis i w) false) = s1
  have h1 : RecdOnly s s1 := by
    rw [← hs1]; split
    · exact .refl s
    · exact noteUnis_recdOnly h.live ..
  have hb : s1.blk? c.core c.bctx = some b := (h1.blk? ..).trans h.blk
  rw [modThr_eq hb h.thr]
  have he : c.EndsWell (f c b t (activeLanes c t w.g)) := by
    have := h.ends
    unfold Cur.EndsWell Thr.innermost Thr.loop at this ⊢
    rwa [hf]
  obtain ⟨t', hm, hr⟩ := retire_moves (s := s1.setBlk c.core c.bctx (b.setThr c.w (f c b t (activeLanes c t w.g))))
    (blk?_setBlk ..) (thr?_setThr ..) he c.lanes
  refine ⟨_, t', rfl, ?_, hm⟩
  rw [hr]
  simp only [setBlk_setBlk, setThr_setThr]
  constructor
  · rw [h1.same]; rfl
  · intro a; rw [h1.same]; rfl

/-- A register-only lane word with a 32-bit result. -/
theorem laneOut_completes {s : State} {c : Cur} {b : Blk} {t : Thr} {i : Instr} {w : LaneW}
    (h : LaneReady s c b t i w) (f : Cur → Blk → Thr → Nat → Word) :
    ∃ u t', laneOut i w s f = .next u ∧ PartyOnly s u c b t' ∧
      t.Wrote t' (activeLanes c t w.g) w.vd.toNat (f c b t) := by
  obtain ⟨u, t', h1, h2, h3⟩ := laneAlu_completes h (fun c b t act => t.putRow w.vd.toNat act (f c b t)) rfl
  refine ⟨u, t', h1, h2, (putRow_rowsOnly ..).moved h3, ?_⟩
  intro r l hl
  rw [h3.reg, reg_putRow _ _ _ _ _ _ hl]

/-- A register-only lane word with a 64-bit result. -/
theorem laneOut64_completes {s : State} {c : Cur} {b : Blk} {t : Thr} {i : Instr} {w : LaneW}
    (h : LaneReady s c b t i w) (f : Cur → Blk → Thr → Nat → DWord) :
    ∃ u t', laneOut64 i w s f = .next u ∧ PartyOnly s u c b t' ∧
      t.WrotePair t' (activeLanes c t w.g) w.vd.toNat (f c b t) := by
  obtain ⟨u, t', h1, h2, h3⟩ := laneAlu_completes h (fun c b t act => t.putPair w.vd.toNat act (f c b t)) rfl
  refine ⟨u, t', h1, h2, Thr.RowsOnly.moved (putPair_rowsOnly ..) h3, ?_⟩
  intro r l hl
  rw [h3.reg, reg_putPair _ _ _ _ _ _ hl]

end Sys2Proof.Machine
end

