-- ==== Sys2Proof/Laws/Float.lean ====
section
/-! SUPPORT. Laws of the floating words' shared shape: the flags they set, and how one without an enabled exception
completes. -/

namespace Sys2Proof.Machine

theorem fpFlags_bit (m : Word) (r : Nat → FRes) (k : Nat) :
    (fpFlags m r).getLsbD k = (maskLanes m).any fun l => (r l).exc.bits.getLsbD k := by
  unfold fpFlags
  have key : ∀ (ls : List Nat) (e : BitVec 5), (ls.foldl (fun e l => e ||| (r l).exc.bits) e).getLsbD k
      = (e.getLsbD k || ls.any fun l => (r l).exc.bits.getLsbD k) := by
    intro ls
    induction ls with
    | nil => intro e; simp
    | cons l t ih => intro e; rw [List.foldl_cons, ih, BitVec.getLsbD_or, List.any_cons, Bool.or_assoc]
  rw [key]; simp

theorem setSticky_bit (frm : Word) (m : Word) (r : Nat → FRes) (k : Nat) :
    (setSticky frm (fpFlags m r)).getLsbD k =
      (frm.getLsbD k || (decide (8 ≤ k) && (maskLanes m).any fun l => (r l).exc.bits.getLsbD (k - 8))) := by
  unfold setSticky
  rw [BitVec.getLsbD_or, BitVec.getLsbD_shiftLeft, BitVec.getLsbD_setWidth, fpFlags_bit]
  congr 1
  by_cases h : 8 ≤ k
  · have h1 : ¬ k < 8 := by omega
    simp only [h1, h, decide_false, Bool.not_false, Bool.and_true, decide_true, Bool.true_and]
    by_cases h2 : k < 32
    · have h3 : k - 8 < 32 := by omega
      simp [h2, h3]
    · have h3 : (maskLanes m).any (fun l => (r l).exc.bits.getLsbD (k - 8)) = false := by
        rw [List.any_eq_false]; intro l _; rw [BitVec.getLsbD_of_ge _ _ (by omega)]; simp
      simp [h2, h3]
  · have h1 : k < 8 := by omega
    simp [h, h1]

theorem fpBad_bit (c : Cur) (t : Thr) (act : Word) (r : Nat → FRes) (l : Nat) (hl : l < 32) :
    (fpBad c t act r).getLsbD l = (act.getLsbD l && fpTraps t.frm (t.privileged c.lanes) (r l).exc) := by
  unfold fpBad; rw [BitVec.getLsbD_and, getLsbD_maskOf _ _ hl]

theorem fpBad_untrapped {c : Cur} {t : Thr} {act : Word} {r : Nat → FRes} (h : Untrapped c t act r) :
    fpBad c t act r = 0 := by
  apply BitVec.eq_of_getLsbD_eq
  intro l hl
  rw [fpBad_bit _ _ _ _ _ hl]
  by_cases ha : act.getLsbD l = true
  · rw [h l hl ha]; simp
  · simp [ha]

/-- A floating word that stands ready and meets no enabled exception completes: its party becomes what `put` gives with the
flags set, moved on. -/
theorem laneFp_completes {s : State} {c : Cur} {b : Blk} {t : Thr} {i : Instr} {w : LaneW} (h : LaneReady s c b t i w)
    (r : Cur → Blk → Thr → Nat → FRes) (put : Thr → Word → (Nat → Nat) → Thr)
    (hu : Untrapped c t (activeLanes c t w.g) (r c b t)) (hp : ∀ t m v, (put t m v).loops = t.loops) :
    ∃ u t', laneFp i w s r put = .next u ∧ PartyOnly s u c b t' ∧
      (put { t with frm := setSticky t.frm (fpFlags (activeLanes c t w.g) (r c b t)) } (activeLanes c t w.g)
        fun l => (r c b t l).val).Moved t' := by
  unfold laneFp laneWordOp withParty
  have hz : activeLanes c t w.g &&& ~~~(0 : Word) = activeLanes c t w.g := by
    rw [show (~~~(0 : Word)) = BitVec.allOnes 32 from rfl, BitVec.and_allOnes]
  have ho : s.uniTurn c b (laneUnis i w) = true := h.turn
  simp only [h.cur, h.blk, h.thr, h.gate, ho, Bool.not_true, Bool.false_eq_true, and_false, if_false, fpBad_untrapped hu, hz,
    State.retireFp, if_true]
  generalize hs1 : (if activeLanes c t w.g = 0 then s else s.noteUnis c b (laneUnis i w) false) = s1
  have h1 : RecdOnly s s1 := by
    rw [← hs1]; split
    · exact .refl s
    · exact noteUnis_recdOnly h.live ..
  have hb : s1.blk? c.core c.bctx = some b := (h1.blk? ..).trans h.blk
  rw [modThr_eq hb h.thr]
  generalize ht1 : put { t with frm := setSticky t.frm (fpFlags (activeLanes c t w.g) (r c b t)) } (activeLanes c t w.g)
    (fun l => (r c b t l).val) = t1
  have he : c.EndsWell t1 := by
    have h2 : t1.loops = t.loops := by rw [← ht1, hp]
    have := h.ends
    unfold Cur.EndsWell Thr.innermost Thr.loop at this ⊢
    rwa [h2]
  obtain ⟨t', hm, hr⟩ := retire_moves (s := s1.setBlk c.core c.bctx (b.setThr c.w t1)) (blk?_setBlk ..) (thr?_setThr ..) he
    c.lanes
  refine ⟨_, t', rfl, ?_, hm⟩
  rw [hr]
  simp only [setBlk_setBlk, setThr_setThr]
  constructor
  · rw [h1.same]; rfl
  · intro a; rw [h1.same]; rfl

end Sys2Proof.Machine
end

