-- ==== Sys2Proof/Laws/State.lean ====
section
/-! SUPPORT. What each small update of the state leaves alone, one lemma per field and update, and what it writes, so that no
proof unfolds a record update. -/

namespace Sys2Proof.Machine

/-! #### State.bump writes `fresh` alone -/

@[simp] theorem bump_tick (s : State) : s.bump.tick = s.tick := rfl
@[simp] theorem bump_inputs (s : State) : s.bump.inputs = s.inputs := rfl
@[simp] theorem bump_arg (s : State) : s.bump.arg = s.arg := rfl
@[simp] theorem bump_focus (s : State) : s.bump.focus = s.focus := rfl
@[simp] theorem bump_rr (s : State) : s.bump.rr = s.rr := rfl
@[simp] theorem bump_cur (s : State) : s.bump.cur = s.cur := rfl
@[simp] theorem bump_cycle (s : State) : s.bump.cycle = s.cycle := rfl
@[simp] theorem bump_outbox (s : State) : s.bump.outbox = s.outbox := rfl
@[simp] theorem bump_nextId (s : State) : s.bump.nextId = s.nextId := rfl
@[simp] theorem bump_dev (s : State) : s.bump.dev = s.dev := rfl
@[simp] theorem bump_links (s : State) : s.bump.links = s.links := rfl
@[simp] theorem bump_mem (s : State) : s.bump.mem = s.mem := rfl
@[simp] theorem bump_cal (s : State) : s.bump.cal = s.cal := rfl
@[simp] theorem bump_host (s : State) : s.bump.host = s.host := rfl
@[simp] theorem bump_xl (s : State) : s.bump.xl = s.xl := rfl
@[simp] theorem bump_stoker (s : State) : s.bump.stoker = s.stoker := rfl
@[simp] theorem bump_recd (s : State) : s.bump.recd = s.recd := rfl
@[simp] theorem bump_trace (s : State) : s.bump.trace = s.trace := rfl
@[simp] theorem bump_stepctl (s : State) : s.bump.stepctl = s.stepctl := rfl
@[simp] theorem bump_watch (s : State) : s.bump.watch = s.watch := rfl
@[simp] theorem bump_clusters (s : State) : s.bump.clusters = s.clusters := rfl
@[simp] theorem bump_cores (s : State) : s.bump.cores = s.cores := rfl
@[simp] theorem bump_blks (s : State) : s.bump.blks = s.blks := rfl
@[simp] theorem bump_tls (s : State) : s.bump.tls = s.tls := rfl
@[simp] theorem bump_phasers (s : State) : s.bump.phasers = s.phasers := rfl
@[simp] theorem bump_reqs (s : State) : s.bump.reqs = s.reqs := rfl
@[simp] theorem bump_rels (s : State) : s.bump.rels = s.rels := rfl
@[simp] theorem bump_sfu (s : State) : s.bump.sfu = s.sfu := rfl
@[simp] theorem bump_cmds (s : State) : s.bump.cmds = s.cmds := rfl
@[simp] theorem bump_mcmds (s : State) : s.bump.mcmds = s.mcmds := rfl
@[simp] theorem bump_colls (s : State) : s.bump.colls = s.colls := rfl

/-! #### State.emit writes `outbox` alone -/

@[simp] theorem emit_tick (s : State) (o : Out) : (s.emit o).tick = s.tick := rfl
@[simp] theorem emit_inputs (s : State) (o : Out) : (s.emit o).inputs = s.inputs := rfl
@[simp] theorem emit_arg (s : State) (o : Out) : (s.emit o).arg = s.arg := rfl
@[simp] theorem emit_focus (s : State) (o : Out) : (s.emit o).focus = s.focus := rfl
@[simp] theorem emit_rr (s : State) (o : Out) : (s.emit o).rr = s.rr := rfl
@[simp] theorem emit_fresh (s : State) (o : Out) : (s.emit o).fresh = s.fresh := rfl
@[simp] theorem emit_cur (s : State) (o : Out) : (s.emit o).cur = s.cur := rfl
@[simp] theorem emit_cycle (s : State) (o : Out) : (s.emit o).cycle = s.cycle := rfl
@[simp] theorem emit_nextId (s : State) (o : Out) : (s.emit o).nextId = s.nextId := rfl
@[simp] theorem emit_dev (s : State) (o : Out) : (s.emit o).dev = s.dev := rfl
@[simp] theorem emit_links (s : State) (o : Out) : (s.emit o).links = s.links := rfl
@[simp] theorem emit_mem (s : State) (o : Out) : (s.emit o).mem = s.mem := rfl
@[simp] theorem emit_cal (s : State) (o : Out) : (s.emit o).cal = s.cal := rfl
@[simp] theorem emit_host (s : State) (o : Out) : (s.emit o).host = s.host := rfl
@[simp] theorem emit_xl (s : State) (o : Out) : (s.emit o).xl = s.xl := rfl
@[simp] theorem emit_stoker (s : State) (o : Out) : (s.emit o).stoker = s.stoker := rfl
@[simp] theorem emit_recd (s : State) (o : Out) : (s.emit o).recd = s.recd := rfl
@[simp] theorem emit_trace (s : State) (o : Out) : (s.emit o).trace = s.trace := rfl
@[simp] theorem emit_stepctl (s : State) (o : Out) : (s.emit o).stepctl = s.stepctl := rfl
@[simp] theorem emit_watch (s : State) (o : Out) : (s.emit o).watch = s.watch := rfl
@[simp] theorem emit_clusters (s : State) (o : Out) : (s.emit o).clusters = s.clusters := rfl
@[simp] theorem emit_cores (s : State) (o : Out) : (s.emit o).cores = s.cores := rfl
@[simp] theorem emit_blks (s : State) (o : Out) : (s.emit o).blks = s.blks := rfl
@[simp] theorem emit_tls (s : State) (o : Out) : (s.emit o).tls = s.tls := rfl
@[simp] theorem emit_phasers (s : State) (o : Out) : (s.emit o).phasers = s.phasers := rfl
@[simp] theorem emit_reqs (s : State) (o : Out) : (s.emit o).reqs = s.reqs := rfl
@[simp] theorem emit_rels (s : State) (o : Out) : (s.emit o).rels = s.rels := rfl
@[simp] theorem emit_sfu (s : State) (o : Out) : (s.emit o).sfu = s.sfu := rfl
@[simp] theorem emit_cmds (s : State) (o : Out) : (s.emit o).cmds = s.cmds := rfl
@[simp] theorem emit_mcmds (s : State) (o : Out) : (s.emit o).mcmds = s.mcmds := rfl
@[simp] theorem emit_colls (s : State) (o : Out) : (s.emit o).colls = s.colls := rfl

/-! #### State.setBlk writes `blks` alone -/

@[simp] theorem setBlk_tick (s : State) (core bctx : Nat) (b : Blk) : (s.setBlk core bctx b).tick = s.tick := rfl
@[simp] theorem setBlk_inputs (s : State) (core bctx : Nat) (b : Blk) : (s.setBlk core bctx b).inputs = s.inputs := rfl
@[simp] theorem setBlk_arg (s : State) (core bctx : Nat) (b : Blk) : (s.setBlk core bctx b).arg = s.arg := rfl
@[simp] theorem setBlk_focus (s : State) (core bctx : Nat) (b : Blk) : (s.setBlk core bctx b).focus = s.focus := rfl
@[simp] theorem setBlk_rr (s : State) (core bctx : Nat) (b : Blk) : (s.setBlk core bctx b).rr = s.rr := rfl
@[simp] theorem setBlk_fresh (s : State) (core bctx : Nat) (b : Blk) : (s.setBlk core bctx b).fresh = s.fresh := rfl
@[simp] theorem setBlk_cur (s : State) (core bctx : Nat) (b : Blk) : (s.setBlk core bctx b).cur = s.cur := rfl
@[simp] theorem setBlk_cycle (s : State) (core bctx : Nat) (b : Blk) : (s.setBlk core bctx b).cycle = s.cycle := rfl
@[simp] theorem setBlk_outbox (s : State) (core bctx : Nat) (b : Blk) : (s.setBlk core bctx b).outbox = s.outbox := rfl
@[simp] theorem setBlk_nextId (s : State) (core bctx : Nat) (b : Blk) : (s.setBlk core bctx b).nextId = s.nextId := rfl
@[simp] theorem setBlk_dev (s : State) (core bctx : Nat) (b : Blk) : (s.setBlk core bctx b).dev = s.dev := rfl
@[simp] theorem setBlk_links (s : State) (core bctx : Nat) (b : Blk) : (s.setBlk core bctx b).links = s.links := rfl
@[simp] theorem setBlk_mem (s : State) (core bctx : Nat) (b : Blk) : (s.setBlk core bctx b).mem = s.mem := rfl
@[simp] theorem setBlk_cal (s : State) (core bctx : Nat) (b : Blk) : (s.setBlk core bctx b).cal = s.cal := rfl
@[simp] theorem setBlk_host (s : State) (core bctx : Nat) (b : Blk) : (s.setBlk core bctx b).host = s.host := rfl
@[simp] theorem setBlk_xl (s : State) (core bctx : Nat) (b : Blk) : (s.setBlk core bctx b).xl = s.xl := rfl
@[simp] theorem setBlk_stoker (s : State) (core bctx : Nat) (b : Blk) : (s.setBlk core bctx b).stoker = s.stoker := rfl
@[simp] theorem setBlk_recd (s : State) (core bctx : Nat) (b : Blk) : (s.setBlk core bctx b).recd = s.recd := rfl
@[simp] theorem setBlk_trace (s : State) (core bctx : Nat) (b : Blk) : (s.setBlk core bctx b).trace = s.trace := rfl
@[simp] theorem setBlk_stepctl (s : State) (core bctx : Nat) (b : Blk) : (s.setBlk core bctx b).stepctl = s.stepctl := rfl
@[simp] theorem setBlk_watch (s : State) (core bctx : Nat) (b : Blk) : (s.setBlk core bctx b).watch = s.watch := rfl
@[simp] theorem setBlk_clusters (s : State) (core bctx : Nat) (b : Blk) : (s.setBlk core bctx b).clusters = s.clusters := rfl
@[simp] theorem setBlk_cores (s : State) (core bctx : Nat) (b : Blk) : (s.setBlk core bctx b).cores = s.cores := rfl
@[simp] theorem setBlk_tls (s : State) (core bctx : Nat) (b : Blk) : (s.setBlk core bctx b).tls = s.tls := rfl
@[simp] theorem setBlk_phasers (s : State) (core bctx : Nat) (b : Blk) : (s.setBlk core bctx b).phasers = s.phasers := rfl
@[simp] theorem setBlk_reqs (s : State) (core bctx : Nat) (b : Blk) : (s.setBlk core bctx b).reqs = s.reqs := rfl
@[simp] theorem setBlk_rels (s : State) (core bctx : Nat) (b : Blk) : (s.setBlk core bctx b).rels = s.rels := rfl
@[simp] theorem setBlk_sfu (s : State) (core bctx : Nat) (b : Blk) : (s.setBlk core bctx b).sfu = s.sfu := rfl
@[simp] theorem setBlk_cmds (s : State) (core bctx : Nat) (b : Blk) : (s.setBlk core bctx b).cmds = s.cmds := rfl
@[simp] theorem setBlk_mcmds (s : State) (core bctx : Nat) (b : Blk) : (s.setBlk core bctx b).mcmds = s.mcmds := rfl
@[simp] theorem setBlk_colls (s : State) (core bctx : Nat) (b : Blk) : (s.setBlk core bctx b).colls = s.colls := rfl

/-! #### State.modBlk writes `blks` alone -/

@[simp] theorem modBlk_tick (s : State) (core bctx : Nat) (f : Blk → Blk) : (s.modBlk core bctx f).tick = s.tick := by unfold State.modBlk; split <;> rfl
@[simp] theorem modBlk_inputs (s : State) (core bctx : Nat) (f : Blk → Blk) : (s.modBlk core bctx f).inputs = s.inputs := by unfold State.modBlk; split <;> rfl
@[simp] theorem modBlk_arg (s : State) (core bctx : Nat) (f : Blk → Blk) : (s.modBlk core bctx f).arg = s.arg := by unfold State.modBlk; split <;> rfl
@[simp] theorem modBlk_focus (s : State) (core bctx : Nat) (f : Blk → Blk) : (s.modBlk core bctx f).focus = s.focus := by unfold State.modBlk; split <;> rfl
@[simp] theorem modBlk_rr (s : State) (core bctx : Nat) (f : Blk → Blk) : (s.modBlk core bctx f).rr = s.rr := by unfold State.modBlk; split <;> rfl
@[simp] theorem modBlk_fresh (s : State) (core bctx : Nat) (f : Blk → Blk) : (s.modBlk core bctx f).fresh = s.fresh := by unfold State.modBlk; split <;> rfl
@[simp] theorem modBlk_cur (s : State) (core bctx : Nat) (f : Blk → Blk) : (s.modBlk core bctx f).cur = s.cur := by unfold State.modBlk; split <;> rfl
@[simp] theorem modBlk_cycle (s : State) (core bctx : Nat) (f : Blk → Blk) : (s.modBlk core bctx f).cycle = s.cycle := by unfold State.modBlk; split <;> rfl
@[simp] theorem modBlk_outbox (s : State) (core bctx : Nat) (f : Blk → Blk) : (s.modBlk core bctx f).outbox = s.outbox := by unfold State.modBlk; split <;> rfl
@[simp] theorem modBlk_nextId (s : State) (core bctx : Nat) (f : Blk → Blk) : (s.modBlk core bctx f).nextId = s.nextId := by unfold State.modBlk; split <;> rfl
@[simp] theorem modBlk_dev (s : State) (core bctx : Nat) (f : Blk → Blk) : (s.modBlk core bctx f).dev = s.dev := by unfold State.modBlk; split <;> rfl
@[simp] theorem modBlk_links (s : State) (core bctx : Nat) (f : Blk → Blk) : (s.modBlk core bctx f).links = s.links := by unfold State.modBlk; split <;> rfl
@[simp] theorem modBlk_mem (s : State) (core bctx : Nat) (f : Blk → Blk) : (s.modBlk core bctx f).mem = s.mem := by unfold State.modBlk; split <;> rfl
@[simp] theorem modBlk_cal (s : State) (core bctx : Nat) (f : Blk → Blk) : (s.modBlk core bctx f).cal = s.cal := by unfold State.modBlk; split <;> rfl
@[simp] theorem modBlk_host (s : State) (core bctx : Nat) (f : Blk → Blk) : (s.modBlk core bctx f).host = s.host := by unfold State.modBlk; split <;> rfl
@[simp] theorem modBlk_xl (s : State) (core bctx : Nat) (f : Blk → Blk) : (s.modBlk core bctx f).xl = s.xl := by unfold State.modBlk; split <;> rfl
@[simp] theorem modBlk_stoker (s : State) (core bctx : Nat) (f : Blk → Blk) : (s.modBlk core bctx f).stoker = s.stoker := by unfold State.modBlk; split <;> rfl
@[simp] theorem modBlk_recd (s : State) (core bctx : Nat) (f : Blk → Blk) : (s.modBlk core bctx f).recd = s.recd := by unfold State.modBlk; split <;> rfl
@[simp] theorem modBlk_trace (s : State) (core bctx : Nat) (f : Blk → Blk) : (s.modBlk core bctx f).trace = s.trace := by unfold State.modBlk; split <;> rfl
@[simp] theorem modBlk_stepctl (s : State) (core bctx : Nat) (f : Blk → Blk) : (s.modBlk core bctx f).stepctl = s.stepctl := by unfold State.modBlk; split <;> rfl
@[simp] theorem modBlk_watch (s : State) (core bctx : Nat) (f : Blk → Blk) : (s.modBlk core bctx f).watch = s.watch := by unfold State.modBlk; split <;> rfl
@[simp] theorem modBlk_clusters (s : State) (core bctx : Nat) (f : Blk → Blk) : (s.modBlk core bctx f).clusters = s.clusters := by unfold State.modBlk; split <;> rfl
@[simp] theorem modBlk_cores (s : State) (core bctx : Nat) (f : Blk → Blk) : (s.modBlk core bctx f).cores = s.cores := by unfold State.modBlk; split <;> rfl
@[simp] theorem modBlk_tls (s : State) (core bctx : Nat) (f : Blk → Blk) : (s.modBlk core bctx f).tls = s.tls := by unfold State.modBlk; split <;> rfl
@[simp] theorem modBlk_phasers (s : State) (core bctx : Nat) (f : Blk → Blk) : (s.modBlk core bctx f).phasers = s.phasers := by unfold State.modBlk; split <;> rfl
@[simp] theorem modBlk_reqs (s : State) (core bctx : Nat) (f : Blk → Blk) : (s.modBlk core bctx f).reqs = s.reqs := by unfold State.modBlk; split <;> rfl
@[simp] theorem modBlk_rels (s : State) (core bctx : Nat) (f : Blk → Blk) : (s.modBlk core bctx f).rels = s.rels := by unfold State.modBlk; split <;> rfl
@[simp] theorem modBlk_sfu (s : State) (core bctx : Nat) (f : Blk → Blk) : (s.modBlk core bctx f).sfu = s.sfu := by unfold State.modBlk; split <;> rfl
@[simp] theorem modBlk_cmds (s : State) (core bctx : Nat) (f : Blk → Blk) : (s.modBlk core bctx f).cmds = s.cmds := by unfold State.modBlk; split <;> rfl
@[simp] theorem modBlk_mcmds (s : State) (core bctx : Nat) (f : Blk → Blk) : (s.modBlk core bctx f).mcmds = s.mcmds := by unfold State.modBlk; split <;> rfl
@[simp] theorem modBlk_colls (s : State) (core bctx : Nat) (f : Blk → Blk) : (s.modBlk core bctx f).colls = s.colls := by unfold State.modBlk; split <;> rfl

/-! #### State.modThr writes `blks` alone -/

@[simp] theorem modThr_tick (s : State) (core bctx w : Nat) (f : Thr → Thr) : (s.modThr core bctx w f).tick = s.tick := modBlk_tick ..
@[simp] theorem modThr_inputs (s : State) (core bctx w : Nat) (f : Thr → Thr) : (s.modThr core bctx w f).inputs = s.inputs := modBlk_inputs ..
@[simp] theorem modThr_arg (s : State) (core bctx w : Nat) (f : Thr → Thr) : (s.modThr core bctx w f).arg = s.arg := modBlk_arg ..
@[simp] theorem modThr_focus (s : State) (core bctx w : Nat) (f : Thr → Thr) : (s.modThr core bctx w f).focus = s.focus := modBlk_focus ..
@[simp] theorem modThr_rr (s : State) (core bctx w : Nat) (f : Thr → Thr) : (s.modThr core bctx w f).rr = s.rr := modBlk_rr ..
@[simp] theorem modThr_fresh (s : State) (core bctx w : Nat) (f : Thr → Thr) : (s.modThr core bctx w f).fresh = s.fresh := modBlk_fresh ..
@[simp] theorem modThr_cur (s : State) (core bctx w : Nat) (f : Thr → Thr) : (s.modThr core bctx w f).cur = s.cur := modBlk_cur ..
@[simp] theorem modThr_cycle (s : State) (core bctx w : Nat) (f : Thr → Thr) : (s.modThr core bctx w f).cycle = s.cycle := modBlk_cycle ..
@[simp] theorem modThr_outbox (s : State) (core bctx w : Nat) (f : Thr → Thr) : (s.modThr core bctx w f).outbox = s.outbox := modBlk_outbox ..
@[simp] theorem modThr_nextId (s : State) (core bctx w : Nat) (f : Thr → Thr) : (s.modThr core bctx w f).nextId = s.nextId := modBlk_nextId ..
@[simp] theorem modThr_dev (s : State) (core bctx w : Nat) (f : Thr → Thr) : (s.modThr core bctx w f).dev = s.dev := modBlk_dev ..
@[simp] theorem modThr_links (s : State) (core bctx w : Nat) (f : Thr → Thr) : (s.modThr core bctx w f).links = s.links := modBlk_links ..
@[simp] theorem modThr_mem (s : State) (core bctx w : Nat) (f : Thr → Thr) : (s.modThr core bctx w f).mem = s.mem := modBlk_mem ..
@[simp] theorem modThr_cal (s : State) (core bctx w : Nat) (f : Thr → Thr) : (s.modThr core bctx w f).cal = s.cal := modBlk_cal ..
@[simp] theorem modThr_host (s : State) (core bctx w : Nat) (f : Thr → Thr) : (s.modThr core bctx w f).host = s.host := modBlk_host ..
@[simp] theorem modThr_xl (s : State) (core bctx w : Nat) (f : Thr → Thr) : (s.modThr core bctx w f).xl = s.xl := modBlk_xl ..
@[simp] theorem modThr_stoker (s : State) (core bctx w : Nat) (f : Thr → Thr) : (s.modThr core bctx w f).stoker = s.stoker := modBlk_stoker ..
@[simp] theorem modThr_recd (s : State) (core bctx w : Nat) (f : Thr → Thr) : (s.modThr core bctx w f).recd = s.recd := modBlk_recd ..
@[simp] theorem modThr_trace (s : State) (core bctx w : Nat) (f : Thr → Thr) : (s.modThr core bctx w f).trace = s.trace := modBlk_trace ..
@[simp] theorem modThr_stepctl (s : State) (core bctx w : Nat) (f : Thr → Thr) : (s.modThr core bctx w f).stepctl = s.stepctl := modBlk_stepctl ..
@[simp] theorem modThr_watch (s : State) (core bctx w : Nat) (f : Thr → Thr) : (s.modThr core bctx w f).watch = s.watch := modBlk_watch ..
@[simp] theorem modThr_clusters (s : State) (core bctx w : Nat) (f : Thr → Thr) : (s.modThr core bctx w f).clusters = s.clusters := modBlk_clusters ..
@[simp] theorem modThr_cores (s : State) (core bctx w : Nat) (f : Thr → Thr) : (s.modThr core bctx w f).cores = s.cores := modBlk_cores ..
@[simp] theorem modThr_tls (s : State) (core bctx w : Nat) (f : Thr → Thr) : (s.modThr core bctx w f).tls = s.tls := modBlk_tls ..
@[simp] theorem modThr_phasers (s : State) (core bctx w : Nat) (f : Thr → Thr) : (s.modThr core bctx w f).phasers = s.phasers := modBlk_phasers ..
@[simp] theorem modThr_reqs (s : State) (core bctx w : Nat) (f : Thr → Thr) : (s.modThr core bctx w f).reqs = s.reqs := modBlk_reqs ..
@[simp] theorem modThr_rels (s : State) (core bctx w : Nat) (f : Thr → Thr) : (s.modThr core bctx w f).rels = s.rels := modBlk_rels ..
@[simp] theorem modThr_sfu (s : State) (core bctx w : Nat) (f : Thr → Thr) : (s.modThr core bctx w f).sfu = s.sfu := modBlk_sfu ..
@[simp] theorem modThr_cmds (s : State) (core bctx w : Nat) (f : Thr → Thr) : (s.modThr core bctx w f).cmds = s.cmds := modBlk_cmds ..
@[simp] theorem modThr_mcmds (s : State) (core bctx w : Nat) (f : Thr → Thr) : (s.modThr core bctx w f).mcmds = s.mcmds := modBlk_mcmds ..
@[simp] theorem modThr_colls (s : State) (core bctx w : Nat) (f : Thr → Thr) : (s.modThr core bctx w f).colls = s.colls := modBlk_colls ..

/-! #### State.setCore writes `cores` alone -/

@[simp] theorem setCore_tick (s : State) (core : Nat) (k : Core) : (s.setCore core k).tick = s.tick := rfl
@[simp] theorem setCore_inputs (s : State) (core : Nat) (k : Core) : (s.setCore core k).inputs = s.inputs := rfl
@[simp] theorem setCore_arg (s : State) (core : Nat) (k : Core) : (s.setCore core k).arg = s.arg := rfl
@[simp] theorem setCore_focus (s : State) (core : Nat) (k : Core) : (s.setCore core k).focus = s.focus := rfl
@[simp] theorem setCore_rr (s : State) (core : Nat) (k : Core) : (s.setCore core k).rr = s.rr := rfl
@[simp] theorem setCore_fresh (s : State) (core : Nat) (k : Core) : (s.setCore core k).fresh = s.fresh := rfl
@[simp] theorem setCore_cur (s : State) (core : Nat) (k : Core) : (s.setCore core k).cur = s.cur := rfl
@[simp] theorem setCore_cycle (s : State) (core : Nat) (k : Core) : (s.setCore core k).cycle = s.cycle := rfl
@[simp] theorem setCore_outbox (s : State) (core : Nat) (k : Core) : (s.setCore core k).outbox = s.outbox := rfl
@[simp] theorem setCore_nextId (s : State) (core : Nat) (k : Core) : (s.setCore core k).nextId = s.nextId := rfl
@[simp] theorem setCore_dev (s : State) (core : Nat) (k : Core) : (s.setCore core k).dev = s.dev := rfl
@[simp] theorem setCore_links (s : State) (core : Nat) (k : Core) : (s.setCore core k).links = s.links := rfl
@[simp] theorem setCore_mem (s : State) (core : Nat) (k : Core) : (s.setCore core k).mem = s.mem := rfl
@[simp] theorem setCore_cal (s : State) (core : Nat) (k : Core) : (s.setCore core k).cal = s.cal := rfl
@[simp] theorem setCore_host (s : State) (core : Nat) (k : Core) : (s.setCore core k).host = s.host := rfl
@[simp] theorem setCore_xl (s : State) (core : Nat) (k : Core) : (s.setCore core k).xl = s.xl := rfl
@[simp] theorem setCore_stoker (s : State) (core : Nat) (k : Core) : (s.setCore core k).stoker = s.stoker := rfl
@[simp] theorem setCore_recd (s : State) (core : Nat) (k : Core) : (s.setCore core k).recd = s.recd := rfl
@[simp] theorem setCore_trace (s : State) (core : Nat) (k : Core) : (s.setCore core k).trace = s.trace := rfl
@[simp] theorem setCore_stepctl (s : State) (core : Nat) (k : Core) : (s.setCore core k).stepctl = s.stepctl := rfl
@[simp] theorem setCore_watch (s : State) (core : Nat) (k : Core) : (s.setCore core k).watch = s.watch := rfl
@[simp] theorem setCore_clusters (s : State) (core : Nat) (k : Core) : (s.setCore core k).clusters = s.clusters := rfl
@[simp] theorem setCore_blks (s : State) (core : Nat) (k : Core) : (s.setCore core k).blks = s.blks := rfl
@[simp] theorem setCore_tls (s : State) (core : Nat) (k : Core) : (s.setCore core k).tls = s.tls := rfl
@[simp] theorem setCore_phasers (s : State) (core : Nat) (k : Core) : (s.setCore core k).phasers = s.phasers := rfl
@[simp] theorem setCore_reqs (s : State) (core : Nat) (k : Core) : (s.setCore core k).reqs = s.reqs := rfl
@[simp] theorem setCore_rels (s : State) (core : Nat) (k : Core) : (s.setCore core k).rels = s.rels := rfl
@[simp] theorem setCore_sfu (s : State) (core : Nat) (k : Core) : (s.setCore core k).sfu = s.sfu := rfl
@[simp] theorem setCore_cmds (s : State) (core : Nat) (k : Core) : (s.setCore core k).cmds = s.cmds := rfl
@[simp] theorem setCore_mcmds (s : State) (core : Nat) (k : Core) : (s.setCore core k).mcmds = s.mcmds := rfl
@[simp] theorem setCore_colls (s : State) (core : Nat) (k : Core) : (s.setCore core k).colls = s.colls := rfl

/-! #### State.modReq writes `reqs` alone -/

@[simp] theorem modReq_tick (s : State) (id : Nat) (f : Req → Req) : (s.modReq id f).tick = s.tick := rfl
@[simp] theorem modReq_inputs (s : State) (id : Nat) (f : Req → Req) : (s.modReq id f).inputs = s.inputs := rfl
@[simp] theorem modReq_arg (s : State) (id : Nat) (f : Req → Req) : (s.modReq id f).arg = s.arg := rfl
@[simp] theorem modReq_focus (s : State) (id : Nat) (f : Req → Req) : (s.modReq id f).focus = s.focus := rfl
@[simp] theorem modReq_rr (s : State) (id : Nat) (f : Req → Req) : (s.modReq id f).rr = s.rr := rfl
@[simp] theorem modReq_fresh (s : State) (id : Nat) (f : Req → Req) : (s.modReq id f).fresh = s.fresh := rfl
@[simp] theorem modReq_cur (s : State) (id : Nat) (f : Req → Req) : (s.modReq id f).cur = s.cur := rfl
@[simp] theorem modReq_cycle (s : State) (id : Nat) (f : Req → Req) : (s.modReq id f).cycle = s.cycle := rfl
@[simp] theorem modReq_outbox (s : State) (id : Nat) (f : Req → Req) : (s.modReq id f).outbox = s.outbox := rfl
@[simp] theorem modReq_nextId (s : State) (id : Nat) (f : Req → Req) : (s.modReq id f).nextId = s.nextId := rfl
@[simp] theorem modReq_dev (s : State) (id : Nat) (f : Req → Req) : (s.modReq id f).dev = s.dev := rfl
@[simp] theorem modReq_links (s : State) (id : Nat) (f : Req → Req) : (s.modReq id f).links = s.links := rfl
@[simp] theorem modReq_mem (s : State) (id : Nat) (f : Req → Req) : (s.modReq id f).mem = s.mem := rfl
@[simp] theorem modReq_cal (s : State) (id : Nat) (f : Req → Req) : (s.modReq id f).cal = s.cal := rfl
@[simp] theorem modReq_host (s : State) (id : Nat) (f : Req → Req) : (s.modReq id f).host = s.host := rfl
@[simp] theorem modReq_xl (s : State) (id : Nat) (f : Req → Req) : (s.modReq id f).xl = s.xl := rfl
@[simp] theorem modReq_stoker (s : State) (id : Nat) (f : Req → Req) : (s.modReq id f).stoker = s.stoker := rfl
@[simp] theorem modReq_recd (s : State) (id : Nat) (f : Req → Req) : (s.modReq id f).recd = s.recd := rfl
@[simp] theorem modReq_trace (s : State) (id : Nat) (f : Req → Req) : (s.modReq id f).trace = s.trace := rfl
@[simp] theorem modReq_stepctl (s : State) (id : Nat) (f : Req → Req) : (s.modReq id f).stepctl = s.stepctl := rfl
@[simp] theorem modReq_watch (s : State) (id : Nat) (f : Req → Req) : (s.modReq id f).watch = s.watch := rfl
@[simp] theorem modReq_clusters (s : State) (id : Nat) (f : Req → Req) : (s.modReq id f).clusters = s.clusters := rfl
@[simp] theorem modReq_cores (s : State) (id : Nat) (f : Req → Req) : (s.modReq id f).cores = s.cores := rfl
@[simp] theorem modReq_blks (s : State) (id : Nat) (f : Req → Req) : (s.modReq id f).blks = s.blks := rfl
@[simp] theorem modReq_tls (s : State) (id : Nat) (f : Req → Req) : (s.modReq id f).tls = s.tls := rfl
@[simp] theorem modReq_phasers (s : State) (id : Nat) (f : Req → Req) : (s.modReq id f).phasers = s.phasers := rfl
@[simp] theorem modReq_rels (s : State) (id : Nat) (f : Req → Req) : (s.modReq id f).rels = s.rels := rfl
@[simp] theorem modReq_sfu (s : State) (id : Nat) (f : Req → Req) : (s.modReq id f).sfu = s.sfu := rfl
@[simp] theorem modReq_cmds (s : State) (id : Nat) (f : Req → Req) : (s.modReq id f).cmds = s.cmds := rfl
@[simp] theorem modReq_mcmds (s : State) (id : Nat) (f : Req → Req) : (s.modReq id f).mcmds = s.mcmds := rfl
@[simp] theorem modReq_colls (s : State) (id : Nat) (f : Req → Req) : (s.modReq id f).colls = s.colls := rfl

/-! #### State.dropReq writes `reqs` alone -/

@[simp] theorem dropReq_tick (s : State) (id : Nat) : (s.dropReq id).tick = s.tick := rfl
@[simp] theorem dropReq_inputs (s : State) (id : Nat) : (s.dropReq id).inputs = s.inputs := rfl
@[simp] theorem dropReq_arg (s : State) (id : Nat) : (s.dropReq id).arg = s.arg := rfl
@[simp] theorem dropReq_focus (s : State) (id : Nat) : (s.dropReq id).focus = s.focus := rfl
@[simp] theorem dropReq_rr (s : State) (id : Nat) : (s.dropReq id).rr = s.rr := rfl
@[simp] theorem dropReq_fresh (s : State) (id : Nat) : (s.dropReq id).fresh = s.fresh := rfl
@[simp] theorem dropReq_cur (s : State) (id : Nat) : (s.dropReq id).cur = s.cur := rfl
@[simp] theorem dropReq_cycle (s : State) (id : Nat) : (s.dropReq id).cycle = s.cycle := rfl
@[simp] theorem dropReq_outbox (s : State) (id : Nat) : (s.dropReq id).outbox = s.outbox := rfl
@[simp] theorem dropReq_nextId (s : State) (id : Nat) : (s.dropReq id).nextId = s.nextId := rfl
@[simp] theorem dropReq_dev (s : State) (id : Nat) : (s.dropReq id).dev = s.dev := rfl
@[simp] theorem dropReq_links (s : State) (id : Nat) : (s.dropReq id).links = s.links := rfl
@[simp] theorem dropReq_mem (s : State) (id : Nat) : (s.dropReq id).mem = s.mem := rfl
@[simp] theorem dropReq_cal (s : State) (id : Nat) : (s.dropReq id).cal = s.cal := rfl
@[simp] theorem dropReq_host (s : State) (id : Nat) : (s.dropReq id).host = s.host := rfl
@[simp] theorem dropReq_xl (s : State) (id : Nat) : (s.dropReq id).xl = s.xl := rfl
@[simp] theorem dropReq_stoker (s : State) (id : Nat) : (s.dropReq id).stoker = s.stoker := rfl
@[simp] theorem dropReq_recd (s : State) (id : Nat) : (s.dropReq id).recd = s.recd := rfl
@[simp] theorem dropReq_trace (s : State) (id : Nat) : (s.dropReq id).trace = s.trace := rfl
@[simp] theorem dropReq_stepctl (s : State) (id : Nat) : (s.dropReq id).stepctl = s.stepctl := rfl
@[simp] theorem dropReq_watch (s : State) (id : Nat) : (s.dropReq id).watch = s.watch := rfl
@[simp] theorem dropReq_clusters (s : State) (id : Nat) : (s.dropReq id).clusters = s.clusters := rfl
@[simp] theorem dropReq_cores (s : State) (id : Nat) : (s.dropReq id).cores = s.cores := rfl
@[simp] theorem dropReq_blks (s : State) (id : Nat) : (s.dropReq id).blks = s.blks := rfl
@[simp] theorem dropReq_tls (s : State) (id : Nat) : (s.dropReq id).tls = s.tls := rfl
@[simp] theorem dropReq_phasers (s : State) (id : Nat) : (s.dropReq id).phasers = s.phasers := rfl
@[simp] theorem dropReq_rels (s : State) (id : Nat) : (s.dropReq id).rels = s.rels := rfl
@[simp] theorem dropReq_sfu (s : State) (id : Nat) : (s.dropReq id).sfu = s.sfu := rfl
@[simp] theorem dropReq_cmds (s : State) (id : Nat) : (s.dropReq id).cmds = s.cmds := rfl
@[simp] theorem dropReq_mcmds (s : State) (id : Nat) : (s.dropReq id).mcmds = s.mcmds := rfl
@[simp] theorem dropReq_colls (s : State) (id : Nat) : (s.dropReq id).colls = s.colls := rfl

/-! #### State.modBank writes `clusters` alone -/

@[simp] theorem modBank_tick (s : State) (k : Nat) (f : Bank → Bank) : (s.modBank k f).tick = s.tick := rfl
@[simp] theorem modBank_inputs (s : State) (k : Nat) (f : Bank → Bank) : (s.modBank k f).inputs = s.inputs := rfl
@[simp] theorem modBank_arg (s : State) (k : Nat) (f : Bank → Bank) : (s.modBank k f).arg = s.arg := rfl
@[simp] theorem modBank_focus (s : State) (k : Nat) (f : Bank → Bank) : (s.modBank k f).focus = s.focus := rfl
@[simp] theorem modBank_rr (s : State) (k : Nat) (f : Bank → Bank) : (s.modBank k f).rr = s.rr := rfl
@[simp] theorem modBank_fresh (s : State) (k : Nat) (f : Bank → Bank) : (s.modBank k f).fresh = s.fresh := rfl
@[simp] theorem modBank_cur (s : State) (k : Nat) (f : Bank → Bank) : (s.modBank k f).cur = s.cur := rfl
@[simp] theorem modBank_cycle (s : State) (k : Nat) (f : Bank → Bank) : (s.modBank k f).cycle = s.cycle := rfl
@[simp] theorem modBank_outbox (s : State) (k : Nat) (f : Bank → Bank) : (s.modBank k f).outbox = s.outbox := rfl
@[simp] theorem modBank_nextId (s : State) (k : Nat) (f : Bank → Bank) : (s.modBank k f).nextId = s.nextId := rfl
@[simp] theorem modBank_dev (s : State) (k : Nat) (f : Bank → Bank) : (s.modBank k f).dev = s.dev := rfl
@[simp] theorem modBank_links (s : State) (k : Nat) (f : Bank → Bank) : (s.modBank k f).links = s.links := rfl
@[simp] theorem modBank_mem (s : State) (k : Nat) (f : Bank → Bank) : (s.modBank k f).mem = s.mem := rfl
@[simp] theorem modBank_cal (s : State) (k : Nat) (f : Bank → Bank) : (s.modBank k f).cal = s.cal := rfl
@[simp] theorem modBank_host (s : State) (k : Nat) (f : Bank → Bank) : (s.modBank k f).host = s.host := rfl
@[simp] theorem modBank_xl (s : State) (k : Nat) (f : Bank → Bank) : (s.modBank k f).xl = s.xl := rfl
@[simp] theorem modBank_stoker (s : State) (k : Nat) (f : Bank → Bank) : (s.modBank k f).stoker = s.stoker := rfl
@[simp] theorem modBank_recd (s : State) (k : Nat) (f : Bank → Bank) : (s.modBank k f).recd = s.recd := rfl
@[simp] theorem modBank_trace (s : State) (k : Nat) (f : Bank → Bank) : (s.modBank k f).trace = s.trace := rfl
@[simp] theorem modBank_stepctl (s : State) (k : Nat) (f : Bank → Bank) : (s.modBank k f).stepctl = s.stepctl := rfl
@[simp] theorem modBank_watch (s : State) (k : Nat) (f : Bank → Bank) : (s.modBank k f).watch = s.watch := rfl
@[simp] theorem modBank_cores (s : State) (k : Nat) (f : Bank → Bank) : (s.modBank k f).cores = s.cores := rfl
@[simp] theorem modBank_blks (s : State) (k : Nat) (f : Bank → Bank) : (s.modBank k f).blks = s.blks := rfl
@[simp] theorem modBank_tls (s : State) (k : Nat) (f : Bank → Bank) : (s.modBank k f).tls = s.tls := rfl
@[simp] theorem modBank_phasers (s : State) (k : Nat) (f : Bank → Bank) : (s.modBank k f).phasers = s.phasers := rfl
@[simp] theorem modBank_reqs (s : State) (k : Nat) (f : Bank → Bank) : (s.modBank k f).reqs = s.reqs := rfl
@[simp] theorem modBank_rels (s : State) (k : Nat) (f : Bank → Bank) : (s.modBank k f).rels = s.rels := rfl
@[simp] theorem modBank_sfu (s : State) (k : Nat) (f : Bank → Bank) : (s.modBank k f).sfu = s.sfu := rfl
@[simp] theorem modBank_cmds (s : State) (k : Nat) (f : Bank → Bank) : (s.modBank k f).cmds = s.cmds := rfl
@[simp] theorem modBank_mcmds (s : State) (k : Nat) (f : Bank → Bank) : (s.modBank k f).mcmds = s.mcmds := rfl
@[simp] theorem modBank_colls (s : State) (k : Nat) (f : Bank → Bank) : (s.modBank k f).colls = s.colls := rfl

/-! #### State.modCmd writes `cmds` alone -/

@[simp] theorem modCmd_tick (s : State) (id : Nat) (f : Cmd → Cmd) : (s.modCmd id f).tick = s.tick := rfl
@[simp] theorem modCmd_inputs (s : State) (id : Nat) (f : Cmd → Cmd) : (s.modCmd id f).inputs = s.inputs := rfl
@[simp] theorem modCmd_arg (s : State) (id : Nat) (f : Cmd → Cmd) : (s.modCmd id f).arg = s.arg := rfl
@[simp] theorem modCmd_focus (s : State) (id : Nat) (f : Cmd → Cmd) : (s.modCmd id f).focus = s.focus := rfl
@[simp] theorem modCmd_rr (s : State) (id : Nat) (f : Cmd → Cmd) : (s.modCmd id f).rr = s.rr := rfl
@[simp] theorem modCmd_fresh (s : State) (id : Nat) (f : Cmd → Cmd) : (s.modCmd id f).fresh = s.fresh := rfl
@[simp] theorem modCmd_cur (s : State) (id : Nat) (f : Cmd → Cmd) : (s.modCmd id f).cur = s.cur := rfl
@[simp] theorem modCmd_cycle (s : State) (id : Nat) (f : Cmd → Cmd) : (s.modCmd id f).cycle = s.cycle := rfl
@[simp] theorem modCmd_outbox (s : State) (id : Nat) (f : Cmd → Cmd) : (s.modCmd id f).outbox = s.outbox := rfl
@[simp] theorem modCmd_nextId (s : State) (id : Nat) (f : Cmd → Cmd) : (s.modCmd id f).nextId = s.nextId := rfl
@[simp] theorem modCmd_dev (s : State) (id : Nat) (f : Cmd → Cmd) : (s.modCmd id f).dev = s.dev := rfl
@[simp] theorem modCmd_links (s : State) (id : Nat) (f : Cmd → Cmd) : (s.modCmd id f).links = s.links := rfl
@[simp] theorem modCmd_mem (s : State) (id : Nat) (f : Cmd → Cmd) : (s.modCmd id f).mem = s.mem := rfl
@[simp] theorem modCmd_cal (s : State) (id : Nat) (f : Cmd → Cmd) : (s.modCmd id f).cal = s.cal := rfl
@[simp] theorem modCmd_host (s : State) (id : Nat) (f : Cmd → Cmd) : (s.modCmd id f).host = s.host := rfl
@[simp] theorem modCmd_xl (s : State) (id : Nat) (f : Cmd → Cmd) : (s.modCmd id f).xl = s.xl := rfl
@[simp] theorem modCmd_stoker (s : State) (id : Nat) (f : Cmd → Cmd) : (s.modCmd id f).stoker = s.stoker := rfl
@[simp] theorem modCmd_recd (s : State) (id : Nat) (f : Cmd → Cmd) : (s.modCmd id f).recd = s.recd := rfl
@[simp] theorem modCmd_trace (s : State) (id : Nat) (f : Cmd → Cmd) : (s.modCmd id f).trace = s.trace := rfl
@[simp] theorem modCmd_stepctl (s : State) (id : Nat) (f : Cmd → Cmd) : (s.modCmd id f).stepctl = s.stepctl := rfl
@[simp] theorem modCmd_watch (s : State) (id : Nat) (f : Cmd → Cmd) : (s.modCmd id f).watch = s.watch := rfl
@[simp] theorem modCmd_clusters (s : State) (id : Nat) (f : Cmd → Cmd) : (s.modCmd id f).clusters = s.clusters := rfl
@[simp] theorem modCmd_cores (s : State) (id : Nat) (f : Cmd → Cmd) : (s.modCmd id f).cores = s.cores := rfl
@[simp] theorem modCmd_blks (s : State) (id : Nat) (f : Cmd → Cmd) : (s.modCmd id f).blks = s.blks := rfl
@[simp] theorem modCmd_tls (s : State) (id : Nat) (f : Cmd → Cmd) : (s.modCmd id f).tls = s.tls := rfl
@[simp] theorem modCmd_phasers (s : State) (id : Nat) (f : Cmd → Cmd) : (s.modCmd id f).phasers = s.phasers := rfl
@[simp] theorem modCmd_reqs (s : State) (id : Nat) (f : Cmd → Cmd) : (s.modCmd id f).reqs = s.reqs := rfl
@[simp] theorem modCmd_rels (s : State) (id : Nat) (f : Cmd → Cmd) : (s.modCmd id f).rels = s.rels := rfl
@[simp] theorem modCmd_sfu (s : State) (id : Nat) (f : Cmd → Cmd) : (s.modCmd id f).sfu = s.sfu := rfl
@[simp] theorem modCmd_mcmds (s : State) (id : Nat) (f : Cmd → Cmd) : (s.modCmd id f).mcmds = s.mcmds := rfl
@[simp] theorem modCmd_colls (s : State) (id : Nat) (f : Cmd → Cmd) : (s.modCmd id f).colls = s.colls := rfl

/-! #### State.modCtx writes `host` alone -/

@[simp] theorem modCtx_tick (s : State) (c : Nat) (f : Ctx → Ctx) : (s.modCtx c f).tick = s.tick := rfl
@[simp] theorem modCtx_inputs (s : State) (c : Nat) (f : Ctx → Ctx) : (s.modCtx c f).inputs = s.inputs := rfl
@[simp] theorem modCtx_arg (s : State) (c : Nat) (f : Ctx → Ctx) : (s.modCtx c f).arg = s.arg := rfl
@[simp] theorem modCtx_focus (s : State) (c : Nat) (f : Ctx → Ctx) : (s.modCtx c f).focus = s.focus := rfl
@[simp] theorem modCtx_rr (s : State) (c : Nat) (f : Ctx → Ctx) : (s.modCtx c f).rr = s.rr := rfl
@[simp] theorem modCtx_fresh (s : State) (c : Nat) (f : Ctx → Ctx) : (s.modCtx c f).fresh = s.fresh := rfl
@[simp] theorem modCtx_cur (s : State) (c : Nat) (f : Ctx → Ctx) : (s.modCtx c f).cur = s.cur := rfl
@[simp] theorem modCtx_cycle (s : State) (c : Nat) (f : Ctx → Ctx) : (s.modCtx c f).cycle = s.cycle := rfl
@[simp] theorem modCtx_outbox (s : State) (c : Nat) (f : Ctx → Ctx) : (s.modCtx c f).outbox = s.outbox := rfl
@[simp] theorem modCtx_nextId (s : State) (c : Nat) (f : Ctx → Ctx) : (s.modCtx c f).nextId = s.nextId := rfl
@[simp] theorem modCtx_dev (s : State) (c : Nat) (f : Ctx → Ctx) : (s.modCtx c f).dev = s.dev := rfl
@[simp] theorem modCtx_links (s : State) (c : Nat) (f : Ctx → Ctx) : (s.modCtx c f).links = s.links := rfl
@[simp] theorem modCtx_mem (s : State) (c : Nat) (f : Ctx → Ctx) : (s.modCtx c f).mem = s.mem := rfl
@[simp] theorem modCtx_cal (s : State) (c : Nat) (f : Ctx → Ctx) : (s.modCtx c f).cal = s.cal := rfl
@[simp] theorem modCtx_xl (s : State) (c : Nat) (f : Ctx → Ctx) : (s.modCtx c f).xl = s.xl := rfl
@[simp] theorem modCtx_stoker (s : State) (c : Nat) (f : Ctx → Ctx) : (s.modCtx c f).stoker = s.stoker := rfl
@[simp] theorem modCtx_recd (s : State) (c : Nat) (f : Ctx → Ctx) : (s.modCtx c f).recd = s.recd := rfl
@[simp] theorem modCtx_trace (s : State) (c : Nat) (f : Ctx → Ctx) : (s.modCtx c f).trace = s.trace := rfl
@[simp] theorem modCtx_stepctl (s : State) (c : Nat) (f : Ctx → Ctx) : (s.modCtx c f).stepctl = s.stepctl := rfl
@[simp] theorem modCtx_watch (s : State) (c : Nat) (f : Ctx → Ctx) : (s.modCtx c f).watch = s.watch := rfl
@[simp] theorem modCtx_clusters (s : State) (c : Nat) (f : Ctx → Ctx) : (s.modCtx c f).clusters = s.clusters := rfl
@[simp] theorem modCtx_cores (s : State) (c : Nat) (f : Ctx → Ctx) : (s.modCtx c f).cores = s.cores := rfl
@[simp] theorem modCtx_blks (s : State) (c : Nat) (f : Ctx → Ctx) : (s.modCtx c f).blks = s.blks := rfl
@[simp] theorem modCtx_tls (s : State) (c : Nat) (f : Ctx → Ctx) : (s.modCtx c f).tls = s.tls := rfl
@[simp] theorem modCtx_phasers (s : State) (c : Nat) (f : Ctx → Ctx) : (s.modCtx c f).phasers = s.phasers := rfl
@[simp] theorem modCtx_reqs (s : State) (c : Nat) (f : Ctx → Ctx) : (s.modCtx c f).reqs = s.reqs := rfl
@[simp] theorem modCtx_rels (s : State) (c : Nat) (f : Ctx → Ctx) : (s.modCtx c f).rels = s.rels := rfl
@[simp] theorem modCtx_sfu (s : State) (c : Nat) (f : Ctx → Ctx) : (s.modCtx c f).sfu = s.sfu := rfl
@[simp] theorem modCtx_cmds (s : State) (c : Nat) (f : Ctx → Ctx) : (s.modCtx c f).cmds = s.cmds := rfl
@[simp] theorem modCtx_mcmds (s : State) (c : Nat) (f : Ctx → Ctx) : (s.modCtx c f).mcmds = s.mcmds := rfl
@[simp] theorem modCtx_colls (s : State) (c : Nat) (f : Ctx → Ctx) : (s.modCtx c f).colls = s.colls := rfl

/-! #### State.modSlot writes `host` alone -/

@[simp] theorem modSlot_tick (s : State) (n : Nat) (f : QSlot → QSlot) : (s.modSlot n f).tick = s.tick := rfl
@[simp] theorem modSlot_inputs (s : State) (n : Nat) (f : QSlot → QSlot) : (s.modSlot n f).inputs = s.inputs := rfl
@[simp] theorem modSlot_arg (s : State) (n : Nat) (f : QSlot → QSlot) : (s.modSlot n f).arg = s.arg := rfl
@[simp] theorem modSlot_focus (s : State) (n : Nat) (f : QSlot → QSlot) : (s.modSlot n f).focus = s.focus := rfl
@[simp] theorem modSlot_rr (s : State) (n : Nat) (f : QSlot → QSlot) : (s.modSlot n f).rr = s.rr := rfl
@[simp] theorem modSlot_fresh (s : State) (n : Nat) (f : QSlot → QSlot) : (s.modSlot n f).fresh = s.fresh := rfl
@[simp] theorem modSlot_cur (s : State) (n : Nat) (f : QSlot → QSlot) : (s.modSlot n f).cur = s.cur := rfl
@[simp] theorem modSlot_cycle (s : State) (n : Nat) (f : QSlot → QSlot) : (s.modSlot n f).cycle = s.cycle := rfl
@[simp] theorem modSlot_outbox (s : State) (n : Nat) (f : QSlot → QSlot) : (s.modSlot n f).outbox = s.outbox := rfl
@[simp] theorem modSlot_nextId (s : State) (n : Nat) (f : QSlot → QSlot) : (s.modSlot n f).nextId = s.nextId := rfl
@[simp] theorem modSlot_dev (s : State) (n : Nat) (f : QSlot → QSlot) : (s.modSlot n f).dev = s.dev := rfl
@[simp] theorem modSlot_links (s : State) (n : Nat) (f : QSlot → QSlot) : (s.modSlot n f).links = s.links := rfl
@[simp] theorem modSlot_mem (s : State) (n : Nat) (f : QSlot → QSlot) : (s.modSlot n f).mem = s.mem := rfl
@[simp] theorem modSlot_cal (s : State) (n : Nat) (f : QSlot → QSlot) : (s.modSlot n f).cal = s.cal := rfl
@[simp] theorem modSlot_xl (s : State) (n : Nat) (f : QSlot → QSlot) : (s.modSlot n f).xl = s.xl := rfl
@[simp] theorem modSlot_stoker (s : State) (n : Nat) (f : QSlot → QSlot) : (s.modSlot n f).stoker = s.stoker := rfl
@[simp] theorem modSlot_recd (s : State) (n : Nat) (f : QSlot → QSlot) : (s.modSlot n f).recd = s.recd := rfl
@[simp] theorem modSlot_trace (s : State) (n : Nat) (f : QSlot → QSlot) : (s.modSlot n f).trace = s.trace := rfl
@[simp] theorem modSlot_stepctl (s : State) (n : Nat) (f : QSlot → QSlot) : (s.modSlot n f).stepctl = s.stepctl := rfl
@[simp] theorem modSlot_watch (s : State) (n : Nat) (f : QSlot → QSlot) : (s.modSlot n f).watch = s.watch := rfl
@[simp] theorem modSlot_clusters (s : State) (n : Nat) (f : QSlot → QSlot) : (s.modSlot n f).clusters = s.clusters := rfl
@[simp] theorem modSlot_cores (s : State) (n : Nat) (f : QSlot → QSlot) : (s.modSlot n f).cores = s.cores := rfl
@[simp] theorem modSlot_blks (s : State) (n : Nat) (f : QSlot → QSlot) : (s.modSlot n f).blks = s.blks := rfl
@[simp] theorem modSlot_tls (s : State) (n : Nat) (f : QSlot → QSlot) : (s.modSlot n f).tls = s.tls := rfl
@[simp] theorem modSlot_phasers (s : State) (n : Nat) (f : QSlot → QSlot) : (s.modSlot n f).phasers = s.phasers := rfl
@[simp] theorem modSlot_reqs (s : State) (n : Nat) (f : QSlot → QSlot) : (s.modSlot n f).reqs = s.reqs := rfl
@[simp] theorem modSlot_rels (s : State) (n : Nat) (f : QSlot → QSlot) : (s.modSlot n f).rels = s.rels := rfl
@[simp] theorem modSlot_sfu (s : State) (n : Nat) (f : QSlot → QSlot) : (s.modSlot n f).sfu = s.sfu := rfl
@[simp] theorem modSlot_cmds (s : State) (n : Nat) (f : QSlot → QSlot) : (s.modSlot n f).cmds = s.cmds := rfl
@[simp] theorem modSlot_mcmds (s : State) (n : Nat) (f : QSlot → QSlot) : (s.modSlot n f).mcmds = s.mcmds := rfl
@[simp] theorem modSlot_colls (s : State) (n : Nat) (f : QSlot → QSlot) : (s.modSlot n f).colls = s.colls := rfl

/-! #### State.modHCmd writes `host` alone -/

@[simp] theorem modHCmd_tick (s : State) (h : HCmd) (f : HCmd → HCmd) : (s.modHCmd h f).tick = s.tick := rfl
@[simp] theorem modHCmd_inputs (s : State) (h : HCmd) (f : HCmd → HCmd) : (s.modHCmd h f).inputs = s.inputs := rfl
@[simp] theorem modHCmd_arg (s : State) (h : HCmd) (f : HCmd → HCmd) : (s.modHCmd h f).arg = s.arg := rfl
@[simp] theorem modHCmd_focus (s : State) (h : HCmd) (f : HCmd → HCmd) : (s.modHCmd h f).focus = s.focus := rfl
@[simp] theorem modHCmd_rr (s : State) (h : HCmd) (f : HCmd → HCmd) : (s.modHCmd h f).rr = s.rr := rfl
@[simp] theorem modHCmd_fresh (s : State) (h : HCmd) (f : HCmd → HCmd) : (s.modHCmd h f).fresh = s.fresh := rfl
@[simp] theorem modHCmd_cur (s : State) (h : HCmd) (f : HCmd → HCmd) : (s.modHCmd h f).cur = s.cur := rfl
@[simp] theorem modHCmd_cycle (s : State) (h : HCmd) (f : HCmd → HCmd) : (s.modHCmd h f).cycle = s.cycle := rfl
@[simp] theorem modHCmd_outbox (s : State) (h : HCmd) (f : HCmd → HCmd) : (s.modHCmd h f).outbox = s.outbox := rfl
@[simp] theorem modHCmd_nextId (s : State) (h : HCmd) (f : HCmd → HCmd) : (s.modHCmd h f).nextId = s.nextId := rfl
@[simp] theorem modHCmd_dev (s : State) (h : HCmd) (f : HCmd → HCmd) : (s.modHCmd h f).dev = s.dev := rfl
@[simp] theorem modHCmd_links (s : State) (h : HCmd) (f : HCmd → HCmd) : (s.modHCmd h f).links = s.links := rfl
@[simp] theorem modHCmd_mem (s : State) (h : HCmd) (f : HCmd → HCmd) : (s.modHCmd h f).mem = s.mem := rfl
@[simp] theorem modHCmd_cal (s : State) (h : HCmd) (f : HCmd → HCmd) : (s.modHCmd h f).cal = s.cal := rfl
@[simp] theorem modHCmd_xl (s : State) (h : HCmd) (f : HCmd → HCmd) : (s.modHCmd h f).xl = s.xl := rfl
@[simp] theorem modHCmd_stoker (s : State) (h : HCmd) (f : HCmd → HCmd) : (s.modHCmd h f).stoker = s.stoker := rfl
@[simp] theorem modHCmd_recd (s : State) (h : HCmd) (f : HCmd → HCmd) : (s.modHCmd h f).recd = s.recd := rfl
@[simp] theorem modHCmd_trace (s : State) (h : HCmd) (f : HCmd → HCmd) : (s.modHCmd h f).trace = s.trace := rfl
@[simp] theorem modHCmd_stepctl (s : State) (h : HCmd) (f : HCmd → HCmd) : (s.modHCmd h f).stepctl = s.stepctl := rfl
@[simp] theorem modHCmd_watch (s : State) (h : HCmd) (f : HCmd → HCmd) : (s.modHCmd h f).watch = s.watch := rfl
@[simp] theorem modHCmd_clusters (s : State) (h : HCmd) (f : HCmd → HCmd) : (s.modHCmd h f).clusters = s.clusters := rfl
@[simp] theorem modHCmd_cores (s : State) (h : HCmd) (f : HCmd → HCmd) : (s.modHCmd h f).cores = s.cores := rfl
@[simp] theorem modHCmd_blks (s : State) (h : HCmd) (f : HCmd → HCmd) : (s.modHCmd h f).blks = s.blks := rfl
@[simp] theorem modHCmd_tls (s : State) (h : HCmd) (f : HCmd → HCmd) : (s.modHCmd h f).tls = s.tls := rfl
@[simp] theorem modHCmd_phasers (s : State) (h : HCmd) (f : HCmd → HCmd) : (s.modHCmd h f).phasers = s.phasers := rfl
@[simp] theorem modHCmd_reqs (s : State) (h : HCmd) (f : HCmd → HCmd) : (s.modHCmd h f).reqs = s.reqs := rfl
@[simp] theorem modHCmd_rels (s : State) (h : HCmd) (f : HCmd → HCmd) : (s.modHCmd h f).rels = s.rels := rfl
@[simp] theorem modHCmd_sfu (s : State) (h : HCmd) (f : HCmd → HCmd) : (s.modHCmd h f).sfu = s.sfu := rfl
@[simp] theorem modHCmd_cmds (s : State) (h : HCmd) (f : HCmd → HCmd) : (s.modHCmd h f).cmds = s.cmds := rfl
@[simp] theorem modHCmd_mcmds (s : State) (h : HCmd) (f : HCmd → HCmd) : (s.modHCmd h f).mcmds = s.mcmds := rfl
@[simp] theorem modHCmd_colls (s : State) (h : HCmd) (f : HCmd → HCmd) : (s.modHCmd h f).colls = s.colls := rfl

/-! #### State.endHostCmd writes `host` alone -/

@[simp] theorem endHostCmd_tick (s : State) (k : Nat) (seq : Word) (e : Option Cause) : (s.endHostCmd k seq e).tick = s.tick := rfl
@[simp] theorem endHostCmd_inputs (s : State) (k : Nat) (seq : Word) (e : Option Cause) : (s.endHostCmd k seq e).inputs = s.inputs := rfl
@[simp] theorem endHostCmd_arg (s : State) (k : Nat) (seq : Word) (e : Option Cause) : (s.endHostCmd k seq e).arg = s.arg := rfl
@[simp] theorem endHostCmd_focus (s : State) (k : Nat) (seq : Word) (e : Option Cause) : (s.endHostCmd k seq e).focus = s.focus := rfl
@[simp] theorem endHostCmd_rr (s : State) (k : Nat) (seq : Word) (e : Option Cause) : (s.endHostCmd k seq e).rr = s.rr := rfl
@[simp] theorem endHostCmd_fresh (s : State) (k : Nat) (seq : Word) (e : Option Cause) : (s.endHostCmd k seq e).fresh = s.fresh := rfl
@[simp] theorem endHostCmd_cur (s : State) (k : Nat) (seq : Word) (e : Option Cause) : (s.endHostCmd k seq e).cur = s.cur := rfl
@[simp] theorem endHostCmd_cycle (s : State) (k : Nat) (seq : Word) (e : Option Cause) : (s.endHostCmd k seq e).cycle = s.cycle := rfl
@[simp] theorem endHostCmd_outbox (s : State) (k : Nat) (seq : Word) (e : Option Cause) : (s.endHostCmd k seq e).outbox = s.outbox := rfl
@[simp] theorem endHostCmd_nextId (s : State) (k : Nat) (seq : Word) (e : Option Cause) : (s.endHostCmd k seq e).nextId = s.nextId := rfl
@[simp] theorem endHostCmd_dev (s : State) (k : Nat) (seq : Word) (e : Option Cause) : (s.endHostCmd k seq e).dev = s.dev := rfl
@[simp] theorem endHostCmd_links (s : State) (k : Nat) (seq : Word) (e : Option Cause) : (s.endHostCmd k seq e).links = s.links := rfl
@[simp] theorem endHostCmd_mem (s : State) (k : Nat) (seq : Word) (e : Option Cause) : (s.endHostCmd k seq e).mem = s.mem := rfl
@[simp] theorem endHostCmd_cal (s : State) (k : Nat) (seq : Word) (e : Option Cause) : (s.endHostCmd k seq e).cal = s.cal := rfl
@[simp] theorem endHostCmd_xl (s : State) (k : Nat) (seq : Word) (e : Option Cause) : (s.endHostCmd k seq e).xl = s.xl := rfl
@[simp] theorem endHostCmd_stoker (s : State) (k : Nat) (seq : Word) (e : Option Cause) : (s.endHostCmd k seq e).stoker = s.stoker := rfl
@[simp] theorem endHostCmd_recd (s : State) (k : Nat) (seq : Word) (e : Option Cause) : (s.endHostCmd k seq e).recd = s.recd := rfl
@[simp] theorem endHostCmd_trace (s : State) (k : Nat) (seq : Word) (e : Option Cause) : (s.endHostCmd k seq e).trace = s.trace := rfl
@[simp] theorem endHostCmd_stepctl (s : State) (k : Nat) (seq : Word) (e : Option Cause) : (s.endHostCmd k seq e).stepctl = s.stepctl := rfl
@[simp] theorem endHostCmd_watch (s : State) (k : Nat) (seq : Word) (e : Option Cause) : (s.endHostCmd k seq e).watch = s.watch := rfl
@[simp] theorem endHostCmd_clusters (s : State) (k : Nat) (seq : Word) (e : Option Cause) : (s.endHostCmd k seq e).clusters = s.clusters := rfl
@[simp] theorem endHostCmd_cores (s : State) (k : Nat) (seq : Word) (e : Option Cause) : (s.endHostCmd k seq e).cores = s.cores := rfl
@[simp] theorem endHostCmd_blks (s : State) (k : Nat) (seq : Word) (e : Option Cause) : (s.endHostCmd k seq e).blks = s.blks := rfl
@[simp] theorem endHostCmd_tls (s : State) (k : Nat) (seq : Word) (e : Option Cause) : (s.endHostCmd k seq e).tls = s.tls := rfl
@[simp] theorem endHostCmd_phasers (s : State) (k : Nat) (seq : Word) (e : Option Cause) : (s.endHostCmd k seq e).phasers = s.phasers := rfl
@[simp] theorem endHostCmd_reqs (s : State) (k : Nat) (seq : Word) (e : Option Cause) : (s.endHostCmd k seq e).reqs = s.reqs := rfl
@[simp] theorem endHostCmd_rels (s : State) (k : Nat) (seq : Word) (e : Option Cause) : (s.endHostCmd k seq e).rels = s.rels := rfl
@[simp] theorem endHostCmd_sfu (s : State) (k : Nat) (seq : Word) (e : Option Cause) : (s.endHostCmd k seq e).sfu = s.sfu := rfl
@[simp] theorem endHostCmd_cmds (s : State) (k : Nat) (seq : Word) (e : Option Cause) : (s.endHostCmd k seq e).cmds = s.cmds := rfl
@[simp] theorem endHostCmd_mcmds (s : State) (k : Nat) (seq : Word) (e : Option Cause) : (s.endHostCmd k seq e).mcmds = s.mcmds := rfl
@[simp] theorem endHostCmd_colls (s : State) (k : Nat) (seq : Word) (e : Option Cause) : (s.endHostCmd k seq e).colls = s.colls := rfl

/-! #### State.setAgent writes `recd` alone -/

@[simp] theorem setAgent_tick (s : State) (a : Nat) (x : Agent) : (s.setAgent a x).tick = s.tick := rfl
@[simp] theorem setAgent_inputs (s : State) (a : Nat) (x : Agent) : (s.setAgent a x).inputs = s.inputs := rfl
@[simp] theorem setAgent_arg (s : State) (a : Nat) (x : Agent) : (s.setAgent a x).arg = s.arg := rfl
@[simp] theorem setAgent_focus (s : State) (a : Nat) (x : Agent) : (s.setAgent a x).focus = s.focus := rfl
@[simp] theorem setAgent_rr (s : State) (a : Nat) (x : Agent) : (s.setAgent a x).rr = s.rr := rfl
@[simp] theorem setAgent_fresh (s : State) (a : Nat) (x : Agent) : (s.setAgent a x).fresh = s.fresh := rfl
@[simp] theorem setAgent_cur (s : State) (a : Nat) (x : Agent) : (s.setAgent a x).cur = s.cur := rfl
@[simp] theorem setAgent_cycle (s : State) (a : Nat) (x : Agent) : (s.setAgent a x).cycle = s.cycle := rfl
@[simp] theorem setAgent_outbox (s : State) (a : Nat) (x : Agent) : (s.setAgent a x).outbox = s.outbox := rfl
@[simp] theorem setAgent_nextId (s : State) (a : Nat) (x : Agent) : (s.setAgent a x).nextId = s.nextId := rfl
@[simp] theorem setAgent_dev (s : State) (a : Nat) (x : Agent) : (s.setAgent a x).dev = s.dev := rfl
@[simp] theorem setAgent_links (s : State) (a : Nat) (x : Agent) : (s.setAgent a x).links = s.links := rfl
@[simp] theorem setAgent_mem (s : State) (a : Nat) (x : Agent) : (s.setAgent a x).mem = s.mem := rfl
@[simp] theorem setAgent_cal (s : State) (a : Nat) (x : Agent) : (s.setAgent a x).cal = s.cal := rfl
@[simp] theorem setAgent_host (s : State) (a : Nat) (x : Agent) : (s.setAgent a x).host = s.host := rfl
@[simp] theorem setAgent_xl (s : State) (a : Nat) (x : Agent) : (s.setAgent a x).xl = s.xl := rfl
@[simp] theorem setAgent_stoker (s : State) (a : Nat) (x : Agent) : (s.setAgent a x).stoker = s.stoker := rfl
@[simp] theorem setAgent_trace (s : State) (a : Nat) (x : Agent) : (s.setAgent a x).trace = s.trace := rfl
@[simp] theorem setAgent_stepctl (s : State) (a : Nat) (x : Agent) : (s.setAgent a x).stepctl = s.stepctl := rfl
@[simp] theorem setAgent_watch (s : State) (a : Nat) (x : Agent) : (s.setAgent a x).watch = s.watch := rfl
@[simp] theorem setAgent_clusters (s : State) (a : Nat) (x : Agent) : (s.setAgent a x).clusters = s.clusters := rfl
@[simp] theorem setAgent_cores (s : State) (a : Nat) (x : Agent) : (s.setAgent a x).cores = s.cores := rfl
@[simp] theorem setAgent_blks (s : State) (a : Nat) (x : Agent) : (s.setAgent a x).blks = s.blks := rfl
@[simp] theorem setAgent_tls (s : State) (a : Nat) (x : Agent) : (s.setAgent a x).tls = s.tls := rfl
@[simp] theorem setAgent_phasers (s : State) (a : Nat) (x : Agent) : (s.setAgent a x).phasers = s.phasers := rfl
@[simp] theorem setAgent_reqs (s : State) (a : Nat) (x : Agent) : (s.setAgent a x).reqs = s.reqs := rfl
@[simp] theorem setAgent_rels (s : State) (a : Nat) (x : Agent) : (s.setAgent a x).rels = s.rels := rfl
@[simp] theorem setAgent_sfu (s : State) (a : Nat) (x : Agent) : (s.setAgent a x).sfu = s.sfu := rfl
@[simp] theorem setAgent_cmds (s : State) (a : Nat) (x : Agent) : (s.setAgent a x).cmds = s.cmds := rfl
@[simp] theorem setAgent_mcmds (s : State) (a : Nat) (x : Agent) : (s.setAgent a x).mcmds = s.mcmds := rfl
@[simp] theorem setAgent_colls (s : State) (a : Nat) (x : Agent) : (s.setAgent a x).colls = s.colls := rfl

/-! #### State.ashRecord writes `recd` alone -/

@[simp] theorem ashRecord_tick (s : State) (n : Nat) (r : List Byte) : (s.ashRecord n r).tick = s.tick := rfl
@[simp] theorem ashRecord_inputs (s : State) (n : Nat) (r : List Byte) : (s.ashRecord n r).inputs = s.inputs := rfl
@[simp] theorem ashRecord_arg (s : State) (n : Nat) (r : List Byte) : (s.ashRecord n r).arg = s.arg := rfl
@[simp] theorem ashRecord_focus (s : State) (n : Nat) (r : List Byte) : (s.ashRecord n r).focus = s.focus := rfl
@[simp] theorem ashRecord_rr (s : State) (n : Nat) (r : List Byte) : (s.ashRecord n r).rr = s.rr := rfl
@[simp] theorem ashRecord_fresh (s : State) (n : Nat) (r : List Byte) : (s.ashRecord n r).fresh = s.fresh := rfl
@[simp] theorem ashRecord_cur (s : State) (n : Nat) (r : List Byte) : (s.ashRecord n r).cur = s.cur := rfl
@[simp] theorem ashRecord_cycle (s : State) (n : Nat) (r : List Byte) : (s.ashRecord n r).cycle = s.cycle := rfl
@[simp] theorem ashRecord_outbox (s : State) (n : Nat) (r : List Byte) : (s.ashRecord n r).outbox = s.outbox := rfl
@[simp] theorem ashRecord_nextId (s : State) (n : Nat) (r : List Byte) : (s.ashRecord n r).nextId = s.nextId := rfl
@[simp] theorem ashRecord_dev (s : State) (n : Nat) (r : List Byte) : (s.ashRecord n r).dev = s.dev := rfl
@[simp] theorem ashRecord_links (s : State) (n : Nat) (r : List Byte) : (s.ashRecord n r).links = s.links := rfl
@[simp] theorem ashRecord_mem (s : State) (n : Nat) (r : List Byte) : (s.ashRecord n r).mem = s.mem := rfl
@[simp] theorem ashRecord_cal (s : State) (n : Nat) (r : List Byte) : (s.ashRecord n r).cal = s.cal := rfl
@[simp] theorem ashRecord_host (s : State) (n : Nat) (r : List Byte) : (s.ashRecord n r).host = s.host := rfl
@[simp] theorem ashRecord_xl (s : State) (n : Nat) (r : List Byte) : (s.ashRecord n r).xl = s.xl := rfl
@[simp] theorem ashRecord_stoker (s : State) (n : Nat) (r : List Byte) : (s.ashRecord n r).stoker = s.stoker := rfl
@[simp] theorem ashRecord_trace (s : State) (n : Nat) (r : List Byte) : (s.ashRecord n r).trace = s.trace := rfl
@[simp] theorem ashRecord_stepctl (s : State) (n : Nat) (r : List Byte) : (s.ashRecord n r).stepctl = s.stepctl := rfl
@[simp] theorem ashRecord_watch (s : State) (n : Nat) (r : List Byte) : (s.ashRecord n r).watch = s.watch := rfl
@[simp] theorem ashRecord_clusters (s : State) (n : Nat) (r : List Byte) : (s.ashRecord n r).clusters = s.clusters := rfl
@[simp] theorem ashRecord_cores (s : State) (n : Nat) (r : List Byte) : (s.ashRecord n r).cores = s.cores := rfl
@[simp] theorem ashRecord_blks (s : State) (n : Nat) (r : List Byte) : (s.ashRecord n r).blks = s.blks := rfl
@[simp] theorem ashRecord_tls (s : State) (n : Nat) (r : List Byte) : (s.ashRecord n r).tls = s.tls := rfl
@[simp] theorem ashRecord_phasers (s : State) (n : Nat) (r : List Byte) : (s.ashRecord n r).phasers = s.phasers := rfl
@[simp] theorem ashRecord_reqs (s : State) (n : Nat) (r : List Byte) : (s.ashRecord n r).reqs = s.reqs := rfl
@[simp] theorem ashRecord_rels (s : State) (n : Nat) (r : List Byte) : (s.ashRecord n r).rels = s.rels := rfl
@[simp] theorem ashRecord_sfu (s : State) (n : Nat) (r : List Byte) : (s.ashRecord n r).sfu = s.sfu := rfl
@[simp] theorem ashRecord_cmds (s : State) (n : Nat) (r : List Byte) : (s.ashRecord n r).cmds = s.cmds := rfl
@[simp] theorem ashRecord_mcmds (s : State) (n : Nat) (r : List Byte) : (s.ashRecord n r).mcmds = s.mcmds := rfl
@[simp] theorem ashRecord_colls (s : State) (n : Nat) (r : List Byte) : (s.ashRecord n r).colls = s.colls := rfl

/-! #### State.dirtied writes `recd` alone -/

@[simp] theorem dirtied_tick (s : State) (a : Nat) : (s.dirtied a).tick = s.tick := by unfold State.dirtied; dsimp only; split <;> rfl
@[simp] theorem dirtied_inputs (s : State) (a : Nat) : (s.dirtied a).inputs = s.inputs := by unfold State.dirtied; dsimp only; split <;> rfl
@[simp] theorem dirtied_arg (s : State) (a : Nat) : (s.dirtied a).arg = s.arg := by unfold State.dirtied; dsimp only; split <;> rfl
@[simp] theorem dirtied_focus (s : State) (a : Nat) : (s.dirtied a).focus = s.focus := by unfold State.dirtied; dsimp only; split <;> rfl
@[simp] theorem dirtied_rr (s : State) (a : Nat) : (s.dirtied a).rr = s.rr := by unfold State.dirtied; dsimp only; split <;> rfl
@[simp] theorem dirtied_fresh (s : State) (a : Nat) : (s.dirtied a).fresh = s.fresh := by unfold State.dirtied; dsimp only; split <;> rfl
@[simp] theorem dirtied_cur (s : State) (a : Nat) : (s.dirtied a).cur = s.cur := by unfold State.dirtied; dsimp only; split <;> rfl
@[simp] theorem dirtied_cycle (s : State) (a : Nat) : (s.dirtied a).cycle = s.cycle := by unfold State.dirtied; dsimp only; split <;> rfl
@[simp] theorem dirtied_outbox (s : State) (a : Nat) : (s.dirtied a).outbox = s.outbox := by unfold State.dirtied; dsimp only; split <;> rfl
@[simp] theorem dirtied_nextId (s : State) (a : Nat) : (s.dirtied a).nextId = s.nextId := by unfold State.dirtied; dsimp only; split <;> rfl
@[simp] theorem dirtied_dev (s : State) (a : Nat) : (s.dirtied a).dev = s.dev := by unfold State.dirtied; dsimp only; split <;> rfl
@[simp] theorem dirtied_links (s : State) (a : Nat) : (s.dirtied a).links = s.links := by unfold State.dirtied; dsimp only; split <;> rfl
@[simp] theorem dirtied_cal (s : State) (a : Nat) : (s.dirtied a).cal = s.cal := by unfold State.dirtied; dsimp only; split <;> rfl
@[simp] theorem dirtied_host (s : State) (a : Nat) : (s.dirtied a).host = s.host := by unfold State.dirtied; dsimp only; split <;> rfl
@[simp] theorem dirtied_xl (s : State) (a : Nat) : (s.dirtied a).xl = s.xl := by unfold State.dirtied; dsimp only; split <;> rfl
@[simp] theorem dirtied_stoker (s : State) (a : Nat) : (s.dirtied a).stoker = s.stoker := by unfold State.dirtied; dsimp only; split <;> rfl
@[simp] theorem dirtied_trace (s : State) (a : Nat) : (s.dirtied a).trace = s.trace := by unfold State.dirtied; dsimp only; split <;> rfl
@[simp] theorem dirtied_stepctl (s : State) (a : Nat) : (s.dirtied a).stepctl = s.stepctl := by unfold State.dirtied; dsimp only; split <;> rfl
@[simp] theorem dirtied_watch (s : State) (a : Nat) : (s.dirtied a).watch = s.watch := by unfold State.dirtied; dsimp only; split <;> rfl
@[simp] theorem dirtied_clusters (s : State) (a : Nat) : (s.dirtied a).clusters = s.clusters := by unfold State.dirtied; dsimp only; split <;> rfl
@[simp] theorem dirtied_cores (s : State) (a : Nat) : (s.dirtied a).cores = s.cores := by unfold State.dirtied; dsimp only; split <;> rfl
@[simp] theorem dirtied_blks (s : State) (a : Nat) : (s.dirtied a).blks = s.blks := by unfold State.dirtied; dsimp only; split <;> rfl
@[simp] theorem dirtied_tls (s : State) (a : Nat) : (s.dirtied a).tls = s.tls := by unfold State.dirtied; dsimp only; split <;> rfl
@[simp] theorem dirtied_phasers (s : State) (a : Nat) : (s.dirtied a).phasers = s.phasers := by unfold State.dirtied; dsimp only; split <;> rfl
@[simp] theorem dirtied_reqs (s : State) (a : Nat) : (s.dirtied a).reqs = s.reqs := by unfold State.dirtied; dsimp only; split <;> rfl
@[simp] theorem dirtied_rels (s : State) (a : Nat) : (s.dirtied a).rels = s.rels := by unfold State.dirtied; dsimp only; split <;> rfl
@[simp] theorem dirtied_sfu (s : State) (a : Nat) : (s.dirtied a).sfu = s.sfu := by unfold State.dirtied; dsimp only; split <;> rfl
@[simp] theorem dirtied_cmds (s : State) (a : Nat) : (s.dirtied a).cmds = s.cmds := by unfold State.dirtied; dsimp only; split <;> rfl
@[simp] theorem dirtied_mcmds (s : State) (a : Nat) : (s.dirtied a).mcmds = s.mcmds := by unfold State.dirtied; dsimp only; split <;> rfl
@[simp] theorem dirtied_colls (s : State) (a : Nat) : (s.dirtied a).colls = s.colls := by unfold State.dirtied; dsimp only; split <;> rfl

/-! #### State.raise writes `tls` alone -/

@[simp] theorem raise_tick (s : State) (n : Nat) (v : DWord) : (s.raise n v).tick = s.tick := rfl
@[simp] theorem raise_inputs (s : State) (n : Nat) (v : DWord) : (s.raise n v).inputs = s.inputs := rfl
@[simp] theorem raise_arg (s : State) (n : Nat) (v : DWord) : (s.raise n v).arg = s.arg := rfl
@[simp] theorem raise_focus (s : State) (n : Nat) (v : DWord) : (s.raise n v).focus = s.focus := rfl
@[simp] theorem raise_rr (s : State) (n : Nat) (v : DWord) : (s.raise n v).rr = s.rr := rfl
@[simp] theorem raise_fresh (s : State) (n : Nat) (v : DWord) : (s.raise n v).fresh = s.fresh := rfl
@[simp] theorem raise_cur (s : State) (n : Nat) (v : DWord) : (s.raise n v).cur = s.cur := rfl
@[simp] theorem raise_cycle (s : State) (n : Nat) (v : DWord) : (s.raise n v).cycle = s.cycle := rfl
@[simp] theorem raise_outbox (s : State) (n : Nat) (v : DWord) : (s.raise n v).outbox = s.outbox := rfl
@[simp] theorem raise_nextId (s : State) (n : Nat) (v : DWord) : (s.raise n v).nextId = s.nextId := rfl
@[simp] theorem raise_dev (s : State) (n : Nat) (v : DWord) : (s.raise n v).dev = s.dev := rfl
@[simp] theorem raise_links (s : State) (n : Nat) (v : DWord) : (s.raise n v).links = s.links := rfl
@[simp] theorem raise_mem (s : State) (n : Nat) (v : DWord) : (s.raise n v).mem = s.mem := rfl
@[simp] theorem raise_cal (s : State) (n : Nat) (v : DWord) : (s.raise n v).cal = s.cal := rfl
@[simp] theorem raise_host (s : State) (n : Nat) (v : DWord) : (s.raise n v).host = s.host := rfl
@[simp] theorem raise_xl (s : State) (n : Nat) (v : DWord) : (s.raise n v).xl = s.xl := rfl
@[simp] theorem raise_stoker (s : State) (n : Nat) (v : DWord) : (s.raise n v).stoker = s.stoker := rfl
@[simp] theorem raise_recd (s : State) (n : Nat) (v : DWord) : (s.raise n v).recd = s.recd := rfl
@[simp] theorem raise_trace (s : State) (n : Nat) (v : DWord) : (s.raise n v).trace = s.trace := rfl
@[simp] theorem raise_stepctl (s : State) (n : Nat) (v : DWord) : (s.raise n v).stepctl = s.stepctl := rfl
@[simp] theorem raise_watch (s : State) (n : Nat) (v : DWord) : (s.raise n v).watch = s.watch := rfl
@[simp] theorem raise_clusters (s : State) (n : Nat) (v : DWord) : (s.raise n v).clusters = s.clusters := rfl
@[simp] theorem raise_cores (s : State) (n : Nat) (v : DWord) : (s.raise n v).cores = s.cores := rfl
@[simp] theorem raise_blks (s : State) (n : Nat) (v : DWord) : (s.raise n v).blks = s.blks := rfl
@[simp] theorem raise_phasers (s : State) (n : Nat) (v : DWord) : (s.raise n v).phasers = s.phasers := rfl
@[simp] theorem raise_reqs (s : State) (n : Nat) (v : DWord) : (s.raise n v).reqs = s.reqs := rfl
@[simp] theorem raise_rels (s : State) (n : Nat) (v : DWord) : (s.raise n v).rels = s.rels := rfl
@[simp] theorem raise_sfu (s : State) (n : Nat) (v : DWord) : (s.raise n v).sfu = s.sfu := rfl
@[simp] theorem raise_cmds (s : State) (n : Nat) (v : DWord) : (s.raise n v).cmds = s.cmds := rfl
@[simp] theorem raise_mcmds (s : State) (n : Nat) (v : DWord) : (s.raise n v).mcmds = s.mcmds := rfl
@[simp] theorem raise_colls (s : State) (n : Nat) (v : DWord) : (s.raise n v).colls = s.colls := rfl

/-! #### State.machineCheck writes `inputs` alone -/

@[simp] theorem machineCheck_tick (s : State) : s.machineCheck.tick = s.tick := rfl
@[simp] theorem machineCheck_arg (s : State) : s.machineCheck.arg = s.arg := rfl
@[simp] theorem machineCheck_focus (s : State) : s.machineCheck.focus = s.focus := rfl
@[simp] theorem machineCheck_rr (s : State) : s.machineCheck.rr = s.rr := rfl
@[simp] theorem machineCheck_fresh (s : State) : s.machineCheck.fresh = s.fresh := rfl
@[simp] theorem machineCheck_cur (s : State) : s.machineCheck.cur = s.cur := rfl
@[simp] theorem machineCheck_cycle (s : State) : s.machineCheck.cycle = s.cycle := rfl
@[simp] theorem machineCheck_outbox (s : State) : s.machineCheck.outbox = s.outbox := rfl
@[simp] theorem machineCheck_nextId (s : State) : s.machineCheck.nextId = s.nextId := rfl
@[simp] theorem machineCheck_dev (s : State) : s.machineCheck.dev = s.dev := rfl
@[simp] theorem machineCheck_links (s : State) : s.machineCheck.links = s.links := rfl
@[simp] theorem machineCheck_mem (s : State) : s.machineCheck.mem = s.mem := rfl
@[simp] theorem machineCheck_cal (s : State) : s.machineCheck.cal = s.cal := rfl
@[simp] theorem machineCheck_host (s : State) : s.machineCheck.host = s.host := rfl
@[simp] theorem machineCheck_xl (s : State) : s.machineCheck.xl = s.xl := rfl
@[simp] theorem machineCheck_stoker (s : State) : s.machineCheck.stoker = s.stoker := rfl
@[simp] theorem machineCheck_recd (s : State) : s.machineCheck.recd = s.recd := rfl
@[simp] theorem machineCheck_trace (s : State) : s.machineCheck.trace = s.trace := rfl
@[simp] theorem machineCheck_stepctl (s : State) : s.machineCheck.stepctl = s.stepctl := rfl
@[simp] theorem machineCheck_watch (s : State) : s.machineCheck.watch = s.watch := rfl
@[simp] theorem machineCheck_clusters (s : State) : s.machineCheck.clusters = s.clusters := rfl
@[simp] theorem machineCheck_cores (s : State) : s.machineCheck.cores = s.cores := rfl
@[simp] theorem machineCheck_blks (s : State) : s.machineCheck.blks = s.blks := rfl
@[simp] theorem machineCheck_tls (s : State) : s.machineCheck.tls = s.tls := rfl
@[simp] theorem machineCheck_phasers (s : State) : s.machineCheck.phasers = s.phasers := rfl
@[simp] theorem machineCheck_reqs (s : State) : s.machineCheck.reqs = s.reqs := rfl
@[simp] theorem machineCheck_rels (s : State) : s.machineCheck.rels = s.rels := rfl
@[simp] theorem machineCheck_sfu (s : State) : s.machineCheck.sfu = s.sfu := rfl
@[simp] theorem machineCheck_cmds (s : State) : s.machineCheck.cmds = s.cmds := rfl
@[simp] theorem machineCheck_mcmds (s : State) : s.machineCheck.mcmds = s.mcmds := rfl
@[simp] theorem machineCheck_colls (s : State) : s.machineCheck.colls = s.colls := rfl

/-! #### State.poisonLine writes `mem` alone -/

@[simp] theorem poisonLine_tick (s : State) (n : Nat) : (s.poisonLine n).tick = s.tick := by unfold State.poisonLine; split <;> rfl
@[simp] theorem poisonLine_inputs (s : State) (n : Nat) : (s.poisonLine n).inputs = s.inputs := by unfold State.poisonLine; split <;> rfl
@[simp] theorem poisonLine_arg (s : State) (n : Nat) : (s.poisonLine n).arg = s.arg := by unfold State.poisonLine; split <;> rfl
@[simp] theorem poisonLine_focus (s : State) (n : Nat) : (s.poisonLine n).focus = s.focus := by unfold State.poisonLine; split <;> rfl
@[simp] theorem poisonLine_rr (s : State) (n : Nat) : (s.poisonLine n).rr = s.rr := by unfold State.poisonLine; split <;> rfl
@[simp] theorem poisonLine_fresh (s : State) (n : Nat) : (s.poisonLine n).fresh = s.fresh := by unfold State.poisonLine; split <;> rfl
@[simp] theorem poisonLine_cur (s : State) (n : Nat) : (s.poisonLine n).cur = s.cur := by unfold State.poisonLine; split <;> rfl
@[simp] theorem poisonLine_cycle (s : State) (n : Nat) : (s.poisonLine n).cycle = s.cycle := by unfold State.poisonLine; split <;> rfl
@[simp] theorem poisonLine_outbox (s : State) (n : Nat) : (s.poisonLine n).outbox = s.outbox := by unfold State.poisonLine; split <;> rfl
@[simp] theorem poisonLine_nextId (s : State) (n : Nat) : (s.poisonLine n).nextId = s.nextId := by unfold State.poisonLine; split <;> rfl
@[simp] theorem poisonLine_dev (s : State) (n : Nat) : (s.poisonLine n).dev = s.dev := by unfold State.poisonLine; split <;> rfl
@[simp] theorem poisonLine_links (s : State) (n : Nat) : (s.poisonLine n).links = s.links := by unfold State.poisonLine; split <;> rfl
@[simp] theorem poisonLine_cal (s : State) (n : Nat) : (s.poisonLine n).cal = s.cal := by unfold State.poisonLine; split <;> rfl
@[simp] theorem poisonLine_host (s : State) (n : Nat) : (s.poisonLine n).host = s.host := by unfold State.poisonLine; split <;> rfl
@[simp] theorem poisonLine_xl (s : State) (n : Nat) : (s.poisonLine n).xl = s.xl := by unfold State.poisonLine; split <;> rfl
@[simp] theorem poisonLine_stoker (s : State) (n : Nat) : (s.poisonLine n).stoker = s.stoker := by unfold State.poisonLine; split <;> rfl
@[simp] theorem poisonLine_recd (s : State) (n : Nat) : (s.poisonLine n).recd = s.recd := by unfold State.poisonLine; split <;> rfl
@[simp] theorem poisonLine_trace (s : State) (n : Nat) : (s.poisonLine n).trace = s.trace := by unfold State.poisonLine; split <;> rfl
@[simp] theorem poisonLine_stepctl (s : State) (n : Nat) : (s.poisonLine n).stepctl = s.stepctl := by unfold State.poisonLine; split <;> rfl
@[simp] theorem poisonLine_watch (s : State) (n : Nat) : (s.poisonLine n).watch = s.watch := by unfold State.poisonLine; split <;> rfl
@[simp] theorem poisonLine_clusters (s : State) (n : Nat) : (s.poisonLine n).clusters = s.clusters := by unfold State.poisonLine; split <;> rfl
@[simp] theorem poisonLine_cores (s : State) (n : Nat) : (s.poisonLine n).cores = s.cores := by unfold State.poisonLine; split <;> rfl
@[simp] theorem poisonLine_blks (s : State) (n : Nat) : (s.poisonLine n).blks = s.blks := by unfold State.poisonLine; split <;> rfl
@[simp] theorem poisonLine_tls (s : State) (n : Nat) : (s.poisonLine n).tls = s.tls := by unfold State.poisonLine; split <;> rfl
@[simp] theorem poisonLine_phasers (s : State) (n : Nat) : (s.poisonLine n).phasers = s.phasers := by unfold State.poisonLine; split <;> rfl
@[simp] theorem poisonLine_reqs (s : State) (n : Nat) : (s.poisonLine n).reqs = s.reqs := by unfold State.poisonLine; split <;> rfl
@[simp] theorem poisonLine_rels (s : State) (n : Nat) : (s.poisonLine n).rels = s.rels := by unfold State.poisonLine; split <;> rfl
@[simp] theorem poisonLine_sfu (s : State) (n : Nat) : (s.poisonLine n).sfu = s.sfu := by unfold State.poisonLine; split <;> rfl
@[simp] theorem poisonLine_cmds (s : State) (n : Nat) : (s.poisonLine n).cmds = s.cmds := by unfold State.poisonLine; split <;> rfl
@[simp] theorem poisonLine_mcmds (s : State) (n : Nat) : (s.poisonLine n).mcmds = s.mcmds := by unfold State.poisonLine; split <;> rfl
@[simp] theorem poisonLine_colls (s : State) (n : Nat) : (s.poisonLine n).colls = s.colls := by unfold State.poisonLine; split <;> rfl

/-! #### State.unpoison writes `mem` alone -/

@[simp] theorem unpoison_tick (s : State) (n : Nat) : (s.unpoison n).tick = s.tick := rfl
@[simp] theorem unpoison_inputs (s : State) (n : Nat) : (s.unpoison n).inputs = s.inputs := rfl
@[simp] theorem unpoison_arg (s : State) (n : Nat) : (s.unpoison n).arg = s.arg := rfl
@[simp] theorem unpoison_focus (s : State) (n : Nat) : (s.unpoison n).focus = s.focus := rfl
@[simp] theorem unpoison_rr (s : State) (n : Nat) : (s.unpoison n).rr = s.rr := rfl
@[simp] theorem unpoison_fresh (s : State) (n : Nat) : (s.unpoison n).fresh = s.fresh := rfl
@[simp] theorem unpoison_cur (s : State) (n : Nat) : (s.unpoison n).cur = s.cur := rfl
@[simp] theorem unpoison_cycle (s : State) (n : Nat) : (s.unpoison n).cycle = s.cycle := rfl
@[simp] theorem unpoison_outbox (s : State) (n : Nat) : (s.unpoison n).outbox = s.outbox := rfl
@[simp] theorem unpoison_nextId (s : State) (n : Nat) : (s.unpoison n).nextId = s.nextId := rfl
@[simp] theorem unpoison_dev (s : State) (n : Nat) : (s.unpoison n).dev = s.dev := rfl
@[simp] theorem unpoison_links (s : State) (n : Nat) : (s.unpoison n).links = s.links := rfl
@[simp] theorem unpoison_cal (s : State) (n : Nat) : (s.unpoison n).cal = s.cal := rfl
@[simp] theorem unpoison_host (s : State) (n : Nat) : (s.unpoison n).host = s.host := rfl
@[simp] theorem unpoison_xl (s : State) (n : Nat) : (s.unpoison n).xl = s.xl := rfl
@[simp] theorem unpoison_stoker (s : State) (n : Nat) : (s.unpoison n).stoker = s.stoker := rfl
@[simp] theorem unpoison_recd (s : State) (n : Nat) : (s.unpoison n).recd = s.recd := rfl
@[simp] theorem unpoison_trace (s : State) (n : Nat) : (s.unpoison n).trace = s.trace := rfl
@[simp] theorem unpoison_stepctl (s : State) (n : Nat) : (s.unpoison n).stepctl = s.stepctl := rfl
@[simp] theorem unpoison_watch (s : State) (n : Nat) : (s.unpoison n).watch = s.watch := rfl
@[simp] theorem unpoison_clusters (s : State) (n : Nat) : (s.unpoison n).clusters = s.clusters := rfl
@[simp] theorem unpoison_cores (s : State) (n : Nat) : (s.unpoison n).cores = s.cores := rfl
@[simp] theorem unpoison_blks (s : State) (n : Nat) : (s.unpoison n).blks = s.blks := rfl
@[simp] theorem unpoison_tls (s : State) (n : Nat) : (s.unpoison n).tls = s.tls := rfl
@[simp] theorem unpoison_phasers (s : State) (n : Nat) : (s.unpoison n).phasers = s.phasers := rfl
@[simp] theorem unpoison_reqs (s : State) (n : Nat) : (s.unpoison n).reqs = s.reqs := rfl
@[simp] theorem unpoison_rels (s : State) (n : Nat) : (s.unpoison n).rels = s.rels := rfl
@[simp] theorem unpoison_sfu (s : State) (n : Nat) : (s.unpoison n).sfu = s.sfu := rfl
@[simp] theorem unpoison_cmds (s : State) (n : Nat) : (s.unpoison n).cmds = s.cmds := rfl
@[simp] theorem unpoison_mcmds (s : State) (n : Nat) : (s.unpoison n).mcmds = s.mcmds := rfl
@[simp] theorem unpoison_colls (s : State) (n : Nat) : (s.unpoison n).colls = s.colls := rfl

/-! #### State.publish writes `mem` alone -/

@[simp] theorem publish_tick (s : State) (n : Nat) : (s.publish n).tick = s.tick := rfl
@[simp] theorem publish_inputs (s : State) (n : Nat) : (s.publish n).inputs = s.inputs := rfl
@[simp] theorem publish_arg (s : State) (n : Nat) : (s.publish n).arg = s.arg := rfl
@[simp] theorem publish_focus (s : State) (n : Nat) : (s.publish n).focus = s.focus := rfl
@[simp] theorem publish_rr (s : State) (n : Nat) : (s.publish n).rr = s.rr := rfl
@[simp] theorem publish_fresh (s : State) (n : Nat) : (s.publish n).fresh = s.fresh := rfl
@[simp] theorem publish_cur (s : State) (n : Nat) : (s.publish n).cur = s.cur := rfl
@[simp] theorem publish_cycle (s : State) (n : Nat) : (s.publish n).cycle = s.cycle := rfl
@[simp] theorem publish_outbox (s : State) (n : Nat) : (s.publish n).outbox = s.outbox := rfl
@[simp] theorem publish_nextId (s : State) (n : Nat) : (s.publish n).nextId = s.nextId := rfl
@[simp] theorem publish_dev (s : State) (n : Nat) : (s.publish n).dev = s.dev := rfl
@[simp] theorem publish_links (s : State) (n : Nat) : (s.publish n).links = s.links := rfl
@[simp] theorem publish_cal (s : State) (n : Nat) : (s.publish n).cal = s.cal := rfl
@[simp] theorem publish_host (s : State) (n : Nat) : (s.publish n).host = s.host := rfl
@[simp] theorem publish_xl (s : State) (n : Nat) : (s.publish n).xl = s.xl := rfl
@[simp] theorem publish_stoker (s : State) (n : Nat) : (s.publish n).stoker = s.stoker := rfl
@[simp] theorem publish_recd (s : State) (n : Nat) : (s.publish n).recd = s.recd := rfl
@[simp] theorem publish_trace (s : State) (n : Nat) : (s.publish n).trace = s.trace := rfl
@[simp] theorem publish_stepctl (s : State) (n : Nat) : (s.publish n).stepctl = s.stepctl := rfl
@[simp] theorem publish_watch (s : State) (n : Nat) : (s.publish n).watch = s.watch := rfl
@[simp] theorem publish_clusters (s : State) (n : Nat) : (s.publish n).clusters = s.clusters := rfl
@[simp] theorem publish_cores (s : State) (n : Nat) : (s.publish n).cores = s.cores := rfl
@[simp] theorem publish_blks (s : State) (n : Nat) : (s.publish n).blks = s.blks := rfl
@[simp] theorem publish_tls (s : State) (n : Nat) : (s.publish n).tls = s.tls := rfl
@[simp] theorem publish_phasers (s : State) (n : Nat) : (s.publish n).phasers = s.phasers := rfl
@[simp] theorem publish_reqs (s : State) (n : Nat) : (s.publish n).reqs = s.reqs := rfl
@[simp] theorem publish_rels (s : State) (n : Nat) : (s.publish n).rels = s.rels := rfl
@[simp] theorem publish_sfu (s : State) (n : Nat) : (s.publish n).sfu = s.sfu := rfl
@[simp] theorem publish_cmds (s : State) (n : Nat) : (s.publish n).cmds = s.cmds := rfl
@[simp] theorem publish_mcmds (s : State) (n : Nat) : (s.publish n).mcmds = s.mcmds := rfl
@[simp] theorem publish_colls (s : State) (n : Nat) : (s.publish n).colls = s.colls := rfl

/-! #### State.dropWalk writes `xl` alone -/

@[simp] theorem dropWalk_tick (s : State) (n : Nat) : (s.dropWalk n).tick = s.tick := rfl
@[simp] theorem dropWalk_inputs (s : State) (n : Nat) : (s.dropWalk n).inputs = s.inputs := rfl
@[simp] theorem dropWalk_arg (s : State) (n : Nat) : (s.dropWalk n).arg = s.arg := rfl
@[simp] theorem dropWalk_focus (s : State) (n : Nat) : (s.dropWalk n).focus = s.focus := rfl
@[simp] theorem dropWalk_rr (s : State) (n : Nat) : (s.dropWalk n).rr = s.rr := rfl
@[simp] theorem dropWalk_fresh (s : State) (n : Nat) : (s.dropWalk n).fresh = s.fresh := rfl
@[simp] theorem dropWalk_cur (s : State) (n : Nat) : (s.dropWalk n).cur = s.cur := rfl
@[simp] theorem dropWalk_cycle (s : State) (n : Nat) : (s.dropWalk n).cycle = s.cycle := rfl
@[simp] theorem dropWalk_outbox (s : State) (n : Nat) : (s.dropWalk n).outbox = s.outbox := rfl
@[simp] theorem dropWalk_nextId (s : State) (n : Nat) : (s.dropWalk n).nextId = s.nextId := rfl
@[simp] theorem dropWalk_dev (s : State) (n : Nat) : (s.dropWalk n).dev = s.dev := rfl
@[simp] theorem dropWalk_links (s : State) (n : Nat) : (s.dropWalk n).links = s.links := rfl
@[simp] theorem dropWalk_mem (s : State) (n : Nat) : (s.dropWalk n).mem = s.mem := rfl
@[simp] theorem dropWalk_cal (s : State) (n : Nat) : (s.dropWalk n).cal = s.cal := rfl
@[simp] theorem dropWalk_host (s : State) (n : Nat) : (s.dropWalk n).host = s.host := rfl
@[simp] theorem dropWalk_stoker (s : State) (n : Nat) : (s.dropWalk n).stoker = s.stoker := rfl
@[simp] theorem dropWalk_recd (s : State) (n : Nat) : (s.dropWalk n).recd = s.recd := rfl
@[simp] theorem dropWalk_trace (s : State) (n : Nat) : (s.dropWalk n).trace = s.trace := rfl
@[simp] theorem dropWalk_stepctl (s : State) (n : Nat) : (s.dropWalk n).stepctl = s.stepctl := rfl
@[simp] theorem dropWalk_watch (s : State) (n : Nat) : (s.dropWalk n).watch = s.watch := rfl
@[simp] theorem dropWalk_clusters (s : State) (n : Nat) : (s.dropWalk n).clusters = s.clusters := rfl
@[simp] theorem dropWalk_cores (s : State) (n : Nat) : (s.dropWalk n).cores = s.cores := rfl
@[simp] theorem dropWalk_blks (s : State) (n : Nat) : (s.dropWalk n).blks = s.blks := rfl
@[simp] theorem dropWalk_tls (s : State) (n : Nat) : (s.dropWalk n).tls = s.tls := rfl
@[simp] theorem dropWalk_phasers (s : State) (n : Nat) : (s.dropWalk n).phasers = s.phasers := rfl
@[simp] theorem dropWalk_reqs (s : State) (n : Nat) : (s.dropWalk n).reqs = s.reqs := rfl
@[simp] theorem dropWalk_rels (s : State) (n : Nat) : (s.dropWalk n).rels = s.rels := rfl
@[simp] theorem dropWalk_sfu (s : State) (n : Nat) : (s.dropWalk n).sfu = s.sfu := rfl
@[simp] theorem dropWalk_cmds (s : State) (n : Nat) : (s.dropWalk n).cmds = s.cmds := rfl
@[simp] theorem dropWalk_mcmds (s : State) (n : Nat) : (s.dropWalk n).mcmds = s.mcmds := rfl
@[simp] theorem dropWalk_colls (s : State) (n : Nat) : (s.dropWalk n).colls = s.colls := rfl

/-! #### State.fillTlb writes `xl` alone -/

@[simp] theorem fillTlb_tick (s : State) (ts : List Nat) (c p : Nat) (a : Option Bool) (l : Leaf) : (s.fillTlb ts c p a l).tick = s.tick := rfl
@[simp] theorem fillTlb_inputs (s : State) (ts : List Nat) (c p : Nat) (a : Option Bool) (l : Leaf) : (s.fillTlb ts c p a l).inputs = s.inputs := rfl
@[simp] theorem fillTlb_arg (s : State) (ts : List Nat) (c p : Nat) (a : Option Bool) (l : Leaf) : (s.fillTlb ts c p a l).arg = s.arg := rfl
@[simp] theorem fillTlb_focus (s : State) (ts : List Nat) (c p : Nat) (a : Option Bool) (l : Leaf) : (s.fillTlb ts c p a l).focus = s.focus := rfl
@[simp] theorem fillTlb_rr (s : State) (ts : List Nat) (c p : Nat) (a : Option Bool) (l : Leaf) : (s.fillTlb ts c p a l).rr = s.rr := rfl
@[simp] theorem fillTlb_fresh (s : State) (ts : List Nat) (c p : Nat) (a : Option Bool) (l : Leaf) : (s.fillTlb ts c p a l).fresh = s.fresh := rfl
@[simp] theorem fillTlb_cur (s : State) (ts : List Nat) (c p : Nat) (a : Option Bool) (l : Leaf) : (s.fillTlb ts c p a l).cur = s.cur := rfl
@[simp] theorem fillTlb_cycle (s : State) (ts : List Nat) (c p : Nat) (a : Option Bool) (l : Leaf) : (s.fillTlb ts c p a l).cycle = s.cycle := rfl
@[simp] theorem fillTlb_outbox (s : State) (ts : List Nat) (c p : Nat) (a : Option Bool) (l : Leaf) : (s.fillTlb ts c p a l).outbox = s.outbox := rfl
@[simp] theorem fillTlb_nextId (s : State) (ts : List Nat) (c p : Nat) (a : Option Bool) (l : Leaf) : (s.fillTlb ts c p a l).nextId = s.nextId := rfl
@[simp] theorem fillTlb_dev (s : State) (ts : List Nat) (c p : Nat) (a : Option Bool) (l : Leaf) : (s.fillTlb ts c p a l).dev = s.dev := rfl
@[simp] theorem fillTlb_links (s : State) (ts : List Nat) (c p : Nat) (a : Option Bool) (l : Leaf) : (s.fillTlb ts c p a l).links = s.links := rfl
@[simp] theorem fillTlb_mem (s : State) (ts : List Nat) (c p : Nat) (a : Option Bool) (l : Leaf) : (s.fillTlb ts c p a l).mem = s.mem := rfl
@[simp] theorem fillTlb_cal (s : State) (ts : List Nat) (c p : Nat) (a : Option Bool) (l : Leaf) : (s.fillTlb ts c p a l).cal = s.cal := rfl
@[simp] theorem fillTlb_host (s : State) (ts : List Nat) (c p : Nat) (a : Option Bool) (l : Leaf) : (s.fillTlb ts c p a l).host = s.host := rfl
@[simp] theorem fillTlb_stoker (s : State) (ts : List Nat) (c p : Nat) (a : Option Bool) (l : Leaf) : (s.fillTlb ts c p a l).stoker = s.stoker := rfl
@[simp] theorem fillTlb_recd (s : State) (ts : List Nat) (c p : Nat) (a : Option Bool) (l : Leaf) : (s.fillTlb ts c p a l).recd = s.recd := rfl
@[simp] theorem fillTlb_trace (s : State) (ts : List Nat) (c p : Nat) (a : Option Bool) (l : Leaf) : (s.fillTlb ts c p a l).trace = s.trace := rfl
@[simp] theorem fillTlb_stepctl (s : State) (ts : List Nat) (c p : Nat) (a : Option Bool) (l : Leaf) : (s.fillTlb ts c p a l).stepctl = s.stepctl := rfl
@[simp] theorem fillTlb_watch (s : State) (ts : List Nat) (c p : Nat) (a : Option Bool) (l : Leaf) : (s.fillTlb ts c p a l).watch = s.watch := rfl
@[simp] theorem fillTlb_clusters (s : State) (ts : List Nat) (c p : Nat) (a : Option Bool) (l : Leaf) : (s.fillTlb ts c p a l).clusters = s.clusters := rfl
@[simp] theorem fillTlb_cores (s : State) (ts : List Nat) (c p : Nat) (a : Option Bool) (l : Leaf) : (s.fillTlb ts c p a l).cores = s.cores := rfl
@[simp] theorem fillTlb_blks (s : State) (ts : List Nat) (c p : Nat) (a : Option Bool) (l : Leaf) : (s.fillTlb ts c p a l).blks = s.blks := rfl
@[simp] theorem fillTlb_tls (s : State) (ts : List Nat) (c p : Nat) (a : Option Bool) (l : Leaf) : (s.fillTlb ts c p a l).tls = s.tls := rfl
@[simp] theorem fillTlb_phasers (s : State) (ts : List Nat) (c p : Nat) (a : Option Bool) (l : Leaf) : (s.fillTlb ts c p a l).phasers = s.phasers := rfl
@[simp] theorem fillTlb_reqs (s : State) (ts : List Nat) (c p : Nat) (a : Option Bool) (l : Leaf) : (s.fillTlb ts c p a l).reqs = s.reqs := rfl
@[simp] theorem fillTlb_rels (s : State) (ts : List Nat) (c p : Nat) (a : Option Bool) (l : Leaf) : (s.fillTlb ts c p a l).rels = s.rels := rfl
@[simp] theorem fillTlb_sfu (s : State) (ts : List Nat) (c p : Nat) (a : Option Bool) (l : Leaf) : (s.fillTlb ts c p a l).sfu = s.sfu := rfl
@[simp] theorem fillTlb_cmds (s : State) (ts : List Nat) (c p : Nat) (a : Option Bool) (l : Leaf) : (s.fillTlb ts c p a l).cmds = s.cmds := rfl
@[simp] theorem fillTlb_mcmds (s : State) (ts : List Nat) (c p : Nat) (a : Option Bool) (l : Leaf) : (s.fillTlb ts c p a l).mcmds = s.mcmds := rfl
@[simp] theorem fillTlb_colls (s : State) (ts : List Nat) (c p : Nat) (a : Option Bool) (l : Leaf) : (s.fillTlb ts c p a l).colls = s.colls := rfl

/-! #### State.touchTlb writes `xl` alone -/

@[simp] theorem touchTlb_tick (s : State) (m : Mmu) (va : DWord) : (s.touchTlb m va).tick = s.tick := by
  unfold State.touchTlb; split <;> (try split) <;> rfl
@[simp] theorem touchTlb_inputs (s : State) (m : Mmu) (va : DWord) : (s.touchTlb m va).inputs = s.inputs := by
  unfold State.touchTlb; split <;> (try split) <;> rfl
@[simp] theorem touchTlb_arg (s : State) (m : Mmu) (va : DWord) : (s.touchTlb m va).arg = s.arg := by
  unfold State.touchTlb; split <;> (try split) <;> rfl
@[simp] theorem touchTlb_focus (s : State) (m : Mmu) (va : DWord) : (s.touchTlb m va).focus = s.focus := by
  unfold State.touchTlb; split <;> (try split) <;> rfl
@[simp] theorem touchTlb_rr (s : State) (m : Mmu) (va : DWord) : (s.touchTlb m va).rr = s.rr := by
  unfold State.touchTlb; split <;> (try split) <;> rfl
@[simp] theorem touchTlb_fresh (s : State) (m : Mmu) (va : DWord) : (s.touchTlb m va).fresh = s.fresh := by
  unfold State.touchTlb; split <;> (try split) <;> rfl
@[simp] theorem touchTlb_cur (s : State) (m : Mmu) (va : DWord) : (s.touchTlb m va).cur = s.cur := by
  unfold State.touchTlb; split <;> (try split) <;> rfl
@[simp] theorem touchTlb_cycle (s : State) (m : Mmu) (va : DWord) : (s.touchTlb m va).cycle = s.cycle := by
  unfold State.touchTlb; split <;> (try split) <;> rfl
@[simp] theorem touchTlb_outbox (s : State) (m : Mmu) (va : DWord) : (s.touchTlb m va).outbox = s.outbox := by
  unfold State.touchTlb; split <;> (try split) <;> rfl
@[simp] theorem touchTlb_nextId (s : State) (m : Mmu) (va : DWord) : (s.touchTlb m va).nextId = s.nextId := by
  unfold State.touchTlb; split <;> (try split) <;> rfl
@[simp] theorem touchTlb_dev (s : State) (m : Mmu) (va : DWord) : (s.touchTlb m va).dev = s.dev := by
  unfold State.touchTlb; split <;> (try split) <;> rfl
@[simp] theorem touchTlb_links (s : State) (m : Mmu) (va : DWord) : (s.touchTlb m va).links = s.links := by
  unfold State.touchTlb; split <;> (try split) <;> rfl
@[simp] theorem touchTlb_mem (s : State) (m : Mmu) (va : DWord) : (s.touchTlb m va).mem = s.mem := by
  unfold State.touchTlb; split <;> (try split) <;> rfl
@[simp] theorem touchTlb_cal (s : State) (m : Mmu) (va : DWord) : (s.touchTlb m va).cal = s.cal := by
  unfold State.touchTlb; split <;> (try split) <;> rfl
@[simp] theorem touchTlb_host (s : State) (m : Mmu) (va : DWord) : (s.touchTlb m va).host = s.host := by
  unfold State.touchTlb; split <;> (try split) <;> rfl
@[simp] theorem touchTlb_stoker (s : State) (m : Mmu) (va : DWord) : (s.touchTlb m va).stoker = s.stoker := by
  unfold State.touchTlb; split <;> (try split) <;> rfl
@[simp] theorem touchTlb_recd (s : State) (m : Mmu) (va : DWord) : (s.touchTlb m va).recd = s.recd := by
  unfold State.touchTlb; split <;> (try split) <;> rfl
@[simp] theorem touchTlb_trace (s : State) (m : Mmu) (va : DWord) : (s.touchTlb m va).trace = s.trace := by
  unfold State.touchTlb; split <;> (try split) <;> rfl
@[simp] theorem touchTlb_stepctl (s : State) (m : Mmu) (va : DWord) : (s.touchTlb m va).stepctl = s.stepctl := by
  unfold State.touchTlb; split <;> (try split) <;> rfl
@[simp] theorem touchTlb_watch (s : State) (m : Mmu) (va : DWord) : (s.touchTlb m va).watch = s.watch := by
  unfold State.touchTlb; split <;> (try split) <;> rfl
@[simp] theorem touchTlb_clusters (s : State) (m : Mmu) (va : DWord) : (s.touchTlb m va).clusters = s.clusters := by
  unfold State.touchTlb; split <;> (try split) <;> rfl
@[simp] theorem touchTlb_cores (s : State) (m : Mmu) (va : DWord) : (s.touchTlb m va).cores = s.cores := by
  unfold State.touchTlb; split <;> (try split) <;> rfl
@[simp] theorem touchTlb_blks (s : State) (m : Mmu) (va : DWord) : (s.touchTlb m va).blks = s.blks := by
  unfold State.touchTlb; split <;> (try split) <;> rfl
@[simp] theorem touchTlb_tls (s : State) (m : Mmu) (va : DWord) : (s.touchTlb m va).tls = s.tls := by
  unfold State.touchTlb; split <;> (try split) <;> rfl
@[simp] theorem touchTlb_phasers (s : State) (m : Mmu) (va : DWord) : (s.touchTlb m va).phasers = s.phasers := by
  unfold State.touchTlb; split <;> (try split) <;> rfl
@[simp] theorem touchTlb_reqs (s : State) (m : Mmu) (va : DWord) : (s.touchTlb m va).reqs = s.reqs := by
  unfold State.touchTlb; split <;> (try split) <;> rfl
@[simp] theorem touchTlb_rels (s : State) (m : Mmu) (va : DWord) : (s.touchTlb m va).rels = s.rels := by
  unfold State.touchTlb; split <;> (try split) <;> rfl
@[simp] theorem touchTlb_sfu (s : State) (m : Mmu) (va : DWord) : (s.touchTlb m va).sfu = s.sfu := by
  unfold State.touchTlb; split <;> (try split) <;> rfl
@[simp] theorem touchTlb_cmds (s : State) (m : Mmu) (va : DWord) : (s.touchTlb m va).cmds = s.cmds := by
  unfold State.touchTlb; split <;> (try split) <;> rfl
@[simp] theorem touchTlb_mcmds (s : State) (m : Mmu) (va : DWord) : (s.touchTlb m va).mcmds = s.mcmds := by
  unfold State.touchTlb; split <;> (try split) <;> rfl
@[simp] theorem touchTlb_colls (s : State) (m : Mmu) (va : DWord) : (s.touchTlb m va).colls = s.colls := by
  unfold State.touchTlb; split <;> (try split) <;> rfl

/-! #### State.dropTranslations writes `xl` and `outbox` alone -/

@[simp] theorem dropTranslations_tick (s : State) (c : Nat) (p : Nat → Bool) : (s.dropTranslations c p).tick = s.tick := rfl
@[simp] theorem dropTranslations_inputs (s : State) (c : Nat) (p : Nat → Bool) : (s.dropTranslations c p).inputs = s.inputs := rfl
@[simp] theorem dropTranslations_arg (s : State) (c : Nat) (p : Nat → Bool) : (s.dropTranslations c p).arg = s.arg := rfl
@[simp] theorem dropTranslations_focus (s : State) (c : Nat) (p : Nat → Bool) : (s.dropTranslations c p).focus = s.focus := rfl
@[simp] theorem dropTranslations_rr (s : State) (c : Nat) (p : Nat → Bool) : (s.dropTranslations c p).rr = s.rr := rfl
@[simp] theorem dropTranslations_fresh (s : State) (c : Nat) (p : Nat → Bool) : (s.dropTranslations c p).fresh = s.fresh := rfl
@[simp] theorem dropTranslations_cur (s : State) (c : Nat) (p : Nat → Bool) : (s.dropTranslations c p).cur = s.cur := rfl
@[simp] theorem dropTranslations_cycle (s : State) (c : Nat) (p : Nat → Bool) : (s.dropTranslations c p).cycle = s.cycle := rfl
@[simp] theorem dropTranslations_nextId (s : State) (c : Nat) (p : Nat → Bool) : (s.dropTranslations c p).nextId = s.nextId := rfl
@[simp] theorem dropTranslations_dev (s : State) (c : Nat) (p : Nat → Bool) : (s.dropTranslations c p).dev = s.dev := rfl
@[simp] theorem dropTranslations_links (s : State) (c : Nat) (p : Nat → Bool) : (s.dropTranslations c p).links = s.links := rfl
@[simp] theorem dropTranslations_mem (s : State) (c : Nat) (p : Nat → Bool) : (s.dropTranslations c p).mem = s.mem := rfl
@[simp] theorem dropTranslations_cal (s : State) (c : Nat) (p : Nat → Bool) : (s.dropTranslations c p).cal = s.cal := rfl
@[simp] theorem dropTranslations_host (s : State) (c : Nat) (p : Nat → Bool) : (s.dropTranslations c p).host = s.host := rfl
@[simp] theorem dropTranslations_stoker (s : State) (c : Nat) (p : Nat → Bool) : (s.dropTranslations c p).stoker = s.stoker := rfl
@[simp] theorem dropTranslations_recd (s : State) (c : Nat) (p : Nat → Bool) : (s.dropTranslations c p).recd = s.recd := rfl
@[simp] theorem dropTranslations_trace (s : State) (c : Nat) (p : Nat → Bool) : (s.dropTranslations c p).trace = s.trace := rfl
@[simp] theorem dropTranslations_stepctl (s : State) (c : Nat) (p : Nat → Bool) : (s.dropTranslations c p).stepctl = s.stepctl := rfl
@[simp] theorem dropTranslations_watch (s : State) (c : Nat) (p : Nat → Bool) : (s.dropTranslations c p).watch = s.watch := rfl
@[simp] theorem dropTranslations_clusters (s : State) (c : Nat) (p : Nat → Bool) : (s.dropTranslations c p).clusters = s.clusters := rfl
@[simp] theorem dropTranslations_cores (s : State) (c : Nat) (p : Nat → Bool) : (s.dropTranslations c p).cores = s.cores := rfl
@[simp] theorem dropTranslations_blks (s : State) (c : Nat) (p : Nat → Bool) : (s.dropTranslations c p).blks = s.blks := rfl
@[simp] theorem dropTranslations_tls (s : State) (c : Nat) (p : Nat → Bool) : (s.dropTranslations c p).tls = s.tls := rfl
@[simp] theorem dropTranslations_phasers (s : State) (c : Nat) (p : Nat → Bool) : (s.dropTranslations c p).phasers = s.phasers := rfl
@[simp] theorem dropTranslations_reqs (s : State) (c : Nat) (p : Nat → Bool) : (s.dropTranslations c p).reqs = s.reqs := rfl
@[simp] theorem dropTranslations_rels (s : State) (c : Nat) (p : Nat → Bool) : (s.dropTranslations c p).rels = s.rels := rfl
@[simp] theorem dropTranslations_sfu (s : State) (c : Nat) (p : Nat → Bool) : (s.dropTranslations c p).sfu = s.sfu := rfl
@[simp] theorem dropTranslations_cmds (s : State) (c : Nat) (p : Nat → Bool) : (s.dropTranslations c p).cmds = s.cmds := rfl
@[simp] theorem dropTranslations_mcmds (s : State) (c : Nat) (p : Nat → Bool) : (s.dropTranslations c p).mcmds = s.mcmds := rfl
@[simp] theorem dropTranslations_colls (s : State) (c : Nat) (p : Nat → Bool) : (s.dropTranslations c p).colls = s.colls := rfl

/-! #### State.dropAll writes `xl` alone -/

@[simp] theorem dropAll_tick (s : State) (c : Nat) : (s.dropAll c).tick = s.tick := rfl
@[simp] theorem dropAll_inputs (s : State) (c : Nat) : (s.dropAll c).inputs = s.inputs := rfl
@[simp] theorem dropAll_arg (s : State) (c : Nat) : (s.dropAll c).arg = s.arg := rfl
@[simp] theorem dropAll_focus (s : State) (c : Nat) : (s.dropAll c).focus = s.focus := rfl
@[simp] theorem dropAll_rr (s : State) (c : Nat) : (s.dropAll c).rr = s.rr := rfl
@[simp] theorem dropAll_fresh (s : State) (c : Nat) : (s.dropAll c).fresh = s.fresh := rfl
@[simp] theorem dropAll_cur (s : State) (c : Nat) : (s.dropAll c).cur = s.cur := rfl
@[simp] theorem dropAll_cycle (s : State) (c : Nat) : (s.dropAll c).cycle = s.cycle := rfl
@[simp] theorem dropAll_outbox (s : State) (c : Nat) : (s.dropAll c).outbox = s.outbox := rfl
@[simp] theorem dropAll_nextId (s : State) (c : Nat) : (s.dropAll c).nextId = s.nextId := rfl
@[simp] theorem dropAll_dev (s : State) (c : Nat) : (s.dropAll c).dev = s.dev := rfl
@[simp] theorem dropAll_links (s : State) (c : Nat) : (s.dropAll c).links = s.links := rfl
@[simp] theorem dropAll_mem (s : State) (c : Nat) : (s.dropAll c).mem = s.mem := rfl
@[simp] theorem dropAll_cal (s : State) (c : Nat) : (s.dropAll c).cal = s.cal := rfl
@[simp] theorem dropAll_host (s : State) (c : Nat) : (s.dropAll c).host = s.host := rfl
@[simp] theorem dropAll_stoker (s : State) (c : Nat) : (s.dropAll c).stoker = s.stoker := rfl
@[simp] theorem dropAll_recd (s : State) (c : Nat) : (s.dropAll c).recd = s.recd := rfl
@[simp] theorem dropAll_trace (s : State) (c : Nat) : (s.dropAll c).trace = s.trace := rfl
@[simp] theorem dropAll_stepctl (s : State) (c : Nat) : (s.dropAll c).stepctl = s.stepctl := rfl
@[simp] theorem dropAll_watch (s : State) (c : Nat) : (s.dropAll c).watch = s.watch := rfl
@[simp] theorem dropAll_clusters (s : State) (c : Nat) : (s.dropAll c).clusters = s.clusters := rfl
@[simp] theorem dropAll_cores (s : State) (c : Nat) : (s.dropAll c).cores = s.cores := rfl
@[simp] theorem dropAll_blks (s : State) (c : Nat) : (s.dropAll c).blks = s.blks := rfl
@[simp] theorem dropAll_tls (s : State) (c : Nat) : (s.dropAll c).tls = s.tls := rfl
@[simp] theorem dropAll_phasers (s : State) (c : Nat) : (s.dropAll c).phasers = s.phasers := rfl
@[simp] theorem dropAll_reqs (s : State) (c : Nat) : (s.dropAll c).reqs = s.reqs := rfl
@[simp] theorem dropAll_rels (s : State) (c : Nat) : (s.dropAll c).rels = s.rels := rfl
@[simp] theorem dropAll_sfu (s : State) (c : Nat) : (s.dropAll c).sfu = s.sfu := rfl
@[simp] theorem dropAll_cmds (s : State) (c : Nat) : (s.dropAll c).cmds = s.cmds := rfl
@[simp] theorem dropAll_mcmds (s : State) (c : Nat) : (s.dropAll c).mcmds = s.mcmds := rfl
@[simp] theorem dropAll_colls (s : State) (c : Nat) : (s.dropAll c).colls = s.colls := rfl

/-! #### State.setNode writes `stoker` alone -/

@[simp] theorem setNode_tick (s : State) (n : ArmNode) : (s.setNode n).tick = s.tick := rfl
@[simp] theorem setNode_inputs (s : State) (n : ArmNode) : (s.setNode n).inputs = s.inputs := rfl
@[simp] theorem setNode_arg (s : State) (n : ArmNode) : (s.setNode n).arg = s.arg := rfl
@[simp] theorem setNode_focus (s : State) (n : ArmNode) : (s.setNode n).focus = s.focus := rfl
@[simp] theorem setNode_rr (s : State) (n : ArmNode) : (s.setNode n).rr = s.rr := rfl
@[simp] theorem setNode_fresh (s : State) (n : ArmNode) : (s.setNode n).fresh = s.fresh := rfl
@[simp] theorem setNode_cur (s : State) (n : ArmNode) : (s.setNode n).cur = s.cur := rfl
@[simp] theorem setNode_cycle (s : State) (n : ArmNode) : (s.setNode n).cycle = s.cycle := rfl
@[simp] theorem setNode_outbox (s : State) (n : ArmNode) : (s.setNode n).outbox = s.outbox := rfl
@[simp] theorem setNode_nextId (s : State) (n : ArmNode) : (s.setNode n).nextId = s.nextId := rfl
@[simp] theorem setNode_dev (s : State) (n : ArmNode) : (s.setNode n).dev = s.dev := rfl
@[simp] theorem setNode_links (s : State) (n : ArmNode) : (s.setNode n).links = s.links := rfl
@[simp] theorem setNode_mem (s : State) (n : ArmNode) : (s.setNode n).mem = s.mem := rfl
@[simp] theorem setNode_cal (s : State) (n : ArmNode) : (s.setNode n).cal = s.cal := rfl
@[simp] theorem setNode_host (s : State) (n : ArmNode) : (s.setNode n).host = s.host := rfl
@[simp] theorem setNode_xl (s : State) (n : ArmNode) : (s.setNode n).xl = s.xl := rfl
@[simp] theorem setNode_recd (s : State) (n : ArmNode) : (s.setNode n).recd = s.recd := rfl
@[simp] theorem setNode_trace (s : State) (n : ArmNode) : (s.setNode n).trace = s.trace := rfl
@[simp] theorem setNode_stepctl (s : State) (n : ArmNode) : (s.setNode n).stepctl = s.stepctl := rfl
@[simp] theorem setNode_watch (s : State) (n : ArmNode) : (s.setNode n).watch = s.watch := rfl
@[simp] theorem setNode_clusters (s : State) (n : ArmNode) : (s.setNode n).clusters = s.clusters := rfl
@[simp] theorem setNode_cores (s : State) (n : ArmNode) : (s.setNode n).cores = s.cores := rfl
@[simp] theorem setNode_blks (s : State) (n : ArmNode) : (s.setNode n).blks = s.blks := rfl
@[simp] theorem setNode_tls (s : State) (n : ArmNode) : (s.setNode n).tls = s.tls := rfl
@[simp] theorem setNode_phasers (s : State) (n : ArmNode) : (s.setNode n).phasers = s.phasers := rfl
@[simp] theorem setNode_reqs (s : State) (n : ArmNode) : (s.setNode n).reqs = s.reqs := rfl
@[simp] theorem setNode_rels (s : State) (n : ArmNode) : (s.setNode n).rels = s.rels := rfl
@[simp] theorem setNode_sfu (s : State) (n : ArmNode) : (s.setNode n).sfu = s.sfu := rfl
@[simp] theorem setNode_cmds (s : State) (n : ArmNode) : (s.setNode n).cmds = s.cmds := rfl
@[simp] theorem setNode_mcmds (s : State) (n : ArmNode) : (s.setNode n).mcmds = s.mcmds := rfl
@[simp] theorem setNode_colls (s : State) (n : ArmNode) : (s.setNode n).colls = s.colls := rfl

/-! #### State.setGang writes `stoker` alone -/

@[simp] theorem setGang_tick (s : State) (g : Gang) : (s.setGang g).tick = s.tick := rfl
@[simp] theorem setGang_inputs (s : State) (g : Gang) : (s.setGang g).inputs = s.inputs := rfl
@[simp] theorem setGang_arg (s : State) (g : Gang) : (s.setGang g).arg = s.arg := rfl
@[simp] theorem setGang_focus (s : State) (g : Gang) : (s.setGang g).focus = s.focus := rfl
@[simp] theorem setGang_rr (s : State) (g : Gang) : (s.setGang g).rr = s.rr := rfl
@[simp] theorem setGang_fresh (s : State) (g : Gang) : (s.setGang g).fresh = s.fresh := rfl
@[simp] theorem setGang_cur (s : State) (g : Gang) : (s.setGang g).cur = s.cur := rfl
@[simp] theorem setGang_cycle (s : State) (g : Gang) : (s.setGang g).cycle = s.cycle := rfl
@[simp] theorem setGang_outbox (s : State) (g : Gang) : (s.setGang g).outbox = s.outbox := rfl
@[simp] theorem setGang_nextId (s : State) (g : Gang) : (s.setGang g).nextId = s.nextId := rfl
@[simp] theorem setGang_dev (s : State) (g : Gang) : (s.setGang g).dev = s.dev := rfl
@[simp] theorem setGang_links (s : State) (g : Gang) : (s.setGang g).links = s.links := rfl
@[simp] theorem setGang_mem (s : State) (g : Gang) : (s.setGang g).mem = s.mem := rfl
@[simp] theorem setGang_cal (s : State) (g : Gang) : (s.setGang g).cal = s.cal := rfl
@[simp] theorem setGang_host (s : State) (g : Gang) : (s.setGang g).host = s.host := rfl
@[simp] theorem setGang_xl (s : State) (g : Gang) : (s.setGang g).xl = s.xl := rfl
@[simp] theorem setGang_recd (s : State) (g : Gang) : (s.setGang g).recd = s.recd := rfl
@[simp] theorem setGang_trace (s : State) (g : Gang) : (s.setGang g).trace = s.trace := rfl
@[simp] theorem setGang_stepctl (s : State) (g : Gang) : (s.setGang g).stepctl = s.stepctl := rfl
@[simp] theorem setGang_watch (s : State) (g : Gang) : (s.setGang g).watch = s.watch := rfl
@[simp] theorem setGang_clusters (s : State) (g : Gang) : (s.setGang g).clusters = s.clusters := rfl
@[simp] theorem setGang_cores (s : State) (g : Gang) : (s.setGang g).cores = s.cores := rfl
@[simp] theorem setGang_blks (s : State) (g : Gang) : (s.setGang g).blks = s.blks := rfl
@[simp] theorem setGang_tls (s : State) (g : Gang) : (s.setGang g).tls = s.tls := rfl
@[simp] theorem setGang_phasers (s : State) (g : Gang) : (s.setGang g).phasers = s.phasers := rfl
@[simp] theorem setGang_reqs (s : State) (g : Gang) : (s.setGang g).reqs = s.reqs := rfl
@[simp] theorem setGang_rels (s : State) (g : Gang) : (s.setGang g).rels = s.rels := rfl
@[simp] theorem setGang_sfu (s : State) (g : Gang) : (s.setGang g).sfu = s.sfu := rfl
@[simp] theorem setGang_cmds (s : State) (g : Gang) : (s.setGang g).cmds = s.cmds := rfl
@[simp] theorem setGang_mcmds (s : State) (g : Gang) : (s.setGang g).mcmds = s.mcmds := rfl
@[simp] theorem setGang_colls (s : State) (g : Gang) : (s.setGang g).colls = s.colls := rfl

/-! #### State.modPort writes `links` alone -/

@[simp] theorem modPort_tick (s : State) (p : Nat) (f : VPort → VPort) : (s.modPort p f).tick = s.tick := rfl
@[simp] theorem modPort_inputs (s : State) (p : Nat) (f : VPort → VPort) : (s.modPort p f).inputs = s.inputs := rfl
@[simp] theorem modPort_arg (s : State) (p : Nat) (f : VPort → VPort) : (s.modPort p f).arg = s.arg := rfl
@[simp] theorem modPort_focus (s : State) (p : Nat) (f : VPort → VPort) : (s.modPort p f).focus = s.focus := rfl
@[simp] theorem modPort_rr (s : State) (p : Nat) (f : VPort → VPort) : (s.modPort p f).rr = s.rr := rfl
@[simp] theorem modPort_fresh (s : State) (p : Nat) (f : VPort → VPort) : (s.modPort p f).fresh = s.fresh := rfl
@[simp] theorem modPort_cur (s : State) (p : Nat) (f : VPort → VPort) : (s.modPort p f).cur = s.cur := rfl
@[simp] theorem modPort_cycle (s : State) (p : Nat) (f : VPort → VPort) : (s.modPort p f).cycle = s.cycle := rfl
@[simp] theorem modPort_outbox (s : State) (p : Nat) (f : VPort → VPort) : (s.modPort p f).outbox = s.outbox := rfl
@[simp] theorem modPort_nextId (s : State) (p : Nat) (f : VPort → VPort) : (s.modPort p f).nextId = s.nextId := rfl
@[simp] theorem modPort_dev (s : State) (p : Nat) (f : VPort → VPort) : (s.modPort p f).dev = s.dev := rfl
@[simp] theorem modPort_mem (s : State) (p : Nat) (f : VPort → VPort) : (s.modPort p f).mem = s.mem := rfl
@[simp] theorem modPort_cal (s : State) (p : Nat) (f : VPort → VPort) : (s.modPort p f).cal = s.cal := rfl
@[simp] theorem modPort_host (s : State) (p : Nat) (f : VPort → VPort) : (s.modPort p f).host = s.host := rfl
@[simp] theorem modPort_xl (s : State) (p : Nat) (f : VPort → VPort) : (s.modPort p f).xl = s.xl := rfl
@[simp] theorem modPort_stoker (s : State) (p : Nat) (f : VPort → VPort) : (s.modPort p f).stoker = s.stoker := rfl
@[simp] theorem modPort_recd (s : State) (p : Nat) (f : VPort → VPort) : (s.modPort p f).recd = s.recd := rfl
@[simp] theorem modPort_trace (s : State) (p : Nat) (f : VPort → VPort) : (s.modPort p f).trace = s.trace := rfl
@[simp] theorem modPort_stepctl (s : State) (p : Nat) (f : VPort → VPort) : (s.modPort p f).stepctl = s.stepctl := rfl
@[simp] theorem modPort_watch (s : State) (p : Nat) (f : VPort → VPort) : (s.modPort p f).watch = s.watch := rfl
@[simp] theorem modPort_clusters (s : State) (p : Nat) (f : VPort → VPort) : (s.modPort p f).clusters = s.clusters := rfl
@[simp] theorem modPort_cores (s : State) (p : Nat) (f : VPort → VPort) : (s.modPort p f).cores = s.cores := rfl
@[simp] theorem modPort_blks (s : State) (p : Nat) (f : VPort → VPort) : (s.modPort p f).blks = s.blks := rfl
@[simp] theorem modPort_tls (s : State) (p : Nat) (f : VPort → VPort) : (s.modPort p f).tls = s.tls := rfl
@[simp] theorem modPort_phasers (s : State) (p : Nat) (f : VPort → VPort) : (s.modPort p f).phasers = s.phasers := rfl
@[simp] theorem modPort_reqs (s : State) (p : Nat) (f : VPort → VPort) : (s.modPort p f).reqs = s.reqs := rfl
@[simp] theorem modPort_rels (s : State) (p : Nat) (f : VPort → VPort) : (s.modPort p f).rels = s.rels := rfl
@[simp] theorem modPort_sfu (s : State) (p : Nat) (f : VPort → VPort) : (s.modPort p f).sfu = s.sfu := rfl
@[simp] theorem modPort_cmds (s : State) (p : Nat) (f : VPort → VPort) : (s.modPort p f).cmds = s.cmds := rfl
@[simp] theorem modPort_mcmds (s : State) (p : Nat) (f : VPort → VPort) : (s.modPort p f).mcmds = s.mcmds := rfl
@[simp] theorem modPort_colls (s : State) (p : Nat) (f : VPort → VPort) : (s.modPort p f).colls = s.colls := rfl

/-! #### State.setCache writes `mem` alone -/

@[simp] theorem setCache_tick (s : State) (l : List CacheLine) : (s.setCache l).tick = s.tick := rfl
@[simp] theorem setCache_inputs (s : State) (l : List CacheLine) : (s.setCache l).inputs = s.inputs := rfl
@[simp] theorem setCache_arg (s : State) (l : List CacheLine) : (s.setCache l).arg = s.arg := rfl
@[simp] theorem setCache_focus (s : State) (l : List CacheLine) : (s.setCache l).focus = s.focus := rfl
@[simp] theorem setCache_rr (s : State) (l : List CacheLine) : (s.setCache l).rr = s.rr := rfl
@[simp] theorem setCache_fresh (s : State) (l : List CacheLine) : (s.setCache l).fresh = s.fresh := rfl
@[simp] theorem setCache_cur (s : State) (l : List CacheLine) : (s.setCache l).cur = s.cur := rfl
@[simp] theorem setCache_cycle (s : State) (l : List CacheLine) : (s.setCache l).cycle = s.cycle := rfl
@[simp] theorem setCache_outbox (s : State) (l : List CacheLine) : (s.setCache l).outbox = s.outbox := rfl
@[simp] theorem setCache_nextId (s : State) (l : List CacheLine) : (s.setCache l).nextId = s.nextId := rfl
@[simp] theorem setCache_dev (s : State) (l : List CacheLine) : (s.setCache l).dev = s.dev := rfl
@[simp] theorem setCache_links (s : State) (l : List CacheLine) : (s.setCache l).links = s.links := rfl
@[simp] theorem setCache_cal (s : State) (l : List CacheLine) : (s.setCache l).cal = s.cal := rfl
@[simp] theorem setCache_host (s : State) (l : List CacheLine) : (s.setCache l).host = s.host := rfl
@[simp] theorem setCache_xl (s : State) (l : List CacheLine) : (s.setCache l).xl = s.xl := rfl
@[simp] theorem setCache_stoker (s : State) (l : List CacheLine) : (s.setCache l).stoker = s.stoker := rfl
@[simp] theorem setCache_recd (s : State) (l : List CacheLine) : (s.setCache l).recd = s.recd := rfl
@[simp] theorem setCache_trace (s : State) (l : List CacheLine) : (s.setCache l).trace = s.trace := rfl
@[simp] theorem setCache_stepctl (s : State) (l : List CacheLine) : (s.setCache l).stepctl = s.stepctl := rfl
@[simp] theorem setCache_watch (s : State) (l : List CacheLine) : (s.setCache l).watch = s.watch := rfl
@[simp] theorem setCache_clusters (s : State) (l : List CacheLine) : (s.setCache l).clusters = s.clusters := rfl
@[simp] theorem setCache_cores (s : State) (l : List CacheLine) : (s.setCache l).cores = s.cores := rfl
@[simp] theorem setCache_blks (s : State) (l : List CacheLine) : (s.setCache l).blks = s.blks := rfl
@[simp] theorem setCache_tls (s : State) (l : List CacheLine) : (s.setCache l).tls = s.tls := rfl
@[simp] theorem setCache_phasers (s : State) (l : List CacheLine) : (s.setCache l).phasers = s.phasers := rfl
@[simp] theorem setCache_reqs (s : State) (l : List CacheLine) : (s.setCache l).reqs = s.reqs := rfl
@[simp] theorem setCache_rels (s : State) (l : List CacheLine) : (s.setCache l).rels = s.rels := rfl
@[simp] theorem setCache_sfu (s : State) (l : List CacheLine) : (s.setCache l).sfu = s.sfu := rfl
@[simp] theorem setCache_cmds (s : State) (l : List CacheLine) : (s.setCache l).cmds = s.cmds := rfl
@[simp] theorem setCache_mcmds (s : State) (l : List CacheLine) : (s.setCache l).mcmds = s.mcmds := rfl
@[simp] theorem setCache_colls (s : State) (l : List CacheLine) : (s.setCache l).colls = s.colls := rfl

/-! #### State.breakAt writes `recd` alone -/

@[simp] theorem breakAt_tick (s : State) (p : Nat × Brk) : (s.breakAt p).tick = s.tick := rfl
@[simp] theorem breakAt_inputs (s : State) (p : Nat × Brk) : (s.breakAt p).inputs = s.inputs := rfl
@[simp] theorem breakAt_arg (s : State) (p : Nat × Brk) : (s.breakAt p).arg = s.arg := rfl
@[simp] theorem breakAt_focus (s : State) (p : Nat × Brk) : (s.breakAt p).focus = s.focus := rfl
@[simp] theorem breakAt_rr (s : State) (p : Nat × Brk) : (s.breakAt p).rr = s.rr := rfl
@[simp] theorem breakAt_fresh (s : State) (p : Nat × Brk) : (s.breakAt p).fresh = s.fresh := rfl
@[simp] theorem breakAt_cur (s : State) (p : Nat × Brk) : (s.breakAt p).cur = s.cur := rfl
@[simp] theorem breakAt_cycle (s : State) (p : Nat × Brk) : (s.breakAt p).cycle = s.cycle := rfl
@[simp] theorem breakAt_outbox (s : State) (p : Nat × Brk) : (s.breakAt p).outbox = s.outbox := rfl
@[simp] theorem breakAt_nextId (s : State) (p : Nat × Brk) : (s.breakAt p).nextId = s.nextId := rfl
@[simp] theorem breakAt_dev (s : State) (p : Nat × Brk) : (s.breakAt p).dev = s.dev := rfl
@[simp] theorem breakAt_links (s : State) (p : Nat × Brk) : (s.breakAt p).links = s.links := rfl
@[simp] theorem breakAt_mem (s : State) (p : Nat × Brk) : (s.breakAt p).mem = s.mem := rfl
@[simp] theorem breakAt_cal (s : State) (p : Nat × Brk) : (s.breakAt p).cal = s.cal := rfl
@[simp] theorem breakAt_host (s : State) (p : Nat × Brk) : (s.breakAt p).host = s.host := rfl
@[simp] theorem breakAt_xl (s : State) (p : Nat × Brk) : (s.breakAt p).xl = s.xl := rfl
@[simp] theorem breakAt_stoker (s : State) (p : Nat × Brk) : (s.breakAt p).stoker = s.stoker := rfl
@[simp] theorem breakAt_trace (s : State) (p : Nat × Brk) : (s.breakAt p).trace = s.trace := rfl
@[simp] theorem breakAt_stepctl (s : State) (p : Nat × Brk) : (s.breakAt p).stepctl = s.stepctl := rfl
@[simp] theorem breakAt_watch (s : State) (p : Nat × Brk) : (s.breakAt p).watch = s.watch := rfl
@[simp] theorem breakAt_clusters (s : State) (p : Nat × Brk) : (s.breakAt p).clusters = s.clusters := rfl
@[simp] theorem breakAt_cores (s : State) (p : Nat × Brk) : (s.breakAt p).cores = s.cores := rfl
@[simp] theorem breakAt_blks (s : State) (p : Nat × Brk) : (s.breakAt p).blks = s.blks := rfl
@[simp] theorem breakAt_tls (s : State) (p : Nat × Brk) : (s.breakAt p).tls = s.tls := rfl
@[simp] theorem breakAt_phasers (s : State) (p : Nat × Brk) : (s.breakAt p).phasers = s.phasers := rfl
@[simp] theorem breakAt_reqs (s : State) (p : Nat × Brk) : (s.breakAt p).reqs = s.reqs := rfl
@[simp] theorem breakAt_rels (s : State) (p : Nat × Brk) : (s.breakAt p).rels = s.rels := rfl
@[simp] theorem breakAt_sfu (s : State) (p : Nat × Brk) : (s.breakAt p).sfu = s.sfu := rfl
@[simp] theorem breakAt_cmds (s : State) (p : Nat × Brk) : (s.breakAt p).cmds = s.cmds := rfl
@[simp] theorem breakAt_mcmds (s : State) (p : Nat × Brk) : (s.breakAt p).mcmds = s.mcmds := rfl
@[simp] theorem breakAt_colls (s : State) (p : Nat × Brk) : (s.breakAt p).colls = s.colls := rfl

/-! ### What they write -/

@[simp] theorem bump_fresh (s : State) : s.bump.fresh = s.fresh + 1 := rfl
@[simp] theorem emit_outbox (s : State) (o : Out) : (s.emit o).outbox = s.outbox ++ [o] := rfl
@[simp] theorem machineCheck_inputs (s : State) :
    s.machineCheck.inputs = s.inputs ++ [(.fatalReset, { v := BitVec.ofNat 64 Cause.machineCheck.code })] := rfl

/-- A context's registers after a change of one context's. -/
theorem ctx_modCtx (s : State) (c d : Nat) (f : Ctx → Ctx) : (s.modCtx c f).ctx d = if d = c then f (s.ctx c) else s.ctx d := by
  unfold State.modCtx State.ctx ngetD
  simp only [nget_nput]
  split <;> rfl

/-- A queue slot's registers after a change of one slot's. -/
theorem slot_modSlot (s : State) (n k : Nat) (f : QSlot → QSlot) : (s.modSlot n f).slot k = if k = n then f (s.slot n) else s.slot k := by
  unfold State.modSlot State.slot ngetD
  simp only [nget_nput]
  split <;> rfl

/-- A recording agent after a change of one. -/
theorem agent_setAgent (s : State) (a k : Nat) (x : Agent) : (s.setAgent a x).agent k = if k = a then x else s.agent k := by
  unfold State.setAgent State.agent ngetD
  simp only [nget_nput]
  split <;> rfl

/-- A raise leaves the larger of the two values, and every other timeline alone (R237). -/
theorem timeline_raise (s : State) (n k : Nat) (v : DWord) : (s.raise n v).timeline k =
    if k = n then (if (s.timeline n).toNat < v.toNat then v else s.timeline n) else s.timeline k := by
  unfold State.raise State.timeline ngetD
  simp only [nget_nput]
  split <;> rfl

/-- Blocks other than the one written are untouched. -/
theorem blk?_setBlk_other {s : State} {core bctx core' bctx' : Nat} (h : blkKey core' bctx' ≠ blkKey core bctx) (b : Blk) :
    (s.setBlk core bctx b).blk? core' bctx' = s.blk? core' bctx' := nget_nput_other h _ _

end Sys2Proof.Machine
end

