-- ==== Sys2Proof/Laws/Ops.lean ====
section
/-! SUPPORT. What each shared operation over an issuing word can do, said once: how a word comes to its effect, how it is turned away,
what the ways of leaving it behind write, and what the words of one cycle and the marking of stage deadlocks change. -/

namespace Sys2Proof.Machine

/-! ### The word in the latch -/

/-- A meaning of the word in the latch gives what it says of the party that issues it. -/
theorem withParty_issues {s : State} {c : Cur} {b : Blk} {t : Thr} (h : Issues s c b t) (f : Cur → Blk → Thr → State) :
    withParty s f = .next (f c b t) := by
  unfold withParty
  simp only [h.cur, h.blk, h.thr]

/-- It leaves a next state only by what it says of some issuing party. -/
theorem withParty_next {s u : State} {f : Cur → Blk → Thr → State} (h : withParty s f = .next u) :
    ∃ c b t, Issues s c b t ∧ u = f c b t := by
  unfold withParty at h
  split at h
  · cases h
  · split at h
    · cases h
    · split at h
      · cases h
      · cases h
        exact ⟨_, _, _, ⟨‹_›, ‹_›, ‹_›⟩, rfl⟩

/-- It is never refused. -/
theorem withParty_not_refused (s : State) (f : Cur → Blk → Thr → State) (r : Refusal) : withParty s f ≠ .refused r := by
  unfold withParty
  split
  · simp
  · split
    · simp
    · split <;> simp

/-- It faults only where the latch names no party. -/
theorem withParty_fault {s : State} {f : Cur → Blk → Thr → State} {e : Fault} (h : withParty s f = .fault e) :
    ∀ c b t, ¬Issues s c b t := by
  intro c b t i
  rw [withParty_issues i] at h
  cases h

/-! ### Gates (R308) -/

/-- A word whose issuer may start operations, with no acquire unbound, has its turn, whatever uniform registers it touches. -/
theorem uniTurn_of_mayStart {s : State} {c : Cur} {b : Blk}
    (h : s.mayStart c.core (issuerOf c.bctx c.w) (lowestLane c.lanes) = true)
    (g : s.heldBack c.core c.bctx c.w b.adm c.lanes = false) (rs : List Nat) : s.uniTurn c b rs = true := by
  simp [State.uniTurn, h, g]

/-- A word that touches no uniform register has its turn. -/
@[simp] theorem uniTurn_nil (s : State) (c : Cur) (b : Blk) : s.uniTurn c b [] = true := by simp [State.uniTurn]

/-- A lane word whose gate lets it go, with no active lane or its turn come, has its effect on its active lanes. -/
theorem laneWordOp_go {s : State} {c : Cur} {b : Blk} {t : Thr} {i : Instr} {w : LaneW} (h : Issues s c b t)
    (g : laneGate i w c b t (activeLanes c t w.g) = .go)
    (o : activeLanes c t w.g = 0 ∨ s.uniTurn c b (laneUnis i w) = true) (f : Cur → Blk → Thr → Word → State) :
    laneWordOp i w s f = .next (f c b t (activeLanes c t w.g)) := by
  unfold laneWordOp
  rw [withParty_issues h]
  simp only [g]
  rw [if_neg]
  rintro ⟨h1, h2⟩
  rcases o with o | o
  · exact h1 o
  · simp [o] at h2

/-- A lane word out of turn stalls (R125, R141). -/
theorem laneWordOp_stall {s : State} {c : Cur} {b : Blk} {t : Thr} {i : Instr} {w : LaneW} (h : Issues s c b t)
    (g : laneGate i w c b t (activeLanes c t w.g) = .go) (z : activeLanes c t w.g ≠ 0)
    (o : s.uniTurn c b (laneUnis i w) = false) (f : Cur → Blk → Thr → Word → State) :
    laneWordOp i w s f = .next (s.stall c) := by
  unfold laneWordOp
  rw [withParty_issues h]
  simp only [g]
  rw [if_pos ⟨z, by simp [o]⟩]

/-- A lane word whose gate holds it back traps or waits, as the gate says. -/
theorem laneWordOp_refuse {s : State} {c : Cur} {b : Blk} {t : Thr} {i : Instr} {w : LaneW} (h : Issues s c b t)
    (g : laneGate i w c b t (activeLanes c t w.g) ≠ .go) (f : Cur → Blk → Thr → Word → State) :
    laneWordOp i w s f =
      .next (s.refuse c b t (faultLanes c (activeLanes c t w.g)) (laneGate i w c b t (activeLanes c t w.g))) := by
  unfold laneWordOp
  rw [withParty_issues h]
  dsimp only
  split
  · contradiction
  · rfl

/-- Everything a lane word can do. -/
theorem laneWordOp_next {s u : State} {i : Instr} {w : LaneW} {f : Cur → Blk → Thr → Word → State}
    (h : laneWordOp i w s f = .next u) : ∃ c b t, Issues s c b t ∧
      ((laneGate i w c b t (activeLanes c t w.g) = .go ∧
          (activeLanes c t w.g = 0 ∨ s.uniTurn c b (laneUnis i w) = true) ∧ u = f c b t (activeLanes c t w.g)) ∨
        (laneGate i w c b t (activeLanes c t w.g) = .go ∧ activeLanes c t w.g ≠ 0 ∧
          s.uniTurn c b (laneUnis i w) = false ∧ u = s.stall c) ∨
        (laneGate i w c b t (activeLanes c t w.g) ≠ .go ∧
          u = s.refuse c b t (faultLanes c (activeLanes c t w.g)) (laneGate i w c b t (activeLanes c t w.g)))) := by
  obtain ⟨c, b, t, hi, -⟩ := withParty_next h
  refine ⟨c, b, t, hi, ?_⟩
  by_cases g : laneGate i w c b t (activeLanes c t w.g) = .go
  · by_cases o : activeLanes c t w.g = 0 ∨ s.uniTurn c b (laneUnis i w) = true
    · rw [laneWordOp_go hi g o] at h
      cases h
      exact .inl ⟨g, o, rfl⟩
    · rw [not_or, Bool.not_eq_true] at o
      rw [laneWordOp_stall hi g o.1 o.2] at h
      cases h
      exact .inr (.inl ⟨g, o.1, o.2, rfl⟩)
  · rw [laneWordOp_refuse hi g] at h
    cases h
    exact .inr (.inr ⟨g, rfl⟩)

@[simp] theorem first_nil : Gate.first [] = .go := rfl
@[simp] theorem first_go (l : List Gate) : Gate.first (.go :: l) = Gate.first l := rfl
@[simp] theorem first_trap (c : Cause) (l : List Gate) : Gate.first (.trap c :: l) = .trap c := rfl
@[simp] theorem first_wait (p : BlockPt) (l : List Gate) : Gate.first (.wait p :: l) = .wait p := rfl

/-- A word of classes 4 to 6 whose gates let it go has its effect. -/
theorem ctlWordOp_go {s : State} {c : Cur} {b : Blk} {t : Thr} {i : Instr} (h : Issues s c b t) {more : Cur → Blk → Thr → Gate}
    (g : ctlGate i c t = .go) (m : more c b t = .go) (f : Cur → Blk → Thr → State) :
    ctlWordOp i s more f = .next (f c b t) := by
  unfold ctlWordOp
  rw [withParty_issues h]
  simp only [g, m, first_go, first_nil]

/-- Everything such a word can do. -/
theorem ctlWordOp_next {s u : State} {i : Instr} {more : Cur → Blk → Thr → Gate} {f : Cur → Blk → Thr → State}
    (h : ctlWordOp i s more f = .next u) : ∃ c b t, Issues s c b t ∧
      ((Gate.first [ctlGate i c t, more c b t] = .go ∧ u = f c b t) ∨
        (Gate.first [ctlGate i c t, more c b t] ≠ .go ∧ u = s.refuse c b t c.lanes (Gate.first [ctlGate i c t, more c b t]))) := by
  unfold ctlWordOp at h
  obtain ⟨c, b, t, hi, hu⟩ := withParty_next h
  refine ⟨c, b, t, hi, ?_⟩
  split at hu
  · exact .inl ⟨‹_›, hu⟩
  · rename_i g hg
    exact .inr ⟨hg, hu⟩

/-- A word that touches uniform registers, whose gates let it go and whose turn has come, has its effect. -/
theorem ctlUniOp_go {s : State} {c : Cur} {b : Blk} {t : Thr} {i : Instr} {rs : Cur → List Nat} {more : Cur → Blk → Thr → Gate}
    (h : Issues s c b t) (g : ctlGate i c t = .go) (m : more c b t = .go) (o : s.uniTurn c b (rs c) = true)
    (f : Cur → Blk → Thr → State) : ctlUniOp i s rs more f = .next (f c b t) := by
  unfold ctlUniOp
  rw [ctlWordOp_go h g m]
  simp [o]

/-- A word in the uniform layout whose gates let it go has its effect on the state with its reads recorded. -/
theorem uniWordOp_go {s : State} {c : Cur} {b : Blk} {t : Thr} {i : Instr} {w : UniW} (h : UniReady s c b t i w)
    (f : State → Cur → Blk → Thr → State) :
    uniWordOp i w s f = .next (f (s.noteUnis c b (uniUnis i w) false) c b t) := by
  unfold uniWordOp
  exact ctlUniOp_go h.toIssues h.gate h.operands h.unis _

/-! ### Being turned away -/

@[simp] theorem refuse_go (s : State) (c : Cur) (b : Blk) (t : Thr) (m : Word) : s.refuse c b t m .go = s := rfl
theorem refuse_trap (s : State) (c : Cur) (b : Blk) (t : Thr) (m : Word) (k : Cause) :
    s.refuse c b t m (.trap k) =
      if c.lanes &&& ~~~m = 0 then s.trapWord c b t k m else (s.trapWord c b t k m).retire c (c.lanes &&& ~~~m) := rfl
@[simp] theorem refuse_trap_all (s : State) (c : Cur) (b : Blk) (t : Thr) (k : Cause) :
    s.refuse c b t c.lanes (.trap k) = s.trapWord c b t k c.lanes := by
  rw [refuse_trap, if_pos (by simp)]
@[simp] theorem refuse_wait (s : State) (c : Cur) (b : Blk) (t : Thr) (m : Word) (p : BlockPt) :
    s.refuse c b t m (.wait p) = s.block c c.lanes p := rfl

/-- A wait stops the lanes of the mask in the issuing party and gives up the focus; nothing else changes. -/
theorem block_eq {s : State} {c : Cur} {b : Blk} {t : Thr} (h : Issues s c b t) (m : Word) (p : BlockPt) :
    s.block c m p = { s.setBlk c.core c.bctx (b.setThr c.w (t.modLanes m fun l => { l with stat := .blocked p })) with focus := none } := by
  unfold State.block
  rw [modThr_eq h.blk h.thr]

/-- A stall gives up the focus; nothing else changes. -/
theorem stall_eq (s : State) (c : Cur) : s.stall c = { s with focus := none } := rfl

/-- A stall at copy issue marks the party as well; nothing else changes. -/
theorem stallCopy_eq {s : State} {c : Cur} {b : Blk} {t : Thr} (h : Issues s c b t) :
    s.stallCopy c = { s.setBlk c.core c.bctx (b.setThr c.w { t with copyStall := true }) with focus := none } := by
  unfold State.stallCopy State.stall
  rw [modThr_eq h.blk h.thr]

/-- A precise trap of a word in handler mode kills the block's context (R282). -/
theorem trap_in_handler {s : State} {c : Cur} {b : Blk} {t : Thr} (hw : c.w < 32) (h : t.privileged c.lanes = true) (i : TrapInfo) :
    s.trap c b t i = s.kill b.info.ctx i.cause := by
  unfold State.trap
  rw [if_neg (by omega), if_pos h]

/-- A second kill of a context that is being killed changes nothing (R69). -/
theorem kill_again {s : State} {c : Nat} (h : (s.ctx c).killing = true) (k : Cause) : s.kill c k = s := by
  unfold State.kill
  rw [if_pos h]

/-! ### The words of one cycle and stage deadlocks (R338, R421) -/

/-- After a word only the cycle that it may open changes. -/
theorem openCycle_eq (s pre : State) (c : Cur) (i : Instr) : ∃ k, s.openCycle pre c i = { s with cycle := k } := by
  unfold State.openCycle
  split
  · split
    · exact ⟨_, rfl⟩
    · exact ⟨_, rfl⟩
  · exact ⟨_, rfl⟩

/-- A second word of a cycle leaves its block's uniform registers, predicates and last writers to the cycle, and everything else as its
effect left it. -/
theorem merge_eq (k : Cycle) (b u : Blk) (w : Nat) (r : UniReg) :
    ∃ x q v, k.merge b u w r = { u with s := x, q := q, sWriter := v } := by
  unfold Cycle.merge Blk.putS Blk.putQ
  dsimp only
  split
  · exact ⟨_, _, _, rfl⟩
  · split <;> split <;> exact ⟨_, _, _, rfl⟩

/-- Marking stage deadlocks changes blocks alone. -/
theorem markStuck_eq (s : State) : s.markStuck = { s with blks := s.markStuck.blks } := rfl

end Sys2Proof.Machine
end

