-- ==== Sys2Proof/Laws/PerInstr.lean ====
section
/-! SUPPORT. A statement about every instruction as syntax, one lemma per constructor: an instruction word has one to four words in
memory (R295, R303), and an event has none. -/

namespace Sys2Proof.Laws.Lengths

/-- How many words an instruction has (R303): one to three, and a literal word where a selector names it; an event has none. -/
def Statement (i : Instr) : Prop :=
  (i.isWord = true → 0 < (encode i).length ∧ (encode i).length ≤ 4) ∧ (i.isWord = false → encode i = [])

/-- An instruction of one to three words beside its literal. -/
theorem words_of {i : Instr} {l : List Word} (hw : i.isWord = true) (hl : i.headWords = l) (hn : 0 < l.length ∧ l.length ≤ 3) :
    Statement i := by
  refine ⟨fun _ => ?_, fun h => ?_⟩
  · unfold encode
    split <;> simp only [List.length_append, List.length_cons, List.length_nil, hl] <;> omega
  · rw [hw] at h
    cases h

/-- One word. -/
theorem one {i : Instr} {a : Word} (hw : i.isWord = true) (h : i.headWords = [a]) : Statement i := words_of hw h (by simp)
/-- Two words. -/
theorem two {i : Instr} {a b : Word} (hw : i.isWord = true) (h : i.headWords = [a, b]) : Statement i := words_of hw h (by simp)
/-- Three words. -/
theorem three {i : Instr} {a b c : Word} (hw : i.isWord = true) (h : i.headWords = [a, b, c]) : Statement i :=
  words_of hw h (by simp)

/-- An event. -/
theorem event_of {i : Instr} (hw : i.isWord = false) (hh : i.headWords = []) (hl : usesLit i = false) : Statement i := by
  refine ⟨fun h => ?_, fun _ => ?_⟩
  · rw [hw] at h
    cases h
  · unfold encode
    rw [hh, hl]
    rfl

theorem nop (z : BitVec 26) : Statement (.nop z) := one rfl rfl
theorem rep (w : RepW) : Statement (.rep w) := one rfl rfl
theorem mov (w : LaneW) : Statement (.mov w) := one rfl rfl
theorem iadd (w : LaneW) : Statement (.iadd w) := one rfl rfl
theorem isub (w : LaneW) : Statement (.isub w) := one rfl rfl
theorem iadds (w : LaneW) : Statement (.iadds w) := one rfl rfl
theorem isubs (w : LaneW) : Statement (.isubs w) := one rfl rfl
theorem iaddus (w : LaneW) : Statement (.iaddus w) := one rfl rfl
theorem isubus (w : LaneW) : Statement (.isubus w) := one rfl rfl
theorem imul (w : LaneW) : Statement (.imul w) := one rfl rfl
theorem imulh (w : LaneW) : Statement (.imulh w) := one rfl rfl
theorem imulhu (w : LaneW) : Statement (.imulhu w) := one rfl rfl
theorem imad (w : LaneW) : Statement (.imad w) := one rfl rfl
theorem imadw (w : LaneW) : Statement (.imadw w) := one rfl rfl
theorem iadd64 (w : LaneW) : Statement (.iadd64 w) := one rfl rfl
theorem isub64 (w : LaneW) : Statement (.isub64 w) := one rfl rfl
theorem ineg (w : LaneW) : Statement (.ineg w) := one rfl rfl
theorem iabs (w : LaneW) : Statement (.iabs w) := one rfl rfl
theorem imin (w : LaneW) : Statement (.imin w) := one rfl rfl
theorem imax (w : LaneW) : Statement (.imax w) := one rfl rfl
theorem iminu (w : LaneW) : Statement (.iminu w) := one rfl rfl
theorem imaxu (w : LaneW) : Statement (.imaxu w) := one rfl rfl
theorem and (w : LaneW) : Statement (.and w) := one rfl rfl
theorem or (w : LaneW) : Statement (.or w) := one rfl rfl
theorem xor (w : LaneW) : Statement (.xor w) := one rfl rfl
theorem andn (w : LaneW) : Statement (.andn w) := one rfl rfl
theorem orn (w : LaneW) : Statement (.orn w) := one rfl rfl
theorem shl (w : LaneW) : Statement (.shl w) := one rfl rfl
theorem shr (w : LaneW) : Statement (.shr w) := one rfl rfl
theorem sar (w : LaneW) : Statement (.sar w) := one rfl rfl
theorem rotl (w : LaneW) : Statement (.rotl w) := one rfl rfl
theorem fshl (w : LaneW) (x : SrcX) : Statement (.fshl w x) := two rfl rfl
theorem bfe (w : LaneW) : Statement (.bfe w) := one rfl rfl
theorem bfeu (w : LaneW) : Statement (.bfeu w) := one rfl rfl
theorem bfi (w : LaneW) : Statement (.bfi w) := one rfl rfl
theorem popc (w : LaneW) : Statement (.popc w) := one rfl rfl
theorem clz (w : LaneW) : Statement (.clz w) := one rfl rfl
theorem ctz (w : LaneW) : Statement (.ctz w) := one rfl rfl
theorem brev (w : LaneW) : Statement (.brev w) := one rfl rfl
theorem permb (w : LaneW) : Statement (.permb w) := one rfl rfl
theorem clmul (w : LaneW) : Statement (.clmul w) := one rfl rfl
theorem clmulh (w : LaneW) : Statement (.clmulh w) := one rfl rfl
theorem idot4 (w : LaneW) : Statement (.idot4 w) := one rfl rfl
theorem idot4u (w : LaneW) : Statement (.idot4u w) := one rfl rfl
theorem icmp (w : LaneW) : Statement (.icmp w) := one rfl rfl
theorem icmpu (w : LaneW) : Statement (.icmpu w) := one rfl rfl
theorem plog (w : LaneW) : Statement (.plog w) := one rfl rfl
theorem sel (w : LaneW) : Statement (.sel w) := one rfl rfl
theorem sxt (w : LaneW) : Statement (.sxt w) := one rfl rfl
theorem zxt (w : LaneW) : Statement (.zxt w) := one rfl rfl
theorem lea (w : LaneW) : Statement (.lea w) := one rfl rfl
theorem movpToRegister (w : LaneW) : Statement (.movpToRegister w) := one rfl rfl
theorem movpToPredicates (w : LaneW) : Statement (.movpToPredicates w) := one rfl rfl
theorem fadd (w : LaneW) : Statement (.fadd w) := one rfl rfl
theorem fsub (w : LaneW) : Statement (.fsub w) := one rfl rfl
theorem fmul (w : LaneW) : Statement (.fmul w) := one rfl rfl
theorem ffma (w : LaneW) : Statement (.ffma w) := one rfl rfl
theorem ffma3 (w : LaneW) (x : SrcX) : Statement (.ffma3 w x) := two rfl rfl
theorem fmin (w : LaneW) : Statement (.fmin w) := one rfl rfl
theorem fmax (w : LaneW) : Statement (.fmax w) := one rfl rfl
theorem fminnum (w : LaneW) : Statement (.fminnum w) := one rfl rfl
theorem fmaxnum (w : LaneW) : Statement (.fmaxnum w) := one rfl rfl
theorem fabs (w : LaneW) : Statement (.fabs w) := one rfl rfl
theorem fneg (w : LaneW) : Statement (.fneg w) := one rfl rfl
theorem fcmp (w : LaneW) : Statement (.fcmp w) := one rfl rfl
theorem fclass (w : LaneW) : Statement (.fclass w) := one rfl rfl
theorem frnd (w : LaneW) : Statement (.frnd w) := one rfl rfl
theorem fldexp (w : LaneW) : Statement (.fldexp w) := one rfl rfl
theorem fgetexp (w : LaneW) : Statement (.fgetexp w) := one rfl rfl
theorem cvtfi (w : LaneW) : Statement (.cvtfi w) := one rfl rfl
theorem cvtfu (w : LaneW) : Statement (.cvtfu w) := one rfl rfl
theorem cvtif (w : LaneW) : Statement (.cvtif w) := one rfl rfl
theorem cvtuf (w : LaneW) : Statement (.cvtuf w) := one rfl rfl
theorem cvtff (w : LaneW) (x : SrcX) : Statement (.cvtff w x) := two rfl rfl
theorem pack8 (w : LaneW) (x : SrcX) : Statement (.pack8 w x) := two rfl rfl
theorem unpack8 (w : LaneW) (x : SrcX) : Statement (.unpack8 w x) := two rfl rfl
theorem hadd2 (w : LaneW) : Statement (.hadd2 w) := one rfl rfl
theorem hmul2 (w : LaneW) : Statement (.hmul2 w) := one rfl rfl
theorem hfma2 (w : LaneW) : Statement (.hfma2 w) := one rfl rfl
theorem badd2 (w : LaneW) : Statement (.badd2 w) := one rfl rfl
theorem bmul2 (w : LaneW) : Statement (.bmul2 w) := one rfl rfl
theorem bfma2 (w : LaneW) : Statement (.bfma2 w) := one rfl rfl
theorem dadd (w : LaneW) : Statement (.dadd w) := one rfl rfl
theorem dmul (w : LaneW) : Statement (.dmul w) := one rfl rfl
theorem dfma (w : LaneW) : Statement (.dfma w) := one rfl rfl
theorem dmin (w : LaneW) : Statement (.dmin w) := one rfl rfl
theorem dmax (w : LaneW) : Statement (.dmax w) := one rfl rfl
theorem dcmp (w : LaneW) : Statement (.dcmp w) := one rfl rfl
theorem cvtdf (w : LaneW) : Statement (.cvtdf w) := one rfl rfl
theorem cvtfd (w : LaneW) : Statement (.cvtfd w) := one rfl rfl
theorem frcp (w : LaneW) : Statement (.frcp w) := one rfl rfl
theorem frsq (w : LaneW) : Statement (.frsq w) := one rfl rfl
theorem fsqrt (w : LaneW) : Statement (.fsqrt w) := one rfl rfl
theorem fexp2 (w : LaneW) : Statement (.fexp2 w) := one rfl rfl
theorem flog2 (w : LaneW) : Statement (.flog2 w) := one rfl rfl
theorem fsinpi (w : LaneW) : Statement (.fsinpi w) := one rfl rfl
theorem fcospi (w : LaneW) : Statement (.fcospi w) := one rfl rfl
theorem ftanh (w : LaneW) : Statement (.ftanh w) := one rfl rfl
theorem tbleval (w : LaneW) : Statement (.tbleval w) := one rfl rfl
theorem tblload (w : LaneW) : Statement (.tblload w) := one rfl rfl
theorem shfl (w : LaneW) (x : SrcX) : Statement (.shfl w x) := two rfl rfl
theorem shflup (w : LaneW) (x : SrcX) : Statement (.shflup w x) := two rfl rfl
theorem shfldn (w : LaneW) (x : SrcX) : Statement (.shfldn w x) := two rfl rfl
theorem shflx (w : LaneW) (x : SrcX) : Statement (.shflx w x) := two rfl rfl
theorem voteall (w : LaneW) (x : SrcX) : Statement (.voteall w x) := two rfl rfl
theorem voteany (w : LaneW) (x : SrcX) : Statement (.voteany w x) := two rfl rfl
theorem ballot (w : LaneW) (x : SrcX) : Statement (.ballot w x) := two rfl rfl
theorem matchLane (w : LaneW) (x : SrcX) : Statement (.matchLane w x) := two rfl rfl
theorem elect (w : LaneW) (x : SrcX) : Statement (.elect w x) := two rfl rfl
theorem redadd (w : LaneW) (x : SrcX) : Statement (.redadd w x) := two rfl rfl
theorem redmin (w : LaneW) (x : SrcX) : Statement (.redmin w x) := two rfl rfl
theorem redmax (w : LaneW) (x : SrcX) : Statement (.redmax w x) := two rfl rfl
theorem redminu (w : LaneW) (x : SrcX) : Statement (.redminu w x) := two rfl rfl
theorem redmaxu (w : LaneW) (x : SrcX) : Statement (.redmaxu w x) := two rfl rfl
theorem redand (w : LaneW) (x : SrcX) : Statement (.redand w x) := two rfl rfl
theorem redor (w : LaneW) (x : SrcX) : Statement (.redor w x) := two rfl rfl
theorem redxor (w : LaneW) (x : SrcX) : Statement (.redxor w x) := two rfl rfl
theorem fredadd (w : LaneW) (x : SrcX) : Statement (.fredadd w x) := two rfl rfl
theorem fredmax (w : LaneW) (x : SrcX) : Statement (.fredmax w x) := two rfl rfl
theorem scanadd (w : LaneW) (x : SrcX) : Statement (.scanadd w x) := two rfl rfl
theorem scanxor (w : LaneW) (x : SrcX) : Statement (.scanxor w x) := two rfl rfl
theorem scanmax (w : LaneW) (x : SrcX) : Statement (.scanmax w x) := two rfl rfl
theorem ld (w : LaneW) (x : MemX) : Statement (.ld w x) := two rfl rfl
theorem st (w : LaneW) (x : MemX) : Statement (.st w x) := two rfl rfl
theorem lds (w : LaneW) (x : MemX) : Statement (.lds w x) := two rfl rfl
theorem sts (w : LaneW) (x : MemX) : Statement (.sts w x) := two rfl rfl
theorem atom (w : LaneW) (x : MemX) : Statement (.atom w x) := two rfl rfl
theorem atomcas (w : LaneW) (x : MemX) : Statement (.atomcas w x) := two rfl rfl
theorem red (w : LaneW) (x : MemX) : Statement (.red w x) := two rfl rfl
theorem atoms (w : LaneW) (x : MemX) : Statement (.atoms w x) := two rfl rfl
theorem atomscas (w : LaneW) (x : MemX) : Statement (.atomscas w x) := two rfl rfl
theorem cadd (w : LaneW) (x : MemX) : Statement (.cadd w x) := two rfl rfl
theorem fence (w : LaneW) (x : MemX) : Statement (.fence w x) := two rfl rfl
theorem codepub (w : LaneW) (x : MemX) : Statement (.codepub w x) := two rfl rfl
theorem waitaddr (w : LaneW) (x : MemX) : Statement (.waitaddr w x) := two rfl rfl
theorem wakeaddr (w : LaneW) (x : MemX) : Statement (.wakeaddr w x) := two rfl rfl
theorem pref (w : LaneW) (x : MemX) : Statement (.pref w x) := two rfl rfl
theorem wbl (w : LaneW) (x : MemX) : Statement (.wbl w x) := two rfl rfl
theorem invl (w : LaneW) (x : MemX) : Statement (.invl w x) := two rfl rfl
theorem tagld (w : LaneW) (x : MemX) : Statement (.tagld w x) := two rfl rfl
theorem tagst (w : LaneW) (x : MemX) : Statement (.tagst w x) := two rfl rfl
theorem accrd (w : LaneW) (x : MemX) : Statement (.accrd w x) := two rfl rfl
theorem accwr (w : LaneW) (x : MemX) : Statement (.accwr w x) := two rfl rfl
theorem bra (w : BraW) : Statement (.bra w) := one rfl rfl
theorem brx (w : BrxW) : Statement (.brx w) := one rfl rfl
theorem call (w : CallW) : Statement (.call w) := one rfl rfl
theorem ret (w : BrxW) : Statement (.ret w) := one rfl rfl
theorem setmrLabel (w : SetmrLW) : Statement (.setmrLabel w) := one rfl rfl
theorem setmrRegister (w : SetmrRW) : Statement (.setmrRegister w) := one rfl rfl
theorem loop (w : LoopW) : Statement (.loop w) := one rfl rfl
theorem loopbrk (w : BrkW) : Statement (.loopbrk w) := one rfl rfl
theorem exit (z : BitVec 26) : Statement (.exit z) := one rfl rfl
theorem smov (w : UniW) : Statement (.smov w) := one rfl rfl
theorem sadd (w : UniW) : Statement (.sadd w) := one rfl rfl
theorem ssub (w : UniW) : Statement (.ssub w) := one rfl rfl
theorem smul (w : UniW) : Statement (.smul w) := one rfl rfl
theorem sand (w : UniW) : Statement (.sand w) := one rfl rfl
theorem sor (w : UniW) : Statement (.sor w) := one rfl rfl
theorem sxor (w : UniW) : Statement (.sxor w) := one rfl rfl
theorem sshl (w : UniW) : Statement (.sshl w) := one rfl rfl
theorem sshr (w : UniW) : Statement (.sshr w) := one rfl rfl
theorem ssar (w : UniW) : Statement (.ssar w) := one rfl rfl
theorem smin (w : UniW) : Statement (.smin w) := one rfl rfl
theorem smax (w : UniW) : Statement (.smax w) := one rfl rfl
theorem scmp (w : UniW) : Statement (.scmp w) := one rfl rfl
theorem sbr (w : BraW) : Statement (.sbr w) := one rfl rfl
theorem sld (w : UniW) : Statement (.sld w) := one rfl rfl
theorem sst (w : UniW) : Statement (.sst w) := one rfl rfl
theorem v2s (w : UniW) : Statement (.v2s w) := one rfl rfl
theorem barinit (w : UniW) : Statement (.barinit w) := one rfl rfl
theorem bar (w : UniW) : Statement (.bar w) := one rfl rfl
theorem bara (w : UniW) : Statement (.bara w) := one rfl rfl
theorem barw (w : UniW) : Statement (.barw w) := one rfl rfl
theorem tokwait (w : UniW) : Statement (.tokwait w) := one rfl rfl
theorem phreg (w : UniW) : Statement (.phreg w) := one rfl rfl
theorem phdrop (w : UniW) : Statement (.phdrop w) := one rfl rfl
theorem phsig (w : UniW) : Statement (.phsig w) := one rfl rfl
theorem phwait (w : UniW) : Statement (.phwait w) := one rfl rfl
theorem phnext (w : UniW) : Statement (.phnext w) := one rfl rfl
theorem tlsig (w : UniW) : Statement (.tlsig w) := one rfl rfl
theorem tlwait (w : UniW) : Statement (.tlwait w) := one rfl rfl
theorem tlread (w : UniW) : Statement (.tlread w) := one rfl rfl
theorem stage (w : UniW) : Statement (.stage w) := one rfl rfl
theorem sread (w : UniW) : Statement (.sread w) := one rfl rfl
theorem swrite (w : UniW) : Statement (.swrite w) := one rfl rfl
theorem slotq (w : UniW) : Statement (.slotq w) := one rfl rfl
theorem trap (w : CodeW) : Statement (.trap w) := one rfl rfl
theorem bkpt (w : CodeW) : Statement (.bkpt w) := one rfl rfl
theorem poolb (w : UniW) : Statement (.poolb w) := one rfl rfl
theorem tret (z : BitVec 26) : Statement (.tret z) := one rfl rfl
theorem yield (z : BitVec 26) : Statement (.yield z) := one rfl rfl
theorem cfgbank (w : UniW) : Statement (.cfgbank w) := one rfl rfl
theorem mma (w : MmaW) : Statement (.mma w) := three rfl rfl
theorem mmai (w : MmaW) : Statement (.mmai w) := three rfl rfl
theorem mzero (w : MzeroW) : Statement (.mzero w) := two rfl rfl
theorem scld (w : ScldW) : Statement (.scld w) := two rfl rfl
theorem mstore (w : MmoveW) : Statement (.mstore w) := three rfl rfl
theorem mload (w : MmoveW) : Statement (.mload w) := three rfl rfl
theorem trel (w : TrelW) : Statement (.trel w) := two rfl rfl
theorem tacq (w : TrelW) : Statement (.tacq w) := two rfl rfl
theorem mwait (w : TrelW) : Statement (.mwait w) := two rfl rfl
theorem cpy (w : UniW) (x : CpyX) (y : CpyY) : Statement (.cpy w x y) := three rfl rfl
theorem cpym (w : UniW) (x : CpyX) (y : CpyY) : Statement (.cpym w x y) := three rfl rfl
theorem cpyp (w : UniW) (x : CpyX) (y : CpyY) : Statement (.cpyp w x y) := three rfl rfl
theorem cpyx (w : UniW) (x : CpyX) (y : CpyY) : Statement (.cpyx w x y) := three rfl rfl
theorem cpyr (w : UniW) (x : CpyX) (y : CpyY) : Statement (.cpyr w x y) := three rfl rfl
theorem cpymc (w : UniW) (x : CpyX) (y : CpyY) : Statement (.cpymc w x y) := three rfl rfl
theorem cpyg (w : UniW) (x : CpyX) (y : CpyY) : Statement (.cpyg w x y) := three rfl rfl
theorem cpys (w : UniW) (x : CpyX) (y : CpyY) : Statement (.cpys w x y) := three rfl rfl
theorem coll (w : UniW) (x : CpyX) : Statement (.coll w x) := two rfl rfl
theorem stagew (w : UniW) (x : Word) : Statement (.stagew w x) := two rfl rfl
theorem tset (w : UniW) (x1 x2 : Word) : Statement (.tset w x1 x2) := three rfl rfl
theorem cpyfill (w : UniW) (x : CpyX) (y : CpyY) : Statement (.cpyfill w x y) := three rfl rfl
theorem powerOn : Statement .powerOn := event_of rfl rfl rfl
theorem coldReset : Statement .coldReset := event_of rfl rfl rfl
theorem fatalReset : Statement .fatalReset := event_of rfl rfl rfl
theorem bootRomStart : Statement .bootRomStart := event_of rfl rfl rfl
theorem hostLinkUp : Statement .hostLinkUp := event_of rfl rfl rfl
theorem fwctlGo : Statement .fwctlGo := event_of rfl rfl rfl
theorem firmwareCheckDone : Statement .firmwareCheckDone := event_of rfl rfl rfl
theorem kindlingModeEnter : Statement .kindlingModeEnter := event_of rfl rfl rfl
theorem fullServiceEnter : Statement .fullServiceEnter := event_of rfl rfl rfl
theorem resetctlWarm : Statement .resetctlWarm := event_of rfl rfl rfl
theorem registerWrite : Statement .registerWrite := event_of rfl rfl rfl
theorem frameBoundary : Statement .frameBoundary := event_of rfl rfl rfl
theorem calctlCommit : Statement .calctlCommit := event_of rfl rfl rfl
theorem calendarValidationDone : Statement .calendarValidationDone := event_of rfl rfl rfl
theorem slotStartTest : Statement .slotStartTest := event_of rfl rfl rfl
theorem slotEnd : Statement .slotEnd := event_of rfl rfl rfl
theorem podTimestampExchange : Statement .podTimestampExchange := event_of rfl rfl rfl
theorem powerLimitCrossed : Statement .powerLimitCrossed := event_of rfl rfl rfl
theorem vilbinFlitReceive : Statement .vilbinFlitReceive := event_of rfl rfl rfl
theorem flitReplayRequest : Statement .flitReplayRequest := event_of rfl rfl rfl
theorem vcStopGo : Statement .vcStopGo := event_of rfl rfl rfl
theorem vilbinPortDown : Statement .vilbinPortDown := event_of rfl rfl rfl
theorem inboundMessage : Statement .inboundMessage := event_of rfl rfl rfl
theorem peerResponseReceive : Statement .peerResponseReceive := event_of rfl rfl rfl
theorem windowMergedResult : Statement .windowMergedResult := event_of rfl rfl rfl
theorem windowRoundTimeout : Statement .windowRoundTimeout := event_of rfl rfl rfl
theorem windowOpenAck : Statement .windowOpenAck := event_of rfl rfl rfl
theorem capacityTierCompletion : Statement .capacityTierCompletion := event_of rfl rfl rfl
theorem hostSnoop : Statement .hostSnoop := event_of rfl rfl rfl
theorem hostMemoryAccess : Statement .hostMemoryAccess := event_of rfl rfl rfl
theorem hostLinkCompletion : Statement .hostLinkCompletion := event_of rfl rfl rfl
theorem atsCompletion : Statement .atsCompletion := event_of rfl rfl rfl
theorem priResponse : Statement .priResponse := event_of rfl rfl rfl
theorem atsInvalidationRequest : Statement .atsInvalidationRequest := event_of rfl rfl rfl
theorem hostAtomicCasAttempt : Statement .hostAtomicCasAttempt := event_of rfl rfl rfl
theorem managementSpdmRequest : Statement .managementSpdmRequest := event_of rfl rfl rfl
theorem nuntaokRequest : Statement .nuntaokRequest := event_of rfl rfl rfl
theorem hbmAlert : Statement .hbmAlert := event_of rfl rfl rfl
theorem homeAccessServe : Statement .homeAccessServe := event_of rfl rfl rfl
theorem memcfgCacheWrite : Statement .memcfgCacheWrite := event_of rfl rfl rfl
theorem memcfgChangeDone : Statement .memcfgChangeDone := event_of rfl rfl rfl
theorem ctxctlKill : Statement .ctxctlKill := event_of rfl rfl rfl
theorem ctxctlEnClear : Statement .ctxctlEnClear := event_of rfl rfl rfl
theorem ctxctlEnSet : Statement .ctxctlEnSet := event_of rfl rfl rfl
theorem contextKill : Statement .contextKill := event_of rfl rfl rfl
theorem killComplete : Statement .killComplete := event_of rfl rfl rfl
theorem ctxrootWrite : Statement .ctxrootWrite := event_of rfl rfl rfl
theorem ctxresumeRetry : Statement .ctxresumeRetry := event_of rfl rfl rfl
theorem ctxresumeKill : Statement .ctxresumeKill := event_of rfl rfl rfl
theorem ctxinvalAll : Statement .ctxinvalAll := event_of rfl rfl rfl
theorem invalidationComplete : Statement .invalidationComplete := event_of rfl rfl rfl
theorem watchdogExpiry : Statement .watchdogExpiry := event_of rfl rfl rfl
theorem sqctlEnSet : Statement .sqctlEnSet := event_of rfl rfl rfl
theorem kickWrite : Statement .kickWrite := event_of rfl rfl rfl
theorem queueEntryExamine : Statement .queueEntryExamine := event_of rfl rfl rfl
theorem rungraph : Statement .rungraph := event_of rfl rfl rfl
theorem tlsignal : Statement .tlsignal := event_of rfl rfl rfl
theorem hostTlwait : Statement .hostTlwait := event_of rfl rfl rfl
theorem marker : Statement .marker := event_of rfl rfl rfl
theorem invtlb : Statement .invtlb := event_of rfl rfl rfl
theorem winopen : Statement .winopen := event_of rfl rfl rfl
theorem winclose : Statement .winclose := event_of rfl rfl rfl
theorem commandComplete : Statement .commandComplete := event_of rfl rfl rfl
theorem gangDispatch : Statement .gangDispatch := event_of rfl rfl rfl
theorem copyNodeDispatch : Statement .copyNodeDispatch := event_of rfl rfl rfl
theorem collNodeDispatch : Statement .collNodeDispatch := event_of rfl rfl rfl
theorem gangMakeResident : Statement .gangMakeResident := event_of rfl rfl rfl
theorem blockParkComplete : Statement .blockParkComplete := event_of rfl rfl rfl
theorem blockRestore : Statement .blockRestore := event_of rfl rfl rfl
theorem parkedReplyLanding : Statement .parkedReplyLanding := event_of rfl rfl rfl
theorem nodePreload : Statement .nodePreload := event_of rfl rfl rfl
theorem nodeCompletionReport : Statement .nodeCompletionReport := event_of rfl rfl rfl
theorem forwardingStep : Statement .forwardingStep := event_of rfl rfl rfl
theorem nodeRetire : Statement .nodeRetire := event_of rfl rfl rfl
theorem condEvaluate : Statement .condEvaluate := event_of rfl rfl rfl
theorem loopNodeTest : Statement .loopNodeTest := event_of rfl rfl rfl
theorem signalNode : Statement .signalNode := event_of rfl rfl rfl
theorem waitNode : Statement .waitNode := event_of rfl rfl rfl
theorem hostcallNode : Statement .hostcallNode := event_of rfl rfl rfl
theorem controlCoreTakeover : Statement .controlCoreTakeover := event_of rfl rfl rfl
theorem translationWalkComplete : Statement .translationWalkComplete := event_of rfl rfl rfl
theorem recordModeOff : Statement .recordModeOff := event_of rfl rfl rfl
theorem recordModeStart : Statement .recordModeStart := event_of rfl rfl rfl
theorem replayModeStart : Statement .replayModeStart := event_of rfl rfl rfl
theorem recctlCkreq : Statement .recctlCkreq := event_of rfl rfl rfl
theorem checkpointComplete : Statement .checkpointComplete := event_of rfl rfl rfl
theorem recctlResume : Statement .recctlResume := event_of rfl rfl rfl
theorem chunkIdleClose : Statement .chunkIdleClose := event_of rfl rfl rfl
theorem conflictSignal : Statement .conflictSignal := event_of rfl rfl rfl
theorem recorderPageWrite : Statement .recorderPageWrite := event_of rfl rfl rfl
theorem replayStallTimeout : Statement .replayStallTimeout := event_of rfl rfl rfl
theorem replayMessageTimeout : Statement .replayMessageTimeout := event_of rfl rfl rfl
theorem traceSeriesLatch : Statement .traceSeriesLatch := event_of rfl rfl rfl
theorem criticalPathSample : Statement .criticalPathSample := event_of rfl rfl rfl
theorem stepctlHalt : Statement .stepctlHalt := event_of rfl rfl rfl
theorem stepctlStep : Statement .stepctlStep := event_of rfl rfl rfl
theorem stepDone : Statement .stepDone := event_of rfl rfl rfl
theorem stepctlRun : Statement .stepctlRun := event_of rfl rfl rfl
theorem clauseIssue : Statement .clauseIssue := event_of rfl rfl rfl
theorem asyncTrapDeliver : Statement .asyncTrapDeliver := event_of rfl rfl rfl
theorem replyLanding : Statement .replyLanding := event_of rfl rfl rfl
theorem storeAcknowledge : Statement .storeAcknowledge := event_of rfl rfl rfl
theorem bankRequestServe : Statement .bankRequestServe := event_of rfl rfl rfl
theorem bankModeChangeDone : Statement .bankModeChangeDone := event_of rfl rfl rfl
theorem engineSegmentAdmit : Statement .engineSegmentAdmit := event_of rfl rfl rfl
theorem engineSegmentComplete : Statement .engineSegmentComplete := event_of rfl rfl rfl
theorem writerListRoom : Statement .writerListRoom := event_of rfl rfl rfl
theorem stageDeadlockDetect : Statement .stageDeadlockDetect := event_of rfl rfl rfl
theorem matrixCommandComplete : Statement .matrixCommandComplete := event_of rfl rfl rfl
theorem tblloadFillComplete : Statement .tblloadFillComplete := event_of rfl rfl rfl
theorem releaseComplete : Statement .releaseComplete := event_of rfl rfl rfl
theorem wakeaddrHomeAct : Statement .wakeaddrHomeAct := event_of rfl rfl rfl
theorem codepubComplete : Statement .codepubComplete := event_of rfl rfl rfl
theorem collectiveComplete : Statement .collectiveComplete := event_of rfl rfl rfl
theorem collectivePeerTimeout : Statement .collectivePeerTimeout := event_of rfl rfl rfl
theorem managementWarmReset : Statement .managementWarmReset := event_of rfl rfl rfl
theorem replayPayloadDelivery : Statement .replayPayloadDelivery := event_of rfl rfl rfl
theorem specialFunctionResult : Statement .specialFunctionResult := event_of rfl rfl rfl

end Sys2Proof.Laws.Lengths
end

