-- ==== Sys2Proof/Tests/Slice0.lean ====
section
/-! SUPPORT. The model's own tests: words of the specification's encodings and what they decode to, terms that well-formedness
refuses, small steps with results worked out by hand from the rules, and, for every statement with hypotheses, a concrete state and
operands that meet them. -/

namespace Sys2Proof.Tests

open Sys2Proof Sys2Proof.Machine

-- The theorems below are many and each is small: one after another they take less memory than side by side.
set_option Elab.async false

/-! ### Small states -/

/-- A latch of block context 0 of core 0: the only word of a clause of class `cls`, issued by `lanes` of warp `w`. -/
def latch (w cls : Nat) (lanes : Word) : Cur :=
  { core := 0, bctx := 0, w := w, lanes := lanes, hdrAt := 0x400000, hdr := 0xB4038001, pc := 0x400004, next := 0x400008,
    last := true, cls := cls, word := 0, ext := 0, rep := 0, reps := 1 }

/-- A resident block of context 0. -/
def block : Blk := Blk.start 7 placeInfo 0 0 [] [] 0 (some 0)

/-- The machine at reset but for that block, changed by `g`, its warp `w` changed by `f`, and a latch. -/
def machine (c : Cur) (g : Blk → Blk) (f : Thr → Thr) : State :=
  let s := { State.reset with cur := some c }
  let b := g block
  s.setBlk 0 0 (match b.thr? c.w with
    | some t => b.setThr c.w (f t)
    | none => b)

/-- That machine with all lanes of warp 0 issuing, nothing changed. -/
def plain (cls : Nat) : State := machine (latch 0 cls 0xFFFFFFFF) id id

/-- The parts of a state that a word sees satisfy `p`. -/
def issued (s : State) (p : Cur → Blk → Thr → Bool) : Bool :=
  match s.cur with
  | some c => match s.blk? c.core c.bctx with
    | some b => match b.thr? c.w with
      | some t => p c b t
      | none => false
    | none => false
  | none => false

theorem issued_of {s : State} {p : Cur → Blk → Thr → Bool} (h : issued s p = true) :
    ∃ c b t, Issues s c b t ∧ p c b t = true := by
  unfold issued at h
  split at h
  · split at h
    · split at h
      · exact ⟨_, _, _, ⟨‹_›, ‹_›, ‹_›⟩, h⟩
      · cases h
    · cases h
  · cases h

/-- Leaving the word is sound, as a test. -/
def endsWell (c : Cur) (t : Thr) : Bool :=
  decide (c.rep + 1 < c.reps) || !c.last || decide (fld c.hdr 19 2 = (0 : BitVec 2))
    || decide (t.innermost = some ((fld c.hdr 19 2 : BitVec 2).toNat - 1))

theorem endsWell_of {c : Cur} {t : Thr} (h : endsWell c t = true) : c.EndsWell t := by
  simp only [endsWell, Bool.or_eq_true, decide_eq_true_eq, Bool.not_eq_true'] at h
  unfold Cur.EndsWell
  tauto

/-- What the recorder asks of a word that stands ready. -/
def live (s : State) (c : Cur) : Bool := !s.replaying && s.mayStart c.core (issuerOf c.bctx c.w) (lowestLane c.lanes)

/-- A lane word stands ready, as a test. -/
def laneReady (s : State) (c : Cur) (b : Blk) (t : Thr) (i : Instr) (w : LaneW) : Bool :=
  decide (laneGate i w c b t (activeLanes c t w.g) = .go) && endsWell c t && !s.replaying && s.uniTurn c b (laneUnis i w)

/-- A word of classes 4 to 6 stands ready, as a test. -/
def ctlReady (s : State) (c : Cur) (t : Thr) (i : Instr) : Bool :=
  decide (ctlGate i c t = .go) && endsWell c t && live s c

/-- A uniform word stands ready, as a test. -/
def uniReady (s : State) (c : Cur) (b : Blk) (t : Thr) (i : Instr) (w : UniW) : Bool :=
  ctlReady s c t i && decide (uniOperandGate i w b = .go) && s.uniTurn c b (uniTouched i w) &&
    (s.noteUnis c b (uniUnis i w) false).mayStart c.core (issuerOf c.bctx c.w) (lowestLane c.lanes)

theorem laneReady_of {s : State} {c : Cur} {b : Blk} {t : Thr} {i : Instr} {w : LaneW} (hi : Issues s c b t)
    (h : laneReady s c b t i w = true) : LaneReady s c b t i w := by
  simp only [laneReady, Bool.and_eq_true, decide_eq_true_eq, Bool.not_eq_true'] at h
  exact { hi with gate := h.1.1.1, ends := endsWell_of h.1.1.2, live := h.1.2, turn := h.2 }

theorem ctlReady_of {s : State} {c : Cur} {b : Blk} {t : Thr} {i : Instr} (hi : Issues s c b t)
    (h : ctlReady s c t i = true) : CtlReady s c b t i := by
  simp only [ctlReady, live, Bool.and_eq_true, decide_eq_true_eq, Bool.not_eq_true'] at h
  exact { hi with gate := h.1.1, ends := endsWell_of h.1.2, live := h.2.1, turn := h.2.2 }

theorem uniReady_of {s : State} {c : Cur} {b : Blk} {t : Thr} {i : Instr} {w : UniW} (hi : Issues s c b t)
    (h : uniReady s c b t i w = true) : UniReady s c b t i w := by
  simp only [uniReady, Bool.and_eq_true, decide_eq_true_eq] at h
  exact { ctlReady_of hi h.1.1.1 with operands := h.1.1.2, unis := h.1.2, after := h.2 }

/-- A state in which a lane word stands ready and `E` holds of what it sees. -/
theorem lane_witness {s : State} {i : Instr} {w : LaneW} (E : Cur → Blk → Thr → Prop) [∀ c b t, Decidable (E c b t)]
    (h : issued s (fun c b t => laneReady s c b t i w && decide (E c b t)) = true) :
    ∃ c b t, LaneReady s c b t i w ∧ E c b t := by
  obtain ⟨c, b, t, hi, hp⟩ := issued_of h
  simp only [Bool.and_eq_true, decide_eq_true_eq] at hp
  exact ⟨c, b, t, laneReady_of hi hp.1, hp.2⟩

/-- The same for a word of classes 4 to 6. -/
theorem ctl_witness {s : State} {i : Instr} (E : Cur → Blk → Thr → Prop) [∀ c b t, Decidable (E c b t)]
    (h : issued s (fun c b t => ctlReady s c t i && decide (E c b t)) = true) : ∃ c b t, CtlReady s c b t i ∧ E c b t := by
  obtain ⟨c, b, t, hi, hp⟩ := issued_of h
  simp only [Bool.and_eq_true, decide_eq_true_eq] at hp
  exact ⟨c, b, t, ctlReady_of hi hp.1, hp.2⟩

/-- The same for a uniform word. -/
theorem uni_witness {s : State} {i : Instr} {w : UniW} (E : Cur → Blk → Thr → Prop) [∀ c b t, Decidable (E c b t)]
    (h : issued s (fun c b t => uniReady s c b t i w && decide (E c b t)) = true) :
    ∃ c b t, UniReady s c b t i w ∧ E c b t := by
  obtain ⟨c, b, t, hi, hp⟩ := issued_of h
  simp only [Bool.and_eq_true, decide_eq_true_eq] at hp
  exact ⟨c, b, t, uniReady_of hi hp.1, hp.2⟩

/-- The same for a word that only issues. -/
theorem issue_witness {s : State} (E : Cur → Blk → Thr → Prop) [∀ c b t, Decidable (E c b t)]
    (h : issued s (fun c b t => decide (E c b t)) = true) : ∃ c b t, Issues s c b t ∧ E c b t := by
  obtain ⟨c, b, t, hi, hp⟩ := issued_of h
  exact ⟨c, b, t, hi, of_decide_eq_true hp⟩

/-- A lane word of registers v3, v1 and v2. -/
def lw : LaneW := { vd := 3, sa := 1, sb := 2, ea := false, eb := false, g := false, lit := 0 }

/-! ### Witnesses: lane words (R325 to R367) -/

/-- A lane word of even registers, for pairs: v4, v2 and v6. -/
def pw : LaneW := { lw with vd := 4, sa := 2, sb := 6 }
/-- A lane word of one source. -/
def ow : LaneW := { lw with sb := 0x80 }
/-- A lane word with a third source. -/
def sx : SrcX := { sc := 8, ec := false, hi := 0 }

/-- Every word of a list stands ready on the state `s`, with `E` of what it sees. -/
theorem ready_all {l : List (Instr × LaneW)} {s : State} (E : Cur → Blk → Thr → Prop) [∀ c b t, Decidable (E c b t)]
    (h : (l.all fun e => issued s fun c b t => laneReady s c b t e.1 e.2 && decide (E c b t)) = true) :
    ∀ e ∈ l, ∃ c b t, LaneReady s c b t e.1 e.2 ∧ E c b t :=
  fun e he => lane_witness E (List.all_eq_true.mp h e he)

theorem witness_laneResults : ∀ e ∈ Rules.twoSource.map (fun r => (r.1 lw, lw)) ++ Rules.oneSource.map (fun r => (r.1 ow, ow))
      ++ Rules.readsVd.map (fun r => (r.1 lw, lw)) ++ [Instr.iadd64 pw, .isub64 pw, .imadw pw, .lea pw].map (fun i => (i, pw)),
    ∃ c b t, LaneReady (plain 0) c b t e.1 e.2 ∧ True :=
  ready_all (fun _ _ _ => True) (by decide +kernel)

theorem witness_fshl : ∃ c b t, LaneReady (plain 1) c b t (.fshl lw sx) lw ∧ True :=
  lane_witness (fun _ _ _ => True) (by decide +kernel)

/-- The predicate words, with their operands. -/
def predWords : List (Instr × LaneW) :=
  [ (.icmp lw, lw), (.icmp { pw with vd := 0x44 }, { pw with vd := 0x44 }), (.icmpu lw, lw),
    (.plog { lw with vd := 0x0B, sa := 1, sb := 7 }, { lw with vd := 0x0B, sa := 1, sb := 7 }),
    (.movpToPredicates { lw with vd := 0x7F, sb := 1 }, { lw with vd := 0x7F, sb := 1 }),
    (.movpToRegister { lw with sa := 0x80, sb := 0 }, { lw with sa := 0x80, sb := 0 }), (.sel lw, lw) ]

theorem witness_lanePredicates : ∀ e ∈ predWords, ∃ c b t, LaneReady (plain 0) c b t e.1 e.2 ∧ 7 ≤ t.preds.length :=
  ready_all (fun _ _ t => 7 ≤ t.preds.length) (by decide +kernel)

/-- The floating rows with operands they take. -/
def floatOperands : List (Rules.FloatRow × LaneW) :=
  (Rules.fp32Rows sx ++ Rules.fp64Rows ++ Rules.packedRows).map (fun e => (e, pw))
    ++ Rules.convertRows.map (fun e => (e, { pw with sb := 0 }))

/-- No active lane traps, as a test. -/
theorem untrapped_of {c : Cur} {t : Thr} {m : Word} {r : Nat → FRes}
    (h : ((maskLanes m).all fun l => !fpTraps t.frm (t.privileged c.lanes) (r l).exc) = true) : Untrapped c t m r := by
  intro l hl hm
  have hmem : l ∈ maskLanes m := by simp [maskLanes, hl, hm]
  simpa using List.all_eq_true.mp h l hmem

theorem witness_floatResults : ∀ e ∈ floatOperands, ∃ c b t, LaneReady (plain 1) c b t (e.1.op e.2) e.2 ∧
    Untrapped c t (activeLanes c t e.2.g) (e.1.res e.2 t b) := by
  intro e he
  have h : (floatOperands.all fun e => issued (plain 1) fun c b t => laneReady (plain 1) c b t (e.1.op e.2) e.2 &&
      decide (((maskLanes (activeLanes c t e.2.g)).all fun l =>
        !fpTraps t.frm (t.privileged c.lanes) (e.1.res e.2 t b l).exc) = true)) = true := by decide +kernel
  obtain ⟨c, b, t, hr, hu⟩ := lane_witness (fun c b t => ((maskLanes (activeLanes c t e.2.g)).all fun l =>
    !fpTraps t.frm (t.privileged c.lanes) (e.1.res e.2 t b l).exc) = true) (List.all_eq_true.mp h e he)
  exact ⟨c, b, t, hr, untrapped_of hu⟩

/-- FADD of signalling NaNs in all lanes, the invalid-operation trap enabled (R258): every lane traps. -/
def nanState : State :=
  machine (latch 0 1 0xFFFFFFFF) id fun t => { t with frm := 0x08, rows := [(1, List.replicate 32 0x7F800001)] }

/-- Every active lane of FADD traps, as FloatTraps asks. -/
def allTrap (c : Cur) (b : Blk) (t : Thr) : Prop :=
  ∀ l, l < 32 → (0xFFFFFFFF : Word).getLsbD l = ((activeLanes c t lw.g).getLsbD l &&
    fpTraps t.frm (t.privileged c.lanes) (fp32.add (dirOfFrm t.frm) false (srcA lw t b l) (srcB lw t b l)).exc)

theorem witness_floatTraps : ∃ c b t, LaneReady nanState c b t (.fadd lw) lw ∧ allTrap c b t :=
  lane_witness (fun c b t => ∀ l, l < 32 → (0xFFFFFFFF : Word).getLsbD l = ((activeLanes c t lw.g).getLsbD l &&
    fpTraps t.frm (t.privileged c.lanes) (fp32.add (dirOfFrm t.frm) false (srcA lw t b l) (srcB lw t b l)).exc)) (by decide +kernel)

/-- An exponent below the cut. -/
theorem witness_roundingDirections : (-3 : Int) < 0 := by decide

/-- A test of `Rules.Finite`. -/
def finite (f : Fmt) (x : Nat) : Bool := decide (x < 2 ^ (1 + f.eb + f.m)) && !f.isNan x && !f.isInf x

theorem finite_of {f : Fmt} {x : Nat} (h : finite f x = true) : Rules.Finite f x := by
  simp only [finite, Bool.and_eq_true, decide_eq_true_eq, Bool.not_eq_true'] at h
  exact ⟨h.1.1, h.1.2, h.2⟩

/-- Finite operands of every format, the largest and the smallest among them, and a fixed direction. -/
theorem witness_exactValues : (∀ f ∈ [fp64, fp32, fp16, bf16, e5m2, e4m3, e3m2, e2m3, e2m1], ∀ x ∈ [0, 1, f.maxEnc], Rules.Finite f x) ∧
    (∀ r, Dir.rne ≠ .rs r) ∧ Rules.value fp32 0x3F800000 = 1 ∧ Rules.value fp32 0xBF800000 = -1 := by
  refine ⟨fun f hf x hx => finite_of ?_, fun _ => nofun, by decide +kernel, by decide +kernel⟩
  have h : ([fp64, fp32, fp16, bf16, e5m2, e4m3, e3m2, e2m3, e2m1].all fun f => [0, 1, f.maxEnc].all fun x => finite f x) = true := by
    decide +kernel
  exact List.all_eq_true.mp (List.all_eq_true.mp h f hf) x hx

/-- An image whose domain starts at 0 in steps of 1, with a NaN, the infinities, and operands under, in and past its domain. -/
theorem witness_tableValues : let img : List Byte := List.replicate 4112 0
    img.length = 4112 ∧ Rules.Finite fp32 (leNat ((img.drop 0).take 4)) ∧ (BitVec.ofNat 8 (leNat ((img.drop 12).take 1))).toInt = 0 ∧
    fp32.isNan 0x7FC00000 = true ∧ fp32.isNan 0x7F800000 = false ∧ fp32.isNan 0xFF800000 = false ∧
    (∀ a ∈ [0xBF800000, 0x3F800000, 0x43800000], Rules.Finite fp32 a) ∧
    Rules.value fp32 0xBF800000 < Rules.value fp32 0 ∧ Rules.value fp32 0 ≤ Rules.value fp32 0x3F800000 ∧
    ((Rules.value fp32 0x3F800000 - Rules.value fp32 0) / (2 : ℚ) ^ (0 : ℤ)).floor = 1 ∧
    ((Rules.value fp32 0x43800000 - Rules.value fp32 0) / (2 : ℚ) ^ (0 : ℤ)).floor = 256 := by
  refine ⟨List.length_replicate, finite_of (by decide +kernel), by decide +kernel, by decide +kernel, by decide +kernel, by decide +kernel,
    fun a ha => finite_of ?_, by decide +kernel, by decide +kernel, by decide +kernel, by decide +kernel⟩
  have h : ([0xBF800000, 0x3F800000, 0x43800000].all fun a => finite fp32 a) = true := by decide +kernel
  exact List.all_eq_true.mp h a ha

theorem witness_floatBits : ∀ e ∈ [(Instr.fabs { pw with sb := 2 }, { pw with sb := 2 }), (.fneg { lw with sb := 1 }, { lw with sb := 1 }),
      (.fclass { lw with sb := 3 }, { lw with sb := 3 }), (.unpack8 { pw with sb := 0x80 } { sx with sc := 0 }, { pw with sb := 0x80 })],
    ∃ c b t, LaneReady (plain 1) c b t e.1 e.2 ∧ True :=
  ready_all (fun _ _ _ => True) (by decide +kernel)

/-- The comparisons of R348 signal nothing on registers of zeros. -/
theorem witness_floatCompares : ∀ e ∈ [(Instr.fcmp lw, lw), (.dcmp { pw with vd := 4 }, { pw with vd := 4 })],
    ∃ c b t, LaneReady (plain 1) c b t e.1 e.2 ∧ (7 ≤ t.preds.length ∧
      ((maskLanes (activeLanes c t false)).all fun l => !fpTraps t.frm (t.privileged c.lanes)
        (Rules.fcmpExc fp32 0 (srcA lw t b l) (srcB lw t b l)).exc && !fpTraps t.frm (t.privileged c.lanes)
        (Rules.fcmpExc fp64 0 (srcA64 pw t b l) (srcB64 pw t b l)).exc) = true) :=
  ready_all (fun c b t => 7 ≤ t.preds.length ∧
      ((maskLanes (activeLanes c t false)).all fun l => !fpTraps t.frm (t.privileged c.lanes)
        (Rules.fcmpExc fp32 0 (srcA lw t b l) (srcB lw t b l)).exc && !fpTraps t.frm (t.privileged c.lanes)
        (Rules.fcmpExc fp64 0 (srcA64 pw t b l) (srcB64 pw t b l)).exc) = true) (by decide +kernel)

/-- CVTFF of FP32 to FP16 and PACK8, with no trap enabled: nothing traps whatever the result. -/
theorem witness_convertAndPack : ∀ e ∈ [(Instr.cvtff ow { sx with sc := 4 }, ow), (.pack8 lw { sx with sc := 0 }, lw)],
    ∃ c b t, LaneReady (plain 1) c b t e.1 e.2 ∧ (7 ≤ t.preds.length ∧ t.frm = 0) :=
  ready_all (fun _ _ t => 7 ≤ t.preds.length ∧ t.frm = 0) (by decide +kernel)

/-- With FRM 0 no exception traps. -/
theorem frm_zero_untrapped (c : Cur) (t : Thr) (m : Word) (r : Nat → FRes) (h : t.frm = 0) : Untrapped c t m r := by
  intro l _ _
  have e : trapEnables 0#32 = 0#5 := by decide
  simp [h, fpTraps, e]

/-! ### Witnesses: cross-lane words, special functions and tables (R357 to R367) -/

/-- The cross-lane words with operands they take, over sub-groups of `2 ^ sgw` lanes (the field above EDGE), FULL or not. -/
def crossOps (x : SrcX) : List (Instr × LaneW) :=
  [ (.shfl lw x, lw), (.shflup lw x, lw), (.shfldn lw x, lw), (.shflx lw x, lw) ]
    ++ (Rules.crossRows.drop 4).map (fun r => (r.1 ow x, ow))
    ++ [ (.voteall ow x, ow), (.voteany ow x, ow), (.elect { ow with sa := 0x80 } x, { ow with sa := 0x80 }) ]

/-- Whole-warp sub-groups. -/
def wholeX : SrcX := { sc := 0, ec := false, hi := 5 }
/-- The same with FULL. -/
def fullX : SrcX := { sc := 0, ec := false, hi := 13 }

theorem witness_crossLane : ∀ e ∈ crossOps wholeX, ∃ c b t, LaneReady (plain 2) c b t e.1 e.2 ∧
    (wholeX.full = false ∧ 7 ≤ t.preds.length) :=
  ready_all (fun _ _ t => wholeX.full = false ∧ 7 ≤ t.preds.length) (by decide +kernel)

/-- One lane of a whole-warp sub-group active. -/
theorem one_lane_partial : Rules.partial? 1 32 := ⟨0, 1, by decide, by decide, by decide, by decide, by decide⟩

theorem witness_partialSubgroups : ∀ e ∈ crossOps fullX,
    ∃ c b t, LaneReady (machine (latch 0 2 1) id id) c b t e.1 e.2 ∧
      (fullX.full = true ∧ fullX.width = 32 ∧ activeLanes c t e.2.g = 1) := by
  intro e he
  have h : ((crossOps fullX).all fun e => issued (machine (latch 0 2 1) id id) fun c b t =>
      laneReady (machine (latch 0 2 1) id id) c b t e.1 e.2 &&
      decide (fullX.full = true ∧ fullX.width = 32 ∧ activeLanes c t e.2.g = 1)) = true := by decide +kernel
  exact lane_witness _ (List.all_eq_true.mp h e he)

/-- A latch whose guard is p7 inverted: no lane of a guarded word is active (R160). -/
def noneLatch (cls : Nat) : Cur := { latch 0 cls 0xFFFFFFFF with hdr := 0xB4078001 }
/-- A guarded word. -/
def gw : LaneW := { ow with g := true }

theorem witness_sfuIssues : ∀ e ∈ Rules.sfuWords.map (fun r => (r.1 ow, ow)),
    ∃ c b t, LaneReady (plain 2) c b t e.1 e.2 ∧ (activeLanes c t e.2.g = 0xFFFFFFFF ∧ t.frm = 0) := by
  intro e he
  have h : ((Rules.sfuWords.map (fun r => (r.1 ow, ow))).all fun e => issued (plain 2) fun c b t =>
      laneReady (plain 2) c b t e.1 e.2 && decide (activeLanes c t e.2.g = 0xFFFFFFFF ∧ t.frm = 0)) = true := by decide +kernel
  exact lane_witness _ (List.all_eq_true.mp h e he)

theorem witness_sfuNoLane : ∃ c b t, LaneReady (machine (noneLatch 2) id id) c b t (.frcp gw) gw ∧ activeLanes c t gw.g = 0 :=
  lane_witness (fun c _ t => activeLanes c t gw.g = 0) (by decide +kernel)

/-- Core 0 with a current table bank that block 7 owns. -/
def tableState (owner : Nat) : State :=
  (plain 2).setCore 0 { Core.reset with banks := [{ TblBank.reset with owner := some owner, current := true }, TblBank.reset] }

theorem witness_tableEvaluation : ∃ c b t, LaneReady (tableState 7) c b t (.tbleval ow) ow ∧
    (activeLanes c t ow.g ≠ 0 ∧ (tableState 7).heldBack c.core c.bctx c.w b.adm (activeLanes c t ow.g) = false ∧
      (tableState 7).mayStart c.core (issuerOf c.bctx c.w) (lowestLane c.lanes) = true ∧
      ((tableState 7).coreAt c.core).fillingBy b.adm c.w = false ∧
      (∃ e, ((tableState 7).coreAt c.core).currentBank = some e ∧ e.2.owner = some b.adm) ∧ t.frm = 0) := by
  obtain ⟨c, b, t, hr, h1, ha, hm, h2, h3, h4⟩ := lane_witness (s := tableState 7) (i := .tbleval ow) (w := ow)
    (fun c b t => activeLanes c t ow.g ≠ 0 ∧ (tableState 7).heldBack c.core c.bctx c.w b.adm (activeLanes c t ow.g) = false ∧
      (tableState 7).mayStart c.core (issuerOf c.bctx c.w) (lowestLane c.lanes) = true ∧
      ((tableState 7).coreAt c.core).fillingBy b.adm c.w = false ∧
      (((tableState 7).coreAt c.core).currentBank.map fun e => e.2.owner) = some (some b.adm) ∧ t.frm = 0) (by decide +kernel)
  refine ⟨c, b, t, hr, h1, ha, hm, h2, ?_, h4⟩
  cases hb : ((tableState 7).coreAt c.core).currentBank with
  | none => simp [hb] at h3
  | some e => exact ⟨e, rfl, by simpa [hb] using h3⟩

theorem witness_tableInvalid : ∃ c b t, LaneReady (plain 2) c b t (.tbleval ow) ow ∧
    (activeLanes c t ow.g ≠ 0 ∧ (plain 2).heldBack c.core c.bctx c.w b.adm (activeLanes c t ow.g) = false ∧
      (plain 2).mayStart c.core (issuerOf c.bctx c.w) (lowestLane c.lanes) = true ∧
      ((plain 2).coreAt c.core).fillingBy b.adm c.w = false ∧ ((plain 2).coreAt c.core).currentBank = none) :=
  lane_witness (fun c b t => activeLanes c t ow.g ≠ 0 ∧ (plain 2).heldBack c.core c.bctx c.w b.adm (activeLanes c t ow.g) = false ∧
      (plain 2).mayStart c.core (issuerOf c.bctx c.w) (lowestLane c.lanes) = true ∧
      ((plain 2).coreAt c.core).fillingBy b.adm c.w = false ∧
      ((plain 2).coreAt c.core).currentBank = none) (by decide +kernel)

theorem witness_tableNoLane : ∃ c b t, LaneReady (machine (noneLatch 2) id id) c b t (.tbleval gw) gw ∧ activeLanes c t gw.g = 0 :=
  lane_witness (fun c _ t => activeLanes c t gw.g = 0) (by decide +kernel)

/-- A special-function result in flight to v3 of warp 0. -/
def flying : SfuRes := { id := 0, core := 0, bctx := 0, w := 0, adm := 7, vd := 3, vals := [(0, 5)], bank := none }

theorem witness_sfuLands : let s := { plain 2 with sfu := [flying] }
    (s.sfu.find? fun q => q.id == s.arg.a) = some flying ∧
    ∃ b t, s.blk? flying.core flying.bctx = some b ∧ b.adm = flying.adm ∧ b.thr? flying.w = some t :=
  ⟨by decide +kernel, block, (block.thr? 0).get (by decide +kernel), by decide +kernel, by decide +kernel, by simp [flying]⟩

/-- A page of cluster 0's TLB at 0x400000, readable and writable, with the given tag mode and COMM format. -/
def page (n : Nat) (tagm comm : BitVec 2) : TlbEntry :=
  { tlb := 256, ctx := 0, page := 0x400 + n, ats := none,
    leaf := { pa := 0x100000 + 4096 * n, r := true, w := true, x := false, pub := false, tagm := tagm, comm := comm, priv := false,
              host := false, uc := false, peer := none } }

/-- A machine with two such pages, which the agents outside the clusters hold too, the first granule's tag 0. -/
def paged (s : State) (tagm comm : BitVec 2) : State :=
  { s with xl := { s.xl with tlb := [page 0 tagm comm, page 1 tagm comm, { page 0 tagm comm with tlb := 512 }, { page 1 tagm comm with tlb := 512 }] }, mem := { s.mem with tags := [(0x8000, 0)] } }

/-- TBLLOAD from the address in s8. -/
def tw : LaneW := { vd := 0, sa := 0x88, sb := 0x80, ea := false, eb := false, g := false, lit := 0 }
/-- A readable image and both banks free. -/
def loadState : State := paged (machine (latch 0 2 0xFFFFFFFF) (fun b => { b with s := nput 8 0x400000 b.s }) id) 0 0

theorem witness_tableLoad : ∃ c b t, LaneReady loadState c b t (.tblload tw) tw ∧
    (activeLanes c t tw.g ≠ 0 ∧
      (loadState.tableCheck c b (c.mmu b (t.privileged c.lanes)) (b.sreg (tw.sa.toNat - 128))).1 = .ok .mem 0 none ∧
      loadState.heldBack c.core c.bctx c.w b.adm (activeLanes c t tw.g) = false ∧
      loadState.mayStart c.core (issuerOf c.bctx c.w) (lowestLane c.lanes) = true ∧
      loadState.roomFor c b.adm (loadState.tableReqs c b t (b.sreg (tw.sa.toNat - 128)) (activeLanes c t tw.g)) = true ∧
      findIx (fun x : TblBank => !x.current && x.free) (loadState.coreAt c.core).banks = some 0) :=
  lane_witness (fun c b t => activeLanes c t tw.g ≠ 0 ∧
      (loadState.tableCheck c b (c.mmu b (t.privileged c.lanes)) (b.sreg (tw.sa.toNat - 128))).1 = .ok .mem 0 none ∧
      loadState.heldBack c.core c.bctx c.w b.adm (activeLanes c t tw.g) = false ∧
      loadState.mayStart c.core (issuerOf c.bctx c.w) (lowestLane c.lanes) = true ∧
      loadState.roomFor c b.adm (loadState.tableReqs c b t (b.sreg (tw.sa.toNat - 128)) (activeLanes c t tw.g)) = true ∧
      findIx (fun x : TblBank => !x.current && x.free) (loadState.coreAt c.core).banks = some 0) (by decide +kernel)

theorem witness_tableLoadNoLane : ∃ c b t, LaneReady (machine (noneLatch 2) id id) c b t (.tblload { tw with g := true }) { tw with g := true } ∧
    activeLanes c t true = 0 :=
  lane_witness (fun c _ t => activeLanes c t true = 0) (by decide +kernel)

/-! ### Witnesses: memory words (R188 to R234, R369 to R383) -/

/-- The extension word of an access to SPACE `sp`. -/
def mx (size sp o : BitVec 3) : MemX :=
  { size := size, sgn := false, space := sp, order := o, scope := 0, reuse := 0, inv := false, notag := false, off := 0 }

/-- A memory word at the address in v2 and v3, or v1 where it is narrow, with v4 as data or destination. -/
def aw (sb : BitVec 8) : LaneW := { vd := 4, sa := 2, sb := sb, ea := false, eb := false, g := false, lit := 0 }

/-- A block with 4 KiB of scratchpad; v1 holds 0x40, v2 and v3 hold 0x400000. -/
def memState (tagm comm : BitVec 2) : State :=
  paged (machine (latch 0 3 0xFFFFFFFF) (fun b => { b with info := { b.info with spadB := 4096 } })
    fun t => { t with rows := [(1, List.replicate 32 0x40), (2, List.replicate 32 0x400000), (3, List.replicate 32 0)] }) tagm comm


/-- A row with its operands. -/
structure MemCase where
  row : Rules.MemRow
  w : LaneW
  x : MemX

/-- The rows `ns` with the operands `w` and `x`. -/
def cases' (ns : List Nat) (w : LaneW) (x : MemX) : List MemCase :=
  ns.filterMap fun n => Rules.memRows[n]?.map fun r => ⟨r, w, x⟩

/-- The memory words to a global page: LD, ST, ATOM, ATOMCAS, RED, WAITADDR, WAKEADDR, TAGLD, TAGST. -/
def globalCases : List MemCase :=
  cases' [0, 1] (aw 0x80) (mx 2 1 0) ++ cases' [4, 5] (aw 6) (mx 2 1 0) ++ cases' [6, 11] { aw 6 with vd := 0 } (mx 2 1 0)
    ++ cases' [10] (aw 6) (mx 2 0 0) ++ cases' [12, 13] (aw 0x80) (mx 0 1 0)
/-- CADD to a page of FP32 partials (R209). -/
def partialCases : List MemCase := cases' [9] { aw 6 with vd := 0 } (mx 2 1 0)
/-- LDS, STS, ATOMS and ATOMSCAS to the block's scratchpad. -/
def narrowCases : List MemCase :=
  cases' [2, 3] { aw 0x80 with sa := 1 } (mx 2 2 0) ++ cases' [7, 8] { aw 6 with sa := 1 } (mx 2 2 0)

/-- Every active lane goes to home `h` at `a` under `lf`, and the access has room: the hypotheses of the memory words, as a test. -/
def mayAsk (s : State) (c : Cur) (b : Blk) (t : Thr) (act : Word) (f : MemForm) (va : Nat → DWord) (h : Home) (a : Nat)
    (lf : Option Leaf) : Bool :=
  decide (act ≠ 0) &&
  ((maskLanes act).all fun l => decide (s.laneCheck c b (c.mmu b (t.privileged c.lanes)) f (va l) = .ok h a lf) &&
    match s.target c b f (va l) with
    | .at (.fifo _ _) _ => false
    | _ => true) &&
  s.mayStart c.core (issuerOf c.bctx c.w) (lowestLane c.lanes) && !s.heldBack c.core c.bctx c.w b.adm act &&
  decide ((s.dirtyLines c.core c.bctx c.w b.adm).length + (maskLanes act).length ≤ 64) &&
  (match s.bankFor h (match h with
      | .fifo _ _ => 0
      | _ => a / 128) with
    | none => true
    | some k => decide ((s.bank k).queue.length + (maskLanes act).length ≤ 32) && decide ((s.bank k).change = none)) &&
  s.reqs.isEmpty && (s.watches b.info.ctx).isEmpty && decide ((s.coreLines c.core).eraseDups.length + 32 ≤ 1024)

theorem mayAsk_of {s : State} {c : Cur} {b : Blk} {t : Thr} {act : Word} {f : MemForm} {va : Nat → DWord} {h : Home} {a : Nat}
    {lf : Option Leaf} (p : mayAsk s c b t act f va h a lf = true) :
    Cleared s c b t act f va (fun _ => h) (fun _ => a) (fun _ => lf) ∧ Roomy s c b act (fun _ => h) (fun _ => a) ∧
    (s.coreLines c.core).eraseDups.length + 32 ≤ 1024 := by
  simp only [mayAsk, Bool.and_eq_true, decide_eq_true_eq, List.all_eq_true, Bool.not_eq_true', List.isEmpty_iff] at p
  obtain ⟨⟨⟨⟨⟨⟨⟨⟨p0, p1⟩, pm⟩, p2⟩, p3⟩, p4⟩, p5⟩, p6⟩, p7⟩ := p
  have mem : ∀ l, l < 32 → act.getLsbD l = true → l ∈ maskLanes act := fun l hl ha => by simp [maskLanes, hl, ha]
  refine ⟨⟨p0, fun l hl ha => (p1 l (mem l hl ha)).1, ?_⟩, ⟨pm, p2, p3, ?_, ?_, p6⟩, p7⟩
  · intro l m x y i j hl _ ha _ e _
    have q := (p1 l (mem l hl ha)).2
    rw [e] at q
    exact absurd q (by simp)
  · intro l k _ _ e
    cases h <;> (simp only at e p4; rw [e] at p4; simpa only [Bool.and_eq_true, decide_eq_true_eq] using p4)
  · intro q hq
    rw [p5] at hq
    cases hq

/-- The rows of a list stand ready on `s`, cleared and with room. -/
theorem mem_all {l : List MemCase} {s : State} {h : Home} {a : Nat} {lf : Option Leaf}
    (p : (l.all fun e => issued s fun c b t => laneReady s c b t (e.row.op e.w e.x) e.w &&
      decide (mayAsk s c b t (activeLanes c t e.w.g) (e.row.form e.w e.x) (e.row.va e.w e.x b t) h a lf = true)) = true) :
    ∀ e ∈ l, ∃ c b t, LaneReady s c b t (e.row.op e.w e.x) e.w ∧
      Cleared s c b t (activeLanes c t e.w.g) (e.row.form e.w e.x) (e.row.va e.w e.x b t) (fun _ => h) (fun _ => a) (fun _ => lf) ∧
      Roomy s c b (activeLanes c t e.w.g) (fun _ => h) (fun _ => a) ∧ (s.coreLines c.core).eraseDups.length + 32 ≤ 1024 := by
  intro e he
  obtain ⟨c, b, t, hr, hm⟩ := lane_witness (fun c b t =>
    mayAsk s c b t (activeLanes c t e.w.g) (e.row.form e.w e.x) (e.row.va e.w e.x b t) h a lf = true) (List.all_eq_true.mp p e he)
  exact ⟨c, b, t, hr, mayAsk_of hm⟩

theorem witness_memoryGlobal : ∀ e ∈ globalCases, ∃ c b t, LaneReady (memState 1 0) c b t (e.row.op e.w e.x) e.w ∧
    Cleared (memState 1 0) c b t (activeLanes c t e.w.g) (e.row.form e.w e.x) (e.row.va e.w e.x b t) (fun _ => .mem)
      (fun _ => 0x100000) (fun _ => some (page 0 1 0).leaf) ∧
    Roomy (memState 1 0) c b (activeLanes c t e.w.g) (fun _ => .mem) (fun _ => 0x100000) ∧
    ((memState 1 0).coreLines c.core).eraseDups.length + 32 ≤ 1024 :=
  mem_all (by decide +kernel)

theorem witness_memoryPartial : ∀ e ∈ partialCases, ∃ c b t, LaneReady (memState 0 1) c b t (e.row.op e.w e.x) e.w ∧
    Cleared (memState 0 1) c b t (activeLanes c t e.w.g) (e.row.form e.w e.x) (e.row.va e.w e.x b t) (fun _ => .mem)
      (fun _ => 0x100000) (fun _ => some (page 0 0 1).leaf) ∧
    Roomy (memState 0 1) c b (activeLanes c t e.w.g) (fun _ => .mem) (fun _ => 0x100000) ∧
    ((memState 0 1).coreLines c.core).eraseDups.length + 32 ≤ 1024 :=
  mem_all (by decide +kernel)

theorem witness_memoryNarrow : ∀ e ∈ narrowCases, ∃ c b t, LaneReady (memState 0 0) c b t (e.row.op e.w e.x) e.w ∧
    Cleared (memState 0 0) c b t (activeLanes c t e.w.g) (e.row.form e.w e.x) (e.row.va e.w e.x b t) (fun _ => .spad 7)
      (fun _ => 0x40) (fun _ => none) ∧
    Roomy (memState 0 0) c b (activeLanes c t e.w.g) (fun _ => .spad 7) (fun _ => 0x40) ∧
    ((memState 0 0).coreLines c.core).eraseDups.length + 32 ≤ 1024 :=
  mem_all (by decide +kernel)

/-- The three lists name every memory row. -/
theorem memory_rows_covered : (globalCases ++ partialCases ++ narrowCases).length = Rules.memRows.length := by decide

theorem witness_memoryNoLane : ∃ c b t, LaneReady (machine (noneLatch 3) id id) c b t (.ld { aw 0x80 with g := true } (mx 2 1 0))
    { aw 0x80 with g := true } ∧ activeLanes c t true = 0 :=
  lane_witness (fun c _ t => activeLanes c t true = 0) (by decide +kernel)

/-! ### Witnesses: the checks of an access, fences, cache maintenance, accumulators -/

/-- A load of four bytes in SPACE `sp`. -/
def loadForm (sp : Nat) : MemForm := { kind := .load, ak := .read, bytes := 4, space := sp }

/-- The premises of the clauses of AccessChecks: a window address under SPACE 1, a non-canonical one, a window past the last, the
scratchpad's first offset outside its size and its last inside, a misaligned address. -/
theorem witness_accessAddresses :
    (isWindow 0xF0F0000000000000 = true ∧ (loadForm 1).space = 1 ∧ (loadForm 1).narrow = false) ∧
    (isWindow 0x7000000000400000 = false ∧ canonicalVa 0x7000000000400000 = false ∧ (loadForm 0).space ≤ 1) ∧
    (isWindow 0xF0F4000000000000 = true ∧ (fld (0xF0F4000000000000 : DWord) 48 4 : BitVec 4).toNat = 3 + 1) ∧
    ((loadForm 2).space = 2 ∧ 4096 ≤ (4096 : DWord).toNat % 2 ^ 48 ∧ (4092 : DWord).toNat % 2 ^ 48 < 4096) ∧
    (isWindow 0x400002 = false ∧ canonicalVa 0x400002 = true ∧ (0x400002 : DWord).toNat % 4 ≠ 0) := by decide +kernel

/-- Addresses that name offset 4092 of the scratchpad window and offset 64 of rank 1 in the gang window: by SPACE, in generic form, in
narrow form. -/
theorem witness_windowNames :
    (Rules.Names (loadForm 2) 4092 0 4092 ∧ Rules.Names (loadForm 0) 0xF0F0000000000FFC 0 4092 ∧
      Rules.Names { loadForm 2 with narrow := true } 0xFFFFFFFF00000FFC 0 4092) ∧
    Rules.Names (loadForm 3) 0x2000040 1 0x2000040 ∧ Rules.Names (loadForm 0) 0xF0F1000002000040 1 0x2000040 ∧
      Rules.Names { loadForm 3 with narrow := true } 0x2000040 1 0x2000040 :=
  ⟨⟨.inr (.inl (by decide +kernel)), .inr (.inr (by decide +kernel)), .inl (by decide +kernel)⟩,
    .inr (.inl (by decide +kernel)), .inr (.inr (by decide +kernel)), .inl (by decide +kernel)⟩

/-- A gang of two blocks: rank 0 in core 0, rank 1 in core 1. -/
def mate : Blk := { block with adm := 8, info := { block.info with rank := 1, bpg := 2, spadB := 4096 } }

/-- A member that lives and one that has exited, and offsets at the edges of what R189 allows: the last rank, one past it, the last byte of
the scratchpad, one past it, the last offset bit and one past it. -/
theorem witness_gangWindow : let b := { block with info := { block.info with bpg := 2, spadB := 4096 } }
    (b.info.isCopy = false ∧ mate.info.gangId = b.info.gangId ∧ mate.info.rank = 0x2000040 / 2 ^ 25 % 8 ∧ mate.info.ctx = b.info.ctx ∧
      mate.hasExited = false ∧ ({ mate with thrs := [] } : Blk).hasExited = true) ∧
    (0x2000FFF / 2 ^ 25 % 8 < b.info.bpg ∧ b.info.bpg ≤ 0x4000000 / 2 ^ 25 % 8) ∧
    (0x2000FFF % 2 ^ 25 < b.info.spadB ∧ b.info.spadB ≤ 0x2001000 % 2 ^ 25) ∧ 2 ^ 28 ≤ 0x10000000 ∧ 0xFFFFFFF < 2 ^ 28 ∧
    ∀ k, 3 ≤ k → k ≤ 14 → (fld (BitVec.ofNat 64 (0xF0F1000000000000 + k * 2 ^ 48)) 48 4 : BitVec 4).toNat = k + 1 := by decide +kernel

/-- The translation of context 0's unprivileged code in core 0. -/
def core0 : Mmu := { tlb := 0, ctx := 0, priv := false }

/-- A page outside the TLB, a page in it that allows the access, one that does not, and a pointer tag that does not match. -/
theorem witness_accessLookups : (memState 1 0).sourceWindow 0 0x402000 = none ∧ (memState 1 0).lookup core0 0x402000 = .absent ∧
    (memState 1 0).lookup core0 0x400004 = .hit (page 0 1 0).leaf ∧ (page 0 1 0).leaf.check .read false = none ∧
    (page 0 1 0).leaf.check .fetch false = some .protectionExec ∧
    (memState 1 0).placeOf 0 (page 0 1 0).leaf 0x400004 = .ok (.mem, 0x100004) ∧ inCalPage 0x100004 = false ∧
    isCapacity 0x100004 = false ∧ (memState 1 0).tagMatches 0x100004 0x0100000000400004 false = false :=
  ⟨by decide +kernel, by rfl, by rfl, by rfl, by rfl, by rfl, by decide +kernel, by decide +kernel, by decide +kernel⟩

/-- An unanswered fault of page 0x402 of context 0. -/
def missState : State := { memState 1 0 with xl := { Xlate.reset with faults :=
    [{ ctx := 0, page := 0x402, fseq := 0, written := true, malf := false, hostpg := false, wpois := false, va := 0x402000,
       kind := .read, site := { origin := 0, pc := 0, lseq := 0, core := 0, slot := 0 } }] } }

theorem witness_accessMiss : missState.lookup core0 0x402000 = .faulted := by rfl

/-- A fence or CODEPUB, and a guarded one. -/
def fw : LaneW := { vd := 0, sa := 0x80, sb := 0x80, ea := false, eb := false, g := false, lit := 0 }
/-- An order in a fence's extension word. -/
def fx (o : BitVec 3) : MemX := { mx 0 0 o with scope := 2 }

theorem witness_fences : ∀ e ∈ [Instr.fence fw (fx 1), .fence fw (fx 2), .fence fw (fx 3), .fence fw (fx 4), .codepub fw (fx 2)].map
      (fun i => (i, fw)),
    ∃ c b t, LaneReady (plain 3) c b t e.1 e.2 ∧ (activeLanes c t false ≠ 0 ∧
      (plain 3).heldBack c.core c.bctx c.w b.adm (activeLanes c t false) = false ∧
      (plain 3).unboundReads c.core c.bctx c.w b.adm (activeLanes c t false) = false ∧
      (plain 3).mayStart c.core (issuerOf c.bctx c.w) (lowestLane c.lanes) = true) :=
  ready_all _ (by decide +kernel)

theorem witness_fencesNoLane : ∀ e ∈ [Instr.fence { fw with g := true } (fx 2), .codepub { fw with g := true } (fx 2)].map
      (fun i => (i, { fw with g := true })),
    ∃ c b t, LaneReady (machine (noneLatch 3) id id) c b t e.1 e.2 ∧ activeLanes c t true = 0 :=
  ready_all _ (by decide +kernel)

/-- PREF, WBL and INVL of the line at 0x400000. -/
def maintenance : List (Instr × LaneW) :=
  let w := { aw 0x80 with vd := 0 }
  [ (.pref w (mx 0 1 0), w), (.wbl w (mx 0 1 0), w), (.invl w (mx 0 1 0), w) ]

/-- A page of host memory at 0x400000, cacheable, and a line of it that the device holds or not. -/
def hostState (held : Bool) : State :=
  let s := memState 0 0
  { s with
    xl := { s.xl with tlb := [{ page 0 0 0 with leaf := { (page 0 0 0).leaf with host := true } }] }
    dev := { s.dev with hostAtom := 0x80 }
    mem := { s.mem with hostDirty := if held then [(hostLine 0 8192, [0])] else [] } }

/-- PREF, WBL and INVL name one line: of memory, of host memory the device does not hold, and of host memory it holds. -/
theorem witness_cacheMaintenance : ∀ x ∈ [(memState 0 0, Home.mem), (hostState false, .host 0), (hostState true, .host 0)],
    ∀ e ∈ maintenance, ∃ c b t, LaneReady x.1 c b t e.1 e.2 ∧ (activeLanes c t false ≠ 0 ∧ x.1.cacheWays (c.core / 8) ≠ [] ∧
      ((maskLanes (activeLanes c t false)).all fun l =>
        x.1.quietLine (c.mmu b (t.privileged c.lanes)) true 1 (wideVa e.2 (mx 0 1 0) b t l) == some (x.2, 0x100000 / 128)) = true) := by
  have h : ([(memState 0 0, Home.mem), (hostState false, .host 0), (hostState true, .host 0)].all fun x => maintenance.all fun e =>
    issued x.1 fun c b t => laneReady x.1 c b t e.1 e.2 && decide (activeLanes c t false ≠ 0 ∧ x.1.cacheWays (c.core / 8) ≠ [] ∧
      ((maskLanes (activeLanes c t false)).all fun l =>
        x.1.quietLine (c.mmu b (t.privileged c.lanes)) true 1 (wideVa e.2 (mx 0 1 0) b t l) == some (x.2, 0x100000 / 128)) = true)) = true := by
    decide +kernel
  intro x hx e he
  exact lane_witness _ (List.all_eq_true.mp (List.all_eq_true.mp h x hx) e he)

theorem witness_hostHeld : (hostState false).holdsHost 0 8192 = false ∧ (hostState true).holdsHost 0 8192 = true := by decide +kernel

/-- A warp whose pool gives the boundary at 64 of 128 rows: rows 64 up are its accumulator slice (R174). -/
def accState : State :=
  machine (latch 0 3 0xFFFFFFFF) (fun b => { b with info := { b.info with poolRows := 128 } }) fun t => { t with poolb := 64 }

/-- ACCRD and ACCWR of four rows from row 64, by SA the literal. -/
def accWord : LaneW := { vd := 8, sa := 0xFF, sb := 0, ea := false, eb := false, g := false, lit := 64 }

theorem witness_accumulators : ∀ e ∈ [(Instr.accrd accWord (mx 2 0 0), accWord), (.accwr accWord (mx 2 0 0), accWord)],
    ∃ c b t, LaneReady accState c b t e.1 e.2 ∧ (activeLanes c t false ≠ 0 ∧ (b.thr? 0).isSome = true ∧
      accRow accWord (mx 2 0 0) b = (64 : Nat) ∧ b.accRows 0 64 4 = true ∧ accState.rowsHeld c.core c.bctx 0 64 4 = false ∧
      accState.heldBack c.core c.bctx c.w b.adm (activeLanes c t false) = false ∧
      accState.mayStart c.core (issuerOf c.bctx c.w) (lowestLane c.lanes) = true) :=
  ready_all _ (by decide +kernel)

theorem witness_accumulatorsNoLane : ∀ e ∈ [(Instr.accrd { accWord with g := true } (mx 2 0 0), { accWord with g := true }),
      (.accwr { accWord with g := true } (mx 2 0 0), { accWord with g := true })],
    ∃ c b t, LaneReady (machine (noneLatch 3) id id) c b t e.1 e.2 ∧ activeLanes c t true = 0 :=
  ready_all _ (by decide +kernel)

/-! ### Witnesses: uniform words, NOP and REP (R306, R307, R335 to R341, R436) -/

/-- Every word of classes 4 to 6 of a list stands ready on the state `s`, with `E` of what it sees. -/
theorem ctl_all {l : List Instr} {s : State} (E : Cur → Blk → Thr → Prop) [∀ c b t, Decidable (E c b t)]
    (h : (l.all fun i => issued s fun c b t => ctlReady s c t i && decide (E c b t)) = true) :
    ∀ i ∈ l, ∃ c b t, CtlReady s c b t i ∧ E c b t :=
  fun i hi => ctl_witness E (List.all_eq_true.mp h i hi)

/-- The same for uniform words. -/
theorem uni_all {l : List (Instr × UniW)} {s : State} (E : Cur → Blk → Thr → Prop) [∀ c b t, Decidable (E c b t)]
    (h : (l.all fun e => issued s fun c b t => uniReady s c b t e.1 e.2 && decide (E c b t)) = true) :
    ∀ e ∈ l, ∃ c b t, UniReady s c b t e.1 e.2 ∧ E c b t :=
  fun e he => uni_witness E (List.all_eq_true.mp h e he)

/-- A uniform word of s10, s8 and s9. -/
def uw : UniW := { sd := 10, sa := 8, sb := 9, ea := false, eb := false, lit := 0 }
/-- A uniform word without a second source. -/
def uw1 : UniW := { uw with sb := 0 }

theorem witness_uniformResults : ∀ e ∈ (.smov uw1, uw1) :: (Rules.uniRows.drop 1).map (fun r => (r.1 uw, uw)) ++ [(.scmp uw, uw)],
    ∃ c b t, UniReady (plain 4) c b t e.1 e.2 ∧ True :=
  uni_all (fun _ _ _ => True) (by decide +kernel)

/-- V2S of v1 from lane 0, and of the pair v2 from the lowest lane. -/
def v2s : List Instr := [.v2s { uw1 with sa := 1, sb := 0 }, .v2s { uw1 with sa := 0x82, sb := 0xFF, lit := 32 }]

theorem witness_v2s : ∀ i ∈ v2s, ∃ c b t, CtlReady (plain 4) c b t i ∧
    (4 ≤ t.poolb ∧ t.isEmpty 1 = false ∧ t.isEmpty 2 = false ∧ t.isEmpty 3 = false ∧ b.sIsEmpty 10 = false ∧ b.sIsEmpty 0 = false ∧
      ([[0, 10], [255, 10]].all fun r => (plain 4).uniTurn c b r) = true) :=
  ctl_all _ (by decide +kernel)

/-- Uniform accesses to the page at the address in s8. -/
def uniMemState : State := paged (machine (latch 0 4 0xFFFFFFFF) (fun b => { b with s := nput 8 0x400000 b.s }) id) 0 0

theorem witness_uniformAccess : ∀ e ∈ [(Instr.sld uw, uw), (.sst uw, uw)], ∃ c b t, UniReady uniMemState c b t e.1 e.2 ∧
    (c.lanes ≠ 0 ∧
      mayAsk uniMemState c b t c.lanes { kind := .load, ak := .read, bytes := 8, watch := some 0, dst := .uni 10 }
        (fun _ => srcU b uw.sa uw.lit + srcU b uw.sb uw.lit) .mem 0x100000 (some (page 0 0 0).leaf) = true ∧
      mayAsk uniMemState c b t c.lanes { kind := .store, ak := .write, bytes := 8, watch := some 1 }
        (fun _ => srcU b uw.sa uw.lit + srcU b uw.sb uw.lit) .mem 0x100000 (some (page 0 0 0).leaf) = true) :=
  uni_all _ (by decide +kernel)

/-- The clause of a latch, as a lane keeps it, with its words. -/
def inClause (ws : List Word) (t : Thr) : Thr :=
  { t with lanes := t.lanes.map fun l => { l with clause := some { hdrAt := 0x400000, hdr := 0xB4038001, words := ws, rep := 0 } } }

/-- REP of two NOPs. -/
def repW : RepW := { cnt := 1, stepd := 0, stepa := 0, stepb := 0, z := 0 }
/-- A warp at a REP whose next words are `ws`: the clause holds it and them. -/
def repState (ws : List Word) : State :=
  machine { latch 0 4 0xFFFFFFFF with last := false } id (inClause (0x0000007F :: ws))

theorem witness_nop : ∃ c b t, CtlReady (plain 4) c b t (.nop 0) ∧ True := ctl_witness (fun _ _ _ => True) (by decide +kernel)


theorem witness_rep : ∃ c b t, CtlReady (repState [0]) c b t (.rep repW) ∧ (repTarget c t = [0] ∧ clauseEnding c.cls 0 = false) :=
  ctl_witness _ (by decide +kernel)

/-- The NOP that it repeats. -/
theorem witness_repTarget : decodeRaw 4 [0] = .ok (.nop 0, 1) ∧ (∀ q, Instr.nop 0 ≠ .rep q) ∧ stepsFit repW (.nop 0) = true :=
  ⟨by rfl, fun _ => nofun, by decide⟩

/-- A REP of EXIT, which ends its clause (R182), and of a REP. -/
theorem witness_repIllegal : ∀ w ∈ [(0x00000008 : Word), 0x0000007F], ∃ c b t, CtlReady (repState [w]) c b t (.rep repW) ∧
    repTarget c t = [w] := by
  intro w hw
  have h : ([(0x00000008 : Word), 0x0000007F].all fun w => issued (repState [w]) fun c b t =>
    ctlReady (repState [w]) c t (.rep repW) && decide (repTarget c t = [w])) = true := by decide +kernel
  exact ctl_witness _ (List.all_eq_true.mp h w hw)

theorem witness_repIllegalWords : clauseEnding 4 0x00000008 = true ∧ decodeRaw 4 [0x0000007F] = .ok (.rep repW, 1) :=
  ⟨by decide, by rfl⟩

/-! ### Witnesses: control flow, special registers and traps (R277 to R311, R427 to R444) -/

/-- BRX or RET through s8. -/
def brxS : BrxW := { vr := false, z1 := 0, sa := 8, z2 := 0, ea := false, z3 := false, lit := 0 }
/-- Through the lane pair v2. -/
def brxV : BrxW := { brxS with vr := true, sa := 2 }
/-- The branches. -/
def branches : List Instr :=
  [ .bra { pred := 7, psense := false, z1 := 0, off := 4, z2 := 0 }, .sbr { pred := 7, psense := true, z1 := 0, off := 0xFFFF, z2 := 0 },
    .brx brxS, .brx brxV, .ret brxS, .ret brxV ]

/-- A warp whose v2 and v3 hold a canonical address in each lane, in a clause of class `cls`. -/
def pairState (cls : Nat) : State :=
  machine (latch 0 cls 0xFFFFFFFF) id fun t => { t with rows := [(2, List.replicate 32 8), (3, List.replicate 32 0)] }

/-- Level 0 running in every lane of a warp. -/
def level : LoopLvl := { active := true, lc := 3, start := 0x400000, stop := 0x400020, mask := 0xFFFFFFFF }

/-- A latch at the last word of a clause whose LEND is 1, in the lanes `m`. -/
def lendLatch (m : Word) : Cur := { latch 0 4 m with hdr := 0xB4038001 ||| 0x80000 }

/-- That warp at that word. -/
def lendState (m : Word) : State := machine (lendLatch m) id fun t =>
  { t with loops := lset 0 level t.loops, rows := [(2, List.replicate 32 8), (3, List.replicate 32 0)] }

/-- `Cur.Passes`, as a test. -/
def passes (c : Cur) (t : Thr) (m : Word) : Bool :=
  let rest := c.lanes &&& ~~~m
  let n := (fld c.hdr 19 2 : BitVec 2).toNat - 1
  decide (rest = 0) || decide (fld c.hdr 19 2 = (0 : BitVec 2)) ||
    (decide (t.innermost = some n) && ((decide (m = 0) && (List.range (n + 1)).all fun j => decide ((t.loop j).mask ≠ 0)) ||
      (List.range 32).any fun l => rest.getLsbD l && (List.range (n + 1)).all fun j => (t.loop j).mask.getLsbD l))

theorem passes_of {c : Cur} {t : Thr} {m : Word} (h : passes c t m = true) : c.Passes t m := by
  simp only [passes, Bool.or_eq_true, Bool.and_eq_true, decide_eq_true_eq, List.all_eq_true, List.any_eq_true, List.mem_range] at h
  obtain (h | h) | ⟨h, h'⟩ := h
  · exact .inl h
  · exact .inr (.inl h)
  · refine .inr (.inr ⟨h, ?_⟩)
    obtain ⟨h1, h2⟩ | ⟨l, h1, h2, h3⟩ := h'
    · exact .inl ⟨h1, fun j hj => h2 j (by omega)⟩
    · exact .inr ⟨l, h1, h2, fun j hj => h3 j (by omega)⟩

/-- A word that says where its lanes go stands ready, as a test. -/
def ctlGo (s : State) (c : Cur) (t : Thr) (i : Instr) : Bool := decide (ctlGate i c t = .go) && live s c

theorem go_witness {s : State} {i : Instr} (E : Cur → Blk → Thr → Prop) [∀ c b t, Decidable (E c b t)]
    (h : issued s (fun c b t => ctlGo s c t i && decide (E c b t)) = true) : ∃ c b t, CtlGo s c b t i ∧ E c b t := by
  obtain ⟨c, b, t, hi, hp⟩ := issued_of h
  simp only [ctlGo, live, Bool.and_eq_true, decide_eq_true_eq, Bool.not_eq_true'] at hp
  exact ⟨c, b, t, { hi with gate := hp.1.1, live := hp.1.2.1, turn := hp.1.2.2 }, hp.2⟩

/-- The branches at the end of a clause that ends no loop, and at the end of a loop body: there BRA and SBR leave some lanes, or all, to
the loop-end step. -/
theorem witness_branches : ∀ x ∈ [(pairState 4, 0xFFFFFFFF), (lendState 0xFFFFFFFF, 0xFFFFFFFF), (lendState 0xFFFFFFFF, 0), (lendState 3, 1)],
    ∀ i ∈ branches, ∃ c b t, CtlGo x.1 c b t i ∧ (passes c t x.2 = true ∧ c.lanes ≠ 0 ∧ x.2 &&& ~~~c.lanes = 0 ∧
      3 < t.poolb ∧ t.isEmpty 2 = false ∧ t.isEmpty 3 = false ∧ b.sIsEmpty 8 = false ∧ (b.sreg 8).toNat / 2 ^ 60 = 0 ∧
      ((maskLanes c.lanes).all fun l => (t.reg64 2 l).toNat / 2 ^ 60 == 0) = true ∧ x.1.uniTurn c b [] = true ∧
      x.1.uniTurn c b [8] = true) := by
  have h : ([(pairState 4, (0xFFFFFFFF : Word)), (lendState 0xFFFFFFFF, 0xFFFFFFFF), (lendState 0xFFFFFFFF, 0), (lendState 3, 1)].all fun x =>
    branches.all fun i => issued x.1 fun c b t => ctlGo x.1 c t i && decide (passes c t x.2 = true ∧ c.lanes ≠ 0 ∧
      x.2 &&& ~~~c.lanes = 0 ∧ 3 < t.poolb ∧ t.isEmpty 2 = false ∧ t.isEmpty 3 = false ∧ b.sIsEmpty 8 = false ∧
      (b.sreg 8).toNat / 2 ^ 60 = 0 ∧ ((maskLanes c.lanes).all fun l => (t.reg64 2 l).toNat / 2 ^ 60 == 0) = true ∧
      x.1.uniTurn c b [] = true ∧ x.1.uniTurn c b [8] = true)) = true := by decide +kernel
  exact fun x hx i hi => go_witness _ (List.all_eq_true.mp (List.all_eq_true.mp h x hx) i hi)

/-- CALL with its link in v10, or s10. -/
def call : CallW := { lr := 10, off := 16, z := 0 }

theorem witness_call : (∃ c b t, CtlGo (plain 4) c b t (.call call) ∧ (c.w < 32 ∧ 11 < t.poolb ∧ t.isEmpty 10 = false ∧
      t.isEmpty 11 = false ∧ (plain 4).uniTurn c b [] = true)) ∧
    ∃ c b t, CtlGo (machine (latch 32 4 1) id id) c b t (.call call) ∧ (32 ≤ c.w ∧ b.sIsEmpty 10 = false ∧
      (machine (latch 32 4 1) id id).uniTurn c b [10] = true) :=
  ⟨go_witness _ (by decide +kernel), go_witness _ (by decide +kernel)⟩

/-- SETMR in both forms, with and without ND. -/
def setmrs : List Instr :=
  [ .setmrLabel { vd := 0, off := 8, nd := true, z := false }, .setmrLabel { vd := 4, off := 8, nd := false, z := false },
    .setmrRegister { vd := 4, src := 2, z1 := 0, nd := false, z2 := false },
    .setmrRegister { vd := 0, src := 2, z1 := 0, nd := true, z2 := false } ]

theorem witness_setmr : ∀ i ∈ setmrs, ∃ c b t, CtlReady (pairState 4) c b t i ∧ (5 < t.poolb ∧ t.isEmpty 2 = false ∧
    t.isEmpty 3 = false ∧ t.isEmpty 4 = false ∧ t.isEmpty 5 = false) :=
  ctl_all _ (by decide +kernel)

/-- LOOP of level 0 with its count in s8. -/
def loopW : LoopW := { lvl := 0, z1 := 0, sa := 8, z2 := 0, ea := false, z3 := false, lit := 0 }
/-- LOOPBRK of level 0 by p7. -/
def brkW : BrkW := { pred := 7, psense := false, lvl := 0, z1 := false, off := 4, z2 := 0 }
/-- LOOP of a level that nothing runs, in a clause that ends no loop and in one that is the whole body; LOOPBRK of a level that runs, at
both, and of one that does not. -/
theorem witness_loops : (∀ c ∈ [latch 0 4 0xFFFFFFFF, lendLatch 0xFFFFFFFF], ∃ c' b t, CtlGo (machine c id id) c' b t (.loop loopW) ∧
      ((fld c'.hdr 19 2 = (0 : BitVec 2) ∨ (fld c'.hdr 19 2 : BitVec 2).toNat = 1) ∧ t.loops.length = 3 ∧ b.sIsEmpty 8 = false ∧
        (machine c id id).uniTurn c' b [8] = true ∧ ((List.range 3).all fun k => !(t.loop k).active) = true)) ∧
    (∀ m ∈ [(0xFFFFFFFF : Word), 1], ∃ c b t, CtlGo (lendState m) c b t (.loopbrk brkW) ∧ (t.loops.length = 3 ∧
      (t.loop 0).active = true ∧ passes c t c.lanes = true)) ∧
    ∃ c b t, CtlGo (plain 4) c b t (.loopbrk brkW) ∧ (t.loops.length = 3 ∧ (t.loop 0).active = false) := by
  have h : ([latch 0 4 0xFFFFFFFF, lendLatch 0xFFFFFFFF].all fun c => issued (machine c id id) fun c' b t =>
    ctlGo (machine c id id) c' t (.loop loopW) && decide ((fld c'.hdr 19 2 = (0 : BitVec 2) ∨ (fld c'.hdr 19 2 : BitVec 2).toNat = 1) ∧
      t.loops.length = 3 ∧ b.sIsEmpty 8 = false ∧ (machine c id id).uniTurn c' b [8] = true ∧
      ((List.range 3).all fun k => !(t.loop k).active) = true)) = true := by decide +kernel
  have h' : ([(0xFFFFFFFF : Word), 1].all fun m => issued (lendState m) fun c b t => ctlGo (lendState m) c t (.loopbrk brkW) &&
    decide (t.loops.length = 3 ∧ (t.loop 0).active = true ∧ passes c t c.lanes = true)) = true := by decide +kernel
  exact ⟨fun c hc => go_witness _ (List.all_eq_true.mp h c hc), fun m hm => go_witness _ (List.all_eq_true.mp h' m hm),
    go_witness _ (by decide +kernel)⟩

/-- Words that move on: a lane word, one with no active lane, a uniform word and NOP, in the middle of a clause, at its end, at the end of a
loop body, and with a repetition to come. -/
theorem witness_wordsAdvance : ∀ k ∈ [latch 0 0 0xFFFFFFFF, { latch 0 0 0xFFFFFFFF with last := false }, { lendLatch 0xFFFFFFFF with cls := 0 },
      { latch 0 0 0xFFFFFFFF with reps := 2 }],
    (∃ c b t, LaneReady (machine k id fun t => { t with loops := lset 0 level t.loops }) c b t (.iadd lw) lw ∧ True) ∧
    (∃ c b t, UniReady (machine { k with cls := 4 } id fun t => { t with loops := lset 0 level t.loops }) c b t (.sadd uw) uw ∧ True) ∧
    ∃ c b t, CtlReady (machine { k with cls := 4 } id fun t => { t with loops := lset 0 level t.loops }) c b t (.nop 0) ∧ True := by
  have h : ([latch 0 0 0xFFFFFFFF, { latch 0 0 0xFFFFFFFF with last := false }, { lendLatch 0xFFFFFFFF with cls := 0 },
      { latch 0 0 0xFFFFFFFF with reps := 2 }].all fun k =>
    let f (c : Cur) : State := machine c id fun t => { t with loops := lset 0 level t.loops }
    issued (f k) (fun c b t => laneReady (f k) c b t (.iadd lw) lw && decide True) &&
    issued (f { k with cls := 4 }) (fun c b t => uniReady (f { k with cls := 4 }) c b t (.sadd uw) uw && decide True) &&
    issued (f { k with cls := 4 }) (fun c b t => ctlReady (f { k with cls := 4 }) c t (.nop 0) && decide True)) = true := by
    decide +kernel
  intro k hk
  have q := List.all_eq_true.mp h k hk
  simp only [Bool.and_eq_true] at q
  exact ⟨lane_witness (fun _ _ _ => True) q.1.1, uni_witness (fun _ _ _ => True) q.1.2, ctl_witness (fun _ _ _ => True) q.2⟩

/-- A warp with levels 0 and 1 running, at the end of level 0's body: the lanes of level 0's mask are `m`. -/
def crossState (m : Word) : State := machine (lendLatch 0xFFFFFFFF) id fun t =>
  { t with loops := lset 1 level (lset 0 { level with mask := m } t.loops) }

/-- A NOP there, with lanes inside the mask of level 0 and outside it, and with all outside. -/
theorem witness_crossedEnds : (∃ c b t, CtlGo (crossState 3) c b t (.nop 0) ∧ (c.reps ≤ c.rep + 1 ∧ c.last = true ∧
      fld c.hdr 19 2 ≠ (0 : BitVec 2) ∧ t.innermost ≠ some 0 ∧ c.w < 32 ∧ (t.loop 0).active = true ∧ c.lanes &&& (t.loop 0).mask ≠ 0)) ∧
    ∃ c b t, CtlGo (crossState 0) c b t (.nop 0) ∧ (c.reps ≤ c.rep + 1 ∧ c.last = true ∧ fld c.hdr 19 2 ≠ (0 : BitVec 2) ∧
      t.innermost ≠ some 0 ∧ c.w < 32 ∧ (t.loop 0).active = true ∧ c.lanes &&& (t.loop 0).mask = 0 ∧
      (t.lanes.all fun l => l.stat != .loopHeld 0) = true) :=
  ⟨go_witness _ (by decide +kernel), go_witness _ (by decide +kernel)⟩

/-- A load of warp 0's lane 0 still open. -/
def openReq : Req :=
  { id := 0, core := 0, bctx := 0, w := 0, low := 0, adm := 7, ctx := 0, kind := .load, size := 4, sgn := false, home := .mem, line := 8192,
    mask := 1, ops := [{ lane := 0, va := 0x400000, gen := 0x400000, addr := 0x100000, data := 0, cmp := 0, gva := 0, atag := false, fmt := 0 }],
    dst := .lane 4 1, stage := .queued,
    got := [], err := none, uc := false, pub := false, inv := false, acq := false, privileged := false, reuse := 0,
    hold := false, tries := 0, sentN := 0, bad := 0, pc := 0x400004, word := 0, ext := 0, lseq := 0 }

/-- EXIT and YIELD of a warp, and EXIT of the matrix stream; EXIT with a load still open, and of a matrix stream with a command outstanding. -/
theorem witness_exitAndYield : (∀ i ∈ [Instr.exit 0, .yield 0], ∃ c b t, CtlReady (plain 4) c b t i ∧ (c.w < 32 ∧ (plain 4).reqs = [] ∧ t.handling = none)) ∧
    (∀ i ∈ [Instr.exit 0], ∃ c b t, CtlReady (machine (latch 32 4 1) id id) c b t i ∧ (c.w = 32 ∧ t.handling = none)) ∧
    ∃ c b t, CtlReady { plain 4 with reqs := [openReq] } c b t (.exit 0) ∧ (c.w < 32 ∧ openReq.core = c.core ∧ openReq.bctx = c.bctx ∧
      openReq.w = c.w ∧ openReq.adm = b.adm ∧ openReq.mask &&& c.lanes ≠ 0) :=
  ⟨ctl_all _ (by decide +kernel), ctl_all _ (by decide +kernel), ctl_witness _ (by decide +kernel)⟩

/-! #### Special registers -/

/-- A warp whose lanes are in its trap handler. -/
def handlerState (cls : Nat) : State :=
  machine (latch 0 cls 0xFFFFFFFF) id fun t => { t with lanes := t.lanes.map fun l => { l with trap := .handler } }

/-- The numbers of R438. -/
def specials : List (BitVec 8) :=
  [0, 1, 2, 3, 4, 5, 6, 8, 9, 10, 11, 12, 13, 16, 17, 18, 19, 20, 21, 22, 24, 25, 26, 27]

/-- SREAD of every special register to a lane register, in handler mode. -/
theorem witness_sreadLane : ∀ i ∈ specials.map (fun n => Instr.sread { uw1 with sd := 4, sa := 0, sb := n, eb := true }),
    ∃ c b t, CtlReady (handlerState 4) c b t i ∧ (c.core < 192 ∧ c.bctx < 16 ∧ 4 < t.poolb ∧ t.isEmpty 4 = false ∧
      (specials.all fun n => sregUse c n.toNat true) = true ∧ (handlerState 4).sfuBusy c b = false ∧
      (handlerState 4).heldBack c.core c.bctx c.w b.adm c.lanes = false ∧ (handlerState 4).uniTurn c b [] = true) :=
  ctl_all _ (by decide +kernel)

/-- SREAD of the uniform registers among them to s10. -/
theorem witness_sreadUniform : ∀ i ∈ [2, 3, 4, 5, 6].map (fun n => Instr.sread { uw1 with sd := 10, sa := 0, sb := n }),
    ∃ c b t, CtlReady (plain 4) c b t i ∧ (c.core < 192 ∧ c.bctx < 16 ∧ b.sIsEmpty 10 = false ∧
      ([2, 3, 4, 5, 6].all fun n => sregUse c n false) = true ∧
      (plain 4).heldBack c.core c.bctx c.w b.adm c.lanes = false ∧ (plain 4).uniTurn c b [10] = true) :=
  ctl_all _ (by decide +kernel)

/-- SWRITE of the writable registers from s8, and of the lane registers among them from v4. -/
def swrites : List Instr :=
  [0x08, 0x09, 0x0A, 0x0B, 0x12, 0x18, 0x19, 0x1A, 0x1B].map (fun n => Instr.swrite { uw1 with sd := 0, sa := 8, sb := n })
    ++ [0x0A, 0x18, 0x19, 0x1A, 0x1B].map (fun n => Instr.swrite { uw1 with sd := 0, sa := 4, sb := n, eb := true })

theorem witness_swrite : ∀ i ∈ swrites, ∃ c b t, CtlReady (handlerState 4) c b t i ∧ (4 < t.poolb ∧ t.isEmpty 4 = false ∧
    b.sIsEmpty 8 = false ∧ t.tscr.length = 4 ∧ (handlerState 4).sfuBusy c b = false ∧
    ([0x08, 0x09, 0x0A, 0x0B, 0x12, 0x18, 0x1B].all fun n => sregUse c n true) = true ∧
    ([[], [8]].all fun r => (handlerState 4).uniTurn c b r) = true) :=
  ctl_all _ (by decide +kernel)

/-- SLOTQ of stack 0 and of a class 9, which names nothing (R61). -/
def slotqState (sel : DWord) : State := machine (latch 0 4 0xFFFFFFFF) (fun b => { b with s := nput 8 sel b.s }) id

theorem witness_slotq : (∃ c b t, UniReady (slotqState 0) c b t (.slotq uw1) uw1 ∧
      ((slotTouch c (srcU b uw1.sa uw1.lit)).isSome = true ∧
        (slotqState 0).heldBack c.core c.bctx c.w b.adm c.lanes = false)) ∧
    ∃ c b t, UniReady (slotqState 9) c b t (.slotq uw1) uw1 ∧ (slotTouch c (srcU b uw1.sa uw1.lit)).isNone = true :=
  ⟨uni_witness _ (by decide +kernel), uni_witness _ (by decide +kernel)⟩

/-- POOLB to 64 and to 1. -/
def poolbState (n : DWord) : State := machine (latch 0 4 0xFFFFFFFF) (fun b => { b with s := nput 8 n b.s }) id

theorem witness_poolb : ∀ n ∈ [(1 : DWord), 64, 128], ∃ c b t, UniReady (poolbState n) c b t (.poolb { uw1 with sd := 0 }) { uw1 with sd := 0 } ∧
    (0 < (srcU b 8 0).toNat ∧ (srcU b 8 0).toNat ≤ min 128 b.info.sliceRows ∧ t.empty = [] ∧
      (poolbState n).rowsHeld c.core c.bctx c.w t.poolb ((srcU b 8 0).toNat - t.poolb) = false) := by
  intro n hn
  have h : ([(1 : DWord), 64, 128].all fun n => issued (poolbState n) fun c b t =>
    uniReady (poolbState n) c b t (.poolb { uw1 with sd := 0 }) { uw1 with sd := 0 } &&
    decide (0 < (srcU b 8 0).toNat ∧ (srcU b 8 0).toNat ≤ min 128 b.info.sliceRows ∧ t.empty = [] ∧
      (poolbState n).rowsHeld c.core c.bctx c.w t.poolb ((srcU b 8 0).toNat - t.poolb) = false)) = true := by decide +kernel
  exact uni_witness _ (List.all_eq_true.mp h n hn)

/-! #### Traps -/

/-- Context 0 with the given trap vector. -/
def vector (s : State) (v : DWord) : State := s.modCtx 0 fun k => { k with vec := v, en := true }

theorem witness_softwareTraps : ∃ c b t, Issues (vector (plain 4) 0x500000) c b t ∧
    (ctlGate (.trap { code := 5, z := 0 }) c t = .go ∧ ctlGate (.bkpt { code := 0, z := 0 }) c t = .go) :=
  issue_witness _ (by decide +kernel)

theorem witness_trapEntry : ∃ c b t, Issues (vector (plain 4) 0x500000) c b t ∧ (c.w < 32 ∧ t.privileged c.lanes = false ∧
    (vector (plain 4) 0x500000).replaying = false ∧ t.handling = none ∧ t.trapQ = [] ∧ b.svc = false ∧ b.stat = .resident ∧
    ((vector (plain 4) 0x500000).ctx b.info.ctx).vec ≠ 0 ∧ ∀ l, l < 32 → (t.lane l).trap = .none) :=
  issue_witness _ (by decide +kernel)

/-- A trap in handler mode, one with the vector 0, and one in the matrix stream. -/
theorem witness_fatalTraps : (∃ c b t, Issues (vector (handlerState 4) 0x500000) c b t ∧ (c.w < 32 ∧ t.privileged c.lanes = true ∧
      ((vector (handlerState 4) 0x500000).ctx b.info.ctx).killing = false)) ∧
    (∃ c b t, Issues (vector (plain 4) 0) c b t ∧ (c.w < 32 ∧ t.privileged c.lanes = false ∧ t.handling = none ∧ t.trapQ = [] ∧
      b.svc = false ∧ b.stat = .resident ∧ ((vector (plain 4) 0).ctx b.info.ctx).vec = 0 ∧
      ((vector (plain 4) 0).ctx b.info.ctx).killing = false)) ∧
    ∃ c b t, Issues (vector (machine (latch 32 5 1) id id) 0x500000) c b t ∧ (32 ≤ c.w ∧ t.tagRec = none ∧ b.lowestWarp = some 0 ∧
      ((b.thr? 0).map fun t => t.asyncQ.length) = some 0) :=
  ⟨issue_witness _ (by decide +kernel), issue_witness _ (by decide +kernel), issue_witness _ (by decide +kernel)⟩

/-- A trap of lanes 0 and 1 being handled, of which the lanes in `m` issue a TRET. -/
def tretState (m : Word) : State :=
  machine (latch 0 4 m) id fun t =>
    { t with
      handling := some { n := 0, cause := .softwareTrap, whenT := 0, serviced := false, rep := 0, flags := 0, origin := 0, lost := 0,
                         more := 0, pc := 0x400004, npc := 0x400008, addr := 0, active := 3, faulting := 3, word := 0, ext := 0, lseq := 0,
                         issuer := 0 },
      tnpc := 0x400008,
      lanes := (t.lanes.take 2).map (fun l => { l with trap := .handler }) ++ t.lanes.drop 2 }

theorem witness_trapReturn : (∃ c b t, Issues (tretState 3) c b t ∧ (ctlGate (.tret 0) c t = .go ∧ t.handling.isSome = true ∧
      (t.handling.map fun r => r.npc) = some t.tnpc ∧ t.trapQ = [] ∧
      ∀ l, l < 32 → (t.lane l).trap = .handler → c.lanes.getLsbD l = true)) ∧
    (∃ c b t, Issues (tretState 1) c b t ∧ (ctlGate (.tret 0) c t = .go ∧ t.handling.isSome = true ∧ 1 < t.lanes.length ∧
      (t.lane 1).trap = .handler ∧ (t.lane 1).stat ≠ .exited ∧ c.lanes.getLsbD 1 = false)) ∧
    ∃ c b t, Issues (plain 4) c b t ∧ (c.w < 32 ∧ t.privileged c.lanes = false ∧ 16 ≤ (27 : BitVec 8).toNat) :=
  ⟨issue_witness _ (by decide +kernel), issue_witness _ (by decide +kernel), issue_witness _ (by decide +kernel)⟩

/-! ### Witnesses: synchronisation (R237 to R244, R378 to R392) -/

/-- Every synchronisation word of a list stands ready on the state `s`, with `E` of what it sees. -/
theorem sync_all {l : List (Instr × UniW)} {s : State} (E : Cur → Blk → Thr → Prop) [∀ c b t, Decidable (E c b t)]
    (h : (l.all fun e => issued s fun c b t => uniReady s c b t e.1 e.2 &&
      decide (s.heldBack c.core c.bctx c.w b.adm c.lanes = false ∧ E c b t)) = true) :
    ∀ e ∈ l, ∃ c b t, SyncReady s c b t e.1 e.2 ∧ E c b t := by
  intro e he
  obtain ⟨c, b, t, hr, hh, hE⟩ := uni_witness (fun c b t => s.heldBack c.core c.bctx c.w b.adm c.lanes = false ∧ E c b t)
    (List.all_eq_true.mp h e he)
  exact ⟨c, b, t, { hr with held := hh }, hE⟩

/-- A barrier word naming barrier `n`. -/
def barW (n : BitVec 8) : UniW := { sd := n, sa := 0, sb := 0, ea := false, eb := false, lit := 0 }
/-- BARINIT of barrier 1 from s8. -/
def barInitW : UniW := { barW 1 with sa := 8 }
/-- s8 names all three parties of the block: its warp and both streams. -/
def barState : State := machine (latch 0 4 0xFFFFFFFF) (fun b => { b with s := nput 8 0x300000001 b.s }) id
/-- The first 16 lanes of the warp. -/
def halfState : State := machine (latch 0 4 0x0000FFFF) id id

theorem witness_barInit : ∀ e ∈ [(Instr.barinit barInitW, barInitW)], ∃ c b t, SyncReady barState c b t e.1 e.2 ∧
    (srcU b 8 0 ≠ 0 ∧ (srcU b 8 0).toNat < 2 ^ 34 ∧
      ((List.range 34).all fun i => !(srcU b 8 0).getLsbD i || b.info.parties.contains i) = true ∧ (b.bar 1).init = false) :=
  sync_all _ (by decide +kernel)

/-- Barrier 0 is initialised at block start (R156): the whole warp arrives, half of it is counted, and BARW waits or goes on. -/
theorem witness_bar : (∀ e ∈ [Instr.bar (barW 0), .bara (barW 0), .barw (barW 0)].map (fun i => (i, barW 0)),
      ∃ c b t, SyncReady (plain 4) c b t e.1 e.2 ∧ ((b.bar 0).init = true ∧ (b.bar 0).parts.getLsbD c.w = true ∧
        t.counted 0 &&& c.lanes = 0 ∧ b.pendingPhase t 0 = none ∧ t.live &&& ~~~(t.counted 0 ||| c.lanes) = 0)) ∧
    ∀ e ∈ [Instr.bar (barW 0), .bara (barW 0)].map (fun i => (i, barW 0)),
      ∃ c b t, SyncReady halfState c b t e.1 e.2 ∧ ((b.bar 0).init = true ∧ (b.bar 0).parts.getLsbD c.w = true ∧
        t.counted 0 &&& c.lanes = 0 ∧ b.pendingPhase t 0 = none ∧ t.live &&& ~~~(t.counted 0 ||| c.lanes) ≠ 0) :=
  ⟨sync_all _ (by decide +kernel), sync_all _ (by decide +kernel)⟩

/-- Barrier 15 is not initialised. -/
theorem witness_barMisuse : ∀ e ∈ [Instr.bar (barW 15), .bara (barW 15), .barw (barW 15)].map (fun i => (i, barW 15)),
    ∃ c b t, SyncReady (plain 4) c b t e.1 e.2 ∧ (b.bar 15).init = false :=
  sync_all _ (by decide +kernel)

/-- TOKWAIT on tokens 0 and 7. -/
def tokW : UniW := barW 0x81
/-- Token 7 counts one. -/
def tokState : State := machine (latch 0 4 0xFFFFFFFF) id fun t => { t with tokens := lset 7 1 t.tokens }

theorem witness_tokwait : (∃ c b t, UniReady (plain 4) c b t (.tokwait tokW) tokW ∧
      ∀ k, k < 8 → tokW.sd.getLsbD k = true → t.tokens.getD k 0 = 0) ∧
    ∃ c b t, UniReady tokState c b t (.tokwait tokW) tokW ∧ (tokW.sd.getLsbD 7 = true ∧ t.tokens.getD 7 0 ≠ 0) :=
  ⟨uni_witness _ (by decide +kernel), uni_witness _ (by decide +kernel)⟩

/-- A timeline word: timeline s8, value s9. -/
def tlW (sb : BitVec 8) : UniW := { sd := 10, sa := 8, sb := sb, ea := false, eb := false, lit := 0 }
/-- Timeline 15 of context 0, value `v`, the party's mark at `m`. -/
def tlState (v m : DWord) : State :=
  machine (latch 0 4 0xFFFFFFFF) (fun b => { b with s := nput 9 v (nput 8 15 b.s) }) fun t => { t with marks := lset 15 m t.marks }

theorem witness_timelines : (∀ e ∈ [(Instr.tlread (tlW 0), tlW 0), (.tlwait (tlW 9), tlW 9), (.tlsig { tlW 9 with sd := 0 }, { tlW 9 with sd := 0 })],
      ∃ c b t, SyncReady (tlState 0 0) c b t e.1 e.2 ∧ ((srcU b 8 0).toNat / 16 = b.info.ctx ∧
        (srcU b 9 0).toNat ≤ ((tlState 0 0).timeline (srcU b 8 0).toNat).toNat ∧
        (t.marks.getD ((srcU b 8 0).toNat % 16) 0).toNat ≤ (srcU b 9 0).toNat)) ∧
    (∀ e ∈ [(Instr.tlwait (tlW 9), tlW 9)], ∃ c b t, SyncReady (tlState 1 0) c b t e.1 e.2 ∧ ((srcU b 8 0).toNat / 16 = b.info.ctx ∧
      ((tlState 1 0).timeline (srcU b 8 0).toNat).toNat < (srcU b 9 0).toNat)) ∧
    ∀ e ∈ [(Instr.tlsig { tlW 9 with sd := 0 }, { tlW 9 with sd := 0 })], ∃ c b t, SyncReady (tlState 1 2) c b t e.1 e.2 ∧
      ((srcU b 8 0).toNat / 16 = b.info.ctx ∧ (srcU b 9 0).toNat < (t.marks.getD ((srcU b 8 0).toNat % 16) 0).toNat) :=
  ⟨sync_all _ (by decide +kernel), sync_all _ (by decide +kernel), sync_all _ (by decide +kernel)⟩

theorem witness_stage : ∀ e ∈ [(Instr.stage { barW 0 with sa := 8 }, { barW 0 with sa := 8 })],
    ∃ c b t, SyncReady (plain 4) c b t e.1 e.2 ∧ True :=
  sync_all _ (by decide +kernel)

/-- A phaser member: this party, of mode `m`. -/
def member (m : BitVec 2) : PhMember :=
  { adm := 7, w := 0, mode := m, first := 0, signalled := none, counted := none, dropping := false }
/-- Phaser 4095 at phase 2 with members `ms`; s8 names it and s9 holds `v`. -/
def phState (ms : List PhMember) (v : DWord) : State :=
  { machine (latch 0 4 0xFFFFFFFF) (fun b => { b with s := nput 9 v (nput 8 4095 b.s) }) id with
    phasers := [(4095, { phase := 2, owner := 0, members := ms })] }

/-- No slot holds the synchronisation engine. -/
theorem witness_syncEngine : (plain 4).islandDown syncIsland = false ∧ (tlState 0 0).islandDown syncIsland = false ∧
    (phState [member 0] 1).islandDown syncIsland = false := by decide +kernel

theorem witness_phreg : ∀ e ∈ [(Instr.phreg (tlW 2), tlW 2)], ∃ c b t, SyncReady (phState [] 0) c b t e.1 e.2 ∧
    ((srcU b 8 0).toNat ≤ 4095 ∧ ((phState [] 0).phaser 4095).members = []) :=
  sync_all _ (by decide +kernel)

theorem witness_phaserMembers : ∀ e ∈ [(Instr.phsig (tlW 0), tlW 0), (.phnext (tlW 0), tlW 0), (.phwait (tlW 9), tlW 9),
      (.phdrop { tlW 0 with sd := 0 }, { tlW 0 with sd := 0 })], ∃ c b t, SyncReady (phState [member 0] 1) c b t e.1 e.2 ∧
    ((srcU b 8 0).toNat = 4095 ∧ ((phState [member 0] 1).phaser 4095).owner = b.info.ctx ∧
      (((phState [member 0] 1).phaser 4095).members.find? fun m => m.is b.adm c.w) = some (member 0) ∧
      (member 0).signalled ≠ some 2 ∧ (member 0).dropping = false ∧ (srcU b 9 0).toNat < 2) :=
  sync_all _ (by decide +kernel)

theorem witness_phwaitStops : ∀ e ∈ [(Instr.phwait (tlW 9), tlW 9)], ∃ c b t, SyncReady (phState [member 2] 2) c b t e.1 e.2 ∧
    ((((phState [member 2] 2).phaser 4095).members.find? fun m => m.is b.adm c.w) = some (member 2) ∧
      2 ≤ (srcU b 9 0).toNat) :=
  sync_all _ (by decide +kernel)

theorem witness_phnextStops : (member 0).mode = 0 ∧ max 2 (member 0).first = 2 := by decide

/-- The one signalling member, whose signal for phase 2 is counted, who dropped with none, and who has none. -/
theorem witness_phaserPhases :
    ((((phState [{ member 0 with counted := some 2 }] 0).phaser 4095).members.filter fun m => m.mode != 2 && decide (m.first ≤ 2))
      = [{ member 0 with counted := some 2 }]) ∧
    ((((phState [{ member 0 with dropping := true }] 0).phaser 4095).members.filter fun m => m.mode != 2 && decide (m.first ≤ 2))
      = [{ member 0 with dropping := true }]) ∧
    (((phState [member 0] 0).phaser 4095).members.filter fun m => m.mode != 2 && decide (m.first ≤ 2)) = [member 0] := by decide +kernel

/-- A release of warp 0 that does `a`, and the event that completes it. -/
def relOf (a : RelAct) : Rel :=
  { id := 0, core := 0, bctx := 0, w := 0, adm := 7, low := 0, mask := 0xFFFFFFFF, scope := 1, upto := 0, act := a }
/-- A machine with that release alone. -/
def relState (a : RelAct) : State := { plain 4 with rels := [relOf a] }
/-- What each release is for. -/
def relActs : List RelAct :=
  [.fence false 0xFFFFFFFF, .write 0, .tlsig 15 3, .stage 2, .arrive 0 0xFFFFFFFF]

theorem witness_releases : ∀ a ∈ relActs, ((relState a).rels.find? fun k => k.id == (relState a).arg.a) = some (relOf a) ∧
    (relState a).replaying = false ∧ (relState a).mayOp 0 (issuerOf 0 0) 0 = true ∧
    (((relState a).blk? 0 0).map fun b => (b.adm, (b.bar 0).init, b.bars.length, b.parkedNow)) = some (7, true, 16, false) ∧
    (relState a).relDone (relOf a) 1 = true ∧ (relState a).kilnOwes (relOf a) = false := by
  have h : (relActs.all fun a => decide (((relState a).rels.find? fun k => k.id == (relState a).arg.a) = some (relOf a) ∧
    (relState a).replaying = false ∧ (relState a).mayOp 0 (issuerOf 0 0) 0 = true ∧
    (((relState a).blk? 0 0).map fun b => (b.adm, (b.bar 0).init, b.bars.length, b.parkedNow)) = some (7, true, 16, false) ∧
    (relState a).relDone (relOf a) 1 = true ∧ (relState a).kilnOwes (relOf a) = false)) = true := by decide +kernel
  exact fun a ha => of_decide_eq_true (List.all_eq_true.mp h a ha)

/-- An earlier store not yet at its home holds it back. -/
theorem witness_releaseWaits : let k := { relOf (.fence false 0xFFFFFFFF) with upto := 1 }
    ({ plain 4 with rels := [k], reqs := [{ openReq with kind := .store }] } : State).relDone k 1 = false := by decide +kernel

/-- A command in flight holds back the arrival of its matrix stream (R239). -/
theorem witness_releaseKiln : let k := { relOf (.arrive 0 1) with w := 32, upto := 1 }
    ({ plain 4 with rels := [k], mcmds := [{ id := 0, core := 0, bctx := 0, adm := 7, op := .nop 0, base := 0, k0 := 0, sv := 0, pc := 0,
                                             lseq := 0 }] } : State).kilnOwes k = true := by decide +kernel

theorem witness_codepub : let s := relState (.codepub 0xFFFFFFFF false)
    (s.rels.find? fun k => k.id == s.arg.a) = some (relOf (.codepub 0xFFFFFFFF false)) ∧ s.replaying = false ∧
    s.mayOp 0 (issuerOf 0 0) 0 = true ∧ s.cmds = [] ∧ s.reqs = [] :=
  ⟨by decide +kernel, by decide +kernel, by decide +kernel, by rfl, by rfl⟩

theorem witness_codepubDone : let s := relState (.codepub 0xFFFFFFFF true)
    (s.rels.find? fun k => k.id == s.arg.a) = some (relOf (.codepub 0xFFFFFFFF true)) ∧ s.replaying = false ∧
    ((s.blk? 0 0).map fun b => (b.thr? 0).isSome) = some true ∧ s.relDone (relOf (.codepub 0xFFFFFFFF true)) 1 = true := by decide +kernel

/-- A WAKEADDR of one enrolment at its home. -/
def wakeReq : Req :=
  { openReq with
    kind := .wakeaddr, stage := .accepted, dst := .none
    ops := [{ lane := 0, va := 0x400000, gen := 0x400000, addr := 0x100000, data := 1, cmp := 0, gva := 0, atag := false, fmt := 0 }] }
/-- Two lanes enrolled at its address. -/
def wakeState : State :=
  { plain 4 with
    reqs := [wakeReq]
    mem := { Mem.reset with enrols := [{ ctx := 0, addr := 0x100000, req := 5, lane := 0 }, { ctx := 0, addr := 0x100000, req := 5, lane := 1 }] } }

theorem witness_wakeaddr : wakeState.req? wakeState.arg.a = some wakeReq ∧ wakeState.replaying = false ∧
    wakeState.mayOp 0 (issuerOf 0 0) 0 = true ∧ wakeState.mem.enrols.Nodup ∧ wakeState.stackHeld (lineStack wakeReq.line) = false ∧
    (∀ q ∈ wakeState.reqs, wakeReq.id ≤ q.id) := by decide +kernel

/-! ### Witnesses: the matrix stream (R394 to R404) -/

/-- A tile descriptor: 64 rows, `cols` columns, a layout, the element size of R199. -/
def tileDesc (cols layout esize : Nat) : BitVec 128 :=
  BitVec.ofNat 128 (64 * 2 ^ 25 + cols * 2 ^ 36 + layout * 2 ^ 51 + esize * 2 ^ 53)

/-- A block with four tiles, 256 accumulator rows and a scratchpad, its matrix stream issuing, with the tiles in state `st`. -/
def matrixState (st : BitVec 3) (d : BitVec 128) : State :=
  (machine (latch 32 5 1) (fun b => { b with
      info := { b.info with poolRows := 64, accRows := 256, spadB := 65536, scaleB := 1024, tiles := 4 }
      tileRefs := [0, 1, 2, 3]
      thrs := b.thrs.map fun p => if p.1 = 0 then (0, { p.2 with poolb := 64 }) else p }) id).setCore 0
    { Core.reset with tiles := (List.range 4).map fun i => (i, { Tile.reset with desc := d, st := st }) }

/-- MMA of tiles 0 and 1 into rows 64 up of warp 0. -/
def mmaW : MmaW :=
  { ta := 0, tb := 1, aw := 0, skip := false, z0 := 0, arow := 64, z1 := false, koff := 0, kcnt := 0, z2 := 0, srow := 0, sk := 0, z3 := 0 }

/-- The parts of MmaFits, as a test. -/
def mmaFits (s : State) (c : Cur) (b : Blk) (w : MmaW) : Bool :=
  let ea := s.tile c.core (b.tileIx w.ta.toNat)
  let eb := s.tile c.core (b.tileIx w.tb.toNat)
  decide (w.ta.toNat < b.info.tiles) && decide (w.tb.toNat < b.info.tiles) && decide (w.aw.toNat < b.info.wpb) && decide (ea.st = 2)
    && decide (eb.st = 2) && decide (tLayout ea.desc = 2) && decide (tLayout eb.desc = 2)
    && decide (tPfmt ea.desc = 2 ↔ tPfmt eb.desc = 2)
    && decide (128 * (Rules.plus b w.koff.toNat w.sk + w.kcnt.toNat + 1) ≤ tCols ea.desc / 128 * 128)
    && decide (128 * (Rules.plus b w.koff.toNat w.sk + w.kcnt.toNat + 1) ≤ tCols eb.desc / 128 * 128)
    && b.accRows w.aw.toNat (Rules.plus b w.arow.toNat w.srow) (tRows ea.desc * tRows eb.desc / 32)
    && s.admits (fun k e => (k.islands e).getLsbD (coreIsland c.core 4))
      (s.kilnTicks c.core w b ea.desc eb.desc (Rules.plus b w.koff.toNat w.sk)) ((s.coreAt c.core).kilnWait == some true)

theorem mmaFits_of {s : State} {c : Cur} {b : Blk} {w : MmaW} (h : mmaFits s c b w = true) : Rules.MmaFits s c b w := by
  simp only [mmaFits, Bool.and_eq_true, decide_eq_true_eq, and_assoc] at h
  exact h

theorem witness_mma : ∀ i ∈ [Instr.mma mmaW, .mmai mmaW], ∃ c b t, CtlReady (matrixState 2 (tileDesc 128 2 0)) c b t i ∧
    ((matrixState 2 (tileDesc 128 2 0)).heldBack c.core c.bctx c.w b.adm c.lanes = false ∧ b.sIsEmpty 0 = false ∧
      mmaFits (matrixState 2 (tileDesc 128 2 0)) c b mmaW = true) :=
  ctl_all _ (by decide +kernel)

/-- MZERO of 64 by 64 from row 64 of warp 0. -/
def mzeroW : MzeroW := { aw := 0, m64 := true, n64 := true, z0 := 0, arow := 64, z1 := false, srow := 0, z2 := 0 }
/-- SCLD of all four K-blocks of tile 0. -/
def scldW : ScldW := { tn := 0, z0 := 0, joff := 0, jcnt := 3, z1 := 0 }

theorem witness_mzeroScld : (∃ c b t, CtlReady (matrixState 2 (tileDesc 128 2 0)) c b t (.mzero mzeroW) ∧
      ((matrixState 2 (tileDesc 128 2 0)).heldBack c.core c.bctx c.w b.adm c.lanes = false ∧ b.sIsEmpty 0 = false ∧
      0 < b.info.wpb ∧ b.accRows 0 (Rules.plus b 64 0) (64 * 64 / 32) = true)) ∧
    ∃ c b t, CtlReady (matrixState 2 (tileDesc 128 2 0)) c b t (.scld scldW) ∧
      ((matrixState 2 (tileDesc 128 2 0)).heldBack c.core c.bctx c.w b.adm c.lanes = false ∧ 0 < b.info.tiles ∧
      ((matrixState 2 (tileDesc 128 2 0)).tile c.core (b.tileIx 0)).st = 2 ∧
      tLayout ((matrixState 2 (tileDesc 128 2 0)).tile c.core (b.tileIx 0)).desc = 2 ∧
      0 + 3 + 1 ≤ tCols ((matrixState 2 (tileDesc 128 2 0)).tile c.core (b.tileIx 0)).desc / 32) :=
  ⟨ctl_witness _ (by decide +kernel), ctl_witness _ (by decide +kernel)⟩

/-- MSTORE or MLOAD of tile 3 in FP32, with token 7 and timeline 15 raised to s8. -/
def mmoveW : MmoveW :=
  { tn := 3, aw := 0, fmt := 0, rmode := 0, sat := false, tok := 7, tkv := true, z0 := 0, arow := 64, z1 := false, srow := 0, z2 := 0,
    tl := 15, tlv := true, sv := 8, z3 := 0 }

/-- The premises of MatrixMovesStart. -/
def moves (s : State) (st : BitVec 3) (c : Cur) (b : Blk) (t : Thr) : Prop :=
  s.heldBack c.core c.bctx c.w b.adm c.lanes = false ∧ b.sIsEmpty 0 = false ∧ b.sIsEmpty 8 = false ∧ 15 / 16 = b.info.ctx ∧
  (t.marks.getD 15 0).toNat ≤ (b.sreg 8).toNat % 2 ^ 32 ∧ t.tokens.getD 7 0 < 15 ∧ 3 < b.info.tiles ∧ 0 < b.info.wpb ∧ (s.tile c.core (b.tileIx 3)).st = st ∧
  tLayout (s.tile c.core (b.tileIx 3)).desc < 2 ∧ tRows (s.tile c.core (b.tileIx 3)).desc = 64 ∧
  tCols (s.tile c.core (b.tileIx 3)).desc = 64 ∧ tEsize (s.tile c.core (b.tileIx 3)).desc = 2 ∧
  b.accRows 0 (Rules.plus b 64 0) (64 * 64 / 32) = true

theorem witness_mstore (st : BitVec 3) (hst : st = 0 ∨ st = 1) : ∃ c b t, CtlReady (matrixState st (tileDesc 64 0 2)) c b t (.mstore mmoveW) ∧
    moves (matrixState st (tileDesc 64 0 2)) st c b t := by
  unfold moves
  obtain rfl | rfl := hst
  · exact ctl_witness _ (by decide +kernel)
  · exact ctl_witness _ (by decide +kernel)

theorem witness_mload : ∃ c b t, CtlReady (matrixState 2 (tileDesc 64 1 2)) c b t (.mload mmoveW) ∧
    moves (matrixState 2 (tileDesc 64 1 2)) 2 c b t := by
  unfold moves
  exact ctl_witness _ (by decide +kernel)

/-- TREL of tile 0, raising timeline 15 to s8. -/
def trelW : TrelW := { tn := 0, z0 := 0, tl := 15, tlv := true, sv := 8, z1 := 0 }
/-- TACQ of tile 0. -/
def tacqW : TrelW := { trelW with tl := 0, tlv := false, sv := 0 }
/-- MWAIT for at most one command. -/
def mwaitW : TrelW := { tacqW with tl := 1 }

theorem witness_tiles : (∀ st ∈ [(2 : BitVec 3), 1], ∃ c b t, CtlReady (matrixState st 0) c b t (.trel trelW) ∧
      ((matrixState st 0).heldBack c.core c.bctx c.w b.adm c.lanes = false ∧ 0 < b.info.tiles ∧ b.sIsEmpty 8 = false ∧ 15 / 16 = b.info.ctx ∧
        (t.marks.getD 15 0).toNat ≤ (b.sreg 8).toNat % 2 ^ 32 ∧ ((matrixState st 0).tile c.core (b.tileIx 0)).st = st)) ∧
    ∀ st ∈ [(2 : BitVec 3), 3], ∃ c b t, CtlReady (matrixState st 0) c b t (.tacq tacqW) ∧
      ((matrixState st 0).heldBack c.core c.bctx c.w b.adm c.lanes = false ∧ ((matrixState st 0).tile c.core (b.tileIx 0)).st = st) := by
  constructor
  · intro st h
    simp only [List.mem_cons, List.not_mem_nil, or_false] at h
    obtain rfl | rfl := h <;> exact ctl_witness _ (by decide +kernel)
  · intro st h
    simp only [List.mem_cons, List.not_mem_nil, or_false] at h
    obtain rfl | rfl := h <;> exact ctl_witness _ (by decide +kernel)

/-- A command of the block in flight. -/
def mcmd (id : Nat) (op : Instr) : MCmd := { id := id, core := 0, bctx := 0, adm := 7, op := op, base := 64, k0 := 0, sv := 0, pc := 0x400004, lseq := 1 }

theorem witness_mwait : (∃ c b t, CtlReady (matrixState 2 0) c b t (.mwait mwaitW) ∧
      (matrixState 2 0).heldBack c.core c.bctx c.w b.adm c.lanes = false) ∧
    ((matrixState 2 0).mcmds.length ≤ mwaitW.tl.toNat % 64) ∧
    (∃ c b t, CtlReady { matrixState 2 0 with mcmds := [mcmd 0 (.mzero mzeroW), mcmd 1 (.mzero mzeroW)] } c b t (.mwait mwaitW) ∧
      ({ matrixState 2 0 with mcmds := [mcmd 0 (.mzero mzeroW), mcmd 1 (.mzero mzeroW)] } : State).heldBack c.core c.bctx c.w b.adm c.lanes = false) ∧
    mwaitW.tl.toNat % 64 < ([mcmd 0 (.mzero mzeroW), mcmd 1 (.mzero mzeroW)].filter fun k => k.core == 0 && k.bctx == 0).length :=
  ⟨ctl_witness (fun c b _ => (matrixState 2 0).heldBack c.core c.bctx c.w b.adm c.lanes = false) (by decide +kernel), by decide +kernel,
    ctl_witness (fun c b _ => ({ matrixState 2 0 with mcmds := [mcmd 0 (.mzero mzeroW), mcmd 1 (.mzero mzeroW)] } : State).heldBack c.core
      c.bctx c.w b.adm c.lanes = false) (by decide +kernel), by decide +kernel⟩

/-- The oldest command in flight, and what its completion finds: each operation of R395 to R403. -/
def completions : List (Instr × BitVec 3 × BitVec 128) :=
  [ (.mma mmaW, 2, tileDesc 128 2 0), (.mmai mmaW, 2, tileDesc 128 2 0), (.mzero mzeroW, 2, 0), (.mload mmoveW, 2, tileDesc 64 0 2),
    (.scld scldW, 2, tileDesc 128 2 0), (.mstore mmoveW, 1, tileDesc 64 0 2), (.mstore mmoveW, 1, tileDesc 64 1 2),
    (.mload mmoveW, 2, tileDesc 64 1 2) ]

/-- The machine that a completion finds, with the lines `ps` of the block's scratchpad poisoned. -/
def doneState (e : Instr × BitVec 3 × BitVec 128) (ps : List Nat) : State :=
  let s := { matrixState e.2.1 e.2.2 with mcmds := [mcmd 0 e.1] }
  s.modBlk 0 0 fun b => { b with spadPoison := ps }

/-- `Rules.KilnDue` of the command 0, and what it reads, as a test. -/
def kilnDue (s : State) (op : Instr) (poison : Bool) : Bool :=
  decide ((s.mcmds.find? fun k => k.id == s.arg.a) = some (mcmd 0 op)) && (s.blks.all fun p => p.2.thrs.any fun q => !q.2.exited)
    && (s.mcmds.all fun x => decide (0 ≤ x.id)) && !s.kilnHeld (mcmd 0 op) && !s.arg.flag &&
    match s.blk? 0 0 with
    | some b => b.poisonIn (kilnReads op 0 (Rules.tileDesc s (mcmd 0 op) b)) == poison && (b.thr? 0).isSome && (b.thr? 32).isSome
    | none => false

theorem kilnDue_of {s : State} {op : Instr} {poison : Bool} (h : kilnDue s op poison = true) :
    ∃ b, Rules.KilnDue s (mcmd 0 op) b ∧ b.poisonIn (kilnReads op 0 (Rules.tileDesc s (mcmd 0 op) b)) = poison ∧
      (b.thr? 0).isSome = true ∧ (b.thr? 32).isSome = true := by
  unfold kilnDue at h
  simp only [Bool.and_eq_true, decide_eq_true_eq, Bool.not_eq_true', List.all_eq_true] at h
  obtain ⟨⟨⟨⟨⟨h1, h2⟩, _⟩, h4⟩, h5⟩, h6⟩ := h
  cases hb : s.blk? 0 0 with
  | none => rw [hb] at h6; cases h6
  | some b =>
    rw [hb] at h6
    simp only [Bool.and_eq_true, beq_iff_eq] at h6
    refine ⟨b, ⟨h1, hb, fun p hp => ?_, fun x _ _ _ => Nat.zero_le _, h4, h5⟩, h6.1.1, h6.1.2, h6.2⟩
    obtain ⟨q, hq, he⟩ := List.any_eq_true.mp (h2 p hp)
    exact ⟨q, hq, by simpa using he⟩

theorem witness_matrixCompletes : ∀ e ∈ completions, ∃ b, Rules.KilnDue (doneState e []) (mcmd 0 e.1) b ∧
    b.poisonIn (kilnReads e.1 0 (Rules.tileDesc (doneState e []) (mcmd 0 e.1) b)) = false ∧ (b.thr? 0).isSome = true ∧
    (b.thr? 32).isSome = true := by
  have h : (completions.all fun e => kilnDue (doneState e []) e.1 false) = true := by decide +kernel
  exact fun e he => kilnDue_of (List.all_eq_true.mp h e he)

/-- A load of a tile whose first line is poisoned. -/
theorem witness_matrixPoisoned : let e := (Instr.mload mmoveW, (2 : BitVec 3), tileDesc 64 0 2)
    ∃ b, Rules.KilnDue (doneState e [0]) (mcmd 0 e.1) b ∧
      b.poisonIn (kilnReads e.1 0 (Rules.tileDesc (doneState e [0]) (mcmd 0 e.1) b)) = true ∧ (b.thr? 0).isSome = true ∧
      (b.thr? 32).isSome = true := kilnDue_of (by decide +kernel)

/-- The shapes that MATRIX_COMMAND_COMPLETE's statements ask of those tiles. -/
theorem witness_matrixShapes : tRows (tileDesc 128 2 0) % 32 = 0 ∧ 0 < tRows (tileDesc 128 2 0) ∧ tCols (tileDesc 64 0 2) % 32 = 0 ∧
    0 < tCols (tileDesc 64 0 2) ∧ tLayout (tileDesc 64 0 2) = 0 ∧ tLayout (tileDesc 64 1 2) = 1 ∧ tRows (tileDesc 64 1 2) = 64 ∧
    tCols (tileDesc 64 1 2) = 64 ∧ tEsize (tileDesc 64 0 2) ≤ 2 := by decide

/-- Finite values that a move rounds or widens, a NaN and an infinity, and a tile that is not of the reserved kind. -/
theorem witness_movedElements : Rules.fmtOf 3 = some e4m3 ∧ Rules.Finite fp32 0x3F800000 ∧ Rules.Finite e4m3 0x38 ∧
    e4m3.isNan 0x7F = true ∧ e5m2.isInf 0x7C = true ∧ fld (tileDesc 128 2 0) 56 2 ≠ (3 : BitVec 2) :=
  ⟨by rfl, finite_of (by decide), finite_of (by decide), by decide, by decide, by decide⟩

/-- Accumulators of each kind: a NaN, an infinity, a finite one, and a NaN scale. -/
theorem witness_accumulates : fp32.isNan 0x7FC00000 = true ∧ fp32.isInf 0x7F800000 = true ∧ Rules.Finite fp32 0x80000000 ∧
    (0xFF : Byte) = 0xFF := ⟨by decide, by decide, finite_of (by decide), rfl⟩

/-! ### Witnesses: copies and the access stream's words (R192, R201, R405 to R426, R445) -/

/-- The access stream of a block with four tiles in state `st`, s8, s9 and s10 holding the source, size and destination operands. -/
def copyState (st : BitVec 3) (sa sb sd : DWord) (f : Thr → Thr) : State :=
  (machine (latch 33 6 1) (fun b => { b with
      info := { b.info with poolRows := 64, spadB := 65536, scaleB := 1024, tiles := 4 }
      tileRefs := [0, 1, 2, 3]
      s := nput 10 sd (nput 9 sb (nput 8 sa b.s)) }) f).setCore 0
    { Core.reset with tiles := (List.range 4).map fun i =>
        (i, { Tile.reset with desc := tileDesc 128 2 0 ||| (3 : BitVec 128) <<< 58, st := st }) }

/-- A copy of s8 by s9 to s10. -/
def cw : UniW := { sd := 10, sa := 8, sb := 9, ea := false, eb := false, lit := 0 }
/-- No token, timeline or tile. -/
def cx : CpyX := { tok := 15, tl := 0, tlv := false, sv := 0, dt := 127, z := 0 }
/-- The same with the instruction's own bits. -/
def cy (rest : BitVec 23) : CpyY := { st := 127, reuse := 0, rest := rest }

/-- A copy with its fields and operand values: source, size, destination. -/
structure CopyCase where
  op : Instr
  w : UniW
  x : CpyX
  sa : DWord
  sb : DWord
  sd : DWord

/-- One copy of each instruction that passes R407's checks; CPY also with a token, a timeline and, of no bytes, at once. -/
def copyCases : List CopyCase :=
  [ ⟨.cpy cw cx (cy 0), cw, cx, 0x400000, 4096, 0x500000⟩,
    ⟨.cpy cw { cx with tok := 7, tl := 15, tlv := true, sv := 9 } (cy 0), cw, { cx with tok := 7, tl := 15, tlv := true, sv := 9 },
      0x400000, 4096, 0x500000⟩,
    ⟨.cpy cw cx (cy 0), cw, cx, 0x400000, 0, 0x500000⟩,
    ⟨.cpyfill cw cx (cy 3), cw, cx, 0x400000, 4096, 0x500000⟩,
    ⟨.cpym cw cx (cy 0), cw, cx, 0x400000, 0x33, 0x500000⟩,
    ⟨.cpyp { cw with sd := 0 } { cx with dt := 0 } (cy 3), { cw with sd := 0 }, { cx with dt := 0 }, 0x400000, 0, 0⟩,
    ⟨.cpyx cw cx (cy 0), cw, cx, 0x400000, 4, 0x500000⟩,
    ⟨.cpyr { cw with sb := 0 } cx (cy 0), { cw with sb := 0 }, cx, 0x400000, 0, 0x0400⟩,
    ⟨.cpymc cw cx (cy 1), cw, cx, 0x400000, 128, 0⟩,
    ⟨.cpyg cw cx (cy 32), cw, cx, 0x400000, 0x600000, 0x500000⟩,
    ⟨.cpys cw cx (cy 32), cw, cx, 0x400000, 0x600000, 0x500000⟩,
    ⟨.coll { cw with sd := 0, sb := 0 } cx, { cw with sd := 0, sb := 0 }, cx, 0x400000, 0, 0⟩ ]

/-- The state of a case. -/
def CopyCase.state (e : CopyCase) : State := copyState 0 e.sa e.sb e.sd id

/-- Each case is a copy in the sense of the statements. -/
theorem copyCases_isCopy : ∀ e ∈ copyCases, Rules.IsCopy e.op e.w e.x 127 := by
  intro e he
  simp only [copyCases, List.mem_cons, List.not_mem_nil, or_false] at he
  rcases he with rfl | rfl | rfl | rfl | rfl | rfl | rfl | rfl | rfl | rfl | rfl | rfl
  all_goals first
    | (refine Or.inr ⟨cy 0, rfl, ?_⟩; simp; done)
    | (refine Or.inr ⟨cy 1, rfl, ?_⟩; simp; done)
    | (refine Or.inr ⟨cy 3, rfl, ?_⟩; simp; done)
    | (refine Or.inr ⟨cy 32, rfl, ?_⟩; simp; done)
    | exact Or.inl ⟨rfl, rfl⟩

/-- The checks of CopyNames and CopyGoes for a copy without a source tile, as a test. -/
def copyNames (s : State) (c : Cur) (b : Blk) (op : Instr) (w : UniW) (x : CpyX) : Bool :=
  let a := Rules.copyArgs b w x
  decide (x.dt = 127 ∨ x.dt.toNat < b.info.tiles) &&
  (!x.tlv || (decide (x.tl.toNat / 16 = b.info.ctx) && decide (x.sv = 0xFF ∨ uniRegGate b x.sv.toNat = .go))) &&
  decide (uniOperandGate op w b = .go) && (!s.kindling || !usesPeers op) && cpyrInRange b op a.sd &&
  copyGeom op a (Rules.descOf s c b x.dt) && footOk op a b (Rules.descOf s c b x.dt) none
    ((s.fillEntries c.core b op (Rules.named x.dt)).map fun f => (s.tile f.1 f.2).desc) &&
  decide (s.endsFault c b op a ((Rules.descOf s c b x.dt).getD 0) = none)

theorem copyNames_of {s : State} {c : Cur} {b : Blk} {op : Instr} {w : UniW} {x : CpyX} (h : copyNames s c b op w x = true) :
    Rules.CopyNames s c b op w x 127 := by
  simp only [copyNames, Bool.and_eq_true, Bool.or_eq_true, Bool.not_eq_true', decide_eq_true_eq, and_assoc] at h
  obtain ⟨h1, h2, h3, h4, h5, h6, h7, h8⟩ := h
  exact { tiles := ⟨h1, .inl rfl⟩, timeline := fun ht => h2.resolve_left (by simp [ht]), operands := h3,
          peers := fun hk => h4.resolve_left (by simp [hk]), registers := h5, geometry := h6, footprints := h7, endpoints := h8 }

/-- Nothing keeps such a copy from its issue, as a test. -/
def copyGoes (s : State) (c : Cur) (b : Blk) (t : Thr) (op : Instr) (w : UniW) (x : CpyX) : Bool :=
  let a := Rules.copyArgs b w x
  copyNames s c b op w x && decide (castMask op < 2 ^ b.info.bpg) &&
  ((s.fillEntries c.core b op (Rules.named x.dt)).all fun f => decide ((s.tile f.1 f.2).st = 0 ∨ (s.tile f.1 f.2).st = 1)) &&
  (!x.tlv || decide ((t.marks.getD (x.tl.toNat % 16) 0).toNat ≤ a.sv.toNat)) &&
  (decide (x.tok = 15) || decide (t.tokens.getD x.tok.toNat 0 < 15)) &&
  !s.heldBack c.core c.bctx c.w b.adm c.lanes && !s.queueFull c b.adm && cpyrFull b op a.sd

theorem copyGoes_of {s : State} {c : Cur} {b : Blk} {t : Thr} {op : Instr} {w : UniW} {x : CpyX}
    (h : copyGoes s c b t op w x = true) : Rules.CopyGoes s c b t op w x 127 := by
  simp only [copyGoes, Bool.and_eq_true, Bool.or_eq_true, Bool.not_eq_true', decide_eq_true_eq, List.all_eq_true, and_assoc] at h
  obtain ⟨h1, h2, h3, h4, h5, h6, h7, h8⟩ := h
  exact { copyNames_of h1 with
    cast := h2, fills := h3, source := by simp [Rules.named], order := fun ht => h4.resolve_left (by simp [ht]),
    token := fun ht => h5.resolve_left ht, held := h6, queue := h7, full := h8 }

theorem witness_copiesIssue : ∀ e ∈ copyCases, ∃ c b t, CtlReady e.state c b t e.op ∧ Rules.CopyGoes e.state c b t e.op e.w e.x 127 := by
  intro e he
  have h : (copyCases.all fun e => issued e.state fun c b t => ctlReady e.state c t e.op &&
    decide (copyGoes e.state c b t e.op e.w e.x = true)) = true := by decide +kernel
  obtain ⟨c, b, t, hr, hg⟩ := ctl_witness (fun c b t => copyGoes e.state c b t e.op e.w e.x = true) (List.all_eq_true.mp h e he)
  exact ⟨c, b, t, hr, copyGoes_of hg⟩

/-- A copy of CPY with the fields `x` stands ready on `s` and its names are sound, with `E` of what it sees. -/
theorem cpy_witness {s : State} {x : CpyX} (E : Cur → Blk → Thr → Prop) [∀ c b t, Decidable (E c b t)]
    (h : issued s (fun c b t => ctlReady s c t (.cpy cw x (cy 0)) &&
      decide (copyNames s c b (.cpy cw x (cy 0)) cw x = true ∧ E c b t)) = true) :
    ∃ c b t, CtlReady s c b t (.cpy cw x (cy 0)) ∧ Rules.CopyNames s c b (.cpy cw x (cy 0)) cw x 127 ∧ E c b t := by
  obtain ⟨c, b, t, hr, hn, hE⟩ := ctl_witness (fun c b t => copyNames s c b (.cpy cw x (cy 0)) cw x = true ∧ E c b t) h
  exact ⟨c, b, t, hr, copyNames_of hn, hE⟩

/-- A tile and a timeline that the block does not hold. -/
theorem witness_copyRange : (∃ c b t, CtlGo (copyState 0 0x400000 4096 0x500000 id) c b t (.cpy cw { cx with dt := 4 } (cy 0)) ∧
      ¬ ((4 : BitVec 7) = 127 ∨ (4 : BitVec 7).toNat < b.info.tiles)) ∧
    ∃ c b t, CtlGo (copyState 0 0x400000 4096 0x500000 id) c b t (.cpy cw { cx with tl := 16, tlv := true, sv := 9 } (cy 0)) ∧
      (16 : BitVec 10).toNat / 16 ≠ b.info.ctx :=
  ⟨go_witness _ (by decide +kernel), go_witness _ (by decide +kernel)⟩

/-- A copy to a peer in Kindling. -/
theorem witness_copyKindling : let s := { copyState 0 0x400000 4096 0x500000 id with dev := { Dev.reset with stage := 3 } }
    s.kindling = true ∧ ∃ c b t, CtlGo s c b t (.cpy cw cx (cy 2)) ∧ (uniOperandGate (.cpy cw cx (cy 2)) cw b = .go ∧ (cy 2).rest.getLsbD 1 = true) :=
  ⟨by decide +kernel, go_witness _ (by decide +kernel)⟩

/-- CPYR to a warp that the block does not have, and past the warp's registers. -/
theorem witness_copyRegisters : (∃ c b t, CtlGo (copyState 0 0x400000 0 1 id) c b t (.cpyr { cw with sb := 0 } cx (cy 0)) ∧
      (uniOperandGate (.cpyr { cw with sb := 0 } cx (cy 0)) { cw with sb := 0 } b = .go ∧ b.info.wpb ≤ (Rules.copyArgs b cw cx).sd.toNat % 32)) ∧
    ∃ c b t, CtlGo (copyState 0 0x400000 0 0x3F7F00 id) c b t (.cpyr { cw with sb := 0 } cx (cy 0)) ∧
      (uniOperandGate (.cpyr { cw with sb := 0 } cx (cy 0)) { cw with sb := 0 } b = .go ∧
        ((b.thr? 0).map fun q => decide (q.poolb < (Rules.copyArgs b cw cx).sd.toNat / 2 ^ 8 % 128 + (Rules.copyArgs b cw cx).sd.toNat / 2 ^ 16 % 64 + 1))
          = some true) :=
  ⟨go_witness _ (by decide +kernel), go_witness _ (by decide +kernel)⟩

/-- A geometry that each kind of copy refuses: operation, fields, the instruction's bits, source, size, destination. -/
def badGeometries : List (Instr × UniW × CpyX × CpyY × DWord × DWord × DWord) :=
  [ (.cpy cw cx (cy 0), cw, cx, cy 0, 0x400000, 0x10000000000, 0x500000), (.cpyfill cw cx (cy 3), cw, cx, cy 3, 0x400000, 128, 0xF0F2000000000000),
    (.cpym cw cx (cy 0), cw, cx, cy 0, 0x400000, 0x32, 0x500000), (.cpyp { cw with sd := 0 } { cx with dt := 0 } (cy 3), { cw with sd := 0 }, { cx with dt := 0 }, cy 3, 0x400000, 0x100000000, 0),
    (.cpyx cw cx (cy 0), cw, cx, cy 0, 0xF0F0000000000000, 4, 0x500000), (.cpyr { cw with sb := 0 } cx (cy 0), { cw with sb := 0 }, cx, cy 0, 0x400002, 0, 0x400),
    (.cpymc cw cx (cy 0), cw, cx, cy 0, 0x400000, 128, 0), (.cpyg cw cx (cy 0), cw, cx, cy 0, 0x400000, 0x600000, 0x500000),
    (.cpys cw cx (cy 0), cw, cx, cy 0, 0x400000, 0x600000, 0x500000) ]

theorem witness_copyGeometry : ∀ e ∈ badGeometries, ∃ c b t,
    CtlGo (copyState 0 e.2.2.2.2.1 e.2.2.2.2.2.1 e.2.2.2.2.2.2 id) c b t e.1 ∧
    (uniOperandGate e.1 e.2.1 b = .go ∧ (copyState 0 e.2.2.2.2.1 e.2.2.2.2.2.1 e.2.2.2.2.2.2 id).kindling = false ∧
      (Rules.copyArgs b e.2.1 e.2.2.1).sd = e.2.2.2.2.2.2 ∧ (Rules.copyArgs b e.2.1 e.2.2.1).sa = e.2.2.2.2.1 ∧
        (Rules.copyArgs b e.2.1 e.2.2.1).sb = e.2.2.2.2.2.1) := by
  have h : (badGeometries.all fun e => let s := copyState 0 e.2.2.2.2.1 e.2.2.2.2.2.1 e.2.2.2.2.2.2 id
    issued s fun c b t => ctlGo s c t e.1 && decide (uniOperandGate e.1 e.2.1 b = .go ∧ s.kindling = false ∧
      (Rules.copyArgs b e.2.1 e.2.2.1).sd = e.2.2.2.2.2.2 ∧ (Rules.copyArgs b e.2.1 e.2.2.1).sa = e.2.2.2.2.1 ∧
        (Rules.copyArgs b e.2.1 e.2.2.1).sb = e.2.2.2.2.2.1)) = true := by decide +kernel
  exact fun e he => go_witness _ (List.all_eq_true.mp h e he)

theorem witness_badGeometry : ∀ e ∈ badGeometries,
    Rules.BadGeometry e.1 e.2.1 e.2.2.1 { sd := e.2.2.2.2.2.2, sa := e.2.2.2.2.1, sb := e.2.2.2.2.2.1, sv := 0 } (some 0) := by
  intro e he
  simp only [badGeometries, List.mem_cons, List.not_mem_nil, or_false] at he
  rcases he with rfl | rfl | rfl | rfl | rfl | rfl | rfl | rfl | rfl
  · exact ⟨cy 0, .inl ⟨rfl, .inl (by decide)⟩⟩
  · exact ⟨cy 3, .inr (.inl ⟨rfl, by decide, by decide⟩)⟩
  · exact ⟨cy 0, .inr (.inr (.inl ⟨rfl, .inr (.inr (.inl (by decide)))⟩))⟩
  · exact ⟨cy 3, .inr (.inr (.inr (.inl ⟨rfl, .inr (.inr (.inr (.inl (by decide))))⟩)))⟩
  · exact ⟨cy 0, .inr (.inr (.inr (.inr (.inl ⟨rfl, .inl (by decide)⟩))))⟩
  · exact ⟨cy 0, .inr (.inr (.inr (.inr (.inr (.inl ⟨rfl, .inr (.inl (by decide))⟩)))))⟩
  · exact ⟨cy 0, .inr (.inr (.inr (.inr (.inr (.inr (.inl ⟨rfl, .inr (by decide)⟩))))))⟩
  · exact ⟨cy 0, .inr (.inr (.inr (.inr (.inr (.inr (.inr (.inl ⟨rfl, .inl (.inr (.inr (.inl (by decide))))⟩)))))))⟩
  · exact ⟨cy 0, .inr (.inr (.inr (.inr (.inr (.inr (.inr (.inr ⟨rfl, .inl (.inr (.inr (.inl (by decide))))⟩)))))))⟩

/-- A window endpoint of `n` bytes. -/
def endAt (va : DWord) (n : Nat) (write : Bool) : Ext := { va := va, rows := 1, bytes := n, pitch := 0, write := write, peer := false }

/-- The endpoints of each window that are refused, and with which cause: the first byte past each size, the first rank and bank past, a
bank that is no FIFO or another context's, a write of the parameter window, and no window. -/
theorem witness_endpoints : ∃ b, (copyState 0 0 0 0 id).blk? 0 0 = some b ∧
    Rules.EndpointFault (copyState 0 0 0 0 id) 0 b (endAt 0xF0F000000000FFFF 2 false) .scratchRange ∧
    Rules.EndpointFault (copyState 0 0 0 0 id) 0 b (endAt 0xF0F1000002000000 1 true) .scratchRange ∧
    Rules.EndpointFault (copyState 0 0 0 0 id) 0 b (endAt 0xF0F2000000000000 128 false) .scratchRange ∧
    Rules.EndpointFault { copyState 0 0 0 0 id with clusters := [(bankKey 0 0, { Bank.reset with mode := .fifo, owner := some 5 })] } 0 b
      (endAt 0xF0F2000000000000 128 true) .protectionWrite ∧
    Rules.EndpointFault (copyState 0 0 0 0 id) 0 b (endAt 0xF0F300000000FFFF 2 false) .scratchRange ∧
    Rules.EndpointFault (copyState 0 0 0 0 id) 0 b (endAt 0xF0F3000000000000 128 true) .protectionWrite ∧
    Rules.EndpointFault (copyState 0 0 0 0 id) 0 b (endAt 0xF0F4000000000000 128 false) .addressSpace := by
  refine ⟨((copyState 0 0 0 0 id).blk? 0 0).get (by decide +kernel), by simp, ⟨by decide, by decide, by decide +kernel, .inl ?_⟩,
    ⟨by decide, by decide, by decide +kernel, .inr (.inl ?_)⟩, ⟨by decide, by decide, by decide +kernel, .inr (.inr (.inl ?_))⟩,
    ⟨by decide, by decide, by decide +kernel, .inr (.inr (.inr (.inl ?_)))⟩,
    ⟨by decide, by decide, by decide +kernel, .inr (.inr (.inr (.inr (.inl ?_))))⟩,
    ⟨by decide, by decide, by decide +kernel, .inr (.inr (.inr (.inr (.inr (.inr (.inl ?_))))))⟩,
    ⟨by decide, by decide, by decide +kernel, .inr (.inr (.inr (.inr (.inr (.inr (.inr ?_))))))⟩⟩
  · exact ⟨by decide +kernel, .inr (by decide +kernel), rfl⟩
  · exact ⟨by decide +kernel, .inr (.inr (.inl (by decide +kernel))), rfl⟩
  · exact ⟨by decide +kernel, by decide +kernel, rfl⟩
  · exact ⟨by decide +kernel, by decide +kernel, by decide +kernel, rfl⟩
  · exact ⟨by decide +kernel, by decide +kernel, rfl⟩
  · exact ⟨by decide +kernel, by decide +kernel, by decide +kernel, rfl, rfl⟩
  · exact ⟨by decide +kernel, rfl⟩

/-- A copy to global memory that names a destination tile, and a multicast past the end of the block's scratchpad. -/
theorem witness_copyFootprint : ∃ b, (copyState 0 0x400000 128 0x500000 id).blk? 0 0 = some b ∧
    Rules.OutsideTile b (.cpy cw { cx with dt := 0 } (cy 0)) (Rules.copyArgs b cw { cx with dt := 0 }) (some (tileDesc 128 2 0)) none [] := by
  refine ⟨((copyState 0 0x400000 128 0x500000 id).blk? 0 0).get (by decide +kernel), by simp, .inl ⟨_, rfl, ?_, .inr
    ⟨{ va := 0x500000, bytes := 128, write := true }, ?_, rfl, 0, 0, by decide, by decide, fun o _ h => ?_⟩⟩⟩
  · rintro ⟨_, _, _, h⟩
    cases h
  · show _ ∈ [_, _]
    exact List.mem_cons_of_mem _ (List.mem_singleton.mpr (congrArg (Ext.mk · 128 1 0 true false) (by decide +kernel)))
  · rw [show ownOffset _ _ = none by decide +kernel] at h
    cases h

theorem witness_castRange : let s := copyState 0 0x400000 128 65472 id
    ∃ c b t, CtlGo s c b t (.cpymc { cw with sa := 8 } cx (cy 1)) ∧ (uniOperandGate (.cpymc cw cx (cy 1)) cw b = .go ∧
      b.info.spadB < (Rules.copyArgs b cw cx).sd.toNat + cpyLen (Rules.copyArgs b cw cx).sb) :=
  go_witness _ (by decide +kernel)

/-- A copy to tile 0, which is ready or draining, its names sound. -/
theorem witness_copyFills : ∀ st ∈ [(2 : BitVec 3), 3, 0, 1], ∃ c b t, CtlReady (copyState st 0x400000 128 0xF0F0000000000000 id) c b t
      (.cpy cw { cx with dt := 0 } (cy 0)) ∧
    Rules.CopyNames (copyState st 0x400000 128 0xF0F0000000000000 id) c b (.cpy cw { cx with dt := 0 } (cy 0)) cw { cx with dt := 0 } 127 ∧
    ((copyState st 0x400000 128 0xF0F0000000000000 id).fillEntries c.core b (.cpy cw { cx with dt := 0 } (cy 0)) (some 0)).map
      (fun f => ((copyState st 0x400000 128 0xF0F0000000000000 id).tile f.1 f.2).st) = [st] := by
  intro st h
  simp only [List.mem_cons, List.not_mem_nil, or_false] at h
  obtain rfl | rfl | rfl | rfl := h <;> exact cpy_witness _ (by decide +kernel)

/-- CPYMC to rank 1 of a gang of one. -/
def castCase : CopyCase := ⟨.cpymc cw cx (cy 2), cw, cx, 0x400000, 128, 0⟩

theorem witness_copyCast : ∃ c b t, CtlReady castCase.state c b t castCase.op ∧
    (copyNames castCase.state c b castCase.op cw cx = true ∧ 2 ^ b.info.bpg ≤ castMask castCase.op) :=
  ctl_witness _ (by decide +kernel)

theorem witness_copyOrder : ∃ c b t, CtlReady (copyState 0 0x400000 4096 0x500000 fun t => { t with marks := lset 15 8192 t.marks }) c b t
      (.cpy cw { cx with tl := 15, tlv := true, sv := 9 } (cy 0)) ∧
    Rules.CopyNames (copyState 0 0x400000 4096 0x500000 fun t => { t with marks := lset 15 8192 t.marks }) c b
      (.cpy cw { cx with tl := 15, tlv := true, sv := 9 } (cy 0)) cw { cx with tl := 15, tlv := true, sv := 9 } 127 ∧
    ((Rules.copyArgs b cw { cx with tl := 15, tlv := true, sv := 9 }).sv.toNat < (t.marks.getD 15 0).toNat) :=
  cpy_witness _ (by decide +kernel)

theorem witness_copyToken : ∃ c b t, CtlReady (copyState 0 0x400000 4096 0x500000 fun t => { t with tokens := lset 7 15 t.tokens }) c b t
      (.cpy cw { cx with tok := 7 } (cy 0)) ∧
    Rules.CopyNames (copyState 0 0x400000 4096 0x500000 fun t => { t with tokens := lset 7 15 t.tokens }) c b
      (.cpy cw { cx with tok := 7 } (cy 0)) cw { cx with tok := 7 } 127 ∧ 15 ≤ t.tokens.getD 7 0 :=
  cpy_witness _ (by decide +kernel)

/-- CPY from the scratchpad bytes of tile 0, which is empty: its names are sound. -/
def tileSource : Instr := .cpy cw cx { st := 0, reuse := 0, rest := 0 }
/-- Its state, the tile being in state `st`. -/
def tileSourceState (st : BitVec 3) : State := copyState st 0xF0F0000000000000 128 0x500000 id

/-- An empty source tile, and a draining one. -/
theorem witness_copySource : ∀ st ∈ [(0 : BitVec 3), 3], ∃ c b t, CtlReady (tileSourceState st) c b t tileSource ∧
    ((0 : BitVec 7).toNat < b.info.tiles ∧
    uniOperandGate tileSource cw b = .go ∧ cpyrInRange b tileSource (Rules.copyArgs b cw cx).sd = true ∧
    copyGeom tileSource (Rules.copyArgs b cw cx) none = true ∧
    footOk tileSource (Rules.copyArgs b cw cx) b none (Rules.descOf (tileSourceState st) c b 0)
      (((tileSourceState st).fillEntries c.core b tileSource none).map fun f => ((tileSourceState st).tile f.1 f.2).desc) = true ∧
    (tileSourceState st).endsFault c b tileSource (Rules.copyArgs b cw cx) 0 = none ∧ castMask tileSource < 2 ^ b.info.bpg ∧
    ((tileSourceState st).tile c.core (b.tileIx 0)).st = st) := by
  intro st h
  simp only [List.mem_cons, List.not_mem_nil, or_false] at h
  obtain rfl | rfl := h <;> exact ctl_witness _ (by decide +kernel)

/-! #### STAGEW, TSET and CFGBANK -/

/-- STAGEW for s8. -/
def stagewW : UniW := { barW 0 with sa := 8 }

theorem witness_stagew : (∃ c b t, UniReady (copyState 0 1 0 0 id) c b t (.stagew stagewW 0) stagewW ∧ b.stageCount < (srcU b 8 0).toNat) ∧
    ∃ c b t, UniReady (copyState 0 0 0 0 id) c b t (.stagew stagewW 0) stagewW ∧ ((srcU b 8 0).toNat ≤ b.stageCount ∧
      (copyState 0 0 0 0 id).heldBack c.core c.bctx c.w b.adm c.lanes = false) :=
  ⟨uni_witness _ (by decide +kernel), uni_witness _ (by decide +kernel)⟩

/-- A sound descriptor: 64 rows of 64 words, at offset 0. -/
def sound : DWord := BitVec.ofNat 64 (64 * 2 ^ 25 + 64 * 2 ^ 36 + 2 * 2 ^ 53)

/-- TSET of tile 3 from s8 and s9, ready. -/
def tsetW : UniW := { barW 0 with sa := 8, sb := 9 }

theorem witness_tset : ∃ c b t, UniReady (copyState 0 sound 0 0 id) c b t (.tset tsetW 0xC3 0) tsetW ∧
    ((fld (0xC3 : Word) 0 6 : BitVec 6).toNat < b.info.tiles ∧ (0xC3 : Word).getLsbD 7 = true ∧
      tileFault b.info.spadB b.info.scaleB ((zext 128 (srcU b 8 0) ||| zext 128 (srcU b 9 0) <<< 64) &&& ~~~((7 : BitVec 128) <<< 100))
        = none ∧ (copyState 0 sound 0 0 id).heldBack c.core c.bctx c.w b.adm c.lanes = false ∧ ((copyState 0 sound 0 0 id).tile c.core (b.tileIx 3)).st = 0) :=
  uni_witness _ (by decide +kernel)

/-- The form in memory: before its read, and once the read is served. -/
def tsetM : UniW := { tsetW with sb := 0 }
/-- A page holding the descriptor. -/
def tsetState : State := paged (copyState 0 0x400000 0 0 id) 0 0
/-- The read of a TSET at this word, served. -/
def tsetRead : Req :=
  { openReq with w := 33, size := 16, dst := .none, stage := .served, got := [(0, zext 128 sound)], pc := 0x400004, mask := 1 }

theorem witness_tsetMemory : (∃ c b t, UniReady tsetState c b t (.tset tsetM 0x43 0) tsetM ∧
      (tsetState.tsetReq c b.adm = none ∧
        mayAsk tsetState c b t (laneBit (lowestLane c.lanes)) tsetForm (fun _ => srcU b 8 0) .mem 0x100000 (some (page 0 0 0).leaf) = true ∧
        tsetState.heldBack c.core c.bctx c.w b.adm c.lanes = false)) ∧
    ∃ c b t, UniReady { tsetState with reqs := [tsetRead] } c b t (.tset tsetM 0x43 0) tsetM ∧
      (({ tsetState with reqs := [tsetRead] } : State).tsetReq c b.adm = some tsetRead ∧
        ({ tsetState with reqs := [tsetRead] } : State).heldBack c.core c.bctx c.w b.adm c.lanes = false ∧
        tileFault b.info.spadB b.info.scaleB (zext 128 sound &&& ~~~((7 : BitVec 128) <<< 100)) = none) :=
  ⟨uni_witness _ (by decide +kernel), uni_witness _ (by decide +kernel)⟩

/-- CFGBANK of bank 31 of cluster 0 to mode `m`, in handler mode, the bank being `k`. -/
def cfgState (m : Nat) (k : Bank) : State :=
  let s := machine (latch 0 4 0xFFFFFFFF) (fun b => { b with s := nput 8 (BitVec.ofNat 64 (31 + 1024 * m)) b.s })
    fun t => { t with lanes := t.lanes.map fun l => { l with trap := .handler } }
  { s with clusters := nput (bankKey 0 31) k s.clusters }

/-- The premises that the clauses of BankConfiguration share. -/
def cfgSound (s : State) (b : Blk) : Bool :=
  decide (fld (srcU b 8 0) 10 2 ≠ (3 : BitVec 2)) && decide (fld (srcU b 8 0) 12 52 = (0 : BitVec 52))
    && decide ((fld (srcU b 8 0) 5 5 : BitVec 5).toNat < 24) && !s.kindling && !s.heldBack 0 0 0 b.adm 0xFFFFFFFF

/-- A bank whose change this party asked for and which has ended; one already in the mode; one to change; one that may not; one under
change. -/
theorem witness_cfgbank :
    (∃ c b t, UniReady (cfgState 2 { Bank.reset with mode := .fifo, owner := some 0, done := [(7, 0)] }) c b t (.cfgbank stagewW) stagewW ∧
      (cfgSound (cfgState 2 { Bank.reset with mode := .fifo, owner := some 0, done := [(7, 0)] }) b = true ∧ (b.adm, c.w) = (7, 0))) ∧
    (∃ c b t, UniReady (cfgState 0 Bank.reset) c b t (.cfgbank stagewW) stagewW ∧ (cfgSound (cfgState 0 Bank.reset) b = true ∧
      (cfgState 0 Bank.reset).changeRefused (bankKey 0 31) (bankModeOf 0) (some b.info.ctx) = false ∧ bankModeOf 0 = .cache)) ∧
    (∃ c b t, UniReady (cfgState 2 Bank.reset) c b t (.cfgbank stagewW) stagewW ∧ (cfgSound (cfgState 2 Bank.reset) b = true ∧
      (cfgState 2 Bank.reset).changeRefused (bankKey 0 31) (bankModeOf 2) (some b.info.ctx) = false ∧ bankModeOf 2 ≠ .cache)) ∧
    (∃ c b t, UniReady (cfgState 0 { Bank.reset with mode := .fifo, owner := some 5 }) c b t (.cfgbank stagewW) stagewW ∧
      (cfgSound (cfgState 0 { Bank.reset with mode := .fifo, owner := some 5 }) b = true ∧
        (cfgState 0 { Bank.reset with mode := .fifo, owner := some 5 }).changeRefused (bankKey 0 31) (bankModeOf 0) (some b.info.ctx) = true)) ∧
    ∃ c b t, UniReady (cfgState 2 { Bank.reset with change := some (.fifo, some 0) }) c b t (.cfgbank stagewW) stagewW ∧
      cfgSound (cfgState 2 { Bank.reset with change := some (.fifo, some 0) }) b = true :=
  ⟨uni_witness _ (by decide +kernel), uni_witness _ (by decide +kernel), uni_witness _ (by decide +kernel),
    uni_witness _ (by decide +kernel), uni_witness _ (by decide +kernel)⟩

/-! ### Witnesses: homes, replies and clauses (R171, R193 to R198, R223 to R231, R285, R371 to R382) -/

/-- Request `r` alone in the machine, and the event that names it. -/
def reqState (r : Req) : State := { plain 3 with reqs := [r] }
/-- An accepted request at its home of kind `k`, with the operation `o`. -/
def homeReq (k : ReqKind) (dst : Dst) (data : QWord) : Req :=
  { openReq with kind := k, stage := .accepted, dst := dst, ops := [{ lane := 0, va := 0x400000, gen := 0x400000, addr := 0x100000, data := data, cmp := 0, gva := 0, atag := false, fmt := 1 }] }

/-- The premises of AtHome, as a test. -/
def atHome (s : State) (r : Req) : Bool :=
  decide (s.req? s.arg.a = some r) && decide (s.arg.ecc = .clean) && !s.arg.flag2 && decide (r.stage = .accepted) && decide (r.home = .mem)
    && !lineIsCap r.line && s.mayServe r && !s.lacksWriterRoom r && !s.replaying && !s.poisoned r.line
    && (s.partialsOf r.line).isEmpty && !r.asyncTag

theorem atHome_of {s : State} {r : Req} (h : atHome s r = true) : Rules.AtHome s r := by
  simp only [atHome, Bool.and_eq_true, Bool.not_eq_true', decide_eq_true_eq, List.isEmpty_iff, and_assoc] at h
  obtain ⟨h1, h2, hf, h3, h4, h5, h6, h7, h8, h9, h10, h11⟩ := h
  exact ⟨⟨h1, h2, hf⟩, h3, ⟨h4, h5⟩, ⟨h6, h7, h8⟩, ⟨h9, h10, h11⟩⟩

/-- A request of each kind of HomesServe and HomesKeepAndWait. -/
def homeReqs : List Req :=
  [ homeReq .load (.lane 4 1) 0, homeReq .store .none 5, homeReq (.atom 0) (.lane 4 1) 1, homeReq .cas (.lane 4 1) 1,
    homeReq (.red 0) .none 1, { homeReq .tagld (.lane 4 1) 0 with size := 32 }, { homeReq .tagst .none 3 with size := 32 },
    homeReq (.cadd 1) .none 1, homeReq .waitaddr (.lane 4 1) 0, homeReq .waitaddr (.lane 4 1) 7 ]

theorem witness_homes : ∀ r ∈ homeReqs, Rules.AtHome (reqState r) r ∧ Rules.NoneBefore (reqState r) r ∧ r.inv = false ∧ r.got = [] := by
  have h : (homeReqs.all fun r => atHome (reqState r) r && ((reqState r).reqs.all fun q => decide (r.id ≤ q.id)) && !r.inv
    && r.got.isEmpty) = true := by decide +kernel
  intro r hr
  have p := List.all_eq_true.mp h r hr
  simp only [Bool.and_eq_true, Bool.not_eq_true', List.all_eq_true, decide_eq_true_eq, List.isEmpty_iff, and_assoc] at p
  exact ⟨atHome_of p.1, fun q hq _ _ _ _ _ _ => p.2.1 q hq, p.2.2.1, p.2.2.2⟩

/-- Reset memory reads 0, so WAITADDR of 0 enrols and of 7 lands; its queue has room. -/
theorem witness_waitaddr : ((reqState (homeReq .waitaddr (.lane 4 1) 0)).sliceQueue
      ((reqState (homeReq .waitaddr (.lane 4 1) 0)).slice 8192)).length < 2048 ∧
    (BitVec.ofNat 128 (leNat (readBytes Mem.reset.bytes 0x100000 4)) : QWord) = 0 ∧ (7 : QWord) ≠ 0 := by decide +kernel

/-- The same line poisoned: a load, an atomic, and a store of the whole line. -/
def poisonState (r : Req) : State := { reqState r with mem := { Mem.reset with poison := [8192] } }
/-- A store of all 128 bytes. -/
def wholeLine : Req :=
  { homeReq .store .none 0 with size := 16, ops := (List.range 8).map fun i => { lane := i, va := 0x400000 + BitVec.ofNat 64 (16 * i), gen := 0x400000 + 16 * i, addr := 0x100000 + 16 * i, data := 0, cmp := 0, gva := 0, atag := false, fmt := 0 } }

theorem witness_poison : (∀ r ∈ [homeReq .load (.lane 4 1) 0, homeReq (.atom 0) (.lane 4 1) 1, wholeLine],
      (poisonState r).req? (poisonState r).arg.a = some r ∧ (poisonState r).arg.flag2 = false ∧ r.asyncTag = false ∧ r.stage = .accepted ∧ r.home = .mem ∧ lineIsCap r.line = false ∧
      (poisonState r).mayServe r = true ∧ (poisonState r).lacksWriterRoom r = false ∧ (poisonState r).partialsOf r.line = [] ∧
      (poisonState r).poisoned r.line = true) ∧ wholeLine.fullLine = true := by
  constructor
  · have h : ([homeReq .load (.lane 4 1) 0, homeReq (.atom 0) (.lane 4 1) 1, wholeLine].all fun r =>
      decide ((poisonState r).req? (poisonState r).arg.a = some r ∧ (poisonState r).arg.flag2 = false ∧ r.asyncTag = false ∧ r.stage = .accepted ∧ r.home = .mem ∧ lineIsCap r.line = false ∧
      (poisonState r).mayServe r = true ∧ (poisonState r).lacksWriterRoom r = false ∧ (poisonState r).partialsOf r.line = [] ∧
      (poisonState r).poisoned r.line = true)) = true := by decide +kernel
    exact fun r hr => of_decide_eq_true (List.all_eq_true.mp h r hr)
  · decide +kernel

/-- A fifth writer of a publish-tracked line (R243), before and after room. -/
def fifth (st : ReqStage) : Req := { homeReq .store .none 1 with pub := true, stage := st }
/-- Four writers hold the line. -/
def fourWriters (st : ReqStage) : State := { reqState (fifth st) with mem := { Mem.reset with writers := [(8192, [100, 101, 102, 103])] } }

theorem witness_writers : (fourWriters .accepted).lacksWriterRoom (fifth .accepted) = true ∧
    (fourWriters .accepted).mayServe (fifth .accepted) = true ∧ (fourWriters .accepted).req? 0 = some (fifth .accepted) ∧
    (fourWriters .accepted).arg.flag2 = false ∧
    (reqState (fifth .waiting)).lacksWriterRoom (fifth .waiting) = false ∧ (reqState (fifth .waiting)).req? 0 = some (fifth .waiting) := by
  decide +kernel

/-- A load of the first line of the capacity tier, accepted and with its reply awaited. -/
def capReq (st : ReqStage) : Req :=
  { homeReq .load (.lane 4 1) 0 with stage := st, line := capBase / 128, ops := [{ lane := 0, va := 0x400000, gen := 0x400000, addr := capBase, data := 0, cmp := 0, gva := 0, atag := false, fmt := 0 }] }

theorem witness_capacity : (reqState (capReq .accepted)).req? 0 = some (capReq .accepted) ∧ lineIsCap (capReq .accepted).line = true ∧
    (reqState (capReq .accepted)).mem.cacheOn = false ∧ (reqState (capReq .accepted)).arg.flag2 = false ∧ (reqState (capReq .accepted)).mayServe (capReq .accepted) = true ∧
    (reqState (capReq .accepted)).lacksWriterRoom (capReq .accepted) = false ∧
    (reqState (capReq .sent)).req? 0 = some (capReq .sent) ∧ (reqState (capReq .sent)).behindAtHome (capReq .sent) = false ∧
    (reqState (capReq .sent)).mayOp 0 (issuerOf 0 0) 0 = true ∧ (reqState (capReq .sent)).poisoned (capReq .sent).line = false ∧
    (reqState (capReq .sent)).partialsOf (capReq .sent).line = [] := by decide +kernel

/-- The replies that CAPACITY_TIER_COMPLETION distinguishes. -/
theorem witness_capacityReplies : ∀ x ∈ [LinkReply.poison, .timeout, .linkFail, .ok []],
    ({ reqState (capReq .sent) with arg := { reply := x } } : State).arg.reply = x := by
  intro x _
  rfl

/-! #### Replies -/

/-- A served load of two registers of lane 31, one of s10, and a served store. -/
def served (k : ReqKind) (dst : Dst) (got : List (Nat × QWord)) : Req := { homeReq k dst 0 with stage := .served, got := got }
/-- Such a reply with its destination marked empty, its block `st`. -/
def replyState (r : Req) (st : BlkStat) : State :=
  { machine (latch 0 3 0xFFFFFFFF) (fun b => { b with stat := st, sEmpty := [10] }) (fun t => { t with empty := [4, 5] }) with reqs := [r] }

/-- The cases of RepliesLand. -/
def replies : List (Req × BlkStat) :=
  [ (served .load (.lane 4 2) [(31, 0x500000006)], .resident), (served .load (.uni 10) [(0, 9)], .resident),
    (served .load (.lane 4 2) [(31, 0x500000006)], .parked), (served .load (.lane 4 2) [(31, 0x500000006)], .restorable),
    (served .store .none [], .resident) ]

theorem witness_replies : ∀ e ∈ replies, (replyState e.1 e.2).req? (replyState e.1 e.2).arg.a = some e.1 ∧ e.1.stage = .served ∧
    e.1.err = none ∧ (((replyState e.1 e.2).blk? 0 0).map fun b => (b.adm, b.stat, (b.thr? 0).isSome)) = some (7, e.2, true) ∧
    (replyState e.1 e.2).dstBusy e.1 = false ∧ (e.1.got.map fun g => g.1).Nodup ∧ (e.1.got.all fun g => decide (g.1 < 32)) = true ∧
    (replyState e.1 e.2).watches 0 = [] ∧ (e.1.dst.isReg = true ∨ e.1.dst = .none ∧ e.1.kind ≠ .load ∧ e.1.kind ≠ .fetch) ∧
    (((replyState e.1 e.2).thr? 0 0 0).map fun t => t.hits.isEmpty) = some true := by
  have h : (replies.all fun e => decide ((replyState e.1 e.2).req? (replyState e.1 e.2).arg.a = some e.1 ∧ e.1.stage = .served ∧
    e.1.err = none ∧ (((replyState e.1 e.2).blk? 0 0).map fun b => (b.adm, b.stat, (b.thr? 0).isSome)) = some (7, e.2, true) ∧
    (replyState e.1 e.2).dstBusy e.1 = false ∧ (e.1.got.map fun g => g.1).Nodup ∧ (e.1.got.all fun g => decide (g.1 < 32)) = true ∧
    (replyState e.1 e.2).watches 0 = [] ∧ (e.1.dst.isReg = true ∨ e.1.dst = .none ∧ e.1.kind ≠ .load ∧ e.1.kind ≠ .fetch) ∧
    (((replyState e.1 e.2).thr? 0 0 0).map fun t => t.hits.isEmpty) = some true)) = true := by decide +kernel
  exact fun e he => of_decide_eq_true (List.all_eq_true.mp h e he)

/-! ### Witnesses: clauses, asynchronous traps, banks and tables -/

/-- What ClausesAreEntered asks of the party `core`, `bctx`, `w` of the event, as a test. -/
def entered (s : State) (core bctx w : Nat) : Bool :=
  match s.blk? core bctx with
  | none => false
  | some b => match b.thr? w with
    | none => false
    | some t =>
      let t1 := t.settle s core bctx b
      let y := { t1 with lanes := t1.lanes.map fun l => if l.stat = .blocked .yielded then { l with stat := .run } else l }
      let b1 := b.setThr w y
      let s1 := s.setBlk core bctx b1
      match t1.select (allowedLanes s1 (b.setThr w t1) core bctx w) with
      | none => false
      | some m =>
        let l := y.lane (lowestLane m)
        match s1.fetchClause (fetchCur core bctx w m l.pc 0) b1 y with
        | .ok x k => canIssue s b && !s.issueHeld core w && decide (t.tagRec = none) && t.trapQ.isEmpty && t.asyncQ.isEmpty &&
          ((List.range t.lanes.length).all fun l => decide ((t.lane l).stat ≠ .held) || !(t.lane l).toMeet) &&
          decide (l.clause = none) && !s1.publishing core bctx w b.adm && isHeader k.hdr && clauseOk w k.hdr k.words &&
          !overlong y w m l.pc (l.pc + 4) && wakeHolds x core bctx b1 y (.token (hdrWait k.hdr)) &&
          ((List.range 3).all fun n => !(y.loop n).active || decide ((y.loop n).stop ≠ (y.loop n).start + 1024))
        | _ => false

/-- A clause in place after reset, its party chosen, all lanes running or lane 31 having yielded: every hypothesis of ClausesAreEntered
holds, so that the test does. -/
theorem witness_clauses : ∀ st ∈ [LaneStat.run, .blocked .yielded],
    let s := (State.reset.placeWord 32 0).modThr State.reset.arg.a State.reset.arg.b State.reset.arg.c fun t =>
      { t with lanes := lset 31 { t.lane 31 with stat := st } t.lanes }
    s.arg.ecc = .clean ∧ s.arg.flag = false ∧ s.replaying = false ∧ entered s s.arg.a s.arg.b s.arg.c = true := by
  have h : ([LaneStat.run, .blocked .yielded].all fun st =>
    let s := (State.reset.placeWord 32 0).modThr State.reset.arg.a State.reset.arg.b State.reset.arg.c fun t =>
      { t with lanes := lset 31 { t.lane 31 with stat := st } t.lanes }
    decide (s.arg.ecc = .clean ∧ s.arg.flag = false ∧ s.replaying = false ∧ entered s s.arg.a s.arg.b s.arg.c = true)) = true := by
    decide +kernel
  exact fun st hs => of_decide_eq_true (List.all_eq_true.mp h st hs)

/-- A warp with one asynchronous trap pending, in a context with a vector. -/
def asyncState : State :=
  vector (machine (latch 0 4 0xFFFFFFFF) id fun t => { t with
    asyncQ := [{ cause := .engineAbort, origin := 2, more := 0, serviced := false, pc := 0x400010, addr := 0x400020, lseq := 1, issuer := 0 }] })
    0x500000

theorem witness_asynchronousTraps : asyncState.replaying = false ∧ asyncState.trapWaits 0 0 0 = false ∧
    ((asyncState.blk? 0 0).map fun b => (canIssue asyncState b, decide ((asyncState.ctx b.info.ctx).vec = 0))) = some (true, false) ∧
    ((asyncState.thr? 0 0 0).map fun t => (t.asyncQ.length, t.inHandler, t.trapQ.length, decide (t.asyncTakers = 0), t.tagRec.isNone))
      = some (1, false, 0, false, true) := by decide +kernel

/-- Bank 31 of cluster 0 with request `r` at the head of its queue and the entries `f`. -/
def bankState (r : Req) (mode : BankMode) (f : List FifoEntry) : State :=
  let s := machine (latch 0 3 0xFFFFFFFF) (fun b => { b with info := { b.info with spadB := 4096 }, spadBanks := [31] }) id
  { s with reqs := [r], clusters := nput (bankKey 0 31) { Bank.reset with mode := mode, owner := some 0, queue := [0], fifo := f } s.clusters,
           arg := { a := 0, b := 31 } }

/-- Scratchpad requests of each kind, and a pop and a push of a FIFO bank. -/
def bankReqs : List (Req × BankMode × List FifoEntry) :=
  let pad (k : ReqKind) (d : Dst) : Req := { homeReq k d 1 with home := .spad 7, line := 0, ops := [{ lane := 0, va := 0x40, gen := 0x40, addr := 0x40, data := 1, cmp := 0, gva := 0, atag := false, fmt := 0 }] }
  let fifo (k : ReqKind) (d : Dst) : Req := { homeReq k d 1 with home := .fifo 0 31, line := 0 }
  [ (pad .load (.lane 4 1), .spad, []), (pad .store .none, .spad, []), (pad (.atom 0) (.lane 4 1), .spad, []), (pad .cas (.lane 4 1), .spad, []),
    (pad (.red 0) .none, .spad, []), (fifo .load (.lane 4 1), .fifo, [{ data := [5], poisoned := false }]), (fifo .load (.lane 4 1), .fifo, []),
    (fifo .store .none, .fifo, []) ]

theorem witness_banks : ∀ e ∈ bankReqs, let s := bankState e.1 e.2.1 e.2.2
    (s.bank (bankKey s.arg.a s.arg.b)).queue = [e.1.id] ∧ s.req? e.1.id = some e.1 ∧ s.mayOp 0 (issuerOf 0 0) 0 = true ∧
    s.islandDown (clusterIsland s.arg.a) = false ∧ s.replaying = false ∧ s.arg.ecc = .clean ∧ (s.reqs.map fun q => q.id).Nodup ∧ e.1.stage ≠ .queued ∧
    (s.blkOf 7).isSome = true ∧ (s.bank (bankKey 0 31)).waitPop = [] ∧ (s.bank (bankKey 0 31)).waitPush = [] := by
  have h : (bankReqs.all fun e => let s := bankState e.1 e.2.1 e.2.2
    decide ((s.bank (bankKey s.arg.a s.arg.b)).queue = [e.1.id] ∧ s.req? e.1.id = some e.1 ∧ s.mayOp 0 (issuerOf 0 0) 0 = true ∧
    s.islandDown (clusterIsland s.arg.a) = false ∧ s.replaying = false ∧ s.arg.ecc = .clean ∧ (s.reqs.map fun q => q.id).Nodup ∧ e.1.stage ≠ .queued ∧
    (s.blkOf 7).isSome = true ∧ (s.bank (bankKey 0 31)).waitPop = [] ∧ (s.bank (bankKey 0 31)).waitPush = [])) = true := by
    decide +kernel
  exact fun e he => of_decide_eq_true (List.all_eq_true.mp h e he)

/-- A full bank holds 8,192 entries (R197). -/
theorem witness_bankFull : 8192 ≤ (List.replicate 8192 ({ data := [], poisoned := false } : FifoEntry)).length := by rw [List.length_replicate]

/-- A bank that is changing to FIFO mode, its queue empty. -/
theorem witness_bankChange : let s : State := { plain 4 with arg := { a := 0, b := 31 }
                                                             clusters := [(bankKey 0 31, { Bank.reset with change := some (.fifo, some 0) })] }
    (s.bank (bankKey s.arg.a s.arg.b)).queue = [] ∧ (s.bank (bankKey s.arg.a s.arg.b)).change = some (.fifo, some 0) := by decide +kernel

/-- A fill of core 0's second table bank, one answered load of it still to end. -/
def aFill : TblFill := { adm := 7, w := 0, first := 0 }
/-- That load, which has brought its first 16 bytes. -/
def fillReq : Req := { served .load (.tbl 0) [(0, 0x300000002)] with size := 16 }
/-- Core 0 filling its second table bank. -/
def fillState : State :=
  { loadState.setCore 0 { Core.reset with banks := [TblBank.reset, { TblBank.reset with filling := some aFill }] } with reqs := [fillReq] }

theorem witness_tableFill :
    findIx (fun x : TblBank => x.filling.any fillState.fillDone) (fillState.coreAt fillState.arg.a).banks = some 1 ∧
    (fillState.blkOf 7).map (fun p => p.1) = some 0 ∧ fillState.replaying = false ∧ fillState.mayOp 0 (issuerOf 0 0) 0 = true ∧
    (fillState.reqs.filter fun q => q.dst == .tbl 0) = [fillReq] ∧ fillReq.err = none ∧
    fillReq.ops.map (fun o => (fillReq.got.find? fun g => g.1 == o.lane)) = [some (0, 0x300000002)] := by
  refine ⟨?_, ?_, ?_, ?_, ?_, ?_, ?_⟩ <;> decide +kernel

/-! ### Witnesses: engines and collectives (R63, R64, R213 to R216, R408 to R425) -/

/-- A command of the access stream of block 7: `op` from s8's value to s10's, `n` bytes. -/
def cmdOf (op : Instr) (sa sb sd : DWord) (flying : Bool) : Cmd :=
  { id := 3, core := 0, bctx := 0, w := 33, adm := 7, ctx := 0, op := op, sd := sd, sa := sa, sb := sb, sv := 0, priv := false, tok := none,
    tl := none, dt := none, st := none, pc := 0x400004, lseq := 1, started := flying, inFlight := flying, done := 0, pos := 0,
    targets := [], poisonF := false, tagF := false, tagSite := none, drops := 0, fail := none, failAt := 0, finished := false, fault := none,
    engine := 0, watched := [], upto := 0, opened := false }
/-- CPY, CPYFILL and COLL. -/
def cpyOp : Instr := .cpy cw cx (cy 0)
/-- CPYFILL of eight bytes at a time. -/
def fillOp : Instr := .cpyfill cw cx (cy 3)
/-- COLL. -/
def collOp : Instr := .coll { cw with sd := 0, sb := 0 } cx
/-- That command alone in the machine, and the event that names it; both pages readable and writable. -/
def cmdState (k : Cmd) : State := { paged (copyState 0 0 0 0 id) 0 0 with cmds := [k], arg := { a := 3 }, tick := 1000, cal := { Cal.reset with started := [0] } }

theorem witness_engineAdmits : ∀ op ∈ [cpyOp, collOp], let k := cmdOf op 0x400000 16 0x401000 false
    (cmdState k).cmd? (cmdState k).arg.a = some k ∧ ((cmdState k).blkOf k.adm).isSome = true ∧
    (((cmdState k).blkOf k.adm).map fun p => ((cmdState k).cmdReady k p.2, (cmdState k).cmdTurn k p.2)) = some (true, true) ∧
    (cmdState k).islandDown (clusterIsland (k.core / 8)) = false ∧ (cmdState k).recd.halted = false ∧ k.st = none ∧
    (cmdState k).admitsColl (cmdState k).collEngine none k.opened = true := by
  have h : ([cpyOp, collOp].all fun op => let k := cmdOf op 0x400000 16 0x401000 false
    decide ((cmdState k).cmd? (cmdState k).arg.a = some k ∧ ((cmdState k).blkOf k.adm).isSome = true ∧
    (((cmdState k).blkOf k.adm).map fun p => ((cmdState k).cmdReady k p.2, (cmdState k).cmdTurn k p.2)) = some (true, true) ∧
    (cmdState k).islandDown (clusterIsland (k.core / 8)) = false ∧ (cmdState k).recd.halted = false ∧ k.st = none ∧
    (cmdState k).admitsColl (cmdState k).collEngine none k.opened = true)) = true := by decide +kernel
  exact fun op hop => of_decide_eq_true (List.all_eq_true.mp h op hop)

theorem witness_engineDamper : (((cmdState (cmdOf cpyOp 0x400000 16 0x401000 false)).blkOf 7).map fun p =>
    (cmdState (cmdOf cpyOp 0x400000 16 0x401000 false)).cmdAdmits (cmdOf cpyOp 0x400000 16 0x401000 false) p.2) = some true := by
  decide +kernel

/-- The access of one byte that Mapped speaks of. -/
def byteForm (write : Bool) (va : DWord) : MemForm :=
  { kind := if write then .store else .load, ak := if write then .write else .read, bytes := 1, space := if isWindow va then 0 else 1,
    tagged := false }

/-- Mapped, as a test over the pages of `paged`. -/
def mapped (s : State) (k : Cmd) (b : Blk) (write : Bool) (va : DWord) (n pa : Nat) : Bool :=
  (List.range n).all fun i => !isCapacity (pa + i) && [page 0 0 0, page 1 0 0].any fun e =>
    decide (s.laneCheck k.cur b k.mmu (byteForm write va) (va + BitVec.ofNat 64 i) = .ok .mem (pa + i) (some e.leaf))

theorem mapped_of {s : State} {k : Cmd} {b : Blk} {write : Bool} {va : DWord} {n pa : Nat} (h : mapped s k b write va n pa = true) :
    Rules.Mapped s k b write va n pa := by
  intro i hi
  have p := List.all_eq_true.mp h i (List.mem_range.mpr hi)
  simp only [Bool.and_eq_true, Bool.not_eq_true', List.any_eq_true, decide_eq_true_eq] at p
  obtain ⟨hc, e, he, hl⟩ := p
  refine ⟨hc, some e.leaf, hl, ?_⟩
  intro x hx
  obtain rfl := Option.some.inj hx
  simp only [List.mem_cons, List.not_mem_nil, or_false] at he
  obtain rfl | rfl := he <;> exact ⟨rfl, rfl⟩

/-- Nothing is held where no slot runs, no island is gated and no mode changes. -/
theorem nothing_held {s : State} (h : s.cal.slots = []) (hp : s.dev.islandPoint = []) (hb : s.mem.cacheBusy = false) :
    ∀ die line, s.lineHeld die line = false := by
  have hs : ∀ f, s.slotNow f = false := fun f => by simp [State.slotNow, h]
  have hi : ∀ k, s.islandDown k = false := fun k => by
    simp [State.islandDown, State.islandHeld, State.gated, hs, hp] <;> nofun
  have hl : ∀ k, s.linkDown k = false := fun k => by simp [State.linkDown, State.linkHeld, hs, hi]
  intro die line
  simp [State.lineHeld, State.stackDown, State.stackHeld, State.routeHeld, hs, hi, hl, hb]

/-- CalmMemory, as a test. -/
def calm (s : State) (ctx : Nat) : Bool :=
  s.mem.partials.isEmpty && s.mem.poison.isEmpty && s.mem.poisonTab.isEmpty && (s.watches ctx).isEmpty && decide (s.arg.ecc = .clean)
    && !s.arg.flag && s.cal.slots.isEmpty && s.dev.islandPoint.isEmpty && !s.mem.cacheBusy

theorem calm_of {s : State} {ctx : Nat} (h : calm s ctx = true) : Rules.CalmMemory s ctx := by
  simp only [calm, Bool.and_eq_true, List.isEmpty_iff, decide_eq_true_eq, Bool.not_eq_true', and_assoc] at h
  obtain ⟨h1, h2, h3, h4, h5, h6, h7, h8, h9⟩ := h
  exact ⟨h1, h2, h3, h4, h5, h6, nothing_held h7 h8 h9⟩

/-- A state whose block `b` is the one of `copyState`. -/
def ofBlock (s : State) (p : Blk → Bool) : Bool :=
  match s.blk? 0 0 with
  | some b => p b
  | none => false

/-- CPY and CPYFILL of 16 bytes in flight, from the first page to the second: the premises of CopiesMoveBytes. -/
theorem witness_copiesMove : ∀ op ∈ [cpyOp, fillOp], let k := cmdOf op 0x400000 16 0x401000 true
    ofBlock (cmdState k) (fun b => mapped (cmdState k) k b false k.sa 16 0x100000 && mapped (cmdState k) k b true k.sd 16 0x101000 &&
      decide (b.stat = .resident)) = true ∧
    (cmdState k).cmd? (cmdState k).arg.a = some k ∧ ((cmdState k).blkOf k.adm).map (fun p => p.1) = some (blkKey 0 0) ∧
    (k.inFlight = true ∧ k.sent = false ∧ k.asked = [] ∧ k.acks = [] ∧ k.nack = false) ∧ (cmdState k).mayOp k.agent 0 0 = true ∧ (cmdState k).replaying = false ∧
    ((cmdState k).blks.all fun p => p.2.thrs.any fun q => !q.2.exited) = true ∧
    calm (cmdState k) 0 = true ∧ cpyLen k.sb = 16 ∧ inFifoWindow k.sa = false ∧
    inFifoWindow k.sd = false ∧ (cy 3).rest.getLsbD 0 = true ∧ (cy 0).rest.getLsbD 0 = false := by
  have h : ([cpyOp, fillOp].all fun op => let k := cmdOf op 0x400000 16 0x401000 true
    decide (ofBlock (cmdState k) (fun b => mapped (cmdState k) k b false k.sa 16 0x100000 && mapped (cmdState k) k b true k.sd 16 0x101000 &&
      decide (b.stat = .resident)) = true ∧
    (cmdState k).cmd? (cmdState k).arg.a = some k ∧ ((cmdState k).blkOf k.adm).map (fun p => p.1) = some (blkKey 0 0) ∧
    (k.inFlight = true ∧ k.sent = false ∧ k.asked = [] ∧ k.acks = [] ∧ k.nack = false) ∧ (cmdState k).mayOp k.agent 0 0 = true ∧ (cmdState k).replaying = false ∧
    ((cmdState k).blks.all fun p => p.2.thrs.any fun q => !q.2.exited) = true ∧
    calm (cmdState k) 0 = true ∧ cpyLen k.sb = 16 ∧ inFifoWindow k.sa = false ∧
    inFifoWindow k.sd = false ∧ (cy 3).rest.getLsbD 0 = true ∧ (cy 0).rest.getLsbD 0 = false)) = true := by decide +kernel
  exact fun op hop => of_decide_eq_true (List.all_eq_true.mp h op hop)

/-- An all-reduce over two ranks of four words at 0x400040 into 0x401000, with its descriptor at 0x400000 and its peers at 0x400080:
rank 0 is this device. -/
def collDescBytes : List Byte :=
  ([1, 0x400040, 0x401000, 4, 2 * 2 ^ 16, 0x400080, 0, 0].map fun v => leBytes 8 v).flatten

/-- Memory holding it. -/
def collCells : Memory := writeBytes (writeBytes Memory.empty 0x100000 collDescBytes) 0x100082 [2, 0]
/-- The other rank's part, which device 2 has sent: the same descriptor and four words. -/
def collPart : CollPart := { src := 2, group := 0, seq := 0, off := 0, bad := false, data := collDescBytes ++ leBytes 16 5 }
/-- The collective in flight with its one segment admitted, its command, and what the other rank brought; three messages of its own
are out: its descriptor and the two lines of its source. -/
def theColl (node : Option (Nat × Word × DWord)) : Coll :=
  { Coll.start 4 0 0 0x400000 (if node.isNone then some 3 else none) node 1000 with held := true, sent := 3 }
/-- The machine that runs it. -/
def collState (node : Option (Nat × Word × DWord)) : State :=
  let s := cmdState (cmdOf collOp 0x400000 0 0 true)
  { s with
    mem := { s.mem with bytes := collCells }, colls := [theColl node], arg := { a := 4 }
    links := { Links.reset with inbox := [collPart] } }

theorem witness_collective : let s := collState none
    let d := collDesc (readBytes s.mem.bytes 0x100000 64)
    let k := cmdOf collOp 0x400000 0 0 true
    let dev := fun q => BitVec.ofNat 16 (leNat (readBytes s.mem.bytes (0x100080 + 2 * q) 2))
    ((s.colls.find? fun c => c.id == s.arg.a) = some (theColl none) ∧ s.cmd? 3 = some k) ∧
    ((s.blkOf 7).map (fun p => p.1) = some (blkKey 0 0) ∧ s.replaying = false ∧ s.kindling = false ∧ s.mayOp (collAgent 0) 0 0 = true) ∧
    (s.blks.all fun p => p.2.thrs.any fun q => !q.2.exited) = true ∧
    (d.ok = true ∧ d.kind = 1 ∧ d.win = false ∧ d.count = 4 ∧ d.size = 4 ∧ d.nranks = 2 ∧ d.rank = 0 ∧ d.src = 0x400040 ∧
      d.dst = 0x401000 ∧ d.peers = 0x400080) ∧
    (dev 0 = s.devid ∧ (d.msgs 0 4).length ≤ 3 ∧ (s.links.part (dev 1) d 0 64).map (fun x => (collDesc x.1).key) = some d.key) ∧
    ((List.range 4).all fun i => (s.links.part (dev 1) d (64 + i * 4) 4).map (fun x => x.2) == some false) = true ∧
    (calm s 0 = true ∧ (0x400000 : DWord).toNat % 8 = 0 ∧ 4 ≤ 0 + d.perSeg) ∧
    ofBlock s (fun b => mapped s k b false 0x400000 64 0x100000 && mapped s k b false 0x400040 16 0x100040 && mapped s k b true 0x401000 16 0x101000 &&
      mapped s k b false 0x400080 4 0x100080 && decide (b.stat = .resident)) = true := by
  refine ⟨?_, ?_, ?_, ?_, ?_, ?_, ?_, ?_⟩ <;> decide +kernel

/-- The same collective, a peer's part missing for 2^24 ticks, and not yet so long. -/
def lateColl (n : Nat) : State :=
  { collState none with tick := n, colls := [{ theColl none with lacks := true }] }

theorem witness_collectiveTimeout : ((lateColl (1000 + 2 ^ 24)).colls.all fun c => decide (c.since + 2 ^ 24 ≤ (lateColl (1000 + 2 ^ 24)).tick)) = true ∧
    ((lateColl 2000).colls.all fun c => decide ((lateColl 2000).tick < c.since + 2 ^ 24)) = true ∧
    ((lateColl 2000).blks.all fun p => p.2.thrs.any fun q => !q.2.exited) = true ∧
    (lateColl 2000).cmd? 3 = some (cmdOf collOp 0x400000 0 0 true) ∧
    (((lateColl 2000).blk? 0 0).map fun b => (b.adm, b.stat, (b.thr? 33).isSome)) = some (7, .resident, true) := by decide +kernel

/-- What the missing peer has sent instead: the part of another group, or of another of the group's collectives. -/
def otherParts : List CollPart := [{ collPart with seq := 5 }, { collPart with group := 5 }]

/-- The cause of a part that is missing: nothing has come, or a part that shares GROUP alone or SEQ alone. -/
theorem witness_collectiveMismatch : ({ lateColl 2000 with links := Links.reset } : State).links.inbox = [] ∧
    ∀ p ∈ otherParts, let s : State := { lateColl 2000 with links := { Links.reset with inbox := [p] } }
      let d := collDesc (readBytes s.mem.bytes 0x100000 64)
      let dev := fun q => BitVec.ofNat 16 (leNat (readBytes s.mem.bytes (0x100080 + 2 * q) 2))
      d.ok = true ∧ d.win = false ∧ dev d.rank = s.devid ∧ d.nranks = 2 ∧ s.links.part (dev 1) d 0 64 = none ∧ p.src = dev 1 ∧
      ((p.group.toNat = d.group ∧ p.seq.toNat ≠ d.seq) ∨ (p.group.toNat ≠ d.group ∧ p.seq.toNat = d.seq)) ∧ s.kindling = false ∧
      calm s 0 = true ∧ ofBlock s (fun b => let k := cmdOf collOp 0x400000 0 0 true
        mapped s k b false 0x400000 64 0x100000 && mapped s k b false 0x400080 4 0x100080) = true := by
  have h : (otherParts.all fun p => let s : State := { lateColl 2000 with links := { Links.reset with inbox := [p] } }
      let d := collDesc (readBytes s.mem.bytes 0x100000 64)
      let dev := fun q => BitVec.ofNat 16 (leNat (readBytes s.mem.bytes (0x100080 + 2 * q) 2))
      decide (d.ok = true ∧ d.win = false ∧ dev d.rank = s.devid ∧ d.nranks = 2 ∧ s.links.part (dev 1) d 0 64 = none ∧ p.src = dev 1 ∧
      ((p.group.toNat = d.group ∧ p.seq.toNat ≠ d.seq) ∨ (p.group.toNat ≠ d.group ∧ p.seq.toNat = d.seq)) ∧ s.kindling = false ∧
      calm s 0 = true ∧ ofBlock s (fun b => let k := cmdOf collOp 0x400000 0 0 true
        mapped s k b false 0x400000 64 0x100000 && mapped s k b false 0x400080 4 0x100080) = true)) = true := by decide +kernel
  exact ⟨rfl, fun p hp => of_decide_eq_true (List.all_eq_true.mp h p hp)⟩

/-- A node of a COLL, running. -/
def collNode : ArmNode :=
  { slot := 1, seq := 2, ctx := 0, addr := 0x400100, key := 0, words := [], succ := [], state := 3, predLive := 0, liveIn := true,
    launches := 1, readyAt := 0, pref := 0, preloaded := 0, owe := false, placed := 1, done := 0, iter := 0, body := [], backN := 0,
    backLeft := 0, backLive := false, stored := false, outs := [], closed := false, failed := none, fault := none }
/-- Its collective, late. -/
def lateNode : State :=
  { collState (some (1, 2, 0x400100)) with
    tick := 1000 + 2 ^ 24, stoker := { Stoker.reset with nodes := [collNode] }
    colls := [{ theColl (some (1, 2, 0x400100)) with lacks := true }] }

theorem witness_collectiveNode : collNode ∈ lateNode.stoker.nodes ∧ collNode.failed = none ∧
    (lateNode.colls.find? fun c => c.id == lateNode.arg.a).map (fun c => (c.cmd, c.node, c.lacks)) =
      some (none, some (1, 2, 0x400100), true) :=
  ⟨by simp [lateNode], rfl, by decide +kernel⟩

/-- An access stream waiting for a stage that no warp will reach: the only warp waits on a token (R421); the deadlock has stood since
tick `since`. -/
def deadlock (since : Option Nat) : State :=
  let stop (p : BlockPt) (t : Thr) : Thr := { t with lanes := t.lanes.map fun l => { l with stat := .blocked p } }
  { machine (latch 33 6 1) (fun b => { b with
      stuckSince := since
      thrs := b.thrs.map fun p => (p.1, if p.1 = 33 then stop (.stageWait 5) p.2
      else if p.1 = 0 then stop (.token 1) p.2 else p.2) }) id with tick := 10000 }

/-- A deadlock that has stood for 4,096 cycles, one that has stood for fewer ticks than make them, one just noticed, and none. -/
theorem witness_stageDeadlock : ofBlock (deadlock (some 0)) (fun b => (deadlock (some 0)).stageDeadlock 0 0 b && decide (b.stat = .resident)
    && ((b.thr? 33).map fun t => decide (t.lanes.length ≤ 32)) == some true && b.stuckSince == some 0) = true ∧
    0 + (deadlock (some 0)).stuckTicks 0 ≤ (deadlock (some 0)).tick ∧
    (deadlock (some 10000)).tick < 10000 + (deadlock (some 10000)).stuckTicks 0 ∧
    ofBlock (deadlock none) (fun b => (deadlock none).stageDeadlock 0 0 b && decide (b.stat = .resident)) = true ∧
    ofBlock (plain 4) (fun b => !(plain 4).stageDeadlock 0 0 b) = true ∧ (deadlock (some 0)).arg.b < 16 ∧
    (deadlock (some 0)).replaying = false ∧ (deadlock (some 0)).cmds = [] ∧ ((deadlock (some 0)).blks.map fun p => p.1).Nodup := by
  refine ⟨?_, ?_, ?_, ?_, ?_, ?_, ?_, ?_, ?_⟩ <;> decide +kernel

/-! ### Witnesses: links, windows, resets, bring-up and the calendar (R14 to R35, R54 to R65, R88 to R93) -/

/-- The links with every port in service and the given buffers of port 0. -/
def linkUp (vcs : List VChan) (fails : Nat) : Links :=
  { Links.reset with ports := { VPort.reset with st := 1, lanesUp := 15, vcs := vcs, rxFails := fails, replayBuf := [(5, ⟨2, 0, 0, 0, .load 0x400000 4⟩)] }
      :: List.replicate 23 { VPort.reset with st := 1, lanesUp := 15 } }
/-- A message from device 2. -/
def peerMsg (op : PeerOp) : PeerMsg := { src := 2, mseq := 0, ctx := 0, tag := 0, op := op }
/-- A machine with port 0 in service, an event's arguments, and a request to device 2. -/
def linkState (vcs : List VChan) (fails : Nat) (a : EvArg) : State :=
  { paged (plain 4) 0 0 with links := linkUp vcs fails, arg := a, reqs := [{ openReq with stage := .sent, home := .peer 2, sentN := 1 }] }

theorem witness_flits : let s := linkState (List.replicate 4 VChan.reset) 8 { a := 0, b := 3, flag := true, msg := some (peerMsg (.load 0x400000 4)) }
    let p := s.links.ports.getD 0 VPort.reset
    s.arg.a < 24 ∧ s.arg.a < s.links.ports.length ∧ s.arg.b < 4 ∧ s.arg.b < p.vcs.length ∧ p.st = 1 ∧ p.rxFails = 8 ∧
    (s.chan 0 3).buf.length < 32 ∧ (s.chan 0 3).stopSent = false ∧ (s.reqs.map fun q => q.id).Nodup ∧
    (s.reqs.all fun r => decide (r.stage ≠ .queued) && !r.unsent) = true ∧ s.cmds = [] ∧ s.colls = [] ∧ s.links.windows = [] := by decide +kernel

/-- The flit asked for again for the ninth time, and one asked for the first time. -/
theorem witness_replays : let p : VPort := { VPort.reset with replayFrom := 5, replayTries := 8 }
    (p.replayFrom = 5 ∧ 8 ≤ p.replayTries) ∧ ¬(p.replayFrom = 4 ∧ 8 ≤ p.replayTries) := by decide

/-- A port that sends again at once, and one that its slot holds. -/
theorem witness_replayHeld : (linkState [] 0 { a := 0, b := 3 }).linkDown 0 = false ∧
    ({ linkState [] 0 { a := 0, b := 3 } with
      cal := { Cal.reset with slots := [{ entry := 1, due := 16384, postponed := 0, running := true, untilTick := 16896 }] } } : State).linkDown 0 = true ∧
    ((linkUp [] 0).ports.getD 0 VPort.reset).replayBuf.map (fun x => decide (3 ≤ x.1)) = [true] := by decide +kernel

/-- The channel at the sixteenth message. -/
theorem witness_stop : 15 ≤ ((linkState (List.replicate 4 { VChan.reset with buf := List.replicate 15 (peerMsg (.load 0 4)) }) 0 { a := 0 }).chan 0 0).buf.length := by
  decide +kernel

/-- The port over which a request to device 2 goes, whatever the hash of R17 gives. -/
theorem witness_portDown : ∃ port, port < 24 ∧ (linkState [] 0 { a := port }).portFor 2 openReq.line = port :=
  ⟨Config.planeHash ((2 : BitVec 16).toNat * 2 ^ 64 + 8192) % 24, Nat.mod_lt _ (by decide), rfl⟩

theorem witness_alerts : let s : State := { plain 4 with mem := { Mem.reset with alerts := [(11, 8 * 6 + 3)] }, arg := { a := 11, b := 6 } }
    s.arg.a < 12 ∧ ngetD s.mem.alerts s.arg.a 0 = 8 * s.arg.b + 3 ∧ ngetD s.mem.alerts s.arg.a 0 / 8 ≠ 7 := by decide +kernel

/-- MappedEngine: the engine's view of bytes on the two pages, as a test. -/
def engMapped (s : State) (write : Bool) (va : DWord) (n pa : Nat) : Bool :=
  mapped s (s.ctlEng 0 (portAgent 0)).k (s.ctlEng 0 (portAgent 0)).b write va n pa

/-- A load and a store of four bytes of the first page arrive on channel 0 of port 0. -/
def inboundState (op : PeerOp) : State := linkState ({ VChan.reset with buf := [peerMsg op] } :: List.replicate 3 VChan.reset) 0 { a := 0 }

theorem witness_inbound : (∀ op ∈ [PeerOp.load 0x400004 4, .store 0x400004 [1, 2, 3, 4]], let s := inboundState op
      s.arg.b = 0 ∧ s.nextMsg 0 0 = some (peerMsg op) ∧ s.kindling = false ∧ s.mayOp (portAgent 0) 0 0 = true ∧ s.maySend 0 1 = true ∧
      s.replaying = false ∧ s.mem.partials = [] ∧ s.mem.poison = [] ∧ s.mem.poisonTab = [] ∧ s.watches 0 = [] ∧ s.arg.ecc = .clean ∧
      s.arg.flag = false ∧ engMapped s false 0x400004 4 0x100004 = true ∧ engMapped s true 0x400004 4 0x100004 = true) ∧
    isWindow 0x400004 = false ∧ (0x400004 : DWord).toNat % 4 = 0 := by
  constructor
  · have h : ([PeerOp.load 0x400004 4, .store 0x400004 [1, 2, 3, 4]].all fun op => let s := inboundState op
      decide (s.arg.b = 0 ∧ s.nextMsg 0 0 = some (peerMsg op) ∧ s.kindling = false ∧ s.mayOp (portAgent 0) 0 0 = true ∧ s.maySend 0 1 = true ∧
      s.replaying = false ∧ s.mem.partials = [] ∧ s.mem.poison = [] ∧ s.mem.poisonTab = [] ∧ s.watches 0 = [] ∧ s.arg.ecc = .clean ∧
      s.arg.flag = false ∧ engMapped s false 0x400004 4 0x100004 = true ∧ engMapped s true 0x400004 4 0x100004 = true)) = true := by
      decide +kernel
    exact fun op hop => of_decide_eq_true (List.all_eq_true.mp h op hop)
  · decide +kernel

/-- An answer to request 0's lane 0, sound or failed, on channel 1. -/
def answerState (fail : Bool) : State :=
  linkState (VChan.reset :: { VChan.reset with buf := [peerMsg (.answer [5, 0, 0, 0] fail false)] } :: List.replicate 2 VChan.reset) 0 { a := 0 }

theorem witness_answers : ∀ f ∈ [false, true], let s := answerState f
    let r := { openReq with stage := .sent, home := .peer 2, sentN := 1 }
    s.nextMsg 0 1 = some (peerMsg (.answer [5, 0, 0, 0] f false)) ∧ s.linkDown 0 = false ∧ s.mayOp (portAgent 0) 0 0 = true ∧ s.replaying = false ∧
    s.req? (0 / 32) = some r ∧ r.stage = .sent ∧ r.ops.map (fun o => o.lane) = [0 % 32] ∧ r.got = [] ∧ r.sgn = false := by
  have h : ([false, true].all fun f => let s := answerState f
    let r := { openReq with stage := .sent, home := .peer 2, sentN := 1 }
    decide (s.nextMsg 0 1 = some (peerMsg (.answer [5, 0, 0, 0] f false)) ∧ s.linkDown 0 = false ∧ s.mayOp (portAgent 0) 0 0 = true ∧ s.replaying = false ∧
    s.req? (0 / 32) = some r ∧ r.stage = .sent ∧ r.ops.map (fun o => o.lane) = [0 % 32] ∧ r.got = [] ∧ r.sgn = false)) = true := by
    decide +kernel
  exact fun f hf => of_decide_eq_true (List.all_eq_true.mp h f hf)

/-- A window of 16 bytes of integers to add at 0x400000, in the given role, with this device's contribution to round 0 of element 0. -/
def window (role : BitVec 2) (isOpen : Bool) : Window :=
  { ctx := 0, desc := { role := role, order := false, op := 0, ty := 0, winid := 1, base := 0x400000, bytes := 16, homeDev := 0, nsrc := 1,
                        rank := 0, srcs := 0 },
    isOpen := isOpen, closing := false, slot := 4, seq := 9, rounds := [(0, 1)], merged := [],
    pend := [{ elem := 0, round := 0, port := 0, tick := 1000, val := 5, req := 0, lane := 0 }], openAt := 1000, drained := false }
/-- A command that opened it. -/
def openCmd : HCmd :=
  { slot := 4, seq := 9, ctx := 0, opc := 0, a0 := 0, a1 := 0, a2 := 0, cookie := 0, stage := .accepted, fail := none, inval := none, fault := none }
/-- Window 3 of the device, at tick `n`. -/
def windowState (role : BitVec 2) (isOpen : Bool) (n : Nat) : State :=
  { linkState (List.replicate 4 VChan.reset) 0 { a := 3 } with
    tick := n
    links := { linkUp (List.replicate 4 VChan.reset) 0 with windows := [(3, window role isOpen)] }
    host := { HostIf.reset with cmds := [openCmd] }
    reqs := [{ openReq with kind := .red 0, stage := .sent, home := .window 3, sentN := 1 }] }

theorem witness_windows : ∀ r ∈ [(1 : BitVec 2), 2], let s := windowState r true (1000 + 2 ^ 24)
    nget s.links.windows s.arg.a = some (window r true) ∧ s.arg.c = ngetD (window r true).merged s.arg.b 0 ∧
    (window r true).openAt + 2 ^ 24 ≤ s.tick ∧ (∀ p ∈ (window r true).pend, p.elem = s.arg.b → p.round = s.arg.c → p.tick + 2 ^ 24 ≤ s.tick) ∧
    (∀ p ∈ (window r true).pend, p.tick + 2 ^ 24 - 1 < p.tick + 2 ^ 24) ∧
    ((s.req? 0).map fun q => (q.err, decide (q.ops.length ≤ q.sentN))) = some (none, true) := by
  have h : ([(1 : BitVec 2), 2].all fun r => let s := windowState r true (1000 + 2 ^ 24)
    decide (nget s.links.windows s.arg.a = some (window r true) ∧ s.arg.c = ngetD (window r true).merged s.arg.b 0 ∧
    (window r true).openAt + 2 ^ 24 ≤ s.tick ∧ (∀ p ∈ (window r true).pend, p.elem = s.arg.b → p.round = s.arg.c → p.tick + 2 ^ 24 ≤ s.tick) ∧
    (∀ p ∈ (window r true).pend, p.tick + 2 ^ 24 - 1 < p.tick + 2 ^ 24) ∧
    ((s.req? 0).map fun q => (q.err, decide (q.ops.length ≤ q.sentN))) = some (none, true))) = true := by decide +kernel
  exact fun r hr => of_decide_eq_true (List.all_eq_true.mp h r hr)

/-- The switches' result of round 0 of element 0 on channel 3 of port 0, sound or failed. -/
def mergedState (role : BitVec 2) (fail : Bool) : State :=
  { windowState role true 2000 with
    links := { linkUp (List.replicate 3 VChan.reset ++ [{ VChan.reset with buf := [peerMsg (.merged 0 1 0 0 4 5 fail)] }]) 0 with
      windows := [(3, window role true)] }
    arg := { a := 0 } }

theorem witness_merged : ∀ x ∈ [((1 : BitVec 2), false), (1, true), (2, false), (2, true)], let s := mergedState x.1 x.2
    s.nextMsg s.arg.a 3 = some (peerMsg (.merged 0 1 0 0 4 5 x.2)) ∧ s.windowOf 0 1 0 0 4 = some (3, window x.1 true) ∧
    s.kindling = false ∧ s.linkDown s.arg.a = false ∧ s.mayOp (portAgent s.arg.a) 0 0 = true ∧ s.replaying = false ∧ calm s 0 = true ∧
    s.maySend s.arg.a 1 = true := by
  have h : ([((1 : BitVec 2), false), (1, true), (2, false), (2, true)].all fun x => let s := mergedState x.1 x.2
    decide (s.nextMsg s.arg.a 3 = some (peerMsg (.merged 0 1 0 0 4 5 x.2)) ∧ s.windowOf 0 1 0 0 4 = some (3, window x.1 true) ∧
    s.kindling = false ∧ s.linkDown s.arg.a = false ∧ s.mayOp (portAgent s.arg.a) 0 0 = true ∧ s.replaying = false ∧ calm s 0 = true ∧
    s.maySend s.arg.a 1 = true)) = true := by
    decide +kernel
  exact fun x hx => of_decide_eq_true (List.all_eq_true.mp h x hx)

/-- The home's access to the element: the agent it is recorded under depends on the hash of R17, the access does not. -/
theorem witness_windowHome : let s := mergedState 1 false
    let e := s.ctlEng 0 (portAgent (s.portFor s.devid 0))
    s.mayOp (portAgent (s.portFor s.devid 0)) 0 0 = true ∧ s.replaying = false ∧ isWindow 0x400000 = false ∧
    mapped s e.k e.b false 0x400000 4 0x100000 = true ∧ mapped s e.k e.b true 0x400000 4 0x100000 = true ∧
    (window 1 true).desc.base + BitVec.ofNat 64 (4 * 0) = 0x400000 := by
  refine ⟨?_, ?_, ?_, ?_, ?_, ?_⟩ <;> decide +kernel

/-- A window that waits to open, and one that its home closes. -/
theorem witness_windowAck : ({ window 1 true with closing := true }).isOpen = true ∧ ({ window 1 true with closing := true }).closing = true ∧
    (window 2 false).isOpen = false ∧
    nget (windowState 2 false 1000).links.windows 3 = some (window 2 false) ∧ openCmd ∈ (windowState 2 false 1000).host.cmds ∧
    openCmd.slot = (window 2 false).slot ∧ openCmd.seq = (window 2 false).seq :=
  ⟨rfl, rfl, rfl, by decide +kernel, by simp [windowState], rfl, rfl⟩

/-! #### Resets, bring-up and the calendar -/

/-- A device at a stage, at a tick, with an event's arguments. -/
def devState (stage : BitVec 3) (n : Nat) (a : EvArg) (f : Dev → Dev) : State :=
  { State.reset with dev := f { Dev.reset with stage := stage }, tick := n, arg := a }
/-- A verified image, by whichever key. -/
def anImage : FwImage := { version := 1, svn := 1, entry := 0x1000, digest := 0 }

theorem witness_bringUp :
    ((devState 0 2000000 {} id).dev.stage = 0 ∧ 2000000 ≤ (devState 0 2000000 {} id).tick) ∧
    ((devState 1 0 { b := 16 } id).dev.stage = 1 ∧ (devState 1 0 { b := 16 } id).dev.fw = none ∧ (devState 1 0 { b := 16 } id).arg.a = 0 ∧
      (devState 1 0 { b := 16 } id).arg.b = 16 ∧ (devState 1 0 { b := 16 } id).dev.hostWidth.length = 2) ∧
    ((devState 2 0 {} id).dev.fwBusy = false ∧ (devState 2 0 {} fun d => { d with fwBusy := true }).dev.fwBusy = true ∧
      (devState 2 0 {} id).arg.img = none) ∧
    ((devState 2 0 {} fun d => { d with fw := some anImage }).dev.fw.isSome = true) ∧
    (∀ x ∈ [(({ clusters := 0xFFFFFF, hbm := 0xFFF, ports := 0xFFFFFF, hearth1 := true, caps := [] } : TrainedUnits), true),
        (({} : EvArg).up, false)],
      let s : State := { devState 3 65536 { up := x.1 } id with cal := { Cal.reset with started := [0, 1, 2, 3, 4] } }
      s.dev.stage = 3 ∧ s.cal.nextStart ≤ s.tick ∧ s.cal.frameOver = true ∧ allTrained s.arg.up = x.2) ∧
    (devState 3 0 {} id).tick < (devState 3 0 {} id).cal.nextStart ∧
    ((devState 4 0 { power := .over } id).arg.power = .over ∧ (devState 4 0 { power := .clear } id).arg.power = .clear ∧
      (devState 4 0 { power := .die110 } id).arg.power = .die110) := by decide +kernel

/-- An image without code: header, a key of zeros, a signature of zeros. -/
def image : List Byte :=
  leBytes 4 0x53374657 ++ leBytes 4 7 ++ leBytes 4 0xFFFFFFFF ++ leBytes 4 0 ++ leBytes 8 0x1000 ++ List.replicate (0x800 + 1280 - 24) 0

theorem image_shape : image.length = 0x800 + 1280 ∧ imgNat image 0 4 = 0x53374657 ∧ imgNat image 0x0C 4 = 0 ∧
    imgZero image 0x18 0x40 = true ∧ imgZero image 0x741 0x800 = true ∧ imgNat image 8 4 = 0xFFFFFFFF := by decide +kernel

/-- The image passes its checks where the fuses hold its key's digest and a minimum it meets, and the signature verifies: which fuses
a device has and what Falcon verifies are no part of the model (Config). -/
theorem witness_firmware (hk : BitVec.ofNat 256 (leNat (shake256 ((image.drop 0x40).take 1793) 32)) = Config.fusedKeyDigest)
    (hs : Config.fusedMinSvn ≤ 0xFFFFFFFF)
    (hv : Config.falconVerifies ((image.drop 0x40).take 1793) (BitVec.ofNat 512 (leNat (shake256 (image.take (0x800 + 0)) 64)))
      ((image.drop (0x800 + 0)).take 1280) = true) : fwReasonOf image (0x800 + 1280) = 0 := by
  obtain ⟨-, h0, h1, h2, h3, h4⟩ := image_shape
  unfold fwReasonOf
  simp only [h0, h1, h2, h3, h4]
  rw [if_neg (by decide), if_neg (by decide), if_neg (by simpa using hk), if_neg (by omega), if_neg (by simp [hv])]

/-- The end of the first frame, every slot run, without and with a calendar waiting for the next one. -/
def frameEnd (next : Option Calendar) : State :=
  { State.reset with tick := 65536, cal := { Cal.reset with started := [0, 1, 2, 3, 4], next := next, nextFrame := 1, nextGen := 1 } }

theorem witness_frames : ∀ x ∈ [none, some Calendar.builtIn], (frameEnd x).cal.nextStart ≤ (frameEnd x).tick ∧
    (frameEnd x).cal.frameOver = true ∧ (frameEnd x).cal.nextFrame.toNat ≤ (frameEnd x).cal.nextNumber.toNat := by
  have h : ([none, some Calendar.builtIn].all fun x => decide ((frameEnd x).cal.nextStart ≤ (frameEnd x).tick ∧
    (frameEnd x).cal.frameOver = true ∧ (frameEnd x).cal.nextFrame.toNat ≤ (frameEnd x).cal.nextNumber.toNat)) = true := by
    decide +kernel
  exact fun x hx => of_decide_eq_true (List.all_eq_true.mp h x hx)

/-- A staged calendar being validated: `n` entries of zeros. -/
def staging (n : BitVec 9) (cells : Memory) : State :=
  { State.reset with cal := { Cal.reset with busy := true, count := n }, mem := { Mem.reset with bytes := cells } }

theorem witness_commit : (1 : DWord).getLsbD 0 = true ∧ (staging 1 Memory.empty).cal.busy = true ∧
    ((staging 257 Memory.empty).calReason { entries := [], masks := [] }) = some (2, none) := by decide +kernel

/-- The built-in calendar's bytes at the staging address. -/
def stagedCells : Memory :=
  writeBytes (writeBytes Memory.empty 0 ((Calendar.builtIn.entries.map fun e => leBytes 16 e.toNat).flatten)) 0x1000
    ((Calendar.builtIn.masks.map fun m => leBytes 160 m.toNat).flatten)

/-- Slot 2 of the built-in calendar at its start, nothing in flight and with a copy in flight over its stack. -/
theorem witness_slotStart : let s : State := { State.reset with tick := 32768, arg := { a := 2 } }
    s.cal.cur.entries[s.arg.a]? = some (Calendar.entry 0 512 12 0xFFF 0 false) ∧ s.arg.a ∉ s.cal.started ∧ s.cal.slots = [] ∧
    s.cal.frameStart + 64 * entStart (Calendar.entry 0 512 12 0xFFF 0 false) ≤ s.tick ∧
    s.cmdHolders (Calendar.entry 0 512 12 0xFFF 0 false) = [] ∧ s.kilnHolders (Calendar.entry 0 512 12 0xFFF 0 false) = [] ∧
    0 < kindGive (entKind (Calendar.entry 0 512 12 0xFFF 0 false)) := by decide +kernel

theorem witness_slotHeld : let s : State := { cmdState (cmdOf fillOp 0x400000 16 0x401000 true) with tick := 32768, arg := { a := 2 } }
    s.cmdHolders (Calendar.entry 0 512 12 0xFFF 0 false) ≠ [] := by decide +kernel

theorem witness_slotEnd : let r : SlotRun := { entry := 2, due := 32768, postponed := 0, running := true, untilTick := 33536 }
    let s : State := { State.reset with tick := 33536, cal := { Cal.reset with slots := [r] }, arg := { a := 2 } }
    (s.cal.slots.find? fun r => r.entry == s.arg.a && r.running) = some r ∧ r.untilTick ≤ s.tick := by decide +kernel

/-- The link-calibration slot in progress on a device that follows its pod's reference. -/
theorem witness_pod : let r : SlotRun := { entry := 1, due := 16384, postponed := 0, running := true, untilTick := 16896 }
    let s : State := { State.reset with tick := 16384, cal := { Cal.reset with slots := [r], alignEn := true }, arg := { a := 23 } }
    s.cal.alignEn = true ∧ s.cal.podRef = false ∧ s.arg.a < 24 ∧
    s.slotNow (fun e => entKind e == 1 && (entLinks e).getLsbD s.arg.a) = true := by decide +kernel

theorem witness_calendarSound : (staging 5 stagedCells).calReason (staging 5 stagedCells).staged = none := by decide +kernel

/-! ### Witnesses: the host, contexts and registers (R4, R46, R48, R66 to R72, R83 to R94, R122, R150, R151) -/

/-- The machine at reset with an event's arguments. -/
def argState (a : EvArg) : State := { State.reset with arg := a }
/-- A host access of four bytes over BAR2: a read, a write or an AtomicOp. -/
def hostArg (off : Nat) (write : Bool) (atom : Option HostAtomic) : EvArg :=
  { host := { way := .bar2, off := off, bytes := 4, write := write, data := if atom = some .cas then [0, 0, 0, 0, 1, 2, 3, 4] else [1, 2, 3, 4]
              atom := atom } }

/-- The pieces as plain data. -/
def pieces (s : State) : Option (List (Nat × Nat × Nat)) :=
  (s.hostPieces (s.hostPa s.arg.host) s.arg.host.bytes 0 s.arg.host.bytes).map fun l => l.map fun p => (p.a, p.off, p.n)

theorem pieces_one {s : State} {p : HostPiece} (h : pieces s = some [(p.a, p.off, p.n)]) :
    s.hostPieces (s.hostPa s.arg.host) s.arg.host.bytes 0 s.arg.host.bytes = some [p] := by
  unfold pieces at h
  match e : s.hostPieces (s.hostPa s.arg.host) s.arg.host.bytes 0 s.arg.host.bytes, h with
  | some [q], h => cases q; cases p; simp_all
  | some [], h => simp at h
  | some (_ :: _ :: _), h => simp at h
  | none, h => simp at h

theorem witness_hostAccess : (∀ x ∈ [(false, none), (true, none), (false, some HostAtomic.fetchAdd), (false, some .swap), (false, some .cas)],
      let s := argState (hostArg 0x100000 x.1 x.2)
      s.arg.host.way ≠ .bar4 ∧ s.arg.flag2 = false ∧ s.arg.ecc = .clean ∧ hostValid s.arg.host (s.hostPa s.arg.host) = true ∧
      s.recd.mode = 0 ∧ s.recd.halted = false ∧ s.mem.partials = [] ∧
      pieces s = some [(0x100000, 0, 4)] ∧ s.piecesOpen (s.arg.a % 2) [⟨0x100000, 0, 4⟩] = true ∧ s.poisoned (lineOf 0x100000) = false ∧
      (x.2 ≠ some .cas → s.arg.host.data.length = s.arg.host.bytes) ∧ (x.2 = some .cas → s.arg.host.data.length = 2 * s.arg.host.bytes) ∧
      inCalPage 0x100000 = false ∧ lineIsCap (lineOf 0x100000) = false) ∧
    hostValid (hostArg 2 false (some .swap)).host 2 = false ∧ pieces (argState (hostArg (2 ^ 60) false none)) = none := by
  refine ⟨?_, by decide +kernel, by decide +kernel⟩
  have h : ([(false, none), (true, none), (false, some HostAtomic.fetchAdd), (false, some .swap), (false, some .cas)].all fun x =>
      let s := argState (hostArg 0x100000 x.1 x.2)
      decide (s.arg.host.way ≠ .bar4 ∧ s.arg.flag2 = false ∧ s.arg.ecc = .clean ∧ hostValid s.arg.host (s.hostPa s.arg.host) = true ∧
      s.recd.mode = 0 ∧ s.recd.halted = false ∧ s.mem.partials = [] ∧
      pieces s = some [(0x100000, 0, 4)] ∧ s.piecesOpen (s.arg.a % 2) [⟨0x100000, 0, 4⟩] = true ∧ s.poisoned (lineOf 0x100000) = false ∧
      (x.2 ≠ some .cas → s.arg.host.data.length = s.arg.host.bytes) ∧ (x.2 = some .cas → s.arg.host.data.length = 2 * s.arg.host.bytes) ∧
      inCalPage 0x100000 = false ∧ lineIsCap (lineOf 0x100000) = false)) = true := by decide +kernel
  exact fun x hx => of_decide_eq_true (List.all_eq_true.mp h x hx)

/-- An access over CXL.mem to the capacity tier. -/
theorem witness_hostCapacity :
    let s : State := { argState { host := { (hostArg 0 false none).host with way := .cxlMem } } with
      dev := { Dev.reset with bar2Base := BitVec.ofNat 64 capBase, capUp := 1, capBytes := [4096] } }
    s.arg.host.way = .cxlMem ∧ pieces s = some [(capBase, 0, 4)] ∧ isCapacity capBase = true := by decide +kernel

/-- A read of slot 3's kick page. -/
theorem witness_kickPage : let s := argState { host := { way := .bar4, off := 0x3000, bytes := 4, write := false, data := [] } }
    s.arg.host.way = .bar4 ∧ s.arg.flag2 = false ∧ s.arg.host.off < 0x100000 ∧ s.arg.host.atom = none ∧ s.arg.host.write = false := by
  decide +kernel

theorem witness_hostSnoop : nget [(hostLine 1 8192, [(5 : Byte)])] (hostLine 1 8192) = some [5] := by decide +kernel

/-- A request sent to host link 0, and the attributes of R90 that `atom` gives it. -/
def sentState (r : Req) (atom : BitVec 16) (a : EvArg) : State :=
  { State.reset with reqs := [r], dev := { Dev.reset with hostAtom := atom }, arg := a }
/-- Such a request of kind `k` that has tried `n` times. -/
def hostReq (k : ReqKind) (n : Nat) : Req := { openReq with kind := k, home := .host 0, stage := .sent, tries := n }

theorem witness_hostCompletion :
    (let s := sentState (hostReq .load 0) 0x80 { reply := .ok (List.replicate 128 1) }
     s.req? s.arg.a = some (hostReq .load 0) ∧ s.recd.mode = 0 ∧ s.hostCached (hostReq .load 0) 0 = true) ∧
    (let s := sentState (hostReq .load 0) 0 { reply := .ok [1, 2, 3, 4] }
     s.req? s.arg.a = some (hostReq .load 0) ∧ s.hostCached (hostReq .load 0) 0 = false ∧
       (hostReq .load 0).span.2 - (hostReq .load 0).span.1 = 4) ∧
    (∀ d, (sentState (hostReq .load 0) 0 { reply := .timeout }).arg.reply ≠ .ok d) ∧
    (let s := sentState (hostReq .pref 0) 0x80 { reply := .timeout }
     s.req? s.arg.a = some (hostReq .pref 0) ∧ (hostReq .load 0).kind.isAtomic = false ∧ (hostReq (.atom 0) 0).kind.isAtomic = true ∧
       s.hostCached (hostReq (.atom 0) 0) 0 = true) ∧
    (∀ n ∈ [0, 63, 64], let s := sentState (hostReq (.atom 0) n) 0x10 {}
      s.req? s.arg.a = some (hostReq (.atom 0) n) ∧ s.hostCached (hostReq (.atom 0) n) 0 = false ∧
      s.hostPath 0 false (.atom 0) 4 = some 3 ∧ (hostReq (.atom 0) n).bad = 0 ∧ (hostReq (.atom 0) n).err = none ∧
      (hostReq (.atom 0) n).ops.drop (hostReq (.atom 0) n).got.length = openReq.ops) := by
  refine ⟨by decide +kernel, by decide +kernel, fun d => by simp [sentState], by decide +kernel, ?_⟩
  have h : ([0, 63, 64].all fun n => let s := sentState (hostReq (.atom 0) n) 0x10 {}
      decide (s.req? s.arg.a = some (hostReq (.atom 0) n) ∧ s.hostCached (hostReq (.atom 0) n) 0 = false ∧
      s.hostPath 0 false (.atom 0) 4 = some 3 ∧ (hostReq (.atom 0) n).bad = 0 ∧ (hostReq (.atom 0) n).err = none ∧
      (hostReq (.atom 0) n).ops.drop (hostReq (.atom 0) n).got.length = openReq.ops)) = true := by
    decide +kernel
  exact fun n hn => of_decide_eq_true (List.all_eq_true.mp h n hn)

/-- A walk of context 0 for page 0x400 that waits for an ATS answer, a PRI answer or the tables. -/
def aWalk (ats pri : Bool) : Walk :=
  { id := 0, ctx := 0, page := 0x400, va := 0x400000, kind := .read, site := ⟨0, 0, 0, 0, 0⟩, ats := ats, pri := pri,
    die := 0, tlbs := [0], priv := false, denied := false }
/-- That walk in progress; a chain of tables at 0x1000 to 0x5000 with a leaf of page 0x100000 at its end. -/
def walkState (k : Walk) (root : DWord) (off : BitVec 2) (a : EvArg) : State :=
  { State.reset with
    xl := { Xlate.reset with walks := [k] }
    dev := { Dev.reset with priOff := off }
    host := { HostIf.reset with ctxs := [(0, { Ctx.reset with en := true, root := root })] }
    mem := { Mem.reset with bytes := writeBytes (writeBytes (writeBytes (writeBytes
      (writeBytes Memory.empty 0x1000 (leBytes 8 0x20001)) 0x2000 (leBytes 8 0x30001)) 0x3000 (leBytes 8 0x40001)) 0x4010 (leBytes 8 0x50001)) 0x5000 (leBytes 8 0x100000F) }
    arg := a }

theorem witness_ats : (let s := walkState (aWalk true false) 0 0 { ats := .granted 0x100000 true false }
      (s.xl.walks.find? fun w => w.id == s.arg.a && w.ats && !w.pri && !w.denied) = some (aWalk true false) ∧ grantAllows .read true false = true) ∧
    (∀ off ∈ [(0 : BitVec 2), 1], let s := walkState (aWalk true false) 0 off { ats := .denied }
      (s.xl.walks.find? fun w => w.id == s.arg.a && w.ats && !w.pri && !w.denied) = some (aWalk true false) ∧
      s.dev.priOff.getLsbD (s.ctx 0).link.toNat = off.getLsbD 0 ∧ s.priRoom 0 = true ∧
      ({ s with dev := { s.dev with priAlloc := [0, 512] } } : State).priRoom 0 = false) ∧
    (let s := walkState (aWalk true true) 0 0 {}
     (s.xl.walks.find? fun w => w.id == s.arg.a && w.pri) = some (aWalk true true) ∧ ∀ w ∈ s.xl.walks, w.denied = false) := by
  refine ⟨by decide +kernel, ?_, by decide +kernel⟩
  have h : ([(0 : BitVec 2), 1].all fun off => let s := walkState (aWalk true false) 0 off { ats := .denied }
      decide ((s.xl.walks.find? fun w => w.id == s.arg.a && w.ats && !w.pri && !w.denied) = some (aWalk true false) ∧
      s.dev.priOff.getLsbD (s.ctx 0).link.toNat = off.getLsbD 0 ∧ s.priRoom 0 = true ∧
      ({ s with dev := { s.dev with priAlloc := [0, 512] } } : State).priRoom 0 = false)) = true := by
    decide +kernel
  exact fun off ho => of_decide_eq_true (List.all_eq_true.mp h off ho)

/-- A walk ends at a leaf, and at none, as tests. -/
def endsAt (x : State × WalkEnd) (l : Leaf) : Bool :=
  match x.2 with
  | .leaf m => decide (m = l)
  | _ => false
/-- See above. -/
def endsMiss (x : State × WalkEnd) : Bool :=
  match x.2 with
  | .miss _ => true
  | _ => false

theorem endsAt_of {x : State × WalkEnd} {l : Leaf} (h : endsAt x l = true) : ∃ t, x = (t, .leaf l) := by
  obtain ⟨t, e⟩ := x
  cases e with
  | leaf m => exact ⟨t, by rw [of_decide_eq_true h]⟩
  | miss _ => cases h
  | wait => cases h

theorem endsMiss_of {x : State × WalkEnd} (h : endsMiss x = true) : ∃ t m, x = (t, .miss m) := by
  obtain ⟨t, e⟩ := x
  cases e with
  | leaf _ => cases h
  | miss m => exact ⟨t, m, rfl⟩
  | wait => cases h

/-- The walk of this test while a refresh slot of every stack is in progress. -/
def heldWalk : State :=
  { walkState (aWalk false false) 0x1000 0 {} with
    cal := { Cal.reset with slots := [{ entry := 2, due := 32768, postponed := 0, running := true, untilTick := 33536 }] } }

theorem heldWalk_held : heldWalk.lineHeld 0 32 = true := by
  have h : heldWalk.stackDown (lineStack 32) = true := by decide +kernel
  have c : lineIsCap 32 = false := by decide +kernel
  simp [State.lineHeld, h, c]

/-- A walk whose table's home serves nothing waits. -/
theorem walkFrom_held {die struck level : Nat} {va : DWord} {s : State} {table a : Nat}
    (h : s.homeOf (table + 8 * (untag va / 2 ^ (3 + 9 * (level + 1)) % 512)) = .ok a) (hl : s.lineHeld die (lineOf a) = true) :
    walkFrom die struck va (level + 1) s table = (s, .wait) := by
  have e : s.walkLevel die struck va (level + 1) table = (s, .inl .wait) := by
    simp only [State.walkLevel, h, hl, if_true]
  simp only [walkFrom, e]

theorem witness_walk : ((walkState (aWalk false false) 0x1000 0 {}).xl.walks.find? fun w => w.id == 0 && !w.ats) =
      some (aWalk false false) ∧
    (∃ t, walk (walkState (aWalk false false) 0x1000 0 {}) 0 0 0 0x400000 = (t, .leaf (leafOf 0x100000F 0))) ∧
    (∃ t m, walk (walkState (aWalk false false) 0x9000 0 {}) 0 0 0 0x400000 = (t, .miss m)) ∧
    ∃ t, walk heldWalk 0 0 0 0x400000 = (t, .wait) := by
  refine ⟨by decide +kernel, endsAt_of (by decide +kernel), endsMiss_of (by decide +kernel), heldWalk, ?_⟩
  exact walkFrom_held (level := 4) (a := 0x1000) (by rfl) heldWalk_held

/-- A context of shared virtual memory, with an invalidation of it in progress. -/
def svmState (a : EvArg) : State :=
  { State.reset with
    host := { HostIf.reset with ctxs := [(3, { Ctx.reset with en := true, svm := true, pasid := 5, invalBusy := true })], cmds := [{ openCmd with inval := some 0 }] }
    xl := { Xlate.reset with invals := [{ id := 0, ctx := 3, base := 0, bytes := 0, upto := 0, byCtx := true, ats := some 1 }] }
    arg := a }

theorem witness_invalidations :
    (let s := svmState { a := 0, v := 5, v3 := 4096 }
     (s.ctx 3).svm = true ∧ (s.ctx 3).link.toNat = s.arg.a % 2 ∧ (s.ctx 3).pasid.toNat = s.arg.v.toNat ∧ 0 < s.arg.v3.toNat) ∧
    (∀ c, c < 64 → ((argState {}).ctx c).svm = false) ∧
    (let s := svmState {}
     ∃ k, (s.xl.invals.find? fun x => x.id == s.arg.a) = some k ∧ s.invalDone k = true ∧ k.byCtx = true ∧ k.ats = some 1 ∧
       (∀ x ∈ s.xl.invals, x.id = k.id) ∧ ∃ h ∈ s.host.cmds, h.inval = some k.id) := by
  refine ⟨by decide +kernel, fun c _ => by rfl, _, rfl, by decide +kernel, rfl, rfl, ?_, ⟨_, List.mem_singleton.mpr rfl, rfl⟩⟩
  intro x hx
  rw [List.mem_singleton.mp hx]

theorem witness_sessions : (argState { spdm := .keyManagement 1 true }).dev.spdmSession = false ∧
    (({ argState { spdm := .keyManagement 1 true } with dev := { Dev.reset with spdmSession := true } } : State)).dev.spdmSession = true ∧
    (1 : Nat) < 2 := by decide +kernel

theorem witness_registers : (argState {}).arg.space = .bar0 ∧ (argState { space := .nuntaok }).arg.space = .nuntaok ∧
    (argState {}).recd.mode = 0 ∧ ({ Recd.reset with mode := 1 } : Recd).mode ≠ 0 ∧
    (let s := argState { v := 1 }
     s.arg.v.getLsbD 0 = !s.mem.cacheReq ∧ s.kindling = false ∧ s.blks = [] ∧ s.cmds = [] ∧ s.colls = [] ∧ s.mem.cacheBusy = false ∧
       s.areasDirect = true) ∧
    ({ plain 4 with arg := { v := 1 } } : State).blks ≠ [] ∧
    ({ argState {} with mem := { Mem.reset with cacheBusy := true } } : State).mem.cacheBusy = true ∧
    (argState {}).reqs = [] := by decide +kernel

/-- Context 0 as `c`, with a fault record and a block of it, and a register write of `v`. -/
def ctxState (c : Ctx) (v : DWord) : State :=
  { plain 4 with
    host := { HostIf.reset with ctxs := [(0, c)] }
    xl := { Xlate.reset with faults := [{ ctx := 0, page := 0x400, fseq := 1, written := true, malf := false, hostpg := false, wpois := false, va := 0x400000, kind := .read, site := ⟨0, 0, 0, 0, 0⟩ }] }
    arg := { v := v } }

theorem witness_contexts :
    (let s := ctxState { Ctx.reset with en := true } 0
     s.arg.a < 64 ∧ (s.ctx s.arg.a).killing = false ∧ (s.ctx s.arg.a).en = true ∧ s.ctxActive s.arg.a = true ∧
       ({ s with blks := [] } : State).ctxActive s.arg.a = false) ∧
    (0x400000000 : DWord).getLsbD 34 = true ∧ (0 : DWord).getLsbD 0 = false ∧ (0 : DWord).getLsbD 34 = false ∧
    ((ctxState Ctx.reset 1).ctx 0).en = false ∧ (1 : DWord).getLsbD 0 = true ∧ (1 : DWord).getLsbD 34 = false ∧
    (let s := ctxState Ctx.reset 1
     (s.xl.faults.find? fun f => f.ctx == 0 && f.written && f.fseq == fld s.arg.v 0 32).isSome = true ∧ s.reqs = []) ∧
    ((ctxState { Ctx.reset with killing := true } 0).ctx 0).killing = true := by decide +kernel

theorem witness_watchdog : let s : State := { machine (latch 0 4 1) (fun b => { b with wdog := 1025 }) id with host := { HostIf.reset with ctxs := [(0, { Ctx.reset with wdog := 1 })] } }
    ((s.blk? s.arg.a s.arg.b).map fun b => (b.info.ctx, b.wdog)) = some (0, 1025) ∧ (s.ctx 0).killing = false ∧ (s.ctx 0).wdog.toNat ≠ 0 ∧
    (s.ctx 0).wdog.toNat * 1024 < 1025 := by decide +kernel

/-- Queue slot 0 as `q`, `n` more slots of its context, and a write of `v` to its registers. -/
def slotState (q : QSlot) (n : Nat) (v : DWord) : State :=
  { State.reset with
    host := { HostIf.reset with slots := (0, q) :: (List.range n).map fun i => (i + 1, { QSlot.reset with en := true }) }
    arg := { b := 4, v := v } }

theorem witness_slots :
    (let s := slotState QSlot.reset 15 1
     (s.slot s.arg.a).en = false ∧ s.arg.v.getLsbD 0 = true ∧ s.enabledSlots (fld s.arg.v 6 6 : BitVec 6).toNat < 16) ∧
    (let s := slotState QSlot.reset 16 1
     16 ≤ s.enabledSlots (fld s.arg.v 6 6 : BitVec 6).toNat) ∧
    (∀ v ∈ [(16 : DWord), 17], let s := slotState { QSlot.reset with en := true } 0 v
     s.arg.a % 4096 = 0 ∧ s.arg.b = 4 ∧ (s.slot 0).en = true ∧
       (decide ((fld s.arg.v 0 32 - (s.slot 0).head : Word).toNat ≤ (s.slot 0).ring) = decide (v = 16))) := by
  refine ⟨by decide +kernel, by decide +kernel, ?_⟩
  have h : ([(16 : DWord), 17].all fun v => let s := slotState { QSlot.reset with en := true } 0 v
     decide (s.arg.a % 4096 = 0 ∧ s.arg.b = 4 ∧ (s.slot 0).en = true ∧
       (decide ((fld s.arg.v 0 32 - (s.slot 0).head : Word).toNat ≤ (s.slot 0).ring) = decide (v = 16)))) = true := by decide +kernel
  exact fun v hv => of_decide_eq_true (List.all_eq_true.mp h v hv)

/-- A halted block, and a write of STEPCTL. -/
def stepState (v : DWord) : State := { machine (latch 0 4 1) (fun b => { b with halted := true }) id with arg := { v := v } }

theorem witness_steps : (∀ v ∈ [(0x800000 : DWord), 0x1000000, 0x200000000], let s := stepState v
      ((s.blk? (fld v 0 8 : BitVec 8).toNat (fld v 8 4 : BitVec 4).toNat).map fun b =>
        (b.halted, (b.thr? (fld v 12 5 : BitVec 5).toNat).isSome)) = some (true, true) ∧
      [v.getLsbD 23, v.getLsbD 24, v.getLsbD 33].filter id = [true]) ∧
    (let s : State := { stepState 0 with stepctl := { StepCtl.reset with active := true } }
     s.stepctl.active = true ∧ s.stepctl.todo = [] ∧ s.stepDrained = true ∧
       ((s.thr? s.stepctl.core.toNat s.stepctl.bctx.toNat s.stepctl.warp.toNat).map fun t => (t.handling, t.trapQ)) = some (none, [])) := by
  refine ⟨?_, by decide +kernel⟩
  have h : ([(0x800000 : DWord), 0x1000000, 0x200000000].all fun v => let s := stepState v
      decide (((s.blk? (fld v 0 8 : BitVec 8).toNat (fld v 8 4 : BitVec 4).toNat).map fun b =>
        (b.halted, (b.thr? (fld v 12 5 : BitVec 5).toNat).isSome)) = some (true, true) ∧
      [v.getLsbD 23, v.getLsbD 24, v.getLsbD 33].filter id = [true])) = true := by decide +kernel
  exact fun v hv => of_decide_eq_true (List.all_eq_true.mp h v hv)

/-! ### Witnesses: host commands, graphs and gangs (R20, R71 to R76, R95 to R121, R286 to R294) -/

/-- The two pages of `paged`, block 0 of core 0, all clusters up at stage 4, the given commands, nodes, bytes and arguments. -/
def graphState (cmds : List HCmd) (nodes : List ArmNode) (cells : Memory) (a : EvArg) : State :=
  let s := paged (plain 4) 0 0
  { s with
    tick := 100
    dev := { Dev.reset with stage := 4, clusterUp := 0xFFFFFF }
    host := { HostIf.reset with cmds := cmds }
    stoker := { Stoker.reset with nodes := nodes, ready := nodes.map fun n => (n.slot, n.seq, n.addr) }
    mem := { s.mem with bytes := cells }
    arg := a }

/-- A queue entry. -/
def entryBytes (opc seq a0 : Nat) : List Byte := leBytes 8 (opc + seq * 2 ^ 32) ++ leBytes 8 a0 ++ leBytes 8 0x77
/-- Slot 0 in device memory with one entry, at HEAD 0. -/
def entryState (bs : List Byte) : State :=
  { State.reset with
    dev := { Dev.reset with stage := 4 }
    host := { HostIf.reset with
      jrnEn := true
      ctxs := [(0, { Ctx.reset with en := true })]
      slots := [(0, { QSlot.reset with en := true, kick := true, loc := true, base := 0x100000, tail := 1 })] }
    mem := { Mem.reset with bytes := writeBytes Memory.empty 0x100000 bs } }

/-- The entry that slot 0 gives satisfies `p`. -/
def entryIs (s : State) (p : QEntry → Bool) : Bool :=
  match s.readEntry (s.slot s.arg.a) with
  | .bytes _ bs => p (qEntry bs)
  | _ => false

theorem entryIs_of {s : State} {p : QEntry → Bool} (h : entryIs s p = true) :
    ∃ t bs, s.readEntry (s.slot s.arg.a) = .bytes t bs ∧ p (qEntry bs) = true := by
  unfold entryIs at h
  split at h
  · exact ⟨_, _, ‹_›, h⟩
  · cases h

/-- An entry whose SEQ is not HEAD, one of an unknown opcode, and TLSIGNAL of timeline 3. -/
theorem witness_entries :
    ((entryState (entryBytes 2 5 3)).serves ((entryState (entryBytes 2 5 3)).slot 0) = true ∧
      ∃ t bs, (entryState (entryBytes 2 5 3)).readEntry ((entryState (entryBytes 2 5 3)).slot 0) = .bytes t bs ∧ decide ((qEntry bs).seq ≠ 0) = true) ∧
    (∃ t bs, (entryState (entryBytes 9 0 3)).readEntry ((entryState (entryBytes 9 0 3)).slot 0) = .bytes t bs ∧
      decide ((qEntry bs).seq = 0 ∧ (qEntry bs).bad 0 = some 1) = true) ∧
    ∃ t bs, (entryState (entryBytes 2 0 3)).readEntry ((entryState (entryBytes 2 0 3)).slot 0) = .bytes t bs ∧
      decide ((qEntry bs).seq = 0 ∧ (qEntry bs).bad 0 = none) = true :=
  ⟨⟨by decide +kernel, entryIs_of (s := entryState (entryBytes 2 5 3)) (p := fun e => decide (e.seq ≠ 0)) (by decide +kernel)⟩,
    entryIs_of (s := entryState (entryBytes 9 0 3)) (p := fun e => decide (e.seq = 0 ∧ e.bad 0 = some 1)) (by decide +kernel),
    entryIs_of (s := entryState (entryBytes 2 0 3)) (p := fun e => decide (e.seq = 0 ∧ e.bad 0 = none)) (by decide +kernel)⟩

/-- A finished command. -/
theorem witness_commandEnds : let h := { openCmd with stage := .finished (some Cause.alignment) }
    let s := graphState [h] [] Memory.empty { a := 4, v := 9 }
    s.hcmd? s.arg.a (s.arg.v.setWidth 32) = some h ∧ s.ctrlRuns = true := by decide +kernel

/-- Command `opc` of slot 4 with its arguments, alone. -/
def hostCmd (opc : BitVec 8) (a0 a1 : DWord) : HCmd := { openCmd with opc := opc, a0 := a0, a1 := a1 }
/-- That command, and the event that names it. -/
def hostCmdState (h : HCmd) (cells : Memory) : State := graphState [h] [] cells { a := 4, v := 9 }

theorem witness_timelineCommands :
    (let h := hostCmd 2 3 7
     (hostCmdState h Memory.empty).cmdTurn? 2 true = some h ∧ (hostCmdState h Memory.empty).mayOp stokerAgent 0 0 = true ∧
       (hostCmdState h Memory.empty).islandDown syncIsland = false) ∧
    (let h := hostCmd 3 3 0
     (hostCmdState h Memory.empty).cmdTurn? 3 false = some h ∧ h.a1.toNat ≤ ((hostCmdState h Memory.empty).timeline h.a0.toNat).toNat) ∧
    (let h := hostCmd 3 3 1
     (hostCmdState h Memory.empty).cmdTurn? 3 false = some h ∧ ((hostCmdState h Memory.empty).timeline h.a0.toNat).toNat < h.a1.toNat) := by decide +kernel

/-- The control cores' access to `n` bytes at `va` in context `ctx`. -/
def stokerMapped (s : State) (write : Bool) (va : DWord) (n pa : Nat) : Bool :=
  mapped s (s.ctlEng 0 stokerAgent).k (s.ctlEng 0 stokerAgent).b write va n pa

theorem witness_marker : let h := hostCmd 4 0x400008 7
    let s := hostCmdState h Memory.empty
    s.cmdTurn? 4 true = some h ∧ s.mayOp stokerAgent 0 0 = true ∧ s.replaying = false ∧ calm s h.ctx = true ∧ h.a0.toNat % 8 = 0 ∧
    isWindow h.a0 = false ∧ stokerMapped s true h.a0 8 0x100008 = true := by decide +kernel

theorem witness_invtlb : let h := hostCmd 5 0x400000 4096
    (hostCmdState h Memory.empty).cmdTurn? 5 false = some h := by decide +kernel

/-- A descriptor of a source window of 16 bytes whose one source is this device. -/
def windowCells : Memory :=
  writeBytes Memory.empty 0x100000 (leBytes 8 (2 + 2 ^ 32) ++ leBytes 8 0x400000 ++ leBytes 8 16 ++ leBytes 8 (2 ^ 16) ++ leBytes 8 0x401000)

/-- What WINOPEN reads satisfies the statement's premises. -/
def opens (s : State) (h : HCmd) : Bool :=
  match s.ctlQuiet h.ctx stokerAgent h.site (ctlRead h.a0 64) 4 with
  | .ok t bs => winZeros bs && (winDesc bs).ok && decide ((winDesc bs).role = 2) &&
    match t.ctlQuiet h.ctx stokerAgent h.site (ctlRead (winDesc bs).srcs (2 * (winDesc bs).nsrc)) 8 with
    | .ok u devs => decide (leNat ((devs.drop (2 * (winDesc bs).rank)).take 2) = s.devid.toNat) && decide (u.devid = s.devid) &&
        (nget u.links.windows h.a1.toNat).isNone
    | _ => false
  | _ => false

theorem opens_of {s : State} {h : HCmd} (p : opens s h = true) : ∃ t bs u devs,
    s.ctlQuiet h.ctx stokerAgent h.site (ctlRead h.a0 64) 4 = .ok t bs ∧ winZeros bs = true ∧ (winDesc bs).ok = true ∧
    t.ctlQuiet h.ctx stokerAgent h.site (ctlRead (winDesc bs).srcs (2 * (winDesc bs).nsrc)) 8 = .ok u devs ∧ (winDesc bs).role = 2 ∧
    leNat ((devs.drop (2 * (winDesc bs).rank)).take 2) = s.devid.toNat ∧ u.devid = s.devid ∧ nget u.links.windows h.a1.toNat = none := by
  unfold opens at p
  split at p
  · rename_i e1
    simp only [Bool.and_eq_true] at p
    obtain ⟨⟨⟨h1, h2⟩, h3⟩, p⟩ := p
    split at p
    · rename_i e2
      simp only [Bool.and_eq_true, decide_eq_true_eq, Option.isNone_iff_eq_none] at p
      exact ⟨_, _, _, _, e1, h1, h2, e2, of_decide_eq_true h3, p.1.1, p.1.2, p.2⟩
    · cases p
  · cases p

theorem witness_winopen : let h := hostCmd 6 0x400000 5
    let s := hostCmdState h windowCells
    s.cmdTurn? 6 true = some h ∧ s.kindling = false ∧ opens s h = true ∧ h ∈ s.host.cmds ∧
    (({ s with dev := { Dev.reset with stage := 3 } } : State)).cmdTurn? 6 true = some h ∧
    (({ s with dev := { Dev.reset with stage := 3 } } : State)).kindling = true := by decide +kernel

/-- A window of each kind: a source's, with a contribution out and with none, and a home's before, while and after it is drained. -/
def someWindows : List Window :=
  [window 2 true, { window 2 true with pend := [] }, window 1 true, { window 1 true with closing := true },
    { window 1 true with closing := true, drained := true }, { window 1 true with closing := true, drained := true, pend := [] }]

theorem witness_winclose : (∀ w ∈ someWindows, let h := hostCmd 7 3 0
      let s : State := { hostCmdState h Memory.empty with links := { Links.reset with windows := [(3, w)] } }
      s.cmdTurn? 7 true = some h ∧ nget s.links.windows h.a0.toNat = some w ∧ w.ctx = h.ctx ∧ w.isOpen = true) ∧
    (window 2 true).desc.role.getLsbD 0 = false ∧ (window 1 true).desc.role.getLsbD 0 = true ∧
    (window 2 true).pend ≠ [] ∧ nget (hostCmdState (hostCmd 7 3 0) Memory.empty).links.windows 3 = none ∧
    (hostCmdState (hostCmd 7 3 0) Memory.empty).cmdTurn? 7 true = some (hostCmd 7 3 0) := by
  refine ⟨?_, by decide +kernel, by decide +kernel, by decide +kernel, by decide +kernel, by decide +kernel⟩
  have h : (someWindows.all fun w => let h := hostCmd 7 3 0
      let s : State := { hostCmdState h Memory.empty with links := { Links.reset with windows := [(3, w)] } }
      decide (s.cmdTurn? 7 true = some h ∧ nget s.links.windows h.a0.toNat = some w ∧ w.ctx = h.ctx ∧ w.isOpen = true)) = true := by
    decide +kernel
  exact fun w hw => of_decide_eq_true (List.all_eq_true.mp h w hw)

/-! #### Graphs -/

/-- A node record's first thirty words, of kind `k` with flags `f` and identity 5: word `i` is `v`, for each `(i, v)` of `l`. -/
def nodeWords (k f : Nat) (l : List (Nat × DWord)) : List DWord :=
  (List.range 30).map fun i => if i = 0 then at64 0 k ||| at64 16 f ||| at64 32 5 else ngetD l i 0
/-- Such a node of command (4, 9), at 0x400100, in a state. -/
def aNode (k f st : Nat) (l : List (Nat × DWord)) : ArmNode :=
  { ArmNode.read openCmd 0x400100 0 [] with words := nodeWords k f l, state := st }

/-- RecordAt, as a test. -/
def recordAt (s : State) (n : ArmNode) (pa : Nat) : Bool :=
  calm s n.ctx && !s.replaying && decide (n.addr.toNat % 256 = 0) && !isWindow n.addr && decide (n.ctx = 0) &&
    stokerMapped s true (n.addr + 0xF0) 16 pa

theorem recordAt_of {s : State} {n : ArmNode} {pa : Nat} (h : recordAt s n pa = true) : Rules.RecordAt s n pa := by
  simp only [recordAt, Bool.and_eq_true, Bool.not_eq_true', decide_eq_true_eq, and_assoc] at h
  obtain ⟨h1, h2, h3, h4, h5, h6⟩ := h
  refine ⟨calm_of h1, h2, h3, h4, ?_⟩
  rw [h5]
  exact mapped_of h6

/-- The list of one node address and that node's record. -/
def graphCells (ws : List DWord) : Memory := writeBytes (writeBytes Memory.empty 0x100000 (leBytes 8 0x400100)) 0x100100 (dwordBytes ws)
/-- RUNGRAPH of that list. -/
def runCmd : HCmd := hostCmd 1 0x400000 1

/-- RUNGRAPH reads a list, and the nodes it reaches satisfy `p`. -/
def arms (s : State) (h : HCmd) (p : State → List ArmNode → Bool) : Bool :=
  match s.ctlQuiet h.ctx stokerAgent (stokerSite h.slot h.seq h.a0) (ctlRead h.a0 (8 * h.a1.toNat)) 20 with
  | .ok t l => match State.readNodes h (2 ^ 37) (dwordsOf h.a1.toNat l) [] t with
    | .nodes u ns => p u ns
    | _ => false
  | _ => false

theorem arms_of {s : State} {h : HCmd} {p : State → List ArmNode → Bool} (q : arms s h p = true) : ∃ t l u ns,
    s.ctlQuiet h.ctx stokerAgent (stokerSite h.slot h.seq h.a0) (ctlRead h.a0 (8 * h.a1.toNat)) 20 = .ok t l ∧
    State.readNodes h (2 ^ 37) (dwordsOf h.a1.toNat l) [] t = .nodes u ns ∧ p u ns = true := by
  unfold arms at q
  split at q
  · rename_i e1
    split at q
    · rename_i e2
      exact ⟨_, _, _, _, e1, e2, q⟩
    · cases q
  · cases q

/-- A SIGNAL node arms; one of kind 9 does not. -/
theorem witness_arms :
    (let s := hostCmdState runCmd (graphCells (nodeWords 6 0 [(13, 7)]))
     s.cmdTurn? 1 false = some runCmd ∧ s.recd.ckBusy = false ∧ arms s runCmd (fun u ns => decide (runCmd ∈ u.host.cmds) &&
       decide (u.armFault runCmd ns = none) && (ns.all fun n => decide (n.slot = 4 ∧ n.seq = 9 ∧ n.ctx = 0) && recordAt u n 0x1001F0) &&
       decide ((ns.map fun n => n.addr).Nodup) && decide (ns.length = 1)) = true) ∧
    (let s := hostCmdState runCmd (graphCells (nodeWords 9 0 []))
     s.cmdTurn? 1 false = some runCmd ∧ arms s runCmd (fun u ns => decide (runCmd ∈ u.host.cmds) &&
       decide (u.armFault runCmd ns = some .reservedField)) = true) := by decide +kernel

/-- The event that names the node. -/
def nodeArg : EvArg := { a := 0x400100, b := 4 }
/-- Nodes alone, the first named. -/
def nodeState (ns : List ArmNode) : State := graphState [] ns Memory.empty nodeArg

theorem witness_reports : (let n := { aNode 6 0 3 [] with outs := [.live], done := 1 }
      (nodeState [n]).argNode = some n ∧ (nodeState [n]).cqFull = false ∧ n.outs = .live :: []) ∧
    (let n := { aNode 2 0 3 [] with placed := 1, done := 1 }
     (nodeState [n]).argNode = some n ∧ n.outs = [] ∧ n.executed = true ∧ n.failed = none) := by decide +kernel

/-- The completion-queue entry of that node. -/
def anEntry (cursor : Nat) : CqEntry := { slot := 4, seq := 9, addr := 0x400100, how := .live, cursor := cursor }
/-- A node whose one successor is `m`, its entry in the completion queue, or with the control core. -/
def forwardState (n m : ArmNode) (cq : Bool) : State :=
  let s := nodeState [n, m]
  { s with stoker := { s.stoker with cq := if cq then [anEntry 0] else [], retireQ := if cq then [] else [anEntry 1] } }
/-- The two nodes; the successor waits for `p` predecessors. -/
def fromNode : ArmNode := { aNode 6 0 3 [(1, 0x10000)] with succ := [0x400200], done := 1 }
def toNode (p : Nat) : ArmNode := { aNode 6 0 1 [] with addr := 0x400200, predLive := p }

theorem witness_forwarding : ∀ p ∈ [1, 2], let s := forwardState fromNode (toNode p) true
    s.stoker.cq = anEntry 0 :: [] ∧ s.stoker.forwarding = true ∧ s.islandDown stokerIsland = false ∧ s.node? 4 0x400100 = some fromNode ∧ fromNode.seq = (anEntry 0).seq ∧
    fromNode.state ≠ 6 ∧ fromNode.state ≠ 7 ∧ (notices fromNode (anEntry 0).how)[(anEntry 0).cursor]? = some (0x400200, true) ∧
    s.node? 4 0x400200 = some (toNode p) ∧ (toNode p).fault = none ∧ (toNode p).kind ≠ 5 ∧ (toNode p).state = 1 ∧
    (toNode p).owe = false ∧ s.colls = [] ∧ recordAt s (toNode p) 0x1002F0 = true ∧ (s.blks.all fun p => p.2.thrs.any fun q => !q.2.exited) = true := by
  have h : ([1, 2].all fun p => let s := forwardState fromNode (toNode p) true
    decide (s.stoker.cq = anEntry 0 :: [] ∧ s.stoker.forwarding = true ∧ s.islandDown stokerIsland = false ∧ s.node? 4 0x400100 = some fromNode ∧ fromNode.seq = (anEntry 0).seq ∧
    fromNode.state ≠ 6 ∧ fromNode.state ≠ 7 ∧ (notices fromNode (anEntry 0).how)[(anEntry 0).cursor]? = some (0x400200, true) ∧
    s.node? 4 0x400200 = some (toNode p) ∧ (toNode p).fault = none ∧ (toNode p).kind ≠ 5 ∧ (toNode p).state = 1 ∧
    (toNode p).owe = false ∧ s.colls = [] ∧ recordAt s (toNode p) 0x1002F0 = true ∧ (s.blks.all fun p => p.2.thrs.any fun q => !q.2.exited) = true)) = true := by
    decide +kernel
  exact fun p hp => of_decide_eq_true (List.all_eq_true.mp h p hp)

/-- A node whose words are still owed, another of its command open. -/
theorem witness_owes : let n := { fromNode with owe := true }
    let s := nodeState [n, toNode 1]
    (s.stoker.nodes.find? fun n => n.owe && n.fault.isNone) = some n ∧ s.ctrlRuns = true ∧ recordAt s n 0x1001F0 = true ∧
    (toNode 1).slot = n.slot ∧ (toNode 1).seq = n.seq ∧ (toNode 1).addr ≠ n.addr ∧ (toNode 1).closed = false ∧
    s.hcmd? n.slot n.seq = none := by decide +kernel

/-- A KERNEL node that raises timeline 0 retires, another node of its command open, and then as the last. -/
def retiring : ArmNode := aNode 1 1 3 [(13, 7)]

theorem witness_retires : (let s := forwardState retiring (toNode 1) false
      s.stoker.retireQ = anEntry 1 :: [] ∧ s.node? 4 0x400100 = some retiring ∧ retiring.closed = false ∧ retiring.fault = none ∧
      (s.stoker.nodes.all fun m => !m.owe) = true ∧ (s.ctrlRuns = true ∧ s.islandDown syncIsland = false) ∧ s.mayOp stokerAgent 0 0 = true ∧ recordAt s retiring 0x1001F0 = true ∧ retiring.sigtl = true ∧
      (∃ m ∈ s.stoker.nodes, m.slot = retiring.slot ∧ m.seq = retiring.seq ∧ m.addr ≠ retiring.addr ∧ m.closed = false)) ∧
    (let s : State := { forwardState retiring { toNode 1 with closed := true } false with host := { HostIf.reset with cmds := [{ runCmd with stage := .dispatched }] } }
     (s.stoker.nodes.all fun m => decide (m.addr = retiring.addr) || m.closed) = true ∧
      s.hcmd? retiring.slot retiring.seq = some { runCmd with stage := .dispatched }) :=
  ⟨⟨by decide +kernel, by decide +kernel, by decide +kernel, by decide +kernel, by decide +kernel, by decide +kernel, by decide +kernel,
    by decide +kernel, by decide +kernel, ⟨toNode 1, by simp [forwardState, nodeState, graphState], by decide +kernel⟩⟩, by decide +kernel⟩

/-- A node that the control core runs. -/
def ccIs (s : State) (n : ArmNode) : Bool := decide (s.ccNode n.kind = some n ∧ s.replaying = false)

theorem witness_control :
    (let n := aNode 4 0 3 [(10, 0x400008)]
     ccIs (nodeState [n]) n && calm (nodeState [n]) 0 && stokerMapped (nodeState [n]) false n.predAddr 8 0x100008 &&
      decide (n.predAddr.toNat % 8 = 0 ∧ isWindow n.predAddr = false)) = true ∧
    (let n := aNode 6 0 2 [(13, 7)]
     ccIs (nodeState [n]) n && recordAt (nodeState [n]) n 0x1001F0) = true ∧
    (let n := aNode 7 0 3 [(13, 7)]
     ccIs (nodeState [n]) n && decide (((nodeState [n]).timeline n.tl).toNat < n.tlVal.toNat)) = true ∧
    (let n := aNode 7 0 3 []
     ccIs (nodeState [n]) n && decide (n.tlVal.toNat ≤ ((nodeState [n]).timeline n.tl).toNat)) = true ∧
    (let n := aNode 8 0 3 [(9, 0x400008), (13, 7)]
     ccIs (nodeState [n]) n && calm (nodeState [n]) 0 && stokerMapped (nodeState [n]) true n.param 8 0x100008 && !n.stored &&
      decide (n.param.toNat % 8 = 0 ∧ isWindow n.param = false)) = true ∧
    (aNode 4 0 3 []).state = 3 := by decide +kernel

/-- A KERNEL node with one input operand of 256 bytes, to be pre-loaded. -/
def preNode : ArmNode := aNode 1 4 2 [(14, 0x400000), (15, 256 + 2 ^ 40)]

/-- Its state, in a frame whose slots are over or before its first. -/
def preState (past : Bool) : State :=
  let s := nodeState [preNode]
  { s with cal := { s.cal with started := if past then List.range 512 else [] } }

/-- The damper admits the pre-load's one segment once the frame's slots are over, and not before. -/
theorem witness_preload : let s := preState true
    s.argNode = some preNode ∧ preNode.preload = true ∧ preNode.kind ≤ 2 ∧ preNode.executed = false ∧ preNode.state = 2 ∧
    preNode.preloads[preNode.preloaded]? = some (0x400000, 256) ∧ s.preloadAdmits preNode 0x400000 256 = true ∧
    (preState false).preloadAdmits preNode 0x400000 256 = false := by decide +kernel

/-- A LOOP of at most three iterations over one node, before iteration `i`, its body's node RETIRED, its back edge live or not. -/
def loopNode (i : Nat) (live : Bool) : ArmNode :=
  { aNode 5 0 3 [(3, 0x400200), (11, 3)] with body := [0x400200], iter := i, backLive := live, backN := 1 }
def bodyNode : ArmNode := { toNode 1 with state := 4, closed := true }

theorem witness_nodeLoops : ∀ e ∈ [(0, false), (1, true), (1, false), (3, true)], let n := loopNode e.1 e.2
    let s := nodeState [n, bodyNode]
    ccIs s n = true ∧ n.predAddr = 0 ∧ n.backLeft = 0 ∧ s.bodyNodes n = [bodyNode] ∧ bodyNode.closed = true ∧ bodyNode.state = 4 ∧
    recordAt s bodyNode 0x1002F0 = true ∧ bodyNode.addr ≠ n.addr ∧ bodyNode.owe = false ∧ n.state = 3 ∧ n.loopMax = 3 := by
  have h : ([(0, false), (1, true), (1, false), (3, true)].all fun e => let n := loopNode e.1 e.2
    let s := nodeState [n, bodyNode]
    decide (ccIs s n = true ∧ n.predAddr = 0 ∧ n.backLeft = 0 ∧ s.bodyNodes n = [bodyNode] ∧ bodyNode.closed = true ∧ bodyNode.state = 4 ∧
    recordAt s bodyNode 0x1002F0 = true ∧ bodyNode.addr ≠ n.addr ∧ bodyNode.owe = false ∧ n.state = 3 ∧ n.loopMax = 3)) = true := by decide +kernel
  exact fun e he => of_decide_eq_true (List.all_eq_true.mp h e he)

/-! #### Gangs -/

/-- A KERNEL node of one block of one warp, a COPY node, a COLL node, each READY. -/
def kernelNode : ArmNode := aNode 1 0 2 [(3, 0x400000), (6, 0x100000001), (7, 0x401 + 16)]
def copyNode : ArmNode := aNode 2 0 2 [(5, 0x400000)]
def collectNode : ArmNode := aNode 3 0 2 [(9, 0x400000)]
/-- Cores 1 to 7 are fenced, so core 0 is the one able core of cluster 0. -/
def oneCore (n : ArmNode) : State := { nodeState [n] with mem := { (nodeState [n]).mem with fencedCores := [1, 2, 3, 4, 5, 6, 7] } }

theorem pick_one (s : State) (n : ArmNode) (a : Nat) (h : n.bpg = 1) : s.pickCores n [a] = [a] := by
  simp [State.pickCores, h, Nat.mod_one]

/-- Where the KERNEL node goes. -/
def oneSpot : Spot := { cluster := 0, cores := [0], banks := [[]], switch := [], accs := [none] }

theorem kernel_spot : (oneCore kernelNode).kernelSpot kernelNode = some oneSpot := by
  have able : ((oneCore kernelNode).coresOf 0).filter ((oneCore kernelNode).coreFits kernelNode) = [0] := by decide +kernel
  have first : kernelNode.clusters = 0 :: (List.range 23).map (· + 1) := by decide +kernel
  have spot : (oneCore kernelNode).clusterSpot kernelNode ((oneCore kernelNode).pickCores kernelNode) 0 = some oneSpot := by
    unfold State.clusterSpot
    rw [able, pick_one _ _ _ (by decide +kernel)]
    rfl
  unfold State.kernelSpot
  rw [first, List.findSome?_cons, spot]

theorem witness_gangDispatch : (let s := oneCore kernelNode
      s.replaying = false ∧ s.reqs = [] ∧ recordAt s kernelNode 0x1001F0 = true ∧ kernelNode ∈ s.stoker.nodes ∧
      s.dispatchOpen s.stoker.kern = true ∧ kernelNode.kind = 1 ∧ oneSpot.cores.Nodup ∧ (s.freeCtx 0).isSome = true) ∧
    (oneCore kernelNode).banksBack = oneCore kernelNode ∧
    ∃ d, (oneCore kernelNode).choose (oneCore kernelNode).stoker.kern (((oneCore kernelNode).readyNodes 1).filterMap fun n =>
      ((oneCore kernelNode).kernelSpot n).map fun x => (n, x)) = some (kernelNode, oneSpot, d) := by
  refine ⟨by decide +kernel, rfl, ?_⟩
  have ready : (oneCore kernelNode).readyNodes 1 = [kernelNode] := by decide +kernel
  rw [ready, List.filterMap_cons, kernel_spot]
  exact ⟨_, rfl⟩

/-- Where the COPY node goes. -/
def copySpot : Spot := { cluster := 0, cores := [0], banks := [], switch := [], accs := [some 8] }

theorem witness_copyDispatch : (let s := nodeState [copyNode]
      s.replaying = false ∧ s.reqs = [] ∧ recordAt s copyNode 0x1001F0 = true ∧ copyNode ∈ s.stoker.nodes ∧
      s.dispatchOpen s.stoker.copy = true ∧ copyNode.kind = 2 ∧ copySpot.cores.Nodup ∧ (s.freeCtx 0).isSome = true) ∧
    ∃ d, (nodeState [copyNode]).choose (nodeState [copyNode]).stoker.copy (((nodeState [copyNode]).readyNodes 2).filterMap fun n =>
      ((nodeState [copyNode]).copySpot n).map fun x => (n, x)) = some (copyNode, copySpot, d) := by
  refine ⟨by decide +kernel, ?_⟩
  have ready : (nodeState [copyNode]).readyNodes 2 = [copyNode] := by decide +kernel
  have spot : (nodeState [copyNode]).copySpot copyNode = some copySpot := by rfl
  rw [ready, List.filterMap_cons, spot]
  exact ⟨_, rfl⟩

theorem witness_collDispatch : (let s := nodeState [collectNode]
      s.replaying = false ∧ s.reqs = [] ∧ recordAt s collectNode 0x1001F0 = true ∧ collectNode ∈ s.stoker.nodes ∧
      s.dispatchOpen s.stoker.coll = true ∧ collectNode.kind = 3) ∧
    ∃ d, (nodeState [collectNode]).choose (nodeState [collectNode]).stoker.coll (((nodeState [collectNode]).readyNodes 3).filterMap fun n =>
      some (n, (nodeState [collectNode]).collEngine)) = some (collectNode, (nodeState [collectNode]).collEngine, d) := by
  refine ⟨by decide +kernel, ?_⟩
  have ready : (nodeState [collectNode]).readyNodes 3 = [collectNode] := by decide +kernel
  rw [ready, List.filterMap_cons]
  exact ⟨_, rfl⟩

/-- A gang of the one block. -/
def aGang (res : Bool) : Gang :=
  { id := 0, slot := 0, seq := 0, ctx := 0, node := 0, index := 0, cluster := 0, members := [(0, 0)], resident := res, since := 0, blockedAt := 0 }
/-- The block in a standing, its gang, and `f`. -/
def gangState (st : BlkStat) (res : Bool) (cells : Memory) : State :=
  let s := machine (latch 0 4 1) (fun b => { b with stat := st }) id
  { s with
    stoker := { Stoker.reset with gangs := [aGang res] }
    mem := { s.mem with bytes := cells }
    host := { HostIf.reset with ctxs := [(0, { Ctx.reset with en := true, vec := 0x400000 })] } }

theorem witness_residency : let s := gangState .admitted false Memory.empty
    s.recd.halted = false ∧ s.mem.fencedCores = [] ∧ s.mem.fencedBanks = [] ∧ s.nextIn [] (s.waiters s.arg.a) = some (aGang false) ∧
    ((aGang false).members.all fun m => decide (m.2 < 16)) = true ∧ s.newGang (aGang false) = true := by decide +kernel

theorem witness_park : let s := gangState (.parking 0) true Memory.empty
    ofBlock s (fun b => decide (s.parkWhy 0 0 b = some 0) && s.drained b &&
      decide ((s.stoker.gangs.find? fun g => g.id == b.info.gangId) = some (aGang true)) &&
        b.thrs.all fun p => p.2.tagRec.isNone) = true ∧ s.replaying = false := by decide +kernel

/-- The header of that block's image. -/
def imageCells : Memory :=
  writeBytes (writeBytes (writeBytes Memory.empty (imageBase 0 0) (leBytes 4 0x53374349 ++ leBytes 2 1)) (imageBase 0 0 + 0x15)
    (leBytes 1 1 ++ leBytes 1 1)) (imageBase 0 0 + 0x18)
    (leBytes 2 placeInfo.sliceRows ++ leBytes 2 128 ++ leBytes 4 0 ++ leBytes 4 0 ++ leBytes 4 0 ++ leBytes 8 placeInfo.imgBytes)

/-- A test that a change of the elements does not touch. -/
theorem all_mapIdx {α : Type} (l : List α) (g : Nat → α → α) (p : α → Bool) (h : ∀ i x, p (g i x) = p x) : (l.mapIdx g).all p = l.all p := by
  induction l generalizing g with
  | nil => rfl
  | cons a l ih => rw [List.mapIdx_cons, List.all_cons, List.all_cons, h, ih (fun i => g (i + 1)) fun i => h (i + 1)]

/-- Whether a block's faults are answered does not hang on what its image gives it. -/
theorem answered_img (s : State) (core bctx : Nat) (b : Blk) : s.answered core (s.imgBlk core bctx b) = s.answered core b := by
  simp only [State.answered, State.imgBlk, List.all_map]
  congr 1
  refine congrArg (fun f => b.thrs.all f) (funext fun p => ?_)
  simp only [Function.comp]
  split_ifs
  · simp only [State.imgWarp]
    split_ifs
    · rfl
    · exact all_mapIdx _ _ _ fun _ _ => rfl
  · simp only [State.imgMatrix, List.all_map]
    refine congrArg (fun f => p.2.lanes.all f) (funext fun l => ?_)
    simp only [Function.comp]
    split_ifs <;> rfl
  · rfl

theorem witness_restore : (let s := gangState .restorable true imageCells
      ofBlock s (fun b => s.imgMatches 0 0 b.info && !s.owed b && !b.info.isCopy && decide (b.stat = .restorable)) = true ∧
      ofBlock s (fun b => s.answered 0 b && (s.imgBlk 0 0 b).thrs.all fun p => decide (p.1 < 32) || p.2.trapQ.isEmpty) = true ∧
      s.recd.halted = false ∧ (s.ctx 0).vec ≠ 0) ∧
    (let s := gangState .restorable true Memory.empty
     ofBlock s (fun b => !s.imgMatches 0 0 b.info) = true ∧ (s.ctx 0).killing = false) := by decide +kernel

/-- The take-over event: an error (`b` = 0), or the new core's steps (1). -/
def takeState (x forwarding : Bool) (b : Nat) : State :=
  { State.reset with
    dev := { Dev.reset with stage := 4, standby := x }
    stoker := { Stoker.reset with forwarding := forwarding }
    host := { HostIf.reset with slots := [(0, { QSlot.reset with en := true, ctx := 1 }), (1, QSlot.reset)] }
    arg := { b := b } }

theorem witness_takeover :
    (∀ x ∈ [false, true], let s := takeState x true 0
      1 ≤ s.dev.stage.toNat ∧ s.dev.stage.toNat ≤ 4 ∧ s.arg.b ≠ 1 ∧ s.dev.standby = x) ∧
    (let s := takeState false false 1
     1 ≤ s.dev.stage.toNat ∧ s.dev.stage.toNat ≤ 4 ∧ s.arg.b = 1 ∧ s.stoker.forwarding = false ∧ s.repairSlots.isSome = true) ∧
    (takeState false true 1).stoker.forwarding = true := by
  have h : ([false, true].all fun x => let s := takeState x true 0
    decide (1 ≤ s.dev.stage.toNat ∧ s.dev.stage.toNat ≤ 4 ∧ s.arg.b ≠ 1 ∧ s.dev.standby = x)) = true := by decide +kernel
  exact ⟨fun x hx => of_decide_eq_true (List.all_eq_true.mp h x hx), by decide +kernel, by decide +kernel⟩

/-! ### Witnesses: recording, replay and the trace (R122 to R151) -/

/-- The recorder's registers as `f` makes them, and a write of `v` to RECCTL. -/
def logState (v : DWord) (f : Recd → Recd) : State :=
  { State.reset with recd := f { Recd.reset with ashBase := 0x1000000, ckBase := 0x2000000 }, arg := { v := v } }

theorem idle_of {s : State} (h : ((List.range 64).all fun c => !s.ctxActive c) = true) : ∀ c, c < 64 → s.ctxActive c = false := by
  intro c hc
  simpa using List.all_eq_true.mp h c (List.mem_range.mpr hc)

theorem witness_modes :
    (let s := logState 0 fun r => { r with mode := 1 }
     (fld s.arg.v 0 2 : BitVec 2) = 0 ∧ s.recd.mode ≠ 0 ∧ s.reqs = [] ∧ ((List.range 64).all fun c => !s.ctxActive c) = true) ∧
    (let s : State := { logState 0 (fun r => { r with mode := 1 }) with blks := (plain 4).blks }
     s.ctxActive 0 = true ∧ s.recd.diverged = false) ∧
    (let s := logState 1 id
     (fld s.arg.v 0 2 : BitVec 2) = 1 ∧ s.recd.mode = 0 ∧ s.areasOk = true) ∧
    (let s := logState 1 fun r => { r with ckBase := 0x900000000000 }
     s.areasOk = false) ∧
    (let s := logState 2 id
     (fld s.arg.v 0 2 : BitVec 2) = 2 ∧ s.recd.mode = 0 ∧ s.areasOk = true) ∧
    (let s := logState 0x11 fun r => { r with mode := 1 }
     (fld s.arg.v 0 2 : BitVec 2) = s.recd.mode ∧ s.arg.v.getLsbD 4 = true) ∧
    (let s := logState 0x22 fun r => { r with mode := 2, halted := true }
     (fld s.arg.v 0 2 : BitVec 2) = s.recd.mode ∧ s.arg.v.getLsbD 5 = true) ∧
    (let s := logState 0 fun r => { r with mode := 1, ckBusy := true }
     s.recd.ckBusy = true ∧ s.stoker.forwarding = true ∧ s.stoker.nodes = []) := by decide +kernel

/-- Recording, with an open chunk of agent 0 and a full page of source 0, at a tick. -/
def recordState (n : Nat) : State :=
  { logState 0 (fun r => { r with
      mode := 1
      agents := [(0, { Agent.empty 3 with ops := 2 })]
      pages := [(0, { pseq := 0, start := 0, data := [], full := [[1, 2]] })] }) with tick := n, arg := { v := 3 } }

theorem witness_chunks : let s := recordState 65536
    s.recording = true ∧ 0 < (s.agent s.arg.a).ops ∧ (s.agent s.arg.a).lastOp + 65536 ≤ s.tick ∧
    (s.agent s.arg.a).cseq = s.arg.v.toNat ∧ s.recd.policy = false ∧ s.reqs = [] ∧
    ((nget s.recd.pages s.arg.a).map fun p => p.full) = some [[1, 2]] := by decide +kernel

/-- A log of one chunk of agent `k` that holds the message entry `e`, and its payloads. -/
def replayOf (k : Nat) (e : DWord) (pay : List (Nat × Nat × Nat × List Byte)) (a : EvArg) (reqs : List Req) : State :=
  { logState 0 (fun r => { r with
      mode := 2
      log := [{ agent := k, cseq := 0, close := 0, len := 1, fold := 0, runs := [], msgs := [e], stamps := [] }]
      payloads := pay }) with tick := 2 ^ 24, arg := a, reqs := reqs, mem := { Mem.reset with bytes := writeBytes Memory.empty 0 [4] } }

theorem witness_replayStall : let s := replayOf 384 0 [] {} []
    s.replaying = true ∧ s.recd.halted = false ∧ s.logDone = false ∧ s.recd.lastProgress + 2 ^ 24 ≤ s.tick := by decide +kernel

/-- The answer of device 2 to request 0's lane 0. -/
def anAnswer : PeerMsg := peerMsg (.answer [0] false false)
/-- That request, waiting. -/
def sentReq : Req := { openReq with stage := .sent, home := .peer 2 }
/-- Its entry in the log. -/
def answerEntry : DWord := anAnswer.entry 1

theorem witness_replayMessage : (∀ pay ∈ [[], [(384, 0, 2, [5, 0, 0, 0])]],
      let s := replayOf (portAgent 0) answerEntry pay { msg := some anAnswer } [sentReq]
      s.replaying = true ∧ s.arg.a < 24 ∧ s.mayOp (portAgent s.arg.a) 0 0 = true ∧ s.dueEntry s.arg.a = some answerEntry ∧
      s.inRepset (fld answerEntry 0 16) = true ∧ s.nextMsg 0 0 = none ∧ s.nextMsg 0 1 = none ∧ s.nextMsg 0 2 = none ∧
      (s.agent (portAgent s.arg.a)).lastOp + 2 ^ 24 ≤ s.tick ∧
      s.payloadOf (portAgent s.arg.a) (fld answerEntry 32 32 : BitVec 32).toNat (fld answerEntry 0 16 : BitVec 16).toNat =
        (if pay.isEmpty then none else some [5, 0, 0, 0]) ∧
      s.arg.msg = some anAnswer ∧ anAnswer.op = .answer [0] false false ∧
      ({ anAnswer with op := anAnswer.op.withPayload [5, 0, 0, 0] } : PeerMsg).entry (vcOf anAnswer.op) = answerEntry ∧
      s.req? (anAnswer.tag / 32) = some sentReq) ∧
    sentReq.stage = .sent ∧ sentReq.ops.map (fun o => o.lane) = [anAnswer.tag % 32] ∧ sentReq.got = [] ∧ sentReq.sgn = false := by
  refine ⟨?_, by decide +kernel⟩
  have h : ([[], [(384, 0, 2, [5, 0, 0, 0])]].all fun pay =>
      let s := replayOf (portAgent 0) answerEntry pay { msg := some anAnswer } [sentReq]
      decide (s.replaying = true ∧ s.arg.a < 24 ∧ s.mayOp (portAgent s.arg.a) 0 0 = true ∧ s.dueEntry s.arg.a = some answerEntry ∧
      s.inRepset (fld answerEntry 0 16) = true ∧ s.nextMsg 0 0 = none ∧ s.nextMsg 0 1 = none ∧ s.nextMsg 0 2 = none ∧
      (s.agent (portAgent s.arg.a)).lastOp + 2 ^ 24 ≤ s.tick ∧
      s.payloadOf (portAgent s.arg.a) (fld answerEntry 32 32 : BitVec 32).toNat (fld answerEntry 0 16 : BitVec 16).toNat =
        (if pay.isEmpty then none else some [5, 0, 0, 0]) ∧
      s.arg.msg = some anAnswer ∧ anAnswer.op = .answer [0] false false ∧
      ({ anAnswer with op := anAnswer.op.withPayload [5, 0, 0, 0] } : PeerMsg).entry (vcOf anAnswer.op) = answerEntry ∧
      s.req? (anAnswer.tag / 32) = some sentReq)) = true := by decide +kernel
  exact fun pay hp => of_decide_eq_true (List.all_eq_true.mp h pay hp)

/-- A host write of four bytes due from the log. -/
def payloadState (pay : List (Nat × Nat × Nat × List Byte)) : State :=
  replayOf hostAgent 0 pay { hostArg 0x100000 true none with a := 448 } []

theorem witness_replayPayload : (∀ pay ∈ [[], [(448, 0, 65535, [5, 6, 7, 8])]], let s := payloadState pay
      s.arg.a = hostAgent ∧ s.mayOp hostAgent 0 0 = true ∧
      s.payloadOf hostAgent s.recd.hostSeq.toNat 0xFFFF = (if pay.isEmpty then none else some [5, 6, 7, 8]) ∧
      s.piecesOpen (s.arg.b % 2) [⟨0x100000, 0, 4⟩] = true ∧ inCalPage 0x100000 = false ∧ lineIsCap (lineOf 0x100000) = false ∧ s.mem.partials = []) ∧
    (payloadState []).hostPieces ((payloadState []).hostPa (payloadState []).arg.host) 4 0 4 = some [⟨0x100000, 0, 4⟩] := by
  refine ⟨?_, pieces_one (s := payloadState []) (by decide +kernel)⟩
  have h : ([[], [(448, 0, 65535, [5, 6, 7, 8])]].all fun pay => let s := payloadState pay
      decide (s.arg.a = hostAgent ∧ s.mayOp hostAgent 0 0 = true ∧
      s.payloadOf hostAgent s.recd.hostSeq.toNat 0xFFFF = (if pay.isEmpty then none else some [5, 6, 7, 8]) ∧
      s.piecesOpen (s.arg.b % 2) [⟨0x100000, 0, 4⟩] = true ∧ inCalPage 0x100000 = false ∧ lineIsCap (lineOf 0x100000) = false ∧
      s.mem.partials = [])) = true := by decide +kernel
  exact fun pay hp => of_decide_eq_true (List.all_eq_true.mp h pay hp)

theorem witness_trace : let s : State := { State.reset with tick := 1024, trace := { Trace.reset with en := true, sampEn := true } }
    s.latchDue = true ∧ s.sampleDue = true := by decide +kernel

/-! ### Witnesses: encodings, steps and invariants (R78, R177, R178, R295 to R309) -/

/-- Well-formed words of every class, and NOP and REP in a class that is not theirs. -/
theorem witness_encode : [Instr.mov { lw with sb := 0x80 }, .fadd lw, .exit 0, .nop 0].all (fun i => i.wf) = true ∧
    (Instr.fadd lw).cls = 1 ∧ (∃ z, Instr.nop 0 = .nop z) := by
  exact ⟨by decide +kernel, rfl, 0, rfl⟩

theorem witness_decodeRaw : decodeRaw 0 [0x0040212E, 7] = .ok (.sel { lw with vd := 4 }, 1) := by rfl

/-- What StepRunsItsInstruction asks of a state whose party in focus is about to issue, as a test; `p` judges what decoding gives. -/
def stepsWord (s : State) (p : State → Cur → Except Reject (Instr × Nat) → Bool) : Bool :=
  let s0 : State := { s.passTick with cycle := none }
  s.onTick.isNone && s0.inputs.isEmpty && s.partner.isNone &&
  match s0.focus with
  | none => false
  | some (core, bctx, w) => (s0.thr? core bctx w).isSome && match s0.enter core bctx w with
    | (_, false) => false
    | (s1, true) => match s1.latch core bctx w with
      | none => false
      | some (c, d) => match s1.blk? c.core c.bctx with
        | none => false
        | some b => match b.thr? c.w with
          | none => false
          | some t => !overlong t c.w c.lanes c.pc c.next && p s1 c d

/-- A word that decodes and runs to a next state. -/
def runsWord (s1 : State) (c : Cur) (d : Except Reject (Instr × Nat)) : Bool :=
  match d with
  | .ok (i, _) => match exec i { s1 with cur := some c } with
    | .next _ => true
    | _ => false
  | .error _ => false

/-- SEL runs as the first instruction; a word of a reserved opcode of class 0 does not decode. -/
theorem witness_steps_word : stepsWord (State.reset.placeWord 32 0x0040212E) runsWord = true ∧
    stepsWord ({ State.reset.placeWord 32 0x0040212E with mem := { Mem.reset with bytes := writeBytes Memory.empty placePa (placeBytes 0 [0x0000003E]) } } : State)
      (fun _ _ d => match d with
        | .error (.reservedOpcode 0 0x3E) => true
        | _ => false) = true := by
  constructor <;> decide +kernel

/-- SEL in replay. -/
theorem witness_steps_replay : stepsWord ({ State.reset.placeWord 32 0x0040212E with recd := { Recd.reset with mode := 2 } } : State)
    (fun s1 c d => s1.replaying && runsWord s1 c d) = true := by decide +kernel

/-- A clause whose second word is its last, and one whose second word is a REP's, at its second repetition. -/
def twoWords (rep : Bool) : Clause :=
  { hdrAt := 0x400000, hdr := if rep then 0xB4018012 else 0xB4018002, words := [if rep then 0x000050FF else 0x004028EB, 0x0040212E],
    rep := if rep then 1 else 0 }
/-- A party within a clause, before word `n` of it. -/
def midClause (cls n : Nat) (k : Clause) : State :=
  machine (latch 0 cls 0xFFFFFFFF) id fun t => { t with lanes := t.lanes.map fun l => { l with
    pc := 0x400004 + BitVec.ofNat 64 (4 * n), clause := some k } }

theorem witness_latch : ∀ rep ∈ [false, true], let k := twoWords rep
    (((midClause 0 1 k).thr? 0 0 0).map fun t => ((t.lane t.lastLane).clause, (t.lane t.lastLane).pc)) = some (some k, 0x400008) ∧
    (0x400008 : DWord).toNat = k.hdrAt.toNat + 4 * (1 + 1) ∧
    ((clauseUnits (hdrClass k.hdr) k.words).find? fun u => u.2.2 && u.1 + u.2.1 == 1).isSome = rep := by decide +kernel

/-- A block's warp before SMOV, in the cycle in which its access stream has written s9. -/
def cycleState : State :=
  { State.reset.placeWord 32 0x0040212E with
    mem := { Mem.reset with bytes := writeBytes Memory.empty placePa (placeBytes 4
      (encode (.smov { sd := 9, sa := 10, sb := 0, ea := false, eb := false, lit := 0 }))) }
    cycle := some { core := 0, bctx := 0, adm := 0, s := [], q := 0, wrote := [(33, .s 9)] } }

/-- What StepRunsItsInstruction asks of a second party of a cycle, once it is that party, as a test. -/
def stepsSecond (s : State) (k : Cycle) (w : Nat) : Bool :=
  let s0 : State := { s.passTick with cycle := none }
  s.onTick.isNone && s0.inputs.isEmpty && match s0.thr? k.core k.bctx w, s0.enter k.core k.bctx w with
  | some pre, (s1, true) => match s1.latch k.core k.bctx w, s1.blk? k.core k.bctx with
    | some (c, .ok (i, n)), some b => decide (uniDst i = some (.s 9)) &&
      match issueLatched c (.ok (i, n)) pre (s1.setBlk k.core k.bctx { b with s := k.s, q := k.q }) with
      | .next u => (u.thr? k.core k.bctx w).any (c.issued ((b.thr? w).getD pre)) && (u.blk? k.core k.bctx).isSome
      | _ => false
    | _, _ => false
  | _, _ => false

/-- Whether a second party issues, and which, is the schedulers' choice: here, where the choice falls on the warp. -/
theorem witness_cycle (h : Config.choice cycleState.tick % 3 = 1) : ∃ k, cycleState.partner = some (k, 0) ∧ stepsSecond cycleState k 0 = true := by
  refine ⟨{ core := 0, bctx := 0, adm := 0, s := [], q := 0, wrote := [(33, .s 9)] }, ?_, by decide +kernel⟩
  have e : cycleState.blk? 0 0 = some ((cycleState.blk? 0 0).get (by decide +kernel)) := by simp
  have a : ((cycleState.blk? 0 0).get (by decide +kernel)).adm = 0 := by decide +kernel
  have l : (((cycleState.blk? 0 0).get (by decide +kernel)).thrs.map fun p => p.1).filter
      (fun w => [(33, UniReg.s 9)].all fun x => schedOf x.1 != schedOf w) = [0, 32] := by decide +kernel
  unfold State.partner
  simp only [show cycleState.cycle = some { core := 0, bctx := 0, adm := 0, s := [], q := 0, wrote := [(33, .s 9)] } from rfl,
    Option.bind_some]
  rw [e, Option.bind_some]
  simp only [a, if_true, l]
  rw [show ([0, 32] : List Nat).length + 1 = 3 from rfl, h]
  rfl

/-- The placed clause is fetched. -/
def fetches (s : State) : Bool :=
  match s.blk? 0 0 with
  | none => false
  | some b => match b.thr? 0 with
    | none => false
    | some t => match s.fetchClause { latch 0 0 0xFFFFFFFF with pc := placeVa } b t with
      | .ok _ k => decide (k.hdrAt = placeVa) && decide (0 < k.words.length)
      | _ => false

theorem witness_fetch : fetches (State.reset.placeWord 32 0x0040212E) = true := by decide +kernel

/-- An event brought from outside, and the trace's latch due at its tick. -/
theorem witness_steps_event : (let s : State := { State.reset with inputs := [(.ctxctlKill, { a := 3 })] }
      s.onTick = none ∧ s.passTick.inputs = (.ctxctlKill, { a := 3 }) :: []) ∧
    (let s : State := { State.reset with tick := 1024, trace := { Trace.reset with en := true } }
     s.onTick = some .traceSeriesLatch) := by decide +kernel

theorem witness_blockStarts : (∃ t, block.thr? 0 = some t) ∧ (∃ t, block.thr? 32 = some t) ∧ placeInfo.isCopy = false ∧
    ({ placeInfo with isCopy := true } : NodeInfo).isCopy = true ∧ 0 < placeInfo.poolRows := ⟨⟨_, rfl⟩, ⟨_, rfl⟩, rfl, rfl, by decide⟩

theorem witness_predicates : (block.thr? 0).map (fun t => t.preds.length) = some 7 := by decide +kernel

theorem witness_addresses : (0x1000000000000000 : DWord).getLsbD 60 ≠ (0x1000000000000000 : DWord).getLsbD 63 ∧
    ({ kind := .load, ak := .read, bytes := 4, space := 0, tagged := false } : MemForm).narrow = false ∧
    ∀ i, i < 64 → (i < 56 ∨ i = 63) → (0x0500000000400000 : DWord).getLsbD i = (0x0000000000400000 : DWord).getLsbD i := by
  refine ⟨by decide, by decide, ?_⟩
  decide +kernel

/-- A little-endian number in the range that MemoryReadAfterWrite speaks of. -/
theorem witness_littleEndian : (0x11223344 : Nat) < 256 ^ 4 := by decide

/-- Reset is a state of the invariants' premises, and from the placed word a step leads on. -/
theorem witness_invariants : Memory.wf State.reset.mem.bytes = true ∧ State.reset.inputs = [] ∧
    (match step (State.reset.placeWord 32 0x0040212E) with
      | .next t => Memory.wf t.mem.bytes
      | _ => false) = true := by
  refine ⟨by decide +kernel, rfl, by decide +kernel⟩

theorem witness_shaped : Rules.Shaped (plain 0) := by
  have h : ((plain 0).links.ports.all fun p => decide (p.vcs.length = 4)) = true := by decide +kernel
  have k : ((plain 0).blks.all fun b => decide (b.2.bars.length = 16) && b.2.thrs.all fun t =>
      decide (t.2.preds.length = 7 ∧ t.2.loops.length = 3 ∧ t.2.tscr.length = 4 ∧ t.2.lanes.length ≤ 32)) = true := by decide +kernel
  refine ⟨by decide +kernel, fun p hp => of_decide_eq_true (List.all_eq_true.mp h p hp), by decide +kernel, by decide +kernel, ?_⟩
  intro b hb
  have q := List.all_eq_true.mp k b hb
  simp only [Bool.and_eq_true, decide_eq_true_eq] at q
  exact ⟨q.1, fun t ht => of_decide_eq_true (List.all_eq_true.mp q.2 t ht)⟩

/-- A word, and an event, of EveryStepGoesOn. -/
theorem witness_goesOn : (Instr.ctxctlKill).isWord = false ∧ (∃ c b t, Issues (plain 0) c b t ∧ c.cls = 0) ∧
    ∀ p ∈ ({ State.reset with inputs := [(.ctxctlKill, {})] } : State).inputs, p.1.isWord = false := by
  refine ⟨by decide, issue_witness (fun c _ _ => c.cls = 0) (by decide +kernel), ?_⟩
  simp
  decide

/-! ### Well-formedness refuses -/

/-- Events are no words. -/
theorem refused_event : Instr.ctxctlKill.wf = false := by decide
/-- An unused selector that is not 0x80 (R323). -/
theorem refused_selector : (Instr.mov lw).wf = false := by decide
/-- A trap bit on the literal (R301). -/
theorem refused_literalTrap : (Instr.iadd { lw with sb := 0xFF, eb := true }).wf = false := by decide
/-- A literal word without a selector that names it. -/
theorem refused_literal : (Instr.iadd { lw with lit := 5 }).wf = false := by decide
/-- A third source 0xFF with its trap bit (R305). -/
theorem refused_third : (Instr.ffma3 lw { sc := 0xFF, ec := true, hi := 1 }).wf = false := by decide
/-- A reserved rounding mode (R256). -/
theorem refused_rounding : (Instr.cvtfi { lw with sb := 5 }).wf = false := by decide
/-- A reserved SIZE (R304). -/
theorem refused_memory : (Instr.ld (aw 0x80) (mx 7 0 0)).wf = false := by decide
/-- An atomic operation above 13 (R369). -/
theorem refused_atomic : (Instr.atom (aw 6) { mx 2 0 0 with off := 14 }).wf = false := by decide
/-- A uniform word with an unused selector used. -/
theorem refused_uniform : (Instr.smov { sd := 9, sa := 8, sb := 3, ea := false, eb := false, lit := 0 }).wf = false := by decide
/-- Reserved bits of a branch, of NOP and of REP (R307, R310). -/
theorem refused_branch : (Instr.bra { pred := 7, psense := false, z1 := 1, off := 4, z2 := 0 }).wf = false := by decide
theorem refused_nop : (Instr.nop 1).wf = false := by decide
theorem refused_rep : (Instr.rep { cnt := 3, stepd := 1, stepa := 1, stepb := 0, z := 1 }).wf = false := by decide
/-- Reserved bits of a matrix word and of a copy's extension words. -/
theorem refused_matrix : (Instr.mma
    { ta := 1, tb := 4, aw := 2, skip := false, z0 := 1, arow := 64, z1 := false, koff := 0, kcnt := 1, z2 := 0, srow := 0, sk := 0, z3 := 0 }).wf
      = false := by decide
theorem refused_copy : (Instr.cpy cw { cx with z := 1 } (cy 0)).wf = false := by decide
theorem refused_copyTile : (Instr.cpy cw { cx with dt := 64 } (cy 0)).wf = false := by decide

/-- The decoder names what it refuses: a reserved opcode, an instruction cut short, a reserved field. -/
theorem decode_refuses : decode 0 [0x3E] = .error (.reservedOpcode 0 0x3E) ∧ decode 1 [0x00402105] = .error .truncated ∧
    decode 4 [0x00000048] = .error (.illFormed (.exit 1) 1) := ⟨rfl, rfl, rfl⟩

/-! ### Decoding words that the specification writes out -/

/-- R334, R307: SEL and REP. -/
theorem decode_class0 : decode 0 [0x0040212E] = .ok (.sel { lw with vd := 4 }, 1) ∧
    decode 0 [0x1FE02A6B, 0x00000010] = .ok (.icmp { vd := 0x29, sa := 1, sb := 0xFF, ea := false, eb := false, g := false, lit := 16 }, 2) ∧
    decode 1 [0x000050FF] = .ok (.rep { cnt := 3, stepd := 1, stepa := 1, stepb := 0, z := 0 }, 1) := ⟨rfl, rfl, rfl⟩
/-- The example of fused and separate rounding: FMUL and FADD. -/
theorem decode_class1 : decode 1 [0x00402143] = .ok (.fmul { lw with vd := 5 }, 1) ∧
    decode 1 [0x0060A141] = .ok (.fadd { lw with vd := 5, sa := 5, sb := 3 }, 1) := ⟨rfl, rfl⟩
/-- R365: VOTEALL of v1 to p3 over sub-groups of 32 (written out here from R300 and R363). -/
theorem decode_class2 : decode 2 [0x100020CF, 0x00000A00] = .ok (.voteall { vd := 3, sa := 1, sb := 0x80, ea := false, eb := false, g := false, lit := 0 }
    { sc := 0, ec := false, hi := 5 }, 2) := rfl
/-- R378: WAITADDR; and ACCRD. -/
theorem decode_class3 : decode 3 [0x00D1418D, 0x00004C82] = .ok (.waitaddr { vd := 6, sa := 0x8A, sb := 6, ea := false, eb := false, g := false, lit := 0 }
      { size := 2, sgn := false, space := 0, order := 1, scope := 3, reuse := 2, inv := false, notag := false, off := 0 }, 2) ∧
    decode 3 [0x00140294, 0x00800002] = .ok (.accrd { vd := 10, sa := 0xA0, sb := 0, ea := false, eb := false, g := false, lit := 0 }
      { size := 2, sgn := false, space := 0, order := 0, scope := 0, reuse := 0, inv := false, notag := false, off := 64 }, 2) := ⟨rfl, rfl⟩
/-- The kernel with an if and an else: SETMR in both forms, BRA, EXIT; and BAR. -/
theorem decode_class4 : decode 4 [0x0001CA05] = .ok (.setmrLabel { vd := 40, off := 14, nd := false, z := false }, 1) ∧
    decode 4 [0x60050005] = .ok (.setmrRegister { vd := 0, src := 40, z1 := 0, nd := true, z2 := false }, 1) ∧
    decode 4 [0x0000C041] = .ok (.bra { pred := 1, psense := false, z1 := 0, off := 6, z2 := 0 }, 1) ∧
    decode 4 [0x00000008] = .ok (.exit 0, 1) ∧
    decode 4 [0x000000DB] = .ok (.bar { sd := 3, sa := 0, sb := 0, ea := false, eb := false, lit := 0 }, 1) := ⟨rfl, rfl, rfl, rfl, rfl⟩
/-- The matrix stream's example: MZERO and SCLD. -/
theorem decode_class5 : decode 5 [0x00000083, 0x00000040] = .ok (.mzero { aw := 2, m64 := false, n64 := false, z0 := 0, arow := 64, z1 := false, srow := 0, z2 := 0 }, 2) ∧
    decode 5 [0x00000044, 0x00000E00] = .ok (.scld { tn := 1, z0 := 0, joff := 0, jcnt := 7, z1 := 0 }, 2) := ⟨rfl, rfl⟩
/-- The access stream's example: TSET, and CPY with its length as a literal. -/
theorem decode_class6 : decode 6 [0x0005C00B, 1, 0] = .ok (.tset { sd := 0, sa := 0x17, sb := 0, ea := false, eb := false, lit := 0 } 1 0, 3) ∧
    decode 6 [0x3FC54641, 0x0200000F, 0x0000017F, 0x00004400] = .ok (.cpy { sd := 25, sa := 0x15, sb := 0xFF, ea := false, eb := false, lit := 17408 }
      { tok := 15, tl := 0, tlv := false, sv := 0, dt := 4, z := 0 } { st := 127, reuse := 2, rest := 0 }, 4) := ⟨rfl, rfl⟩

/-! ### Small steps: the worked examples of the rules -/

/-- Warp 0 after the word or words `ws`, each run by the whole warp, of a clause of class `cls` whose guard word is `hdr`. -/
def after (cls : Nat) (lanes : Word) (i : Instr) (f : Thr → Thr) : Option Thr :=
  match exec i (machine (latch 0 cls lanes) id f) with
  | .next u => u.thr? 0 0 0
  | _ => none

/-- Registers `l` at the start, each a row. -/
def withRows (l : List (Nat × List Word)) (t : Thr) : Thr := { t with rows := l.map fun p => (p.1, p.2 ++ List.replicate (32 - p.2.length) 0) }

/-- R334's example: v1 is −5 and 7, v2 is 3 and 3; ICMP.gt clears p3 in lane 0 and sets it in lane 1. -/
theorem test_icmp : (after 0 0xFFFFFFFF (.icmp { lw with vd := 0x23 }) (withRows [(1, [0xFFFFFFFB, 7]), (2, [3, 3])])).map
    (fun t => (t.pred 3 0, t.pred 3 1)) = some (false, true) := by decide +kernel
/-- The same example with ICMPU: lane 0 compares 4,294,967,291 with 3. -/
theorem test_icmpu : (after 0 0xFFFFFFFF (.icmpu { lw with vd := 0x23 }) (withRows [(1, [0xFFFFFFFB, 7]), (2, [3, 3])])).map
    (fun t => (t.pred 3 0, t.pred 3 1)) = some (true, true) := by decide +kernel
/-- R325's example: the prefix XOR of 0x412, and its high word. -/
theorem test_clmul : (after 0 1 (.clmul { lw with vd := 7, sa := 3, sb := 0xFF, lit := 0xFFFFFFFF }) (withRows [(3, [0x412])])).map
    (fun t => t.reg 7 0) = some 0xFFFFFC0E := by decide +kernel
theorem test_clmulh : (after 0 1 (.clmulh { lw with vd := 8, sa := 3, sb := 0xFF, lit := 0xFFFFFFFF }) (withRows [(3, [0x412])])).map
    (fun t => t.reg 8 0) = some 0x3F1 := by decide +kernel
/-- R327's example of PERMB. -/
theorem test_permb : (after 0 1 (.permb lw) (withRows [(1, [0x44332211]), (2, [0x3F200B04]), (3, [0x88776655])])).map (fun t => t.reg 3 0)
    = some 0x02FF2255 := by decide +kernel
/-- The example of fused and separate rounding: the product rounds 2^−24 away, the fused sum keeps it. -/
theorem test_ffma3 : (after 1 1 (.ffma3 { lw with vd := 4 } { sc := 3, ec := false, hi := 1 })
    (withRows [(1, [0x3F800800]), (2, [0x3F800800]), (3, [0xBF801000])])).map (fun t => t.reg 4 0) = some 0x33800000 := by decide +kernel
theorem test_fmul : (after 1 1 (.fmul { lw with vd := 5 }) (withRows [(1, [0x3F800800]), (2, [0x3F800800])])).map (fun t => t.reg 5 0)
    = some 0x3F801000 := by decide +kernel
/-- R364's example: a rotation by 3 in a sub-group of 8, and the default edge rule. -/
theorem test_shflup : (after 2 0xFFFFFFFF (.shflup { lw with vd := 2, sb := 0xFF, lit := 3 } { sc := 0, ec := false, hi := 3 })
    (withRows [(1, [0, 1, 2, 3, 4, 5, 6, 7])])).map (fun t => (List.range 8).map (t.reg 2)) = some [0, 1, 2, 0, 1, 2, 3, 4] := by decide +kernel


end Sys2Proof.Tests
end

section
/-! What memory reads after a write (O36), and memory at reset (O37). -/

namespace Sys2Proof.Machine

/-- A run of bytes is what its length of reads, from the address on, makes of it. -/
theorem readBytes_eq_of_readByte (m : Memory) (bs : List Byte) (a : Nat)
    (h : ∀ x, a ≤ x → x < a + bs.length → readByte m x = bs.getD (x - a) 0) : readBytes m a bs.length = bs := by
  induction bs generalizing a with
  | nil => rfl
  | cons b bs ih =>
    have hb : readByte m a = b := by simpa using h a le_rfl (by simp)
    have hbs : readBytes m (a + 1) bs.length = bs := by
      refine ih (a + 1) fun x hx hlt => ?_
      have hx' := h x (by omega) (by simp only [List.length_cons]; omega)
      rwa [show x - a = x - (a + 1) + 1 by omega, List.getD_cons_succ] at hx'
    simp [readBytes, hb, hbs]

theorem readBytes_poke (s : State) (a : Nat) (bs : List Byte) : readBytes (s.poke a bs).mem.bytes a bs.length = bs :=
  readBytes_eq_of_readByte _ bs a fun x hx hlt => by rw [poke_read, if_pos ⟨hx, hlt⟩]

/-- The bytes of a number that fits, least significant first, are that number's. -/
theorem leNat_leBytes (n v : Nat) (hv : v < 256 ^ n) : leNat (leBytes n v) = v := by
  induction n generalizing v with
  | zero => simp_all [leBytes, leNat]
  | succ n ih =>
    have hq : v / 256 < 256 ^ n := Nat.div_lt_of_lt_mul (by rwa [Nat.pow_succ'] at hv)
    simp only [leBytes, leNat, ih _ hq, BitVec.toNat_ofNat]
    omega

/-- Settles O36, from what one byte reads after a write. -/
theorem memoryReadAfterWrite : Obligations.MemoryReadAfterWrite := fun s a bs =>
  ⟨fun x => poke_read s a x bs, readBytes_poke s a bs, leNat_leBytes⟩

/-- Settles O37: the reset state lists no cell. -/
theorem resetMemoryForm : Obligations.ResetMemoryForm := ⟨rfl, reset_memory_wf⟩

end Sys2Proof.Machine
end

section
/-! Special registers, SLOTQ and POOLB (O49). -/

namespace Sys2Proof.Machine

/-! ### Recorded values -/

theorem recordValue_recdOnly (s : State) (agent issuer lane kind : Nat) (mask : Word) (vals : List DWord) (obj : Nat) (mo : Bool) :
    RecdOnly s (s.recordValue agent issuer lane kind mask vals obj mo) := by
  unfold State.recordValue
  split
  · exact .refl s
  · exact ashRecord_recdOnly ..

/-- Outside replay a recorded value is the live one. -/
theorem valueOf_live {s : State} (h : s.replaying = false) (agent issuer lane kind : Nat) (mask : Word) (live : List DWord) (obj : Nat)
    (mo : Bool) :
    s.valueOf agent issuer lane kind mask live obj mo = (s.recordValue agent issuer lane kind mask live obj mo, live) := by
  simp [State.valueOf, h]

/-! ### Completing a word -/

section
variable {s v : State} {c : Cur} {b : Blk} {t : Thr}

/-- A word that changes its party alone, and its loops not, completes. -/
theorem modThr_retire (h : Issues s c b t) (f : Thr → Thr) (he : c.EndsWell (f t)) (m : Word) :
    ∃ t', (f t).Moved t' ∧ (s.modThr c.core c.bctx c.w f).retire c m = s.setBlk c.core c.bctx (b.setThr c.w t') := by
  obtain ⟨t', hm, hr⟩ := retire_moves (s := s.modThr c.core c.bctx c.w f) (b := b.setThr c.w (f t))
    (by rw [modThr_eq h.blk h.thr, blk?_setBlk]) (thr?_setThr ..) he m
  refine ⟨t', hm, ?_⟩
  rw [hr, modThr_eq h.blk h.thr, setBlk_setBlk, setThr_setThr]

theorem RecdOnly.issues (hr : RecdOnly s v) (h : Issues s c b t) : Issues v c b t where
  cur := by rw [hr.same]; exact h.cur
  blk := (hr.blk? ..).trans h.blk
  thr := h.thr

theorem RecdOnly.partyOnly (hr : RecdOnly s v) (x : Blk) (t' : Thr) :
    PartyOnly s (v.setBlk c.core c.bctx (x.setThr c.w t')) c x t' where
  same := by rw [hr.same]; rfl
  bytes a := by rw [hr.same]; rfl

/-- Such a word after its operations were noted. -/
theorem modThr_retire_partyOnly (hr : RecdOnly s v) (h : Issues s c b t) (f : Thr → Thr) (he : c.EndsWell (f t)) (m : Word) :
    ∃ t', PartyOnly s ((v.modThr c.core c.bctx c.w f).retire c m) c b t' ∧ (f t).Moved t' := by
  obtain ⟨t', hm, hu⟩ := modThr_retire (hr.issues h) f he m
  exact ⟨t', hu ▸ hr.partyOnly b t', hm⟩

theorem thr?_putS (b : Blk) (n : Nat) (x : DWord) (w k : Nat) : (b.putS n x w).thr? k = b.thr? k := by
  unfold Blk.putS
  split <;> rfl

theorem putS_putUni (b : Blk) (n : Nat) (x : DWord) (w : Nat) : b.PutUni (b.putS n x w) n x := by
  unfold Blk.putS Blk.PutUni
  split
  · next h => exact ⟨rfl, fun k => by simp [h]⟩
  · next h =>
    refine ⟨rfl, fun k => ?_⟩
    by_cases hk : k = n
    · simp [hk, h, Blk.sreg, ngetD, nget_nput_same]
    · simp [hk, Blk.sreg, ngetD, nget_nput_other hk]

/-- A word that writes a uniform register completes. -/
theorem putUni_completes (hr : RecdOnly s v) (h : Issues s c b t) (he : c.EndsWell t) (hl : s.replaying = false) (n : Nat) (x : DWord) :
    ∃ b' t', PartyOnly s (v.putUni c b n x) c b' t' ∧ t.Moved t' ∧ b.PutUni b' n x := by
  have hn : RecdOnly s (v.noteUnis c b [n] true) := hr.trans (noteUnis_recdOnly ((hr.replaying).trans hl) ..)
  have hm := modBlk_eq (hn.issues h).blk fun b => b.putS n x c.w
  obtain ⟨t', ht, hu⟩ := retire_moves (s := (v.noteUnis c b [n] true).modBlk c.core c.bctx fun b => b.putS n x c.w)
    (b := b.putS n x c.w) (by rw [hm, blk?_setBlk]) ((thr?_putS ..).trans h.thr) he c.lanes
  refine ⟨b.putS n x c.w, t', ?_, ht, putS_putUni ..⟩
  unfold State.putUni
  rw [hu, hm, setBlk_setBlk]
  exact hn.partyOnly ..

end

/-! ### SREAD (R437 to R439) -/

/-- A special register that a stream may read is in R438's table, and the model reads what the table says. -/
theorem sregValue_mem_special {n : Nat} (hn : sregScope n ≠ .none) {c : Cur} (hc : c.core < 192) (hx : c.bctx < 16) (s : State)
    (b : Blk) (t : Thr) (l : Nat) : (n, sregValue s c b t n l) ∈ Rules.special s c b t l := by
  have hle : n ≤ 0x1B := by
    by_contra h
    refine hn ?_
    unfold sregScope
    rw [if_neg (by omega), if_neg (by omega), if_neg (by omega)]
  have hid : at64 0 c.core ||| at64 8 (c.core / 8) ||| at64 13 c.bctx =
      BitVec.ofNat 64 (c.core % 256 + 256 * (c.core / 8 % 32) + 8192 * (c.bctx % 16)) := by
    have h1 : at64 0 c.core ||| at64 8 (c.core / 8) = BitVec.ofNat 64 (2 ^ 8 * (c.core / 8) + c.core) := by
      rw [Nat.two_pow_add_eq_or_of_lt (by omega), BitVec.ofNat_or, BitVec.or_comm]
      simp [at64, Nat.mul_comm]
    have h2 : 2 ^ 8 * (c.core / 8) + c.core < 2 ^ 13 := by omega
    rw [h1, Nat.mod_eq_of_lt (by omega : c.core < 256), Nat.mod_eq_of_lt (by omega : c.core / 8 < 32), Nat.mod_eq_of_lt hx,
      show c.core + 256 * (c.core / 8) + 8192 * c.bctx = 2 ^ 13 * c.bctx + (2 ^ 8 * (c.core / 8) + c.core) by omega,
      Nat.two_pow_add_eq_or_of_lt h2, BitVec.ofNat_or, BitVec.or_comm]
    simp [at64, Nat.mul_comm]
  interval_cases n <;> simp_all [sregValue, Rules.special, sregScope]

/-- The value of a register whose reads are recorded does not depend on the lane. -/
theorem sregValue_of_sregKind {n k : Nat} (hk : sregKind n = some k) (s : State) (c : Cur) (b : Blk) (t : Thr) (l : Nat) :
    sregValue s c b t n 0 = sregValue s c b t n l := by
  unfold sregKind at hk
  split_ifs at hk <;> subst n <;> rfl

/-- A value listed once for each lane of a mask is found at each of them. -/
theorem getD_takeWhile_replicate {α : Type} (x d : α) {lanes : List Nat} {l : Nat} (h : l ∈ lanes) :
    (lanes.map fun _ => x).getD (lanes.takeWhile fun i => i != l).length d = x := by
  have hlt : (lanes.takeWhile fun i => i != l).length < lanes.length := by
    induction lanes with
    | nil => cases h
    | cons i lanes ih =>
      by_cases hi : i = l
      · simp [hi]
      · have hm : l ∈ lanes := by simpa [Ne.symm hi] using h
        simpa [hi] using ih hm
  simp [List.getD_eq_getElem?_getD, hlt]

/-- A special register's reading: the state after the read is noted, and the value in every lane that takes it. -/
theorem execSread_go {w : UniW} {s : State} {c : Cur} {b : Blk} {t : Thr} (h : CtlReady s c b t (.sread w))
    (hu : sregUse c w.sb.toNat w.eb = true) (hsfu : w.sb = 0x08 → s.sfuBusy c b = false)
    (hheld : w.sb = 0x04 ∨ w.sb = 0x05 ∨ w.sb = 0x06 → s.heldBack c.core c.bctx c.w b.adm c.lanes = false)
    (hturn : s.uniTurn c b (if w.eb then [] else [w.sd.toNat]) = true)
    (hop : if w.eb then w.sd.toNat < t.poolb ∧ t.isEmpty w.sd.toNat = false else w.sd ≠ 0xFF ∧ b.sIsEmpty w.sd.toNat = false) :
    ∃ (v : State) (x : Nat → DWord), RecdOnly s v ∧
      (∀ l, (if w.eb then l ∈ maskLanes c.lanes else l = 0) → x l = sregValue s c b t w.sb.toNat l) ∧
      exec (.sread w) s = .next
        (if w.eb then
          (v.modThr c.core c.bctx c.w fun t => t.putRow w.sd.toNat c.lanes fun l => (x l).setWidth 32).retire c c.lanes
        else v.putUni c b w.sd.toNat (x 0)) := by
  have hn : ∀ k : BitVec 8, w.sb.toNat = k.toNat → w.sb = k := fun k e => BitVec.eq_of_toNat_eq e
  change ∃ (v : State) (x : Nat → DWord), _ ∧ _ ∧ execSread w s = _
  unfold execSread
  dsimp only
  rw [ctlUniOp_go h.toIssues h.gate ?gate hturn]
  case gate =>
    cases he : w.eb <;> simp_all [Gate.unless, uniRegGate]
  cases hk : sregKind w.sb.toNat with
  | some k =>
    have hh : s.heldBack c.core c.bctx c.w b.adm c.lanes = false := by
      unfold sregKind at hk
      split_ifs at hk with h4 h5 h6
      · exact hheld (.inl (hn 0x04 h4))
      · exact hheld (.inr (.inl (hn 0x05 h5)))
      · exact hheld (.inr (.inr (hn 0x06 h6)))
    have hv := recordValue_recdOnly s c.core (issuerOf c.bctx c.w) (lowestLane c.lanes) k (if w.eb then c.lanes else 0)
      ((if w.eb then maskLanes c.lanes else [0]).map fun _ => sregValue s c b t w.sb.toNat 0) objNone false
    refine ⟨_, fun l => ((if w.eb then maskLanes c.lanes else [0]).map fun _ => sregValue s c b t w.sb.toNat 0).getD
      ((if w.eb then maskLanes c.lanes else [0]).takeWhile fun i => i != l).length 0,
      hv.trans (note_recdOnly (hv.replaying.trans h.live) ..), fun l hl => ?_, by simp only [hh, h.turn, valueOf_live h.live]; rfl⟩
    refine (getD_takeWhile_replicate _ _ ?_).trans (sregValue_of_sregKind hk s c b t l)
    cases he : w.eb <;> simp_all
  | none =>
    have hb : ¬ (w.sb.toNat = 0x08 ∧ s.sfuBusy c b = true) := fun ⟨e, hs⟩ => by simp [hsfu (hn 0x08 e)] at hs
    exact ⟨s, fun l => sregValue s c b t w.sb.toNat l, .refl s, fun _ _ => rfl, by simp only [if_neg hb]⟩

theorem specialRegisterReads : Rules.SpecialRegisterReads := by
  intro w s c b t h hc hx hu hsfu hheld hturn
  have hscope : sregScope w.sb.toNat ≠ .none := by
    intro e
    simp [sregUse, e] at hu
  refine ⟨fun he hd hfull => ?_, fun he hd hfull => ?_⟩
  · obtain ⟨v, x, hv, hval, hex⟩ := execSread_go h hu hsfu hheld hturn (by simp [he, hd, hfull])
    simp only [he, if_true] at hval hex
    obtain ⟨t', hp, hm⟩ := modThr_retire_partyOnly hv h.toIssues
      (fun t => t.putRow w.sd.toNat c.lanes fun l => (x l).setWidth 32) h.ends c.lanes
    refine ⟨_, t', _, hex, hp, ⟨(putRow_rowsOnly ..).moved hm, fun r l hl => ?_⟩, fun l hl hc' => ⟨x l, ?_, rfl⟩⟩
    · rw [hm.reg, reg_putRow _ _ _ _ _ _ hl]
    · rw [hval l (by simp [maskLanes, hl, hc'])]
      exact sregValue_mem_special hscope hc hx s b t l
  · obtain ⟨v, x, hv, hval, hex⟩ := execSread_go h hu hsfu hheld hturn (by simpa [he, hfull] using hd)
    simp only [he, Bool.false_eq_true, if_false] at hval hex
    obtain ⟨b', t', hp, hm, hput⟩ := putUni_completes hv h.toIssues h.ends h.live w.sd.toNat (x 0)
    refine ⟨_, b', t', x 0, hex, hp, hm, ?_, hput⟩
    rw [hval 0 rfl]
    exact sregValue_mem_special hscope hc hx s b t 0

/-! ### SWRITE (R437, R438) -/

/-- What SWRITE makes of its party: `v` is the uniform operand, and `lv` each lane's word. -/
def Thr.swrite (t : Thr) (m : Word) (n : Nat) (v : DWord) (lv : Nat → Word) : Thr :=
  let perLane (old : List Word) : List Word := (List.range 32).map fun l => if m.getLsbD l then lv l else old.getD l 0
  match n with
  | 0x08 => { t with frm := writeFields t.frm (v.setWidth 32) 0xFB 0x1F00 }
  | 0x09 => { t with srSeed := v.setWidth 32 }
  | 0x0A => { t with srCnt := perLane t.srCnt }
  | 0x0B => { t with cpystat := writeFields t.cpystat v 0xFFF0 0xF }
  | 0x12 => { t with tnpc := v }
  | _ => { t with tscr := lmod (n - 0x18) perLane t.tscr }

@[simp] theorem swrite_loops (t : Thr) (m : Word) (n : Nat) (v : DWord) (lv : Nat → Word) : (t.swrite m n v lv).loops = t.loops := by
  unfold Thr.swrite
  dsimp only
  split <;> rfl

theorem getD_perLane (m : Word) (lv : Nat → Word) (old : List Word) {l : Nat} (hl : l < 32) :
    ((List.range 32).map fun l => if m.getLsbD l then lv l else old.getD l 0).getD l 0 = if m.getLsbD l then lv l else old.getD l 0 := by
  simp [List.getD_eq_getElem?_getD, hl]

/-- A writable field takes the written bit, a write-one-to-clear flag goes where a 1 is written, and any other bit stays. -/
theorem getLsbD_writeFields {k : Nat} (old v rw w1c : BitVec k) (i : Nat) (hd : rw.getLsbD i = true → w1c.getLsbD i = false) :
    (writeFields old v rw w1c).getLsbD i =
      if rw.getLsbD i then v.getLsbD i else old.getLsbD i && !(w1c.getLsbD i && v.getLsbD i) := by
  by_cases hi : i < k
  · unfold writeFields
    cases hr : rw.getLsbD i <;> cases hw : w1c.getLsbD i <;> simp_all
  · simp [BitVec.getLsbD_of_ge _ _ (Nat.le_of_not_lt hi)]

/-- SWRITE of a writable register whose operand is there writes its party and completes. -/
theorem execSwrite_go {w : UniW} {s : State} {c : Cur} {b : Blk} {t : Thr} (h : CtlReady s c b t (.swrite w))
    (hu : sregUse c w.sb.toNat true = true) (hw : sregWritable w.sb.toNat = true) (hlane : w.eb = true → sregScope w.sb.toNat = .lane)
    (hsfu : w.sb = 0x08 → s.sfuBusy c b = false)
    (hop : if w.eb then w.sa.toNat < t.poolb ∧ t.isEmpty w.sa.toNat = false else w.sa ≠ 0xFF → b.sIsEmpty w.sa.toNat = false)
    (hturn : s.uniTurn c b (if w.eb then [] else [w.sa.toNat]) = true) :
    ∃ u t', exec (.swrite w) s = .next u ∧ PartyOnly s u c b t' ∧ (t.swrite c.lanes w.sb.toNat (if w.eb then 0 else srcU b w.sa w.lit)
      fun l => if w.eb then t.reg w.sa.toNat l else (srcU b w.sa w.lit).setWidth 32).Moved t' := by
  have hb : ¬ (w.sb.toNat = 0x08 ∧ s.sfuBusy c b = true) := fun ⟨e, hs⟩ => by
    simp [hsfu (BitVec.eq_of_toNat_eq e)] at hs
  have hr : RecdOnly s (if w.eb ∨ w.sa = 0xFF then s else s.noteUnis c b [w.sa.toNat] false) := by
    split
    · exact .refl s
    · exact noteUnis_recdOnly h.live ..
  change ∃ u t', execSwrite w s = _ ∧ _
  unfold execSwrite
  dsimp only
  rw [ctlUniOp_go h.toIssues h.gate ?gate hturn, if_neg hb]
  case gate =>
    cases he : w.eb with
    | true =>
      obtain ⟨h1, h2⟩ : w.sa.toNat < t.poolb ∧ t.isEmpty w.sa.toNat = false := by simpa [he] using hop
      simp [Gate.unless, hu, hw, hlane he, h1, h2]
    | false =>
      have hs : ¬ (w.sa ≠ 0xFF ∧ b.sIsEmpty w.sa.toNat = true) := fun ⟨e, hs⟩ => by
        simp [he] at hop
        simp [hop e] at hs
      simp only [Gate.unless, hu, hw, uniSrcGate, if_neg hs]
      simp
  obtain ⟨t', hp, hm⟩ := modThr_retire_partyOnly hr h.toIssues (fun x => x.swrite c.lanes w.sb.toNat
    (if w.eb then 0 else srcU b w.sa w.lit) fun l => if w.eb then t.reg w.sa.toNat l else (srcU b w.sa w.lit).setWidth 32)
    (by have := h.ends; unfold Cur.EndsWell Thr.innermost Thr.loop at this ⊢; rwa [swrite_loops]) c.lanes
  refine ⟨_, t', ?_, hp, hm⟩
  cases he : w.eb
  · simp only [Bool.false_eq_true, if_false, false_or]; rfl
  · simp only [if_true, true_or]; rfl

theorem specialRegisterWrites : Rules.SpecialRegisterWrites := by
  intro w s c b t h hu hsfu hop hturn v lv wrote
  have go : sregWritable w.sb.toNat = true → (w.eb = true → sregScope w.sb.toNat = .lane) →
      wrote (t.swrite c.lanes w.sb.toNat (if w.eb then 0 else v) lv) := fun hw hl => execSwrite_go h hu hw hl hsfu hop hturn
  refine ⟨fun hn he => ?_, fun hn he => ?_, fun hn => ?_, fun hn he => ?_, fun hn he => ?_, fun j hj hn hlen => ?_⟩
  · have hw := go (by simp [hn, sregWritable]) (by simp [he])
    simp only [hn, he, Bool.false_eq_true, if_false] at hw
    refine ⟨_, hw, fun k hk => ?_⟩
    rw [getLsbD_writeFields _ _ _ _ _ (by interval_cases k <;> decide), BitVec.getLsbD_setWidth]
    interval_cases k <;> simp
  · have hw := go (by simp [hn, sregWritable]) (by simp [he])
    simp only [hn, he, Bool.false_eq_true, if_false] at hw
    exact hw
  · have hw := go (by simp [hn, sregWritable]) (by simp [hn, sregScope])
    simp only [hn] at hw
    exact ⟨_, hw, fun l hl => getD_perLane c.lanes lv t.srCnt hl⟩
  · have hw := go (by simp [hn, sregWritable]) (by simp [he])
    simp only [hn, he, Bool.false_eq_true, if_false] at hw
    refine ⟨_, hw, fun k hk => ?_⟩
    rw [getLsbD_writeFields _ _ _ _ _ (by interval_cases k <;> decide)]
    interval_cases k <;> simp
  · have hw := go (by simp [hn, sregWritable]) (by simp [he])
    simp only [hn, he, Bool.false_eq_true, if_false] at hw
    exact hw
  · have hw := go (by interval_cases j <;> simp [hn, sregWritable]) (by interval_cases j <;> simp [hn, sregScope])
    have hs : t.swrite c.lanes w.sb.toNat (if w.eb then 0 else v) lv = { t with
        tscr := lmod j (fun old => (List.range 32).map fun l => if c.lanes.getLsbD l then lv l else old.getD l 0) t.tscr } := by
      interval_cases j <;> rw [hn] <;> rfl
    rw [hs] at hw
    refine ⟨_, hw, fun i l hi hl => ?_⟩
    rw [getD_lmod]
    by_cases hij : i = j
    · subst hij
      rw [if_pos ⟨rfl, by omega⟩, getD_perLane _ _ _ hl]
      simp
    · simp [hij, Ne.symm hij]

/-! ### SLOTQ and POOLB (R440, R443) -/

theorem blankRows_succ (t : Thr) (seed lo n : Nat) : t.blankRows seed lo (n + 1) = { t.blankRows seed lo n with
    rows := nput (lo + n) ((List.range 32).map fun l => Config.freeWord seed (lo + n) l) (t.blankRows seed lo n).rows } := by
  unfold Thr.blankRows
  rw [List.range_succ (n := n), List.foldl_append]
  rfl

theorem reg_blankRows (t : Thr) (seed lo n r : Nat) {l : Nat} (hl : l < 32) :
    (t.blankRows seed lo n).reg r l = if lo ≤ r ∧ r < lo + n then Config.freeWord seed r l else t.reg r l := by
  induction n with
  | zero =>
    rw [if_neg (by omega)]
    rfl
  | succ n ih =>
    rw [blankRows_succ]
    by_cases hr : r = lo + n
    · subst hr
      rw [if_pos ⟨by omega, by omega⟩]
      simp [Thr.reg, Thr.row, hl, List.getD_eq_getElem?_getD]
    · have hiff : (lo ≤ r ∧ r < lo + (n + 1)) ↔ (lo ≤ r ∧ r < lo + n) := by omega
      refine (Eq.trans ?_ ih).trans (if_congr hiff.symm rfl rfl)
      simp [Thr.reg, Thr.row, nget_nput_other hr]

theorem blankRows_rows (t : Thr) (seed lo n : Nat) : t.blankRows seed lo n = { t with rows := (t.blankRows seed lo n).rows } := by
  induction n with
  | zero => rfl
  | succ n ih =>
    rw [blankRows_succ]
    generalize t.blankRows seed lo n = x at ih ⊢
    rw [ih]

/-- A party whose pool boundary moves to `n`, over free values. -/
def Thr.movePool (t : Thr) (seed n : Nat) : Thr :=
  { t.blankRows seed (min n t.poolb) (max n t.poolb - min n t.poolb) with poolb := n }

theorem movePool_eq (t : Thr) (seed n : Nat) : t.movePool seed n = { t with rows := (t.movePool seed n).rows, poolb := n } := by
  unfold Thr.movePool
  rw [blankRows_rows]

theorem reg_movePool (t : Thr) (seed n r : Nat) {l : Nat} (hl : l < 32) : (t.movePool seed n).reg r l =
    if min n t.poolb ≤ r ∧ r < max n t.poolb then Config.freeWord seed r l else t.reg r l :=
  (reg_blankRows t seed _ _ r hl).trans (if_congr (by omega) rfl rfl)

/-- POOLB that its conditions let go moves the boundary and completes. -/
theorem execPoolb_go {w : UniW} {s : State} {c : Cur} {b : Blk} {t : Thr} (h : UniReady s c b t (.poolb w) w) {n : Nat}
    (hsrc : (srcU b w.sa w.lit).toNat = n) (hn : 0 < n) (hle : n ≤ min 128 b.info.sliceRows)
    (hempty : ∀ r ∈ t.empty, ¬ (n ≤ r ∧ r < t.poolb))
    (hheld : t.poolb < n → s.rowsHeld c.core c.bctx c.w t.poolb (n - t.poolb) = false) :
    exec (.poolb w) s = .next ((((s.noteUnis c b (uniUnis (.poolb w) w) false).setBlk c.core c.bctx
      (b.setThr c.w (t.movePool s.fresh n))).bump).retire c c.lanes) := by
  have hi := (noteUnis_recdOnly h.live c b (uniUnis (.poolb w) w) false).issues h.toIssues
  have hrows : ¬ (n < t.poolb ∧ (t.empty.any fun r => decide (n ≤ r) && decide (r < t.poolb)) = true) := by
    rintro ⟨-, hr⟩
    obtain ⟨r, hmem, hr⟩ := List.any_eq_true.1 hr
    exact hempty r hmem (by simpa using hr)
  have hfree : ¬ (t.poolb < n ∧ s.rowsHeld c.core c.bctx c.w t.poolb (n - t.poolb) = true) := fun ⟨hlt, hr⟩ => by
    simp [hheld hlt] at hr
  change execPoolb w s = _
  unfold execPoolb
  rw [uniWordOp_go h]
  dsimp only
  rw [hsrc, if_neg (by omega), if_neg hrows, if_neg hfree, modThr_eq hi.blk hi.thr]
  rfl

theorem slotQueriesAndPoolMoves : Rules.SlotQueriesAndPoolMoves := by
  intro w s c b t
  refine ⟨fun f h hf hheld => ?_, fun h hf => ?_, ?_⟩
  · have h0 := noteUnis_recdOnly h.live c b (uniUnis (.slotq w) w) false
    have hv := h0.trans (recordValue_recdOnly _ c.core (issuerOf c.bctx c.w) (lowestLane c.lanes) 2 0
      [slotWord s.tick (s.slotAnswer f)] objNone false)
    have hn := hv.trans (note_recdOnly (hv.replaying.trans h.live) c.core (issuerOf c.bctx c.w) (lowestLane c.lanes) objNone false
      none none [] [])
    obtain ⟨b', t', hp, hm, hput⟩ := putUni_completes hn h.toIssues h.ends h.live w.sd.toNat (slotWord s.tick (s.slotAnswer f))
    refine ⟨_, b', t', ?_, hp, hm, hput⟩
    change execSlotq w s = _
    unfold execSlotq
    rw [uniWordOp_go h]
    simp [hf, hheld, h.turn, valueOf_live (h0.replaying.trans h.live)]
  · refine ⟨s, .refl s, ?_⟩
    change execSlotq w s = _
    unfold execSlotq
    rw [uniWordOp_go h]
    simp only [hf]
    rfl
  · intro n h hn hle hempty hheld
    have h0 := noteUnis_recdOnly h.live c b (uniUnis (.poolb w) w) false
    obtain ⟨t', hm, hu⟩ := retire_moves (s := ((s.noteUnis c b (uniUnis (.poolb w) w) false).setBlk c.core c.bctx
      (b.setThr c.w (t.movePool s.fresh n))).bump) (b := b.setThr c.w (t.movePool s.fresh n)) (blk?_setBlk ..) (thr?_setThr ..)
      (by have := h.ends; unfold Cur.EndsWell Thr.innermost Thr.loop at this ⊢; rwa [movePool_eq]) c.lanes
    refine ⟨_, t', execPoolb_go h rfl hn hle hempty hheld, ?_, ?_, fun r l hl => ?_⟩
    · rw [hu, h0.same]
      simp [State.setBlk, State.bump, setThr_setThr, nput_nput]
    · rw [hm, movePool_eq]
    · rw [hm.reg, reg_movePool _ _ _ _ hl]

/-- Settles O49: the three parts, each from what the word does once its gates let it go. -/
theorem specialRegisters : Obligations.SpecialRegisters :=
  ⟨specialRegisterReads, specialRegisterWrites, slotQueriesAndPoolMoves⟩

end Sys2Proof.Machine
end

section
/-! What writes of the device's registers do (O23). -/

namespace Sys2Proof.Machine

/-! ### Requests that wait to leave their core -/

/-- Where no request waits to leave its core, none is admitted. -/
theorem admitReqs_of_noQueue {s : State} (h : Rules.NoQueue s) : s.admitReqs = s := by
  have hnil : (s.reqs.filter fun r => r.stage == .queued || r.unsent) = [] :=
    List.filter_eq_nil_iff.2 fun r hr => by
      obtain ⟨h1, h2⟩ := h r hr
      simp [h1, h2]
  unfold State.admitReqs
  rw [hnil]
  rfl

/-! ### Base registers, MEMCFG and the Nuntaok space (R4, R46, R48, R122, R123) -/

theorem getLsbD_above (n : Nat) (v : DWord) (i : Nat) : (above n v).getLsbD i = (v.getLsbD i && decide (n ≤ i)) := by
  unfold above
  by_cases hi : i < 64
  · by_cases hn : n ≤ i
    · simp [hi, hn, show ¬ i < n by omega]
    · simp [hn, show i < n by omega]
  · simp [BitVec.getLsbD_of_ge _ _ (Nat.le_of_not_lt hi)]

/-- A base register of BAR0 reads back what was written above its reserved bits. -/
theorem readBar0_registerWrite {s : State} (hs : s.arg.space = .bar0) {off n : Nat}
    (h : (off, n) ∈ [(0x400, 12), (0x508, 12), (0x510, 0), (0x708, 12), (0x800, 12), (0xA08, 30)]) (ha : s.arg.a = off) :
    ∃ u, exec .registerWrite s = .next u ∧ ∀ i, (u.readBar0 off).getLsbD i = (s.arg.v.getLsbD i && decide (n ≤ i)) := by
  have he : exec .registerWrite s = .next (s.writeBar0 off s.arg.v) := by
    change execRegisterWrite s = _
    unfold execRegisterWrite
    rw [hs, ha]
  refine ⟨_, he, fun i => ?_⟩
  rw [← getLsbD_above]
  congr 1
  simp only [List.mem_cons, Prod.mk.injEq, List.not_mem_nil, or_false] at h
  obtain ⟨rfl, rfl⟩ | ⟨rfl, rfl⟩ | ⟨rfl, rfl⟩ | ⟨rfl, rfl⟩ | ⟨rfl, rfl⟩ | ⟨rfl, rfl⟩ := h
  case inr.inr.inl => simp [State.writeBar0, State.readBar0, above]
  all_goals simp [State.writeBar0, State.readBar0]

/-- A base register of the Nuntaok space does so where its write acts. -/
theorem readNuntaok_registerWrite {s : State} (hs : s.arg.space = .nuntaok) {off n : Nat}
    (h : (off, n) ∈ [(0x08, 21), (0x20, 12), (0xC0, 12), (0x100, 12)]) (ha : s.arg.a = off) (hm : s.recd.mode = 0 ∨ 0xC0 ≤ off) :
    ∃ u, exec .registerWrite s = .next u ∧ ∀ i, (u.readNuntaok off).getLsbD i = (s.arg.v.getLsbD i && decide (n ≤ i)) := by
  have he : exec .registerWrite s = .next (s.writeNuntaok off s.arg.v) := by
    change execRegisterWrite s = _
    unfold execRegisterWrite
    rw [hs, ha]
  refine ⟨_, he, fun i => ?_⟩
  rw [← getLsbD_above]
  congr 1
  simp only [List.mem_cons, Prod.mk.injEq, List.not_mem_nil, or_false] at h
  obtain ⟨rfl, rfl⟩ | ⟨rfl, rfl⟩ | ⟨rfl, rfl⟩ | ⟨rfl, rfl⟩ := h <;> simp_all [State.writeNuntaok, State.readNuntaok]

/-- ASHBASE and CKBASE ignore writes while MODE is not 0 (R123). -/
theorem registerWrite_held {s : State} (hs : s.arg.space = .nuntaok) {off n : Nat}
    (h : (off, n) ∈ [(0x08, 21), (0x20, 12), (0xC0, 12), (0x100, 12)]) (ha : s.arg.a = off) (hm : s.recd.mode ≠ 0)
    (hoff : off < 0xC0) : exec .registerWrite s = .next s := by
  change execRegisterWrite s = _
  unfold execRegisterWrite
  rw [hs, ha]
  simp only [List.mem_cons, Prod.mk.injEq, List.not_mem_nil, or_false] at h
  obtain ⟨rfl, -⟩ | ⟨rfl, -⟩ | ⟨rfl, -⟩ | ⟨rfl, -⟩ := h
  · exact congrArg Host.Outcome.next (if_neg hm)
  · exact congrArg Host.Outcome.next (if_neg hm)
  · omega
  · omega

/-- A change of the cache mode where nothing runs begins, and where a block is admitted is REFUSED (log entry 36). -/
theorem execMemcfgCacheWrite_new {s : State} (hn : s.arg.v.getLsbD 0 = !s.mem.cacheReq) (hk : s.kindling = false) :
    exec .memcfgCacheWrite s = .next
      (let m := { s.mem with refused := w1c s.mem.refused s.arg.v 3, kindlingRef := w1c s.mem.kindlingRef s.arg.v 4 }
       if !s.blks.isEmpty || !s.cmds.isEmpty || !s.colls.isEmpty || s.mem.cacheBusy || !s.areasDirect then
         { s with mem := { m with refused := true } }
       else { s with mem := { m with cacheReq := s.arg.v.getLsbD 0, cacheBusy := true } }) := by
  have hne : s.arg.v.getLsbD 0 ≠ s.mem.cacheReq := by
    rw [hn]
    cases s.mem.cacheReq <;> decide
  change execMemcfgCacheWrite s = _
  unfold execMemcfgCacheWrite State.writeMemcfg
  simp only [if_neg hne, hk, Bool.and_false, Bool.false_eq_true, if_false]

/-- What a map reads at a key that a filter keeps. -/
theorem nget_filter_of_pos {α : Type} (p : Nat × α → Bool) (k : Nat) (hp : ∀ x, p (k, x) = true) (m : NMap α) :
    nget (m.filter p) k = nget m k := by
  induction m with
  | nil => rfl
  | cons q m ih =>
    obtain ⟨i, x⟩ := q
    by_cases hik : i = k
    · subst hik
      simp [hp, nget]
    · by_cases hq : p (i, x) = true <;> simp [hq, nget, hik, ih]

theorem capSend_eq (s : State) (line tag : Nat) : ∃ o, s.capSend line tag = { s with outbox := o } := ⟨_, rfl⟩

/-- Dirty sets are written back by messages alone. -/
theorem writeBackSets_eq (s : State) : ∃ o, s.writeBackSets = { s with outbox := o } := by
  unfold State.writeBackSets
  generalize s.mem.sets = l
  induction l generalizing s with
  | nil => exact ⟨_, rfl⟩
  | cons p l ih =>
    simp only [List.foldl_cons]
    split
    · obtain ⟨o, ho⟩ := capSend_eq s (capBase / 128 + p.1 + p.2.aliasIx.toNat * cacheSets) 0
      rw [ho]
      exact ih _
    · exact ih s

/-- MEMCFG_CHANGE_DONE ends the change, and keeps every byte outside the cache region. -/
theorem execMemcfgChangeDone_done {s : State} (hb : s.mem.cacheBusy = true) (hq : Rules.NoQueue s) :
    ∃ u, exec .memcfgChangeDone s = .next u ∧ u.mem.cacheBusy = false ∧ u.mem.cacheOn = s.mem.cacheReq ∧ u.mem.sets = [] ∧
      ∀ a, hbmBytes ≤ a ∨ a % stackBytes < directBytes → readByte u.mem.bytes a = readByte s.mem.bytes a := by
  change ∃ u, execMemcfgChangeDone s = _ ∧ _
  unfold execMemcfgChangeDone
  rw [if_neg (by simp [hb])]
  cases hr : s.mem.cacheReq with
  | true =>
    simp only [if_true, hr]
    rw [admitReqs_of_noQueue (by exact hq)]
    refine ⟨_, rfl, rfl, rfl, rfl, fun a ha => ?_⟩
    unfold readByte ngetD
    dsimp only
    rw [nget_filter_of_pos]
    intro x
    simp only [Bool.not_eq_true', Bool.and_eq_false_iff, decide_eq_false_iff_not]
    omega
  | false =>
    obtain ⟨o, ho⟩ := writeBackSets_eq s
    simp only [Bool.false_eq_true, if_false, ho, hr]
    rw [admitReqs_of_noQueue (by exact hq)]
    exact ⟨_, rfl, rfl, rfl, rfl, fun a _ => rfl⟩

theorem registersReadAndWrite : Rules.RegistersReadAndWrite := by
  intro s v
  refine ⟨fun hs => ⟨fun off n h ha => readBar0_registerWrite hs h ha, fun ha => ?_⟩, fun hs off n h ha =>
    ⟨fun hm => readNuntaok_registerWrite hs h ha hm, fun hm hoff => registerWrite_held hs h ha hm hoff⟩,
    ⟨fun h => ?_, fun hf hd => ⟨fun h2 => ?_, fun h2 => ?_⟩⟩,
    fun hn hk => ⟨fun hb hc hl hy ha => ?_, fun hb => ?_⟩, fun hb hq => execMemcfgChangeDone_done hb hq⟩
  · change ∃ u, execRegisterWrite s = _ ∧ _
    unfold execRegisterWrite
    rw [hs, ha]
    exact ⟨_, rfl, rfl⟩
  · change execNuntaokRequest s = _
    unfold execNuntaokRequest
    rw [if_pos]
    simpa using h
  · change execNuntaokRequest s = _
    simp [execNuntaokRequest, hf, hd, h2, v]
  · change execNuntaokRequest s = _
    simp [execNuntaokRequest, hf, hd, h2]
  · rw [execMemcfgCacheWrite_new hn hk]
    dsimp only
    rw [if_neg (by simp [hb, hc, hl, hy, ha])]
    exact ⟨_, rfl, rfl, rfl, rfl, rfl⟩
  · rw [execMemcfgCacheWrite_new hn hk]
    dsimp only
    rw [if_pos (by simp [hb])]
    exact ⟨_, rfl, rfl, rfl, rfl⟩

/-! ### What the journal writes (R68) -/

/-- Two states that agree but for memory, the recorder and the journal's own registers. -/
structure JournalOnly (s u : State) : Prop where
  same : u = { s with
    mem := u.mem, recd := u.recd, host := { s.host with jrnHead := u.host.jrnHead, jseq := u.host.jseq } }

namespace JournalOnly

theorem refl (s : State) : JournalOnly s s := ⟨rfl⟩

theorem trans {s u v : State} (h : JournalOnly s u) (g : JournalOnly u v) : JournalOnly s v := by
  refine ⟨?_⟩
  rw [g.same, h.same]

theorem foldl {α : Type} {f : State → α → State} (h : ∀ s a, JournalOnly s (f s a)) :
    ∀ (l : List α) (s : State), JournalOnly s (l.foldl f s)
  | [], s => refl s
  | a :: l, s => (h s a).trans (foldl h l (f s a))

theorem blks {s u : State} (h : JournalOnly s u) : u.blks = s.blks := by rw [h.same]

end JournalOnly

/-- A change of memory alone. -/
theorem withMem_journalOnly (s : State) (m : Mem) : JournalOnly s { s with mem := m } := ⟨rfl⟩

theorem dirtied_journalOnly (s : State) (a : Nat) : JournalOnly s (s.dirtied a) := by
  unfold State.dirtied
  dsimp only
  split <;> exact ⟨rfl⟩

theorem poke_journalOnly (s : State) (a : Nat) (bs : List Byte) : JournalOnly s (s.poke a bs) := by
  unfold State.poke
  split
  · exact .refl s
  · exact (withMem_journalOnly ..).trans (dirtied_journalOnly ..)

theorem dropHolders_journalOnly (s : State) (line : Nat) (keep : Nat → Bool) : JournalOnly s (s.dropHolders line keep) :=
  withMem_journalOnly ..

theorem fold_journalOnly (s : State) (line : Nat) : JournalOnly s (s.fold line) := by
  unfold State.fold
  dsimp only
  split
  · split
    · exact withMem_journalOnly ..
    · exact ((withMem_journalOnly ..).trans (poke_journalOnly ..)).trans (dropHolders_journalOnly ..)
  · exact .refl s

theorem errRaw_journalOnly (s : State) (type outcome unit addr : Nat) (loc : Word) (syn kind : Nat) :
    JournalOnly s (s.errRaw type outcome unit addr loc syn kind) := by
  unfold State.errRaw
  split
  · exact .refl s
  · split
    · exact withMem_journalOnly ..
    · extract_lets ws s1
      have h1 : JournalOnly s s1 := by
        dsimp only [s1]
        split
        · exact (poke_journalOnly ..).trans (dropHolders_journalOnly ..)
        · exact .refl s
      exact h1.trans (withMem_journalOnly ..)

theorem openLine_journalOnly (s : State) (line : Nat) : JournalOnly s (s.openLine line) := by
  unfold State.openLine
  split
  · exact .refl s
  · dsimp only
    split
    · exact (fold_journalOnly ..).trans (errRaw_journalOnly ..)
    · exact fold_journalOnly ..

theorem put_journalOnly (s : State) (a : Nat) (bs : List Byte) : JournalOnly s (s.put a bs) := by
  unfold State.put
  extract_lets t
  have ht : JournalOnly s t := by
    dsimp only [t]
    split
    · exact .refl s
    · exact .foldl (fun u i => (openLine_journalOnly ..).trans (dropHolders_journalOnly ..)) _ _
  exact ht.trans (poke_journalOnly ..)

theorem pokePa_journalOnly (s : State) (pa : Nat) (bs : List Byte) : JournalOnly s (s.pokePa pa bs) := by
  unfold State.pokePa
  split
  · exact put_journalOnly ..
  · exact .refl s

theorem jrnRaw_journalOnly (s : State) (type slot ctx cause : Nat) (seq : Word) (digest : DWord) :
    JournalOnly s (s.jrnRaw type slot ctx cause seq digest) := by
  unfold State.jrnRaw
  split
  · exact .refl s
  · exact (pokePa_journalOnly ..).trans ⟨rfl⟩

theorem journal_journalOnly (s : State) (type slot ctx cause : Nat) (seq : Word) (digest : DWord) :
    JournalOnly s (s.journal type slot ctx cause seq digest) := by
  unfold State.journal State.jrnHeads
  dsimp only
  split
  · refine (jrnRaw_journalOnly ..).trans (.foldl (fun u p => ?_) _ _)
    split
    · exact jrnRaw_journalOnly ..
    · exact .refl u
  · exact jrnRaw_journalOnly ..

theorem rejectQueued_journalOnly (s : State) (slot ctx : Nat) (head : Word) (n : Nat) :
    JournalOnly s (s.rejectQueued slot ctx head n) := by
  induction n generalizing s head with
  | zero => exact .refl s
  | succ n ih => exact (journal_journalOnly ..).trans (ih ..)

theorem endRecord_journalOnly (s : State) (h : HCmd) (cause : Cause) : JournalOnly s (s.endRecord h cause) := by
  unfold State.endRecord State.failCmd
  split <;> exact journal_journalOnly ..

/-! ### Kills (R69) -/

theorem code_lt (k : Cause) : k.code < 64 := by
  cases k <;> decide

/-- A kill that is not under way disables its context with the cause, and takes its blocks. -/
theorem kill_killed {s : State} {c : Nat} (h : (s.ctx c).killing = false) (k : Cause) : Rules.Killed (s.kill c k) c k.code := by
  unfold State.kill
  rw [if_neg (by simp [h])]
  extract_lets mine s1 s2
  have h1 : JournalOnly s s1 := .foldl (fun u x => endRecord_journalOnly ..) _ _
  have h2 : JournalOnly s s2 := h1.trans (.foldl (fun u p => by
    split
    · exact rejectQueued_journalOnly ..
    · exact .refl u) _ _)
  refine ⟨?_, ?_, ?_, ?_, fun p hp hctx => ?_⟩
  · simp [State.ctx, ngetD]
  · simp [State.ctx, ngetD]
  · simp [State.ctx, ngetD]
  · simp [State.ctx, ngetD, Nat.mod_eq_of_lt (code_lt k)]
  · obtain ⟨hmem, hkeep⟩ := List.mem_filter.1 hp
    rw [h2.blks] at hmem
    have hmine : p.2.adm ∈ mine := List.mem_map.2 ⟨p, List.mem_filter.2 ⟨hmem, by simpa using hctx⟩, rfl⟩
    simp [hmine] at hkeep

/-! ### Context registers (R68, R83, R84) -/

section
variable {s : State} {c : Nat}

@[simp] theorem ctx_dropAll (d : Nat) : (s.dropAll c).ctx d = s.ctx d := rfl

theorem writeCtxctl_kill {v : DWord} (hk : (s.ctx c).killing = false) (hv : v.getLsbD 34 = true) :
    Rules.Killed (s.writeCtxctl c v) c Cause.contextKilled.code := by
  unfold State.writeCtxctl
  extract_lets x s1 s2
  rw [if_pos hv]
  apply kill_killed
  have h1 : (s1.ctx c).killing = false := by simp [s1, ctx_modCtx, hk]
  dsimp only [s2]
  split
  · exact h1
  · rw [ctx_dropAll, ctx_modCtx, if_pos rfl]
    exact h1

/-- Clearing EN of an active context kills it. -/
theorem writeCtxctl_clear_active {v : DWord} (hk : (s.ctx c).killing = false) (he : (s.ctx c).en = true) (h0 : v.getLsbD 0 = false)
    (hv : v.getLsbD 34 = false) (ha : s.ctxActive c = true) : Rules.Killed (s.writeCtxctl c v) c Cause.contextKilled.code := by
  unfold State.writeCtxctl
  simp only [hv, he, h0, ha, Bool.false_eq_true, if_false, if_true]
  apply kill_killed
  simp [ctx_modCtx, hk]

theorem writeCtxctl_clear_idle {v : DWord} (he : (s.ctx c).en = true) (h0 : v.getLsbD 0 = false) (hv : v.getLsbD 34 = false)
    (ha : s.ctxActive c = false) :
    (s.writeCtxctl c v).ctx c = { s.ctx c with en := false, prio := fld v 1 3, weight := fld v 4 8 } := by
  unfold State.writeCtxctl
  simp only [hv, he, h0, ha, Bool.false_eq_true, if_false, if_true]
  simp [ctx_modCtx]

theorem ctx_of_mem_dropAll {e : TlbEntry} (h : e ∈ (s.dropAll c).xl.tlb) : e.ctx ≠ c := by
  simpa using (List.mem_filter.1 h).2

theorem writeCtxctl_set {v : DWord} (hk : (s.ctx c).killing = false) (he : (s.ctx c).en = false) (h0 : v.getLsbD 0 = true)
    (hv : v.getLsbD 34 = false) :
    (s.writeCtxctl c v).ctx c = { s.ctx c with
      en := true, prio := fld v 1 3, weight := fld v 4 8, link := v.getLsbD 12, svm := v.getLsbD 13, pasid := fld v 14 20 } ∧
    ∀ e ∈ (s.writeCtxctl c v).xl.tlb, e.ctx ≠ c := by
  unfold State.writeCtxctl
  simp only [hv, he, hk, h0, Bool.false_eq_true, if_false, if_true, Bool.not_false, Bool.and_self]
  exact ⟨by simp [ctx_modCtx, hk], fun e => ctx_of_mem_dropAll⟩

theorem writeCtxroot_disabled (v : DWord) (he : (s.ctx c).en = false) : (∀ e ∈ (s.writeCtxroot c v).xl.tlb, e.ctx ≠ c) ∧
    ∀ i, ((s.writeCtxroot c v).ctx c).root.getLsbD i = (v.getLsbD i && decide (12 ≤ i)) := by
  unfold State.writeCtxroot
  rw [if_neg (by simp [he])]
  refine ⟨fun e => ctx_of_mem_dropAll, fun i => ?_⟩
  rw [ctx_dropAll, ctx_modCtx, if_pos rfl, getLsbD_above]

/-- The word of a retry, and that of a kill, name FSEQ. -/
theorem fld_fseq (v : DWord) : (fld (at64 0 (v.toNat % 2 ^ 32)) 0 32 : Word) = fld v 0 32 ∧
    (fld (at64 0 (v.toNat % 2 ^ 32) ||| at64 32 1) 0 32 : Word) = fld v 0 32 := by
  constructor <;> apply BitVec.eq_of_toNat_eq <;> simp [fld, at64]

end

/-! ### The host's registers while requests leave their cores (R230) -/

theorem RecdOnly.host {s u : State} (h : RecdOnly s u) : u.host = s.host := by rw [h.same]

@[simp] theorem recordOp_host (s : State) (agent issuer lane obj : Nat) (mo : Bool) (addr close : Option Nat) (msgs : List DWord)
    (more : List Nat) : (s.recordOp agent issuer lane obj mo addr close msgs more).host = s.host := (recordOp_recdOnly ..).host

@[simp] theorem diverge_host (s : State) (agent reason op : Nat) : (s.diverge agent reason op).host = s.host := rfl

@[simp] theorem replayOp_host (s : State) (agent : Nat) (addr close : Option Nat) : (s.replayOp agent addr close).host = s.host := by
  unfold State.replayOp
  split
  · rfl
  · dsimp only
    repeat' split
    all_goals simp

@[simp] theorem note_host (s : State) (agent issuer lane obj : Nat) (mo : Bool) (addr close : Option Nat) (msgs : List DWord)
    (more : List Nat) : (s.note agent issuer lane obj mo addr close msgs more).host = s.host := by
  unfold State.note
  repeat' split
  all_goals simp

@[simp] theorem valueOf_host (s : State) (agent issuer lane kind : Nat) (mask : Word) (live : List DWord) (obj : Nat) (mo : Bool) :
    (s.valueOf agent issuer lane kind mask live obj mo).1.host = s.host := by
  unfold State.valueOf
  dsimp only
  repeat' split
  all_goals simp [(recordValue_recdOnly ..).host]

@[simp] theorem noteAway_host (s : State) (r : Req) : (s.noteAway r).host = s.host := note_host ..

@[simp] theorem sendFlit_host (s : State) (port : Nat) (dev : BitVec 16) (m : PeerMsg) : (s.sendFlit port dev m).host = s.host := by
  unfold State.sendFlit
  split <;> simp

@[simp] theorem sendMsg_host (s : State) (port : Nat) (dev : BitVec 16) (ctx tag : Nat) (op : PeerOp) :
    (s.sendMsg port dev ctx tag op).host = s.host := by
  unfold State.sendMsg
  simp [State.nextMseq]

@[simp] theorem sendLanes_host (s : State) (r : Req) (dev : BitVec 16) (port : Nat) (l : List LaneOp) :
    (s.sendLanes r dev port l).1.host = s.host := by
  induction l generalizing s with
  | nil => rfl
  | cons o l ih =>
    unfold State.sendLanes
    split
    · rfl
    · exact (ih _).trans (sendMsg_host ..)

@[simp] theorem sendPeer_host (s : State) (r : Req) (dev : BitVec 16) : (s.sendPeer r dev).host = s.host := by
  unfold State.sendPeer
  dsimp only
  repeat' split
  all_goals simp

@[simp] theorem hostAtomSend_host (s : State) (r : Req) (link : Nat) (o : LaneOp) : (s.hostAtomSend r link o).host = s.host := by
  unfold State.hostAtomSend
  repeat' split
  all_goals simp

@[simp] theorem replayHost_host (s : State) (r : Req) (kind : Nat) : (s.replayHost r kind).host = s.host := by
  unfold State.replayHost
  simp

@[simp] theorem sendHost_host (s : State) (r : Req) (link : Nat) : (s.sendHost r link).host = s.host := by
  unfold State.sendHost
  dsimp only
  repeat' split
  all_goals simp

theorem sendContrib_host {s u : State} {r : Req} {slot : Nat} {o : LaneOp} (h : s.sendContrib r slot o = some u) : u.host = s.host := by
  unfold State.sendContrib at h
  split at h
  · cases h
    rfl
  · dsimp only at h
    split_ifs at h
    · cases h
      rfl
    · cases h
      exact sendMsg_host ..

@[simp] theorem sendContribs_host (s : State) (r : Req) (slot : Nat) (l : List LaneOp) : (s.sendContribs r slot l).1.host = s.host := by
  induction l generalizing s with
  | nil => rfl
  | cons o l ih =>
    unfold State.sendContribs
    split
    · rfl
    · exact (ih _).trans (sendContrib_host ‹_›)

@[simp] theorem sendWindow_host (s : State) (r : Req) (slot : Nat) : (s.sendWindow r slot).host = s.host := by
  unfold State.sendWindow
  dsimp only
  repeat' split
  all_goals simp

@[simp] theorem admitReq_host (s : State) (id : Nat) : (s.admitReq id).host = s.host := by
  unfold State.admitReq
  dsimp only
  repeat' split
  all_goals simp

theorem foldl_host {α : Type} {f : State → α → State} (hf : ∀ s a, (f s a).host = s.host) (l : List α) (s : State) :
    (l.foldl f s).host = s.host := by
  induction l generalizing s with
  | nil => rfl
  | cons a l ih => exact (ih _).trans (hf s a)

@[simp] theorem admitReqs_host (s : State) : s.admitReqs.host = s.host := foldl_host admitReq_host _ s

@[simp] theorem beginChange_host (s : State) (k : Nat) (m : BankMode) (owner : Option Nat) (who : Option (Nat × Nat)) :
    (s.beginChange k m owner who).host = s.host := by
  unfold State.beginChange
  split <;> simp

@[simp] theorem finishChange_host (s : State) (k : Nat) : (s.finishChange k).host = s.host := by
  unfold State.finishChange
  split
  · rfl
  · simp

@[simp] theorem banksBack_host (s : State) : s.banksBack.host = s.host := foldl_host (fun t p => by simp) _ s

theorem ctx_eq_of_host {s u : State} (h : u.host = s.host) (c : Nat) : u.ctx c = s.ctx c := by
  unfold State.ctx
  rw [h]

/-! ### Resumes, and the end of a kill (R69, R83) -/

/-- A resume that names an unanswered record retries it, or kills its context. -/
theorem writeResume_found {s : State} {c : Nat} {w : DWord} {f : PageFault}
    (h : (s.xl.faults.find? fun f => f.ctx == c && f.written && f.fseq == fld w 0 32) = some f) :
    s.writeResume c w = if w.getLsbD 32 then s.kill c .contextKilled else s.unfault c f.page := by
  unfold State.writeResume
  simp only [h]

theorem execCtxresumeRetry_found {s : State} (ha : s.arg.a < 64) {f : PageFault}
    (hf : (s.xl.faults.find? fun f => f.ctx == s.arg.a && f.written && f.fseq == fld s.arg.v 0 32) = some f) (hq : Rules.NoQueue s) :
    exec .ctxresumeRetry s = .next (s.unfault s.arg.a f.page) := by
  rw [← (fld_fseq s.arg.v).1] at hf
  have hbit : (at64 0 (s.arg.v.toNat % 2 ^ 32)).getLsbD 32 = false := by
    simp only [at64, BitVec.getLsbD_ofNat, pow_zero, mul_one, Nat.testBit_mod_two_pow]
    simp
  change execCtxresumeRetry s = _
  unfold execCtxresumeRetry
  rw [if_pos ha, writeResume_found hf, hbit, admitReqs_of_noQueue (by exact hq)]
  rfl

theorem execCtxresumeKill_found {s : State} (ha : s.arg.a < 64) {f : PageFault}
    (hf : (s.xl.faults.find? fun f => f.ctx == s.arg.a && f.written && f.fseq == fld s.arg.v 0 32) = some f) :
    exec .ctxresumeKill s = .next (s.kill s.arg.a .contextKilled) := by
  rw [← (fld_fseq s.arg.v).2] at hf
  have hbit : (at64 0 (s.arg.v.toNat % 2 ^ 32) ||| at64 32 1).getLsbD 32 = true := by simp [at64]
  change execCtxresumeKill s = _
  unfold execCtxresumeKill
  rw [if_pos ha, writeResume_found hf, if_pos hbit]

/-- A kill with no access in flight completes: only that it was under way is forgotten. -/
theorem execKillComplete_done {s : State} (hk : (s.ctx s.arg.a).killing = true) (hr : ∀ r ∈ s.reqs, r.ctx ≠ s.arg.a) :
    ∃ u, exec .killComplete s = .next u ∧ u.ctx s.arg.a = { s.ctx s.arg.a with killing := false } := by
  change ∃ u, execKillComplete s = _ ∧ _
  unfold execKillComplete
  dsimp only
  rw [if_neg]
  · refine ⟨_, rfl, ?_⟩
    rw [ctx_eq_of_host (banksBack_host _), ctx_modCtx, if_pos rfl]
    rfl
  · rintro (h | h)
    · simp [hk] at h
    · obtain ⟨r, hmem, hctx⟩ := List.any_eq_true.1 h
      simp [hr r hmem] at hctx

theorem contextsChange : Rules.ContextsChange := by
  intro s c v
  refine ⟨fun hc hk => ⟨fun hv => ?_, fun he h0 hv => ⟨fun ha => ?_, fun ha => ?_⟩, fun he h0 hv => ?_, ?_, fun f hf => ?_⟩,
    fun hc => ⟨fun he => ?_, fun he => ?_, fun f hf hq => ?_⟩, fun b hb hk hw hlim => ?_, fun hk hr hq => ?_⟩
  · exact ⟨_, if_pos ⟨hc, hv⟩, writeCtxctl_kill hk hv⟩
  · exact ⟨_, if_pos ⟨hc, he, congrArg not h0⟩, writeCtxctl_clear_active hk he h0 hv ha⟩
  · exact ⟨_, if_pos ⟨hc, he, congrArg not h0⟩, writeCtxctl_clear_idle he h0 hv ha⟩
  · exact ⟨_, if_pos ⟨hc, congrArg not he, h0⟩, writeCtxctl_set hk he h0 hv⟩
  · exact ⟨_, if_pos hc, kill_killed hk _⟩
  · exact ⟨_, execCtxresumeKill_found hc hf, kill_killed hk _⟩
  · exact ⟨_, if_pos hc, writeCtxroot_disabled v he⟩
  · exact (if_pos hc).trans (congrArg Host.Outcome.next (if_pos he))
  · refine ⟨_, execCtxresumeRetry_found hc hf hq, fun g hg hgc => ?_, rfl⟩
    have hgc : g.ctx = s.arg.a := hgc
    simpa [hgc] using (List.mem_filter.1 hg).2
  · refine ⟨s.kill b.info.ctx .watchdog, ?_, kill_killed hk _⟩
    change execWatchdogExpiry s = _
    unfold execWatchdogExpiry
    simp only [hb]
    exact if_pos ⟨hw, hlim⟩
  · obtain ⟨u, hu, hctx⟩ := execKillComplete_done hk hr
    exact ⟨u, hu, by rw [hctx], by rw [hctx]⟩

/-! ### Queue slots (R70, R71) -/

@[simp] theorem slot_modSlot_same (s : State) (n : Nat) (f : QSlot → QSlot) : (s.modSlot n f).slot n = f (s.slot n) := by
  simp [slot_modSlot]

/-- Enabling a slot of a context with room for it. -/
theorem slot_writeSqctl_enabled {s : State} {n : Nat} {v : DWord} (he : (s.slot n).en = false) (h0 : v.getLsbD 0 = true)
    (hroom : s.enabledSlots (fld v 6 6 : BitVec 6).toNat < 16) : (s.writeSqctl n v).slot n = { s.slot n with
      size := fld v 1 4, loc := v.getLsbD 5, ctx := fld v 6 6, en := true, head := ((s.slot n).loaded.getD (0, 0)).1
      tail := ((s.slot n).loaded.getD (0, 0)).2, loaded := none, kick := false, waitSeq := false } := by
  unfold State.writeSqctl
  dsimp only
  rw [if_neg (by simp [he]), if_neg (by simp [h0, hroom]), slot_modSlot_same, slot_modSlot_same]

/-- A seventeenth slot stays disabled. -/
theorem slot_writeSqctl_full {s : State} {n : Nat} {v : DWord} (he : (s.slot n).en = false)
    (hroom : 16 ≤ s.enabledSlots (fld v 6 6 : BitVec 6).toNat) : ((s.writeSqctl n v).slot n).en = false := by
  unfold State.writeSqctl
  dsimp only
  rw [if_neg (by simp [he]), if_pos (by simp [hroom]), slot_modSlot_same]
  exact he

theorem execKickWrite_go {s : State} (hn : s.arg.a / 4096 < 256) (ha : s.arg.a % 4096 = 0) (hb : s.arg.b = 4) :
    exec .kickWrite s = .next (s.kick (s.arg.a / 4096) (fld s.arg.v 0 32)) :=
  if_neg (by omega)

/-! ### Stepping (R150, R151) -/

/-- The block that STEPCTL names, once it is written. -/
def State.named (s : State) (v : DWord) : State :=
  { s with stepctl := { s.stepctl with
    core := fld v 0 8, bctx := fld v 8 4, warp := fld v 12 5, lane := fld v 17 5, all := v.getLsbD 22 } }

theorem writeStepctl_eq (s : State) (v : DWord) : s.writeStepctl v =
    (let s2 := if v.getLsbD 23 then (s.named v).stepHalt else s.named v
     let s3 := if v.getLsbD 24 then s2.stepStep else s2
     if v.getLsbD 33 then s3.stepRun else s3) := rfl

section
variable {s : State} {b : Blk} (hb : s.steppedBlk = some b)
include hb

theorem blk?_stepHalt : s.stepHalt.blk? s.stepctl.core.toNat s.stepctl.bctx.toNat = some { b with halted := true } := by
  unfold State.stepHalt
  rw [modBlk_eq hb]
  exact blk?_setBlk ..

theorem blk?_stepRun : s.stepRun.blk? s.stepctl.core.toNat s.stepctl.bctx.toNat = some { b with halted := false, stepping := false } := by
  unfold State.stepRun
  rw [modBlk_eq hb]
  exact blk?_setBlk ..

/-- STEP of a halted block begins the step. -/
theorem stepStep_begins {t : Thr} (hh : b.halted = true) (ht : b.thr? s.stepctl.warp.toNat = some t) :
    ∃ b', s.stepStep.blk? s.stepctl.core.toNat s.stepctl.bctx.toNat = some b' ∧ b'.stepping = true ∧ b'.halted = true ∧
      s.stepStep.stepctl.active = true ∧ s.stepStep.stepctl.done = false := by
  unfold State.steppedBlk at hb
  unfold State.stepStep
  dsimp only
  simp only [hb, ht]
  rw [if_neg (by simp [hh])]
  exact ⟨_, blk?_setBlk .., rfl, hh, rfl, rfl⟩

end

/-- A step that took no trap is over: BLOCKED gives CAUSE 0 (log entry 39), and otherwise it is SINGLE_STEP. -/
theorem execStepDone_quiet {s : State} (hact : s.stepctl.active = true) (htodo : s.stepctl.todo = []) (hdr : s.stepDrained = true) {t : Thr}
    (ht : s.thr? s.stepctl.core.toNat s.stepctl.bctx.toNat s.stepctl.warp.toNat = some t) (hh : t.handling = none) (hq : t.trapQ = []) :
    exec .stepDone s = .next { s.modBlk s.stepctl.core.toNat s.stepctl.bctx.toNat fun b => { b with stepping := false } with
      stepctl := { s.stepctl with
        done := true, active := false, cause := BitVec.ofNat 6 (if s.stepctl.blocked then 0 else Cause.singleStep.code) } } := by
  change execStepDone s = _
  unfold execStepDone
  dsimp only
  rw [if_neg (by simp [hact, htodo, hdr])]
  simp [ht, hh, hq]

theorem slotsAndSteps : Rules.SlotsAndSteps := by
  intro s v
  refine ⟨fun ha he h0 => ⟨_, if_pos ⟨ha, congrArg not he, h0⟩, fun hroom => ?_, slot_writeSqctl_full he⟩,
    fun n q tail hn hq ht hlt ha hb => ⟨fun hen hfit => ?_, fun hbad => ?_⟩, fun b hb => ⟨fun h23 h24 h33 => ?_, fun h23 h24 h33 => ?_,
      fun t h23 h24 h33 hhalt ht => ?_⟩, fun hact htodo hdr t ht hh hq => ?_⟩
  · rw [slot_writeSqctl_enabled he h0 hroom]
    exact ⟨rfl, rfl, rfl, rfl, rfl, rfl⟩
  · subst hn hq ht
    refine ⟨_, execKickWrite_go hlt ha hb, ?_⟩
    unfold State.kick
    rw [slot_modSlot_same]
    exact if_neg (by rw [hen]; rintro (h | h); exacts [Bool.noConfusion h, absurd hfit (Nat.not_le.2 h)])
  · subst hn hq ht
    refine ⟨_, execKickWrite_go hlt ha hb, ?_⟩
    unfold State.kick
    rw [slot_modSlot_same]
    exact if_pos (hbad.imp_left (congrArg not ·))
  · refine ⟨_, if_pos h23, ?_⟩
    have he : s.writeStepctl v = (s.named v).stepHalt := by
      rw [writeStepctl_eq, h23, h24, h33]
      rfl
    rw [he]
    exact blk?_stepHalt (s := s.named v) hb
  · refine ⟨_, if_pos h33, ?_⟩
    have he : s.writeStepctl v = (s.named v).stepRun := by
      rw [writeStepctl_eq, h23, h24, h33]
      rfl
    rw [he]
    exact ⟨blk?_stepRun (s := s.named v) hb, rfl⟩
  · have he : s.writeStepctl v = (s.named v).stepStep := by
      rw [writeStepctl_eq, h23, h24, h33]
      rfl
    obtain ⟨b', h1, h2, h3, h4, h5⟩ := stepStep_begins (s := s.named v) hb hhalt ht
    refine ⟨_, b', if_pos h24, ?_, h2, h3, ?_, ?_⟩ <;> rw [he]
    · exact h1
    · exact h4
    · exact h5
  · refine ⟨_, execStepDone_quiet hact htodo hdr ht hh hq, rfl, rfl, ?_⟩
    dsimp only
    split <;> rfl

/-! ### Invalidations (R86, R87) -/

/-- Translations only go, and invalidations only begin. -/
structure Invalidated (s u : State) : Prop where
  tlb : ∀ e ∈ u.xl.tlb, e ∈ s.xl.tlb
  invals : ∀ k ∈ s.xl.invals, k ∈ u.xl.invals

namespace Invalidated

theorem refl (s : State) : Invalidated s s := ⟨fun _ h => h, fun _ h => h⟩

theorem trans {s u v : State} (h : Invalidated s u) (g : Invalidated u v) : Invalidated s v :=
  ⟨fun e he => h.tlb e (g.tlb e he), fun k hk => g.invals k (h.invals k hk)⟩

theorem foldl {α : Type} {f : State → α → State} (h : ∀ s a, Invalidated s (f s a)) :
    ∀ (l : List α) (s : State), Invalidated s (l.foldl f s)
  | [], s => refl s
  | a :: l, s => (h s a).trans (foldl h l (f s a))

end Invalidated

section
variable (s : State) (c : Nat) (base : DWord) (bytes : Nat) (byCtx : Bool) (ats : Option Nat)

theorem beginInval_invalidated : Invalidated s (s.beginInval c base bytes byCtx ats).1 where
  tlb _ he := (List.mem_filter.1 he).1
  invals _ hk := List.mem_append_left _ hk

/-- An invalidation is begun. -/
theorem beginInval_begins : ∃ k ∈ (s.beginInval c base bytes byCtx ats).1.xl.invals, k.ctx = c ∧ k.byCtx = byCtx ∧ k.ats = ats :=
  ⟨_, List.mem_append_right _ (List.mem_singleton.2 rfl), rfl, rfl, rfl⟩

/-- The context keeps no translation of the pages named, of any page where none is. -/
theorem beginInval_drops {e : TlbEntry} (he : e ∈ (s.beginInval c base bytes byCtx ats).1.xl.tlb) (hc : e.ctx = c) :
    bytes ≠ 0 ∧ (e.page < pageOf base ∨ (untag base + bytes - 1) / 4096 < e.page) := by
  have hkeep := (List.mem_filter.1 he).2
  simp only [hc, beq_self_eq_true, Bool.true_and, Bool.not_eq_true', Bool.or_eq_false_iff, beq_eq_false_iff_ne,
    Bool.and_eq_false_iff, decide_eq_false_iff_not] at hkeep
  obtain ⟨hn, hp⟩ := hkeep
  exact ⟨hn, by omega⟩

end

/-- An invalidation begun in each of several contexts. -/
theorem foldl_beginInval (base : DWord) {bytes : Nat} (who : Nat) {cs : List Nat} {c : Nat} (hc : c ∈ cs) (s : State) :
    (∃ k ∈ (cs.foldl (fun t c => (t.beginInval c base bytes false (some who)).1) s).xl.invals, k.ctx = c ∧ k.ats.isSome = true) ∧
    ∀ e ∈ (cs.foldl (fun t c => (t.beginInval c base bytes false (some who)).1) s).xl.tlb, e.ctx = c →
      e.page < pageOf base ∨ (untag base + bytes - 1) / 4096 < e.page := by
  induction cs generalizing s with
  | nil => cases hc
  | cons d cs ih =>
    rcases List.mem_cons.1 hc with rfl | hmem
    · have hrest : Invalidated (s.beginInval c base bytes false (some who)).1
          ((c :: cs).foldl (fun t c => (t.beginInval c base bytes false (some who)).1) s) :=
        .foldl (fun t a => beginInval_invalidated t a base bytes false (some who)) cs _
      obtain ⟨k, hk, hctx, -, hats⟩ := beginInval_begins s c base bytes false (some who)
      exact ⟨⟨k, hrest.invals k hk, hctx, by rw [hats]; rfl⟩, fun e he hec => (beginInval_drops _ _ _ _ _ _ (hrest.tlb e he) hec).2⟩
    · exact ih hmem _

/-! ### INVALIDATION_COMPLETE -/

/-- Only host commands change, none goes, and one that ended well stays so. -/
structure CmdsEnd (s u : State) : Prop where
  same : u = { s with host := { s.host with cmds := u.host.cmds } }
  kept : ∀ j ∈ s.host.cmds, ∃ i ∈ u.host.cmds, i.slot = j.slot ∧ i.seq = j.seq ∧ (j.stage = .finished none → i.stage = .finished none)

theorem CmdsEnd.trans {s u v : State} (h : CmdsEnd s u) (g : CmdsEnd u v) : CmdsEnd s v where
  same := by rw [g.same, h.same]
  kept j hj := by
    obtain ⟨i, hi, h1, h2, h3⟩ := h.kept j hj
    obtain ⟨k, hk, g1, g2, g3⟩ := g.kept i hi
    exact ⟨k, hk, g1.trans h1, g2.trans h2, g3 ∘ h3⟩

/-- Ends a command that waited for invalidation `id`. -/
def State.endWaiting (id : Nat) (t : State) (h : HCmd) : State :=
  if h.inval = some id then t.endHostCmd h.slot h.seq none else t

theorem endWaiting_cmdsEnd (id : Nat) (t : State) (h : HCmd) : CmdsEnd t (t.endWaiting id h) := by
  unfold State.endWaiting
  split
  · refine ⟨rfl, fun j hj => ⟨_, List.mem_map.2 ⟨j, hj, rfl⟩, ?_⟩⟩
    split <;> simp
  · exact ⟨rfl, fun j hj => ⟨j, hj, rfl, rfl, fun hs => hs⟩⟩

theorem endWaiting_ends {id : Nat} {t : State} {h : HCmd} (hi : h.inval = some id) {j : HCmd} (hj : j ∈ t.host.cmds)
    (hslot : j.slot = h.slot) (hseq : j.seq = h.seq) :
    ∃ i ∈ (t.endWaiting id h).host.cmds, i.slot = h.slot ∧ i.seq = h.seq ∧ i.stage = .finished none := by
  unfold State.endWaiting
  rw [if_pos hi]
  exact ⟨_, List.mem_map.2 ⟨j, hj, if_pos ⟨hslot, hseq⟩⟩, hslot, hseq, rfl⟩

theorem foldl_endWaiting (id : Nat) : ∀ (l : List HCmd) (s : State), CmdsEnd s (l.foldl (State.endWaiting id) s)
  | [], _ => ⟨rfl, fun j hj => ⟨j, hj, rfl, rfl, fun hs => hs⟩⟩
  | h :: l, s => (endWaiting_cmdsEnd id s h).trans (foldl_endWaiting id l _)

/-- Every command that waited for the invalidation is over. -/
theorem foldl_endWaiting_ends {id : Nat} {l : List HCmd} {h : HCmd} (hl : h ∈ l) (hi : h.inval = some id) {s : State} {j : HCmd}
    (hj : j ∈ s.host.cmds) (hslot : j.slot = h.slot) (hseq : j.seq = h.seq) :
    ∃ i ∈ (l.foldl (State.endWaiting id) s).host.cmds, i.slot = h.slot ∧ i.seq = h.seq ∧ i.stage = .finished none := by
  induction l generalizing s j with
  | nil => cases hl
  | cons a l ih =>
    rw [List.foldl_cons]
    rcases List.mem_cons.1 hl with rfl | hmem
    · obtain ⟨i, hi', h1, h2, h3⟩ := endWaiting_ends hi hj hslot hseq
      obtain ⟨k, hk, g1, g2, g3⟩ := (foldl_endWaiting id l _).kept i hi'
      exact ⟨k, hk, g1.trans h1, g2.trans h2, g3 h3⟩
    · obtain ⟨i, hi', h1, h2, -⟩ := (endWaiting_cmdsEnd id s a).kept j hj
      exact ih hmem hi' (h1.trans hslot) (h2.trans hseq)

/-- A completed invalidation is forgotten, and its context is free where no other names it. -/
def State.invalFreed (s : State) (k : Inval) : State :=
  let rest := s.xl.invals.filter fun x => x.id != k.id
  let s1 : State := { s with xl := { s.xl with invals := rest } }
  if k.byCtx && !(rest.any fun x => x.byCtx && x.ctx == k.ctx) then s1.modCtx k.ctx fun x => { x with invalBusy := false } else s1

/-- And the host link that asked for it is told, with the last one it asked for. -/
def State.invalOver (s : State) (k : Inval) : State :=
  match k.ats with
  | some who =>
    if (s.xl.invals.filter fun x => x.id != k.id).any fun x => x.ats == some who then s.invalFreed k
    else (s.invalFreed k).emit (.atsInvalDone (who % 2))
  | none => s.invalFreed k

theorem execInvalidationComplete_done {s : State} {k : Inval} (hk : (s.xl.invals.find? fun x => x.id == s.arg.a) = some k)
    (hd : s.invalDone k = true) :
    exec .invalidationComplete s = .next ((s.invalOver k).host.cmds.foldl (State.endWaiting k.id) (s.invalOver k)) := by
  change execInvalidationComplete s = _
  unfold execInvalidationComplete
  simp only [hk, hd, Bool.not_true, Bool.false_eq_true, if_false]
  rfl

section
variable (s : State) (k : Inval)

theorem invalFreed_xl : (s.invalFreed k).xl = { s.xl with invals := s.xl.invals.filter fun x => x.id != k.id } := by
  unfold State.invalFreed
  dsimp only
  split <;> rfl

theorem invalFreed_cmds : (s.invalFreed k).host.cmds = s.host.cmds := by
  unfold State.invalFreed
  dsimp only
  split <;> rfl

theorem invalFreed_outbox : (s.invalFreed k).outbox = s.outbox := by
  unfold State.invalFreed
  dsimp only
  split <;> rfl

/-- Telling the link changes the outbox alone. -/
theorem invalOver_eq : ∃ o, s.invalOver k = { s.invalFreed k with outbox := o } := by
  unfold State.invalOver
  split
  · split
    · exact ⟨_, rfl⟩
    · exact ⟨_, rfl⟩
  · exact ⟨_, rfl⟩

end

theorem invalFreed_invalBusy {s : State} {k : Inval} (hb : k.byCtx = true)
    (hr : ∀ x ∈ s.xl.invals, x.id ≠ k.id → x.byCtx = false ∨ x.ctx ≠ k.ctx) : ((s.invalFreed k).ctx k.ctx).invalBusy = false := by
  have hnone : ((s.xl.invals.filter fun x => x.id != k.id).any fun x => x.byCtx && x.ctx == k.ctx) = false := by
    refine List.any_eq_false.2 fun x hx => ?_
    obtain ⟨hmem, hid⟩ := List.mem_filter.1 hx
    rcases hr x hmem (by simpa using hid) with h | h <;> simp [h]
  unfold State.invalFreed
  dsimp only
  rw [if_pos (by rw [hnone, hb]; rfl), ctx_modCtx, if_pos rfl]

theorem invalOver_outbox {s : State} {k : Inval} {who : Nat} (ha : k.ats = some who)
    (hr : ∀ x ∈ s.xl.invals, x.id ≠ k.id → x.ats ≠ some who) : (s.invalOver k).outbox = s.outbox ++ [.atsInvalDone (who % 2)] := by
  have hnone : ((s.xl.invals.filter fun x => x.id != k.id).any fun x => x.ats == some who) = false := by
    refine List.any_eq_false.2 fun x hx => ?_
    obtain ⟨hmem, hid⟩ := List.mem_filter.1 hx
    simpa using hr x hmem (by simpa using hid)
  unfold State.invalOver
  simp only [ha, hnone, Bool.false_eq_true, if_false]
  rw [emit_outbox, invalFreed_outbox]

/-! ### Sessions (R94) -/

theorem getLsbD_ideKeys (old : BitVec 2) {link : Nat} (hl : link < 2) (set : Bool) :
    (if set then old ||| (1 : BitVec 2) <<< link else old &&& ~~~((1 : BitVec 2) <<< link)).getLsbD link = set := by
  cases set <;> interval_cases link <;> simp

theorem invalidationsAndSessions : Rules.InvalidationsAndSessions := by
  intro s uses
  refine ⟨⟨fun hnone => ?_, fun c hc hu hv => ?_⟩, fun ha => ?_, fun k hk hd => ?_, fun h => ?_, fun h => ?_, fun link set h hl =>
    ⟨fun hs => ?_, fun hs => ?_⟩⟩
  · change execAtsInvalidationRequest s = _
    unfold execAtsInvalidationRequest
    dsimp only
    rw [if_pos]
    rw [List.isEmpty_iff, List.filter_eq_nil_iff]
    intro c hc h
    exact hnone c (List.mem_range.1 hc) (by simpa [uses, and_assoc] using h)
  · have hmem : c ∈ (List.range 64).filter fun c =>
        (s.ctx c).svm && (s.ctx c).link.toNat == s.arg.a % 2 && (s.ctx c).pasid.toNat == s.arg.v.toNat :=
      List.mem_filter.2 ⟨List.mem_range.2 hc, by simpa [uses, and_assoc] using hu⟩
    have he : exec .atsInvalidationRequest s = .next _ := if_neg (by simpa using List.ne_nil_of_mem hmem)
    exact ⟨_, he, foldl_beginInval _ _ hmem s⟩
  · have he : exec .ctxinvalAll s = .next ((s.beginInval s.arg.a 0 0 true none).1.modCtx s.arg.a fun x => { x with invalBusy := true }) :=
      if_pos ha
    refine ⟨_, he, ?_, fun e he hc => ?_, ?_⟩
    · rw [ctx_modCtx, if_pos rfl]
    · exact (beginInval_drops s s.arg.a 0 0 true none he hc).1 rfl
    · obtain ⟨k, hk, h1, h2, -⟩ := beginInval_begins s s.arg.a 0 0 true none
      exact ⟨k, hk, h1, h2⟩
  · obtain ⟨o, ho⟩ := invalOver_eq s k
    have hend := foldl_endWaiting k.id (s.invalOver k).host.cmds (s.invalOver k)
    refine ⟨_, execInvalidationComplete_done hk hd, fun x hx => ?_, fun hb hr => ?_, fun who ha hr => ?_, fun h hh hi => ?_⟩
    · rw [hend.same, ho] at hx
      have hx' : x ∈ (s.invalFreed k).xl.invals := hx
      rw [invalFreed_xl] at hx'
      simpa using (List.mem_filter.1 hx').2
    · rw [hend.same, ho]
      exact invalFreed_invalBusy hb hr
    · rw [hend.same]
      exact invalOver_outbox ha hr
    · have hmem : h ∈ (s.invalOver k).host.cmds := by
        rw [ho]
        exact (invalFreed_cmds s k).symm ▸ hh
      exact foldl_endWaiting_ends hmem hi hmem rfl rfl
  · change ∃ u, execManagementSpdmRequest s = _ ∧ _
    unfold execManagementSpdmRequest
    rw [h]
    exact ⟨_, rfl, rfl⟩
  · change ∃ u, execManagementSpdmRequest s = _ ∧ _
    unfold execManagementSpdmRequest
    rw [h]
    exact ⟨_, rfl, rfl⟩
  · change execManagementSpdmRequest s = _
    unfold execManagementSpdmRequest
    rw [h]
    exact if_pos (.inl (by simp [hs]))
  · change ∃ u, execManagementSpdmRequest s = _ ∧ _
    unfold execManagementSpdmRequest
    rw [h]
    exact ⟨_, if_neg (by simp [hs, hl]), getLsbD_ideKeys _ hl set⟩

/-- Settles O23: the four parts, each from what its events write. -/
theorem registersAct : Obligations.RegistersAct := ⟨invalidationsAndSessions, registersReadAndWrite, contextsChange, slotsAndSteps⟩

end Sys2Proof.Machine
end

section
/-! Every step keeps the canonical form of memory (O38). Each function of the model that hands on a state keeps `State.Wf`, as one
lemma a function, in the model's own order; the lemmas are `simp` rules, so that a function's proof names only what its callees do not
settle. -/

namespace Sys2Proof.Machine

/-! ### What it means for a result to hold memory in canonical form -/

/-- The memory of a state is in canonical form (log entry 1). -/
def State.Wf (s : State) : Prop := Memory.wf s.mem.bytes = true

/-- The machine behind an engine's view has canonical memory. -/
def Eng.Wf (e : Eng) : Prop := e.s.Wf

/-- The next state of an outcome, if there is one, has canonical memory. -/
def OutcomeWf : Host.Outcome State Fault Refusal → Prop
  | .next s => s.Wf
  | _ => True

/-- The state in an option, if there is one, has canonical memory. -/
def OptionWf : Option State → Prop
  | some s => s.Wf
  | none => True

/-- A computation that succeeds leaves canonical memory in the state that `g` finds in its result. -/
def ExceptWf {ε α : Type} (g : α → State) : Except ε α → Prop
  | .ok a => (g a).Wf
  | .error _ => True

/-- The state a table read hands on has canonical memory. -/
def PageNow.Wf : PageNow → Prop
  | .leaf s _ | .wait s _ => s.Wf

/-- The state a clause fetch hands on has canonical memory. -/
def Fetched.Wf : Fetched → Prop
  | .ok s _ | .stall s | .fault s _ _ _ | .miss s _ _ => s.Wf

/-- The state in which a fetch begins a walk has canonical memory. -/
def FetchAt.Wf : FetchAt → Prop
  | .walk s => s.Wf
  | _ => True

/-- The state after a look for a code line has canonical memory. -/
def CodeLine.Wf : CodeLine → Prop
  | .ok s | .wait s => s.Wf
  | .fault _ => True

/-- The state after an access to a control structure has canonical memory. -/
def CtlRes.Wf {α : Type} : CtlRes α → Prop
  | .ok s _ | .fault s _ | .wait s _ => s.Wf

/-- The state after the read of a queue entry has canonical memory. -/
def EntryRead.Wf : EntryRead → Prop
  | .bytes s _ | .unreadable s => s.Wf
  | .later => True

/-- The state in which a range waits for its pages has canonical memory. -/
def HomeRange.Wf : HomeRange → Prop
  | .waits s _ => s.Wf
  | _ => True

/-- The state after the read of a graph's nodes has canonical memory. -/
def ArmRead.Wf : ArmRead → Prop
  | .nodes s _ | .fails s _ | .waits s _ => s.Wf

section
variable {s : State}

@[simp] theorem outcomeWf_next : OutcomeWf (.next s) ↔ s.Wf := Iff.rfl
@[simp] theorem outcomeWf_fault (r : Fault) : OutcomeWf (.fault r) := trivial
@[simp] theorem outcomeWf_refused (r : Refusal) : OutcomeWf (.refused r) := trivial
@[simp] theorem optionWf_some : OptionWf (some s) ↔ s.Wf := Iff.rfl
@[simp] theorem optionWf_none : OptionWf none := trivial
@[simp] theorem exceptWf_ok {ε α : Type} (g : α → State) (a : α) : ExceptWf g (.ok a : Except ε α) ↔ (g a).Wf := Iff.rfl
@[simp] theorem exceptWf_pure {ε α : Type} (g : α → State) (a : α) : ExceptWf g (pure a : Except ε α) ↔ (g a).Wf := exceptWf_ok g a
@[simp] theorem exceptWf_error {ε α : Type} (g : α → State) (x : ε) : ExceptWf g (.error x : Except ε α) := trivial
@[simp] theorem pageNow_leaf_wf (l : Leaf) : (PageNow.leaf s l).Wf ↔ s.Wf := Iff.rfl
@[simp] theorem pageNow_wait_wf (p : Option Nat) : (PageNow.wait s p).Wf ↔ s.Wf := Iff.rfl
@[simp] theorem fetched_ok_wf (k : Clause) : (Fetched.ok s k).Wf ↔ s.Wf := Iff.rfl
@[simp] theorem fetched_stall_wf : (Fetched.stall s).Wf ↔ s.Wf := Iff.rfl
@[simp] theorem fetched_fault_wf (c : Cause) (a : DWord) (hdr : Option Word) : (Fetched.fault s c a hdr).Wf ↔ s.Wf := Iff.rfl
@[simp] theorem fetched_miss_wf (va : DWord) (hdr : Option Word) : (Fetched.miss s va hdr).Wf ↔ s.Wf := Iff.rfl
@[simp] theorem fetchAt_at_wf (a : Nat) (p : Bool) : (FetchAt.at a p).Wf := trivial
@[simp] theorem fetchAt_walk_wf : (FetchAt.walk s).Wf ↔ s.Wf := Iff.rfl
@[simp] theorem fetchAt_miss_wf : FetchAt.miss.Wf := trivial
@[simp] theorem fetchAt_fault_wf (c : Cause) : (FetchAt.fault c).Wf := trivial
@[simp] theorem codeLine_ok_wf : (CodeLine.ok s).Wf ↔ s.Wf := Iff.rfl
@[simp] theorem codeLine_wait_wf : (CodeLine.wait s).Wf ↔ s.Wf := Iff.rfl
@[simp] theorem codeLine_fault_wf (c : Cause) : (CodeLine.fault c).Wf := trivial
@[simp] theorem ctlRes_ok_wf {α : Type} (x : α) : (CtlRes.ok s x).Wf ↔ s.Wf := Iff.rfl
@[simp] theorem ctlRes_fault_wf {α : Type} (c : Cause) : (CtlRes.fault (α := α) s c).Wf ↔ s.Wf := Iff.rfl
@[simp] theorem ctlRes_wait_wf {α : Type} (p : Option Nat) : (CtlRes.wait (α := α) s p).Wf ↔ s.Wf := Iff.rfl
@[simp] theorem entryRead_bytes_wf (bs : List Byte) : (EntryRead.bytes s bs).Wf ↔ s.Wf := Iff.rfl
@[simp] theorem entryRead_unreadable_wf : (EntryRead.unreadable s).Wf ↔ s.Wf := Iff.rfl
@[simp] theorem entryRead_later_wf : EntryRead.later.Wf := trivial
@[simp] theorem homeRange_waits_wf (p : Option Nat) : (HomeRange.waits s p).Wf ↔ s.Wf := Iff.rfl
@[simp] theorem homeRange_mapped_wf : HomeRange.mapped.Wf := trivial
@[simp] theorem homeRange_fails_wf (c : Cause) : (HomeRange.fails c).Wf := trivial
@[simp] theorem armRead_nodes_wf (ns : List ArmNode) : (ArmRead.nodes s ns).Wf ↔ s.Wf := Iff.rfl
@[simp] theorem armRead_fails_wf (c : Cause) : (ArmRead.fails s c).Wf ↔ s.Wf := Iff.rfl
@[simp] theorem armRead_waits_wf (p : Option Nat) : (ArmRead.waits s p).Wf ↔ s.Wf := Iff.rfl

/-! What a result that has been split tells of the state in it. -/

theorem OutcomeWf.next {o : Host.Outcome State Fault Refusal} (h : OutcomeWf o) (e : o = .next s) : s.Wf := by subst e; exact h
theorem OptionWf.some {o : Option State} (h : OptionWf o) (e : o = .some s) : s.Wf := by subst e; exact h
theorem ExceptWf.ok {ε α : Type} {g : α → State} {o : Except ε α} {a : α} (h : ExceptWf g o) (e : o = .ok a) : (g a).Wf := by
  subst e; exact h
theorem PageNow.Wf.leaf {r : PageNow} {l : Leaf} (h : r.Wf) (e : r = .leaf s l) : s.Wf := by subst e; exact h
theorem PageNow.Wf.wait {r : PageNow} {p : Option Nat} (h : r.Wf) (e : r = .wait s p) : s.Wf := by subst e; exact h
theorem Fetched.Wf.ok {r : Fetched} {k : Clause} (h : r.Wf) (e : r = .ok s k) : s.Wf := by subst e; exact h
theorem Fetched.Wf.stall {r : Fetched} (h : r.Wf) (e : r = .stall s) : s.Wf := by subst e; exact h
theorem Fetched.Wf.fault {r : Fetched} {c : Cause} {a : DWord} {hdr : Option Word} (h : r.Wf) (e : r = .fault s c a hdr) : s.Wf := by
  subst e; exact h
theorem Fetched.Wf.miss {r : Fetched} {a : DWord} {hdr : Option Word} (h : r.Wf) (e : r = .miss s a hdr) : s.Wf := by subst e; exact h
theorem FetchAt.Wf.walk {r : FetchAt} (h : r.Wf) (e : r = .walk s) : s.Wf := by subst e; exact h
theorem CodeLine.Wf.ok {r : CodeLine} (h : r.Wf) (e : r = .ok s) : s.Wf := by subst e; exact h
theorem CodeLine.Wf.wait {r : CodeLine} (h : r.Wf) (e : r = .wait s) : s.Wf := by subst e; exact h
theorem CtlRes.Wf.ok {α : Type} {r : CtlRes α} {x : α} (h : r.Wf) (e : r = .ok s x) : s.Wf := by subst e; exact h
theorem CtlRes.Wf.fault {α : Type} {r : CtlRes α} {c : Cause} (h : r.Wf) (e : r = .fault s c) : s.Wf := by subst e; exact h
theorem CtlRes.Wf.wait {α : Type} {r : CtlRes α} {p : Option Nat} (h : r.Wf) (e : r = .wait s p) : s.Wf := by subst e; exact h
theorem EntryRead.Wf.bytes {r : EntryRead} {bs : List Byte} (h : r.Wf) (e : r = .bytes s bs) : s.Wf := by subst e; exact h
theorem EntryRead.Wf.unreadable {r : EntryRead} (h : r.Wf) (e : r = .unreadable s) : s.Wf := by subst e; exact h
theorem HomeRange.Wf.waits {r : HomeRange} {p : Option Nat} (h : r.Wf) (e : r = .waits s p) : s.Wf := by subst e; exact h
theorem ArmRead.Wf.nodes {r : ArmRead} {ns : List ArmNode} (h : r.Wf) (e : r = .nodes s ns) : s.Wf := by subst e; exact h
theorem ArmRead.Wf.fails {r : ArmRead} {c : Cause} (h : r.Wf) (e : r = .fails s c) : s.Wf := by subst e; exact h
theorem ArmRead.Wf.waits {r : ArmRead} {p : Option Nat} (h : r.Wf) (e : r = .waits s p) : s.Wf := by subst e; exact h

theorem wf_of_eq {α : Type} {p : State × α} {x : α} (h : p.1.Wf) (e : p = (s, x)) : s.Wf := by subst e; exact h

theorem wf_eng_of_eq {α : Type} {p : Eng × α} {e : Eng} {x : α} (h : p.1.Wf) (he : p = (e, x)) : e.Wf := by subst he; exact h

/-! Results under conditions, in computations and in folds. -/

@[simp] theorem bytes_wf_iff : Memory.wf s.mem.bytes = true ↔ s.Wf := Iff.rfl
@[simp] theorem eng_s_wf_iff (e : Eng) : e.s.Wf ↔ e.Wf := Iff.rfl
@[simp] theorem wf_ite {p : Prop} [Decidable p] {s t : State} : (if p then s else t).Wf ↔ if p then s.Wf else t.Wf := by split <;> rfl
@[simp] theorem eng_wf_ite {p : Prop} [Decidable p] {s t : Eng} : (if p then s else t).Wf ↔ if p then s.Wf else t.Wf := by split <;> rfl
@[simp] theorem outcomeWf_ite {p : Prop} [Decidable p] {x y : Host.Outcome State Fault Refusal} :
    OutcomeWf (if p then x else y) ↔ if p then OutcomeWf x else OutcomeWf y := by split <;> rfl
@[simp] theorem exceptWf_ite {ε α : Type} {g : α → State} {p : Prop} [Decidable p] {x y : Except ε α} :
    ExceptWf g (if p then x else y) ↔ if p then ExceptWf g x else ExceptWf g y := by split <;> rfl

theorem exceptWf_bind {ε α β : Type} {g : α → State} {k : β → State} {x : Except ε α} {f : α → Except ε β}
    (hx : ExceptWf g x) (hf : ∀ a, (g a).Wf → ExceptWf k (f a)) : ExceptWf k (x >>= f) := by
  cases x with
  | error e => exact exceptWf_error k e
  | ok a => exact hf a hx

theorem exceptWf_map {ε α β : Type} {g : α → State} {k : β → State} {x : Except ε α} {f : α → β}
    (hf : ∀ a, (g a).Wf → (k (f a)).Wf) (hx : ExceptWf g x) : ExceptWf k (x.map f) := by
  cases x with
  | error e => exact exceptWf_error k e
  | ok a => exact (exceptWf_ok k (f a)).2 (hf a hx)

theorem exceptWf_foldlM {ε α β : Type} {g : β → State} {f : β → α → Except ε β}
    (hf : ∀ b a, (g b).Wf → ExceptWf g (f b a)) : ∀ (l : List α) (b : β), (g b).Wf → ExceptWf g (l.foldlM f b)
  | [], b, h => (exceptWf_pure g b).2 h
  | a :: l, b, h => exceptWf_bind (hf b a h) (exceptWf_foldlM hf l)

theorem wf_foldl {α : Type} {f : State → α → State} (hf : ∀ t a, t.Wf → (f t a).Wf) (l : List α) (h : s.Wf) :
    (l.foldl f s).Wf := by
  induction l generalizing s with
  | nil => exact h
  | cons a l ih => exact ih (hf s a h)

theorem wf_foldl_fst {α β : Type} {f : State × β → α → State × β} (hf : ∀ t a, t.1.Wf → (f t a).1.Wf) (l : List α) {x : State × β}
    (h : x.1.Wf) : (l.foldl f x).1.Wf := by
  induction l generalizing x with
  | nil => exact h
  | cons a l ih => exact ih (hf x a h)

theorem wf_foldl_eng {α : Type} {f : Eng → α → Eng} (hf : ∀ t a, t.Wf → (f t a).Wf) (l : List α) {e : Eng} (h : e.Wf) :
    (l.foldl f e).Wf := by
  induction l generalizing e with
  | nil => exact h
  | cons a l ih => exact ih (hf e a h)
end

/-! A record update that leaves memory alone -/
@[simp] theorem state_mk_wf
    (x1 x2 x3 x4 x5 x6 x7 x8 x9 x10 x11 x12 m x14 x15 x16 x17 x18 x19 x20 x21 x22 x23 x24 x25 x26 x27 x28 x29 x30 x31 x32) :
    State.Wf
        ⟨x1, x2, x3, x4, x5, x6, x7, x8, x9, x10, x11, x12, m, x14, x15, x16, x17, x18, x19, x20, x21, x22, x23, x24, x25, x26, x27,
      x28, x29, x30, x31, x32⟩ ↔ m.bytes.wf = true := Iff.rfl
@[simp] theorem eng_mk_wf (s x2 x3 x4 x5 x6 x7 x8 x9 x10 x11 x12 x13) :
    Eng.Wf ⟨s, x2, x3, x4, x5, x6, x7, x8, x9, x10, x11, x12, x13⟩ ↔ s.Wf := Iff.rfl

section
variable {s : State} (h : s.Wf)
include h
@[simp] theorem wf_poke (a : Nat) (bs : List Byte) : (s.poke a bs).Wf := poke_wf h a bs
@[simp] theorem wf_fold (line : Nat) : (s.fold line).Wf := fold_wf h line
@[simp] theorem wf_errRaw (ty out u a : Nat) (l : Word) (y k : Nat) : (s.errRaw ty out u a l y k).Wf := errRaw_wf h ..
@[simp] theorem wf_openLine (line : Nat) : (s.openLine line).Wf := openLine_wf h line
@[simp] theorem wf_put (a : Nat) (bs : List Byte) : (s.put a bs).Wf := put_wf h a bs
@[simp] theorem wf_pokePa (pa : Nat) (bs : List Byte) : (s.pokePa pa bs).Wf := pokePa_wf h pa bs
end

/-! ### Resets and mode changes drop cells -/

/-- Taking cells away keeps the canonical form, also where an address that keeps its cell reads unlisted as it did. -/
theorem cellsWf_filter {lost lost' : Option Nat} {p : Host.Cell → Bool} (hp : ∀ c, p c = true → unlisted lost' c.1 = unlisted lost c.1)
    (m : List Host.Cell) (lo : Nat) (h : cellsWf lost lo m = true) : cellsWf lost' lo (m.filter p) = true := by
  induction m generalizing lo with
  | nil => rfl
  | cons c m ih =>
    obtain ⟨a, b⟩ := c
    simp only [cellsWf, Bool.and_eq_true, decide_eq_true_eq] at h
    obtain ⟨⟨ha, hb⟩, hm⟩ := h
    by_cases hc : p (a, b) = true
    · simp only [List.filter_cons_of_pos hc, cellsWf, Bool.and_eq_true, decide_eq_true_eq]
      exact ⟨⟨ha, hp _ hc ▸ hb⟩, ih _ hm⟩
    · rw [List.filter_cons_of_neg hc]
      exact cellsWf_mono (by omega) (ih _ hm)

/-- The capacity tier lies above HBM, so that a fatal reset changes nothing of what its addresses read as unlisted. -/
theorem unlisted_capacity {lost : Option Nat} {a : Nat} (h : isCapacity a = true) : unlisted lost a = 0 := by
  have hc : capBase ≤ a := of_decide_eq_true h
  have ha : ¬ a < hbmBytes := by
    unfold capBase at hc
    unfold hbmBytes
    omega
  cases lost <;> simp [unlisted, ha]

theorem wf_capOnly {m : Memory} (h : m.wf = true) (lost : Option Nat) : (m.capOnly lost).wf = true :=
  cellsWf_filter (fun _ hc => (unlisted_capacity hc).trans (unlisted_capacity hc).symm) _ _ h

/-! ### Every function of the model keeps the form -/

section
variable {s : State} {e : Eng}

/-! #### What Machine/State leaves canonical -/

@[simp] theorem wf_reset : State.reset.Wf := reset_memory_wf

/-! #### What Machine/Memory leaves canonical -/

@[simp] theorem wf_bump (h : s.Wf) : s.bump.Wf := h

@[simp] theorem wf_emit (h : s.Wf) (o : Out) : (s.emit o).Wf := h

@[simp] theorem wf_dirtied (h : s.Wf) (a : Nat) : (s.dirtied a).Wf := by
  unfold State.dirtied; simp [h]

@[simp] theorem wf_poisonLine (h : s.Wf) (line : Nat) : (s.poisonLine line).Wf := by
  unfold State.poisonLine; simp [h]

@[simp] theorem wf_unpoison (h : s.Wf) (line : Nat) : (s.unpoison line).Wf := h

@[simp] theorem wf_setCache (h : s.Wf) (l : List CacheLine) : (s.setCache l).Wf := h

@[simp] theorem wf_dropHolders (h : s.Wf) (line : Nat) (mine : Nat → Bool) : (s.dropHolders line mine).Wf := h

@[simp] theorem wf_openSlot (h : s.Wf) : s.openSlot.Wf := by
  unfold State.openSlot; split <;> simp [h]

@[simp] theorem wf_errRecord (h : s.Wf) (type outcome unit addr : Nat) (loc : Word) (syn kind : Nat) :
    (s.errRecord type outcome unit addr loc syn kind).Wf := by
  unfold State.errRecord
  apply wf_errRaw
  simp [h]

@[simp] theorem wf_partialRecord (h : s.Wf) (line : Nat) : (s.partialRecord line).Wf := by
  unfold State.partialRecord; simp [h]

@[simp] theorem wf_modCtx (h : s.Wf) (c : Nat) (f : Ctx → Ctx) : (s.modCtx c f).Wf := h

@[simp] theorem wf_modSlot (h : s.Wf) (n : Nat) (f : QSlot → QSlot) : (s.modSlot n f).Wf := h

@[simp] theorem wf_jrnRaw (h : s.Wf) (type slot ctx cause : Nat) (seq : Word) (digest : DWord) :
    (s.jrnRaw type slot ctx cause seq digest).Wf := by
  unfold State.jrnRaw; simp [h]

@[simp] theorem wf_jrnHeads (h : s.Wf) : s.jrnHeads.Wf := by
  unfold State.jrnHeads
  exact wf_foldl (fun t a ht => by simp [ht]) _ h

@[simp] theorem wf_journal (h : s.Wf) (type slot ctx cause : Nat) (seq : Word) (digest : DWord) :
    (s.journal type slot ctx cause seq digest).Wf := by
  unfold State.journal; simp [h]

@[simp] theorem wf_faultRing (h : s.Wf) (c : Nat) (cause : Cause) (malf hostpg wpois : Bool) (kind : AccessKind) (fseq : Word)
    (va : DWord) (site : FaultSite) : (s.faultRing c cause malf hostpg wpois kind fseq va site).Wf := by
  unfold State.faultRing; simp [h]

@[simp] theorem wf_notice (h : s.Wf) (c : Nat) (cause : Cause) (va pc : DWord) (lseq : Word) (core : Nat) :
    (s.notice c cause va pc lseq core).Wf := by
  unfold State.notice; simp [h]

/-! #### What Machine/Record leaves canonical -/

@[simp] theorem wf_setAgent (h : s.Wf) (a : Nat) (x : Agent) : (s.setAgent a x).Wf := h

@[simp] theorem wf_ashRecord (h : s.Wf) (source : Nat) (rec : List Byte) : (s.ashRecord source rec).Wf := h

@[simp] theorem wf_closeChunk (h : s.Wf) (agent close : Nat) : (s.closeChunk agent close).Wf := by
  unfold State.closeChunk; simp [h]

@[simp] theorem wf_recordOp {s0 : State} (hs0 : s0.Wf) (agent issuer lane obj : Nat) (modifies : Bool) (addr close : Option Nat)
    (msgs : List DWord) (more : List Nat) : (s0.recordOp agent issuer lane obj modifies addr close msgs more).Wf := by
  unfold State.recordOp
  extract_lets +onlyGivenNames s others s1 s2 x fold y s3 s4
  have hs : s.Wf := by simp [s, hs0]
  have hs1 : s1.Wf := wf_foldl (fun t a ht => by simp [ht]) _ hs
  have hs2 : s2.Wf := by simp [s2, hs1]
  have hs3 : s3.Wf := by simp [s3, hs2]
  extract_lets +onlyGivenNames s41
  have hs41 : s41.Wf := by simp [s41, hs3]
  split <;> simp [hs41]

@[simp] theorem wf_recordValue (h : s.Wf) (agent issuer lane kind : Nat) (mask : Word) (vals : List DWord) (obj : Nat)
    (modifies : Bool) : (s.recordValue agent issuer lane kind mask vals obj modifies).Wf := by
  unfold State.recordValue; simp [h]

@[simp] theorem wf_recordAtrap (h : s.Wf) (agent cause op issuer lane : Nat) (pc : DWord) (lseq : Word) :
    (s.recordAtrap agent cause op issuer lane pc lseq).Wf := by
  unfold State.recordAtrap; simp [h]

@[simp] theorem wf_recordPlace (h : s.Wf) (event : Nat) (nodeId armSeq arg : Word) (cluster mask core slot ctx : Nat) (faulted : Bool) :
    (s.recordPlace event nodeId armSeq arg cluster mask core slot ctx faulted).Wf := by
  unfold State.recordPlace; simp [h]

@[simp] theorem wf_recordPayload (h : s.Wf) (agent : Nat) (mseq : Word) (src : Nat) (data : List Byte) :
    (s.recordPayload agent mseq src data).Wf := by
  unfold State.recordPayload; simp [h]

@[simp] theorem wf_quietly (h : s.Wf) (f : State → State) (hf : ∀ y0, y0.Wf → (f y0).Wf) : (s.quietly f).Wf := by
  unfold State.quietly
  simp [h, hf]

@[simp] theorem wf_breakAt (h : s.Wf) (p : Nat × Brk) : (s.breakAt p).Wf := h

@[simp] theorem wf_diverge (h : s.Wf) (agent reason op : Nat) : (s.diverge agent reason op).Wf := h

@[simp] theorem wf_replayOp (h : s.Wf) (agent : Nat) (addr close : Option Nat) : (s.replayOp agent addr close).Wf := by
  unfold State.replayOp; split <;> simp [h]

@[simp] theorem wf_note (h : s.Wf) (agent issuer lane obj : Nat) (modifies : Bool) (addr close : Option Nat) (msgs : List DWord)
    (more : List Nat) : (s.note agent issuer lane obj modifies addr close msgs more).Wf := by
  unfold State.note
  repeat' split
  all_goals simp [h]

@[simp] theorem wf_settle {pre : State} (hpre : pre.Wf) {post : State} (hpost : post.Wf) : (pre.settle post).Wf := by
  unfold State.settle
  simp [hpre, hpost]

@[simp] theorem wf_valueOf (h : s.Wf) (agent issuer lane kind : Nat) (mask : Word) (live : List DWord) (obj : Nat) (modifies : Bool) :
    (s.valueOf agent issuer lane kind mask live obj modifies).1.Wf := by
  unfold State.valueOf
  split
  · extract_lets +onlyGivenNames x
    repeat' split
    all_goals simp [h]
  · simp [h]

/-! #### What Machine/Ops leaves canonical -/

@[simp] theorem wf_setBlk (h : s.Wf) (core bctx : Nat) (b : Blk) : (s.setBlk core bctx b).Wf := h

@[simp] theorem wf_modBlk (h : s.Wf) (core bctx : Nat) (f : Blk → Blk) : (s.modBlk core bctx f).Wf := by
  unfold State.modBlk; split <;> simp [h]

@[simp] theorem wf_modThr (h : s.Wf) (core bctx w : Nat) (f : Thr → Thr) : (s.modThr core bctx w f).Wf := by
  unfold State.modThr; simp [h]

@[simp] theorem wf_raise (h : s.Wf) (n : Nat) (v : DWord) : (s.raise n v).Wf := h

@[simp] theorem wf_giveToken (h : s.Wf) (dst : Nat → Nat → Nat) (edge : BitVec 3) (waiting : LaneStat → Bool) :
    (s.giveToken dst edge waiting).Wf := h

@[simp] theorem wf_raiseOutside (h : s.Wf) (n : Nat) (v : DWord) : (s.raiseOutside n v).Wf := h

@[simp] theorem wf_modReq (h : s.Wf) (id : Nat) (f : Req → Req) : (s.modReq id f).Wf := h

@[simp] theorem wf_failCmd (h : s.Wf) (h1 : HCmd) (cause : Cause) : (s.failCmd h1 cause).Wf := by
  unfold State.failCmd; simp [h]

@[simp] theorem wf_rejectQueued (h : s.Wf) (slot ctx : Nat) (head : Word) (n : Nat) : (s.rejectQueued slot ctx head n).Wf := by
  induction n generalizing s head with
  | zero => exact h
  | succ n ih => exact ih (wf_journal h ..) _

@[simp] theorem wf_endRecord (h : s.Wf) (h1 : HCmd) (cause : Cause) : (s.endRecord h1 cause).Wf := by
  unfold State.endRecord; split <;> simp [h]

@[simp] theorem wf_kill (h : s.Wf) (c : Nat) (cause : Cause) : (s.kill c cause).Wf := by
  unfold State.kill
  split
  · exact h
  · extract_lets +onlyGivenNames mine s1 s2
    have hs1 : s1.Wf := wf_foldl (fun t a ht => by simp [ht]) _ h
    have hs2 : s2.Wf := wf_foldl (fun t a ht => by simp [ht]) _ hs1
    exact hs2

@[simp] theorem wf_addAsync (h : s.Wf) (core bctx w : Nat) (a : ATrap) : (s.addAsync core bctx w a).Wf := by
  unfold State.addAsync
  extract_lets +onlyGivenNames s1
  have hs1 : s1.Wf := by simp [s1, h]
  repeat' split
  all_goals simp [hs1]

@[simp] theorem wf_asyncTrap (h : s.Wf) (core bctx w : Nat) (a : ATrap) : (s.asyncTrap core bctx w a).Wf := by
  unfold State.asyncTrap
  split
  · exact h
  · extract_lets +onlyGivenNames live
    split <;> simp [h]

@[simp] theorem wf_flushTag (h : s.Wf) (core bctx w : Nat) : (s.flushTag core bctx w).Wf := by
  unfold State.flushTag
  repeat' split
  all_goals simp [h]

@[simp] theorem wf_nextTrap (h : s.Wf) (core bctx w : Nat) : (s.nextTrap core bctx w).Wf := by
  unfold State.nextTrap
  repeat' split
  all_goals simp [h]

@[simp] theorem wf_queueTrap (h : s.Wf) (core bctx w : Nat) (r : TrapRec) : (s.queueTrap core bctx w r).Wf := by
  unfold State.queueTrap
  extract_lets +onlyGivenNames n s1
  have hs1 : s1.Wf := by simp [s1, h]
  simp [hs1]

@[simp] theorem wf_endStream (h : s.Wf) (core bctx w : Nat) (a : ATrap) : (s.endStream core bctx w a).Wf := by
  unfold State.endStream
  extract_lets +onlyGivenNames s1
  have hs1 : s1.Wf := by simp [s1, h]
  apply wf_flushTag
  simp [hs1]

@[simp] theorem wf_trap (h : s.Wf) (c : Cur) (b : Blk) (t : Thr) (i : TrapInfo) : (s.trap c b t i).Wf := by
  unfold State.trap; simp [h]

/-! #### What Machine/Lines leaves canonical -/

@[simp] theorem wf_machineCheck (h : s.Wf) : s.machineCheck.Wf := h

@[simp] theorem wf_scheduleTest (h : s.Wf) (unit : BitVec 4) (loc : Word) (addr : Nat) (owner : PendingTest → Bool) :
    (s.scheduleTest unit loc addr owner).Wf := by
  unfold State.scheduleTest; simp [h]

@[simp] theorem wf_testRow (h : s.Wf) (line : Nat) : (s.testRow line).Wf := by
  unfold State.testRow; simp [h]

@[simp] theorem wf_poisonTable (h : s.Wf) (line : Nat) : (s.poisonTable line).Wf := by
  unfold State.poisonTable; simp [h]

@[simp] theorem wf_laneError (h : s.Wf) (boundary lane : Nat) : (s.laneError boundary lane).Wf := by
  unfold State.laneError; simp [h]

@[simp] theorem wf_testCore (h : s.Wf) (core : Nat) : (s.testCore core).Wf := by
  unfold State.testCore; simp [h]

@[simp] theorem wf_poolEcc (h : s.Wf) (core : Nat) (lost : Bool) : (s.poolEcc core lost).Wf := by
  unfold State.poolEcc; simp [h]

@[simp] theorem wf_eccAt (h : s.Wf) (line : Nat) (o : EccOutcome) : (s.eccAt line o).Wf := by
  unfold State.eccAt
  extract_lets +onlyGivenNames syn rec'
  split
  · exact h
  · apply wf_testRow
    dsimp -zeta only [rec']
    simp [h]
  · apply wf_testRow
    apply wf_poisonLine
    dsimp -zeta only [rec']
    simp [h]
  · apply wf_testRow
    dsimp -zeta only [rec']
    simp [h]
  · split
    · extract_lets +onlyGivenNames s1 s2
      have hs2 : s2.Wf := by
        dsimp -zeta only [s2]
        exact h
      extract_lets +onlyGivenNames s21
      have hs21 : s21.Wf := wf_foldl (fun t a ht => by simp [ht]) _ hs2
      apply wf_testRow
      apply wf_errRecord
      dsimp -zeta only [rec']
      simp [hs21]
    · apply wf_testRow
      apply wf_poisonLine
      dsimp -zeta only [rec']
      simp [h]

@[simp] theorem wf_fillSet (h : s.Wf) (line : Nat) (write : Bool) : (s.fillSet line write).Wf := h

@[simp] theorem wf_capSend (h : s.Wf) (line tag : Nat) : (s.capSend line tag).Wf := h

@[simp] theorem wf_eccMiss (h : s.Wf) (line : Nat) (o : EccOutcome) : (s.eccMiss line o).Wf := by
  unfold State.eccMiss; split <;> simp [h]

@[simp] theorem wf_evictRefused (h : s.Wf) (line : Nat) (refused : Bool) : (s.evictRefused line refused).Wf := by
  unfold State.evictRefused; simp [h]

@[simp] theorem wf_capFetch (h : s.Wf) (line tag : Nat) : (s.capFetch line tag).Wf := by
  unfold State.capFetch; simp [h]

@[simp] theorem wf_homeEcc (h : s.Wf) (line : Nat) (o : EccOutcome) : (s.homeEcc line o).Wf := by
  unfold State.homeEcc; simp [h]

@[simp] theorem wf_capAccess (h : s.Wf) (line tag : Nat) (reads writes refused : Bool) :
    (s.capAccess line tag reads writes refused).Wf := by
  unfold State.capAccess
  split
  · apply wf_fillSet
    simp [h]
  · simp [h]

@[simp] theorem wf_capTouch (h : s.Wf) (line tag : Nat) (reads writes refused : Bool) (o : EccOutcome) :
    (s.capTouch line tag reads writes refused o).Wf := by
  unfold State.capTouch; simp [h]

@[simp] theorem wf_gather (h : s.Wf) (line : Nat) : (s.gather line).Wf := by
  unfold State.gather; simp [h]

@[simp] theorem wf_contribute (h : s.Wf) (cluster core line : Nat) (fmt : BitVec 2) (off : Nat) (v : DWord) :
    (s.contribute cluster core line fmt off v).Wf := h

@[simp] theorem wf_hostGone (h : s.Wf) (link line : Nat) (dirty : Bool) : (s.hostGone link line dirty).Wf := by
  unfold State.hostGone; simp [h]

@[simp] theorem wf_recall (h : s.Wf) (die line : Nat) : (s.recall die line).Wf := by
  unfold State.recall; split <;> simp [h]

@[simp] theorem wf_cacheTouch (h : s.Wf) (holder line : Nat) (reuse : BitVec 2) (st : Coh) :
    (s.cacheTouch holder line reuse st).Wf := by
  unfold State.cacheTouch
  extract_lets +onlyGivenNames set new
  split
  · exact h
  · split
    · exact h
    · split
      · exact h
      · extract_lets +onlyGivenNames others t u
        have ht : t.Wf := by simp [t, h]
        have hu : u.Wf := by
          dsimp -zeta only [u]
          split <;> simp [ht]
        exact hu

@[simp] theorem wf_shareLine (h : s.Wf) (line : Nat) (mine : Nat → Bool) : (s.shareLine line mine).Wf := h

@[simp] theorem wf_cacheRead (h : s.Wf) (cluster line : Nat) (reuse : BitVec 2) : (s.cacheRead cluster line reuse).Wf := by
  unfold State.cacheRead
  extract_lets +onlyGivenNames l2 s1
  have hs1 : s1.Wf := by simp [s1, h]
  simp [hs1]

@[simp] theorem wf_cacheWrite (h : s.Wf) (cluster line : Nat) (reuse : BitVec 2) : (s.cacheWrite cluster line reuse).Wf := by
  unfold State.cacheWrite
  extract_lets +onlyGivenNames l2 s1
  have hs1 : s1.Wf := by simp [s1, h]
  simp [hs1]

/-! #### What Machine/Translate leaves canonical -/

@[simp] theorem wf_tableRead (h : s.Wf) (a : Nat) (o : EccOutcome) : (s.tableRead a o).1.Wf := by
  unfold State.tableRead
  extract_lets +onlyGivenNames t
  have ht : t.Wf := by
    dsimp -zeta only [t]
    apply wf_gather
    simp [h]
  exact ht

@[simp] theorem wf_walkLevel (h : s.Wf) (die struck : Nat) (va : DWord) (level table : Nat) :
    (s.walkLevel die struck va level table).1.Wf := by
  unfold State.walkLevel
  split
  · exact h
  · split <;> simp [h]

@[simp] theorem wf_walkFrom (h : s.Wf) (die struck : Nat) (va : DWord) (level table : Nat) :
    (walkFrom die struck va level s table).1.Wf := by
  induction level generalizing s table with
  | zero => exact h
  | succ level ih =>
    unfold walkFrom
    split
    · rename_i t _ e
      exact wf_of_eq (wf_walkLevel h ..) e
    · rename_i t n e
      exact ih (wf_of_eq (wf_walkLevel h ..) e) n

@[simp] theorem wf_walk (h : s.Wf) (die struck c : Nat) (va : DWord) : (walk s die struck c va).1.Wf := by
  unfold walk; simp [h]

@[simp] theorem wf_fillTlb (h : s.Wf) (tlbs : List Nat) (c page : Nat) (ats : Option Bool) (l : Leaf) :
    (s.fillTlb tlbs c page ats l).Wf := h

@[simp] theorem wf_touchTlb (h : s.Wf) (m : Mmu) (va : DWord) : (s.touchTlb m va).Wf := by
  unfold State.touchTlb
  repeat' split
  all_goals simp [h]

@[simp] theorem wf_startWalk (h : s.Wf) (m : Mmu) (va : DWord) (kind : AccessKind) (site : FaultSite) :
    (s.startWalk m va kind site).Wf := by
  unfold State.startWalk; simp [h]

@[simp] theorem wf_joinFault (h : s.Wf) (c page : Nat) (va : DWord) (kind : AccessKind) (site : FaultSite) (malf hostpg wpois : Bool) :
    (s.joinFault c page va kind site malf hostpg wpois).Wf := by
  unfold State.joinFault; simp [h]

@[simp] theorem wf_flushOne (h : s.Wf) (c : Nat) : (s.flushOne c).Wf := by
  unfold State.flushOne
  split
  · exact h
  · extract_lets +onlyGivenNames f n putF putN
    have hF : ∀ g, (putF g).Wf := fun g => by simp [putF, h]
    have hN : ∀ g, (putN g).Wf := fun g => by simp [putN, h]
    clear_value f n
    split
    · split
      · exact hF _
      · exact hN _
    · exact hF _
    · exact hN _
    · exact h

@[simp] theorem wf_flushFaults (h : s.Wf) (c : Nat) : (s.flushFaults c).Wf := by
  unfold State.flushFaults
  exact wf_foldl (fun t a ht => by simp [ht]) _ h

@[simp] theorem wf_dropWalk (h : s.Wf) (id : Nat) : (s.dropWalk id).Wf := h

@[simp] theorem wf_endWalk (h : s.Wf) (k : Walk) (l : Leaf) : (s.endWalk k l).Wf := h

@[simp] theorem wf_finishWalk (h : s.Wf) (k : Walk) : (s.finishWalk k).Wf := by
  unfold State.finishWalk
  split
  · rename_i t _ e
    have ht : t.Wf := wf_of_eq (wf_walk h ..) e
    exact ht
  · rename_i t _ e
    have ht : t.Wf := wf_of_eq (wf_walk h ..) e
    simp [ht]
  · rename_i t e
    have ht : t.Wf := wf_of_eq (wf_walk h ..) e
    exact h

@[simp] theorem wf_walkNow (h : s.Wf) (c : Nat) (va : DWord) (kind : AccessKind) (site : FaultSite) :
    (s.walkNow c va kind site).Wf := by
  unfold State.walkNow
  extract_lets +onlyGivenNames m
  split
  · simp [h]
  · split
    · rename_i t _ e
      simp [wf_of_eq (wf_walk h ..) e]
    · rename_i t _ e
      simp [wf_of_eq (wf_walk h ..) e]
    · simp [h]

@[simp] theorem wf_dropTranslations (h : s.Wf) (c : Nat) (pages : Nat → Bool) : (s.dropTranslations c pages).Wf := h

@[simp] theorem wf_dropAll (h : s.Wf) (c : Nat) : (s.dropAll c).Wf := h

@[simp] theorem wf_beginInval (h : s.Wf) (c : Nat) (base : DWord) (bytes : Nat) (byCtx : Bool) (ats : Option Nat) :
    (s.beginInval c base bytes byCtx ats).1.Wf := h

/-! #### What Machine/Issue leaves canonical -/

@[simp] theorem wf_setCore (h : s.Wf) (core : Nat) (k : Core) : (s.setCore core k).Wf := h

@[simp] theorem wf_fetchAt (h : s.Wf) (m : Mmu) (site : FaultSite) (va : DWord) : (s.fetchAt m site va).Wf := by
  unfold State.fetchAt
  repeat' split
  all_goals simp [h]

@[simp] theorem wf_fillCode (h : s.Wf) (core line : Nat) : (s.fillCode core line).Wf := by
  unfold State.fillCode
  extract_lets +onlyGivenNames mine full s1
  have hs1 : s1.Wf := by
    dsimp -zeta only [s1]
    apply wf_cacheTouch
    exact h
  simp [hs1]

@[simp] theorem wf_askCode (h : s.Wf) (c : Cur) (b : Blk) (line : Nat) : (s.askCode c b line).Wf := by
  unfold State.askCode; simp [h]

@[simp] theorem wf_codeLine (h : s.Wf) (c : Cur) (b : Blk) (line : Nat) (pub : Bool) : (s.codeLine c b line pub).Wf := by
  unfold State.codeLine
  repeat' split
  all_goals simp [h]

@[simp] theorem wf_codeLines (h : s.Wf) (c : Cur) (b : Blk) (l : List (Nat × Bool)) : (State.codeLines c b l s).Wf := by
  induction l generalizing s with
  | nil => exact h
  | cons p rest ih =>
    unfold State.codeLines
    split
    · rename_i t e
      exact ih ((wf_codeLine h ..).ok e)
    · exact wf_codeLine h ..

@[simp] theorem wf_codeFills (h : s.Wf) (c : Cur) (lines : List (Nat × Bool)) : (s.codeFills c lines).Wf := by
  unfold State.codeFills
  extract_lets +onlyGivenNames s1
  have hs1 : s1.Wf := by simp [s1, h]
  exact wf_foldl (fun t a ht => by simp [ht]) _ hs1

/-- The words of a clause: where reading them stops, memory stands as it stood. -/
theorem wf_fetchWords (h : s.Wf) (m : Mmu) (site : FaultSite) (hdr : Option Word) (l : List DWord) (r : Fetched)
    (e : s.fetchWords m site hdr l = .error r) : r.Wf := by
  induction l with
  | nil => simp [State.fetchWords] at e
  | cons va rest ih =>
    unfold State.fetchWords at e
    split at e
    · rename_i t ht
      cases e
      exact (wf_fetchAt h ..).walk ht
    · cases e; exact h
    · cases e; exact h
    · split at e
      · rename_i he
        cases e
        exact ih he
      · cases e

@[simp] theorem wf_fetchRun (h : s.Wf) (c : Cur) (b : Blk) (m : Mmu) (site : FaultSite) (hdr : Word) (vas : List DWord) :
    (s.fetchRun c b m site hdr vas).Wf := by
  unfold State.fetchRun
  split
  · rename_i e
    exact wf_fetchWords h _ _ _ _ _ e
  · extract_lets +onlyGivenNames lines
    have hl := wf_codeLines h c b lines
    split
    · rename_i u e
      exact hl.wait e
    · simp [h]
    · rename_i s2 e
      have h2 := hl.ok e
      extract_lets +onlyGivenNames fail
      split
      · simp [fail, h2]
      · simp [fail, h2]
      · exact wf_foldl (fun t _ ht => wf_touchTlb ht ..) _ (wf_codeFills h2 ..)

@[simp] theorem wf_fetchClause (h : s.Wf) (c : Cur) (b : Blk) (t : Thr) : (s.fetchClause c b t).Wf := by
  unfold State.fetchClause
  extract_lets +onlyGivenNames m site
  split
  · exact h
  · split
    · rename_i e
      exact wf_fetchWords h _ _ _ _ _ e
    · exact h
    · have hl := fun a p => wf_codeLine h c b a p
      have hr := fun hdr vas => wf_fetchRun h c b m site hdr vas
      split
      · rename_i e
        exact (hl ..).wait e
      · simp [h]
      · extract_lets +onlyGivenNames hdr n
        split
        · rename_i e
          exact (hr ..).ok e
        · exact hr ..

@[simp] theorem wf_refetch (h : s.Wf) (c : Cur) (b : Blk) (t : Thr) (k : Clause) : (s.refetch c b t k).Wf := by
  unfold State.refetch
  extract_lets +onlyGivenNames ix
  split
  · rename_i t1 _ e
    have ht1 : t1.Wf := (wf_fetchRun h ..).ok e
    exact ht1
  · simp [h]

@[simp] theorem wf_block (h : s.Wf) (c : Cur) (m : Word) (p : BlockPt) : (s.block c m p).Wf := by
  unfold State.block; simp [h]

@[simp] theorem wf_stall (h : s.Wf) (x : Cur) : (s.stall x).Wf := h

@[simp] theorem wf_stallCopy (h : s.Wf) (c : Cur) : (s.stallCopy c).Wf := by
  unfold State.stallCopy; simp [h]

@[simp] theorem wf_endClause (h : s.Wf) (c : Cur) (m : Word) : (s.endClause c m).Wf := by
  unfold State.endClause
  extract_lets +onlyGivenNames lend
  repeat' split
  all_goals simp [h]

@[simp] theorem wf_retire (h : s.Wf) (c : Cur) (m : Word) : (s.retire c m).Wf := by
  unfold State.retire; simp [h]

@[simp] theorem wf_retireBlocked (h : s.Wf) (c : Cur) (m : Word) (p : BlockPt) : (s.retireBlocked c m p).Wf := by
  unfold State.retireBlocked; simp [h]

@[simp] theorem wf_withParty {s : State} (f : Cur → Blk → Thr → State) (hf : ∀ y0 y1 y2, (f y0 y1 y2).Wf) : OutcomeWf
    (withParty s f) := by
  unfold withParty
  repeat' split
  all_goals simp [hf]

@[simp] theorem wf_trapWord (h : s.Wf) (c : Cur) (b : Blk) (t : Thr) (cause : Cause) (m : Word) (addr : DWord) :
    (s.trapWord c b t cause m addr).Wf := by
  unfold State.trapWord; simp [h]

@[simp] theorem wf_refuse (h : s.Wf) (c : Cur) (b : Blk) (t : Thr) (m : Word) (x : Gate) : (s.refuse c b t m x).Wf := by
  unfold State.refuse; split <;> simp [h]

@[simp] theorem wf_serviceRec (h : s.Wf) (core bctx w : Nat) (b : Blk) (t : Thr) (r0 : TrapRec) (pages : Nat → Option Nat) :
    (s.serviceRec core bctx w b t r0 pages).Wf := by
  unfold State.serviceRec; simp [h]

@[simp] theorem wf_service (h : s.Wf) (c : Cur) (b : Blk) (t : Thr) (cause : Cause) (m faulting : Word) (addr : DWord)
    (pages : Nat → Option Nat) : (s.service c b t cause m faulting addr pages).Wf := by
  unfold State.service; simp [h]

/-! #### What Machine/Clause leaves canonical -/

@[simp] theorem wf_deliverAsync (h : s.Wf) (core bctx w : Nat) : (s.deliverAsync core bctx w).Wf := by
  unfold State.deliverAsync
  repeat' split
  all_goals simp [h]

@[simp] theorem wf_badTarget (h : s.Wf) (core bctx w : Nat) (m : Word) (pc : DWord) (hdr : Word) (cause : Cause) :
    (s.badTarget core bctx w m pc hdr cause).Wf := by
  unfold State.badTarget
  split
  · exact h
  · extract_lets +onlyGivenNames vias
    apply wf_foldl
    · intro t a ht
      repeat' split
      all_goals simp [ht]
    · exact h

@[simp] theorem wf_fetchFails (h : s.Wf) (c : Cur) (b : Blk) (t : Thr) (cause : Cause) (addr : DWord) (page : Option Nat)
    (hdr : Option Word) : (s.fetchFails c b t cause addr page hdr).Wf := by
  unfold State.fetchFails; simp [h]

@[simp] theorem wf_enterClause (h : s.Wf) (c : Cur) (b : Blk) (t : Thr) : (s.enterClause c b t).1.Wf := by
  unfold State.enterClause
  extract_lets +onlyGivenNames idle
  split
  · exact h
  · split
    · rename_i t1 e
      have ht1 : t1.Wf := (wf_fetchClause h ..).stall e
      exact ht1
    · rename_i t1 _ _ e
      have ht1 : t1.Wf := (wf_fetchClause h ..).miss e
      dsimp -zeta only [idle]
      simp [ht1]
    · rename_i t1 _ _ _ e
      have ht1 : t1.Wf := (wf_fetchClause h ..).fault e
      dsimp -zeta only [idle]
      simp [ht1]
    · rename_i t1 _ e
      have ht1 : t1.Wf := (wf_fetchClause h ..).ok e
      extract_lets +onlyGivenNames c1
      split
      · dsimp -zeta only [idle]
        simp [ht1]
      · split
        · dsimp -zeta only [idle]
          simp [ht1]
        · split
          · dsimp -zeta only [idle]
            simp [ht1]
          · split
            · dsimp -zeta only [idle]
              simp [ht1]
            · simp [ht1]

@[simp] theorem wf_reload (h : s.Wf) (c : Cur) (b : Blk) (t : Thr) (k : Clause) : (s.reload c b t k).1.Wf := by
  unfold State.reload
  extract_lets +onlyGivenNames idle
  split
  · exact h
  · split
    · rename_i t1 e
      have ht1 : t1.Wf := (wf_refetch h ..).stall e
      exact ht1
    · rename_i t1 _ _ e
      have ht1 : t1.Wf := (wf_refetch h ..).miss e
      dsimp -zeta only [idle]
      simp [ht1]
    · rename_i t1 _ _ _ e
      have ht1 : t1.Wf := (wf_refetch h ..).fault e
      dsimp -zeta only [idle]
      simp [ht1]
    · rename_i t1 _ e
      have ht1 : t1.Wf := (wf_refetch h ..).ok e
      simp [ht1]

@[simp] theorem wf_ready (h : s.Wf) (core bctx w : Nat) : (s.ready core bctx w).1.Wf := by
  unfold State.ready
  split
  · exact h
  · split
    · exact h
    · split
      · exact h
      · extract_lets +onlyGivenNames mmu s1 s2
        have hs1 : s1.Wf := by simp [s1, h]
        have hs2 : s2.Wf := by
          dsimp -zeta only [s2]
          apply wf_deliverAsync
          simp [hs1]
        split
        · exact hs2
        · split
          · exact hs2
          · extract_lets +onlyGivenNames t s21
            have hs21 : s21.Wf := by simp [s21, hs2]
            split
            · exact hs21
            · extract_lets +onlyGivenNames i here
              repeat' split
              all_goals simp [hs21]

@[simp] theorem wf_enter (h : s.Wf) (core bctx w : Nat) : (s.enter core bctx w).1.Wf := by
  unfold State.enter
  split
  · exact h
  · split
    · exact h
    · apply wf_ready
      simp [h]

@[simp] theorem wf_noteTurn (h : s.Wf) (c : Cur) (held : Bool) : (s.noteTurn c held).Wf := by
  unfold State.noteTurn; simp [h]

@[simp] theorem wf_noteStep (h : s.Wf) (core bctx w : Nat) (pre : Thr) (c : Option Cur) : (s.noteStep core bctx w pre c).Wf := by
  unfold State.noteStep
  repeat' split
  all_goals simp [h]

/-! #### What Machine/Operands leaves canonical -/

@[simp] theorem wf_noteUnis (h : s.Wf) (c : Cur) (b : Blk) (rs : List Nat) (writes : Bool) : (s.noteUnis c b rs writes).Wf := by
  unfold State.noteUnis
  apply wf_foldl
  · intro t a ht
    split <;> simp [ht]
  · exact h

@[simp] theorem wf_laneWordOp (h : s.Wf) (i : Instr) (w : LaneW) (f : Cur → Blk → Thr → Word → State)
    (hf : ∀ y0 y1 y2 y3, (f y0 y1 y2 y3).Wf) : OutcomeWf (laneWordOp i w s f) := by
  unfold laneWordOp
  apply wf_withParty
  intro y0 y1 y2
  extract_lets +onlyGivenNames act
  split <;> simp [h, hf]

@[simp] theorem wf_laneAlu (h : s.Wf) (i : Instr) (w : LaneW) (f : Cur → Blk → Thr → Word → Thr) : OutcomeWf (laneAlu i w s f) := by
  unfold laneAlu
  apply wf_laneWordOp
  · exact h
  · intro y0 y1 y2 y3
    extract_lets +onlyGivenNames s1
    have hs1 : s1.Wf := by simp [s1, h]
    simp [hs1]

@[simp] theorem wf_laneOut (h : s.Wf) (i : Instr) (w : LaneW) (f : Cur → Blk → Thr → Nat → Word) : OutcomeWf (laneOut i w s f) := by
  unfold laneOut; simp [h]

@[simp] theorem wf_laneOut64 (h : s.Wf) (i : Instr) (w : LaneW) (f : Cur → Blk → Thr → Nat → DWord) : OutcomeWf
    (laneOut64 i w s f) := by
  unfold laneOut64; simp [h]

@[simp] theorem wf_lane2 (h : s.Wf) (i : Instr) (w : LaneW) (f : Word → Word → Word) : OutcomeWf (lane2 i w s f) := by
  unfold lane2; simp [h]

@[simp] theorem wf_lane1 (h : s.Wf) (i : Instr) (w : LaneW) (f : Word → Word) : OutcomeWf (lane1 i w s f) := by
  unfold lane1; simp [h]

@[simp] theorem wf_lane3 (h : s.Wf) (i : Instr) (w : LaneW) (f : Word → Word → Word → Word) : OutcomeWf (lane3 i w s f) := by
  unfold lane3; simp [h]

@[simp] theorem wf_ctlWordOp (h : s.Wf) (i : Instr) (more : Cur → Blk → Thr → Gate) (f : Cur → Blk → Thr → State)
    (hf : ∀ y0 y1 y2, (f y0 y1 y2).Wf) : OutcomeWf (ctlWordOp i s more f) := by
  unfold ctlWordOp
  apply wf_withParty
  intro y0 y1 y2
  split <;> simp [h, hf]

@[simp] theorem wf_ctlUniOp (h : s.Wf) (i : Instr) (rs : Cur → List Nat) (more : Cur → Blk → Thr → Gate) (f : Cur → Blk → Thr → State)
    (hf : ∀ y0 y1 y2, (f y0 y1 y2).Wf) : OutcomeWf (ctlUniOp i s rs more f) := by
  unfold ctlUniOp
  simp [h, hf]

@[simp] theorem wf_uniWordOp (h : s.Wf) (i : Instr) (w : UniW) (f : State → Cur → Blk → Thr → State)
    (hf : ∀ y0 y1 y2 y3, y0.Wf → (f y0 y1 y2 y3).Wf) : OutcomeWf (uniWordOp i w s f) := by
  unfold uniWordOp
  apply wf_ctlUniOp
  · exact h
  · simp [h, hf]

@[simp] theorem wf_putUni (h : s.Wf) (c : Cur) (b : Blk) (r : Nat) (v : DWord) : (s.putUni c b r v).Wf := by
  unfold State.putUni
  apply wf_retire
  simp [h]

@[simp] theorem wf_uniAlu (h : s.Wf) (i : Instr) (w : UniW) (f : DWord → DWord → DWord) : OutcomeWf (uniAlu i w s f) := by
  unfold uniAlu
  apply wf_uniWordOp
  · exact h
  · intro y0 y1 y2 y3 ht
    simp [ht]

/-! #### What Machine/Access leaves canonical -/

@[simp] theorem wf_modBank (h : s.Wf) (k : Nat) (f : Bank → Bank) : (s.modBank k f).Wf := h

@[simp] theorem wf_noteAway (h : s.Wf) (r : Req) : (s.noteAway r).Wf := by
  unfold State.noteAway; simp [h]

@[simp] theorem wf_nextMseq (h : s.Wf) (dev : BitVec 16) : (s.nextMseq dev).1.Wf := h

@[simp] theorem wf_modPort (h : s.Wf) (port : Nat) (f : VPort → VPort) : (s.modPort port f).Wf := h

@[simp] theorem wf_sendFlit (h : s.Wf) (port : Nat) (dev : BitVec 16) (m : PeerMsg) : (s.sendFlit port dev m).Wf := by
  unfold State.sendFlit; simp [h]

@[simp] theorem wf_sendMsg (h : s.Wf) (port : Nat) (dev : BitVec 16) (ctx tag : Nat) (op : PeerOp) :
    (s.sendMsg port dev ctx tag op).Wf := by
  unfold State.sendMsg; simp [h]

@[simp] theorem wf_sendLanes (h : s.Wf) (r : Req) (dev : BitVec 16) (port : Nat) (l : List LaneOp) :
    (s.sendLanes r dev port l).1.Wf := by
  induction l generalizing s with
  | nil => exact h
  | cons o rest ih =>
    unfold State.sendLanes
    split
    · exact h
    · exact ih (wf_sendMsg h ..)

@[simp] theorem wf_sendPeer (h : s.Wf) (r : Req) (dev : BitVec 16) : (s.sendPeer r dev).Wf := by
  unfold State.sendPeer
  extract_lets +onlyGivenNames port
  split
  · exact h
  · split
    · exact h
    · split
      · exact h
      · dsimp -zeta only
        apply wf_modReq
        simp [h]

@[simp] theorem wf_hostAtomSend (h : s.Wf) (r : Req) (link : Nat) (o : LaneOp) : (s.hostAtomSend r link o).Wf := by
  unfold State.hostAtomSend
  repeat' split
  all_goals simp [h]

@[simp] theorem wf_replayHost (h : s.Wf) (r : Req) (kind : Nat) : (s.replayHost r kind).Wf := by
  unfold State.replayHost
  extract_lets +onlyGivenNames n mask
  dsimp -zeta only
  extract_lets +onlyGivenNames val
  apply wf_modReq
  simp [h]

@[simp] theorem wf_sendHost (h : s.Wf) (r : Req) (link : Nat) : (s.sendHost r link).Wf := by
  unfold State.sendHost
  repeat' split
  all_goals simp [h]

@[simp] theorem wf_sendContrib (h : s.Wf) (r : Req) (slot : Nat) (o : LaneOp) : OptionWf (s.sendContrib r slot o) := by
  unfold State.sendContrib
  split
  · simp [h]
  · extract_lets +onlyGivenNames e k port put
    extract_lets +onlyGivenNames put1
    split
    · simp
    · split
      · rw [optionWf_some]
        exact h
      · split
        · simp
        · extract_lets +onlyGivenNames x
          rw [optionWf_some]
          apply wf_sendMsg
          exact h

@[simp] theorem wf_sendContribs (h : s.Wf) (r : Req) (slot : Nat) (l : List LaneOp) : (s.sendContribs r slot l).1.Wf := by
  induction l generalizing s with
  | nil => exact h
  | cons o rest ih =>
    unfold State.sendContribs
    split
    · exact h
    · rename_i t e
      exact ih ((wf_sendContrib h ..).some e)

@[simp] theorem wf_sendWindow (h : s.Wf) (r : Req) (slot : Nat) : (s.sendWindow r slot).Wf := by
  unfold State.sendWindow
  split
  · exact h
  · dsimp -zeta only
    split
    · split
      · exact h
      · apply wf_modReq
        simp [h]
    · simp [h]

@[simp] theorem wf_admitReq (h : s.Wf) (id : Nat) : (s.admitReq id).Wf := by
  unfold State.admitReq
  repeat' split
  all_goals simp [h]

@[simp] theorem wf_admitReqs (h : s.Wf) : s.admitReqs.Wf := by
  unfold State.admitReqs
  exact wf_foldl (fun t a ht => by simp [ht]) _ h

@[simp] theorem wf_markDst (h : s.Wf) (c : Cur) (d : Dst) : (s.markDst c d).Wf := by
  unfold State.markDst; split <;> simp [h]

@[simp] theorem wf_addReqs (h : s.Wf) (c : Cur) (adm scope : Nat) (rs : List Req) : (s.addReqs c adm scope rs).Wf := by
  unfold State.addReqs; simp [h]

@[simp] theorem wf_memFault (h : s.Wf) (c : Cur) (bad : List (Nat × Cause × DWord)) (pages : Nat → Option Nat) :
    (s.memFault c bad pages).Wf := by
  unfold State.memFault
  repeat' split
  all_goals simp [h]

@[simp] theorem wf_watchTrap (h : s.Wf) (c : Cur) (m : Word) (addr : DWord) : (s.watchTrap c m addr).Wf := by
  unfold State.watchTrap
  repeat' split
  all_goals simp [h]

@[simp] theorem wf_access (h : s.Wf) (c : Cur) (b : Blk) (t : Thr) (act : Word) (us : List Nat) (f : MemForm) (va : Nat → DWord)
    (data cmp : Nat → QWord) (late : List (Nat × Nat) → List Nat) : (s.access c b t act us f va data cmp late).Wf := by
  unfold State.access
  extract_lets +onlyGivenNames priv mmu chks0 misuse chks walks
  split
  · exact wf_stall (wf_foldl (fun t v ht => wf_startWalk ht ..) _ h) _
  · split
    · exact wf_stall h _
    · extract_lets +onlyGivenNames gos bad pages rs
      split
      · exact wf_stall h _
      · extract_lets +onlyGivenNames badM hits waits stay point s0 s1 s2 s3
        have h0 : s0.Wf := by
          refine wf_noteUnis (wf_foldl (fun t g ht => ?_) _ h) ..
          split
          · exact wf_touchTlb ht ..
          · exact ht
        have h1 : s1.Wf := by
          apply wf_addReqs
          split
          · exact h0
          · exact wf_markDst h0 ..
        have h2 : s2.Wf := by
          dsimp -zeta only [s2]
          clear_value point
          split
          · exact wf_retireBlocked h1 ..
          · exact wf_retire h1 ..
        have h3 : s3.Wf := wf_watchTrap h2 ..
        split
        · exact h3
        · exact wf_memFault h3 ..

/-! #### What Machine/LaneMem leaves canonical -/

@[simp] theorem wf_laneMem (h : s.Wf) (i : Instr) (w : LaneW) (f : MemForm) (va : Blk → Thr → Nat → DWord)
    (data cmp : Blk → Thr → Nat → QWord) : OutcomeWf (laneMem i w s f va data cmp) := by
  unfold laneMem; simp [h]

@[simp] theorem wf_execLd (h : s.Wf) (w : LaneW) (x : MemX) : OutcomeWf (execLd w x s) := by
  unfold execLd; simp [h]

@[simp] theorem wf_execSt (h : s.Wf) (w : LaneW) (x : MemX) : OutcomeWf (execSt w x s) := by
  unfold execSt; simp [h]

@[simp] theorem wf_execLds (h : s.Wf) (w : LaneW) (x : MemX) : OutcomeWf (execLds w x s) := by
  unfold execLds; simp [h]

@[simp] theorem wf_execSts (h : s.Wf) (w : LaneW) (x : MemX) : OutcomeWf (execSts w x s) := by
  unfold execSts; simp [h]

@[simp] theorem wf_execAtom (h : s.Wf) (w : LaneW) (x : MemX) : OutcomeWf (execAtom w x s) := by
  unfold execAtom; simp [h]

@[simp] theorem wf_execAtomcas (h : s.Wf) (w : LaneW) (x : MemX) : OutcomeWf (execAtomcas w x s) := by
  unfold execAtomcas; simp [h]

@[simp] theorem wf_execRed (h : s.Wf) (w : LaneW) (x : MemX) : OutcomeWf (execRed w x s) := by
  unfold execRed; simp [h]

@[simp] theorem wf_execAtoms (h : s.Wf) (w : LaneW) (x : MemX) : OutcomeWf (execAtoms w x s) := by
  unfold execAtoms; simp [h]

@[simp] theorem wf_execAtomscas (h : s.Wf) (w : LaneW) (x : MemX) : OutcomeWf (execAtomscas w x s) := by
  unfold execAtomscas; simp [h]

@[simp] theorem wf_execCadd (h : s.Wf) (w : LaneW) (x : MemX) : OutcomeWf (execCadd w x s) := by
  unfold execCadd; simp [h]

@[simp] theorem wf_beginRel (h : s.Wf) (c : Cur) (adm scope : Nat) (act : RelAct) (mask : Word) (quiet : Bool) :
    (s.beginRel c adm scope act mask quiet).Wf := h

@[simp] theorem wf_execFence (h : s.Wf) (w : LaneW) (x : MemX) : OutcomeWf (execFence w x s) := by
  unfold execFence
  apply wf_laneWordOp
  · exact h
  · simp [h]

@[simp] theorem wf_execCodepub (h : s.Wf) (w : LaneW) (x : MemX) : OutcomeWf (execCodepub w x s) := by
  unfold execCodepub
  apply wf_laneWordOp
  · exact h
  · simp [h]

@[simp] theorem wf_execWaitaddr (h : s.Wf) (w : LaneW) (x : MemX) : OutcomeWf (execWaitaddr w x s) := by
  unfold execWaitaddr; simp [h]

@[simp] theorem wf_execWakeaddr (h : s.Wf) (w : LaneW) (x : MemX) : OutcomeWf (execWakeaddr w x s) := by
  unfold execWakeaddr; simp [h]

@[simp] theorem wf_laneMaint (h : s.Wf) (i : Instr) (w : LaneW) (x : MemX) (cached : Bool)
    (f : Cur → Blk → Thr → State → Home → Nat → State) (hf : ∀ y0 y1 y2 y3 y4 y5, y3.Wf → (f y0 y1 y2 y3 y4 y5).Wf) : OutcomeWf
    (laneMaint i w x s cached f) := by
  unfold laneMaint
  apply wf_laneWordOp
  · exact h
  · intro y0 y1 y2 y3
    apply wf_retire
    apply wf_foldl
    · intro t a ht
      split <;> simp [hf, ht]
    · simp [h]

@[simp] theorem wf_cleanLine (h : s.Wf) (cluster : Nat) (h1 : Home) (line : Nat) : (s.cleanLine cluster h1 line).Wf := by
  unfold State.cleanLine; split <;> simp [h]

@[simp] theorem wf_prefHost (h : s.Wf) (c : Cur) (b : Blk) (t : Thr) (x : MemX) (h1 : Home) (line : Nat) :
    (s.prefHost c b t x h1 line).Wf := by
  unfold State.prefHost; simp [h]

@[simp] theorem wf_execPref (h : s.Wf) (w : LaneW) (x : MemX) : OutcomeWf (execPref w x s) := by
  unfold execPref
  apply wf_laneMaint
  · exact h
  · intro y0 y1 y2 y3 y4 y5 ht
    split <;> simp [ht]

@[simp] theorem wf_execWbl (h : s.Wf) (w : LaneW) (x : MemX) : OutcomeWf (execWbl w x s) := by
  unfold execWbl
  apply wf_laneMaint
  · exact h
  · intro y0 y1 y2 y3 y4 y5 ht
    simp [ht]

@[simp] theorem wf_execInvl (h : s.Wf) (w : LaneW) (x : MemX) : OutcomeWf (execInvl w x s) := by
  unfold execInvl
  apply wf_laneMaint
  · exact h
  · intro y0 y1 y2 y3 y4 y5 ht
    simp [ht]

@[simp] theorem wf_execTagld (h : s.Wf) (w : LaneW) (x : MemX) : OutcomeWf (execTagld w x s) := by
  unfold execTagld; simp [h]

@[simp] theorem wf_execTagst (h : s.Wf) (w : LaneW) (x : MemX) : OutcomeWf (execTagst w x s) := by
  unfold execTagst; simp [h]

/-! #### What Machine/Home leaves canonical -/

@[simp] theorem wf_homeWrite (h : s.Wf) (h1 : Home) (a : Nat) (bs : List Byte) : (s.homeWrite h1 a bs).Wf := by
  unfold State.homeWrite; split <;> simp [h]

@[simp] theorem wf_markWriter (h : s.Wf) (line writer : Nat) : (s.markWriter line writer).Wf := by
  unfold State.markWriter; simp [h]

@[simp] theorem wf_publish (h : s.Wf) (writer : Nat) : (s.publish writer).Wf := h

@[simp] theorem wf_landWait (h : s.Wf) (req lane : Nat) (v : Option QWord) : (s.landWait req lane v).Wf := h

@[simp] theorem wf_wake (h : s.Wf) (e : Enrol) : (s.wake e).Wf := by
  unfold State.wake; split <;> simp [h]

@[simp] theorem wf_wakeUp (h : s.Wf) (e : Enrol) : (s.wakeUp e).Wf := by
  unfold State.wakeUp; simp [h]

@[simp] theorem wf_enrol (h : s.Wf) (r : Req) (o : LaneOp) : (s.enrol r o).Wf := by
  unfold State.enrol
  extract_lets +onlyGivenNames q s1
  have h1 : s1.Wf := by
    dsimp -zeta only [s1]
    clear_value q
    split
    · simp [h]
    · exact h
  exact h1

@[simp] theorem wf_tagNote (h : s.Wf) (r : Req) : (s.tagNote r).Wf := by
  unfold State.tagNote
  split
  · exact h
  · extract_lets +onlyGivenNames bad
    clear_value bad
    split
    · exact h
    · extract_lets +onlyGivenNames s1
      have h1 : s1.Wf := by simp [s1, h]
      simp [h1]

@[simp] theorem wf_poisonWrite (h : s.Wf) (line : Nat) (full : Bool) : (s.poisonWrite line full).Wf := by
  unfold State.poisonWrite; simp [h]

@[simp] theorem wf_failReq (h : s.Wf) (r : Req) (cause : Cause) : (s.failReq r cause).Wf := h

@[simp] theorem wf_applyOps (h : s.Wf) (r : Req) (l : List LaneOp) : (s.applyOps r l).1.Wf := by
  induction l generalizing s with
  | nil => exact h
  | cons o rest ih =>
    unfold State.applyOps
    dsimp -zeta only
    extract_lets +onlyGivenNames s1
    have h1 : s1.Wf := by simp [s1, h]
    exact ih h1

@[simp] theorem wf_loadValues (h : s.Wf) (r : Req) : (s.loadValues r).1.Wf := by
  unfold State.loadValues
  extract_lets +onlyGivenNames k memHome line
  split <;> simp [h]

@[simp] theorem wf_coherence (h : s.Wf) (r : Req) : (s.coherence r).Wf := by
  unfold State.coherence; simp [h]

@[simp] theorem wf_performHome {s0 : State} (hs0 : s0.Wf) (r : Req) : (s0.performHome r).Wf := by
  unfold State.performHome
  extract_lets +onlyGivenNames isCadd s1 s2 s3 bad
  have hs1 : s1.Wf := by simp [s1, hs0]
  have hs2 : s2.Wf := by simp [s2, hs1]
  have hs3 : s3.Wf := by simp [s3, hs2]
  split
  · exact hs1
  · exact hs3
  · simp [hs3]
  · extract_lets +onlyGivenNames s4
    have hs4 : s4.Wf := wf_foldl (fun t a ht => by simp [ht]) _ hs3
    simp [hs4]
  · simp [hs3]
  · simp [hs3]
  · simp [hs3]
  · apply wf_modReq
    apply wf_foldl
    · intro t a ht
      apply wf_contribute
      split <;> simp [ht]
    · exact hs3
  · split
    · exact hs3
    · exact wf_foldl (fun t a ht => by simp [ht]) _ hs3
  · exact hs3
  · exact hs3
  · apply wf_modReq
    exact wf_foldl (fun t a ht => by simp [ht]) _ hs3

@[simp] theorem wf_noteReq (h : s.Wf) (r : Req) : (s.noteReq r).Wf := by
  unfold State.noteReq; simp [h]

@[simp] theorem wf_hostValues (h : s.Wf) (r : Req) : (s.hostValues r).Wf := by
  unfold State.hostValues
  repeat' split
  all_goals simp [h]

@[simp] theorem wf_serveHost (h : s.Wf) (r : Req) (link : Nat) : (s.serveHost r link).Wf := by
  unfold State.serveHost; simp [h]

@[simp] theorem wf_sendCapacity (h : s.Wf) (r : Req) : (s.sendCapacity r).Wf := by
  unfold State.sendCapacity; simp [h]

@[simp] theorem wf_crossing (h : s.Wf) : s.crossing.Wf := by
  unfold State.crossing; simp [h]

@[simp] theorem wf_execHomeAccessServe {s0 : State} (hs0 : s0.Wf) : OutcomeWf (execHomeAccessServe s0) := by
  unfold execHomeAccessServe
  extract_lets +onlyGivenNames s
  have hs : s.Wf := by simp [s, hs0]
  split
  · simp [hs]
  · extract_lets +onlyGivenNames localHome
    split
    · simp [hs]
    · split
      · simp [hs]
      · split
        · rw [outcomeWf_next]
          split <;> simp [hs]
        · extract_lets +onlyGivenNames s1
          have hs1 : s1.Wf := by simp [s1, hs]
          split
          · simp [hs1]
          · split
            · simp [hs1]
            · extract_lets +onlyGivenNames s2
              have hs2 : s2.Wf := by simp [s2, hs1]
              simp [hs2]

@[simp] theorem wf_execWriterListRoom (h : s.Wf) : OutcomeWf (execWriterListRoom s) := by
  unfold execWriterListRoom; split <;> simp [h]

@[simp] theorem wf_execCapacityTierCompletion (h : s.Wf) : OutcomeWf (execCapacityTierCompletion s) := by
  unfold execCapacityTierCompletion
  split
  · simp [h]
  · extract_lets +onlyGivenNames code
    split
    · simp [h]
    · extract_lets +onlyGivenNames seen done
      split
      · rw [outcomeWf_next]
        dsimp -zeta only [done]
        extract_lets +onlyGivenNames s1 s2
        have hs1 : s1.Wf := by
          dsimp -zeta only [s1]
          dsimp -zeta only [seen]
          simp [h]
        have hs2 : s2.Wf := by simp [s2, hs1]
        simp [hs2]
      · rw [outcomeWf_next]
        dsimp -zeta only [done]
        extract_lets +onlyGivenNames s1 s2
        have hs1 : s1.Wf := by
          dsimp -zeta only [s1]
          dsimp -zeta only [seen]
          simp [h]
        have hs2 : s2.Wf := by simp [s2, hs1]
        simp [hs2]
      · rw [outcomeWf_next]
        apply wf_failReq
        dsimp -zeta only [seen]
        simp [h]
      · rw [outcomeWf_next]
        apply wf_failReq
        dsimp -zeta only [seen]
        simp [h]
      · rw [outcomeWf_next]
        apply wf_failReq
        dsimp -zeta only [seen]
        simp [h]
      · rw [outcomeWf_next]
        apply wf_failReq
        dsimp -zeta only [seen]
        simp [h]
      · rw [outcomeWf_next]
        apply wf_failReq
        dsimp -zeta only [seen]
        simp [h]

/-! #### What Machine/Banks leaves canonical -/

@[simp] theorem wf_sramEcc (h : s.Wf) (k line : Nat) (o : EccOutcome) : (s.sramEcc k line o).Wf := by
  unfold State.sramEcc
  extract_lets +onlyGivenNames syn rec'
  split
  · dsimp -zeta only [rec']
    apply wf_scheduleTest
    simp [h]
  · dsimp -zeta only [rec']
    apply wf_scheduleTest
    simp [h]
  · dsimp -zeta only [rec']
    apply wf_scheduleTest
    simp [h]
  · dsimp -zeta only [rec']
    apply wf_scheduleTest
    simp [h]
  · exact h

@[simp] theorem wf_spadPoisonWrite (h : s.Wf) (key : Nat) (b : Blk) (line : Nat) (full : Bool) :
    (s.spadPoisonWrite key b line full).Wf := by
  unfold State.spadPoisonWrite; simp [h]

@[simp] theorem wf_serveSpad (h : s.Wf) (r : Req) (key : Nat) (b : Blk) (lost : Bool) : (s.serveSpad r key b lost).Wf := by
  unfold State.serveSpad; split <;> simp [h]

@[simp] theorem wf_givePop (h : s.Wf) (id : Nat) (e : FifoEntry) : (s.givePop id e).Wf := by
  unfold State.givePop; split <;> simp [h]

@[simp] theorem wf_noteFifo (h : s.Wf) (k id : Nat) : (s.noteFifo k id).Wf := by
  unfold State.noteFifo; split <;> simp [h]

@[simp] theorem wf_serveWaits (h : s.Wf) (k n : Nat) : (State.serveWaits k n s).Wf := by
  induction n generalizing s with
  | zero => exact h
  | succ n ih =>
    unfold State.serveWaits
    extract_lets +onlyGivenNames b
    split
    · split
      · exact h
      · split
        · exact ih (wf_modBank h ..)
        · exact ih (wf_givePop (wf_noteFifo (wf_modBank h ..) ..) ..)
    · split
      · exact h
      · split
        · exact ih (wf_modBank h ..)
        · exact ih (wf_modReq (wf_noteFifo (wf_modBank h ..) ..) ..)
    · exact h

@[simp] theorem wf_afterFifo (h : s.Wf) (k : Nat) : (s.afterFifo k).Wf := by
  unfold State.afterFifo; simp [h]

@[simp] theorem wf_fifoPush (h : s.Wf) (k : Nat) (e : FifoEntry) : (s.fifoPush k e).Wf := by
  unfold State.fifoPush; simp [h]

@[simp] theorem wf_fifoPop (h : s.Wf) (k : Nat) : (s.fifoPop k).1.Wf := by
  unfold State.fifoPop; split <;> simp [h]

@[simp] theorem wf_serveFifo (h : s.Wf) (r : Req) (k : Nat) : (s.serveFifo r k).Wf := by
  unfold State.serveFifo
  extract_lets +onlyGivenNames b
  split
  · split
    · apply wf_afterFifo
      exact h
    · dsimp -zeta only
      split
      · apply wf_givePop
        simp [h]
      · simp [h]
  · split
    · apply wf_afterFifo
      exact h
    · apply wf_modReq
      simp [h]

@[simp] theorem wf_waitAt (h : s.Wf) (push : Bool) (k id : Nat) : (s.waitAt push k id).Wf := h

@[simp] theorem wf_leaveWait (h : s.Wf) (push : Bool) (k id : Nat) : (s.leaveWait push k id).Wf := h

@[simp] theorem wf_serveLost (h : s.Wf) (r : Req) : (s.serveLost r).Wf := h

@[simp] theorem wf_execBankRequestServe (h : s.Wf) : OutcomeWf (execBankRequestServe s) := by
  unfold execBankRequestServe
  extract_lets +onlyGivenNames k
  split
  · simp [h]
  · extract_lets +onlyGivenNames popped
    have hpopped : popped.Wf := by simp [popped, h]
    split
    · simp [hpopped]
    · split
      · simp [h]
      · split
        · split
          · simp [hpopped]
          · extract_lets +onlyGivenNames s1
            have hs1 : s1.Wf := by simp [s1, hpopped]
            simp [hs1]
        · split
          · rw [outcomeWf_next]
            apply wf_admitReqs
            simp [hpopped]
          · rw [outcomeWf_next]
            apply wf_admitReqs
            simp [hpopped]
        · simp [hpopped]

@[simp] theorem wf_beginChange (h : s.Wf) (k : Nat) (m : BankMode) (owner : Option Nat) (by' : Option (Nat × Nat)) :
    (s.beginChange k m owner by').Wf := by
  unfold State.beginChange; simp [h]

@[simp] theorem wf_finishChange (h : s.Wf) (k : Nat) : (s.finishChange k).Wf := by
  unfold State.finishChange; split <;> simp [h]

@[simp] theorem wf_execBankModeChangeDone (h : s.Wf) : OutcomeWf (execBankModeChangeDone s) := by
  unfold execBankModeChangeDone; simp [h]

@[simp] theorem wf_execCfgbank (h : s.Wf) (w : UniW) : OutcomeWf (execCfgbank w s) := by
  unfold execCfgbank
  apply wf_uniWordOp
  · exact h
  · intro y0 y1 y2 y3 ht
    extract_lets +onlyGivenNames sel cluster k m me issuer
    split
    · simp [h]
    · split
      · simp [h]
      · split
        · simp [h]
        · split
          · simp [ht]
          · split
            · exact h
            · split
              · simp [h]
              · split
                · exact h
                · extract_lets +onlyGivenNames s1
                  have hs1 : s1.Wf := by simp [s1, h]
                  simp [hs1]

/-! #### What Machine/Image leaves canonical -/

@[simp] theorem wf_writeImage (h : s.Wf) (core bctx : Nat) (b : Blk) (reason : Nat) : (s.writeImage core bctx b reason).Wf := by
  unfold State.writeImage
  extract_lets +onlyGivenNames s1
  have hs1 : s1.Wf := wf_foldl (fun t a ht => by simp [ht]) _ h
  simp [hs1]

@[simp] theorem wf_imgSync (h : s.Wf) (core bctx : Nat) : (s.imgSync core bctx).Wf := by
  unfold State.imgSync; split <;> simp [h]

@[simp] theorem wf_imgScaleIn (h : s.Wf) (from' : Nat × Nat) (core : Nat) (b : Blk) : (s.imgScaleIn from' core b).Wf := h

/-! #### What Machine/Landing leaves canonical -/

@[simp] theorem wf_dropReq (h : s.Wf) (id : Nat) : (s.dropReq id).Wf := h

@[simp] theorem wf_landed (h : s.Wf) (r : Req) : (s.landed r).Wf := by
  unfold State.landed; simp [h]

@[simp] theorem wf_landFault (h : s.Wf) (r : Req) (cause : Cause) : (s.landFault r cause).Wf := by
  unfold State.landFault
  split
  · exact h
  · split
    · exact h
    · split
      · exact h
      · extract_lets +onlyGivenNames m
        split
        · simp [h]
        · apply wf_foldl
          · intro t a ht
            repeat' split
            all_goals simp [ht]
          · exact h

@[simp] theorem wf_landWatch (h : s.Wf) (r : Req) (key : Nat) : (s.landWatch r key).Wf := by
  unfold State.landWatch
  split
  · exact h
  · extract_lets +onlyGivenNames hs s1
    have h1 : s1.Wf := wf_modThr h ..
    clear_value hs s1
    split
    · exact h1
    · extract_lets +onlyGivenNames m
      split
      · split
        · exact h1
        · exact wf_endStream h1 ..
      · exact wf_foldl (fun t g ht => wf_queueTrap ht ..) _ h1

@[simp] theorem wf_landReply (h : s.Wf) (r : Req) : (s.landReply r).Wf := by
  unfold State.landReply
  split
  · exact h
  · split
    · exact h
    · extract_lets +onlyGivenNames last key hs b1 b2 s1 s2 s3
      have hs1 : s1.Wf := by simp [s1, h]
      have hs2 : s2.Wf := by simp [s2, hs1]
      have hs3 : s3.Wf := by
        dsimp -zeta only [s3]
        split <;> simp [hs2]
      simp [hs3]

@[simp] theorem wf_execReplyLanding (h : s.Wf) : OutcomeWf (execReplyLanding s) := by
  unfold execReplyLanding; split <;> simp [h]

@[simp] theorem wf_imageReply (h : s.Wf) (r : Req) (last : Bool) : (s.imageReply r last).Wf := by
  unfold State.imageReply
  split
  · exact h
  · extract_lets +onlyGivenNames base i
    split
    · exact h
    · exact h
    · extract_lets +onlyGivenNames s1
      have hs1 : s1.Wf := by
        dsimp -zeta only [s1]
        split <;> simp [h]
      simp [hs1]
    · extract_lets +onlyGivenNames s1
      have hs1 : s1.Wf := by
        dsimp -zeta only [s1]
        apply wf_foldl
        · intro t a ht
          apply wf_foldl
          · intro t1 a1 ht1
            simp [ht1]
          · exact ht
        · exact h
      split <;> simp [hs1]

@[simp] theorem wf_execParkedReplyLanding (h : s.Wf) : OutcomeWf (execParkedReplyLanding s) := by
  unfold execParkedReplyLanding; split <;> simp [h]

@[simp] theorem wf_execStoreAcknowledge (h : s.Wf) : OutcomeWf (execStoreAcknowledge s) := by
  unfold execStoreAcknowledge
  split
  · simp [h]
  · split
    · simp [h]
    · extract_lets +onlyGivenNames s1 s2
      have hs1 : s1.Wf := by simp [s1, h]
      have hs2 : s2.Wf := by
        dsimp -zeta only [s2]
        split <;> simp [hs1]
      simp [hs2]

/-! #### What Machine/Sync leaves canonical -/

@[simp] theorem wf_passToken (h : s.Wf) (core bctx w : Nat) (edge : BitVec 3) (waiting : LaneStat → Bool) :
    (s.passToken core bctx w edge waiting).Wf := h

@[simp] theorem wf_barCheck (h : s.Wf) (core bctx n w : Nat) : (s.barCheck core bctx n w).Wf := by
  unfold State.barCheck; split <;> simp [h]

@[simp] theorem wf_barsCheck (h : s.Wf) (core bctx w : Nat) : (s.barsCheck core bctx w).Wf := by
  unfold State.barsCheck
  exact wf_foldl (fun t a ht => by simp [ht]) _ h

@[simp] theorem wf_noteSync (h : s.Wf) (c : Cur) (obj : Nat) (modifies : Bool) : (s.noteSync c obj modifies).Wf := by
  unfold State.noteSync; simp [h]

@[simp] theorem wf_arrive (h : s.Wf) (c : Cur) (b : Blk) (t : Thr) (n : Nat) : (s.arrive c b t n).Wf := by
  unfold State.arrive; simp [h]

@[simp] theorem wf_arriveRest (h : s.Wf) (c : Cur) : (s.arriveRest c).Wf := by
  unfold State.arriveRest
  split
  · exact h
  · split
    · exact h
    · split
      · exact h
      · exact wf_foldl (fun t a ht => by simp [ht]) _ h

@[simp] theorem wf_syncWord (h : s.Wf) (i : Instr) (w : UniW) (f : State → Cur → Blk → Thr → State)
    (hf : ∀ y0 y1 y2 y3, y0.Wf → (f y0 y1 y2 y3).Wf) : OutcomeWf (syncWord i w s f) := by
  unfold syncWord
  apply wf_uniWordOp
  · exact h
  · intro y0 y1 y2 y3 ht
    simp [h, hf, ht]

@[simp] theorem wf_syncEngineWord (h : s.Wf) (i : Instr) (w : UniW) (f : State → Cur → Blk → Thr → State)
    (hf : ∀ y0 y1 y2 y3, y0.Wf → (f y0 y1 y2 y3).Wf) : OutcomeWf (syncEngineWord i w s f) := by
  unfold syncEngineWord
  apply wf_syncWord
  · exact h
  · intro y0 y1 y2 y3 ht
    simp [h, hf, ht]

@[simp] theorem wf_execBarinit (h : s.Wf) (w : UniW) : OutcomeWf (execBarinit w s) := by
  unfold execBarinit
  apply wf_syncWord
  · exact h
  · intro y0 y1 y2 y3 ht
    extract_lets +onlyGivenNames n m k absent busy
    split
    · simp [ht]
    · apply wf_retire
      simp [ht]

@[simp] theorem wf_barArrive (h : s.Wf) (i : Instr) (w : UniW) (waits : Bool) : OutcomeWf (barArrive i w s waits) := by
  unfold barArrive
  apply wf_syncWord
  · exact h
  · intro y0 y1 y2 y3 ht
    extract_lets +onlyGivenNames n k
    repeat' split
    all_goals simp [ht]

@[simp] theorem wf_execBar (h : s.Wf) (w : UniW) : OutcomeWf (execBar w s) := by
  unfold execBar; simp [h]

@[simp] theorem wf_execBara (h : s.Wf) (w : UniW) : OutcomeWf (execBara w s) := by
  unfold execBara; simp [h]

@[simp] theorem wf_execBarw (h : s.Wf) (w : UniW) : OutcomeWf (execBarw w s) := by
  unfold execBarw
  apply wf_syncWord
  · exact h
  · intro y0 y1 y2 y3 ht
    extract_lets +onlyGivenNames n k
    repeat' split
    all_goals simp [ht]

@[simp] theorem wf_execTokwait (h : s.Wf) (w : UniW) : OutcomeWf (execTokwait w s) := by
  unfold execTokwait
  apply wf_uniWordOp
  · exact h
  · intro y0 y1 y2 y3 ht
    simp [ht]

@[simp] theorem wf_putPhaser (h : s.Wf) (n : Nat) (p : Phaser) : (s.putPhaser n p).Wf := h

@[simp] theorem wf_wakePhaser (h : s.Wf) (n phase : Nat) : (s.wakePhaser n phase).Wf := h

@[simp] theorem wf_phStep (h : s.Wf) (n core bctx w : Nat) : (s.phStep n core bctx w).Wf := by
  unfold State.phStep
  extract_lets +onlyGivenNames p sig
  split
  · simp [h]
  · split
    · exact h
    · exact h

@[simp] theorem wf_phCheck (h : s.Wf) (n core bctx w : Nat) : (s.phCheck n core bctx w).Wf := by
  unfold State.phCheck; simp [h]

@[simp] theorem wf_phDrop (h : s.Wf) (n adm core bctx w : Nat) : (s.phDrop n adm core bctx w).Wf := by
  unfold State.phDrop; simp [h]

@[simp] theorem wf_phDropAll (h : s.Wf) (core bctx w : Nat) : (s.phDropAll core bctx w).Wf := by
  unfold State.phDropAll
  split
  · exact h
  · exact wf_foldl (fun t a ht => by simp [ht]) _ h

@[simp] theorem wf_phaserWord (h : s.Wf) (i : Instr) (w : UniW) (joining : Bool) (f : State → Cur → Blk → Thr → Nat → PhMember → State)
    (hf : ∀ y0 y1 y2 y3 y4 y5, y0.Wf → (f y0 y1 y2 y3 y4 y5).Wf) : OutcomeWf (phaserWord i w s joining f) := by
  unfold phaserWord
  apply wf_syncEngineWord
  · exact h
  · intro y0 y1 y2 y3 ht
    extract_lets +onlyGivenNames v n p
    repeat' split
    all_goals simp [hf, ht]

@[simp] theorem wf_execPhreg (h : s.Wf) (w : UniW) : OutcomeWf (execPhreg w s) := by
  unfold execPhreg
  apply wf_phaserWord
  · exact h
  · intro y0 y1 y2 y3 y4 y5 ht
    extract_lets +onlyGivenNames p mode
    split
    · simp [ht]
    · extract_lets +onlyGivenNames first
      apply wf_putUni
      simp [ht]

@[simp] theorem wf_execPhdrop (h : s.Wf) (w : UniW) : OutcomeWf (execPhdrop w s) := by
  unfold execPhdrop
  apply wf_phaserWord
  · exact h
  · intro y0 y1 y2 y3 y4 y5 ht
    apply wf_retire
    simp [ht]

@[simp] theorem wf_phSignal (h : s.Wf) (c : Cur) (b : Blk) (n f : Nat) : (s.phSignal c b n f).Wf := h

@[simp] theorem wf_execPhsig (h : s.Wf) (w : UniW) : OutcomeWf (execPhsig w s) := by
  unfold execPhsig
  apply wf_phaserWord
  · exact h
  · intro y0 y1 y2 y3 y4 y5 ht
    simp [ht]

@[simp] theorem wf_execPhwait (h : s.Wf) (w : UniW) : OutcomeWf (execPhwait w s) := by
  unfold execPhwait
  apply wf_phaserWord
  · exact h
  · intro y0 y1 y2 y3 y4 y5 ht
    simp [ht]

@[simp] theorem wf_execPhnext (h : s.Wf) (w : UniW) : OutcomeWf (execPhnext w s) := by
  unfold execPhnext
  apply wf_phaserWord
  · exact h
  · intro y0 y1 y2 y3 y4 y5 ht
    simp [ht]

@[simp] theorem wf_raiseBy (h : s.Wf) (core bctx w n : Nat) (v : DWord) : (s.raiseBy core bctx w n v).Wf := h

@[simp] theorem wf_execTlsig (h : s.Wf) (w : UniW) : OutcomeWf (execTlsig w s) := by
  unfold execTlsig
  apply wf_syncEngineWord
  · exact h
  · intro y0 y1 y2 y3 ht
    extract_lets +onlyGivenNames n v k
    split
    · simp [ht]
    · split
      · simp [ht]
      · apply wf_retire
        simp [ht]

@[simp] theorem wf_execTlwait (h : s.Wf) (w : UniW) : OutcomeWf (execTlwait w s) := by
  unfold execTlwait
  apply wf_syncEngineWord
  · exact h
  · intro y0 y1 y2 y3 ht
    simp [ht]

@[simp] theorem wf_execTlread (h : s.Wf) (w : UniW) : OutcomeWf (execTlread w s) := by
  unfold execTlread
  apply wf_syncEngineWord
  · exact h
  · intro y0 y1 y2 y3 ht
    simp [ht]

@[simp] theorem wf_execStage (h : s.Wf) (w : UniW) : OutcomeWf (execStage w s) := by
  unfold execStage
  apply wf_syncWord
  · exact h
  · intro y0 y1 y2 y3 ht
    simp [ht]

@[simp] theorem wf_dropRel (h : s.Wf) (id : Nat) : (s.dropRel id).Wf := h

@[simp] theorem wf_noteRel (h : s.Wf) (k : Rel) (obj : Nat) (modifies : Bool) (close : Nat) : (s.noteRel k obj modifies close).Wf := by
  unfold State.noteRel; simp [h]

@[simp] theorem wf_finishRel (h : s.Wf) (k : Rel) : (s.finishRel k).Wf := by
  unfold State.finishRel
  split
  · simp [h]
  · exact h
  · simp [h]
  · simp [h]
  · extract_lets +onlyGivenNames s1 p ms
    have hs1 : s1.Wf := by simp [s1, h]
    simp [hs1]
  · apply wf_barCheck
    simp [h]
  · simp [h]

@[simp] theorem wf_execReleaseComplete (h : s.Wf) : OutcomeWf (execReleaseComplete s) := by
  unfold execReleaseComplete; split <;> simp [h]

@[simp] theorem wf_execCodepubComplete (h : s.Wf) : OutcomeWf (execCodepubComplete s) := by
  unfold execCodepubComplete
  split
  · simp [h]
  · split
    · simp [h]
    · split
      · rw [outcomeWf_next]
        apply wf_admitReqs
        simp [h]
      · simp [h]
    · simp [h]

@[simp] theorem wf_wakeUpTo (h : s.Wf) (ctx addr n : Nat) : (s.wakeUpTo ctx addr n).Wf := by
  unfold State.wakeUpTo
  exact wf_foldl (fun t a ht => by simp [ht]) _ h

@[simp] theorem wf_execWakeaddrHomeAct (h : s.Wf) : OutcomeWf (execWakeaddrHomeAct s) := by
  unfold execWakeaddrHomeAct
  split
  · simp [h]
  · extract_lets +onlyGivenNames earlier
    split
    · simp [h]
    · rw [outcomeWf_next]
      apply wf_dropReq
      apply wf_foldl
      · intro t a ht
        simp [ht]
      · simp [h]

/-! #### What Machine/Tiles leaves canonical -/

@[simp] theorem wf_modTile (h : s.Wf) (core j : Nat) (f : Tile → Tile) : (s.modTile core j f).Wf := h

@[simp] theorem wf_tileDrain (h : s.Wf) (core bctx j : Nat) : (s.tileDrain core bctx j).Wf := by
  unfold State.tileDrain
  extract_lets +onlyGivenNames t
  repeat' split
  all_goals simp [h]

@[simp] theorem wf_dropReader (h : s.Wf) (core bctx id : Nat) : (s.dropReader core bctx id).Wf := by
  unfold State.dropReader
  extract_lets +onlyGivenNames js
  exact wf_foldl (fun t a ht => by simp [ht]) _ h

@[simp] theorem wf_addReader (h : s.Wf) (core j id : Nat) : (s.addReader core j id).Wf := h

/-! #### What Machine/Nodes leaves canonical -/

@[simp] theorem wf_setNode (h : s.Wf) (n : ArmNode) : (s.setNode n).Wf := h

/-! #### What Machine/Exit leaves canonical -/

@[simp] theorem wf_leaveGang (h : s.Wf) (b : Blk) (core bctx : Nat) : (s.leaveGang b core bctx).Wf := h

@[simp] theorem wf_dropBlk (h : s.Wf) (key : Nat) (b : Blk) : (s.dropBlk key b).Wf := h

@[simp] theorem wf_sweep (h : s.Wf) : s.sweep.Wf := by
  unfold State.sweep
  exact wf_foldl (fun t a ht => by simp [ht]) _ h

@[simp] theorem wf_passAsync {s0 : State} (hs0 : s0.Wf) (core bctx w : Nat) : (s0.passAsync core bctx w).Wf := by
  unfold State.passAsync
  extract_lets +onlyGivenNames s
  have hs : s.Wf := by simp [s, hs0]
  split
  · exact hs
  · extract_lets +onlyGivenNames s1 s2
    have hs1 : s1.Wf := by simp [s1, hs]
    have hs2 : s2.Wf := by
      dsimp -zeta only [s2]
      split <;> simp [hs1]
    exact wf_foldl (fun t a ht => by simp [ht]) _ hs2

@[simp] theorem wf_afterExit (h : s.Wf) (c : Cur) : (s.afterExit c).Wf := by
  unfold State.afterExit
  extract_lets +onlyGivenNames s1
  have hs1 : s1.Wf := by simp [s1, h]
  split
  · exact hs1
  · split
    · apply wf_sweep
      apply wf_passAsync
      simp [hs1]
    · exact hs1

/-! #### What Machine/Matrix leaves canonical -/

@[simp] theorem wf_noteRows (h : s.Wf) (c : Cur) (issuer w r n : Nat) (modifies : Bool) : (s.noteRows c issuer w r n modifies).Wf := by
  unfold State.noteRows
  exact wf_foldl (fun t a ht => by simp [ht]) _ h

@[simp] theorem wf_accMove (h : s.Wf) (i : Instr) (w : LaneW) (x : MemX) (writes : Bool)
    (f : State → Cur → Thr → Nat → Nat → Nat → Word → State) (hf : ∀ y0 y1 y2 y3 y4 y5 y6, y0.Wf → (f y0 y1 y2 y3 y4 y5 y6).Wf) :
    OutcomeWf (accMove i w x s writes f) := by
  unfold accMove
  apply wf_laneWordOp
  · exact h
  · intro y0 y1 y2 y3
    extract_lets +onlyGivenNames n v r
    split
    · simp [h]
    · split
      · simp [h]
      · split
        · exact h
        · extract_lets +onlyGivenNames s1
          have hs1 : s1.Wf := by simp [s1, h]
          simp [hf, hs1]

@[simp] theorem wf_execAccrd (h : s.Wf) (w : LaneW) (x : MemX) : OutcomeWf (execAccrd w x s) := by
  unfold execAccrd
  apply wf_accMove
  · exact h
  · intro y0 y1 y2 y3 y4 y5 y6 ht
    split <;> simp [ht]

@[simp] theorem wf_execAccwr (h : s.Wf) (w : LaneW) (x : MemX) : OutcomeWf (execAccwr w x s) := by
  unfold execAccwr
  apply wf_accMove
  · exact h
  · intro y0 y1 y2 y3 y4 y5 y6 ht
    simp [ht]

@[simp] theorem wf_kilnWord (h : s.Wf) (i : Instr) (ok : Blk → Bool) (regs : List (BitVec 8)) (f : State → Cur → Blk → Thr → State)
    (hf : ∀ y0 y1 y2 y3, y0.Wf → (f y0 y1 y2 y3).Wf) : OutcomeWf (kilnWord i s ok regs f) := by
  unfold kilnWord
  apply wf_ctlWordOp
  · exact h
  · simp [h, hf]

@[simp] theorem wf_noteTile (h : s.Wf) (c : Cur) (j : Nat) (modifies : Bool) : (s.noteTile c j modifies).Wf := by
  unfold State.noteTile; simp [h]

@[simp] theorem wf_startKiln (h : s.Wf) (c : Cur) (b : Blk) (t : Thr) (i : Instr) (base k0 : Nat) (sv : DWord) (reads : List Nat)
    (site : Bool) : (s.startKiln c b t i base k0 sv reads site).Wf := by
  unfold State.startKiln
  extract_lets +onlyGivenNames id lseq s1 s2
  have hs1 : s1.Wf := by simp [s1, h]
  have hs2 : s2.Wf := by
    dsimp -zeta only [s2]
    apply wf_foldl
    · intro t1 a ht
      exact ht
    · exact hs1
  simp [hs2]

@[simp] theorem wf_setKilnWait (h : s.Wf) (core : Nat) (w : Option Bool) : (s.setKilnWait core w).Wf := h

@[simp] theorem wf_mmaIssue (h : s.Wf) (i : Instr) (w : MmaW) : OutcomeWf (mmaIssue i w s) := by
  unfold mmaIssue
  apply wf_kilnWord
  · exact h
  · intro y0 y1 y2 y3 ht
    split
    · simp [h]
    · split
      · simp [h]
      · extract_lets +onlyGivenNames ja jb da db base k0 n last
        split
        · simp [h]
        · split
          · simp [h]
          · split
            · exact h
            · extract_lets +onlyGivenNames s1
              have hs1 : s1.Wf := by
                dsimp -zeta only [s1]
                apply wf_noteRows
                simp [ht]
              simp [hs1]

@[simp] theorem wf_execMzero (h : s.Wf) (w : MzeroW) : OutcomeWf (execMzero w s) := by
  unfold execMzero
  apply wf_kilnWord
  · exact h
  · intro y0 y1 y2 y3 ht
    simp [ht]

@[simp] theorem wf_execScld (h : s.Wf) (w : ScldW) : OutcomeWf (execScld w s) := by
  unfold execScld
  apply wf_kilnWord
  · exact h
  · intro y0 y1 y2 y3 ht
    simp [h, ht]

@[simp] theorem wf_moveIssue (h : s.Wf) (i : Instr) (w : MmoveW) (store : Bool) : OutcomeWf (moveIssue i w s store) := by
  unfold moveIssue
  apply wf_kilnWord
  · exact h
  · intro y0 y1 y2 y3 ht
    extract_lets +onlyGivenNames j e d base side n v k
    split
    · simp [h]
    · split
      · simp [h]
      · split
        · simp [h]
        · split
          · simp [h]
          · split
            · simp [h]
            · split
              · simp [h]
              · extract_lets +onlyGivenNames s1 s2 s3
                have hs1 : s1.Wf := by simp [s1, ht]
                have hs2 : s2.Wf := by simp [s2, hs1]
                have hs3 : s3.Wf := by simp [s3, hs2]
                simp [hs3]

@[simp] theorem wf_execTrel (h : s.Wf) (w : TrelW) : OutcomeWf (execTrel w s) := by
  unfold execTrel
  apply wf_kilnWord
  · exact h
  · intro y0 y1 y2 y3 ht
    extract_lets +onlyGivenNames j v
    split
    · simp [ht]
    · split
      · simp [ht]
      · extract_lets +onlyGivenNames s1
        have hs1 : s1.Wf := by simp [s1, ht]
        apply wf_retire
        simp [hs1]

@[simp] theorem wf_execTacq (h : s.Wf) (w : TrelW) : OutcomeWf (execTacq w s) := by
  unfold execTacq
  apply wf_kilnWord
  · exact h
  · intro y0 y1 y2 y3 ht
    simp [ht]

@[simp] theorem wf_execMwait (h : s.Wf) (w : TrelW) : OutcomeWf (execMwait w s) := by
  unfold execMwait
  apply wf_kilnWord
  · exact h
  · intro y0 y1 y2 y3 ht
    simp [ht]

@[simp] theorem wf_kilnEffect (h : s.Wf) (k : MCmd) (b : Blk) (bad : Bool) : (s.kilnEffect k b bad).Wf := by
  unfold State.kilnEffect
  extract_lets +onlyGivenNames desc core scale free
  split
  · simp [h]
  · simp [h]
  · simp [h]
  · exact h
  · extract_lets +onlyGivenNames d
    split
    · exact h
    · extract_lets +onlyGivenNames size b1 whole part s1
      have hs1 : s1.Wf := by simp [s1, h]
      exact wf_foldl (fun t a ht => by simp [ht]) _ hs1
  · simp [h]
  · exact h

@[simp] theorem wf_kilnSignals (h : s.Wf) (k : MCmd) (b : Blk) : (s.kilnSignals k b).Wf := by
  unfold State.kilnSignals
  extract_lets +onlyGivenNames signal
  split
  · dsimp -zeta only [signal]
    extract_lets +onlyGivenNames s1 s2
    have hs1 : s1.Wf := by simp [s1, h]
    have hs2 : s2.Wf := by simp [s2, hs1]
    simp [hs2]
  · dsimp -zeta only [signal]
    simp [h]
  · exact h

@[simp] theorem wf_kilnFails (h : s.Wf) (k : MCmd) (cause : Cause) : (s.kilnFails k cause).Wf := by
  unfold State.kilnFails; simp [h]

@[simp] theorem wf_execMatrixCommandComplete (h : s.Wf) : OutcomeWf (execMatrixCommandComplete s) := by
  unfold execMatrixCommandComplete
  split
  · simp [h]
  · extract_lets +onlyGivenNames first
    split
    · simp [h]
    · split
      · simp [h]
      · extract_lets +onlyGivenNames desc bad s0 s1 s2 s3 s4
        have hs0 : s0.Wf := by simp [s0, h]
        have hs1 : s1.Wf := by simp [s1, hs0]
        have hs2 : s2.Wf := by simp [s2, hs1]
        have hs3 : s3.Wf := by simp [s3, hs2]
        have hs4 : s4.Wf := by simp [s4, hs3]
        simp [hs4]

/-! #### What Machine/Uniform leaves canonical -/

@[simp] theorem wf_execScmp (h : s.Wf) (w : UniW) : OutcomeWf (execScmp w s) := by
  unfold execScmp
  apply wf_uniWordOp
  · exact h
  · intro y0 y1 y2 y3 ht
    simp [ht]

@[simp] theorem wf_uniAccess (h : s.Wf) (c : Cur) (b : Blk) (t : Thr) (us ud : List Nat) (f : MemForm) (va data : DWord) :
    (s.uniAccess c b t us ud f va data).Wf := by
  unfold State.uniAccess
  extract_lets +onlyGivenNames priv low failAll
  split
  · simp [h]
  · split
    · exact h
    · split
      · dsimp -zeta only [failAll]
        simp [h]
      · dsimp -zeta only [failAll]
        simp [h]
      · exact h
      · extract_lets +onlyGivenNames at' g r
        extract_lets +onlyGivenNames r1
        split
        · exact h
        · extract_lets +onlyGivenNames kind hit remote later stay s1 s2
          have hs1 : s1.Wf := by
            dsimp -zeta only [s1]
            apply wf_addReqs
            apply wf_markDst
            simp [h]
          have hs2 : s2.Wf := by
            dsimp -zeta only [s2]
            split <;> simp [hs1]
          simp [hs2]

@[simp] theorem wf_execV2s (h : s.Wf) (w : UniW) : OutcomeWf (execV2s w s) := by
  unfold execV2s
  extract_lets +onlyGivenNames n wide
  apply wf_ctlUniOp
  · exact h
  · simp [h]

/-! #### What Machine/CopyIssue leaves canonical -/

@[simp] theorem wf_imgStatus (h : s.Wf) (core bctx w : Nat) : (s.imgStatus core bctx w).Wf := by
  unfold State.imgStatus
  repeat' split
  all_goals simp [h]

@[simp] theorem wf_dropCmd (h : s.Wf) (id : Nat) : (s.dropCmd id).Wf := h

@[simp] theorem wf_modCmd (h : s.Wf) (id : Nat) (f : Cmd → Cmd) : (s.modCmd id f).Wf := h

@[simp] theorem wf_raiseCmds (h : s.Wf) : s.raiseCmds.Wf := by
  unfold State.raiseCmds
  apply wf_foldl
  · intro t a ht
    split <;> simp [ht]
  · exact h

@[simp] theorem wf_cmdTrap (h : s.Wf) (k : Cmd) (cause : Cause) (addr : DWord) (toWarp : Bool) :
    (s.cmdTrap k cause addr toWarp).Wf := by
  unfold State.cmdTrap; simp [h]

@[simp] theorem wf_leaveBanks (h : s.Wf) (id : Nat) : (s.leaveBanks id).Wf := by
  unfold State.leaveBanks
  apply wf_foldl
  · intro t a ht
    apply wf_afterFifo
    exact ht
  · exact h

@[simp] theorem wf_endCmd (h : s.Wf) (id : Nat) : (s.endCmd id).Wf := by
  unfold State.endCmd
  split
  · exact h
  · extract_lets +onlyGivenNames alive s1 s2 s3 s4 s5
    have hs1 : s1.Wf := by simp [s1, h]
    have hs2 : s2.Wf := by
      dsimp -zeta only [s2]
      apply wf_foldl
      · intro t a ht
        exact ht
      · exact hs1
    have hs3 : s3.Wf := by simp [s3, hs2]
    have hs4 : s4.Wf := by
      dsimp -zeta only [s4]
      split <;> simp [hs3]
    have hs5 : s5.Wf := by
      dsimp -zeta only [s5]
      split <;> simp [hs4]
    apply wf_sweep
    apply wf_raiseCmds
    simp [hs5]

@[simp] theorem wf_cpyrMark (h : s.Wf) (c : Cur) (i : Instr) (sd : DWord) : (s.cpyrMark c i sd).Wf := by
  unfold State.cpyrMark; split <;> simp [h]

@[simp] theorem wf_issueCmd (h : s.Wf) (c : Cur) (b : Blk) (t : Thr) (i : Instr) (x : CpyX) (st : Option Nat) (a : CpyArgs)
    (fills : List (Nat × Nat)) (items : Nat) : (s.issueCmd c b t i x st a fills items).Wf := by
  unfold State.issueCmd
  extract_lets +onlyGivenNames id k s1 s2 s3 s4 s5 s6
  have hs1 : s1.Wf := by simp [s1, h]
  have hs2 : s2.Wf := by simp [s2, hs1]
  have hs3 : s3.Wf := by
    dsimp -zeta only [s3]
    apply wf_foldl
    · intro t1 a1 ht
      exact ht
    · exact hs2
  have hs4 : s4.Wf := by
    dsimp -zeta only [s4]
    split <;> simp [hs3]
  have hs5 : s5.Wf := by simp [s5, hs4]
  have hs6 : s6.Wf := by simp [s6, hs5]
  simp [hs6]

@[simp] theorem wf_copyWord (h : s.Wf) (i : Instr) (w : UniW) (x : CpyX) (st : BitVec 7) : OutcomeWf (copyWord i w x st s) := by
  unfold copyWord
  apply wf_ctlWordOp
  · exact h
  · intro y0 y1 y2
    extract_lets +onlyGivenNames s0 a named desc d fills srcSt
    have hs0 : s0.Wf := by simp [s0, h]
    split
    · simp [h]
    · repeat' split
      all_goals simp [h, hs0]

@[simp] theorem wf_execCpy (h : s.Wf) (w : UniW) (x : CpyX) (y : CpyY) : OutcomeWf (execCpy w x y s) := by
  unfold execCpy; simp [h]

@[simp] theorem wf_execCpyfill (h : s.Wf) (w : UniW) (x : CpyX) (y : CpyY) : OutcomeWf (execCpyfill w x y s) := by
  unfold execCpyfill; simp [h]

@[simp] theorem wf_execCpym (h : s.Wf) (w : UniW) (x : CpyX) (y : CpyY) : OutcomeWf (execCpym w x y s) := by
  unfold execCpym; simp [h]

@[simp] theorem wf_execCpyp (h : s.Wf) (w : UniW) (x : CpyX) (y : CpyY) : OutcomeWf (execCpyp w x y s) := by
  unfold execCpyp; simp [h]

@[simp] theorem wf_execCpyx (h : s.Wf) (w : UniW) (x : CpyX) (y : CpyY) : OutcomeWf (execCpyx w x y s) := by
  unfold execCpyx; simp [h]

@[simp] theorem wf_execCpyr (h : s.Wf) (w : UniW) (x : CpyX) (y : CpyY) : OutcomeWf (execCpyr w x y s) := by
  unfold execCpyr; simp [h]

@[simp] theorem wf_execCpymc (h : s.Wf) (w : UniW) (x : CpyX) (y : CpyY) : OutcomeWf (execCpymc w x y s) := by
  unfold execCpymc; simp [h]

@[simp] theorem wf_execCpyg (h : s.Wf) (w : UniW) (x : CpyX) (y : CpyY) : OutcomeWf (execCpyg w x y s) := by
  unfold execCpyg; simp [h]

@[simp] theorem wf_execCpys (h : s.Wf) (w : UniW) (x : CpyX) (y : CpyY) : OutcomeWf (execCpys w x y s) := by
  unfold execCpys; simp [h]

@[simp] theorem wf_execColl (h : s.Wf) (w : UniW) (x : CpyX) : OutcomeWf (execColl w x s) := by
  unfold execColl; simp [h]

@[simp] theorem wf_countLseq (h : s.Wf) (c : Cur) : (s.countLseq c).Wf := by
  unfold State.countLseq; simp [h]

@[simp] theorem wf_execStagew (h : s.Wf) (w : UniW) (x : Word) : OutcomeWf (execStagew w x s) := by
  unfold execStagew
  apply wf_uniWordOp
  · exact h
  · intro y0 y1 y2 y3 ht
    extract_lets +onlyGivenNames v
    split
    · simp [h]
    · split
      · exact h
      · apply wf_retire
        simp [ht]

@[simp] theorem wf_writeTile (h : s.Wf) (c : Cur) (b : Blk) (t : Thr) (n : Nat) (rdy : Bool) (d : BitVec 128) :
    (s.writeTile c b t n rdy d).Wf := by
  unfold State.writeTile
  extract_lets +onlyGivenNames j
  split
  · simp [h]
  · split
    · exact h
    · apply wf_retire
      apply wf_countLseq
      simp [h]

@[simp] theorem wf_tsetFault (h : s.Wf) (c : Cur) (b : Blk) (t : Thr) (k : Cause) (va : DWord) (page : Option Nat) :
    (s.tsetFault c b t k va page).Wf := by
  unfold State.tsetFault; simp [h]

@[simp] theorem wf_execTset (h : s.Wf) (w : UniW) (x1 x2 : Word) : OutcomeWf (execTset w x1 x2 s) := by
  unfold execTset
  extract_lets +onlyGivenNames n rdy
  apply wf_ctlWordOp
  · exact h
  · intro y0 y1 y2
    extract_lets +onlyGivenNames a
    split
    · simp [h]
    · split
      · extract_lets +onlyGivenNames s1 d
        have hs1 : s1.Wf := by simp [s1, h]
        repeat' split
        all_goals simp [h, hs1]
      · extract_lets +onlyGivenNames priv
        split
        · simp [h]
        · simp [h]
        · simp [h]
        · split
          · exact h
          · extract_lets +onlyGivenNames at' g r
            extract_lets +onlyGivenNames r1
            split
            · exact h
            · apply wf_stall
              simp [h]

/-! #### What Machine/CopyRun leaves canonical -/

@[simp] theorem wf_s_eng {self : Eng} (hself : self.Wf) : (Eng.s self).Wf := by
  unfold Eng.s
  exact hself

@[simp] theorem wf_note_eng (h : e.Wf) (obj : Nat) (w : Bool) (a : Option Nat) : (Eng.note e obj w a).Wf := by
  unfold Eng.note; simp [h]

@[simp] theorem wf_watch_eng (h : e.Wf) (va : DWord) (n : Nat) : (Eng.watch e va n).Wf := by
  unfold Eng.watch; simp [h]

@[simp] theorem wf_mismatch_eng (h : e.Wf) (v : DWord) : (Eng.mismatch e v).Wf := h

@[simp] theorem wf_take_eng (h : e.Wf) (n : Nat) : ExceptWf (fun x => x.1.s) (Eng.take e n) := by
  unfold Eng.take; simp [h]

@[simp] theorem wf_peer_eng (h : e.Wf) (dev : BitVec 16) (op : PeerOp) (va : DWord) (tag : Nat) : ExceptWf Eng.s
    (Eng.peer e dev op va tag) := by
  unfold Eng.peer; simp [h]

@[simp] theorem wf_peerRead_eng (h : e.Wf) (dev : BitVec 16) (va : DWord) (n : Nat) : ExceptWf (fun x => x.1.s)
    (Eng.peerRead e dev va n) := by
  unfold Eng.peerRead
  repeat' split
  all_goals simp [h]

@[simp] theorem wf_peerWrite_eng (h : e.Wf) (dev : BitVec 16) (va : DWord) (bs : List Byte) : ExceptWf Eng.s
    (Eng.peerWrite e dev va bs) := by
  unfold Eng.peerWrite
  split
  · simp
  · rename_i t e1
    have ht : t.Wf := (wf_peer_eng h ..).ok e1
    exact ht

@[simp] theorem wf_askPeer (h : s.Wf) (k : Cmd) (dev : BitVec 16) (va : DWord) (n : Nat) : (s.askPeer k dev va n).Wf := by
  unfold State.askPeer; simp [h]

@[simp] theorem wf_dropReplies (h : s.Wf) (k : Cmd) : (s.dropReplies k).Wf := h

@[simp] theorem wf_cached_eng (h : s.Wf) (e : Eng) (l : Option Leaf) (line : Nat) : (Eng.cached e l line s).Wf := by
  unfold Eng.cached; split <;> simp [h]

@[simp] theorem wf_sram_eng (h : e.Wf) (bank line : Nat) : (Eng.sram e bank line).Wf := by
  unfold Eng.sram; simp [h]

@[simp] theorem wf_readAt_eng (h : e.Wf) (v : DWord) (n : Nat) (h1 : Home) (a : Nat) (l : Option Leaf) : ExceptWf (fun x => x.1.s)
    (Eng.readAt e v n h1 a l) := by
  unfold Eng.readAt
  split
  · extract_lets +onlyGivenNames line
    split
    · simp
    · split
      · simp
      · extract_lets +onlyGivenNames e1 s0 s1 e2
        have he1 : e1.Wf := by simp [e1, h]
        have hs0 : s0.Wf := by simp [s0, he1]
        have hs1 : s1.Wf := by simp [s1, hs0]
        have he2 : e2.Wf := by
          dsimp -zeta only [e2]
          apply wf_gather
          simp [hs1]
        simp [he2]
  · split <;> simp [h]
  · simp [h]
  · simp [h]
  · simp

@[simp] theorem wf_readN_eng (h : e.Wf) (glob : Bool) (fuel : Nat) (va : DWord) (n : Nat) : ExceptWf (fun x => x.1.s)
    (Eng.readN glob fuel e va n) := by
  induction fuel generalizing e va n with
  | zero => exact h
  | succ fuel ih =>
    cases n with
    | zero => exact h
    | succ n =>
      rw [Eng.readN]
      · split
        · trivial
        · extract_lets k
          split
          · trivial
          · rename_i e1 _ he
            have h1 : e1.Wf := (wf_readAt_eng (wf_watch_eng h ..) ..).ok he
            split
            · trivial
            · rename_i e2 _ he2
              have h2 : e2.Wf := (ih h1 ..).ok he2
              exact h2
      · exact n.succ_ne_zero

@[simp] theorem wf_src_eng (h : e.Wf) (va : DWord) (n : Nat) (base : DWord) : ExceptWf (fun x => x.1.s) (Eng.src e va n base) := by
  unfold Eng.src; simp [h]

@[simp] theorem wf_covers_eng (h : e.Wf) (h1 : Home) (a n : Nat) : (Eng.covers e h1 a n).Wf := by
  unfold Eng.covers; simp [h]

@[simp] theorem wf_unset_eng (h : e.Wf) (x : Home) (a : Nat) (bs : List Byte) : (e.unset x a bs).Wf := by
  unfold Eng.unset
  split
  · exact memory_wf_writeBytes bs h a
  · split
    · exact h
    · exact h
  · exact h

@[simp] theorem wf_writeAt_eng (h : e.Wf) (v : DWord) (data : List Byte) (h1 : Home) (a : Nat) (l : Option Leaf) : ExceptWf Eng.s
    (Eng.writeAt e v data h1 a l) := by
  unfold Eng.writeAt
  extract_lets +onlyGivenNames bs
  split
  · simp [h]
  · split
    · extract_lets +onlyGivenNames line pub writer
      split
      · simp
      · split
        · simp
        · extract_lets +onlyGivenNames bad e1
          have he1 : e1.Wf := by simp [e1, h]
          split
          · simp
          · split
            · simp [he1]
            · extract_lets +onlyGivenNames e2 s1 s2 s3
              have he2 : e2.Wf := by simp [e2, he1]
              have hs1 : s1.Wf := by simp [s1, he2]
              have hs2 : s2.Wf := by simp [s2, hs1]
              have hs3 : s3.Wf := by simp [s3, hs2]
              simp [hs3]
    · split <;> simp [h]
    · simp [h]
    · simp [h]
    · simp

@[simp] theorem wf_writeN_eng (h : e.Wf) (glob : Bool) (fuel : Nat) (va : DWord) (bs : List Byte) : ExceptWf Eng.s
    (Eng.writeN glob fuel e va bs) := by
  induction fuel generalizing e va bs with
  | zero => exact h
  | succ fuel ih =>
    cases bs with
    | nil => exact h
    | cons b bs =>
      rw [Eng.writeN]
      · split
        · trivial
        · split
          · trivial
          · rename_i he
            exact ih ((wf_writeAt_eng (wf_watch_eng h ..) ..).ok he) ..
      · exact List.cons_ne_nil b bs

@[simp] theorem wf_dst_eng (h : e.Wf) (va : DWord) (bs : List Byte) (base : DWord) : ExceptWf Eng.s (Eng.dst e va bs base) := by
  unfold Eng.dst; simp [h]

@[simp] theorem wf_spad_eng (h : e.Wf) (adm o : Nat) (bs : List Byte) : ExceptWf Eng.s (Eng.spad e adm o bs) := by
  unfold Eng.spad
  split
  · simp [h]
  · apply exceptWf_foldlM
    · intro b a ht
      extract_lets +onlyGivenNames lo hi
      apply wf_writeAt_eng
      apply wf_watch_eng
      exact ht
    · exact h

@[simp] theorem wf_peerSrc_eng (h : e.Wf) (dev : BitVec 16) (va : DWord) (n : Nat) : ExceptWf (fun x => x.1.s)
    (Eng.peerSrc e dev va n) := by
  unfold Eng.peerSrc
  apply exceptWf_foldlM
  · intro b a ht
    apply exceptWf_bind
    · apply wf_peerRead_eng
      exact ht
    · simp
  · exact h

@[simp] theorem wf_peerDst_eng (h : e.Wf) (dev : BitVec 16) (va : DWord) (bs : List Byte) : ExceptWf Eng.s
    (Eng.peerDst e dev va bs) := by
  unfold Eng.peerDst
  apply exceptWf_foldlM
  · intro b a ht
    apply wf_peerWrite_eng
    exact ht
  · exact h

@[simp] theorem wf_pop_eng (h : e.Wf) (va : DWord) : ExceptWf (fun x => x.1.s) (Eng.pop e va) := by
  unfold Eng.pop
  extract_lets +onlyGivenNames k
  split
  · simp
  · extract_lets +onlyGivenNames e1
    have he1 : e1.Wf := by
      dsimp -zeta only [e1]
      apply wf_sram_eng
      apply wf_watch_eng
      simp [h]
    split
    · simp
    · split
      · rename_i t e2
        have ht : t.Wf := wf_of_eq (wf_fifoPop he1 ..) e2
        simp
      · rename_i t _ e2
        have ht : t.Wf := wf_of_eq (wf_fifoPop he1 ..) e2
        simp [ht]

@[simp] theorem wf_push_eng (h : e.Wf) (va : DWord) (bs : List Byte) : ExceptWf Eng.s (Eng.push e va bs) := by
  unfold Eng.push
  extract_lets +onlyGivenNames k
  split
  · simp
  · split
    · simp [h]
    · split
      · simp
      · extract_lets +onlyGivenNames x e1
        have he1 : e1.Wf := by
          dsimp -zeta only [e1]
          apply wf_watch_eng
          simp [h]
        simp [he1]

@[simp] theorem wf_cpyUnit_eng (h : e.Wf) (y : CpyY) (n room : Nat) : ExceptWf (fun x => x.1.s) (e.cpyUnit y n room) := by
  unfold Eng.cpyUnit
  extract_lets +onlyGivenNames off sf df k sPeer dPeer
  split
  · trivial
  · extract_lets +onlyGivenNames finish write
    have hf : ∀ e2 : Eng, e2.s.Wf → ExceptWf (fun x => x.1.s) (finish e2) := fun _ he => he
    have hw : ∀ x : Eng × List Byte, x.1.s.Wf → ExceptWf (fun x => x.1.s) (write x) := by
      intro x hx
      dsimp -zeta only [write]
      split
      · exact exceptWf_bind (wf_push_eng hx ..) hf
      · split
        · refine exceptWf_bind (g := Eng.s) ?_ hf
          split
          · exact hx
          · exact wf_peerDst_eng (wf_watch_eng hx ..) ..
        · exact exceptWf_bind (wf_dst_eng hx ..) hf
    split
    · refine exceptWf_bind (g := fun x => x.1.s) ?_ hw
      split
      · exact h
      · exact wf_pop_eng h _
    · split
      · exact exceptWf_bind (wf_peerSrc_eng (wf_watch_eng h ..) ..) hw
      · exact exceptWf_bind (wf_src_eng h ..) hw

@[simp] theorem wf_fillUnit_eng (h : e.Wf) (y : CpyY) (n room : Nat) : ExceptWf (fun x => x.1.s) (Eng.fillUnit e y n room) := by
  unfold Eng.fillUnit
  extract_lets +onlyGivenNames va k pw pat
  split
  · simp
  · extract_lets +onlyGivenNames bs
    apply exceptWf_bind
    · apply wf_dst_eng
      simp [h]
    · simp

@[simp] theorem wf_linesUnit_eng (h : e.Wf) (ext : Nat → List (Nat × Nat)) {get : Eng → Nat → Except EStop (Eng × List Put)}
    {put : Eng → Put → Except EStop Eng} (lo hi : Nat) (hget : ∀ e n, e.Wf → ExceptWf (fun x => x.1.s) (get e n))
    (hput : ∀ e p, e.Wf → ExceptWf Eng.s (put e p)) : ExceptWf (fun x => x.1.s) (e.linesUnit ext get put lo hi) := by
  unfold Eng.linesUnit
  apply exceptWf_bind (g := fun x => x.1.s)
  · apply exceptWf_foldlM
    · intro x line hx
      extract_lets upto
      apply exceptWf_bind (g := fun x => x.1.s)
      · apply exceptWf_foldlM
        · intro y i hy
          apply exceptWf_bind (g := fun x => x.1.s)
          · exact hget _ _ hy
          · exact fun a ha => ha
        · exact hx
      · intro a ha
        dsimp -zeta only
        apply exceptWf_bind (g := Eng.s)
        · apply exceptWf_foldlM
          · exact fun b p hb => hput _ p hb
          · exact ha
        · exact fun e2 he => he
    · exact h
  · exact fun a ha => ha

@[simp] theorem wf_elemsUnit_eng (h : e.Wf) {ready : Eng → Nat → Except EStop Eng} (el : Nat → Elem) (n room : Nat)
    (hr : ∀ e n, e.Wf → ExceptWf Eng.s (ready e n)) : ExceptWf (fun x => x.1.s) (e.elemsUnit ready el n room) := by
  apply wf_linesUnit_eng h
  · intro e1 m he
    apply exceptWf_bind (hr e1 m he)
    intro e0 he0
    split
    · trivial
    · apply exceptWf_bind (wf_src_eng he0 ..)
      exact fun a ha => ha
  · exact fun e1 p he => wf_dst_eng he ..

@[simp] theorem wf_mortonUnit_eng (h : e.Wf) (y : CpyY) (n room : Nat) : ExceptWf (fun x => x.1.s) (Eng.mortonUnit e y n room) := by
  unfold Eng.mortonUnit; simp [h]

@[simp] theorem wf_padPut_eng (h : e.Wf) (p : Put) : ExceptWf Eng.s (Eng.padPut e p) := by
  unfold Eng.padPut
  repeat' split
  all_goals simp [h]

@[simp] theorem wf_planeGet_eng (h : e.Wf) (y : CpyY) (d : BitVec 128) (n : Nat) : ExceptWf (fun x => x.1.s)
    (Eng.planeGet y d e n) := by
  unfold Eng.planeGet
  extract_lets f i j k
  apply exceptWf_bind (wf_src_eng h ..)
  intro a ha
  dsimp -zeta only
  extract_lets +onlyGivenNames jp
  have hjp : ∀ x, x.1.Wf → ExceptWf (fun x => x.1.s) (jp x) := fun _ hx => hx
  split
  · apply exceptWf_bind (wf_src_eng ha ..)
    exact fun b hb => hjp _ hb
  · exact hjp _ ha

@[simp] theorem wf_planeUnit_eng (h : e.Wf) (y : CpyY) (d : BitVec 128) (n room : Nat) : ExceptWf (fun x => x.1.s)
    (Eng.planeUnit e y d n room) := by
  unfold Eng.planeUnit
  apply wf_linesUnit_eng
  · exact h
  · intro y0 y1 ht
    simp [ht]
  · intro y0 y1 ht
    simp [ht]

@[simp] theorem wf_expandGet_eng (h : e.Wf) (y : CpyY) (d : BitVec 128) (n : Nat) : ExceptWf (fun x => x.1.s)
    (Eng.expandGet y d e n) := by
  unfold Eng.expandGet
  extract_lets +onlyGivenNames f size at' to'
  apply exceptWf_bind
  · apply wf_src_eng
    exact h
  · intro a ht
    dsimp -zeta only
    extract_lets +onlyGivenNames bits have' __do_jp
    extract_lets +onlyGivenNames __do_jp1
    split
    · apply exceptWf_bind
      · simp
      · intro a1 ht1
        dsimp -zeta only [__do_jp1]
        apply exceptWf_bind
        · apply wf_src_eng
          exact ht1
        · simp
    · dsimp -zeta only [__do_jp1]
      apply exceptWf_bind
      · apply wf_src_eng
        exact ht
      · simp

@[simp] theorem wf_expandUnit_eng (h : e.Wf) (y : CpyY) (d : BitVec 128) (n room : Nat) : ExceptWf (fun x => x.1.s)
    (Eng.expandUnit e y d n room) := by
  unfold Eng.expandUnit
  extract_lets +onlyGivenNames size
  split
  · apply wf_linesUnit_eng
    · exact h
    · intro y0 y1 ht
      simp [ht]
    · intro y0 y1 ht
      simp [ht]
  · apply wf_linesUnit_eng
    · exact h
    · intro y0 y1 ht
      simp [ht]
    · intro y0 y1 ht
      simp [ht]

@[simp] theorem wf_regUnit_eng (h : e.Wf) (n : Nat) : ExceptWf (fun x => x.1.s) (Eng.regUnit e n) := by
  unfold Eng.regUnit
  split
  · simp [h]
  · extract_lets +onlyGivenNames r e0
    have he0 : e0.Wf := by simp [e0, h]
    apply exceptWf_bind
    · apply wf_src_eng
      exact he0
    · intro a ht
      dsimp -zeta only
      split
      · simp [ht]
      · split
        · simp [ht]
        · extract_lets +onlyGivenNames word waits s1 parked s2
          have hs1 : s1.Wf := by
            dsimp -zeta only [s1]
            apply wf_modBlk
            simp [ht]
          have hs2 : s2.Wf := by simp [s2, hs1]
          simp [hs2]

@[simp] theorem wf_castUnit_eng (h : e.Wf) (n room : Nat) : ExceptWf (fun x => x.1.s) (Eng.castUnit e n room) := by
  unfold Eng.castUnit
  extract_lets +onlyGivenNames o k
  apply exceptWf_bind
  · apply wf_src_eng
    exact h
  · intro a ht
    dsimp -zeta only
    extract_lets +onlyGivenNames ms
    apply exceptWf_bind
    · apply exceptWf_foldlM
      · intro b a1 ht1
        apply wf_spad_eng
        exact ht1
      · exact ht
    · simp

@[simp] theorem wf_indexUnit_eng (h : e.Wf) (y : CpyY) (scatter : Bool) (lo n room : Nat) : ExceptWf (fun x => x.1.s)
    (Eng.indexUnit e y scatter lo n room) := by
  unfold Eng.indexUnit
  extract_lets +onlyGivenNames order num
  apply wf_elemsUnit_eng
  · exact h
  · intro y0 y1 ht
    apply exceptWf_map
    · intro a ht1
      exact ht1
    · simp [ht]

@[simp] theorem wf_unit_eng {e0 : Eng} (he0 : e0.Wf) (n room : Nat) : ExceptWf (fun x => x.1.s) (Eng.unit e0 n room) := by
  unfold Eng.unit
  extract_lets +onlyGivenNames e d
  have he : e.Wf := by simp [e, he0]
  split <;> simp [he]

@[simp] theorem wf_run_eng (h : e.Wf) (stop fuel : Nat) : (Eng.run stop fuel e).1.Wf := by
  induction fuel generalizing e with
  | zero => exact h
  | succ fuel ih =>
    unfold Eng.run
    split
    · exact h
    · split
      · exact h
      · rename_i he
        exact ih ((wf_unit_eng h ..).ok he)

@[simp] theorem wf_runUndef_eng (h : e.Wf) (stop fuel : Nat) : (Eng.runUndef stop fuel e).Wf := by
  induction fuel generalizing e with
  | zero => exact h
  | succ fuel ih =>
    unfold Eng.runUndef
    split
    · exact h
    · split
      · rename_i he
        exact ih ((wf_unit_eng h ..).ok he)
      · rename_i he
        exact ih ((wf_unit_eng h ..).ok he)
      · exact ih h

@[simp] theorem wf_settle_eng (h : e.Wf) : (Eng.settle e).Wf := by
  unfold Eng.settle
  apply wf_foldl_eng
  · intro t a ht
    extract_lets +onlyGivenNames full
    repeat' split
    all_goals simp [ht]
  · exact h

@[simp] theorem wf_commit_eng (h : e.Wf) : (Eng.commit e).Wf := by
  unfold Eng.commit
  extract_lets +onlyGivenNames k
  extract_lets +onlyGivenNames k1
  exact wf_foldl (fun t a ht => by simp [ht]) _ h

@[simp] theorem wf_engStart (h : s.Wf) (k : Cmd) (b : Blk) : (s.engStart k b).Wf := h

@[simp] theorem wf_engFor (h : s.Wf) (k : Cmd) (b : Blk) : (s.engFor k b).Wf := h

@[simp] theorem wf_failCopy (h : s.Wf) (id : Nat) (cause : Cause) (va : DWord) : (s.failCopy id cause va).Wf := by
  unfold State.failCopy
  split
  · exact h
  · split
    · apply wf_endCmd
      exact h
    · extract_lets +onlyGivenNames d e
      have he : e.Wf := by simp [e, h]
      extract_lets +onlyGivenNames e1
      have he1 : e1.Wf := by simp [e1, he]
      apply wf_endCmd
      apply wf_modCmd
      apply wf_dropReplies
      simp [he1]

@[simp] theorem wf_admitCopy (h : s.Wf) (k : Cmd) : (s.admitCopy k).Wf := by
  unfold State.admitCopy
  repeat' split
  all_goals simp [h]

@[simp] theorem wf_segMade (h : s.Wf) (k : Cmd) : (s.segMade k).Wf := by
  unfold State.segMade; simp [h]

@[simp] theorem wf_segDone (h : s.Wf) (k : Cmd) (last : Bool) : (s.segDone k last).Wf := by
  unfold State.segDone
  extract_lets +onlyGivenNames s1
  have hs1 : s1.Wf := by
    dsimp -zeta only [s1]
    apply wf_modCmd
    simp [h]
  simp [hs1]

@[simp] theorem wf_completeCopy (h : s.Wf) : OutcomeWf s.completeCopy := by
  unfold State.completeCopy
  split
  · exact h
  · rename_i k _
    split
    · exact h
    · exact h
    · rename_i b _ _
      extract_lets +onlyGivenNames d hi aborted turn
      have hturn : ∀ t, t.Wf → OutcomeWf (turn t) := fun t ht => by
        dsimp -zeta only [turn]
        split
        · exact ht
        · exact h
      have hrun : ∀ {t : State} stop fuel, t.Wf → (Eng.run stop fuel (t.engFor k b)).1.Wf := fun _ _ ht => wf_run_eng (wf_engFor ht k b)
          ..
      have hdone : ∀ {e : Eng}, e.Wf → e.settle.commit.Wf := fun he => wf_commit_eng (wf_settle_eng he)
      clear_value aborted
      split
      · exact wf_sweep (wf_raiseCmds h)
      · split
        · exact h
        · split
          · split
            · exact h
            · split
              · exact wf_failCopy h ..
              · exact wf_segDone h ..
          · split
            · extract_lets +onlyGivenNames _ s0
              have h0 : s0.Wf := h
              split
              · rename_i e he
                have hw : e.Wf := wf_eng_of_eq (hrun _ _ h0) he
                exact hturn _ (wf_failCopy (hdone hw) ..)
              · exact hturn _ (wf_failCopy h0 ..)
            · split
              · rename_i e he
                have hw : e.Wf := wf_eng_of_eq (hrun _ _ h) he
                apply hturn
                split
                · exact wf_segDone (wf_closeChunk (hdone hw) ..) ..
                · exact wf_modCmd (wf_closeChunk (hdone hw) ..) ..
              · rename_i e c va he
                have hw : e.Wf := wf_eng_of_eq (hrun _ _ h) he
                split
                · exact hturn _ (wf_closeChunk (wf_failCopy (hdone hw) ..) ..)
                · exact hturn _ (wf_closeChunk (wf_failCopy h ..) ..)
              · exact wf_startWalk h ..
              · exact wf_modCmd h ..
              · rename_i e dev va n he
                have hw : e.Wf := wf_eng_of_eq (hrun _ _ h) he
                split
                · exact hturn _ (wf_askPeer (hdone hw) ..)
                · exact wf_askPeer h ..
              · rename_i e he
                have hw : e.Wf := wf_eng_of_eq (hrun _ _ h) he
                split
                · exact hturn _ (hdone hw)
                · exact h
              · rename_i e push x he
                have hw : e.Wf := wf_eng_of_eq (hrun _ _ h) he
                split
                · exact hturn _ (wf_waitAt (hdone hw) ..)
                · exact wf_waitAt h ..

/-! #### What Machine/Coll leaves canonical -/

@[simp] theorem wf_rankDev_eng (h : e.Wf) (d : CollDesc) (r : Nat) : ExceptWf (fun x => x.1.s) (Eng.rankDev e d r) := by
  unfold Eng.rankDev
  extract_lets +onlyGivenNames a
  apply exceptWf_bind
  · apply wf_readN_eng
    exact h
  · simp

@[simp] theorem wf_quiet_eng {α : Type} (h : e.Wf) {f : Eng → Except EStop (Eng × α)}
    (hf : ∀ e, e.Wf → ExceptWf (fun x => x.1.s) (f e)) : ExceptWf (fun x => x.1.s) (e.quiet f) :=
  exceptWf_map (fun _ ha => ha) (hf _ h)

@[simp] theorem wf_collSend_eng (h : e.Wf) (d : CollDesc) (bytes : List Byte) (l : List (Nat × Nat × Nat)) : ExceptWf (fun x => x.1.s)
    (Eng.collSend d bytes l e) := by
  induction l generalizing e with
  | nil => exact h
  | cons p rest ih =>
    obtain ⟨q, off, n⟩ := p
    unfold Eng.collSend
    apply exceptWf_bind (wf_quiet_eng h fun e he => wf_rankDev_eng he d q)
    intro x hx
    dsimp -zeta only
    extract_lets +onlyGivenNames va send
    have hs : ∀ y : Eng × List Byte, y.1.s.Wf → ExceptWf (fun x => x.1.s) (send y) := by
      intro y hy
      dsimp -zeta only [send]
      split
      · exact h
      · exact h
      · exact h
      · trivial
      · rename_i e3 he
        have h3 : e3.Wf := (wf_peer_eng hy ..).ok he
        exact exceptWf_bind (ih (by exact h3)) fun z hz => hz
    split
    · exact hs _ hx
    · exact exceptWf_bind (wf_quiet_eng hx fun e he => wf_readN_eng (by exact he) ..) hs

@[simp] theorem wf_collElem_eng (h : e.Wf) (d : CollDesc) (q i : Nat) : ExceptWf (fun x => x.1.s) (Eng.collElem e d q i) := by
  unfold Eng.collElem
  split
  · apply exceptWf_map
    · intro a ht
      exact ht
    · simp [h]
  · apply exceptWf_bind
    · apply wf_rankDev_eng
      exact h
    · intro a ht
      dsimp -zeta only
      split <;> simp [ht]

@[simp] theorem wf_collValue_eng (h : e.Wf) (d : CollDesc) (arrival : Bool) (x : Nat) : ExceptWf (fun x => x.1.s)
    (Eng.collValue e d arrival x) := by
  unfold Eng.collValue
  split
  · simp [h]
  · simp [h]
  · extract_lets +onlyGivenNames i
    apply exceptWf_bind
    · apply exceptWf_foldlM
      · intro b a ht
        apply exceptWf_bind
        · apply wf_collElem_eng
          exact ht
        · simp
      · exact h
    · intro a ht
      simp [ht]

@[simp] theorem wf_collect_eng (h : e.Wf) (d : CollDesc) (arrival : Bool) (lo hi : Nat) : ExceptWf Eng.s
    (Eng.collect e d arrival lo hi) := by
  unfold Eng.collect
  extract_lets +onlyGivenNames at'
  apply exceptWf_foldlM
  · intro b a ht
    apply exceptWf_bind
    · apply exceptWf_foldlM
      · intro b1 a1 ht1
        apply exceptWf_bind
        · apply wf_collValue_eng
          exact ht1
        · simp
      · exact ht
    · intro a1 ht1
      dsimp -zeta only
      apply exceptWf_foldlM
      · intro b1 a2 ht2
        simp [ht2]
      · exact ht1
  · exact h

@[simp] theorem wf_collHead_eng (h : e.Wf) (desc : DWord) : ExceptWf (fun x => x.1.s) (Eng.collHead e desc) := by
  unfold Eng.collHead
  extract_lets +onlyGivenNames __do_jp
  extract_lets +onlyGivenNames __do_jp1
  split
  · apply exceptWf_bind
    · simp
    · intro a ht
      dsimp -zeta only [__do_jp1]
      split
      · apply exceptWf_bind
        · simp
        · intro a1 ht1
          dsimp -zeta only [__do_jp]
          apply exceptWf_bind
          · apply wf_readN_eng
            exact ht1
          · intro a2 ht2
            extract_lets +onlyGivenNames d win __do_jp2
            split
            · apply exceptWf_bind
              · simp
              · intro a3 ht3
                dsimp -zeta only [__do_jp2]
                apply exceptWf_bind
                · apply wf_rankDev_eng
                  exact ht3
                · simp
            · dsimp -zeta only [__do_jp2]
              apply exceptWf_bind
              · apply wf_rankDev_eng
                exact ht2
              · simp
      · dsimp -zeta only [__do_jp]
        apply exceptWf_bind
        · apply wf_readN_eng
          exact ht
        · intro a1 ht1
          extract_lets +onlyGivenNames d win __do_jp2
          split
          · apply exceptWf_bind
            · simp
            · intro a2 ht2
              dsimp -zeta only [__do_jp2]
              apply exceptWf_bind
              · apply wf_rankDev_eng
                exact ht2
              · simp
          · dsimp -zeta only [__do_jp2]
            apply exceptWf_bind
            · apply wf_rankDev_eng
              exact ht1
            · simp
  · dsimp -zeta only [__do_jp1]
    split
    · apply exceptWf_bind
      · simp
      · intro a ht
        dsimp -zeta only [__do_jp]
        apply exceptWf_bind
        · apply wf_readN_eng
          exact ht
        · intro a1 ht1
          extract_lets +onlyGivenNames d win __do_jp2
          split
          · apply exceptWf_bind
            · simp
            · intro a2 ht2
              dsimp -zeta only [__do_jp2]
              apply exceptWf_bind
              · apply wf_rankDev_eng
                exact ht2
              · simp
          · dsimp -zeta only [__do_jp2]
            apply exceptWf_bind
            · apply wf_rankDev_eng
              exact ht1
            · simp
    · dsimp -zeta only [__do_jp]
      apply exceptWf_bind
      · apply wf_readN_eng
        exact h
      · intro a ht
        extract_lets +onlyGivenNames d win __do_jp2
        split
        · apply exceptWf_bind
          · simp
          · intro a1 ht1
            dsimp -zeta only [__do_jp2]
            apply exceptWf_bind
            · apply wf_rankDev_eng
              exact ht1
            · simp
        · dsimp -zeta only [__do_jp2]
          apply exceptWf_bind
          · apply wf_rankDev_eng
            exact ht
          · simp

@[simp] theorem wf_collDiffers_eng (h : e.Wf) (d : CollDesc) : ExceptWf (fun x => x.1.s) (Eng.collDiffers e d) := by
  unfold Eng.collDiffers
  apply exceptWf_foldlM
  · intro b a ht
    apply exceptWf_bind
    · apply wf_rankDev_eng
      exact ht
    · simp
  · exact h

@[simp] theorem wf_collOdd_eng (h : e.Wf) (d : CollDesc) : ExceptWf (fun x => x.1.s) (Eng.collOdd e d) := by
  unfold Eng.collOdd
  apply exceptWf_foldlM
  · intro b a ht
    apply exceptWf_bind
    · apply wf_rankDev_eng
      exact ht
    · simp
  · exact h

@[simp] theorem wf_collLacks_eng (h : e.Wf) (d : CollDesc) (lo hi : Nat) : ExceptWf (fun x => x.1.s) (Eng.collLacks e d lo hi) := by
  unfold Eng.collLacks
  apply exceptWf_foldlM
  · intro b a ht
    apply exceptWf_bind
    · apply wf_rankDev_eng
      exact ht
    · simp
  · exact h

@[simp] theorem wf_collFinish_eng (h : e.Wf) (desc : DWord) (lo hi : Nat) : ExceptWf (fun x => x.1.s)
    (Eng.collFinish e desc lo hi) := by
  unfold Eng.collFinish
  apply exceptWf_bind
  · apply wf_collHead_eng
    exact h
  · intro a ht
    dsimp -zeta only
    extract_lets +onlyGivenNames d
    apply exceptWf_bind
    · apply exceptWf_foldlM
      · intro b a1 ht1
        split
        · simp [ht1]
        · apply exceptWf_map
          · intro a2 ht2
            exact ht2
          · apply wf_readN_eng
            exact ht1
      · exact ht
    · intro a1 ht1
      apply exceptWf_bind
      · apply wf_collect_eng
        exact ht1
      · simp

@[simp] theorem wf_collSeg_eng (h : e.Wf) (c : Coll) (last : Bool) : ExceptWf (fun x => x.1.s) (Eng.collSeg e c last) := by
  unfold Eng.collSeg
  apply exceptWf_bind
  · apply wf_quiet_eng
    · exact h
    · intro y0 ht
      simp [ht]
  · intro a ht
    dsimp -zeta only
    extract_lets +onlyGivenNames d hi
    split
    · simp [h]
    · apply exceptWf_bind
      · apply wf_quiet_eng
        · exact ht
        · intro y0 ht1
          simp [ht1]
      · intro a1 ht1
        split
        · simp
        · extract_lets +onlyGivenNames msgs
          apply exceptWf_bind
          · apply wf_collSend_eng
            exact ht1
          · intro a2 ht2
            extract_lets +onlyGivenNames c1
            split
            · simp [ht2]
            · apply exceptWf_bind
              · apply wf_quiet_eng
                · exact ht2
                · intro y0 ht3
                  simp [ht3]
              · intro a3 ht3
                split
                · simp [ht3]
                · apply exceptWf_bind
                  · apply wf_collFinish_eng
                    exact ht3
                  · simp

@[simp] theorem wf_modColl (h : s.Wf) (id : Nat) (f : Coll → Coll) : (s.modColl id f).Wf := h

@[simp] theorem wf_dropParts (h : s.Wf) (d : CollDesc) : (s.dropParts d).Wf := h

@[simp] theorem wf_endColl (h : s.Wf) (c : Coll) (fail : Option Cause) (va : DWord) : (s.endColl c fail va).Wf := by
  unfold State.endColl
  extract_lets +onlyGivenNames s0 s1
  have hs0 : s0.Wf := by simp [s0, h]
  have hs1 : s1.Wf := by simp [s1, hs0]
  split <;> simp [hs0, hs1]

@[simp] theorem wf_freeColls (h : s.Wf) : s.freeColls.Wf := by
  unfold State.freeColls
  exact wf_foldl (fun t a ht => by simp [ht]) _ h

theorem wf_collEng (h : s.Wf) {c : Coll} {e : Eng} (he : s.collEng c = some e) : e.Wf := by
  unfold State.collEng at he
  split at he
  · split at he
    · cases he
    · split at he
      · cases he
      · cases he; exact h
  · cases he; exact h

@[simp] theorem wf_collState_eng (h : e.Wf) (c : Coll) : (Eng.collState e c).Wf := by
  unfold Eng.collState
  extract_lets +onlyGivenNames e1
  have he1 : e1.Wf := by simp [e1, h]
  split
  · simp [he1]
  · exact wf_foldl (fun t a ht => by simp [ht]) _ he1

@[simp] theorem wf_collUndef_eng (h : e.Wf) (d : CollDesc) (lo : Nat) : (Eng.collUndef e d lo).Wf := by
  unfold Eng.collUndef
  extract_lets +onlyGivenNames va n
  apply wf_foldl_eng
  · intro t a ht
    split
    · rename_i t1 e1
      have ht1 : t1.Wf := (wf_dst_eng (by simp [ht]) ..).ok e1
      exact ht1
    · exact ht
  · exact h

@[simp] theorem wf_failColl (h : s.Wf) (c : Coll) (cause : Cause) (va : DWord) : (s.failColl c cause va).Wf := by
  unfold State.failColl
  split
  · exact wf_endColl h ..
  · rename_i e he
    have hw : e.Wf := wf_collEng h he
    have hq := wf_quiet_eng (e := { e with err := false, ecc := .clean }) hw fun _ hx => wf_collHead_eng hx c.desc
    split
    · rename_i hk
      exact wf_endColl (wf_dropParts (wf_collState_eng (wf_collUndef_eng (hq.ok hk) ..) ..) ..) ..
    · exact wf_endColl h ..

@[simp] theorem wf_abortColl (h : s.Wf) (c : Coll) (cause : Cause) : (s.abortColl c cause).Wf := by
  unfold State.abortColl
  extract_lets +onlyGivenNames s1
  have hs1 : s1.Wf := by
    dsimp -zeta only [s1]
    repeat' split
    all_goals simp [h]
  simp [hs1]

@[simp] theorem wf_execEngineSegmentAdmit (h : s.Wf) : OutcomeWf (execEngineSegmentAdmit s) := by
  unfold execEngineSegmentAdmit
  repeat' split
  all_goals simp [h]

@[simp] theorem wf_collUpTo_eng (h : e.Wf) (c : Coll) (lines : Nat) : ExceptWf (fun x => x.1.s) (Eng.collUpTo e c lines) := by
  unfold Eng.collUpTo
  apply exceptWf_bind
  · apply wf_quiet_eng
    · exact h
    · intro y0 ht
      simp [ht]
  · intro a ht
    dsimp -zeta only
    extract_lets +onlyGivenNames d hi msgs
    apply exceptWf_bind
    · apply wf_collSend_eng
      exact ht
    · intro a1 ht1
      extract_lets +onlyGivenNames c1 line k
      split
      · simp [ht1]
      · apply exceptWf_bind
        · apply wf_collect_eng
          exact ht1
        · simp

@[simp] theorem wf_stepColl (h : s.Wf) (c : Coll) (last : Bool) : (s.stepColl c last).Wf := by
  unfold State.stepColl
  split
  · exact h
  · rename_i e0 he0
    have hw : e0.Wf := wf_collEng h he0
    extract_lets +onlyGivenNames agent
    split
    · exact h
    · split
      · extract_lets +onlyGivenNames taken
        have ht : ∀ t, t.Wf → (taken t).Wf := fun _ ht => ht
        have hu := fun n => wf_collUpTo_eng hw c n
        split
        · rename_i e
          exact wf_modColl (wf_collState_eng ((hu _).ok e) _) ..
        · rename_i e
          exact wf_failColl (ht _ (wf_modColl (wf_collState_eng ((hu _).ok e) _) ..)) ..
        · exact wf_startWalk h ..
        · exact wf_failColl (ht _ h) ..
        · exact h
        · exact h
        · exact h
        · exact h
      · have hg := wf_collSeg_eng hw c last
        split
        · rename_i e
          exact wf_modColl (wf_collState_eng (hg.ok e) _) ..
        · rename_i e
          extract_lets +onlyGivenNames s1
          have h1 : s1.Wf := wf_segMade (wf_collState_eng (hg.ok e) _) _
          split
          · exact wf_endColl (wf_dropParts h1 _) ..
          · exact wf_modColl (wf_closeChunk h1 ..) ..
        · exact wf_failColl h ..
        · exact wf_startWalk h ..
        · exact h
        · exact h
        · exact h
        · exact h

@[simp] theorem wf_execEngineSegmentComplete (h : s.Wf) : OutcomeWf (execEngineSegmentComplete s) := by
  unfold execEngineSegmentComplete; split <;> simp [h]

@[simp] theorem wf_execCollectiveComplete (h : s.Wf) : OutcomeWf (execCollectiveComplete s) := by
  unfold execCollectiveComplete; split <;> simp [h]

@[simp] theorem wf_execCollectivePeerTimeout (h : s.Wf) : OutcomeWf (execCollectivePeerTimeout s) := by
  unfold execCollectivePeerTimeout; split <;> simp [h]

@[simp] theorem wf_markStuck (h : s.Wf) : s.markStuck.Wf := h

@[simp] theorem wf_execStageDeadlockDetect (h : s.Wf) : OutcomeWf (execStageDeadlockDetect s) := by
  unfold execStageDeadlockDetect
  extract_lets +onlyGivenNames core bctx
  split
  · simp [h]
  · split
    · simp [h]
    · split
      · simp [h]
      · extract_lets +onlyGivenNames pc ids s1 s3
        have hs1 : s1.Wf := by
          dsimp -zeta only [s1]
          apply wf_foldl
          · intro t a ht
            split <;> simp [ht]
          · exact h
        have hs3 : s3.Wf := by simp [s3, hs1]
        rw [outcomeWf_next]
        apply wf_sweep
        simp [hs3]

/-! #### What Machine/Control leaves canonical -/

@[simp] theorem wf_transfer (h : s.Wf) (c : Cur) (b : Blk) (m : Word) (target : Nat → DWord) : (s.transfer c b m target).Wf := by
  unfold State.transfer; simp [h]

@[simp] theorem wf_jumpRegister (h : s.Wf) (i : Instr) (w : BrxW) : OutcomeWf (jumpRegister i w s) := by
  unfold jumpRegister; simp [h]

@[simp] theorem wf_execCall (h : s.Wf) (w : CallW) : OutcomeWf (execCall w s) := by
  unfold execCall
  extract_lets +onlyGivenNames n
  apply wf_ctlUniOp
  · exact h
  · intro y0 y1 y2
    extract_lets +onlyGivenNames s1
    have hs1 : s1.Wf := by simp [s1, h]
    simp [hs1]

@[simp] theorem wf_setMr (h : s.Wf) (i : Instr) (vd : BitVec 7) (nd : Bool) (src : Option Nat) (new : Cur → Thr → Nat → DWord) :
    OutcomeWf (setMr i vd nd src new s) := by
  unfold setMr
  extract_lets +onlyGivenNames n
  apply wf_ctlWordOp
  · exact h
  · simp [h]

@[simp] theorem wf_execLoop (h : s.Wf) (w : LoopW) : OutcomeWf (execLoop w s) := by
  unfold execLoop
  apply wf_ctlUniOp
  · exact h
  · intro y0 y1 y2
    extract_lets +onlyGivenNames n count
    split
    · simp [h]
    · extract_lets +onlyGivenNames s1
      have hs1 : s1.Wf := by simp [s1, h]
      simp [hs1]

@[simp] theorem wf_endHandler (h : s.Wf) (core bctx w : Nat) : (s.endHandler core bctx w).Wf := by
  unfold State.endHandler
  repeat' split
  all_goals simp [h]

@[simp] theorem wf_leaveHandler (h : s.Wf) {go : State} (hgo : go.Wf) (c : Cur) (b : Blk) (t : Thr) (returns : Bool) :
    (s.leaveHandler c b t returns go).Wf := by
  unfold State.leaveHandler
  repeat' split
  all_goals simp [h, hgo]

@[simp] theorem wf_failExit (h : s.Wf) (c : Cur) (r : Option TrapRec) : (s.failExit c r).Wf := by
  unfold State.failExit; split <;> simp [h]

@[simp] theorem wf_execExit (h : s.Wf) (z : BitVec 26) : OutcomeWf (execExit z s) := by
  unfold execExit
  apply wf_ctlWordOp
  · exact h
  · intro y0 y1 y2
    extract_lets +onlyGivenNames pending
    split
    · split
      · exact h
      · extract_lets +onlyGivenNames s1 s2
        have hs1 : s1.Wf := by simp [s1, h]
        have hs2 : s2.Wf := by simp [s2, hs1]
        apply wf_leaveHandler
        · exact h
        · simp [hs2]
    · split
      · exact h
      · extract_lets +onlyGivenNames s1 s2
        have hs1 : s1.Wf := by simp [s1, h]
        have hs2 : s2.Wf := by simp [s2, hs1]
        apply wf_leaveHandler
        · exact h
        · simp [hs2]

@[simp] theorem wf_execTret (h : s.Wf) (z : BitVec 26) : OutcomeWf (execTret z s) := by
  unfold execTret
  apply wf_ctlWordOp
  · exact h
  · intro y0 y1 y2
    split
    · simp [h]
    · apply wf_leaveHandler
      · exact h
      · simp [h]

@[simp] theorem wf_execSread (h : s.Wf) (w : UniW) : OutcomeWf (execSread w s) := by
  unfold execSread
  extract_lets +onlyGivenNames n d
  apply wf_ctlUniOp
  · exact h
  · intro y0 y1 y2
    extract_lets +onlyGivenNames done
    split
    · extract_lets +onlyGivenNames issuer
      split
      · exact h
      · extract_lets +onlyGivenNames lanes
        dsimp -zeta only
        dsimp -zeta only [done]
        split
        · apply wf_retire
          apply wf_modThr
          simp [h]
        · apply wf_putUni
          simp [h]
    · split
      · exact h
      · dsimp -zeta only [done]
        simp [h]

@[simp] theorem wf_execSwrite (h : s.Wf) (w : UniW) : OutcomeWf (execSwrite w s) := by
  unfold execSwrite
  extract_lets +onlyGivenNames n a
  apply wf_ctlUniOp
  · exact h
  · intro y0 y1 y2
    split
    · exact h
    · extract_lets +onlyGivenNames s0 v lv perLane
      have hs0 : s0.Wf := by simp [s0, h]
      simp [hs0]

@[simp] theorem wf_execSlotq (h : s.Wf) (w : UniW) : OutcomeWf (execSlotq w s) := by
  unfold execSlotq
  apply wf_uniWordOp
  · exact h
  · intro y0 y1 y2 y3 ht
    split
    · simp [h]
    · extract_lets +onlyGivenNames issuer
      split
      · exact h
      · dsimp -zeta only
        apply wf_putUni
        simp [ht]

@[simp] theorem wf_softTrap (h : s.Wf) (i : Instr) (cause : Cause) : OutcomeWf (softTrap i cause s) := by
  unfold softTrap; simp [h]

@[simp] theorem wf_execPoolb (h : s.Wf) (w : UniW) : OutcomeWf (execPoolb w s) := by
  unfold execPoolb
  apply wf_uniWordOp
  · exact h
  · intro y0 y1 y2 y3 ht
    extract_lets +onlyGivenNames n old
    split
    · simp [h]
    · split
      · exact h
      · split
        · simp [h]
        · apply wf_retire
          simp [ht]

/-! #### What Machine/Frame leaves canonical -/

@[simp] theorem wf_updatePage (h : s.Wf) : s.updatePage.Wf := by
  unfold State.updatePage
  split
  · exact h
  · extract_lets +onlyGivenNames k next zeros
    extract_lets +onlyGivenNames zeros1
    exact wf_foldl (fun t a ht => by simp [ht]) _ h

@[simp] theorem wf_newFrame (h : s.Wf) : s.newFrame.Wf := h

@[simp] theorem wf_execFrameBoundary (h : s.Wf) : OutcomeWf (execFrameBoundary s) := by
  unfold execFrameBoundary
  split
  · simp [h]
  · rw [outcomeWf_next]
    apply wf_admitReqs
    simp [h]

@[simp] theorem wf_writeCalctl (h : s.Wf) (v : DWord) : (s.writeCalctl v).Wf := h

@[simp] theorem wf_execCalctlCommit (h : s.Wf) : OutcomeWf (execCalctlCommit s) := by
  unfold execCalctlCommit; simp [h]

@[simp] theorem wf_execCalendarValidationDone (h : s.Wf) : OutcomeWf (execCalendarValidationDone s) := by
  unfold execCalendarValidationDone
  split
  · simp [h]
  · extract_lets +onlyGivenNames c
    split <;> simp [h]

@[simp] theorem wf_podStamp (h : s.Wf) (refTick refFrame refStart : DWord) :
    (s.podStamp refTick refFrame refStart).Wf := h

@[simp] theorem wf_execPodTimestampExchange (h : s.Wf) : OutcomeWf (execPodTimestampExchange s) := by
  unfold execPodTimestampExchange; simp [h]

@[simp] theorem wf_abortRecord (h : s.Wf) (k : Cmd) : (s.abortRecord k).Wf := by
  unfold State.abortRecord; simp [h]

@[simp] theorem wf_abortCmd (h : s.Wf) (id : Nat) : (s.abortCmd id).Wf := by
  unfold State.abortCmd
  split
  · apply wf_closeChunk
    simp [h]
  · simp [h]
  · exact h

@[simp] theorem wf_openWindows (h : s.Wf) (e : BitVec 128) : (s.openWindows e).Wf := h

@[simp] theorem wf_closeWindows (h : s.Wf) (e : BitVec 128) : (s.closeWindows e).Wf := h

@[simp] theorem wf_abortKiln (h : s.Wf) (id : Nat) : (s.abortKiln id).Wf := by
  unfold State.abortKiln
  split
  · exact h
  · split
    · exact h
    · extract_lets +onlyGivenNames s1 s2
      have hs1 : s1.Wf := by simp [s1, h]
      have hs2 : s2.Wf := by simp [s2, hs1]
      apply wf_sweep
      apply wf_asyncTrap
      simp [hs2]

@[simp] theorem wf_modWindow (h : s.Wf) (slot : Nat) (f : Window → Window) : (s.modWindow slot f).Wf := by
  unfold State.modWindow; split <;> simp [h]

@[simp] theorem wf_endContribs (h : s.Wf) (slot : Nat) (mine : WinContrib → Bool) (err : Option Cause) :
    (s.endContribs slot mine err).Wf := by
  unfold State.endContribs
  split
  · exact h
  · extract_lets +onlyGivenNames rest
    apply wf_foldl
    · intro t a ht
      exact ht
    · simp [h]

@[simp] theorem wf_resend (h : s.Wf) (port : Nat) : (s.resend port).Wf := by
  unfold State.resend
  extract_lets +onlyGivenNames v
  apply wf_foldl
  · intro t a ht
    exact ht
  · exact h

@[simp] theorem wf_portDown (h : s.Wf) (p : Nat) : (s.portDown p).Wf := by
  unfold State.portDown
  extract_lets +onlyGivenNames mine copies colls s1 s2 s3 s4 s5
  have hs1 : s1.Wf := wf_foldl (fun t a ht => by simp [ht]) _ h
  have hs2 : s2.Wf := by simp [s2, hs1]
  have hs4 : s4.Wf := by simp [s4, hs2]
  have hs5 : s5.Wf := wf_foldl (fun t a ht => by simp [ht]) _ hs4
  extract_lets +onlyGivenNames s51
  have hs51 : s51.Wf := wf_foldl (fun t a ht => by simp [ht]) _ hs5
  exact wf_foldl (fun t a ht => by simp [ht]) _ hs51

@[simp] theorem wf_spare (h : s.Wf) (t : PendingTest) : (s.spare t).Wf := by
  unfold State.spare
  extract_lets +onlyGivenNames record
  have hr : ∀ u ty out a syn, u.Wf → (record u ty out a syn).Wf := fun _ _ _ _ _ hu => wf_errRecord hu ..
  split
  · extract_lets +onlyGivenNames bank
    split
    · exact hr _ _ _ _ _ h
    · exact wf_bump (hr _ _ _ _ _ h)
  · split
    · exact hr _ _ _ _ _ h
    · extract_lets +onlyGivenNames cluster m
      apply hr
      change Memory.wf (if _ then _ else _ : Mem).bytes = true
      split <;> exact h
  · split
    · exact hr _ _ _ _ _ h
    · extract_lets +onlyGivenNames cluster m
      apply hr
      change Memory.wf (if _ then _ else _ : Mem).bytes = true
      split <;> exact h
  · extract_lets +onlyGivenNames p
    split
    · exact hr _ _ _ _ _ (wf_portDown h p)
    · exact hr _ _ _ _ _ (wf_modPort h ..)
  · exact hr _ _ _ _ _ h

@[simp] theorem wf_runTest (h : s.Wf) (t : PendingTest) : (s.runTest t).Wf := by
  unfold State.runTest
  extract_lets +onlyGivenNames lasting s1
  extract_lets +onlyGivenNames s11
  have hs11 : s11.Wf := by
    dsimp -zeta only [s11]
    apply wf_errRecord
    exact h
  apply wf_bump
  simp [hs11]

@[simp] theorem wf_runTests (h : s.Wf) (e : BitVec 128) : (s.runTests e).Wf := by
  unfold State.runTests
  exact wf_foldl (fun t a ht => by simp [ht]) _ h

@[simp] theorem wf_retrain (h : s.Wf) (e : BitVec 128) : (s.retrain e).Wf := by
  unfold State.retrain
  exact wf_foldl (fun t a ht => by simp [ht]) _ h

@[simp] theorem wf_hostL0p (h : s.Wf) (e : BitVec 128) : (s.hostL0p e).Wf := h

@[simp] theorem wf_scrubSet (h : s.Wf) (line : Nat) (o : EccOutcome) : (s.scrubSet line o).Wf := by
  unfold State.scrubSet; split <;> simp [h]

@[simp] theorem wf_patrol (h : s.Wf) (e : BitVec 128) : (s.patrol e).Wf := by
  unfold State.patrol; simp [h]

@[simp] theorem wf_tracePut (h : s.Wf) (source : Nat) (rec : List Byte) : (s.tracePut source rec).Wf := h

@[simp] theorem wf_traceRecord (h : s.Wf) (island type : Nat) (body : List DWord) : (s.traceRecord island type body).Wf := by
  unfold State.traceRecord
  repeat' split
  all_goals simp [h]

@[simp] theorem wf_setPoint (h : s.Wf) (k p : Nat) : (s.setPoint k p).Wf := by
  unfold State.setPoint; simp [h]

@[simp] theorem wf_writeBackHost (h : s.Wf) (which : Nat → Nat → Bool) : (s.writeBackHost which).Wf := by
  unfold State.writeBackHost
  exact wf_foldl (fun t a ht => by simp [ht]) _ h

@[simp] theorem wf_clockChange (h : s.Wf) (e : BitVec 128) : (s.clockChange e).Wf := by
  unfold State.clockChange
  extract_lets +onlyGivenNames p s1
  have hs1 : s1.Wf := by simp [s1, h]
  apply wf_bump
  exact wf_foldl (fun t a ht => by simp [ht]) _ hs1

@[simp] theorem wf_slotRecord (h : s.Wf) (i kind postponed : Nat) (aborted : Bool) : (s.slotRecord i kind postponed aborted).Wf := by
  unfold State.slotRecord; simp [h]

@[simp] theorem wf_slotWork (h : s.Wf) (e : BitVec 128) : (s.slotWork e).Wf := by
  unfold State.slotWork; split <;> simp [h]

@[simp] theorem wf_beginSlot (h : s.Wf) (i : Nat) (e : BitVec 128) (postponed : Nat) (aborted : Bool) :
    (s.beginSlot i e postponed aborted).Wf := by
  unfold State.beginSlot
  extract_lets +onlyGivenNames run s1
  extract_lets +onlyGivenNames s11
  have hs11 : s11.Wf := by simp [s11, h]
  apply wf_slotWork
  simp [hs11]

@[simp] theorem wf_execSlotStartTest (h : s.Wf) : OutcomeWf (execSlotStartTest s) := by
  unfold execSlotStartTest
  extract_lets +onlyGivenNames i
  split
  · simp [h]
  · extract_lets +onlyGivenNames was due n
    split
    · simp [h]
    · split
      · simp [h]
      · split
        · simp [h]
        · extract_lets +onlyGivenNames s1 s2
          have hs1 : s1.Wf := wf_foldl (fun t a ht => by simp [ht]) _ h
          have hs2 : s2.Wf := wf_foldl (fun t a ht => by simp [ht]) _ hs1
          simp [hs2]

@[simp] theorem wf_resendDue (h : s.Wf) : s.resendDue.Wf := by
  unfold State.resendDue
  exact wf_foldl (fun t a ht => by simp [ht]) _ h

@[simp] theorem wf_execSlotEnd (h : s.Wf) : OutcomeWf (execSlotEnd s) := by
  unfold execSlotEnd
  split
  · simp [h]
  · split
    · simp [h]
    · extract_lets +onlyGivenNames e since counts
      rw [outcomeWf_next]
      apply wf_admitReqs
      simp [h]

/-! #### What Machine/Power leaves canonical -/

@[simp] theorem wf_wiped (h : s.Wf) : s.wiped.Wf := wf_capOnly h none

@[simp] theorem wf_execPowerOn {s : State} : OutcomeWf (execPowerOn s) := (rfl : Memory.wf Memory.empty = true)

@[simp] theorem wf_execColdReset (h : s.Wf) : OutcomeWf (execColdReset s) := by
  unfold execColdReset; simp [h]

@[simp] theorem wf_fatal (h : s.Wf) : s.fatal.Wf := wf_capOnly h _

@[simp] theorem wf_execFatalReset (h : s.Wf) : OutcomeWf (execFatalReset s) := by
  unfold execFatalReset; simp [h]

@[simp] theorem wf_undefinePage (h : s.Wf) (pa : Nat) : (s.undefinePage pa).Wf := by
  unfold State.undefinePage; split <;> simp [h]

@[simp] theorem wf_undefineContext (h : s.Wf) (c : Nat) : (s.undefineContext c).Wf := by
  unfold State.undefineContext
  apply wf_bump
  exact wf_foldl (fun t a ht => by simp [ht]) _ h

@[simp] theorem wf_warm (h : s.Wf) : s.warm.Wf := by
  unfold State.warm
  extract_lets +onlyGivenNames t u __src
  have ht : t.Wf := by simp [t, h]
  have hu : u.Wf := by
    dsimp -zeta only [u]
    apply wf_foldl
    · intro t1 a ht1
      simp [ht1]
    · exact ht
  have h__src : __src.Wf := by simp [__src]
  exact hu

@[simp] theorem wf_execResetctlWarm (h : s.Wf) : OutcomeWf (execResetctlWarm s) := by
  unfold execResetctlWarm; simp [h]

@[simp] theorem wf_execManagementWarmReset (h : s.Wf) : OutcomeWf (execManagementWarmReset s) := by
  unfold execManagementWarmReset; simp [h]

@[simp] theorem wf_execBootRomStart (h : s.Wf) : OutcomeWf (execBootRomStart s) := by
  unfold execBootRomStart; simp [h]

@[simp] theorem wf_execHostLinkUp (h : s.Wf) : OutcomeWf (execHostLinkUp s) := by
  unfold execHostLinkUp; simp [h]

@[simp] theorem wf_fwGo (h : s.Wf) : s.fwGo.Wf := by
  unfold State.fwGo; simp [h]

@[simp] theorem wf_execFwctlGo (h : s.Wf) : OutcomeWf (execFwctlGo s) := by
  unfold execFwctlGo; simp [h]

@[simp] theorem wf_execFirmwareCheckDone (h : s.Wf) : OutcomeWf (execFirmwareCheckDone s) := by
  unfold execFirmwareCheckDone; simp [h]

@[simp] theorem wf_execKindlingModeEnter (h : s.Wf) : OutcomeWf (execKindlingModeEnter s) := by
  unfold execKindlingModeEnter; simp [h]

@[simp] theorem wf_joined (h : s.Wf) (u : TrainedUnits) : (s.joined u).Wf := h

@[simp] theorem wf_execFullServiceEnter (h : s.Wf) : OutcomeWf (execFullServiceEnter s) := by
  unfold execFullServiceEnter
  split
  · simp [h]
  · rw [outcomeWf_next]
    apply wf_admitReqs
    apply wf_updatePage
    exact h

@[simp] theorem wf_execPowerLimitCrossed (h : s.Wf) : OutcomeWf (execPowerLimitCrossed s) := by
  unfold execPowerLimitCrossed
  split
  · rw [outcomeWf_next]
    exact wf_foldl (fun t a ht => by simp [ht]) _ h
  · simp [h]
  · simp [h]

/-! #### What Machine/Links leaves canonical -/

@[simp] theorem wf_ctlEng (h : s.Wf) (ctx agent : Nat) : (s.ctlEng ctx agent).Wf := h

@[simp] theorem wf_ctl {α : Type} (h : s.Wf) (ctx agent : Nat) (site : FaultSite) {f : Eng → Except EStop (Eng × α)}
    (hf : ∀ e, e.Wf → ExceptWf (fun x => x.1.s) (f e)) (fuel : Nat) : (State.ctl ctx agent site f fuel s).Wf := by
  induction fuel generalizing s with
  | zero => exact h
  | succ fuel ih =>
    unfold State.ctl
    split
    · rename_i e x he
      have hw : e.Wf := (hf _ (wf_ctlEng h ..)).ok he
      split
      · exact h
      · exact wf_settle_eng hw
    · exact h
    · exact h
    · exact h
    · exact h
    · exact h
    · have hw := fun c va k => wf_walkNow h c va k site
      split
      · rename_i e
        exact ih ((hw ..).leaf e)
      · rename_i e
        exact (hw ..).wait e

@[simp] theorem wf_ctlRead (h : e.Wf) (va : DWord) (n : Nat) : ExceptWf (fun x => x.1.s) (ctlRead va n e) := by
  unfold ctlRead; simp [h]

@[simp] theorem wf_ctlCopyRead (h : e.Wf) (va : DWord) (n : Nat) : ExceptWf (fun x => x.1.s) (ctlCopyRead va n e) := by
  unfold ctlCopyRead
  split
  · rename_i e1 _ he
    have h1 : e1.s.Wf := (wf_readN_eng h ..).ok he
    exact h1
  · trivial

@[simp] theorem wf_ctlWrite (h : e.Wf) (va : DWord) (bs : List Byte) (poisoned : Bool) : ExceptWf (fun x => x.1.s)
    (ctlWrite va bs e poisoned) := by
  unfold ctlWrite
  split
  · rename_i e1 he
    have h1 : e1.s.Wf := (wf_writeN_eng (by exact h) ..).ok he
    exact h1
  · trivial

@[simp] theorem wf_ctlRmw (h : e.Wf) (va : DWord) (n : Nat) (f : Nat → Nat) : ExceptWf (fun x => x.1.s) (ctlRmw va n f e) := by
  unfold ctlRmw
  split
  · trivial
  · rename_i e1 _ he
    have h1 : e1.Wf := (wf_readN_eng h ..).ok he
    split
    · exact h1
    · split
      · trivial
      · rename_i e2 he2
        have h2 : e2.Wf := (wf_writeN_eng h1 ..).ok he2
        exact h2

@[simp] theorem wf_modBuf (h : s.Wf) (port vc : Nat) (f : List PeerMsg → List PeerMsg) : (s.modBuf port vc f).Wf := by
  unfold State.modBuf; simp [h]

@[simp] theorem wf_badFlit (h : s.Wf) (port : Nat) : (s.badFlit port).Wf := by
  unfold State.badFlit
  extract_lets +onlyGivenNames v loc s1 s2
  have hs1 : s1.Wf := by simp [s1, h]
  have hs2 : s2.Wf := by
    dsimp -zeta only [s2]
    apply wf_bump
    simp [hs1]
  simp [hs2]

@[simp] theorem wf_execVilbinFlitReceive (h : s.Wf) : OutcomeWf (execVilbinFlitReceive s) := by
  unfold execVilbinFlitReceive
  extract_lets +onlyGivenNames port
  repeat' split
  all_goals simp [h]

@[simp] theorem wf_execFlitReplayRequest (h : s.Wf) : OutcomeWf (execFlitReplayRequest s) := by
  unfold execFlitReplayRequest; simp [h]

@[simp] theorem wf_execVcStopGo (h : s.Wf) : OutcomeWf (execVcStopGo s) := by
  unfold execVcStopGo; simp [h]

@[simp] theorem wf_execVilbinPortDown (h : s.Wf) : OutcomeWf (execVilbinPortDown s) := by
  unfold execVilbinPortDown; simp [h]

@[simp] theorem wf_servePeer (h : s.Wf) (port : Nat) (m : PeerMsg) : (s.servePeer port m).Wf := by
  unfold State.servePeer
  extract_lets +onlyGivenNames site go plain put
  split
  · split
    · exact h
    · dsimp -zeta only [go]
      apply wf_ctl
      · exact h
      · intro y0 ht
        dsimp -zeta only [plain]
        apply exceptWf_map
        · intro a ht1
          exact ht1
        · simp [ht]
  · dsimp -zeta only [go]
    apply wf_ctl
    · exact h
    · intro y0 ht
      simp [ht]
  · split
    · exact h
    · dsimp -zeta only [go]
      apply wf_ctl
      · exact h
      · intro y0 ht
        dsimp -zeta only [put]
        apply exceptWf_map
        · intro a ht1
          exact ht1
        · simp [ht]
  · dsimp -zeta only [go]
    apply wf_ctl
    · exact h
    · intro y0 ht
      dsimp -zeta only [put]
      apply exceptWf_map
      · intro a ht1
        exact ht1
      · simp [ht]
  · split
    · exact h
    · dsimp -zeta only [go]
      apply wf_ctl
      · exact h
      · intro y0 ht
        dsimp -zeta only [plain]
        apply exceptWf_map
        · intro a ht1
          exact ht1
        · simp [ht]
  · split
    · exact h
    · dsimp -zeta only [go]
      apply wf_ctl
      · exact h
      · intro y0 ht
        dsimp -zeta only [plain]
        apply exceptWf_map
        · intro a ht1
          exact ht1
        · simp [ht]
  · exact h
  · exact h
  · exact h
  · exact h
  · exact h

@[simp] theorem wf_answerPeer (h : s.Wf) (port : Nat) (m : PeerMsg) (data : List Byte) (fail poisoned : Bool) :
    (s.answerPeer port m data fail poisoned).Wf := by
  unfold State.answerPeer; simp [h]

@[simp] theorem wf_noteMsg (h : s.Wf) (port vc : Nat) (m : PeerMsg) (lines : List Nat) (writes : Bool) :
    (s.noteMsg port vc m lines writes).Wf := by
  unfold State.noteMsg; simp [h]

@[simp] theorem wf_unquiet {α : Type} {r : CtlRes α} (hr : r.Wf) (mode : BitVec 2) : (r.unquiet mode).Wf := by
  cases r <;> exact hr

@[simp] theorem wf_keepPart (h : s.Wf) (m : PeerMsg) : (s.keepPart m).Wf := by
  unfold State.keepPart; split <;> simp [h]

@[simp] theorem wf_takeRequest (h : s.Wf) (port : Nat) (m : PeerMsg) : (s.takeRequest port m).1.Wf := by
  unfold State.takeRequest
  extract_lets +onlyGivenNames vc writes ended
  split
  · rename_i t _ e
    have ht : t.Wf := (wf_unquiet (by simp [h]) ..).ok e
    dsimp -zeta only [ended]
    simp [ht]
  · rename_i t _ e
    have ht : t.Wf := (wf_unquiet (by simp [h]) ..).fault e
    dsimp -zeta only [ended]
    simp [ht]
  · rename_i t _ e
    have ht : t.Wf := (wf_unquiet (by simp [h]) ..).wait e
    dsimp -zeta only [ended]
    simp [h]
  · rename_i t e
    have ht : t.Wf := (wf_unquiet (by simp [h]) ..).wait e
    exact ht

@[simp] theorem wf_execInboundMessage (h : s.Wf) : OutcomeWf (execInboundMessage s) := by
  unfold execInboundMessage
  extract_lets +onlyGivenNames port vc
  split <;> simp [h]

@[simp] theorem wf_peerReply (h : s.Wf) (tag : Nat) (data : List Byte) (fail : Bool) : (s.peerReply tag data fail).Wf := by
  unfold State.peerReply
  split
  · exact h
  · extract_lets +onlyGivenNames lane
    repeat' split
    all_goals simp [h]

@[simp] theorem wf_copyReply (h : s.Wf) (id : Nat) (data : List Byte) (fail bad : Bool) : (s.copyReply id data fail bad).Wf := by
  unfold State.copyReply; simp [h]

@[simp] theorem wf_takeAnswer (h : s.Wf) (port : Nat) (m : PeerMsg) : (s.takeAnswer port m).Wf := by
  unfold State.takeAnswer
  split
  · apply wf_copyReply
    simp [h]
  · simp [h]
  · exact h

@[simp] theorem wf_execPeerResponseReceive (h : s.Wf) : OutcomeWf (execPeerResponseReceive s) := by
  unfold execPeerResponseReceive
  extract_lets +onlyGivenNames port
  split
  · simp [h]
  · extract_lets +onlyGivenNames stamp
    split
    · simp [h]
    · rw [outcomeWf_next]
      apply wf_takeAnswer
      simp [h]

@[simp] theorem wf_endContribution (h : s.Wf) (slot elem round : Nat) (err : Option Cause) :
    (s.endContribution slot elem round err).Wf := by
  unfold State.endContribution; simp [h]

@[simp] theorem wf_applyMerged (h : s.Wf) (w : Window) (elem : Nat) (m : DWord) : (s.applyMerged w elem m).Wf := by
  unfold State.applyMerged
  extract_lets +onlyGivenNames n va site
  apply wf_ctl
  · exact h
  · intro y0 ht
    simp [ht]

@[simp] theorem wf_endRound (h : s.Wf) (slot elem round : Nat) (err : Option Cause) : (s.endRound slot elem round err).Wf := by
  unfold State.endRound; simp [h]

@[simp] theorem wf_takeMerged (h : s.Wf) (port slot : Nat) (w : Window) (m : PeerMsg) (elem round : Nat) (val : DWord) (fail : Bool) :
    (s.takeMerged port slot w m elem round val fail).1.Wf := by
  unfold State.takeMerged
  extract_lets +onlyGivenNames note
  have hn : ∀ t l, t.Wf → (note t l).Wf := fun _ _ ht => wf_noteMsg ht ..
  split
  · exact wf_endRound (hn _ _ h) ..
  · generalize hv : (if w.desc.order = true then s.valueOf (portAgent port) 0 0 6 0 [val] else (s, [val])) = v
    have h1 : v.1.Wf := by
      rw [← hv]
      split
      · exact wf_valueOf h ..
      · exact h
    obtain ⟨s1, vals⟩ := v
    dsimp -zeta only
    extract_lets +onlyGivenNames closed
    have hc : ∀ t bad, t.Wf → (closed t bad).1.Wf := fun _ _ ht => wf_answerPeer (wf_endRound (hn _ _ ht) ..) ..
    have hr := wf_unquiet (wf_applyMerged (s := { s1 with recd := { s1.recd with mode := 0 } }) h1 w elem (vals.headD 0)) s1.recd.mode
    split
    · rename_i e
      exact hc _ _ (hr.ok e)
    · rename_i e
      exact hc _ _ (hr.fault e)
    · exact hc _ _ h1
    · rename_i t e
      have ht : t.Wf := hr.wait e
      exact ht

@[simp] theorem wf_execWindowMergedResult (h : s.Wf) : OutcomeWf (execWindowMergedResult s) := by
  unfold execWindowMergedResult
  extract_lets +onlyGivenNames port
  split
  · simp [h]
  · split
    · simp [h]
    · dsimp -zeta only
      rw [outcomeWf_next]
      repeat' split
      all_goals simp [h]

@[simp] theorem wf_execWindowRoundTimeout (h : s.Wf) : OutcomeWf (execWindowRoundTimeout s) := by
  unfold execWindowRoundTimeout; split <;> simp [h]

@[simp] theorem wf_endHostCmd (h : s.Wf) (slot : Nat) (seq : Word) (fail : Option Cause) : (s.endHostCmd slot seq fail).Wf := h

@[simp] theorem wf_execWindowOpenAck (h : s.Wf) : OutcomeWf (execWindowOpenAck s) := by
  unfold execWindowOpenAck; split <;> simp [h]

@[simp] theorem wf_execHbmAlert (h : s.Wf) : OutcomeWf (execHbmAlert s) := by
  unfold execHbmAlert; simp [h]

/-! #### What Machine/Log leaves canonical -/

@[simp] theorem wf_stopRecording (h : s.Wf) : s.stopRecording.Wf := by
  unfold State.stopRecording
  extract_lets +onlyGivenNames s1
  extract_lets +onlyGivenNames s11
  have hs11 : s11.Wf := by simp [s11, h]
  exact wf_foldl (fun t a ht => by simp [ht]) _ hs11

@[simp] theorem wf_putPage (h : s.Wf) (page : List Byte) : (s.putPage page).Wf := by
  unfold State.putPage; simp [h]

@[simp] theorem wf_writePages (h : s.Wf) (source : Nat) : (s.writePages source).Wf := by
  unfold State.writePages
  split
  · exact h
  · exact wf_foldl (fun t a ht => by simp [ht]) _ h

@[simp] theorem wf_execRecorderPageWrite (h : s.Wf) : OutcomeWf (execRecorderPageWrite s) := by
  unfold execRecorderPageWrite; split <;> simp [h]

@[simp] theorem wf_flushPages (h : s.Wf) : s.flushPages.Wf := by
  unfold State.flushPages
  apply wf_foldl
  · intro t a ht
    split <;> simp [ht]
  · exact h

@[simp] theorem wf_closeAll (h : s.Wf) (close : Nat) : (s.closeAll close).Wf := by
  unfold State.closeAll
  exact wf_foldl (fun t a ht => by simp [ht]) _ h

@[simp] theorem wf_execChunkIdleClose (h : s.Wf) : OutcomeWf (execChunkIdleClose s) := by
  unfold execChunkIdleClose; simp [h]

@[simp] theorem wf_execConflictSignal (h : s.Wf) : OutcomeWf (execConflictSignal s) := by
  unfold execConflictSignal; simp [h]

@[simp] theorem wf_ckptRecord (h : s.Wf) (closed : Bool) : (s.ckptRecord closed).Wf := by
  unfold State.ckptRecord; simp [h]

@[simp] theorem wf_checkpoint (h : s.Wf) : s.checkpoint.Wf := by
  unfold State.checkpoint
  extract_lets +onlyGivenNames s1 s2 cur s3 s4
  have hs1 : s1.Wf := by simp [s1, h]
  have hs2 : s2.Wf := wf_foldl (fun t a ht => by simp [ht]) _ hs1
  have hs4 : s4.Wf := by simp [s4, hs2]
  simp [hs4]

@[simp] theorem wf_execCheckpointComplete (h : s.Wf) : OutcomeWf (execCheckpointComplete s) := by
  unfold execCheckpointComplete; simp [h]

@[simp] theorem wf_startRecord (h : s.Wf) : s.startRecord.Wf := by
  unfold State.startRecord; simp [h]

@[simp] theorem wf_startReplay {s0 : State} (hs0 : s0.Wf) : s0.startReplay.Wf := by
  unfold State.startReplay
  simp [hs0]

@[simp] theorem wf_stopMode (h : s.Wf) : s.stopMode.Wf := by
  unfold State.stopMode; simp [h]

@[simp] theorem wf_writeMode (h : s.Wf) (m : BitVec 2) : (s.writeMode m).Wf := by
  unfold State.writeMode; simp [h]

@[simp] theorem wf_writeRecctl (h : s.Wf) (v : DWord) : (s.writeRecctl v).Wf := by
  unfold State.writeRecctl; simp [h]

@[simp] theorem wf_execRecordModeOff (h : s.Wf) : OutcomeWf (execRecordModeOff s) := by
  unfold execRecordModeOff; simp [h]

@[simp] theorem wf_execRecordModeStart (h : s.Wf) : OutcomeWf (execRecordModeStart s) := by
  unfold execRecordModeStart; simp [h]

@[simp] theorem wf_execReplayModeStart (h : s.Wf) : OutcomeWf (execReplayModeStart s) := by
  unfold execReplayModeStart; simp [h]

@[simp] theorem wf_execRecctlCkreq (h : s.Wf) : OutcomeWf (execRecctlCkreq s) := by
  unfold execRecctlCkreq; simp [h]

@[simp] theorem wf_execRecctlResume (h : s.Wf) : OutcomeWf (execRecctlResume s) := by
  unfold execRecctlResume; simp [h]

@[simp] theorem wf_replayTick (h : s.Wf) : s.replayTick.Wf := by
  unfold State.replayTick
  repeat' split
  all_goals simp [h]

@[simp] theorem wf_execReplayStallTimeout (h : s.Wf) : OutcomeWf (execReplayStallTimeout s) := by
  unfold execReplayStallTimeout; simp [h]

/-! #### What Machine/Regs leaves canonical -/

@[simp] theorem wf_writeMemcfg (h : s.Wf) (v : DWord) : (s.writeMemcfg v).Wf := by
  unfold State.writeMemcfg; simp [h]

@[simp] theorem wf_execMemcfgCacheWrite (h : s.Wf) : OutcomeWf (execMemcfgCacheWrite s) := by
  unfold execMemcfgCacheWrite; simp [h]

@[simp] theorem wf_writeBackSets (h : s.Wf) : s.writeBackSets.Wf := by
  unfold State.writeBackSets
  exact wf_foldl (fun t a ht => by simp [ht]) _ h

@[simp] theorem wf_execMemcfgChangeDone (h : s.Wf) : OutcomeWf (execMemcfgChangeDone s) := by
  unfold execMemcfgChangeDone
  split
  · exact h
  · extract_lets +onlyGivenNames inCache s1 m
    have h1 : s1.Wf := by simp [s1, h]
    apply outcomeWf_next.2
    apply wf_admitReqs
    change Memory.wf (if _ then _ else _ : Mem).bytes = true
    split
    · exact cellsWf_filter (fun _ _ => rfl) _ _ h1
    · exact h1

@[simp] theorem wf_writeCtxctl (h : s.Wf) (c : Nat) (v : DWord) : (s.writeCtxctl c v).Wf := by
  unfold State.writeCtxctl
  extract_lets +onlyGivenNames x s1 s2
  have hs1 : s1.Wf := by simp [s1, h]
  have hs2 : s2.Wf := by simp [s2, hs1]
  simp [hs2]

@[simp] theorem wf_execCtxctlKill (h : s.Wf) : OutcomeWf (execCtxctlKill s) := by
  unfold execCtxctlKill; simp [h]

@[simp] theorem wf_execCtxctlEnClear (h : s.Wf) : OutcomeWf (execCtxctlEnClear s) := by
  unfold execCtxctlEnClear; simp [h]

@[simp] theorem wf_execCtxctlEnSet (h : s.Wf) : OutcomeWf (execCtxctlEnSet s) := by
  unfold execCtxctlEnSet; simp [h]

@[simp] theorem wf_writeCtxroot (h : s.Wf) (c : Nat) (v : DWord) : (s.writeCtxroot c v).Wf := by
  unfold State.writeCtxroot; simp [h]

@[simp] theorem wf_execCtxrootWrite (h : s.Wf) : OutcomeWf (execCtxrootWrite s) := by
  unfold execCtxrootWrite; simp [h]

@[simp] theorem wf_unfault (h : s.Wf) (c page : Nat) : (s.unfault c page).Wf := h

@[simp] theorem wf_writeResume (h : s.Wf) (c : Nat) (v : DWord) : (s.writeResume c v).Wf := by
  unfold State.writeResume; split <;> simp [h]

@[simp] theorem wf_execCtxresumeRetry (h : s.Wf) : OutcomeWf (execCtxresumeRetry s) := by
  unfold execCtxresumeRetry; simp [h]

@[simp] theorem wf_execCtxresumeKill (h : s.Wf) : OutcomeWf (execCtxresumeKill s) := by
  unfold execCtxresumeKill; simp [h]

@[simp] theorem wf_writeInval (h : s.Wf) (c : Nat) (v : DWord) : (s.writeInval c v).Wf := by
  unfold State.writeInval; simp [h]

@[simp] theorem wf_execCtxinvalAll (h : s.Wf) : OutcomeWf (execCtxinvalAll s) := by
  unfold execCtxinvalAll; simp [h]

@[simp] theorem wf_writeCtx (h : s.Wf) (c off : Nat) (v : DWord) : (s.writeCtx c off v).Wf := by
  unfold State.writeCtx; split <;> simp [h]

@[simp] theorem wf_writeSqctl (h : s.Wf) (n : Nat) (v : DWord) : (s.writeSqctl n v).Wf := by
  unfold State.writeSqctl; simp [h]

@[simp] theorem wf_writeSlot (h : s.Wf) (n off : Nat) (v : DWord) : (s.writeSlot n off v).Wf := by
  unfold State.writeSlot; split <;> simp [h]

@[simp] theorem wf_kick (h : s.Wf) (n : Nat) (tail : Word) : (s.kick n tail).Wf := h

@[simp] theorem wf_execKickWrite (h : s.Wf) : OutcomeWf (execKickWrite s) := by
  unfold execKickWrite; simp [h]

@[simp] theorem wf_writeBar0 (h : s.Wf) (off : Nat) (v : DWord) : (s.writeBar0 off v).Wf := by
  unfold State.writeBar0
  extract_lets +onlyGivenNames mem dev
  split
  · exact h
  · split
    · simp [h]
    · split
      · simp [h]
      · split
        · exact h
        · dsimp -zeta only [mem]
          simp [h]
        · exact h
        · exact h
        · exact h
        · simp [h]
        · exact h
        · simp [h]
        · simp [h]
        · dsimp -zeta only [dev]
          simp [h]
        · exact h
        · simp [h]
        · exact h
        · simp [h]
        · exact h
        · dsimp -zeta only [dev]
          simp [h]
        · exact h

@[simp] theorem wf_stepHalt (h : s.Wf) : s.stepHalt.Wf := by
  unfold State.stepHalt; simp [h]

@[simp] theorem wf_stepRun (h : s.Wf) : s.stepRun.Wf := by
  unfold State.stepRun; simp [h]

@[simp] theorem wf_stepStep (h : s.Wf) : s.stepStep.Wf := by
  unfold State.stepStep
  extract_lets +onlyGivenNames k
  dsimp -zeta only
  repeat' split
  all_goals simp [h]

@[simp] theorem wf_writeStepctl (h : s.Wf) (v : DWord) : (s.writeStepctl v).Wf := by
  unfold State.writeStepctl
  extract_lets +onlyGivenNames s1 s2 s3
  have hs2 : s2.Wf := by simp [s2, h]
  have hs3 : s3.Wf := by simp [s3, hs2]
  simp [hs3]

@[simp] theorem wf_execStepctlHalt (h : s.Wf) : OutcomeWf (execStepctlHalt s) := by
  unfold execStepctlHalt; simp [h]

@[simp] theorem wf_execStepctlStep (h : s.Wf) : OutcomeWf (execStepctlStep s) := by
  unfold execStepctlStep; simp [h]

@[simp] theorem wf_execStepctlRun (h : s.Wf) : OutcomeWf (execStepctlRun s) := by
  unfold execStepctlRun; simp [h]

@[simp] theorem wf_execStepDone (h : s.Wf) : OutcomeWf (execStepDone s) := by
  unfold execStepDone; simp [h]

@[simp] theorem wf_writeNuntaok (h : s.Wf) (off : Nat) (v : DWord) : (s.writeNuntaok off v).Wf := by
  unfold State.writeNuntaok
  extract_lets +onlyGivenNames r put
  split
  · extract_lets +onlyGivenNames i b
    split
    · exact h
    · exact h
    · exact h
  · split
    · exact h
    · split
      · simp [h]
      · split
        · dsimp -zeta only [put]
          simp [h]
        · exact h
      · split
        · exact h
        · exact h
      · exact h
      · split
        · dsimp -zeta only [put]
          simp [h]
        · exact h
      · dsimp -zeta only [put]
        simp [h]
      · simp [h]
      · exact h
      · exact h
      · simp [h]
      · exact h

@[simp] theorem wf_execRegisterWrite (h : s.Wf) : OutcomeWf (execRegisterWrite s) := by
  unfold execRegisterWrite; split <;> simp [h]

@[simp] theorem wf_execNuntaokRequest (h : s.Wf) : OutcomeWf (execNuntaokRequest s) := by
  unfold execNuntaokRequest; simp [h]

@[simp] theorem wf_execSqctlEnSet (h : s.Wf) : OutcomeWf (execSqctlEnSet s) := by
  unfold execSqctlEnSet; simp [h]

@[simp] theorem wf_execContextKill (h : s.Wf) : OutcomeWf (execContextKill s) := by
  unfold execContextKill; simp [h]

@[simp] theorem wf_execWatchdogExpiry (h : s.Wf) : OutcomeWf (execWatchdogExpiry s) := by
  unfold execWatchdogExpiry; split <;> simp [h]

@[simp] theorem wf_execInvalidationComplete (h : s.Wf) : OutcomeWf (execInvalidationComplete s) := by
  unfold execInvalidationComplete
  split
  · simp [h]
  · split
    · simp [h]
    · extract_lets +onlyGivenNames rest s1 s2 s3
      have hs2 : s2.Wf := by simp [s2, h]
      have hs3 : s3.Wf := by simp [s3, hs2]
      extract_lets +onlyGivenNames s31
      have hs31 : s31.Wf := by
        dsimp -zeta only [s31]
        split <;> simp [hs3]
      rw [outcomeWf_next]
      exact wf_foldl (fun t a ht => by simp [ht]) _ hs31

/-! #### What Machine/HostMem leaves canonical -/

@[simp] theorem wf_hostReach (h : s.Wf) (reads writes : Bool) (l : List HostPiece) : (s.hostReach reads writes l).Wf := by
  unfold State.hostReach
  exact wf_foldl_fst (fun t a ht => by simp [ht]) _ h

@[simp] theorem wf_hostRead (h : s.Wf) (l : List HostPiece) (noted : Bool) : (s.hostRead l noted).1.Wf := by
  unfold State.hostRead
  apply wf_foldl_fst
  · intro t a ht
    extract_lets +onlyGivenNames s1 s2
    have hs1 : s1.Wf := by simp [s1, ht]
    have hs2 : s2.Wf := by simp [s2, hs1]
    exact hs2
  · exact h

@[simp] theorem wf_hostPut (h : s.Wf) (data : List Byte) (p : HostPiece) : (s.hostPut data p).Wf := by
  unfold State.hostPut
  extract_lets +onlyGivenNames line s1
  have hs1 : s1.Wf := by simp [s1, h]
  split
  · exact hs1
  · extract_lets +onlyGivenNames s2 s3 s4
    have hs2 : s2.Wf := by simp [s2, hs1]
    have hs3 : s3.Wf := by simp [s3, hs2]
    have hs4 : s4.Wf := by simp [s4, hs3]
    simp [hs4]

@[simp] theorem wf_hostWriteAt (h : s.Wf) (l : List HostPiece) (data : List Byte) : (s.hostWriteAt l data).Wf := by
  unfold State.hostWriteAt
  extract_lets +onlyGivenNames s1 s2
  have hs1 : s1.Wf := wf_foldl (fun t a ht => by simp [ht]) _ h
  have hs2 : s2.Wf := by simp [s2, hs1]
  exact hs2

@[simp] theorem wf_hostAtomicAt (h : s.Wf) (l : List HostPiece) (k : HostAtomic) (n : Nat) (data : List Byte) (noted : Bool) :
    (s.hostAtomicAt l k n data noted).Wf := by
  unfold State.hostAtomicAt
  dsimp -zeta only
  apply wf_emit
  simp [h]

@[simp] theorem wf_hostAccess (h : s.Wf) (x : HostAccess) (l : List HostPiece) : (s.hostAccess x l).Wf := by
  unfold State.hostAccess
  extract_lets +onlyGivenNames writes apart reads failed
  split
  · exact h
  · split
    · simp [h]
    · extract_lets +onlyGivenNames t
      have ht : t.Wf := by simp [t, h]
      split
      · split
        · apply wf_quietly
          · exact ht
          · intro y0 ht1
            simp [ht1]
        · simp [ht]
      · split
        · split
          · apply wf_quietly
            · exact ht
            · intro y0 ht1
              simp [ht1]
          · simp [ht]
        · simp [ht]

@[simp] theorem wf_execHostMemoryAccess {s0 : State} (hs0 : s0.Wf) : OutcomeWf (execHostMemoryAccess s0) := by
  unfold execHostMemoryAccess
  extract_lets +onlyGivenNames s x
  have hs : s.Wf := by simp [s, hs0]
  repeat' split
  all_goals simp [hs]

@[simp] theorem wf_execHostSnoop (h : s.Wf) : OutcomeWf (execHostSnoop s) := by
  unfold execHostSnoop
  extract_lets +onlyGivenNames k
  split <;> simp [h]

@[simp] theorem wf_endHostReq (h : s.Wf) (r : Req) : (s.endHostReq r).Wf := by
  unfold State.endHostReq; simp [h]

@[simp] theorem wf_hostLaneEnd (h : s.Wf) (r : Req) (link : Nat) (res : Except Cause QWord) : (s.hostLaneEnd r link res).Wf := by
  unfold State.hostLaneEnd
  repeat' split
  all_goals simp [h]

@[simp] theorem wf_hostCas (h : s.Wf) (r : Req) (link : Nat) (o : LaneOp) (old : QWord) : (s.hostCas r link o old).Wf := h

@[simp] theorem wf_execHostLinkCompletion (h : s.Wf) : OutcomeWf (execHostLinkCompletion s) := by
  unfold execHostLinkCompletion
  repeat' split
  all_goals simp [h]

@[simp] theorem wf_execHostAtomicCasAttempt (h : s.Wf) : OutcomeWf (execHostAtomicCasAttempt s) := by
  unfold execHostAtomicCasAttempt
  repeat' split
  all_goals simp [h]

@[simp] theorem wf_modWalk (h : s.Wf) (id : Nat) (f : Walk → Walk) : (s.modWalk id f).Wf := h

@[simp] theorem wf_denyWalk (h : s.Wf) (k : Walk) : (s.denyWalk k).Wf := by
  unfold State.denyWalk; simp [h]

@[simp] theorem wf_retryDenied (h : s.Wf) : s.retryDenied.Wf := by
  unfold State.retryDenied
  exact wf_foldl (fun t a ht => by simp [ht]) _ h

@[simp] theorem wf_execAtsCompletion (h : s.Wf) : OutcomeWf (execAtsCompletion s) := by
  unfold execAtsCompletion
  repeat' split
  all_goals simp [h]

@[simp] theorem wf_execPriResponse (h : s.Wf) : OutcomeWf (execPriResponse s) := by
  unfold execPriResponse
  split
  · simp [h]
  · extract_lets +onlyGivenNames record
    split
    · rw [outcomeWf_next]
      apply wf_retryDenied
      exact h
    · rw [outcomeWf_next]
      apply wf_retryDenied
      dsimp -zeta only [record]
      simp [h]
    · rw [outcomeWf_next]
      apply wf_retryDenied
      dsimp -zeta only [record]
      simp [h]

@[simp] theorem wf_execAtsInvalidationRequest (h : s.Wf) : OutcomeWf (execAtsInvalidationRequest s) := by
  unfold execAtsInvalidationRequest
  extract_lets +onlyGivenNames link cs
  split
  · simp [h]
  · extract_lets +onlyGivenNames who
    rw [outcomeWf_next]
    apply wf_foldl
    · intro t a ht
      exact ht
    · exact h

@[simp] theorem wf_execTranslationWalkComplete (h : s.Wf) : OutcomeWf (execTranslationWalkComplete s) := by
  unfold execTranslationWalkComplete; split <;> simp [h]

@[simp] theorem wf_execManagementSpdmRequest (h : s.Wf) : OutcomeWf (execManagementSpdmRequest s) := by
  unfold execManagementSpdmRequest; split <;> simp [h]

@[simp] theorem wf_banksBack (h : s.Wf) : s.banksBack.Wf := by
  unfold State.banksBack
  exact wf_foldl (fun t a ht => by simp [ht]) _ h

@[simp] theorem wf_execKillComplete (h : s.Wf) : OutcomeWf (execKillComplete s) := by
  unfold execKillComplete; simp [h]

/-! #### What Machine/HostCmd leaves canonical -/

@[simp] theorem wf_ctlQuiet {α : Type} (h : s.Wf) (ctx agent : Nat) (site : FaultSite) {f : Eng → Except EStop (Eng × α)}
    (hf : ∀ e, e.Wf → ExceptWf (fun x => x.1.s) (f e)) (fuel : Nat) : (State.ctlQuiet ctx agent site f fuel s).Wf := by
  unfold State.ctlQuiet
  extract_lets +onlyGivenNames back
  have hb : ∀ t, t.Wf → (back t).Wf := fun _ ht => ht
  have hr := wf_ctl (s := { s with recd := { s.recd with mode := 0 } }) h ctx agent site hf fuel
  split
  · rename_i t _ e
    exact hb t (hr.ok e)
  · rename_i t _ e
    exact hb t (hr.fault e)
  · rename_i t _ e
    exact hb t (hr.wait e)

@[simp] theorem wf_readEntry (h : s.Wf) (q : QSlot) : (s.readEntry q).Wf := by
  unfold State.readEntry
  extract_lets +onlyGivenNames a
  split
  · split
    · exact h
    · split
      · simp
      · extract_lets +onlyGivenNames line s1
        have hs1 : s1.Wf := by
          dsimp -zeta only [s1]
          apply wf_gather
          simp [h]
        split <;> simp [hs1]
  · extract_lets +onlyGivenNames link
    repeat' split
    all_goals simp [h]

@[simp] theorem wf_advance (h : s.Wf) (n : Nat) : (s.advance n).Wf := h

@[simp] theorem wf_entryRecord (h : s.Wf) (n : Nat) (q : QSlot) (bs : List Byte) : (s.entryRecord n q bs).Wf := by
  unfold State.entryRecord; split <;> simp [h]

@[simp] theorem wf_addCmd (h : s.Wf) (n c : Nat) (bs : List Byte) : (s.addCmd n c bs).Wf := h

@[simp] theorem wf_takeEntry (h : s.Wf) (n : Nat) (q : QSlot) (bs : List Byte) : (s.takeEntry n q bs).Wf := by
  unfold State.takeEntry; simp [h]

@[simp] theorem wf_execQueueEntryExamine (h : s.Wf) : OutcomeWf (execQueueEntryExamine s) := by
  unfold execQueueEntryExamine
  extract_lets +onlyGivenNames n q
  split
  · simp [h]
  · split
    · simp [h]
    · rename_i t e
      have ht : t.Wf := (wf_readEntry h ..).unreadable e
      simp [ht]
    · rename_i t _ e
      have ht : t.Wf := (wf_readEntry h ..).bytes e
      simp [ht]

@[simp] theorem wf_modHCmd (h : s.Wf) (h1 : HCmd) (f : HCmd → HCmd) : (s.modHCmd h1 f).Wf := h

@[simp] theorem wf_stokerRaise (h : s.Wf) (n : Nat) (v : DWord) : (s.stokerRaise n v).Wf := by
  unfold State.stokerRaise; simp [h]

@[simp] theorem wf_execTlsignal (h : s.Wf) : OutcomeWf (execTlsignal s) := by
  unfold execTlsignal; split <;> simp [h]

@[simp] theorem wf_execHostTlwait (h : s.Wf) : OutcomeWf (execHostTlwait s) := by
  unfold execHostTlwait; split <;> simp [h]

@[simp] theorem wf_execMarker (h : s.Wf) : OutcomeWf (execMarker s) := by
  unfold execMarker
  split
  · exact h
  · rename_i c _
    split
    · exact h
    · have hw := wf_ctl h c.ctx stokerAgent c.site (fun _ he => wf_ctlWrite he c.a0 (leBytes 8 c.a1.toNat) false) 4
      split
      · rename_i e
        exact wf_endHostCmd (hw.ok e) ..
      · rename_i e
        exact wf_endHostCmd (hw.fault e) ..
      · rename_i e
        exact wf_modHCmd (hw.wait e) ..

@[simp] theorem wf_execInvtlb (h : s.Wf) : OutcomeWf (execInvtlb s) := by
  unfold execInvtlb; split <;> simp [h]

@[simp] theorem wf_homeRange (h : s.Wf) (ctx : Nat) (site : FaultSite) (n : Nat) (va : DWord) : (s.homeRange ctx site n va).Wf := by
  induction n generalizing s va with
  | zero => trivial
  | succ n ih =>
    unfold State.homeRange
    split
    · trivial
    · extract_lets +onlyGivenNames on
      have hon : ∀ t l, t.Wf → (on t l).Wf := by
        intro t l ht
        dsimp -zeta only [on]
        split
        · exact ih ht _
        · trivial
        · trivial
      split
      · exact hon _ _ h
      · exact h
      · have hw := fun c va k => wf_walkNow h c va k site
        split
        · rename_i e
          exact hon _ _ ((hw ..).leaf e)
        · rename_i e
          exact (hw ..).wait e

@[simp] theorem wf_openWindow (h : s.Wf) (h1 : HCmd) (d : WinDesc) (devs : List Byte) : (s.openWindow h1 d devs).Wf := by
  unfold State.openWindow
  extract_lets +onlyGivenNames n dev
  split
  · exact h
  · split
    · exact h
    · extract_lets +onlyGivenNames pages
      split
      · exact h
      · rename_i t _ e
        have ht : t.Wf := (wf_homeRange h ..).waits e
        exact ht
      · exact h

@[simp] theorem wf_execWinopen (h : s.Wf) : OutcomeWf (execWinopen s) := by
  unfold execWinopen
  split
  · exact h
  · rename_i c _
    split
    · exact wf_endHostCmd h ..
    · have ht := wf_ctlQuiet h c.ctx stokerAgent c.site (fun _ he => wf_ctlRead he c.a0 64) 4
      split
      · rename_i e
        exact wf_endHostCmd (ht.fault e) ..
      · rename_i e
        exact wf_modHCmd (ht.wait e) ..
      · rename_i e
        extract_lets +onlyGivenNames d
        split
        · exact wf_endHostCmd (ht.ok e) ..
        · have hu := wf_ctlQuiet (ht.ok e) c.ctx stokerAgent c.site (fun _ he => wf_ctlRead he d.srcs (2 * d.nsrc)) 8
          split
          · rename_i e'
            exact wf_endHostCmd (hu.fault e') ..
          · rename_i e'
            exact wf_modHCmd (hu.wait e') ..
          · rename_i e'
            exact wf_openWindow (hu.ok e') ..

@[simp] theorem wf_execWinclose (h : s.Wf) : OutcomeWf (execWinclose s) := by
  unfold execWinclose
  repeat' split
  all_goals simp [h]

@[simp] theorem wf_journalEnd (h : s.Wf) (h1 : HCmd) : (s.journalEnd h1).Wf := by
  unfold State.journalEnd; split <;> simp [h]

@[simp] theorem wf_execCommandComplete (h : s.Wf) : OutcomeWf (execCommandComplete s) := by
  unfold execCommandComplete; split <;> simp [h]

/-! #### What Machine/Arm leaves canonical -/

@[simp] theorem wf_ownedWritable (h : e.Wf) (a : DWord) : ExceptWf (fun x => x.1.s) (ownedWritable a e) := by
  unfold ownedWritable; split <;> simp [h]

@[simp] theorem wf_readNodes (h : s.Wf) (c : HCmd) (fuel : Nat) (todo : List DWord) (ns : List ArmNode) :
    (State.readNodes c fuel todo ns s).Wf := by
  induction fuel generalizing s todo ns with
  | zero => exact h
  | succ fuel ih =>
    cases todo with
    | nil => exact h
    | cons a todo =>
      rw [State.readNodes]
      split
      · exact h
      · split
        · exact ih h ..
        · split
          · exact h
          · have ht := wf_ctlQuiet h c.ctx stokerAgent (stokerSite c.slot c.seq a) (fun _ he => wf_ctlRead he a 256) 4
            split
            · rename_i e; exact ht.fault e
            · rename_i e; exact ht.wait e
            · rename_i e
              have hu := wf_ctlQuiet (ht.ok e) c.ctx stokerAgent (stokerSite c.slot c.seq a) (fun _ he => wf_ownedWritable he a) 4
              split
              · rename_i e; exact hu.fault e
              · rename_i e; exact hu.wait e
              · rename_i u _ e
                extract_lets +onlyGivenNames n body
                split
                · exact ih (hu.ok e) ..
                · have hv := wf_ctlQuiet (hu.ok e) c.ctx stokerAgent (stokerSite c.slot c.seq n.succPtr)
                    (fun _ he => wf_ctlRead he n.succPtr (8 * n.succN)) 260
                  split
                  · rename_i e; exact hv.fault e
                  · rename_i e; exact hv.wait e
                  · rename_i e
                    exact ih (hv.ok e) ..

@[simp] theorem wf_putNode (h : s.Wf) (n : ArmNode) : (s.putNode n).Wf := by
  have hw := wf_ctlQuiet h n.ctx stokerAgent (stokerSite n.slot n.seq n.addr) (fun _ he => wf_ctlWrite he (n.addr + 0xF0) n.owned false)
      4
  unfold State.putNode
  split
  · rename_i e
    exact wf_setNode (hw.ok e) _
  · rename_i e
    exact wf_kill (wf_setNode (hw.fault e) _) ..
  · rename_i e
    exact wf_setNode (hw.wait e) _

@[simp] theorem wf_pooled (h : s.Wf) (n : ArmNode) : (s.pooled n).Wf := by
  unfold State.pooled; simp [h]

@[simp] theorem wf_armSet (h : s.Wf) (h1 : HCmd) (ns : List ArmNode) : (s.armSet h1 ns).Wf := by
  unfold State.armSet
  extract_lets +onlyGivenNames succ bodies armed s1 s2
  have hs2 : s2.Wf := by simp [s2, h]
  extract_lets +onlyGivenNames s21
  have hs21 : s21.Wf := wf_foldl (fun t a ht => by simp [ht]) _ hs2
  exact wf_foldl (fun t a ht => by simp [ht]) _ hs21

@[simp] theorem wf_execRungraph (h : s.Wf) : OutcomeWf (execRungraph s) := by
  unfold execRungraph
  split
  · exact h
  · rename_i c _
    split
    · exact h
    · have ht := wf_ctlQuiet h c.ctx stokerAgent (stokerSite c.slot c.seq c.a0) (fun _ he => wf_ctlRead he c.a0 (8 * c.a1.toNat)) 20
      split
      · rename_i e
        exact wf_endHostCmd (ht.fault e) ..
      · rename_i e
        exact wf_modHCmd (ht.wait e) ..
      · rename_i e
        have hn := fun k f l => wf_readNodes (ht.ok e) k f l []
        split
        · rename_i e'
          exact wf_endHostCmd ((hn ..).fails e') ..
        · rename_i e'
          exact wf_modHCmd ((hn ..).waits e') ..
        · rename_i e'
          split
          · exact wf_endHostCmd ((hn ..).nodes e') ..
          · exact wf_armSet ((hn ..).nodes e') ..

/-! #### What Machine/Cross leaves canonical -/

@[simp] theorem wf_laneCross (h : s.Wf) (i : Instr) (w : LaneW) (x : SrcX) (f : Cur → Blk → Thr → Word → Thr) : OutcomeWf
    (laneCross i w x s f) := by
  unfold laneCross
  apply wf_laneWordOp
  · exact h
  · intro y0 y1 y2 y3
    split
    · simp [h]
    · extract_lets +onlyGivenNames s1
      have hs1 : s1.Wf := by simp [s1, h]
      simp [hs1]

@[simp] theorem wf_laneShuffle (h : s.Wf) (i : Instr) (w : LaneW) (x : SrcX) (target : Nat → Nat → ℤ) : OutcomeWf
    (laneShuffle i w x s target) := by
  unfold laneShuffle; simp [h]

@[simp] theorem wf_execShfl (h : s.Wf) (w : LaneW) (x : SrcX) : OutcomeWf (execShfl w x s) := by
  unfold execShfl; simp [h]

@[simp] theorem wf_execShflup (h : s.Wf) (w : LaneW) (x : SrcX) : OutcomeWf (execShflup w x s) := by
  unfold execShflup; simp [h]

@[simp] theorem wf_execShfldn (h : s.Wf) (w : LaneW) (x : SrcX) : OutcomeWf (execShfldn w x s) := by
  unfold execShfldn; simp [h]

@[simp] theorem wf_execShflx (h : s.Wf) (w : LaneW) (x : SrcX) : OutcomeWf (execShflx w x s) := by
  unfold execShflx; simp [h]

@[simp] theorem wf_execVoteall (h : s.Wf) (w : LaneW) (x : SrcX) : OutcomeWf (execVoteall w x s) := by
  unfold execVoteall; simp [h]

@[simp] theorem wf_execVoteany (h : s.Wf) (w : LaneW) (x : SrcX) : OutcomeWf (execVoteany w x s) := by
  unfold execVoteany; simp [h]

@[simp] theorem wf_execBallot (h : s.Wf) (w : LaneW) (x : SrcX) : OutcomeWf (execBallot w x s) := by
  unfold execBallot; simp [h]

@[simp] theorem wf_execMatchLane (h : s.Wf) (w : LaneW) (x : SrcX) : OutcomeWf (execMatchLane w x s) := by
  unfold execMatchLane; simp [h]

@[simp] theorem wf_execElect (h : s.Wf) (w : LaneW) (x : SrcX) : OutcomeWf (execElect w x s) := by
  unfold execElect; simp [h]

@[simp] theorem wf_laneFold (h : s.Wf) (i : Instr) (w : LaneW) (x : SrcX) (id : Word) (op : Word → Word → Word) : OutcomeWf
    (laneFold i w x s id op) := by
  unfold laneFold; simp [h]

@[simp] theorem wf_execRedadd (h : s.Wf) (w : LaneW) (x : SrcX) : OutcomeWf (execRedadd w x s) := by
  unfold execRedadd; simp [h]

@[simp] theorem wf_execRedmin (h : s.Wf) (w : LaneW) (x : SrcX) : OutcomeWf (execRedmin w x s) := by
  unfold execRedmin; simp [h]

@[simp] theorem wf_execRedmax (h : s.Wf) (w : LaneW) (x : SrcX) : OutcomeWf (execRedmax w x s) := by
  unfold execRedmax; simp [h]

@[simp] theorem wf_execRedminu (h : s.Wf) (w : LaneW) (x : SrcX) : OutcomeWf (execRedminu w x s) := by
  unfold execRedminu; simp [h]

@[simp] theorem wf_execRedmaxu (h : s.Wf) (w : LaneW) (x : SrcX) : OutcomeWf (execRedmaxu w x s) := by
  unfold execRedmaxu; simp [h]

@[simp] theorem wf_execRedand (h : s.Wf) (w : LaneW) (x : SrcX) : OutcomeWf (execRedand w x s) := by
  unfold execRedand; simp [h]

@[simp] theorem wf_execRedor (h : s.Wf) (w : LaneW) (x : SrcX) : OutcomeWf (execRedor w x s) := by
  unfold execRedor; simp [h]

@[simp] theorem wf_execRedxor (h : s.Wf) (w : LaneW) (x : SrcX) : OutcomeWf (execRedxor w x s) := by
  unfold execRedxor; simp [h]

@[simp] theorem wf_laneTree (h : s.Wf) (i : Instr) (w : LaneW) (x : SrcX) (id : Word) (op : Word → Word → Word) : OutcomeWf
    (laneTree i w x s id op) := by
  unfold laneTree; simp [h]

@[simp] theorem wf_execFredadd (h : s.Wf) (w : LaneW) (x : SrcX) : OutcomeWf (execFredadd w x s) := by
  unfold execFredadd; simp [h]

@[simp] theorem wf_execFredmax (h : s.Wf) (w : LaneW) (x : SrcX) : OutcomeWf (execFredmax w x s) := by
  unfold execFredmax; simp [h]

@[simp] theorem wf_laneScan (h : s.Wf) (i : Instr) (w : LaneW) (x : SrcX) (id : Word) (op : Word → Word → Word) : OutcomeWf
    (laneScan i w x s id op) := by
  unfold laneScan; simp [h]

@[simp] theorem wf_execScanadd (h : s.Wf) (w : LaneW) (x : SrcX) : OutcomeWf (execScanadd w x s) := by
  unfold execScanadd; simp [h]

@[simp] theorem wf_execScanxor (h : s.Wf) (w : LaneW) (x : SrcX) : OutcomeWf (execScanxor w x s) := by
  unfold execScanxor; simp [h]

@[simp] theorem wf_execScanmax (h : s.Wf) (w : LaneW) (x : SrcX) : OutcomeWf (execScanmax w x s) := by
  unfold execScanmax; simp [h]

/-! #### What Machine/Graph leaves canonical -/

@[simp] theorem wf_withNode (h : s.Wf) (old new : ArmNode) {k : State → State} (hk : ∀ t, t.Wf → (k t).Wf) :
    (s.withNode old new k).Wf := by
  have hw := wf_ctlQuiet h new.ctx stokerAgent (stokerSite new.slot new.seq new.addr)
    (fun _ he => wf_ctlWrite he (new.addr + 0xF0) new.owned false) 4
  unfold State.withNode
  split
  · rename_i e
    exact hk _ (wf_setNode (hw.ok e) _)
  · rename_i e
    exact wf_kill (hw.fault e) ..
  · rename_i e
    exact wf_setNode (hw.wait e) _
  · rename_i e
    exact hw.wait e

@[simp] theorem wf_takeUp (h : s.Wf) (n : ArmNode) (k : ArmNode → State → State) (hk : ∀ y0 y1, y1.Wf → (k y0 y1).Wf) :
    (s.takeUp n k).Wf := by
  unfold State.takeUp
  split
  · simp [h, hk]
  · extract_lets +onlyGivenNames m
    apply wf_withNode
    · exact h
    · intro y0 ht
      simp [hk, ht]

@[simp] theorem wf_decided (h : s.Wf) (event : Nat) (n : ArmNode) (arg cluster mask core : Nat) (faulted : Bool) :
    (s.decided event n arg cluster mask core faulted).Wf := by
  unfold State.decided; simp [h]

@[simp] theorem wf_finishIfDone (h : s.Wf) (slot : Nat) (seq : Word) : (s.finishIfDone slot seq).Wf := by
  unfold State.finishIfDone
  repeat' split
  all_goals simp [h]

@[simp] theorem wf_abandon (h : s.Wf) (n : ArmNode) : (s.abandon n).Wf := by
  unfold State.abandon; simp [h]

@[simp] theorem wf_failNode (h : s.Wf) (n : ArmNode) (c : Cause) : (s.failNode n c).Wf := by
  unfold State.failNode
  extract_lets +onlyGivenNames ns succ entry next hit lost s1 s2
  have hs1 : s1.Wf := by simp [s1, h]
  extract_lets +onlyGivenNames s21
  extract_lets +onlyGivenNames s22
  have hs22 : s22.Wf := by simp [s22, hs1]
  apply wf_finishIfDone
  exact wf_foldl (fun t a ht => by simp [ht]) _ hs22

@[simp] theorem wf_execNodeCompletionReport (h : s.Wf) : OutcomeWf (execNodeCompletionReport s) := by
  unfold execNodeCompletionReport
  repeat' split
  all_goals simp [h]

@[simp] theorem wf_notifyNode (h : s.Wf) (n : ArmNode) (a : DWord) (live : Bool) (k : State → State) (hk : ∀ y0, y0.Wf → (k y0).Wf) :
    (s.notifyNode n a live k).Wf := by
  unfold State.notifyNode
  split
  · simp [h, hk]
  · split
    · exact h
    · split
      · simp [h, hk]
      · split
        · simp [h, hk]
        · extract_lets +onlyGivenNames x
          apply wf_withNode
          · exact h
          · intro y0 ht
            simp [hk, ht]

@[simp] theorem wf_execForwardingStep (h : s.Wf) : OutcomeWf (execForwardingStep s) := by
  unfold execForwardingStep
  split
  · simp [h]
  · split
    · simp [h]
    · extract_lets +onlyGivenNames drop
      split
      · rw [outcomeWf_next]
        dsimp -zeta only [drop]
        simp [h]
      · extract_lets +onlyGivenNames out hand
        split
        · rw [outcomeWf_next]
          dsimp -zeta only [drop]
          simp [h]
        · split
          · rw [outcomeWf_next]
            dsimp -zeta only [hand]
            split
            · dsimp -zeta only [drop]
              simp [h]
            · exact h
          · rw [outcomeWf_next]
            apply wf_notifyNode
            · exact h
            · intro y0 ht
              dsimp -zeta only [hand]
              split
              · dsimp -zeta only [drop]
                simp [ht]
              · exact ht

@[simp] theorem wf_journalIf (h : s.Wf) (slot : Nat) (seq : Word) : (s.journalIf slot seq).Wf := by
  unfold State.journalIf; split <;> simp [h]

@[simp] theorem wf_retireNext (h : s.Wf) : OutcomeWf (s.retireNext) := by
  unfold State.retireNext
  split
  · simp [h]
  · extract_lets +onlyGivenNames drop isBody
    split
    · rw [outcomeWf_next]
      exact h
    · split
      · rw [outcomeWf_next]
        exact h
      · split
        · simp [h]
        · rw [outcomeWf_next]
          apply wf_withNode
          · exact h
          · intro y0 ht
            apply wf_journalIf
            apply wf_finishIfDone
            split
            · apply wf_stokerRaise
              exact ht
            · exact ht

@[simp] theorem wf_execNodeRetire (h : s.Wf) : OutcomeWf (execNodeRetire s) := by
  unfold execNodeRetire
  split
  · simp [h]
  · split
    · rw [outcomeWf_next]
      apply wf_journalIf
      simp [h]
    · simp [h]

@[simp] theorem wf_nodeRead (h : s.Wf) (n : ArmNode) {k : State → Bool → State} (hk : ∀ t b, t.Wf → (k t b).Wf) :
    (s.nodeRead n k).Wf := by
  have hr := wf_ctl h n.ctx stokerAgent (stokerSite n.slot n.seq n.addr) (fun _ he => wf_ctlRead he n.predAddr 8) 4
  unfold State.nodeRead
  split
  · rename_i e
    exact hk _ _ (hr.ok e)
  · rename_i e
    exact wf_failNode (hr.fault e) ..
  · rename_i e
    exact wf_setNode (hr.wait e) _

@[simp] theorem wf_execCondEvaluate (h : s.Wf) : OutcomeWf (execCondEvaluate s) := by
  unfold execCondEvaluate
  split
  · simp [h]
  · split
    · simp [h]
    · rw [outcomeWf_next]
      apply wf_takeUp
      · exact h
      · intro y0 y1 ht
        apply wf_nodeRead
        · exact ht
        · intro y01 y11 ht1
          simp [ht1]

@[simp] theorem wf_loopGo (h : s.Wf) (n : ArmNode) (go : Bool) : (s.loopGo n go).Wf := by
  unfold State.loopGo
  extract_lets +onlyGivenNames s1
  have hs1 : s1.Wf := by simp [s1, h]
  split
  · extract_lets +onlyGivenNames s2
    have hs2 : s2.Wf := wf_foldl (fun t a ht => by simp [ht]) _ hs1
    exact hs2
  · exact hs1

@[simp] theorem wf_execLoopNodeTest (h : s.Wf) : OutcomeWf (execLoopNodeTest s) := by
  unfold execLoopNodeTest
  split
  · simp [h]
  · extract_lets +onlyGivenNames rested
    split
    · simp [h]
    · rw [outcomeWf_next]
      apply wf_takeUp
      · exact h
      · intro y0 y1 ht
        extract_lets +onlyGivenNames on test
        split
        · apply wf_nodeRead
          · exact ht
          · intro y01 y11 ht1
            dsimp -zeta only [test]
            simp [ht1]
        · dsimp -zeta only [test]
          simp [ht]

@[simp] theorem wf_execSignalNode (h : s.Wf) : OutcomeWf (execSignalNode s) := by
  unfold execSignalNode
  split
  · simp [h]
  · rw [outcomeWf_next]
    apply wf_takeUp
    · exact h
    · intro y0 y1 ht
      simp [ht]

@[simp] theorem wf_tlReached (h : s.Wf) (n : ArmNode) : (s.tlReached n).Wf := by
  unfold State.tlReached; simp [h]

@[simp] theorem wf_execWaitNode (h : s.Wf) : OutcomeWf (execWaitNode s) := by
  unfold execWaitNode
  split
  · simp [h]
  · rw [outcomeWf_next]
    apply wf_takeUp
    · exact h
    · intro y0 y1 ht
      simp [ht]

@[simp] theorem wf_execHostcallNode (h : s.Wf) : OutcomeWf (execHostcallNode s) := by
  unfold execHostcallNode
  split
  · exact h
  · apply outcomeWf_next.2
    apply wf_takeUp h
    intro m t ht
    dsimp only
    split
    · exact wf_tlReached ht m
    · have hw := wf_ctl ht m.ctx stokerAgent (stokerSite m.slot m.seq m.addr)
        (fun _ he => wf_ctlWrite he m.param (leBytes 4 m.nodeId.toNat ++ leBytes 4 m.launches.toNat) false) 4
      split
      · rename_i e
        exact wf_tlReached (wf_setNode (hw.ok e) _) _
      · rename_i e
        exact wf_failNode (hw.fault e) ..
      · rename_i e
        exact wf_setNode (hw.wait e) _

@[simp] theorem wf_preloadLines (h : s.Wf) (cluster ctx n : Nat) (va : DWord) : (s.preloadLines cluster ctx n va).1.Wf := by
  induction n generalizing s va with
  | zero => exact h
  | succ n ih =>
    unfold State.preloadLines
    split
    · exact h
    · exact ih (by simp [h]) _
    · exact ih (wf_cacheRead h ..) _

@[simp] theorem wf_execNodePreload (h : s.Wf) : OutcomeWf (execNodePreload s) := by
  unfold execNodePreload
  split
  · simp [h]
  · split
    · simp [h]
    · split <;> simp [h]

@[simp] theorem wf_repairSlot (h : s.Wf) (n : Nat) : OptionWf (s.repairSlot n) := by
  unfold State.repairSlot
  extract_lets +onlyGivenNames q
  split
  · split
    · simp [h]
    · split
      · simp [h]
      · split
        · rename_i t _ e
          have ht : t.Wf := (wf_readEntry h ..).bytes e
          simp [ht]
        · rename_i t e
          have ht : t.Wf := (wf_readEntry h ..).unreadable e
          simp [ht]
        · simp
  · simp [h]

@[simp] theorem wf_repairSlots (h : s.Wf) : OptionWf s.repairSlots := by
  unfold State.repairSlots
  have step : ∀ (l : List (Nat × QSlot)) (o : Option State), OptionWf o →
      OptionWf (l.foldl (fun t p => if p.2.en then t.bind fun x => x.repairSlot p.1 else t) o) := by
    intro l
    induction l with
    | nil => exact fun _ ho => ho
    | cons p l ih =>
      intro o ho
      refine ih _ ?_
      dsimp only
      split
      · cases o with
        | none => exact ho
        | some t => exact wf_repairSlot (s := t) ho p.1
      · exact ho
  exact step _ _ h

@[simp] theorem wf_rearmGraphs (h : s.Wf) : s.rearmGraphs.Wf := h

@[simp] theorem wf_takenOver (h : s.Wf) : s.takenOver.Wf := by
  unfold State.takenOver
  split
  · exact h
  · rename_i t e
    have ht : t.Wf := (wf_repairSlots h ..).some e
    extract_lets +onlyGivenNames u v w
    have hu : u.Wf := by simp [u, ht]
    have hw : w.Wf := by simp [w, hu]
    simp [hw]

@[simp] theorem wf_execControlCoreTakeover (h : s.Wf) : OutcomeWf (execControlCoreTakeover s) := by
  unfold execControlCoreTakeover
  split
  · simp [h]
  · split
    · simp [h]
    · split
      · simp [h]
      · extract_lets +onlyGivenNames q s1
        extract_lets +onlyGivenNames s11
        have hs11 : s11.Wf := by
          dsimp -zeta only [s11]
          split
          · exact h
          · split
            · rename_i t _ e
              have ht : t.Wf := (wf_readEntry (by simp [h]) ..).bytes e
              simp [h, ht]
            · exact h
        simp [hs11]

/-! #### What Machine/Place leaves canonical -/

@[simp] theorem wf_notePlace (h : s.Wf) (n : ArmNode) (cluster : Nat) : (s.notePlace n cluster).Wf := by
  unfold State.notePlace; simp [h]

@[simp] theorem wf_switchBanks (h : s.Wf) (cluster : Nat) (l : List Nat) : (s.switchBanks cluster l).Wf := by
  unfold State.switchBanks
  apply wf_foldl
  · intro t a ht
    apply wf_modBank
    simp [ht]
  · exact h

@[simp] theorem wf_putBlocks (h : s.Wf) (n : ArmNode) (sp : Spot) : (s.putBlocks n sp).Wf := by
  unfold State.putBlocks
  apply wf_foldl
  · intro t a ht
    exact ht
  · exact h

@[simp] theorem wf_placeGang (h : s.Wf) (n : ArmNode) (sp : Spot) : (s.placeGang n sp).Wf := by
  unfold State.placeGang
  extract_lets +onlyGivenNames members gang mask arg s1 m out s2
  have hs1 : s1.Wf := by
    dsimp -zeta only [s1]
    apply wf_notePlace
    simp [h]
  simp [hs1]

@[simp] theorem wf_placeColl (h : s.Wf) (n : ArmNode) (engine : Nat) : (s.placeColl n engine).Wf := by
  unfold State.placeColl; simp [h]

@[simp] theorem wf_adopt (h : s.Wf) (p : Nat × DWord × DWord × DWord) : (s.adopt p).Wf := by
  unfold State.adopt
  dsimp -zeta only
  extract_lets +onlyGivenNames roots
  split
  · exact h
  · extract_lets +onlyGivenNames h1
    split
    · rename_i t _ e
      have ht : t.Wf := (wf_readNodes h ..).fails e
      exact ht
    · rename_i t _ e
      have ht : t.Wf := (wf_readNodes h ..).waits e
      exact ht
    · rename_i t _ e
      have ht : t.Wf := (wf_readNodes h ..).nodes e
      extract_lets +onlyGivenNames bodies armed t1
      extract_lets +onlyGivenNames t11
      extract_lets +onlyGivenNames t12
      extract_lets +onlyGivenNames t13
      have ht13 : t13.Wf := by simp [t13, ht]
      apply wf_foldl
      · simp
      · exact ht13

@[simp] theorem wf_dispatch (h : s.Wf) {α : Type} (kind : Nat) (d : Dispatcher) (keep : Dispatcher → Stoker → Stoker)
    (spot : ArmNode → Option α) (forced : ArmNode → DWord → Option (Option α)) (place : ArmNode → α → State → State)
    (hplace : ∀ y0 y1 y2, y2.Wf → (place y0 y1 y2).Wf) : (s.dispatch kind d keep spot forced place).Wf := by
  unfold State.dispatch
  split
  · exact h
  · split
    · split
      · exact h
      · split
        · simp [h]
        · split
          · exact h
          · exact h
          · apply wf_takeUp
            · exact h
            · intro y0 y1 ht
              simp [hplace, ht]
    · split
      · exact h
      · apply wf_takeUp
        · exact h
        · intro y0 y1 ht
          simp [hplace, ht]

@[simp] theorem wf_execGangDispatch (h : s.Wf) : OutcomeWf (execGangDispatch s) := by
  unfold execGangDispatch
  extract_lets +onlyGivenNames s1
  have hs1 : s1.Wf := by simp [s1, h]
  rw [outcomeWf_next]
  apply wf_dispatch
  · exact hs1
  · intro y0 y1 y2 ht
    simp [ht]

@[simp] theorem wf_execCopyNodeDispatch (h : s.Wf) : OutcomeWf (execCopyNodeDispatch s) := by
  unfold execCopyNodeDispatch
  rw [outcomeWf_next]
  apply wf_dispatch
  · exact h
  · intro y0 y1 y2 ht
    simp [ht]

@[simp] theorem wf_execCollNodeDispatch (h : s.Wf) : OutcomeWf (execCollNodeDispatch s) := by
  unfold execCollNodeDispatch
  extract_lets +onlyGivenNames engines
  rw [outcomeWf_next]
  apply wf_dispatch
  · exact h
  · intro y0 y1 y2 ht
    simp [ht]

/-! #### What Machine/Resident leaves canonical -/

@[simp] theorem wf_setGang (h : s.Wf) (g : Gang) : (s.setGang g).Wf := h

@[simp] theorem wf_gangDecided (h : s.Wf) (event : Nat) (g : Gang) (arg core : Nat) (faulted : Bool) :
    (s.gangDecided event g arg core faulted).Wf := by
  unfold State.gangDecided; split <;> simp [h]

@[simp] theorem wf_parkGang (h : s.Wf) (g : Gang) : (s.parkGang g).Wf := by
  unfold State.parkGang
  exact wf_foldl (fun t a ht => by simp [ht]) _ h

@[simp] theorem wf_makeRoom (h : s.Wf) (g : Gang) : (s.makeRoom g).Wf := by
  unfold State.makeRoom
  extract_lets +onlyGivenNames going cs
  split
  · exact h
  · split
    · exact h
    · exact wf_foldl (fun t a ht => by simp [ht]) _ h

@[simp] theorem wf_gangParked (h : s.Wf) (g : Gang) : (s.gangParked g).Wf := by
  unfold State.gangParked; simp [h]

@[simp] theorem wf_gangsParked (h : s.Wf) : s.gangsParked.Wf := by
  unfold State.gangsParked
  exact wf_foldl (fun t a ht => by simp [ht]) _ h

@[simp] theorem wf_execBlockParkComplete (h : s.Wf) : OutcomeWf (execBlockParkComplete s) := by
  unfold execBlockParkComplete
  split
  · simp [h]
  · split
    · extract_lets +onlyGivenNames others last faulted later
      split
      · simp [h]
      · split
        · simp [h]
        · extract_lets +onlyGivenNames s0 b0 b1 s1
          have hs0 : s0.Wf := wf_foldl (fun t a ht => by simp [ht]) _ h
          have hs1 : s1.Wf := by simp [s1, hs0]
          simp [hs1]
    · simp [h]

@[simp] theorem wf_renameBlk (h : s.Wf) (adm core bctx : Nat) (old : Nat × Nat) : (s.renameBlk adm core bctx old).Wf :=
    h

@[simp] theorem wf_moveBlk (h : s.Wf) (old : Nat × Nat) (b : Blk) (core bctx : Nat) : (s.moveBlk old b core bctx).Wf := by
  unfold State.moveBlk
  extract_lets +onlyGivenNames refs banks from' to' held moved k1 k2 s1 s2 s3 s4 at' s5
  have hs1 : s1.Wf := by simp [s1, h]
  have hs2 : s2.Wf := by simp [s2, hs1]
  have hs3 : s3.Wf := by simp [s3, hs2]
  have hs4 : s4.Wf := by simp [s4, hs3]
  have hs5 : s5.Wf := by simp [s5, hs4]
  simp [hs5]

@[simp] theorem wf_moveMember (h : s.Wf) (g : Gang) (m : Nat × Nat × Blk) : (s.moveMember g m).Wf := by
  unfold State.moveMember
  extract_lets +onlyGivenNames able core
  clear_value core
  split
  · exact h
  · split
    · simp [h]
    · extract_lets +onlyGivenNames bctx s1
      have h1 : s1.Wf := by simp [s1, h]
      split
      · exact wf_gangDecided h1 ..
      · exact h1

@[simp] theorem wf_reside (h : s.Wf) (g : Gang) : (s.reside g).Wf := by
  unfold State.reside
  extract_lets +onlyGivenNames fresh s1 s2
  have hs1 : s1.Wf := by
    dsimp -zeta only [s1]
    apply wf_foldl
    · intro t a ht
      exact ht
    · exact h
  have hs2 : s2.Wf := by simp [s2, hs1]
  simp [hs2]

@[simp] theorem wf_nextOut (h : s.Wf) (kept : List Nat) (l : List Gang) : (s.nextOut kept l).Wf := by
  induction l generalizing s kept with
  | nil => exact h
  | cons g rest ih =>
    unfold State.nextOut
    extract_lets +onlyGivenNames cores
    split
    · exact ih h _
    · split
      · exact ih h _
      · exact ih (wf_makeRoom h g) _

@[simp] theorem wf_forcedPark (h : s.Wf) (cluster : Nat) : (s.forcedPark cluster).Wf := by
  unfold State.forcedPark; split <;> simp [h]

@[simp] theorem wf_execGangMakeResident (h : s.Wf) : OutcomeWf (execGangMakeResident s) := by
  unfold execGangMakeResident
  extract_lets +onlyGivenNames ws moves
  clear_value moves
  split
  · exact h
  · split
    · exact wf_moveMember h ..
    · split
      · exact wf_reside h ..
      · simp [h]

@[simp] theorem wf_resumeParty (h : s.Wf) (core bctx w : Nat) : (s.resumeParty core bctx w).Wf := by
  unfold State.resumeParty
  repeat' split
  all_goals simp [h]

@[simp] theorem wf_wakeBlock (h : s.Wf) (b : Blk) : (s.wakeBlock b).Wf := by
  unfold State.wakeBlock
  exact wf_foldl (fun t a ht => by simp [ht]) _ h

@[simp] theorem wf_resume (h : s.Wf) (core bctx : Nat) (b : Blk) : (s.resume core bctx b).Wf := by
  unfold State.resume
  extract_lets +onlyGivenNames b1 s1 s2
  have hs1 : s1.Wf := by simp [s1, h]
  have hs2 : s2.Wf := by
    dsimp -zeta only [s2]
    apply wf_foldl
    · intro t a ht
      exact ht
    · exact hs1
  split
  · exact hs2
  · exact wf_foldl (fun t a ht => by simp [ht]) _ hs2

@[simp] theorem wf_execBlockRestore (h : s.Wf) : OutcomeWf (execBlockRestore s) := by
  unfold execBlockRestore
  split
  · simp [h]
  · dsimp -zeta only
    split
    · simp [h]
    · split
      · simp [h]
      · split
        · simp [h]
        · extract_lets +onlyGivenNames b1
          rw [outcomeWf_next]
          apply wf_bump
          simp [h]

@[simp] theorem wf_countTick (h : s.Wf) : s.countTick.Wf := by
  unfold State.countTick; simp [h]

/-! #### What Machine/Debug leaves canonical -/

@[simp] theorem wf_imemError (h : s.Wf) (core bctx w : Nat) : (s.imemError core bctx w).Wf := by
  unfold State.imemError
  split
  · exact h
  · split
    · exact h
    · split
      · exact h
      · extract_lets +onlyGivenNames l
        split
        · exact h
        · apply wf_service
          simp [h]

@[simp] theorem wf_eccPool (h : s.Wf) (core bctx w row : Nat) : (s.eccPool core bctx w row).Wf := by
  unfold State.eccPool
  split
  · exact h
  · split
    · exact h
    · split
      · exact h
      · split
        · exact h
        · extract_lets +onlyGivenNames t1 b1
          apply wf_service
          apply wf_bump
          simp [h]

@[simp] theorem wf_execClauseIssue (h : s.Wf) : OutcomeWf (execClauseIssue s) := by
  unfold execClauseIssue
  dsimp -zeta only
  extract_lets +onlyGivenNames able
  repeat' split
  all_goals simp [h]

@[simp] theorem wf_execAsyncTrapDeliver (h : s.Wf) : OutcomeWf (execAsyncTrapDeliver s) := by
  unfold execAsyncTrapDeliver
  dsimp -zeta only
  split <;> simp [h]

@[simp] theorem wf_flushTrace (h : s.Wf) (source : Nat) : (s.flushTrace source).Wf := by
  unfold State.flushTrace
  split
  · exact h
  · exact wf_foldl (fun t a ht => by simp [ht]) _ h

@[simp] theorem wf_flushTraces (h : s.Wf) : s.flushTraces.Wf := by
  unfold State.flushTraces
  exact wf_foldl (fun t a ht => by simp [ht]) _ h

@[simp] theorem wf_series (h : s.Wf) (island : Nat) : (s.series island).Wf := by
  unfold State.series; simp [h]

@[simp] theorem wf_execTraceSeriesLatch (h : s.Wf) : OutcomeWf (execTraceSeriesLatch s) := by
  unfold execTraceSeriesLatch
  split
  · simp [h]
  · extract_lets +onlyGivenNames s1
    have hs1 : s1.Wf := wf_foldl (fun t a ht => by simp [ht]) _ h
    simp [hs1]

@[simp] theorem wf_sample (h : s.Wf) (core bctx : Nat) (b : Blk) : (s.sample core bctx b).Wf := by
  unfold State.sample
  split
  · exact h
  · extract_lets +onlyGivenNames t
    split <;> simp [h]

@[simp] theorem wf_execCriticalPathSample (h : s.Wf) : OutcomeWf (execCriticalPathSample s) := by
  unfold execCriticalPathSample
  split
  · simp [h]
  · extract_lets +onlyGivenNames s1
    have hs1 : s1.Wf := wf_foldl (fun t a ht => by simp [ht]) _ h
    simp [hs1]

@[simp] theorem wf_deliverLogged (h : s.Wf) (port : Nat) (e : DWord) : (s.deliverLogged port e).Wf := by
  unfold State.deliverLogged
  extract_lets +onlyGivenNames agent
  split
  · exact h
  · split
    · exact h
    · extract_lets +onlyGivenNames m
      repeat' split
      all_goals simp [h]

@[simp] theorem wf_execReplayMessageTimeout (h : s.Wf) : OutcomeWf (execReplayMessageTimeout s) := by
  unfold execReplayMessageTimeout
  extract_lets +onlyGivenNames agent
  split <;> simp [h]

@[simp] theorem wf_execReplayPayloadDelivery (h : s.Wf) : OutcomeWf (execReplayPayloadDelivery s) := by
  unfold execReplayPayloadDelivery
  extract_lets +onlyGivenNames agent
  repeat' split
  all_goals simp [h]

/-! #### What Machine/LaneFloat leaves canonical -/

@[simp] theorem wf_retireFp (h : s.Wf) (c : Cur) (bad : Word) (flags : BitVec 5) : (s.retireFp c bad flags).Wf := by
  unfold State.retireFp
  split
  · simp [h]
  · extract_lets +onlyGivenNames s1
    have hs1 : s1.Wf := by simp [s1, h]
    repeat' split
    all_goals simp [hs1]

@[simp] theorem wf_laneFp (h : s.Wf) (i : Instr) (w : LaneW) (r : Cur → Blk → Thr → Nat → FRes) (put : Thr → Word → (Nat → Nat) → Thr) :
    OutcomeWf (laneFp i w s r put) := by
  unfold laneFp
  apply wf_laneWordOp
  · exact h
  · intro y0 y1 y2 y3
    extract_lets +onlyGivenNames res bad ok s1 t1
    have hs1 : s1.Wf := by simp [s1, h]
    simp [hs1]

@[simp] theorem wf_lane2f (h : s.Wf) (i : Instr) (w : LaneW) (f : Dir → Nat → Nat → FRes) : OutcomeWf (lane2f i w s f) := by
  unfold lane2f; simp [h]

@[simp] theorem wf_lane2d (h : s.Wf) (i : Instr) (w : LaneW) (f : Dir → Nat → Nat → FRes) : OutcomeWf (lane2d i w s f) := by
  unfold lane2d; simp [h]

@[simp] theorem wf_execFfma3 (h : s.Wf) (w : LaneW) (x : SrcX) : OutcomeWf (execFfma3 w x s) := by
  unfold execFfma3; simp [h]

@[simp] theorem wf_laneSign (h : s.Wf) (i : Instr) (w : LaneW) (f32 : Word → Word → Word) (f64 : DWord → DWord → DWord) : OutcomeWf
    (laneSign i w s f32 f64) := by
  unfold laneSign; simp [h]

@[simp] theorem wf_laneFcmp (h : s.Wf) (i : Instr) (w : LaneW) (f : Fmt) (a b : LaneW → Thr → Blk → Nat → Nat) : OutcomeWf
    (laneFcmp i w s f a b) := by
  unfold laneFcmp; simp [h]

@[simp] theorem wf_laneToInt (h : s.Wf) (i : Instr) (w : LaneW) (signed : Bool) : OutcomeWf (laneToInt i w s signed) := by
  unfold laneToInt; simp [h]

@[simp] theorem wf_laneFromInt (h : s.Wf) (i : Instr) (w : LaneW) (signed : Bool) : OutcomeWf (laneFromInt i w s signed) := by
  unfold laneFromInt; simp [h]

@[simp] theorem wf_execCvtff (h : s.Wf) (w : LaneW) (x : SrcX) : OutcomeWf (execCvtff w x s) := by
  unfold execCvtff; simp [h]

@[simp] theorem wf_execPack8 (h : s.Wf) (w : LaneW) (x : SrcX) : OutcomeWf (execPack8 w x s) := by
  unfold execPack8; simp [h]

@[simp] theorem wf_execUnpack8 (h : s.Wf) (w : LaneW) (x : SrcX) : OutcomeWf (execUnpack8 w x s) := by
  unfold execUnpack8; simp [h]

@[simp] theorem wf_lane2h (h : s.Wf) (i : Instr) (w : LaneW) (f : Dir → Nat → Nat → FRes) : OutcomeWf (lane2h i w s f) := by
  unfold lane2h; simp [h]

@[simp] theorem wf_lane3h (h : s.Wf) (i : Instr) (w : LaneW) (f : Fmt) : OutcomeWf (lane3h i w s f) := by
  unfold lane3h; simp [h]

/-! #### What Machine/LaneInt leaves canonical -/

@[simp] theorem wf_execFshl (h : s.Wf) (w : LaneW) (x : SrcX) : OutcomeWf (execFshl w x s) := by
  unfold execFshl; simp [h]

@[simp] theorem wf_laneCmp (h : s.Wf) (i : Instr) (w : LaneW) (val32 : Word → ℤ) (val64 : DWord → ℤ) : OutcomeWf
    (laneCmp i w s val32 val64) := by
  unfold laneCmp; simp [h]

/-! #### What Machine/Sfu leaves canonical -/

@[simp] theorem wf_sendSfu (h : s.Wf) (c : Cur) (b : Blk) (vd : Nat) (ok : Word) (v : Nat → Nat) (bank : Option Nat) :
    (s.sendSfu c b vd ok v bank).Wf := by
  unfold State.sendSfu; simp [h]

@[simp] theorem wf_laneSfu (h : s.Wf) (i : Instr) (w : LaneW) (fn : SfuFn) : OutcomeWf (laneSfu i w s fn) := by
  unfold laneSfu
  apply wf_laneWordOp
  · exact h
  · intro y0 y1 y2 y3
    extract_lets +onlyGivenNames res bad ok s1 s2
    have hs1 : s1.Wf := by simp [s1, h]
    have hs2 : s2.Wf := by simp [s2, hs1]
    simp [hs2]

@[simp] theorem wf_execTbleval (h : s.Wf) (w : LaneW) : OutcomeWf (execTbleval w s) := by
  unfold execTbleval
  apply wf_laneWordOp
  · exact h
  · intro y0 y1 y2 y3
    extract_lets +onlyGivenNames k issuer
    split
    · simp [h]
    · split
      · exact h
      · split
        · simp [h]
        · split
          · simp [h]
          · extract_lets +onlyGivenNames res bad ok s1 s2 s3
            have hs1 : s1.Wf := by simp [s1, h]
            have hs2 : s2.Wf := by simp [s2, hs1]
            have hs3 : s3.Wf := by simp [s3, hs2]
            simp [hs3]

@[simp] theorem wf_execSpecialFunctionResult (h : s.Wf) : OutcomeWf (execSpecialFunctionResult s) := by
  unfold execSpecialFunctionResult
  rw [outcomeWf_next]
  split
  · exact h
  · extract_lets +onlyGivenNames s1 s2
    have hs1 : s1.Wf := by simp [s1, h]
    extract_lets +onlyGivenNames s21
    have hs21 : s21.Wf := by
      dsimp -zeta only [s21]
      split <;> simp [hs1]
    split <;> simp [hs21]

/-! #### What Machine/Table leaves canonical -/

@[simp] theorem wf_execTblload (h : s.Wf) (w : LaneW) : OutcomeWf (execTblload w s) := by
  unfold execTblload
  apply wf_laneWordOp
  · exact h
  · intro y0 y1 y2 y3
    extract_lets +onlyGivenNames priv va k
    split
    · simp [h]
    · dsimp -zeta only
      extract_lets +onlyGivenNames bad
      split
      · simp [h]
      · dsimp -zeta only [bad]
        simp [h]
      · dsimp -zeta only [bad]
        simp [h]
      · extract_lets +onlyGivenNames rs
        split
        · exact h
        · split
          · simp [h]
          · extract_lets +onlyGivenNames gen fill s1
            have hs1 : s1.Wf := wf_foldl (fun t a ht => by simp [ht]) _ h
            apply wf_retire
            apply wf_addReqs
            simp [hs1]

@[simp] theorem wf_execTblloadFillComplete (h : s.Wf) : OutcomeWf (execTblloadFillComplete s) := by
  unfold execTblloadFillComplete
  extract_lets +onlyGivenNames core k freed
  repeat' split
  all_goals simp [h]

/-! #### What Machine/Dispatch leaves canonical -/

@[simp] theorem wf_exec (h : s.Wf) (i : Instr) : OutcomeWf (exec i s) := by
  cases i
  case mma | mmai | mstore | mload =>
    simp [exec, h, execMma, execMmai, execMstore, execMload]
  case nop | rep | smov | sadd | ssub | smul | sand | sor | sxor | sshl | sshr | ssar | smin | smax | sld | sst =>
    simp [exec, h, execNop, execRep, execSmov, execSadd, execSsub, execSmul, execSand, execSor, execSxor, execSshl, execSshr,
      execSsar, execSmin, execSmax, execSld, execSst]
  case bra | sbr | brx | ret | setmrLabel | setmrRegister | loopbrk | trap | bkpt | yield =>
    simp [exec, h, execBra, execSbr, execBrx, execRet, execSetmrLabel, execSetmrRegister, execLoopbrk, execTrap, execBkpt,
      execYield]
  case fadd | fsub | fmul | ffma | fldexp | fmin | fmax | fminnum | fmaxnum | fabs | fneg | fcmp | dcmp | fclass | frnd | fgetexp
      | cvtfi | cvtfu | cvtif | cvtuf | cvtdf | cvtfd | hadd2 | hmul2 | hfma2 | badd2 | bmul2 | bfma2 | dadd | dmul | dfma | dmin
      | dmax =>
    simp [exec, h, execFadd, execFsub, execFmul, execFfma, execFldexp, execFmin, execFmax, execFminnum, execFmaxnum, execFabs,
      execFneg, execFcmp, execDcmp, execFclass, execFrnd, execFgetexp, execCvtfi, execCvtfu, execCvtif, execCvtuf, execCvtdf,
      execCvtfd, execHadd2, execHmul2, execHfma2, execBadd2, execBmul2, execBfma2, execDadd, execDmul, execDfma, execDmin,
      execDmax]
  case iadd | isub | iadds | isubs | iaddus | isubus | imul | imulh | imulhu | imin | imax | iminu | imaxu | and | or | xor | andn
      | orn | shl | shr | sar | rotl | clmul | clmulh | mov | ineg | iabs | popc | clz | ctz | brev | imad | idot4 | idot4u |
      permb | iadd64 | isub64 | imadw | lea | bfe | bfeu | bfi | sxt | zxt | icmp | icmpu | plog | sel | movpToRegister |
      movpToPredicates =>
    simp [exec, h, execIadd, execIsub, execIadds, execIsubs, execIaddus, execIsubus, execImul, execImulh, execImulhu, execImin,
      execImax, execIminu, execImaxu, execAnd, execOr, execXor, execAndn, execOrn, execShl, execShr, execSar, execRotl, execClmul,
      execClmulh, execMov, execIneg, execIabs, execPopc, execClz, execCtz, execBrev, execImad, execIdot4, execIdot4u, execPermb,
      execIadd64, execIsub64, execImadw, execLea, execBfe, execBfeu, execBfi, execSxt, execZxt, execIcmp, execIcmpu, execPlog,
      execSel, execMovpToRegister, execMovpToPredicates]
  case frcp | frsq | fsqrt | fexp2 | flog2 | fsinpi | fcospi | ftanh =>
    simp [exec, h, execFrcp, execFrsq, execFsqrt, execFexp2, execFlog2, execFsinpi, execFcospi, execFtanh]
  all_goals simp [exec, h]

/-! #### What Machine/Engine leaves canonical -/

@[simp] theorem wf_openCycle (h : s.Wf) (pre : State) (c : Cur) (i : Instr) : (s.openCycle pre c i).Wf := by
  unfold State.openCycle; split <;> simp [h]

@[simp] theorem wf_streamsGone (h : s.Wf) : s.streamsGone.Wf := by
  unfold State.streamsGone
  apply wf_foldl
  · intro t a ht
    apply wf_foldl
    · intro t1 a1 ht1
      simp [ht1]
    · exact ht
  · exact h

@[simp] theorem wf_markReady (h : s.Wf) : s.markReady.Wf := h

@[simp] theorem wf_passTick (h : s.Wf) : s.passTick.Wf := by
  unfold State.passTick
  apply wf_markReady
  apply wf_replayTick
  apply wf_markStuck
  apply wf_countTick
  apply wf_gangsParked
  simp [h]

/-! #### What Machine/Step leaves canonical -/

@[simp] theorem wf_afterWord {r : Host.Outcome State Fault Refusal} (hr : OutcomeWf r) (c : Cur) (pre : Thr) : OutcomeWf
    (afterWord c pre r) := by
  cases r with
  | next s =>
    have hs : s.Wf := outcomeWf_next.1 hr
    simp [afterWord, hs]
  | fault f => exact outcomeWf_fault f
  | refused f => exact outcomeWf_refused f

@[simp] theorem wf_issueLatched (h : s.Wf) (c : Cur) (d : Except Reject (Instr × Nat)) (pre : Thr) : OutcomeWf
    (issueLatched c d pre s) := by
  unfold issueLatched
  repeat' split
  all_goals simp [h]

@[simp] theorem wf_settled {pre : State} (hpre : pre.Wf) {r : Host.Outcome State Fault Refusal} (hr : OutcomeWf r) : OutcomeWf
    (settled pre r) := by
  cases r with
  | next s => exact outcomeWf_next.2 (wf_settle hpre (outcomeWf_next.1 hr))
  | fault f => exact outcomeWf_fault f
  | refused f => exact outcomeWf_refused f

@[simp] theorem wf_turnNoted {held live : Host.Outcome State Fault Refusal} (hr : OutcomeWf held) (c : Cur) (pre : Thr) : OutcomeWf
    (turnNoted c pre held live) := by
  unfold turnNoted
  split
  · exact outcomeWf_next.2 (wf_noteTurn (outcomeWf_next.1 hr) ..)
  · exact hr

@[simp] theorem wf_stepParty (h : s.Wf) (core bctx w : Nat) : OutcomeWf (stepParty s core bctx w) := by
  unfold stepParty
  split
  · exact h
  · split
    · rename_i s1 he
      have h1 : s1.Wf := wf_of_eq (wf_enter h ..) he
      exact wf_settled h (outcomeWf_next.2 (wf_noteStep h1 ..))
    · rename_i s1 he
      have h1 : s1.Wf := wf_of_eq (wf_enter h ..) he
      split
      · exact h1
      · rename_i pre _ c d _
        extract_lets +onlyGivenNames r
        have hr : OutcomeWf r := wf_settled h1 (wf_issueLatched h1 ..)
        split
        · exact wf_turnNoted hr ..
        · clear_value r
          split
          · exact wf_openCycle hr ..
          · exact hr

theorem wf_stepPartner (h : s.Wf) (k : Cycle) (w : Nat) {r : Host.Outcome State Fault Refusal}
    (hr : stepPartner s k w = some r) : OutcomeWf r := by
  unfold stepPartner at hr
  split at hr
  · rename_i pre s1 _ he
    have h1 : s1.Wf := wf_of_eq (wf_enter h ..) he
    split at hr
    · split at hr
      · cases hr
      · split at hr
        · rename_i u hu
          have h2 : u.Wf := (wf_issueLatched (wf_setBlk h1 ..) ..).next hu
          cases hr
          apply outcomeWf_next.2
          split <;> simp [h2]
        · cases hr
    · cases hr
  · cases hr

@[simp] theorem wf_step (h : s.Wf) : OutcomeWf (step s) := by
  unfold step
  split
  · exact wf_exec h _
  · extract_lets +onlyGivenNames s1 s2
    have h2 : s2.Wf := wf_passTick h
    clear_value s2
    clear s1
    split
    · exact wf_settled (by exact h2) (wf_exec (by exact h2) _)
    · split
      · rename_i r hr
        obtain ⟨p, -, hp⟩ := Option.bind_eq_some_iff.1 hr
        exact wf_stepPartner h2 _ _ hp
      · split
        · exact wf_stepParty h2 ..
        · extract_lets +onlyGivenNames s3
          have h3 : s3.Wf := h2
          split
          · exact wf_settled (by exact h3) (wf_exec (by exact h3) _)
          · split
            · exact wf_stepParty h3 ..
            · exact h3

end

/-- Settles O38: the state is canonical after `step` because it is after each of the functions that `step` calls. -/
theorem stepKeepsMemoryForm : Obligations.StepKeepsMemoryForm := fun _ _ h e => (wf_step h).next e

end Sys2Proof.Machine
end

section
/-! Every step keeps the numbers of ports, channels, barriers, predicates, loop levels and lanes, and the order of the blocks (O39).
As for the form of memory, each function of the model that hands on a state has one lemma, a `simp` rule, in the model's own order; a
function that takes a block or a party keeps shaped what the one it is given lets it. -/

namespace Sys2Proof.Machine

/-! ### The shape of each part -/

/-- A party has seven stored predicates, three loop levels, four trap scratch registers and at most 32 lanes (R169, R156, R280). -/
def Thr.Shaped (t : Thr) : Prop :=
  t.preds.length = 7 ∧ t.loops.length = 3 ∧ t.tscr.length = 4 ∧ t.lanes.length ≤ 32

/-- Every party listed is shaped. -/
def ThrsShaped (m : NMap Thr) : Prop := ∀ p ∈ m, p.2.Shaped

/-- A block has sixteen barriers and shaped parties (R156). -/
def Blk.Shaped (b : Blk) : Prop := b.bars.length = 16 ∧ ThrsShaped b.thrs

/-- Every block listed is shaped, and each block context is listed once, in rising order. -/
def BlksShaped (m : NMap Blk) : Prop := (m.map fun p => p.1).Pairwise (fun x y => x < y) ∧ ∀ p ∈ m, p.2.Shaped

/-- Every port has four virtual channels (R15). -/
def PortsShaped (l : List VPort) : Prop := l.length = 24 ∧ ∀ p ∈ l, p.vcs.length = 4

/-- There are two host links (R23). -/
def Dev.Shaped (d : Dev) : Prop := d.hostWidth.length = 2

/-- There are 24 ports of four channels, two host links, and shaped blocks in rising order. -/
def State.Shaped (s : State) : Prop := PortsShaped s.links.ports ∧ s.dev.Shaped ∧ BlksShaped s.blks

theorem shaped_iff_rules (s : State) : s.Shaped ↔ Rules.Shaped s := by
  simp only [State.Shaped, PortsShaped, Dev.Shaped, BlksShaped, Blk.Shaped, ThrsShaped, Thr.Shaped, Rules.Shaped, and_assoc]

/-! ### Records -/

@[simp] theorem thr_mk_shaped (lanes preds frm srSeed srCnt poolb lseq cpystat tokens loops rows rowSeed empty marks stage tcause tpc tnpc
    taddr tmask tword tsite tscr trapQ handling asyncQ lost tagRec hits arrive arrived waited since turned copyStall lastLane terminated) :
    Thr.Shaped ⟨lanes, preds, frm, srSeed, srCnt, poolb, lseq, cpystat, tokens, loops, rows, rowSeed, empty, marks, stage, tcause, tpc,
      tnpc, taddr, tmask, tword, tsite, tscr, trapQ, handling, asyncQ, lost, tagRec, hits, arrive, arrived, waited, since, turned,
      copyStall, lastLane, terminated⟩ ↔ preds.length = 7 ∧ loops.length = 3 ∧ tscr.length = 4 ∧ lanes.length ≤ 32 := Iff.rfl

@[simp] theorem blk_mk_shaped (adm info stat s sEmpty sWriter q bars tileRefs spad spadSeed spadPoison spadBanks spadAt scaleCol accCtx
    thrs svc wdog wdogAt halted stepping tokenHolder tokenEdge startAt failed parkReason stuckSince imgSeed) :
    Blk.Shaped ⟨adm, info, stat, s, sEmpty, sWriter, q, bars, tileRefs, spad, spadSeed, spadPoison, spadBanks, spadAt, scaleCol, accCtx,
      thrs, svc, wdog, wdogAt, halted, stepping, tokenHolder, tokenEdge, startAt, failed, parkReason, stuckSince, imgSeed⟩ ↔
      bars.length = 16 ∧ ThrsShaped thrs := Iff.rfl

@[simp] theorem state_mk_shaped
    (x1 x2 x3 x4 x5 x6 x7 x8 x9 x10 d l x13 x14 x15 x16 x17 x18 x19 x20 x21 x22 x23 b x25 x26 x27 x28 x29 x30 x31 x32) :
    State.Shaped ⟨x1, x2, x3, x4, x5, x6, x7, x8, x9, x10, d, l, x13, x14, x15, x16, x17, x18, x19, x20, x21, x22, x23, b, x25, x26, x27,
      x28, x29, x30, x31, x32⟩ ↔ PortsShaped l.ports ∧ d.Shaped ∧ BlksShaped b := Iff.rfl

@[simp] theorem dev_mk_shaped (stage fwFail clusterUp stackUp hearth1Up capUp capBytes host1Up hostWidth ideKeys priOff priAlloc fwBusy
    fwResult fwReason fwAddr fwLen fw bar2Base hostAtom islandPoint overLimit throttle clearSince activeCore standby spdmSession boots) :
    Dev.Shaped ⟨stage, fwFail, clusterUp, stackUp, hearth1Up, capUp, capBytes, host1Up, hostWidth, ideKeys, priOff, priAlloc, fwBusy,
      fwResult, fwReason, fwAddr, fwLen, fw, bar2Base, hostAtom, islandPoint, overLimit, throttle, clearSince, activeCore, standby,
      spdmSession, boots⟩ ↔ hostWidth.length = 2 := Iff.rfl

@[simp] theorem thr_fields_shaped (t : Thr) :
    (t.preds.length = 7 ∧ t.loops.length = 3 ∧ t.tscr.length = 4 ∧ t.lanes.length ≤ 32) ↔ t.Shaped := Iff.rfl

@[simp] theorem blk_fields_shaped (b : Blk) : (b.bars.length = 16 ∧ ThrsShaped b.thrs) ↔ b.Shaped := Iff.rfl

@[simp] theorem state_fields_shaped (s : State) : (PortsShaped s.links.ports ∧ s.dev.Shaped ∧ BlksShaped s.blks) ↔ s.Shaped := Iff.rfl

@[simp] theorem dev_fields_shaped (d : Dev) : d.hostWidth.length = 2 ↔ d.Shaped := Iff.rfl

namespace State.Shaped
variable {s : State} (h : s.Shaped)
include h
@[simp] theorem ports : PortsShaped s.links.ports := h.1
@[simp] theorem dev : s.dev.Shaped := h.2.1
@[simp] theorem blks : BlksShaped s.blks := h.2.2
end State.Shaped

namespace Thr.Shaped
variable {t : Thr} (h : t.Shaped)
include h
@[simp] theorem preds : t.preds.length = 7 := h.1
@[simp] theorem loops : t.loops.length = 3 := h.2.1
@[simp] theorem tscr : t.tscr.length = 4 := h.2.2.1
@[simp] theorem lanes : t.lanes.length ≤ 32 := h.2.2.2
end Thr.Shaped

@[simp] theorem thr_shaped_ite {p : Prop} [Decidable p] {t u : Thr} : (if p then t else u).Shaped ↔ if p then t.Shaped else u.Shaped := by
  split <;> rfl

@[simp] theorem blk_shaped_ite {p : Prop} [Decidable p] {b c : Blk} : (if p then b else c).Shaped ↔ if p then b.Shaped else c.Shaped := by
  split <;> rfl

theorem thr_shaped_foldl {α : Type} {f : Thr → α → Thr} (hf : ∀ t a, (f t a).Shaped ↔ t.Shaped) (l : List α) (t : Thr) :
    (l.foldl f t).Shaped ↔ t.Shaped := by
  induction l generalizing t with
  | nil => rfl
  | cons a l ih => exact (ih _).trans (hf t a)

theorem blk_shaped_foldl {α : Type} {f : Blk → α → Blk} (hf : ∀ b a, (f b a).Shaped ↔ b.Shaped) (l : List α) (b : Blk) :
    (l.foldl f b).Shaped ↔ b.Shaped := by
  induction l generalizing b with
  | nil => rfl
  | cons a l ih => exact (ih _).trans (hf b a)

/-! ### Parties and blocks read and written -/

theorem mem_of_nget {α : Type} {m : NMap α} {k : Nat} {x : α} (h : nget m k = some x) : (k, x) ∈ m := by
  induction m with
  | nil => cases h
  | cons p m ih =>
    obtain ⟨j, y⟩ := p
    unfold nget at h
    split at h
    · cases h
      subst_vars
      exact List.mem_cons_self ..
    · exact List.mem_cons_of_mem _ (ih h)

theorem mem_nput {α : Type} {m : NMap α} {k : Nat} {v : α} {p : Nat × α} (h : p ∈ nput k v m) : p = (k, v) ∨ p ∈ m := by
  induction m with
  | nil => exact .inl (List.mem_singleton.1 h)
  | cons q m ih =>
    unfold nput at h
    split at h
    · exact List.mem_cons.1 h
    · split at h
      · exact (List.mem_cons.1 h).imp_right (List.mem_cons_of_mem _)
      · obtain rfl | h := List.mem_cons.1 h
        · exact .inr (List.mem_cons_self ..)
        · exact (ih h).imp_right (List.mem_cons_of_mem _)

theorem mem_of_ndel {α : Type} {m : NMap α} {k : Nat} {p : Nat × α} (h : p ∈ ndel k m) : p ∈ m := by
  induction m with
  | nil => exact h
  | cons q m ih =>
    unfold ndel at h
    split at h
    · exact List.mem_cons_of_mem _ (ih h)
    · obtain rfl | h := List.mem_cons.1 h
      · exact List.mem_cons_self ..
      · exact List.mem_cons_of_mem _ (ih h)

/-- Writing at an index keeps indices rising. -/
theorem keys_nput {α : Type} {m : NMap α} (h : (m.map fun p => p.1).Pairwise (fun x y => x < y)) (k : Nat) (v : α) :
    ((nput k v m).map fun p => p.1).Pairwise (fun x y => x < y) := by
  induction m with
  | nil => simp [nput]
  | cons q m ih =>
    obtain ⟨j, x⟩ := q
    have hj : ∀ i ∈ m.map (fun p => p.1), j < i := (List.pairwise_cons.1 h).1
    have hm := (List.pairwise_cons.1 h).2
    unfold nput
    split
    · rename_i hk
      exact List.pairwise_cons.2 ⟨fun i hi => by
        obtain rfl | hi := List.mem_cons.1 hi
        · exact hk
        · exact hk.trans (hj i hi), h⟩
    · split
      · subst_vars
        exact List.pairwise_cons.2 ⟨hj, hm⟩
      · refine List.pairwise_cons.2 ⟨fun i hi => ?_, ih hm⟩
        obtain ⟨p, hp, rfl⟩ := List.mem_map.1 hi
        obtain rfl | hp := mem_nput hp
        · exact show j < k by omega
        · exact hj _ (List.mem_map_of_mem hp)

theorem ndel_sublist {α : Type} (k : Nat) (m : NMap α) : (ndel k m).Sublist m := by
  induction m with
  | nil => exact .slnil
  | cons q m ih =>
    unfold ndel
    split
    · exact ih.cons _
    · exact ih.cons_cons _

/-- Dropping blocks keeps the others shaped. -/
theorem BlksShaped.sublist {l m : NMap Blk} (h : BlksShaped m) (hl : l.Sublist m) : BlksShaped l :=
  ⟨h.1.sublist (hl.map _), fun p hp => h.2 p (hl.subset hp)⟩

@[simp] theorem BlksShaped.filter {m : NMap Blk} (h : BlksShaped m) (f : Nat × Blk → Bool) : BlksShaped (m.filter f) :=
  h.sublist List.filter_sublist

@[simp] theorem BlksShaped.ndel {m : NMap Blk} (h : BlksShaped m) (k : Nat) : BlksShaped (ndel k m) := h.sublist (ndel_sublist k m)

@[simp] theorem BlksShaped.nput {m : NMap Blk} (h : BlksShaped m) (k : Nat) {b : Blk} (hb : b.Shaped) : BlksShaped (nput k b m) :=
  ⟨keys_nput h.1 k b, fun p hp => by
    obtain rfl | hp := mem_nput hp
    · exact hb
    · exact h.2 p hp⟩

theorem BlksShaped.nget {m : NMap Blk} (h : BlksShaped m) {k : Nat} {b : Blk} (e : nget m k = some b) : b.Shaped :=
  h.2 _ (mem_of_nget e)

theorem BlksShaped.find? {m : NMap Blk} (h : BlksShaped m) {f : Nat × Blk → Bool} {p : Nat × Blk} (e : m.find? f = some p) :
    p.2.Shaped := h.2 p (List.mem_of_find?_eq_some e)

/-- Changing the blocks in place keeps them shaped. -/
@[simp] theorem BlksShaped.map {m : NMap Blk} (h : BlksShaped m) {f : Nat × Blk → Nat × Blk}
    (hf : ∀ p, (f p).1 = p.1 ∧ (p.2.Shaped → (f p).2.Shaped)) : BlksShaped (m.map f) := by
  refine ⟨?_, fun p hp => ?_⟩
  · have : ((fun p : Nat × Blk => p.1) ∘ f) = fun p => p.1 := funext fun p => (hf p).1
    simpa only [List.map_map, this] using h.1
  · obtain ⟨q, hq, rfl⟩ := List.mem_map.1 hp
    exact (hf q).2 (h.2 q hq)

/-- Changing the ports in place keeps them shaped. -/
theorem PortsShaped.map {l : List VPort} (h : PortsShaped l) {f : VPort → VPort} (hf : ∀ p, p.vcs.length = 4 → (f p).vcs.length = 4) :
    PortsShaped (l.map f) :=
  ⟨by simpa using h.1, fun p hp => by
    obtain ⟨q, hq, rfl⟩ := List.mem_map.1 hp
    exact hf q (h.2 q hq)⟩

theorem PortsShaped.mapIdx {l : List VPort} (h : PortsShaped l) {f : Nat → VPort → VPort}
    (hf : ∀ i p, p.vcs.length = 4 → (f i p).vcs.length = 4) : PortsShaped (l.mapIdx f) :=
  ⟨by simpa using h.1, fun p hp => by
    obtain ⟨i, hi, rfl⟩ := List.mem_mapIdx.1 hp
    exact hf i _ (h.2 _ (List.getElem_mem hi))⟩

theorem mem_lmod {α : Type} {i : Nat} {f : α → α} {l : List α} {x : α} (h : x ∈ lmod i f l) : x ∈ l ∨ ∃ y ∈ l, x = f y := by
  induction l generalizing i with
  | nil => simp [lmod] at h
  | cons y l ih =>
    cases i with
    | zero =>
      obtain rfl | h := List.mem_cons.1 h
      · exact .inr ⟨y, List.mem_cons_self .., rfl⟩
      · exact .inl (List.mem_cons_of_mem _ h)
    | succ i =>
      obtain rfl | h := List.mem_cons.1 h
      · exact .inl (List.mem_cons_self ..)
      · obtain h | ⟨z, hz, rfl⟩ := ih h
        · exact .inl (List.mem_cons_of_mem _ h)
        · exact .inr ⟨z, List.mem_cons_of_mem _ hz, rfl⟩

theorem PortsShaped.lmod {l : List VPort} (h : PortsShaped l) (i : Nat) {f : VPort → VPort}
    (hf : ∀ p, p.vcs.length = 4 → (f p).vcs.length = 4) : PortsShaped (lmod i f l) :=
  ⟨by simpa using h.1, fun p hp => by
    obtain hp | ⟨q, hq, rfl⟩ := mem_lmod hp
    · exact h.2 p hp
    · exact hf q (h.2 q hq)⟩

theorem ThrsShaped.nput {m : NMap Thr} (h : ThrsShaped m) (k : Nat) {t : Thr} (ht : t.Shaped) : ThrsShaped (nput k t m) := fun p hp => by
  obtain rfl | hp := mem_nput hp
  · exact ht
  · exact h p hp

@[simp] theorem ThrsShaped.map {m : NMap Thr} (h : ThrsShaped m) {f : Nat × Thr → Nat × Thr} (hf : ∀ p, p.2.Shaped → (f p).2.Shaped) :
    ThrsShaped (m.map f) := fun p hp => by
  obtain ⟨q, hq, rfl⟩ := List.mem_map.1 hp
  exact hf q (h q hq)

namespace Blk.Shaped
variable {b : Blk} (h : b.Shaped)
include h
@[simp] theorem bars : b.bars.length = 16 := h.1
@[simp] theorem thrs : ThrsShaped b.thrs := h.2
theorem thr {w : Nat} {t : Thr} (e : b.thr? w = some t) : t.Shaped := h.2 _ (mem_of_nget e)
@[simp] theorem setThr (w : Nat) {t : Thr} (ht : t.Shaped) : (b.setThr w t).Shaped := ⟨h.1, h.2.nput w ht⟩
end Blk.Shaped

theorem State.Shaped.blk {s : State} (h : s.Shaped) {core bctx : Nat} {b : Blk} (e : s.blk? core bctx = some b) : b.Shaped :=
  h.blks.nget e

theorem State.Shaped.thr {s : State} (h : s.Shaped) {core bctx w : Nat} {t : Thr} (e : s.thr? core bctx w = some t) : t.Shaped := by
  unfold State.thr? at e
  split at e
  · exact (h.blk ‹_›).thr e
  · cases e

theorem State.Shaped.blkOf {s : State} (h : s.Shaped) {adm : Nat} {p : Nat × Blk} (e : s.blkOf adm = some p) : p.2.Shaped :=
  h.blks.find? e

theorem State.Shaped.withBlks {s : State} (h : s.Shaped) {m : NMap Blk} (hm : BlksShaped m) : State.Shaped { s with blks := m } :=
  ⟨h.ports, h.dev, hm⟩

/-! ### What it means for a result to be shaped -/

/-- The machine behind an engine's view is shaped. -/
def Eng.Shaped (e : Eng) : Prop := e.s.Shaped

/-- The next state of an outcome, if there is one, is shaped. -/
def OutcomeShaped : Host.Outcome State Fault Refusal → Prop
  | .next s => s.Shaped
  | _ => True

/-- The state in an option, if there is one, is shaped. -/
def OptionShaped : Option State → Prop
  | some s => s.Shaped
  | none => True

/-- A computation that succeeds leaves shaped the state that `g` finds in its result. -/
def ExceptShaped {ε α : Type} (g : α → State) : Except ε α → Prop
  | .ok a => (g a).Shaped
  | .error _ => True

/-- The state a table read hands on is shaped. -/
def PageNow.Shaped : PageNow → Prop
  | .leaf s _ | .wait s _ => s.Shaped

/-- The state a clause fetch hands on is shaped. -/
def Fetched.Shaped : Fetched → Prop
  | .ok s _ | .stall s | .fault s _ _ _ | .miss s _ _ => s.Shaped

/-- The state in which a fetch begins a walk is shaped. -/
def FetchAt.Shaped : FetchAt → Prop
  | .walk s => s.Shaped
  | _ => True

/-- The state after a look for a code line is shaped. -/
def CodeLine.Shaped : CodeLine → Prop
  | .ok s | .wait s => s.Shaped
  | .fault _ => True

/-- The state after an access to a control structure is shaped. -/
def CtlRes.Shaped {α : Type} : CtlRes α → Prop
  | .ok s _ | .fault s _ | .wait s _ => s.Shaped

/-- The state after the read of a queue entry is shaped. -/
def EntryRead.Shaped : EntryRead → Prop
  | .bytes s _ | .unreadable s => s.Shaped
  | .later => True

/-- The state in which a range waits for its pages is shaped. -/
def HomeRange.Shaped : HomeRange → Prop
  | .waits s _ => s.Shaped
  | _ => True

/-- The state after the read of a graph's nodes is shaped. -/
def ArmRead.Shaped : ArmRead → Prop
  | .nodes s _ | .fails s _ | .waits s _ => s.Shaped

section
variable {s : State}

@[simp] theorem outcomeShaped_next : OutcomeShaped (.next s) ↔ s.Shaped := Iff.rfl
@[simp] theorem outcomeShaped_fault (r : Fault) : OutcomeShaped (.fault r) := trivial
@[simp] theorem outcomeShaped_refused (r : Refusal) : OutcomeShaped (.refused r) := trivial
@[simp] theorem optionShaped_some : OptionShaped (some s) ↔ s.Shaped := Iff.rfl
@[simp] theorem optionShaped_none : OptionShaped none := trivial
@[simp] theorem exceptShaped_ok {ε α : Type} (g : α → State) (a : α) : ExceptShaped g (.ok a : Except ε α) ↔ (g a).Shaped := Iff.rfl
@[simp] theorem exceptShaped_pure {ε α : Type} (g : α → State) (a : α) : ExceptShaped g (pure a : Except ε α) ↔ (g a).Shaped :=
    exceptShaped_ok g a
@[simp] theorem exceptShaped_error {ε α : Type} (g : α → State) (x : ε) : ExceptShaped g (.error x : Except ε α) := trivial
@[simp] theorem pageNow_leaf_shaped (l : Leaf) : (PageNow.leaf s l).Shaped ↔ s.Shaped := Iff.rfl
@[simp] theorem pageNow_wait_shaped (p : Option Nat) : (PageNow.wait s p).Shaped ↔ s.Shaped := Iff.rfl
@[simp] theorem fetched_ok_shaped (k : Clause) : (Fetched.ok s k).Shaped ↔ s.Shaped := Iff.rfl
@[simp] theorem fetched_stall_shaped : (Fetched.stall s).Shaped ↔ s.Shaped := Iff.rfl
@[simp] theorem fetched_fault_shaped (c : Cause) (a : DWord) (hdr : Option Word) : (Fetched.fault s c a hdr).Shaped ↔ s.Shaped := Iff.rfl
@[simp] theorem fetched_miss_shaped (va : DWord) (hdr : Option Word) : (Fetched.miss s va hdr).Shaped ↔ s.Shaped := Iff.rfl
@[simp] theorem fetchAt_at_shaped (a : Nat) (p : Bool) : (FetchAt.at a p).Shaped := trivial
@[simp] theorem fetchAt_walk_shaped : (FetchAt.walk s).Shaped ↔ s.Shaped := Iff.rfl
@[simp] theorem fetchAt_miss_shaped : FetchAt.miss.Shaped := trivial
@[simp] theorem fetchAt_fault_shaped (c : Cause) : (FetchAt.fault c).Shaped := trivial
@[simp] theorem codeLine_ok_shaped : (CodeLine.ok s).Shaped ↔ s.Shaped := Iff.rfl
@[simp] theorem codeLine_wait_shaped : (CodeLine.wait s).Shaped ↔ s.Shaped := Iff.rfl
@[simp] theorem codeLine_fault_shaped (c : Cause) : (CodeLine.fault c).Shaped := trivial
@[simp] theorem ctlRes_ok_shaped {α : Type} (x : α) : (CtlRes.ok s x).Shaped ↔ s.Shaped := Iff.rfl
@[simp] theorem ctlRes_fault_shaped {α : Type} (c : Cause) : (CtlRes.fault (α := α) s c).Shaped ↔ s.Shaped := Iff.rfl
@[simp] theorem ctlRes_wait_shaped {α : Type} (p : Option Nat) : (CtlRes.wait (α := α) s p).Shaped ↔ s.Shaped := Iff.rfl
@[simp] theorem entryRead_bytes_shaped (bs : List Byte) : (EntryRead.bytes s bs).Shaped ↔ s.Shaped := Iff.rfl
@[simp] theorem entryRead_unreadable_shaped : (EntryRead.unreadable s).Shaped ↔ s.Shaped := Iff.rfl
@[simp] theorem entryRead_later_shaped : EntryRead.later.Shaped := trivial
@[simp] theorem homeRange_waits_shaped (p : Option Nat) : (HomeRange.waits s p).Shaped ↔ s.Shaped := Iff.rfl
@[simp] theorem homeRange_mapped_shaped : HomeRange.mapped.Shaped := trivial
@[simp] theorem homeRange_fails_shaped (c : Cause) : (HomeRange.fails c).Shaped := trivial
@[simp] theorem armRead_nodes_shaped (ns : List ArmNode) : (ArmRead.nodes s ns).Shaped ↔ s.Shaped := Iff.rfl
@[simp] theorem armRead_fails_shaped (c : Cause) : (ArmRead.fails s c).Shaped ↔ s.Shaped := Iff.rfl
@[simp] theorem armRead_waits_shaped (p : Option Nat) : (ArmRead.waits s p).Shaped ↔ s.Shaped := Iff.rfl

/-! What a result that has been split tells of the state in it. -/

theorem OutcomeShaped.next {o : Host.Outcome State Fault Refusal} (h : OutcomeShaped o) (e : o = .next s) : s.Shaped := by subst e; exact h
theorem OptionShaped.some {o : Option State} (h : OptionShaped o) (e : o = .some s) : s.Shaped := by subst e; exact h
theorem ExceptShaped.ok {ε α : Type} {g : α → State} {o : Except ε α} {a : α} (h : ExceptShaped g o) (e : o = .ok a) : (g a).Shaped := by
  subst e; exact h
theorem PageNow.Shaped.leaf {r : PageNow} {l : Leaf} (h : r.Shaped) (e : r = .leaf s l) : s.Shaped := by subst e; exact h
theorem PageNow.Shaped.wait {r : PageNow} {p : Option Nat} (h : r.Shaped) (e : r = .wait s p) : s.Shaped := by subst e; exact h
theorem Fetched.Shaped.ok {r : Fetched} {k : Clause} (h : r.Shaped) (e : r = .ok s k) : s.Shaped := by subst e; exact h
theorem Fetched.Shaped.stall {r : Fetched} (h : r.Shaped) (e : r = .stall s) : s.Shaped := by subst e; exact h
theorem Fetched.Shaped.fault {r : Fetched} {c : Cause} {a : DWord} {hdr : Option Word} (h : r.Shaped) (e : r = .fault s c a hdr) :
    s.Shaped := by
  subst e; exact h
theorem Fetched.Shaped.miss {r : Fetched} {a : DWord} {hdr : Option Word} (h : r.Shaped) (e : r = .miss s a hdr) : s.Shaped :=
    by subst e; exact h
theorem FetchAt.Shaped.walk {r : FetchAt} (h : r.Shaped) (e : r = .walk s) : s.Shaped := by subst e; exact h
theorem CodeLine.Shaped.ok {r : CodeLine} (h : r.Shaped) (e : r = .ok s) : s.Shaped := by subst e; exact h
theorem CodeLine.Shaped.wait {r : CodeLine} (h : r.Shaped) (e : r = .wait s) : s.Shaped := by subst e; exact h
theorem CtlRes.Shaped.ok {α : Type} {r : CtlRes α} {x : α} (h : r.Shaped) (e : r = .ok s x) : s.Shaped := by subst e; exact h
theorem CtlRes.Shaped.fault {α : Type} {r : CtlRes α} {c : Cause} (h : r.Shaped) (e : r = .fault s c) : s.Shaped := by subst e; exact h
theorem CtlRes.Shaped.wait {α : Type} {r : CtlRes α} {p : Option Nat} (h : r.Shaped) (e : r = .wait s p) : s.Shaped := by subst e; exact h
theorem EntryRead.Shaped.bytes {r : EntryRead} {bs : List Byte} (h : r.Shaped) (e : r = .bytes s bs) : s.Shaped := by subst e; exact h
theorem EntryRead.Shaped.unreadable {r : EntryRead} (h : r.Shaped) (e : r = .unreadable s) : s.Shaped := by subst e; exact h
theorem HomeRange.Shaped.waits {r : HomeRange} {p : Option Nat} (h : r.Shaped) (e : r = .waits s p) : s.Shaped := by subst e; exact h
theorem ArmRead.Shaped.nodes {r : ArmRead} {ns : List ArmNode} (h : r.Shaped) (e : r = .nodes s ns) : s.Shaped := by subst e; exact h
theorem ArmRead.Shaped.fails {r : ArmRead} {c : Cause} (h : r.Shaped) (e : r = .fails s c) : s.Shaped := by subst e; exact h
theorem ArmRead.Shaped.waits {r : ArmRead} {p : Option Nat} (h : r.Shaped) (e : r = .waits s p) : s.Shaped := by subst e; exact h

theorem shaped_of_eq {α : Type} {p : State × α} {x : α} (h : p.1.Shaped) (e : p = (s, x)) : s.Shaped := by subst e; exact h

theorem shaped_eng_of_eq {α : Type} {p : Eng × α} {e : Eng} {x : α} (h : p.1.Shaped) (he : p = (e, x)) : e.Shaped := by subst he; exact h

/-! Results under conditions, in computations and in folds. -/

@[simp] theorem eng_s_shaped_iff (e : Eng) : e.s.Shaped ↔ e.Shaped := Iff.rfl
@[simp] theorem shaped_ite {p : Prop} [Decidable p] {s t : State} : (if p then s else t).Shaped ↔ if p then s.Shaped else t.Shaped :=
    by split <;> rfl
@[simp] theorem eng_shaped_ite {p : Prop} [Decidable p] {s t : Eng} : (if p then s else t).Shaped ↔ if p then s.Shaped else t.Shaped :=
    by split <;> rfl
@[simp] theorem outcomeShaped_ite {p : Prop} [Decidable p] {x y : Host.Outcome State Fault Refusal} :
    OutcomeShaped (if p then x else y) ↔ if p then OutcomeShaped x else OutcomeShaped y := by split <;> rfl
@[simp] theorem exceptShaped_ite {ε α : Type} {g : α → State} {p : Prop} [Decidable p] {x y : Except ε α} :
    ExceptShaped g (if p then x else y) ↔ if p then ExceptShaped g x else ExceptShaped g y := by split <;> rfl

theorem exceptShaped_bind {ε α β : Type} {g : α → State} {k : β → State} {x : Except ε α} {f : α → Except ε β}
    (hx : ExceptShaped g x) (hf : ∀ a, (g a).Shaped → ExceptShaped k (f a)) : ExceptShaped k (x >>= f) := by
  cases x with
  | error e => exact exceptShaped_error k e
  | ok a => exact hf a hx

theorem exceptShaped_map {ε α β : Type} {g : α → State} {k : β → State} {x : Except ε α} {f : α → β}
    (hf : ∀ a, (g a).Shaped → (k (f a)).Shaped) (hx : ExceptShaped g x) : ExceptShaped k (x.map f) := by
  cases x with
  | error e => exact exceptShaped_error k e
  | ok a => exact (exceptShaped_ok k (f a)).2 (hf a hx)

theorem exceptShaped_foldlM {ε α β : Type} {g : β → State} {f : β → α → Except ε β}
    (hf : ∀ b a, (g b).Shaped → ExceptShaped g (f b a)) : ∀ (l : List α) (b : β), (g b).Shaped → ExceptShaped g (l.foldlM f b)
  | [], b, h => (exceptShaped_pure g b).2 h
  | a :: l, b, h => exceptShaped_bind (hf b a h) (exceptShaped_foldlM hf l)

theorem shaped_foldl {α : Type} {f : State → α → State} (hf : ∀ t a, t.Shaped → (f t a).Shaped) (l : List α) (h : s.Shaped) :
    (l.foldl f s).Shaped := by
  induction l generalizing s with
  | nil => exact h
  | cons a l ih => exact ih (hf s a h)

theorem shaped_foldl_fst {α β : Type} {f : State × β → α → State × β} (hf : ∀ t a, t.1.Shaped → (f t a).1.Shaped) (l : List α)
    {x : State × β}
    (h : x.1.Shaped) : (l.foldl f x).1.Shaped := by
  induction l generalizing x with
  | nil => exact h
  | cons a l ih => exact ih (hf x a h)

theorem shaped_foldl_eng {α : Type} {f : Eng → α → Eng} (hf : ∀ t a, t.Shaped → (f t a).Shaped) (l : List α) {e : Eng} (h : e.Shaped) :
    (l.foldl f e).Shaped := by
  induction l generalizing e with
  | nil => exact h
  | cons a l ih => exact ih (hf e a h)
end

@[simp] theorem eng_mk_shaped (s x2 x3 x4 x5 x6 x7 x8 x9 x10 x11 x12 x13) :
    Eng.Shaped ⟨s, x2, x3, x4, x5, x6, x7, x8, x9, x10, x11, x12, x13⟩ ↔ s.Shaped := Iff.rfl

section
variable {s : State} {e : Eng}

/-! #### Functions that change a party or a block -/

@[simp] theorem modLanes_shaped (t : Thr) (m : Word) (f : Lane → Lane) : (t.modLanes m f).Shaped ↔ t.Shaped := by
  unfold Thr.modLanes; simp

@[simp] theorem putRow_shaped (t : Thr) (r : Nat) (m : Word) (f : Nat → Word) : (t.putRow r m f).Shaped ↔ t.Shaped := Iff.rfl

@[simp] theorem putPair_shaped (t : Thr) (r : Nat) (m : Word) (f : Nat → DWord) : (t.putPair r m f).Shaped ↔ t.Shaped := Iff.rfl

@[simp] theorem putGroup_shaped (t : Thr) (r : Nat) (m : Word) (f : Nat → Nat) (n : Nat) : (t.putGroup r m f n).Shaped ↔ t.Shaped := by
  induction n generalizing t r f with
  | zero => rfl
  | succ n ih => exact ih ..

@[simp] theorem markEmpty_shaped (t : Thr) (rs : List Nat) : (t.markEmpty rs).Shaped ↔ t.Shaped := Iff.rfl

@[simp] theorem fill_shaped (t : Thr) (rs : List Nat) : (t.fill rs).Shaped ↔ t.Shaped := Iff.rfl

@[simp] theorem putPred_shaped (t : Thr) (n : Nat) (m : Word) (f : Nat → Bool) : (t.putPred n m f).Shaped ↔ t.Shaped := by
  unfold Thr.putPred; split <;> simp

@[simp] theorem putS_shaped (b : Blk) (n : Nat) (v : DWord) (w : Nat) : (b.putS n v w).Shaped ↔ b.Shaped := by
  unfold Blk.putS; split <;> simp

@[simp] theorem landS_shaped (b : Blk) (n : Nat) (v : DWord) : (b.landS n v).Shaped ↔ b.Shaped := by
  unfold Blk.landS; split <;> simp

@[simp] theorem putQ_shaped (b : Blk) (n : Nat) (v : Bool) : (b.putQ n v).Shaped ↔ b.Shaped := by
  unfold Blk.putQ; split <;> simp

@[simp] theorem addAsync_shaped (t : Thr) (a : ATrap) : (t.addAsync a).Shaped ↔ t.Shaped := by
  unfold Thr.addAsync; split <;> simp

@[simp] theorem writeTrapRegs_shaped (t : Thr) (r : TrapRec) : (t.writeTrapRegs r).Shaped ↔ t.Shaped := Iff.rfl

@[simp] theorem enter_shaped (t : Thr) (m : Word) (r : TrapRec) (vec : DWord) : (t.enter m r vec).Shaped ↔ t.Shaped :=
  modLanes_shaped (t.writeTrapRegs r) ..

@[simp] theorem releaseAt_shaped (core bctx : Nat) (b : Blk) (t : Thr) (m : DWord) :
    (t.releaseAt s core bctx b m).Shaped ↔ t.Shaped := by
  unfold Thr.releaseAt; split <;> simp

@[simp] theorem releaseHeld_shaped (core bctx : Nat) (b : Blk) (t : Thr) : (t.releaseHeld s core bctx b).Shaped ↔ t.Shaped :=
  thr_shaped_foldl (fun _ _ => releaseAt_shaped ..) _ t

@[simp] theorem setLoop_shaped (t : Thr) (n : Nat) (l : LoopLvl) : (t.setLoop n l).Shaped ↔ t.Shaped := by
  simp [Thr.setLoop, lset]

@[simp] theorem closeLoops_shaped (t : Thr) (n : Nat) : (t.closeLoops n).Shaped ↔ t.Shaped := by
  simp [Thr.closeLoops]

@[simp] theorem leaveLoops_shaped (t : Thr) (n : Nat) (m : Word) : (t.leaveLoops n m).Shaped ↔ t.Shaped := by
  unfold Thr.leaveLoops
  refine (thr_shaped_foldl (fun t i => ?_) _ _).trans ?_
  · split <;> simp
  · simp

@[simp] theorem loopStep_shaped (core bctx : Nat) (b : Blk) (t : Thr) (n : Nat) : (t.loopStep s core bctx b n).Shaped ↔ t.Shaped := by
  unfold Thr.loopStep
  extract_lets +onlyGivenNames lv arrived lc
  split
  · rfl
  · split
    · dsimp only
      split
      · simp
      · simp [Thr.setLoop, Thr.closeLoops, lset]
    · rfl

@[simp] theorem settle_shaped (core bctx : Nat) (b : Blk) (t : Thr) : (t.settle s core bctx b).Shaped ↔ t.Shaped := by
  unfold Thr.settle
  refine (releaseHeld_shaped ..).trans ((thr_shaped_foldl (fun _ _ => loopStep_shaped ..) _ _).trans ?_)
  simp

@[simp] theorem countWait_shaped (t : Thr) (allowed m : Word) : (t.countWait allowed m).Shaped ↔ t.Shaped := Iff.rfl

@[simp] theorem checkMeets_shaped (m : Mmu) (t : Thr) : (t.checkMeets s m).Shaped ↔ t.Shaped := by
  unfold Thr.checkMeets; split <;> simp

@[simp] theorem learnEnds_shaped (m : Mmu) (t : Thr) : (t.learnEnds s m).Shaped ↔ t.Shaped := by
  unfold Thr.learnEnds; simp

@[simp] theorem knowEnds_shaped (m : Mmu) (t : Thr) : (t.knowEnds s m).Shaped ↔ t.Shaped := by
  unfold Thr.knowEnds
  refine (thr_shaped_foldl (fun u n => ?_) _ _).trans (learnEnds_shaped ..)
  split <;> simp

@[simp] theorem leaveBodies_shaped (t : Thr) (m : Word) (pc target : DWord) : (t.leaveBodies m pc target).Shaped ↔ t.Shaped := by
  refine thr_shaped_foldl (fun u n => ?_) _ _
  dsimp only
  split <;> simp

@[simp] theorem endYield_shaped (t : Thr) : t.endYield.Shaped ↔ t.Shaped := by
  unfold Thr.endYield; split <;> simp

@[simp] theorem bumpRs_shaped (t : Thr) (m : Word) : (t.bumpRs m).Shaped ↔ t.Shaped := Iff.rfl

@[simp] theorem discardFetched_shaped (t : Thr) : t.discardFetched.Shaped ↔ t.Shaped := by
  unfold Thr.discardFetched; simp

@[simp] theorem tlMark_shaped (t : Thr) (tlv : Bool) (tl : BitVec 10) (v : DWord) : (t.tlMark tlv tl v).Shaped ↔ t.Shaped := by
  unfold Thr.tlMark; split <;> simp

@[simp] theorem mapAcc_shaped (t : Thr) (base m n : Nat) (f : Nat → Nat → Word → Word) : (t.mapAcc base m n f).Shaped ↔ t.Shaped :=
  thr_shaped_foldl (fun _ _ => putRow_shaped ..) _ _

@[simp] theorem jump_shaped (t : Thr) (c : Cur) (m : Word) (target : Nat → DWord) : (t.jump c m target).Shaped ↔ t.Shaped := by
  unfold Thr.jump; simp

@[simp] theorem blankRows_shaped (t : Thr) (seed lo n : Nat) : (t.blankRows seed lo n).Shaped ↔ t.Shaped := by
  unfold Thr.blankRows
  exact thr_shaped_foldl (fun _ _ => by simp) _ _

@[simp] theorem dropAsync_shaped (t : Thr) : t.dropAsync.Shaped ↔ t.Shaped := Iff.rfl

@[simp] theorem restored_shaped (t : Thr) : t.restored.Shaped ↔ t.Shaped := by
  unfold Thr.restored; simp

@[simp] theorem passOwn_shaped (b : Blk) (w : Nat) (waiting : LaneStat → Bool) : (b.passOwn w waiting).Shaped ↔ b.Shaped := by
  unfold Blk.passOwn; split <;> simp

@[simp] theorem spadWrite_shaped (b : Blk) (o : Nat) (bs : List Byte) : (b.spadWrite o bs).Shaped ↔ b.Shaped := by
  induction bs generalizing b o with
  | nil => rfl
  | cons x t ih => exact ih ..

@[simp] theorem spadApply_shaped (b : Blk) (r : Req) (l : List LaneOp) : (spadApply b r l).1.Shaped ↔ b.Shaped := by
  induction l generalizing b with
  | nil => rfl
  | cons o rest ih => exact (ih _).trans (spadWrite_shaped ..)

@[simp] theorem land_shaped {b : Blk} (hb : b.Shaped) (r : Req) (last : Bool) : (b.land r last).Shaped := by
  unfold Blk.land
  split
  · exact hb
  · exact hb
  · extract_lets +onlyGivenNames b1 waits
    have h1 : b1.Shaped := by
      dsimp -zeta only [b1]
      split <;> simp [hb]
    split <;> simp [h1]
  · split
    · exact hb
    · rename_i t e
      extract_lets +onlyGivenNames t1 waits
      have h1 : t1.Shaped := (thr_shaped_foldl (fun _ _ => putGroup_shaped ..) _ _).2 (hb.thr e)
      have h2 : (if last then t1.fill r.dst.regs else t1).Shaped := by simp [h1]
      exact hb.setThr _ h2

/-! #### What Machine/State keeps shaped -/

@[simp] theorem portReset_channels : VPort.reset.vcs.length = 4 := rfl

@[simp] theorem linksReset_shaped : PortsShaped Links.reset.ports :=
  ⟨rfl, fun _ hp => by rw [List.eq_of_mem_replicate hp]; rfl⟩

@[simp] theorem devReset_shaped : Dev.reset.Shaped := rfl

@[simp] theorem blks_nil_shaped : BlksShaped [] := by simp [BlksShaped]

@[simp] theorem shaped_reset : State.reset.Shaped := ⟨linksReset_shaped, devReset_shaped, blks_nil_shaped⟩

/-! #### What Machine/Memory keeps shaped -/

@[simp] theorem shaped_bump (h : s.Shaped) : s.bump.Shaped := h

@[simp] theorem shaped_emit (h : s.Shaped) (o : Out) : (s.emit o).Shaped := h

@[simp] theorem shaped_dirtied (h : s.Shaped) (a : Nat) : (s.dirtied a).Shaped := by
  unfold State.dirtied; simp [h]

@[simp] theorem shaped_poisonLine (h : s.Shaped) (line : Nat) : (s.poisonLine line).Shaped := by
  unfold State.poisonLine; simp [h]

@[simp] theorem shaped_unpoison (h : s.Shaped) (line : Nat) : (s.unpoison line).Shaped := h

@[simp] theorem shaped_setCache (h : s.Shaped) (l : List CacheLine) : (s.setCache l).Shaped := h

@[simp] theorem shaped_dropHolders (h : s.Shaped) (line : Nat) (mine : Nat → Bool) : (s.dropHolders line mine).Shaped := h

@[simp] theorem shaped_poke (h : s.Shaped) (a : Nat) (bs : List Byte) : (s.poke a bs).Shaped := by
  unfold State.poke; split <;> simp [h]

@[simp] theorem shaped_fold (h : s.Shaped) (line : Nat) : (s.fold line).Shaped := by
  unfold State.fold
  extract_lets +onlyGivenNames ps
  split
  · simp [h]
  · exact h

@[simp] theorem shaped_errRaw (h : s.Shaped) (type outcome unit addr : Nat) (loc : Word) (syn kind : Nat) :
    (s.errRaw type outcome unit addr loc syn kind).Shaped := by
  unfold State.errRaw
  split
  · exact h
  · split
    · simp [h]
    · extract_lets +onlyGivenNames ws s1
      have h1 : s1.Shaped := by
        dsimp -zeta only [s1]
        split <;> simp [h]
      simp [h1]

@[simp] theorem shaped_openLine (h : s.Shaped) (line : Nat) : (s.openLine line).Shaped := by
  unfold State.openLine; simp [h]

@[simp] theorem shaped_put (h : s.Shaped) (a : Nat) (bs : List Byte) : (s.put a bs).Shaped := by
  unfold State.put
  apply shaped_poke
  split
  · exact h
  · exact shaped_foldl (fun t i ht => by simp [ht]) _ h

@[simp] theorem shaped_pokePa (h : s.Shaped) (pa : Nat) (bs : List Byte) : (s.pokePa pa bs).Shaped := by
  unfold State.pokePa; split <;> simp [h]

@[simp] theorem shaped_openSlot (h : s.Shaped) : s.openSlot.Shaped := by
  unfold State.openSlot; split <;> simp [h]

@[simp] theorem shaped_errRecord (h : s.Shaped) (type outcome unit addr : Nat) (loc : Word) (syn kind : Nat) :
    (s.errRecord type outcome unit addr loc syn kind).Shaped := by
  unfold State.errRecord
  apply shaped_errRaw
  simp [h]

@[simp] theorem shaped_partialRecord (h : s.Shaped) (line : Nat) : (s.partialRecord line).Shaped := by
  unfold State.partialRecord; simp [h]

@[simp] theorem shaped_modCtx (h : s.Shaped) (c : Nat) (f : Ctx → Ctx) : (s.modCtx c f).Shaped := h

@[simp] theorem shaped_modSlot (h : s.Shaped) (n : Nat) (f : QSlot → QSlot) : (s.modSlot n f).Shaped := h

@[simp] theorem shaped_jrnRaw (h : s.Shaped) (type slot ctx cause : Nat) (seq : Word) (digest : DWord) :
    (s.jrnRaw type slot ctx cause seq digest).Shaped := by
  unfold State.jrnRaw; simp [h]

@[simp] theorem shaped_jrnHeads (h : s.Shaped) : s.jrnHeads.Shaped := by
  unfold State.jrnHeads
  exact shaped_foldl (fun t a ht => by simp [ht]) _ h

@[simp] theorem shaped_journal (h : s.Shaped) (type slot ctx cause : Nat) (seq : Word) (digest : DWord) :
    (s.journal type slot ctx cause seq digest).Shaped := by
  unfold State.journal; simp [h]

@[simp] theorem shaped_faultRing (h : s.Shaped) (c : Nat) (cause : Cause) (malf hostpg wpois : Bool) (kind : AccessKind) (fseq : Word)
    (va : DWord) (site : FaultSite) : (s.faultRing c cause malf hostpg wpois kind fseq va site).Shaped := by
  unfold State.faultRing; simp [h]

@[simp] theorem shaped_notice (h : s.Shaped) (c : Nat) (cause : Cause) (va pc : DWord) (lseq : Word) (core : Nat) :
    (s.notice c cause va pc lseq core).Shaped := by
  unfold State.notice; simp [h]

/-! #### What Machine/Record keeps shaped -/

@[simp] theorem shaped_setAgent (h : s.Shaped) (a : Nat) (x : Agent) : (s.setAgent a x).Shaped := h

@[simp] theorem shaped_ashRecord (h : s.Shaped) (source : Nat) (rec : List Byte) : (s.ashRecord source rec).Shaped := h

@[simp] theorem shaped_closeChunk (h : s.Shaped) (agent close : Nat) : (s.closeChunk agent close).Shaped := by
  unfold State.closeChunk; simp [h]

@[simp] theorem shaped_recordOp {s0 : State} (hs0 : s0.Shaped) (agent issuer lane obj : Nat) (modifies : Bool) (addr close : Option Nat)
    (msgs : List DWord) (more : List Nat) : (s0.recordOp agent issuer lane obj modifies addr close msgs more).Shaped := by
  unfold State.recordOp
  extract_lets +onlyGivenNames s others s1 s2 x fold y s3 s4
  have hs : s.Shaped := by simp [s, hs0]
  have hs1 : s1.Shaped := shaped_foldl (fun t a ht => by simp [ht]) _ hs
  have hs2 : s2.Shaped := by simp [s2, hs1]
  have hs3 : s3.Shaped := by simp [s3, hs2]
  extract_lets +onlyGivenNames s41
  have hs41 : s41.Shaped := by simp [s41, hs3]
  split <;> simp [hs41]

@[simp] theorem shaped_recordValue (h : s.Shaped) (agent issuer lane kind : Nat) (mask : Word) (vals : List DWord) (obj : Nat)
    (modifies : Bool) : (s.recordValue agent issuer lane kind mask vals obj modifies).Shaped := by
  unfold State.recordValue; simp [h]

@[simp] theorem shaped_recordAtrap (h : s.Shaped) (agent cause op issuer lane : Nat) (pc : DWord) (lseq : Word) :
    (s.recordAtrap agent cause op issuer lane pc lseq).Shaped := by
  unfold State.recordAtrap; simp [h]

@[simp] theorem shaped_recordPlace (h : s.Shaped) (event : Nat) (nodeId armSeq arg : Word) (cluster mask core slot ctx : Nat)
    (faulted : Bool) :
    (s.recordPlace event nodeId armSeq arg cluster mask core slot ctx faulted).Shaped := by
  unfold State.recordPlace; simp [h]

@[simp] theorem shaped_recordPayload (h : s.Shaped) (agent : Nat) (mseq : Word) (src : Nat) (data : List Byte) :
    (s.recordPayload agent mseq src data).Shaped := by
  unfold State.recordPayload; simp [h]

@[simp] theorem shaped_quietly (h : s.Shaped) (f : State → State) (hf : ∀ y0, y0.Shaped → (f y0).Shaped) : (s.quietly f).Shaped := by
  unfold State.quietly
  simp [h, hf]

@[simp] theorem shaped_breakAt (h : s.Shaped) (p : Nat × Brk) : (s.breakAt p).Shaped := h

@[simp] theorem shaped_diverge (h : s.Shaped) (agent reason op : Nat) : (s.diverge agent reason op).Shaped := by
  unfold State.diverge
  extract_lets +onlyGivenNames run
  clear_value run
  refine ⟨h.ports, h.dev, ?_⟩
  cases run
  · exact h.blks
  · exact h.blks.map fun p => by split <;> simp

@[simp] theorem shaped_replayOp (h : s.Shaped) (agent : Nat) (addr close : Option Nat) : (s.replayOp agent addr close).Shaped := by
  unfold State.replayOp; split <;> simp [h]

@[simp] theorem shaped_note (h : s.Shaped) (agent issuer lane obj : Nat) (modifies : Bool) (addr close : Option Nat) (msgs : List DWord)
    (more : List Nat) : (s.note agent issuer lane obj modifies addr close msgs more).Shaped := by
  unfold State.note
  repeat' split
  all_goals simp [h]

@[simp] theorem shaped_settle {pre : State} (hpre : pre.Shaped) {post : State} (hpost : post.Shaped) : (pre.settle post).Shaped := by
  unfold State.settle
  split
  · exact hpre
  · split
    · refine ⟨hpre.ports, hpre.dev, hpre.blks.map fun p => ?_⟩
      repeat' split
      all_goals simp
    · exact hpost

@[simp] theorem shaped_valueOf (h : s.Shaped) (agent issuer lane kind : Nat) (mask : Word) (live : List DWord) (obj : Nat)
    (modifies : Bool) :
    (s.valueOf agent issuer lane kind mask live obj modifies).1.Shaped := by
  unfold State.valueOf
  split
  · extract_lets +onlyGivenNames x
    repeat' split
    all_goals simp [h]
  · simp [h]

/-! #### What Machine/Ops keeps shaped -/

@[simp] theorem shaped_setBlk (h : s.Shaped) (core bctx : Nat) {b : Blk} (hb : b.Shaped) : (s.setBlk core bctx b).Shaped :=
  ⟨h.ports, h.dev, h.blks.nput _ hb⟩

@[simp] theorem shaped_modBlk (h : s.Shaped) (core bctx : Nat) {f : Blk → Blk} (hf : ∀ b, b.Shaped → (f b).Shaped) :
    (s.modBlk core bctx f).Shaped := by
  unfold State.modBlk
  split
  · exact shaped_setBlk h _ _ (hf _ (h.blk ‹_›))
  · exact h

@[simp] theorem shaped_modThr (h : s.Shaped) (core bctx w : Nat) {f : Thr → Thr} (hf : ∀ t, t.Shaped → (f t).Shaped) :
    (s.modThr core bctx w f).Shaped := by
  refine shaped_modBlk h _ _ fun b hb => ?_
  split
  · exact hb.setThr _ (hf _ (hb.thr ‹_›))
  · exact hb

@[simp] theorem shaped_raise (h : s.Shaped) (n : Nat) (v : DWord) : (s.raise n v).Shaped := h

@[simp] theorem shaped_giveToken (h : s.Shaped) (dst : Nat → Nat → Nat) (edge : BitVec 3) (waiting : LaneStat → Bool) :
    (s.giveToken dst edge waiting).Shaped :=
  ⟨h.ports, h.dev, h.blks.map fun p => by split <;> simp⟩

@[simp] theorem shaped_raiseOutside (h : s.Shaped) (n : Nat) (v : DWord) : (s.raiseOutside n v).Shaped := by
  unfold State.raiseOutside; simp [h]

@[simp] theorem shaped_modReq (h : s.Shaped) (id : Nat) (f : Req → Req) : (s.modReq id f).Shaped := h

@[simp] theorem shaped_failCmd (h : s.Shaped) (h1 : HCmd) (cause : Cause) : (s.failCmd h1 cause).Shaped := by
  unfold State.failCmd; simp [h]

@[simp] theorem shaped_rejectQueued (h : s.Shaped) (slot ctx : Nat) (head : Word) (n : Nat) : (s.rejectQueued slot ctx head n).Shaped := by
  induction n generalizing s head with
  | zero => exact h
  | succ n ih => exact ih (shaped_journal h ..) _

@[simp] theorem shaped_endRecord (h : s.Shaped) (h1 : HCmd) (cause : Cause) : (s.endRecord h1 cause).Shaped := by
  unfold State.endRecord; split <;> simp [h]

@[simp] theorem shaped_kill (h : s.Shaped) (c : Nat) (cause : Cause) : (s.kill c cause).Shaped := by
  unfold State.kill
  split
  · exact h
  · extract_lets +onlyGivenNames mine s1 s2
    have hs1 : s1.Shaped := shaped_foldl (fun t a ht => by simp [ht]) _ h
    have hs2 : s2.Shaped := shaped_foldl (fun t a ht => by simp [ht]) _ hs1
    exact ⟨hs2.ports, hs2.dev, hs2.blks.filter _⟩

@[simp] theorem shaped_addAsync (h : s.Shaped) (core bctx w : Nat) (a : ATrap) : (s.addAsync core bctx w a).Shaped := by
  unfold State.addAsync
  extract_lets +onlyGivenNames s1
  have hs1 : s1.Shaped := by simp [s1, h]
  repeat' split
  all_goals simp [hs1]

@[simp] theorem shaped_asyncTrap (h : s.Shaped) (core bctx w : Nat) (a : ATrap) : (s.asyncTrap core bctx w a).Shaped := by
  unfold State.asyncTrap
  split
  · exact h
  · extract_lets +onlyGivenNames live
    split <;> simp [h]

@[simp] theorem shaped_flushTag (h : s.Shaped) (core bctx w : Nat) : (s.flushTag core bctx w).Shaped := by
  unfold State.flushTag
  repeat' split
  all_goals simp [h]

@[simp] theorem shaped_nextTrap (h : s.Shaped) (core bctx w : Nat) : (s.nextTrap core bctx w).Shaped := by
  unfold State.nextTrap
  split
  · exact h
  · rename_i b e
    split
    · exact h
    · rename_i t e'
      have hb := h.blk e
      have ht := hb.thr e'
      repeat' split
      all_goals simp [h, hb, ht]

@[simp] theorem shaped_queueTrap (h : s.Shaped) (core bctx w : Nat) (r : TrapRec) : (s.queueTrap core bctx w r).Shaped := by
  unfold State.queueTrap
  extract_lets +onlyGivenNames n s1
  have hs1 : s1.Shaped := by simp [s1, h]
  simp [hs1]

@[simp] theorem shaped_endStream (h : s.Shaped) (core bctx w : Nat) (a : ATrap) : (s.endStream core bctx w a).Shaped := by
  unfold State.endStream
  extract_lets +onlyGivenNames s1
  have hs1 : s1.Shaped := by simp [s1, h]
  apply shaped_flushTag
  simp [hs1]

@[simp] theorem shaped_trap (h : s.Shaped) (c : Cur) (b : Blk) (t : Thr) (i : TrapInfo) : (s.trap c b t i).Shaped := by
  unfold State.trap; simp [h]

/-! #### What Machine/Lines keeps shaped -/

@[simp] theorem shaped_machineCheck (h : s.Shaped) : s.machineCheck.Shaped := h

@[simp] theorem shaped_scheduleTest (h : s.Shaped) (unit : BitVec 4) (loc : Word) (addr : Nat) (owner : PendingTest → Bool) :
    (s.scheduleTest unit loc addr owner).Shaped := by
  unfold State.scheduleTest; simp [h]

@[simp] theorem shaped_testRow (h : s.Shaped) (line : Nat) : (s.testRow line).Shaped := by
  unfold State.testRow; simp [h]

@[simp] theorem shaped_poisonTable (h : s.Shaped) (line : Nat) : (s.poisonTable line).Shaped := by
  unfold State.poisonTable; simp [h]

@[simp] theorem shaped_laneError (h : s.Shaped) (boundary lane : Nat) : (s.laneError boundary lane).Shaped := by
  unfold State.laneError; simp [h]

@[simp] theorem shaped_testCore (h : s.Shaped) (core : Nat) : (s.testCore core).Shaped := by
  unfold State.testCore; simp [h]

@[simp] theorem shaped_poolEcc (h : s.Shaped) (core : Nat) (lost : Bool) : (s.poolEcc core lost).Shaped := by
  unfold State.poolEcc; simp [h]

@[simp] theorem shaped_eccAt (h : s.Shaped) (line : Nat) (o : EccOutcome) : (s.eccAt line o).Shaped := by
  unfold State.eccAt
  extract_lets +onlyGivenNames syn rec'
  split
  · exact h
  · apply shaped_testRow
    dsimp -zeta only [rec']
    simp [h]
  · apply shaped_testRow
    apply shaped_poisonLine
    dsimp -zeta only [rec']
    simp [h]
  · apply shaped_testRow
    dsimp -zeta only [rec']
    simp [h]
  · split
    · extract_lets +onlyGivenNames s1 s2
      have hs2 : s2.Shaped := by
        dsimp -zeta only [s2]
        exact h
      extract_lets +onlyGivenNames s21
      have hs21 : s21.Shaped := shaped_foldl (fun t a ht => by simp [ht]) _ hs2
      apply shaped_testRow
      apply shaped_errRecord
      dsimp -zeta only [rec']
      simp [hs21]
    · apply shaped_testRow
      apply shaped_poisonLine
      dsimp -zeta only [rec']
      simp [h]

@[simp] theorem shaped_fillSet (h : s.Shaped) (line : Nat) (write : Bool) : (s.fillSet line write).Shaped := h

@[simp] theorem shaped_capSend (h : s.Shaped) (line tag : Nat) : (s.capSend line tag).Shaped := h

@[simp] theorem shaped_eccMiss (h : s.Shaped) (line : Nat) (o : EccOutcome) : (s.eccMiss line o).Shaped := by
  unfold State.eccMiss; split <;> simp [h]

@[simp] theorem shaped_evictRefused (h : s.Shaped) (line : Nat) (refused : Bool) : (s.evictRefused line refused).Shaped := by
  unfold State.evictRefused; simp [h]

@[simp] theorem shaped_capFetch (h : s.Shaped) (line tag : Nat) : (s.capFetch line tag).Shaped := by
  unfold State.capFetch; simp [h]

@[simp] theorem shaped_homeEcc (h : s.Shaped) (line : Nat) (o : EccOutcome) : (s.homeEcc line o).Shaped := by
  unfold State.homeEcc; simp [h]

@[simp] theorem shaped_capAccess (h : s.Shaped) (line tag : Nat) (reads writes refused : Bool) :
    (s.capAccess line tag reads writes refused).Shaped := by
  unfold State.capAccess
  split
  · apply shaped_fillSet
    simp [h]
  · simp [h]

@[simp] theorem shaped_capTouch (h : s.Shaped) (line tag : Nat) (reads writes refused : Bool) (o : EccOutcome) :
    (s.capTouch line tag reads writes refused o).Shaped := by
  unfold State.capTouch; simp [h]

@[simp] theorem shaped_gather (h : s.Shaped) (line : Nat) : (s.gather line).Shaped := by
  unfold State.gather; simp [h]

@[simp] theorem shaped_contribute (h : s.Shaped) (cluster core line : Nat) (fmt : BitVec 2) (off : Nat) (v : DWord) :
    (s.contribute cluster core line fmt off v).Shaped := h

@[simp] theorem shaped_hostGone (h : s.Shaped) (link line : Nat) (dirty : Bool) : (s.hostGone link line dirty).Shaped := by
  unfold State.hostGone; simp [h]

@[simp] theorem shaped_recall (h : s.Shaped) (die line : Nat) : (s.recall die line).Shaped := by
  unfold State.recall; split <;> simp [h]

@[simp] theorem shaped_cacheTouch (h : s.Shaped) (holder line : Nat) (reuse : BitVec 2) (st : Coh) :
    (s.cacheTouch holder line reuse st).Shaped := by
  unfold State.cacheTouch
  extract_lets +onlyGivenNames set new
  split
  · exact h
  · split
    · exact h
    · split
      · exact h
      · extract_lets +onlyGivenNames others t u
        have ht : t.Shaped := by simp [t, h]
        have hu : u.Shaped := by
          dsimp -zeta only [u]
          split <;> simp [ht]
        exact hu

@[simp] theorem shaped_shareLine (h : s.Shaped) (line : Nat) (mine : Nat → Bool) : (s.shareLine line mine).Shaped := h

@[simp] theorem shaped_cacheRead (h : s.Shaped) (cluster line : Nat) (reuse : BitVec 2) : (s.cacheRead cluster line reuse).Shaped := by
  unfold State.cacheRead
  extract_lets +onlyGivenNames l2 s1
  have hs1 : s1.Shaped := by simp [s1, h]
  simp [hs1]

@[simp] theorem shaped_cacheWrite (h : s.Shaped) (cluster line : Nat) (reuse : BitVec 2) : (s.cacheWrite cluster line reuse).Shaped := by
  unfold State.cacheWrite
  extract_lets +onlyGivenNames l2 s1
  have hs1 : s1.Shaped := by simp [s1, h]
  simp [hs1]

/-! #### What Machine/Translate keeps shaped -/

@[simp] theorem shaped_tableRead (h : s.Shaped) (a : Nat) (o : EccOutcome) : (s.tableRead a o).1.Shaped := by
  unfold State.tableRead
  extract_lets +onlyGivenNames t
  have ht : t.Shaped := by
    dsimp -zeta only [t]
    apply shaped_gather
    simp [h]
  exact ht

@[simp] theorem shaped_walkLevel (h : s.Shaped) (die struck : Nat) (va : DWord) (level table : Nat) :
    (s.walkLevel die struck va level table).1.Shaped := by
  unfold State.walkLevel
  split
  · exact h
  · split <;> simp [h]

@[simp] theorem shaped_walkFrom (h : s.Shaped) (die struck : Nat) (va : DWord) (level table : Nat) :
    (walkFrom die struck va level s table).1.Shaped := by
  induction level generalizing s table with
  | zero => exact h
  | succ level ih =>
    unfold walkFrom
    split
    · rename_i t _ e
      exact shaped_of_eq (shaped_walkLevel h ..) e
    · rename_i t n e
      exact ih (shaped_of_eq (shaped_walkLevel h ..) e) n

@[simp] theorem shaped_walk (h : s.Shaped) (die struck c : Nat) (va : DWord) : (walk s die struck c va).1.Shaped := by
  unfold walk; simp [h]

@[simp] theorem shaped_fillTlb (h : s.Shaped) (tlbs : List Nat) (c page : Nat) (ats : Option Bool) (l : Leaf) :
    (s.fillTlb tlbs c page ats l).Shaped := h

@[simp] theorem shaped_touchTlb (h : s.Shaped) (m : Mmu) (va : DWord) : (s.touchTlb m va).Shaped := by
  unfold State.touchTlb
  repeat' split
  all_goals simp [h]

@[simp] theorem shaped_startWalk (h : s.Shaped) (m : Mmu) (va : DWord) (kind : AccessKind) (site : FaultSite) :
    (s.startWalk m va kind site).Shaped := by
  unfold State.startWalk; simp [h]

@[simp] theorem shaped_joinFault (h : s.Shaped) (c page : Nat) (va : DWord) (kind : AccessKind) (site : FaultSite)
    (malf hostpg wpois : Bool) :
    (s.joinFault c page va kind site malf hostpg wpois).Shaped := by
  unfold State.joinFault; simp [h]

@[simp] theorem shaped_flushOne (h : s.Shaped) (c : Nat) : (s.flushOne c).Shaped := by
  unfold State.flushOne
  split
  · exact h
  · extract_lets +onlyGivenNames f n putF putN
    have hF : ∀ g, (putF g).Shaped := fun g => by simp [putF, h]
    have hN : ∀ g, (putN g).Shaped := fun g => by simp [putN, h]
    clear_value f n
    split
    · split
      · exact hF _
      · exact hN _
    · exact hF _
    · exact hN _
    · exact h

@[simp] theorem shaped_flushFaults (h : s.Shaped) (c : Nat) : (s.flushFaults c).Shaped := by
  unfold State.flushFaults
  exact shaped_foldl (fun t a ht => by simp [ht]) _ h

@[simp] theorem shaped_dropWalk (h : s.Shaped) (id : Nat) : (s.dropWalk id).Shaped := h

@[simp] theorem shaped_endWalk (h : s.Shaped) (k : Walk) (l : Leaf) : (s.endWalk k l).Shaped := h

@[simp] theorem shaped_finishWalk (h : s.Shaped) (k : Walk) : (s.finishWalk k).Shaped := by
  unfold State.finishWalk
  split
  · rename_i t _ e
    have ht : t.Shaped := shaped_of_eq (shaped_walk h ..) e
    exact ht
  · rename_i t _ e
    have ht : t.Shaped := shaped_of_eq (shaped_walk h ..) e
    simp [ht]
  · rename_i t e
    have ht : t.Shaped := shaped_of_eq (shaped_walk h ..) e
    exact h

@[simp] theorem shaped_walkNow (h : s.Shaped) (c : Nat) (va : DWord) (kind : AccessKind) (site : FaultSite) :
    (s.walkNow c va kind site).Shaped := by
  unfold State.walkNow
  extract_lets +onlyGivenNames m
  split
  · simp [h]
  · split
    · rename_i t _ e
      simp [shaped_of_eq (shaped_walk h ..) e]
    · rename_i t _ e
      simp [shaped_of_eq (shaped_walk h ..) e]
    · simp [h]

@[simp] theorem shaped_dropTranslations (h : s.Shaped) (c : Nat) (pages : Nat → Bool) : (s.dropTranslations c pages).Shaped := h

@[simp] theorem shaped_dropAll (h : s.Shaped) (c : Nat) : (s.dropAll c).Shaped := h

@[simp] theorem shaped_beginInval (h : s.Shaped) (c : Nat) (base : DWord) (bytes : Nat) (byCtx : Bool) (ats : Option Nat) :
    (s.beginInval c base bytes byCtx ats).1.Shaped := h

/-! #### What Machine/Issue keeps shaped -/

@[simp] theorem shaped_setCore (h : s.Shaped) (core : Nat) (k : Core) : (s.setCore core k).Shaped := h

@[simp] theorem shaped_fetchAt (h : s.Shaped) (m : Mmu) (site : FaultSite) (va : DWord) : (s.fetchAt m site va).Shaped := by
  unfold State.fetchAt
  repeat' split
  all_goals simp [h]

@[simp] theorem shaped_fillCode (h : s.Shaped) (core line : Nat) : (s.fillCode core line).Shaped := by
  unfold State.fillCode
  extract_lets +onlyGivenNames mine full s1
  have hs1 : s1.Shaped := by
    dsimp -zeta only [s1]
    apply shaped_cacheTouch
    exact h
  simp [hs1]

@[simp] theorem shaped_askCode (h : s.Shaped) (c : Cur) (b : Blk) (line : Nat) : (s.askCode c b line).Shaped := by
  unfold State.askCode; simp [h]

@[simp] theorem shaped_codeLine (h : s.Shaped) (c : Cur) (b : Blk) (line : Nat) (pub : Bool) : (s.codeLine c b line pub).Shaped := by
  unfold State.codeLine
  repeat' split
  all_goals simp [h]

@[simp] theorem shaped_codeLines (h : s.Shaped) (c : Cur) (b : Blk) (l : List (Nat × Bool)) : (State.codeLines c b l s).Shaped := by
  induction l generalizing s with
  | nil => exact h
  | cons p rest ih =>
    unfold State.codeLines
    split
    · rename_i t e
      exact ih ((shaped_codeLine h ..).ok e)
    · exact shaped_codeLine h ..

@[simp] theorem shaped_codeFills (h : s.Shaped) (c : Cur) (lines : List (Nat × Bool)) : (s.codeFills c lines).Shaped := by
  unfold State.codeFills
  extract_lets +onlyGivenNames s1
  have hs1 : s1.Shaped := by simp [s1, h]
  exact shaped_foldl (fun t a ht => by simp [ht]) _ hs1

/-- The words of a clause: where reading them stops, memory stands as it stood. -/
theorem shaped_fetchWords (h : s.Shaped) (m : Mmu) (site : FaultSite) (hdr : Option Word) (l : List DWord) (r : Fetched)
    (e : s.fetchWords m site hdr l = .error r) : r.Shaped := by
  induction l with
  | nil => simp [State.fetchWords] at e
  | cons va rest ih =>
    unfold State.fetchWords at e
    split at e
    · rename_i t ht
      cases e
      exact (shaped_fetchAt h ..).walk ht
    · cases e; exact h
    · cases e; exact h
    · split at e
      · rename_i he
        cases e
        exact ih he
      · cases e

@[simp] theorem shaped_fetchRun (h : s.Shaped) (c : Cur) (b : Blk) (m : Mmu) (site : FaultSite) (hdr : Word) (vas : List DWord) :
    (s.fetchRun c b m site hdr vas).Shaped := by
  unfold State.fetchRun
  split
  · rename_i e
    exact shaped_fetchWords h _ _ _ _ _ e
  · extract_lets +onlyGivenNames lines
    have hl := shaped_codeLines h c b lines
    split
    · rename_i u e
      exact hl.wait e
    · simp [h]
    · rename_i s2 e
      have h2 := hl.ok e
      extract_lets +onlyGivenNames fail
      split
      · simp [fail, h2]
      · simp [fail, h2]
      · exact shaped_foldl (fun t _ ht => shaped_touchTlb ht ..) _ (shaped_codeFills h2 ..)

@[simp] theorem shaped_fetchClause (h : s.Shaped) (c : Cur) (b : Blk) (t : Thr) : (s.fetchClause c b t).Shaped := by
  unfold State.fetchClause
  extract_lets +onlyGivenNames m site
  split
  · exact h
  · split
    · rename_i e
      exact shaped_fetchWords h _ _ _ _ _ e
    · exact h
    · have hl := fun a p => shaped_codeLine h c b a p
      have hr := fun hdr vas => shaped_fetchRun h c b m site hdr vas
      split
      · rename_i e
        exact (hl ..).wait e
      · simp [h]
      · extract_lets +onlyGivenNames hdr n
        split
        · rename_i e
          exact (hr ..).ok e
        · exact hr ..

@[simp] theorem shaped_refetch (h : s.Shaped) (c : Cur) (b : Blk) (t : Thr) (k : Clause) : (s.refetch c b t k).Shaped := by
  unfold State.refetch
  extract_lets +onlyGivenNames ix
  split
  · rename_i t1 _ e
    have ht1 : t1.Shaped := (shaped_fetchRun h ..).ok e
    exact ht1
  · simp [h]

@[simp] theorem shaped_block (h : s.Shaped) (c : Cur) (m : Word) (p : BlockPt) : (s.block c m p).Shaped := by
  unfold State.block; simp [h]

@[simp] theorem shaped_stall (h : s.Shaped) (x : Cur) : (s.stall x).Shaped := h

@[simp] theorem shaped_stallCopy (h : s.Shaped) (c : Cur) : (s.stallCopy c).Shaped := by
  unfold State.stallCopy; simp [h]

@[simp] theorem shaped_endClause (h : s.Shaped) (c : Cur) (m : Word) : (s.endClause c m).Shaped := by
  unfold State.endClause
  extract_lets +onlyGivenNames lend
  split
  · exact h
  · rename_i b e
    split
    · exact h
    · rename_i t e'
      have hb := h.blk e
      have ht := hb.thr e'
      split
      · simp [h, hb, ht]
      · extract_lets +onlyGivenNames n inside t1 t2
        have h1 : t1.Shaped := by simp [t1, ht]
        split
        · exact shaped_trap (shaped_setBlk h _ _ (hb.setThr _ h1)) ..
        · exact shaped_setBlk h _ _ (hb.setThr _ (by simp [t2, h1]))

@[simp] theorem shaped_retire (h : s.Shaped) (c : Cur) (m : Word) : (s.retire c m).Shaped := by
  unfold State.retire; simp [h]

@[simp] theorem shaped_retireBlocked (h : s.Shaped) (c : Cur) (m : Word) (p : BlockPt) : (s.retireBlocked c m p).Shaped := by
  unfold State.retireBlocked; simp [h]

@[simp] theorem shaped_withParty {s : State} (h : s.Shaped) (f : Cur → Blk → Thr → State)
    (hf : ∀ c b t, b.Shaped → t.Shaped → (f c b t).Shaped) : OutcomeShaped (withParty s f) := by
  unfold withParty
  repeat' split
  any_goals simp
  rename_i e _ _ e'
  exact hf _ _ _ (h.blk e) ((h.blk e).thr e')

@[simp] theorem shaped_trapWord (h : s.Shaped) (c : Cur) (b : Blk) (t : Thr) (cause : Cause) (m : Word) (addr : DWord) :
    (s.trapWord c b t cause m addr).Shaped := by
  unfold State.trapWord; simp [h]

@[simp] theorem shaped_refuse (h : s.Shaped) (c : Cur) (b : Blk) (t : Thr) (m : Word) (x : Gate) : (s.refuse c b t m x).Shaped := by
  unfold State.refuse; split <;> simp [h]

@[simp] theorem shaped_serviceRec (h : s.Shaped) (core bctx w : Nat) {b : Blk} (hb : b.Shaped) {t : Thr} (ht : t.Shaped) (r0 : TrapRec)
    (pages : Nat → Option Nat) :
    (s.serviceRec core bctx w b t r0 pages).Shaped := by
  unfold State.serviceRec
  extract_lets +onlyGivenNames deliver r t1 t2 b2
  have h2 : t2.Shaped := by simp [t2, t1, ht]
  have hb2 : b2.Shaped := hb.setThr w h2
  exact shaped_closeChunk (shaped_setBlk (by exact h) _ _ (by exact hb2)) ..

@[simp] theorem shaped_service (h : s.Shaped) (c : Cur) {b : Blk} (hb : b.Shaped) {t : Thr} (ht : t.Shaped) (cause : Cause)
    (m faulting : Word) (addr : DWord)
    (pages : Nat → Option Nat) : (s.service c b t cause m faulting addr pages).Shaped := by
  unfold State.service; simp [h, hb, ht]

/-! #### What Machine/Clause keeps shaped -/

@[simp] theorem shaped_deliverAsync (h : s.Shaped) (core bctx w : Nat) : (s.deliverAsync core bctx w).Shaped := by
  unfold State.deliverAsync
  split
  · exact h
  · rename_i b e
    split
    · exact h
    · rename_i t e'
      extract_lets +onlyGivenNames m
      split
      · exact h
      · split
        · exact h
        · split
          · exact shaped_kill h ..
          · extract_lets +onlyGivenNames pc r t1 s1 s2 s3
            have ht : t1.Shaped := by simp [t1, (h.blk e).thr e']
            have h1 : s1.Shaped := shaped_setBlk (by exact h) _ _ ((h.blk e).setThr _ ht)
            exact shaped_recordAtrap (shaped_closeChunk (by exact h1) ..) ..

@[simp] theorem shaped_badTarget (h : s.Shaped) (core bctx w : Nat) (m : Word) (pc : DWord) (hdr : Word) (cause : Cause) :
    (s.badTarget core bctx w m pc hdr cause).Shaped := by
  unfold State.badTarget
  split
  · exact h
  · extract_lets +onlyGivenNames vias
    apply shaped_foldl
    · intro t v ht
      split
      · exact ht
      · rename_i b e
        split
        · exact ht
        · rename_i x e'
          dsimp only
          split
          · exact shaped_trap ht ..
          · exact shaped_trap (shaped_setBlk ht _ _ ((ht.blk e).setThr _ (by simp [(ht.blk e).thr e']))) ..
    · exact h

@[simp] theorem shaped_fetchFails (h : s.Shaped) (c : Cur) {b : Blk} (hb : b.Shaped) {t : Thr} (ht : t.Shaped) (cause : Cause)
    (addr : DWord) (page : Option Nat)
    (hdr : Option Word) : (s.fetchFails c b t cause addr page hdr).Shaped := by
  unfold State.fetchFails; simp [h, hb, ht]

@[simp] theorem shaped_enterClause (h : s.Shaped) (c : Cur) {b : Blk} (hb : b.Shaped) {t : Thr} (ht : t.Shaped) :
    (s.enterClause c b t).1.Shaped := by
  unfold State.enterClause
  extract_lets +onlyGivenNames idle
  split
  · exact h
  · split
    · rename_i t1 e
      have ht1 : t1.Shaped := (shaped_fetchClause h ..).stall e
      exact ht1
    · rename_i t1 _ _ e
      have ht1 : t1.Shaped := (shaped_fetchClause h ..).miss e
      dsimp -zeta only [idle]
      simp [ht1, hb, ht]
    · rename_i t1 _ _ _ e
      have ht1 : t1.Shaped := (shaped_fetchClause h ..).fault e
      dsimp -zeta only [idle]
      simp [ht1, hb, ht]
    · rename_i t1 _ e
      have ht1 : t1.Shaped := (shaped_fetchClause h ..).ok e
      extract_lets +onlyGivenNames c1
      split
      · dsimp -zeta only [idle]
        simp [ht1]
      · split
        · dsimp -zeta only [idle]
          simp [ht1]
        · split
          · dsimp -zeta only [idle]
            simp [ht1]
          · split
            · dsimp -zeta only [idle]
              simp [ht1]
            · simp [ht1]

@[simp] theorem shaped_reload (h : s.Shaped) (c : Cur) {b : Blk} (hb : b.Shaped) {t : Thr} (ht : t.Shaped) (k : Clause) :
    (s.reload c b t k).1.Shaped := by
  unfold State.reload
  extract_lets +onlyGivenNames idle
  split
  · exact h
  · split
    · rename_i t1 e
      have ht1 : t1.Shaped := (shaped_refetch h ..).stall e
      exact ht1
    · rename_i t1 _ _ e
      have ht1 : t1.Shaped := (shaped_refetch h ..).miss e
      dsimp -zeta only [idle]
      simp [ht1, hb, ht]
    · rename_i t1 _ _ _ e
      have ht1 : t1.Shaped := (shaped_refetch h ..).fault e
      dsimp -zeta only [idle]
      simp [ht1, hb, ht]
    · rename_i t1 _ e
      have ht1 : t1.Shaped := (shaped_refetch h ..).ok e
      simp [ht1]

@[simp] theorem shaped_ready (h : s.Shaped) (core bctx w : Nat) : (s.ready core bctx w).1.Shaped := by
  unfold State.ready
  split
  · exact h
  · rename_i b e
    split
    · exact h
    · split
      · exact h
      · rename_i t0 e'
        extract_lets +onlyGivenNames mmu s1 s2
        have hs1 : s1.Shaped := shaped_setBlk h _ _ ((h.blk e).setThr _ (by simp [(h.blk e).thr e']))
        have hs2 : s2.Shaped := by
          dsimp -zeta only [s2]
          apply shaped_deliverAsync
          simp [hs1]
        split
        · exact hs2
        · rename_i b2 e2
          split
          · exact hs2
          · rename_i t2 e2'
            extract_lets +onlyGivenNames t s21
            have ht : t.Shaped := by simp [t, (hs2.blk e2).thr e2']
            have hb : (b2.setThr w t).Shaped := (hs2.blk e2).setThr w ht
            have hs21 : s21.Shaped := shaped_setBlk hs2 _ _ hb
            split
            · exact hs21
            · extract_lets +onlyGivenNames i here
              repeat' split
              all_goals simp [hs21, hb, ht]

@[simp] theorem shaped_enter (h : s.Shaped) (core bctx w : Nat) : (s.enter core bctx w).1.Shaped := by
  unfold State.enter
  split
  · exact h
  · split
    · exact h
    · apply shaped_ready
      simp [h]

@[simp] theorem shaped_noteTurn (h : s.Shaped) (c : Cur) (held : Bool) : (s.noteTurn c held).Shaped := by
  unfold State.noteTurn; simp [h]

@[simp] theorem shaped_noteStep (h : s.Shaped) (core bctx w : Nat) (pre : Thr) (c : Option Cur) :
    (s.noteStep core bctx w pre c).Shaped := by
  unfold State.noteStep
  repeat' split
  all_goals simp [h]

/-! #### What Machine/Operands keeps shaped -/

@[simp] theorem shaped_noteUnis (h : s.Shaped) (c : Cur) (b : Blk) (rs : List Nat) (writes : Bool) : (s.noteUnis c b rs writes).Shaped := by
  unfold State.noteUnis
  apply shaped_foldl
  · intro t a ht
    split <;> simp [ht]
  · exact h

@[simp] theorem shaped_laneWordOp (h : s.Shaped) (i : Instr) (w : LaneW) (f : Cur → Blk → Thr → Word → State)
    (hf : ∀ c b t m, b.Shaped → t.Shaped → (f c b t m).Shaped) : OutcomeShaped (laneWordOp i w s f) := by
  unfold laneWordOp
  refine shaped_withParty h _ fun c b t hb ht => ?_
  extract_lets +onlyGivenNames act
  split <;> simp [h, hf, hb, ht]

@[simp] theorem shaped_laneAlu (h : s.Shaped) (i : Instr) (w : LaneW) (f : Cur → Blk → Thr → Word → Thr)
    (hf : ∀ c b t m, t.Shaped → (f c b t m).Shaped) : OutcomeShaped (laneAlu i w s f) := by
  unfold laneAlu
  refine shaped_laneWordOp h _ _ _ fun c b t m _ ht => ?_
  extract_lets +onlyGivenNames s1
  have hs1 : s1.Shaped := by simp [s1, h]
  exact shaped_retire (shaped_modThr hs1 _ _ _ fun _ _ => hf _ _ _ _ ht) ..

@[simp] theorem shaped_laneOut (h : s.Shaped) (i : Instr) (w : LaneW) (f : Cur → Blk → Thr → Nat → Word) :
    OutcomeShaped (laneOut i w s f) := by
  unfold laneOut; simp [h]

@[simp] theorem shaped_laneOut64 (h : s.Shaped) (i : Instr) (w : LaneW) (f : Cur → Blk → Thr → Nat → DWord) : OutcomeShaped
    (laneOut64 i w s f) := by
  unfold laneOut64; simp [h]

@[simp] theorem shaped_lane2 (h : s.Shaped) (i : Instr) (w : LaneW) (f : Word → Word → Word) : OutcomeShaped (lane2 i w s f) := by
  unfold lane2; simp [h]

@[simp] theorem shaped_lane1 (h : s.Shaped) (i : Instr) (w : LaneW) (f : Word → Word) : OutcomeShaped (lane1 i w s f) := by
  unfold lane1; simp [h]

@[simp] theorem shaped_lane3 (h : s.Shaped) (i : Instr) (w : LaneW) (f : Word → Word → Word → Word) : OutcomeShaped (lane3 i w s f) := by
  unfold lane3; simp [h]

@[simp] theorem shaped_ctlWordOp (h : s.Shaped) (i : Instr) (more : Cur → Blk → Thr → Gate) (f : Cur → Blk → Thr → State)
    (hf : ∀ c b t, b.Shaped → t.Shaped → (f c b t).Shaped) : OutcomeShaped (ctlWordOp i s more f) := by
  unfold ctlWordOp
  refine shaped_withParty h _ fun c b t hb ht => ?_
  split <;> simp [h, hf, hb, ht]

@[simp] theorem shaped_ctlUniOp (h : s.Shaped) (i : Instr) (rs : Cur → List Nat) (more : Cur → Blk → Thr → Gate)
    (f : Cur → Blk → Thr → State)
    (hf : ∀ c b t, b.Shaped → t.Shaped → (f c b t).Shaped) : OutcomeShaped (ctlUniOp i s rs more f) := by
  unfold ctlUniOp
  refine shaped_ctlWordOp h _ _ _ fun c b t hb ht => ?_
  simp [h, hf, hb, ht]

@[simp] theorem shaped_uniWordOp (h : s.Shaped) (i : Instr) (w : UniW) (f : State → Cur → Blk → Thr → State)
    (hf : ∀ u c b t, u.Shaped → b.Shaped → t.Shaped → (f u c b t).Shaped) : OutcomeShaped (uniWordOp i w s f) := by
  unfold uniWordOp
  refine shaped_ctlUniOp h _ _ _ _ fun c b t hb ht => ?_
  simp [h, hf, hb, ht]

@[simp] theorem shaped_putUni (h : s.Shaped) (c : Cur) (b : Blk) (r : Nat) (v : DWord) : (s.putUni c b r v).Shaped := by
  unfold State.putUni
  apply shaped_retire
  simp [h]

@[simp] theorem shaped_uniAlu (h : s.Shaped) (i : Instr) (w : UniW) (f : DWord → DWord → DWord) : OutcomeShaped (uniAlu i w s f) := by
  unfold uniAlu
  apply shaped_uniWordOp
  · exact h
  · intro u c b t hu _ _
    simp [hu]

/-! #### What Machine/Access keeps shaped -/

@[simp] theorem shaped_modBank (h : s.Shaped) (k : Nat) (f : Bank → Bank) : (s.modBank k f).Shaped := h

@[simp] theorem shaped_noteAway (h : s.Shaped) (r : Req) : (s.noteAway r).Shaped := by
  unfold State.noteAway; simp [h]

@[simp] theorem shaped_nextMseq (h : s.Shaped) (dev : BitVec 16) : (s.nextMseq dev).1.Shaped := h

@[simp] theorem shaped_modPort (h : s.Shaped) (port : Nat) {f : VPort → VPort} (hf : ∀ p, p.vcs.length = 4 → (f p).vcs.length = 4) :
    (s.modPort port f).Shaped :=
  ⟨h.ports.lmod port hf, h.dev, h.blks⟩

@[simp] theorem shaped_sendFlit (h : s.Shaped) (port : Nat) (dev : BitVec 16) (m : PeerMsg) : (s.sendFlit port dev m).Shaped := by
  unfold State.sendFlit; simp [h]

@[simp] theorem shaped_sendMsg (h : s.Shaped) (port : Nat) (dev : BitVec 16) (ctx tag : Nat) (op : PeerOp) :
    (s.sendMsg port dev ctx tag op).Shaped := by
  unfold State.sendMsg; simp [h]

@[simp] theorem shaped_sendLanes (h : s.Shaped) (r : Req) (dev : BitVec 16) (port : Nat) (l : List LaneOp) :
    (s.sendLanes r dev port l).1.Shaped := by
  induction l generalizing s with
  | nil => exact h
  | cons o rest ih =>
    unfold State.sendLanes
    split
    · exact h
    · exact ih (shaped_sendMsg h ..)

@[simp] theorem shaped_sendPeer (h : s.Shaped) (r : Req) (dev : BitVec 16) : (s.sendPeer r dev).Shaped := by
  unfold State.sendPeer
  extract_lets +onlyGivenNames port
  split
  · exact h
  · split
    · exact h
    · split
      · exact h
      · dsimp -zeta only
        apply shaped_modReq
        simp [h]

@[simp] theorem shaped_hostAtomSend (h : s.Shaped) (r : Req) (link : Nat) (o : LaneOp) : (s.hostAtomSend r link o).Shaped := by
  unfold State.hostAtomSend
  repeat' split
  all_goals simp [h]

@[simp] theorem shaped_replayHost (h : s.Shaped) (r : Req) (kind : Nat) : (s.replayHost r kind).Shaped := by
  unfold State.replayHost
  extract_lets +onlyGivenNames n mask
  dsimp -zeta only
  extract_lets +onlyGivenNames val
  apply shaped_modReq
  simp [h]

@[simp] theorem shaped_sendHost (h : s.Shaped) (r : Req) (link : Nat) : (s.sendHost r link).Shaped := by
  unfold State.sendHost
  repeat' split
  all_goals simp [h]

@[simp] theorem shaped_sendContrib (h : s.Shaped) (r : Req) (slot : Nat) (o : LaneOp) : OptionShaped (s.sendContrib r slot o) := by
  unfold State.sendContrib
  split
  · simp [h]
  · extract_lets +onlyGivenNames e k port put
    extract_lets +onlyGivenNames put1
    split
    · simp
    · split
      · rw [optionShaped_some]
        exact h
      · split
        · simp
        · extract_lets +onlyGivenNames x
          rw [optionShaped_some]
          apply shaped_sendMsg
          exact h

@[simp] theorem shaped_sendContribs (h : s.Shaped) (r : Req) (slot : Nat) (l : List LaneOp) : (s.sendContribs r slot l).1.Shaped := by
  induction l generalizing s with
  | nil => exact h
  | cons o rest ih =>
    unfold State.sendContribs
    split
    · exact h
    · rename_i t e
      exact ih ((shaped_sendContrib h ..).some e)

@[simp] theorem shaped_sendWindow (h : s.Shaped) (r : Req) (slot : Nat) : (s.sendWindow r slot).Shaped := by
  unfold State.sendWindow
  split
  · exact h
  · dsimp -zeta only
    split
    · split
      · exact h
      · apply shaped_modReq
        simp [h]
    · simp [h]

@[simp] theorem shaped_admitReq (h : s.Shaped) (id : Nat) : (s.admitReq id).Shaped := by
  unfold State.admitReq
  repeat' split
  all_goals simp [h]

@[simp] theorem shaped_admitReqs (h : s.Shaped) : s.admitReqs.Shaped := by
  unfold State.admitReqs
  exact shaped_foldl (fun t a ht => by simp [ht]) _ h

@[simp] theorem shaped_markDst (h : s.Shaped) (c : Cur) (d : Dst) : (s.markDst c d).Shaped := by
  unfold State.markDst; split <;> simp [h]

@[simp] theorem shaped_addReqs (h : s.Shaped) (c : Cur) (adm scope : Nat) (rs : List Req) : (s.addReqs c adm scope rs).Shaped := by
  unfold State.addReqs; simp [h]

@[simp] theorem shaped_memFault (h : s.Shaped) (c : Cur) (bad : List (Nat × Cause × DWord)) (pages : Nat → Option Nat) :
    (s.memFault c bad pages).Shaped := by
  unfold State.memFault
  split
  · rename_i e
    split
    · rename_i e'
      have hb := h.blk e
      have ht := hb.thr e'
      dsimp only
      split <;> simp [h, hb, ht]
    · exact h
  · exact h

@[simp] theorem shaped_watchTrap (h : s.Shaped) (c : Cur) (m : Word) (addr : DWord) : (s.watchTrap c m addr).Shaped := by
  unfold State.watchTrap
  repeat' split
  all_goals simp [h]

@[simp] theorem shaped_access (h : s.Shaped) (c : Cur) (b : Blk) (t : Thr) (act : Word) (us : List Nat) (f : MemForm) (va : Nat → DWord)
    (data cmp : Nat → QWord) (late : List (Nat × Nat) → List Nat) : (s.access c b t act us f va data cmp late).Shaped := by
  unfold State.access
  extract_lets +onlyGivenNames priv mmu chks0 misuse chks walks
  split
  · exact shaped_stall (shaped_foldl (fun t v ht => shaped_startWalk ht ..) _ h) _
  · split
    · exact shaped_stall h _
    · extract_lets +onlyGivenNames gos bad pages rs
      split
      · exact shaped_stall h _
      · extract_lets +onlyGivenNames badM hits waits stay point s0 s1 s2 s3
        have h0 : s0.Shaped := by
          refine shaped_noteUnis (shaped_foldl (fun t g ht => ?_) _ h) ..
          split
          · exact shaped_touchTlb ht ..
          · exact ht
        have h1 : s1.Shaped := by
          apply shaped_addReqs
          split
          · exact h0
          · exact shaped_markDst h0 ..
        have h2 : s2.Shaped := by
          dsimp -zeta only [s2]
          clear_value point
          split
          · exact shaped_retireBlocked h1 ..
          · exact shaped_retire h1 ..
        have h3 : s3.Shaped := shaped_watchTrap h2 ..
        split
        · exact h3
        · exact shaped_memFault h3 ..

/-! #### What Machine/LaneMem keeps shaped -/

@[simp] theorem shaped_laneMem (h : s.Shaped) (i : Instr) (w : LaneW) (f : MemForm) (va : Blk → Thr → Nat → DWord)
    (data cmp : Blk → Thr → Nat → QWord) : OutcomeShaped (laneMem i w s f va data cmp) := by
  unfold laneMem; simp [h]

@[simp] theorem shaped_execLd (h : s.Shaped) (w : LaneW) (x : MemX) : OutcomeShaped (execLd w x s) := by
  unfold execLd; simp [h]

@[simp] theorem shaped_execSt (h : s.Shaped) (w : LaneW) (x : MemX) : OutcomeShaped (execSt w x s) := by
  unfold execSt; simp [h]

@[simp] theorem shaped_execLds (h : s.Shaped) (w : LaneW) (x : MemX) : OutcomeShaped (execLds w x s) := by
  unfold execLds; simp [h]

@[simp] theorem shaped_execSts (h : s.Shaped) (w : LaneW) (x : MemX) : OutcomeShaped (execSts w x s) := by
  unfold execSts; simp [h]

@[simp] theorem shaped_execAtom (h : s.Shaped) (w : LaneW) (x : MemX) : OutcomeShaped (execAtom w x s) := by
  unfold execAtom; simp [h]

@[simp] theorem shaped_execAtomcas (h : s.Shaped) (w : LaneW) (x : MemX) : OutcomeShaped (execAtomcas w x s) := by
  unfold execAtomcas; simp [h]

@[simp] theorem shaped_execRed (h : s.Shaped) (w : LaneW) (x : MemX) : OutcomeShaped (execRed w x s) := by
  unfold execRed; simp [h]

@[simp] theorem shaped_execAtoms (h : s.Shaped) (w : LaneW) (x : MemX) : OutcomeShaped (execAtoms w x s) := by
  unfold execAtoms; simp [h]

@[simp] theorem shaped_execAtomscas (h : s.Shaped) (w : LaneW) (x : MemX) : OutcomeShaped (execAtomscas w x s) := by
  unfold execAtomscas; simp [h]

@[simp] theorem shaped_execCadd (h : s.Shaped) (w : LaneW) (x : MemX) : OutcomeShaped (execCadd w x s) := by
  unfold execCadd; simp [h]

@[simp] theorem shaped_beginRel (h : s.Shaped) (c : Cur) (adm scope : Nat) (act : RelAct) (mask : Word) (quiet : Bool) :
    (s.beginRel c adm scope act mask quiet).Shaped := h

@[simp] theorem shaped_execFence (h : s.Shaped) (w : LaneW) (x : MemX) : OutcomeShaped (execFence w x s) := by
  unfold execFence
  apply shaped_laneWordOp
  · exact h
  · simp [h]

@[simp] theorem shaped_execCodepub (h : s.Shaped) (w : LaneW) (x : MemX) : OutcomeShaped (execCodepub w x s) := by
  unfold execCodepub
  apply shaped_laneWordOp
  · exact h
  · simp [h]

@[simp] theorem shaped_execWaitaddr (h : s.Shaped) (w : LaneW) (x : MemX) : OutcomeShaped (execWaitaddr w x s) := by
  unfold execWaitaddr; simp [h]

@[simp] theorem shaped_execWakeaddr (h : s.Shaped) (w : LaneW) (x : MemX) : OutcomeShaped (execWakeaddr w x s) := by
  unfold execWakeaddr; simp [h]

@[simp] theorem shaped_laneMaint (h : s.Shaped) (i : Instr) (w : LaneW) (x : MemX) (cached : Bool)
    (f : Cur → Blk → Thr → State → Home → Nat → State) (hf : ∀ y0 y1 y2 y3 y4 y5, y3.Shaped → (f y0 y1 y2 y3 y4 y5).Shaped) : OutcomeShaped
    (laneMaint i w x s cached f) := by
  unfold laneMaint
  apply shaped_laneWordOp
  · exact h
  · intro c b t m hb ht
    apply shaped_retire
    apply shaped_foldl
    · intro t a ht
      split <;> simp [hf, ht]
    · simp [h]

@[simp] theorem shaped_cleanLine (h : s.Shaped) (cluster : Nat) (h1 : Home) (line : Nat) : (s.cleanLine cluster h1 line).Shaped := by
  unfold State.cleanLine; split <;> simp [h]

@[simp] theorem shaped_prefHost (h : s.Shaped) (c : Cur) (b : Blk) (t : Thr) (x : MemX) (h1 : Home) (line : Nat) :
    (s.prefHost c b t x h1 line).Shaped := by
  unfold State.prefHost; simp [h]

@[simp] theorem shaped_execPref (h : s.Shaped) (w : LaneW) (x : MemX) : OutcomeShaped (execPref w x s) := by
  unfold execPref
  apply shaped_laneMaint
  · exact h
  · intro y0 y1 y2 y3 y4 y5 ht
    split <;> simp [ht]

@[simp] theorem shaped_execWbl (h : s.Shaped) (w : LaneW) (x : MemX) : OutcomeShaped (execWbl w x s) := by
  unfold execWbl
  apply shaped_laneMaint
  · exact h
  · intro y0 y1 y2 y3 y4 y5 ht
    simp [ht]

@[simp] theorem shaped_execInvl (h : s.Shaped) (w : LaneW) (x : MemX) : OutcomeShaped (execInvl w x s) := by
  unfold execInvl
  apply shaped_laneMaint
  · exact h
  · intro y0 y1 y2 y3 y4 y5 ht
    simp [ht]

@[simp] theorem shaped_execTagld (h : s.Shaped) (w : LaneW) (x : MemX) : OutcomeShaped (execTagld w x s) := by
  unfold execTagld; simp [h]

@[simp] theorem shaped_execTagst (h : s.Shaped) (w : LaneW) (x : MemX) : OutcomeShaped (execTagst w x s) := by
  unfold execTagst; simp [h]

/-! #### What Machine/Home keeps shaped -/

@[simp] theorem shaped_homeWrite (h : s.Shaped) (h1 : Home) (a : Nat) (bs : List Byte) : (s.homeWrite h1 a bs).Shaped := by
  unfold State.homeWrite; split <;> simp [h]

@[simp] theorem shaped_markWriter (h : s.Shaped) (line writer : Nat) : (s.markWriter line writer).Shaped := by
  unfold State.markWriter; simp [h]

@[simp] theorem shaped_publish (h : s.Shaped) (writer : Nat) : (s.publish writer).Shaped := h

@[simp] theorem shaped_landWait (h : s.Shaped) (req lane : Nat) (v : Option QWord) : (s.landWait req lane v).Shaped := h

@[simp] theorem shaped_wake (h : s.Shaped) (e : Enrol) : (s.wake e).Shaped := by
  unfold State.wake; split <;> simp [h]

@[simp] theorem shaped_wakeUp (h : s.Shaped) (e : Enrol) : (s.wakeUp e).Shaped := by
  unfold State.wakeUp; simp [h]

@[simp] theorem shaped_enrol (h : s.Shaped) (r : Req) (o : LaneOp) : (s.enrol r o).Shaped := by
  unfold State.enrol
  extract_lets +onlyGivenNames q s1
  have h1 : s1.Shaped := by
    dsimp -zeta only [s1]
    clear_value q
    split
    · simp [h]
    · exact h
  exact h1

@[simp] theorem shaped_tagNote (h : s.Shaped) (r : Req) : (s.tagNote r).Shaped := by
  unfold State.tagNote
  split
  · exact h
  · extract_lets +onlyGivenNames bad
    clear_value bad
    split
    · exact h
    · extract_lets +onlyGivenNames s1
      have h1 : s1.Shaped := by simp [s1, h]
      simp [h1]

@[simp] theorem shaped_poisonWrite (h : s.Shaped) (line : Nat) (full : Bool) : (s.poisonWrite line full).Shaped := by
  unfold State.poisonWrite; simp [h]

@[simp] theorem shaped_failReq (h : s.Shaped) (r : Req) (cause : Cause) : (s.failReq r cause).Shaped := h

@[simp] theorem shaped_applyOps (h : s.Shaped) (r : Req) (l : List LaneOp) : (s.applyOps r l).1.Shaped := by
  induction l generalizing s with
  | nil => exact h
  | cons o rest ih =>
    unfold State.applyOps
    dsimp -zeta only
    extract_lets +onlyGivenNames s1
    have h1 : s1.Shaped := by simp [s1, h]
    exact ih h1

@[simp] theorem shaped_loadValues (h : s.Shaped) (r : Req) : (s.loadValues r).1.Shaped := by
  unfold State.loadValues
  extract_lets +onlyGivenNames k memHome line
  split <;> simp [h]

@[simp] theorem shaped_coherence (h : s.Shaped) (r : Req) : (s.coherence r).Shaped := by
  unfold State.coherence; simp [h]

@[simp] theorem shaped_performHome {s0 : State} (hs0 : s0.Shaped) (r : Req) : (s0.performHome r).Shaped := by
  unfold State.performHome
  extract_lets +onlyGivenNames isCadd s1 s2 s3 bad
  have hs1 : s1.Shaped := by simp [s1, hs0]
  have hs2 : s2.Shaped := by simp [s2, hs1]
  have hs3 : s3.Shaped := by simp [s3, hs2]
  split
  · exact hs1
  · exact hs3
  · simp [hs3]
  · extract_lets +onlyGivenNames s4
    have hs4 : s4.Shaped := shaped_foldl (fun t a ht => by simp [ht]) _ hs3
    simp [hs4]
  · simp [hs3]
  · simp [hs3]
  · simp [hs3]
  · apply shaped_modReq
    apply shaped_foldl
    · intro t a ht
      apply shaped_contribute
      split <;> simp [ht]
    · exact hs3
  · split
    · exact hs3
    · exact shaped_foldl (fun t a ht => by simp [ht]) _ hs3
  · exact hs3
  · exact hs3
  · apply shaped_modReq
    exact shaped_foldl (fun t a ht => by simp [ht]) _ hs3

@[simp] theorem shaped_noteReq (h : s.Shaped) (r : Req) : (s.noteReq r).Shaped := by
  unfold State.noteReq; simp [h]

@[simp] theorem shaped_hostValues (h : s.Shaped) (r : Req) : (s.hostValues r).Shaped := by
  unfold State.hostValues
  repeat' split
  all_goals simp [h]

@[simp] theorem shaped_serveHost (h : s.Shaped) (r : Req) (link : Nat) : (s.serveHost r link).Shaped := by
  unfold State.serveHost; simp [h]

@[simp] theorem shaped_sendCapacity (h : s.Shaped) (r : Req) : (s.sendCapacity r).Shaped := by
  unfold State.sendCapacity; simp [h]

@[simp] theorem shaped_crossing (h : s.Shaped) : s.crossing.Shaped := by
  unfold State.crossing; simp [h]

@[simp] theorem shaped_execHomeAccessServe {s0 : State} (hs0 : s0.Shaped) : OutcomeShaped (execHomeAccessServe s0) := by
  unfold execHomeAccessServe
  extract_lets +onlyGivenNames s
  have hs : s.Shaped := by simp [s, hs0]
  split
  · simp [hs]
  · extract_lets +onlyGivenNames localHome
    split
    · simp [hs]
    · split
      · simp [hs]
      · split
        · rw [outcomeShaped_next]
          split <;> simp [hs]
        · extract_lets +onlyGivenNames s1
          have hs1 : s1.Shaped := by simp [s1, hs]
          split
          · simp [hs1]
          · split
            · simp [hs1]
            · extract_lets +onlyGivenNames s2
              have hs2 : s2.Shaped := by simp [s2, hs1]
              simp [hs2]

@[simp] theorem shaped_execWriterListRoom (h : s.Shaped) : OutcomeShaped (execWriterListRoom s) := by
  unfold execWriterListRoom; split <;> simp [h]

@[simp] theorem shaped_execCapacityTierCompletion (h : s.Shaped) : OutcomeShaped (execCapacityTierCompletion s) := by
  unfold execCapacityTierCompletion
  split
  · simp [h]
  · extract_lets +onlyGivenNames code
    split
    · simp [h]
    · extract_lets +onlyGivenNames seen done
      split
      · rw [outcomeShaped_next]
        dsimp -zeta only [done]
        extract_lets +onlyGivenNames s1 s2
        have hs1 : s1.Shaped := by
          dsimp -zeta only [s1]
          dsimp -zeta only [seen]
          simp [h]
        have hs2 : s2.Shaped := by simp [s2, hs1]
        simp [hs2]
      · rw [outcomeShaped_next]
        dsimp -zeta only [done]
        extract_lets +onlyGivenNames s1 s2
        have hs1 : s1.Shaped := by
          dsimp -zeta only [s1]
          dsimp -zeta only [seen]
          simp [h]
        have hs2 : s2.Shaped := by simp [s2, hs1]
        simp [hs2]
      · rw [outcomeShaped_next]
        apply shaped_failReq
        dsimp -zeta only [seen]
        simp [h]
      · rw [outcomeShaped_next]
        apply shaped_failReq
        dsimp -zeta only [seen]
        simp [h]
      · rw [outcomeShaped_next]
        apply shaped_failReq
        dsimp -zeta only [seen]
        simp [h]
      · rw [outcomeShaped_next]
        apply shaped_failReq
        dsimp -zeta only [seen]
        simp [h]
      · rw [outcomeShaped_next]
        apply shaped_failReq
        dsimp -zeta only [seen]
        simp [h]

/-! #### What Machine/Banks keeps shaped -/

@[simp] theorem shaped_sramEcc (h : s.Shaped) (k line : Nat) (o : EccOutcome) : (s.sramEcc k line o).Shaped := by
  unfold State.sramEcc
  extract_lets +onlyGivenNames syn rec'
  split
  · dsimp -zeta only [rec']
    apply shaped_scheduleTest
    simp [h]
  · dsimp -zeta only [rec']
    apply shaped_scheduleTest
    simp [h]
  · dsimp -zeta only [rec']
    apply shaped_scheduleTest
    simp [h]
  · dsimp -zeta only [rec']
    apply shaped_scheduleTest
    simp [h]
  · exact h

@[simp] theorem shaped_spadPoisonWrite (h : s.Shaped) (key : Nat) {b : Blk} (hb : b.Shaped) (line : Nat) (full : Bool) :
    (s.spadPoisonWrite key b line full).Shaped := by
  unfold State.spadPoisonWrite; simp [h, hb]

@[simp] theorem shaped_serveSpad (h : s.Shaped) (r : Req) (key : Nat) {b : Blk} (hb : b.Shaped) (lost : Bool) :
    (s.serveSpad r key b lost).Shaped := by
  unfold State.serveSpad
  extract_lets +onlyGivenNames bad
  split
  · simp [h]
  · extract_lets +onlyGivenNames b1
    have h1 : b1.Shaped := (blk_shaped_foldl (fun _ _ => spadWrite_shaped ..) _ _).2 hb
    exact shaped_modReq (shaped_spadPoisonWrite (h.withBlks (h.blks.nput key h1)) _ h1 ..) ..
  · have h2 : BlksShaped (nput key (spadApply b r r.ops).1 s.blks) := h.blks.nput _ ((spadApply_shaped ..).2 hb)
    simp [h, h2]

@[simp] theorem shaped_givePop (h : s.Shaped) (id : Nat) (e : FifoEntry) : (s.givePop id e).Shaped := by
  unfold State.givePop; split <;> simp [h]

@[simp] theorem shaped_noteFifo (h : s.Shaped) (k id : Nat) : (s.noteFifo k id).Shaped := by
  unfold State.noteFifo; split <;> simp [h]

@[simp] theorem shaped_serveWaits (h : s.Shaped) (k n : Nat) : (State.serveWaits k n s).Shaped := by
  induction n generalizing s with
  | zero => exact h
  | succ n ih =>
    unfold State.serveWaits
    extract_lets +onlyGivenNames b
    split
    · split
      · exact h
      · split
        · exact ih (shaped_modBank h ..)
        · exact ih (shaped_givePop (shaped_noteFifo (shaped_modBank h ..) ..) ..)
    · split
      · exact h
      · split
        · exact ih (shaped_modBank h ..)
        · exact ih (shaped_modReq (shaped_noteFifo (shaped_modBank h ..) ..) ..)
    · exact h

@[simp] theorem shaped_afterFifo (h : s.Shaped) (k : Nat) : (s.afterFifo k).Shaped := by
  unfold State.afterFifo; simp [h]

@[simp] theorem shaped_fifoPush (h : s.Shaped) (k : Nat) (e : FifoEntry) : (s.fifoPush k e).Shaped := by
  unfold State.fifoPush; simp [h]

@[simp] theorem shaped_fifoPop (h : s.Shaped) (k : Nat) : (s.fifoPop k).1.Shaped := by
  unfold State.fifoPop; split <;> simp [h]

@[simp] theorem shaped_serveFifo (h : s.Shaped) (r : Req) (k : Nat) : (s.serveFifo r k).Shaped := by
  unfold State.serveFifo
  extract_lets +onlyGivenNames b
  split
  · split
    · apply shaped_afterFifo
      exact h
    · dsimp -zeta only
      split
      · apply shaped_givePop
        simp [h]
      · simp [h]
  · split
    · apply shaped_afterFifo
      exact h
    · apply shaped_modReq
      simp [h]

@[simp] theorem shaped_waitAt (h : s.Shaped) (push : Bool) (k id : Nat) : (s.waitAt push k id).Shaped := h

@[simp] theorem shaped_leaveWait (h : s.Shaped) (push : Bool) (k id : Nat) : (s.leaveWait push k id).Shaped := h

@[simp] theorem shaped_serveLost (h : s.Shaped) (r : Req) : (s.serveLost r).Shaped := h

@[simp] theorem shaped_execBankRequestServe (h : s.Shaped) : OutcomeShaped (execBankRequestServe s) := by
  unfold execBankRequestServe
  extract_lets +onlyGivenNames k
  split
  · simp [h]
  · extract_lets +onlyGivenNames popped
    have hpopped : popped.Shaped := by simp [popped, h]
    split
    · simp [hpopped]
    · split
      · simp [h]
      · split
        · split
          · simp [hpopped]
          · rename_i e
            extract_lets +onlyGivenNames s1
            have hs1 : s1.Shaped := by simp [s1, hpopped]
            simp [hs1, h.blkOf e]
        · split
          · rw [outcomeShaped_next]
            apply shaped_admitReqs
            simp [hpopped]
          · rw [outcomeShaped_next]
            apply shaped_admitReqs
            simp [hpopped]
        · simp [hpopped]

@[simp] theorem shaped_beginChange (h : s.Shaped) (k : Nat) (m : BankMode) (owner : Option Nat) (by' : Option (Nat × Nat)) :
    (s.beginChange k m owner by').Shaped := by
  unfold State.beginChange; simp [h]

@[simp] theorem shaped_finishChange (h : s.Shaped) (k : Nat) : (s.finishChange k).Shaped := by
  unfold State.finishChange; split <;> simp [h]

@[simp] theorem shaped_execBankModeChangeDone (h : s.Shaped) : OutcomeShaped (execBankModeChangeDone s) := by
  unfold execBankModeChangeDone; simp [h]

@[simp] theorem shaped_execCfgbank (h : s.Shaped) (w : UniW) : OutcomeShaped (execCfgbank w s) := by
  unfold execCfgbank
  apply shaped_uniWordOp
  · exact h
  · intro u c b t hu hb ht
    extract_lets +onlyGivenNames sel cluster k m me issuer
    split
    · simp [h]
    · split
      · simp [h]
      · split
        · simp [h]
        · split
          · simp [hu]
          · split
            · exact h
            · split
              · simp [h]
              · split
                · exact h
                · extract_lets +onlyGivenNames s1
                  have hs1 : s1.Shaped := by simp [s1, h]
                  simp [hs1]

/-! #### What Machine/Image keeps shaped -/

@[simp] theorem shaped_writeImage (h : s.Shaped) (core bctx : Nat) {b : Blk} (hb : b.Shaped) (reason : Nat) :
    (s.writeImage core bctx b reason).Shaped := by
  unfold State.writeImage
  extract_lets +onlyGivenNames s1
  have hs1 : s1.Shaped := shaped_foldl (fun t a ht => by simp [ht]) _ h
  simp [hs1, hb]

@[simp] theorem shaped_imgSync (h : s.Shaped) (core bctx : Nat) : (s.imgSync core bctx).Shaped := by
  unfold State.imgSync; split <;> simp [h]

@[simp] theorem shaped_imgScaleIn (h : s.Shaped) (from' : Nat × Nat) (core : Nat) (b : Blk) : (s.imgScaleIn from' core b).Shaped := h

@[simp] theorem imgLoops_length (core bctx off masks : Nat) (ls : List LoopLvl) :
    (s.imgLoops core bctx off masks ls).length = ls.length := List.length_mapIdx

@[simp] theorem imgWarp_shaped {t : Thr} (ht : t.Shaped) (core bctx : Nat) (i : NodeInfo) (w seed : Nat) :
    (s.imgWarp core bctx i w seed t).Shaped := by
  unfold State.imgWarp
  extract_lets +onlyGivenNames base same d x
  refine ⟨by simp, by simp [ht], by simp, ?_⟩
  dsimp only
  split <;> simp [ht]

@[simp] theorem imgMatrix_shaped {t : Thr} (ht : t.Shaped) (core bctx base : Nat) : (s.imgMatrix core bctx base t).Shaped := by
  unfold State.imgMatrix; simp [ht]

@[simp] theorem imgBlk_shaped {b : Blk} (hb : b.Shaped) (core bctx : Nat) : (s.imgBlk core bctx b).Shaped := by
  unfold State.imgBlk
  refine ⟨by simp [hb], hb.thrs.map fun p hp => ?_⟩
  repeat' split
  all_goals simp [hp]

/-! #### What Machine/Landing keeps shaped -/

@[simp] theorem shaped_dropReq (h : s.Shaped) (id : Nat) : (s.dropReq id).Shaped := h

@[simp] theorem shaped_landed (h : s.Shaped) (r : Req) : (s.landed r).Shaped := by
  unfold State.landed; simp [h]

@[simp] theorem shaped_landFault (h : s.Shaped) (r : Req) (cause : Cause) : (s.landFault r cause).Shaped := by
  unfold State.landFault
  split
  · exact h
  · split
    · exact h
    · split
      · exact h
      · extract_lets +onlyGivenNames m
        split
        · simp [h]
        · apply shaped_foldl
          · intro u g hu
            split
            · exact hu
            · rename_i b2 e
              split
              · exact hu
              · rename_i t2 e'
                have hb := hu.blk e
                have ht := hb.thr e'
                repeat' split
                all_goals simp [hu, hb, ht]
          · exact h

@[simp] theorem shaped_landWatch (h : s.Shaped) (r : Req) (key : Nat) : (s.landWatch r key).Shaped := by
  unfold State.landWatch
  split
  · exact h
  · extract_lets +onlyGivenNames hs s1
    have h1 : s1.Shaped := by simp [s1, h]
    clear_value hs s1
    split
    · exact h1
    · extract_lets +onlyGivenNames m
      split
      · split
        · exact h1
        · exact shaped_endStream h1 ..
      · exact shaped_foldl (fun t g ht => shaped_queueTrap ht ..) _ h1

@[simp] theorem shaped_landReply (h : s.Shaped) (r : Req) : (s.landReply r).Shaped := by
  unfold State.landReply
  split
  · exact h
  · rename_i b e
    split
    · exact h
    · extract_lets +onlyGivenNames last key hs b1 b2 s1 s2 s3
      have hb1 : b1.Shaped := land_shaped (h.blk e) ..
      have hb2 : b2.Shaped := by
        dsimp -zeta only [b2]
        split
        · rename_i e'
          simp [hb1, hb1.thr e']
        · exact hb1
      have hs1 : s1.Shaped := shaped_landed (shaped_setBlk h _ _ hb2) r
      have hs2 : s2.Shaped := by simp [s2, hs1]
      have hs3 : s3.Shaped := by
        dsimp -zeta only [s3]
        split <;> simp [hs2]
      simp [hs3]

@[simp] theorem shaped_execReplyLanding (h : s.Shaped) : OutcomeShaped (execReplyLanding s) := by
  unfold execReplyLanding; split <;> simp [h]

@[simp] theorem shaped_imageReply (h : s.Shaped) (r : Req) (last : Bool) : (s.imageReply r last).Shaped := by
  unfold State.imageReply
  split
  · exact h
  · extract_lets +onlyGivenNames base i
    split
    · exact h
    · exact h
    · extract_lets +onlyGivenNames s1
      have hs1 : s1.Shaped := by
        dsimp -zeta only [s1]
        split <;> simp [h]
      simp [hs1]
    · extract_lets +onlyGivenNames s1
      have hs1 : s1.Shaped := by
        dsimp -zeta only [s1]
        apply shaped_foldl
        · intro t a ht
          apply shaped_foldl
          · intro t1 a1 ht1
            simp [ht1]
          · exact ht
        · exact h
      split <;> simp [hs1]

@[simp] theorem shaped_execParkedReplyLanding (h : s.Shaped) : OutcomeShaped (execParkedReplyLanding s) := by
  unfold execParkedReplyLanding; split <;> simp [h]

@[simp] theorem shaped_execStoreAcknowledge (h : s.Shaped) : OutcomeShaped (execStoreAcknowledge s) := by
  unfold execStoreAcknowledge
  split
  · simp [h]
  · split
    · simp [h]
    · extract_lets +onlyGivenNames s1 s2
      have hs1 : s1.Shaped := by simp [s1, h]
      have hs2 : s2.Shaped := by
        dsimp -zeta only [s2]
        split <;> simp [hs1]
      simp [hs2]

/-! #### What Machine/Sync keeps shaped -/

@[simp] theorem shaped_passToken (h : s.Shaped) (core bctx w : Nat) (edge : BitVec 3) (waiting : LaneStat → Bool) :
    (s.passToken core bctx w edge waiting).Shaped := shaped_giveToken h ..

@[simp] theorem shaped_barCheck (h : s.Shaped) (core bctx n w : Nat) : (s.barCheck core bctx n w).Shaped := by
  unfold State.barCheck
  split
  · exact h
  · extract_lets +onlyGivenNames k waits
    split
    · exact shaped_modBlk h _ _ fun b hb => by simp [lset, hb]
    · exact h

@[simp] theorem shaped_barsCheck (h : s.Shaped) (core bctx w : Nat) : (s.barsCheck core bctx w).Shaped := by
  unfold State.barsCheck
  exact shaped_foldl (fun t a ht => by simp [ht]) _ h

@[simp] theorem shaped_noteSync (h : s.Shaped) (c : Cur) (obj : Nat) (modifies : Bool) : (s.noteSync c obj modifies).Shaped := by
  unfold State.noteSync; simp [h]

@[simp] theorem shaped_arrive (h : s.Shaped) (c : Cur) (b : Blk) (t : Thr) (n : Nat) : (s.arrive c b t n).Shaped := by
  unfold State.arrive; simp [h]

@[simp] theorem shaped_arriveRest (h : s.Shaped) (c : Cur) : (s.arriveRest c).Shaped := by
  unfold State.arriveRest
  split
  · exact h
  · split
    · exact h
    · split
      · exact h
      · exact shaped_foldl (fun t a ht => by simp [ht]) _ h

@[simp] theorem shaped_syncWord (h : s.Shaped) (i : Instr) (w : UniW) (f : State → Cur → Blk → Thr → State)
    (hf : ∀ u c b t, u.Shaped → b.Shaped → t.Shaped → (f u c b t).Shaped) : OutcomeShaped (syncWord i w s f) := by
  unfold syncWord
  apply shaped_uniWordOp
  · exact h
  · intro u c b t hu hb ht
    simp [h, hf, hu, hb, ht]

@[simp] theorem shaped_syncEngineWord (h : s.Shaped) (i : Instr) (w : UniW) (f : State → Cur → Blk → Thr → State)
    (hf : ∀ u c b t, u.Shaped → b.Shaped → t.Shaped → (f u c b t).Shaped) : OutcomeShaped (syncEngineWord i w s f) := by
  unfold syncEngineWord
  apply shaped_syncWord
  · exact h
  · intro u c b t hu hb ht
    simp [h, hf, hu, hb, ht]

@[simp] theorem shaped_execBarinit (h : s.Shaped) (w : UniW) : OutcomeShaped (execBarinit w s) := by
  unfold execBarinit
  apply shaped_syncWord
  · exact h
  · intro u c b t hu hb ht
    extract_lets +onlyGivenNames n m k absent busy
    split
    · simp [hu]
    · refine shaped_retire (shaped_modBlk (by simp [hu]) _ _ fun b hb => ?_) ..
      simp [lset, hb]

@[simp] theorem shaped_barArrive (h : s.Shaped) (i : Instr) (w : UniW) (waits : Bool) : OutcomeShaped (barArrive i w s waits) := by
  unfold barArrive
  apply shaped_syncWord
  · exact h
  · intro u c b t hu hb ht
    extract_lets +onlyGivenNames n k
    repeat' split
    all_goals simp [hu]

@[simp] theorem shaped_execBar (h : s.Shaped) (w : UniW) : OutcomeShaped (execBar w s) := by
  unfold execBar; simp [h]

@[simp] theorem shaped_execBara (h : s.Shaped) (w : UniW) : OutcomeShaped (execBara w s) := by
  unfold execBara; simp [h]

@[simp] theorem shaped_execBarw (h : s.Shaped) (w : UniW) : OutcomeShaped (execBarw w s) := by
  unfold execBarw
  apply shaped_syncWord
  · exact h
  · intro u c b t hu hb ht
    extract_lets +onlyGivenNames n k
    repeat' split
    all_goals simp [hu]

@[simp] theorem shaped_execTokwait (h : s.Shaped) (w : UniW) : OutcomeShaped (execTokwait w s) := by
  unfold execTokwait
  apply shaped_uniWordOp
  · exact h
  · intro u c b t hu hb ht
    simp [hu]

@[simp] theorem shaped_putPhaser (h : s.Shaped) (n : Nat) (p : Phaser) : (s.putPhaser n p).Shaped := h

@[simp] theorem putS_foldl_shaped (b : Blk) (v : DWord) (l : List (Nat × Nat)) :
    (l.foldl (fun b d => b.putS d.1 v d.2) b).Shaped ↔ b.Shaped := blk_shaped_foldl (fun _ _ => putS_shaped ..) _ _

@[simp] theorem shaped_wakePhaser (h : s.Shaped) (n phase : Nat) : (s.wakePhaser n phase).Shaped := by
  refine h.withBlks (h.blks.map fun p => ?_)
  repeat' split
  all_goals exact ⟨rfl, fun hp => by simp [hp]⟩

@[simp] theorem shaped_phStep (h : s.Shaped) (n core bctx w : Nat) : (s.phStep n core bctx w).Shaped := by
  unfold State.phStep
  extract_lets +onlyGivenNames p sig
  split
  · simp [h]
  · split
    · exact shaped_putPhaser (shaped_wakePhaser (shaped_passToken h ..) ..) ..
    · exact h

@[simp] theorem shaped_phCheck (h : s.Shaped) (n core bctx w : Nat) : (s.phCheck n core bctx w).Shaped := by
  unfold State.phCheck; simp [h]

@[simp] theorem shaped_phDrop (h : s.Shaped) (n adm core bctx w : Nat) : (s.phDrop n adm core bctx w).Shaped := by
  unfold State.phDrop; simp [h]

@[simp] theorem shaped_phDropAll (h : s.Shaped) (core bctx w : Nat) : (s.phDropAll core bctx w).Shaped := by
  unfold State.phDropAll
  split
  · exact h
  · exact shaped_foldl (fun t a ht => by simp [ht]) _ h

@[simp] theorem shaped_phaserWord (h : s.Shaped) (i : Instr) (w : UniW) (joining : Bool)
    (f : State → Cur → Blk → Thr → Nat → PhMember → State)
    (hf : ∀ u c b t n m, u.Shaped → b.Shaped → t.Shaped → (f u c b t n m).Shaped) : OutcomeShaped (phaserWord i w s joining f) := by
  unfold phaserWord
  apply shaped_syncEngineWord
  · exact h
  · intro u c b t hu hb ht
    extract_lets +onlyGivenNames v n p
    repeat' split
    all_goals simp [hf, hu, hb, ht]

@[simp] theorem shaped_execPhreg (h : s.Shaped) (w : UniW) : OutcomeShaped (execPhreg w s) := by
  unfold execPhreg
  apply shaped_phaserWord
  · exact h
  · intro u c b t n m hu hb ht
    extract_lets +onlyGivenNames p mode
    split
    · simp [hu]
    · extract_lets +onlyGivenNames first
      apply shaped_putUni
      simp [hu]

@[simp] theorem shaped_execPhdrop (h : s.Shaped) (w : UniW) : OutcomeShaped (execPhdrop w s) := by
  unfold execPhdrop
  apply shaped_phaserWord
  · exact h
  · intro u c b t n m hu hb ht
    apply shaped_retire
    simp [hu]

@[simp] theorem shaped_phSignal (h : s.Shaped) (c : Cur) (b : Blk) (n f : Nat) : (s.phSignal c b n f).Shaped := h

@[simp] theorem shaped_execPhsig (h : s.Shaped) (w : UniW) : OutcomeShaped (execPhsig w s) := by
  unfold execPhsig
  apply shaped_phaserWord
  · exact h
  · intro u c b t n m hu hb ht
    simp [hu]

@[simp] theorem shaped_execPhwait (h : s.Shaped) (w : UniW) : OutcomeShaped (execPhwait w s) := by
  unfold execPhwait
  apply shaped_phaserWord
  · exact h
  · intro u c b t n m hu hb ht
    simp [hu]

@[simp] theorem shaped_execPhnext (h : s.Shaped) (w : UniW) : OutcomeShaped (execPhnext w s) := by
  unfold execPhnext
  apply shaped_phaserWord
  · exact h
  · intro u c b t n m hu hb ht
    simp [hu]

@[simp] theorem shaped_raiseBy (h : s.Shaped) (core bctx w n : Nat) (v : DWord) : (s.raiseBy core bctx w n v).Shaped :=
  shaped_passToken (by exact h) ..

@[simp] theorem shaped_execTlsig (h : s.Shaped) (w : UniW) : OutcomeShaped (execTlsig w s) := by
  unfold execTlsig
  apply shaped_syncEngineWord
  · exact h
  · intro u c b t hu hb ht
    extract_lets +onlyGivenNames n v k
    split
    · simp [hu]
    · split
      · simp [hu]
      · apply shaped_retire
        simp [hu]

@[simp] theorem shaped_execTlwait (h : s.Shaped) (w : UniW) : OutcomeShaped (execTlwait w s) := by
  unfold execTlwait
  apply shaped_syncEngineWord
  · exact h
  · intro u c b t hu hb ht
    simp [hu]

@[simp] theorem shaped_execTlread (h : s.Shaped) (w : UniW) : OutcomeShaped (execTlread w s) := by
  unfold execTlread
  apply shaped_syncEngineWord
  · exact h
  · intro u c b t hu hb ht
    simp [hu]

@[simp] theorem shaped_execStage (h : s.Shaped) (w : UniW) : OutcomeShaped (execStage w s) := by
  unfold execStage
  apply shaped_syncWord
  · exact h
  · intro u c b t hu hb ht
    simp [hu]

@[simp] theorem shaped_dropRel (h : s.Shaped) (id : Nat) : (s.dropRel id).Shaped := h

@[simp] theorem shaped_noteRel (h : s.Shaped) (k : Rel) (obj : Nat) (modifies : Bool) (close : Nat) :
    (s.noteRel k obj modifies close).Shaped := by
  unfold State.noteRel; simp [h]

@[simp] theorem shaped_finishRel (h : s.Shaped) (k : Rel) : (s.finishRel k).Shaped := by
  unfold State.finishRel
  split
  · simp [h]
  · exact h
  · simp [h]
  · simp [h]
  · extract_lets +onlyGivenNames s1 p ms
    have hs1 : s1.Shaped := by simp [s1, h]
    simp [hs1]
  · apply shaped_barCheck
    simp [h]
  · simp [h]

@[simp] theorem shaped_execReleaseComplete (h : s.Shaped) : OutcomeShaped (execReleaseComplete s) := by
  unfold execReleaseComplete; split <;> simp [h]

@[simp] theorem shaped_execCodepubComplete (h : s.Shaped) : OutcomeShaped (execCodepubComplete s) := by
  unfold execCodepubComplete
  split
  · simp [h]
  · split
    · simp [h]
    · split
      · rw [outcomeShaped_next]
        apply shaped_admitReqs
        simp [h]
      · simp [h]
    · simp [h]

@[simp] theorem shaped_wakeUpTo (h : s.Shaped) (ctx addr n : Nat) : (s.wakeUpTo ctx addr n).Shaped := by
  unfold State.wakeUpTo
  exact shaped_foldl (fun t a ht => by simp [ht]) _ h

@[simp] theorem shaped_execWakeaddrHomeAct (h : s.Shaped) : OutcomeShaped (execWakeaddrHomeAct s) := by
  unfold execWakeaddrHomeAct
  split
  · simp [h]
  · extract_lets +onlyGivenNames earlier
    split
    · simp [h]
    · rw [outcomeShaped_next]
      apply shaped_dropReq
      apply shaped_foldl
      · intro t a ht
        simp [ht]
      · simp [h]

/-! #### What Machine/Tiles keeps shaped -/

@[simp] theorem shaped_modTile (h : s.Shaped) (core j : Nat) (f : Tile → Tile) : (s.modTile core j f).Shaped := h

@[simp] theorem shaped_tileDrain (h : s.Shaped) (core bctx j : Nat) : (s.tileDrain core bctx j).Shaped := by
  unfold State.tileDrain
  extract_lets +onlyGivenNames t
  repeat' split
  all_goals simp [h]

@[simp] theorem shaped_dropReader (h : s.Shaped) (core bctx id : Nat) : (s.dropReader core bctx id).Shaped := by
  unfold State.dropReader
  extract_lets +onlyGivenNames js
  exact shaped_foldl (fun t a ht => by simp [ht]) _ h

@[simp] theorem shaped_addReader (h : s.Shaped) (core j id : Nat) : (s.addReader core j id).Shaped := h

/-! #### What Machine/Nodes keeps shaped -/

@[simp] theorem shaped_setNode (h : s.Shaped) (n : ArmNode) : (s.setNode n).Shaped := h

/-! #### What Machine/Exit keeps shaped -/

@[simp] theorem shaped_leaveGang (h : s.Shaped) (b : Blk) (core bctx : Nat) : (s.leaveGang b core bctx).Shaped := h

@[simp] theorem shaped_dropBlk (h : s.Shaped) (key : Nat) (b : Blk) : (s.dropBlk key b).Shaped :=
  ⟨h.ports, h.dev, h.blks.ndel key⟩

@[simp] theorem shaped_sweep (h : s.Shaped) : s.sweep.Shaped := by
  unfold State.sweep
  exact shaped_foldl (fun t a ht => by simp [ht]) _ h

@[simp] theorem shaped_passAsync {s0 : State} (hs0 : s0.Shaped) (core bctx w : Nat) : (s0.passAsync core bctx w).Shaped := by
  unfold State.passAsync
  extract_lets +onlyGivenNames s
  have hs : s.Shaped := by simp [s, hs0]
  split
  · exact hs
  · extract_lets +onlyGivenNames s1 s2
    have hs1 : s1.Shaped := by simp [s1, hs]
    have hs2 : s2.Shaped := by
      dsimp -zeta only [s2]
      split <;> simp [hs1]
    exact shaped_foldl (fun t a ht => by simp [ht]) _ hs2

@[simp] theorem shaped_afterExit (h : s.Shaped) (c : Cur) : (s.afterExit c).Shaped := by
  unfold State.afterExit
  extract_lets +onlyGivenNames s1
  have hs1 : s1.Shaped := by simp [s1, h]
  split
  · exact hs1
  · split
    · apply shaped_sweep
      apply shaped_passAsync
      simp [hs1]
    · exact hs1

/-! #### What Machine/Matrix keeps shaped -/

@[simp] theorem shaped_noteRows (h : s.Shaped) (c : Cur) (issuer w r n : Nat) (modifies : Bool) :
    (s.noteRows c issuer w r n modifies).Shaped := by
  unfold State.noteRows
  exact shaped_foldl (fun t a ht => by simp [ht]) _ h

@[simp] theorem shaped_accMove (h : s.Shaped) (i : Instr) (w : LaneW) (x : MemX) (writes : Bool)
    (f : State → Cur → Thr → Nat → Nat → Nat → Word → State) (hf : ∀ y0 y1 y2 y3 y4 y5 y6, y0.Shaped → (f y0 y1 y2 y3 y4 y5 y6).Shaped) :
    OutcomeShaped (accMove i w x s writes f) := by
  unfold accMove
  apply shaped_laneWordOp
  · exact h
  · intro c b t m hb ht
    extract_lets +onlyGivenNames n v r
    split
    · simp [h]
    · split
      · simp [h]
      · split
        · exact h
        · extract_lets +onlyGivenNames s1
          have hs1 : s1.Shaped := by simp [s1, h]
          simp [hf, hs1]

@[simp] theorem shaped_execAccrd (h : s.Shaped) (w : LaneW) (x : MemX) : OutcomeShaped (execAccrd w x s) := by
  unfold execAccrd
  apply shaped_accMove
  · exact h
  · intro u c t v r n m hu
    split
    · exact hu
    · exact shaped_modThr hu _ _ _ fun t ht => (thr_shaped_foldl (fun _ _ => putRow_shaped ..) _ _).2 ht

@[simp] theorem shaped_execAccwr (h : s.Shaped) (w : LaneW) (x : MemX) : OutcomeShaped (execAccwr w x s) := by
  unfold execAccwr
  apply shaped_accMove
  · exact h
  · intro u c t v r n m hu
    exact shaped_modThr hu _ _ _ fun t ht => (thr_shaped_foldl (fun _ _ => putRow_shaped ..) _ _).2 ht

@[simp] theorem shaped_kilnWord (h : s.Shaped) (i : Instr) (ok : Blk → Bool) (regs : List (BitVec 8)) (f : State → Cur → Blk → Thr → State)
    (hf : ∀ u c b t, u.Shaped → b.Shaped → t.Shaped → (f u c b t).Shaped) : OutcomeShaped (kilnWord i s ok regs f) := by
  unfold kilnWord
  apply shaped_ctlWordOp
  · exact h
  · intro c b t hb ht
    split
    · simp [h]
    · exact hf _ c b t (by simp [h]) hb ht

@[simp] theorem shaped_noteTile (h : s.Shaped) (c : Cur) (j : Nat) (modifies : Bool) : (s.noteTile c j modifies).Shaped := by
  unfold State.noteTile; simp [h]

@[simp] theorem shaped_startKiln (h : s.Shaped) (c : Cur) (b : Blk) (t : Thr) (i : Instr) (base k0 : Nat) (sv : DWord) (reads : List Nat)
    (site : Bool) : (s.startKiln c b t i base k0 sv reads site).Shaped := by
  unfold State.startKiln
  extract_lets +onlyGivenNames id lseq s1 s2
  have hs1 : s1.Shaped := by simp [s1, h]
  have hs2 : s2.Shaped := by
    dsimp -zeta only [s2]
    apply shaped_foldl
    · intro t1 a ht
      exact ht
    · exact hs1
  simp [hs2]

@[simp] theorem shaped_setKilnWait (h : s.Shaped) (core : Nat) (w : Option Bool) : (s.setKilnWait core w).Shaped := h

@[simp] theorem shaped_mmaIssue (h : s.Shaped) (i : Instr) (w : MmaW) : OutcomeShaped (mmaIssue i w s) := by
  unfold mmaIssue
  apply shaped_kilnWord
  · exact h
  · intro u c b t hu hb ht
    split
    · simp [h]
    · split
      · simp [h]
      · extract_lets +onlyGivenNames ja jb da db base k0 n last
        split
        · simp [h]
        · split
          · simp [h]
          · split
            · exact h
            · extract_lets +onlyGivenNames s1
              have hs1 : s1.Shaped := by
                dsimp -zeta only [s1]
                apply shaped_noteRows
                simp [hu]
              simp [hs1]

@[simp] theorem shaped_execMzero (h : s.Shaped) (w : MzeroW) : OutcomeShaped (execMzero w s) := by
  unfold execMzero
  apply shaped_kilnWord
  · exact h
  · intro u c b t hu hb ht
    simp [hu]

@[simp] theorem shaped_execScld (h : s.Shaped) (w : ScldW) : OutcomeShaped (execScld w s) := by
  unfold execScld
  apply shaped_kilnWord
  · exact h
  · intro u c b t hu hb ht
    simp [h, hu]

@[simp] theorem shaped_moveIssue (h : s.Shaped) (i : Instr) (w : MmoveW) (store : Bool) : OutcomeShaped (moveIssue i w s store) := by
  unfold moveIssue
  apply shaped_kilnWord
  · exact h
  · intro u c b t hu hb ht
    extract_lets +onlyGivenNames j e d base side n v k
    split
    · simp [h]
    · split
      · simp [h]
      · split
        · simp [h]
        · split
          · simp [h]
          · split
            · simp [h]
            · split
              · simp [h]
              · extract_lets +onlyGivenNames s1 s2 s3
                have hs1 : s1.Shaped := by simp [s1, hu]
                have hs2 : s2.Shaped := by simp [s2, hs1]
                have hs3 : s3.Shaped := by simp [s3, hs2]
                simp [hs3]

@[simp] theorem shaped_execTrel (h : s.Shaped) (w : TrelW) : OutcomeShaped (execTrel w s) := by
  unfold execTrel
  apply shaped_kilnWord
  · exact h
  · intro u c b t hu hb ht
    extract_lets +onlyGivenNames j v
    split
    · simp [hu]
    · split
      · simp [hu]
      · extract_lets +onlyGivenNames s1
        have hs1 : s1.Shaped := by simp [s1, hu]
        apply shaped_retire
        simp [hs1]

@[simp] theorem shaped_execTacq (h : s.Shaped) (w : TrelW) : OutcomeShaped (execTacq w s) := by
  unfold execTacq
  apply shaped_kilnWord
  · exact h
  · intro u c b t hu hb ht
    simp [hu]

@[simp] theorem shaped_execMwait (h : s.Shaped) (w : TrelW) : OutcomeShaped (execMwait w s) := by
  unfold execMwait
  apply shaped_kilnWord
  · exact h
  · intro u c b t hu hb ht
    simp [hu]

@[simp] theorem shaped_kilnEffect (h : s.Shaped) (k : MCmd) {b : Blk} (hb : b.Shaped) (bad : Bool) : (s.kilnEffect k b bad).Shaped := by
  unfold State.kilnEffect
  extract_lets +onlyGivenNames desc core scale free
  split
  · simp [h]
  · simp [h]
  · simp [h]
  · exact h
  · extract_lets +onlyGivenNames d
    split
    · exact h
    · extract_lets +onlyGivenNames size b1 whole part s1
      have hb1 : b1.Shaped := (blk_shaped_foldl (fun _ _ => blk_shaped_foldl (fun _ _ => spadWrite_shaped ..) _ _) _ _).2 hb
      have hs1 : s1.Shaped := by simp [s1, h, hb1]
      exact shaped_foldl (fun t a ht => by simp [ht, hb1]) _ hs1
  · simp [h]
  · exact h

@[simp] theorem shaped_kilnSignals (h : s.Shaped) (k : MCmd) (b : Blk) : (s.kilnSignals k b).Shaped := by
  unfold State.kilnSignals
  extract_lets +onlyGivenNames signal
  split
  · dsimp -zeta only [signal]
    extract_lets +onlyGivenNames s1 s2
    have hs1 : s1.Shaped := by simp [s1, h]
    have hs2 : s2.Shaped := by simp [s2, hs1]
    simp [hs2]
  · dsimp -zeta only [signal]
    simp [h]
  · exact h

@[simp] theorem shaped_kilnFails (h : s.Shaped) (k : MCmd) (cause : Cause) : (s.kilnFails k cause).Shaped := by
  unfold State.kilnFails; simp [h]

@[simp] theorem shaped_execMatrixCommandComplete (h : s.Shaped) : OutcomeShaped (execMatrixCommandComplete s) := by
  unfold execMatrixCommandComplete
  split
  · simp [h]
  · extract_lets +onlyGivenNames first
    split
    · simp [h]
    · rename_i b e
      have hb := h.blk e
      split
      · simp [h]
      · extract_lets +onlyGivenNames desc bad s0 s1 s2 s3 s4
        have hs0 : s0.Shaped := by simp [s0, h]
        have hs1 : s1.Shaped := by simp [s1, hs0, hb]
        have hs2 : s2.Shaped := by simp [s2, hs1]
        have hs3 : s3.Shaped := by simp [s3, hs2]
        have hs4 : s4.Shaped := by simp [s4, hs3]
        simp [hs4]

/-! #### What Machine/Uniform keeps shaped -/

@[simp] theorem shaped_execScmp (h : s.Shaped) (w : UniW) : OutcomeShaped (execScmp w s) := by
  unfold execScmp
  apply shaped_uniWordOp
  · exact h
  · intro u c b t hu hb ht
    simp [hu]

@[simp] theorem shaped_uniAccess (h : s.Shaped) (c : Cur) (b : Blk) (t : Thr) (us ud : List Nat) (f : MemForm) (va data : DWord) :
    (s.uniAccess c b t us ud f va data).Shaped := by
  unfold State.uniAccess
  extract_lets +onlyGivenNames priv low failAll
  split
  · simp [h]
  · split
    · exact h
    · split
      · dsimp -zeta only [failAll]
        simp [h]
      · dsimp -zeta only [failAll]
        simp [h]
      · exact h
      · extract_lets +onlyGivenNames at' g r
        extract_lets +onlyGivenNames r1
        split
        · exact h
        · extract_lets +onlyGivenNames kind hit remote later stay s1 s2
          have hs1 : s1.Shaped := by
            dsimp -zeta only [s1]
            apply shaped_addReqs
            apply shaped_markDst
            simp [h]
          have hs2 : s2.Shaped := by
            dsimp -zeta only [s2]
            split <;> simp [hs1]
          simp [hs2]

@[simp] theorem shaped_execV2s (h : s.Shaped) (w : UniW) : OutcomeShaped (execV2s w s) := by
  unfold execV2s
  extract_lets +onlyGivenNames n wide
  apply shaped_ctlUniOp
  · exact h
  · simp [h]

/-! #### What Machine/CopyIssue keeps shaped -/

@[simp] theorem shaped_imgStatus (h : s.Shaped) (core bctx w : Nat) : (s.imgStatus core bctx w).Shaped := by
  unfold State.imgStatus
  repeat' split
  all_goals simp [h]

@[simp] theorem shaped_dropCmd (h : s.Shaped) (id : Nat) : (s.dropCmd id).Shaped := h

@[simp] theorem shaped_modCmd (h : s.Shaped) (id : Nat) (f : Cmd → Cmd) : (s.modCmd id f).Shaped := h

@[simp] theorem shaped_raiseCmds (h : s.Shaped) : s.raiseCmds.Shaped := by
  unfold State.raiseCmds
  apply shaped_foldl
  · intro t a ht
    split <;> simp [ht]
  · exact h

@[simp] theorem shaped_cmdTrap (h : s.Shaped) (k : Cmd) (cause : Cause) (addr : DWord) (toWarp : Bool) :
    (s.cmdTrap k cause addr toWarp).Shaped := by
  unfold State.cmdTrap; simp [h]

@[simp] theorem shaped_leaveBanks (h : s.Shaped) (id : Nat) : (s.leaveBanks id).Shaped := by
  unfold State.leaveBanks
  apply shaped_foldl
  · intro t a ht
    apply shaped_afterFifo
    exact ht
  · exact h

@[simp] theorem shaped_endCmd (h : s.Shaped) (id : Nat) : (s.endCmd id).Shaped := by
  unfold State.endCmd
  split
  · exact h
  · extract_lets +onlyGivenNames alive s1 s2 s3 s4 s5
    have hs1 : s1.Shaped := by simp [s1, h]
    have hs2 : s2.Shaped := by
      dsimp -zeta only [s2]
      apply shaped_foldl
      · intro t a ht
        exact ht
      · exact hs1
    have hs3 : s3.Shaped := by simp [s3, hs2]
    have hs4 : s4.Shaped := by
      dsimp -zeta only [s4]
      split <;> simp [hs3]
    have hs5 : s5.Shaped := by
      dsimp -zeta only [s5]
      split <;> simp [hs4]
    apply shaped_sweep
    apply shaped_raiseCmds
    simp [hs5]

@[simp] theorem shaped_cpyrMark (h : s.Shaped) (c : Cur) (i : Instr) (sd : DWord) : (s.cpyrMark c i sd).Shaped := by
  unfold State.cpyrMark; split <;> simp [h]

@[simp] theorem shaped_issueCmd (h : s.Shaped) (c : Cur) (b : Blk) (t : Thr) (i : Instr) (x : CpyX) (st : Option Nat) (a : CpyArgs)
    (fills : List (Nat × Nat)) (items : Nat) : (s.issueCmd c b t i x st a fills items).Shaped := by
  unfold State.issueCmd
  extract_lets +onlyGivenNames id k s1 s2 s3 s4 s5 s6
  have hs1 : s1.Shaped := by simp [s1, h]
  have hs2 : s2.Shaped := by simp [s2, hs1]
  have hs3 : s3.Shaped := by
    dsimp -zeta only [s3]
    apply shaped_foldl
    · intro t1 a1 ht
      exact ht
    · exact hs2
  have hs4 : s4.Shaped := by
    dsimp -zeta only [s4]
    split <;> simp [hs3]
  have hs5 : s5.Shaped := by simp [s5, hs4]
  have hs6 : s6.Shaped := by simp [s6, hs5]
  simp [hs6]

@[simp] theorem shaped_copyWord (h : s.Shaped) (i : Instr) (w : UniW) (x : CpyX) (st : BitVec 7) : OutcomeShaped (copyWord i w x st s) := by
  unfold copyWord
  apply shaped_ctlWordOp
  · exact h
  · intro c b t hb ht
    extract_lets +onlyGivenNames s0 a named desc d fills srcSt
    have hs0 : s0.Shaped := by simp [s0, h]
    split
    · simp [h]
    · repeat' split
      all_goals simp [h, hs0]

@[simp] theorem shaped_execCpy (h : s.Shaped) (w : UniW) (x : CpyX) (y : CpyY) : OutcomeShaped (execCpy w x y s) := by
  unfold execCpy; simp [h]

@[simp] theorem shaped_execCpyfill (h : s.Shaped) (w : UniW) (x : CpyX) (y : CpyY) : OutcomeShaped (execCpyfill w x y s) := by
  unfold execCpyfill; simp [h]

@[simp] theorem shaped_execCpym (h : s.Shaped) (w : UniW) (x : CpyX) (y : CpyY) : OutcomeShaped (execCpym w x y s) := by
  unfold execCpym; simp [h]

@[simp] theorem shaped_execCpyp (h : s.Shaped) (w : UniW) (x : CpyX) (y : CpyY) : OutcomeShaped (execCpyp w x y s) := by
  unfold execCpyp; simp [h]

@[simp] theorem shaped_execCpyx (h : s.Shaped) (w : UniW) (x : CpyX) (y : CpyY) : OutcomeShaped (execCpyx w x y s) := by
  unfold execCpyx; simp [h]

@[simp] theorem shaped_execCpyr (h : s.Shaped) (w : UniW) (x : CpyX) (y : CpyY) : OutcomeShaped (execCpyr w x y s) := by
  unfold execCpyr; simp [h]

@[simp] theorem shaped_execCpymc (h : s.Shaped) (w : UniW) (x : CpyX) (y : CpyY) : OutcomeShaped (execCpymc w x y s) := by
  unfold execCpymc; simp [h]

@[simp] theorem shaped_execCpyg (h : s.Shaped) (w : UniW) (x : CpyX) (y : CpyY) : OutcomeShaped (execCpyg w x y s) := by
  unfold execCpyg; simp [h]

@[simp] theorem shaped_execCpys (h : s.Shaped) (w : UniW) (x : CpyX) (y : CpyY) : OutcomeShaped (execCpys w x y s) := by
  unfold execCpys; simp [h]

@[simp] theorem shaped_execColl (h : s.Shaped) (w : UniW) (x : CpyX) : OutcomeShaped (execColl w x s) := by
  unfold execColl; simp [h]

@[simp] theorem shaped_countLseq (h : s.Shaped) (c : Cur) : (s.countLseq c).Shaped := by
  unfold State.countLseq; simp [h]

@[simp] theorem shaped_execStagew (h : s.Shaped) (w : UniW) (x : Word) : OutcomeShaped (execStagew w x s) := by
  unfold execStagew
  apply shaped_uniWordOp
  · exact h
  · intro u c b t hu hb ht
    extract_lets +onlyGivenNames v
    split
    · simp [h]
    · split
      · exact h
      · apply shaped_retire
        simp [hu]

@[simp] theorem shaped_writeTile (h : s.Shaped) (c : Cur) (b : Blk) (t : Thr) (n : Nat) (rdy : Bool) (d : BitVec 128) :
    (s.writeTile c b t n rdy d).Shaped := by
  unfold State.writeTile
  extract_lets +onlyGivenNames j
  split
  · simp [h]
  · split
    · exact h
    · apply shaped_retire
      apply shaped_countLseq
      simp [h]

@[simp] theorem shaped_tsetFault (h : s.Shaped) (c : Cur) {b : Blk} (hb : b.Shaped) {t : Thr} (ht : t.Shaped) (k : Cause) (va : DWord)
    (page : Option Nat) :
    (s.tsetFault c b t k va page).Shaped := by
  unfold State.tsetFault; simp [h, hb, ht]

@[simp] theorem shaped_execTset (h : s.Shaped) (w : UniW) (x1 x2 : Word) : OutcomeShaped (execTset w x1 x2 s) := by
  unfold execTset
  extract_lets +onlyGivenNames n rdy
  apply shaped_ctlWordOp
  · exact h
  · intro c b t hb ht
    extract_lets +onlyGivenNames a
    split
    · simp [h]
    · split
      · extract_lets +onlyGivenNames s1 d
        have hs1 : s1.Shaped := by simp [s1, h]
        repeat' split
        all_goals simp [h, hs1, hb, ht]
      · extract_lets +onlyGivenNames priv
        split
        · simp [h]
        · exact shaped_tsetFault h c hb ht ..
        · exact shaped_tsetFault h c hb ht ..
        · split
          · exact h
          · extract_lets +onlyGivenNames at' g r
            extract_lets +onlyGivenNames r1
            split
            · exact h
            · apply shaped_stall
              simp [h]

/-! #### What Machine/CopyRun keeps shaped -/

@[simp] theorem shaped_s_eng {self : Eng} (hself : self.Shaped) : (Eng.s self).Shaped := by
  unfold Eng.s
  exact hself

@[simp] theorem shaped_note_eng (h : e.Shaped) (obj : Nat) (w : Bool) (a : Option Nat) : (Eng.note e obj w a).Shaped := by
  unfold Eng.note; simp [h]

@[simp] theorem shaped_watch_eng (h : e.Shaped) (va : DWord) (n : Nat) : (Eng.watch e va n).Shaped := by
  unfold Eng.watch; simp [h]

@[simp] theorem shaped_mismatch_eng (h : e.Shaped) (v : DWord) : (Eng.mismatch e v).Shaped := h

@[simp] theorem shaped_take_eng (h : e.Shaped) (n : Nat) : ExceptShaped (fun x => x.1.s) (Eng.take e n) := by
  unfold Eng.take; simp [h]

@[simp] theorem shaped_peer_eng (h : e.Shaped) (dev : BitVec 16) (op : PeerOp) (va : DWord) (tag : Nat) : ExceptShaped Eng.s
    (Eng.peer e dev op va tag) := by
  unfold Eng.peer; simp [h]

@[simp] theorem shaped_peerRead_eng (h : e.Shaped) (dev : BitVec 16) (va : DWord) (n : Nat) : ExceptShaped (fun x => x.1.s)
    (Eng.peerRead e dev va n) := by
  unfold Eng.peerRead
  repeat' split
  all_goals simp [h]

@[simp] theorem shaped_peerWrite_eng (h : e.Shaped) (dev : BitVec 16) (va : DWord) (bs : List Byte) : ExceptShaped Eng.s
    (Eng.peerWrite e dev va bs) := by
  unfold Eng.peerWrite
  split
  · simp
  · rename_i t e1
    have ht : t.Shaped := (shaped_peer_eng h ..).ok e1
    exact ht

@[simp] theorem shaped_askPeer (h : s.Shaped) (k : Cmd) (dev : BitVec 16) (va : DWord) (n : Nat) : (s.askPeer k dev va n).Shaped := by
  unfold State.askPeer; simp [h]

@[simp] theorem shaped_dropReplies (h : s.Shaped) (k : Cmd) : (s.dropReplies k).Shaped := h

@[simp] theorem shaped_cached_eng (h : s.Shaped) (e : Eng) (l : Option Leaf) (line : Nat) : (Eng.cached e l line s).Shaped := by
  unfold Eng.cached; split <;> simp [h]

@[simp] theorem shaped_sram_eng (h : e.Shaped) (bank line : Nat) : (Eng.sram e bank line).Shaped := by
  unfold Eng.sram; simp [h]

@[simp] theorem shaped_readAt_eng (h : e.Shaped) (v : DWord) (n : Nat) (h1 : Home) (a : Nat) (l : Option Leaf) :
    ExceptShaped (fun x => x.1.s)
    (Eng.readAt e v n h1 a l) := by
  unfold Eng.readAt
  split
  · extract_lets +onlyGivenNames line
    split
    · simp
    · split
      · simp
      · extract_lets +onlyGivenNames e1 s0 s1 e2
        have he1 : e1.Shaped := by simp [e1, h]
        have hs0 : s0.Shaped := by simp [s0, he1]
        have hs1 : s1.Shaped := by simp [s1, hs0]
        have he2 : e2.Shaped := by
          dsimp -zeta only [e2]
          apply shaped_gather
          simp [hs1]
        simp [he2]
  · split <;> simp [h]
  · simp [h]
  · simp [h]
  · simp

@[simp] theorem shaped_readN_eng (h : e.Shaped) (glob : Bool) (fuel : Nat) (va : DWord) (n : Nat) : ExceptShaped (fun x => x.1.s)
    (Eng.readN glob fuel e va n) := by
  induction fuel generalizing e va n with
  | zero => exact h
  | succ fuel ih =>
    cases n with
    | zero => exact h
    | succ n =>
      rw [Eng.readN]
      · split
        · trivial
        · extract_lets k
          split
          · trivial
          · rename_i e1 _ he
            have h1 : e1.Shaped := (shaped_readAt_eng (shaped_watch_eng h ..) ..).ok he
            split
            · trivial
            · rename_i e2 _ he2
              have h2 : e2.Shaped := (ih h1 ..).ok he2
              exact h2
      · exact n.succ_ne_zero

@[simp] theorem shaped_src_eng (h : e.Shaped) (va : DWord) (n : Nat) (base : DWord) :
    ExceptShaped (fun x => x.1.s) (Eng.src e va n base) := by
  unfold Eng.src; simp [h]

@[simp] theorem shaped_covers_eng (h : e.Shaped) (h1 : Home) (a n : Nat) : (Eng.covers e h1 a n).Shaped := by
  unfold Eng.covers; simp [h]

@[simp] theorem shaped_unset_eng (h : e.Shaped) (x : Home) (a : Nat) (bs : List Byte) : (e.unset x a bs).Shaped := by
  unfold Eng.unset
  split
  · exact h
  · split
    · exact h
    · rename_i key b eb
      exact State.Shaped.withBlks h (BlksShaped.nput h.blks key ((spadWrite_shaped b a bs).2 (h.blkOf eb)))
  · exact h

@[simp] theorem shaped_writeAt_eng (h : e.Shaped) (v : DWord) (data : List Byte) (h1 : Home) (a : Nat) (l : Option Leaf) :
    ExceptShaped Eng.s
    (Eng.writeAt e v data h1 a l) := by
  unfold Eng.writeAt
  extract_lets +onlyGivenNames bs
  split
  · simp [h]
  · split
    · extract_lets +onlyGivenNames line pub writer
      split
      · simp
      · split
        · simp
        · extract_lets +onlyGivenNames bad e1
          have he1 : e1.Shaped := by simp [e1, h]
          split
          · simp
          · split
            · simp [he1]
            · extract_lets +onlyGivenNames e2 s1 s2 s3
              have he2 : e2.Shaped := by simp [e2, he1]
              have hs1 : s1.Shaped := by simp [s1, he2]
              have hs2 : s2.Shaped := by simp [s2, hs1]
              have hs3 : s3.Shaped := by simp [s3, hs2]
              simp [hs3]
    · rename_i adm
      split
      · simp
      · rename_i key b eb
        simp only [exceptShaped_ok, eng_s_shaped_iff]
        have he1 := shaped_note_eng h (objSpad adm (a / 128)) true none
        have hb : (b.spadWrite a bs).Shaped := (spadWrite_shaped b a bs).2 (h.blkOf eb)
        have hs1 := State.Shaped.withBlks he1 (BlksShaped.nput (State.Shaped.blks he1) key hb)
        apply shaped_covers_eng
        exact hs1
    · simp [h]
    · simp [h]
    · simp

@[simp] theorem shaped_writeN_eng (h : e.Shaped) (glob : Bool) (fuel : Nat) (va : DWord) (bs : List Byte) : ExceptShaped Eng.s
    (Eng.writeN glob fuel e va bs) := by
  induction fuel generalizing e va bs with
  | zero => exact h
  | succ fuel ih =>
    cases bs with
    | nil => exact h
    | cons b bs =>
      rw [Eng.writeN]
      · split
        · trivial
        · split
          · trivial
          · rename_i he
            exact ih ((shaped_writeAt_eng (shaped_watch_eng h ..) ..).ok he) ..
      · exact List.cons_ne_nil b bs

@[simp] theorem shaped_dst_eng (h : e.Shaped) (va : DWord) (bs : List Byte) (base : DWord) : ExceptShaped Eng.s (Eng.dst e va bs base) := by
  unfold Eng.dst; simp [h]

@[simp] theorem shaped_spad_eng (h : e.Shaped) (adm o : Nat) (bs : List Byte) : ExceptShaped Eng.s (Eng.spad e adm o bs) := by
  unfold Eng.spad
  split
  · simp [h]
  · apply exceptShaped_foldlM
    · intro b a ht
      extract_lets +onlyGivenNames lo hi
      apply shaped_writeAt_eng
      apply shaped_watch_eng
      exact ht
    · exact h

@[simp] theorem shaped_peerSrc_eng (h : e.Shaped) (dev : BitVec 16) (va : DWord) (n : Nat) : ExceptShaped (fun x => x.1.s)
    (Eng.peerSrc e dev va n) := by
  unfold Eng.peerSrc
  apply exceptShaped_foldlM
  · intro b a ht
    apply exceptShaped_bind
    · apply shaped_peerRead_eng
      exact ht
    · simp
  · exact h

@[simp] theorem shaped_peerDst_eng (h : e.Shaped) (dev : BitVec 16) (va : DWord) (bs : List Byte) : ExceptShaped Eng.s
    (Eng.peerDst e dev va bs) := by
  unfold Eng.peerDst
  apply exceptShaped_foldlM
  · intro b a ht
    apply shaped_peerWrite_eng
    exact ht
  · exact h

@[simp] theorem shaped_pop_eng (h : e.Shaped) (va : DWord) : ExceptShaped (fun x => x.1.s) (Eng.pop e va) := by
  unfold Eng.pop
  extract_lets +onlyGivenNames k
  split
  · simp
  · extract_lets +onlyGivenNames e1
    have he1 : e1.Shaped := by
      dsimp -zeta only [e1]
      apply shaped_sram_eng
      apply shaped_watch_eng
      simp [h]
    split
    · simp
    · split
      · rename_i t e2
        have ht : t.Shaped := shaped_of_eq (shaped_fifoPop he1 ..) e2
        simp
      · rename_i t _ e2
        have ht : t.Shaped := shaped_of_eq (shaped_fifoPop he1 ..) e2
        simp [ht]

@[simp] theorem shaped_push_eng (h : e.Shaped) (va : DWord) (bs : List Byte) : ExceptShaped Eng.s (Eng.push e va bs) := by
  unfold Eng.push
  extract_lets +onlyGivenNames k
  split
  · simp
  · split
    · simp [h]
    · split
      · simp
      · extract_lets +onlyGivenNames x e1
        have he1 : e1.Shaped := by
          dsimp -zeta only [e1]
          apply shaped_watch_eng
          simp [h]
        simp [he1]

@[simp] theorem shaped_cpyUnit_eng (h : e.Shaped) (y : CpyY) (n room : Nat) : ExceptShaped (fun x => x.1.s) (e.cpyUnit y n room) := by
  unfold Eng.cpyUnit
  extract_lets +onlyGivenNames off sf df k sPeer dPeer
  split
  · trivial
  · extract_lets +onlyGivenNames finish write
    have hf : ∀ e2 : Eng, e2.s.Shaped → ExceptShaped (fun x => x.1.s) (finish e2) := fun _ he => he
    have hw : ∀ x : Eng × List Byte, x.1.s.Shaped → ExceptShaped (fun x => x.1.s) (write x) := by
      intro x hx
      dsimp -zeta only [write]
      split
      · exact exceptShaped_bind (shaped_push_eng hx ..) hf
      · split
        · refine exceptShaped_bind (g := Eng.s) ?_ hf
          split
          · exact hx
          · exact shaped_peerDst_eng (shaped_watch_eng hx ..) ..
        · exact exceptShaped_bind (shaped_dst_eng hx ..) hf
    split
    · refine exceptShaped_bind (g := fun x => x.1.s) ?_ hw
      split
      · exact h
      · exact shaped_pop_eng h _
    · split
      · exact exceptShaped_bind (shaped_peerSrc_eng (shaped_watch_eng h ..) ..) hw
      · exact exceptShaped_bind (shaped_src_eng h ..) hw

@[simp] theorem shaped_fillUnit_eng (h : e.Shaped) (y : CpyY) (n room : Nat) : ExceptShaped (fun x => x.1.s) (Eng.fillUnit e y n room) := by
  unfold Eng.fillUnit
  extract_lets +onlyGivenNames va k pw pat
  split
  · simp
  · extract_lets +onlyGivenNames bs
    apply exceptShaped_bind
    · apply shaped_dst_eng
      simp [h]
    · simp

@[simp] theorem shaped_linesUnit_eng (h : e.Shaped) (ext : Nat → List (Nat × Nat)) {get : Eng → Nat → Except EStop (Eng × List Put)}
    {put : Eng → Put → Except EStop Eng} (lo hi : Nat) (hget : ∀ e n, e.Shaped → ExceptShaped (fun x => x.1.s) (get e n))
    (hput : ∀ e p, e.Shaped → ExceptShaped Eng.s (put e p)) : ExceptShaped (fun x => x.1.s) (e.linesUnit ext get put lo hi) := by
  unfold Eng.linesUnit
  apply exceptShaped_bind (g := fun x => x.1.s)
  · apply exceptShaped_foldlM
    · intro x line hx
      extract_lets upto
      apply exceptShaped_bind (g := fun x => x.1.s)
      · apply exceptShaped_foldlM
        · intro y i hy
          apply exceptShaped_bind (g := fun x => x.1.s)
          · exact hget _ _ hy
          · exact fun a ha => ha
        · exact hx
      · intro a ha
        dsimp -zeta only
        apply exceptShaped_bind (g := Eng.s)
        · apply exceptShaped_foldlM
          · exact fun b p hb => hput _ p hb
          · exact ha
        · exact fun e2 he => he
    · exact h
  · exact fun a ha => ha

@[simp] theorem shaped_elemsUnit_eng (h : e.Shaped) {ready : Eng → Nat → Except EStop Eng} (el : Nat → Elem) (n room : Nat)
    (hr : ∀ e n, e.Shaped → ExceptShaped Eng.s (ready e n)) : ExceptShaped (fun x => x.1.s) (e.elemsUnit ready el n room) := by
  apply shaped_linesUnit_eng h
  · intro e1 m he
    apply exceptShaped_bind (hr e1 m he)
    intro e0 he0
    split
    · trivial
    · apply exceptShaped_bind (shaped_src_eng he0 ..)
      exact fun a ha => ha
  · exact fun e1 p he => shaped_dst_eng he ..

@[simp] theorem shaped_mortonUnit_eng (h : e.Shaped) (y : CpyY) (n room : Nat) :
    ExceptShaped (fun x => x.1.s) (Eng.mortonUnit e y n room) := by
  unfold Eng.mortonUnit; simp [h]

@[simp] theorem shaped_padPut_eng (h : e.Shaped) (p : Put) : ExceptShaped Eng.s (Eng.padPut e p) := by
  unfold Eng.padPut
  repeat' split
  all_goals simp [h]

@[simp] theorem shaped_planeGet_eng (h : e.Shaped) (y : CpyY) (d : BitVec 128) (n : Nat) : ExceptShaped (fun x => x.1.s)
    (Eng.planeGet y d e n) := by
  unfold Eng.planeGet
  extract_lets f i j k
  apply exceptShaped_bind (shaped_src_eng h ..)
  intro a ha
  dsimp -zeta only
  extract_lets +onlyGivenNames jp
  have hjp : ∀ x, x.1.Shaped → ExceptShaped (fun x => x.1.s) (jp x) := fun _ hx => hx
  split
  · apply exceptShaped_bind (shaped_src_eng ha ..)
    exact fun b hb => hjp _ hb
  · exact hjp _ ha

@[simp] theorem shaped_planeUnit_eng (h : e.Shaped) (y : CpyY) (d : BitVec 128) (n room : Nat) : ExceptShaped (fun x => x.1.s)
    (Eng.planeUnit e y d n room) := by
  unfold Eng.planeUnit
  apply shaped_linesUnit_eng
  · exact h
  · intro y0 y1 ht
    simp [ht]
  · intro y0 y1 ht
    simp [ht]

@[simp] theorem shaped_expandGet_eng (h : e.Shaped) (y : CpyY) (d : BitVec 128) (n : Nat) : ExceptShaped (fun x => x.1.s)
    (Eng.expandGet y d e n) := by
  unfold Eng.expandGet
  extract_lets +onlyGivenNames f size at' to'
  apply exceptShaped_bind
  · apply shaped_src_eng
    exact h
  · intro a ht
    dsimp -zeta only
    extract_lets +onlyGivenNames bits have' __do_jp
    extract_lets +onlyGivenNames __do_jp1
    split
    · apply exceptShaped_bind
      · simp
      · intro a1 ht1
        dsimp -zeta only [__do_jp1]
        apply exceptShaped_bind
        · apply shaped_src_eng
          exact ht1
        · simp
    · dsimp -zeta only [__do_jp1]
      apply exceptShaped_bind
      · apply shaped_src_eng
        exact ht
      · simp

@[simp] theorem shaped_expandUnit_eng (h : e.Shaped) (y : CpyY) (d : BitVec 128) (n room : Nat) : ExceptShaped (fun x => x.1.s)
    (Eng.expandUnit e y d n room) := by
  unfold Eng.expandUnit
  extract_lets +onlyGivenNames size
  split
  · apply shaped_linesUnit_eng
    · exact h
    · intro y0 y1 ht
      simp [ht]
    · intro y0 y1 ht
      simp [ht]
  · apply shaped_linesUnit_eng
    · exact h
    · intro y0 y1 ht
      simp [ht]
    · intro y0 y1 ht
      simp [ht]

@[simp] theorem shaped_regUnit_eng (h : e.Shaped) (n : Nat) : ExceptShaped (fun x => x.1.s) (Eng.regUnit e n) := by
  unfold Eng.regUnit
  split
  · simp [h]
  · extract_lets +onlyGivenNames r e0
    have he0 : e0.Shaped := by simp [e0, h]
    apply exceptShaped_bind
    · apply shaped_src_eng
      exact he0
    · intro a ht
      dsimp -zeta only
      split
      · simp [ht]
      · split
        · simp [ht]
        · extract_lets +onlyGivenNames word waits s1 parked s2
          have hs1 : s1.Shaped := by
            dsimp -zeta only [s1]
            refine shaped_modBlk (shaped_modThr (shaped_bump ht) _ _ _ fun t ht => ?_) _ _ fun b hb => ?_
            · simp [ht]
            · split <;> exact hb
          have hs2 : s2.Shaped := by simp [s2, hs1]
          simp [hs2]

@[simp] theorem shaped_castUnit_eng (h : e.Shaped) (n room : Nat) : ExceptShaped (fun x => x.1.s) (Eng.castUnit e n room) := by
  unfold Eng.castUnit
  extract_lets +onlyGivenNames o k
  apply exceptShaped_bind
  · apply shaped_src_eng
    exact h
  · intro a ht
    dsimp -zeta only
    extract_lets +onlyGivenNames ms
    apply exceptShaped_bind
    · apply exceptShaped_foldlM
      · intro b a1 ht1
        apply shaped_spad_eng
        exact ht1
      · exact ht
    · simp

@[simp] theorem shaped_indexUnit_eng (h : e.Shaped) (y : CpyY) (scatter : Bool) (lo n room : Nat) : ExceptShaped (fun x => x.1.s)
    (Eng.indexUnit e y scatter lo n room) := by
  unfold Eng.indexUnit
  extract_lets +onlyGivenNames order num
  apply shaped_elemsUnit_eng
  · exact h
  · intro y0 y1 ht
    apply exceptShaped_map
    · intro a ht1
      exact ht1
    · simp [ht]

@[simp] theorem shaped_unit_eng {e0 : Eng} (he0 : e0.Shaped) (n room : Nat) : ExceptShaped (fun x => x.1.s) (Eng.unit e0 n room) := by
  unfold Eng.unit
  extract_lets +onlyGivenNames e d
  have he : e.Shaped := by simp [e, he0]
  split <;> simp [he]

@[simp] theorem shaped_run_eng (h : e.Shaped) (stop fuel : Nat) : (Eng.run stop fuel e).1.Shaped := by
  induction fuel generalizing e with
  | zero => exact h
  | succ fuel ih =>
    unfold Eng.run
    split
    · exact h
    · split
      · exact h
      · rename_i he
        exact ih ((shaped_unit_eng h ..).ok he)

@[simp] theorem shaped_runUndef_eng (h : e.Shaped) (stop fuel : Nat) : (Eng.runUndef stop fuel e).Shaped := by
  induction fuel generalizing e with
  | zero => exact h
  | succ fuel ih =>
    unfold Eng.runUndef
    split
    · exact h
    · split
      · rename_i he
        exact ih ((shaped_unit_eng h ..).ok he)
      · rename_i he
        exact ih ((shaped_unit_eng h ..).ok he)
      · exact ih h

@[simp] theorem shaped_settle_eng (h : e.Shaped) : (Eng.settle e).Shaped := by
  unfold Eng.settle
  apply shaped_foldl_eng
  · intro t a ht
    extract_lets +onlyGivenNames full
    split
    · split
      · exact ht
      · rename_i key b eb
        have hb := State.Shaped.blkOf ht eb
        split
        · exact State.Shaped.withBlks ht (ht.blks.nput key hb)
        · exact shaped_spadPoisonWrite ht key hb ..
    · repeat' split
      all_goals simp [ht]
  · exact h

@[simp] theorem shaped_commit_eng (h : e.Shaped) : (Eng.commit e).Shaped := by
  unfold Eng.commit
  extract_lets +onlyGivenNames k
  extract_lets +onlyGivenNames k1
  exact shaped_foldl (fun t a ht => by simp [ht]) _ h

@[simp] theorem shaped_engStart (h : s.Shaped) (k : Cmd) (b : Blk) : (s.engStart k b).Shaped := h

@[simp] theorem shaped_engFor (h : s.Shaped) (k : Cmd) (b : Blk) : (s.engFor k b).Shaped := h

@[simp] theorem shaped_failCopy (h : s.Shaped) (id : Nat) (cause : Cause) (va : DWord) : (s.failCopy id cause va).Shaped := by
  unfold State.failCopy
  split
  · exact h
  · split
    · apply shaped_endCmd
      exact h
    · extract_lets +onlyGivenNames d e
      have he : e.Shaped := by simp [e, h]
      extract_lets +onlyGivenNames e1
      have he1 : e1.Shaped := by simp [e1, he]
      apply shaped_endCmd
      apply shaped_modCmd
      apply shaped_dropReplies
      simp [he1]

@[simp] theorem shaped_admitCopy (h : s.Shaped) (k : Cmd) : (s.admitCopy k).Shaped := by
  unfold State.admitCopy
  repeat' split
  all_goals simp [h]

@[simp] theorem shaped_segMade (h : s.Shaped) (k : Cmd) : (s.segMade k).Shaped := by
  unfold State.segMade; simp [h]

@[simp] theorem shaped_segDone (h : s.Shaped) (k : Cmd) (last : Bool) : (s.segDone k last).Shaped := by
  unfold State.segDone
  extract_lets +onlyGivenNames s1
  have hs1 : s1.Shaped := by
    dsimp -zeta only [s1]
    apply shaped_modCmd
    simp [h]
  simp [hs1]

@[simp] theorem shaped_completeCopy (h : s.Shaped) : OutcomeShaped s.completeCopy := by
  unfold State.completeCopy
  split
  · exact h
  · rename_i k _
    split
    · exact h
    · exact h
    · rename_i b _ _
      extract_lets +onlyGivenNames d hi aborted turn
      have hturn : ∀ t, t.Shaped → OutcomeShaped (turn t) := fun t ht => by
        dsimp -zeta only [turn]
        split
        · exact ht
        · exact h
      have hrun : ∀ {t : State} stop fuel, t.Shaped → (Eng.run stop fuel (t.engFor k b)).1.Shaped :=
      fun _ _ ht => shaped_run_eng (shaped_engFor ht k b)
          ..
      have hdone : ∀ {e : Eng}, e.Shaped → e.settle.commit.Shaped := fun he => shaped_commit_eng (shaped_settle_eng he)
      clear_value aborted
      split
      · exact shaped_sweep (shaped_raiseCmds h)
      · split
        · exact h
        · split
          · split
            · exact h
            · split
              · exact shaped_failCopy h ..
              · exact shaped_segDone h ..
          · split
            · extract_lets +onlyGivenNames _ s0
              have h0 : s0.Shaped := h
              split
              · rename_i e he
                have hw : e.Shaped := shaped_eng_of_eq (hrun _ _ h0) he
                exact hturn _ (shaped_failCopy (hdone hw) ..)
              · exact hturn _ (shaped_failCopy h0 ..)
            · split
              · rename_i e he
                have hw : e.Shaped := shaped_eng_of_eq (hrun _ _ h) he
                apply hturn
                split
                · exact shaped_segDone (shaped_closeChunk (hdone hw) ..) ..
                · exact shaped_modCmd (shaped_closeChunk (hdone hw) ..) ..
              · rename_i e c va he
                have hw : e.Shaped := shaped_eng_of_eq (hrun _ _ h) he
                split
                · exact hturn _ (shaped_closeChunk (shaped_failCopy (hdone hw) ..) ..)
                · exact hturn _ (shaped_closeChunk (shaped_failCopy h ..) ..)
              · exact shaped_startWalk h ..
              · exact shaped_modCmd h ..
              · rename_i e dev va n he
                have hw : e.Shaped := shaped_eng_of_eq (hrun _ _ h) he
                split
                · exact hturn _ (shaped_askPeer (hdone hw) ..)
                · exact shaped_askPeer h ..
              · rename_i e he
                have hw : e.Shaped := shaped_eng_of_eq (hrun _ _ h) he
                split
                · exact hturn _ (hdone hw)
                · exact h
              · rename_i e push x he
                have hw : e.Shaped := shaped_eng_of_eq (hrun _ _ h) he
                split
                · exact hturn _ (shaped_waitAt (hdone hw) ..)
                · exact shaped_waitAt h ..

/-! #### What Machine/Coll keeps shaped -/

@[simp] theorem shaped_rankDev_eng (h : e.Shaped) (d : CollDesc) (r : Nat) : ExceptShaped (fun x => x.1.s) (Eng.rankDev e d r) := by
  unfold Eng.rankDev
  extract_lets +onlyGivenNames a
  apply exceptShaped_bind
  · apply shaped_readN_eng
    exact h
  · simp

@[simp] theorem shaped_quiet_eng {α : Type} (h : e.Shaped) {f : Eng → Except EStop (Eng × α)}
    (hf : ∀ e, e.Shaped → ExceptShaped (fun x => x.1.s) (f e)) : ExceptShaped (fun x => x.1.s) (e.quiet f) :=
  exceptShaped_map (fun _ ha => ha) (hf _ h)

@[simp] theorem shaped_collSend_eng (h : e.Shaped) (d : CollDesc) (bytes : List Byte) (l : List (Nat × Nat × Nat)) :
    ExceptShaped (fun x => x.1.s)
    (Eng.collSend d bytes l e) := by
  induction l generalizing e with
  | nil => exact h
  | cons p rest ih =>
    obtain ⟨q, off, n⟩ := p
    unfold Eng.collSend
    apply exceptShaped_bind (shaped_quiet_eng h fun e he => shaped_rankDev_eng he d q)
    intro x hx
    dsimp -zeta only
    extract_lets +onlyGivenNames va send
    have hs : ∀ y : Eng × List Byte, y.1.s.Shaped → ExceptShaped (fun x => x.1.s) (send y) := by
      intro y hy
      dsimp -zeta only [send]
      split
      · exact h
      · exact h
      · exact h
      · trivial
      · rename_i e3 he
        have h3 : e3.Shaped := (shaped_peer_eng hy ..).ok he
        exact exceptShaped_bind (ih (by exact h3)) fun z hz => hz
    split
    · exact hs _ hx
    · exact exceptShaped_bind (shaped_quiet_eng hx fun e he => shaped_readN_eng (by exact he) ..) hs

@[simp] theorem shaped_collElem_eng (h : e.Shaped) (d : CollDesc) (q i : Nat) : ExceptShaped (fun x => x.1.s) (Eng.collElem e d q i) := by
  unfold Eng.collElem
  split
  · apply exceptShaped_map
    · intro a ht
      exact ht
    · simp [h]
  · apply exceptShaped_bind
    · apply shaped_rankDev_eng
      exact h
    · intro a ht
      dsimp -zeta only
      split <;> simp [ht]

@[simp] theorem shaped_collValue_eng (h : e.Shaped) (d : CollDesc) (arrival : Bool) (x : Nat) : ExceptShaped (fun x => x.1.s)
    (Eng.collValue e d arrival x) := by
  unfold Eng.collValue
  split
  · simp [h]
  · simp [h]
  · extract_lets +onlyGivenNames i
    apply exceptShaped_bind
    · apply exceptShaped_foldlM
      · intro b a ht
        apply exceptShaped_bind
        · apply shaped_collElem_eng
          exact ht
        · simp
      · exact h
    · intro a ht
      simp [ht]

@[simp] theorem shaped_collect_eng (h : e.Shaped) (d : CollDesc) (arrival : Bool) (lo hi : Nat) : ExceptShaped Eng.s
    (Eng.collect e d arrival lo hi) := by
  unfold Eng.collect
  extract_lets +onlyGivenNames at'
  apply exceptShaped_foldlM
  · intro b a ht
    apply exceptShaped_bind
    · apply exceptShaped_foldlM
      · intro b1 a1 ht1
        apply exceptShaped_bind
        · apply shaped_collValue_eng
          exact ht1
        · simp
      · exact ht
    · intro a1 ht1
      dsimp -zeta only
      apply exceptShaped_foldlM
      · intro b1 a2 ht2
        simp [ht2]
      · exact ht1
  · exact h

@[simp] theorem shaped_collHead_eng (h : e.Shaped) (desc : DWord) : ExceptShaped (fun x => x.1.s) (Eng.collHead e desc) := by
  unfold Eng.collHead
  extract_lets +onlyGivenNames __do_jp
  extract_lets +onlyGivenNames __do_jp1
  split
  · apply exceptShaped_bind
    · simp
    · intro a ht
      dsimp -zeta only [__do_jp1]
      split
      · apply exceptShaped_bind
        · simp
        · intro a1 ht1
          dsimp -zeta only [__do_jp]
          apply exceptShaped_bind
          · apply shaped_readN_eng
            exact ht1
          · intro a2 ht2
            extract_lets +onlyGivenNames d win __do_jp2
            split
            · apply exceptShaped_bind
              · simp
              · intro a3 ht3
                dsimp -zeta only [__do_jp2]
                apply exceptShaped_bind
                · apply shaped_rankDev_eng
                  exact ht3
                · simp
            · dsimp -zeta only [__do_jp2]
              apply exceptShaped_bind
              · apply shaped_rankDev_eng
                exact ht2
              · simp
      · dsimp -zeta only [__do_jp]
        apply exceptShaped_bind
        · apply shaped_readN_eng
          exact ht
        · intro a1 ht1
          extract_lets +onlyGivenNames d win __do_jp2
          split
          · apply exceptShaped_bind
            · simp
            · intro a2 ht2
              dsimp -zeta only [__do_jp2]
              apply exceptShaped_bind
              · apply shaped_rankDev_eng
                exact ht2
              · simp
          · dsimp -zeta only [__do_jp2]
            apply exceptShaped_bind
            · apply shaped_rankDev_eng
              exact ht1
            · simp
  · dsimp -zeta only [__do_jp1]
    split
    · apply exceptShaped_bind
      · simp
      · intro a ht
        dsimp -zeta only [__do_jp]
        apply exceptShaped_bind
        · apply shaped_readN_eng
          exact ht
        · intro a1 ht1
          extract_lets +onlyGivenNames d win __do_jp2
          split
          · apply exceptShaped_bind
            · simp
            · intro a2 ht2
              dsimp -zeta only [__do_jp2]
              apply exceptShaped_bind
              · apply shaped_rankDev_eng
                exact ht2
              · simp
          · dsimp -zeta only [__do_jp2]
            apply exceptShaped_bind
            · apply shaped_rankDev_eng
              exact ht1
            · simp
    · dsimp -zeta only [__do_jp]
      apply exceptShaped_bind
      · apply shaped_readN_eng
        exact h
      · intro a ht
        extract_lets +onlyGivenNames d win __do_jp2
        split
        · apply exceptShaped_bind
          · simp
          · intro a1 ht1
            dsimp -zeta only [__do_jp2]
            apply exceptShaped_bind
            · apply shaped_rankDev_eng
              exact ht1
            · simp
        · dsimp -zeta only [__do_jp2]
          apply exceptShaped_bind
          · apply shaped_rankDev_eng
            exact ht
          · simp

@[simp] theorem shaped_collDiffers_eng (h : e.Shaped) (d : CollDesc) : ExceptShaped (fun x => x.1.s) (Eng.collDiffers e d) := by
  unfold Eng.collDiffers
  apply exceptShaped_foldlM
  · intro b a ht
    apply exceptShaped_bind
    · apply shaped_rankDev_eng
      exact ht
    · simp
  · exact h

@[simp] theorem shaped_collOdd_eng (h : e.Shaped) (d : CollDesc) : ExceptShaped (fun x => x.1.s) (Eng.collOdd e d) := by
  unfold Eng.collOdd
  apply exceptShaped_foldlM
  · intro b a ht
    apply exceptShaped_bind
    · apply shaped_rankDev_eng
      exact ht
    · simp
  · exact h

@[simp] theorem shaped_collLacks_eng (h : e.Shaped) (d : CollDesc) (lo hi : Nat) :
    ExceptShaped (fun x => x.1.s) (Eng.collLacks e d lo hi) := by
  unfold Eng.collLacks
  apply exceptShaped_foldlM
  · intro b a ht
    apply exceptShaped_bind
    · apply shaped_rankDev_eng
      exact ht
    · simp
  · exact h

@[simp] theorem shaped_collFinish_eng (h : e.Shaped) (desc : DWord) (lo hi : Nat) : ExceptShaped (fun x => x.1.s)
    (Eng.collFinish e desc lo hi) := by
  unfold Eng.collFinish
  apply exceptShaped_bind
  · apply shaped_collHead_eng
    exact h
  · intro a ht
    dsimp -zeta only
    extract_lets +onlyGivenNames d
    apply exceptShaped_bind
    · apply exceptShaped_foldlM
      · intro b a1 ht1
        split
        · simp [ht1]
        · apply exceptShaped_map
          · intro a2 ht2
            exact ht2
          · apply shaped_readN_eng
            exact ht1
      · exact ht
    · intro a1 ht1
      apply exceptShaped_bind
      · apply shaped_collect_eng
        exact ht1
      · simp

@[simp] theorem shaped_collSeg_eng (h : e.Shaped) (c : Coll) (last : Bool) : ExceptShaped (fun x => x.1.s) (Eng.collSeg e c last) := by
  unfold Eng.collSeg
  apply exceptShaped_bind
  · apply shaped_quiet_eng
    · exact h
    · intro y0 ht
      simp [ht]
  · intro a ht
    dsimp -zeta only
    extract_lets +onlyGivenNames d hi
    split
    · simp [h]
    · apply exceptShaped_bind
      · apply shaped_quiet_eng
        · exact ht
        · intro y0 ht1
          simp [ht1]
      · intro a1 ht1
        split
        · simp
        · extract_lets +onlyGivenNames msgs
          apply exceptShaped_bind
          · apply shaped_collSend_eng
            exact ht1
          · intro a2 ht2
            extract_lets +onlyGivenNames c1
            split
            · simp [ht2]
            · apply exceptShaped_bind
              · apply shaped_quiet_eng
                · exact ht2
                · intro y0 ht3
                  simp [ht3]
              · intro a3 ht3
                split
                · simp [ht3]
                · apply exceptShaped_bind
                  · apply shaped_collFinish_eng
                    exact ht3
                  · simp

@[simp] theorem shaped_modColl (h : s.Shaped) (id : Nat) (f : Coll → Coll) : (s.modColl id f).Shaped := h

@[simp] theorem shaped_dropParts (h : s.Shaped) (d : CollDesc) : (s.dropParts d).Shaped := h

@[simp] theorem shaped_endColl (h : s.Shaped) (c : Coll) (fail : Option Cause) (va : DWord) : (s.endColl c fail va).Shaped := by
  unfold State.endColl
  extract_lets +onlyGivenNames s0 s1
  have hs0 : s0.Shaped := by simp [s0, h]
  have hs1 : s1.Shaped := by simp [s1, hs0]
  split <;> simp [hs0, hs1]

@[simp] theorem shaped_freeColls (h : s.Shaped) : s.freeColls.Shaped := by
  unfold State.freeColls
  exact shaped_foldl (fun t a ht => by simp [ht]) _ h

theorem shaped_collEng (h : s.Shaped) {c : Coll} {e : Eng} (he : s.collEng c = some e) : e.Shaped := by
  unfold State.collEng at he
  split at he
  · split at he
    · cases he
    · split at he
      · cases he
      · cases he; exact h
  · cases he; exact h

@[simp] theorem shaped_collState_eng (h : e.Shaped) (c : Coll) : (Eng.collState e c).Shaped := by
  unfold Eng.collState
  extract_lets +onlyGivenNames e1
  have he1 : e1.Shaped := by simp [e1, h]
  split
  · simp [he1]
  · exact shaped_foldl (fun t a ht => by simp [ht]) _ he1

@[simp] theorem shaped_collUndef_eng (h : e.Shaped) (d : CollDesc) (lo : Nat) : (Eng.collUndef e d lo).Shaped := by
  unfold Eng.collUndef
  extract_lets +onlyGivenNames va n
  apply shaped_foldl_eng
  · intro t a ht
    split
    · rename_i t1 e1
      have ht1 : t1.Shaped := (shaped_dst_eng (by simp [ht]) ..).ok e1
      exact ht1
    · exact ht
  · exact h

@[simp] theorem shaped_failColl (h : s.Shaped) (c : Coll) (cause : Cause) (va : DWord) : (s.failColl c cause va).Shaped := by
  unfold State.failColl
  split
  · exact shaped_endColl h ..
  · rename_i e he
    have hw : e.Shaped := shaped_collEng h he
    have hq := shaped_quiet_eng (e := { e with err := false, ecc := .clean }) hw fun _ hx => shaped_collHead_eng hx c.desc
    split
    · rename_i hk
      exact shaped_endColl (shaped_dropParts (shaped_collState_eng (shaped_collUndef_eng (hq.ok hk) ..) ..) ..) ..
    · exact shaped_endColl h ..

@[simp] theorem shaped_abortColl (h : s.Shaped) (c : Coll) (cause : Cause) : (s.abortColl c cause).Shaped := by
  unfold State.abortColl
  extract_lets +onlyGivenNames s1
  have hs1 : s1.Shaped := by
    dsimp -zeta only [s1]
    repeat' split
    all_goals simp [h]
  simp [hs1]

@[simp] theorem shaped_execEngineSegmentAdmit (h : s.Shaped) : OutcomeShaped (execEngineSegmentAdmit s) := by
  unfold execEngineSegmentAdmit
  repeat' split
  all_goals simp [h]

@[simp] theorem shaped_collUpTo_eng (h : e.Shaped) (c : Coll) (lines : Nat) : ExceptShaped (fun x => x.1.s) (Eng.collUpTo e c lines) := by
  unfold Eng.collUpTo
  apply exceptShaped_bind
  · apply shaped_quiet_eng
    · exact h
    · intro y0 ht
      simp [ht]
  · intro a ht
    dsimp -zeta only
    extract_lets +onlyGivenNames d hi msgs
    apply exceptShaped_bind
    · apply shaped_collSend_eng
      exact ht
    · intro a1 ht1
      extract_lets +onlyGivenNames c1 line k
      split
      · simp [ht1]
      · apply exceptShaped_bind
        · apply shaped_collect_eng
          exact ht1
        · simp

@[simp] theorem shaped_stepColl (h : s.Shaped) (c : Coll) (last : Bool) : (s.stepColl c last).Shaped := by
  unfold State.stepColl
  split
  · exact h
  · rename_i e0 he0
    have hw : e0.Shaped := shaped_collEng h he0
    extract_lets +onlyGivenNames agent
    split
    · exact h
    · split
      · extract_lets +onlyGivenNames taken
        have ht : ∀ t, t.Shaped → (taken t).Shaped := fun _ ht => ht
        have hu := fun n => shaped_collUpTo_eng hw c n
        split
        · rename_i e
          exact shaped_modColl (shaped_collState_eng ((hu _).ok e) _) ..
        · rename_i e
          exact shaped_failColl (ht _ (shaped_modColl (shaped_collState_eng ((hu _).ok e) _) ..)) ..
        · exact shaped_startWalk h ..
        · exact shaped_failColl (ht _ h) ..
        · exact h
        · exact h
        · exact h
        · exact h
      · have hg := shaped_collSeg_eng hw c last
        split
        · rename_i e
          exact shaped_modColl (shaped_collState_eng (hg.ok e) _) ..
        · rename_i e
          extract_lets +onlyGivenNames s1
          have h1 : s1.Shaped := shaped_segMade (shaped_collState_eng (hg.ok e) _) _
          split
          · exact shaped_endColl (shaped_dropParts h1 _) ..
          · exact shaped_modColl (shaped_closeChunk h1 ..) ..
        · exact shaped_failColl h ..
        · exact shaped_startWalk h ..
        · exact h
        · exact h
        · exact h
        · exact h

@[simp] theorem shaped_execEngineSegmentComplete (h : s.Shaped) : OutcomeShaped (execEngineSegmentComplete s) := by
  unfold execEngineSegmentComplete; split <;> simp [h]

@[simp] theorem shaped_execCollectiveComplete (h : s.Shaped) : OutcomeShaped (execCollectiveComplete s) := by
  unfold execCollectiveComplete; split <;> simp [h]

@[simp] theorem shaped_execCollectivePeerTimeout (h : s.Shaped) : OutcomeShaped (execCollectivePeerTimeout s) := by
  unfold execCollectivePeerTimeout; split <;> simp [h]

@[simp] theorem shaped_markStuck (h : s.Shaped) : s.markStuck.Shaped :=
  State.Shaped.withBlks h (h.blks.map fun _ => ⟨rfl, fun hb => hb⟩)

@[simp] theorem shaped_execStageDeadlockDetect (h : s.Shaped) : OutcomeShaped (execStageDeadlockDetect s) := by
  unfold execStageDeadlockDetect
  extract_lets +onlyGivenNames core bctx
  split
  · simp [h]
  · split
    · simp [h]
    · split
      · simp [h]
      · extract_lets +onlyGivenNames pc ids s1 s3
        have hs1 : s1.Shaped := by
          dsimp -zeta only [s1]
          apply shaped_foldl
          · intro t a ht
            split <;> simp [ht]
          · exact h
        have hs3 : s3.Shaped := by simp [s3, hs1]
        rw [outcomeShaped_next]
        apply shaped_sweep
        simp [hs3]

/-! #### What Machine/Control keeps shaped -/

@[simp] theorem shaped_transfer (h : s.Shaped) (c : Cur) (b : Blk) (m : Word) (target : Nat → DWord) :
    (s.transfer c b m target).Shaped := by
  unfold State.transfer
  extract_lets +onlyGivenNames s1 rest
  have hs1 : s1.Shaped := shaped_modThr h _ _ _ fun t ht =>
    (jump_shaped ..).2 ((thr_shaped_foldl (fun _ _ => leaveBodies_shaped ..) _ _).2 ((learnEnds_shaped ..).2 ht))
  simp [hs1]

@[simp] theorem shaped_jumpRegister (h : s.Shaped) (i : Instr) (w : BrxW) : OutcomeShaped (jumpRegister i w s) := by
  unfold jumpRegister; simp [h]

@[simp] theorem shaped_execCall (h : s.Shaped) (w : CallW) : OutcomeShaped (execCall w s) := by
  unfold execCall
  extract_lets +onlyGivenNames n
  apply shaped_ctlUniOp
  · exact h
  · intro c b t hb ht
    extract_lets +onlyGivenNames s1
    have hs1 : s1.Shaped := by simp [s1, h]
    simp [hs1]

@[simp] theorem shaped_setMr (h : s.Shaped) (i : Instr) (vd : BitVec 7) (nd : Bool) (src : Option Nat) (new : Cur → Thr → Nat → DWord) :
    OutcomeShaped (setMr i vd nd src new s) := by
  unfold setMr
  extract_lets +onlyGivenNames n
  apply shaped_ctlWordOp
  · exact h
  · intro c b t hb ht
    extract_lets +onlyGivenNames t1 t2
    have ht1 : t1.Shaped := by simp [t1, ht]
    have ht2 : t2.Shaped := by simp [t2, ht1]
    exact shaped_retire (shaped_modThr h _ _ _ fun _ _ => ht2) ..

@[simp] theorem shaped_execLoop (h : s.Shaped) (w : LoopW) : OutcomeShaped (execLoop w s) := by
  unfold execLoop
  apply shaped_ctlUniOp
  · exact h
  · intro c b t hb ht
    extract_lets +onlyGivenNames n count
    split
    · simp [h]
    · extract_lets +onlyGivenNames s1
      have hs1 : s1.Shaped := by simp [s1, h]
      simp [hs1]

@[simp] theorem shaped_endHandler (h : s.Shaped) (core bctx w : Nat) : (s.endHandler core bctx w).Shaped := by
  unfold State.endHandler
  repeat' split
  all_goals simp [h]

@[simp] theorem shaped_leaveHandler (h : s.Shaped) {go : State} (hgo : go.Shaped) (c : Cur) (b : Blk) (t : Thr) (returns : Bool) :
    (s.leaveHandler c b t returns go).Shaped := by
  unfold State.leaveHandler
  repeat' split
  all_goals simp [h, hgo]

@[simp] theorem shaped_failExit (h : s.Shaped) (c : Cur) (r : Option TrapRec) : (s.failExit c r).Shaped := by
  unfold State.failExit; split <;> simp [h]

@[simp] theorem shaped_execExit (h : s.Shaped) (z : BitVec 26) : OutcomeShaped (execExit z s) := by
  unfold execExit
  apply shaped_ctlWordOp
  · exact h
  · intro c b t hb ht
    extract_lets +onlyGivenNames pending
    split
    · split
      · exact h
      · extract_lets +onlyGivenNames s1 s2
        have hs1 : s1.Shaped := by simp [s1, h]
        have hs2 : s2.Shaped := by simp [s2, hs1]
        apply shaped_leaveHandler
        · exact h
        · simp [hs2]
    · split
      · exact h
      · extract_lets +onlyGivenNames s1 s2
        have hs1 : s1.Shaped := by simp [s1, h]
        have hs2 : s2.Shaped := by simp [s2, hs1]
        apply shaped_leaveHandler
        · exact h
        · simp [hs2]

@[simp] theorem shaped_execTret (h : s.Shaped) (z : BitVec 26) : OutcomeShaped (execTret z s) := by
  unfold execTret
  apply shaped_ctlWordOp
  · exact h
  · intro c b t hb ht
    split
    · simp [h]
    · apply shaped_leaveHandler
      · exact h
      · simp [h]

@[simp] theorem shaped_execSread (h : s.Shaped) (w : UniW) : OutcomeShaped (execSread w s) := by
  unfold execSread
  extract_lets +onlyGivenNames n d
  apply shaped_ctlUniOp
  · exact h
  · intro c b t hb ht
    extract_lets +onlyGivenNames done
    split
    · extract_lets +onlyGivenNames issuer
      split
      · exact h
      · extract_lets +onlyGivenNames lanes
        dsimp -zeta only
        dsimp -zeta only [done]
        split
        · apply shaped_retire
          exact shaped_modThr (by simp [h]) _ _ _ fun t ht => (putRow_shaped ..).2 ht
        · apply shaped_putUni
          simp [h]
    · split
      · exact h
      · dsimp -zeta only [done]
        split
        · exact shaped_retire (shaped_modThr h _ _ _ fun t ht => (putRow_shaped ..).2 ht) ..
        · simp [h]

@[simp] theorem shaped_execSwrite (h : s.Shaped) (w : UniW) : OutcomeShaped (execSwrite w s) := by
  unfold execSwrite
  extract_lets +onlyGivenNames n a
  apply shaped_ctlUniOp
  · exact h
  · intro c b t hb ht
    split
    · exact h
    · extract_lets +onlyGivenNames s0 v lv perLane
      have hs0 : s0.Shaped := by simp [s0, h]
      apply shaped_retire
      refine shaped_modThr hs0 _ _ _ fun t ht => ?_
      clear_value n
      split <;> simp [ht]

@[simp] theorem shaped_execSlotq (h : s.Shaped) (w : UniW) : OutcomeShaped (execSlotq w s) := by
  unfold execSlotq
  apply shaped_uniWordOp
  · exact h
  · intro u c b t hu hb ht
    split
    · simp [h]
    · extract_lets +onlyGivenNames issuer
      split
      · exact h
      · dsimp -zeta only
        apply shaped_putUni
        simp [hu]

@[simp] theorem shaped_softTrap (h : s.Shaped) (i : Instr) (cause : Cause) : OutcomeShaped (softTrap i cause s) := by
  unfold softTrap; simp [h]

@[simp] theorem shaped_execPoolb (h : s.Shaped) (w : UniW) : OutcomeShaped (execPoolb w s) := by
  unfold execPoolb
  apply shaped_uniWordOp
  · exact h
  · intro u c b t hu hb ht
    extract_lets +onlyGivenNames n old
    split
    · simp [h]
    · split
      · exact h
      · split
        · simp [h]
        · apply shaped_retire
          simp [hu]

/-! #### What Machine/Frame keeps shaped -/

@[simp] theorem shaped_updatePage (h : s.Shaped) : s.updatePage.Shaped := by
  unfold State.updatePage
  split
  · exact h
  · extract_lets +onlyGivenNames k next zeros
    extract_lets +onlyGivenNames zeros1
    exact shaped_foldl (fun t a ht => by simp [ht]) _ h

@[simp] theorem shaped_newFrame (h : s.Shaped) : s.newFrame.Shaped := h

@[simp] theorem shaped_execFrameBoundary (h : s.Shaped) : OutcomeShaped (execFrameBoundary s) := by
  unfold execFrameBoundary
  split
  · simp [h]
  · rw [outcomeShaped_next]
    apply shaped_admitReqs
    simp [h]

@[simp] theorem shaped_writeCalctl (h : s.Shaped) (v : DWord) : (s.writeCalctl v).Shaped := h

@[simp] theorem shaped_execCalctlCommit (h : s.Shaped) : OutcomeShaped (execCalctlCommit s) := by
  unfold execCalctlCommit; simp [h]

@[simp] theorem shaped_execCalendarValidationDone (h : s.Shaped) : OutcomeShaped (execCalendarValidationDone s) := by
  unfold execCalendarValidationDone
  split
  · simp [h]
  · extract_lets +onlyGivenNames c
    split <;> simp [h]

@[simp] theorem shaped_podStamp (h : s.Shaped) (refTick refFrame refStart : DWord) :
    (s.podStamp refTick refFrame refStart).Shaped := h

@[simp] theorem shaped_execPodTimestampExchange (h : s.Shaped) : OutcomeShaped (execPodTimestampExchange s) := by
  unfold execPodTimestampExchange; simp [h]

@[simp] theorem shaped_abortRecord (h : s.Shaped) (k : Cmd) : (s.abortRecord k).Shaped := by
  unfold State.abortRecord; simp [h]

@[simp] theorem shaped_abortCmd (h : s.Shaped) (id : Nat) : (s.abortCmd id).Shaped := by
  unfold State.abortCmd
  split
  · apply shaped_closeChunk
    simp [h]
  · simp [h]
  · exact h

@[simp] theorem shaped_openWindows (h : s.Shaped) (e : BitVec 128) : (s.openWindows e).Shaped := h

@[simp] theorem shaped_closeWindows (h : s.Shaped) (e : BitVec 128) : (s.closeWindows e).Shaped := h

@[simp] theorem shaped_abortKiln (h : s.Shaped) (id : Nat) : (s.abortKiln id).Shaped := by
  unfold State.abortKiln
  split
  · exact h
  · split
    · exact h
    · rename_i b e
      extract_lets +onlyGivenNames s1 s2
      have hs1 : s1.Shaped := shaped_kilnEffect h _ (h.blk e) true
      have hs2 : s2.Shaped := by simp [s2, hs1]
      apply shaped_sweep
      apply shaped_asyncTrap
      simp [hs2]

@[simp] theorem shaped_modWindow (h : s.Shaped) (slot : Nat) (f : Window → Window) : (s.modWindow slot f).Shaped := by
  unfold State.modWindow; split <;> simp [h]

@[simp] theorem shaped_endContribs (h : s.Shaped) (slot : Nat) (mine : WinContrib → Bool) (err : Option Cause) :
    (s.endContribs slot mine err).Shaped := by
  unfold State.endContribs
  split
  · exact h
  · extract_lets +onlyGivenNames rest
    apply shaped_foldl
    · intro t a ht
      exact ht
    · simp [h]

@[simp] theorem shaped_resend (h : s.Shaped) (port : Nat) : (s.resend port).Shaped := by
  unfold State.resend
  extract_lets +onlyGivenNames v
  apply shaped_foldl
  · intro t a ht
    exact ht
  · exact shaped_modPort h _ fun _ hp => hp

@[simp] theorem shaped_portDown (h : s.Shaped) (p : Nat) : (s.portDown p).Shaped := by
  unfold State.portDown
  extract_lets +onlyGivenNames mine copies colls s1 s2 s3 s4 s5
  have hs1 : s1.Shaped := shaped_foldl (fun t a ht => by simp [ht]) _ h
  have hs2 : s2.Shaped := shaped_modPort hs1 _ fun _ hp => hp
  have hs4 : s4.Shaped := hs2
  have hs5 : s5.Shaped := shaped_foldl (fun t a ht => by simp [ht]) _ hs4
  extract_lets +onlyGivenNames s51
  have hs51 : s51.Shaped := shaped_foldl (fun t a ht => by simp [ht]) _ hs5
  exact shaped_foldl (fun t a ht => by simp [ht]) _ hs51

@[simp] theorem shaped_spare (h : s.Shaped) (t : PendingTest) : (s.spare t).Shaped := by
  unfold State.spare
  extract_lets +onlyGivenNames record
  have hr : ∀ u ty out a syn, u.Shaped → (record u ty out a syn).Shaped := fun _ _ _ _ _ hu => shaped_errRecord hu ..
  split
  · extract_lets +onlyGivenNames bank
    split
    · exact hr _ _ _ _ _ h
    · exact shaped_bump (hr _ _ _ _ _ h)
  · split
    · exact hr _ _ _ _ _ h
    · exact hr _ _ _ _ _ h
  · split
    · exact hr _ _ _ _ _ h
    · exact hr _ _ _ _ _ h
  · extract_lets +onlyGivenNames p
    split
    · exact hr _ _ _ _ _ (shaped_portDown h p)
    · exact hr _ _ _ _ _ (shaped_modPort h _ fun _ hp => hp)
  · exact hr _ _ _ _ _ h

@[simp] theorem shaped_runTest (h : s.Shaped) (t : PendingTest) : (s.runTest t).Shaped := by
  unfold State.runTest
  extract_lets +onlyGivenNames lasting s1
  extract_lets +onlyGivenNames s11
  have hs11 : s11.Shaped := by
    dsimp -zeta only [s11]
    apply shaped_errRecord
    exact h
  apply shaped_bump
  simp [hs11]

@[simp] theorem shaped_runTests (h : s.Shaped) (e : BitVec 128) : (s.runTests e).Shaped := by
  unfold State.runTests
  exact shaped_foldl (fun t a ht => by simp [ht]) _ h

@[simp] theorem shaped_retrain (h : s.Shaped) (e : BitVec 128) : (s.retrain e).Shaped := by
  unfold State.retrain
  refine shaped_foldl (fun t p ht => ?_) _ h
  extract_lets +onlyGivenNames v
  split
  · refine shaped_modPort ht _ fun q hq => ?_
    dsimp only
    split
    · rfl
    · exact hq
  · exact ht

@[simp] theorem shaped_hostL0p (h : s.Shaped) (e : BitVec 128) : (s.hostL0p e).Shaped :=
  ⟨h.ports, (List.length_mapIdx ..).trans h.dev, h.blks⟩

@[simp] theorem shaped_scrubSet (h : s.Shaped) (line : Nat) (o : EccOutcome) : (s.scrubSet line o).Shaped := by
  unfold State.scrubSet; split <;> simp [h]

@[simp] theorem shaped_patrol (h : s.Shaped) (e : BitVec 128) : (s.patrol e).Shaped := by
  unfold State.patrol; simp [h]

@[simp] theorem shaped_tracePut (h : s.Shaped) (source : Nat) (rec : List Byte) : (s.tracePut source rec).Shaped := h

@[simp] theorem shaped_traceRecord (h : s.Shaped) (island type : Nat) (body : List DWord) : (s.traceRecord island type body).Shaped := by
  unfold State.traceRecord
  repeat' split
  all_goals simp [h]

@[simp] theorem shaped_setPoint (h : s.Shaped) (k p : Nat) : (s.setPoint k p).Shaped := by
  unfold State.setPoint; simp [h]

@[simp] theorem shaped_writeBackHost (h : s.Shaped) (which : Nat → Nat → Bool) : (s.writeBackHost which).Shaped := by
  unfold State.writeBackHost
  exact shaped_foldl (fun t a ht => by simp [ht]) _ h

@[simp] theorem shaped_clockChange (h : s.Shaped) (e : BitVec 128) : (s.clockChange e).Shaped := by
  unfold State.clockChange
  extract_lets +onlyGivenNames p s1
  have hs1 : s1.Shaped := by simp [s1, h]
  apply shaped_bump
  exact shaped_foldl (fun t a ht => by simp [ht]) _ hs1

@[simp] theorem shaped_slotRecord (h : s.Shaped) (i kind postponed : Nat) (aborted : Bool) :
    (s.slotRecord i kind postponed aborted).Shaped := by
  unfold State.slotRecord; simp [h]

@[simp] theorem shaped_slotWork (h : s.Shaped) (e : BitVec 128) : (s.slotWork e).Shaped := by
  unfold State.slotWork; split <;> simp [h]

@[simp] theorem shaped_beginSlot (h : s.Shaped) (i : Nat) (e : BitVec 128) (postponed : Nat) (aborted : Bool) :
    (s.beginSlot i e postponed aborted).Shaped := by
  unfold State.beginSlot
  extract_lets +onlyGivenNames run s1
  extract_lets +onlyGivenNames s11
  have hs11 : s11.Shaped := by simp [s11, h]
  apply shaped_slotWork
  simp [hs11]

@[simp] theorem shaped_execSlotStartTest (h : s.Shaped) : OutcomeShaped (execSlotStartTest s) := by
  unfold execSlotStartTest
  extract_lets +onlyGivenNames i
  split
  · simp [h]
  · extract_lets +onlyGivenNames was due n
    split
    · simp [h]
    · split
      · simp [h]
      · split
        · simp [h]
        · extract_lets +onlyGivenNames s1 s2
          have hs1 : s1.Shaped := shaped_foldl (fun t a ht => by simp [ht]) _ h
          have hs2 : s2.Shaped := shaped_foldl (fun t a ht => by simp [ht]) _ hs1
          simp [hs2]

@[simp] theorem shaped_resendDue (h : s.Shaped) : s.resendDue.Shaped := by
  unfold State.resendDue
  exact shaped_foldl (fun t a ht => by simp [ht]) _ h

@[simp] theorem shaped_execSlotEnd (h : s.Shaped) : OutcomeShaped (execSlotEnd s) := by
  unfold execSlotEnd
  split
  · simp [h]
  · split
    · simp [h]
    · extract_lets +onlyGivenNames e since counts
      rw [outcomeShaped_next]
      apply shaped_admitReqs
      simp [h]

/-! #### What Machine/Power keeps shaped -/

@[simp] theorem shaped_wiped : s.wiped.Shaped := ⟨linksReset_shaped, devReset_shaped, blks_nil_shaped⟩

@[simp] theorem shaped_execPowerOn : OutcomeShaped (execPowerOn s) := shaped_wiped

@[simp] theorem shaped_execColdReset : OutcomeShaped (execColdReset s) := shaped_wiped

@[simp] theorem shaped_fatal (h : s.Shaped) : s.fatal.Shaped := ⟨linksReset_shaped, h.dev, blks_nil_shaped⟩

@[simp] theorem shaped_execFatalReset (h : s.Shaped) : OutcomeShaped (execFatalReset s) := by
  unfold execFatalReset; simp [h]

@[simp] theorem shaped_undefinePage (h : s.Shaped) (pa : Nat) : (s.undefinePage pa).Shaped := by
  unfold State.undefinePage; split <;> simp [h]

@[simp] theorem shaped_undefineContext (h : s.Shaped) (c : Nat) : (s.undefineContext c).Shaped := by
  unfold State.undefineContext
  apply shaped_bump
  exact shaped_foldl (fun t a ht => by simp [ht]) _ h

@[simp] theorem shaped_warm : s.warm.Shaped := ⟨linksReset_shaped, devReset_shaped, blks_nil_shaped⟩

@[simp] theorem shaped_execResetctlWarm : OutcomeShaped (execResetctlWarm s) := shaped_warm

@[simp] theorem shaped_execManagementWarmReset : OutcomeShaped (execManagementWarmReset s) := shaped_warm

@[simp] theorem shaped_execBootRomStart (h : s.Shaped) : OutcomeShaped (execBootRomStart s) := by
  unfold execBootRomStart; simp [h]

@[simp] theorem shaped_execHostLinkUp (h : s.Shaped) : OutcomeShaped (execHostLinkUp s) := by
  unfold execHostLinkUp; simp [h, lset]

@[simp] theorem shaped_fwGo (h : s.Shaped) : s.fwGo.Shaped := by
  unfold State.fwGo; simp [h]

@[simp] theorem shaped_execFwctlGo (h : s.Shaped) : OutcomeShaped (execFwctlGo s) := by
  unfold execFwctlGo; simp [h]

@[simp] theorem shaped_execFirmwareCheckDone (h : s.Shaped) : OutcomeShaped (execFirmwareCheckDone s) := by
  unfold execFirmwareCheckDone; simp [h]

@[simp] theorem shaped_execKindlingModeEnter (h : s.Shaped) : OutcomeShaped (execKindlingModeEnter s) := by
  unfold execKindlingModeEnter
  extract_lets +onlyGivenNames from1
  split
  · apply shaped_updatePage
    exact ⟨h.ports.map fun _ hp => hp, h.dev, h.blks⟩
  · exact h

@[simp] theorem shaped_joined (h : s.Shaped) (u : TrainedUnits) : (s.joined u).Shaped := by
  unfold State.joined
  extract_lets +onlyGivenNames ps go
  refine ⟨?_, h.dev, h.blks⟩
  dsimp only
  split
  · refine h.ports.mapIdx fun i p hp => ?_
    dsimp -zeta only [go]
    split <;> exact hp
  · exact h.ports

@[simp] theorem shaped_execFullServiceEnter (h : s.Shaped) : OutcomeShaped (execFullServiceEnter s) := by
  unfold execFullServiceEnter
  split
  · simp [h]
  · rw [outcomeShaped_next]
    apply shaped_admitReqs
    apply shaped_updatePage
    exact shaped_newFrame (shaped_joined h _)

@[simp] theorem shaped_execPowerLimitCrossed (h : s.Shaped) : OutcomeShaped (execPowerLimitCrossed s) := by
  unfold execPowerLimitCrossed
  split
  · rw [outcomeShaped_next]
    exact shaped_foldl (fun t a ht => by simp [ht]) _ h
  · simp [h]
  · simp [h]

/-! #### What Machine/Links keeps shaped -/

@[simp] theorem shaped_ctlEng (h : s.Shaped) (ctx agent : Nat) : (s.ctlEng ctx agent).Shaped := h

@[simp] theorem shaped_ctl {α : Type} (h : s.Shaped) (ctx agent : Nat) (site : FaultSite) {f : Eng → Except EStop (Eng × α)}
    (hf : ∀ e, e.Shaped → ExceptShaped (fun x => x.1.s) (f e)) (fuel : Nat) : (State.ctl ctx agent site f fuel s).Shaped := by
  induction fuel generalizing s with
  | zero => exact h
  | succ fuel ih =>
    unfold State.ctl
    split
    · rename_i e x he
      have hw : e.Shaped := (hf _ (shaped_ctlEng h ..)).ok he
      split
      · exact h
      · exact shaped_settle_eng hw
    · exact h
    · exact h
    · exact h
    · exact h
    · exact h
    · have hw := fun c va k => shaped_walkNow h c va k site
      split
      · rename_i e
        exact ih ((hw ..).leaf e)
      · rename_i e
        exact (hw ..).wait e

@[simp] theorem shaped_ctlRead (h : e.Shaped) (va : DWord) (n : Nat) : ExceptShaped (fun x => x.1.s) (ctlRead va n e) := by
  unfold ctlRead; simp [h]

@[simp] theorem shaped_ctlCopyRead (h : e.Shaped) (va : DWord) (n : Nat) : ExceptShaped (fun x => x.1.s) (ctlCopyRead va n e) := by
  unfold ctlCopyRead
  split
  · rename_i e1 _ he
    have h1 : e1.s.Shaped := (shaped_readN_eng h ..).ok he
    exact h1
  · trivial

@[simp] theorem shaped_ctlWrite (h : e.Shaped) (va : DWord) (bs : List Byte) (poisoned : Bool) : ExceptShaped (fun x => x.1.s)
    (ctlWrite va bs e poisoned) := by
  unfold ctlWrite
  split
  · rename_i e1 he
    have h1 : e1.s.Shaped := (shaped_writeN_eng (by exact h) ..).ok he
    exact h1
  · trivial

@[simp] theorem shaped_ctlRmw (h : e.Shaped) (va : DWord) (n : Nat) (f : Nat → Nat) : ExceptShaped (fun x => x.1.s) (ctlRmw va n f e) := by
  unfold ctlRmw
  split
  · trivial
  · rename_i e1 _ he
    have h1 : e1.Shaped := (shaped_readN_eng h ..).ok he
    split
    · exact h1
    · split
      · trivial
      · rename_i e2 he2
        have h2 : e2.Shaped := (shaped_writeN_eng h1 ..).ok he2
        exact h2

@[simp] theorem shaped_modBuf (h : s.Shaped) (port vc : Nat) (f : List PeerMsg → List PeerMsg) : (s.modBuf port vc f).Shaped := by
  unfold State.modBuf
  extract_lets +onlyGivenNames v buf free put
  have hput : ∀ x, (put x).Shaped := fun x => shaped_modPort h _ fun p hp => by simp [lset, hp]
  simp [hput]

@[simp] theorem shaped_badFlit (h : s.Shaped) (port : Nat) : (s.badFlit port).Shaped := by
  unfold State.badFlit
  extract_lets +onlyGivenNames v loc s1 s2
  have hs1 : s1.Shaped := by simp [s1, h]
  have hs2 : s2.Shaped := by
    dsimp -zeta only [s2]
    apply shaped_bump
    simp [hs1]
  simp [hs2]

@[simp] theorem shaped_execVilbinFlitReceive (h : s.Shaped) : OutcomeShaped (execVilbinFlitReceive s) := by
  unfold execVilbinFlitReceive
  extract_lets +onlyGivenNames port
  repeat' split
  all_goals simp [h]

@[simp] theorem shaped_execFlitReplayRequest (h : s.Shaped) : OutcomeShaped (execFlitReplayRequest s) := by
  unfold execFlitReplayRequest; simp [h]

@[simp] theorem shaped_execVcStopGo (h : s.Shaped) : OutcomeShaped (execVcStopGo s) := by
  unfold execVcStopGo; simp [h]

@[simp] theorem shaped_execVilbinPortDown (h : s.Shaped) : OutcomeShaped (execVilbinPortDown s) := by
  unfold execVilbinPortDown; simp [h]

@[simp] theorem shaped_servePeer (h : s.Shaped) (port : Nat) (m : PeerMsg) : (s.servePeer port m).Shaped := by
  unfold State.servePeer
  extract_lets +onlyGivenNames site go plain put
  split
  · split
    · exact h
    · dsimp -zeta only [go]
      apply shaped_ctl
      · exact h
      · intro y0 ht
        dsimp -zeta only [plain]
        apply exceptShaped_map
        · intro a ht1
          exact ht1
        · simp [ht]
  · dsimp -zeta only [go]
    apply shaped_ctl
    · exact h
    · intro y0 ht
      simp [ht]
  · split
    · exact h
    · dsimp -zeta only [go]
      apply shaped_ctl
      · exact h
      · intro y0 ht
        dsimp -zeta only [put]
        apply exceptShaped_map
        · intro a ht1
          exact ht1
        · simp [ht]
  · dsimp -zeta only [go]
    apply shaped_ctl
    · exact h
    · intro y0 ht
      dsimp -zeta only [put]
      apply exceptShaped_map
      · intro a ht1
        exact ht1
      · simp [ht]
  · split
    · exact h
    · dsimp -zeta only [go]
      apply shaped_ctl
      · exact h
      · intro y0 ht
        dsimp -zeta only [plain]
        apply exceptShaped_map
        · intro a ht1
          exact ht1
        · simp [ht]
  · split
    · exact h
    · dsimp -zeta only [go]
      apply shaped_ctl
      · exact h
      · intro y0 ht
        dsimp -zeta only [plain]
        apply exceptShaped_map
        · intro a ht1
          exact ht1
        · simp [ht]
  · exact h
  · exact h
  · exact h
  · exact h
  · exact h

@[simp] theorem shaped_answerPeer (h : s.Shaped) (port : Nat) (m : PeerMsg) (data : List Byte) (fail poisoned : Bool) :
    (s.answerPeer port m data fail poisoned).Shaped := by
  unfold State.answerPeer; simp [h]

@[simp] theorem shaped_noteMsg (h : s.Shaped) (port vc : Nat) (m : PeerMsg) (lines : List Nat) (writes : Bool) :
    (s.noteMsg port vc m lines writes).Shaped := by
  unfold State.noteMsg; simp [h]

@[simp] theorem shaped_unquiet {α : Type} {r : CtlRes α} (hr : r.Shaped) (mode : BitVec 2) : (r.unquiet mode).Shaped := by
  cases r <;> exact hr

@[simp] theorem shaped_keepPart (h : s.Shaped) (m : PeerMsg) : (s.keepPart m).Shaped := by
  unfold State.keepPart; split <;> simp [h]

@[simp] theorem shaped_takeRequest (h : s.Shaped) (port : Nat) (m : PeerMsg) : (s.takeRequest port m).1.Shaped := by
  unfold State.takeRequest
  extract_lets +onlyGivenNames vc writes ended
  split
  · rename_i t _ e
    have ht : t.Shaped := (shaped_unquiet (by simp [h]) ..).ok e
    dsimp -zeta only [ended]
    simp [ht]
  · rename_i t _ e
    have ht : t.Shaped := (shaped_unquiet (by simp [h]) ..).fault e
    dsimp -zeta only [ended]
    simp [ht]
  · rename_i t _ e
    have ht : t.Shaped := (shaped_unquiet (by simp [h]) ..).wait e
    dsimp -zeta only [ended]
    simp [h]
  · rename_i t e
    have ht : t.Shaped := (shaped_unquiet (by simp [h]) ..).wait e
    exact ht

@[simp] theorem shaped_execInboundMessage (h : s.Shaped) : OutcomeShaped (execInboundMessage s) := by
  unfold execInboundMessage
  extract_lets +onlyGivenNames port vc
  split <;> simp [h]

@[simp] theorem shaped_peerReply (h : s.Shaped) (tag : Nat) (data : List Byte) (fail : Bool) : (s.peerReply tag data fail).Shaped := by
  unfold State.peerReply
  split
  · exact h
  · extract_lets +onlyGivenNames lane
    repeat' split
    all_goals simp [h]

@[simp] theorem shaped_copyReply (h : s.Shaped) (id : Nat) (data : List Byte) (fail bad : Bool) :
    (s.copyReply id data fail bad).Shaped := by
  unfold State.copyReply; simp [h]

@[simp] theorem shaped_takeAnswer (h : s.Shaped) (port : Nat) (m : PeerMsg) : (s.takeAnswer port m).Shaped := by
  unfold State.takeAnswer
  split
  · apply shaped_copyReply
    simp [h]
  · simp [h]
  · exact h

@[simp] theorem shaped_execPeerResponseReceive (h : s.Shaped) : OutcomeShaped (execPeerResponseReceive s) := by
  unfold execPeerResponseReceive
  extract_lets +onlyGivenNames port
  split
  · simp [h]
  · extract_lets +onlyGivenNames stamp
    split
    · simp [h]
    · rw [outcomeShaped_next]
      apply shaped_takeAnswer
      simp [h]

@[simp] theorem shaped_endContribution (h : s.Shaped) (slot elem round : Nat) (err : Option Cause) :
    (s.endContribution slot elem round err).Shaped := by
  unfold State.endContribution; simp [h]

@[simp] theorem shaped_applyMerged (h : s.Shaped) (w : Window) (elem : Nat) (m : DWord) : (s.applyMerged w elem m).Shaped := by
  unfold State.applyMerged
  extract_lets +onlyGivenNames n va site
  apply shaped_ctl
  · exact h
  · intro y0 ht
    simp [ht]

@[simp] theorem shaped_endRound (h : s.Shaped) (slot elem round : Nat) (err : Option Cause) : (s.endRound slot elem round err).Shaped := by
  unfold State.endRound; simp [h]

@[simp] theorem shaped_takeMerged (h : s.Shaped) (port slot : Nat) (w : Window) (m : PeerMsg) (elem round : Nat) (val : DWord)
    (fail : Bool) :
    (s.takeMerged port slot w m elem round val fail).1.Shaped := by
  unfold State.takeMerged
  extract_lets +onlyGivenNames note
  have hn : ∀ t l, t.Shaped → (note t l).Shaped := fun _ _ ht => shaped_noteMsg ht ..
  split
  · exact shaped_endRound (hn _ _ h) ..
  · generalize hv : (if w.desc.order = true then s.valueOf (portAgent port) 0 0 6 0 [val] else (s, [val])) = v
    have h1 : v.1.Shaped := by
      rw [← hv]
      split
      · exact shaped_valueOf h ..
      · exact h
    obtain ⟨s1, vals⟩ := v
    dsimp -zeta only
    extract_lets +onlyGivenNames closed
    have hc : ∀ t bad, t.Shaped → (closed t bad).1.Shaped := fun _ _ ht => shaped_answerPeer (shaped_endRound (hn _ _ ht) ..) ..
    have hr := shaped_unquiet
      (shaped_applyMerged (s := { s1 with recd := { s1.recd with mode := 0 } }) h1 w elem (vals.headD 0)) s1.recd.mode
    split
    · rename_i e
      exact hc _ _ (hr.ok e)
    · rename_i e
      exact hc _ _ (hr.fault e)
    · exact hc _ _ h1
    · rename_i t e
      have ht : t.Shaped := hr.wait e
      exact ht

@[simp] theorem shaped_execWindowMergedResult (h : s.Shaped) : OutcomeShaped (execWindowMergedResult s) := by
  unfold execWindowMergedResult
  extract_lets +onlyGivenNames port
  split
  · simp [h]
  · split
    · simp [h]
    · dsimp -zeta only
      rw [outcomeShaped_next]
      repeat' split
      all_goals simp [h]

@[simp] theorem shaped_execWindowRoundTimeout (h : s.Shaped) : OutcomeShaped (execWindowRoundTimeout s) := by
  unfold execWindowRoundTimeout; split <;> simp [h]

@[simp] theorem shaped_endHostCmd (h : s.Shaped) (slot : Nat) (seq : Word) (fail : Option Cause) : (s.endHostCmd slot seq fail).Shaped := h

@[simp] theorem shaped_execWindowOpenAck (h : s.Shaped) : OutcomeShaped (execWindowOpenAck s) := by
  unfold execWindowOpenAck; split <;> simp [h]

@[simp] theorem shaped_execHbmAlert (h : s.Shaped) : OutcomeShaped (execHbmAlert s) := by
  unfold execHbmAlert; simp [h]

/-! #### What Machine/Log keeps shaped -/

@[simp] theorem shaped_stopRecording (h : s.Shaped) : s.stopRecording.Shaped := by
  unfold State.stopRecording
  extract_lets +onlyGivenNames s1
  extract_lets +onlyGivenNames s11
  have hs11 : s11.Shaped := by simp [s11, h]
  exact shaped_foldl (fun t a ht => by simp [ht]) _ hs11

@[simp] theorem shaped_putPage (h : s.Shaped) (page : List Byte) : (s.putPage page).Shaped := by
  unfold State.putPage; simp [h]

@[simp] theorem shaped_writePages (h : s.Shaped) (source : Nat) : (s.writePages source).Shaped := by
  unfold State.writePages
  split
  · exact h
  · exact shaped_foldl (fun t a ht => by simp [ht]) _ h

@[simp] theorem shaped_execRecorderPageWrite (h : s.Shaped) : OutcomeShaped (execRecorderPageWrite s) := by
  unfold execRecorderPageWrite; split <;> simp [h]

@[simp] theorem shaped_flushPages (h : s.Shaped) : s.flushPages.Shaped := by
  unfold State.flushPages
  apply shaped_foldl
  · intro t a ht
    split <;> simp [ht]
  · exact h

@[simp] theorem shaped_closeAll (h : s.Shaped) (close : Nat) : (s.closeAll close).Shaped := by
  unfold State.closeAll
  exact shaped_foldl (fun t a ht => by simp [ht]) _ h

@[simp] theorem shaped_execChunkIdleClose (h : s.Shaped) : OutcomeShaped (execChunkIdleClose s) := by
  unfold execChunkIdleClose; simp [h]

@[simp] theorem shaped_execConflictSignal (h : s.Shaped) : OutcomeShaped (execConflictSignal s) := by
  unfold execConflictSignal; simp [h]

@[simp] theorem shaped_ckptRecord (h : s.Shaped) (closed : Bool) : (s.ckptRecord closed).Shaped := by
  unfold State.ckptRecord; simp [h]

@[simp] theorem shaped_checkpoint (h : s.Shaped) : s.checkpoint.Shaped := by
  unfold State.checkpoint
  extract_lets +onlyGivenNames s1 s2 cur s3 s4
  have hs1 : s1.Shaped := by simp [s1, h]
  have hs2 : s2.Shaped := shaped_foldl (fun t a ht => by simp [ht]) _ hs1
  have hs4 : s4.Shaped := by simp [s4, hs2]
  simp [hs4]

@[simp] theorem shaped_execCheckpointComplete (h : s.Shaped) : OutcomeShaped (execCheckpointComplete s) := by
  unfold execCheckpointComplete; simp [h]

@[simp] theorem shaped_startRecord (h : s.Shaped) : s.startRecord.Shaped := by
  unfold State.startRecord; simp [h]

@[simp] theorem shaped_startReplay {s0 : State} (hs0 : s0.Shaped) : s0.startReplay.Shaped := by
  unfold State.startReplay
  simp [hs0]

@[simp] theorem shaped_stopMode (h : s.Shaped) : s.stopMode.Shaped := by
  unfold State.stopMode
  extract_lets +onlyGivenNames s0 s1
  have hs0 : s0.Shaped := by simp [s0, h]
  have hs1 : s1.Shaped := by
    dsimp -zeta only [s1]
    split
    · exact State.Shaped.withBlks hs0 (hs0.blks.map fun p => ⟨rfl, fun hb => ⟨hb.bars, hb.thrs.map fun q ht => (dropAsync_shaped ..).2 ht⟩⟩)
    · exact hs0
  refine ⟨hs1.ports, hs1.dev, hs1.blks.map fun p => ?_⟩
  split
  · exact ⟨rfl, fun hb => hb⟩
  · exact ⟨rfl, fun hb => hb⟩

@[simp] theorem shaped_writeMode (h : s.Shaped) (m : BitVec 2) : (s.writeMode m).Shaped := by
  unfold State.writeMode; simp [h]

@[simp] theorem shaped_writeRecctl (h : s.Shaped) (v : DWord) : (s.writeRecctl v).Shaped := by
  unfold State.writeRecctl; simp [h]

@[simp] theorem shaped_execRecordModeOff (h : s.Shaped) : OutcomeShaped (execRecordModeOff s) := by
  unfold execRecordModeOff; simp [h]

@[simp] theorem shaped_execRecordModeStart (h : s.Shaped) : OutcomeShaped (execRecordModeStart s) := by
  unfold execRecordModeStart; simp [h]

@[simp] theorem shaped_execReplayModeStart (h : s.Shaped) : OutcomeShaped (execReplayModeStart s) := by
  unfold execReplayModeStart; simp [h]

@[simp] theorem shaped_execRecctlCkreq (h : s.Shaped) : OutcomeShaped (execRecctlCkreq s) := by
  unfold execRecctlCkreq; simp [h]

@[simp] theorem shaped_execRecctlResume (h : s.Shaped) : OutcomeShaped (execRecctlResume s) := by
  unfold execRecctlResume; simp [h]

@[simp] theorem shaped_replayTick (h : s.Shaped) : s.replayTick.Shaped := by
  unfold State.replayTick
  repeat' split
  all_goals simp [h]

@[simp] theorem shaped_execReplayStallTimeout (h : s.Shaped) : OutcomeShaped (execReplayStallTimeout s) := by
  unfold execReplayStallTimeout; simp [h]

/-! #### What Machine/Regs keeps shaped -/

@[simp] theorem shaped_writeMemcfg (h : s.Shaped) (v : DWord) : (s.writeMemcfg v).Shaped := by
  unfold State.writeMemcfg; simp [h]

@[simp] theorem shaped_execMemcfgCacheWrite (h : s.Shaped) : OutcomeShaped (execMemcfgCacheWrite s) := by
  unfold execMemcfgCacheWrite; simp [h]

@[simp] theorem shaped_writeBackSets (h : s.Shaped) : s.writeBackSets.Shaped := by
  unfold State.writeBackSets
  exact shaped_foldl (fun t a ht => by simp [ht]) _ h

@[simp] theorem shaped_execMemcfgChangeDone (h : s.Shaped) : OutcomeShaped (execMemcfgChangeDone s) := by
  unfold execMemcfgChangeDone
  split
  · exact h
  · extract_lets +onlyGivenNames inCache s1 m
    have h1 : s1.Shaped := by simp [s1, h]
    apply outcomeShaped_next.2
    apply shaped_admitReqs
    exact h1

@[simp] theorem shaped_writeCtxctl (h : s.Shaped) (c : Nat) (v : DWord) : (s.writeCtxctl c v).Shaped := by
  unfold State.writeCtxctl
  extract_lets +onlyGivenNames x s1 s2
  have hs1 : s1.Shaped := by simp [s1, h]
  have hs2 : s2.Shaped := by simp [s2, hs1]
  simp [hs2]

@[simp] theorem shaped_execCtxctlKill (h : s.Shaped) : OutcomeShaped (execCtxctlKill s) := by
  unfold execCtxctlKill; simp [h]

@[simp] theorem shaped_execCtxctlEnClear (h : s.Shaped) : OutcomeShaped (execCtxctlEnClear s) := by
  unfold execCtxctlEnClear; simp [h]

@[simp] theorem shaped_execCtxctlEnSet (h : s.Shaped) : OutcomeShaped (execCtxctlEnSet s) := by
  unfold execCtxctlEnSet; simp [h]

@[simp] theorem shaped_writeCtxroot (h : s.Shaped) (c : Nat) (v : DWord) : (s.writeCtxroot c v).Shaped := by
  unfold State.writeCtxroot; simp [h]

@[simp] theorem shaped_execCtxrootWrite (h : s.Shaped) : OutcomeShaped (execCtxrootWrite s) := by
  unfold execCtxrootWrite; simp [h]

@[simp] theorem shaped_unfault (h : s.Shaped) (c page : Nat) : (s.unfault c page).Shaped := h

@[simp] theorem shaped_writeResume (h : s.Shaped) (c : Nat) (v : DWord) : (s.writeResume c v).Shaped := by
  unfold State.writeResume; split <;> simp [h]

@[simp] theorem shaped_execCtxresumeRetry (h : s.Shaped) : OutcomeShaped (execCtxresumeRetry s) := by
  unfold execCtxresumeRetry; simp [h]

@[simp] theorem shaped_execCtxresumeKill (h : s.Shaped) : OutcomeShaped (execCtxresumeKill s) := by
  unfold execCtxresumeKill; simp [h]

@[simp] theorem shaped_writeInval (h : s.Shaped) (c : Nat) (v : DWord) : (s.writeInval c v).Shaped := by
  unfold State.writeInval; simp [h]

@[simp] theorem shaped_execCtxinvalAll (h : s.Shaped) : OutcomeShaped (execCtxinvalAll s) := by
  unfold execCtxinvalAll; simp [h]

@[simp] theorem shaped_writeCtx (h : s.Shaped) (c off : Nat) (v : DWord) : (s.writeCtx c off v).Shaped := by
  unfold State.writeCtx; split <;> simp [h]

@[simp] theorem shaped_writeSqctl (h : s.Shaped) (n : Nat) (v : DWord) : (s.writeSqctl n v).Shaped := by
  unfold State.writeSqctl; simp [h]

@[simp] theorem shaped_writeSlot (h : s.Shaped) (n off : Nat) (v : DWord) : (s.writeSlot n off v).Shaped := by
  unfold State.writeSlot; split <;> simp [h]

@[simp] theorem shaped_kick (h : s.Shaped) (n : Nat) (tail : Word) : (s.kick n tail).Shaped := h

@[simp] theorem shaped_execKickWrite (h : s.Shaped) : OutcomeShaped (execKickWrite s) := by
  unfold execKickWrite; simp [h]

@[simp] theorem shaped_writeBar0 (h : s.Shaped) (off : Nat) (v : DWord) : (s.writeBar0 off v).Shaped := by
  unfold State.writeBar0
  extract_lets +onlyGivenNames mem dev
  split
  · exact shaped_modPort h _ fun _ hp => hp
  · split
    · simp [h]
    · split
      · simp [h]
      · split
        · exact h
        · dsimp -zeta only [mem]
          simp [h]
        · exact h
        · exact h
        · exact h
        · simp [h]
        · exact h
        · simp [h]
        · simp [h]
        · dsimp -zeta only [dev]
          simp [h]
        · exact h
        · simp [h]
        · exact h
        · simp [h]
        · exact h
        · dsimp -zeta only [dev]
          simp [h]
        · exact h

@[simp] theorem shaped_stepHalt (h : s.Shaped) : s.stepHalt.Shaped := by
  unfold State.stepHalt; simp [h]

@[simp] theorem shaped_stepRun (h : s.Shaped) : s.stepRun.Shaped := by
  unfold State.stepRun; simp [h]

@[simp] theorem shaped_stepStep (h : s.Shaped) : s.stepStep.Shaped := by
  unfold State.stepStep
  extract_lets +onlyGivenNames k
  dsimp -zeta only
  split
  · exact h
  · rename_i b e
    have hb := h.blk e
    split
    · exact h
    · rename_i t0 e0
      have ht := hb.thr e0
      split
      · exact h
      · extract_lets +onlyGivenNames t ready m stuck
        have hb1 : (b.setThr k.warp.toNat { t with lastLane := 32 }).Shaped := by simp [hb, t, ht]
        exact shaped_setBlk h _ _ (b := { b.setThr k.warp.toNat { t with lastLane := 32 } with stepping := true }) hb1

@[simp] theorem shaped_writeStepctl (h : s.Shaped) (v : DWord) : (s.writeStepctl v).Shaped := by
  unfold State.writeStepctl
  extract_lets +onlyGivenNames s1 s2 s3
  have hs2 : s2.Shaped := by simp [s2, h]
  have hs3 : s3.Shaped := by simp [s3, hs2]
  simp [hs3]

@[simp] theorem shaped_execStepctlHalt (h : s.Shaped) : OutcomeShaped (execStepctlHalt s) := by
  unfold execStepctlHalt; simp [h]

@[simp] theorem shaped_execStepctlStep (h : s.Shaped) : OutcomeShaped (execStepctlStep s) := by
  unfold execStepctlStep; simp [h]

@[simp] theorem shaped_execStepctlRun (h : s.Shaped) : OutcomeShaped (execStepctlRun s) := by
  unfold execStepctlRun; simp [h]

@[simp] theorem shaped_execStepDone (h : s.Shaped) : OutcomeShaped (execStepDone s) := by
  unfold execStepDone; simp [h]

@[simp] theorem shaped_writeNuntaok (h : s.Shaped) (off : Nat) (v : DWord) : (s.writeNuntaok off v).Shaped := by
  unfold State.writeNuntaok
  extract_lets +onlyGivenNames r put
  split
  · extract_lets +onlyGivenNames i b
    split
    · exact h
    · exact h
    · exact h
  · split
    · exact h
    · split
      · simp [h]
      · split
        · dsimp -zeta only [put]
          simp [h]
        · exact h
      · split
        · exact h
        · exact h
      · exact h
      · split
        · dsimp -zeta only [put]
          simp [h]
        · exact h
      · dsimp -zeta only [put]
        simp [h]
      · simp [h]
      · exact h
      · exact h
      · simp [h]
      · exact h

@[simp] theorem shaped_execRegisterWrite (h : s.Shaped) : OutcomeShaped (execRegisterWrite s) := by
  unfold execRegisterWrite; split <;> simp [h]

@[simp] theorem shaped_execNuntaokRequest (h : s.Shaped) : OutcomeShaped (execNuntaokRequest s) := by
  unfold execNuntaokRequest; simp [h]

@[simp] theorem shaped_execSqctlEnSet (h : s.Shaped) : OutcomeShaped (execSqctlEnSet s) := by
  unfold execSqctlEnSet; simp [h]

@[simp] theorem shaped_execContextKill (h : s.Shaped) : OutcomeShaped (execContextKill s) := by
  unfold execContextKill; simp [h]

@[simp] theorem shaped_execWatchdogExpiry (h : s.Shaped) : OutcomeShaped (execWatchdogExpiry s) := by
  unfold execWatchdogExpiry; split <;> simp [h]

@[simp] theorem shaped_execInvalidationComplete (h : s.Shaped) : OutcomeShaped (execInvalidationComplete s) := by
  unfold execInvalidationComplete
  split
  · simp [h]
  · split
    · simp [h]
    · extract_lets +onlyGivenNames rest s1 s2 s3
      have hs2 : s2.Shaped := by simp [s2, h]
      have hs3 : s3.Shaped := by simp [s3, hs2]
      extract_lets +onlyGivenNames s31
      have hs31 : s31.Shaped := by
        dsimp -zeta only [s31]
        split <;> simp [hs3]
      rw [outcomeShaped_next]
      exact shaped_foldl (fun t a ht => by simp [ht]) _ hs31

/-! #### What Machine/HostMem keeps shaped -/

@[simp] theorem shaped_hostReach (h : s.Shaped) (reads writes : Bool) (l : List HostPiece) : (s.hostReach reads writes l).Shaped := by
  unfold State.hostReach
  exact shaped_foldl_fst (fun t a ht => by simp [ht]) _ h

@[simp] theorem shaped_hostRead (h : s.Shaped) (l : List HostPiece) (noted : Bool) : (s.hostRead l noted).1.Shaped := by
  unfold State.hostRead
  apply shaped_foldl_fst
  · intro t a ht
    extract_lets +onlyGivenNames s1 s2
    have hs1 : s1.Shaped := by simp [s1, ht]
    have hs2 : s2.Shaped := by simp [s2, hs1]
    exact hs2
  · exact h

@[simp] theorem shaped_hostPut (h : s.Shaped) (data : List Byte) (p : HostPiece) : (s.hostPut data p).Shaped := by
  unfold State.hostPut
  extract_lets +onlyGivenNames line s1
  have hs1 : s1.Shaped := by simp [s1, h]
  split
  · exact hs1
  · extract_lets +onlyGivenNames s2 s3 s4
    have hs2 : s2.Shaped := by simp [s2, hs1]
    have hs3 : s3.Shaped := by simp [s3, hs2]
    have hs4 : s4.Shaped := by simp [s4, hs3]
    simp [hs4]

@[simp] theorem shaped_hostWriteAt (h : s.Shaped) (l : List HostPiece) (data : List Byte) : (s.hostWriteAt l data).Shaped := by
  unfold State.hostWriteAt
  extract_lets +onlyGivenNames s1 s2
  have hs1 : s1.Shaped := shaped_foldl (fun t a ht => by simp [ht]) _ h
  have hs2 : s2.Shaped := by simp [s2, hs1]
  exact hs2

@[simp] theorem shaped_hostAtomicAt (h : s.Shaped) (l : List HostPiece) (k : HostAtomic) (n : Nat) (data : List Byte) (noted : Bool) :
    (s.hostAtomicAt l k n data noted).Shaped := by
  unfold State.hostAtomicAt
  dsimp -zeta only
  apply shaped_emit
  simp [h]

@[simp] theorem shaped_hostAccess (h : s.Shaped) (x : HostAccess) (l : List HostPiece) : (s.hostAccess x l).Shaped := by
  unfold State.hostAccess
  extract_lets +onlyGivenNames writes apart reads failed
  split
  · exact h
  · split
    · simp [h]
    · extract_lets +onlyGivenNames t
      have ht : t.Shaped := by simp [t, h]
      split
      · split
        · apply shaped_quietly
          · exact ht
          · intro y0 ht1
            simp [ht1]
        · simp [ht]
      · split
        · split
          · apply shaped_quietly
            · exact ht
            · intro y0 ht1
              simp [ht1]
          · simp [ht]
        · simp [ht]

@[simp] theorem shaped_execHostMemoryAccess {s0 : State} (hs0 : s0.Shaped) : OutcomeShaped (execHostMemoryAccess s0) := by
  unfold execHostMemoryAccess
  extract_lets +onlyGivenNames s x
  have hs : s.Shaped := by simp [s, hs0]
  repeat' split
  all_goals simp [hs]

@[simp] theorem shaped_execHostSnoop (h : s.Shaped) : OutcomeShaped (execHostSnoop s) := by
  unfold execHostSnoop
  extract_lets +onlyGivenNames k
  split <;> simp [h]

@[simp] theorem shaped_endHostReq (h : s.Shaped) (r : Req) : (s.endHostReq r).Shaped := by
  unfold State.endHostReq; simp [h]

@[simp] theorem shaped_hostLaneEnd (h : s.Shaped) (r : Req) (link : Nat) (res : Except Cause QWord) :
    (s.hostLaneEnd r link res).Shaped := by
  unfold State.hostLaneEnd
  repeat' split
  all_goals simp [h]

@[simp] theorem shaped_hostCas (h : s.Shaped) (r : Req) (link : Nat) (o : LaneOp) (old : QWord) : (s.hostCas r link o old).Shaped := h

@[simp] theorem shaped_execHostLinkCompletion (h : s.Shaped) : OutcomeShaped (execHostLinkCompletion s) := by
  unfold execHostLinkCompletion
  repeat' split
  all_goals simp [h]

@[simp] theorem shaped_execHostAtomicCasAttempt (h : s.Shaped) : OutcomeShaped (execHostAtomicCasAttempt s) := by
  unfold execHostAtomicCasAttempt
  repeat' split
  all_goals simp [h]

@[simp] theorem shaped_modWalk (h : s.Shaped) (id : Nat) (f : Walk → Walk) : (s.modWalk id f).Shaped := h

@[simp] theorem shaped_denyWalk (h : s.Shaped) (k : Walk) : (s.denyWalk k).Shaped := by
  unfold State.denyWalk; simp [h]

@[simp] theorem shaped_retryDenied (h : s.Shaped) : s.retryDenied.Shaped := by
  unfold State.retryDenied
  exact shaped_foldl (fun t a ht => by simp [ht]) _ h

@[simp] theorem shaped_execAtsCompletion (h : s.Shaped) : OutcomeShaped (execAtsCompletion s) := by
  unfold execAtsCompletion
  repeat' split
  all_goals simp [h]

@[simp] theorem shaped_execPriResponse (h : s.Shaped) : OutcomeShaped (execPriResponse s) := by
  unfold execPriResponse
  split
  · simp [h]
  · extract_lets +onlyGivenNames record
    split
    · rw [outcomeShaped_next]
      apply shaped_retryDenied
      exact h
    · rw [outcomeShaped_next]
      apply shaped_retryDenied
      dsimp -zeta only [record]
      simp [h]
    · rw [outcomeShaped_next]
      apply shaped_retryDenied
      dsimp -zeta only [record]
      simp [h]

@[simp] theorem shaped_execAtsInvalidationRequest (h : s.Shaped) : OutcomeShaped (execAtsInvalidationRequest s) := by
  unfold execAtsInvalidationRequest
  extract_lets +onlyGivenNames link cs
  split
  · simp [h]
  · extract_lets +onlyGivenNames who
    rw [outcomeShaped_next]
    apply shaped_foldl
    · intro t a ht
      exact ht
    · exact h

@[simp] theorem shaped_execTranslationWalkComplete (h : s.Shaped) : OutcomeShaped (execTranslationWalkComplete s) := by
  unfold execTranslationWalkComplete; split <;> simp [h]

@[simp] theorem shaped_execManagementSpdmRequest (h : s.Shaped) : OutcomeShaped (execManagementSpdmRequest s) := by
  unfold execManagementSpdmRequest; split <;> simp [h]

@[simp] theorem shaped_banksBack (h : s.Shaped) : s.banksBack.Shaped := by
  unfold State.banksBack
  exact shaped_foldl (fun t a ht => by simp [ht]) _ h

@[simp] theorem shaped_execKillComplete (h : s.Shaped) : OutcomeShaped (execKillComplete s) := by
  unfold execKillComplete; simp [h]

/-! #### What Machine/HostCmd keeps shaped -/

@[simp] theorem shaped_ctlQuiet {α : Type} (h : s.Shaped) (ctx agent : Nat) (site : FaultSite) {f : Eng → Except EStop (Eng × α)}
    (hf : ∀ e, e.Shaped → ExceptShaped (fun x => x.1.s) (f e)) (fuel : Nat) : (State.ctlQuiet ctx agent site f fuel s).Shaped := by
  unfold State.ctlQuiet
  extract_lets +onlyGivenNames back
  have hb : ∀ t, t.Shaped → (back t).Shaped := fun _ ht => ht
  have hr := shaped_ctl (s := { s with recd := { s.recd with mode := 0 } }) h ctx agent site hf fuel
  split
  · rename_i t _ e
    exact hb t (hr.ok e)
  · rename_i t _ e
    exact hb t (hr.fault e)
  · rename_i t _ e
    exact hb t (hr.wait e)

@[simp] theorem shaped_readEntry (h : s.Shaped) (q : QSlot) : (s.readEntry q).Shaped := by
  unfold State.readEntry
  extract_lets +onlyGivenNames a
  split
  · split
    · exact h
    · split
      · simp
      · extract_lets +onlyGivenNames line s1
        have hs1 : s1.Shaped := by
          dsimp -zeta only [s1]
          apply shaped_gather
          simp [h]
        split <;> simp [hs1]
  · extract_lets +onlyGivenNames link
    repeat' split
    all_goals simp [h]

@[simp] theorem shaped_advance (h : s.Shaped) (n : Nat) : (s.advance n).Shaped := h

@[simp] theorem shaped_entryRecord (h : s.Shaped) (n : Nat) (q : QSlot) (bs : List Byte) : (s.entryRecord n q bs).Shaped := by
  unfold State.entryRecord; split <;> simp [h]

@[simp] theorem shaped_addCmd (h : s.Shaped) (n c : Nat) (bs : List Byte) : (s.addCmd n c bs).Shaped := h

@[simp] theorem shaped_takeEntry (h : s.Shaped) (n : Nat) (q : QSlot) (bs : List Byte) : (s.takeEntry n q bs).Shaped := by
  unfold State.takeEntry; simp [h]

@[simp] theorem shaped_execQueueEntryExamine (h : s.Shaped) : OutcomeShaped (execQueueEntryExamine s) := by
  unfold execQueueEntryExamine
  extract_lets +onlyGivenNames n q
  split
  · simp [h]
  · split
    · simp [h]
    · rename_i t e
      have ht : t.Shaped := (shaped_readEntry h ..).unreadable e
      simp [ht]
    · rename_i t _ e
      have ht : t.Shaped := (shaped_readEntry h ..).bytes e
      simp [ht]

@[simp] theorem shaped_modHCmd (h : s.Shaped) (h1 : HCmd) (f : HCmd → HCmd) : (s.modHCmd h1 f).Shaped := h

@[simp] theorem shaped_stokerRaise (h : s.Shaped) (n : Nat) (v : DWord) : (s.stokerRaise n v).Shaped := by
  unfold State.stokerRaise; simp [h]

@[simp] theorem shaped_execTlsignal (h : s.Shaped) : OutcomeShaped (execTlsignal s) := by
  unfold execTlsignal; split <;> simp [h]

@[simp] theorem shaped_execHostTlwait (h : s.Shaped) : OutcomeShaped (execHostTlwait s) := by
  unfold execHostTlwait; split <;> simp [h]

@[simp] theorem shaped_execMarker (h : s.Shaped) : OutcomeShaped (execMarker s) := by
  unfold execMarker
  split
  · exact h
  · rename_i c _
    split
    · exact h
    · have hw := shaped_ctl h c.ctx stokerAgent c.site (fun _ he => shaped_ctlWrite he c.a0 (leBytes 8 c.a1.toNat) false) 4
      split
      · rename_i e
        exact shaped_endHostCmd (hw.ok e) ..
      · rename_i e
        exact shaped_endHostCmd (hw.fault e) ..
      · rename_i e
        exact shaped_modHCmd (hw.wait e) ..

@[simp] theorem shaped_execInvtlb (h : s.Shaped) : OutcomeShaped (execInvtlb s) := by
  unfold execInvtlb; split <;> simp [h]

@[simp] theorem shaped_homeRange (h : s.Shaped) (ctx : Nat) (site : FaultSite) (n : Nat) (va : DWord) :
    (s.homeRange ctx site n va).Shaped := by
  induction n generalizing s va with
  | zero => trivial
  | succ n ih =>
    unfold State.homeRange
    split
    · trivial
    · extract_lets +onlyGivenNames on
      have hon : ∀ t l, t.Shaped → (on t l).Shaped := by
        intro t l ht
        dsimp -zeta only [on]
        split
        · exact ih ht _
        · trivial
        · trivial
      split
      · exact hon _ _ h
      · exact h
      · have hw := fun c va k => shaped_walkNow h c va k site
        split
        · rename_i e
          exact hon _ _ ((hw ..).leaf e)
        · rename_i e
          exact (hw ..).wait e

@[simp] theorem shaped_openWindow (h : s.Shaped) (h1 : HCmd) (d : WinDesc) (devs : List Byte) : (s.openWindow h1 d devs).Shaped := by
  unfold State.openWindow
  extract_lets +onlyGivenNames n dev
  split
  · exact h
  · split
    · exact h
    · extract_lets +onlyGivenNames pages
      split
      · exact h
      · rename_i t _ e
        have ht : t.Shaped := (shaped_homeRange h ..).waits e
        exact ht
      · exact h

@[simp] theorem shaped_execWinopen (h : s.Shaped) : OutcomeShaped (execWinopen s) := by
  unfold execWinopen
  split
  · exact h
  · rename_i c _
    split
    · exact shaped_endHostCmd h ..
    · have ht := shaped_ctlQuiet h c.ctx stokerAgent c.site (fun _ he => shaped_ctlRead he c.a0 64) 4
      split
      · rename_i e
        exact shaped_endHostCmd (ht.fault e) ..
      · rename_i e
        exact shaped_modHCmd (ht.wait e) ..
      · rename_i e
        extract_lets +onlyGivenNames d
        split
        · exact shaped_endHostCmd (ht.ok e) ..
        · have hu := shaped_ctlQuiet (ht.ok e) c.ctx stokerAgent c.site (fun _ he => shaped_ctlRead he d.srcs (2 * d.nsrc)) 8
          split
          · rename_i e'
            exact shaped_endHostCmd (hu.fault e') ..
          · rename_i e'
            exact shaped_modHCmd (hu.wait e') ..
          · rename_i e'
            exact shaped_openWindow (hu.ok e') ..

@[simp] theorem shaped_execWinclose (h : s.Shaped) : OutcomeShaped (execWinclose s) := by
  unfold execWinclose
  repeat' split
  all_goals simp [h]

@[simp] theorem shaped_journalEnd (h : s.Shaped) (h1 : HCmd) : (s.journalEnd h1).Shaped := by
  unfold State.journalEnd; split <;> simp [h]

@[simp] theorem shaped_execCommandComplete (h : s.Shaped) : OutcomeShaped (execCommandComplete s) := by
  unfold execCommandComplete; split <;> simp [h]

/-! #### What Machine/Arm keeps shaped -/

@[simp] theorem shaped_ownedWritable (h : e.Shaped) (a : DWord) : ExceptShaped (fun x => x.1.s) (ownedWritable a e) := by
  unfold ownedWritable; split <;> simp [h]

@[simp] theorem shaped_readNodes (h : s.Shaped) (c : HCmd) (fuel : Nat) (todo : List DWord) (ns : List ArmNode) :
    (State.readNodes c fuel todo ns s).Shaped := by
  induction fuel generalizing s todo ns with
  | zero => exact h
  | succ fuel ih =>
    cases todo with
    | nil => exact h
    | cons a todo =>
      rw [State.readNodes]
      split
      · exact h
      · split
        · exact ih h ..
        · split
          · exact h
          · have ht := shaped_ctlQuiet h c.ctx stokerAgent (stokerSite c.slot c.seq a) (fun _ he => shaped_ctlRead he a 256) 4
            split
            · rename_i e; exact ht.fault e
            · rename_i e; exact ht.wait e
            · rename_i e
              have hu := shaped_ctlQuiet (ht.ok e) c.ctx stokerAgent (stokerSite c.slot c.seq a) (fun _ he => shaped_ownedWritable he a) 4
              split
              · rename_i e; exact hu.fault e
              · rename_i e; exact hu.wait e
              · rename_i u _ e
                extract_lets +onlyGivenNames n body
                split
                · exact ih (hu.ok e) ..
                · have hv := shaped_ctlQuiet (hu.ok e) c.ctx stokerAgent (stokerSite c.slot c.seq n.succPtr)
                    (fun _ he => shaped_ctlRead he n.succPtr (8 * n.succN)) 260
                  split
                  · rename_i e; exact hv.fault e
                  · rename_i e; exact hv.wait e
                  · rename_i e
                    exact ih (hv.ok e) ..

@[simp] theorem shaped_putNode (h : s.Shaped) (n : ArmNode) : (s.putNode n).Shaped := by
  have hw := shaped_ctlQuiet h n.ctx stokerAgent (stokerSite n.slot n.seq n.addr)
    (fun _ he => shaped_ctlWrite he (n.addr + 0xF0) n.owned false)
      4
  unfold State.putNode
  split
  · rename_i e
    exact shaped_setNode (hw.ok e) _
  · rename_i e
    exact shaped_kill (shaped_setNode (hw.fault e) _) ..
  · rename_i e
    exact shaped_setNode (hw.wait e) _

@[simp] theorem shaped_pooled (h : s.Shaped) (n : ArmNode) : (s.pooled n).Shaped := by
  unfold State.pooled; simp [h]

@[simp] theorem shaped_armSet (h : s.Shaped) (h1 : HCmd) (ns : List ArmNode) : (s.armSet h1 ns).Shaped := by
  unfold State.armSet
  extract_lets +onlyGivenNames succ bodies armed s1 s2
  have hs2 : s2.Shaped := by simp [s2, h]
  extract_lets +onlyGivenNames s21
  have hs21 : s21.Shaped := shaped_foldl (fun t a ht => by simp [ht]) _ hs2
  exact shaped_foldl (fun t a ht => by simp [ht]) _ hs21

@[simp] theorem shaped_execRungraph (h : s.Shaped) : OutcomeShaped (execRungraph s) := by
  unfold execRungraph
  split
  · exact h
  · rename_i c _
    split
    · exact h
    · have ht := shaped_ctlQuiet h c.ctx stokerAgent (stokerSite c.slot c.seq c.a0) (fun _ he => shaped_ctlRead he c.a0 (8 * c.a1.toNat)) 20
      split
      · rename_i e
        exact shaped_endHostCmd (ht.fault e) ..
      · rename_i e
        exact shaped_modHCmd (ht.wait e) ..
      · rename_i e
        have hn := fun k f l => shaped_readNodes (ht.ok e) k f l []
        split
        · rename_i e'
          exact shaped_endHostCmd ((hn ..).fails e') ..
        · rename_i e'
          exact shaped_modHCmd ((hn ..).waits e') ..
        · rename_i e'
          split
          · exact shaped_endHostCmd ((hn ..).nodes e') ..
          · exact shaped_armSet ((hn ..).nodes e') ..

/-! #### What Machine/Cross keeps shaped -/

@[simp] theorem shaped_laneCross (h : s.Shaped) (i : Instr) (w : LaneW) (x : SrcX) (f : Cur → Blk → Thr → Word → Thr)
    (hf : ∀ c b t m, t.Shaped → (f c b t m).Shaped) : OutcomeShaped (laneCross i w x s f) := by
  unfold laneCross
  apply shaped_laneWordOp
  · exact h
  · intro c b t m hb ht
    split
    · simp [h]
    · extract_lets +onlyGivenNames s1
      have hs1 : s1.Shaped := by simp [s1, h]
      exact shaped_retire (shaped_modThr hs1 _ _ _ fun _ _ => hf c b t m ht) ..

@[simp] theorem shaped_laneShuffle (h : s.Shaped) (i : Instr) (w : LaneW) (x : SrcX) (target : Nat → Nat → ℤ) : OutcomeShaped
    (laneShuffle i w x s target) := by
  unfold laneShuffle; exact shaped_laneCross h _ _ _ _ fun _ _ _ _ ht => by simp [ht]

@[simp] theorem shaped_execShfl (h : s.Shaped) (w : LaneW) (x : SrcX) : OutcomeShaped (execShfl w x s) := by
  unfold execShfl; simp [h]

@[simp] theorem shaped_execShflup (h : s.Shaped) (w : LaneW) (x : SrcX) : OutcomeShaped (execShflup w x s) := by
  unfold execShflup; simp [h]

@[simp] theorem shaped_execShfldn (h : s.Shaped) (w : LaneW) (x : SrcX) : OutcomeShaped (execShfldn w x s) := by
  unfold execShfldn; simp [h]

@[simp] theorem shaped_execShflx (h : s.Shaped) (w : LaneW) (x : SrcX) : OutcomeShaped (execShflx w x s) := by
  unfold execShflx; simp [h]

@[simp] theorem shaped_execVoteall (h : s.Shaped) (w : LaneW) (x : SrcX) : OutcomeShaped (execVoteall w x s) := by
  unfold execVoteall; exact shaped_laneCross h _ _ _ _ fun _ _ _ _ ht => by simp [ht]

@[simp] theorem shaped_execVoteany (h : s.Shaped) (w : LaneW) (x : SrcX) : OutcomeShaped (execVoteany w x s) := by
  unfold execVoteany; exact shaped_laneCross h _ _ _ _ fun _ _ _ _ ht => by simp [ht]

@[simp] theorem shaped_execBallot (h : s.Shaped) (w : LaneW) (x : SrcX) : OutcomeShaped (execBallot w x s) := by
  unfold execBallot; exact shaped_laneCross h _ _ _ _ fun _ _ _ _ ht => by simp [ht]

@[simp] theorem shaped_execMatchLane (h : s.Shaped) (w : LaneW) (x : SrcX) : OutcomeShaped (execMatchLane w x s) := by
  unfold execMatchLane; exact shaped_laneCross h _ _ _ _ fun _ _ _ _ ht => by simp [ht]

@[simp] theorem shaped_execElect (h : s.Shaped) (w : LaneW) (x : SrcX) : OutcomeShaped (execElect w x s) := by
  unfold execElect; exact shaped_laneCross h _ _ _ _ fun _ _ _ _ ht => by simp [ht]

@[simp] theorem shaped_laneFold (h : s.Shaped) (i : Instr) (w : LaneW) (x : SrcX) (id : Word) (op : Word → Word → Word) : OutcomeShaped
    (laneFold i w x s id op) := by
  unfold laneFold; exact shaped_laneCross h _ _ _ _ fun _ _ _ _ ht => by simp [ht]

@[simp] theorem shaped_execRedadd (h : s.Shaped) (w : LaneW) (x : SrcX) : OutcomeShaped (execRedadd w x s) := by
  unfold execRedadd; simp [h]

@[simp] theorem shaped_execRedmin (h : s.Shaped) (w : LaneW) (x : SrcX) : OutcomeShaped (execRedmin w x s) := by
  unfold execRedmin; simp [h]

@[simp] theorem shaped_execRedmax (h : s.Shaped) (w : LaneW) (x : SrcX) : OutcomeShaped (execRedmax w x s) := by
  unfold execRedmax; simp [h]

@[simp] theorem shaped_execRedminu (h : s.Shaped) (w : LaneW) (x : SrcX) : OutcomeShaped (execRedminu w x s) := by
  unfold execRedminu; simp [h]

@[simp] theorem shaped_execRedmaxu (h : s.Shaped) (w : LaneW) (x : SrcX) : OutcomeShaped (execRedmaxu w x s) := by
  unfold execRedmaxu; simp [h]

@[simp] theorem shaped_execRedand (h : s.Shaped) (w : LaneW) (x : SrcX) : OutcomeShaped (execRedand w x s) := by
  unfold execRedand; simp [h]

@[simp] theorem shaped_execRedor (h : s.Shaped) (w : LaneW) (x : SrcX) : OutcomeShaped (execRedor w x s) := by
  unfold execRedor; simp [h]

@[simp] theorem shaped_execRedxor (h : s.Shaped) (w : LaneW) (x : SrcX) : OutcomeShaped (execRedxor w x s) := by
  unfold execRedxor; simp [h]

@[simp] theorem shaped_laneTree (h : s.Shaped) (i : Instr) (w : LaneW) (x : SrcX) (id : Word) (op : Word → Word → Word) : OutcomeShaped
    (laneTree i w x s id op) := by
  unfold laneTree; exact shaped_laneCross h _ _ _ _ fun _ _ _ _ ht => by simp [ht]

@[simp] theorem shaped_execFredadd (h : s.Shaped) (w : LaneW) (x : SrcX) : OutcomeShaped (execFredadd w x s) := by
  unfold execFredadd; simp [h]

@[simp] theorem shaped_execFredmax (h : s.Shaped) (w : LaneW) (x : SrcX) : OutcomeShaped (execFredmax w x s) := by
  unfold execFredmax; simp [h]

@[simp] theorem shaped_laneScan (h : s.Shaped) (i : Instr) (w : LaneW) (x : SrcX) (id : Word) (op : Word → Word → Word) : OutcomeShaped
    (laneScan i w x s id op) := by
  unfold laneScan; exact shaped_laneCross h _ _ _ _ fun _ _ _ _ ht => by simp [ht]

@[simp] theorem shaped_execScanadd (h : s.Shaped) (w : LaneW) (x : SrcX) : OutcomeShaped (execScanadd w x s) := by
  unfold execScanadd; simp [h]

@[simp] theorem shaped_execScanxor (h : s.Shaped) (w : LaneW) (x : SrcX) : OutcomeShaped (execScanxor w x s) := by
  unfold execScanxor; simp [h]

@[simp] theorem shaped_execScanmax (h : s.Shaped) (w : LaneW) (x : SrcX) : OutcomeShaped (execScanmax w x s) := by
  unfold execScanmax; simp [h]

/-! #### What Machine/Graph keeps shaped -/

@[simp] theorem shaped_withNode (h : s.Shaped) (old new : ArmNode) {k : State → State} (hk : ∀ t, t.Shaped → (k t).Shaped) :
    (s.withNode old new k).Shaped := by
  have hw := shaped_ctlQuiet h new.ctx stokerAgent (stokerSite new.slot new.seq new.addr)
    (fun _ he => shaped_ctlWrite he (new.addr + 0xF0) new.owned false) 4
  unfold State.withNode
  split
  · rename_i e
    exact hk _ (shaped_setNode (hw.ok e) _)
  · rename_i e
    exact shaped_kill (hw.fault e) ..
  · rename_i e
    exact shaped_setNode (hw.wait e) _
  · rename_i e
    exact hw.wait e

@[simp] theorem shaped_takeUp (h : s.Shaped) (n : ArmNode) (k : ArmNode → State → State) (hk : ∀ y0 y1, y1.Shaped → (k y0 y1).Shaped) :
    (s.takeUp n k).Shaped := by
  unfold State.takeUp
  split
  · simp [h, hk]
  · extract_lets +onlyGivenNames m
    apply shaped_withNode
    · exact h
    · intro y0 ht
      simp [hk, ht]

@[simp] theorem shaped_decided (h : s.Shaped) (event : Nat) (n : ArmNode) (arg cluster mask core : Nat) (faulted : Bool) :
    (s.decided event n arg cluster mask core faulted).Shaped := by
  unfold State.decided; simp [h]

@[simp] theorem shaped_finishIfDone (h : s.Shaped) (slot : Nat) (seq : Word) : (s.finishIfDone slot seq).Shaped := by
  unfold State.finishIfDone
  repeat' split
  all_goals simp [h]

@[simp] theorem shaped_abandon (h : s.Shaped) (n : ArmNode) : (s.abandon n).Shaped := by
  unfold State.abandon; simp [h]

@[simp] theorem shaped_failNode (h : s.Shaped) (n : ArmNode) (c : Cause) : (s.failNode n c).Shaped := by
  unfold State.failNode
  extract_lets +onlyGivenNames ns succ entry next hit lost s1 s2
  have hs1 : s1.Shaped := by simp [s1, h]
  extract_lets +onlyGivenNames s21
  extract_lets +onlyGivenNames s22
  have hs22 : s22.Shaped := by simp [s22, hs1]
  apply shaped_finishIfDone
  exact shaped_foldl (fun t a ht => by simp [ht]) _ hs22

@[simp] theorem shaped_execNodeCompletionReport (h : s.Shaped) : OutcomeShaped (execNodeCompletionReport s) := by
  unfold execNodeCompletionReport
  repeat' split
  all_goals simp [h]

@[simp] theorem shaped_notifyNode (h : s.Shaped) (n : ArmNode) (a : DWord) (live : Bool) (k : State → State)
    (hk : ∀ y0, y0.Shaped → (k y0).Shaped) :
    (s.notifyNode n a live k).Shaped := by
  unfold State.notifyNode
  split
  · simp [h, hk]
  · split
    · exact h
    · split
      · simp [h, hk]
      · split
        · simp [h, hk]
        · extract_lets +onlyGivenNames x
          apply shaped_withNode
          · exact h
          · intro y0 ht
            simp [hk, ht]

@[simp] theorem shaped_execForwardingStep (h : s.Shaped) : OutcomeShaped (execForwardingStep s) := by
  unfold execForwardingStep
  split
  · simp [h]
  · split
    · simp [h]
    · extract_lets +onlyGivenNames drop
      split
      · rw [outcomeShaped_next]
        dsimp -zeta only [drop]
        simp [h]
      · extract_lets +onlyGivenNames out hand
        split
        · rw [outcomeShaped_next]
          dsimp -zeta only [drop]
          simp [h]
        · split
          · rw [outcomeShaped_next]
            dsimp -zeta only [hand]
            split
            · dsimp -zeta only [drop]
              simp [h]
            · exact h
          · rw [outcomeShaped_next]
            apply shaped_notifyNode
            · exact h
            · intro y0 ht
              dsimp -zeta only [hand]
              split
              · dsimp -zeta only [drop]
                simp [ht]
              · exact ht

@[simp] theorem shaped_journalIf (h : s.Shaped) (slot : Nat) (seq : Word) : (s.journalIf slot seq).Shaped := by
  unfold State.journalIf; split <;> simp [h]

@[simp] theorem shaped_retireNext (h : s.Shaped) : OutcomeShaped (s.retireNext) := by
  unfold State.retireNext
  split
  · simp [h]
  · extract_lets +onlyGivenNames drop isBody
    split
    · rw [outcomeShaped_next]
      exact h
    · split
      · rw [outcomeShaped_next]
        exact h
      · split
        · simp [h]
        · rw [outcomeShaped_next]
          apply shaped_withNode
          · exact h
          · intro y0 ht
            apply shaped_journalIf
            apply shaped_finishIfDone
            split
            · apply shaped_stokerRaise
              exact ht
            · exact ht

@[simp] theorem shaped_execNodeRetire (h : s.Shaped) : OutcomeShaped (execNodeRetire s) := by
  unfold execNodeRetire
  split
  · simp [h]
  · split
    · rw [outcomeShaped_next]
      apply shaped_journalIf
      simp [h]
    · simp [h]

@[simp] theorem shaped_nodeRead (h : s.Shaped) (n : ArmNode) {k : State → Bool → State} (hk : ∀ t b, t.Shaped → (k t b).Shaped) :
    (s.nodeRead n k).Shaped := by
  have hr := shaped_ctl h n.ctx stokerAgent (stokerSite n.slot n.seq n.addr) (fun _ he => shaped_ctlRead he n.predAddr 8) 4
  unfold State.nodeRead
  split
  · rename_i e
    exact hk _ _ (hr.ok e)
  · rename_i e
    exact shaped_failNode (hr.fault e) ..
  · rename_i e
    exact shaped_setNode (hr.wait e) _

@[simp] theorem shaped_execCondEvaluate (h : s.Shaped) : OutcomeShaped (execCondEvaluate s) := by
  unfold execCondEvaluate
  split
  · simp [h]
  · split
    · simp [h]
    · rw [outcomeShaped_next]
      apply shaped_takeUp
      · exact h
      · intro y0 y1 ht
        apply shaped_nodeRead
        · exact ht
        · intro y01 y11 ht1
          simp [ht1]

@[simp] theorem shaped_loopGo (h : s.Shaped) (n : ArmNode) (go : Bool) : (s.loopGo n go).Shaped := by
  unfold State.loopGo
  extract_lets +onlyGivenNames s1
  have hs1 : s1.Shaped := by simp [s1, h]
  split
  · extract_lets +onlyGivenNames s2
    have hs2 : s2.Shaped := shaped_foldl (fun t a ht => by simp [ht]) _ hs1
    exact hs2
  · exact hs1

@[simp] theorem shaped_execLoopNodeTest (h : s.Shaped) : OutcomeShaped (execLoopNodeTest s) := by
  unfold execLoopNodeTest
  split
  · simp [h]
  · extract_lets +onlyGivenNames rested
    split
    · simp [h]
    · rw [outcomeShaped_next]
      apply shaped_takeUp
      · exact h
      · intro y0 y1 ht
        extract_lets +onlyGivenNames on test
        split
        · apply shaped_nodeRead
          · exact ht
          · intro y01 y11 ht1
            dsimp -zeta only [test]
            simp [ht1]
        · dsimp -zeta only [test]
          simp [ht]

@[simp] theorem shaped_execSignalNode (h : s.Shaped) : OutcomeShaped (execSignalNode s) := by
  unfold execSignalNode
  split
  · simp [h]
  · rw [outcomeShaped_next]
    apply shaped_takeUp
    · exact h
    · intro y0 y1 ht
      simp [ht]

@[simp] theorem shaped_tlReached (h : s.Shaped) (n : ArmNode) : (s.tlReached n).Shaped := by
  unfold State.tlReached; simp [h]

@[simp] theorem shaped_execWaitNode (h : s.Shaped) : OutcomeShaped (execWaitNode s) := by
  unfold execWaitNode
  split
  · simp [h]
  · rw [outcomeShaped_next]
    apply shaped_takeUp
    · exact h
    · intro y0 y1 ht
      simp [ht]

@[simp] theorem shaped_execHostcallNode (h : s.Shaped) : OutcomeShaped (execHostcallNode s) := by
  unfold execHostcallNode
  split
  · exact h
  · apply outcomeShaped_next.2
    apply shaped_takeUp h
    intro m t ht
    dsimp only
    split
    · exact shaped_tlReached ht m
    · have hw := shaped_ctl ht m.ctx stokerAgent (stokerSite m.slot m.seq m.addr)
        (fun _ he => shaped_ctlWrite he m.param (leBytes 4 m.nodeId.toNat ++ leBytes 4 m.launches.toNat) false) 4
      split
      · rename_i e
        exact shaped_tlReached (shaped_setNode (hw.ok e) _) _
      · rename_i e
        exact shaped_failNode (hw.fault e) ..
      · rename_i e
        exact shaped_setNode (hw.wait e) _

@[simp] theorem shaped_preloadLines (h : s.Shaped) (cluster ctx n : Nat) (va : DWord) : (s.preloadLines cluster ctx n va).1.Shaped := by
  induction n generalizing s va with
  | zero => exact h
  | succ n ih =>
    unfold State.preloadLines
    split
    · exact h
    · exact ih (by simp [h]) _
    · exact ih (shaped_cacheRead h ..) _

@[simp] theorem shaped_execNodePreload (h : s.Shaped) : OutcomeShaped (execNodePreload s) := by
  unfold execNodePreload
  split
  · simp [h]
  · split
    · simp [h]
    · split <;> simp [h]

@[simp] theorem shaped_repairSlot (h : s.Shaped) (n : Nat) : OptionShaped (s.repairSlot n) := by
  unfold State.repairSlot
  extract_lets +onlyGivenNames q
  split
  · split
    · simp [h]
    · split
      · simp [h]
      · split
        · rename_i t _ e
          have ht : t.Shaped := (shaped_readEntry h ..).bytes e
          simp [ht]
        · rename_i t e
          have ht : t.Shaped := (shaped_readEntry h ..).unreadable e
          simp [ht]
        · simp
  · simp [h]

@[simp] theorem shaped_repairSlots (h : s.Shaped) : OptionShaped s.repairSlots := by
  unfold State.repairSlots
  have step : ∀ (l : List (Nat × QSlot)) (o : Option State), OptionShaped o →
      OptionShaped (l.foldl (fun t p => if p.2.en then t.bind fun x => x.repairSlot p.1 else t) o) := by
    intro l
    induction l with
    | nil => exact fun _ ho => ho
    | cons p l ih =>
      intro o ho
      refine ih _ ?_
      dsimp only
      split
      · cases o with
        | none => exact ho
        | some t => exact shaped_repairSlot (s := t) ho p.1
      · exact ho
  exact step _ _ h

@[simp] theorem shaped_rearmGraphs (h : s.Shaped) : s.rearmGraphs.Shaped := h

@[simp] theorem shaped_takenOver (h : s.Shaped) : s.takenOver.Shaped := by
  unfold State.takenOver
  split
  · exact h
  · rename_i t e
    have ht : t.Shaped := (shaped_repairSlots h ..).some e
    extract_lets +onlyGivenNames u v w
    have hu : u.Shaped := by simp [u, ht]
    have hw : w.Shaped := by simp [w, hu]
    simp [hw]

@[simp] theorem shaped_execControlCoreTakeover (h : s.Shaped) : OutcomeShaped (execControlCoreTakeover s) := by
  unfold execControlCoreTakeover
  split
  · simp [h]
  · split
    · simp [h]
    · split
      · simp [h]
      · extract_lets +onlyGivenNames q s1
        extract_lets +onlyGivenNames s11
        have hs11 : s11.Shaped := by
          dsimp -zeta only [s11]
          split
          · exact h
          · split
            · rename_i t _ e
              have ht : t.Shaped := (shaped_readEntry (by simp [h]) ..).bytes e
              simp [h, ht]
            · exact h
        simp [hs11]

/-! #### What Machine/Place keeps shaped -/

theorem start_thr_shaped {n : Nat} (hn : n ≤ 32) (pc : DWord) (rows seed : Nat) : (Thr.start n pc rows seed).Shaped :=
  ⟨rfl, rfl, rfl, by simpa [Thr.start] using hn⟩

theorem startThrs_shaped (i : NodeInfo) (seed : Nat) : ThrsShaped (i.startThrs seed) := by
  intro p hp
  simp only [NodeInfo.startThrs, List.mem_append] at hp
  obtain (hp | hp) | hp := hp
  · split at hp
    · cases hp
    · obtain ⟨w, _, rfl⟩ := List.mem_map.1 hp
      exact start_thr_shaped (by decide) ..
  · split at hp
    · cases hp
    · rw [List.mem_singleton.1 hp]
      exact start_thr_shaped (by decide) ..
  · split at hp
    · cases hp
    · rw [List.mem_singleton.1 hp]
      exact start_thr_shaped (by decide) ..

theorem start_blk_shaped (adm : Nat) (i : NodeInfo) (seed tick : Nat) (tiles : List Nat) (banks : List (Nat × Nat)) (scaleCol : Nat)
    (acc : Option Nat) : (Blk.start adm i seed tick tiles banks scaleCol acc).Shaped := ⟨rfl, startThrs_shaped i seed⟩

@[simp] theorem shaped_notePlace (h : s.Shaped) (n : ArmNode) (cluster : Nat) : (s.notePlace n cluster).Shaped := by
  unfold State.notePlace; simp [h]

@[simp] theorem shaped_switchBanks (h : s.Shaped) (cluster : Nat) (l : List Nat) : (s.switchBanks cluster l).Shaped := by
  unfold State.switchBanks
  apply shaped_foldl
  · intro t a ht
    apply shaped_modBank
    simp [ht]
  · exact h

@[simp] theorem shaped_putBlocks (h : s.Shaped) (n : ArmNode) (sp : Spot) : (s.putBlocks n sp).Shaped := by
  unfold State.putBlocks
  apply shaped_foldl
  · intro t r ht
    extract_lets +onlyGivenNames core b
    have hb : b.Shaped := start_blk_shaped ..
    exact shaped_setBlk ht _ _ (b := { b with stat := if n.kind = 2 then .resident else .admitted }) hb
  · exact h

@[simp] theorem shaped_placeGang (h : s.Shaped) (n : ArmNode) (sp : Spot) : (s.placeGang n sp).Shaped := by
  unfold State.placeGang
  extract_lets +onlyGivenNames members gang mask arg s1 m out s2
  have hs1 : s1.Shaped := by
    dsimp -zeta only [s1]
    apply shaped_notePlace
    simp [h]
  simp [hs1]

@[simp] theorem shaped_placeColl (h : s.Shaped) (n : ArmNode) (engine : Nat) : (s.placeColl n engine).Shaped := by
  unfold State.placeColl; simp [h]

@[simp] theorem shaped_adopt (h : s.Shaped) (p : Nat × DWord × DWord × DWord) : (s.adopt p).Shaped := by
  unfold State.adopt
  dsimp -zeta only
  extract_lets +onlyGivenNames roots
  split
  · exact h
  · extract_lets +onlyGivenNames h1
    split
    · rename_i t _ e
      have ht : t.Shaped := (shaped_readNodes h ..).fails e
      exact ht
    · rename_i t _ e
      have ht : t.Shaped := (shaped_readNodes h ..).waits e
      exact ht
    · rename_i t _ e
      have ht : t.Shaped := (shaped_readNodes h ..).nodes e
      extract_lets +onlyGivenNames bodies armed t1
      extract_lets +onlyGivenNames t11
      extract_lets +onlyGivenNames t12
      extract_lets +onlyGivenNames t13
      have ht13 : t13.Shaped := by simp [t13, ht]
      apply shaped_foldl
      · simp
      · exact ht13

@[simp] theorem shaped_dispatch (h : s.Shaped) {α : Type} (kind : Nat) (d : Dispatcher) (keep : Dispatcher → Stoker → Stoker)
    (spot : ArmNode → Option α) (forced : ArmNode → DWord → Option (Option α)) (place : ArmNode → α → State → State)
    (hplace : ∀ y0 y1 y2, y2.Shaped → (place y0 y1 y2).Shaped) : (s.dispatch kind d keep spot forced place).Shaped := by
  unfold State.dispatch
  split
  · exact h
  · split
    · split
      · exact h
      · split
        · simp [h]
        · split
          · exact shaped_diverge h ..
          · exact h
          · apply shaped_takeUp
            · exact h
            · intro y0 y1 ht
              simp [hplace, ht]
    · split
      · exact h
      · apply shaped_takeUp
        · exact h
        · intro y0 y1 ht
          simp [hplace, ht]

@[simp] theorem shaped_execGangDispatch (h : s.Shaped) : OutcomeShaped (execGangDispatch s) := by
  unfold execGangDispatch
  extract_lets +onlyGivenNames s1
  have hs1 : s1.Shaped := by simp [s1, h]
  rw [outcomeShaped_next]
  apply shaped_dispatch
  · exact hs1
  · intro y0 y1 y2 ht
    simp [ht]

@[simp] theorem shaped_execCopyNodeDispatch (h : s.Shaped) : OutcomeShaped (execCopyNodeDispatch s) := by
  unfold execCopyNodeDispatch
  rw [outcomeShaped_next]
  apply shaped_dispatch
  · exact h
  · intro y0 y1 y2 ht
    simp [ht]

@[simp] theorem shaped_execCollNodeDispatch (h : s.Shaped) : OutcomeShaped (execCollNodeDispatch s) := by
  unfold execCollNodeDispatch
  extract_lets +onlyGivenNames engines
  rw [outcomeShaped_next]
  apply shaped_dispatch
  · exact h
  · intro y0 y1 y2 ht
    simp [ht]

/-! #### What Machine/Resident keeps shaped -/

theorem shaped_foldl_mem {α : Type} {f : State → α → State} {l : List α} (hf : ∀ t, ∀ a ∈ l, t.Shaped → (f t a).Shaped) (h : s.Shaped) :
    (l.foldl f s).Shaped := by
  induction l generalizing s with
  | nil => exact h
  | cons a l ih =>
    exact ih (fun t b hb => hf t b (List.mem_cons_of_mem _ hb)) (hf s a (List.mem_cons_self ..) h)

theorem shaped_of_mem_gangBlks (h : s.Shaped) {g : Gang} {m : Nat × Nat × Blk} (hm : m ∈ s.gangBlks g) : m.2.2.Shaped := by
  obtain ⟨p, _, hp⟩ := List.mem_filterMap.1 hm
  obtain ⟨b, hb, rfl⟩ := Option.map_eq_some_iff.1 hp
  exact h.blk hb

@[simp] theorem shaped_setGang (h : s.Shaped) (g : Gang) : (s.setGang g).Shaped := h

@[simp] theorem shaped_gangDecided (h : s.Shaped) (event : Nat) (g : Gang) (arg core : Nat) (faulted : Bool) :
    (s.gangDecided event g arg core faulted).Shaped := by
  unfold State.gangDecided; split <;> simp [h]

@[simp] theorem shaped_parkGang (h : s.Shaped) (g : Gang) : (s.parkGang g).Shaped := by
  unfold State.parkGang
  refine shaped_foldl_mem (fun t m hm ht => ?_) h
  split
  · exact shaped_setBlk ht _ _ (b := { m.2.2 with stat := .parking (if m.2.2.halted then 3 else 0) }) (shaped_of_mem_gangBlks h hm)
  · exact ht

@[simp] theorem shaped_makeRoom (h : s.Shaped) (g : Gang) : (s.makeRoom g).Shaped := by
  unfold State.makeRoom
  extract_lets +onlyGivenNames going cs
  split
  · exact h
  · split
    · exact h
    · exact shaped_foldl (fun t a ht => by simp [ht]) _ h

@[simp] theorem shaped_gangParked (h : s.Shaped) (g : Gang) : (s.gangParked g).Shaped := by
  unfold State.gangParked; simp [h]

@[simp] theorem shaped_gangsParked (h : s.Shaped) : s.gangsParked.Shaped := by
  unfold State.gangsParked
  exact shaped_foldl (fun t a ht => by simp [ht]) _ h

@[simp] theorem shaped_execBlockParkComplete (h : s.Shaped) : OutcomeShaped (execBlockParkComplete s) := by
  unfold execBlockParkComplete
  split
  · simp [h]
  · rename_i b e
    have hb := h.blk e
    split
    · extract_lets +onlyGivenNames others last faulted later
      split
      · simp [h]
      · split
        · simp [h]
        · extract_lets +onlyGivenNames s0 b0 b1 s1
          have hs0 : s0.Shaped := shaped_foldl (fun t a ht => by simp [ht]) _ h
          have hb0 : b0.Shaped := by
            dsimp -zeta only [b0]
            cases e0 : s0.blk? s.arg.a s.arg.b with
            | none => exact hb
            | some c => exact hs0.blk e0
          have hs1 : s1.Shaped := shaped_modBlk (shaped_writeImage hs0 _ _ hb0 _) _ _ fun _ _ => hb0
          simp [hs1]
    · simp [h]

@[simp] theorem shaped_renameBlk (h : s.Shaped) (adm core bctx : Nat) (old : Nat × Nat) : (s.renameBlk adm core bctx old).Shaped :=
    h

@[simp] theorem shaped_moveBlk (h : s.Shaped) (old : Nat × Nat) {b : Blk} (hb : b.Shaped) (core bctx : Nat) :
    (s.moveBlk old b core bctx).Shaped := by
  unfold State.moveBlk
  extract_lets +onlyGivenNames refs banks from' to' held moved k1 k2 s1 s2 s3 s4 at' s5
  have hs1 : s1.Shaped := shaped_setCore (h.withBlks (h.blks.ndel _)) ..
  have hs2 : s2.Shaped := by simp [s2, hs1, hb]
  have hs3 : s3.Shaped := by simp [s3, hs2]
  have hs4 : s4.Shaped := by simp [s4, hs3]
  have hs5 : s5.Shaped := by simp [s5, hs4]
  simp [hs5]

@[simp] theorem shaped_moveMember (h : s.Shaped) (g : Gang) {m : Nat × Nat × Blk} (hm : m.2.2.Shaped) : (s.moveMember g m).Shaped := by
  unfold State.moveMember
  extract_lets +onlyGivenNames able core
  clear_value core
  split
  · exact h
  · split
    · simp [h]
    · extract_lets +onlyGivenNames bctx s1
      have h1 : s1.Shaped := by simp [s1, h, hm]
      split
      · exact shaped_gangDecided h1 ..
      · exact h1

@[simp] theorem shaped_reside (h : s.Shaped) (g : Gang) : (s.reside g).Shaped := by
  unfold State.reside
  extract_lets +onlyGivenNames fresh s1 s2
  have hs1 : s1.Shaped := by
    dsimp -zeta only [s1]
    refine shaped_foldl_mem (fun t m hm ht => shaped_setBlk ht _ _ ?_) h
    have hb := shaped_of_mem_gangBlks h hm
    split <;> exact hb
  have hs2 : s2.Shaped := by simp [s2, hs1]
  simp [hs2]

@[simp] theorem shaped_nextOut (h : s.Shaped) (kept : List Nat) (l : List Gang) : (s.nextOut kept l).Shaped := by
  induction l generalizing s kept with
  | nil => exact h
  | cons g rest ih =>
    unfold State.nextOut
    extract_lets +onlyGivenNames cores
    split
    · exact ih h _
    · split
      · exact ih h _
      · exact ih (shaped_makeRoom h g) _

@[simp] theorem shaped_forcedPark (h : s.Shaped) (cluster : Nat) : (s.forcedPark cluster).Shaped := by
  unfold State.forcedPark; split <;> simp [h]

@[simp] theorem shaped_execGangMakeResident (h : s.Shaped) : OutcomeShaped (execGangMakeResident s) := by
  unfold execGangMakeResident
  extract_lets +onlyGivenNames ws moves
  have hmoves : ∀ x ∈ moves, x.2.2.2.Shaped := by
    intro x hx
    obtain ⟨l, hl, hx⟩ := List.mem_flatten.1 hx
    obtain ⟨g, _, rfl⟩ := List.mem_map.1 hl
    obtain ⟨m, hm, rfl⟩ := List.mem_map.1 hx
    exact shaped_of_mem_gangBlks h (List.mem_filter.1 hm).1
  clear_value moves
  split
  · exact h
  · split
    · exact shaped_moveMember h _ (hmoves _ (List.mem_cons_self ..))
    · split
      · exact shaped_reside h ..
      · simp [h]

@[simp] theorem shaped_resumeParty (h : s.Shaped) (core bctx w : Nat) : (s.resumeParty core bctx w).Shaped := by
  unfold State.resumeParty
  repeat' split
  all_goals simp [h]

@[simp] theorem shaped_wakeBlock (h : s.Shaped) (b : Blk) : (s.wakeBlock b).Shaped := by
  unfold State.wakeBlock
  exact shaped_foldl (fun t a ht => by simp [ht]) _ h

@[simp] theorem shaped_resume (h : s.Shaped) (core bctx : Nat) {b : Blk} (hb : b.Shaped) : (s.resume core bctx b).Shaped := by
  unfold State.resume
  extract_lets +onlyGivenNames b1 s1 s2
  have hb1 : b1.Shaped := by
    dsimp -zeta only [b1]
    split
    · exact ⟨hb.bars, hb.thrs.map fun p ht => (restored_shaped ..).2 ht⟩
    · exact hb
  have hs1 : s1.Shaped := shaped_wakeBlock (shaped_setBlk h _ _ hb1) b
  have hs2 : s2.Shaped := shaped_foldl (fun t p ht => shaped_wakePhaser ht ..) _ hs1
  split
  · exact hs2
  · exact shaped_foldl (fun t a ht => by simp [ht]) _ hs2

@[simp] theorem shaped_execBlockRestore (h : s.Shaped) : OutcomeShaped (execBlockRestore s) := by
  unfold execBlockRestore
  split
  · simp [h]
  · rename_i b e
    have hb := h.blk e
    dsimp -zeta only
    split
    · simp [h, hb]
    · split
      · simp [h]
      · split
        · simp [h]
        · extract_lets +onlyGivenNames b1
          exact shaped_bump (shaped_resume (shaped_imgScaleIn h ..) _ _ (imgBlk_shaped hb ..))

@[simp] theorem shaped_countTick (h : s.Shaped) : s.countTick.Shaped := by
  unfold State.countTick
  split
  · exact h
  · refine ⟨h.ports, h.dev, h.blks.map fun p => ⟨rfl, fun hb => ?_⟩⟩
    unfold State.watchTick
    simp [hb]

/-! #### What Machine/Debug keeps shaped -/

@[simp] theorem shaped_imemError (h : s.Shaped) (core bctx w : Nat) : (s.imemError core bctx w).Shaped := by
  unfold State.imemError
  split
  · exact h
  · rename_i b e
    have hb := h.blk e
    split
    · exact h
    · rename_i t et
      have ht := hb.thr et
      split
      · exact h
      · extract_lets +onlyGivenNames l
        split
        · exact h
        · exact shaped_service (by simp [h]) _ hb ht ..

@[simp] theorem shaped_eccPool (h : s.Shaped) (core bctx w row : Nat) : (s.eccPool core bctx w row).Shaped := by
  unfold State.eccPool
  split
  · exact h
  · split
    · exact h
    · rename_i b e
      have hb := h.blk e
      split
      · exact h
      · rename_i t et
        split
        · exact h
        · extract_lets +onlyGivenNames t1 b1
          have ht1 : t1.Shaped := (putRow_shaped ..).2 (hb.thr et)
          have hb1 : b1.Shaped := hb.setThr w ht1
          exact shaped_service (shaped_bump (by simp [h, hb1])) _ hb1 ht1 ..

@[simp] theorem shaped_execClauseIssue (h : s.Shaped) : OutcomeShaped (execClauseIssue s) := by
  unfold execClauseIssue
  dsimp -zeta only
  extract_lets +onlyGivenNames able
  repeat' split
  all_goals simp [h]

@[simp] theorem shaped_execAsyncTrapDeliver (h : s.Shaped) : OutcomeShaped (execAsyncTrapDeliver s) := by
  unfold execAsyncTrapDeliver
  dsimp -zeta only
  split <;> simp [h]

@[simp] theorem shaped_flushTrace (h : s.Shaped) (source : Nat) : (s.flushTrace source).Shaped := by
  unfold State.flushTrace
  split
  · exact h
  · exact shaped_foldl (fun t a ht => by simp [ht]) _ h

@[simp] theorem shaped_flushTraces (h : s.Shaped) : s.flushTraces.Shaped := by
  unfold State.flushTraces
  exact shaped_foldl (fun t a ht => by simp [ht]) _ h

@[simp] theorem shaped_series (h : s.Shaped) (island : Nat) : (s.series island).Shaped := by
  unfold State.series; simp [h]

@[simp] theorem shaped_execTraceSeriesLatch (h : s.Shaped) : OutcomeShaped (execTraceSeriesLatch s) := by
  unfold execTraceSeriesLatch
  split
  · simp [h]
  · extract_lets +onlyGivenNames s1
    have hs1 : s1.Shaped := shaped_foldl (fun t a ht => by simp [ht]) _ h
    simp [hs1]

@[simp] theorem shaped_sample (h : s.Shaped) (core bctx : Nat) (b : Blk) : (s.sample core bctx b).Shaped := by
  unfold State.sample
  split
  · exact h
  · extract_lets +onlyGivenNames t
    split <;> simp [h]

@[simp] theorem shaped_execCriticalPathSample (h : s.Shaped) : OutcomeShaped (execCriticalPathSample s) := by
  unfold execCriticalPathSample
  split
  · simp [h]
  · extract_lets +onlyGivenNames s1
    have hs1 : s1.Shaped := shaped_foldl (fun t a ht => by simp [ht]) _ h
    simp [hs1]

@[simp] theorem shaped_deliverLogged (h : s.Shaped) (port : Nat) (e : DWord) : (s.deliverLogged port e).Shaped := by
  unfold State.deliverLogged
  extract_lets +onlyGivenNames agent
  split
  · exact shaped_diverge h ..
  · split
    · exact h
    · extract_lets +onlyGivenNames m
      repeat' split
      all_goals simp [h]

@[simp] theorem shaped_execReplayMessageTimeout (h : s.Shaped) : OutcomeShaped (execReplayMessageTimeout s) := by
  unfold execReplayMessageTimeout
  extract_lets +onlyGivenNames agent
  split <;> simp [h]

@[simp] theorem shaped_execReplayPayloadDelivery (h : s.Shaped) : OutcomeShaped (execReplayPayloadDelivery s) := by
  unfold execReplayPayloadDelivery
  extract_lets +onlyGivenNames agent
  repeat' split
  all_goals simp [h]

/-! #### What Machine/LaneFloat keeps shaped -/

@[simp] theorem put32_shaped (w : LaneW) (t : Thr) (m : Word) (v : Nat → Nat) : (put32 w t m v).Shaped ↔ t.Shaped := putRow_shaped ..

@[simp] theorem put64_shaped (w : LaneW) (t : Thr) (m : Word) (v : Nat → Nat) : (put64 w t m v).Shaped ↔ t.Shaped := putPair_shaped ..

@[simp] theorem shaped_retireFp (h : s.Shaped) (c : Cur) (bad : Word) (flags : BitVec 5) : (s.retireFp c bad flags).Shaped := by
  unfold State.retireFp
  split
  · simp [h]
  · extract_lets +onlyGivenNames s1
    have hs1 : s1.Shaped := by simp [s1, h]
    repeat' split
    all_goals simp [hs1]

@[simp] theorem shaped_laneFp (h : s.Shaped) (i : Instr) (w : LaneW) (r : Cur → Blk → Thr → Nat → FRes)
    (put : Thr → Word → (Nat → Nat) → Thr)
    (hput : ∀ t m v, t.Shaped → (put t m v).Shaped) : OutcomeShaped (laneFp i w s r put) := by
  unfold laneFp
  apply shaped_laneWordOp
  · exact h
  · intro c b t m hb ht
    extract_lets +onlyGivenNames res bad ok s1 t1
    have hs1 : s1.Shaped := by simp [s1, h]
    have ht1 : t1.Shaped := hput _ _ _ ht
    exact shaped_retireFp (shaped_modThr hs1 _ _ _ fun _ _ => ht1) ..

@[simp] theorem shaped_lane2f (h : s.Shaped) (i : Instr) (w : LaneW) (f : Dir → Nat → Nat → FRes) : OutcomeShaped (lane2f i w s f) := by
  unfold lane2f; simp [h]

@[simp] theorem shaped_lane2d (h : s.Shaped) (i : Instr) (w : LaneW) (f : Dir → Nat → Nat → FRes) : OutcomeShaped (lane2d i w s f) := by
  unfold lane2d; simp [h]

@[simp] theorem shaped_execFfma3 (h : s.Shaped) (w : LaneW) (x : SrcX) : OutcomeShaped (execFfma3 w x s) := by
  unfold execFfma3; simp [h]

@[simp] theorem shaped_laneSign (h : s.Shaped) (i : Instr) (w : LaneW) (f32 : Word → Word → Word) (f64 : DWord → DWord → DWord) :
    OutcomeShaped
    (laneSign i w s f32 f64) := by
  unfold laneSign; simp [h]

@[simp] theorem shaped_laneFcmp (h : s.Shaped) (i : Instr) (w : LaneW) (f : Fmt) (a b : LaneW → Thr → Blk → Nat → Nat) : OutcomeShaped
    (laneFcmp i w s f a b) := by
  unfold laneFcmp; simp [h]

@[simp] theorem shaped_laneToInt (h : s.Shaped) (i : Instr) (w : LaneW) (signed : Bool) : OutcomeShaped (laneToInt i w s signed) := by
  unfold laneToInt
  exact shaped_laneFp h _ _ _ _ fun t m v ht => by split <;> simp [ht]

@[simp] theorem shaped_laneFromInt (h : s.Shaped) (i : Instr) (w : LaneW) (signed : Bool) : OutcomeShaped (laneFromInt i w s signed) := by
  unfold laneFromInt
  exact shaped_laneFp h _ _ _ _ fun t m v ht => by split <;> simp [ht]

@[simp] theorem shaped_execCvtff (h : s.Shaped) (w : LaneW) (x : SrcX) : OutcomeShaped (execCvtff w x s) := by
  unfold execCvtff; simp [h]

@[simp] theorem shaped_execPack8 (h : s.Shaped) (w : LaneW) (x : SrcX) : OutcomeShaped (execPack8 w x s) := by
  unfold execPack8; simp [h]

@[simp] theorem shaped_execUnpack8 (h : s.Shaped) (w : LaneW) (x : SrcX) : OutcomeShaped (execUnpack8 w x s) := by
  unfold execUnpack8; simp [h]

@[simp] theorem shaped_lane2h (h : s.Shaped) (i : Instr) (w : LaneW) (f : Dir → Nat → Nat → FRes) : OutcomeShaped (lane2h i w s f) := by
  unfold lane2h; simp [h]

@[simp] theorem shaped_lane3h (h : s.Shaped) (i : Instr) (w : LaneW) (f : Fmt) : OutcomeShaped (lane3h i w s f) := by
  unfold lane3h; simp [h]

/-! #### What Machine/LaneInt keeps shaped -/

@[simp] theorem shaped_execFshl (h : s.Shaped) (w : LaneW) (x : SrcX) : OutcomeShaped (execFshl w x s) := by
  unfold execFshl; simp [h]

@[simp] theorem shaped_laneCmp (h : s.Shaped) (i : Instr) (w : LaneW) (val32 : Word → ℤ) (val64 : DWord → ℤ) : OutcomeShaped
    (laneCmp i w s val32 val64) := by
  unfold laneCmp; simp [h]

/-! #### What Machine/Sfu keeps shaped -/

@[simp] theorem shaped_sendSfu (h : s.Shaped) (c : Cur) (b : Blk) (vd : Nat) (ok : Word) (v : Nat → Nat) (bank : Option Nat) :
    (s.sendSfu c b vd ok v bank).Shaped := by
  unfold State.sendSfu; simp [h]

@[simp] theorem shaped_laneSfu (h : s.Shaped) (i : Instr) (w : LaneW) (fn : SfuFn) : OutcomeShaped (laneSfu i w s fn) := by
  unfold laneSfu
  apply shaped_laneWordOp
  · exact h
  · intro c b t m hb ht
    extract_lets +onlyGivenNames res bad ok s1 s2
    have hs1 : s1.Shaped := by simp [s1, h]
    have hs2 : s2.Shaped := by simp [s2, hs1]
    simp [hs2]

@[simp] theorem shaped_execTbleval (h : s.Shaped) (w : LaneW) : OutcomeShaped (execTbleval w s) := by
  unfold execTbleval
  apply shaped_laneWordOp
  · exact h
  · intro c b t m hb ht
    extract_lets +onlyGivenNames k issuer
    split
    · simp [h]
    · split
      · exact h
      · split
        · simp [h]
        · split
          · simp [h]
          · extract_lets +onlyGivenNames res bad ok s1 s2 s3
            have hs1 : s1.Shaped := by simp [s1, h]
            have hs2 : s2.Shaped := by simp [s2, hs1]
            have hs3 : s3.Shaped := by simp [s3, hs2]
            simp [hs3]

@[simp] theorem shaped_execSpecialFunctionResult (h : s.Shaped) : OutcomeShaped (execSpecialFunctionResult s) := by
  unfold execSpecialFunctionResult
  rw [outcomeShaped_next]
  split
  · exact h
  · extract_lets +onlyGivenNames s1 s2
    have hs1 : s1.Shaped := by simp [s1, h]
    extract_lets +onlyGivenNames s21
    have hs21 : s21.Shaped := by
      dsimp -zeta only [s21]
      split <;> simp [hs1]
    split <;> simp [hs21]

/-! #### What Machine/Table keeps shaped -/

@[simp] theorem shaped_execTblload (h : s.Shaped) (w : LaneW) : OutcomeShaped (execTblload w s) := by
  unfold execTblload
  apply shaped_laneWordOp
  · exact h
  · intro c b t m hb ht
    extract_lets +onlyGivenNames priv va k
    split
    · simp [h]
    · dsimp -zeta only
      extract_lets +onlyGivenNames bad
      split
      · simp [h]
      · dsimp -zeta only [bad]
        simp [h]
      · dsimp -zeta only [bad]
        simp [h]
      · extract_lets +onlyGivenNames rs
        split
        · exact h
        · split
          · simp [h]
          · extract_lets +onlyGivenNames gen fill s1
            have hs1 : s1.Shaped := shaped_foldl (fun t a ht => by simp [ht]) _ h
            apply shaped_retire
            apply shaped_addReqs
            simp [hs1]

@[simp] theorem shaped_execTblloadFillComplete (h : s.Shaped) : OutcomeShaped (execTblloadFillComplete s) := by
  unfold execTblloadFillComplete
  extract_lets +onlyGivenNames core k freed
  repeat' split
  all_goals simp [h]

/-! #### What Machine/Dispatch keeps shaped -/

theorem shaped_execYield (h : s.Shaped) (z : BitVec 26) : OutcomeShaped (execYield z s) := by
  unfold execYield
  refine shaped_ctlWordOp h _ _ _ fun c b t _ _ => ?_
  exact shaped_modBlk (shaped_retireBlocked h ..) _ _ fun _ hb => hb

theorem shaped_execMovpToPredicates (h : s.Shaped) (w : LaneW) : OutcomeShaped (execMovpToPredicates w s) := by
  unfold execMovpToPredicates
  refine shaped_laneAlu h _ _ _ fun c b t m ht => (thr_shaped_foldl (fun u p => ?_) _ _).2 ht
  split
  · exact putPred_shaped ..
  · rfl

@[simp] theorem shaped_exec (h : s.Shaped) (i : Instr) : OutcomeShaped (exec i s) := by
  cases i
  case mma | mmai | mstore | mload =>
    simp [exec, h, execMma, execMmai, execMstore, execMload]
  case nop | rep | smov | sadd | ssub | smul | sand | sor | sxor | sshl | sshr | ssar | smin | smax | sld | sst =>
    simp [exec, h, execNop, execRep, execSmov, execSadd, execSsub, execSmul, execSand, execSor, execSxor, execSshl, execSshr,
      execSsar, execSmin, execSmax, execSld, execSst]
  case bra | sbr | brx | ret | setmrLabel | setmrRegister | loopbrk | trap | bkpt =>
    simp [exec, h, execBra, execSbr, execBrx, execRet, execSetmrLabel, execSetmrRegister, execLoopbrk, execTrap, execBkpt]
  case yield => exact shaped_execYield h _
  case movpToPredicates => exact shaped_execMovpToPredicates h _
  case fadd | fsub | fmul | ffma | fldexp | fmin | fmax | fminnum | fmaxnum | fabs | fneg | fcmp | dcmp | fclass | frnd | fgetexp
      | cvtfi | cvtfu | cvtif | cvtuf | cvtdf | cvtfd | hadd2 | hmul2 | hfma2 | badd2 | bmul2 | bfma2 | dadd | dmul | dfma | dmin
      | dmax =>
    simp [exec, h, execFadd, execFsub, execFmul, execFfma, execFldexp, execFmin, execFmax, execFminnum, execFmaxnum, execFabs,
      execFneg, execFcmp, execDcmp, execFclass, execFrnd, execFgetexp, execCvtfi, execCvtfu, execCvtif, execCvtuf, execCvtdf,
      execCvtfd, execHadd2, execHmul2, execHfma2, execBadd2, execBmul2, execBfma2, execDadd, execDmul, execDfma, execDmin,
      execDmax]
  case iadd | isub | iadds | isubs | iaddus | isubus | imul | imulh | imulhu | imin | imax | iminu | imaxu | and | or | xor | andn
      | orn | shl | shr | sar | rotl | clmul | clmulh | mov | ineg | iabs | popc | clz | ctz | brev | imad | idot4 | idot4u |
      permb | iadd64 | isub64 | imadw | lea | bfe | bfeu | bfi | sxt | zxt | icmp | icmpu | plog | sel | movpToRegister =>
    simp [exec, h, execIadd, execIsub, execIadds, execIsubs, execIaddus, execIsubus, execImul, execImulh, execImulhu, execImin,
      execImax, execIminu, execImaxu, execAnd, execOr, execXor, execAndn, execOrn, execShl, execShr, execSar, execRotl, execClmul,
      execClmulh, execMov, execIneg, execIabs, execPopc, execClz, execCtz, execBrev, execImad, execIdot4, execIdot4u, execPermb,
      execIadd64, execIsub64, execImadw, execLea, execBfe, execBfeu, execBfi, execSxt, execZxt, execIcmp, execIcmpu, execPlog,
      execSel, execMovpToRegister]
  case frcp | frsq | fsqrt | fexp2 | flog2 | fsinpi | fcospi | ftanh =>
    simp [exec, h, execFrcp, execFrsq, execFsqrt, execFexp2, execFlog2, execFsinpi, execFcospi, execFtanh]
  all_goals simp [exec, h]

/-! #### What Machine/Engine keeps shaped -/

@[simp] theorem shaped_openCycle (h : s.Shaped) (pre : State) (c : Cur) (i : Instr) : (s.openCycle pre c i).Shaped := by
  unfold State.openCycle; split <;> simp [h]

@[simp] theorem shaped_streamsGone (h : s.Shaped) : s.streamsGone.Shaped := by
  unfold State.streamsGone
  apply shaped_foldl
  · intro t a ht
    apply shaped_foldl
    · intro t1 a1 ht1
      simp [ht1]
    · exact ht
  · exact h

@[simp] theorem shaped_markReady (h : s.Shaped) : s.markReady.Shaped := by
  unfold State.markReady
  refine h.withBlks (h.blks.map fun p => ?_)
  split
  · exact ⟨rfl, id⟩
  · rename_i t et
    extract_lets +onlyGivenNames core bctx can
    refine ⟨rfl, fun hb => hb.setThr 32 ?_⟩
    have ht : t.Shaped := hb.thr et
    exact ht

@[simp] theorem shaped_passTick (h : s.Shaped) : s.passTick.Shaped := by
  unfold State.passTick
  apply shaped_markReady
  apply shaped_replayTick
  apply shaped_markStuck
  apply shaped_countTick
  apply shaped_gangsParked
  simp [h]

/-! #### What Machine/Step keeps shaped -/

@[simp] theorem shaped_afterWord {r : Host.Outcome State Fault Refusal} (hr : OutcomeShaped r) (c : Cur) (pre : Thr) : OutcomeShaped
    (afterWord c pre r) := by
  cases r with
  | next s =>
    have hs : s.Shaped := outcomeShaped_next.1 hr
    have hn := shaped_noteStep hs c.core c.bctx c.w pre (some c)
    dsimp only [afterWord]
    split
    · exact shaped_modThr hn _ _ _ fun t ht => ht
    · exact hn
  | fault f => exact outcomeShaped_fault f
  | refused f => exact outcomeShaped_refused f

@[simp] theorem shaped_issueLatched (h : s.Shaped) (c : Cur) (d : Except Reject (Instr × Nat)) (pre : Thr) : OutcomeShaped
    (issueLatched c d pre s) := by
  unfold issueLatched
  repeat' split
  all_goals simp [h]

@[simp] theorem shaped_settled {pre : State} (hpre : pre.Shaped) {r : Host.Outcome State Fault Refusal} (hr : OutcomeShaped r) :
    OutcomeShaped
    (settled pre r) := by
  cases r with
  | next s => exact outcomeShaped_next.2 (shaped_settle hpre (outcomeShaped_next.1 hr))
  | fault f => exact outcomeShaped_fault f
  | refused f => exact outcomeShaped_refused f

@[simp] theorem shaped_turnNoted {held live : Host.Outcome State Fault Refusal} (hr : OutcomeShaped held) (c : Cur) (pre : Thr) :
    OutcomeShaped
    (turnNoted c pre held live) := by
  unfold turnNoted
  split
  · exact outcomeShaped_next.2 (shaped_noteTurn (outcomeShaped_next.1 hr) ..)
  · exact hr

@[simp] theorem shaped_stepParty (h : s.Shaped) (core bctx w : Nat) : OutcomeShaped (stepParty s core bctx w) := by
  unfold stepParty
  split
  · exact h
  · split
    · rename_i s1 he
      have h1 : s1.Shaped := shaped_of_eq (shaped_enter h ..) he
      exact shaped_settled h (outcomeShaped_next.2 (shaped_noteStep h1 ..))
    · rename_i s1 he
      have h1 : s1.Shaped := shaped_of_eq (shaped_enter h ..) he
      split
      · exact h1
      · rename_i pre _ c d _
        extract_lets +onlyGivenNames r
        have hr : OutcomeShaped r := shaped_settled h1 (shaped_issueLatched h1 ..)
        split
        · exact shaped_turnNoted hr ..
        · clear_value r
          split
          · exact shaped_openCycle hr ..
          · exact hr

@[simp] theorem merge_shaped (k : Cycle) (b u : Blk) (w : Nat) (r : UniReg) : (k.merge b u w r).Shaped ↔ u.Shaped := by
  unfold Cycle.merge
  extract_lets +onlyGivenNames v
  have hv : v.Shaped ↔ u.Shaped := Iff.rfl
  split
  · exact hv
  · split
    · exact (putS_shaped ..).trans hv
    · exact (putQ_shaped ..).trans hv

theorem shaped_stepPartner (h : s.Shaped) (k : Cycle) (w : Nat) {r : Host.Outcome State Fault Refusal}
    (hr : stepPartner s k w = some r) : OutcomeShaped r := by
  unfold stepPartner at hr
  split at hr
  · rename_i pre s1 _ he
    have h1 : s1.Shaped := shaped_of_eq (shaped_enter h ..) he
    split at hr
    · rename_i c i n b _ eb
      split at hr
      · cases hr
      · split at hr
        · rename_i u hu
          have hb : b.Shaped := h1.blk eb
          have h2 : u.Shaped := (shaped_issueLatched (shaped_setBlk h1 _ _ (b := { b with s := k.s, q := k.q }) hb) ..).next hu
          cases hr
          apply outcomeShaped_next.2
          split
          · exact shaped_modBlk h2 _ _ fun _ hb => (merge_shaped ..).2 hb
          · exact shaped_modBlk h2 _ _ fun _ hb => hb
        · cases hr
    · cases hr
  · cases hr

@[simp] theorem shaped_step (h : s.Shaped) : OutcomeShaped (step s) := by
  unfold step
  split
  · exact shaped_exec h _
  · extract_lets +onlyGivenNames s1 s2
    have h2 : s2.Shaped := shaped_passTick h
    clear_value s2
    clear s1
    split
    · exact shaped_settled (by exact h2) (shaped_exec (by exact h2) _)
    · split
      · rename_i r hr
        obtain ⟨p, -, hp⟩ := Option.bind_eq_some_iff.1 hr
        exact shaped_stepPartner h2 _ _ hp
      · split
        · exact shaped_stepParty h2 ..
        · extract_lets +onlyGivenNames s3
          have h3 : s3.Shaped := h2
          split
          · exact shaped_settled (by exact h3) (shaped_exec (by exact h3) _)
          · split
            · exact shaped_stepParty h3 ..
            · exact h3

end

/-- Settles O39: reset has the shapes, and each function of a step keeps them, since it changes ports, barriers and a party's state in place
and lists a block only by its key. -/
theorem stepKeepsShapes : Obligations.StepKeepsShapes :=
  ⟨(shaped_iff_rules _).1 shaped_reset,
    fun _ _ h e => (shaped_iff_rules _).1 ((shaped_step ((shaped_iff_rules _).2 h)).next e)⟩

end Sys2Proof.Machine
end

section
/-! The state after a cold reset (O32). -/

namespace Sys2Proof.Machine

/-- Settles O32: no context, slot or block is listed after a cold reset, and each register is read from fields at their reset values. -/
theorem resetState : Obligations.ResetState := by
  unfold Obligations.ResetState
  refine ⟨rfl, rfl, rfl, rfl, rfl, fun _ => rfl, fun _ => rfl, rfl, rfl, ?bar0, ?nuntaok⟩
  case bar0 => decide
  case nuntaok => decide

end Sys2Proof.Machine
end

section
/-! What resets leave (O19). -/

namespace Sys2Proof.Machine

/-! ### What a reset of the device keeps of memory -/

theorem nget_filter_keys {α : Type} (p : Nat → Bool) {k : Nat} (hk : p k = true) (m : NMap α) :
    nget (m.filter fun c => p c.1) k = nget m k :=
  nget_filter_of_pos (fun c => p c.1) k (fun _ => hk) m

/-- A capacity byte survives the loss of HBM, whatever HBM then reads as. -/
theorem readByte_capOnly (m : Memory) (lost : Option Nat) {a : Nat} (h : isCapacity a = true) :
    readByte (m.capOnly lost) a = readByte m a := by
  simp only [readByte, ngetD, Memory.capOnly, unlisted_capacity h, nget_filter_keys isCapacity h]

/-! ### What a warm reset does first -/

/-- A host line given up changes the outbox and what is known of host lines, no byte of memory. -/
theorem hostGone_eq (s : State) (link line : Nat) (dirty : Bool) :
    ∃ o m, m.bytes = s.mem.bytes ∧ s.hostGone link line dirty = { s with outbox := o, mem := m } := by
  unfold State.hostGone
  dsimp only
  split
  · refine ⟨_, _, ?_, rfl⟩
    rfl
  · refine ⟨_, _, ?_, rfl⟩
    rfl

theorem writeBackHost_eq (s : State) (which : Nat → Nat → Bool) :
    ∃ o m, m.bytes = s.mem.bytes ∧ s.writeBackHost which = { s with outbox := o, mem := m } := by
  unfold State.writeBackHost
  generalize s.mem.hostDirty = l
  induction l generalizing s with
  | nil => exact ⟨_, _, rfl, rfl⟩
  | cons p l ih =>
    rw [List.foldl_cons]
    split
    · exact ih s
    · obtain ⟨o, m, hm, e⟩ := hostGone_eq s (p.1 % 2) (p.1 / 2) (s.heldDirty (hostKey (p.1 % 2) (p.1 / 2)))
      obtain ⟨o', m', hm', e'⟩ := ih { s with outbox := o, mem := m }
      rw [e, e']
      exact ⟨o', m', hm'.trans hm, rfl⟩

/-- Two states with the same tick and the same device registers. -/
def SameDevice (s u : State) : Prop := u.tick = s.tick ∧ u.dev = s.dev

namespace SameDevice
theorem refl (s : State) : SameDevice s s := ⟨rfl, rfl⟩
theorem trans {s u v : State} (h : SameDevice s u) (g : SameDevice u v) : SameDevice s v := ⟨g.1.trans h.1, g.2.trans h.2⟩
theorem foldl {α : Type} {f : State → α → State} (h : ∀ s a, SameDevice s (f s a)) :
    ∀ (l : List α) (s : State), SameDevice s (l.foldl f s)
  | [], s => refl s
  | a :: l, s => (h s a).trans (foldl h l (f s a))
end SameDevice

theorem undefinePage_sameDevice (s : State) (pa : Nat) : SameDevice s (s.undefinePage pa) := by
  unfold State.undefinePage
  split
  · split
    · exact .refl s
    · rw [(poke_journalOnly ..).same]
      exact ⟨rfl, rfl⟩
  · exact .refl s

theorem undefineContext_sameDevice (s : State) (c : Nat) : SameDevice s (s.undefineContext c) := by
  unfold State.undefineContext
  exact (SameDevice.foldl undefinePage_sameDevice _ s).trans ⟨bump_tick _, bump_dev _⟩

/-- What a map reads of a field that a change of every entry fixes, and that is fixed where nothing is listed. -/
theorem ngetD_map {α : Type} {m : NMap α} {f : α → α} {P : α → Prop} (hf : ∀ x, P (f x)) {d : α} (hd : P d) (k : Nat) :
    P (ngetD (m.map fun p => (p.1, f p.2)) k d) := by
  unfold ngetD
  induction m with
  | nil => exact hd
  | cons p m ih =>
    simp only [List.map_cons, nget]
    split
    · exact hf _
    · exact ih

/-! ### Warm resets -/

/-- Everything in flight is gone, and contexts, slots and the recorder are off. -/
theorem warm_idle (s : State) : s.warm.blks = [] ∧ s.warm.reqs = [] ∧ s.warm.cmds = [] ∧ s.warm.mcmds = [] ∧ s.warm.rels = [] ∧
    s.warm.colls = [] ∧ s.warm.host.cmds = [] ∧ s.warm.recd.mode = 0 ∧ s.warm.xl.tlb = [] :=
  ⟨rfl, rfl, rfl, rfl, rfl, rfl, rfl, rfl, rfl⟩

theorem warm_ctx_en (s : State) (c : Nat) : (s.warm.ctx c).en = false := 
  ngetD_map (f := fun x : Ctx => { x with en := false, invalBusy := false, killing := false }) (P := fun x => x.en = false)
    (fun _ => rfl) rfl c

theorem warm_slot_en (s : State) (k : Nat) : (s.warm.slot k).en = false := 
  ngetD_map (f := fun x : QSlot => { x with en := false, kick := false, waitSeq := false, loaded := none }) (P := fun x => x.en = false)
    (fun _ => rfl) rfl k

theorem warm_keeps (s : State) : s.warm.tick = s.tick ∧ s.warm.dev.fw = if s.arg.flag2 then none else s.dev.fw := by
  obtain ⟨o, m, -, e⟩ := writeBackHost_eq s fun _ _ => true
  unfold State.warm
  rw [e]
  extract_lets t u
  obtain ⟨htick, hdev⟩ : SameDevice t u := .foldl undefineContext_sameDevice _ t
  exact ⟨htick, congrArg (fun d : Dev => if s.arg.flag2 then none else d.fw) hdev⟩

/-- Where no command was incomplete, memory keeps its bytes. -/
theorem warm_bytes {s : State} (h : s.host.cmds = []) : s.warm.mem.bytes = s.mem.bytes := by
  obtain ⟨o, m, hm, e⟩ := writeBackHost_eq s fun _ _ => true
  unfold State.warm
  rw [e]
  simp only [h]
  exact hm

theorem exec_warm {s : State} {op : Instr} (h : op = .resetctlWarm ∨ op = .managementWarmReset) : exec op s = .next s.warm := by
  obtain rfl | rfl := h
  · rfl
  · rfl

/-- Settles O19: each reset builds its state from the one after a cold reset; a warm one first writes host lines back and undefines what
incomplete commands could write, which changes neither the tick nor the device's registers. -/
theorem resetsApply : Obligations.ResetsApply := by
  unfold Obligations.ResetsApply
  intro s idle
  refine ⟨fun op hop => ?_, ⟨s.wiped, rfl, fun a ha => readByte_capOnly _ none ha⟩, ⟨s.fatal, rfl, ?_, rfl, rfl, rfl⟩, fun op hop => ?_⟩
  · obtain rfl | rfl := hop
    · exact ⟨_, rfl, ⟨rfl, rfl, rfl, rfl, rfl, rfl, rfl, rfl, rfl⟩, rfl, rfl, rfl, rfl, rfl⟩
    · exact ⟨_, rfl, ⟨rfl, rfl, rfl, rfl, rfl, rfl, rfl, rfl, rfl⟩, rfl, rfl, rfl, rfl, rfl⟩
  · exact ⟨rfl, rfl, rfl, rfl, rfl, rfl, rfl, rfl, rfl⟩
  · obtain ⟨htick, hfw⟩ := warm_keeps s
    exact ⟨s.warm, exec_warm hop, warm_idle s, rfl, htick, hfw, warm_ctx_en s, warm_slot_en s, fun h a => by rw [warm_bytes h]⟩

end Sys2Proof.Machine
end

section
/-! Bring-up, firmware delivery and power events (O20). -/

namespace Sys2Proof.Machine

/-! ### What the admission of requests writes -/

/-- Whether a port is in service, with its event bit. -/
def VPort.service (p : VPort) : BitVec 2 × Bool := (p.st, p.downEv)

/-- Two states that agree but for the recorder, the blocks' own service bits, requests, banks, what was sent, and what links keep of it; no
port's state changes. -/
structure AdmitOnly (s u : State) : Prop where
  same : u = { s with
    recd := u.recd, blks := u.blks, reqs := u.reqs, clusters := u.clusters, outbox := u.outbox, links := u.links }
  ports : u.links.ports.map VPort.service = s.links.ports.map VPort.service

namespace AdmitOnly
variable {s u : State}

theorem refl (s : State) : AdmitOnly s s := ⟨rfl, rfl⟩

theorem trans {v : State} (h : AdmitOnly s u) (g : AdmitOnly u v) : AdmitOnly s v := by
  refine ⟨?_, g.ports.trans h.ports⟩
  rw [g.same, h.same]

theorem foldl {α : Type} {f : State → α → State} (h : ∀ s a, AdmitOnly s (f s a)) :
    ∀ (l : List α) (s : State), AdmitOnly s (l.foldl f s)
  | [], s => refl s
  | a :: l, s => (h s a).trans (foldl h l (f s a))

theorem ite {p : Prop} [Decidable p] {v : State} (h : AdmitOnly s u) (g : AdmitOnly s v) : AdmitOnly s (if p then u else v) := by
  split
  · exact h
  · exact g

theorem dev (h : AdmitOnly s u) : u.dev = s.dev := by rw [h.same]
theorem cal (h : AdmitOnly s u) : u.cal = s.cal := by rw [h.same]
theorem mem (h : AdmitOnly s u) : u.mem = s.mem := by rw [h.same]

theorem port_service (h : AdmitOnly s u) (p : Nat) :
    (u.links.ports.getD p VPort.reset).service = (s.links.ports.getD p VPort.reset).service := by
  have hg : ∀ l : List VPort, (l.getD p VPort.reset).service = (l.map VPort.service).getD p VPort.reset.service := fun l => by
    simp only [List.getD_eq_getElem?_getD, List.getElem?_map]
    cases l[p]? <;> rfl
  rw [hg, hg, h.ports]

theorem port_st (h : AdmitOnly s u) (p : Nat) : (u.links.ports.getD p VPort.reset).st = (s.links.ports.getD p VPort.reset).st :=
  congrArg Prod.fst (h.port_service p)

theorem port_downEv (h : AdmitOnly s u) (p : Nat) :
    (u.links.ports.getD p VPort.reset).downEv = (s.links.ports.getD p VPort.reset).downEv :=
  congrArg Prod.snd (h.port_service p)

end AdmitOnly

theorem RecdOnly.admitOnly {s u : State} (h : RecdOnly s u) : AdmitOnly s u := by
  rw [h.same]
  exact ⟨rfl, rfl⟩

theorem diverge_admitOnly (s : State) (agent reason op : Nat) : AdmitOnly s (s.diverge agent reason op) := ⟨rfl, rfl⟩

theorem emit_admitOnly (s : State) (o : Out) : AdmitOnly s (s.emit o) := ⟨rfl, rfl⟩

theorem modReq_admitOnly (s : State) (id : Nat) (f : Req → Req) : AdmitOnly s (s.modReq id f) := ⟨rfl, rfl⟩

theorem modBank_admitOnly (s : State) (k : Nat) (f : Bank → Bank) : AdmitOnly s (s.modBank k f) := ⟨rfl, rfl⟩

theorem map_service_lmod {f : VPort → VPort} (hf : ∀ p, (f p).service = p.service) (l : List VPort) (i : Nat) :
    (lmod i f l).map VPort.service = l.map VPort.service := by
  induction l generalizing i with
  | nil => simp [lmod]
  | cons p l ih =>
    cases i with
    | zero => simp [lmod, hf]
    | succ n => simpa [lmod] using ih n

theorem modPort_admitOnly (s : State) (port : Nat) {f : VPort → VPort} (hf : ∀ p, (f p).service = p.service) :
    AdmitOnly s (s.modPort port f) :=
  ⟨rfl, map_service_lmod hf ..⟩

theorem replayOp_admitOnly (s : State) (agent : Nat) (addr close : Option Nat) : AdmitOnly s (s.replayOp agent addr close) := by
  unfold State.replayOp
  split
  · exact .refl s
  · extract_lets x fold y src src' s1
    have h1 : AdmitOnly s s1 := ⟨rfl, rfl⟩
    have hd : ∀ n, AdmitOnly s (s1.diverge agent n x.ops) := fun n => h1.trans (diverge_admitOnly ..)
    split
    · exact hd _
    · split
      · exact (hd _).ite h1
      · split
        · exact hd _
        · split
          · exact hd _
          · exact ⟨rfl, rfl⟩

theorem note_admitOnly (s : State) (agent issuer lane obj : Nat) (mo : Bool) (addr close : Option Nat) (msgs : List DWord)
    (more : List Nat) : AdmitOnly s (s.note agent issuer lane obj mo addr close msgs more) := by
  unfold State.note
  split
  · exact (recordOp_recdOnly ..).admitOnly
  · split
    · split
      · exact ⟨rfl, rfl⟩
      · exact (replayOp_admitOnly ..).ite ⟨rfl, rfl⟩
    · exact .refl s

theorem valueOf_admitOnly (s : State) (agent issuer lane kind : Nat) (mask : Word) (live : List DWord) (obj : Nat) (mo : Bool) :
    AdmitOnly s (s.valueOf agent issuer lane kind mask live obj mo).1 := by
  unfold State.valueOf
  dsimp only
  split
  · split
    · split
      · exact ⟨rfl, rfl⟩
      · exact diverge_admitOnly ..
    · exact diverge_admitOnly ..
  · exact (recordValue_recdOnly ..).admitOnly

theorem noteAway_admitOnly (s : State) (r : Req) : AdmitOnly s (s.noteAway r) := note_admitOnly ..

theorem sendFlit_admitOnly (s : State) (port : Nat) (dev : BitVec 16) (m : PeerMsg) : AdmitOnly s (s.sendFlit port dev m) := by
  unfold State.sendFlit
  split
  · exact .refl s
  · refine .trans (modPort_admitOnly s port ?_) (emit_admitOnly ..)
    exact fun _ => rfl

theorem sendMsg_admitOnly (s : State) (port : Nat) (dev : BitVec 16) (ctx tag : Nat) (op : PeerOp) :
    AdmitOnly s (s.sendMsg port dev ctx tag op) :=
  AdmitOnly.trans (u := (s.nextMseq dev).1) ⟨rfl, rfl⟩ (sendFlit_admitOnly ..)

theorem sendLanes_admitOnly (s : State) (r : Req) (dev : BitVec 16) (port : Nat) (l : List LaneOp) :
    AdmitOnly s (s.sendLanes r dev port l).1 := by
  induction l generalizing s with
  | nil => exact .refl s
  | cons o l ih =>
    unfold State.sendLanes
    split
    · exact .refl s
    · exact (sendMsg_admitOnly ..).trans (ih _)

theorem sendPeer_admitOnly (s : State) (r : Req) (dev : BitVec 16) : AdmitOnly s (s.sendPeer r dev) := by
  unfold State.sendPeer
  dsimp only
  split
  · exact .refl s
  · split
    · exact modReq_admitOnly ..
    · split
      · exact .refl s
      · exact (((noteAway_admitOnly s r).ite (.refl s)).trans (sendLanes_admitOnly ..)).trans (modReq_admitOnly ..)

theorem hostAtomSend_admitOnly (s : State) (r : Req) (link : Nat) (o : LaneOp) : AdmitOnly s (s.hostAtomSend r link o) := by
  unfold State.hostAtomSend
  split
  · split
    · exact emit_admitOnly ..
    · exact emit_admitOnly ..
    · exact emit_admitOnly ..
    · exact .refl s
  · exact emit_admitOnly ..

theorem replayHost_admitOnly (s : State) (r : Req) (kind : Nat) : AdmitOnly s (s.replayHost r kind) := by
  unfold State.replayHost
  exact ((valueOf_admitOnly ..).trans (note_admitOnly ..)).trans (modReq_admitOnly ..)

theorem sendHost_admitOnly (s : State) (r : Req) (link : Nat) : AdmitOnly s (s.sendHost r link) := by
  unfold State.sendHost
  dsimp only
  split
  · exact .refl s
  · split
    · exact replayHost_admitOnly ..
    · split
      · exact replayHost_admitOnly ..
      · split
        · exact (modReq_admitOnly ..).ite ((emit_admitOnly ..).trans (modReq_admitOnly ..))
        · split
          · exact modReq_admitOnly ..
          · exact modReq_admitOnly ..
          · exact (emit_admitOnly ..).trans (modReq_admitOnly ..)
          · split
            · exact (hostAtomSend_admitOnly ..).trans (modReq_admitOnly ..)
            · exact .refl s

theorem sendContrib_admitOnly {s u : State} {r : Req} {slot : Nat} {o : LaneOp} (h : s.sendContrib r slot o = some u) : AdmitOnly s u := by
  unfold State.sendContrib at h
  split at h
  · cases h
    exact modReq_admitOnly ..
  · rename_i w _
    have hput : ∀ m, AdmitOnly s { s with links := { s.links with windows := m } } := fun _ => ⟨rfl, rfl⟩
    dsimp only at h
    split_ifs at h
    · cases h
      exact (hput _).trans (modReq_admitOnly ..)
    · cases h
      exact (hput _).trans (sendMsg_admitOnly ..)

theorem sendContribs_admitOnly (s : State) (r : Req) (slot : Nat) (l : List LaneOp) : AdmitOnly s (s.sendContribs r slot l).1 := by
  induction l generalizing s with
  | nil => exact .refl s
  | cons o l ih =>
    unfold State.sendContribs
    split
    · exact .refl s
    · exact (sendContrib_admitOnly ‹_›).trans (ih _)

theorem sendWindow_admitOnly (s : State) (r : Req) (slot : Nat) : AdmitOnly s (s.sendWindow r slot) := by
  unfold State.sendWindow
  have ht : AdmitOnly s (if r.sentN = 0 then s.noteAway r else s) := (noteAway_admitOnly s r).ite (.refl s)
  revert ht
  generalize (if r.sentN = 0 then s.noteAway r else s) = t
  intro ht
  split
  · exact .refl s
  · dsimp only
    split
    · exact .refl s
    · exact (ht.trans (sendContribs_admitOnly ..)).trans (modReq_admitOnly ..)

theorem admitReq_admitOnly (s : State) (id : Nat) : AdmitOnly s (s.admitReq id) := by
  unfold State.admitReq
  dsimp only
  split
  · exact .refl s
  · split
    · exact .refl s
    · split
      · exact modReq_admitOnly ..
      · exact sendHost_admitOnly ..
      · exact sendPeer_admitOnly ..
      · exact sendWindow_admitOnly ..
      · split
        · exact modReq_admitOnly ..
        · exact (modReq_admitOnly ..).ite (((modBank_admitOnly ..).trans (modReq_admitOnly ..)).ite (.refl s))

theorem admitReqs_admitOnly (s : State) : AdmitOnly s s.admitReqs := .foldl admitReq_admitOnly _ s

/-! ### The calendar page and notices -/

/-- The calendar page written: beside it only the count of its writes moves. -/
theorem updatePage_journalOnly (s : State) : ∃ n, JournalOnly { s with cal := { s.cal with seq := n } } s.updatePage := by
  unfold State.updatePage
  split
  · exact ⟨_, .refl s⟩
  · exact ⟨_, .foldl (fun t p => put_journalOnly ..) _ _⟩

@[simp] theorem updatePage_dev (s : State) : s.updatePage.dev = s.dev := by
  obtain ⟨n, h⟩ := updatePage_journalOnly s
  rw [h.same]

@[simp] theorem updatePage_links (s : State) : s.updatePage.links = s.links := by
  obtain ⟨n, h⟩ := updatePage_journalOnly s
  rw [h.same]

@[simp] theorem updatePage_frame (s : State) : s.updatePage.cal.frame = s.cal.frame := by
  obtain ⟨n, h⟩ := updatePage_journalOnly s
  rw [h.same]

theorem notice_dev (s : State) (c : Nat) (cause : Cause) (va pc : DWord) (lseq : Word) (core : Nat) :
    (s.notice c cause va pc lseq core).dev = s.dev := by
  unfold State.notice
  dsimp only
  split
  · rfl
  · split
    · rfl
    · unfold State.faultRing
      dsimp only
      rw [modCtx_dev, (pokePa_journalOnly ..).same]
      rfl

/-! ### Firmware (R92, R93) -/

/-- A read error of the image is reason 6. -/
theorem execFirmwareCheckDone_none {s : State} (hb : s.dev.fwBusy = true) (hi : s.arg.img = none) :
    execFirmwareCheckDone s = .next { s with dev := { s.dev with fwBusy := false, fwResult := 2, fwReason := 6, fwFail := true } } := by
  unfold execFirmwareCheckDone
  simp [hb, hi]

/-- A whole image that passes its checks is kept at stages 2 and 5. -/
theorem execFirmwareCheckDone_good {s : State} {img : List Byte} (hb : s.dev.fwBusy = true) (hi : s.arg.img = some img)
    (hlen : s.dev.fwLen.toNat ≤ img.length) (h0 : fwReasonOf (img.take s.dev.fwLen.toNat) s.dev.fwLen.toNat = 0)
    (hst : s.dev.stage = 2 ∨ s.dev.stage = 5) :
    ∃ f, f.version = BitVec.ofNat 32 (imgNat (img.take s.dev.fwLen.toNat) 4 4) ∧
      execFirmwareCheckDone s = .next { s with dev := { s.dev with fwBusy := false, fwResult := 1, fwReason := 0, fw := some f } } := by
  have hrun : (s.dev.stage == 3 || s.dev.stage == 4) = false := by
    obtain h | h := hst <;> simp [h]
  unfold execFirmwareCheckDone
  simp only [hb, hi, Nat.not_lt.2 hlen, h0, hrun, Option.getD_some]
  exact ⟨_, rfl, rfl⟩

/-! ### Kindling mode and full service (R29 to R34) -/

theorem execKindlingModeEnter_go {s : State} (hf : s.dev.fw.isSome = true) (hst : s.dev.stage = 2 ∨ s.dev.stage = 5) :
    execKindlingModeEnter s = .next ({ s with
      dev := { s.dev with stage := 3, clusterUp := 1, stackUp := 0, hearth1Up := false, capUp := 0 }
      links := { s.links with ports := s.links.ports.map fun p => { p with st := 3, lanesUp := 0 } } } : State).updatePage := by
  unfold execKindlingModeEnter
  obtain h | h := hst <;> simp [h, hf]

theorem execFullServiceEnter_go {s : State} (hst : s.dev.stage = 3) (ht : s.cal.nextStart ≤ s.tick) (hf : s.cal.frameOver = true) :
    execFullServiceEnter s = .next ((s.joined s.arg.up).newFrame.updatePage).admitReqs := by
  unfold execFullServiceEnter
  simp [hst, hf, Nat.not_lt.2 ht]

/-- What a device that has entered full service keeps of the units that joined. -/
theorem fullService_dev (s : State) (u : TrainedUnits) : ((s.joined u).newFrame.updatePage.admitReqs).dev = (s.joined u).newFrame.dev := by
  rw [(admitReqs_admitOnly _).dev, updatePage_dev]

theorem fullService_port (s : State) (u : TrainedUnits) (p : Nat) :
    (((s.joined u).newFrame.updatePage.admitReqs).links.ports.getD p VPort.reset).st = ((s.joined u).links.ports.getD p VPort.reset).st := by
  rw [(admitReqs_admitOnly _).port_st, updatePage_links]
  rfl

theorem joined_port {s : State} {u : TrainedUnits} (h : allTrained u = true) {p : Nat} (hp : p < s.links.ports.length) :
    ((s.joined u).links.ports.getD p VPort.reset).st = if u.ports.getLsbD p then 1 else 0 := by
  unfold State.joined
  simp only [h, if_true, List.getD_eq_getElem?_getD, List.getElem?_mapIdx, List.getElem?_eq_getElem hp, Option.map_some,
    Option.getD_some]
  split <;> rfl

/-- Settles O20: each event's guard holds, and what follows it (the calendar page, admission, notices) leaves the device's registers and
the ports' states alone. -/
theorem bringUp : Obligations.BringUp := by
  unfold Obligations.BringUp
  intro s
  refine ⟨?boot, ?host, ?go, ?check, ?kindling, ?full, ?early, ?limit, ?clear, ?die⟩
  case boot =>
    intro hst ht
    exact if_pos ⟨hst, ht⟩
  case host =>
    intro ha hst hfw hb hlen
    change ∃ u, execHostLinkUp s = _ ∧ _
    unfold execHostLinkUp
    rw [if_neg]
    · refine ⟨_, rfl, by simp [ha, hst, hfw], ?_⟩
      obtain ⟨x, y, hxy⟩ := List.length_eq_two.1 hlen
      simp [ha, hxy, lset, lmod]
    · simp [ha, hst]
      omega
  case go =>
    intro hb
    change ∃ u, Host.Outcome.next s.fwGo = _ ∧ _
    unfold State.fwGo
    simp only [hb, Bool.false_eq_true, if_false]
    exact ⟨_, rfl, rfl, rfl⟩
  case check =>
    intro hb
    refine ⟨fun hi => ⟨_, execFirmwareCheckDone_none hb hi, rfl, rfl, rfl, rfl⟩, fun img hi hlen h0 hst => ?_⟩
    obtain ⟨f, hv, he⟩ := execFirmwareCheckDone_good hb hi hlen h0 hst
    exact ⟨_, f, he, rfl, rfl, rfl, rfl, hv⟩
  case kindling =>
    intro hf hst
    refine ⟨_, execKindlingModeEnter_go hf hst, ?_⟩
    simp only [updatePage_dev, updatePage_links, true_and]
    intro p hp
    obtain ⟨q, -, rfl⟩ := List.mem_map.1 hp
    rfl
  case full =>
    intro hst ht hf
    refine ⟨fun hall => ⟨_, execFullServiceEnter_go hst ht hf, ?_⟩, fun hall => ⟨_, execFullServiceEnter_go hst ht hf, ?_⟩⟩
    · rw [fullService_dev, (admitReqs_admitOnly _).cal, updatePage_frame]
      have hu := hall
      simp only [allTrained, Bool.and_eq_true, beq_iff_eq] at hu
      obtain ⟨⟨⟨⟨hc, hh⟩, h1⟩, -⟩, -⟩ := hu
      refine ⟨?_, ?_, hh, h1, rfl, fun p hp _ => (fullService_port ..).trans (joined_port hall hp)⟩
      · simp [State.newFrame, State.joined, hall]
      · simp [State.newFrame, State.joined, hc]
    · rw [fullService_dev]
      simp [State.newFrame, State.joined, hall]
  case early =>
    intro _ ht
    exact if_pos (.inr (.inl ht))
  case limit =>
    intro hp
    change ∃ u, execPowerLimitCrossed s = _ ∧ _
    unfold execPowerLimitCrossed
    simp only [hp]
    refine ⟨_, rfl, ?_⟩
    have hdev : ∀ (l : List Nat) (t : State), (l.foldl (fun s c => s.notice c .powerEmergency 0 0 0 0) t).dev = t.dev := by
      intro l
      induction l with
      | nil => exact fun _ => rfl
      | cons c l ih => exact fun t => (ih _).trans (notice_dev ..)
    rw [hdev]
    exact ⟨rfl, rfl⟩
  case clear =>
    intro hp
    change ∃ u, execPowerLimitCrossed s = _ ∧ _
    unfold execPowerLimitCrossed
    simp only [hp]
    exact ⟨_, rfl, rfl, rfl, rfl⟩
  case die =>
    intro hp
    change ∃ u, execPowerLimitCrossed s = _ ∧ _
    unfold execPowerLimitCrossed
    simp only [hp]
    exact ⟨_, rfl, rfl, rfl⟩

end Sys2Proof.Machine
end

section
/-! What an engine's reads and writes of mapped bytes of HBM do: the control core's, a peer's and a window's, which are no copies. -/

namespace Sys2Proof.Machine

/-! ### Runs of bytes -/

theorem readBytes_add (m : Memory) (a k n : Nat) : readBytes m a (k + n) = readBytes m a k ++ readBytes m (a + k) n := by
  induction k generalizing a with
  | zero => simp [readBytes]
  | succ k ih => rw [Nat.succ_add, readBytes, ih, readBytes, List.cons_append, Nat.add_assoc, Nat.add_comm 1 k]

@[simp] theorem length_readBytes (m : Memory) (a n : Nat) : (readBytes m a n).length = n := by
  induction n generalizing a with
  | zero => rfl
  | succ n ih => simp [readBytes, ih]

@[simp] theorem length_leBytes (n v : Nat) : (leBytes n v).length = n := by
  induction n generalizing v with
  | zero => rfl
  | succ n ih => simp [leBytes, ih]

theorem writeCells_append (lost : Option Nat) (bs cs : List Byte) (m : List Host.Cell) (a : Nat) :
    writeCells lost m a (bs ++ cs) = writeCells lost (writeCells lost m a bs) (a + bs.length) cs := by
  induction bs generalizing m a with
  | nil => rfl
  | cons b bs ih =>
    rw [List.cons_append, writeCells, ih, writeCells, List.length_cons]
    congr 1
    omega

theorem writeBytes_append (m : Memory) (bs cs : List Byte) (a : Nat) :
    writeBytes m a (bs ++ cs) = writeBytes (writeBytes m a bs) (a + bs.length) cs :=
  congrArg (fun l => { m with cells := l }) (writeCells_append m.lost bs cs m.cells a)

/-! ### The engine during such an access -/

/-- The state of an engine that began in `s`: memory's bytes and caches and the recorder have moved on, and no more. -/
structure EngState (s u : State) : Prop where
  same : u = { s with recd := u.recd, mem := { s.mem with bytes := u.mem.bytes, cache := u.mem.cache } }
  mode : u.recd.mode = s.recd.mode

namespace EngState
variable {s u v : State}

theorem refl (s : State) : EngState s s := ⟨rfl, rfl⟩

theorem trans (h : EngState s u) (g : EngState u v) : EngState s v := by
  refine ⟨?_, g.mode.trans h.mode⟩
  rw [g.same, h.same]

theorem laneCheck (h : EngState s u) (c : Cur) (b : Blk) (m : Mmu) (f : MemForm) (va : DWord) :
    u.laneCheck c b m f va = s.laneCheck c b m f va := by
  rw [h.same]
  rfl

theorem lineHeld (h : EngState s u) (die line : Nat) : u.lineHeld die line = s.lineHeld die line := by
  rw [h.same]
  rfl

theorem watches (h : EngState s u) (ctx : Nat) : u.watches ctx = s.watches ctx := by
  rw [h.same]
  rfl

theorem poison (h : EngState s u) : u.mem.poison = s.mem.poison ∧ u.mem.poisonTab = s.mem.poisonTab ∧ u.mem.partials = s.mem.partials := by
  rw [h.same]
  exact ⟨rfl, rfl, rfl⟩

theorem replaying (h : EngState s u) (hr : s.replaying = false) : u.replaying = false := by
  unfold State.replaying at hr ⊢
  rw [h.mode]
  exact hr

end EngState

theorem RecdOnly.engState {s u : State} (h : RecdOnly s u) : EngState s u := by
  refine ⟨?_, h.mode⟩
  rw [h.same]

theorem shareLine_engState (s : State) (line : Nat) (mine : Nat → Bool) : EngState s (s.shareLine line mine) := ⟨rfl, rfl⟩

theorem dropHolders_engState (s : State) (line : Nat) (mine : Nat → Bool) : EngState s (s.dropHolders line mine) := ⟨rfl, rfl⟩

theorem poke_engState (s : State) (a : Nat) (bs : List Byte) : EngState s (s.poke a bs) := by
  unfold State.poke
  split
  · exact .refl s
  · unfold State.dirtied
    dsimp only
    split
    · exact ⟨rfl, rfl⟩
    · exact ⟨rfl, rfl⟩

/-- What is known of an engine that makes accesses for command `k` of block `b`, begun in state `s`: nothing has failed, nothing is poisoned,
and it has covered lines of HBM alone. -/
structure EngAt (s : State) (k : Cmd) (b : Blk) (e : Eng) : Prop where
  state : EngState s e.s
  cmd : e.k = k
  blk : e.b = b
  sound : e.err = false ∧ e.ecc = .clean ∧ e.bad = false ∧ e.undef = false
  srcs : e.srcs = []
  cover : ∀ c ∈ e.cover, ∃ line, c.1 = (.mem, line) ∧ lineIsCap line = false ∧ c.2.2 = false

/-- As `Rules.Mapped`, for an endpoint that lies in a window or does not. -/
def MappedAt (s : State) (k : Cmd) (b : Blk) (write glob : Bool) (va : DWord) (n pa : Nat) : Prop :=
  ∀ i, i < n → isCapacity (pa + i) = false ∧ ∃ lf, s.laneCheck k.cur b k.mmu
      { kind := if write then .store else .load, ak := if write then .write else .read, bytes := 1,
        space := if glob then 1 else 0, tagged := false } (va + BitVec.ofNat 64 i) = .ok .mem (pa + i) lf ∧
    ∀ x, lf = some x → x.pub = false ∧ x.tagm = 0

theorem mappedAt_of_mapped {s : State} {k : Cmd} {b : Blk} {write : Bool} {va : DWord} {n pa : Nat} (hw : isWindow va = false)
    (h : Rules.Mapped s k b write va n pa) : MappedAt s k b write true va n pa := fun i hi => by
  have hi := h i hi
  simp only [hw] at hi
  exact hi

namespace MappedAt
variable {s : State} {k : Cmd} {b : Blk} {write glob : Bool} {va : DWord} {n pa : Nat}

theorem head (h : MappedAt s k b write glob va (n + 1) pa) : isCapacity pa = false ∧ ∃ lf, s.laneCheck k.cur b k.mmu
      { kind := if write then .store else .load, ak := if write then .write else .read, bytes := 1,
        space := if glob then 1 else 0, tagged := false } va = .ok .mem pa lf ∧ ∀ x, lf = some x → x.pub = false ∧ x.tagm = 0 := by
  simpa using h 0 (Nat.succ_pos n)

theorem drop (h : MappedAt s k b write glob va n pa) {j : Nat} (hj : j ≤ n) :
    MappedAt s k b write glob (va + BitVec.ofNat 64 j) (n - j) (pa + j) := fun i hi => by
  have hi := h (j + i) (by omega)
  rw [BitVec.ofNat_add, ← BitVec.add_assoc, ← Nat.add_assoc] at hi
  exact hi

end MappedAt

section
variable {s : State} {k : Cmd} {b : Blk} {e : Eng}

theorem lineIsCap_of_isCapacity {a : Nat} (h : isCapacity a = false) : lineIsCap (lineOf a) = false := by
  have ha : ¬ capBase ≤ a := of_decide_eq_false h
  exact decide_eq_false fun hc => ha (hc.trans (Nat.div_mul_le_self a 128))

theorem place_mapped (h : EngAt s k b e) {va : DWord} {pa : Nat} {write glob : Bool} {lf : Option Leaf}
    (hc : s.laneCheck k.cur b k.mmu
      { kind := if write then .store else .load, ak := if write then .write else .read, bytes := 1,
        space := if glob then 1 else 0, tagged := false } va = .ok .mem pa lf) :
    ∃ v, e.place va write glob = .ok (v, .mem, pa, lf) := by
  unfold Eng.place
  simp only [h.state.laneCheck, h.cmd, h.blk, hc]
  exact ⟨_, rfl⟩

theorem watch_calm (h : EngAt s k b e) (hw : s.watches k.ctx = []) (va : DWord) (n : Nat) : e.watch va n = e := by
  have hs : e.s.watches e.k.ctx = [] := by rw [h.state.watches, h.cmd, hw]
  unfold Eng.watch
  split
  · rfl
  · simp [hs]

theorem tagBad_untagged {lf : Option Leaf} (hl : ∀ x, lf = some x → x.pub = false ∧ x.tagm = 0) (e : Eng) (a : Nat) (v : DWord) :
    e.tagBad lf a v = false := by
  unfold Eng.tagBad
  cases lf with
  | none => simp
  | some x => simp [(hl x rfl).2]

theorem note_engAt (h : EngAt s k b e) (hr : s.replaying = false) (obj : Nat) (w : Bool) (a : Option Nat) :
    EngAt s k b (e.note obj w a) ∧ (e.note obj w a).s.mem = e.s.mem := by
  unfold Eng.note
  split
  · exact ⟨h, rfl⟩
  · have hn := note_recdOnly (h.state.replaying hr) e.agent 0 0 obj w a none [] []
    exact ⟨⟨h.state.trans hn.engState, h.cmd, h.blk, h.sound, h.srcs, h.cover⟩, by rw [hn.same]⟩

/-! ### Reads -/

theorem homeEcc_clean {line : Nat} (h : lineIsCap line = false) (s : State) : s.homeEcc line .clean = s := by
  unfold State.homeEcc
  rw [h]
  rfl

theorem capTouch_hbm {line : Nat} (h : lineIsCap line = false) (s : State) (tag : Nat) (reads writes refused : Bool) (o : EccOutcome) :
    s.capTouch line tag reads writes refused o = s := by
  unfold State.capTouch
  rw [h]
  rfl

theorem partialsOf_nil {s : State} (h : s.mem.partials = []) (line : Nat) : s.partialsOf line = [] := by
  simp [State.partialsOf, h]

theorem gather_nil {s : State} (h : s.mem.partials = []) (line : Nat) : s.gather line = s := by
  unfold State.gather
  rw [partialsOf_nil h]
  rfl

theorem poisoned_nil {s : State} (h : s.mem.poison = []) (h' : s.mem.poisonTab = []) (line : Nat) : s.poisoned line = false := by
  unfold State.poisoned
  rw [h, h']
  rfl

/-- What the caches keep of a line that an engine that runs no copy reads. -/
theorem cached_engState (e : Eng) (hk : copyReuse e.k.op = none) (l : Option Leaf) (line : Nat) (u : State) :
    EngState u (e.cached l line u) ∧ (e.cached l line u).mem.bytes = u.mem.bytes := by
  unfold Eng.cached
  rw [hk]
  exact ⟨shareLine_engState .., rfl⟩

theorem readAt_mapped (h : EngAt s k b e) (hc : Rules.CalmMemory s k.ctx) (hr : s.replaying = false) (hk : copyReuse k.op = none)
    {pa : Nat} (ha : isCapacity pa = false) {lf : Option Leaf} (hl : ∀ x, lf = some x → x.pub = false ∧ x.tagm = 0) (v : DWord) (n : Nat) :
    ∃ e1, e.readAt v n .mem pa lf = .ok (e1, readBytes e.s.mem.bytes pa n) ∧ EngAt s k b e1 ∧ e1.s.mem.bytes = e.s.mem.bytes := by
  obtain ⟨hparts, hpois, htab, -, -, -, hheld⟩ := hc
  obtain ⟨herr, hecc, hbad, hund⟩ := h.sound
  have hcap := lineIsCap_of_isCapacity ha
  obtain ⟨hn, hm⟩ := note_engAt h hr (objLine (lineOf pa)) false (some (lineOf pa * 128))
  have hh : e.s.lineHeld e.die (lineOf pa) = false := by rw [h.state.lineHeld, hheld]
  unfold Eng.readAt
  simp only [herr, hh, Bool.false_and, Bool.false_eq_true, if_false, hecc, homeEcc_clean hcap, capTouch_hbm hcap, tagBad_untagged hl]
  generalize e.note (objLine (lineOf pa)) false (some (lineOf pa * 128)) = e1 at hn hm
  have hs1 : ∃ s1, (if (e.noted.any fun x => x.1 == objLine (lineOf pa)) = true then e1.s else e.cached lf (lineOf pa) e1.s) = s1 ∧
      EngState e1.s s1 ∧ s1.mem.bytes = e1.s.mem.bytes := by
    split
    · exact ⟨_, rfl, .refl _, rfl⟩
    · exact ⟨_, rfl, cached_engState e (by rw [h.cmd, hk]) ..⟩
  obtain ⟨s1, e', hs1, hb1⟩ := hs1
  obtain ⟨hp, ht, hpa⟩ := (hn.state.trans hs1).poison
  rw [e', gather_nil (hpa.trans hparts), poisoned_nil (hp.trans hpois) (ht.trans htab)]
  have hb : s1.mem.bytes = e.s.mem.bytes := by rw [hb1, hm]
  rw [State.peek, hb]
  refine ⟨_, rfl, ⟨hn.state.trans hs1, hn.cmd, hn.blk, ⟨hn.sound.1, rfl, ?_, hn.sound.2.2.2⟩, hn.srcs, hn.cover⟩, hb⟩
  simp [hn.sound.2.2.1]

theorem readN_mapped (hc : Rules.CalmMemory s k.ctx) (hr : s.replaying = false) (hk : copyReuse k.op = none) {glob : Bool} (fuel : Nat)
    {va : DWord} {n pa : Nat} (hn : n ≤ fuel) (h : EngAt s k b e) (hm : MappedAt s k b false glob va n pa) :
    ∃ e1, Eng.readN glob fuel e va n = .ok (e1, readBytes e.s.mem.bytes pa n) ∧ EngAt s k b e1 ∧ e1.s.mem.bytes = e.s.mem.bytes := by
  induction fuel generalizing e va n pa with
  | zero =>
    obtain rfl : n = 0 := by omega
    exact ⟨e, rfl, h, rfl⟩
  | succ fuel ih =>
    cases n with
    | zero => exact ⟨e, rfl, h, rfl⟩
    | succ n =>
      obtain ⟨ha, lf, hlf, hl⟩ := hm.head
      obtain ⟨v, hv⟩ := place_mapped (write := false) h hlf
      have hw := hc.2.2.2.1
      generalize hj : min (n + 1) (32 - pa % 32) = j
      have hj1 : 1 ≤ j ∧ j ≤ n + 1 := by omega
      obtain ⟨e1, he1, h1, hb1⟩ := readAt_mapped h hc hr hk ha hl v j
      obtain ⟨e2, he2, h2, hb2⟩ := ih (by omega) h1 (hm.drop hj1.2)
      refine ⟨e2, ?_, h2, hb2.trans hb1⟩
      unfold Eng.readN
      simp only [hv, watch_calm h hw, hj, he1, he2]
      rw [hb1, ← readBytes_add, Nat.add_sub_cancel' hj1.2]

/-! ### Writes -/

theorem covers_engAt (h : EngAt s k b e) {a : Nat} (ha : isCapacity a = false) (n : Nat) : EngAt s k b (e.covers .mem a n) := by
  have hcap := lineIsCap_of_isCapacity ha
  have hbad := h.sound.2.2.1
  unfold Eng.covers
  dsimp only
  split
  · refine ⟨h.state, h.cmd, h.blk, h.sound, h.srcs, fun c hc => ?_⟩
    obtain ⟨x, hx, rfl⟩ := List.mem_map.1 hc
    obtain ⟨line, hl, hnc, hf⟩ := h.cover x hx
    split
    · exact ⟨line, hl, hnc, by simp [hf, hbad]⟩
    · exact ⟨line, hl, hnc, hf⟩
  · refine ⟨h.state, h.cmd, h.blk, h.sound, h.srcs, fun c hc => ?_⟩
    obtain hc | hc := List.mem_append.1 hc
    · exact h.cover c hc
    · rw [List.mem_singleton.1 hc]
      exact ⟨a / 128, rfl, hcap, hbad⟩

theorem covers_s (e : Eng) (x : Home) (a n : Nat) : (e.covers x a n).s = e.s := by
  unfold Eng.covers
  dsimp only
  split <;> rfl

theorem writeAt_mapped (h : EngAt s k b e) (hc : Rules.CalmMemory s k.ctx) (hr : s.replaying = false)
    {pa : Nat} (ha : isCapacity pa = false) {lf : Option Leaf} (hl : ∀ x, lf = some x → x.pub = false ∧ x.tagm = 0) (v : DWord)
    (bs : List Byte) :
    ∃ e1, e.writeAt v bs .mem pa lf = .ok e1 ∧ EngAt s k b e1 ∧ e1.s.mem.bytes = writeBytes e.s.mem.bytes pa bs := by
  obtain ⟨hparts, hpois, htab, -, -, -, hheld⟩ := hc
  obtain ⟨herr, hecc, hbad, hund⟩ := h.sound
  have hcap := lineIsCap_of_isCapacity ha
  obtain ⟨hn, hm⟩ := note_engAt h hr (objLine (lineOf pa)) true (some (lineOf pa * 128))
  have hh : e.s.lineHeld e.die (lineOf pa) = false := by rw [h.state.lineHeld, hheld]
  have hpub : (lf.elim false fun x => x.pub) = false := by
    cases lf with
    | none => rfl
    | some x => exact (hl x rfl).1
  have hfree : e.freed .mem pa bs = bs := by
    unfold Eng.freed
    rw [h.srcs]
    rfl
  unfold Eng.writeAt
  simp only [hund, herr, hh, hpub, hfree, Bool.false_and, Bool.or_false, Bool.false_eq_true, if_false, capTouch_hbm hcap,
    tagBad_untagged hl]
  generalize e.note (objLine (lineOf pa)) true (some (lineOf pa * 128)) = e1 at hn hm
  rw [gather_nil (hn.state.poison.2.2.trans hparts)]
  have hs : EngState e1.s ((e1.s.poke pa bs).dropHolders (lineOf pa) fun _ => false) :=
    (poke_engState ..).trans (dropHolders_engState ..)
  have hE : EngAt s k b { e1 with s := (e1.s.poke pa bs).dropHolders (lineOf pa) fun _ => false } :=
    ⟨hn.state.trans hs, hn.cmd, hn.blk, hn.sound, hn.srcs, hn.cover⟩
  refine ⟨_, rfl, covers_engAt hE ha _, ?_⟩
  rw [covers_s]
  exact (poke_bytes ..).trans (by rw [hm])

theorem writeN_mapped (hc : Rules.CalmMemory s k.ctx) (hr : s.replaying = false) {glob : Bool} (fuel : Nat)
    {va : DWord} {bs : List Byte} {pa : Nat} (hn : bs.length ≤ fuel) (h : EngAt s k b e) (hm : MappedAt s k b true glob va bs.length pa) :
    ∃ e1, Eng.writeN glob fuel e va bs = .ok e1 ∧ EngAt s k b e1 ∧ e1.s.mem.bytes = writeBytes e.s.mem.bytes pa bs := by
  induction fuel generalizing e va bs pa with
  | zero =>
    obtain rfl : bs = [] := List.length_eq_zero_iff.1 (by omega)
    exact ⟨e, rfl, h, rfl⟩
  | succ fuel ih =>
    cases bs with
    | nil => exact ⟨e, rfl, h, rfl⟩
    | cons x xs =>
      obtain ⟨ha, lf, hlf, hl⟩ := hm.head
      obtain ⟨v, hv⟩ := place_mapped (write := true) h hlf
      have hw := hc.2.2.2.1
      rw [List.length_cons] at hn
      generalize hj : min (x :: xs).length (32 - va.toNat % 32) = j
      have hj1 : 1 ≤ j ∧ j ≤ (x :: xs).length := by
        rw [List.length_cons] at hj ⊢
        omega
      obtain ⟨e1, he1, h1, hb1⟩ := writeAt_mapped h hc hr ha hl v ((x :: xs).take j)
      have hrest := hm.drop hj1.2
      rw [← List.length_drop] at hrest
      obtain ⟨e2, he2, h2, hb2⟩ := ih (by rw [List.length_drop, List.length_cons]; omega) h1 hrest
      refine ⟨e2, ?_, h2, ?_⟩
      · unfold Eng.writeN
        simp only [hv, watch_calm h hw, hj, he1, he2]
      · have hlen : ((x :: xs).take j).length = j := by
          rw [List.length_take]
          omega
        rw [hb2, hb1, ← congrArg (pa + ·) hlen, ← writeBytes_append, List.take_append_drop]

/-! ### The end of the access -/

theorem unpoison_nil {u : State} (h : u.mem.poison = []) (h' : u.mem.poisonTab = []) (line : Nat) : u.unpoison line = u := by
  obtain ⟨m, hm⟩ : ∃ m, m = u.mem := ⟨_, rfl⟩
  cases m
  rw [← hm] at h h'
  cases h
  cases h'
  unfold State.unpoison
  rw [← hm]
  simp only [List.filter_nil]
  rw [hm]

theorem poisonWrite_nil {u : State} (h : u.mem.poison = []) (h' : u.mem.poisonTab = []) (line : Nat) (full : Bool) :
    u.poisonWrite line full = u := by
  unfold State.poisonWrite
  rw [unpoison_nil h h', poisoned_nil h h']
  split <;> rfl

theorem settle_s (h : EngAt s k b e) (hc : Rules.CalmMemory s k.ctx) : e.settle.s = e.s := by
  obtain ⟨-, hpois, htab, -⟩ := hc
  have hcov := h.cover
  obtain ⟨hp, ht, -⟩ := h.state.poison
  unfold Eng.settle
  generalize e.cover = l at hcov
  suffices ∀ x : Eng, x.s = e.s → (l.foldl _ x).s = e.s from this _ rfl
  induction l with
  | nil => exact fun x hx => hx
  | cons c l ih =>
    intro x hx
    refine ih (fun d hd => hcov d (List.mem_cons_of_mem _ hd)) _ ?_
    obtain ⟨line, h1, h2, h3⟩ := hcov c List.mem_cons_self
    simp only [h1, h2, h3, Bool.false_and, Bool.false_eq_true, if_false]
    rw [hx, poisonWrite_nil (hp.trans hpois) (ht.trans htab)]

end

/-! ### Accesses under a context's translation -/

theorem ctlEng_engAt {s : State} {ctx : Nat} (agent : Nat) (hf : s.arg.flag = false) (he : s.arg.ecc = .clean) :
    EngAt s (s.ctlEng ctx agent).k (s.ctlEng ctx agent).b (s.ctlEng ctx agent) :=
  ⟨.refl s, rfl, rfl, ⟨hf, he, rfl, rfl⟩, rfl, fun _ h => absurd h List.not_mem_nil⟩

theorem ctl_ok {α : Type} {s : State} {ctx agent : Nat} {site : FaultSite} {f : Eng → Except EStop (Eng × α)} {fuel : Nat} {k : Cmd}
    {b : Blk} {e : Eng} {x : α} (hf : f (s.ctlEng ctx agent) = .ok (e, x)) (he : EngAt s k b e) (hc : Rules.CalmMemory s k.ctx) :
    State.ctl ctx agent site f (fuel + 1) s = .ok e.s x := by
  unfold State.ctl
  simp only [hf, he.sound.2.2.1, Bool.false_eq_true, if_false, settle_s he hc]

section
variable {s : State} {k : Cmd} {b : Blk} {e : Eng}

theorem ctlRead_mapped (hc : Rules.CalmMemory s k.ctx) (hr : s.replaying = false) (hk : copyReuse k.op = none) {va : DWord} {n pa : Nat}
    (h : EngAt s k b e) (hm : MappedAt s k b false true va n pa) :
    ∃ e1, ctlRead va n e = .ok (e1, readBytes e.s.mem.bytes pa n) ∧ EngAt s k b e1 ∧ e1.s.mem.bytes = e.s.mem.bytes :=
  readN_mapped hc hr hk n le_rfl h hm

theorem EngAt.sane (h : EngAt s k b e) : { e with bad := false } = e := by
  rw [← h.sound.2.2.1]

theorem ctlWrite_mapped (hc : Rules.CalmMemory s k.ctx) (hr : s.replaying = false) {va : DWord} {bs : List Byte} {pa : Nat}
    (h : EngAt s k b e) (hm : MappedAt s k b true true va bs.length pa) :
    ∃ e1, ctlWrite va bs e = .ok (e1, ()) ∧ EngAt s k b e1 ∧ e1.s.mem.bytes = writeBytes e.s.mem.bytes pa bs := by
  obtain ⟨e1, he, h1, hb⟩ := writeN_mapped hc hr bs.length le_rfl h hm
  refine ⟨e1, ?_, h1, hb⟩
  unfold ctlWrite
  rw [h.sane, he]
  simp only [h1.sane]

theorem ctlRmw_mapped (hc : Rules.CalmMemory s k.ctx) (hr : s.replaying = false) (hk : copyReuse k.op = none) {va : DWord} {n pa : Nat}
    (f : Nat → Nat) (h : EngAt s k b e) (hm : MappedAt s k b false true va n pa) (hw : MappedAt s k b true true va n pa) :
    ∃ e1, ctlRmw va n f e = .ok (e1, readBytes e.s.mem.bytes pa n) ∧ EngAt s k b e1 ∧
      e1.s.mem.bytes = writeBytes e.s.mem.bytes pa (leBytes n (f (leNat (readBytes e.s.mem.bytes pa n)))) := by
  obtain ⟨e1, he, h1, hb⟩ := readN_mapped hc hr hk n le_rfl h hm
  have hlen : (leBytes n (f (leNat (readBytes e.s.mem.bytes pa n)))).length = n := length_leBytes ..
  rw [← hlen] at hw
  obtain ⟨e2, he2, h2, hb2⟩ := writeN_mapped hc hr n hlen.le h1 hw
  refine ⟨e2, ?_, h2, hb2.trans (by rw [hb])⟩
  unfold ctlRmw
  simp only [he, h1.sound.2.2.1, he2, Bool.false_eq_true, if_false]

end

end Sys2Proof.Machine
end

section
/-! A peer's request served and answered, and the answers of peers to this device's own. -/

namespace Sys2Proof.Machine

theorem modBuf_same (s : State) (port vc : Nat) (f : List PeerMsg → List PeerMsg) :
    s.modBuf port vc f = { s with links := (s.modBuf port vc f).links, outbox := (s.modBuf port vc f).outbox } := by
  unfold State.modBuf
  dsimp only
  split
  · rfl
  · split <;> rfl

theorem modBuf_outbox (s : State) (port vc : Nat) (f : List PeerMsg → List PeerMsg) {o : Out} (h : o ∈ s.outbox) :
    o ∈ (s.modBuf port vc f).outbox := by
  unfold State.modBuf
  dsimp only
  split
  · exact List.mem_append_left _ h
  · split
    · exact List.mem_append_left _ h
    · exact h

theorem modBuf_replaying (s : State) (port vc : Nat) (f : List PeerMsg → List PeerMsg) : (s.modBuf port vc f).replaying = s.replaying := by
  rw [modBuf_same]
  rfl

/-- A message recorded outside replay: the recorder alone has moved on. -/
theorem noteMsg_recdOnly {s : State} (hr : s.replaying = false) (port vc : Nat) (m : PeerMsg) (lines : List Nat) (writes : Bool) :
    RecdOnly s (s.noteMsg port vc m lines writes) := by
  unfold State.noteMsg State.recordPayload
  have hn := note_recdOnly hr (portAgent port) 0 0 ((lines.head?.map (· * 128)).elim objNone fun x => objLine (x / 128)) writes
    (lines.head?.map (· * 128)) none [m.entry vc] ((lines.drop 1).map objLine)
  dsimp only
  split
  · exact hn
  · exact hn.trans (ashRecord_recdOnly ..)

theorem sendMsg_flit {s : State} (hr : s.replaying = false) (port : Nat) (dev : BitVec 16) (ctx tag : Nat) (op : PeerOp) :
    ∃ x, .flit port (vcOf op) x ∈ (s.sendMsg port dev ctx tag op).outbox ∧ x.tag = tag ∧ x.op = op := by
  have hr' : (s.nextMseq dev).1.replaying = false := hr
  unfold State.sendMsg
  dsimp only
  unfold State.sendFlit
  rw [hr']
  exact ⟨_, List.mem_append_right _ (List.mem_singleton_self _), rfl, rfl⟩

/-- What the service of a request leaves: the state its accesses end in, and the answer. -/
theorem takeRequest_ok {s t : State} {port : Nat} {m : PeerMsg} {data : List Byte} (hr : s.replaying = false)
    (hs : ({ s with recd := { s.recd with mode := 0 } } : State).servePeer port m = .ok t (data, false)) (ho : m.op.span.isSome = true) :
    ∃ u, s.takeRequest port m = (u, true) ∧ u.mem = t.mem ∧
      ∃ x, .flit port 1 x ∈ u.outbox ∧ x.tag = m.tag ∧ x.op = .answer data false false := by
  have hr' : ({ t with recd := { t.recd with mode := s.recd.mode } } : State).replaying = false := hr
  have hn := noteMsg_recdOnly hr' port (vcOf m.op) m
    (({ t with recd := { t.recd with mode := s.recd.mode } } : State).peerLines m) (m.op.span.elim false fun x => x.2.2)
  unfold State.takeRequest
  simp only [hs, CtlRes.unquiet, ho, if_true]
  refine ⟨_, rfl, ?_, ?_⟩
  · exact ((sendMsg_admitOnly ..).mem).trans (by rw [hn.same])
  · exact sendMsg_flit (hn.replaying.trans hr') ..

section
variable {s : State} {port : Nat} {m : PeerMsg}

theorem servePeer_load (hr : s.replaying = false) (hc : Rules.CalmMemory s m.ctx) {va : DWord} {n pa : Nat} (ho : m.op = .load va n)
    (hn : 0 < n) (ha : va.toNat % n = 0)
    (hm : MappedAt s (s.ctlEng m.ctx (portAgent port)).k (s.ctlEng m.ctx (portAgent port)).b false true va n pa) :
    ∃ t, s.servePeer port m = .ok t (readBytes s.mem.bytes pa n, false) ∧ t.mem.bytes = s.mem.bytes := by
  have h0 := ctlEng_engAt (ctx := m.ctx) (portAgent port) hc.2.2.2.2.2.1 hc.2.2.2.2.1
  obtain ⟨e1, he, h1, hb⟩ := ctlRead_mapped hc hr rfl h0 hm
  refine ⟨e1.s, ?_, hb⟩
  unfold State.servePeer
  simp only [ho, hn.ne', ha, ne_eq, not_true, or_self, if_false]
  refine ctl_ok ?_ h1 hc
  rw [he]
  rfl

theorem servePeer_store (hr : s.replaying = false) (hc : Rules.CalmMemory s m.ctx) {va : DWord} {d : List Byte} {pa : Nat}
    (ho : m.op = .store va d) (hn : 0 < d.length) (ha : va.toNat % d.length = 0)
    (hm : MappedAt s (s.ctlEng m.ctx (portAgent port)).k (s.ctlEng m.ctx (portAgent port)).b true true va d.length pa) :
    ∃ t, s.servePeer port m = .ok t ([], false) ∧ t.mem.bytes = writeBytes s.mem.bytes pa d := by
  have h0 := ctlEng_engAt (ctx := m.ctx) (portAgent port) hc.2.2.2.2.2.1 hc.2.2.2.2.1
  obtain ⟨e1, he, h1, hb⟩ := ctlWrite_mapped hc hr h0 hm
  refine ⟨e1.s, ?_, hb⟩
  unfold State.servePeer
  simp only [ho, hn.ne', ha, ne_eq, not_true, or_self, if_false]
  refine ctl_ok ?_ h1 hc
  rw [he]
  rfl

end

theorem exec_inboundMessage {s u : State} {m : PeerMsg} (hb : s.arg.b = 0) (hn : s.nextMsg s.arg.a 0 = some m) (hk : s.kindling = false)
    (ho : s.mayOp (portAgent s.arg.a) 0 0 = true) (hs : s.maySend s.arg.a 1 = true) (ht : s.takeRequest s.arg.a m = (u, true)) :
    exec .inboundMessage s = .next (u.modBuf s.arg.a 0 fun l => l.erase m) := by
  have hd : s.linkDown s.arg.a = false := by
    unfold State.maySend at hs
    simp at hs
    exact hs.2
  change execInboundMessage s = _
  unfold execInboundMessage
  simp only [hb, true_or, if_true, hn, hk, hd, ho, hs, ht]
  simp

/-- INBOUND_MESSAGE of a request that is served: its answer is sent, and memory is as its accesses leave it. -/
theorem inboundMessage_ok {s t : State} {m : PeerMsg} {data : List Byte} (hb : s.arg.b = 0) (hn : s.nextMsg s.arg.a 0 = some m)
    (hk : s.kindling = false) (ho : s.mayOp (portAgent s.arg.a) 0 0 = true) (hs : s.maySend s.arg.a 1 = true)
    (hr : s.replaying = false) (hm : m.op.span.isSome = true)
    (ht : ({ s with recd := { s.recd with mode := 0 } } : State).servePeer s.arg.a m = .ok t (data, false)) :
    ∃ u x, exec .inboundMessage s = .next u ∧ .flit s.arg.a 1 x ∈ u.outbox ∧ x.tag = m.tag ∧ x.op = .answer data false false ∧
      u.mem = t.mem := by
  obtain ⟨u, hu, hmem, x, hx, htag, hop⟩ := takeRequest_ok hr ht hm
  refine ⟨_, x, exec_inboundMessage hb hn hk ho hs hu, modBuf_outbox _ _ _ _ hx, htag, hop, ?_⟩
  rw [modBuf_same]
  exact hmem

/-! ### Answers -/

theorem exec_peerResponseReceive {s : State} {m : PeerMsg} {data : List Byte} {fail bad : Bool} (hn : s.nextMsg s.arg.a 1 = some m)
    (hop : m.op = .answer data fail bad) (ho : s.mayOp (portAgent s.arg.a) 0 0 = true) (hd : s.linkDown s.arg.a = false)
    (hr : s.replaying = false) :
    ∃ t : State, exec .peerResponseReceive s =
        .next (((t.peerReply m.tag data fail).modReq (m.tag / 32) Req.closeReplies).copyReply (m.tag / 32) data fail bad) ∧
      t.reqs = s.reqs := by
  have hu := (modBuf_replaying s s.arg.a 1 fun l => l.erase m).trans hr
  have ht := noteMsg_recdOnly hu s.arg.a 1 m [] false
  refine ⟨(s.modBuf s.arg.a 1 fun l => l.erase m).noteMsg s.arg.a 1 m [] false, ?_, by rw [ht.same, modBuf_same]⟩
  change execPeerResponseReceive s = _
  unfold execPeerResponseReceive State.takeAnswer
  simp only [hn, hop, ho, hd]
  rfl

theorem copyReply_reqs (s : State) (id : Nat) (data : List Byte) (fail bad : Bool) : (s.copyReply id data fail bad).reqs = s.reqs := by
  unfold State.copyReply
  split <;> rfl

section
variable {s : State} {tag : Nat} {r : Req} {o : LaneOp}

theorem peerReply_data (hq : s.req? (tag / 32) = some r) (hs : r.stage = .sent) (data : List Byte) :
    s.peerReply tag data false = s.modReq r.id fun q => { q with
      got := q.got ++ [(tag % 32, BitVec.ofNat 128 (leNat data))],
      stage := if q.got.length + 1 = q.ops.length then .served else .sent } := by
  unfold State.peerReply
  simp [hq, hs]

theorem peerReply_fail (hq : s.req? (tag / 32) = some r) (hs : r.stage = .sent) (ho : r.ops = [o]) (hl : o.lane = tag % 32)
    (data : List Byte) :
    { r with id := s.nextId, ops := [o], got := [], stage := .served, err := some .fabricError } ∈ (s.peerReply tag data true).reqs := by
  unfold State.peerReply
  simp [hq, hs, ho, hl]

end

/-! ### Requests looked up and changed -/

theorem id_of_req? {s : State} {id : Nat} {r : Req} (h : s.req? id = some r) : r.id = id :=
  eq_of_beq (List.find?_some (p := fun q : Req => q.id == id) h)

theorem req?_modReq (s : State) (id i : Nat) {f : Req → Req} (hf : ∀ q, (f q).id = q.id) :
    (s.modReq id f).req? i = (s.req? i).map fun q => if q.id = id then f q else q := by
  have hid : ∀ q : Req, (if q.id = id then f q else q).id = q.id := fun q => by
    split
    · exact hf q
    · rfl
  change (s.reqs.map fun q => if q.id = id then f q else q).find? _ = _
  rw [List.find?_map]
  simp only [Function.comp_def, hid]
  rfl

theorem req?_modReq_same {s : State} {id : Nat} {r : Req} (h : s.req? id = some r) {f : Req → Req} (hf : ∀ q, (f q).id = q.id) :
    (s.modReq id f).req? id = some (f r) := by
  rw [req?_modReq s id id hf, h, Option.map_some, if_pos (id_of_req? h)]

theorem req?_of_reqs {s u : State} (h : u.reqs = s.reqs) (id : Nat) : u.req? id = s.req? id := by
  rw [State.req?, h]
  rfl

theorem closeReplies_id (r : Req) : r.closeReplies.id = r.id := by
  unfold Req.closeReplies
  split
  · rfl
  · split
    · rfl
    · split <;> rfl

theorem closeReplies_failed {r : Req} : r.closeReplies.ops = r.ops ∧ r.closeReplies.stage = r.stage ∧ r.closeReplies.err = r.err ∧
    r.closeReplies.dst = r.dst := by
  unfold Req.closeReplies
  split
  · exact ⟨rfl, rfl, rfl, rfl⟩
  · split
    · exact ⟨rfl, rfl, rfl, rfl⟩
    · split <;> exact ⟨rfl, rfl, rfl, rfl⟩

/-- A reply's value bound to a register that takes it as it is, and dropped where the request has no register. -/
theorem closeReplies_served {r : Req} (hs : r.stage = .served) (hg : r.sgn = false) :
    r.closeReplies = { r with got := if r.dst = .none then [] else r.got } := by
  unfold Req.closeReplies
  rw [if_neg (not_not.2 hs)]
  by_cases hd : r.dst = .none
  · rw [if_pos hd, if_pos hd]
  · rw [if_neg hd, if_neg hd, if_neg (by simp [hg])]

/-- Settles O18: outside replay a request's accesses move bytes and no more, its answer is the last flit sent, and the answer to a
request of one lane finds it waiting. -/
theorem peersAreServed : Obligations.PeersAreServed := by
  intro s m
  refine ⟨fun hb hn hk ho hs hr hc => ⟨fun va n pa hop hw hn0 hal hm => ?_, fun va d pa hop hw hn0 hal hm => ?_⟩,
    fun data fail bad r o hn hop ho hd hr hq hst hops hl hg => ?_⟩
  · obtain ⟨t, ht, hmem⟩ := servePeer_load (s := { s with recd := { s.recd with mode := 0 } }) (port := s.arg.a) rfl hc hop hn0 hal
      (mappedAt_of_mapped hw hm)
    obtain ⟨u, x, hu, hx, htag, hxo, hum⟩ := inboundMessage_ok hb hn hk ho hs hr (by rw [hop]; rfl) ht
    exact ⟨u, x, hu, hx, htag, hxo, fun a => by rw [hum, hmem]⟩
  · obtain ⟨t, ht, hmem⟩ := servePeer_store (s := { s with recd := { s.recd with mode := 0 } }) (port := s.arg.a) rfl hc hop hn0 hal
      (mappedAt_of_mapped hw hm)
    obtain ⟨u, x, hu, hx, htag, hxo, hum⟩ := inboundMessage_ok hb hn hk ho hs hr (by rw [hop]; rfl) ht
    exact ⟨u, x, hu, hx, htag, hxo, fun a => by rw [hum, hmem]; exact readByte_writeBytes ..⟩
  · obtain ⟨t, ht, hreqs⟩ := exec_peerResponseReceive hn hop ho hd hr
    have htq : t.req? (m.tag / 32) = some r := (req?_of_reqs hreqs _).trans hq
    have hid := id_of_req? hq
    refine ⟨fun hf hsg => ⟨_, ht, ?_⟩, fun hf => ?_⟩
    · subst hf
      rw [req?_of_reqs (copyReply_reqs ..), hid, peerReply_data htq hst, hid,
        req?_modReq_same (req?_modReq_same htq (f := fun q => { q with
          got := q.got ++ [(m.tag % 32, BitVec.ofNat 128 (leNat data))]
          stage := if q.got.length + 1 = q.ops.length then .served else .sent }) fun _ => rfl) closeReplies_id]
      refine congrArg some ((closeReplies_served (r := { r with
        got := r.got ++ [(m.tag % 32, BitVec.ofNat 128 (leNat data))]
        stage := if r.got.length + 1 = r.ops.length then .served else .sent }) (by simp [hg, hops]) hsg).trans ?_)
      simp [hg, hops, hl, hid]
    · subst hf
      have hin := List.mem_map_of_mem (f := fun q => if q.id = m.tag / 32 then q.closeReplies else q)
        (peerReply_fail htq hst hops hl data)
      refine ⟨_, _, ht, by rw [copyReply_reqs]; exact hin, ?_⟩
      split
      · obtain ⟨h1, h2, h3, h4⟩ := closeReplies_failed (r := { r with
          id := t.nextId, ops := [o], got := [], stage := .served, err := some .fabricError })
        exact ⟨h1, h2, h3, h4⟩
      · exact ⟨rfl, rfl, rfl, rfl⟩

end Sys2Proof.Machine
end

section
/-! What links carry: flits, replays, stops, ports that go down, and DRAM alerts (O59). -/

namespace Sys2Proof.Machine

/-! ### Ports and channels changed -/

section
variable {s : State} {port vc : Nat}

@[simp] theorem length_modPort (s : State) (port : Nat) (f : VPort → VPort) :
    (s.modPort port f).links.ports.length = s.links.ports.length := length_lmod ..

theorem port_modPort (h : port < s.links.ports.length) (f : VPort → VPort) :
    (s.modPort port f).links.ports.getD port VPort.reset = f (s.links.ports.getD port VPort.reset) :=
  (getD_lmod ..).trans (if_pos ⟨rfl, h⟩)

theorem chan_modPort (h : port < s.links.ports.length) (f : VPort → VPort) (vc : Nat) :
    (s.modPort port f).chan port vc = (f (s.links.ports.getD port VPort.reset)).vcs.getD vc VChan.reset := by
  unfold State.chan
  rw [port_modPort h]

theorem chan_modPort_lset (h : port < s.links.ports.length) (hv : vc < (s.links.ports.getD port VPort.reset).vcs.length) (x : VChan) :
    (s.modPort port fun p => { p with vcs := lset vc x p.vcs }).chan port vc = x := by
  rw [chan_modPort h]
  exact (getD_lmod ..).trans (if_pos ⟨rfl, hv⟩)

/-- A channel's receiving side changed, and the stop that a full one calls for. -/
theorem modBuf_chan (h : port < s.links.ports.length) (hv : vc < (s.links.ports.getD port VPort.reset).vcs.length)
    (f : List PeerMsg → List PeerMsg) : ((s.modBuf port vc f).chan port vc).buf = f (s.chan port vc).buf := by
  unfold State.modBuf
  dsimp only
  split
  · exact congrArg VChan.buf (chan_modPort_lset h hv _)
  · split
    · exact congrArg VChan.buf (chan_modPort_lset h hv _)
    · exact congrArg VChan.buf (chan_modPort_lset h hv _)

theorem modBuf_stops (f : List PeerMsg → List PeerMsg) (hs : (s.chan port vc).stopSent = false)
    (hf : 16 ≤ (f (s.chan port vc).buf).length) : .stopGo port vc true ∈ (s.modBuf port vc f).outbox := by
  have hfree : 32 - (f (s.chan port vc).buf).length ≤ 16 := by omega
  unfold State.modBuf
  simp only [hs, hfree, Bool.not_false, Bool.true_and, decide_true, if_true]
  exact List.mem_append_right _ (List.mem_singleton_self _)

end

/-! ### Flits received -/

section
variable {s : State} {port : Nat}

/-- An error recorded, with what journals and memory keep of it, leaves ports, inputs and what was sent. -/
theorem errRecord_journalOnly (s : State) (type outcome unit addr : Nat) (loc : Word) (syn kind : Nat) :
    JournalOnly s (s.errRecord type outcome unit addr loc syn kind) := by
  have ho : ∀ t : State, JournalOnly t t.openSlot := fun t => by
    unfold State.openSlot
    split
    · exact openLine_journalOnly ..
    · exact .refl t
  unfold State.errRecord
  split
  · exact ((ho _).trans (ho _)).trans (errRaw_journalOnly ..)
  · exact errRaw_journalOnly ..

theorem scheduleTest_journalOnly (s : State) (unit : BitVec 4) (loc : Word) (addr : Nat) (owner : PendingTest → Bool) :
    JournalOnly s (s.scheduleTest unit loc addr owner) := by
  unfold State.scheduleTest
  split
  · exact .refl s
  · split
    · exact errRecord_journalOnly ..
    · exact withMem_journalOnly ..

/-- What an unsound flit leaves: its port asks for a replay and is marked, and the ninth in a row takes the port down. -/
theorem badFlit_asks (s : State) (port : Nat) :
    .replayRequest port ∈ (s.badFlit port).outbox ∧
      (s.badFlit port).links = (s.modPort port fun v =>
        { v with rxFails := v.rxFails + 1, crcErr := true, replays := replaysUp v.replays }).links ∧
      ((s.links.ports.getD port VPort.reset).rxFails = 8 → (.vilbinPortDown, { a := port }) ∈ (s.badFlit port).inputs) := by
  unfold State.badFlit
  extract_lets v loc s1 s2
  have h2 : s2.outbox = s1.outbox ∧ s2.links = s1.links := by
    have hj := (errRecord_journalOnly s1 14 0 3 0 loc 0 0).trans
      (scheduleTest_journalOnly _ 3 loc 0 fun t => (fld t.loc 0 6).toNat == port)
    constructor
    · simp only [s2, bump_outbox]
      rw [hj.same]
    · simp only [s2, bump_links]
      rw [hj.same]
  have hin : .replayRequest port ∈ s2.outbox := by
    rw [h2.1]
    exact List.mem_append_right _ (List.mem_singleton_self _)
  split
  · exact ⟨hin, h2.2, fun _ => List.mem_append_right _ (List.mem_singleton_self _)⟩
  · exact ⟨hin, h2.2, fun h => absurd h ‹_›⟩

theorem exec_vilbinFlitReceive_sound {m : PeerMsg} (hp : s.arg.a < 24) (hc : s.arg.b < 4)
    (hst : (s.links.ports.getD s.arg.a VPort.reset).st = 1) (hf : s.arg.flag = true) (hm : s.arg.msg = some m)
    (hb : (s.chan s.arg.a s.arg.b).buf.length < 32) :
    exec .vilbinFlitReceive s = .next ((s.modPort s.arg.a fun v => { v with rxFails := 0 }).modBuf s.arg.a s.arg.b (· ++ [m])) := by
  change execVilbinFlitReceive s = _
  unfold execVilbinFlitReceive
  simp only [not_le.2 hp, not_le.2 hc, hst, hf, hm, not_le.2 hb, ne_eq, not_true, or_self, if_false, Bool.not_true, Bool.false_eq_true]

theorem exec_vilbinFlitReceive_unsound (hp : s.arg.a < 24) (hc : s.arg.b < 4)
    (hst : (s.links.ports.getD s.arg.a VPort.reset).st = 1) (hf : s.arg.flag = false) :
    exec .vilbinFlitReceive s = .next (s.badFlit s.arg.a) := by
  change execVilbinFlitReceive s = _
  unfold execVilbinFlitReceive
  simp only [not_le.2 hp, not_le.2 hc, hst, hf, ne_eq, not_true, or_self, if_false, Bool.not_false, if_true]

theorem flitReceive_sound {m : PeerMsg} (hp : s.arg.a < 24) (hc : s.arg.b < 4) (hl : s.arg.a < s.links.ports.length)
    (hv : s.arg.b < (s.links.ports.getD s.arg.a VPort.reset).vcs.length)
    (hst : (s.links.ports.getD s.arg.a VPort.reset).st = 1) (hf : s.arg.flag = true) (hm : s.arg.msg = some m)
    (hb : (s.chan s.arg.a s.arg.b).buf.length < 32) :
    ∃ u, exec .vilbinFlitReceive s = .next u ∧ (u.chan s.arg.a s.arg.b).buf = (s.chan s.arg.a s.arg.b).buf ++ [m] ∧
      ((s.chan s.arg.a s.arg.b).stopSent = false → 15 ≤ (s.chan s.arg.a s.arg.b).buf.length →
        .stopGo s.arg.a s.arg.b true ∈ u.outbox) ∧
      u = { s with links := u.links, outbox := u.outbox } := by
  have hch : (s.modPort s.arg.a fun v => { v with rxFails := 0 }).chan s.arg.a s.arg.b = s.chan s.arg.a s.arg.b := chan_modPort hl ..
  have hl' : s.arg.a < (s.modPort s.arg.a fun v => { v with rxFails := 0 }).links.ports.length := by
    rwa [length_modPort]
  refine ⟨_, exec_vilbinFlitReceive_sound hp hc hst hf hm hb, ?_, fun hs hn => ?_, modBuf_same ..⟩
  · rw [modBuf_chan hl' (by rw [port_modPort hl]; exact hv), hch]
  · exact modBuf_stops _ (by rw [hch, hs]) (by rw [hch, List.length_append, List.length_singleton]; omega)

theorem flitReceive_unsound (hp : s.arg.a < 24) (hc : s.arg.b < 4) (hl : s.arg.a < s.links.ports.length)
    (hst : (s.links.ports.getD s.arg.a VPort.reset).st = 1) (hf : s.arg.flag = false) :
    ∃ u, exec .vilbinFlitReceive s = .next u ∧ .replayRequest s.arg.a ∈ u.outbox ∧
      (u.chan s.arg.a s.arg.b).buf = (s.chan s.arg.a s.arg.b).buf ∧
      ((s.links.ports.getD s.arg.a VPort.reset).rxFails = 8 → (.vilbinPortDown, { a := s.arg.a }) ∈ u.inputs) := by
  obtain ⟨hout, hlinks, hdown⟩ := badFlit_asks s s.arg.a
  refine ⟨_, exec_vilbinFlitReceive_unsound hp hc hst hf, hout, ?_, hdown⟩
  rw [State.chan, hlinks]
  exact congrArg VChan.buf (chan_modPort hl _ s.arg.b)

end

/-! ### Replays, stops and ports that go down -/

section
variable {s : State} {port : Nat}

theorem emits_same {α : Type} (f : α → Out) (l : List α) (t : State) :
    l.foldl (fun s x => s.emit (f x)) t = { t with outbox := t.outbox ++ l.map f } := by
  induction l generalizing t with
  | nil => simp
  | cons x l ih =>
    rw [List.foldl_cons, ih]
    simp [State.emit]

/-- A port's flits sent again: they are emitted in order, and the port no longer owes them. -/
theorem resend_same (s : State) (port : Nat) :
    s.resend port = { (s.modPort port fun v => { v with replayDue := false }) with outbox := s.outbox ++
      (((s.links.ports.getD port VPort.reset).replayBuf.filter fun p =>
        decide ((s.links.ports.getD port VPort.reset).replayFrom ≤ p.1)).map fun p => .flit port (vcOf p.2.op) p.2) } :=
  emits_same (fun p : Nat × PeerMsg => .flit port (vcOf p.2.op) p.2) _ _

theorem flitReplay_sends (hp : s.arg.a < 24) (hl : s.arg.a < s.links.ports.length)
    (hst : (s.links.ports.getD s.arg.a VPort.reset).st = 1)
    (hn : ¬((s.links.ports.getD s.arg.a VPort.reset).replayFrom = s.arg.b ∧ 8 ≤ (s.links.ports.getD s.arg.a VPort.reset).replayTries)) :
    ∃ u, exec .flitReplayRequest s = .next u ∧ u.outbox = s.outbox ++
        (if s.linkDown s.arg.a then []
          else ((s.links.ports.getD s.arg.a VPort.reset).replayBuf.filter fun x => decide (s.arg.b ≤ x.1)).map fun x => .flit s.arg.a (vcOf x.2.op) x.2) ∧
        (u.links.ports.getD s.arg.a VPort.reset).replayDue = s.linkDown s.arg.a ∧
        (u.links.ports.getD s.arg.a VPort.reset).replayFrom = s.arg.b ∧
        (u.links.ports.getD s.arg.a VPort.reset).replayTries = (if (s.links.ports.getD s.arg.a VPort.reset).replayFrom = s.arg.b then (s.links.ports.getD s.arg.a VPort.reset).replayTries else 0) + 1 := by
  have htries : ¬ 8 ≤ if (s.links.ports.getD s.arg.a VPort.reset).replayFrom = s.arg.b then (s.links.ports.getD s.arg.a VPort.reset).replayTries else 0 := by
    split
    · exact fun h => hn ⟨‹_›, h⟩
    · omega
  have he : exec .flitReplayRequest s = execFlitReplayRequest s := rfl
  unfold execFlitReplayRequest at he
  simp only [not_le.2 hp, hst, ne_eq, not_true, or_self, if_false, htries] at he
  refine ⟨_, he, ?_⟩
  cases s.linkDown s.arg.a
  · simp only [Bool.false_eq_true, if_false, resend_same, length_modPort, hl, port_modPort]
    exact ⟨rfl, trivial, trivial, trivial⟩
  · simp only [if_true, List.append_nil]
    rw [port_modPort hl]
    exact ⟨rfl, rfl, rfl, rfl⟩

theorem flitReplay_gives_up (hp : s.arg.a < 24) (hst : (s.links.ports.getD s.arg.a VPort.reset).st = 1)
    (hf : (s.links.ports.getD s.arg.a VPort.reset).replayFrom = s.arg.b)
    (ht : 8 ≤ (s.links.ports.getD s.arg.a VPort.reset).replayTries) : exec .flitReplayRequest s = exec .vilbinPortDown s := by
  change execFlitReplayRequest s = execVilbinPortDown s
  unfold execFlitReplayRequest execVilbinPortDown
  simp only [not_le.2 hp, hst, hf, ht, ne_eq, not_true, or_self, if_false, if_true]

theorem stopGo_sets (hp : s.arg.a < 24) (hc : s.arg.b < 4) (hl : s.arg.a < s.links.ports.length)
    (hv : s.arg.b < (s.links.ports.getD s.arg.a VPort.reset).vcs.length) (hq : Rules.NoQueue s) :
    ∃ u, exec .vcStopGo s = .next u ∧ (u.chan s.arg.a s.arg.b).stopped = s.arg.flag ∧ (u.chan s.arg.a s.arg.b).credit = 8 ∧
      u = { s with links := u.links } := by
  have he : exec .vcStopGo s = execVcStopGo s := rfl
  unfold execVcStopGo at he
  have hq' : Rules.NoQueue (s.modPort s.arg.a fun p =>
    { p with vcs := lmod s.arg.b (fun v => { v with stopped := s.arg.flag, credit := 8 }) p.vcs }) := hq
  rw [if_neg (by omega), admitReqs_of_noQueue hq'] at he
  have hch := (chan_modPort hl (fun p : VPort =>
    { p with vcs := lmod s.arg.b (fun v => { v with stopped := s.arg.flag, credit := 8 }) p.vcs }) s.arg.b).trans
    ((getD_lmod ..).trans (if_pos ⟨rfl, hv⟩))
  exact ⟨_, he, congrArg VChan.stopped hch, congrArg VChan.credit hch, rfl⟩

end

/-! ### DRAM alerts -/

section

theorem poke_alerts (s : State) (a : Nat) (bs : List Byte) : (s.poke a bs).mem.alerts = s.mem.alerts := by
  unfold State.poke
  split
  · rfl
  · rw [dirtied_mem]

theorem fold_alerts (s : State) (line : Nat) : (s.fold line).mem.alerts = s.mem.alerts := by
  unfold State.fold
  dsimp only
  split
  · split
    · rfl
    · exact poke_alerts ..
  · rfl

theorem errRaw_alerts (s : State) (type outcome unit addr : Nat) (loc : Word) (syn kind : Nat) :
    (s.errRaw type outcome unit addr loc syn kind).mem.alerts = s.mem.alerts := by
  unfold State.errRaw
  split
  · rfl
  · split
    · rfl
    · dsimp only
      split
      · exact poke_alerts ..
      · rfl

theorem openSlot_alerts (s : State) : s.openSlot.mem.alerts = s.mem.alerts := by
  unfold State.openSlot State.openLine
  split
  · split
    · rfl
    · dsimp only
      split
      · exact (errRaw_alerts ..).trans (fold_alerts ..)
      · exact fold_alerts ..
  · rfl

theorem errRecord_alerts (s : State) (type outcome unit addr : Nat) (loc : Word) (syn kind : Nat) :
    (s.errRecord type outcome unit addr loc syn kind).mem.alerts = s.mem.alerts := by
  unfold State.errRecord
  split
  · exact (errRaw_alerts ..).trans ((openSlot_alerts _).trans (openSlot_alerts _))
  · exact errRaw_alerts ..

theorem errRecord_inputs (s : State) (type outcome unit addr : Nat) (loc : Word) (syn kind : Nat) :
    (s.errRecord type outcome unit addr loc syn kind).inputs = s.inputs := by
  rw [(errRecord_journalOnly ..).same]

theorem alert_fourth {s : State} (ha : s.arg.a < 12) (h : ngetD s.mem.alerts s.arg.a 0 = 8 * s.arg.b + 3) :
    ∃ u x, exec .hbmAlert s = .next u ∧ u.inputs = s.inputs ++ [(.fatalReset, x)] := by
  have h1 : (8 * s.arg.b + 3) / 8 = s.arg.b := by omega
  have h2 : (8 * s.arg.b + 3) % 8 + 1 = 4 := by omega
  have he : exec .hbmAlert s = execHbmAlert s := rfl
  unfold execHbmAlert at he
  simp only [not_le.2 ha, if_false, h, h1, h2, if_true] at he
  exact ⟨_, _, he, congrArg (· ++ _) (errRecord_inputs ..)⟩

theorem alert_first {s : State} (ha : s.arg.a < 12) (h : ngetD s.mem.alerts s.arg.a 0 / 8 ≠ s.arg.b) :
    ∃ u, exec .hbmAlert s = .next u ∧ u.inputs = s.inputs ∧ ngetD u.mem.alerts s.arg.a 0 = 8 * s.arg.b + 1 := by
  have he : exec .hbmAlert s = execHbmAlert s := rfl
  unfold execHbmAlert at he
  simp only [not_le.2 ha, if_false, h, (by decide : ¬ 1 = 4)] at he
  refine ⟨_, he, errRecord_inputs .., ?_⟩
  rw [errRecord_alerts]
  simp [ngetD]

end

end Sys2Proof.Machine
end

section
/-! The admission of some requests leaves every other request as it is, and a port that goes down (O59). -/

namespace Sys2Proof.Machine

/-! ### Requests that an admission does not concern -/

/-- Every request but those of an identity is still there. -/
structure ReqsBut (id : Nat) (s u : State) : Prop where
  mem : ∀ q ∈ s.reqs, q.id ≠ id → q ∈ u.reqs

namespace ReqsBut
variable {id : Nat} {s u v : State}

theorem refl (s : State) : ReqsBut id s s := ⟨fun _ hq _ => hq⟩

theorem trans (h : ReqsBut id s u) (g : ReqsBut id u v) : ReqsBut id s v :=
  ⟨fun q hq hn => g.mem q (h.mem q hq hn) hn⟩

theorem of_reqs (h : u.reqs = s.reqs) : ReqsBut id s u := ⟨fun _ hq _ => h ▸ hq⟩

theorem ite {p : Prop} [Decidable p] (h : ReqsBut id s u) (g : ReqsBut id s v) : ReqsBut id s (if p then u else v) := by
  split
  · exact h
  · exact g

end ReqsBut

theorem modReq_reqsBut (s : State) (id : Nat) (f : Req → Req) : ReqsBut id s (s.modReq id f) :=
  ⟨fun q hq hn => List.mem_map.2 ⟨q, hq, if_neg hn⟩⟩

theorem replayOp_reqs (s : State) (agent : Nat) (addr close : Option Nat) : (s.replayOp agent addr close).reqs = s.reqs := by
  unfold State.replayOp
  split
  · rfl
  · dsimp only
    split_ifs <;> rfl

theorem note_reqs (s : State) (agent issuer lane obj : Nat) (mo : Bool) (addr close : Option Nat) (msgs : List DWord)
    (more : List Nat) : (s.note agent issuer lane obj mo addr close msgs more).reqs = s.reqs := by
  unfold State.note
  split
  · rw [(recordOp_recdOnly ..).same]
  · split
    · split
      · rfl
      · split
        · exact replayOp_reqs ..
        · rfl
    · rfl

theorem valueOf_reqs (s : State) (agent issuer lane kind : Nat) (mask : Word) (live : List DWord) (obj : Nat) (mo : Bool) :
    (s.valueOf agent issuer lane kind mask live obj mo).1.reqs = s.reqs := by
  unfold State.valueOf
  dsimp only
  split
  · split
    · split <;> rfl
    · rfl
  · rw [(recordValue_recdOnly ..).same]

theorem sendMsg_reqs (s : State) (port : Nat) (dev : BitVec 16) (ctx tag : Nat) (op : PeerOp) :
    (s.sendMsg port dev ctx tag op).reqs = s.reqs := by
  unfold State.sendMsg
  dsimp only
  unfold State.sendFlit
  split <;> rfl

theorem sendLanes_reqs (s : State) (r : Req) (dev : BitVec 16) (port : Nat) (l : List LaneOp) :
    (s.sendLanes r dev port l).1.reqs = s.reqs := by
  induction l generalizing s with
  | nil => rfl
  | cons o l ih =>
    unfold State.sendLanes
    split
    · rfl
    · exact (ih _).trans (sendMsg_reqs ..)

theorem noted_reqs (s : State) (r : Req) : (if r.sentN = 0 then s.noteAway r else s).reqs = s.reqs := by
  split
  · exact note_reqs ..
  · rfl

theorem sendPeer_reqsBut (s : State) (r : Req) (dev : BitVec 16) : ReqsBut r.id s (s.sendPeer r dev) := by
  unfold State.sendPeer
  dsimp only
  split
  · exact .refl s
  · split
    · exact modReq_reqsBut ..
    · split
      · exact .refl s
      · exact (ReqsBut.of_reqs ((sendLanes_reqs ..).trans (noted_reqs s r))).trans (modReq_reqsBut ..)

theorem hostAtomSend_reqs (s : State) (r : Req) (link : Nat) (o : LaneOp) : (s.hostAtomSend r link o).reqs = s.reqs := by
  unfold State.hostAtomSend
  split
  · split <;> rfl
  · rfl

theorem replayHost_reqsBut (s : State) (r : Req) (kind : Nat) : ReqsBut r.id s (s.replayHost r kind) := by
  unfold State.replayHost
  exact (ReqsBut.of_reqs ((note_reqs ..).trans (valueOf_reqs ..))).trans (modReq_reqsBut ..)

theorem sendHost_reqsBut (s : State) (r : Req) (link : Nat) : ReqsBut r.id s (s.sendHost r link) := by
  unfold State.sendHost
  dsimp only
  split
  · exact .refl s
  · split
    · exact replayHost_reqsBut ..
    · split
      · exact replayHost_reqsBut ..
      · split
        · exact (modReq_reqsBut ..).ite ((ReqsBut.of_reqs (emit_reqs ..)).trans (modReq_reqsBut ..))
        · split
          · exact modReq_reqsBut ..
          · exact modReq_reqsBut ..
          · exact (ReqsBut.of_reqs (emit_reqs ..)).trans (modReq_reqsBut ..)
          · split
            · exact (ReqsBut.of_reqs (hostAtomSend_reqs ..)).trans (modReq_reqsBut ..)
            · exact .refl s

theorem sendContrib_reqsBut {s u : State} {r : Req} {slot : Nat} {o : LaneOp} (h : s.sendContrib r slot o = some u) :
    ReqsBut r.id s u := by
  unfold State.sendContrib at h
  split at h
  · cases h
    exact modReq_reqsBut ..
  · rename_i w _
    have hput : ∀ m, ReqsBut r.id s { s with links := { s.links with windows := m } } := fun _ => .of_reqs rfl
    dsimp only at h
    split_ifs at h
    · cases h
      exact (hput _).trans (modReq_reqsBut ..)
    · cases h
      exact (hput _).trans (.of_reqs (sendMsg_reqs ..))

theorem sendContribs_reqsBut (s : State) (r : Req) (slot : Nat) (l : List LaneOp) : ReqsBut r.id s (s.sendContribs r slot l).1 := by
  induction l generalizing s with
  | nil => exact .refl s
  | cons o l ih =>
    unfold State.sendContribs
    split
    · exact .refl s
    · exact (sendContrib_reqsBut ‹_›).trans (ih _)

theorem sendWindow_reqsBut (s : State) (r : Req) (slot : Nat) : ReqsBut r.id s (s.sendWindow r slot) := by
  unfold State.sendWindow
  have ht := noted_reqs s r
  revert ht
  generalize (if r.sentN = 0 then s.noteAway r else s) = t
  intro ht
  split
  · exact .refl s
  · dsimp only
    split
    · exact .refl s
    · exact ((ReqsBut.of_reqs ht).trans (sendContribs_reqsBut ..)).trans (modReq_reqsBut ..)

theorem admitReq_reqsBut (s : State) (id : Nat) : ReqsBut id s (s.admitReq id) := by
  unfold State.admitReq
  dsimp only
  split
  · exact .refl s
  · rename_i r hr
    have hid := id_of_req? hr
    subst hid
    split
    · exact .refl s
    · split
      · exact modReq_reqsBut ..
      · exact sendHost_reqsBut ..
      · exact sendPeer_reqsBut ..
      · exact sendWindow_reqsBut ..
      · split
        · exact modReq_reqsBut ..
        · exact (modReq_reqsBut ..).ite (((ReqsBut.of_reqs (modBank_reqs ..)).trans (modReq_reqsBut ..)).ite (.refl s))

/-- A request that no request waiting to leave its core shares its identity with stays as it is. -/
theorem mem_admitReqs {s : State} {q : Req} (hq : q ∈ s.reqs) (hid : ∀ r ∈ s.reqs, r.id = q.id → r.stage ≠ .queued ∧ r.unsent = false) :
    q ∈ s.admitReqs.reqs := by
  have hall : ∀ id ∈ (s.reqs.filter fun r => r.stage == .queued || r.unsent).map fun r => r.id, q.id ≠ id := by
    intro id h he
    obtain ⟨r, hr, rfl⟩ := List.mem_map.1 h
    obtain ⟨hr, hw⟩ := List.mem_filter.1 hr
    obtain ⟨h1, h2⟩ := hid r hr he.symm
    simp [h1, h2] at hw
  unfold State.admitReqs
  generalize ((s.reqs.filter fun r => r.stage == .queued || r.unsent).map fun r => r.id) = l at hall
  clear hid
  induction l generalizing s with
  | nil => exact hq
  | cons id l ih =>
    exact ih ((admitReq_reqsBut s id).mem q hq (hall id List.mem_cons_self)) fun i hi => hall i (List.mem_cons_of_mem _ hi)

end Sys2Proof.Machine
end

section
/-! A port that goes down (O59). -/

namespace Sys2Proof.Machine

theorem notice_same (s : State) (c : Nat) (cause : Cause) (va pc : DWord) (lseq : Word) (core : Nat) :
    (s.notice c cause va pc lseq core).reqs = s.reqs ∧ (s.notice c cause va pc lseq core).links = s.links := by
  unfold State.notice
  dsimp only
  split
  · exact ⟨rfl, rfl⟩
  · split
    · exact ⟨rfl, rfl⟩
    · unfold State.faultRing
      dsimp only
      rw [modCtx_reqs, modCtx_links, (pokePa_journalOnly ..).same]
      exact ⟨rfl, rfl⟩

theorem notices_same (s : State) (cs : List Nat) (cause : Cause) (va pc : DWord) (lseq : Word) (core : Nat) :
    (cs.foldl (fun t c => t.notice c cause va pc lseq core) s).reqs = s.reqs ∧
      (cs.foldl (fun t c => t.notice c cause va pc lseq core) s).links = s.links := by
  induction cs generalizing s with
  | nil => exact ⟨rfl, rfl⟩
  | cons c cs ih =>
    obtain ⟨h1, h2⟩ := ih (s.notice c cause va pc lseq core)
    obtain ⟨h3, h4⟩ := notice_same s c cause va pc lseq core
    exact ⟨h1.trans h3, h2.trans h4⟩

/-- The one request of its identity, of which no contribution to a window is in flight. -/
structure Alone (q : Req) (s : State) : Prop where
  mem : q ∈ s.reqs
  only : ∀ r ∈ s.reqs, r.id = q.id → r = q
  away : ∀ w ∈ s.links.windows, ∀ x ∈ w.2.pend, x.req ≠ q.id

namespace Alone
variable {q : Req} {s : State}

theorem modReq (h : Alone q s) {id : Nat} (hn : id ≠ q.id) {f : Req → Req} (hf : ∀ r, (f r).id = r.id) : Alone q (s.modReq id f) := by
  refine ⟨(modReq_reqsBut s id f).mem q h.mem hn.symm, fun r hr he => ?_, h.away⟩
  obtain ⟨r', hr', rfl⟩ := List.mem_map.1 hr
  split at he
  · exact absurd ((by assumption : r'.id = id).symm.trans ((hf r').symm.trans he)) hn
  · rw [if_neg ‹_›]
    exact h.only r' hr' he

theorem modWindow (h : Alone q s) (slot : Nat) {f : Window → Window} 
    (hf : ∀ w, nget s.links.windows slot = some w → ∀ x ∈ (f w).pend, x ∈ w.pend) :
    Alone q (s.modWindow slot f) := by
  unfold State.modWindow
  split
  · exact h
  · rename_i w hw
    refine ⟨h.mem, h.only, fun v hv x hx => ?_⟩
    obtain rfl | hv := mem_nput hv
    · exact h.away _ (mem_of_nget hw) x (hf w hw x hx)
    · exact h.away v hv x hx

theorem endContribs (h : Alone q s) (slot : Nat) (mine : WinContrib → Bool) (err : Option Cause) :
    Alone q (s.endContribs slot mine err) := by
  unfold State.endContribs
  split
  · exact h
  · rename_i w hw
    have hp : ∀ p ∈ w.pend.filter mine, p.req ≠ q.id := fun p hp => h.away _ (mem_of_nget hw) p (List.mem_filter.1 hp).1
    have h0 : Alone q (s.modWindow slot fun w' => { w' with pend := w.pend.filter fun p => !mine p }) := by
      refine h.modWindow slot fun v hv x hx => ?_
      obtain rfl : w = v := Option.some.inj (hw.symm.trans hv)
      exact (List.mem_filter.1 hx).1
    dsimp only
    generalize (s.modWindow slot fun w' => { w' with pend := w.pend.filter fun p => !mine p }) = t at h0
    generalize w.pend.filter mine = l at hp
    induction l generalizing t with
    | nil => exact h0
    | cons p l ih =>
      refine ih _ (h0.modReq (hp p List.mem_cons_self) fun r => ?_) fun x hx => hp x (List.mem_cons_of_mem _ hx)
      cases err <;> rfl

end Alone

/-- Contributions that end leave the ports of the links. -/
theorem endContribs_ports (s : State) (slot : Nat) (mine : WinContrib → Bool) (err : Option Cause) :
    (s.endContribs slot mine err).links.ports = s.links.ports := by
  unfold State.endContribs
  split
  · rfl
  · rename_i w _
    have h0 : ∀ f, (s.modWindow slot f).links.ports = s.links.ports := fun f => by
      unfold State.modWindow
      split <;> rfl
    have hw := h0 fun w' => { w' with pend := w.pend.filter fun p => !mine p }
    dsimp only
    generalize (s.modWindow slot fun w' => { w' with pend := w.pend.filter fun p => !mine p }) = t at hw
    generalize w.pend.filter mine = l
    induction l generalizing t with
    | nil => exact hw
    | cons p l ih => exact ih _ hw

/-- Whether a request has been sent over a port to a peer. -/
def State.overPort (s : State) (port : Nat) (r : Req) : Bool :=
  r.stage == .sent && match r.home with
    | .peer dev => s.portFor dev r.line == port
    | _ => false

/-- A port down that no copy and no collective uses: its requests have failed, and so have the contributions sent over it. -/
theorem portDown_calm {s : State} {port : Nat} (hk : ∀ k ∈ s.cmds, s.onPort port k = false) (hc : ∀ c ∈ s.colls, port ∉ c.ports)
    (hl : port < s.links.ports.length) :
    ∃ t, s.portDown port = (List.range 16).foldl (fun u slot => u.endContribs slot (fun x => x.port == port) (some .fabricError)) t ∧
      t.reqs = (s.reqs.map fun r => if s.overPort port r then { r with stage := .served, err := some .fabricError } else r) ∧
      t.links.windows = s.links.windows ∧ (t.links.ports.getD port VPort.reset).service = (2, true) := by
  have hk' : s.cmds.filter (s.onPort port) = [] := List.filter_eq_nil_iff.2 fun k h => by simp [hk k h]
  have hc' : (s.colls.filter fun c => c.held && c.ports.contains port) = [] := List.filter_eq_nil_iff.2 fun c h => by
    simp [hc c h]
  unfold State.portDown
  simp only [hk', hc', List.map_nil, List.foldl_nil]
  refine ⟨_, rfl, ?_, ?_, ?_⟩
  · obtain ⟨h, -⟩ := notices_same s (s.portUsers port (s.overPort port)) .linkDown 0 0 0 0
    exact congrArg (List.map _) h
  · obtain ⟨-, h⟩ := notices_same s (s.portUsers port (s.overPort port)) .linkDown 0 0 0 0
    have hw := congrArg Links.windows h
    exact hw
  · obtain ⟨-, h⟩ := notices_same s (s.portUsers port (s.overPort port)) .linkDown 0 0 0 0
    have hl' : port < ((s.portUsers port (s.overPort port)).foldl (fun t c => t.notice c .linkDown 0 0 0 0) s).links.ports.length := by
      rwa [h]
    exact congrArg VPort.service (port_modPort hl' _)

theorem portDown_fails {s : State} (hp : s.arg.a < 24) (hl : s.arg.a < s.links.ports.length)
    (hst : (s.links.ports.getD s.arg.a VPort.reset).st = 1) (hd : (s.reqs.map fun q => q.id).Nodup)
    (hk : ∀ k ∈ s.cmds, s.onPort s.arg.a k = false) (hc : ∀ c ∈ s.colls, s.arg.a ∉ c.ports) :
    ∃ u, exec .vilbinPortDown s = .next u ∧
      (u.links.ports.getD s.arg.a VPort.reset).st = 2 ∧ (u.links.ports.getD s.arg.a VPort.reset).downEv = true ∧
      ∀ r dev, r ∈ s.reqs → r.stage = .sent → r.home = .peer dev → s.portFor dev r.line = s.arg.a →
        (∀ w ∈ s.links.windows, ∀ x ∈ w.2.pend, x.req ≠ r.id) →
        ∃ q ∈ u.reqs, q.id = r.id ∧ q.stage = .served ∧ q.err = some .fabricError := by
  have he : exec .vilbinPortDown s = execVilbinPortDown s := rfl
  unfold execVilbinPortDown at he
  rw [if_neg (not_or.2 ⟨not_le.2 hp, not_not.2 hst⟩)] at he
  obtain ⟨t, ht, hreqs, hwin, hsrv⟩ := portDown_calm hk hc hl
  have hports : (s.portDown s.arg.a).links.ports = t.links.ports := by
    rw [ht]
    generalize List.range 16 = l
    clear ht hreqs hwin hsrv
    induction l generalizing t with
    | nil => rfl
    | cons n l ih => exact (ih _).trans (endContribs_ports ..)
  have hsrv' : ((s.portDown s.arg.a).admitReqs.links.ports.getD s.arg.a VPort.reset).service = (2, true) := by
    rw [(admitReqs_admitOnly _).port_service, hports, hsrv]
  refine ⟨_, he, congrArg Prod.fst hsrv', congrArg Prod.snd hsrv', fun r dev hr hs hh hpf hw => ?_⟩
  have hover : s.overPort s.arg.a r = true := by simp [State.overPort, hs, hh, hpf]
  have hq : Alone { r with stage := .served, err := some .fabricError } t := by
    refine ⟨?_, fun r' hr' hid => ?_, fun w h => hw w (hwin ▸ h)⟩
    · rw [hreqs]
      exact List.mem_map.2 ⟨r, hr, if_pos hover⟩
    · rw [hreqs] at hr'
      obtain ⟨x, hx, rfl⟩ := List.mem_map.1 hr'
      have hxr : x = r := List.inj_on_of_nodup_map hd hx hr (by
        revert hid
        split <;> exact id)
      subst hxr
      exact if_pos hover
  have hq' : Alone { r with stage := .served, err := some .fabricError } (s.portDown s.arg.a) := by
    rw [ht]
    generalize List.range 16 = l
    clear ht hreqs hwin hsrv hports
    induction l generalizing t with
    | nil => exact hq
    | cons n l ih => exact ih _ (hq.endContribs ..)
  refine ⟨_, mem_admitReqs hq'.mem fun r' hr' hid => ?_, rfl, rfl, rfl⟩
  rw [hq'.only r' hr' hid]
  exact ⟨by simp, by simp [Req.unsent]⟩

/-- What links carry: the first half of O59. -/
theorem linksCarry : Rules.LinksCarry := by
  intro s
  refine ⟨fun hp hl hc hv hst => ⟨fun m hf hm hb => flitReceive_sound hp hc hl hv hst hf hm hb, flitReceive_unsound hp hc hl hst,
    flitReplay_sends hp hl hst, flitReplay_gives_up hp hst, stopGo_sets hp hc hl hv, portDown_fails hp hl hst⟩,
    fun ha => ⟨alert_fourth ha, alert_first ha⟩⟩

end Sys2Proof.Machine
end

section
/-! What reduction windows do (O59). -/

namespace Sys2Proof.Machine

/-! ### The end of contributions -/

theorem modWindow_of_some {s : State} {slot : Nat} {w : Window} (h : nget s.links.windows slot = some w) (f : Window → Window) :
    s.modWindow slot f = { s with links := { s.links with windows := nput slot (f w) s.links.windows } } := by
  unfold State.modWindow
  rw [h]

/-- A request whose lane's contribution ends; `last` tells that no other is in flight. -/
def Req.endLane (r : Req) (lane : Nat) (err : Option Cause) (last : Bool) : Req :=
  { (match err with
      | some k => r.failLane lane k
      | none => r) with
    stage := if last && decide (r.ops.length ≤ r.sentN) then .served else r.stage }

/-- A request of one contribution, which has ended. -/
def Req.ended (r : Req) (lane : Nat) (err : Option Cause) : Req :=
  { r with stage := .served, err := err, bad := if err.isSome then r.bad ||| laneBit lane else r.bad }

theorem endLane_id (r : Req) (lane : Nat) (err : Option Cause) (last : Bool) : (r.endLane lane err last).id = r.id := by
  cases err <;> rfl

theorem endLane_last {r : Req} (he : r.err = none) (hn : r.ops.length ≤ r.sentN) (lane : Nat) (err : Option Cause) :
    r.endLane lane err true = r.ended lane err := by
  cases err with
  | none => simp [Req.endLane, Req.ended, hn, he]
  | some k => simp [Req.endLane, Req.ended, Req.failLane, hn, he]

theorem endLane_ended {r : Req} (hn : r.ops.length ≤ r.sentN) (lane : Nat) (err : Option Cause) :
    (r.ended lane err).endLane lane err true = r.ended lane err := by
  cases err with
  | none => simp [Req.endLane, Req.ended, hn]
  | some k => simp [Req.endLane, Req.ended, Req.failLane, hn, BitVec.or_assoc]

theorem endContribs_of_some {s : State} {slot : Nat} {w : Window} (h : nget s.links.windows slot = some w) (mine : WinContrib → Bool)
    (err : Option Cause) :
    s.endContribs slot mine err = (w.pend.filter mine).foldl
      (fun t p => t.modReq p.req fun r => r.endLane p.lane err (!(w.pend.filter fun p => !mine p).any fun q => q.req == p.req))
      { s with links := { s.links with windows := nput slot { w with pend := w.pend.filter fun p => !mine p } s.links.windows } } := by
  unfold State.endContribs
  rw [h]
  dsimp only
  rw [modWindow_of_some h]
  rfl

/-- Contributions end in turn: the one of its request finishes it, however often it stands in the list. -/
theorem foldl_endLane {p : WinContrib} {r : Req} {err : Option Cause} {last : WinContrib → Bool} (hl : last p = true)
    (he : r.err = none) (hn : r.ops.length ≤ r.sentN) (l : List WinContrib) (hu : ∀ q ∈ l, q.req = p.req → q = p) {t : State}
    (ht : (p ∈ l ∧ t.req? p.req = some r) ∨ t.req? p.req = some (r.ended p.lane err)) :
    (l.foldl (fun t p => t.modReq p.req fun r => r.endLane p.lane err (last p)) t).req? p.req = some (r.ended p.lane err) := by
  induction l generalizing t with
  | nil =>
    obtain ⟨h, -⟩ | h := ht
    · exact absurd h List.not_mem_nil
    · exact h
  | cons q l ih =>
    refine ih (fun x hx => hu x (List.mem_cons_of_mem _ hx)) ?_
    by_cases hq : q.req = p.req
    · obtain rfl := hu q List.mem_cons_self hq
      right
      obtain ⟨-, h⟩ | h := ht
      · rw [req?_modReq_same h fun r => endLane_id .., hl, endLane_last he hn]
      · rw [req?_modReq_same h fun r => endLane_id .., hl, endLane_ended hn]
    · have hsame : (t.modReq q.req fun r => r.endLane q.lane err (last q)).req? p.req = t.req? p.req := by
        rw [req?_modReq _ _ _ fun r => endLane_id ..]
        cases h : t.req? p.req with
        | none => rfl
        | some x => rw [Option.map_some, if_neg (by rw [id_of_req? h]; exact fun h => hq h.symm)]
      rw [hsame]
      refine ht.imp_left fun h => ⟨?_, h.2⟩
      exact (List.mem_cons.1 h.1).resolve_left fun h => hq (h ▸ rfl)

/-- The contributions of a window that a test picks end: each request of one contribution is served. -/
theorem endContribs_finishes {s : State} {slot : Nat} {w : Window} (h : nget s.links.windows slot = some w) {mine : WinContrib → Bool}
    (err : Option Cause) {p : WinContrib} {r : Req} (hp : p ∈ w.pend) (hm : mine p = true) (hr : s.req? p.req = some r)
    (he : r.err = none) (hn : r.ops.length ≤ r.sentN) (hu : ∀ q ∈ w.pend, q.req = p.req → q = p) :
    (s.endContribs slot mine err).req? p.req = some (r.ended p.lane err) := by
  rw [endContribs_of_some h]
  refine foldl_endLane ?_ he hn _ (fun q hq => hu q (List.mem_filter.1 hq).1) (.inl ⟨List.mem_filter.2 ⟨hp, hm⟩, hr⟩)
  rw [Bool.not_eq_true', List.any_eq_false]
  intro q hq heq
  obtain ⟨hq, hqm⟩ := List.mem_filter.1 hq
  rw [hu q hq (eq_of_beq heq), hm] at hqm
  exact absurd hqm (by simp)

theorem foldl_modReq_same {α : Type} (f : α → Nat) (g : α → Req → Req) (l : List α) (t : State) :
    l.foldl (fun t p => t.modReq (f p) (g p)) t = { t with reqs := (l.foldl (fun t p => t.modReq (f p) (g p)) t).reqs } := by
  induction l generalizing t with
  | nil => rfl
  | cons a l ih => rw [List.foldl_cons, ih]; rfl

theorem endContribs_same (s : State) (slot : Nat) (mine : WinContrib → Bool) (err : Option Cause) :
    s.endContribs slot mine err =
      { s with reqs := (s.endContribs slot mine err).reqs, links := (s.endContribs slot mine err).links } := by
  cases h : nget s.links.windows slot with
  | none =>
    unfold State.endContribs
    rw [h]
  | some w => rw [endContribs_of_some h, foldl_modReq_same]

theorem endRound_same (s : State) (slot elem round : Nat) (err : Option Cause) :
    s.endRound slot elem round err =
      { s with reqs := (s.endRound slot elem round err).reqs, links := (s.endRound slot elem round err).links } := by
  unfold State.endRound State.endContribution
  rw [endContribs_same]
  unfold State.modWindow
  split <;> rfl

/-- How the contributions to a round of a window end: each request of one contribution is served. -/
def RoundEnds (s : State) (w : Window) (u : State) (elem round : Nat) (err : Option Cause) : Prop :=
  ∀ p r, p ∈ w.pend → p.elem = elem → p.round = round → s.req? p.req = some r → r.err = none → r.ops.length ≤ r.sentN →
    (∀ q ∈ w.pend, q.req = p.req → q = p) → u.req? p.req = some (r.ended p.lane err)

theorem endRound_ends {s : State} {slot : Nat} {w : Window} (h : nget s.links.windows slot = some w) (elem round : Nat)
    (err : Option Cause) : RoundEnds s w (s.endRound slot elem round err) elem round err := by
  intro p r hp hel hro hr he hn hu
  unfold State.endRound State.endContribution
  rw [modWindow_of_some h]
  exact endContribs_finishes (w := { w with merged := nput elem (round + 1) w.merged }) (nget_nput_same ..) err hp
    (by simp [hel, hro]) hr he hn hu

theorem RoundEnds.congr {s s' u u' : State} {w : Window} {elem round : Nat} {err : Option Cause} (h : RoundEnds s w u elem round err)
    (hs : s.reqs = s'.reqs) (hu : u'.reqs = u.reqs) : RoundEnds s' w u' elem round err := by
  intro p r hp hel hro hr he hn hq
  rw [req?_of_reqs hu]
  exact h p r hp hel hro ((req?_of_reqs hs _).trans hr) he hn hq

/-! ### The switches' result of a round -/

theorem answerPeer_reqs (s : State) (port : Nat) (m : PeerMsg) (data : List Byte) (fail poisoned : Bool) :
    (s.answerPeer port m data fail poisoned).reqs = s.reqs := sendMsg_reqs ..

theorem answerPeer_mem (s : State) (port : Nat) (m : PeerMsg) (data : List Byte) (fail poisoned : Bool) :
    (s.answerPeer port m data fail poisoned).mem = s.mem := (sendMsg_admitOnly ..).mem

theorem answerPeer_flit {s : State} (hr : s.replaying = false) (port : Nat) (m : PeerMsg) (data : List Byte) (fail poisoned : Bool) :
    ∃ x, .flit port 1 x ∈ (s.answerPeer port m data fail poisoned).outbox ∧ x.tag = m.tag ∧ x.op = .answer data fail poisoned :=
  sendMsg_flit hr ..

theorem modBuf_mem (s : State) (port vc : Nat) (f : List PeerMsg → List PeerMsg) : (s.modBuf port vc f).mem = s.mem := by
  rw [modBuf_same]

theorem modBuf_reqs (s : State) (port vc : Nat) (f : List PeerMsg → List PeerMsg) : (s.modBuf port vc f).reqs = s.reqs := by
  rw [modBuf_same]

theorem endRound_mem (s : State) (slot elem round : Nat) (err : Option Cause) : (s.endRound slot elem round err).mem = s.mem := by
  rw [endRound_same]

section
variable {s : State} {slot : Nat} {w : Window} {m : PeerMsg} {home : BitVec 16} {winid : Word} {elem round size : Nat} {val : DWord}
  {fail : Bool}

theorem exec_windowMergedResult (hn : s.nextMsg s.arg.a 3 = some m) (ho : m.op = .merged home winid elem round size val fail)
    (hw : s.windowOf home winid elem round size = some (slot, w)) (hk : s.kindling = false) (hd : s.linkDown s.arg.a = false)
    (hm : s.mayOp (portAgent s.arg.a) 0 0 = true) (hs : w.desc.role = 2 ∨ fail = true ∨ s.maySend s.arg.a 1 = true) {u : State}
    (hu : s.takeMerged s.arg.a slot w m elem round val fail = (u, true)) :
    exec .windowMergedResult s = .next (u.modBuf s.arg.a 3 fun l => l.erase m) := by
  have hs' : ¬(w.desc.role ≠ 2 ∧ (!fail) = true ∧ (!s.maySend s.arg.a 1) = true) := by
    rintro ⟨h1, h2, h3⟩
    obtain h | h | h := hs
    · exact h1 h
    · simp [h] at h2
    · simp [h] at h3
  change execWindowMergedResult s = _
  unfold execWindowMergedResult
  simp only [hn, hk, hd, hm, ho, hw, hs', hu, Bool.or_self, Bool.not_true, Bool.false_eq_true, if_false, if_true]

/-- On a source, or of a round that failed, the result only ends contributions. -/
theorem merged_ends (hwin : nget s.links.windows slot = some w) (hn : s.nextMsg s.arg.a 3 = some m)
    (ho : m.op = .merged home winid elem round size val fail) (hw : s.windowOf home winid elem round size = some (slot, w))
    (hk : s.kindling = false) (hd : s.linkDown s.arg.a = false) (hm : s.mayOp (portAgent s.arg.a) 0 0 = true)
    (hr : s.replaying = false) (hs : w.desc.role = 2 ∨ fail = true) :
    ∃ u, exec .windowMergedResult s = .next u ∧ RoundEnds s w u elem round (if fail then some .fabricError else none) ∧
      u.mem = s.mem := by
  have ht : s.takeMerged s.arg.a slot w m elem round val fail =
      ((s.noteMsg s.arg.a 3 m [] false).endRound slot elem round (if fail then some .fabricError else none), true) := by
    unfold State.takeMerged
    exact if_pos hs
  have hnote := noteMsg_recdOnly hr s.arg.a 3 m [] false
  have hwin' : nget (s.noteMsg s.arg.a 3 m [] false).links.windows slot = some w := by
    rw [hnote.same]
    exact hwin
  refine ⟨_, exec_windowMergedResult hn ho hw hk hd hm (hs.imp_right .inl) ht,
    (endRound_ends hwin' elem round _).congr (by rw [hnote.same]) (by rw [modBuf_reqs]), ?_⟩
  rw [modBuf_mem, endRound_mem, hnote.same]

/-- The value of a round applied at its home: one read-modify-write of the element's bytes. -/
theorem applyMerged_ok (hr : s.replaying = false) (hc : Rules.CalmMemory s w.ctx) {pa : Nat}
    (hm : MappedAt s (s.ctlEng w.ctx (portAgent (s.portFor s.devid elem))).k (s.ctlEng w.ctx (portAgent (s.portFor s.devid elem))).b
      false true (w.desc.base + BitVec.ofNat 64 (w.desc.size * elem)) w.desc.size pa)
    (hm' : MappedAt s (s.ctlEng w.ctx (portAgent (s.portFor s.devid elem))).k (s.ctlEng w.ctx (portAgent (s.portFor s.devid elem))).b
      true true (w.desc.base + BitVec.ofNat 64 (w.desc.size * elem)) w.desc.size pa) :
    ∃ t bs, s.applyMerged w elem val = .ok t bs ∧ EngState s t ∧ t.mem.bytes = writeBytes s.mem.bytes pa
      (leBytes w.desc.size (atomNew w.desc.aop w.desc.size (leNat (readBytes s.mem.bytes pa w.desc.size)) val.toNat)) := by
  have h0 := ctlEng_engAt (ctx := w.ctx) (portAgent (s.portFor s.devid elem)) hc.2.2.2.2.2.1 hc.2.2.2.2.1
  obtain ⟨e1, he, h1, hb⟩ := ctlRmw_mapped hc hr rfl (fun old => atomNew w.desc.aop w.desc.size old val.toNat) h0 hm hm'
  exact ⟨e1.s, _, ctl_ok he h1 hc, h1.state, hb⟩

theorem merged_applies (hwin : nget s.links.windows slot = some w) (hn : s.nextMsg s.arg.a 3 = some m)
    (ho : m.op = .merged home winid elem round size val fail) (hw : s.windowOf home winid elem round size = some (slot, w))
    (hk : s.kindling = false) (hd : s.linkDown s.arg.a = false) (hm : s.mayOp (portAgent s.arg.a) 0 0 = true)
    (hr : s.replaying = false) (hrole : w.desc.role ≠ 2) (hf : fail = false) (hord : w.desc.order = false)
    (hs : s.maySend s.arg.a 1 = true) (hc : Rules.CalmMemory s w.ctx) {pa : Nat}
    (hma : MappedAt s (s.ctlEng w.ctx (portAgent (s.portFor s.devid elem))).k (s.ctlEng w.ctx (portAgent (s.portFor s.devid elem))).b
      false true (w.desc.base + BitVec.ofNat 64 (w.desc.size * elem)) w.desc.size pa)
    (hma' : MappedAt s (s.ctlEng w.ctx (portAgent (s.portFor s.devid elem))).k (s.ctlEng w.ctx (portAgent (s.portFor s.devid elem))).b
      true true (w.desc.base + BitVec.ofNat 64 (w.desc.size * elem)) w.desc.size pa) :
    ∃ u, exec .windowMergedResult s = .next u ∧ RoundEnds s w u elem round none ∧
      (∃ x, .flit s.arg.a 1 x ∈ u.outbox ∧ x.tag = m.tag ∧ x.op = .answer [] false false) ∧
      u.mem.bytes = writeBytes s.mem.bytes pa
        (leBytes w.desc.size (atomNew w.desc.aop w.desc.size (leNat (readBytes s.mem.bytes pa w.desc.size)) val.toNat)) := by
  obtain ⟨t, bs, hap, hst, hby⟩ := applyMerged_ok (s := { s with recd := { s.recd with mode := 0 } }) (val := val) rfl hc hma hma'
  obtain ⟨v, hv⟩ : ∃ v : State, v = { t with recd := { t.recd with mode := s.recd.mode } } := ⟨_, rfl⟩
  have hvr : v.replaying = false := by
    rw [hv]
    exact hr
  have hvs : v.reqs = s.reqs ∧ v.links = s.links := by
    rw [hv, hst.same]
    exact ⟨rfl, rfl⟩
  have hlines : ∃ lines, (v.memLine w.ctx (w.desc.base + BitVec.ofNat 64 (w.desc.size * elem))).toList = lines := ⟨_, rfl⟩
  obtain ⟨lines, hl⟩ := hlines
  have hnote := noteMsg_recdOnly hvr s.arg.a 3 m lines (!lines.isEmpty)
  have ht : s.takeMerged s.arg.a slot w m elem round val fail =
      (((v.noteMsg s.arg.a 3 m lines (!lines.isEmpty)).endRound slot elem round none).answerPeer s.arg.a m [] false false, true) := by
    unfold State.takeMerged
    simp only [hrole, hf, hord, Bool.false_eq_true, or_self, if_false, List.headD_cons, hap, CtlRes.unquiet]
    rw [← hl, hv]
  have hwin' : nget (v.noteMsg s.arg.a 3 m lines (!lines.isEmpty)).links.windows slot = some w := by
    rw [hnote.same]
    exact hvs.2.symm ▸ hwin
  have hrep : ((v.noteMsg s.arg.a 3 m lines (!lines.isEmpty)).endRound slot elem round none).replaying = false := by
    rw [endRound_same]
    exact hnote.replaying.trans hvr
  refine ⟨_, exec_windowMergedResult hn ho hw hk hd hm (.inr (.inr hs)) ht,
    (endRound_ends hwin' elem round none).congr (by rw [hnote.same]; exact hvs.1) ?_, ?_, ?_⟩
  · rw [modBuf_reqs, answerPeer_reqs]
  · obtain ⟨x, hx, h1, h2⟩ := answerPeer_flit hrep s.arg.a m [] false false
    exact ⟨x, modBuf_outbox _ _ _ _ hx, h1, h2⟩
  · rw [modBuf_mem, answerPeer_mem, endRound_mem, hnote.same, hv]
    exact hby

end

/-! ### Rounds timed out and windows opened -/

section
variable {s : State} {slot : Nat} {w : Window}

theorem foldl_max_le {l : List Nat} {a b : Nat} : l.foldl max a ≤ b ↔ a ≤ b ∧ ∀ x ∈ l, x ≤ b := by
  induction l generalizing a with
  | nil => simp
  | cons x l ih => simp [ih, and_assoc]

theorem roundTimeout_ends (hw : nget s.links.windows slot = some w) (ha : s.arg.a = slot) (ho : w.isOpen = true)
    (hc : s.arg.c = ngetD w.merged s.arg.b 0)
    (hp : ∀ p ∈ w.pend, p.elem = s.arg.b → p.round = s.arg.c → p.tick + 2 ^ 24 ≤ s.tick) (hopen : w.openAt + 2 ^ 24 ≤ s.tick) :
    ∃ u, exec .windowRoundTimeout s = .next u ∧ RoundEnds s w u s.arg.b s.arg.c (some .fabricError) ∧ u.mem = s.mem := by
  have hsince : ((w.pend.filter fun p => p.elem == s.arg.b && p.round == s.arg.c).map fun p => p.tick).foldl max w.openAt ≤
      s.tick - 2 ^ 24 := by
    refine foldl_max_le.2 ⟨by omega, fun x hx => ?_⟩
    obtain ⟨p, hpm, rfl⟩ := List.mem_map.1 hx
    obtain ⟨hpm, hpe⟩ := List.mem_filter.1 hpm
    simp only [Bool.and_eq_true, beq_iff_eq] at hpe
    have := hp p hpm hpe.1 hpe.2
    omega
  refine ⟨_, ?_, endRound_ends hw s.arg.b s.arg.c _, endRound_mem ..⟩
  change execWindowRoundTimeout s = _
  unfold execWindowRoundTimeout
  rw [ha, hw]
  dsimp only
  rw [if_neg]
  rw [← hc, ho]
  simp only [Bool.not_true, Bool.false_eq_true, ne_eq, not_true, or_false]
  omega

theorem roundTimeout_waits (hw : nget s.links.windows slot = some w) (ha : s.arg.a = slot) {p : WinContrib} (hp : p ∈ w.pend)
    (hel : p.elem = s.arg.b) (hro : p.round = s.arg.c) (ht : s.tick < p.tick + 2 ^ 24) : exec .windowRoundTimeout s = .next s := by
  have hsince : p.tick ≤ ((w.pend.filter fun p => p.elem == s.arg.b && p.round == s.arg.c).map fun p => p.tick).foldl max w.openAt :=
    (foldl_max_le.1 le_rfl).2 _ (List.mem_map_of_mem (List.mem_filter.2 ⟨hp, by simp [hel, hro]⟩))
  change execWindowRoundTimeout s = _
  unfold execWindowRoundTimeout
  rw [ha, hw]
  dsimp only
  rw [if_pos]
  left
  omega

theorem mem_endHostCmd {s : State} {slot : Nat} {seq : Word} {h : HCmd} (hm : h ∈ s.host.cmds) (hs : h.slot = slot) (hq : h.seq = seq)
    (fail : Option Cause) : { h with stage := .finished fail } ∈ (s.endHostCmd slot seq fail).host.cmds :=
  List.mem_map.2 ⟨h, hm, if_pos ⟨hs, hq⟩⟩

theorem openAck_refused (hw : nget s.links.windows slot = some w) (ha : s.arg.a = slot) (ho : w.isOpen = false)
    (hf : s.arg.flag = true) :
    exec .windowOpenAck s = .next (({ s with links := { s.links with windows := ndel slot s.links.windows } } : State).endHostCmd w.slot
      w.seq (some .collectiveMismatch)) := by
  change execWindowOpenAck s = _
  unfold execWindowOpenAck
  rw [ha, hw]
  simp only [ho, hf, Bool.false_eq_true, if_false, if_true]

theorem openAck_opens (hw : nget s.links.windows slot = some w) (ha : s.arg.a = slot) (ho : w.isOpen = false)
    (hf : s.arg.flag = false) :
    exec .windowOpenAck s = .next ((s.modWindow slot fun w => { w with isOpen := true, openAt := s.tick }).endHostCmd w.slot w.seq none) := by
  change execWindowOpenAck s = _
  unfold execWindowOpenAck
  rw [ha, hw]
  simp only [ho, hf, Bool.false_eq_true, if_false]

theorem openAck_drains (hw : nget s.links.windows slot = some w) (ha : s.arg.a = slot) (ho : w.isOpen = true)
    (hc : w.closing = true) (hf : s.arg.flag2 = true) :
    exec .windowOpenAck s = .next (s.modWindow slot fun w => { w with drained := true }) := by
  change execWindowOpenAck s = _
  unfold execWindowOpenAck
  rw [ha, hw]
  simp only [ho, hf, hc, Bool.and_self, if_true]

end

/-- What reduction windows do: the second half of O59. -/
theorem windowsReduce : Rules.WindowsReduce := by
  intro s slot w hw
  refine ⟨fun m home winid elem round size val fail hn ho hwo hk hd hm hr => ⟨merged_ends hw hn ho hwo hk hd hm hr,
    fun pa hrole hf hord hs hc hwd hma hma' => ?_⟩, fun ha ho hc => ⟨roundTimeout_ends hw ha ho hc, fun p hp => roundTimeout_waits hw ha hp⟩,
    fun ha => ⟨fun ho hf => ?_, fun ho hf => ?_, fun ho hc hf => ?_⟩⟩
  · obtain ⟨u, hu, hends, hflit, hmem⟩ := merged_applies hw hn ho hwo hk hd hm hr hrole hf hord hs hc
      (mappedAt_of_mapped hwd hma) (mappedAt_of_mapped hwd hma')
    refine ⟨u, hu, hends, hflit, fun a => ?_⟩
    rw [hmem, readByte_writeBytes, length_leBytes]
  · exact ⟨_, openAck_refused hw ha ho hf, by simp [nget_ndel], fun h hm hs hq => mem_endHostCmd hm hs hq _⟩
  · refine ⟨_, openAck_opens hw ha ho hf, ?_, fun h hm hs hq => mem_endHostCmd ?_ hs hq _⟩
    · rw [endHostCmd_links, modWindow_of_some hw]
      exact nget_nput_same ..
    · rw [modWindow_of_some hw]
      exact hm
  · refine ⟨_, openAck_drains hw ha ho hc hf, ?_, ?_⟩
    · rw [modWindow_of_some hw]
      exact nget_nput_same ..
    · rw [modWindow_of_some hw]

/-- Settles O59: a port in service takes, sends again, stops and goes down as R14 to R17 say, and what ends a round of a window ends the
contributions of it that wait. -/
theorem linksAndWindows : Obligations.LinksAndWindows := ⟨linksCarry, windowsReduce⟩

end Sys2Proof.Machine
end

section
/-! Queue entries become commands, and the commands act (O24). -/

namespace Sys2Proof.Machine

/-! ### What reading a line of memory touches beside its bytes -/

/-- Two states that agree but for memory, the recorder, the journal's own registers, what was sent, the steps to come and the undefined
values used up. -/
structure Aside (s u : State) : Prop where
  same : u = { s with
    mem := u.mem, recd := u.recd, outbox := u.outbox, inputs := u.inputs, fresh := u.fresh
    host := { s.host with jrnHead := u.host.jrnHead, jseq := u.host.jseq } }

theorem JournalOnly.aside {s u : State} (h : JournalOnly s u) : Aside s u := by
  rw [h.same]
  exact ⟨rfl⟩

namespace Aside
variable {s u v : State}

theorem refl (s : State) : Aside s s := ⟨rfl⟩

theorem trans (h : Aside s u) (g : Aside u v) : Aside s v := by
  refine ⟨?_⟩
  rw [g.same, h.same]

theorem foldl {α : Type} {f : State → α → State} (h : ∀ s a, Aside s (f s a)) : ∀ (l : List α) (s : State), Aside s (l.foldl f s)
  | [], s => refl s
  | a :: l, s => (h s a).trans (foldl h l (f s a))

theorem ite {p : Prop} [Decidable p] (h : Aside s u) (g : Aside s v) : Aside s (if p then u else v) := by
  split
  · exact h
  · exact g

theorem slot (h : Aside s u) (n : Nat) : u.slot n = s.slot n := by
  rw [h.same]
  rfl

theorem cmds (h : Aside s u) : u.host.cmds = s.host.cmds := by rw [h.same]

theorem kindling (h : Aside s u) : u.kindling = s.kindling := by
  rw [h.same]
  rfl

end Aside

theorem emit_aside (s : State) (o : Out) : Aside s (s.emit o) := ⟨rfl⟩

theorem bump_aside (s : State) : Aside s s.bump := ⟨rfl⟩

theorem machineCheck_aside (s : State) : Aside s s.machineCheck := ⟨rfl⟩

theorem errRecord_aside (s : State) (type outcome unit addr : Nat) (loc : Word) (syn kind : Nat) :
    Aside s (s.errRecord type outcome unit addr loc syn kind) := (errRecord_journalOnly ..).aside

theorem testRow_aside (s : State) (line : Nat) : Aside s (s.testRow line) := (scheduleTest_journalOnly ..).aside

theorem poisonLine_aside (s : State) (line : Nat) : Aside s (s.poisonLine line) := (Aside.refl s).ite ⟨rfl⟩

theorem poisonTable_aside (s : State) (line : Nat) : Aside s (s.poisonTable line) :=
  (Aside.refl s).ite (((errRecord_aside ..).trans (machineCheck_aside _)).ite ⟨rfl⟩)

theorem eccAt_aside (s : State) (line : Nat) (o : EccOutcome) : Aside s (s.eccAt line o) := by
  have hrec : ∀ (t : State) (type : Nat) (loc : Word) (syn : Nat),
      Aside t (t.errRecord type 0 0 (line * 128) loc syn 0).bump := fun t type loc syn => (errRecord_aside ..).trans (bump_aside _)
  unfold State.eccAt
  cases o with
  | clean => exact .refl s
  | corrected => exact (hrec ..).trans (testRow_aside ..)
  | uncorrectable => exact ((hrec ..).trans (poisonLine_aside ..)).trans (testRow_aside ..)
  | metaCorrected => exact (hrec ..).trans (testRow_aside ..)
  | metaUncorrectable =>
    dsimp only
    refine .ite ?_ (((hrec ..).trans (poisonLine_aside ..)).trans (testRow_aside ..))
    refine .trans (.trans (.trans ?_ (hrec ..)) (errRecord_aside ..)) (testRow_aside ..)
    exact Aside.trans (u := { s with mem := { s.mem with sets := ndel (capLine line % cacheSets) s.mem.sets } }) ⟨rfl⟩
      (.foldl poisonTable_aside ..)

theorem eccMiss_aside (s : State) (line : Nat) (o : EccOutcome) : Aside s (s.eccMiss line o) := by
  unfold State.eccMiss
  split
  · exact eccAt_aside ..
  · exact (eccAt_aside ..).ite (.refl s)
  · exact (eccAt_aside ..).ite (.refl s)
  · exact .refl s
  · exact .refl s

theorem homeEcc_aside (s : State) (line : Nat) (o : EccOutcome) : Aside s (s.homeEcc line o) :=
  (eccAt_aside ..).ite ((Aside.refl s).ite ((eccAt_aside ..).ite (eccMiss_aside ..)))

theorem capFetch_aside (s : State) (line tag : Nat) : Aside s (s.capFetch line tag) := by
  unfold State.capFetch
  exact ((emit_aside ..).ite (.refl s)).trans (emit_aside ..)

theorem capTouch_aside (s : State) (line tag : Nat) (reads writes refused : Bool) (o : EccOutcome) :
    Aside s (s.capTouch line tag reads writes refused o) := by
  have he : ∀ t : State, Aside t (t.evictRefused line refused) := fun t => (poisonTable_aside ..).ite (.refl t)
  unfold State.capTouch State.capAccess
  exact ((((Aside.refl s).ite ((capFetch_aside ..).trans (he _))).trans ⟨rfl⟩).ite ((capFetch_aside ..).ite (.refl s))).ite (.refl s)

theorem gather_aside (s : State) (line : Nat) : Aside s (s.gather line) := by
  unfold State.gather
  exact (Aside.refl s).ite (((fold_journalOnly ..).aside.trans (errRecord_aside ..)).ite (fold_journalOnly ..).aside)

/-! ### Entries -/

/-- The device that has read an entry holds its slots, contexts and commands as before. -/
theorem readEntry_aside {s t : State} {q : QSlot} {bs : List Byte} (h : s.readEntry q = .bytes t bs) : Aside s t := by
  have hmem : ∀ line, Aside s (((s.homeEcc line s.arg.ecc).capTouch line 0 true false (s.arg.reply == .poisonRefused) s.arg.ecc).gather line) :=
    fun line => ((homeEcc_aside ..).trans (capTouch_aside ..)).trans (gather_aside ..)
  unfold State.readEntry at h
  dsimp only at h
  split at h
  · split at h
    · cases h
    · split at h
      · cases h
      · split at h
        · cases h
        · cases h
          exact hmem _
  · split at h
    · cases h
    · split at h
      · cases h
      · split at h
        · split at h
          · cases h
            exact emit_aside ..
          · cases h
        · cases h

section
variable {s t : State} {bs : List Byte}

theorem exec_queueEntryExamine (ha : s.arg.a < 256) (hs : s.serves (s.slot s.arg.a) = true)
    (hr : s.readEntry (s.slot s.arg.a) = .bytes t bs) :
    exec .queueEntryExamine s = .next (if (qEntry bs).seq = (s.slot s.arg.a).head then t.takeEntry s.arg.a (s.slot s.arg.a) bs
      else t.modSlot s.arg.a fun q => { q with waitSeq := true, kick := false }) := by
  change execQueueEntryExamine s = _
  unfold execQueueEntryExamine
  simp only [not_le.2 ha, hs, hr, Bool.not_true, Bool.false_eq_true, or_self, if_false]
  split <;> rfl

theorem entryRecord_journalOnly (n : Nat) (q : QSlot) : JournalOnly s (s.entryRecord n q bs) := by
  unfold State.entryRecord
  split
  · exact journal_journalOnly ..
  · exact journal_journalOnly ..

/-- The state in which an entry has been recorded and HEAD has moved on. -/
theorem advance_entryRecord (h : Aside s t) (n : Nat) (q : QSlot) :
    (((t.entryRecord n q bs).advance n).slot n).head = (s.slot n).head + 1 ∧
      ((t.entryRecord n q bs).advance n).host.cmds = s.host.cmds ∧ ((t.entryRecord n q bs).advance n).kindling = s.kindling := by
  have hj := h.trans (entryRecord_journalOnly (s := t) (bs := bs) n q).aside
  refine ⟨?_, hj.cmds, hj.kindling⟩
  unfold State.advance
  rw [slot_modSlot, if_pos rfl, hj.slot]

theorem opc_of_bad {e : QEntry} {ctx : Nat} (h : e.bad ctx = none) : e.opc < 256 := by
  unfold QEntry.bad at h
  dsimp only at h
  split at h
  · cases h
  · omega

/-- What becomes of the entry at HEAD, and the end of a command. -/
theorem entriesAreTaken : Rules.EntriesAreTaken := by
  intro s
  refine ⟨fun ha hs t bs hr => ⟨fun hne => ?_, fun r heq hbad => ?_, fun heq hbad => ?_⟩, fun h f hh hst hc => ?_⟩
  · have ht := readEntry_aside hr
    refine ⟨_, (exec_queueEntryExamine ha hs hr).trans (by rw [if_neg hne]), ?_⟩
    rw [slot_modSlot, if_pos rfl, ht.slot]
    exact ⟨rfl, rfl, rfl, ht.cmds⟩
  · obtain ⟨hh, hc, -⟩ := advance_entryRecord (bs := bs) (readEntry_aside hr) s.arg.a (s.slot s.arg.a)
    refine ⟨_, (exec_queueEntryExamine ha hs hr).trans (by rw [if_pos heq]), ?_⟩
    unfold State.takeEntry
    simp only [hbad, Option.isSome_some, if_true]
    exact ⟨hh, hc⟩
  · obtain ⟨hh, hc, hk⟩ := advance_entryRecord (bs := bs) (readEntry_aside hr) s.arg.a (s.slot s.arg.a)
    refine ⟨_, Exists.imp (fun h hx => ⟨(exec_queueEntryExamine ha hs hr).trans (by rw [if_pos heq]), hx⟩) ?_⟩
    unfold State.takeEntry State.addCmd
    simp only [hbad, Option.isSome_none, Bool.false_eq_true, if_false]
    refine ⟨_, hh, congrArg (· ++ _) hc, rfl, rfl, ?_, rfl, rfl, rfl, fun hn => ?_⟩
    · rw [BitVec.toNat_ofNat, Nat.mod_eq_of_lt (opc_of_bad hbad)]
    · rw [hk, hn]
      rfl
  · have he : exec .commandComplete s = execCommandComplete s := rfl
    unfold execCommandComplete State.journalEnd at he
    simp only [hh, hc, hst, if_true] at he
    refine ⟨_, he, fun k hk => ?_, fun n hn => ?_⟩
    · simpa [imp_iff_not_or] using (List.mem_filter.1 hk).2
    · simpa [imp_iff_not_or] using (List.mem_filter.1 hn).2

end

/-! ### What the commands do -/

theorem mem_of_cmdTurn? {s : State} {opc : Nat} {all : Bool} {h : HCmd} (hc : s.cmdTurn? opc all = some h) : h ∈ s.host.cmds := by
  unfold State.cmdTurn? at hc
  split at hc
  · cases hc
  · rename_i k hk
    rw [Option.ite_none_right_eq_some] at hc
    obtain ⟨-, rfl⟩ := hc.imp_right Option.some.inj
    exact List.mem_of_find?_eq_some hk

theorem ended_endHostCmd {s : State} {h : HCmd} (hm : h ∈ s.host.cmds) (f : Option Cause) :
    Rules.Ended (s.endHostCmd h.slot h.seq f) h f := ⟨_, mem_endHostCmd hm rfl rfl f, rfl, rfl, rfl⟩

theorem mem_modHCmd {s : State} {h : HCmd} (hm : h ∈ s.host.cmds) (f : HCmd → HCmd) : f h ∈ (s.modHCmd h f).host.cmds :=
  List.mem_map.2 ⟨h, hm, if_pos ⟨rfl, rfl⟩⟩

/-- An operation noted in replay or out of it leaves the host's registers and the timelines. -/
theorem note_host_tls (s : State) (agent issuer lane obj : Nat) (mo : Bool) (addr close : Option Nat) (msgs : List DWord)
    (more : List Nat) : (s.note agent issuer lane obj mo addr close msgs more).host = s.host ∧
      (s.note agent issuer lane obj mo addr close msgs more).tls = s.tls := by
  rw [(note_admitOnly ..).same]
  exact ⟨rfl, rfl⟩

theorem giveToken_host_tls (s : State) (dst : Nat → Nat → Nat) (edge : BitVec 3) (waiting : LaneStat → Bool) :
    (s.giveToken dst edge waiting).host = s.host ∧ (s.giveToken dst edge waiting).tls = s.tls := ⟨rfl, rfl⟩

/-- A timeline raised by a control core: the host's registers stay. -/
theorem stokerRaise_same (s : State) (n : Nat) (v : DWord) : (s.stokerRaise n v).host = s.host ∧
    (s.stokerRaise n v).timeline n = if (s.timeline n).toNat < v.toNat then v else s.timeline n := by
  obtain ⟨hn, ht⟩ := note_host_tls s stokerAgent 0 0 (objTl n) true none (some 4) [] []
  obtain ⟨hg, htg⟩ := giveToken_host_tls ((s.note stokerAgent 0 0 (objTl n) true none (some 4)).raise n v) (fun _ q => q) 2
    ((s.note stokerAgent 0 0 (objTl n) true none (some 4)).tlWaits n v)
  have hold : (s.note stokerAgent 0 0 (objTl n) true none (some 4)).timeline n = s.timeline n := by
    rw [State.timeline, ht]
    rfl
  unfold State.stokerRaise State.raiseOutside
  refine ⟨by rw [hg, raise_host, hn], ?_⟩
  rw [State.timeline, htg, ← State.timeline, timeline_raise, if_pos rfl, hold]

section
variable {s : State} {h : HCmd}

theorem tlsignal_raises (hc : s.cmdTurn? 2 true = some h) (hm : s.mayOp stokerAgent 0 0 = true) (hi : s.islandDown syncIsland = false) :
    ∃ u, exec .tlsignal s = .next u ∧ Rules.Ended u h none ∧
      u.timeline h.a0.toNat = if (s.timeline h.a0.toNat).toNat < h.a1.toNat then h.a1 else s.timeline h.a0.toNat := by
  have he : exec .tlsignal s = execTlsignal s := rfl
  unfold execTlsignal at he
  simp only [hc, hm, hi, Bool.not_true, Bool.or_self, Bool.false_eq_true, if_false] at he
  obtain ⟨hh, ht⟩ := stokerRaise_same s h.a0.toNat h.a1
  refine ⟨_, he, ended_endHostCmd ?_ none, ?_⟩
  · rw [hh]
    exact mem_of_cmdTurn? hc
  · rw [State.timeline, endHostCmd_tls]
    exact ht

theorem tlwait_ends (hc : s.cmdTurn? 3 false = some h) (hm : s.mayOp stokerAgent 0 0 = true) (hi : s.islandDown syncIsland = false)
    (hr : h.a1.toNat ≤ (s.timeline h.a0.toNat).toNat) : ∃ u, exec .hostTlwait s = .next u ∧ Rules.Ended u h none := by
  have he : exec .hostTlwait s = execHostTlwait s := rfl
  unfold execHostTlwait at he
  simp only [hc, hm, hi, not_lt.2 hr, Bool.not_true, Bool.false_eq_true, or_self, if_false] at he
  refine ⟨_, he, ended_endHostCmd ?_ none⟩
  rw [(note_host_tls ..).1]
  exact mem_of_cmdTurn? hc

theorem tlwait_waits (hc : s.cmdTurn? 3 false = some h) (hr : (s.timeline h.a0.toNat).toNat < h.a1.toNat) :
    exec .hostTlwait s = .next s := by
  change execHostTlwait s = _
  unfold execHostTlwait
  simp only [hc, hr, true_or, if_true]

theorem marker_stores {pa : Nat} (hc : s.cmdTurn? 4 true = some h) (hm : s.mayOp stokerAgent 0 0 = true) (hr : s.replaying = false)
    (hcalm : Rules.CalmMemory s h.ctx) (hw : isWindow h.a0 = false)
    (hma : Rules.Mapped s (s.ctlEng h.ctx stokerAgent).k (s.ctlEng h.ctx stokerAgent).b true h.a0 8 pa) :
    ∃ u, exec .marker s = .next u ∧ Rules.Ended u h none ∧ ∀ a, readByte u.mem.bytes a =
      if pa ≤ a ∧ a < pa + 8 then (leBytes 8 h.a1.toNat).getD (a - pa) 0 else readByte s.mem.bytes a := by
  have h0 := ctlEng_engAt (ctx := h.ctx) stokerAgent hcalm.2.2.2.2.2.1 hcalm.2.2.2.2.1
  have hma' := mappedAt_of_mapped hw hma
  rw [← length_leBytes 8 h.a1.toNat] at hma'
  obtain ⟨e1, he1, h1, hb⟩ := ctlWrite_mapped hcalm hr h0 hma'
  have hctl : State.ctl h.ctx stokerAgent h.site (ctlWrite h.a0 (leBytes 8 h.a1.toNat)) 4 s = .ok e1.s () := ctl_ok he1 h1 hcalm
  have he : exec .marker s = execMarker s := rfl
  unfold execMarker at he
  simp only [hc, hm, hctl, Bool.not_true, Bool.false_eq_true, if_false] at he
  refine ⟨_, he, ended_endHostCmd ?_ none, fun a => ?_⟩
  · rw [h1.state.same]
    exact mem_of_cmdTurn? hc
  · rw [endHostCmd_mem, hb, readByte_writeBytes, length_leBytes]
    rfl

theorem invtlb_begins (hc : s.cmdTurn? 5 false = some h) :
    ∃ u k, exec .invtlb s = .next u ∧ k ∈ u.xl.invals ∧ k.ctx = h.ctx ∧ k.base = untag h.a0 ∧
      k.bytes = h.a1.toNat ∧ { h with stage := .dispatched, inval := some k.id } ∈ u.host.cmds ∧
      ∀ e ∈ u.xl.tlb, e.ctx = h.ctx → h.a1 ≠ 0 ∧ (e.page < pageOf h.a0 ∨ (untag h.a0 + h.a1.toNat - 1) / 4096 < e.page) := by
  have he : exec .invtlb s = execInvtlb s := rfl
  unfold execInvtlb at he
  simp only [hc] at he
  refine ⟨_, _, he, List.mem_append_right _ (List.mem_singleton_self _), rfl, rfl, rfl,
    mem_modHCmd (mem_of_cmdTurn? hc) fun k => { k with stage := .dispatched, inval := some _ }, fun e hm hctx => ?_⟩
  obtain ⟨hn, hp⟩ := beginInval_drops s h.ctx h.a0 h.a1.toNat false none hm hctx
  exact ⟨fun h0 => hn (by rw [h0]; rfl), hp⟩

/-! ### Windows opened and closed -/

theorem winopen_kindling (hc : s.cmdTurn? 6 true = some h) (hk : s.kindling = true) :
    ∃ u, exec .winopen s = .next u ∧ Rules.Ended u h (some .kindlingUnavailable) := by
  have he : exec .winopen s = execWinopen s := rfl
  unfold execWinopen at he
  simp only [hc, hk, if_true] at he
  exact ⟨_, he, ended_endHostCmd (mem_of_cmdTurn? hc) _⟩

/-- A source's window is asked for: it is not open yet. -/
theorem openWindow_source {d : WinDesc} {devs : List Byte} (hrole : d.role = 2)
    (hdev : leNat ((devs.drop (2 * d.rank)).take 2) = s.devid.toNat) (hn : nget s.links.windows h.a1.toNat = none) :
    ∃ w : Window, (w.ctx = h.ctx ∧ w.desc = d ∧ w.isOpen = false) ∧ s.openWindow h d devs =
      (({ s with links := { s.links with windows := nput h.a1.toNat w s.links.windows } } : State).emit
        (.winOpen d.homeDev d.winid)).modHCmd h fun k => { k with stage := .dispatched } := by
  have h0 : d.role.getLsbD 0 = false := by rw [hrole]; rfl
  unfold State.openWindow
  simp only [hn, h0, hdev, bne_self_eq_false, Bool.and_false, Bool.false_and, Bool.or_self, Bool.false_eq_true, if_false]
  exact ⟨_, ⟨rfl, rfl, rfl⟩, rfl⟩

theorem winopen_asks {t u : State} {bs devs : List Byte} (hc : s.cmdTurn? 6 true = some h) (hk : s.kindling = false)
    (hbs : s.ctlQuiet h.ctx stokerAgent h.site (ctlRead h.a0 64) 4 = .ok t bs) (hz : winZeros bs = true)
    (hok : (winDesc bs).ok = true)
    (hdevs : t.ctlQuiet h.ctx stokerAgent h.site (ctlRead (winDesc bs).srcs (2 * (winDesc bs).nsrc)) 8 = .ok u devs)
    (hrole : (winDesc bs).role = 2) (hdev : leNat ((devs.drop (2 * (winDesc bs).rank)).take 2) = s.devid.toNat) (hid : u.devid = s.devid)
    (hn : nget u.links.windows h.a1.toNat = none) (hm : h ∈ u.host.cmds) :
    ∃ v w, exec .winopen s = .next v ∧ nget v.links.windows h.a1.toNat = some w ∧ w.ctx = h.ctx ∧ w.desc = winDesc bs ∧
      w.isOpen = false ∧ v.outbox = u.outbox ++ [.winOpen (winDesc bs).homeDev (winDesc bs).winid] ∧
      { h with stage := .dispatched } ∈ v.host.cmds := by
  obtain ⟨w, ⟨hctx, hdesc, hopen⟩, hw⟩ := openWindow_source (h := h) hrole (hdev.trans (by rw [hid])) hn
  have he : exec .winopen s = execWinopen s := rfl
  unfold execWinopen at he
  simp only [hc, hk, hbs, hz, hok, hdevs, hw, Bool.not_true, Bool.or_self, Bool.false_eq_true, if_false] at he
  exact ⟨_, w, he, nget_nput_same .., hctx, hdesc, hopen, rfl,
    List.mem_map.2 ⟨h, hm, if_pos ⟨rfl, rfl⟩⟩⟩

theorem winclose_none (hc : s.cmdTurn? 7 true = some h) (hn : nget s.links.windows h.a0.toNat = none) :
    ∃ u, exec .winclose s = .next u ∧ Rules.Ended u h none := by
  have he : exec .winclose s = execWinclose s := rfl
  unfold execWinclose at he
  simp only [hc, hn] at he
  exact ⟨_, he, ended_endHostCmd (mem_of_cmdTurn? hc) none⟩

/-- A window of the command's context that the switches hold no round of. -/
theorem exec_winclose_drained {w : Window} (hc : s.cmdTurn? 7 true = some h) (hw : nget s.links.windows h.a0.toNat = some w)
    (hctx : w.ctx = h.ctx) (hd : w.desc.role.getLsbD 0 = false ∨ w.drained = true) :
    exec .winclose s = .next (if !w.pend.isEmpty ∨ !w.isOpen then s
      else ({ s with links := { s.links with windows := ndel h.a0.toNat s.links.windows } } : State).endHostCmd h.slot h.seq none) := by
  have hd' : ¬(w.desc.role.getLsbD 0 = true ∧ (!w.drained) = true) := by
    rintro ⟨h1, h2⟩
    obtain h | h := hd
    · exact absurd (h.symm.trans h1) (by simp)
    · simp [h] at h2
  change execWinclose s = _
  unfold execWinclose
  simp only [hc, hw, hctx, ne_eq, not_true, if_false, hd']
  split <;> rfl

theorem exec_winclose_home {w : Window} (hc : s.cmdTurn? 7 true = some h) (hw : nget s.links.windows h.a0.toNat = some w)
    (hctx : w.ctx = h.ctx) (hrole : w.desc.role.getLsbD 0 = true) (hd : w.drained = false) :
    exec .winclose s = .next (if w.closing then s
      else (s.modWindow h.a0.toNat fun w => { w with closing := true }).emit (.winClose w.desc.homeDev w.desc.winid)) := by
  change execWinclose s = _
  unfold execWinclose
  simp only [hc, hw, hctx, ne_eq, not_true, if_false, hrole, hd, Bool.not_false, and_self, if_true]

end

/-- What the commands of the host do. -/
theorem hostCommandsAct : Rules.HostCommandsAct := by
  intro s h
  refine ⟨tlsignal_raises, fun hc hm hi => ⟨tlwait_ends hc hm hi, tlwait_waits hc⟩, fun pa hc hm hr hcalm _ => marker_stores hc hm hr hcalm,
    invtlb_begins, fun hc => ⟨winopen_kindling hc, fun t bs u devs hk hbs hz hok hdevs => winopen_asks hc hk hbs hz hok hdevs⟩,
    fun hc => ⟨fun w hw hctx hd => ⟨fun hp ho => ?_, fun hp => ?_⟩, fun w hw hctx hrole hd => ⟨fun hcl => ?_, fun hcl => ?_⟩,
      winclose_none hc⟩⟩
  · have he := exec_winclose_drained hc hw hctx hd
    rw [if_neg (by simp [hp, ho])] at he
    exact ⟨_, he, (nget_ndel ..).trans (if_pos rfl), _, mem_endHostCmd (mem_of_cmdTurn? hc) rfl rfl none, rfl, rfl, rfl⟩
  · rw [exec_winclose_drained hc hw hctx hd, if_pos (by simp [hp])]
  · refine ⟨_, (exec_winclose_home hc hw hctx hrole hd).trans (by rw [if_neg (by simp [hcl])]), ?_⟩
    rw [modWindow_of_some hw]
    exact ⟨nget_nput_same .., rfl, rfl⟩
  · rw [exec_winclose_home hc hw hctx hrole hd, if_pos hcl]

/-- Settles O24: an entry at HEAD is recorded, HEAD moves on and the command is there, and each command's turn does its one thing. -/
theorem commandsAct : Obligations.CommandsAct := ⟨entriesAreTaken, hostCommandsAct⟩

end Sys2Proof.Machine
end

section
/-! What the host's accesses of device memory do (O22). -/

namespace Sys2Proof.Machine

theorem crossing_of_sound {s : State} (h : s.arg.flag2 = false) : s.crossing = s := by
  unfold State.crossing
  simp [h]

/-- With recording and replay off nothing is noted. -/
theorem note_off {s : State} (h : s.recd.mode = 0) (agent issuer lane obj : Nat) (mo : Bool) (addr close : Option Nat)
    (msgs : List DWord) (more : List Nat) : s.note agent issuer lane obj mo addr close msgs more = s := by
  unfold State.note State.recording State.replaying
  rw [h]
  rfl

theorem recordPayload_off {s : State} (h : s.recd.mode = 0) (agent : Nat) (mseq : Word) (src : Nat) (data : List Byte) :
    s.recordPayload agent mseq src data = s := by
  unfold State.recordPayload State.recording
  rw [h]
  rfl

theorem isCapacity_of_line {a : Nat} (h : lineIsCap (lineOf a) = false) : isCapacity a = false := by
  unfold lineIsCap isCapacity at *
  have hn := of_decide_eq_false h
  refine decide_eq_false fun ha => hn ?_
  have hb : capBase = capBase / 128 * 128 := by decide
  rw [hb] at ha ⊢
  exact Nat.mul_le_mul_right _ ((Nat.le_div_iff_mul_le (by decide)).2 ha)

/-! ### Lines of HBM that nothing keeps -/

/-- Pieces that lie in HBM. -/
def InHbm (l : List HostPiece) : Prop := ∀ p ∈ l, lineIsCap (lineOf p.a) = false

theorem hostReach_hbm {l : List HostPiece} (h : InHbm l) {s : State} (he : s.arg.ecc = .clean) (reads writes : Bool) :
    s.hostReach reads writes l = s := by
  unfold State.hostReach
  rw [he]
  suffices ∀ l, InHbm l → l.foldl _ (s, EccOutcome.clean) = (s, EccOutcome.clean) from congrArg Prod.fst (this l h)
  intro l
  induction l with
  | nil => exact fun _ => rfl
  | cons p l ih =>
    intro h
    have hp := h p List.mem_cons_self
    rw [List.foldl_cons]
    dsimp only
    rw [homeEcc_clean hp, capTouch_hbm hp]
    exact ih fun q hq => h q (List.mem_cons_of_mem _ hq)

/-- The state of a device whose caches alone have moved on. -/
structure CacheOnly (s u : State) : Prop where
  same : u = { s with mem := { s.mem with cache := u.mem.cache } }

namespace CacheOnly
variable {s u v : State}

theorem refl (s : State) : CacheOnly s s := ⟨rfl⟩

theorem trans (h : CacheOnly s u) (g : CacheOnly u v) : CacheOnly s v := by
  refine ⟨?_⟩
  rw [g.same, h.same]

theorem bytes (h : CacheOnly s u) : u.mem.bytes = s.mem.bytes := by rw [h.same]
theorem mode (h : CacheOnly s u) : u.recd.mode = s.recd.mode := by rw [h.same]
theorem partials (h : CacheOnly s u) : u.mem.partials = s.mem.partials := by rw [h.same]
theorem outbox (h : CacheOnly s u) : u.outbox = s.outbox := by rw [h.same]

theorem poisoned (h : CacheOnly s u) (line : Nat) : u.poisoned line = s.poisoned line := by
  rw [h.same]
  rfl

end CacheOnly

theorem shareLine_cacheOnly (s : State) (line : Nat) (mine : Nat → Bool) : CacheOnly s (s.shareLine line mine) := ⟨rfl⟩

/-- One step of a host read: its line is shared, and its bytes and poison are taken. -/
theorem hostRead_acc {s : State} (hm : s.recd.mode = 0) (hp : s.mem.partials = []) (noted : Bool) (l : List HostPiece) {t : State}
    (ht : CacheOnly s t) (bad : Bool) (bs : List Byte) :
    ∃ u, CacheOnly s u ∧ l.foldl (fun x p =>
        let s1 := (x.1.gather (lineOf p.a)).shareLine (lineOf p.a) fun _ => false
        let s2 := if noted then s1.note hostAgent 0 0 (objLine (lineOf p.a)) false (some (lineOf p.a * 128)) none else s1
        (s2, x.2.1 || s1.poisoned (lineOf p.a), x.2.2 ++ s1.peek p.a p.n)) (t, bad, bs) =
      (u, bad || l.any (fun p => s.poisoned (lineOf p.a)), bs ++ l.flatMap fun p => readBytes s.mem.bytes p.a p.n) := by
  induction l generalizing t bad bs with
  | nil => exact ⟨t, ht, by simp⟩
  | cons p l ih =>
    have hs := ht.trans (shareLine_cacheOnly t (lineOf p.a) fun _ => false)
    obtain ⟨u, hu, he⟩ := ih hs (bad || s.poisoned (lineOf p.a)) (bs ++ readBytes s.mem.bytes p.a p.n)
    refine ⟨u, hu, ?_⟩
    rw [List.foldl_cons]
    dsimp only
    rw [gather_nil (ht.partials.trans hp), note_off (hs.mode.trans hm), hs.poisoned, State.peek, hs.bytes, ite_self, he]
    simp [Bool.or_assoc]

theorem hostRead_ok {s : State} (hm : s.recd.mode = 0) (hp : s.mem.partials = []) (l : List HostPiece) (noted : Bool) :
    ∃ u, CacheOnly s u ∧ s.hostRead l noted =
      (u, l.any (fun p => s.poisoned (lineOf p.a)), l.flatMap fun p => readBytes s.mem.bytes p.a p.n) := by
  obtain ⟨u, hu, he⟩ := hostRead_acc hm hp noted l (.refl s) false []
  exact ⟨u, hu, by simpa [State.hostRead] using he⟩

/-- A write of one piece that begins the data: its bytes are at its home, and nothing has been sent. -/
theorem hostWriteAt_ok {s : State} (hm : s.recd.mode = 0) (hp : s.mem.partials = []) {p : HostPiece}
    (hl : lineIsCap (lineOf p.a) = false) (ho : p.off = 0) (hc : inCalPage p.a = false) (hb : s.poisoned (lineOf p.a) = false)
    {data : List Byte} (hd : data.length = p.n) :
    (s.hostWriteAt [p] data).mem.bytes = writeBytes s.mem.bytes p.a data ∧ (s.hostWriteAt [p] data).outbox = s.outbox := by
  have hput : (s.hostPut data p).mem.bytes = writeBytes s.mem.bytes p.a data ∧ (s.hostPut data p).outbox = s.outbox ∧
      (s.hostPut data p).recd.mode = 0 := by
    have hbp : ((s.poke p.a data).dropHolders (lineOf p.a) fun _ => false).poisoned (lineOf p.a) = false := by
      have h : (s.poke p.a data).poisoned (lineOf p.a) = s.poisoned (lineOf p.a) := by
        unfold State.poke
        split
        · rfl
        · unfold State.poisoned
          rw [dirtied_mem]
      exact h.trans hb
    have hw : ∀ full, (((s.poke p.a data).dropHolders (lineOf p.a) fun _ => false).poisonWrite (lineOf p.a) full).mem.bytes =
        writeBytes s.mem.bytes p.a data ∧
        (((s.poke p.a data).dropHolders (lineOf p.a) fun _ => false).poisonWrite (lineOf p.a) full).outbox = s.outbox ∧
        (((s.poke p.a data).dropHolders (lineOf p.a) fun _ => false).poisonWrite (lineOf p.a) full).recd.mode = 0 := by
      intro full
      have hpk : (s.poke p.a data).outbox = s.outbox ∧ (s.poke p.a data).recd.mode = 0 := by
        have hj := poke_journalOnly s p.a data
        refine ⟨by rw [hj.same], ?_⟩
        unfold State.poke State.dirtied
        split
        · exact hm
        · dsimp only
          split <;> exact hm
      unfold State.poisonWrite
      rw [hbp]
      split
      · exact ⟨poke_bytes .., hpk.1, hpk.2⟩
      · exact ⟨poke_bytes .., hpk.1, hpk.2⟩
    unfold State.hostPut
    simp only [gather_nil hp, note_off hm, hc, ho, List.drop_zero, ← hd, List.take_length, hl, Bool.false_and, Bool.false_eq_true,
      if_false]
    exact hw _
  unfold State.hostWriteAt
  rw [List.foldl_cons, List.foldl_nil]
  dsimp only
  rw [recordPayload_off hput.2.2]
  exact ⟨hput.1, hput.2.1⟩

theorem length_hostAtomicResult {k : HostAtomic} {n : Nat} {old data : List Byte} (ho : old.length = n)
    (hd : data.length = if k = .cas then 2 * n else n) : (hostAtomicResult k n old data).length = n := by
  unfold hostAtomicResult
  cases k with
  | fetchAdd => exact length_leBytes ..
  | swap =>
    simp only [reduceCtorEq, if_false] at hd
    simp [hd]
  | cas =>
    rw [if_pos rfl] at hd
    dsimp only
    split
    · simp [hd]
      omega
    · exact ho

end Sys2Proof.Machine
end

section
/-! Host accesses end to end (O22). -/

namespace Sys2Proof.Machine

section
variable {s : State} {l : List HostPiece}

/-- An access that is not of the doorbell page, of which the device makes `l`. -/
theorem exec_hostMemoryAccess (hw : s.arg.host.way ≠ .bar4) (hf : s.arg.flag2 = false) :
    exec .hostMemoryAccess s = if !hostValid s.arg.host (s.hostPa s.arg.host) then .next (s.emit .hostUr)
      else match s.hostPieces (s.hostPa s.arg.host) s.arg.host.bytes 0 s.arg.host.bytes with
        | none => .next (s.emit .hostUr)
        | some l =>
          if s.arg.host.way = .cxlMem ∧ l.any (fun p => isCapacity p.a) then .next (s.emit .hostUr)
          else .next (if s.piecesOpen (s.arg.a % 2) l then s.hostAccess s.arg.host l else s) := by
  change execHostMemoryAccess s = _
  unfold execHostMemoryAccess
  dsimp only
  rw [crossing_of_sound hf, if_neg hw] <;> rfl

theorem hostAccess_refused (hw : s.arg.host.way ≠ .bar4) (hf : s.arg.flag2 = false)
    (h : hostValid s.arg.host (s.hostPa s.arg.host) = false ∨
      s.hostPieces (s.hostPa s.arg.host) s.arg.host.bytes 0 s.arg.host.bytes = none) :
    exec .hostMemoryAccess s = .next (s.emit .hostUr) := by
  rw [exec_hostMemoryAccess hw hf]
  obtain h | h := h
  · rw [h]
    rfl
  · rw [h]
    exact ite_self _

theorem hostAccess_cxl (hw : s.arg.host.way = .cxlMem) (hf : s.arg.flag2 = false)
    (hl : s.hostPieces (s.hostPa s.arg.host) s.arg.host.bytes 0 s.arg.host.bytes = some l) (hc : ∃ p ∈ l, isCapacity p.a = true) :
    exec .hostMemoryAccess s = .next (s.emit .hostUr) := by
  rw [exec_hostMemoryAccess (by rw [hw]; decide) hf, hl]
  have hany : (l.any fun p => isCapacity p.a) = true := List.any_eq_true.2 hc
  simp only [hw, hany, and_self, if_true, ite_self]

theorem exec_hostAccess (hw : s.arg.host.way ≠ .bar4) (hf : s.arg.flag2 = false)
    (hv : hostValid s.arg.host (s.hostPa s.arg.host) = true)
    (hl : s.hostPieces (s.hostPa s.arg.host) s.arg.host.bytes 0 s.arg.host.bytes = some l)
    (ho : s.piecesOpen (s.arg.a % 2) l = true) (hh : InHbm l) : exec .hostMemoryAccess s = .next (s.hostAccess s.arg.host l) := by
  have hany : ¬(s.arg.host.way = .cxlMem ∧ (l.any fun p => isCapacity p.a) = true) := by
    rintro ⟨-, h⟩
    obtain ⟨p, hp, hc⟩ := List.any_eq_true.1 h
    rw [isCapacity_of_line (hh p hp)] at hc
    exact absurd hc (by decide)
  rw [exec_hostMemoryAccess hw hf, hl, hv]
  simp only [hany, ho, Bool.not_true, Bool.false_eq_true, if_false, if_true]

/-- An access of HBM with recording and replay off: it reaches its homes, and nothing fails. -/
theorem hostAccess_calm (hm : s.recd.mode = 0) (hh : s.recd.halted = false) (he : s.arg.ecc = .clean) (hl : InHbm l) (x : HostAccess) :
    s.hostAccess x l = match x.atom with
      | some k => s.hostAtomicAt l k x.bytes x.data true
      | none => if x.write then s.hostWriteAt l x.data
        else (s.hostRead l true).1.emit (.hostData (s.hostRead l true).2.1 (s.hostRead l true).2.2) := by
  have hrep : s.replaying = false := by
    unfold State.replaying
    rw [hm]
    rfl
  have hrec : s.recording = false := by
    unfold State.recording
    rw [hm]
    rfl
  have hop : s.mayOp hostAgent 0 0 = true := by
    unfold State.mayOp State.hasTurn
    rw [hrep, hrec, hh]
    rfl
  have hask : (l.any fun p => s.asksCap (lineOf p.a) (!x.write)) = false := by
    rw [List.any_eq_false]
    intro p hp
    unfold State.asksCap
    simp [hl p hp]
  unfold State.hostAccess State.hostBrought State.hostLogged
  simp only [hrep, hh, hop, hask, hostReach_hbm hl he, Bool.false_and, Bool.not_true, Bool.not_false, and_false, or_self,
    Bool.false_eq_true, if_false] <;> rfl

end

section
variable {s : State} {l : List HostPiece} {p : HostPiece} {k : HostAtomic}

theorem hostRead_answers (hw : s.arg.host.way ≠ .bar4) (hf : s.arg.flag2 = false) (he : s.arg.ecc = .clean) (hm : s.recd.mode = 0)
    (hh : s.recd.halted = false) (hp : s.mem.partials = []) (hv : hostValid s.arg.host (s.hostPa s.arg.host) = true)
    (hl : s.hostPieces (s.hostPa s.arg.host) s.arg.host.bytes 0 s.arg.host.bytes = some l)
    (ho : s.piecesOpen (s.arg.a % 2) l = true) (hb : InHbm l) (hat : s.arg.host.atom = none) (hwr : s.arg.host.write = false) :
    ∃ u, exec .hostMemoryAccess s = .next u ∧
      u.outbox = s.outbox ++ [.hostData (l.any fun p => s.poisoned (lineOf p.a)) (l.flatMap fun p => readBytes s.mem.bytes p.a p.n)] ∧
      u.mem.bytes = s.mem.bytes := by
  obtain ⟨t, ht, hr⟩ := hostRead_ok hm hp l true
  refine ⟨_, exec_hostAccess hw hf hv hl ho hb, ?_⟩
  rw [hostAccess_calm hm hh he hb, hat, hwr]
  simp only [Bool.false_eq_true, if_false, hr]
  exact ⟨congrArg (· ++ _) ht.outbox, ht.bytes⟩

theorem hostWrite_stores (hw : s.arg.host.way ≠ .bar4) (hf : s.arg.flag2 = false) (he : s.arg.ecc = .clean) (hm : s.recd.mode = 0)
    (hh : s.recd.halted = false) (hp : s.mem.partials = []) (hv : hostValid s.arg.host (s.hostPa s.arg.host) = true)
    (hl : s.hostPieces (s.hostPa s.arg.host) s.arg.host.bytes 0 s.arg.host.bytes = some [p])
    (ho : s.piecesOpen (s.arg.a % 2) [p] = true) (hb : InHbm [p]) (hoff : p.off = 0) (hn : p.n = s.arg.host.bytes)
    (hc : inCalPage p.a = false) (hpo : s.poisoned (lineOf p.a) = false) (hat : s.arg.host.atom = none)
    (hwr : s.arg.host.write = true) (hd : s.arg.host.data.length = s.arg.host.bytes) :
    ∃ u, exec .hostMemoryAccess s = .next u ∧ ∀ a, readByte u.mem.bytes a =
      if p.a ≤ a ∧ a < p.a + p.n then s.arg.host.data.getD (a - p.a) 0 else readByte s.mem.bytes a := by
  obtain ⟨hby, -⟩ := hostWriteAt_ok hm hp (hb p (List.mem_singleton_self _)) hoff hc hpo (hd.trans hn.symm)
  refine ⟨_, exec_hostAccess hw hf hv hl ho hb, fun a => ?_⟩
  rw [hostAccess_calm hm hh he hb, hat, hwr]
  simp only [if_true]
  rw [hby, readByte_writeBytes, hd, hn]

theorem hostAtomic_applies (hw : s.arg.host.way ≠ .bar4) (hf : s.arg.flag2 = false) (he : s.arg.ecc = .clean) (hm : s.recd.mode = 0)
    (hh : s.recd.halted = false) (hp : s.mem.partials = []) (hv : hostValid s.arg.host (s.hostPa s.arg.host) = true)
    (hl : s.hostPieces (s.hostPa s.arg.host) s.arg.host.bytes 0 s.arg.host.bytes = some [p])
    (ho : s.piecesOpen (s.arg.a % 2) [p] = true) (hb : InHbm [p]) (hoff : p.off = 0) (hn : p.n = s.arg.host.bytes)
    (hc : inCalPage p.a = false) (hpo : s.poisoned (lineOf p.a) = false) (hat : s.arg.host.atom = some k)
    (hd : s.arg.host.data.length = if k = .cas then 2 * s.arg.host.bytes else s.arg.host.bytes) :
    ∃ u, exec .hostMemoryAccess s = .next u ∧ u.outbox = s.outbox ++ [.hostData false (readBytes s.mem.bytes p.a p.n)] ∧
      ∀ a, readByte u.mem.bytes a = if p.a ≤ a ∧ a < p.a + p.n then
        (hostAtomicResult k s.arg.host.bytes (readBytes s.mem.bytes p.a p.n) s.arg.host.data).getD (a - p.a) 0
        else readByte s.mem.bytes a := by
  obtain ⟨t, ht, hr⟩ := hostRead_ok hm hp [p] false
  have hlen : (hostAtomicResult k s.arg.host.bytes (readBytes s.mem.bytes p.a p.n) s.arg.host.data).length = p.n :=
    (length_hostAtomicResult ((length_readBytes ..).trans hn) hd).trans hn.symm
  obtain ⟨hby, hout⟩ := hostWriteAt_ok (ht.mode.trans hm) (ht.partials.trans hp) (hb p (List.mem_singleton_self _)) hoff hc
    ((ht.poisoned _).trans hpo) hlen
  have hat' : s.hostAtomicAt [p] k s.arg.host.bytes s.arg.host.data true = (t.hostWriteAt [p]
      (hostAtomicResult k s.arg.host.bytes (readBytes s.mem.bytes p.a p.n) s.arg.host.data)).emit
        (.hostData false (readBytes s.mem.bytes p.a p.n)) := by
    unfold State.hostAtomicAt
    rw [hr]
    simp [hpo]
  refine ⟨_, exec_hostAccess hw hf hv hl ho hb, ?_⟩
  rw [hostAccess_calm hm hh he hb, hat]
  dsimp only
  rw [hat']
  refine ⟨congrArg (· ++ _) (hout.trans ht.outbox), fun a => ?_⟩
  rw [emit_mem, hby, readByte_writeBytes, hlen, ht.bytes]

end

/-- A kick page read gives its slot's TAIL. -/
theorem hostKick_reads {s : State} (hw : s.arg.host.way = .bar4) (hf : s.arg.flag2 = false) (ho : s.arg.host.off < 0x100000)
    (ha : s.arg.host.atom = none) (hwr : s.arg.host.write = false) :
    exec .hostMemoryAccess s =
      .next (s.emit (.hostData false (leBytes s.arg.host.bytes (s.slot (s.arg.host.off / 4096)).tail.toNat))) := by
  change execHostMemoryAccess s = _
  unfold execHostMemoryAccess
  dsimp only
  rw [crossing_of_sound hf, if_pos hw, if_neg (by rw [ha]; simp only [Option.isSome_none, Bool.false_eq_true, or_false]; omega), hwr]
  rfl

theorem hostSnoop_gives {s : State} {d : List Byte} (h : nget s.mem.hostDirty (hostLine s.arg.a s.arg.b) = some d) :
    ∃ u, exec .hostSnoop s = .next u ∧ nget u.mem.hostDirty (hostLine s.arg.a s.arg.b) = none ∧
      u.outbox = s.outbox ++ [.hostSnoop d.isEmpty d] ∧ ∀ a, readByte u.mem.bytes a = readByte s.mem.bytes a := by
  have he : exec .hostSnoop s = execHostSnoop s := rfl
  unfold execHostSnoop at he
  simp only [h] at he
  exact ⟨_, he, (nget_ndel ..).trans (if_pos rfl), rfl, fun _ => rfl⟩

/-- What the host's accesses do. -/
theorem hostAccesses : Rules.HostAccesses := by
  intro s
  refine ⟨fun hw hf he hm hh hp => ⟨hostAccess_refused hw hf, fun l hl hc => hostAccess_cxl hc hf hl, fun l hv hl ho hb =>
    ⟨hostRead_answers hw hf he hm hh hp hv hl ho hb, fun p hlp hoff hn hc hpo => ?_⟩⟩, hostKick_reads, fun d => hostSnoop_gives⟩
  subst hlp
  exact ⟨hostWrite_stores hw hf he hm hh hp hv hl ho hb hoff hn hc hpo,
    fun k => hostAtomic_applies hw hf he hm hh hp hv hl ho hb hoff hn hc hpo⟩

end Sys2Proof.Machine
end

section
/-! The completions of the device's own accesses of host memory (O22). -/

namespace Sys2Proof.Machine

theorem getLsbD_laneBit_ne {i j : Nat} (h : i ≠ j) : (laneBit j).getLsbD i = false := by
  unfold laneBit
  rw [BitVec.getLsbD_ofNat, Nat.testBit_two_pow_of_ne h.symm, Bool.and_false]

section
variable {s : State} {r : Req}

/-- The end of a host access is noted and its values recorded: no request changes. -/
theorem endHostReq_reqs (s : State) (r : Req) : (s.endHostReq r).reqs = s.reqs := by
  have hv : (s.hostValues r).reqs = s.reqs := by
    unfold State.hostValues
    split
    · dsimp only
      split
      · rw [(recordValue_recdOnly ..).same]
      · rfl
    · rfl
  exact (note_reqs ..).trans hv

theorem noteReq_reqs (s : State) (r : Req) : (s.noteReq r).reqs = s.reqs := note_reqs ..

theorem modReq_found (h : s.req? s.arg.a = some r) (f : Req → Req) (hf : ∀ q, (f q).id = q.id) :
    (s.modReq r.id f).req? r.id = some (f r) := by
  have hid := id_of_req? h
  rw [← hid] at h
  exact req?_modReq_same h hf

/-- A request replaced by one of its identity. -/
theorem modReq_const_found (h : s.req? s.arg.a = some r) {q : Req} (hq : q.id = r.id) :
    (s.modReq r.id fun _ => q).req? r.id = some q := by
  have hid := id_of_req? h
  rw [← hid] at h
  unfold State.req? at h ⊢
  obtain ⟨h0, as, bs, hl, has⟩ := List.find?_eq_some_iff_append.1 h
  refine List.find?_eq_some_iff_append.2 ⟨by simp [hq], as.map fun x => if x.id = r.id then q else x, bs.map fun x =>
    if x.id = r.id then q else x, ?_, fun x hx => ?_⟩
  · change s.reqs.map _ = _
    rw [hl]
    simp
  · obtain ⟨y, hy, rfl⟩ := List.mem_map.1 hx
    have hne : y.id ≠ r.id := by simpa using has y hy
    simp [hne]

/-! ### Lanes of an atomic -/

/-- The last lane of a host atomic found a value: the request is served with what every lane found. -/
theorem hostLaneEnd_found (h : s.req? s.arg.a = some r) {o : LaneOp} (ho : r.ops.drop r.got.length = [o]) (hb : r.bad = 0)
    (link : Nat) (v : QWord) :
    (s.hostLaneEnd r link (.ok v)).req? r.id =
      some { r with stage := .served, got := if r.dst = .none then [] else r.got ++ [(o.lane, v)], tries := 0 } := by
  unfold State.hostLaneEnd
  simp only [ho]
  rw [req?_of_reqs (endHostReq_reqs ..), modReq_const_found h]
  · simp [hb]
  · rfl

/-- The last lane of a host atomic failed: it has no value, and the lanes before it keep theirs. -/
theorem hostLaneEnd_fails (h : s.req? s.arg.a = some r) {o : LaneOp} (ho : r.ops.drop r.got.length = [o]) (hb : r.bad = 0)
    (he : r.err = none) (link : Nat) (k : Cause) :
    ∃ q, (s.hostLaneEnd r link (.error k)).req? r.id = some q ∧ q.stage = .served ∧ q.err = some k ∧ q.bad = laneBit o.lane ∧
      q.ops = r.ops ∧ (r.dst ≠ .none → ∀ g ∈ r.got, g.1 ≠ o.lane → g ∈ q.got) := by
  unfold State.hostLaneEnd
  simp only [ho]
  rw [req?_of_reqs (endHostReq_reqs ..), modReq_const_found h]
  · refine ⟨_, rfl, rfl, by simp [Req.failLane, he], by simp [Req.failLane, hb], rfl, fun hd g hg hne => ?_⟩
    simp only [hd, if_false]
    refine List.mem_filter.2 ⟨List.mem_append_left _ hg, ?_⟩
    simp [Req.failLane, hb, getLsbD_laneBit_ne hne]
  · rfl

end

/-! ### Completions -/

section
variable {s : State} {r : Req} {link : Nat}

theorem completion_keeps (h : s.req? s.arg.a = some r) (hh : r.home = .host link) (hs : r.stage = .sent) {data : List Byte}
    (hd : s.arg.reply = .ok data) (hc : s.hostCached r link = true) (hl : data.length = 128) :
    ∃ u, exec .hostLinkCompletion s = .next u ∧ nget u.mem.hostDirty (hostLine link r.line) = some data ∧
      u.req? r.id = some { r with stage := .accepted } := by
  have he : exec .hostLinkCompletion s = execHostLinkCompletion s := rfl
  unfold execHostLinkCompletion at he
  simp only [h, hh, hs, hd, hc, hl, ne_eq, not_true, if_false, if_true] at he
  exact ⟨_, he, nget_nput_same .., modReq_found (s := { s with
    mem := { s.mem with hostDirty := nput (hostLine link r.line) data s.mem.hostDirty } }) h _ fun _ => rfl⟩

theorem completion_loads (h : s.req? s.arg.a = some r) (hh : r.home = .host link) (hs : r.stage = .sent) {data : List Byte}
    (hd : s.arg.reply = .ok data) (hc : s.hostCached r link = false) (hk : r.kind = .load)
    (hl : data.length = r.span.2 - r.span.1) :
    ∃ u, exec .hostLinkCompletion s = .next u ∧ u.req? r.id = some { r with
      stage := .served, got := r.ops.map fun o => (o.lane, r.extend (leNat ((data.drop (o.addr - r.span.1)).take r.size))) } := by
  have he : exec .hostLinkCompletion s = execHostLinkCompletion s := rfl
  unfold execHostLinkCompletion at he
  simp only [h, hh, hs, hd, hc, hk, hl, ne_eq, not_true, Bool.false_eq_true, if_false, if_true] at he
  exact ⟨_, he, (req?_of_reqs (endHostReq_reqs ..) _).trans (modReq_found h (fun q => { q with
    stage := .served
    got := r.ops.map fun o => (o.lane, r.extend (leNat ((data.drop (o.addr - r.span.1)).take r.size))) }) fun _ => rfl)⟩

/-- What a completion that brings no data does. -/
theorem exec_hostLinkCompletion_failed (h : s.req? s.arg.a = some r) (hh : r.home = .host link) (hs : r.stage = .sent)
    (hd : ∀ data, s.arg.reply ≠ .ok data) :
    exec .hostLinkCompletion s = .next (if r.kind = .pref then s.modReq r.id fun q => { q with stage := .served }
      else if r.kind.isAtomic && !s.hostCached r link then s.hostLaneEnd r link (.error .ioError)
      else (s.noteReq r).failReq r .ioError) := by
  change execHostLinkCompletion s = _
  unfold execHostLinkCompletion
  simp only [h, hh, hs]
  cases hr : s.arg.reply with
  | ok data => exact absurd hr (hd data)
  | poison => rfl
  | timeout => rfl
  | linkFail => rfl
  | unsupported => rfl
  | abort => rfl
  | poisonRefused => rfl

theorem completion_prefetch (h : s.req? s.arg.a = some r) (hh : r.home = .host link) (hs : r.stage = .sent)
    (hd : ∀ data, s.arg.reply ≠ .ok data) (hk : r.kind = .pref) :
    ∃ u, exec .hostLinkCompletion s = .next u ∧ u.req? r.id = some { r with stage := .served } := by
  have he := exec_hostLinkCompletion_failed h hh hs hd
  rw [if_pos hk] at he
  exact ⟨_, he, modReq_found h _ fun _ => rfl⟩

theorem completion_fails (h : s.req? s.arg.a = some r) (hh : r.home = .host link) (hs : r.stage = .sent)
    (hd : ∀ data, s.arg.reply ≠ .ok data) (hk : r.kind ≠ .pref) (ha : r.kind.isAtomic = false ∨ s.hostCached r link = true) :
    ∃ u, exec .hostLinkCompletion s = .next u ∧ u.req? r.id = some { r with stage := .served, err := some .ioError } := by
  have he := exec_hostLinkCompletion_failed h hh hs hd
  rw [if_neg hk, if_neg (by obtain h | h := ha <;> simp [h])] at he
  have hn : (s.noteReq r).req? r.id = some r := by
    rw [req?_of_reqs (noteReq_reqs ..), id_of_req? h]
    exact h
  exact ⟨_, he, req?_modReq_same hn fun _ => rfl⟩

theorem completion_lane (h : s.req? s.arg.a = some r) (hh : r.home = .host link) (hs : r.stage = .sent)
    (hd : ∀ data, s.arg.reply ≠ .ok data) (ha : r.kind.isAtomic = true) (hc : s.hostCached r link = false) :
    exec .hostLinkCompletion s = .next (s.hostLaneEnd r link (.error .ioError)) := by
  have hk : r.kind ≠ .pref := by
    intro hk
    rw [hk] at ha
    exact absurd ha (by decide)
  rw [exec_hostLinkCompletion_failed h hh hs hd, if_neg hk, if_pos (by simp [ha, hc])]

/-- What the answer to a compare and swap of path 3 does to the lane whose turn it is. -/
theorem exec_casAttempt (h : s.req? s.arg.a = some r) (hh : r.home = .host link) (hs : r.stage = .sent) {o : LaneOp}
    (ho : r.ops.drop r.got.length = [o]) (hc : s.hostCached r link = false) (hp : s.hostPath link r.uc r.kind r.size = some 3) :
    exec .hostAtomicCasAttempt s = .next (if s.arg.q = o.cmp then s.hostLaneEnd r link (.ok s.arg.q)
      else if 64 ≤ r.tries then s.hostLaneEnd r link (.error .hostAtomicRetry)
      else (s.modReq r.id fun q => { q with tries := q.tries + 1 }).emit (.hostRead link o.addr r.size r.id)) := by
  change execHostAtomicCasAttempt s = _
  unfold execHostAtomicCasAttempt
  simp only [h, hh, hs, ho, hc, hp, Bool.false_eq_true, ne_eq, not_true, or_self, if_false]
  split
  · rfl
  · split <;> rfl

end

/-- What completes the device's accesses of host memory. -/
theorem hostCompletions : Rules.HostCompletions := by
  intro s r link h hh hs _
  refine ⟨fun data => completion_keeps h hh hs, fun data => completion_loads h hh hs, fun hd => ⟨completion_prefetch h hh hs hd,
    completion_fails h hh hs hd, fun o ha hc ho he hb => ⟨_, completion_lane h hh hs hd ha hc, hostLaneEnd_fails h ho hb he ..⟩⟩,
    fun o ho hc hp hb => ?_⟩
  have hx := exec_casAttempt h hh hs ho hc hp
  refine ⟨fun hq => ?_, fun hq ht => ?_, fun hq ht he => ?_⟩
  · rw [if_pos hq] at hx
    exact ⟨_, hx, hostLaneEnd_found h ho hb ..⟩
  · rw [if_neg hq, if_neg (not_le.2 ht)] at hx
    exact ⟨_, hx, modReq_found h _ fun _ => rfl, rfl⟩
  · rw [if_neg hq, if_pos ht] at hx
    exact ⟨_, hx, hostLaneEnd_fails h ho hb he ..⟩

end Sys2Proof.Machine
end

section
/-! The arrival of translations (O22). -/

namespace Sys2Proof.Machine

/-! ### Entries put into their TLBs -/

theorem mem_tlbPut_other {e x : TlbEntry} {l : List TlbEntry} (hx : x ∈ l) (hn : x.tlb ≠ e.tlb) : x ∈ tlbPut e l := by
  have hm : x ∈ l.filter fun x => !(x.tlb == e.tlb && x.ctx == e.ctx && x.page == e.page && x.ats == e.ats) :=
    List.mem_filter.2 ⟨hx, by simp [hn]⟩
  unfold tlbPut
  refine List.mem_cons_of_mem _ ?_
  split
  · exact hm
  · split
    · rename_i old hold
      have hmine := (List.mem_filter.1 (List.mem_of_getLast? hold)).2
      have hne : x ≠ old := by
        rintro rfl
        exact hn (eq_of_beq hmine)
      exact (List.mem_erase_of_ne hne).2 hm
    · exact hm

/-- A translation put into TLBs in turn is in each of them. -/
theorem mem_foldl_tlbPut (e : Nat → TlbEntry) (he : ∀ n, (e n).tlb = n) (ns : List Nat) {l : List TlbEntry} {m : Nat}
    (h : m ∈ ns ∨ e m ∈ l) : e m ∈ ns.foldl (fun t n => tlbPut (e n) t) l := by
  induction ns generalizing l with
  | nil => exact h.resolve_left List.not_mem_nil
  | cons n ns ih =>
    refine ih ?_
    by_cases hmn : m = n
    · subst hmn
      exact .inr List.mem_cons_self
    · refine h.imp (fun h => (List.mem_cons.1 h).resolve_left hmn) fun h => mem_tlbPut_other h ?_
      rw [he, he]
      exact hmn

theorem mem_fillTlb (s : State) {tlbs : List Nat} {n m : Nat} (hn : n ∈ tlbs) (hm : m = n ∨ m = tlbBehind n) (c page : Nat)
    (ats : Option Bool) (l : Leaf) :
    { tlb := m, ctx := c, page := page, ats := ats, leaf := l } ∈ (s.fillTlb tlbs c page ats l).xl.tlb := by
  refine mem_foldl_tlbPut (fun n => { tlb := n, ctx := c, page := page, ats := ats, leaf := l }) (fun _ => rfl) _ (.inl ?_)
  rw [List.mem_eraseDups, List.mem_append]
  obtain rfl | rfl := hm
  · exact .inl hn
  · exact .inr (List.mem_map_of_mem hn)

/-- What a walk that found its leaf leaves: it is over, and every TLB that waited holds the page. -/
def Filled (k : Walk) (u : State) (l : Leaf) : Prop :=
  (∀ w ∈ u.xl.walks, w.id ≠ k.id) ∧ ∀ n ∈ k.tlbs, ∀ m, m = n ∨ m = tlbBehind n →
    { tlb := m, ctx := k.ctx, page := k.page, ats := if k.ats then some k.priv else none, leaf := l } ∈ u.xl.tlb

/-- What a walk that found no page leaves: it is over, and its page has a fault record. -/
def Faulted (k : Walk) (u : State) : Prop := (∀ w ∈ u.xl.walks, w.id ≠ k.id) ∧ ∃ f ∈ u.xl.faults, f.ctx = k.ctx ∧ f.page = k.page

theorem ne_of_mem_dropWalk {s : State} {id : Nat} {w : Walk} (h : w ∈ (s.dropWalk id).xl.walks) : w.id ≠ id := by
  simpa using (List.mem_filter.1 h).2

theorem endWalk_fills (s : State) (k : Walk) (l : Leaf) : Filled k (s.endWalk k l) l :=
  ⟨fun _ hw => ne_of_mem_dropWalk hw, fun _ hn _ hm => mem_fillTlb _ hn hm ..⟩

theorem endWalk_same (s : State) (k : Walk) (l : Leaf) : s.endWalk k l = { s with xl := (s.endWalk k l).xl } := rfl

/-! ### Fault records -/

theorem faultRing_same (s : State) (c : Nat) (cause : Cause) (malf hostpg wpois : Bool) (kind : AccessKind) (fseq : Word) (va : DWord)
    (site : FaultSite) : (s.faultRing c cause malf hostpg wpois kind fseq va site).xl = s.xl ∧
      (s.faultRing c cause malf hostpg wpois kind fseq va site).dev = s.dev := by
  unfold State.faultRing
  dsimp only
  rw [modCtx_xl, modCtx_dev, (pokePa_journalOnly ..).same]
  exact ⟨rfl, rfl⟩

/-- A fault joined: its page has a record, and walks stay as they are. -/
theorem joinFault_records (s : State) (c page : Nat) (va : DWord) (kind : AccessKind) (site : FaultSite) (malf hostpg wpois : Bool) :
    (∃ f ∈ (s.joinFault c page va kind site malf hostpg wpois).xl.faults, f.ctx = c ∧ f.page = page) ∧
      (s.joinFault c page va kind site malf hostpg wpois).xl.walks = s.xl.walks ∧
      (s.joinFault c page va kind site malf hostpg wpois).dev = s.dev := by
  unfold State.joinFault
  split
  · rename_i h
    obtain ⟨f, hf, hc⟩ := List.any_eq_true.1 h
    simp only [Bool.and_eq_true, beq_iff_eq] at hc
    exact ⟨⟨f, hf, hc⟩, rfl, rfl⟩
  · dsimp only
    split
    · rw [(faultRing_same ..).1, (faultRing_same ..).2]
      exact ⟨⟨_, List.mem_append_right _ (List.mem_singleton_self _), rfl, rfl⟩, rfl, rfl⟩
    · exact ⟨⟨_, List.mem_append_right _ (List.mem_singleton_self _), rfl, rfl⟩, rfl, rfl⟩

theorem dropWalk_joinFault_faulted (s : State) (k : Walk) (malf hostpg wpois : Bool) :
    Faulted k ((s.dropWalk k.id).joinFault k.ctx k.page k.va k.kind k.site malf hostpg wpois) := by
  obtain ⟨hf, hw, -⟩ := joinFault_records (s.dropWalk k.id) k.ctx k.page k.va k.kind k.site malf hostpg wpois
  exact ⟨fun w h => ne_of_mem_dropWalk (hw ▸ h), hf⟩

/-! ### Denials -/

theorem mem_modWalk {s : State} {k : Walk} (h : k ∈ s.xl.walks) (f : Walk → Walk) : f k ∈ (s.modWalk k.id f).xl.walks :=
  List.mem_map.2 ⟨k, h, if_pos rfl⟩

section
variable {s : State} {k : Walk}

theorem denyWalk_asks (hk : k ∈ s.xl.walks) (ho : s.dev.priOff.getLsbD (s.ctx k.ctx).link.toNat = false)
    (hr : s.priRoom (s.ctx k.ctx).link.toNat = true) :
    { k with pri := true, denied := false } ∈ (s.denyWalk k).xl.walks ∧
      (s.denyWalk k).outbox = s.outbox ++ [.priRequest (s.ctx k.ctx).link.toNat (s.ctx k.ctx).pasid k.page k.id] := by
  unfold State.denyWalk
  simp only [ho, hr, Bool.false_eq_true, if_false, if_true]
  exact ⟨mem_modWalk hk fun w => { w with pri := true, denied := false }, rfl⟩

theorem denyWalk_waits (hk : k ∈ s.xl.walks) (ho : s.dev.priOff.getLsbD (s.ctx k.ctx).link.toNat = false)
    (hr : s.priRoom (s.ctx k.ctx).link.toNat = false) :
    { k with denied := true } ∈ (s.denyWalk k).xl.walks ∧ (s.denyWalk k).outbox = s.outbox := by
  unfold State.denyWalk
  simp only [ho, hr, Bool.false_eq_true, if_false]
  exact ⟨mem_modWalk hk fun w => { w with denied := true }, rfl⟩

theorem denyWalk_faults (ho : s.dev.priOff.getLsbD (s.ctx k.ctx).link.toNat = true) : Faulted k (s.denyWalk k) := by
  unfold State.denyWalk
  simp only [ho, if_true]
  exact dropWalk_joinFault_faulted ..

/-- Denied walks taken up again where none waits. -/
theorem retryDenied_none (h : ∀ w ∈ s.xl.walks, w.denied = false) : s.retryDenied = s := by
  have hf : (s.xl.walks.filter fun w => w.denied) = [] := List.filter_eq_nil_iff.2 fun w hw => by simp [h w hw]
  unfold State.retryDenied
  rw [hf]
  rfl

/-! ### ATS and PRI -/

theorem atsCompletion_grants (h : (s.xl.walks.find? fun w => w.id == s.arg.a && w.ats && !w.pri && !w.denied) = some k) {page : Nat}
    {r w : Bool} (ha : s.arg.ats = .granted page r w) (hg : grantAllows k.kind r w = true) :
    exec .atsCompletion s = .next (s.endWalk k (atsLeaf page r w)) := by
  change execAtsCompletion s = _
  unfold execAtsCompletion
  simp only [h, ha, hg, if_true]

theorem atsCompletion_denies (h : (s.xl.walks.find? fun w => w.id == s.arg.a && w.ats && !w.pri && !w.denied) = some k)
    (ha : s.arg.ats = .denied ∨ ∃ page r w, s.arg.ats = .granted page r w ∧ grantAllows k.kind r w = false) :
    exec .atsCompletion s = .next (s.denyWalk k) := by
  change execAtsCompletion s = _
  unfold execAtsCompletion
  obtain ha | ⟨page, r, w, ha, hg⟩ := ha
  · simp only [h, ha]
  · simp only [h, ha, hg, Bool.false_eq_true, if_false]

theorem priResponse_success (h : (s.xl.walks.find? fun w => w.id == s.arg.a && w.pri) = some k)
    (hd : ∀ w ∈ s.xl.walks, w.denied = false) (hp : s.arg.pri = .success) :
    ∃ u, exec .priResponse s = .next u ∧ { k with pri := false } ∈ u.xl.walks ∧
      u.outbox = s.outbox ++ [.atsRequest (s.ctx k.ctx).link.toNat (s.ctx k.ctx).pasid k.page k.id k.priv] := by
  have he : exec .priResponse s = execPriResponse s := rfl
  unfold execPriResponse at he
  simp only [h, hp] at he
  rw [retryDenied_none] at he
  · exact ⟨_, he, mem_modWalk (List.mem_of_find?_eq_some h) fun w => { w with pri := false }, rfl⟩
  · intro w hw
    obtain ⟨x, hx, rfl⟩ := List.mem_map.1 hw
    split
    · exact hd x hx
    · exact hd x hx

/-- A fault record takes the place of a walk: no other walk is denied by it. -/
theorem record_calm (hd : ∀ w ∈ s.xl.walks, w.denied = false) :
    ∀ w ∈ ((s.dropWalk k.id).joinFault k.ctx k.page k.va k.kind k.site false true false).xl.walks, w.denied = false := by
  intro w hw
  rw [(joinFault_records ..).2.1] at hw
  exact hd w (List.mem_filter.1 hw).1

theorem priResponse_invalid (h : (s.xl.walks.find? fun w => w.id == s.arg.a && w.pri) = some k)
    (hd : ∀ w ∈ s.xl.walks, w.denied = false) (hp : s.arg.pri = .invalidRequest) :
    ∃ u, exec .priResponse s = .next u ∧ Faulted k u ∧ u.dev = s.dev := by
  have he : exec .priResponse s = execPriResponse s := rfl
  unfold execPriResponse at he
  simp only [h, hp] at he
  rw [retryDenied_none (record_calm hd)] at he
  exact ⟨_, he, dropWalk_joinFault_faulted .., (joinFault_records ..).2.2⟩

theorem priResponse_failure (h : (s.xl.walks.find? fun w => w.id == s.arg.a && w.pri) = some k)
    (hd : ∀ w ∈ s.xl.walks, w.denied = false) (hp : s.arg.pri = .responseFailure) :
    ∃ u, exec .priResponse s = .next u ∧ Faulted k u ∧ u.dev.priOff = s.dev.priOff ||| 1 <<< (s.ctx k.ctx).link.toNat := by
  have he : exec .priResponse s = execPriResponse s := rfl
  unfold execPriResponse at he
  simp only [h, hp] at he
  rw [retryDenied_none] at he
  · exact ⟨_, he, dropWalk_joinFault_faulted .., congrArg Dev.priOff (joinFault_records ..).2.2⟩
  · exact record_calm (s := { s with dev := { s.dev with priOff := s.dev.priOff ||| 1 <<< (s.ctx k.ctx).link.toNat } }) hd

theorem exec_translationWalkComplete (h : (s.xl.walks.find? fun w => w.id == s.arg.a && !w.ats) = some k) :
    exec .translationWalkComplete s = .next (s.finishWalk k) := by
  change execTranslationWalkComplete s = _
  unfold execTranslationWalkComplete
  rw [h]

end

/-- What translations that arrive do. -/
theorem translationsArrive : Rules.TranslationsArrive := by
  intro s k
  refine ⟨fun h => ⟨fun page r w ha hg => ⟨_, atsCompletion_grants h ha hg, endWalk_fills .., endWalk_same ..⟩, fun ha =>
      ⟨fun ho hr => ⟨_, atsCompletion_denies h ha, denyWalk_asks (List.mem_of_find?_eq_some h) ho hr⟩,
        fun ho hr => ⟨_, atsCompletion_denies h ha, denyWalk_waits (List.mem_of_find?_eq_some h) ho hr⟩,
        fun ho => ⟨_, atsCompletion_denies h ha, denyWalk_faults ho⟩⟩⟩,
    fun h hd => ⟨priResponse_success h hd, priResponse_invalid h hd, priResponse_failure h hd⟩,
    fun h => ⟨fun t l hw => ⟨_, exec_translationWalkComplete h, ?_⟩, fun t m hw => ⟨_, exec_translationWalkComplete h, ?_⟩, fun t hw => ?_⟩⟩
  · unfold State.finishWalk
    rw [hw]
    exact endWalk_fills t k l
  · unfold State.finishWalk
    rw [hw]
    exact dropWalk_joinFault_faulted ..
  · rw [exec_translationWalkComplete h]
    unfold State.finishWalk
    rw [hw]

/-- Settles O22: an access of the host reaches its pieces line by line, a completion ends or goes on with its request, and a translation
that arrives fills the TLBs that wait or leaves a fault record. -/
theorem hostAndTranslation : Obligations.HostAndTranslation := ⟨hostAccesses, hostCompletions, translationsArrive⟩

end Sys2Proof.Machine
end

section
/-! What a home does with a request before the request's own effect (O56). -/

namespace Sys2Proof.Machine

/-! ### Caches and the writer lists -/

/-- Two states that agree but for the recorder, the caches, the lines of host memory held, the lists of writers and what was sent. -/
structure HomeAside (s u : State) : Prop where
  same : u = { s with
    recd := u.recd, outbox := u.outbox
    mem := { s.mem with cache := u.mem.cache, writers := u.mem.writers, hostDirty := u.mem.hostDirty } }

namespace HomeAside
variable {s u v : State}

theorem refl (s : State) : HomeAside s s := ⟨rfl⟩

theorem trans (h : HomeAside s u) (g : HomeAside u v) : HomeAside s v := by
  refine ⟨?_⟩
  rw [g.same, h.same]

theorem bytes (h : HomeAside s u) : u.mem.bytes = s.mem.bytes := by rw [h.same]
theorem tags (h : HomeAside s u) : u.mem.tags = s.mem.tags := by rw [h.same]
theorem enrols (h : HomeAside s u) : u.mem.enrols = s.mem.enrols := by rw [h.same]
theorem blks (h : HomeAside s u) : u.blks = s.blks := by rw [h.same]
theorem reqs (h : HomeAside s u) : u.reqs = s.reqs := by rw [h.same]

theorem poisoned (h : HomeAside s u) (line : Nat) : u.poisoned line = s.poisoned line := by
  rw [h.same]
  rfl

theorem partialsOf (h : HomeAside s u) (line : Nat) : u.partialsOf line = s.partialsOf line := by
  rw [h.same]
  rfl

theorem ite {p : Prop} [Decidable p] (h : HomeAside s u) (g : HomeAside s v) : HomeAside s (if p then u else v) := by
  split
  · exact h
  · exact g

end HomeAside

theorem setCache_homeAside (s : State) (l : List CacheLine) : HomeAside s (s.setCache l) := ⟨rfl⟩

theorem hostGone_homeAside (s : State) (link line : Nat) (dirty : Bool) : HomeAside s (s.hostGone link line dirty) := by
  unfold State.hostGone
  dsimp only
  split <;> exact ⟨rfl⟩

theorem recall_homeAside (s : State) (die line : Nat) : HomeAside s (s.recall die line) := by
  unfold State.recall
  dsimp only
  split
  · exact (setCache_homeAside ..).ite ((setCache_homeAside ..).trans (hostGone_homeAside ..))
  · exact setCache_homeAside ..

theorem cacheTouch_homeAside (s : State) (holder line : Nat) (reuse : BitVec 2) (st : Coh) :
    HomeAside s (s.cacheTouch holder line reuse st) := by
  unfold State.cacheTouch
  dsimp only
  split
  · exact setCache_homeAside ..
  · split
    · exact setCache_homeAside ..
    · split
      · exact .refl s
      · refine .trans ?_ (setCache_homeAside ..)
        split
        · exact (setCache_homeAside ..).trans ((setCache_homeAside ..).ite (recall_homeAside ..))
        · exact setCache_homeAside ..

theorem cacheRead_homeAside (s : State) (cluster line : Nat) (reuse : BitVec 2) : HomeAside s (s.cacheRead cluster line reuse) :=
  (HomeAside.trans ⟨rfl⟩ (cacheTouch_homeAside (s.shareLine ..) ..)).trans (cacheTouch_homeAside ..)

theorem cacheWrite_homeAside (s : State) (cluster line : Nat) (reuse : BitVec 2) : HomeAside s (s.cacheWrite cluster line reuse) :=
  (HomeAside.trans ⟨rfl⟩ (cacheTouch_homeAside (s.dropHolders ..) ..)).trans (cacheTouch_homeAside ..)

theorem RecdOnly.homeAside {s u : State} (h : RecdOnly s u) : HomeAside s u := by
  refine ⟨?_⟩
  rw [h.same]

theorem coherence_homeAside (s : State) (r : Req) : HomeAside s (s.coherence r) := by
  unfold State.coherence
  extract_lets isCadd hosted
  clear_value isCadd hosted
  split
  · exact .refl s
  · split
    · split
      · exact setCache_homeAside ..
      · exact setCache_homeAside ..
    · exact (cacheWrite_homeAside ..).ite (cacheRead_homeAside ..)

theorem markWriter_homeAside (s : State) (line writer : Nat) : HomeAside s (s.markWriter line writer) := by
  unfold State.markWriter
  exact (HomeAside.refl s).ite ⟨rfl⟩

theorem tagNote_off {s : State} {r : Req} (h : r.asyncTag = false) : s.tagNote r = s := by
  unfold State.tagNote
  rw [h]
  rfl

/-! ### The line before a request takes effect -/

/-- The state in which a request takes effect: its line gathered, its writer listed, and the caches as the access leaves them. -/
def State.atLine (s : State) (r : Req) : State :=
  ((if r.pub && s.doesWrite r then s.markWriter r.line (writerKey r.adm r.w) else s).tagNote r).coherence r

theorem atLine_homeAside (s : State) {r : Req} (h : r.asyncTag = false) : HomeAside s (s.atLine r) := by
  unfold State.atLine
  rw [tagNote_off h]
  exact ((markWriter_homeAside ..).ite (.refl s)).trans (coherence_homeAside ..)

theorem gather_none {s : State} {line : Nat} (h : s.partialsOf line = []) : s.gather line = s := by
  unfold State.gather
  rw [h]
  rfl

section
variable {s : State} {r : Req}

theorem noteReq_homeAside (h : s.replaying = false) (r : Req) : HomeAside s (s.noteReq r) :=
  (note_recdOnly h ..).homeAside

/-- The state in which a request that has been noted takes effect. -/
theorem noted_atLine (h : s.replaying = false) (ha : r.asyncTag = false) : HomeAside s ((s.noteReq r).atLine r) :=
  (noteReq_homeAside h r).trans (atLine_homeAside _ ha)

theorem partialsOf_noteReq (h : s.replaying = false) (hp : s.partialsOf r.line = []) : (s.noteReq r).partialsOf r.line = [] :=
  ((noteReq_homeAside h r).partialsOf _).trans hp

/-! ### The effects of the kinds -/

theorem performHome_load (hh : r.home = .mem) (hp : s.partialsOf r.line = []) (hk : r.kind = .load)
    (hb : (s.atLine r).poisoned r.line = false) :
    s.performHome r = ((s.atLine r).loadValues r).1.modReq r.id fun q => { q with
      stage := .served, got := ((s.atLine r).loadValues r).2 } := by
  unfold State.atLine at hb ⊢
  unfold State.performHome
  simp only [hk, hh, gather_none hp, hb, bne_self_eq_false, Bool.or_self, Bool.and_false, Bool.false_eq_true, if_false]

theorem performHome_poisoned (hh : r.home = .mem) (hp : s.partialsOf r.line = [])
    (hk : r.kind = .load ∨ r.kind = .cas ∨ ∃ p, r.kind = .atom p ∨ r.kind = .red p) (hb : (s.atLine r).poisoned r.line = true) :
    s.performHome r = (s.atLine r).failReq r .poisonConsumed := by
  unfold State.atLine at hb ⊢
  unfold State.performHome
  obtain hk | hk | ⟨p, hk | hk⟩ := hk
  all_goals
    simp only [hk, hh, gather_none hp, hb, bne_self_eq_false, beq_self_eq_true, Bool.or_self, Bool.and_self, Bool.false_eq_true, if_false,
      if_true]

theorem performHome_store (hh : r.home = .mem) (hp : s.partialsOf r.line = []) (hk : r.kind = .store) :
    s.performHome r = ((r.ops.foldl (fun t o => t.poke o.addr (leBytes r.size o.data.toNat)) (s.atLine r)).poisonWrite r.line
      r.fullLine).modReq r.id fun q => { q with stage := .served } := by
  unfold State.atLine State.performHome
  simp only [hk, hh, gather_none hp, bne_self_eq_false, beq_self_eq_true, Bool.or_self, Bool.false_eq_true, if_false, if_true]
  rfl

theorem performHome_atomic (hh : r.home = .mem) (hp : s.partialsOf r.line = [])
    (hk : r.kind = .cas ∨ ∃ p, r.kind = .atom p ∨ r.kind = .red p) (hb : (s.atLine r).poisoned r.line = false) :
    s.performHome r = ((s.atLine r).applyOps r r.ops).1.modReq r.id fun q => { q with
      stage := .served, got := if r.dst = .none then [] else ((s.atLine r).applyOps r r.ops).2 } := by
  unfold State.atLine at hb ⊢
  unfold State.performHome
  obtain hk | ⟨p, hk | hk⟩ := hk
  all_goals
    simp only [hk, hh, gather_none hp, hb, bne_self_eq_false, Bool.or_self, Bool.and_false, Bool.false_eq_true, if_false]

theorem performHome_tagld (hh : r.home = .mem) (hp : s.partialsOf r.line = []) (hk : r.kind = .tagld) :
    s.performHome r = (s.atLine r).modReq r.id fun q => { q with
      stage := .served, got := r.ops.map fun o => (o.lane, zext 128 ((s.atLine r).tagOf (o.addr / 32))) } := by
  unfold State.atLine State.performHome
  simp only [hk, hh, gather_none hp, bne_self_eq_false, Bool.or_self, Bool.false_eq_true, if_false]

theorem performHome_tagst (hh : r.home = .mem) (hp : s.partialsOf r.line = []) (hk : r.kind = .tagst) :
    s.performHome r = (r.ops.foldl (fun t o =>
      { t with mem := { t.mem with tags := nput (o.addr / 32) (o.data.setWidth 4) t.mem.tags } }.dirtied o.addr)
      (s.atLine r)).modReq r.id fun q => { q with stage := .served } := by
  unfold State.atLine State.performHome
  simp only [hk, hh, gather_none hp, bne_self_eq_false, Bool.or_self, Bool.false_eq_true, if_false]

/-- A WAITADDR of one lane lands or enrols. -/
theorem performHome_waitaddr (hh : r.home = .mem) (hp : s.partialsOf r.line = []) (hk : r.kind = .waitaddr) {o : LaneOp}
    (ho : r.ops = [o]) (hb : (s.atLine r).poisoned r.line = false) :
    s.performHome r =
      let t := (s.atLine r).modReq r.id fun q => { q with stage := .waiting }
      let x : QWord := BitVec.ofNat 128 (leNat (t.seen r o.addr r.size))
      if x = o.data then t.enrol r o else t.landWait r.id o.lane (some x) := by
  unfold State.atLine at hb ⊢
  unfold State.performHome
  simp only [hk, hh, ho, gather_none hp, hb, bne_self_eq_false, Bool.or_self, Bool.and_false, Bool.false_eq_true, if_false,
    List.foldl_cons, List.foldl_nil]

/-- A CADD of one lane adds to the partial sum of its cluster, after one of another format has been folded. -/
theorem performHome_cadd {fmt : BitVec 2} (hh : r.home = .mem) (hk : r.kind = .cadd fmt) {o : LaneOp} (ho : r.ops = [o])
    (hp : (s.atLine r).partialsOf r.line = []) :
    s.performHome r = ((s.atLine r).contribute (r.core / 8) r.core r.line o.fmt (o.addr % 128) (o.data.setWidth 64)).modReq r.id
      fun q => { q with stage := .served } := by
  unfold State.atLine at hp ⊢
  unfold State.performHome
  simp only [hk, hh, ho, hp, Bool.true_or, if_true, List.foldl_cons, List.foldl_nil]

end

end Sys2Proof.Machine
end

section
/-! What a home does with each request (O56). -/

namespace Sys2Proof.Machine

/-! ### What is seen and left at a line -/

/-- Where no store of the cluster stands before a load, it sees the bytes at its home. -/
theorem seen_home {s u : State} {r : Req} (hh : r.home = .mem) (hn : Rules.NoneBefore s r)
    (hr : ∀ q ∈ u.reqs, q.id < r.id → q ∈ s.reqs) (a n : Nat) : u.seen r a n = readBytes u.mem.bytes a n := by
  have hf : (u.reqs.filter fun q => q.kind == .store && q.stage != .queued && q.open && q.home == r.home && q.line == r.line
      && q.core / 8 == r.core / 8 && decide (q.id < r.id)) = [] := by
    refine List.filter_eq_nil_iff.2 fun q hq hc => ?_
    simp only [Bool.and_eq_true, beq_iff_eq, bne_iff_ne, ne_eq, decide_eq_true_eq] at hc
    obtain ⟨⟨⟨⟨⟨⟨hk, hs⟩, ho⟩, hho⟩, hl⟩, hc⟩, hid⟩ := hc
    exact absurd (hn q (hr q hq hid) hk hs ho (hho.trans hh) hl hc) (not_le.2 hid)
  unfold State.seen
  rw [hf, hh]
  rfl

theorem loadValues_home {s u : State} {r : Req} (hh : r.home = .mem) (hi : r.inv = false) (hn : Rules.NoneBefore s r)
    (hr : u.reqs = s.reqs) :
    u.loadValues r = (u, r.ops.map fun o => (o.lane, r.extend (leNat (readBytes u.mem.bytes o.addr r.size)))) := by
  unfold State.loadValues
  simp only [hi, Bool.false_and, Bool.false_eq_true, if_false, seen_home hh hn fun q hq _ => hr ▸ hq]

/-- Two memories that read alike, read alike at every length. -/
theorem readBytes_congr {m m' : Memory} (h : ∀ a, readByte m a = readByte m' a) (a n : Nat) : readBytes m a n = readBytes m' a n := by
  induction n generalizing a with
  | zero => rfl
  | succ n ih => rw [readBytes, readBytes, h, ih]

theorem writeBytes_congr {m m' : Memory} (h : ∀ a, readByte m a = readByte m' a) (a : Nat) (bs : List Byte) (c : Nat) :
    readByte (writeBytes m a bs) c = readByte (writeBytes m' a bs) c := by
  rw [readByte_writeBytes, readByte_writeBytes, h]

theorem getD_readBytes (m : Memory) {a n i : Nat} (h : i < n) : (readBytes m a n).getD i 0 = readByte m (a + i) := by
  induction n generalizing a i with
  | zero => omega
  | succ n ih =>
    rw [readBytes]
    cases i with
    | zero => rfl
    | succ i =>
      rw [List.getD_cons_succ, ih (Nat.lt_of_succ_lt_succ h), Nat.add_assoc, Nat.add_comm 1 i]

/-- Bytes written where they stand already change nothing. -/
theorem writeBytes_readBytes (m : Memory) (a n c : Nat) : readByte (writeBytes m a (readBytes m a n)) c = readByte m c := by
  rw [readByte_writeBytes, length_readBytes]
  split
  · rw [getD_readBytes m (by omega)]
    congr 1
    omega
  · rfl

theorem poke_same (s : State) (a : Nat) (bs : List Byte) :
    s.poke a bs = { s with recd := (s.poke a bs).recd, mem := { s.mem with bytes := writeBytes s.mem.bytes a bs } } := by
  unfold State.poke
  split
  · next h =>
    rw [List.isEmpty_iff.mp h]
    rfl
  · unfold State.dirtied
    dsimp only
    split <;> rfl

/-- Bytes poked in turn are those written in turn, and nothing else of memory moves. -/
theorem pokes_same {α : Type} (a : α → Nat) (f : α → List Byte) (l : List α) (s : State) :
    l.foldl (fun t o => t.poke (a o) (f o)) s = { s with
      recd := (l.foldl (fun t o => t.poke (a o) (f o)) s).recd
      mem := { s.mem with bytes := l.foldl (fun m o => writeBytes m (a o) (f o)) s.mem.bytes } } := by
  induction l generalizing s with
  | nil => rfl
  | cons o l ih =>
    rw [List.foldl_cons, ih, poke_same]
    rfl

/-- What the lanes of an atomic do in turn: each finds the bytes that the lane before left. -/
theorem applyOps_applied (r : Req) (hh : r.home = .mem) (ops : List LaneOp) {s : State} {m : Memory}
    (hm : ∀ a, readByte s.mem.bytes a = readByte m a) :
    (∀ a, readByte (s.applyOps r ops).1.mem.bytes a =
      readByte (Rules.applied r (fun o bs => (r.kind.apply r.size o bs).1) ops m) a) ∧
    (s.applyOps r ops).1 = { s with recd := (s.applyOps r ops).1.recd, mem := { s.mem with bytes := (s.applyOps r ops).1.mem.bytes } } ∧
    ∀ before o after, ops = before ++ o :: after → (o.lane, (r.kind.apply r.size o (readBytes
      (Rules.applied r (fun o bs => (r.kind.apply r.size o bs).1) before m) o.addr r.size)).2) ∈ (s.applyOps r ops).2 := by
  induction ops generalizing s m with
  | nil => exact ⟨hm, rfl, fun before o after h => absurd h (by simp)⟩
  | cons o ops ih =>
    have hread : s.homeRead r.home o.addr r.size = readBytes m o.addr r.size := by
      rw [hh]
      exact readBytes_congr hm ..
    obtain ⟨s1, hs1⟩ : ∃ s1, s1 = if (r.kind.apply r.size o (readBytes m o.addr r.size)).1 = readBytes m o.addr r.size then s
        else s.poke o.addr (r.kind.apply r.size o (readBytes m o.addr r.size)).1 := ⟨_, rfl⟩
    have hsame : s1 = { s with recd := s1.recd, mem := { s.mem with bytes := s1.mem.bytes } } := by
      rw [hs1]
      split
      · rfl
      · rw [poke_same]
    have hm1 : ∀ a, readByte s1.mem.bytes a =
        readByte (writeBytes m o.addr (r.kind.apply r.size o (readBytes m o.addr r.size)).1) a := by
      intro a
      rw [hs1]
      split
      · next h => rw [h, writeBytes_readBytes, hm]
      · rw [poke_bytes, writeBytes_congr hm]
    obtain ⟨h1, h2, h3⟩ := ih hm1
    have hap : s.applyOps r (o :: ops) = ((s1.applyOps r ops).1,
        (o.lane, (r.kind.apply r.size o (readBytes m o.addr r.size)).2) :: (s1.applyOps r ops).2) := by
      rw [State.applyOps, hread, hs1, hh]
      rfl
    rw [hap]
    refine ⟨h1, ?_, fun before x after hx => ?_⟩
    · rw [h2, hsame]
    · cases before with
      | nil =>
        obtain ⟨rfl, -⟩ := List.cons.inj hx
        exact List.mem_cons_self
      | cons y before =>
        obtain ⟨rfl, hx'⟩ := List.cons.inj hx
        exact List.mem_cons_of_mem _ (h3 before x after hx')

/-! ### Requests at HBM -/

section
variable {s : State} {r : Req}

/-- A request that its home serves, its line in HBM: it is noted and takes effect. -/
theorem exec_homeAccessServe (hq : s.req? s.arg.a = some r) (he : s.arg.ecc = .clean) (hf : s.arg.flag2 = false)
    (hs : r.stage = .accepted) (hh : r.home = .mem) (hl : lineIsCap r.line = false) (hm : s.mayServe r = true)
    (hw : s.lacksWriterRoom r = false) (hk : r.kind ≠ .wakeaddr) :
    exec .homeAccessServe s = .next ((s.noteReq r).performHome r) := by
  change execHomeAccessServe s = _
  unfold execHomeAccessServe
  dsimp only
  rw [crossing_of_sound hf]
  simp only [hq, hs, hh, hk, hm, hw, hl, he, homeEcc_clean hl, ne_eq, not_true, Bool.not_true, Bool.false_and, Bool.false_eq_true,
    or_self, if_false, reduceCtorEq, and_false]

theorem exec_atHome (h : Rules.AtHome s r) (hk : r.kind ≠ .wakeaddr) :
    exec .homeAccessServe s = .next ((s.noteReq r).performHome r) :=
  exec_homeAccessServe h.arg.1 h.arg.2.1 h.arg.2.2 h.stage h.home.1 h.home.2 h.serve.1 h.serve.2.1 hk

/-- The line's state as the request takes effect: nothing that the effect reads has moved. -/
theorem AtHome.atLine (h : Rules.AtHome s r) : HomeAside s ((s.noteReq r).atLine r) ∧
    ((s.noteReq r).atLine r).poisoned r.line = false ∧ (s.noteReq r).partialsOf r.line = [] := by
  obtain ⟨hp, hps, hta⟩ := h.plain
  have ha := noted_atLine h.serve.2.2 hta
  exact ⟨ha, (ha.poisoned _).trans hp, partialsOf_noteReq h.serve.2.2 hps⟩

theorem req?_of_modReq {u : State} (hq : s.req? s.arg.a = some r) (hu : u.reqs = s.reqs) {f : Req → Req} (hf : ∀ q, (f q).id = q.id) :
    (u.modReq r.id f).req? r.id = some (f r) := by
  refine req?_modReq_same ?_ hf
  rw [req?_of_reqs hu, id_of_req? hq]
  exact hq

theorem home_load (h : Rules.AtHome s r) (hk : r.kind = .load) (hi : r.inv = false) (hn : Rules.NoneBefore s r) :
    ∃ u, exec .homeAccessServe s = .next u ∧ u.req? r.id = some { r with
        stage := .served
        got := r.ops.map fun o => (o.lane, r.extend (leNat (readBytes s.mem.bytes o.addr r.size))) } ∧
      u.mem.bytes = s.mem.bytes ∧ u.mem.tags = s.mem.tags ∧ u.blks = s.blks := by
  obtain ⟨ha, hb, hp⟩ := AtHome.atLine h
  refine ⟨_, exec_atHome h (by rw [hk]; decide), ?_⟩
  rw [performHome_load h.home.1 hp hk hb, loadValues_home h.home.1 hi hn ha.reqs, ha.bytes]
  exact ⟨req?_of_modReq h.arg.1 ha.reqs fun _ => rfl, ha.bytes, ha.tags, ha.blks⟩

/-- A line written where it is not poisoned: its poison is cleared or there is none. -/
theorem poisonWrite_sound {t : State} {line : Nat} (h : t.poisoned line = false) (full : Bool) :
    t.poisonWrite line full = { t with mem := { t.mem with
      poison := (t.poisonWrite line full).mem.poison, poisonTab := (t.poisonWrite line full).mem.poisonTab } } := by
  unfold State.poisonWrite
  rw [h]
  split <;> rfl

theorem home_store (h : Rules.AtHome s r) (hk : r.kind = .store) :
    ∃ u, exec .homeAccessServe s = .next u ∧ u.req? r.id = some { r with stage := .served } ∧
      (∀ a, readByte u.mem.bytes a =
        readByte (Rules.applied r (fun o _ => leBytes r.size o.data.toNat) r.ops s.mem.bytes) a) ∧
      u.mem.tags = s.mem.tags ∧ u.blks = s.blks := by
  obtain ⟨ha, hb, hp⟩ := AtHome.atLine h
  obtain ⟨t, ht⟩ : ∃ t, t = r.ops.foldl (fun t o => t.poke o.addr (leBytes r.size o.data.toNat)) ((s.noteReq r).atLine r) := ⟨_, rfl⟩
  have hsame := pokes_same (fun o : LaneOp => o.addr) (fun o => leBytes r.size o.data.toNat) r.ops ((s.noteReq r).atLine r)
  rw [← ht] at hsame
  have htp : t.poisoned r.line = false := by
    rw [hsame]
    exact hb
  refine ⟨_, exec_atHome h (by rw [hk]; decide), ?_⟩
  rw [performHome_store h.home.1 hp hk, ← ht, poisonWrite_sound htp, hsame]
  exact ⟨req?_of_modReq h.arg.1 ha.reqs fun _ => rfl, fun a => congrArg
    (fun m => readByte (Rules.applied r (fun o _ => leBytes r.size o.data.toNat) r.ops m) a) ha.bytes, ha.tags, ha.blks⟩

theorem apply_old {k : ReqKind} (hk : k = .cas ∨ ∃ p, k = .atom p ∨ k = .red p) (n : Nat) (o : LaneOp) (bs : List Byte) :
    (k.apply n o bs).2 = BitVec.ofNat 128 (leNat bs) := by
  obtain rfl | ⟨p, rfl | rfl⟩ := hk
  · rfl
  · rfl
  · rfl

theorem not_wakeaddr {k : ReqKind} (hk : k = .cas ∨ ∃ p, k = .atom p ∨ k = .red p) : k ≠ .wakeaddr := by
  obtain rfl | ⟨p, rfl | rfl⟩ := hk <;> simp

theorem home_atomic (h : Rules.AtHome s r) (hk : r.kind = .cas ∨ ∃ p, r.kind = .atom p ∨ r.kind = .red p) :
    ∃ u q, exec .homeAccessServe s = .next u ∧ u.req? r.id = some q ∧ q.stage = .served ∧ q.err = r.err ∧
      (∀ a, readByte u.mem.bytes a = readByte (Rules.applied r (fun o bs => (r.kind.apply r.size o bs).1) r.ops s.mem.bytes) a) ∧
      (r.dst ≠ .none → ∀ before o after, r.ops = before ++ o :: after →
        (o.lane, BitVec.ofNat 128 (leNat (readBytes
          (Rules.applied r (fun o bs => (r.kind.apply r.size o bs).1) before s.mem.bytes) o.addr r.size))) ∈ q.got) ∧
      (r.dst = .none → q.got = []) ∧ u.mem.tags = s.mem.tags ∧ u.blks = s.blks := by
  obtain ⟨ha, hb, hp⟩ := AtHome.atLine h
  obtain ⟨hm, hsame, hgot⟩ := applyOps_applied r h.home.1 r.ops (s := (s.noteReq r).atLine r) (m := s.mem.bytes)
    fun a => by rw [ha.bytes]
  have he := exec_atHome h (not_wakeaddr hk)
  rw [performHome_atomic h.home.1 hp hk hb] at he
  refine ⟨_, _, he, req?_of_modReq h.arg.1 (by rw [hsame]; exact ha.reqs) fun _ => rfl, rfl, rfl, hm, fun hd before o after ho => ?_, fun hd =>
    if_pos hd, ?_, ?_⟩
  · have hg := hgot before o after ho
    rw [apply_old hk] at hg
    simpa only [hd, if_false] using hg
  · rw [modReq_mem, hsame]
    exact ha.tags
  · rw [modReq_blks, hsame]
    exact ha.blks

theorem home_tagld (h : Rules.AtHome s r) (hk : r.kind = .tagld) :
    ∃ u, exec .homeAccessServe s = .next u ∧
      u.req? r.id = some { r with stage := .served, got := r.ops.map fun o => (o.lane, zext 128 (s.tagOf (o.addr / 32))) } ∧
      u.mem.bytes = s.mem.bytes ∧ u.mem.tags = s.mem.tags := by
  obtain ⟨ha, -, hp⟩ := AtHome.atLine h
  have htag : ∀ g, ((s.noteReq r).atLine r).tagOf g = s.tagOf g := fun g => by
    unfold State.tagOf
    rw [ha.tags]
  refine ⟨_, exec_atHome h (by rw [hk]; decide), ?_⟩
  rw [performHome_tagld h.home.1 hp hk]
  simp only [htag]
  exact ⟨req?_of_modReq h.arg.1 ha.reqs fun _ => rfl, ha.bytes, ha.tags⟩

/-- Tags stored in turn. -/
theorem tags_stored (l : List LaneOp) (t : State) :
    (l.foldl (fun t o => { t with mem := { t.mem with tags := nput (o.addr / 32) (o.data.setWidth 4) t.mem.tags } }.dirtied o.addr)
      t).reqs = t.reqs ∧
    (l.foldl (fun t o => { t with mem := { t.mem with tags := nput (o.addr / 32) (o.data.setWidth 4) t.mem.tags } }.dirtied o.addr)
      t).mem.bytes = t.mem.bytes ∧
    ∀ g, nget (l.foldl (fun t o =>
        { t with mem := { t.mem with tags := nput (o.addr / 32) (o.data.setWidth 4) t.mem.tags } }.dirtied o.addr) t).mem.tags g =
      l.foldl (fun x o => if g = o.addr / 32 then some (o.data.setWidth 4) else x) (nget t.mem.tags g) := by
  induction l generalizing t with
  | nil => exact ⟨rfl, rfl, fun _ => rfl⟩
  | cons o l ih =>
    obtain ⟨h1, h2, h3⟩ := ih ({ t with mem := { t.mem with tags := nput (o.addr / 32) (o.data.setWidth 4) t.mem.tags } }.dirtied o.addr)
    refine ⟨h1.trans (by rw [dirtied_reqs]), h2.trans (by rw [dirtied_mem]), fun g => (h3 g).trans ?_⟩
    rw [dirtied_mem, List.foldl_cons]
    dsimp only
    rw [nget_nput]

theorem home_tagst (h : Rules.AtHome s r) (hk : r.kind = .tagst) :
    ∃ u, exec .homeAccessServe s = .next u ∧ u.req? r.id = some { r with stage := .served } ∧ u.mem.bytes = s.mem.bytes ∧
      ∀ g, nget u.mem.tags g = r.ops.foldl (fun x o => if g = o.addr / 32 then some (o.data.setWidth 4) else x) (nget s.mem.tags g) := by
  obtain ⟨ha, -, hp⟩ := AtHome.atLine h
  obtain ⟨h1, h2, h3⟩ := tags_stored r.ops ((s.noteReq r).atLine r)
  refine ⟨_, exec_atHome h (by rw [hk]; decide), ?_⟩
  rw [performHome_tagst h.home.1 hp hk]
  refine ⟨req?_of_modReq h.arg.1 (h1.trans ha.reqs) fun _ => rfl, h2.trans ha.bytes, fun g => (h3 g).trans ?_⟩
  rw [ha.tags]

/-! ### Poison, partial sums and waits -/

theorem home_poisoned (hq : s.req? s.arg.a = some r) (he : s.arg.ecc = .clean) (hf : s.arg.flag2 = false)
    (hs : r.stage = .accepted) (hh : r.home = .mem) (hl : lineIsCap r.line = false) (hm : s.mayServe r = true)
    (hw : s.lacksWriterRoom r = false) (hr : s.replaying = false) (hp : s.partialsOf r.line = []) (hta : r.asyncTag = false)
    (hb : s.poisoned r.line = true) (hk : r.kind = .load ∨ r.kind = .cas ∨ ∃ p, r.kind = .atom p ∨ r.kind = .red p) :
    ∃ u, exec .homeAccessServe s = .next u ∧ u.req? r.id = some { r with stage := .served, err := some .poisonConsumed } ∧
      u.mem.bytes = s.mem.bytes := by
  have ha := noted_atLine hr hta
  have hkw : r.kind ≠ .wakeaddr := by
    obtain hk | hk := hk
    · simp [hk]
    · exact not_wakeaddr hk
  refine ⟨_, exec_homeAccessServe hq he hf hs hh hl hm hw hkw, ?_⟩
  rw [performHome_poisoned hh (partialsOf_noteReq hr hp) hk ((ha.poisoned _).trans hb)]
  exact ⟨req?_of_modReq hq ha.reqs fun _ => rfl, ha.bytes⟩

theorem poisoned_unpoison (t : State) (line : Nat) : (t.unpoison line).poisoned line = false := by
  simp [State.poisoned, State.unpoison]

theorem home_store_full (hq : s.req? s.arg.a = some r) (he : s.arg.ecc = .clean) (hf : s.arg.flag2 = false)
    (hs : r.stage = .accepted) (hh : r.home = .mem) (hl : lineIsCap r.line = false) (hm : s.mayServe r = true)
    (hw : s.lacksWriterRoom r = false) (hr : s.replaying = false) (hp : s.partialsOf r.line = []) (hk : r.kind = .store)
    (hfull : r.fullLine = true) : ∃ u, exec .homeAccessServe s = .next u ∧ u.poisoned r.line = false := by
  refine ⟨_, exec_homeAccessServe hq he hf hs hh hl hm hw (by rw [hk]; decide), ?_⟩
  rw [performHome_store hh (partialsOf_noteReq hr hp) hk, hfull]
  exact poisoned_unpoison ..

/-- A first partial sum of a line: the value added to what an empty sum holds. -/
theorem contribute_fresh {t : State} {cluster line : Nat} (hc : cluster < 24) (hp : t.partialsOf line = []) (core : Nat) {fmt : BitVec 2}
    {off : Nat} (ho : off < 128) (v : DWord) :
    ∃ p ∈ (t.contribute cluster core line fmt off v).mem.partials, p.line = line ∧ p.cluster = cluster ∧ p.fmt = fmt ∧
      p.elems.getD (off / commSize fmt) 0 = commAdd fmt (if fmt = 3 then 0x80000000 else 0) v := by
  have hnone : (t.mem.partials.find? fun p => p.line == line && p.cluster == cluster) = none := by
    rw [List.find?_eq_none]
    intro p hpm hc'
    have hmem : p ∈ t.partialsOf line := List.mem_flatten.2 ⟨_, List.mem_map.2 ⟨cluster, List.mem_range.2 hc, rfl⟩,
      List.mem_filter.2 ⟨hpm, hc'⟩⟩
    rw [hp] at hmem
    exact absurd hmem List.not_mem_nil
  unfold State.contribute
  simp only [hnone, Option.getD_none]
  refine ⟨_, List.mem_append_right _ (List.mem_singleton_self _), rfl, rfl, rfl, ?_⟩
  have hlt : off / commSize fmt < 128 / commSize fmt := by
    unfold commSize
    split <;> omega
  rw [getD_lmod]
  simp only [Partial.fresh, List.length_replicate, hlt, and_self, if_true, List.getD_replicate _ hlt]

theorem home_cadd (h : Rules.AtHome s r) {fmt : BitVec 2} {o : LaneOp} (hk : r.kind = .cadd fmt) (ho : r.ops = [o]) (hof : o.fmt = fmt)
    (hc : r.core < 192) :
    ∃ u, exec .homeAccessServe s = .next u ∧ u.req? r.id = some { r with stage := .served } ∧ u.mem.bytes = s.mem.bytes ∧
      ∃ p ∈ u.mem.partials, p.line = r.line ∧ p.cluster = r.core / 8 ∧ p.fmt = fmt ∧
        p.elems.getD (o.addr % 128 / commSize fmt) 0 = commAdd fmt (if fmt = 3 then 0x80000000 else 0) (o.data.setWidth 64) := by
  obtain ⟨ha, -, -⟩ := AtHome.atLine h
  have hp : ((s.noteReq r).atLine r).partialsOf r.line = [] := (ha.partialsOf _).trans h.plain.2.1
  refine ⟨_, exec_atHome h (by rw [hk]; simp), ?_⟩
  rw [performHome_cadd h.home.1 hk ho hp, hof]
  exact ⟨req?_of_modReq h.arg.1 ha.reqs fun _ => rfl, ha.bytes,
    contribute_fresh (by omega) hp r.core (Nat.mod_lt _ (by decide)) _⟩

/-- The state in which a WAITADDR looks at its home. -/
theorem waitaddr_seen (h : Rules.AtHome s r) (hn : Rules.NoneBefore s r) (a n : Nat) :
    (((s.noteReq r).atLine r).modReq r.id fun q => { q with stage := .waiting }).seen r a n = readBytes s.mem.bytes a n := by
  obtain ⟨ha, -, -⟩ := AtHome.atLine h
  rw [seen_home h.home.1 hn, modReq_mem, ha.bytes]
  intro q hq hid
  obtain ⟨x, hx, rfl⟩ := List.mem_map.1 hq
  rw [ha.reqs] at hx
  split
  · next he =>
    rw [if_pos he] at hid
    exact absurd he hid.ne
  · exact hx

theorem home_waitaddr_lands (h : Rules.AtHome s r) {o : LaneOp} (hk : r.kind = .waitaddr) (ho : r.ops = [o]) (hg : r.got = [])
    (hn : Rules.NoneBefore s r) (hv : BitVec.ofNat 128 (leNat (readBytes s.mem.bytes o.addr r.size)) ≠ o.data) :
    ∃ u, exec .homeAccessServe s = .next u ∧
      u.req? r.id = some { r with stage := .served, got := [(o.lane, BitVec.ofNat 128 (leNat (readBytes s.mem.bytes o.addr r.size)))] } ∧
      u.mem.enrols = s.mem.enrols := by
  obtain ⟨ha, hb, hp⟩ := AtHome.atLine h
  refine ⟨_, exec_atHome h (by rw [hk]; decide), ?_⟩
  rw [performHome_waitaddr h.home.1 hp hk ho hb]
  dsimp only
  rw [waitaddr_seen h hn, if_neg hv]
  refine ⟨(req?_modReq_same (req?_of_modReq h.arg.1 ha.reqs (f := fun q => { q with stage := .waiting }) fun _ => rfl) ?_).trans ?_,
    ha.enrols⟩
  · exact fun _ => rfl
  · simp [hg, ho]

theorem home_waitaddr_enrols (h : Rules.AtHome s r) {o : LaneOp} (hk : r.kind = .waitaddr) (ho : r.ops = [o])
    (hn : Rules.NoneBefore s r) (hv : BitVec.ofNat 128 (leNat (readBytes s.mem.bytes o.addr r.size)) = o.data)
    (hq : (s.sliceQueue (s.slice r.line)).length < 2048) :
    ∃ u, exec .homeAccessServe s = .next u ∧ u.req? r.id = some { r with stage := .waiting } ∧
      u.mem.enrols = s.mem.enrols ++ [{ ctx := r.ctx, addr := o.addr, req := r.id, lane := o.lane }] := by
  obtain ⟨ha, hb, hp⟩ := AtHome.atLine h
  obtain ⟨t, ht⟩ : ∃ t, t = ((s.noteReq r).atLine r).modReq r.id fun q => { q with stage := .waiting } := ⟨_, rfl⟩
  have hqueue : t.sliceQueue (t.slice r.line) = s.sliceQueue (s.slice r.line) := by
    rw [ht, ha.same]
    rfl
  have henrol : t.enrol r o = { t with mem := { t.mem with
      enrols := t.mem.enrols ++ [{ ctx := r.ctx, addr := o.addr, req := r.id, lane := o.lane }] } } := by
    unfold State.enrol
    rw [hqueue]
    cases hl : s.sliceQueue (s.slice r.line) with
    | nil => rfl
    | cons e l =>
      rw [hl] at hq
      dsimp only
      rw [if_neg (not_le.2 hq)]
  refine ⟨_, exec_atHome h (by rw [hk]; decide), ?_⟩
  rw [performHome_waitaddr h.home.1 hp hk ho hb]
  dsimp only
  rw [waitaddr_seen h hn, if_pos hv, ← ht, henrol, ht]
  exact ⟨req?_of_modReq h.arg.1 ha.reqs fun _ => rfl, congrArg (· ++ _) ha.enrols⟩

/-! ### Writers beyond the list -/

theorem writer_waits (hq : s.req? s.arg.a = some r) (hh : r.home = .mem) (hk : r.kind ≠ .wakeaddr) (hs : r.stage = .accepted)
    (hf : s.arg.flag2 = false) (hm : s.mayServe r = true) (hw : s.lacksWriterRoom r = true) :
    exec .homeAccessServe s = .next (s.modReq r.id fun q => { q with stage := .waiting }) := by
  change execHomeAccessServe s = _
  unfold execHomeAccessServe
  dsimp only
  rw [crossing_of_sound hf]
  simp only [hq, hs, hh, hk, hm, hw, ne_eq, not_true, Bool.not_true, Bool.false_eq_true, or_self, if_false, if_true]

theorem writer_goes_on (hq : s.req? s.arg.a = some r) (hh : r.home = .mem) (hs : r.stage = .waiting) (hk : r.kind ≠ .waitaddr)
    (hw : s.lacksWriterRoom r = false) :
    exec .writerListRoom s = .next (s.modReq r.id fun q => { q with stage := .accepted }) := by
  change execWriterListRoom s = _
  unfold execWriterListRoom
  simp only [hq, hs, hh, hw, ne_eq, hk, not_false_eq_true, Bool.not_false, and_self, if_true]

/-! ### The capacity tier -/

theorem capacity_asks (hq : s.req? s.arg.a = some r) (hh : r.home = .mem) (hl : lineIsCap r.line = true) (hc : s.mem.cacheOn = false)
    (hs : r.stage = .accepted) (hf : s.arg.flag2 = false) (hk : r.kind ≠ .wakeaddr) (hm : s.mayServe r = true)
    (hw : s.lacksWriterRoom r = false) :
    ∃ u, exec .homeAccessServe s = .next u ∧ u.outbox = s.outbox ++
        [.capRead (s.capPlace (r.line * 128 - capBase)).1 (s.capPlace (r.line * 128 - capBase)).2 r.id] ∧
      u.req? r.id = some { r with stage := .sent } ∧ u.mem = s.mem := by
  have hecc : s.homeEcc r.line s.arg.ecc = s := by
    unfold State.homeEcc
    simp [hl, hc]
  have hev : s.evicts r.line = false := by
    unfold State.evicts
    simp [hc]
  have he : exec .homeAccessServe s = .next (s.sendCapacity r) := by
    change execHomeAccessServe s = _
    unfold execHomeAccessServe
    dsimp only
    rw [crossing_of_sound hf]
    simp only [hq, hs, hh, hk, hm, hw, hl, hc, hecc, ne_eq, not_true, Bool.not_true, Bool.not_false, Bool.true_and, Bool.true_or,
      Bool.false_eq_true, or_self, if_false, if_true]
  unfold State.sendCapacity State.capFetch at he
  simp only [hev, Bool.false_eq_true, if_false] at he
  exact ⟨_, he, rfl, req?_of_modReq hq rfl fun _ => rfl, rfl⟩

/-- A request that waits for its expander has its answer, and its turn. -/
theorem exec_capacityTierCompletion_failed (hq : s.req? s.arg.a = some r) (hh : r.home = .mem) (hl : lineIsCap r.line = true)
    (hs : r.stage = .sent) (hb : s.behindAtHome r = false) (hm : s.mayOp r.core (issuerOf r.bctx r.w) r.low = true)
    (hr : s.arg.reply = .poison ∨ s.arg.reply = .timeout ∨ s.arg.reply = .linkFail) :
    exec .capacityTierCompletion s =
      .next ((if r.kind == .fetch then s else s.noteReq r).failReq r .capacityTierError) := by
  change execCapacityTierCompletion s = _
  unfold execCapacityTierCompletion
  simp only [hq, hh, hl, hs, hb, hm, ne_eq, not_true, Bool.not_true, Bool.and_false, Bool.false_eq_true, or_self, if_false]
  obtain hr | hr | hr := hr <;> rw [hr]

theorem capacity_fails (hq : s.req? s.arg.a = some r) (hh : r.home = .mem) (hl : lineIsCap r.line = true) (hrep : s.replaying = false)
    (hs : r.stage = .sent) (hb : s.behindAtHome r = false) (hm : s.mayOp r.core (issuerOf r.bctx r.w) r.low = true)
    (hr : s.arg.reply = .poison ∨ s.arg.reply = .timeout ∨ s.arg.reply = .linkFail) :
    ∃ u, exec .capacityTierCompletion s = .next u ∧ u.req? r.id = some { r with stage := .served, err := some .capacityTierError } ∧
      u.mem = s.mem := by
  have hn : RecdOnly s (if r.kind == .fetch then s else s.noteReq r) := by
    split
    · exact .refl s
    · exact note_recdOnly hrep ..
  refine ⟨_, exec_capacityTierCompletion_failed hq hh hl hs hb hm hr, req?_of_modReq hq (by rw [hn.same]) fun _ => rfl, ?_⟩
  exact (modReq_mem ..).trans (by rw [hn.same])

theorem capacity_loads (hq : s.req? s.arg.a = some r) (hh : r.home = .mem) (hl : lineIsCap r.line = true) (hrep : s.replaying = false)
    (hc : s.mem.cacheOn = false) (hs : r.stage = .sent) (hb : s.behindAtHome r = false)
    (hm : s.mayOp r.core (issuerOf r.bctx r.w) r.low = true) {l : List Byte} (hr : s.arg.reply = .ok l) (hk : r.kind = .load)
    (hi : r.inv = false) (hta : r.asyncTag = false) (hpo : s.poisoned r.line = false) (hp : s.partialsOf r.line = [])
    (hn : Rules.NoneBefore s r) :
    ∃ u, exec .capacityTierCompletion s = .next u ∧ u.req? r.id = some { r with
        stage := .served
        got := r.ops.map fun o => (o.lane, r.extend (leNat (readBytes s.mem.bytes o.addr r.size))) } ∧
      u.mem.bytes = s.mem.bytes := by
  have ha := noted_atLine hrep hta
  have hst : (s.noteReq r).stores r = false := by
    unfold State.stores
    rw [hk]
    rfl
  have hev : s.evictRefused r.line false = s := rfl
  have he : exec .capacityTierCompletion s = .next ((s.noteReq r).performHome r) := by
    change execCapacityTierCompletion s = _
    have hcode : (r.kind == .fetch) = false := by
      rw [hk]
      rfl
    have href : (LinkReply.ok l == .poisonRefused) = false := rfl
    unfold execCapacityTierCompletion
    simp only [hq, hh, hl, hs, hb, hm, hr, hc, hcode, href, hev, hst, ne_eq, not_true, Bool.not_true, Bool.and_false, Bool.false_eq_true,
      or_self, if_false]
  refine ⟨_, he, ?_⟩
  rw [performHome_load hh (partialsOf_noteReq hrep hp) hk ((ha.poisoned _).trans hpo), loadValues_home hh hi hn ha.reqs, ha.bytes]
  exact ⟨req?_of_modReq hq ha.reqs fun _ => rfl, ha.bytes⟩

end

theorem homesServe : Rules.HomesServe := fun _ _ h =>
  ⟨home_load h, home_store h, home_atomic h, home_tagld h, home_tagst h⟩

theorem homesKeepAndWait : Rules.HomesKeepAndWait := fun _ _ =>
  ⟨fun hq he hf hs hh hl hm hw hr hp hta hb => ⟨home_poisoned hq he hf hs hh hl hm hw hr hp hta hb,
      home_store_full hq he hf hs hh hl hm hw hr hp⟩,
    fun h => ⟨fun _ _ hk ho hof _ hc => home_cadd h hk ho hof hc, fun _ hk ho hg hn =>
      ⟨home_waitaddr_lands h hk ho hg hn, home_waitaddr_enrols h hk ho hn⟩⟩,
    fun hq hh hk => ⟨writer_waits hq hh hk, writer_goes_on hq hh⟩⟩

theorem capacityTier : Rules.CapacityTier := fun _ _ hq hh hl hrep hc =>
  ⟨capacity_asks hq hh hl hc, fun hs hb hm => ⟨capacity_fails hq hh hl hrep hs hb hm,
    fun _ hr hk hi hta hpo hp => capacity_loads hq hh hl hrep hc hs hb hm hr hk hi hta hpo hp⟩⟩

/-- Settles O56: before a request's own effect its home moves only the caches, the writers' list and the record of it; then each kind
does its one thing to bytes, tags, sums or enrolments. -/
theorem memoryHomes : Obligations.MemoryHomes := ⟨homesServe, homesKeepAndWait, capacityTier⟩

end Sys2Proof.Machine
end

section
/-! The geometry rules of the copies, as bits of their operands (O12, R411 to R418). -/

namespace Sys2Proof.Machine

/-! ### Fields -/

theorem fld_toNat {m : Nat} (v : BitVec m) (lo n : Nat) : (fld v lo n).toNat = v.toNat / 2 ^ lo % 2 ^ n := BitVec.toNat_ofNat _ _

theorem fld_eq_ofNat {m n k : Nat} (v : BitVec m) (lo : Nat) (hk : k < 2 ^ n) :
    fld v lo n = BitVec.ofNat n k ↔ v.toNat / 2 ^ lo % 2 ^ n = k := by
  rw [← BitVec.toNat_inj, fld_toNat, BitVec.toNat_ofNat, Nat.mod_eq_of_lt hk]

/-- A field that reaches the top of its word is zero where the word is below its first bit. -/
theorem fld_top_eq_zero {m n : Nat} (v : BitVec m) (lo : Nat) (h : lo + n = m) : fld v lo n = 0#n ↔ v.toNat < 2 ^ lo := by
  have hv : v.toNat / 2 ^ lo < 2 ^ n := by
    rw [Nat.div_lt_iff_lt_mul (by positivity), ← pow_add, Nat.add_comm, h]
    exact v.isLt
  rw [fld_eq_ofNat v lo (by positivity), Nat.mod_eq_of_lt hv]
  simp

/-- CPYR's register operand has bits in its three fields only. -/
theorem cpyr_bits (v : DWord) : v &&& ~~~0x3F7F1F = 0 ↔
    ∀ k, k < 64 → v.getLsbD k = true → k < 5 ∨ 8 ≤ k ∧ k < 15 ∨ 16 ≤ k ∧ k < 22 := by
  have hm : ∀ k < 64, (~~~0x3F7F1F : DWord).getLsbD k = !decide (k < 5 ∨ 8 ≤ k ∧ k < 15 ∨ 16 ≤ k ∧ k < 22) := by decide
  constructor
  · intro h k hk hv
    have hb := congrArg (BitVec.getLsbD · k) h
    rw [BitVec.getLsbD_and, hm k hk, hv, Bool.true_and] at hb
    have hz := hb.trans BitVec.getLsbD_zero
    rwa [Bool.not_eq_false', decide_eq_true_eq] at hz
  · intro h
    refine BitVec.eq_of_getLsbD_eq fun k hk => ?_
    rw [BitVec.getLsbD_and, hm k hk]
    cases hv : v.getLsbD k with
    | false => simp
    | true => rw [decide_eq_true (h k hk hv)]; simp

/-! ### Each copy's geometry -/

section
variable (w : UniW) (x : CpyX) (y : CpyY) (a : CpyArgs) (dt : Option (BitVec 128))

theorem copyGeom_cpy : copyGeom (.cpy w x y) a dt = true ↔ ¬ Rules.BadGeometry (.cpy w x y) w x a dt := by
  have h40 := fld_top_eq_zero (n := 24) a.sb 40 rfl
  simp [copyGeom, Rules.BadGeometry, copyExts, inFifoWindow, cpyLen, fld_toNat, h40]
  grind

theorem copyGeom_cpyfill : copyGeom (.cpyfill w x y) a dt = true ↔ ¬ Rules.BadGeometry (.cpyfill w x y) w x a dt := by
  simp [copyGeom, Rules.BadGeometry, copyExts, inFifoWindow, imp_iff_not_or]

/-- CPYM names the same two addresses in both directions. -/
theorem cpym_fifo (d : BitVec 128) : ((copyExts (.cpym w x y) a d).any fun e => inFifoWindow e.va && !e.peer) =
    (inFifoWindow a.sa || inFifoWindow a.sd) := by
  simp only [copyExts]
  split <;> simp

theorem copyGeom_cpym : copyGeom (.cpym w x y) a dt = true ↔ ¬ Rules.BadGeometry (.cpym w x y) w x a dt := by
  have h14 := fld_eq_ofNat (n := 18) (k := 0) a.sb 14 (by decide)
  simp only [copyGeom, cpym_fifo]
  cases dt <;> simp [Rules.BadGeometry, inFifoWindow, cpymGeom, fld_toNat, h14] <;> grind

theorem copyGeom_cpyp : copyGeom (.cpyp w x y) a dt = true ↔ ¬ Rules.BadGeometry (.cpyp w x y) w x a dt := by
  have h32 := fld_top_eq_zero (n := 32) a.sb 32 rfl
  have h5 := fld_eq_ofNat (n := 4) (k := 5) y.rest 0 (by decide)
  have h6 := fld_eq_ofNat (n := 4) (k := 6) y.rest 0 (by decide)
  cases dt <;> simp [copyGeom, Rules.BadGeometry, copyExts, inFifoWindow, planesOk, h32, h5, h6]
  grind

theorem copyGeom_cpyx : copyGeom (.cpyx w x y) a dt = true ↔ ¬ Rules.BadGeometry (.cpyx w x y) w x a dt := by
  have h32 := fld_top_eq_zero (n := 32) a.sb 32 rfl
  cases dt <;> simp [copyGeom, Rules.BadGeometry, copyExts, inFifoWindow, planesOk, fld_toNat, h32] <;> grind

theorem copyGeom_cpyr : copyGeom (.cpyr w x y) a dt = true ↔ ¬ Rules.BadGeometry (.cpyr w x y) w x a dt := by
  have hb := cpyr_bits a.sd
  simp only [copyGeom, Rules.BadGeometry, Bool.and_eq_true, beq_iff_eq, hb]
  simp [copyExts, inFifoWindow]
  grind

theorem copyGeom_cpymc : copyGeom (.cpymc w x y) a dt = true ↔ ¬ Rules.BadGeometry (.cpymc w x y) w x a dt := by
  have h8 := fld_eq_ofNat (n := 8) (k := 0) y.rest 0 (by decide)
  simp [copyGeom, Rules.BadGeometry, copyExts, inFifoWindow, h8, imp_iff_not_or]

theorem copyGeom_cpyg : copyGeom (.cpyg w x y) a dt = true ↔ ¬ Rules.BadGeometry (.cpyg w x y) w x a dt := by
  simp [copyGeom, Rules.BadGeometry, copyExts, inFifoWindow, cpyElem, cpyCount, fld_toNat]
  grind

theorem copyGeom_cpys : copyGeom (.cpys w x y) a dt = true ↔ ¬ Rules.BadGeometry (.cpys w x y) w x a dt := by
  simp [copyGeom, Rules.BadGeometry, copyExts, inFifoWindow, cpyElem, cpyCount, fld_toNat]
  grind

theorem copyGeom_coll : copyGeom (.coll w x) a dt = true ↔ ¬ Rules.BadGeometry (.coll w x) w x a dt := by
  simp [copyGeom, Rules.BadGeometry]

end

/-- The model's geometry check is the rules' (R411 to R418). -/
theorem copyGeom_iff {op : Instr} {w : UniW} {x : CpyX} {st : BitVec 7} (h : Rules.IsCopy op w x st) (a : CpyArgs)
    (dt : Option (BitVec 128)) : copyGeom op a dt = true ↔ ¬ Rules.BadGeometry op w x a dt := by
  obtain ⟨rfl, -⟩ | ⟨y, -, rfl | rfl | rfl | rfl | rfl | rfl | rfl | rfl | rfl⟩ := h
  · exact copyGeom_coll w x a dt
  · exact copyGeom_cpy w x y a dt
  · exact copyGeom_cpyfill w x y a dt
  · exact copyGeom_cpym w x y a dt
  · exact copyGeom_cpyp w x y a dt
  · exact copyGeom_cpyx w x y a dt
  · exact copyGeom_cpyr w x y a dt
  · exact copyGeom_cpymc w x y a dt
  · exact copyGeom_cpyg w x y a dt
  · exact copyGeom_cpys w x y a dt

end Sys2Proof.Machine
end

section
/-! The footprint rules of the copies, byte by byte (O12, R407). -/

namespace Sys2Proof.Machine

/-! ### A range in a footprint -/

/-- Byte `o` lies in the footprint of a tile. -/
def TileByte (d : BitVec 128) (o : Nat) : Prop := ∃ r ∈ tFoot d, r.1 ≤ o ∧ o < r.2

theorem tFoot_length_le (d : BitVec 128) : (tFoot d).length ≤ 2 := by
  unfold tFoot
  split
  · split <;> simp
  · simp

/-- In a list of at most two entries, two that are not a third one's are the same. -/
theorem eq_of_length_le_two {α : Type} {l : List α} (h : l.length ≤ 2) {r p q : α} (hr : r ∈ l) (hp : p ∈ l) (hq : q ∈ l)
    (hpr : p ≠ r) (hqr : q ≠ r) : p = q := by
  match l, h with
  | [x], _ => simp_all
  | [x, y], _ => grind

/-- A run of bytes lies in one range of the footprint, or in two that meet, where each of its bytes lies in some range. -/
theorem inFoot_tFoot_iff (d : BitVec 128) (lo hi : Nat) :
    inFoot (tFoot d) lo hi = true ↔ ∀ o, lo ≤ o → o < hi → TileByte d o := by
  simp only [inFoot, Bool.or_eq_true, List.any_eq_true, Bool.and_eq_true, decide_eq_true_eq, and_assoc]
  constructor
  · rintro ((h | ⟨r, hr, h1, h2⟩) | ⟨r, hr, q, hq, hm, h1, h2⟩) o hlo hhi
    · omega
    · exact ⟨r, hr, by omega, by omega⟩
    · by_cases ho : o < r.2
      · exact ⟨r, hr, by omega, ho⟩
      · exact ⟨q, hq, by omega, by omega⟩
  · intro h
    by_cases hlt : hi ≤ lo
    · exact .inl (.inl hlt)
    obtain ⟨r, hr, hr1, hr2⟩ := h lo le_rfl (by omega)
    by_cases hone : hi ≤ r.2
    · exact .inl (.inr ⟨r, hr, hr1, hone⟩)
    obtain ⟨q, hq, hq1, hq2⟩ := h (hi - 1) (by omega) (by omega)
    obtain ⟨p, hp, hp1, hp2⟩ := h r.2 (by omega) (by omega)
    have hpr : p ≠ r := by rintro rfl; omega
    have hqr : q ≠ r := by rintro rfl; omega
    obtain rfl := eq_of_length_le_two (tFoot_length_le d) hr hp hq hpr hqr
    exact .inr ⟨r, hr, p, hp, hp1, hr1, by omega⟩

/-! ### An extent in a footprint -/

namespace Ext
variable (e : Ext)

/-- Some byte of a range is no byte of the tile in the block's scratchpad. -/
def Outside (b : Blk) (d : BitVec 128) : Prop :=
  ∃ i j, i < e.rows ∧ j < e.bytes ∧ ∀ o, e.peer = false → ownOffset b e.va = some o → ¬ TileByte d (o + i * e.pitch + j)

theorem span_eq_zero : e.span = 0 ↔ e.bytes = 0 ∨ e.rows = 0 := by
  unfold span
  split
  · simpa
  · omega

theorem span_of_pos (hb : e.bytes ≠ 0) (hr : e.rows ≠ 0) : e.span = (e.rows - 1) * e.pitch + e.bytes :=
  if_neg (by simp [hb, hr])

/-- Rows that leave no gap cover their span. -/
theorem lt_span_iff (hb : e.bytes ≠ 0) (hr : e.rows ≠ 0) (hp : e.pitch ≤ e.bytes) (n : Nat) :
    n < e.span ↔ ∃ i j, i < e.rows ∧ j < e.bytes ∧ n = i * e.pitch + j := by
  rw [e.span_of_pos hb hr]
  constructor
  · intro h
    by_cases hn : (e.rows - 1) * e.pitch ≤ n
    · exact ⟨e.rows - 1, n - (e.rows - 1) * e.pitch, by omega, by omega, by omega⟩
    · have hpos : 0 < e.pitch := by
        by_contra h0
        simp [Nat.eq_zero_of_not_pos h0] at hn
      have hi : n / e.pitch < e.rows - 1 := (Nat.div_lt_iff_lt_mul hpos).mpr (by omega)
      exact ⟨n / e.pitch, n % e.pitch, by omega, (Nat.mod_lt _ hpos).trans_le hp, (Nat.div_add_mod' n e.pitch).symm⟩
  · rintro ⟨i, j, hi, hj, rfl⟩
    have := Nat.mul_le_mul_right e.pitch (show i ≤ e.rows - 1 by omega)
    omega

theorem inTile_iff (b : Blk) (d : BitVec 128) : e.inTile b d = true ↔ ¬ e.Outside b d := by
  by_cases hz : e.bytes = 0 ∨ e.rows = 0
  · have hn : ¬ e.Outside b d := by
      rintro ⟨i, j, hi, hj, -⟩
      omega
    simp [inTile, e.span_eq_zero.mpr hz, hn]
  obtain ⟨hb, hr⟩ := not_or.mp hz
  have hs : e.span ≠ 0 := mt e.span_eq_zero.mp hz
  have first (h : ∀ o, e.peer = false → ownOffset b e.va ≠ some o) : e.Outside b d :=
    ⟨0, 0, by omega, by omega, fun o hp ho => absurd ho (h o hp)⟩
  cases ho : ownOffset b e.va with
  | none => simpa [inTile, hs, ho] using first (by simp [ho])
  | some o =>
    cases hp : e.peer with
    | true => simpa [inTile, hs, ho, hp] using first (by simp [hp])
    | false =>
      have hout : ¬ e.Outside b d ↔ ∀ i j, i < e.rows → j < e.bytes → TileByte d (o + i * e.pitch + j) := by
        constructor
        · intro h i j hi hj
          by_contra hn
          exact h ⟨i, j, hi, hj, fun o' _ ho' => by rw [ho] at ho'; cases ho'; exact hn⟩
        · rintro h ⟨i, j, hi, hj, hn⟩
          exact hn o hp ho (h i j hi hj)
      rw [hout]
      by_cases hg : e.pitch ≤ e.bytes
      · have hin : e.inTile b d = inFoot (tFoot d) o (o + e.span) := by simp [inTile, hs, ho, hp, hg]
        rw [hin, inFoot_tFoot_iff]
        constructor
        · intro h i j hi hj
          have := (e.lt_span_iff hb hr hg _).mpr ⟨i, j, hi, hj, rfl⟩
          exact h _ (by omega) (by omega)
        · intro h n hlo hhi
          obtain ⟨i, j, hi, hj, hn⟩ := (e.lt_span_iff hb hr hg (n - o)).mp (by omega)
          have := h i j hi hj
          rwa [show n = o + i * e.pitch + j by omega]
      · have hin : e.inTile b d = (List.range e.rows).all fun r => inFoot (tFoot d) (o + r * e.pitch) (o + r * e.pitch + e.bytes) := by
          simp [inTile, hs, ho, hp, hg]
        simp only [hin, List.all_eq_true, List.mem_range, inFoot_tFoot_iff]
        constructor
        · intro h i j hi hj
          exact h i hi _ (by omega) (by omega)
        · intro h i hi n hlo hhi
          have := h i (n - (o + i * e.pitch)) hi (by omega)
          rwa [show n = o + i * e.pitch + (n - (o + i * e.pitch)) by omega]

end Ext

/-! ### What a copy writes and reads -/

/-- A multicast's run of bytes in the tile of a member. -/
theorem inFoot_run_iff (d : BitVec 128) (lo n : Nat) :
    inFoot (tFoot d) lo (lo + n) = true ↔ ∀ j, j < n → TileByte d (lo + j) := by
  rw [inFoot_tFoot_iff]
  constructor
  · intro h j hj
    exact h _ (by omega) (by omega)
  · intro h o hlo hhi
    have := h (o - lo) (by omega)
    rwa [show o = lo + (o - lo) by omega]

theorem written_inside (es : List Ext) (b : Blk) (d : BitVec 128) :
    ((es.filter fun e => e.write).all fun e => e.inTile b d) = true ↔ ¬ ∃ e ∈ es, e.write = true ∧ e.Outside b d := by
  simp [Ext.inTile_iff, imp_iff_not_or]

theorem read_inside (es : List Ext) (b : Blk) (d : BitVec 128) :
    ((es.filter fun e => !e.write).all fun e => e.inTile b d) = true ↔ ¬ ∃ e ∈ es, e.write = false ∧ e.Outside b d := by
  simp [Ext.inTile_iff, imp_iff_not_or]

theorem cast_inside (dts : List (BitVec 128)) (lo n : Nat) :
    (dts.all fun m => inFoot (tFoot m) lo (lo + n)) = true ↔ ¬ ∃ m ∈ dts, ∃ j, j < n ∧ ¬ TileByte m (lo + j) := by
  simp [inFoot_run_iff]

/-- The rules' words about footprints, with the names of this file. -/
theorem outsideTile_iff (b : Blk) (op : Instr) (a : CpyArgs) (dt st : Option (BitVec 128)) (dts : List (BitVec 128)) :
    Rules.OutsideTile b op a dt st dts ↔
      (∃ d, dt = some d ∧ ¬ (∃ w x y, op = .cpymc w x y) ∧
        ((∃ w x y, op = .cpys w x y) ∨ ∃ e ∈ copyExts op a (dt.getD 0), e.write = true ∧ e.Outside b d)) ∨
      (dt ≠ none ∧ (∃ w x y, op = .cpymc w x y) ∧ ∃ m ∈ dts, ∃ j, j < cpyLen a.sb ∧ ¬ TileByte m (a.sd.toNat + j)) ∨
      (∃ d, st = some d ∧ ((∃ w x y, op = .cpyg w x y ∨ op = .cpyx w x y) ∨
        ∃ e ∈ copyExts op a (dt.getD 0), e.write = false ∧ e.Outside b d)) := Iff.rfl

/-- The model's footprint check is the rules' (R407). -/
theorem footOk_iff {op : Instr} {w : UniW} {x : CpyX} {f : BitVec 7} (h : Rules.IsCopy op w x f) (a : CpyArgs) (b : Blk)
    (dt st : Option (BitVec 128)) (dts : List (BitVec 128)) :
    footOk op a b dt st dts = true ↔ ¬ Rules.OutsideTile b op a dt st dts := by
  obtain ⟨rfl, -⟩ | ⟨y, -, rfl | rfl | rfl | rfl | rfl | rfl | rfl | rfl | rfl⟩ := h
  all_goals
    simp only [footOk, outsideTile_iff, Bool.and_eq_true]
    cases dt <;> cases st <;> simp only [written_inside, read_inside, cast_inside] <;> simp

end Sys2Proof.Machine
end

section
/-! The endpoints of the copies, and the first check that one does not pass (O12, R407). -/

namespace Sys2Proof.Machine

/-! ### Window endpoints -/

theorem member?_isSome_iff (s : State) (b : Blk) (rank : Nat) : (s.member? b rank).isSome = true ↔
    ¬ ∀ p ∈ s.blks, ¬ (p.2.info.gangId = b.info.gangId ∧ p.2.info.rank = rank ∧ p.2.info.ctx = b.info.ctx ∧ p.2.hasExited = false) := by
  simp [State.member?, and_assoc]

/-- A bank's window offset that is the start of one of the 32 banks. -/
theorem bankStart_iff (o : Nat) : o / 2 ^ 20 % 32 * 2 ^ 20 ≠ o ↔ o % 2 ^ 20 ≠ 0 ∨ 2 ^ 25 ≤ o := by omega

/-- The model's check of a window endpoint is the rules' (R189, R190, R197). -/
theorem windowFault_iff (s : State) (core : Nat) (b : Blk) (e : Ext) (k : Cause) :
    s.windowFault core b e = some k ↔ Rules.EndpointFault s core b e k := by
  have hw : (fld e.va 48 4 : BitVec 4).toNat = e.va.toNat / 2 ^ 48 % 16 := fld_toNat _ _ _
  unfold State.windowFault Rules.EndpointFault
  rw [hw]
  by_cases hin : isWindow e.va = true ∧ e.peer = false ∧ e.span ≠ 0
  · obtain ⟨h1, h2, h3⟩ := hin
    simp only [bankStart_iff]
    generalize e.va.toNat / 2 ^ 48 % 16 = win
    match win with
    | 0 =>
      simp [h1, h2, h3]
      grind
    | 1 =>
      simp [h1, h2, h3]
      split_ifs with hr hm
      · grind
      · rw [member?_isSome_iff] at hm
        grind
      · rw [member?_isSome_iff] at hm
        grind
    | 2 =>
      simp [h1, h2, h3]
      grind
    | 3 =>
      simp [h1, h2, h3]
      grind
    | n + 4 =>
      simp [h1, h2, h3]
      exact eq_comm
  · have hout : (!isWindow e.va || e.peer || e.span == 0) = true := by
      cases h1 : isWindow e.va <;> cases h2 : e.peer <;> simp_all
    rw [if_pos hout]
    constructor
    · rintro ⟨⟩
    · rintro ⟨h1, h2, h3, -⟩
      exact absurd ⟨h1, h2, h3⟩ hin

/-- The first endpoint refused gives the cause, so the cause is `k` where every refused endpoint's is. -/
theorem endsFault_eq_some {s : State} {c : Cur} {b : Blk} {op : Instr} {a : CpyArgs} {d : BitVec 128} {e : Ext} {k : Cause}
    (he : e ∈ copyExts op a d) (hk : s.windowFault c.core b e = some k)
    (hall : ∀ e' ∈ copyExts op a d, ∀ k', s.windowFault c.core b e' = some k' → k' = k) : s.endsFault c b op a d = some k := by
  have hf : (copyExts op a d).findSome? (s.windowFault c.core b) = some k := by
    cases hf : (copyExts op a d).findSome? (s.windowFault c.core b) with
    | none =>
      rw [List.findSome?_eq_none_iff.mp hf e he] at hk
      cases hk
    | some k' =>
      obtain ⟨e', he', hk'⟩ := List.exists_of_findSome?_eq_some hf
      rw [hall e' he' k' hk']
  simp only [State.endsFault, hf]

/-- A multicast whose endpoints are sound is refused where its run of bytes passes the end of the scratchpad. -/
theorem endsFault_cast {s : State} {c : Cur} {b : Blk} {w : UniW} {x : CpyX} {y : CpyY} {a : CpyArgs} {d : BitVec 128}
    (hall : ∀ e ∈ copyExts (.cpymc w x y) a d, s.windowFault c.core b e = none) (hlen : b.info.spadB < a.sd.toNat + cpyLen a.sb) :
    s.endsFault c b (.cpymc w x y) a d = some .scratchRange := by
  simp only [State.endsFault, List.findSome?_eq_none_iff.mpr hall, if_pos hlen]

/-! ### Peers and registers -/

theorem usesPeers_iff {op : Instr} {w : UniW} {x : CpyX} {st : BitVec 7} (h : Rules.IsCopy op w x st) : usesPeers op = true ↔
    (∃ y : CpyY, op = .cpy w x y ∧ (y.rest.getLsbD 0 = true ∨ y.rest.getLsbD 1 = true)) ∨ op = .coll w x := by
  obtain ⟨rfl, -⟩ | ⟨y, -, rfl | rfl | rfl | rfl | rfl | rfl | rfl | rfl | rfl⟩ := h <;> simp [usesPeers]

theorem cpyrInRange_cpyr (w : UniW) (x : CpyX) (y : CpyY) (b : Blk) (sd : DWord) : cpyrInRange b (.cpyr w x y) sd = true ↔
    ¬ (b.info.wpb ≤ sd.toNat % 32 ∨ ∀ q, b.thr? (sd.toNat % 32) = some q →
      q.poolb < sd.toNat / 2 ^ 8 % 128 + (sd.toNat / 2 ^ 16 % 64 + 1)) := by
  simp only [cpyrInRange, cpyrRegs, fld_toNat, pow_zero, Nat.div_one, Nat.reducePow]
  cases b.thr? (sd.toNat % 32) with
  | none => simp
  | some q =>
    simp
    omega

/-- The model's check of CPYR's registers is R416's; no other copy has any. -/
theorem cpyrInRange_iff {op : Instr} {w : UniW} {x : CpyX} {st : BitVec 7} (h : Rules.IsCopy op w x st) (b : Blk) (sd : DWord) :
    cpyrInRange b op sd = true ↔ ¬ ∃ (y : CpyY) (v d n : Nat), op = .cpyr w x y ∧ v = sd.toNat % 32 ∧ d = sd.toNat / 2 ^ 8 % 128 ∧
      n = sd.toNat / 2 ^ 16 % 64 + 1 ∧ (b.info.wpb ≤ v ∨ ∀ q, b.thr? v = some q → q.poolb < d + n) := by
  by_cases hr : ∃ y, op = .cpyr w x y
  · obtain ⟨y, rfl⟩ := hr
    rw [cpyrInRange_cpyr]
    simp
  · have hnone : cpyrRegs op sd = none := by
      obtain ⟨rfl, -⟩ | ⟨y, -, rfl | rfl | rfl | rfl | rfl | rfl | rfl | rfl | rfl⟩ := h <;> simp [cpyrRegs] at hr ⊢
    simp only [cpyrInRange, hnone, true_iff]
    rintro ⟨y, -, -, -, hop, -⟩
    exact hr ⟨y, hop⟩

/-! ### The checks in their order -/

/-- A tile that a copy fills, or the one it reads, is in no state for it (R201). -/
def copyTilesBar (s : State) (c : Cur) (b : Blk) (op : Instr) (x : CpyX) (st : BitVec 7) : Bool :=
  let src := (Rules.named st).map fun n => (s.tile c.core (b.tileIx n)).st
  ((s.fillEntries c.core b op (Rules.named x.dt)).any fun f => !(s.tile f.1 f.2).fillable) || src == some 0 || src == some 3

/-- The first check of R407 that a copy past its gates does not pass; none where they all pass. -/
def copyCheck (s : State) (c : Cur) (b : Blk) (t : Thr) (op : Instr) (w : UniW) (x : CpyX) (st : BitVec 7) : Option Cause :=
  let a := Rules.copyArgs b w x
  let dt := Rules.descOf s c b x.dt
  let fills := s.fillEntries c.core b op (Rules.named x.dt)
  if s.kindling && usesPeers op then some .kindlingUnavailable
  else if !cpyrInRange b op a.sd then some .operandRange
  else if !copyGeom op a dt || !footOk op a b dt (Rules.descOf s c b st) (fills.map fun f => (s.tile f.1 f.2).desc) then
    some .copyGeometry
  else match s.endsFault c b op a (dt.getD 0) with
    | some k => some k
    | none =>
      if 2 ^ b.info.bpg ≤ castMask op then some .multicastTarget
      else if copyTilesBar s c b op x st then some .tileState
      else if !t.tlOrder x.tlv x.tl a.sv then some .timelineOrder
      else if x.tok ≠ 15 ∧ 15 ≤ t.tokens.getD x.tok.toNat 0 then some .tokenOverflow
      else none

theorem exec_copy {op : Instr} {w : UniW} {x : CpyX} {st : BitVec 7} (h : Rules.IsCopy op w x st) (s : State) :
    exec op s = copyWord op w x st s := by
  obtain ⟨rfl, rfl⟩ | ⟨y, rfl, rfl | rfl | rfl | rfl | rfl | rfl | rfl | rfl | rfl⟩ := h <;> rfl

/-- One check of a chain: what follows it decides the cause where it passes. -/
theorem checked_ite {α : Type} (f : Cause → α) {p : Prop} [Decidable p] {k k' : Cause} {r : Option Cause} {y : α}
    (hk : (if p then some k' else r) = some k) (hy : r = some k → y = f k) : (if p then f k' else y) = f k := by
  split at hk
  · cases hk
    exact if_pos ‹_›
  · exact (if_neg ‹_›).trans (hy hk)

section
variable {s : State} {c : Cur} {b : Blk} {t : Thr} {op : Instr} {w : UniW} {x : CpyX} {st : BitVec 7}

/-- A copy traps with the first check it does not pass. -/
theorem copyWord_traps (hi : Issues s c b t) (hg : ctlGate op c t = .go)
    (hn : (tileFieldIn b x.dt && tileFieldIn b st && tlInRange b x.tlv x.tl) = true) (ho : uniOperandGate op w b = .go)
    (hv : x.tlv = true → x.sv = 0xFF ∨ uniRegGate b x.sv.toNat = .go) {k : Cause} (hk : copyCheck s c b t op w x st = some k) :
    copyWord op w x st s = .next (s.trapWord c b t k c.lanes) := by
  have hm : Gate.first [ Gate.unless (tileFieldIn b x.dt && tileFieldIn b st && tlInRange b x.tlv x.tl) .operandRange,
      uniOperandGate op w b, if x.tlv ∧ x.sv ≠ 0xFF then uniRegGate b x.sv.toNat else .go ] = .go := by
    have hs : (if x.tlv ∧ x.sv ≠ 0xFF then uniRegGate b x.sv.toNat else .go) = .go := by
      split
      · exact (hv (by tauto)).resolve_left (by tauto)
      · rfl
    rw [hn, ho, hs]
    rfl
  unfold copyWord
  rw [ctlWordOp_go hi hg hm]
  congr 1
  unfold copyCheck at hk
  extract_lets a dt fills at hk
  let trapped (k : Cause) : State := s.trapWord c b t k c.lanes
  refine checked_ite trapped hk fun hk => checked_ite trapped hk fun hk => checked_ite trapped hk fun hk => ?_
  split
  · rename_i k' hf
    have hf' : s.endsFault c b op a (dt.getD 0) = some k' := hf
    rw [hf'] at hk
    cases hk
    rfl
  · rename_i hf
    have hf' : s.endsFault c b op a (dt.getD 0) = none := hf
    rw [hf'] at hk
    exact checked_ite trapped hk fun hk => checked_ite trapped hk fun hk => checked_ite trapped hk fun hk =>
      checked_ite trapped hk nofun

/-- A copy whose fields name what its block does not hold traps at its gates. -/
theorem copyWord_range (hi : Issues s c b t) (hg : ctlGate op c t = .go)
    (hn : (tileFieldIn b x.dt && tileFieldIn b st && tlInRange b x.tlv x.tl) = false) :
    copyWord op w x st s = .next (s.trapWord c b t .operandRange c.lanes) := by
  unfold copyWord ctlWordOp
  rw [withParty_issues hi]
  simp only [hg, hn, Gate.unless, Bool.false_eq_true, if_false, first_go, first_trap, refuse_trap_all]

/-- The fields of a copy that its block holds (R407 step 1). -/
theorem copyHolds_iff (b : Blk) (x : CpyX) (st : BitVec 7) :
    (tileFieldIn b x.dt && tileFieldIn b st && tlInRange b x.tlv x.tl) = true ↔
      (x.dt = 127 ∨ x.dt.toNat < b.info.tiles) ∧ (st = 127 ∨ st.toNat < b.info.tiles) ∧ (x.tlv = true → x.tl.toNat / 16 = b.info.ctx) := by
  simp [tileFieldIn, tlInRange, and_assoc, imp_iff_not_or]

/-! ### Which check is the first not passed -/

/-- The checks up to the endpoints pass (R407 steps 2 to 4). -/
structure CopySound (s : State) (c : Cur) (b : Blk) (op : Instr) (w : UniW) (x : CpyX) (st : BitVec 7) : Prop where
  peers : (s.kindling && usesPeers op) = false
  registers : cpyrInRange b op (Rules.copyArgs b w x).sd = true
  geometry : copyGeom op (Rules.copyArgs b w x) (Rules.descOf s c b x.dt) = true
  footprints : footOk op (Rules.copyArgs b w x) b (Rules.descOf s c b x.dt) (Rules.descOf s c b st)
    ((s.fillEntries c.core b op (Rules.named x.dt)).map fun f => (s.tile f.1 f.2).desc) = true

theorem copyCheck_peers (h : (s.kindling && usesPeers op) = true) : copyCheck s c b t op w x st = some .kindlingUnavailable := by
  simp only [copyCheck, h, if_true]

theorem copyCheck_registers (hp : (s.kindling && usesPeers op) = false) (h : cpyrInRange b op (Rules.copyArgs b w x).sd = false) :
    copyCheck s c b t op w x st = some .operandRange := by
  simp [copyCheck, hp, h]

theorem copyCheck_geometry (hp : (s.kindling && usesPeers op) = false) (hr : cpyrInRange b op (Rules.copyArgs b w x).sd = true)
    (h : copyGeom op (Rules.copyArgs b w x) (Rules.descOf s c b x.dt) = false ∨
      footOk op (Rules.copyArgs b w x) b (Rules.descOf s c b x.dt) (Rules.descOf s c b st)
        ((s.fillEntries c.core b op (Rules.named x.dt)).map fun f => (s.tile f.1 f.2).desc) = false) :
    copyCheck s c b t op w x st = some .copyGeometry := by
  have hb : ∀ p q : Bool, p = false ∨ q = false → (!p || !q) = true := by decide
  simp only [copyCheck, hp, hr, hb _ _ h, Bool.not_true, Bool.false_eq_true, if_false, if_true]

theorem copyCheck_ends (h : CopySound s c b op w x st) {k : Cause}
    (hk : s.endsFault c b op (Rules.copyArgs b w x) ((Rules.descOf s c b x.dt).getD 0) = some k) :
    copyCheck s c b t op w x st = some k := by
  simp only [copyCheck, h.peers, h.registers, h.geometry, h.footprints, hk, Bool.not_true, Bool.or_self, Bool.false_eq_true, if_false]

/-- Past its endpoints, a copy is left with the checks of R407's steps 5 to 8. -/
theorem copyCheck_rest (h : CopySound s c b op w x st)
    (he : s.endsFault c b op (Rules.copyArgs b w x) ((Rules.descOf s c b x.dt).getD 0) = none) :
    copyCheck s c b t op w x st =
      if 2 ^ b.info.bpg ≤ castMask op then some .multicastTarget
      else if copyTilesBar s c b op x st then some .tileState
      else if !t.tlOrder x.tlv x.tl (Rules.copyArgs b w x).sv then some .timelineOrder
      else if x.tok ≠ 15 ∧ 15 ≤ t.tokens.getD x.tok.toNat 0 then some .tokenOverflow
      else none := by
  simp only [copyCheck, h.peers, h.registers, h.geometry, h.footprints, he, Bool.not_true, Bool.or_self, Bool.false_eq_true, if_false]

theorem CopySound.of_names (h : Rules.CopyNames s c b op w x st) : CopySound s c b op w x st where
  peers := by
    cases hk : s.kindling with
    | false => rfl
    | true => exact h.peers hk
  registers := h.registers
  geometry := h.geometry
  footprints := h.footprints

theorem copyTilesBar_of_broken (h : (∃ f ∈ s.fillEntries c.core b op (Rules.named x.dt), (s.tile f.1 f.2).st = 2 ∨ (s.tile f.1 f.2).st = 3) ∨
    ∃ n, Rules.named st = some n ∧ ((s.tile c.core (b.tileIx n)).st = 0 ∨ (s.tile c.core (b.tileIx n)).st = 3)) :
    copyTilesBar s c b op x st = true := by
  simp only [copyTilesBar, Bool.or_eq_true, List.any_eq_true]
  obtain ⟨f, hf, h2 | h3⟩ | ⟨n, hn, h0 | h3⟩ := h
  · exact .inl (.inl ⟨f, hf, by simp [Tile.fillable, h2]⟩)
  · exact .inl (.inl ⟨f, hf, by simp [Tile.fillable, h3]⟩)
  · exact .inl (.inr (by simp [hn, h0]))
  · exact .inr (by simp [hn, h3])

theorem copyTilesBar_of_usable (hf : ∀ f ∈ s.fillEntries c.core b op (Rules.named x.dt), (s.tile f.1 f.2).st = 0 ∨ (s.tile f.1 f.2).st = 1)
    (hs : ∀ n, Rules.named st = some n → (s.tile c.core (b.tileIx n)).st ≠ 0 ∧ (s.tile c.core (b.tileIx n)).st ≠ 3) :
    copyTilesBar s c b op x st = false := by
  have hany : ((s.fillEntries c.core b op (Rules.named x.dt)).any fun f => !(s.tile f.1 f.2).fillable) = false := by
    simp only [List.any_eq_false, Tile.fillable]
    intro f hm
    obtain h0 | h1 := hf f hm
    · simp [h0]
    · simp [h1]
  cases hn : Rules.named st with
  | none => simp [copyTilesBar, hany, hn]
  | some n =>
    obtain ⟨h0, h3⟩ := hs n hn
    simp only [copyTilesBar, hany, hn]
    simpa using ⟨h0, h3⟩

end

end Sys2Proof.Machine
end

section
/-! O12: the copies' traps, check by check (R407). -/

namespace Sys2Proof.Machine

section
variable {s : State} {c : Cur} {b : Blk} {t : Thr} {op : Instr} {w : UniW} {x : CpyX} {st : BitVec 7}

theorem copyCheck_cast (h : Rules.CopyNames s c b op w x st) (hc : 2 ^ b.info.bpg ≤ castMask op) :
    copyCheck s c b t op w x st = some .multicastTarget := by
  rw [copyCheck_rest (.of_names h) h.endpoints, if_pos hc]

theorem copyCheck_broken (h : Rules.CopyNames s c b op w x st) (hc : castMask op < 2 ^ b.info.bpg)
    (hb : copyTilesBar s c b op x st = true) : copyCheck s c b t op w x st = some .tileState := by
  rw [copyCheck_rest (.of_names h) h.endpoints, if_neg (Nat.not_le.mpr hc), if_pos hb]

theorem copyCheck_late (h : Rules.CopyNames s c b op w x st) (hc : castMask op < 2 ^ b.info.bpg)
    (hb : copyTilesBar s c b op x st = false) (hl : t.tlOrder x.tlv x.tl (Rules.copyArgs b w x).sv = false) :
    copyCheck s c b t op w x st = some .timelineOrder := by
  rw [copyCheck_rest (.of_names h) h.endpoints, if_neg (Nat.not_le.mpr hc), hb, hl]
  rfl

theorem copyCheck_token (h : Rules.CopyNames s c b op w x st) (hc : castMask op < 2 ^ b.info.bpg)
    (hb : copyTilesBar s c b op x st = false) (hl : t.tlOrder x.tlv x.tl (Rules.copyArgs b w x).sv = true)
    (ht : x.tok ≠ 15) (ho : 15 ≤ t.tokens.getD x.tok.toNat 0) : copyCheck s c b t op w x st = some .tokenOverflow := by
  have htok : x.tok ≠ 15 ∧ 15 ≤ t.tokens.getD x.tok.toNat 0 := ⟨ht, ho⟩
  rw [copyCheck_rest (.of_names h) h.endpoints, if_neg (Nat.not_le.mpr hc), hb, hl]
  exact if_pos htok

/-- A queue's value for a timeline decreases (R238). -/
theorem tlOrder_eq_false_iff (t : Thr) (tlv : Bool) (tl : BitVec 10) (v : DWord) :
    t.tlOrder tlv tl v = false ↔ tlv = true ∧ v.toNat < (t.marks.getD (tl.toNat % 16) 0).toNat := by
  cases tlv <;> simp [Thr.tlOrder]

theorem windowFault_eq_none_iff (core : Nat) (e : Ext) :
    s.windowFault core b e = none ↔ ∀ k, ¬ Rules.EndpointFault s core b e k := by
  simp only [← windowFault_iff, Option.eq_none_iff_forall_ne_some, ne_eq]

/-- What a copy whose checks pass up to its endpoints meets, in the rules' words. -/
theorem copySound_of_rules (hcopy : Rules.IsCopy op w x st) (hp : (s.kindling && usesPeers op) = false)
    (hr : cpyrInRange b op (Rules.copyArgs b w x).sd = true)
    (hu : ¬ (Rules.BadGeometry op w x (Rules.copyArgs b w x) (Rules.descOf s c b x.dt) ∨
      Rules.OutsideTile b op (Rules.copyArgs b w x) (Rules.descOf s c b x.dt) (Rules.descOf s c b st)
        ((s.fillEntries c.core b op (Rules.named x.dt)).map fun f => (s.tile f.1 f.2).desc))) : CopySound s c b op w x st where
  peers := hp
  registers := hr
  geometry := (copyGeom_iff hcopy _ _).mpr fun h => hu (.inl h)
  footprints := (footOk_iff hcopy _ _ _ _ _).mpr fun h => hu (.inr h)

end

/-- Settles O12: the model's checks of a copy are the rules', and the first that does not pass gives its trap. -/
theorem copiesTrap : Obligations.CopiesTrap := by
  unfold Obligations.CopiesTrap
  intro op w x st s c b t hcopy hgo a dt fills es traps holds full fabric beyond unsound
  have trap_of {k : Cause} (h : copyWord op w x st s = .next (s.trapWord c b t k c.lanes)) : traps k :=
    ⟨s, .refl s, (exec_copy hcopy s).trans h⟩
  have hfab : fabric ↔ (s.kindling && usesPeers op) = true := by
    rw [Bool.and_eq_true, usesPeers_iff hcopy]
  have hbey : beyond ↔ cpyrInRange b op a.sd = false := by
    rw [← Bool.not_eq_true, cpyrInRange_iff hcopy, not_not]
  have hgeo : unsound ↔ copyGeom op a dt = false ∨ footOk op a b dt (Rules.descOf s c b st) (fills.map fun f => (s.tile f.1 f.2).desc) = false := by
    rw [← Bool.not_eq_true, ← Bool.not_eq_true, copyGeom_iff hcopy, footOk_iff hcopy, not_not, not_not]
  refine ⟨fun hn => ?range, fun hn hfull => ?names, fun hnames => ?rest⟩
  case range =>
    exact trap_of (copyWord_range hgo.toIssues hgo.gate (Bool.eq_false_iff.mpr fun h => hn ((copyHolds_iff b x st).mp h)))
  case names =>
    have check {k : Cause} (hk : copyCheck s c b t op w x st = some k) : traps k :=
      trap_of (copyWord_traps hgo.toIssues hgo.gate ((copyHolds_iff b x st).mpr hn) hfull.1 hfull.2 hk)
    refine ⟨fun hf => check (copyCheck_peers (hfab.mp hf)), fun hf hb => ?_, fun hf hb hu => ?_, fun hf hb hu => ?_⟩
    all_goals have hp : (s.kindling && usesPeers op) = false := Bool.eq_false_iff.mpr (mt hfab.mpr hf)
    · exact check (copyCheck_registers hp (hbey.mp hb))
    all_goals have hr : cpyrInRange b op a.sd = true := Bool.not_eq_false _ ▸ mt hbey.mpr hb
    · exact check (copyCheck_geometry hp hr (hgeo.mp hu))
    have hs := copySound_of_rules hcopy hp hr hu
    refine ⟨fun e he k hk hall => check (copyCheck_ends hs (endsFault_eq_some he ((windowFault_iff ..).mpr hk)
      fun e' he' k' hk' => hall e' he' k' ((windowFault_iff ..).mp hk'))), ?_⟩
    rintro hnone ⟨y, rfl⟩ hlen
    exact check (copyCheck_ends hs (endsFault_cast (fun e he => (windowFault_eq_none_iff _ _).mpr (hnone e he)) hlen))
  case rest =>
    have hn := (copyHolds_iff b x st).mpr ⟨hnames.tiles.1, hnames.tiles.2, fun hv => (hnames.timeline hv).1⟩
    have check {k : Cause} (hk : copyCheck s c b t op w x st = some k) : traps k :=
      trap_of (copyWord_traps hgo.toIssues hgo.gate hn hnames.operands (fun hv => (hnames.timeline hv).2) hk)
    intro broken usable late
    refine ⟨fun hc => check (copyCheck_cast hnames hc), fun hc => ⟨fun hb => ?_, fun hu hl => ?_, fun hu hl ht ho => ?_⟩⟩
    · exact check (copyCheck_broken hnames hc (copyTilesBar_of_broken hb))
    · exact check (copyCheck_late hnames hc (copyTilesBar_of_usable hu.1 hu.2) ((tlOrder_eq_false_iff ..).mpr hl))
    · have hord := Bool.not_eq_false _ ▸ mt (tlOrder_eq_false_iff t x.tlv x.tl a.sv).mp hl
      exact check (copyCheck_token hnames hc (copyTilesBar_of_usable hu.1 hu.2) hord ht ho)

end Sys2Proof.Machine
end

section
/-! An engine takes a command: its admission (O16). -/

namespace Sys2Proof.Machine

/-! ### Commands and tiles looked up after a change -/

theorem id_of_cmd? {s : State} {id : Nat} {k : Cmd} (h : s.cmd? id = some k) : k.id = id :=
  eq_of_beq (List.find?_some (p := fun q : Cmd => q.id == id) h)

theorem cmd?_modCmd_same {s : State} {id : Nat} {k : Cmd} (h : s.cmd? id = some k) {f : Cmd → Cmd} (hf : ∀ q, (f q).id = q.id) :
    (s.modCmd id f).cmd? id = some (f k) := by
  have hid : ∀ q : Cmd, (if q.id = id then f q else q).id = q.id := fun q => by
    split
    · exact hf q
    · rfl
  change (s.cmds.map fun q => if q.id = id then f q else q).find? _ = _
  rw [List.find?_map]
  simp only [Function.comp_def, hid]
  rw [show s.cmds.find? (fun q => q.id == id) = some k from h, Option.map_some, if_pos (id_of_cmd? h)]

theorem cmd?_of_cmds {s u : State} (h : u.cmds = s.cmds) (id : Nat) : u.cmd? id = s.cmd? id := by
  rw [State.cmd?, h]
  rfl

theorem tile_modTile_same (s : State) (core j : Nat) (f : Tile → Tile) : (s.modTile core j f).tile core j = f (s.tile core j) := by
  simp only [State.tile, State.modTile, State.coreAt, State.setCore, ngetD, nmod, nget_nput_same, Option.getD_some]

theorem mem_readers_addReader (s : State) (core j id : Nat) : id ∈ ((s.addReader core j id).tile core j).readers := by
  rw [State.addReader, tile_modTile_same]
  exact List.mem_append_right _ (List.mem_singleton_self id)

/-- The state in which a command of a source tile is counted among the readers of the tile's entry, where it was not. -/
def State.readBy (s : State) (core j id : Nat) : State :=
  if (s.tile core j).readers.contains id then s else s.addReader core j id

theorem mem_readers_readBy (s : State) (core j id : Nat) : id ∈ ((s.readBy core j id).tile core j).readers := by
  unfold State.readBy
  split
  · rename_i h
    exact List.contains_iff_mem.1 h
  · exact mem_readers_addReader ..

theorem readBy_same (s : State) (core j id : Nat) : s.readBy core j id = { s with cores := (s.readBy core j id).cores } := by
  unfold State.readBy
  split <;> rfl

section
variable {s : State} {k : Cmd} {key : Nat} {b : Blk}

/-- The admission of a copy that may start, with what it reads as source marked. -/
theorem admitCopy_starts (hb : s.blkOf k.adm = some (key, b)) (hf : k.finished = false) (hs : k.started = false)
    (hi : k.inFlight = false) (hr : s.cmdReady k b = true) (ht : s.cmdTurn k b = true) (hh : s.recd.halted = false)
    (ha : s.cmdAdmits k b = true) (hd : s.islandDown (clusterIsland (k.core / 8)) = false)
    (hst : ∀ n, k.st = some n → (s.tile k.core (b.tileIx n)).st = 2 ∨ k.id ∈ (s.tile k.core (b.tileIx n)).readers) :
    s.admitCopy k = (k.st.elim s fun n => s.readBy k.core (b.tileIx n) k.id).modCmd k.id fun q =>
      { q with started := true, inFlight := true, opened := false } := by
  unfold State.admitCopy
  simp only [hb, hf, hi, hh, hs, hr, ht, ha, hd, Bool.or_self, Bool.and_self, Bool.not_true, Bool.not_false, Bool.and_false, Bool.false_eq_true,
    if_false]
  cases hn : k.st with
  | none => rfl
  | some n =>
    by_cases hc : (s.tile k.core (b.tileIx n)).readers.contains k.id = true
    · simp only [Option.elim_some, State.readBy, hc, if_true]
    · have h2 := (hst n hn).resolve_right fun hm => hc (List.contains_iff_mem.2 hm)
      simp only [Option.elim_some, State.readBy, hc, h2, ne_eq, not_true, if_false]
      rfl

theorem exec_admit_copy (hk : s.cmd? s.arg.a = some k) (hb : s.blkOf k.adm = some (key, b)) (hop : ∀ w x, k.op ≠ .coll w x) :
    exec .engineSegmentAdmit s = .next (s.admitCopy k) := by
  change execEngineSegmentAdmit s = _
  unfold execEngineSegmentAdmit
  simp only [hk, hb]
  split
  · exact absurd ‹_› (hop _ _)
  · rfl

theorem exec_admit_coll (hk : s.cmd? s.arg.a = some k) (hb : s.blkOf k.adm = some (key, b)) {w : UniW} {x : CpyX}
    (hop : k.op = .coll w x) (hf : k.finished = false) (hs : k.started = false) (hr : s.cmdReady k b = true)
    (ht : s.cmdTurn k b = true) (ha : s.admitsColl s.collEngine none k.opened = true) :
    exec .engineSegmentAdmit s = .next { s.modCmd k.id (fun k => { k with started := true, inFlight := true, opened := false }) with
      nextId := s.nextId + 1
      colls := s.colls ++ [{ Coll.start s.nextId s.collEngine k.ctx k.sa (some k.id) none s.tick with held := true }] } := by
  change execEngineSegmentAdmit s = _
  unfold execEngineSegmentAdmit
  simp only [hk, hb, hop, hf, hs, hr, ht, ha, Bool.and_self, Bool.not_true, Bool.or_self, Bool.false_eq_true, if_false]

end

/-- Settles O16: a copy that may start is put in flight, its source tile's entry counting it; a COLL is in flight, and a collective of its
own follows the others. -/
theorem enginesAdmit : Obligations.EnginesAdmit := by
  unfold Obligations.EnginesAdmit
  intro s k key b hk hb hf hs hi hr ht gone
  have hid := id_of_cmd? hk
  have hk' : s.cmd? k.id = some k := hid ▸ hk
  refine ⟨fun hop hh ha hd hst => ?copy, fun w x hop ha => ?coll⟩
  case copy =>
    refine ⟨_, (exec_admit_copy hk hb hop).trans (congrArg _ (admitCopy_starts hb hf hs hi hr ht hh ha hd hst)), ?_⟩
    cases hn : k.st with
    | none => exact ⟨cmd?_modCmd_same hk' fun _ => rfl, fun n h => absurd h (by simp), rfl⟩
    | some n =>
      have hsame := readBy_same s k.core (b.tileIx n) k.id
      refine ⟨cmd?_modCmd_same ((cmd?_of_cmds (by rw [Option.elim_some, hsame]) _).trans hk') fun _ => rfl, fun m h => ?_, ?_⟩
      · obtain rfl := Option.some.inj h
        exact mem_readers_readBy ..
      · rw [Option.elim_some, hsame]
        rfl
  case coll =>
    exact ⟨_, _, exec_admit_coll hk hb hop hf hs hr ht ha, cmd?_modCmd_same hk' fun _ => rfl, rfl, rfl, rfl, rfl, rfl, rfl, rfl, rfl,
      rfl, rfl⟩

end Sys2Proof.Machine
end

section
/-! The calendar is left alone by memory, caches, the recorder, traps and the ends of commands (R50, R51). -/

namespace Sys2Proof.Machine

theorem RecdOnly.cal {s u : State} (h : RecdOnly s u) : u.cal = s.cal := by rw [h.same]
theorem JournalOnly.cal {s u : State} (h : JournalOnly s u) : u.cal = s.cal := by rw [h.same]
theorem Aside.cal {s u : State} (h : Aside s u) : u.cal = s.cal := by rw [h.same]
theorem HomeAside.cal {s u : State} (h : HomeAside s u) : u.cal = s.cal := by rw [h.same]

theorem foldl_cal {α : Type} {f : State → α → State} (h : ∀ s a, (f s a).cal = s.cal) (l : List α) (s : State) :
    (l.foldl f s).cal = s.cal := by
  induction l generalizing s with
  | nil => rfl
  | cons a l ih => exact (ih _).trans (h s a)

section
variable (s : State)

/-! ### Memory, its codes and its caches -/

@[simp] theorem poke_cal (a : Nat) (bs : List Byte) : (s.poke a bs).cal = s.cal := (poke_journalOnly ..).cal
@[simp] theorem put_cal (a : Nat) (bs : List Byte) : (s.put a bs).cal = s.cal := (put_journalOnly ..).cal
@[simp] theorem errRecord_cal (type outcome unit addr : Nat) (loc : Word) (syn kind : Nat) :
    (s.errRecord type outcome unit addr loc syn kind).cal = s.cal := (errRecord_journalOnly ..).cal
@[simp] theorem partialRecord_cal (line : Nat) : (s.partialRecord line).cal = s.cal := errRecord_cal ..
@[simp] theorem scheduleTest_cal (unit : BitVec 4) (loc : Word) (addr : Nat) (owner : PendingTest → Bool) :
    (s.scheduleTest unit loc addr owner).cal = s.cal := (scheduleTest_journalOnly ..).cal
@[simp] theorem eccAt_cal (line : Nat) (o : EccOutcome) : (s.eccAt line o).cal = s.cal := (eccAt_aside ..).cal
@[simp] theorem homeEcc_cal (line : Nat) (o : EccOutcome) : (s.homeEcc line o).cal = s.cal := (homeEcc_aside ..).cal
@[simp] theorem capTouch_cal (line tag : Nat) (reads writes refused : Bool) (o : EccOutcome) :
    (s.capTouch line tag reads writes refused o).cal = s.cal := (capTouch_aside ..).cal
@[simp] theorem gather_cal (line : Nat) : (s.gather line).cal = s.cal := (gather_aside ..).cal
@[simp] theorem shareLine_cal (line : Nat) (mine : Nat → Bool) : (s.shareLine line mine).cal = s.cal := rfl
@[simp] theorem dropHolders_cal (line : Nat) (mine : Nat → Bool) : (s.dropHolders line mine).cal = s.cal := rfl
@[simp] theorem cacheRead_cal (cluster line : Nat) (reuse : BitVec 2) : (s.cacheRead cluster line reuse).cal = s.cal :=
  (cacheRead_homeAside ..).cal
@[simp] theorem markWriter_cal (line writer : Nat) : (s.markWriter line writer).cal = s.cal := (markWriter_homeAside ..).cal
@[simp] theorem hostGone_cal (link line : Nat) (dirty : Bool) : (s.hostGone link line dirty).cal = s.cal := (hostGone_homeAside ..).cal
@[simp] theorem capSend_cal (line tag : Nat) : (s.capSend line tag).cal = s.cal := rfl

@[simp] theorem homeWrite_cal (h : Home) (a : Nat) (bs : List Byte) : (s.homeWrite h a bs).cal = s.cal := by
  unfold State.homeWrite
  split
  · dsimp only
    split <;> rfl
  · exact poke_cal ..

@[simp] theorem poisonWrite_cal (line : Nat) (full : Bool) : (s.poisonWrite line full).cal = s.cal := by
  unfold State.poisonWrite
  simp only [apply_ite State.cal, unpoison_cal, partialRecord_cal, ite_self]

@[simp] theorem sramEcc_cal (k line : Nat) (o : EccOutcome) : (s.sramEcc k line o).cal = s.cal := by
  unfold State.sramEcc
  cases o <;> simp

@[simp] theorem spadPoisonWrite_cal (key : Nat) (b : Blk) (line : Nat) (full : Bool) : (s.spadPoisonWrite key b line full).cal = s.cal := by
  unfold State.spadPoisonWrite
  simp only [apply_ite State.cal, errRecord_cal, ite_self]

/-! ### The recorder, messages and banks -/

@[simp] theorem note_cal (agent issuer lane obj : Nat) (mo : Bool) (addr close : Option Nat) (msgs : List DWord) (more : List Nat) :
    (s.note agent issuer lane obj mo addr close msgs more).cal = s.cal := (note_admitOnly ..).cal
@[simp] theorem closeChunk_cal (a k : Nat) : (s.closeChunk a k).cal = s.cal := (closeChunk_recdOnly ..).cal
@[simp] theorem sendMsg_cal (port : Nat) (dev : BitVec 16) (ctx tag : Nat) (op : PeerOp) : (s.sendMsg port dev ctx tag op).cal = s.cal :=
  (sendMsg_admitOnly ..).cal
@[simp] theorem admitReqs_cal : s.admitReqs.cal = s.cal := (admitReqs_admitOnly s).cal

@[simp] theorem recordAtrap_cal (agent cause op issuer lane : Nat) (pc : DWord) (lseq : Word) :
    (s.recordAtrap agent cause op issuer lane pc lseq).cal = s.cal := by
  unfold State.recordAtrap
  split <;> rfl

@[simp] theorem noteFifo_cal (k id : Nat) : (s.noteFifo k id).cal = s.cal := by
  unfold State.noteFifo
  split <;> simp

@[simp] theorem givePop_cal (id : Nat) (e : FifoEntry) : (s.givePop id e).cal = s.cal := by
  unfold State.givePop
  split
  · rfl
  · split <;> rfl

@[simp] theorem serveWaits_cal (k n : Nat) : (State.serveWaits k n s).cal = s.cal := by
  induction n generalizing s with
  | zero => rfl
  | succ n ih =>
    unfold State.serveWaits
    dsimp only
    split
    · simp only [apply_ite State.cal, ih, modBank_cal, givePop_cal, noteFifo_cal, ite_self]
    · split
      · rfl
      · split <;> simp [ih]
    · rfl

@[simp] theorem afterFifo_cal (k : Nat) : (s.afterFifo k).cal = s.cal := serveWaits_cal ..

@[simp] theorem fifoPush_cal (k : Nat) (e : FifoEntry) : (s.fifoPush k e).cal = s.cal := serveWaits_cal ..

@[simp] theorem fifoPop_cal (k : Nat) : (s.fifoPop k).1.cal = s.cal := by
  unfold State.fifoPop
  split
  · rfl
  · exact serveWaits_cal ..

@[simp] theorem leaveWait_cal (push : Bool) (k id : Nat) : (s.leaveWait push k id).cal = s.cal := rfl

@[simp] theorem leaveBanks_cal (id : Nat) : (s.leaveBanks id).cal = s.cal := by
  unfold State.leaveBanks
  exact foldl_cal (fun t p => by simp) _ s

/-! ### Notices and traps -/

@[simp] theorem notice_cal (c : Nat) (cause : Cause) (va pc : DWord) (lseq : Word) (core : Nat) :
    (s.notice c cause va pc lseq core).cal = s.cal := by
  unfold State.notice
  dsimp only
  split
  · rfl
  · split
    · rfl
    · exact (pokePa_journalOnly ..).cal

@[simp] theorem asyncTrap_cal (core bctx w : Nat) (a : ATrap) : (s.asyncTrap core bctx w a).cal = s.cal := by
  unfold State.asyncTrap
  split
  · rfl
  · dsimp only
    split
    · unfold State.addAsync
      dsimp only
      split
      · simp
      · split <;> simp [apply_ite State.cal]
    · simp [apply_ite State.cal]

@[simp] theorem cmdTrap_cal (k : Cmd) (cause : Cause) (addr : DWord) (toWarp : Bool) : (s.cmdTrap k cause addr toWarp).cal = s.cal := by
  unfold State.cmdTrap
  simp only [apply_ite State.cal, asyncTrap_cal, ite_self]

/-! ### The ends of commands and blocks -/

/-- A raise by a party: timelines and the blocks' tokens move on, and no more. -/
theorem raiseBy_same (core bctx w n : Nat) (v : DWord) : s.raiseBy core bctx w n v =
    { s with tls := (s.raiseBy core bctx w n v).tls, blks := (s.raiseBy core bctx w n v).blks } := rfl

/-- The raises that are due: commands leave, timelines and the blocks' tokens move on, and no more. -/
theorem raiseCmds_same : s.raiseCmds = { s with cmds := s.raiseCmds.cmds, tls := s.raiseCmds.tls, blks := s.raiseCmds.blks } := by
  unfold State.raiseCmds
  generalize s.cmds.filter (fun k => k.finished) = l
  induction l generalizing s with
  | nil => rfl
  | cons k l ih =>
    rw [List.foldl_cons]
    split
    · rw [ih]; rfl
    · split
      · exact ih s
      · rw [ih]; rfl

/-- The release of blocks that are over touches neither memory nor the calendar. -/
theorem sweep_mem_cal : s.sweep.mem = s.mem ∧ s.sweep.cal = s.cal := by
  unfold State.sweep
  generalize s.blks.filter (fun p => s.blkOver p.2) = l
  induction l generalizing s with
  | nil => exact ⟨rfl, rfl⟩
  | cons p l ih =>
    rw [List.foldl_cons]
    split
    · exact ih s
    · exact ih _

@[simp] theorem raiseCmds_cal : s.raiseCmds.cal = s.cal := by rw [raiseCmds_same]
@[simp] theorem sweep_cal : s.sweep.cal = s.cal := (sweep_mem_cal s).2

@[simp] theorem imgStatus_cal (core bctx w : Nat) : (s.imgStatus core bctx w).cal = s.cal := by
  unfold State.imgStatus
  split
  · rfl
  · split
    · rfl
    · simp only [apply_ite State.cal, put_cal, ite_self]

@[simp] theorem dropReader_cal (core bctx id : Nat) : (s.dropReader core bctx id).cal = s.cal := by
  unfold State.dropReader
  refine foldl_cal (fun t j => ?_) _ s
  unfold State.tileDrain
  dsimp only
  split
  · split <;> rfl
  · rfl

@[simp] theorem endCmd_cal (id : Nat) : (s.endCmd id).cal = s.cal := by
  unfold State.endCmd
  split
  · rfl
  · rename_i k _
    extract_lets alive s1 s2 s3 s4 s5
    have h1 : s1.cal = s.cal := by simp [s1, apply_ite State.cal]
    have h2 : s2.cal = s.cal := (foldl_cal (f := fun t x => t.modTile (x / 1024) (x % 1024) Tile.fillDone) (fun _ _ => rfl) _ s1).trans h1
    have h3 : s3.cal = s.cal := (dropReader_cal ..).trans h2
    have h4 : s4.cal = s.cal := by
      dsimp only [s4]
      split <;> simp [h3]
    have h5 : s5.cal = s.cal := by
      dsimp only [s5]
      split <;> simp [h4]
    simp [h5]

@[simp] theorem dropReplies_cal (k : Cmd) : (s.dropReplies k).cal = s.cal := rfl

@[simp] theorem endColl_cal (c : Coll) (fail : Option Cause) (va : DWord) : (s.endColl c fail va).cal = s.cal := by
  unfold State.endColl
  extract_lets s0 s1
  have h0 : s0.cal = s.cal := by simp [s0, apply_ite State.cal]
  split
  · simp [s1, h0]
  · simp only [apply_ite State.cal]
    split <;> exact h0
  · exact h0

end

end Sys2Proof.Machine
end

section
/-! The calendar is left alone by engines: what they read, write, move and give up (R50, R51, R409). -/

namespace Sys2Proof.Machine

/-! ### What every result of a computation satisfies -/

/-- Every result of a computation satisfies `P`; one that stops has none. -/
def Yields {ε α : Type} (P : α → Prop) : Except ε α → Prop
  | .ok a => P a
  | .error _ => True

section
variable {ε α β : Type} {P : α → Prop} {Q : β → Prop}

@[simp] theorem yields_ok (a : α) : Yields P (.ok a : Except ε α) ↔ P a := Iff.rfl
@[simp] theorem yields_pure (a : α) : Yields P (pure a : Except ε α) ↔ P a := Iff.rfl
@[simp] theorem yields_error (x : ε) : Yields P (.error x : Except ε α) := trivial

@[simp] theorem yields_ite {p : Prop} [Decidable p] {x y : Except ε α} : Yields P (if p then x else y) ↔ if p then Yields P x else Yields P y := by
  split <;> rfl

theorem Yields.of_eq {x : Except ε α} {a : α} (h : Yields P x) (e : x = .ok a) : P a := by
  subst e
  exact h

theorem Yields.bind {x : Except ε α} {f : α → Except ε β} (h : Yields P x) (hf : ∀ a, P a → Yields Q (f a)) : Yields Q (x >>= f) := by
  cases x with
  | error e => trivial
  | ok a => exact hf a h

theorem Yields.map {x : Except ε α} {f : α → β} (h : Yields P x) (hf : ∀ a, P a → Q (f a)) : Yields Q (x.map f) := by
  cases x with
  | error e => trivial
  | ok a => exact hf a h

theorem Yields.foldlM {f : α → β → Except ε α} (hf : ∀ a b, P a → Yields P (f a b)) (l : List β) {a : α} (h : P a) :
    Yields P (l.foldlM f a) := by
  induction l generalizing a with
  | nil => exact h
  | cons b l ih => exact (hf a b h).bind fun a' h' => ih h'

end

section
variable {c : Cal} {e : Eng}

theorem foldl_cal_eng {α : Type} {f : Eng → α → Eng} (hf : ∀ e a, (f e a).s.cal = e.s.cal) (l : List α) (e : Eng) :
    (l.foldl f e).s.cal = e.s.cal := by
  induction l generalizing e with
  | nil => rfl
  | cons a l ih => exact (ih _).trans (hf e a)

/-! ### One access -/

@[simp] theorem note_cal_eng (e : Eng) (obj : Nat) (w : Bool) (a : Option Nat) : (e.note obj w a).s.cal = e.s.cal := by
  unfold Eng.note
  split
  · rfl
  · exact note_cal ..

@[simp] theorem watch_cal_eng (e : Eng) (va : DWord) (n : Nat) : (e.watch va n).s.cal = e.s.cal := by
  unfold Eng.watch
  split <;> rfl

@[simp] theorem mismatch_cal_eng (e : Eng) (v : DWord) : (e.mismatch v).s.cal = e.s.cal := rfl

@[simp] theorem sram_cal_eng (e : Eng) (bank line : Nat) : (e.sram bank line).s.cal = e.s.cal := sramEcc_cal ..

@[simp] theorem cached_cal_eng (e : Eng) (l : Option Leaf) (line : Nat) (s : State) : (e.cached l line s).cal = s.cal := by
  unfold Eng.cached
  split
  · split
    · exact cacheRead_cal ..
    · rfl
  · rfl

@[simp] theorem covers_cal_eng (e : Eng) (h : Home) (a n : Nat) : (e.covers h a n).s.cal = e.s.cal := by rw [covers_s]

@[simp] theorem unset_cal_eng (e : Eng) (h : Home) (a : Nat) (bs : List Byte) : (e.unset h a bs).s.cal = e.s.cal := by
  unfold Eng.unset
  split
  · rfl
  · split <;> rfl
  · rfl

theorem take_yields_cal (h : e.s.cal = c) (n : Nat) : Yields (fun x => x.1.s.cal = c) (e.take n) := by
  unfold Eng.take
  split
  · trivial
  · exact h

theorem peer_yields_cal (h : e.s.cal = c) (dev : BitVec 16) (op : PeerOp) (va : DWord) (tag : Nat) :
    Yields (fun x => x.s.cal = c) (e.peer dev op va tag) := by
  unfold Eng.peer
  simp [h]

theorem peerRead_yields_cal (h : e.s.cal = c) (dev : BitVec 16) (va : DWord) (n : Nat) :
    Yields (fun x => x.1.s.cal = c) (e.peerRead dev va n) := by
  unfold Eng.peerRead
  split
  · split
    · trivial
    · simp [h]
  · split <;> trivial

theorem peerWrite_yields_cal (h : e.s.cal = c) (dev : BitVec 16) (va : DWord) (bs : List Byte) :
    Yields (fun x => x.s.cal = c) (e.peerWrite dev va bs) := by
  unfold Eng.peerWrite
  split
  · trivial
  · rename_i e1 he
    have h1 : e1.s.cal = c := (peer_yields_cal h ..).of_eq he
    exact h1

theorem readAt_yields_cal (h : e.s.cal = c) (v : DWord) (n : Nat) (x : Home) (a : Nat) (l : Option Leaf) :
    Yields (fun x => x.1.s.cal = c) (e.readAt v n x a l) := by
  unfold Eng.readAt
  split
  · extract_lets +onlyGivenNames line src e1 s0 s1 e2
    have h1 : s1.cal = c := by simp [s1, s0, e1, src, apply_ite State.cal, h]
    simp [e2, h1]
  · split
    · trivial
    · simp [h]
  · simp [h, take_yields_cal]
  · exact peerRead_yields_cal h ..
  · trivial

theorem readN_yields_cal (h : e.s.cal = c) (glob : Bool) (fuel : Nat) (va : DWord) (n : Nat) :
    Yields (fun x => x.1.s.cal = c) (Eng.readN glob fuel e va n) := by
  induction fuel generalizing e va n with
  | zero => exact h
  | succ fuel ih =>
    cases n with
    | zero => exact h
    | succ n =>
      rw [Eng.readN]
      · split
        · trivial
        · dsimp only
          split
          · trivial
          · rename_i e1 _ he
            have h1 : e1.s.cal = c := (readAt_yields_cal ((watch_cal_eng ..).trans h) ..).of_eq he
            split
            · trivial
            · rename_i e2 _ he2
              have h2 : e2.s.cal = c := (ih h1 ..).of_eq he2
              exact h2
      · exact n.succ_ne_zero

theorem src_yields_cal (h : e.s.cal = c) (va : DWord) (n : Nat) (base : DWord) : Yields (fun x => x.1.s.cal = c) (e.src va n base) := by
  unfold Eng.src
  split
  · exact h
  · exact readN_yields_cal h ..

theorem writeAt_yields_cal (h : e.s.cal = c) (v : DWord) (data : List Byte) (x : Home) (a : Nat) (l : Option Leaf) :
    Yields (fun x => x.s.cal = c) (e.writeAt v data x a l) := by
  unfold Eng.writeAt
  extract_lets +onlyGivenNames bs
  split
  · exact (unset_cal_eng ..).trans h
  · split
    · extract_lets +onlyGivenNames line pub writer
      extract_lets +onlyGivenNames bad e1
      have h1 : e1.s.cal = c := by
        dsimp only [e1]
        split <;> exact h
      extract_lets +onlyGivenNames e2 s1 s2 s3
      have h3 : s3.cal = c := by simp [s3, s2, s1, e2, apply_ite State.cal, h1]
      simp [h1, h3]
    · split
      · trivial
      · simp [h]
    · simp [h]
    · exact peerWrite_yields_cal h ..
    · trivial

theorem writeN_yields_cal (h : e.s.cal = c) (glob : Bool) (fuel : Nat) (va : DWord) (bs : List Byte) :
    Yields (fun x => x.s.cal = c) (Eng.writeN glob fuel e va bs) := by
  induction fuel generalizing e va bs with
  | zero => exact h
  | succ fuel ih =>
    cases bs with
    | nil => exact h
    | cons b bs =>
      rw [Eng.writeN]
      · split
        · trivial
        · split
          · trivial
          · rename_i he
            exact ih ((writeAt_yields_cal ((watch_cal_eng ..).trans h) ..).of_eq he) ..
      · exact List.cons_ne_nil b bs

theorem dst_yields_cal (h : e.s.cal = c) (va : DWord) (bs : List Byte) (base : DWord) : Yields (fun x => x.s.cal = c) (e.dst va bs base) :=
  writeN_yields_cal h ..

theorem spad_yields_cal (h : e.s.cal = c) (adm o : Nat) (bs : List Byte) : Yields (fun x => x.s.cal = c) (e.spad adm o bs) := by
  unfold Eng.spad
  split
  · exact h
  · exact .foldlM (fun t i ht => writeAt_yields_cal ((watch_cal_eng ..).trans ht) ..) _ h

theorem peerSrc_yields_cal (h : e.s.cal = c) (dev : BitVec 16) (va : DWord) (n : Nat) :
    Yields (fun x => x.1.s.cal = c) (e.peerSrc dev va n) := by
  unfold Eng.peerSrc
  refine Yields.foldlM (P := fun x : Eng × List Byte => x.1.s.cal = c) (fun x p hx => ?_) _ h
  exact (peerRead_yields_cal hx ..).bind fun y hy => hy

theorem peerDst_yields_cal (h : e.s.cal = c) (dev : BitVec 16) (va : DWord) (bs : List Byte) :
    Yields (fun x => x.s.cal = c) (e.peerDst dev va bs) :=
  Yields.foldlM (P := fun x : Eng => x.s.cal = c) (fun _ _ ht => peerWrite_yields_cal ht ..) _ h

theorem pop_yields_cal (h : e.s.cal = c) (va : DWord) : Yields (fun x => x.1.s.cal = c) (e.pop va) := by
  unfold Eng.pop
  extract_lets +onlyGivenNames k
  split
  · trivial
  · extract_lets +onlyGivenNames e1
    have h1 : e1.s.cal = c := by simp [e1, h]
    split
    · trivial
    · split
      · trivial
      · rename_i s1 _ hp
        have hs := fifoPop_cal e1.s k
        rw [hp] at hs
        exact hs.trans h1

theorem push_yields_cal (h : e.s.cal = c) (va : DWord) (bs : List Byte) : Yields (fun x => x.s.cal = c) (e.push va bs) := by
  unfold Eng.push
  extract_lets +onlyGivenNames k
  split
  · trivial
  · extract_lets +onlyGivenNames x e1
    have h1 : e1.s.cal = c := by simp [e1, h]
    simp [h, h1]

/-! ### Units of a copy -/

theorem cpyUnit_yields_cal (h : e.s.cal = c) (y : CpyY) (n room : Nat) : Yields (fun x => x.1.s.cal = c) (e.cpyUnit y n room) := by
  unfold Eng.cpyUnit
  extract_lets +onlyGivenNames off sf df k sPeer dPeer
  split
  · trivial
  · extract_lets +onlyGivenNames finish write
    have hf : ∀ e2 : Eng, e2.s.cal = c → Yields (fun x => x.1.s.cal = c) (finish e2) := fun _ he => he
    have hw : ∀ x : Eng × List Byte, x.1.s.cal = c → Yields (fun x => x.1.s.cal = c) (write x) := by
      intro x hx
      dsimp -zeta only [write]
      split
      · exact (push_yields_cal hx ..).bind hf
      · split
        · refine Yields.bind (P := fun x : Eng => x.s.cal = c) ?_ hf
          split
          · exact hx
          · exact peerDst_yields_cal ((watch_cal_eng ..).trans hx) ..
        · exact (dst_yields_cal hx ..).bind hf
    clear_value write
    split
    · refine Yields.bind (P := fun x : Eng × List Byte => x.1.s.cal = c) ?_ hw
      split
      · exact h
      · exact pop_yields_cal h _
    · split
      · refine Yields.bind (P := fun x : Eng × List Byte => x.1.s.cal = c) ?_ hw
        exact peerSrc_yields_cal ((watch_cal_eng ..).trans h) ..
      · exact (src_yields_cal h ..).bind hw

theorem fillUnit_yields_cal (h : e.s.cal = c) (y : CpyY) (n room : Nat) : Yields (fun x => x.1.s.cal = c) (e.fillUnit y n room) := by
  unfold Eng.fillUnit
  extract_lets va k pw pat
  split
  · trivial
  · exact (dst_yields_cal (by simp [apply_ite State.cal, h]) ..).bind fun _ h1 => h1

theorem linesUnit_yields_cal (h : e.s.cal = c) (ext : Nat → List (Nat × Nat)) {get : Eng → Nat → Except EStop (Eng × List Put)}
    {put : Eng → Put → Except EStop Eng} (lo hi : Nat) (hget : ∀ e n, e.s.cal = c → Yields (fun x => x.1.s.cal = c) (get e n))
    (hput : ∀ e p, e.s.cal = c → Yields (fun x => x.s.cal = c) (put e p)) :
    Yields (fun x => x.1.s.cal = c) (e.linesUnit ext get put lo hi) := by
  unfold Eng.linesUnit
  refine Yields.bind (P := fun x : Eng × Nat × List Put => x.1.s.cal = c) (.foldlM (fun x line hx => ?_) _ h) fun x h1 => h1
  refine Yields.bind (P := fun y : Eng × List Put => y.1.s.cal = c) (.foldlM (fun y i hy => ?_) _ hx) fun y hy => ?_
  · exact Yields.bind (Q := fun x : Eng × List Put => x.1.s.cal = c) (hget _ _ hy) fun z hz => hz
  · exact Yields.bind (Q := fun x : Eng × Nat × List Put => x.1.s.cal = c)
      (Yields.foldlM (P := fun x : Eng => x.s.cal = c) (fun e p he => hput { e with bad := p.bad } p he) _ hy) fun z hz => hz

theorem elemsUnit_yields_cal (h : e.s.cal = c) {ready : Eng → Nat → Except EStop Eng} (el : Nat → Elem) (n room : Nat)
    (hr : ∀ e n, e.s.cal = c → Yields (fun x => x.s.cal = c) (ready e n)) : Yields (fun x => x.1.s.cal = c) (e.elemsUnit ready el n room) := by
  refine linesUnit_yields_cal h _ _ _ (fun e1 m he => (hr e1 m he).bind fun e0 h0 => ?_) fun _ _ he => dst_yields_cal he ..
  split
  · trivial
  · exact (src_yields_cal h0 ..).bind fun x hx => hx

theorem padPut_yields_cal (h : e.s.cal = c) (p : Put) : Yields (fun x => x.s.cal = c) (e.padPut p) := by
  unfold Eng.padPut
  split
  · exact spad_yields_cal h ..
  · split
    · trivial
    · exact spad_yields_cal h ..

theorem planeGet_yields_cal (h : e.s.cal = c) (y : CpyY) (d : BitVec 128) (n : Nat) :
    Yields (fun x => x.1.s.cal = c) (Eng.planeGet y d e n) := by
  unfold Eng.planeGet
  refine (src_yields_cal h ..).bind fun ⟨_, _⟩ ha => ?_
  dsimp only
  split
  · exact (src_yields_cal ha ..).bind fun ⟨_, _⟩ hb => hb
  · exact ha

theorem expandGet_yields_cal (h : e.s.cal = c) (y : CpyY) (d : BitVec 128) (n : Nat) :
    Yields (fun x => x.1.s.cal = c) (Eng.expandGet y d e n) := by
  unfold Eng.expandGet
  refine (src_yields_cal h ..).bind fun a ha => ?_
  dsimp -zeta only
  extract_lets +onlyGivenNames bits have' finish data
  have hd : ∀ x, Yields (fun x => x.1.s.cal = c) (data x) := fun x => by
    refine (src_yields_cal ha ..).bind fun b hb => ?_
    dsimp only
    split <;> exact hb
  split
  · trivial
  · exact hd ()

theorem expandUnit_yields_cal (h : e.s.cal = c) (y : CpyY) (d : BitVec 128) (n room : Nat) :
    Yields (fun x => x.1.s.cal = c) (e.expandUnit y d n room) := by
  unfold Eng.expandUnit
  dsimp only
  split
  · exact linesUnit_yields_cal h _ _ _ (fun _ _ he => expandGet_yields_cal he ..) fun _ _ he => padPut_yields_cal he _
  · exact linesUnit_yields_cal h _ _ _ (fun _ _ he => expandGet_yields_cal he ..) fun _ _ he => dst_yields_cal he ..

theorem regUnit_yields_cal (h : e.s.cal = c) (n : Nat) : Yields (fun x => x.1.s.cal = c) (e.regUnit n) := by
  unfold Eng.regUnit
  split
  · exact h
  · refine (src_yields_cal (by exact h) ..).bind fun a ha => ?_
    dsimp -zeta only
    split
    · exact ha
    · split
      · exact ha
      · simp [apply_ite State.cal, ha]

theorem castUnit_yields_cal (h : e.s.cal = c) (n room : Nat) : Yields (fun x => x.1.s.cal = c) (e.castUnit n room) := by
  unfold Eng.castUnit
  exact (src_yields_cal h ..).bind fun ⟨_, _⟩ ha =>
    (Yields.foldlM (P := fun x : Eng => x.s.cal = c) (fun _ _ he => spad_yields_cal he ..) _ ha).bind fun _ h2 => h2

theorem indexUnit_yields_cal (h : e.s.cal = c) (y : CpyY) (scatter : Bool) (lo n room : Nat) :
    Yields (fun x => x.1.s.cal = c) (e.indexUnit y scatter lo n room) :=
  elemsUnit_yields_cal h _ _ _ fun _ _ he => (readN_yields_cal he ..).map fun ⟨_, _⟩ h1 => h1

theorem unit_yields_cal (h : e.s.cal = c) (n room : Nat) : Yields (fun x => x.1.s.cal = c) (e.unit n room) := by
  unfold Eng.unit
  extract_lets e1 d
  have h1 : e1.s.cal = c := h
  clear_value e1
  split
  · exact cpyUnit_yields_cal h1 ..
  · exact fillUnit_yields_cal h1 ..
  · exact elemsUnit_yields_cal h1 _ _ _ fun _ _ he => he
  · exact linesUnit_yields_cal h1 _ _ _ (fun _ _ he => planeGet_yields_cal he ..) fun _ _ he => padPut_yields_cal he _
  · exact expandUnit_yields_cal h1 ..
  · exact regUnit_yields_cal h1 _
  · exact castUnit_yields_cal h1 ..
  · exact indexUnit_yields_cal h1 ..
  · exact indexUnit_yields_cal h1 ..
  · exact h1

/-! ### What is given up, and the end of a segment -/

@[simp] theorem runUndef_cal_eng (e : Eng) (stop fuel : Nat) : (Eng.runUndef stop fuel e).s.cal = e.s.cal := by
  induction fuel generalizing e with
  | zero => rfl
  | succ fuel ih =>
    unfold Eng.runUndef
    split
    · rfl
    · split
      · rename_i he
        exact (ih _).trans ((unit_yields_cal rfl ..).of_eq he)
      · rename_i he
        exact (ih _).trans ((unit_yields_cal rfl ..).of_eq he)
      · exact ih _

@[simp] theorem settle_cal_eng (e : Eng) : e.settle.s.cal = e.s.cal := by
  unfold Eng.settle
  refine (foldl_cal_eng (fun t x => ?_) _ _).trans rfl
  split
  · split
    · rfl
    · split
      · rfl
      · exact spadPoisonWrite_cal ..
  · simp [apply_ite Eng.s, apply_ite State.cal]

@[simp] theorem commit_cal_eng (e : Eng) : e.commit.cal = e.s.cal :=
  (foldl_cal (fun _ _ => cmdTrap_cal ..) _ _).trans rfl

@[simp] theorem failCopy_cal (s : State) (id : Nat) (cause : Cause) (va : DWord) : (s.failCopy id cause va).cal = s.cal := by
  unfold State.failCopy
  split
  · rfl
  · split <;> simp [State.engFor, State.engStart]

theorem quiet_yields_cal {α : Type} (h : e.s.cal = c) {f : Eng → Except EStop (Eng × α)}
    (hf : ∀ e, e.s.cal = c → Yields (fun x => x.1.s.cal = c) (f e)) : Yields (fun x => x.1.s.cal = c) (e.quiet f) :=
  (hf { e with s := { e.s with recd := { e.s.recd with mode := 0 } } } h).map fun _ h1 => h1

theorem rankDev_yields_cal (h : e.s.cal = c) (d : CollDesc) (r : Nat) : Yields (fun x => x.1.s.cal = c) (e.rankDev d r) :=
  (readN_yields_cal h ..).bind fun ⟨_, _⟩ h1 => h1

theorem collHead_yields_cal (h : e.s.cal = c) (desc : DWord) : Yields (fun x => x.1.s.cal = c) (e.collHead desc) := by
  unfold Eng.collHead
  extract_lets +onlyGivenNames head aligned
  have hh : ∀ x, Yields (fun x => x.1.s.cal = c) (head x) := fun _ =>
    (readN_yields_cal h ..).bind fun ⟨e1, bytes⟩ h1 => by
      dsimp -zeta only
      extract_lets +onlyGivenNames d win rest
      have hr : ∀ x, Yields (fun x => x.1.s.cal = c) (rest x) := fun _ => by
        refine (rankDev_yields_cal h1 ..).bind fun ⟨e2, me⟩ h2 => ?_
        dsimp only
        split
        · trivial
        · exact h2
      clear_value rest
      split
      · trivial
      · exact hr ()
  clear_value head
  split
  · trivial
  · dsimp only [aligned]
    split
    · trivial
    · exact hh ()

@[simp] theorem collState_cal_eng (e : Eng) (c : Coll) : (e.collState c).cal = e.s.cal := by
  unfold Eng.collState
  dsimp only
  split
  · simp
  · exact (foldl_cal (fun _ _ => notice_cal ..) _ _).trans (settle_cal_eng e)

@[simp] theorem collUndef_cal_eng (e : Eng) (d : CollDesc) (lo : Nat) : (e.collUndef d lo).s.cal = e.s.cal := by
  unfold Eng.collUndef
  refine (foldl_cal_eng (fun t p => ?_) _ _).trans (bump_cal _)
  split
  · rename_i he
    exact (dst_yields_cal (by rfl) ..).of_eq he
  · rfl

end

end Sys2Proof.Machine
end

section
/-! The calendar is left alone by what a slot's work does: links retrained, memory patrolled, tests run and clocks changed (R52, R59). -/

namespace Sys2Proof.Machine

section
variable (s : State)

/-! ### Collectives that fail -/

@[simp] theorem dropParts_cal (d : CollDesc) : (s.dropParts d).cal = s.cal := rfl

theorem collEng_cal {c : Coll} {e : Eng} (h : s.collEng c = some e) : e.s.cal = s.cal := by
  unfold State.collEng at h
  split at h
  · split at h
    · cases h
    · split at h
      · cases h
      · cases h
        rfl
  · cases h
    rfl

@[simp] theorem failColl_cal (c : Coll) (cause : Cause) (va : DWord) : (s.failColl c cause va).cal = s.cal := by
  unfold State.failColl
  split
  · exact endColl_cal ..
  · rename_i e he
    have h0 : e.s.cal = s.cal := collEng_cal s he
    split
    · rename_i e1 bytes _ hq
      have h1 : e1.s.cal = s.cal :=
        (quiet_yields_cal (e := { e with err := false, ecc := .clean }) h0 fun t ht => collHead_yields_cal ht c.desc).of_eq hq
      simp [h1]
    · exact endColl_cal ..

@[simp] theorem abortColl_cal (c : Coll) (cause : Cause) : (s.abortColl c cause).cal = s.cal := by
  unfold State.abortColl
  extract_lets s1
  have h1 : s1.cal = s.cal := by
    dsimp only [s1]
    split
    · rfl
    · split <;> simp
  simp [h1]

/-! ### Ports, spares and tests -/

@[simp] theorem endContribs_cal (slot : Nat) (mine : WinContrib → Bool) (err : Option Cause) :
    (s.endContribs slot mine err).cal = s.cal := by rw [endContribs_same]

@[simp] theorem portDown_cal (p : Nat) : (s.portDown p).cal = s.cal := by
  unfold State.portDown
  extract_lets mine copies colls s1 s2 l2 s3 s4 s5
  have h1 : s1.cal = s.cal := foldl_cal (fun t c => notice_cal ..) _ s
  have h4 : s4.cal = s.cal := (foldl_cal (fun t slot => endContribs_cal ..) _ s3).trans h1
  have h5 : s5.cal = s.cal := (foldl_cal (fun t id => failCopy_cal ..) _ s4).trans h4
  exact (foldl_cal (fun t c => abortColl_cal ..) _ s5).trans h5

@[simp] theorem spare_cal (t : PendingTest) : (s.spare t).cal = s.cal := by
  unfold State.spare
  extract_lets rec'
  have hr : ∀ u a b c d, (rec' u a b c d).cal = u.cal := fun _ _ _ _ _ => errRecord_cal ..
  clear_value rec'
  split <;> simp only [apply_ite State.cal, hr, bump_cal, portDown_cal, modPort_cal, ite_self]

@[simp] theorem runTest_cal (t : PendingTest) : (s.runTest t).cal = s.cal := by
  unfold State.runTest
  simp [apply_ite State.cal]

@[simp] theorem runTests_cal (e : BitVec 128) : (s.runTests e).cal = s.cal := foldl_cal (fun t x => runTest_cal t x) _ s

@[simp] theorem retrain_cal (e : BitVec 128) : (s.retrain e).cal = s.cal := by
  refine foldl_cal (fun t p => ?_) _ s
  dsimp only
  split <;> rfl

@[simp] theorem hostL0p_cal (e : BitVec 128) : (s.hostL0p e).cal = s.cal := rfl

@[simp] theorem scrubSet_cal (line : Nat) (o : EccOutcome) : (s.scrubSet line o).cal = s.cal := by
  unfold State.scrubSet
  split <;> simp [apply_ite State.cal]

@[simp] theorem patrol_cal (e : BitVec 128) : (s.patrol e).cal = s.cal := by
  unfold State.patrol
  simp [apply_ite State.cal]

/-! ### Clocks -/

@[simp] theorem tracePut_cal (source : Nat) (r : List Byte) : (s.tracePut source r).cal = s.cal := rfl

@[simp] theorem traceRecord_cal (island type : Nat) (body : List DWord) : (s.traceRecord island type body).cal = s.cal := by
  unfold State.traceRecord
  split
  · rfl
  · dsimp only
    split
    · rfl
    · split <;> rfl

@[simp] theorem setPoint_cal (k p : Nat) : (s.setPoint k p).cal = s.cal := by
  unfold State.setPoint
  simp [apply_ite State.cal]

@[simp] theorem writeBackHost_cal (which : Nat → Nat → Bool) : (s.writeBackHost which).cal = s.cal := by
  obtain ⟨o, m, -, hw⟩ := writeBackHost_eq s which
  rw [hw]

@[simp] theorem clockChange_cal (e : BitVec 128) : (s.clockChange e).cal = s.cal := by
  unfold State.clockChange
  generalize List.range 1280 = l
  rw [bump_cal, foldl_cal fun t k => by split <;> simp]
  split
  · exact writeBackHost_cal ..
  · rfl

/-! ### A slot's beginning -/

@[simp] theorem closeWindows_cal (e : BitVec 128) : (s.closeWindows e).cal = s.cal := rfl

@[simp] theorem slotRecord_cal (i kind postponed : Nat) (aborted : Bool) : (s.slotRecord i kind postponed aborted).cal = s.cal := by
  unfold State.slotRecord
  split <;> rfl

@[simp] theorem slotWork_cal (e : BitVec 128) : (s.slotWork e).cal = s.cal := by
  unfold State.slotWork
  split <;> simp

/-- The run a slot begins with: on now, for its length (R59). -/
def slotBegun (i : Nat) (e : BitVec 128) (postponed : Nat) : SlotRun :=
  { entry := i, due := s.tick, postponed := postponed, running := true, untilTick := s.tick + 64 * entLen e }

theorem beginSlot_cal (i : Nat) (e : BitVec 128) (postponed : Nat) (aborted : Bool) : (s.beginSlot i e postponed aborted).cal =
    { s.cal with
      slots := (s.cal.slots.filter fun x : SlotRun => x.entry != i) ++ [slotBegun s i e postponed]
      started := i :: s.cal.started } := by
  unfold State.beginSlot slotBegun
  simp

end

end Sys2Proof.Machine
end

section
/-! How the calendar runs: frames, commits, damper slots and pod alignment (O21). -/

namespace Sys2Proof.Machine

/-- A boundary that has come begins the next frame. -/
theorem frameBoundary_runs {s : State} (ht : s.cal.nextStart ≤ s.tick) (ho : s.cal.frameOver = true) :
    exec .frameBoundary s = .next (s.newFrame.updatePage).admitReqs := by
  show execFrameBoundary s = _
  unfold execFrameBoundary
  rw [if_neg (by simp [ho]; omega)]

/-- After the boundary the calendar is the new frame's, but for the count of the page's writes. -/
theorem frameBoundary_cal (s : State) : ∃ n, (s.newFrame.updatePage).admitReqs.cal = { s.newFrame.cal with seq := n } := by
  obtain ⟨n, h⟩ := updatePage_journalOnly s.newFrame
  exact ⟨n, (admitReqs_cal _).trans h.cal⟩

theorem newFrame_keeps_cur {s : State} (h : s.cal.next = none) : s.newFrame.cal.cur = s.cal.cur := by
  unfold State.newFrame
  simp [h]

/-- A pending calendar whose frame has come is in force (R54). -/
theorem newFrame_takes_next {s : State} {c : Calendar} (h : s.cal.next = some c)
    (hf : s.cal.nextFrame.toNat ≤ s.cal.nextNumber.toNat) :
    s.newFrame.cal.cur = c ∧ s.newFrame.cal.gen = s.cal.nextGen ∧ s.newFrame.cal.next = none := by
  unfold State.newFrame
  simp [h, hf]

/-- A validation that finds a fault answers its reason (R58). -/
theorem validation_fails {s : State} {r : Nat} {i : Option Nat} (hb : s.cal.busy = true) (h : s.calReason s.staged = some (r, i)) :
    ∃ u, exec .calendarValidationDone s = .next u ∧ u.cal.busy = false ∧ u.cal.result = 2 ∧ u.cal.reason = BitVec.ofNat 4 r ∧
      u.cal.cur = s.cal.cur ∧ u.cal.next = s.cal.next := by
  change ∃ u, execCalendarValidationDone s = .next u ∧ _
  unfold execCalendarValidationDone
  simp only [hb, Bool.not_true, Bool.false_eq_true, if_false, h]
  exact ⟨_, rfl, rfl, rfl, rfl, rfl, rfl⟩

/-- A validation that finds none keeps the staged calendar as the next one. -/
theorem validation_passes {s : State} (hb : s.cal.busy = true) (h : s.calReason s.staged = none) :
    ∃ u, exec .calendarValidationDone s = .next u ∧ u.cal.busy = false ∧ u.cal.result = 1 ∧ u.cal.reason = 0 ∧
      u.cal.cur = s.cal.cur ∧ u.cal.next = some s.staged ∧ u.cal.nextGen = s.cal.gen + 1 := by
  change ∃ u, execCalendarValidationDone s = .next u ∧ _
  unfold execCalendarValidationDone
  simp only [hb, Bool.not_true, Bool.false_eq_true, if_false, h]
  refine ⟨_, rfl, ?_⟩
  obtain ⟨n, hj⟩ := updatePage_journalOnly _
  rw [hj.cal]
  exact ⟨rfl, rfl, rfl, rfl, rfl, rfl⟩

/-! ### Slots -/

section
variable {s : State} {e : BitVec 128}

/-- No run is known of an entry that none of the slots is of. -/
theorem find_slot_none {i : Nat} (h : ∀ r ∈ s.cal.slots, r.entry ≠ i) : (s.cal.slots.find? fun r => r.entry == i) = none :=
  List.find?_eq_none.mpr fun r hr => by simpa using h r hr

/-- A slot that is due for the first time and that nothing holds begins (R59). -/
theorem slotStart_begins (he : s.cal.cur.entries[s.arg.a]? = some e) (hn : s.arg.a ∉ s.cal.started)
    (hf : ∀ r ∈ s.cal.slots, r.entry ≠ s.arg.a) (ht : s.cal.frameStart + 64 * entStart e ≤ s.tick)
    (hc : s.cmdHolders e = []) (hk : s.kilnHolders e = []) :
    exec .slotStartTest s = .next (s.beginSlot s.arg.a e 0 false) := by
  show execSlotStartTest s = _
  unfold execSlotStartTest
  simp [he, find_slot_none hf, hn, hc, hk, Nat.not_lt.mpr ht]

/-- One that is held, and whose kind gives, is postponed by 64 ticks (R65). -/
theorem slotStart_postpones (he : s.cal.cur.entries[s.arg.a]? = some e) (hn : s.arg.a ∉ s.cal.started)
    (hf : ∀ r ∈ s.cal.slots, r.entry ≠ s.arg.a) (ht : s.cal.frameStart + 64 * entStart e ≤ s.tick)
    (hh : s.cmdHolders e ≠ [] ∨ s.kilnHolders e ≠ []) (hg : 0 < kindGive (entKind e)) :
    exec .slotStartTest s = .next { s with cal := { s.cal with
      slots := (s.cal.slots.filter fun r => r.entry != s.arg.a) ++
        [{ entry := s.arg.a, due := s.cal.frameStart + 64 * entStart e + 64, postponed := 1, running := false, untilTick := 0 }] } } := by
  have hheld : ((s.cmdHolders e).isEmpty && (s.kilnHolders e).isEmpty) = false := by
    rcases hh with h | h <;> simp [h]
  show execSlotStartTest s = _
  unfold execSlotStartTest
  simp [he, find_slot_none hf, hn, hheld, hg, Nat.not_lt.mpr ht]

@[simp] theorem openWindows_cal (s : State) (e : BitVec 128) : (s.openWindows e).cal = s.cal := rfl

@[simp] theorem resend_cal (s : State) (p : Nat) : (s.resend p).cal = s.cal := by
  rw [resend_same]
  rfl

@[simp] theorem resendDue_cal (s : State) : s.resendDue.cal = s.cal :=
  foldl_cal (fun t p => by split <;> simp) _ s

/-- A slot's end takes its run away (R59). -/
theorem slotEnd_ends {r : SlotRun} (h : (s.cal.slots.find? fun r => r.entry == s.arg.a && r.running) = some r)
    (ht : r.untilTick ≤ s.tick) :
    ∃ u, exec .slotEnd s = .next u ∧ u.cal.slots = s.cal.slots.filter fun x => x.entry != r.entry := by
  change ∃ u, execSlotEnd s = .next u ∧ _
  unfold execSlotEnd
  simp only [h, Nat.not_lt.mpr ht, if_false]
  refine ⟨_, rfl, ?_⟩
  rw [admitReqs_cal, resendDue_cal, openWindows_cal]

end

/-- An exchange on a port in a training slot measures the reference's offset (R62). -/
theorem podExchange_measures {s : State} (ha : s.cal.alignEn = true) (hr : s.cal.podRef = false) (hp : s.arg.a < 24)
    (hs : s.slotNow (fun e => entKind e == 1 && (entLinks e).getLsbD s.arg.a) = true) :
    exec .podTimestampExchange s = .next (s.podStamp s.arg.v s.arg.v2 s.arg.v3) := by
  show execPodTimestampExchange s = _
  unfold execPodTimestampExchange
  simp [ha, hr, hp, hs]

/-- Settles O21: what each step leaves of the calendar; the work of a slot that begins leaves the calendar alone. -/
theorem calendarRuns : Obligations.CalendarRuns := by
  unfold Obligations.CalendarRuns
  intro s
  refine ⟨fun ht ho => ?_, fun hv => ?_, fun hb => ⟨fun r i => validation_fails hb, validation_passes hb⟩,
    fun e he hn hf ht => ⟨fun hc hk => ?_, fun hh hg => ?_⟩, fun r => slotEnd_ends, fun ha hr hp hs => ?_⟩
  · obtain ⟨n, hcal⟩ := frameBoundary_cal s
    refine ⟨_, frameBoundary_runs ht ho, ?_⟩
    rw [hcal]
    exact ⟨rfl, rfl, rfl, rfl, newFrame_keeps_cur, fun c => newFrame_takes_next⟩
  · refine ⟨s.writeCalctl s.arg.v, if_pos hv, ?_, rfl, rfl⟩
    simp [State.writeCalctl, hv]
  · refine ⟨_, slotStart_begins he hn hf ht hc hk, ?_⟩
    rw [beginSlot_cal]
    exact ⟨by simp, slotBegun s s.arg.a e 0, by simp, rfl, rfl, rfl⟩
  · exact ⟨_, slotStart_postpones he hn hf ht hh hg, rfl, _, List.mem_append_right _ (List.mem_singleton_self _), rfl, rfl, rfl, rfl⟩
  · exact ⟨_, podExchange_measures ha hr hp hs, rfl, rfl⟩

end Sys2Proof.Machine
end

section
/-! What the engine of any command does with mapped bytes of HBM, outside the clusters and with nothing recorded: it reads them, and writes
what the command's own source ranges leave (O58). -/

namespace Sys2Proof.Machine

theorem ok_bind {ε α β : Type} (a : α) (f : α → Except ε β) : ((.ok a : Except ε α) >>= f) = f a := rfl

theorem note_of_mode {s : State} (h : s.recd.mode = 0) (agent issuer lane obj : Nat) (mo : Bool) (addr close : Option Nat)
    (msgs : List DWord) (more : List Nat) : s.note agent issuer lane obj mo addr close msgs more = s := by
  unfold State.note State.recording State.replaying
  simp [h]

theorem poke_devid (s : State) (a : Nat) (bs : List Byte) : (s.poke a bs).devid = s.devid := by
  unfold State.poke
  split
  · rfl
  · unfold State.dirtied
    dsimp only
    split <;> rfl

theorem watch_unwatched {e : Eng} (h : e.s.watches e.k.ctx = []) (va : DWord) (n : Nat) : e.watch va n = e := by
  unfold Eng.watch
  split
  · rfl
  · simp [h]

theorem writeN_nil (glob : Bool) (fuel : Nat) (e : Eng) (va : DWord) : Eng.writeN glob fuel e va [] = .ok e := by
  cases fuel <;> rfl

/-- Command `k` runs outside the clusters, in calm memory, and nothing is recorded or replayed. -/
structure FarQuiet (s : State) (k : Cmd) : Prop where
  calm : Rules.CalmMemory s k.ctx
  mode : s.recd.mode = 0
  far : 192 ≤ k.core

/-- An engine that makes accesses for command `k` of block `b`, begun in state `s`, and whose command declares the source ranges `l`:
nothing has failed, nothing is poisoned, and it has covered lines of HBM alone. -/
structure RunsIn (s : State) (k : Cmd) (b : Blk) (l : List (Home × Nat × Nat)) (e : Eng) : Prop where
  state : EngState s e.s
  devid : e.s.devid = s.devid
  cmd : e.k = k
  blk : e.b = b
  sound : e.err = false ∧ e.ecc = .clean ∧ e.bad = false ∧ e.undef = false
  srcs : e.srcs = l
  hits : e.hits = []
  cover : ∀ c ∈ e.cover, ∃ line, c.1 = (.mem, line) ∧ lineIsCap line = false ∧ c.2.2 = false

section
variable {s : State} {k : Cmd} {b : Blk} {l : List (Home × Nat × Nat)} {e : Eng}

theorem FarQuiet.unwatched (h : FarQuiet s k) : s.watches k.ctx = [] := by
  obtain ⟨-, -, -, hw, -⟩ := h.calm
  exact hw

namespace RunsIn

theorem sane (h : RunsIn s k b l e) : { e with bad := false } = e := by rw [← h.sound.2.2.1]

theorem mode (hk : FarQuiet s k) (h : RunsIn s k b l e) : e.s.recd.mode = 0 := by rw [h.state.mode, hk.mode]

theorem watch (hk : FarQuiet s k) (h : RunsIn s k b l e) (va : DWord) (n : Nat) : e.watch va n = e := by
  refine watch_unwatched ?_ va n
  rw [h.state.watches, h.cmd, hk.unwatched]

theorem place (h : RunsIn s k b l e) {va : DWord} {pa : Nat} {write glob : Bool} {lf : Option Leaf}
    (hc : s.laneCheck k.cur b k.mmu
      { kind := if write then .store else .load, ak := if write then .write else .read, bytes := 1,
        space := if glob then 1 else 0, tagged := false } va = .ok .mem pa lf) :
    ∃ v, e.place va write glob = .ok (v, .mem, pa, lf) := by
  unfold Eng.place
  simp only [h.state.laneCheck, h.cmd, h.blk, hc]
  exact ⟨_, rfl⟩

theorem lineHeld (hk : FarQuiet s k) (h : RunsIn s k b l e) (line : Nat) : e.s.lineHeld e.die line = false := by
  obtain ⟨-, -, -, -, -, -, hheld⟩ := hk.calm
  rw [h.state.lineHeld, hheld]

/-- A note only tells the engine that it has touched the line. -/
theorem note (hk : FarQuiet s k) (h : RunsIn s k b l e) (obj : Nat) (w : Bool) (a : Option Nat) :
    RunsIn s k b l (e.note obj w a) ∧ (e.note obj w a).s = e.s := by
  unfold Eng.note
  split
  · exact ⟨h, rfl⟩
  · rw [note_of_mode (h.mode hk)]
    exact ⟨⟨h.state, h.devid, h.cmd, h.blk, h.sound, h.srcs, h.hits, h.cover⟩, rfl⟩

/-- Outside the clusters a line that an engine reads is shared, and no more. -/
theorem cached (hk : FarQuiet s k) (h : RunsIn s k b l e) (lf : Option Leaf) (line : Nat) (u : State) :
    e.cached lf line u = u.shareLine line fun _ => false := by
  have hn : ¬ e.k.core < 192 := by rw [h.cmd]; exact Nat.not_lt.2 hk.far
  unfold Eng.cached
  simp only [hn, decide_false, Bool.false_and, Bool.false_eq_true, if_false]
  split <;> rfl

theorem readAt (hk : FarQuiet s k) (h : RunsIn s k b l e) {pa : Nat} (ha : isCapacity pa = false) {lf : Option Leaf}
    (hl : ∀ x, lf = some x → x.pub = false ∧ x.tagm = 0) (v : DWord) (n : Nat) :
    ∃ e1, e.readAt v n .mem pa lf = .ok (e1, readBytes e.s.mem.bytes pa n) ∧ RunsIn s k b l e1 ∧ e1.s.mem.bytes = e.s.mem.bytes := by
  obtain ⟨hparts, hpois, htab, -⟩ := hk.calm
  obtain ⟨herr, hecc, hbad, hund⟩ := h.sound
  have hcap := lineIsCap_of_isCapacity ha
  obtain ⟨hn, hs⟩ := h.note hk (objLine (lineOf pa)) false (some (lineOf pa * 128))
  unfold Eng.readAt
  simp only [herr, h.lineHeld hk, Bool.false_and, Bool.false_eq_true, if_false, hecc, homeEcc_clean hcap, capTouch_hbm hcap,
    tagBad_untagged hl, h.cached hk]
  generalize e.note (objLine (lineOf pa)) false (some (lineOf pa * 128)) = e1 at hn hs
  obtain ⟨s1, hs1⟩ : ∃ s1, (if (e.noted.any fun x => x.1 == objLine (lineOf pa)) = true then e1.s
      else e1.s.shareLine (lineOf pa) fun _ => false) = s1 := ⟨_, rfl⟩
  have hstate : EngState e1.s s1 ∧ s1.devid = e1.s.devid ∧ s1.mem.bytes = e1.s.mem.bytes := by
    rw [← hs1]
    split
    · exact ⟨.refl _, rfl, rfl⟩
    · exact ⟨shareLine_engState .., rfl, rfl⟩
  obtain ⟨hs', hdev, hbytes⟩ := hstate
  obtain ⟨hp, ht, hpa⟩ := (hn.state.trans hs').poison
  have hb : s1.mem.bytes = e.s.mem.bytes := by rw [hbytes, hs]
  rw [hs1, gather_nil (hpa.trans hparts), poisoned_nil (hp.trans hpois) (ht.trans htab), State.peek, hb]
  refine ⟨_, rfl, ⟨hn.state.trans hs', hdev.trans hn.devid, hn.cmd, hn.blk, ⟨hn.sound.1, rfl, ?_, hn.sound.2.2.2⟩, hn.srcs, hn.hits,
    hn.cover⟩, hb⟩
  simp [hn.sound.2.2.1]

theorem readN (hk : FarQuiet s k) {glob : Bool} (fuel : Nat) {va : DWord} {n pa : Nat} (hn : n ≤ fuel)
    (h : RunsIn s k b l e) (hm : MappedAt s k b false glob va n pa) :
    ∃ e1, Eng.readN glob fuel e va n = .ok (e1, readBytes e.s.mem.bytes pa n) ∧ RunsIn s k b l e1 ∧
      e1.s.mem.bytes = e.s.mem.bytes := by
  induction fuel generalizing e va n pa with
  | zero =>
    obtain rfl : n = 0 := by omega
    exact ⟨e, rfl, h, rfl⟩
  | succ fuel ih =>
    cases n with
    | zero => exact ⟨e, rfl, h, rfl⟩
    | succ n =>
      obtain ⟨ha, lf, hlf, hl⟩ := hm.head
      obtain ⟨v, hv⟩ := h.place (write := false) hlf
      generalize hj : min (n + 1) (32 - pa % 32) = j
      have hj1 : 1 ≤ j ∧ j ≤ n + 1 := by omega
      obtain ⟨e1, he1, h1, hb1⟩ := h.readAt hk ha hl v j
      obtain ⟨e2, he2, h2, hb2⟩ := ih (by omega) h1 (hm.drop hj1.2)
      refine ⟨e2, ?_, h2, hb2.trans hb1⟩
      unfold Eng.readN
      simp only [hv, h.watch hk, hj, he1, he2]
      rw [hb1, ← readBytes_add, Nat.add_sub_cancel' hj1.2]

theorem covers (h : RunsIn s k b l e) {a : Nat} (ha : isCapacity a = false) (n : Nat) : RunsIn s k b l (e.covers .mem a n) := by
  have hcap := lineIsCap_of_isCapacity ha
  have hbad := h.sound.2.2.1
  unfold Eng.covers
  dsimp only
  split
  · refine ⟨h.state, h.devid, h.cmd, h.blk, h.sound, h.srcs, h.hits, fun c hc => ?_⟩
    obtain ⟨x, hx, rfl⟩ := List.mem_map.1 hc
    obtain ⟨line, hl, hnc, hf⟩ := h.cover x hx
    split
    · exact ⟨line, hl, hnc, by simp [hf, hbad]⟩
    · exact ⟨line, hl, hnc, hf⟩
  · refine ⟨h.state, h.devid, h.cmd, h.blk, h.sound, h.srcs, h.hits, fun c hc => ?_⟩
    obtain hc | hc := List.mem_append.1 hc
    · exact h.cover c hc
    · rw [List.mem_singleton.1 hc]
      exact ⟨a / 128, rfl, hcap, hbad⟩

theorem writeAt (hk : FarQuiet s k) (h : RunsIn s k b l e) {pa : Nat} (ha : isCapacity pa = false) {lf : Option Leaf}
    (hl : ∀ x, lf = some x → x.pub = false ∧ x.tagm = 0) (v : DWord) (bs : List Byte) :
    ∃ e1, e.writeAt v bs .mem pa lf = .ok e1 ∧ RunsIn s k b l e1 ∧
      e1.s.mem.bytes = writeBytes e.s.mem.bytes pa (e.freed .mem pa bs) := by
  obtain ⟨hparts, -⟩ := hk.calm
  obtain ⟨herr, hecc, hbad, hund⟩ := h.sound
  have hcap := lineIsCap_of_isCapacity ha
  obtain ⟨hn, hs⟩ := h.note hk (objLine (lineOf pa)) true (some (lineOf pa * 128))
  have hpub : (lf.elim false fun x => x.pub) = false := by
    cases lf with
    | none => rfl
    | some x => exact (hl x rfl).1
  unfold Eng.writeAt
  simp only [hund, herr, h.lineHeld hk, hpub, Bool.false_and, Bool.or_false, Bool.false_eq_true, if_false, capTouch_hbm hcap,
    tagBad_untagged hl]
  generalize e.freed .mem pa bs = cs
  generalize e.note (objLine (lineOf pa)) true (some (lineOf pa * 128)) = e1 at hn hs
  rw [gather_nil (hn.state.poison.2.2.trans hparts)]
  have hput : EngState e1.s ((e1.s.poke pa cs).dropHolders (lineOf pa) fun _ => false) :=
    (poke_engState ..).trans (dropHolders_engState ..)
  have hdev : (e1.s.poke pa cs).devid = e1.s.devid := poke_devid ..
  refine ⟨_, rfl, covers (e := { e1 with s := (e1.s.poke pa cs).dropHolders (lineOf pa) fun _ => false })
    ⟨hn.state.trans hput, hdev.trans hn.devid, hn.cmd, hn.blk, hn.sound, hn.srcs, hn.hits, hn.cover⟩ ha _, ?_⟩
  rw [covers_s]
  exact (poke_bytes ..).trans (by rw [hs])

/-- A write of a few bytes that lie within 32. -/
theorem dst (hk : FarQuiet s k) (h : RunsIn s k b l e) {va base : DWord} {x : Byte} {bs : List Byte} {pa : Nat}
    (hm : MappedAt s k b true (!isWindow base) va (bs.length + 1) pa) (hn : bs.length + 1 ≤ 32 - va.toNat % 32) :
    ∃ e1, e.dst va (x :: bs) base = .ok e1 ∧ RunsIn s k b l e1 ∧
      e1.s.mem.bytes = writeBytes e.s.mem.bytes pa (e.freed .mem pa (x :: bs)) := by
  obtain ⟨ha, lf, hlf, hl⟩ := hm.head
  obtain ⟨v, hv⟩ := h.place (write := true) hlf
  obtain ⟨e1, he1, h1, hb⟩ := h.writeAt hk ha hl v (x :: bs)
  refine ⟨e1, ?_, h1, hb⟩
  have htake : (x :: bs).take (bs.length + 1) = x :: bs := List.take_of_length_le (by simp)
  have hdrop : (x :: bs).drop (bs.length + 1) = [] := List.drop_of_length_le (by simp)
  unfold Eng.dst Eng.writeN
  simp only [List.length_cons, Nat.min_eq_left hn, hv, h.watch hk, htake, he1, hdrop]
  exact writeN_nil ..

/-- The end of a segment: what was covered settles without a change, and no watchpoint was met. -/
theorem settle (hk : FarQuiet s k) (h : RunsIn s k b l e) : e.settle = { e with cover := [] } := by
  obtain ⟨-, hpois, htab, -⟩ := hk.calm
  have hcov := h.cover
  obtain ⟨hp, ht, -⟩ := h.state.poison
  unfold Eng.settle
  generalize e.cover = cs at hcov
  induction cs with
  | nil => rfl
  | cons c cs ih =>
    obtain ⟨line, h1, h2, h3⟩ := hcov c List.mem_cons_self
    rw [List.foldl_cons]
    simp only [h1, h2, h3, Bool.false_and, Bool.false_eq_true, if_false, poisonWrite_nil (hp.trans hpois) (ht.trans htab)]
    exact ih fun d hd => hcov d (List.mem_cons_of_mem _ hd)

end RunsIn

end

end Sys2Proof.Machine
end

section
/-! An all-reduce of one element over one rank, run by the engine of any command (O58). -/

namespace Sys2Proof.Machine

/-- The all-reduce `d` of one element of four bytes over this device alone, its descriptor at `desc` and everything it names in HBM:
its source at home byte `ps`, its destination at `pd`, within 32 bytes. -/
structure LoneReduce (s : State) (k : Cmd) (b : Blk) (desc : DWord) (d : CollDesc) (ps pd : Nat) : Prop where
  aligned : desc.toNat % 8 = 0
  awake : s.kindling = false
  told : ∃ pt, MappedAt s k b false (!isWindow desc) desc 64 pt ∧ collDesc (readBytes s.mem.bytes pt 64) = d
  shape : d.ok = true ∧ d.win = false ∧ d.kind = 1 ∧ d.count = 1 ∧ d.nranks = 1 ∧ d.rank = 0 ∧ d.size = 4
  self : ∃ pl, MappedAt s k b false (!isWindow d.peers) d.peers 2 pl ∧ BitVec.ofNat 16 (leNat (readBytes s.mem.bytes pl 2)) = s.devid
  src : MappedAt s k b false (!isWindow d.src) d.src 4 ps
  dst : MappedAt s k b true (!isWindow d.dst) d.dst 4 pd ∧ 4 ≤ 32 - d.dst.toNat % 32

section
variable {s : State} {k : Cmd} {b : Blk} {l : List (Home × Nat × Nat)} {e : Eng} {desc : DWord} {d : CollDesc} {ps pd : Nat}

namespace LoneReduce

theorem others (hd : LoneReduce s k b desc d ps pd) : d.others = [] := by
  obtain ⟨-, -, -, -, hn, hr, -⟩ := hd.shape
  unfold CollDesc.others
  rw [hn, hr]
  rfl

/-- It sends nothing. -/
theorem msgs (hd : LoneReduce s k b desc d ps pd) (lo hi : Nat) : d.msgs lo hi = [] := by
  unfold CollDesc.msgs
  rw [hd.others]
  rfl

theorem total (hd : LoneReduce s k b desc d ps pd) : d.total = 1 := by
  obtain ⟨-, -, hk, hc, -⟩ := hd.shape
  simp [CollDesc.total, hk, hc]

end LoneReduce

namespace RunsIn

theorem rankDev (hk : FarQuiet s k) (hd : LoneReduce s k b desc d ps pd) (h : RunsIn s k b l e) (hb : e.s.mem.bytes = s.mem.bytes) :
    ∃ e1, e.rankDev d 0 = .ok (e1, s.devid) ∧ RunsIn s k b l e1 ∧ e1.s.mem.bytes = s.mem.bytes := by
  obtain ⟨pl, hm, hdev⟩ := hd.self
  obtain ⟨e1, he1, h1, hb1⟩ := h.readN hk 2 le_rfl hm
  refine ⟨e1, ?_, h1, hb1.trans hb⟩
  have ha : d.peers + BitVec.ofNat 64 (2 * 0) = d.peers := by simp
  unfold Eng.rankDev
  simp only [ha, he1, hb]
  exact congrArg (fun v => Except.ok (e1, v)) hdev

/-- The descriptor and the peer list read. -/
theorem collHead (hk : FarQuiet s k) (hd : LoneReduce s k b desc d ps pd) (h : RunsIn s k b l e) (hb : e.s.mem.bytes = s.mem.bytes) :
    ∃ e1 bytes, e.collHead desc = .ok (e1, bytes, none) ∧ collDesc bytes = d ∧ RunsIn s k b l e1 ∧ e1.s.mem.bytes = s.mem.bytes := by
  obtain ⟨hok, hwin, -, -, -, hrank, -⟩ := hd.shape
  obtain ⟨pt, hm, hdesc⟩ := hd.told
  obtain ⟨e1, he1, h1, hb1⟩ := h.readN hk 64 le_rfl hm
  rw [hb] at he1 hb1
  obtain ⟨e2, he2, h2, hb2⟩ := h1.rankDev hk hd hb1
  have hawake : e.s.kindling = false := by rw [h.state.same]; exact hd.awake
  have hdev : e2.s.devid = s.devid := h2.devid
  refine ⟨e2, _, ?_, hdesc, h2, hb2⟩
  unfold Eng.collHead
  simp only [hd.aligned, hawake, he1, ok_bind, hdesc, hok, hwin, hrank, he2, hdev, ne_eq, not_true_eq_false, Bool.false_eq_true, if_false,
    Bool.not_true, Bool.false_and, Bool.or_false]
  rfl

/-- Where nothing is recorded a quiet reading is a reading. -/
theorem quiet {α : Type} {f : Eng → Except EStop (Eng × α)} {x : α} (hk : FarQuiet s k) (h : RunsIn s k b l e)
    (hf : ∃ e1, f e = .ok (e1, x) ∧ RunsIn s k b l e1 ∧ e1.s.mem.bytes = s.mem.bytes) :
    ∃ e1, e.quiet f = .ok (e1, x) ∧ RunsIn s k b l e1 ∧ e1.s.mem.bytes = s.mem.bytes := by
  have hm : ∀ t : State, t.recd.mode = 0 → { t with recd := { t.recd with mode := 0 } } = t := fun t ht => by rw [← ht]
  obtain ⟨e1, he1, h1, hb1⟩ := hf
  refine ⟨{ e1 with noted := e.noted }, ?_, ⟨h1.state, h1.devid, h1.cmd, h1.blk, h1.sound, h1.srcs, h1.hits, h1.cover⟩, hb1⟩
  unfold Eng.quiet
  dsimp only
  rw [hm _ (h.mode hk), h.mode hk, he1]
  exact congrArg (fun t => Except.ok ({ e1 with s := t, noted := e.noted }, x)) (hm _ (h1.mode hk))

/-- The one element: what the source holds. -/
theorem collValue (hk : FarQuiet s k) (hd : LoneReduce s k b desc d ps pd) (h : RunsIn s k b l e) (hb : e.s.mem.bytes = s.mem.bytes) :
    ∃ e1 v, e.collValue d false 0 = .ok (e1, v) ∧ RunsIn s k b l e1 ∧ e1.s.mem.bytes = s.mem.bytes := by
  obtain ⟨-, -, hkind, -, hn, hrank, hsize⟩ := hd.shape
  obtain ⟨e1, he1, h1, hb1⟩ := h.readN hk 4 le_rfl hd.src
  refine ⟨e1, d.fold [leNat (readBytes e.s.mem.bytes ps 4)], ?_, h1, hb1.trans hb⟩
  unfold Eng.collValue
  simp [hkind, State.collOrder, hn, Eng.collElem, hrank, hsize, he1, List.range_succ, Except.map]

/-- A byte of the destination that a source range of the command covers becomes an undefined value (R408). -/
theorem readByte_freed (h : RunsIn s k b l e) (m : Memory) (x : Byte) (bs : List Byte)
    (hl : (l.any fun r => r.1 == .mem && decide (r.2.1 ≤ pd) && decide (pd < r.2.1 + r.2.2)) = true) :
    readByte (writeBytes m pd (e.freed .mem pd (x :: bs))) pd = Config.freeByte s.fresh pd := by
  have hne : e.srcs.isEmpty = false := by
    rw [h.srcs]
    cases l with
    | nil => simp at hl
    | cons => rfl
  have hfresh : e.s.fresh = s.fresh := by rw [h.state.same]
  rw [← h.srcs] at hl
  unfold Eng.freed
  rw [hne, readByte_writeBytes]
  simp [hl, hfresh]

/-- The destination written: its first byte does not come from the source where the command's own source range covers it. -/
theorem collect (hk : FarQuiet s k) (hd : LoneReduce s k b desc d ps pd) (h : RunsIn s k b l e) (hb : e.s.mem.bytes = s.mem.bytes)
    (hl : (l.any fun r => r.1 == .mem && decide (r.2.1 ≤ pd) && decide (pd < r.2.1 + r.2.2)) = true) :
    ∃ e1, e.collect d false 0 1 = .ok e1 ∧ RunsIn s k b l e1 ∧ readByte e1.s.mem.bytes pd = Config.freeByte s.fresh pd := by
  obtain ⟨-, -, -, -, -, -, hsize⟩ := hd.shape
  obtain ⟨hdst, hnear⟩ := hd.dst
  obtain ⟨e1, v, he1, h1, hb1⟩ := h.collValue hk hd hb
  obtain ⟨e2, he2, h2, hb2⟩ := h1.dst hk (x := BitVec.ofNat 8 v) (bs := leBytes 3 (v / 256)) hdst hnear
  refine ⟨e2, ?_, h2, by rw [hb2, h1.readByte_freed _ _ _ hl]⟩
  have hg : ∀ f : Nat → Nat, keyGroups f ((List.range (1 - 0)).map (0 + ·)) = [[0]] := fun f => rfl
  have hz : d.dst + BitVec.ofNat 64 (0 * 4) = d.dst := by simp
  unfold Eng.collect
  simp only [hg, List.foldlM_cons, List.foldlM_nil, h.sane, he1, ok_bind, pure_bind, List.nil_append, hsize, hz, bind_pure]
  exact he2

/-- The last segment's operations. -/
theorem collFinish (hk : FarQuiet s k) (hd : LoneReduce s k b desc d ps pd) (h : RunsIn s k b l e) (hb : e.s.mem.bytes = s.mem.bytes)
    (hl : (l.any fun r => r.1 == .mem && decide (r.2.1 ≤ pd) && decide (pd < r.2.1 + r.2.2)) = true) :
    ∃ e1, e.collFinish desc 0 1 = .ok (e1, d) ∧ RunsIn s k b l e1 ∧ readByte e1.s.mem.bytes pd = Config.freeByte s.fresh pd := by
  obtain ⟨e1, bytes, he1, hbytes, h1, hb1⟩ := h.collHead hk hd hb
  obtain ⟨e2, he2, h2, hb2⟩ := h1.collect hk hd hb1 hl
  refine ⟨e2, ?_, h2, hb2⟩
  unfold Eng.collFinish
  simp only [he1, ok_bind, hbytes, hd.msgs, List.foldlM_nil, pure_bind, h1.sane, Option.elim_none, he2]
  rfl

/-- A step of the collective's one segment is its last: it sends nothing and waits for nothing. -/
theorem collSeg {c : Coll} (hk : FarQuiet s k) (hd : LoneReduce s k b c.desc d ps pd) (h : RunsIn s k b l e) (hb : e.s.mem.bytes = s.mem.bytes)
    (hl : (l.any fun r => r.1 == .mem && decide (r.2.1 ≤ pd) && decide (pd < r.2.1 + r.2.2)) = true) (hc : c.done = 0) :
    ∃ e1 c1, e.collSeg c true = .ok (e1, c1, some d) ∧ RunsIn s k b l e1 ∧ readByte e1.s.mem.bytes pd = Config.freeByte s.fresh pd := by
  obtain ⟨-, -, -, -, -, -, hsize⟩ := hd.shape
  obtain ⟨e1, bytes, he1, hbytes, h1, hb1⟩ := h.collHead hk hd hb
  obtain ⟨e1, he1, h1, hb1⟩ := h.quiet hk (f := fun e => e.collHead c.desc) (x := (bytes, none)) ⟨e1, he1, h1, hb1⟩
  obtain ⟨e2, he2, h2, hb2⟩ := h1.quiet hk (f := fun e => e.collDiffers d) (x := false)
    ⟨e1, by rw [Eng.collDiffers, hd.others]; rfl, h1, hb1⟩
  obtain ⟨e3, he3, h3, hb3⟩ := h2.quiet hk (f := fun e => e.collLacks d 0 1) (x := false)
    ⟨e2, by rw [Eng.collLacks, hd.others]; rfl, h2, hb2⟩
  obtain ⟨e4, he4, h4, hb4⟩ := h3.collFinish hk hd hb3 hl
  have hper : d.perSeg = 16384 := by rw [CollDesc.perSeg, hsize]
  have hmin : min 1 16384 = 1 := rfl
  suffices hseg : ∃ c1, e.collSeg c true = .ok (e4, c1, some d) by
    obtain ⟨c1, hc1⟩ := hseg
    exact ⟨e4, c1, hc1, h4, hb4⟩
  unfold Eng.collSeg
  simp only [he1, ok_bind, hbytes, hd.total, hper, hc, Nat.zero_add, hmin, he2, h2.sane, hd.msgs, List.drop_nil, Eng.collSend, he3, he4]
  exact ⟨_, rfl⟩

end RunsIn

end

end Sys2Proof.Machine
end

section
/-! The end of a collective whose command has nothing to tell of (O58): memory stays as its last segment left it. -/

namespace Sys2Proof.Machine

/-- A command of the access stream that fills no tile and has no trap to raise. -/
def Cmd.Silent (q : Cmd) : Prop := 32 ≤ q.w ∧ q.targets = [] ∧ q.fail = none ∧ q.tagSite = none

/-- The commands of a state have nothing to tell of, and no cluster has banks. -/
def Silent (s : State) : Prop := s.clusters = [] ∧ ∀ q ∈ s.cmds, q.Silent

section
variable {s : State}

theorem imgStatus_stream {w : Nat} (h : 32 ≤ w) (s : State) (core bctx : Nat) : s.imgStatus core bctx w = s := by
  unfold State.imgStatus
  split
  · rfl
  · split
    · rfl
    · simp [h]

theorem tileDrain_keeps (s : State) (core bctx j : Nat) :
    (s.tileDrain core bctx j).mem = s.mem ∧ (s.tileDrain core bctx j).clusters = s.clusters := by
  unfold State.tileDrain
  dsimp only
  split
  · split <;> exact ⟨rfl, rfl⟩
  · exact ⟨rfl, rfl⟩

theorem dropReader_keeps (s : State) (core bctx id : Nat) :
    (s.dropReader core bctx id).mem = s.mem ∧ (s.dropReader core bctx id).clusters = s.clusters := by
  unfold State.dropReader
  dsimp only
  generalize (((s.coreAt core).tiles.filter fun p => p.2.readers.contains id).map fun p => p.1) = js
  induction js generalizing s with
  | nil => exact ⟨rfl, rfl⟩
  | cons j js ih =>
    rw [List.foldl_cons]
    obtain ⟨hm, hc⟩ := ih ((s.modTile core j fun t => { t with readers := t.readers.filter (· != id) }).tileDrain core bctx j)
    obtain ⟨hm', hc'⟩ := tileDrain_keeps (s.modTile core j fun t => { t with readers := t.readers.filter (· != id) }) core bctx j
    exact ⟨hm.trans hm', hc.trans hc'⟩

theorem Silent.modCmd (h : Silent s) (id : Nat) {f : Cmd → Cmd} (hf : ∀ q ∈ s.cmds, (f q).Silent) : Silent (s.modCmd id f) := by
  obtain ⟨hc, hq⟩ := h
  refine ⟨hc, fun q hm => ?_⟩
  obtain ⟨x, hx, rfl⟩ := List.mem_map.1 hm
  split
  · exact hf x hx
  · exact hq x hx

theorem endCmd_mem (h : Silent s) (id : Nat) : (s.endCmd id).mem = s.mem := by
  obtain ⟨hc, hq⟩ := h
  unfold State.endCmd
  split
  · rfl
  · rename_i k hk
    obtain ⟨hw, ht, hf, hg⟩ := hq k (List.mem_of_find?_eq_some hk)
    extract_lets alive s1 s2 s3 s4 s5
    have h1 : s1.mem = s.mem ∧ s1.clusters = s.clusters := by
      dsimp only [s1]
      rw [imgStatus_stream hw]
      split
      · exact ⟨rfl, rfl⟩
      · exact ⟨by simp, by simp⟩
    have h2 : s2 = s1 := by
      dsimp only [s2]
      rw [ht]
      rfl
    have h3 : s3.mem = s2.mem ∧ s3.clusters = s2.clusters := dropReader_keeps ..
    have h4 : s4 = s3 := by
      dsimp only [s4]
      rw [hf]
    have h5 : s5 = s4 := by
      dsimp only [s5]
      rw [hg]
    have hb : ∀ t : State, t.clusters = [] → t.leaveBanks id = t := fun t ht => by
      unfold State.leaveBanks
      rw [ht]
      rfl
    obtain ⟨hm1, hc1⟩ := h1
    obtain ⟨hm3, hc3⟩ := h3
    rw [(sweep_mem_cal _).1, raiseCmds_same, hb]
    · change s5.mem = s.mem
      rw [h5, h4, hm3, h2, hm1]
    · change s5.clusters = []
      rw [h5, h4, hc3, h2, hc1, hc]

theorem endColl_mem (h : Silent s) {c : Coll} {id : Nat} (hc : c.cmd = some id) (va : DWord) : (s.endColl c none va).mem = s.mem := by
  unfold State.endColl
  extract_lets s0 s1
  have h0 : RecdOnly s s0 := by
    dsimp only [s0]
    split
    · exact .refl s
    · exact closeChunk_recdOnly ..
  have h1 : Silent s1 := by
    dsimp only [s1]
    rw [h0.same]
    exact h
  have hq : ∀ q ∈ s1.cmds, ({ q with fail := none, failAt := va } : Cmd).Silent := fun q hm => by
    obtain ⟨hw, ht, -, hg⟩ := h1.2 q hm
    exact ⟨hw, ht, rfl, hg⟩
  simp only [hc]
  refine (endCmd_mem (h1.modCmd id hq) id).trans ?_
  change s0.mem = s.mem
  rw [h0.same]

end

section
variable {s : State} {k : Cmd} {b : Blk} {l : List (Home × Nat × Nat)} {e : Eng} {c : Coll}

/-- What an engine leaves of its command: with no watchpoint met, the command alone. -/
theorem RunsIn.collState (hk : FarQuiet s k) (h : RunsIn s k b l e) (hc : c.cmd.isSome = true) :
    ∃ q, e.collState c = e.s.modCmd k.id (fun _ => q) ∧ (k.Silent → q.Silent) := by
  obtain ⟨id, hid⟩ := Option.isSome_iff_exists.1 hc
  refine ⟨{ k with watched := k.watched ++ e.hits.map fun x => x.1 }, ?_, fun h => h⟩
  unfold Eng.collState
  simp only [h.settle hk, hid]
  unfold Eng.commit
  simp only [h.hits, h.cmd, List.map_nil, List.foldl_nil, List.append_nil]

/-- COLLECTIVE_COMPLETE of a one-element all-reduce: the destination's first byte, where the command's own source range covers it. -/
theorem collectiveComplete_lone {d : CollDesc} {ps pd : Nat} (hf : (s.colls.find? fun c => c.id == s.arg.a) = some c)
    (he : s.collEng c = some e) (hheld : c.held = true) (hop : s.mayOp (collAgent c.engine) 0 0 = true) (hcmd : c.cmd.isSome = true)
    (hdone : c.done = 0) (hsil : Silent s) (hksil : k.Silent) (hk : FarQuiet s k) (h : RunsIn s k b l e) (hb : e.s.mem.bytes = s.mem.bytes)
    (hd : LoneReduce s k b c.desc d ps pd)
    (hl : (l.any fun r => r.1 == .mem && decide (r.2.1 ≤ pd) && decide (pd < r.2.1 + r.2.2)) = true) :
    ∃ u, exec .collectiveComplete s = .next u ∧ readByte u.mem.bytes pd = Config.freeByte s.fresh pd := by
  obtain ⟨id, hid⟩ := Option.isSome_iff_exists.1 hcmd
  obtain ⟨e1, c1, he1, h1, hfree⟩ := h.collSeg hk hd hb hl hdone
  obtain ⟨q, hst, hq⟩ := h1.collState (c := c) hk hcmd
  have hrep : s.replaying = false := by simp [State.replaying, hk.mode]
  have hmid : Silent (((e1.collState c).segMade e.k).dropParts d) := by
    have h1s : Silent e1.s := by
      rw [h1.state.same]
      exact hsil
    have hm : Silent (e1.collState c) := by
      rw [hst]
      exact h1s.modCmd k.id fun _ _ => hq hksil
    obtain ⟨hm1, hm2⟩ := hm
    exact ⟨by simpa [State.segMade, State.dropParts] using hm1, by simpa [State.segMade, State.dropParts] using hm2⟩
  refine ⟨(((e1.collState c).segMade e.k).dropParts d).endColl c none, ?_, ?_⟩
  · show execCollectiveComplete s = _
    unfold execCollectiveComplete State.stepColl
    simp only [hf, he, hheld, hop, hrep, he1, Bool.not_true, Bool.or_false, Bool.false_eq_true, if_false, if_true]
  · rw [endColl_mem hmid hid]
    have hmem : (((e1.collState c).segMade e.k).dropParts d).mem = e1.s.mem := by
      rw [hst]
      simp [State.segMade, State.dropParts]
    rw [hmem, hfree]

end

end Sys2Proof.Machine
end

section
/-! The counterexample to O58: the command of the collective is a CPY whose source range is the collective's destination. -/

namespace Sys2Proof.Machine

theorem mapped_of_leaf {s : State} {k : Cmd} {b : Blk} {write : Bool} {va : DWord} {n pa : Nat} (lf : Leaf)
    (hlf : lf.pub = false ∧ lf.tagm = 0)
    (h : ∀ i, i < n → isCapacity (pa + i) = false ∧ s.laneCheck k.cur b k.mmu
      { kind := if write then .store else .load, ak := if write then .write else .read, bytes := 1,
        space := if isWindow va then 0 else 1, tagged := false } (va + BitVec.ofNat 64 i) = .ok .mem (pa + i) (some lf)) :
    Rules.Mapped s k b write va n pa := fun i hi =>
  ⟨(h i hi).1, some lf, (h i hi).2, fun _ hx => Option.some.inj hx ▸ hlf⟩

/-- A line is held by nothing where no slot runs, no island is gated and the cache's mode does not change. -/
theorem lineHeld_idle {s : State} (h : s.cal.slots = []) (hp : s.dev.islandPoint = []) (hb : s.mem.cacheBusy = false) (die line : Nat) :
    s.lineHeld die line = false := by
  have hs : ∀ f, s.slotNow f = false := fun f => by simp [State.slotNow, h]
  have hi : ∀ k, s.islandDown k = false := fun k => by
    simp only [State.islandDown, State.islandHeld, State.gated, hs, hp]
    rfl
  have hl : ∀ k, s.linkDown k = false := fun k => by simp [State.linkDown, State.linkHeld, hs, hi]
  simp [State.lineHeld, State.stackDown, State.stackHeld, State.routeHeld, hs, hi, hl, hb]

namespace CopyReduce

/-- What the source holds: not the undefined value of the destination's first byte. -/
def value : Byte := Config.freeByte 0 0x101000 + 1

/-- The descriptor, of an all-reduce of one word over one rank: from 0x400040 to 0x401000, its peer list at 0x400080. -/
def descBytes : List Byte := ([1, 0x400040, 0x401000, 1, 1 * 2 ^ 16, 0x400080, 0, 0].map fun v => leBytes 8 v).flatten

/-- What it says. -/
def desc : CollDesc :=
  { kind := 1, rop := 0, ty := 0, win := false, window := 0, zero := true, group := 0, src := 0x400040, dst := 0x401000, count := 1,
    rank := 0, nranks := 1, root := 0, peers := 0x400080, seq := 0 }

/-- Page `n` from 0x400000 on, at home address 0x100000 on. -/
def leaf (n : Nat) : Leaf :=
  { pa := 0x100000 + 4096 * n, r := true, w := true, x := false, pub := false, tagm := 0, comm := 0, priv := false,
    host := false, uc := false, peer := none }

/-- A CPY of four bytes from 0x401000, in flight. -/
def cmd : Cmd :=
  { id := 3, core := 255, bctx := 0, w := 33, adm := 7, ctx := 0
    op := .cpy { sd := 10, sa := 8, sb := 9, ea := false, eb := false, lit := 0 }
      { tok := 15, tl := 0, tlv := false, sv := 0, dt := 127, z := 0 } { st := 127, reuse := 0, rest := 0 }
    sd := 0, sa := 0x401000, sb := 4, sv := 0, priv := false, tok := none,
    tl := none, dt := none, st := none, pc := 0x400004, lseq := 1, started := true, inFlight := true, done := 0, pos := 0,
    targets := [], poisonF := false, tagF := false, tagSite := none, drops := 0, fail := none, failAt := 0, finished := false, fault := none,
    engine := 0, watched := [], upto := 0, opened := false }

/-- Its block. -/
def blk : Blk := Blk.start 7 placeInfo 0 0 [] [] 0 (some 0)

/-- The collective that names that command. -/
def coll : Coll := { Coll.start 4 0 0 0x400000 (some 3) none 0 with held := true }

/-- The machine. -/
def state : State :=
  { State.reset with
    arg := { a := 4 }
    xl := { State.reset.xl with tlb := [0, 1].map fun n => { tlb := 512, ctx := 0, page := 0x400 + n, ats := none, leaf := leaf n } }
    mem := { State.reset.mem with bytes :=
      { cells := ((List.range 64).map fun i => (0x100000 + i, descBytes.getD i 0)) ++ [(0x100040, value)], lost := none } }
    blks := [(blkKey 255 0, blk)], cmds := [cmd], colls := [coll] }

theorem tells : collDesc (readBytes state.mem.bytes 0x100000 64) = desc := by
  rw [show readBytes state.mem.bytes 0x100000 64 = descBytes by decide +kernel]
  rfl

theorem declares : (state.engFor cmd blk).srcs = [(.mem, 0x101000, 4)] := by decide +kernel

theorem mapped_desc : Rules.Mapped state cmd blk false 0x400000 64 0x100000 :=
  mapped_of_leaf (leaf 0) ⟨rfl, rfl⟩ (by decide +kernel)

theorem mapped_src : Rules.Mapped state cmd blk false 0x400040 4 0x100040 :=
  mapped_of_leaf (leaf 0) ⟨rfl, rfl⟩ (by decide +kernel)

theorem mapped_dst : Rules.Mapped state cmd blk true 0x401000 4 0x101000 :=
  mapped_of_leaf (leaf 1) ⟨rfl, rfl⟩ (by decide +kernel)

theorem mapped_peers : Rules.Mapped state cmd blk false 0x400080 2 0x100080 :=
  mapped_of_leaf (leaf 0) ⟨rfl, rfl⟩ (by decide +kernel)

theorem calm : Rules.CalmMemory state cmd.ctx := by
  refine ⟨?_, ?_, ?_, ?_, ?_, ?_, lineHeld_idle ?_ ?_ ?_⟩ <;> decide +kernel

theorem noneOver : NoneOver state := by
  change ∀ p ∈ state.blks, ∃ q ∈ p.2.thrs, q.2.exited = false
  decide +kernel

/-- Its engine begins with what COLLECTIVE_COMPLETE gives it. -/
def eng : Eng := { state.engFor cmd blk with agent := collAgent 0 }

theorem runsIn : RunsIn state cmd blk [(.mem, 0x101000, 4)] eng :=
  ⟨.refl _, rfl, rfl, rfl, ⟨rfl, rfl, rfl, rfl⟩, declares, rfl, fun _ h => absurd h List.not_mem_nil⟩

theorem farQuiet : FarQuiet state cmd := ⟨calm, rfl, by decide⟩

theorem lone : LoneReduce state cmd blk 0x400000 desc 0x100040 0x101000 where
  aligned := by decide
  awake := by decide +kernel
  told := ⟨0x100000, mappedAt_of_mapped (by decide) mapped_desc, tells⟩
  shape := by decide
  self := ⟨0x100080, mappedAt_of_mapped (by decide) mapped_peers, by decide +kernel⟩
  src := mappedAt_of_mapped (by decide) mapped_src
  dst := ⟨mappedAt_of_mapped (by decide) mapped_dst, by decide⟩

/-- What the model makes of it: the first byte of the destination is undefined. -/
theorem completes : ∃ u, exec .collectiveComplete state = .next u ∧ readByte u.mem.bytes 0x101000 = Config.freeByte 0 0x101000 :=
  collectiveComplete_lone (c := coll) (e := eng) rfl rfl rfl (by decide +kernel) rfl rfl ⟨rfl, by simp [state, cmd, Cmd.Silent]⟩
    (by simp [cmd, Cmd.Silent]) farQuiet runsIn rfl lone (by decide)

/-- What the source holds, as bytes. -/
theorem source : readBytes state.mem.bytes 0x100040 4 = [value, 0, 0, 0] := by rfl

theorem value_ne : value ≠ Config.freeByte 0 0x101000 := by
  unfold value
  generalize Config.freeByte 0 0x101000 = x
  bv_omega

/-- What the statement asks for: the first byte is the source's. -/
theorem demands (h : Rules.CollectivesCombine) : ∃ u, exec .collectiveComplete state = .next u ∧ readByte u.mem.bytes 0x101000 = value := by
  have h := h state coll cmd blk 0x100000 0x100040 0x101000 0x100080 (fun _ _ => leNat (readBytes state.mem.bytes 0x100040 4))
    rfl rfl rfl rfl (by decide +kernel) (by decide +kernel) rfl rfl rfl rfl rfl noneOver (by decide +kernel) (by decide +kernel)
    (by decide +kernel) calm (by decide) mapped_desc
  simp only [tells] at h
  obtain ⟨u, hu, -, -, hval, -⟩ := h (by decide) rfl rfl mapped_src mapped_dst mapped_peers (by decide +kernel) (by decide) (by decide)
    (by decide) (by decide) (by decide) (fun q hq hne => absurd (Nat.lt_one_iff.1 hq) hne)
    (fun i hi => by obtain rfl : i = 0 := Nat.lt_one_iff.1 hi; rfl)
  refine ⟨u, hu, ?_⟩
  have hv := hval 0 0 (by decide) (by decide) (by decide)
  rw [source] at hv
  refine hv.trans ?_
  change (leBytes 4 (leNat [value, 0, 0, 0])).getD 0 0 = value
  simp [leNat, leBytes]

end CopyReduce

/-- Refutes O58: its all-reduce does not ask that command `k`, which the collective names, be a COLL.  For a CPY whose source range is the
collective's destination (`CopyReduce.state`) the engine knows the range as a copy's source, and what it writes there is undefined
(R408, `Eng.freed`), not the contributions combined. -/
theorem not_collectivesEnd : ¬ Obligations.CollectivesEnd := by
  unfold Obligations.CollectivesEnd
  rintro ⟨hcombine, -⟩
  obtain ⟨u, hu, hvalue⟩ := CopyReduce.demands hcombine
  obtain ⟨u', hu', hfree⟩ := CopyReduce.completes
  obtain rfl : u = u' := Host.Outcome.next.inj (hu.symm.trans hu')
  exact CopyReduce.value_ne (hvalue.symm.trans hfree)

end Sys2Proof.Machine
end

section
/-! Translated addresses: the bits that name them, and the addresses that are not canonical (O35, R78). -/

namespace Sys2Proof.Machine

/-! ### The bits of an address -/

theorem getLsbD_fld {m n : Nat} (v : BitVec m) (lo i : Nat) : (fld v lo n).getLsbD i = (decide (i < n) && v.getLsbD (lo + i)) := by
  rw [fld, BitVec.getLsbD_ofNat, Nat.testBit_div_two_pow, BitVec.testBit_toNat, Nat.add_comm]

theorem testBit_untag (va : DWord) (i : Nat) :
    (untag va).testBit i = if i < 56 then va.getLsbD i else decide (i = 56) && va.getLsbD 63 := by
  rw [untag, BitVec.testBit_toNat, BitVec.getLsbD_append, getLsbD_fld, getLsbD_fld]
  by_cases hlow : i < 56
  · simp [hlow]
  · by_cases htop : i = 56
    · simp [htop]
    · simp [hlow, htop, show ¬ i - 56 < 1 by omega]

theorem untag_lt (va : DWord) : untag va < 2 ^ 57 := BitVec.isLt _

/-- Addresses that agree but for bits 62 to 56 are translated alike. -/
theorem untag_congr {va va' : DWord} (h : ∀ i, i < 56 ∨ i = 63 → va.getLsbD i = va'.getLsbD i) : untag va = untag va' := by
  refine Nat.eq_of_testBit_eq fun i => ?_
  rw [testBit_untag, testBit_untag, h 63 (.inr rfl)]
  split
  · next hi => exact h i (.inl hi)
  · rfl

/-! ### What translation reads of an address -/

section
variable {va va' : DWord} (h : untag va = untag va')
include h

theorem pageOf_congr : pageOf va = pageOf va' := by rw [pageOf, pageOf, h]

theorem walkLevel_congr (s : State) (die struck level table : Nat) :
    s.walkLevel die struck va level table = s.walkLevel die struck va' level table := by
  unfold State.walkLevel
  rw [h, pageOf_congr h]

theorem walkFrom_congr (die struck level : Nat) (s : State) (table : Nat) :
    walkFrom die struck va level s table = walkFrom die struck va' level s table := by
  induction level generalizing s table with
  | zero => rfl
  | succ n ih => simp only [walkFrom, walkLevel_congr h, ih]

theorem walk_congr (s : State) (die struck c : Nat) : walk s die struck c va = walk s die struck c va' := walkFrom_congr h ..

theorem lookup_congr (s : State) (m : Mmu) : s.lookup m va = s.lookup m va' := by
  have hanswers (e : TlbEntry) : e.answers m va = e.answers m va' := by rw [TlbEntry.answers, pageOf_congr h]; rfl
  simp only [State.lookup, hanswers, pageOf_congr h]

end

/-! ### Canonical addresses -/

theorem canonicalVa_bits {va : DWord} (h : canonicalVa va = true) {i : Nat} (hi : i < 3) : va.getLsbD (60 + i) = va.getLsbD 63 := by
  have hbits : fld va 60 3 = if va.getLsbD 63 then (7 : BitVec 3) else 0 := by simpa [canonicalVa] using h
  have hbit := congrArg (BitVec.getLsbD · i) hbits
  simp only [getLsbD_fld, hi, decide_true, Bool.true_and] at hbit
  rw [hbit]
  cases va.getLsbD 63
  · simp
  · interval_cases i <;> rfl

theorem canonicalVa_eq_false {va : DWord}
    (h : va.getLsbD 60 ≠ va.getLsbD 63 ∨ va.getLsbD 61 ≠ va.getLsbD 63 ∨ va.getLsbD 62 ≠ va.getLsbD 63) : canonicalVa va = false := by
  refine Bool.eq_false_iff.2 fun hc => ?_
  obtain h | h | h := h
  · exact h (canonicalVa_bits hc (i := 0) (by decide))
  · exact h (canonicalVa_bits hc (i := 1) (by decide))
  · exact h (canonicalVa_bits hc (i := 2) (by decide))

/-- Window addresses have bits 63 to 60 set (R189). -/
theorem isWindow_bits {va : DWord} (h : isWindow va = true) {i : Nat} (hi : i < 4) : va.getLsbD (60 + i) = true := by
  have htop : fld va 60 4 = (0xF : BitVec 4) := by
    simp only [isWindow, Bool.and_eq_true, beq_iff_eq] at h
    exact h.1
  have hbit := congrArg (BitVec.getLsbD · i) htop
  simp only [getLsbD_fld, hi, decide_true, Bool.true_and] at hbit
  rw [hbit]
  interval_cases i <;> rfl

theorem isWindow_of_not_canonical {va : DWord} (h : canonicalVa va = false) : isWindow va = false := by
  refine Bool.eq_false_iff.2 fun hw => Bool.eq_false_iff.1 h ?_
  have hlow : fld va 60 3 = (7 : BitVec 3) := by
    refine BitVec.eq_of_getLsbD_eq fun i hi => ?_
    rw [getLsbD_fld, isWindow_bits hw (by omega), decide_eq_true hi]
    interval_cases i <;> rfl
  rw [canonicalVa, isWindow_bits hw (i := 3) (by decide), hlow]
  rfl

/-! ### Who refuses an address that is not canonical -/

section
variable {va : DWord} (h : canonicalVa va = false)
include h

theorem laneCheck_not_canonical (s : State) (c : Cur) (b : Blk) (m : Mmu) {f : MemForm} (hn : f.narrow = false) (hf : f.space < 2) :
    s.laneCheck c b m f va = .fault .addressSpace := by
  have htarget : s.target c b f va = .bad .addressSpace := by
    simp [State.target, hn, Nat.not_le.2 hf, isWindow_of_not_canonical h, h]
  rw [State.laneCheck, htarget]

theorem fetchAt_not_canonical (s : State) (m : Mmu) (site : FaultSite) : s.fetchAt m site va = .fault .addressSpace := by
  rw [State.fetchAt, if_pos (by simp [h])]

theorem tableCheck_not_canonical (s : State) (c : Cur) (b : Blk) (m : Mmu) :
    s.tableCheck c b m va = (.fault .addressSpace, va) := by
  rw [State.tableCheck, if_pos (by simp [h])]

end

/-- Settles O35: translation reads an address through `untag` alone, and no access, fetch or table load gets past `canonicalVa`. -/
theorem addressesTranslate : Obligations.AddressesTranslate := by
  unfold Obligations.AddressesTranslate
  intro va
  refine ⟨fun i hi => ?_, ?_, untag_lt va, fun va' hbits => ?_, fun hdiffer s c b m => ?_⟩
  · rw [testBit_untag, if_pos hi]
  · simp [testBit_untag]
  · have h := untag_congr hbits
    exact ⟨h, fun s => ⟨walk_congr h s, lookup_congr h s⟩⟩
  · have h := canonicalVa_eq_false hdiffer
    exact ⟨fun f hn hf => laneCheck_not_canonical h s c b m hn hf, fetchAt_not_canonical h s m, tableCheck_not_canonical h s c b m⟩

end Sys2Proof.Machine
end

section
/-! Traps that no handler takes: in handler mode and with a vector of 0 they kill the context, in a uniform stream they end it (O7, R279,
R282, R285). -/

namespace Sys2Proof.Machine

/-! ### Lanes that have exited -/

theorem lane_modLanes {t : Thr} {l : Nat} (hl : l < t.lanes.length) (m : Word) (f : Lane → Lane) :
    (t.modLanes m f).lane l = if m.getLsbD l then f (t.lane l) else t.lane l := by
  simp [Thr.lane, Thr.modLanes, List.getD, hl]

theorem exited_of_lanes {t : Thr} (h : ∀ l, l < 32 → l < t.lanes.length → (t.lane l).stat = .exited) : t.exited = true := by
  have hlive : t.live = 0 := BitVec.eq_of_getLsbD_eq fun l hl => by
    rw [Thr.live, Thr.lanesWhere, getLsbD_maskOf _ _ hl]
    by_cases hlen : l < t.lanes.length
    · simp [h l hl hlen]
    · simp [hlen]
  rw [Thr.exited, hlive]
  rfl

/-- Lanes put out of work everywhere leave their party exited (R157). -/
theorem exited_modLanes_all {t : Thr} {f : Lane → Lane} (hf : ∀ x, (f x).stat = .exited) : (t.modLanes 0xFFFFFFFF f).exited = true := by
  refine exited_of_lanes fun l hl hlen => ?_
  have hmask : (0xFFFFFFFF : Word).getLsbD l = true := by interval_cases l <;> rfl
  rw [lane_modLanes (by simpa [Thr.modLanes] using hlen), if_pos hmask, hf]

/-! ### A trap with a vector of 0 -/

theorem dueTrap_single {t : Thr} {r : TrapRec} (hh : t.handling = none) (hq : t.trapQ = [r]) (hr : r.inside = false) :
    t.dueTrap = some (r, []) := by
  simp [Thr.dueTrap, Thr.inHandler, hh, hq, hr]

/-- The handler has no vector: the trap whose turn it is kills the context (R279). -/
theorem nextTrap_no_vector {s : State} {core bctx w : Nat} {b : Blk} {t : Thr} {r : TrapRec} {rest : List TrapRec}
    (hb : s.blk? core bctx = some b) (ht : b.thr? w = some t) (hs : b.svc = false) (hr : b.stat = .resident)
    (hdue : t.dueTrap = some (r, rest)) (hv : (s.ctx b.info.ctx).vec = 0) : s.nextTrap core bctx w = s.kill b.info.ctx r.cause := by
  simp [State.nextTrap, hb, ht, hs, hr, hdue, hv]

theorem RecdOnly.ctx {s u : State} (h : RecdOnly s u) (c : Nat) : u.ctx c = s.ctx c := by rw [h.same]; rfl

/-- The first trap of a warp whose context has no vector kills it from a state in which no context has changed. -/
theorem queueTrap_no_vector {s : State} {core bctx w : Nat} {b : Blk} {t : Thr} {r : TrapRec}
    (hb : s.blk? core bctx = some b) (ht : b.thr? w = some t) (hs : b.svc = false) (hr : b.stat = .resident)
    (hh : t.handling = none) (hq : t.trapQ = []) (hi : r.inside = false) (hv : (s.ctx b.info.ctx).vec = 0) :
    ∃ u : State, s.queueTrap core bctx w r = u.kill b.info.ctx r.cause ∧ ∀ c, u.ctx c = s.ctx c := by
  unfold State.queueTrap
  extract_lets n s1
  have h1 : ∃ t1, s1 = ({ s with nextId := s.nextId + 1 } : State).setBlk core bctx (b.setThr w t1) ∧ t1.handling = none ∧
      t1.trapQ = [{ r with n := n }] :=
    ⟨_, modThr_eq (s := { s with nextId := s.nextId + 1 }) hb ht _, hh, by simp [hq]⟩
  obtain ⟨t1, hs1, hh1, hq1⟩ := h1
  have hctx (c : Nat) : (s1.closeChunk core 5).ctx c = s.ctx c := by rw [(closeChunk_recdOnly ..).ctx, hs1]; rfl
  refine ⟨s1.closeChunk core 5, ?_, hctx⟩
  refine nextTrap_no_vector (b := b.setThr w t1) (r := { r with n := n }) (rest := []) ?_ (thr?_setThr ..) hs hr
    (dueTrap_single hh1 hq1 hi) ((congrArg Ctx.vec (hctx _)).trans hv)
  rw [(closeChunk_recdOnly ..).blk?, hs1, blk?_setBlk]

/-! ### A trap in a uniform stream -/

theorem find?_nput {α : Type} {k : Nat} {p : Nat × α → Bool} (h : ∀ x, p (k, x) = false) (v : α) (m : NMap α) :
    (nput k v m).find? p = m.find? p := by
  induction m with
  | nil => simp [nput, h]
  | cons q m ih =>
    obtain ⟨j, x⟩ := q
    simp only [nput]
    split
    · simp [h]
    · split
      · next hkj => simp [← hkj, h]
      · simp [List.find?_cons, ih]

theorem lowestWarp_setThr {b : Blk} {w : Nat} (hw : 32 ≤ w) (t : Thr) : (b.setThr w t).lowestWarp = b.lowestWarp := by
  rw [Blk.lowestWarp, Blk.setThr, find?_nput (fun x => by simp [Nat.not_lt.2 hw])]
  rfl

theorem lowestWarp_lt {b : Blk} {v : Nat} (h : b.lowestWarp = some v) : v < 32 := by
  obtain ⟨p, hp, rfl⟩ := Option.map_eq_some_iff.1 h
  have hlow : p.1 < 32 ∧ p.2.exited = false := by simpa using List.find?_some hp
  exact hlow.1

theorem JournalOnly.blk? {s u : State} (h : JournalOnly s u) (core bctx : Nat) : u.blk? core bctx = s.blk? core bctx := by
  rw [State.blk?, h.blks]; rfl

/-- The trap is noted in its warp; what the image of a parked block repeats of it is memory. -/
theorem blk?_addAsync {s : State} {core bctx w : Nat} {b : Blk} {t : Thr} (hb : s.blk? core bctx = some b) (ht : b.thr? w = some t)
    (a : ATrap) : (s.addAsync core bctx w a).blk? core bctx = some (b.setThr w (t.addAsync a)) := by
  unfold State.addAsync
  rw [modThr_eq hb ht]
  simp only [blk?_setBlk, thr?_setThr]
  split
  · rw [(put_journalOnly ..).blk?, blk?_setBlk]
  · exact blk?_setBlk ..

/-- A trap of a uniform stream goes to the lowest live warp of its block (R285). -/
theorem asyncTrap_stream {s : State} {core bctx w v : Nat} {b : Blk} (hb : s.blk? core bctx = some b) (hw : 32 ≤ w)
    (hv : b.lowestWarp = some v) (a : ATrap) : s.asyncTrap core bctx w a = s.addAsync core bctx v a := by
  have hlow : ¬ w < 32 := Nat.not_lt.2 hw
  unfold State.asyncTrap
  rw [hb]
  cases hp : b.thr? w <;> simp [hlow, hp, hv]

theorem addAsync_of_room {t : Thr} (h : t.asyncQ.length < 4) (a : ATrap) : t.addAsync a = { t with asyncQ := t.asyncQ ++ [a] } :=
  if_pos h

theorem flushTag_none {s : State} {core bctx w : Nat} {t : Thr} (ht : s.thr? core bctx w = some t) (h : t.tagRec = none) :
    s.flushTag core bctx w = s := by
  simp [State.flushTag, ht, h]

/-- A uniform stream that a fault ends (R285): it has exited, and the fault is the lowest live warp's. -/
theorem blk?_endStream {s : State} {core bctx w v : Nat} {b : Blk} {t tv : Thr} (hb : s.blk? core bctx = some b)
    (ht : b.thr? w = some t) (hw : 32 ≤ w) (htag : t.tagRec = none) (hv : b.lowestWarp = some v) (htv : b.thr? v = some tv) (a : ATrap) :
    ∃ t', (s.endStream core bctx w a).blk? core bctx = some ((b.setThr w t').setThr v (tv.addAsync a)) ∧ t'.exited = true ∧
      t'.terminated = true := by
  unfold State.endStream
  extract_lets s1
  have h1 : ∃ t', s1 = s.setBlk core bctx (b.setThr w t') ∧ t'.exited = true ∧ t'.terminated = true ∧ t'.tagRec = none :=
    ⟨_, modThr_eq hb ht _, exited_modLanes_all fun _ => rfl, rfl, htag⟩
  obtain ⟨t', hs1, hexit, hterm, htag'⟩ := h1
  have hne : v ≠ w := by have := lowestWarp_lt hv; omega
  have hblk : (s1.closeChunk core 5).blk? core bctx = some (b.setThr w t') := by
    rw [(closeChunk_recdOnly ..).blk?, hs1, blk?_setBlk]
  have hadd := blk?_addAsync hblk ((thr?_setThr_other hne t').trans htv) a
  have hstream : ((s1.closeChunk core 5).addAsync core bctx v a).thr? core bctx w = some t' := by
    simp [State.thr?, hadd, thr?_setThr_other hne.symm]
  rw [asyncTrap_stream hblk hw ((lowestWarp_setThr hw t').trans hv), flushTag_none hstream htag']
  exact ⟨t', hadd, hexit, hterm⟩

/-! ### The trap of a word -/

/-- A trap taken with a vector of 0 kills the context (R279). -/
theorem trap_no_vector {s : State} {c : Cur} {b : Blk} {t : Thr} (h : Issues s c b t) (hw : c.w < 32)
    (hp : t.privileged c.lanes = false) (hh : t.handling = none) (hq : t.trapQ = []) (hs : b.svc = false) (hr : b.stat = .resident)
    (hv : (s.ctx b.info.ctx).vec = 0) (hk : (s.ctx b.info.ctx).killing = false) (i : TrapInfo) :
    Rules.Killed (s.trap c b t i) b.info.ctx i.cause.code := by
  unfold State.trap
  rw [if_neg (by omega), if_neg (by simp [hp])]
  obtain ⟨u, hu, hctx⟩ := queueTrap_no_vector h.blk h.thr hs hr hh hq (r := { n := 0, cause := i.cause, .. }) rfl hv
  rw [hu]
  exact kill_killed ((congrArg Ctx.killing (hctx _)).trans hk) _

/-- A trap taken in a uniform stream ends it with a pending trap of the word (R285). -/
theorem trap_stream (s : State) {c : Cur} (b : Blk) (t : Thr) (i : TrapInfo) (hw : 32 ≤ c.w) :
    ∃ a, s.trap c b t i = s.endStream c.core c.bctx c.w a ∧ a.cause = i.cause ∧ a.pc = c.pc ∧ a.addr = i.addr ∧
      a.origin = if c.w = 32 then 2 else 3 := by
  unfold State.trap
  exact ⟨_, if_pos hw, rfl, rfl, rfl, rfl⟩

/-- Settles O7: in handler mode and without a vector the trap is a kill of the context; in a uniform stream it is the stream's end. -/
theorem fatalTraps : Obligations.FatalTraps := by
  unfold Obligations.FatalTraps
  intro s c b t i h _ killed
  have hkilled {u : State} (hu : Rules.Killed u b.info.ctx i.cause.code) : killed u := by
    obtain ⟨hen, hkill, hkilling, hcause, hblks⟩ := hu
    exact ⟨hen, hkill, hcause, hkilling, hblks⟩
  refine ⟨fun hw hp hk => hkilled ?_, fun hw hp hh hq hs hr hv hk => hkilled (trap_no_vector h hw hp hh hq hs hr hv hk i),
    fun hw htag v tv hv htv hroom => ?_⟩
  · rw [trap_in_handler hw hp]
    exact kill_killed hk _
  · obtain ⟨a, htrap, ha⟩ := trap_stream s b t i hw
    obtain ⟨t', hblk, hexit, hterm⟩ := blk?_endStream h.blk h.thr hw htag hv htv a
    have hne : c.w ≠ v := by have := lowestWarp_lt hv; omega
    rw [addAsync_of_room hroom, ← htrap] at hblk
    refine ⟨_, t', { tv with asyncQ := tv.asyncQ ++ [a] }, rfl, ?_, hexit, hterm, ?_, rfl, a, rfl, ha⟩
    · simp [State.thr?, hblk, thr?_setThr_other hne]
    · simp [State.thr?, hblk]

end Sys2Proof.Machine
end

section
/-! How a block starts (O33). -/

namespace Sys2Proof.Machine

/-- A node of 33 warps, one more than arming lets through (R100), and of no stream. -/
def wideNode : NodeInfo := { placeInfo with wpb := 33, mtxPc := 0, accPc := 0 }

/-- Its warp 32 has the number by which the block knows its matrix stream. -/
theorem thr?_wideNode : (Blk.start 0 wideNode 0 0 [] [] 0 none).thr? 32 = some (Thr.start 32 placeVa 128 32) := by
  decide

/-- Refutes O33: it puts no bound on WPB.  With 33 warps party 32 is a warp of 32 lanes, where the statement asks for a stream of one. -/
theorem not_blocksStartClean : ¬ Obligations.BlocksStartClean := by
  unfold Obligations.BlocksStartClean
  intro h
  obtain ⟨-, -, -, -, -, -, -, -, -, -, -, -, hthrs⟩ := h 0 0 0 0 wideNode [] [] none
  have hlanes := (hthrs 32 _ thr?_wideNode).1
  exact absurd (congrArg List.length hlanes) (by decide)

end Sys2Proof.Machine
end

section
/-! The control core's work on armed nodes: records written, nodes replaced, and what that leaves of the rest (R97). -/

namespace Sys2Proof.Machine

/-! ### Nodes as the Stoker holds them -/

/-- Two nodes of one record: the same slot, command and address. -/
def ArmNode.SameRecord (m n : ArmNode) : Prop := m.slot = n.slot ∧ m.seq = n.seq ∧ m.addr = n.addr

/-- The Stoker holds a node of the same record. -/
def State.HoldsRecord (s : State) (n : ArmNode) : Prop := ∃ m ∈ s.stoker.nodes, m.SameRecord n

theorem holdsRecord_of_mem {s : State} {n : ArmNode} (h : n ∈ s.stoker.nodes) : s.HoldsRecord n := ⟨n, h, rfl, rfl, rfl⟩

/-- A node of a record that the Stoker holds is there once it is set. -/
theorem mem_setNode {s : State} {n : ArmNode} (h : s.HoldsRecord n) : n ∈ (s.setNode n).stoker.nodes := by
  obtain ⟨m, hm, hr⟩ := h
  exact List.mem_map.2 ⟨m, hm, if_pos hr⟩

theorem mem_setNode_other {s : State} {m n : ArmNode} (h : m ∈ s.stoker.nodes) (hr : ¬m.SameRecord n) : m ∈ (s.setNode n).stoker.nodes :=
  List.mem_map.2 ⟨m, h, if_neg hr⟩

theorem holdsRecord_setNode {s : State} {m : ArmNode} (h : s.HoldsRecord m) (n : ArmNode) : (s.setNode n).HoldsRecord m := by
  obtain ⟨k, hk, hr⟩ := h
  by_cases hn : k.SameRecord n
  · obtain ⟨h1, h2, h3⟩ := hn
    obtain ⟨g1, g2, g3⟩ := hr
    exact ⟨n, mem_setNode ⟨k, hk, h1, h2, h3⟩, h1.symm.trans g1, h2.symm.trans g2, h3.symm.trans g3⟩
  · exact ⟨k, mem_setNode_other hk hn, hr⟩

theorem mem_of_node? {s : State} {slot : Nat} {a : DWord} {n : ArmNode} (h : s.node? slot a = some n) : n ∈ s.stoker.nodes :=
  List.mem_of_find?_eq_some h

theorem slot_of_node? {s : State} {slot : Nat} {a : DWord} {n : ArmNode} (h : s.node? slot a = some n) : n.slot = slot ∧
    untag n.addr = untag a := by
  simpa using List.find?_some h

theorem mem_of_argNode {s : State} {n : ArmNode} (h : s.argNode = some n) : n ∈ s.stoker.nodes :=
  mem_of_node? (Option.filter_eq_some_iff.1 h).1

/-! ### Steps of the control core -/

/-- Two states that agree but for the Stoker's own tables, the recorder, and the bytes and caches of memory. -/
structure StokerStep (s u : State) : Prop where
  same : u = { s with stoker := u.stoker, recd := u.recd, mem := { s.mem with bytes := u.mem.bytes, cache := u.mem.cache } }
  mode : u.recd.mode = s.recd.mode

namespace StokerStep
variable {s u v : State}

theorem refl (s : State) : StokerStep s s := ⟨rfl, rfl⟩

theorem trans (h : StokerStep s u) (g : StokerStep u v) : StokerStep s v := by
  refine ⟨?_, g.mode.trans h.mode⟩
  rw [g.same, h.same]

theorem host (h : StokerStep s u) : u.host = s.host := by rw [h.same]
theorem blks (h : StokerStep s u) : u.blks = s.blks := by rw [h.same]
theorem colls (h : StokerStep s u) : u.colls = s.colls := by rw [h.same]
theorem tls (h : StokerStep s u) : u.tls = s.tls := by rw [h.same]
theorem tick (h : StokerStep s u) : u.tick = s.tick := by rw [h.same]

theorem timeline (h : StokerStep s u) (n : Nat) : u.timeline n = s.timeline n := by
  unfold State.timeline
  rw [h.tls]

theorem replaying (h : StokerStep s u) : u.replaying = s.replaying := by
  unfold State.replaying
  rw [h.mode]

theorem calm (h : StokerStep s u) {ctx : Nat} (hc : Rules.CalmMemory s ctx) : Rules.CalmMemory u ctx := by
  rw [h.same]
  exact hc

theorem mapped (h : StokerStep s u) {ctx agent : Nat} {write : Bool} {va : DWord} {n pa : Nat}
    (hm : Rules.Mapped s (s.ctlEng ctx agent).k (s.ctlEng ctx agent).b write va n pa) :
    Rules.Mapped u (u.ctlEng ctx agent).k (u.ctlEng ctx agent).b write va n pa := by
  rw [h.same]
  exact hm

/-- A record that can be written can still be. -/
theorem recordAt (h : StokerStep s u) {n : ArmNode} {pa : Nat} (hr : Rules.RecordAt s n pa) : Rules.RecordAt u n pa := by
  obtain ⟨hc, hp, ha, hw, hm⟩ := hr
  exact ⟨h.calm hc, h.replaying.trans hp, ha, hw, h.mapped hm⟩

theorem recordOpen (h : StokerStep s u) {n : ArmNode} : Rules.RecordOpen s n → Rules.RecordOpen u n
  | ⟨pa, hr⟩ => ⟨pa, h.recordAt hr⟩

end StokerStep

theorem EngState.stokerStep {s u : State} (h : EngState s u) : StokerStep s u := by
  refine ⟨?_, h.mode⟩
  rw [h.same]

theorem RecdOnly.stokerStep {s u : State} (h : RecdOnly s u) : StokerStep s u := h.engState.stokerStep

theorem EngState.stoker {s u : State} (h : EngState s u) : u.stoker = s.stoker := by rw [h.same]

theorem withStoker_stokerStep (s : State) (k : Stoker) : StokerStep s { s with stoker := k } := ⟨rfl, rfl⟩

theorem setNode_stokerStep (s : State) (n : ArmNode) : StokerStep s (s.setNode n) := ⟨rfl, rfl⟩

theorem pooled_stokerStep (s : State) (n : ArmNode) : StokerStep s (s.pooled n) := by
  unfold State.pooled
  split
  · exact withStoker_stokerStep ..
  · exact .refl s

@[simp] theorem pooled_nodes (s : State) (n : ArmNode) : (s.pooled n).stoker.nodes = s.stoker.nodes := by
  unfold State.pooled
  split <;> rfl

/-! ### A node's record written -/

theorem isWindow_record {a : DWord} (ha : a.toNat % 256 = 0) (hw : isWindow a = false) : isWindow (a + 0xF0) = false := by
  rw [← hw]
  have hlt := a.isLt
  have hadd : (a + 0xF0).toNat = a.toNat + 240 := by
    rw [BitVec.toNat_add]
    exact Nat.mod_eq_of_lt (by simp; omega)
  have hdiv : (a.toNat + 240) / 2 ^ 60 = a.toNat / 2 ^ 60 ∧ (a.toNat + 240) / 2 ^ 52 = a.toNat / 2 ^ 52 := by omega
  unfold isWindow fld
  rw [hadd, hdiv.1, hdiv.2]

theorem length_owned (n : ArmNode) : n.owned.length = 16 := by
  simp [ArmNode.owned, dwordBytes]

section
variable {s : State} {n new : ArmNode} {pa : Nat}

/-- The device-owned words of a record written at once (R97). -/
theorem ctlQuiet_record (h : Rules.RecordAt s n pa) (hctx : new.ctx = n.ctx) (haddr : new.addr = n.addr) (site : FaultSite) :
    ∃ t, State.ctlQuiet new.ctx stokerAgent site (ctlWrite (new.addr + 0xF0) new.owned) 4 s = .ok t () ∧ EngState s t ∧
      t.mem.bytes = writeBytes s.mem.bytes pa new.owned := by
  obtain ⟨hcalm, hr, ha, hw, hm⟩ := h
  rw [← haddr] at ha hw hm
  rw [← hctx] at hcalm hm
  let q : State := { s with recd := { s.recd with mode := 0 } }
  have hcalm' : Rules.CalmMemory q new.ctx := hcalm
  have hm' : MappedAt q (q.ctlEng new.ctx stokerAgent).k (q.ctlEng new.ctx stokerAgent).b true true (new.addr + 0xF0) new.owned.length pa := by
    rw [length_owned]
    exact mappedAt_of_mapped (isWindow_record ha hw) hm
  have h0 : EngAt q (q.ctlEng new.ctx stokerAgent).k (q.ctlEng new.ctx stokerAgent).b (q.ctlEng new.ctx stokerAgent) :=
    ctlEng_engAt stokerAgent hcalm.2.2.2.2.2.1 hcalm.2.2.2.2.1
  obtain ⟨e1, he1, h1, hb⟩ := ctlWrite_mapped hcalm' rfl h0 hm'
  have hctl : State.ctl new.ctx stokerAgent site (ctlWrite (new.addr + 0xF0) new.owned) 4 q = .ok e1.s () := ctl_ok he1 h1 hcalm'
  refine ⟨{ e1.s with recd := { e1.s.recd with mode := s.recd.mode } }, ?_, ⟨?_, rfl⟩, hb⟩
  · unfold State.ctlQuiet
    rw [hctl]
  · rw [h1.state.same]

/-- A node whose record can be written goes on in its new state. -/
theorem withNode_record (h : Rules.RecordAt s n pa) (hctx : new.ctx = n.ctx) (haddr : new.addr = n.addr) (old : ArmNode)
    (k : State → State) : ∃ t, s.withNode old new k = k (t.setNode new) ∧ EngState s t ∧
      t.mem.bytes = writeBytes s.mem.bytes pa new.owned := by
  obtain ⟨t, ht, hs, hb⟩ := ctlQuiet_record h hctx haddr (stokerSite new.slot new.seq new.addr)
  refine ⟨t, ?_, hs, hb⟩
  unfold State.withNode
  rw [ht]

theorem putNode_record (h : Rules.RecordOpen s n) (hctx : new.ctx = n.ctx) (haddr : new.addr = n.addr) :
    ∃ t, s.putNode new = t.setNode { new with owe := false } ∧ EngState s t := by
  obtain ⟨pa, h⟩ := h
  obtain ⟨t, ht, hs, -⟩ := ctlQuiet_record h hctx haddr (stokerSite new.slot new.seq new.addr)
  refine ⟨t, ?_, hs⟩
  unfold State.putNode
  rw [ht]

end

end Sys2Proof.Machine
end

section
/-! How a graph is armed (O25): every record of the set is written, and the nodes without predecessors become READY. -/

namespace Sys2Proof.Machine

/-! ### Nodes put one after another -/

/-- `f` puts a node whose record can be written in the state that `g` gives it. -/
def PutsNode (f : State → ArmNode → State) (g : State → ArmNode → ArmNode) : Prop :=
  ∀ t n, Rules.RecordOpen t n →
    StokerStep t (f t n) ∧ (f t n).stoker.nodes = (t.setNode (g t n)).stoker.nodes ∧ n.SameRecord (g t n)

theorem ArmNode.SameRecord.symm {m n : ArmNode} (h : m.SameRecord n) : n.SameRecord m :=
  ⟨h.1.symm, h.2.1.symm, h.2.2.symm⟩

theorem ArmNode.SameRecord.trans {k m n : ArmNode} (h : k.SameRecord m) (g : m.SameRecord n) : k.SameRecord n :=
  ⟨h.1.trans g.1, h.2.1.trans g.2.1, h.2.2.trans g.2.2⟩

theorem holdsRecord_of_nodes {s u : State} {n : ArmNode} (h : s.HoldsRecord n) (hn : u.stoker.nodes = s.stoker.nodes) :
    u.HoldsRecord n := by
  unfold State.HoldsRecord
  rw [hn]
  exact h

section
variable {f : State → ArmNode → State} {g : State → ArmNode → ArmNode}

/-- A node that shares its record with none of those put stays. -/
theorem mem_foldl_other (hf : PutsNode f g) {m : ArmNode} {l : List ArmNode} {s : State} (hl : ∀ n ∈ l, Rules.RecordOpen s n)
    (hm : m ∈ s.stoker.nodes) (hr : ∀ n ∈ l, ¬m.SameRecord n) : m ∈ (l.foldl f s).stoker.nodes := by
  induction l generalizing s with
  | nil => exact hm
  | cons n l ih =>
    obtain ⟨hs, hn, hg⟩ := hf s n (hl n List.mem_cons_self)
    refine ih (fun k hk => hs.recordOpen (hl k (List.mem_cons_of_mem _ hk))) ?_ fun k hk => hr k (List.mem_cons_of_mem _ hk)
    rw [hn]
    exact mem_setNode_other hm fun h => hr n List.mem_cons_self (h.trans hg.symm)

/-- Every node put is there in a state that `g` gives it, where those of one record are one node. -/
theorem mem_foldl_put (hf : PutsNode f g) {n : ArmNode} {l : List ArmNode} {s : State}
    (hl : ∀ k ∈ l, Rules.RecordOpen s k ∧ s.HoldsRecord k) (hone : ∀ k ∈ l, ∀ m ∈ l, k.SameRecord m → k = m) (hn : n ∈ l) :
    ∃ t, g t n ∈ (l.foldl f s).stoker.nodes := by
  induction l generalizing s with
  | nil => exact absurd hn List.not_mem_nil
  | cons a l ih =>
    obtain ⟨hopen, hold⟩ := hl a List.mem_cons_self
    obtain ⟨hs, hnodes, hg⟩ := hf s a hopen
    have hrest : ∀ k ∈ l, Rules.RecordOpen (f s a) k := fun k hk => hs.recordOpen (hl k (List.mem_cons_of_mem _ hk)).1
    by_cases hmem : n ∈ l
    · refine ih (fun k hk => ⟨hrest k hk, ?_⟩)
        (fun k hk m hm => hone k (List.mem_cons_of_mem _ hk) m (List.mem_cons_of_mem _ hm)) hmem
      exact holdsRecord_of_nodes (holdsRecord_setNode (hl k (List.mem_cons_of_mem _ hk)).2 _) hnodes
    · obtain rfl : n = a := (List.mem_cons.1 hn).resolve_right hmem
      refine ⟨s, mem_foldl_other (s := f s n) hf hrest ?_ fun k hk hr => hmem ?_⟩
      · rw [hnodes]
        obtain ⟨m, hm, hr⟩ := hold
        exact mem_setNode ⟨m, hm, hr.trans hg⟩
      · rwa [hone n List.mem_cons_self k (List.mem_cons_of_mem _ hk) (hg.trans hr)]

theorem foldl_put_stokerStep (hf : PutsNode f g) {l : List ArmNode} {s : State} (hl : ∀ n ∈ l, Rules.RecordOpen s n) :
    StokerStep s (l.foldl f s) := by
  induction l generalizing s with
  | nil => exact .refl s
  | cons n l ih =>
    have hs := (hf s n (hl n List.mem_cons_self)).1
    exact hs.trans (ih fun k hk => hs.recordOpen (hl k (List.mem_cons_of_mem _ hk)))

end

/-- Nodes written again in the state that `g` gives them, whatever else `f` puts into the Stoker's tables. -/
theorem putNode_puts {g : State → ArmNode → ArmNode} (hg : ∀ t n, n.SameRecord (g t n) ∧ (g t n).ctx = n.ctx) :
    PutsNode (fun t n => t.putNode (g t n)) fun t n => { g t n with owe := false } := by
  intro t n hopen
  obtain ⟨hr, hctx⟩ := hg t n
  obtain ⟨v, hv, hs⟩ := putNode_record hopen hctx hr.2.2.symm
  refine ⟨?_, ?_, hr⟩
  · dsimp only
    rw [hv]
    exact hs.stokerStep.trans (setNode_stokerStep ..)
  · dsimp only
    rw [hv]
    unfold State.setNode
    rw [hs.stoker]

theorem putReady_puts : PutsNode (fun t n => (t.putNode (t.readied n)).pooled n) fun t n => { t.readied n with owe := false } := by
  intro t n hopen
  obtain ⟨hs, hn, hr⟩ := putNode_puts (g := State.readied) (fun _ _ => ⟨⟨rfl, rfl, rfl⟩, rfl⟩) t n hopen
  exact ⟨hs.trans (pooled_stokerStep ..), (pooled_nodes ..).trans hn, hr⟩

/-! ### Arming -/

section
variable {s u : State} {h : HCmd} {ns : List ArmNode}

/-- The nodes of an armed set before they become READY. -/
def armedNodes (ns : List ArmNode) : List ArmNode := ns.mapIdx (armOne ns (bodiesOf (succIx ns) (entryIx ns)) (edgesOf (succIx ns)))

theorem mem_armedNodes {m : ArmNode} (hm : m ∈ armedNodes ns) : ∃ n ∈ ns, m.SameRecord n ∧ m.ctx = n.ctx := by
  obtain ⟨i, hi, rfl⟩ := List.mem_mapIdx.1 hm
  exact ⟨_, List.getElem_mem hi, ⟨rfl, rfl, rfl⟩, rfl⟩

theorem armed_of_mem {n : ArmNode} (hn : n ∈ ns) : ∃ m ∈ armedNodes ns, m.SameRecord n ∧ m.words = n.words ∧ m.predLive = n.predInit ∧
    m.launches = n.launches ∧ m.state = 1 := by
  obtain ⟨i, hi, rfl⟩ := List.getElem_of_mem hn
  exact ⟨_, List.mem_mapIdx.2 ⟨i, hi, rfl⟩, ⟨rfl, rfl, rfl⟩, rfl, rfl, rfl, rfl⟩

theorem armedNodes_addr : (armedNodes ns).map (fun n => n.addr) = ns.map fun n => n.addr := by
  refine List.ext_getElem (by simp [armedNodes]) fun i h1 h2 => ?_
  simp only [armedNodes, List.getElem_map, List.getElem_mapIdx]
  rfl

/-- Every node of a set whose records can be written is armed. -/
theorem armSet_arms (hm : h ∈ s.host.cmds) (hall : ∀ n ∈ ns, n.slot = h.slot ∧ n.seq = h.seq ∧ n.ctx = h.ctx ∧ Rules.RecordOpen s n)
    (hnd : (ns.map fun n => n.addr).Nodup) : { h with stage := .dispatched } ∈ (s.armSet h ns).host.cmds ∧
      ∀ n ∈ ns, ∃ m ∈ (s.armSet h ns).stoker.nodes, m.slot = h.slot ∧ m.seq = h.seq ∧ m.addr = n.addr ∧ m.words = n.words ∧
        m.predLive = n.predInit ∧ m.launches = n.launches ∧ m.state = if n.predInit = 0 then 2 else 1 := by
  let s1 : State := ({ s with stoker := { s.stoker with nodes := s.stoker.nodes ++ armedNodes ns } } : State).modHCmd h
    fun k => { k with stage := .dispatched }
  let ready := (armedNodes ns).filter fun n => n.predInit == 0
  have heq : s.armSet h ns = ready.foldl (fun t n => (t.putNode (t.readied n)).pooled n) ((armedNodes ns).foldl (fun t n => t.putNode n) s1) :=
    rfl
  have hput : PutsNode (fun t n => t.putNode n) fun _ n => { n with owe := false } :=
    putNode_puts (g := fun _ n => n) fun _ _ => ⟨⟨rfl, rfl, rfl⟩, rfl⟩
  have hone : ∀ k ∈ armedNodes ns, ∀ m ∈ armedNodes ns, k.SameRecord m → k = m := fun k hk m hm hr =>
    List.inj_on_of_nodup_map (by rwa [armedNodes_addr]) hk hm hr.2.2
  have hopen : ∀ n ∈ armedNodes ns, Rules.RecordOpen s1 n := fun m hm => by
    obtain ⟨n, hn, ⟨-, -, ha⟩, hc⟩ := mem_armedNodes hm
    obtain ⟨pa, hcalm, hp, hr⟩ := (hall n hn).2.2.2
    refine ⟨pa, ?_⟩
    unfold Rules.RecordAt
    rw [ha, hc]
    exact ⟨hcalm, hp, hr⟩
  have hold : ∀ n ∈ armedNodes ns, s1.HoldsRecord n := fun n hn => holdsRecord_of_mem (List.mem_append_right _ hn)
  generalize hs2 : (armedNodes ns).foldl (fun t n => t.putNode n) s1 = s2 at heq
  have hstep2 : StokerStep s1 s2 := hs2 ▸ foldl_put_stokerStep hput hopen
  have hmem2 : ∀ n ∈ armedNodes ns, { n with owe := false } ∈ s2.stoker.nodes := fun n hn => by
    obtain ⟨t, ht⟩ := mem_foldl_put hput (fun k hk => ⟨hopen k hk, hold k hk⟩) hone hn
    exact hs2 ▸ ht
  have hsub : ∀ n ∈ ready, n ∈ armedNodes ns := fun n hn => (List.mem_filter.1 hn).1
  have hopen2 : ∀ n ∈ ready, Rules.RecordOpen s2 n := fun n hn => hstep2.recordOpen (hopen n (hsub n hn))
  have hstep3 := foldl_put_stokerStep putReady_puts hopen2
  rw [heq]
  refine ⟨?_, fun n hn => ?_⟩
  · rw [hstep3.host, hstep2.host]
    exact mem_modHCmd hm fun k => { k with stage := .dispatched }
  · obtain ⟨hslot, hseq, -, -⟩ := hall n hn
    obtain ⟨m, hm, ⟨h1, h2, h3⟩, hw, hp, hla, hst⟩ := armed_of_mem hn
    have hinit : m.predInit = n.predInit := by
      unfold ArmNode.predInit ArmNode.w
      rw [hw]
    by_cases h0 : n.predInit = 0
    · have hmr : m ∈ ready := List.mem_filter.2 ⟨hm, by simp [hinit, h0]⟩
      obtain ⟨t, ht⟩ := mem_foldl_put putReady_puts
        (fun k hk => ⟨hopen2 k hk, { k with owe := false }, hmem2 k (hsub k hk), rfl, rfl, rfl⟩)
        (fun k hk m hm => hone k (hsub k hk) m (hsub m hm)) hmr
      exact ⟨_, ht, h1.trans hslot, h2.trans hseq, h3, hw, hp, hla, by rw [if_pos h0]; rfl⟩
    · refine ⟨_, mem_foldl_other putReady_puts hopen2 (hmem2 m hm) fun k hk hr => h0 ?_,
        h1.trans hslot, h2.trans hseq, h3, hw, hp, hla, by rw [if_neg h0, ← hst]⟩
      obtain rfl := hone m hm k (hsub k hk) hr
      simpa [hinit] using (List.mem_filter.1 hk).2

/-- RUNGRAPH, once the records of its set have been read. -/
theorem exec_rungraph {t : State} {l : List Byte} (hc : s.cmdTurn? 1 false = some h) (hk : s.recd.ckBusy = false)
    (hq : s.ctlQuiet h.ctx stokerAgent (stokerSite h.slot h.seq h.a0) (ctlRead h.a0 (8 * h.a1.toNat)) 20 = .ok t l)
    (hr : State.readNodes h (2 ^ 37) (dwordsOf h.a1.toNat l) [] t = .nodes u ns) :
    exec .rungraph s = .next ((u.armFault h ns).elim (u.armSet h ns) fun c => u.endHostCmd h.slot h.seq (some c)) := by
  change execRungraph s = _
  unfold execRungraph
  simp only [hc, hk, hq, hr, Bool.false_eq_true, if_false]
  cases u.armFault h ns <;> rfl

end

/-- RUNGRAPH arms the set it has read, or fails with the first condition that the set breaks. -/
theorem graphsAreArmed : Rules.GraphsAreArmed := by
  intro s h t l hc hk hq u ns hr hm
  have he := exec_rungraph hc hk hq hr
  refine ⟨fun c hf => ?_, fun hf hall hnd => ?_⟩
  · rw [hf] at he
    exact ⟨_, he, ended_endHostCmd hm _, rfl⟩
  · rw [hf] at he
    exact ⟨_, he, armSet_arms hm hall hnd⟩

end Sys2Proof.Machine
end

section
/-! How nodes complete: reported, forwarded to their successors, and retired (O25). -/

namespace Sys2Proof.Machine

/-! ### Completions reported -/

section
variable {s : State} {n : ArmNode}

/-- A node set, and an entry put at the end of the completion queue. -/
def State.reported (s : State) (m : ArmNode) (how : Notify) : State :=
  { s.setNode m with stoker := { (s.setNode m).stoker with
      cq := s.stoker.cq ++ [{ slot := m.slot, seq := m.seq, addr := m.addr, how := how, cursor := 0 }] } }

theorem exec_nodeCompletionReport_outs (ha : s.argNode = some n) (hq : s.cqFull = false) {how : Notify} {rest : List Notify}
    (ho : n.outs = how :: rest) : exec .nodeCompletionReport s = .next (s.reported { n with outs := rest } how) := by
  change execNodeCompletionReport s = _
  unfold execNodeCompletionReport
  simp only [ha, ho, hq, Bool.false_eq_true, if_false]
  rfl

theorem exec_nodeCompletionReport_executed (ha : s.argNode = some n) (hq : s.cqFull = false) (ho : n.outs = []) (he : n.executed = true)
    (hf : n.failed = none) : exec .nodeCompletionReport s = .next (s.reported { n with stored := true } .live) := by
  change execNodeCompletionReport s = _
  unfold execNodeCompletionReport
  simp only [ha, ho, he, hf, hq, Bool.not_true, Bool.false_eq_true, if_false]
  rfl

theorem mem_reported {m : ArmNode} (hn : n ∈ s.stoker.nodes) (hr : n.SameRecord m) (how : Notify) :
    m ∈ (s.reported m how).stoker.nodes := mem_setNode ⟨n, hn, hr⟩

end

/-! ### Notifications -/

section
variable {s : State} {m : ArmNode} {live : Bool}

/-- What a notification makes of a node that waits (R101, R102). -/
theorem notified_fields (hs : m.state = 1) : m.SameRecord (s.notified m live) ∧ (s.notified m live).ctx = m.ctx ∧
    (s.notified m live).predLive = m.predLive - 1 ∧ (s.notified m live).liveIn = (m.liveIn || live) ∧
    (s.notified m live).state = if 1 < m.predLive then 1 else if m.liveIn || live then 2 else 5 := by
  unfold State.notified State.readied
  dsimp only
  split
  · exact ⟨⟨rfl, rfl, rfl⟩, rfl, rfl, rfl, hs⟩
  · cases m.liveIn || live
    · exact ⟨⟨rfl, rfl, rfl⟩, rfl, rfl, rfl, rfl⟩
    · exact ⟨⟨rfl, rfl, rfl⟩, rfl, rfl, rfl, rfl⟩

/-- A waiting node whose record can be written takes its notification, and the entry goes on. -/
theorem notifyNode_waits {n : ArmNode} {a : DWord} (hn : s.node? n.slot a = some m) (hf : m.fault = none) (ho : m.owe = false)
    (hk : m.kind ≠ 5) (hs : m.state = 1) (hr : Rules.RecordOpen s m) (k : State → State) :
    ∃ t, s.notifyNode n a live k = k t ∧ StokerStep s t ∧ s.notified m live ∈ t.stoker.nodes ∧ t.stoker.cq = s.stoker.cq ∧
      t.stoker.retireQ = s.stoker.retireQ := by
  obtain ⟨pa, hr⟩ := hr
  obtain ⟨hrec, hctx, -⟩ := notified_fields (s := s) (live := live) hs
  have hheld : m.held = false := by simp [ArmNode.held, hf, ho]
  have he : s.notifyNode n a live k = s.withNode m (s.notified m live) fun t =>
      k (if (s.notified m live).state = 2 then t.pooled (s.notified m live) else t) := by
    unfold State.notifyNode
    simp only [hn, hheld, hk, hs, false_and, ne_eq, not_true, Bool.false_eq_true, if_false]
  generalize s.notified m live = x at he hrec hctx
  obtain ⟨v, hv, hv2, -⟩ := withNode_record hr hctx hrec.2.2.symm m fun t => k (if x.state = 2 then t.pooled x else t)
  have hstep : StokerStep s (v.setNode x) := hv2.stokerStep.trans (setNode_stokerStep ..)
  have hmem : x ∈ (v.setNode x).stoker.nodes := mem_setNode ⟨m, by rw [hv2.stoker]; exact mem_of_node? hn, hrec⟩
  have hq : v.stoker.cq = s.stoker.cq ∧ v.stoker.retireQ = s.stoker.retireQ := by
    rw [hv2.stoker]
    exact ⟨rfl, rfl⟩
  refine ⟨_, he.trans hv, ?_⟩
  split
  · refine ⟨hstep.trans (pooled_stokerStep ..), by rw [pooled_nodes]; exact hmem, ?_⟩
    unfold State.pooled
    split
    · exact hq
    · exact hq
  · exact ⟨hstep, hmem, hq⟩

end

/-! ### The completion queue moves on -/

theorem sweep_of_noneOver {s : State} (h : NoneOver s) : s.sweep = s := by
  have hnil : (s.blks.filter fun p => s.blkOver p.2) = [] := List.filter_eq_nil_iff.2 fun p hp => by
    obtain ⟨q, hq, hx⟩ := h p hp
    have hall : (p.2.thrs.all fun q => q.2.exited) = false := List.all_eq_false.2 ⟨q, hq, by simp [hx]⟩
    simp [State.blkOver, Blk.hasExited, hall]
  unfold State.sweep
  rw [hnil]
  rfl

theorem freeColls_of_none {s : State} (h : ∀ c ∈ s.colls, c.ended = false) : s.freeColls = s := by
  have hnil : (s.colls.filter fun c => c.ended) = [] := List.filter_eq_nil_iff.2 fun c hc => by simp [h c hc]
  unfold State.freeColls
  rw [hnil]
  rfl

/-- The oldest entry after one more of its `len` notifications: it goes to the control core with the last, and its cursor moves on
otherwise (R119). -/
def State.cqOnward (s : State) (e : CqEntry) (rest : List CqEntry) (len : Nat) : State :=
  if len ≤ e.cursor + 1 then
    ({ s with stoker := { s.stoker with retireQ := s.stoker.retireQ ++ [e], cq := s.stoker.cq.drop 1 } } : State).sweep.freeColls
  else { s with stoker := { s.stoker with cq := { e with cursor := e.cursor + 1 } :: rest } }

section
variable {s : State} {n : ArmNode} {e : CqEntry} {rest : List CqEntry}

theorem cqOnward_last {len : Nat} (hl : len ≤ e.cursor + 1) (hb : NoneOver s) (hc : ∀ c ∈ s.colls, c.ended = false) :
    s.cqOnward e rest len =
      { s with stoker := { s.stoker with retireQ := s.stoker.retireQ ++ [e], cq := s.stoker.cq.drop 1 } } := by
  unfold State.cqOnward
  rw [if_pos hl, sweep_of_noneOver (by exact hb), freeColls_of_none (by exact hc)]

theorem cqOnward_nodes {len : Nat} (hb : NoneOver s) (hc : ∀ c ∈ s.colls, c.ended = false) :
    (s.cqOnward e rest len).stoker.nodes = s.stoker.nodes := by
  by_cases hl : len ≤ e.cursor + 1
  · rw [cqOnward_last hl hb hc]
  · unfold State.cqOnward
    rw [if_neg hl]

theorem exec_forwardingStep {a : DWord} {live : Bool} (hq : s.stoker.cq = e :: rest) (hf : s.stoker.forwarding = true)
    (hi : s.islandDown stokerIsland = false) (hn : s.node? e.slot e.addr = some n) (hseq : n.seq = e.seq) (h6 : n.state ≠ 6)
    (h7 : n.state ≠ 7) (ho : (notices n e.how)[e.cursor]? = some (a, live)) :
    exec .forwardingStep s = .next (s.notifyNode n a live fun t => t.cqOnward e rest (notices n e.how).length) := by
  change execForwardingStep s = _
  unfold execForwardingStep
  simp only [hq, hf, hi, hn, hseq, h6, h7, ho, Bool.not_true, Bool.or_self, Bool.false_eq_true, if_false, ne_eq, not_true, or_self]
  rfl

end

/-! ### Retirement -/

theorem stokerRaise_keeps (s : State) (n : Nat) (v : DWord) : (s.stokerRaise n v).stoker = s.stoker ∧ (s.stokerRaise n v).mem = s.mem := by
  have hn := note_admitOnly s stokerAgent 0 0 (objTl n) true none (some 4) [] []
  refine ⟨?_, ?_⟩
  · change (s.note stokerAgent 0 0 (objTl n) true none (some 4)).stoker = s.stoker
    rw [hn.same]
  · exact hn.mem

section
variable {s : State} {slot : Nat} {seq : Word}

/-- A command with a node that is still open has not finished. -/
theorem finishIfDone_open {m : ArmNode} (hm : m ∈ s.stoker.nodes) (h1 : m.slot = slot) (h2 : m.seq = seq) (hc : m.closed = false) :
    s.finishIfDone slot seq = s := by
  unfold State.finishIfDone
  rw [if_neg]
  intro h
  have := List.all_eq_true.1 h m hm
  simp [h1, h2, hc] at this

/-- A command that is dispatched is not journaled. -/
theorem journalIf_dispatched (h : ∀ k, s.hcmd? slot seq = some k → k.stage = .dispatched) : s.journalIf slot seq = s := by
  unfold State.journalIf
  split
  · rename_i k hk
    unfold State.journalEnd
    rw [h k hk]
  · rfl

theorem hcmd?_of_host {u : State} (h : u.host = s.host) (slot : Nat) (seq : Word) : u.hcmd? slot seq = s.hcmd? slot seq := by
  unfold State.hcmd?
  rw [h]

/-- With its last node closed and no words owed, a dispatched command of nodes is over and gone. -/
theorem journalIf_finishIfDone_gone {h : HCmd} (hall : ∀ m ∈ s.stoker.nodes, m.slot = slot → m.seq = seq → m.closed = true ∧ m.owe = false)
    (hh : s.hcmd? slot seq = some h) (hopc : h.opc = 1) (hst : h.stage = .dispatched) :
    ∀ k ∈ ((s.finishIfDone slot seq).journalIf slot seq).host.cmds, ¬(k.slot = slot ∧ k.seq = seq) := by
  have hfin : s.finishIfDone slot seq = s.endHostCmd slot seq h.fail := by
    unfold State.finishIfDone
    rw [if_pos]
    · simp only [hh, hopc, hst, and_self, if_true]
    · refine List.all_eq_true.2 fun m hm => ?_
      by_cases hr : m.slot = slot ∧ m.seq = seq
      · obtain ⟨h1, h2⟩ := hall m hm hr.1 hr.2
        simp [h1, h2]
      · simp [not_and_or.1 hr]
  have hkey : h.slot = slot ∧ h.seq = seq := by simpa using List.find?_some hh
  have hfound : (s.endHostCmd slot seq h.fail).hcmd? slot seq = some { h with stage := .finished h.fail } := by
    unfold State.hcmd? at hh ⊢
    unfold State.endHostCmd
    dsimp only
    rw [List.find?_map]
    have hp : ((fun k : HCmd => k.slot == slot && k.seq == seq) ∘ fun k : HCmd =>
        if k.slot = slot ∧ k.seq = seq then { k with stage := .finished h.fail } else k) = fun k => k.slot == slot && k.seq == seq := by
      funext k
      simp only [Function.comp_apply]
      split <;> rfl
    rw [hp, hh]
    simp [hkey]
  rw [hfin]
  unfold State.journalIf
  rw [hfound]
  intro k hk
  have hfil := (List.mem_filter.1 hk).2
  simpa [hkey, imp_iff_not_or] using hfil

end

section
variable {s : State} {n : ArmNode} {e : CqEntry} {rest : List CqEntry}

/-- The control core writes a node's words again (R97). -/
theorem exec_nodeRetire_owed (hf : (s.stoker.nodes.find? fun n => n.owe && n.fault.isNone) = some n) (hc : s.ctrlRuns = true) :
    exec .nodeRetire s = .next (((s.putNode n).finishIfDone n.slot n.seq).journalIf n.slot n.seq) := by
  change execNodeRetire s = _
  unfold execNodeRetire
  simp only [hc, hf, Bool.not_true, Bool.false_eq_true, if_false]

/-- A node as its retirement leaves it (R98). -/
def ArmNode.retired (n : ArmNode) (how : Notify) : ArmNode := { n with state := if how = .skip then 5 else 4, closed := true }

/-- The state after a node of the oldest entry has been retired, before its command is looked at. -/
def State.afterRetire (s : State) (n : ArmNode) (rest : List CqEntry) : State :=
  let t : State := { s with stoker := { s.stoker with retireQ := rest } }
  if n.sigtl then t.stokerRaise n.tl n.tlVal else t

theorem exec_nodeRetire_oldest (howe : ∀ m ∈ s.stoker.nodes, m.owe = false) (hc : s.ctrlRuns = true) (hq : s.stoker.retireQ = e :: rest)
    (hn : s.node? e.slot e.addr = some n) (hhow : e.how = .live ∨ e.how = .skip) (hseq : n.seq = e.seq) (hcl : n.closed = false)
    (hf : n.fault = none) (hm : s.mayOp stokerAgent 0 0 = true) (hi : s.islandDown syncIsland = false) :
    exec .nodeRetire s = .next (s.withNode n (n.retired e.how) fun t =>
      ((t.afterRetire n rest).finishIfDone n.slot n.seq).journalIf n.slot n.seq) := by
  have hfind : (s.stoker.nodes.find? fun n => n.owe && n.fault.isNone) = none :=
    List.find?_eq_none.2 fun m hm => by simp [howe m hm]
  have hheld : n.held = false := by simp [ArmNode.held, hf, howe n (mem_of_node? hn)]
  change execNodeRetire s = _
  unfold execNodeRetire State.retireNext
  obtain hhow | hhow := hhow
  · simp [hc, hfind, hq, hn, hhow, hseq, hcl, hheld, hm, hi, ArmNode.retired, State.afterRetire]
  · simp [hc, hfind, hq, hn, hhow, hseq, hcl, hheld, hm, hi, ArmNode.retired, State.afterRetire]

theorem afterRetire_keeps : (s.afterRetire n rest).stoker = { s.stoker with retireQ := rest } ∧ (s.afterRetire n rest).host = s.host := by
  unfold State.afterRetire
  dsimp only
  split
  · exact ⟨(stokerRaise_keeps ..).1, (stokerRaise_same ..).1⟩
  · exact ⟨rfl, rfl⟩

theorem afterRetire_timeline (h : n.sigtl = true) : (s.afterRetire n rest).timeline n.tl =
    if (s.timeline n.tl).toNat < n.tlVal.toNat then n.tlVal else s.timeline n.tl := by
  unfold State.afterRetire
  rw [if_pos h]
  exact (stokerRaise_same ..).2

theorem afterRetire_tls (h : n.sigtl = false) : (s.afterRetire n rest).tls = s.tls := by
  unfold State.afterRetire
  rw [if_neg (by simp [h])]

end

/-- How nodes complete, tell their successors and retire. -/
theorem nodesComplete : Rules.NodesComplete := by
  intro s n
  refine ⟨fun ha hq => ⟨fun how rest ho => ?outs, fun ho hex hf => ?executed⟩,
    fun e rest a live m hq hf hi hn hseq h6 h7 ho hm hfm hk hs how hr hb hc => ?forward,
    fun hf hc hr hopen hh => ?owed,
    fun e rest hq hn hhow hseq howe hcl hf hc hm hi hr => ?oldest⟩
  case outs =>
    refine ⟨_, exec_nodeCompletionReport_outs ha hq ho, mem_reported (mem_of_argNode ha) ?_ how, rfl⟩
    exact ⟨rfl, rfl, rfl⟩
  case executed =>
    refine ⟨_, exec_nodeCompletionReport_executed ha hq ho hex hf, mem_reported (mem_of_argNode ha) ?_ .live, rfl⟩
    exact ⟨rfl, rfl, rfl⟩
  case forward =>
    obtain ⟨t, ht, hstep, hmem, hcq, hrq⟩ := notifyNode_waits (live := live) hm hfm how hk hs hr fun t =>
      t.cqOnward e rest (notices n e.how).length
    obtain ⟨hrec, -, hpl, hli, hst⟩ := notified_fields (s := s) (live := live) hs
    have hb' : NoneOver t := by
      unfold NoneOver
      rw [hstep.blks]
      exact hb
    have hc' : ∀ c ∈ t.colls, c.ended = false := by
      rw [hstep.colls]
      exact hc
    refine ⟨_, _, (exec_forwardingStep hq hf hi hn hseq h6 h7 ho).trans (by rw [ht]), by rw [cqOnward_nodes hb' hc']; exact hmem,
      hrec.1.symm, hrec.2.1.symm, hrec.2.2.symm, hpl, hli, hst, fun hlt => ?_, fun hle => ?_⟩
    · unfold State.cqOnward
      rw [if_neg (Nat.not_le.2 hlt)]
      exact ⟨rfl, hrq⟩
    · rw [cqOnward_last hle hb' hc', hcq, hq, hrq]
      exact ⟨rfl, rfl⟩
  case owed =>
    obtain ⟨t, ht, hs⟩ := putNode_record hr rfl rfl
    obtain ⟨m, hm, h1, h2, h3, h4⟩ := hopen
    have hn : n ∈ s.stoker.nodes := List.mem_of_find?_eq_some hf
    have hm' : m ∈ (t.setNode { n with owe := false }).stoker.nodes :=
      mem_setNode_other (by rw [hs.stoker]; exact hm) fun hr => h3 hr.2.2
    have hhost : (t.setNode { n with owe := false }).host = s.host := hs.stokerStep.host
    refine ⟨_, exec_nodeRetire_owed hf hc, ?_⟩
    rw [ht, finishIfDone_open hm' h1 h2 h4, journalIf_dispatched (by simpa only [hcmd?_of_host hhost] using hh)]
    have hrq : t.stoker.retireQ = s.stoker.retireQ := by rw [hs.stoker]
    exact ⟨mem_setNode ⟨n, by rw [hs.stoker]; exact hn, rfl, rfl, rfl⟩, hrq⟩
  case oldest =>
    obtain ⟨pa, hr⟩ := hr
    have he := exec_nodeRetire_oldest howe hc hq hn hhow hseq hcl hf hm hi
    obtain ⟨t, ht, hs, -⟩ := withNode_record (new := n.retired e.how) hr rfl rfl n fun t =>
      ((t.afterRetire n rest).finishIfDone n.slot n.seq).journalIf n.slot n.seq
    rw [ht] at he
    generalize hv : (t.setNode (n.retired e.how)).afterRetire n rest = v at he
    obtain ⟨hstk, hhost⟩ := afterRetire_keeps (s := t.setNode (n.retired e.how)) (n := n) (rest := rest)
    rw [hv] at hstk hhost
    have hh : v.host = s.host := hhost.trans hs.stokerStep.host
    have hold : t.HoldsRecord (n.retired e.how) := ⟨n, by rw [hs.stoker]; exact mem_of_node? hn, rfl, rfl, rfl⟩
    refine ⟨fun ⟨m, hm, h1, h2, h3, h4⟩ hd => ?_, fun h hall hcmd hopc hst => ⟨_, he, ?_⟩⟩
    · have hm' : m ∈ v.stoker.nodes := by
        rw [hstk]
        exact mem_setNode_other (by rw [hs.stoker]; exact hm) fun hr => h3 hr.2.2
      rw [finishIfDone_open hm' h1 h2 h4, journalIf_dispatched (by simpa only [hcmd?_of_host hh] using hd)] at he
      refine ⟨_, he, by rw [hstk], by rw [hstk]; exact mem_setNode hold, fun hsig => ?_, fun hsig => ?_⟩
      · rw [← hv, afterRetire_timeline hsig, show (t.setNode (n.retired e.how)).timeline n.tl = s.timeline n.tl from hs.stokerStep.timeline _]
      · rw [← hv, afterRetire_tls hsig]
        exact hs.stokerStep.tls
    · refine journalIf_finishIfDone_gone (fun m hm h1 h2 => ?_) (by rw [hcmd?_of_host hh]; exact hcmd) hopc hst
      rw [hstk] at hm
      obtain ⟨k, hk, rfl⟩ := List.mem_map.1 hm
      rw [hs.stoker] at hk
      split
      · exact ⟨rfl, howe n (mem_of_node? hn)⟩
      · rename_i hr
        rw [if_neg hr] at h1 h2
        exact ⟨(hall k hk h1 h2).resolve_left fun h => hr ⟨h1, h2, h⟩, howe k hk⟩

end Sys2Proof.Machine
end

section
/-! The nodes that the control core runs, and pre-loads (O25). -/

namespace Sys2Proof.Machine

/-! ### Decisions and nodes to run, while nothing is replayed -/

section
variable {s : State} {n : ArmNode}

theorem ccNode_facts {kind : Nat} (h : s.ccNode kind = some n) :
    n ∈ s.stoker.nodes ∧ n.done = 0 ∧ n.outs = [] ∧ s.recd.halted = false := by
  obtain ⟨ha, hg⟩ := Option.filter_eq_some_iff.1 h
  simp only [Bool.and_eq_true, beq_iff_eq, List.isEmpty_iff, Bool.not_eq_true'] at hg
  obtain ⟨⟨⟨⟨⟨-, hd⟩, ho⟩, -⟩, hh⟩, -⟩ := hg
  exact ⟨mem_of_argNode ha, hd, ho, hh⟩

theorem mayDecide_live (hr : s.replaying = false) (hh : s.recd.halted = false) (event : Nat) : s.mayDecide event n = true := by
  simp [State.mayDecide, hr, hh]

theorem forcedArg_live (hr : s.replaying = false) : s.forcedArg = none := by
  simp [State.forcedArg, hr]

theorem recordPlace_recdOnly (s : State) (event : Nat) (nodeId armSeq arg : Word) (cluster mask core slot ctx : Nat) (faulted : Bool) :
    RecdOnly s (s.recordPlace event nodeId armSeq arg cluster mask core slot ctx faulted) := by
  unfold State.recordPlace
  split
  · exact .refl s
  · exact ⟨rfl, rfl, rfl⟩

theorem decided_recdOnly (hr : s.replaying = false) (event : Nat) (n : ArmNode) (arg cluster mask core : Nat) (faulted : Bool) :
    RecdOnly s (s.decided event n arg cluster mask core faulted) := by
  unfold State.decided
  rw [hr]
  exact recordPlace_recdOnly ..

theorem takeUp_running (h : n.state = 3) (k : ArmNode → State → State) : s.takeUp n k = k n s := by
  unfold State.takeUp
  rw [if_pos h]

theorem RecdOnly.stoker {s u : State} (h : RecdOnly s u) : u.stoker = s.stoker := by rw [h.same]

/-- A node that has run, in a state whose tables are those of one that holds its record. -/
theorem mem_setNode_ran {t : State} (hn : n ∈ s.stoker.nodes) (ht : t.stoker = s.stoker) (how : Notify) :
    n.ran how ∈ (t.setNode (n.ran how)).stoker.nodes :=
  mem_setNode ⟨n, by rw [ht]; exact hn, rfl, rfl, rfl⟩

/-! ### COND (R105) -/

/-- A predicate at mapped memory is read at once. -/
theorem nodeRead_mapped {pa : Nat} (hr : s.replaying = false) (hcalm : Rules.CalmMemory s n.ctx) (hw : isWindow n.predAddr = false)
    (hm : Rules.Mapped s (s.ctlEng n.ctx stokerAgent).k (s.ctlEng n.ctx stokerAgent).b false n.predAddr 8 pa) (k : State → Bool → State) :
    ∃ t, s.nodeRead n k = k t (leNat (readBytes s.mem.bytes pa 8) != 0) ∧ EngState s t := by
  have h0 := ctlEng_engAt (s := s) (ctx := n.ctx) stokerAgent hcalm.2.2.2.2.2.1 hcalm.2.2.2.2.1
  obtain ⟨e1, he1, h1, -⟩ := ctlRead_mapped hcalm hr rfl h0 (mappedAt_of_mapped hw hm)
  refine ⟨e1.s, ?_, h1.state⟩
  unfold State.nodeRead
  rw [ctl_ok he1 h1 hcalm]
  rfl

/-- The decision of a COND node whose predicate reads as `v` (R105). -/
def State.condDecided (n : ArmNode) (t : State) (v : Bool) : State :=
  (t.decided 3 n ((t.forcedArg.map (· != 0)).getD v).toNat 0 0 0 false).setNode (n.ran (.cond ((t.forcedArg.map (· != 0)).getD v)))

theorem exec_condEvaluate (hr : s.replaying = false) (hn : s.ccNode 4 = some n) (hst : n.state = 3) :
    exec .condEvaluate s = .next (s.nodeRead n (State.condDecided n)) := by
  obtain ⟨-, -, -, hh⟩ := ccNode_facts hn
  change execCondEvaluate s = _
  unfold execCondEvaluate
  simp only [hn, mayDecide_live hr hh, takeUp_running hst, Bool.not_true, Bool.false_eq_true, if_false]
  rfl

theorem mem_condDecided {t : State} (hr : t.replaying = false) (hn : n ∈ t.stoker.nodes) (v : Bool) :
    n.ran (.cond v) ∈ (State.condDecided n t v).stoker.nodes := by
  unfold State.condDecided
  rw [forcedArg_live hr]
  exact mem_setNode_ran hn (decided_recdOnly hr ..).stoker _

theorem condEvaluate_chooses {pa : Nat} (hr : s.replaying = false) (hn : s.ccNode 4 = some n) (hst : n.state = 3)
    (hcalm : Rules.CalmMemory s n.ctx) (hw : isWindow n.predAddr = false)
    (hm : Rules.Mapped s (s.ctlEng n.ctx stokerAgent).k (s.ctlEng n.ctx stokerAgent).b false n.predAddr 8 pa) :
    ∃ u, exec .condEvaluate s = .next u ∧ n.ran (.cond (leNat (readBytes s.mem.bytes pa 8) != 0)) ∈ u.stoker.nodes := by
  obtain ⟨t, ht, hs⟩ := nodeRead_mapped hr hcalm hw hm (State.condDecided n)
  exact ⟨_, (exec_condEvaluate hr hn hst).trans (congrArg _ ht),
    mem_condDecided (hs.replaying hr) (by rw [hs.stoker]; exact (ccNode_facts hn).1) _⟩

/-! ### LOOP (R106) -/

/-- Whether a LOOP without a predicate goes round again: its last iteration was live, and its bound is not reached. -/
def ArmNode.goesOn (n : ArmNode) : Bool := !(decide (0 < n.iter) && !n.backLive) && !(n.loopMax != 0 && n.iter == n.loopMax)

theorem exec_loopNodeTest (hr : s.replaying = false) (hn : s.ccNode 5 = some n) (hst : n.state = 3) (hp : n.predAddr = 0)
    (hrest : n.iter = 0 ∨ (n.backLeft = 0 ∧ ∀ m ∈ s.bodyNodes n, m.closed = true ∧ (m.state = 4 ∨ m.state = 5))) :
    exec .loopNodeTest s = .next (s.loopGo n n.goesOn) := by
  obtain ⟨-, -, -, hh⟩ := ccNode_facts hn
  have hturn : (n.state == 3 && decide (0 < n.iter) && !(n.backLeft == 0 &&
      (s.bodyNodes n).all fun m => m.closed && (m.state == 4 || m.state == 5))) = false := by
    obtain h | ⟨hb, hall⟩ := hrest
    · simp [h]
    · have hrested : ((s.bodyNodes n).all fun m => m.closed && (m.state == 4 || m.state == 5)) = true :=
        List.all_eq_true.2 fun m hm => by simpa using hall m hm
      simp [hb, hrested]
  change execLoopNodeTest s = _
  unfold execLoopNodeTest
  simp only [hn, mayDecide_live hr hh, hturn, takeUp_running hst, hp, forcedArg_live hr, Bool.not_true, Bool.or_self, Bool.false_eq_true,
    if_false, bne_self_eq_false, Bool.and_false, Option.map_none, Option.getD_none]
  rfl

theorem loopGo_out (hr : s.replaying = false) (hn : n ∈ s.stoker.nodes) : n.ran .live ∈ (s.loopGo n false).stoker.nodes :=
  mem_setNode_ran hn (decided_recdOnly hr ..).stoker .live

/-- The body nodes of a LOOP that share a record are one node. -/
theorem bodyNodes_one {k m : ArmNode} (hk : k ∈ s.bodyNodes n) (hm : m ∈ s.bodyNodes n) (hr : k.SameRecord m) : k = m := by
  obtain ⟨a, -, ha⟩ := List.mem_filterMap.1 hk
  obtain ⟨b, -, hb⟩ := List.mem_filterMap.1 hm
  have hu : untag a = untag b := (slot_of_node? ha).2.symm.trans ((congrArg untag hr.2.2).trans (slot_of_node? hb).2)
  unfold State.node? at ha hb
  rw [hu] at ha
  exact Option.some.inj (ha.symm.trans hb)

theorem loopGo_round (hr : s.replaying = false) (hn : n ∈ s.stoker.nodes)
    (hbody : ∀ m ∈ s.bodyNodes n, Rules.RecordOpen s m ∧ m.addr ≠ n.addr ∧ m.owe = false) :
    { n with iter := n.iter + 1, backLeft := n.backN, backLive := false, outs := [.body true] } ∈ (s.loopGo n true).stoker.nodes ∧
      ∀ m ∈ s.bodyNodes n, m.rearmed ∈ (s.loopGo n true).stoker.nodes := by
  let s1 := s.decided 4 n 1 0 0 0 false
  have hd : RecdOnly s s1 := decided_recdOnly hr ..
  have hbn : s1.bodyNodes n = s.bodyNodes n := by
    unfold State.bodyNodes State.node?
    rw [hd.stoker]
  have hput : PutsNode (fun t m => t.putNode m.rearmed) fun _ m => { m.rearmed with owe := false } :=
    putNode_puts (g := fun _ m => m.rearmed) fun _ _ => ⟨⟨rfl, rfl, rfl⟩, rfl⟩
  have hopen : ∀ m ∈ s.bodyNodes n, Rules.RecordOpen s1 m := fun m hm => hd.stokerStep.recordOpen (hbody m hm).1
  have hold : ∀ m ∈ s.bodyNodes n, s1.HoldsRecord m := fun m hm => by
    obtain ⟨a, -, ha⟩ := List.mem_filterMap.1 hm
    exact holdsRecord_of_nodes (holdsRecord_of_mem (mem_of_node? ha)) (by rw [hd.stoker])
  have hgo : s.loopGo n true = ((s.bodyNodes n).foldl (fun t m => t.putNode m.rearmed) s1).setNode
      { n with iter := n.iter + 1, backLeft := n.backN, backLive := false, outs := [.body true] } := by
    rw [← hbn]
    rfl
  rw [hgo]
  refine ⟨mem_setNode ⟨n, mem_foldl_other hput hopen (by rw [hd.stoker]; exact hn) fun m hm h => (hbody m hm).2.1 h.2.2.symm, ?_⟩,
    fun m hm => mem_setNode_other ?_ fun h => (hbody m hm).2.1 h.2.2⟩
  · exact ⟨rfl, rfl, rfl⟩
  · obtain ⟨t, ht⟩ := mem_foldl_put hput (fun k hk => ⟨hopen k hk, hold k hk⟩) (fun k hk m hm => bodyNodes_one hk hm) hm
    have howe : { m.rearmed with owe := false } = m.rearmed := by
      unfold ArmNode.rearmed
      rw [← (hbody m hm).2.2]
    rwa [howe] at ht

/-! ### SIGNAL, WAIT and HOSTCALL (R104) -/

/-- A node as the control core takes it up: RUNNING, with one more launch (R101, R118). -/
def ArmNode.taken (n : ArmNode) : ArmNode :=
  { n with state := 3, launches := n.launches + 1, iter := 0, backLeft := 0, backLive := false }

theorem takeUp_record {pa : Nat} (hst : n.state = 2) (hr : Rules.RecordAt s n pa) (k : ArmNode → State → State) :
    ∃ t, s.takeUp n k = k n.taken (t.setNode n.taken) ∧ EngState s t ∧ t.mem.bytes = writeBytes s.mem.bytes pa n.taken.owned := by
  obtain ⟨t, ht, hs, hb⟩ := withNode_record (new := n.taken) hr rfl rfl n (k n.taken)
  refine ⟨t, ?_, hs, hb⟩
  unfold State.takeUp
  rw [if_neg (by simp [hst])]
  exact ht

theorem signalNode_raises {pa : Nat} (hn : s.ccNode 6 = some n) (hst : n.state = 2) (hr : Rules.RecordAt s n pa) :
    ∃ u m, exec .signalNode s = .next u ∧ m ∈ u.stoker.nodes ∧
      m.slot = n.slot ∧ m.addr = n.addr ∧ m.state = 3 ∧ m.launches = n.launches + 1 ∧ m.done = 1 ∧ m.outs = [.live] ∧
      (u.timeline n.tl = if (s.timeline n.tl).toNat < n.tlVal.toNat then n.tlVal else s.timeline n.tl) ∧
      ∀ a, readByte u.mem.bytes a =
        if pa ≤ a ∧ a < pa + 16 then m.owned.getD (a - pa) 0 else readByte s.mem.bytes a := by
  obtain ⟨hmem, -, ho, -⟩ := ccNode_facts hn
  obtain ⟨t, ht, hs, hb⟩ := takeUp_record hst hr fun m t => (t.stokerRaise m.tl m.tlVal).setNode (m.ran .live)
  have he : exec .signalNode s = .next (s.takeUp n fun m t => (t.stokerRaise m.tl m.tlVal).setNode (m.ran .live)) := by
    change execSignalNode s = _
    unfold execSignalNode
    rw [hn]
  rw [ht] at he
  obtain ⟨hstk, hmm⟩ := stokerRaise_keeps (t.setNode n.taken) n.taken.tl n.taken.tlVal
  have hold : n.taken ∈ (t.setNode n.taken).stoker.nodes := mem_setNode ⟨n, by rw [hs.stoker]; exact hmem, rfl, rfl, rfl⟩
  refine ⟨_, n.taken.ran .live, he, mem_setNode_ran hold hstk .live, rfl, rfl, rfl, rfl, rfl, ?_, ?_, fun a => ?_⟩
  · change n.outs ++ [.live] = [.live]
    rw [ho]
    rfl
  · refine (stokerRaise_same (t.setNode n.taken) n.tl n.tlVal).2.trans ?_
    rw [show (t.setNode n.taken).timeline n.tl = s.timeline n.tl from hs.stokerStep.timeline _]
  · have hbytes : ((t.setNode n.taken).stokerRaise n.taken.tl n.taken.tlVal).mem.bytes = writeBytes s.mem.bytes pa n.taken.owned := by
      rw [hmm]
      exact hb
    rw [setNode_mem, hbytes, readByte_writeBytes, length_owned]
    rfl

theorem tlReached_early (h : (s.timeline n.tl).toNat < n.tlVal.toNat) : s.tlReached n = s := by
  unfold State.tlReached
  rw [if_pos h]

theorem tlReached_done (hr : s.replaying = false) (h : n.tlVal.toNat ≤ (s.timeline n.tl).toNat) :
    ∃ t, s.tlReached n = t.setNode (n.ran .live) ∧ RecdOnly s t := by
  unfold State.tlReached
  rw [if_neg (Nat.not_lt.2 h)]
  exact ⟨_, rfl, note_recdOnly hr ..⟩

theorem exec_waitNode (hn : s.ccNode 7 = some n) (hst : n.state = 3) : exec .waitNode s = .next (s.tlReached n) := by
  change execWaitNode s = _
  unfold execWaitNode
  simp only [hn, takeUp_running hst]

/-- The mailbox of a HOSTCALL node (R104). -/
def ArmNode.mailbox (n : ArmNode) : List Byte := leBytes 4 n.nodeId.toNat ++ leBytes 4 n.launches.toNat

theorem exec_hostcallNode {pa : Nat} (hr : s.replaying = false) (hn : s.ccNode 8 = some n) (hst : n.state = 3) (hs : n.stored = false)
    (hcalm : Rules.CalmMemory s n.ctx) (hw : isWindow n.param = false)
    (hm : Rules.Mapped s (s.ctlEng n.ctx stokerAgent).k (s.ctlEng n.ctx stokerAgent).b true n.param 8 pa) :
    ∃ t, exec .hostcallNode s = .next ((t.setNode { n with stored := true }).tlReached { n with stored := true }) ∧ EngState s t ∧
      t.mem.bytes = writeBytes s.mem.bytes pa n.mailbox := by
  have h0 := ctlEng_engAt (s := s) (ctx := n.ctx) stokerAgent hcalm.2.2.2.2.2.1 hcalm.2.2.2.2.1
  have hlen : n.mailbox.length = 8 := by simp [ArmNode.mailbox]
  have hm' := mappedAt_of_mapped hw hm
  rw [← hlen] at hm'
  obtain ⟨e1, he1, h1, hb⟩ := ctlWrite_mapped hcalm hr h0 hm'
  refine ⟨e1.s, ?_, h1.state, hb⟩
  have hctl : State.ctl n.ctx stokerAgent (stokerSite n.slot n.seq n.addr)
      (ctlWrite n.param (leBytes 4 n.nodeId.toNat ++ leBytes 4 n.launches.toNat)) 4 s = .ok e1.s () := ctl_ok he1 h1 hcalm
  change execHostcallNode s = _
  unfold execHostcallNode
  simp only [hn, takeUp_running hst, hs, hctl, Bool.false_eq_true, if_false]

theorem hostcallNode_stores {pa : Nat} (hr : s.replaying = false) (hn : s.ccNode 8 = some n) (hst : n.state = 3) (hs : n.stored = false)
    (hcalm : Rules.CalmMemory s n.ctx) (hw : isWindow n.param = false)
    (hm : Rules.Mapped s (s.ctlEng n.ctx stokerAgent).k (s.ctlEng n.ctx stokerAgent).b true n.param 8 pa) :
    ∃ u m, exec .hostcallNode s = .next u ∧ m ∈ u.stoker.nodes ∧ m.slot = n.slot ∧ m.addr = n.addr ∧ m.stored = true ∧
      m.done = (if n.tlVal.toNat ≤ (s.timeline n.tl).toNat then 1 else n.done) ∧ ∀ a, readByte u.mem.bytes a =
        if pa ≤ a ∧ a < pa + 8 then (leBytes 4 n.nodeId.toNat ++ leBytes 4 n.launches.toNat).getD (a - pa) 0
        else readByte s.mem.bytes a := by
  obtain ⟨hmem, -, -, -⟩ := ccNode_facts hn
  obtain ⟨t, he, ht, hb⟩ := exec_hostcallNode hr hn hst hs hcalm hw hm
  have hold : { n with stored := true } ∈ (t.setNode { n with stored := true }).stoker.nodes :=
    mem_setNode ⟨n, by rw [ht.stoker]; exact hmem, rfl, rfl, rfl⟩
  have htl : (t.setNode { n with stored := true }).timeline n.tl = s.timeline n.tl := ht.stokerStep.timeline _
  have hbytes : ∀ a, readByte t.mem.bytes a =
      if pa ≤ a ∧ a < pa + 8 then (leBytes 4 n.nodeId.toNat ++ leBytes 4 n.launches.toNat).getD (a - pa) 0
      else readByte s.mem.bytes a := fun a => by
    have hlen : n.mailbox.length = 8 := by simp [ArmNode.mailbox]
    rw [hb, readByte_writeBytes, hlen]
    rfl
  by_cases h : n.tlVal.toNat ≤ (s.timeline n.tl).toNat
  · obtain ⟨v, hv, hrec⟩ := tlReached_done (s := t.setNode { n with stored := true }) (n := { n with stored := true })
      (ht.replaying hr) (by rw [← htl] at h; exact h)
    rw [hv] at he
    refine ⟨_, _, he, mem_setNode_ran hold hrec.stoker .live, rfl, rfl, rfl, by rw [if_pos h]; rfl, fun a => ?_⟩
    rw [setNode_mem, hrec.same]
    exact hbytes a
  · rw [tlReached_early (by rw [← htl] at h; exact Nat.lt_of_not_le h)] at he
    exact ⟨_, _, he, hold, rfl, rfl, rfl, by rw [if_neg h], hbytes⟩

/-! ### Pre-loads (R117) -/

theorem preloadLines_homeAside (s : State) (cluster ctx k : Nat) (va : DWord) : HomeAside s (s.preloadLines cluster ctx k va).1 := by
  induction k generalizing s va with
  | zero => exact .refl s
  | succ k ih =>
    unfold State.preloadLines
    split
    · exact .refl s
    · exact HomeAside.trans ((cacheRead_homeAside ..).ite (.refl s)) (ih ..)
    · exact (cacheRead_homeAside ..).trans (ih ..)

theorem exec_nodePreload {va : DWord} {bytes : Nat} (ha : s.argNode = some n) (hp : n.preload = true) (hk : n.kind ≤ 2)
    (he : n.executed = false) (hst : n.state = 2 ∨ n.state = 3) (hl : n.preloads[n.preloaded]? = some (va, bytes)) :
    exec .nodePreload s = .next (if s.preloadAdmits n va bytes then
      let x := s.preloadLines n.pref n.ctx ((va.toNat % 128 + bytes + 127) / 128) (va >>> 7 <<< 7)
      x.1.setNode { n with preloaded := if x.2 then n.preloaded + 1 else n.preloads.length } else s) := by
  have hgo : ¬((!n.preload) = true ∨ 2 < n.kind ∨ n.executed = true ∨ (n.state ≠ 2 ∧ n.state ≠ 3)) := by
    rw [hp, he]
    rintro (h | h | h | h)
    · cases h
    · omega
    · cases h
    · omega
  change execNodePreload s = _
  unfold execNodePreload
  simp only [ha, if_neg hgo, hl]
  cases s.preloadAdmits n va bytes <;> rfl

end

/-- What the control core's nodes do, and the next segment of a pre-load. -/
theorem controlNodesRun : Rules.ControlNodesRun := by
  intro s n hr
  refine ⟨fun pa hn hst hcalm _ hw hm => condEvaluate_chooses hr hn hst hcalm hw hm, fun hn hst hp hrest => ⟨fun hlive hmax hbody => ?round,
    fun hout => ?leave⟩, fun pa hn hst hrec => signalNode_raises hn hst hrec, fun hn hst => ⟨fun hle => ?reached, fun hlt => ?early⟩,
    fun pa hn hst hs hcalm _ hw hm => hostcallNode_stores hr hn hst hs hcalm hw hm,
    fun va bytes ha hp hk he hst hl => ⟨fun had => ?fetch, fun had => ?held⟩⟩
  case round =>
    have hon : n.goesOn = true := by
      unfold ArmNode.goesOn
      have h1 : (decide (0 < n.iter) && !n.backLive) = false := by
        obtain h | h := hlive <;> simp [h]
      have h2 : (n.loopMax != 0 && n.iter == n.loopMax) = false := by
        obtain h | h := hmax <;> simp [h]
      rw [h1, h2]
      rfl
    have he := exec_loopNodeTest hr hn hst hp hrest
    rw [hon] at he
    exact ⟨_, he, loopGo_round hr (ccNode_facts hn).1 hbody⟩
  case leave =>
    have hoff : n.goesOn = false := by
      unfold ArmNode.goesOn
      obtain ⟨h, g⟩ | ⟨h, g⟩ := hout
      · simp [h, g]
      · simp [h, g]
    have he := exec_loopNodeTest hr hn hst hp hrest
    rw [hoff] at he
    exact ⟨_, he, loopGo_out hr (ccNode_facts hn).1⟩
  case reached =>
    obtain ⟨t, ht, hs⟩ := tlReached_done hr hle
    exact ⟨_, (exec_waitNode hn hst).trans (by rw [ht]), mem_setNode_ran (ccNode_facts hn).1 hs.stoker .live⟩
  case early => rw [exec_waitNode hn hst, tlReached_early hlt]
  case fetch =>
    have hx := preloadLines_homeAside s n.pref n.ctx ((va.toNat % 128 + bytes + 127) / 128) (va >>> 7 <<< 7)
    have hu := exec_nodePreload ha hp hk he hst hl
    rw [if_pos had] at hu
    refine ⟨_, hu, hx.bytes, mem_setNode ⟨n, ?_, ?_⟩⟩
    · rw [hx.same]
      exact mem_of_argNode ha
    · exact ⟨rfl, rfl, rfl⟩
  case held => rw [exec_nodePreload ha hp hk he hst hl, if_neg (by simp [had])]

/-- Settles O25: a set is armed record by record, completions move through their queue, and the control core's nodes do what their kinds
say. -/
theorem graphsRun : Obligations.GraphsRun := ⟨graphsAreArmed, nodesComplete, controlNodesRun⟩

end Sys2Proof.Machine
end

section
/-! Dispatch: a chosen node is taken up, and its gang, program or collective is placed (O26, R108 to R113, R116, R118). -/

namespace Sys2Proof.Machine

/-! ### Which block contexts are taken -/

/-- The block contexts that hold a block. -/
def State.blkKeys (s : State) : List Nat := s.blks.map fun p => p.1

theorem isSome_nget {α : Type} (m : NMap α) (k : Nat) : (nget m k).isSome = (m.map fun p => p.1).contains k := by
  induction m with
  | nil => rfl
  | cons p m ih =>
    obtain ⟨j, x⟩ := p
    unfold nget
    by_cases h : j = k
    · simp [h]
    · simp [h, ih, Ne.symm h]

/-- What is free of a core rests on the block contexts that are taken. -/
theorem freeCtx_of_keys {s u : State} (h : u.blkKeys = s.blkKeys) (core : Nat) : u.freeCtx core = s.freeCtx core := by
  have hk : ∀ (t : State) i, (t.blk? core i).isNone = !t.blkKeys.contains (blkKey core i) := fun t i => by
    rw [← Option.not_isSome]
    exact congrArg _ (isSome_nget ..)
  unfold State.freeCtx
  simp only [hk, h]

theorem freeCtx_lt {s : State} {core x : Nat} (h : s.freeCtx core = some x) : x < 16 :=
  List.mem_range.1 (List.mem_of_find?_eq_some h)

/-- A block put in one core takes no context of another. -/
theorem freeCtx_setBlk_other {s : State} {core core' x : Nat} (hx : x < 16) (h : core' ≠ core) (b : Blk) :
    (s.setBlk core x b).freeCtx core' = s.freeCtx core' := by
  unfold State.freeCtx
  refine List.find?_congr fun i hi => ?_
  rw [blk?_setBlk_other]
  have := List.mem_range.1 hi
  unfold blkKey
  omega

/-! ### The block contexts while requests leave their cores -/

theorem RecdOnly.blkKeys {s u : State} (h : RecdOnly s u) : u.blkKeys = s.blkKeys := by
  rw [h.same]
  rfl

@[simp] theorem diverge_blkKeys (s : State) (agent reason op : Nat) : (s.diverge agent reason op).blkKeys = s.blkKeys := by
  unfold State.diverge State.blkKeys
  extract_lets run
  cases run with
  | none => rfl
  | some r =>
    refine List.map_map.trans (List.map_congr_left fun p _ => ?_)
    simp only [Function.comp_apply]
    split <;> rfl

@[simp] theorem replayOp_blkKeys (s : State) (agent : Nat) (addr close : Option Nat) :
    (s.replayOp agent addr close).blkKeys = s.blkKeys := by
  unfold State.replayOp
  split
  · rfl
  · extract_lets x fold y src src' s1
    have h1 : s1.blkKeys = s.blkKeys := rfl
    have hd : ∀ n, (s1.diverge agent n x.ops).blkKeys = s.blkKeys := fun n => (diverge_blkKeys ..).trans h1
    clear_value s1
    split
    · exact hd _
    · split
      · split
        · exact hd _
        · exact h1
      · split
        · exact hd _
        · split
          · exact hd _
          · exact h1

@[simp] theorem note_blkKeys (s : State) (agent issuer lane obj : Nat) (mo : Bool) (addr close : Option Nat) (msgs : List DWord)
    (more : List Nat) : (s.note agent issuer lane obj mo addr close msgs more).blkKeys = s.blkKeys := by
  unfold State.note
  split
  · exact (recordOp_recdOnly ..).blkKeys
  · split
    · split
      · rfl
      · split
        · exact replayOp_blkKeys ..
        · rfl
    · rfl

@[simp] theorem valueOf_blkKeys (s : State) (agent issuer lane kind : Nat) (mask : Word) (live : List DWord) (obj : Nat) (mo : Bool) :
    (s.valueOf agent issuer lane kind mask live obj mo).1.blkKeys = s.blkKeys := by
  unfold State.valueOf
  dsimp only
  split
  · split
    · split
      · rfl
      · exact diverge_blkKeys ..
    · exact diverge_blkKeys ..
  · exact (recordValue_recdOnly ..).blkKeys

@[simp] theorem noteAway_blkKeys (s : State) (r : Req) : (s.noteAway r).blkKeys = s.blkKeys := note_blkKeys ..

@[simp] theorem modReq_blkKeys (s : State) (id : Nat) (f : Req → Req) : (s.modReq id f).blkKeys = s.blkKeys := rfl

@[simp] theorem modBank_blkKeys (s : State) (k : Nat) (f : Bank → Bank) : (s.modBank k f).blkKeys = s.blkKeys := rfl

@[simp] theorem emit_blkKeys (s : State) (o : Out) : (s.emit o).blkKeys = s.blkKeys := rfl

@[simp] theorem sendFlit_blkKeys (s : State) (port : Nat) (dev : BitVec 16) (m : PeerMsg) :
    (s.sendFlit port dev m).blkKeys = s.blkKeys := by
  unfold State.sendFlit
  split <;> rfl

@[simp] theorem sendMsg_blkKeys (s : State) (port : Nat) (dev : BitVec 16) (ctx tag : Nat) (op : PeerOp) :
    (s.sendMsg port dev ctx tag op).blkKeys = s.blkKeys := by
  unfold State.sendMsg
  exact (sendFlit_blkKeys ..).trans rfl

@[simp] theorem sendLanes_blkKeys (s : State) (r : Req) (dev : BitVec 16) (port : Nat) (l : List LaneOp) :
    (s.sendLanes r dev port l).1.blkKeys = s.blkKeys := by
  induction l generalizing s with
  | nil => rfl
  | cons o l ih =>
    unfold State.sendLanes
    split
    · rfl
    · exact (ih _).trans (sendMsg_blkKeys ..)

@[simp] theorem sendPeer_blkKeys (s : State) (r : Req) (dev : BitVec 16) : (s.sendPeer r dev).blkKeys = s.blkKeys := by
  unfold State.sendPeer
  dsimp only
  repeat' split
  all_goals simp

@[simp] theorem hostAtomSend_blkKeys (s : State) (r : Req) (link : Nat) (o : LaneOp) :
    (s.hostAtomSend r link o).blkKeys = s.blkKeys := by
  unfold State.hostAtomSend
  repeat' split
  all_goals rfl

@[simp] theorem replayHost_blkKeys (s : State) (r : Req) (kind : Nat) : (s.replayHost r kind).blkKeys = s.blkKeys := by
  unfold State.replayHost
  simp

@[simp] theorem sendHost_blkKeys (s : State) (r : Req) (link : Nat) : (s.sendHost r link).blkKeys = s.blkKeys := by
  unfold State.sendHost
  dsimp only
  repeat' split
  all_goals simp

theorem sendContrib_blkKeys {s u : State} {r : Req} {slot : Nat} {o : LaneOp} (h : s.sendContrib r slot o = some u) :
    u.blkKeys = s.blkKeys := by
  unfold State.sendContrib at h
  split at h
  · cases h
    rfl
  · dsimp only at h
    split_ifs at h
    · cases h
      rfl
    · cases h
      exact sendMsg_blkKeys ..

@[simp] theorem sendContribs_blkKeys (s : State) (r : Req) (slot : Nat) (l : List LaneOp) :
    (s.sendContribs r slot l).1.blkKeys = s.blkKeys := by
  induction l generalizing s with
  | nil => rfl
  | cons o l ih =>
    unfold State.sendContribs
    split
    · rfl
    · exact (ih _).trans (sendContrib_blkKeys ‹_›)

@[simp] theorem sendWindow_blkKeys (s : State) (r : Req) (slot : Nat) : (s.sendWindow r slot).blkKeys = s.blkKeys := by
  unfold State.sendWindow
  dsimp only
  repeat' split
  all_goals simp

@[simp] theorem admitReq_blkKeys (s : State) (id : Nat) : (s.admitReq id).blkKeys = s.blkKeys := by
  unfold State.admitReq
  dsimp only
  repeat' split
  all_goals simp

theorem foldl_blkKeys {α : Type} {f : State → α → State} (hf : ∀ s a, (f s a).blkKeys = s.blkKeys) (l : List α) (s : State) :
    (l.foldl f s).blkKeys = s.blkKeys := by
  induction l generalizing s with
  | nil => rfl
  | cons a l ih => exact (ih _).trans (hf s a)

theorem admitReqs_blkKeys (s : State) : s.admitReqs.blkKeys = s.blkKeys := foldl_blkKeys admitReq_blkKeys _ s

/-! ### Banks that change their mode (R113, R192) -/

/-- Two states with the same taken block contexts, whose Stoker has the same tables. -/
structure BanksOnly (s u : State) : Prop where
  stoker : u.stoker = s.stoker
  keys : u.blkKeys = s.blkKeys

namespace BanksOnly
variable {s u v : State}

theorem refl (s : State) : BanksOnly s s := ⟨rfl, rfl⟩

theorem trans (h : BanksOnly s u) (g : BanksOnly u v) : BanksOnly s v := ⟨g.stoker.trans h.stoker, g.keys.trans h.keys⟩

theorem foldl {α : Type} {f : State → α → State} (h : ∀ s a, BanksOnly s (f s a)) :
    ∀ (l : List α) (s : State), BanksOnly s (l.foldl f s)
  | [], s => refl s
  | a :: l, s => (h s a).trans (foldl h l (f s a))

end BanksOnly

theorem modBank_banksOnly (s : State) (k : Nat) (f : Bank → Bank) : BanksOnly s (s.modBank k f) := ⟨rfl, rfl⟩

theorem admitReqs_banksOnly (s : State) : BanksOnly s s.admitReqs :=
  ⟨by rw [(admitReqs_admitOnly s).same], admitReqs_blkKeys s⟩

theorem beginChange_banksOnly (s : State) (k : Nat) (m : BankMode) (owner : Option Nat) (who : Option (Nat × Nat)) :
    BanksOnly s (s.beginChange k m owner who) := by
  unfold State.beginChange
  split <;> exact ⟨rfl, rfl⟩

theorem finishChange_banksOnly (s : State) (k : Nat) : BanksOnly s (s.finishChange k) := by
  unfold State.finishChange
  split
  · exact .refl s
  · refine BanksOnly.trans ?_ (admitReqs_banksOnly _)
    exact ⟨rfl, rfl⟩

theorem switchBanks_banksOnly (s : State) (cluster : Nat) (l : List Nat) : BanksOnly s (s.switchBanks cluster l) := by
  unfold State.switchBanks
  exact .foldl (fun t i => .trans ((beginChange_banksOnly ..).trans (finishChange_banksOnly ..)) (modBank_banksOnly ..)) l s

/-! ### A gang's blocks (R112) -/

/-- The block of a rank as it is put in its context: of the node, the gang and the rank it is to have. -/
def State.HasRank (s u : State) (n : ArmNode) (sp : Spot) (r : Nat) : Prop :=
  ∃ x b, s.freeCtx (sp.cores.getD r 0) = some x ∧ u.blk? (sp.cores.getD r 0) x = some b ∧
    b.stat = (if n.kind = 2 then .resident else .admitted) ∧ b.info = n.info s.stoker.nextGang r

/-- The block of a rank put in the lowest free context of its core. -/
def State.putRank (s : State) (n : ArmNode) (sp : Spot) (t : State) (r : Nat) : State :=
  t.setBlk (sp.cores.getD r 0) ((t.freeCtx (sp.cores.getD r 0)).getD 0)
    { Blk.start (s.nextId + r) (n.info s.stoker.nextGang r) (s.fresh + 1 + 64 * r) s.tick
        ((t.freeTiles (sp.cores.getD r 0)).take n.tiles) (sp.banks.getD r []) (1024 * (s.nextId + r)) (sp.accs.getD r none) with
      stat := if n.kind = 2 then .resident else .admitted }

theorem putBlocks_eq (s : State) (n : ArmNode) (sp : Spot) :
    s.putBlocks n sp = (List.range sp.cores.length).foldl (s.putRank n sp) s := rfl

theorem putBlocks_stoker (s : State) (n : ArmNode) (sp : Spot) : (s.putBlocks n sp).stoker = s.stoker := by
  rw [putBlocks_eq]
  generalize List.range sp.cores.length = l
  suffices h : ∀ t : State, (l.foldl (s.putRank n sp) t).stoker = t.stoker from h s
  induction l with
  | nil => exact fun t => rfl
  | cons r l ih => exact fun t => ih _

section
variable {s : State} {n : ArmNode} {sp : Spot}

/-- The first ranks put in their contexts: each has its block, and the other cores have what they had. -/
theorem putRanks_places (hd : sp.cores.Nodup) (hfree : ∀ c ∈ sp.cores, (s.freeCtx c).isSome = true) :
    ∀ k ≤ sp.cores.length, (∀ r < k, s.HasRank ((List.range k).foldl (s.putRank n sp) s) n sp r) ∧
      ∀ r, k ≤ r → r < sp.cores.length →
        ((List.range k).foldl (s.putRank n sp) s).freeCtx (sp.cores.getD r 0) = s.freeCtx (sp.cores.getD r 0) := by
  have hne : ∀ i j, i < sp.cores.length → j < sp.cores.length → i ≠ j → sp.cores.getD i 0 ≠ sp.cores.getD j 0 := by
    intro i j hi hj hij h
    rw [List.getD_eq_getElem _ _ hi, List.getD_eq_getElem _ _ hj] at h
    exact hij ((hd.getElem_inj_iff).1 h)
  intro k
  induction k with
  | zero => exact fun _ => ⟨fun r hr => absurd hr (Nat.not_lt_zero r), fun _ _ _ => rfl⟩
  | succ k ih =>
    intro hk
    obtain ⟨hput, hrest⟩ := ih (by omega)
    rw [List.range_succ, List.foldl_append]
    generalize (List.range k).foldl (s.putRank n sp) s = t at hput hrest
    have hx := hfree _ (List.getElem_mem (show k < sp.cores.length by omega))
    rw [← List.getD_eq_getElem _ 0] at hx
    obtain ⟨x, hx⟩ := Option.isSome_iff_exists.1 hx
    have hlt := freeCtx_lt hx
    have htx : t.freeCtx (sp.cores.getD k 0) = some x := (hrest k (Nat.le_refl k) (by omega)).trans hx
    refine ⟨fun r hr => ?_, fun r hkr hr => ?_⟩
    · obtain rfl | hrk := Nat.eq_or_lt_of_le (Nat.le_of_lt_succ hr)
      · simp only [List.foldl_cons, List.foldl_nil, State.putRank, htx, Option.getD_some]
        exact ⟨x, _, hx, blk?_setBlk .., rfl, rfl⟩
      · obtain ⟨y, b, hy, hb, hstat, hinfo⟩ := hput r hrk
        refine ⟨y, b, hy, ?_, hstat, hinfo⟩
        simp only [List.foldl_cons, List.foldl_nil, State.putRank, htx, Option.getD_some]
        rw [blk?_setBlk_other, hb]
        have hc := hne r k (by omega) (by omega) (by omega)
        have := freeCtx_lt hy
        unfold blkKey
        omega
    · simp only [List.foldl_cons, List.foldl_nil, State.putRank, htx, Option.getD_some]
      rw [freeCtx_setBlk_other hlt (hne r k (by omega) (by omega) (by omega)), hrest r (by omega) hr]

theorem putBlocks_places (hd : sp.cores.Nodup) (hfree : ∀ c ∈ sp.cores, (s.freeCtx c).isSome = true) {r : Nat} (hr : r < sp.cores.length) :
    s.HasRank (s.putBlocks n sp) n sp r :=
  (putRanks_places hd hfree _ (Nat.le_refl _)).1 r hr

end

/-! ### A gang placed (R112, R116) -/

/-- A decision, made or taken off the log, touches nothing but the recorder. -/
theorem decided_same (s : State) (event : Nat) (n : ArmNode) (arg cluster mask core : Nat) (faulted : Bool) :
    ∃ r, s.decided event n arg cluster mask core faulted = { s with recd := r } := by
  unfold State.decided
  split
  · exact ⟨_, rfl⟩
  · exact ⟨_, (recordPlace_recdOnly ..).same⟩

theorem notePlace_same (s : State) (n : ArmNode) (cluster : Nat) :
    ∃ l, s.notePlace n cluster = { s with stoker := { s.stoker with place := l } } := by
  unfold State.notePlace
  split
  · exact ⟨s.stoker.place, rfl⟩
  · exact ⟨_, rfl⟩

section
variable {s : State} {n : ArmNode} {sp : Spot}

/-- What placing a gang leaves: the gang itself, its node, and the blocks as they were put. -/
theorem placeGang_leaves (hn : n ∈ s.stoker.nodes) :
    (∃ g, (s.placeGang n sp).stoker.gangs = s.stoker.gangs ++ [g] ∧ g.id = s.stoker.nextGang ∧ g.slot = n.slot ∧ g.seq = n.seq ∧
      g.node = n.addr ∧ g.index = n.placed ∧ g.cluster = sp.cluster) ∧
    { n with placed := n.placed + 1 } ∈ (s.placeGang n sp).stoker.nodes ∧
    (s.placeGang n sp).blks = ((s.switchBanks sp.cluster sp.switch).putBlocks n sp).blks := by
  have hsw := (putBlocks_stoker (s.switchBanks sp.cluster sp.switch) n sp).trans (switchBanks_banksOnly s sp.cluster sp.switch).stoker
  unfold State.placeGang
  extract_lets members gang mask arg s1 m out k s2
  obtain ⟨l, hl⟩ := notePlace_same ((s.switchBanks sp.cluster sp.switch).putBlocks n sp) n sp.cluster
  have hs1 : s1.stoker = { s.stoker with place := l } := by
    rw [← hsw, show s1 = _ from hl]
  have hblks : s1.blks = ((s.switchBanks sp.cluster sp.switch).putBlocks n sp).blks := by rw [show s1 = _ from hl]
  obtain ⟨r, hr⟩ := decided_same (s2.setNode m) (n.kind - 1) n arg sp.cluster mask 0 false
  rw [hr]
  refine ⟨⟨gang, ?_, rfl, rfl, rfl, rfl, rfl, rfl⟩, mem_setNode ⟨n, ?_, ?_⟩, hblks⟩
  · change s1.stoker.gangs ++ [gang] = _
    rw [hs1]
  · change n ∈ s1.stoker.nodes
    rw [hs1]
    exact hn
  · exact ⟨rfl, rfl, rfl⟩

theorem placeGang_blocks (hn : n ∈ s.stoker.nodes) (hd : sp.cores.Nodup) (hfree : ∀ c ∈ sp.cores, (s.freeCtx c).isSome = true)
    {r : Nat} (hr : r < sp.cores.length) : s.HasRank (s.placeGang n sp) n sp r := by
  have hsw := switchBanks_banksOnly s sp.cluster sp.switch
  have hf := freeCtx_of_keys hsw.keys
  obtain ⟨x, b, hx, hb, hstat, hinfo⟩ :=
    putBlocks_places (n := n) hd (fun c hc => by rw [hf]; exact hfree c hc) hr
  rw [hf] at hx
  rw [hsw.stoker] at hinfo
  refine ⟨x, b, hx, ?_, hstat, hinfo⟩
  unfold State.blk?
  rw [(placeGang_leaves hn).2.2]
  exact hb

end

/-! ### A node taken up (R101, R118) -/

/-- A node as it runs, beside the counts of its launches and iterations. -/
def ArmNode.RunsAs (n m : ArmNode) : Prop :=
  m = { n with state := 3, launches := m.launches, iter := m.iter, backLeft := m.backLeft, backLive := m.backLive }

section
variable {s : State} {n : ArmNode}

/-- A node that runs, or whose record can be written, goes on as one that runs. -/
theorem takeUp_runs (h : n.state = 3 ∨ Rules.RecordOpen s n) (hn : n ∈ s.stoker.nodes) (k : ArmNode → State → State) :
    ∃ m t, s.takeUp n k = k m t ∧ n.RunsAs m ∧ m ∈ t.stoker.nodes ∧ StokerStep s t ∧
      t.stoker.gangs = s.stoker.gangs ∧ t.stoker.nextGang = s.stoker.nextGang := by
  by_cases h3 : n.state = 3
  · refine ⟨n, s, takeUp_running h3 k, ?_, hn, .refl s, rfl, rfl⟩
    unfold ArmNode.RunsAs
    rw [← h3]
  · obtain ⟨pa, hr⟩ := h.resolve_left h3
    obtain ⟨t, ht, hs, -⟩ := withNode_record (new := n.taken) hr rfl rfl n (k n.taken)
    refine ⟨n.taken, t.setNode n.taken, ?_, rfl, mem_setNode ⟨n, ?_, ?_⟩, hs.stokerStep.trans (setNode_stokerStep ..), ?_, ?_⟩
    · unfold State.takeUp
      rw [if_neg h3]
      exact ht
    · rw [hs.stoker]
      exact hn
    · exact ⟨rfl, rfl, rfl⟩
    · rw [← hs.stoker]
      rfl
    · rw [← hs.stoker]
      rfl

/-- Live, a dispatcher takes up the node it has chosen. -/
theorem dispatch_chosen {α : Type} {kind : Nat} {d d1 : Dispatcher} {keep : Dispatcher → Stoker → Stoker} {spot : ArmNode → Option α}
    {forced : ArmNode → DWord → Option (Option α)} {place : ArmNode → α → State → State} {x : α} (hr : s.replaying = false)
    (ho : s.dispatchOpen d = true)
    (hc : s.choose d ((s.readyNodes kind).filterMap fun n => (spot n).map fun x => (n, x)) = some (n, x, d1)) :
    s.dispatch kind d keep spot forced place = ({ s with stoker := keep d1 s.stoker } : State).takeUp n fun m t => place m x t := by
  unfold State.dispatch
  rw [ho, hr, hc]
  rfl

end

/-! ### The dispatchers (R108 to R113, R116, R118) -/

/-- What a dispatch of a node's next gang leaves: the gang, a block in a free context of each core, and the node. -/
def State.GangPlaced (s : State) (n : ArmNode) (sp : Spot) (st : BlkStat) (u : State) : Prop :=
  (∃ g, u.stoker.gangs = s.stoker.gangs ++ [g] ∧ g.id = s.stoker.nextGang ∧ g.slot = n.slot ∧ g.seq = n.seq ∧ g.node = n.addr ∧
    g.index = n.placed ∧ g.cluster = sp.cluster) ∧
  (∀ r, r < sp.cores.length → ∃ x b, s.freeCtx (sp.cores.getD r 0) = some x ∧ u.blk? (sp.cores.getD r 0) x = some b ∧
    b.stat = st ∧ b.info.gangId = s.stoker.nextGang ∧ b.info.rank = r ∧ b.info.node = n.addr ∧ b.info.g = n.placed) ∧
  ∃ m ∈ u.stoker.nodes, m.slot = n.slot ∧ m.addr = n.addr ∧ m.state = 3 ∧ m.placed = n.placed + 1

section
variable {s t : State} {n m : ArmNode} {sp : Spot}

/-- A gang of a node that runs is placed in a state with the same blocks, gangs and gang number. -/
theorem placeGang_placed (hm : n.RunsAs m) (hn : m ∈ t.stoker.nodes) (hb : t.blks = s.blks) (hg : t.stoker.gangs = s.stoker.gangs)
    (hi : t.stoker.nextGang = s.stoker.nextGang) (hd : sp.cores.Nodup) (hfree : ∀ c ∈ sp.cores, (s.freeCtx c).isSome = true) :
    s.GangPlaced n sp (if n.kind = 2 then .resident else .admitted) (t.placeGang m sp) := by
  have hf := freeCtx_of_keys (s := s) (u := t) (by unfold State.blkKeys; rw [hb])
  obtain ⟨hgang, hnode, -⟩ := placeGang_leaves (sp := sp) hn
  have hblocks : ∀ r < sp.cores.length, t.HasRank (t.placeGang m sp) m sp r := fun r =>
    placeGang_blocks hn hd fun c hc => by rw [hf]; exact hfree c hc
  rw [hg, hi] at hgang
  generalize t.placeGang m sp = u at hgang hnode hblocks
  rw [hm] at hgang hnode hblocks
  refine ⟨hgang, fun r hr => ?_, ⟨_, hnode, rfl, rfl, rfl, rfl⟩⟩
  obtain ⟨x, b, hx, hxb, hstat, hinfo⟩ := hblocks r hr
  rw [hf] at hx
  rw [hi] at hinfo
  exact ⟨x, b, hx, hxb, hstat, by rw [hinfo]; rfl, by rw [hinfo]; rfl, by rw [hinfo]; rfl, by rw [hinfo]; rfl⟩

/-- The dispatcher's own count is no part of what a node's record needs. -/
theorem recordOpen_kept {k : Stoker} (h : n.state = 3 ∨ Rules.RecordOpen s n) :
    n.state = 3 ∨ Rules.RecordOpen { s with stoker := k } n :=
  h.imp_right (withStoker_stokerStep s k).recordOpen

theorem gangDispatch_places {d : Dispatcher} (hr : s.replaying = false) (h : n.state = 3 ∨ Rules.RecordOpen s n)
    (hn : n ∈ s.stoker.nodes) (hback : s.banksBack = s) (ho : s.dispatchOpen s.stoker.kern = true) (hk : n.kind = 1)
    (hd : sp.cores.Nodup) (hfree : ∀ c ∈ sp.cores, (s.freeCtx c).isSome = true)
    (hc : s.choose s.stoker.kern ((s.readyNodes 1).filterMap fun n => (s.kernelSpot n).map fun x => (n, x)) = some (n, sp, d)) :
    ∃ u, exec .gangDispatch s = .next u ∧ s.GangPlaced n sp .admitted u := by
  obtain ⟨m, t, ht, hm, hmem, hs, hg, hi⟩ := takeUp_runs (recordOpen_kept (k := { s.stoker with kern := d }) h) hn
    fun m t => t.placeGang m sp
  have hp := placeGang_placed (sp := sp) hm hmem hs.blks hg hi hd hfree
  rw [if_neg (by omega)] at hp
  refine ⟨_, ?_, hp⟩
  rw [← ht]
  change execGangDispatch s = _
  unfold execGangDispatch
  rw [hback]
  exact congrArg _ (dispatch_chosen hr ho hc)

theorem copyNodeDispatch_places {d : Dispatcher} (hr : s.replaying = false) (h : n.state = 3 ∨ Rules.RecordOpen s n)
    (hn : n ∈ s.stoker.nodes) (ho : s.dispatchOpen s.stoker.copy = true) (hk : n.kind = 2)
    (hd : sp.cores.Nodup) (hfree : ∀ c ∈ sp.cores, (s.freeCtx c).isSome = true)
    (hc : s.choose s.stoker.copy ((s.readyNodes 2).filterMap fun n => (s.copySpot n).map fun x => (n, x)) = some (n, sp, d)) :
    ∃ u, exec .copyNodeDispatch s = .next u ∧ s.GangPlaced n sp .resident u := by
  obtain ⟨m, t, ht, hm, hmem, hs, hg, hi⟩ := takeUp_runs (recordOpen_kept (k := { s.stoker with copy := d }) h) hn
    fun m t => ({ t with mem := { t.mem with invCopies := [] } } : State).placeGang m sp
  have hp := placeGang_placed (t := { t with mem := { t.mem with invCopies := [] } }) (sp := sp) hm hmem hs.blks
    hg hi hd hfree
  rw [if_pos hk] at hp
  refine ⟨_, ?_, hp⟩
  rw [← ht]
  exact congrArg _ (dispatch_chosen hr ho hc)

theorem placeColl_leaves (hm : m ∈ t.stoker.nodes) (engine : Nat) :
    ∃ k, (t.placeColl m engine).colls = t.colls ++ [k] ∧ k.engine = engine ∧ k.ctx = m.ctx ∧ k.desc = m.param ∧
      k.node = some (m.slot, m.seq, m.addr) ∧ { m with placed := 1 } ∈ (t.placeColl m engine).stoker.nodes := by
  unfold State.placeColl
  extract_lets out coll k s1
  obtain ⟨r, hr⟩ := decided_same (s1.setNode { m with placed := 1 }) 2 m engine 0 0 0 false
  rw [hr]
  refine ⟨coll, rfl, rfl, rfl, rfl, rfl, mem_setNode ⟨m, hm, ?_⟩⟩
  exact ⟨rfl, rfl, rfl⟩

theorem collNodeDispatch_places {d : Dispatcher} (hr : s.replaying = false) (h : n.state = 3 ∨ Rules.RecordOpen s n)
    (hn : n ∈ s.stoker.nodes) (ho : s.dispatchOpen s.stoker.coll = true)
    (hc : s.choose s.stoker.coll ((s.readyNodes 3).filterMap fun n => some (n, s.collEngine)) = some (n, s.collEngine, d)) :
    ∃ u k, exec .collNodeDispatch s = .next u ∧ u.colls = s.colls ++ [k] ∧ k.engine = s.collEngine ∧ k.ctx = n.ctx ∧
      k.desc = n.param ∧ k.node = some (n.slot, n.seq, n.addr) ∧
      ∃ m ∈ u.stoker.nodes, m.slot = n.slot ∧ m.addr = n.addr ∧ m.state = 3 ∧ m.placed = 1 := by
  obtain ⟨m, t, ht, hm, hmem, hs, -⟩ := takeUp_runs (recordOpen_kept (k := { s.stoker with coll := d }) h) hn
    fun m t => t.placeColl m s.collEngine
  obtain ⟨k, hcolls, hleft⟩ := placeColl_leaves hmem s.collEngine
  refine ⟨t.placeColl m s.collEngine, k, ?_, hcolls.trans (congrArg (· ++ [k]) hs.colls), ?_⟩
  · rw [← ht]
    exact congrArg _ (dispatch_chosen (spot := fun _ => some s.collEngine) hr ho hc)
  · generalize t.placeColl m s.collEngine = u at hleft
    rw [hm] at hleft
    obtain ⟨heng, hctx, hdesc, hnode, hp⟩ := hleft
    exact ⟨heng, hctx, hdesc, hnode, _, hp, rfl, rfl, rfl, rfl⟩

end

/-- What the three dispatchers do with the node they have chosen. -/
theorem nodesAreDispatched : Rules.NodesAreDispatched := by
  intro s n hr _ h hn placed free
  exact ⟨fun sp d hback ho hk hfree hc => gangDispatch_places hr h hn hback ho hk hfree.1 hfree.2 hc,
    fun sp d ho hk hfree hc => copyNodeDispatch_places hr h hn ho hk hfree.1 hfree.2 hc,
    fun d ho _ hc => collNodeDispatch_places hr h hn ho hc⟩

end Sys2Proof.Machine
end

section
/-! Gangs made resident, parked and restored, and the take-over of the control core (O26, R114, R115, R120, R121, R286, R293). -/

namespace Sys2Proof.Machine

/-! ### Gangs as the Stoker holds them -/

section
variable {s : State} {g x : Gang}

/-- A gang of a number that the Stoker holds is there once it is set. -/
theorem mem_setGang (hg : g ∈ s.stoker.gangs) (hx : g.id = x.id) : x ∈ (s.setGang x).stoker.gangs :=
  List.mem_map.2 ⟨g, hg, if_pos hx⟩

/-- A decision on a gang touches nothing but the recorder. -/
theorem gangDecided_same (s : State) (event : Nat) (g : Gang) (arg core : Nat) (faulted : Bool) :
    ∃ r, s.gangDecided event g arg core faulted = { s with recd := r } := by
  unfold State.gangDecided
  split
  · exact ⟨s.recd, rfl⟩
  · exact decided_same ..

theorem mem_of_nextIn {l : List Gang} {kept : List Nat} (h : s.nextIn kept l = some g) : g ∈ l := by
  induction l generalizing kept with
  | nil => cases h
  | cons x l ih =>
    unfold State.nextIn at h
    dsimp only at h
    split at h
    · exact List.mem_cons_of_mem _ (ih h)
    · split at h
      · cases h
        exact List.mem_cons_self
      · exact List.mem_cons_of_mem _ (ih h)

theorem mem_of_waiters {cluster : Nat} (h : g ∈ s.waiters cluster) : g ∈ s.stoker.gangs :=
  (List.mem_filter.1 (List.mem_mergeSort.1 h)).1

theorem blk?_of_gangBlks {m : Nat × Nat × Blk} (h : m ∈ s.gangBlks g) : s.blk? m.1 m.2.1 = some m.2.2 := by
  obtain ⟨p, -, hm⟩ := List.mem_filterMap.1 h
  obtain ⟨b, hb, rfl⟩ := Option.map_eq_some_iff.1 hm
  exact hb

/-! ### Residency (R114, R115) -/

/-- A member's block as its gang's residency leaves it. -/
def State.resided (s : State) (g : Gang) (b : Blk) : Blk :=
  if s.newGang g then { b with stat := .resident, startAt := s.tick, wdogAt := s.tick } else { b with stat := .restorable }

/-- Blocks put in their contexts one by one, each context always with the same block. -/
theorem blk?_foldl_setBlk {f : Blk → Blk} {l : List (Nat × Nat × Blk)} {m : Nat × Nat × Blk} (t : State)
    (hsame : ∀ k ∈ l, blkKey k.1 k.2.1 = blkKey m.1 m.2.1 → k.2.2 = m.2.2)
    (hm : m ∈ l ∨ t.blk? m.1 m.2.1 = some (f m.2.2)) :
    (l.foldl (fun t k => t.setBlk k.1 k.2.1 (f k.2.2)) t).blk? m.1 m.2.1 = some (f m.2.2) := by
  induction l generalizing t with
  | nil => exact hm.resolve_left List.not_mem_nil
  | cons k l ih =>
    refine ih _ (fun j hj => hsame j (List.mem_cons_of_mem _ hj)) ?_
    by_cases hk : blkKey m.1 m.2.1 = blkKey k.1 k.2.1
    · right
      rw [← hsame k List.mem_cons_self hk.symm]
      unfold State.blk? State.setBlk
      rw [hk]
      exact nget_nput_same ..
    · refine hm.imp (fun h => (List.mem_cons.1 h).resolve_left fun he => hk (by rw [he])) fun h => ?_
      rw [blk?_setBlk_other hk]
      exact h

theorem foldl_setBlk_stoker {f : Blk → Blk} (l : List (Nat × Nat × Blk)) (t : State) :
    (l.foldl (fun t k => t.setBlk k.1 k.2.1 (f k.2.2)) t).stoker = t.stoker := by
  induction l generalizing t with
  | nil => rfl
  | cons k l ih => exact ih _

/-- What a gang made resident leaves. -/
theorem reside_leaves (hg : g ∈ s.stoker.gangs) :
    { g with resident := true, blockedAt := s.tick } ∈ (s.reside g).stoker.gangs ∧
      ∀ m ∈ s.gangBlks g, (s.reside g).blk? m.1 m.2.1 = some (s.resided g m.2.2) := by
  have hput : ∀ m ∈ s.gangBlks g, ((s.gangBlks g).foldl (fun t k => t.setBlk k.1 k.2.1 (s.resided g k.2.2)) s).blk? m.1 m.2.1 =
      some (s.resided g m.2.2) := fun m hm => by
    refine blk?_foldl_setBlk s (fun k hk he => ?_) (.inl hm)
    have hb := blk?_of_gangBlks hk
    unfold State.blk? at hb
    rw [he] at hb
    exact Option.some.inj (hb.symm.trans (blk?_of_gangBlks hm))
  have hstk := foldl_setBlk_stoker (f := s.resided g) (s.gangBlks g) s
  have he : s.reside g =
      if s.newGang g then
        { ((s.gangBlks g).foldl (fun t k => t.setBlk k.1 k.2.1 (s.resided g k.2.2)) s).setGang
            { g with resident := true, blockedAt := s.tick } with
          mem := { ((s.gangBlks g).foldl (fun t k => t.setBlk k.1 k.2.1 (s.resided g k.2.2)) s).mem with invCopies := [] } }
      else (((s.gangBlks g).foldl (fun t k => t.setBlk k.1 k.2.1 (s.resided g k.2.2)) s).setGang
        { g with resident := true, blockedAt := s.tick }).gangDecided 7 g g.index 0 false := rfl
  generalize (s.gangBlks g).foldl (fun t k => t.setBlk k.1 k.2.1 (s.resided g k.2.2)) s = t at hput hstk he
  have hmem : { g with resident := true, blockedAt := s.tick } ∈ (t.setGang { g with resident := true, blockedAt := s.tick }).stoker.gangs :=
    mem_setGang (g := g) (by rw [hstk]; exact hg) rfl
  rw [he]
  split
  · exact ⟨hmem, hput⟩
  · obtain ⟨r, hr⟩ := gangDecided_same (t.setGang { g with resident := true, blockedAt := s.tick }) 7 g g.index 0 false
    rw [hr]
    exact ⟨hmem, hput⟩

theorem onFenced_none (hc : s.mem.fencedCores = []) (hb : s.mem.fencedBanks = []) (core : Nat) (b : Blk) : s.onFenced core b = false := by
  simp [State.onFenced, hc, hb]

theorem exec_gangMakeResident (hh : s.recd.halted = false) (hc : s.mem.fencedCores = []) (hb : s.mem.fencedBanks = [])
    (hn : s.nextIn [] (s.waiters s.arg.a) = some g) : exec .gangMakeResident s = .next (s.reside g) := by
  change execGangMakeResident s = _
  unfold execGangMakeResident
  simp only [onFenced_none hc hb, hn, hh, Bool.and_false, Bool.false_and, Bool.false_eq_true, if_false, List.filter_false, List.map_nil,
    List.map_const', List.flatten_replicate_nil]

end

/-! ### Parking (R114, R286) -/

section
variable {s : State} {g : Gang} {b : Blk}

/-- A block's parties have no tag fault to report where none is recorded. -/
theorem flushTag_of_none {core bctx : Nat} (hb : s.blk? core bctx = some b) (h : ∀ p ∈ b.thrs, p.2.tagRec = none) (w : Nat) :
    s.flushTag core bctx w = s := by
  unfold State.flushTag
  split
  · rfl
  · rename_i t ht
    unfold State.thr? at ht
    rw [hb] at ht
    rw [h _ (mem_of_nget ht)]

theorem writeImage_leaves (s : State) (core bctx : Nat) (b : Blk) (reason : Nat) :
    (s.writeImage core bctx b reason).stoker = s.stoker ∧ (s.writeImage core bctx b reason).tick = s.tick ∧
      (s.writeImage core bctx b reason).blk? core bctx = some { b with imgSeed := s.fresh } := by
  have hj : JournalOnly s ((s.imgParts core bctx b reason s.fresh).foldl (fun t p => t.put (imageBase core bctx + p.1) p.2) s) :=
    .foldl (fun t p => put_journalOnly ..) _ _
  unfold State.writeImage
  exact ⟨by rw [hj.same]; rfl, by rw [hj.same]; rfl, blk?_setBlk ..⟩

theorem gangParked_leaves (hg : g ∈ s.stoker.gangs) :
    { g with resident := false, since := s.tick } ∈ (s.gangParked g).stoker.gangs ∧ (s.gangParked g).blks = s.blks := by
  unfold State.gangParked
  dsimp only
  obtain ⟨r, hr⟩ := gangDecided_same (s.setGang { g with resident := false, since := s.tick }) 6 g g.index 0
    ((s.gangBlks g).any fun m => m.2.2.faultPark)
  rw [hr]
  exact ⟨mem_setGang (g := g) hg rfl, rfl⟩

/-- The block of a member as its park leaves it in the image's state. -/
def State.parkedBlk (s : State) (b : Blk) : Blk := { b with stat := .parked, wdog := 0, wdogAt := s.tick, imgSeed := s.fresh }

theorem exec_blockParkComplete {reason : Nat} (hb : s.blk? s.arg.a s.arg.b = some b) (hw : s.parkWhy s.arg.a s.arg.b b = some reason)
    (hg : (s.stoker.gangs.find? fun g => g.id == b.info.gangId) = some g) (hd : s.drained b = true) (hr : s.replaying = false)
    (ht : ∀ p ∈ b.thrs, p.2.tagRec = none) :
    exec .blockParkComplete s = .next
      (if ((s.gangBlks g).filter fun m => (m.1, m.2.1) != (s.arg.a, s.arg.b)).all fun m => m.2.2.stat == .parked then
        ((s.writeImage s.arg.a s.arg.b b reason).setBlk s.arg.a s.arg.b (s.parkedBlk b)).gangParked g
      else (s.writeImage s.arg.a s.arg.b b reason).setBlk s.arg.a s.arg.b (s.parkedBlk b)) := by
  have hagrees : ∀ f, s.parkAgrees g f = true := fun f => by simp [State.parkAgrees, hr]
  have hflush : b.thrs.foldl (fun t p => t.flushTag s.arg.a s.arg.b p.1) s = s :=
    List.foldl_fixed' (fun p => flushTag_of_none hb ht p.1) _
  change execBlockParkComplete s = _
  unfold execBlockParkComplete
  simp only [hb, hw, hg, hd, hagrees, hflush, modBlk_eq (writeImage_leaves s s.arg.a s.arg.b b reason).2.2, Option.getD_some,
    Bool.not_true, Bool.and_false, Bool.false_eq_true, if_false]
  rfl

theorem blockParkComplete_parks {reason : Nat} (hb : s.blk? s.arg.a s.arg.b = some b) (hw : s.parkWhy s.arg.a s.arg.b b = some reason)
    (hg : (s.stoker.gangs.find? fun g => g.id == b.info.gangId) = some g) (hd : s.drained b = true) (hr : s.replaying = false)
    (ht : ∀ p ∈ b.thrs, p.2.tagRec = none) :
    ∃ u b', exec .blockParkComplete s = .next u ∧ u.blk? s.arg.a s.arg.b = some b' ∧ b'.stat = .parked ∧ b'.thrs = b.thrs ∧
      ((∀ m ∈ s.gangBlks g, (m.1, m.2.1) ≠ (s.arg.a, s.arg.b) → m.2.2.stat = .parked) →
        { g with resident := false, since := s.tick } ∈ u.stoker.gangs) := by
  have he := exec_blockParkComplete hb hw hg hd hr ht
  obtain ⟨hstk, htick, -⟩ := writeImage_leaves s s.arg.a s.arg.b b reason
  generalize s.writeImage s.arg.a s.arg.b b reason = t at he hstk htick
  obtain ⟨hgang, hblks⟩ := gangParked_leaves (s := t.setBlk s.arg.a s.arg.b (s.parkedBlk b)) (g := g)
    (by rw [setBlk_stoker, hstk]; exact List.mem_of_find?_eq_some hg)
  split_ifs at he with hall
  · refine ⟨_, s.parkedBlk b, he, ?_, rfl, rfl, fun _ => ?_⟩
    · unfold State.blk?
      rw [hblks]
      exact blk?_setBlk ..
    · rw [← htick]
      exact hgang
  · refine ⟨_, s.parkedBlk b, he, blk?_setBlk .., rfl, rfl, fun hparked => absurd (List.all_eq_true.2 fun m hm => ?_) hall⟩
    obtain ⟨hm, hne⟩ := List.mem_filter.1 hm
    simpa using hparked m hm (by simpa using hne)

end

/-! ### Restoring (R289, R293, R294) -/

/-- Two states with the same blocks and contexts. -/
def State.SamePlaces (s u : State) : Prop := u.blks = s.blks ∧ u.host.ctxs = s.host.ctxs

theorem wake_samePlaces (s : State) (e : Enrol) : s.SamePlaces (s.wake e) := by
  have hg := gather_aside { s with mem := { s.mem with enrols := s.mem.enrols.filter (· != e) } } (lineOf e.addr)
  unfold State.wake
  generalize State.gather { s with mem := { s.mem with enrols := s.mem.enrols.filter (· != e) } } (lineOf e.addr) = t at hg
  have ht : s.SamePlaces t := ⟨by rw [hg.same], by rw [hg.same]⟩
  split
  · exact ht
  · exact ht

theorem wakeBlock_samePlaces (s : State) (b : Blk) : s.SamePlaces (s.wakeBlock b) := by
  unfold State.wakeBlock
  generalize s.mem.enrols.filter _ = l
  induction l generalizing s with
  | nil => exact ⟨rfl, rfl⟩
  | cons e l ih =>
    obtain ⟨hb, hc⟩ := wake_samePlaces s e
    obtain ⟨gb, gc⟩ := ih (s.wake e)
    exact ⟨gb.trans hb, gc.trans hc⟩

/-- A block that has been resumed in its context: resident and not at a stop, its streams with no trap to deliver, under a context that
has a handler. -/
def State.Resumed (s : State) (core bctx : Nat) (i : NodeInfo) : Prop :=
  (s.ctx i.ctx).vec ≠ 0 ∧ ∃ b, s.blk? core bctx = some b ∧ b.stat = .resident ∧ b.svc = false ∧ b.info = i ∧
    ∀ w t, 32 ≤ w → b.thr? w = some t → t.trapQ = []

section
variable {s u : State} {core bctx : Nat} {i : NodeInfo}

theorem State.Resumed.same (h : s.Resumed core bctx i) (hs : s.SamePlaces u) : u.Resumed core bctx i := by
  obtain ⟨hv, b, hb, hrest⟩ := h
  refine ⟨?_, b, ?_, hrest⟩
  · unfold State.ctx
    rw [hs.2]
    exact hv
  · unfold State.blk?
    rw [hs.1]
    exact hb

theorem State.Resumed.foldl {α : Type} {f : State → α → State} (hf : ∀ s a, State.Resumed s core bctx i → (f s a).Resumed core bctx i)
    (l : List α) (h : s.Resumed core bctx i) : (l.foldl f s).Resumed core bctx i := by
  induction l generalizing s with
  | nil => exact h
  | cons a l ih => exact ih (hf s a h)

theorem nget_map_values {α β : Type} (f : Nat × α → Nat × β) (hf : ∀ p, (f p).1 = p.1) (m : NMap α) (k : Nat) :
    nget (m.map f) k = (nget m k).map fun x => (f (k, x)).2 := by
  induction m with
  | nil => rfl
  | cons p m ih =>
    obtain ⟨j, x⟩ := p
    have hj := hf (j, x)
    rw [List.map_cons]
    unfold nget
    by_cases h : j = k
    · subst h
      simp [hj]
    · simp [hj, h, ih]

theorem putS_foldl_same (v : DWord) (l : List (Nat × Nat)) (b : Blk) :
    ∃ x y, l.foldl (fun b d => b.putS d.1 v d.2) b = { b with s := x, sWriter := y } := by
  induction l generalizing b with
  | nil => exact ⟨b.s, b.sWriter, rfl⟩
  | cons d l ih =>
    obtain ⟨x, y, h⟩ := ih (b.putS d.1 v d.2)
    refine ⟨x, y, h.trans ?_⟩
    unfold Blk.putS
    split <;> rfl

/-- What a phaser that wakes lanes leaves of a block: all but its uniform registers and where its lanes stand. -/
theorem blk?_wakePhaser {b : Blk} (h : s.blk? core bctx = some b) (n phase : Nat) :
    ∃ b', (s.wakePhaser n phase).blk? core bctx = some b' ∧ b'.stat = b.stat ∧ b'.svc = b.svc ∧ b'.info = b.info ∧
      ∀ w t, b'.thr? w = some t → ∃ t', b.thr? w = some t' ∧ t.trapQ = t'.trapQ := by
  unfold State.blk? at h ⊢
  unfold State.wakePhaser
  extract_lets hit
  rw [nget_map_values _ (fun p => by dsimp only; split <;> rfl), h, Option.map_some]
  refine ⟨_, rfl, ?_⟩
  split_ifs
  · extract_lets dsts b1
    obtain ⟨x, y, hb1⟩ := putS_foldl_same (BitVec.ofNat 64 phase) dsts b
    rw [show b1 = _ from hb1]
    refine ⟨rfl, rfl, rfl, fun w t ht => ?_⟩
    unfold Blk.thr? at ht ⊢
    rw [nget_map_values _ (by exact fun _ => rfl)] at ht
    obtain ⟨t', ht', rfl⟩ := Option.map_eq_some_iff.1 ht
    exact ⟨t', ht', rfl⟩
  · exact ⟨rfl, rfl, rfl, fun w t ht => ⟨t, ht, rfl⟩⟩

theorem State.Resumed.wakePhaser (h : s.Resumed core bctx i) (n phase : Nat) : (s.wakePhaser n phase).Resumed core bctx i := by
  obtain ⟨hv, b, hb, hst, hsvc, hi, hq⟩ := h
  obtain ⟨b', hb', hst', hsvc', hi', ht⟩ := blk?_wakePhaser hb n phase
  refine ⟨hv, b', hb', hst'.trans hst, hsvc'.trans hsvc, hi'.trans hi, fun w t hw h => ?_⟩
  obtain ⟨t', h', hqq⟩ := ht w t h
  exact hqq.trans (hq w t' hw h')

theorem State.Resumed.resumeParty (h : s.Resumed core bctx i) (w : Nat) : (s.resumeParty core bctx w).Resumed core bctx i := by
  obtain ⟨hv, b, hb, hst, hsvc, hi, hq⟩ := id h
  unfold State.resumeParty
  split
  · rename_i hw
    unfold State.nextTrap
    simp only [hb, hst, hsvc, hi, hv, bne_self_eq_false, Bool.or_self, Bool.false_eq_true, if_false]
    split
    · exact h
    · split
      · exact h
      · refine ⟨hv, _, blk?_setBlk .., hst, hsvc, hi, fun v t hv' ht => ?_⟩
        rw [thr?_setThr_other (by omega)] at ht
        exact hq v t hv' ht
  · rename_i hw
    have hnone : ((s.thr? core bctx w).bind fun t => t.trapQ.head?) = none := by
      unfold State.thr?
      rw [hb]
      refine Option.bind_eq_none_iff.2 fun t ht => ?_
      rw [hq w t (by omega) ht]
      rfl
    rw [hnone]
    exact h

/-- A restored block whose faults have been answered, in its context again. -/
def State.resumedBlk (s : State) (b : Blk) : Blk :=
  { b with
    stat := .resident, svc := false, parkReason := 0, wdog := 0, wdogAt := s.tick
    thrs := b.thrs.map fun p => (p.1, p.2.restored) }

theorem setBlk_resumed {b : Blk} (hv : (s.ctx b.info.ctx).vec ≠ 0) (hq : ∀ p ∈ b.thrs, 32 ≤ p.1 → p.2.trapQ = []) :
    (s.setBlk core bctx (s.resumedBlk b)).Resumed core bctx b.info := by
  refine ⟨hv, _, blk?_setBlk .., rfl, rfl, rfl, fun w t hw ht => ?_⟩
  unfold Blk.thr? State.resumedBlk at ht
  rw [nget_map_values _ (by exact fun _ => rfl)] at ht
  obtain ⟨t', ht', rfl⟩ := Option.map_eq_some_iff.1 ht
  unfold Thr.restored
  dsimp only
  rw [hq _ (mem_of_nget ht') hw]
  rfl

/-- A block all of whose faults have been answered is resumed (R293, R294). -/
theorem resume_resumed {b : Blk} (ha : s.answered core b = true) (hv : (s.ctx b.info.ctx).vec ≠ 0)
    (hq : ∀ p ∈ b.thrs, 32 ≤ p.1 → p.2.trapQ = []) : (s.resume core bctx b).Resumed core bctx b.info := by
  have he : s.resume core bctx b = (b.thrs.map fun p => p.1).foldl (fun t w => t.resumeParty core bctx w)
      (((s.setBlk core bctx (s.resumedBlk b)).wakeBlock b).phasers.foldl (fun t p => t.wakePhaser p.1 p.2.phase)
        ((s.setBlk core bctx (s.resumedBlk b)).wakeBlock b)) := by
    unfold State.resume
    rw [ha]
    rfl
  rw [he]
  exact .foldl (fun t w ht => ht.resumeParty w) _
    (.foldl (fun t p ht => ht.wakePhaser ..) _ ((setBlk_resumed hv hq).same (wakeBlock_samePlaces ..)))

theorem blockRestore_restores {b : Blk} (hb : s.blk? s.arg.a s.arg.b = some b) (hcopy : b.info.isCopy = false) (hst : b.stat = .restorable)
    (ho : s.owed b = false) (hh : s.recd.halted = false) (hm : s.imgMatches s.arg.a s.arg.b b.info = true)
    (hv : (s.ctx b.info.ctx).vec ≠ 0) (ha : s.answered s.arg.a (s.imgBlk s.arg.a s.arg.b b) = true)
    (hq : ∀ p ∈ (s.imgBlk s.arg.a s.arg.b b).thrs, 32 ≤ p.1 → p.2.trapQ = []) :
    ∃ u b', exec .blockRestore s = .next u ∧ u.blk? s.arg.a s.arg.b = some b' ∧ b'.stat = .resident ∧ b'.svc = false ∧
      b'.info = b.info := by
  have he : exec .blockRestore s = .next (((s.imgScaleIn (s.arg.a, s.arg.b) s.arg.a (s.imgBlk s.arg.a s.arg.b b)).resume s.arg.a s.arg.b
      (s.imgBlk s.arg.a s.arg.b b)).bump) := by
    change execBlockRestore s = _
    unfold execBlockRestore
    simp [hb, hcopy, hst, ho, hh, hm]
  obtain ⟨-, b', hb', hst', hsvc, hi, -⟩ := resume_resumed
    (s := s.imgScaleIn (s.arg.a, s.arg.b) s.arg.a (s.imgBlk s.arg.a s.arg.b b)) (bctx := s.arg.b) ha hv hq
  exact ⟨_, b', he, hb', hst', hsvc, hi⟩

theorem blockRestore_kills {b : Blk} (hb : s.blk? s.arg.a s.arg.b = some b) (hcopy : b.info.isCopy = false) (hst : b.stat = .restorable)
    (ho : s.owed b = false) (hh : s.recd.halted = false) (hm : s.imgMatches s.arg.a s.arg.b b.info = false) :
    exec .blockRestore s = .next (s.kill b.info.ctx .contextKilled) := by
  change execBlockRestore s = _
  unfold execBlockRestore
  simp [hb, hcopy, hst, ho, hh, hm]

end

/-! ### Take-over (R120, R121) -/

section
variable {s t : State}

theorem Aside.dev (h : Aside s t) : t.dev = s.dev := by rw [h.same]

theorem readEntry_unreadable_aside {q : QSlot} (h : s.readEntry q = .unreadable t) : Aside s t := by
  have hmem : ∀ line, Aside s (((s.homeEcc line s.arg.ecc).capTouch line 0 true false (s.arg.reply == .poisonRefused) s.arg.ecc).gather line) :=
    fun line => ((homeEcc_aside ..).trans (capTouch_aside ..)).trans (gather_aside ..)
  unfold State.readEntry at h
  dsimp only at h
  split_ifs at h
  · split at h
    · cases h
      exact .refl s
    · split_ifs at h
      cases h
      exact hmem _
  · cases h
    exact emit_aside ..
  · split at h
    · split_ifs at h
    · cases h

/-- The repair of a slot leaves the device's own registers. -/
theorem repairSlot_dev {n : Nat} (h : s.repairSlot n = some t) : t.dev = s.dev := by
  unfold State.repairSlot at h
  dsimp only at h
  split at h
  · split_ifs at h
    · cases h
      rfl
    · cases h
      rfl
    · split at h
      · rename_i v bs hread
        cases h
        exact (readEntry_aside hread).dev
      · rename_i v hread
        cases h
        exact (readEntry_unreadable_aside hread).dev
      · cases h
  · cases h
    rfl

/-- The repair of one slot in turn, after those before it. -/
def State.repairNext (t : Option State) (p : Nat × QSlot) : Option State := if p.2.en then t.bind fun x => x.repairSlot p.1 else t

theorem foldl_repairNext_none (l : List (Nat × QSlot)) : l.foldl State.repairNext none = none := by
  refine List.foldl_fixed' (fun p => ?_) l
  unfold State.repairNext
  split <;> rfl

theorem foldl_repairNext_dev {l : List (Nat × QSlot)} (h : l.foldl State.repairNext (some s) = some t) : t.dev = s.dev := by
  induction l generalizing s with
  | nil =>
    cases h
    rfl
  | cons p l ih =>
    rw [List.foldl_cons] at h
    cases hn : State.repairNext (some s) p with
    | none =>
      rw [hn, foldl_repairNext_none] at h
      cases h
    | some u =>
      rw [hn] at h
      have hu : u.dev = s.dev := by
        unfold State.repairNext at hn
        split_ifs at hn
        · exact repairSlot_dev hn
        · cases hn
          rfl
      exact (ih h).trans hu

theorem repairSlots_dev (h : s.repairSlots = some t) : t.dev = s.dev := foldl_repairNext_dev h

theorem jrnHeads_journalOnly (s : State) : JournalOnly s s.jrnHeads := by
  unfold State.jrnHeads
  refine .foldl (fun u p => ?_) _ s
  split
  · exact jrnRaw_journalOnly ..
  · exact .refl u

/-- After the steps of a take-over forwarding goes on, and every enabled slot is kicked. -/
theorem takenOver_leaves (h : s.repairSlots = some t) : s.takenOver.stoker.forwarding = true ∧ s.takenOver.dev = s.dev ∧
    ∀ p ∈ s.takenOver.host.slots, p.2.en = true → p.2.kick = true := by
  unfold State.takenOver
  rw [h]
  dsimp -zeta only
  extract_lets u k v w
  have hw : JournalOnly v w := (jrnHeads_journalOnly v).trans (jrnRaw_journalOnly ..)
  refine ⟨rfl, ?_, fun p hp hen => ?_⟩
  · change w.dev = s.dev
    rw [← repairSlots_dev h, hw.same]
    rfl
  · change p ∈ w.host.slots at hp
    rw [hw.same] at hp
    obtain ⟨q, -, rfl⟩ := List.mem_map.1 hp
    change (q.2.kick || q.2.en) = true
    rw [show q.2.en = true from hen, Bool.or_true]

/-- The entry that the failed core had just recorded, recorded. -/
def State.entryTaken (s : State) : State :=
  if !s.arg.flag || decide (256 ≤ s.arg.a) || !s.serves (s.slot s.arg.a) then s
  else match ({ s with arg := { s.arg with flag := s.arg.flag2 } } : State).readEntry (s.slot s.arg.a) with
    | .bytes t bs => if (qEntry bs).seq = (s.slot s.arg.a).head then ({ t with arg := s.arg } : State).entryRecord s.arg.a (s.slot s.arg.a) bs
      else s
    | _ => s

theorem entryTaken_dev (s : State) : s.entryTaken.dev = s.dev := by
  unfold State.entryTaken
  split
  · rfl
  · split
    · rename_i t bs h
      have ht := (readEntry_aside h).dev
      split
      · rw [(entryRecord_journalOnly (s := { t with arg := s.arg }) ..).aside.dev]
        exact ht
      · rfl
    · rfl

section
variable (h1 : 1 ≤ s.dev.stage.toNat) (h4 : s.dev.stage.toNat ≤ 4)
include h1 h4

theorem exec_controlCoreTakeover : exec .controlCoreTakeover s = .next
    (if s.arg.b = 1 then if s.stoker.forwarding then s else s.takenOver
    else if !s.dev.standby then s.fatal
    else { s.entryTaken with
      dev := { s.entryTaken.dev with activeCore := 1 - s.entryTaken.dev.activeCore, standby := false }
      stoker := { s.entryTaken.stoker with forwarding := false } }) := by
  have hstage : ¬(s.dev.stage = 0 ∨ 5 ≤ s.dev.stage.toNat) := by
    rintro (h | h)
    · rw [h] at h1
      exact absurd h1 (by decide)
    · omega
  change execControlCoreTakeover s = _
  unfold execControlCoreTakeover
  rw [if_neg hstage]
  simp only [apply_ite Host.Outcome.next]
  rfl

end

end

/-- How gangs go in and out, and what a take-over does. -/
theorem gangsComeAndGo : Rules.GangsComeAndGo := by
  intro s
  refine ⟨fun g hh hc hb hn _ => ?_, fun b reason g hb hw hg hd hr ht => blockParkComplete_parks hb hw hg hd hr ht,
    fun b hb hcopy hst ho hh => ⟨fun hm hv ha hq => blockRestore_restores hb hcopy hst ho hh hm hv ha hq, fun hm hk => ?_⟩,
    fun h1 h4 => ⟨fun ha hs => ?standby, fun ha hs => ?alone, fun ha hf hr => ?taken, fun ha hf => ?running⟩⟩
  · exact ⟨_, exec_gangMakeResident hh hc hb hn, reside_leaves (mem_of_waiters (mem_of_nextIn hn))⟩
  · exact ⟨_, blockRestore_kills hb hcopy hst ho hh hm, kill_killed hk _⟩
  all_goals have he := exec_controlCoreTakeover h1 h4
  case standby =>
    rw [if_neg ha, if_neg (by simp [hs])] at he
    exact ⟨_, he, by rw [entryTaken_dev], rfl, rfl⟩
  case alone =>
    rw [if_neg ha, hs] at he
    exact ⟨_, he, rfl, rfl⟩
  case taken =>
    obtain ⟨t, ht⟩ := Option.isSome_iff_exists.1 hr
    rw [if_pos ha, hf] at he
    exact ⟨_, he, takenOver_leaves ht⟩
  case running =>
    rw [if_pos ha, hf] at he
    exact he

/-- Settles O26: each dispatcher places the node it has chosen, gangs go in and out of residency block by block, and a take-over brings
the control core back. -/
theorem gangsAreScheduled : Obligations.GangsAreScheduled := ⟨nodesAreDispatched, gangsComeAndGo⟩

end Sys2Proof.Machine
end
